-- ==== Sys2Proof/Word.lean ====
section
/-! DEFINITION. Words of the device: bytes, registers and the status-word widths the manual gives. -/

namespace Sys2Proof

/-- One byte of memory, of a packet or of a record (R3). -/
abbrev Byte := BitVec 8

/-- A 32-bit register, result word or entry. -/
abbrev Word32 := BitVec 32

/-- A 64-bit register, time counter or entry. -/
abbrev Word64 := BitVec 64

/-- Values by number, in one canonical form: numbers strictly rising, no entry equal to the default.
A register the manual indexes (`SPL.GOT[g]`) and the Spool's bytes are both held so. -/
abbrev Tab (α : Type) := List (Nat × α)

end Sys2Proof
end

