-- ==== Sys2Proof/Terms.lean ====
section
/-! DEFINITION. The types of the commands' operands: status codes, requesters, command packets and the answers that
come from outside the device. -/

namespace Sys2Proof

/-- Status codes (R104). -/
inductive Status where
  | ok | busy | retryLater | lenRange | bounds | denied | keyInvalid | pageFaultHeld | contextFault | poison
  | memberLost | poolFull | fenced | timeout | crossStall | keyExhausted | queueDisabled | checkFail | opcode
  | partitionMismatch | epochStale | aborted
  deriving DecidableEq, Repr

/-- The skein a command came from: a partition's admin skein, or an ordinary skein by its device-wide number. -/
inductive SkeinRef where
  | admin (part : Nat)
  | ord (skein : Nat)
  deriving DecidableEq, Repr

/-- A requester of a register access: a partition with a requester class (R5, R126). -/
structure Requester where
  part : Nat
  cls : Nat
  deriving DecidableEq, Repr

/-- What a read outside the Spool returned: host memory, an accelerator or a peer window answers with a status and
bytes, and both come with the command that made the read. -/
structure ExtRead where
  pa : Nat
  status : Status
  bytes : List Byte
  deriving DecidableEq, Repr

/-- What a queue pair's send time brings: what reads outside the Spool return, and whether a slot of a Reed engine's push is read with
an error (R187, R249). -/
structure PacedReads where
  ext : List ExtRead := []
  corrupt : Bool := false
  deriving DecidableEq, Repr

/-- A packet's job for a cipher core: the packet's bytes, with the key slot it names (R388). -/
structure PacketJob where
  slot : Nat
  bytes : Nat
  deriving DecidableEq, Repr

/-- A command as it reaches the unit that executes it: the skein and partition it came from (R102), the skein's head
after its fetch (R103), its packet (R97), what the reads it makes outside the Spool return, and its number in the order in which
the processors have fetched commands, which tells it from every other (R105). -/
structure Cmd where
  skein : SkeinRef
  part : Nat
  sqHead : Nat
  packet : List Byte
  ext : List ExtRead
  id : Nat := 0
  deriving DecidableEq, Repr

/-- A Weft flit (R17): the fields of its sideband, the check bits as they stand on the wires, and 64 bytes of payload. -/
structure Flit where
  dest : Nat
  src : Nat
  ctx : Nat
  vc : Nat
  pos : Nat
  stream : Nat
  kind : Nat
  par : Nat
  spar : Nat
  payload : List Byte
  deriving DecidableEq, Repr

/-- A Weft message: its flits in order (R17, R19). -/
structure WeftMsg where
  flits : List Flit
  deriving DecidableEq, Repr

/-- The indivisible 8-byte operations the device's chapters name (R147, R281, R348). -/
inductive AtomOp where
  | add | swap | cmpSwap | min | max | and | or | xor
  deriving DecidableEq, Repr

/-- What a request asks of a Spool controller (R44). -/
inductive SpoolKind where
  | read (len : Nat)
  | write (data : List Byte) (poison : Bool)
  | atomic (op : AtomOp) (operand compare : Nat)
  deriving DecidableEq, Repr

/-- A device request as it reaches a Spool controller: the sideband's source and context (R17), the offset, what is
asked, the erroneous bits of each codeword the decoder meets (line number; bits 0 to 511 of the data, 512 to 575 of the check
value, R38), and whether the granule entry or the context-map entry it is checked against has bad parity (R458). -/
structure SpoolReq where
  src : Nat
  ctx : Nat
  off : Nat
  kind : SpoolKind
  errs : List (Nat × List Nat)
  badGranule : Bool
  badCtx : Bool
  deriving DecidableEq, Repr

/-- A CXL.mem request of a host: port, device physical address of a line, the data where it writes, its poison
indication, whether the host may modify the line it reads, and the erroneous bits of the codeword met (R38, R53, R60). -/
structure HostMemReq where
  port : Nat
  off : Nat
  data : Option (List Byte)
  poison : Bool
  own : Bool
  errs : List Nat
  deriving DecidableEq, Repr

/-- Access kinds of a translation (R70, R73). -/
inductive Access where
  | read | write | atomic
  deriving DecidableEq, Repr

/-- A request for a translation: the Heddle and holder, the context, the partition and object whose work needs it (R73,
R91), the address and length, and whether an incoming packet raised it. `otype` is 0 queue pair, 1 skein, 2 none. -/
structure Lookup where
  heddle : Nat
  holder : Nat
  ctx : Nat
  part : Nat
  va : Nat
  len : Nat
  access : Access
  object : Nat
  otype : Nat
  remote : Bool
  /-- The collective operation that needs it: its communicator and `OPSEQ`. -/
  op : Option (Nat × Nat) := none
  deriving DecidableEq, Repr

/-- An access to the BAR2 of a partition's function (R108): the port the function is on, the offset, the bytes, whether it reads, and
the value written. -/
structure Doorbell where
  part : Nat
  port : Nat
  off : Nat
  size : Nat
  read : Bool
  value : Nat
  deriving DecidableEq, Repr

/-- How a peer-window read or read-back ends on the bus (R337). -/
inductive PeerEnd where
  | success | unsupported | completerAbort | timeout
  deriving DecidableEq, Repr

/-- What a Bobbin's own checks meet as it issues an instruction (R257, R286): nothing, a double-bit error in the scratch
word it loads, or an upset of its datapath or its control state. -/
inductive BobErr where
  | none
  | scratchOne
  | scratch
  | dualRail (stage : Nat)
  | shadow
  | scalar
  | parity
  deriving DecidableEq, Repr

/-- How a stream unit's transfer goes (R257, R262): the CRC mismatches met before it passes, and whether scratch has a
double-bit error, or a single-bit one. With `line` only that 64-byte line of the unit moves (R264). -/
structure UnitCheck where
  crcBad : Nat
  scratch : Bool
  single : Bool := false
  line : Option Nat := none
  deriving DecidableEq, Repr

/-- What a Tchiolmeo training step finds (R343, R355): step 3 whether only one group of lanes works, or none; step 4 the
link version, the accelerator's ID and the credits it grants. -/
structure TchTraining where
  half : Bool
  noLock : Bool
  version : Nat
  accId : Nat
  hdr : Nat
  rsp : Nat
  data : Nat
  deriving DecidableEq, Repr

/-- What a host's access of a function addresses (R330): the register window of BAR0/1, the MSI-X BAR4/5, or configuration space. -/
inductive RegSpace where
  | bar0 | bar4 | config
  deriving DecidableEq, Repr

/-- A register access through the register window (R5, R125), or of a function's BAR4/5 or configuration space (R330). -/
structure RegAccess where
  who : Requester
  addr : Nat
  size : Nat
  write : Bool
  value : Nat
  space : RegSpace := .bar0
  deriving DecidableEq, Repr

/-- A regulator as the board configuration lists it (R420): PMBus address, role, set point in mV and the exponent of its
`VOUT_MODE`. -/
structure BoardVr where
  addr : Nat
  role : Nat
  vsetMv : Nat
  exponent : Nat
  deriving DecidableEq, Repr

/-- What a step of a start finds (R433 to R435): whether its own check passes, the dies that passed built-in test, the stacks
trained in full in a warm start, the regulator table, and the version of the resident images. -/
structure StartInfo where
  pass : Bool
  dies : Nat
  retrained : Nat
  regs : List BoardVr
  setVer : Nat
  deriving DecidableEq, Repr

/-- What one poll of a regulator reads (R420): nothing where it did not acknowledge or a check failed, else `STATUS_WORD` and
the raw words of `READ_VOUT`, `READ_IOUT` and `READ_POUT`. -/
structure PmbPoll where
  vr : Nat
  words : Option (Nat × Nat × Nat × Nat)
  deriving DecidableEq, Repr

/-- A temperature sensor (R516): a switched domain's, a die's always-on island's, or the hottest DRAM layer of a stack. -/
inductive Sensor where
  | domain (x : Nat)
  | island (die : Nat)
  | dram (stack : Nat)
  deriving DecidableEq, Repr

/-- Where a contribution comes from: the device-side input, an accelerator, the member at a rank, or the member's own
partial in the work buffer (R213). -/
inductive RedSrc where
  | inVa
  | acc (port : Nat)
  | rank (r : Nat)
  | work
  deriving DecidableEq, Repr

/-- A fault a Reed engine's own checker finds in a step (R250 to R253). -/
inductive RedFault where
  | dualRail (stage : Nat)
  | shadow (lane : Nat)
  | modCheck (found : Nat)
  deriving DecidableEq, Repr

end Sys2Proof
end

