-- ==== Sys2Proof/Syntax.lean ====
section
/-! DEFINITION. The commands of the block: one constructor per row of the table of operations and events. -/

namespace Sys2Proof

/-- A command: an operation or event of the device (95_what_each_step_holds.md), one row of the table each. -/
inductive Instr where
  /-- `REGISTER_WRITE` (R125). A BAR0, SMBus, JTAG or firmware write to a register that has no row of its own is admitted by the owning unit's arbiter: half-access latching, reserved-encoding refusal and conflict recording included. -/
  | registerWrite (a : RegAccess)
  /-- `WEFT_MESSAGE_RECEIVE` (R18). A Weft router receives a message, checks PAR and SPAR, and delivers it, or discards it with a CHECK_FAIL response and a report. -/
  | weftMessageReceive (die chan : Nat) (m : WeftMsg)
  /-- `WEFT_CREDIT_RETURN` (R21). A receiver frees a buffer entry and the sender regains a credit, letting a waiting flit go. -/
  | weftCreditReturn (die chan vc : Nat)
  /-- `WEFT_TIMEOUT` (R23). An outstanding Weft request times out, returning TIMEOUT to the requester and writing an error record. -/
  | weftTimeout (id : Nat)
  /-- `TIME_SAMPLE` (R32). Command: resample the correlation table for every present die. -/
  | timeSample (c : Cmd)
  /-- `TIME_SAMPLE_REPLY` (R30). A die's time-sample reply arrives, and offset and uncertainty are stored in FRM.TIME_CORR. -/
  | timeSampleReply (die : Nat)
  /-- `TIME_PAIR` (R33). Command: return the frame counter with the host time unchanged. -/
  | timePair (c : Cmd)
  /-- `SPOOL_REQUEST` (R44). A Spool controller admits a read, write, read-modify-write or atomic, after the granule context check of R53, and serves it. -/
  | spoolRequest (r : SpoolReq)
  /-- `HOST_CXL_MEM_REQUEST` (R53). A host CXL.mem read or write arrives at a Spool controller and is checked against HOST, the snoop filter and poison. -/
  | hostCxlMemRequest (h : HostMemReq)
  /-- `BIRSP` (R60). A back-invalidate response arrives, and the waiting device request is admitted. -/
  | birsp (id : Nat)
  /-- `BI_TIMEOUT` (R61). A back-invalidate timeout expires: the waiting request completes with TIMEOUT and an error record is written. -/
  | biTimeout (id : Nat)
  /-- `SCRUB_LINE_STEP` (R49). A paced patrol scrub reads and decodes one line index, writing back corrections and poisoning uncorrectable lines. -/
  | scrubLineStep (stack : Nat) (errs : List (Nat × List Nat))
  /-- `TABLE_COPY_UPDATE` (R54). A granule-owner or context-map change reaches a Spool controller or Heddle and is applied in one arbiter event. -/
  | tableCopyUpdate (unit : Nat)
  /-- `ZEROING_COMPLETE` (R59). A controller finishes zeroing its share of a released granule range. -/
  | zeroingComplete (stack : Nat)
  /-- `GRANULE_ASSIGN` (R58). Command: assign a range of FREE granules to a partition. -/
  | granuleAssign (c : Cmd)
  /-- `GRANULE_RELEASE` (R59). Command: release OWNED granules through ZEROING to FREE. -/
  | granuleRelease (c : Cmd)
  /-- `CTX_ASSIGN` (R65). Command: assign disabled contexts to a partition. -/
  | ctxAssign (c : Cmd)
  /-- `CTX_CONFIG` (R81). Command: configure a context descriptor, withdrawing first if it is enabled. -/
  | ctxConfig (c : Cmd)
  /-- `CTX_DISABLE` (R81). Command: withdraw a whole context and disable it. -/
  | ctxDisable (c : Cmd)
  /-- `HDL_WITHDRAW` (R78). Command: bump the epoch and withdraw cached translations of a range from every Heddle and holder. -/
  | hdlWithdraw (c : Cmd)
  /-- `REGION_REGISTER` (R85). Command: allocate a region index and return its key. -/
  | regionRegister (c : Cmd)
  /-- `REGION_REVOKE` (R198). Command: bump a region's generation and revoke the key at every Heddle. -/
  | regionRevoke (c : Cmd)
  /-- `PF_QUEUE_CONFIG` (R94). Command: configure or deconfigure the partition's page-fault queue. -/
  | pfQueueConfig (c : Cmd)
  /-- `PF_RESOLVE` (R87). Command: resolve a pending fault with RETRY or FAIL, releasing its waiters. -/
  | pfResolve (c : Cmd)
  /-- `PF_HELD_LIST` (R96). Command: write the partition's held list to a buffer. -/
  | pfHeldList (c : Cmd)
  /-- `PF_RELEASE_HELD` (R92). Command: release a held queue pair or skein. -/
  | pfReleaseHeld (c : Cmd)
  /-- `TRANSLATION_LOOKUP` (R76). A holder asks its Heddle for a translation: it hits in the cache or a table walk starts. -/
  | translationLookup (r : Lookup)
  /-- `TABLE_ENTRY_RETURN` (R73). A table-walk read returns and the walk advances, faults or delivers a translation under the checks of R73 and R77. -/
  | tableEntryReturn (walk : Nat) (ext : List ExtRead)
  /-- `HOLDER_ACK` (R78). A holder's last request under a withdrawn translation or a revoked key completes, and the holder acknowledges. -/
  | holderAck (id h holder : Nat)
  /-- `HOLDER_ACK_TIMEOUT` (R79). A holder has not acknowledged within 100 µs, so it is fenced and recorded. -/
  | holderAckTimeout (id h holder : Nat)
  /-- `HOLDER_FENCE_WAIT_EXPIRY` (R79). The further Weft-timeout wait after a holder fence ends, and the holder counts as acknowledged. -/
  | holderFenceWaitExpiry (id h holder : Nat)
  /-- `SQ_TAIL` (R109). A skein tail doorbell is applied at the owning processor. -/
  | sqTail (d : Doorbell)
  /-- `CQ_HEAD` (R113). A completion-queue head doorbell releases slots and may arm or send the interrupt. -/
  | cqHead (d : Doorbell)
  /-- `CTL` (R116). A write of a skein's CTL word enables or stops fetching. -/
  | ctl (d : Doorbell)
  /-- `ASQ_TAIL` (R109). An admin skein tail doorbell is applied. -/
  | asqTail (d : Doorbell)
  /-- `ACQ_HEAD` (R109). An admin completion-queue head doorbell is applied. -/
  | acqHead (d : Doorbell)
  /-- `EQ_HEAD` (R121). An event-queue head doorbell frees slots. -/
  | eqHead (d : Doorbell)
  /-- `JCQ_ADMIN_WRITE` (R117). A write of JCQ.ADMIN sets up the admin queues, restarts them or clears ERROR, subject to the refusals of R117. -/
  | jcqAdminWrite (a : RegAccess)
  /-- `SKEIN_SERVE` (R115). A processor visits its skeins by weighted round robin, admin skeins first, and issues entry fetches. -/
  | skeinServe (proc : Nat)
  /-- `SKEIN_ENTRY_RETURN` (R102). A fetched skein entry returns and the command is checked, then executed, forwarded or staged. -/
  | skeinEntryReturn (sk : SkeinRef) (ext : List ExtRead)
  /-- `ENGINE_CREDIT_GRANT` (R115). A target unit grants input credit, and a staged command is dispatched. -/
  | engineCreditGrant (unit n : Nat)
  /-- `COMMAND_COMPLETION` (R103). A unit reports a command complete: the completion entry is written once and the owner starts the next command to the object. -/
  | commandCompletion (n : Nat)
  /-- `MSIX_UNMASK` (R332). A host unmasks an MSI-X vector whose PBA bit is set, and one message is sent. -/
  | msixUnmask (part vector : Nat) (mask : Bool)
  /-- `NOP` (R123). Command: return the fetching processor's time. -/
  | nop (c : Cmd)
  /-- `SKEIN_CREATE` (R124). Command: create a skein and its completion queue. -/
  | skeinCreate (c : Cmd)
  /-- `SKEIN_MODIFY` (R124). Command: change weight and burst, or clear ERROR. -/
  | skeinModify (c : Cmd)
  /-- `SKEIN_DESTROY` (R124). Command: destroy an idle skein. -/
  | skeinDestroy (c : Cmd)
  /-- `QP_CREATE` (R135). Command: create a queue pair in INIT. -/
  | qpCreate (c : Cmd)
  /-- `QP_MODIFY` (R135). Command: move a queue pair between states or change its fields. -/
  | qpModify (c : Cmd)
  /-- `QP_DESTROY` (R139). Command: destroy a queue pair in RESET or ERROR. -/
  | qpDestroy (c : Cmd)
  /-- `QP_QUERY` (R138). Command: return a queue pair's state and counters. -/
  | qpQuery (c : Cmd)
  /-- `WRITE` (R143). Command: RDMA write to a remote region. -/
  | write (c : Cmd)
  /-- `READ` (R143). Command: RDMA read from a remote region. -/
  | read (c : Cmd)
  /-- `SEND` (R146). Command: send a message that consumes a remote RECV. -/
  | send (c : Cmd)
  /-- `RECV` (R145). Command: post a receive buffer from the receive pool. -/
  | recv (c : Cmd)
  /-- `FETCH_ADD` (R147). Command: remote 8-byte fetch-add. -/
  | fetchAdd (c : Cmd)
  /-- `CMP_SWAP` (R147). Command: remote 8-byte compare-swap. -/
  | cmpSwap (c : Cmd)
  /-- `REDUCE_PUSH` (R149). Command: push a contribution to a remote communicator's Reed engine. -/
  | reducePush (c : Cmd)
  /-- `UD_SEND` (R132). Command: send one unreliable datagram. -/
  | udSend (c : Cmd)
  /-- `NVME_IO` (R169). Command: build and send an NVMe-oF submission capsule. -/
  | nvmeIo (c : Cmd)
  /-- `PACED_SEND` (R187). A QP's pacing time arrives, and the serving engine builds and queues its next data packet on a chosen path. -/
  | pacedSend (qp : Nat) (reads : PacedReads)
  /-- `TXQ_ROOM` (R370). A full transmit queue gains room, and the QP that was set aside resumes. -/
  | txqRoom (qp : Nat)
  /-- `RX_WRITE` (R162). A WRITE packet is received, checked and its data written. -/
  | rxWrite (port : Nat) (frame : List Byte) (ext : List ExtRead)
  /-- `RX_READ_REQ` (R173). A READ_REQ is received and its response packets are produced. -/
  | rxReadReq (port : Nat) (frame : List Byte) (ext : List ExtRead)
  /-- `RX_READ_RESP` (R180). A READ_RESP is received, placed and acknowledges its PSN. -/
  | rxReadResp (port : Nat) (frame : List Byte) (ext : List ExtRead)
  /-- `RX_SEND` (R146). A SEND packet is received and placed against a posted RECV, or refused. -/
  | rxSend (port : Nat) (frame : List Byte) (ext : List ExtRead)
  /-- `RX_FETCH_ADD` (R147). A FETCH_ADD is received and executed or answered from the atomic record. -/
  | rxFetchAdd (port : Nat) (frame : List Byte) (ext : List ExtRead)
  /-- `RX_CMP_SWAP` (R147). A CMP_SWAP is received and executed or answered from the atomic record. -/
  | rxCmpSwap (port : Nat) (frame : List Byte) (ext : List ExtRead)
  /-- `RX_ATOMIC_RESP` (R180). An ATOMIC_RESP arrives and completes the atomic. -/
  | rxAtomicResp (port : Nat) (frame : List Byte) (ext : List ExtRead)
  /-- `RX_REDUCE_PUSH` (R220). A REDUCE_PUSH data packet arrives and is checked by the pick's engine, then accepted or NAK'd. -/
  | rxReducePush (port : Nat) (frame : List Byte) (ext : List ExtRead)
  /-- `RX_PUSH_RELEASE` (R221). A zero-length release control push arrives. -/
  | rxPushRelease (port : Nat) (frame : List Byte) (ext : List ExtRead)
  /-- `RX_PUSH_RECALL` (R221). A zero-length recall control push arrives, and the pick is pushed again. -/
  | rxPushRecall (port : Nat) (frame : List Byte) (ext : List ExtRead)
  /-- `RX_UD_SEND` (R146). A UD datagram arrives and lands in a posted RECV, or is discarded. -/
  | rxUdSend (port : Nat) (frame : List Byte) (ext : List ExtRead)
  /-- `RX_ACK` (R181). An ACK arrives: acknowledgement bits, SND_UNA, paths, rate control and fast retransmission are applied. -/
  | rxAck (port : Nat) (frame : List Byte) (ext : List ExtRead)
  /-- `RX_NAK` (R179). A NAK arrives: deferral, refusal with an abandon packet, or ERROR. -/
  | rxNak (port : Nat) (frame : List Byte) (ext : List ExtRead)
  /-- `RX_ABANDON` (R521). An abandon packet arrives, and its PSN is marked committed without execution. -/
  | rxAbandon (port : Nat) (frame : List Byte) (ext : List ExtRead)
  /-- `PACKET_COMMIT` (R152). All writes of an accepted packet become visible, and it commits (FLAG packets in PSN order), drawing an ACK if due. -/
  | packetCommit (qp : Nat) (psn : BitVec 32) (ext : List ExtRead)
  /-- `ACK_DELAY_EXPIRY` (R178). ACK_DELAY_US expires after the first unacknowledged accepted packet, and an ACK is sent. -/
  | ackDelayExpiry (qp : Nat)
  /-- `T_RTO_EXPIRY` (R182). The retransmission timer expires: retransmit, back off and cut the rate, or enter ERROR. -/
  | tRtoExpiry (qp : Nat)
  /-- `DEFER_EXPIRY` (R185). DEFER_UNTIL passes, and the deferred QP resends and resumes. -/
  | deferExpiry (qp : Nat)
  /-- `T_INC_EXPIRY` (R188). The rate-increase timer expires, and the next recovery or increase stage runs. -/
  | tIncExpiry (qp : Nat)
  /-- `NVME_TIMEOUT` (R171). An NVMe response timeout expires: the command completes with TIMEOUT and the QP enters ERROR. -/
  | nvmeTimeout (qp : Nat)
  /-- `ROCE_PACKET_RECEIVE` (R199). A RoCEv2 packet on port 4791 is received under the go-back-N rules, including CNPs and NVMe response capsules. -/
  | rocePacketReceive (port : Nat) (frame : List Byte) (ext : List ExtRead)
  /-- `CONTEXT_FETCH_COMPLETE` (R191). A QP context fetch returns to the slice, and parked packets and waiting work proceed, or the QP is poisoned under R194. -/
  | contextFetchComplete (qp : Nat) (uncorrectable : Bool)
  /-- `CACHE_WAY_UNPIN` (R190). An entry in a fully pinned set unpins, and a waiting request proceeds. -/
  | cacheWayUnpin (qp : Nat)
  /-- `COMM_CREATE` (R204). Command: create a communicator and reserve its pool slots. -/
  | commCreate (c : Cmd)
  /-- `ALL_REDUCE` (R208). Command: admit an all-reduce operation. -/
  | allReduce (c : Cmd)
  /-- `REDUCE_SCATTER` (R208). Command: admit a reduce-scatter operation. -/
  | reduceScatter (c : Cmd)
  /-- `ALL_GATHER` (R208). Command: admit an all-gather operation. -/
  | allGather (c : Cmd)
  /-- `REDUCE` (R208). Command: admit a reduce-to-root operation. -/
  | reduce (c : Cmd)
  /-- `BROADCAST` (R208). Command: admit a broadcast operation. -/
  | broadcast (c : Cmd)
  /-- `ALL_TO_ALL` (R208). Command: admit an all-to-all operation. -/
  | allToAll (c : Cmd)
  /-- `COMM_REFORM` (R226). Command: return a LOST communicator to ACTIVE under a new epoch. -/
  | commReform (c : Cmd)
  /-- `COMM_DESTROY` (R229). Command: free a communicator slot. -/
  | commDestroy (c : Cmd)
  /-- `COMM_QUERY` (R229). Command: return a communicator's state and sequence numbers. -/
  | commQuery (c : Cmd)
  /-- `COMM_MEMBER_LOST` (R224). Command: declare a member lost. -/
  | commMemberLost (c : Cmd)
  /-- `COMM_STATE_DELIVERY` (R203). A communicator state or epoch change reaches a Reed engine and is applied in one arbiter event. -/
  | commStateDelivery (comm engine : Nat)
  /-- `PEER_ENTRY_READ` (R205). A peer-table entry read returns and is accepted, or its rank is treated as lost. -/
  | peerEntryRead (comm rank : Nat) (ext : List ExtRead)
  /-- `CONTRIBUTION_BLOCK` (R249). A check block of a contribution reaches a Reed engine and is verified, decoded and accumulated. -/
  | contributionBlock (comm : Nat) (opseq : BitVec 32) (pick stage : Nat) (src : RedSrc) (off : Nat) (corrupt : Bool) (fault : Option RedFault) (ext : List ExtRead)
  /-- `PICK_COMMIT` (R222). A pick's reduction finishes: the modular check passes and the result is committed to work buffer, outputs and pushes. -/
  | pickCommit (comm : Nat) (opseq : BitVec 32) (pick stage seg refused : Nat) (fault : Option RedFault) (ext : List ExtRead)
  /-- `DATAPATH_STALL` (R253). A datapath stage sees no complete code within STALL_US, and the Reed engine or Bobbin is fenced. -/
  | datapathStall (unit stage : Nat)
  /-- `SHADOW_LANE_ADVANCE` (R252). 2^SHADOW_LOG2 steps pass, and the watched lane advances. -/
  | shadowLaneAdvance (engine : Nat)
  /-- `SOP` (R268). Bobbin instruction: scalar register-register operation. -/
  | sop (bobbin : Nat) (e : BobErr)
  /-- `SADDI` (R268). Bobbin instruction: add immediate. -/
  | saddi (bobbin : Nat) (e : BobErr)
  /-- `SANDI` (R268). Bobbin instruction: AND immediate. -/
  | sandi (bobbin : Nat) (e : BobErr)
  /-- `SSHI` (R268). Bobbin instruction: shift and insert immediate. -/
  | sshi (bobbin : Nat) (e : BobErr)
  /-- `SLD` (R268). Bobbin instruction: 64-bit scratch load. -/
  | sld (bobbin : Nat) (e : BobErr)
  /-- `SLW` (R268). Bobbin instruction: 32-bit scratch load. -/
  | slw (bobbin : Nat) (e : BobErr)
  /-- `SST` (R268). Bobbin instruction: 64-bit scratch store. -/
  | sst (bobbin : Nat) (e : BobErr)
  /-- `BR` (R269). Bobbin instruction: conditional branch. -/
  | br (bobbin : Nat) (e : BobErr)
  /-- `JAL` (R269). Bobbin instruction: jump and link. -/
  | jal (bobbin : Nat) (e : BobErr)
  /-- `JR` (R269). Bobbin instruction: jump to register. -/
  | jr (bobbin : Nat) (e : BobErr)
  /-- `VOP` (R271). Bobbin instruction: vector operation. -/
  | vop (bobbin : Nat) (e : BobErr)
  /-- `VOPS` (R271). Bobbin instruction: vector operation with scalar broadcast. -/
  | vops (bobbin : Nat) (e : BobErr)
  /-- `VCMP` (R272). Bobbin instruction: vector compare into a predicate. -/
  | vcmp (bobbin : Nat) (e : BobErr)
  /-- `POP` (R272). Bobbin instruction: predicate operation. -/
  | pop (bobbin : Nat) (e : BobErr)
  /-- `VRED` (R273). Bobbin instruction: vector reduction to a scalar. -/
  | vred (bobbin : Nat) (e : BobErr)
  /-- `VMOV` (R273). Bobbin instruction: broadcast, extract, insert or permute. -/
  | vmov (bobbin : Nat) (e : BobErr)
  /-- `VLD` (R273). Bobbin instruction: aligned vector load. -/
  | vld (bobbin : Nat) (e : BobErr)
  /-- `VST` (R273). Bobbin instruction: aligned vector store. -/
  | vst (bobbin : Nat) (e : BobErr)
  /-- `VLDU` (R273). Bobbin instruction: unaligned vector load. -/
  | vldu (bobbin : Nat) (e : BobErr)
  /-- `VDOT` (R274). Bobbin instruction: dot product into an accumulator. -/
  | vdot (bobbin : Nat) (e : BobErr)
  /-- `VDOTMX` (R275). Bobbin instruction: microscaled dot product. -/
  | vdotmx (bobbin : Nat) (e : BobErr)
  /-- `AOP` (R276). Bobbin instruction: accumulator read, write or clear. -/
  | aop (bobbin : Nat) (e : BobErr)
  /-- `VCVT` (R277). Bobbin instruction: vector format conversion. -/
  | vcvt (bobbin : Nat) (e : BobErr)
  /-- `MXQ` (R279). Bobbin instruction: quantise one MX block. -/
  | mxq (bobbin : Nat) (e : BobErr)
  /-- `MXD` (R279). Bobbin instruction: decode one MX block. -/
  | mxd (bobbin : Nat) (e : BobErr)
  /-- `SRD` (R280). Bobbin instruction: issue a stream read from the stack. -/
  | srd (bobbin : Nat) (e : BobErr)
  /-- `SWR` (R280). Bobbin instruction: issue a stream write to the stack. -/
  | swr (bobbin : Nat) (e : BobErr)
  /-- `SGTH` (R280). Bobbin instruction: issue a gather stream read. -/
  | sgth (bobbin : Nat) (e : BobErr)
  /-- `SWAIT` (R281). Bobbin instruction: wait for a stream tag. -/
  | swait (bobbin : Nat) (e : BobErr)
  /-- `SCRC` (R281). Bobbin instruction: read a scratch block's tag CRC. -/
  | scrc (bobbin : Nat) (e : BobErr)
  /-- `BAR` (R281). Bobbin instruction: arrive at a stack or gang barrier. -/
  | bar (bobbin : Nat) (e : BobErr)
  /-- `SATOM` (R281). Bobbin instruction: indivisible 8-byte stack operation. -/
  | satom (bobbin : Nat) (e : BobErr)
  /-- `FENCE` (R281). Bobbin instruction: wait until earlier streams and atomics are visible. -/
  | fence (bobbin : Nat) (e : BobErr)
  /-- `CKPT` (R281). Bobbin instruction: fence and commit a checkpoint. -/
  | ckpt (bobbin : Nat) (e : BobErr)
  /-- `HALT` (R281). Bobbin instruction: fence and stop the member with an exit code. -/
  | halt (bobbin : Nat) (e : BobErr)
  /-- `TIME` (R281). Bobbin instruction: read the die time counter. -/
  | time (bobbin : Nat) (e : BobErr)
  /-- `STREAM_UNIT_COMPLETE` (R262). A stream unit completes with its CRC checks, which may release an SWAIT or FENCE. -/
  | streamUnitComplete (bobbin stream unit : Nat) (check : UnitCheck)
  /-- `BARRIER_RELEASE` (R281). The last member in scope arrives or halts, and the barrier releases. -/
  | barrierRelease (bobbin : Nat)
  /-- `BOB_IMAGE_LOAD` (R288). Command: check and store a Bobbin image. -/
  | bobImageLoad (c : Cmd)
  /-- `BOB_IMAGE_UNLOAD` (R289). Command: unload an image handle. -/
  | bobImageUnload (c : Cmd)
  /-- `BOB_LAUNCH` (R291). Command: check and queue a launch, or a resident function. -/
  | bobLaunch (c : Cmd)
  /-- `BOB_STOP` (R296). Command: stop an outstanding launch. -/
  | bobStop (c : Cmd)
  /-- `LAUNCH_GRANT` (R292). All the Bobbins a queued launch needs become IDLE, and it is granted. -/
  | launchGrant (part : Nat)
  /-- `LAUNCH_LOAD_COMPLETE` (R294). A member's code and constants are loaded, and it starts at ENTRY. -/
  | launchLoadComplete (bobbin : Nat)
  /-- `BOBBIN_ZEROING_DONE` (R294). A Bobbin's scratch is zeroed after its launch completes, and it returns to IDLE. -/
  | bobbinZeroingDone (bobbin : Nat)
  /-- `LIMIT_MS_EXPIRY` (R285). A launch's time limit expires, and it stops with TIMEOUT. -/
  | limitMsExpiry (part launchId : Nat)
  /-- `SEQ_CREATE` (R304). Command: create a sequence entry. -/
  | seqCreate (c : Cmd)
  /-- `SEQ_DESTROY` (R304). Command: destroy an unreferenced sequence entry. -/
  | seqDestroy (c : Cmd)
  /-- `SEQ_QUERY` (R304). Command: return a sequence's capacity and references. -/
  | seqQuery (c : Cmd)
  /-- `H2D_SNOOP` (R335). A host snoop arrives at a CXL port and is answered. -/
  | h2dSnoop (x line : Nat) (inv : Bool)
  /-- `CXL_CACHE_COMPLETION` (R333). A CXL.cache request to host memory completes back at the device. -/
  | cxlCacheCompletion (id : Nat) (status : Status) (bytes : List Byte)
  /-- `PEER_COMPLETION` (R338). A peer-window read or read-back completes, with UR, CA or a completion timeout mapped to a status. -/
  | peerCompletion (id : Nat) (e : PeerEnd) (bytes : List Byte)
  /-- `CXL_LINK_DOWN` (R342). A CXL port goes down, failing its requests and dropping snoop-filter entries. -/
  | cxlLinkDown (x : Nat)
  /-- `CXL_LINK_UP` (R513). A CXL port finishes training and comes up. -/
  | cxlLinkUp (x rate width : Nat) (flit256 : Bool)
  /-- `PERST_ASSERT` (R515). PERSTx_N is asserted, taking the port down. -/
  | perstAssert (x : Nat)
  /-- `SPDM_REQUEST` (R441). An SPDM or CDAT request arrives over DOE and is answered. -/
  | spdmRequest (port : Nat) (cdat : Bool) (request : List Byte)
  /-- `FLIT_RECEIVE` (R346). A Tchiolmeo flit arrives: CRC, ACK, NAK, replay and credit return are handled. -/
  | flitReceive (port : Nat) (bytes : List Byte)
  /-- `TCH_READ` (R349). An accelerator READ transaction is checked and forwarded. -/
  | tchRead (port : Nat) (hdr : List Byte)
  /-- `TCH_WRITE` (R351). An accelerator WRITE transaction is checked and forwarded, ordered if marked. -/
  | tchWrite (port : Nat) (hdr data : List Byte)
  /-- `TCH_ATOMIC` (R348). An accelerator ATOMIC transaction is checked and forwarded. -/
  | tchAtomic (port : Nat) (hdr data : List Byte)
  /-- `TCH_REDUCE_PUSH` (R353). An accelerator contribution arrives and is checked against the communicator and its credit. -/
  | tchReducePush (port : Nat) (hdr data : List Byte)
  /-- `TCH_RESPONSE` (R351). A RESPONSE arrives on a Tchiolmeo port, completing a request and possibly releasing held ordered writes and signals. -/
  | tchResponse (port : Nat) (hdr data : List Byte)
  /-- `DOORBELL` (R352). An accelerator DOORBELL signal rings a skein of its partition. -/
  | doorbell (port : Nat) (hdr : List Byte)
  /-- `USER` (R352). An accelerator USER signal is forwarded to another port. -/
  | user (port : Nat) (hdr : List Byte)
  /-- `ACC_TMO_EXPIRY` (R354). A device request to an accelerator times out with TIMEOUT. -/
  | accTmoExpiry (port tag : Nat)
  /-- `TCH_TRAINING_STEP_DONE` (R355). A Tchiolmeo training step completes, and the next one begins or the port goes UP. -/
  | tchTrainingStepDone (port : Nat) (t : TchTraining)
  /-- `TCH_TRAINING_OVERRUN` (R355). A training step overruns its bound, and the port returns to DOWN. -/
  | tchTrainingOverrun (port : Nat)
  /-- `TCH_LINK_LOSS` (R356). A port leaves UP: requests fail and communicators go LOST. -/
  | tchLinkLoss (port : Nat)
  /-- `TCH_RETRAIN_RETRY` (R356). The once-per-second automatic retrain retry comes due. -/
  | tchRetrainRetry (port : Nat)
  /-- `APORT_BIND` (R350). Command: bind or unbind an accelerator port's context. -/
  | aportBind (c : Cmd)
  /-- `APORT_CTL` (R357). Command: retrain, disable or enable an accelerator port. -/
  | aportCtl (c : Cmd)
  /-- `ETH_FRAME_RECEIVE` (R363). A frame arrives at an Ethernet sub-port: FEC, FCS, length, address, filter, policer and destination steps; the Shuttle path starts with a slice lookup and may park the packet. -/
  | ethFrameReceive (port sub : Nat) (wire : List Byte) (corr uncorr : Nat)
  /-- `TX_FRAME_START` (R373). The scheduler chooses the next packet, and the MAC starts a frame once enough bytes are buffered. -/
  | txFrameStart (port sub buffered supplied : Nat)
  /-- `TX_FRAME_END` (R372). A frame's last bit leaves, completing an ETH_SEND or UD_SEND, and the root serves again. -/
  | txFrameEnd (port sub : Nat)
  /-- `SUBPORT_LINK_UP` (R359). A sub-port finishes training and comes UP. -/
  | subportLinkUp (port sub : Nat)
  /-- `SUBPORT_LINK_DOWN` (R362). A sub-port leaves UP and its queued packets are flushed. -/
  | subportLinkDown (port sub : Nat)
  /-- `ETH_SEND` (R374). Command: send one raw frame. -/
  | ethSend (c : Cmd)
  /-- `RULE_WRITE` (R364). A write of a filter rule's +8 register applies the rule in one event. -/
  | ruleWrite (a : RegAccess)
  /-- `POLICER_WRITE` (R366). A write of a policer's +8 register applies it and refills its buckets. -/
  | policerWrite (a : RegAccess)
  /-- `SHAPER_WRITE` (R371). A write of a group's or queue's +8 register applies the shaper and refills its buckets. -/
  | shaperWrite (a : RegAccess)
  /-- `TXMAP_WRITE` (R369). A write of ETH.TXMAP sets or refuses a partition's queue map. -/
  | txmapWrite (a : RegAccess)
  /-- `PORT_CTL_ENABLE` (R362). A write of PORT_CTL ENABLE starts or stops sub-port training. -/
  | portCtlEnable (a : RegAccess)
  /-- `LOW_POWER_SET` (R379). Setting LOW_POWER flushes the port and puts it into low power on lane 0. -/
  | lowPowerSet (a : RegAccess)
  /-- `LOW_POWER_CLEAR` (R380). Clearing LOW_POWER wakes the port. -/
  | lowPowerClear (a : RegAccess)
  /-- `PT_ADJ` (R377). A write of PT_ADJ adds a signed step to port time. -/
  | ptAdj (a : RegAccess)
  /-- `PT_SNAP` (R377). A write of PT_SNAP captures port time and die time together. -/
  | ptSnap (a : RegAccess)
  /-- `COUNTER_TOP_CLEAR` (R376). A W1C of a statistics counter's top bit subtracts 2^47 or 2^39. -/
  | counterTopClear (a : RegAccess)
  /-- `MGMT_FRAME_RECEIVE` (R381). The management MAC receives a frame for frame firmware. -/
  | mgmtFrameReceive (wire : List Byte)
  /-- `MGMT_COLLISION` (R382). A half-duplex collision causes a jam, back-off, or discard of the frame. -/
  | mgmtCollision (frame : List Byte) (atBit : Nat)
  /-- `MGMT_BACKOFF_EXPIRY` (R382). The collision back-off ends, and the frame is retried. -/
  | mgmtBackoffExpiry
  /-- `KEY_LOAD` (R390). Command: load a key slot in one scheduler event. -/
  | keyLoad (c : Cmd)
  /-- `KEY_DESTROY` (R395). Command: zero an unreferenced key slot. -/
  | keyDestroy (c : Cmd)
  /-- `KEY_QUERY` (R394). Command: return a slot's state and counter. -/
  | keyQuery (c : Cmd)
  /-- `GCM_SEAL` (R396). Command: AES-256-GCM seal a buffer. -/
  | gcmSeal (c : Cmd)
  /-- `GCM_OPEN` (R396). Command: AES-256-GCM open a buffer. -/
  | gcmOpen (c : Cmd)
  /-- `XTS_ENC` (R394). Command: AES-256-XTS encrypt data units. -/
  | xtsEnc (c : Cmd)
  /-- `XTS_DEC` (R394). Command: AES-256-XTS decrypt data units. -/
  | xtsDec (c : Cmd)
  /-- `CIPHER_JOB_ARRIVAL` (R391). A job reaches the cipher scheduler and is started, queued, or allowed to suspend a lower-class job. -/
  | cipherJobArrival (qp : Nat) (job : PacketJob)
  /-- `CIPHER_JOB_COMPLETE` (R391). A core finishes a job, and a waiting or suspended job starts. -/
  | cipherJobComplete (core : Nat)
  /-- `RES_SET` (R401). Command: reassign resources in close and move phases. -/
  | resSet (c : Cmd)
  /-- `PART_FREEZE` (R404). Command: freeze a partition. -/
  | partFreeze (c : Cmd)
  /-- `FREEZE_TIMEOUT` (R404). TMO_MS passes while freezing: outstanding commands abort and the partition becomes FROZEN. -/
  | freezeTimeout (part : Nat)
  /-- `PART_SAVE` (R405). Command: write a save image of a frozen partition. -/
  | partSave (c : Cmd)
  /-- `PART_RESTORE` (R407). Command: restore a partition from an image. -/
  | partRestore (c : Cmd)
  /-- `PART_THAW` (R403). Command: return a frozen partition to OPEN. -/
  | partThaw (c : Cmd)
  /-- `PART_CLEAR` (R405). Command: destroy a partition's objects and return its resources. -/
  | partClear (c : Cmd)
  /-- `PWR_SET` (R415). Command: change the power profile and budget. -/
  | pwrSet (c : Cmd)
  /-- `PWR_QUERY` (R428). Command: return power figures. -/
  | pwrQuery (c : Cmd)
  /-- `TOKEN_REQUEST` (R410). A unit with work requests tokens up to its MAX. -/
  | tokenRequest (unit part : Nat)
  /-- `TREADLE_STEP` (R413). The Treadle grants waiting requests against shares and floors and issues recalls. -/
  | treadleStep
  /-- `TOKEN_RETURN` (R410). A unit returns recalled tokens at its next step boundary. -/
  | tokenReturn (unit : Nat)
  /-- `IDLE_RELEASE_EXPIRY` (R410). A unit idle for IDLE_RELEASE_US returns tokens above its MIN. -/
  | idleReleaseExpiry (unit : Nat)
  /-- `DOMAIN_IDLE_EXPIRY` (R417). A domain's idle condition has held for IDLE_US, and it enters RETAIN or OFF. -/
  | domainIdleExpiry (x : Nat)
  /-- `DOMAIN_WAKE` (R418). A wake source reaches a sleeping domain and its wake begins. -/
  | domainWake (x : Nat)
  /-- `DOMAIN_WAKE_COMPLETE` (R418). A waking domain reaches ON, and held requests proceed. -/
  | domainWakeComplete (x : Nat)
  /-- `DOMAIN_POLICY_WRITE` (R417). A write of a domain's POLICY changes its idle policy, and 0 wakes it. -/
  | domainPolicyWrite (a : RegAccess)
  /-- `PMBUS_POLL` (R420). The 1 ms PMBus poll reads status and telemetry of each regulator. -/
  | pmbusPoll (polls : List PmbPoll)
  /-- `PMBUS_ALERT` (R421). SMBALERT# is asserted, and the faulting regulator is read and handled. -/
  | pmbusAlert (vr : Nat) (status : Option Nat)
  /-- `PACE_SAMPLE` (R422). Every 1024 counts a domain writes its measured pace. -/
  | paceSample (x pace : Nat)
  /-- `TEMPERATURE_SAMPLE` (R517). A junction or DRAM sensor is sampled, driving refresh doubling, throttling and trips. -/
  | temperatureSample (sensor : Sensor) (temp : BitVec 11)
  /-- `CROSS_STALL` (R425). A core-side transfer into an island is not taken within 4 µs and completes with CROSS_STALL. -/
  | crossStall (n requester : Nat)
  /-- `CORE_STALL` (R426). An island's crossing buffer stays full for 4 µs, and it applies its overflow rule. -/
  | coreStall (n : Nat)
  /-- `XSTALL_CLEAR` (R425). An island's clock detector counts 1024 clean periods after reset, and its stall bit clears. -/
  | xstallClear (n : Nat)
  /-- `POR_N_RELEASE` (R513). POR_N is released, and a cold start begins. -/
  | porNRelease (straps : Nat)
  /-- `POR_N_ASSERT` (R515). POR_N goes low, ending any start and dropping VR_EN. -/
  | porNAssert
  /-- `START_STEP_DONE` (R433). A cold or warm start step completes, and the next begins or READY sets. -/
  | startStepDone (step : Nat) (info : StartInfo)
  /-- `START_STEP_OVERRUN` (R435). A start step overruns its bound, and the start fails and is retried or safe mode entered. -/
  | startStepOverrun (step : Nat) (retrain : Bool)
  /-- `DEV_RESTART` (R432). Command: abort other commands and begin a cold or warm start. -/
  | devRestart (c : Cmd)
  /-- `RESTART_DEADLINE` (R432). 1 ms after DEV_RESTART dispatch, the start begins regardless of pending completion writes. -/
  | restartDeadline
  /-- `PACKAGE_RESET` (R485). 1 µs after a package reset request, the package resets and a warm start follows. -/
  | packageReset
  /-- `SAFE_EXIT` (R436). A write of SAFE_EXIT in safe mode starts a cold start. -/
  | safeExit (a : RegAccess)
  /-- `FW_DOWNLOAD` (R439). Command: write firmware into the unselected bank. -/
  | fwDownload (c : Cmd)
  /-- `FW_ACTIVATE` (R439). Command: verify and select the new bank. -/
  | fwActivate (c : Cmd)
  /-- `MBOX_GO` (R443). A write of GO delivers a mailbox message, or is refused or NACKed. -/
  | mboxGo (a : RegAccess)
  /-- `MBOX_SENDER_READ` (R444). An owner's read of the sender word clears FULL. -/
  | mboxSenderRead (a : RegAccess)
  /-- `MBOX_SEND` (R447). Command: send a mailbox message. -/
  | mboxSend (c : Cmd)
  /-- `MBOX_READ` (R447). Command: read a mailbox and clear FULL. -/
  | mboxRead (c : Cmd)
  /-- `LOCKSTEP_MISCOMPARE` (R469). The frame pair miscompares, holds outputs, records and performs a package reset. -/
  | lockstepMiscompare (unit step : Nat)
  /-- `FAULT_REPORT` (R450). A checker's report reaches the Selvedge, which fences the unit and its dependents, starts replay and writes a record. -/
  | faultReport
  /-- `COPY_COMPARE` (R458). Every COMPARE_MS table copies are compared with the reference and reloaded if they differ. -/
  | copyCompare (unit : Nat) (upset : Bool)
  /-- `TEST_SLICE_START` (R472). An idle unit begins a test-pattern slice. -/
  | testSliceStart (unit : Nat)
  /-- `TEST_SLICE_END` (R472). A test slice reaches TEST_SLICE_US and yields, with failed vectors fencing the unit. -/
  | testSliceEnd (unit ran : Nat) (failed : Option Nat)
  /-- `TEST_PERIOD_EXPIRY` (R472). A unit has not completed a full test pass within TEST_PERIOD_MS, and TEST_LATE is set. -/
  | testPeriodExpiry (unit : Nat)
  /-- `LOST_CLEAR` (R465). A write of 0xFFFF to a unit's LOST field clears it in one event. -/
  | lostClear (a : RegAccess)
  /-- `SAF_READ` (R473). Command: copy fault records to a buffer. -/
  | safRead (c : Cmd)
  /-- `SAF_ACK` (R473). Command: advance HEAD and free record slots. -/
  | safAck (c : Cmd)
  /-- `SAF_FENCE` (R474). Command: fence a unit by software. -/
  | safFence (c : Cmd)
  /-- `SAF_UNFENCE` (R456). Command: test and return a unit to service. -/
  | safUnfence (c : Cmd) (failed : Option Nat)
  /-- `SAF_TEST_LOAD` (R471). Command: verify and load a test-pattern package. -/
  | safTestLoad (c : Cmd)
  /-- `SAF_TEST_RUN` (R474). Command: run a full test pass on an idle unit. -/
  | safTestRun (c : Cmd) (failed : Option Nat)
  /-- `HEARTBEAT` (R476). Command: report the stalled units. -/
  | heartbeat (c : Cmd)
  /-- `HB_PERIOD_EXPIRY` (R477). No heartbeat has arrived for HB_PERIOD_MS, and HB_MISSED is set. -/
  | hbPeriodExpiry
  /-- `HANG_MODE` (R478). Command: select normal, test or recovery mode. -/
  | hangMode (c : Cmd)
  /-- `WFD_COLLECT` (R480). Every WFD_PERIOD_US the detector collects wait-for edges and reports a stable cycle. -/
  | wfdCollect
  /-- `UNIT_RESET` (R491). Command: reset a unit at a level, with or without replay. -/
  | unitReset (c : Cmd)
  /-- `RESET_REACHED` (R482). Every unit of a reset domain has stopped, and its work replays or aborts. -/
  | resetReached (unit : Nat)
  /-- `RESET_LEFT` (R482). A reset domain is ready for work again. -/
  | resetLeft (unit : Nat)
  /-- `RESET_ESCALATION` (R484). A reset has not reached reset within 1 ms, so the unit is marked hung and the next level is applied. -/
  | resetEscalation (unit : Nat) (stuck : List Nat)
  /-- `HANG_ISOLATE` (R487). Command: reset a hung unit and replay its suspects one by one. -/
  | hangIsolate (c : Cmd)
  /-- `ISOLATION_SUSPECT_TIMEOUT` (R487). A suspect makes no progress within ISO_TMO_MS and is found guilty. -/
  | isolationSuspectTimeout
  /-- `HANG_DUMP` (R489). Command: take a crash dump through the scan path. -/
  | hangDump (c : Cmd)
  /-- `DUMP_UNIT_TIMEOUT` (R489). A unit has not yielded its state within 10 µs and is marked hung and left unread. -/
  | dumpUnitTimeout
  /-- `DUMP_COPY` (R491). Command: copy the kept dump to a buffer. -/
  | dumpCopy (c : Cmd)
  /-- `RESET_CTL_UNIT` (R485). A write of FRM.RESET_CTL with LEVEL 0 to 2 resets a unit without a command. -/
  | resetCtlUnit (a : RegAccess)
  /-- `RESET_CTL_PACKAGE` (R485). A write of FRM.RESET_CTL with LEVEL 3 requests a package reset. -/
  | resetCtlPackage (a : RegAccess)
  /-- `RESET_CTL_DUMP` (R490). The DUMP bit of FRM.RESET_CTL takes a dump first, with cause 1. -/
  | resetCtlDump (a : RegAccess)
  /-- `CNT_SEL_WRITE` (R498). A write of CNT.SEL orders a bank copy into CNT.VIEW. -/
  | cntSelWrite (a : RegAccess)
  /-- `CNT_SNAPSHOT` (R501). Command: copy the selected banks into a buffer. -/
  | cntSnapshot (c : Cmd)
  /-- `CNT_PROFILE` (R501). Command: start, replace or stop periodic profiling. -/
  | cntProfile (c : Cmd)
  /-- `PROFILE_ROUND` (R501). Every PERIOD_US a profile round is copied into the ring, or skipped. -/
  | profileRound
  /-- `CNT_PART_READ` (R503). Command: write the partition's counters. -/
  | cntPartRead (c : Cmd)
  /-- `CNT_CLEAR` (R501). Command: zero the selected banks. -/
  | cntClear (c : Cmd)
  /-- `VDD_AO_IN_TOLERANCE` (R28). VDD_AO reaches tolerance, and each die's always-on island leaves power-on reset and starts its time counter at 0. -/
  | vddAoInTolerance
  /-- `VDD_AO_LOSS` (R514). VDD_AO is removed at power-down, which stops the always-on islands and clears FRM.TRIP. -/
  | vddAoLoss
  /-- `PERST_DEASSERT` (R513). PERSTx_N goes high, and the CXL port starts training once AVDD and VDD_PL are good. -/
  | perstDeassert (x : Nat)
  /-- `FUNCTION_LEVEL_RESET` (R446). A host begins or ends a function-level reset of a CXL function, which puts its partition's mailbox owner in reset or out of it. -/
  | functionLevelReset (port part : Nat) (begins : Bool)
  /-- `VF_ENABLE` (R332). A host sets or clears SR-IOV VF Enable on a CXL port, which fixes each VF's MSI-X table size and brings VFs into existence or removes them. -/
  | vfEnable (x numVfs : Nat) (on : Bool)
  /-- `DOMAIN_TRANSITION_COMPLETE` (R419). A SLEEPING domain finishes its transition into RETAIN or OFF, and then wakes if a wake source arrived in the meantime. -/
  | domainTransitionComplete (x : Nat)
  /-- `DUMP_UNIT_READ_DONE` (R489). The scan path finishes reading one unit's state into the dump, and after the last unit the header is written and the dump completes. -/
  | dumpUnitReadDone (bytes : List Byte)
  /-- `SGMII_AUTO_NEGOTIATION` (R381). The external PHY delivers a new SGMII auto-negotiation word, which sets the management MAC's speed and duplex when SGMII_AN is 1. -/
  | sgmiiAutoNegotiation (word : Nat)
  deriving DecidableEq, Repr

end Sys2Proof
end

