-- ==== Sys2Proof/Decode.lean ====
section
/-! DEFINITION. The block has no instruction words: the table of its operations and events gives no row any bits. -/

namespace Sys2Proof

/-- The command a word spells by the bits of the table. No row has bits, so no word spells a command. -/
def decodeTableWord (_nbits _w : Nat) : Option Instr := none

end Sys2Proof
end

