-- ==== Sys2Proof/Config.lean ====
section
/-! DEFINITION. What the spec leaves open: each constant below has no body, so no proof can rest on its value. -/

namespace Sys2Proof

/-- Counts of nominal time that pass at a tick on the empty queue. R28 gives each die's rate only within a band. -/
opaque Config.tickCounts : Nat → Nat

/-- Drift of a die's oscillator over a tick, in counts per million counts, before it is bounded to ±50 (R28). -/
opaque Config.driftPpm : Nat → Nat → Int

/-- Counts a die's island leaves power-on reset after VDD_AO, before it is bounded to 100 000 (R28). -/
opaque Config.startDelay : Nat → Nat → Nat

/-- The channel a Weft message takes: the fixed hash of source, destination, class and stream (R19). -/
opaque Config.weftHash : Nat → Nat → Nat → Nat → Nat

/-- The data a miscorrected codeword delivers (R41), and whether a pattern beyond the code's reach is miscorrected. -/
opaque Config.miscorrects : Nat → Bool
opaque Config.miscorrected : Nat → List Byte

/-- The check value of a line's data, a number of 64 bits, by the number its bytes form (R38). -/
opaque Config.checkValue : Nat → Nat

/-- The snoop-filter victim a full filter evicts (R60): an index into the filter. -/
opaque Config.filterVictim : Nat → Nat

/-- The set a leaf translation falls in, before it is reduced to 1 024 sets (R75). -/
opaque Config.leafSet : Nat → Nat → Nat → Nat

/-- The pointer entry a full pointer cache drops (R75). -/
opaque Config.ptrVictim : Nat → Nat

/-- The region entry a full cache of a Heddle drops (R83). -/
opaque Config.regionVictim : Nat → Nat

/-- A byte whose value the spec leaves open: the free value it belongs to, and its place in it. -/
opaque Config.freeByte : Nat → Nat → Byte

/-- The choice EXP2 (0), RCP (1) and RSQRT (2) make within 1 ulp of the exact result (R283), by FP32 operand. -/
opaque Config.approx : Nat → Nat → Nat

/-- A number whose value the spec leaves open. -/
opaque Config.freeNat : Nat → Nat

/-- Numbers fused into the part or strapped on the board, which the spec gives no value for. -/
opaque Config.serial : Nat
opaque Config.lot : Nat

/-- One-time-programmable fuses (R437): the key hashes, whether a key is revoked, and the minimum `SVN`. -/
opaque Config.otpKeyHash : Nat → List Byte
opaque Config.keyRevoked : Nat → Bool
opaque Config.minSvn : Nat

/-- What a flash bank was delivered with (R438): bank and byte. -/
opaque Config.flashByte : Nat → Nat → Byte

/-- Measurements whose input the spec gives in words only (R440): the measurement and the values it covers. -/
opaque Config.measure : Nat → List Nat → List Byte

/-- Vectors of the boot ROM's built-in test set for a unit class (R470). -/
opaque Config.builtinVectors : Nat → Nat

end Sys2Proof
end

