-- ==== Sys2Proof/Machine/Bits.lean ====
section
/-! DEFINITION. Bit fields, little-endian fields of packets and records (R3), saturating counters, and the
canonical tables that hold indexed registers and memory. -/

namespace Sys2Proof.Machine

/-- The field of `w` bits whose lowest bit is `lo`, as the manual writes `[lo + w - 1 : lo]`. -/
def bits (x lo w : Nat) : Nat := x / 2 ^ lo % 2 ^ w

/-- Bit `i` of a word. -/
def bit (x i : Nat) : Bool := x / 2 ^ i % 2 == 1

/-- A Boolean as a one-bit field. -/
def b2n (b : Bool) : Nat := if b then 1 else 0

/-- Byte `i` of a byte string; bytes past its end are 0. -/
def byteAt (bs : List Byte) (i : Nat) : Nat :=
  match bs[i]? with
  | some b => b.toNat
  | none => 0

/-- The little-endian number in a byte string (R3). -/
def leNat : List Byte → Nat
  | [] => 0
  | b :: r => b.toNat + 256 * leNat r

/-- The `n` little-endian bytes of a number (R3). -/
def leBytes : Nat → Nat → List Byte
  | 0, _ => []
  | n + 1, v => BitVec.ofNat 8 v :: leBytes n (v / 256)

/-- The big-endian number in a byte string (R3, headers on the wire). -/
def beNat (bs : List Byte) : Nat := bs.foldl (fun a b => a * 256 + b.toNat) 0

/-- The `n` big-endian bytes of a number. -/
def beBytes (n v : Nat) : List Byte := (leBytes n v).reverse

/-- Bytes `off` to `off + n - 1`, padded with zeros past the end. -/
def slice (bs : List Byte) (off n : Nat) : List Byte :=
  (List.range n).map fun i => BitVec.ofNat 8 (byteAt bs (off + i))

/-- The little-endian field at bytes `off` to `off + n - 1`. -/
def fieldLE (bs : List Byte) (off n : Nat) : Nat := leNat ((bs.drop off).take n)

/-- `bs` with the bytes from `off` replaced by `v`, never longer than `bs`. -/
def patch (bs : List Byte) (off : Nat) (v : List Byte) : List Byte :=
  (bs.take off ++ v ++ bs.drop (off + v.length)).take bs.length

/-- A register counter that holds at all-ones. -/
def satInc {w : Nat} (x : BitVec w) : BitVec w := if x = BitVec.allOnes w then x else x + 1

/-- Adds `n` to a register counter that holds at all-ones. -/
def satAdd {w : Nat} (x : BitVec w) (n : Nat) : BitVec w :=
  if x.toNat + n ≥ 2 ^ w then BitVec.allOnes w else BitVec.ofNat w (x.toNat + n)

/-- `⌈a / b⌉`. -/
def ceilDiv (a b : Nat) : Nat := (a + b - 1) / b

/-- The first failing check decides: the outcome beside the first condition that holds. -/
def firstFail {α : Type} : List (Bool × α) → Option α
  | [] => none
  | (c, a) :: r => if c then some a else firstFail r

/-- The value at a number. -/
def tget {α : Type} (d : α) : Tab α → Nat → α
  | [], _ => d
  | (j, v) :: r, i => if j = i then v else tget d r i

/-- The table without entry `i`. -/
def tdel {α : Type} (t : Tab α) (i : Nat) : Tab α := t.filter fun e => e.1 != i

/-- The entry put before the first larger number. -/
def tins {α : Type} : Tab α → Nat → α → Tab α
  | [], i, v => [(i, v)]
  | e :: r, i, v => if i < e.1 then (i, v) :: e :: r else e :: tins r i v

/-- Writes the value at a number; writing the default takes the entry out. -/
def tset {α : Type} [DecidableEq α] (d : α) (t : Tab α) (i : Nat) (v : α) : Tab α :=
  if v = d then tdel t i else tins (tdel t i) i v

/-- Writes one value at the `n` numbers from `first`. -/
def tfill {α : Type} [DecidableEq α] (d : α) (t : Tab α) (first n : Nat) (v : α) : Tab α :=
  t.filter (fun e => decide (e.1 < first)) ++
    (if v = d then [] else (List.range n).map fun k => (first + k, v)) ++
    t.filter (fun e => decide (first + n ≤ e.1))

/-- Changes the value at a number. -/
def tmod {α : Type} [DecidableEq α] (d : α) (t : Tab α) (i : Nat) (f : α → α) : Tab α :=
  tset d t i (f (tget d t i))

/-- Numbers strictly rising. -/
def tsorted {α : Type} : Tab α → Bool
  | [] => true
  | e :: r => r.all (fun x => decide (e.1 < x.1)) && tsorted r

/-- The canonical form of a table. -/
def twf {α : Type} [DecidableEq α] (d : α) (t : Tab α) : Bool :=
  tsorted t && t.all fun e => decide (e.2 ≠ d)

/-- `n` bytes of memory from address `a`. -/
def memRead (m : Tab Byte) : Nat → Nat → List Byte
  | _, 0 => []
  | a, n + 1 => tget 0 m a :: memRead m (a + 1) n

/-- The bytes written from address `a` upwards. -/
def memWrite (m : Tab Byte) : Nat → List Byte → Tab Byte
  | _, [] => m
  | a, b :: r => memWrite (tset 0 m a b) (a + 1) r

/-- `n` bytes from address `a` set to zero. -/
def memZero (m : Tab Byte) (a n : Nat) : Tab Byte :=
  m.filter fun e => decide (e.1 < a) || decide (a + n ≤ e.1)

/-- A byte string cut into pieces of `n` bytes, the last one shorter; `fuel` bounds the number of pieces. -/
def pieces (n : Nat) : Nat → List Byte → List (List Byte)
  | 0, _ => []
  | _, [] => []
  | fuel + 1, bs => bs.take n :: pieces n fuel (bs.drop n)

/-- An insertion sort by a key, for lists kept in rising order. -/
def sortKey {α : Type} (k : α → Nat) : List α → List α
  | [] => []
  | a :: r =>
    let s := sortKey k r
    s.takeWhile (fun x => decide (k x < k a)) ++ a :: s.dropWhile (fun x => decide (k x < k a))

end Sys2Proof.Machine
end

