-- ==== Sys2Proof/Machine/Float.lean ====
section
/-! DEFINITION. Number formats and rounding: exact values, the formats of R230 and R270 to R279, conversion (R237, R268,
R277), rounding (R238), block scales (R231, R234, R237) and IEEE 754 arithmetic in a format (R235, R283). -/

namespace Sys2Proof.Machine

/-- An exact value: ± n/d × 2^e, an infinity, or NaN. -/
inductive Num where
  | fin (neg : Bool) (n d : Nat) (e : Int)
  | inf (neg : Bool)
  | nan
  deriving DecidableEq, Repr

/-- How a value is rounded (R238): to nearest even, or stochastically with a 32-bit random word. -/
inductive Rnd where
  | rne
  | stoch (r : Nat)
  deriving DecidableEq, Repr

/-- `n/d × 2^e` in units of `2^qe`, rounded to an integer. -/
def roundAt (rnd : Rnd) (n d : Nat) (e qe : Int) : Nat :=
  let k := e - qe
  let num := n * 2 ^ k.toNat
  let den := d * 2 ^ (-k).toNat
  let q := num / den
  let r := num % den
  match rnd with
  | .rne => if 2 * r > den ∨ (2 * r = den ∧ q % 2 = 1) then q + 1 else q
  | .stoch w => if r * 2 ^ 32 / den + w ≥ 2 ^ 32 then q + 1 else q

/-- `⌊log₂ (n/d × 2^e)⌋` of a value above 0. -/
def floorLog2 (n d : Nat) (e : Int) : Int :=
  let k : Int := (Nat.log2 n : Int) - (Nat.log2 d : Int)
  (if n * 2 ^ (-k).toNat ≥ d * 2 ^ k.toNat then k else k - 1) + e

/-! ## Exact arithmetic -/

namespace Num

def zero : Num := fin false 0 1 0

def ofInt (i : Int) : Num := fin (decide (i < 0)) i.natAbs 1 0

def isNeg : Num → Bool
  | fin s _ _ _ => s
  | inf s => s
  | nan => false

def isNan : Num → Bool
  | nan => true
  | _ => false

def negate : Num → Num
  | fin s n d e => fin (!s) n d e
  | inf s => inf (!s)
  | nan => nan

def abs : Num → Num
  | fin _ n d e => fin false n d e
  | inf _ => inf false
  | nan => nan

/-- Multiplies by a power of two. -/
def scale (k : Int) : Num → Num
  | fin s n d e => fin s n d (e + k)
  | x => x

/-- The value over a common denominator and exponent, as a signed integer. -/
def overDen (d0 : Nat) (e0 : Int) : Num → Int
  | fin s n d e =>
    let m : Int := (n * (d0 / d) * 2 ^ (e - e0).toNat : Nat)
    if s then -m else m
  | _ => 0

/-- Exact addition; a sum of zero is −0 only where both are (R235, R283). -/
def add : Num → Num → Num
  | nan, _ | _, nan => nan
  | inf s, inf t => if s = t then inf s else nan
  | inf s, _ => inf s
  | _, inf t => inf t
  | fin s n d e, fin t m c f =>
    let dd := d * c
    let ee := min e f
    let v := overDen dd ee (fin s n d e) + overDen dd ee (fin t m c f)
    if v = 0 then fin (s && t) 0 1 0 else fin (decide (v < 0)) v.natAbs dd ee

def sub (a b : Num) : Num := add a (negate b)

def mul : Num → Num → Num
  | nan, _ | _, nan => nan
  | inf s, inf t => inf (s != t)
  | inf s, fin t m _ _ | fin t m _ _, inf s => if m = 0 then nan else inf (s != t)
  | fin s n d e, fin t m c f => fin (s != t) (n * m) (d * c) (e + f)

/-- Division by a natural number above 0 (R236, R243). -/
def divNat (k : Nat) : Num → Num
  | fin s n d e => fin s n (d * k) e
  | x => x

/-- The order of numbers, with −0 below +0; false where one is NaN. -/
def lt : Num → Num → Bool
  | nan, _ | _, nan => false
  | inf s, inf t => s && !t
  | inf s, _ => s
  | _, inf t => !t
  | fin s n d e, fin t m c f =>
    let dd := d * c
    let ee := min e f
    let v := overDen dd ee (fin s n d e)
    let w := overDen dd ee (fin t m c f)
    decide (v < w) || (n == 0 && m == 0 && s && !t)

/-- Equality as a comparison: zeros are equal, a NaN equals nothing. -/
def eq : Num → Num → Bool
  | nan, _ | _, nan => false
  | inf s, inf t => s == t
  | inf _, _ | _, inf _ => false
  | fin s n d e, fin t m c f =>
    overDen (d * c) (min e f) (fin s n d e) == overDen (d * c) (min e f) (fin t m c f)

/-- Maximum and minimum: a NaN operand gives NaN (R235, R283). -/
def max (a b : Num) : Num := if a.isNan || b.isNan then nan else if lt a b then b else a
def min' (a b : Num) : Num := if a.isNan || b.isNan then nan else if lt b a then b else a

end Num

/-! ## Binary formats -/

/-- A binary format: width, mantissa bits, exponent of the smallest quantum, the largest finite code, the code of infinity
and of NaN where it has them, and whether a value beyond the range saturates (R237). -/
structure FFmt where
  width : Nat
  mb : Nat
  qmin : Int
  maxCode : Nat
  infCode : Option Nat
  nanCode : Option Nat
  sat : Bool
  deriving DecidableEq, Repr

def fp32 : FFmt := ⟨32, 23, -149, 0x7F7FFFFF, some 0x7F800000, some 0x7FC00000, false⟩
def bf16 : FFmt := ⟨16, 7, -133, 0x7F7F, some 0x7F80, some 0x7FC0, false⟩
def fp16 : FFmt := ⟨16, 10, -24, 0x7BFF, some 0x7C00, some 0x7E00, false⟩
def e4m3 : FFmt := ⟨8, 3, -9, 0x7E, none, some 0x7F, true⟩
def e5m2 : FFmt := ⟨8, 2, -16, 0x7B, some 0x7C, some 0x7E, true⟩
def e2m3 : FFmt := ⟨6, 3, -3, 0x1F, none, none, true⟩
def e3m2 : FFmt := ⟨6, 2, -4, 0x1F, none, none, true⟩
def e2m1 : FFmt := ⟨4, 1, -1, 0x7, none, none, true⟩

/-- The value of a code. -/
def FFmt.decode (f : FFmt) (c : Nat) : Num :=
  let s := bit c (f.width - 1)
  let b := c % 2 ^ (f.width - 1)
  if f.infCode = some b then .inf s
  else if b > f.maxCode then .nan
  else if b < 2 ^ f.mb then .fin s b 1 f.qmin
  else .fin s (2 ^ f.mb + b % 2 ^ f.mb) 1 (f.qmin + ((b / 2 ^ f.mb : Nat) : Int) - 1)

/-- A value converted to a format: its code, and whether it was beyond the range (R237). -/
def FFmt.encode (f : FFmt) (rnd : Rnd) (x : Num) : Nat × Bool :=
  let sign (s : Bool) : Nat := if s then 2 ^ (f.width - 1) else 0
  match x with
  | .nan => (f.nanCode.getD 0, false)
  | .inf s => match f.infCode with
    | some c => (sign s + c, false)
    | none => (f.nanCode.getD 0, false)
  | .fin s n d e =>
    if n = 0 then (sign s, false)
    else
      let qe := max (floorLog2 n d e - (f.mb : Int)) f.qmin
      let c := (qe - f.qmin).toNat * 2 ^ f.mb + roundAt rnd n d e qe
      if c > f.maxCode then (sign s + (if f.sat then f.maxCode else f.infCode.getD f.maxCode), true) else (sign s + c, false)

/-- Rounds to nearest even, to the code alone. -/
def FFmt.rne (f : FFmt) (x : Num) : Nat := (f.encode .rne x).1

/-! ## Integers -/

/-- A two's-complement field as a signed integer. -/
def sint (w c : Nat) : Int := (BitVec.ofNat w c).toInt

/-- The low `w` bits of a signed integer. -/
def uint (w : Nat) (i : Int) : Nat := (BitVec.ofInt w i).toNat

/-- A value rounded to an integer. -/
def roundInt (rnd : Rnd) (n d : Nat) (e : Int) (s : Bool) : Int :=
  let m : Int := (roundAt rnd n d e 0 : Nat)
  if s then -m else m

/-- A value converted to a signed integer of `w` bits, saturating; NaN gives 0 (R237, R268). The flag says that it saturated
or was NaN. -/
def toSat (w : Nat) (rnd : Rnd) (x : Num) : Int × Bool :=
  let hi : Int := 2 ^ (w - 1) - 1
  let lo : Int := -2 ^ (w - 1)
  match x with
  | .nan => (0, true)
  | .inf s => (if s then lo else hi, true)
  | .fin s n d e =>
    let v := roundInt rnd n d e s
    if v > hi then (hi, true) else if v < lo then (lo, true) else (v, false)

/-! ## Microscaling blocks (R230, R231, R234, R237) -/

/-- An MX element: a binary format, or an 8-bit integer of units 2^-6; `top` is `E` of R237. -/
structure MxElt where
  fmt : Option FFmt
  width : Nat
  top : Int
  deriving DecidableEq, Repr

def mxE4m3 : MxElt := ⟨some e4m3, 8, 8⟩
def mxE5m2 : MxElt := ⟨some e5m2, 8, 15⟩
def mxE2m3 : MxElt := ⟨some e2m3, 6, 2⟩
def mxE3m2 : MxElt := ⟨some e3m2, 6, 4⟩
def mxE2m1 : MxElt := ⟨some e2m1, 4, 2⟩
def mxInt8 : MxElt := ⟨none, 8, 0⟩

/-- The element's own value. -/
def MxElt.value (m : MxElt) (c : Nat) : Num :=
  match m.fmt with
  | some f => f.decode c
  | none => (Num.ofInt (sint 8 c)).scale (-6)

/-- An element under its block's scale byte (R234). -/
def MxElt.decode (m : MxElt) (scale c : Nat) : Num :=
  if scale = 255 then .nan else (m.value c).scale ((scale : Int) - 127)

/-- The largest magnitude of a block, as ⌊log₂⌋; none where every value is 0. -/
def blockTop (vs : List Num) : Option Int :=
  vs.foldl (fun m v => match v with
    | .fin _ n d e => if n = 0 then m else some (match m with | some t => max t (floorLog2 n d e) | none => floorLog2 n d e)
    | _ => m) none

/-- The scale byte a block takes (R237). -/
def MxElt.scaleOf (m : MxElt) (vs : List Num) : Nat :=
  if vs.any fun v => match v with | .fin .. => false | _ => true then 255
  else match blockTop vs with
    | none => 0
    | some t => (max (-127) (min 127 (t - m.top)) + 127).toNat

/-- One element under a scale byte, with saturation. -/
def MxElt.encode (m : MxElt) (scale : Nat) (rnd : Rnd) (v : Num) : Nat × Bool :=
  if scale = 255 then (0, false)
  else
    let x := v.scale (127 - (scale : Int))
    match m.fmt with
    | some f => f.encode rnd x
    | none =>
      match x with
      | .fin s n d e =>
        let q := roundAt rnd n d e (-6)
        let c := min q 127
        (uint 8 (if s then -(c : Int) else c), decide (q > 127))
      | _ => (0, false)

/-! ## Random words (R238, R278) -/

/-- The function `mix`. -/
def mix (x : Word64) : Word64 :=
  let x := x ^^^ (x >>> 30)
  let x := x * 0xBF58476D1CE4E5B9
  let x := x ^^^ (x >>> 27)
  let x := x * 0x94D049BB133111EB
  x ^^^ (x >>> 31)

/-- `mix(mix(a) ^ b)[63:32]`. -/
def randomWord (a b : Word64) : Nat := ((mix (mix a ^^^ b)) >>> 32).toNat

/-! ## Approximations (R283) -/

/-- The code of 2^k in FP32, 0 below the range and +∞ above it. -/
def pow2Code (k : Int) : Nat := fp32.rne (.fin false 1 1 k)

/-- A free choice among codes within 1 ulp of a magnitude whose truncated code is `lo`. -/
def within (op input lo : Nat) (exact : Bool) : Nat :=
  let k := Config.approx op input
  if exact then lo + k % 3 - 1 else lo + k % 2

/-- `⌊v / 2^qe⌋` of a finite value, with whether the quotient is exact. -/
def truncAt (n d : Nat) (e qe : Int) : Nat × Bool :=
  let k := e - qe
  let num := n * 2 ^ k.toNat
  let den := d * 2 ^ (-k).toNat
  (num / den, num % den == 0)

/-- The FP32 code of a magnitude truncated, and whether it is exact. -/
def truncCode (n d : Nat) (e : Int) : Nat × Bool :=
  let qe := max (floorLog2 n d e - 23) (-149)
  let (q, x) := truncAt n d e qe
  (min fp32.maxCode ((qe + 149).toNat * 2 ^ 23 + q), x)

/-- The sum of `t·y^i/i!` from `i` on, in units of 2^-128. -/
def expSum (y : Nat) : Nat → Nat → Nat → Nat
  | 0, _, _ => 0
  | k + 1, i, t => t + expSum y k (i + 1) (t * y / (2 ^ 128 * i))

/-- 2^f for `f` in units of 2^-128 below 1: e^(f·ln 2), with an error far below the distance from an FP32 code of any 2^f that is
none. -/
def pow2Frac (f : Nat) : Nat := expSum (f * 235865763225513294137944142764154484399 / 2 ^ 128) 40 1 (2 ^ 128)

/-- The FP32 code of 2^(k + f) truncated, for `k` below 128. -/
def exp2Floor (k : Int) (f : Nat) : Nat :=
  if k < -126 then pow2Frac f / 2 ^ (-(k + 21)).toNat else (k + 126).toNat * 2 ^ 23 + pow2Frac f / 2 ^ 105

/-- 2^x within 1 ulp: NaN of NaN, 0 and ∞ at the ends; between, a code next to the exact result. -/
def exp2Code (c : Nat) : Nat :=
  match fp32.decode c with
  | .nan => 0x7FC00000
  | .inf s => if s then 0 else 0x7F800000
  | .fin s n d e =>
    let (q, x) := truncAt n d e 0
    if q ≥ 512 then (if s then within 0 c 0 false else 0x7F800000)
    else if x then
      let lo := pow2Code (if s then -(q : Int) else q)
      if lo = 0 ∨ lo = 0x7F800000 then lo else within 0 c lo true
    else
      let k : Int := if s then -(q : Int) - 1 else q
      let (m, whole) := truncAt n d e (-128)
      let f := if s then 2 ^ 128 - m % 2 ^ 128 - (if whole then 0 else 1) else m % 2 ^ 128
      if k ≥ 128 then 0x7F800000 else within 0 c (exp2Floor k f) false

/-- 1/x. -/
def rcpCode (c : Nat) : Nat :=
  let sign := c / 2 ^ 31 % 2 * 2 ^ 31
  match fp32.decode c with
  | .nan => 0x7FC00000
  | .inf _ => sign
  | .fin _ n d e =>
    if n = 0 then sign + 0x7F800000
    else if fp32.rne (.fin false d n (-e)) = 0x7F800000 then sign + 0x7F800000
    else
      let (lo, x) := truncCode d n (-e)
      sign + within 1 c lo x

/-- 1/√x: NaN below 0, ∞ with the sign of a zero. -/
def rsqrtCode (c : Nat) : Nat :=
  match fp32.decode c with
  | .nan => 0x7FC00000
  | .inf s => if s then 0x7FC00000 else 0
  | .fin s n _ e =>
    if n = 0 then c / 2 ^ 31 % 2 * 2 ^ 31 + 0x7F800000
    else if s then 0x7FC00000
    else
      -- n × 2^e with an even exponent; the root of 2^96 / n is an integer part with more than 23 bits
      let (n, e) := if e % 2 = 0 then (n, e) else (2 * n, e - 1)
      let r := Nat.sqrt (2 ^ 96 / n)
      let exact := r * r * n == 2 ^ 96
      let (lo, x) := truncCode r 1 (-48 - e / 2)
      within 2 c lo (exact && x)

end Sys2Proof.Machine
end

