-- ==== Sys2Proof/Machine/StateCore.lean ====
section
/-! DEFINITION. The parts of the state the whole device shares: die time and the Weft, the Spool, the Heddles, the
Jacquard processors and their queues, partitions and their resources, and the fault records. -/

namespace Sys2Proof.Machine

/-- A reference to a fetched command, enough to write its status reply (R103). Its `id` is the command's own (R105). -/
structure CmdRef where
  id : Nat := 0
  skein : SkeinRef
  part : Nat
  sqHead : Nat
  tag : Nat
  opcode : Nat
  silent : Bool
  deriving DecidableEq, Repr

/-! ## Time and the Weft (chapter 1) -/

/-- One entry of `FRM.TIME_CORR` (R30). -/
structure TimeCorr where
  offset : Word64 := 0
  unc : BitVec 32 := 0
  samples : BitVec 16 := 0
  valid : Bool := false
  deriving DecidableEq, Repr

/-- The always-on time counters (R28): `count` by die, `running` once the die's island has left power-on reset, and
`delay`, the counts of VDD_AO time a die still waits before it leaves. -/
structure TimeState where
  count : Tab Word64 := []
  running : Tab Bool := []
  delay : Tab Nat := []
  deriving DecidableEq, Repr

/-- What an outstanding Weft request was sent for, so that its timeout (R23) reaches the operation it belongs to. -/
inductive WeftPurpose where
  | timeSample (die : Nat)
  | walk (id : Nat)
  | skeinEntry (sk : SkeinRef)
  | ctxFetch (qp : Nat)
  | stream (bobbin id : Nat)
  deriving DecidableEq, Repr

/-- A Weft request whose response has not come (R23). `cls` is the link class of `FRM.WEFT_TMO`, `stream` the ordering tag
of its flits, and `sent` the router's die time when its last flit left: none while a flit still waits for a credit. -/
structure WeftReq where
  id : Nat
  die : Nat
  cls : Nat
  src : Nat
  dest : Nat
  stream : Nat
  sent : Option Word64
  purpose : WeftPurpose
  deriving DecidableEq, Repr

/-- One direction of a channel in one virtual class, with a receive buffer and credits of its own (R15, R21). A channel is
named by its endpoint die and its number there; `inbound` is the direction from the hub to the endpoint. -/
structure Lane where
  die : Nat
  chan : Nat
  vc : Nat
  inbound : Bool
  deriving DecidableEq, Repr

/-- A flit that waits for a credit, and the request it is the last flit of (R21, R23). -/
structure WaitFlit where
  lane : Lane
  flit : Flit
  req : Option Nat
  deriving DecidableEq, Repr

/-- A message a die's router holds while the domain of its unit is not ON (R418), with the lane whose buffer it fills; none
where it came from a unit of the same die. -/
structure HeldMsg where
  lane : Option Lane
  msg : WeftMsg
  deriving DecidableEq, Repr

/-- A die being sampled (R30): the frame counter when its message left, and the die's counter once its router has
answered. -/
structure TimeSampling where
  die : Nat
  t1 : Word64
  td : Option Word64
  deriving DecidableEq, Repr

/-- The Weft and the correlation table (chapter 1). -/
structure WeftState where
  diePresent : BitVec 40 := 0
  tmo : Tab (BitVec 16) := []
  late : BitVec 40 := 0
  timeoutSeen : Bool := false
  paritySeen : Bool := false
  corr : Tab TimeCorr := []
  outstanding : List WeftReq := []
  nextId : Nat := 0
  sampling : List TimeSampling := []
  /-- The TIME_SAMPLE command under way; a start samples with none. -/
  samplingCmd : Option CmdRef := none
  /-- A message of the sampling under way has timed out (R23). -/
  samplingFailed : Bool := false
  /-- Credits spent, by lane (R21): 16 less this number are left. -/
  spent : Tab Nat := []
  /-- Receive-buffer entries in use, by lane (R21). -/
  buffered : Tab Nat := []
  /-- Flits that wait for a credit, oldest first. -/
  waiting : List WaitFlit := []
  /-- Messages a die's router holds while their unit's domain is not ON (R418). -/
  heldMsgs : List HeldMsg := []
  deriving DecidableEq, Repr

/-! ## Spool (chapter 2) -/

/-- `SPL.PIN_MARK[n][c]` (R42). -/
structure PinMark where
  pinA : BitVec 6 := 0
  aValid : Bool := false
  pinB : BitVec 6 := 0
  bValid : Bool := false
  deriving DecidableEq, Repr

/-- A change on its way to one holder of a table copy (R54): granule-owner entries go to the 16 controllers, context
map entries to the 16 controllers and 8 Heddles. -/
structure TableUpdate where
  id : Nat
  unit : Nat
  granule : Bool
  first : Nat
  count : Nat
  value : Nat
  deriving DecidableEq, Repr

/-- What a controller does once a back-invalidate response arrives (R59, R60). -/
inductive BiWhy where
  | device (r : SpoolReq)
  | host (h : HostMemReq)
  | release (id : Nat)
  deriving DecidableEq, Repr

/-- A back-invalidate snoop without its response: the line (offset / 64), the port, whether it invalidates, and the time of its
stack's die when it was sent (R61). -/
structure BiWait where
  id : Nat
  sent : Word64
  line : Nat
  port : Nat
  inv : Bool
  why : BiWhy
  deriving DecidableEq, Repr

/-- What happens once every holder has applied a table change (R58, R59, R65, R401). -/
inductive TableThen where
  | complete (r : CmdRef)
  | clear (part : Nat)
  | nothing
  deriving DecidableEq, Repr

/-- A table change some holders have not applied yet. -/
structure AckWait where
  id : Nat
  units : List Nat
  granule : Bool
  first : Nat
  count : Nat
  after : TableThen
  deriving DecidableEq, Repr

/-- GRANULE_RELEASE under way (R59): the stacks whose controller has not applied the change, and those that have not
zeroed their share. `host` holds the granules that were open to hosts. A PART_CLEAR releases without a command. -/
structure Release where
  id : Nat
  first : Nat
  count : Nat
  host : List Nat
  toApply : List Nat
  toZero : List Nat
  cmd : Option CmdRef
  clear : Option Nat := none
  deriving DecidableEq, Repr

/-- Spool memory and its controllers (chapter 2). Stack `n` is the key of the per-controller tables. -/
structure SplState where
  mem : Tab Byte := []
  /-- Poisoned lines, by line address (offset / 64). -/
  poison : Tab Bool := []
  /-- Marked pins (R42), by stack * 64 + channel. -/
  pinMark : Tab PinMark := []
  /-- Corrected symbols of the pass under way, by (stack * 64 + channel) * 36 + symbol (R42). -/
  pinCount : Tab Nat := []
  periodMin : BitVec 14 := 0x168
  scrubEnable : Bool := true
  share : BitVec 3 := 3
  biTmoUs : BitVec 6 := 5
  ceSeen : Bool := false
  ueSeen : Bool := false
  ctxDenySeen : Bool := false
  hostDenySeen : Bool := false
  biTimeout : Bool := false
  pinSpareFull : Bool := false
  ctxDeny : BitVec 40 := 0
  /-- The reference granule-owner table (`SPL.GOT`) and the 16 copies. -/
  got : Tab (BitVec 16) := []
  gotCopy : Tab (Tab (BitVec 16)) := []
  /-- Replica of the context map in each controller (R52). -/
  ctxCopy : Tab (Tab (BitVec 6)) := []
  updates : List TableUpdate := []
  ackWaits : List AckWait := []
  releases : List Release := []
  passDone : Tab Bool := []
  passes : Tab (BitVec 16) := []
  scrubPos : Tab (BitVec 25) := []
  ceCount : Tab (BitVec 48) := []
  ueCount : Tab (BitVec 32) := []
  /-- Snoop filter by line (offset / 64): 0 for a line no host caches, else 1 + port + 2 where the host may have
  modified it (R60). -/
  filter : Tab Nat := []
  biWaits : List BiWait := []
  nextId : Nat := 0
  /-- Hottest DRAM layer above 85 degrees: refresh doubled (R36, R517), by stack. -/
  refresh2 : Tab Bool := []
  deriving DecidableEq, Repr

/-! ## Heddles (chapter 3) -/

/-- A context descriptor (R67). -/
structure CtxDesc where
  enable : Bool := false
  odp : Bool := false
  l1Log2 : BitVec 5 := 0
  root : Word64 := 0
  epoch : BitVec 32 := 0
  deriving DecidableEq, Repr

/-- A cached leaf (R75). -/
structure CachedLeaf where
  ctx : Nat
  epoch : BitVec 32
  /-- log2 of the page size: 36, 30 or 21. -/
  pageLog2 : Nat
  page : Nat
  pa : Nat
  rd : Bool
  wr : Bool
  atom : Bool
  deriving DecidableEq, Repr

/-- A cached pointer entry (R75): the table that `level` entries of a virtual range lie in. -/
structure CachedPtr where
  ctx : Nat
  epoch : BitVec 32
  level : Nat
  index : Nat
  addr : Nat
  deriving DecidableEq, Repr

/-- A translation a Heddle has given a holder, which the holder may still use (R78, R80), with log2 of the page of its leaf; 0
where no page was looked up (R74). -/
structure Translated where
  req : Lookup
  epoch : BitVec 32
  status : Status
  pa : Nat
  pageLog2 : Nat
  deriving DecidableEq, Repr

/-- A table walk in progress (R77). -/
structure Walk where
  id : Nat
  req : Lookup
  epoch : BitVec 32
  level : Nat
  entryPa : Nat
  deriving DecidableEq, Repr

/-- Why a holder's acknowledgement is awaited: a withdrawal (R78) or a revocation (R198). -/
inductive AckWhy where
  | withdraw (ctx : Nat) (first : Nat) (count2m : Nat) (epoch : BitVec 32)
  | revoke (key : Nat)
  deriving DecidableEq, Repr

/-- What follows the last acknowledgement of a withdrawal (R78, R81). -/
inductive AckThen where
  | report
  | configure (d : CtxDesc)
  | disable
  deriving DecidableEq, Repr

/-- A withdrawal or revocation under way: per Heddle the holders still awaited. -/
structure Withdrawal where
  id : Nat
  why : AckWhy
  /-- (heddle, holder unit) pairs that have not acknowledged. -/
  awaiting : List (Nat × Nat)
  /-- Pairs fenced under R79 whose further wait has not ended, with the time of the Heddle's die when it began. -/
  fencedWait : List ((Nat × Nat) × Word64)
  /-- The time of each Heddle's die when it dropped the range or applied the change (step 2 of R78 and R198). -/
  started : Tab Word64
  after : AckThen
  cmd : Option CmdRef
  deriving DecidableEq, Repr

/-- A region entry (R83). -/
structure Region where
  gen : BitVec 8 := 0
  valid : Bool := false
  rRead : Bool := false
  rWrite : Bool := false
  rAtomic : Bool := false
  rReduce : Bool := false
  lWrite : Bool := false
  part : BitVec 6 := 0
  ctx : BitVec 16 := 0
  baseVa : Nat := 0
  size : Nat := 0
  pdom : BitVec 24 := 0
  deriving DecidableEq, Repr

/-- An object that waits on a pending fault: its number, its type (0 queue pair, 1 skein, 2 none), whether an incoming packet
raised the fault, and of a skein the operation that faulted, by communicator and `OPSEQ`. -/
structure Waiter where
  object : Nat
  otype : Nat
  remote : Bool
  op : Option (Nat × Nat)
  deriving DecidableEq, Repr

/-- A pending fault (R87). -/
structure PendFault where
  heddle : Nat
  slot : Nat
  ctx : Nat
  page : Nat
  part : Nat
  seq : Nat
  faultId : BitVec 32
  waiters : List Waiter
  deriving DecidableEq, Repr

/-- A partition's page-fault queue (R90, R93). -/
structure Pfq where
  bufCtx : BitVec 16 := 0
  bufPa : Word64 := 0
  log2 : BitVec 5 := 0
  nextSeq : BitVec 32 := 0
  overflowSeen : Bool := false
  deriving DecidableEq, Repr

/-- The Heddles (chapter 3). -/
structure HdlState where
  ctx : Tab CtxDesc := []
  /-- The reference context map (`HDL.CTX_PART`) and the Heddles' copies. -/
  ctxPart : Tab (BitVec 6) := []
  ctxCopy : Tab (Tab (BitVec 6)) := []
  /-- Leaf and pointer caches by Heddle, most recently used first. -/
  leaves : Tab (List CachedLeaf) := []
  ptrs : Tab (List CachedPtr) := []
  walks : List Walk := []
  nextWalk : Nat := 0
  withdrawals : List Withdrawal := []
  nextWd : Nat := 0
  /-- Newest epoch of an invalidation a holder has accepted, by holder unit * 65536 + context (R80). -/
  accepted : Tab (BitVec 32) := []
  region : Tab Region := []
  /-- Region entries each Heddle caches, most recently read first (R83). -/
  regionCache : Tab (List (Nat × Region)) := []
  lastRegion : Tab Nat := []
  pend : List PendFault := []
  pfq : Tab Pfq := []
  /-- Held objects by partition: (type 0 queue pair or 1 skein, device-wide number) (R92). -/
  held : List (Nat × Nat × Nat) := []
  backoffUs : BitVec 8 := 0x10
  tableErrSeen : Bool := false
  holderFenced : Bool := false
  pfqOverflow : Bool := false
  /-- Translations delivered, the last one of each holder, context and address. -/
  delivered : List Translated := []
  deriving DecidableEq, Repr

/-! ## Jacquard (chapter 4) -/

/-- A ring's place: base, context and log2 of its entries. -/
structure Ring where
  pa : Word64 := 0
  bufCtx : BitVec 16 := 0
  log2 : Nat := 4
  deriving DecidableEq, Repr

/-- A queue the device writes (completion or event queue, R112, R121): the last head software wrote, the next entry to
write, its phase, the arm bit and its vector. -/
structure OutQueue where
  ring : Ring := {}
  head : Nat := 0
  next : Nat := 0
  phase : Bool := true
  arm : Bool := false
  vector : BitVec 11 := 0
  reserved : Nat := 0
  deriving DecidableEq, Repr

/-- A skein (R106, R115, R116) with its completion queue. `fetch` holds the entries of a command fetched so far,
`staged` the checked command that waits for dispatch. -/
structure Skein where
  created : Bool := false
  enable : Bool := false
  error : Bool := false
  ring : Ring := {}
  head : Nat := 0
  tail : Nat := 0
  outstanding : Nat := 0
  weight : BitVec 8 := 0
  burstM1 : BitVec 6 := 0
  /-- The values the present round uses: changes take effect at the next round (R115). -/
  roundWeight : BitVec 8 := 0
  roundBurstM1 : BitVec 6 := 0
  credit : Nat := 0
  fetching : Bool := false
  fetched : List Byte := []
  staged : Option Cmd := none
  cq : OutQueue := {}
  deriving DecidableEq, Repr

/-- A partition's admin queues (R117). -/
structure AdminQ where
  sk : Skein := {}
  eq : OutQueue := {}
  eqEnable : Bool := false
  eqOverflow : Bool := false
  lostTypes : BitVec 10 := 0
  deriving DecidableEq, Repr

/-- A command's outcome, waiting for its completion entry (R103); of a Reed operation, the communicator whose `OPSEQ` order its
entry keeps (R211). -/
structure Done where
  ref : CmdRef
  status : Status
  result : List Nat
  unit : Nat
  replayed : Bool
  comm : Option Nat := none
  deriving DecidableEq, Repr

/-- A dispatched command that has not completed: the copy its processor keeps (R105), and whether its unit has started it. -/
structure Dispatched where
  cmd : Cmd
  unit : Nat
  started : Bool := false
  deriving DecidableEq, Repr

/-- A fetched command without an outcome, and whether it has been re-issued on a sibling unit (R105). -/
structure LiveCmd where
  ref : CmdRef
  replayed : Bool := false
  deriving DecidableEq, Repr

/-- A processor's place in its round (R115): the ordinary skein visited last and the one being visited, the skeins this pass has
still to visit, the commands of this visit, and the admin commands served at this boundary. -/
structure ProcState where
  last : Option Nat := none
  visit : Option Nat := none
  left : List Nat := []
  n : Nat := 0
  adminN : Nat := 0
  deriving DecidableEq, Repr

/-- Partition states (R403). -/
inductive PartState where
  | opened | freezing | frozen | clearing
  deriving DecidableEq, Repr

/-- The Jacquard processors and queues (chapter 4). -/
structure JcqState where
  skein : Tab Skein := []
  admin : Tab AdminQ := []
  dbRangeSeen : Bool := false
  skeinErrSeen : Bool := false
  eqOverflowSeen : Bool := false
  dbDrop : BitVec 40 := 0
  cqLost : BitVec 40 := 0
  proc : Tab ProcState := []
  /-- Input credits granted by the units and not yet spent (R115), by unit. -/
  unitCredit : Tab Nat := []
  /-- Fetched commands that have no outcome yet, and the number the next one gets (R105). -/
  live : List LiveCmd := []
  nextCmd : Nat := 1
  dispatched : List Dispatched := []
  done : List Done := []
  /-- Commands that wait for an earlier command on the same object or range (R120, R519). -/
  waiting : List Cmd := []
  deriving DecidableEq, Repr

/-! ## Register accesses (R5, R125) -/

/-- The record of `CONFLICT` (R126). -/
structure Conflict where
  seen : Bool := false
  cause : Bool := false
  multi : Bool := false
  offset : BitVec 20 := 0
  part : BitVec 6 := 0
  cls : BitVec 4 := 0
  unit : BitVec 16 := 0
  value : Word64 := 0
  deriving DecidableEq, Repr

/-- A latched upper half or a pending lower half of one requester (R5). -/
structure HalfLatch where
  who : Requester
  addr : Nat
  value : Nat
  deriving DecidableEq, Repr

/-- The last write a register admitted (R125). -/
structure LastWrite where
  addr : Nat
  who : Requester
  time : Word64
  value : Nat
  deriving DecidableEq, Repr

/-- The register window. -/
structure RegState where
  readLatch : List HalfLatch := []
  writeHalf : List HalfLatch := []
  lastWrites : List LastWrite := []
  /-- `CONFLICT` by block base / 0x10_0000. -/
  conflict : Tab Conflict := []
  /-- The value the last read returned. -/
  readData : Nat := 0
  deriving DecidableEq, Repr

/-! ## Partitions (chapter 14) -/

/-- A partition's range or amount of one kind (R398). -/
structure ResRange where
  first : Nat := 0
  count : Nat := 0
  deriving DecidableEq, Repr

/-- A freeze under way (R404). -/
structure Freeze where
  part : Nat
  tmoMs : Nat
  started : Word64
  cmd : CmdRef
  deriving DecidableEq, Repr

/-- Partitions and resources (chapter 14). -/
structure PartsState where
  state : Tab PartState := []
  freezeAbort : Tab Bool := []
  /-- Ranges and amounts of kinds 0 to 9 held by partitions 1 to 63, by kind * 64 + partition. -/
  res : Tab ResRange := []
  freezes : List Freeze := []
  /-- PART_CLEAR commands under way, with their partition (R405). -/
  clears : List (Nat × CmdRef) := []
  deriving DecidableEq, Repr

/-! ## Faults (chapter 17) -/

/-- `SAF.UNIT[u]`. -/
structure SafUnit where
  fenced : Bool := false
  dependent : Bool := false
  testLate : Bool := false
  lost : BitVec 16 := 0
  deriving DecidableEq, Repr

/-- An error record (R460). -/
structure Record where
  unit : Nat
  opcode : Nat
  cause : Nat
  cls : Nat
  fence : Bool
  replay : Bool
  part : Option Nat
  time : Word64
  temp : BitVec 16
  voltMv : Nat
  seq : BitVec 32
  object : Nat
  otype : Nat
  info0 : Nat
  info1 : Nat
  units : Nat
  deriving DecidableEq, Repr

/-- A report on its way to the Selvedge or to a partition's event queue, handled in order (R449, R467). `part`,
`typ`, `status`, `unit`, `object` and `info` are the fields of R118. -/
inductive Report where
  | record (r : Record)
  | event (part typ : Nat) (status : Status) (unit object info : Nat)
  deriving DecidableEq, Repr

/-- A test slice running on an idle unit (R472). -/
structure TestSlice where
  unit : Nat
  vector : Nat
  deriving DecidableEq, Repr

/-- A loaded test-pattern package (R470). -/
structure TestPkg where
  svn : Nat
  build : Nat
  classMask : Nat
  vectors : Nat
  bytes : List Byte
  deriving DecidableEq, Repr

/-- The Selvedge (chapter 17). -/
structure SafState where
  unit : Tab SafUnit := []
  /-- The ring of records by slot. -/
  ring : Tab (Option Record) := []
  head : BitVec 32 := 0
  nextSeq : BitVec 32 := 0
  overflow : Bool := false
  dangerOverflow : Bool := false
  fenceSeen : Bool := false
  lockstepSeen : Bool := false
  copyMismatchSeen : Bool := false
  testFailSeen : Bool := false
  testLateSeen : Bool := false
  overflowUnit : BitVec 16 := 0
  overflowCause : BitVec 16 := 0
  overflowTime : Word64 := 0
  repeats : BitVec 40 := 0
  testPeriodMs : BitVec 16 := 0x3E8
  testSliceUs : BitVec 8 := 0x14
  compareMs : BitVec 6 := 0xA
  testEnable : Bool := true
  pkg : Option TestPkg := none
  slices : List TestSlice := []
  /-- Next vector of a unit's pass (R472). -/
  nextVector : Tab Nat := []
  /-- The time a unit last completed a full pass, or its `TEST_LATE` was set (R472). -/
  passAt : Tab Word64 := []
  /-- The time of a unit's last comparison (R458). -/
  compareAt : Tab Word64 := []
  /-- Detections of a cause that fences, on their way to the Selvedge, oldest first (R449, R450): the fence, the replay and
  the record follow with `FAULT_REPORT`. -/
  detected : List Record := []
  /-- Reports not handled yet; empty between commands (the model's own field). -/
  todo : List Report := []
  deriving DecidableEq, Repr

end Sys2Proof.Machine
end

