-- ==== Sys2Proof/Machine/StateReed.lean ====
section
/-! DEFINITION. The part of the state of the Reed collectives (chapters 7 and 8). -/

namespace Sys2Proof.Machine

/-- Communicator states (R202). -/
inductive CommSt where
  | free | active | lost
  deriving DecidableEq, Repr

/-- A peer-table entry read under the current epoch (R205); queue pairs are device-wide. -/
structure Peer where
  rank : Nat
  comm : Nat
  key : Nat
  qps : List Nat
  deriving DecidableEq, Repr

/-- One element's accumulator (R235, R241): FP32 code, INT32 value, or `V` with its flags. -/
inductive RAcc where
  | fp (code : Nat)
  | int (v : BitVec 32)
  | exact (v : Int) (nan pinf ninf : Bool)
  deriving DecidableEq, Repr

/-- What has come of one source for a pick (R253, R254): the bytes received, in the pushed form, from which the receipts of its
64-byte units follow; the elements added; the re-requests that have failed; whether one is pending, and of a local source the
place that is read again. -/
structure RedIn where
  src : RedSrc
  got : Tab (Option Byte) := []
  added : Tab Bool := []
  retries : Nat := 0
  recalling : Bool := false
  reread : Option Nat := none
  deriving DecidableEq, Repr

/-- A pick at one stage of its work at this member: 0 the star within the member, 1 the reduction of what other members
pushed, 2 a final pick received (R213, R214). -/
structure RedRun where
  pick : Nat
  stage : Nat
  ins : List RedIn
  acc : Tab (Option RAcc) := []
  /-- Segments that have committed. -/
  segDone : List Nat := []
  deriving DecidableEq, Repr

/-- A pick pushed, or to be pushed, to a member: its bytes in the pushed form at their offset, the Shuttle operation under
way, and whether it has been acknowledged and released (R222). `src` is where its bytes are read from when it is sent again, and
`again` that it is (R212, R221, R227). -/
structure RedPush where
  pick : Nat
  dest : Nat
  final : Bool
  roff : Nat
  data : List Byte
  src : Option Nat := none
  again : Bool := false
  op : Option Nat := none
  acked : Bool := false
  released : Bool := false
  deriving DecidableEq, Repr

/-- An admitted operation (R209, R211). `engines` is the list its picks are worked by, `done` its outcome while an earlier
operation has still to complete. -/
structure RedOp where
  opseq : BitVec 32
  cmd : CmdRef
  code : Nat
  oper : Nat
  exact : Bool
  inFmt : Nat
  wire : Nat
  algo : Nat
  root : Nat
  len : Nat
  inVa : Nat
  outVa : Nat
  workVa : Nat
  mapVa : Nat
  accOut : List Nat
  ext : List ExtRead
  engines : List Nat
  runs : List RedRun := []
  /-- (pick, stage) pairs that have committed, and the output picks committed at every output. -/
  stagesDone : List (Nat × Nat) := []
  outDone : List Nat := []
  pushes : List RedPush := []
  done : Option (Status × List Nat) := none
  replayed : Bool := false
  /-- Writes of its outputs that are not visible yet (R339), and how one of them failed. -/
  waits : List (Nat × Nat) := []
  fault : Option Status := none
  deriving DecidableEq, Repr

/-- A communicator (R201, R204, R207). Engines are numbered 4 d + e; `reserved` are those whose die's pool holds its two
reserved slots. -/
structure Comm where
  state : CommSt := .free
  part : Nat := 0
  commId : Word64 := 0
  epoch : BitVec 32 := 0
  next : BitVec 32 := 0
  base : BitVec 32 := 0
  rank : Nat := 0
  membersM1 : Nat := 0
  accel : BitVec 8 := 0
  pickLog2 : Nat := 0
  stochastic : Bool := false
  shareCap : Nat := 0
  contributors : Nat := 0
  ctx : Nat := 0
  peersVa : Nat := 0
  seed : Word64 := 0
  spillVa : Nat := 0
  spillLog2 : Nat := 0
  pushKey : Nat := 0
  engines : List Nat := []
  reserved : List Nat := []
  lostRank : BitVec 16 := 0
  lostAccel : BitVec 8 := 0
  lostValid : Bool := false
  relayed : Bool := false
  peers : List Peer := []
  /-- Releases and recalls on their way, and pushes of operations that are over: the Shuttle operation, and the rank it goes
  to. -/
  controls : List (Nat × Nat) := []
  ops : List RedOp := []
  deriving DecidableEq, Repr

/-- What a Reed engine knows of a communicator since the last change delivered to it; `old` is the communicator as it was at the
first change that the engine has not been told of and that took its peers (R203). -/
structure CommView where
  state : CommSt := .free
  epoch : BitVec 32 := 0
  base : BitVec 32 := 0
  old : Option Comm := none
  deriving DecidableEq, Repr

/-- What holds a segment's working state (R217 to R219): one of the engine's reserved slots, a shared slot of its die, or a
256 KiB unit of the spill buffer. -/
inductive SlotKind where
  | reserved | shared
  | spill (unit : Nat)
  deriving DecidableEq, Repr

/-- A slot in use. -/
structure RedSlot where
  comm : Nat
  opseq : BitVec 32
  pick : Nat
  stage : Nat
  seg : Nat
  engine : Nat
  kind : SlotKind
  deriving DecidableEq, Repr

/-- A block of a contribution accepted and not yet taken by its engine: its place in the pick, in the pushed form; the CRC-32C
that came with it or was made of it on arrival (R249); and whether a re-request was pending then (R254). -/
structure RedBlock where
  comm : Nat
  opseq : BitVec 32
  pick : Nat
  stage : Nat
  src : RedSrc
  off : Nat
  bytes : List Byte
  crc : Nat
  again : Bool
  deriving DecidableEq, Repr

/-- The Reed collectives. Engine views are by communicator * 32 + engine; pools by die; `steps` are the steps of an engine since
its watched lane last moved (R252). -/
structure RedState where
  backoffUs : BitVec 8 := 8
  directMaxN : BitVec 8 := 8
  ringMaxN : BitVec 16 := 0x40
  replaySeen : Bool := false
  memberLostSeen : Bool := false
  spillSeen : Bool := false
  stalePushSeen : Bool := false
  dupContribSeen : Bool := false
  pushRetry : BitVec 40 := 0
  stalePush : BitVec 40 := 0
  sharedPeak : Tab (BitVec 9) := []
  spilled : Tab (BitVec 40) := []
  chkRetry : BitVec 3 := 2
  stallUs : BitVec 8 := 5
  shadowLog2 : BitVec 5 := 0xC
  crcInSeen : Bool := false
  crcOutSeen : Bool := false
  checkFailSeen : Bool := false
  modCheckSeen : Bool := false
  dualRailSeen : Bool := false
  stallSeen : Bool := false
  shadowSeen : Bool := false
  residualPoisonSeen : Bool := false
  crcRetry : BitVec 40 := 0
  sat : BitVec 40 := 0
  lane : Tab (BitVec 6) := []
  steps : Tab Nat := []
  comm : Tab Comm := []
  view : Tab CommView := []
  slots : List RedSlot := []
  arrived : List RedBlock := []
  deriving DecidableEq, Repr

end Sys2Proof.Machine
end

