-- ==== Sys2Proof/Machine/RedArith.lean ====
section
/-! DEFINITION. Reed arithmetic: formats and pages (R230, R231), decoding and accumulation (R234, R235, R242), output
conversion (R236 to R238, R243), exact-partial pages (R241, R244), wire pages with residuals (R247, R248), and the modular
check (R250). -/

namespace Sys2Proof.Machine

/-- How an element is stored. -/
inductive RedElt where
  | flt (f : FFmt)
  | int (width : Nat)
  | mx (m : MxElt)
  /-- The accumulators of an exact-partial page. -/
  | exact
  deriving DecidableEq, Repr

/-- A format: bytes and elements of its unit (R230). -/
structure RedFmt where
  elt : RedElt
  unit : Nat
  per : Nat
  deriving DecidableEq, Repr

def scalarFmt (f : FFmt) : RedFmt := ⟨.flt f, f.width / 8, 1⟩
def mxFmt (m : MxElt) : RedFmt := ⟨.mx m, 4096, if m.width = 8 then 3968 else if m.width = 6 then 5216 else 7680⟩
def exactFmt : RedFmt := ⟨.exact, 4096, 102⟩

/-- The format of a code (R230). -/
def redFmt (code : Nat) : Option RedFmt :=
  match code with
  | 0x01 => some (scalarFmt fp32) | 0x02 => some (scalarFmt bf16) | 0x03 => some (scalarFmt fp16)
  | 0x04 => some (scalarFmt e4m3) | 0x05 => some (scalarFmt e5m2)
  | 0x08 => some ⟨.int 32, 4, 1⟩ | 0x09 => some ⟨.int 8, 1, 1⟩
  | 0x10 => some (mxFmt mxE4m3) | 0x11 => some (mxFmt mxE5m2) | 0x12 => some (mxFmt mxE2m3)
  | 0x13 => some (mxFmt mxE3m2) | 0x14 => some (mxFmt mxE2m1) | 0x15 => some (mxFmt mxInt8)
  | _ => none

/-- Bytes are moved as they are where an operation does not reduce. -/
def rawFmt : RedFmt := ⟨.int 8, 1, 1⟩

def fmtOf (code : Nat) : RedFmt := (redFmt code).getD rawFmt

def isIntFmt (code : Nat) : Bool := code == 0x08 || code == 0x09

/-- Elements in `n` bytes of a format, and bytes of `n` elements (R230, R245). -/
def RedFmt.elems (f : RedFmt) (bytes : Nat) : Nat := bytes / f.unit * f.per
def RedFmt.bytes (f : RedFmt) (elems : Nat) : Nat := ceilDiv elems f.per * f.unit

/-- The bytes an element lies in (R231, R244). -/
def RedFmt.deps (f : RedFmt) (i : Nat) : List Nat :=
  let page := i / f.per * f.unit
  let j := i % f.per
  match f.elt with
  | .flt _ | .int _ => (List.range f.unit).map (page + ·)
  | .exact => (List.range 40).map (page + 40 * j + ·)
  | .mx m =>
    let lo := m.width * j / 8
    let hi := (m.width * j + m.width - 1) / 8
    (List.range (hi + 1 - lo)).map (page + lo + ·) ++ [page + m.width * f.per / 8 + j / 32]

/-- The elements that lie in the bytes from `off` to `off + n - 1`, at least. -/
def RedFmt.touched (f : RedFmt) (off n : Nat) : List Nat :=
  let lo := off / f.unit * f.per
  let hi := ceilDiv (off + n) f.unit * f.per
  (List.range (hi - lo)).map (lo + ·)

/-- A number of `n` bytes read through a byte function. -/
def numAt (get : Nat → Nat) (off n : Nat) : Nat :=
  (List.range n).foldl (fun a i => a + get (off + i) * 256 ^ i) 0

/-- An element's exact value (R234). -/
def RedFmt.value (f : RedFmt) (get : Nat → Nat) (i : Nat) : Num :=
  let page := i / f.per * f.unit
  let j := i % f.per
  match f.elt with
  | .flt g => g.decode (numAt get page f.unit)
  | .int w => Num.ofInt (sint w (numAt get page f.unit))
  | .exact => .nan
  | .mx m =>
    let lo := m.width * j / 8
    let c := bits (numAt get (page + lo) 2) (m.width * j % 8) m.width
    m.decode (get (page + m.width * f.per / 8 + j / 32)) c

/-! ## Accumulators -/

/-- `V` of a finite value: its multiple of 2^-149 (R241). -/
def exactV (neg : Bool) (n : Nat) (e : Int) : Int :=
  let v : Int := (n * 2 ^ (e + 149).toNat / 2 ^ (-(e + 149)).toNat : Nat)
  if neg then -v else v

/-- A value as an exact accumulator (R242). -/
def exactOf (x : Num) : RAcc :=
  match x with
  | .nan => .exact 0 true false false
  | .inf false => .exact 0 false true false
  | .inf true => .exact 0 false false true
  | .fin s n _ e => .exact (exactV s n e) false false false

/-- The bytes of an accumulator: 40 of an exact one (R241), 4 of the others. -/
def accBytes (a : RAcc) : List Byte :=
  match a with
  | .exact v n p m => leBytes 40 (uint 317 v + 2 ^ 317 * b2n n + 2 ^ 318 * b2n p + 2 ^ 319 * b2n m)
  | .fp c => leBytes 4 c
  | .int v => leBytes 4 v.toNat

/-- An exact accumulator read from its 320 bits (R241). -/
def readAcc (x : Nat) : RAcc := .exact (sint 317 (bits x 0 317)) (bit x 317) (bit x 318) (bit x 319)

/-- An element as an accumulator, and whether it left the FP32 range (R234). -/
def RedFmt.load (f : RedFmt) (exact ints : Bool) (get : Nat → Nat) (i : Nat) : RAcc × Bool :=
  match f.elt with
  | .exact => (readAcc (numAt get (i / f.per * f.unit + 40 * (i % f.per)) 40), false)
  | _ =>
    let x := f.value get i
    if exact then (exactOf x, false)
    else if ints then (match x with | .fin s n _ _ => .int (BitVec.ofInt 32 (if s then -(n : Int) else n)) | _ => .int 0, false)
    else
      let (c, ovf) := fp32.encode .rne x
      (.fp c, ovf)

/-- Two accumulators combined under an operator: 0 sum, 1 max, 2 min, 3 average (R235, R242). -/
def combine (oper : Nat) (a b : RAcc) : RAcc :=
  match a, b with
  | .fp x, .fp y =>
    let (x, y) := (fp32.decode x, fp32.decode y)
    .fp (fp32.rne (if oper = 1 then Num.max x y else if oper = 2 then Num.min' x y else Num.add x y))
  | .int x, .int y =>
    if oper = 1 then .int (if x.toInt < y.toInt then y else x)
    else if oper = 2 then .int (if y.toInt < x.toInt then y else x)
    else .int (x + y)
  | .exact v n p m, .exact w n' p' m' => .exact (v + w) (n || n') (p || p') (m || m')
  | a, _ => a

/-- The value an accumulator stands for, divided for average (R236, R243). -/
def accValue (oper k : Nat) (a : RAcc) : Num :=
  let avg (x : Num) : Num := if oper = 3 then x.divNat (max 1 k) else x
  match a with
  | .fp c => avg (fp32.decode c)
  | .int v => avg (Num.ofInt v.toInt)
  | .exact v n p m =>
    if n || (p && m) then .nan
    else if p then .inf false
    else if m then .inf true
    else avg (.fin (decide (v < 0)) v.natAbs 1 (-149))

/-- The check of accumulators: Σ `V` mod 2^61 − 1 (R250). -/
def checkOf (as : List RAcc) : Nat :=
  (as.foldl (fun (t : Int) (a : RAcc) => match a with | .exact v _ _ _ => t + v | _ => t) 0 % (2 ^ 61 - 1)).toNat

/-! ## Output conversion (R236 to R238) -/

/-- How element `i` of an operation rounds, by communicator and stage. -/
def redRnd (stochastic : Bool) (seed : Word64) (opseq : BitVec 32) (stage i : Nat) : Rnd :=
  if stochastic then
    .stoch (randomWord (seed ^^^ BitVec.ofNat 64 i) (opseq.zeroExtend 64 ||| BitVec.ofNat 64 (stage * 2 ^ 32)))
  else .rne

/-- A result of zero is +0 in exact mode, also where a value below 0 rounds to it (R243). -/
def zeroPlus (exact : Bool) (w c : Nat) : Nat := if exact && c == 2 ^ (w - 1) then 0 else c

/-- One MX block: its scale byte, its element codes and the values that saturated. -/
def mxBlock (m : MxElt) (exact : Bool) (vs : List (Num × Rnd)) : Nat × List Nat × Nat :=
  let scale := m.scaleOf (vs.map (·.1))
  let es := vs.map fun v => m.encode scale v.2 v.1
  (scale, es.map (fun e => if m.fmt.isSome then zeroPlus exact m.width e.1 else e.1), (es.filter (·.2)).length)

/-- One MX page of at most `per` values (R231). -/
def mxPage (m : MxElt) (exact : Bool) (per : Nat) (vs : List (Num × Rnd)) : List Byte × Nat :=
  let blocks := (List.range (per / 32)).map fun b => mxBlock m exact ((vs.drop (32 * b)).take 32)
  let codes := blocks.zipIdx.foldl (fun a x =>
    a + 2 ^ (32 * m.width * x.2) * x.1.2.1.zipIdx.foldl (fun b y => b + y.1 * 2 ^ (m.width * y.2)) 0) 0
  let n := m.width * per / 8
  (leBytes n codes ++ blocks.map (fun b => BitVec.ofNat 8 b.1) ++ leBytes (4096 - n - per / 32) 0,
   blocks.foldl (fun a b => a + b.2.2) 0)

/-- Values cut into groups of `n`. -/
def groups {α : Type} (n : Nat) : Nat → List α → List (List α)
  | 0, _ => []
  | _, [] => []
  | fuel + 1, l => l.take n :: groups n fuel (l.drop n)

/-- Values in a format, and how many saturated, overflowed or were NaN in an integer format (R237); `exact` for the results of
exact mode (R243). -/
def RedFmt.encode (f : RedFmt) (exact : Bool) (vs : List (Num × Rnd)) : List Byte × Nat :=
  match f.elt with
  | .flt g =>
    vs.foldl (fun a v =>
      let (c, ovf) := g.encode v.2 v.1
      (a.1 ++ leBytes f.unit (zeroPlus exact g.width c), a.2 + b2n ovf)) ([], 0)
  | .int w =>
    vs.foldl (fun a v =>
      let (c, sat) := toSat w v.2 v.1
      (a.1 ++ leBytes f.unit (uint w c), a.2 + b2n sat)) ([], 0)
  | .mx m =>
    (groups f.per (vs.length + 1) vs).foldl (fun a g =>
      let (bs, n) := mxPage m exact f.per g
      (a.1 ++ bs, a.2 + n)) ([], 0)
  | .exact => ([], 0)

/-- Accumulators as exact-partial pages (R244). -/
def exactPages (as : List RAcc) : List Byte :=
  (groups 102 (as.length + 1) as).foldl (fun a g => a ++ slice (g.foldl (fun b x => b ++ accBytes x) []) 0 4096) []

/-! ## Wire pages with error feedback (R247, R248) -/

/-- An FP32 code of a value, to nearest even. -/
def toFp32 (x : Num) : Nat := fp32.rne x

/-- Quantises values with their residuals: the wire bytes, the new residuals (FP32 codes) and the values saturated. -/
def quantise (f : RedFmt) (xs : List Num) (res : List Nat) (rnds : List Rnd) : List Byte × List Nat × Nat :=
  let ys := (xs.zip res).map fun p => fp32.decode (toFp32 (Num.add (fp32.decode (toFp32 p.1)) (fp32.decode p.2)))
  let (bs, sat) := f.encode false (ys.zip rnds)
  let qs := (List.range ys.length).map fun i => f.value (byteAt bs) i
  (bs, (ys.zip qs).map (fun p => toFp32 (Num.sub p.1 p.2)), sat)

end Sys2Proof.Machine
end

