-- ==== Sys2Proof/Machine/Aes.lean ====
section
/-! DEFINITION. The standards the cipher cores follow (R384): AES-256, GCM (NIST SP 800-38D) and XTS (IEEE 1619), with
the SHA-256 digest of firmware, images and packages. -/

namespace Sys2Proof.Machine

/-! ## The block cipher -/

/-- Multiplication by x in the AES field. -/
def xtime (a : Nat) : Nat := if a < 128 then 2 * a else (2 * a) ^^^ 0x11B

/-- The product of two field elements; `n` counts the bits of the second left. -/
def gfMul : Nat → Nat → Nat → Nat
  | 0, _, _ => 0
  | n + 1, a, b => (if b % 2 = 1 then a else 0) ^^^ gfMul n (xtime a) (b / 2)

def gfSquare (a : Nat) : Nat := gfMul 8 a a

/-- The inverse x^254, and 0 of 0. -/
def gfInv (a : Nat) : Nat :=
  let a2 := gfSquare a
  let a4 := gfSquare a2
  let a8 := gfSquare a4
  let a16 := gfSquare a8
  let a32 := gfSquare a16
  let a64 := gfSquare a32
  let a128 := gfSquare a64
  [a4, a8, a16, a32, a64, a128].foldl (gfMul 8) a2

def rotl8 (a k : Nat) : Nat := (a * 2 ^ k + a / 2 ^ (8 - k)) % 256

/-- The S-box and its inverse. -/
def subByte (a : Nat) : Nat :=
  let b := gfInv a
  b ^^^ rotl8 b 1 ^^^ rotl8 b 2 ^^^ rotl8 b 3 ^^^ rotl8 b 4 ^^^ 0x63
def invSubByte (a : Nat) : Nat := gfInv (rotl8 a 1 ^^^ rotl8 a 3 ^^^ rotl8 a 6 ^^^ 0x05)

def nth (l : List Nat) (i : Nat) : Nat := (l[i]?).getD 0
def xorL (a b : List Nat) : List Nat := List.zipWith (· ^^^ ·) a b

/-- One word of the key schedule from the earlier ones, newest first. -/
def nextWord (i : Nat) (ws : List (List Nat)) : List Nat :=
  let last := (ws[0]?).getD []
  let t :=
    if i % 8 = 0 then
      xorL ((last.drop 1 ++ last.take 1).map subByte) [(List.range (i / 8 - 1)).foldl (fun r _ => xtime r) 1, 0, 0, 0]
    else if i % 8 = 4 then last.map subByte
    else last
  xorL ((ws[7]?).getD []) t

/-- The 60 words of the schedule, in order. -/
def keyWords (key : List Nat) : List (List Nat) :=
  let first := (List.range 8).map fun i => (key.drop (4 * i)).take 4
  ((List.range 52).foldl (fun ws k => nextWord (8 + k) ws :: ws) first.reverse).reverse

/-- The 15 round keys of 16 bytes. -/
def roundKeys (key : List Nat) : List (List Nat) :=
  let ws := keyWords key
  (List.range 15).map fun r => ((ws.drop (4 * r)).take 4).flatten

/-- Byte `i` of a block lies in row `i mod 4` of column `⌊i / 4⌋`. -/
def shiftRows (b : List Nat) : List Nat := (List.range 16).map fun i => nth b ((i + 4 * (i % 4)) % 16)
def invShiftRows (b : List Nat) : List Nat := (List.range 16).map fun i => nth b ((i + 12 * (i % 4)) % 16)

/-- Each column times a circulant row of four coefficients. -/
def mixWith (m : List Nat) (b : List Nat) : List Nat :=
  (List.range 16).map fun i =>
    (List.range 4).foldl (fun a k => a ^^^ gfMul 8 (nth b (i / 4 * 4 + k)) (nth m ((k + 4 - i % 4) % 4))) 0

def mixColumns : List Nat → List Nat := mixWith [2, 3, 1, 1]
def invMixColumns : List Nat → List Nat := mixWith [14, 11, 13, 9]

/-- AES-256 of one block under its round keys. -/
def aesEnc (rk : List (List Nat)) (b : List Nat) : List Nat :=
  let k (r : Nat) : List Nat := (rk[r]?).getD []
  let b := (List.range 13).foldl (fun b r => xorL (mixColumns (shiftRows (b.map subByte))) (k (r + 1))) (xorL b (k 0))
  xorL (shiftRows (b.map subByte)) (k 14)

/-- The inverse cipher. -/
def aesDec (rk : List (List Nat)) (b : List Nat) : List Nat :=
  let k (r : Nat) : List Nat := (rk[r]?).getD []
  let b := (List.range 13).foldl (fun b r => invMixColumns (xorL ((invShiftRows b).map invSubByte) (k (13 - r))))
    (xorL b (k 14))
  xorL ((invShiftRows b).map invSubByte) (k 0)

/-! ## GCM -/

def toNats (bs : List Byte) : List Nat := bs.map (·.toNat)
def ofNats (l : List Nat) : List Byte := l.map (BitVec.ofNat 8)

/-- The big-endian number of a block, padded to 16 bytes. -/
def blockNat (bs : List Byte) : Nat := beNat (slice bs 0 16)

/-- Multiplication in the GHASH field; `n` counts the bits of `x` left, `v` is the multiple of `y` in hand. -/
def ghashMul : Nat → Nat → Nat → Nat → Nat
  | 0, _, _, z => z
  | n + 1, x, v, z =>
    ghashMul n x (if v % 2 = 1 then v / 2 ^^^ 0xE1 * 2 ^ 120 else v / 2) (if x / 2 ^ n % 2 = 1 then z ^^^ v else z)

def ghash (h : Nat) (blocks : List (List Byte)) : Nat :=
  blocks.foldl (fun y b => ghashMul 128 (y ^^^ blockNat b) h 0) 0

def blocksOf (bs : List Byte) : List (List Byte) := pieces 16 (bs.length / 16 + 1) bs

/-- The GCM tag of additional data and ciphertext. -/
def gcmTag (rk : List (List Nat)) (iv aad ct : List Byte) : List Byte :=
  let h := beNat (ofNats (aesEnc rk (List.replicate 16 0)))
  let len := beBytes 8 (8 * aad.length) ++ beBytes 8 (8 * ct.length)
  let s := ghash h (blocksOf aad ++ blocksOf ct ++ [len])
  beBytes 16 (s ^^^ beNat (ofNats (aesEnc rk (toNats (iv ++ beBytes 4 1)))))

/-- The counter-mode stream over a byte string: block `i` uses counter `i + 2`. -/
def gcmStream (rk : List (List Nat)) (iv bs : List Byte) : List Byte :=
  ((blocksOf bs).zipIdx.map fun b =>
    List.zipWith (· ^^^ ·) b.1 (ofNats (aesEnc rk (toNats (iv ++ beBytes 4 (b.2 + 2)))))).flatten

/-- Seals a message: ciphertext and tag. -/
def gcmSeal (key iv aad pt : List Byte) : List Byte × List Byte :=
  let rk := roundKeys (toNats key)
  let ct := gcmStream rk iv pt
  (ct, gcmTag rk iv aad ct)

/-- Opens a message, where its tag is right. -/
def gcmOpen (key iv aad ct tag : List Byte) : Option (List Byte) :=
  let rk := roundKeys (toNats key)
  if gcmTag rk iv aad ct = tag then some (gcmStream rk iv ct) else none

/-! ## XTS -/

/-- The tweak times x, as a little-endian 128-bit number. -/
def xtsNext (t : Nat) : Nat := if t < 2 ^ 127 then 2 * t else (2 * t) % 2 ^ 128 ^^^ 0x87

/-- The blocks of one data unit under their tweaks. -/
def xtsBlocks (f : List Nat → List Nat) : List (List Byte) → Nat → List Byte
  | [], _ => []
  | b :: r, t =>
    let tb := toNats (leBytes 16 t)
    ofNats (xorL (f (xorL (toNats b) tb)) tb) ++ xtsBlocks f r (xtsNext t)

/-- One data unit: the first key is the data key, the second the tweak key. -/
def xtsUnit (enc : Bool) (key : List Byte) (du : Nat) (bs : List Byte) : List Byte :=
  let k1 := roundKeys (toNats (key.take 32))
  let k2 := roundKeys (toNats (key.drop 32))
  let t := leNat (ofNats (aesEnc k2 (toNats (leBytes 16 du))))
  xtsBlocks (if enc then aesEnc k1 else aesDec k1) (blocksOf bs) t

/-- A buffer of data units of `unit` bytes, the first numbered `du`. -/
def xtsCrypt (enc : Bool) (key : List Byte) (du unit : Nat) (bs : List Byte) : List Byte :=
  ((pieces unit (bs.length / unit + 1) bs).zipIdx.map fun p => xtsUnit enc key (du + p.2) p.1).flatten

/-! ## SHA-256 (FIPS 180-4) -/

/-- The largest integer whose `e`-th power is at most `n`, by trial of `k` bits. -/
def iroot (e n : Nat) : Nat → Nat → Nat
  | 0, r => r
  | k + 1, r => if (r + 2 ^ k) ^ e ≤ n then iroot e n k (r + 2 ^ k) else iroot e n k r

def isPrime (n : Nat) : Bool := (List.range n).all fun d => decide (d < 2) || n % d != 0
def shaPrimes : List Nat := (List.range 312).filter fun n => decide (2 ≤ n) && isPrime n

/-- The first 32 bits of the fractional parts of the square and cube roots of the primes. -/
def shaInit : List Nat := (shaPrimes.take 8).map fun p => iroot 2 (p * 2 ^ 64) 36 0 % 2 ^ 32
def shaK : List Nat := (shaPrimes.take 64).map fun p => iroot 3 (p * 2 ^ 96) 36 0 % 2 ^ 32

def rotr32 (x k : Nat) : Nat := x / 2 ^ k + x % 2 ^ k * 2 ^ (32 - k)
def add32 (l : List Nat) : Nat := l.foldl (· + ·) 0 % 2 ^ 32

/-- The message schedule, newest word first. -/
def shaExpand (ws : List Nat) : List Nat :=
  let w15 := nth ws 14
  let w2 := nth ws 1
  add32 [rotr32 w2 17 ^^^ rotr32 w2 19 ^^^ w2 / 2 ^ 10, nth ws 6, rotr32 w15 7 ^^^ rotr32 w15 18 ^^^ w15 / 8, nth ws 15]
    :: ws

def shaRound (h : List Nat) (kw : Nat) : List Nat :=
  let a := nth h 0
  let e := nth h 4
  let ch := (e &&& nth h 5) ^^^ ((0xFFFFFFFF ^^^ e) &&& nth h 6)
  let t1 := add32 [nth h 7, rotr32 e 6 ^^^ rotr32 e 11 ^^^ rotr32 e 25, ch, kw]
  let maj := (a &&& nth h 1) ^^^ (a &&& nth h 2) ^^^ (nth h 1 &&& nth h 2)
  let t2 := (rotr32 a 2 ^^^ rotr32 a 13 ^^^ rotr32 a 22) + maj
  [add32 [t1, t2], a, nth h 1, nth h 2, add32 [nth h 3, t1], e, nth h 5, nth h 6]

def shaBlock (k : List Nat) (h : List Nat) (b : List Byte) : List Nat :=
  let ws0 := (List.range 16).map fun i => beNat ((b.drop (4 * i)).take 4)
  let ws := ((List.range 48).foldl (fun ws _ => shaExpand ws) ws0.reverse).reverse
  let out := (List.zipWith (· + ·) k ws).foldl shaRound h
  (List.zipWith (fun a b => (a + b) % 2 ^ 32) h out)

/-- The message with its padding and bit length. -/
def shaPad (bs : List Byte) : List Byte :=
  let z := (119 - bs.length % 64) % 64
  bs ++ [0x80] ++ List.replicate z 0 ++ beBytes 8 (8 * bs.length)

/-- The 32-byte digest. -/
def sha256 (bs : List Byte) : List Byte :=
  let m := shaPad bs
  ((pieces 64 (m.length / 64 + 1) m).foldl (shaBlock shaK) shaInit).flatMap (beBytes 4)

end Sys2Proof.Machine
end

