-- ==== Sys2Proof/Machine/Out.lean ====
section
/-! DEFINITION. What leaves the block: the messages, writes and pin changes that hosts, accelerators, the wire, the
regulators and other units of the package see. The list `State.out` holds them, oldest first. -/

namespace Sys2Proof.Machine

/-- A CXL.cache request other than the RdCurr of `hostRead` (R333). -/
inductive CacheReq where
  | itoMWr | rdOwn | dirtyEvict | cleanEvict
  deriving DecidableEq, Repr

/-- One thing the block sends. -/
inductive Out where
  /-- An MSI-X message over CXL.io of a port (R332): the data its table entry holds, to the address it holds. -/
  | msix (port part vector addr data : Nat)
  /-- A CXL.cache request for a host line (R333). -/
  | cacheReq (port line : Nat) (req : CacheReq)
  /-- The bytes of a write to host memory (R333). -/
  | hostWrite (port part pa : Nat) (bytes : List Byte)
  /-- A read of host memory by RdCurr (R333), answered by a later command. -/
  | hostRead (port part pa len : Nat)
  /-- A peer-window write, read or read-back over CXL.io (R336, R338). -/
  | peerWrite (port part bus : Nat) (bytes : List Byte)
  | peerRead (port part bus len : Nat)
  /-- Data returned on CXL.mem, with its poison indication (R47). -/
  | cxlMem (port off : Nat) (bytes : List Byte) (poison : Bool)
  /-- A back-invalidate snoop (R60): with data when a device request will read. -/
  | biSnoop (port line : Nat) (inv : Bool)
  /-- A flit that leaves a router on a lane of a channel (R17, R21). -/
  | weft (die chan : Nat) (inbound : Bool) (f : Flit)
  /-- A Weft message that a router delivers to a unit of its die (R18). -/
  | delivered (m : WeftMsg)
  /-- The answer of a Spool controller to a device request (R44). -/
  | spoolReply (dest : Nat) (status : Status) (bytes : List Byte)
  /-- The 272 bytes of a flit on a Tchiolmeo port (R344, R345). -/
  | flit (port : Nat) (bytes : List Byte)
  /-- A frame on an Ethernet sub-port (R363, R373), and one on the management MAC (R381). -/
  | frame (port sub : Nat) (bytes : List Byte) (badFcs : Bool)
  | mgmtFrame (bytes : List Byte)
  /-- A register-read or memory-read answer to a host. -/
  | readData (part value : Nat)
  /-- A configuration request is to be retried (R431). -/
  | configRetry (part : Nat)
  /-- A PMBus transaction with a regulator (R420): its index, the command code and the value written. -/
  | pmbus (vr code value : Nat)
  /-- A pin of the package (R512 to R517). -/
  | pin (name : String) (high : Bool)
  /-- Answer to an SPDM or CDAT request over DOE (R441). -/
  | spdm (port : Nat) (bytes : List Byte)
  /-- The answer to an H2D snoop (R335). -/
  | snoopRsp (port line : Nat) (dirty : Bool)
  deriving DecidableEq, Repr

end Sys2Proof.Machine
end

