-- ==== Sys2Proof/Machine/StateBobbin.lean ====
section
/-! DEFINITION. The parts of the state of the Bobbin cores, their images, launches and sequences (chapters 9 and 10), and of
the counters (chapter 19). -/

namespace Sys2Proof.Machine

/-- Bobbin states (R297). -/
inductive BobSt where
  | unassigned | idle | loading | running | halted | stopping | zeroing | fenced
  deriving DecidableEq, Repr

/-- What a member waits for (R281): the streams of a tag, every stream before a `FENCE`, `CKPT` or `HALT` ends, or a
barrier. -/
inductive BobWait where
  | tag (t d : Nat)
  | fence
  | ckpt (v : Word64)
  | halt (code : Nat)
  | barrier (gang : Bool)
  deriving DecidableEq, Repr

/-- A work entry of `ATTN_DECODE` with the geometry copied at the launch (R309). -/
structure AttnWork where
  seq : Nat
  geometry : BitVec 128
  layer : Nat
  len : Nat
  qIndex : Nat
  outIndex : Nat
  deriving DecidableEq, Repr

/-- A unit of a stream: its stack and scratch address. `held` holds the 64-byte lines read from the source so far, with whether one
was zero-filled, and `sent` the lines that have reached the destination (R264). -/
structure StreamUnit where
  a : Nat
  sa : Nat
  held : List (Nat × List Byte × Bool) := []
  sent : List Nat := []
  deriving DecidableEq, Repr

/-- A stream instruction outstanding (R261), with the units that are left. -/
structure Stream where
  id : Nat
  tag : Nat
  write : Bool
  np : Bool
  log2 : Nat
  units : List StreamUnit
  deriving DecidableEq, Repr

/-- A Bobbin (R256, R297). Registers are by number, `a` holds the 32 lanes of an accumulator, `tags` the CRC of a 4 KiB block
of scratch while it is valid. `tagUnits` and `tagZero` count a tag's units since the last `SWAIT` on it. -/
structure Bobbin where
  state : BobSt := .unassigned
  part : Nat := 0
  /-- The launch it is a member of (the model's number of it), its member index, and the launch's `LAUNCH_ID`. -/
  launch : Option Nat := none
  member : Nat := 0
  launchId : BitVec 16 := 0
  resident : BitVec 16 := 0
  ckpt : Word64 := 0
  pc : Nat := 0
  shadowLane : BitVec 5 := 0
  /-- Steps of work since the watch last advanced (R286). -/
  steps : Nat := 0
  s : Tab Word64 := []
  v : Tab (BitVec 1024) := []
  p : Tab (BitVec 128) := []
  a : Tab (BitVec 1024) := []
  scratch : Tab Byte := []
  tags : Tab (Option (BitVec 32)) := []
  code : List Byte := []
  streams : List Stream := []
  nextStream : Nat := 0
  tagUnits : Tab Nat := []
  tagZero : Tab Nat := []
  wait : Option BobWait := none
  /-- Elements converted with `SR` since its start (R278). -/
  srCount : Nat := 0
  exit : Nat := 0
  /-- A resident program has met what its exit code reports (R301). -/
  flag : Bool := false
  /-- The plan area of `ATTN_DECODE` in scratch, whose layout is the image's own (R309). -/
  plan : List AttnWork := []
  /-- It was given up while its scratch is not zero, and becomes UNASSIGNED with that (R297, R399). -/
  leaving : Bool := false
  deriving DecidableEq, Repr

/-- An image by its handle index (R287 to R289). The generation stays when it is unloaded. A resident image's code is the
firmware's own. -/
structure Image where
  loaded : Bool := false
  gen : BitVec 6 := 0
  part : Nat := 0
  shared : Bool := false
  resident : Bool := false
  restart : Bool := false
  entry : Nat := 0
  constOff : Nat := 0
  code : List Byte := []
  consts : List Byte := []
  /-- The image as it was loaded, for a save image (R406). -/
  bytes : List Byte := []
  deriving DecidableEq, Repr

/-- A window of a launch (R259). -/
structure BobWin where
  first : Nat
  count : Nat
  rd : Bool
  wr : Bool
  deriving DecidableEq, Repr

/-- A sequence entry (R303): bytes 0 to 15 as they were created, and the device-owned fields. -/
structure SeqEntry where
  entry : BitVec 128 := 0
  valid : Bool := false
  refs : BitVec 16 := 0
  deriving DecidableEq, Repr

/-- Where a launch stands: queued, withdrawn by a freeze (R404), running, stopping for its end, or stopping to be replayed (R286, R292, R294). -/
inductive LaunchSt where
  | queued | withdrawn | running | ending | replaying
  deriving DecidableEq, Repr

/-- An outstanding launch. `members` holds its Bobbins by member index; `fault` is its outcome where it does not end with
OK, with the Bobbin that faulted and its PC. -/
structure Launch where
  id : Nat
  part : Nat
  launchId : BitVec 16
  image : Nat
  mask : BitVec 16
  per : Nat
  ctx : Nat
  limitMs : Nat
  wins : List BobWin
  seed : Word64
  args : List Byte
  cmd : CmdRef
  packet : List Byte
  state : LaunchSt := .queued
  members : List Nat := []
  started : Option Word64 := none
  fault : Option (Status × Option Nat × Nat) := none
  replayed : Bool := false
  work : List AttnWork := []
  deriving DecidableEq, Repr

/-- Bobbins, images, launches and sequences. -/
structure BobState where
  chkRetry : BitVec 3 := 2
  stallUs : BitVec 8 := 5
  shadowLog2 : BitVec 5 := 0xC
  faultSeen : Bool := false
  crcSeen : Bool := false
  scratchUeSeen : Bool := false
  dualRailSeen : Bool := false
  stallSeen : Bool := false
  shadowSeen : Bool := false
  replaySeen : Bool := false
  poisonTolSeen : Bool := false
  crcRetry : BitVec 40 := 0
  /-- Single-bit errors of scratch corrected, by Bobbin (R257). No register reads them. -/
  scratchCe : Tab Nat := []
  bobbin : Tab Bobbin := []
  image : Tab Image := []
  launch : List Launch := []
  nextLaunch : Nat := 0
  seq : Tab SeqEntry := []
  setVer : BitVec 8 := 0
  /-- BOB_STOP commands with the launch whose completion they wait for (R296). -/
  stops : List (CmdRef × CmdRef) := []
  deriving DecidableEq, Repr

/-! ## Counters (chapter 19) -/

/-- A running profile (R501). -/
structure Profile where
  part : Nat
  classMask : BitVec 12
  dieMask : BitVec 40
  bufCtx : Nat
  bufPa : Nat
  periodUs : Nat
  log2 : Nat
  last : Word64
  deriving DecidableEq, Repr

/-- Counter banks by unit * 16 + index, partition counters by partition * 8 + index, and the CNT registers. `ordered` says that
a copy into `CNT.VIEW` has been ordered and has not landed. `HEAD` and `TAIL` count slots modulo 2^21. -/
structure CntState where
  bank : Tab Word64 := []
  part : Tab Word64 := []
  sel : BitVec 16 := 0
  valid : Bool := false
  ordered : Bool := false
  view : BitVec 1024 := 0
  profSkipSeen : Bool := false
  rounds : BitVec 32 := 0
  head : BitVec 21 := 0
  tail : BitVec 21 := 0
  skip : BitVec 40 := 0
  prof : Option Profile := none
  deriving DecidableEq, Repr

end Sys2Proof.Machine
end

