-- ==== Sys2Proof/Machine/StateEdge.lean ====
section
/-! DEFINITION. The parts of the state of the Ethernet ports and the management MAC (chapter 12) and of the cipher complex
(chapter 13). -/

namespace Sys2Proof.Machine

/-! ## Ethernet (chapter 12) -/

/-- Link state of a sub-port (R362), in the order of `PORT_STATE`. -/
inductive EthLink where
  | disabled | training | up | down
  deriving DecidableEq, Repr

/-- Power state of a port (`PORT_STATE.POWER`). -/
inductive EthPower where
  | active | entering | low | waking
  deriving DecidableEq, Repr

/-- A packet in a transmit queue: the frame without its FCS, the QP whose packet it is, the ETH_SEND or UD_SEND it belongs
to, and whether the command wants its timestamp. -/
structure TxPacket where
  frame : List Byte
  qp : Option Nat := none
  cmd : Option CmdRef := none
  tstamp : Bool := false
  /-- The command is UD_SEND, which the serving engine completes (R143). -/
  ud : Bool := false
  unit : Nat := 0
  /-- An `ETH_SEND` frame is staged whole (R373). -/
  whole : Bool := false
  deriving DecidableEq, Repr

/-- A frame on the wire: its packet, the port time it started at, and whether an underrun cut it (R373). -/
structure TxFrame where
  pkt : TxPacket
  start : Word64
  cut : Bool
  deriving DecidableEq, Repr

/-- A sub-port: address, link, statistics counters by number (R375), the root's virtual time, the frame on the wire, and
whether it holds a stored equalisation (R380). -/
structure EthSub where
  mac : BitVec 48 := 0
  link : EthLink := .disabled
  cnt : Tab Nat := []
  v : Word64 := 0
  tx : Option TxFrame := none
  eq : Bool := false
  deriving DecidableEq, Repr

/-- The two buckets of a shaper or policer in 1/65 536 bytes, `used` below full (R366, R371): a full bucket reads 0. -/
structure Buckets where
  usedC : Nat := 0
  usedP : Nat := 0
  last : Word64 := 0
  deriving DecidableEq, Repr

/-- `ETH.GROUP[k][g]` with its scheduler state (R371, R372); `w0` and `w8` are the register words. -/
structure EthGroup where
  w0 : Word64 := 0x400
  /-- A word written at +0 that waits for the write of +8. -/
  held : Option Word64 := none
  w8 : Word64 := 0x800000000000
  b : Buckets := {}
  f : Word64 := 0
  v : Word64 := 0
  /-- The group has a child it may serve (R372). -/
  ready : Bool := false
  deriving DecidableEq, Repr

/-- `ETH.TXQ[k][q]` with its packets, oldest first. -/
structure EthQueue where
  w0 : Word64 := 0x120200
  /-- A word written at +0 that waits for the write of +8. -/
  held : Option Word64 := none
  w8 : Word64 := 0x800000000000
  b : Buckets := {}
  f : Word64 := 0
  pkts : List TxPacket := []
  deriving DecidableEq, Repr

/-- `ETH.POLICER[k][i]`. -/
structure EthPolicer where
  w0 : Word64 := 0
  /-- A word written at +0 that waits for the write of +8. -/
  held : Option Word64 := none
  w8 : Word64 := 0
  b : Buckets := {}
  deriving DecidableEq, Repr

/-- `ETH.RULE[k][r]`: the words in use. -/
structure EthRule where
  w0 : Word64 := 0
  /-- A word written at +0 that waits for the write of +8. -/
  held : Option Word64 := none
  w8 : Word64 := 0
  deriving DecidableEq, Repr

/-- `ETH.RXQ[k][q]`. `cfg` is the word at +0x08; `next` counts slots written, so that its low bits are `TAIL` and the wrap
toggles the phase (R367). -/
structure EthRxq where
  ringPa : Word64 := 0
  cfg : Word64 := 0xB40000
  head : BitVec 16 := 0
  arm : Bool := false
  tail : BitVec 16 := 0
  deriving DecidableEq, Repr

/-- An Ethernet port. -/
structure EthPort where
  cfg : Word64 := 0x6400000008
  enable : BitVec 8 := 0
  lowPower : Bool := false
  power : EthPower := .active
  sub : Tab EthSub := []
  colour : BitVec 128 := 0
  ptime : Word64 := 0
  rate : BitVec 32 := 0
  snapPort : Word64 := 0
  snapDie : Word64 := 0
  wakePat : BitVec 1024 := 0
  wakeMask : BitVec 128 := 0
  wakeCfg : BitVec 2 := 1
  /-- `TXMAP[p]` at +0 and +8, by 2 p and 2 p + 1. -/
  txmap : Tab (BitVec 54) := []
  rule : Tab EthRule := []
  rxq : Tab EthRxq := []
  group : Tab EthGroup := []
  txq : Tab EthQueue := []
  policer : Tab EthPolicer := []
  /-- The `POWER` event of a wake has been posted (R380). -/
  woken : Bool := true
  deriving DecidableEq, Repr

/-- A frame the management MAC sends in half duplex: its collisions, the bit times it backs off and the local time of
die 38 at which that wait began (R382). -/
structure MgmtTx where
  frame : List Byte
  collisions : Nat
  wait : Nat
  since : Word64
  deriving DecidableEq, Repr

/-- Ethernet (chapter 12). -/
structure EthState where
  err : BitVec 6 := 0
  mgmtEnable : Bool := false
  sgmiiAn : Bool := true
  speed : BitVec 2 := 2
  duplex : Bool := true
  lateCol : BitVec 24 := 0
  excessCol : BitVec 24 := 0
  /-- Speed and full duplex of the auto-negotiation word in use (R381). -/
  anSpeed : BitVec 2 := 2
  anDuplex : Bool := true
  mgmtTx : Option MgmtTx := none
  mgmtRx : List (List Byte) := []
  mgmtLfsr : BitVec 32 := 0x9AC5
  port : Tab EthPort := []
  deriving DecidableEq, Repr

/-! ## Cipher (chapter 13) -/

/-- A slot's `STATE` (R386). -/
inductive SlotState where
  | empty | gcm | xts | exhausted
  deriving DecidableEq, Repr

/-- A key slot (R386). Its partition is that of the range it lies in. The two copies of the store (R385) change as one
event and are one field. -/
structure KeySlot where
  state : SlotState := .empty
  fixed : BitVec 32 := 0
  peerFixed : BitVec 32 := 0
  counter : Word64 := 0
  limit : Word64 := 0
  refs : BitVec 16 := 0
  key : List Byte := []
  deriving DecidableEq, Repr

/-- What a cipher job works for: a Shuttle packet of a QP with its bytes of payload, or a data command with the counter allocated to it. -/
inductive CipherWork where
  | packet (qp bytes : Nat)
  | command (c : Cmd) (counter : Nat)
  deriving DecidableEq, Repr

/-- A job of the cipher scheduler with its class (R391); `core` is the core a suspended job ran on last (R393). -/
structure CipherJob where
  id : Nat
  cls : Nat
  slot : Nat
  work : CipherWork
  core : Option Nat := none
  replayed : Bool := false
  deriving DecidableEq, Repr

/-- The cipher complex (chapter 13). `running` holds the core of each job, longest running first; `waiting` is in arrival
order. -/
structure CipState where
  slot : Tab KeySlot := []
  bulkCores : BitVec 4 := 2
  schedDie37 : Bool := false
  exhaustedSeen : Bool := false
  openFailSeen : Bool := false
  failoverSeen : Bool := false
  sel : BitVec 16 := 0
  waiting : List CipherJob := []
  running : List (Nat × CipherJob) := []
  suspended : List CipherJob := []
  nextJob : Nat := 0
  deriving DecidableEq, Repr

end Sys2Proof.Machine
end

