-- ==== Sys2Proof/Machine/StateHang.lean ====
section
/-! DEFINITION. The part of the state of hangs, resets and crash dumps (chapter 18). -/

namespace Sys2Proof.Machine

/-- A node of the wait-for graph (R479), in the coding of `FRM.WFD_CYCLE`: 0 unit, 1 skein, 2 QP, 3 communicator, 4 launch. -/
structure WfNode where
  kind : Nat
  number : Nat
  deriving DecidableEq, Repr

/-- An edge from a waiter to a holder, and the consecutive collections it has been in (R480). -/
structure WfEdge where
  waiter : WfNode
  holder : WfNode
  seen : Nat
  deriving DecidableEq, Repr

/-- A reset under way (R482 to R484): the unit and level asked, the level now applied, when it was applied, whether every unit
has stopped, and the command or isolation it belongs to. -/
structure ResetRun where
  unit : Nat
  level : Nat
  replay : Bool
  at_ : Word64
  reached : Bool := false
  /-- It has been escalated (R484). -/
  raised : Bool := false
  cmd : Option CmdRef := none
  iso : Bool := false
  deriving DecidableEq, Repr

/-- An object whose work was on the unit an isolation resets (R487, R488). -/
structure Suspect where
  otype : Nat
  object : Nat
  ctx : Nat
  part : Nat
  guilty : Bool := false
  untested : Bool := false
  tested : Bool := false
  deriving DecidableEq, Repr

/-- An isolation under way (R487): the suspect under test, when its replay began, and the items of work the unit had then
completed. -/
structure Isolation where
  unit : Nat
  tmoMs : Nat
  cmd : CmdRef
  part : Nat
  bufCtx : Nat
  bufPa : Nat
  len : Nat
  suspects : List Suspect := []
  cur : Option Nat := none
  at_ : Word64 := 0
  items : Nat := 0
  deriving DecidableEq, Repr

/-- An entry of a dump's directory (R490). -/
structure DumpEntry where
  unit : Nat
  status : Nat
  offset : Nat
  length : Nat
  crc : Nat
  deriving DecidableEq, Repr

/-- A dump being taken (R489): its cause, its start, what has been examined, and the units left, the first being read now
since `readAt`. -/
structure DumpRun where
  cause : Nat
  mode : Nat
  start : Word64
  entries : List DumpEntry := []
  data : List (List Byte) := []
  left : List Nat := []
  readAt : Word64 := 0
  cmd : Option CmdRef := none
  /-- The reset of a unit that follows the dump (R485, R490): unit, level, replay. -/
  after : Option (Nat × Nat × Bool) := none
  deriving DecidableEq, Repr

/-- Hangs, resets and dumps (chapter 18). -/
structure HangState where
  hbPeriodMs : BitVec 7 := 0x64
  wfdPeriodUs : BitVec 8 := 0x64
  wfdStable : BitVec 4 := 4
  /-- 0 normal, 1 test, 2 recovery; a start shows as 3 (R478). -/
  mode : BitVec 2 := 0
  /-- The mode to return to when an isolation or escalation ends. -/
  prevMode : BitVec 2 := 0
  hbMissed : Bool := false
  cycleSeen : Bool := false
  escalated : Bool := false
  pkgNeeded : Bool := false
  dumpValid : Bool := false
  dumpCopied : Bool := false
  dumpSkipped : Bool := false
  levelReached : BitVec 2 := 0
  hbCount : BitVec 32 := 0
  wfdCycle : List (BitVec 32) := []
  wfdTime : Word64 := 0
  /-- `FRM.HUNG`, by unit ID. -/
  hung : Tab Bool := []
  /-- The last heartbeat, the units that held work at it, and the items of work each unit had completed. -/
  hbAt : Word64 := 0
  heldAt : List Nat := []
  itemsAt : Tab Nat := []
  /-- Items of work completed, by unit (R476). -/
  items : Tab Nat := []
  edges : List WfEdge := []
  wfdAt : Word64 := 0
  resets : List ResetRun := []
  iso : Option Isolation := none
  dump : Option DumpRun := none
  dumpSeq : BitVec 32 := 0
  dumpTotal : Nat := 0
  /-- Units examined by the kept dump. -/
  dumpUnits : Nat := 0
  deriving DecidableEq, Repr

end Sys2Proof.Machine
end

