-- ==== Sys2Proof/Machine/StateLinks.lean ====
section
/-! DEFINITION. The parts of the state at the device's edges: the CXL ports, the peer and host windows, the MSI-X
tables, the Tchiolmeo ports (chapter 11), and the power tokens, domains and regulators (chapter 15). -/

namespace Sys2Proof.Machine

/-! ## Links (chapter 11) -/

/-- `LNK.HOSTWIN[p][w]` (R334); pages are numbers of 4 KiB host pages. -/
structure HostWin where
  valid : Bool := false
  rd : Bool := false
  wr : Bool := false
  base : BitVec 40 := 0
  limit : BitVec 40 := 0
  deriving DecidableEq, Repr

/-- `LNK.PEERWIN[w]` (R336). -/
structure PeerWin where
  enable : Bool := false
  rd : Bool := false
  wr : Bool := false
  port : Bool := false
  part : BitVec 6 := 0
  sizeLog2 : BitVec 6 := 0xC
  busBase : BitVec 52 := 0
  deriving DecidableEq, Repr

/-- An access under way over CXL.cache or CXL.io (R333, R337, R338): its port, whether it is a peer-window access, its
kind and whose it is. -/
structure CxlReq where
  id : Nat
  port : Nat
  peer : Bool
  write : Bool
  readBack : Bool
  part : Nat
  pa : Nat
  len : Nat
  deriving DecidableEq, Repr

/-- `LNK.HPORT[x]` and the port's device coherency cache (R327, R333): host lines held modified, by host line. -/
structure HPort where
  up : Bool := false
  rate : BitVec 3 := 0
  width : BitVec 5 := 0
  flit256 : Bool := false
  cacheEn : Bool := false
  memEn : Bool := false
  vfEnable : Bool := false
  numVfs : Nat := 0
  snoops : BitVec 40 := 0
  reqDeny : BitVec 40 := 0
  downs : BitVec 16 := 0
  modified : List Nat := []
  /-- The link may train: PERSTx_N is high (R513). -/
  training : Bool := false
  /-- Set by a port-down that the port's reset follows. -/
  rasStatus : Bool := false
  deriving DecidableEq, Repr

/-- `LNK.APORT[k].STATE`. -/
inductive APortSt where
  | down | training | up | retrain | disabled
  deriving DecidableEq, Repr

/-- Credit of the three Tchiolmeo classes (R347). -/
structure TchCredit where
  hdr : Nat := 0
  rsp : Nat := 0
  data : Nat := 0
  deriving DecidableEq, Repr

/-- A flit kept for replay (R346). -/
structure TxFlit where
  seq : Nat
  kind : Nat
  payload : List Byte
  deriving DecidableEq, Repr

/-- A WRITE, ATOMIC or REDUCE_PUSH of the accelerator that has not been answered, or one held under R351. -/
structure AccReq where
  id : Nat
  typ : Nat
  tag : Nat
  header : List Byte
  data : List Byte
  ordered : Bool
  /-- Held until every earlier request has its response (R351). -/
  held : Bool
  deriving DecidableEq, Repr

/-- A device request to the accelerator (R354). -/
structure DevReq where
  tag : Nat
  typ : Nat
  pa : Nat
  len : Nat
  /-- The port the request came from when it was switched (R349), else none. -/
  fromPort : Option (Nat × Nat)
  sent : Word64
  timedOut : Bool
  deriving DecidableEq, Repr

/-- A CREDIT grant for contributions (R352, R353). -/
structure CreditGrant where
  comm : Nat
  opseq : Nat
  offset : Nat
  bytes : Nat
  deriving DecidableEq, Repr

/-- A signal held under R351 until the earlier requests are answered. -/
structure HeldSignal where
  id : Nat
  header : List Byte
  deriving DecidableEq, Repr

/-- `LNK.APORT[k]` and the link beside it. -/
structure APort where
  state : APortSt := .down
  half : Bool := false
  part : BitVec 6 := 0
  ctx : BitVec 16 := 0
  accId : Word64 := 0
  crcErr : BitVec 40 := 0
  replays : BitVec 40 := 0
  downs : BitVec 16 := 0
  reqDeny : BitVec 40 := 0
  /-- R355: the step under way, 1 to 4; 0 when no training runs. -/
  step : Nat := 0
  warmEq : Bool := false
  /-- It holds equalisation settings from a training that ended UP (R355). -/
  hasEq : Bool := false
  /-- Times of the present step's start and of the last training's start. -/
  stepAt : Word64 := 0
  triedAt : Word64 := 0
  /-- It has left UP, and retrains (R356). -/
  retrained : Bool := false
  /-- Commands that wait for UP or DISABLED (R357). -/
  cmds : List CmdRef := []
  /-- R345: the next sequence number to send and the last one received intact. -/
  txSeq : Nat := 0
  rxSeq : Nat := 4095
  ackedSeq : Nat := 4095
  nakSent : Bool := false
  /-- Headers of the last header flit whose data has not come, the data so far, and transactions not handled yet. -/
  rxHdrs : List (List Byte) := []
  rxData : List Byte := []
  inbox : List (List Byte × List Byte) := []
  replayRuns : Nat := 0
  replay : List TxFlit := []
  /-- Transactions that wait for credit (R347). -/
  txWait : List (List Byte × List Byte) := []
  /-- Credits the device may spend, and those it still grants (R347). -/
  txCredit : TchCredit := {}
  owedCredit : TchCredit := {}
  nextId : Nat := 0
  accReqs : List AccReq := []
  heldSignals : List HeldSignal := []
  devReqs : List DevReq := []
  grants : List CreditGrant := []
  deriving DecidableEq, Repr

/-- Links (chapter 11). -/
structure LnkState where
  accTmoUs : BitVec 6 := 0x14
  autoRetrain : Bool := true
  failover : Bool := false
  allowHalf : Bool := true
  vfMsix : BitVec 12 := 0x40
  accCrcSeen : Bool := false
  accDownSeen : Bool := false
  accDenySeen : Bool := false
  hostwinDenySeen : Bool := false
  hostWbLost : Bool := false
  p2pErrSeen : Bool := false
  cxlDownSeen : Bool := false
  vfDenySeen : Bool := false
  vfDeny : BitVec 40 := 0
  accLate : BitVec 40 := 0
  aport : Tab APort := []
  hport : Tab HPort := []
  peerWin : Tab PeerWin := []
  /-- By partition * 8 + window. -/
  hostWin : Tab HostWin := []
  /-- `LNK.HOME[p].PORT`: true for H1. -/
  home : Tab Bool := []
  /-- The base addresses of a function's BARs by partition * 8 + dword, and the words last written to the CXL component registers
  (R330). -/
  barBase : Tab (BitVec 32) := []
  component : Tab (BitVec 32) := []
  /-- MSI-X tables by partition * 2048 + vector (R330, R332): address and data, vectors unmasked, and pending bits. -/
  msixAddr : Tab Word64 := []
  msixData : Tab (BitVec 32) := []
  msixOpen : Tab Bool := []
  pba : Tab Bool := []
  /-- A VF's table size, fixed when VF Enable is set (R332), by port. -/
  vfTable : Tab Nat := []
  cxlReqs : List CxlReq := []
  nextReq : Nat := 0
  /-- Reads outside the Spool that have completed and wait for the unit that asked. -/
  answers : List ExtRead := []
  deriving DecidableEq, Repr

/-! ## Power (chapter 15) -/

/-- A request for tokens (R410): the unit, the partition of its work, and the tokens still wanted. -/
structure TokReq where
  unit : Nat
  part : Nat
  n : Nat
  deriving DecidableEq, Repr

/-- A grant the Treadle has made and not got back, oldest first (R413). -/
structure TokGrant where
  unit : Nat
  part : Nat
  n : Nat
  deriving DecidableEq, Repr

/-- A recall under way: the tokens a unit must give back at its next step boundary (R410), out of those granted on a partition's
requests. -/
structure TokRecall where
  unit : Nat
  part : Nat
  n : Nat
  deriving DecidableEq, Repr

/-- `PWR.DOMAIN[x].STATE` (R417). -/
inductive DomSt where
  | on | sleeping | retain | off | waking
  deriving DecidableEq, Repr

/-- `PWR.DOMAIN[x]`. `toOff` says where a SLEEPING domain goes, `wakeHeld` that a wake source came meanwhile. -/
structure Domain where
  state : DomSt := .on
  policy : BitVec 2 := 0
  idleUs : BitVec 8 := 0xA
  wakes : BitVec 16 := 0
  pace : BitVec 12 := 0
  paceMin : BitVec 12 := 0xFFF
  temp : BitVec 11 := 0
  voltMv : BitVec 16 := 0
  lowSamples : Nat := 0
  /-- The lowest of those samples (R423). -/
  lowMin : BitVec 12 := 0
  episode : Bool := false
  toOff : Bool := false
  wakeHeld : Bool := false
  /-- Since when its idle condition has held (R417). -/
  idleSince : Option Word64 := none
  deriving DecidableEq, Repr

/-- `PWR.VR[i]` with its run of failed transfers (R421). -/
structure Regulator where
  addr : BitVec 7 := 0
  valid : Bool := false
  role : BitVec 8 := 0
  vsetMv : BitVec 16 := 0
  voutMv : BitVec 16 := 0
  ioutDa : BitVec 16 := 0
  status : BitVec 16 := 0
  poutW : BitVec 16 := 0
  poutMw : Nat := 0
  fails : Nat := 0
  exponent : Nat := 0
  deriving DecidableEq, Repr

/-- PWR_SET waiting for recalled tokens (R415). -/
structure PwrSetWait where
  cmd : CmdRef
  deriving DecidableEq, Repr

/-- A core-side transfer into an island that has begun (R425): the island, the unit that asks with the tag of its request, and
the time of the island's die when it began. -/
structure Crossing where
  island : Nat
  requester : Nat
  ctx : Nat
  stream : Nat
  began : Word64
  deriving DecidableEq, Repr

/-- Power (chapter 15). -/
structure PwrState where
  profile : BitVec 3 := 0
  coolingB : Bool := false
  idleReleaseUs : BitVec 8 := 0xA
  throttleC : BitVec 8 := 0x64
  pmb1MHz : Bool := false
  budgetW : BitVec 12 := 0x4B0
  vrFaultSeen : Bool := false
  paceLowSeen : Bool := false
  crossStallSeen : Bool := false
  coreStallSeen : Bool := false
  throttleSeen : Bool := false
  xstallMap : BitVec 36 := 0
  /-- Stalled islands whose unit has been reset since (R425). -/
  xReset : BitVec 36 := 0
  /-- The transfers into islands that may not have been taken yet, the last of each requester (R425). -/
  crossings : List Crossing := []
  measuredMw : BitVec 32 := 0
  requests : List TokReq := []
  grants : List TokGrant := []
  recalls : List TokRecall := []
  /-- Since when a unit that holds tokens has had no work (R410). -/
  idleAt : Tab (Option Word64) := []
  /-- `ACCT`, a unit's account of steps (R411). -/
  acct : Tab Int := []
  setWait : Option PwrSetWait := none
  domain : Tab Domain := []
  vr : Tab Regulator := []
  /-- Dies above `THROTTLE_C` (R414), and each die's always-on sensor (R461). -/
  throttled : Tab Bool := []
  dieTemp : Tab (BitVec 11) := []
  dieVolt : Tab (BitVec 16) := []
  /-- The hottest layer of a stack (R516). -/
  dramTemp : Tab (BitVec 11) := []
  deriving DecidableEq, Repr

end Sys2Proof.Machine
end

