-- ==== Sys2Proof/Machine/StateShuttle.lean ====
section
/-! DEFINITION. The part of the state of the Shuttle transport (chapters 5 and 6). -/

namespace Sys2Proof.Machine

/-- QP states (R133). -/
inductive QpSt where
  | reset | init | armed | active | drain | error
  deriving DecidableEq, Repr

/-- A posted RECV (R145). -/
structure Recv where
  cmd : CmdRef
  lkey : Nat
  loff : Nat
  len : Nat
  deriving DecidableEq, Repr

/-- A data operation at its serving engine. `data` is an inline payload, an atomic's operands or a Reed contribution;
`built` counts the payload bytes in packets so far, `closed` says that no further packet will be built, `failed` is the
first failure or refusal recorded against it (R144, R521). A Reed engine's own push has no command. -/
structure SendOp where
  id : Nat
  qp : Nat
  code : Nat
  cmd : Option CmdRef
  packet : List Byte
  data : Option (List Byte)
  lkey : Nat
  loff : Nat
  rkey : Nat
  roff : Nat
  len : Nat
  aux : Nat := 0
  aux2 : Nat := 0
  msgId : Option Nat := none
  built : Nat := 0
  closed : Bool := false
  failed : Option Status := none
  prior : Nat := 0
  /-- Writes of its responses that an accelerator's port has not acknowledged yet (R150): port and tag. -/
  waits : List (Nat × Nat) := []
  /-- A control push of R221: 0 none, 1 release, 2 recall. -/
  control : Nat := 0
  /-- The CRC-32C of each 4 KiB of a Reed engine's push (R249). -/
  crcs : List Nat := []
  ext : List ExtRead := []
  deriving DecidableEq, Repr

/-- A packet sent and not resolved, one entry per PSN. `pos` is its place in the operation's buffer; of a READ, `rlen` is
the length of this PSN's response, and `first` and `reqLen` are the first PSN and the length of its READ_REQ. -/
structure Sent where
  psn : BitVec 32
  op : Nat
  opc : Nat
  msgId : Nat
  offset : Nat
  key : Nat
  aux : Nat
  aux2 : Nat
  flags : Nat
  payload : List Byte
  /-- Answered by a response, which acknowledges it (R180). -/
  answered : Bool
  pos : Nat
  rlen : Nat := 0
  first : BitVec 32
  reqLen : Nat := 0
  /-- It has been sent again, as a READ_REQ of its own (R181). -/
  single : Bool := false
  refused : Option Status := none
  deriving DecidableEq, Repr

/-- A packet waiting for the QP's pace (R187): one to send again by its PSN, one that a late acknowledgement does not cancel
(R184), or a response owed (R180). -/
inductive TxItem where
  | again (psn : BitVec 32)
  | copy (e : Sent)
  | resp (psn : BitVec 32) (opc msgId offset : Nat) (payload : List Byte)
  deriving DecidableEq, Repr

/-- An accepted packet that has not committed (R150, R152): its PSNs, whether it carries FLAG and draws an ACK, and what a
FLAG packet writes at its commit. `key` is the key it was admitted under (R198). -/
structure RxOpen where
  psns : List (BitVec 32)
  flag : Bool
  ack : Bool
  key : Nat
  msgId : Nat
  send : Bool
  /-- Payload bytes. -/
  bytes : Nat := 0
  /-- Context, address and payload of a FLAG packet still to be written. -/
  write : Option (Nat × Nat × List Byte)
  ext : List ExtRead
  /-- Its writes that an accelerator's port has not acknowledged yet (R150): port and tag; and the first that failed. -/
  waits : List (Nat × Nat) := []
  fault : Option Status := none
  /-- RoCEv2: the last packet of its message; the RECV that completes with it, and the bytes of the message. -/
  last : Bool := false
  done : Option (Recv × Nat) := none
  deriving DecidableEq, Repr

/-- A SEND message bound to a RECV (R146): its length, its bytes committed or abandoned, and how its RECV completes. -/
structure RxMsg where
  msgId : Nat
  recv : Recv
  len : Nat
  got : Nat := 0
  /-- Packets committed or abandoned. -/
  parts : Nat := 0
  /-- Packets refused and not yet abandoned: PSN and payload bytes. -/
  refused : List (BitVec 32 × Nat) := []
  bad : Bool
  failed : Option Status
  done : Option (Status × List Nat)
  /-- Its RECV has completed. -/
  told : Bool
  deriving DecidableEq, Repr

/-- SEND packets that wait until every PSN below the lowest of them has been received: the frames as they came. -/
structure RxPend where
  msgId : Nat
  frames : List (BitVec 32 × List Byte)
  port : Nat
  deriving DecidableEq, Repr

/-- One atomic record (R197). -/
structure AtomRec where
  psn : BitVec 32
  prior : Nat
  deriving DecidableEq, Repr

/-- An NVMe command outstanding at the target (R169 to R171). -/
structure NvmeCmd where
  cid : Nat
  cmd : CmdRef
  sent : Word64
  deriving DecidableEq, Repr

/-- An ACK, NAK or RoCEv2 packet that waits for its transmit queue: opcode and fields, or the RoCEv2 bytes. -/
structure CtlPkt where
  opc : Nat
  flags : Nat
  psn : BitVec 32
  aux : Nat
  aux2 : Nat
  payload : List Byte
  deriving DecidableEq, Repr

/-- A queue pair (R133, R196). `arch` is the architected part, bytes 0 to 79, with its device-owned fields as 0; `STATE` is
`state`, `FAULT_HELD` is the held list's (R92) and `PARTITION` the range's. Timers hold counter values that are multiples of
1 024, whose bits [41:10] are the context's fields (R183); a timer that is none is not armed. -/
structure Qp where
  created : Bool := false
  state : QpSt := .reset
  arch : BitVec 640 := 0
  sqPsn : BitVec 32 := 0
  rqBase : BitVec 32 := 0
  nextMsg : BitVec 16 := 0
  errStatus : BitVec 8 := 0
  rate : Nat := 0
  target : Nat := 0
  alpha : Nat := 0
  stage : Nat := 0
  retries : Nat := 0
  tCut : Word64 := 0
  tInc : Option Word64 := none
  tRto : Option Word64 := none
  sndUna : BitVec 32 := 0
  rtxMark : BitVec 32 := 0
  deferLo : BitVec 32 := 0
  deferUntil : Word64 := 0
  sackMap : BitVec 256 := 0
  rxMap : BitVec 256 := 0
  beta : Tab Nat := []
  entropy : Tab Nat := []
  rxPathSeen : BitVec 16 := 0
  rxPathCe : BitVec 16 := 0
  pathAlive : BitVec 16 := 0
  dupSacks : Nat := 0
  deferred : Bool := false
  cutValid : Bool := false
  rtoShift : Nat := 0
  rxSinceAck : Nat := 0
  tAck : Option Word64 := none
  atomicBlock : Nat := 0
  atoms : Tab (Option AtomRec) := []
  recvs : List Recv := []
  sent : List Sent := []
  queue : List TxItem := []
  opened : List RxOpen := []
  msgs : List RxMsg := []
  pend : List RxPend := []
  /-- The time the next paced packet may leave (R187): whole counts, and a fraction of one. -/
  nextSend : Word64 := 0
  sendNum : Nat := 0
  sendDen : Nat := 1
  /-- Set aside because its transmit queue is full (R370), with the acknowledgements it owes meanwhile. -/
  aside : Bool := false
  ctlHeld : List CtlPkt := []
  /-- The time T_RTO last fired, for R184. -/
  rtoFired : Option Word64 := none
  /-- A QP_MODIFY to DRAIN that waits, with the operations it waits for (R135). -/
  drainWait : Option (CmdRef × List Nat) := none
  /-- NVMe offload (R167 to R171). -/
  nvmeOn : Bool := false
  nvme : List NvmeCmd := []
  sqHead : Nat := 0
  sqTail : Nat := 0
  /-- RoCEv2 (R199): the PSN-sequence NAK has been sent, messages completed, the last notification sent. -/
  seqNak : Bool := false
  msn : Nat := 0
  lastCnp : Option Word64 := none
  /-- A RoCEv2 message under way: key, next address and bytes left of a WRITE, or the RECV of a SEND and the bytes so far. -/
  roceWrite : Option (Nat × Nat × Nat) := none
  roceRecv : Option (Recv × Nat) := none
  deriving DecidableEq, Repr

/-- A packet in a port's miss parking buffer (R192). -/
structure Parked where
  port : Nat
  qp : Nat
  frame : List Byte
  bytes : Nat
  ext : List ExtRead
  deriving DecidableEq, Repr

/-- Counters of a context cache slice. -/
structure SliceCnt where
  hits : BitVec 48 := 0
  misses : BitVec 48 := 0
  evictions : BitVec 48 := 0
  setFull : BitVec 48 := 0
  deriving DecidableEq, Repr

structure ParkCnt where
  drop : BitVec 40 := 0
  parked : BitVec 48 := 0
  deriving DecidableEq, Repr

/-- The Shuttle transport (chapters 5 and 6). -/
structure ShtState where
  udpPort : BitVec 16 := 0xC422
  udpCsum4 : Bool := false
  cnpDscp : BitVec 6 := 0x30
  crcSeen : Bool := false
  hdrDropSeen : Bool := false
  gcmFailSeen : Bool := false
  qpErrSeen : Bool := false
  nvmeTmoSeen : Bool := false
  crcDrop : BitVec 40 := 0
  rxDrop : BitVec 40 := 0
  gcmDrop : BitVec 40 := 0
  nvmeTmoMs : BitVec 16 := 0x7530
  rtoUs : BitVec 10 := 0x40
  rtoShiftMax : BitVec 3 := 3
  ackDelayUs : BitVec 4 := 2
  ackEvery : BitVec 6 := 16
  ackreqEvery : BitVec 6 := 32
  cutUs : BitVec 8 := 10
  incUs : BitVec 8 := 25
  haiAfter : BitVec 4 := 5
  ccEnable : Bool := true
  alphaInit : BitVec 16 := 0
  rai : BitVec 21 := 0xFA0
  rhai : BitVec 21 := 0x9C40
  minRate : BitVec 21 := 0x3E8
  rerollBeta : BitVec 8 := 0xC0
  entropyStep : BitVec 6 := 0x25
  lateAck : BitVec 40 := 0
  retxSack : BitVec 40 := 0
  retxRto : BitVec 40 := 0
  parkDropSeen : Bool := false
  ctxPoisonSeen : Bool := false
  atomicPoolSeen : Bool := false
  revokeFenceSeen : Bool := false
  qp : Tab Qp := []
  ops : List SendOp := []
  nextOp : Nat := 0
  /-- Atomic record blocks taken (R197): they number from 1. The blocks' records are the queue pairs' `atoms`. -/
  blocks : List Nat := []
  /-- The free blocks are counted once a start has set the pool up: `SHT.ATOMIC_POOL` reads 0 before. -/
  poolUp : Bool := false
  /-- The path LFSRs, by engine; one that has made no step since the start stands at its seed (R175). -/
  lfsr : Tab (BitVec 32) := []
  /-- QPs each slice holds, most recently used first; those being fetched; those that wait for a way (R189 to R191). -/
  cache : Tab (List Nat) := []
  /-- The engine a QP stays at while its operations there are outstanding, though its own has returned to service (R456). -/
  stay : Tab (Option Nat) := []
  fetching : List Nat := []
  wayWait : List Nat := []
  slice : Tab SliceCnt := []
  parked : List Parked := []
  parkCnt : Tab ParkCnt := []
  /-- Commands that wait for a context (R190, R191). -/
  waitCmds : List Cmd := []
  /-- Frames the ports have passed to the transport and that wait for their receive step (R363). -/
  inbox : List (Nat × List Byte) := []
  /-- Reed engines' own pushes that ended in this step. -/
  pushDone : List (Nat × Status) := []
  deriving DecidableEq, Repr

end Sys2Proof.Machine
end

