-- ==== Sys2Proof/Machine/StateSys.lean ====
section
/-! DEFINITION. The parts of the state of start-up, firmware and mailboxes (chapter 16) and of the package's pins and
thermal trip (chapter 20). -/

namespace Sys2Proof.Machine

/-- A mailbox with its configuration (R442 to R446). `payload` is keyed by word, 0 to 13; `eventDue` says that the
owner's domain was not ON at the go and its event is still to come (R445). -/
structure Mailbox where
  ownerPartition : Bool := false
  ownerPart : BitVec 6 := 0
  sendMask : BitVec 6 := 0x3F
  sendPart : BitVec 6 := 0
  payload : Tab (BitVec 32) := []
  part : BitVec 6 := 0
  cls : BitVec 4 := 0
  seq : BitVec 16 := 0
  full : Bool := false
  nack : Bool := false
  nackStatus : BitVec 8 := 0
  eventDue : Bool := false
  deriving DecidableEq, Repr

/-- A flash bank (R438): the bytes of it that have been written, over what the flash was delivered with, and the digest recorded
when it was activated (R439). -/
structure Bank where
  bytes : Tab (Option Byte) := []
  digest : Option (List Byte) := none
  deriving DecidableEq, Repr

/-- A start in progress (R433, R434): its kind, and the steps that have ended. -/
structure StartRun where
  warm : Bool
  done : List Nat
  /-- The frame counter at reset release, from which the bounds count. -/
  at_ : Word64
  deriving DecidableEq, Repr

/-- A DEV_RESTART under way (R432): when it was dispatched. -/
structure Restart where
  cold : Bool
  cmd : CmdRef
  at_ : Word64
  deriving DecidableEq, Repr

/-- Start-up, firmware and mailboxes (chapter 16). -/
structure FwState where
  ready : Bool := false
  safeMode : Bool := false
  lastWarm : Bool := false
  fwBank : Bool := false
  fwFallback : Bool := false
  warmFails : BitVec 2 := 0
  coldFails : BitVec 2 := 0
  failStep : BitVec 4 := 0
  failCause : BitVec 8 := 0
  retrained : BitVec 16 := 0
  svn : BitVec 32 := 0
  keyIndex : BitVec 2 := 0
  /-- The OTP minimum as raised by FW_ACTIVATE above its fused value (R437, R439). -/
  minSvnRaised : BitVec 16 := 0
  meas : Tab (List Byte) := []
  /-- Flash: the banks, and the bank the bank-select record names (R438). -/
  bank : Tab Bank := []
  selected : Bool := false
  /-- A bank has been activated and not started from yet (R439). -/
  activated : Bool := false
  /-- The firmware kept since it was verified: its bytes and digest (R430, R434). -/
  retainedFw : List Byte := []
  retainedDigest : List Byte := []
  start : Option StartRun := none
  restart : Option Restart := none
  /-- A package reset has been requested and begins 1 µs later (R485). -/
  pkgReset : Option Word64 := none
  mbox : Tab Mailbox := []
  /-- Partitions whose function is in function-level reset (R446). -/
  flr : List Nat := []
  deriving DecidableEq, Repr

/-- Pins and the thermal trip (chapter 20). Levels are true for high. -/
structure PinState where
  vddAo : Bool := false
  porN : Bool := false
  vrEn : Bool := false
  perst0N : Bool := false
  perst1N : Bool := false
  thermtripN : Bool := true
  faultN : Bool := true
  straps : BitVec 4 := 0
  gpio : BitVec 16 := 0
  tripped : Bool := false
  tripDie : BitVec 6 := 0
  tripDram : Bool := false
  tripTemp : BitVec 11 := 0
  /-- Consecutive samples at or above the trip limit, by sensor: the domain, 128 + the die for an always-on island, 256 + the
  stack for DRAM layers. -/
  tripRuns : Tab Nat := []
  /-- AVDD and VDD_PL are good (R513). -/
  avddGood : Bool := false
  vddPlGood : Bool := false
  deriving DecidableEq, Repr

end Sys2Proof.Machine
end

