-- ==== Sys2Proof/Machine/State.lean ====
section
/-! DEFINITION. The whole state of the block, its reset value, and the reasons a step can stop. -/

namespace Sys2Proof.Machine

/-- The state of the device: one part per chapter of the manual, the waiting commands, what the block has sent, and
the counter the free values are taken at. -/
structure State where
  time : TimeState := {}
  weft : WeftState := {}
  spl : SplState := {}
  hdl : HdlState := {}
  jcq : JcqState := {}
  regs : RegState := {}
  parts : PartsState := {}
  saf : SafState := {}
  lnk : LnkState := {}
  pwr : PwrState := {}
  sht : ShtState := {}
  red : RedState := {}
  bob : BobState := {}
  cnt : CntState := {}
  hang : HangState := {}
  eth : EthState := {}
  cip : CipState := {}
  fw : FwState := {}
  pins : PinState := {}
  /-- What the block has sent, oldest first (the model's own field). -/
  out : List Out := []
  /-- The number of the next free value (the model's own field). -/
  seed : Nat := 0
  /-- The commands that wait, first in first out. -/
  pending : List Instr := []
  deriving DecidableEq, Repr

/-- Reasons a step stops. No meaning of this model ends in one: the type has the one constructor that an access outside
every address space of the device would raise, which no command can make (safe). -/
inductive Fault where
  /-- Raised by no command: every access of the device ends with a status (safe). -/
  | noSuchAddress
  deriving DecidableEq, Repr

/-- Reasons a step has no meaning. -/
inductive Refusal where
  /-- A command the model does not execute, by its mnemonic. Raised by `exec` for a row that has no meaning yet (safe). -/
  | notModelled (mnemonic : String)
  deriving DecidableEq, Repr

/-- The machine right after power-on, before VDD_AO reaches tolerance and POR_N is released (R28, R513): every register
at its reset value, memory with nothing listed, no command waiting. -/
def State.reset : State := {}

end Sys2Proof.Machine
end

