-- ==== Sys2Proof/Machine/Units.lean ====
section
/-! DEFINITION. Units and their numbers (R9 to R14), which of them are in service, die time (R28, R29), and who owns
what (R66, R119, R398, R399). -/

namespace Sys2Proof.Machine

/-- The unit ID of an instance of a class on a die (R11). -/
def unitId (die cls inst : Nat) : Nat := die * 1024 + cls * 64 + inst

def dieOf (u : Nat) : Nat := u / 1024
def classOf (u : Nat) : Nat := u / 64 % 16
def instOf (u : Nat) : Nat := u % 64

/-- Jacquard processor `n` of 0 to 31: instance `n mod 4` on die `⌊n/4⌋`. -/
def jacquard (n : Nat) : Nat := unitId (n / 4) 0 (n % 4)
def shuttle (n : Nat) : Nat := unitId (n / 8) 1 (n % 8)
def slice_ (die : Nat) : Nat := unitId die 1 8
def reed (n : Nat) : Nat := unitId (n / 4) 2 (n % 4)
def pool (die : Nat) : Nat := unitId die 2 4
def heddle (h : Nat) : Nat := unitId h 3 0
def cipherCore (n : Nat) : Nat := unitId (n / 2) 4 (n % 2)
def bobbin (n : Nat) : Nat := unitId (8 + n / 32) 5 (n % 32)
def controller (n : Nat) : Nat := unitId (8 + n) 6 0
def ethPort (p : Nat) : Nat := unitId (24 + p) 7 0
def accPort (k : Nat) : Nat := unitId (32 + k / 2) 8 (k % 2)
def cxlPort (x : Nat) : Nat := unitId (32 + x) 8 2
/-- A die's Weft router. DESIGN CHOICE: R13 lists none on a frame die, though R15, R23 and R30 give it one; there too it is
instance 0 of class 9. -/
def router (die : Nat) : Nat := unitId die 9 0
def treadle : Nat := unitId 38 10 0
def frameUnit (i : Nat) : Nat := unitId 38 11 i
def selvedge : Nat := frameUnit 2
def mailboxes : Nat := frameUnit 3
def cipherSched (die : Nat) : Nat := unitId die 4 63

/-- Instances assigned on a die (R13). -/
def validUnit (u : Nat) : Bool :=
  let d := dieOf u
  let c := classOf u
  let i := instOf u
  if d < 8 then
    (c == 0 && decide (i < 4)) || (c == 1 && decide (i < 9)) || (c == 2 && decide (i < 5)) ||
      (c == 3 && i == 0) || (c == 4 && decide (i < 2)) || (c == 9 && i == 0)
  else if d < 24 then (c == 5 && decide (i < 32)) || (c == 6 && i == 0) || (c == 9 && i == 0)
  else if d < 32 then (c == 7 && i == 0) || (c == 9 && i == 0)
  else if d < 36 then (c == 8 && (decide (i < 2) || (i == 2 && decide (d < 34)))) || (c == 9 && i == 0)
  else if d < 38 then (c == 9 && i == 0) || (c == 4 && i == 63)
  else if d < 40 then (c == 10 && i == 0) || (c == 11 && decide (i < 7))
  else false

/-- A die's units, in rising order of their IDs (R13). -/
def unitsOfDie (d : Nat) : List Nat :=
  let us (c n : Nat) : List Nat := (List.range n).map fun i => unitId d c i
  if d < 8 then us 0 4 ++ us 1 9 ++ us 2 5 ++ us 3 1 ++ us 4 2 ++ us 9 1
  else if d < 24 then us 5 32 ++ us 6 1 ++ us 9 1
  else if d < 32 then us 7 1 ++ us 9 1
  else if d < 36 then us 8 (if d < 34 then 3 else 2) ++ us 9 1
  else if d < 38 then [unitId d 4 63, unitId d 9 0]
  else if d < 40 then us 10 1 ++ us 11 7
  else []

/-- Every unit of the package. -/
def allUnits : List Nat := (List.range 40).flatMap unitsOfDie

def diePresent (s : State) (d : Nat) : Bool := s.weft.diePresent.getLsbD d

/-- `DIE_PRESENT` has been written, and the die is clear in it (R10). -/
def dieOut (s : State) (d : Nat) : Bool := !s.fw.safeMode && s.weft.diePresent != 0 && !diePresent s d

def safUnit (s : State) (u : Nat) : SafUnit := tget {} s.saf.unit u

def fenced (s : State) (u : Nat) : Bool := (safUnit s u).fenced

/-- The unit accepts work: its die is present (R10) and it is not fenced (R448). -/
def inService (s : State) (u : Nat) : Bool := validUnit u && diePresent s (dieOf u) && !fenced s u

/-- A die's local time counter (R28). Die 39's runs in lockstep with die 38's and holds the same value (R29). -/
def dieTime (s : State) (d : Nat) : Word64 := tget 0 s.time.count (if d = 39 then 38 else d)

/-- The frame counter (R29). -/
def frameTime (s : State) : Word64 := dieTime s 38

def unitTime (s : State) (u : Nat) : Word64 := dieTime s (dieOf u)

/-- The link class of a die's Weft channels (`FRM.WEFT_TMO`): Weave, Spool, port, link, frame. -/
def linkClass (d : Nat) : Nat :=
  if d < 8 then 0 else if d < 24 then 1 else if d < 32 then 2 else if d < 36 then 3 else 4

/-! ## The owning processor (R119) -/

/-- The first processor in service from `n` upwards, wrapping from 31 to 0; `n` itself where none is. -/
def servingProc (s : State) (n : Nat) : Nat :=
  match ((List.range 32).map fun k => (n + k) % 32).find? fun k => inService s (jacquard k) with
  | some k => k
  | none => n % 32

/-- The processor that owns a skein (R119): instance g mod 4 on die ⌊g/4⌋ mod 8, that is number g mod 32, and the same
of a partition's admin skein and event queue. -/
def ownerProc (s : State) : SkeinRef → Nat
  | .ord g => servingProc s (g % 32)
  | .admin p => servingProc s (p % 32)

def ownerUnit (s : State) (k : SkeinRef) : Nat := jacquard (ownerProc s k)

/-- The processor that owns an object numbered under R66. -/
def objectUnit (s : State) (n : Nat) : Nat := jacquard (servingProc s (n % 32))

/-! ## Resources (R398, R399) -/

/-- Items or total of each kind (R398). Kind 2 counts region indices from 1. Kind 9 is the active pool. -/
def kindTotal (active kind : Nat) : Nat :=
  match kind with
  | 0 => 16384 | 1 => 1048576 | 2 => 1048576 | 3 => 4096 | 4 => 8192 | 5 => 65536
  | 6 => 1048576 | 7 => 3072 | 8 => 2044 | 9 => active | 10 => 8 | 11 => 512
  | _ => 0

/-- What a partition from 1 to 63 holds of a kind. -/
def resOf (s : State) (kind part : Nat) : ResRange := tget {} s.parts.res (kind * 64 + part)

def inRange (r : ResRange) (i : Nat) : Bool := decide (r.first ≤ i) && decide (i < r.first + r.count)

/-- The partition whose range of a kind holds an item; partition 0 owns what lies in no other range (R399). -/
def itemOwner (s : State) (kind i : Nat) : Nat :=
  match (List.range 64).find? fun p => p != 0 && inRange (resOf s kind p) i with
  | some p => p
  | none => 0

/-- The sum of the other partitions' counts of a kind. -/
def othersCount (s : State) (kind : Nat) : Nat :=
  (List.range 64).foldl (fun a p => if p = 0 then a else a + (resOf s kind p).count) 0

/-- The tokens of the active pool at a budget (R408). -/
def activeOf (budgetW : Nat) : Nat := 4 * budgetW - 472 - 1424

/-- `EFFECTIVE_W`: the budget, or 2 278 under Full-weave (R408). -/
def effectiveW (s : State) : Nat := if s.pwr.profile = 4 then 2278 else s.pwr.budgetW.toNat

def active (s : State) : Nat := activeOf (effectiveW s)

/-- The amount a partition holds of a count kind; partition 0 holds the total less the others (R399). -/
def amountOf (s : State) (kind part : Nat) : Nat :=
  if part = 0 then kindTotal (active s) kind - othersCount s kind else (resOf s kind part).count

/-- The device-wide number of a partition-local item, where the partition holds it (R399: partition 0 numbers its items
device-wide). -/
def toGlobal (s : State) (kind part n : Nat) : Option Nat :=
  if part = 0 then
    if n < kindTotal (active s) kind && itemOwner s kind n == 0 then some n else none
  else
    let r := resOf s kind part
    if n < r.count then some (r.first + n) else none

/-- The partition-local number of a device-wide item. -/
def toLocal (s : State) (kind part g : Nat) : Nat := if part = 0 then g else g - (resOf s kind part).first

/-- The partition of a context in the reference map (R65). -/
def ctxOwner (s : State) (c : Nat) : Nat := (tget 0 s.hdl.ctxPart c).toNat

/-- A context belongs to the partition. No command assigns context 0, which stays with partition 0 (R64, R65). -/
def ownsCtx (s : State) (part c : Nat) : Bool := decide (c < 65536) && ctxOwner s c == part

/-- A context a Heddle command may name: context 0 is refused (R64, R94, R95). -/
def namesCtx (s : State) (part c : Nat) : Bool := c != 0 && ownsCtx s part c

def partState (s : State) (p : Nat) : PartState := tget .opened s.parts.state p

/-- New work of the partition is stopped (R404): it is freezing, frozen or being cleared. -/
def partStopped (s : State) (p : Nat) : Bool := partState s p != .opened

/-! ## Power domains of units (R416) -/

/-- The switched domain a unit lies in; none for logic that is never switched. -/
def domainOf (u : Nat) : Option Nat :=
  let d := dieOf u
  let c := classOf u
  if d < 8 then
    if c = 0 ∨ c = 3 ∨ (c = 1 ∧ instOf u = 8) then some (4 * d)
    else if c = 1 then some (4 * d + 1)
    else if c = 2 then some (4 * d + 2)
    else if c = 4 then some (4 * d + 3)
    else none
  else if d < 24 then
    if c = 5 then some (32 + 2 * (d - 8)) else if c = 6 then some (33 + 2 * (d - 8)) else none
  else if d < 32 then if c = 7 then some (64 + (d - 24)) else none
  else if d < 36 then if c = 8 ∧ instOf u < 2 then some (72 + 2 * (d - 32) + instOf u) else none
  else none

def domain (s : State) (x : Nat) : Domain := tget {} s.pwr.domain x

/-! ## Units in reset and under isolation (R481, R482, R487) -/

/-- The units a reset at a level covers (R481). -/
def covers (unit level u : Nat) : Bool :=
  match level with
  | 0 => u == unit
  | 1 => (domainOf u).isSome && domainOf u == domainOf unit
  | _ => dieOf u == dieOf unit && !(classOf u == 8 && instOf u == 2)

/-- The unit lies in a domain under reset. -/
def inReset (s : State) (u : Nat) : Bool := s.hang.resets.any fun r => covers r.unit r.level u

/-- The object an isolation tests now. -/
def isoTests (i : Isolation) (otype object : Nat) : Bool :=
  match i.cur.bind fun k => i.suspects[k]? with
  | some x => x.otype == otype && x.object == object && !x.guilty
  | none => false

/-- The unit takes no step for an object: it is in reset, or an isolation of the unit holds the object's work. -/
def unitHolds (s : State) (u otype object : Nat) : Bool :=
  inReset s u || s.hang.iso.any fun i => i.unit == u && !isoTests i otype object

/-- A test slice runs on the unit, and work that arrives waits for its end (R472). -/
def testing (s : State) (u : Nat) : Bool := s.saf.slices.any fun t => t.unit == u

/-- The unit takes up no work of its own accord. -/
def unitClosed (s : State) (u : Nat) : Bool := inReset s u || s.hang.iso.any fun i => i.unit == u

/-- The status a router answers a request with on a unit's behalf: FENCED for a fenced unit or an absent die, POISON for
a Spool controller (R10, R48, R448), ABORTED for a unit in reset (R482). -/
def absentStatus (s : State) (dest : Nat) : Option Status :=
  if inService s dest || (dest == router (dieOf dest) && diePresent s (dieOf dest)) then
    (if inReset s dest then some .aborted else none)
  else if classOf dest = 6 then some .poison
  else some .fenced

/-! ## Clocked islands (R424, R425) -/

/-- The unit an island belongs to, in the order of R424. -/
def islandUnit (i : Nat) : Nat :=
  if i < 8 then ethPort i
  else if i < 16 then accPort (i - 8)
  else if i < 18 then cxlPort (i - 16)
  else if i < 34 then controller (i - 18)
  else if i = 34 then frameUnit 5
  else frameUnit 6

/-- The island of a unit, where it has one. -/
def islandOf (u : Nat) : Option Nat := (List.range 36).find? fun i => islandUnit i == u

/-- Transfers into the island complete at once with CROSS_STALL (R425). -/
def islandStalled (s : State) (i : Nat) : Bool := s.pwr.xstallMap.getLsbD i

/-- Counts of a die's counter since a time it read (R29). -/
def since (s : State) (die : Nat) (t : Word64) : Nat := (dieTime s die - t).toNat

/-- `TEMP` and `VOLT_MV` of a record (R461): the unit's domain, or its die's always-on sensor. -/
def unitTemp (s : State) (u : Nat) : BitVec 11 :=
  match domainOf u with
  | some x => (domain s x).temp
  | none => tget 0 s.pwr.dieTemp (dieOf u)

def unitVolt (s : State) (u : Nat) : BitVec 16 :=
  match domainOf u with
  | some x => (domain s x).voltMv
  | none => tget 0 s.pwr.dieVolt (dieOf u)

end Sys2Proof.Machine
end

