-- ==== Sys2Proof/Machine/Ops.lean ====
section
/-! DEFINITION. The operations every chapter uses: access to Spool memory under the granule check, host windows,
buffers and rings, MSI-X, events, error records, and the outcome of a command. -/

namespace Sys2Proof.Machine

/-- Something leaves the block. -/
def emit (o : Out) (s : State) : State := { s with out := s.out ++ [o] }

/-- A report for the Selvedge or an event queue, handled before the command ends. -/
def report (r : Report) (s : State) : State := { s with saf := { s.saf with todo := s.saf.todo ++ [r] } }

/-- Takes the next free value's number. -/
def spend (s : State) : State := { s with seed := s.seed + 1 }

/-! ## Counters (R493, R495, R503) -/

/-- A unit's counter grows; a fenced unit's bank does not change. -/
def bump (u i n : Nat) (s : State) : State :=
  if fenced s u then s
  else { s with cnt := { s.cnt with bank := tmod 0 s.cnt.bank (u * 16 + i) (· + BitVec.ofNat 64 n) } }

/-- A unit completes items of work (R476): it and its domain have not been idle (R410, R417). -/
def worked (u n : Nat) (s : State) : State :=
  let busy (t : Tab Domain) : Tab Domain := match domainOf u with
    | some x => tmod {} t x fun d => { d with idleSince := none }
    | none => t
  { s with
    hang := { s.hang with items := tmod 0 s.hang.items u (· + n) }
    pwr := { s.pwr with idleAt := tset none s.pwr.idleAt u none, domain := busy s.pwr.domain } }

/-- A partition's counter grows. -/
def bumpPart (p i n : Nat) (s : State) : State :=
  { s with cnt := { s.cnt with part := tmod 0 s.cnt.part (p * 8 + i) (· + BitVec.ofNat 64 n) } }

/-! ## Error records (R460, R462) -/

/-- The class of a cause (R462). -/
def causeClass (c : Nat) : Nat :=
  match c with
  | 0x0201 => 1
  | 0x0103 | 0x0206 | 0x0207 | 0x0302 | 0x0305 | 0x0401 | 0x0402 | 0x0403 | 0x0404 | 0x0405 | 0x0406 | 0x0701
  | 0x0703 => 3
  | 0x0602 | 0x0603 | 0x0704 | 0x0705 => 0
  | _ => 2

/-- The Fence column of the cause table (R462); `VR_FAULT` fences on a rail loss only. -/
def causeFences (c : Nat) : Bool :=
  match c with
  | 0x0302 | 0x0305 | 0x0306 | 0x0401 | 0x0402 | 0x0403 | 0x0404 | 0x0405 | 0x0406 | 0x0703 | 0x0704 | 0x0706 => true
  | _ => false

/-- A record of a cause at a unit, with the time, temperature and voltage at detection (R460, R461). -/
def mkRecord (s : State) (unit cause : Nat) : Record where
  unit := unit
  opcode := 0
  cause := cause
  cls := causeClass cause
  fence := false
  replay := false
  part := none
  time := unitTime s unit
  temp := (unitTemp s unit).signExtend 16
  voltMv := (unitVolt s unit).toNat
  seq := 0
  object := 0
  otype := 0
  info0 := 0
  info1 := 0
  units := 0

/-- The 64 bytes of a record (R460). -/
def recordBytes (r : Record) : List Byte :=
  leBytes 2 r.unit ++ leBytes 2 r.opcode ++ leBytes 2 r.cause ++
    leBytes 1 (r.cls % 4 + 4 * b2n r.fence + 8 * b2n r.replay) ++
    leBytes 1 (r.part.getD 0 % 64 + 64 * b2n r.part.isSome) ++
    leBytes 8 r.time.toNat ++ leBytes 2 r.temp.toNat ++ leBytes 2 r.voltMv ++ leBytes 4 r.seq.toNat ++
    leBytes 4 (r.object % 2 ^ 24 + 2 ^ 24 * r.otype) ++ leBytes 4 0 ++
    leBytes 8 r.info0 ++ leBytes 8 r.info1 ++ leBytes 8 r.units ++ leBytes 8 0

/-- Occupied slots of the fault queue (R464). -/
def occupied (s : State) : Nat := (s.saf.nextSeq - s.saf.head).toNat

/-- A record is put into its slot, or lost (R464, R465). -/
def putRecord (r : Record) (s : State) : State :=
  let room := if r.cls = 3 then decide (occupied s < 1024) else decide (occupied s < 960)
  if room then
    { s with saf := { s.saf with
        ring := tset none s.saf.ring (s.saf.nextSeq.toNat % 1024) (some { r with seq := s.saf.nextSeq })
        nextSeq := s.saf.nextSeq + 1 } }
  else
    { s with saf := { s.saf with
        unit := tmod {} s.saf.unit r.unit fun u => { u with lost := satInc u.lost }
        overflow := true
        overflowUnit := if s.saf.overflow then s.saf.overflowUnit else BitVec.ofNat 16 r.unit
        overflowCause := if s.saf.overflow then s.saf.overflowCause else BitVec.ofNat 16 r.cause
        overflowTime := if s.saf.overflow then s.saf.overflowTime else r.time
        dangerOverflow := s.saf.dangerOverflow || r.cls == 3 } }

/-- The record was written, not lost. -/
def recordTaken (r : Record) (s : State) : Bool :=
  if r.cls = 3 then decide (occupied s < 1024) else decide (occupied s < 960)

/-- Reports one record of a cause. -/
def record (r : Record) (s : State) : State := report (.record r) s

/-! ## Spool memory (R37, R44, R46 to R48, R53) -/

def granuleOf (off : Nat) : Nat := off / 2 ^ 28
def stackOf (off : Nat) : Nat := off / 2 ^ 12 % 16
def channelOf (off : Nat) : Nat := off / 64 % 64
def lineIndex (off : Nat) : Nat := off / 2 ^ 16

/-- The granule-owner entry a controller checks against: its own copy (R53, R54). -/
def gotEntry (s : State) (stack g : Nat) : Nat := (tget 0 (tget [] s.spl.gotCopy stack) g).toNat

/-- Fields of a granule-owner entry (R51). -/
def gotOwner (e : Nat) : Nat := bits e 0 6
def gotState (e : Nat) : Nat := bits e 6 2
def gotHost (e : Nat) : Bool := bit e 8
def gotFree : Nat := 0
def gotZeroing : Nat := 1
def gotOwned : Nat := 2
def gotDevice : Nat := 3
def mkGot (owner state : Nat) (host : Bool) : Nat := owner + 64 * state + 256 * b2n host

/-- A controller's replica of the context map (R52). -/
def ctxPartAt (s : State) (stack c : Nat) : Nat := (tget 0 (tget [] s.spl.ctxCopy stack) c).toNat

/-- The check of R53, row by row: `src` is the requesting unit. -/
def granuleAllows (s : State) (src ctx off : Nat) : Bool :=
  let e := gotEntry s (stackOf off) (granuleOf off)
  let c := classOf src
  if c = 8 ∧ instOf src = 2 then gotHost e
  else if ctx ≠ 0 then gotState e == gotOwned && ctxPartAt s (stackOf off) ctx == gotOwner e
  else if c = 0 ∨ c = 11 ∨ c = 6 then true
  else if c = 3 ∨ c = 1 ∨ c = 5 then gotState e == gotDevice
  else false

/-- A stack's controller accepts requests (R48). -/
def stackUp (s : State) (n : Nat) : Bool := inService s (controller n)

def poisoned (s : State) (off : Nat) : Bool := tget false s.spl.poison (off / 64)

/-- How a device request to one line is answered before it touches memory: the routers' answer for its controller (R48, R482),
the check of R53, and a stalled DRAM PHY (R425). -/
def lineStatus (s : State) (src ctx off : Nat) : Status :=
  if off ≥ 2 ^ 41 then .bounds
  else if !stackUp s (stackOf off) then .poison
  else if inReset s (controller (stackOf off)) then .aborted
  else if !granuleAllows s src ctx off then .partitionMismatch
  else if islandStalled s (18 + stackOf off) then .crossStall
  else .ok

/-- The partition a CTX_DENY record names: that of the request's context, or 0 (R462). -/
def requestPart (s : State) (off ctx : Nat) : Nat := if ctx = 0 then 0 else ctxPartAt s (stackOf off) ctx

/-- A refused request is counted and recorded (R53, R462). -/
def noteDeny (src ctx off : Nat) (s : State) : State :=
  let host := classOf src == 8 && instOf src == 2
  let u := controller (stackOf off)
  let s := { s with spl := { s.spl with
    ctxDeny := satInc s.spl.ctxDeny
    ctxDenySeen := s.spl.ctxDenySeen || !host
    hostDenySeen := s.spl.hostDenySeen || host } }
  record { mkRecord s u 0x0204 with
    part := some (if host then 0 else requestPart s off ctx)
    object := granuleOf off
    otype := 6
    info0 := off
    info1 := ctx % 2 ^ 16 + 2 ^ 16 * src } s

/-- The pieces of an access that lie in one line each: offset and length. -/
def linePieces (off len : Nat) : List (Nat × Nat) :=
  if len = 0 then []
  else (List.range ((off % 64 + len + 63) / 64)).map fun k =>
    let a := if k = 0 then off else (off / 64 + k) * 64
    let e := min (off + len) ((off / 64 + k + 1) * 64)
    (a, e - a)

/-- A read or scrub of a line that is uncorrectable or poisoned counts in `UE_COUNT` (R47). -/
def noteUe (off : Nat) (s : State) : State :=
  { s with spl := { s.spl with ueCount := tmod 0 s.spl.ueCount (stackOf off) satInc } }

/-- The first line of an access that fails, in rising order, with its status. -/
def firstBad (s : State) (src ctx : Nat) (write : Bool) : List (Nat × Nat) → Option (Nat × Status)
  | [] => none
  | (a, n) :: r =>
    match lineStatus s src ctx a with
    | .ok =>
      if poisoned s a && (!write || n != 64) then some (a, .poison) else firstBad s src ctx write r
    | st => some (a, st)

/-- What a failed access leaves behind: a refusal is counted and recorded, an access that met a poisoned line is counted.
DESIGN CHOICE: R47 speaks of reads and scrubs; a partial write, which reads the line first, counts as a read does. -/
def noteBad (src ctx : Nat) (a : Nat) (st : Status) (s : State) : State :=
  match st with
  | .partitionMismatch => noteDeny src ctx a s
  | .poison => if stackUp s (stackOf a) then noteUe a s else s
  | _ => s

/-- The snoop filter's entry of a line: its port, and whether the host may hold it modified (R60). -/
def filterOf (s : State) (line : Nat) : Option (Nat × Bool) :=
  match tget 0 s.spl.filter line with
  | 0 => none
  | n => some ((n - 1) % 2, decide (3 ≤ n))

def setFilter (line : Nat) (e : Option (Nat × Bool)) (s : State) : State :=
  let v := match e with | none => 0 | some (p, m) => 1 + p + 2 * b2n m
  { s with spl := { s.spl with filter := tset 0 s.spl.filter line v } }

/-- R60 for an access that is done within one step: a line a host may hold modified is snooped before it is read, a filtered
line before it is written. The response is taken to have come: an invalidated line leaves the filter, one read stays shared. -/
def snoopLine (write : Bool) (off : Nat) (s : State) : State :=
  match filterOf s (off / 64) with
  | none => s
  | some (port, m) =>
    if write then
      emit (.biSnoop port (off / 64) true) (setFilter (off / 64) none (bump (controller (stackOf off)) 6 1 s))
    else if m then
      emit (.biSnoop port (off / 64) false) (setFilter (off / 64) (some (port, false)) (bump (controller (stackOf off)) 6 1 s))
    else s

/-- One line an access reads or writes: hosts that cache it are snooped (R60), and it is counted for its controller and the
partition of the context (R495, R503). -/
def touchLine (ctx : Nat) (write : Bool) (s : State) (p : Nat × Nat) : State :=
  let s := snoopLine write p.1 s
  let n := stackOf p.1
  bump (controller n) (if !write then 2 else if p.2 = 64 then 3 else 4) 1
    (if ctx = 0 then s else bumpPart (ctxPartAt s n ctx) 7 1 s)

/-- The lines an access has read or written. -/
def countLines (ctx : Nat) (write : Bool) (ps : List (Nat × Nat)) (s : State) : State := ps.foldl (touchLine ctx write) s

/-- The pieces of an access before the one at an offset. -/
def before (a : Nat) (ps : List (Nat × Nat)) : List (Nat × Nat) := ps.takeWhile fun p => p.1 != a

/-- A device read of Spool memory: status and data (R44, R47, R53). -/
def spoolRead (src ctx off len : Nat) (s : State) : State × Status × List Byte :=
  let ps := linePieces off len
  match firstBad s src ctx false ps with
  | some (a, st) => (noteBad src ctx a st (countLines ctx false (before a ps) s), st, [])
  | none => (countLines ctx false ps s, .ok, memRead s.spl.mem off len)

/-- The bytes of a piece stored; a whole line written without poison stops being poisoned (R46). -/
def storePiece (a : Nat) (bs : List Byte) (s : State) : State :=
  { s with spl := { s.spl with
    mem := memWrite s.spl.mem a bs
    poison := if bs.length = 64 then tset false s.spl.poison (a / 64) false else s.spl.poison } }

/-- Stores the pieces of a write up to the one at offset `stop`. -/
def storeUpTo (off : Nat) (bs : List Byte) (stop : Option Nat) : List (Nat × Nat) → State → State
  | [], s => s
  | (a, n) :: r, s =>
    if stop = some a then s
    else storeUpTo off bs stop r (storePiece a ((bs.drop (a - off)).take n) s)

/-- A device write of Spool memory. The pieces before the first refused line are stored (R44, R47, R53). -/
def spoolWrite (src ctx off : Nat) (bs : List Byte) (s : State) : State × Status :=
  let ps := linePieces off bs.length
  match firstBad s src ctx true ps with
  | some (a, st) =>
    (noteBad src ctx a st (countLines ctx true (before a ps) (storeUpTo off bs (some a) ps s)), st)
  | none => (countLines ctx true ps (storeUpTo off bs none ps s), .ok)

/-! ## Host memory (R333, R334) -/

def hport (s : State) (x : Nat) : HPort := tget {} s.lnk.hport x
def setHport (x : Nat) (h : HPort) (s : State) : State :=
  { s with lnk := { s.lnk with hport := tset {} s.lnk.hport x h } }

def homePort (s : State) (p : Nat) : Nat := b2n (tget false s.lnk.home p)

/-- A window of the partition grants the access whole (R334). -/
def hostWinAllows (s : State) (p off len : Nat) (write : Bool) : Bool :=
  (List.range 8).any fun w =>
    let h := tget ({} : HostWin) s.lnk.hostWin (p * 8 + w)
    h.valid && (if write then h.wr else h.rd) && decide (h.base.toNat ≤ off / 4096) &&
      decide ((off + (len - 1)) / 4096 ≤ h.limit.toNat)

/-- The port's link is up and its unit in service (R10, R342). -/
def portUsable (s : State) (x : Nat) : Bool := (hport s x).up && (absentStatus s (cxlPort x)).isNone

/-- The port an access leaves on: the home port, or the other under FAILOVER (R333). -/
def hostPortFor (s : State) (p : Nat) : Option Nat :=
  let h := homePort s p
  if portUsable s h then some h
  else if s.lnk.failover && portUsable s (1 - h) then some (1 - h)
  else none

/-- How an access at target 0x10 is answered before it leaves: BOUNDS, DENIED by the windows, with no port the routers' answer
for the home port where its unit takes no work (R10) and else TIMEOUT, and CROSS_STALL at a stalled island (R425). -/
def hostStatus (s : State) (p off len : Nat) (write : Bool) : Status :=
  if off ≥ 2 ^ 52 then .bounds
  else if !hostWinAllows s p off len write then .denied
  else match hostPortFor s p with
    | none => (absentStatus s (cxlPort (homePort s p))).getD .timeout
    | some x => if islandStalled s (16 + x) then .crossStall else .ok

/-- A refusal by the host windows is counted (R334). -/
def noteHostDeny (p : Nat) (st : Status) (s : State) : State :=
  if st = .denied then
    let x := homePort s p
    let h := hport s x
    setHport x { h with reqDeny := satInc h.reqDeny } { s with lnk := { s.lnk with hostwinDenySeen := true } }
  else s

/-- A host line is written (R333): whole by ItoMWr, which leaves it nowhere in the device; in part in the port's coherency cache, where
it is held modified from its RdOwn on. The oldest line of a full cache is written back first. -/
def cacheHostLine (x line : Nat) (full : Bool) (s : State) : State :=
  let h := hport s x
  let m := h.modified.filter (· != line)
  if full then emit (.cacheReq x line .itoMWr) (setHport x { h with modified := m } s)
  else
    let s := if h.modified.contains line then s else emit (.cacheReq x line .rdOwn) s
    match m with
    | old :: rest =>
      if rest.length + 1 < 65536 then setHport x { h with modified := m ++ [line] } s
      else emit (.cacheReq x old .dirtyEvict) (setHport x { h with modified := rest ++ [line] } s)
    | [] => setHport x { h with modified := [line] } s

/-- A write of host memory for a partition (R333, R334). -/
def hostWrite (p off : Nat) (bs : List Byte) (s : State) : State × Status :=
  match hostStatus s p off bs.length true with
  | .ok =>
    let x := (hostPortFor s p).getD 0
    let s := (linePieces off bs.length).foldl (fun s pc => cacheHostLine x (pc.1 / 64) (pc.2 == 64) s) s
    (emit (.hostWrite x p off bs) (bump (cxlPort x) 3 (linePieces off bs.length).length s), .ok)
  | st => (noteHostDeny p st s, st)

/-- The answer of memory outside the Spool to a read: what the command brings with it, or TIMEOUT where nothing came. -/
def extRead (ext : List ExtRead) (pa len : Nat) : Status × List Byte :=
  match ext.find? fun e => e.pa == pa with
  | some e => (e.status, if e.status = .ok then slice e.bytes 0 len else [])
  | none => (.timeout, [])

/-- A CXL.cache read on its way, whose completion a later command brings (R333). -/
def trackHostRead (p pa len : Nat) (s : State) : State :=
  match hostPortFor s p with
  | none => s
  | some x =>
    { s with lnk := { s.lnk with
      nextReq := s.lnk.nextReq + 1
      cxlReqs := s.lnk.cxlReqs ++ [{ id := s.lnk.nextReq, port := x, peer := false, write := false, readBack := false,
                                     part := p, pa := pa, len := len }] } }

/-- A read of host memory for a partition (R333, R334): a RdCurr, outstanding until its completion unless the answer is at hand. -/
def hostRead (p off len : Nat) (ext : List ExtRead) (s : State) : State × Status × List Byte :=
  match hostStatus s p off len false with
  | .ok =>
    let pa := 0x10 * 2 ^ 56 + off
    let ext := ext ++ s.lnk.answers
    let (st, bs) := extRead ext pa len
    let s := if ext.any fun e => e.pa == pa then s else trackHostRead p pa len s
    let s := { s with lnk := { s.lnk with answers := s.lnk.answers.filter fun e => e.pa != pa } }
    let x := (hostPortFor s p).getD 0
    (emit (.hostRead x p off len) (bump (cxlPort x) 2 (linePieces off len).length s), st, bs)
  | st => (noteHostDeny p st s, st, [])

/-! ## Buffers (R62, R96) -/

def target (pa : Nat) : Nat := pa / 2 ^ 56
def offset (pa : Nat) : Nat := pa % 2 ^ 56

/-- A buffer or ring may lie at target 0x00 or 0x10 only. -/
def bufTarget (pa : Nat) : Bool := target pa == 0 || target pa == 0x10

/-- A write of a buffer under its context and the partition's identity (R96). -/
def bufWrite (src p ctx pa : Nat) (bs : List Byte) (s : State) : State × Status :=
  if target pa = 0 then
    if ownsCtx s p ctx then spoolWrite src ctx (offset pa) bs s else (s, .partitionMismatch)
  else if target pa = 0x10 then hostWrite p (offset pa) bs s
  else (s, .bounds)

/-- A read of a buffer under its context and the partition's identity (R96). -/
def bufRead (src p ctx pa len : Nat) (ext : List ExtRead) (s : State) : State × Status × List Byte :=
  if target pa = 0 then
    if ownsCtx s p ctx then spoolRead src ctx (offset pa) len s else (s, .partitionMismatch, [])
  else if target pa = 0x10 then hostRead p (offset pa) len ext s
  else (s, .bounds, [])

/-! ## MSI-X (R332) -/

/-- The size of a function's MSI-X table: 2 048 for the physical function, the size fixed at VF Enable for a VF. -/
def vectorTable (s : State) (p : Nat) : Nat :=
  if p = 0 then 2048 else tget 0 s.lnk.vfTable (homePort s p)

/-- A vector is sent, or its pending bit set while it is masked. A port that is down loses the message (R342). -/
def sendVector (p v : Nat) (s : State) : State :=
  if v ≥ vectorTable s p then s
  else if tget false s.lnk.msixOpen (p * 2048 + v) then
    if portUsable s (homePort s p) then
      emit (.msix (homePort s p) p v (tget 0 s.lnk.msixAddr (p * 2048 + v)).toNat (tget 0 s.lnk.msixData (p * 2048 + v)).toNat) s
    else s
  else { s with lnk := { s.lnk with pba := tset false s.lnk.pba (p * 2048 + v) true } }

/-! ## Event queues (R118, R121) -/

def adminQ (s : State) (p : Nat) : AdminQ := tget {} s.jcq.admin p
def setAdminQ (p : Nat) (a : AdminQ) (s : State) : State :=
  { s with jcq := { s.jcq with admin := tset {} s.jcq.admin p a } }

/-- Entries written and not released by the last head. -/
def unread (q : OutQueue) : Nat := (q.next + 2 ^ q.ring.log2 - q.head) % 2 ^ q.ring.log2

/-- Free slots of a queue: one always stays unused (R112). -/
def freeSlots (q : OutQueue) : Nat := 2 ^ q.ring.log2 - 1 - unread q - q.reserved

/-- The queue after an entry was written: the next index, the phase toggling on the wrap (R103). -/
def advance (q : OutQueue) : OutQueue :=
  if q.next + 1 = 2 ^ q.ring.log2 then { q with next := 0, phase := !q.phase } else { q with next := q.next + 1 }

/-- Clears `ARM` and sends the vector where it was armed (R113). -/
def fireArm (p : Nat) (q : OutQueue) (s : State) : OutQueue × State :=
  if q.arm then ({ q with arm := false }, sendVector p q.vector.toNat s) else (q, s)

/-- The 32 bytes of an event entry (R118). -/
def eventBytes (typ : Nat) (st : Nat) (unit object : Nat) (time : Nat) (info : Nat) (phase : Bool) : List Byte :=
  leBytes 1 st ++ leBytes 1 typ ++ leBytes 2 unit ++ leBytes 4 (object % 2 ^ 24) ++ leBytes 8 time ++
    leBytes 8 info ++ leBytes 8 (2 ^ 63 * b2n phase)

/-- A status code's number (R104). -/
def statusCode : Status → Nat
  | .ok => 0x00 | .busy => 0x01 | .retryLater => 0x02 | .lenRange => 0x03 | .bounds => 0x04 | .denied => 0x05
  | .keyInvalid => 0x06 | .pageFaultHeld => 0x07 | .contextFault => 0x08 | .poison => 0x09 | .memberLost => 0x0A
  | .poolFull => 0x0B | .fenced => 0x0C | .timeout => 0x0D | .crossStall => 0x0E | .keyExhausted => 0x0F
  | .queueDisabled => 0x10 | .checkFail => 0x11 | .opcode => 0x12 | .partitionMismatch => 0x13
  | .epochStale => 0x14 | .aborted => 0x15

/-- The status of a code; codes 0x16 to 0xFF are reserved (R104). -/
def statusOf (n : Nat) : Option Status :=
  match n with
  | 0x00 => some .ok | 0x01 => some .busy | 0x02 => some .retryLater | 0x03 => some .lenRange
  | 0x04 => some .bounds | 0x05 => some .denied | 0x06 => some .keyInvalid | 0x07 => some .pageFaultHeld
  | 0x08 => some .contextFault | 0x09 => some .poison | 0x0A => some .memberLost | 0x0B => some .poolFull
  | 0x0C => some .fenced | 0x0D => some .timeout | 0x0E => some .crossStall | 0x0F => some .keyExhausted
  | 0x10 => some .queueDisabled | 0x11 => some .checkFail | 0x12 => some .opcode | 0x13 => some .partitionMismatch
  | 0x14 => some .epochStale | 0x15 => some .aborted
  | _ => none

/-- An event that is not written: its type is noted (R121). -/
def loseEvent (p typ : Nat) (s : State) : State :=
  let a := adminQ s p
  let bit := if 1 ≤ typ ∧ typ ≤ 10 then BitVec.ofNat 10 (2 ^ (typ - 1)) else 0
  setAdminQ p { a with lostTypes := a.lostTypes ||| bit, eqOverflow := true }
    { s with jcq := { s.jcq with eqOverflowSeen := true } }

/-- Writes one entry at the event queue's next slot. The write fails as a buffer write does. -/
def putEvent (p typ : Nat) (st : Status) (unit object info : Nat) (s : State) : State × Bool :=
  let a := adminQ s p
  let q := a.eq
  let t := (unitTime s unit).toNat
  let bs := eventBytes typ (statusCode st) unit object t info q.phase
  match bufWrite (ownerUnit s (.admin p)) p q.ring.bufCtx.toNat (q.ring.pa.toNat + 32 * q.next) bs s with
  | (s, .ok) =>
    let (q, s) := fireArm p (advance q) s
    (setAdminQ p { adminQ s p with eq := q } s, true)
  | (s, _) => (setAdminQ p { adminQ s p with eqEnable := false } s, false)

/-- Posts an event to a partition (R121): lost where the queue is full, disabled or cannot be written. -/
def postEvent (p typ : Nat) (st : Status) (unit object info : Nat) (s : State) : State :=
  let a := adminQ s p
  if !a.eqEnable || freeSlots a.eq == 0 then loseEvent p typ s
  else
    match putEvent p typ st unit object info s with
    | (s, true) => s
    | (s, false) => loseEvent p typ s

/-- The `EQ_OVERFLOW` entry that carries `LOST_TYPES`, written when a slot frees or the queue is enabled (R121). -/
def overflowEntry (p : Nat) (s : State) : State :=
  let a := adminQ s p
  if a.lostTypes = 0 ∨ !a.eqEnable ∨ freeSlots a.eq = 0 then s
  else
    match putEvent p 0xFF .ok (ownerUnit s (.admin p)) 0 a.lostTypes.toNat s with
    | (s, true) => setAdminQ p { adminQ s p with lostTypes := 0 } s
    | (s, false) => setAdminQ p { adminQ s p with eqOverflow := true } { s with jcq := { s.jcq with eqOverflowSeen := true } }

/-! ## Handling reports (R449, R464, R467) -/

/-- The partition-local number of a record's object, or 0 (R467): queue pair, skein and communicator are numbered in
their partition. -/
def eventObject (s : State) (p : Nat) (r : Record) : Nat :=
  match r.otype with
  | 1 => toLocal s 1 p r.object
  | 2 => if r.object = 0xFFFFFF then 0xFFFFFF else toLocal s 0 p r.object
  | 3 => toLocal s 3 p r.object
  | _ => 0

/-- A record is written and its events posted, or it is lost with none (R464, R467). -/
def writeRecord (r : Record) (s : State) : State :=
  let seq := s.saf.nextSeq.toNat
  let taken := recordTaken r s
  let s := putRecord r s
  if taken then
    let info := seq + 2 ^ 32 * r.cause + 2 ^ 48 * r.cls
    let s := postEvent 0 0x06 .ok r.unit (eventObject s 0 r) info s
    match r.part with
    | some p => if p = 0 then s else postEvent p 0x06 .ok r.unit (eventObject s p r) info s
    | none => s
  else s

/-- One report: an event is posted, a record written; a detection that fences waits for the Selvedge (R450). -/
def handleReport (r : Report) (s : State) : State :=
  match r with
  | .event p typ st unit object info => postEvent p typ st unit object info s
  | .record r =>
    if causeFences r.cause && !r.fence then { s with saf := { s.saf with detected := s.saf.detected ++ [r] } }
    else writeRecord r s

/-- Handles the waiting reports in order, those they cause after them. -/
def settleFor : Nat → State → State
  | 0, s => s
  | n + 1, s =>
    match s.saf.todo with
    | [] => s
    | r :: rest => settleFor n (handleReport r { s with saf := { s.saf with todo := rest } })

/-- Handles every waiting report. A report adds one only where an event queue's write is refused, which disables the queue,
so the bound leaves none. -/
def settle (s : State) : State := settleFor (s.saf.todo.length + s.jcq.admin.length) s

/-! ## Output pins (R512, R514) -/

/-- FAULT_N is low while `SAFE_MODE`, `PKG_NEEDED` or `DANGER_OVERFLOW` is set. -/
def faultPin (s : State) : Bool := !(s.fw.safeMode || s.hang.pkgNeeded || s.saf.dangerOverflow)

/-- VR_EN is held low while POR_N is low or THERMTRIP_N is asserted. -/
def vrEnPin (p : PinState) : Bool := p.vrEn && p.porN && p.thermtripN

/-- Drives FAULT_N and VR_EN from the state. -/
def drivePins (s : State) : State :=
  { s with pins := { s.pins with faultN := faultPin s, vrEn := vrEnPin s.pins } }

/-- A pin's new level is seen outside where it has changed. -/
def pinSeen (name : String) (old new : Bool) (s : State) : State := if old = new then s else emit (.pin name new) s

/-- The changes of the output pins since a state. -/
def pinsSeen (old : PinState) (s : State) : State :=
  pinSeen "VR_EN" old.vrEn s.pins.vrEn (pinSeen "THERMTRIP_N" old.thermtripN s.pins.thermtripN
    (pinSeen "FAULT_N" old.faultN s.pins.faultN s))

/-- The state a command leaves, from the one it met and the one its effect gives: the reports are handled, the output
pins follow, and neither the queue of commands nor the time counters change. -/
def ended (s t : State) : State := { pinsSeen s.pins (drivePins (settle t)) with pending := s.pending, time := s.time }

/-- How a command ends. -/
def ends (s t : State) : Host.Outcome State Fault Refusal := .next (ended s t)

/-! ## Commands and their completion (R103, R105) -/

def cmdRef (c : Cmd) : CmdRef where
  id := c.id
  skein := c.skein
  part := c.part
  sqHead := c.sqHead
  tag := fieldLE c.packet 8 4
  opcode := fieldLE c.packet 0 2
  silent := bit (fieldLE c.packet 2 2) 4

/-- A fetched command has an outcome, which waits for its completion entry. It has one, once (R105): a command that is not live
gets no second one. The copy its processor kept is dropped, and it no longer waits for its turn. -/
def completeRef (r : CmdRef) (st : Status) (res : List Nat) (unit : Nat) (s : State) : State :=
  match s.jcq.live.find? fun l => l.ref == r with
  | none => s
  | some l =>
    { s with jcq := { s.jcq with
      live := s.jcq.live.filter fun x => x.ref != r
      dispatched := s.jcq.dispatched.filter fun d => cmdRef d.cmd != r
      waiting := s.jcq.waiting.filter fun c => cmdRef c != r
      done := s.jcq.done ++ [{ ref := r, status := st, result := res, unit := unit, replayed := l.replayed }] } }

/-- A command has been fetched: it gets the next number, and has no outcome yet (R105). -/
def liveRef (r : CmdRef) (s : State) : CmdRef × State :=
  let r := { r with id := s.jcq.nextCmd }
  (r, { s with jcq := { s.jcq with live := s.jcq.live ++ [{ ref := r }], nextCmd := s.jcq.nextCmd + 1 } })

def complete (c : Cmd) (st : Status) (res : List Nat) (unit : Nat) (s : State) : State :=
  completeRef (cmdRef c) st res unit s

/-- A command counts as replayed: it has been re-issued on a sibling (R105). -/
def markReplayed (r : CmdRef) (s : State) : State :=
  { s with jcq := { s.jcq with live := s.jcq.live.map fun l => if l.ref = r then { l with replayed := true } else l } }

/-- The copy a processor keeps of a command (R105); of KEY_LOAD it keeps no key (R385). -/
def keptCopy (c : Cmd) : Cmd :=
  { c with packet := if fieldLE c.packet 0 2 = 0x0601 then c.packet.take 64 else c.packet, ext := [] }

/-- A command has been dispatched to its unit and has not started (R105): the copy kept is its own. -/
def startable (s : State) (c : Cmd) : Bool := s.jcq.dispatched.any fun d => !d.started && d.cmd == keptCopy c

/-- Whether a dispatched command counts as started. -/
def setStarted (on : Bool) (c : Cmd) (s : State) : State :=
  { s with jcq := { s.jcq with
    dispatched := s.jcq.dispatched.map fun d => if d.cmd = keptCopy c then { d with started := on } else d } }

/-- A command that must wait for an earlier one on the same object or range (R120, R519). -/
def holdCmd (c : Cmd) (s : State) : State :=
  let s := setStarted false c s
  if s.jcq.waiting.any fun x => x.id == c.id then s else { s with jcq := { s.jcq with waiting := s.jcq.waiting ++ [c] } }

/-- The held commands that arrived before a command: all of them where it is not held itself (R120, R519). -/
def heldBefore (c : Cmd) (s : State) : List Cmd := s.jcq.waiting.takeWhile fun x => x.id != c.id

/-- The command starts: it no longer waits. -/
def unholdCmd (c : Cmd) (s : State) : State :=
  { s with jcq := { s.jcq with waiting := s.jcq.waiting.filter fun x => x.id != c.id } }

/-- A field of a command's packet: the little-endian bits of the `n` bytes at `off`. -/
def param (c : Cmd) (off n lo w : Nat) : Nat := bits (fieldLE c.packet off n) lo w

def cmdLength (c : Cmd) : Nat := fieldLE c.packet 4 4
def cmdQid (c : Cmd) : Nat := param c 12 4 0 24
def cmdFlags (c : Cmd) : Nat := fieldLE c.packet 2 2

/-- The unit that executes a command of the processors: the skein's owner (R119). -/
def procUnit (s : State) (c : Cmd) : Nat := ownerUnit s c.skein

/-- What an opcode's chapter says of its packet: the parameter bytes from byte 16, the fields in use as (byte, lowest
bit, width), whether it moves data, takes an inline payload, names a queue, and is for partition 0 alone. -/
structure OpDesc where
  code : Nat
  bytes : Nat
  used : List (Nat × Nat × Nat)
  data : Bool := false
  inlineOk : Bool := false
  qid : Bool := false
  infra : Bool := false
  /-- A length the opcode fixes (R102: the atomics). -/
  fixedLen : Option Nat := none
  deriving DecidableEq, Repr

/-- The parameter bits an opcode uses. -/
def usedMask (d : OpDesc) : Nat :=
  d.used.foldl (fun m (f : Nat × Nat × Nat) => m ||| (2 ^ (8 * (f.1 - 16) + f.2.1) * (2 ^ f.2.2 - 1))) 0

/-- A class is accepted from admin skeins only (R101). -/
def adminClass (code : Nat) : Bool :=
  match code / 256 with
  | 0x01 | 0x08 | 0x09 | 0x0B | 0x0C => true
  | _ => false

def isAdmin : SkeinRef → Bool
  | .admin _ => true
  | .ord _ => false

/-- A reserved bit of the header, `FLAGS` or the parameters is set (R7, R97, R98). DESIGN CHOICE: a `QID` other than 0 in a command
whose chapter names no queue counts as one (R97 says that it must be 0, and gives no status). -/
def reservedBits (d : OpDesc) (c : Cmd) : Bool :=
  let f := cmdFlags c
  let inl := bit f 2
  let n := if inl then 48 else 64 * (bits f 0 2 + 1) - 16
  let ps := leNat ((c.packet.drop 16).take n)
  bits f 5 11 != 0 || bits (fieldLE c.packet 12 4) 24 8 != 0 || (!d.qid && cmdQid c != 0) ||
    ps != (ps &&& usedMask d)

/-- Check 1 of R102. -/
def check1 (d : OpDesc) (c : Cmd) : Bool :=
  fieldLE c.packet 0 2 != d.code || reservedBits d c || (adminClass d.code && !isAdmin c.skein) ||
    (bit (cmdFlags c) 2 && !d.inlineOk)

/-- Check 2 of R102. -/
def check2 (d : OpDesc) (c : Cmd) : Bool :=
  let f := cmdFlags c
  let len := cmdLength c
  let span := bits f 0 2 + 1
  decide (len > 2 ^ 31) || (!d.data && len != 0) ||
    (match d.fixedLen with | some n => len != n | none => false) ||
    (if bit f 2 then decide (len = 0) || decide (len > 192) || span != 1 + ceilDiv len 64
     else span != ceilDiv (16 + d.bytes) 64)

/-- Checks 1 to 3 of R102, in order. -/
def issueCheck (d : OpDesc) (c : Cmd) : Option Status :=
  firstFail [(check1 d c, .opcode), (check2 d c, .lenRange), (d.infra && c.part != 0, .denied)]

/-- A dispatched command starts: checks 1 to 3 of R102 complete a failing one unchanged, with the fetching processor as its unit
(R103). A command that has not been dispatched, or has started before, has no effect (R105). -/
def takeCmd (d : OpDesc) (c : Cmd) (s : State) (go : State → State) : State :=
  if startable s c then
    match issueCheck d c with
    | some st => complete c st [] (procUnit s c) s
    | none => go (setStarted true c s)
  else s

/-- Check 4 of R102: the opcode's own checks, in the order of its chapter. A failing one completes the command unchanged, with the
fetching processor as its unit (R103). -/
def checked (c : Cmd) (fails : List (Bool × Status)) (s : State) (run : State → State) : State :=
  match firstFail fails with
  | some st => complete c st [] (procUnit s c) s
  | none => run s

/-- A command as the checks of R102 admit it. -/
def runCmd (d : OpDesc) (c : Cmd) (fails : List (Bool × Status)) (s : State) (run : State → State) :
    Host.Outcome State Fault Refusal :=
  ends s (takeCmd d c s fun s => checked c fails s run)

/-- A command on an object or range that an earlier command still has: it waits where `busy` says so, else it starts (R120,
R519). -/
def orderCmd (d : OpDesc) (c : Cmd) (busy : Bool) (s : State) (go : State → State) : State :=
  if startable s c && (issueCheck d c).isNone && busy then holdCmd c s else takeCmd d c s fun s => go (unholdCmd c s)

/-- `orderCmd` with the opcode's own checks, which meet the state the earlier command left. -/
def runOrdered (d : OpDesc) (c : Cmd) (busy : Bool) (fails : List (Bool × Status)) (s : State) (run : State → State) :
    Host.Outcome State Fault Refusal :=
  ends s (orderCmd d c busy s fun s => checked c fails s run)

end Sys2Proof.Machine
end

