-- ==== Sys2Proof/Machine/Freeze.lean ====
section
/-! DEFINITION. Commands outstanding, and a partition that freezes (R402 to R404). -/

namespace Sys2Proof.Machine

/-- The processor that owns the admin skein of partition 0. -/
def tableOwner (s : State) : Nat := ownerUnit s (.admin 0)

/-- The `PARTITION_STATE` event of a partition (R402). DEDUCED: it is posted where the command has done its work, not where it
completes with an error. -/
def partEvent (p kind op count : Nat) (s : State) : State :=
  report (.event p 0x08 .ok (tableOwner s) 0 (kind % 16 + 16 * op + 2 ^ 32 * count)) s

def setPart (p : Nat) (v : PartState) (s : State) : State :=
  { s with parts := { s.parts with state := tset .opened s.parts.state p v } }

/-- References of posted RECVs: those of a queue pair, those bound to messages, and those of RoCEv2 messages under way. -/
def recvRefs (v : Qp) : List CmdRef :=
  v.recvs.map (·.cmd) ++ (v.msgs.filter fun m => !m.told).map (·.recv.cmd) ++ (v.opened.filterMap (·.done)).map (·.1.cmd) ++
    (v.roceRecv.map (·.1.cmd)).toList

/-- Every posted RECV that has not completed. -/
def allRecvRefs (s : State) : List CmdRef := s.sht.qp.flatMap fun e => recvRefs e.2

/-- Every command that has been fetched and has no outcome, posted RECVs apart. -/
def workRefs (s : State) : List CmdRef :=
  let posted := allRecvRefs s
  (s.jcq.live.map (·.ref)).filter fun r => !posted.contains r

/-- Commands of a partition that a freeze does not wait for: posted RECVs and withdrawn launches. -/
def idleRefs (s : State) : List CmdRef :=
  allRecvRefs s ++ (s.bob.launch.filter fun l => l.state == .withdrawn).map (·.cmd)

/-- Fetched commands of a partition that have not completed. -/
def partWork (s : State) (p : Nat) : List CmdRef :=
  let rs := workRefs s ++ s.jcq.done.map (·.ref)
  rs.filter fun r => r.part == p && !(idleRefs s).contains r

/-- A skein of the partition is in the middle of a command. -/
def partFetching (s : State) (p : Nat) : Bool :=
  let mid (k : Skein) : Bool := k.fetching && !k.fetched.isEmpty
  mid (adminQ s p).sk || s.jcq.skein.any fun e => itemOwner s 0 e.1 == p && mid e.2

/-- The partition is FROZEN, and its PART_FREEZE completes with the number of commands aborted. -/
def frozen (f : Freeze) (aborted : Nat) (s : State) : State :=
  let s := setPart f.part .frozen { s with parts := { s.parts with freezes := s.parts.freezes.filter (· != f) } }
  partEvent f.part 0 1 0 (completeRef f.cmd .ok [aborted] (tableOwner s) s)

/-- Freezes with nothing left outstanding end. -/
def freezeCheck (s : State) : State :=
  s.parts.freezes.foldl (fun s f => if (partWork s f.part).isEmpty && !partFetching s f.part then frozen f 0 s else s) s

end Sys2Proof.Machine
end

