-- ==== Sys2Proof/Machine/Weft.lean ====
section
/-! DEFINITION. The Weft (R17 to R24), die time and the correlation table (R28 to R33). -/

namespace Sys2Proof.Machine

/-! ## Flit sideband and parity (R17, R18) -/

/-- The parity of the lowest `n` bits of a number: true when an odd number of them is 1. -/
def oddBits : Nat → Nat → Bool
  | 0, _ => false
  | n + 1, x => (x % 2 == 1) != oddBits n (x / 2)

/-- Sideband bits [63:0] of a flit. -/
def sideband (f : Flit) : Nat :=
  f.dest % 2 ^ 16 + 2 ^ 16 * (f.src % 2 ^ 16) + 2 ^ 32 * (f.ctx % 2 ^ 16) + 2 ^ 48 * (f.vc % 4) +
    2 ^ 50 * (f.pos % 4) + 2 ^ 52 * (f.stream % 256) + 2 ^ 60 * (f.kind % 16)

/-- `SPAR`: even parity over sideband bits [35:0] and [63:36]. -/
def sparOf (f : Flit) : Nat :=
  b2n (oddBits 36 (sideband f)) + 2 * b2n (oddBits 28 (sideband f / 2 ^ 36))

/-- `PAR` of a payload: bit i is the even parity over payload bits [64i+63:64i]. -/
def parOf (payload : List Byte) : Nat :=
  (List.range 8).foldl (fun a i => a + 2 ^ i * b2n (oddBits 64 (fieldLE payload (8 * i) 8))) 0

def sparGood (f : Flit) : Bool := f.spar == sparOf f
def parGood (f : Flit) : Bool := f.par == parOf f.payload

/-- A flit with its check bits. -/
def sealFlit (f : Flit) : Flit := { f with par := parOf f.payload, spar := sparOf f }

/-- `POS` of flit `k` of `n`. -/
def posOf (n k : Nat) : Nat := if n = 1 then 0 else if k = 0 then 1 else if k + 1 = n then 3 else 2

/-- A message: its payload in flits of 64 bytes, at least one. -/
def mkMsg (dest src ctx vc stream kind : Nat) (payload : List Byte) : WeftMsg :=
  let n := max 1 (ceilDiv payload.length 64)
  ⟨(List.range n).map fun k => sealFlit
    { dest := dest, src := src, ctx := ctx, vc := vc, pos := posOf n k, stream := stream, kind := kind, par := 0, spar := 0,
      payload := slice payload (64 * k) 64 }⟩

/-- The first flit of a message, whose sideband speaks for all of them. -/
def headFlit (m : WeftMsg) : Flit :=
  m.flits.headD { dest := 0, src := 0, ctx := 0, vc := 0, pos := 0, stream := 0, kind := 0, par := 0, spar := 0, payload := [] }

/-- The payload of a message. -/
def payloadOf (m : WeftMsg) : List Byte := m.flits.flatMap (·.payload)

/-- The error response of a router to a request (R10, R18, R23, R48). DESIGN CHOICE: the spec gives the response no payload
layout; the status code stands in its first byte and the rest is 0. -/
def errorResponse (die : Nat) (f : Flit) (st : Status) : WeftMsg :=
  mkMsg f.src (router die) f.ctx 1 f.stream 1 (leBytes 1 (statusCode st))

/-! ## Channels and lanes (R15, R19, R20) -/

def isHub (d : Nat) : Bool := d == 36 || d == 37

/-- Channels of an endpoint die to each hub (R15). None lie between the hubs. -/
def channelsPerHub (d : Nat) : Nat :=
  if d < 8 then 20 else if d < 24 then 10 else if d < 32 then 2 else if d < 36 then 10 else if isHub d then 0
  else if d < 40 then 1 else 0

/-- The hub a channel of an endpoint die ends at. DESIGN CHOICE: channel `c` goes to hub 36 when `c` is below the per-hub
count, else to hub 37; the spec does not number the channels. -/
def hubOf (d c : Nat) : Nat := if c < channelsPerHub d then 36 else 37

/-- The 378 channels that end at a hub (R15): endpoint die and its channel, in rising order. -/
def hubChannels (hub : Nat) : List (Nat × Nat) :=
  (List.range 40).flatMap fun d =>
    ((List.range (2 * channelsPerHub d)).filter fun c => hubOf d c == hub).map fun c => (d, c)

/-- The lane of channel `chan` of a die's router, towards it (`recv`) or away from it. -/
def laneAt (die chan vc : Nat) (recv : Bool) : Option Lane :=
  if isHub die then
    ((hubChannels die)[chan]?).map fun x => { die := x.1, chan := x.2, vc := vc, inbound := !recv }
  else if chan < 2 * channelsPerHub die then some { die := die, chan := chan, vc := vc, inbound := recv }
  else none

/-- The number a lane's counters are held at. -/
def laneKey (l : Lane) : Nat := ((l.die * 64 + l.chan) * 4 + l.vc) * 2 + b2n l.inbound

/-- The router that sends on a lane. -/
def laneSender (l : Lane) : Nat := router (if l.inbound then hubOf l.die l.chan else l.die)

/-- The channels of an endpoint die in service: those to a hub that is present (R20). -/
def channelsUp (s : State) (d : Nat) : List Nat :=
  (List.range (2 * channelsPerHub d)).filter fun c => inService s (router (hubOf d c))

/-- The lane a message leaves a die on: a fixed hash of source, destination, class and `STREAM` over the channels in service
(R19), of those that end at the hub where one end is a hub. -/
def laneFor (s : State) (die : Nat) (f : Flit) : Lane :=
  let d := if isHub die then dieOf f.dest else die
  let hub := if isHub die then some die else if isHub (dieOf f.dest) then some (dieOf f.dest) else none
  let cs := (channelsUp s d).filter fun c => hub.all (· == hubOf d c)
  { die := d, chan := (cs[Config.weftHash f.src f.dest f.vc f.stream % max 1 cs.length]?).getD 0, vc := f.vc,
    inbound := isHub die }

/-! ## Credits (R21) -/

/-- A router's time is stamped on a request when its last flit leaves (R23). -/
def stampSent (req : Option Nat) (s : State) : State :=
  let stamp (r : WeftReq) : WeftReq := if req = some r.id then { r with sent := some (dieTime s r.die) } else r
  { s with weft := { s.weft with outstanding := s.weft.outstanding.map stamp } }

/-- A flit leaves on its lane: it spends a credit. -/
def flitLeaves (w : WaitFlit) (s : State) : State :=
  let s := stampSent w.req s
  bump (laneSender w.lane) 2 1 (emit (.weft w.lane.die w.lane.chan w.lane.inbound w.flit)
    { s with weft := { s.weft with spent := tmod 0 s.weft.spent (laneKey w.lane) (· + 1) } })

/-- Sends a flit: with no credit, or behind a flit that has none, it waits. -/
def laneFlit (w : WaitFlit) (s : State) : State :=
  if (s.weft.waiting.any fun x => x.lane == w.lane) || decide (16 ≤ tget 0 s.weft.spent (laneKey w.lane)) then
    { s with weft := { s.weft with waiting := s.weft.waiting ++ [w] } }
  else flitLeaves w s

/-- Sends flits in order; `req` is the request whose last flit is the last of them. -/
def laneFlits (l : Lane) (req : Option Nat) : List Flit → State → State
  | [], s => s
  | [f], s => laneFlit { lane := l, flit := f, req := req } s
  | f :: r, s => laneFlits l req r (laneFlit { lane := l, flit := f, req := none } s)

/-- A message leaves a die's router, all flits on one channel (R19); one for a unit of the same die crosses no channel. -/
def sendMsg (die : Nat) (req : Option Nat) (m : WeftMsg) (s : State) : State :=
  let f := headFlit m
  if dieOf f.dest = die then emit (.delivered m) (stampSent req s) else laneFlits (laneFor s die f) req m.flits s

/-- R21: the sender regains a credit for an entry the receiver has freed, and the oldest waiting flit of the lane goes. -/
def returnCredit (l : Lane) (s : State) : State :=
  let used := tget 0 s.weft.spent (laneKey l)
  if used ≤ tget 0 s.weft.buffered (laneKey l) then s
  else
    let s := { s with weft := { s.weft with spent := tset 0 s.weft.spent (laneKey l) (used - 1) } }
    match s.weft.waiting.find? fun x => x.lane == l with
    | none => s
    | some w => flitLeaves w { s with weft := { s.weft with waiting := s.weft.waiting.erase w } }

def creditReturn (die chan vc : Nat) (s : State) : State :=
  match laneAt die chan vc false with
  | some l => returnCredit l s
  | none => s

def execWeftCreditReturn (die chan vc : Nat) (s : State) : Host.Outcome State Fault Refusal :=
  ends s (creditReturn die chan vc s)

/-- A message fills entries of the receive buffer of the lane it came on. -/
def fillBuffer (l : Lane) (n : Nat) (s : State) : State :=
  { s with weft := { s.weft with buffered := tmod 0 s.weft.buffered (laneKey l) (· + n) } }

/-- The receiver frees a message's entries. -/
def freeBuffer (l : Option Lane) (m : WeftMsg) (s : State) : State :=
  match l with
  | some l => { s with weft := { s.weft with buffered := tmod 0 s.weft.buffered (laneKey l) (· - m.flits.length) } }
  | none => s

/-! ## Requests (R22, R23) -/

/-- Bytes the spec leaves open, at the next free value's number. -/
def freeBytes (s : State) (n : Nat) : List Byte := (List.range n).map (Config.freeByte s.seed)

/-- The link class of a request's channel (`FRM.WEFT_TMO`): that of its endpoint die. -/
def requestClass (die dest : Nat) : Nat := linkClass (if isHub die then dieOf dest else die)

/-- A unit sends a request, and its die's router awaits the response (R22, R23). DESIGN CHOICE: the spec lets the source unit
choose `STREAM` and gives requests no payload layout; the tag is the request's number, the payload one flit of free bytes, and
a request between units of one die is awaited under the link class of the die. -/
def sendRequest (die src dest ctx vc kind : Nat) (why : WeftPurpose) (s : State) : State :=
  let id := s.weft.nextId
  let m := mkMsg dest src ctx vc (id % 256) kind (freeBytes s 64)
  sendMsg die (some id) m (spend { s with weft := { s.weft with
    nextId := id + 1
    outstanding := s.weft.outstanding ++
      [{ id := id, die := die, cls := requestClass die dest, src := src, dest := dest, stream := id % 256, sent := none,
         purpose := why }] } })

/-- The requests of one purpose are no longer awaited. -/
def untrack (why : WeftPurpose) (s : State) : State :=
  { s with weft := { s.weft with outstanding := s.weft.outstanding.filter fun r => r.purpose != why } }

/-! ## Messages that a router takes (R10, R18, R30, R418) -/

/-- R18: a message with a parity mismatch is discarded and reported; `CHECK_FAIL` goes to `SRC` only where the sideband
parity is right. -/
def parityDiscard (die chan : Nat) (m : WeftMsg) (s : State) : State :=
  let s := { s with weft := { s.weft with paritySeen := true } }
  if !m.flits.all sparGood then
    record { mkRecord s (router die) 0x0103 with info0 := chan } s
  else
    let s := record { mkRecord s (router die) 0x0102 with info0 := (headFlit m).src, info1 := chan } s
    sendMsg die none (errorResponse die (headFlit m) .checkFail) s

/-- The unit's domain is not ON, so its router holds the request (R418). -/
def domainSleeps (s : State) (u : Nat) : Bool :=
  match domainOf u with
  | some x => (domain s x).state != .on
  | none => false

/-- A time-sample message reaches a die's router, which replies with its counter (R30). -/
def answerTimeSample (die : Nat) (f : Flit) (s : State) : State :=
  let t := dieTime s die
  let s := { s with weft := { s.weft with sampling := s.weft.sampling.map fun x =>
    if x.die = die ∧ x.td = none then { x with td := some t } else x } }
  sendMsg die none (mkMsg f.src (router die) 0 1 f.stream 3 (leBytes 8 t.toNat)) s

/-- A request reaches its unit. At a unit with an island its transfer into the island begins, the last of each requester being
kept, and one into a stalled island is answered with CROSS_STALL at once (R425). -/
def deliverRequest (die : Nat) (m : WeftMsg) (s : State) : State :=
  let f := headFlit m
  match islandOf f.dest with
  | none => emit (.delivered m) s
  | some i =>
    if islandStalled s i then sendMsg die none (mkMsg f.src f.dest f.ctx 1 f.stream 1 (leBytes 1 (statusCode .crossStall))) s
    else
      emit (.delivered m) { s with pwr := { s.pwr with
        crossings := s.pwr.crossings.filter (fun x => !(x.island == i && x.requester == f.src)) ++
          [{ island := i, requester := f.src, ctx := f.ctx, stream := f.stream, began := dieTime s die }] } }

/-- A request at the router of its destination's die: answered on an absent unit's behalf, held for a sleeping domain, or
delivered. -/
def takeRequest (die : Nat) (l : Option Lane) (m : WeftMsg) (s : State) : State :=
  let f := headFlit m
  if f.kind = 3 ∧ f.dest = router die then answerTimeSample die f (freeBuffer l m s)
  else
    match absentStatus s f.dest with
    | some st => sendMsg die none (errorResponse die f st) (freeBuffer l m s)
    | none =>
      if domainSleeps s f.dest then { s with weft := { s.weft with heldMsgs := s.weft.heldMsgs ++ [⟨l, m⟩] } }
      else deliverRequest die m (freeBuffer l m s)

/-- A message for a unit of another die at a hub: it goes on to that die, and a request to a unit that accepts none is
answered by the hub (R10, R15). -/
def forward (hub : Nat) (l : Option Lane) (m : WeftMsg) (s : State) : State :=
  let f := headFlit m
  match (if f.vc = 1 then none else absentStatus s f.dest) with
  | some st => sendMsg hub none (errorResponse hub f st) (freeBuffer l m s)
  | none => sendMsg hub none m (freeBuffer l m s)

/-! ## Time (R28 to R33) -/

/-- The frame services unit that keeps the correlation table: the boot ROM and loader, instance 0 of the class. -/
def frameServices : Nat := frameUnit 0

/-- The dies the frame die samples: those present but die 39, which is never the target of a request (R14, R30). -/
def sampledDies (s : State) : List Nat := (List.range 39).filter (diePresent s)

/-- Sends a time-sample message to every present die; entries of absent dies become invalid (R30). -/
def startSampling (cmd : Option CmdRef) (s : State) : State :=
  let ds := sampledDies s
  let t1 := frameTime s
  let corr := (List.range 40).foldl (fun t d =>
    if diePresent s d then t else tmod {} t d fun e => { e with valid := false }) s.weft.corr
  let s := { s with weft := { s.weft with
    corr := corr
    samplingCmd := cmd
    samplingFailed := false
    sampling := ds.map fun d => { die := d, t1 := t1, td := none } } }
  ds.foldl (fun s d => sendRequest 38 frameServices (router d) 0 2 3 (.timeSample d) s) s

/-- The command ends once no entry is awaited: with OK when all have been written, with TIMEOUT when a message was lost (R23,
R32). -/
def endSampling (s : State) : State :=
  if s.weft.sampling ≠ [] then s
  else match s.weft.samplingCmd with
    | some r =>
      completeRef r (if s.weft.samplingFailed then .timeout else .ok) [] frameServices
        { s with weft := { s.weft with samplingCmd := none } }
    | none => s

def descTimeSample : OpDesc := { code := 0x0C31, bytes := 0, used := [], infra := true }

/-- R32: resamples every present die; one sampling runs at a time (R120). -/
def execTimeSample (c : Cmd) (s : State) : Host.Outcome State Fault Refusal :=
  let same (x : Cmd) : Bool := fieldLE x.packet 0 2 == 0x0C31
  runOrdered descTimeSample c (decide (s.weft.sampling ≠ []) || (heldBefore c s).any same) [] s fun s =>
    endSampling (startSampling (some (cmdRef c)) s)

/-- The entry of a sampled die (R30). -/
def sampleEntry (old : TimeCorr) (t1 t2 td : Word64) : TimeCorr where
  offset := BitVec.ofNat 64 ((t1.toNat + t2.toNat) / 2) - td
  unc := BitVec.ofNat 32 (ceilDiv (t2.toNat - t1.toNat) 2)
  samples := satInc old.samples
  valid := true

/-- R30: the reply of a die, with its counter where the reply's message has brought it, is stored; die 39's entry follows die
38's, whose counter it shares. A reply that nothing awaits has no effect. -/
def storeSample (die : Nat) (td : Option Word64) (s : State) : State :=
  match s.weft.sampling.find? fun x => x.die == die with
  | none => s
  | some x =>
    let td := (td.orElse fun _ => x.td).getD (dieTime s die)
    let put (t : Tab TimeCorr) (d : Nat) : Tab TimeCorr :=
      tset {} t d (sampleEntry (tget {} t d) x.t1 (frameTime s) td)
    let corr := put s.weft.corr die
    let corr := if die = 38 ∧ diePresent s 39 then put corr 39 else corr
    let s := untrack (.timeSample die) s
    endSampling { s with weft := { s.weft with
      corr := corr, sampling := s.weft.sampling.filter fun y => y.die != die } }

def execTimeSampleReply (die : Nat) (s : State) : Host.Outcome State Fault Refusal :=
  ends s (storeSample die none s)

def descTimePair : OpDesc := { code := 0x0C30, bytes := 8, used := [(16, 0, 64)] }

/-- R33: the frame counter in words 0 and 1, the host time unchanged in words 2 and 3. -/
def execTimePair (c : Cmd) (s : State) : Host.Outcome State Fault Refusal :=
  runCmd descTimePair c [] s fun s =>
    let t := (frameTime s).toNat
    let h := fieldLE c.packet 16 8
    complete c .ok [bits t 0 32, bits t 32 32, bits h 0 32, bits h 32 32] frameServices s

/-! ## The passing of time (R28) -/

/-- A number held between two bounds. -/
def clampInt (lo hi x : Int) : Int := max lo (min hi x)

/-- The counts a die's counter takes over `n` nominal counts: within 50 parts per million of them (R28). -/
def dieCounts (seed die n : Nat) : Nat :=
  ((n : Int) + (n : Int) * clampInt (-50) 50 (Config.driftPpm seed die) / 1000000).toNat

/-- A die's counter and its remaining delay after `n` nominal counts. -/
def tickDie (seed n : Nat) (t : TimeState) (d : Nat) : TimeState :=
  if tget false t.running d then
    { t with count := tmod 0 t.count d (· + BitVec.ofNat 64 (dieCounts seed d n)) }
  else
    match tget 0 t.delay d with
    | 0 => t
    | k =>
      if k ≤ n + 1 then
        { t with running := tset false t.running d true, delay := tset 0 t.delay d 0,
                 count := tset 0 t.count d (BitVec.ofNat 64 (dieCounts seed d (n + 1 - k))) }
      else { t with delay := tset 0 t.delay d (k - n) }

/-- The counters after a free number of nominal counts. -/
def tickTime (seed : Nat) (t : TimeState) : TimeState :=
  (List.range 40).foldl (tickDie seed (Config.tickCounts seed)) t

/-- The always-on islands leave power-on reset within 100 µs of one another (R28): die `d` after a free delay of at most
100 000 counts. Delays are held plus one, 0 standing for none. -/
def powerIslands (seed : Nat) : TimeState where
  count := []
  running := []
  delay := (List.range 40).map fun d => (d, Config.startDelay seed (if d = 39 then 38 else d) % 100001 + 1)

end Sys2Proof.Machine
end

