-- ==== Sys2Proof/Machine/Spool.lean ====
section
/-! DEFINITION. Spool memory: requests and their decoding (R38 to R48), scrubbing (R49, R50), host access and the snoop
filter (R60, R61), and the granule-owner table (R51 to R59). -/

namespace Sys2Proof.Machine

/-! ## The memory code (R38 to R42) -/

/-- How the decoder reports a codeword. -/
inductive Decoded where
  | clean | corrected | uncorrectable | miscorrected
  deriving DecidableEq, Repr

def pinMark (s : State) (stack chan : Nat) : PinMark := tget {} s.spl.pinMark (stack * 64 + chan)

/-- The marked symbols of a channel (R42). -/
def markedPins (m : PinMark) : List Nat :=
  (if m.aValid then [m.pinA.toNat] else []) ++ (if m.bValid then [m.pinB.toNat] else [])

/-- The symbol that carries a bit of a codeword, and the beat it is carried at (R38): bit `i` of the data by symbol ⌊i/16⌋ at
beat i mod 16, the 64 bits of the check value by symbols 32 to 35 in the same way. -/
def symbolOf (i : Nat) : Nat := i / 16
def beatOf (i : Nat) : Nat := i % 16

/-- The DQ pin of a stack that carries a symbol of a channel (R39). -/
def dqPin (chan sym : Nat) : Nat := 36 * chan + sym

/-- The erroneous symbols of a codeword, from its erroneous bits. -/
def badSymbols (errs : List Nat) : List Nat := ((errs.filter fun i => decide (i < 576)).map symbolOf).dedup

/-- The 36 symbols of a line's codeword (R38): the data, and the check value of the data. DESIGN CHOICE: the spec does not give
the code's generator, so the check value is free; that of data 0 is 0, as the code is linear. A poisoned line is stored as data
0 with the check value inverted in the pattern of 02_spool_memory.md. -/
def codeword (data : List Byte) (poison : Bool) : List Nat :=
  let d := leNat (slice (if poison then [] else data) 0 64)
  let check := if d = 0 then 0 else Config.checkValue d % 2 ^ 64
  let check := if poison then check ^^^ 0xA5A55A5AA5A55A5A else check
  (List.range 36).map fun k => if k < 32 then bits d (16 * k) 16 else bits check (16 * (k - 32)) 16

/-- R40, R41: `errs` are the erroneous symbols. Beyond the two columns of R40 a pattern is uncorrectable, unless the
free choice of R41 miscorrects it. -/
def decodeSymbols (m : PinMark) (errs : List Nat) (seed : Nat) : Decoded :=
  let marks := (markedPins m).length
  let further := (errs.filter fun e => e ∉ markedPins m).length
  if errs = [] then .clean
  else if marks = 0 ∧ further ≤ 2 ∨ marks ≥ 1 ∧ further ≤ 1 then .corrected
  else if marks = 1 ∧ further = 2 then .uncorrectable
  else if Config.miscorrects seed then .miscorrected
  else .uncorrectable

/-- A line found uncorrectable is written back as poison and recorded (R46, R47). The access that met it counts it. -/
def poisonLine (off : Nat) (s : State) : State :=
  let line := off / 64
  let s := { s with spl := { s.spl with
    mem := memZero s.spl.mem (line * 64) 64
    poison := tset false s.spl.poison line true
    ueSeen := true } }
  record { mkRecord s (controller (stackOf off)) 0x0203 with
    object := granuleOf off, otype := 6, info0 := line * 64 } s

/-- A corrected codeword is counted. -/
def noteCe (off : Nat) (s : State) : State :=
  bump (controller (stackOf off)) 5 1
    { s with spl := { s.spl with ceSeen := true, ceCount := tmod 0 s.spl.ceCount (stackOf off) satInc } }

/-- A line is decoded before its data is used; `bad` are the erroneous bits of its codeword. A poison codeword with at most one
erroneous symbol is poison and no error; a miscorrected line delivers a free value. -/
def decodeLine (off : Nat) (bad : List Nat) (s : State) : State :=
  let errs := badSymbols bad
  if poisoned s off ∧ errs.length ≤ 1 then s
  else
    match decodeSymbols (pinMark s (stackOf off) (channelOf off)) errs s.seed with
    | .clean => s
    | .corrected => if poisoned s off then s else noteCe off s
    | .uncorrectable => poisonLine off s
    | .miscorrected =>
      spend { s with spl := { s.spl with
        mem := memWrite s.spl.mem (off / 64 * 64) (slice (Config.miscorrected s.seed) 0 64) } }

/-! ## Requests (R44) -/

/-- The prior value's successor under an indivisible operation (R147, R281, R348). -/
def atomApply (op : AtomOp) (prior operand compare : Nat) : Nat :=
  match op with
  | .add => (prior + operand) % 2 ^ 64
  | .swap => operand
  | .cmpSwap => if prior = compare then operand else prior
  | .min => min prior operand
  | .max => max prior operand
  | .and => prior &&& operand
  | .or => prior ||| operand
  | .xor => prior ^^^ operand

def reqLen (r : SpoolReq) : Nat :=
  match r.kind with
  | .read n => n
  | .write d _ => d.length
  | .atomic _ _ _ => 8

def reqWrites (r : SpoolReq) : Bool :=
  match r.kind with
  | .read _ => false
  | _ => true

/-- The answer to a request leaves the controller. -/
def spoolAnswer (r : SpoolReq) (st : Status) (bs : List Byte) (s : State) : State := emit (.spoolReply r.src st bs) s

/-- Decodes the lines of a request in rising order, all but those it writes whole, and none past the first line it is refused
(R37, R48, R53) or finds poisoned (R40, R46, R47). -/
def decodeGo (r : SpoolReq) : List (Nat × Nat) → State → State
  | [], s => s
  | (a, n) :: rest, s =>
    if lineStatus s r.src r.ctx a ≠ .ok then s
    else if reqWrites r && n == 64 then decodeGo r rest s
    else
      let s := decodeLine a ((r.errs.find? fun e => e.1 == a / 64).elim [] (·.2)) s
      if poisoned s a then s else decodeGo r rest s

def decodeFor (r : SpoolReq) (s : State) : State := decodeGo r (linePieces r.off (reqLen r)) s

/-- R46: a write that carries a poison indication poisons its lines. -/
def poisonedWrite (ps : List (Nat × Nat)) (s : State) : State :=
  ps.foldl (fun s p => { s with spl := { s.spl with
    mem := memZero s.spl.mem (p.1 / 64 * 64) 64, poison := tset false s.spl.poison (p.1 / 64) true } }) s

/-- Serves an admitted request (R44, R46, R47). A write that carries poison stops at its first refused line as any write does. -/
def serveRequest (r : SpoolReq) (s : State) : State :=
  let s := decodeFor r s
  match r.kind with
  | .read n =>
    let (s, st, bs) := spoolRead r.src r.ctx r.off n s
    spoolAnswer r st bs s
  | .write d poison =>
    if poison then
      let ps := linePieces r.off d.length
      match firstBad s r.src r.ctx true ps with
      | some (a, st) =>
        spoolAnswer r st [] (noteBad r.src r.ctx a st (countLines r.ctx true (before a ps) (poisonedWrite (before a ps) s)))
      | none => spoolAnswer r .ok [] (countLines r.ctx true ps (poisonedWrite ps s))
    else
      let (s, st) := spoolWrite r.src r.ctx r.off d s
      spoolAnswer r st [] s
  | .atomic op operand compare =>
    let (s, st, bs) := spoolRead r.src r.ctx r.off 8 s
    match st with
    | .ok =>
      let (s, st) := spoolWrite r.src r.ctx r.off (leBytes 8 (atomApply op (leNat bs) operand compare)) s
      spoolAnswer r st bs s
    | st => spoolAnswer r st [] s

/-- The first line of a request that a host may hold in a way the request must wait for (R60): a read waits for a line
held modified, a write for any filtered line. -/
def snoopNeeded (s : State) (r : SpoolReq) : Option (Nat × Nat) :=
  ((linePieces r.off (reqLen r)).map fun p => p.1 / 64).findSome? fun line =>
    match filterOf s line with
    | some (port, m) => if m || reqWrites r then some (line, port) else none
    | none => none

/-- A back-invalidate snoop is sent, and what waits for its response is noted. -/
def snoopHost (line port : Nat) (inv : Bool) (why : BiWhy) (s : State) : State :=
  emit (.biSnoop port line inv) { bump (controller (stackOf (line * 64))) 6 1 s with spl := { s.spl with
    nextId := s.spl.nextId + 1
    biWaits := s.spl.biWaits ++ [{ id := s.spl.nextId, sent := unitTime s (controller (stackOf (line * 64))), line := line, port := port, inv := inv, why := why }] } }

/-- R53's refusal of a request checked against an entry with bad parity, the entry's reload and its record (R458). -/
def badEntryRefusal (r : SpoolReq) (s : State) : State :=
  let n := stackOf r.off
  let g := granuleOf r.off
  let reloadGot (t : Tab (BitVec 16)) := tset 0 t g (tget 0 s.spl.got g)
  let reloadCtx (t : Tab (BitVec 6)) := tset 0 t r.ctx (tget 0 s.hdl.ctxPart r.ctx)
  let rec0 := mkRecord s (controller n) 0x0206
  let s := noteDeny r.src r.ctx r.off s
  let s :=
    if r.badGranule then
      record { rec0 with object := g, otype := 6, info0 := g }
        { s with spl := { s.spl with gotCopy := tmod [] s.spl.gotCopy n reloadGot } }
    else
      record { rec0 with object := r.ctx, otype := 7, info0 := r.ctx }
        { s with spl := { s.spl with ctxCopy := tmod [] s.spl.ctxCopy n reloadCtx } }
  spoolAnswer r .partitionMismatch [] s

/-- A request's entry is used under bad parity: the granule's, or the context's where the request carries one. -/
def usesBadEntry (r : SpoolReq) : Bool := r.badGranule || (r.badCtx && r.ctx != 0)

/-- Admits a request: the offset (R37), a fenced controller (R48), the granule check (R53), the snoop filter (R60). -/
def admitRequest (r : SpoolReq) (s : State) : State :=
  if usesBadEntry r && decide (r.off < 2 ^ 41) && stackUp s (stackOf r.off) then badEntryRefusal r s
  else
    match lineStatus s r.src r.ctx r.off with
    | .ok =>
      match snoopNeeded s r with
      | some (line, port) => snoopHost line port (reqWrites r) (.device r) s
      | none => serveRequest r s
    | st => spoolAnswer r st [] (noteBad r.src r.ctx r.off st s)

def execSpoolRequest (r : SpoolReq) (s : State) : Host.Outcome State Fault Refusal :=
  ends s (admitRequest r s)

/-! ## Host access (R53, R60) -/

/-- Lines of a stack in its snoop filter. -/
def filterLines (s : State) (stack : Nat) : List Nat :=
  (s.spl.filter.filter fun e => stackOf (e.1 * 64) == stack).map (·.1)

/-- Serves an admitted host request: a read enters the filter, a write lands and its line leaves modified state. -/
def serveHost (h : HostMemReq) (s : State) : State :=
  let line := h.off / 64
  match h.data with
  | none =>
    let s := decodeLine h.off h.errs s
    let bad := poisoned s h.off
    let s := bump (cxlPort h.port) 4 1 (bump (controller (stackOf h.off)) 2 1 s)
    let s := if bad then noteUe h.off s else s
    emit (.cxlMem h.port (line * 64) (memRead s.spl.mem (line * 64) 64) bad)
      (setFilter line (some (h.port, h.own)) s)
  | some d =>
    let s := bump (cxlPort h.port) 5 1 (bump (controller (stackOf h.off)) 3 1 s)
    let s := if h.poison then poisonedWrite [(line * 64, 64)] s else storePiece (line * 64) (slice d 0 64) s
    match filterOf s line with
    | some (p, _) => setFilter line (some (p, false)) s
    | none => s

/-- Admits a host CXL.mem request. A refused read returns poisoned data, a refused write is dropped. A line held through
the other port, or a victim of a full filter, is back-invalidated first. -/
def admitHost (h : HostMemReq) (s : State) : State :=
  let src := cxlPort h.port
  if !portUsable s h.port || !(hport s h.port).memEn then s
  else
    match lineStatus s src 0 h.off with
    | .ok =>
      match filterOf s (h.off / 64) with
      | some (p, _) => if p = h.port ∨ h.data ≠ none then serveHost h s else snoopHost (h.off / 64) p true (.host h) s
      | none =>
        let ls := filterLines s (stackOf h.off)
        if h.data = none ∧ ls.length ≥ 262144 then
          let v := (ls[Config.filterVictim s.seed % ls.length]?).getD 0
          snoopHost v (((filterOf s v).map (·.1)).getD 0) true (.host h) (spend s)
        else serveHost h s
    | st =>
      let s := if st = .partitionMismatch then noteDeny src 0 h.off s else s
      match h.data with
      | none => emit (.cxlMem h.port (h.off / 64 * 64) (slice [] 0 64) true) s
      | some _ => s

def execHostCxlMemRequest (h : HostMemReq) (s : State) : Host.Outcome State Fault Refusal :=
  ends s (admitHost h s)

/-! ## Granule table and context map copies (R54) -/

/-- The units that hold a copy of a table: controllers of the granule-owner table, controllers and Heddles of the
context map. -/
def copyHolders (s : State) (granule : Bool) : List Nat :=
  ((List.range 16).map controller ++ (if granule then [] else (List.range 8).map heddle)).filter (inService s)

/-- A Bobbin of the partition that is given up has still to stop or to be zeroed (R297). -/
def bobbinsLeave (p : Nat) (s : State) : Bool :=
  s.bob.bobbin.any fun e => e.2.part == p && e.2.leaving && e.2.state != .fenced

/-- A PART_CLEAR ends once its granules are FREE, its contexts are partition 0's in every copy, and its Bobbins are UNASSIGNED
(R405). -/
def clearCheck (p : Nat) (s : State) : State :=
  if (s.spl.ackWaits.any fun a => a.after == .clear p) || (s.spl.releases.any fun r => r.clear == some p) || bobbinsLeave p s then s
  else
    match s.parts.clears.find? fun x => x.1 == p with
    | none => s
    | some x => completeRef x.2 .ok [] (ownerUnit s (.admin 0))
        { s with parts := { s.parts with
          clears := s.parts.clears.filter fun y => y.1 != p
          state := tset .opened s.parts.state p .opened } }

/-- What follows a table change that every holder has applied. -/
def tableThen (a : TableThen) (s : State) : State :=
  match a with
  | .complete r => completeRef r .ok [] (ownerUnit s (.admin 0)) s
  | .clear p => clearCheck p s
  | .nothing => s

/-- Sends a table change to every holder in service (R54, R58, R65), and says what follows when all have applied it. -/
def sendTable (granule : Bool) (first count value : Nat) (after : TableThen) (s : State) : State :=
  let us := copyHolders s granule
  let id := s.spl.nextId
  let s := { s with
    spl := { s.spl with
      nextId := id + 1
      got := if granule then tfill 0 s.spl.got first count (BitVec.ofNat 16 value) else s.spl.got
      updates := s.spl.updates ++ us.map fun u =>
        { id := id, unit := u, granule := granule, first := first, count := count, value := value } }
    hdl := { s.hdl with
      ctxPart := if granule then s.hdl.ctxPart else tfill 0 s.hdl.ctxPart first count (BitVec.ofNat 6 value) } }
  if us = [] then tableThen after s
  else
    { s with spl := { s.spl with ackWaits := s.spl.ackWaits ++
      [{ id := id, units := us, granule := granule, first := first, count := count, after := after }] } }

/-- One change applied to a unit's copy, in one event of its arbiter (R54). -/
def applyUpdate (u : TableUpdate) (s : State) : State :=
  let fillGot (t : Tab (BitVec 16)) := tfill 0 t u.first u.count (BitVec.ofNat 16 u.value)
  let fillCtx (t : Tab (BitVec 6)) := tfill 0 t u.first u.count (BitVec.ofNat 6 u.value)
  if u.granule then
    { s with spl := { s.spl with gotCopy := tmod [] s.spl.gotCopy (dieOf u.unit - 8) fillGot } }
  else if classOf u.unit = 6 then
    { s with spl := { s.spl with ctxCopy := tmod [] s.spl.ctxCopy (dieOf u.unit - 8) fillCtx } }
  else
    { s with hdl := { s.hdl with ctxCopy := tmod [] s.hdl.ctxCopy (dieOf u.unit) fillCtx } }

/-- A holder has applied a change; after the last one the command completes. -/
def ackTable (id unit : Nat) (s : State) : State :=
  match s.spl.ackWaits.find? fun a => a.id == id with
  | none => s
  | some a =>
    let left := a.units.filter (· != unit)
    let rest := s.spl.ackWaits.filter fun b => b.id != id
    if left = [] then
      tableThen a.after { s with spl := { s.spl with ackWaits := rest } }
    else { s with spl := { s.spl with ackWaits := rest ++ [{ a with units := left }] } }

/-! ## Releasing granules (R59) -/

def findRelease (s : State) (id : Nat) : Option Release := s.spl.releases.find? fun r => r.id == id
def putRelease (r : Release) (s : State) : State :=
  { s with spl := { s.spl with releases := s.spl.releases.map fun x => if x.id = r.id then r else x } }

/-- Step 3 of R59: lines of the range in the stack's snoop filter are back-invalidated, where `HOST` was 1. -/
def invalidateRange (r : Release) (stack : Nat) (s : State) : State :=
  ((filterLines s stack).filter fun l => granuleOf (l * 64) ∈ r.host).foldl (fun s l =>
    snoopHost l (((filterOf s l).map (·.1)).getD 0) true (.release r.id) s) s

/-- A release's controller has applied the ZEROING state: its back-invalidates go out (steps 2 and 3 of R59). -/
def releaseApplied (id unit : Nat) (s : State) : State :=
  match findRelease s id with
  | some r =>
    let stack := dieOf unit - 8
    invalidateRange r stack (putRelease { r with toApply := r.toApply.filter (· != stack) } s)
  | none => s

/-- TABLE_COPY_UPDATE: the oldest change on its way to a unit is applied in one event of its arbiter (R54). -/
def copyUpdate (unit : Nat) (s : State) : State :=
  match s.spl.updates.find? fun u => u.unit == unit with
  | none => s
  | some u =>
    let s := applyUpdate u { s with spl := { s.spl with
      updates := s.spl.updates.filter fun v => !(v.id == u.id && v.unit == u.unit) } }
    ackTable u.id unit (releaseApplied u.id unit s)

def execTableCopyUpdate (unit : Nat) (s : State) : Host.Outcome State Fault Refusal :=
  ends s (copyUpdate unit s)

/-- The release's last share is zeroed: the entries become FREE in all copies and the command completes (step 5). DESIGN CHOICE:
`OWNER` means something in state OWNED only; entries in state ZEROING and FREE are written with 0 there. -/
def releaseDone (r : Release) (s : State) : State :=
  let s := { s with spl := { s.spl with releases := s.spl.releases.filter fun x => x.id != r.id } }
  sendTable true r.first r.count (mkGot 0 gotFree false)
    (match r.cmd, r.clear with
      | some c, _ => .complete c
      | none, some p => .clear p
      | none, none => .nothing) s

/-- Zeroes a stack's share of the granules, poison included (R46, R59). -/
def zeroShare (first count stack : Nat) (s : State) : State :=
  let mine (off : Nat) : Bool :=
    decide (first ≤ granuleOf off) && decide (granuleOf off < first + count) && stackOf off == stack
  { s with spl := { s.spl with
    mem := s.spl.mem.filter fun e => !mine e.1
    poison := s.spl.poison.filter fun e => !mine (e.1 * 64) } }

/-- Back-invalidates of a release a stack still waits for. -/
def releaseSnoops (s : State) (id stack : Nat) : List BiWait :=
  s.spl.biWaits.filter fun w => w.why == .release id && stackOf (w.line * 64) == stack

/-- ZEROING_COMPLETE: a controller that has applied the change and holds no snoop of the range finishes its share. -/
def zeroingComplete (stack : Nat) (s : State) : State :=
  match s.spl.releases.find? fun r => stack ∈ r.toZero && stack ∉ r.toApply && (releaseSnoops s r.id stack).isEmpty with
  | none => s
  | some r =>
    let s := zeroShare r.first r.count stack s
    let left := r.toZero.filter (· != stack)
    if left = [] then releaseDone r s else putRelease { r with toZero := left } s

def execZeroingComplete (stack : Nat) (s : State) : Host.Outcome State Fault Refusal :=
  ends s (zeroingComplete stack s)

/-- Starts a release (step 1 of R59): the entries go to the controllers in state ZEROING. -/
def startRelease (first count : Nat) (cmd : Option CmdRef) (clear : Option Nat) (s : State) : State :=
  let up := (List.range 16).filter (stackUp s)
  let host := ((List.range count).map (first + ·)).filter fun g => gotHost (tget 0 s.spl.got g).toNat
  let r : Release := { id := s.spl.nextId, first := first, count := count, host := host, toApply := up,
                       toZero := up, cmd := cmd, clear := clear }
  let s := { s with spl := { s.spl with releases := s.spl.releases ++ [r] } }
  let s := sendTable true first count (mkGot 0 gotZeroing false) .nothing s
  if up = [] then releaseDone r s else s

/-! ## Granule commands (R57, R58) -/

/-- The entries of a range in the reference table. -/
def gotRange (s : State) (first count : Nat) : List Nat :=
  (List.range count).map fun k => (tget 0 s.spl.got (first + k)).toNat

/-- Two ranges share an item. -/
def overlaps (a n b m : Nat) : Bool := decide (a < b + m) && decide (b < a + n)

/-- The range of a GRANULE_ASSIGN, GRANULE_RELEASE or CTX_ASSIGN, and whether it is one of granules (R57, R65). -/
def tableRange (c : Cmd) : Option (Bool × Nat × Nat) :=
  match fieldLE c.packet 0 2 with
  | 0x0820 | 0x0821 => some (true, param c 16 8 0 16, param c 16 8 16 16)
  | 0x0201 => some (false, param c 16 8 0 16, param c 16 8 16 17)
  | _ => none

/-- An earlier command on the granule-owner table or the context map still works on the range of this one, or waits for its turn
on it (R519). -/
def tableBusy (s : State) (c : Cmd) (granule : Bool) (first count : Nat) : Bool :=
  ((heldBefore c s).any fun x => match tableRange x with
    | some (g, f, n) => g == granule && overlaps f n first count
    | none => false) ||
  (s.spl.ackWaits.any fun a => a.granule == granule && overlaps a.first a.count first count) ||
    (granule && s.spl.releases.any fun r => overlaps r.first r.count first count)

def descGranuleAssign : OpDesc :=
  { code := 0x0820, bytes := 8, used := [(16, 0, 16), (16, 16, 16), (16, 32, 6), (16, 38, 1)], infra := true }

def descGranuleRelease : OpDesc :=
  { code := 0x0821, bytes := 8, used := [(16, 0, 16), (16, 16, 16)], infra := true }

/-- R58: GRANULE_ASSIGN. -/
def execGranuleAssign (c : Cmd) (s : State) : Host.Outcome State Fault Refusal :=
  let first := param c 16 8 0 16
  let count := param c 16 8 16 16
  let part := param c 16 8 32 6
  let host := param c 16 8 38 1
  runOrdered descGranuleAssign c (tableBusy s c true first count)
    [(count == 0, .lenRange),
     (decide (first + count > 8192), .bounds),
     (host == 1 && part != 0, .denied),
     ((gotRange s first count).any fun e => gotState e != gotFree, .busy)] s fun s =>
      sendTable true first count (mkGot part gotOwned (host == 1)) (.complete (cmdRef c)) s

/-- R58, R59: GRANULE_RELEASE. -/
def execGranuleRelease (c : Cmd) (s : State) : Host.Outcome State Fault Refusal :=
  let first := param c 16 8 0 16
  let count := param c 16 8 16 16
  runOrdered descGranuleRelease c (tableBusy s c true first count)
    [(count == 0, .lenRange),
     (decide (first + count > 8192), .bounds),
     ((gotRange s first count).any fun e => gotState e == gotDevice, .denied),
     ((gotRange s first count).any fun e => gotState e != gotOwned, .busy)] s fun s =>
      startRelease first count (some (cmdRef c)) none s

/-! ## Back-invalidate responses (R60, R61) -/

def dropWait (id : Nat) (s : State) : State :=
  { s with spl := { s.spl with biWaits := s.spl.biWaits.filter fun w => w.id != id } }

/-- BIRSP: an invalidated line leaves the filter, one read back stays shared, and the waiting request is admitted. -/
def biResponse (id : Nat) (s : State) : State :=
  match s.spl.biWaits.find? fun w => w.id == id with
  | none => s
  | some w =>
    let s := dropWait id s
    let s := if w.inv then setFilter w.line none s else setFilter w.line (some (w.port, false)) s
    match w.why with
    | .device r => admitRequest r s
    | .host h => admitHost h s
    | .release _ => s

def execBirsp (id : Nat) (s : State) : Host.Outcome State Fault Refusal :=
  ends s (biResponse id s)

/-- The record of a missing response (R61). -/
def biTimeoutRecord (line : Nat) (s : State) : State :=
  let off := line * 64
  record { mkRecord s (controller (stackOf off)) 0x0205 with
    object := granuleOf off, otype := 6, info0 := off } { s with spl := { s.spl with biTimeout := true } }

/-- `BI_TMO_US` has passed since a snoop was sent, on the counter of its stack's die (R29, R61). -/
def biOverdue (s : State) (w : BiWait) : Bool :=
  decide (s.spl.biTmoUs.toNat * 1000 ≤ since s (8 + stackOf (w.line * 64)) w.sent)

/-- BI_TIMEOUT: a device request completes with TIMEOUT and its line stays filtered (R61); a line of a release, or a
host request's victim, is dropped from the filter and the work proceeds (R59). -/
def biExpire (id : Nat) (s : State) : State :=
  match s.spl.biWaits.find? fun w => w.id == id with
  | none => s
  | some w =>
    if !biOverdue s w then s
    else
      let s := biTimeoutRecord w.line (dropWait id s)
      match w.why with
      | .device r => spoolAnswer r .timeout [] s
      | .host h => admitHost h (setFilter w.line none s)
      | .release _ => setFilter w.line none s

def execBiTimeout (id : Nat) (s : State) : Host.Outcome State Fault Refusal :=
  ends s (biExpire id s)

/-- R342: the lines a port cached leave the filter, as for a missing response. -/
def dropPortLines (port : Nat) (s : State) : State :=
  let ls := (s.spl.filter.filter fun e => (e.2 - 1) % 2 == port).map (·.1)
  let s := { s with spl := { s.spl with filter := s.spl.filter.filter fun e => (e.2 - 1) % 2 != port } }
  ls.foldl (fun s l => biTimeoutRecord l s) s

/-! ## Scrubbing (R42, R49, R50) -/

/-- A pin reaches the threshold of 16 in a pass: it is marked, or the channel has no mark left (R42). -/
def pinThreshold (stack chan sym : Nat) (s : State) : State :=
  let m := pinMark s stack chan
  let info := stack + 2 ^ 8 * chan + 2 ^ 16 * sym
  let u := controller stack
  let set (m : PinMark) (s : State) : State :=
    { s with spl := { s.spl with pinMark := tset {} s.spl.pinMark (stack * 64 + chan) m } }
  if sym ∈ markedPins m then s
  else if !m.aValid then
    record { mkRecord s u 0x0201 with info0 := info } (set { m with pinA := BitVec.ofNat 6 sym, aValid := true } s)
  else if !m.bValid then
    record { mkRecord s u 0x0201 with info0 := info } (set { m with pinB := BitVec.ofNat 6 sym, bValid := true } s)
  else
    record { mkRecord s u 0x0202 with info0 := info } { s with spl := { s.spl with pinSpareFull := true } }

/-- A corrected symbol the scrubber found counts towards its pin (R42). -/
def countPin (stack chan : Nat) (s : State) (sym : Nat) : State :=
  let k := (stack * 64 + chan) * 36 + sym
  let n := tget 0 s.spl.pinCount k + 1
  let s := { s with spl := { s.spl with pinCount := tset 0 s.spl.pinCount k n } }
  if n = 16 then pinThreshold stack chan sym s else s

/-- The scrubber's decode of one channel's codeword at a line index, with its erroneous bits (R49). A poisoned codeword is
skipped, and counts as one that is found uncorrectable does (`SPL.UE_COUNT`). -/
def scrubChannel (stack line : Nat) (errs : List (Nat × List Nat)) (s : State) (chan : Nat) : State :=
  let bad := (errs.find? fun e => e.1 == chan).elim [] (·.2)
  let off := line * 2 ^ 16 + stack * 2 ^ 12 + chan * 64
  if poisoned s off then noteUe off s
  else
    match decodeSymbols (pinMark s stack chan) (badSymbols bad) s.seed with
    | .clean => s
    | .corrected => (badSymbols bad).foldl (countPin stack chan) (noteCe off s)
    | .uncorrectable => noteUe off (poisonLine off s)
    | .miscorrected => decodeLine off bad s

/-- The pass ends: it is noted, counted, and the next one starts with the pins' counts at 0 (R42, R49). -/
def endPass (stack : Nat) (s : State) : State :=
  { s with spl := { s.spl with
    passDone := tset false s.spl.passDone stack true
    passes := tmod 0 s.spl.passes stack satInc
    scrubPos := tset 0 s.spl.scrubPos stack 0
    pinCount := s.spl.pinCount.filter fun c => c.1 / 36 / 64 != stack } }

/-- SCRUB_LINE_STEP: one line index of a stack is read and decoded in all 64 channels; `errs` are the erroneous bits
by channel. -/
def scrubStep (stack : Nat) (errs : List (Nat × List Nat)) (s : State) : State :=
  if !s.spl.scrubEnable || !stackUp s stack then s
  else
    let line := (tget 0 s.spl.scrubPos stack).toNat
    let s := bump (controller stack) 7 64 ((List.range 64).foldl (scrubChannel stack line errs) s)
    if line + 1 = 2 ^ 25 then endPass stack s
    else { s with spl := { s.spl with scrubPos := tset 0 s.spl.scrubPos stack (BitVec.ofNat 25 (line + 1)) } }

def execScrubLineStep (stack : Nat) (errs : List (Nat × List Nat)) (s : State) : Host.Outcome State Fault Refusal :=
  ends s (scrubStep stack errs s)

end Sys2Proof.Machine
end

