-- ==== Sys2Proof/Machine/Cipher.lean ====
section
/-! DEFINITION. The cipher scheduler, its jobs and the key slots (chapter 13). -/

namespace Sys2Proof.Machine

def keySlot (s : State) (n : Nat) : KeySlot := tget {} s.cip.slot n
def setKeySlot (n : Nat) (k : KeySlot) (s : State) : State := { s with cip := { s.cip with slot := tset {} s.cip.slot n k } }

/-- The active scheduler (R393). -/
def schedUnit (s : State) : Nat := cipherSched (if s.cip.schedDie37 then 37 else 36)

def slotOwned (s : State) (part n : Nat) : Bool := itemOwner s 5 n == part

/-! ## Counters (R387) -/

/-- Allocates a counter of a slot; the slot is EXHAUSTED where it has none left. -/
def takeCounter (n : Nat) (s : State) : Option Nat × State :=
  let k := keySlot s n
  if k.counter = k.limit then
    (none, setKeySlot n { k with state := .exhausted } { s with cip := { s.cip with exhaustedSeen := true } })
  else (some k.counter.toNat, setKeySlot n { k with counter := k.counter + 1 } s)

/-- The IV of a fixed field and a counter (R384). -/
def gcmIv (fixed counter : Nat) : List Byte := beBytes 4 fixed ++ beBytes 8 counter

def addRef (n : Nat) (s : State) : State :=
  let k := keySlot s n
  setKeySlot n { k with refs := k.refs + 1 } s

def dropRef (n : Nat) (s : State) : State :=
  let k := keySlot s n
  setKeySlot n { k with refs := k.refs - 1 } s

/-! ## Scheduling (R391, R392) -/

/-- Cores in service, lowest first. -/
def coresUp (s : State) : List Nat := (List.range 16).filter fun n => inService s (cipherCore n)

def bulkCores (s : State) : List Nat := (coresUp s).take s.cip.bulkCores.toNat

/-- Cores a job can start on. DESIGN CHOICE: the lowest of them takes it; R391 names none. -/
def freeCores (s : State) : List Nat :=
  (coresUp s).filter fun n => !(s.cip.running.any fun r => r.1 == n) && !unitClosed s (cipherCore n) &&
    !testing s (cipherCore n)

def startJob (core : Nat) (j : CipherJob) (s : State) : State :=
  { s with cip := { s.cip with running := s.cip.running ++ [(core, j)] } }

/-- The highest class of a list of jobs above a class. -/
def worstClass (cls : Nat) (js : List (Nat × CipherJob)) : Option Nat :=
  js.foldl (fun w r => if cls < r.2.cls ∧ w.getD 0 < r.2.cls then some r.2.cls else w) none

/-- The core whose job a waiting job suspends: of the highest-numbered class above its own, the longest running. DEDUCED:
a job has run since it was started or resumed on its core. -/
def victimFor (s : State) (cls : Nat) : Option (Nat × CipherJob) :=
  let rs := s.cip.running.filter fun r => r.1 ∉ bulkCores s && !unitClosed s (cipherCore r.1)
  match worstClass cls rs with
  | some w => rs.find? fun r => r.2.cls == w
  | none => none

/-- A waiting job takes a core, and the job there is suspended. -/
def suspendFor (v : Nat × CipherJob) (j : CipherJob) (s : State) : State :=
  let s := bump (cipherCore v.1) 5 1 s
  startJob v.1 j { s with cip := { s.cip with
    running := s.cip.running.filter fun r => r.1 != v.1
    suspended := s.cip.suspended ++ [{ v.2 with core := some v.1 }] } }

/-- A job reaches the scheduler: it starts on a free core, suspends a job of a lower class, or waits. -/
def jobArrives (cls slot : Nat) (work : CipherWork) (s : State) : State :=
  let j : CipherJob := { id := s.cip.nextJob, cls := cls, slot := slot, work := work }
  let s := { s with cip := { s.cip with nextJob := s.cip.nextJob + 1 } }
  let wait := { s with cip := { s.cip with waiting := s.cip.waiting ++ [j] } }
  match freeCores s with
  | core :: _ => startJob core j s
  | [] =>
    if s.cip.suspended.length ≥ 256 then wait
    else
      match victimFor s cls with
      | some v => suspendFor v j s
      | none => wait

/-- The first job of the lowest-numbered class. -/
def firstJob (js : List CipherJob) : Option CipherJob :=
  [0, 1, 2].findSome? fun c => js.find? fun j => j.cls == c

/-- The job a free core takes: a suspended one unless a job of a higher class waits, and else a waiting one. -/
def coreTakes (s : State) : Option CipherJob :=
  match firstJob s.cip.waiting, firstJob s.cip.suspended with
  | some w, some p => if w.cls < p.cls then some w else some p
  | some w, none => some w
  | none, p => p

def unwait (j : CipherJob) (s : State) : State :=
  { s with cip := { s.cip with
      waiting := s.cip.waiting.filter fun x => x.id != j.id
      suspended := s.cip.suspended.filter fun x => x.id != j.id } }

/-- What the scheduler does next with the cores and jobs it has (R391, R392). -/
def schedStep (s : State) : Option State :=
  match freeCores s with
  | core :: _ => (coreTakes s).map fun j => startJob core j (unwait j s)
  | [] =>
    if s.cip.suspended.length ≥ 256 then none
    else (firstJob s.cip.waiting).bind fun j => (victimFor s j.cls).map fun v => suspendFor v j (unwait j s)

def scheduleFor : Nat → State → State
  | 0, s => s
  | n + 1, s => match schedStep s with
    | some t => scheduleFor n t
    | none => s

/-- A core falls free, or what the scheduler may do changes: every job that can start starts. -/
def schedule (s : State) : State := scheduleFor (s.cip.waiting.length + 16) s

/-! ## Data commands (R394 to R396) -/


def gcmAadLen (c : Cmd) : Nat := param c 20 4 0 17
def cipherSlot (c : Cmd) : Nat := param c 16 2 0 16
def dataUnit (c : Cmd) : Nat := if param c 18 1 1 1 = 1 then 4096 else 512

/-- Bytes a data command reads and writes. -/
def srcLen (c : Cmd) : Nat :=
  match fieldLE c.packet 0 2 with
  | 0x0610 => gcmAadLen c + cmdLength c
  | 0x0611 => gcmAadLen c + cmdLength c + 16
  | _ => cmdLength c
def dstLen (c : Cmd) : Nat := if fieldLE c.packet 0 2 = 0x0610 then cmdLength c + 16 else cmdLength c

/-- The destination bytes a data command makes of its source, or none where the tag is wrong. -/
def cipherData (k : KeySlot) (c : Cmd) (counter : Nat) (src : List Byte) : Option (List Byte) :=
  let aad := src.take (gcmAadLen c)
  let body := (src.drop (gcmAadLen c)).take (cmdLength c)
  match fieldLE c.packet 0 2 with
  | 0x0610 =>
    let r := gcmSeal k.key (gcmIv k.fixed.toNat counter) aad body
    some (r.1 ++ r.2)
  | 0x0611 =>
    gcmOpen k.key (gcmIv (fieldLE c.packet 48 4) (fieldLE c.packet 56 8)) aad body
      (src.drop (gcmAadLen c + cmdLength c))
  | 0x0612 => some (xtsCrypt true k.key (fieldLE c.packet 48 8) (dataUnit c) src)
  | _ => some (xtsCrypt false k.key (fieldLE c.packet 48 8) (dataUnit c) src)

/-- What a data command returns with OK. -/
def cipherResult (k : KeySlot) (c : Cmd) (counter : Nat) : List Nat :=
  if fieldLE c.packet 0 2 = 0x0610 then [k.fixed.toNat, counter % 2 ^ 32, counter / 2 ^ 32] else []

/-- A core has done a job on `n` bytes (R495). -/
def countCipher (core : Nat) (xts : Bool) (n : Nat) (s : State) : State :=
  bump (cipherCore core) (if xts then 3 else 2) n s

/-- A job's end counts at its core (R476, R495). -/
def countJob (core : Nat) (s : State) : State := worked (cipherCore core) 1 (bump (cipherCore core) 4 1 s)

/-- R396: a core has finished a data command. -/
def finishData (core : Nat) (j : CipherJob) (c : Cmd) (counter : Nat) (s : State) : State :=
  let src := cipherCore core
  let ctx := param c 24 2 0 16
  let dst := fieldLE c.packet 40 8
  let k := keySlot s j.slot
  let (s, st, bs) := bufRead src c.part ctx (fieldLE c.packet 32 8) (srcLen c) c.ext s
  let done (st : Status) (res : List Nat) (s : State) : State := complete c st res (schedUnit s) (dropRef j.slot s)
  if st = .poison then
    done st [] (spend (bufWrite src c.part ctx dst (freeBytes s (dstLen c)) s).1)
  else if st ≠ .ok then done st [] s
  else
    let s := countCipher core (decide (fieldLE c.packet 0 2 ≥ 0x0612)) (cmdLength c) s
    match cipherData k c counter bs with
    | some out =>
      let (s, st) := bufWrite src c.part ctx dst out s
      done st (if st = .ok then cipherResult k c counter else []) s
    | none =>
      let (s, _) := bufWrite src c.part ctx dst (List.replicate (dstLen c) 0) s
      done .checkFail [] { s with cip := { s.cip with openFailSeen := true } }

/-- The type and number of a job's owner (R487). -/
def jobOwner (j : CipherJob) : Nat × Nat :=
  match j.work with
  | .packet q _ => (1, q)
  | .command c _ => match c.skein with
    | .ord g => (2, g)
    | .admin _ => (2, 0xFFFFFF)

/-- CIPHER_JOB_COMPLETE: the core's job ends, and the core takes the next one. -/
def jobComplete (core : Nat) (s : State) : State :=
  match s.cip.running.find? fun r => r.1 == core with
  | none => s
  | some r =>
    if unitHolds s (cipherCore core) (jobOwner r.2).1 (jobOwner r.2).2 then s else
    let s := countJob core { s with cip := { s.cip with running := s.cip.running.filter fun x => x.1 != core } }
    let s := match r.2.work with
      | .packet _ n => countCipher core false n s
      | .command c n => finishData core r.2 c n s
    schedule s

def execCipherJobComplete (core : Nat) (s : State) : Host.Outcome State Fault Refusal :=
  ends s (jobComplete core s)

/-- CIPHER_JOB_ARRIVAL: a packet of a QP, with `bytes` of payload, reaches the scheduler as a class-0 job on the QP's slot. -/
def execCipherJobArrival (qp : Nat) (job : PacketJob) (s : State) : Host.Outcome State Fault Refusal :=
  ends s (jobArrives 0 job.slot (.packet qp job.bytes) s)

/-- The first checks of every class 0x06 command: the slot lies in the partition's range (R394, R395). -/
def slotCheck (s : State) (c : Cmd) : Bool × Status := (!slotOwned s c.part (cipherSlot c), .denied)

/-- Source and destination overlap (R395). -/
def rangesOverlap (c : Cmd) : Bool :=
  let a := fieldLE c.packet 32 8
  let b := fieldLE c.packet 40 8
  srcLen c != 0 && dstLen c != 0 && overlaps a (srcLen c) b (dstLen c)

/-- An accepted data command becomes a job, of class 1 where it is urgent; with no core left it ends FENCED (R452). -/
def submit (c : Cmd) (counter : Nat) (s : State) : State :=
  if (coresUp s).isEmpty then complete c .fenced [] (schedUnit s) s
  else
  jobArrives (if param c 18 1 0 1 = 1 then 1 else 2) (cipherSlot c) (.command c counter) (addRef (cipherSlot c) s)

def descGcmSeal : OpDesc :=
  { code := 0x0610, bytes := 32, data := true,
    used := [(16, 0, 16), (18, 0, 1), (20, 0, 17), (24, 0, 16), (32, 0, 64), (40, 0, 64)] }

def slotIn (s : State) (c : Cmd) (m : SlotState) : Bool := (keySlot s (cipherSlot c)).state == m

/-- GCM_SEAL takes its counter when it is accepted; a slot that has none left fails it. -/
def execGcmSeal (c : Cmd) (s : State) : Host.Outcome State Fault Refusal :=
  runCmd descGcmSeal c
    [slotCheck s c,
     (slotIn s c .exhausted, .keyExhausted),
     (!slotIn s c .gcm, .queueDisabled),
     (rangesOverlap c, .bounds),
     (decide (gcmAadLen c > 65536), .lenRange)] s fun s =>
      match takeCounter (cipherSlot c) s with
      | (some n, s) => submit c n s
      | (none, s) => complete c .keyExhausted [] (schedUnit s) s

def descGcmOpen : OpDesc :=
  { code := 0x0611, bytes := 48, data := true,
    used := [(16, 0, 16), (18, 0, 1), (20, 0, 17), (24, 0, 16), (32, 0, 64), (40, 0, 64), (48, 0, 32), (56, 0, 64)] }

def execGcmOpen (c : Cmd) (s : State) : Host.Outcome State Fault Refusal :=
  runCmd descGcmOpen c
    [slotCheck s c,
     (!slotIn s c .gcm, .queueDisabled),
     (rangesOverlap c, .bounds),
     (decide (gcmAadLen c > 65536), .lenRange)] s (submit c 0)

/-- The packet of XTS_ENC and XTS_DEC. -/
def descXts (code : Nat) : OpDesc :=
  { code := code, bytes := 40, data := true,
    used := [(16, 0, 16), (18, 0, 2), (24, 0, 16), (32, 0, 64), (40, 0, 64), (48, 0, 64)] }

def xtsFails (s : State) (c : Cmd) : List (Bool × Status) :=
  [slotCheck s c,
   (!slotIn s c .xts, .queueDisabled),
   (rangesOverlap c, .bounds),
   (cmdLength c % dataUnit c != 0, .lenRange)]

def execXtsEnc (c : Cmd) (s : State) : Host.Outcome State Fault Refusal :=
  runCmd (descXts 0x0612) c (xtsFails s c) s (submit c 0)

def execXtsDec (c : Cmd) (s : State) : Host.Outcome State Fault Refusal :=
  runCmd (descXts 0x0613) c (xtsFails s c) s (submit c 0)

/-! ## KEY_DESTROY and KEY_QUERY -/

def descKeyDestroy : OpDesc := { code := 0x0602, bytes := 2, used := [(16, 0, 16)] }

/-- R395: the key is zeroed and the slot EMPTY. -/
def execKeyDestroy (c : Cmd) (s : State) : Host.Outcome State Fault Refusal :=
  runCmd descKeyDestroy c
    [slotCheck s c, ((keySlot s (cipherSlot c)).refs != 0, .busy)] s fun s =>
      complete c .ok [] (schedUnit s) (setKeySlot (cipherSlot c) {} s)

def descKeyQuery : OpDesc := { code := 0x0603, bytes := 2, used := [(16, 0, 16)] }

def slotCode : SlotState → Nat
  | .empty => 0 | .gcm => 1 | .xts => 2 | .exhausted => 3

def execKeyQuery (c : Cmd) (s : State) : Host.Outcome State Fault Refusal :=
  let k := keySlot s (cipherSlot c)
  runCmd descKeyQuery c [slotCheck s c] s fun s =>
    complete c .ok [slotCode k.state + 2 ^ 16 * k.refs.toNat, bits k.counter.toNat 0 32, bits k.counter.toNat 32 32]
      (schedUnit s) s

end Sys2Proof.Machine
end

