-- ==== Sys2Proof/Machine/Heddle.lean ====
section
/-! DEFINITION. Heddles: translation and its checks (R64 to R77), withdrawals (R78 to R81), regions and keys (R82 to R85),
page faults (R87 to R93), and the Heddle commands (R94, R95). -/

namespace Sys2Proof.Machine

def ctxDesc (s : State) (c : Nat) : CtxDesc := tget {} s.hdl.ctx c
def setCtxDesc (c : Nat) (d : CtxDesc) (s : State) : State :=
  { s with hdl := { s.hdl with ctx := tset {} s.hdl.ctx c d } }

/-- A Heddle's copy of the context map (R65). -/
def ctxPartH (s : State) (h c : Nat) : Nat := (tget 0 (tget [] s.hdl.ctxCopy h) c).toNat

/-- The eight Shuttle and four Reed engines of a Weave die: the holders of its Heddle. -/
def holdersOf (h : Nat) : List Nat :=
  (List.range 8).map (unitId h 1) ++ (List.range 4).map (unitId h 2)

/-! ## Table entries (R69 to R71) -/

/-- Targets a leaf or a request may name (R62). -/
def knownTarget (t : Nat) : Bool :=
  t == 0 || (decide (1 ≤ t) && decide (t ≤ 8)) || t == 0x10 || (decide (0x20 ≤ t) && decide (t ≤ 0x2F))

/-- log2 of the page a leaf of a level maps (R69). -/
def pageLog2 (level : Nat) : Nat := if level = 1 then 36 else if level = 2 then 30 else 21

/-- The index of a virtual address at a level (R69). -/
def levelIndex (level va : Nat) : Nat :=
  if level = 1 then bits va 36 21 else if level = 2 then bits va 30 6 else bits va 21 9

def entryAddr (e : Nat) : Nat := e / 512 * 512

/-- A present entry is malformed (R71). -/
def malformed (level e : Nat) : Bool :=
  let leaf := bit e 1
  let a := entryAddr e
  bits e 5 4 != 0 || (!leaf && level == 3) ||
    (if leaf then
       (bit e 4 && !bit e 3) || !knownTarget (target a) || a % 2 ^ pageLog2 level != 0
     else
       bits e 2 3 != 0 || !(target a == 0 || target a == 0x10) ||
         a % (if level = 1 then 512 else 4096) != 0)

/-! ## Translation (R73) -/

/-- How a table read or a whole walk ends. -/
inductive WalkEnd where
  | pa (a : Nat) (leaf : CachedLeaf)
  | fail (st : Status)
  | fault (level : Nat)
  | next (level entryPa : Nat) (ptr : Nat)
  deriving DecidableEq, Repr

/-- Rows 1 and 2 of R73: the context, and the address. -/
def translateCheck (s : State) (r : Lookup) : Option Status :=
  let d := ctxDesc s r.ctx
  firstFail [
    (r.ctx == 0 || !d.enable || ctxPartH s r.heddle r.ctx != r.part, .contextFault),
    (decide (r.va ≥ 2 ^ 57) || decide (bits r.va 36 21 ≥ 2 ^ d.l1Log2.toNat), .bounds)]

/-- The leaf grants the access. -/
def leafGrants (l : CachedLeaf) (a : Access) : Bool :=
  match a with
  | .read => l.rd
  | .write => l.wr
  | .atomic => l.atom

/-- A leaf's target is the partition's: accelerator ports and peer windows are assigned (R73's last row). -/
def targetAssigned (s : State) (part pa : Nat) : Bool :=
  let t := target pa
  if 1 ≤ t ∧ t ≤ 8 then (tget ({} : APort) s.lnk.aport (t - 1)).part.toNat == part
  else if 0x20 ≤ t ∧ t ≤ 0x2F then (tget ({} : PeerWin) s.lnk.peerWin (t - 0x20)).part.toNat == part
  else true

/-- Rights and target of a leaf (R73's last two rows), giving the physical address. -/
def useLeaf (s : State) (r : Lookup) (l : CachedLeaf) : WalkEnd :=
  let pa := l.pa + r.va % 2 ^ l.pageLog2
  if !leafGrants l r.access then .fail .denied
  else if !targetAssigned s r.part l.pa then .fail .contextFault
  else .pa pa l

/-- What a table entry read at a level means (R71, R73). -/
def readEntry (s : State) (r : Lookup) (level e : Nat) : WalkEnd :=
  if !bit e 0 then (if (ctxDesc s r.ctx).odp then .fault level else .fail .contextFault)
  else if bit e 1 then
    useLeaf s r { ctx := r.ctx, epoch := (ctxDesc s r.ctx).epoch, pageLog2 := pageLog2 level,
                  page := r.va / 2 ^ pageLog2 level, pa := entryAddr e, rd := bit e 2, wr := bit e 3, atom := bit e 4 }
  else .next (level + 1) (entryAddr e + 8 * levelIndex (level + 1) r.va) (entryAddr e)

/-- An error record of a failed or malformed table entry (R73). -/
def tableErr (r : Lookup) (entryPa : Nat) (mal : Bool) (s : State) : State :=
  let s := if mal then { s with hdl := { s.hdl with tableErrSeen := true } } else s
  record { mkRecord s (heddle r.heddle) 0x0301 with
    part := some r.part, object := r.ctx, otype := 7, info0 := entryPa } s

/-- Reads a table entry under the context being translated (R72) and says what it means. -/
def tableStep (r : Lookup) (level entryPa : Nat) (ext : List ExtRead) (s : State) : State × WalkEnd :=
  let (s, st, bs) :=
    if target entryPa = 0 then spoolRead (heddle r.heddle) r.ctx (offset entryPa) 8 s
    else if target entryPa = 0x10 then hostRead r.part (offset entryPa) 8 ext s
    else (s, .bounds, [])
  match st with
  | .ok =>
    let s := bump (heddle r.heddle) 4 1 s
    let e := leNat bs
    if bit e 0 && malformed level e then (tableErr r entryPa true s, .fail .contextFault)
    else (s, readEntry s r level e)
  | .poison => (s, .fail .poison)
  | .timeout => (s, .fail .timeout)
  | _ => (tableErr r entryPa false s, .fail .contextFault)

/-! ## Caches (R75) -/

def leaves (s : State) (h : Nat) : List CachedLeaf := tget [] s.hdl.leaves h
def ptrs (s : State) (h : Nat) : List CachedPtr := tget [] s.hdl.ptrs h

/-- A cached leaf of the address, of any page size. -/
def cachedLeaf (s : State) (r : Lookup) : Option CachedLeaf :=
  (leaves s r.heddle).find? fun l => l.ctx == r.ctx && l.page == r.va / 2 ^ l.pageLog2

/-- The set a leaf falls in (R75). -/
def leafSet (l : CachedLeaf) : Nat := Config.leafSet l.ctx l.pageLog2 l.page % 1024

/-- Drops the least recently used leaf of a set that holds eight others. -/
def trimSet (ls : List CachedLeaf) (set : Nat) : List CachedLeaf :=
  if (ls.filter fun x => leafSet x == set).length < 8 then ls
  else
    match (ls.reverse.find? fun x => leafSet x == set) with
    | some v => ls.filter (· != v)
    | none => ls

/-- A leaf becomes the most recently used one of its set (R75). -/
def touchLeaf (h : Nat) (l : CachedLeaf) (s : State) : State :=
  let rest := (leaves s h).filter fun x => !(x.ctx == l.ctx && x.pageLog2 == l.pageLog2 && x.page == l.page)
  { s with hdl := { s.hdl with leaves := tset [] s.hdl.leaves h (l :: trimSet rest (leafSet l)) } }

/-- A pointer entry is cached; a full cache drops one, the choice of which R75 leaves open. -/
def touchPtr (h : Nat) (p : CachedPtr) (s : State) : State :=
  let rest := (ptrs s h).filter fun x => !(x.ctx == p.ctx && x.level == p.level && x.index == p.index)
  let rest := if rest.length < 256 then rest else rest.eraseIdx (Config.ptrVictim s.seed % 256)
  { s with hdl := { s.hdl with ptrs := tset [] s.hdl.ptrs h (p :: rest) } }

/-- Where a walk starts: at the deepest cached pointer, or at the root (R69, R75). -/
def walkStart (s : State) (r : Lookup) : Nat × Nat :=
  let d := ctxDesc s r.ctx
  let at_ (level idxLo : Nat) : Option (Nat × Nat) :=
    ((ptrs s r.heddle).find? fun p => p.ctx == r.ctx && p.level == level && p.index == r.va / 2 ^ idxLo).map fun p =>
      (level, p.addr + 8 * levelIndex level r.va)
  match at_ 3 30 with
  | some x => x
  | none =>
    match at_ 2 36 with
    | some x => x
    | none => (1, d.root.toNat + 8 * levelIndex 1 r.va)

/-- A pointer read at a level of a walk is cached: it names the table of the next level. -/
def cachePtr (r : Lookup) (level addr : Nat) (s : State) : State :=
  touchPtr r.heddle { ctx := r.ctx, epoch := (ctxDesc s r.ctx).epoch, level := level,
                      index := r.va / 2 ^ (if level = 2 then 36 else 30), addr := addr } s

/-- Walks from an entry to the end; three levels at most. -/
def walkOn : Nat → Lookup → Nat → Nat → List ExtRead → State → State × WalkEnd
  | 0, _, _, _, _, s => (s, .fail .contextFault)
  | fuel + 1, r, level, entryPa, ext, s =>
    match tableStep r level entryPa ext s with
    | (s, .next l pa addr) => walkOn fuel r l pa ext (cachePtr r l addr s)
    | (s, .pa a leaf) => (touchLeaf r.heddle leaf s, .pa a leaf)
    | (s, e) => (s, e)

/-- A whole translation in one step, by the cache or a walk, for a unit whose own step needs it (R73). -/
def translate (r : Lookup) (ext : List ExtRead) (s : State) : State × WalkEnd :=
  let s := bump (heddle r.heddle) 2 1 s
  match translateCheck s r with
  | some st => (s, .fail st)
  | none =>
    match cachedLeaf s r with
    | some l => (touchLeaf r.heddle l s, useLeaf s r l)
    | none =>
      let (level, pa) := walkStart s r
      walkOn 3 r level pa ext (bump (heddle r.heddle) 3 1 s)

/-! ## Page faults (R87 to R93) -/

def pfqOf (s : State) (p : Nat) : Pfq := tget {} s.hdl.pfq p
def setPfq (p : Nat) (q : Pfq) (s : State) : State := { s with hdl := { s.hdl with pfq := tset {} s.hdl.pfq p q } }

/-- Unresolved records of a partition, oldest first. -/
def outstandingFaults (s : State) (p : Nat) : List PendFault := s.hdl.pend.filter fun f => f.part == p

/-- The partition's queue takes no record: not configured (R93), or full (R90). -/
def pfqFull (s : State) (p : Nat) : Bool :=
  let q := pfqOf s p
  q.log2 == 0 ||
    match outstandingFaults s p with
    | [] => false
    | f :: _ => (q.nextSeq - BitVec.ofNat 32 f.seq).toNat == 2 ^ q.log2.toNat

def isHeld (s : State) (p otype n : Nat) : Bool := s.hdl.held.contains (p, otype, n)

/-- The number a skein has in page-fault records and on the held list: 0xFF_FFFF names the partition's admin skein. DEDUCED: R118
names it so in events, and R210 gives records of its operations `OTYPE` 1. -/
def skeinNumber : SkeinRef → Nat
  | .ord g => g
  | .admin _ => 0xFFFFFF

/-- A skein waits for a page fault of one of its operations, or is held (R88, R92). -/
def skeinStalled (s : State) (r : SkeinRef) (part : Nat) : Bool :=
  isHeld s part 1 (skeinNumber r) ||
    s.hdl.pend.any fun f => f.part == part && f.waiters.any fun w => w.otype == 1 && w.object == skeinNumber r

/-- The partition-local number of a queue pair (type 0) or skein (type 1), as records and the held list give it. DEDUCED: R91 says
only the queue pair or skein number, and software of the partition knows the local ones (R399). -/
def faultObject (s : State) (otype part n : Nat) : Nat :=
  if otype = 0 then toLocal s 1 part n
  else if n = 0xFFFFFF then n
  else toLocal s 0 part n

/-- The device-wide number of what a PF_RELEASE_HELD names. -/
def heldObject (s : State) (otype part n : Nat) : Option Nat :=
  if otype = 0 then toGlobal s 1 part n
  else if n = 0xFFFFFF then some n
  else toGlobal s 0 part n

/-- R92: the object is put on the held list, with its bits and, at the first, its event. -/
def holdObject (r : Lookup) (s : State) : State :=
  let first := !(s.hdl.held.any fun x => x.1 == r.part)
  let q := pfqOf s r.part
  let s := setPfq r.part { q with overflowSeen := true } { s with hdl := { s.hdl with pfqOverflow := true } }
  if r.otype ≥ 2 ∨ isHeld s r.part r.otype r.object then s
  else
    let s := { s with hdl := { s.hdl with held := s.hdl.held ++ [(r.part, r.otype, r.object)] } }
    if first then
      report (.event r.part 0x02 .pageFaultHeld r.holder (faultObject s r.otype r.part r.object) 0) s
    else s

/-- The 32 bytes of a page-fault record (R91). -/
def faultBytes (r : Lookup) (level object : Nat) (time faultId : Nat) (phase : Bool) : List Byte :=
  leBytes 8 (r.va % 2 ^ 57) ++ leBytes 2 r.ctx ++ leBytes 2 r.holder ++
    leBytes 4 (object % 2 ^ 24 + 2 ^ 24 * r.otype + 2 ^ 26 * b2n (r.access == .write) +
      2 ^ 27 * b2n (r.access == .atomic) + 2 ^ 28 * b2n r.remote + 2 ^ 29 * level) ++
    leBytes 8 time ++ leBytes 4 faultId ++ leBytes 4 (2 ^ 31 * b2n phase)

/-- A free slot of a Heddle's pending-fault table (R87). DESIGN CHOICE: the lowest; R87 does not say which one a new fault takes. -/
def freeSlot (s : State) (h : Nat) : Option Nat :=
  (List.range 256).find? fun i => !(s.hdl.pend.any fun f => f.heddle == h && f.slot == i)

def waiterOf (r : Lookup) : Waiter := { object := r.object, otype := r.otype, remote := r.remote, op := r.op }

/-- A new pending fault with its record (R87, R90, R91). A record whose write fails leaves the object held, as a full
queue does. -/
def recordFault (r : Lookup) (level slot : Nat) (s : State) : State :=
  let q := pfqOf s r.part
  let seq := q.nextSeq.toNat
  let size := 2 ^ q.log2.toNat
  let id := slot + 2 ^ 8 * r.heddle + 2 ^ 11 * (seq % 2 ^ 21)
  let object := faultObject s r.otype r.part r.object
  let t := (dieTime s r.heddle).toNat
  let bs := faultBytes r level (if r.otype ≥ 2 then 0 else object) t id ((seq / size) % 2 == 0)
  match bufWrite (heddle r.heddle) r.part q.bufCtx.toNat (q.bufPa.toNat + 32 * (seq % size)) bs s with
  | (s, .ok) =>
    let wasEmpty := (outstandingFaults s r.part).isEmpty
    let s := setPfq r.part { pfqOf s r.part with nextSeq := q.nextSeq + 1 } s
    let s := { s with hdl := { s.hdl with pend := s.hdl.pend ++
      [{ heddle := r.heddle, slot := slot, ctx := r.ctx, page := r.va / 2 ^ 21, part := r.part, seq := seq,
         faultId := BitVec.ofNat 32 id, waiters := [waiterOf r] }] } }
    if wasEmpty then report (.event r.part 0x01 .ok (heddle r.heddle) 0 0) s else s
  | (s, _) => holdObject r s

/-- R87: a page fault joins the pending entry of its page, or gets one with a record, or holds the object (R92, R93). -/
def pageFault (r : Lookup) (level : Nat) (s : State) : State :=
  let same (f : PendFault) : Bool := f.heddle == r.heddle && f.ctx == r.ctx && f.page == r.va / 2 ^ 21
  let join (f : PendFault) : PendFault :=
    if same f && !f.waiters.contains (waiterOf r) then { f with waiters := f.waiters ++ [waiterOf r] } else f
  let s := bump (heddle r.heddle) 5 1 s
  if s.hdl.pend.any same then { s with hdl := { s.hdl with pend := s.hdl.pend.map join } }
  else if pfqFull s r.part then holdObject r s
  else
    match freeSlot s r.heddle with
    | none => holdObject r s
    | some slot => recordFault r level slot s

/-! ## TRANSLATION_LOOKUP and TABLE_ENTRY_RETURN -/

/-- R80: a delivered translation older than an invalidation the holder has accepted is discarded. -/
def staleEpoch (s : State) (r : Lookup) (e : BitVec 32) : Bool :=
  let a := tget 0 s.hdl.accepted (r.holder * 65536 + r.ctx)
  decide ((e - a).toInt < 0)

/-- A translation or failure is delivered to its holder, with log2 of the leaf's page. -/
def deliver (r : Lookup) (st : Status) (pa pageLog2 : Nat) (s : State) : State :=
  let keep (t : Translated) : Bool := !(t.req.holder == r.holder && t.req.ctx == r.ctx && t.req.va == r.va)
  { s with hdl := { s.hdl with delivered := s.hdl.delivered.filter keep ++
      [{ req := r, epoch := (ctxDesc s r.ctx).epoch, status := st, pa := pa, pageLog2 := pageLog2 }] } }

/-- A walk reads its next entry: the request goes out, and its return continues the walk. A `ROOT` at another target issues no
request, and fails as R73 says (R62). -/
def issueWalk (w : Walk) (s : State) : State :=
  if target w.entryPa ≠ 0 ∧ target w.entryPa ≠ 0x10 then
    deliver w.req .contextFault 0 0 (tableErr w.req w.entryPa false s)
  else
  let s := { s with hdl := { s.hdl with walks := s.hdl.walks.filter (fun x => x.id != w.id) ++ [w] } }
  let host := target w.entryPa == 0x10
  let s := if host then trackHostRead w.req.part w.entryPa 8 s else s
  let dest := if host then cxlPort (homePort s w.req.part) else controller (stackOf (offset w.entryPa))
  sendRequest w.req.heddle (heddle w.req.heddle) dest w.req.ctx 0 0 (.walk w.id) s

def startWalk (r : Lookup) (s : State) : State :=
  let (level, pa) := walkStart s r
  let id := s.hdl.nextWalk
  issueWalk { id := id, req := r, epoch := (ctxDesc s r.ctx).epoch, level := level, entryPa := pa }
    { s with hdl := { s.hdl with nextWalk := id + 1 } }

/-- Delivers what a lookup or walk ended in. -/
def endWalk (r : Lookup) (e : WalkEnd) (s : State) : State :=
  match e with
  | .pa a leaf => deliver r .ok a leaf.pageLog2 s
  | .fail st => deliver r st 0 0 s
  | .fault level => pageFault r level s
  | .next _ _ _ => s

/-- A holder asks its own Heddle for a translation (R73, R74, R76). -/
def lookup (r : Lookup) (s : State) : State :=
  if !inService s (heddle r.heddle) || r.holder ∉ holdersOf r.heddle then s
  else
    let s := bump (heddle r.heddle) 2 1 s
    match translateCheck s r with
    | some st => deliver r st 0 0 s
    | none =>
      if r.len = 0 then deliver r .ok 0 0 s
      else
        match cachedLeaf s r with
        | some l => endWalk r (useLeaf s r l) (touchLeaf r.heddle l s)
        | none => startWalk r (bump (heddle r.heddle) 3 1 s)

def execTranslationLookup (r : Lookup) (s : State) : Host.Outcome State Fault Refusal :=
  ends s (lookup r s)

/-- A table-walk read returns (R73). A walk whose context's epoch has changed is discarded and restarted (R77). -/
def tableReturn (id : Nat) (ext : List ExtRead) (s : State) : State :=
  match s.hdl.walks.find? fun w => w.id == id with
  | none => s
  | some w =>
    let s := untrack (.walk id) { s with hdl := { s.hdl with walks := s.hdl.walks.filter fun x => x.id != id } }
    if (ctxDesc s w.req.ctx).epoch ≠ w.epoch ∨ staleEpoch s w.req w.epoch then lookup w.req s
    else
      match translateCheck s w.req with
      | some st => deliver w.req st 0 0 s
      | none =>
        match tableStep w.req w.level w.entryPa ext s with
        | (s, .next l pa addr) => issueWalk { w with level := l, entryPa := pa } (cachePtr w.req l addr s)
        | (s, .pa a leaf) => endWalk w.req (.pa a leaf) (touchLeaf w.req.heddle leaf s)
        | (s, e) => endWalk w.req e s

def execTableEntryReturn (walk : Nat) (ext : List ExtRead) (s : State) : Host.Outcome State Fault Refusal :=
  ends s (tableReturn walk ext s)

/-! ## Withdrawals (R78, R81) -/

/-- A page of a leaf overlaps a withdrawn range; a count of 0 means the whole context. -/
def inWithdrawn (first count2m lo size : Nat) : Bool :=
  count2m == 0 || overlaps first (count2m * 2 ^ 21) lo size

/-- Step 2 of R78 at one Heddle: overlapping leaves and every pointer of the context are dropped, and its holders accept
the new epoch. -/
def invalidateAt (ctx first count2m : Nat) (epoch : BitVec 32) (s : State) (h : Nat) : State :=
  let keepLeaf (l : CachedLeaf) : Bool :=
    l.ctx != ctx || !inWithdrawn first count2m (l.page * 2 ^ l.pageLog2) (2 ^ l.pageLog2)
  bump (heddle h) 7 1 { s with hdl := { s.hdl with
    leaves := tmod [] s.hdl.leaves h (·.filter keepLeaf)
    ptrs := tmod [] s.hdl.ptrs h (·.filter fun p => p.ctx != ctx)
    accepted := (holdersOf h).foldl (fun t u => tset 0 t (u * 65536 + ctx) epoch) s.hdl.accepted } }

/-- A delivered translation is of a page that overlaps a withdrawn range. -/
def ofWithdrawn (ctx first count2m : Nat) (t : Translated) : Bool :=
  t.req.ctx == ctx && t.status == .ok && t.pageLog2 != 0 &&
    inWithdrawn first count2m (t.req.va / 2 ^ t.pageLog2 * 2 ^ t.pageLog2) (2 ^ t.pageLog2)

/-- Holders that hold a translation of the range and have not acknowledged (step 3 of R78). -/
def holdingPairs (s : State) (ctx first count2m : Nat) : List (Nat × Nat) :=
  ((s.hdl.delivered.filter (ofWithdrawn ctx first count2m)).map fun t => (t.req.heddle, t.req.holder)).dedup.filter
    fun p => inService s p.2

/-- What follows a withdrawal's last acknowledgement (R78, R81): the descriptor changes, the command completes with the
new epoch. -/
def withdrawalDone (w : Withdrawal) (s : State) : State :=
  let s := { s with hdl := { s.hdl with withdrawals := s.hdl.withdrawals.filter fun x => x.id != w.id } }
  match w.why with
  | .revoke key =>
    match w.cmd with
    | some r => completeRef r .ok [] (objectUnit s (key / 256)) s
    | none => s
  | .withdraw ctx _ _ epoch =>
    let d := ctxDesc s ctx
    let s := match w.after with
      | .report => s
      | .configure n => setCtxDesc ctx { n with epoch := d.epoch } s
      | .disable => setCtxDesc ctx { d with enable := false } s
    match w.cmd with
    | some r => completeRef r .ok [epoch.toNat] (objectUnit s ctx) s
    | none => s

/-- A holder has acknowledged, or counts as having done so. -/
def ackHolder (id h holder : Nat) (s : State) : State :=
  match s.hdl.withdrawals.find? fun w => w.id == id with
  | none => s
  | some w =>
    let w := { w with awaiting := w.awaiting.filter (· != (h, holder)),
                      fencedWait := w.fencedWait.filter fun p => p.1 != (h, holder) }
    if w.awaiting = [] ∧ w.fencedWait = [] then withdrawalDone w s
    else { s with hdl := { s.hdl with withdrawals := s.hdl.withdrawals.map fun x => if x.id = id then w else x } }

/-- The time of every Heddle's die. -/
def heddleTimes (s : State) : Tab Word64 := (List.range 8).foldl (fun t h => tset 0 t h (dieTime s h)) []

/-- R78: the epoch goes up, every Heddle in service drops the range, and holders that use it are waited for. -/
def startWithdrawal (ctx first count2m : Nat) (after : AckThen) (cmd : Option CmdRef) (s : State) : State :=
  let d := ctxDesc s ctx
  let epoch := d.epoch + 1
  let s := setCtxDesc ctx { d with epoch := epoch } s
  let s := ((List.range 8).filter fun h => inService s (heddle h)).foldl (invalidateAt ctx first count2m epoch) s
  let w : Withdrawal := { id := s.hdl.nextWd, why := .withdraw ctx first count2m epoch,
                          awaiting := holdingPairs s ctx first count2m, fencedWait := [],
                          started := heddleTimes s, after := after, cmd := cmd }
  let s := { s with hdl := { s.hdl with nextWd := s.hdl.nextWd + 1, withdrawals := s.hdl.withdrawals ++ [w] } }
  if w.awaiting = [] then withdrawalDone w s else s

/-- A withdrawal of the context is under way (R66, R81). -/
def withdrawing (s : State) (ctx : Nat) : Bool :=
  s.hdl.withdrawals.any fun w => match w.why with | .withdraw c _ _ _ => c == ctx | .revoke _ => false

/-- The context a command names (R94). -/
def namedCtx (c : Cmd) : Option Nat :=
  if fieldLE c.packet 0 2 ∈ [0x0202, 0x0203, 0x0210, 0x0220] then some (param c 16 8 0 16) else none

/-- An earlier command on the context still works on it, or waits for its turn (R66, R120). -/
def ctxBusy (s : State) (c : Cmd) (ctx : Nat) : Bool :=
  withdrawing s ctx || (heldBefore c s).any fun x => namedCtx x == some ctx

/-- A command on a context waits for the withdrawal under way on it, and behind the commands on it that came before and wait
(R66, R120). -/
def onContext (d : OpDesc) (c : Cmd) (ctx : Nat) (fails : List (Bool × Status)) (s : State) (run : State → State) :
    Host.Outcome State Fault Refusal :=
  runOrdered d c (ctxBusy s c ctx) fails s run

/-! ## Commands (R94, R95) -/

def descCtxAssign : OpDesc :=
  { code := 0x0201, bytes := 8, used := [(16, 0, 16), (16, 16, 17), (16, 33, 6)], infra := true }

/-- A context is in use: enabled, or bound to an accelerator port (R65, R350). -/
def ctxInUse (s : State) (ctx : Nat) : Bool :=
  (ctxDesc s ctx).enable || (List.range 8).any fun k => (tget ({} : APort) s.lnk.aport k).ctx.toNat == ctx

/-- R65, R95: CTX_ASSIGN. -/
def execCtxAssign (c : Cmd) (s : State) : Host.Outcome State Fault Refusal :=
  let first := param c 16 8 0 16
  let count := param c 16 8 16 17
  let part := param c 16 8 33 6
  runOrdered descCtxAssign c (tableBusy s c false first count)
    [(first == 0, .denied),
     (count == 0, .lenRange),
     (decide (first + count > 65536), .bounds),
     ((List.range count).any fun k => ctxInUse s (first + k), .busy)] s fun s =>
      sendTable false first count part (.complete (cmdRef c)) s

def descCtxConfig : OpDesc :=
  { code := 0x0202, bytes := 16, used := [(16, 0, 16), (16, 16, 1), (16, 17, 1), (16, 18, 5), (24, 12, 52)] }

/-- The level-1 table's alignment (R68). -/
def rootAligned (root l1 : Nat) : Bool := root % 2 ^ max 12 (l1 + 3) == 0

/-- R81, R95: CTX_CONFIG; an enabled context is withdrawn whole first. -/
def execCtxConfig (c : Cmd) (s : State) : Host.Outcome State Fault Refusal :=
  let ctx := param c 16 8 0 16
  let l1 := param c 16 8 18 5
  let root := fieldLE c.packet 24 8
  let d : CtxDesc := { enable := param c 16 8 16 1 == 1, odp := param c 16 8 17 1 == 1, l1Log2 := BitVec.ofNat 5 l1,
                       root := BitVec.ofNat 64 root, epoch := (ctxDesc s ctx).epoch }
  onContext descCtxConfig c ctx
    [(!namesCtx s c.part ctx, .denied),
     (decide (l1 > 21) || !rootAligned root l1, .bounds)] s fun s =>
      if (ctxDesc s ctx).enable then startWithdrawal ctx 0 0 (.configure d) (some (cmdRef c)) s
      else complete c .ok [d.epoch.toNat] (objectUnit s ctx) (setCtxDesc ctx d s)

def descCtxDisable : OpDesc := { code := 0x0203, bytes := 8, used := [(16, 0, 16)] }

/-- R81: CTX_DISABLE withdraws the whole context, then disables it. -/
def execCtxDisable (c : Cmd) (s : State) : Host.Outcome State Fault Refusal :=
  let ctx := param c 16 8 0 16
  onContext descCtxDisable c ctx [(!namesCtx s c.part ctx, .denied)] s fun s =>
    startWithdrawal ctx 0 0 .disable (some (cmdRef c)) s

def descHdlWithdraw : OpDesc :=
  { code := 0x0210, bytes := 16, used := [(16, 0, 16), (16, 16, 36), (24, 21, 43)] }

/-- R78, R95: HDL_WITHDRAW. -/
def execHdlWithdraw (c : Cmd) (s : State) : Host.Outcome State Fault Refusal :=
  let ctx := param c 16 8 0 16
  let n := param c 16 8 16 36
  let va := fieldLE c.packet 24 8
  onContext descHdlWithdraw c ctx
    [(!namesCtx s c.part ctx, .denied), (decide (va + n * 2 ^ 21 > 2 ^ 57), .bounds)] s fun s =>
      startWithdrawal ctx va n .report (some (cmdRef c)) s

/-! ## Regions (R82 to R85) -/

def region (s : State) (i : Nat) : Region := tget {} s.hdl.region i

def keyIndex (key : Nat) : Nat := key / 256
def keyOf (i : Nat) (r : Region) : Nat := i * 256 + r.gen.toNat

/-- The entry of an index as a Heddle has it: the copy it caches, else the table's (R83). -/
def cachedRegion (s : State) (h i : Nat) : Region :=
  match (tget [] s.hdl.regionCache h).find? fun e => e.1 == i with
  | some e => e.2
  | none => region s i

/-- A Heddle that reads an entry keeps it, up to 4 096 of them (R83). The entry a full cache drops is left open. -/
def touchRegion (h i : Nat) (s : State) : State :=
  let l := tget [] s.hdl.regionCache h
  let rest := l.filter fun e => e.1 != i
  let rest := if rest.length < 4096 then rest else rest.eraseIdx (Config.regionVictim s.seed % 4096)
  { s with hdl := { s.hdl with regionCache := tset [] s.hdl.regionCache h ((i, cachedRegion s h i) :: rest) } }

/-- The first row of R84, for the entry of the key's index. -/
def keyMatches (r : Region) (part key : Nat) : Bool :=
  let i := keyIndex key
  decide (1 ≤ i) && decide (i < 1048576) && r.valid && r.gen.toNat == key % 256 && r.part.toNat == part

/-- What a key is used for: the rights of R83. -/
inductive KeyUse where
  | rRead | rWrite | rAtomic | rReduce | lRead | lWrite
  deriving DecidableEq, Repr

def keyGrants (r : Region) (u : KeyUse) : Bool :=
  match u with
  | .rRead => r.rRead
  | .rWrite => r.rWrite
  | .rAtomic => r.rAtomic
  | .rReduce => r.rReduce
  | .lRead => true
  | .lWrite => r.lWrite

/-- R84: the key check against an entry, giving the context and virtual address. -/
def keyCheck (r : Region) (part key : Nat) (u : KeyUse) (off len : Nat) : Status × Nat × Nat :=
  match firstFail [(!keyMatches r part key, Status.keyInvalid), (!keyGrants r u, .denied),
      (decide (off + len > r.size), .bounds)] with
  | some st => (st, 0, 0)
  | none => (.ok, r.ctx.toNat, r.baseVa + off)

def descRegionRegister : OpDesc :=
  { code := 0x0220, bytes := 24, used := [(16, 0, 16), (16, 16, 5), (16, 32, 24), (24, 0, 64), (32, 0, 64)] }

/-- The first free index of the range from `i` on, wrapping once (R85). -/
def findRegion (s : State) (part first count : Nat) : Nat → Nat → Option Nat
  | 0, _ => none
  | fuel + 1, k =>
    let i := first + k % count
    if i ≠ 0 ∧ !(region s i).valid ∧ itemOwner s 2 i = part then some i else findRegion s part first count fuel (k + 1)

/-- The partition's region range: partition 0 numbers all indices device-wide (R399). -/
def regionRange (s : State) (part : Nat) : ResRange := if part = 0 then ⟨0, 1048576⟩ else resOf s 2 part

/-- The index REGION_REGISTER allocates (R85). -/
def nextRegion (s : State) (part : Nat) : Option Nat :=
  let r := regionRange s part
  let last := tget 0 s.hdl.lastRegion part
  let k := if inRange r last then last - r.first + 1 else 0
  findRegion s part r.first r.count r.count k

/-- R85, R95: REGION_REGISTER. -/
def execRegionRegister (c : Cmd) (s : State) : Host.Outcome State Fault Refusal :=
  let ctx := param c 16 8 0 16
  let base := fieldLE c.packet 24 8
  let size := fieldLE c.packet 32 8
  let right (k : Nat) : Bool := param c 16 8 (16 + k) 1 == 1
  onContext descRegionRegister c ctx
    [(!namesCtx s c.part ctx, .denied),
     (!(ctxDesc s ctx).enable, .contextFault),
     (size == 0 || decide (size > 2 ^ 48), .lenRange),
     (decide (base + size > 2 ^ 57), .bounds),
     ((nextRegion s c.part).isNone, .poolFull)] s fun s =>
      match nextRegion s c.part with
      | none => s
      | some i =>
        let r : Region := { gen := (region s i).gen, valid := true, rRead := right 0, rWrite := right 1, rAtomic := right 2,
                            rReduce := right 3, lWrite := right 4, part := BitVec.ofNat 6 c.part,
                            ctx := BitVec.ofNat 16 ctx, baseVa := base, size := size,
                            pdom := BitVec.ofNat 24 (param c 16 8 32 24) }
        complete c .ok [keyOf i r] (objectUnit s i)
          { s with hdl := { s.hdl with region := tset {} s.hdl.region i r, lastRegion := tset 0 s.hdl.lastRegion c.part i } }

/-! ## Page-fault commands (R90 to R95) -/

def descPfQueueConfig : OpDesc :=
  { code := 0x0230, bytes := 16, used := [(16, 0, 16), (16, 16, 5), (24, 0, 64)] }

/-- R94, R95: PF_QUEUE_CONFIG. A newly configured queue starts at sequence number 0. DESIGN CHOICE: a `BUF_CTX` that is not the
partition's, for a buffer at target 0x00, completes with PARTITION_MISMATCH (R96 says that it must be the partition's, and gives no
status). -/
def execPfQueueConfig (c : Cmd) (s : State) : Host.Outcome State Fault Refusal :=
  let ctx := param c 16 8 0 16
  let n := param c 16 8 16 5
  let pa := fieldLE c.packet 24 8
  runCmd descPfQueueConfig c
    [(n != 0 && (decide (n < 6) || decide (n > 16)), .lenRange),
     (!(outstandingFaults s c.part).isEmpty, .busy),
     (n != 0 && (!bufTarget pa || pa % 2 ^ (n + 5) != 0), .bounds),
     (n != 0 && target pa == 0 && !ownsCtx s c.part ctx, .partitionMismatch)] s fun s =>
      complete c .ok [] (procUnit s c) (setPfq c.part { pfqOf s c.part with
        bufCtx := BitVec.ofNat 16 ctx, bufPa := BitVec.ofNat 64 pa, log2 := BitVec.ofNat 5 n, nextSeq := 0 } s)

def descPfHeldList : OpDesc :=
  { code := 0x0232, bytes := 16, used := [(16, 0, 16), (16, 16, 16), (16, 32, 32), (24, 0, 64)] }

/-- The cursor of a held object: queue pairs from 0, skeins from 1 048 576 (R96), in partition-local numbers. -/
def heldCursor (s : State) (part : Nat) (x : Nat × Nat × Nat) : Nat :=
  (if x.2.1 = 0 then 0 else 1048576) + faultObject s x.2.1 part x.2.2

/-- Cursors of the partition's held objects, rising. -/
def heldCursors (s : State) (part : Nat) : List Nat :=
  sortKey id ((s.hdl.held.filter fun x => x.1 == part).map (heldCursor s part))

/-- An entry of the held list: NUMBER in [23:0], TYPE in [25:24] (R94, R96). -/
def heldEntry (cur : Nat) : List Byte :=
  if cur < 1048576 then leBytes 4 cur else leBytes 4 (cur - 1048576 + 2 ^ 24)

/-- R92, R94, R96: PF_HELD_LIST. -/
def execPfHeldList (c : Cmd) (s : State) : Host.Outcome State Fault Refusal :=
  let max := param c 16 8 16 16
  runCmd descPfHeldList c [(max == 0, .lenRange)] s fun s =>
    let all := (heldCursors s c.part).filter fun k => decide (param c 16 8 32 32 ≤ k)
    let now := all.take max
    let next := ((all.drop max)[0]?).getD 0
    let u := procUnit s c
    let (s, st) := bufWrite u c.part (param c 16 8 0 16) (fieldLE c.packet 24 8) (now.flatMap heldEntry) s
    complete c st (if st = .ok then [now.length, next] else []) u s

def descPfReleaseHeld : OpDesc := { code := 0x0233, bytes := 4, used := [(16, 0, 24), (16, 24, 2)] }

/-- R92, R95: PF_RELEASE_HELD; the object leaves FAULT_HELD and walks the tables again. -/
def execPfReleaseHeld (c : Cmd) (s : State) : Host.Outcome State Fault Refusal :=
  let n := param c 16 4 0 24
  let typ := param c 16 4 24 2
  let g := heldObject s typ c.part n
  runCmd descPfReleaseHeld c
    [(match g with | some g => decide (typ ≥ 2) || !isHeld s c.part typ g | none => true, .bounds)] s fun s =>
      complete c .ok [] (procUnit s c)
        { s with hdl := { s.hdl with held := s.hdl.held.filter fun x => x != (c.part, typ, g.getD 0) } }

end Sys2Proof.Machine
end

