-- ==== Sys2Proof/Machine/Jacquard.lean ====
section
/-! DEFINITION. Skeins, doorbells and completion queues (R106 to R117, R121) and the queue commands (R123, R124). -/

namespace Sys2Proof.Machine

def skein (s : State) (g : Nat) : Skein := tget {} s.jcq.skein g
def setSkein (g : Nat) (k : Skein) (s : State) : State :=
  { s with jcq := { s.jcq with skein := tset {} s.jcq.skein g k } }

/-- The skein a reference names: an ordinary one or a partition's admin skein. -/
def skeinOf (s : State) : SkeinRef → Skein
  | .ord g => skein s g
  | .admin p => (adminQ s p).sk

def putSkein (r : SkeinRef) (k : Skein) (s : State) : State :=
  match r with
  | .ord g => setSkein g k s
  | .admin p => setAdminQ p { adminQ s p with sk := k } s

def skeinPart (s : State) : SkeinRef → Nat
  | .ord g => itemOwner s 0 g
  | .admin p => p

/-- `IDLE` (R116): not enabled, and no fetched command outstanding. DEDUCED: one whose first entry is on its way counts, since it is
read once and fetched to its end (R107). -/
def skeinIdle (k : Skein) : Bool := !k.enable && k.outstanding == 0 && !k.fetching

/-! ## ERROR (R114) -/

/-- R114: the skein enters ERROR, with its record and event. -/
def skeinError (r : SkeinRef) (st : Status) (s : State) : State :=
  let k := skeinOf s r
  if k.error then s
  else
    let p := skeinPart s r
    let u := ownerUnit s r
    let (obj, loc) := match r with
      | .ord g => (g, toLocal s 0 p g)
      | .admin _ => (0xFFFFFF, 0xFFFFFF)
    let s := putSkein r { k with enable := false, error := true } { s with jcq := { s.jcq with skeinErrSeen := true } }
    let s := record { mkRecord s u 0x0303 with part := some p, object := obj, otype := 2, info0 := statusCode st } s
    report (.event p 0x03 st u loc 0) s

/-! ## Doorbells (R108, R109, R113) -/

def dropDoorbell (s : State) : State := { s with jcq := { s.jcq with dbDrop := satInc s.jcq.dbDrop } }
def rangeSeen (s : State) : State := { s with jcq := { s.jcq with dbRangeSeen := true } }

/-- The partition's function exists on a port: the physical function on both, a VF on its home port while VF Enable is
set and NumVFs reaches it (R329). -/
def functionExists (s : State) (p x : Nat) : Bool :=
  p == 0 || (homePort s p == x && (hport s x).vfEnable && decide (p ≤ (hport s x).numVfs))

def countVfDeny (s : State) : State := { s with lnk := { s.lnk with vfDeny := satInc s.lnk.vfDeny } }

/-- The words of BAR2 (R108). -/
inductive DoorbellWord where
  | sqTail | cqHead | ctl | asqTail | acqHead | eqHead
  deriving DecidableEq, Repr

/-- The word a naturally aligned 32-bit write reaches: pages 0 to 63 hold 16 bytes for each partition-local skein, page 64 the
words of the admin skein and the event queue; none where nothing is listed (R108). -/
def doorbellWord (d : Doorbell) : Option DoorbellWord :=
  if d.read ∨ d.size ≠ 4 ∨ d.off % 4 ≠ 0 then none
  else if d.off < 0x40000 then
    match d.off % 16 with
    | 0 => some .sqTail
    | 4 => some .cqHead
    | 8 => some .ctl
    | _ => none
  else
    match d.off - 0x40000 with
    | 0 => some .asqTail
    | 4 => some .acqHead
    | 8 => some .eqHead
    | _ => none

/-- The partition-local skein whose slot an offset of pages 0 to 63 lies in (R108). -/
def doorbellSkein (d : Doorbell) : Nat := d.off / 4096 * 256 + d.off % 4096 / 16

/-- What a doorbell word does. A write reaches the processors only while the device is ready (R431), through a port that is up and
from a function that exists (R329); an access to no listed word is ignored and counted, and a read returns 0 (R108). A write of
another word than the row's is that word's row. -/
def onDoorbell (w : DoorbellWord) (d : Doorbell) (s : State) (go : State → State) : State :=
  if !s.fw.ready || !portUsable s d.port then s
  else if !functionExists s d.part d.port then countVfDeny s
  else
    match doorbellWord d with
    | some x => if x = w then go s else s
    | none => dropDoorbell (if d.read then emit (.readData d.part 0) { s with regs := { s.regs with readData := 0 } } else s)

/-- A created skein of the partition, by its partition-local number (R109). -/
def namedSkein (part n : Nat) (s : State) (go : SkeinRef → State → State) : State :=
  match toGlobal s 0 part n with
  | some g => if (skein s g).created then go (.ord g) s else dropDoorbell s
  | none => dropDoorbell s

/-- The created skein a doorbell names (R109). -/
def onSkein (w : DoorbellWord) (d : Doorbell) (s : State) (go : SkeinRef → State → State) : State :=
  onDoorbell w d s fun s => namedSkein d.part (doorbellSkein d) s go

/-- A doorbell is applied (R495). -/
def applied (r : SkeinRef) (s : State) : State := bump (ownerUnit s r) 6 1 s

/-- R109: a new tail, unless it is the ring's size or more. -/
def setTail (r : SkeinRef) (value : Nat) (s : State) : State :=
  let k := skeinOf s r
  let t := value % 65536
  if t ≥ 2 ^ k.ring.log2 then rangeSeen s else applied r (putSkein r { k with tail := t } s)

/-- R109, R113: a new head, and the interrupt armed, or sent at once while unread entries remain. -/
def setHead (p : Nat) (q : OutQueue) (value : Nat) (s : State) : Option OutQueue × State :=
  let h := value % 65536
  if h ≥ 2 ^ q.ring.log2 then (none, rangeSeen s)
  else
    let q := { q with head := h }
    if bit value 31 then
      if unread q ≠ 0 then (some { q with arm := false }, sendVector p q.vector.toNat s)
      else (some { q with arm := true }, s)
    else (some q, s)

def setCqHead (r : SkeinRef) (value : Nat) (s : State) : State :=
  match setHead (skeinPart s r) (skeinOf s r).cq value s with
  | (some q, s) => applied r (putSkein r { skeinOf s r with cq := q } s)
  | (none, s) => s

def execSqTail (d : Doorbell) (s : State) : Host.Outcome State Fault Refusal :=
  ends s (onSkein .sqTail d s fun r s => setTail r d.value s)

def execCqHead (d : Doorbell) (s : State) : Host.Outcome State Fault Refusal :=
  ends s (onSkein .cqHead d s fun r s => setCqHead r d.value s)

/-- R116: `ENABLE` of a skein's CTL word; setting it is ignored while the skein is in ERROR. -/
def setEnable (r : SkeinRef) (on : Bool) (s : State) : State :=
  let k := skeinOf s r
  if on && k.error then s else applied r (putSkein r { k with enable := on } s)

def execCtl (d : Doorbell) (s : State) : Host.Outcome State Fault Refusal :=
  ends s (onSkein .ctl d s fun r s => setEnable r (bit d.value 0) s)

def execAsqTail (d : Doorbell) (s : State) : Host.Outcome State Fault Refusal :=
  ends s (onDoorbell .asqTail d s fun s => setTail (.admin d.part) d.value s)

def execAcqHead (d : Doorbell) (s : State) : Host.Outcome State Fault Refusal :=
  ends s (onDoorbell .acqHead d s fun s => setCqHead (.admin d.part) d.value s)

/-- R121: the event queue's head; a slot that frees takes the `EQ_OVERFLOW` entry first. -/
def setEqHead (p value : Nat) (s : State) : State :=
  match setHead p (adminQ s p).eq value s with
  | (some q, s) => overflowEntry p (setAdminQ p { adminQ s p with eq := q } (applied (.admin p) s))
  | (none, s) => s

def execEqHead (d : Doorbell) (s : State) : Host.Outcome State Fault Refusal :=
  ends s (onDoorbell .eqHead d s fun s => setEqHead d.part d.value s)

/-! ## JCQ.ADMIN (R117) -/

/-- Base and size fields accept a write only while both queues are off and the admin skein is idle. -/
def adminWritable (a : AdminQ) : Bool := skeinIdle a.sk && !a.eqEnable

def freshSq (k : Skein) : Skein :=
  { k with head := 0, tail := 0, fetched := [], fetching := false, staged := none }

def freshQ (q : OutQueue) : OutQueue := { q with head := 0, next := 0, phase := true, reserved := 0 }

/-- A ring of the admin queues. -/
def adminRing (pa : Word64) (ctx : BitVec 16) (log2 : Nat) : Ring := { pa := pa, bufCtx := ctx, log2 := log2 }

/-- An accepted write of one word of `JCQ.ADMIN[p]`; none where it is refused (R117, R6). -/
def adminWrite (p off value : Nat) (s : State) : Option State :=
  let a := adminQ s p
  let put (a : AdminQ) : Option State := some (setAdminQ p a s)
  match off with
  | 0x00 =>
    if !adminWritable a then none
    else put { a with sk := { freshSq a.sk with ring := { a.sk.ring with pa := BitVec.ofNat 64 value }, error := false } }
  | 0x08 =>
    if !adminWritable a then none
    else
      let q := { freshQ a.sk.cq with ring := { a.sk.cq.ring with pa := BitVec.ofNat 64 value } }
      put { a with sk := { a.sk with cq := q, error := false } }
  | 0x10 =>
    if !adminWritable a then none
    else put { a with eq := { freshQ a.eq with ring := { a.eq.ring with pa := BitVec.ofNat 64 value } } }
  | 0x18 =>
    let ctx := BitVec.ofNat 16 (bits value 0 16)
    let sq := bits value 16 4
    let cq := bits value 20 4
    let eq := bits value 24 4
    if !adminWritable a || decide (sq < 4) || decide (sq > 12) || decide (cq < 4) || decide (cq > 12) ||
        decide (eq < 4) || decide (eq > 15) then none
    else
      let k := freshSq a.sk
      put { a with
        sk := { k with ring := adminRing k.ring.pa ctx sq, error := false,
                       cq := { freshQ k.cq with ring := adminRing k.cq.ring.pa ctx cq } }
        eq := { freshQ a.eq with ring := adminRing a.eq.ring.pa ctx eq } }
  | 0x1C =>
    let on := bit value 0 && !a.sk.error
    let s := setAdminQ p { a with
      sk := { a.sk with enable := on, cq := { a.sk.cq with vector := BitVec.ofNat 11 (bits value 16 11) } }
      eqEnable := bit value 3
      eqOverflow := a.eqOverflow && !bit value 4 } s
    some (if bit value 3 then overflowEntry p s else s)
  | 0x20 => put { a with eq := { a.eq with vector := BitVec.ofNat 11 (bits value 0 11) } }
  | _ => none

/-- The value of a word of `JCQ.ADMIN[p]`. -/
def adminRead (s : State) (p off : Nat) : Nat :=
  let a := adminQ s p
  match off with
  | 0x00 => a.sk.ring.pa.toNat
  | 0x08 => a.sk.cq.ring.pa.toNat
  | 0x10 => a.eq.ring.pa.toNat
  | 0x18 => a.sk.ring.bufCtx.toNat + 2 ^ 16 * a.sk.ring.log2 + 2 ^ 20 * a.sk.cq.ring.log2 + 2 ^ 24 * a.eq.ring.log2
  | 0x1C => b2n a.sk.enable + 2 * b2n (skeinIdle a.sk) + 4 * b2n a.sk.error + 8 * b2n a.eqEnable +
      16 * b2n a.eqOverflow + 2 ^ 16 * a.sk.cq.vector.toNat
  | 0x20 => a.eq.vector.toNat + 2 ^ 11 * a.lostTypes.toNat
  | _ => 0

/-! ## Completion entries (R103, R112 to R114) -/

/-- The 32 bytes of a completion entry (R103). -/
def completionBytes (d : Done) (phase : Bool) : List Byte :=
  leBytes 1 (statusCode d.status) ++ leBytes 1 (b2n d.replayed) ++ leBytes 2 d.ref.sqHead ++ leBytes 4 d.ref.tag ++
    leBytes 4 ((d.result[0]?).getD 0) ++ leBytes 4 ((d.result[1]?).getD 0) ++ leBytes 4 ((d.result[2]?).getD 0) ++
    leBytes 4 ((d.result[3]?).getD 0) ++ leBytes 2 d.unit ++ leBytes 2 d.ref.opcode ++ leBytes 4 (2 ^ 31 * b2n phase)

/-- One outstanding command less, and the slot reserved for it released. -/
def releaseSlot (k : Skein) : Skein :=
  { k with outstanding := k.outstanding - 1, cq := { k.cq with reserved := k.cq.reserved - 1 } }

/-- A completion that cannot be written is counted (R114). -/
def loseCompletion (s : State) : State := { s with jcq := { s.jcq with cqLost := satInc s.jcq.cqLost } }

/-- Writes a command's completion entry once (R103, R112, R113); a failed write puts the skein into ERROR (R114). -/
def writeCompletion (d : Done) (s : State) : State :=
  let r := d.ref.skein
  let k := skeinOf s r
  let p := skeinPart s r
  if d.ref.silent && d.status == .ok then putSkein r (releaseSlot k) s
  else if (match r with | .ord g => !(skein s g).created | .admin _ => false) then loseCompletion s
  else
    let q := k.cq
    match bufWrite (ownerUnit s r) p q.ring.bufCtx.toNat (q.ring.pa.toNat + 32 * q.next) (completionBytes d q.phase) s with
    | (s, .ok) =>
      let (q, s) := fireArm p (advance q) s
      putSkein r (releaseSlot { skeinOf s r with cq := q }) s
    | (s, st) => skeinError r st (loseCompletion (putSkein r (releaseSlot (skeinOf s r)) s))

/-- An earlier operation of the same communicator has its entry still to be written (R211). -/
def completionHeld (i : Nat) (d : Done) (s : State) : Bool :=
  d.comm.isSome && (s.jcq.done.take i).any fun x => x.comm == d.comm

/-- The completion at a place of the waiting list is written in its turn, and leaves the list. -/
def completionAt (i : Nat) (s : State) : State :=
  match s.jcq.done[i]? with
  | none => s
  | some d =>
    if completionHeld i d s then s
    else writeCompletion d { s with jcq := { s.jcq with done := s.jcq.done.eraseIdx i } }

/-! ## MSIX_UNMASK (R332) -/

/-- A host writes a vector's mask bit; unmasking a vector whose pending bit is set sends one message. -/
def writeVectorMask (p v : Nat) (mask : Bool) (s : State) : State :=
  if v ≥ vectorTable s p then s
  else
    let i := p * 2048 + v
    let s := { s with lnk := { s.lnk with msixOpen := tset false s.lnk.msixOpen i (!mask) } }
    if !mask && tget false s.lnk.pba i then
      sendVector p v { s with lnk := { s.lnk with pba := tset false s.lnk.pba i false } }
    else s

def execMsixUnmask (part vector : Nat) (mask : Bool) (s : State) : Host.Outcome State Fault Refusal :=
  ends s (writeVectorMask part vector mask s)

/-! ## Queue commands (R123, R124) -/

def descNop : OpDesc := { code := 0x0100, bytes := 0, used := [] }

/-- NOP returns the fetching processor's die-local time. -/
def execNop (c : Cmd) (s : State) : Host.Outcome State Fault Refusal :=
  runCmd descNop c [] s fun s =>
    let t := (unitTime s (procUnit s c)).toNat
    complete c .ok [bits t 0 32, bits t 32 32] (procUnit s c) s

def descSkeinCreate : OpDesc :=
  { code := 0x0110, bytes := 112,
    used := [(16, 0, 14), (16, 16, 16), (16, 32, 5), (16, 37, 5), (16, 42, 8), (16, 50, 6), (16, 56, 1), (24, 0, 64),
             (32, 0, 64), (40, 0, 11)] }

/-- A ring's base is aligned to its size of 2^`log2` entries of 2^`entry` bytes and lies at target 0x00 or 0x10. -/
def ringOk (pa log2 entry : Nat) : Bool := bufTarget pa && pa % 2 ^ (log2 + entry) == 0

/-- The skein a queue command names, by its partition-local number. -/
def skeinArg (s : State) (c : Cmd) : Option Nat := toGlobal s 0 c.part (param c 16 8 0 14)

/-- R124: SKEIN_CREATE, carried out by the owner of the skein it names, as the two after it are (R119, R120). -/
def execSkeinCreate (c : Cmd) (s : State) : Host.Outcome State Fault Refusal :=
  let g := (skeinArg s c).getD 0
  let ctx := param c 16 8 16 16
  let sq := param c 16 8 32 5
  let cq := param c 16 8 37 5
  let w := param c 16 8 42 8
  let sqPa := fieldLE c.packet 24 8
  let cqPa := fieldLE c.packet 32 8
  let v := param c 40 4 0 11
  let bad (n : Nat) : Bool := decide (n < 4) || decide (n > 16)
  runCmd descSkeinCreate c
    [((skeinArg s c).isNone, .bounds),
     ((skein s g).created, .busy),
     (bad sq || bad cq || w == 0, .lenRange),
     (!ringOk sqPa sq 6 || !ringOk cqPa cq 5 || decide (v ≥ vectorTable s c.part), .bounds),
     ((target sqPa == 0 || target cqPa == 0) && !ownsCtx s c.part ctx, .partitionMismatch)] s fun s =>
      let ring (pa n : Nat) : Ring := { pa := BitVec.ofNat 64 pa, bufCtx := BitVec.ofNat 16 ctx, log2 := n }
      complete c .ok [] (ownerUnit s (.ord g)) (setSkein g
        { created := true, enable := param c 16 8 56 1 == 1, ring := ring sqPa sq, weight := BitVec.ofNat 8 w,
          burstM1 := BitVec.ofNat 6 (param c 16 8 50 6), cq := { ring := ring cqPa cq, vector := BitVec.ofNat 11 v } } s)

def descSkeinModify : OpDesc :=
  { code := 0x0111, bytes := 8, used := [(16, 0, 14), (16, 14, 8), (16, 22, 6), (16, 28, 1)] }

/-- R114, R124: SKEIN_MODIFY; a new weight and burst take effect at the next round (R115). -/
def execSkeinModify (c : Cmd) (s : State) : Host.Outcome State Fault Refusal :=
  let g := (skeinArg s c).getD 0
  let w := param c 16 8 14 8
  runCmd descSkeinModify c
    [((skeinArg s c).isNone, .bounds),
     (!(skein s g).created, .queueDisabled),
     (w == 0, .lenRange)] s fun s =>
      let k := skein s g
      let k := { k with weight := BitVec.ofNat 8 w, burstM1 := BitVec.ofNat 6 (param c 16 8 22 6) }
      let k := if param c 16 8 28 1 = 1 ∧ k.error then { k with error := false, enable := false } else k
      complete c .ok [] (ownerUnit s (.ord g)) (setSkein g k s)

def descSkeinDestroy : OpDesc := { code := 0x0112, bytes := 8, used := [(16, 0, 14)] }

/-- R124: SKEIN_DESTROY forgets head, tail and configuration. -/
def execSkeinDestroy (c : Cmd) (s : State) : Host.Outcome State Fault Refusal :=
  let g := (skeinArg s c).getD 0
  runCmd descSkeinDestroy c
    [((skeinArg s c).isNone, .bounds),
     (!(skein s g).created, .queueDisabled),
     (!skeinIdle (skein s g), .busy)] s fun s =>
      complete c .ok [] (ownerUnit s (.ord g)) (setSkein g {} s)

end Sys2Proof.Machine
end

