-- ==== Sys2Proof/Machine/Power.lean ====
section
/-! DEFINITION. Power tokens and the Treadle (R408 to R415), pace (R422, R423), clock crossings (R424 to R426), and the
power commands (R428). -/

namespace Sys2Proof.Machine

/-! ## Token holdings (R409) -/

/-- `MAX` of a unit; 0 for a unit that holds no tokens. -/
def maxTokens (u : Nat) : Nat :=
  match classOf u with
  | 0 => 8
  | 1 => if instOf u = 8 then 8 else 10
  | 2 => if instOf u = 4 then 16 else 28
  | 3 => 8
  | 4 => if instOf u = 63 then 0 else 16
  | 5 => 5
  | 6 => 144
  | 7 => 120
  | 8 => if instOf u < 2 then 64 else 0
  | _ => 0

/-- `MIN` of a unit, held permanently (R408). -/
def minTokens (u : Nat) : Nat :=
  match classOf u with
  | 0 => 1
  | 1 => if instOf u = 8 then 2 else 1
  | 2 => if instOf u = 4 then 4 else 2
  | 3 => 2
  | 4 => if instOf u = 63 then 0 else 1
  | 5 => 1
  | 6 => 24
  | 7 => 24
  | 8 => if instOf u < 2 then 12 else 0
  | _ => 0

/-- The group of a unit: 0 K, 1 M, 2 C, 3 N. -/
def groupOf (u : Nat) : Nat :=
  match classOf u with
  | 0 | 3 => 0
  | 1 => if instOf u = 8 then 0 else 3
  | 4 | 7 => 3
  | 2 | 8 => 2
  | _ => 1

/-- The share of a group in percent under a profile (R412). -/
def sharePct (profile g : Nat) : Nat :=
  match profile, g with
  | 0, 0 => 5 | 0, 1 => 35 | 0, 2 => 30 | 0, _ => 30
  | 1, 0 => 5 | 1, 1 => 60 | 1, 2 => 15 | 1, _ => 20
  | 2, 0 => 5 | 2, 1 => 25 | 2, 2 => 50 | 2, _ => 20
  | 3, 0 => 5 | 3, 1 => 25 | 3, 2 => 20 | 3, _ => 50
  | _, _ => 0

/-- `PWR.GROUP[g].SHARE`: ⌊SHARE × ACTIVE / 100⌋ tokens. -/
def shareOf (s : State) (g : Nat) : Nat := sharePct s.pwr.profile.toNat g * active s / 100

def sumGrants (gs : List TokGrant) : Nat := gs.foldl (fun a g => a + g.n) 0

/-- Active tokens granted in all, to a unit, to a group, and on a partition's requests. -/
def heldActive (s : State) : Nat := sumGrants s.pwr.grants
def heldUnit (s : State) (u : Nat) : Nat := sumGrants (s.pwr.grants.filter fun g => g.unit == u)
def heldGroup (s : State) (g : Nat) : Nat := sumGrants (s.pwr.grants.filter fun x => groupOf x.unit == g)
def heldPart (s : State) (p : Nat) : Nat := sumGrants (s.pwr.grants.filter fun g => g.part == p)

/-- Tokens requested and not granted. -/
def waitingTokens (s : State) : Nat := s.pwr.requests.foldl (fun a r => a + r.n) 0
def waitingGroup (s : State) (g : Nat) : Nat :=
  (s.pwr.requests.filter fun r => groupOf r.unit == g).foldl (fun a r => a + r.n) 0
def waitingPart (s : State) (p : Nat) : Nat :=
  (s.pwr.requests.filter fun r => r.part == p).foldl (fun a r => a + r.n) 0

/-- Tokens recalled from a unit and not back yet. -/
def recalledUnit (s : State) (u : Nat) : Nat :=
  (s.pwr.recalls.filter fun r => r.unit == u).foldl (fun a r => a + r.n) 0

/-- A partition's floor in active tokens (R413). -/
def floorOf (s : State) (p : Nat) : Nat := if p = 0 then 0 else amountOf s 9 p

/-- The active tokens the Treadle grants a unit at most: a quarter of its range while its die is throttled (R414). -/
def unitLimit (s : State) (u : Nat) : Nat :=
  let range := maxTokens u - minTokens u
  if tget false s.pwr.throttled (dieOf u) then range / 4 else range

def addGrant (u p n : Nat) (s : State) : State :=
  if n = 0 then s else { s with pwr := { s.pwr with grants := s.pwr.grants ++ [{ unit := u, part := p, n := n }] } }

/-- The unit's domain is ON, or the unit is never switched (R417). -/
def domainOn (s : State) (u : Nat) : Bool := !domainSleeps s u

/-! ## TOKEN_REQUEST -/

/-- R410: a unit with work requests what it lacks of `MAX`. Under Full-weave the request is granted at once (R412), within the limit of a
throttled die (R414). -/
def requestTokens (u p : Nat) (s : State) : State :=
  let asked := (s.pwr.requests.filter fun r => r.unit == u).foldl (fun a r => a + r.n) 0
  let n := maxTokens u - minTokens u - heldUnit s u - asked
  if !inService s u || !domainOn s u || n == 0 then s
  else
    let now := if s.pwr.profile = 4 then min n (unitLimit s u - heldUnit s u) else 0
    let s := addGrant u p now s
    if n = now then s
    else { s with pwr := { s.pwr with requests := s.pwr.requests ++ [{ unit := u, part := p, n := n - now }] } }

def execTokenRequest (unit part : Nat) (s : State) : Host.Outcome State Fault Refusal :=
  ends s (requestTokens unit part s)

/-! ## TREADLE_STEP (R413) -/

/-- What is owed to other groups and partitions with requests waiting; Full-weave owes nothing, as it grants all (R412). -/
def owedOthers (s : State) (r : TokReq) : Nat :=
  if s.pwr.profile = 4 then 0
  else
  let gs := (List.range 4).filter fun g => g != groupOf r.unit && waitingGroup s g != 0
  let ps := (List.range 64).filter fun p => p != r.part && waitingPart s p != 0
  gs.foldl (fun a g => a + (shareOf s g - heldGroup s g)) 0 +
    ps.foldl (fun a p => a + (floorOf s p - heldPart s p)) 0

/-- The first entry equal to `x` gives way to the entries of `ys`. -/
def replaceFirst {α : Type} [DecidableEq α] (x : α) (ys : List α) : List α → List α
  | [] => []
  | y :: r => if y = x then ys ++ r else y :: replaceFirst x ys r

/-- One waiting request is granted what is free and not owed to others, within the unit's limit. -/
def grantOne (s : State) (r : TokReq) : State :=
  let free := active s - heldActive s
  let g := min (min r.n (free - owedOthers s r)) (unitLimit s r.unit - heldUnit s r.unit)
  let left := if r.n = g then [] else [{ r with n := r.n - g }]
  if g = 0 then s
  else addGrant r.unit r.part g { s with pwr := { s.pwr with requests := replaceFirst r left s.pwr.requests } }

/-- Groups and partitions with requests waiting that lie below what they are owed, by how much they lie below and
wait for. -/
def shortfall (s : State) : Nat :=
  (List.range 4).foldl (fun a g => a + min (shareOf s g - heldGroup s g) (waitingGroup s g)) 0 +
    (List.range 64).foldl (fun a p => a + min (floorOf s p - heldPart s p) (waitingPart s p)) 0

/-- Recalls `n` tokens of a unit that a partition's requests brought. -/
def addRecall (u p n : Nat) (s : State) : State :=
  if n = 0 then s else { s with pwr := { s.pwr with recalls := s.pwr.recalls ++ [{ unit := u, part := p, n := n }] } }

/-- What a unit holds on a partition's requests, and what of it is recalled and not back yet. -/
def heldFor (s : State) (u p : Nat) : Nat := sumGrants (s.pwr.grants.filter fun g => g.unit == u && g.part == p)
def recalledFor (s : State) (u p : Nat) : Nat :=
  (s.pwr.recalls.filter fun r => r.unit == u && r.part == p).foldl (fun a r => a + r.n) 0

/-- Recalls up to `want` tokens from grants, in the order given, each by what `spare` says its holder can give. -/
def recallFrom (spare : State → TokGrant → Nat) : List TokGrant → Nat → State → Nat × State
  | [], want, s => (want, s)
  | g :: r, want, s =>
    let n := min (min want g.n) (min (spare s g) (heldFor s g.unit g.part - recalledFor s g.unit g.part))
    recallFrom spare r (want - n) (addRecall g.unit g.part n s)

/-- Tokens of a group, of a partition, that recalls under way will bring back. -/
def recalledGroup (s : State) (g : Nat) : Nat :=
  (s.pwr.recalls.filter fun r => groupOf r.unit == g).foldl (fun a r => a + r.n) 0

def recalledPart (s : State) (p : Nat) : Nat :=
  (s.pwr.recalls.filter fun r => r.part == p).foldl (fun a r => a + r.n) 0

def recalledAll (s : State) : Nat := s.pwr.recalls.foldl (fun a r => a + r.n) 0

/-- What a group holds above its share, and a partition above its floor. -/
def spareGroup (s : State) (g : TokGrant) : Nat :=
  heldGroup s (groupOf g.unit) - recalledGroup s (groupOf g.unit) - shareOf s (groupOf g.unit)
def sparePart (s : State) (g : TokGrant) : Nat := heldPart s g.part - recalledPart s g.part - floorOf s g.part

/-- Recalls for groups and partitions below what they are owed, when nothing is free: from groups above their shares,
then from partitions above their floors, the most recent grants first. -/
def recallShortfall (s : State) : State :=
  let want := shortfall s - recalledAll s
  if active s - heldActive s ≠ 0 ∨ want = 0 then s
  else
    let (want, s) := recallFrom spareGroup s.pwr.grants.reverse want s
    (recallFrom sparePart s.pwr.grants.reverse want s).2

def treadleStep (s : State) : State := recallShortfall (s.pwr.requests.foldl grantOne s)

def execTreadleStep (s : State) : Host.Outcome State Fault Refusal := ends s (treadleStep s)

/-! ## Returning tokens (R410, R415) -/

/-- Takes `n` tokens that a unit holds on a partition's requests out of the grants, the most recent first. -/
def takeBack (u p : Nat) : Nat → List TokGrant → List TokGrant
  | _, [] => []
  | n, g :: r =>
    if g.unit = u ∧ g.part = p then (if g.n ≤ n then takeBack u p (n - g.n) r else { g with n := g.n - n } :: r)
    else g :: takeBack u p n r

/-- The `INFO` of a POWER event (R415). -/
def powerInfo (s : State) : Nat := s.pwr.profile.toNat + 2 ^ 16 * effectiveW s + 2 ^ 32 * active s

/-- Step 4 of R415: the command completes, and every partition with its event queue enabled hears of the change. -/
def pwrSetDone (r : CmdRef) (s : State) : State :=
  let s := completeRef r .ok [active s] treadle { s with pwr := { s.pwr with setWait := none } }
  ((List.range 64).filter fun p => (adminQ s p).eqEnable).foldl
    (fun s p => report (.event p 0x09 .ok treadle 0 (powerInfo s)) s) s

/-- A PWR_SET that shrank the pool completes once the sum held is within it. -/
def checkPwrSet (s : State) : State :=
  match s.pwr.setWait with
  | some w => if heldActive s ≤ active s then pwrSetDone w.cmd s else s
  | none => s

/-- TOKEN_RETURN: the recalled tokens of a unit come back at its step boundary. -/
def returnTokens (u : Nat) (s : State) : State :=
  let mine := s.pwr.recalls.filter fun r => r.unit == u
  checkPwrSet { s with pwr := { s.pwr with
    grants := (mine.foldl (fun gs r => takeBack u r.part r.n gs) s.pwr.grants.reverse).reverse
    recalls := s.pwr.recalls.filter fun r => r.unit != u } }

def execTokenReturn (unit : Nat) (s : State) : Host.Outcome State Fault Refusal := ends s (returnTokens unit s)

/-- Every token a unit holds above `MIN` goes back, and its requests end. -/
def releaseTokens (u : Nat) (s : State) : State :=
  checkPwrSet { s with pwr := { s.pwr with
    idleAt := tset none s.pwr.idleAt u none
    grants := s.pwr.grants.filter fun g => g.unit != u
    requests := s.pwr.requests.filter fun r => r.unit != u
    recalls := s.pwr.recalls.filter fun r => r.unit != u } }

/-- The units of a domain. -/
def domainUnits (x : Nat) : List Nat := allUnits.filter fun u => domainOf u == some x

/-- A domain leaves ON for RETAIN or OFF; its units hold their `MIN` alone (R417). -/
def leaveOn (x : Nat) (off : Bool) (s : State) : State :=
  let d : Domain := { domain s x with state := .sleeping, toOff := off, wakeHeld := false, idleSince := none }
  (domainUnits x).foldl (fun s u => releaseTokens u s) { s with pwr := { s.pwr with domain := tset {} s.pwr.domain x d } }

/-- IDLE_RELEASE_EXPIRY: a unit whose work stayed empty for `IDLE_RELEASE_US` on its die's counter returns every token above
`MIN` (R410). -/
def idleRelease (u : Nat) (s : State) : State :=
  match tget none s.pwr.idleAt u with
  | some t => if since s (dieOf u) t < s.pwr.idleReleaseUs.toNat * 1000 then s else releaseTokens u s
  | none => s

def execIdleReleaseExpiry (unit : Nat) (s : State) : Host.Outcome State Fault Refusal := ends s (idleRelease unit s)

/-! ## PWR_SET and PWR_QUERY (R415, R428) -/

def descPwrSet : OpDesc := { code := 0x0B01, bytes := 3, used := [(16, 0, 12), (18, 0, 3)], infra := true }

def floorSum (s : State) : Nat := othersCount s 9

/-- Recalls until the sum held is within the pool, the most recent grants first (step 2 of R415). -/
def recallExcess (s : State) : State :=
  (recallFrom (fun s g => heldUnit s g.unit) s.pwr.grants.reverse (heldActive s - recalledAll s - active s) s).2

def execPwrSet (c : Cmd) (s : State) : Host.Outcome State Fault Refusal :=
  let w := param c 16 2 0 12
  let profile := param c 18 1 0 3
  let eff := if profile = 4 then 2278 else w
  let same (x : Cmd) : Bool := fieldLE x.packet 0 2 == 0x0B01
  runOrdered descPwrSet c (s.pwr.setWait.isSome || (heldBefore c s).any same)
    [(decide (profile ≥ 5), .opcode),
     (decide (w < 1200) || decide (w > 2200), .lenRange),
     (profile == 4 && !s.pwr.coolingB, .denied),
     (decide (activeOf eff < floorSum s), .busy)] s fun s =>
      let s := { s with pwr := { s.pwr with budgetW := BitVec.ofNat 12 w, profile := BitVec.ofNat 3 profile } }
      if heldActive s ≤ active s then pwrSetDone (cmdRef c) (treadleStep s)
      else recallExcess { s with pwr := { s.pwr with setWait := some { cmd := cmdRef c } } }

def descPwrQuery : OpDesc := { code := 0x0B02, bytes := 0, used := [], infra := true }

def execPwrQuery (c : Cmd) (s : State) : Host.Outcome State Fault Refusal :=
  runCmd descPwrQuery c [] s fun s =>
    complete c .ok [active s, heldActive s, s.pwr.measuredMw.toNat / 1000, s.pwr.profile.toNat + 2 ^ 16 * effectiveW s]
      treadle s

/-! ## Pace (R422, R423) -/

/-- A unit of a domain, which names it in records (R416). -/
def domainUnit (x : Nat) : Nat :=
  if x < 32 then unitId (x / 4) (if x % 4 = 0 then 3 else if x % 4 = 1 then 1 else if x % 4 = 2 then 2 else 4) 0
  else if x < 64 then unitId (8 + (x - 32) / 2) (if x % 2 = 0 then 5 else 6) 0
  else if x < 72 then ethPort (x - 64)
  else accPort (x - 72)

/-- The pace floor of a domain in M steps/s: 1 200 for Bobbins, 1 500 for Weave-pace domains (R423). -/
def paceFloor (x : Nat) : Nat := if 32 ≤ x ∧ x < 64 ∧ x % 2 = 0 then 1200 else 1500

def setDomain (x : Nat) (d : Domain) (s : State) : State :=
  { s with pwr := { s.pwr with domain := tset {} s.pwr.domain x d } }

/-- A domain writes its measured pace; a domain that is not ON reports 0. Sixteen samples below the floor start an
episode, which ends at the first sample at or above it. -/
def paceSample (x pace : Nat) (s : State) : State :=
  let d := domain s x
  let v : BitVec 12 := if d.state = .on then BitVec.ofNat 12 pace else 0
  let d := { d with pace := v, paceMin := if v ≠ 0 ∧ v < d.paceMin then v else d.paceMin }
  if d.state ≠ .on ∨ v.toNat ≥ paceFloor x then
    setDomain x { d with lowSamples := 0, episode := if d.state = .on then false else d.episode } s
  else
    let n := d.lowSamples + 1
    let low := if d.lowSamples = 0 ∨ v < d.lowMin then v else d.lowMin
    let d := { d with lowSamples := n, lowMin := low }
    if n ≥ 16 ∧ !d.episode then
      let s := setDomain x { d with episode := true } { s with pwr := { s.pwr with paceLowSeen := true } }
      record { mkRecord s (domainUnit x) 0x0602 with info0 := x, info1 := low.toNat } s
    else setDomain x d s

def execPaceSample (x pace : Nat) (s : State) : Host.Outcome State Fault Refusal :=
  ends s (if x < 80 then paceSample x pace s else s)

/-! ## Clock crossings (R424 to R426) -/

/-- CROSS_STALL: a transfer of `requester` into an island has not been taken within 4 µs of the die's counter, and completes to
it with CROSS_STALL. The first stall is recorded. A crossing into a domain that is not ON is not timed (R418). -/
def crossStall (i requester : Nat) (s : State) : State :=
  let u := islandUnit i
  match s.pwr.crossings.find? fun x => x.island == i && x.requester == requester with
  | none => s
  | some x =>
    if domainSleeps s u || decide (since s (dieOf u) x.began < 4000) then s
    else
      let s := { s with pwr := { s.pwr with crossings := s.pwr.crossings.erase x } }
      let s := if islandStalled s i then s
        else record { mkRecord s u 0x0104 with info0 := i } { s with pwr := { s.pwr with
          xstallMap := s.pwr.xstallMap ||| BitVec.ofNat 36 (2 ^ i)
          xReset := s.pwr.xReset &&& ~~~(BitVec.ofNat 36 (2 ^ i))
          crossStallSeen := true } }
      sendMsg (dieOf u) none (mkMsg requester u x.ctx 1 x.stream 1 (leBytes 1 (statusCode .crossStall))) s

def execCrossStall (i requester : Nat) (s : State) : Host.Outcome State Fault Refusal :=
  ends s (crossStall i requester s)

/-- CORE_STALL: an island's crossing buffer stayed full for 4 µs. -/
def coreStall (i : Nat) (s : State) : State :=
  if i ≥ 36 then s
  else record { mkRecord s (islandUnit i) 0x0105 with info0 := i } { s with pwr := { s.pwr with coreStallSeen := true } }

def execCoreStall (i : Nat) (s : State) : Host.Outcome State Fault Refusal := ends s (coreStall i s)

/-- XSTALL_CLEAR: 1 024 clean periods after the island's unit was reset, the stall bit clears (R425). -/
def xstallClear (i : Nat) (s : State) : State :=
  if s.pwr.xReset.getLsbD i then
    { s with pwr := { s.pwr with
      xstallMap := s.pwr.xstallMap &&& ~~~(BitVec.ofNat 36 (2 ^ i))
      xReset := s.pwr.xReset &&& ~~~(BitVec.ofNat 36 (2 ^ i)) } }
  else s

def execXstallClear (i : Nat) (s : State) : Host.Outcome State Fault Refusal := ends s (xstallClear i s)

/-! ## Waking a domain (R418, R419) -/

/-- A wake source reaches a domain. One that is leaving ON finishes its transition first. -/
def wakeDomain (x : Nat) (s : State) : State :=
  let d := domain s x
  match d.state with
  | .on | .waking => s
  | .sleeping => setDomain x { d with wakeHeld := true } s
  | .retain | .off => setDomain x { d with state := .waking, wakes := satInc d.wakes } s

/-- A unit is addressed while its domain is not ON. -/
def wakeUnit (u : Nat) (s : State) : State :=
  match domainOf u with
  | some x => wakeDomain x s
  | none => s

/-- A unit that has been reset: the islands it belongs to may clear (R425). -/
def islandReset (u : Nat) (s : State) : State :=
  let m := (List.range 36).foldl (fun m i =>
    if islandUnit i = u ∧ s.pwr.xstallMap.getLsbD i then m ||| BitVec.ofNat 36 (2 ^ i) else m) s.pwr.xReset
  { s with pwr := { s.pwr with xReset := m } }

end Sys2Proof.Machine
end

