-- ==== Sys2Proof/Machine/Cxl.lean ====
section
/-! DEFINITION. CXL ports: virtual functions and MSI-X tables (R329, R332), host memory and peer windows (R333 to R338),
and snoops (R335). -/

namespace Sys2Proof.Machine

/-! ## Peer windows (R336 to R338) -/

def peerWin (s : State) (w : Nat) : PeerWin := tget {} s.lnk.peerWin w

/-- How a peer access is answered before it leaves: the routers' answer where the window's port takes no work (R10), the checks
the port applies, in order (R336), and CROSS_STALL at a stalled island (R425). -/
def peerStatus (s : State) (p pa len : Nat) (write atomic : Bool) : Status :=
  let w := peerWin s (target pa - 0x20)
  let gone := if w.enable then absentStatus s (cxlPort (b2n w.port)) else none
  match firstFail [
      (gone.isSome, gone.getD .fenced),
      (!w.enable || w.part.toNat != p, Status.denied),
      (decide (offset pa + len > 2 ^ w.sizeLog2.toNat), .bounds),
      (atomic || !(if write then w.wr else w.rd), .denied),
      (!(hport s (b2n w.port)).up, .timeout),
      (islandStalled s (16 + b2n w.port), .crossStall)] with
  | some st => st
  | none => .ok

/-- A refusal under R336 counts in the port's `REQ_DENY`. -/
def notePeerDeny (pa : Nat) (st : Status) (s : State) : State :=
  if st ≠ .denied ∧ st ≠ .bounds then s
  else
    let x := b2n (peerWin s (target pa - 0x20)).port
    let h := hport s x
    setHport x { h with reqDeny := satInc h.reqDeny } s

def addCxlReq (r : CxlReq) (s : State) : State :=
  { s with lnk := { s.lnk with nextReq := s.lnk.nextReq + 1, cxlReqs := s.lnk.cxlReqs ++ [{ r with id := s.lnk.nextReq }] } }

/-- A posted write through a peer window (R337). Its visibility needs a read-back (R338). -/
def peerWrite (p pa : Nat) (bs : List Byte) (s : State) : State × Status :=
  match peerStatus s p pa bs.length true false with
  | .ok =>
    let w := peerWin s (target pa - 0x20)
    (emit (.peerWrite (b2n w.port) p (w.busBase.toNat * 4096 + offset pa) bs) s, .ok)
  | st => (notePeerDeny pa st s, st)

/-- The bus address a peer access reaches. -/
def busAddr (s : State) (pa : Nat) : Nat := (peerWin s (target pa - 0x20)).busBase.toNat * 4096 + offset pa

/-- The read-back of the last bus address written on a port (R338): a zero-length read, outstanding unless its answer is at hand. -/
def readBack (x p bus : Nat) (answered : Bool) (s : State) : State :=
  let s := if answered then s
    else addCxlReq { id := 0, port := x, peer := true, write := false, readBack := true, part := p, pa := bus, len := 0 } s
  emit (.peerRead x p bus 0) s

/-- The last write through a peer window on port `x` among what has been sent: its partition and bus address. -/
def lastPeerWrite (x : Nat) (sent : List Out) : Option (Nat × Nat) :=
  sent.foldl (fun a o => match o with
    | .peerWrite y p bus _ => if y = x then some (p, bus) else a
    | _ => a) none

/-- A non-posted read through a peer window, answered by what the command brings (R337). -/
def peerRead (p pa len : Nat) (ext : List ExtRead) (s : State) : State × Status × List Byte :=
  match peerStatus s p pa len false false with
  | .ok =>
    let w := peerWin s (target pa - 0x20)
    let ext := ext ++ s.lnk.answers
    let (st, bs) := extRead ext pa len
    let s :=
      if ext.any fun e => e.pa == pa then { s with lnk := { s.lnk with p2pErrSeen := s.lnk.p2pErrSeen || st != .ok } }
      else addCxlReq { id := 0, port := b2n w.port, peer := true, write := false, readBack := false, part := p, pa := pa, len := len } s
    let s := { s with lnk := { s.lnk with answers := s.lnk.answers.filter fun e => e.pa != pa } }
    (emit (.peerRead (b2n w.port) p (busAddr s pa) len) s, st, bs)
  | st => (notePeerDeny pa st s, st, [])

/-! ## Snoops (R335) -/

/-- H2D_SNOOP: the device answers; a line it holds modified is returned, and given up unless the snoop leaves it. -/
def h2dSnoop (x line : Nat) (inv : Bool) (s : State) : State :=
  let h := hport s x
  if !portUsable s x || !h.cacheEn then s
  else
    let dirty := h.modified.contains line
    emit (.snoopRsp x line dirty)
      (setHport x { h with snoops := satInc h.snoops, modified := if inv then h.modified.filter (· != line) else h.modified } s)

def execH2dSnoop (x line : Nat) (inv : Bool) (s : State) : Host.Outcome State Fault Refusal :=
  ends s (h2dSnoop x line inv s)

/-! ## VF_ENABLE (R329, R332) -/

/-- TotalVFs, First VF Offset and VF Stride (R327). -/
def totalVfs : Nat := 63
def firstVfOffset : Nat := 1
def vfStride : Nat := 1

/-- The vectors of the VFs of a port: masked again, with nothing pending, and their BARs unplaced. -/
def clearVfVectors (x : Nat) (s : State) : State :=
  let keep (i : Nat) : Bool := decide (i < 2048) || homePort s (i / 2048) != x
  { s with lnk := { s.lnk with
    msixOpen := s.lnk.msixOpen.filter fun e => keep e.1
    pba := s.lnk.pba.filter fun e => keep e.1
    msixAddr := s.lnk.msixAddr.filter fun e => keep e.1
    msixData := s.lnk.msixData.filter fun e => keep e.1
    barBase := s.lnk.barBase.filter fun e => keep (e.1 / 8 * 2048) } }

/-- A host sets or clears VF Enable: setting it fixes each VF's table size at `VF_MSIX`. TotalVFs is 63 (R327). -/
def setVfEnable (x numVfs : Nat) (on : Bool) (s : State) : State :=
  let h := hport s x
  if !portUsable s x then s
  else
    let s := clearVfVectors x s
    setHport x { h with vfEnable := on, numVfs := if on then min numVfs totalVfs else 0 }
      { s with lnk := { s.lnk with vfTable := tset 0 s.lnk.vfTable x (if on then s.lnk.vfMsix.toNat else 0) } }

def execVfEnable (x numVfs : Nat) (on : Bool) (s : State) : Host.Outcome State Fault Refusal :=
  ends s (setVfEnable x numVfs on s)

end Sys2Proof.Machine
end

