-- ==== Sys2Proof/Machine/Net.lean ====
section
/-! DEFINITION. Frames on the wire: the checks of IEEE 802.3, CRC-32C (R160) and Tchiolmeo flits (R345), and the
Ethernet, IP and UDP headers a Shuttle packet is carried in (R155, R161). -/

namespace Sys2Proof.Machine

/-! ## Checks -/

/-- One byte into a reflected 32-bit CRC of polynomial `poly`. -/
def crcByte (poly : Nat) (c : Nat) (b : Byte) : Nat :=
  (List.range 8).foldl (fun c _ => if c % 2 = 1 then c / 2 ^^^ poly else c / 2) (c ^^^ b.toNat)

def crcReflected (poly : Nat) (bs : List Byte) : Nat := bs.foldl (crcByte poly) 0xFFFFFFFF ^^^ 0xFFFFFFFF

/-- CRC-32C, reflected (R160). -/
def crc32c : List Byte → Nat := crcReflected 0x82F63B78

/-- The CRC-32C of each check block of 4 KiB; the last may be shorter (R249). -/
def blockCrcs (bs : List Byte) : List Nat :=
  (List.range (ceilDiv bs.length 4096)).map fun i => crc32c ((bs.drop (4096 * i)).take 4096)

/-- A block as it is read with an error in it: its first bit is wrong. -/
def misread : List Byte → List Byte
  | [] => []
  | b :: r => (b ^^^ 1) :: r

/-- The frame check sequence of IEEE 802.3, as its four bytes on the wire. -/
def fcsOf (frame : List Byte) : List Byte := leBytes 4 (crcReflected 0xEDB88320 frame)

/-- One byte into an unreflected 64-bit CRC. -/
def crc64Byte (c : Nat) (b : Byte) : Nat :=
  (List.range 8).foldl (fun c _ =>
    if c / 2 ^ 63 = 1 then (2 * c) % 2 ^ 64 ^^^ 0x42F0E1EBA9EA3693 else 2 * c) (c ^^^ b.toNat * 2 ^ 56)

/-- CRC-64/WE: polynomial 0x42F0_E1EB_A9EA_3693, initial value and final XOR of all ones. -/
def crc64 (bs : List Byte) : Nat := bs.foldl crc64Byte (2 ^ 64 - 1) ^^^ (2 ^ 64 - 1)

/-- The Internet checksum: the complement of the one's-complement sum of 16-bit big-endian words. -/
def inetSum : List Byte → Nat
  | [] => 0
  | [a] => a.toNat * 256
  | a :: b :: r => a.toNat * 256 + b.toNat + inetSum r

/-- The 16-bit one's-complement fold of a sum. -/
def foldSum (n : Nat) : Nat := if n = 0 then 0 else (n - 1) % 65535 + 1

def inetCsum (bs : List Byte) : Nat := 65535 - foldSum (inetSum bs)

/-! ## Building a frame (R155) -/

/-- What the headers of a packet say. Addresses are the 16-byte fields of the context, IPv4 as ::ffff:a.b.c.d. -/
structure NetHdr where
  dstMac : List Byte
  srcMac : List Byte
  /-- TCI of the tag, where one is sent. -/
  tag : Option Nat
  ipv6 : Bool
  srcIp : List Byte
  dstIp : List Byte
  dscp : Nat
  ecn : Nat
  hop : Nat
  sport : Nat
  dport : Nat
  csum4 : Bool
  deriving DecidableEq, Repr

def ip4 (a : List Byte) : List Byte := slice a 12 4

/-- The pseudo-header a UDP checksum covers. -/
def pseudo (ipv6 : Bool) (src dst : List Byte) (len : Nat) : List Byte :=
  if ipv6 then src ++ dst ++ beBytes 4 len ++ beBytes 4 17 else ip4 src ++ ip4 dst ++ beBytes 2 17 ++ beBytes 2 len

/-- A UDP checksum; a result of 0 is sent as all ones. -/
def udpCsum (ipv6 : Bool) (src dst udp : List Byte) : Nat :=
  let c := inetCsum (pseudo ipv6 src dst udp.length ++ udp)
  if c = 0 then 65535 else c

def udpBytes (h : NetHdr) (data : List Byte) : List Byte :=
  let len := 8 + data.length
  let head (c : Nat) : List Byte := beBytes 2 h.sport ++ beBytes 2 h.dport ++ beBytes 2 len ++ beBytes 2 c
  let c := if h.ipv6 || h.csum4 then udpCsum h.ipv6 h.srcIp h.dstIp (head 0 ++ data) else 0
  head c ++ data

def ipBytes (h : NetHdr) (udp : List Byte) : List Byte :=
  let tos := 4 * h.dscp + h.ecn
  if h.ipv6 then
    beBytes 4 (6 * 2 ^ 28 + tos * 2 ^ 20 + h.sport) ++ beBytes 2 udp.length ++ beBytes 1 17 ++ beBytes 1 h.hop ++
      slice h.srcIp 0 16 ++ slice h.dstIp 0 16 ++ udp
  else
    let head (c : Nat) : List Byte :=
      beBytes 1 0x45 ++ beBytes 1 tos ++ beBytes 2 (20 + udp.length) ++ beBytes 2 0 ++ beBytes 2 0x4000 ++
        beBytes 1 h.hop ++ beBytes 1 17 ++ beBytes 2 c ++ ip4 h.srcIp ++ ip4 h.dstIp
    head (inetCsum (head 0)) ++ udp

/-- The frame from destination MAC up to its FCS, which the MAC adds. -/
def frameBytes (h : NetHdr) (data : List Byte) : List Byte :=
  slice h.dstMac 0 6 ++ slice h.srcMac 0 6 ++ (match h.tag with | some t => beBytes 2 0x8100 ++ beBytes 2 t | none => []) ++
    beBytes 2 (if h.ipv6 then 0x86DD else 0x0800) ++ ipBytes h (udpBytes h data)

/-! ## Reading a frame (R361, R363, R364) -/

/-- A frame's tags (outer first), the EtherType after the last recognised one, and what follows it. -/
structure L2 where
  dst : List Byte
  src : List Byte
  tags : List Nat
  etype : Nat
  body : List Byte
  deriving DecidableEq, Repr

def be2 (bs : List Byte) (off : Nat) : Nat := beNat (slice bs off 2)

def readL2 (f : List Byte) : L2 :=
  let mk (tags : List Nat) (off : Nat) : L2 :=
    { dst := slice f 0 6, src := slice f 6 6, tags := tags, etype := be2 f off, body := f.drop (off + 2) }
  let outer := be2 f 12
  if outer = 0x88A8 ∨ outer = 0x8100 then
    if be2 f 16 = 0x8100 then mk [be2 f 14, be2 f 18] 20 else mk [be2 f 14] 16
  else mk [] 12

/-- A UDP packet in a frame. -/
structure UdpPkt where
  ipv6 : Bool
  srcIp : List Byte
  dstIp : List Byte
  ecn : Nat
  sport : Nat
  dport : Nat
  /-- The checksum is absent or right (R161). -/
  csumOk : Bool
  data : List Byte
  deriving DecidableEq, Repr

/-- The DSCP and ECN byte of an IP frame. -/
def tosOf (l : L2) : Option Nat :=
  if l.etype = 0x0800 then some (byteAt l.body 1)
  else if l.etype = 0x86DD then some (beNat (slice l.body 0 2) / 16 % 256)
  else none

def mapped (a : List Byte) : List Byte := List.replicate 10 0 ++ [0xFF, 0xFF] ++ a

/-- The UDP packet of an IPv4 or IPv6 frame. Padding past the UDP length is not part of it. -/
def readUdp (l : L2) : Option UdpPkt :=
  let mk (v6 : Bool) (src dst udp : List Byte) : UdpPkt :=
    let udp := udp.take (be2 udp 4)
    let c := be2 udp 6
    let sum := foldSum (inetSum (pseudo v6 src dst udp.length ++ udp))
    { ipv6 := v6, srcIp := src, dstIp := dst, ecn := ((tosOf l).getD 0) % 4, sport := be2 udp 0, dport := be2 udp 2,
      csumOk := c == 0 || sum == 65535, data := udp.drop 8 }
  if l.etype = 0x0800 ∧ byteAt l.body 9 = 17 then
    some (mk false (mapped (slice l.body 12 4)) (mapped (slice l.body 16 4)) (l.body.drop (4 * (byteAt l.body 0 % 16))))
  else if l.etype = 0x86DD ∧ byteAt l.body 6 = 17 then
    some (mk true (slice l.body 8 16) (slice l.body 24 16) (l.body.drop 40))
  else none

end Sys2Proof.Machine
end

