-- ==== Sys2Proof/Machine/QpBase.lean ====
section
/-! DEFINITION. The tables of queue pairs and of their operations, and what packets and operations wait for before a write is visible:
the acknowledgement of accelerator memory (R150), the read-back of a peer window (R338). -/

namespace Sys2Proof.Machine

def qpOf (s : State) (q : Nat) : Qp := tget {} s.sht.qp q
def setQp (q : Nat) (v : Qp) (s : State) : State := { s with sht := { s.sht with qp := tset {} s.sht.qp q v } }
def modQp (q : Nat) (f : Qp → Qp) (s : State) : State := setQp q (f (qpOf s q)) s

def qpPart (s : State) (q : Nat) : Nat := itemOwner s 1 q

/-- Operations queued or in flight at the serving engine for a QP. -/
def opsOf (s : State) (q : Nat) : List SendOp := s.sht.ops.filter fun o => o.qp == q

def setOp (o : SendOp) (s : State) : State :=
  { s with sht := { s.sht with ops := s.sht.ops.map fun x => if x.id = o.id then o else x } }
def findOp (s : State) (id : Nat) : Option SendOp := s.sht.ops.find? fun o => o.id == id

def dropOp (id : Nat) (s : State) : State := { s with sht := { s.sht with ops := s.sht.ops.filter fun o => o.id != id } }

/-- R135: a QP_MODIFY to DRAIN completes once every operation started before it has. -/
def checkDrain (q : Nat) (s : State) : State :=
  match (qpOf s q).drainWait with
  | some (r, ids) =>
    if (s.sht.ops.any fun o => ids.contains o.id) || !(qpOf s q).nvme.isEmpty then s
    else completeRef r .ok [] (objectUnit s q) (modQp q (fun v => { v with drainWait := none }) s)
  | none => s

/-! ## Writes that are not visible at once (R150, R338) -/

/-- A write's acknowledgement has come, or it has failed: the packet that waits for it no longer does. -/
def openWritten (w : Nat × Nat) (st : Status) (o : RxOpen) : RxOpen :=
  if o.waits.contains w then
    { o with waits := o.waits.filter (· != w), fault := if st = .ok then o.fault else some (o.fault.getD st) }
  else o

/-- The same for an operation, which a failed write fails (R144). -/
def opWritten (w : Nat × Nat) (st : Status) (o : SendOp) : SendOp :=
  if o.waits.contains w then
    { o with waits := o.waits.filter (· != w), closed := o.closed || st != .ok,
             failed := if st = .ok then o.failed else some (o.failed.getD st) }
  else o

/-- The same for a Reed operation, which completes after what it reports is visible (R339). -/
def redWritten (w : Nat × Nat) (st : Status) (o : RedOp) : RedOp :=
  if o.waits.contains w then
    { o with waits := o.waits.filter (· != w), fault := if st = .ok then o.fault else some (o.fault.getD st) }
  else o

/-- A device's write ends with a status: on accelerator port `k` by its tag, or the read-back on CXL port `k - 8` by its number. -/
def writeEnded (w : Nat × Nat) (st : Status) (s : State) : State :=
  let qp (e : Nat × Qp) : Nat × Qp := (e.1, { e.2 with opened := e.2.opened.map (openWritten w st) })
  let comm (e : Nat × Comm) : Nat × Comm := (e.1, { e.2 with ops := e.2.ops.map (redWritten w st) })
  { s with sht := { s.sht with qp := s.sht.qp.map qp, ops := s.sht.ops.map (opWritten w st) }
           red := { s.red with comm := s.red.comm.map comm } }

/-- Operations that wait for a write. -/
def opsAwaiting (s : State) (w : Nat × Nat) : List SendOp := s.sht.ops.filter fun o => o.waits.contains w

/-- Communicator slot and `OPSEQ` of the Reed operations that wait for a write. -/
def redAwaiting (s : State) (w : Nat × Nat) : List (Nat × BitVec 32) :=
  s.red.comm.flatMap fun e => (e.2.ops.filter fun o => o.waits.contains w).map fun o => (e.1, o.opseq)

/-- The device's writes and read-backs that are not answered: port and tag or number. -/
def writesOut (s : State) : List (Nat × Nat) :=
  ((List.range 8).flatMap fun k =>
    ((tget ({} : APort) s.lnk.aport k).devReqs.filter fun d => d.typ == 2 && d.fromPort.isNone && !d.timedOut).map fun d => (k, d.tag)) ++
    (s.lnk.cxlReqs.filter (·.readBack)).map fun r => (8 + r.port, r.id)

/-- Those that a step has sent. -/
def newWrites (before after : State) : List (Nat × Nat) := (writesOut after).filter fun w => !(writesOut before).contains w

end Sys2Proof.Machine
end

