-- ==== Sys2Proof/Machine/Ethernet.lean ====
section
/-! DEFINITION. Ethernet ports: receive (R363 to R368), the transmit scheduler (R369 to R374), counters (R375, R376), port
time (R377), low power (R379, R380), and the management MAC (R381, R382). -/

namespace Sys2Proof.Machine

def ethp (s : State) (k : Nat) : EthPort := tget {} s.eth.port k
def setEthp (k : Nat) (p : EthPort) (s : State) : State := { s with eth := { s.eth with port := tset {} s.eth.port k p } }
def modEthp (k : Nat) (f : EthPort → EthPort) (s : State) : State := setEthp k (f (ethp s k)) s

def ethSub (s : State) (k i : Nat) : EthSub := tget {} (ethp s k).sub i
def setSub (k i : Nat) (u : EthSub) (s : State) : State := modEthp k (fun p => { p with sub := tset {} p.sub i u }) s

def ethGroup (s : State) (k g : Nat) : EthGroup := tget {} (ethp s k).group g
def setGroup (k g : Nat) (v : EthGroup) (s : State) : State := modEthp k (fun p => { p with group := tset {} p.group g v }) s
def ethQueue (s : State) (k q : Nat) : EthQueue := tget {} (ethp s k).txq q
def setQueue (k q : Nat) (v : EthQueue) (s : State) : State := modEthp k (fun p => { p with txq := tset {} p.txq q v }) s
def ethRxq (s : State) (k q : Nat) : EthRxq := tget {} (ethp s k).rxq q
def setRxq (k q : Nat) (v : EthRxq) (s : State) : State := modEthp k (fun p => { p with rxq := tset {} p.rxq q v }) s

/-- Sub-ports of a mode, and the rate of one in Mb/s (R358). -/
def portMode (p : EthPort) : Nat := bits p.cfg.toNat 0 2
def subPorts (p : EthPort) : Nat := 2 ^ portMode p
def lineRate (s : State) (k : Nat) : Nat := 1600000 / subPorts (ethp s k)
def maxFrame (p : EthPort) : Nat := bits p.cfg.toNat 24 14

/-- A sticky bit of `ETH.ERR`. -/
def ethErr (i : Nat) (s : State) : State := { s with eth := { s.eth with err := s.eth.err ||| BitVec.ofNat 6 (2 ^ i) } }

/-! ## Counters (R375, R376) -/

def cntWidth (i : Nat) : Nat := if i = 0 ∨ i = 10 ∨ i = 14 then 48 else 40

/-- The BAR0 offset of a statistics counter. -/
def cntOffset (k sub i : Nat) : Nat := 0x720000 + 0x18000 * k + 0x2800 + 0x100 * sub + 8 * i

/-- A counter goes up by `n`: its top bit raises an event once, and it holds at all-ones. -/
def ethCount (k sub i n : Nat) (s : State) : State :=
  if n = 0 then s
  else
    let u := ethSub s k sub
    let w := cntWidth i
    let old := tget 0 u.cnt i
    let full := 2 ^ w - 1
    let new := min full (old + n)
    let s := setSub k sub { u with cnt := tset 0 u.cnt i new } s
    let s := if old + n > full then ethErr 4 s else s
    if old < 2 ^ (w - 1) ∧ 2 ^ (w - 1) ≤ new then
      report (.event 0 0x07 .ok (ethPort k) 0 (cntOffset k sub i)) (ethErr 3 s)
    else s

/-- Writing 1 to a counter's top bit subtracts it from the count. -/
def clearTop (k sub i : Nat) (s : State) : State :=
  let u := ethSub s k sub
  let top := 2 ^ (cntWidth i - 1)
  let old := tget 0 u.cnt i
  setSub k sub { u with cnt := tset 0 u.cnt i (if top ≤ old then old - top else old) } s

/-! ## Buckets (R366, R371) -/

/-- Refills both buckets up to port time `t`; rates in Mb/s, so that a rate adds rate / 8 000 bytes per ns. -/
def refill (cir pir : Nat) (t : Word64) (b : Buckets) : Buckets :=
  let dt := (t - b.last).toNat
  { usedC := b.usedC - cir * dt / 8000, usedP := b.usedP - pir * dt / 8000, last := t }

/-- A bucket of `size` bytes holds at least `n` bytes. -/
def holds (size used n : Nat) : Bool := decide (used + n * 65536 ≤ size * 65536)

structure Shape where
  cir : Nat
  pir : Nat
  pirEn : Bool
  burst : Nat
  deriving DecidableEq, Repr

def shapeOf (w8 : Word64) : Shape where
  cir := bits w8.toNat 0 21
  pir := bits w8.toNat 21 21
  pirEn := bit w8.toNat 42
  burst := 1024 * bits w8.toNat 43 20

def peakAllowed (h : Shape) (t : Word64) (b : Buckets) : Bool :=
  !h.pirEn || holds h.burst (refill h.cir h.pir t b).usedP 0

def committedEligible (h : Shape) (t : Word64) (b : Buckets) : Bool :=
  peakAllowed h t b && h.cir != 0 && holds h.burst (refill h.cir h.pir t b).usedC 0

/-- Debits a packet from both buckets. -/
def debit (h : Shape) (t : Word64) (wire : Nat) (b : Buckets) : Buckets :=
  let b := refill h.cir h.pir t b
  { b with usedC := b.usedC + wire * 65536, usedP := b.usedP + wire * 65536 }

/-! ## The transmit tree (R369, R372) -/

def groupOn (g : EthGroup) : Bool := bit g.w0.toNat 0
def groupSub (g : EthGroup) : Nat := bits g.w0.toNat 1 3
def groupPart (g : EthGroup) : Nat := bits g.w0.toNat 4 6
def groupWeight (g : EthGroup) : Nat := bits g.w0.toNat 10 8
def queueOn (q : EthQueue) : Bool := bit q.w0.toNat 0
def queueGroup (q : EthQueue) : Nat := bits q.w0.toNat 1 8
def queueWeight (q : EthQueue) : Nat := bits q.w0.toNat 9 8
def startLog2 (q : EthQueue) : Nat := bits q.w0.toNat 17 4

/-- Wire bytes of a packet: the frame with its FCS, and 20 bytes of preamble and gap. -/
def wireBytes (p : TxPacket) : Nat := p.frame.length + 24

/-- Queues of a group that hold a packet, by number. -/
def readyQueues (p : EthPort) (g : Nat) : List (Nat × EthQueue) :=
  p.txq.filter fun e => queueOn e.2 && queueGroup e.2 == g && !e.2.pkts.isEmpty

/-- The queues a group may serve at port time. -/
def servable (p : EthPort) (g : Nat) : List (Nat × EthQueue) :=
  (readyQueues p g).filter fun e => peakAllowed (shapeOf e.2.w8) p.ptime e.2.b

/-- A group's readiness is brought up to date: one that becomes ready takes its root's virtual time. -/
def refreshGroup (p : EthPort) (e : Nat × EthGroup) : Nat × EthGroup :=
  let now := groupOn e.2 && !(servable p e.1).isEmpty
  let v := (tget ({} : EthSub) p.sub (groupSub e.2)).v
  (e.1, if now ∧ !e.2.ready then { e.2 with ready := true, f := if e.2.f < v then v else e.2.f } else { e.2 with ready := now })

/-- A group with packets has an entry, so that its readiness can be held. -/
def refreshGroups (p : EthPort) : EthPort :=
  { p with group := (p.group.map (refreshGroup p)).filter fun e => decide (e.2 ≠ {}) }

/-- The child with the smallest finish tag, ties to the lowest number; children come in rising order. -/
def pickChild {α : Type} (f : α → Word64) : List (Nat × α) → Option (Nat × α)
  | [] => none
  | e :: r =>
    match pickChild f r with
    | some b => if f b.2 < f e.2 then some b else some e
    | none => some e

/-- The committed tier, or else the excess tier. -/
def tier {α : Type} (shape : α → Shape) (b : α → Buckets) (t : Word64) (cs : List (Nat × α)) : List (Nat × α) :=
  let c := cs.filter fun e => committedEligible (shape e.2) t (b e.2)
  if c.isEmpty then cs.filter fun e => peakAllowed (shape e.2) t (b e.2) else c

/-- A finish tag after a packet. -/
def nextTag (v f : Word64) (wire weight : Nat) : Word64 :=
  (if f < v then v else f) + BitVec.ofNat 64 (wire * 65536 / max 1 weight)

/-- The least tag of the children still ready, or the served child's. -/
def minTag (ts : List Word64) (f : Word64) : Word64 :=
  match ts with
  | [] => f
  | t :: r => r.foldl (fun m x => if x < m then x else m) t

/-- `serve` of a group: its next packet leaves its queue. -/
def serveGroup (p : EthPort) (g : Nat) : Option (Nat × TxPacket × EthPort) :=
  let gr := tget ({} : EthGroup) p.group g
  match pickChild EthQueue.f (tier (fun q => shapeOf q.w8) EthQueue.b p.ptime (readyQueues p g)) with
  | none => none
  | some (n, q) =>
    match q.pkts with
    | [] => none
    | pkt :: rest =>
      let f := nextTag gr.v q.f (wireBytes pkt) (queueWeight q)
      let q := { q with pkts := rest, f := f, b := debit (shapeOf q.w8) p.ptime (wireBytes pkt) q.b }
      let p := { p with txq := tset {} p.txq n q }
      let v := minTag ((readyQueues p g).map fun e => e.2.f) f
      some (n, pkt, { p with group := tset {} p.group g { gr with v := v } })

/-- `serve` of a root. -/
def serveRoot (p : EthPort) (i : Nat) : Option (Nat × TxPacket × EthPort) :=
  let p := refreshGroups p
  let u := tget ({} : EthSub) p.sub i
  let ready (p : EthPort) : List (Nat × EthGroup) := p.group.filter fun e => groupSub e.2 == i && e.2.ready
  match pickChild EthGroup.f (tier (fun g => shapeOf g.w8) EthGroup.b p.ptime (ready p)) with
  | none => none
  | some (g, gr) =>
    match serveGroup p g with
    | none => none
    | some (n, pkt, p) =>
      let f := nextTag u.v gr.f (wireBytes pkt) (groupWeight gr)
      let gr := tget ({} : EthGroup) p.group g
      let gr := { gr with f := f, b := debit (shapeOf gr.w8) p.ptime (wireBytes pkt) gr.b }
      let p := refreshGroups { p with group := tset {} p.group g gr }
      let v := minTag ((ready p).map fun e => e.2.f) f
      some (n, pkt, { p with sub := tset {} p.sub i { u with v := v } })

/-- A queue has room for a packet (R370). -/
def queueRoom (s : State) (k q : Nat) : Bool := decide ((ethQueue s k q).pkts.length < 32)

/-- A packet enters a queue; a queue that becomes ready takes its group's virtual time. -/
def enqueue (k n : Nat) (pkt : TxPacket) (s : State) : State :=
  let q := ethQueue s k n
  let v := (ethGroup s k (queueGroup q)).v
  let f := if q.pkts = [] ∧ q.f < v then v else q.f
  modEthp k refreshGroups (setQueue k n { q with pkts := q.pkts ++ [pkt], f := f } s)

/-- An entry of `TXMAP[p]`: the base queue of a sub-port, where it is valid. -/
def txmapEntry (p : EthPort) (part i : Nat) : Option Nat :=
  let w := (tget 0 p.txmap (2 * part + i / 4)).toNat
  let e := bits w (13 * (i % 4)) 13
  if bit e 12 then some (e % 4096) else none

def txmapLog2 (p : EthPort) (part : Nat) : Nat := bits (tget 0 p.txmap (2 * part + 1)).toNat 52 2

/-- Sub-port `i` of port `k` is assigned to a partition (R369). -/
def subAssigned (s : State) (k i part : Nat) : Bool := (txmapEntry (ethp s k) part i).isSome

/-- The queue a packet of a partition enters, by sub-port and DSCP (R369). -/
def txQueueFor (s : State) (k i part dscp : Nat) : Option Nat :=
  (txmapEntry (ethp s k) part i).map fun b => (b + dscp / 2 ^ (6 - txmapLog2 (ethp s k) part)) % 4096

/-- A packet whose `TXMAP` entry is not valid is discarded (R369). -/
def txqMiss (k i : Nat) (s : State) : State := ethCount k i 16 1 (ethErr 2 s)

/-! ## Sending -/

def sendsOn (s : State) (k i : Nat) : Bool :=
  (ethSub s k i).link == .up && (ethp s k).power == .active && (ethSub s k i).tx.isNone && inService s (ethPort k)

/-- An underrun doubles the queue's start threshold, to 2^14 at most (R373). -/
def doubleStart (q : EthQueue) : EthQueue :=
  let n := startLog2 q
  if n < 14 then { q with w0 := q.w0 + BitVec.ofNat 64 (2 ^ 17) } else q

/-- TX_FRAME_START: the root chooses a packet, and the frame starts once enough of it is buffered. `buffered` bytes are
there at the start and `supplied` when the MAC needs them. -/
def frameStart (k i buffered supplied : Nat) (s : State) : State :=
  if !sendsOn s k i then s
  else
    match serveRoot (ethp s k) i with
    | none => s
    | some (n, pkt, p) =>
      let len := pkt.frame.length + 4
      let need := min (2 ^ startLog2 (tget {} p.txq n)) len
      if !pkt.whole && decide (buffered < need) then s
      else
        let cut := !pkt.whole && decide (supplied < len)
        let s := setEthp k p s
        let s := if cut then setQueue k n (doubleStart (ethQueue s k n)) (ethErr 0 (ethCount k i 12 1 s)) else s
        let sent := pkt.frame.take supplied
        let frame := if cut then sent ++ (fcsOf sent).map (fun b => b ^^^ 0xFF) else pkt.frame ++ fcsOf pkt.frame
        emit (.frame k i frame cut)
          (setSub k i { ethSub s k i with tx := some { pkt := pkt, start := p.ptime, cut := cut } } s)

def execTxFrameStart (port sub buffered supplied : Nat) (s : State) : Host.Outcome State Fault Refusal :=
  ends s (frameStart port sub buffered supplied s)

/-- The result words of an `ETH_SEND` (R374). -/
def sendResult (f : TxFrame) : List Nat :=
  let t := if f.pkt.tstamp then f.start.toNat else 0
  [bits t 0 32, bits t 32 32]

/-- A UD_SEND whose QP has already completed it with ABORTED does not complete again. -/
def stillOwed (s : State) (r : CmdRef) (pkt : TxPacket) : Bool :=
  !pkt.ud || s.sht.ops.any fun o => o.cmd == some r

/-- A packet's command ends with a status. -/
def endPacket (pkt : TxPacket) (st : Status) (res : List Nat) (s : State) : State :=
  match pkt.cmd with
  | none => s
  | some r =>
    if !stillOwed s r pkt then s
    else
      let s := completeRef r st res pkt.unit { s with sht := { s.sht with ops := s.sht.ops.filter fun o => o.cmd != some r } }
      match pkt.qp with
      | some q => checkDrain q s
      | none => s

/-- TX_FRAME_END: the last bit has left. -/
def frameEnd (k i : Nat) (s : State) : State :=
  let u := ethSub s k i
  match u.tx with
  | none => s
  | some f =>
    let s := setSub k i { u with tx := none } s
    let s := if f.cut then s else ethCount k i 11 1 (ethCount k i 10 (f.pkt.frame.length + 4) s)
    endPacket f.pkt .ok (if f.pkt.ud then [] else sendResult f) s

def execTxFrameEnd (port sub : Nat) (s : State) : Host.Outcome State Fault Refusal := ends s (frameEnd port sub s)

/-! ## ETH_SEND (R374) -/

def descEthSend : OpDesc :=
  { code := 0x0710, bytes := 16, data := true, inlineOk := true, infra := true,
    used := [(16, 0, 3), (18, 0, 12), (20, 0, 1), (22, 0, 16), (24, 0, 64)] }

/-- The bytes of a command's inline payload (R100). -/
def inlineBytes (c : Cmd) : List Byte := slice (c.packet.drop 64) 0 (cmdLength c)

def isInline (c : Cmd) : Bool := bit (cmdFlags c) 2

/-- An earlier ETH_SEND to the same transmit queue waits (R120). -/
def ethHeld (c : Cmd) (s : State) : Bool :=
  (heldBefore c s).any fun x => fieldLE x.packet 0 2 == 0x0710 && param x 16 1 0 3 == param c 16 1 0 3 &&
    param x 18 2 0 12 == param c 18 2 0 12

def execEthSend (c : Cmd) (s : State) : Host.Outcome State Fault Refusal :=
  let k := param c 16 1 0 3
  let n := param c 18 2 0 12
  let q := ethQueue s k n
  let g := ethGroup s k (queueGroup q)
  let unit := ethPort k
  runCmd descEthSend c
    [(decide (cmdLength c < 60) || decide (cmdLength c + 4 > maxFrame (ethp s k)), .lenRange),
     (!queueOn q || groupPart g != 0, .denied),
     ((ethSub s k (groupSub g)).link != .up, .busy)] s fun s =>
      if !queueRoom s k n || ethHeld c s then holdCmd c s
      else
        let s := unholdCmd c s
        let (s, st, bs) :=
          if isInline c then (s, .ok, inlineBytes c)
          else bufRead unit c.part (param c 22 2 0 16) (fieldLE c.packet 24 8) (cmdLength c) c.ext s
        if st = .ok then
          enqueue k n { frame := bs, cmd := some (cmdRef c), tstamp := param c 20 1 0 1 == 1, whole := true,
                        unit := unit } s
        else complete c st [] unit s

/-! ## Links (R359, R362) -/

/-- Packets waiting in the queues of a sub-port's groups. -/
def waitingOn (p : EthPort) (i : Nat) : List TxPacket :=
  (p.txq.filter fun e => groupSub (tget ({} : EthGroup) p.group (queueGroup e.2)) == i).flatMap fun e => e.2.pkts

/-- R362: a sub-port that leaves UP discards the packets waiting in its groups. -/
def flushSub (k i : Nat) (s : State) : State :=
  let p := ethp s k
  let gone := waitingOn p i
  let clear (e : Nat × EthQueue) : Nat × EthQueue :=
    if groupSub (tget ({} : EthGroup) p.group (queueGroup e.2)) = i then (e.1, { e.2 with pkts := [] }) else e
  let s := setEthp k (refreshGroups { p with txq := (p.txq.map clear).filter fun e => decide (e.2 ≠ {}) }) s
  let s := ethCount k i 13 gone.length s
  let s := if gone = [] then s else ethErr 1 s
  gone.foldl (fun s pkt => endPacket pkt .aborted [] s) s

/-- A sub-port takes a link state; one that leaves UP is flushed, and the frame on the wire is lost. -/
def setLink (k i : Nat) (l : EthLink) (s : State) : State :=
  let u := ethSub s k i
  let s := setSub k i { u with link := l } s
  if u.link = .up ∧ l ≠ .up then
    let s := match u.tx with
      | some f => endPacket f.pkt .aborted [] (setSub k i { ethSub s k i with tx := none } s)
      | none => s
    flushSub k i s
  else s

def subEnabled (s : State) (k i : Nat) : Bool := (ethp s k).enable.getLsbD i && decide (i < subPorts (ethp s k))

/-- SUBPORT_LINK_UP: training ends. The first sub-port up after a wake posts the port's POWER event (R380). -/
def linkUp (k i : Nat) (s : State) : State :=
  let p := ethp s k
  let u := ethSub s k i
  let trains := u.link == .training || u.link == .down
  if !trains || !subEnabled s k i || p.power == .entering || p.power == .low then s
  else
    let s := setSub k i { u with link := .up, eq := true } s
    if p.woken then s
    else
      report (.event 0 0x09 .ok (ethPort k) 0 (powerInfo s)) (modEthp k (fun p => { p with woken := true, power := .active }) s)

def execSubportLinkUp (port sub : Nat) (s : State) : Host.Outcome State Fault Refusal := ends s (linkUp port sub s)

/-- SUBPORT_LINK_DOWN: a sub-port leaves UP. -/
def linkDown (k i : Nat) (s : State) : State :=
  if (ethSub s k i).link = .up then setLink k i .down s else s

def execSubportLinkDown (port sub : Nat) (s : State) : Host.Outcome State Fault Refusal := ends s (linkDown port sub s)

/-- Every sub-port of a port is DISABLED. -/
def subsDisabled (s : State) (k : Nat) : Bool := (List.range 8).all fun i => (ethSub s k i).link == .disabled

/-- A port's domain goes OFF under policy 2 when every sub-port is DISABLED (R417). DEDUCED: at the write that brings this about,
since the time of `POLICY` 1 and 2 does not apply to it. -/
def portOff (k : Nat) (s : State) : State :=
  let d := domain s (64 + k)
  if d.state = .on ∧ d.policy = 2 ∧ subsDisabled s k then leaveOn (64 + k) true s else s

/-- A write of `PORT_CTL.ENABLE`: sub-ports start training or are disabled. -/
def setEnables (k : Nat) (v : BitVec 8) (s : State) : State :=
  let p := ethp s k
  let s := modEthp k (fun p => { p with enable := v }) s
  portOff k ((List.range 8).foldl (fun s i =>
    if i < subPorts p ∧ v.getLsbD i ∧ !p.enable.getLsbD i then
      setLink k i (if p.power = .active ∨ p.power = .waking then .training else .down) s
    else if !v.getLsbD i ∧ p.enable.getLsbD i then setLink k i .disabled s
    else s) s)

/-! ## Low power and wake (R379, R380) -/

/-- Setting `LOW_POWER`: every queue is flushed, every sub-port goes down, and the domain leaves ON. -/
def enterLowPower (k : Nat) (s : State) : State :=
  let p := ethp s k
  if p.lowPower then s
  else
    let s := modEthp k (fun p => { p with lowPower := true, power := .entering }) s
    let s := (List.range 8).foldl (fun s i =>
      flushSub k i (if (ethSub s k i).link = .disabled then s else setLink k i .down s)) s
    if (domain s (64 + k)).state = .on then leaveOn (64 + k) false s else s

/-- Clearing `LOW_POWER`, by a write or by a wake frame, wakes the port once. -/
def wakePort (k : Nat) (s : State) : State :=
  if !(ethp s k).lowPower then s
  else wakeDomain (64 + k) (modEthp k (fun p => { p with lowPower := false, power := .waking, woken := false }) s)

/-- Sixteen repetitions of an address after six bytes of 0xFF. -/
def magicOf (mac : List Byte) : List Byte := List.replicate 6 0xFF ++ (List.replicate 16 mac).flatten

def hasInfix (pat : List Byte) : List Byte → Bool
  | [] => pat.isEmpty
  | b :: r => pat.isPrefixOf (b :: r) || hasInfix pat r

def broadcastMac : List Byte := List.replicate 6 0xFF
def subMac (s : State) (k i : Nat) : List Byte := leBytes 6 (ethSub s k i).mac.toNat

/-- A frame wakes the port (R380). -/
def wakes (s : State) (k : Nat) (frame : List Byte) : Bool :=
  let p := ethp s k
  let mac := subMac s k 0
  let dst := slice frame 0 6
  (p.wakeCfg.getLsbD 0 && (dst == mac || dst == broadcastMac) && hasInfix (magicOf mac) (frame.drop 14)) ||
    (p.wakeCfg.getLsbD 1 && (List.range 128).all fun j =>
      !p.wakeMask.getLsbD j || byteAt frame j == bits p.wakePat.toNat (8 * j) 8)

/-! ## Receive (R363 to R368) -/

/-- How a rule or the default disposes of a frame. -/
structure RxAction where
  dest : Nat
  rxq : Nat
  policer : Option Nat
  rule : Nat
  isDefault : Bool
  deriving DecidableEq, Repr

def dscpOf (l : L2) : Option Nat := (tosOf l).map (· / 4)

/-- A valid rule matches a frame (R364). -/
def ruleMatches (r : EthRule) (l : L2) : Bool :=
  let w := r.w0.toNat
  let tags := bits w 1 2
  let tag := if bit w 4 then l.tags[1]? else l.tags[0]?
  bit w 0 && (tags == 0 || (tags == 1 && l.tags.isEmpty) || (tags == 2 && !l.tags.isEmpty)) &&
    (!bit w 3 || tag.map (· % 4096) == some (bits w 5 12)) &&
    (!bit w 17 || l.etype == bits w 18 16) && (!bit w 34 || dscpOf l == some (bits w 35 6))

def actionOf (dest rxq : Nat) (police : Bool) (policer rule : Nat) (isDefault : Bool) : RxAction :=
  { dest := dest, rxq := rxq, policer := if police then some policer else none, rule := rule, isDefault := isDefault }

/-- Step 6: the first valid rule that matches, or the default. -/
def classify (p : EthPort) (l : L2) : RxAction :=
  match p.rule.find? fun e => ruleMatches e.2 l with
  | some (n, r) =>
    let w := r.w8.toNat
    actionOf (bits w 0 2) (bits w 2 6) (bit w 8) (bits w 9 10) n false
  | none =>
    let w := p.cfg.toNat
    actionOf (bits w 4 2) (bits w 6 6) (bit w 12) (bits w 13 10) 0 true

inductive Colour where
  | green | yellow | red
  deriving DecidableEq, Repr

def colourCode : Colour → Nat
  | .green => 0 | .yellow => 1 | .red => 2

/-- A frame's pre-colour (R365). -/
def preColour (p : EthPort) (l : L2) : Colour :=
  match dscpOf l with
  | some d =>
    match bits p.colour.toNat (2 * d) 2 with
    | 0 => .green
    | 1 => .yellow
    | _ => .red
  | none => if bit ((l.tags[0]?).getD 0) 12 then .yellow else .green

def polCbs (c : EthPolicer) : Nat := bits c.w0.toNat 21 24
def polPbs (c : EthPolicer) : Nat := bits c.w8.toNat 21 24

/-- The two-rate three-colour meter (R366). -/
def police (p : EthPort) (c : EthPolicer) (l : L2) (n : Nat) : Colour × EthPolicer :=
  let b := refill (bits c.w0.toNat 0 21) (bits c.w8.toNat 0 21) p.ptime c.b
  let pre := if bit c.w0.toNat 45 then preColour p l else .green
  if pre = .red || !holds (polPbs c) b.usedP n then (.red, { c with b := b })
  else if pre = .yellow || !holds (polCbs c) b.usedC n then
    (.yellow, { c with b := { b with usedP := b.usedP + n * 65536 } })
  else (.green, { c with b := { b with usedP := b.usedP + n * 65536, usedC := b.usedC + n * 65536 } })

/-- Step 7: the colour of a frame whose action names a policer, and whether the policer drops it. -/
def policeFrame (k : Nat) (a : RxAction) (l : L2) (n : Nat) (s : State) : State × Nat × Bool :=
  match a.policer with
  | none => (s, 0, false)
  | some i =>
    let p := ethp s k
    let (col, c) := police p (tget {} p.policer i) l n
    (setEthp k { p with policer := tset {} p.policer i c } s, colourCode col,
     col == .red || (col == .yellow && bit c.w0.toNat 46))

def rxqOn (q : EthRxq) : Bool := bit q.cfg.toNat 24
def rxqLog2 (q : EthRxq) : Nat := bits q.cfg.toNat 16 4
def slotLog2 (q : EthRxq) : Nat := bits q.cfg.toNat 20 4

/-- The header of a receive slot (R367). -/
def slotHeader (a : RxAction) (colour i len : Nat) (phase : Bool) (t : Nat) : List Byte :=
  leBytes 2 len ++ leBytes 1 a.rule ++ leBytes 1 (b2n a.isDefault + 2 * colour + 8 * i + 128 * b2n phase) ++
    leBytes 4 0 ++ leBytes 8 t

/-- R367: a frame is written to its receive queue, or dropped. -/
def toRxq (k i : Nat) (a : RxAction) (colour : Nat) (frame : List Byte) (s : State) : State :=
  let q := ethRxq s k a.rxq
  let drop (s : State) : State := ethCount k i 9 1 s
  let size := 2 ^ rxqLog2 q
  if !rxqOn q || (q.tail - q.head).toNat == size || decide (frame.length + 16 > 2 ^ slotLog2 q) then drop s
  else
    let t := q.tail.toNat
    let pa := q.ringPa.toNat + t % size * 2 ^ slotLog2 q
    let bs := slotHeader a colour i frame.length (t / size % 2 == 0) (ethp s k).ptime.toNat ++ frame
    match bufWrite (ethPort k) 0 (bits q.cfg.toNat 0 16) pa bs s with
    | (s, .ok) =>
      let s := setRxq k a.rxq { ethRxq s k a.rxq with tail := q.tail + 1, arm := false } s
      if q.arm then sendVector 0 (bits q.cfg.toNat 25 11) s else s
    | (s, _) => drop s

/-- A frame goes to the Shuttle path (step 8): it waits there for its receive step. -/
def toShuttle (k : Nat) (frame : List Byte) (s : State) : State :=
  worked (ethPort k) 1 (bump (ethPort k) 2 1 { s with sht := { s.sht with inbox := s.sht.inbox ++ [(k, frame)] } })

/-- The UDP ports the transport takes. -/
def isTransport (s : State) (l : L2) : Bool :=
  match readUdp l with
  | some u => u.dport == s.sht.udpPort.toNat || u.dport == 4791
  | none => false

/-- Steps 6 to 8 of R363. -/
def disposeFrame (k i : Nat) (frame : List Byte) (s : State) : State :=
  let l := readL2 frame
  let a := classify (ethp s k) l
  let (s, colour, drop) := policeFrame k a l (frame.length + 4) s
  if drop then ethCount k i 6 1 s
  else if a.dest = 0 then
    if isTransport s l then toShuttle k frame s else ethCount k i 8 1 s
  else if a.dest = 1 then toRxq k i a colour frame s
  else ethCount k i 7 1 s

/-- Step 4: the destination address is taken. -/
def addressOk (s : State) (k i : Nat) (dst : List Byte) : Bool :=
  let w := (ethp s k).cfg.toNat
  dst == subMac s k i || dst == broadcastMac || (byteAt dst 0 % 2 == 1 && bit w 3) || bit w 2

/-- ETH_FRAME_RECEIVE (R363): `wire` ends in the FCS, `corr` codewords were corrected and `uncorr` could not be. -/
def frameReceive (k i : Nat) (wire : List Byte) (corr uncorr : Nat) (s : State) : State :=
  let frame := wire.take (wire.length - 4)
  let good := uncorr == 0 && wire.drop (wire.length - 4) == fcsOf frame
  let p := ethp s k
  if p.power = .low then if good && wakes s k frame then wakePort k (ethErr 5 s) else s
  else if (ethSub s k i).link ≠ .up ∨ p.power = .entering ∨ !inService s (ethPort k) then s
  else
    let s := ethCount k i 15 uncorr (ethCount k i 14 corr s)
    if !good then ethCount k i 2 1 s
    else if wire.length < 64 ∨ wire.length > maxFrame p then ethCount k i 3 1 s
    else
      let s := ethCount k i 1 1 (ethCount k i 0 wire.length s)
      if !addressOk s k i (slice frame 0 6) then ethCount k i 4 1 s
      else if (readL2 frame).etype = 0x8808 then ethCount k i 5 1 s
      else disposeFrame k i frame s

def execEthFrameReceive (port sub : Nat) (wire : List Byte) (corr uncorr : Nat) (s : State) :
    Host.Outcome State Fault Refusal :=
  ends s (frameReceive port sub wire corr uncorr s)

/-! ## The management MAC (R381, R382) -/

/-- MGMT_FRAME_RECEIVE: a good frame of 64 to 1 522 bytes waits for frame firmware. -/
def mgmtReceive (wire : List Byte) (s : State) : State :=
  let frame := wire.take (wire.length - 4)
  if s.eth.mgmtEnable && decide (64 ≤ wire.length) && decide (wire.length ≤ 1522) &&
      wire.drop (wire.length - 4) == fcsOf frame then
    { s with eth := { s.eth with mgmtRx := s.eth.mgmtRx ++ [frame] } }
  else s

def execMgmtFrameReceive (wire : List Byte) (s : State) : Host.Outcome State Fault Refusal := ends s (mgmtReceive wire s)

/-- Half duplex: by the auto-negotiation word, or by the register (R381). -/
def mgmtHalf (s : State) : Bool := if s.eth.sgmiiAn then !s.eth.anDuplex else !s.eth.duplex

/-- One bit time of the management MAC, in nanoseconds (R382). -/
def mgmtBitNs (s : State) : Nat := 10 ^ (2 - (if s.eth.sgmiiAn then s.eth.anSpeed else s.eth.speed).toNat)

/-- One step of the LFSR of R175. -/
def lfsrNext (x : BitVec 32) : BitVec 32 :=
  let b := x.getLsbD 31 ^^ x.getLsbD 21 ^^ x.getLsbD 1 ^^ x.getLsbD 0
  x <<< 1 ||| BitVec.ofNat 32 (b2n b)

/-- MGMT_COLLISION: the frame firmware was sending collides at a bit of the frame. A late collision aborts it, the
sixteenth attempt discards it, and any other jams and backs off. -/
def mgmtCollision (frame : List Byte) (atBit : Nat) (s : State) : State :=
  if !s.eth.mgmtEnable || !mgmtHalf s then s
  else
    let n := match s.eth.mgmtTx with
      | some t => if t.frame = frame then t.collisions + 1 else 1
      | none => 1
    if atBit ≥ 512 then { s with eth := { s.eth with mgmtTx := none, lateCol := satInc s.eth.lateCol } }
    else if n ≥ 16 then { s with eth := { s.eth with mgmtTx := none, excessCol := satInc s.eth.excessCol } }
    else
      let x := lfsrNext s.eth.mgmtLfsr
      let r := x.toNat % 2 ^ min n 10
      let t : MgmtTx := { frame := frame, collisions := n, wait := r * 512, since := dieTime s 38 }
      { s with eth := { s.eth with mgmtLfsr := x, mgmtTx := some t } }

def execMgmtCollision (frame : List Byte) (atBit : Nat) (s : State) : Host.Outcome State Fault Refusal :=
  ends s (mgmtCollision frame atBit s)

/-- MGMT_BACKOFF_EXPIRY: once its bit times have passed, the frame is sent again; it stays at hand until it has left
or collides once more. -/
def mgmtRetry (s : State) : State :=
  match s.eth.mgmtTx with
  | some t =>
    if since s 38 t.since < t.wait * mgmtBitNs s then s
    else
    emit (.mgmtFrame (t.frame ++ fcsOf t.frame)) { s with eth := { s.eth with mgmtTx := some { t with wait := 0 } } }
  | none => s

def execMgmtBackoffExpiry (s : State) : Host.Outcome State Fault Refusal := ends s (mgmtRetry s)

/-- SGMII_AUTO_NEGOTIATION: the PHY's word, with speed in bits [11:10] and full duplex in bit 12. -/
def execSgmiiAutoNegotiation (word : Nat) (s : State) : Host.Outcome State Fault Refusal :=
  ends s { s with eth := { s.eth with anSpeed := BitVec.ofNat 2 (bits word 10 2), anDuplex := bit word 12 } }

end Sys2Proof.Machine
end

