-- ==== Sys2Proof/Machine/Tch.lean ====
section
/-! DEFINITION. The Tchiolmeo link towards an accelerator: flits (R344 to R346), credits (R347), transaction headers (R348),
the device's own requests and their responses (R351, R354). -/

namespace Sys2Proof.Machine

def aport (s : State) (k : Nat) : APort := tget {} s.lnk.aport k
def setAport (k : Nat) (a : APort) (s : State) : State :=
  { s with lnk := { s.lnk with aport := tset {} s.lnk.aport k a } }
def modAport (k : Nat) (f : APort → APort) (s : State) : State := setAport k (f (aport s k)) s

/-! ## Flits -/

/-- The control word of a flit (R345). -/
def ctlWord (seq ack : Nat) (nak : Bool) (kind : Nat) (cr : TchCredit) : Nat :=
  seq + 2 ^ 12 * ack + 2 ^ 24 * b2n nak + 2 ^ 25 * kind + 2 ^ 28 * cr.hdr + 2 ^ 36 * cr.rsp + 2 ^ 44 * cr.data

/-- The 272 bytes of a flit: control word, payload, CRC. -/
def flitBytes (ctl : Nat) (payload : List Byte) : List Byte :=
  let b := leBytes 8 ctl ++ slice payload 0 256
  b ++ leBytes 8 (crc64 b)

/-- What a control word can return of each class. -/
def capCredit (c : TchCredit) : TchCredit := { hdr := min c.hdr 255, rsp := min c.rsp 255, data := min c.data 4095 }
def subCredit (a b : TchCredit) : TchCredit := { hdr := a.hdr - b.hdr, rsp := a.rsp - b.rsp, data := a.data - b.data }

/-- Sends one flit, which carries the acknowledgement and the credits owed and stays in the replay buffer. -/
def sendFlit (k kind : Nat) (nak : Bool) (payload : List Byte) (s : State) : State :=
  let a := aport s k
  let cr := capCredit a.owedCredit
  let keep := (a.replay ++ [{ seq := a.txSeq, kind := kind, payload := payload }])
  let a' := { a with txSeq := (a.txSeq + 1) % 4096, owedCredit := subCredit a.owedCredit cr,
                     replay := keep.drop (keep.length - 1024) }
  emit (.flit k (flitBytes (ctlWord a.txSeq a.rxSeq nak kind cr) payload)) (bump (accPort k) 2 1 (setAport k a' s))

/-- Sends the flits after the last acknowledged one again (R346). -/
def replayFlits (k : Nat) (s : State) : State :=
  let a := aport s k
  a.replay.foldl (fun s f =>
    emit (.flit k (flitBytes (ctlWord f.seq (aport s k).rxSeq false f.kind {}) f.payload)) (bump (accPort k) 2 1 s)) s

/-! ## Transactions (R348) -/

/-- A transaction header. `status` is `STATUS` or `FUNC`. -/
structure TchHdr where
  typ : Nat
  ordered : Bool := false
  status : Nat := 0
  tag : Nat := 0
  len : Nat := 0
  addr : Nat := 0
  value : Nat := 0
  aux : Nat := 0
  deriving DecidableEq, Repr

/-- The 32 bytes of a header, with the check of its data. -/
def hdrBytes (h : TchHdr) (data : List Byte) : List Byte :=
  leBytes 8 (h.typ + 16 * b2n h.ordered + 2 ^ 8 * h.status + 2 ^ 16 * h.tag + 2 ^ 32 * h.len) ++ leBytes 8 h.addr ++
    leBytes 8 h.value ++ leBytes 4 (if data = [] then 0 else crc32c data) ++ leBytes 4 h.aux

def readHdr (bs : List Byte) : TchHdr :=
  let w := fieldLE bs 0 8
  { typ := bits w 0 4, ordered := bit w 4, status := bits w 8 8, tag := bits w 16 12, len := bits w 32 13,
    addr := fieldLE bs 8 8, value := fieldLE bs 16 8, aux := fieldLE bs 28 4 }

/-- `DCRC` of a header agrees with the data. -/
def dcrcOk (hdr data : List Byte) : Bool := fieldLE hdr 24 4 == crc32c data

def isResponse (hdr : List Byte) : Bool := (readHdr hdr).typ == 8
def dataFlits (n : Nat) : Nat := ceilDiv n 256

/-- Data flits of the response to a request of the device. -/
def respFlits (typ len : Nat) : Nat := if typ = 1 then dataFlits len else if typ = 3 then 1 else 0

/-- The device reserves room for a request's response before it sends it (R347): of the 512 headers and 4 096 data flits it grants,
what the responses still out leave. -/
def respRoom (a : APort) (hdr : List Byte) : Bool :=
  let h := readHdr hdr
  let out := a.devReqs.filter fun d => !a.txWait.any fun w => !isResponse w.1 && (readHdr w.1).tag == d.tag
  isResponse hdr || h.typ == 4 ||
    (decide (out.length < 512) && decide (out.foldl (fun n d => n + respFlits d.typ d.len) (respFlits h.typ h.len) ≤ 4096))

/-- A transaction has the credit it needs, and a request room for its response. -/
def creditFor (a : APort) (hdr data : List Byte) : Bool :=
  respRoom a hdr &&
  (if isResponse hdr then decide (1 ≤ a.txCredit.rsp) else decide (1 ≤ a.txCredit.hdr)) &&
    decide (dataFlits data.length ≤ a.txCredit.data)

def spendCredit (hdr data : List Byte) (a : APort) : APort :=
  let c := a.txCredit
  { a with txCredit := { hdr := c.hdr - b2n (!isResponse hdr), rsp := c.rsp - b2n (isResponse hdr),
                         data := c.data - dataFlits data.length } }

/-- The header flit of a transaction and its data flits. -/
def sendTransaction (k : Nat) (hdr data : List Byte) (s : State) : State :=
  let s := sendFlit k 1 false hdr (modAport k (spendCredit hdr data) s)
  (pieces 256 (data.length / 256 + 1) data).foldl (fun s d => sendFlit k 2 false d s) s

/-- A response may pass waiting requests, and a request waits behind earlier requests (R347). -/
def blocked (a : APort) (hdr data : List Byte) : Bool :=
  !creditFor a hdr data || a.txWait.any fun w => isResponse w.1 == isResponse hdr

/-- A transaction leaves, or waits for credit. -/
def sendTch (k : Nat) (h : TchHdr) (data : List Byte) (s : State) : State :=
  let hdr := hdrBytes h data
  if (aport s k).state ≠ .up then s
  else if blocked (aport s k) hdr data then modAport k (fun a => { a with txWait := a.txWait ++ [(hdr, data)] }) s
  else sendTransaction k hdr data s

/-- Waiting transactions that now have credit leave, oldest first. -/
def drainTch (k : Nat) (s : State) : State :=
  (aport s k).txWait.foldl (fun s w =>
    let a := aport s k
    let ahead := (a.txWait.takeWhile (· != w)).any fun x => isResponse x.1 == isResponse w.1
    if ahead || !creditFor a w.1 w.2 then s
    else sendTransaction k w.1 w.2 (setAport k { a with txWait := a.txWait.erase w } s)) s

/-! ## The device's requests (R350, R354) -/

/-- The lowest free tag of a port. -/
def freeTag (s : State) (k : Nat) : Nat :=
  ((List.range 4096).find? fun t => !((aport s k).devReqs.any fun d => d.tag == t)).getD 0

/-- A request goes out under a tag and is tracked until its response, unless its answer is already at hand. -/
def accIssue (k : Nat) (h : TchHdr) (data : List Byte) (answered : Bool) (fromPort : Option (Nat × Nat)) (s : State) : State :=
  let tag := freeTag s k
  let s := sendTch k { h with tag := tag } data s
  if answered then s
  else
    let r : DevReq := { tag := tag, typ := h.typ, pa := h.addr, len := h.len, fromPort := fromPort,
                        sent := dieTime s (32 + k / 2), timedOut := false }
    modAport k (fun a => { a with devReqs := a.devReqs ++ [r] }) s

/-- Accelerator memory of a target 0x01 to 0x08. -/
def accOf (pa : Nat) : Nat := target pa - 1

/-- Pieces of an access that cross no 4 KiB boundary: address and length. -/
def pagePieces (pa len : Nat) : List (Nat × Nat) :=
  if len = 0 then []
  else (List.range ((pa % 4096 + len + 4095) / 4096)).map fun k =>
    let a := if k = 0 then pa else (pa / 4096 + k) * 4096
    let e := min (pa + len) ((pa / 4096 + k + 1) * 4096)
    (a, e - a)

/-- The status an access brought with it for an address, if any. -/
def extAnswer (ext : List ExtRead) (pa : Nat) : Option Status := (ext.find? fun e => e.pa == pa).map (·.status)

/-- How a request to an accelerator ends before it leaves: the router answers for a port that is fenced, absent or in reset (R10,
R448, R482), a port not UP gives TIMEOUT (R356), and a stalled island CROSS_STALL (R425). -/
def accRefusal (s : State) (k : Nat) : Option Status :=
  match absentStatus s (accPort k) with
  | some st => some st
  | none =>
    if (aport s k).state ≠ .up then some .timeout
    else if islandStalled s (8 + k) then some .crossStall else none

/-- Writes accelerator memory: one WRITE per 4 KiB piece. It ends with the first status that is not OK. -/
def accWrite (pa : Nat) (bs : List Byte) (ext : List ExtRead) (s : State) : State × Status :=
  let k := accOf pa
  match accRefusal s k with
  | some st => (s, st)
  | none =>
    (pagePieces pa bs.length).foldl (fun r p =>
      let ans := extAnswer ext p.1
      let s := accIssue k { typ := 2, len := p.2, addr := p.1 } ((bs.drop (p.1 - pa)).take p.2) ans.isSome none r.1
      (s, if r.2 = .ok then ans.getD .ok else r.2)) (s, .ok)

/-- Reads accelerator memory: one READ per piece; the data is what the command brings or an earlier response left. -/
def accRead (pa len : Nat) (ext : List ExtRead) (s : State) : State × Status × List Byte :=
  let k := accOf pa
  match accRefusal s k with
  | some st => (s, st, [])
  | none =>
    let ext := ext ++ s.lnk.answers
    let (st, bs) := extRead ext pa len
    let s := { s with lnk := { s.lnk with answers := s.lnk.answers.filter fun e => e.pa != pa } }
    let s := (pagePieces pa len).foldl (fun s p =>
      accIssue k { typ := 1, len := p.2, addr := p.1 } [] (extAnswer ext pa).isSome none s) s
    (s, st, bs)

/-- An ATOMIC: `func` 0 adds, 1 swaps, 2 compares and swaps. The answer is the prior value. -/
def accAtomic (pa func : Nat) (data : List Byte) (ext : List ExtRead) (s : State) : State × Status × Nat :=
  let k := accOf pa
  match accRefusal s k with
  | some st => (s, st, 0)
  | none =>
    let (st, bs) := extRead (ext ++ s.lnk.answers) pa 8
    let s := accIssue k { typ := 3, status := func, len := data.length, addr := pa } data
      (extAnswer (ext ++ s.lnk.answers) pa).isSome none s
    (s, st, leNat bs)

/-! ## Responses to an accelerator (R351) -/

/-- A RESPONSE to a request of the accelerator; its request's credits are owed again. -/
def respond (k tag : Nat) (st : Status) (data : List Byte) (s : State) : State :=
  sendTch k { typ := 8, status := statusCode st, tag := tag, len := data.length } data s

/-- Answers that belong to what was asked: a response of the device's own request waits for the unit that asked; a
switched request's goes back to the port it came from (R349), unless that port has lost its link since (R356). -/
def endDevReq (k : Nat) (d : DevReq) (st : Status) (data : List Byte) (s : State) : State :=
  let s := modAport k (fun a => { a with devReqs := a.devReqs.filter fun x => x.tag != d.tag }) s
  match d.fromPort with
  | some (j, tag) =>
    if j ≥ 8 then s else
    respond j tag st data (modAport j (fun a => { a with accReqs := a.accReqs.filter fun r => r.tag != tag }) s)
  | none =>
    if d.typ = 2 then writeEnded (k, d.tag) st s
    else { s with lnk := { s.lnk with answers := s.lnk.answers ++ [{ pa := d.pa, status := st, bytes := data }] } }

end Sys2Proof.Machine
end

