-- ==== Sys2Proof/Machine/Mem.lean ====
section
/-! DEFINITION. Access to any target of a device physical address (R62, R150), and transfers through a context, translated
page by page (R74). -/

namespace Sys2Proof.Machine

/-- A write under a context and the partition's identity, at any target. -/
def memWriteTo (src part ctx pa : Nat) (bs : List Byte) (ext : List ExtRead) (s : State) : State × Status :=
  let t := target pa
  if t = 0 then spoolWrite src ctx (offset pa) bs s
  else if 1 ≤ t ∧ t ≤ 8 then accWrite pa bs ext s
  else if t = 0x10 then hostWrite part (offset pa) bs s
  else if 0x20 ≤ t ∧ t ≤ 0x2F then
    peerWrite part pa bs s
  else (s, .bounds)

def memReadFrom (src part ctx pa len : Nat) (ext : List ExtRead) (s : State) : State × Status × List Byte :=
  let t := target pa
  if t = 0 then spoolRead src ctx (offset pa) len s
  else if 1 ≤ t ∧ t ≤ 8 then accRead pa len ext s
  else if t = 0x10 then hostRead part (offset pa) len ext s
  else if 0x20 ≤ t ∧ t ≤ 0x2F then peerRead part pa len ext s
  else (s, .bounds, [])

/-- An indivisible 8-byte operation (R147), giving the prior value. Peer windows refuse it (R336). -/
def memAtomicAt (src part ctx pa : Nat) (op : AtomOp) (operand compare : Nat) (ext : List ExtRead) (s : State) :
    State × Status × Nat :=
  let t := target pa
  if t = 0 then
    match spoolRead src ctx (offset pa) 8 s with
    | (s, .ok, bs) =>
      let (s, st) := spoolWrite src ctx (offset pa) (leBytes 8 (atomApply op (leNat bs) operand compare)) s
      (s, st, leNat bs)
    | (s, st, _) => (s, st, 0)
  else if 1 ≤ t ∧ t ≤ 8 then
    match op with
    | .cmpSwap => accAtomic pa 2 (leBytes 8 compare ++ leBytes 8 operand) ext s
    | .swap => accAtomic pa 1 (leBytes 8 operand) ext s
    | _ => accAtomic pa 0 (leBytes 8 operand) ext s
  else if t = 0x10 then
    match hostRead part (offset pa) 8 ext s with
    | (s, .ok, bs) =>
      let (s, st) := hostWrite part (offset pa) (leBytes 8 (atomApply op (leNat bs) operand compare)) s
      (s, st, leNat bs)
    | (s, st, _) => (s, st, 0)
  else if 0x20 ≤ t ∧ t ≤ 0x2F then (s, .denied, 0)
  else (s, .bounds, 0)

/-- How a transfer through a context ends: a page fault is pending (R87) where it is `faulted`. -/
inductive XferEnd where
  | ok | fail (st : Status) | faulted
  deriving DecidableEq, Repr

/-- Pages a transfer touches at most: those of the smallest size (R69). -/
def pageFuel (va len : Nat) : Nat := (va % 2 ^ 21 + len + (2 ^ 21 - 1)) / 2 ^ 21

/-- One page's physical address and the bytes of the transfer that lie in the page, or how its translation ends; a page fault is
raised here. -/
def pagePa (r : Lookup) (va len : Nat) (ext : List ExtRead) (s : State) : State × Except XferEnd (Nat × Nat) :=
  let r := { r with va := va, len := len }
  match translate r ext s with
  | (s, .pa a leaf) => (s, .ok (a, min len (2 ^ leaf.pageLog2 - va % 2 ^ leaf.pageLog2)))
  | (s, .fail st) => (s, .error (.fail st))
  | (s, .fault level) => (pageFault r level s, .error .faulted)
  | (s, .next _ _ _) => (s, .error (.fail .contextFault))

/-- A transfer of length 0 is checked at its address only (R74). -/
def emptyXfer (r : Lookup) (va : Nat) (s : State) : XferEnd :=
  match translateCheck s { r with va := va } with
  | some st => .fail st
  | none => .ok

/-- One translation for each page touched; pages already written stay written (R74). -/
def vaWriteGo (r : Lookup) (ext : List ExtRead) : Nat → Nat → List Byte → State → State × XferEnd
  | 0, _, _, s => (s, .ok)
  | fuel + 1, va, bs, s =>
    if bs = [] then (s, .ok)
    else
      match pagePa { r with access := .write } va bs.length ext s with
      | (s, .error e) => (s, e)
      | (s, .ok (pa, n)) =>
        match memWriteTo r.holder r.part r.ctx pa (bs.take n) ext s with
        | (s, .ok) => vaWriteGo r ext fuel (va + n) (bs.drop n) s
        | (s, st) => (s, .fail st)

/-- The read-backs of a transfer's writes through peer windows, one on each port it wrote on, after the last write (R338); what the
command brings answers one at once. -/
def readBacks (ext : List ExtRead) (before : State) (x : State × XferEnd) : State × XferEnd :=
  (List.range 2).foldl (fun y port =>
    if y.2 ≠ .ok then y
    else
      match lastPeerWrite port (y.1.out.drop before.out.length) with
      | none => y
      | some (p, bus) =>
        let ans := (ext.find? fun e => 0x20 ≤ target e.pa && target e.pa ≤ 0x2F && busAddr y.1 e.pa == bus).map (·.status)
        let s := readBack port p bus ans.isSome y.1
        match ans with
        | some st =>
          if st = .ok then (s, .ok)
          else ({ s with lnk := { s.lnk with p2pErrSeen := true } }, .fail st)
        | none => (s, .ok)) x

/-- Writes bytes at a virtual address of a context. -/
def vaWrite (r : Lookup) (va : Nat) (bs : List Byte) (ext : List ExtRead) (s : State) : State × XferEnd :=
  if bs = [] then (s, emptyXfer r va s) else readBacks ext s (vaWriteGo r ext (pageFuel va bs.length) va bs s)

def vaReadGo (r : Lookup) (ext : List ExtRead) : Nat → Nat → Nat → State → State × XferEnd × List Byte
  | 0, _, _, s => (s, .ok, [])
  | fuel + 1, va, len, s =>
    if len = 0 then (s, .ok, [])
    else
      match pagePa { r with access := .read } va len ext s with
      | (s, .error e) => (s, e, [])
      | (s, .ok (pa, n)) =>
        match memReadFrom r.holder r.part r.ctx pa n ext s with
        | (s, .ok, bs) =>
          let (s, e, more) := vaReadGo r ext fuel (va + n) (len - n) s
          (s, e, bs ++ more)
        | (s, st, _) => (s, .fail st, [])

/-- Reads bytes at a virtual address of a context. -/
def vaRead (r : Lookup) (va len : Nat) (ext : List ExtRead) (s : State) : State × XferEnd × List Byte :=
  if len = 0 then (s, emptyXfer r va s, []) else vaReadGo r ext (pageFuel va len) va len s

/-- Pages all translate for an access, with no data moved: the check at the reduce right of R149. -/
def vaCheckGo (r : Lookup) (ext : List ExtRead) : Nat → Nat → Nat → State → State × XferEnd
  | 0, _, _, s => (s, .ok)
  | fuel + 1, va, len, s =>
    if len = 0 then (s, .ok)
    else
      match pagePa r va len ext s with
      | (s, .error e) => (s, e)
      | (s, .ok (_, n)) => vaCheckGo r ext fuel (va + n) (len - n) s

def vaCheck (r : Lookup) (va len : Nat) (ext : List ExtRead) (s : State) : State × XferEnd :=
  if len = 0 then (s, emptyXfer r va s) else vaCheckGo r ext (pageFuel va len) va len s

end Sys2Proof.Machine
end

