-- ==== Sys2Proof/Machine/ShtBase.lean ====
section
/-! DEFINITION. Queue pairs and their contexts (R128 to R137), the context cache (R189 to R195), and building a Shuttle
packet (R155 to R161, R174, R175). -/

namespace Sys2Proof.Machine

/-! ## Fields of the architected part (R133) -/

/-- `w` bits from bit `lo` of the word at byte `off`. -/
def archField (q : Qp) (off lo w : Nat) : Nat := bits q.arch.toNat (8 * off + lo) w

def qpUd (q : Qp) : Bool := archField q 0 4 1 == 1
def qpMode (q : Qp) : Nat := archField q 0 5 2
def qpEnc (q : Qp) : Bool := archField q 0 7 1 == 1
def qpMtu (q : Qp) : Nat := 1024 * 2 ^ archField q 0 14 2
def qpPaths (q : Qp) : Nat := if qpMode q = 0 then archField q 0 16 5 else 1
def qpPort (q : Qp) : Nat := archField q 0 21 3
def qpSub (q : Qp) : Nat := archField q 0 24 3
def qpIpv6 (q : Qp) : Bool := archField q 0 27 1 == 1
def qpPdom (q : Qp) : Nat := archField q 4 0 24
def qpRemote (q : Qp) : Nat := archField q 8 0 24
def qpQkey (q : Qp) : Nat := archField q 12 0 32
def qpInitSq (q : Qp) : BitVec 32 := BitVec.ofNat 32 (archField q 16 0 32)
def qpInitRq (q : Qp) : BitVec 32 := BitVec.ofNat 32 (archField q 20 0 32)
def qpSlot (q : Qp) : Nat := archField q 24 0 16
def qpDscp (q : Qp) : Nat := archField q 26 0 6
def qpHop (q : Qp) : Nat := archField q 27 0 8
def qpRetryMax (q : Qp) : Nat := archField q 28 0 8
def archBytes (q : Qp) (off n : Nat) : List Byte := slice (leBytes 80 q.arch.toNat) off n
def qpLocalIp (q : Qp) : List Byte := archBytes q 32 16
def qpRemoteIp (q : Qp) : List Byte := archBytes q 48 16
def qpRemoteMac (q : Qp) : List Byte := archBytes q 64 6
def qpNvmeSize (q : Qp) : Nat := archField q 72 0 16

/-- A VLAN tag control in the layout of context bytes 70 and 71, as a TCI with DEI 0, where a tag is sent. -/
def tciOf (w : Nat) : Option Nat := if bit w 15 then some (bits w 0 12 + 2 ^ 13 * bits w 12 3) else none

/-- Bits of the architected part by group of R133: fields as (byte, lowest bit, width). -/
def archMask (fs : List (Nat × Nat × Nat)) : BitVec 640 :=
  BitVec.ofNat 640 (fs.foldl (fun m f => m ||| (2 ^ (8 * f.1 + f.2.1) * (2 ^ f.2.2 - 1))) 0)

def maskL : BitVec 640 :=
  archMask [(0, 4, 4), (0, 14, 2), (0, 21, 7), (4, 0, 24), (12, 0, 32), (24, 0, 16), (32, 0, 128), (70, 0, 16), (72, 0, 16)]
def maskR : BitVec 640 := archMask [(8, 0, 24), (16, 0, 32), (20, 0, 32), (48, 0, 128), (64, 0, 48)]
def maskA : BitVec 640 := archMask [(0, 16, 5), (26, 0, 6), (27, 0, 8), (28, 0, 8)]
/-- Reserved bits of the architected part. -/
def maskReserved : BitVec 640 :=
  archMask [(0, 28, 4), (4, 24, 8), (8, 24, 8), (26, 6, 2), (28, 8, 24), (74, 0, 48)]

/-- The architected part with the fields of a mask taken anew. -/
def mergeArch (old new mask : BitVec 640) : BitVec 640 := (old &&& ~~~mask) ||| (new &&& mask)

/-! ## Homes (R130, R189) -/

/-- A Weave die can be the home of QPs: a Shuttle engine, the slice and the Heddle are in service. -/
def homeOk (s : State) (d : Nat) : Bool :=
  inService s (slice_ d) && inService s (heddle d) && (List.range 8).any fun i => inService s (unitId d 1 i)

/-- The hash of R189. -/
def homeHash (q : Nat) : Nat :=
  bits q 0 3 ^^^ bits q 3 3 ^^^ bits q 6 3 ^^^ bits q 9 3 ^^^ bits q 12 3 ^^^ bits q 15 3 ^^^ bits q 18 2

/-- The engine a QP with operations outstanding stays at (R456). -/
def staysAt (s : State) (q : Nat) : Option Nat :=
  match tget none s.sht.stay q with
  | some u => if inService s u && homeOk s (dieOf u) && !(opsOf s q).isEmpty then some u else none
  | none => none

/-- The home die: the hash's, or the next Weave die in service. -/
def homeDie (s : State) (q : Nat) : Nat :=
  match staysAt s q with
  | some u => dieOf u
  | none => (((List.range 8).map fun k => (homeHash q + k) % 8).find? (homeOk s)).getD (homeHash q)

/-- The serving engine: q mod 8 on the home die, or the next engine in service there. -/
def serving (s : State) (q : Nat) : Nat :=
  let d := homeDie s q
  (staysAt s q).getD <| unitId d 1 ((((List.range 8).map fun k => (q + k) % 8).find? fun i => inService s (unitId d 1 i)).getD (q % 8))

/-- The local time of the serving engine's die. -/
def qpTime (s : State) (q : Nat) : Word64 := dieTime s (homeDie s q)

def qpHeld (s : State) (q : Nat) : Bool := isHeld s (qpPart s q) 0 q

/-- The QP answers incoming packets with RETRY_LATER: it is held (R134) or its partition freezes or is frozen (R404). -/
def qpPuts (s : State) (q : Nat) : Bool := qpHeld s q || partStopped s (qpPart s q)

/-- A lookup of the QP's own engine in a context. -/
def qpLookup (s : State) (q ctx : Nat) (remote : Bool) : Lookup :=
  { heddle := homeDie s q, holder := serving s q, ctx := ctx, part := qpPart s q, va := 0, len := 0, access := .read,
    object := q, otype := 0, remote := remote }

/-- R142: the key check of a QP, with its protection domain after the first row of R84. -/
def qpKeyCheck (s : State) (q key : Nat) (u : KeyUse) (off len : Nat) : Status × Nat × Nat :=
  let r := cachedRegion s (homeDie s q) (keyIndex key)
  if keyMatches r (qpPart s q) key && r.pdom.toNat != qpPdom (qpOf s q) then (.keyInvalid, 0, 0)
  else keyCheck r (qpPart s q) key u off len

/-- The QP's Heddle has made a key check (R495), and keeps the entry it read (R83). -/
def keyChecked (q key : Nat) (s : State) : State :=
  let h := homeDie s q
  bump (heddle h) 6 1 (if (cachedRegion s h (keyIndex key)).valid then touchRegion h (keyIndex key) s else s)

/-! ## The context in granule 0 (R128, R133, R196) -/

def qpStCode : QpSt → Nat
  | .reset => 0 | .init => 1 | .armed => 2 | .active => 3 | .drain => 4 | .error => 5

def qpStOf (n : Nat) : QpSt :=
  match n with
  | 0 => .reset | 1 => .init | 2 => .armed | 3 => .active | 4 => .drain | _ => .error

/-- Bits [41:10] of a time, as contexts keep it. -/
def ctxTime (t : Word64) : Nat := bits t.toNat 10 32
def ctxTimer (t : Option Word64) : Nat := match t with | some t => ctxTime t | none => 0

/-- The 256 bytes of a context (R133, R196). -/
def qpContext (s : State) (q : Nat) : List Byte :=
  let v := qpOf s q
  let w0 := archField v 0 0 32 + qpStCode v.state + 8 * b2n (qpHeld s q) + 2 ^ 8 * qpPart s q
  leBytes 4 w0 ++ archBytes v 4 76 ++
    leBytes 4 v.sqPsn.toNat ++ leBytes 4 v.rqBase.toNat ++ leBytes 2 v.nextMsg.toNat ++ leBytes 2 v.recvs.length ++
    leBytes 1 v.errStatus.toNat ++ leBytes 3 0 ++
    leBytes 4 v.rate ++ leBytes 4 v.target ++ leBytes 2 v.alpha ++ leBytes 1 v.stage ++ leBytes 1 v.retries ++
    leBytes 4 (ctxTime v.tCut) ++ leBytes 4 (ctxTimer v.tInc) ++ leBytes 4 (ctxTimer v.tRto) ++
    leBytes 4 v.sndUna.toNat ++ leBytes 4 v.rtxMark.toNat ++ leBytes 4 v.deferLo.toNat ++
    leBytes 4 (ctxTime v.deferUntil) ++ leBytes 32 v.sackMap.toNat ++ leBytes 32 v.rxMap.toNat ++
    ((List.range 16).flatMap fun i => leBytes 2 (tget 0 v.beta i + 2 ^ 8 * tget 0 v.entropy i)) ++
    leBytes 2 v.rxPathSeen.toNat ++ leBytes 2 v.rxPathCe.toNat ++ leBytes 2 v.pathAlive.toNat ++
    leBytes 1 (v.dupSacks % 4 + 4 * b2n v.deferred + 8 * b2n v.cutValid + 16 * v.rtoShift) ++ leBytes 1 v.rxSinceAck ++
    leBytes 4 (ctxTimer v.tAck) ++ leBytes 4 v.atomicBlock ++ leBytes 8 0

/-- The time nearest to now whose bits [41:10] are a field's. -/
def timeOf (now : Word64) (f : Nat) : Word64 :=
  ((now >>> 10) + (BitVec.ofNat 32 f - BitVec.ofNat 32 (ctxTime now)).signExtend 64) <<< 10

/-- A context taken from its 256 bytes. What they do not hold (posted RECVs, the atomic records, work in flight) stands in the
pools and at the engine. -/
def loadContext (now : Word64) (b : List Byte) (v : Qp) : Qp :=
  let w := fieldLE b 238 1
  let path (f : Nat → Nat) : Tab Nat := (List.range 16).foldl (fun t p => tset 0 t p (f p)) []
  { v with
    state := qpStOf (fieldLE b 0 1 % 8), arch := BitVec.ofNat 640 (leNat (b.take 80)) &&& (maskL ||| maskR ||| maskA)
    sqPsn := BitVec.ofNat 32 (fieldLE b 80 4), rqBase := BitVec.ofNat 32 (fieldLE b 84 4)
    nextMsg := BitVec.ofNat 16 (fieldLE b 88 2), errStatus := BitVec.ofNat 8 (fieldLE b 92 1)
    rate := fieldLE b 96 4, target := fieldLE b 100 4, alpha := fieldLE b 104 2, stage := fieldLE b 106 1
    retries := fieldLE b 107 1, tCut := if bit w 3 then timeOf now (fieldLE b 108 4) else 0
    sndUna := BitVec.ofNat 32 (fieldLE b 120 4), rtxMark := BitVec.ofNat 32 (fieldLE b 124 4)
    deferLo := BitVec.ofNat 32 (fieldLE b 128 4), deferUntil := timeOf now (fieldLE b 132 4)
    sackMap := BitVec.ofNat 256 (leNat (slice b 136 32)), rxMap := BitVec.ofNat 256 (leNat (slice b 168 32))
    beta := path fun p => fieldLE b (200 + 2 * p) 1, entropy := path fun p => fieldLE b (201 + 2 * p) 1 % 64
    rxPathSeen := BitVec.ofNat 16 (fieldLE b 232 2), rxPathCe := BitVec.ofNat 16 (fieldLE b 234 2)
    pathAlive := BitVec.ofNat 16 (fieldLE b 236 2), dupSacks := bits w 0 2, cutValid := bit w 3, rtoShift := bits w 4 3
    rxSinceAck := fieldLE b 239 1 % 64, atomicBlock := fieldLE b 244 4 % 2 ^ 18 }

/-! ## Page faults and the context cache (R88, R189 to R195) -/

/-- A local page fault of the QP is pending: its send queue waits (R88). -/
def faultWaits (s : State) (q : Nat) : Bool :=
  s.hdl.pend.any fun f => f.waiters.any fun w => w.otype == 0 && w.object == q && !w.remote

def cacheOf (s : State) (d : Nat) : List Nat := tget [] s.sht.cache d
def setCache (d : Nat) (l : List Nat) (s : State) : State := { s with sht := { s.sht with cache := tset [] s.sht.cache d l } }
def sliceCnt (d : Nat) (f : SliceCnt → SliceCnt) (s : State) : State :=
  { s with sht := { s.sht with slice := tmod {} s.sht.slice d f } }

def setOf (q : Nat) : Nat := bits q 3 11

def cached (s : State) (q : Nat) : Bool := (cacheOf s (homeDie s q)).contains q

/-- The QP has work in flight at its engine. -/
def qpWorks (s : State) (q : Nat) : Bool :=
  let v := qpOf s q
  !v.sent.isEmpty || !v.queue.isEmpty || v.tRto.isSome || v.tAck.isSome || v.deferred || !v.opened.isEmpty ||
    v.rxSinceAck != 0 || !v.ctlHeld.isEmpty || !v.pend.isEmpty || !v.nvme.isEmpty || !(opsOf s q).isEmpty ||
    v.drainWait.isSome

/-- R190: an entry is pinned. -/
def pinned (s : State) (q : Nat) : Bool := qpWorks s q || s.sht.parked.any fun k => k.qp == q

/-- The slice of a die writes a context's 256 bytes to its home stack (R128, R191). -/
def writeBack (d q : Nat) (s : State) : State := (spoolWrite (slice_ d) 0 (256 * q) (qpContext s q) s).1

/-- A context that a die other than the QP's home holds is written back and dropped there. -/
def moveHome (d q : Nat) (s : State) : State :=
  if d = homeDie s q ∨ !(cacheOf s d).contains q then s
  else writeBack d q (setCache d ((cacheOf s d).filter (· != q)) s)

/-- A QP with no operation outstanding returns to its own engine (R456). -/
def goHome (q : Nat) (s : State) : State :=
  match tget none s.sht.stay q with
  | some u =>
    if !(opsOf s q).isEmpty then s
    else moveHome (dieOf u) q { s with sht := { s.sht with stay := tset none s.sht.stay q none } }
  | none => s

/-- The rate of a QP's sub-port in Mb/s (R187). -/
def qpLine (s : State) (q : Nat) : Nat := lineRate s (qpPort (qpOf s q))

/-- The congestion fields at their ARMED values (R188). -/
def freshRate (s : State) (q : Nat) (v : Qp) : Qp :=
  { v with rate := qpLine s q, target := qpLine s q, alpha := s.sht.alphaInit.toNat, stage := 0, cutValid := false,
           tCut := 0, tInc := none }

/-- R195: an entry leaves the slice. -/
def evict (d q : Nat) (s : State) : State :=
  let s := if (qpOf s q).created then modQp q (freshRate s q) s else s
  let s := bump (slice_ d) 4 1 (setCache d ((cacheOf s d).filter (· != q)) s)
  writeBack d q (sliceCnt d (fun c => { c with evictions := satInc c.evictions }) s)

/-- Entries held or being fetched in a set of a slice. -/
def inSet (s : State) (d set : Nat) : List Nat :=
  (cacheOf s d).filter (fun x => setOf x == set) ++
    s.sht.fetching.filter fun x => homeDie s x == d && setOf x == set

/-- The fetch of a context starts, where its set has a way (R190, R191); a full set of pinned entries makes it wait. -/
def startFetch (q : Nat) (s : State) : State :=
  let s := goHome q s
  let d := homeDie s q
  let go (s : State) : State :=
    sendRequest d (slice_ d) (controller (stackOf (256 * q))) 0 0 0 (.ctxFetch q)
      { s with sht := { s.sht with fetching := s.sht.fetching ++ [q], wayWait := s.sht.wayWait.filter (· != q) } }
  if (inSet s d (setOf q)).length < 8 then go s
  else
    match ((cacheOf s d).reverse.find? fun x => setOf x == setOf q && !pinned s x) with
    | some v => go (evict d v s)
    | none =>
      if s.sht.wayWait.contains q then s
      else
        sliceCnt d (fun c => { c with setFull := satInc c.setFull })
          { s with sht := { s.sht with wayWait := s.sht.wayWait ++ [q] } }

/-- A lookup in the home slice: true on a hit. A miss starts the fetch, unless it is under way. -/
def sliceLookup (q : Nat) (s : State) : Bool × State :=
  let d := homeDie s q
  let s := bump (slice_ d) 2 1 s
  if (cacheOf s d).contains q then
    (true, sliceCnt d (fun c => { c with hits := satInc c.hits }) (setCache d (q :: (cacheOf s d).filter (· != q)) s))
  else
    let s := bump (slice_ d) 3 1 (sliceCnt d (fun c => { c with misses := satInc c.misses }) s)
    (false, if s.sht.fetching.contains q then s else startFetch q s)

/-! ## Operations and their ends -/

/-- What an operation returns with OK (R140). -/
def opResult (o : SendOp) : List Nat :=
  match o.code with
  | 0x0312 => [o.msgId.getD 0]
  | 0x0314 | 0x0315 => [bits o.prior 0 32, bits o.prior 32 32]
  | _ => []

/-- An operation ends with a status. -/
def endOp (o : SendOp) (st : Status) (s : State) : State :=
  let s := dropOp o.id s
  let s := match o.cmd with
    | some r => completeRef r st (if st = .ok then opResult o else []) (serving s o.qp) s
    | none => { s with sht := { s.sht with pushDone := s.sht.pushDone ++ [(o.id, st)] } }
  checkDrain o.qp s

/-- An operation whose packets are all built and all resolved, and whose responses are visible, ends with its first failure, or OK
(R143, R144, R521). An NVMe capsule's command ends with its response. -/
def resolveOp (q id : Nat) (s : State) : State :=
  match findOp s id with
  | none => s
  | some o =>
    if !o.closed || !o.waits.isEmpty || (qpOf s q).sent.any (fun e => e.op == id) || (o.code == 0x0317 && o.failed.isNone) then s
    else if o.code = 0x0320 ∧ o.failed.isNone then dropOp id s
    else endOp o (o.failed.getD .ok) s

/-! ## ERROR (R135 to R137) -/

/-- A RECV completes (R140). -/
def endRecv (q : Nat) (r : Recv) (st : Status) (res : List Nat) (s : State) : State :=
  completeRef r.cmd st res (serving s q) s

/-- The QP's transport state is cleared: nothing is sent, kept or timed any more. -/
def quiet (v : Qp) : Qp :=
  { v with tInc := none, tRto := none, tAck := none, deferred := false, recvs := [], sent := [], queue := [], opened := [],
           msgs := [], pend := [], aside := false, ctlHeld := [], drainWait := none, nvme := [], rxSinceAck := 0,
           roceWrite := none, roceRecv := none }

/-- RECVs of a QP that have not completed: those bound to messages, those posted, and those of RoCEv2 messages. -/
def recvsOut (v : Qp) : List Recv :=
  (v.msgs.filter fun m => !m.told && m.done.isNone).map (·.recv) ++ v.recvs ++ (v.opened.filterMap (·.done)).map (·.1) ++
    (v.roceRecv.map (·.1)).toList

/-- R137: every operation and posted RECV of the QP ends with ABORTED, but the operation or RECV that failed, with its own
status. -/
def toError (q : Nat) (st : Status) (culprit : Option Nat) (recv : Option CmdRef) (s : State) : State :=
  let v := qpOf s q
  let ops := opsOf s q
  let s := setQp q { quiet v with state := .error, errStatus := BitVec.ofNat 8 (statusCode st) } s
  let s := ops.foldl (fun s o => if o.code = 0x0320 ∧ o.closed then dropOp o.id s
    else endOp o (if culprit = some o.id then st else .aborted) s) s
  let s := (v.msgs.filter fun m => !m.told).foldl (fun s m =>
    match m.done with | some (st, res) => endRecv q m.recv st res s | none => s) s
  let s := (recvsOut v).foldl (fun s r => endRecv q r (if recv = some r.cmd then st else .aborted) [] s) s
  let own := ((ops.find? fun o => culprit == some o.id).bind (·.cmd))
  let s := v.nvme.foldl (fun s n =>
    completeRef n.cmd (if own = some n.cmd then st else .aborted) [] (serving s q) s) s
  match v.drainWait with
  | some (r, _) => completeRef r .aborted [] (objectUnit s q) s
  | none => s

/-- R136: the device moves a QP to ERROR on its own, with a QP_ERROR event that carries the PSN. -/
def qpFails (q : Nat) (st : Status) (culprit : Option Nat) (recv : Option CmdRef) (psn : BitVec 32) (s : State) : State :=
  let v := qpOf s q
  if v.state = .armed ∨ v.state = .active ∨ v.state = .drain then
    let s := toError q st culprit recv { s with sht := { s.sht with qpErrSeen := true } }
    report (.event (qpPart s q) 0x04 st (serving s q) (toLocal s 1 (qpPart s q) q) psn.toNat) s
  else s

/-- R194, R452: a context is lost. Its work ends, what is parked for it is discarded, and the slice writes it as zero bytes but for
`STATE`, `PARTITION` and `ERR_STATUS`, with a QP_ERROR event. DEDUCED: a key slot it used is no longer referenced by it, while the
number of its atomic record block, of which the pool gets none back, is lost with it. -/
def contextLost (d q : Nat) (st : Status) (s : State) : State :=
  let part := qpPart s q
  let s := if (qpOf s q).created && qpEnc (qpOf s q) then dropRef (qpSlot (qpOf s q)) s else s
  let s := toError q st none none s
  let s := setQp q { created := true, state := .error, errStatus := BitVec.ofNat 8 (statusCode st) }
    { s with sht := { s.sht with parked := s.sht.parked.filter fun k => k.qp != q } }
  report (.event part 0x04 st (slice_ d) (toLocal s 1 part q) 0) (writeBack d q s)

/-! ## Packets (R155 to R160, R174, R175) -/

/-- A Shuttle header (R156). -/
structure ShtHdr where
  version : Nat := 1
  opc : Nat
  flags : Nat
  dest : Nat
  psn : BitVec 32
  msgId : Nat := 0
  offset : Nat := 0
  aux : Nat := 0
  len : Nat := 0
  key : Nat := 0
  aux2 : Nat := 0
  reserved : Bool := false
  deriving DecidableEq, Repr

def shtHdrBytes (h : ShtHdr) : List Byte :=
  beBytes 4 (h.version * 2 ^ 28 + h.opc * 2 ^ 16 + h.flags) ++ beBytes 4 h.dest ++ beBytes 4 h.psn.toNat ++
    beBytes 4 (h.msgId * 2 ^ 16 + h.offset / 2 ^ 32 % 2 ^ 16) ++ beBytes 4 h.offset ++ beBytes 4 (h.aux * 2 ^ 16 + h.len) ++
    beBytes 4 h.key ++ beBytes 4 h.aux2

def readShtHdr (bs : List Byte) : ShtHdr :=
  let w (i : Nat) : Nat := beNat (slice bs (4 * i) 4)
  { version := bits (w 0) 28 4, opc := bits (w 0) 16 8, flags := bits (w 0) 0 16, dest := bits (w 1) 0 24,
    psn := BitVec.ofNat 32 (w 2), msgId := bits (w 3) 16 16, offset := bits (w 3) 0 16 * 2 ^ 32 + w 4,
    aux := bits (w 5) 16 16, len := bits (w 5) 0 14, key := w 6, aux2 := w 7,
    reserved := bits (w 0) 24 4 != 0 || bits (w 1) 24 8 != 0 || bits (w 5) 14 2 != 0 }

/-- The QP's slot is not in state GCM (R389). -/
def keyStalled (s : State) (q : Nat) : Bool :=
  qpEnc (qpOf s q) && (keySlot s (qpSlot (qpOf s q))).state != .gcm

/-- The transport bytes of a packet: sealed where the QP encrypts, with its invariant CRC; none where no counter is left. -/
def sealPacket (q : Nat) (h : ShtHdr) (payload : List Byte) (s : State) : Option (List Byte) × State :=
  let withCrc (b tail : List Byte) : List Byte := b ++ tail ++ beBytes 4 (crc32c b)
  let v := qpOf s q
  if !qpEnc v then (some (withCrc (shtHdrBytes h ++ payload) []), s)
  else
    let hb := shtHdrBytes { h with flags := h.flags ||| 16 }
    match takeCounter (qpSlot v) s with
    | (none, s) => (none, s)
    | (some n, s) =>
      let k := keySlot s (qpSlot v)
      let (ct, tag) := gcmSeal k.key (gcmIv k.fixed.toNat n) hb payload
      (some (withCrc (hb ++ beBytes 8 n ++ ct) tag), s)

/-- The frame of a QP's packet on a path's source port. -/
def qpFrame (s : State) (q : Nat) (sport dport ecn : Nat) (data : List Byte) : List Byte :=
  let v := qpOf s q
  frameBytes { dstMac := qpRemoteMac v, srcMac := subMac s (qpPort v) (qpSub v), tag := tciOf (archField v 70 0 16),
               ipv6 := qpIpv6 v, srcIp := qpLocalIp v, dstIp := qpRemoteIp v, dscp := qpDscp v, ecn := ecn, hop := qpHop v,
               sport := sport, dport := dport, csum4 := s.sht.udpCsum4 } data

/-- The source port of a path (R174). -/
def pathPort (v : Qp) (p : Nat) : Nat := 0xC000 ||| (tget 0 v.entropy p * 16) ||| p

/-- Weight of a path (R175). -/
def pathWeight (v : Qp) (p : Nat) : Nat := 16 - tget 0 v.beta p / 16

/-- The smallest path whose running weight exceeds `r`. -/
def choosePath (v : Qp) : List Nat → Nat → Nat
  | [], _ => 0
  | p :: rest, r => if r < pathWeight v p then p else choosePath v rest (r - pathWeight v p)

/-- The seed of an engine's LFSR at a cold or warm start (R175). -/
def lfsrSeed (e : Nat) : BitVec 32 := 0x5A5A0000 ||| BitVec.ofNat 32 e

/-- Advances the serving engine's LFSR and picks a path (R175). -/
def pickPath (q : Nat) (s : State) : Nat × State :=
  let v := qpOf s q
  let e := serving s q
  let x := lfsrNext (tget (lfsrSeed e) s.sht.lfsr e)
  let ps := List.range (qpPaths v)
  let w := ps.foldl (fun a p => a + pathWeight v p) 0
  (choosePath v ps (x.toNat % 65536 * w / 65536), { s with sht := { s.sht with lfsr := tset (lfsrSeed e) s.sht.lfsr e x } })

/-- The transmit queue of a QP's packets (R369). -/
def qpQueue (s : State) (q : Nat) : Option Nat :=
  let v := qpOf s q
  txQueueFor s (qpPort v) (qpSub v) (qpPart s q) (qpDscp v)

/-- The queue has room, or the packet will be discarded for want of one. -/
def qpRoom (s : State) (q : Nat) : Bool :=
  match qpQueue s q with
  | some n => queueRoom s (qpPort (qpOf s q)) n
  | none => true

/-- A frame enters the QP's queue, or is discarded (R369). -/
def queueFrame (q : Nat) (frame : List Byte) (s : State) : State :=
  let v := qpOf s q
  match qpQueue s q with
  | some n => enqueue (qpPort v) n { frame := frame, qp := some q, unit := serving s q } s
  | none => txqMiss (qpPort v) (qpSub v) s

/-- The next send time after a packet of a number of wire bytes: it moves by bytes × 8 / `RATE` µs, exactly, and a QP that has fallen
behind by more than that packet starts again from now (R187). -/
def advanceSend (now wire : Nat) (v : Qp) : Qp :=
  let r := max 1 v.rate
  let num := v.sendNum * r + wire * 8000 * v.sendDen
  let den := v.sendDen * r
  let t := v.nextSend.toNat + num / den
  let g := Nat.gcd (num % den) den
  if t < now then { v with nextSend := BitVec.ofNat 64 now, sendNum := 0, sendDen := 1 }
  else { v with nextSend := BitVec.ofNat 64 t, sendNum := num % den / g, sendDen := den / g }

def pace (q : Nat) (wire : Nat) (s : State) : State := modQp q (advanceSend (qpTime s q).toNat wire) s

/-- A data packet of a QP has been sent (R495, R503). -/
def countSent (q opc len : Nat) (s : State) : State :=
  let u := serving s q
  let s := bumpPart (qpPart s q) 2 len (worked u 1 (bump u 2 1 (bump u 3 len s)))
  if opc = 8 then bump u 11 1 s else s

/-- An ACK, NAK or RoCEv2 acknowledgement of a QP has been sent. -/
def countCtl (q : Nat) (s : State) : State := let u := serving s q; worked u 1 (bump u 5 1 s)

/-- A data packet of a QP has committed. -/
def countCommit (q len : Nat) (s : State) : State :=
  let u := serving s q
  bumpPart (qpPart s q) 3 len (worked u 1 (bump u 6 1 (bump u 7 len s)))

/-- Sends a data packet on a chosen path, paced. -/
def sendData (q : Nat) (h : ShtHdr) (payload : List Byte) (s : State) : State :=
  match sealPacket q h payload s with
  | (none, s) => s
  | (some data, s) =>
    let (p, s) := pickPath q s
    let frame := qpFrame s q (pathPort (qpOf s q) p) s.sht.udpPort.toNat 2 data
    pace q (frame.length + 24) (queueFrame q frame (countSent q h.opc payload.length s))

/-- Sends an ACK or NAK on path 0, unpaced; it waits where the queue is full. A key-stalled QP sends none (R389). -/
def sendCtl (q : Nat) (c : CtlPkt) (s : State) : State :=
  let v := qpOf s q
  if keyStalled s q then s
  else if !qpRoom s q then setQp q { v with aside := true, ctlHeld := v.ctlHeld ++ [c] } s
  else
    match sealPacket q { opc := c.opc, flags := c.flags, dest := qpRemote v, psn := c.psn, aux := c.aux, aux2 := c.aux2,
                         len := c.payload.length } c.payload s with
    | (none, s) => s
    | (some data, s) => queueFrame q (qpFrame s q (pathPort v 0) s.sht.udpPort.toNat 2 data) (countCtl q s)

end Sys2Proof.Machine
end

