-- ==== Sys2Proof/Machine/ShtTx.lean ====
section
/-! DEFINITION. The sending side of a queue pair: accepting operations (R131, R141), building packets (R143, R144, R172 to
R175, R187), acknowledgements and retransmission (R176 to R185, R521) and rate control (R188). -/

namespace Sys2Proof.Machine

/-- The signed difference of two PSNs. -/
def psnDiff (a b : BitVec 32) : Int := (a - b).toInt

/-! ## Timers (R182, R183, R188) -/

/-- The deadline `us` microseconds after a time, in counts, taken up to the timers' resolution of 1 024 counts: a timer fires no
earlier (R183). -/
def afterUs (t : Word64) (us : Nat) : Word64 := ((t + BitVec.ofNat 64 (us * 1000 + 1023)) >>> 10) <<< 10

/-- A deadline has passed. -/
def passed (now : Word64) (t : Word64) : Bool := decide (0 ≤ (now - t).toInt)

/-- A UD QP has no timers; T_RTO is armed while something is outstanding (R182). -/
def armRto (q : Nat) (s : State) : State :=
  modQp q (fun v =>
    if v.sent.isEmpty then { v with tRto := none }
    else { v with tRto := some (afterUs (qpTime s q) (s.sht.rtoUs.toNat * 2 ^ v.rtoShift)) }) s

def isUnacked (v : Qp) (psn : BitVec 32) : Bool := v.sent.any fun e => e.psn == psn && !v.sackMap.getLsbD (psn - v.sndUna).toNat

/-- Entries sent and not acknowledged, in PSN order. -/
def unackedFrom (v : Qp) (lo : BitVec 32) : List Sent :=
  (v.sent.filter fun e => decide (0 ≤ psnDiff e.psn lo) && isUnacked v e.psn)

/-- Of the PSNs to be sent again, those that a packet goes out for: only the first of a refused READ_REQ's range (R521). -/
def resent (es : List Sent) : List Sent := es.filter fun e => !(e.refused.isSome && e.psn != e.first)

/-- PSNs put in line to be sent again, in PSN order (R181, R182, R185). -/
def requeue (es : List Sent) (v : Qp) : Qp :=
  let items := (resent es).map fun e => TxItem.again e.psn
  { v with queue := (v.queue.filter fun i => !items.contains i) ++ items }

/-! ## Rate control (R188) -/

/-- `cut`. `T_CUT` is a field of the context, and holds bits [41:10] of the time (R183). -/
def cutRate (q new : Nat) (s : State) : State :=
  let now := qpTime s q
  let s := bump (serving s q) 10 1 s
  modQp q (fun v => { v with target := v.rate, rate := max s.sht.minRate.toNat new, stage := 0, tCut := (now >>> 10) <<< 10, cutValid := true,
                             tInc := some (afterUs now s.sht.incUs.toNat) }) s

/-- What every ACK, NAK or congestion notification does to `ALPHA` and the rate. -/
def onEcho (q : Nat) (ce : Bool) (s : State) : State :=
  let s := if ce then bump (serving s q) 8 1 s else s
  let v := qpOf s q
  let alpha := if ce then min 65535 (v.alpha + (65536 - v.alpha) / 16) else v.alpha - ceilDiv v.alpha 16
  let s := setQp q { v with alpha := alpha } s
  let gap := !v.cutValid || decide ((qpTime s q - v.tCut).toNat ≥ s.sht.cutUs.toNat * 1000)
  if ce && s.sht.ccEnable && gap then cutRate q (v.rate - v.rate * alpha / 131072) s else s

/-- A path is re-rolled (R176). -/
def reroll (s : State) (p : Nat) (v : Qp) : Qp :=
  { v with entropy := tset 0 v.entropy p ((tget 0 v.entropy p + s.sht.entropyStep.toNat) % 64),
           beta := tset 0 v.beta p 64 }

/-- R176: a path reported as seen, with or without CE. -/
def pathSeen (s : State) (ce : Bool) (p : Nat) (v : Qp) : Qp :=
  let b := tget 0 v.beta p
  let b := if ce then b + (255 - b) / 16 else b - ceilDiv b 16
  let v := { v with beta := tset 0 v.beta p b, pathAlive := v.pathAlive ||| BitVec.ofNat 16 (2 ^ p) }
  if b ≥ s.sht.rerollBeta.toNat then reroll s p v else v

def pathsSeen (q seen ce : Nat) (s : State) : State :=
  modQp q (fun v => ((List.range 16).filter (bit seen)).foldl (fun v p => pathSeen s (bit ce p) p v) v) s

/-- The step of T_INC (R188). -/
def increase (q : Nat) (s : State) : State :=
  let v := qpOf s q
  let line := qpLine s q
  let stage := min 255 (v.stage + 1)
  let target :=
    if stage > 5 + s.sht.haiAfter.toNat then min line (v.target + s.sht.rhai.toNat)
    else if stage > 5 then min line (v.target + s.sht.rai.toNat)
    else v.target
  let rate := (v.rate + target) / 2
  setQp q { v with stage := stage, target := target, rate := rate,
                   tInc := if rate = line then none else some (afterUs (qpTime s q) s.sht.incUs.toNat) } s

/-! ## Acknowledged PSNs -/

/-- SND_UNA moves over acknowledged PSNs; what lies below it is forgotten. -/
def advanceUna : Nat → Qp → Qp
  | 0, v => v
  | n + 1, v =>
    if v.sndUna ≠ v.sqPsn ∧ v.sackMap.getLsbD 0 then
      advanceUna n { v with sndUna := v.sndUna + 1, sackMap := v.sackMap >>> 1,
                            sent := v.sent.filter fun e => e.psn != v.sndUna }
    else v

/-- PSNs of a QP are acknowledged (R180 to R182); operations whose packets are all resolved complete. -/
def ackPsns (q : Nat) (psns : List (BitVec 32)) (s : State) : State :=
  let v := qpOf s q
  let near := psns.filter fun p => decide ((p - v.sndUna).toNat < 256)
  let map := near.foldl (fun m p => m ||| BitVec.ofNat 256 (2 ^ (p - v.sndUna).toNat)) v.sackMap
  let v1 := advanceUna 256 { v with sackMap := map }
  let v1 := { v1 with sent := v1.sent.filter fun e => !v1.sackMap.getLsbD (e.psn - v1.sndUna).toNat,
                      queue := v1.queue.filter fun i => match i with
                        | .again p => v1.sent.any (fun e => e.psn == p) && isUnacked v1 p
                        | .copy _ | .resp .. => true }
  let moved := v1.sndUna ≠ v.sndUna
  let s := setQp q (if moved then { v1 with retries := 0, rtoShift := 0 } else v1) s
  let s := if moved then armRto q s else s
  ((v.sent.map (·.op)).dedup).foldl (fun s id => resolveOp q id s) s

/-! ## Accepting operations (R131, R134, R141) -/

/-- The QP state's answer to a new data operation (R134); a key-stalled QP takes none (R389). -/
def stateRefuses (s : State) (q : Nat) (recv : Bool) : Option Status :=
  let v := qpOf s q
  if !v.created then some .queueDisabled
  else if keyStalled s q then some .keyExhausted
  else
    match v.state with
    | .reset => some .queueDisabled
    | .init | .armed | .drain => if recv then none else some .queueDisabled
    | .active => none
    | .error => some .aborted

/-- An operation joins its QP's work. -/
def addOp (o : SendOp) (s : State) : State :=
  let s := goHome o.qp s
  { s with sht := { s.sht with nextOp := s.sht.nextOp + 1, ops := s.sht.ops ++ [{ o with id := s.sht.nextOp }] } }

/-- A Reed engine's own push on a QP: it has no command (R149). -/
def addPush (q comm opseq rkey roff : Nat) (data : List Byte) (control : Nat) (s : State) : State :=
  addOp { id := 0, qp := q, code := 0x0316, cmd := none, packet := [], data := some data, lkey := 0, loff := 0, rkey := rkey,
          roff := roff, len := data.length, aux := comm, aux2 := opseq, control := control, crcs := blockCrcs data } s

/-- The check blocks that `n` bytes at the place an operation has reached lie in agree with their CRC-32C as they are read
(R249); other operations carry none. -/
def pushIntact (o : SendOp) (n : Nat) (corrupt : Bool) : Bool :=
  (List.range (ceilDiv (o.built + n) 4096 - o.built / 4096)).all fun j =>
    let i := o.built / 4096 + j
    let b := ((o.data.getD []).drop (4096 * i)).take 4096
    (o.crcs[i]?).all fun x => crc32c (if corrupt then misread b else b) == x

/-! ## Building packets -/

/-- Atomics and READ_REQs of a QP that are outstanding (R148, R180). -/
def atomicsOut (v : Qp) : Nat :=
  (v.sent.filter fun e => if qpMode v = 0 then e.opc == 5 || e.opc == 6 else e.opc == 0x13 || e.opc == 0x14).length
def readsOut (v : Qp) : Nat := ((v.sent.filter fun e => e.opc == 2).map (·.first)).dedup.length

/-- Whether a PSN is one of the sender's cadence (R178). The first PSN is not, as the worked example of R162 shows. -/
def cadence (s : State) (v : Qp) : Bool :=
  let d := (v.sqPsn - qpInitSq v).toNat
  d != 0 && d % max 1 s.sht.ackreqEvery.toNat == 0

/-- The packet opcode of a data operation. -/
def packetOpc (code : Nat) : Nat :=
  match code with
  | 0x0310 => 1 | 0x0311 => 2 | 0x0312 => 4 | 0x0314 => 5 | 0x0315 => 6 | 0x0316 => 8 | _ => 9

/-- The header of an operation's packet of `n` bytes at the place it has reached. -/
def opHdr (s : State) (o : SendOp) (n flags : Nat) : ShtHdr :=
  let v := qpOf s o.qp
  let opc := packetOpc o.code
  let send := opc == 4
  { opc := opc, flags := flags, dest := qpRemote v, psn := v.sqPsn, msgId := o.msgId.getD v.nextMsg.toNat,
    offset := if send then o.built else (o.roff + o.built) % 2 ^ 48, aux := o.aux, len := n,
    key := if send then 0 else o.rkey,
    aux2 := if send then o.len else o.aux2 }

/-- A packet that is sent for the first time is kept until it is resolved. -/
def keepSent (h : ShtHdr) (o : SendOp) (payload : List Byte) (v : Qp) : Qp :=
  { v with sqPsn := v.sqPsn + 1
           sent := v.sent ++ [{ psn := h.psn, op := o.id, opc := h.opc, msgId := h.msgId, offset := h.offset, key := h.key,
                                aux := h.aux, aux2 := h.aux2, flags := h.flags, payload := payload,
                                answered := h.opc == 5 || h.opc == 6, pos := o.built, first := h.psn }] }

/-- An operation takes its message ID with its first packet. -/
def takeMsgId (o : SendOp) (s : State) : SendOp × State :=
  match o.msgId with
  | some _ => (o, s)
  | none =>
    let v := qpOf s o.qp
    ({ o with msgId := some v.nextMsg.toNat }, setQp o.qp { v with nextMsg := v.nextMsg + 1 } s)

/-- A local failure (R144): no further packet; the operation ends once those sent are resolved. -/
def failOp (o : SendOp) (st : Status) (s : State) : State :=
  resolveOp o.qp o.id (setOp { o with closed := true, failed := some (o.failed.getD st) } s)

/-- Source bytes of an operation at the place it has reached. -/
def opSource (o : SendOp) (n : Nat) (ext : List ExtRead) (s : State) : State × XferEnd × List Byte :=
  match o.data with
  | some d => (s, .ok, slice d o.built n)
  | none =>
    let s := keyChecked o.qp o.lkey s
    match qpKeyCheck s o.qp o.lkey .lRead (o.loff + o.built) n with
    | (.ok, ctx, va) => vaRead (qpLookup s o.qp ctx false) va n (ext ++ o.ext) s
    | (st, _, _) => (s, .fail st, [])

/-- A packet of a message of `o`, sent with its payload; the last one closes the operation. -/
def sendOpPacket (o : SendOp) (payload : List Byte) (adv : Nat) (s : State) : State :=
  let q := o.qp
  let (o, s) := takeMsgId o s
  let v := qpOf s q
  let last := decide (o.built + adv ≥ o.len)
  let inl := o.data.isSome && (o.code == 0x0310 || o.code == 0x0312)
  let flags := (if o.code = 0x0310 ∧ o.aux = 1 then 1 else 0) + 2 * b2n (last || cadence s v) + 8 * b2n inl
  let h0 := opHdr s o payload.length flags
  let h := if o.code = 0x0310 then { h0 with aux := 0 } else h0
  let idle := v.sent.isEmpty
  let s := setOp { o with built := o.built + adv, closed := last } (modQp q (keepSent h o payload) s)
  let s := sendData q h payload s
  if idle then armRto q s else s

/-- One PSN of a READ_REQ (R157, R180). -/
def readEntry' (h : ShtHdr) (o : SendOp) (mtu i : Nat) (total : Nat) : Sent :=
  { psn := h.psn + BitVec.ofNat 32 i, op := o.id, opc := 2, msgId := h.msgId, offset := (h.offset + i * mtu) % 2 ^ 48,
    key := h.key, aux := 0, aux2 := 0, flags := h.flags, payload := [], answered := true, pos := o.built + i * mtu,
    rlen := min mtu (total - i * mtu), first := h.psn, reqLen := total }

/-- The next READ_REQ of a READ: at most 64 responses, as the window and the table allow. -/
def sendReadReq (o : SendOp) (s : State) : State :=
  let q := o.qp
  let v := qpOf s q
  let mtu := qpMtu v
  let n := min 64 (max 1 (ceilDiv (o.len - o.built) mtu))
  if readsOut v ≥ 8 || psnDiff (v.sqPsn + BitVec.ofNat 32 n) v.sndUna > 256 then s
  else
    let (o, s) := takeMsgId o s
    let total := min (o.len - o.built) (n * mtu)
    let last := decide (o.built + total ≥ o.len)
    let h0 := opHdr s o 0 (2 * b2n (last || cadence s v))
    let h := { h0 with aux := 0, aux2 := total }
    let idle := v.sent.isEmpty
    let s := setOp { o with built := o.built + total, closed := last } (modQp q (fun v =>
      { v with sqPsn := v.sqPsn + BitVec.ofNat 32 n
               sent := v.sent ++ (List.range n).map fun i => readEntry' h o mtu i total }) s)
    let s := sendData q h [] s
    if idle then armRto q s else s

/-- A UD datagram: one packet, neither kept nor acknowledged (R132). -/
def sendUd (o : SendOp) (payload : List Byte) (s : State) : State :=
  let q := o.qp
  let (o, s) := takeMsgId o s
  let v := qpOf s q
  let h : ShtHdr := { opc := 9, flags := 2, dest := fieldLE o.packet 32 3, psn := v.sqPsn, msgId := o.msgId.getD 0,
                      len := payload.length, key := fieldLE o.packet 36 4, aux2 := q }
  let h := { h with flags := 2 + 8 * b2n o.data.isSome }
  match sealPacket q h payload (setQp q { v with sqPsn := v.sqPsn + 1 } s) with
  | (none, s) => s
  | (some data, s) =>
    let ip := slice (o.packet.drop 40) 0 16
    let frame := frameBytes { dstMac := slice (o.packet.drop 56) 0 6, srcMac := subMac s (qpPort v) (qpSub v),
                              tag := tciOf (fieldLE o.packet 62 2), ipv6 := qpIpv6 v, srcIp := qpLocalIp v, dstIp := ip,
                              dscp := qpDscp v, ecn := 2, hop := qpHop v, sport := pathPort v 0,
                              dport := s.sht.udpPort.toNat, csum4 := s.sht.udpCsum4 } data
    let s := setOp { o with closed := true } s
    match qpQueue s q with
    | some n =>
      pace q (frame.length + 24) (enqueue (qpPort v) n
        { frame := frame, qp := some q, cmd := o.cmd, ud := true, unit := serving s q } (countSent q 9 payload.length s))
    | none => endOp o .aborted (txqMiss (qpPort v) (qpSub v) s)

/-- The QP's oldest operation with packets still to build. -/
def nextOp (s : State) (q : Nat) : Option SendOp := (opsOf s q).find? fun o => !o.closed

/-- A message may be built in this state: any while ACTIVE, one already started while DRAIN (R134). -/
def mayBuild (s : State) (q : Nat) (o : SendOp) : Bool :=
  let v := qpOf s q
  !v.deferred && !qpHeld s q && !faultWaits s q &&
    (v.state == .active || (v.state == .drain && o.msgId.isSome))

/-- Builds and sends the next new packet of a QP in Shuttle mode. A push of a Reed engine whose slot is read with an error is
refused: the packet is not built, and the next send time reads the slot again (R249, R253). -/
def buildNext (q : Nat) (ext : List ExtRead) (corrupt : Bool) (s : State) : State :=
  match nextOp s q with
  | none => s
  | some o =>
    let v := qpOf s q
    let ud := o.code == 0x0317
    if !mayBuild s q o || (!ud && decide (psnDiff v.sqPsn v.sndUna ≥ 256)) then s
    else if o.code = 0x0311 then sendReadReq o s
    else if (o.code = 0x0314 ∨ o.code = 0x0315) ∧ atomicsOut v ≥ 16 then s
    else
      let atomic := o.code == 0x0314 || o.code == 0x0315
      let n := if atomic then (o.data.getD []).length else min (qpMtu v) (o.len - o.built)
      if !pushIntact o n corrupt then s
      else
        match opSource o n ext s with
        | (s, .ok, bs) => if ud then sendUd o bs s else sendOpPacket o bs (if atomic then 8 else n) s
        | (s, .fail st, _) => failOp o st s
        | (s, .faulted, _) => s

/-! ## Sending again (R173, R181, R521) -/

/-- The packet sent again for a PSN: the abandon packet of a refused one, a single-packet READ_REQ for one of a READ, else
the original with `ACK_REQ`. -/
def againHdr (v : Qp) (e : Sent) : ShtHdr :=
  let h : ShtHdr := { opc := e.opc, flags := e.flags ||| 2, dest := qpRemote v, psn := e.psn, msgId := e.msgId,
                      offset := e.offset, aux := e.aux, len := e.payload.length, key := e.key, aux2 := e.aux2 }
  if e.refused.isSome then { h with flags := h.flags ||| 0x22, len := 0, aux2 := if e.opc = 2 then e.reqLen else e.aux2 }
  else if e.opc = 2 then { h with aux2 := e.rlen }
  else h

/-- A packet kept is sent once more. -/
def sendCopy (q : Nat) (e : Sent) (s : State) : State :=
  sendData q (againHdr (qpOf s q) e) (if e.refused.isSome then [] else e.payload) (bump (serving s q) 4 1 s)

def sendAgain (q : Nat) (psn : BitVec 32) (s : State) : State :=
  match (qpOf s q).sent.find? fun e => e.psn == psn with
  | none => s
  | some e =>
    let single (x : Sent) : Sent := if x.psn = psn ∧ x.refused.isNone then { x with single := true } else x
    let s := sendCopy q e s
    let s := modQp q (fun v => { v with sent := v.sent.map single }) s
    if (qpOf s q).tRto.isNone then armRto q s else s

/-- A queued packet may go now: a deferral holds back all but responses (R180, R185). -/
def itemReady (v : Qp) (i : TxItem) : Bool :=
  match i with
  | .resp .. => v.state == .armed || v.state == .active || v.state == .drain
  | .again _ | .copy _ => !v.deferred && (v.state == .active || v.state == .drain)

def sendItem (q : Nat) (i : TxItem) (s : State) : State :=
  match i with
  | .again psn => sendAgain q psn s
  | .copy e => sendCopy q e s
  | .resp psn opc msgId off payload =>
    sendData q { opc := opc, flags := 0, dest := qpRemote (qpOf s q), psn := psn, msgId := msgId, offset := off,
                 len := payload.length } payload s

/-- The next send time has come; a fraction of a count counts as the count that follows. -/
def sendTimeCome (now : Word64) (v : Qp) : Bool := passed now (v.nextSend + BitVec.ofNat 64 (b2n (v.sendNum != 0)))

/-- R187: the QP's pacing time has come. A QP whose queue is full is set aside (R370), and a key-stalled one sends nothing
(R389). -/
def pacedSend (q : Nat) (ext : List ExtRead) (corrupt : Bool) (s : State) : State :=
  let v := qpOf s q
  if !v.created || qpMode v != 0 || !cached s q || v.aside || !sendTimeCome (qpTime s q) v ||
      unitHolds s (serving s q) 1 q then s
  else if keyStalled s q then s
  else if !qpRoom s q then setQp q { v with aside := true } s
  else
    match v.queue.find? (itemReady v) with
    | some i => sendItem q i (setQp q { v with queue := v.queue.erase i } s)
    | none => buildNext q ext corrupt s

/-! ## ACK (R177, R180, R181, R184) -/

/-- PSNs an ACK of base `b` and a bitmap acknowledges: those of the outstanding packets that no response answers, and
refused ones. -/
def ackedBy (v : Qp) (b : BitVec 32) (map : Nat) : List (BitVec 32) :=
  (v.sent.filter fun e =>
    (!e.answered || e.refused.isSome) &&
      (decide (psnDiff e.psn b < 0) || (decide (psnDiff e.psn b < 256) && bit map (e.psn - b).toNat))).map (·.psn)

/-- One past the highest acknowledged PSN, as far as it lies above SND_UNA. -/
def highAck (v : Qp) : Nat := (List.range 256).foldl (fun h i => if v.sackMap.getLsbD i then i else h) 0

/-- Holes at or above RTX_MARK (R181). -/
def holes (v : Qp) : List Sent :=
  let h := highAck v
  v.sent.filter fun e =>
    decide ((e.psn - v.sndUna).toNat < h) && isUnacked v e.psn && decide (0 ≤ psnDiff e.psn v.rtxMark)

/-- R181: the third ACK in a row that shows a hole sends the holes again. -/
def sackStep (q : Nat) (s : State) : State :=
  let v := qpOf s q
  let hs := holes v
  if hs = [] then setQp q { v with dupSacks := 0 } s
  else if v.dupSacks < 2 then setQp q { v with dupSacks := v.dupSacks + 1 } s
  else
    let mark := v.sndUna + BitVec.ofNat 32 (highAck v + 1)
    setQp q { requeue hs v with rtxMark := mark, dupSacks := 0 }
      { s with sht := { s.sht with retxSack := satAdd s.sht.retxSack (resent hs).length } }

def countRxDrop (hdr : Bool) (s : State) : State :=
  { s with sht := { s.sht with rxDrop := satInc s.sht.rxDrop, hdrDropSeen := s.sht.hdrDropSeen || hdr } }

/-- The timer has won over an ACK of the same instant (R184): the ACK counts as late, and the packets in line to be sent again go out
although it acknowledges them. -/
def lateAck (q : Nat) (s : State) : State :=
  let keep (v : Qp) (i : TxItem) : TxItem :=
    match i with
    | .again p => ((v.sent.find? fun e => e.psn == p).map TxItem.copy).getD i
    | _ => i
  modQp q (fun v => { v with queue := v.queue.map (keep v) }) { s with sht := { s.sht with lateAck := satInc s.sht.lateAck } }

/-- An ACK arrives: base, bitmap, paths seen and marked, and its CE echo. -/
def onAck (q : Nat) (b : BitVec 32) (map seen ce : Nat) (echo : Bool) (s : State) : State :=
  let v := qpOf s q
  if psnDiff b v.sqPsn > 0 then countRxDrop false s
  else
    let s := if v.rtoFired = some (qpTime s q) then lateAck q s else s
    let s := sackStep q (ackPsns q (ackedBy v b map) s)
    onEcho q echo (pathsSeen q seen ce s)

/-! ## NAK (R179, R185, R521) -/

/-- A status whose NAK leaves the sender QP as it is (R144, R220, R521). -/
def refusal (st : Status) : Bool :=
  match st with
  | .bounds | .poison | .epochStale | .memberLost => true
  | _ => false

/-- R185: the QP is deferred, or its deferral widened. -/
def defer (q : Nat) (psn : BitVec 32) (hint : Nat) (s : State) : State :=
  modQp q (fun v =>
    let due := afterUs (qpTime s q) hint
    if v.deferred then
      { v with deferLo := if psnDiff psn v.deferLo < 0 then psn else v.deferLo
               deferUntil := if passed due v.deferUntil then due else v.deferUntil }
    else { v with deferred := true, deferLo := psn, deferUntil := due }) s

/-- R521 step 2: the refusal is recorded against the PSN and its operation, and the abandon packet goes in line. -/
def refusePsn (q : Nat) (e : Sent) (st : Status) (s : State) : State :=
  let whole := e.opc == 2 && !e.single
  let mark (x : Sent) : Sent :=
    if x.psn = e.psn ∧ !whole then { x with refused := some st, first := x.psn, reqLen := x.rlen }
    else if whole ∧ x.opc = 2 ∧ x.first = e.first ∧ x.refused.isNone then { x with refused := some st }
    else x
  let s := modQp q (fun v => requeue [{ e with first := e.psn }] { v with sent := v.sent.map mark }) s
  match findOp s e.op with
  | some o => setOp { o with failed := some (o.failed.getD st) } s
  | none => s

/-- A NAK whose status is none of R104 moves the QP to ERROR with that code. DEDUCED: R179 says so of any other NAK; the code is no
status an operation could complete with, so that all of them end with ABORTED. -/
def unknownNak (q : Nat) (psn : BitVec 32) (code : Nat) (s : State) : State :=
  modQp q (fun v => if v.state = .error then { v with errStatus := BitVec.ofNat 8 code } else v)
    (qpFails q .aborted none none psn s)

/-- A NAK arrives (R179). -/
def onNak (q : Nat) (psn : BitVec 32) (code hint : Nat) (echo : Bool) (s : State) : State :=
  let e? := (qpOf s q).sent.find? fun e => e.psn == psn
  let s :=
    match statusOf code with
    | none => unknownNak q psn code s
    | some .retryLater => defer q psn hint (bump (serving s q) 9 1 s)
    | some st =>
      if refusal st then
        match e? with
        | some e => if e.refused.isNone then refusePsn q e st s else s
        | none => s
      else qpFails q st (e?.map (·.op)) none psn s
  onEcho q echo s

/-! ## Responses (R180) -/

/-- Data of a READ_RESP is placed in the local buffer under the operation's key. -/
def placeResponse (o : SendOp) (pos : Nat) (bs : List Byte) (s : State) : State × XferEnd :=
  let s := keyChecked o.qp o.lkey s
  match qpKeyCheck s o.qp o.lkey .lWrite (o.loff + pos) bs.length with
  | (.ok, ctx, va) => vaWrite (qpLookup s o.qp ctx false) va bs o.ext s
  | (st, _, _) => (s, .fail st)

/-- A READ_RESP arrives for a PSN. -/
def onReadResp (q : Nat) (psn : BitVec 32) (bs : List Byte) (s : State) : State :=
  match (qpOf s q).sent.find? fun e => e.psn == psn && e.opc == 2 with
  | none => s
  | some e =>
    if bs.length ≠ e.rlen ∨ !isUnacked (qpOf s q) psn then countRxDrop false s
    else
      match findOp s e.op with
      | none => ackPsns q [psn] s
      | some o =>
        let before := s
        match placeResponse o e.pos bs s with
        | (s, .ok) =>
          ackPsns q [psn] (countCommit q bs.length (setOp { o with waits := o.waits ++ newWrites before s } s))
        | (s, .fail st) => ackPsns q [psn] (setOp { o with closed := true, failed := some (o.failed.getD st) } s)
        | (s, .faulted) => s

/-- An ATOMIC_RESP arrives for a PSN, with the prior value. -/
def onAtomicResp (q : Nat) (psn : BitVec 32) (prior : Nat) (s : State) : State :=
  match (qpOf s q).sent.find? fun e => e.psn == psn && (e.opc == 5 || e.opc == 6) with
  | none => s
  | some e =>
    let s := match findOp s e.op with
      | some o => setOp { o with prior := prior } s
      | none => s
    ackPsns q [psn] (countCommit q 8 s)

/-! ## Timer expiries (R182, R185, R188) -/

/-- R182: T_RTO expires. -/
def rtoExpiry (q : Nat) (s : State) : State :=
  let v := qpOf s q
  let due := match v.tRto with | some t => passed (qpTime s q) t | none => false
  if !due || v.deferred || keyStalled s q || v.sent.isEmpty then s
  else if v.retries ≥ qpRetryMax v then
    qpFails q .timeout ((v.sent.find? fun e => e.psn == v.sndUna).map (·.op)) none v.sndUna s
  else
    let es := unackedFrom v v.sndUna
    let v1 := requeue es { v with retries := v.retries + 1 }
    let v1 := { v1 with rtxMark := v.sqPsn, rtoShift := min (v.rtoShift + 1) s.sht.rtoShiftMax.toNat,
                        rtoFired := some (qpTime s q) }
    let dead := (List.range (qpPaths v)).filter fun p => !v.pathAlive.getLsbD p
    let v1 := { dead.foldl (fun v p => reroll s p v) v1 with pathAlive := 0 }
    let s := setQp q v1 { s with sht := { s.sht with retxRto := satAdd s.sht.retxRto (resent es).length } }
    let s := if s.sht.ccEnable then cutRate q (v.rate / 2) s else s
    armRto q s

/-- Every unacknowledged PSN from `lo` goes in line again, and T_RTO runs anew (R185, R389). -/
def resume (q : Nat) (lo : BitVec 32) (s : State) : State :=
  armRto q (modQp q (fun v =>
    { requeue (unackedFrom v lo) v with rtxMark := v.sqPsn, deferred := false }) s)

/-- R185: `DEFER_UNTIL` passes. -/
def deferExpiry (q : Nat) (s : State) : State :=
  let v := qpOf s q
  if v.deferred && passed (qpTime s q) v.deferUntil then resume q v.deferLo s else s

def incExpiry (q : Nat) (s : State) : State :=
  let due := match (qpOf s q).tInc with | some t => passed (qpTime s q) t | none => false
  if due && s.sht.ccEnable && !keyStalled s q then increase q s else s

end Sys2Proof.Machine
end

