-- ==== Sys2Proof/Machine/ShtRx.lean ====
section
/-! DEFINITION. The receiving side of a queue pair: the checks of R162, parking (R192, R193), acceptance and commit (R150 to
R152, R172, R173, R177, R178), what each packet does (R145 to R148, R157, R197), and abandon packets (R521). -/

namespace Sys2Proof.Machine

/-- A received Shuttle packet: its port and frame, header, payload (still sealed where `ENC` is set), counter and tag, the
path it came on and whether it was marked. -/
structure RxPkt where
  port : Nat
  frame : List Byte
  srcIp : List Byte
  h : ShtHdr
  payload : List Byte
  ivCtr : Nat
  tag : List Byte
  bytes : Nat
  path : Nat
  ce : Bool
  ext : List ExtRead
  deriving DecidableEq, Repr

def isEnc (h : ShtHdr) : Bool := bit h.flags 4
def isAbandon (h : ShtHdr) : Bool := bit h.flags 5

/-! ## Checks 1 and 2 of R162 -/

/-- The packet of a frame on the Shuttle port, and whether its checks are right; none for another frame. -/
def readPacket (s : State) (port : Nat) (frame : List Byte) (ext : List ExtRead) : Option (RxPkt × Bool) :=
  match readUdp (readL2 frame) with
  | none => none
  | some u =>
    if u.dport ≠ s.sht.udpPort.toNat then none
    else
      let n := u.data.length
      let h := readShtHdr u.data
      let extra := if isEnc h then 24 else 0
      let covered := u.data.take (n - 4 - (if isEnc h then 16 else 0))
      let good := u.csumOk && decide (36 + extra ≤ n) && beNat (u.data.drop (n - 4)) == crc32c covered
      some ({ port := port, frame := frame, srcIp := u.srcIp, h := h,
              payload := (covered.drop (if isEnc h then 40 else 32)), ivCtr := if isEnc h then beNat (slice u.data 32 8) else 0,
              tag := (u.data.drop (n - 20)).take 16, bytes := n, path := u.sport % 16, ce := u.ecn == 3, ext := ext }, good)

/-- The payload an opcode must have, where it is fixed (R157, R177). -/
def fixedPayload (opc : Nat) : Option Nat :=
  match opc with
  | 2 => some 0 | 5 => some 8 | 6 => some 16 | 7 => some 8 | 0x10 => some 32 | 0x11 => some 0
  | _ => none

/-- `AUX` and `AUX2` bits an opcode uses (R157). -/
def auxOk (h : ShtHdr) : Bool :=
  match h.opc with
  | 2 | 4 => h.aux == 0
  | 8 => decide (h.aux < 4096)
  | 9 => h.aux == 0 && decide (h.aux2 < 2 ^ 24)
  | 0x10 => h.aux == 0
  | 0x11 => decide (h.aux < 256) && (h.aux == 2 || h.aux2 == 0)
  | _ => h.aux == 0 && h.aux2 == 0

/-- Check 2 of R162, but for the QP's own MTU. Of the payloads of a fixed size only those of the requests that an abandon packet stands
for may be missing (R521). -/
def badHeader (p : RxPkt) : Bool :=
  let h := p.h
  let known := (decide (1 ≤ h.opc) && decide (h.opc ≤ 9)) || h.opc == 0x10 || h.opc == 0x11
  let ctl := h.opc == 0x10 || h.opc == 0x11
  h.version != 1 || h.reserved || !known || decide (h.flags ≥ 64) || decide (h.len > 8192) ||
    h.len != p.payload.length || !auxOk h || (bit h.flags 0 && h.opc != 1) || (bit h.flags 2 && !ctl) ||
    (isAbandon h && (h.len != 0 || ctl)) ||
    (!(isAbandon h && (h.opc == 5 || h.opc == 6)) && match fixedPayload h.opc with | some n => h.len != n | none => false)

/-! ## Parking (R192, R193) -/

def parkCnt (k : Nat) (f : ParkCnt → ParkCnt) (s : State) : State :=
  { s with sht := { s.sht with parkCnt := tmod {} s.sht.parkCnt k f } }

def parkedBytes (s : State) (k : Nat) : Nat :=
  (s.sht.parked.filter fun x => x.port == k).foldl (fun a x => a + x.bytes) 0

/-- A packet whose context is not in the slice is parked, or discarded. -/
def park (p : RxPkt) (s : State) : State :=
  let n := ceilDiv p.bytes 64 * 64
  let q := p.h.dest
  if parkedBytes s p.port + n > 2 ^ 22 ∨ (s.sht.parked.filter fun x => x.qp == q).length ≥ 16 then
    parkCnt p.port (fun c => { c with drop := satInc c.drop }) { s with sht := { s.sht with parkDropSeen := true } }
  else
    let s := bump (ethPort p.port) 3 1 (bump (slice_ (homeDie s q)) 5 1 s)
    let x : Parked := { port := p.port, qp := q, frame := p.frame, bytes := n, ext := p.ext }
    parkCnt p.port (fun c => { c with parked := satInc c.parked }) { s with sht := { s.sht with parked := s.sht.parked ++ [x] } }

/-! ## Checks 3 and 4 -/

def receiving (v : Qp) : Bool := v.state == .armed || v.state == .active || v.state == .drain

/-- Check 3 of R162. DEDUCED: the address of an RC packet that must match `REMOTE_IP` is its source address; its UDP destination is
this end, which no field of the QP names as the peer. -/
def badTarget (v : Qp) (p : RxPkt) : Bool :=
  !v.created || !receiving v || qpMode v != 0 || (qpUd v != (p.h.opc == 9)) ||
    (if qpUd v then p.h.key != qpQkey v else p.srcIp != qpRemoteIp v)

def countGcmDrop (s : State) : State :=
  { s with sht := { s.sht with gcmDrop := satInc s.sht.gcmDrop, gcmFailSeen := true } }

/-- Check 4 of R162: the opened payload, under the slot's key while it holds one (R388, R389). -/
def openPacket (s : State) (v : Qp) (p : RxPkt) : Option (List Byte) :=
  if isEnc p.h != qpEnc v then none
  else if !qpEnc v then some p.payload
  else
    let k := keySlot s (qpSlot v)
    if k.state = .gcm ∨ k.state = .exhausted then
      gcmOpen k.key (gcmIv k.peerFixed.toNat p.ivCtr) (shtHdrBytes p.h) p.payload p.tag
    else none

/-- Checks 2 to 4 against the QP's context, then the packet's own effect. -/
def checkContext (p : RxPkt) (act : Nat → RxPkt → State → State) (s : State) : State :=
  let q := p.h.dest
  let v := qpOf s q
  if (v.created && decide (p.h.len > qpMtu v)) || badTarget v p then countRxDrop true s
  else
    match openPacket s v p with
    | none => countGcmDrop s
    | some d => act q { p with payload := d } s

/-- A frame leaves the transport's inbox for its receive step. -/
def takeInbox (port : Nat) (frame : List Byte) (s : State) : State :=
  { s with sht := { s.sht with inbox := s.sht.inbox.erase (port, frame) } }

/-- R162 and R192 for the packets a row is about: `want` says which, by their header. -/
def receivePacket (want : ShtHdr → Bool) (act : Nat → RxPkt → State → State) (port : Nat) (frame : List Byte)
    (ext : List ExtRead) (s : State) : State :=
  match readPacket s port frame ext with
  | none => s
  | some (p, good) =>
    if !good then
      let s := takeInbox port frame s
      { s with sht := { s.sht with crcDrop := satInc s.sht.crcDrop, crcSeen := true } }
    else if badHeader p then countRxDrop true (takeInbox port frame s)
    else if !want p.h || (decide (p.h.dest < 2 ^ 20) && unitHolds s (serving s p.h.dest) 1 p.h.dest) then s
    else
      let s := takeInbox port frame s
      if p.h.dest ≥ 2 ^ 20 then countRxDrop true s
      else
        match sliceLookup p.h.dest s with
        | (true, s) => checkContext p act s
        | (false, s) => if p.h.opc = 0x10 ∨ p.h.opc = 0x11 then countRxDrop false s else park p s

/-! ## Acknowledging (R177 to R179) -/

/-- PSNs of accepted packets that have not committed. -/
def openPsns (v : Qp) : List (BitVec 32) := v.opened.flatMap (·.psns)

/-- The lowest PSN not yet committed. -/
def commitBase (v : Qp) : BitVec 32 :=
  (openPsns v).foldl (fun b p => if psnDiff p b < 0 then p else b) v.rqBase

/-- A PSN has committed. -/
def committed (v : Qp) (p : BitVec 32) : Bool :=
  (decide (psnDiff p v.rqBase < 0) || (decide (psnDiff p v.rqBase < 256) && v.rxMap.getLsbD (p - v.rqBase).toNat)) &&
    !(openPsns v).contains p

/-- The 32 bytes of an acknowledgement bitmap. -/
def ackBitmap (v : Qp) : List Byte :=
  let b := commitBase v
  let m := (List.range 255).foldl (fun m k => if committed v (b + BitVec.ofNat 32 (k + 1)) then m ||| 2 ^ (k + 1) else m) 0
  leBytes 32 m

/-- Sends an ACK, which clears what it reports. -/
def sendAck (q : Nat) (s : State) : State :=
  let v := qpOf s q
  if keyStalled s q then s
  else
    let c : CtlPkt := { opc := 0x10, flags := if v.rxPathCe = 0 then 0 else 4, psn := commitBase v, aux := 0,
                        aux2 := v.rxPathSeen.toNat + 2 ^ 16 * v.rxPathCe.toNat, payload := ackBitmap v }
    sendCtl q c (setQp q { v with rxPathSeen := 0, rxPathCe := 0, rxSinceAck := 0, tAck := none } s)

/-- Sends the NAK of a refused packet. -/
def sendNak (q : Nat) (psn : BitVec 32) (st : Status) (s : State) : State :=
  let v := qpOf s q
  sendCtl q { opc := 0x11, flags := if v.rxPathCe = 0 then 0 else 4, psn := psn, aux := statusCode st,
              aux2 := if st = .retryLater then s.hdl.backoffUs.toNat else 0, payload := [] } s

/-- A NAK that moves the receiving QP to ERROR too (R136). -/
def fatal (st : Status) : Bool := st == .keyInvalid || st == .denied || st == .contextFault

/-- A packet is refused (R162, R521): it is not marked, and draws a NAK. Where that moves the QP to ERROR, a RECV whose landing failed
ends with the status. -/
def refuseRecv (q : Nat) (psn : BitVec 32) (st : Status) (recv : Option CmdRef) (s : State) : State :=
  let s := sendNak q psn st s
  if fatal st then qpFails q st none recv psn s else s

def refuse (q : Nat) (psn : BitVec 32) (st : Status) (s : State) : State := refuseRecv q psn st none s

/-! ## Acceptance and commit (R152, R172, R178) -/

/-- RQ_BASE moves over received PSNs. -/
def advanceRq : Nat → Qp → Qp
  | 0, v => v
  | n + 1, v =>
    if v.rxMap.getLsbD 0 then advanceRq n { v with rqBase := v.rqBase + 1, rxMap := v.rxMap >>> 1 } else v

/-- PSNs are marked received. -/
def markPsns (psns : List (BitVec 32)) (v : Qp) : Qp :=
  let near := psns.filter fun p => decide ((p - v.rqBase).toNat < 256)
  advanceRq 256 { v with rxMap := near.foldl (fun m p => m ||| BitVec.ofNat 256 (2 ^ (p - v.rqBase).toNat)) v.rxMap }

/-- Path and marks of an accepted packet (R177, R186). -/
def notePath (p : RxPkt) (v : Qp) : Qp :=
  let b := BitVec.ofNat 16 (2 ^ p.path)
  { v with rxPathSeen := v.rxPathSeen ||| b, rxPathCe := if p.ce then v.rxPathCe ||| b else v.rxPathCe }

/-- An accepted packet waits for its commit; the ACK_EVERY-th draws an ACK at once, the first starts the delay (R178). -/
def accept (q : Nat) (p : RxPkt) (o : RxOpen) (s : State) : State :=
  let v := notePath p (qpOf s q)
  let v := markPsns o.psns { v with opened := v.opened ++ [o], rxSinceAck := v.rxSinceAck + 1 }
  let v := if v.tAck.isNone then { v with tAck := some (afterUs (qpTime s q) s.sht.ackDelayUs.toNat) } else v
  let s := setQp q v s
  if v.rxSinceAck ≥ s.sht.ackEvery.toNat then sendAck q s else s

def openOf (p : RxPkt) (psns : List (BitVec 32)) (key : Nat) : RxOpen :=
  { psns := psns, flag := bit p.h.flags 0, ack := bit p.h.flags 1, key := key, msgId := p.h.msgId, send := p.h.opc == 4,
    bytes := p.h.len, write := none, ext := p.ext }

/-! ## SEND messages (R146) -/

/-- Every byte of the message has committed or been abandoned. -/
def whole (m : RxMsg) : Bool := m.parts != 0 && decide (m.len ≤ m.got)

/-- RECVs complete in message order. -/
def tellMsgs (q : Nat) : List RxMsg → State → List RxMsg × State
  | [], s => ([], s)
  | m :: r, s =>
    if m.told then
      let (r, s) := tellMsgs q r s
      (if whole m then r else m :: r, s)
    else
      match m.done with
      | some (st, res) =>
        let (r, s) := tellMsgs q r (endRecv q m.recv st res s)
        (if whole m then r else { m with told := true } :: r, s)
      | none => (m :: r, s)

def drainMsgs (q : Nat) (s : State) : State :=
  let (ms, s) := tellMsgs q (qpOf s q).msgs s
  modQp q (fun v => { v with msgs := ms }) s

/-- A packet of a message with so many payload bytes has committed. -/
def msgPart (q msgId n : Nat) (s : State) : State :=
  let step (m : RxMsg) : RxMsg :=
    let m := { m with got := m.got + n, parts := m.parts + 1 }
    if whole m ∧ m.done.isNone then
      { m with done := some (match m.failed with | some st => (st, []) | none => (.ok, [m.len, m.msgId])) }
    else m
  drainMsgs q (modQp q (fun v => { v with msgs := v.msgs.map fun m => if m.msgId = msgId then step m else m }) s)

/-- A refused packet of a message is abandoned (R521): its bytes are those it had when it was refused, or with none seen those that the
QP's MTU gives a packet of its offset. -/
def msgAbandoned (q : Nat) (h : ShtHdr) (s : State) : State :=
  match (qpOf s q).msgs.find? fun m => m.msgId == h.msgId with
  | none => s
  | some m => msgPart q h.msgId (((m.refused.find? fun r => r.1 == h.psn).map (·.2)).getD (min (qpMtu (qpOf s q)) (m.len - h.offset))) s

/-- A packet of a message, of `n` bytes, is refused, which fails its RECV where the message fits it. -/
def refuseSend (q : Nat) (psn : BitVec 32) (n : Nat) (m : RxMsg) (st : Status) (s : State) : State :=
  let note (x : RxMsg) : RxMsg :=
    if x.msgId ≠ m.msgId then x
    else { x with failed := some (x.failed.getD st), refused := x.refused.filter (fun r => r.1 != psn) ++ [(psn, n)] }
  refuseRecv q psn st (some m.recv.cmd) (modQp q (fun v => { v with msgs := v.msgs.map note }) s)

/-- A packet of a bound message lands in the message's RECV. -/
def landSend (q : Nat) (p : RxPkt) (m : RxMsg) (s : State) : State :=
  let off := p.h.offset
  if m.bad ∨ off + p.h.len > m.recv.len then refuseSend q p.h.psn p.h.len m .bounds s
  else
    let s := keyChecked q m.recv.lkey s
    let (s', e) :=
      match qpKeyCheck s q m.recv.lkey .lWrite (m.recv.loff + off) p.h.len with
      | (.ok, ctx, va) => vaWrite (qpLookup s q ctx true) va p.payload p.ext s
      | (st, _, _) => (s, .fail st)
    match e with
    | .ok => accept q p { openOf p [p.h.psn] m.recv.lkey with waits := newWrites s s' } s'
    | .faulted => sendNak q p.h.psn .retryLater s'
    | .fail st => refuseSend q p.h.psn p.h.len m st s'

/-- A message whose lower PSNs have all been received takes the oldest posted RECV, or its packets are answered with
RETRY_LATER. -/
def bindMsg (q : Nat) (w : RxPend) (ps : List RxPkt) (s : State) : State :=
  let s := modQp q (fun v => { v with pend := v.pend.filter fun x => x.msgId != w.msgId }) s
  match (qpOf s q).recvs with
  | [] => ps.foldl (fun s p => sendNak q p.h.psn .retryLater s) s
  | r :: rest =>
    let len := ((ps[0]?).map fun p => p.h.aux2).getD 0
    let bad := decide (len > r.len)
    let m : RxMsg := { msgId := w.msgId, recv := r, len := len, bad := bad, failed := none,
                       done := if bad then some (.bounds, [len]) else none, told := false }
    let s := modQp q (fun v => { v with recvs := rest, msgs := v.msgs ++ [m] }) s
    drainMsgs q (ps.foldl (fun s p => landSend q p m s) s)

/-- The packets of a pending message, opened again. -/
def pendPkts (s : State) (q : Nat) (w : RxPend) : List RxPkt :=
  w.frames.filterMap fun f =>
    match readPacket s w.port f.2 [] with
    | some (p, _) => (openPacket s (qpOf s q) p).map fun d => { p with payload := d }
    | none => none

/-- The lowest PSN of a message's waiting packets. -/
def lowPsn (w : RxPend) : BitVec 32 :=
  w.frames.foldl (fun b f => if psnDiff f.1 b < 0 then f.1 else b) ((w.frames.head?.map (·.1)).getD 0)

/-- Binds messages in PSN order as far as RQ_BASE has come: every packet below the lowest waiting one has then been received, so that
no earlier message is still to come. -/
def bindReady (q : Nat) : Nat → State → State
  | 0, s => s
  | n + 1, s =>
    let v := qpOf s q
    let low := v.pend.foldl (fun (b : Option RxPend) w => match b with
      | some x => if psnDiff (lowPsn w) (lowPsn x) < 0 then some w else some x
      | none => some w) none
    match low with
    | some w => if psnDiff (lowPsn w) v.rqBase > 0 then s else bindReady q n (bindMsg q w (pendPkts s q w) s)
    | none => s

/-- A packet of an unbound message waits, unaccepted, until every PSN below those that wait with it has been received. -/
def holdSend (q : Nat) (p : RxPkt) (s : State) : State :=
  let add (w : RxPend) : RxPend :=
    if w.msgId = p.h.msgId then
      { w with frames := w.frames.filter (fun f => f.1 != p.h.psn) ++ [(p.h.psn, p.frame)] }
    else w
  modQp q (fun v =>
    if v.pend.any fun w => w.msgId == p.h.msgId then { v with pend := v.pend.map add }
    else { v with pend := v.pend ++
      [{ msgId := p.h.msgId, frames := [(p.h.psn, p.frame)], port := p.port }] }) s

def onSend (q : Nat) (p : RxPkt) (s : State) : State :=
  match (qpOf s q).msgs.find? fun m => m.msgId == p.h.msgId with
  | some m => landSend q p m s
  | none => holdSend q p s

/-! ## WRITE, READ_REQ and atomics -/

/-- A remote access that page-faults is answered with RETRY_LATER (R89); one whose writes are on their way to an accelerator waits for
them before it commits (R150). -/
def afterXfer (q : Nat) (p : RxPkt) (o : RxOpen) (e : XferEnd) (s : State) : State :=
  match e with
  | .ok => accept q p o s
  | .faulted => sendNak q p.h.psn .retryLater s
  | .fail st => refuse q p.h.psn st s

/-- A WRITE: a FLAG packet's data waits for its commit (R152). -/
def onWrite (q : Nat) (p : RxPkt) (s : State) : State :=
  let s := keyChecked q p.h.key s
  match qpKeyCheck s q p.h.key .rWrite p.h.offset p.h.len with
  | (.ok, ctx, va) =>
    let r := qpLookup s q ctx true
    if bit p.h.flags 0 then
      let (s, e) := vaCheck { r with access := .write } va p.h.len p.ext s
      afterXfer q p { openOf p [p.h.psn] p.h.key with write := some (ctx, va, p.payload) } e s
    else
      let (s', e) := vaWrite r va p.payload p.ext s
      afterXfer q p { openOf p [p.h.psn] p.h.key with waits := newWrites s s' } e s'
  | (st, _, _) => refuse q p.h.psn st s

/-- PSNs of a READ_REQ: one per response, by the responder's own MTU (R157). -/
def reqPsns (v : Qp) (h : ShtHdr) : List (BitVec 32) :=
  (List.range (max 1 (ceilDiv h.aux2 (qpMtu v)))).map fun i => h.psn + BitVec.ofNat 32 i

/-- The responses of a READ_REQ go in line. -/
def queueResponses (h : ShtHdr) (data : List Byte) (v : Qp) : Qp :=
  let mtu := qpMtu v
  { v with queue := v.queue ++ (reqPsns v h).zipIdx.map fun x =>
      .resp x.1 3 h.msgId (x.2 * mtu) (slice data (x.2 * mtu) (min mtu (data.length - x.2 * mtu))) }

/-- A READ_REQ is executed; `fresh` is false for a duplicate (R173). -/
def onReadReq (q : Nat) (p : RxPkt) (fresh : Bool) (s : State) : State :=
  let s := keyChecked q p.h.key s
  match qpKeyCheck s q p.h.key .rRead p.h.offset p.h.aux2 with
  | (.ok, ctx, va) =>
    match vaRead (qpLookup s q ctx true) va p.h.aux2 p.ext s with
    | (s, .ok, bs) =>
      let s := modQp q (queueResponses p.h bs) s
      if fresh then accept q p (openOf p (reqPsns (qpOf s q) p.h) p.h.key) s else s
    | (s, .faulted, _) => sendNak q p.h.psn .retryLater s
    | (s, .fail st, _) => refuse q p.h.psn st s
  | (st, _, _) => refuse q p.h.psn st s

/-- The lowest free atomic record block (R197). DESIGN CHOICE: the spec does not say which free block is taken, nor where in granule 1
the blocks lie. -/
def freeBlock (s : State) : Option Nat := (List.range 131072).find? fun b => b != 0 && !s.sht.blocks.contains b

/-- The QP has an atomic record block, or one is free for it. -/
def blockFor (s : State) (q : Nat) : Bool := (qpOf s q).atomicBlock != 0 || (freeBlock s).isSome

/-- The QP takes a block with the first atomic it accepts. -/
def takeBlock (q : Nat) (s : State) : State :=
  match (qpOf s q).atomicBlock, freeBlock s with
  | 0, some b =>
    modQp q (fun v => { v with atomicBlock := b }) { s with sht := { s.sht with blocks := s.sht.blocks ++ [b] } }
  | _, _ => s

/-- An executed atomic is recorded at PSN mod 16, over what stood there. -/
def recordAtomic (q : Nat) (psn : BitVec 32) (prior : Nat) (s : State) : State :=
  modQp q (fun v => { v with atoms := tset none v.atoms (psn.toNat % 16) (some { psn := psn, prior := prior }) }) (takeBlock q s)

/-- No block is free (R197). -/
def notePool (s : State) : State := { s with sht := { s.sht with atomicPoolSeen := true } }

/-- The response of an atomic goes in line. -/
def queueAtomicResp (h : ShtHdr) (prior : Nat) (v : Qp) : Qp :=
  { v with queue := v.queue ++ [.resp h.psn 7 h.msgId 0 (leBytes 8 prior)] }

/-- An atomic is executed and recorded (R147, R148, R197). -/
def onAtomic (q : Nat) (p : RxPkt) (s : State) : State :=
  let s := keyChecked q p.h.key s
  match qpKeyCheck s q p.h.key .rAtomic p.h.offset 8 with
  | (.ok, ctx, va) =>
    if p.h.offset % 8 ≠ 0 ∨ va % 2 ^ 21 + 8 > 2 ^ 21 then refuse q p.h.psn .bounds s
    else
      match pagePa { qpLookup s q ctx true with access := .atomic } va 8 p.ext s with
      | (s, .error e) => afterXfer q p (openOf p [p.h.psn] p.h.key) e s
      | (s, .ok (pa, _)) =>
        if !blockFor s q then sendNak q p.h.psn .retryLater (notePool s)
        else
          let a := fieldLE p.payload 0 8
          let (op, operand, cmp) := if p.h.opc = 5 then (AtomOp.add, a, 0) else (.cmpSwap, fieldLE p.payload 8 8, a)
          match memAtomicAt (serving s q) (qpPart s q) ctx pa op operand cmp p.ext s with
          | (s, .ok, prior) =>
            let s := modQp q (queueAtomicResp p.h prior) (recordAtomic q p.h.psn prior s)
            accept q p (openOf p [p.h.psn] p.h.key) s
          | (s, st, _) => refuse q p.h.psn st s
  | (st, _, _) => refuse q p.h.psn st s

/-! ## The receive window (R172, R173) -/

/-- A duplicate (R173). -/
def onDuplicate (q : Nat) (p : RxPkt) (s : State) : State :=
  let v := qpOf s q
  if isAbandon p.h then sendAck q s
  else if p.h.opc = 5 ∨ p.h.opc = 6 then
    match tget none v.atoms (p.h.psn.toNat % 16) with
    | some r => if r.psn = p.h.psn then setQp q (queueAtomicResp p.h r.prior v) s else s
    | none => s
  else if p.h.opc = 2 then onReadReq q p false s
  else sendAck q s

/-- An abandon packet marks its PSNs accepted and committed, executes nothing and is acknowledged (R521). -/
def onAbandon (q : Nat) (p : RxPkt) (s : State) : State :=
  let v := qpOf s q
  let psns := if p.h.opc = 2 then reqPsns v p.h else [p.h.psn]
  let v := markPsns psns (notePath p v)
  let s := setQp q { v with rxSinceAck := v.rxSinceAck + 1 } s
  let s := if p.h.opc = 4 then msgAbandoned q p.h s else s
  sendAck q s

/-- A request packet is classed by the window, then `fresh` takes it. A held QP answers RETRY_LATER (R134). -/
def onRequest (fresh : Nat → RxPkt → State → State) (q : Nat) (p : RxPkt) (s : State) : State :=
  let v := qpOf s q
  let d := psnDiff p.h.psn v.rqBase
  if d < 0 ∨ (d < 256 ∧ v.rxMap.getLsbD d.toNat) then onDuplicate q p s
  else if d ≥ 256 ∨ (p.h.opc = 2 ∧ d + (reqPsns v p.h).length > 256) then countRxDrop false s
  else if qpPuts s q then sendNak q p.h.psn .retryLater s
  else if isAbandon p.h then bindReady q 256 (onAbandon q p s)
  else bindReady q 256 (fresh q p s)

/-! ## UD (R132, R146) -/

/-- A datagram lands in a posted RECV, or is discarded and counted. One with `ABANDON`, which executes nothing, is discarded. -/
def onUd (q : Nat) (p : RxPkt) (s : State) : State :=
  match (qpOf s q).recvs with
  | [] => countRxDrop false s
  | r :: rest =>
    if isAbandon p.h || decide (p.h.len > r.len) || qpPuts s q then countRxDrop false s
    else
      let (s, e) :=
        let s := keyChecked q r.lkey s
        match qpKeyCheck s q r.lkey .lWrite r.loff p.h.len with
        | (.ok, ctx, va) => vaWrite (qpLookup s q ctx true) va p.payload p.ext s
        | (st, _, _) => (s, .fail st)
      match e with
      | .faulted => countRxDrop false s
      | .ok =>
        endRecv q r .ok [p.h.len, p.h.msgId, p.h.aux2] (countCommit q p.h.len (modQp q (fun v => { v with recvs := rest }) s))
      | .fail st => endRecv q r st [] (modQp q (fun v => { v with recvs := rest }) s)

/-! ## PACKET_COMMIT (R150, R152) -/

/-- A held packet whose write is refused is not marked: the window goes back to its PSN (R521). -/
def unmark (psn : BitVec 32) (v : Qp) : Qp :=
  let k := (v.rqBase - psn).toNat
  if psnDiff psn v.rqBase < 0 then
    let map := (v.rxMap <<< k) ||| (BitVec.allOnes 256 >>> (256 - k))
    { v with rqBase := psn, rxMap := map &&& ~~~(1 : BitVec 256) }
  else { v with rxMap := v.rxMap &&& ~~~(BitVec.ofNat 256 (2 ^ (psn - v.rqBase).toNat)) }

/-- A FLAG packet's data is written at its commit. -/
def writeFlag (q : Nat) (o : RxOpen) (ext : List ExtRead) (s : State) : State × XferEnd :=
  match o.write with
  | none => (s, .ok)
  | some (ctx, va, bs) => vaWrite (qpLookup s q ctx true) va bs (ext ++ o.ext) s

/-- A packet whose writes are visible commits: its message advances, and the ACK it draws is sent. -/
def commitOpen (q : Nat) (o : RxOpen) (s : State) : State :=
  let s := countCommit q o.bytes (modQp q (fun v => { v with opened := v.opened.erase o }) s)
  let s := if o.send then msgPart q o.msgId o.bytes s else s
  if o.ack then sendAck q s else s

/-- A write of an accepted packet has failed: the packet is refused, and with it the message it is part of. -/
def refuseOpen (q : Nat) (o : RxOpen) (psn : BitVec 32) (st : Status) (s : State) : State :=
  let s := modQp q (fun v => unmark psn { v with opened := v.opened.erase o }) s
  match o.send, (qpOf s q).msgs.find? fun m => m.msgId == o.msgId with
  | true, some m => refuseSend q psn o.bytes m st s
  | _, _ => refuse q psn st s

/-- The accepted packet of a PSN commits once every write of it has been accepted, an accelerator's by the port's acknowledgement
(R150). A FLAG packet's data is written when every lower PSN has committed (R152). -/
def commitPacket (q : Nat) (psn : BitVec 32) (ext : List ExtRead) (s : State) : State :=
  let v := qpOf s q
  match v.opened.find? fun o => o.psns.contains psn with
  | none => s
  | some o =>
    if !o.waits.isEmpty || (o.flag && commitBase v != psn) then s
    else if o.fault.isSome then refuseOpen q o psn (o.fault.getD .ok) s
    else
      match writeFlag q o ext s with
      | (s', .ok) =>
        if newWrites s s' = [] then commitOpen q o s'
        else
          let sent := { o with write := none, waits := newWrites s s' }
          modQp q (fun v => { v with opened := v.opened.map fun x => if x = o then sent else x }) s'
      | (s, .faulted) => sendNak q psn .retryLater (modQp q (fun v => unmark psn { v with opened := v.opened.erase o }) s)
      | (s, .fail st) => refuseOpen q o psn st s

/-- ACK_DELAY_EXPIRY (R178): the ACK that is due is sent. -/
def ackDelay (q : Nat) (send : State → State) (s : State) : State :=
  match (qpOf s q).tAck with
  | some t => if passed (qpTime s q) t then send s else s
  | none => s

end Sys2Proof.Machine
end

