-- ==== Sys2Proof/Machine/ReedBase.lean ====
section
/-! DEFINITION. Communicators, the shape of an operation (R208, R213 to R216, R245), slots (R217 to R219), and how operations
and communicators end (R202, R211, R222, R224, R225). -/

namespace Sys2Proof.Machine

def commOf (s : State) (k : Nat) : Comm := tget {} s.red.comm k
def setComm (k : Nat) (c : Comm) (s : State) : State := { s with red := { s.red with comm := tset {} s.red.comm k c } }
def modComm (k : Nat) (f : Comm → Comm) (s : State) : State := setComm k (f (commOf s k)) s

def findRedOp (s : State) (k : Nat) (os : BitVec 32) : Option RedOp := (commOf s k).ops.find? fun o => o.opseq == os
def setRedOp (k : Nat) (o : RedOp) (s : State) : State :=
  modComm k (fun c => { c with ops := c.ops.map fun x => if x.opseq = o.opseq then o else x }) s

/-- The Reed engine numbered 4 d + e. -/
def engineUnit (e : Nat) : Nat := reed e
def engineDie (e : Nat) : Nat := e / 4

/-- The processor that owns a slot (R200). -/
def commOwner (s : State) (k : Nat) : Nat := objectUnit s k

def members (c : Comm) : Nat := c.membersM1 + 1

/-! ## The shape of an operation -/

/-- The operation combines contributions (R208). -/
def reduces (code : Nat) : Bool := code == 0x0410 || code == 0x0411 || code == 0x0413

/-- Exact partials are kept: max and min work in fast mode (R242). -/
def exactly (o : RedOp) : Bool := o.exact && reduces o.code && (o.oper == 0 || o.oper == 3)

/-- The input format; bytes where the operation does not reduce. -/
def opFmt (o : RedOp) : RedFmt := if reduces o.code then fmtOf o.inFmt else rawFmt

/-- A wire format is in effect (R246). -/
def wired (c : Comm) (o : RedOp) : Bool := reduces o.code && o.wire != 0 && decide (members c > 1)

/-- The form in which picks travel between members (R245). -/
def pushFmt (c : Comm) (o : RedOp) : RedFmt :=
  if exactly o then exactFmt else if wired c o then fmtOf o.wire else opFmt o

/-- Bytes of the vector that the picks cut (R208, R214). -/
def vectorLen (c : Comm) (o : RedOp) : Nat := if o.code = 0x0412 then members c * o.len else o.len

/-- Bytes of a chunk: the whole vector for a star or a tree, a block of ALL_GATHER or ALL_TO_ALL, else ⌈LENGTH / 64 N⌉ × 64,
with the page in place of 64 where the input is in pages (R214, R215, R233). -/
def chunkLen (c : Comm) (o : RedOp) : Nat :=
  let n := members c
  let g := if (opFmt o).unit = 4096 then 4096 else 64
  if o.algo = 1 ∨ o.algo = 3 then max 1 (vectorLen c o)
  else if o.code = 0x0412 then max 1 o.len
  else if o.code = 0x0415 then max 1 (o.len / n)
  else max g (ceilDiv o.len (g * n) * g)

def pickSize (c : Comm) : Nat := 2 ^ c.pickLog2

/-- Picks of a whole chunk. -/
def chunkPicks (c : Comm) (o : RedOp) : Nat := ceilDiv (chunkLen c o) (pickSize c)

/-- Picks of the operation's vector (R215). -/
def pickCount (c : Comm) (o : RedOp) : Nat :=
  let v := vectorLen c o
  v / chunkLen c o * chunkPicks c o + ceilDiv (v % chunkLen c o) (pickSize c)

/-- The chunk a pick lies in, its first byte in the vector, and its bytes. -/
def pickChunk (c : Comm) (o : RedOp) (k : Nat) : Nat := k / chunkPicks c o
def pickStart (c : Comm) (o : RedOp) (k : Nat) : Nat :=
  pickChunk c o k * chunkLen c o + k % chunkPicks c o * pickSize c
def pickBytes (c : Comm) (o : RedOp) (k : Nat) : Nat :=
  min (pickStart c o k + pickSize c) (min ((pickChunk c o k + 1) * chunkLen c o) (vectorLen c o)) - pickStart c o k

/-- Elements of a pick, and the number of its first element in the input vector. -/
def pickElems (c : Comm) (o : RedOp) (k : Nat) : Nat := (opFmt o).elems (pickBytes c o k)
def pickElem0 (c : Comm) (o : RedOp) (k : Nat) : Nat := (opFmt o).elems (pickStart c o k)

/-- The pushed form is laid out in pages of its own (R245). -/
def paged (c : Comm) (o : RedOp) : Bool := exactly o || wired c o

def formBytes (c : Comm) (o : RedOp) (bytes : Nat) : Nat := (pushFmt c o).bytes ((opFmt o).elems bytes)

/-- A pick's bytes in the pushed form. -/
def formLen (c : Comm) (o : RedOp) (k : Nat) : Nat :=
  if paged c o then formBytes c o (pickBytes c o k) else pickBytes c o k

/-- Bytes of a chunk in the pushed form. -/
def chunkForm (c : Comm) (o : RedOp) (len : Nat) : Nat :=
  len / pickSize c * formBytes c o (pickSize c) + (if len % pickSize c = 0 then 0 else formBytes c o (len % pickSize c))

/-- A pick's offset in the pushed form (R245). -/
def formStart (c : Comm) (o : RedOp) (k : Nat) : Nat :=
  if paged c o then
    pickChunk c o k * chunkForm c o (chunkLen c o) + k % chunkPicks c o * formBytes c o (pickSize c)
  else pickStart c o k

/-- The pick an offset of the pushed form lies in. -/
def pickAt (c : Comm) (o : RedOp) (off : Nat) : Nat :=
  let (chunk, size) :=
    if paged c o then (chunkForm c o (chunkLen c o), formBytes c o (pickSize c)) else (chunkLen c o, pickSize c)
  off / max 1 chunk * chunkPicks c o + min (off % max 1 chunk / max 1 size) (chunkPicks c o - 1)

/-- Bytes of the whole vector in the exact-partial form: 4 096 P (R244). -/
def exactTotal (c : Comm) (o : RedOp) : Nat :=
  let v := vectorLen c o
  v / chunkLen c o * chunkForm c o (chunkLen c o) + chunkForm c o (v % chunkLen c o)

/-! ## Roles (R213, R214) -/

/-- What a member does with a pick: whether it works the star, from whom partials come, from whom the final pick comes, whom a
partial and whom a final pick is pushed to, whether it produces the final pick, and writes it out. -/
structure RedPlan where
  star : Bool := true
  red : List Nat := []
  fin : Option Nat := none
  up : List Nat := []
  down : List Nat := []
  prod : Bool := false
  out : Bool := true
  deriving DecidableEq, Repr

def otherRanks (n r : Nat) : List Nat := (List.range n).filter (· != r)

/-- The rank at a position of a tree, and the position of a rank: tree B where `b`; REDUCE and BROADCAST count from the
root. -/
def treeRank (n root : Nat) (rooted b : Bool) (p : Nat) : Nat :=
  if rooted then (if b then root + n - p else root + p) % n else if b then n - 1 - p else p

def treePlan (c : Comm) (o : RedOp) (k : Nat) : RedPlan :=
  let n := members c
  let b := k % 2 == 1
  let rooted := o.code != 0x0410
  let pos := if rooted then (if b then o.root + n - c.rank else c.rank + n - o.root) % n else if b then n - 1 - c.rank else c.rank
  let rank (p : Nat) : Nat := treeRank n o.root rooted b p
  let parent := rank ((pos - 1) / 2)
  let kids := ([2 * pos + 1, 2 * pos + 2].filter (fun p => decide (p < n))).map rank
  let top := pos == 0
  if o.code = 0x0414 then
    { star := top, prod := top, fin := if top then none else some parent, down := kids }
  else if o.code = 0x0413 then
    { red := kids, prod := top, up := if top then [] else [parent], out := top }
  else
    { red := kids, prod := top, up := if top then [] else [parent], fin := if top then none else some parent, down := kids }

def ringPlan (c : Comm) (o : RedOp) (k : Nat) : RedPlan :=
  let n := members c
  let r := c.rank
  let own := pickChunk c o k
  let prev := (r + n - 1) % n
  let next := (r + 1) % n
  let mine := r == own
  let fin := if mine then none else some prev
  let down := if next = own then [] else [next]
  if o.code = 0x0412 then { star := mine, prod := mine, fin := fin, down := down }
  else
    let base : RedPlan := { red := if r = (own + 1) % n then [] else [prev], prod := mine, up := if mine then [] else [next],
                            out := mine }
    if o.code = 0x0411 then base else { base with fin := fin, down := down, out := true }

def directPlan (c : Comm) (o : RedOp) (k : Nat) : RedPlan :=
  let n := members c
  let r := c.rank
  let own := pickChunk c o k
  let mine := r == own
  let rest := otherRanks n r
  match o.code with
  | 0x0412 => { star := mine, prod := mine, fin := if mine then none else some own, down := if mine then rest else [] }
  | 0x0414 =>
    let top := r == o.root
    { star := top, prod := top, fin := if top then none else some o.root, down := if top then rest else [] }
  | 0x0415 => { prod := true, fin := if mine then none else some own, down := if mine then [] else [own] }
  | 0x0413 =>
    { red := if mine then rest else [], prod := mine, up := if mine then [] else [own],
      fin := if r = o.root ∧ !mine then some own else none, down := if mine ∧ r ≠ o.root then [o.root] else [],
      out := r == o.root }
  | 0x0411 => { red := if mine then rest else [], prod := mine, up := if mine then [] else [own], out := mine }
  | _ =>
    { red := if mine then rest else [], prod := mine, up := if mine then [] else [own],
      fin := if mine then none else some own, down := if mine then rest else [] }

def redPlan (c : Comm) (o : RedOp) (k : Nat) : RedPlan :=
  if members c = 1 ∨ o.algo = 1 then { prod := true }
  else if o.algo = 2 then ringPlan c o k
  else if o.algo = 3 then treePlan c o k
  else directPlan c o k

/-- The stages of a pick's work at this member. A reduction that has nothing to come from others needs no stage 1. -/
def planStages (p : RedPlan) : List Nat :=
  (if p.star then [0] else []) ++ (if p.red = [] then [] else [1]) ++ (if p.fin.isSome then [2] else [])

/-- The star's own contributions: the device-side input and, where the operation reduces, the accelerators. -/
def localSources (c : Comm) (o : RedOp) : List RedSrc :=
  (if o.inVa = 0 then [] else [.inVa]) ++
    (if reduces o.code then ((List.range 8).filter c.accel.getLsbD).map .acc else [])

/-- What a stage combines. -/
def stageSources (c : Comm) (o : RedOp) (k stage : Nat) : List RedSrc :=
  let p := redPlan c o k
  if stage = 0 then localSources c o
  else if stage = 1 then .work :: p.red.map .rank
  else (p.fin.map RedSrc.rank).toList

/-- The format a source's bytes come in. -/
def srcFmt (c : Comm) (o : RedOp) (src : RedSrc) : RedFmt :=
  match src with
  | .inVa | .acc _ => opFmt o
  | .rank _ => pushFmt c o
  | .work => if exactly o then exactFmt else opFmt o

/-- A stage moves a pick's bytes and reduces nothing: a final pick received, or an operation that does not reduce. -/
def movesBytes (o : RedOp) (stage : Nat) : Bool := stage == 2 || !reduces o.code

/-- Elements of a segment (R216). -/
def segSize (o : RedOp) (stage : Nat) : Nat :=
  if movesBytes o stage then 262144 else if exactly o then 6553 else 65536

/-- What a stage counts in segments: bytes of its form, or elements. -/
def stageSize (c : Comm) (o : RedOp) (k stage : Nat) : Nat :=
  if movesBytes o stage then (if stage = 2 then formLen c o k else pickBytes c o k) else pickElems c o k

def segCount (c : Comm) (o : RedOp) (k stage : Nat) : Nat := ceilDiv (stageSize c o k stage) (segSize o stage)

/-- The first byte, in the sender's vector, of a pick this member is pushed: a block of ALL_TO_ALL lies at this member's own
place there (R208). -/
def senderStart (c : Comm) (o : RedOp) (k : Nat) : Nat :=
  if o.code = 0x0415 then c.rank * chunkLen c o + k % chunkPicks c o * pickSize c else pickStart c o k

/-- A pick's first byte among the offsets of a source's form: those of the check blocks (R249) and of the receipt units
(R254). -/
def srcStart (c : Comm) (o : RedOp) (k : Nat) (src : RedSrc) : Nat :=
  match src with
  | .rank _ => if paged c o then formStart c o k else senderStart c o k
  | .work => if exactly o then formStart c o k else pickStart c o k
  | .inVa => if o.code = 0x0412 then pickStart c o k - c.rank * o.len else pickStart c o k
  | .acc _ => pickStart c o k

/-- Bytes of a source's form for a pick. -/
def srcBytes (c : Comm) (o : RedOp) (k : Nat) (src : RedSrc) : Nat :=
  match src with
  | .rank _ => formLen c o k
  | .work => if exactly o then formLen c o k else pickBytes c o k
  | _ => pickBytes c o k

/-- The segments that a range of a source's bytes touches. -/
def segsOf (c : Comm) (o : RedOp) (k stage : Nat) (src : RedSrc) (off n : Nat) : List Nat :=
  let f := srcFmt c o src
  let (lo, hi) :=
    if movesBytes o stage then (off, off + n)
    else (off / f.unit * f.per, min (ceilDiv (off + n) f.unit * f.per) (pickElems c o k))
  let a := lo / segSize o stage
  let b := ceilDiv hi (segSize o stage)
  (List.range (b - a)).map (a + ·)

/-- The engine a pick is worked by (R215). -/
def pickEngine (o : RedOp) (k : Nat) : Option Nat := o.engines[k % max 1 o.engines.length]?

/-! ## Runs -/

def runOf (c : Comm) (o : RedOp) (k stage : Nat) : RedRun :=
  (o.runs.find? fun r => r.pick == k && r.stage == stage).getD
    { pick := k, stage := stage, ins := (stageSources c o k stage).map fun x => { src := x } }

def setRun (r : RedRun) (o : RedOp) : RedOp :=
  { o with runs := o.runs.filter (fun x => !(x.pick == r.pick && x.stage == r.stage)) ++ [r] }

def dropRun (k stage : Nat) (o : RedOp) : RedOp :=
  { o with runs := o.runs.filter fun x => !(x.pick == k && x.stage == stage) }

def stageDone (o : RedOp) (k stage : Nat) : Bool := o.stagesDone.contains (k, stage)

/-- The segment has committed. -/
def segCommitted (c : Comm) (o : RedOp) (k stage seg : Nat) : Bool :=
  stageDone o k stage || (runOf c o k stage).segDone.contains seg

/-- Every byte of a source has come. -/
def srcComplete (c : Comm) (o : RedOp) (k : Nat) (i : RedIn) : Bool :=
  (List.range (srcBytes c o k i.src)).all fun b => (tget none i.got b).isSome

/-- A source's blocks for a pick that have been accepted and wait for the engine. -/
def waitingBlocks (s : State) (k : Nat) (os : BitVec 32) (pick stage : Nat) (src : RedSrc) : List RedBlock :=
  s.red.arrived.filter fun b => b.comm == k && b.opseq == os && b.pick == pick && b.stage == stage && b.src == src

/-- Every byte of a source has been accepted, and no re-request is pending (R220). -/
def srcHere (s : State) (k : Nat) (o : RedOp) (pick stage : Nat) (src : RedSrc) : Bool :=
  let c := commOf s k
  let bs := waitingBlocks s k o.opseq pick stage src
  (runOf c o pick stage).ins.any fun i => i.src == src && !i.recalling &&
    (List.range (srcBytes c o pick src)).all fun b =>
      (tget none i.got b).isSome || bs.any fun x => decide (x.off ≤ b) && decide (b < x.off + x.bytes.length)

/-! ## Slots (R217 to R219) -/

/-- Pool slots in service on a die (R200). -/
def poolSlots (s : State) (d : Nat) : Nat := if inService s (pool d) then 384 else 0

/-- Reserved slots of a die, and of a partition (R207). -/
def reservedOn (s : State) (d : Nat) : Nat :=
  s.red.comm.foldl (fun a e => a + 2 * (e.2.reserved.filter fun x => engineDie x == d).length) 0
def reservedOf (s : State) (p : Nat) : Nat :=
  s.red.comm.foldl (fun a e => if e.2.state ≠ .free ∧ e.2.part = p then a + 2 * e.2.reserved.length else a) 0

def sharedOn (s : State) (d : Nat) : Nat :=
  (s.red.slots.filter fun x => x.kind == .shared && engineDie x.engine == d).length

def slotFor (s : State) (k : Nat) (os : BitVec 32) (pick stage seg : Nat) : Option RedSlot :=
  s.red.slots.find? fun x => x.comm == k && x.opseq == os && x.pick == pick && x.stage == stage && x.seg == seg

def addSlot (x : RedSlot) (s : State) : State := { s with red := { s.red with slots := s.red.slots ++ [x] } }

def dropSlots (p : RedSlot → Bool) (s : State) : State :=
  { s with red := { s.red with slots := s.red.slots.filter fun x => !p x } }

/-- The uncommitted segments of an operation that an engine works, lowest first (R217). -/
def engineSegs (c : Comm) (o : RedOp) (e : Nat) : List (Nat × Nat × Nat) :=
  ((List.range (pickCount c o)).filter fun k => pickEngine o k == some e).flatMap fun k =>
    ((planStages (redPlan c o k)).filter fun g => !stageDone o k g).flatMap fun g =>
      ((List.range (segCount c o k g)).filter fun x => !(runOf c o k g).segDone.contains x).map fun x => (k, g, x)

/-- The oldest operation with work left on an engine, with its two lowest segments. -/
def reservedSegs (c : Comm) (e : Nat) : List (BitVec 32 × Nat × Nat × Nat) :=
  (c.ops.filter fun o => o.done.isNone).foldl (fun a o =>
    if a ≠ [] then a else ((engineSegs c o e).take 2).map fun x => (o.opseq, x)) []

/-- A reserved slot for the segment, where it is one of the lowest two and the engine has one free. -/
def reservedSlot (s : State) (k : Nat) (os : BitVec 32) (e pick stage seg : Nat) : Bool :=
  let c := commOf s k
  c.reserved.contains e && (reservedSegs c e).contains (os, pick, stage, seg) &&
    decide ((s.red.slots.filter fun x => x.comm == k && x.engine == e && x.kind == .reserved).length < 2)

/-- R218: the pool controller grants a shared slot. -/
def sharedFree (s : State) (k e : Nat) : Bool :=
  let d := engineDie e
  decide (sharedOn s d + reservedOn s d < poolSlots s d) &&
    decide ((s.red.slots.filter fun x => x.comm == k && x.kind == .shared && engineDie x.engine == d).length <
      (commOf s k).shareCap)

/-- R219: the first free unit of the spill buffer. -/
def spillUnit (s : State) (k : Nat) : Option Nat :=
  let c := commOf s k
  if c.spillLog2 = 0 then none
  else (List.range (2 ^ (c.spillLog2 - 18))).find? fun u =>
    !(s.red.slots.any fun x => x.comm == k && x.kind == .spill u)

/-- Takes a slot for a segment: reserved, shared or spill; none where there is nothing left. -/
def takeSlot (k : Nat) (os : BitVec 32) (e pick stage seg : Nat) (s : State) : Bool × State :=
  let x (kind : SlotKind) : RedSlot := { comm := k, opseq := os, pick := pick, stage := stage, seg := seg, engine := e, kind := kind }
  if (slotFor s k os pick stage seg).isSome then (true, s)
  else if reservedSlot s k os e pick stage seg then (true, addSlot (x .reserved) s)
  else if sharedFree s k e then
    let d := engineDie e
    let s := bump (pool d) 2 1 (addSlot (x .shared) s)
    (true, { s with red := { s.red with
      sharedPeak := tmod 0 s.red.sharedPeak d fun p => BitVec.ofNat 9 (max p.toNat (sharedOn s d)) } })
  else
    let s := bump (pool (engineDie e)) 3 1 s
    match spillUnit s k with
    | some u =>
      (true, addSlot (x (.spill u)) <| bump (engineUnit e) 8 1 { s with red := { s.red with
        spillSeen := true, spilled := tmod 0 s.red.spilled (engineDie e) satInc } })
    | none => (false, s)

/-! ## Signals to accelerators (R352) -/

/-- A signal about an operation leaves for an accelerator. -/
def redSignal (typ port k : Nat) (os : BitVec 32) (value aux : Nat) (s : State) : State :=
  sendTch port { typ := 4, addr := typ + 2 ^ 8 * k + 2 ^ 32 * os.toNat, value := value, aux := aux } [] s

/-- The accelerator may send a range of its input. -/
def grantRange (typ port k : Nat) (os : BitVec 32) (off n : Nat) (s : State) : State :=
  if n = 0 then s
  else
    redSignal typ port k os off n
      (modAport port (fun a => { a with grants := a.grants ++ [{ comm := k, opseq := os.toNat, offset := off, bytes := n }] }) s)

/-- Bytes of a pick's input that a segment's elements lie in, by whole check blocks. -/
def segRange (c : Comm) (o : RedOp) (k seg : Nat) : Nat × Nat :=
  let f := opFmt o
  let lo := seg * segSize o 0
  let hi := min ((seg + 1) * segSize o 0) (pickElems c o k)
  let a := lo / f.per * f.unit / 4096 * 4096
  let b := min (ceilDiv (ceilDiv hi f.per * f.unit) 4096 * 4096) (pickBytes c o k)
  (a, b - a)

/-- CREDIT for a segment of the star that has got its slot (R217). An accelerator that has been asked to send the pick again has the
whole of it granted (R353). -/
def creditSeg (k : Nat) (o : RedOp) (pick seg : Nat) (s : State) : State :=
  let c := commOf s k
  if !reduces o.code then s
  else
    let (a, n) := segRange c o pick seg
    let asked (p : Nat) : Bool := (runOf c o pick 0).ins.any fun i => i.src == .acc p && i.recalling
    ((List.range 8).filter fun p => c.accel.getLsbD p && !asked p).foldl (fun s p =>
      grantRange 0x10 p k o.opseq (pickStart c o pick + a) n s) s

/-- A slot for a segment, with the credits that follow a new one of the star. -/
def openSeg (k : Nat) (o : RedOp) (pick stage seg : Nat) (s : State) : Bool × State :=
  match pickEngine o pick with
  | none => (false, s)
  | some e =>
    let had := (slotFor s k o.opseq pick stage seg).isSome
    match takeSlot k o.opseq e pick stage seg s with
    | (true, s) => (true, if had || stage != 0 then s else creditSeg k o pick seg s)
    | r => r

/-- Slots for every segment a range touches. -/
def openSegs (k : Nat) (o : RedOp) (pick stage : Nat) : List Nat → State → Bool × State
  | [], s => (true, s)
  | g :: r, s =>
    match openSeg k o pick stage g s with
    | (true, s) => openSegs k o pick stage r s
    | (false, s) => (false, s)

/-- An engine takes slots for its segments in order, as far as there are any (R217, R218). -/
def fillEngine (k : Nat) (o : RedOp) : List (Nat × Nat × Nat) → State → State
  | [], s => s
  | (p, g, x) :: r, s =>
    match openSeg k o p g x s with
    | (true, s) => fillEngine k o r s
    | (false, s) => s

/-- Slots for what a communicator has to work, oldest operation first. -/
def fillSlots (k : Nat) (s : State) : State :=
  let c := commOf s k
  if c.state ≠ .active then s
  else (c.ops.filter fun o => o.done.isNone).foldl (fun s o =>
    (o.engines.dedup).foldl (fun s e => fillEngine k o (engineSegs c o e) s) s) s

/-! ## How operations end (R211, R222, R225, R253) -/

/-- Output picks of this member. -/
def outPicks (c : Comm) (o : RedOp) : List Nat := (List.range (pickCount c o)).filter fun k => (redPlan c o k).out

/-- Results of a completion: `OPSEQ`, picks, and for a loss the source and the picks committed. -/
def redWords (c : Comm) (o : RedOp) (lost : Option Nat) : List Nat :=
  [o.opseq.toNat, pickCount c o] ++ (match lost with | some w => [w, o.outDone.length] | none => [])

/-- The pick-valid bitmap (R225). -/
def pickMap (c : Comm) (o : RedOp) : List Byte :=
  leBytes (ceilDiv (pickCount c o) 8) (o.outDone.foldl (fun a k => a ||| 2 ^ k) 0)

/-- The skein whose work an operation is, as a translation names it (R88, R91, R210). -/
def redLookup (s : State) (k e : Nat) (o : RedOp) : Lookup :=
  { heddle := engineDie e, holder := engineUnit e, ctx := (commOf s k).ctx, part := (commOf s k).part, va := 0, len := 0,
    access := .read, object := skeinNumber o.cmd.skein, otype := 1, remote := false, op := some (k, o.opseq.toNat) }

/-- RESULT to each accelerator that gets a result, before the completion entry (R353). -/
def sendResults (k : Nat) (o : RedOp) (st : Status) (s : State) : State :=
  let c := commOf s k
  ((List.range 8).filter fun p => c.accel.getLsbD p && o.accOut.getD p 0 != 0).foldl (fun s p =>
    redSignal 0x12 p k o.opseq (statusCode st) (pickCount c o) s) s

/-- The completion of an operation keeps the order of its communicator (R211). -/
def tagDone (r : CmdRef) (k : Nat) (s : State) : State :=
  { s with jcq := { s.jcq with done := s.jcq.done.map fun d => if d.ref = r then { d with comm := some k } else d } }

/-- Completions of a communicator are written in `OPSEQ` order (R211). -/
def flushOps (k : Nat) : List RedOp → State → State
  | [], s => modComm k (fun c => { c with ops := [] }) s
  | o :: r, s =>
    match o.done with
    | none => modComm k (fun c => { c with ops := o :: r }) s
    | some (st, res) =>
      let s := if o.replayed then markReplayed o.cmd s else s
      flushOps k r (tagDone o.cmd k (completeRef o.cmd st res (commOwner s k) (sendResults k o st s)))

/-- What an ended operation held is given back. -/
def dropWork (k : Nat) (os : BitVec 32) (s : State) : State :=
  let s := dropSlots (fun x => x.comm == k && x.opseq == os) s
  let drop (a : APort) : APort :=
    { a with grants := a.grants.filter fun g => !(g.comm == k && g.opseq == os.toNat) }
  let s := { s with red := { s.red with arrived := s.red.arrived.filter fun b => !(b.comm == k && b.opseq == os) } }
  { s with lnk := { s.lnk with aport := (List.range 8).foldl (fun t p => tmod {} t p drop) s.lnk.aport } }

/-- An operation is over, and completes in its turn. What still comes of its pushes counts for their members (R224). -/
def endRedOp (k : Nat) (o : RedOp) (st : Status) (res : List Nat) (s : State) : State :=
  let left := o.pushes.filterMap fun x => x.op.map fun id => (id, x.dest)
  let s := modComm k (fun c => { c with controls := c.controls ++ left }) (dropWork k o.opseq s)
  let s := setRedOp k { o with done := some (st, res), runs := [], pushes := [] } s
  let s := flushOps k (commOf s k).ops s
  fillSlots k s

/-- A failed operation: OK where its outputs have all committed; else its status, with the bitmap at `MAP_VA` (R225). -/
def failRedOp (k : Nat) (o : RedOp) (st : Status) (lost : Nat) (s : State) : State :=
  let c := commOf s k
  if o.outDone ≠ [] ∧ o.outDone.length = (outPicks c o).length then endRedOp k o .ok (redWords c o none) s
  else
    let s :=
      if o.mapVa = 0 then s
      else (vaWrite (redLookup s k ((o.engines[0]?).getD 0) o) o.mapVa (pickMap c o) o.ext s).1
    endRedOp k o st (redWords c o (some lost)) s

/-- R222: everything of the operation at this member is done: every stage has committed, every push has been released, and what was
written is visible (R339). An output whose write failed ends it with that status. -/
def checkRedOp (k : Nat) (os : BitVec 32) (s : State) : State :=
  let c := commOf s k
  match findRedOp s k os with
  | none => s
  | some o =>
    let all := (List.range (pickCount c o)).all fun p => (planStages (redPlan c o p)).all fun g => stageDone o p g
    if o.done.isSome || !o.waits.isEmpty then s
    else
      match o.fault with
      | some st => endRedOp k o st (redWords c o none) s
      | none => if all && (o.pushes.all fun p => p.released) then endRedOp k o .ok (redWords c o none) s else s

/-! ## Loss (R224, R225) -/

/-- The communicator goes to LOST: by a rank or an accelerator, relayed or not, with the status its event carries. -/
def commLost (k : Nat) (rank : Option Nat) (accel : Option Nat) (relayed : Bool) (st : Status) (s : State) : State :=
  let c := commOf s k
  if c.state ≠ .active then s
  else
    let mask := match accel with | some a => BitVec.ofNat 8 (2 ^ a) | none => 0
    let lost := match rank with | some r => r | none => 0x10000 + accel.getD 0
    let c' := { c with state := .lost, lostRank := BitVec.ofNat 16 (rank.getD 0), lostValid := rank.isSome,
                       lostAccel := mask, relayed := relayed }
    let s := setComm k c' { s with red := { s.red with memberLostSeen := true } }
    let s := (c.ops.filter fun o => o.done.isNone).foldl (fun s o => failRedOp k o .memberLost lost s) s
    let info := rank.getD 0 + 2 ^ 16 * mask.toNat + 2 ^ 24 * b2n relayed + 2 ^ 32 * c.epoch.toNat
    report (.event c.part 0x05 st (commOwner s k) (toLocal s 3 c.part k) info) s

end Sys2Proof.Machine
end

