-- ==== Sys2Proof/Machine/CxlEnd.lean ====
section
/-! DEFINITION. How requests on the CXL ports end (R333, R337, R338), and the ports' going down and coming up (R342, R513, R515). -/

namespace Sys2Proof.Machine

/-! ## Completions -/

/-- Operations and packets that waited for a write or read-back that has ended go on; `before` still has them waiting. -/
def writersGoOn (w : Nat × Nat) (before s : State) : State :=
  (redAwaiting before w).foldl (fun s x => checkRedOp x.1 x.2 s)
    ((opsAwaiting before w).foldl (fun s o => resolveOp o.qp o.id s) s)

/-- A request's completion; a read's is kept for the unit that asked, a read-back's makes the writes before it visible or fails them,
and a failed peer access sets its bit (R337, R338). -/
def endCxlReq (r : CxlReq) (st : Status) (bs : List Byte) (s : State) : State :=
  let w := (8 + r.port, r.id)
  let t := if r.readBack then writersGoOn w s (writeEnded w st s) else s
  { t with lnk := { t.lnk with
    cxlReqs := t.lnk.cxlReqs.filter fun x => x.id != r.id
    answers := if r.write || r.readBack then t.lnk.answers
               else t.lnk.answers ++ [{ pa := r.pa, status := st, bytes := bs }]
    p2pErrSeen := t.lnk.p2pErrSeen || (r.peer && st != .ok) } }

/-- CXL_CACHE_COMPLETION: a request to host memory completes back at the device (R333). -/
def cacheCompletion (id : Nat) (st : Status) (bs : List Byte) (s : State) : State :=
  match s.lnk.cxlReqs.find? fun r => r.id == id && !r.peer with
  | some r => endCxlReq r st bs s
  | none => s

def execCxlCacheCompletion (id : Nat) (status : Status) (bytes : List Byte) (s : State) :
    Host.Outcome State Fault Refusal :=
  ends s (cacheCompletion id status bytes s)

/-- PEER_COMPLETION: UR or CA fails a read or read-back with DENIED, a completion timeout with TIMEOUT (R337, R338). -/
def peerCompletion (id : Nat) (e : PeerEnd) (bs : List Byte) (s : State) : State :=
  match s.lnk.cxlReqs.find? fun r => r.id == id && r.peer with
  | some r =>
    match e with
    | .success => endCxlReq r .ok bs s
    | .unsupported | .completerAbort => endCxlReq r .denied [] s
    | .timeout => endCxlReq r .timeout [] s
  | none => s

def execPeerCompletion (id : Nat) (e : PeerEnd) (bytes : List Byte) (s : State) : Host.Outcome State Fault Refusal :=
  ends s (peerCompletion id e bytes s)

/-! ## Link down and up (R328, R342, R513, R515) -/

/-- A host line held modified is lost with its port (R342 step 2). -/
def loseHostLine (x : Nat) (s : State) (line : Nat) : State :=
  record { mkRecord s (cxlPort x) 0x0502 with info0 := line * 64 } { s with lnk := { s.lnk with hostWbLost := true } }

/-- R342: a CXL port goes down. -/
def cxlDown (x : Nat) (s : State) : State :=
  let h := hport s x
  if !h.up then s
  else
    let s := (s.lnk.cxlReqs.filter fun r => r.port == x).foldl (fun s r => endCxlReq r .timeout [] s) s
    let s := h.modified.foldl (loseHostLine x) s
    let s := dropPortLines x s
    setHport x { hport s x with up := false, rate := 0, width := 0, flit256 := false, cacheEn := false, memEn := false,
                                modified := [], downs := satInc h.downs, rasStatus := true }
      { s with lnk := { s.lnk with cxlDownSeen := true } }

def execCxlLinkDown (x : Nat) (s : State) : Host.Outcome State Fault Refusal := ends s (cxlDown x s)

def perstHigh (s : State) (x : Nat) : Bool := if x = 0 then s.pins.perst0N else s.pins.perst1N

/-- A port trains once AVDD and VDD_PL are good and its PERSTx_N is high (R513 step 6), with POR_N released and its die not
known to be absent (R10). -/
def canTrain (s : State) (x : Nat) : Bool :=
  decide (x < 2) && !dieOut s (32 + x) && s.pins.porN && perstHigh s x && s.pins.avddGood && s.pins.vddPlGood

/-- The ports that now meet the conditions start training. -/
def startCxlTraining (s : State) : State :=
  (List.range 2).foldl (fun s x =>
    let h := hport s x
    setHport x { h with training := h.training || (canTrain s x && !h.up) } s) s

/-- A port of a die that has left service goes down and stops training (R10). -/
def dropAbsentPorts (s : State) : State :=
  (List.range 2).foldl (fun s x =>
    if dieOut s (32 + x) then
      let s := cxlDown x s
      setHport x { hport s x with training := false } s
    else s) s

/-- Writes `FRM.DIE_PRESENT`: correlation entries of dies that are clear are no longer valid (R30), and no CXL port of such a die
stays up, but for safe mode, in which CXL.io runs with the link dies in reset (R10, R436). -/
def setPresent (v : BitVec 40) (s : State) : State :=
  let entry (e : Nat × TimeCorr) : Nat × TimeCorr := if v.getLsbD e.1 then e else (e.1, { e.2 with valid := false })
  let s := { s with weft := { s.weft with
    diePresent := v
    corr := (s.weft.corr.map entry).filter fun (e : Nat × TimeCorr) => decide (e.2 ≠ ({} : TimeCorr)) } }
  if s.fw.safeMode then s else dropAbsentPorts s

/-- CXL_LINK_UP: training ends. In 68-byte flit mode the port offers no CXL.mem; below 32 GT/s it runs CXL.io only
(R327, R328). -/
def cxlUp (x rate width : Nat) (flit256 : Bool) (s : State) : State :=
  let h := hport s x
  if !h.training || h.up || dieOut s (32 + x) || rate == 0 || decide (rate > 4) || !(width == 8 || width == 16) then s
  else
    let cache := decide (rate ≥ 3)
    let flit := flit256 && cache
    setHport x { h with up := true, training := false, rate := BitVec.ofNat 3 rate, width := BitVec.ofNat 5 width,
                        flit256 := flit, cacheEn := cache, memEn := flit } s

def execCxlLinkUp (x rate width : Nat) (flit256 : Bool) (s : State) : Host.Outcome State Fault Refusal :=
  ends s (cxlUp x rate width flit256 s)

def setPerst (x : Nat) (high : Bool) (s : State) : State :=
  { s with pins := if x = 0 then { s.pins with perst0N := high } else { s.pins with perst1N := high } }

/-- PERST_ASSERT: the port goes down (R342, R515); while POR_N is low the pin has no effect. -/
def perstAssert (x : Nat) (s : State) : State :=
  let s := setPerst x false s
  if !s.pins.porN then s
  else
    let s := cxlDown x s
    setHport x { hport s x with training := false } s

def execPerstAssert (x : Nat) (s : State) : Host.Outcome State Fault Refusal := ends s (perstAssert x s)

def execPerstDeassert (x : Nat) (s : State) : Host.Outcome State Fault Refusal :=
  ends s (startCxlTraining (setPerst x true s))

end Sys2Proof.Machine
end

