-- ==== Sys2Proof/Machine/ReedPush.lean ====
section
/-! DEFINITION. Pushes between members: sending them, releases and recalls (R205, R221, R222), what arrives (R149, R220,
R353), loss learned from a push (R224), and the replay of a fenced engine's picks (R227). -/

namespace Sys2Proof.Machine

/-! ## Sending -/

def peerOf (c : Comm) (rank : Nat) : Option Peer := c.peers.find? fun p => p.rank == rank

/-- The queue pair a pick's pushes to a peer take (R215). -/
def peerQp (p : Peer) (pick : Nat) : Nat := (p.qps[pick % max 1 p.qps.length]?).getD 0

/-- An operation that has not ended. -/
def liveOp (s : State) (k : Nat) (os : BitVec 32) : Option RedOp := (findRedOp s k os).filter fun o => o.done.isNone

/-- The bytes of a push: from the slot the first time, and read again where it is sent again (R212, R221, R227). DEDUCED: a final
pick and a pick in wire form stand in no work buffer (R222, R247) and an element is quantised once, so their bytes are the ones that
were pushed. -/
def pushBytes (k : Nat) (o : RedOp) (x : RedPush) (ext : List ExtRead) (s : State) : State × XferEnd × List Byte :=
  match x.again, x.src with
  | true, some va =>
    vaRead (redLookup s k ((pickEngine o x.pick).getD 0) o) va x.data.length (ext ++ o.ext) s
  | _, _ => (s, .ok, x.data)

/-- A push leaves on its queue pair; one that takes no operation loses the member (R224). One whose bytes meet a page fault waits. -/
def sendPush (k : Nat) (os : BitVec 32) (p : Peer) (x : RedPush) (ext : List ExtRead) (s : State) : State :=
  match liveOp s k os with
  | none => s
  | some o =>
    let q := peerQp p x.pick
    if (stateRefuses s q false).isSome then commLost k (some p.rank) none false .memberLost s
    else
      match pushBytes k o x ext s with
      | (s, .faulted, _) => s
      | (s, .fail st, _) => endRedOp k o st (redWords (commOf s k) o none) s
      | (s, .ok, bs) =>
        let id := s.sht.nextOp
        let mark (y : RedPush) : RedPush :=
          if y = x then { y with data := bs, op := some id, acked := false, again := false } else y
        setRedOp k { o with pushes := o.pushes.map mark } (addPush q p.comm os.toNat p.key x.roff bs 0 s)

/-- Pushes that wait leave, where their peer entry has been read. -/
def sendWaiting (k : Nat) (ext : List ExtRead) (s : State) : State :=
  (commOf s k).ops.foldl (fun s o =>
    o.pushes.foldl (fun s x =>
      match peerOf (commOf s k) x.dest with
      | some p => if x.op.isNone && !x.acked then sendPush k o.opseq p x ext s else s
      | none => s) s) s

/-- The pushes of an operation that are to be sent again; what comes of those under way still counts for their members. -/
def pushAgain (k : Nat) (o : RedOp) (which : RedPush → Bool) (s : State) : State :=
  let left := (o.pushes.filter which).filterMap fun x => x.op.map fun id => (id, x.dest)
  let again (x : RedPush) : RedPush := if which x then { x with op := none, acked := false, again := true } else x
  setRedOp k { o with pushes := o.pushes.map again } (modComm k (fun c => { c with controls := c.controls ++ left }) s)

/-- A control message about a pick goes to a rank: 1 release, 2 recall (R221). -/
def sendControl (k : Nat) (os : BitVec 32) (rank pick off control : Nat) (s : State) : State :=
  match peerOf (commOf s k) rank with
  | none => s
  | some p =>
    let q := peerQp p pick
    if (stateRefuses s q false).isSome then commLost k (some rank) none false .memberLost s
    else
      let id := s.sht.nextOp
      let s := addPush q p.comm os.toNat p.key (off + (if control = 2 then 2 ^ 47 else 0)) [] control s
      modComm k (fun c => { c with controls := c.controls ++ [(id, rank)] }) s

/-! ## What a push came to (R224) -/

/-- A status that resolves a push with no loss of its member. -/
def pushResolved (st : Status) : Bool :=
  match st with
  | .ok | .bounds | .epochStale | .poison => true
  | _ => false

/-- One of the Reed engines' own pushes has ended. -/
def pushEnded (k id : Nat) (st : Status) (s : State) : State :=
  let c := commOf s k
  let lose (rank : Nat) (s : State) : State :=
    if pushResolved st then s else commLost k (some rank) none (st == .memberLost) .memberLost s
  match c.controls.find? fun x => x.1 == id with
  | some x => lose x.2 (setComm k { c with controls := c.controls.filter fun y => y.1 != id } s)
  | none =>
    match c.ops.find? fun o => o.pushes.any fun x => x.op == some id with
    | none => s
    | some o =>
      let mark (x : RedPush) : RedPush := if x.op = some id then { x with op := none, acked := true } else x
      let rank := ((o.pushes.find? fun x => x.op == some id).map (·.dest)).getD 0
      checkRedOp k o.opseq (lose rank (setRedOp k { o with pushes := o.pushes.map mark } s))

/-- What has become of the engines' pushes reaches their communicators. -/
def reedNotice (s : State) : State :=
  let ended := s.sht.pushDone
  ended.foldl (fun s x =>
    s.red.comm.foldl (fun s c => pushEnded c.1 x.1 x.2 s) s) { s with sht := { s.sht with pushDone := [] } }

/-- A port in `ACCEL_MASK` goes down (R224, R356). -/
def reedAccelDown (port : Nat) (s : State) : State :=
  s.red.comm.foldl (fun s c =>
    if c.2.accel.getLsbD port then commLost c.1 none (some port) false .memberLost s else s) s

/-! ## Receiving (R220, R221) -/

def viewOf (s : State) (k e : Nat) : CommView := tget {} s.red.view (k * 32 + e)

/-- The communicator as an engine knows it (R203). -/
def viewComm (s : State) (k e : Nat) : Comm := (viewOf s k e).old.getD (commOf s k)

/-- What every engine knows of a communicator stays until the change is delivered to it (R203). -/
def keepViews (k : Nat) (s : State) : State :=
  let c := { commOf s k with ops := [] }
  { s with red := { s.red with view := (List.range 32).foldl (fun t e =>
      tmod {} t (k * 32 + e) fun v => { v with old := some (v.old.getD c) }) s.red.view } }

/-- How a push is answered: taken, refused, or put off. -/
inductive PushAnswer where
  | take | refuse (st : Status) | later
  deriving DecidableEq, Repr

/-- Rows 1 to 3 of R220, as the engine knows the communicator. -/
def pushRows13 (s : State) (q k e : Nat) (os : BitVec 32) : Option Status :=
  let c := viewComm s k e
  let v := viewOf s k e
  firstFail [
    (v.state == .free || c.part != qpPart s q || !(c.peers.any fun p => p.qps.contains q), Status.denied),
    (v.state == .lost, .memberLost),
    (decide ((os - v.base).toInt < 0), .epochStale)]

/-- The engine that checks a push: that of its pick. DEDUCED: a push of no operation under way is checked by the communicator's
first engine, or by one that has still to learn that the communicator is gone. -/
def pushEngine (s : State) (k : Nat) (o : Option RedOp) (pick : Nat) : Option Nat :=
  match o, (commOf s k).engines with
  | some o, _ => pickEngine o pick
  | none, e :: _ => some e
  | none, [] => (List.range 32).find? fun e => (viewOf s k e).old.any fun c => c.engines.contains e

/-- A push that fails row 3 is counted (R220, R221). -/
def noteStale (st : Status) (s : State) : State :=
  if st = .epochStale then { s with red := { s.red with stalePush := satInc s.red.stalePush, stalePushSeen := true } } else s

/-- A block of a contribution is accepted, and waits for its engine with its check value (R249, R254). -/
def acceptBlock (k : Nat) (o : RedOp) (pick stage : Nat) (src : RedSrc) (off : Nat) (bytes : List Byte) (s : State) : State :=
  let again := (runOf (commOf s k) o pick stage).ins.any fun i => i.src == src && i.recalling
  { s with red := { s.red with arrived := s.red.arrived ++
    [{ comm := k, opseq := o.opseq, pick := pick, stage := stage, src := src, off := off, bytes := bytes,
       crc := crc32c bytes, again := again }] } }

/-- The rank a push on a queue pair comes from. -/
def pushRank (c : Comm) (q : Nat) : Option Nat := (c.peers.find? fun p => p.qps.contains q).map (·.rank)

/-- The pick and stage a range from a rank is for; none where the rank sends nothing there (R220 row 6). While both a partial
and a final pick come from the rank, the partial comes first. -/
def pushStage (s : State) (k : Nat) (o : RedOp) (rank off n : Nat) : Option (Nat × Nat × Nat) :=
  let c := commOf s k
  let sent := pickAt c o off
  let rel := off - formStart c o sent
  let pick := if o.code = 0x0415 then rank * chunkPicks c o + sent % chunkPicks c o else sent
  let plan := redPlan c o pick
  let fits := decide (rel + n ≤ formLen c o sent) && decide (sent < pickCount c o) &&
    (o.code != 0x0415 || pickChunk c o sent == c.rank)
  let partialDone := stageDone o pick 1 || srcHere s k o pick 1 (.rank rank)
  if !fits then none
  else if plan.red.contains rank && !(partialDone && plan.fin == some rank) then some (pick, 1, rel)
  else if plan.fin = some rank then some (pick, 2, rel)
  else none

/-- Row 7: the contribution is complete and not recalled. -/
def pushComplete (s : State) (k : Nat) (o : RedOp) (pick stage rank : Nat) : Bool :=
  stageDone o pick stage || srcHere s k o pick stage (.rank rank)

/-- The checks of R220 on a push with data. -/
def checkPush (q : Nat) (p : RxPkt) (s : State) : PushAnswer × State :=
  let k := p.h.aux
  let os := BitVec.ofNat 32 p.h.aux2
  let c := commOf s k
  let live := liveOp s k os
  match pushEngine s k live ((live.map fun o => pickAt c o p.h.offset).getD 0) with
  | none => (.refuse (if c.state = .free then .denied else .fenced), s)
  | some e =>
    match pushRows13 s q k e os with
    | some st => (.refuse st, noteStale st s)
    | none =>
      if 0 ≤ (os - (viewComm s k e).next).toInt then (.later, s)
      else
        match live with
        | none => (.refuse .bounds, s)
        | some o =>
          let rank := (pushRank c q).getD 0
          match pushStage s k o rank p.h.offset p.h.len with
          | none => (.refuse .bounds, s)
          | some (pick, stage, rel) =>
            if pushComplete s k o pick stage rank then
              (.refuse .bounds, { s with red := { s.red with dupContribSeen := true } })
            else
              match openSegs k o pick stage (segsOf c o pick stage (.rank rank) rel p.h.len) s with
              | (false, s) => (.later, { s with red := { s.red with pushRetry := satInc s.red.pushRetry } })
              | (true, s) => (.take, acceptBlock k o pick stage (.rank rank) rel p.payload s)

/-- A NAK RETRY_LATER with the Reed engines' hint. -/
def nakPush (q : Nat) (psn : BitVec 32) (s : State) : State :=
  sendCtl q { opc := 0x11, flags := if (qpOf s q).rxPathCe = 0 then 0 else 4, psn := psn, aux := statusCode .retryLater,
              aux2 := s.red.backoffUs.toNat, payload := [] } s

/-- R149: the key, and page rights with `ATOM`; then the communicator's own checks. -/
def onPush (q : Nat) (p : RxPkt) (s : State) : State :=
  let s := keyChecked q p.h.key s
  match qpKeyCheck s q p.h.key .rReduce p.h.offset p.h.len with
  | (.ok, ctx, va) =>
    match vaCheck { qpLookup s q ctx true with access := .atomic } va p.h.len p.ext s with
    | (s, .faulted) => sendNak q p.h.psn .retryLater s
    | (s, .fail st) => refuse q p.h.psn st s
    | (s, .ok) =>
      match checkPush q p s with
      | (.take, s) => accept q p (openOf p [p.h.psn] p.h.key) s
      | (.refuse st, s) => refuse q p.h.psn st s
      | (.later, s) => nakPush q p.h.psn s
  | (st, _, _) => refuse q p.h.psn st s

/-- The effect of a control message from a rank (R221). -/
def takeControl (k : Nat) (o : RedOp) (rank off : Nat) (asks : Bool) (ext : List ExtRead) (s : State) : State :=
  let c := commOf s k
  let mine (x : RedPush) : Bool := x.dest == rank && !x.released && pickStart c o x.pick == off
  if asks then sendWaiting k ext (pushAgain k o mine s)
  else
    match o.pushes.find? mine with
    | none => s
    | some x =>
      let mark (y : RedPush) : RedPush := if y = x then { y with released := true } else y
      checkRedOp k o.opseq (setRedOp k { o with pushes := o.pushes.map mark } s)

/-- A release or a recall arrives: rows 1 to 3 and 5 of R220. -/
def onControl (asks : Bool) (q : Nat) (p : RxPkt) (s : State) : State :=
  let k := p.h.aux
  let os := BitVec.ofNat 32 p.h.aux2
  let off := p.h.offset % 2 ^ 47
  let c := commOf s k
  let live := liveOp s k os
  let s := keyChecked q p.h.key s
  match qpKeyCheck s q p.h.key .rReduce off 0 with
  | (.ok, _, _) =>
    match pushEngine s k live 0 with
    | none => refuse q p.h.psn (if c.state = .free then .denied else .fenced) s
    | some e =>
      match pushRows13 s q k e os with
      | some st => refuse q p.h.psn st (noteStale st s)
      | none =>
        match live with
        | some o => takeControl k o ((pushRank c q).getD 0) off asks p.ext (accept q p (openOf p [p.h.psn] p.h.key) s)
        | none =>
          if 0 ≤ (os - (viewComm s k e).next).toInt then accept q p (openOf p [p.h.psn] p.h.key) s
          else refuse q p.h.psn .bounds s
  | (st, _, _) => refuse q p.h.psn st s

/-! ## Peer entries (R205) -/

/-- The entry of a rank, or the status with which it fails. -/
def readPeer (s : State) (c : Comm) (rank : Nat) (bs : List Byte) : Except Status Peer :=
  let nqp := bits (byteAt bs 2) 0 4
  let qs := (List.range nqp).map fun i => toGlobal s 1 c.part (bits (fieldLE bs (8 + 4 * i) 4) 0 24)
  let fit (q : Option Nat) : Bool :=
    match q with
    | some q => let v := qpOf s q
                v.state == .active && !qpUd v && qpMode v == 0
    | none => false
  if nqp = 0 ∨ nqp > 8 then .error .lenRange
  else if qs.any (·.isNone) then .error .bounds
  else if !qs.all fit then .error .queueDisabled
  else .ok { rank := rank, comm := bits (fieldLE bs 0 2) 0 12, key := fieldLE bs 4 4, qps := qs.filterMap id }

/-- How a peer entry is looked up: for the oldest operation that runs, else for the communicator itself. -/
def peerLookup (s : State) (k e : Nat) : Lookup :=
  let c := commOf s k
  match c.ops.find? (fun o => o.done.isNone) with
  | some o => redLookup s k e o
  | none =>
    { heddle := engineDie e, holder := engineUnit e, ctx := c.ctx, part := c.part, va := 0, len := 0, access := .read,
      object := 0, otype := 2, remote := false }

/-- PEER_ENTRY_READ: the entry of another rank, not yet kept, is read and kept, or the rank is lost. The rank may be needed for an
operation or for a push that has come, so the row alone says when (DEDUCED). -/
def peerEntry (k rank : Nat) (ext : List ExtRead) (s : State) : State :=
  let c := commOf s k
  if c.state ≠ .active ∨ rank = c.rank ∨ rank > c.membersM1 ∨ (peerOf c rank).isSome then s
  else
    match c.engines[0]? with
    | some e =>
      match vaRead (peerLookup s k e) (c.peersVa + 64 * rank) 64 ext s with
      | (s, .faulted, _) => s
      | (s, .fail st, _) => commLost k (some rank) none false st s
      | (s, .ok, bs) =>
        match readPeer s c rank bs with
        | .error st => commLost k (some rank) none false st s
        | .ok p => sendWaiting k ext (modComm k (fun c => { c with peers := c.peers ++ [p] }) s)
    | none => s

/-! ## Replay of a fenced engine (R227, R228) -/

/-- Every contribution of a restarted pick is asked for again. -/
def recallPick (k : Nat) (o : RedOp) (pick stage : Nat) (s : State) : State :=
  let c := commOf s k
  (stageSources c o pick stage).foldl (fun s src => match src with
    | .rank r => sendControl k o.opseq r pick (senderStart c o pick) 2 s
    | .acc p => grantRange 0x11 p k o.opseq (pickStart c o pick) (pickBytes c o pick) s
    | _ => s) s

/-- Picks and stages of an engine that have begun and have not committed: some contribution has been accepted, or a slot taken. -/
def begunStages (s : State) (k : Nat) (o : RedOp) (e : Nat) : List (Nat × Nat) :=
  let blocks := s.red.arrived.filter fun b => b.comm == k && b.opseq == o.opseq
  let slots := s.red.slots.filter fun x => x.comm == k && x.opseq == o.opseq
  ((o.runs.map fun r => (r.pick, r.stage)) ++ blocks.map (fun b => (b.pick, b.stage)) ++
    slots.map fun x => (x.pick, x.stage)).dedup.filter fun x => pickEngine o x.1 == some e && !stageDone o x.1 x.2

/-- A stage begun anew, with every contribution that comes from elsewhere asked for again. -/
def freshRun (c : Comm) (o : RedOp) (pick stage : Nat) : RedRun :=
  { pick := pick, stage := stage, ins := (stageSources c o pick stage).map fun x =>
      { src := x, recalling := match x with | .rank _ | .acc _ => true | _ => false } }

/-- The operation's picks of a fenced engine pass to the sibling; what had not committed starts anew, and what was pushed and
not acknowledged is pushed again (R227, R255). -/
def replayOp (k e next : Nat) (o : RedOp) (s : State) : State :=
  let mine (p : Nat) : Bool := pickEngine o p == some e
  if !o.engines.contains e then s
  else
    let c := commOf s k
    let begun := begunStages s k o e
    let touched := (List.range (pickCount c o)).any mine
    let o' := { o with
      engines := o.engines.map fun x => if x = e then next else x
      runs := (o.runs.filter fun r => !mine r.pick) ++ begun.map fun x => freshRun c o x.1 x.2
      replayed := o.replayed || touched }
    let s := pushAgain k o' (fun x => mine x.pick && !x.acked) s
    let s := dropSlots (fun x => x.comm == k && x.opseq == o.opseq && x.engine == e) s
    let old (b : RedBlock) : Bool := b.comm == k && b.opseq == o.opseq && mine b.pick
    let s := { s with red := { s.red with arrived := s.red.arrived.filter fun b => !old b, replaySeen := true } }
    sendWaiting k [] (begun.foldl (fun s x => recallPick k o x.1 x.2 s) s)

/-- The engine after `e` in a list, wrapping. -/
def nextEngine (l : List Nat) (e : Nat) : Nat :=
  let i := (l.takeWhile (· != e)).length
  (l[(i + 1) % max 1 l.length]?).getD e

/-- R227: a communicator loses an engine; with none left its operations complete with FENCED. -/
def commEngineFenced (e k : Nat) (s : State) : State :=
  let c := commOf s k
  if !c.engines.contains e then s
  else
    let next := nextEngine c.engines e
    let s := setComm k { c with engines := c.engines.filter (· != e), reserved := c.reserved.filter (· != e) } s
    let live := c.ops.filter fun o => o.done.isNone
    if next = e then
      live.foldl (fun s o => endRedOp k { o with replayed := true } .fenced (redWords c o none) s) s
    else fillSlots k (live.foldl (fun s o => replayOp k e next o s) s)

def reedEngineFenced (e : Nat) (s : State) : State :=
  s.red.comm.foldl (fun s c => commEngineFenced e c.1 s) s

/-- An engine is among those some operation under way has picks on. -/
def engineBusy (s : State) (e : Nat) : Bool :=
  s.red.comm.any fun c => c.2.ops.any fun o => o.done.isNone && o.engines.contains e

/-! ## Accelerator contributions (R353) -/

/-- Takes a range out of the grant that holds it. -/
def useGrant (k : Nat) (os : BitVec 32) (off n : Nat) (a : APort) : Option APort :=
  match a.grants.find? fun g =>
      g.comm == k && g.opseq == os.toNat && decide (g.offset ≤ off) && decide (off + n ≤ g.offset + g.bytes) with
  | none => none
  | some g =>
    let left := [{ g with bytes := off - g.offset }, { g with offset := off + n, bytes := g.offset + g.bytes - (off + n) }]
    some { a with grants := a.grants.erase g ++ left.filter fun x => x.bytes != 0 }

/-- The pick a byte of the input vector lies in. -/
def inputPick (c : Comm) (o : RedOp) (off : Nat) : Nat :=
  off / max 1 (chunkLen c o) * chunkPicks c o + off % max 1 (chunkLen c o) / pickSize c

/-- The checks of R353, and the contribution taken where they pass. -/
def accContribution (port k : Nat) (os : BitVec 32) (off : Nat) (data : List Byte) (crcOk : Bool) (s : State) :
    Status × State :=
  let live := liveOp s k os
  let e := pushEngine s k live ((live.map fun o => inputPick (commOf s k) o off).getD 0)
  let c := (e.map (viewComm s k)).getD (commOf s k)
  let v := (e.map (viewOf s k)).getD { state := c.state, epoch := c.epoch, base := c.base }
  match firstFail [
      (c.part != (aport s port).part.toNat || v.state == .free || !c.accel.getLsbD port, Status.denied),
      (v.state == .lost, .memberLost),
      (decide ((os - v.base).toInt < 0), .epochStale),
      ((useGrant k os off data.length (aport s port)).isNone || live.isNone, .bounds)] with
  | some st => (st, s)
  | none =>
    if !crcOk then (.checkFail, s)
    else
      match live, useGrant k os off data.length (aport s port) with
      | some o, some a =>
        let pick := inputPick c o off
        (.ok, acceptBlock k o pick 0 (.acc port) (off - pickStart c o pick) data (bump (accPort port) 4 1 (setAport port a s)))
      | _, _ => (.bounds, s)

end Sys2Proof.Machine
end

