-- ==== Sys2Proof/Machine/Accel.lean ====
section
/-! DEFINITION. Accelerators: flits received (R346, R347), their requests and signals (R348 to R353), timeouts (R354),
training and link loss (R355, R356), and the port commands (R350, R357). -/

namespace Sys2Proof.Machine

def aportOwner (s : State) (k : Nat) : Nat := objectUnit s k
def accTime (s : State) (k : Nat) : Word64 := dieTime s (32 + k / 2)
def nanos (us : Nat) : Word64 := BitVec.ofNat 64 (us * 1000)

/-- A number of microseconds has passed since a time. -/
def sinceUs (now t : Word64) (us : Nat) : Bool := decide (us * 1000 ≤ (now - t).toNat)

/-- A device request ends; operations that waited for a write's acknowledgement go on (R150). -/
def endRequest (k : Nat) (d : DevReq) (st : Status) (data : List Byte) (s : State) : State :=
  writersGoOn (k, d.tag) s (endDevReq k d st data s)

/-! ## Loss of the link (R356) -/

def aportCode : APortSt → Nat
  | .down => 0 | .training => 1 | .up => 2 | .retrain => 3 | .disabled => 4

/-- Commands that wait for the port to come up or be disabled end (R357). -/
def endPortCmds (k : Nat) (st : Status) (s : State) : State :=
  let cs := (aport s k).cmds
  cs.foldl (fun s r => completeRef r st [] (aportOwner s k) s) (modAport k (fun a => { a with cmds := [] }) s)

/-- A training begins at its first step. -/
def beginTraining (k : Nat) (st : APortSt) (warm : Bool) (s : State) : State :=
  modAport k (fun a => { a with state := st, step := 1, warmEq := warm, stepAt := accTime s k, triedAt := accTime s k }) s

/-- A device request ends with TIMEOUT; its tag stays taken until a late response comes. -/
def expireDevReq (k : Nat) (d : DevReq) (s : State) : State :=
  let s := endRequest k d .timeout [] s
  modAport k (fun a => { a with devReqs := a.devReqs ++ [{ d with timedOut := true }] }) s

/-- Requests a port had switched to others complete there, and their responses are discarded: they come from no port any more (R356
step 3). -/
def discardSwitched (k : Nat) (a : APort) : APort :=
  { a with devReqs := a.devReqs.map fun d => match d.fromPort with
      | some (j, t) => if j = k then { d with fromPort := some (8, t) } else d
      | none => d }

/-- R356: a port leaves UP. -/
def linkLoss (k : Nat) (next : APortSt) (s : State) : State :=
  let a := aport s k
  if a.state ≠ .up then s
  else
    let s := modAport k (fun a => { a with state := next, heldSignals := [], txWait := [], replay := [], rxHdrs := [],
                                           rxData := [], nakSent := false, replayRuns := 0, grants := [],
                                           downs := satInc a.downs, half := false, accId := 0, accReqs := [] })
      { s with lnk := { s.lnk with accDownSeen := true } }
    let s := (List.range 8).foldl (fun s j => modAport j (discardSwitched k) s) s
    let s := (a.devReqs.filter fun d => !d.timedOut).foldl (fun s d => endRequest k d .timeout [] s) s
    let s := modAport k (fun a => { a with devReqs := [] }) s
    let s := reedAccelDown k s
    record { mkRecord s (accPort k) 0x0501 with part := some a.part.toNat, info0 := aportCode a.state } s

/-- The link is lost and the port retrains once. -/
def lossAndRetrain (k : Nat) (s : State) : State :=
  if (aport s k).state ≠ .up then s
  else beginTraining k .retrain false (modAport k (fun a => { a with retrained := true }) (linkLoss k .retrain s))

/-- A training fails: the port is DOWN. -/
def trainingFails (k : Nat) (s : State) : State :=
  endPortCmds k .timeout (modAport k (fun a => { a with state := .down, step := 0 }) s)

/-! ## Training (R355) -/

def trainingOn (a : APort) : Bool := a.step != 0 && (a.state == .training || a.state == .retrain)

/-- The parameters a port accepts (R347, R355). -/
def paramsOk (t : TchTraining) : Bool :=
  t.version == 1 && decide (64 ≤ t.hdr) && decide (64 ≤ t.rsp) && decide (512 ≤ t.data)

/-- UP: both directions of the link start afresh. -/
def portUp (k : Nat) (t : TchTraining) (s : State) : State :=
  endPortCmds k .ok (modAport k (fun a => { a with
    state := .up, step := 0, hasEq := true, accId := BitVec.ofNat 64 t.accId, txSeq := 0, rxSeq := 4095, ackedSeq := 4095,
    nakSent := false, replayRuns := 0, replay := [], txWait := [], rxHdrs := [], rxData := [], retrained := false,
    txCredit := { hdr := t.hdr, rsp := t.rsp, data := t.data }, owedCredit := {} }) s)

/-- A training step completes. -/
def trainingStep (k : Nat) (t : TchTraining) (s : State) : State :=
  let a := aport s k
  if !trainingOn a then s
  else
    let next (s : State) : State := modAport k (fun a => { a with step := a.step + 1, stepAt := accTime s k }) s
    match a.step with
    | 3 =>
      if t.noLock || (t.half && !s.lnk.allowHalf) then trainingFails k s
      else next (modAport k (fun a => { a with half := t.half }) s)
    | 4 =>
      if paramsOk t then portUp k t s
      else endPortCmds k .ok (modAport k (fun a => { a with state := .disabled, step := 0 }) s)
    | _ => next s

def execTchTrainingStepDone (port : Nat) (t : TchTraining) (s : State) : Host.Outcome State Fault Refusal :=
  ends s (trainingStep port t s)

/-- The bound of a step in microseconds. -/
def stepBoundUs (a : APort) : Nat :=
  match a.step with
  | 2 => if a.warmEq then 3000 else 30000
  | 4 => 10
  | _ => 1000

def trainingOverrun (k : Nat) (s : State) : State :=
  let a := aport s k
  if trainingOn a && sinceUs (accTime s k) a.stepAt (stepBoundUs a) then trainingFails k s else s

def execTchTrainingOverrun (port : Nat) (s : State) : Host.Outcome State Fault Refusal := ends s (trainingOverrun port s)

/-- R356: a port that left UP and failed to retrain tries again, at most once per second. -/
def retrainRetry (k : Nat) (s : State) : State :=
  let a := aport s k
  if a.state == .down && a.retrained && s.lnk.autoRetrain && sinceUs (accTime s k) a.triedAt 1000000 then
    beginTraining k .retrain false s
  else s

def execTchRetrainRetry (port : Nat) (s : State) : Host.Outcome State Fault Refusal := ends s (retrainRetry port s)

/-! ## Requests of the accelerator (R348 to R351) -/

/-- Bytes of data that follow a header. -/
def hdrData (h : TchHdr) : Nat := if h.typ = 2 ∨ h.typ = 3 ∨ h.typ = 5 ∨ h.typ = 8 then h.len else 0

def knownType (t : Nat) : Bool := (decide (1 ≤ t) && decide (t ≤ 5)) || t == 8

/-- Row 1 of R349. -/
def badTch (hdr : List Byte) : Bool :=
  let w := fieldLE hdr 0 8
  let h := readHdr hdr
  !knownType h.typ || bits w 5 3 != 0 || bits w 28 4 != 0 || bits w 45 19 != 0 || (h.ordered && h.typ != 2) ||
    (if h.typ = 3 then decide (h.status > 2) else h.typ != 8 && h.status != 0) || (h.typ != 4 && h.aux != 0) ||
    (h.typ == 5 && (bits h.addr 12 20 != 0 || bits h.value 47 17 != 0))

/-- Row 2 of R349. -/
def badTchLen (h : TchHdr) : Option Status :=
  firstFail [
    ((h.typ == 1 || h.typ == 2 || h.typ == 5) && (h.len == 0 || decide (h.len > 4096)), .lenRange),
    (h.typ == 3 && h.len != (if h.status = 2 then 16 else 8), .lenRange),
    (h.typ == 4 && h.len != 0, .lenRange),
    ((h.typ == 1 || h.typ == 2) && decide (h.addr % 4096 + h.len > 4096), .bounds)]

/-- Rows 4 and 5 of R349, for a port named by another. -/
def switchCheck (s : State) (k j : Nat) : Option Status :=
  firstFail [(j == k || (aport s j).part != (aport s k).part, .denied), ((aport s j).state != .up, .timeout)]

/-- Rows 3 to 6 of R349. -/
def targetCheck (s : State) (k : Nat) (h : TchHdr) : Option Status :=
  let t := target h.addr
  if t = 0 then firstFail [((aport s k).ctx == 0, .denied), (bits h.addr 41 15 != 0, .bounds)]
  else if 1 ≤ t ∧ t ≤ 8 then switchCheck s k (t - 1)
  else some .denied

/-- The checks of R349, in order. -/
def tchCheck (s : State) (k : Nat) (hdr : List Byte) : Option Status :=
  let h := readHdr hdr
  if badTch hdr then some .opcode
  else
    match badTchLen h with
    | some st => some st
    | none => targetCheck s k h

/-- A request that fails R349 is counted and answered. -/
def denyTch (k tag : Nat) (st : Status) (s : State) : State :=
  respond k tag st [] (modAport k (fun a => { a with reqDeny := satInc a.reqDeny })
    { s with lnk := { s.lnk with accDenySeen := true } })

/-- The effect of a request at target 0x00, under the bound context. -/
def accAtSpool (k : Nat) (h : TchHdr) (data : List Byte) (s : State) : State × Status × List Byte :=
  let ctx := (aport s k).ctx.toNat
  let u := accPort k
  let off := offset h.addr
  match h.typ with
  | 1 => spoolRead u ctx off h.len s
  | 2 =>
    let (s, st) := spoolWrite u ctx off data s
    (s, st, [])
  | _ =>
    let (op, a, c) : AtomOp × Nat × Nat :=
      if h.status = 0 then (.add, fieldLE data 0 8, 0)
      else if h.status = 1 then (.swap, fieldLE data 0 8, 0)
      else (.cmpSwap, fieldLE data 8 8, fieldLE data 0 8)
    match memAtomicAt u (aport s k).part.toNat ctx h.addr op a c [] s with
    | (s, .ok, prior) => (s, .ok, leBytes 8 prior)
    | (s, st, _) => (s, st, [])

/-- Requests that later ordered writes and signals wait for (R351). -/
def tracked (h : TchHdr) : Bool := h.typ == 2 || h.typ == 3

/-- A checked request is forwarded: to the Spool, which answers, or to the port it names. -/
def forwardTch (k : Nat) (h : TchHdr) (data : List Byte) (s : State) : State :=
  if target h.addr = 0 then
    let (s, st, bs) := accAtSpool k h data s
    respond k h.tag st bs (modAport k (fun a => { a with accReqs := a.accReqs.filter fun r => r.tag != h.tag }) s)
  else if islandStalled s (8 + accOf h.addr) then
    respond k h.tag .crossStall [] (modAport k (fun a => { a with accReqs := a.accReqs.filter fun r => r.tag != h.tag }) s)
  else accIssue (accOf h.addr) h data false (some (k, h.tag)) (bump (accPort k) 5 1 s)

def addAccReq (k : Nat) (h : TchHdr) (hdr data : List Byte) (held : Bool) (s : State) : State :=
  modAport k (fun a => { a with
    nextId := a.nextId + 1
    accReqs := a.accReqs ++ [{ id := a.nextId, typ := h.typ, tag := h.tag, header := hdr, data := data,
                               ordered := h.ordered, held := held }] }) s

/-- The doorbell an accelerator's signal rings, while the device is ready: a tail of a skein of the port's partition (R352, R431). -/
def signalDoorbell (k : Nat) (h : TchHdr) (s : State) : State :=
  let p := (aport s k).part.toNat
  let tail := bits h.value 32 16
  if !s.fw.ready then s
  else if bit h.value 24 then setTail (.admin p) tail s
  else namedSkein p (bits h.value 0 24) s fun r s => setTail r tail s

/-- A signal is delivered (R352). One whose type is no accelerator's, or which fails rows 4 and 5, is counted only. -/
def deliverSignal (k : Nat) (hdr : List Byte) (s : State) : State :=
  let h := readHdr hdr
  let deny (s : State) : State :=
    modAport k (fun a => { a with reqDeny := satInc a.reqDeny }) { s with lnk := { s.lnk with accDenySeen := true } }
  match bits h.addr 0 8 with
  | 1 => signalDoorbell k h s
  | 2 =>
    let j := bits h.addr 8 4
    if j ≥ 8 ∨ (switchCheck s k j).isSome then deny s
    else sendTch j { typ := 4, addr := h.addr, value := h.value, aux := h.aux } [] s
  | _ => deny s

/-- Ordered writes and signals whose earlier requests have all been answered go on (R351). -/
def releaseHeld (k : Nat) : Nat → State → State
  | 0, s => s
  | n + 1, s =>
    let a := aport s k
    match a.accReqs with
    | r :: _ =>
      if r.held then
        let s := modAport k (fun a => { a with accReqs := a.accReqs.map fun x => if x.id = r.id then { x with held := false } else x }) s
        releaseHeld k n (forwardTch k (readHdr r.header) r.data s)
      else
        match a.heldSignals.find? fun g => decide (g.id < r.id) with
        | some g =>
          releaseHeld k n (deliverSignal k g.header
            (modAport k (fun a => { a with heldSignals := a.heldSignals.filter fun x => x.id != g.id }) s))
        | none => s
    | [] =>
      match a.heldSignals with
      | g :: rest => releaseHeld k n (deliverSignal k g.header (modAport k (fun a => { a with heldSignals := rest }) s))
      | [] => s

def releaseAll (k : Nat) (s : State) : State :=
  releaseHeld k ((aport s k).accReqs.length + (aport s k).heldSignals.length) s

/-- How a step ends that may have lost a link: switched requests that timed out with it release what waited for them. -/
def portEnds (s t : State) : Host.Outcome State Fault Refusal :=
  ends s (reedNotice ((List.range 8).foldl (fun s k => releaseAll k s) t))

def execTchLinkLoss (port : Nat) (s : State) : Host.Outcome State Fault Refusal := portEnds s (lossAndRetrain port s)

/-- A request or signal is taken: its credits are owed back (R347). -/
def owe (hdr data : List Byte) (a : APort) : APort :=
  let r := b2n (isResponse hdr)
  { a with owedCredit := { hdr := a.owedCredit.hdr + (1 - r), rsp := a.owedCredit.rsp + r,
                           data := a.owedCredit.data + dataFlits data.length } }

/-- A transaction reaches its handling: one the port's receiver has passed on, or one on a port that is UP. -/
def takeTch (k typ : Nat) (hdr data : List Byte) (s : State) (run : State → State) : State :=
  let a := aport s k
  let here := a.inbox.contains (hdr, data)
  if k ≥ 8 ∨ (readHdr hdr).typ ≠ typ ∨ (!here ∧ a.state ≠ .up) then s
  else run (modAport k (fun a => owe hdr data { a with inbox := a.inbox.erase (hdr, data) }) s)

/-- The partition of a port is being frozen or saved: its requests are answered RETRY_LATER (R404). -/
def portStopped (s : State) (k : Nat) : Bool := partStopped s (aport s k).part.toNat

/-- READ, WRITE or ATOMIC: checked, held where an ordered WRITE must wait, else forwarded. -/
def takeRequestTch (k : Nat) (hdr data : List Byte) (s : State) : State :=
  let h := readHdr hdr
  match tchCheck s k hdr with
  | some st => denyTch k h.tag st s
  | none =>
    if portStopped s k then respond k h.tag .retryLater [] s else
    if data ≠ [] ∧ !dcrcOk hdr data then respond k h.tag .checkFail [] s
    else if h.ordered && !(aport s k).accReqs.isEmpty then addAccReq k h hdr data true s
    else forwardTch k h data (if tracked h && target h.addr != 0 then addAccReq k h hdr data false s else s)

def execTchRead (port : Nat) (hdr : List Byte) (s : State) : Host.Outcome State Fault Refusal :=
  ends s (takeTch port 1 hdr [] s (takeRequestTch port hdr []))

def execTchWrite (port : Nat) (hdr data : List Byte) (s : State) : Host.Outcome State Fault Refusal :=
  ends s (takeTch port 2 hdr data s (takeRequestTch port hdr data))

def execTchAtomic (port : Nat) (hdr data : List Byte) (s : State) : Host.Outcome State Fault Refusal :=
  ends s (takeTch port 3 hdr data s (takeRequestTch port hdr data))

/-- R353: a contribution, checked under rows 1 and 2 of R349 and by the engine of its pick. -/
def takePush (k : Nat) (hdr data : List Byte) (s : State) : State :=
  let h := readHdr hdr
  match firstFail [(badTch hdr, Status.opcode), ((badTchLen h).isSome, .lenRange)] with
  | some st => denyTch k h.tag st s
  | none =>
    if portStopped s k then respond k h.tag .retryLater [] s else
    let (st, s) := accContribution k (bits h.addr 0 12) (BitVec.ofNat 32 (bits h.addr 32 32)) (bits h.value 0 47) data
      (dcrcOk hdr data) s
    respond k h.tag st [] s

def execTchReducePush (port : Nat) (hdr data : List Byte) (s : State) : Host.Outcome State Fault Refusal :=
  ends s (takeTch port 5 hdr data s (takePush port hdr data))

/-- A signal of one type is held behind the earlier requests, or delivered (R351). -/
def takeSignal (k : Nat) (hdr : List Byte) (s : State) : State :=
  let h := readHdr hdr
  if badTch hdr || h.len != 0 then
    modAport k (fun a => { a with reqDeny := satInc a.reqDeny }) { s with lnk := { s.lnk with accDenySeen := true } }
  else if (aport s k).accReqs.isEmpty then deliverSignal k hdr s
  else modAport k (fun a => { a with nextId := a.nextId + 1,
                                     heldSignals := a.heldSignals ++ [{ id := a.nextId, header := hdr }] }) s

/-- A header is a signal of a type. -/
def isSignal (hdr : List Byte) (t : Nat) : Bool := bits (readHdr hdr).addr 0 8 == t

def execDoorbell (port : Nat) (hdr : List Byte) (s : State) : Host.Outcome State Fault Refusal :=
  ends s (if isSignal hdr 1 then takeTch port 4 hdr [] s (takeSignal port hdr) else s)

def execUser (port : Nat) (hdr : List Byte) (s : State) : Host.Outcome State Fault Refusal :=
  ends s (if isSignal hdr 2 then takeTch port 4 hdr [] s (takeSignal port hdr) else s)

/-! ## Responses (R351, R354) -/

/-- A response: of a request that has timed out it only frees the tag (R354). -/
def takeResponseTch (k : Nat) (hdr data : List Byte) (s : State) : State :=
  let h := readHdr hdr
  match (aport s k).devReqs.find? fun d => d.tag == h.tag with
  | none => s
  | some d =>
    if d.timedOut then
      modAport k (fun a => { a with devReqs := a.devReqs.filter fun x => x.tag != d.tag })
        { s with lnk := { s.lnk with accLate := satInc s.lnk.accLate } }
    else
      let st := if badTch hdr || (data != [] && !dcrcOk hdr data) then Status.checkFail
                else (statusOf h.status).getD .opcode
      let s := endRequest k d st (if st = .ok then data else []) s
      match d.fromPort with
      | some (j, _) => releaseAll j s
      | none => s

def execTchResponse (port : Nat) (hdr data : List Byte) (s : State) : Host.Outcome State Fault Refusal :=
  ends s (drainTch port (takeTch port 8 hdr data s (takeResponseTch port hdr data)))

/-- R354: a device request to the accelerator is not answered in time. -/
def accTimeout (k tag : Nat) (s : State) : State :=
  match (aport s k).devReqs.find? fun d => d.tag == tag && !d.timedOut with
  | none => s
  | some d =>
    if !sinceUs (accTime s k) d.sent s.lnk.accTmoUs.toNat then s
    else
      let s := expireDevReq k d s
      match d.fromPort with
      | some (j, _) => releaseAll j s
      | none => s

def execAccTmoExpiry (port tag : Nat) (s : State) : Host.Outcome State Fault Refusal := ends s (drainTch port (accTimeout port tag s))

/-! ## Flits received (R344 to R347) -/

/-- Whole transactions at the front of the receiver go to their handling; a reserved type is answered at once. -/
def deliverTch (k : Nat) : Nat → State → State
  | 0, s => s
  | n + 1, s =>
    let a := aport s k
    match a.rxHdrs with
    | [] => s
    | hdr :: rest =>
      let h := readHdr hdr
      let len := hdrData h
      if a.rxData.length < 256 * dataFlits len then s
      else
        let data := a.rxData.take len
        let a := { a with rxHdrs := rest, rxData := a.rxData.drop (256 * dataFlits len) }
        let s := if knownType h.typ then setAport k { a with inbox := a.inbox ++ [(hdr, data)] } s
                 else denyTch k h.tag .opcode (setAport k (owe hdr [] a) s)
        deliverTch k n s

/-- The headers of a header flit: its slots that are not empty. -/
def slotHeaders (payload : List Byte) : List (List Byte) :=
  ((List.range 8).map fun i => slice payload (32 * i) 32).filter fun h => h.any (· != 0)

/-- The payload of a flit received intact. -/
def takePayload (k kind : Nat) (payload : List Byte) (s : State) : State :=
  match kind with
  | 1 => deliverTch k 9 (modAport k (fun a => { a with rxHdrs := slotHeaders payload, rxData := [] }) s)
  | 2 => deliverTch k 9 (modAport k (fun a => { a with rxData := a.rxData ++ payload }) s)
  | _ => s

/-- Distance of two sequence numbers, modulo 4 096. -/
def seqGap (a b : Nat) : Nat := (b + 4096 - a) % 4096

/-- Flits up to `ack` leave the replay buffer. -/
def takeAck (ack : Nat) (a : APort) : APort :=
  if seqGap a.ackedSeq ack = 0 ∨ seqGap a.ackedSeq ack > 1024 then a
  else { a with ackedSeq := ack, replayRuns := 0,
                replay := a.replay.filter fun f => decide (seqGap ack f.seq ≤ 1024) && f.seq != ack }

def addCredit (ctl : Nat) (a : APort) : APort :=
  let c := a.txCredit
  { a with txCredit := { hdr := c.hdr + bits ctl 28 8, rsp := c.rsp + bits ctl 36 8, data := c.data + bits ctl 44 12 } }

/-- A NAK: the flits after `ACK` are sent again; the sixteenth replay in a row without progress loses the link. -/
def takeNak (k : Nat) (s : State) : State :=
  let s := modAport k (fun a => { a with replays := satInc a.replays, replayRuns := a.replayRuns + 1 }) s
  if (aport s k).replayRuns ≥ 16 then lossAndRetrain k s else replayFlits k s

/-- A flit whose CRC is wrong (R346). -/
def badFlit (k : Nat) (seq : Nat) (s : State) : State :=
  let a := aport s k
  if a.nakSent && seq != (a.rxSeq + 1) % 4096 then s
  else
    sendFlit k 0 true [] (modAport k (fun a => { a with nakSent := true, crcErr := satInc a.crcErr })
      { s with lnk := { s.lnk with accCrcSeen := true } })

/-- A flit received intact and in sequence. -/
def goodFlit (k ctl : Nat) (payload : List Byte) (s : State) : State :=
  let s := bump (accPort k) 3 1 s
  let s := modAport k (fun a => addCredit ctl (takeAck (bits ctl 12 12) { a with rxSeq := bits ctl 0 12, nakSent := false })) s
  let s := if bit ctl 24 then takeNak k s else s
  let s := drainTch k (takePayload k (bits ctl 25 2) payload s)
  if (aport s k).state = .up ∧ (bits ctl 25 2 = 1 ∨ bits ctl 25 2 = 2) then sendFlit k 0 false [] s else s

/-- FLIT_RECEIVE: the CRC decides; a flit out of sequence is discarded until the replay reaches it. -/
def receiveFlit (k : Nat) (bytes : List Byte) (s : State) : State :=
  let a := aport s k
  if k ≥ 8 ∨ a.state ≠ .up ∨ bytes.length ≠ 272 then s
  else
    let ctl := fieldLE bytes 0 8
    let seq := bits ctl 0 12
    if fieldLE bytes 264 8 ≠ crc64 (bytes.take 264) then badFlit k seq s
    else if seq ≠ (a.rxSeq + 1) % 4096 then s
    else goodFlit k ctl (slice bytes 8 256) s

def execFlitReceive (port : Nat) (bytes : List Byte) (s : State) : Host.Outcome State Fault Refusal :=
  portEnds s (receiveFlit port bytes s)

/-! ## Port commands (R350, R357) -/

/-- The partition an accelerator port is assigned to, or partition 0, may issue its commands. -/
def portDenied (s : State) (c : Cmd) (k : Nat) : Bool := c.part != 0 && (aport s k).part.toNat != c.part

/-- A port's command waits while an earlier one of the port has not completed (R120). -/
def aportHeld (s : State) (c : Cmd) (k : Nat) : Bool :=
  !(aport s k).cmds.isEmpty ||
    (heldBefore c s).any fun x => fieldLE x.packet 0 2 / 2 == 0x0740 / 2 && param x 16 2 0 3 == k

def descAportBind : OpDesc := { code := 0x0740, bytes := 4, used := [(16, 0, 3), (18, 0, 16)] }

def execAportBind (c : Cmd) (s : State) : Host.Outcome State Fault Refusal :=
  let k := param c 16 2 0 3
  let ctx := param c 18 2 0 16
  runOrdered descAportBind c (aportHeld s c k)
    [(portDenied s c k, .denied),
     (ctx != 0 && ctxOwner s ctx != (aport s k).part.toNat, .partitionMismatch),
     (ctx != 0 && !(ctxDesc s ctx).enable, .contextFault)] s fun s =>
      complete c .ok [] (aportOwner s k) (modAport k (fun a => { a with ctx := BitVec.ofNat 16 ctx }) s)

def descAportCtl : OpDesc := { code := 0x0741, bytes := 2, used := [(16, 0, 5)] }

/-- The command waits for the port to come up or be disabled. -/
def waitPort (k : Nat) (c : Cmd) (s : State) : State := modAport k (fun a => { a with cmds := a.cmds ++ [cmdRef c] }) s

/-- APORT_CTL with `OP` 0, 1 or 2. -/
def aportCtl (k op : Nat) (c : Cmd) (s : State) : State :=
  let done (s : State) : State := complete c .ok [] (aportOwner s k) s
  let a := aport s k
  match op with
  | 0 =>
    match a.state with
    | .up => waitPort k c (lossAndRetrain k s)
    | .disabled => done s
    | .down => waitPort k c (beginTraining k .retrain false s)
    | _ => waitPort k c s
  | 1 => done (endPortCmds k .ok (modAport k (fun a => { a with state := .disabled, step := 0, retrained := false })
           (linkLoss k .disabled s)))
  | _ =>
    match a.state with
    | .up => done s
    | .disabled | .down => waitPort k c (beginTraining k .training false s)
    | _ => waitPort k c s

def execAportCtl (c : Cmd) (s : State) : Host.Outcome State Fault Refusal :=
  let k := param c 16 2 0 3
  let op := param c 16 2 3 2
  portEnds s (orderCmd descAportCtl c (aportHeld s c k) s fun s =>
    checked c [(op == 3, .opcode), (portDenied s c k, .denied)] s (aportCtl k op c))

end Sys2Proof.Machine
end

