-- ==== Sys2Proof/Machine/BobBase.lean ====
section
/-! DEFINITION. The Bobbin's registers, scratch and stack addresses (R256 to R260), its instruction formats (R266, R267), and
which instructions an image may hold (R288). -/

namespace Sys2Proof.Machine

def bobbinOf (s : State) (u : Nat) : Bobbin := tget {} s.bob.bobbin u
def setBobbin (u : Nat) (b : Bobbin) (s : State) : State := { s with bob := { s.bob with bobbin := tset {} s.bob.bobbin u b } }
def modBobbin (u : Nat) (f : Bobbin → Bobbin) (s : State) : State := setBobbin u (f (bobbinOf s u)) s

/-- The stack of Bobbin `u`. -/
def bobStack (u : Nat) : Nat := u / 32

def findLaunch (s : State) (id : Nat) : Option Launch := s.bob.launch.find? fun l => l.id == id
def setLaunch (l : Launch) (s : State) : State :=
  { s with bob := { s.bob with launch := s.bob.launch.map fun x => if x.id = l.id then l else x } }
def bobLaunch (s : State) (u : Nat) : Option Launch :=
  match (bobbinOf s u).launch with
  | some id => findLaunch s id
  | none => none

/-! ## Registers (R256) -/

def sreg (b : Bobbin) (i : Nat) : Word64 := if i = 0 then 0 else tget 0 b.s i
def setS (i : Nat) (v : Word64) (b : Bobbin) : Bobbin := if i = 0 then b else { b with s := tset 0 b.s i v }
def vreg (b : Bobbin) (i : Nat) : BitVec 1024 := tget 0 b.v i
def setV (i : Nat) (v : BitVec 1024) (b : Bobbin) : Bobbin := { b with v := tset 0 b.v i v }
def preg (b : Bobbin) (i : Nat) : BitVec 128 := if i = 0 then BitVec.allOnes 128 else tget 0 b.p i
def setP (i : Nat) (v : BitVec 128) (b : Bobbin) : Bobbin := if i = 0 then b else { b with p := tset 0 b.p i v }
def areg (b : Bobbin) (i : Nat) : BitVec 1024 := tget 0 b.a i
def setLanes (i : Nat) (v : BitVec 1024) (b : Bobbin) : Bobbin := { b with a := tset 0 b.a i v }

/-- Element `j` of width `w`. -/
def lane (v : BitVec 1024) (w j : Nat) : Nat := bits v.toNat (w * j) w

/-- A vector of elements of width `w`. -/
def packLanes (w : Nat) (l : List Nat) : BitVec 1024 :=
  BitVec.ofNat 1024 (l.foldr (fun x a => x % 2 ^ w + 2 ^ w * a) 0)

/-- A signed immediate. -/
def sext (w v : Nat) : Int := (BitVec.ofNat w v).toInt
def addInt (a : Word64) (i : Int) : Word64 := a + BitVec.ofInt 64 i

/-! ## Scratch (R257) -/

def scratchSize : Nat := 2 ^ 18

def scratchRead (b : Bobbin) (a n : Nat) : List Byte := memRead b.scratch a n

/-- A program's store, or a unit that is no aligned block: the tags of the blocks it touches are cleared (R262). -/
def scratchWrite (a : Nat) (bs : List Byte) (b : Bobbin) : Bobbin :=
  let lo := a / 4096
  let hi := (a + bs.length + 4095) / 4096
  { b with scratch := memWrite b.scratch a bs, tags := b.tags.filter fun t => decide (t.1 < lo) || decide (hi ≤ t.1) }

/-- A single-bit error of Bobbin `u`'s scratch is corrected and counted (R257). -/
def noteScratch (single : Bool) (u : Nat) (s : State) : State :=
  if single then { s with bob := { s.bob with scratchCe := tmod 0 s.bob.scratchCe u (· + 1) } } else s

/-- A scratch access keeps R257: aligned, and within 256 KiB. -/
def scratchOk (a : Word64) (align n : Nat) : Bool := a.toNat % align == 0 && decide (a.toNat + n ≤ scratchSize)

/-! ## The stack (R258 to R260) -/

/-- The Spool offset of stack address `a` on stack `n`. -/
def stackOff (n a : Nat) : Nat := a / 4096 * 65536 + n * 4096 + a % 4096

/-- Pieces of a stack range that lie in one 4 KiB block. -/
def stackPieces (a len : Nat) : List (Nat × Nat) := pagePieces a len

/-- A stack range lies below 2^37 and every granule of it in a window with the right. -/
def winAllows (wins : List BobWin) (write : Bool) (a len : Nat) : Bool :=
  decide (a + len ≤ 2 ^ 37) &&
    (List.range ((a + len - 1) / 2 ^ 24 + 1 - a / 2 ^ 24)).all fun k =>
      wins.any fun w =>
        let g := a / 2 ^ 24 + k
        (if write then w.wr else w.rd) && decide (w.first ≤ g) && decide (g < w.first + w.count)

/-- A read of the stack under a launch's context. -/
def stackRead (u ctx a len : Nat) (s : State) : State × Status × List Byte :=
  (stackPieces a len).foldl (fun r p =>
    if r.2.1 ≠ .ok then r
    else
      let (s, st, bs) := spoolRead (bobbin u) ctx (stackOff (bobStack u) p.1) p.2 r.1
      (s, st, r.2.2 ++ bs)) (s, .ok, [])

def stackWrite (u ctx a : Nat) (bs : List Byte) (s : State) : State × Status :=
  (stackPieces a bs.length).foldl (fun r p =>
    if r.2 ≠ .ok then r
    else spoolWrite (bobbin u) ctx (stackOff (bobStack u) p.1) ((bs.drop (p.1 - a)).take p.2) r.1) (s, .ok)

/-! ## Instruction fields (R266) -/

def insOp (w : Nat) : Nat := bits w 26 6
def fD (w : Nat) : Nat := bits w 21 5
def fA (w : Nat) : Nat := bits w 16 5
def fB (w : Nat) : Nat := bits w 11 5
def fPred (w : Nat) : Nat := bits w 8 3
def fType (w : Nat) : Nat := bits w 5 3
def fFunc (w : Nat) : Nat := bits w 0 5
def fImm (w : Nat) : Nat := bits w 0 16

/-- Element width in bits of a `type` (R270), and its format where it is floating point. -/
def tyWidth (t : Nat) : Nat := if t = 0 ∨ t = 3 then 32 else if t = 5 then 8 else 16
def tyFmt (t : Nat) : Option FFmt := if t = 0 then some fp32 else if t = 1 then some bf16 else if t = 2 then some fp16 else none
def tyLanes (t : Nat) : Nat := 1024 / tyWidth t

/-- Lane `j` of elements of `w` bits is enabled. -/
def laneOn (p : BitVec 128) (w j : Nat) : Bool := p.getLsbD (j * (w / 8))

/-- The formats of VCVT: width, and the binary format of a floating-point one (R277). -/
def cvtFmt (c : Nat) : Option (Nat × Option FFmt) :=
  match c with
  | 1 => some (32, some fp32) | 2 => some (16, some bf16) | 3 => some (16, some fp16)
  | 4 => some (8, some e4m3) | 5 => some (8, some e5m2)
  | 8 => some (32, none) | 9 => some (8, none) | 10 => some (16, none)
  | _ => none

/-- The element formats of MXQ and MXD (R279), and of VDOTMX with its products per lane (R275). -/
def mxFmtOf (c : Nat) : Option MxElt :=
  match c with
  | 0 => some mxE4m3 | 1 => some mxE5m2 | 2 => some mxE2m3 | 3 => some mxE3m2 | 4 => some mxE2m1 | 5 => some mxInt8
  | _ => none

def dotMxFmt (c : Nat) : Option (MxElt × Nat) :=
  match c with
  | 0 => some (mxE4m3, 4) | 1 => some (mxE5m2, 4) | 2 => some (mxInt8, 4) | 3 => some (mxE2m1, 8)
  | _ => none

def dotFmt (c : Nat) : Option (FFmt × Nat) :=
  match c with
  | 0 => some (fp32, 1) | 1 => some (bf16, 2) | 2 => some (fp16, 2) | 3 => some (e4m3, 4) | 4 => some (e5m2, 4)
  | _ => none

/-! ## Which instructions are valid (R267 to R281, R288 check 6) -/

def isFloatType (t : Nat) : Bool := decide (t ≤ 2)

/-- Functions of VOP and VOPS with their types (R271). -/
def vopOk (t f : Nat) : Bool :=
  decide (t ≤ 5) &&
    (if f ≤ 7 ∨ f = 14 then true
     else if 8 ≤ f ∧ f ≤ 13 then !isFloatType t
     else if 16 ≤ f ∧ f ≤ 18 then t == 0
     else false)

/-- Functions of VOP that read va alone. -/
def vopUnary (f : Nat) : Bool := f == 6 || f == 7 || f == 14 || decide (16 ≤ f)

/-- A VCVT `part` is within bounds. -/
def cvtPartOk (ws wd part : Nat) : Bool :=
  if ws < wd then decide (part < wd / ws) else if wd < ws then decide (part < ws / wd) else part == 0

def mxPartOk (m : MxElt) (part : Nat) : Bool := decide (32 * m.width * (part + 1) ≤ 1024)

/-- No reserved opcode, function, type, format, condition, `part` or *u*, and no unused field set. -/
def insValid (w : Nat) : Bool :=
  let d := fD w
  let a := fA w
  let b := fB w
  let pr := fPred w
  let t := fType w
  let f := fFunc w
  match insOp w with
  | 0x01 => decide (bits w 0 8 ≤ 23) && pr == 0 && (b == 0 || decide (bits w 0 8 ≤ 20))
  | 0x02 | 0x03 | 0x04 | 0x05 | 0x06 | 0x07 => true
  | 0x08 => decide (bits w 13 3 ≤ 5)
  | 0x09 => true
  | 0x0A => bits w 0 16 == 0
  | 0x10 | 0x11 => vopOk t f && (b == 0 || !vopUnary f)
  | 0x12 => decide (t ≤ 5) && decide (f ≤ 6) && (f != 6 || isFloatType t) && decide (d < 8)
  | 0x13 =>
    pr == 0 && t == 0 && decide (f ≤ 6) && (f == 6 || decide (d < 8)) && (if f = 5 then a == 0 else decide (a < 8)) &&
      (if f = 4 ∨ f = 6 then b == 0 else f == 5 || decide (b < 8))
  | 0x14 => decide (t ≤ 5) && decide (f ≤ 2) && b == 0
  | 0x15 => decide (t ≤ 5) && decide (f ≤ 3) && (f != 0 || b == 0) && (f != 1 || pr == 0)
  | 0x16 | 0x17 | 0x18 => true
  | 0x20 => (dotFmt t).isSome && decide (f ≤ 1) && decide (d < 4)
  | 0x21 => (dotMxFmt t).isSome && decide (f ≤ 1) && pr == 0
  | 0x22 =>
    pr == 0 && t == 0 && decide (f ≤ 2) && decide (b < 4) && (f == 0 || d == 0) && (f == 1 || a == 0)
  | 0x28 =>
    match cvtFmt (bits w 12 4), cvtFmt (bits w 8 4) with
    | some x, some y => bits w 0 5 == 0 && cvtPartOk x.1 y.1 (bits w 6 2)
    | _, _ => false
  | 0x29 => match mxFmtOf t with | some m => bits w 0 4 == 0 && mxPartOk m pr | none => false
  | 0x2A => match mxFmtOf t with | some m => bits w 0 5 == 0 && mxPartOk m pr | none => false
  | 0x30 | 0x32 => bits w 0 3 != 7 && bits w 4 4 == 0
  | 0x31 => bits w 0 3 != 7 && bits w 3 5 == 0
  | 0x33 => a == 0 && b == 0 && bits w 0 8 == 0
  | 0x34 => b == 0 && bits w 0 11 == 0
  | 0x38 => bits w 1 25 == 0
  | 0x39 => pr == 0 && t == 0 && decide (f ≤ 2)
  | 0x3A => bits w 0 26 == 0
  | 0x3B => d == 0 && bits w 0 16 == 0
  | 0x3C => bits w 5 21 == 0
  | 0x3D => bits w 0 21 == 0
  | _ => false

/-- The target of a `BR` or `JAL` at byte offset `pc` lies in the code (R288 check 7). -/
def branchTarget (w pc : Nat) : Int :=
  if insOp w = 0x08 then (pc : Int) + 4 * sext 13 (bits w 0 13) else (pc : Int) + 4 * sext 21 (bits w 0 21)

def branchOk (w pc size : Nat) : Bool :=
  (insOp w != 0x08 && insOp w != 0x09) || (decide (0 ≤ branchTarget w pc) && decide (branchTarget w pc < (size : Int)))

end Sys2Proof.Machine
end

