-- ==== Sys2Proof/Machine/BobArith.lean ====
section
/-! DEFINITION. The Bobbin's scalar and vector arithmetic (R268 to R279, R283): each instruction's effect on registers. -/

namespace Sys2Proof.Machine

/-! ## Scalar (R268, R269) -/

/-- FP32 arithmetic on codes, rounded to nearest even. -/
def fp2 (f : Num → Num → Num) (x y : Nat) : Nat := fp32.rne (f (fp32.decode x) (fp32.decode y))
def fadd (x y : Nat) : Nat := fp2 Num.add x y
def fsub (x y : Nat) : Nat := fp2 Num.sub x y
def fmul (x y : Nat) : Nat := fp2 Num.mul x y
/-- `x × y + z` with one rounding. -/
def ffma (x y z : Nat) : Nat := fp32.rne (Num.add (Num.mul (fp32.decode x) (fp32.decode y)) (fp32.decode z))
def fmax (x y : Nat) : Nat := fp2 Num.max x y

/-- The functions of `SOP`. -/
def sopValue (f : Nat) (a b : Word64) : Word64 :=
  let fa := a.toNat % 2 ^ 32
  let fb := b.toNat % 2 ^ 32
  let fp (x : Nat) : Word64 := BitVec.ofNat 64 x
  match f with
  | 0 => a + b
  | 1 => a - b
  | 2 => a &&& b
  | 3 => a ||| b
  | 4 => a ^^^ b
  | 5 => a <<< (b.toNat % 64)
  | 6 => a >>> (b.toNat % 64)
  | 7 => a.sshiftRight (b.toNat % 64)
  | 8 => a * b
  | 9 => BitVec.ofNat 64 (a.toNat * b.toNat / 2 ^ 64)
  | 10 => if a.toInt ≤ b.toInt then a else b
  | 11 => if a.toInt ≤ b.toInt then b else a
  | 12 => if a.toNat ≤ b.toNat then a else b
  | 13 => if a.toNat ≤ b.toNat then b else a
  | 14 => if a.toInt < b.toInt then 1 else 0
  | 15 => if a.toNat < b.toNat then 1 else 0
  | 16 => fp (fadd fa fb)
  | 17 => fp (fsub fa fb)
  | 18 => fp (fmul fa fb)
  | 19 => fp (fp2 Num.min' fa fb)
  | 20 => fp (fmax fa fb)
  | 21 => fp (exp2Code fa)
  | 22 => BitVec.ofInt 64 (toSat 64 .rne (fp32.decode fa)).1
  | _ => fp (fp32.rne (Num.ofInt a.toInt))

/-- The condition of a `BR`. -/
def brTaken (c : Nat) (a b : Word64) : Bool :=
  match c with
  | 0 => a == b
  | 1 => a != b
  | 2 => decide (a.toInt < b.toInt)
  | 3 => decide (b.toInt ≤ a.toInt)
  | 4 => decide (a.toNat < b.toNat)
  | _ => decide (b.toNat ≤ a.toNat)

/-! ## Vector elements (R271, R272) -/

/-- A function of VOP on elements of a floating-point format; `d` is the old destination element. -/
def vopFloat (g : FFmt) (f a b d : Nat) : Nat :=
  let x := g.decode a
  let y := g.decode b
  match f with
  | 0 => g.rne (Num.add x y)
  | 1 => g.rne (Num.sub x y)
  | 2 => g.rne (Num.mul x y)
  | 3 => g.rne (Num.add (Num.mul x y) (g.decode d))
  | 4 => g.rne (Num.min' x y)
  | 5 => g.rne (Num.max x y)
  | 6 => g.rne x.abs
  | 7 => g.rne x.negate
  | 16 => exp2Code a
  | 17 => rcpCode a
  | 18 => rsqrtCode a
  | _ => a

/-- The same on integers of `w` bits, which wrap. -/
def vopInt (w f a b d : Nat) : Nat :=
  let x := sint w a
  let y := sint w b
  match f with
  | 0 => uint w (x + y)
  | 1 => uint w (x - y)
  | 2 => uint w (x * y)
  | 3 => uint w (x * y + sint w d)
  | 4 => if x ≤ y then a else b
  | 5 => if x ≤ y then b else a
  | 6 => uint w x.natAbs
  | 7 => uint w (-x)
  | 8 => a &&& b
  | 9 => a ||| b
  | 10 => a ^^^ b
  | 11 => a * 2 ^ (b % w) % 2 ^ w
  | 12 => a / 2 ^ (b % w)
  | 13 => uint w (x >>> (b % w))
  | _ => a

def vopElem (t f a b d : Nat) : Nat :=
  match tyFmt t with
  | some g => vopFloat g f a b d
  | none => vopInt (tyWidth t) f a b d

/-- A vector whose enabled lanes take `f j`. -/
def mapLanes (w : Nat) (p : BitVec 128) (old : BitVec 1024) (f : Nat → Nat) : BitVec 1024 :=
  packLanes w ((List.range (1024 / w)).map fun j => if laneOn p w j then f j else lane old w j)

/-- `VOP` with vb, and `VOPS` with a scalar broadcast. -/
def vopWith (ins : Nat) (bAt : Nat → Nat) (b : Bobbin) : Bobbin :=
  let t := fType ins
  let w := tyWidth t
  let old := vreg b (fD ins)
  let va := vreg b (fA ins)
  setV (fD ins) (mapLanes w (preg b (fPred ins)) old fun j => vopElem t (fFunc ins) (lane va w j) (bAt j) (lane old w j)) b

/-- The condition of a VCMP on floating-point values. -/
def cmpFloat (f : Nat) (x y : Num) : Bool :=
  let less (x y : Num) : Bool := Num.lt x y && !Num.eq x y
  match f with
  | 0 => Num.eq x y
  | 1 => !Num.eq x y
  | 2 => less x y
  | 3 => less x y || Num.eq x y
  | 4 => less y x
  | 5 => less y x || Num.eq x y
  | _ => x.isNan || y.isNan

def cmpInt (f : Nat) (x y : Int) : Bool :=
  match f with
  | 0 => x == y
  | 1 => x != y
  | 2 => decide (x < y)
  | 3 => decide (x ≤ y)
  | 4 => decide (y < x)
  | _ => decide (y ≤ x)

def cmpElem (t f a b : Nat) : Bool :=
  match tyFmt t with
  | some g => cmpFloat f (g.decode a) (g.decode b)
  | none => cmpInt f (sint (tyWidth t) a) (sint (tyWidth t) b)

/-- A predicate whose bit `i` is `f i`. -/
def mkPred (f : Nat → Bool) : BitVec 128 :=
  BitVec.ofNat 128 ((List.range 128).foldl (fun a i => if f i then a + 2 ^ i else a) 0)

/-- `VCMP`: each lane's result goes to every bit the lane covers. -/
def vcmp (ins : Nat) (b : Bobbin) : Bobbin :=
  let t := fType ins
  let w := tyWidth t
  let va := vreg b (fA ins)
  let vb := vreg b (fB ins)
  let p := preg b (fPred ins)
  setP (fD ins) (mkPred fun i =>
    let j := i / (w / 8)
    laneOn p w j && cmpElem t (fFunc ins) (lane va w j) (lane vb w j)) b

def popcount (p : BitVec 128) : Nat := ((List.range 128).filter fun i => p.getLsbD i).length

/-- `POP`. -/
def popPred (ins : Nat) (b : Bobbin) : Bobbin :=
  let pa := preg b (fA ins)
  let pb := preg b (fB ins)
  let d := fD ins
  match fFunc ins with
  | 0 => setP d (pa &&& pb) b
  | 1 => setP d (pa ||| pb) b
  | 2 => setP d (pa ^^^ pb) b
  | 3 => setP d (pa &&& ~~~pb) b
  | 4 => setP d (~~~pa) b
  | 5 =>
    let n := min 128 (sreg b (fB ins)).toNat
    setP d (mkPred fun i => decide (i < n)) b
  | _ => setS d (BitVec.ofNat 64 (popcount pa)) b

/-! ## Reductions and moves (R273) -/

/-- The pairwise tree: lanes 2j and 2j + 1 first, then pairs of those results. -/
def pairUp (f : Nat → Nat → Nat) : List Nat → List Nat
  | x :: y :: r => f x y :: pairUp f r
  | l => l

def treeFold (f : Nat → Nat → Nat) : Nat → List Nat → Nat
  | 0, l => (l.head?).getD 0
  | n + 1, l => if l.length ≤ 1 then (l.head?).getD 0 else treeFold f n (pairUp f l)

/-- The sum of lanes in FP32, from zero where there is none (R312 uses it too). -/
def treeSum32 (l : List Nat) : Nat := treeFold fadd 8 l

/-- The reduction of the enabled lanes, or none where a maximum or minimum has no lane. -/
def vredValue (t f : Nat) (p : BitVec 128) (va : BitVec 1024) : Option Nat :=
  let w := tyWidth t
  let on := (List.range (tyLanes t)).map fun j => (laneOn p w j, lane va w j)
  if f = 0 then some (treeFold (fun x y => vopElem t 0 x y 0) 8 (on.map fun x => if x.1 then x.2 else 0))
  else
    match (on.filter (·.1)).map (·.2) with
    | [] => none
    | x :: r => some (r.foldl (fun m y => vopElem t (if f = 1 then 5 else 4) m y 0) x)

/-- `VRED`. What an empty maximum or minimum gives, and the bits above an integer result, the manual does not say. -/
def vred (free ins : Nat) (b : Bobbin) : Bobbin :=
  let t := fType ins
  let w := tyWidth t
  let r := (vredValue t (fFunc ins) (preg b (fPred ins)) (vreg b (fA ins))).getD (free % 2 ^ w)
  let high := if isFloatType t then 0 else free / 2 ^ 64 % 2 ^ (64 - w)
  setS (fD ins) (BitVec.ofNat 64 (r + 2 ^ w * high)) b

/-- The lane a scalar names; which one a number beyond the lanes names, the manual does not say. -/
def laneIndex (free n : Nat) (i : Word64) : Nat := if i.toNat < n then i.toNat else free % n

/-- `VMOV`. -/
def vmov (free ins : Nat) (b : Bobbin) : Bobbin :=
  let t := fType ins
  let w := tyWidth t
  let n := tyLanes t
  let p := preg b (fPred ins)
  let d := fD ins
  let va := vreg b (fA ins)
  let vb := vreg b (fB ins)
  let sa := (sreg b (fA ins)).toNat % 2 ^ w
  match fFunc ins with
  | 0 => setV d (mapLanes w p (vreg b d) fun _ => sa) b
  | 1 =>
    let i := sreg b (fB ins)
    let x := if i.toNat < n then lane va w i.toNat else free % 2 ^ w
    setS d (BitVec.ofNat 64 x) b
  | 2 =>
    let k := laneIndex free n (sreg b (fB ins))
    setV d (mapLanes w p (vreg b d) fun j => if j = k then sa else lane (vreg b d) w j) b
  | _ => setV d (mapLanes w p (vreg b d) fun j => lane va w (lane vb w j % n)) b

/-! ## Dot products (R274 to R276) -/

/-- One lane of VDOT: products and sum exact, one rounding. -/
def dotLane (acc : Num) (xs : List Num) : Nat := fp32.rne (xs.foldl Num.add acc)

/-- The accumulator's lanes as VDOT or VDOTMX starts: +0 under `ZERO`. -/
def accLane (zero : Bool) (a : BitVec 1024) (i : Nat) : Num := if zero then Num.zero else fp32.decode (lane a 32 i)

def vdot (ins : Nat) (b : Bobbin) : Bobbin :=
  match dotFmt (fType ins) with
  | none => b
  | some (g, k) =>
    let d := fD ins % 4
    let p := preg b (fPred ins)
    let va := vreg b (fA ins)
    let vb := vreg b (fB ins)
    let prod (e : Nat) : Num :=
      if laneOn p g.width e then Num.mul (g.decode (lane va g.width e)) (g.decode (lane vb g.width e)) else Num.zero
    setLanes d (packLanes 32 ((List.range 32).map fun i =>
      dotLane (accLane (bit ins 0) (areg b d) i) ((List.range k).map fun j => prod (k * i + j)))) b

def vdotmx (ins : Nat) (b : Bobbin) : Bobbin :=
  match dotMxFmt (fType ins) with
  | none => b
  | some (m, k) =>
    let d := fD ins % 4
    let sp := fD ins / 4
    let va := vreg b (fA ins)
    let vb := vreg b (fB ins)
    let scale (r e : Nat) : Nat := bits (sreg b r).toNat (8 * (e / 32)) 8
    let prod (e : Nat) : Num :=
      Num.mul (m.decode (scale (16 + 2 * sp) e) (lane va m.width e)) (m.decode (scale (17 + 2 * sp) e) (lane vb m.width e))
    setLanes d (packLanes 32 ((List.range 32).map fun i =>
      dotLane (accLane (bit ins 0) (areg b d) i) ((List.range k).map fun j => prod (k * i + j)))) b

/-- `AOP`. -/
def aop (ins : Nat) (b : Bobbin) : Bobbin :=
  let k := fB ins % 4
  match fFunc ins with
  | 0 => setV (fD ins) (areg b k) b
  | 1 => setLanes k (vreg b (fA ins)) b
  | _ => setLanes k 0 b

/-! ## Conversions (R277 to R279) -/

/-- How the `k`-th element from now on is rounded. -/
def srRnd (sr : Bool) (seed : Word64) (b : Bobbin) (k : Nat) : Rnd :=
  if sr then .stoch (randomWord (seed ^^^ BitVec.ofNat 64 b.member) (BitVec.ofNat 64 (b.srCount + k))) else .rne

def cvtRead (f : Nat × Option FFmt) (c : Nat) : Num :=
  match f.2 with
  | some g => g.decode c
  | none => Num.ofInt (sint f.1 c)

def cvtWrite (f : Nat × Option FFmt) (r : Rnd) (x : Num) : Nat :=
  match f.2 with
  | some g => (g.encode r x).1
  | none => uint f.1 (toSat f.1 r x).1

/-- `VCVT`. -/
def vcvt (seed : Word64) (ins : Nat) (b : Bobbin) : Bobbin :=
  match cvtFmt (bits ins 12 4), cvtFmt (bits ins 8 4) with
  | some x, some y =>
    let part := bits ins 6 2
    let sr := bit ins 5
    let va := vreg b (fA ins)
    let old := vreg b (fD ins)
    let n := 1024 / max x.1 y.1
    let src := if x.1 < y.1 then part * n else 0
    let dst := if y.1 < x.1 then part * n else 0
    let conv (j : Nat) : Nat := cvtWrite y (srRnd sr seed b j) (cvtRead x (lane va x.1 (src + j)))
    let v := packLanes y.1 ((List.range (1024 / y.1)).map fun j =>
      if dst ≤ j ∧ j < dst + n then conv (j - dst) else lane old y.1 j)
    setV (fD ins) v (if sr then { b with srCount := b.srCount + n } else b)
  | _, _ => b

/-- A field of a vector or register replaced. -/
def putField {n : Nat} (x : BitVec n) (lo w v : Nat) : BitVec n :=
  BitVec.ofNat n (x.toNat - bits x.toNat lo w * 2 ^ lo + v % 2 ^ w * 2 ^ lo)

/-- `MXQ`: one block, its scale chosen by R237. -/
def mxq (seed : Word64) (ins : Nat) (b : Bobbin) : Bobbin :=
  match mxFmtOf (fType ins) with
  | none => b
  | some m =>
    let sr := bit ins 4
    let part := fPred ins
    let va := vreg b (fA ins)
    let vs := (List.range 32).map fun j => fp32.decode (lane va 32 j)
    let scale := m.scaleOf vs
    let codes := vs.zipIdx.map fun v => (m.encode scale (srRnd sr seed b v.2) v.1).1
    let block := codes.foldr (fun c a => c + 2 ^ m.width * a) 0
    let vd := putField (vreg b (fD ins)) (32 * m.width * part) (32 * m.width) block
    let sd := putField (sreg b (fB ins)) (8 * part) 8 scale
    setS (fB ins) sd (setV (fD ins) vd (if sr then { b with srCount := b.srCount + 32 } else b))

/-- `MXD`: one block decoded to FP32. -/
def mxd (ins : Nat) (b : Bobbin) : Bobbin :=
  match mxFmtOf (fType ins) with
  | none => b
  | some m =>
    let part := fPred ins
    let scale := bits (sreg b (fB ins)).toNat (8 * part) 8
    let block := bits (vreg b (fA ins)).toNat (32 * m.width * part) (32 * m.width)
    setV (fD ins) (packLanes 32 ((List.range 32).map fun j =>
      fp32.rne (m.decode scale (bits block (m.width * j) m.width)))) b

/-- Multiply-accumulates an instruction performs, with its counter of R495. -/
def macsOf (ins : Nat) : Option (Nat × Nat) :=
  match insOp ins with
  | 0x20 =>
    match fType ins with
    | 0 => some (6, 32) | 1 | 2 => some (5, 64) | _ => some (4, 128)
  | 0x21 => if fType ins = 3 then some (3, 256) else some (4, 128)
  | _ => none

end Sys2Proof.Machine
end

