-- ==== Sys2Proof/Machine/BobLaunch.lean ====
section
/-! DEFINITION. A launch from its queue to its end (R285, R286, R292 to R297), and the streams of its members (R261 to
R263). -/

namespace Sys2Proof.Machine

/-- The processor that owns a partition's launches (R292). -/
def launchOwner (s : State) (p : Nat) : Nat := ownerUnit s (.admin p)

def imageAt (s : State) (i : Nat) : Image := tget {} s.bob.image i
def setImage (i : Nat) (m : Image) (s : State) : State := { s with bob := { s.bob with image := tset {} s.bob.image i m } }

/-- The image a handle names, where it is loaded and the partition may see it (R289). -/
def visibleImage (s : State) (p handle : Nat) : Option Image :=
  let m := imageAt s (handle % 1024)
  if m.loaded && m.gen.toNat == handle / 1024 && (m.part == p || m.shared) then some m else none

def launchImage (s : State) (l : Launch) : Image := imageAt s (l.image % 1024)

/-! ## Bobbins of a partition -/

def assignedTo (s : State) (p u : Nat) : Bool :=
  let b := bobbinOf s u
  b.part == p && b.state != .unassigned && !b.leaving

def stackBobbins (n : Nat) : List Nat := (List.range 32).map (32 * n + ·)

/-- Bobbins of a partition on a stack: assigned, assigned and in service, and IDLE. -/
def bobAssigned (s : State) (p n : Nat) : List Nat := (stackBobbins n).filter (assignedTo s p)
def bobUsable (s : State) (p n : Nat) : List Nat :=
  (bobAssigned s p n).filter fun u => inService s (bobbin u) && (bobbinOf s u).state != .fenced
def bobIdle (s : State) (p n : Nat) : List Nat :=
  (bobUsable s p n).filter fun u => (bobbinOf s u).state == .idle

def launchStacks (l : Launch) : List Nat := (List.range 16).filter fun n => l.mask.getLsbD n

/-! ## The end of a launch (R285, R295) -/

/-- The result words of a launch (R295): words 2 and 3 are the faulting member's, or, where no member faulted, those of the member
word 1 reports. -/
def launchWords (s : State) (l : Launch) : List Nat :=
  let bad := l.members.filter fun u => (bobbinOf s u).exit != 0
  let code := match bad with | u :: _ => (bobbinOf s u).exit | [] => 0
  let (u, pc) := match l.fault with
    | some (_, some u, pc) => (bobbin u, pc)
    | _ => match bad with
      | u :: _ => (bobbin u, (bobbinOf s u).pc)
      | [] => (0, 0)
  [l.members.length, code + 2 ^ 8 * bad.length, u, pc % 65536]

/-- A member leaves its launch: its scratch is to be zeroed (R294 step 7). -/
def leaveLaunch (s : State) (u : Nat) : State :=
  modBobbin u (fun b => { b with launch := none, wait := none, streams := [], tagUnits := [], tagZero := [],
                                 state := if b.state = .fenced then .fenced else .zeroing }) s

/-- A launch no longer names a sequence (R309). -/
def dropSeqRef (s : State) (w : AttnWork) : State :=
  { s with bob := { s.bob with seq := tmod {} s.bob.seq w.seq fun e => if e.valid then { e with refs := e.refs - 1 } else e } }

def programFault (st : Status) : Bool :=
  st == .bounds || st == .partitionMismatch || st == .poison || st == .checkFail || st == .timeout

/-- The launch completes; its members are zeroed. -/
def endLaunch (l : Launch) (s : State) : State :=
  let st := match l.fault with | some f => f.1 | none => .ok
  let words := launchWords s l
  let s := { s with bob := { s.bob with launch := s.bob.launch.filter fun x => x.id != l.id,
                                        faultSeen := s.bob.faultSeen || programFault st } }
  let s := if l.replayed then markReplayed l.cmd s else s
  let s := completeRef l.cmd st words (launchOwner s l.part) s
  l.work.foldl dropSeqRef (l.members.foldl leaveLaunch s)

def memberStreams (s : State) (l : Launch) : Bool := l.members.any fun u => !(bobbinOf s u).streams.isEmpty
def memberLoads (s : State) (l : Launch) : Bool := l.members.any fun u => (bobbinOf s u).state == .loading
def memberFenced (s : State) (l : Launch) : Bool := l.members.any fun u => (bobbinOf s u).state == .fenced

/-- A launch whose members have all come to where it waits for goes on: it ends, or its replay restarts. -/
def checkLaunch (id : Nat) (s : State) : State :=
  match findLaunch s id with
  | none => s
  | some l =>
    match l.state with
    | .queued | .withdrawn => s
    | .running => if l.members.all fun u => (bobbinOf s u).state == .halted then endLaunch l s else s
    | .ending => if memberStreams s l || memberLoads s l then s else endLaunch l s
    | .replaying =>
      if memberStreams s l || memberFenced s l then s
      else
        l.members.foldl (fun s u => modBobbin u (fun b => { b with state := .loading }) s)
          (setLaunch { l with state := .running } s)

/-- Every member stops at its next instruction boundary; streams already issued complete. One that is LOADING has none before its
load is done (R297). -/
def stopMembers (l : Launch) (s : State) : State :=
  l.members.foldl (fun s u => modBobbin u (fun b =>
    { b with wait := none, state := if b.state = .fenced ∨ b.state = .loading then b.state else .stopping }) s) s

/-- A launch is to end with a status: the first fault admitted decides it. -/
def stopLaunch (id : Nat) (st : Status) (u : Option Nat) (pc : Nat) (s : State) : State :=
  match findLaunch s id with
  | none => s
  | some l =>
    if l.state = .ending then s
    else
      let l := { l with state := .ending, fault := some (st, u, pc) }
      checkLaunch id (stopMembers l (setLaunch l s))

/-- A program fault of a member (R285), with the record a CHECK_FAIL or TIMEOUT writes. -/
def bobFault (u : Nat) (st : Status) (rec : Option (Nat × Nat)) (s : State) : State :=
  let b := bobbinOf s u
  match b.launch with
  | none => s
  | some id =>
    let s := match rec with
      | some (cause, info) =>
        record { mkRecord s (bobbin u) cause with
          part := some b.part, object := b.launchId.toNat, otype := 4, info0 := info } s
      | none => s
    stopLaunch id st (some u) b.pc s

/-- The PC moves on; reaching the end of the code is a BOUNDS fault (R269). -/
def bobAdvance (u : Nat) (s : State) : State :=
  let b := bobbinOf s u
  let s := setBobbin u { b with pc := b.pc + 4 } s
  if b.pc + 4 ≥ b.code.length then bobFault u .bounds none s else s

/-! ## What members wait for (R281) -/

/-- A member that waits goes on, where what it waits for has come. A resident program's PC is not the manual's. -/
def bobWake (u : Nat) (s : State) : State :=
  let b := bobbinOf s u
  let idle := b.streams.isEmpty
  let go (b : Bobbin) : State :=
    let s := setBobbin u { b with wait := none } s
    if b.code.isEmpty then s else bobAdvance u s
  match b.wait with
  | some (.tag t d) =>
    if b.streams.any fun x => x.tag == t then s
    else
      let v := BitVec.ofNat 64 (tget 0 b.tagUnits t % 65536 + 65536 * (tget 0 b.tagZero t % 65536))
      go (setS d v { b with tagUnits := tset 0 b.tagUnits t 0, tagZero := tset 0 b.tagZero t 0 })
  | some .fence => if idle then go b else s
  | some (.ckpt v) => if idle then go { b with ckpt := v } else s
  | some (.halt code) =>
    if idle then
      let s := setBobbin u { b with wait := none, state := .halted, exit := code } s
      match b.launch with
      | some id => checkLaunch id s
      | none => s
    else s
  | _ => s

/-! ## Stream units (R262, R263) -/

/-- Line `j` of a unit, where it has been read already, with whether it was zero-filled. -/
def StreamUnit.line (y : StreamUnit) (j : Nat) : Option (List Byte × Bool) := (y.held.find? fun h => h.1 == j).map (·.2)

/-- 64-byte lines of a stream's unit. -/
def streamLines (x : Stream) : Nat := 2 ^ x.log2

/-- A line read from the stack: its bytes, or with `NP` zeros for a poisoned one, or the status. -/
def readLine (u ctx : Nat) (np : Bool) (a : Nat) (s : State) : State × Status × List Byte × Bool :=
  match spoolRead (bobbin u) ctx (stackOff (bobStack u) a) 64 s with
  | (s, .ok, bs) => (s, .ok, bs, false)
  | (s, .poison, _) =>
    if np && stackUp s (bobStack u) then (s, .ok, List.replicate 64 0, true) else (s, .poison, [], false)
  | (s, st, _) => (s, st, [], false)

/-- The lines of a unit, those not held yet read from the stack: the bytes, and the lines zero-filled; or the first status. The
lines zero-filled are what the stream status counts: R263 has "the line" counted (DEDUCED: the units R281 speaks of). -/
def readLines (u ctx : Nat) (np : Bool) (y : StreamUnit) : List Nat → State → State × Status × List Byte × Nat
  | [], s => (s, .ok, [], 0)
  | j :: r, s =>
    let (s, st, bs, z) : State × Status × List Byte × Bool := match y.line j with
      | some h => (s, .ok, h.1, h.2)
      | none => readLine u ctx np (y.a + 64 * j) s
    if st ≠ .ok then (s, st, [], 0)
    else
      let (s, st, more, n) := readLines u ctx np y r s
      (s, st, bs ++ more, b2n z + n)

/-- The bytes of a unit to write: each line as it was read from scratch, or as it stands there. -/
def unitBytes (b : Bobbin) (x : Stream) (y : StreamUnit) : List Byte :=
  (List.range (streamLines x)).flatMap fun j =>
    match y.line j with
    | some h => h.1
    | none => scratchRead b (y.sa + 64 * j) 64

/-- A unit lands in scratch, but for the lines that are there already: a 4 KiB block takes its CRC as tag, unless a line was
zero-filled or a line that landed early has been stored into. -/
def landUnit (y : StreamUnit) (bs : List Byte) (zeroed : Nat) (b : Bobbin) : Bobbin :=
  let b := ((pieces 64 (bs.length / 64) bs).zipIdx.filter fun p => !y.sent.contains p.2).foldl (fun b p =>
    scratchWrite (y.sa + 64 * p.2) p.1 b) b
  if bs.length = 4096 ∧ zeroed = 0 ∧ scratchRead b y.sa 4096 = bs then
    { b with tags := tset none b.tags (y.sa / 4096) (some (BitVec.ofNat 32 (crc32c bs))) }
  else b

/-- The lines of a unit that have not been written to the stack. -/
def writeLines (u ctx : Nat) (y : StreamUnit) (bs : List Byte) (s : State) : State × Status :=
  if y.sent = [] then stackWrite u ctx y.a bs s
  else
    ((pieces 64 (bs.length / 64) bs).zipIdx.filter fun p => !y.sent.contains p.2).foldl (fun r p =>
      if r.2 ≠ .ok then r else stackWrite u ctx (y.a + 64 * p.2) p.1 r.1) (s, .ok)

/-- The computed CRC of a 4 KiB unit differs from the valid tag of its block (R262 step 4). -/
def tagBad (b : Bobbin) (y : StreamUnit) (bs : List Byte) : Bool :=
  match (if bs.length = 4096 then tget none b.tags (y.sa / 4096) else none) with
  | some t => t != BitVec.ofNat 32 (crc32c bs)
  | none => false

/-- Re-reads or rewrites of a unit are counted (R262). -/
def noteRetries (n : Nat) (s : State) : State :=
  if n = 0 then s
  else { s with bob := { s.bob with crcSeen := true, crcRetry := satAdd s.bob.crcRetry (min n s.bob.chkRetry.toNat) } }

/-- The context a Bobbin's requests carry (R260). -/
def bobCtx (s : State) (u : Nat) : Nat := match bobLaunch s u with | some l => l.ctx | none => 0

/-- The transfer of one unit, and how it ends: OK, or a fault with its record. A unit some of whose lines have arrived has passed its
checks. -/
def moveUnit (u : Nat) (x : Stream) (y : StreamUnit) (c : UnitCheck) (s : State) : State × Status × Option (Nat × Nat) :=
  let n := 64 * streamLines x
  let b := bobbinOf s u
  let ctx := bobCtx s u
  let first := y.sent == []
  let bad := if first then c.crcBad else 0
  if x.write then
    let bs := unitBytes b x y
    if c.scratch then ({ s with bob := { s.bob with scratchUeSeen := true } }, .checkFail, some (0x0408, y.sa))
    else
      let s := noteScratch c.single u s
      if first && tagBad b y bs then ({ s with bob := { s.bob with crcSeen := true } }, .checkFail, some (0x0407, y.a))
      else
        let s := noteRetries bad s
        if bad > s.bob.chkRetry.toNat then (s, .checkFail, some (0x0407, y.a))
        else
          let (s, st) := writeLines u ctx y bs s
          (bump (bobbin u) 8 (if st = .ok then n else 0) s, st, none)
  else
    let s := noteRetries bad s
    if bad > s.bob.chkRetry.toNat then (s, .checkFail, some (0x0407, y.a))
    else
      let (s, st, bs, z) := readLines u ctx x.np y (List.range (streamLines x)) s
      if st ≠ .ok then (s, st, none)
      else
        let s := modBobbin u (fun b => { landUnit y bs z b with tagZero := tmod 0 b.tagZero x.tag (· + z) }) s
        let s := if z = 0 then s else { s with bob := { s.bob with poisonTolSeen := true } }
        (bump (bobbin u) 7 n s, .ok, none)

def dropUnit (i : Nat) (x : Stream) (b : Bobbin) : Bobbin :=
  let left := x.units.eraseIdx i
  { b with
    streams := if left = [] then b.streams.filter fun y => y.id != x.id
               else b.streams.map fun y => if y.id = x.id then { x with units := left } else y
    tagUnits := tmod 0 b.tagUnits x.tag (· + 1) }

/-- Unit `i` of a stream changes. -/
def setUnit (x : Stream) (i : Nat) (y : StreamUnit) (b : Bobbin) : Bobbin :=
  { b with streams := b.streams.map fun z => if z.id = x.id then { x with units := x.units.set i y } else z }

/-- A 64-byte line of a unit moves ahead of the unit's end (R264): it is read from its source, or, once every line has been and the
CRC has passed, arrives. Where it cannot, nothing happens before the end. -/
def moveLine (u : Nat) (x : Stream) (i : Nat) (y : StreamUnit) (j : Nat) (s : State) : State :=
  let b := bobbinOf s u
  let ctx := bobCtx s u
  let hold (s' : State) (bs : List Byte) (z : Bool) : State :=
    modBobbin u (setUnit x i { y with held := y.held ++ [(j, bs, z)] }) s'
  if j ≥ streamLines x ∨ y.sent.contains j then s
  else
    match y.line j with
    | none =>
      if x.write then hold s (scratchRead b (y.sa + 64 * j) 64) false
      else
        match readLine u ctx x.np (y.a + 64 * j) s with
        | (s', .ok, bs, z) => hold s' bs z
        | _ => s
    | some (bs, _) =>
      let arrived (s' : State) : State := modBobbin u (setUnit x i { y with sent := y.sent ++ [j] }) s'
      if !(List.range (streamLines x)).all fun k => (y.line k).isSome then s
      else if x.write then
        if y.sent == [] && tagBad b y (unitBytes b x y) then s
        else
          match stackWrite u ctx (y.a + 64 * j) bs s with
          | (s', .ok) => arrived s'
          | _ => s
      else arrived (modBobbin u (scratchWrite (y.sa + 64 * j) bs) s)

/-- STREAM_UNIT_COMPLETE: a unit of a stream of Bobbin `u` completes, faults, or releases a wait; or one line of it moves. -/
def unitComplete (u id i : Nat) (c : UnitCheck) (s : State) : State :=
  match (bobbinOf s u).streams.find? fun x => x.id == id with
  | none => s
  | some x =>
    match x.units[i]? with
    | none => s
    | some y =>
      match c.line with
      | some j => moveLine u x i y j s
      | none =>
        let (s, st, rec) := moveUnit u x y c s
        let s := modBobbin u (dropUnit i x) s
        let s := if (bobbinOf s u).streams.any fun y => y.id == id then s else untrack (.stream u id) s
        let s := if st = .ok then s else bobFault u st rec s
        let s := bobWake u s
        match (bobbinOf s u).launch with
        | some l => if (bobbinOf s u).state = .stopping then checkLaunch l s else s
        | none => s

def execStreamUnitComplete (bobbin stream unit : Nat) (check : UnitCheck) (s : State) : Host.Outcome State Fault Refusal :=
  ends s (unitComplete bobbin stream unit check s)

/-- A stream's request ends with an error: TIMEOUT where its controller has not answered within `FRM.WEFT_TMO[1]` (R285), which
is recorded. A stopping launch may end with its last stream. -/
def streamLost (u id : Nat) (st : Status) (s : State) : State :=
  if (bobbinOf s u).streams.any fun x => x.id == id then
    let s := modBobbin u (fun b => { b with streams := b.streams.filter fun x => x.id != id }) s
    let s := bobFault u st (if st = .timeout then some (0x0409, (bobbinOf s u).pc) else none) s
    match (bobbinOf s u).launch with
    | some l => if (bobbinOf s u).state = .stopping then checkLaunch l s else s
    | none => s
  else s

/-! ## Grants and loading (R292 to R294) -/

/-- The lowest-numbered IDLE Bobbins a launch takes, by stack, or none where some stack has too few. One that a test slice runs on is
not taken before the slice ends (R472). -/
def pickMembers (s : State) (l : Launch) : Option (List Nat) :=
  let free (n : Nat) : List Nat := (bobIdle s l.part n).filter fun u => !testing s (bobbin u)
  if (launchStacks l).all fun n => decide (l.per ≤ (free n).length) then
    some ((launchStacks l).flatMap fun n => (free n).take l.per)
  else none

/-- The queued launch is granted: its Bobbins become its members at once. -/
def grantLaunch (l : Launch) (ms : List Nat) (s : State) : State :=
  let s := setLaunch { l with state := .running, members := ms, started := some (unitTime s (launchOwner s l.part)) } s
  ms.zipIdx.foldl (fun s x => modBobbin x.1 (fun b =>
    { b with state := .loading, launch := some l.id, member := x.2, launchId := l.launchId, ckpt := 0, exit := 0, wait := none }) s) s

/-- A fenced member of a launch that replays, and an IDLE Bobbin that can take its place. -/
def replacement (s : State) (l : Launch) : Option (Nat × Nat) :=
  l.members.findSome? fun u =>
    if (bobbinOf s u).state = .fenced then ((bobIdle s l.part (bobStack u)).head?).map fun v => (u, v) else none

/-- The IDLE Bobbin takes the fenced member's place, with its member index and its checkpoint (R286 step 2). -/
def replaceMember (l : Launch) (old new : Nat) (s : State) : State :=
  let b := bobbinOf s old
  let s := modBobbin new (fun x => { x with state := .loading, launch := some l.id, member := b.member,
                                            launchId := l.launchId, ckpt := b.ckpt, exit := 0, wait := none,
                                            flag := b.flag }) s
  let s := modBobbin old (fun x => { x with launch := none }) s
  checkLaunch l.id (setLaunch { l with members := l.members.map fun u => if u = old then new else u } s)

/-- LAUNCH_GRANT: a replay's missing member comes before the partition's oldest queued launch (R286, R292). -/
def launchGrant (p : Nat) (s : State) : State :=
  let mine := s.bob.launch.filter fun l => l.part == p
  match (mine.filter fun l => l.state == .replaying).findSome? fun l => (replacement s l).map fun x => (l, x) with
  | some (l, old, new) => replaceMember l old new s
  | none =>
    match mine.find? fun l => l.state == .queued with
    | none => s
    | some l =>
      match pickMembers s l with
      | some ms => grantLaunch l ms s
      | none => s

def execLaunchGrant (part : Nat) (s : State) : Host.Outcome State Fault Refusal := ends s (launchGrant part s)

/-- The scalar registers a member starts with (R293, R286 step 3). -/
def startRegs (l : Launch) (u : Nat) (b : Bobbin) : Tab Word64 :=
  let args := (List.range 16).map fun i => (16 + i, fieldLE (slice l.args 0 128) (8 * i) 8)
  let vals := [(1, if l.replayed then b.ckpt.toNat else 0), (2, b2n l.replayed), (3, bobStack u), (4, b.member % l.per),
               (5, b.member), (6, l.members.length), (7, l.per)] ++ args
  vals.foldl (fun t x => tset 0 t x.1 (BitVec.ofNat 64 x.2)) []

/-- The member of a replay goes on from the tiles its checkpoint covers, so what their exit code reports stands (R301, R302). -/
def keepsFlag (l : Launch) : Bool := l.replayed && l.image == 2

/-- A member whose load is done starts at `ENTRY` with its start state; the code it kept from a launch of the same handle is not
loaded again (R289), and the plan area of `ATTN_DECODE` is filled (R309). -/
def startMember (l : Launch) (m : Image) (u : Nat) (b : Bobbin) : Bobbin :=
  { b with
    state := .running, resident := BitVec.ofNat 16 l.image, pc := m.entry
    code := if b.resident.toNat = l.image then b.code else m.code
    s := startRegs l u b
    v := [], p := [], a := [], scratch := memWrite [] m.constOff m.consts, tags := [], streams := [], tagUnits := []
    tagZero := [], wait := none, srCount := 0, exit := 0, flag := keepsFlag l && b.flag, plan := l.work }

/-- LAUNCH_LOAD_COMPLETE: the member starts; where its launch is to end, it stops at its first instruction. -/
def loadComplete (u : Nat) (s : State) : State :=
  let b := bobbinOf s u
  match bobLaunch s u with
  | none => s
  | some l =>
    if b.state ≠ .loading then s
    else
      match l.state with
      | .running => setBobbin u (startMember l (launchImage s l) u b) s
      | .ending => checkLaunch l.id (setBobbin u { b with state := .stopping } s)
      | _ => s

def execLaunchLoadComplete (bobbin : Nat) (s : State) : Host.Outcome State Fault Refusal := ends s (loadComplete bobbin s)

/-- BOBBIN_ZEROING_DONE: the Bobbin is IDLE, or UNASSIGNED where it was given up meanwhile. -/
def zeroingDone (u : Nat) (s : State) : State :=
  let b := bobbinOf s u
  if b.state ≠ .zeroing then s
  else
    let b := { b with state := .idle, scratch := [], tags := [], plan := [] }
    if b.leaving then clearCheck b.part (setBobbin u { b with state := .unassigned, part := 0, leaving := false } s)
    else setBobbin u b s

def execBobbinZeroingDone (bobbin : Nat) (s : State) : Host.Outcome State Fault Refusal := ends s (zeroingDone bobbin s)

/-- LIMIT_MS_EXPIRY: a launch's time limit has passed since its first start. -/
def limitExpiry (p lid : Nat) (s : State) : State :=
  match s.bob.launch.find? fun l => l.part == p && l.launchId.toNat == lid with
  | none => s
  | some l =>
    match l.started with
    | none => s
    | some t =>
      if l.limitMs = 0 ∨ l.state = .ending ∨ (unitTime s (launchOwner s p) - t).toNat < l.limitMs * 1000000 then s
      else
        let u := (l.members.head?).getD 0
        let s := record { mkRecord s (bobbin u) 0x0409 with
          part := some p, object := lid, otype := 4, info0 := (bobbinOf s u).pc } s
        stopLaunch l.id .timeout none 0 s

def execLimitMsExpiry (part launchId : Nat) (s : State) : Host.Outcome State Fault Refusal :=
  ends s (limitExpiry part launchId s)

/-- The partition has fewer Bobbins in service on a stack than a launch uses there (R286). -/
def tooFew (s : State) (l : Launch) (n : Nat) : Bool :=
  l.mask.getLsbD n && decide (l.per > (bobUsable s l.part n).length)

/-- A launch that waits to be replayed completes with FENCED where a fence leaves too few Bobbins (R286). -/
def replaysLost (p n : Nat) (s : State) : State :=
  (s.bob.launch.filter fun l => l.part == p && l.state == .replaying && tooFew s l n).foldl (fun s l =>
    stopLaunch l.id .fenced none 0 s) s

/-- A Bobbin has been fenced: its launch is replayed, or completes with FENCED (R286). DEDUCED: one that was UNASSIGNED has no former
partition (R456) and is UNASSIGNED again after its zeroing. -/
def bobbinFenced (u : Nat) (s : State) : State :=
  let s := modBobbin u (fun b => { b with
    state := .fenced, streams := [], wait := none, leaving := b.leaving || b.state == .unassigned }) s
  match bobLaunch s u with
  | none => replaysLost (bobbinOf s u).part (bobStack u) s
  | some l =>
    if l.state = .ending then checkLaunch l.id s
    else if (launchImage s l).restart && !tooFew s l (bobStack u) then
      let l := { l with state := .replaying, replayed := true }
      checkLaunch l.id (stopMembers l (setLaunch l { s with bob := { s.bob with replaySeen := true } }))
    else stopLaunch l.id .fenced none 0 s

end Sys2Proof.Machine
end

