-- ==== Sys2Proof/Machine/ReedCommit.lean ====
section
/-! DEFINITION. A Reed engine's work on a pick: contributions verified, decoded and accumulated (R234, R235, R249, R250, R254),
and commits: conversion, wire quantisation, writes of results and partials, pushes and releases (R222, R236 to R248). -/

namespace Sys2Proof.Machine

/-- Causes a unit's own checker reports: the unit stops at once (R451). -/
def ownChecker (cause : Nat) : Bool := decide (0x0401 ≤ cause) && decide (cause ≤ 0x0406)

/-- The unit has stopped on its own checker and waits for the fence. -/
def stopped (s : State) (u : Nat) : Bool := s.saf.detected.any fun r => r.unit == u && ownChecker r.cause

/-- The engine takes steps for an operation of the communicator: in service, not stopped, its domain ON, told of the epoch the
operation was admitted under (R203), and the skein that issued it not stalled (R88, R92, R210). -/
def engineWorks (s : State) (k e : Nat) (o : RedOp) : Bool :=
  let c := commOf s k
  let v := viewOf s k e
  inService s (engineUnit e) && !stopped s (engineUnit e) && !unitHolds s (engineUnit e) 3 k && !domainSleeps s (engineUnit e) &&
    !testing s (engineUnit e) && v.state == .active && v.epoch == c.epoch && !skeinStalled s o.cmd.skein c.part

/-- A fault is one the step can meet: the shadow lane repeats the watched lane alone (R252), and the modular check runs in exact
mode and fails where it finds another value (R250). -/
def faultSeen (s : State) (e : Nat) (o : RedOp) (sum : Option Nat) (f : RedFault) : Bool :=
  match f with
  | .modCheck found => exactly o && sum.isSome && sum != some found
  | .shadow lane => lane == (tget 0 s.red.lane e).toNat
  | .dualRail _ => true

/-- The engine has taken steps of `per` elements over `n` elements (R240, R252). -/
def addEngineSteps (e per n : Nat) (s : State) : State :=
  { s with red := { s.red with steps := tmod 0 s.red.steps e (· + ceilDiv n per) } }

/-- A fault stops the engine, with one record (R253, R451). -/
def engineFault (k e : Nat) (o : RedOp) (pick seg expected : Nat) (f : RedFault) (s : State) : State :=
  let base := { mkRecord s (engineUnit e) 0x0401 with
    opcode := o.code, part := some (commOf s k).part, object := k, otype := 3 }
  match f with
  | .dualRail st => record { base with info0 := st } { s with red := { s.red with dualRailSeen := true } }
  | .shadow lane =>
    record { base with cause := 0x0403, cls := 3, info0 := lane, info1 := o.opseq.toNat + 2 ^ 32 * pick }
      { s with red := { s.red with shadowSeen := true } }
  | .modCheck found =>
    record { base with cause := 0x0404, cls := 3, info0 := seg, info1 := expected % 2 ^ 32 + 2 ^ 32 * (found % 2 ^ 32) }
      { s with red := { s.red with modCheckSeen := true } }

/-! ## CONTRIBUTION_BLOCK -/

/-- The number a completion names a source by: its rank, or 0x1_0000 + k for accelerator k (R253). -/
def sourceWord (c : Comm) (src : RedSrc) : Nat :=
  match src with
  | .rank r => r
  | .acc p => 0x10000 + p
  | _ => c.rank

/-- R253: the operation has failed its checks on a source too often. -/
def checkExhausted (k e : Nat) (o : RedOp) (word : Nat) (s : State) : State :=
  let s := record { mkRecord s (engineUnit e) 0x0407 with
    opcode := o.code, part := some (commOf s k).part, object := k, otype := 3, info0 := word } s
  failRedOp k o .checkFail word { s with red := { s.red with checkFailSeen := true } }

def setIn (i : RedIn) (r : RedRun) : RedRun := { r with ins := r.ins.map fun x => if x.src = i.src then i else x }

/-- A source is asked for a pick's missing units again: a recall, a resend by the accelerator, or another read of the block. -/
def askAgain (k e : Nat) (o : RedOp) (r : RedRun) (i : RedIn) (off : Nat) (s : State) : State :=
  let c := commOf s k
  let far := match i.src with | .rank _ | .acc _ => true | _ => false
  let i := { i with recalling := far, reread := if far then none else some off }
  let s := setRedOp k (setRun (setIn i r) o) s
  let s := bump (engineUnit e) 9 1 { s with red := { s.red with crcRetry := satInc s.red.crcRetry } }
  match i.src with
  | .rank x => sendControl k o.opseq x r.pick (senderStart c o r.pick) 2 s
  | .acc p => grantRange 0x11 p k o.opseq (pickStart c o r.pick) (pickBytes c o r.pick) s
  | _ => s

/-- A block fails its CRC and is discarded (R253, R254). With no re-request pending for the pick and source one is made; a block
that answers a pending one has made it fail, and `CHK_RETRY` failed ones end the operation; any other adds none. DEDUCED: of what
is pushed, a block accepted while a re-request is pending answers it; the blocks that wait then count for the next no more. -/
def badBlock (k e : Nat) (o : RedOp) (r : RedRun) (i : RedIn) (off : Nat) (again : Bool) (s : State) : State :=
  let s := { s with red := { s.red with crcInSeen := true } }
  let pending := i.recalling || i.reread.isSome
  let failed := again || i.reread == some off
  if pending && !failed then s
  else
    let i := if failed then { i with retries := i.retries + 1 } else i
    if i.retries ≥ s.red.chkRetry.toNat then checkExhausted k e o (sourceWord (commOf s k) i.src) s
    else
      let mine (b : RedBlock) : Bool :=
        b.comm == k && b.opseq == o.opseq && b.pick == r.pick && b.stage == r.stage && b.src == i.src
      askAgain k e o r i off { s with red := { s.red with
        arrived := s.red.arrived.map fun b => if mine b then { b with again := false } else b } }

/-- The bytes of a pick's receipt unit have all been received; `base` is the pick's first byte and `len` its bytes, in the form
whose offsets the units of 64 bytes count (R254). -/
def unitHere (base len : Nat) (i : RedIn) (u : Nat) : Bool :=
  (List.range 64).all fun j =>
    decide (64 * u + j < base) || decide (base + len ≤ 64 * u + j) || (tget none i.got (64 * u + j - base)).isSome

/-- Bytes are taken, but for those of units received whole before. -/
def takeBytes (base len off : Nat) (bs : List Byte) (i : RedIn) : RedIn :=
  let u0 := (base + off) / 64
  let whole := ((List.range (ceilDiv (base + off + bs.length) 64 - u0)).map (u0 + ·)).filter (unitHere base len i)
  { i with got := bs.zipIdx.foldl (fun t b =>
      if whole.contains ((base + off + b.2) / 64) then t else tset none t (off + b.2) (some b.1)) i.got }

def gotByte (i : RedIn) (b : Nat) : Nat := ((tget none i.got b).map (·.toNat)).getD 0

/-- Elements of a range that a source can now add: their bytes are all there and their segment has a slot. -/
def addable (s : State) (k : Nat) (o : RedOp) (r : RedRun) (i : RedIn) (off n : Nat) : List Nat :=
  let c := commOf s k
  let f := srcFmt c o i.src
  (f.touched off n).filter fun x =>
    let seg := x / segSize o r.stage
    decide (x < pickElems c o r.pick) && !tget false i.added x && !r.segDone.contains seg &&
      (slotFor s k o.opseq r.pick r.stage seg).isSome && (f.deps x).all fun b => (tget none i.got b).isSome

/-- One element is added: the first contribution to reach it loads it (R235). Gives the values beyond the FP32 range. -/
def addElem (c : Comm) (o : RedOp) (i : RedIn) (x : Nat) (t : Tab (Option RAcc) × Nat) : Tab (Option RAcc) × Nat :=
  let (v, ovf) := (srcFmt c o i.src).load (exactly o) (isIntFmt o.inFmt) (gotByte i) x
  let v := match tget none t.1 x with
    | some a => combine o.oper a v
    | none => v
  (tset none t.1 x (some v), t.2 + b2n ovf)

/-- The place of a spilled segment in the spill buffer (R219). -/
def spillVa (c : Comm) (u : Nat) : Nat := c.spillVa + u * 2 ^ 18

/-- The spill unit of a segment that has one. -/
def spillOf (s : State) (k : Nat) (o : RedOp) (pick stage seg : Nat) : Option Nat :=
  match (slotFor s k o.opseq pick stage seg).map RedSlot.kind with
  | some (SlotKind.spill u) => some u
  | _ => none

/-- Bytes of what a segment counts, as its working state holds it: an accumulator, or a byte that is moved. -/
def cellBytes (o : RedOp) (stage : Nat) : Nat := if movesBytes o stage then 1 else if exactly o then 40 else 4

/-- An accumulator read back from a slot's bytes. -/
def slotAcc (o : RedOp) (bs : List Byte) : RAcc :=
  if exactly o then readAcc (leNat bs) else if isIntFmt o.inFmt then .int (BitVec.ofNat 32 (leNat bs)) else .fp (leNat bs)

/-- A run's state for some cells of a spilled segment, as the spill buffer's bytes from cell `lo` on say it. -/
def readCells (o : RedOp) (bs : List Byte) (lo : Nat) (xs : List Nat) (r : RedRun) : RedRun :=
  let w := cellBytes o r.stage
  let cell (x : Nat) : List Byte := (bs.drop (w * (x - lo))).take w
  if movesBytes o r.stage then
    { r with ins := r.ins.map fun i => { i with got := xs.foldl (fun t x =>
        if (tget none t x).isSome then tset none t x (cell x)[0]? else t) i.got } }
  else
    { r with acc := xs.foldl (fun t x =>
        if (tget none t x).isSome then tset none t x (some (slotAcc o (cell x))) else t) r.acc }

/-- The bytes that hold a cell of a run's state. -/
def cellOf (o : RedOp) (r : RedRun) (x : Nat) : Option (List Byte) :=
  if movesBytes o r.stage then ((r.ins[0]?).bind fun i => tget none i.got x).map fun b => [b]
  else (tget none r.acc x).map accBytes

/-- The 4 KiB blocks of a spilled segment that cells `xs` lie in, as their first byte and their length (R219). -/
def spillBlocks (o : RedOp) (stage seg : Nat) (xs : List Nat) : Nat × Nat :=
  let w := cellBytes o stage
  let base := seg * segSize o stage
  let lo := xs.foldl min (xs.headD base) - base
  let hi := xs.foldl max base - base + 1
  (w * lo / 4096 * 4096, min (2 ^ 18) (ceilDiv (w * hi) 4096 * 4096) - w * lo / 4096 * 4096)

/-- Cells `xs` of spilled segments are read back from the spill buffer, before anything is added (R219). Each block passes through
one of the engine's reserved slots, which keeps nothing of it afterwards. -/
def unspill (k e : Nat) (o : RedOp) (xs : List Nat) (ext : List ExtRead) : List Nat → RedRun → State → State × XferEnd × RedRun
  | [], r, s => (s, .ok, r)
  | g :: rest, r, s =>
    let mine := xs.filter fun x => x / segSize o r.stage == g
    match spillOf s k o r.pick r.stage g, mine with
    | some u, _ :: _ =>
      let (a, n) := spillBlocks o r.stage g mine
      let va := spillVa (commOf s k) u + a
      match vaCheck { redLookup s k e o with access := .write } va n (ext ++ o.ext) s with
      | (s, .ok) =>
        match vaRead (redLookup s k e o) va n (ext ++ o.ext) s with
        | (s, .ok, bs) =>
          let w := cellBytes o r.stage
          -- the first whole cell of the blocks read, and the bytes before it
          let first := ceilDiv a w
          let r := readCells o (bs.drop (w * first - a)) (g * segSize o r.stage + first) mine r
          unspill k e o xs ext rest r s
        | (s, x, _) => (s, x, r)
      | (s, x) => (s, x, r)
    | _, _ => unspill k e o xs ext rest r s

/-- Cells `xs` of spilled segments are written to the spill buffer, with what has been added (R219). -/
def respill (k e : Nat) (o : RedOp) (r : RedRun) (xs : List Nat) (ext : List ExtRead) (s : State) : State :=
  let w := cellBytes o r.stage
  xs.foldl (fun s x =>
    let seg := x / segSize o r.stage
    match spillOf s k o r.pick r.stage seg, cellOf o r x with
    | some u, some bs =>
      (vaWrite (redLookup s k e o) (spillVa (commOf s k) u + w * (x - seg * segSize o r.stage)) bs (ext ++ o.ext) s).1
    | _, _ => s) s

/-- The counter of an engine's elements: by input format in fast mode, and one for exact mode (R495). -/
def elemCounter (o : RedOp) : Nat :=
  if exactly o then 6
  else
    match o.inFmt with
    | 0x01 | 0x08 => 2
    | 0x02 | 0x03 => 3
    | 0x04 | 0x05 | 0x09 => 4
    | _ => 5

/-- Elements of a contribution have been added (R495, R503). -/
def countElems (k e : Nat) (o : RedOp) (n : Nat) (s : State) : State :=
  bump (engineUnit e) (elemCounter o) n (bumpPart (commOf s k).part 4 n s)

/-- A verified block is added to what its segments hold; `used` is the block that waited, where it did. A page fault in the spill
buffer leaves the block to be taken again. -/
def addBlock (k e : Nat) (o : RedOp) (pick stage : Nat) (src : RedSrc) (off : Nat) (bs : List Byte) (used : Option RedBlock)
    (ext : List ExtRead) (s : State) : State :=
  let c := commOf s k
  let r := runOf c o pick stage
  match r.ins.find? fun i => i.src == src with
  | none => s
  | some i =>
    let i := takeBytes (srcStart c o pick src) (srcBytes c o pick src) off bs i
    let xs := if movesBytes o stage then (List.range bs.length).map (off + ·) else addable s k o r i off bs.length
    match unspill k e o xs ext (segsOf c o pick stage src off bs.length) r s with
    | (s, .faulted, _) => s
    | (s, .fail st, _) => endRedOp k o st (redWords c o none) s
    | (s, .ok, r) =>
      let elems := if movesBytes o stage then [] else xs
      let (acc, sat) := elems.foldl (fun t x => addElem c o i x t) (r.acc, 0)
      let i := { i with
        added := elems.foldl (fun t x => tset false t x true) i.added
        recalling := i.recalling && !srcComplete c o pick i
        reread := if i.reread = some off then none else i.reread }
      let r := setIn i { r with acc := acc }
      let s := addEngineSteps e (if exactly o then 16 else 64) elems.length (countElems k e o elems.length s)
      let s := { s with red := { s.red with
        sat := satAdd s.red.sat sat
        arrived := match used with
          | some b => s.red.arrived.erase b
          | none => s.red.arrived } }
      respill k e o r xs ext (setRedOp k (setRun r o) s)

/-- The address of a local source's bytes for a pick (R208, R213, R244). -/
def localVa (c : Comm) (o : RedOp) (pick : Nat) (src : RedSrc) : Nat :=
  (match src with | .work => o.workVa | _ => o.inVa) + srcStart c o pick src

/-- A place in a pick where a check block of a source's form begins, and the bytes to the block's end (R249). -/
def checkBlock (c : Comm) (o : RedOp) (pick : Nat) (src : RedSrc) (off : Nat) : Option Nat :=
  let a := srcStart c o pick src + off
  let n := min (4096 - a % 4096) (srcBytes c o pick src - off)
  if (off = 0 ∨ a % 4096 = 0) ∧ n ≠ 0 then some n else none

/-- CONTRIBUTION_BLOCK: a check block reaches its engine. A block of `IN_VA` or the work buffer is read here; one pushed by a
member or an accelerator has arrived before. `corrupt` says that the engine reads the block with an error, which its CRC-32C
shows (R249). -/
def contributionBlock (k : Nat) (os : BitVec 32) (pick stage : Nat) (src : RedSrc) (off : Nat) (corrupt : Bool)
    (fault : Option RedFault) (ext : List ExtRead) (s : State) : State :=
  let c := commOf s k
  match liveOp s k os with
  | none => s
  | some o =>
    match pickEngine o pick with
    | none => s
    | some e =>
      let r := runOf c o pick stage
      let ready := engineWorks s k e o && decide (pick < pickCount c o) && (planStages (redPlan c o pick)).contains stage &&
        !stageDone o pick stage && (stageSources c o pick stage).contains src && (src != .work || stageDone o pick 0)
      match ready, r.ins.find? fun i => i.src == src with
      | true, some i =>
        match fault.filter (faultSeen s e o none) with
        | some f => engineFault k e o pick 0 0 f s
        | none =>
          let segs (n : Nat) : List Nat := segsOf c o pick stage src off n
          let opened (n : Nat) (s : State) : State := (segs n).foldl (fun s g => (openSeg k o pick stage g s).2) s
          let held (n : Nat) (s : State) : Bool := (segs n).any fun g => (slotFor s k os pick stage g).isSome
          match src with
          | .rank _ | .acc _ =>
            match (waitingBlocks s k os pick stage src).find? fun b => b.off == off with
            | none => s
            | some b =>
              let n := b.bytes.length
              let s := opened n s
              if !held n s then s
              else if crc32c (if corrupt then misread b.bytes else b.bytes) = b.crc then
                addBlock k e o pick stage src off b.bytes (some b) ext s
              else badBlock k e o r i off b.again { s with red := { s.red with arrived := s.red.arrived.erase b } }
          | _ =>
            match checkBlock c o pick src off with
            | none => s
            | some n =>
              let s := opened n s
              if !held n s then s
              else
                match vaRead (redLookup s k e o) (localVa c o pick src + off) n (ext ++ o.ext) s with
                | (s, .faulted, _) => s
                | (s, .fail st, _) => endRedOp k o st (redWords c o none) s
                | (s, .ok, bs) =>
                  if crc32c (if corrupt then misread bs else bs) = crc32c bs then
                    addBlock k e o pick stage src off bs none ext s
                  else badBlock k e o r i off false s
      | _, _ => s

/-! ## PICK_COMMIT -/

/-- Everything a segment waits for has been added. -/
def segReady (c : Comm) (o : RedOp) (r : RedRun) (seg : Nat) : Bool :=
  let lo := seg * segSize o r.stage
  let hi := min (lo + segSize o r.stage) (stageSize c o r.pick r.stage)
  r.ins.all fun i => (List.range (hi - lo)).all fun j =>
    if movesBytes o r.stage then (tget none i.got (lo + j)).isSome else tget false i.added (lo + j)

/-- The accumulators of a pick, in order. -/
def runAccs (c : Comm) (o : RedOp) (r : RedRun) : List RAcc :=
  (List.range (pickElems c o r.pick)).filterMap fun x => tget none r.acc x

/-- Rounding of a pick's elements at a conversion stage (R238). -/
def pickRnds (c : Comm) (o : RedOp) (pick stage n : Nat) : List Rnd :=
  (List.range n).map fun j => redRnd c.stochastic c.seed o.opseq stage (pickElem0 c o pick + j)

/-- Values in the input format. -/
def toInput (c : Comm) (o : RedOp) (pick : Nat) (vs : List Num) : List Byte × Nat :=
  (opFmt o).encode (exactly o) (vs.zip (pickRnds c o pick 0 vs.length))

/-- Writes of a commit in order, until one fails. -/
def writeParts (k e : Nat) (o : RedOp) (ext : List ExtRead) : List (Nat × List Byte) → State → State × XferEnd
  | [], s => (s, .ok)
  | (va, bs) :: rest, s =>
    match vaWrite (redLookup s k e o) va bs (ext ++ o.ext) s with
    | (s, .ok) => writeParts k e o ext rest s
    | r => r

/-- Where the final bytes of a pick go at this member: the device-side output and each accelerator's (R208, R213). -/
def outputVas (c : Comm) (o : RedOp) (pick : Nat) : List Nat :=
  let off := if o.code = 0x0411 then pickStart c o pick - c.rank * chunkLen c o else pickStart c o pick
  let accs := ((List.range 8).filter c.accel.getLsbD).map fun p => o.accOut.getD p 0
  ((o.outVa :: accs).filter (· != 0)).map (· + off)

def outputsOf (c : Comm) (o : RedOp) (pick : Nat) (bs : List Byte) : List (Nat × List Byte) :=
  (outputVas c o pick).map fun va => (va, bs)

/-- A stage makes the final pick: the last of a producer's. -/
def lastStage (c : Comm) (o : RedOp) (pick stage : Nat) : Bool :=
  let p := redPlan c o pick
  p.prod && (stage == 1 || p.red == [])

/-- A stage of a reduction pushes its pick on (R214). -/
def pushesPick (c : Comm) (o : RedOp) (pick stage : Nat) : Bool := stage == 1 || (redPlan c o pick).red == []

/-- Where a stage's partial lies in the work buffer: the first half takes the star's, the second what is pushed on (R213, R244). -/
def partialVa (c : Comm) (o : RedOp) (pick stage : Nat) : Nat :=
  let half := if stage = 0 then 0 else if exactly o then exactTotal c o else o.len
  o.workVa + half + (if exactly o then formStart c o pick else pickStart c o pick)

/-- A stage's result is quantised for the wire: at the first push that takes the element out of the member (R247). -/
def quantises (c : Comm) (o : RedOp) (pick stage : Nat) : Bool :=
  wired c o && !movesBytes o stage &&
    (if lastStage c o pick stage then (redPlan c o pick).down != [] else pushesPick c o pick stage)

/-- The residuals of a pick (R248). -/
def residualVa (c : Comm) (o : RedOp) (pick : Nat) : Nat := o.workVa + 2 * o.len + 4 * pickElem0 c o pick

/-- What a commit writes: the addresses and lengths of its results, and the residuals. -/
def commitRanges (c : Comm) (o : RedOp) (pick stage : Nat) : List (Nat × Nat) :=
  let p := redPlan c o pick
  let outs := (outputVas c o pick).map fun va => (va, pickBytes c o pick)
  (if movesBytes o stage then (if p.out && (stage == 2 || p.fin.isNone) then outs else [])
   else if lastStage c o pick stage then (if p.out then outs else [])
   else [(partialVa c o pick stage, if exactly o then formLen c o pick else pickBytes c o pick)]) ++
    (if quantises c o pick stage then [(residualVa c o pick, 4 * pickElems c o pick)] else [])

/-- The pages of a commit all translate, so that no page fault parts its writes (R247): a pick is quantised once. -/
def checkRanges (r : Lookup) (ext : List ExtRead) : List (Nat × Nat) → State → State × XferEnd
  | [], s => (s, .ok)
  | (va, n) :: rest, s =>
    match vaCheck r va n ext s with
    | (s, .ok) => checkRanges r ext rest s
    | x => x

/-- The residuals of a pick, line by line: their bytes, and which lines are poisoned. A line read as POISON gives zeros
(R248). -/
def readResiduals (k e : Nat) (o : RedOp) (ext : List ExtRead) :
    List (Nat × Nat) → State → State × XferEnd × List (List Byte × Bool)
  | [], s => (s, .ok, [])
  | (va, n) :: rest, s =>
    match vaRead (redLookup s k e o) va n (ext ++ o.ext) s with
    | (s, .ok, bs) =>
      let (s, x, more) := readResiduals k e o ext rest s
      (s, x, (bs, false) :: more)
    | (s, .fail .poison, _) =>
      let s := { s with red := { s.red with residualPoisonSeen := true } }
      let (s, x, more) := readResiduals k e o ext rest s
      (s, x, (leBytes n 0, true) :: more)
    | (s, x, _) => (s, x, [])

/-- The writes of new residuals, line by line: over a poisoned line the whole of it is written, zeros where the pick has no
element (R248). -/
def residualWrites : List (Nat × Nat) → List (List Byte × Bool) → List Byte → List (Nat × List Byte)
  | (va, n) :: ps, (_, bad) :: rs, bs =>
    (if bad then (va - va % 64, slice (leBytes (va % 64) 0 ++ bs.take n) 0 64) else (va, bs.take n)) ::
      residualWrites ps rs (bs.drop n)
  | _, _, _ => []

/-- Quantises a pick for the wire, with its residuals read and rewritten (R247, R248). -/
def quantisePick (k e : Nat) (o : RedOp) (pick : Nat) (vs : List Num) (ext : List ExtRead) (s : State) :
    State × XferEnd × List Byte :=
  let c := commOf s k
  let pieces := linePieces (residualVa c o pick) (4 * vs.length)
  match readResiduals k e o ext pieces s with
  | (s, .ok, rs) =>
    let old := rs.flatMap (·.1)
    let res := (List.range vs.length).map fun j => fieldLE old (4 * j) 4
    let (bs, res, sat) := quantise (fmtOf o.wire) vs res (pickRnds c o pick 1 vs.length)
    let s := bump (engineUnit e) 10 vs.length { s with red := { s.red with sat := satAdd s.red.sat sat } }
    let (s, x) := writeParts k e o ext (residualWrites pieces rs (res.flatMap (leBytes 4))) (addEngineSteps e 64 vs.length s)
    (s, x, bs)
  | (s, x, _) => (s, x, [])

/-- What a finished pick of a stage leaves: the writes, the bytes in the pushed form, the values that saturated, and where the
pushed bytes can be read again (R212). -/
structure Finish where
  writes : List (Nat × List Byte)
  form : List Byte
  final : Bool
  sat : Nat := 0
  src : Option Nat := none

/-- Final bytes in the pushed form where they are not quantised: exact partials keep them without loss (R245). -/
def finalForm (o : RedOp) (bs : List Byte) : List Byte :=
  if exactly o then
    let f := opFmt o
    exactPages ((List.range (f.elems bs.length)).map fun i => exactOf (f.value (byteAt bs) i))
  else bs

/-- Bytes of a final pick received, in the input format (R247). -/
def fromForm (c : Comm) (o : RedOp) (pick : Nat) (bs : List Byte) : List Byte × Nat :=
  if exactly o then
    toInput c o pick ((List.range (pickElems c o pick)).map fun i => accValue 0 1 (exactFmt.load true false (byteAt bs) i).1)
  else if wired c o then
    toInput c o pick ((List.range (pickElems c o pick)).map fun i => (fmtOf o.wire).value (byteAt bs) i)
  else (bs, 0)

/-- A stage's result. The final pick is made at the engine that holds the whole sum; a partial is converted to the input format
for the work buffer, or kept exact, and is quantised where it is pushed in a wire format. -/
def finishPick (k e : Nat) (o : RedOp) (r : RedRun) (ext : List ExtRead) (s : State) : State × XferEnd × Finish :=
  let c := commOf s k
  let p := redPlan c o r.pick
  let bytesOf (i : RedIn) : List Byte :=
    (List.range (srcBytes c o r.pick i.src)).map fun b => BitVec.ofNat 8 (gotByte i b)
  if movesBytes o r.stage then
    let bs := ((r.ins[0]?).map bytesOf).getD []
    let (out, sat) := if r.stage = 2 then fromForm c o r.pick bs else (bs, 0)
    let here := p.out && (r.stage == 2 || p.fin.isNone)
    (s, .ok, { writes := if here then outputsOf c o r.pick out else [], form := bs, final := true, sat := sat,
               src := if r.stage = 0 then some (localVa c o r.pick .inVa) else none })
  else
    let last := lastStage c o r.pick r.stage
    let vs := (runAccs c o r).map (accValue (if last then o.oper else 0) c.contributors)
    if last then
      if quantises c o r.pick r.stage then
        match quantisePick k e o r.pick vs ext s with
        | (s, .ok, bs) =>
          let (out, sat) := fromForm c o r.pick bs
          (s, .ok, { writes := if p.out then outputsOf c o r.pick out else [], form := bs, final := true, sat := sat })
        | (s, x, _) => (s, x, { writes := [], form := [], final := true })
      else
        let (out, sat) := toInput c o r.pick vs
        (s, .ok, { writes := if p.out then outputsOf c o r.pick out else [], form := finalForm o out, final := true, sat := sat })
    else
      let va := partialVa c o r.pick r.stage
      if exactly o then
        let bs := exactPages (runAccs c o r)
        (s, .ok, { writes := [(va, bs)], form := bs, final := false, src := some va })
      else
        let (bs, sat) := toInput c o r.pick vs
        if quantises c o r.pick r.stage then
          match quantisePick k e o r.pick vs ext s with
          | (s, x, q) => (s, x, { writes := [(va, bs)], form := q, final := false, sat := sat })
        else (s, .ok, { writes := [(va, bs)], form := bs, final := false, sat := sat, src := some va })

/-- The stage has committed: its pushes are made and its sources released (R222). -/
def closeStage (k : Nat) (o : RedOp) (r : RedRun) (f : Finish) (s : State) : State :=
  let c := commOf s k
  let p := redPlan c o r.pick
  let dests := if f.final then p.down else if pushesPick c o r.pick r.stage then p.up else []
  let new := dests.map fun d =>
    ({ pick := r.pick, dest := d, final := f.final, roff := formStart c o r.pick, data := f.form, src := f.src } : RedPush)
  let outDone := if f.writes != [] && f.final then o.outDone ++ [r.pick] else o.outDone
  let o' := dropRun r.pick r.stage { o with stagesDone := o.stagesDone ++ [(r.pick, r.stage)], outDone := outDone,
                                            pushes := o.pushes ++ new }
  let s := sendWaiting k [] (setRedOp k o' s)
  let froms := if r.stage = 1 then p.red else if r.stage = 2 then p.fin.toList else []
  let s := froms.foldl (fun s d => sendControl k o.opseq d r.pick (senderStart c o r.pick) 1 s) s
  fillSlots k (checkRedOp k o.opseq s)

/-- Cells of a segment: its elements, or its bytes. -/
def segCells (c : Comm) (o : RedOp) (r : RedRun) (seg : Nat) : List Nat :=
  let lo := seg * segSize o r.stage
  (List.range (min (segSize o r.stage) (stageSize c o r.pick r.stage - lo))).map (lo + ·)

/-- The segment is the last of its pick to commit. -/
def lastSegment (c : Comm) (o : RedOp) (r : RedRun) : Bool := decide (segCount c o r.pick r.stage ≤ r.segDone.length + 1)

/-- What a commit needs is there: with the pick's last segment the pages it writes translate, and a spilled segment is read
back. -/
def commitChecked (k e : Nat) (o : RedOp) (r : RedRun) (seg : Nat) (ext : List ExtRead) (s : State) :
    State × XferEnd × RedRun :=
  let c := commOf s k
  let last := lastSegment c o r
  let writes := if last then commitRanges c o r.pick r.stage else []
  let reads :=
    if last && quantises c o r.pick r.stage then [(residualVa c o r.pick, 4 * pickElems c o r.pick)] else []
  match checkRanges { redLookup s k e o with access := .write } (ext ++ o.ext) writes s with
  | (s, .ok) =>
    match checkRanges (redLookup s k e o) (ext ++ o.ext) reads s with
    | (s, .ok) => unspill k e o (segCells c o r seg) ext [seg] r s
    | (s, x) => (s, x, r)
  | (s, x) => (s, x, r)

/-- Elements converted to the output format or the wire's when a stage commits (R240). -/
def convertedElems (c : Comm) (o : RedOp) (pick stage : Nat) : Nat :=
  if movesBytes o stage then (if stage = 2 ∧ paged c o then pickElems c o pick else 0)
  else if exactly o && !lastStage c o pick stage then 0
  else pickElems c o pick

/-- A segment commits; with its pick's last segment the result is written. `refused` counts the writes a destination refused for
their CRC and the engine wrote again (R253). -/
def commitSegment (k e : Nat) (o : RedOp) (r : RedRun) (seg refused : Nat) (ext : List ExtRead) (s : State) : State :=
  let c := commOf s k
  let mine (x : RedSlot) : Bool :=
    x.comm == k && x.opseq == o.opseq && x.pick == r.pick && x.stage == r.stage && x.seg == seg
  let last := lastSegment c o r
  let r := { r with segDone := r.segDone ++ [seg] }
  if !last then fillSlots k (dropSlots mine (setRedOp k (setRun r o) (worked (engineUnit e) 1 s)))
  else
    match finishPick k e o r ext s with
    | (s, .faulted, _) => s
    | (s, .fail st, _) => endRedOp k o st (redWords c o none) s
    | (s, .ok, f) =>
      let n := min refused s.red.chkRetry.toNat
      let s := { s with red := { s.red with crcOutSeen := s.red.crcOutSeen || refused != 0,
                                            crcRetry := satAdd s.red.crcRetry n } }
      if refused > s.red.chkRetry.toNat then checkExhausted k e o c.rank s
      else
        match writeParts k e o ext f.writes s with
        | (s, .faulted) => s
        | (s, .fail st) => endRedOp k o st (redWords c o none) s
        | (s', .ok) =>
          let o := { o with waits := o.waits ++ newWrites s s' }
          let s := s'
          let s := worked (engineUnit e) 1 (bump (engineUnit e) 7 1 s)
          let s := addEngineSteps e (if exactly o then 16 else 64) (convertedElems c o r.pick r.stage) s
          closeStage k o r f (dropSlots mine { s with red := { s.red with sat := satAdd s.red.sat f.sat } })

/-- PICK_COMMIT: a segment's check passes and it commits. Pushes of a stage that has committed before, held up by a page fault when
they were sent again, leave now. -/
def pickCommit (k : Nat) (os : BitVec 32) (pick stage seg refused : Nat) (fault : Option RedFault) (ext : List ExtRead)
    (s : State) : State :=
  let c := commOf s k
  match liveOp s k os with
  | none => s
  | some o =>
    match pickEngine o pick with
    | none => s
    | some e =>
      let r := runOf c o pick stage
      let works := engineWorks s k e o && decide (pick < pickCount c o) && (planStages (redPlan c o pick)).contains stage
      if !works then s
      else if stageDone o pick stage then sendWaiting k ext s
      else if !(decide (seg < segCount c o pick stage) && !r.segDone.contains seg &&
          (slotFor s k os pick stage seg).isSome && segReady c o r seg) then s
      else
        match commitChecked k e o r seg ext s with
        | (s, .faulted, _) => s
        | (s, .fail st, _) => endRedOp k o st (redWords c o none) s
        | (s, .ok, r) =>
          let cells := (segCells c o r seg).filterMap fun x => tget none r.acc x
          let sum := checkOf cells
          match fault.filter (faultSeen s e o (some sum)) with
          | some f => engineFault k e o pick seg sum f s
          | none => commitSegment k e o r seg refused ext (addEngineSteps e 64 (if exactly o then cells.length else 0) s)

end Sys2Proof.Machine
end

