-- ==== Sys2Proof/Machine/BobExec.lean ====
section
/-! DEFINITION. How a Bobbin issues an instruction (R282, R285, R286), with the instructions that reach scratch, streams, the
stack and the other members (R268, R269, R273, R280, R281). -/

namespace Sys2Proof.Machine

/-! ## Issue -/

/-- What an instruction does to its Bobbin: it goes on, jumps, or faults. -/
inductive BobRes where
  | next (b : Bobbin)
  | jump (b : Bobbin) (pc : Nat)
  | fault (st : Status) (rec : Option (Nat × Nat))
  deriving DecidableEq, Repr

/-- The Bobbin takes steps: it is RUNNING, waits for nothing, and has not been stopped by a check of its own (R286). -/
def bobRuns (s : State) (u : Nat) : Bool :=
  let b := bobbinOf s u
  b.state == .running && b.wait.isNone && inService s (bobbin u) && !stopped s (bobbin u) &&
    !unitHolds s (bobbin u) 4 b.launchId.toNat

/-- Steps to issue an instruction (R282). -/
def issueSteps (op : Nat) (taken : Bool) : Nat := if op = 0x18 then 2 else if taken then 3 else 1

/-- `n` steps of work: the watched lane advances every `period` of them. -/
def stepped (period n : Nat) (b : Bobbin) : Bobbin :=
  { b with steps := (b.steps + n) % period, shadowLane := b.shadowLane + BitVec.ofNat 5 ((b.steps + n) / period) }

/-- The watch period is 2^`SHADOW_LOG2` steps. -/
def addSteps (n : Nat) (u : Nat) (s : State) : State := modBobbin u (stepped (2 ^ s.bob.shadowLog2.toNat) n) s

/-- A detection by the Bobbin's own checkers: its bit and its record, on the way to the Selvedge. -/
def bobDetect (u cause info0 info1 : Nat) (s : State) : State :=
  let b := bobbinOf s u
  record { mkRecord s (bobbin u) cause with
    part := some b.part, object := b.launchId.toNat, otype := 4, info0 := info0, info1 := info1 } s

/-- A detected upset (R286); none where the check concerns the program only. -/
def bobUpset (u : Nat) (e : BobErr) (s : State) : Option State :=
  let b := bobbinOf s u
  match e with
  | .dualRail stage => some (bobDetect u 0x0401 stage 0 { s with bob := { s.bob with dualRailSeen := true } })
  | .shadow =>
    some (bobDetect u 0x0403 b.shadowLane.toNat b.launchId.toNat { s with bob := { s.bob with shadowSeen := true } })
  | .scalar => some (bobDetect u 0x0405 b.pc 0 { s with bob := { s.bob with shadowSeen := true } })
  | .parity => some (bobDetect u 0x0406 b.pc 0 s)
  | .none | .scratch | .scratchOne => none

/-- The instruction at a Bobbin's PC. -/
def bobIns (b : Bobbin) : Nat := fieldLE b.code b.pc 4

/-- A Bobbin issues its next instruction, where that is one of the opcode's and no upset is found. -/
def issue (op u : Nat) (e : BobErr) (s : State) (run : Nat → State → State) : State :=
  let b := bobbinOf s u
  if !bobRuns s u || b.code.isEmpty || insOp (bobIns b) != op then s
  else
    match bobUpset u e s with
    | some s => s
    | none =>
      let s := worked (bobbin u) 1 (bump (bobbin u) 2 1 s)
      run (bobIns b) s

/-- The result of an instruction that touches its own Bobbin only. -/
def bobResult (op u : Nat) (r : BobRes) (s : State) : State :=
  match r with
  | .next b => bobAdvance u (addSteps (issueSteps op false) u (setBobbin u b s))
  | .jump b pc =>
    let s := addSteps 3 u (setBobbin u { b with pc := pc } s)
    if pc ≥ b.code.length then bobFault u .bounds none s else s
  | .fault st rec => bobFault u st rec s

/-- An instruction on registers. -/
def regIns (op u : Nat) (e : BobErr) (s : State) (f : Nat → Bobbin → Bobbin) : Host.Outcome State Fault Refusal :=
  ends s (issue op u e s fun ins s => bobResult op u (.next (f ins (bobbinOf s u))) s)

/-- The same where the manual leaves part of the result open: the free value's number advances. -/
def openIns (op u : Nat) (e : BobErr) (s : State) (f : Nat → Nat → Bobbin → Bobbin) : Host.Outcome State Fault Refusal :=
  ends s (issue op u e s fun ins s => bobResult op u (.next (f (Config.freeNat s.seed) ins (bobbinOf s u))) (spend s))

/-- An instruction on registers that counts multiply-accumulates (R495, R503). -/
def countMacs (u ins : Nat) (s : State) : State :=
  match macsOf ins with
  | some (i, n) => bump (bobbin u) i n (bumpPart (bobbinOf s u).part 5 n s)
  | none => s

/-- An instruction that converts under the launch's `SEED`. -/
def seedOf (s : State) (u : Nat) : Word64 := match bobLaunch s u with | some l => l.seed | none => 0

/-! ## Scalar and control (R268, R269) -/

def execSop (bobbin : Nat) (e : BobErr) (s : State) : Host.Outcome State Fault Refusal :=
  regIns 0x01 bobbin e s fun i b => setS (fD i) (sopValue (bits i 0 8) (sreg b (fA i)) (sreg b (fB i))) b

def execSaddi (bobbin : Nat) (e : BobErr) (s : State) : Host.Outcome State Fault Refusal :=
  regIns 0x02 bobbin e s fun i b => setS (fD i) (addInt (sreg b (fA i)) (sext 16 (fImm i))) b

def execSandi (bobbin : Nat) (e : BobErr) (s : State) : Host.Outcome State Fault Refusal :=
  regIns 0x03 bobbin e s fun i b => setS (fD i) (sreg b (fA i) &&& BitVec.ofNat 64 (fImm i)) b

def execSshi (bobbin : Nat) (e : BobErr) (s : State) : Host.Outcome State Fault Refusal :=
  regIns 0x04 bobbin e s fun i b => setS (fD i) ((sreg b (fA i) <<< 16) ||| BitVec.ofNat 64 (fImm i)) b

/-- A scratch address: register a with a scaled immediate. -/
def scratchAddr (i scale : Nat) (b : Bobbin) : Word64 := addInt (sreg b (fA i)) (sext 16 (fImm i) * scale)

/-- A load of `n` bytes: BOUNDS under R257, CHECK_FAIL on a double-bit error, else the bytes, with a single-bit error corrected. -/
def loadIns (op u align n scale : Nat) (e : BobErr) (s : State) (put : Nat → List Byte → Bobbin → Bobbin) :
    Host.Outcome State Fault Refusal :=
  ends s (issue op u e s fun i s =>
    let b := bobbinOf s u
    let a := scratchAddr i scale b
    if !scratchOk a align n then bobResult op u (.fault .bounds none) s
    else if e = .scratch then
      bobResult op u (.fault .checkFail (some (0x0408, a.toNat))) { s with bob := { s.bob with scratchUeSeen := true } }
    else bobResult op u (.next (put i (scratchRead b a.toNat n) b)) (noteScratch (decide (e = .scratchOne)) u s))

/-- A store of `n` bytes. -/
def storeIns (op u n scale : Nat) (e : BobErr) (s : State) (val : Nat → Bobbin → List Byte) :
    Host.Outcome State Fault Refusal :=
  ends s (issue op u e s fun i s =>
    let b := bobbinOf s u
    let a := scratchAddr i scale b
    if !scratchOk a n n then bobResult op u (.fault .bounds none) s
    else bobResult op u (.next (scratchWrite a.toNat (val i b) b)) s)

def execSld (bobbin : Nat) (e : BobErr) (s : State) : Host.Outcome State Fault Refusal :=
  loadIns 0x05 bobbin 8 8 8 e s fun i bs b => setS (fD i) (BitVec.ofNat 64 (leNat bs)) b

def execSlw (bobbin : Nat) (e : BobErr) (s : State) : Host.Outcome State Fault Refusal :=
  loadIns 0x06 bobbin 4 4 4 e s fun i bs b => setS (fD i) (BitVec.ofNat 64 (leNat bs)) b

def execSst (bobbin : Nat) (e : BobErr) (s : State) : Host.Outcome State Fault Refusal :=
  storeIns 0x07 bobbin 8 8 e s fun i b => leBytes 8 (sreg b (fD i)).toNat

/-- `BR` reads sa in [25:21] and sb in [20:16]. -/
def execBr (bobbin : Nat) (e : BobErr) (s : State) : Host.Outcome State Fault Refusal :=
  ends s (issue 0x08 bobbin e s fun i s =>
    let b := bobbinOf s bobbin
    bobResult 0x08 bobbin
      (if brTaken (bits i 13 3) (sreg b (fD i)) (sreg b (fA i)) then .jump b (branchTarget i b.pc).toNat else .next b) s)

def execJal (bobbin : Nat) (e : BobErr) (s : State) : Host.Outcome State Fault Refusal :=
  ends s (issue 0x09 bobbin e s fun i s =>
    let b := bobbinOf s bobbin
    bobResult 0x09 bobbin (.jump (setS (fD i) (BitVec.ofNat 64 (b.pc + 4)) b) (branchTarget i b.pc).toNat) s)

/-- `JR` sets d first, then the PC from sa: where d is sa, the PC is the value d took. -/
def execJr (bobbin : Nat) (e : BobErr) (s : State) : Host.Outcome State Fault Refusal :=
  ends s (issue 0x0A bobbin e s fun i s =>
    let b := bobbinOf s bobbin
    let b := setS (fD i) (BitVec.ofNat 64 (b.pc + 4)) b
    let t := (sreg b (fA i)).toNat
    if t % 4 ≠ 0 ∨ t ≥ b.code.length then bobFault bobbin .bounds none (setBobbin bobbin b s)
    else bobResult 0x0A bobbin (.jump b t) s)

/-! ## Vector (R271 to R279) -/

def execVop (bobbin : Nat) (e : BobErr) (s : State) : Host.Outcome State Fault Refusal :=
  regIns 0x10 bobbin e s fun i b => vopWith i (lane (vreg b (fB i)) (tyWidth (fType i))) b

def execVops (bobbin : Nat) (e : BobErr) (s : State) : Host.Outcome State Fault Refusal :=
  regIns 0x11 bobbin e s fun i b => vopWith i (fun _ => (sreg b (fB i)).toNat % 2 ^ tyWidth (fType i)) b

def execVcmp (bobbin : Nat) (e : BobErr) (s : State) : Host.Outcome State Fault Refusal := regIns 0x12 bobbin e s vcmp
def execPop (bobbin : Nat) (e : BobErr) (s : State) : Host.Outcome State Fault Refusal := regIns 0x13 bobbin e s popPred
def execVred (bobbin : Nat) (e : BobErr) (s : State) : Host.Outcome State Fault Refusal := openIns 0x14 bobbin e s vred
def execVmov (bobbin : Nat) (e : BobErr) (s : State) : Host.Outcome State Fault Refusal := openIns 0x15 bobbin e s vmov

def setVBytes (d : Nat) (bs : List Byte) (b : Bobbin) : Bobbin := setV d (BitVec.ofNat 1024 (leNat bs)) b

def execVld (bobbin : Nat) (e : BobErr) (s : State) : Host.Outcome State Fault Refusal :=
  loadIns 0x16 bobbin 128 128 128 e s fun i bs b => setVBytes (fD i) bs b

def execVst (bobbin : Nat) (e : BobErr) (s : State) : Host.Outcome State Fault Refusal :=
  storeIns 0x17 bobbin 128 128 e s fun i b => leBytes 128 (vreg b (fD i)).toNat

def execVldu (bobbin : Nat) (e : BobErr) (s : State) : Host.Outcome State Fault Refusal :=
  loadIns 0x18 bobbin 1 128 1 e s fun i bs b => setVBytes (fD i) bs b

def execVdot (bobbin : Nat) (e : BobErr) (s : State) : Host.Outcome State Fault Refusal :=
  ends s (issue 0x20 bobbin e s fun i s => bobResult 0x20 bobbin (.next (vdot i (bobbinOf s bobbin))) (countMacs bobbin i s))

def execVdotmx (bobbin : Nat) (e : BobErr) (s : State) : Host.Outcome State Fault Refusal :=
  ends s (issue 0x21 bobbin e s fun i s => bobResult 0x21 bobbin (.next (vdotmx i (bobbinOf s bobbin))) (countMacs bobbin i s))

def execAop (bobbin : Nat) (e : BobErr) (s : State) : Host.Outcome State Fault Refusal := regIns 0x22 bobbin e s aop

def execVcvt (bobbin : Nat) (e : BobErr) (s : State) : Host.Outcome State Fault Refusal :=
  regIns 0x28 bobbin e s (vcvt (seedOf s bobbin))

def execMxq (bobbin : Nat) (e : BobErr) (s : State) : Host.Outcome State Fault Refusal :=
  regIns 0x29 bobbin e s (mxq (seedOf s bobbin))

def execMxd (bobbin : Nat) (e : BobErr) (s : State) : Host.Outcome State Fault Refusal := regIns 0x2A bobbin e s mxd

/-! ## Streams (R261, R280) -/

/-- The units of an `SRD` or `SWR`: stack and scratch address of each. -/
def strideUnits (a sa count : Nat) (stride : Int) (unit : Nat) : List (Int × Nat) :=
  (List.range count).map fun (i : Nat) => ((a : Int) + stride * ((i * unit : Nat) : Int), sa + i * unit)

/-- The units of an `SGTH`, from the list of indices in scratch. -/
def gatherUnits (b : Bobbin) (list sa count unit : Nat) : List (Int × Nat) :=
  (List.range count).map fun i => (((leNat (scratchRead b (list + 4 * i) 4) * unit : Nat) : Int), sa + i * unit)

/-- The stack addresses are aligned, below 2^37 and inside a window with the right; scratch holds every unit. -/
def unitsOk (wins : List BobWin) (write : Bool) (unit : Nat) (us : List (Int × Nat)) : Bool :=
  us.all fun x =>
    decide (0 ≤ x.1) && x.1.toNat % unit == 0 && x.2 % unit == 0 && decide (x.2 + unit ≤ scratchSize) &&
      winAllows wins write x.1.toNat unit

/-- The stream is issued; its units complete in any order. -/
def addStream (u tag : Nat) (write np : Bool) (log2 : Nat) (us : List (Int × Nat)) (s : State) : State :=
  let b := bobbinOf s u
  let x : Stream := { id := b.nextStream, tag := tag, write := write, np := np, log2 := log2,
                      units := us.map fun y => { a := y.1.toNat, sa := y.2 } }
  sendRequest (8 + bobStack u) (bobbin u) (controller (bobStack u)) 0 0 0 (.stream u x.id)
    (setBobbin u { b with streams := b.streams ++ [x], nextStream := b.nextStream + 1 } s)

/-- A stream instruction: a 17th waits and is not issued; arguments breaking R259 or R280 are a BOUNDS fault. -/
def streamIns (op u : Nat) (e : BobErr) (s : State) : Host.Outcome State Fault Refusal :=
  ends s (if 16 ≤ (bobbinOf s u).streams.length then s else issue op u e s fun i s =>
      let b := bobbinOf s u
      let log2 := bits i 0 3
      let unit := 64 * 2 ^ log2
      let sa := sreg b (fD i)
      let sb := (sreg b (fA i)).toNat
      let sc := (sreg b (fB i)).toNat
      let count := bits sc 0 16
      let gather := op == 0x32
      let wins := match bobLaunch s u with | some l => l.wins | none => []
      let listBad := gather && (!scratchOk sa 4 (4 * count) || bits sc 32 32 != 0)
      if count = 0 ∨ count > 4096 ∨ bits sc 16 16 ≠ 0 ∨ listBad ∨ sb + count * unit > scratchSize then
        bobResult op u (.fault .bounds none) s
      else if gather && e = .scratch then
        bobResult op u (.fault .checkFail (some (0x0408, sa.toNat))) { s with bob := { s.bob with scratchUeSeen := true } }
      else
        let s := noteScratch (gather && decide (e = .scratchOne)) u s
        let us := if gather then gatherUnits b sa.toNat sb count unit
                  else strideUnits sa.toNat sb count (sext 32 (bits sc 32 32)) unit
        if !unitsOk wins (op == 0x31) unit us then bobResult op u (.fault .bounds none) s
        else
          let s := addStream u (fPred i) (op == 0x31) (bit i 3) log2 us s
          bobResult op u (.next (bobbinOf s u)) s)

def execSrd (bobbin : Nat) (e : BobErr) (s : State) : Host.Outcome State Fault Refusal := streamIns 0x30 bobbin e s
def execSwr (bobbin : Nat) (e : BobErr) (s : State) : Host.Outcome State Fault Refusal := streamIns 0x31 bobbin e s
def execSgth (bobbin : Nat) (e : BobErr) (s : State) : Host.Outcome State Fault Refusal := streamIns 0x32 bobbin e s

/-! ## Waiting (R281) -/

/-- An instruction that waits: it ends at once where nothing is left to wait for. -/
def waitIns (op u : Nat) (e : BobErr) (s : State) (w : Nat → Bobbin → BobWait) : Host.Outcome State Fault Refusal :=
  ends s (issue op u e s fun i s =>
    bobWake u (addSteps 1 u (modBobbin u (fun b => { b with wait := some (w i b) }) s)))

def execSwait (bobbin : Nat) (e : BobErr) (s : State) : Host.Outcome State Fault Refusal :=
  waitIns 0x33 bobbin e s fun i _ => .tag (fPred i) (fD i)

def execFence (bobbin : Nat) (e : BobErr) (s : State) : Host.Outcome State Fault Refusal :=
  waitIns 0x3A bobbin e s fun _ _ => .fence

/-- `SCRC`: the block at sa, which must be one of scratch. -/
def execScrc (bobbin : Nat) (e : BobErr) (s : State) : Host.Outcome State Fault Refusal :=
  ends s (issue 0x34 bobbin e s fun i s =>
    let b := bobbinOf s bobbin
    let a := sreg b (fA i)
    if !scratchOk a 4096 4096 then bobResult 0x34 bobbin (.fault .bounds none) s
    else
      let v := match tget none b.tags (a.toNat / 4096) with
        | some c => c.toNat + 2 ^ 32
        | none => 0
      bobResult 0x34 bobbin (.next (setS (fD i) (BitVec.ofNat 64 v) b)) s)

/-- `SATOM`: an indivisible operation on 8 bytes of the stack. -/
def execSatom (bobbin : Nat) (e : BobErr) (s : State) : Host.Outcome State Fault Refusal :=
  ends s (issue 0x39 bobbin e s fun i s =>
    let b := bobbinOf s bobbin
    let a := (sreg b (fA i)).toNat
    let (wins, ctx) := match bobLaunch s bobbin with | some l => (l.wins, l.ctx) | none => ([], 0)
    if a % 8 ≠ 0 ∨ !winAllows wins true a 8 then bobResult 0x39 bobbin (.fault .bounds none) s
    else
      match stackRead bobbin ctx a 8 s with
      | (s, .ok, bs) =>
        let op : AtomOp := if fFunc i = 0 then .add else if fFunc i = 1 then .swap else .cmpSwap
        let v := atomApply op (leNat bs) (sreg b (fB i)).toNat (sreg b (fD i)).toNat
        match stackWrite bobbin ctx a (leBytes 8 v) s with
        | (s, .ok) => bobResult 0x39 bobbin (.next (setS (fD i) (BitVec.ofNat 64 (leNat bs)) b)) s
        | (s, st) => bobResult 0x39 bobbin (.fault st none) s
      | (s, st, _) => bobResult 0x39 bobbin (.fault st none) s)

def execTime (bobbin : Nat) (e : BobErr) (s : State) : Host.Outcome State Fault Refusal :=
  ends s (issue 0x3D bobbin e s fun i s =>
    bobResult 0x3D bobbin (.next (setS (fD i) (dieTime s (8 + bobStack bobbin)) (bobbinOf s bobbin))) s)

/-! ## Barriers (R281) -/

/-- The members a barrier of Bobbin `u` waits for. -/
def barrierScope (s : State) (u : Nat) (gang : Bool) : List Nat :=
  match bobLaunch s u with
  | some l => l.members.filter fun v => gang || bobStack v == bobStack u
  | none => []

/-- Every member in scope has arrived or has halted. -/
def barrierMet (s : State) (u : Nat) (gang : Bool) : Bool :=
  (barrierScope s u gang).all fun v =>
    (bobbinOf s v).wait == some (.barrier gang) || (bobbinOf s v).state == .halted

def passBarrier (gang : Bool) (s : State) (v : Nat) : State :=
  let b := bobbinOf s v
  if b.wait = some (.barrier gang) then
    let s := setBobbin v { b with wait := none } s
    if b.code.isEmpty then setBobbin v { b with wait := none, flag := true } s else bobAdvance v s
  else s

/-- BARRIER_RELEASE of the barrier Bobbin `u` waits at. -/
def barrierRelease (u : Nat) (s : State) : State :=
  match (bobbinOf s u).wait with
  | some (.barrier gang) => if barrierMet s u gang then (barrierScope s u gang).foldl (passBarrier gang) s else s
  | _ => s

def execBarrierRelease (bobbin : Nat) (s : State) : Host.Outcome State Fault Refusal := ends s (barrierRelease bobbin s)

end Sys2Proof.Machine
end

