-- ==== Sys2Proof/Machine/BobFuncs.lean ====
section
/-! DEFINITION. The resident functions (chapter 10): sequences and KV layout (R303, R305, R306), attention decode (R308 to
R313), the optimizer step (R316 to R319), requantisation (R321, R322) and gather (R323 to R325). The manual gives no code of
the resident images, so a member's work is done at the events the functions name: the stack barrier, the checkpoints and the
halt. -/

namespace Sys2Proof.Machine

/-- A field of a launch's argument block. -/
def argAt (l : Launch) (off n : Nat) : Nat := fieldLE l.args off n

/-- What a member's memory accesses have come to: the first status that is not OK ends its work. -/
structure MemRun where
  s : State
  st : Status
  deriving DecidableEq, Repr

def runRead (u ctx a len : Nat) (r : MemRun) : MemRun × List Byte :=
  if r.st ≠ .ok then (r, [])
  else
    let (s, st, bs) := stackRead u ctx a len r.s
    ({ s := s, st := st }, bs)

def runWrite (u ctx a : Nat) (bs : List Byte) (r : MemRun) : MemRun :=
  if r.st ≠ .ok then r
  else
    let (s, st) := stackWrite u ctx a bs r.s
    { s := s, st := st }

/-! ## Sequences (R303, R305, R306) -/

def seqField (g : BitVec 128) (lo w : Nat) : Nat := bits g.toNat lo w
def kvBase (g : BitVec 128) : Nat := seqField g 0 41
def seqSpans (g : BitVec 128) : Nat := seqField g 64 20
def seqLayers (g : BitVec 128) : Nat := seqField g 96 8 + 1
def seqHkv (g : BitVec 128) : Nat := seqField g 104 6 + 1
def seqDim (g : BitVec 128) : Nat := 64 * 2 ^ seqField g 112 2
def seqFmt (g : BitVec 128) : Nat := seqField g 114 2
def seqGq (g : BitVec 128) : Nat := seqField g 116 4 + 1
def seqHq (g : BitVec 128) : Nat := seqHkv g * seqGq g

/-- Tokens of a KV block. -/
def kvTokens (g : BitVec 128) : Nat :=
  (if seqFmt g = 0 then 2048 else if seqFmt g = 1 then 3968 else 7680) / seqDim g

/-- Capacity in tokens, and size in spans. -/
def seqCapacity (g : BitVec 128) : Nat := 16 * seqSpans g * kvTokens g
def seqRegion (g : BitVec 128) : Nat := seqLayers g * seqHkv g * seqSpans g

/-- The format of a KV block's elements. -/
def kvFmt (g : BitVec 128) : RedFmt := fmtOf (if seqFmt g = 0 then 0x02 else if seqFmt g = 1 then 0x10 else 0x14)

/-- Stack address of a K (`c` = 0) or V block: pair index `x`, span `j`. -/
def kvAddr (g : BitVec 128) (x j c : Nat) : Nat := (kvBase g / 65536 + 2 * (x * seqSpans g + j) + c) * 4096

/-! ## Attention decode (R308 to R313) -/

def negInf : Nat := 0xFF800000

/-- exp2 of a difference, +0 where both operands are −∞ (R312). -/
def expDiff (a b : Nat) : Nat := if a = negInf ∧ b = negInf then 0 else exp2Code (fsub a b)

/-- A dot product through the accumulator in chunks of 1 024 bits, then the sum of its lanes. -/
def dotChunks (g : FFmt) (k : Nat) : Nat → List Nat → List Nat → List Nat → Nat
  | 0, acc, _, _ => treeSum32 acc
  | n + 1, acc, q, v =>
    if q = [] then treeSum32 acc
    else
      let at' (l : List Nat) (i : Nat) : Num := g.decode ((l[i]?).getD 0)
      let acc := acc.zipIdx.map fun x =>
        dotLane (fp32.decode x.1) ((List.range k).map fun j => Num.mul (at' q (k * x.2 + j)) (at' v (k * x.2 + j)))
      dotChunks g k n acc (q.drop (32 * k)) (v.drop (32 * k))

/-- dot(q, k) of a query head in BF16 and a token's key. -/
def attnDot (g : BitVec 128) (q : List Nat) (key : Nat → Num) : Nat :=
  let d := seqDim g
  let zero := List.replicate 32 0
  if seqFmt g = 0 then dotChunks bf16 2 d zero q ((List.range d).map fun i => bf16.rne (key i))
  else dotChunks fp32 1 d zero (q.map fun c => fp32.rne (bf16.decode c)) ((List.range d).map fun i => fp32.rne (key i))

/-- A partial of R310. -/
structure AttnPart where
  m : Nat
  l : Nat
  o : List Nat
  tokens : Nat
  deriving DecidableEq, Repr

def emptyPart (d : Nat) : AttnPart := { m := negInf, l := 0, o := List.replicate d 0, tokens := 0 }

/-- One unit folded into a partial: the scores of its tokens and their values (R312). -/
def foldUnit (p : AttnPart) (xs : List (Nat × List Nat)) : AttnPart :=
  let mg := xs.foldl (fun m x => fmax m x.1) negInf
  let mn := fmax p.m mg
  let c := expDiff p.m mn
  let start : AttnPart := { p with m := mn, l := fmul p.l c, o := p.o.map fun x => fmul x c }
  xs.foldl (fun p x =>
    let e := expDiff x.1 mn
    { p with l := fadd p.l e, o := (p.o.zip x.2).map fun y => ffma e y.2 y.1, tokens := p.tokens + 1 }) start

/-- The bytes of a record or partial (R310). -/
def partBytes (p : AttnPart) : List Byte :=
  leBytes 4 p.m ++ leBytes 4 p.l ++ leBytes 4 p.tokens ++ leBytes 52 0 ++ p.o.flatMap (leBytes 4)

def readPart (d : Nat) (bs : List Byte) : AttnPart :=
  { m := fieldLE bs 0 4, l := fieldLE bs 4 4, tokens := fieldLE bs 8 4,
    o := (List.range d).map fun i => fieldLE bs (64 + 4 * i) 4 }

/-- Token groups of a work entry that hold a token below `LEN`. -/
def workGroups (w : AttnWork) : Nat := ceilDiv w.len (kvTokens w.geometry)

/-- The units of a stack in ascending order: work index, KV head, span (R311). -/
def attnUnits (ws : List AttnWork) (n : Nat) : List (Nat × Nat × Nat) :=
  ws.zipIdx.flatMap fun w =>
    (List.range (seqHkv w.1.geometry)).flatMap fun h =>
      ((List.range (ceilDiv (workGroups w.1) 16)).filter fun j => decide (16 * j + n < workGroups w.1)).map fun j =>
        (w.2, h, j)

/-- The units of a member. -/
def memberUnits (l : Launch) (n a : Nat) : List (Nat × Nat × Nat) :=
  ((attnUnits l.work n).zipIdx.filter fun x => x.2 % l.per == a).map (·.1)

/-- A record's size. -/
def recSize (g : BitVec 128) : Nat := 64 + 4 * seqDim g

/-- The scores and values of a unit's tokens for one query head. -/
def unitScores (g : BitVec 128) (scale : Nat) (len n j : Nat) (q : List Nat) (kb vb : List Byte) : List (Nat × List Nat) :=
  let t := kvTokens g
  let d := seqDim g
  let s2 := fmul scale 0x3FB8AA3B
  let f := kvFmt g
  ((List.range t).filter fun i => decide ((16 * j + n) * t + i < len)).map fun i =>
    (fmul (attnDot g q fun e => f.value (byteAt kb) (i * d + e)) s2,
     (List.range d).map fun e => fp32.rne (f.value (byteAt vb) (i * d + e)))

/-- Reads the K and V blocks of a member's units. -/
def readUnits (u ctx : Nat) (l : Launch) (us : List (Nat × Nat × Nat)) (r : MemRun) :
    MemRun × List ((Nat × Nat × Nat) × List Byte × List Byte) :=
  us.foldl (fun a x =>
    match l.work[x.1]? with
    | none => a
    | some w =>
      let g := w.geometry
      let p := w.layer * seqHkv g + x.2.1
      let (r, kb) := runRead u ctx (kvAddr g p x.2.2 0) 4096 a.1
      let (r, vb) := runRead u ctx (kvAddr g p x.2.2 1) 4096 r
      (r, a.2 ++ [(x, kb, vb)])) (r, [])

/-- The address of query head `q` of a work entry. -/
def queryAddr (l : Launch) (w : AttnWork) (q : Nat) : Nat :=
  argAt l 16 8 + w.qIndex * 2 * seqHq w.geometry * seqDim w.geometry + q * 2 * seqDim w.geometry

def partialAddr (l : Launch) (w : AttnWork) (i q a : Nat) : Nat :=
  argAt l 32 8 + ((i * seqHq w.geometry + q) * l.per + a) * recSize w.geometry

/-- The member's partial of one work entry and query head goes to the workspace. -/
def attnPartial (u n a : Nat) (l : Launch) (blocks : List ((Nat × Nat × Nat) × List Byte × List Byte)) (w : AttnWork)
    (i q : Nat) (r : MemRun) : MemRun :=
  let g := w.geometry
  let (r, qb) := runRead u l.ctx (queryAddr l w q) (2 * seqDim g) r
  let qs := (List.range (seqDim g)).map fun e => fieldLE qb (2 * e) 2
  let mine := blocks.filter fun b => b.1.1 == i && b.1.2.1 == q / seqGq g
  let p := mine.foldl (fun p b => foldUnit p (unitScores g (argAt l 12 4) w.len n b.1.2.2 qs b.2.1 b.2.2))
    (emptyPart (seqDim g))
  runWrite u l.ctx (partialAddr l w i q a) (partBytes p) r

/-- Every work entry and query head. -/
def attnHeads (l : Launch) : List (AttnWork × Nat × Nat) :=
  l.work.zipIdx.flatMap fun w => (List.range (seqHq w.1.geometry)).map fun q => (w.1, w.2, q)

/-- Up to the stack barrier: the member's partials. -/
def attnFirst (u : Nat) (l : Launch) (s : State) : MemRun :=
  let n := bobStack u
  let a := (bobbinOf s u).member % l.per
  let (r, blocks) := readUnits u l.ctx l (memberUnits l n a) { s := s, st := .ok }
  (attnHeads l).foldl (fun r x => attnPartial u n a l blocks x.1 x.2.1 x.2.2 r) r

/-- The partials of one record merged (R313). -/
def mergeParts (d : Nat) (ps : List AttnPart) : AttnPart :=
  let m := ps.foldl (fun m p => fmax m p.m) negInf
  let start : AttnPart := { emptyPart d with m := m, tokens := ps.foldl (fun t p => t + p.tokens) 0 }
  if m = negInf then start
  else ps.foldl (fun a p =>
    let f := expDiff p.m m
    { a with l := ffma p.l f a.l, o := (a.o.zip p.o).map fun y => ffma y.2 f y.1 }) start

/-- After the barrier: the records whose merge is this member's. -/
def attnSecond (u : Nat) (l : Launch) (s : State) : MemRun :=
  let a := (bobbinOf s u).member % l.per
  ((attnHeads l).filter fun x => (x.2.1 * seqHq x.1.geometry + x.2.2) % l.per == a).foldl (fun r x =>
    let g := x.1.geometry
    let (r, ps) := (List.range l.per).foldl (fun (acc : MemRun × List AttnPart) j =>
      let (r, bs) := runRead u l.ctx (partialAddr l x.1 x.2.1 x.2.2 j) (recSize g) acc.1
      (r, acc.2 ++ [readPart (seqDim g) bs])) (r, [])
    runWrite u l.ctx (argAt l 24 8 + (x.1.outIndex + x.2.2) * recSize g) (partBytes (mergeParts (seqDim g) ps)) r)
    { s := s, st := .ok }

/-! ## Optimizer step (R316 to R319) -/

/-- The formats and sizes of a step's arrays. -/
def optBf16 (l : Launch) : Bool := bit (argAt l 56 1) 0
def optMx (l : Launch) : Bool := bit (argAt l 56 1) 1
def optSr (l : Launch) : Bool := bit (argAt l 56 1) 2
def tileElems (l : Launch) : Nat := if optBf16 l then 2048 else 1024
def optCount (l : Launch) : Nat := argAt l 48 8
def momSize (l : Launch) : Nat :=
  let e := tileElems l
  if optMx l then ceilDiv (33 * e / 32) 64 * 64 else 2 * e
/-- Tiles of stack `n`. -/
def stackTiles (l : Launch) (n : Nat) : Nat := (ceilDiv (optCount l) (tileElems l) + 15 - n) / 16

/-- Stack address of the natural block of ordinal `z` from a 64 KiB-aligned Spool offset. -/
def naturalAddr (off z : Nat) : Nat := (off / 65536 + z) * 4096

/-- Elements of tile `z` of stack `n` below `COUNT`. -/
def tileCount (l : Launch) (n z : Nat) : Nat := min (tileElems l) (optCount l - (16 * z + n) * tileElems l)

/-- A moment tile read: FP32 codes. -/
def readMoments (l : Launch) (cnt : Nat) (bs : List Byte) : List Nat :=
  if optMx l then
    (List.range cnt).map fun i => fp32.rne (mxE4m3.decode (byteAt bs (tileElems l + i / 32)) (byteAt bs i))
  else (List.range cnt).map fun i => fp32.rne (bf16.decode (fieldLE bs (2 * i) 2))

/-- A moment tile as bytes; with `SR` the order in which a member converts its elements is not the manual's. -/
def momentBytes (l : Launch) (rnd : Nat → Rnd) (xs : List Nat) : List (Nat × List Byte) :=
  if optMx l then
    let blocks := (groups 32 (xs.length + 1) (xs.zipIdx)).map fun b =>
      mxBlock mxE4m3 false (b.map fun x => (fp32.decode x.1, rnd x.2))
    [(0, blocks.flatMap fun b => b.2.1.map (BitVec.ofNat 8)),
     (tileElems l, blocks.map fun b => BitVec.ofNat 8 b.1),
     (33 * tileElems l / 32, leBytes (momSize l - 33 * tileElems l / 32) 0)]
  else [(0, xs.zipIdx.flatMap fun x => leBytes 2 (bf16.encode (rnd x.2) (fp32.decode x.1)).1)]

/-- One element of R318: weight, moments, gradient as scaled. -/
def adamElem (l : Launch) (graw m v w : Nat) : Nat × Nat × Nat × Nat :=
  let p (i : Nat) : Nat := argAt l (64 + 4 * i) 4
  let one := 0x3F800000
  let g := fmul graw (p 7)
  let t1 := fmul (fsub one (p 1)) g
  let m' := ffma (p 1) m t1
  let t2 := fmul (fsub one (p 2)) (fmul g g)
  let v' := ffma (p 2) v t2
  let mh := fmul m' (p 5)
  let vh := fmul v' (p 6)
  let d := if vh % 2 ^ 31 = 0 then 0 else fmul vh (rsqrtCode vh)
  let u := fmul mh (rcpCode (fadd d (p 3)))
  let u := ffma (p 4) w u
  let lr := fp32.rne (fp32.decode (p 0)).negate
  (ffma lr u w, m', v', g)

def notFinite (c : Nat) : Bool := decide (c / 2 ^ 23 % 256 = 255)

/-- The pieces a tile writes in place, in the order of the journal. -/
def tilePieces (l : Launch) (n z : Nat) (w m v out : List (Nat × List Byte)) : List (Nat × List Byte) :=
  let e := tileElems l
  let wA := argAt l 8 8 + z * 4 * e
  let mA := argAt l 16 8 + z * momSize l
  let vA := argAt l 24 8 + z * momSize l
  let oA := naturalAddr (argAt l 40 8) z
  let place (a : Nat) (ps : List (Nat × List Byte)) : List (Nat × List Byte) := ps.map fun p => (a + p.1, p.2)
  if tileCount l n z = 0 then []
  else place wA w ++ place mA m ++ place vA v ++ (if argAt l 40 8 = 0 then [] else place oA out)

def journalAddr (l : Launch) (a : Nat) : Nat := argAt l 32 8 + a * 32768

/-- The tile a member works on at a checkpoint value, where it has one left. -/
def optTile (l : Launch) (n a c : Nat) : Option Nat :=
  let z := a + c / 2 * l.per
  if z < stackTiles l n then some z else none

/-- Steps 1 to 3 of R319: the tile computed and journalled. -/
def optCompute (u n a z : Nat) (l : Launch) (s : State) : MemRun × Bool :=
  let cnt := tileCount l n z
  let gs := if optBf16 l then 2 else 4
  let e := tileElems l
  let (r, gb) := runRead u l.ctx (naturalAddr (argAt l 0 8) z) (gs * cnt) { s := s, st := .ok }
  let (r, wb) := runRead u l.ctx (argAt l 8 8 + z * 4 * e) (4 * cnt) r
  let momLen := if optMx l then 33 * e / 32 else 2 * cnt
  let (r, mb) := runRead u l.ctx (argAt l 16 8 + z * momSize l) momLen r
  let (r, vb) := runRead u l.ctx (argAt l 24 8 + z * momSize l) momLen r
  let ms := readMoments l cnt mb
  let vs := readMoments l cnt vb
  let res := (List.range cnt).map fun i =>
    let g := if optBf16 l then fp32.rne (bf16.decode (fieldLE gb (2 * i) 2)) else fieldLE gb (4 * i) 4
    adamElem l g ((ms[i]?).getD 0) ((vs[i]?).getD 0) (fieldLE wb (4 * i) 4)
  let seed := l.seed ^^^ BitVec.ofNat 64 (bobbinOf s u).member
  let rnd (k : Nat) : Nat → Rnd := fun i =>
    if optSr l then .stoch (randomWord seed (BitVec.ofNat 64 (Config.freeNat (s.seed + k + 2 * i)))) else .rne
  let outB := res.flatMap fun x => if optBf16 l then leBytes 2 (bf16.rne (fp32.decode x.1)) else leBytes 4 x.1
  let pieces := tilePieces l n z [(0, res.flatMap fun x => leBytes 4 x.1)] (momentBytes l (rnd 0) (res.map (·.2.1)))
    (momentBytes l (rnd 1) (res.map (·.2.2.1))) [(0, outB)]
  let bad := res.any fun x => notFinite x.1 || notFinite x.2.1 || notFinite x.2.2.1 || notFinite x.2.2.2
  let r := runWrite u l.ctx (journalAddr l a) (pieces.flatMap (·.2)) r
  ({ r with s := { r.s with seed := r.s.seed + 2 * cnt } }, bad)

/-- The shapes of a tile's pieces, to copy the journal in place. -/
def tileShape (l : Launch) (n z : Nat) : List (Nat × Nat) :=
  let cnt := tileCount l n z
  let mom := if optMx l then
      [(0, List.replicate cnt (0 : Byte)), (tileElems l, List.replicate (ceilDiv cnt 32) 0),
       (33 * tileElems l / 32, List.replicate (momSize l - 33 * tileElems l / 32) 0)]
    else [(0, List.replicate (2 * cnt) 0)]
  (tilePieces l n z [(0, List.replicate (4 * cnt) 0)] mom mom
    [(0, List.replicate (if optBf16 l then 2 * cnt else 4 * cnt) 0)]).map fun p => (p.1, p.2.length)

/-- Step 5: the journal's bytes written in place. -/
def optCopy (u n a z : Nat) (l : Launch) (s : State) : MemRun :=
  let shape := tileShape l n z
  let (r, bs) := runRead u l.ctx (journalAddr l a) (shape.foldl (fun t p => t + p.2) 0) { s := s, st := .ok }
  (shape.foldl (fun (x : MemRun × List Byte) p =>
    (runWrite u l.ctx p.1 (x.2.take p.2) x.1, x.2.drop p.2)) (r, bs)).1

/-! ## Requantisation (R321, R322) -/

/-- Elements of a 4 KiB output unit. -/
def requantPer (f : RedFmt) : Nat := 4096 / f.unit * f.per

/-- One output unit. -/
def requantUnit (u : Nat) (l : Launch) (x : Nat) (r : MemRun) : MemRun :=
  let fi := fmtOf (argAt l 20 1)
  let fo := fmtOf (argAt l 21 1)
  let lo := x * requantPer fo
  let hi := min (argAt l 16 4) (lo + requantPer fo)
  let base := lo / fi.per
  let (r, bs) := runRead u l.ctx (argAt l 0 8 + base * fi.unit) (ceilDiv hi fi.per * fi.unit - base * fi.unit) r
  let b := bobbinOf r.s u
  let sr := bit (argAt l 22 1) 0
  let vs := (List.range (hi - lo)).map fun i => (fi.value (byteAt bs) (lo + i - base * fi.per), srRnd sr l.seed b i)
  let out := (fo.encode false vs).1
  let r := runWrite u l.ctx (argAt l 8 8 + 4096 * x) (slice out 0 (ceilDiv out.length 64 * 64)) r
  { r with s := modBobbin u (fun b => { b with srCount := b.srCount + (if sr then hi - lo else 0) }) r.s }

/-- A member's share of its stack. -/
def requantMember (u : Nat) (l : Launch) (s : State) : MemRun :=
  let a := (bobbinOf s u).member % l.per
  let n := ceilDiv (argAt l 16 4) (requantPer (fmtOf (argAt l 21 1)))
  ((List.range n).filter fun x => x % l.per == a).foldl (fun r x => requantUnit u l x r) { s := s, st := .ok }

/-! ## Gather (R323 to R325) -/

def rowSize (l : Launch) : Nat := 2 ^ argAt l 8 1
def rowAddr (l : Launch) (row : Nat) : Nat := argAt l 0 8 + row / 16 * rowSize l

/-- Row numbers of list positions, up to a count. -/
def readIndices (u ctx a n : Nat) (r : MemRun) : MemRun × List Nat :=
  let (r, bs) := runRead u ctx a (4 * n) r
  (r, (List.range n).map fun i => fieldLE bs (4 * i) 4)

/-- Copy mode: the rows of this stack among the member's positions. -/
def gatherCopy (u : Nat) (l : Launch) (s : State) : MemRun × Bool :=
  let a := (bobbinOf s u).member % l.per
  let n := argAt l 24 4
  let lo := a * n / l.per
  let hi := (a + 1) * n / l.per
  let (r, rows) := readIndices u l.ctx (argAt l 16 8 + 4 * lo) (hi - lo) { s := s, st := .ok }
  let r := rows.zipIdx.foldl (fun r x =>
    if x.1 ≥ argAt l 12 4 ∨ x.1 % 16 ≠ bobStack u then r
    else
      let (r, bs) := runRead u l.ctx (rowAddr l x.1) (rowSize l) r
      runWrite u l.ctx (argAt l 40 8 + (lo + x.2) * rowSize l) bs r) r
  (r, rows.any fun x => decide (x ≥ argAt l 12 4))

/-- The offsets ascend from 0 to `IDX_COUNT`. -/
def bagsOk (l : Launch) (offs : List Nat) : Bool :=
  offs.head? == some 0 && offs.getLast? == some (argAt l 24 4) &&
    (offs.zip (offs.drop 1)).all fun x => decide (x.1 ≤ x.2)

/-- One bag: its rows on this stack, added in ascending position. -/
def sumBag (u : Nat) (l : Launch) (f : RedFmt) (lo hi : Nat) (r : MemRun) : MemRun × List Nat × Bool :=
  let n := rowSize l / f.unit
  let (r, rows) := readIndices u l.ctx (argAt l 16 8 + 4 * lo) (hi - lo) r
  let (r, v) := rows.foldl (fun (a : MemRun × List Nat) x =>
    if x ≥ argAt l 12 4 ∨ x % 16 ≠ bobStack u then a
    else
      let (r, bs) := runRead u l.ctx (rowAddr l x) (rowSize l) a.1
      (r, a.2.zipIdx.map fun y => fadd y.1 (fp32.rne (f.value (byteAt bs) y.2)))) (r, List.replicate n 0)
  (r, v, rows.any fun x => decide (x ≥ argAt l 12 4))

/-- Sum mode: the bags of the member. -/
def gatherSum (u : Nat) (l : Launch) (s : State) : MemRun × Bool :=
  let a := (bobbinOf s u).member % l.per
  let bags := argAt l 28 4
  let f := fmtOf (argAt l 10 1)
  let n := rowSize l / f.unit
  let (r, offs) := readIndices u l.ctx (argAt l 32 8) (bags + 1) { s := s, st := .ok }
  let good := bagsOk l offs
  ((List.range bags).filter fun b => b % l.per == a).foldl (fun (acc : MemRun × Bool) b =>
    let lo := (offs[b]?).getD 0
    let hi := (offs[b + 1]?).getD 0
    let (r, v, bad) := if good then sumBag u l f lo hi acc.1 else (acc.1, List.replicate n 0, false)
    (runWrite u l.ctx (argAt l 40 8 + 4 * b * n) (v.flatMap (leBytes 4)) r, acc.2 || bad)) (r, !good)

/-! ## The events of a resident member -/

/-- The resident function a Bobbin runs: its launch, with the work list as its plan area holds it (R309), and its handle. -/
def residentOf (s : State) (u : Nat) : Option (Launch × Nat) :=
  match bobLaunch s u with
  | some l => if (launchImage s l).resident then some ({ l with work := (bobbinOf s u).plan }, l.image) else none
  | none => none

/-- A resident member goes on, where no upset is found and it runs; a failed access is its fault. The PC it stops at is not
the manual's. -/
def residentStep (u : Nat) (e : BobErr) (s : State) (go : Launch → Nat → State → State) : State :=
  if !bobRuns s u then s
  else
    match residentOf s u with
    | none => s
    | some (l, h) =>
      match bobUpset u e s with
      | some s => s
      | none => go l h s

/-- The member's accesses have ended: with a fault, or it goes on. -/
def afterRun (u : Nat) (r : MemRun) (go : State → State) : State :=
  if r.st = .ok then go r.s
  else
    let s := spend (modBobbin u (fun b => { b with pc := Config.freeNat r.s.seed % 16384 * 4 }) r.s)
    bobFault u r.st none s

/-- The member halts with an exit code. -/
def residentHalt (u code : Nat) (s : State) : State :=
  bobWake u (modBobbin u (fun b => { b with wait := some (.halt code) }) s)

/-- `HALT` of a resident member: what is left of its function, and its exit code (R301). -/
def residentEnd (u : Nat) (l : Launch) (h : Nat) (s : State) : State :=
  let b := bobbinOf s u
  match h with
  | 1 => if b.flag then afterRun u (attnSecond u l s) (residentHalt u 0) else s
  | 2 =>
    if (optTile l (bobStack u) (b.member % l.per) b.ckpt.toNat).isSome then s
    else residentHalt u (if b.flag then 1 else 0) s
  | 3 => afterRun u (requantMember u l s) (residentHalt u 0)
  | _ =>
    let (r, bad) := if bit (argAt l 9 1) 0 then gatherSum u l s else gatherCopy u l s
    afterRun u r (residentHalt u (if bad then 2 else 0))

/-- `CKPT` of a resident member: the next step of the tile journal (R319). -/
def residentCkpt (u : Nat) (l : Launch) (h : Nat) (s : State) : State :=
  let b := bobbinOf s u
  let n := bobStack u
  let a := b.member % l.per
  let c := b.ckpt.toNat
  let commit (bad : Bool) (s : State) : State :=
    modBobbin u (fun b => { b with ckpt := b.ckpt + 1, flag := b.flag || bad }) s
  if h ≠ 2 then s
  else
    match optTile l n a c with
    | none => s
    | some z =>
      if c % 2 = 0 then
        let (r, bad) := optCompute u n a z l s
        afterRun u r (commit bad)
      else afterRun u (optCopy u n a z l s) (commit false)

/-- `BAR` of a resident member: attention's stack barrier, once its partials are written (R313). -/
def residentBar (u : Nat) (l : Launch) (h : Nat) (s : State) : State :=
  if h ≠ 1 ∨ (bobbinOf s u).flag then s
  else afterRun u (attnFirst u l s) fun s => modBobbin u (fun b => { b with wait := some (.barrier false) }) s

/-! ## BAR, CKPT and HALT -/

/-- An instruction that both kinds of program have. -/
def eitherIns (op u : Nat) (e : BobErr) (s : State) (w : Nat → Bobbin → BobWait) (go : Launch → Nat → State → State) :
    Host.Outcome State Fault Refusal :=
  if (residentOf s u).isSome then ends s (residentStep u e s go) else waitIns op u e s w

def execBar (bobbin : Nat) (e : BobErr) (s : State) : Host.Outcome State Fault Refusal :=
  eitherIns 0x38 bobbin e s (fun i _ => .barrier (bit i 0)) (residentBar bobbin)

def execCkpt (bobbin : Nat) (e : BobErr) (s : State) : Host.Outcome State Fault Refusal :=
  eitherIns 0x3B bobbin e s (fun i b => .ckpt (sreg b (fA i))) (residentCkpt bobbin)

def execHalt (bobbin : Nat) (e : BobErr) (s : State) : Host.Outcome State Fault Refusal :=
  eitherIns 0x3C bobbin e s (fun i _ => .halt (fFunc i)) (residentEnd bobbin)

end Sys2Proof.Machine
end

