-- ==== Sys2Proof/Machine/BobCmd.lean ====
section
/-! DEFINITION. The commands of images, launches and sequences (R288 to R291, R296, R298, R300, R303, R304, R309). -/

namespace Sys2Proof.Machine

/-! ## Images (R287 to R289) -/

/-- Store units of an image. -/
def imageUnits (m : Image) : Nat := ceilDiv m.bytes.length 65536

/-- Store units a partition's images hold; the resident images count against none. -/
def imagesUsed (s : State) (p : Nat) : Nat :=
  s.bob.image.foldl (fun t x => if x.2.loaded && !x.2.resident && x.2.part == p then t + imageUnits x.2 else t) 0

def freeHandle (s : State) : Option Nat := (List.range 1024).find? fun i => decide (5 ≤ i) && !(imageAt s i).loaded

/-- The first instruction that fails a check, as an offset in the image. -/
def firstBadIns (ok : Nat → Nat → Bool) (code : List Byte) : Option Nat :=
  ((List.range (code.length / 4)).find? fun i => !ok (fieldLE code (4 * i) 4) (4 * i)).map fun i => 64 + 4 * i

/-- The checks of R288 on the bytes read, rows 3 to 7: status and failing offset. -/
def imageBytesBad (bs : List Byte) : Option (Status × Nat) :=
  let f (o n : Nat) : Nat := fieldLE bs o n
  let size := f 8 4
  let code := (bs.drop 64).take size
  match firstFail [
      (f 60 4 != crc32c (bs.take 60), (Status.checkFail, 60)),
      (f 56 4 != crc32c (bs.drop 64), (.checkFail, 56)),
      (f 0 4 != 0x4E494242, (.opcode, 0)),
      (f 4 2 != 1, (.opcode, 4)),
      (f 6 2 / 2 != 0, (.opcode, 6)),
      (leNat ((bs.drop 24).take 32) != 0, (.opcode, 24)),
      (decide (size < 4) || decide (size > 65536) || size % 4 != 0, (.bounds, 8)),
      (decide (f 12 4 ≥ size) || f 12 4 % 4 != 0, (.bounds, 12)),
      (decide (f 16 4 > 262144) || f 16 4 % 64 != 0, (.bounds, 16)),
      (f 20 4 % 64 != 0 || decide (f 20 4 + f 16 4 > 262144), (.bounds, 20))] with
  | some x => some x
  | none =>
    match firstBadIns (fun w _ => insValid w) code with
    | some o => some (.opcode, o)
    | none => (firstBadIns (fun w pc => branchOk w pc size) code).map fun o => (.bounds, o)

def descImageLoad : OpDesc := { code := 0x0501, bytes := 16, data := true, used := [(16, 0, 17), (24, 0, 64)] }

/-- A command fails with a status and, in word 1, an offset. -/
def failAt (c : Cmd) (unit : Nat) (st : Status) (off : Nat) (s : State) : State := complete c st [0, off % 2 ^ 32] unit s

/-- What a buffer's answer holds from byte 64 on answers the read that begins there. -/
def bodyExt (pa : Nat) (ext : List ExtRead) : List ExtRead :=
  ext ++ (ext.filter fun e => e.pa == pa).map fun e => { e with pa := pa + 64, bytes := e.bytes.drop 64 }

/-- The checks of R288 in order; which offset a failure outside the image has, the manual does not say. -/
def imageLoad (c : Cmd) (s : State) : State :=
  let u := launchOwner s c.part
  let len := cmdLength c
  let shared := param c 16 8 16 1 == 1
  let openAt (st : Status) (s : State) : State := failAt c u st (Config.freeNat s.seed) (spend s)
  let pa := fieldLE c.packet 24 8
  let ctx := param c 16 8 0 16
  if len < 68 then openAt .lenRange s
  else
    -- check 1 needs the header; the body is read once it has passed
    let (s, st, hdr) := bufRead u c.part ctx pa 64 c.ext s
    let (s, st, body) : State × Status × List Byte :=
      if st ≠ .ok then (s, st, [])
      else if len ≠ 64 + fieldLE hdr 8 4 + fieldLE hdr 16 4 then (s, .lenRange, [])
      else bufRead u c.part ctx (pa + 64) (len - 64) (bodyExt pa c.ext) s
    let bs := hdr ++ body
    if st ≠ .ok then openAt st s
    else
      match imageBytesBad bs with
      | some (st, o) => failAt c u st o s
      | none =>
        if shared && c.part != 0 then openAt .denied s
        else
          match freeHandle s with
          | none => openAt .poolFull s
          | some i =>
            if imagesUsed s c.part + ceilDiv len 65536 > amountOf s 8 c.part then openAt .poolFull s
            else
              let old := imageAt s i
              let size := fieldLE bs 8 4
              let m : Image :=
                { loaded := true, gen := old.gen, part := c.part, shared := shared, restart := bit (fieldLE bs 6 2) 0,
                  entry := fieldLE bs 12 4, constOff := fieldLE bs 20 4, code := (bs.drop 64).take size,
                  consts := bs.drop (64 + size), bytes := bs }
              complete c .ok [i + 1024 * old.gen.toNat] u (setImage i m s)

def execBobImageLoad (c : Cmd) (s : State) : Host.Outcome State Fault Refusal :=
  runCmd descImageLoad c [(bit (cmdFlags c) 2, .opcode)] s (imageLoad c)

def descImageUnload : OpDesc := { code := 0x0502, bytes := 2, used := [(16, 0, 16)] }

def launchesImage (s : State) (i : Nat) : Bool := s.bob.launch.any fun l => l.image % 1024 == i

def execBobImageUnload (c : Cmd) (s : State) : Host.Outcome State Fault Refusal :=
  let h := param c 16 2 0 16
  let m := imageAt s (h % 1024)
  runCmd descImageUnload c
    [((visibleImage s c.part h).isNone, .bounds),
     (m.resident || m.part != c.part, .denied),
     (launchesImage s (h % 1024), .busy)] s fun s =>
      complete c .ok [] (launchOwner s c.part) (setImage (h % 1024) { gen := m.gen + 1 } s)

/-! ## Launches (R290, R291, R300) -/

def descLaunch : OpDesc :=
  { code := 0x0510, bytes := 40, data := true, inlineOk := true,
    used := [(16, 0, 16), (18, 0, 16), (20, 0, 16), (22, 0, 5), (24, 0, 16), (26, 0, 16), (32, 0, 29), (36, 0, 29),
             (40, 0, 29), (44, 0, 29), (48, 0, 64)] }

def winArg (c : Cmd) (i : Nat) : BobWin :=
  let w := fieldLE c.packet (32 + 4 * i) 4
  { first := bits w 0 13, count := bits w 13 14, rd := bit w 27, wr := bit w 28 }

/-- The launch a command asks for. -/
def launchOf (c : Cmd) (s : State) : Launch :=
  { id := s.bob.nextLaunch, part := c.part, launchId := BitVec.ofNat 16 (param c 18 2 0 16), image := param c 16 2 0 16,
    mask := BitVec.ofNat 16 (param c 20 2 0 16), per := param c 22 1 0 5 + 1, ctx := param c 24 2 0 16,
    limitMs := param c 26 2 0 16, wins := (List.range 4).map (winArg c), seed := BitVec.ofNat 64 (fieldLE c.packet 48 8),
    args := (c.packet.drop 64).take (cmdLength c), cmd := cmdRef c, packet := c.packet }

/-- A granule is OWNED by a partition in the reference table. -/
def ownedBy (s : State) (p g : Nat) : Bool :=
  let e := (tget 0 s.spl.got g).toNat
  gotState e == gotOwned && gotOwner e == p

/-- The checks of R291. -/
def launchFails (s : State) (c : Cmd) : List (Bool × Status) :=
  let l := launchOf c s
  let ws := l.wins.filter fun w => w.count != 0
  [(!bit (cmdFlags c) 2 && cmdLength c != 0, .lenRange),
   ((visibleImage s c.part l.image).isNone, .bounds),
   (s.bob.launch.any fun x => x.part == c.part && x.launchId == l.launchId, .busy),
   (l.mask == 0 || decide (cmdLength c > 128), .lenRange),
   (!ownsCtx s c.part l.ctx, .partitionMismatch),
   (!(ctxDesc s l.ctx).enable, .contextFault),
   (ws.any fun w => decide (w.first + w.count > 8192) || (!w.rd && !w.wr), .bounds),
   (ws.any fun w => (List.range w.count).any fun k => !ownedBy s c.part (w.first + k), .partitionMismatch),
   ((launchStacks l).any fun n => decide ((bobAssigned s c.part n).length < l.per), .poolFull),
   ((launchStacks l).any fun n => !stackUp s n || decide ((bobUsable s c.part n).length < l.per), .fenced)]

/-! ### Resident functions -/

/-- A range a function reads or writes: address, length, and the rights it needs. -/
structure ArgRange where
  addr : Nat
  len : Nat
  rd : Bool
  wr : Bool
  deriving DecidableEq, Repr

def rangeBad (l : Launch) (r : ArgRange) : Bool :=
  r.len != 0 && ((r.rd && !winAllows l.wins false r.addr r.len) || (r.wr && !winAllows l.wins true r.addr r.len))

/-- Bytes of an argument block that are not defined, or bits of it that are reserved, are set. -/
def argsReserved (l : Launch) (size : Nat) (gaps : List (Nat × Nat)) : Bool :=
  decide (l.args.length < size) || leNat (l.args.drop size) != 0 || gaps.any fun g => argAt l g.1 g.2 != 0

def attnRanges (l : Launch) : List ArgRange :=
  l.work.zipIdx.flatMap fun w =>
    let g := w.1.geometry
    ((List.range (seqHkv g)).map fun h =>
      { addr := kvAddr g (w.1.layer * seqHkv g + h) 0 0, len := ceilDiv (workGroups w.1) 16 * 8192, rd := true, wr := false }) ++
    [{ addr := queryAddr l w.1 0, len := 2 * seqHq g * seqDim g, rd := true, wr := false },
     { addr := argAt l 24 8 + w.1.outIndex * recSize g, len := seqHq g * recSize g, rd := false, wr := true },
     { addr := partialAddr l w.1 w.2 0 0, len := seqHq g * l.per * recSize g, rd := true, wr := true }]

def optRanges (l : Launch) : List ArgRange :=
  let z := stackTiles l 0
  let nat' (off : Nat) : Nat := naturalAddr off 0
  [{ addr := nat' (argAt l 0 8), len := z * 4096, rd := true, wr := false },
   { addr := argAt l 8 8, len := z * 4 * tileElems l, rd := true, wr := true },
   { addr := argAt l 16 8, len := z * momSize l, rd := true, wr := true },
   { addr := argAt l 24 8, len := z * momSize l, rd := true, wr := true },
   { addr := argAt l 32 8, len := l.per * 32768, rd := true, wr := true }] ++
  (if argAt l 40 8 = 0 then [] else [{ addr := nat' (argAt l 40 8), len := z * 4096, rd := false, wr := true }])

/-- Any two of a list of ranges overlap. -/
def anyOverlap : List ArgRange → Bool
  | [] => false
  | r :: rest => (rest.any fun x => r.len != 0 && x.len != 0 && overlaps r.addr r.len x.addr x.len) || anyOverlap rest

/-- Bytes of a stream of elements (R321). -/
def streamBytes (f : RedFmt) (count : Nat) : Nat := f.bytes count

def requantFmt (c : Nat) : Bool := (decide (1 ≤ c) && decide (c ≤ 5)) || (decide (0x10 ≤ c) && decide (c ≤ 0x15))

def requantRanges (l : Launch) : List ArgRange :=
  [{ addr := argAt l 0 8, len := streamBytes (fmtOf (argAt l 20 1)) (argAt l 16 4), rd := true, wr := false },
   { addr := argAt l 8 8, len := ceilDiv (streamBytes (fmtOf (argAt l 21 1)) (argAt l 16 4)) 64 * 64, rd := false, wr := true }]

def gatherRanges (l : Launch) : List ArgRange :=
  let sum := bit (argAt l 9 1) 0
  let n := rowSize l / (fmtOf (argAt l 10 1)).unit
  [{ addr := argAt l 0 8, len := ceilDiv (argAt l 12 4) 16 * rowSize l, rd := true, wr := false },
   { addr := argAt l 16 8, len := 4 * argAt l 24 4, rd := true, wr := false }] ++
  (if sum then
     [{ addr := argAt l 32 8, len := 4 * (argAt l 28 4 + 1), rd := true, wr := false },
      { addr := argAt l 40 8, len := 4 * n * argAt l 28 4, rd := false, wr := true }]
   else [{ addr := argAt l 40 8, len := rowSize l * argAt l 24 4, rd := false, wr := true }])

/-- Rows 1 and 2 of R300, with the checks of row 3 that need no memory, and row 4 for the functions without a work list. -/
def residentFails (l : Launch) (h : Nat) : List (Bool × Status) :=
  match h with
  | 1 =>
    [(argsReserved l 48 [(10, 2), (40, 8)], .opcode),
     (l.mask != 0xFFFF, .bounds),
     (argAt l 8 2 == 0 || decide (argAt l 8 2 > 256), .lenRange)]
  | 2 =>
    [(argsReserved l 96 [(57, 7)] || argAt l 56 1 / 8 != 0, .opcode),
     (l.mask != 0xFFFF, .bounds),
     (optCount l == 0 || decide (optCount l > 2 ^ 36), .lenRange),
     (argAt l 0 8 % 65536 != 0 || argAt l 40 8 % 65536 != 0 || anyOverlap (optRanges l), .bounds),
     ((optRanges l).any (rangeBad l), .bounds)]
  | 3 =>
    [(argsReserved l 24 [(23, 1)] || argAt l 22 1 / 2 != 0 || argAt l 16 4 == 0 || decide (argAt l 16 4 > 2 ^ 31), .opcode),
     (!requantFmt (argAt l 20 1) || !requantFmt (argAt l 21 1), .opcode),
     (anyOverlap (requantRanges l), .bounds),
     ((requantRanges l).any (rangeBad l) || argAt l 0 8 % 64 != 0 || argAt l 8 8 % 4096 != 0, .bounds)]
  | _ =>
    let sum := bit (argAt l 9 1) 0
    [(argsReserved l 48 [(11, 1)] || argAt l 9 1 / 2 != 0 || argAt l 12 4 == 0 || decide (argAt l 12 4 > 2 ^ 31), .opcode),
     (l.mask != 0xFFFF, .bounds),
     (decide (argAt l 8 1 < 6) || decide (argAt l 8 1 > 12) ||
        (sum && argAt l 10 1 != 1 && argAt l 10 1 != 2 && argAt l 10 1 != 4), .opcode),
     (argAt l 24 4 == 0 || decide (argAt l 24 4 > 1048576) ||
        (sum && (argAt l 28 4 == 0 || decide (argAt l 28 4 > 65536))), .lenRange),
     ((gatherRanges l).any (rangeBad l) || argAt l 0 8 % rowSize l != 0, .bounds)]

/-- One entry of the work list (R309) with the sequence it names. -/
def workEntry (s : State) (p : Nat) (bs : List Byte) : Option AttnWork :=
  match toGlobal s 4 p (bits (fieldLE bs 0 2) 0 13) with
  | none => none
  | some q =>
    let e := tget ({} : SeqEntry) s.bob.seq q
    if e.valid then
      some { seq := q, geometry := e.entry, layer := byteAt bs 2, len := fieldLE bs 4 4, qIndex := fieldLE bs 8 2,
             outIndex := fieldLE bs 10 2 }
    else none

/-- The checks of an entry, after the earlier ones have been taken. -/
def workBad (s : State) (taken : List AttnWork) (w : AttnWork) : Option Status :=
  firstFail [
    (decide (w.layer ≥ seqLayers w.geometry), Status.bounds),
    (w.len == 0 || decide (w.len > seqCapacity w.geometry), .lenRange),
    (decide ((tget ({} : SeqEntry) s.bob.seq w.seq).refs.toNat + (taken.filter fun x => x.seq == w.seq).length ≥ 65535), .busy)]

/-- The work list read and checked. -/
def readWork (s : State) (p : Nat) : List (List Byte) → List AttnWork → Except Status (List AttnWork)
  | [], acc => .ok acc
  | bs :: r, acc =>
    match workEntry s p bs with
    | none => .error .bounds
    | some w =>
      match workBad s acc w with
      | some st => .error st
      | none => readWork s p r (acc ++ [w])

def addSeqRef (s : State) (w : AttnWork) : State :=
  { s with bob := { s.bob with seq := tmod {} s.bob.seq w.seq fun e => { e with refs := e.refs + 1 } } }

/-- The launch is queued (R292, R294 step 1), and withdrawn at once where its partition freezes (R404). -/
def queueLaunch (l : Launch) (s : State) : State :=
  let l := { l with id := s.bob.nextLaunch, state := if partStopped s l.part then .withdrawn else l.state }
  l.work.foldl addSeqRef { s with bob := { s.bob with launch := s.bob.launch ++ [l], nextLaunch := s.bob.nextLaunch + 1 } }

/-- The work list read under the launch's context, and checked (R309). -/
def workList (l : Launch) (s : State) : State × Except Status (List AttnWork) :=
  let n := argAt l 8 2
  match spoolRead (launchOwner s l.part) l.ctx (argAt l 0 8) (16 * n) s with
  | (s, .ok, bs) => (s, readWork s l.part (pieces 16 n bs) [])
  | (s, st, _) => (s, .error st)

/-- A launch of attention, with the rest of its checks (R300, R309). -/
def launchAttn (c : Cmd) (l : Launch) (s : State) : State :=
  match workList l s with
  | (s, .error st) => complete c st [] (launchOwner s c.part) s
  | (s, .ok ws) =>
      let u := launchOwner s c.part
      let l := { l with work := ws }
      let crooked := argAt l 0 8 % 16 != 0 || argAt l 16 8 % 64 != 0 || argAt l 24 8 % 64 != 0 || argAt l 32 8 % 64 != 0
      if crooked || (attnRanges l).any (rangeBad l) then complete c .bounds [] u s else queueLaunch l s

/-- A partition's 65th launch waits at the owner (R292). -/
def launchesFull (s : State) (p : Nat) : Bool := decide (64 ≤ (s.bob.launch.filter fun l => l.part == p).length)

/-- The command is BOB_LAUNCH, or a sequence command. -/
def isLaunch (c : Cmd) : Bool := fieldLE c.packet 0 2 == 0x0510
def isSeqCmd (c : Cmd) : Bool := fieldLE c.packet 0 2 / 16 == 0x052

/-- An earlier launch of the partition waits at the owner (R292). -/
def launchHeld (c : Cmd) (s : State) : Bool := (heldBefore c s).any fun x => isLaunch x && x.part == c.part

/-- A command that waits names a resident image. -/
def heldResident (s : State) (x : Cmd) : Bool := isLaunch x && (imageAt s (param x 16 2 0 16 % 1024)).resident

/-- A sequence command comes behind an earlier resident launch of its partition that waits, and behind sequence commands that wait
for one (R303). -/
def seqHeld (s : State) (c : Cmd) : Bool :=
  (heldBefore c s).any fun x => x.part == c.part && (isSeqCmd x || heldResident s x)

/-- A resident launch comes behind an earlier sequence command that waits (R303). -/
def behindSeq (s : State) (c : Cmd) : Bool :=
  heldResident s c && (heldBefore c s).any fun x => x.part == c.part && isSeqCmd x

def launch (c : Cmd) (s : State) : State :=
  let l := launchOf c s
  let u := launchOwner s c.part
  let m := imageAt s (l.image % 1024)
  if launchesFull s c.part || launchHeld c s || behindSeq s c then holdCmd c s
  else
    let s := unholdCmd c s
    if !m.resident then queueLaunch l s
    else
      match firstFail (residentFails l l.image) with
      | some st => complete c st [] u s
      | none => if l.image = 1 then launchAttn c l s else queueLaunch l s

def execBobLaunch (c : Cmd) (s : State) : Host.Outcome State Fault Refusal :=
  runCmd descLaunch c (launchFails s c) s fun s => freezeCheck (launch c s)

def descStop : OpDesc := { code := 0x0511, bytes := 2, used := [(16, 0, 16)] }

/-- BOB_STOP: it completes after the launch's completion has been written (R296). -/
def bobStop (c : Cmd) (s : State) : State :=
  match s.bob.launch.find? fun l => l.part == c.part && l.launchId.toNat == param c 16 2 0 16 with
  | none => complete c .ok [0] (launchOwner s c.part) s
  | some l =>
    stopLaunch l.id .aborted none 0 { s with bob := { s.bob with stops := s.bob.stops ++ [(cmdRef c, l.cmd)] } }

def execBobStop (c : Cmd) (s : State) : Host.Outcome State Fault Refusal :=
  runCmd descStop c [] s (bobStop c)

/-- The BOB_STOP commands whose launch's completion has been written complete. -/
def stopsDone (launchCmd : CmdRef) (s : State) : State :=
  let mine := s.bob.stops.filter fun x => x.2 == launchCmd
  mine.foldl (fun s x => completeRef x.1 .ok [1] (launchOwner s x.1.part) s)
    { s with bob := { s.bob with stops := s.bob.stops.filter fun x => x.2 != launchCmd } }

/-! ## Sequences (R303, R304) -/

def seqOf (s : State) (q : Nat) : SeqEntry := tget {} s.bob.seq q
def setSeq (q : Nat) (e : SeqEntry) (s : State) : State := { s with bob := { s.bob with seq := tset {} s.bob.seq q e } }

def seqArg (s : State) (c : Cmd) : Option Nat := toGlobal s 4 c.part (cmdQid c)

def descSeqCreate : OpDesc :=
  { code := 0x0520, bytes := 16, qid := true, used := [(16, 0, 41), (24, 0, 20), (28, 0, 8), (29, 0, 6), (30, 0, 8)] }

/-- Granules of a sequence's region. -/
def regionGranules (g : BitVec 128) : List Nat :=
  let n := seqRegion g * 131072
  (List.range ((kvBase g + n - 1) / 2 ^ 28 + 1 - kvBase g / 2 ^ 28)).map (kvBase g / 2 ^ 28 + ·)

def execSeqCreate (c : Cmd) (s : State) : Host.Outcome State Fault Refusal :=
  let g := BitVec.ofNat 128 (fieldLE c.packet 16 16)
  let q := (seqArg s c).getD 0
  runOrdered descSeqCreate c (seqHeld s c)
    [(seqField g 112 2 == 3 || seqFmt g == 3, .opcode),
     ((seqArg s c).isNone, .bounds),
     ((seqOf s q).valid, .busy),
     (seqSpans g == 0 || decide (seqHq g > 128), .lenRange),
     (kvBase g % 65536 != 0 || decide (kvBase g + seqRegion g * 131072 > 2 ^ 41), .bounds),
     ((regionGranules g).any fun x => !ownedBy s c.part x, .partitionMismatch)] s fun s =>
      complete c .ok [] (launchOwner s c.part) (setSeq q { entry := g, valid := true } s)

def descSeqDestroy : OpDesc := { code := 0x0521, bytes := 0, used := [], qid := true }

def execSeqDestroy (c : Cmd) (s : State) : Host.Outcome State Fault Refusal :=
  let q := (seqArg s c).getD 0
  runOrdered descSeqDestroy c (seqHeld s c)
    [((seqArg s c).isNone, .bounds),
     (!(seqOf s q).valid, .queueDisabled),
     ((seqOf s q).refs != 0, .busy)] s fun s =>
      complete c .ok [] (launchOwner s c.part) (setSeq q {} s)

def descSeqQuery : OpDesc := { code := 0x0522, bytes := 0, used := [], qid := true }

def execSeqQuery (c : Cmd) (s : State) : Host.Outcome State Fault Refusal :=
  let e := seqOf s ((seqArg s c).getD 0)
  runOrdered descSeqQuery c (seqHeld s c)
    [((seqArg s c).isNone, .bounds), (!e.valid, .queueDisabled)] s fun s =>
      complete c .ok [seqCapacity e.entry, kvTokens e.entry, seqRegion e.entry, e.refs.toNat] (launchOwner s c.part) s

end Sys2Proof.Machine
end

