-- ==== Sys2Proof/Machine/Reed.lean ====
section
/-! DEFINITION. The Reed commands: communicators (R204 to R207, R226, R229) and operations (R208 to R211, R213, R232, R246), and
the steps of the engines. -/

namespace Sys2Proof.Machine

/-! ## Management -/

/-- A reserved `ROUND` counts as a reserved bit (R204). -/
def descCommCreate (c : Cmd) : OpDesc :=
  { code := 0x0401, bytes := 64, qid := true,
    used := [(16, 0, 64), (24, 0, 32), (28, 0, 16), (30, 0, 16), (32, 0, 32), (36, 0, 8), (37, 0, 5),
             (37, 5, if param c 37 1 5 2 < 2 then 1 else 0), (38, 0, 9), (40, 0, 24), (44, 0, 16), (48, 0, 57), (56, 0, 64),
             (64, 0, 57), (72, 0, 5), (76, 0, 32)] }
def descCommReform : OpDesc :=
  { code := 0x0402, bytes := 32, qid := true,
    used := [(16, 0, 32), (20, 0, 32), (24, 0, 16), (26, 0, 16), (28, 0, 8), (32, 0, 24), (40, 0, 57)] }
def descCommDestroy : OpDesc := { code := 0x0403, bytes := 0, used := [], qid := true }
def descCommQuery : OpDesc := { code := 0x0404, bytes := 0, used := [], qid := true }
def descCommMemberLost : OpDesc :=
  { code := 0x0405, bytes := 4, used := [(16, 0, 16), (18, 0, 8), (19, 0, 1)], qid := true }

/-- The engines in service of a mask, in rising order (R207). -/
def enginesOf (s : State) (mask : Nat) : List Nat := (List.range 32).filter fun e => bit mask e && inService s (engineUnit e)

/-- The communicator slot a command names (R229). -/
def namedComm (s : State) (c : Cmd) : Option Nat := toGlobal s 3 c.part (cmdQid c)

/-- An earlier command on the command's communicator waits (R120). -/
def commHeld (s : State) (c : Cmd) : Bool :=
  (namedComm s c).isSome && (heldBefore c s).any fun x => fieldLE x.packet 0 2 / 256 == 0x04 && namedComm s x == namedComm s c

/-- A Reed command that has started: its slot (R229), then its own checks. -/
def withComm (c : Cmd) (fails : Nat → List (Bool × Status)) (run : Nat → State → State) (s : State) : State :=
  match namedComm s c with
  | none => complete c .bounds [] (procUnit s c) s
  | some k => checked c (fails k) s (run k)

/-- A management command of a communicator. DEDUCED: behind the admitted operations (R211) it takes its place after every earlier
command on the slot has been admitted; it does not wait for them to complete, since COMM_DESTROY answers BUSY while one is
outstanding, COMM_QUERY counts them, and COMM_MEMBER_LOST ends those that cannot go on (R229). -/
def onComm (d : OpDesc) (c : Cmd) (fails : Nat → List (Bool × Status)) (run : Nat → State → State) (s : State) : State :=
  orderCmd d c (commHeld s c) s (withComm c fails run)

/-- R207: the reservation does not fit a die's pool, beside what is reserved there, or the partition's quota. -/
def reservationFails (s : State) (part : Nat) (es : List Nat) : Bool :=
  ((List.range 8).any fun d =>
      let n := (es.filter fun e => engineDie e == d).length
      n != 0 && decide (reservedOn s d + 2 * n > poolSlots s d)) ||
    decide (reservedOf s part + 2 * es.length > amountOf s 7 part)

/-- The ports of a mask are assigned to the partition. -/
def portsAssigned (s : State) (part mask : Nat) : Bool :=
  (List.range 8).all fun p => !bit mask p || (aport s p).part.toNat == part

/-- COMM_CREATE (R204, R206, R207). -/
def commCreate (c : Cmd) (s : State) : State :=
  let mask := fieldLE c.packet 32 4
  let es := enginesOf s mask
  let spill := param c 72 1 0 5
  let pick := param c 37 1 0 5
  let ctx := fieldLE c.packet 44 2
  let key := fieldLE c.packet 76 4
  let accel := byteAt c.packet 36
  let contributors := param c 40 3 0 24
  let keySt := (keyCheck (region s (keyIndex key)) c.part key .rReduce 0 0).1
  onComm (descCommCreate c) c (fun k =>
    [((commOf s k).state != .free, .busy),
     (decide (fieldLE c.packet 28 2 > fieldLE c.packet 30 2) || decide (pick < 16) || decide (pick > 22) ||
        (spill != 0 && decide (spill < 18)) || contributors == 0 || decide (param c 38 2 0 9 > 384), .lenRange),
     (!ownsCtx s c.part ctx, .partitionMismatch),
     (!(ctxDesc s ctx).enable, .contextFault),
     (!portsAssigned s c.part accel, .denied),
     (keySt != .ok, keySt),
     (es == [], .fenced),
     (reservationFails s c.part es, .poolFull)])
    (fun k s =>
      complete c .ok [] (commOwner s k) (setComm k
        { state := .active, part := c.part, commId := BitVec.ofNat 64 (fieldLE c.packet 16 8),
          epoch := BitVec.ofNat 32 (fieldLE c.packet 24 4), rank := fieldLE c.packet 28 2, membersM1 := fieldLE c.packet 30 2,
          accel := BitVec.ofNat 8 accel, pickLog2 := pick, stochastic := param c 37 1 5 2 == 1,
          shareCap := param c 38 2 0 9, contributors := contributors, ctx := ctx, peersVa := fieldLE c.packet 48 8,
          seed := BitVec.ofNat 64 (fieldLE c.packet 56 8), spillVa := fieldLE c.packet 64 8, spillLog2 := spill,
          pushKey := key, engines := es, reserved := es } s)) s

def execCommCreate (c : Cmd) (s : State) : Host.Outcome State Fault Refusal := ends s (commCreate c s)

/-- COMM_REFORM (R226). -/
def commReform (c : Cmd) (s : State) : State :=
  let epoch := BitVec.ofNat 32 (fieldLE c.packet 16 4)
  let base := BitVec.ofNat 32 (fieldLE c.packet 20 4)
  let rank := fieldLE c.packet 24 2
  let m := fieldLE c.packet 26 2
  onComm descCommReform c (fun k =>
    let v := commOf s k
    [(v.state != .lost, .busy),
     (decide ((epoch - v.epoch).toInt ≤ 0), .epochStale),
     (decide ((base - v.next).toInt < 0) || decide (rank > m), .bounds)])
    (fun k s =>
      complete c .ok [] (commOwner s k) ((modComm k (fun v =>
        { v with state := .active, epoch := epoch, base := base, next := base, rank := rank, membersM1 := m,
                 accel := BitVec.ofNat 8 (byteAt c.packet 28), contributors := param c 32 3 0 24,
                 peersVa := fieldLE c.packet 40 8, peers := [], controls := [], lostRank := 0, lostAccel := 0,
                 lostValid := false, relayed := false }) (keepViews k s)))) s

def execCommReform (c : Cmd) (s : State) : Host.Outcome State Fault Refusal := ends s (commReform c s)

def commDestroy (c : Cmd) (s : State) : State :=
  onComm descCommDestroy c (fun k =>
    [((commOf s k).state == .free, .queueDisabled), ((commOf s k).ops != [], .busy)])
    (fun k s => complete c .ok [] (commOwner s k) (setComm k {} (keepViews k s))) s

def execCommDestroy (c : Cmd) (s : State) : Host.Outcome State Fault Refusal := ends s (commDestroy c s)

def commStCode : CommSt → Nat
  | .free => 0 | .active => 1 | .lost => 2

def commQuery (c : Cmd) (s : State) : State :=
  onComm descCommQuery c (fun k => [((commOf s k).state == .free, .queueDisabled)])
    (fun k s =>
      let v := commOf s k
      complete c .ok [commStCode v.state + 2 ^ 8 * v.ops.length, v.epoch.toNat, v.next.toNat, v.base.toNat] (commOwner s k) s) s

def execCommQuery (c : Cmd) (s : State) : Host.Outcome State Fault Refusal := ends s (commQuery c s)

/-- COMM_MEMBER_LOST (R224, R229). The rank is recorded as it is given. DESIGN CHOICE: a number above
7 names no accelerator, so that it leaves no bit in the mask of `RED.COMM[k]`. -/
def commMemberLost (c : Cmd) (s : State) : State :=
  let byRank := param c 19 1 0 1 == 1
  let rank := fieldLE c.packet 16 2
  let port := byteAt c.packet 18
  onComm descCommMemberLost c (fun k =>
    [((commOf s k).state != .active, .busy)])
    (fun k s =>
      let s := if byRank then commLost k (some rank) none false .memberLost s
        else commLost k none (some port) false .memberLost s
      complete c .ok [] (commOwner s k) s) s

def execCommMemberLost (c : Cmd) (s : State) : Host.Outcome State Fault Refusal := ends s (commMemberLost c s)

/-! ## Operations -/

def descRedOp (code : Nat) : OpDesc :=
  { code := code, bytes := 112, data := true, qid := true,
    used := [(16, 0, 32), (20, 0, 3), (21, 0, 8), (22, 0, 8), (23, 0, 3), (24, 0, 57), (32, 0, 57), (40, 0, 57), (48, 0, 57),
             (56, 0, 16), (64, 0, 512)] }

/-- The algorithm `ALGO` 0 selects (R213). -/
def autoAlgo (s : State) (code n : Nat) : Nat :=
  if n = 1 then 1
  else if code = 0x0415 ∨ n ≤ s.red.directMaxN.toNat then 4
  else if code = 0x0411 ∨ code = 0x0412 then 2
  else if n ≤ s.red.ringMaxN.toNat then (if code = 0x0410 then 2 else 3)
  else 3

/-- `ALGO` may be named for the operation (R213). -/
def algoFits (code algo n : Nat) : Bool :=
  match algo with
  | 0 => true
  | 1 => n == 1
  | 2 => code == 0x0410 || code == 0x0411 || code == 0x0412
  | 3 => code == 0x0410 || code == 0x0413 || code == 0x0414
  | 4 => true
  | _ => false

/-- The operation of a command, under the number it would be admitted by. -/
def redOpOf (s : State) (c : Cmd) (v : Comm) : RedOp :=
  let code := fieldLE c.packet 0 2
  let algo := param c 23 1 0 3
  { opseq := v.next, cmd := cmdRef c, code := code, oper := param c 20 1 0 2, exact := param c 20 1 2 1 == 1,
    inFmt := byteAt c.packet 21, wire := byteAt c.packet 22,
    algo := if members v = 1 then 1 else if algo = 0 then autoAlgo s code (members v) else algo,
    root := fieldLE c.packet 56 2, len := cmdLength c, inVa := fieldLE c.packet 24 8, outVa := fieldLE c.packet 32 8,
    workVa := fieldLE c.packet 40 8, mapVa := fieldLE c.packet 48 8,
    accOut := (List.range 8).map fun p => fieldLE c.packet (64 + 8 * p) 8, ext := c.ext, engines := v.engines }

/-- The length breaks R208 or R233: BROADCAST alone needs a byte or more. -/
def lengthBad (v : Comm) (o : RedOp) : Bool :=
  let n := members v
  let u := (opFmt o).unit
  match o.code with
  | 0x0410 | 0x0413 => o.len % u != 0
  | 0x0411 => o.len % (n * (if u = 4096 then 4096 else 64)) != 0 || o.len % u != 0
  | 0x0412 => decide (n * o.len > 2 ^ 31)
  | 0x0415 => o.len % n != 0
  | _ => o.len == 0

/-- The format checks of R232 and R246. -/
def formatBad (v : Comm) (o : RedOp) : Bool :=
  if reduces o.code then
    (redFmt o.inFmt).isNone || (o.exact && isIntFmt o.inFmt) ||
      (o.wire != 0 && !((o.wire == 0x10 || o.wire == 0x14) &&
        (members v == 1 || (!o.exact && (o.oper == 0 || o.oper == 3) && decide (1 ≤ o.inFmt) && decide (o.inFmt ≤ 3)))))
  else o.inFmt != 0 || o.wire != 0 || o.exact

/-- Bytes of the output at a member (R208). -/
def outLen (v : Comm) (o : RedOp) : Nat :=
  if o.code = 0x0411 then o.len / members v else vectorLen v o

/-- The device-side output lies outside the region of `PUSH_KEY`. -/
def outOutside (s : State) (v : Comm) (o : RedOp) : Bool :=
  let r := region s (keyIndex v.pushKey)
  o.outVa != 0 && !(keyMatches r v.part v.pushKey && decide (r.baseVa ≤ o.outVa) &&
    decide (o.outVa + outLen v o ≤ r.baseVa + r.size))

/-- A required buffer is missing (R208, R209). -/
def bufferMissing (v : Comm) (o : RedOp) : Bool :=
  let needsIn :=
    if reduces o.code then v.accel == 0
    else if o.code = 0x0414 then v.rank == o.root
    else true
  (needsIn && o.inVa == 0) || (reduces o.code && decide (members v > 1) && o.workVa == 0)

/-- No output of any kind, at a member that has one. -/
def outputMissing (v : Comm) (o : RedOp) : Bool :=
  (o.code != 0x0413 || v.rank == o.root) && o.outVa == 0 &&
    (List.range 8).all fun p => !v.accel.getLsbD p || o.accOut.getD p 0 == 0

/-- The checks of R210, in order; after them the engines that are left (R228). -/
def redFails (s : State) (c : Cmd) (k : Nat) : List (Bool × Status) :=
  let v := commOf s k
  let o := redOpOf s c v
  let epoch := BitVec.ofNat 32 (fieldLE c.packet 16 4)
  [(v.state == .free, .queueDisabled),
   (v.state == .lost, .memberLost),
   (v.engines == [], .fenced),
   (decide ((epoch - v.epoch).toInt < 0), .epochStale),
   (epoch != v.epoch || decide (o.root > v.membersM1), .bounds),
   (!algoFits o.code (param c 23 1 0 3) (members v) || (!reduces o.code && o.oper != 0), .opcode),
   (lengthBad v o || formatBad v o, .lenRange),
   (bufferMissing v o || outputMissing v o || outOutside s v o, .bounds)]

/-- Eight operations of the communicator have been admitted and have not completed (R211). -/
def commFull (s : State) (c : Cmd) : Bool := (namedComm s c).any fun k => decide ((commOf s k).ops.length ≥ 8)

/-- The operation is admitted, with the next `OPSEQ` (R211). One of no picks is done at once (R222). -/
def admitOp (c : Cmd) (k : Nat) (s : State) : State :=
  let v := commOf s k
  checkRedOp k v.next (fillSlots k (setComm k { v with next := v.next + 1, ops := v.ops ++ [redOpOf s c v] } s))

/-- An operation command: admitted in arrival order, it waits while eight others are under way (R211). -/
def redOperation (code : Nat) (c : Cmd) (s : State) : State :=
  orderCmd (descRedOp code) c (commFull s c || commHeld s c) s (withComm c (redFails s c) (admitOp c))

def execAllReduce (c : Cmd) (s : State) : Host.Outcome State Fault Refusal := ends s (redOperation 0x0410 c s)
def execReduceScatter (c : Cmd) (s : State) : Host.Outcome State Fault Refusal := ends s (redOperation 0x0411 c s)
def execAllGather (c : Cmd) (s : State) : Host.Outcome State Fault Refusal := ends s (redOperation 0x0412 c s)
def execReduce (c : Cmd) (s : State) : Host.Outcome State Fault Refusal := ends s (redOperation 0x0413 c s)
def execBroadcast (c : Cmd) (s : State) : Host.Outcome State Fault Refusal := ends s (redOperation 0x0414 c s)
def execAllToAll (c : Cmd) (s : State) : Host.Outcome State Fault Refusal := ends s (redOperation 0x0415 c s)

/-! ## Steps of the engines -/

/-- COMM_STATE_DELIVERY: the engine applies the communicator's state and epoch in one event (R203). -/
def deliverComm (k e : Nat) (s : State) : State :=
  let c := commOf s k
  if e ≥ 32 ∨ !inService s (engineUnit e) then s
  else
    { s with red := { s.red with view := tset {} s.red.view (k * 32 + e) { state := c.state, epoch := c.epoch, base := c.base } } }

def execCommStateDelivery (comm engine : Nat) (s : State) : Host.Outcome State Fault Refusal :=
  ends s (reedNotice (deliverComm comm engine s))

def execPeerEntryRead (comm rank : Nat) (ext : List ExtRead) (s : State) : Host.Outcome State Fault Refusal :=
  ends s (reedNotice (peerEntry comm rank ext s))

def execContributionBlock (comm : Nat) (opseq : BitVec 32) (pick stage : Nat) (src : RedSrc) (off : Nat) (corrupt : Bool)
    (fault : Option RedFault) (ext : List ExtRead) (s : State) : Host.Outcome State Fault Refusal :=
  ends s (reedNotice (contributionBlock comm opseq pick stage src off corrupt fault ext s))

def execPickCommit (comm : Nat) (opseq : BitVec 32) (pick stage seg refused : Nat) (fault : Option RedFault)
    (ext : List ExtRead) (s : State) : Host.Outcome State Fault Refusal :=
  ends s (reedNotice (pickCommit comm opseq pick stage seg refused fault ext s))

/-- SHADOW_LANE_ADVANCE: the watched lane of an engine moves on, modulo 64, once the engine has taken 2^`SHADOW_LOG2` steps since it
last moved (R252). -/
def advanceLane (e : Nat) (s : State) : State :=
  let n := 2 ^ s.red.shadowLog2.toNat
  if e ≥ 32 ∨ !inService s (engineUnit e) ∨ stopped s (engineUnit e) ∨ tget 0 s.red.steps e < n then s
  else { s with red := { s.red with
    lane := tmod 0 s.red.lane e (· + 1), steps := tmod 0 s.red.steps e (· - n) } }

def execShadowLaneAdvance (engine : Nat) (s : State) : Host.Outcome State Fault Refusal := ends s (advanceLane engine s)

end Sys2Proof.Machine
end

