-- ==== Sys2Proof/Machine/ShtRoce.lean ====
section
/-! DEFINITION. RoCEv2 compatibility mode (R163 to R166, R199) and the NVMe-oF initiator offload (R167 to R171). The packet
formats are those of IBTA Annex A17, which R163 refers to. -/

namespace Sys2Proof.Machine

/-- PSNs are 24-bit (R163). -/
def psn24 (p : BitVec 32) : Nat := p.toNat % 2 ^ 24
/-- The distance of 24-bit PSNs, as a signed number. -/
def psn24Diff (a b : Nat) : Int := (BitVec.ofNat 24 a - BitVec.ofNat 24 b).toInt

/-! ## Packets -/

/-- The base transport header. -/
def bthBytes (op pad pkey dest : Nat) (ackReq : Bool) (psn : Nat) : List Byte :=
  beBytes 1 op ++ beBytes 1 (0x40 + 16 * pad) ++ beBytes 2 pkey ++ beBytes 4 dest ++ beBytes 4 (2 ^ 31 * b2n ackReq + psn)

/-- The invariant CRC covers the headers from IP on with the fields that change in flight as ones. -/
def icrc (v6 : Bool) (ip udp bth rest : List Byte) : List Byte :=
  let ones (l : List Byte) (is : List Nat) : List Byte := is.foldl (fun l i => patch l i [0xFF]) l
  let ipm := if v6 then ones (patch ip 0 [0x6F]) [1, 2, 3, 7] else ones ip [1, 8, 10, 11]
  fcsOf (List.replicate 8 0xFF ++ ipm ++ ones udp [6, 7] ++ ones bth [4] ++ rest)

/-- The frame of a RoCEv2 packet with a DSCP. -/
def roceFrame (s : State) (q dscp : Nat) (bth rest : List Byte) : List Byte :=
  let v := qpOf s q
  let h : NetHdr := { dstMac := qpRemoteMac v, srcMac := subMac s (qpPort v) (qpSub v), tag := tciOf (archField v 70 0 16),
                      ipv6 := qpIpv6 v, srcIp := qpLocalIp v, dstIp := qpRemoteIp v, dscp := dscp, ecn := 2, hop := qpHop v,
                      sport := pathPort v 0, dport := 4791, csum4 := s.sht.udpCsum4 }
  let n := if h.ipv6 then 40 else 20
  let dummy := ipBytes h (udpBytes h (bth ++ rest ++ [0, 0, 0, 0]))
  frameBytes h (bth ++ rest ++ icrc h.ipv6 (dummy.take n) ((dummy.drop n).take 8) bth rest)

/-- The packet of an opcode and a body, padded to four bytes. -/
def rocePacket (s : State) (q op : Nat) (psn : BitVec 32) (ackReq : Bool) (body : List Byte) : List Byte :=
  let v := qpOf s q
  let pad := (4 - body.length % 4) % 4
  roceFrame s q (qpDscp v) (bthBytes op pad (qpQkey v % 65536) (qpRemote v) ackReq (psn24 psn))
    (body ++ List.replicate pad 0)

def rethBytes (va key len : Nat) : List Byte := beBytes 8 va ++ beBytes 4 key ++ beBytes 4 len

/-- Payload bytes of a RoCEv2 packet's body: what follows RETH, AtomicETH or AETH. -/
def rocePayload (op n : Nat) : Nat :=
  match op with
  | 0x06 | 0x0A => n - 16
  | 0x0C | 0x13 | 0x14 => 0
  | 0x0D | 0x0F | 0x10 | 0x12 => n - 4
  | _ => n

/-- A data packet of the QP, paced. -/
def sendRoce (q op : Nat) (psn : BitVec 32) (ackReq : Bool) (body : List Byte) (s : State) : State :=
  let f := rocePacket s q op psn ackReq body
  pace q (f.length + 24) (queueFrame q f (countSent q 0 (rocePayload op body.length) s))

/-- A packet that is not paced; one whose queue is full is set aside with the others. -/
def sendRoceCtl (q op : Nat) (psn : BitVec 32) (body : List Byte) (s : State) : State :=
  if qpRoom s q then queueFrame q (rocePacket s q op psn false body) (countCtl q s)
  else modQp q (fun v => { v with aside := true, ctlHeld := v.ctlHeld ++
    [{ opc := 0x100 + op, flags := 0, psn := psn, aux := 0, aux2 := 0, payload := body }] }) s

/-! ## Sending -/

/-- The BTH opcode of a piece of a message: `base` is that of First; Middle, Last and Only follow IBTA. -/
def pieceOp (base only : Nat) (first last : Bool) : Nat :=
  if first && last then only else if first then base else if last then base + 2 else base + 1

def keepRoce (o : SendOp) (op : Nat) (body : List Byte) (answered : Bool) (n : Nat) (v : Qp) : Qp :=
  { v with sqPsn := v.sqPsn + 1
           sent := v.sent ++ [{ psn := v.sqPsn, op := o.id, opc := op, msgId := 0, offset := n, key := 0, aux := 0, aux2 := 0,
                                flags := 0, payload := body, answered := answered, pos := o.built, first := v.sqPsn }] }

/-- A piece of a WRITE or SEND. -/
def sendPiece (o : SendOp) (bs : List Byte) (s : State) : State :=
  let q := o.qp
  let (o, s) := takeMsgId o s
  let v := qpOf s q
  let first := o.built == 0
  let last := decide (o.built + bs.length ≥ o.len)
  let write := o.code == 0x0310
  let op := if write then pieceOp 6 0x0A first last else pieceOp 0 4 first last
  let body := (if write && first then rethBytes o.roff o.rkey o.len else []) ++ bs
  let idle := v.sent.isEmpty
  let psn := v.sqPsn
  let s := setOp { o with built := o.built + bs.length, closed := last } (modQp q (keepRoce o op body false 0) s)
  let s := sendRoce q op psn (last || cadence s v) body s
  if idle then armRto q s else s

/-- A READ Request: it takes the PSNs of its responses. -/
def sendRoceRead (o : SendOp) (s : State) : State :=
  let q := o.qp
  let (o, s) := takeMsgId o s
  let v := qpOf s q
  let mtu := qpMtu v
  let n := max 1 (ceilDiv o.len mtu)
  let body := rethBytes o.roff o.rkey o.len
  let entry (i : Nat) : Sent :=
    { psn := v.sqPsn + BitVec.ofNat 32 i, op := o.id, opc := 0x0C, msgId := 0, offset := 0, key := o.rkey, aux := 0, aux2 := 0,
      flags := 0, payload := rethBytes (o.roff + i * mtu) o.rkey (o.len - i * mtu), answered := true, pos := i * mtu,
      rlen := min mtu (o.len - i * mtu), first := v.sqPsn }
  let idle := v.sent.isEmpty
  let add (v : Qp) : Qp :=
    { v with sqPsn := v.sqPsn + BitVec.ofNat 32 n, sent := v.sent ++ (List.range n).map entry }
  let s := setOp { o with closed := true } (modQp q add s)
  let s := sendRoce q 0x0C v.sqPsn true body s
  if idle then armRto q s else s

/-- An atomic: AtomicETH with the operands big-endian (R157). -/
def sendRoceAtomic (o : SendOp) (s : State) : State :=
  let q := o.qp
  let (o, s) := takeMsgId o s
  let v := qpOf s q
  let d := o.data.getD []
  let add := o.code == 0x0314
  let op := if add then 0x14 else 0x13
  let swap := if add then fieldLE d 0 8 else fieldLE d 8 8
  let cmp := if add then 0 else fieldLE d 0 8
  let body := beBytes 8 o.roff ++ beBytes 4 o.rkey ++ beBytes 8 swap ++ beBytes 8 cmp
  let idle := v.sent.isEmpty
  let psn := v.sqPsn
  let s := setOp { o with closed := true } (modQp q (keepRoce o op body true 0) s)
  let s := sendRoce q op psn true body s
  if idle then armRto q s else s

/-! ### NVMe capsules (R168, R169) -/

/-- Commands outstanding at most. -/
def nvmeLimit (v : Qp) : Nat := min 128 (qpNvmeSize v - 1)

/-- Entries of the submission queue that are free by the head the target last reported. -/
def nvmeFree (v : Qp) : Nat :=
  let n := max 1 (qpNvmeSize v)
  n - 1 - (v.sqTail + n - v.sqHead) % n

/-- The lowest command identifier not in use. -/
def freeCid (v : Qp) : Nat := ((List.range 128).find? fun i => !(v.nvme.any fun c => c.cid == i)).getD 0

/-- The 64-byte submission capsule of an `NVME_IO`. -/
def nvmeCapsule (s : State) (o : SendOp) (cid : Nat) : List Byte :=
  let p := o.packet
  let flush := byteAt p 20 == 0
  let base := (region s (keyIndex o.lkey)).baseVa + o.loff
  leBytes 1 (byteAt p 20) ++ leBytes 1 0x40 ++ leBytes 2 cid ++ slice (p.drop 16) 0 4 ++ List.replicate 16 0 ++
    leBytes 8 base ++ leBytes 3 o.len ++ leBytes 4 o.lkey ++ leBytes 1 0x40 ++
    (if flush then List.replicate 24 0
     else slice (p.drop 24) 0 8 ++ slice (p.drop 32) 0 2 ++ List.replicate 14 0)

/-- An `NVME_IO` goes out as a SEND of its capsule, once the target's queue has room. -/
def sendCapsule (o : SendOp) (s : State) : State :=
  let q := o.qp
  let v := qpOf s q
  match o.cmd with
  | none => s
  | some r =>
    if v.nvme.length ≥ nvmeLimit v ∨ nvmeFree v = 0 then s
    else
      let cid := freeCid v
      let body := nvmeCapsule s o cid
      let (o, s) := takeMsgId o s
      let idle := v.sent.isEmpty
      let add (v : Qp) : Qp :=
        { keepRoce o 4 body false 0 v with
          nvme := v.nvme ++ [{ cid := cid, cmd := r, sent := qpTime s q }]
          sqTail := (v.sqTail + 1) % max 1 (qpNvmeSize v) }
      let s := setOp { o with closed := true } (modQp q add s)
      let s := sendRoce q 4 v.sqPsn true body s
      if idle then armRto q s else s

/-- Builds and sends the next new packet of a RoCEv2 QP. -/
def buildRoce (q : Nat) (ext : List ExtRead) (s : State) : State :=
  match nextOp s q with
  | none => s
  | some o =>
    let v := qpOf s q
    if !mayBuild s q o || decide (psnDiff v.sqPsn v.sndUna ≥ 256) then s
    else
      match o.code with
      | 0x0311 => sendRoceRead o s
      | 0x0314 | 0x0315 => if atomicsOut v ≥ 16 then s else sendRoceAtomic o s
      | 0x0320 => sendCapsule o s
      | _ =>
        match opSource o (min (qpMtu v) (o.len - o.built)) ext s with
        | (s, .ok, bs) => sendPiece o bs s
        | (s, .fail st, _) => failOp o st s
        | (s, .faulted, _) => s

/-- A packet sent again by its PSN: a READ from where its responses stopped. -/
def roceAgain (q : Nat) (psn : BitVec 32) (s : State) : State :=
  match (qpOf s q).sent.find? fun e => e.psn == psn with
  | none => s
  | some e =>
    let s := sendRoce q e.opc e.psn true e.payload (bump (serving s q) 4 1 s)
    if (qpOf s q).tRto.isNone then armRto q s else s

/-- Of the PSNs of one READ only the first is sent again: its request asks for all that follow. -/
def roceRequeue (q : Nat) (lo : BitVec 32) (s : State) : State :=
  let v := qpOf s q
  let es := unackedFrom v lo
  let firstOf (e : Sent) : Bool := e.opc != 0x0C ||
    ((es.filter fun x => x.op == e.op)[0]?).map (·.psn) == some e.psn
  setQp q { v with queue := (v.queue.filter fun i => match i with | .again _ | .copy _ => false | .resp .. => true) ++
    (es.filter firstOf).map fun e => .again e.psn } s

/-- R187 for a RoCEv2 QP. -/
def pacedRoce (q : Nat) (ext : List ExtRead) (s : State) : State :=
  let v := qpOf s q
  if !v.created || qpMode v == 0 || !cached s q || v.aside || !sendTimeCome (qpTime s q) v ||
      unitHolds s (serving s q) 1 q then s
  else if !qpRoom s q then setQp q { v with aside := true } s
  else
    match v.queue.find? (itemReady v) with
    | some i =>
      let s := setQp q { v with queue := v.queue.erase i } s
      match i with
      | .again psn => roceAgain q psn s
      | .copy e => sendRoce q e.opc e.psn true e.payload s
      | .resp psn opc _ _ payload => sendRoce q opc psn false payload s
    | none => buildRoce q ext s

/-! ## Receiving -/

/-- A RoCEv2 packet: header fields and the body up to padding. -/
structure RocePkt where
  op : Nat
  pkey : Nat
  dest : Nat
  ackReq : Bool
  psn : Nat
  body : List Byte
  srcIp : List Byte
  ce : Bool
  ext : List ExtRead
  deriving DecidableEq, Repr

/-- The packet of a frame on port 4 791, and whether its ICRC and checksum are right. -/
def readRoce (frame : List Byte) (ext : List ExtRead) : Option (RocePkt × Bool) :=
  let l := readL2 frame
  match readUdp l with
  | none => none
  | some u =>
    if u.dport ≠ 4791 then none
    else
      let d := u.data
      let n := d.length
      let ipLen := if u.ipv6 then 40 else 4 * (byteAt l.body 0 % 16)
      let pad := byteAt d 1 / 16 % 4
      let good := u.csumOk && decide (16 ≤ n) &&
        d.drop (n - 4) == icrc u.ipv6 (l.body.take ipLen) ((l.body.drop ipLen).take 8) (d.take 12) ((d.take (n - 4)).drop 12)
      some ({ op := byteAt d 0, pkey := be2 d 2, dest := beNat (slice d 5 3), ackReq := bit (byteAt d 8) 7,
              psn := beNat (slice d 9 3), body := (d.take (n - 4 - pad)).drop 12, srcIp := u.srcIp, ce := u.ecn == 3,
              ext := ext }, good)

/-- Opcodes of R163. -/
def roceKnown (op : Nat) : Bool :=
  op ∈ [0, 1, 2, 4, 6, 7, 8, 0x0A, 0x0C, 0x0D, 0x0E, 0x0F, 0x10, 0x11, 0x12, 0x13, 0x14, 0x81]

/-- An acknowledge packet: syndrome and message sequence number. -/
def roceAck (q : Nat) (psn : BitVec 32) (syndrome : Nat) (s : State) : State :=
  sendRoceCtl q 0x11 psn (beBytes 1 syndrome ++ beBytes 3 ((qpOf s q).msn % 2 ^ 24)) s

/-- An ACK for the latest PSN committed in order (R199). -/
def roceAckLast (q : Nat) (s : State) : State :=
  let s := modQp q (fun v => { v with rxSinceAck := 0, tAck := none }) s
  roceAck q (commitBase (qpOf s q) - 1) 0x1F s

/-- RNR timer values in µs, by code 0 to 31 (IBTA). -/
def rnrTimes : List Nat :=
  [655360, 10, 20, 30, 40, 60, 80, 120, 160, 240, 320, 480, 640, 960, 1280, 1920, 2560, 3840, 5120, 7680, 10240, 15360,
   20480, 30720, 40960, 61440, 81920, 122880, 163840, 245760, 327680, 491520]

/-- The code of the smallest RNR time of at least `us` (R165). -/
def rnrCode (us : Nat) : Nat := ((List.range 31).find? fun i => decide (us ≤ nth rnrTimes (i + 1))).getD 30 + 1

/-- An RNR NAK (R165). -/
def roceRnr (q : Nat) (s : State) : State := roceAck q (qpOf s q).rqBase (0x20 + rnrCode s.hdl.backoffUs.toNat) s

/-- A remote-access-error or invalid-request NAK; the QP goes to ERROR with the status (R136). -/
def roceNak (q code : Nat) (st : Status) (recv : Option CmdRef) (s : State) : State :=
  let psn := (qpOf s q).rqBase
  qpFails q st none recv psn (roceAck q psn (0x60 + code) s)

/-- The packets taken commit in their order (R165), each once its writes are visible (R150): its message advances, a RECV it ends
completes, and the ACK that is due is sent. -/
def roceCommit (q : Nat) : Nat → State → State
  | 0, s => s
  | n + 1, s =>
    match (qpOf s q).opened with
    | [] => s
    | o :: rest =>
      if !o.waits.isEmpty then s
      else if o.fault.isSome then roceNak q 2 (o.fault.getD .ok) (o.done.map (·.1.cmd)) s
      else
        let msg := (qpOf s q).msn % 65536
        let s := countCommit q o.bytes (modQp q (fun v => { v with opened := rest, msn := v.msn + b2n o.last }) s)
        let s := match o.done with | some (r, len) => endRecv q r .ok [len, msg] s | none => s
        let due := o.ack || decide ((qpOf s q).rxSinceAck ≥ s.sht.ackEvery.toNat)
        roceCommit q n (if due then roceAckLast q s else s)

/-- A packet taken: the PSNs it uses, its bytes, whether it ends its message, and the key it was admitted under. -/
def roceOpen (v : Qp) (p : RocePkt) (n bytes key : Nat) (last : Bool) : RxOpen :=
  { psns := (List.range n).map fun i => v.rqBase + BitVec.ofNat 32 i, flag := false, ack := p.ackReq, key := key, msgId := 0,
    send := false, bytes := bytes, write := none, ext := p.ext, last := last }

/-- The expected packet has been taken, and commits as soon as it may. -/
def roceTake (q : Nat) (o : RxOpen) (s : State) : State :=
  roceCommit q 256 (modQp q (fun v =>
    { v with rqBase := v.rqBase + BitVec.ofNat 32 o.psns.length, rxSinceAck := v.rxSinceAck + 1, opened := v.opened ++ [o],
             tAck := if v.tAck.isNone then some (afterUs (qpTime s q) s.sht.ackDelayUs.toNat) else v.tAck }) s)

/-- R165: the region check by virtual address, giving the context. An address below the region fails as an offset beyond it
does, after the rows before (R84, R142). -/
def roceRegion (s : State) (q key : Nat) (u : KeyUse) (va len : Nat) : Status × Nat × Nat :=
  let base := (cachedRegion s (homeDie s q) (keyIndex key)).baseVa
  match qpKeyCheck s q key u (va - base) len with
  | (.ok, ctx, a) => if va < base then (.bounds, 0, 0) else (.ok, ctx, a)
  | r => r

/-- How a failed access is answered; a RECV whose landing it was ends with the status. -/
def roceFail (q : Nat) (e : XferEnd) (recv : Option CmdRef) (s : State) : State :=
  match e with
  | .ok => s
  | .faulted => roceRnr q s
  | .fail st => roceNak q 2 st recv s

/-- A piece of an RDMA WRITE, checked under the key of its message (R198). -/
def roceOnWrite (q : Nat) (p : RocePkt) (s : State) : State :=
  let start := p.op == 6 || p.op == 0x0A
  let last := p.op == 8 || p.op == 0x0A
  let bs := if start then p.body.drop 16 else p.body
  let msg : Option (Nat × Nat × Nat) :=
    if start then some (beNat (slice p.body 8 4), beNat (slice p.body 0 8), beNat (slice p.body 12 4)) else (qpOf s q).roceWrite
  match msg with
  | none => roceNak q 1 .opcode none s
  | some (key, va, left) =>
    let s := keyChecked q key s
    match roceRegion s q key .rWrite va left with
    | (.ok, ctx, a) =>
      if bs.length > left ∨ (last ∧ bs.length ≠ left) then roceNak q 1 .opcode none s
      else
        match vaWrite (qpLookup s q ctx true) a bs p.ext s with
        | (s', .ok) =>
          let next := if last then none else some (key, va + bs.length, left - bs.length)
          roceTake q { roceOpen (qpOf s q) p 1 bs.length key last with waits := newWrites s s' }
            (modQp q (fun v => { v with roceWrite := next }) s')
        | (s', e) => roceFail q e none s'
    | (st, _, _) => roceNak q 2 st none s

/-- A response capsule of the NVMe target (R170). -/
def nvmeResponse (q : Nat) (bs : List Byte) (s : State) : State :=
  let d3 := fieldLE bs 12 4
  match (qpOf s q).nvme.find? fun c => c.cid == d3 % 65536 with
  | none => s
  | some c =>
    let s := modQp q (fun v => { v with nvme := v.nvme.filter fun x => x.cid != c.cid, sqHead := fieldLE bs 8 2 }) s
    checkDrain q (completeRef c.cmd .ok [bits d3 17 15, fieldLE bs 0 4] (serving s q) s)

/-- A piece of a SEND. -/
def roceOnSend (q : Nat) (p : RocePkt) (s : State) : State :=
  let v := qpOf s q
  let start := p.op == 0 || p.op == 4
  let last := p.op == 2 || p.op == 4
  if v.nvmeOn then
    roceTake q (roceOpen v p 1 p.body.length 0 last) (if start && last then nvmeResponse q p.body s else s)
  else
    let cur : Option (Recv × Nat) := if start then v.recvs.head?.map fun r => (r, 0) else v.roceRecv
    match cur with
    | none => if start then roceRnr q s else roceNak q 1 .opcode none s
    | some (r, got) =>
      let n := p.body.length
      let take (s : State) : State := if start then modQp q (fun v => { v with recvs := v.recvs.drop 1 }) s else s
      if got + n > r.len then
        roceNak q 1 .bounds none (endRecv q r .bounds [got + n] (modQp q (fun v => { v with roceRecv := none }) (take s)))
      else
        let s := keyChecked q r.lkey s
        let (s', e) := match qpKeyCheck s q r.lkey .lWrite (r.loff + got) n with
          | (.ok, ctx, va) => vaWrite (qpLookup s q ctx true) va p.body p.ext s
          | (st, _, _) => (s, .fail st)
        match e with
        | .ok =>
          let o := { roceOpen v p 1 n r.lkey last with waits := newWrites s s'
                                                       done := if last then some (r, got + n) else none }
          roceTake q o (modQp q (fun v => { v with roceRecv := if last then none else some (r, got + n) }) (take s'))
        | e => roceFail q e (some r.cmd) s'

/-- The opcodes of a READ's responses. -/
def respOp (i n : Nat) : Nat := if n = 1 then 0x10 else if i = 0 then 0x0D else if i + 1 = n then 0x0F else 0x0E

/-- A READ Request; `fresh` is false for a duplicate. -/
def roceOnRead (q : Nat) (p : RocePkt) (fresh : Bool) (s : State) : State :=
  let len := beNat (slice p.body 12 4)
  let key := beNat (slice p.body 8 4)
  let s := keyChecked q key s
  match roceRegion s q key .rRead (beNat (slice p.body 0 8)) len with
  | (.ok, ctx, va) =>
    match vaRead (qpLookup s q ctx true) va len p.ext s with
    | (s, .ok, bs) =>
      let mtu := qpMtu (qpOf s q)
      let n := max 1 (ceilDiv len mtu)
      let aeth (v : Qp) : List Byte := beBytes 1 0x1F ++ beBytes 3 (v.msn % 2 ^ 24)
      let resp (v : Qp) (i : Nat) : TxItem :=
        let op := respOp i n
        .resp (BitVec.ofNat 32 (p.psn + i)) op 0 0
          ((if op = 0x0E then [] else aeth v) ++ (bs.drop (i * mtu)).take mtu)
      let s := modQp q (fun v => { v with queue := v.queue ++ (List.range n).map (resp v) }) s
      if fresh then roceTake q (roceOpen (qpOf s q) { p with ackReq := false } n 0 key true) s else s
    | (s, e, _) => roceFail q e none s
  | (st, _, _) => roceNak q 2 st none s

/-- An atomic acknowledgement goes in line; the prior value is big-endian (R157). -/
def roceAtomicAck (psn : Nat) (prior : Nat) (v : Qp) : Qp :=
  { v with queue := v.queue ++
      [.resp (BitVec.ofNat 32 psn) 0x12 0 0 (beBytes 1 0x1F ++ beBytes 3 (v.msn % 2 ^ 24) ++ beBytes 8 prior)] }

def roceOnAtomic (q : Nat) (p : RocePkt) (s : State) : State :=
  let va0 := beNat (slice p.body 0 8)
  let key := beNat (slice p.body 8 4)
  let s := keyChecked q key s
  match roceRegion s q key .rAtomic va0 8 with
  | (.ok, ctx, va) =>
    if va % 8 ≠ 0 then roceNak q 1 .bounds none s
    else
      match pagePa { qpLookup s q ctx true with access := .atomic } va 8 p.ext s with
      | (s, .error e) => roceFail q e none s
      | (s, .ok (pa, _)) =>
        if !blockFor s q then roceRnr q (notePool s)
        else
          let swap := beNat (slice p.body 12 8)
          let (op, cmp) := if p.op = 0x14 then (AtomOp.add, 0) else (.cmpSwap, beNat (slice p.body 20 8))
          match memAtomicAt (serving s q) (qpPart s q) ctx pa op swap cmp p.ext s with
          | (s, .ok, prior) =>
            let s := modQp q (roceAtomicAck p.psn prior) (recordAtomic q (BitVec.ofNat 32 p.psn) prior s)
            roceTake q (roceOpen (qpOf s q) { p with ackReq := false } 1 0 key true) s
          | (s, st, _) => roceFail q (.fail st) none s
  | (st, _, _) => roceNak q 2 st none s

/-- A request packet under the go-back-N rules (R199). -/
def roceRequest (q : Nat) (p : RocePkt) (s : State) : State :=
  let v := qpOf s q
  let d := psn24Diff p.psn (psn24 v.rqBase)
  if d = 0 then
    let s := setQp q { v with seqNak := false } s
    if qpPuts s q then roceRnr q s
    else if p.op = 6 ∨ p.op = 7 ∨ p.op = 8 ∨ p.op = 0x0A then roceOnWrite q p s
    else if p.op = 0x0C then roceOnRead q p true s
    else if p.op = 0x13 ∨ p.op = 0x14 then roceOnAtomic q p s
    else roceOnSend q p s
  else if d < 0 then
    if p.op = 0x0C then roceOnRead q p false s
    else if p.op = 0x13 ∨ p.op = 0x14 then
      match tget none v.atoms (p.psn % 16) with
      | some r => if r.psn.toNat = p.psn then setQp q (roceAtomicAck p.psn r.prior v) s else s
      | none => s
    else roceAckLast q s
  else if v.seqNak then s
  else roceAck q v.rqBase 0x60 (setQp q { v with seqNak := true } s)

/-- PSNs up to and including a 24-bit one that wait for no response, and those a response answers. -/
def roceAckUpTo (q psn : Nat) (s : State) : State :=
  let v := qpOf s q
  ackPsns q ((v.sent.filter fun e => !e.answered && decide (psn24Diff (psn24 e.psn) psn ≤ 0)).map (·.psn)) s

/-- An Acknowledge packet: ACK, RNR NAK or NAK. -/
def roceOnAck (q : Nat) (p : RocePkt) (s : State) : State :=
  let syn := byteAt p.body 0
  let kind := syn / 32
  let v := qpOf s q
  let cur := v.sent.find? fun e => psn24 e.psn == p.psn
  if kind = 0 then roceAckUpTo q p.psn s
  else
    let s := roceAckUpTo q (p.psn + 2 ^ 24 - 1) s
    if kind = 1 then
      match cur with
      | some e => defer q e.psn (nth rnrTimes (syn % 32)) s
      | none => s
    else if kind = 3 then
      match cur with
      | none => s
      | some e =>
        if syn % 32 = 0 then armRto q (roceRequeue q e.psn s)
        else qpFails q (if syn % 32 = 2 then .denied else .opcode) (some e.op) none e.psn s
    else s

/-- A READ response or an atomic acknowledgement. -/
def roceOnResponse (q : Nat) (p : RocePkt) (s : State) : State :=
  match (qpOf s q).sent.find? fun e => psn24 e.psn == p.psn && e.answered with
  | none => s
  | some e =>
    let s := roceAckUpTo q p.psn s
    match findOp s e.op with
    | none => s
    | some o =>
      if p.op = 0x12 then ackPsns q [e.psn] (setOp { o with prior := beNat (slice p.body 4 8) } (countCommit q 8 s))
      else
        let bs := if p.op = 0x0E then p.body else p.body.drop 4
        if bs.length ≠ e.rlen then s
        else
          let before := s
          match placeResponse o e.pos bs s with
          | (s, .ok) =>
            ackPsns q [e.psn] (countCommit q bs.length (setOp { o with waits := o.waits ++ newWrites before s } s))
          | (s, .fail st) => ackPsns q [e.psn] (setOp { o with failed := some (o.failed.getD st) } s)
          | (s, .faulted) => s

/-- A CE-marked packet is answered with a notification, one per QP per 50 µs (R166). -/
def roceCnp (q : Nat) (s : State) : State :=
  let v := qpOf s q
  let now := qpTime s q
  let due := match v.lastCnp with | some t => decide ((now - t).toNat ≥ 50000) | none => true
  if due then
    let bth := bthBytes 0x81 0 (qpQkey v % 65536) (qpRemote v) false 0
    let frame := roceFrame s q s.sht.cnpDscp.toNat bth (List.replicate 16 0)
    queueFrame q frame (setQp q { v with lastCnp := some now } s)
  else s

/-- Checks of a packet against its QP (R162 checks 3, R164, R165). -/
def roceBad (v : Qp) (p : RocePkt) : Bool :=
  !v.created || qpMode v == 0 || !receiving v || p.srcIp != qpRemoteIp v ||
    (p.pkey != qpQkey v % 65536 && p.pkey != 0xFFFF)

/-- A read or atomic waits until the writes before it are visible, which RoCEv2 executes in order (R165). -/
def roceWaits (s : State) (p : RocePkt) : Bool :=
  (p.op == 0x0C || p.op == 0x13 || p.op == 0x14) && !(qpOf s p.dest).opened.isEmpty

/-- ROCE_PACKET_RECEIVE. -/
def roceReceive (port : Nat) (frame : List Byte) (ext : List ExtRead) (s : State) : State :=
  match readRoce frame ext with
  | none => s
  | some (p, good) =>
    if good && roceWaits s p then s
    else
    let s := takeInbox port frame s
    if !good then { s with sht := { s.sht with crcDrop := satInc s.sht.crcDrop, crcSeen := true } }
    else if !roceKnown p.op ∨ p.dest ≥ 2 ^ 20 then countRxDrop true s
    else
      let q := p.dest
      match sliceLookup q s with
      | (false, s) =>
        if p.op = 0x11 then countRxDrop false s
        else
          let pk : RxPkt := { port := port, frame := frame, srcIp := p.srcIp, h := { opc := 0, flags := 0, dest := q, psn := 0 },
                              payload := [], ivCtr := 0, tag := [], bytes := p.body.length + 16, path := 0, ce := p.ce,
                              ext := ext }
          park pk s
      | (true, s) =>
        if roceBad (qpOf s q) p then countRxDrop true s
        else
          let s := if p.ce then roceCnp q s else s
          if p.op = 0x81 then onEcho q true s
          else if p.op = 0x11 then roceOnAck q p s
          else if p.op = 0x12 ∨ (0x0D ≤ p.op ∧ p.op ≤ 0x10) then roceOnResponse q p s
          else roceRequest q p s

/-! ## Timers -/

/-- The timeout of R199: everything from the oldest unacknowledged PSN goes again. -/
def roceRto (q : Nat) (s : State) : State :=
  let v := qpOf s q
  let due := match v.tRto with | some t => passed (qpTime s q) t | none => false
  if !due || v.deferred || v.sent.isEmpty then s
  else if v.retries ≥ qpRetryMax v then
    qpFails q .timeout ((v.sent.find? fun e => e.psn == v.sndUna).map (·.op)) none v.sndUna s
  else
    let v := { v with retries := v.retries + 1, rtoShift := min (v.rtoShift + 1) s.sht.rtoShiftMax.toNat }
    let s := roceRequeue q v.sndUna (setQp q v s)
    let s := if s.sht.ccEnable then cutRate q (v.rate / 2) s else s
    armRto q s

def roceDefer (q : Nat) (s : State) : State :=
  let v := qpOf s q
  if v.deferred && passed (qpTime s q) v.deferUntil then
    armRto q (roceRequeue q v.deferLo (setQp q { v with deferred := false } s))
  else s

/-- NVME_TIMEOUT: the oldest capsule's response has not come in time (R171). -/
def nvmeTimeout (q : Nat) (s : State) : State :=
  let v := qpOf s q
  match v.nvme.find? fun c => decide ((qpTime s q - c.sent).toNat ≥ s.sht.nvmeTmoMs.toNat * 1000000) with
  | none => s
  | some c =>
    let s := setQp q { v with nvme := v.nvme.filter fun x => x.cid != c.cid } s
    let s := completeRef c.cmd .timeout [] (serving s q) { s with sht := { s.sht with nvmeTmoSeen := true } }
    qpFails q .timeout none none v.sndUna s

end Sys2Proof.Machine
end

