-- ==== Sys2Proof/Machine/ShtCmd.lean ====
section
/-! DEFINITION. The commands of queue pairs: management (R135, R138, R139) and data operations (R131, R134, R140, R141, R145,
R168). A command whose QP context is not in its slice waits for the fetch (R191). -/

namespace Sys2Proof.Machine

/-- A command waits for its QP's context (R190, R191), and starts once it has come. -/
def waitCtx (c : Cmd) (s : State) : State :=
  let s := setStarted false c s
  if s.sht.waitCmds.any fun x => x.id == c.id then s else { s with sht := { s.sht with waitCmds := s.sht.waitCmds ++ [c] } }

/-- A QP command that has started: the QP number (R129), the context (R191), then its own checks in order. -/
def withQp (c : Cmd) (fails : State → Nat → List (Bool × Status)) (run : Nat → State → State) (s : State) : State :=
  match toGlobal s 1 c.part (cmdQid c) with
  | none => complete c .bounds [] (procUnit s c) s
  | some q =>
    match sliceLookup q s with
    | (false, s) => waitCtx c s
    | (true, s) => checked c (fails s q) s (run q)

/-- A data operation: the checks of R102, then those of its QP (R141). -/
def onQp (d : OpDesc) (c : Cmd) (fails : State → Nat → List (Bool × Status)) (run : Nat → State → State) (s : State) : State :=
  takeCmd d c s (withQp c fails run)

/-- The queue pair a command names (R129). -/
def namedQp (s : State) (c : Cmd) : Option Nat := toGlobal s 1 c.part (cmdQid c)

/-- A QP_MODIFY to DRAIN is under way on the queue pair a command names, or a management command on it came before (R120, R135). -/
def qpHeldUp (c : Cmd) (s : State) : Bool :=
  match namedQp s c with
  | some q => (qpOf s q).drainWait.isSome || (heldBefore c s).any fun x =>
      decide (0x0301 ≤ fieldLE x.packet 0 2) && decide (fieldLE x.packet 0 2 ≤ 0x0304) && namedQp s x == some q
  | none => false

/-- A management command starts in its turn. -/
def qpOrdered (d : OpDesc) (c : Cmd) (fails : State → Nat → List (Bool × Status)) (run : Nat → State → State) (s : State) : State :=
  orderCmd d c (qpHeldUp c s) s (withQp c fails run)

/-! ## Management -/

/-- The fields of context bytes 0 to 79 at a byte of the packet, but for its reserved bits (R133). -/
def ctxUsed (b : Nat) : List (Nat × Nat × Nat) :=
  [(b, 0, 28), (b + 4, 0, 24), (b + 8, 0, 24), (b + 12, 0, 32), (b + 16, 0, 32), (b + 20, 0, 32), (b + 24, 0, 16),
   (b + 26, 0, 6), (b + 27, 0, 8), (b + 28, 0, 8), (b + 32, 0, 128), (b + 48, 0, 128), (b + 64, 0, 48), (b + 70, 0, 16),
   (b + 72, 0, 16)]

def descQpCreate : OpDesc := { code := 0x0301, bytes := 80, used := ctxUsed 16, qid := true }
def descQpModify : OpDesc := { code := 0x0302, bytes := 88, used := (16, 0, 5) :: ctxUsed 24, qid := true }
def descQpDestroy : OpDesc := { code := 0x0303, bytes := 0, used := [], qid := true }
def descQpQuery : OpDesc := { code := 0x0304, bytes := 0, used := [], qid := true }

/-- Context bytes 0 to 79 at a byte of the packet. -/
def archArg (c : Cmd) (off : Nat) : Qp := { arch := BitVec.ofNat 640 (fieldLE c.packet off 80) }

/-- Reserved encodings of `STATE` and `MODE` (R139). -/
def badCodes (a : Qp) : Bool := decide (archField a 0 0 3 ≥ 6) || qpMode a == 3

/-- The A fields are out of range for a QP's mode (R139). -/
def badA (mode : Nat) (a : Qp) : Bool :=
  archField a 0 16 5 == 0 || decide (archField a 0 16 5 > 16) || qpHop a == 0 || qpRetryMax a == 0 ||
    (mode != 0 && decide (qpRetryMax a > 7))

/-- The processor that owns a QP (R130). -/
def qpOwner (s : State) (q : Nat) : Nat := objectUnit s q

/-- QP_CREATE: L, R and A fields are set, and the QP is in INIT. -/
def qpCreate (c : Cmd) (s : State) : State :=
  let a := archArg c 16
  qpOrdered descQpCreate c (fun s q =>
    [((qpOf s q).created, .busy),
     (badCodes a, .opcode),
     (badA (qpMode a) a, .lenRange),
     ((qpMode a != 0 && (qpEnc a || archField a 0 14 2 == 3 || qpUd a)) ||
        (qpMode a == 2 && decide (qpNvmeSize a < 2)), .lenRange),
     (!subAssigned s (qpPort a) (qpSub a) c.part || (qpEnc a && !slotOwned s c.part (qpSlot a)), .denied)])
    (fun q s =>
      let s := if qpEnc a then addRef (qpSlot a) s else s
      complete c .ok [q] (qpOwner s q)
        (setQp q { created := true, state := .init, arch := a.arch &&& (maskL ||| maskR ||| maskA) } s)) s

/-- `SET_R` and `SET_A` of QP_MODIFY. -/
def setR (c : Cmd) : Bool := param c 16 8 3 1 == 1
def setA (c : Cmd) : Bool := param c 16 8 4 1 == 1

/-- The transitions of R135 that QP_MODIFY may ask for. -/
def qpTransition (c : Cmd) (old new : QpSt) : Bool :=
  match old, new with
  | .init, .armed | .armed, .active | .active, .drain | .drain, .active => true
  | .reset, .init => setA c
  | o, n => o == n || n == .reset || (n == .error && o != .reset)

/-- The R fields of a QP_MODIFY, where it sets them. -/
def takeR (c : Cmd) (v : Qp) : Qp :=
  if setR c then { v with arch := mergeArch v.arch (archArg c 24).arch maskR } else v

/-- The A fields of a QP_MODIFY, where it sets them. -/
def takeA (c : Cmd) (v : Qp) : Qp :=
  if setA c then { v with arch := mergeArch v.arch (archArg c 24).arch maskA } else v

/-- A QP at ARMED: its PSNs, windows, paths (R174) and rate (R188). -/
def armQp (s : State) (q : Nat) (v : Qp) : Qp :=
  let ent (t : Tab Nat) (p : Nat) : Tab Nat := tset 0 t p ((q % 64 + p * s.sht.entropyStep.toNat) % 64)
  freshRate s q { v with
    state := .armed, sqPsn := qpInitSq v, rqBase := qpInitRq v, sndUna := qpInitSq v, rtxMark := qpInitSq v, sackMap := 0
    rxMap := 0, beta := [], entropy := (List.range 16).foldl ent [], pathAlive := 0xFFFF, retries := 0, rtoShift := 0
    dupSacks := 0, rxPathSeen := 0, rxPathCe := 0, nextSend := qpTime s q }

/-- The atomic record block of a QP returns to the pool (R197). -/
def freeAtomBlock (q : Nat) (s : State) : State :=
  { s with sht := { s.sht with blocks := s.sht.blocks.filter fun b => b != (qpOf s q).atomicBlock } }

/-- The QP is no longer held, and no fault has it as a waiter. -/
def forgetFaults (q : Nat) (s : State) : State :=
  let drop (f : PendFault) : PendFault := { f with waiters := f.waiters.filter fun w => !(w.otype == 0 && w.object == q) }
  { s with hdl := { s.hdl with held := s.hdl.held.filter fun x => !(x.2.1 == 0 && x.2.2 == q)
                               pend := s.hdl.pend.map drop } }

/-- A QP in RESET: only its L fields are left (R135). -/
def resetQp (q : Nat) (s : State) : State :=
  let s := if (qpOf s q).state = .reset then s else toError q .aborted none none s
  let s := forgetFaults q (freeAtomBlock q s)
  setQp q { created := true, arch := (qpOf s q).arch &&& maskL } s

/-- R135: the QP moves to a state. A move to DRAIN completes when the operations started before it have. -/
def qpMove (c : Cmd) (q : Nat) (new : QpSt) (s : State) : State :=
  let done (s : State) : State := complete c .ok [] (qpOwner s q) s
  let old := (qpOf s q).state
  match new with
  | .reset => done (modQp q (takeA c) (resetQp q s))
  | _ =>
    let s := modQp q (takeA c) s
    if old = new then done s
    else
      match new with
      | .init => done (modQp q (fun v => { takeR c v with state := .init, sqPsn := 0, rqBase := 0, nextMsg := 0 }) s)
      | .armed => done (modQp q (fun v => armQp s q (takeR c v)) s)
      | .active => done (modQp q (fun v => { v with state := .active }) s)
      | .drain =>
        let ids := ((opsOf s q).filter fun o => o.msgId.isSome).map (·.id)
        checkDrain q (modQp q (fun v => { v with state := .drain, drainWait := some (cmdRef c, ids) }) s)
      | _ => done (toError q .aborted none none s)

def qpModify (c : Cmd) (s : State) : State :=
  let a := archArg c 24
  let n := param c 16 8 0 3
  qpOrdered descQpModify c (fun s q =>
    let v := qpOf s q
    [(decide (n ≥ 6) || badCodes a, .opcode),
     (setA c && badA (qpMode v) a, .lenRange),
     (!v.created, .queueDisabled),
     (!qpTransition c v.state (qpStOf n), .busy)])
    (fun q s => qpMove c q (qpStOf n) s) s

def qpDestroy (c : Cmd) (s : State) : State :=
  qpOrdered descQpDestroy c (fun s q =>
    let v := qpOf s q
    [(!v.created, .queueDisabled),
     (!(v.state == .reset || v.state == .error) || !(opsOf s q).isEmpty || !v.recvs.isEmpty, .busy)])
    (fun q s =>
      let v := qpOf s q
      let s := if qpEnc v then dropRef (qpSlot v) s else s
      complete c .ok [] (qpOwner s q) (setQp q {} (forgetFaults q (freeAtomBlock q s)))) s

/-- Send operations of a QP that have not completed. -/
def sendsOut (s : State) (q : Nat) : Nat :=
  (opsOf s q).length + ((qpOf s q).nvme.filter fun n => !((opsOf s q).any fun o => o.cmd == some n.cmd)).length

def qpQuery (c : Cmd) (s : State) : State :=
  qpOrdered descQpQuery c (fun s q => [(!(qpOf s q).created, .queueDisabled)])
    (fun q s =>
      let v := qpOf s q
      complete c .ok [qpStCode v.state + 8 * b2n (qpHeld s q) + 2 ^ 8 * v.errStatus.toNat, v.sqPsn.toNat, sendsOut s q,
        v.recvs.length] (qpOwner s q) s) s

/-! ## Data operations -/

def opLkey (c : Cmd) : Nat := fieldLE c.packet 16 4
def opLoff (c : Cmd) : Nat := fieldLE c.packet 24 8
def opRkey (c : Cmd) : Nat := fieldLE c.packet 32 4
def opRoff (c : Cmd) : Nat := fieldLE c.packet 40 8

/-- Fields of a WRITE, which READ and REDUCE_PUSH share; `flag` is the width of `FLAG`. -/
def rdmaUsed (flag : Nat) : List (Nat × Nat × Nat) := [(16, 0, 32), (20, 0, flag), (24, 0, 64), (32, 0, 32), (40, 0, 48)]

def descWrite : OpDesc :=
  { code := 0x0310, bytes := 32, used := rdmaUsed 1, data := true, inlineOk := true, qid := true }
def descRead : OpDesc := { code := 0x0311, bytes := 32, used := rdmaUsed 0, data := true, qid := true }
def descSend : OpDesc :=
  { code := 0x0312, bytes := 16, used := [(16, 0, 32), (24, 0, 64)], data := true, inlineOk := true, qid := true }
def descRecv : OpDesc := { code := 0x0313, bytes := 16, used := [(16, 0, 32), (24, 0, 64)], data := true, qid := true }
def descFetchAdd : OpDesc :=
  { code := 0x0314, bytes := 40, used := [(32, 0, 32), (40, 0, 48), (48, 0, 64)], data := true, qid := true,
    fixedLen := some 8 }
def descCmpSwap : OpDesc :=
  { code := 0x0315, bytes := 48, used := [(32, 0, 32), (40, 0, 48), (48, 0, 128)], data := true, qid := true,
    fixedLen := some 8 }
def descReducePush : OpDesc :=
  { code := 0x0316, bytes := 40, used := rdmaUsed 0 ++ [(48, 0, 12), (52, 0, 32)], data := true, qid := true }
def descUdSend : OpDesc :=
  { code := 0x0317, bytes := 48, used := [(16, 0, 32), (24, 0, 64), (32, 0, 24), (36, 0, 32), (40, 0, 192)], data := true,
    inlineOk := true, qid := true }
/-- A reserved `NVM_OP` is a reserved bit (R168). -/
def descNvmeIo (c : Cmd) : OpDesc :=
  { code := 0x0320, bytes := 32, data := true, qid := true,
    used := [(16, 0, 32), (20, 0, if byteAt c.packet 20 = 3 then 0 else 2), (24, 0, 64), (32, 0, 16), (36, 0, 32),
             (40, 0, 64)] }

/-- The operation of a data command. -/
def sendOpOf (c : Cmd) (q : Nat) : SendOp :=
  let code := fieldLE c.packet 0 2
  let base : SendOp := { id := 0, qp := q, code := code, cmd := some (cmdRef c), packet := c.packet, data := none,
                         lkey := opLkey c, loff := opLoff c, rkey := opRkey c, roff := opRoff c, len := cmdLength c,
                         ext := c.ext }
  let inl : Option (List Byte) := if isInline c then some (inlineBytes c) else none
  match code with
  | 0x0310 => { base with data := inl, aux := param c 20 4 0 1 }
  | 0x0312 | 0x0317 => { base with data := inl, rkey := 0, roff := 0 }
  | 0x0314 => { base with data := some (slice (c.packet.drop 48) 0 8) }
  | 0x0315 => { base with data := some (slice (c.packet.drop 48) 0 16) }
  | 0x0316 => { base with aux := param c 48 2 0 12, aux2 := fieldLE c.packet 52 4 }
  | 0x0320 => { base with lkey := fieldLE c.packet 36 4, loff := opRoff c, rkey := 0, roff := 0 }
  | _ => base

/-- The local key check of R141; an inline payload and the atomics use no local buffer. -/
def localCheck (s : State) (q : Nat) (c : Cmd) : Status :=
  let u (x : KeyUse) : Status := (qpKeyCheck s q (opLkey c) x (opLoff c) (cmdLength c)).1
  match fieldLE c.packet 0 2 with
  | 0x0314 | 0x0315 => .ok
  | 0x0311 | 0x0313 => u .lWrite
  | 0x0320 =>
    let d (x : KeyUse) : Status := (qpKeyCheck s q (fieldLE c.packet 36 4) x (opRoff c) (cmdLength c)).1
    match byteAt c.packet 20 with
    | 0 => .ok
    | 1 => d .rRead
    | _ => d .rWrite
  | _ => if isInline c then .ok else u .lRead

/-- The local key check of a data operation has been made, with the key it names. -/
def opKeyChecked (c : Cmd) (q : Nat) (s : State) : State :=
  match fieldLE c.packet 0 2 with
  | 0x0314 | 0x0315 => s
  | 0x0320 => if byteAt c.packet 20 = 0 then s else keyChecked q (fieldLE c.packet 36 4) s
  | _ => if isInline c then s else keyChecked q (opLkey c) s

/-- The operation does not go with the QP's type or mode (R132, R149, R168). -/
def wrongType (v : Qp) (code : Nat) : Bool :=
  match code with
  | 0x0313 => false
  | 0x0317 => !qpUd v
  | 0x0316 => qpUd v || qpMode v != 0
  | 0x0320 => qpMode v != 2
  | _ => qpUd v

/-- Receive-pool entries a partition uses (`SHT.QUOTA.RQ_USED`). -/
def rqUsed (s : State) (part : Nat) : Nat :=
  s.sht.qp.foldl (fun a e => if qpPart s e.1 = part then a + e.2.recvs.length else a) 0

/-- The checks of a data operation at its serving engine, in the order of R141. -/
def opFails (c : Cmd) (s : State) (q : Nat) : List (Bool × Status) :=
  let v := qpOf s q
  let code := fieldLE c.packet 0 2
  let st := stateRefuses s q (code == 0x0313)
  [(st.isSome, st.getD .ok),
   (wrongType v code, .opcode),
   (code == 0x0317 && decide (cmdLength c > qpMtu v), .lenRange),
   (localCheck s q c != .ok, localCheck s q c),
   (code == 0x0313 && (decide (rqUsed s c.part ≥ amountOf s 6 c.part) || decide (v.recvs.length ≥ 65535)), .poolFull)]

/-- The operation joins its QP's work, or its RECV is posted. The first NVME_IO ends the RECVs that have not completed (R167). -/
def opStart (c : Cmd) (q : Nat) (s : State) : State :=
  match fieldLE c.packet 0 2 with
  | 0x0313 =>
    modQp q (fun v => { v with recvs := v.recvs ++ [{ cmd := cmdRef c, lkey := opLkey c, loff := opLoff c, len := cmdLength c }] }) s
  | 0x0320 =>
    let v := qpOf s q
    let kept := v.opened.map fun o => { o with done := none }
    let s :=
      if v.nvmeOn then s
      else (recvsOut v).foldl (fun s r => endRecv q r .aborted [] s)
        (setQp q { v with nvmeOn := true, recvs := [], roceRecv := none, opened := kept } s)
    addOp (sendOpOf c q) s
  | _ => addOp (sendOpOf c q) s

def dataOp (d : OpDesc) (c : Cmd) (s : State) : State :=
  onQp d c (opFails c) (fun q s => opStart c q (opKeyChecked c q s)) s

/-- The lengths of R168. -/
def nvmeLenBad (c : Cmd) : Bool :=
  if byteAt c.packet 20 = 0 then cmdLength c != 0 else cmdLength c == 0 || decide (cmdLength c ≥ 2 ^ 24)

/-- NVME_IO: its lengths are checked before the queue pair is looked at (R168). -/
def nvmeOp (c : Cmd) (s : State) : State :=
  takeCmd (descNvmeIo c) c s fun s => checked c [(nvmeLenBad c, .lenRange)] s
    (withQp c (opFails c) (fun q s => opStart c q (opKeyChecked c q s)))


/-- A command that waited for a context runs again once it has come. -/
def rerunCtx (c : Cmd) (s : State) : State :=
  match fieldLE c.packet 0 2 with
  | 0x0301 => qpCreate c s
  | 0x0302 => qpModify c s
  | 0x0303 => qpDestroy c s
  | 0x0304 => qpQuery c s
  | 0x0310 => dataOp descWrite c s
  | 0x0311 => dataOp descRead c s
  | 0x0312 => dataOp descSend c s
  | 0x0313 => dataOp descRecv c s
  | 0x0314 => dataOp descFetchAdd c s
  | 0x0315 => dataOp descCmpSwap c s
  | 0x0316 => dataOp descReducePush c s
  | 0x0317 => dataOp descUdSend c s
  | _ => nvmeOp c s

end Sys2Proof.Machine
end

