-- ==== Sys2Proof/Machine/ShtEvents.lean ====
section
/-! DEFINITION. The steps of the Shuttle engines: the queue-pair commands, packets sent and received, commits, timers, and the
context cache (R162, R187, R190 to R194). Each passes what became of the Reed engines' pushes to them (R224). -/

namespace Sys2Proof.Machine

/-- How a step of the Shuttle engines ends. -/
def shtEnds (s t : State) : Host.Outcome State Fault Refusal := ends s (reedNotice t)

/-! ## Commands -/

def execQpCreate (c : Cmd) (s : State) : Host.Outcome State Fault Refusal := shtEnds s (qpCreate c s)
def execQpModify (c : Cmd) (s : State) : Host.Outcome State Fault Refusal := shtEnds s (qpModify c s)
def execQpDestroy (c : Cmd) (s : State) : Host.Outcome State Fault Refusal := shtEnds s (qpDestroy c s)
def execQpQuery (c : Cmd) (s : State) : Host.Outcome State Fault Refusal := shtEnds s (qpQuery c s)
def execWrite (c : Cmd) (s : State) : Host.Outcome State Fault Refusal := shtEnds s (dataOp descWrite c s)
def execRead (c : Cmd) (s : State) : Host.Outcome State Fault Refusal := shtEnds s (dataOp descRead c s)
def execSend (c : Cmd) (s : State) : Host.Outcome State Fault Refusal := shtEnds s (dataOp descSend c s)
def execRecv (c : Cmd) (s : State) : Host.Outcome State Fault Refusal := shtEnds s (freezeCheck (dataOp descRecv c s))
def execFetchAdd (c : Cmd) (s : State) : Host.Outcome State Fault Refusal := shtEnds s (dataOp descFetchAdd c s)
def execCmpSwap (c : Cmd) (s : State) : Host.Outcome State Fault Refusal := shtEnds s (dataOp descCmpSwap c s)
def execReducePush (c : Cmd) (s : State) : Host.Outcome State Fault Refusal := shtEnds s (dataOp descReducePush c s)
def execUdSend (c : Cmd) (s : State) : Host.Outcome State Fault Refusal := shtEnds s (dataOp descUdSend c s)
def execNvmeIo (c : Cmd) (s : State) : Host.Outcome State Fault Refusal := shtEnds s (nvmeOp c s)

/-! ## Sending -/

/-- PACED_SEND: a QP's pacing time has come, in either mode (R187). -/
def execPacedSend (qp : Nat) (reads : PacedReads) (s : State) : Host.Outcome State Fault Refusal :=
  shtEnds s (if qpMode (qpOf s qp) = 0 then pacedSend qp reads.ext reads.corrupt s else pacedRoce qp reads.ext s)

/-- Sends what a QP owes once its transmit queue has room; what still finds no room waits on (R370). -/
def sendHeld (q : Nat) (s : State) (c : CtlPkt) : State :=
  if c.opc ≥ 0x100 then sendRoceCtl q (c.opc - 0x100) c.psn c.payload s else sendCtl q c s

/-- TXQ_ROOM: a QP set aside is served again (R370). -/
def txqRoom (q : Nat) (s : State) : State :=
  let v := qpOf s q
  if v.aside && qpRoom s q then v.ctlHeld.foldl (sendHeld q) (setQp q { v with aside := false, ctlHeld := [] } s) else s

def execTxqRoom (qp : Nat) (s : State) : Host.Outcome State Fault Refusal := shtEnds s (txqRoom qp s)

/-! ## Receiving -/

/-- What a packet does once the checks of R162 have passed, by its opcode (R157). -/
def packetEffect (q : Nat) (p : RxPkt) (s : State) : State :=
  match p.h.opc with
  | 1 => onRequest onWrite q p s
  | 2 => onRequest (fun q p s => onReadReq q p true s) q p s
  | 3 => onReadResp q p.h.psn p.payload s
  | 4 => onRequest onSend q p s
  | 5 | 6 => onRequest onAtomic q p s
  | 7 => onAtomicResp q p.h.psn (fieldLE p.payload 0 8) s
  | 8 =>
    if p.h.len = 0 ∧ !isAbandon p.h then onRequest (onControl (bit p.h.offset 47)) q p s else onRequest onPush q p s
  | 9 => onUd q p s
  | 0x10 => onAck q p.h.psn (leNat p.payload) (bits p.h.aux2 0 16) (bits p.h.aux2 16 16) (bit p.h.flags 2) s
  | _ => onNak q p.h.psn p.h.aux p.h.aux2 (bit p.h.flags 2) s

/-- A frame of the Shuttle port whose header is of the kind a row is about. -/
def receive (want : ShtHdr → Bool) (port : Nat) (frame : List Byte) (ext : List ExtRead) (s : State) :
    Host.Outcome State Fault Refusal :=
  shtEnds s (receivePacket want packetEffect port frame ext s)

/-- The packet has an opcode and is no abandon packet. -/
def isOpc (n : Nat) (h : ShtHdr) : Bool := h.opc == n && !isAbandon h

def execRxWrite (port : Nat) (frame : List Byte) (ext : List ExtRead) (s : State) : Host.Outcome State Fault Refusal :=
  receive (isOpc 1) port frame ext s
def execRxReadReq (port : Nat) (frame : List Byte) (ext : List ExtRead) (s : State) : Host.Outcome State Fault Refusal :=
  receive (isOpc 2) port frame ext s
def execRxReadResp (port : Nat) (frame : List Byte) (ext : List ExtRead) (s : State) : Host.Outcome State Fault Refusal :=
  receive (isOpc 3) port frame ext s
def execRxSend (port : Nat) (frame : List Byte) (ext : List ExtRead) (s : State) : Host.Outcome State Fault Refusal :=
  receive (isOpc 4) port frame ext s
def execRxFetchAdd (port : Nat) (frame : List Byte) (ext : List ExtRead) (s : State) : Host.Outcome State Fault Refusal :=
  receive (isOpc 5) port frame ext s
def execRxCmpSwap (port : Nat) (frame : List Byte) (ext : List ExtRead) (s : State) : Host.Outcome State Fault Refusal :=
  receive (isOpc 6) port frame ext s
def execRxAtomicResp (port : Nat) (frame : List Byte) (ext : List ExtRead) (s : State) : Host.Outcome State Fault Refusal :=
  receive (isOpc 7) port frame ext s
def execRxReducePush (port : Nat) (frame : List Byte) (ext : List ExtRead) (s : State) : Host.Outcome State Fault Refusal :=
  receive (fun h => isOpc 8 h && h.len != 0) port frame ext s
def execRxPushRelease (port : Nat) (frame : List Byte) (ext : List ExtRead) (s : State) : Host.Outcome State Fault Refusal :=
  receive (fun h => isOpc 8 h && h.len == 0 && !bit h.offset 47) port frame ext s
def execRxPushRecall (port : Nat) (frame : List Byte) (ext : List ExtRead) (s : State) : Host.Outcome State Fault Refusal :=
  receive (fun h => isOpc 8 h && h.len == 0 && bit h.offset 47) port frame ext s
def execRxUdSend (port : Nat) (frame : List Byte) (ext : List ExtRead) (s : State) : Host.Outcome State Fault Refusal :=
  receive (isOpc 9) port frame ext s
def execRxAck (port : Nat) (frame : List Byte) (ext : List ExtRead) (s : State) : Host.Outcome State Fault Refusal :=
  receive (isOpc 0x10) port frame ext s
def execRxNak (port : Nat) (frame : List Byte) (ext : List ExtRead) (s : State) : Host.Outcome State Fault Refusal :=
  receive (isOpc 0x11) port frame ext s
def execRxAbandon (port : Nat) (frame : List Byte) (ext : List ExtRead) (s : State) : Host.Outcome State Fault Refusal :=
  receive isAbandon port frame ext s

def execRocePacketReceive (port : Nat) (frame : List Byte) (ext : List ExtRead) (s : State) :
    Host.Outcome State Fault Refusal :=
  shtEnds s (roceReceive port frame ext s)

/-! ## Commits and timers -/

/-- PACKET_COMMIT: in RoCEv2 mode the oldest packets taken. -/
def execPacketCommit (qp : Nat) (psn : BitVec 32) (ext : List ExtRead) (s : State) : Host.Outcome State Fault Refusal :=
  shtEnds s (if qpMode (qpOf s qp) = 0 then commitPacket qp psn ext s else roceCommit qp 256 s)

/-- ACK_DELAY_EXPIRY: a RoCEv2 QP's acknowledgement is an AETH one (R199). -/
def execAckDelayExpiry (qp : Nat) (s : State) : Host.Outcome State Fault Refusal :=
  shtEnds s (ackDelay qp (if qpMode (qpOf s qp) = 0 then sendAck qp else roceAckLast qp) s)

def execTRtoExpiry (qp : Nat) (s : State) : Host.Outcome State Fault Refusal :=
  shtEnds s (if qpMode (qpOf s qp) = 0 then rtoExpiry qp s else roceRto qp s)

def execDeferExpiry (qp : Nat) (s : State) : Host.Outcome State Fault Refusal :=
  shtEnds s (if qpMode (qpOf s qp) = 0 then deferExpiry qp s else roceDefer qp s)

def execTIncExpiry (qp : Nat) (s : State) : Host.Outcome State Fault Refusal := shtEnds s (incExpiry qp s)

def execNvmeTimeout (qp : Nat) (s : State) : Host.Outcome State Fault Refusal := shtEnds s (nvmeTimeout qp s)

/-! ## The context cache (R190 to R194) -/

/-- A parked frame is taken in full, as its port's kind of packet. -/
def takeParked (s : State) (k : Parked) : State :=
  match readPacket s k.port k.frame k.ext with
  | some _ => receivePacket (fun _ => true) packetEffect k.port k.frame k.ext s
  | none => roceReceive k.port k.frame k.ext s

/-- What waited for a context goes on, parked packets first, in their order. -/
def contextHere (q : Nat) (s : State) : State :=
  let ps := s.sht.parked.filter fun k => k.qp == q
  let mine (c : Cmd) : Bool := toGlobal s 1 c.part (cmdQid c) == some q
  let cs := s.sht.waitCmds.filter mine
  let s := { s with sht := { s.sht with parked := s.sht.parked.filter fun k => k.qp != q
                                        waitCmds := s.sht.waitCmds.filter fun c => !mine c } }
  cs.foldl (fun s c => rerunCtx c s) (ps.foldl takeParked s)

/-- R194: a context read as POISON. -/
def contextPoisoned (q : Nat) (s : State) : State :=
  let d := homeDie s q
  let s := contextLost d q .poison { s with sht := { s.sht with ctxPoisonSeen := true } }
  record { mkRecord s (slice_ d) 0x0304 with part := some (qpPart s q), object := q, otype := 1 } s

/-- CONTEXT_FETCH_COMPLETE: the context's 256 bytes have come and are the slice's entry (R191). Of a queue pair whose work is in flight
the engine that takes it over holds the entry as it was written (R130). `uncorrectable` says that the decoder found the bytes so. -/
def contextFetched (q : Nat) (uncorrectable : Bool) (s : State) : State :=
  if !s.sht.fetching.contains q then s
  else
    let d := homeDie s q
    let s := untrack (.ctxFetch q) { s with sht := { s.sht with fetching := s.sht.fetching.filter (· != q) } }
    let (s, st, b) := spoolRead (slice_ d) 0 (256 * q) 256 s
    let s := setCache d (q :: cacheOf s d) s
    contextHere q
      (if uncorrectable || st != .ok then contextPoisoned q s
       else if (qpOf s q).created && !qpWorks s q then modQp q (loadContext (qpTime s q) b) s
       else s)

def execContextFetchComplete (qp : Nat) (uncorrectable : Bool) (s : State) : Host.Outcome State Fault Refusal :=
  shtEnds s (contextFetched qp uncorrectable s)

/-- CACHE_WAY_UNPIN: a fetch that waited for a way starts once one of its set is free (R190). -/
def wayFree (q : Nat) (s : State) : State := if s.sht.wayWait.contains q then startFetch q s else s

def execCacheWayUnpin (qp : Nat) (s : State) : Host.Outcome State Fault Refusal := shtEnds s (wayFree qp s)

end Sys2Proof.Machine
end

