-- ==== Sys2Proof/Machine/Idle.lean ====
section
/-! DEFINITION. Which units hold work (R472, R476), and the references of every command outstanding (R404, R432). -/

namespace Sys2Proof.Machine

/-! ## Work by unit -/

/-- Skeins, ordinary and admin, that a processor serves. -/
def procSkeins (s : State) (n : Nat) : List SkeinRef :=
  ((s.jcq.admin.map fun e => SkeinRef.admin e.1) ++ (s.jcq.skein.map fun e => SkeinRef.ord e.1)).filter fun r =>
    ownerProc s r == n

/-- The processor has a command fetched or an entry to fetch. -/
def procBusy (s : State) (n : Nat) : Bool :=
  (procSkeins s n).any fun r =>
    let k := skeinOf s r
    k.outstanding != 0 || k.fetching || (k.enable && k.head != k.tail)

/-- Queue pairs served by a Shuttle engine. -/
def engineQps (s : State) (u : Nat) : List Nat :=
  (s.sht.qp.filter fun e => e.2.created && serving s e.1 == u).map (·.1)

/-- The queue pair has an operation queued or in flight, or packets to send or commit. -/
def qpBusy (s : State) (q : Nat) : Bool :=
  let v := qpOf s q
  !(opsOf s q).isEmpty || !v.sent.isEmpty || !v.queue.isEmpty || !v.opened.isEmpty || !v.pend.isEmpty

/-- Work that waits only on a page fault, a deferral, a key stall or a freeze (R476). -/
def qpWaits (s : State) (q : Nat) : Bool :=
  (qpOf s q).deferred || keyStalled s q || faultWaits s q || partStopped s (qpPart s q)

/-- Walks, faults and withdrawals of a Heddle. -/
def heddleBusy (s : State) (h : Nat) : Bool :=
  (s.hdl.walks.any fun w => w.req.heddle == h) || (s.hdl.pend.any fun f => f.heddle == h) ||
    s.hdl.withdrawals.any fun w => w.awaiting.any fun a => a.1 == h

/-- A slice has an entry pinned or being fetched. -/
def sliceBusy (s : State) (d : Nat) : Bool :=
  (s.sht.fetching.any fun q => homeDie s q == d) || (cacheOf s d).any fun q => pinned s q

def stackBusy (s : State) (n : Nat) : Bool :=
  (s.spl.biWaits.any fun w => w.line / 64 % 16 == n) ||
    s.spl.releases.any fun r => r.toApply.contains n || r.toZero.contains n

def portBusy (s : State) (k : Nat) : Bool :=
  ((ethp s k).txq.any fun e => !e.2.pkts.isEmpty) || (ethp s k).sub.any fun e => e.2.tx.isSome

def aportBusy (s : State) (k : Nat) : Bool :=
  let a := aport s k
  !a.accReqs.isEmpty || !a.devReqs.isEmpty || !a.txWait.isEmpty || !a.inbox.isEmpty

/-- The unit has work queued, or an operation, pick, job or launch outstanding (R472). -/
def unitBusy (s : State) (u : Nat) : Bool :=
  let d := dieOf u
  let i := instOf u
  match classOf u with
  | 0 => procBusy s (4 * d + i)
  | 1 => if i = 8 then sliceBusy s d else (engineQps s u).any (qpBusy s)
  | 2 => if i = 4 then s.red.slots.any fun x => x.engine / 4 == d else engineBusy s (4 * d + i)
  | 3 => heddleBusy s d
  | 4 =>
    if i = 63 then !s.cip.running.isEmpty || !s.cip.waiting.isEmpty || !s.cip.suspended.isEmpty
    else s.cip.running.any fun r => r.1 == 2 * d + i
  | 5 => let st := (bobbinOf s (32 * (d - 8) + i)).state
         !(st == .idle || st == .unassigned || st == .fenced)
  | 6 => stackBusy s (d - 8)
  | 7 => portBusy s (d - 24)
  | 8 => if i = 2 then s.lnk.cxlReqs.any fun r => r.port == d - 32 else aportBusy s (2 * (d - 32) + i)
  | _ => false

/-- The unit holds work in the sense of a heartbeat (R476). -/
def holdsWork (s : State) (u : Nat) : Bool :=
  if classOf u = 1 ∧ instOf u < 8 then (engineQps s u).any fun q => qpBusy s q && !qpWaits s q
  else if classOf u = 3 then s.hdl.walks.any fun w => w.req.heddle == dieOf u
  else unitBusy s u

/-! ## Outstanding commands -/

def jobRef (j : CipherJob) : Option CmdRef :=
  match j.work with
  | .command c _ => some (cmdRef c)
  | .packet _ _ => none

/-! ## Giving up commands (R404, R432) -/

/-- A queue pair without the operations, RECVs and waits that are given up. -/
def abandonQp (gone : CmdRef → Bool) (recvs : Bool) (v : Qp) : Qp :=
  let r (x : Recv) : Bool := !(recvs && gone x.cmd)
  { v with
    recvs := v.recvs.filter r
    msgs := v.msgs.filter fun m => m.told || r m.recv
    roceRecv := v.roceRecv.filter fun x => r x.1
    opened := v.opened.map fun o => { o with done := o.done.filter fun x => r x.1 }
    nvme := v.nvme.filter fun n => !gone n.cmd
    drainWait := v.drainWait.filter fun x => !gone x.1 }

/-- Commands of a list that are not given up. -/
def keepCmds (gone : CmdRef → Bool) (l : List Cmd) : List Cmd := l.filter fun (c : Cmd) => !gone (cmdRef c)
def keepRef (gone : CmdRef → Bool) (o : Option CmdRef) : Bool := !(o.any gone)

def unstage (gone : CmdRef → Bool) (k : Skein) : Skein :=
  { k with staged := k.staged.filter fun (c : Cmd) => !gone (cmdRef c) }

def abandonJcq (gone : CmdRef → Bool) (j : JcqState) : JcqState :=
  let sk (e : Nat × Skein) : Nat × Skein := (e.1, unstage gone e.2)
  let ad (e : Nat × AdminQ) : Nat × AdminQ := (e.1, { e.2 with sk := unstage gone e.2.sk })
  let d := j.dispatched.filter fun (d : Dispatched) => !gone (cmdRef d.cmd)
  { j with dispatched := d, waiting := keepCmds gone j.waiting, skein := j.skein.map sk, admin := j.admin.map ad }

def abandonSpl (gone : CmdRef → Bool) (p : SplState) : SplState :=
  let ack (a : AckWait) : AckWait := match a.after with
    | .complete r => if gone r then { a with after := .nothing } else a
    | _ => a
  let rel (r : Release) : Release := { r with cmd := r.cmd.filter fun x => !gone x }
  { p with ackWaits := p.ackWaits.map ack, releases := p.releases.map rel }

def abandonHdl (gone : CmdRef → Bool) (h : HdlState) : HdlState :=
  let w (w : Withdrawal) : Withdrawal := { w with cmd := w.cmd.filter fun x => !gone x }
  { h with withdrawals := h.withdrawals.map w }

/-- Operations given up leave their queue pairs; those of the Reed engines' own pushes stay. -/
def abandonSht (gone : CmdRef → Bool) (recvs : Bool) (h : ShtState) : ShtState :=
  let dropped := (h.ops.filter fun (o : SendOp) => !keepRef gone o.cmd).map (·.id)
  let qp (e : Nat × Qp) : Nat × Qp :=
    let v := abandonQp gone recvs e.2
    (e.1, { v with sent := v.sent.filter fun x => !dropped.contains x.op })
  { h with ops := h.ops.filter (fun (o : SendOp) => keepRef gone o.cmd), waitCmds := keepCmds gone h.waitCmds,
           qp := h.qp.map qp }

def abandonRed (gone : CmdRef → Bool) (r : RedState) : RedState :=
  let cm (e : Nat × Comm) : Nat × Comm := (e.1, { e.2 with ops := e.2.ops.filter fun (o : RedOp) => !gone o.cmd })
  let comm := r.comm.map cm
  let live (x : RedSlot) : Bool := (tget ({} : Comm) comm x.comm).ops.any fun o => o.opseq == x.opseq
  { r with comm := comm, slots := r.slots.filter live }

def abandonCip (gone : CmdRef → Bool) (p : CipState) : CipState :=
  let keep (j : CipherJob) : Bool := keepRef gone (jobRef j)
  { p with waiting := p.waiting.filter keep, running := p.running.filter (fun (r : Nat × CipherJob) => keep r.2),
           suspended := p.suspended.filter keep }

/-- Frames stay queued; nothing completes for them. -/
def abandonEth (gone : CmdRef → Bool) (e : EthState) : EthState :=
  let pk (k : TxPacket) : TxPacket := { k with cmd := k.cmd.filter fun x => !gone x }
  let q (e : Nat × EthQueue) : Nat × EthQueue := (e.1, { e.2 with pkts := e.2.pkts.map pk })
  let u (e : Nat × EthSub) : Nat × EthSub :=
    (e.1, { e.2 with tx := e.2.tx.map fun (f : TxFrame) => { f with pkt := pk f.pkt } })
  let port (e : Nat × EthPort) : Nat × EthPort := (e.1, { e.2 with txq := e.2.txq.map q, sub := e.2.sub.map u })
  { e with port := e.port.map port }

def abandonLnk (gone : CmdRef → Bool) (l : LnkState) : LnkState :=
  let ap (e : Nat × APort) : Nat × APort := (e.1, { e.2 with cmds := e.2.cmds.filter fun r => !gone r })
  { l with aport := l.aport.map ap }

def abandonHang (gone : CmdRef → Bool) (h : HangState) : HangState :=
  let rs (r : ResetRun) : ResetRun := { r with cmd := r.cmd.filter fun x => !gone x }
  let dump (d : DumpRun) : DumpRun := { d with cmd := d.cmd.filter fun x => !gone x }
  { h with resets := h.resets.map rs, iso := h.iso.filter (fun (i : Isolation) => !gone i.cmd), dump := h.dump.map dump }

/-- What waits on the commands given up waits no longer. Operations of the engines end as their chapters end them: a Shuttle
operation leaves its queue pair, a pick its engine, a launch stops. -/
def abandon (gone : CmdRef → Bool) (recvs : Bool) (s : State) : State :=
  let launches := (s.bob.launch.filter fun (l : Launch) => gone l.cmd).map (·.id)
  let s := { s with
    jcq := abandonJcq gone s.jcq
    weft := { s.weft with samplingCmd := s.weft.samplingCmd.filter (!gone ·) }
    spl := abandonSpl gone s.spl
    hdl := abandonHdl gone s.hdl
    sht := abandonSht gone recvs s.sht
    red := abandonRed gone s.red
    bob := { s.bob with stops := s.bob.stops.filter (!gone ·.1) }
    eth := abandonEth gone s.eth
    cip := abandonCip gone s.cip
    lnk := abandonLnk gone s.lnk
    pwr := { s.pwr with setWait := s.pwr.setWait.filter (!gone ·.cmd) }
    parts := { s.parts with freezes := s.parts.freezes.filter (!gone ·.cmd), clears := s.parts.clears.filter (!gone ·.2) }
    hang := abandonHang gone s.hang }
  launches.foldl (fun s id => stopLaunch id .aborted none 0 s) s

/-- Every outstanding command for which `doomed` holds, posted RECVs only where `recvs` says so, completes with ABORTED, once; answers how many. -/
def abortAll (doomed : CmdRef → Bool) (recvs : Bool) (s : State) : Nat × State :=
  let posted := allRecvRefs s
  let gone (r : CmdRef) : Bool := doomed r && (recvs || !posted.contains r)
  let rs := (workRefs s ++ if recvs then allRecvRefs s else []).dedup.filter gone
  let launches := s.bob.launch.map (·.cmd)
  let s' := abandon gone recvs s
  (rs.length, (rs.filter fun r => !launches.contains r).foldl (fun s r => completeRef r .aborted [] (ownerUnit s r.skein) s) s')

end Sys2Proof.Machine
end

