-- ==== Sys2Proof/Machine/Verify.lean ====
section
/-! DEFINITION. RSASSA-PSS and the check of firmware images and test-pattern packages (R437, R470). -/

namespace Sys2Proof.Machine

/-! ## RSASSA-PSS (RFC 8017), 3 072 bits, SHA-256, MGF1 with SHA-256, salt of 32 bytes -/

/-- MGF1: `n` bytes. -/
def mgf1 (seed : List Byte) (n : Nat) : List Byte :=
  ((List.range (ceilDiv n 32)).flatMap fun i => sha256 (seed ++ beBytes 4 i)).take n

def sqMod : Nat → Nat → Nat → Nat
  | 0, _, x => x
  | n + 1, m, x => sqMod n m (x * x % m)

/-- `x` to the power 65 537 modulo `m`. -/
def pow65537 (x m : Nat) : Nat := sqMod 16 m x * x % m

def pssOk (modulus signature message : List Byte) : Bool :=
  let n := beNat modulus
  let sg := beNat signature
  let em := beBytes 384 (pow65537 sg n)
  let h := slice em 351 32
  let db := (em.take 351).zipWith (· ^^^ ·) (mgf1 h 351)
  let db := (match db with | b :: r => (b &&& 0x7F) :: r | [] => [])
  let salt := db.drop 319
  decide (sg < n) && byteAt em 383 == 0xBC && decide (byteAt em 0 < 128) &&
    db.take 319 == List.replicate 318 0 ++ [1] &&
    h == sha256 (List.replicate 8 0 ++ sha256 message ++ salt)

/-! ## Images (R437, R470) -/

/-- Why an image does not verify: its format, its key or `SVN`, its signature (R439). -/
inductive BadImage where
  | format | key | signature
  deriving DecidableEq, Repr

/-- Header bytes that R437 keeps reserved; a package uses bytes 32 to 35 of them (R470). -/
def reservedHeader (pkg : Bool) (img : List Byte) : List Byte :=
  slice img 20 4 ++ (if pkg then slice img 36 28 else slice img 32 32) ++ slice img 452 60 ++ slice img 896 3200

def imgSvn (img : List Byte) : Nat := fieldLE img 8 4
def imgBuild (img : List Byte) : Nat := fieldLE img 24 8
def imgKey (img : List Byte) : Nat := fieldLE img 6 2
def imgBodyLen (img : List Byte) : Nat := fieldLE img 12 4
def imgBody (img : List Byte) : List Byte := slice (img.drop 4096) 0 (imgBodyLen img)

/-- The part of an image that is measured and signed (R437, R440). -/
def imgSigned (img : List Byte) : List Byte := slice img 0 512 ++ imgBody img

def imgFormatBad (pkg : Bool) (img : List Byte) : Bool :=
  let n := imgBodyLen img
  fieldLE img 0 4 != (if pkg then 0x54505647 else 0x57465647) || fieldLE img 4 2 != 1 ||
    (reservedHeader pkg img).any (· != 0) || n % 4096 != 0 || decide (n < 4096) || decide (n > 16773120) ||
    fieldLE img 448 4 != 65537 ||
    (pkg && (fieldLE img 32 2 &&& 0xFE80 != 0 || fieldLE img 34 2 == 0))

/-- R437: what is wrong with an image, checked in order; `minSvn` is the OTP minimum. -/
def verifyImage (pkg : Bool) (minSvn : Nat) (img : List Byte) : Option BadImage :=
  if imgFormatBad pkg img then some .format
  else if decide (imgKey img > 3) || sha256 (slice img 64 388) != Config.otpKeyHash (imgKey img) ||
      Config.keyRevoked (imgKey img) || decide (imgSvn img > 65535) || decide (imgSvn img < minSvn) then some .key
  else if !pssOk (slice img 64 384) (slice img 512 384) (imgSigned img) then some .signature
  else none

def badStatus : BadImage → Status
  | .format => .opcode
  | .key => .denied
  | .signature => .checkFail

/-- `MIN_SVN`: the fused value, or what FW_ACTIVATE raised it to (R439). -/
def minSvn (s : State) : Nat := max (Config.minSvn % 65536) s.fw.minSvnRaised.toNat

end Sys2Proof.Machine
end

