-- ==== Sys2Proof/Machine/Fence.lean ====
section
/-! DEFINITION. The Selvedge: fences, their dependents and the replay of work (R448 to R456), copies compared (R458), test
patterns (R470 to R472) and the class 0x09 commands on faults (R473, R474). -/

namespace Sys2Proof.Machine

/-! ## Fences and dependents (R448, R452) -/

def setSafUnit (u : Nat) (v : SafUnit) (s : State) : State :=
  { s with saf := { s.saf with unit := tset {} s.saf.unit u v } }

/-- The units fenced with a unit (R452). -/
def dependents (u : Nat) : List Nat :=
  let d := dieOf u
  match classOf u with
  | 9 => (unitsOfDie d).filter (· != u)
  | 3 => ((List.range 8).map fun i => unitId d 1 i) ++ (List.range 4).map fun i => unitId d 2 i
  | 1 => if instOf u = 8 then (List.range 8).map fun i => unitId d 1 i else []
  | 2 => if instOf u = 4 then (List.range 4).map fun i => unitId d 2 i else []
  | 6 => (List.range 32).map fun i => unitId d 5 i
  | _ => []

/-- Dependents of dependents as well: a die's router takes its pool and controller, whose own dependents lie on the die. -/
def fencedWith (u : Nat) : List Nat := (u :: dependents u)

/-- The units a rail of R509 supplies, by its role. -/
def railUnits (role : Nat) : List Nat :=
  allUnits.filter fun u =>
    let d := dieOf u
    let c := classOf u
    match role with
    | 1 => decide (d < 8)
    | 2 => decide (8 ≤ d) && decide (d < 24)
    | 3 => c == 7 || (c == 8 && instOf u != 2)
    | 4 | 5 => c == 7 || c == 8
    | 6 | 7 | 8 => c == 6
    | 9 => decide (32 ≤ d) && c != 8 || c == 9 || (c == 8 && instOf u == 2)
    | _ => false

/-! ## Replay (R453) -/

/-- The dispatched commands for which `p` holds count as replayed (R105). -/
def markWhere (p : Dispatched → Bool) (s : State) : State :=
  (s.jcq.dispatched.filter p).foldl (fun s d => markReplayed (cmdRef d.cmd) s) s

/-- A processor's commands are replayed by the next in service; a KEY_LOAD, whose copy holds no key, completes with FENCED
(R385). `owned` are the skeins it served. -/
def procLost (owned : List SkeinRef) (s : State) : State :=
  let mine (d : Dispatched) : Bool := owned.contains d.cmd.skein
  let key (d : Dispatched) : Bool := mine d && fieldLE d.cmd.packet 0 2 == 0x0601
  let lost := s.jcq.dispatched.filter key
  let s := markWhere mine s
  lost.foldl (fun s d => completeRef (cmdRef d.cmd) .fenced [] (procUnit s d.cmd) s) s

/-- Incoming packets accepted and not committed are dropped: their PSNs are open again (R453). DEDUCED: a RoCEv2 QP's, whose order its
peer restores only from the last acknowledgement, commit when the acknowledgements they wait for have come. -/
def dropOpened (v : Qp) : Qp :=
  if qpMode v ≠ 0 then v
  else
  let v := v.opened.reverse.foldl (fun v o => o.psns.foldl (fun v p => unmark p v) v) v
  { v with opened := [] }

/-- A queue pair passes to a sibling engine: it resends what is not acknowledged, as at the end of a deferral (R185, R453). -/
def qpMoves (q : Nat) (s : State) : State :=
  let ops := (opsOf s q).filterMap (·.cmd)
  let s := markWhere (fun d => ops.contains (cmdRef d.cmd)) s
  let s := modQp q dropOpened s
  if (qpOf s q).sent.isEmpty then s else resume q (qpOf s q).sndUna s

/-- A queue pair no engine can serve: its operations complete with the status, and it is in ERROR. -/
def qpStranded (q : Nat) (st : Status) (s : State) : State :=
  let part := qpPart s q
  let u := serving s q
  let s := toError q st none none s
  let s := if cached s q then s else writeBack (homeDie s q) q s
  report (.event part 0x04 st u (toLocal s 1 part q) 0) { s with sht := { s.sht with qpErrSeen := true } }

def shuttleLost (qs : List Nat) (s : State) : State :=
  qs.foldl (fun s q => if inService s (serving s q) then qpMoves q s else qpStranded q .fenced s) s

/-- A die leaves service for homing: its slice writes every cached context back in full and the new homes fetch those in use
(R130, R452). -/
def homeMoves (d : Nat) (s : State) : State :=
  let qs := cacheOf s d
  let s := qs.foldl (fun s q => writeBack d q s) (setCache d [] s)
  (qs.filter fun q => pinned s q).foldl (fun s q => startFetch q s) s

/-- The contexts a slice held are lost: each is written as under R194 with the status (R452, R483). Answers how many. -/
def sliceLost (d : Nat) (st : Status) (s : State) : Nat × State :=
  let qs := (cacheOf s d).filter fun q => (qpOf s q).created
  (qs.length, qs.foldl (fun s q => contextLost d q st s) (setCache d [] s))

/-- A job starts anew; a command takes a fresh counter, and a GCM slot without one ends it (R387, R393). -/
def restartJob (j : CipherJob) (s : State) : Option CipherJob × State :=
  match j.work with
  | .packet _ _ => (some j, s)
  | .command c _ =>
    let s := markReplayed (cmdRef c) s
    if fieldLE c.packet 0 2 = 0x0610 then
      match takeCounter j.slot s with
      | (some k, s) => (some { j with work := .command c k }, s)
      | (none, s) => (none, complete c .keyExhausted [] (schedUnit s) (dropRef j.slot s))
    else (some j, s)

/-- A job starts anew on another core. -/
def reissueJob (j : CipherJob) (s : State) : State :=
  match restartJob j s with
  | (some j, s) => jobArrives j.cls j.slot j.work s
  | (none, s) => s

def endJob (st : Status) (s : State) (j : CipherJob) : State :=
  match j.work with
  | .packet _ _ => s
  | .command c _ => complete c st [] (schedUnit s) (dropRef j.slot s)

/-- A fenced core's running and suspended jobs are re-issued (R393). DEDUCED: a suspended job is that of the core it ran on
last, and a command that no core is left for ends FENCED. -/
def coreLost (core : Nat) (s : State) : State :=
  let mine (j : CipherJob) : Bool := j.core == some core
  let js := (s.cip.running.filter fun r => r.1 == core).map (·.2) ++ s.cip.suspended.filter mine
  let s := { s with cip := { s.cip with
    running := s.cip.running.filter fun r => r.1 != core
    suspended := s.cip.suspended.filter fun j => !mine j } }
  if (coresUp s).isEmpty then
    let all := js ++ s.cip.waiting ++ s.cip.suspended
    all.foldl (endJob .fenced) { s with cip := { s.cip with waiting := [], suspended := [] } }
  else schedule (js.foldl (fun s j => reissueJob j s) s)

/-- R393: the scheduler of die 37 takes over with its copy of the store. -/
def schedLost (s : State) : State :=
  let js := s.cip.running.map (·.2) ++ s.cip.suspended ++ s.cip.waiting
  let s := { s with cip := { s.cip with running := [], suspended := [], waiting := [] } }
  if s.cip.schedDie37 || !inService s (cipherSched 37) then js.foldl (endJob .fenced) s
  else
    let s := js.foldl (fun s j => reissueJob j s) { s with cip := { s.cip with schedDie37 := true, failoverSeen := true } }
    record { mkRecord s (cipherSched 36) 0x0706 with fence := true, replay := !js.isEmpty } s

/-- A controller leaves service (R48): changes on their way to it need no acknowledgement, its part of a release is over, and
accesses that wait for a host are answered. -/
def controllerLost (n : Nat) (s : State) : State :=
  let u := controller n
  let ws := s.spl.biWaits.filter fun w => w.line / 64 % 16 == n
  let s := ws.foldl (fun s w =>
    let s := dropWait w.id s
    match w.why with
    | .device r => spoolAnswer r .poison [] s
    | .host h => admitHost h s
    | .release _ => s) s
  let s := (s.spl.updates.filter fun x => x.unit == u).foldl (fun s _ => copyUpdate u s) s
  s.spl.releases.foldl (fun s _ => zeroingComplete n s) s

def ethPortLost (k : Nat) (s : State) : State := (List.range 8).foldl (fun s i => setLink k i .down s) s

/-- What follows a unit's fence: its work passes on, or completes with FENCED (R453, R455). `owned` and `qs` are what a
processor and a Shuttle engine served before the fence. Answers whether work was replayed. -/
def unitLost (owned : List SkeinRef) (qs : List Nat) (u : Nat) (s : State) : State :=
  let d := dieOf u
  let i := instOf u
  match classOf u with
  | 0 => procLost owned s
  | 1 =>
    if i = 8 then
      let (n, s) := sliceLost d .fenced s
      if n = 0 then s else record { mkRecord s u 0x0306 with fence := true, info0 := n } s
    else
      let gone := inService s (slice_ d) && inService s (heddle d) && !(List.range 8).any fun i => inService s (unitId d 1 i)
      shuttleLost qs (if gone then homeMoves d s else s)
  | 2 => if i = 4 then s else reedEngineFenced (4 * d + i) s
  | 3 => homeMoves d s
  | 4 => if i = 63 then (if d = 36 ∨ s.cip.schedDie37 then schedLost s else s) else coreLost (2 * d + i) s
  | 5 => bobbinFenced (32 * (d - 8) + i) s
  | 6 => controllerLost (d - 8) s
  | 7 => ethPortLost (d - 24) s
  | 8 => if i = 2 then cxlDown (d - 32) s else linkLoss (2 * (d - 32) + i) .down s
  | _ => s

/-- The unit had work that a sibling takes. -/
def replays (s : State) (u : Nat) : Bool :=
  unitBusy s u && (match classOf u with | 0 | 2 | 4 | 5 => true | 1 => instOf u != 8 | _ => false)

/-- Every unit of a list that is not fenced yet leaves service together; those after the first are dependents where `dep`
holds. Answers how many were fenced, and whether work is replayed. -/
def fenceUnits (us : List Nat) (dep : Nat → Bool) (s : State) : Nat × Bool × State :=
  let us := us.filter fun u => validUnit u && !fenced s u
  let rep := us.any (replays s)
  let held := us.map fun u =>
    (u, if classOf u = 0 then procSkeins s (4 * dieOf u + instOf u) else [],
        if classOf u = 1 ∧ instOf u < 8 then engineQps s u else [])
  let mark (s : State) (u : Nat) : State :=
    let s := setSafUnit u { safUnit s u with fenced := true, dependent := dep u } s
    let s := releaseTokens u { s with saf := { s.saf with slices := s.saf.slices.filter fun t => t.unit != u } }
    if classOf u = 9 then setPresent (s.weft.diePresent &&& ~~~(BitVec.ofNat 40 (2 ^ dieOf u))) s else s
  let s := us.foldl mark { s with saf := { s.saf with fenceSeen := s.saf.fenceSeen || !us.isEmpty } }
  (us.length, rep, held.foldl (fun s h => unitLost h.2.1 h.2.2 h.1 s) s)

/-- A fence on a cause: the unit, its dependents and their work, then the one record (R450, R463). A unit already fenced
counts in `SAF.REPEAT` (R454). -/
def fenceOn (r : Record) (us : List Nat) (s : State) : State :=
  if us.all (fenced s) then { s with saf := { s.saf with repeats := satInc s.saf.repeats } }
  else
    let (n, rep, s) := fenceUnits us (fun u => u != r.unit) s
    writeRecord { r with fence := true, replay := rep, units := n } s

/-- The units a detection fences: a lost rail's (R421), or the unit, each with its dependents. -/
def detectionUnits (s : State) (r : Record) : List Nat :=
  if r.cause = 0x0601 then
    ((railUnits (tget ({} : Regulator) s.pwr.vr r.info0).role.toNat).flatMap fencedWith).dedup
  else fencedWith r.unit

/-- FAULT_REPORT: the oldest detection reaches the Selvedge (R449, R450). -/
def faultReport (s : State) : State :=
  match s.saf.detected with
  | [] => s
  | r :: rest =>
    let s := { s with saf := { s.saf with detected := rest } }
    let us := detectionUnits s r
    if r.cause = 0x0601 then fenceOn { r with unit := (us.head?).getD r.unit } us s
    else if fenced s r.unit then { s with saf := { s.saf with repeats := satInc s.saf.repeats } }
    else fenceOn r us s

def execFaultReport (s : State) : Host.Outcome State Fault Refusal := ends s (faultReport s)

/-! ## DATAPATH_STALL (R251, R253, R286) -/

/-- A datapath stage of a Reed engine or Bobbin has seen no complete code within `STALL_US`. -/
def datapathStall (u stage : Nat) (s : State) : State :=
  if !inService s u || stopped s u then s
  else if classOf u = 5 then
    bobDetect (32 * (dieOf u - 8) + instOf u) 0x0402 stage 0 { s with bob := { s.bob with stallSeen := true } }
  else if classOf u = 2 ∧ instOf u < 4 then
    let e := 4 * dieOf u + instOf u
    let work := s.red.comm.find? fun c => c.2.ops.any fun o => o.done.isNone && o.engines.contains e
    let base := { mkRecord s u 0x0402 with info0 := stage }
    let r := match work with
      | some c => { base with part := some c.2.part, object := c.1, otype := 3,
                              opcode := ((c.2.ops.find? fun o => o.done.isNone).map (·.code)).getD 0 }
      | none => base
    record r { s with red := { s.red with stallSeen := true } }
  else s

def execDatapathStall (unit stage : Nat) (s : State) : Host.Outcome State Fault Refusal :=
  ends s (datapathStall unit stage s)

/-! ## COPY_COMPARE (R458) -/

/-- `COMPARE_MS` have passed on the unit's counter since its last comparison. -/
def compareDue (s : State) (u : Nat) : Bool :=
  decide (s.saf.compareMs.toNat * 1000000 ≤ since s (dieOf u) (tget 0 s.saf.compareAt u))

/-- A controller's or Heddle's copies are compared with the reference, every `COMPARE_MS`. A copy with every change applied differs where it has
been upset, which the comparison finds; it is reloaded whole. -/
def copyCompare (u : Nat) (upset : Bool) (s : State) : State :=
  if !((classOf u == 6 || classOf u == 3) && inService s u) || s.spl.updates.any (fun x => x.unit == u) || !compareDue s u then s
  else
    let s := { s with saf := { s.saf with compareAt := tset 0 s.saf.compareAt u (unitTime s u) } }
    let got := tget [] s.spl.gotCopy (dieOf u - 8)
    let map := if classOf u = 6 then tget [] s.spl.ctxCopy (dieOf u - 8) else tget [] s.hdl.ctxCopy (dieOf u)
    let same := (classOf u == 3 || got == s.spl.got) && map == s.hdl.ctxPart
    if same && !upset then s
    else
      let s := if classOf u = 6 then
          { s with spl := { s.spl with gotCopy := tset [] s.spl.gotCopy (dieOf u - 8) s.spl.got
                                       ctxCopy := tset [] s.spl.ctxCopy (dieOf u - 8) s.hdl.ctxPart } }
        else { s with hdl := { s.hdl with ctxCopy := tset [] s.hdl.ctxCopy (dieOf u) s.hdl.ctxPart } }
      record { mkRecord s u 0x0207 with info0 := u } { s with saf := { s.saf with copyMismatchSeen := true } }

def execCopyCompare (unit : Nat) (upset : Bool) (s : State) : Host.Outcome State Fault Refusal :=
  ends s (copyCompare unit upset s)

/-! ## Test patterns (R470 to R472) -/

/-- The descriptors of a package's vectors: the unit class of each. -/
def pkgClasses (p : TestPkg) : List Nat := (List.range p.vectors).map fun i => byteAt p.bytes (4096 + 16 * i)

/-- Classes tested: the loaded package's, or the built-in set's. -/
def testMask (s : State) : Nat :=
  match s.saf.pkg with
  | some p => p.classMask
  | none => if s.weft.diePresent = 0 then 0 else 0x17F

/-- Vectors of a unit's full pass. -/
def vectorsFor (s : State) (u : Nat) : Nat :=
  match s.saf.pkg with
  | some p => ((pkgClasses p).filter (· == classOf u)).length
  | none => Config.builtinVectors (classOf u)

def tested (s : State) (u : Nat) : Bool := inService s u && bit (testMask s) (classOf u)

/-- TEST_SLICE_START: an idle unit begins a slice at its next vector. -/
def testStart (u : Nat) (s : State) : State :=
  if s.fw.ready && s.saf.testEnable && tested s u && !unitBusy s u && !s.saf.slices.any (fun t => t.unit == u) then
    { s with saf := { s.saf with slices := s.saf.slices ++ [{ unit := u, vector := tget 0 s.saf.nextVector u }] } }
  else s

def execTestSliceStart (unit : Nat) (s : State) : Host.Outcome State Fault Refusal := ends s (testStart unit s)

/-- A vector failed: the unit is fenced on it. -/
def testFails (u v : Nat) (s : State) : State :=
  record { mkRecord s u 0x0703 with info0 := v } { s with saf := { s.saf with testFailSeen := true } }

/-- TEST_SLICE_END: the slice yields after `ran` vectors, or one failed. -/
def testEnd (u ran : Nat) (failed : Option Nat) (s : State) : State :=
  match s.saf.slices.find? fun t => t.unit == u with
  | none => s
  | some t =>
    let s := { s with saf := { s.saf with slices := s.saf.slices.filter fun x => x.unit != u } }
    let s := if classOf u = 4 then schedule s else s
    match failed with
    | some v => testFails u v s
    | none =>
      if t.vector + ran ≥ vectorsFor s u then
        { s with saf := { s.saf with nextVector := tset 0 s.saf.nextVector u 0
                                     passAt := tset 0 s.saf.passAt u (frameTime s) } }
      else { s with saf := { s.saf with nextVector := tset 0 s.saf.nextVector u (t.vector + ran) } }

def execTestSliceEnd (unit ran : Nat) (failed : Option Nat) (s : State) : Host.Outcome State Fault Refusal :=
  ends s (testEnd unit ran failed s)

/-- TEST_PERIOD_EXPIRY: no full pass within `TEST_PERIOD_MS`. -/
def testLate (u : Nat) (s : State) : State :=
  let since := (frameTime s - tget 0 s.saf.passAt u).toNat
  if !(s.saf.testEnable && tested s u) || decide (since < s.saf.testPeriodMs.toNat * 1000000) then s
  else
    setSafUnit u { safUnit s u with testLate := true }
      { s with saf := { s.saf with testLateSeen := true, passAt := tset 0 s.saf.passAt u (frameTime s) } }

def execTestPeriodExpiry (unit : Nat) (s : State) : Host.Outcome State Fault Refusal := ends s (testLate unit s)

/-! ## Commands (R473, R474) -/

def descSafRead : OpDesc := { code := 0x0901, bytes := 16, used := [(16, 0, 32), (22, 0, 16), (24, 0, 64)], data := true }

/-- Records from a `SEQ` on that the partition may have, at most `n`: the records and the `SEQ` after the last examined. -/
def collectRecords (s : State) (p : Nat) : Nat → BitVec 32 → Nat → List Record × BitVec 32
  | 0, seq, _ => ([], seq)
  | k + 1, seq, n =>
    if seq = s.saf.nextSeq ∨ n = 0 then ([], seq)
    else
      match tget none s.saf.ring (seq.toNat % 1024) with
      | some r =>
        if p = 0 ∨ r.part = some p then
          let (rs, e) := collectRecords s p k (seq + 1) (n - 1)
          (r :: rs, e)
        else collectRecords s p k (seq + 1) n
      | none => collectRecords s p k (seq + 1) n

/-- The first `SEQ` examined: max(`FIRST_SEQ`, `NEXT_SEQ` − 1 024), none past the end. -/
def firstSeq (s : State) (first : Nat) : BitVec 32 :=
  let next := s.saf.nextSeq.toNat
  if first > next then s.saf.nextSeq else BitVec.ofNat 32 (max first (next - 1024))

def execSafRead (c : Cmd) (s : State) : Host.Outcome State Fault Refusal :=
  runCmd descSafRead c [(cmdLength c % 64 != 0, .lenRange)] s fun s =>
    let (rs, e) := collectRecords s c.part 1024 (firstSeq s (fieldLE c.packet 16 4)) (cmdLength c / 64)
    let (s, st) := if rs = [] then (s, Status.ok)
      else bufWrite selvedge c.part (param c 22 2 0 16) (fieldLE c.packet 24 8) (rs.flatMap recordBytes) s
    complete c st (if st = .ok then [rs.length, e.toNat] else []) selvedge s

def descSafAck : OpDesc := { code := 0x0902, bytes := 4, used := [(16, 0, 32)], infra := true }

def execSafAck (c : Cmd) (s : State) : Host.Outcome State Fault Refusal :=
  let seq := BitVec.ofNat 32 (fieldLE c.packet 16 4)
  runCmd descSafAck c
    [(decide ((seq - s.saf.head).toInt < 0) || decide ((seq - s.saf.nextSeq).toInt > 0), .bounds)] s fun s =>
      complete c .ok [] selvedge { s with saf := { s.saf with head := seq } }

/-- `UNIT` is no unit of a present die, or lies on die 39. -/
def unitArgBad (s : State) (u : Nat) : Bool := !validUnit u || dieOf u == 39 || !diePresent s (dieOf u)

def cmdUnit (c : Cmd) : Nat := param c 16 2 0 16

def descSafFence : OpDesc := { code := 0x0910, bytes := 2, used := [(16, 0, 16)], infra := true }

/-- Units software may not fence (R474). -/
def unfenceable (u : Nat) : Bool :=
  classOf u == 10 || classOf u == 11 || ((dieOf u == 36 || dieOf u == 37) && (classOf u == 9 || classOf u == 4))

/-- A report on the unit is on its way: SAF_FENCE has no further effect (R454). -/
def beingFenced (s : State) (u : Nat) : Bool := s.saf.detected.any fun r => (detectionUnits s r).contains u

def execSafFence (c : Cmd) (s : State) : Host.Outcome State Fault Refusal :=
  let u := cmdUnit c
  runCmd descSafFence c
    [(unitArgBad s u, .bounds), (unfenceable u, .denied), (fenced s u, .busy)] s fun s =>
      let s := if beingFenced s u then s else fenceOn (mkRecord s u 0x0704) (fencedWith u) s
      complete c .ok [] selvedge s

def descSafUnfence : OpDesc := { code := 0x0911, bytes := 2, used := [(16, 0, 16)], infra := true }

/-- Classes that may return to service before a start (R456). -/
def unfencePermitted (u : Nat) : Bool :=
  match classOf u with
  | 1 => decide (instOf u < 8)
  | 2 => decide (instOf u < 4)
  | 4 => decide (instOf u < 2)
  | 5 => true
  | _ => false

/-- A Shuttle engine returns to service: QPs it serves come back once they have no operation outstanding, and their contexts with
them where their home die changes (R130, R456). -/
def engineReturns (u : Nat) (s : State) : State :=
  let qs := (s.sht.qp.filter fun e => e.2.created).map fun e => (e.1, serving s e.1)
  let s := setSafUnit u { safUnit s u with fenced := false } s
  qs.foldl (fun s x =>
    if serving s x.1 = x.2 then s
    else if (opsOf s x.1).isEmpty then moveHome (dieOf x.2) x.1 s
    else { s with sht := { s.sht with stay := tset none s.sht.stay x.1 (some x.2) } }) s

/-- SAF_UNFENCE: a full test pass, which `failed` says a vector of failed, and the unit takes new work (R456). -/
def execSafUnfence (c : Cmd) (failed : Option Nat) (s : State) : Host.Outcome State Fault Refusal :=
  let u := cmdUnit c
  let run (s : State) : State :=
    let s := if classOf u = 1 then engineReturns u s else setSafUnit u { safUnit s u with fenced := false } s
    let s := if classOf u = 4 then schedule s else s
    let s := record (mkRecord s u 0x0705) s
    let s := if classOf u = 5 then
        modBobbin (32 * (dieOf u - 8) + instOf u) (fun b => { b with state := .zeroing, launch := none, resident := 0 }) s
      else s
    complete c .ok [vectorsFor s u] selvedge s
  runCmd descSafUnfence c
    [(unitArgBad s u, .bounds), (!fenced s u, .busy),
     (!unfencePermitted u || (safUnit s u).dependent, .denied),
     (failed.isSome, .checkFail)] s run

def descSafTestRun : OpDesc := { code := 0x0921, bytes := 2, used := [(16, 0, 16)], infra := true }

/-- SAF_TEST_RUN: a full pass on an idle unit; a vector that fails fences it. -/
def execSafTestRun (c : Cmd) (failed : Option Nat) (s : State) : Host.Outcome State Fault Refusal :=
  let u := cmdUnit c
  runCmd descSafTestRun c
    [(unitArgBad s u, .bounds), (fenced s u, .fenced), (unitBusy s u, .busy)] s fun s =>
      match failed with
      | some v => complete c .checkFail [] selvedge (testFails u v s)
      | none => complete c .ok [vectorsFor s u] selvedge
          { s with saf := { s.saf with nextVector := tset 0 s.saf.nextVector u 0
                                       passAt := tset 0 s.saf.passAt u (frameTime s) } }

def descSafTestLoad : OpDesc := { code := 0x0920, bytes := 16, used := [(22, 0, 16), (24, 0, 64)], data := true, infra := true }

/-- SAF_TEST_LOAD: the package replaces the loaded one in one event (R471). -/
def execSafTestLoad (c : Cmd) (s : State) : Host.Outcome State Fault Refusal :=
  runCmd descSafTestLoad c [] s fun s =>
    match bufRead selvedge c.part (param c 22 2 0 16) (fieldLE c.packet 24 8) (cmdLength c) c.ext s with
    | (s, .ok, bs) =>
      match (if bs.length = 4096 + imgBodyLen bs then verifyImage true (minSvn s) bs else some .format) with
      | some b => complete c (badStatus b) [] selvedge s
      | none =>
        let build := imgBuild bs
        complete c .ok [bits build 0 32, bits build 32 32] selvedge
          { s with saf := { s.saf with
            pkg := some { svn := imgSvn bs, build := build, classMask := fieldLE bs 32 2, vectors := fieldLE bs 34 2,
                          bytes := bs }
            nextVector := [] } }
    | (s, st, _) => complete c st [] selvedge s

end Sys2Proof.Machine
end

