-- ==== Sys2Proof/Machine/Mailbox.lean ====
section
/-! DEFINITION. Mailboxes (R442 to R447). -/

namespace Sys2Proof.Machine

def mbox (s : State) (m : Nat) : Mailbox := tget {} s.fw.mbox m
def setMbox (m : Nat) (x : Mailbox) (s : State) : State :=
  { s with fw := { s.fw with mbox := tset {} s.fw.mbox m x } }

/-- The requester may send: its class has its bit in `SEND_MASK`, and for class 1 the partition equals `SEND_PART` (R442). -/
def maySend (x : Mailbox) (who : Requester) : Bool :=
  decide (who.cls < 6) && x.sendMask.getLsbD who.cls && (who.cls != 1 || who.part == x.sendPart.toNat)

/-- The owner is in reset (R446). -/
def ownerReset (s : State) (x : Mailbox) : Bool :=
  s.fw.start.isSome ||
    (x.ownerPartition && (partState s x.ownerPart.toNat == .clearing || s.fw.flr.contains x.ownerPart.toNat))

/-- The owner is fenced (R446, R436). -/
def ownerFenced (s : State) (x : Mailbox) : Bool :=
  x.ownerPartition && (s.fw.safeMode || !(List.range 32).any fun n => inService s (jacquard n))

/-- The owner's domain: that of the processor that owns the partition's admin skein; frame firmware is always on (R445). -/
def ownerDomain (s : State) (x : Mailbox) : Option Nat :=
  if x.ownerPartition then some (4 * (ownerProc s (.admin x.ownerPart.toNat) / 4)) else none

def mailboxEvent (m : Nat) (s : State) : State :=
  report (.event (mbox s m).ownerPart.toNat 0x0A .ok mailboxes 0 m) s

/-- The go of a sender that may send, with `FULL` clear (R443, R445, R446). -/
def mailGo (who : Requester) (m : Nat) (s : State) : State :=
  let x := mbox s m
  if ownerReset s x then setMbox m { x with nack := true, nackStatus := BitVec.ofNat 8 (statusCode .aborted) } s
  else if ownerFenced s x then setMbox m { x with nack := true, nackStatus := BitVec.ofNat 8 (statusCode .fenced) } s
  else
    let awake := match ownerDomain s x with
      | some d => (domain s d).state == .on
      | none => true
    let s := setMbox m { x with part := BitVec.ofNat 6 who.part, cls := BitVec.ofNat 4 who.cls, seq := x.seq + 1,
                                full := true, nack := false, eventDue := x.ownerPartition && !awake } s
    if !x.ownerPartition then s
    else if awake then mailboxEvent m s
    else wakeDomain ((ownerDomain s x).getD 0) s

/-- A write of word `w`, 0 to 15, of a mailbox; none where it is refused under R125 (R442, R443). -/
def mailWrite (who : Requester) (m w v : Nat) (s : State) : Option State :=
  let x := mbox s m
  if !maySend x who then none
  else if w = 14 ∨ (w = 15 ∧ !bit v 0) then some s
  else if x.full then none
  else if w = 15 then some (mailGo who m s)
  else some (setMbox m { x with payload := tset 0 x.payload w (BitVec.ofNat 32 v) } s)

/-- The value of word `w`. -/
def mailWord (x : Mailbox) (w : Nat) : Nat :=
  if w = 14 then x.part.toNat + 2 ^ 6 * x.cls.toNat + 2 ^ 16 * x.seq.toNat
  else if w = 15 then 2 * b2n x.full + 4 * b2n x.nack + 8 * x.nackStatus.toNat
  else (tget 0 x.payload w).toNat

/-- A read of the sender word by the owner clears `FULL` (R444). -/
def senderRead (who : Requester) (m : Nat) (s : State) : State :=
  let x := mbox s m
  let owner := if x.ownerPartition then x.ownerPart == 0 && who.cls == 0 && who.part == 0 else who.cls == 3
  if owner then setMbox m { x with full := false } s else s

/-- `FRM.MBOX_CFG[m]` (R442). -/
def mboxCfg (x : Mailbox) : Nat :=
  b2n x.ownerPartition + 2 * x.ownerPart.toNat + 2 ^ 8 * x.sendMask.toNat + 2 ^ 16 * x.sendPart.toNat

def writeMboxCfg (who : Requester) (m v : Nat) (s : State) : Option State :=
  let x := mbox s m
  if x.full || !(who.cls == 3 || who.part == 0) then none
  else some (setMbox m { x with ownerPartition := bit v 0, ownerPart := BitVec.ofNat 6 (bits v 1 6),
                                sendMask := BitVec.ofNat 6 (bits v 8 6), sendPart := BitVec.ofNat 6 (bits v 16 6) } s)

/-! ## Commands (R447) -/

def descMboxSend : OpDesc :=
  { code := 0x0C40, bytes := 1, used := [(16, 0, 5)], data := true, inlineOk := true, fixedLen := some 56 }

def cmdMbox (c : Cmd) : Nat := param c 16 1 0 5

/-- The issuer as a sender: class 0 for partition 0, else class 1. -/
def mailSender (c : Cmd) : Requester := { part := c.part, cls := if c.part = 0 then 0 else 1 }

def storePayload (m : Nat) (bs : List Byte) (s : State) : State :=
  let x := mbox s m
  let words := (List.range 14).foldl (fun t i => tset 0 t i (BitVec.ofNat 32 (fieldLE bs (4 * i) 4))) x.payload
  setMbox m { x with payload := words } s

/-- MBOX_SEND: as R443. -/
def execMboxSend (c : Cmd) (s : State) : Host.Outcome State Fault Refusal :=
  let m := cmdMbox c
  let x := mbox s m
  runCmd descMboxSend c
    [(!bit (cmdFlags c) 2, .lenRange),
     (!maySend x (mailSender c), .denied), (x.full, .busy), (ownerReset s x, .aborted), (ownerFenced s x, .fenced)] s
    fun s => complete c .ok [] mailboxes (mailGo (mailSender c) m (storePayload m (slice (c.packet.drop 64) 0 56) s))

def descMboxRead : OpDesc :=
  { code := 0x0C41, bytes := 16, used := [(16, 0, 5), (18, 0, 16), (24, 0, 64)], data := true, fixedLen := some 64 }

/-- MBOX_READ: the words are written and `FULL` clears in one event. -/
def execMboxRead (c : Cmd) (s : State) : Host.Outcome State Fault Refusal :=
  let m := cmdMbox c
  let x := mbox s m
  runCmd descMboxRead c [(!(x.ownerPartition && x.ownerPart.toNat == c.part), .denied)] s fun s =>
    if !x.full then complete c .ok [0] mailboxes s
    else
      let bs := (List.range 16).flatMap fun w => leBytes 4 (mailWord x w)
      match bufWrite mailboxes c.part (param c 18 2 0 16) (fieldLE c.packet 24 8) bs s with
      | (s, .ok) => complete c .ok [1] mailboxes (setMbox m { mbox s m with full := false } s)
      | (s, st) => complete c st [] mailboxes s

/-! ## FUNCTION_LEVEL_RESET -/

/-- A host begins or ends a function-level reset of the function of a partition on a port (R446). -/
def functionReset (x p : Nat) (begins : Bool) (s : State) : State :=
  if x ≥ 2 ∨ p ≥ 64 ∨ !functionExists s p x then s
  else if begins then { s with fw := { s.fw with flr := if s.fw.flr.contains p then s.fw.flr else s.fw.flr ++ [p] } }
  else { s with fw := { s.fw with flr := s.fw.flr.filter (· != p) } }

def execFunctionLevelReset (port part : Nat) (begins : Bool) (s : State) : Host.Outcome State Fault Refusal :=
  ends s (functionReset port part begins s)

end Sys2Proof.Machine
end

