-- ==== Sys2Proof/Machine/Domains.lean ====
section
/-! DEFINITION. Switched power domains (R416 to R419). -/

namespace Sys2Proof.Machine

/-! ## When a domain may leave ON (R416) -/

/-- The Jacquard cluster, Heddle and slice of a die may be retained. -/
def clusterQuiet (s : State) (d : Nat) : Bool :=
  !(List.range 4).any (fun i => procBusy s (4 * d + i)) && !(s.hdl.pend.any fun f => f.heddle == d) &&
    !(cacheOf s d).any fun q => pinned s q

def enginesQuiet (s : State) (d : Nat) : Bool :=
  !(s.sht.qp.any fun e => e.2.created && homeDie s e.1 == d && qpBusy s e.1)

def picksQuiet (s : State) (d : Nat) : Bool := !(List.range 4).any fun i => engineBusy s (4 * d + i)

/-- No slot of the die's pool is reserved or granted. -/
def poolEmpty (s : State) (d : Nat) : Bool :=
  !(s.red.slots.any fun x => x.engine / 4 == d) && !(s.red.comm.any fun c => c.2.reserved.any fun e => e / 4 == d)

def coresQuiet (s : State) (d : Nat) : Bool :=
  !(s.cip.running.any fun r => r.1 / 2 == d) && !(s.cip.suspended.any fun j => j.core.any fun c => c / 2 == d)

def bobbinsQuiet (s : State) (n : Nat) : Bool :=
  (List.range 32).all fun i => let st := (bobbinOf s (32 * n + i)).state; st == .idle || st == .unassigned

/-- RETAIN is permitted, by policy. -/
def retainOk (s : State) (x : Nat) : Bool :=
  if x < 32 then
    match x % 4 with
    | 0 => clusterQuiet s (x / 4)
    | 1 => enginesQuiet s (x / 4)
    | 2 => picksQuiet s (x / 4)
    | _ => coresQuiet s (x / 4)
  else if x < 64 then
    if x % 2 = 0 then bobbinsQuiet s ((x - 32) / 2) else !stackBusy s ((x - 32) / 2)
  else false

/-- OFF is permitted. -/
def offOk (s : State) (x : Nat) : Bool :=
  if x < 32 then
    match x % 4 with
    | 0 => false
    | 1 => enginesQuiet s (x / 4)
    | 2 => picksQuiet s (x / 4) && poolEmpty s (x / 4)
    | _ => coresQuiet s (x / 4)
  else if x < 64 then x % 2 == 0 && bobbinsQuiet s ((x - 32) / 2)
  else if x < 72 then subsDisabled s (x - 64)
  else (aport s (x - 72)).state == .disabled

/-- The condition under which a domain's policy lets it leave ON (R416, R417). -/
def idleCond (s : State) (x : Nat) : Bool :=
  let d := domain s x
  d.state == .on && d.policy != 0 && ((d.policy == 2 && offOk s x) || retainOk s x)

/-- DOMAIN_IDLE_EXPIRY: the idle condition has held for `IDLE_US` on the die's counter (R417). -/
def domainIdle (x : Nat) (s : State) : State :=
  let d := domain s x
  let off := d.policy == 2 && offOk s x
  let due := match d.idleSince with
    | some t => decide (d.idleUs.toNat * 1000 ≤ since s (dieOf (domainUnit x)) t)
    | none => false
  if decide (x ≥ 80) || !idleCond s x || !due then s
  else leaveOn x off s

def execDomainIdleExpiry (x : Nat) (s : State) : Host.Outcome State Fault Refusal := ends s (domainIdle x s)

/-! ## Transitions and wakes (R418, R419) -/

/-- What a domain loses in OFF (R416). -/
def loseOff (x : Nat) (s : State) : State :=
  if 32 ≤ x ∧ x < 64 ∧ x % 2 = 0 then
    (List.range 32).foldl (fun s i =>
      modBobbin (32 * ((x - 32) / 2) + i) (fun b => { b with code := [], scratch := [], tags := [], resident := 0 }) s) s
  else if 64 ≤ x ∧ x < 72 then modEthp (x - 64) (fun p => { ptime := p.ptime, woken := p.woken }) s
  else if 72 ≤ x ∧ x < 80 then modAport (x - 72) (fun a => { a with hasEq := false }) s
  else s

/-- DOMAIN_TRANSITION_COMPLETE: a SLEEPING domain is in RETAIN or OFF; a wake source that came meanwhile wakes it. -/
def transitionDone (x : Nat) (s : State) : State :=
  let d := domain s x
  if d.state ≠ .sleeping then s
  else
    let s := if d.toOff then loseOff x s else s
    let s := if 64 ≤ x ∧ x < 72 ∧ (ethp s (x - 64)).power = .entering then
      modEthp (x - 64) (fun p => { p with power := .low }) s else s
    let s := setDomain x { d with state := if d.toOff then .off else .retain, wakeHeld := false } s
    if d.wakeHeld then wakeDomain x s else s

def execDomainTransitionComplete (x : Nat) (s : State) : Host.Outcome State Fault Refusal := ends s (transitionDone x s)

/-- DOMAIN_WAKE: a wake source reaches a domain. -/
def execDomainWake (x : Nat) (s : State) : Host.Outcome State Fault Refusal :=
  ends s (if x < 80 then wakeDomain x s else s)

/-- Messages the die's router held for units of the domain go on (R418). -/
def releaseMsgs (x : Nat) (s : State) : State :=
  let mine (h : HeldMsg) : Bool := domainOf (headFlit h.msg).dest == some x
  let ms := s.weft.heldMsgs.filter mine
  ms.foldl (fun s h => takeRequest (dieOf (headFlit h.msg).dest) h.lane h.msg s)
    { s with weft := { s.weft with heldMsgs := s.weft.heldMsgs.filter fun h => !mine h } }

/-- Mailbox events that waited for the owner's domain follow (R445). -/
def releaseMail (x : Nat) (s : State) : State :=
  (List.range 32).foldl (fun s m =>
    let b := mbox s m
    if b.eventDue && ownerDomain s b == some x then mailboxEvent m (setMbox m { b with eventDue := false } s) else s) s

/-- Each enabled sub-port of a port that wakes trains (R380). -/
def trainSubs (k : Nat) (s : State) : State :=
  (List.range 8).foldl (fun s i => if subEnabled s k i then setLink k i .training s else s)
    (modEthp k (fun p => { p with power := if p.power = .waking then .active else p.power }) s)

/-- DOMAIN_WAKE_COMPLETE: a waking domain is ON. Transfers into its islands are timed from now on (R418); a port told meanwhile to take
low power leaves ON again. -/
def wakeDone (x : Nat) (s : State) : State :=
  let d := domain s x
  if d.state ≠ .waking then s
  else
    let waits (r : ResetRun) : Bool := !r.reached && domainOf r.unit == some x
    let at_ (r : ResetRun) : ResetRun := if waits r then { r with at_ := unitTime s r.unit } else r
    let s := { s with hang := { s.hang with resets := s.hang.resets.map at_ } }
    let timed (c : Crossing) : Crossing :=
      let u := islandUnit c.island
      if domainOf u == some x then { c with began := unitTime s u } else c
    let s := { s with pwr := { s.pwr with crossings := s.pwr.crossings.map timed } }
    let s := releaseMail x (releaseMsgs x (setDomain x { d with state := .on } s))
    if x < 64 ∨ 72 ≤ x then s
    else if (ethp s (x - 64)).power = .entering then leaveOn x false s
    else trainSubs (x - 64) s

def execDomainWakeComplete (x : Nat) (s : State) : Host.Outcome State Fault Refusal := ends s (wakeDone x s)

/-- A write of a domain's word at +0: the policy and `IDLE_US`; a policy of 0 wakes it (R417, R418). -/
def writePolicy (x v : Nat) (s : State) : Option State :=
  let pol := bits v 4 2
  let idle := bits v 8 8
  if pol = 3 ∨ idle = 0 then none
  else
    let s := setDomain x { domain s x with policy := BitVec.ofNat 2 pol, idleUs := BitVec.ofNat 8 idle } s
    some (if pol = 0 then wakeDomain x s else if 64 ≤ x ∧ x < 72 then portOff (x - 64) s else s)

end Sys2Proof.Machine
end

