-- ==== Sys2Proof/Machine/Restart.lean ====
section
/-! DEFINITION. What a cold and a warm start keep and clear (R429 to R431, R468), and how a start begins and fails (R435,
R436). -/

namespace Sys2Proof.Machine

/-! ## What a warm start keeps (R430): ST bits and counters "since cold start" of each chapter, and what R430 lists -/

/-- `SAMPLES` counts since power-up, through every start (R30). -/
def keptCorr (w : WeftState) : Tab TimeCorr :=
  (w.corr.map fun e => (e.1, ({ samples := e.2.samples } : TimeCorr))).filter fun e => decide (e.2 ≠ ({} : TimeCorr))

def warmWeft (w : WeftState) : WeftState :=
  { timeoutSeen := w.timeoutSeen, paritySeen := w.paritySeen, nextId := w.nextId, corr := keptCorr w }

/-- Memory, marks, the granule-owner table, the scrub position and the pass under way. The copies hold the reference. -/
def warmSpl (map : Tab (BitVec 6)) (p : SplState) : SplState where
  mem := p.mem
  poison := p.poison
  pinMark := p.pinMark
  pinCount := p.pinCount
  ceSeen := p.ceSeen
  ueSeen := p.ueSeen
  ctxDenySeen := p.ctxDenySeen
  hostDenySeen := p.hostDenySeen
  biTimeout := p.biTimeout
  pinSpareFull := p.pinSpareFull
  got := p.got
  gotCopy := (List.range 16).foldl (fun t n => tset [] t n p.got) []
  ctxCopy := (List.range 16).foldl (fun t n => tset [] t n map) []
  passDone := p.passDone
  passes := p.passes
  scrubPos := p.scrubPos
  ceCount := p.ceCount
  filter := p.filter
  nextId := p.nextId
  refresh2 := p.refresh2

/-- Context descriptors, the map and region entries. -/
def warmHdl (h : HdlState) : HdlState :=
  let pfq (e : Nat × Pfq) : Option (Nat × Pfq) := if e.2.overflowSeen then some (e.1, { overflowSeen := true }) else none
  { ctx := h.ctx, ctxPart := h.ctxPart, ctxCopy := (List.range 8).foldl (fun t n => tset [] t n h.ctxPart) [],
    nextWalk := h.nextWalk, nextWd := h.nextWd, region := h.region, lastRegion := h.lastRegion,
    pfq := h.pfq.filterMap pfq, tableErrSeen := h.tableErrSeen, holderFenced := h.holderFenced, pfqOverflow := h.pfqOverflow }

def warmJcq (j : JcqState) : JcqState :=
  let ad (e : Nat × AdminQ) : Option (Nat × AdminQ) :=
    if e.2.eqOverflow then some (e.1, { eqOverflow := true }) else none
  { admin := j.admin.filterMap ad, dbRangeSeen := j.dbRangeSeen, skeinErrSeen := j.skeinErrSeen,
    eqOverflowSeen := j.eqOverflowSeen }

/-- Records, `HEAD`, `NEXT_SEQ`, ST fields and the loaded package (R468, R471); every unit is back in service (R456). -/
def warmSaf (f : SafState) : SafState :=
  let un (e : Nat × SafUnit) : Option (Nat × SafUnit) :=
    let v : SafUnit := { testLate := e.2.testLate, lost := e.2.lost }
    if v = {} then none else some (e.1, v)
  { unit := f.unit.filterMap un, ring := f.ring, head := f.head, nextSeq := f.nextSeq, overflow := f.overflow,
    dangerOverflow := f.dangerOverflow, fenceSeen := f.fenceSeen, lockstepSeen := f.lockstepSeen,
    copyMismatchSeen := f.copyMismatchSeen, testFailSeen := f.testFailSeen, testLateSeen := f.testLateSeen,
    overflowUnit := f.overflowUnit, overflowCause := f.overflowCause, overflowTime := f.overflowTime, pkg := f.pkg }

/-- CXL links and configuration space, the windows, and the ports' partitions and stored equalisation. -/
def warmLnk (l : LnkState) : LnkState :=
  let hp (e : Nat × HPort) : Nat × HPort := (e.1, { e.2 with snoops := 0, reqDeny := 0, modified := [] })
  let ap (e : Nat × APort) : Option (Nat × APort) :=
    let v : APort := { part := e.2.part, downs := e.2.downs, hasEq := e.2.hasEq }
    if v = {} then none else some (e.1, v)
  { accCrcSeen := l.accCrcSeen, accDownSeen := l.accDownSeen, accDenySeen := l.accDenySeen,
    hostwinDenySeen := l.hostwinDenySeen, hostWbLost := l.hostWbLost, p2pErrSeen := l.p2pErrSeen,
    cxlDownSeen := l.cxlDownSeen, vfDenySeen := l.vfDenySeen, aport := l.aport.filterMap ap,
    hport := (l.hport.map hp).filter (fun (e : Nat × HPort) => e.2 != {}), peerWin := l.peerWin, hostWin := l.hostWin, msixOpen := l.msixOpen, pba := l.pba,
    msixAddr := l.msixAddr, msixData := l.msixData, barBase := l.barBase, component := l.component,
    vfTable := l.vfTable, nextReq := l.nextReq }

def warmPwr (p : PwrState) : PwrState :=
  let dom (e : Nat × Domain) : Nat × Domain :=
    (e.1, { wakes := e.2.wakes, paceMin := e.2.paceMin, temp := e.2.temp, voltMv := e.2.voltMv })
  { coolingB := p.coolingB, vrFaultSeen := p.vrFaultSeen, paceLowSeen := p.paceLowSeen, crossStallSeen := p.crossStallSeen,
    coreStallSeen := p.coreStallSeen, throttleSeen := p.throttleSeen,
    domain := (p.domain.map dom).filter (fun (e : Nat × Domain) => e.2 != {}), throttled := p.throttled, dieTemp := p.dieTemp, dieVolt := p.dieVolt,
    dramTemp := p.dramTemp }

def warmSht (h : ShtState) : ShtState :=
  let pk (e : Nat × ParkCnt) : Option (Nat × ParkCnt) :=
    if e.2.parked = 0 then none else some (e.1, { parked := e.2.parked })
  { crcSeen := h.crcSeen, hdrDropSeen := h.hdrDropSeen, gcmFailSeen := h.gcmFailSeen, qpErrSeen := h.qpErrSeen,
    nvmeTmoSeen := h.nvmeTmoSeen, parkDropSeen := h.parkDropSeen, ctxPoisonSeen := h.ctxPoisonSeen,
    atomicPoolSeen := h.atomicPoolSeen, revokeFenceSeen := h.revokeFenceSeen, nextOp := h.nextOp,
    parkCnt := h.parkCnt.filterMap pk }

def warmRed (r : RedState) : RedState :=
  { replaySeen := r.replaySeen, memberLostSeen := r.memberLostSeen, spillSeen := r.spillSeen,
    stalePushSeen := r.stalePushSeen, dupContribSeen := r.dupContribSeen, sharedPeak := r.sharedPeak,
    crcInSeen := r.crcInSeen, crcOutSeen := r.crcOutSeen, checkFailSeen := r.checkFailSeen,
    modCheckSeen := r.modCheckSeen, dualRailSeen := r.dualRailSeen, stallSeen := r.stallSeen, shadowSeen := r.shadowSeen,
    residualPoisonSeen := r.residualPoisonSeen }

/-- Sequence entries with `REFS` 0, and the Bobbins' partitions. -/
def warmBob (b : BobState) : BobState :=
  let sq (e : Nat × SeqEntry) : Nat × SeqEntry := (e.1, { e.2 with refs := 0 })
  let bb (e : Nat × Bobbin) : Option (Nat × Bobbin) :=
    if e.2.state = .unassigned then none else some (e.1, { state := .idle, part := e.2.part })
  { faultSeen := b.faultSeen, crcSeen := b.crcSeen, scratchUeSeen := b.scratchUeSeen, dualRailSeen := b.dualRailSeen,
    stallSeen := b.stallSeen, shadowSeen := b.shadowSeen, replaySeen := b.replaySeen, poisonTolSeen := b.poisonTolSeen,
    nextLaunch := b.nextLaunch, seq := (b.seq.map sq).filter (fun (e : Nat × SeqEntry) => e.2 != {}), bobbin := b.bobbin.filterMap bb }

def warmCnt (c : CntState) : CntState :=
  { bank := c.bank, part := c.part, profSkipSeen := c.profSkipSeen, rounds := c.rounds }

/-- The kept dump and the counters and ST bits beside it (R489). -/
def warmHang (h : HangState) : HangState :=
  { hbMissed := h.hbMissed, cycleSeen := h.cycleSeen, escalated := h.escalated, dumpValid := h.dumpValid,
    dumpCopied := h.dumpCopied, dumpSkipped := h.dumpSkipped, hbCount := h.hbCount, dumpSeq := h.dumpSeq,
    dumpTotal := h.dumpTotal, dumpUnits := h.dumpUnits }

/-- The groups and transmit maps are the partitions' resources (R398); port time goes on. -/
def warmEth (e : EthState) : EthState :=
  let g (e : Nat × EthGroup) : Option (Nat × EthGroup) :=
    let v : EthGroup := { w0 := e.2.w0, w8 := e.2.w8 }
    if v = {} then none else some (e.1, v)
  let p (e : Nat × EthPort) : Option (Nat × EthPort) :=
    let v : EthPort := { ptime := e.2.ptime, txmap := e.2.txmap, group := e.2.group.filterMap g }
    if v = {} then none else some (e.1, v)
  { err := e.err, port := e.port.filterMap p }

def coldEth (e : EthState) : EthState :=
  let p (e : Nat × EthPort) : Option (Nat × EthPort) :=
    if e.2.ptime = 0 then none else some (e.1, { ptime := e.2.ptime })
  { port := e.port.filterMap p }

def warmCip (c : CipState) : CipState :=
  { exhaustedSeen := c.exhaustedSeen, openFailSeen := c.openFailSeen, failoverSeen := c.failoverSeen, nextJob := c.nextJob }

def warmRegs (r : RegState) : RegState := { conflict := r.conflict }

/-- Flash, the OTP fuses, the counts of failures, and what a warm start reuses. -/
def coldFw (f : FwState) : FwState :=
  { warmFails := f.warmFails, coldFails := f.coldFails, minSvnRaised := f.minSvnRaised, bank := f.bank,
    selected := f.selected, activated := f.activated }

def warmFw (f : FwState) : FwState :=
  { coldFw f with
    lastWarm := f.lastWarm, fwBank := f.fwBank, fwFallback := f.fwFallback, failStep := f.failStep,
    failCause := f.failCause, svn := f.svn, keyIndex := f.keyIndex, retainedFw := f.retainedFw,
    retainedDigest := f.retainedDigest, mbox := f.mbox, flr := f.flr }

/-- The state a warm start begins from. Lines the CXL ports hold modified have been written back (R431). -/
def warmReset (s : State) : State where
  time := s.time
  weft := warmWeft s.weft
  spl := warmSpl s.hdl.ctxPart s.spl
  hdl := warmHdl s.hdl
  jcq := warmJcq s.jcq
  regs := warmRegs s.regs
  parts := { freezeAbort := s.parts.freezeAbort, res := s.parts.res }
  saf := warmSaf s.saf
  lnk := warmLnk s.lnk
  pwr := warmPwr s.pwr
  sht := warmSht s.sht
  red := warmRed s.red
  bob := warmBob s.bob
  cnt := warmCnt s.cnt
  hang := warmHang s.hang
  eth := warmEth s.eth
  cip := warmCip s.cip
  fw := warmFw s.fw
  pins := s.pins
  out := s.out
  seed := s.seed
  pending := s.pending

/-- Stacks whose hottest layer reads above 85 degrees (R36). -/
def refreshOf (p : PwrState) : Tab Bool := (p.dramTemp.filter fun e => decide (e.2.toInt > 340)).map fun e => (e.1, true)

/-- The state a cold start begins from: reset values, but for time, the counts of samples, pins, straps, sensors and the refresh
rate they set, flash and fuses. -/
def coldReset (s : State) : State where
  time := s.time
  weft := { corr := keptCorr s.weft }
  spl := { refresh2 := refreshOf s.pwr }
  pwr := { coolingB := s.pwr.coolingB, throttled := s.pwr.throttled, dieTemp := s.pwr.dieTemp, dieVolt := s.pwr.dieVolt,
           dramTemp := s.pwr.dramTemp }
  eth := coldEth s.eth
  fw := coldFw s.fw
  pins := s.pins
  out := s.out
  seed := s.seed
  pending := s.pending

/-- The CXL ports write back every host line the device holds modified, before a warm start resets any unit (R431). -/
def evictHostLines (s : State) : State :=
  (List.range 2).foldl (fun s x => (hport s x).modified.foldl (fun s l => emit (.cacheReq x l .dirtyEvict) s) s) s

/-- A start begins (R429 to R431). -/
def beginStart (warm : Bool) (s : State) : State :=
  let t := if warm then warmReset (evictHostLines s) else coldReset s
  { t with fw := { t.fw with start := some { warm := warm, done := [], at_ := frameTime s } } }

/-! ## Failure and safe mode (R435, R436) -/

/-- Safe mode: regulators off, every die but 38 and 39 in reset, CXL.io for the physical function alone (R436). -/
def enterSafeMode (s : State) : State :=
  let off (s : State) (e : Nat × Regulator) : State :=
    if e.2.valid && decide (e.2.role.toNat < 9) then emit (.pmbus e.1 0x01 0) s else s
  let s := s.pwr.vr.foldl off s
  let hp (e : Nat × HPort) : Nat × HPort :=
    (e.1, { e.2 with cacheEn := false, memEn := false, vfEnable := false, numVfs := 0 })
  setPresent (s.weft.diePresent &&& 0xC000000000) { s with
    fw := { s.fw with safeMode := true, start := none }
    lnk := { s.lnk with hport := (s.lnk.hport.map hp).filter fun (e : Nat × HPort) => e.2 != {} } }

/-- A start fails at a step (R435): the third failed warm start and the first failed cold start are followed by a cold one,
the second failed cold start by safe mode. -/
def failStart (step cause : Nat) (s : State) : State :=
  match s.fw.start with
  | none => s
  | some r =>
    let f := { s.fw with failStep := BitVec.ofNat 4 step, failCause := BitVec.ofNat 8 cause }
    let s := writeRecord { mkRecord s frameServices 0x0702 with info0 := step, info1 := cause } { s with fw := f }
    if r.warm then
      let n := f.warmFails + 1
      let s := { s with fw := { s.fw with warmFails := n } }
      beginStart (n != 3) s
    else
      let n := f.coldFails + 1
      let s := { s with fw := { s.fw with coldFails := n } }
      if n = 1 then beginStart false s else enterSafeMode s

end Sys2Proof.Machine
end

