-- ==== Sys2Proof/Machine/Start.lean ====
section
/-! DEFINITION. The steps of a cold and a warm start (R433 to R435), restarts (R432), firmware in flash (R437 to R439) and
measurements (R440). -/

namespace Sys2Proof.Machine

/-! ## Flash (R438) -/

def bankSize : Nat := 2 ^ 24

/-- `n` bytes of a bank from `off`. -/
def bankRead (s : State) (b off n : Nat) : List Byte :=
  let t := (tget ({} : Bank) s.fw.bank b).bytes
  (List.range n).map fun i => (tget none t (off + i)).getD (Config.flashByte b (off + i))

def bankWrite (b off : Nat) (bs : List Byte) (s : State) : State :=
  let k := tget ({} : Bank) s.fw.bank b
  let t := (bs.zipIdx).foldl (fun t (e : Byte × Nat) => tset none t (off + e.2) (some e.1)) k.bytes
  { s with fw := { s.fw with bank := tset {} s.fw.bank b { k with bytes := t } } }

/-- The image a bank holds: the header and as much body as it says, within the bank. -/
def bankImage (s : State) (b : Nat) : List Byte :=
  bankRead s b 0 (min bankSize (4096 + imgBodyLen (bankRead s b 0 4096)))

def bankDigest (s : State) (b : Nat) : List Byte := (tget ({} : Bank) s.fw.bank b).digest.getD []

/-- The firmware a start runs: the image, kept with its digest. -/
def runImage (b : Nat) (img : List Byte) (s : State) : State :=
  { s with fw := { s.fw with
    fwBank := b == 1
    svn := BitVec.ofNat 32 (imgSvn img)
    keyIndex := BitVec.ofNat 2 (imgKey img)
    retainedFw := imgSigned img
    retainedDigest := sha256 (imgSigned img)
    activated := false } }

/-! ## Steps -/

/-- The steps that must have ended before a step can (R433, R434): step 6 of a cold start runs beside step 5, step 5 of a warm
start beside step 4. -/
def stepAfter (warm : Bool) (n : Nat) : Option (List Nat) :=
  if warm then
    match n with
    | 1 => some [] | 2 => some [1] | 3 => some [2] | 4 => some [3] | 5 => some [3] | 6 => some [4] | 7 => some [5, 6]
    | _ => none
  else
    match n with
    | 1 => some [] | 2 => some [1] | 3 => some [2] | 4 => some [3] | 5 => some [4] | 6 => some [4] | 7 => some [5]
    | 8 => some [6, 7]
    | _ => none

/-- The step is under way. -/
def stepOpen (r : StartRun) (n : Nat) : Bool :=
  match stepAfter r.warm n with
  | some l => !r.done.contains n && l.all fun m => r.done.contains m
  | none => false

/-- The cumulative bound of a step in counts of the frame counter; `retrain` for a warm start in which a stack trains in
full. -/
def stepBound (warm retrain : Bool) (n : Nat) : Nat :=
  if warm then
    match n with
    | 1 => 20000000 | 2 => 50000000 | 3 => 90000000
    | 4 => if retrain then 2740000000 else 240000000
    | 5 => 100000000
    | 6 => if retrain then 2800000000 else 296000000
    | _ => if retrain then 2810000000 else 306000000
  else
    match n with
    | 1 => 10000000 | 2 => 210000000 | 3 => 240000000 | 4 => 640000000 | 5 => 3140000000 | 6 => 680000000
    | 7 => 3200000000 | _ => 3210000000

def markStep (n : Nat) (s : State) : State :=
  { s with fw := { s.fw with start := s.fw.start.map fun (r : StartRun) => { r with done := r.done ++ [n] } } }

/-- Step 2 of a cold start: the selected bank verifies, or the other one does (R438); else firmware fails. -/
def loadFirmware (s : State) : Option State :=
  let b := b2n s.fw.selected
  let try_ (b : Nat) : Option State :=
    let img := bankImage s b
    if (verifyImage false (minSvn s) img).isNone then some (runImage b img s) else none
  match try_ b with
  | some t => some t
  | none => (try_ (1 - b)).map fun (t : State) => { t with fw := { t.fw with fwFallback := true } }

/-- Step 1 of a warm start: the retained copy, or the bank activated since, has the digest recorded for it (R434, R439). -/
def rehashFirmware (s : State) : Option State :=
  if s.fw.activated then
    let b := b2n s.fw.selected
    let img := bankImage s b
    if sha256 (imgSigned img) = bankDigest s b then some (runImage b img s) else none
  else if sha256 s.fw.retainedFw = s.fw.retainedDigest then some s else none

/-- The order in which rails are turned on (R513): VPP, VDRAM, VDDQ, AVTT, AVDD, VDD_PL, VDD_WV, VDD_SB. -/
def railOrder : List Nat := [8, 6, 7, 5, 4, 3, 1, 2]

/-- A voltage in mV as linear16 with an exponent of `VOUT_MODE`, a signed number of 5 bits (R420). -/
def linear16 (mv exponent : Nat) : Nat :=
  if exponent % 32 < 16 then mv / (1000 * 2 ^ (exponent % 32)) % 65536
  else mv * 2 ^ (32 - exponent % 32) / 1000 % 65536

/-- The set point of a regulator: 0.80 V for the core rails VDD_WV, VDD_SB and VDD_PL under every profile (R27, R412), for the
others what the board configuration says. -/
def setPointMv (r : BoardVr) : Nat := if 1 ≤ r.role ∧ r.role ≤ 3 then 800 else r.vsetMv

/-- Frame firmware lists the regulators; the Treadle sets the set points of roles 1 to 3 and turns the rails on in order. The
CXL ports train once AVDD and VDD_PL are good (R420, R513). -/
def configureRegulators (regs : List BoardVr) (s : State) : State :=
  let regs := (regs.take 48).map fun r => { r with vsetMv := setPointMv r }
  let vr (r : BoardVr) : Regulator :=
    { addr := BitVec.ofNat 7 r.addr, valid := true, role := BitVec.ofNat 8 r.role, vsetMv := BitVec.ofNat 16 r.vsetMv,
      exponent := r.exponent % 32 }
  let t := (regs.zipIdx).foldl (fun t (e : BoardVr × Nat) => tset {} t e.2 (vr e.1)) []
  let s := { s with pwr := { s.pwr with vr := t }, pins := { s.pins with vrEn := true, avddGood := true, vddPlGood := true } }
  let setPoint (s : State) (e : BoardVr × Nat) : State :=
    if 1 ≤ e.1.role ∧ e.1.role ≤ 3 then emit (.pmbus e.2 0x21 (linear16 e.1.vsetMv e.1.exponent)) s else s
  let s := regs.zipIdx.foldl setPoint s
  let on (s : State) (role : Nat) : State :=
    (regs.zipIdx.filter fun e => e.1.role == role).foldl (fun s e => emit (.pmbus e.2 0x01 0x80) s) s
  startCxlTraining (railOrder.foldl on s)

/-- Built-in test leaves a hub die, a Weave die and a Spool stack (R435). -/
def enoughDies (dies : Nat) : Bool := bits dies 36 2 != 0 && bits dies 0 8 != 0 && bits dies 8 16 != 0

def writePresent (dies : Nat) (s : State) : State := setPresent (BitVec.ofNat 40 dies) s

/-- Every Tchiolmeo port of a die present trains (R355). -/
def trainPorts (warm : Bool) (s : State) : State :=
  (List.range 8).foldl (fun s k =>
    if inService s (accPort k) then beginTraining k .training (warm && (aport s k).hasEq) s else s) s

/-- All memory zeroed: granules 0 to 3 DEVICE, every other FREE, every context partition 0's, in the tables and all copies
(R55, R65). -/
def zeroMemory (s : State) : State :=
  let got : Tab (BitVec 16) := (List.range 4).map fun g => (g, BitVec.ofNat 16 (mkGot 0 gotDevice false))
  { s with spl := { s.spl with
    mem := [], poison := [], got := got
    gotCopy := (List.range 16).map fun n => (n, got) } }

/-- Granules FREE or ZEROING are zeroed and left FREE (R56). -/
def zeroFree (s : State) : State :=
  let st (g : Nat) : Nat := gotState (tget 0 s.spl.got g).toNat
  let open_ (g : Nat) : Bool := st g == gotFree || st g == gotZeroing
  let got := s.spl.got.filter fun e => !open_ e.1
  { s with spl := { s.spl with
    mem := s.spl.mem.filter fun e => !open_ (granuleOf e.1)
    poison := s.spl.poison.filter fun e => !open_ (granuleOf (e.1 * 64))
    got := got
    gotCopy := (List.range 16).foldl (fun t n => tset [] t n got) [] } }

/-- Resident images 1 to 4 in the image store (R299). -/
def loadResidents (ver : Nat) (s : State) : State :=
  let img : Image := { loaded := true, shared := true, resident := true, restart := true }
  { s with bob := { s.bob with
    image := [1, 2, 3, 4].foldl (fun t h => tset {} t h img) s.bob.image
    setVer := BitVec.ofNat 8 ver } }

/-- The measurements of R440: the boot ROM, the firmware, the resident images, the board configuration, the security state. -/
def measure (s : State) : Tab (List Byte) :=
  let vrs := s.pwr.vr.flatMap fun e => [e.1, e.2.addr.toNat, e.2.role.toNat, e.2.vsetMv.toNat]
  let put (t : Tab (List Byte)) (e : Nat × List Byte) : Tab (List Byte) := tset [] t e.1 (slice e.2 0 32)
  [(0, Config.measure 0 []), (1, sha256 s.fw.retainedFw), (2, Config.measure 2 [s.bob.setVer.toNat]),
   (3, Config.measure 3 (s.pins.straps.toNat :: vrs)),
   (4, Config.measure 4 [s.fw.svn.toNat, minSvn s, s.fw.keyIndex.toNat])].foldl put []

/-- The last step: the key store is zeroed, the measurements are written, and `READY` sets (R385, R433, R434, R440). -/
def becomeReady (warm : Bool) (ver : Nat) (s : State) : State :=
  let s := loadResidents ver s
  let now := frameTime s
  { s with
    cip := { s.cip with slot := [] }
    sht := { s.sht with poolUp := true }
    saf := { s.saf with passAt := allUnits.foldl (fun t u => tset 0 t u now) []
                        compareAt := allUnits.foldl (fun t u => tset 0 t u (unitTime s u)) [] }
    hang := { s.hang with hbAt := now, wfdAt := now }
    fw := { s.fw with ready := true, lastWarm := warm, warmFails := 0, coldFails := 0, start := none,
                      meas := measure s } }

def coldStep (n : Nat) (i : StartInfo) (s : State) : State :=
  match n with
  | 1 => if i.pass then markStep 1 s else failStart 1 1 s
  | 2 => match loadFirmware s with
    | some t => markStep 2 t
    | none => failStart 2 2 s
  | 3 => if i.pass then markStep 3 (configureRegulators i.regs s) else failStart 3 3 s
  | 4 => if enoughDies i.dies then trainPorts false (markStep 4 (writePresent i.dies s)) else failStart 4 5 s
  | 5 => markStep 5 s
  | 6 => markStep 6 s
  | 7 => startSampling none (markStep 7 (zeroMemory s))
  | _ => becomeReady false i.setVer s

def warmStep (n : Nat) (i : StartInfo) (s : State) : State :=
  match n with
  | 1 => match (if i.pass then rehashFirmware s else none) with
    | some t => markStep 1 t
    | none => failStart 1 2 s
  | 2 => if i.pass then markStep 2 (configureRegulators i.regs s) else failStart 2 3 s
  | 3 => if enoughDies i.dies then trainPorts true (markStep 3 (writePresent i.dies s)) else failStart 3 5 s
  | 4 => markStep 4 { s with fw := { s.fw with retrained := BitVec.ofNat 16 i.retrained } }
  | 5 => markStep 5 s
  | 6 => startSampling none (markStep 6 (zeroFree s))
  | _ => becomeReady true i.setVer s

/-- START_STEP_DONE: a step that is under way ends. -/
def startStep (n : Nat) (i : StartInfo) (s : State) : State :=
  match s.fw.start with
  | none => s
  | some r => if !stepOpen r n then s else if r.warm then warmStep n i s else coldStep n i s

def execStartStepDone (step : Nat) (info : StartInfo) (s : State) : Host.Outcome State Fault Refusal :=
  ends s (startStep step info s)

/-- START_STEP_OVERRUN: a step under way has reached its bound; `retrain` says that a stack trains in full. -/
def startOverrun (n : Nat) (retrain : Bool) (s : State) : State :=
  match s.fw.start with
  | none => s
  | some r =>
    let bound := stepBound r.warm (retrain || s.fw.retrained != 0) n
    if !stepOpen r n || decide ((frameTime s - r.at_).toNat < bound) then s else failStart n 4 s

def execStartStepOverrun (step : Nat) (retrain : Bool) (s : State) : Host.Outcome State Fault Refusal :=
  ends s (startOverrun step retrain s)

/-! ## Restarts and resets (R432, R469, R485) -/

def descDevRestart : OpDesc := { code := 0x0C20, bytes := 1, used := [(16, 0, 1)], infra := true }

/-- DEV_RESTART, the first one: fetching stops, every other command outstanding completes with ABORTED, its own with OK, and
the start follows. A later one is aborted. -/
def execDevRestart (c : Cmd) (s : State) : Host.Outcome State Fault Refusal :=
  runCmd descDevRestart c [(s.fw.restart.isSome, .aborted)] s fun s =>
    let own := cmdRef c
    let (_, s) := abortAll (fun r => r != own) true s
    let quiet (k : Skein) : Skein := { k with fetching := false, fetched := [] }
    let sk (e : Nat × Skein) : Nat × Skein := (e.1, quiet e.2)
    let ad (e : Nat × AdminQ) : Nat × AdminQ := (e.1, { e.2 with sk := quiet e.2.sk })
    let s := { s with jcq := { s.jcq with skein := s.jcq.skein.map sk, admin := s.jcq.admin.map ad } }
    let s := complete c .ok [] frameServices s
    { s with fw := { s.fw with restart := some { cold := param c 16 1 0 1 == 1, cmd := own, at_ := frameTime s } } }

/-- The restart's start begins (R432 step 4). -/
def restartNow (s : State) : State :=
  match s.fw.restart with
  | some r => beginStart (!r.cold) s
  | none => s

/-- It begins once every completion has been written or has failed. -/
def restartCheck (s : State) : State :=
  if s.fw.restart.isSome && s.jcq.done.isEmpty then restartNow s else s

/-- RESTART_DEADLINE: 1 ms after the dispatch it begins in any case. -/
def restartDeadline (s : State) : State :=
  match s.fw.restart with
  | some r => if (frameTime s - r.at_).toNat < 1000000 then s else restartNow s
  | none => s

def execRestartDeadline (s : State) : Host.Outcome State Fault Refusal := ends s (restartDeadline s)

/-- PACKAGE_RESET: 1 µs after the request, everything is reset and a warm start follows (R429, R485). -/
def packageReset (s : State) : State :=
  match s.fw.pkgReset with
  | some t => if (frameTime s - t).toNat < 1000 then s else beginStart true s
  | none => s

def execPackageReset (s : State) : Host.Outcome State Fault Refusal := ends s (packageReset s)

/-- LOCKSTEP_MISCOMPARE: a record, `LOCKSTEP_SEEN` and a package reset (R469). `unit` is die 38's. -/
def lockstep (unit step : Nat) (s : State) : State :=
  if dieOf unit ≠ 38 ∨ !validUnit unit then s
  else
    let s := { s with saf := { s.saf with lockstepSeen := true } }
    beginStart true (writeRecord { mkRecord s unit 0x0701 with info0 := unit + 1024, info1 := step } s)

def execLockstepMiscompare (unit step : Nat) (s : State) : Host.Outcome State Fault Refusal :=
  ends s (lockstep unit step s)

/-- A write of `SAFE_EXIT` in safe mode: a cold start with both counts cleared (R436). -/
def safeExit (s : State) : State :=
  if s.fw.safeMode then beginStart false { s with fw := { s.fw with warmFails := 0, coldFails := 0 } } else s

/-! ## Firmware commands (R439) -/

def descFwDownload : OpDesc :=
  { code := 0x0C01, bytes := 16, used := [(16, 0, 32), (22, 0, 16), (24, 0, 64)], data := true, infra := true }

/-- The bank that is not selected. -/
def spareBank (s : State) : Nat := 1 - b2n s.fw.selected

/-- FW_DOWNLOAD writes the unselected bank. -/
def execFwDownload (c : Cmd) (s : State) : Host.Outcome State Fault Refusal :=
  let off := fieldLE c.packet 16 4
  let len := cmdLength c
  runCmd descFwDownload c
    [(len % 4096 != 0, .lenRange), (off % 4096 != 0 || decide (off + len > bankSize), .bounds)] s fun s =>
      match bufRead frameServices c.part (param c 22 2 0 16) (fieldLE c.packet 24 8) len c.ext s with
      | (s, .ok, bs) => complete c .ok [] frameServices (bankWrite (spareBank s) off (slice bs 0 len) s)
      | (s, st, _) => complete c st [] frameServices s

def descFwActivate : OpDesc := { code := 0x0C02, bytes := 1, used := [(16, 0, 1)], infra := true }

/-- FW_ACTIVATE verifies the unselected bank and selects it for the next start. -/
def execFwActivate (c : Cmd) (s : State) : Host.Outcome State Fault Refusal :=
  runCmd descFwActivate c [] s fun s =>
    let b := spareBank s
    let img := bankImage s b
    match verifyImage false (minSvn s) img with
    | some e => complete c (badStatus e) [] frameServices s
    | none =>
      let k := { tget ({} : Bank) s.fw.bank b with digest := some (sha256 (imgSigned img)) }
      let raised := if param c 16 1 0 1 = 1 then BitVec.ofNat 16 (max (minSvn s) (imgSvn img)) else s.fw.minSvnRaised
      complete c .ok [bits (imgBuild img) 0 32, bits (imgBuild img) 32 32] frameServices
        { s with fw := { s.fw with bank := tset {} s.fw.bank b k, selected := b == 1, activated := true,
                                   minSvnRaised := raised } }

end Sys2Proof.Machine
end

