-- ==== Sys2Proof/Machine/Board.lean ====
section
/-! DEFINITION. The board: regulators over PMBus (R420, R421), temperatures and trips (R414, R516, R517), power-up and
power-down (R28, R513 to R515), and SPDM and CDAT over DOE (R441). -/

namespace Sys2Proof.Machine

/-! ## PMBus (R420, R421) -/

def regulator (s : State) (i : Nat) : Regulator := tget {} s.pwr.vr i
def setRegulator (i : Nat) (r : Regulator) (s : State) : State :=
  { s with pwr := { s.pwr with vr := tset {} s.pwr.vr i r } }

/-- A linear11 word times `scale`, rounded down; none where it is negative. -/
def linear11 (w scale : Nat) : Option Nat :=
  let y := bits w 0 11
  let n := bits w 11 5
  if y ≥ 1024 then none
  else if n < 16 then some (y * scale * 2 ^ n) else some (y * scale / 2 ^ (32 - n))

/-- A reading as a register of `w` bits holds it; one it cannot hold is a free value, whose number is `k`. -/
def reading (k w : Nat) (v : Option Nat) : Nat :=
  match v with
  | some n => if n < 2 ^ w then n else Config.freeNat k % 2 ^ w
  | none => Config.freeNat k % 2 ^ w

/-- The rail has failed: output off or power-good lost. -/
def railLost (status : Nat) : Bool := bit status 6 || bit status 11

/-- Bits of `STATUS_WORD` that report a fault: every one but BUSY. -/
def faultBits (status : Nat) : Bool := status % 65536 != 0x80 && status % 65536 != 0

/-- The step of a start that is under way, for `FAIL_STEP`. -/
def currentStep (r : StartRun) : Nat := (((List.range 9).filter (stepOpen r)).head?).getD 0

/-- R421: `VR_FAULT_SEEN` and one record, then CLEAR_FAULTS; a lost rail's units are fenced by the Selvedge. A fault during a
start fails it (R435). -/
def vrFault (i status : Nat) (s : State) : State :=
  let s := { s with pwr := { s.pwr with vrFaultSeen := true } }
  let r := { mkRecord s treadle 0x0601 with info0 := i, info1 := status }
  match s.fw.start with
  | some run => failStart (currentStep run) 3 (emit (.pmbus i 0x03 0) (writeRecord r s))
  | none =>
    if railLost status then emit (.pmbus i 0x03 0) { s with saf := { s.saf with detected := s.saf.detected ++ [r] } }
    else emit (.pmbus i 0x03 0) (record r s)

/-- A transfer failed; the third in a row is a fault. -/
def pmbFailed (i : Nat) (s : State) : State :=
  let r := regulator s i
  let s := setRegulator i { r with fails := min 3 (r.fails + 1) } s
  if r.fails = 2 then vrFault i r.status.toNat s else s

def pmbStatus (i status : Nat) (s : State) : State :=
  let s := setRegulator i { regulator s i with status := BitVec.ofNat 16 status, fails := 0 } s
  if faultBits status then vrFault i (status % 65536) s else s

/-- One regulator is polled. -/
def pollOne (s : State) (p : PmbPoll) : State :=
  let r := regulator s p.vr
  if !r.valid then s
  else
    match p.words with
    | none => pmbFailed p.vr s
    | some (st, v, a, w) =>
      let k := s.seed
      let s := setRegulator p.vr { r with
        voutMv := BitVec.ofNat 16 (reading k 16 (linear11 v 1000))
        ioutDa := BitVec.ofNat 16 (reading (k + 1) 16 (linear11 a 10))
        poutW := BitVec.ofNat 16 (reading (k + 2) 16 (linear11 w 1))
        poutMw := reading (k + 3) 32 (linear11 w 1000) } { s with seed := s.seed + 4 }
      pmbStatus p.vr st s

/-- The output of the first regulator listed for a role. -/
def railVolt (s : State) (role : Nat) : BitVec 16 :=
  match s.pwr.vr.find? fun e => e.2.valid && e.2.role.toNat == role with
  | some e => e.2.voutMv
  | none => 0

/-- Domains and always-on islands report the voltage of the rail that feeds them (R461). -/
def spreadVolts (s : State) : State :=
  let dom (x : Nat) : Nat := if x < 32 then 1 else if x < 64 then 2 else 3
  let s := (List.range 80).foldl (fun s x => setDomain x { domain s x with voltMv := railVolt s (dom x) } s) s
  { s with pwr := { s.pwr with dieVolt := (List.range 40).foldl (fun t d => tset 0 t d (railVolt s 9)) [] } }

/-- PMBUS_POLL: every regulator in turn; `MEASURED` is the sum of the powers read. -/
def pmbusPoll (ps : List PmbPoll) (s : State) : State :=
  let s := spreadVolts (ps.foldl pollOne s)
  { s with pwr := { s.pwr with measuredMw := BitVec.ofNat 32 (s.pwr.vr.foldl (fun a e => a + e.2.poutMw) 0) } }

def execPmbusPoll (polls : List PmbPoll) (s : State) : Host.Outcome State Fault Refusal := ends s (pmbusPoll polls s)

/-- PMBUS_ALERT: the `STATUS_WORD` of the regulator that pulls SMBALERT# is read. -/
def pmbusAlert (i : Nat) (status : Option Nat) (s : State) : State :=
  if !(regulator s i).valid then s
  else
    match status with
    | some st => pmbStatus i st s
    | none => pmbFailed i s

def execPmbusAlert (vr : Nat) (status : Option Nat) (s : State) : Host.Outcome State Fault Refusal :=
  ends s (pmbusAlert vr status s)

/-! ## Temperatures (R36, R414, R516, R517) -/

def dieOfDomain (x : Nat) : Nat :=
  if x < 32 then x / 4 else if x < 64 then 8 + (x - 32) / 2 else if x < 72 then 24 + (x - 64) else 32 + (x - 72) / 2

def sensorDie : Sensor → Nat
  | .domain x => dieOfDomain x
  | .island d => d
  | .dram n => 8 + n

def sensorKey : Sensor → Nat
  | .domain x => x
  | .island d => 128 + d
  | .dram n => 256 + n

def sensorValid : Sensor → Bool
  | .domain x => decide (x < 80)
  | .island d => decide (d < 40)
  | .dram n => decide (n < 16)

def isDram : Sensor → Bool
  | .dram _ => true
  | _ => false

def storeTemp (k : Sensor) (t : BitVec 11) (s : State) : State :=
  match k with
  | .domain x => setDomain x { domain s x with temp := t } s
  | .island d => { s with pwr := { s.pwr with dieTemp := tset 0 s.pwr.dieTemp d t } }
  | .dram n => { s with pwr := { s.pwr with dramTemp := tset 0 s.pwr.dramTemp n t }
                        spl := { s.spl with refresh2 := tset false s.spl.refresh2 n (decide (t.toInt > 340)) } }

/-- The hottest junction sensor of a die, in quarter degrees. -/
def dieHot (s : State) (d : Nat) : Int :=
  ((List.range 80).filter fun x => dieOfDomain x == d).foldl (fun a x => max a (domain s x).temp.toInt)
    (tget 0 s.pwr.dieTemp d).toInt

def dramHot (s : State) (d : Nat) : Int := if 8 ≤ d ∧ d < 24 then (tget 0 s.pwr.dramTemp (d - 8)).toInt else -1024

/-- Units of a throttled die give back what they hold above the limit (R414). -/
def recallThrottled (d : Nat) (s : State) : State :=
  (unitsOfDie d).foldl (fun s u => (recallFrom (fun s g => heldUnit s g.unit)
    (s.pwr.grants.filter fun g => g.unit == u).reverse (heldUnit s u - recalledUnit s u - unitLimit s u) s).2) s

/-- R414: a die above `THROTTLE_C`, or with DRAM at 95 degrees, is throttled until it is 5 degrees below. -/
def throttle (d : Nat) (t : BitVec 11) (s : State) : State :=
  let lim : Int := 4 * (s.pwr.throttleC.toNat : Int)
  let hot := decide (dieHot s d > lim) || decide (dramHot s d ≥ 380)
  let cool := decide (dieHot s d ≤ lim - 20) && decide (dramHot s d ≤ 360)
  let was := tget false s.pwr.throttled d
  if hot && !was then
    let s := { s with pwr := { s.pwr with throttled := tset false s.pwr.throttled d true, throttleSeen := true } }
    recallThrottled d (record { mkRecord s treadle 0x0603 with info0 := d, info1 := t.toNat } s)
  else if was && cool then { s with pwr := { s.pwr with throttled := tset false s.pwr.throttled d false } }
  else s

/-- R517: THERMTRIP_N asserted, VR_EN low, every die but 38 and 39 in reset, and `FRM.TRIP`, which keeps the first trip. No
start follows (R515). -/
def trip (k : Sensor) (t : BitVec 11) (s : State) : State :=
  if !s.pins.thermtripN then s
  else
    let s := cxlDown 1 (cxlDown 0 s)
    let first := !s.pins.tripped
    setPresent (s.weft.diePresent &&& 0xC000000000) { s with
      pins := { s.pins with
        thermtripN := false, vrEn := false, avddGood := false, vddPlGood := false, tripped := true
        tripDie := if first then BitVec.ofNat 6 (sensorDie k) else s.pins.tripDie
        tripDram := if first then isDram k else s.pins.tripDram
        tripTemp := if first then t else s.pins.tripTemp }
      fw := { s.fw with ready := false, start := none, restart := none, pkgReset := none } }

/-- TEMPERATURE_SAMPLE: a sensor is read, in quarter degrees. -/
def temperature (k : Sensor) (t : BitVec 11) (s : State) : State :=
  if !sensorValid k || !s.pins.porN then s
  else
    let above := decide (t.toInt ≥ (if isDram k then 420 else 460))
    let n := if above then min 2 (tget 0 s.pins.tripRuns (sensorKey k) + 1) else 0
    let s := storeTemp k t { s with pins := { s.pins with tripRuns := tset 0 s.pins.tripRuns (sensorKey k) n } }
    let s := throttle (sensorDie k) t s
    if n = 2 then trip k t s else s

def execTemperatureSample (sensor : Sensor) (temp : BitVec 11) (s : State) : Host.Outcome State Fault Refusal :=
  ends s (temperature sensor temp s)

/-! ## Power-up and power-down (R28, R513 to R515) -/

/-- VDD_AO_IN_TOLERANCE: the always-on islands leave power-on reset (R28). -/
def execVddAoInTolerance (s : State) : Host.Outcome State Fault Refusal :=
  if s.pins.vddAo then ends s s
  else ends { s with time := powerIslands s.seed } (spend { s with pins := { s.pins with vddAo := true } })

/-- What outlasts POR_N and the loss of power: flash and fuses. -/
def keptFw (f : FwState) : FwState :=
  { minSvnRaised := f.minSvnRaised, bank := f.bank, selected := f.selected, activated := f.activated }

/-- POR_N goes low: everything is cleared but `FRM.TRIP` (R514, R515). -/
def porAssert (s : State) : State where
  time := s.time
  fw := keptFw s.fw
  pins := { vddAo := s.pins.vddAo, perst0N := s.pins.perst0N, perst1N := s.pins.perst1N, tripped := s.pins.tripped,
            tripDie := s.pins.tripDie, tripDram := s.pins.tripDram, tripTemp := s.pins.tripTemp }
  out := s.out
  seed := s.seed
  pending := s.pending

def execPorNAssert (s : State) : Host.Outcome State Fault Refusal := ends s (if s.pins.porN then porAssert s else s)

/-- POR_N_RELEASE: the straps are sampled, both counts of failed starts cleared, and a cold start begins (R429, R435, R513). -/
def porRelease (straps : Nat) (s : State) : State :=
  if s.pins.porN || !s.pins.vddAo then s
  else beginStart false { s with
    pins := { s.pins with porN := true, straps := BitVec.ofNat 4 straps }
    pwr := { s.pwr with coolingB := bit straps 0 }
    fw := { s.fw with warmFails := 0, coldFails := 0 } }

def execPorNRelease (straps : Nat) (s : State) : Host.Outcome State Fault Refusal := ends s (porRelease straps s)

/-- VDD_AO_LOSS: the islands stop and `FRM.TRIP` is cleared (R514). -/
def execVddAoLoss (s : State) : Host.Outcome State Fault Refusal :=
  ends { s with time := {} }
    { out := s.out, seed := s.seed, fw := keptFw s.fw, pins := { perst0N := s.pins.perst0N, perst1N := s.pins.perst1N } }

/-! ## SPDM and CDAT (R441) -/

/-- Requests the responder supports: their codes. -/
def spdmSupported (code : Nat) : Bool := [0x84, 0xE1, 0xE3, 0x81, 0x82, 0x83, 0xE0].contains code

/-- An SPDM `ERROR` response: UnsupportedRequest names the request. -/
def spdmError (code info : Nat) : List Byte := [0x12, 0x7F, BitVec.ofNat 8 code, BitVec.ofNat 8 info]

/-- The rest of a response, whose bytes the manual leaves to the standards and to the identity of the device. -/
def freeAnswer (k : Nat) : List Byte := (List.range (Config.freeNat k % 4096)).map (Config.freeByte k)

/-- The answer to a request: VERSION reports 1.2; the other supported requests are answered with their response code. -/
def spdmAnswer (k : Nat) (req : List Byte) : List Byte :=
  let code := byteAt req 1
  if code = 0x84 then [0x10, 0x04, 0, 0, 0, 1, 0x00, 0x12]
  else if spdmSupported code then [0x12, BitVec.ofNat 8 (code - 0x80)] ++ freeAnswer k
  else spdmError 0x07 code

/-- SPDM_REQUEST on the physical function of a port, or a CDAT request. -/
def spdmRequest (x : Nat) (cdat : Bool) (req : List Byte) (s : State) : State :=
  if x ≥ 2 ∨ !(hport s x).up then s
  else
    let answer := if cdat then freeAnswer s.seed else if s.fw.start.isSome then spdmError 0x03 0 else spdmAnswer s.seed req
    emit (.spdm x answer) (spend s)

def execSpdmRequest (port : Nat) (cdat : Bool) (request : List Byte) (s : State) : Host.Outcome State Fault Refusal :=
  ends s (spdmRequest port cdat request s)

end Sys2Proof.Machine
end

