-- ==== Sys2Proof/Machine/Parts.lean ====
section
/-! DEFINITION. Partitions: reassigning resources (R398 to R402), freezing, thawing and clearing (R403 to R405). -/

namespace Sys2Proof.Machine

/-! ## RES_SET (R400, R401) -/

def descResSet : OpDesc := { code := 0x0801, bytes := 8, used := [(16, 0, 53)], infra := true }

/-- A `RES_SET` as its parameters say it. -/
structure ResArgs where
  kind : Nat
  part : Nat
  op : Nat
  first : Nat
  count : Nat
  deriving DecidableEq, Repr

def resArgs (c : Cmd) : ResArgs where
  kind := param c 16 8 0 4
  part := param c 16 8 4 6
  op := param c 16 8 10 2
  first := param c 16 8 12 20
  count := param c 16 8 32 21

/-- `OP` and `KIND` do not match, or `KIND` is reserved. -/
def resPairBad (a : ResArgs) : Bool :=
  if a.kind < 6 then a.op != 0 else if a.kind < 10 then a.op != 1 else if a.kind < 12 then decide (a.op < 2) else true

/-- The partition that holds an accelerator port or Bobbin; none for an UNASSIGNED Bobbin. -/
def itemHolder (s : State) (kind i : Nat) : Option Nat :=
  if kind = 10 then some (aport s i).part.toNat
  else
    let b := bobbinOf s i
    if b.state = .unassigned || b.leaving then none else some b.part

def itemList (a : ResArgs) : List Nat := (List.range a.count).map (a.first + ·)

/-- Row 1 of R401: partition 0, an item beyond the last one, or a removed item the partition does not hold. -/
def resBounds (s : State) (a : ResArgs) : Bool :=
  a.part == 0 || decide (a.first + a.count > kindTotal (active s) a.kind) ||
    (a.kind == 2 && a.count != 0 && a.first == 0) ||
    (a.op == 3 && (itemList a).any fun i => itemHolder s a.kind i != some a.part)

/-- Row 2: a range that overlaps another partition's, or an added item another partition holds. -/
def resTaken (s : State) (a : ResArgs) : Bool :=
  match a.op with
  | 0 => (List.range 64).any fun p =>
      let r := resOf s a.kind p
      p != 0 && p != a.part && overlaps a.first a.count r.first r.count
  | 2 => (itemList a).any fun i =>
      if a.kind = 10 then itemHolder s 10 i != some 0 else (bobbinOf s i).state != .unassigned
  | _ => false

/-- Row 3: the counts would exceed the total. -/
def resFull (s : State) (a : ResArgs) : Bool :=
  a.op == 1 && decide (othersCount s a.kind - (resOf s a.kind a.part).count + a.count > kindTotal (active s) a.kind)

/-- What a partition uses of an amount: receive-pool entries, reserved pool slots, image store units. -/
def amountUsed (s : State) (kind p : Nat) : Nat :=
  match kind with
  | 6 => rqUsed s p
  | 7 => reservedOf s p
  | 8 => imagesUsed s p
  | _ => 0

/-- A range item may not be given up: it is in use (R398). -/
def itemInUse (s : State) (kind i : Nat) : Bool :=
  match kind with
  | 0 => (skein s i).created
  | 1 => (qpOf s i).created
  | 2 => (region s i).valid
  | 3 => (commOf s i).state != .free
  | 4 => (seqOf s i).valid
  | _ => (keySlot s i).state != .empty

/-- A port with a context bound or that a communicator names, or a Bobbin that is not IDLE. -/
def heldItemInUse (s : State) (kind i : Nat) : Bool :=
  if kind = 10 then
    (aport s i).ctx != 0 || s.red.comm.any fun c => c.2.state != .free && c.2.accel.getLsbD i
  else (bobbinOf s i).state != .idle

/-- Row 4: what leaves the partition or partition 0 does not meet its condition. -/
def resLeaving (s : State) (a : ResArgs) : Bool :=
  let old := resOf s a.kind a.part
  let new : ResRange := ⟨a.first, a.count⟩
  match a.op with
  | 0 =>
    let used := ((List.range old.count).map (old.first + ·)).filter (fun i => !inRange new i) ++
      (itemList a).filter fun i => !inRange old i
    used.any (itemInUse s a.kind)
  | 1 => a.kind != 9 && (decide (a.count < amountUsed s a.kind a.part) ||
      decide (amountOf s a.kind 0 + old.count - a.count < amountUsed s a.kind 0))
  | 2 => a.kind == 10 && (itemList a).any (heldItemInUse s 10)
  | _ => (itemList a).any (heldItemInUse s a.kind)

def setRes (kind p : Nat) (r : ResRange) (s : State) : State :=
  { s with parts := { s.parts with res := tset {} s.parts.res (kind * 64 + p) (if r.count = 0 then {} else r) } }

/-- The new assignment, in one event. -/
def moveRes (a : ResArgs) (s : State) : State :=
  match a.op with
  | 0 | 1 => setRes a.kind a.part ⟨if a.op = 0 then a.first else 0, a.count⟩ s
  | _ =>
    let give := a.op == 2
    (itemList a).foldl (fun s i =>
      if a.kind = 10 then modAport i (fun v => { v with part := if give then BitVec.ofNat 6 a.part else 0 }) s
      else modBobbin i (fun b => { b with
        state := if give then .idle else .unassigned
        part := if give then a.part else 0 }) s) s

def execResSet (c : Cmd) (s : State) : Host.Outcome State Fault Refusal :=
  let a := resArgs c
  runCmd descResSet c
    [(resPairBad a, .opcode), (resBounds s a, .bounds), (resTaken s a, .busy), (resFull s a, .poolFull),
     (resLeaving s a, .busy)] s fun s =>
      partEvent a.part a.kind 0 a.count (complete c .ok [] (tableOwner s) (moveRes a s))

/-! ## Freezing (R403, R404) -/

def cmdPart (c : Cmd) : Nat := param c 16 1 0 6

def descPartFreeze : OpDesc := { code := 0x0810, bytes := 6, used := [(16, 0, 6), (20, 0, 16)], infra := true }

def partCheck (s : State) (c : Cmd) (want : PartState) : List (Bool × Status) :=
  [(cmdPart c == 0, .bounds), (partState s (cmdPart c) != want, .busy)]

/-- Launches not granted are withdrawn. -/
def withdrawLaunches (p : Nat) (s : State) : State :=
  let w (l : Launch) : Launch := if l.part = p ∧ l.state = .queued then { l with state := .withdrawn } else l
  { s with bob := { s.bob with launch := s.bob.launch.map w } }

def execPartFreeze (c : Cmd) (s : State) : Host.Outcome State Fault Refusal :=
  let p := cmdPart c
  let tmo := param c 20 2 0 16
  let own := tableOwner s
  runCmd descPartFreeze c ([(p == 0, .bounds), (tmo == 0, .lenRange), (partState s p != .opened, .busy)]) s fun s =>
    let f : Freeze := { part := p, tmoMs := tmo, started := unitTime s own, cmd := cmdRef c }
    freezeCheck (withdrawLaunches p (setPart p .freezing
      { s with parts := { s.parts with freezes := s.parts.freezes ++ [f] } }))

/-- FREEZE_TIMEOUT: `TMO_MS` has passed; what is outstanding completes with ABORTED. -/
def freezeTimeout (p : Nat) (s : State) : State :=
  match s.parts.freezes.find? fun f => f.part == p with
  | none => s
  | some f =>
    if (unitTime s (tableOwner s) - f.started).toNat < f.tmoMs * 1000000 then s
    else
      let keep := idleRefs s
      let (n, s) := abortAll (fun r => r.part == p && !keep.contains r) false s
      frozen f n { s with parts := { s.parts with freezeAbort := tset false s.parts.freezeAbort p true } }

def execFreezeTimeout (part : Nat) (s : State) : Host.Outcome State Fault Refusal := ends s (freezeTimeout part s)

def descPartThaw : OpDesc := { code := 0x0813, bytes := 1, used := [(16, 0, 6)], infra := true }

/-- A launch of `ATTN_DECODE` that an image restored takes its place in the queue (R407): its work list, which the image does not
hold, is read and checked as at step 1 of R294, before the partition's commands run again (DEDUCED). -/
def requeueLaunch (s : State) (l : Launch) : State :=
  let q := { l with state := .queued }
  if !((launchImage s l).resident && l.image == 1 && l.work == []) then setLaunch q s
  else
    match workList q s with
    | (s, .error st) => endLaunch { q with fault := some (st, none, 0) } s
    | (s, .ok ws) => ws.foldl addSeqRef (setLaunch { q with work := ws } s)

/-- PART_THAW: the partition is OPEN, and its withdrawn launches are queued again. -/
def execPartThaw (c : Cmd) (s : State) : Host.Outcome State Fault Refusal :=
  let p := cmdPart c
  runCmd descPartThaw c (partCheck s c .frozen) s fun s =>
    let s := (s.bob.launch.filter fun l => l.part == p && l.state == .withdrawn).foldl requeueLaunch (setPart p .opened s)
    partEvent p 0 2 0 (complete c .ok [] (tableOwner s) s)

/-! ## PART_CLEAR (R405) -/

/-- Numbers in rising order as runs of first and count. -/
def runs : List Nat → List (Nat × Nat)
  | [] => []
  | n :: r =>
    match runs r with
    | (f, k) :: t => if f = n + 1 then (n, k + 1) :: t else (n, 1) :: (f, k) :: t
    | [] => [(n, 1)]

/-- Granules OWNED by a partition, and its contexts. -/
def partGranules (s : State) (p : Nat) : List Nat :=
  (s.spl.got.filter fun e => gotState e.2.toNat == gotOwned && gotOwner e.2.toNat == p).map (·.1)

def partContexts (s : State) (p : Nat) : List Nat := (s.hdl.ctxPart.filter fun e => e.2.toNat == p).map (·.1)

/-- A table without the entries of the partition's range of a kind. -/
def dropRange {α : Type} (s : State) (kind p : Nat) (t : Tab α) : Tab α := t.filter fun e => itemOwner s kind e.1 != p

/-- The partition's skeins, queues and outstanding commands go; of `JCQ.ADMIN[p]` the ST bit stays (R4). -/
def clearQueues (p : Nat) (s : State) : State :=
  let mine (r : CmdRef) : Bool := r.part == p
  let s := abandon mine true s
  let skeins := dropRange s 0 p s.jcq.skein
  { s with jcq := { s.jcq with
    skein := skeins
    admin := tset {} s.jcq.admin p { eqOverflow := (adminQ s p).eqOverflow }
    live := s.jcq.live.filter fun l => !mine l.ref
    done := s.jcq.done.filter fun d => !mine d.ref } }

/-- Queue pairs with what the engines and slices hold of them. -/
def clearQps (p : Nat) (s : State) : State :=
  let gone (q : Nat) : Bool := itemOwner s 1 q == p
  let qps := (s.sht.qp.map (·.1)).filter gone
  let s := qps.foldl (fun s q => forgetFaults q (freeAtomBlock q s)) s
  let cache (e : Nat × List Nat) : Nat × List Nat := (e.1, e.2.filter fun q => !gone q)
  { s with sht := { s.sht with
    qp := s.sht.qp.filter (fun e => !gone e.1)
    ops := s.sht.ops.filter (fun o => !gone o.qp)
    cache := (s.sht.cache.map cache).filter (fun e => !e.2.isEmpty)
    fetching := s.sht.fetching.filter (!gone ·)
    stay := s.sht.stay.filter (fun e => !gone e.1)
    wayWait := s.sht.wayWait.filter (!gone ·)
    parked := s.sht.parked.filter (fun k => !gone k.qp) } }

/-- Region entries are invalid, with the next generation; contexts are disabled. -/
def clearHeddle (p : Nat) (s : State) : State :=
  let rg (e : Nat × Region) : Nat × Region :=
    if itemOwner s 2 e.1 = p ∧ e.2.valid then (e.1, { gen := e.2.gen + 1 }) else e
  let cs := partContexts s p
  let ctx := cs.foldl (fun t c => tmod {} t c fun (d : CtxDesc) => { epoch := d.epoch }) s.hdl.ctx
  let leaf (e : Nat × List CachedLeaf) : Nat × List CachedLeaf := (e.1, e.2.filter fun l => !cs.contains l.ctx)
  let ptr (e : Nat × List CachedPtr) : Nat × List CachedPtr := (e.1, e.2.filter fun l => !cs.contains l.ctx)
  { s with hdl := { s.hdl with
    region := (s.hdl.region.map rg).filter (fun e => e.2 != {})
    regionCache := (s.hdl.regionCache.map fun e => (e.1, e.2.filter fun x => itemOwner s 2 x.1 != p)).filter (fun e => !e.2.isEmpty)
    lastRegion := tset 0 s.hdl.lastRegion p 0
    ctx := ctx
    leaves := (s.hdl.leaves.map leaf).filter (fun e => !e.2.isEmpty)
    ptrs := (s.hdl.ptrs.map ptr).filter (fun e => !e.2.isEmpty)
    walks := s.hdl.walks.filter (fun w => !cs.contains w.req.ctx)
    pend := s.hdl.pend.filter (fun f => f.part != p)
    pfq := tset {} s.hdl.pfq p { overflowSeen := (pfqOf s p).overflowSeen }
    held := s.hdl.held.filter (fun x => x.1 != p)
    delivered := s.hdl.delivered.filter (fun t => !cs.contains t.req.ctx) } }

def clearReed (p : Nat) (s : State) : State :=
  let gone (k : Nat) : Bool := itemOwner s 3 k == p
  { s with red := { s.red with
    comm := s.red.comm.filter (fun e => !gone e.1)
    slots := s.red.slots.filter (fun x => !gone x.comm)
    arrived := s.red.arrived.filter (fun x => !gone x.comm) } }

/-- Images, launches and sequences go; the partition's Bobbins are UNASSIGNED, those that are not IDLE once they are zeroed. A launch
that still stops keeps its Bobbins until then; its command has completed. -/
def clearBobbins (p : Nat) (s : State) : State :=
  let im (e : Nat × Image) : Nat × Image :=
    if e.2.loaded && !e.2.resident && e.2.part == p then (e.1, { gen := e.2.gen + 1 }) else e
  let freed (e : Nat × Bobbin) : Nat × Bobbin :=
    if e.2.part != p || e.2.state == .unassigned then e
    else if e.2.state = .idle then (e.1, { e.2 with state := .unassigned, part := 0 })
    else (e.1, { e.2 with leaving := true })
  { s with bob := { s.bob with
    image := (s.bob.image.map im).filter (fun e => e.2 != {})
    launch := s.bob.launch.filter (fun l => l.part != p || !l.members.isEmpty)
    seq := dropRange s 4 p s.bob.seq
    bobbin := (s.bob.bobbin.map freed).filter (fun e => e.2 != {}) } }

/-- Ports, groups, transmit maps, windows and keys return to partition 0. -/
def clearPorts (p : Nat) (s : State) : State :=
  let grp (e : Nat × EthGroup) : Nat × EthGroup :=
    if groupPart e.2 = p then (e.1, { e.2 with w0 := BitVec.ofNat 64 (e.2.w0.toNat - 16 * p) }) else e
  let port (e : Nat × EthPort) : Nat × EthPort :=
    (e.1, { e.2 with group := (e.2.group.map grp).filter (fun x => x.2 != {}), txmap := tset 0 (tset 0 e.2.txmap (2 * p) 0) (2 * p + 1) 0 })
  let ap (e : Nat × APort) : Nat × APort := if e.2.part.toNat = p then (e.1, { e.2 with part := 0, ctx := 0 }) else e
  { s with
    eth := { s.eth with port := (s.eth.port.map port).filter fun e => e.2 != {} }
    lnk := { s.lnk with
      aport := (s.lnk.aport.map ap).filter (fun e => e.2 != {})
      peerWin := s.lnk.peerWin.filter (fun e => e.2.part.toNat != p)
      hostWin := s.lnk.hostWin.filter (fun e => e.1 / 8 != p) }
    cip := { s.cip with slot := dropRange s 5 p s.cip.slot } }

def clearCounters (p : Nat) (s : State) : State :=
  { s with cnt := { s.cnt with part := s.cnt.part.filter fun e => e.1 / 8 != p } }

def clearRes (p : Nat) (s : State) : State :=
  { s with parts := { s.parts with res := s.parts.res.filter fun e => e.1 % 64 != p } }

def descPartClear : OpDesc := { code := 0x0814, bytes := 1, used := [(16, 0, 6)], infra := true }

/-- PART_CLEAR: objects go, resources return, granules are released and contexts return to partition 0. -/
def clearPart (p : Nat) (cmd : CmdRef) (s : State) : State :=
  let gs := runs (partGranules s p)
  let cs := runs (partContexts s p)
  let s := clearCounters p (clearRes p (clearPorts p (clearBobbins p (clearReed p (clearHeddle p (clearQps p
    (clearQueues p (setPart p .clearing s))))))))
  let s := cs.foldl (fun s r => sendTable false r.1 r.2 0 (.clear p) s) s
  let s := gs.foldl (fun s r => startRelease r.1 r.2 none (some p) s) s
  clearCheck p { s with parts := { s.parts with clears := s.parts.clears ++ [(p, cmd)] } }

def execPartClear (c : Cmd) (s : State) : Host.Outcome State Fault Refusal :=
  runCmd descPartClear c (partCheck s c .frozen) s (clearPart (cmdPart c) (cmdRef c))

end Sys2Proof.Machine
end

