-- ==== Sys2Proof/Machine/SaveImage.lean ====
section
/-! DEFINITION. Save images of partitions (R405 to R407). -/

namespace Sys2Proof.Machine

/-! ## Records of the sections (R406) -/

/-- The 16 bytes of `JCQ.SKEIN_STATE[g]`. -/
def skeinState (s : State) (g : Nat) : List Byte :=
  let k := skein s g
  leBytes 4 (b2n k.created + 2 * b2n k.enable + 4 * b2n (skeinIdle k) + 8 * b2n k.error + 16 * itemOwner s 0 g +
      2 ^ 16 * k.head) ++
    leBytes 4 (k.tail + 2 ^ 16 * k.outstanding) ++ leBytes 4 (k.weight.toNat + 2 ^ 8 * k.burstM1.toNat) ++ leBytes 4 0

/-- A skein: its state, then SKEIN_CREATE's parameters. -/
def skeinRecord (s : State) (p g : Nat) : List Byte :=
  let k := skein s g
  if !k.created then List.replicate 48 0
  else
    skeinState s g ++
      leBytes 8 (toLocal s 0 p g + 2 ^ 16 * k.ring.bufCtx.toNat + 2 ^ 32 * k.ring.log2 + 2 ^ 37 * k.cq.ring.log2 +
        2 ^ 42 * k.weight.toNat + 2 ^ 50 * k.burstM1.toNat + 2 ^ 56 * b2n k.enable) ++
      leBytes 8 k.ring.pa.toNat ++ leBytes 8 k.cq.ring.pa.toNat ++ leBytes 4 k.cq.vector.toNat ++ leBytes 4 0

/-- A queue's tail in the admin record: the next entry, with its phase in bit 16. -/
def outTail (q : OutQueue) : Nat := q.next + 2 ^ 16 * b2n q.phase

def adminRecord (s : State) (p : Nat) : List Byte :=
  let a := adminQ s p
  leBytes 8 (adminRead s p 0x00) ++ leBytes 8 (adminRead s p 0x08) ++ leBytes 8 (adminRead s p 0x10) ++
    leBytes 4 (adminRead s p 0x18) ++ leBytes 4 (adminRead s p 0x1C) ++ leBytes 4 (adminRead s p 0x20) ++ leBytes 4 0 ++
    leBytes 4 a.sk.head ++ leBytes 4 a.sk.tail ++ leBytes 4 a.sk.cq.head ++ leBytes 4 (outTail a.sk.cq) ++
    leBytes 4 a.eq.head ++ leBytes 4 (outTail a.eq)

/-- A saved context: congestion state at its ARMED values (R195, R406). -/
def qpRecord (s : State) (q : Nat) : List Byte :=
  if (qpOf s q).created then qpContext (setQp q (freshRate s q (qpOf s q)) s) q else List.replicate 256 0

/-- The number of a skein in its partition; 0xFFFF names the admin skein. -/
def skeinCode (s : State) (p : Nat) : SkeinRef → Nat
  | .ord g => toLocal s 0 p g
  | .admin _ => 0xFFFF

/-- A posted RECV: a 32-byte pool entry, its queue pair and its tag. -/
def recvRecord (s : State) (p q : Nat) (r : Recv) : List Byte :=
  leBytes 4 r.lkey ++ leBytes 4 r.len ++ leBytes 8 r.loff ++ leBytes 2 (skeinCode s p r.cmd.skein) ++
    leBytes 2 r.cmd.sqHead ++ leBytes 2 (b2n r.cmd.silent) ++ leBytes 10 0 ++ leBytes 4 (toLocal s 1 p q) ++
    leBytes 4 r.cmd.tag

/-- A region entry (R83). -/
def regionBytes (r : Region) : List Byte :=
  leBytes 4 (r.gen.toNat + 2 ^ 8 * b2n r.valid + 2 ^ 9 * b2n r.rRead + 2 ^ 10 * b2n r.rWrite + 2 ^ 11 * b2n r.rAtomic +
      2 ^ 12 * b2n r.rReduce + 2 ^ 13 * b2n r.lWrite + 2 ^ 16 * r.part.toNat) ++
    leBytes 4 r.ctx.toNat ++ leBytes 8 r.baseVa ++ leBytes 8 r.size ++ leBytes 4 r.pdom.toNat ++ leBytes 4 0

/-- A context descriptor (R67). -/
def ctxBytes (d : CtxDesc) : List Byte :=
  leBytes 8 (d.root.toNat / 4096 * 4096 + b2n d.enable + 2 * b2n d.odp + 4 * d.l1Log2.toNat) ++ leBytes 4 d.epoch.toNat ++
    leBytes 4 0

/-- `RED.COMM[k]`. -/
def commBytes (s : State) (k : Nat) : List Byte :=
  let v := commOf s k
  leBytes 4 (commStCode v.state + 4 * v.part + 2 ^ 8 * v.ops.length + 2 ^ 16 * v.rank) ++ leBytes 4 v.membersM1 ++
    leBytes 4 v.epoch.toNat ++ leBytes 4 v.next.toNat ++ leBytes 4 v.base.toNat ++
    leBytes 4 (v.lostRank.toNat + 2 ^ 16 * v.lostAccel.toNat + 2 ^ 24 * b2n v.lostValid + 2 ^ 25 * b2n v.relayed) ++
    leBytes 8 v.commId.toNat

/-- A communicator: its registers, then COMM_CREATE's parameters (R204). -/
def commRecord (s : State) (k : Nat) : List Byte :=
  let v := commOf s k
  if v.state = .free then List.replicate 96 0
  else
    commBytes s k ++ leBytes 8 v.commId.toNat ++ leBytes 4 v.epoch.toNat ++ leBytes 2 v.rank ++ leBytes 2 v.membersM1 ++
      leBytes 4 (v.reserved.foldl (fun m e => m + 2 ^ e) 0) ++ leBytes 1 v.accel.toNat ++
      leBytes 1 (v.pickLog2 + 2 ^ 5 * b2n v.stochastic) ++ leBytes 2 v.shareCap ++ leBytes 4 v.contributors ++
      leBytes 2 v.ctx ++ leBytes 2 0 ++ leBytes 8 v.peersVa ++ leBytes 8 v.seed.toNat ++ leBytes 8 v.spillVa ++
      leBytes 4 v.spillLog2 ++ leBytes 4 v.pushKey

/-- A sequence entry (R303). -/
def seqBytes (s : State) (q : Nat) : List Byte :=
  let e := seqOf s q
  leBytes 16 e.entry.toNat ++ leBytes 2 (b2n e.valid + 2 * (if e.valid then itemOwner s 4 q else 0)) ++
    leBytes 2 e.refs.toNat ++ leBytes 12 0

/-- A key slot's state without its key (R386). -/
def slotRecord (s : State) (n : Nat) : List Byte :=
  let k := keySlot s n
  leBytes 4 (slotCode k.state + 4 * itemOwner s 5 n) ++ leBytes 4 k.fixed.toNat ++ leBytes 4 k.peerFixed.toNat ++
    leBytes 4 k.refs.toNat ++ leBytes 8 k.counter.toNat ++ leBytes 8 k.limit.toNat

def pfqRecord (s : State) (p : Nat) : List Byte :=
  let q := pfqOf s p
  leBytes 8 (q.bufCtx.toNat + 2 ^ 16 * q.log2.toNat) ++ leBytes 8 q.bufPa.toNat ++ leBytes 4 q.nextSeq.toNat

/-- The 64 KiB units of an image, each after its handle and unit index. -/
def imageRecords (i : Nat) (m : Image) : List Byte :=
  (List.range (imageUnits m)).flatMap fun u =>
    leBytes 4 (i + 1024 * m.gen.toNat) ++ leBytes 4 u ++ leBytes 8 0 ++ slice (m.bytes.drop (65536 * u)) 0 65536

/-! ## Sections and header -/

/-- A resource of the manifest in the layout of R400. -/
def resRecord (kind first count : Nat) : List Byte := leBytes 8 (kind + 2 ^ 12 * first + 2 ^ 32 * count) ++ leBytes 8 0

def itemsOf (s : State) (p kind : Nat) : List Nat :=
  (List.range (kindTotal 0 kind)).filter fun i => itemHolder s kind i == some p

/-- The resources of a partition: one record for a range or amount, one for each run of items. -/
def resRecords (s : State) (p : Nat) : List (List Byte) :=
  ((List.range 10).map fun k => resRecord k (resOf s k p).first (resOf s k p).count) ++
    [10, 11].flatMap fun k => (runs (itemsOf s p k)).map fun r => resRecord k r.1 r.2

def idList (l : List Nat) : List Byte := leBytes 4 l.length ++ l.flatMap (leBytes 4)

def rangeItems (s : State) (kind p : Nat) : List Nat :=
  let r := resOf s kind p
  (List.range r.count).map (r.first + ·)

/-- The sections of a partition: type, records and bytes. -/
def sections (s : State) (p : Nat) (memory : Bool) : List (Nat × Nat × List Byte) :=
  let per (t kind : Nat) (f : Nat → List Byte) : Nat × Nat × List Byte :=
    (t, (rangeItems s kind p).length, (rangeItems s kind p).flatMap f)
  let recvs := (rangeItems s 1 p).flatMap fun q => (qpOf s q).recvs.map (recvRecord s p q)
  let ctxs := partContexts s p
  let imgs := s.bob.image.filter fun e => e.2.loaded && !e.2.resident && e.2.part == p
  let withdrawn := s.bob.launch.filter fun l => l.part == p && l.state == .withdrawn
  let gs := partGranules s p
  [(1, (resRecords s p).length, (resRecords s p).flatten ++ idList gs ++ idList ctxs),
   per 2 0 (skeinRecord s p),
   (3, 1, adminRecord s p),
   per 4 1 (qpRecord s),
   (5, recvs.length, recvs.flatten),
   per 6 2 (fun i => regionBytes (region s i)),
   (7, ctxs.length, ctxs.flatMap fun c => ctxBytes (ctxDesc s c) ++ leBytes 4 c ++ leBytes 12 0),
   per 8 3 (commRecord s),
   per 9 4 (seqBytes s),
   per 10 5 (slotRecord s),
   (11, 1, pfqRecord s p),
   (12, imgs.foldl (fun n e => n + imageUnits e.2) 0, imgs.flatMap fun e => imageRecords e.1 e.2),
   (13, withdrawn.length, withdrawn.flatMap (·.packet))] ++
  if memory then [(14, gs.length, gs.flatMap fun g => memRead s.spl.mem (g * 2 ^ 28) (2 ^ 28))] else []

/-- How the reads of a granule's lines, or whole-line writes, are answered, whatever context asks (R46, R48, R425, R482): a save
reads the memory, and a restore writes it. -/
def granuleStatus (s : State) (write : Bool) (g : Nat) : Status :=
  if (List.range 16).any (fun n => !stackUp s n) then .poison
  else if (List.range 16).any (fun n => inReset s (controller n)) then .aborted
  else if (List.range 16).any (fun n => islandStalled s (18 + n)) then .crossStall
  else if !write && s.spl.poison.any (fun e => e.2 && granuleOf (64 * e.1) == g) then .poison
  else .ok

/-- The first granule whose memory cannot be moved gives the command its status. -/
def memoryBad (s : State) (write : Bool) (gs : List Nat) : Option Status :=
  (gs.map (granuleStatus s write)).find? fun st => st != .ok

/-- The image: header, descriptors, and sections with their CRCs. -/
def buildImage (p : Nat) (memory : Bool) (secs : List (Nat × Nat × List Byte)) : List Byte :=
  let base := 64 + 16 * secs.length
  let total := secs.foldl (fun n x => n + x.2.2.length + 4) base
  let hdr := leBytes 4 0x54524150 ++ leBytes 2 1 ++ leBytes 1 p ++ leBytes 1 (b2n memory) ++ leBytes 2 secs.length ++
    leBytes 6 0 ++ leBytes 8 total ++ leBytes 8 (Config.serial % 2 ^ 34) ++ leBytes 28 0
  let (_, descs) := secs.foldl (fun (a : Nat × List Byte) x =>
    (a.1 + x.2.2.length + 4,
     a.2 ++ leBytes 2 x.1 ++ leBytes 4 x.2.1 ++ leBytes 4 a.1 ++ leBytes 4 x.2.2.length ++ leBytes 2 0)) (base, [])
  hdr ++ leBytes 4 (crc32c hdr) ++ descs ++ secs.flatMap fun x => x.2.2 ++ leBytes 4 (crc32c x.2.2)

def descPartSave : OpDesc :=
  { code := 0x0811, bytes := 16, used := [(16, 0, 6), (17, 0, 1), (18, 0, 16), (24, 0, 64)], data := true, infra := true }

/-- PART_SAVE writes the image of a FROZEN partition. -/
def execPartSave (c : Cmd) (s : State) : Host.Outcome State Fault Refusal :=
  let p := cmdPart c
  let u := tableOwner s
  let memory := param c 17 1 0 1 == 1
  let img := buildImage p memory (sections s p memory)
  let words := [bits img.length 0 32, bits img.length 32 32]
  runCmd descPartSave c (partCheck s c .frozen) s fun s =>
    if cmdLength c < img.length then complete c .bounds words u s
    else
    match if memory then memoryBad s false (partGranules s p) else none with
    | some st => complete c st [] u s
    | none =>
      match bufWrite u c.part (param c 18 2 0 16) (fieldLE c.packet 24 8) img s with
      | (s, .ok) => partEvent p 0 3 0 (complete c .ok words u s)
      | (s, st) => complete c st [] u s

/-! ## Reading an image -/

/-- A section of an image: type, records, offset, length. -/
structure ImgSec where
  typ : Nat
  n : Nat
  off : Nat
  len : Nat
  deriving DecidableEq, Repr

def imgSecs (img : List Byte) : List ImgSec :=
  (List.range (fieldLE img 8 2)).map fun i =>
    let o := 64 + 16 * i
    { typ := fieldLE img o 2, n := fieldLE img (o + 2) 4, off := fieldLE img (o + 6) 4, len := fieldLE img (o + 10) 4 }

def secBytes (img : List Byte) (typ : Nat) : List Byte :=
  match (imgSecs img).find? fun x => x.typ == typ with
  | some x => slice (img.drop x.off) 0 x.len
  | none => []

def secCrcOk (img : List Byte) (x : ImgSec) : Bool :=
  decide (x.off + x.len + 4 ≤ img.length) && crc32c ((img.drop x.off).take x.len) == fieldLE img (x.off + x.len) 4

/-- Row 1 of R407. -/
def imgCrcBad (img : List Byte) : Bool :=
  decide (img.length < 64) || fieldLE img 60 4 != crc32c (img.take 60) || (imgSecs img).any fun x => !secCrcOk img x

/-- Row 2. -/
def imgFieldsBad (img : List Byte) : Bool :=
  fieldLE img 0 4 != 0x54524150 || fieldLE img 4 2 != 1 || byteAt img 7 / 2 != 0 || fieldLE img 10 6 != 0 ||
    fieldLE img 32 28 != 0 || (List.range (fieldLE img 8 2)).any fun i => fieldLE img (64 + 16 * i + 14) 2 != 0

/-- Resource records of an image's manifest: kind, first, count. -/
def imgRes (img : List Byte) : List (Nat × ResRange) :=
  let b := secBytes img 1
  let n := (((imgSecs img).find? fun x => x.typ == 1).map (·.n)).getD 0
  (List.range n).map fun i =>
    let w := fieldLE b (16 * i) 8
    (bits w 0 4, ⟨bits w 12 20, bits w 32 21⟩)

def readIds (b : List Byte) (off : Nat) : List Nat := (List.range (fieldLE b off 4)).map fun i => fieldLE b (off + 4 + 4 * i) 4

def imgGranules (img : List Byte) : List Nat := readIds (secBytes img 1) (16 * (imgRes img).length)

def imgContexts (img : List Byte) : List Nat :=
  readIds (secBytes img 1) (16 * (imgRes img).length + 4 + 4 * (imgGranules img).length)

/-- A range or amount of the manifest. -/
def imgRange (img : List Byte) (kind : Nat) : ResRange := (((imgRes img).find? fun x => x.1 == kind).map (·.2)).getD {}

def imgItems (img : List Byte) (kind : Nat) : Nat :=
  ((imgRes img).filter fun x => x.1 == kind).foldl (fun n x => n + x.2.count) 0

/-- Handles and bytes of the saved images: the units of a handle joined, cut to the length its header gives. -/
def imgImages (img : List Byte) : List (Nat × List Byte) :=
  let us := pieces 65552 1024 (secBytes img 12)
  let hs := (us.map fun u => fieldLE u 0 4).dedup
  hs.map fun h =>
    let bs := (us.filter fun u => fieldLE u 0 4 == h).flatMap fun u => slice (u.drop 16) 0 65536
    (h, bs.take (64 + fieldLE bs 8 4 + fieldLE bs 16 4))

/-- Row 3: the partition holds a created object. -/
def holdsObjects (s : State) (p : Nat) : Bool :=
  (s.jcq.skein.any fun e => e.2.created && itemOwner s 0 e.1 == p) ||
    (s.sht.qp.any fun e => e.2.created && itemOwner s 1 e.1 == p) ||
    (s.hdl.region.any fun e => e.2.valid && itemOwner s 2 e.1 == p) ||
    (s.red.comm.any fun e => e.2.state != .free && itemOwner s 3 e.1 == p) ||
    (s.bob.seq.any fun e => e.2.valid && itemOwner s 4 e.1 == p) ||
    (s.cip.slot.any fun e => e.2.state != .empty && itemOwner s 5 e.1 == p) ||
    (s.bob.image.any fun e => e.2.loaded && !e.2.resident && e.2.part == p) ||
    s.bob.launch.any fun l => l.part == p

/-- Row 4: a resource is short, an item with a fixed number is not held, or a saved handle index is loaded. -/
def shortOf (s : State) (p : Nat) (img : List Byte) : Bool :=
  let short (k : Nat) : Bool := decide ((resOf s k p).count < (imgRange img k).count)
  let rg := imgRange img 2
  let mine := resOf s 2 p
  (List.range 10).any short ||
    (rg.count != 0 && (decide (rg.first < mine.first) || decide (mine.first + mine.count < rg.first + rg.count))) ||
    [10, 11].any (fun k => decide ((itemsOf s p k).length < imgItems img k)) ||
    (imgGranules img).any (fun g => !ownedBy s p g) || (imgContexts img).any (fun c => !ownsCtx s p c) ||
    decide (amountOf s 8 p < (imgImages img).foldl (fun n x => n + ceilDiv x.2.length 65536) 0) ||
    (imgImages img).any fun x => (imageAt s (x.1 % 1024)).loaded

/-! ## Restoring -/

/-- Folds over the records of a section, with the number of each. -/
def overRecords (img : List Byte) (typ size : Nat) (f : Nat → List Byte → State → State) (s : State) : State :=
  let rs := pieces size (2 ^ 21) (secBytes img typ)
  rs.zipIdx.foldl (fun s x => f x.2 x.1 s) s

def restoreSkein (p : Nat) (i : Nat) (b : List Byte) (s : State) : State :=
  if !bit (fieldLE b 0 4) 0 then s
  else
    let w := fieldLE b 16 8
    let ring (pa n : Nat) : Ring := { pa := BitVec.ofNat 64 pa, bufCtx := BitVec.ofNat 16 (bits w 16 16), log2 := n }
    setSkein ((resOf s 0 p).first + i)
      { created := true, enable := bit (fieldLE b 0 4) 1, error := bit (fieldLE b 0 4) 3,
        ring := ring (fieldLE b 24 8) (bits w 32 5), head := fieldLE b 2 2, tail := fieldLE b 4 2,
        weight := BitVec.ofNat 8 (bits w 42 8), burstM1 := BitVec.ofNat 6 (bits w 50 6),
        cq := { ring := ring (fieldLE b 32 8) (bits w 37 5), vector := BitVec.ofNat 11 (fieldLE b 40 4) } } s

def restoreOut (ring : Ring) (vector head tail : Nat) : OutQueue :=
  { ring := ring, head := head, next := tail % 65536, phase := bit tail 16, vector := BitVec.ofNat 11 vector }

def restoreAdmin (p : Nat) (b : List Byte) (s : State) : State :=
  let w := fieldLE b 24 4
  let v := fieldLE b 28 4
  let x := fieldLE b 32 4
  let ring (pa n : Nat) : Ring := { pa := BitVec.ofNat 64 pa, bufCtx := BitVec.ofNat 16 (bits w 0 16), log2 := n }
  setAdminQ p
    { sk := { enable := bit v 0, error := bit v 2, ring := ring (fieldLE b 0 8) (bits w 16 4), head := fieldLE b 40 4,
              tail := fieldLE b 44 4,
              cq := restoreOut (ring (fieldLE b 8 8) (bits w 20 4)) (bits v 16 11) (fieldLE b 48 4) (fieldLE b 52 4) }
      eq := restoreOut (ring (fieldLE b 16 8) (bits w 24 4)) (bits x 0 11) (fieldLE b 56 4) (fieldLE b 60 4)
      eqEnable := bit v 3, eqOverflow := bit v 4, lostTypes := BitVec.ofNat 10 (bits x 11 10) } s

/-- A restored queue pair is in INIT with the saved PSNs as its initial ones; its key slot keeps its place in the range; one
whose sub-port is not the partition's is in ERROR (R407). -/
def restoreQp (p : Nat) (img : List Byte) (i : Nat) (b : List Byte) (s : State) : State :=
  if b.all (· == 0) then s
  else
    let old : Qp := { arch := BitVec.ofNat 640 (leNat (b.take 80)) }
    let slot := if qpEnc old then qpSlot old - (imgRange img 5).first + (resOf s 5 p).first else qpSlot old
    let bs := slice b 0 16 ++ slice b 80 4 ++ slice b 84 4 ++ leBytes 2 slot ++ slice b 26 54
    let v : Qp := { created := true, state := .init, arch := BitVec.ofNat 640 (leNat bs) &&& (maskL ||| maskR ||| maskA) }
    let v := if subAssigned s (qpPort v) (qpSub v) p then v else { v with state := .error }
    let s := if qpEnc v then addRef slot s else s
    let q := (resOf s 1 p).first + i
    writeBack (homeDie s q) q (setQp q v s)

def restoreRecv (p : Nat) (_ : Nat) (b : List Byte) (s : State) : State :=
  let q := (resOf s 1 p).first + fieldLE b 32 4
  let k := fieldLE b 16 2
  let sk : SkeinRef := if k = 0xFFFF then .admin p else .ord ((resOf s 0 p).first + k)
  let cmd : CmdRef := { skein := sk, part := p, sqHead := fieldLE b 18 2, tag := fieldLE b 36 4, opcode := 0x0313,
                        silent := bit (fieldLE b 20 2) 0 }
  let (cmd, s) := liveRef cmd s
  let r : Recv := { cmd := cmd, lkey := fieldLE b 0 4, len := fieldLE b 4 4, loff := fieldLE b 8 8 }
  let x := skeinOf s sk
  let s := putSkein sk { x with outstanding := x.outstanding + 1, cq := { x.cq with reserved := x.cq.reserved + 1 } } s
  modQp q (fun v => { v with recvs := v.recvs ++ [r] }) s

def readRegion (p : Nat) (b : List Byte) : Region :=
  let w := fieldLE b 0 4
  { gen := BitVec.ofNat 8 w, valid := bit w 8, rRead := bit w 9, rWrite := bit w 10, rAtomic := bit w 11,
    rReduce := bit w 12, lWrite := bit w 13, part := if bit w 8 then BitVec.ofNat 6 p else 0,
    ctx := BitVec.ofNat 16 (fieldLE b 4 2),
    baseVa := fieldLE b 8 8, size := fieldLE b 16 8, pdom := BitVec.ofNat 24 (fieldLE b 24 4) }

/-- Regions keep their device-wide numbers. -/
def restoreRegion (p : Nat) (img : List Byte) (i : Nat) (b : List Byte) (s : State) : State :=
  { s with hdl := { s.hdl with region := tset {} s.hdl.region ((imgRange img 2).first + i) (readRegion p b) } }

def restoreCtx (_ : Nat) (b : List Byte) (s : State) : State :=
  let w := fieldLE b 0 8
  setCtxDesc (fieldLE b 16 4)
    { enable := bit w 0, odp := bit w 1, l1Log2 := BitVec.ofNat 5 (bits w 2 5),
      root := BitVec.ofNat 64 (w / 4096 * 4096), epoch := BitVec.ofNat 32 (fieldLE b 8 4) } s

/-- A restored communicator is LOST, its epoch unchanged. -/
def restoreComm (p : Nat) (i : Nat) (b : List Byte) (s : State) : State :=
  let f (o n : Nat) : Nat := fieldLE b (32 + o) n
  if bits (fieldLE b 0 4) 0 2 = 0 then s
  else
    let es := enginesOf s (f 16 4)
    setComm ((resOf s 3 p).first + i)
      { state := .lost, part := p, commId := BitVec.ofNat 64 (f 0 8), epoch := BitVec.ofNat 32 (fieldLE b 8 4),
        next := BitVec.ofNat 32 (fieldLE b 12 4), base := BitVec.ofNat 32 (fieldLE b 16 4), rank := fieldLE b 2 2,
        membersM1 := fieldLE b 4 2, accel := BitVec.ofNat 8 (f 20 1), pickLog2 := bits (f 21 1) 0 5,
        stochastic := bit (f 21 1) 5, shareCap := f 22 2, contributors := f 24 4, ctx := f 28 2, peersVa := f 32 8,
        seed := BitVec.ofNat 64 (f 40 8), spillVa := f 48 8, spillLog2 := f 56 4, pushKey := f 60 4, engines := es,
        reserved := es, lostRank := BitVec.ofNat 16 (fieldLE b 20 2), lostAccel := BitVec.ofNat 8 (fieldLE b 22 1),
        lostValid := bit (fieldLE b 23 1) 0, relayed := bit (fieldLE b 23 1) 1 } s

def restoreSeq (p : Nat) (i : Nat) (b : List Byte) (s : State) : State :=
  let e : SeqEntry := { entry := BitVec.ofNat 128 (fieldLE b 0 16), valid := bit (fieldLE b 16 1) 0 }
  if e.valid then setSeq ((resOf s 4 p).first + i) e s else s

def restorePfq (p : Nat) (b : List Byte) (s : State) : State :=
  setPfq p { pfqOf s p with bufCtx := BitVec.ofNat 16 (fieldLE b 0 2), log2 := BitVec.ofNat 5 (fieldLE b 2 1),
                            bufPa := BitVec.ofNat 64 (fieldLE b 8 8), nextSeq := BitVec.ofNat 32 (fieldLE b 16 4) } s

def restoreImage (p : Nat) (s : State) (x : Nat × List Byte) : State :=
  let bs := x.2
  let size := fieldLE bs 8 4
  setImage (x.1 % 1024)
    { loaded := true, gen := BitVec.ofNat 6 (x.1 / 1024), part := p, restart := bit (fieldLE bs 6 2) 0,
      entry := fieldLE bs 12 4, constOff := fieldLE bs 20 4, code := (bs.drop 64).take size,
      consts := bs.drop (64 + size), bytes := bs } s

/-- Command packets laid end to end, each as long as its header says. -/
def splitPackets : Nat → List Byte → List (List Byte)
  | 0, _ => []
  | _, [] => []
  | n + 1, bs =>
    let k := 64 * (bits (fieldLE bs 2 2) 0 2 + 1)
    bs.take k :: splitPackets n (bs.drop k)

/-- A withdrawn launch waits for the thaw that queues it again. -/
def restoreLaunch (p : Nat) (s : State) (pk : List Byte) : State :=
  let c : Cmd := { skein := .admin p, part := p, sqHead := 0, packet := pk, ext := [] }
  let (r, s) := liveRef (cmdRef c) s
  let c := { c with id := r.id }
  let x := skeinOf s c.skein
  let s := putSkein c.skein { x with outstanding := x.outstanding + 1, cq := { x.cq with reserved := x.cq.reserved + 1 } } s
  queueLaunch { launchOf c s with state := .withdrawn } s

/-- The memory section, granule by granule. -/
def restoreMemory (img : List Byte) (s : State) : State :=
  let b := secBytes img 14
  if b = [] then s
  else (imgGranules img).zipIdx.foldl (fun s x =>
    let off := x.1 * 2 ^ 28
    let inG (l : Nat) : Bool := granuleOf (l * 64) == x.1
    { s with spl := { s.spl with
      mem := memWrite s.spl.mem off (slice (b.drop (2 ^ 28 * x.2)) 0 (2 ^ 28))
      poison := s.spl.poison.filter fun e => !inG e.1 } }) s

/-- Every object of an image is created in the partition (R407). -/
def restore (p : Nat) (img : List Byte) (s : State) : State :=
  let s := overRecords img 2 48 (restoreSkein p) s
  let s := restoreAdmin p (secBytes img 3) s
  let s := overRecords img 4 256 (restoreQp p img) s
  let s := overRecords img 5 40 (restoreRecv p) s
  let s := overRecords img 6 32 (restoreRegion p img) s
  let s := overRecords img 7 32 restoreCtx s
  let s := overRecords img 8 96 (restoreComm p) s
  let s := overRecords img 9 32 (restoreSeq p) s
  let s := restorePfq p (secBytes img 11) s
  let s := (imgImages img).foldl (restoreImage p) s
  let s := (splitPackets 64 (secBytes img 13)).foldl (restoreLaunch p) s
  restoreMemory img s

def descPartRestore : OpDesc :=
  { code := 0x0812, bytes := 16, used := [(16, 0, 6), (18, 0, 16), (24, 0, 64)], data := true, infra := true }

/-- PART_RESTORE. -/
def execPartRestore (c : Cmd) (s : State) : Host.Outcome State Fault Refusal :=
  let p := cmdPart c
  let u := tableOwner s
  runCmd descPartRestore c (partCheck s c .frozen) s fun s =>
    match bufRead u c.part (param c 18 2 0 16) (fieldLE c.packet 24 8) (cmdLength c) c.ext s with
    | (s, .ok, img) =>
      match firstFail [(imgCrcBad img, Status.checkFail), (imgFieldsBad img, .opcode), (holdsObjects s p, .busy),
          (shortOf s p img, .bounds)] with
      | some st => complete c st [] u s
      | none =>
      match if secBytes img 14 = [] then none else memoryBad s true (imgGranules img) with
      | some st => complete c st [] u s
      | none => partEvent p 0 4 0 (complete c .ok [] u (restore p img s))
    | (s, st, _) => complete c st [] u s

end Sys2Proof.Machine
end

