-- ==== Sys2Proof/Machine/Counters.lean ====
section
/-! DEFINITION. Counter records, snapshots, profiles and the counter commands (R493 to R503). -/

namespace Sys2Proof.Machine

/-- A unit's counter (R493); those of the Treadle and the frame services read 0 (R495). -/
def unitCount (s : State) (u i : Nat) : Word64 :=
  if classOf u = 10 ∨ classOf u = 11 then 0 else tget 0 s.cnt.bank (u * 16 + i)

def partCount (s : State) (p i : Nat) : Word64 := tget 0 s.cnt.part (p * 8 + i)

/-- `STATUS` of a record (R497). -/
def recordStatus (s : State) (u : Nat) : Nat :=
  if !validUnit u || !diePresent s (dieOf u) then (if validUnit u && fenced s u then 1 else 2)
  else if fenced s u then 1 else 0

/-- The 128 bytes of a copy of a unit's bank (R496, R497). -/
def counterRecord (s : State) (u round : Nat) (phase : Bool) : List Byte :=
  let st := recordStatus s u
  let count (i : Nat) : Nat := if st = 2 then 0 else (unitCount s u i).toNat
  leBytes 2 u ++ leBytes 1 st ++ leBytes 1 (128 * b2n phase) ++ leBytes 4 round ++ leBytes 8 (unitTime s u).toNat ++
    (List.range 14).flatMap fun i => leBytes 8 (count i)

/-- The present units masks select, in ascending ID; die 39 is never selected (R500). -/
def selectedUnits (s : State) (classMask dieMask : Nat) : List Nat :=
  allUnits.filter fun u =>
    bit classMask (classOf u) && bit dieMask (dieOf u) && dieOf u != 39 && diePresent s (dieOf u)

def cntUsed : List (Nat × Nat × Nat) := [(16, 0, 16), (24, 0, 40)]
def cntBuf : List (Nat × Nat × Nat) := [(32, 0, 16), (40, 0, 64)]

def descCntSnapshot : OpDesc := { code := 0x0A01, bytes := 32, used := cntUsed ++ cntBuf, data := true, infra := true }
def descCntProfile : OpDesc :=
  { code := 0x0A02, bytes := 32, used := cntUsed ++ cntBuf ++ [(18, 0, 16), (20, 0, 5)], infra := true }
def descCntPartRead : OpDesc := { code := 0x0A03, bytes := 32, used := cntBuf, data := true }
def descCntClear : OpDesc := { code := 0x0A04, bytes := 16, used := cntUsed, infra := true }
def cntDescs : List OpDesc := [descCntSnapshot, descCntProfile, descCntPartRead, descCntClear]

def cntClassMask (c : Cmd) : Nat := param c 16 2 0 16
def cntDieMask (c : Cmd) : Nat := param c 24 8 0 40
def cntCtx (c : Cmd) : Nat := param c 32 2 0 16
def cntPa (c : Cmd) : Nat := fieldLE c.packet 40 8

/-- Reserved class bits are set. -/
def classBad (c : Cmd) : Bool := cntClassMask c / 2 ^ 12 != 0

/-- CNT_SNAPSHOT: one record per selected unit. -/
def execCntSnapshot (c : Cmd) (s : State) : Host.Outcome State Fault Refusal :=
  let us := selectedUnits s (cntClassMask c) (cntDieMask c)
  let unit := procUnit s c
  runCmd descCntSnapshot c [(classBad c, .opcode), (cmdLength c % 128 != 0, .lenRange)] s fun s =>
    if cmdLength c < 128 * us.length then complete c .bounds [0, us.length] unit s
    else
      let n := s.cnt.rounds + 1
      let bs := us.flatMap fun u => counterRecord s u n.toNat false
      let s := { s with cnt := { s.cnt with rounds := n } }
      let (s, st) := if bs = [] then (s, Status.ok) else bufWrite unit c.part (cntCtx c) (cntPa c) bs s
      complete c st (if st = .ok then [us.length, us.length, n.toNat] else []) unit s

/-- CNT_PROFILE: a period of 0 stops the running profile, any other starts one or replaces it. -/
def execCntProfile (c : Cmd) (s : State) : Host.Outcome State Fault Refusal :=
  let period := param c 18 2 0 16
  let log2 := param c 20 1 0 5
  let n := (selectedUnits s (cntClassMask c) (cntDieMask c)).length
  let bad := (decide (period ≠ 0) && decide (period < 10)) || decide (log2 < 7) || decide (log2 > 20) || decide (n > 2 ^ log2)
  runCmd descCntProfile c [(classBad c, .opcode), (bad, .lenRange)] s fun s =>
    let p : Profile :=
      { part := c.part, classMask := BitVec.ofNat 12 (cntClassMask c), dieMask := BitVec.ofNat 40 (cntDieMask c),
        bufCtx := cntCtx c, bufPa := cntPa c, periodUs := period, log2 := log2, last := frameTime s }
    complete c .ok [n] (procUnit s c)
      { s with cnt := { s.cnt with prof := if period = 0 then none else some p, head := 0, tail := 0 } }

/-- A round's records are written at ring slot `TAIL` onwards; `k` counts those before. -/
def writeRound (p : Profile) (round : Nat) : Nat → List Nat → State → State
  | _, [], s => s
  | k, u :: us, s =>
    let slot := s.cnt.tail.toNat + k
    let bs := counterRecord s u round (!bit slot p.log2)
    let (s, _) := bufWrite (ownerUnit s (.admin 0)) p.part p.bufCtx (p.bufPa + 128 * (slot % 2 ^ p.log2)) bs s
    writeRound p round (k + 1) us s

/-- PROFILE_ROUND: a period has passed; the round is copied, or skipped whole where the ring has no room. -/
def profileRound (s : State) : State :=
  match s.cnt.prof with
  | none => s
  | some p =>
    if (frameTime s - p.last).toNat < p.periodUs * 1000 then s
    else
      let s := { s with cnt := { s.cnt with prof := some { p with last := p.last + BitVec.ofNat 64 (p.periodUs * 1000) } } }
      let us := selectedUnits s p.classMask.toNat p.dieMask.toNat
      if (s.cnt.tail - s.cnt.head).toNat + us.length > 2 ^ p.log2 then
        { s with cnt := { s.cnt with skip := satInc s.cnt.skip, profSkipSeen := true } }
      else
        let n := s.cnt.rounds + 1
        let s := writeRound p n.toNat 0 us { s with cnt := { s.cnt with rounds := n } }
        { s with cnt := { s.cnt with tail := s.cnt.tail + BitVec.ofNat 21 us.length } }

def execProfileRound (s : State) : Host.Outcome State Fault Refusal := ends s (profileRound s)

/-- CNT_PART_READ: the issuer's own eight counters. -/
def execCntPartRead (c : Cmd) (s : State) : Host.Outcome State Fault Refusal :=
  let unit := ownerUnit s (.admin c.part)
  runCmd descCntPartRead c [(cmdLength c != 64, .lenRange)] s fun s =>
    let bs := (List.range 8).flatMap fun i => leBytes 8 (partCount s c.part i).toNat
    let (s, st) := bufWrite unit c.part (cntCtx c) (cntPa c) bs s
    complete c st [] unit s

/-- CNT_CLEAR: each selected bank becomes zero. -/
def execCntClear (c : Cmd) (s : State) : Host.Outcome State Fault Refusal :=
  runCmd descCntClear c [(classBad c, .opcode)] s fun s =>
    let us := selectedUnits s (cntClassMask c) (cntDieMask c)
    complete c .ok [] (procUnit s c)
      { s with cnt := { s.cnt with bank := s.cnt.bank.filter fun e => !us.contains (e.1 / 16) } }

/-- A write of `CNT.SEL` orders a copy (R498). -/
def writeCntSel (v : Nat) (s : State) : State :=
  { s with cnt := { s.cnt with sel := BitVec.ofNat 16 v, valid := false, ordered := true } }

/-- An ordered copy lands in `CNT.VIEW`. Its `ROUND` belongs to no snapshot or profile: the value is free. -/
def landCopy (s : State) : State :=
  if !s.cnt.ordered then s
  else
    let bs := counterRecord s s.cnt.sel.toNat (Config.freeNat s.seed % 2 ^ 32) false
    spend { s with cnt := { s.cnt with ordered := false, valid := true, view := BitVec.ofNat 1024 (leNat bs) } }

end Sys2Proof.Machine
end

