-- ==== Sys2Proof/Machine/Keys.lean ====
section
/-! DEFINITION. Loading a key slot (R385, R387, R389, R390, R395). -/

namespace Sys2Proof.Machine

def descKeyLoad : OpDesc :=
  { code := 0x0601, bytes := 32, data := true, inlineOk := true,
    used := [(16, 0, 16), (18, 0, 2), (20, 0, 32), (24, 0, 32), (32, 0, 64), (40, 0, 64)] }

def keyMode (c : Cmd) : Nat := param c 18 1 0 2

/-- The lengths and counters R395 turns away. -/
def keyLoadLenBad (c : Cmd) : Bool :=
  let counter := fieldLE c.packet 32 8
  let limit := fieldLE c.packet 40 8
  if keyMode c = 1 then cmdLength c != 32 || decide (limit ≤ counter)
  else cmdLength c != 64 || fieldLE c.packet 20 4 != 0 || fieldLE c.packet 24 4 != 0 || counter != 0 || limit != 0

/-- A command job on a slot is outstanding. -/
def slotJobs (s : State) (n : Nat) : Bool :=
  let busy (j : CipherJob) : Bool :=
    j.slot == n && (match j.work with | .command _ _ => true | .packet _ _ => false)
  s.cip.waiting.any busy || s.cip.suspended.any busy || s.cip.running.any fun r => busy r.2

/-- The slot as KEY_LOAD leaves it; its references stay. -/
def loadedSlot (c : Cmd) (k : KeySlot) : KeySlot :=
  { state := if keyMode c = 1 then .gcm else .xts
    fixed := BitVec.ofNat 32 (fieldLE c.packet 20 4)
    peerFixed := BitVec.ofNat 32 (fieldLE c.packet 24 4)
    counter := BitVec.ofNat 64 (fieldLE c.packet 32 8)
    limit := BitVec.ofNat 64 (fieldLE c.packet 40 8)
    refs := k.refs
    key := slice c.packet 64 (cmdLength c) }

/-- Queue pairs that seal under a slot. -/
def slotQps (s : State) (n : Nat) : List Nat :=
  (s.sht.qp.filter fun e => e.2.created && qpEnc e.2 && qpSlot e.2 == n).map (·.1)

/-- The slot changes as one event; where it comes into GCM the queue pairs stalled on it resend from `SND_UNA` (R389). -/
def loadKey (c : Cmd) (s : State) : State :=
  let n := cipherSlot c
  let stalled := (slotQps s n).filter fun q => keyStalled s q
  let s := setKeySlot n (loadedSlot c (keySlot s n)) s
  let s := if keyMode c = 1 then stalled.foldl (fun s q => resume q (qpOf s q).sndUna s) s else s
  complete c .ok [] (schedUnit s) s

/-- KEY_LOAD in one event of the scheduler's arbiter (R390). -/
def execKeyLoad (c : Cmd) (s : State) : Host.Outcome State Fault Refusal :=
  runCmd descKeyLoad c
    [(!bit (cmdFlags c) 2, .lenRange),
     slotCheck s c,
     (keyMode c == 0 || keyMode c == 3, .opcode),
     (keyLoadLenBad c, .lenRange),
     (slotJobs s (cipherSlot c), .busy)] s (loadKey c)

end Sys2Proof.Machine
end

