-- ==== Sys2Proof/Machine/Revoke.lean ====
section
/-! DEFINITION. Revocation of keys (R86, R198), holders that do not acknowledge (R79), and the end of page faults (R87 to R89,
R95). -/

namespace Sys2Proof.Machine

/-! ## REGION_REVOKE (R86, R198) -/

def descRegionRevoke : OpDesc := { code := 0x0221, bytes := 4, used := [(16, 0, 32)] }

/-- (Heddle, holder) pairs that still work a packet admitted under a key: it has neither committed nor been answered with a NAK
(step 3 of R198). -/
def keyHolders (s : State) (key : Nat) : List (Nat × Nat) :=
  ((s.sht.qp.filter fun e => e.2.opened.any fun o => o.key == key).map fun e => (homeDie s e.1, serving s e.1)).dedup

/-- A revocation of the index is under way (R66). -/
def revoking (s : State) (i : Nat) : Bool :=
  s.hdl.withdrawals.any fun w => match w.why with | .withdraw _ _ _ _ => false | .revoke key => keyIndex key == i

/-- An earlier REGION_REVOKE of the index is under way, or waits for its turn (R66). -/
def revokeBusy (s : State) (c : Cmd) (key : Nat) : Bool :=
  revoking s (keyIndex key) ||
    (heldBefore c s).any fun x => fieldLE x.packet 0 2 == 0x0221 && keyIndex (fieldLE x.packet 16 4) == keyIndex key

/-- The generation goes up and the entry is no longer valid, in the table and, at its revoke point, in every Heddle: the copies
kept are dropped. Holders that work packets admitted before are waited for. -/
def revokeKey (key : Nat) (cmd : CmdRef) (s : State) : State :=
  let i := keyIndex key
  let r := region s i
  let s := { s with hdl := { s.hdl with
    region := tset {} s.hdl.region i { r with gen := r.gen + 1, valid := false }
    regionCache := (List.range 8).foldl (fun t h => tmod [] t h (·.filter fun e => e.1 != i)) s.hdl.regionCache } }
  let w : Withdrawal := { id := s.hdl.nextWd, why := .revoke key, awaiting := keyHolders s key, fencedWait := [],
                          started := heddleTimes s, after := .report, cmd := some cmd }
  let s := { s with hdl := { s.hdl with nextWd := s.hdl.nextWd + 1, withdrawals := s.hdl.withdrawals ++ [w] } }
  if w.awaiting = [] then withdrawalDone w s else s

/-- R86, R198: REGION_REVOKE, behind one under way on the same index and those that came before (R66). -/
def execRegionRevoke (c : Cmd) (s : State) : Host.Outcome State Fault Refusal :=
  let key := fieldLE c.packet 16 4
  runOrdered descRegionRevoke c (revokeBusy s c key)
    [(!keyMatches (region s (keyIndex key)) c.part key, .keyInvalid)] s fun s => revokeKey key (cmdRef c) s

/-! ## Acknowledgements (R78, R79, R198) -/

/-- HOLDER_ACK: a holder's last request under a withdrawn translation has completed, or its last packet admitted under a revoked
key, and it acknowledges; the translations it gave up are gone. -/
def holderAck (id h holder : Nat) (s : State) : State :=
  match s.hdl.withdrawals.find? fun w => w.id == id && w.awaiting.contains (h, holder) with
  | none => s
  | some w =>
    match w.why with
    | .withdraw ctx first n _ =>
      let drop (t : Translated) : Bool := t.req.holder == holder && ofWithdrawn ctx first n t
      ackHolder id h holder { s with hdl := { s.hdl with delivered := s.hdl.delivered.filter fun t => !drop t } }
    | .revoke key => if (keyHolders s key).contains (h, holder) then s else ackHolder id h holder s

def execHolderAck (id h holder : Nat) (s : State) : Host.Outcome State Fault Refusal :=
  ends s (holderAck id h holder s)

/-- HOLDER_ACK_TIMEOUT: 100 µs have passed on the Heddle's counter. The holder is reported for fencing, and the Heddle waits on for
what it has sent. -/
def holderTimeout (id h holder : Nat) (s : State) : State :=
  match s.hdl.withdrawals.find? fun w => w.id == id && w.awaiting.contains (h, holder) with
  | none => s
  | some w =>
    if since s h (tget 0 w.started h) < 100000 then s
    else
    let w' := { w with awaiting := w.awaiting.filter (· != (h, holder)),
                       fencedWait := w.fencedWait ++ [((h, holder), dieTime s h)] }
    let s := { s with hdl := { s.hdl with
      withdrawals := s.hdl.withdrawals.map (fun x => if x.id = id then w' else x), holderFenced := true } }
    match w.why with
    | .withdraw ctx _ _ epoch =>
      record { mkRecord s holder 0x0302 with
        part := some (ctxOwner s ctx), object := ctx, otype := 7, info0 := ctx, info1 := epoch.toNat } s
    | .revoke key =>
      record { mkRecord s holder 0x0305 with info0 := key } { s with sht := { s.sht with revokeFenceSeen := true } }

def execHolderAckTimeout (id h holder : Nat) (s : State) : Host.Outcome State Fault Refusal :=
  ends s (holderTimeout id h holder s)

/-- HOLDER_FENCE_WAIT_EXPIRY: a further `FRM.WEFT_TMO[0]` has passed, and the fenced holder counts as acknowledged. -/
def fenceWaitOver (id h holder : Nat) (s : State) : State :=
  match (s.hdl.withdrawals.find? fun w => w.id == id).bind fun w => w.fencedWait.find? fun p => p.1 == (h, holder) with
  | none => s
  | some p => if since s h p.2 < (tget 0x32 s.weft.tmo 0).toNat * 1000 then s else ackHolder id h holder s

def execHolderFenceWaitExpiry (id h holder : Nat) (s : State) : Host.Outcome State Fault Refusal :=
  ends s (fenceWaitOver id h holder s)

/-! ## PF_RESOLVE (R87 to R89, R95) -/

def descPfResolve : OpDesc := { code := 0x0231, bytes := 8, used := [(16, 0, 32), (20, 0, 1)] }

/-- FAIL for a waiter: a queue pair goes to ERROR with CONTEXT_FAULT, by the operation that waited or by the packet that
faulted; the skein's operation that faulted completes with it. -/
def failWaiter (s : State) (w : Waiter) : State :=
  match w.otype with
  | 0 =>
    let v := qpOf s w.object
    if w.remote then qpFails w.object .contextFault none none v.rqBase s
    else qpFails w.object .contextFault ((nextOp s w.object).map (·.id)) none v.sqPsn s
  | 1 =>
    match w.op with
    | some (k, os) =>
      match findRedOp s k (BitVec.ofNat 32 os) with
      | some o => if o.done.isSome then s else endRedOp k o .contextFault (redWords (commOf s k) o none) s
      | none => s
    | none => s
  | _ => s

/-- The pending fault is over. On RETRY what waited walks the tables again with its next step. -/
def resolveFault (f : PendFault) (fail : Bool) (s : State) : State :=
  let s := { s with hdl := { s.hdl with pend := s.hdl.pend.filter fun x => !(x.heddle == f.heddle && x.slot == f.slot) } }
  if fail then f.waiters.foldl failWaiter s else s

/-- A fault of another partition is answered with DENIED, as R94 says of a command another partition than the one it names issues;
a number that names no outstanding fault with BOUNDS (R95). -/
def execPfResolve (c : Cmd) (s : State) : Host.Outcome State Fault Refusal :=
  let id := BitVec.ofNat 32 (fieldLE c.packet 16 4)
  let f? := s.hdl.pend.find? fun f => f.faultId == id
  shtEnds s (takeCmd descPfResolve c s fun s =>
    checked c [(f?.any fun f => f.part != c.part, .denied), (f?.isNone, .bounds)] s fun s =>
      match f? with
      | some f => complete c .ok [] (procUnit s c) (resolveFault f (param c 20 4 0 1 == 1) s)
      | none => s)

end Sys2Proof.Machine
end

