-- ==== Sys2Proof/Machine/Serve.lean ====
section
/-! DEFINITION. The Jacquard processors at work: skeins served by weighted round robin, entries fetched, commands checked and
dispatched (R97 to R102, R107 to R110, R112, R115, R120). -/

namespace Sys2Proof.Machine

/-! ## The opcodes (R101, R102) -/

/-- The commands of R491. -/
def descHeartbeat : OpDesc := { code := 0x0930, bytes := 16, used := [(22, 0, 16), (24, 0, 64)], data := true, infra := true }
def descHangMode : OpDesc := { code := 0x0931, bytes := 1, used := [(16, 0, 2)], infra := true }
def descUnitReset : OpDesc := { code := 0x0932, bytes := 3, used := [(16, 0, 16), (18, 0, 3)], infra := true }
def descHangIsolate : OpDesc :=
  { code := 0x0933, bytes := 16, used := [(16, 0, 16), (18, 0, 16), (22, 0, 16), (24, 0, 64)], data := true, infra := true }
def descHangDump : OpDesc := { code := 0x0934, bytes := 1, used := [(16, 0, 1)], infra := true }
def descDumpCopy : OpDesc := { code := 0x0935, bytes := 16, used := [(22, 0, 16), (24, 0, 64)], data := true, infra := true }

def hangDescs : List OpDesc := [descHeartbeat, descHangMode, descUnitReset, descHangIsolate, descHangDump, descDumpCopy]

/-- What each opcode's chapter says of its packet; of the opcodes whose parameters depend on the packet, as it stands. -/
def allDescs (c : Cmd) : List OpDesc :=
  [descNop, descSkeinCreate, descSkeinModify, descSkeinDestroy, descCtxAssign, descCtxConfig, descCtxDisable,
   descHdlWithdraw, descRegionRegister, descRegionRevoke, descPfQueueConfig, descPfResolve, descPfHeldList,
   descPfReleaseHeld, descGranuleAssign, descGranuleRelease] ++
  [descQpCreate, descQpModify, descQpDestroy, descQpQuery, descWrite, descRead, descSend, descRecv, descFetchAdd,
   descCmpSwap, descReducePush, descUdSend, descNvmeIo c] ++
  [descCommCreate c, descCommReform, descCommDestroy, descCommQuery, descCommMemberLost] ++
  [0x0410, 0x0411, 0x0412, 0x0413, 0x0414, 0x0415].map descRedOp ++
  [descImageLoad, descImageUnload, descLaunch, descStop, descSeqCreate, descSeqDestroy, descSeqQuery] ++
  [descKeyLoad, descGcmSeal, descGcmOpen, descXts 0x0612, descXts 0x0613, descKeyDestroy, descKeyQuery] ++
  [descEthSend, descAportBind, descAportCtl, descResSet, descPartFreeze, descPartThaw, descPartClear, descPartSave,
   descPartRestore] ++
  [descSafRead, descSafAck, descSafFence, descSafUnfence, descSafTestLoad, descSafTestRun] ++ hangDescs ++
  [descPwrSet, descPwrQuery, descMboxSend, descMboxRead, descDevRestart, descFwDownload, descFwActivate, descTimeSample,
   descTimePair] ++ cntDescs

/-- The checks of R102 that hold for every opcode; an opcode in no chapter's list is reserved. -/
def fetchCheck (c : Cmd) : Option Status :=
  match (allDescs c).find? fun d => d.code == fieldLE c.packet 0 2 with
  | some d => issueCheck d c
  | none => some .opcode

/-! ## Where a command goes (R115, R120) -/

/-- The unit outside the processors that executes a command; none where a processor does. -/
def targetUnit (s : State) (c : Cmd) : Option Nat :=
  let code := fieldLE c.packet 0 2
  match code / 256 with
  | 0x03 => if code < 0x0310 then none else (toGlobal s 1 c.part (cmdQid c)).map (serving s)
  | 0x04 => if code < 0x0410 then none
            else (toGlobal s 3 c.part (cmdQid c)).bind fun k => ((commOf s k).engines[0]?).map engineUnit
  | 0x06 => some (schedUnit s)
  | 0x07 => if code = 0x0710 then some (ethPort (param c 16 1 0 3)) else none
  | 0x09 => some (if code < 0x0930 then selvedge else frameServices)
  | 0x0B => some treadle
  | 0x0C => some (if code = 0x0C40 ∨ code = 0x0C41 then mailboxes else frameServices)
  | _ => none

/-- The unit that executes a command. -/
def execUnit (s : State) (c : Cmd) : Nat := (targetUnit s c).getD (procUnit s c)

def hasOrder (c : Cmd) : Bool := bit (cmdFlags c) 3

/-- The unit cannot take a command now: no input credit, a test slice that has still to yield (R472), or an isolation. -/
def unitFull (s : State) (u : Nat) : Bool :=
  tget 0 s.jcq.unitCredit u == 0 || testing s u || (unitClosed s u && !inReset s u)

/-- A collective operation that would be the ninth of its communicator keeps its skein's staging slot: those admitted and those
dispatched to be admitted are eight (R211). -/
def commWaits (s : State) (c : Cmd) : Bool :=
  let op (x : Cmd) : Bool := decide (0x0410 ≤ fieldLE x.packet 0 2) && decide (fieldLE x.packet 0 2 ≤ 0x0415)
  op c && (namedComm s c).any fun k =>
    decide ((commOf s k).ops.length + (s.jcq.dispatched.filter fun d => !d.started && op d.cmd && namedComm s d.cmd == some k).length ≥ 8)

/-- A staged command may be dispatched: its `ORDER` is met (R98), its skein does not wait for a page fault (R88, R92), and its unit
takes it. -/
def mayDispatch (s : State) (k : Skein) (c : Cmd) : Bool :=
  (!hasOrder c || decide (k.outstanding ≤ 1)) && !skeinStalled s c.skein c.part && !commWaits s c &&
    match targetUnit s c with
    | some u => inReset s u || !inService s u || !unitFull s u
    | none => true

/-- The staged command leaves for its unit. A unit in reset answers ABORTED (R482), one that is fenced with no sibling
FENCED. -/
def dispatch (r : SkeinRef) (c : Cmd) (s : State) : State :=
  let s := putSkein r { skeinOf s r with staged := none } s
  let u := execUnit s c
  let go (s : State) : State :=
    { s with jcq := { s.jcq with dispatched := s.jcq.dispatched ++ [{ cmd := keptCopy c, unit := u }] } }
  match targetUnit s c with
  | none => go s
  | some t =>
    if inReset s t then complete c .aborted [] (procUnit s c) s
    else if !inService s t then complete c .fenced [] (procUnit s c) s
    else wakeUnit t (go { s with jcq := { s.jcq with unitCredit := tmod 0 s.jcq.unitCredit t (· - 1) } })

/-! ## The round (R115) -/

def procOf (s : State) (n : Nat) : ProcState := tget {} s.jcq.proc n
def setProc (n : Nat) (p : ProcState) (s : State) : State := { s with jcq := { s.jcq with proc := tset {} s.jcq.proc n p } }

/-- A command has used one of the four places of its boundary, or one credit and one place of the burst. -/
def useTurn (r : SkeinRef) (s : State) : State :=
  let n := ownerProc s r
  let p := procOf s n
  match r with
  | .admin _ => setProc n { p with adminN := p.adminN + 1 } s
  | .ord g =>
    let s := setSkein g { skein s g with credit := (skein s g).credit - 1 } s
    if p.visit = some g then setProc n { p with n := p.n + 1 } s else s

/-- The staged command of a skein goes where it may. -/
def tryDispatch (r : SkeinRef) (s : State) : State :=
  match (skeinOf s r).staged with
  | some c => if mayDispatch s (skeinOf s r) c then dispatch r c (useTurn r s) else s
  | none => s

/-- The processor starts no fetch: it is out of service, in reset, being tested or asleep, the device is not ready, or a
restart is under way (R431, R432). -/
def procStopped (s : State) (n : Nat) : Bool :=
  let u := jacquard n
  !inService s u || inReset s u || testing s u || domainSleeps s u || !s.fw.ready || s.fw.restart.isSome

/-- A skein is in the middle of a command: some of its entries have been read. -/
def midCommand (k : Skein) : Bool := !k.fetched.isEmpty

/-- The next entry may be read: the skein is enabled and neither held nor waiting for a page fault, its partition open and a
completion slot free (R88, R92, R112, R116, R404), or a command already begun goes on to its end. -/
def mayFetch (s : State) (r : SkeinRef) : Bool :=
  let k := skeinOf s r
  k.head != k.tail && k.staged.isNone && !k.fetching && !unitHolds s (ownerUnit s r) 2 (match r with | .ord g => g | .admin _ => 0xFFFFFF) &&
    (midCommand k || (k.enable && !k.error && !partStopped s (skeinPart s r) && freeSlots k.cq != 0 &&
      !skeinStalled s r (skeinPart s r)))

/-- An entry read is issued; the first one of a command reserves its completion slot. -/
def startEntry (r : SkeinRef) (s : State) : State :=
  let k := skeinOf s r
  let k := if midCommand k then k else { k with cq := { k.cq with reserved := k.cq.reserved + 1 } }
  let u := ownerUnit s r
  let pa := k.ring.pa.toNat + 64 * k.head
  let dest := if target pa = 0 then controller (stackOf (offset pa)) else cxlPort (homePort s (skeinPart s r))
  sendRequest (dieOf u) u dest k.ring.bufCtx.toNat 0 0 (.skeinEntry r) (putSkein r { k with fetching := true } s)

/-- The skein has something its processor can do now. -/
def servable_ (s : State) (r : SkeinRef) : Bool :=
  match (skeinOf s r).staged with
  | some c => mayDispatch s (skeinOf s r) c
  | none => mayFetch s r

/-- One step of a skein: its staged command is dispatched, or an entry fetched. -/
def serveOne (r : SkeinRef) (s : State) : State :=
  if (skeinOf s r).staged.isSome then tryDispatch r s else startEntry r s

def isOrd : SkeinRef → Bool
  | .ord _ => true
  | .admin _ => false

def skeinNo : SkeinRef → Nat
  | .ord g => g
  | .admin p => p

/-- The admin skeins of a processor, in ascending partition. -/
def procAdmins (s : State) (n : Nat) : List SkeinRef := (procSkeins s n).filter fun r => !isOrd r

/-- The ordinary skeins of a processor, in ascending number after the last visited. -/
def passOrder (s : State) (n : Nat) : List Nat :=
  let gs := ((procSkeins s n).filter isOrd).map skeinNo
  match (procOf s n).last with
  | none => gs
  | some l => gs.filter (fun g => decide (l < g)) ++ gs.filter fun g => decide (g ≤ l)

/-- A skein is served while it is enabled, and for a command that it has begun (R116). -/
def inService_ (k : Skein) : Bool := k.enable || k.fetching || midCommand k || k.staged.isSome

/-- The visit goes on: the loop's condition of R115. -/
def visitGoes (s : State) (n g : Nat) (p : ProcState) : Bool :=
  let k := skein s g
  k.created && ownerProc s (.ord g) == n && inService_ k && decide (0 < k.credit) && decide (p.n < k.roundBurstM1.toNat + 1)

/-- Every enabled skein with work has used its credit or is blocked. -/
def roundOver (s : State) (n : Nat) : Bool :=
  (passOrder s n).all fun g =>
    let k := skein s g
    !(inService_ k && (k.fetching || k.staged.isSome || k.head != k.tail)) || k.credit == 0 ||
      (!k.fetching && !servable_ s (.ord g))

/-- new_round: every skein's credit is its weight, and changes of weight and burst take effect. -/
def newRound (n : Nat) (s : State) : State :=
  ((procSkeins s n).filter isOrd).foldl (fun s r =>
    let k := skeinOf s r
    putSkein r { k with credit := k.weight.toNat, roundWeight := k.weight, roundBurstM1 := k.burstM1 } s) s

/-- The loop of R115, until the processor has fetched or dispatched something or waits for an entry on its way. At a visit boundary up
to four admin commands go first; a pass visits every ordinary skein once, and a new round may begin when it ends. -/
def serveGo (n : Nat) : Nat → State → State
  | 0, s => s
  | fuel + 1, s =>
    let p := procOf s n
    match p.visit with
    | some g =>
      if visitGoes s n g p && (skein s g).fetching then s
      else if visitGoes s n g p && servable_ s (.ord g) then serveOne (.ord g) s
      else serveGo n fuel (setProc n { p with visit := none, n := 0, adminN := 0 } s)
    | none =>
      if (procAdmins s n).any fun r => (skeinOf s r).fetching then s
      else
        match (procAdmins s n).find? (servable_ s), decide (p.adminN < 4) with
        | some r, true => serveOne r s
        | _, _ =>
          match p.left with
          | g :: rest => serveGo n fuel (setProc n { p with visit := some g, last := some g, left := rest, n := 0 } s)
          | [] =>
            let s := if roundOver s n then newRound n s else s
            match passOrder s n with
            | [] => setProc n { p with adminN := 0 } s
            | gs => serveGo n fuel (setProc n { p with left := gs } s)

/-- SKEIN_SERVE: the processor's loop goes on to its next fetch or dispatch. -/
def skeinServe (n : Nat) (s : State) : State :=
  if n ≥ 32 ∨ procStopped s n then s else serveGo n (4 * (procSkeins s n).length + 8) s

def execSkeinServe (proc : Nat) (s : State) : Host.Outcome State Fault Refusal := ends s (skeinServe proc s)

/-! ## Entries (R102, R107, R109, R114, R116) -/

/-- A fetch that is given up: its reservation is released, and the command it began is no longer outstanding. -/
def dropFetch (r : SkeinRef) (s : State) : State :=
  let k := skeinOf s r
  putSkein r { k with fetching := false, fetched := [], outstanding := k.outstanding - b2n (midCommand k),
                      cq := { k.cq with reserved := k.cq.reserved - 1 } } s

/-- A whole command has been fetched: a failing check completes it, and one that passes is staged, and goes if it may. -/
def fetchedCmd (r : SkeinRef) (packet : List Byte) (s : State) : State :=
  let k := skeinOf s r
  let c : Cmd := { skein := r, part := skeinPart s r, sqHead := k.head, packet := packet, ext := [] }
  let (l, s) := liveRef (cmdRef c) s
  let c := { c with id := l.id }
  let s := bump (ownerUnit s r) 2 1 (putSkein r { k with fetched := [] } s)
  match fetchCheck c with
  | some st => complete c st [] (procUnit s c) (useTurn r s)
  | none => tryDispatch r (putSkein r { skeinOf s r with staged := some c } s)

/-- SKEIN_ENTRY_RETURN: the entry at the head has come. It is read once: where `ENABLE` has been cleared meanwhile its command is
fetched to its end all the same (R107, R116). -/
def entryReturn (r : SkeinRef) (ext : List ExtRead) (s : State) : State :=
  let k := skeinOf s r
  if !k.fetching then s
  else
    let s := untrack (.skeinEntry r) s
    match bufRead (ownerUnit s r) (skeinPart s r) k.ring.bufCtx.toNat (k.ring.pa.toNat + 64 * k.head) 64 ext s with
    | (s, .ok, bs) =>
      let k := skeinOf s r
      let packet := k.fetched ++ bs
      let head := (k.head + 1) % 2 ^ k.ring.log2
      let s := putSkein r { k with fetching := false, fetched := packet, head := head,
                                   outstanding := k.outstanding + b2n (!midCommand k) } s
      if packet.length / 64 > fieldLE packet 2 1 % 4 then fetchedCmd r packet s
      else if head = k.tail then s
      else startEntry r s
    | (s, st, _) => freezeCheck (skeinError r st (dropFetch r s))

def execSkeinEntryReturn (sk : SkeinRef) (ext : List ExtRead) (s : State) : Host.Outcome State Fault Refusal :=
  ends s (entryReturn sk ext s)

/-! ## ENGINE_CREDIT_GRANT -/

/-- Skeins whose staged command waits for a unit, admin skeins first. -/
def stagedFor (s : State) (u : Nat) : List SkeinRef :=
  let wants (k : Skein) : Bool := k.staged.any fun c => targetUnit s c == some u
  ((s.jcq.admin.filter fun e => wants e.2.sk).map fun e => SkeinRef.admin e.1) ++
    (s.jcq.skein.filter fun e => wants e.2).map fun e => SkeinRef.ord e.1

/-- A unit grants `n` input credits: the commands staged for it go, one for each. -/
def creditGrant (u n : Nat) (s : State) : State :=
  if !inService s u then s
  else
    let s := { s with jcq := { s.jcq with unitCredit := tmod 0 s.jcq.unitCredit u (· + n) } }
    (stagedFor s u).foldl (fun s r => tryDispatch r s) s

def execEngineCreditGrant (unit n : Nat) (s : State) : Host.Outcome State Fault Refusal := ends s (creditGrant unit n s)

end Sys2Proof.Machine
end

