-- ==== Sys2Proof/Machine/Hang.lean ====
section
/-! DEFINITION. Hangs, resets and crash dumps (R475 to R492). The commands complete at the frame services unit. -/

namespace Sys2Proof.Machine

def setHang (h : HangState) (s : State) : State := { s with hang := h }

/-! ## Heartbeats (R476, R477) -/

def workItems (s : State) (u : Nat) : Nat := tget 0 s.hang.items u

/-- Units that held work at the last heartbeat and have completed no item of work since. -/
def stalledUnits (s : State) : List Nat := s.hang.heldAt.filter fun u => workItems s u == tget 0 s.hang.itemsAt u

/-- The heartbeat counts, and what units hold now is noted for the next one. -/
def beat (s : State) : State :=
  setHang { s.hang with
    hbCount := s.hang.hbCount + 1
    hbAt := frameTime s
    heldAt := allUnits.filter fun u => dieOf u != 39 && inService s u && holdsWork s u
    itemsAt := s.hang.items } s

def execHeartbeat (c : Cmd) (s : State) : Host.Outcome State Fault Refusal :=
  runCmd descHeartbeat c [(cmdLength c % 2 != 0, .lenRange)] s fun s =>
    let us := stalledUnits s
    let s := beat s
    let bs := (us.take (cmdLength c / 2)).flatMap (leBytes 2)
    let (s, st) := if bs = [] then (s, Status.ok)
      else bufWrite frameServices c.part (param c 22 2 0 16) (fieldLE c.packet 24 8) bs s
    complete c st (if st = .ok then [s.hang.hbCount.toNat, us.length] else []) frameServices s

/-- HB_PERIOD_EXPIRY: no heartbeat for `HB_PERIOD_MS`. -/
def hbExpiry (s : State) : State :=
  if !s.fw.ready || decide ((frameTime s - s.hang.hbAt).toNat < s.hang.hbPeriodMs.toNat * 1000000) then s
  else setHang { s.hang with hbMissed := true } s

def execHbPeriodExpiry (s : State) : Host.Outcome State Fault Refusal := ends s (hbExpiry s)

/-! ## Modes (R478) -/

/-- Recovery mode is entered by an isolation or an escalation, once. -/
def recovering (s : State) : Bool := s.hang.iso.isSome || s.hang.resets.any (·.raised)

def enterRecovery (s : State) : State :=
  if recovering s then s else setHang { s.hang with prevMode := s.hang.mode, mode := 2 } s

/-- The mode before is restored once no isolation and no escalated reset is left. -/
def leaveRecovery (s : State) : State :=
  if recovering s then s else setHang { s.hang with mode := s.hang.prevMode } s

/-- `RUN_MODE`. -/
def runMode (s : State) : Nat := if s.fw.start.isSome then 3 else s.hang.mode.toNat

/-- HANG_MODE; while an isolation or escalation holds recovery mode, the mode it returns to. -/
def execHangMode (c : Cmd) (s : State) : Host.Outcome State Fault Refusal :=
  let m := param c 16 1 0 2
  runCmd descHangMode c [(m == 3, .opcode)] s fun s =>
    let h := if recovering s then { s.hang with prevMode := BitVec.ofNat 2 m }
      else { s.hang with mode := BitVec.ofNat 2 m }
    complete c .ok [] frameServices (setHang h s)

/-! ## The wait-for detector (R479, R480) -/

/-- The number of a skein in the graph; an admin skein is named as in a record (R460). -/
def skeinNode (r : SkeinRef) : WfNode := ⟨1, match r with | .ord g => g | .admin _ => 0xFFFFFF⟩

/-- The object a command works on: a queue pair, a communicator or a launch; else its skein. -/
def cmdObject (s : State) (c : Cmd) : WfNode :=
  let code := fieldLE c.packet 0 2
  match code / 256 with
  | 0x03 => match toGlobal s 1 c.part (cmdQid c) with | some q => ⟨2, q⟩ | none => skeinNode c.skein
  | 0x04 => match toGlobal s 3 c.part (cmdQid c) with | some k => ⟨3, k⟩ | none => skeinNode c.skein
  | 0x05 => if code = 0x0510 then ⟨4, c.part * 65536 + param c 18 2 0 16⟩ else skeinNode c.skein
  | _ => skeinNode c.skein

def stagedCmds (s : State) : List Cmd :=
  (s.jcq.admin.filterMap fun e => e.2.sk.staged) ++ s.jcq.skein.filterMap fun e => e.2.staged

/-- A skein waits for its staged command's unit, and an `ORDER` command for the oldest earlier one of its skein. -/
def skeinEdges (s : State) (c : Cmd) : List (WfNode × WfNode) :=
  let credit := match targetUnit s c with
    | some u => if tget 0 s.jcq.unitCredit u = 0 then [(skeinNode c.skein, (⟨0, u⟩ : WfNode))] else []
    | none => []
  let order := if hasOrder c then
      match s.jcq.dispatched.find? fun d => d.cmd.skein == c.skein with
      | some d => [(cmdObject s c, cmdObject s d.cmd)]
      | none => []
    else []
  if inReset s (ownerUnit s c.skein) then [] else credit ++ order

/-- A router that waits for a hub's credit, and a unit that waits for a response. -/
def weftEdges (s : State) : List (WfNode × WfNode) :=
  let live (u : Nat) : Bool := !fenced s u && !inReset s u
  let credit := s.weft.waiting.filterMap fun w =>
    let ends := (router w.lane.die, router (hubOf w.lane.die w.lane.chan))
    let (a, b) := if w.lane.inbound then (ends.2, ends.1) else ends
    if live a then some ((⟨0, a⟩ : WfNode), (⟨0, b⟩ : WfNode)) else none
  credit ++ ((s.weft.outstanding.filter fun r => live r.src).map fun r => ((⟨0, r.src⟩ : WfNode), (⟨0, r.dest⟩ : WfNode)))

def launchNode (l : Launch) : WfNode := ⟨4, l.part * 65536 + l.launchId.toNat⟩

/-- Each queued launch of a partition waits for the launch ahead of it (R292). -/
def launchEdges (s : State) : List (WfNode × WfNode) :=
  s.bob.launch.zipIdx.filterMap fun x =>
    if x.1.state = .queued then
      ((s.bob.launch.take x.2).reverse.find? fun y => y.part == x.1.part).map fun y => (launchNode x.1, launchNode y)
    else none

def collectEdges (s : State) : List (WfNode × WfNode) :=
  ((stagedCmds s).flatMap (skeinEdges s) ++ weftEdges s ++ launchEdges s).dedup

/-- Extends paths by one edge, newest node first, never back to a node already reached. -/
def growPaths (es : List (WfNode × WfNode)) (paths : List (List WfNode)) (seen : List WfNode) : List (List WfNode) :=
  (paths.flatMap fun p =>
    match p with
    | [] => []
    | x :: _ => (es.filter fun e => e.1 == x && !seen.contains e.2).map fun e => e.2 :: p)

/-- The first path whose newest node waits on the start. -/
def closing (es : List (WfNode × WfNode)) (start : WfNode) (paths : List (List WfNode)) : Option (List WfNode) :=
  paths.find? fun p => match p with | [] => false | x :: _ => es.contains (x, start)

/-- The shortest cycle through a node, of at most `fuel` nodes. -/
def cycleFrom (es : List (WfNode × WfNode)) (start : WfNode) : Nat → List (List WfNode) → List WfNode → Option (List WfNode)
  | 0, _, _ => none
  | n + 1, paths, seen =>
    match closing es start paths with
    | some p => some p.reverse
    | none =>
      let next := growPaths es paths seen
      cycleFrom es start n next (seen ++ next.filterMap List.head?)

/-- The shortest cycle of up to 16 nodes. -/
def shortestCycle (es : List (WfNode × WfNode)) : Option (List WfNode) :=
  let cs := (es.map (·.1)).dedup.filterMap fun n => cycleFrom es n 16 [[n]] [n]
  cs.foldl (fun b c => match b with | some x => if c.length < x.length then some c else b | none => some c) none

/-- WFD_COLLECT: the detector's period has passed. -/
def wfdCollect (s : State) : State :=
  let h := s.hang
  if runMode s = 0 ∨ (frameTime s - h.wfdAt).toNat < h.wfdPeriodUs.toNat * 1000 then s
  else
    let seen (e : WfNode × WfNode) : Nat :=
      match h.edges.find? fun x => x.waiter == e.1 && x.holder == e.2 with | some x => x.seen | none => 0
    let edges := (collectEdges s).map fun e => ({ waiter := e.1, holder := e.2, seen := seen e + 1 } : WfEdge)
    let h := { h with edges := edges, wfdAt := frameTime s }
    let stable := (edges.filter fun (e : WfEdge) => decide (s.hang.wfdStable.toNat ≤ e.seen)).map fun (e : WfEdge) => (e.waiter, e.holder)
    let word (n : WfNode) : BitVec 32 := BitVec.ofNat 32 (n.kind + 16 * n.number)
    match (if h.cycleSeen then none else shortestCycle stable) with
    | some c => setHang { h with cycleSeen := true, wfdCycle := c.map word, wfdTime := frameTime s } s
    | none => setHang h s

def execWfdCollect (s : State) : Host.Outcome State Fault Refusal := ends s (wfdCollect s)

/-! ## What a reset does to a unit (R482, R483) -/

/-- A queue pair's operations complete with ABORTED; the packets they had sent are still resolved, for nobody. -/
def abortOps (q : Nat) (s : State) : State :=
  let gone (o : SendOp) : SendOp := { o with cmd := none, closed := true, failed := some (o.failed.getD .aborted) }
  let ops := opsOf s q
  let s := (ops.filterMap (·.cmd)).foldl (fun s r => completeRef r .aborted [] (serving s q) s) s
  ops.foldl (fun s o => resolveOp q o.id (setOp (gone o) s)) s

def shuttleReset (replay : Bool) (u : Nat) (s : State) : State :=
  ((engineQps s u).filter (qpBusy s)).foldl (fun s q => qpMoves q (if replay then s else abortOps q s)) s

def sliceReset (d : Nat) (s : State) : State :=
  let qs := s.sht.fetching.filter fun q => homeDie s q == d
  let s := (sliceLost d .aborted s).2
  let s := { s with sht := { s.sht with fetching := s.sht.fetching.filter fun q => !qs.contains q, qpErrSeen := true } }
  qs.foldl (fun s q => startFetch q (untrack (.ctxFetch q) s)) s

/-- A Reed engine's picks start anew on it, or their operations complete with ABORTED. -/
def reedReset (replay : Bool) (e : Nat) (s : State) : State :=
  s.red.comm.foldl (fun s x =>
    let c := commOf s x.1
    (c.ops.filter fun o => o.done.isNone && o.engines.contains e).foldl (fun s o =>
      if replay then replayOp x.1 e e o s else endRedOp x.1 o .aborted (redWords c o none) s) s) s

def poolReset (replay : Bool) (d : Nat) (s : State) : State :=
  ((List.range 4).filter fun i => s.red.slots.any fun x => x.engine == 4 * d + i).foldl
    (fun s i => reedReset replay (4 * d + i) s) s

/-- Caches, walks and pending faults of a Heddle are lost: what needed them asks again. -/
def heddleReset (h : Nat) (s : State) : State :=
  let ws := s.hdl.walks.filter fun w => w.req.heddle == h
  let s := { s with hdl := { s.hdl with
    leaves := tset [] s.hdl.leaves h []
    ptrs := tset [] s.hdl.ptrs h []
    regionCache := tset [] s.hdl.regionCache h []
    walks := s.hdl.walks.filter fun w => w.req.heddle != h
    delivered := s.hdl.delivered.filter fun t => t.req.heddle != h
    pend := s.hdl.pend.filter fun f => f.heddle != h } }
  ws.foldl (fun s w => lookup w.req (untrack (.walk w.id) s)) s

/-- A core's running job and those suspended on it start anew on other cores, or end with ABORTED. After an isolation's reset the running
job starts anew on the core itself. -/
def coreReset (replay hold : Bool) (core : Nat) (s : State) : State :=
  let run := (s.cip.running.filter fun r => r.1 == core).map (·.2)
  let mine (j : CipherJob) : Bool := j.core == some core
  let susp := s.cip.suspended.filter mine
  let s := { s with cip := { s.cip with
    running := s.cip.running.filter fun r => r.1 != core
    suspended := s.cip.suspended.filter fun j => !mine j } }
  let again (s : State) (j : CipherJob) : State := if replay then reissueJob j s else endJob .aborted s j
  let stay (s : State) (j : CipherJob) : State :=
    match restartJob j s with
    | (some j, s) => startJob core j s
    | (none, s) => s
  susp.foldl again (run.foldl (if hold then stay else again) s)

/-- A Bobbin's scratch, registers and instruction memory are lost: its launch is replayed, or completes with ABORTED. -/
def bobbinReset (replay : Bool) (u : Nat) (s : State) : State :=
  let clear (b : Bobbin) : Bobbin :=
    { b with code := [], scratch := [], tags := [], streams := [], wait := none, s := [], v := [], p := [], a := [],
             resident := 0, state := if b.state = .zeroing then .idle else b.state }
  let s := modBobbin u clear s
  match bobLaunch s u with
  | none => s
  | some l =>
    if l.state = .ending then checkLaunch l.id s
    else if replay && (launchImage s l).restart then
      let l := { l with state := .replaying, replayed := true }
      checkLaunch l.id (stopMembers l (setLaunch l { s with bob := { s.bob with replaySeen := true } }))
    else stopLaunch l.id .aborted none 0 s

/-- A controller's unanswered requests get no response; its copies of the tables are those of the reference when it is ready
again. Memory, marks and the snoop filter stand. -/
def controllerReset (n : Nat) (s : State) : State :=
  let u := controller n
  let s := (s.spl.biWaits.filter fun w => w.line / 64 % 16 == n).foldl (fun s w => dropWait w.id s) s
  let s := (s.spl.updates.filter fun x => x.unit == u).foldl (fun s _ => copyUpdate u s) s
  { s with spl := { s.spl with gotCopy := tset [] s.spl.gotCopy n s.spl.got, ctxCopy := tset [] s.spl.ctxCopy n s.hdl.ctxPart } }

/-- A port's sub-ports go down and train again; its queues and its parking buffer are lost. -/
def ethPortReset (k : Nat) (s : State) : State :=
  let s := ethPortLost k s
  let ps := s.sht.parked.filter fun x => x.port == k
  let s := { s with sht := { s.sht with parked := s.sht.parked.filter fun x => x.port != k } }
  let pk (q : EthQueue) : EthQueue := { q with pkts := [] }
  let s := modEthp k (fun p =>
    { p with txq := (p.txq.map fun (e : Nat × EthQueue) => (e.1, pk e.2)).filter fun (e : Nat × EthQueue) => decide (e.2 ≠ {}) }) s
  let s := if ps = [] then s else { s with sht := { s.sht with parkDropSeen := true } }
  (List.range 8).foldl (fun s i => if subEnabled s k i then setLink k i .training s else s) s

/-- A processor's fetches are dropped and begun anew; the commands it was executing or held staged are replayed, or complete
with ABORTED. -/
def procReset (replay : Bool) (n : Nat) (s : State) : State :=
  let u := jacquard n
  let one (s : State) (r : SkeinRef) : State :=
    let s := if (skeinOf s r).fetching then startEntry r (putSkein r { skeinOf s r with fetching := false, cq :=
        { (skeinOf s r).cq with reserved := (skeinOf s r).cq.reserved - b2n (!midCommand (skeinOf s r)) } }
          (untrack (.skeinEntry r) s)) else s
    match (skeinOf s r).staged with
    | some c => if replay then s else complete c .aborted [] u (putSkein r { skeinOf s r with staged := none } s)
    | none => s
  let s := (procSkeins s n).foldl one s
  let mine (d : Dispatched) : Bool := d.unit == u
  if replay then markWhere mine s
  else
    let refs := (s.jcq.dispatched.filter mine).map fun d => cmdRef d.cmd
    let own := refs.filter fun r => r.opcode / 256 == 0x01 || r.opcode / 256 == 0x02
    own.foldl (fun s r => completeRef r .aborted [] u s) (abandon (fun r => own.contains r) false s)

/-- A unit stops at a reset edge: its state is lost, and its work resumes from its last committed point or ends. `hold` is an
isolation's reset, after which a core keeps its job. -/
def unitReset (replay hold : Bool) (s : State) (u : Nat) : State :=
  let d := dieOf u
  let i := instOf u
  let s := { s with weft := { s.weft with
    outstanding := s.weft.outstanding.filter fun r => r.src != u } }
  let s := releaseTokens u s
  match classOf u with
  | 0 => procReset replay (4 * d + i) s
  | 1 => if i = 8 then sliceReset d s else shuttleReset replay u s
  | 2 => if i = 4 then poolReset replay d s else reedReset replay (4 * d + i) s
  | 3 => heddleReset d s
  | 4 => coreReset replay hold (2 * d + i) s
  | 5 => bobbinReset replay (32 * (d - 8) + i) s
  | 6 => controllerReset (d - 8) s
  | 7 => ethPortReset (d - 24) s
  | 8 => lossAndRetrain (2 * (d - 32) + i) s
  | 9 => { s with weft := { s.weft with heldMsgs := s.weft.heldMsgs.filter fun h => dieOf (headFlit h.msg).dest != d } }
  | _ => s

/-! ## Resets (R481 to R486) -/

/-- The unit can be reset at a level (R481). -/
def resettable (u level : Nat) : Bool :=
  let cxl := classOf u == 8 && instOf u == 2
  match level with
  | 0 => decide (dieOf u < 36) && classOf u != 9 && !cxl
  | 1 => (domainOf u).isSome
  | _ => decide (dieOf u < 36) && !cxl

/-- The present units a reset covers. -/
def coveredUnits (s : State) (r : ResetRun) : List Nat :=
  (unitsOfDie (dieOf r.unit)).filter fun u => covers r.unit r.level u && diePresent s (dieOf u)

/-- A reset covering the unit is in progress, or an isolation runs. -/
def resetBusy (s : State) (u : Nat) : Bool := inReset s u || s.hang.iso.isSome

/-- The checks of R492 that `UNIT_RESET` and a write of `FRM.RESET_CTL` share. -/
def resetFails (s : State) (u level : Nat) : List (Bool × Status) :=
  [(unitArgBad s u, .bounds), (!resettable u level, .denied), (fenced s u, .fenced), (resetBusy s u, .busy)]

/-- Domains a reset covers that are not ON are woken first. -/
def wakeCovered (r : ResetRun) (s : State) : State := (coveredUnits s r).foldl (fun s u => wakeUnit u s) s

/-- A unit entering reset while it is read is left unread, and its read is abandoned (R489). -/
def abandonRead (r : ResetRun) (s : State) : State :=
  match s.hang.dump with
  | some d => match d.left with
    | u :: rest =>
      if covers r.unit r.level u then
        setHang { s.hang with dump := some { d with
          left := rest, readAt := frameTime s,
          entries := d.entries ++ [{ unit := u, status := 3, offset := 0, length := 0, crc := 0 }] } } s
      else s
    | [] => s
  | none => s

/-- A reset is applied at a level. -/
def applyReset (r : ResetRun) (s : State) : State :=
  let r := { r with at_ := unitTime s r.unit }
  wakeCovered r (abandonRead r (setHang { s.hang with
    resets := s.hang.resets.filter (fun x => x.unit != r.unit) ++ [r]
    levelReached := BitVec.ofNat 2 r.level } s))

def execUnitReset (c : Cmd) (s : State) : Host.Outcome State Fault Refusal :=
  let u := cmdUnit c
  let level := param c 18 1 0 2
  runCmd descUnitReset c ((level == 3, .opcode) :: resetFails s u level) s fun s =>
    applyReset { unit := u, level := level, replay := param c 18 1 2 1 == 1, at_ := 0, cmd := some (cmdRef c) } s

/-! ## Isolation (R487, R488) -/

/-- Classes an isolation may name. -/
def isolable (u : Nat) : Bool :=
  match classOf u with
  | 0 | 5 => true
  | 1 => decide (instOf u < 8)
  | 2 => decide (instOf u < 4)
  | 4 => decide (instOf u < 2)
  | _ => false

/-- A skein has work on a processor: an entry being fetched, or a command that waits or executes there. -/
def skeinWorks (s : State) (u : Nat) (r : SkeinRef) : Bool :=
  let k := skeinOf s r
  k.fetching || midCommand k || k.staged.isSome || s.jcq.dispatched.any fun d => d.unit == u && d.cmd.skein == r

/-- The context of a queue pair's first operation, by its key; 0 with none. -/
def qpCtxOf (s : State) (q : Nat) : Nat :=
  match opsOf s q with
  | o :: _ => (region s (keyIndex o.lkey)).ctx.toNat
  | [] => 0

/-- The objects with work on a unit, as (OTYPE, object, context, partition). -/
def workOn (s : State) (u : Nat) : List (Nat × Nat × Nat × Nat) :=
  let d := dieOf u
  let i := instOf u
  let sk (r : SkeinRef) : Nat × Nat × Nat × Nat :=
    (2, (match r with | .ord g => g | .admin _ => 0xFFFFFF), (skeinOf s r).ring.bufCtx.toNat, skeinPart s r)
  match classOf u with
  | 0 => ((procSkeins s (4 * d + i)).filter (skeinWorks s u)).map sk
  | 1 => ((engineQps s u).filter (qpBusy s)).map fun q => (1, q, qpCtxOf s q, qpPart s q)
  | 2 => (s.red.comm.filter fun c => c.2.ops.any fun o => o.done.isNone && o.engines.contains (4 * d + i)).map fun c =>
      (3, c.1, c.2.ctx, c.2.part)
  | 4 => (s.cip.running.filter fun r => r.1 == 2 * d + i).map fun r => match r.2.work with
      | .packet q _ => (1, q, qpCtxOf s q, qpPart s q)
      | .command c _ => (2, (jobOwner r.2).2, param c 24 2 0 16, c.part)
  | 5 => ((bobLaunch s (32 * (d - 8) + i)).map fun l => (4, l.launchId.toNat, l.ctx, l.part)).toList
  | _ => []

/-- The suspects of a unit, in ascending order (step 2). -/
def findSuspects (s : State) (u : Nat) : List Suspect :=
  let ws := sortKey (fun (x : Nat × Nat × Nat × Nat) => x.1 * 2 ^ 24 + x.2.1) (workOn s u)
  ws.zipIdx.map fun x =>
    { otype := x.1.1, object := x.1.2.1, ctx := x.1.2.2.1, part := x.1.2.2.2, untested := decide (256 ≤ x.2) }

/-- A suspect still has the work it held. -/
def suspectBusy (s : State) (u : Nat) (x : Suspect) : Bool :=
  (workOn s u).any fun w => w.1 == x.otype && w.2.1 == x.object && w.2.2.2 == x.part

/-- An entry of the result (R488). -/
def suspectBytes (x : Suspect) : List Byte :=
  leBytes 4 (x.object + 2 ^ 24 * x.otype + 2 ^ 27 * b2n x.guilty + 2 ^ 28 * b2n x.untested) ++ leBytes 4 (x.ctx + 2 ^ 16 * x.part)

/-- The isolation ends: entries written, the mode restored, held work released (step 6). -/
def endIsolation (i : Isolation) (s : State) : State :=
  let s := leaveRecovery (setHang { s.hang with iso := none } s)
  let bs := (i.suspects.take (i.len / 8)).flatMap suspectBytes
  let (s, st) := if bs = [] then (s, Status.ok) else bufWrite frameServices i.part i.bufCtx i.bufPa bs s
  let s := if classOf i.unit = 4 then schedule s else s
  completeRef i.cmd st (if st = .ok then [i.suspects.length, (i.suspects.filter (·.guilty)).length] else []) frameServices s

/-- The next suspect's replay begins; after the last single test the isolation ends, and the rest run together. -/
def nextSuspect (i : Isolation) (s : State) : State :=
  let n := match i.cur with | some k => k + 1 | none => 0
  if n ≥ min 256 i.suspects.length then endIsolation i s
  else setHang { s.hang with iso := some { i with cur := some n, at_ := unitTime s i.unit, items := workItems s i.unit } } s

/-- Suspects that have made progress are cleared, one after the other. -/
def isoCheckFor : Nat → State → State
  | 0, s => s
  | n + 1, s =>
    match s.hang.iso with
    | none => s
    | some i =>
      match i.cur.bind fun k => i.suspects[k]? with
      | none => s
      | some x =>
        if x.guilty || (suspectBusy s i.unit x && workItems s i.unit == i.items) then s
        else isoCheckFor n (nextSuspect i s)

def isoCheck (s : State) : State := isoCheckFor 257 s

/-- The work of a guilty suspect completes with TIMEOUT, and the object fails (step 5). -/
def condemn (u : Nat) (x : Suspect) (s : State) : State :=
  let ends_ (rs : List CmdRef) (s : State) : State := rs.foldl (fun s r => completeRef r .timeout [] u s) s
  match x.otype with
  | 1 =>
    let gone (o : SendOp) : SendOp := { o with cmd := none, closed := true, failed := some .timeout }
    let ops := opsOf s x.object
    let s := ends_ (ops.filterMap (·.cmd)) s
    qpFails x.object .timeout none none (qpOf s x.object).sndUna (ops.foldl (fun s o => setOp (gone o) s) s)
  | 2 =>
    let r : SkeinRef := if x.object = 0xFFFFFF then .admin x.part else .ord x.object
    let refs := (s.jcq.dispatched.filter fun d => d.unit == u && d.cmd.skein == r).map fun d => cmdRef d.cmd
    let js := (s.cip.running.filter fun j => cipherCore j.1 == u).map (·.2)
    let s := { s with cip := { s.cip with running := s.cip.running.filter fun j => cipherCore j.1 != u } }
    let s := schedule (js.foldl (endJob .timeout) s)
    let staged := (skeinOf s r).staged
    let s := putSkein r { skeinOf s r with staged := none } s
    let s := match staged with | some c => complete c .timeout [] u s | none => s
    let s := if (skeinOf s r).fetching || midCommand (skeinOf s r) then dropFetch r (untrack (.skeinEntry r) s) else s
    skeinError r .timeout (ends_ refs (abandon (fun c => refs.contains c) false s))
  | 3 =>
    let c := commOf s x.object
    let s := (c.ops.filter fun o => o.done.isNone).foldl (fun s o => endRedOp x.object o .timeout (redWords c o none) s) s
    commLost x.object none none false .timeout s
  | _ =>
    match s.bob.launch.find? fun l => l.part == x.part && l.launchId.toNat == x.object with
    | some l => stopLaunch l.id .timeout none 0 s
    | none => s

/-- ISOLATION_SUSPECT_TIMEOUT: the suspect under test has made no progress within `ISO_TMO_MS`. -/
def suspectTimeout (s : State) : State :=
  let s := isoCheck s
  match s.hang.iso with
  | none => s
  | some i =>
    match i.cur.bind fun k => i.suspects[k]? with
    | none => s
    | some x =>
      if x.guilty || decide ((unitTime s i.unit - i.at_).toNat < i.tmoMs * 1000000) then s
      else
        let mark (y : Suspect) : Suspect := if y = x then { y with guilty := true } else y
        let s := setHang { s.hang with iso := some { i with suspects := i.suspects.map mark } } s
        applyReset { unit := i.unit, level := 0, replay := true, at_ := 0, iso := true } (condemn i.unit x s)

def execIsolationSuspectTimeout (s : State) : Host.Outcome State Fault Refusal := ends s (reedNotice (suspectTimeout s))

def execHangIsolate (c : Cmd) (s : State) : Host.Outcome State Fault Refusal :=
  let u := cmdUnit c
  let tmo := param c 18 2 0 16
  runCmd descHangIsolate c
    [(unitArgBad s u, .bounds), (!isolable u, .denied), (fenced s u, .fenced), (resetBusy s u, .busy),
     (tmo == 0 || decide (tmo > 1000) || cmdLength c % 8 != 0, .lenRange)] s fun s =>
      let i : Isolation :=
        { unit := u, tmoMs := tmo, cmd := cmdRef c, part := c.part, bufCtx := param c 22 2 0 16,
          bufPa := fieldLE c.packet 24 8, len := cmdLength c }
      let s := enterRecovery s
      applyReset { unit := u, level := 0, replay := true, at_ := 0, iso := true } (setHang { s.hang with iso := some i } s)

/-! ## Crash dumps (R489, R490) -/

/-- Every unit a dump examines: all but die 39's. -/
def dumpList : List Nat := allUnits.filter fun u => dieOf u != 39

def noEntry (u st : Nat) : DumpEntry := { unit := u, status := st, offset := 0, length := 0, crc := 0 }

def entryBytes (e : DumpEntry) : List Byte :=
  leBytes 2 e.unit ++ leBytes 1 e.status ++ leBytes 1 0 ++ leBytes 4 e.offset ++ leBytes 4 e.length ++ leBytes 4 e.crc

/-- The header of a dump of `total` bytes. -/
def dumpHeader (d : DumpRun) (seq total : Nat) (fin : Word64) : List Byte :=
  let b := leBytes 4 0x504D5544 ++ leBytes 2 1 ++ leBytes 2 d.entries.length ++ leBytes 8 d.start.toNat ++
    leBytes 8 fin.toNat ++ leBytes 4 seq ++ leBytes 1 d.cause ++ leBytes 1 d.mode ++
    leBytes 2 (d.entries.filter fun e => e.status != 0).length ++ leBytes 8 total ++ leBytes 20 0
  b ++ leBytes 4 (crc32c b)

/-- Bytes written line by line: a line whose stack is out of service is lost. -/
def dumpWrite (off : Nat) : List (List Byte) → State → State
  | [], s => s
  | b :: bs, s => dumpWrite (off + 64) bs (spoolWrite frameServices 0 off b s).1

/-- A package reset begins 1 µs after it is requested. -/
def requestPkgReset (s : State) : State := { s with fw := { s.fw with pkgReset := some (frameTime s) } }

/-- What was asked for after the dump (R485, R490). -/
def afterDump (a : Option (Nat × Nat × Bool)) (s : State) : State :=
  match a with
  | none => s
  | some (u, level, replay) =>
    if level = 3 then requestPkgReset s
    else
      match firstFail (resetFails s u level) with
      | some _ => s
      | none => applyReset { unit := u, level := level, replay := replay, at_ := 0 } s

/-- After the last unit the dump is written and kept, and its command completes. -/
def endDump (d : DumpRun) (s : State) : State :=
  let data := d.data.flatten
  let total := 64 + 16 * d.entries.length + data.length
  let seq := s.hang.dumpSeq + 1
  let bytes := dumpHeader d seq.toNat total (frameTime s) ++ d.entries.flatMap entryBytes ++ data
  let s := dumpWrite 0x3F000000 (pieces 64 (ceilDiv total 64) bytes) s
  let unread := (d.entries.filter fun e => e.status != 0).length
  let s := setHang { s.hang with
    dump := none, dumpSeq := seq, dumpTotal := total, dumpUnits := d.entries.length, dumpValid := true,
    dumpCopied := false } s
  let s := match d.cmd with
    | some r => completeRef r .ok [d.entries.length - unread, unread, total] frameServices s
    | none => s
  afterDump d.after s

/-- Units that are not read are passed over: hung, absent, or in reset. -/
def skipUnits : Nat → DumpRun → State → State
  | 0, d, s => setHang { s.hang with dump := some d } s
  | n + 1, d, s =>
    match d.left with
    | [] => endDump d s
    | u :: rest =>
      let skip (st : Nat) : State := skipUnits n { d with left := rest, entries := d.entries ++ [noEntry u st] } s
      if !diePresent s (dieOf u) then skip 4
      else if tget false s.hang.hung u then skip 1
      else if inReset s u then skip 3
      else setHang { s.hang with dump := some { d with readAt := frameTime s } } s

def dumpGoesOn (d : DumpRun) (s : State) : State := skipUnits (d.left.length + 1) d s

/-- A dump may replace the one that is kept. -/
def dumpAllowed (s : State) (force : Bool) : Bool := !s.hang.dumpValid || s.hang.dumpCopied || force

def startDump (cause : Nat) (cmd : Option CmdRef) (after : Option (Nat × Nat × Bool)) (s : State) : State :=
  dumpGoesOn { cause := cause, mode := runMode s, start := frameTime s, left := dumpList, cmd := cmd, after := after } s

/-- HANG_DUMP: it waits while another dump is being taken, and behind those that came before (R120). -/
def execHangDump (c : Cmd) (s : State) : Host.Outcome State Fault Refusal :=
  let same (x : Cmd) : Bool := fieldLE x.packet 0 2 == descHangDump.code
  runOrdered descHangDump c (s.hang.dump.isSome || (heldBefore c s).any same)
    [(!dumpAllowed s (param c 16 1 0 1 == 1), .busy)] s fun s => startDump 0 (some (cmdRef c)) none s

/-- DUMP_UNIT_READ_DONE: the unit being read yields its state, at most 16 KiB. -/
def dumpRead (bytes : List Byte) (s : State) : State :=
  match s.hang.dump with
  | none => s
  | some d =>
    match d.left with
    | [] => s
    | u :: rest =>
      let bs := bytes.take 16384
      let off := 64 + 16 * dumpList.length + d.data.flatten.length
      dumpGoesOn { d with
        left := rest, data := d.data ++ [bs],
        entries := d.entries ++ [{ unit := u, status := 0, offset := off, length := bs.length, crc := crc32c bs }] } s

def execDumpUnitReadDone (bytes : List Byte) (s : State) : Host.Outcome State Fault Refusal := ends s (dumpRead bytes s)

def markHung (us : List Nat) (s : State) : State :=
  setHang { s.hang with hung := us.foldl (fun t u => tset false t u true) s.hang.hung } s

/-- DUMP_UNIT_TIMEOUT: 10 µs have passed since the read began. -/
def dumpTimeout (s : State) : State :=
  match s.hang.dump with
  | none => s
  | some d =>
    match d.left with
    | [] => s
    | u :: rest =>
      if (frameTime s - d.readAt).toNat < 10000 then s
      else dumpGoesOn { d with left := rest, entries := d.entries ++ [noEntry u 2] } (markHung [u] s)

def execDumpUnitTimeout (s : State) : Host.Outcome State Fault Refusal := ends s (dumpTimeout s)

/-- DUMP_COPY: the kept dump goes to the buffer; one too small for it learns how long it is. -/
def execDumpCopy (c : Cmd) (s : State) : Host.Outcome State Fault Refusal :=
  let unit := frameServices
  runCmd descDumpCopy c [(!s.hang.dumpValid, .busy)] s fun s =>
    if cmdLength c < s.hang.dumpTotal then complete c .bounds [s.hang.dumpTotal] (procUnit s c) s
    else
      match spoolRead unit 0 0x3F000000 s.hang.dumpTotal s with
      | (s, .ok, bs) =>
        let (s, st) := bufWrite unit c.part (param c 22 2 0 16) (fieldLE c.packet 24 8) bs s
        if st = .ok then complete c .ok [bs.length] unit (setHang { s.hang with dumpCopied := true } s)
        else complete c st [] unit s
      | (s, st, _) => complete c st [] unit s

/-! ## The steps of a reset (R482 to R484) -/

def findReset (s : State) (u : Nat) : Option ResetRun := s.hang.resets.find? fun r => r.unit == u

def putReset (r : ResetRun) (s : State) : State :=
  setHang { s.hang with resets := s.hang.resets.map fun x => if x.unit = r.unit then r else x } s

/-- RESET_REACHED: every unit of the domain has stopped. The first reset of an isolation makes the suspects. -/
def resetReached (u : Nat) (s : State) : State :=
  match findReset s u with
  | none => s
  | some r =>
    let us := coveredUnits s r
    if r.reached || us.any (domainSleeps s) then s
    else
      let s := putReset { r with reached := true } s
      let s := match s.hang.iso with
        | some i => if r.iso && i.cur.isNone then setHang { s.hang with iso := some { i with suspects := findSuspects s u } } s
          else s
        | none => s
      us.foldl (unitReset r.replay r.iso) s

def execResetReached (unit : Nat) (s : State) : Host.Outcome State Fault Refusal := ends s (reedNotice (resetReached unit s))

/-- The channels of a die start afresh after a level 2 reset. -/
def freshChannels (d : Nat) (s : State) : State :=
  let keep (e : Nat × Nat) : Bool := e.1 / 512 != d
  { s with weft := { s.weft with spent := s.weft.spent.filter keep, buffered := s.weft.buffered.filter keep
                                 waiting := s.weft.waiting.filter fun w => w.lane.die != d } }

/-- RESET_LEFT: the domain is ready for work again; the command completes, or the isolation goes on. -/
def resetLeft (u : Nat) (s : State) : State :=
  match findReset s u with
  | none => s
  | some r =>
    if !r.reached then s
    else
      let us := coveredUnits s r
      let s := setHang { s.hang with resets := s.hang.resets.filter (fun x => x.unit != u)
                                     hung := s.hang.hung.filter fun e => !us.contains e.1 } s
      let s := us.foldl (fun s u => islandReset u s) s
      let s := if r.level = 2 then freshChannels (dieOf u) s else s
      let s := if us.any fun u => classOf u == 4 then schedule s else s
      let s := if r.raised then leaveRecovery s else s
      let s := match r.cmd with
        | some c => completeRef c .ok [r.level] frameServices s
        | none => s
      match s.hang.iso with
      | some i => if r.iso then isoCheck (nextSuspect i s) else s
      | none => s

def execResetLeft (unit : Nat) (s : State) : Host.Outcome State Fault Refusal := ends s (resetLeft unit s)

/-- An escalation ends an isolation with TIMEOUT (R487). -/
def dropIsolation (r : ResetRun) (s : State) : State :=
  match s.hang.iso with
  | some i => if r.iso then completeRef i.cmd .timeout [] frameServices (setHang { s.hang with iso := none } s) else s
  | none => s

/-- Step 4 of R484: only a package reset is left. -/
def packageNeeded (r : ResetRun) (s : State) : State :=
  let s := setHang { s.hang with pkgNeeded := true, levelReached := 3 } s
  let s := match r.cmd with
    | some c => completeRef c .timeout [3] frameServices s
    | none => s
  if s.hang.dump.isNone && dumpAllowed s false then startDump 2 none none s
  else setHang { s.hang with dumpSkipped := true } s

/-- RESET_ESCALATION: 1 ms after a level was applied its domain has not stopped; `stuck` are the units that have not. -/
def resetEscalation (u : Nat) (stuck : List Nat) (s : State) : State :=
  match findReset s u with
  | none => s
  | some r =>
    let us := coveredUnits s r
    if r.reached || us.any (domainSleeps s) || (s.hang.pkgNeeded && r.level == 2 && r.raised) ||
        decide ((unitTime s u - r.at_).toNat < 1000000) then s
    else
      let s := enterRecovery s
      let s := markHung (if r.level = 1 then us.filter stuck.contains else us) s
      let s := setHang { s.hang with escalated := true } s
      if r.level < 2 then
        applyReset { r with level := r.level + 1, raised := true, iso := false } (dropIsolation r s)
      else packageNeeded r (putReset { r with raised := true, cmd := none } s)

def execResetEscalation (unit : Nat) (stuck : List Nat) (s : State) : Host.Outcome State Fault Refusal :=
  ends s (reedNotice (resetEscalation unit stuck s))

/-! ## FRM.RESET_CTL (R485, R490) -/

/-- A write of `FRM.RESET_CTL` by a requester class; none where it is refused (R125). -/
def resetCtl (cls v : Nat) (s : State) : Option State :=
  let u := bits v 0 16
  let level := bits v 16 2
  if level = 3 ∧ cls ∉ [0, 4, 5] then none
  else
    let a := some (u, level, bit v 18)
    if bit v 19 ∧ s.hang.dump.isNone ∧ dumpAllowed s false then some (startDump 1 none a s)
    else some (afterDump a s)

/-! ## COMMAND_COMPLETION (R103) -/

/-- COMMAND_COMPLETION: an outcome that waits is written to its completion queue; what waited for it goes on. -/
def commandCompletion (i : Nat) (s : State) : State :=
  match s.jcq.done[i]? with
  | none => s
  | some d =>
    let ok := d.status == .ok
    let u := ownerUnit s d.ref.skein
    let s := completionAt i s
    let s := bumpPart d.ref.part (if ok then 0 else 1) 1 (bump u (if ok then 3 else 4) 1 s)
    let s := if d.replayed then bump u 5 1 s else s
    let s := if classOf d.unit = 0 ∧ d.unit ≠ u then bump u 7 1 s else s
    restartCheck (freezeCheck (isoCheck (stopsDone d.ref (worked u 1 s))))

def execCommandCompletion (i : Nat) (s : State) : Host.Outcome State Fault Refusal := ends s (commandCompletion i s)

end Sys2Proof.Machine
end

