-- ==== Sys2Proof/Machine/RegBase.lean ====
section
/-! DEFINITION. Registers and their accesses: field types (R4), half accesses (R5), reserved encodings (R6) and conflict
records (R125, R126). The blocks' registers are in the files `Reg<Block>`. -/

namespace Sys2Proof.Machine

/-- A register: the unit that owns it (R125), its width, its value, what a write does (`none`: the write is refused) and
what a read changes. `acts` are the bits a 1 acts on (WO, W1C, W1S, ST): an upper half written alone leaves them alone in
the lower half (R5). A register no write changes ignores writes (R4). -/
structure Reg where
  unit : Nat
  wide : Bool := false
  acts : Nat := 0
  val : State → Nat
  wr : Requester → Nat → State → Option State := fun _ _ s => some s
  onRead : Requester → State → State := fun _ s => s

def ro (unit : Nat) (val : State → Nat) : Reg := { unit := unit, val := val }
def ro64 (unit : Nat) (val : State → Nat) : Reg := { unit := unit, wide := true, val := val }

/-- A register written whatever the requester; `bad` are its reserved encodings (R6) and further refusals. -/
def rw (unit : Nat) (acts : Nat) (val : State → Nat) (bad : Nat → State → Bool) (put : Nat → State → State) : Reg :=
  { unit := unit, acts := acts, val := val, wr := fun _ v s => if bad v s then none else some (put v s) }

def rw64 (unit : Nat) (acts : Nat) (val : State → Nat) (bad : Nat → State → Bool) (put : Nat → State → State) : Reg :=
  { rw unit acts val bad put with wide := true }

/-- A 32-bit register of ST bits. -/
def st (unit : Nat) (acts : Nat) (val : State → Nat) (put : Nat → State → State) : Reg :=
  rw unit acts val (fun _ _ => false) put

/-- A sticky bit after a write of 1 or 0 to it (R4). -/
def keepBit (b : Bool) (v i : Nat) : Bool := b && !bit v i

/-- Register `i` of an array whose elements are `stride` bytes apart: the index and the offset within the element. -/
def elem (off base stride n : Nat) : Option (Nat × Nat) :=
  if base ≤ off ∧ off < base + stride * n then some ((off - base) / stride, (off - base) % stride) else none

/-! ## Conflicts (R125, R126) -/

/-- A block's number. -/
def blockOf (addr : Nat) : Nat := addr / 2 ^ 20

def conflictOf (s : State) (b : Nat) : Conflict := tget {} s.regs.conflict b

def setConflict (b : Nat) (c : Conflict) (s : State) : State :=
  { s with regs := { s.regs with conflict := tset {} s.regs.conflict b c } }

/-- The first conflict since `SEEN` was cleared is recorded in full; later ones set `MULTI` (R125). -/
def noteConflict (unit addr : Nat) (cause : Bool) (who : Requester) (value : Nat) (s : State) : State :=
  let b := blockOf addr
  let c := conflictOf s b
  if c.seen then setConflict b { c with multi := true } s
  else setConflict b { seen := true, cause := cause, multi := false, offset := BitVec.ofNat 20 addr,
                       part := BitVec.ofNat 6 who.part, cls := BitVec.ofNat 4 who.cls, unit := BitVec.ofNat 16 unit,
                       value := BitVec.ofNat 64 value } s

/-- `CONFLICT` at +0 and +8. -/
def conflictWord (c : Conflict) : Nat :=
  b2n c.seen + 2 * b2n c.cause + 4 * b2n c.multi + 2 ^ 8 * c.offset.toNat + 2 ^ 28 * c.part.toNat +
    2 ^ 34 * c.cls.toNat + 2 ^ 38 * c.unit.toNat

/-- A write of `CONFLICT`: 1 in `SEEN` clears the whole record, a 1 in any other bit clears that bit (R4, R126). -/
def writeConflict (b v : Nat) (s : State) : State :=
  let c := conflictOf s b
  if bit v 0 then setConflict b {} s
  else setConflict b { c with
    cause := keepBit c.cause v 1
    multi := keepBit c.multi v 2
    offset := c.offset &&& ~~~ BitVec.ofNat 20 (bits v 8 20)
    part := c.part &&& ~~~ BitVec.ofNat 6 (bits v 28 6)
    cls := c.cls &&& ~~~ BitVec.ofNat 4 (bits v 34 4)
    unit := c.unit &&& ~~~ BitVec.ofNat 16 (bits v 38 16) } s

/-- The two registers of `CONFLICT`, at 0xF_FF00 of each block (R126). -/
def conflictReg (unit b off : Nat) : Option Reg :=
  match off with
  | 0xFFF00 => some { unit := unit, wide := true, acts := 2 ^ 64 - 1, val := fun s => conflictWord (conflictOf s b)
                      wr := fun _ v s => some (writeConflict b v s) }
  | 0xFFF08 => some { unit := unit, wide := true, acts := 2 ^ 64 - 1, val := fun s => (conflictOf s b).value.toNat
                      wr := fun _ v s => some (
                        let c := conflictOf s b
                        setConflict b { c with value := c.value &&& ~~~ BitVec.ofNat 64 v } s) }
  | _ => none

/-- A write the arbiter admits. Another requester's write within 1 000 counts before it loses (R125). -/
def admitWrite (r : Reg) (addr : Nat) (who : Requester) (value : Nat) (s : State) : State :=
  let now := unitTime s r.unit
  let s := match s.regs.lastWrites.find? fun w => w.addr == addr with
    | some w => if w.who ≠ who ∧ (now - w.time).toNat ≤ 1000 then noteConflict r.unit addr false w.who w.value s else s
    | none => s
  { s with regs := { s.regs with
    lastWrites := { addr := addr, who := who, time := now, value := value } ::
      s.regs.lastWrites.filter fun w => w.addr != addr } }

/-- A whole write of a register: refused and recorded, or admitted with its effect. -/
def writeWhole (r : Reg) (addr : Nat) (who : Requester) (value : Nat) (s : State) : State :=
  match r.wr who value s with
  | none => noteConflict r.unit addr true who value s
  | some t => admitWrite r addr who value t

/-! ## Half accesses (R5) -/

def latched (l : List HalfLatch) (who : Requester) (addr : Nat) : Option Nat :=
  (l.find? fun h => h.who == who && h.addr == addr).map (·.value)

def unlatch (l : List HalfLatch) (who : Requester) (addr : Nat) : List HalfLatch :=
  l.filter fun h => !(h.who == who && h.addr == addr)

/-- A read of the lower half latches the upper half; a read of the upper half returns it, or the current one. -/
def readHalf (r : Reg) (addr : Nat) (who : Requester) (upper : Bool) (s : State) : State × Nat :=
  let rest := unlatch s.regs.readLatch who addr
  if upper then
    let v := (latched s.regs.readLatch who addr).getD (r.val s / 2 ^ 32)
    ({ s with regs := { s.regs with readLatch := rest } }, v)
  else
    ({ s with regs := { s.regs with
      readLatch := { who := who, addr := addr, value := r.val s / 2 ^ 32 } :: rest } }, r.val s % 2 ^ 32)

/-- The lower half of a register as it is kept when the upper half is written alone: no bit of it acts. -/
def keptLow (r : Reg) (s : State) : Nat := (r.val s % 2 ^ 32) &&& ((2 ^ 32 - 1) ^^^ (r.acts % 2 ^ 32))

/-- A lower half waits for the upper half; the upper half takes effect with it, or with the current lower half. -/
def writeHalf (r : Reg) (addr : Nat) (who : Requester) (upper : Bool) (value : Nat) (s : State) : State :=
  let rest := unlatch s.regs.writeHalf who addr
  if upper then
    let low := (latched s.regs.writeHalf who addr).getD (keptLow r s)
    writeWhole r addr who (low + 2 ^ 32 * value) { s with regs := { s.regs with writeHalf := rest } }
  else
    { s with regs := { s.regs with writeHalf := { who := who, addr := addr, value := value } :: rest } }

end Sys2Proof.Machine
end

