-- ==== Sys2Proof/Machine/RegMem.lean ====
section
/-! DEFINITION. The registers of the Jacquard processors (JCQ, chapters 4 and 14), of Spool memory (SPL, chapter 2) and of the
Heddles (HDL, chapter 3). -/

namespace Sys2Proof.Machine

/-- `Σ 2^i` over the numbers below `n` for which `p` holds. -/
def bitmap (n : Nat) (p : Nat → Bool) : Nat := (List.range n).foldl (fun a i => a + 2 ^ i * b2n (p i)) 0

/-- What the quota registers of a range kind read: partition 0's read `FIRST` 0 and the total (R399). -/
def quotaRange (s : State) (kind p : Nat) : ResRange :=
  if p = 0 then ⟨0, if kind = 2 then 1048575 else kindTotal (active s) kind⟩ else resOf s kind p

/-! ## JCQ -/

def jcqCapacity (s : State) : Nat :=
  let map := bitmap 32 fun n => inService s (jacquard n)
  map + 2 ^ 32 * (if map = 0 then 0 else 16384)

/-- The words of `JCQ.ADMIN[p]` (R117). -/
def adminReg (p o : Nat) : Option Reg :=
  if o ∈ [0x00, 0x08, 0x10, 0x18, 0x1C, 0x20] then
    some { unit := jacquard (p % 32), wide := decide (o < 0x18), acts := if o = 0x1C then 16 else 0
           val := fun s => adminRead s p o, wr := fun _ v s => adminWrite p o v s }
  else none

def partCode : PartState → Nat
  | .opened => 0 | .freezing => 1 | .frozen => 2 | .clearing => 3

/-- `JCQ.PART[p]` (R403, R398). -/
def partReg (p o : Nat) : Option Reg :=
  let u := jacquard (p % 32)
  match o with
  | 0x40 => some (st u 4 (fun s => partCode (partState s p) + 4 * b2n (tget false s.parts.freezeAbort p))
      fun v s => if bit v 2 then
        { s with parts := { s.parts with freezeAbort := tset false s.parts.freezeAbort p false } } else s)
  | 0x44 => some (ro u fun s => let r := quotaRange s 0 p; r.first + 2 ^ 15 * r.count)
  | 0x48 => some (ro u fun s => (quotaRange s 2 p).first)
  | 0x4C => some (ro u fun s => (quotaRange s 2 p).count)
  | _ => none

def jcqReg (off : Nat) : Option Reg :=
  let u := jacquard 0
  match off with
  | 0x0000 => some (ro64 u jcqCapacity)
  | 0x0010 => some (st u 7
      (fun s => b2n s.jcq.dbRangeSeen + 2 * b2n s.jcq.skeinErrSeen + 4 * b2n s.jcq.eqOverflowSeen)
      fun v s => { s with jcq := { s.jcq with
        dbRangeSeen := keepBit s.jcq.dbRangeSeen v 0
        skeinErrSeen := keepBit s.jcq.skeinErrSeen v 1
        eqOverflowSeen := keepBit s.jcq.eqOverflowSeen v 2 } })
  | 0x0018 => some (ro64 u fun s => s.jcq.dbDrop.toNat)
  | 0x0020 => some (ro64 u fun s => s.jcq.cqLost.toNat)
  | _ =>
  match elem off 0x20000 0x100 64 with
  | some (p, o) => if o < 0x40 then adminReg p o else partReg p o
  | none =>
  match elem off 0x40000 16 16384 with
  | some (g, o) => if o % 4 = 0 then some (ro (jacquard (g % 32)) fun s => fieldLE (skeinState s g) o 4) else none
  | none => none

/-! ## SPL -/

def countGot (s : State) (state : Nat) : Nat :=
  let listed := s.spl.got.countP fun e => gotState e.2.toNat == state
  if state = gotFree then listed + (8192 - s.spl.got.length) else listed

/-- `SPL.CAPACITY`. DESIGN CHOICE: its fields reset to 0 though an entry of 0 reads FREE, so FREE granules are counted once a
start has set up the table, that is while some granule is DEVICE (R55). -/
def splCapacity (s : State) : Nat :=
  bitmap 16 (fun n => inService s (controller n)) + 2 ^ 16 * countGot s gotDevice +
    2 ^ 32 * (if countGot s gotDevice = 0 then 0 else countGot s gotFree)

/-- The global registers, from 0x8_0000. -/
def splGlobal (off : Nat) : Option Reg :=
  let u := controller 0
  match off with
  | 0x0000 => some (ro64 u splCapacity)
  | 0x0010 => some (rw u 0 (fun s => s.spl.periodMin.toNat + 2 ^ 14 * b2n s.spl.scrubEnable)
      (fun v _ => decide (bits v 0 14 < 60) || decide (bits v 0 14 > 10080))
      fun v s => { s with spl := { s.spl with periodMin := BitVec.ofNat 14 v, scrubEnable := bit v 14 } })
  | 0x0014 => some (rw u 0 (fun s => s.spl.share.toNat) (fun v _ => decide (bits v 0 3 > 5))
      fun v s => { s with spl := { s.spl with share := BitVec.ofNat 3 v } })
  | 0x0018 => some (rw u 0 (fun s => s.spl.biTmoUs.toNat) (fun v _ => bits v 0 6 == 0 || decide (bits v 0 6 > 7))
      fun v s => { s with spl := { s.spl with biTmoUs := BitVec.ofNat 6 v } })
  | 0x0020 => some (st u 0x3F
      (fun s => b2n s.spl.ceSeen + 2 * b2n s.spl.ueSeen + 4 * b2n s.spl.ctxDenySeen + 8 * b2n s.spl.hostDenySeen +
        16 * b2n s.spl.biTimeout + 32 * b2n s.spl.pinSpareFull)
      fun v s => { s with spl := { s.spl with
        ceSeen := keepBit s.spl.ceSeen v 0
        ueSeen := keepBit s.spl.ueSeen v 1
        ctxDenySeen := keepBit s.spl.ctxDenySeen v 2
        hostDenySeen := keepBit s.spl.hostDenySeen v 3
        biTimeout := keepBit s.spl.biTimeout v 4
        pinSpareFull := keepBit s.spl.pinSpareFull v 5 } })
  | 0x0028 => some (ro64 u fun s => s.spl.ctxDeny.toNat)
  | _ =>
  match elem off 0x10000 4 8192 with
  | some (g, 0) => some (ro u fun s => (tget 0 s.spl.got g).toNat)
  | _ => none

def pinWord (m : PinMark) : Nat :=
  m.pinA.toNat + 2 ^ 6 * b2n m.aValid + 2 ^ 8 * m.pinB.toNat + 2 ^ 14 * b2n m.bValid

/-- The registers of a stack. DESIGN CHOICE: a controller on an absent die is treated as fenced (R48), so `FENCED` reads 1 for it
once `DIE_PRESENT` is written, though no unit has been fenced. -/
def splStack (n o : Nat) : Option Reg :=
  let u := controller n
  match o with
  | 0x000 => some (st u 4
      (fun s => b2n (inService s u) + 2 * b2n (fenced s u || dieOut s (8 + n)) + 4 * b2n (tget false s.spl.passDone n) +
        2 ^ 16 * (tget 0 s.spl.passes n).toNat)
      fun v s => if bit v 2 then { s with spl := { s.spl with passDone := tset false s.spl.passDone n false } } else s)
  | 0x008 => some (ro64 u fun s => (tget 0 s.spl.scrubPos n).toNat)
  | 0x010 => some (ro64 u fun s => (tget 0 s.spl.ceCount n).toNat)
  | 0x018 => some (ro64 u fun s => (tget 0 s.spl.ueCount n).toNat)
  | _ =>
  match elem o 0x100 4 64 with
  | some (c, 0) => some (rw u 0 (fun s => pinWord (pinMark s n c))
      (fun v _ => decide (bits v 0 6 > 35) || decide (bits v 8 6 > 35))
      fun v s => { s with spl := { s.spl with
        pinMark := tset {} s.spl.pinMark (n * 64 + c)
          { pinA := BitVec.ofNat 6 v, aValid := bit v 6, pinB := BitVec.ofNat 6 (bits v 8 6), bValid := bit v 14 } } })
  | _ => none

def splReg (off : Nat) : Option Reg :=
  match elem off 0 0x8000 16 with
  | some (n, o) => splStack n o
  | none => splGlobal (off - 0x80000)

/-! ## HDL -/

def pfqStatus (s : State) (p : Nat) : Nat :=
  let q := pfqOf s p
  (outstandingFaults s p).length + 2 ^ 24 * q.log2.toNat + 2 ^ 29 * b2n (s.hdl.held.any fun h => h.1 == p) +
    2 ^ 30 * b2n q.overflowSeen + 2 ^ 32 * q.nextSeq.toNat

def hdlReg (off : Nat) : Option Reg :=
  let u := heddle 0
  match off with
  | 0x0000 => some (rw u 0 (fun s => s.hdl.backoffUs.toNat) (fun v _ => bits v 0 8 == 0)
      fun v s => { s with hdl := { s.hdl with backoffUs := BitVec.ofNat 8 v } })
  | 0x0010 => some (st u 7
      (fun s => b2n s.hdl.tableErrSeen + 2 * b2n s.hdl.holderFenced + 4 * b2n s.hdl.pfqOverflow)
      fun v s => { s with hdl := { s.hdl with
        tableErrSeen := keepBit s.hdl.tableErrSeen v 0
        holderFenced := keepBit s.hdl.holderFenced v 1
        pfqOverflow := keepBit s.hdl.pfqOverflow v 2 } })
  | _ =>
  match elem off 0x10000 0x1000 8 with
  | some (h, 0) => some (ro (heddle h) fun s =>
      b2n (inService s (heddle h)) + 2 * b2n (fenced s (heddle h)) +
        2 ^ 16 * (s.hdl.pend.countP fun f => f.heddle == h))
  | _ =>
  match elem off 0x20000 0x40 64 with
  | some (p, 0) => some (rw64 u (2 ^ 30) (fun s => pfqStatus s p) (fun _ _ => false)
      fun v s => setPfq p { pfqOf s p with overflowSeen := keepBit (pfqOf s p).overflowSeen v 30 } s)
  | _ =>
  match elem off 0x40000 4 65536 with
  | some (c, 0) => some (ro u fun s => (tget 0 s.hdl.ctxPart c).toNat + 2 ^ 6 * b2n (ctxDesc s c).enable)
  | _ => none

end Sys2Proof.Machine
end

