-- ==== Sys2Proof/Machine/RegEdge.lean ====
section
/-! DEFINITION. The registers of the links (LNK, chapter 11), of the Ethernet ports (ETH, chapter 12) and of the cipher complex
(CIP, chapter 13). -/

namespace Sys2Proof.Machine

/-! ## LNK -/

def lnkCfg (l : LnkState) : Nat :=
  l.accTmoUs.toNat + 2 ^ 6 * b2n l.autoRetrain + 2 ^ 7 * b2n l.failover + 2 ^ 8 * b2n l.allowHalf +
    2 ^ 16 * l.vfMsix.toNat

/-- Reserved encodings of `LNK.CFG`; `VF_MSIX` may not change while VF Enable is set on either port. -/
def badLnkCfg (v : Nat) (s : State) : Bool :=
  bits v 0 6 == 0 || decide (bits v 0 6 > 40) || bits v 16 12 == 0 || decide (bits v 16 12 > 2048) ||
    (bits v 16 12 != s.lnk.vfMsix.toNat && ((hport s 0).vfEnable || (hport s 1).vfEnable))

def putLnkCfg (v : Nat) (l : LnkState) : LnkState :=
  { l with
    accTmoUs := BitVec.ofNat 6 v
    autoRetrain := bit v 6
    failover := bit v 7
    allowHalf := bit v 8
    vfMsix := BitVec.ofNat 12 (bits v 16 12) }

def lnkErr (l : LnkState) : Nat :=
  b2n l.accCrcSeen + 2 * b2n l.accDownSeen + 4 * b2n l.accDenySeen + 8 * b2n l.hostwinDenySeen +
    16 * b2n l.hostWbLost + 32 * b2n l.p2pErrSeen + 64 * b2n l.cxlDownSeen + 128 * b2n l.vfDenySeen

def writeLnkErr (v : Nat) (l : LnkState) : LnkState :=
  { l with
    accCrcSeen := keepBit l.accCrcSeen v 0
    accDownSeen := keepBit l.accDownSeen v 1
    accDenySeen := keepBit l.accDenySeen v 2
    hostwinDenySeen := keepBit l.hostwinDenySeen v 3
    hostWbLost := keepBit l.hostWbLost v 4
    p2pErrSeen := keepBit l.p2pErrSeen v 5
    cxlDownSeen := keepBit l.cxlDownSeen v 6
    vfDenySeen := keepBit l.vfDenySeen v 7 }

/-- `LNK.APORT[k]`. -/
def aportReg (k o : Nat) : Option Reg :=
  let u := accPort k
  match o with
  | 0x00 => some (ro u fun s =>
      let a := aport s k
      aportCode a.state + 2 ^ 3 * b2n a.half + 2 ^ 4 * a.part.toNat + 2 ^ 16 * a.ctx.toNat)
  | 0x08 => some (ro64 u fun s => (aport s k).accId.toNat)
  | 0x10 => some (ro64 u fun s => (aport s k).crcErr.toNat)
  | 0x18 => some (ro64 u fun s => (aport s k).replays.toNat)
  | 0x20 => some (ro u fun s => (aport s k).downs.toNat)
  | 0x28 => some (ro64 u fun s => (aport s k).reqDeny.toNat)
  | _ => none

/-- `LNK.HPORT[x]`. -/
def hportReg (x o : Nat) : Option Reg :=
  let u := cxlPort x
  match o with
  | 0x00 => some (ro u fun s =>
      let h := hport s x
      b2n h.up + 2 * h.rate.toNat + 2 ^ 4 * h.width.toNat + 2 ^ 9 * b2n h.flit256 + 2 ^ 10 * b2n h.cacheEn +
        2 ^ 11 * b2n h.memEn + 2 ^ 12 * b2n h.vfEnable)
  | 0x08 => some (ro u fun s => (hport s x).modified.length)
  | 0x10 => some (ro64 u fun s => (hport s x).snoops.toNat)
  | 0x18 => some (ro64 u fun s => (hport s x).reqDeny.toNat)
  | 0x20 => some (ro u fun s => (hport s x).downs.toNat)
  | _ => none

def setPeerWin (w : Nat) (p : PeerWin) (s : State) : State :=
  { s with lnk := { s.lnk with peerWin := tset {} s.lnk.peerWin w p } }

def peerWord (p : PeerWin) : Nat :=
  b2n p.enable + 2 * b2n p.rd + 4 * b2n p.wr + 8 * b2n p.port + 2 ^ 4 * p.part.toNat + 2 ^ 10 * p.sizeLog2.toNat

/-- `LNK.PEERWIN[w]`: while it is enabled, only a write that clears `ENABLE` is accepted. -/
def peerReg (w o : Nat) : Option Reg :=
  let u := cxlPort 0
  match o with
  | 0x0 => some (rw64 u 0 (fun s => peerWord (peerWin s w))
      (fun v s => decide (bits v 10 6 < 12) || decide (bits v 10 6 > 48) || ((peerWin s w).enable && bit v 0))
      fun v s => setPeerWin w { peerWin s w with
        enable := bit v 0
        rd := bit v 1
        wr := bit v 2
        port := bit v 3
        part := BitVec.ofNat 6 (bits v 4 6)
        sizeLog2 := BitVec.ofNat 6 (bits v 10 6) } s)
  | 0x8 => some (rw64 u 0 (fun s => 2 ^ 12 * (peerWin s w).busBase.toNat) (fun _ s => (peerWin s w).enable)
      fun v s => setPeerWin w { peerWin s w with busBase := BitVec.ofNat 52 (bits v 12 52) } s)
  | _ => none

def hostWin (s : State) (i : Nat) : HostWin := tget {} s.lnk.hostWin i
def setHostWin (i : Nat) (h : HostWin) (s : State) : State :=
  { s with lnk := { s.lnk with hostWin := tset {} s.lnk.hostWin i h } }

/-- `LNK.HOSTWIN[p][w]` and `LNK.HOME[p]` (R333, R334). -/
def hostReg (p o : Nat) : Option Reg :=
  let u := cxlPort 0
  if o = 0x80 then
    some (rw u 0 (fun s => homePort s p) (fun _ _ => false)
      fun v s => { s with lnk := { s.lnk with home := tset false s.lnk.home p (bit v 0) } })
  else if o ≥ 0x80 then none
  else
    let i := p * 8 + o / 16
    match o % 16 with
    | 0 => some (rw64 u 0
        (fun s => let h := hostWin s i; b2n h.valid + 2 * b2n h.rd + 4 * b2n h.wr + 2 ^ 12 * h.base.toNat)
        (fun _ _ => false)
        fun v s => setHostWin i { hostWin s i with
          valid := bit v 0
          rd := bit v 1
          wr := bit v 2
          base := BitVec.ofNat 40 (bits v 12 40) } s)
    | 8 => some (rw64 u 0 (fun s => 2 ^ 12 * (hostWin s i).limit.toNat) (fun _ _ => false)
        fun v s => setHostWin i { hostWin s i with limit := BitVec.ofNat 40 (bits v 12 40) } s)
    | _ => none

def lnkReg (off : Nat) : Option Reg :=
  let u := accPort 0
  match off with
  | 0x0000 => some (rw u 0 (fun s => lnkCfg s.lnk) badLnkCfg fun v s => { s with lnk := putLnkCfg v s.lnk })
  | 0x0010 => some (st u 0xFF (fun s => lnkErr s.lnk) fun v s => { s with lnk := writeLnkErr v s.lnk })
  | 0x0018 => some (ro64 u fun s => s.lnk.vfDeny.toNat)
  | 0x0020 => some (ro64 u fun s => s.lnk.accLate.toNat)
  | _ =>
  match elem off 0x10000 0x40 8 with
  | some (k, o) => aportReg k o
  | none =>
  match elem off 0x20000 0x40 2 with
  | some (x, o) => hportReg x o
  | none =>
  match elem off 0x30000 0x20 16 with
  | some (w, o) => peerReg w o
  | none =>
  match elem off 0x40000 0x100 64 with
  | some (p, o) => hostReg p o
  | none => none

/-! ## ETH: ports -/

/-- A change of `MODE` needs every sub-port DISABLED (R362); a default that names a queue needs it enabled (R368). -/
def badPortCfg (k v : Nat) (s : State) : Bool :=
  (bits v 0 2 != portMode (ethp s k) && !(List.range 8).all fun i => (ethSub s k i).link == .disabled) ||
    bits v 4 2 == 3 || (bits v 4 2 == 1 && !rxqOn (ethRxq s k (bits v 6 6))) ||
    decide (bits v 24 14 < 1518)

def putPortCfg (k v : Nat) (s : State) : State :=
  modEthp k (fun p => { p with cfg := BitVec.ofNat 64 (bits v 0 23 + 2 ^ 24 * bits v 24 15) }) s

/-- A write of `PORT_CTL`: sub-ports start training or are disabled (R362), and `LOW_POWER` puts the port to sleep or wakes it
(R379, R380). -/
def putPortCtl (k v : Nat) (s : State) : State :=
  let s := if (ethp s k).enable = BitVec.ofNat 8 v then s else setEnables k (BitVec.ofNat 8 v) s
  if bit v 8 then enterLowPower k s else wakePort k s

def linkCode : EthLink → Nat
  | .disabled => 0 | .training => 1 | .up => 2 | .down => 3

def powerCode : EthPower → Nat
  | .active => 0 | .entering => 1 | .low => 2 | .waking => 3

def portState (s : State) (k : Nat) : Nat :=
  (List.range 8).foldl (fun a i => a + 2 ^ (2 * i) * linkCode (ethSub s k i).link) 0 +
    2 ^ 16 * powerCode (ethp s k).power

/-- A write of `PT_ADJ` adds a signed value to port time in one step (R377). -/
def adjustTime (k v : Nat) (s : State) : State := modEthp k (fun p => { p with ptime := p.ptime + BitVec.ofNat 64 v }) s

/-- A write of `PT_SNAP` captures port time and die time at one instant (R377). -/
def snapTime (k v : Nat) (s : State) : State :=
  if bit v 0 then modEthp k (fun p => { p with snapPort := p.ptime, snapDie := dieTime s (24 + k) }) s else s

/-- `PT_RATE` outside ±500 000 ppb. -/
def badRate (v : Nat) : Bool := decide (500000 < v % 2 ^ 32) && decide (v % 2 ^ 32 < 2 ^ 32 - 500000)

/-- Word `i` of a register wider than 64 bits. -/
def wordOf {w : Nat} (x : BitVec w) (i : Nat) : Nat := bits x.toNat (64 * i) 64
def putWord {w : Nat} (x : BitVec w) (i v : Nat) : BitVec w :=
  BitVec.ofNat w (x.toNat - 2 ^ (64 * i) * wordOf x i + 2 ^ (64 * i) * (v % 2 ^ 64))

/-- One of the 32 pre-colours of a word is reserved (R365). -/
def badColour (v : Nat) : Bool := (List.range 32).any fun d => bits v (2 * d) 2 == 3

/-- Wake registers accept no write while the port is not active (R379). -/
def wakeClosed (k : Nat) (s : State) : Bool := (ethp s k).power != .active

/-- The single registers of a port, to offset 0x2A0. -/
def portReg (k o : Nat) : Option Reg :=
  let u := ethPort k
  match o with
  | 0x000 => some (rw64 u 0 (fun s => (ethp s k).cfg.toNat) (badPortCfg k) (putPortCfg k))
  | 0x008 => some (rw u 0 (fun s => (ethp s k).enable.toNat + 2 ^ 8 * b2n (ethp s k).lowPower) (fun _ _ => false)
      (putPortCtl k))
  | 0x010 => some (ro u fun s => portState s k)
  | 0x100 => some (ro64 u fun s => (ethp s k).ptime.toNat)
  | 0x108 => some (rw64 u (2 ^ 64 - 1) (fun _ => 0) (fun _ _ => false) (adjustTime k))
  | 0x110 => some (rw u 0 (fun s => (ethp s k).rate.toNat) (fun v _ => badRate v)
      fun v s => modEthp k (fun p => { p with rate := BitVec.ofNat 32 v }) s)
  | 0x114 => some (rw u 1 (fun _ => 0) (fun _ _ => false) (snapTime k))
  | 0x118 => some (ro64 u fun s => (ethp s k).snapPort.toNat)
  | 0x120 => some (ro64 u fun s => (ethp s k).snapDie.toNat)
  | 0x2A0 => some (rw u 0 (fun s => (ethp s k).wakeCfg.toNat) (fun _ s => wakeClosed k s)
      fun v s => modEthp k (fun p => { p with wakeCfg := BitVec.ofNat 2 v }) s)
  | _ =>
  match elem o 0x40 8 8 with
  | some (i, 0) => some (rw64 u 0 (fun s => (ethSub s k i).mac.toNat) (fun _ _ => false)
      fun v s => setSub k i { ethSub s k i with mac := BitVec.ofNat 48 v } s)
  | _ =>
  match elem o 0x80 8 2 with
  | some (i, 0) => some (rw64 u 0 (fun s => wordOf (ethp s k).colour i) (fun v _ => badColour v)
      fun v s => modEthp k (fun p => { p with colour := putWord p.colour i v }) s)
  | _ =>
  match elem o 0x200 8 16 with
  | some (i, 0) => some (rw64 u 0 (fun s => wordOf (ethp s k).wakePat i) (fun _ s => wakeClosed k s)
      fun v s => modEthp k (fun p => { p with wakePat := putWord p.wakePat i v }) s)
  | _ =>
  match elem o 0x280 8 2 with
  | some (i, 0) => some (rw64 u 0 (fun s => wordOf (ethp s k).wakeMask i) (fun _ s => wakeClosed k s)
      fun v s => modEthp k (fun p => { p with wakeMask := putWord p.wakeMask i v }) s)
  | _ => none

/-! ## ETH: transmit maps, groups, queues and policers -/

/-- Queue `n` is enabled under a group of the partition on the sub-port (R369). -/
def queueServes (p : EthPort) (part i n : Nat) : Bool :=
  let q := tget ({} : EthQueue) p.txq n
  let g := tget ({} : EthGroup) p.group (queueGroup q)
  queueOn q && groupOn g && groupPart g == part && groupSub g == i

/-- The queues a valid entry covers. -/
def covered (base log2 : Nat) : List Nat := (List.range (2 ^ log2)).map fun j => (base + j) % 4096

/-- Every valid entry of a partition's map names queues that serve it. -/
def txmapOk (p : EthPort) (part : Nat) : Bool :=
  (List.range 8).all fun i =>
    match txmapEntry p part i with
    | some b => (covered b (txmapLog2 p part)).all (queueServes p part i)
    | none => true

def setTxmap (part half v : Nat) (p : EthPort) : EthPort :=
  { p with txmap := tset 0 p.txmap (2 * part + half) (BitVec.ofNat 54 v) }

/-- A write of `ETH.TXMAP[k][part]` at +0 (`half` 0) or +8 (R369). -/
def writeTxmap (k part half v : Nat) (s : State) : Option State :=
  let p := setTxmap part half (if half = 0 then v % 2 ^ 52 else v % 2 ^ 54) (ethp s k)
  if txmapOk p part then some (setEthp k p s) else none

/-- Clears the entries of every map that cover a queue for which `gone` holds (R369). -/
def dropEntries (gone : Nat → Bool) (p : EthPort) : EthPort :=
  (List.range 64).foldl (fun p part =>
    (List.range 8).foldl (fun p i =>
      match txmapEntry p part i with
      | some b =>
        if (covered b (txmapLog2 p part)).any gone then
          let w := (tget 0 p.txmap (2 * part + i / 4)).toNat
          setTxmap part (i / 4) (w - 2 ^ (13 * (i % 4) + 12)) p
        else p
      | none => p) p) p

/-- Full buckets at port time. -/
def fullBuckets (p : EthPort) : Buckets := { last := p.ptime }

/-- The write of a group's +8 register: both words apply, and the buckets are refilled (R371). A group that moves or leaves the
tree clears the entries that cover its queues. -/
def applyGroup (k g v : Nat) (s : State) : State :=
  let p := ethp s k
  let old := ethGroup s k g
  let new := { old with w0 := old.held.getD old.w0, held := none, w8 := BitVec.ofNat 64 (bits v 0 63), b := fullBuckets p }
  let moved := groupSub new != groupSub old || groupPart new != groupPart old || (groupOn old && !groupOn new)
  let new := if groupSub new = groupSub old && groupOn new == groupOn old then new else { new with ready := false }
  let p := { p with group := tset {} p.group g new }
  let p := if moved then dropEntries (fun n => queueGroup (tget ({} : EthQueue) p.txq n) == g) p else p
  setEthp k (refreshGroups p) s

/-- The write of a queue's +8 register. A queue that joins a group with packets takes the group's virtual time. -/
def applyQueue (k n v : Nat) (s : State) : State :=
  let p := ethp s k
  let old := ethQueue s k n
  let new := { old with w0 := old.held.getD old.w0, held := none, w8 := BitVec.ofNat 64 (bits v 0 63), b := fullBuckets p }
  let joins := queueOn new && (!queueOn old || queueGroup new != queueGroup old) && !new.pkts.isEmpty
  let time := (ethGroup s k (queueGroup new)).v
  let new := if joins && decide (new.f < time) then { new with f := time } else new
  let p := { p with txq := tset {} p.txq n new }
  let p := if (queueOn old && !queueOn new) || queueGroup new != queueGroup old then dropEntries (· == n) p else p
  setEthp k (refreshGroups p) s

/-- The write of a policer's +8 register; `PIR` below `CIR` or `PBS` below `CBS` is refused (R366). -/
def applyPolicer (k i v : Nat) (s : State) : Option State :=
  let p := ethp s k
  let old := tget ({} : EthPolicer) p.policer i
  let w0 := old.held.getD old.w0
  if bits v 0 21 < bits w0.toNat 0 21 ∨ bits v 21 24 < bits w0.toNat 21 24 then none
  else
    let new : EthPolicer := { w0 := w0, held := none, w8 := BitVec.ofNat 64 (bits v 0 45), b := fullBuckets p }
    some (setEthp k { p with policer := tset {} p.policer i new } s)

def ethRule (s : State) (k r : Nat) : EthRule := tget {} (ethp s k).rule r
def setRule (k r : Nat) (x : EthRule) (s : State) : State := modEthp k (fun p => { p with rule := tset {} p.rule r x }) s

/-- The write of a rule's +8 register applies the rule in one event; a rule that names a disabled receive queue is refused
(R364, R368). -/
def applyRule (k r v : Nat) (s : State) : Option State :=
  let old := ethRule s k r
  if bits v 0 2 = 3 ∨ (bits v 0 2 = 1 ∧ !rxqOn (ethRxq s k (bits v 2 6))) then none
  else some (setRule k r { w0 := old.held.getD old.w0, held := none, w8 := BitVec.ofNat 64 (bits v 0 19) } s)

def ruleReg (k r o : Nat) : Option Reg :=
  let u := ethPort k
  match o with
  | 0 => some (rw64 u 0 (fun s => (ethRule s k r).w0.toNat) (fun v _ => bits v 1 2 == 3)
      fun v s => setRule k r { ethRule s k r with held := some (BitVec.ofNat 64 (bits v 0 41)) } s)
  | 8 => some { unit := u, wide := true, val := fun s => (ethRule s k r).w8.toNat, wr := fun _ v s => applyRule k r v s }
  | _ => none

def policerReg (k i o : Nat) : Option Reg :=
  let u := ethPort k
  let pol (s : State) : EthPolicer := tget {} (ethp s k).policer i
  match o with
  | 0 => some (rw64 u 0 (fun s => (pol s).w0.toNat) (fun _ _ => false)
      fun v s => modEthp k (fun p => { p with
        policer := tset {} p.policer i { pol s with held := some (BitVec.ofNat 64 (bits v 0 47)) } }) s)
  | 8 => some { unit := u, wide := true, val := fun s => (pol s).w8.toNat, wr := fun _ v s => applyPolicer k i v s }
  | _ => none

def groupReg (k g o : Nat) : Option Reg :=
  let u := ethPort k
  match o with
  | 0 => some (rw64 u 0 (fun s => (ethGroup s k g).w0.toNat) (fun v _ => bits v 10 8 == 0)
      fun v s => setGroup k g { ethGroup s k g with held := some (BitVec.ofNat 64 (bits v 0 18)) } s)
  | 8 => some (rw64 u 0 (fun s => (ethGroup s k g).w8.toNat) (fun _ _ => false) (applyGroup k g))
  | _ => none

def txqReg (k n o : Nat) : Option Reg :=
  let u := ethPort k
  match o with
  | 0 => some (rw64 u 0 (fun s => (ethQueue s k n).w0.toNat + 2 ^ 21 * (ethQueue s k n).pkts.length)
      (fun v _ => bits v 9 8 == 0 || decide (bits v 17 4 < 9) || decide (bits v 17 4 > 14))
      fun v s => setQueue k n { ethQueue s k n with held := some (BitVec.ofNat 64 (bits v 0 21)) } s)
  | 8 => some (rw64 u 0 (fun s => (ethQueue s k n).w8.toNat) (fun _ _ => false) (applyQueue k n))
  | _ => none

/-! ## ETH: receive queues and counters -/

/-- `ETH.RXQ[k][q]`: its ring accepts writes only while it is disabled, or with the write that disables it. -/
def rxqReg (k q o : Nat) : Option Reg :=
  let u := ethPort k
  match o with
  | 0x00 => some (rw64 u 0 (fun s => (ethRxq s k q).ringPa.toNat) (fun _ s => rxqOn (ethRxq s k q))
      fun v s => setRxq k q { ethRxq s k q with ringPa := BitVec.ofNat 64 v } s)
  | 0x08 => some (rw64 u 0 (fun s => (ethRxq s k q).cfg.toNat)
      (fun v s => decide (bits v 16 4 < 4) || decide (bits v 20 4 < 11) || decide (bits v 20 4 > 14) ||
        (rxqOn (ethRxq s k q) && bit v 24))
      fun v s => setRxq k q { ethRxq s k q with cfg := BitVec.ofNat 64 (bits v 0 36) } s)
  | 0x10 => some (rw64 u (2 ^ 16)
      (fun s => let x := ethRxq s k q; x.head.toNat + 2 ^ 16 * b2n x.arm + 2 ^ 32 * x.tail.toNat) (fun _ _ => false)
      fun v s => setRxq k q { ethRxq s k q with
        head := BitVec.ofNat 16 v
        arm := (ethRxq s k q).arm || bit v 16 } s)
  | _ => none

/-- `ETH.CNT[k][sub][i]`: writing 1 to the top bit takes it off the count (R376). -/
def ethCntReg (k sub i : Nat) : Reg :=
  rw64 (ethPort k) (2 ^ (cntWidth i - 1)) (fun s => tget 0 (ethSub s k sub).cnt i) (fun _ _ => false)
    fun v s => if bit v (cntWidth i - 1) then clearTop k sub i s else s

/-- The registers of port `k`, by port offset. -/
def ethPortReg (k o : Nat) : Option Reg :=
  match elem o 0x800 16 64 with
  | some (part, x) =>
    if x % 8 = 0 then
      some { unit := ethPort k, wide := true, val := fun s => (tget 0 (ethp s k).txmap (2 * part + x / 8)).toNat
             wr := fun _ v s => writeTxmap k part (x / 8) v s }
    else none
  | none =>
  match elem o 0x1000 16 256 with
  | some (r, x) => ruleReg k r x
  | none =>
  match elem o 0x2000 32 64 with
  | some (q, x) => rxqReg k q x
  | none =>
  match elem o 0x2800 0x100 8 with
  | some (sub, x) => if x % 8 = 0 ∧ x < 8 * 17 then some (ethCntReg k sub (x / 8)) else none
  | none =>
  match elem o 0x3000 16 256 with
  | some (g, x) => groupReg k g x
  | none =>
  match elem o 0x4000 16 1024 with
  | some (i, x) => policerReg k i x
  | none =>
  match elem o 0x8000 16 4096 with
  | some (n, x) => txqReg k n x
  | none => portReg k o

def mgmtMac : Nat := frameUnit 5

def ethReg (off : Nat) : Option Reg :=
  match off with
  | 0x0010 => some (st (ethPort 0) 0x3F (fun s => s.eth.err.toNat)
      fun v s => { s with eth := { s.eth with err := s.eth.err &&& ~~~ BitVec.ofNat 6 v } })
  | 0x10000 => some (rw mgmtMac 0
      (fun s => b2n s.eth.mgmtEnable + 2 * b2n s.eth.sgmiiAn + 4 * s.eth.speed.toNat + 16 * b2n s.eth.duplex)
      (fun v _ => bits v 2 2 == 3 || (bits v 2 2 == 2 && !bit v 4))
      fun v s => { s with eth := { s.eth with
        mgmtEnable := bit v 0
        sgmiiAn := bit v 1
        speed := BitVec.ofNat 2 (bits v 2 2)
        duplex := bit v 4 } })
  | 0x10008 => some (ro64 mgmtMac fun s => s.eth.lateCol.toNat + 2 ^ 24 * s.eth.excessCol.toNat)
  | _ =>
  match elem off 0x20000 0x18000 8 with
  | some (k, o) => ethPortReg k o
  | none => none

/-! ## CIP -/

def cipReg (off : Nat) : Option Reg :=
  let u := cipherCore 0
  let slot (s : State) : KeySlot := keySlot s s.cip.sel.toNat
  match off with
  | 0x0000 => some (rw u 0 (fun s => s.cip.bulkCores.toNat) (fun _ _ => false)
      fun v s => schedule { s with cip := { s.cip with bulkCores := BitVec.ofNat 4 v } })
  | 0x0008 => some (ro u fun s => bitmap 16 (fun n => inService s (cipherCore n)) + 2 ^ 16 * b2n s.cip.schedDie37 +
      2 ^ 17 * s.cip.suspended.length)
  | 0x0010 => some (st u 7
      (fun s => b2n s.cip.exhaustedSeen + 2 * b2n s.cip.openFailSeen + 4 * b2n s.cip.failoverSeen)
      fun v s => { s with cip := { s.cip with
        exhaustedSeen := keepBit s.cip.exhaustedSeen v 0
        openFailSeen := keepBit s.cip.openFailSeen v 1
        failoverSeen := keepBit s.cip.failoverSeen v 2 } })
  | 0x0020 => some (rw u 0 (fun s => s.cip.sel.toNat) (fun _ _ => false)
      fun v s => { s with cip := { s.cip with sel := BitVec.ofNat 16 v } })
  | 0x0028 => some (ro u fun s => slotCode (slot s).state + 4 * itemOwner s 5 s.cip.sel.toNat +
      2 ^ 16 * (slot s).refs.toNat)
  | 0x002C => some (ro u fun s => (slot s).fixed.toNat)
  | 0x0030 => some (ro64 u fun s => (slot s).counter.toNat)
  | 0x0038 => some (ro64 u fun s => (slot s).limit.toNat)
  | _ =>
  match elem off 0x10000 0x10 64 with
  | some (p, 0) => some (ro64 u fun s => (quotaRange s 5 p).first + 2 ^ 32 * amountOf s 5 p)
  | _ => none

end Sys2Proof.Machine
end

