-- ==== Sys2Proof/Machine/RegFrm.lean ====
section
/-! DEFINITION. The registers of the frame block, FRM (chapters 1, 16, 18 and 20). -/

namespace Sys2Proof.Machine

/-- Exactly one hub die is out of service (R20). -/
def hubDown (s : State) : Bool := diePresent s 36 != diePresent s 37

def bootStatus (f : FwState) : Nat :=
  b2n f.ready + 2 * b2n f.safeMode + 4 * b2n f.lastWarm + 8 * b2n f.fwBank + 16 * b2n f.fwFallback +
    2 ^ 5 * f.warmFails.toNat + 2 ^ 7 * f.coldFails.toNat + 2 ^ 12 * f.failStep.toNat + 2 ^ 16 * f.failCause.toNat +
    2 ^ 32 * f.retrained.toNat

def writeBootStatus (v : Nat) (f : FwState) : FwState :=
  { f with
    fwFallback := keepBit f.fwFallback v 4
    failStep := f.failStep &&& ~~~ BitVec.ofNat 4 (bits v 12 4)
    failCause := f.failCause &&& ~~~ BitVec.ofNat 8 (bits v 16 8) }

/-- `FRM.START_CTL`: accepted in safe mode only (R436). -/
def writeStartCtl (v : Nat) (s : State) : Option State :=
  if !s.fw.safeMode then none else if bit v 0 then some (safeExit s) else some s

def fwSec (s : State) : Nat :=
  s.fw.svn.toNat + 2 ^ 32 * (minSvn s % 2 ^ 16) + 2 ^ 48 * s.fw.keyIndex.toNat +
    2 ^ 50 * (b2n (Config.keyRevoked 0) + 2 * b2n (Config.keyRevoked 1) + 4 * b2n (Config.keyRevoked 2) +
      8 * b2n (Config.keyRevoked 3))

def hangCfg (h : HangState) : Nat :=
  h.hbPeriodMs.toNat + 2 ^ 8 * h.wfdPeriodUs.toNat + 2 ^ 16 * h.wfdStable.toNat

def badHangCfg (v : Nat) : Bool :=
  decide (bits v 0 7 < 10) || decide (bits v 0 7 > 100) || decide (bits v 8 8 < 10) || decide (bits v 16 4 < 2)

def putHangCfg (v : Nat) (h : HangState) : HangState :=
  { h with
    hbPeriodMs := BitVec.ofNat 7 v
    wfdPeriodUs := BitVec.ofNat 8 (bits v 8 8)
    wfdStable := BitVec.ofNat 4 (bits v 16 4) }

def hangStatus (s : State) : Nat :=
  let h := s.hang
  runMode s + 2 ^ 2 * b2n h.hbMissed + 2 ^ 3 * b2n h.cycleSeen + 2 ^ 4 * b2n h.escalated + 2 ^ 5 * b2n h.pkgNeeded +
    2 ^ 6 * b2n h.dumpValid + 2 ^ 7 * b2n h.dumpCopied + 2 ^ 8 * b2n h.dumpSkipped +
    2 ^ 9 * b2n (!h.resets.isEmpty || h.iso.isSome) + 2 ^ 10 * h.levelReached.toNat + 2 ^ 32 * h.hbCount.toNat

def writeHangStatus (v : Nat) (h : HangState) : HangState :=
  { h with
    hbMissed := keepBit h.hbMissed v 2
    cycleSeen := keepBit h.cycleSeen v 3
    escalated := keepBit h.escalated v 4
    dumpSkipped := keepBit h.dumpSkipped v 8 }

/-- The 64 bits of `FRM.HUNG[w]`. -/
def hungWord (s : State) (w : Nat) : Nat :=
  (List.range 64).foldl (fun a b => a + 2 ^ b * b2n (tget false s.hang.hung (64 * w + b))) 0

def writeHung (w v : Nat) (s : State) : State :=
  { s with hang := { s.hang with
    hung := s.hang.hung.filter fun e => !(decide (e.1 / 64 = w) && bit v (e.1 % 64)) } }

def tripWord (p : PinState) : Nat :=
  b2n p.tripped + 2 * p.tripDie.toNat + 2 ^ 7 * b2n p.tripDram + 2 ^ 8 * p.tripTemp.toNat

/-- A mailbox word; the sender word clears `FULL` when its owner reads it (R444). -/
def mboxReg (m w : Nat) : Reg where
  unit := mailboxes
  acts := if w = 15 then 1 else 0
  val := fun s => mailWord (mbox s m) w
  wr := fun who v s => mailWrite who m w v s
  onRead := fun who s => if w = 14 then senderRead who m s else s

/-- FRM by block offset. -/
def frmSingle (off : Nat) : Option Reg :=
  let u := frameServices
  match off with
  | 0x0000 => some (ro64 u fun _ => 0x9040 + 2 ^ 16 * 0xA1 + 2 ^ 24 * (Config.serial % 2 ^ 34))
  | 0x0008 => some (ro64 u fun _ => Config.lot % 2 ^ 64)
  | 0x0010 => some (rw64 u (0x10 + 0xF000 + 0xFF0000) (fun s => bootStatus s.fw) (fun _ _ => false)
      fun v s => { s with fw := writeBootStatus v s.fw })
  | 0x0018 => some { unit := u, acts := 1, val := fun _ => 0, wr := fun _ v s => writeStartCtl v s }
  | 0x0020 => some (ro64 u fwSec)
  | 0x0100 => some (ro64 u fun s => s.weft.diePresent.toNat)
  | 0x0220 => some (ro64 u fun s => s.weft.late.toNat)
  | 0x0228 => some (st u 3 (fun s => b2n s.weft.timeoutSeen + 2 * b2n s.weft.paritySeen + 4 * b2n (hubDown s))
      fun v s => { s with weft := { s.weft with
        timeoutSeen := keepBit s.weft.timeoutSeen v 0
        paritySeen := keepBit s.weft.paritySeen v 1 } })
  | 0x0300 => some (ro64 u fun s => (frameTime s).toNat)
  | 0x3000 => some (rw u 0 (fun s => hangCfg s.hang) (fun v _ => badHangCfg v)
      fun v s => { s with hang := putHangCfg v s.hang })
  | 0x3008 => some (rw64 u 0x11C hangStatus (fun _ _ => false)
      fun v s => { s with hang := writeHangStatus v s.hang })
  | 0x3010 => some { unit := u, acts := 2 ^ 20 - 1, val := fun _ => 0, wr := fun who v s => resetCtl who.cls v s }
  | 0x3140 => some (ro u fun s => s.hang.wfdCycle.length)
  | 0x3148 => some (ro64 u fun s => s.hang.wfdTime.toNat)
  | 0x3200 => some (ro u fun s => tripWord s.pins)
  | _ => none

/-- The register of FRM that starts at a block offset. -/
def frmReg (off : Nat) : Option Reg :=
  let u := frameServices
  match frmSingle off with
  | some r => some r
  | none =>
  match elem off 0x200 4 5 with
  | some (c, 0) => some (rw u 0 (fun s => (tget 0x32 s.weft.tmo c).toNat) (fun v _ => decide (bits v 0 16 < 8))
      fun v s => { s with weft := { s.weft with tmo := tset 0x32 s.weft.tmo c (BitVec.ofNat 16 v) } })
  | _ =>
  match elem off 0x400 32 5 with
  | some (i, o) =>
    if o % 8 = 0 then some (ro64 u fun s => fieldLE (tget [] s.fw.meas i) o 8) else none
  | none =>
  match elem off 0x800 4 32 with
  | some (m, 0) => some { unit := mailboxes, val := fun s => mboxCfg (mbox s m)
                          wr := fun who v s => writeMboxCfg who m v s }
  | _ =>
  match elem off 0x1000 16 40 with
  | some (d, 0) => some (ro64 u fun s => (tget {} s.weft.corr d).offset.toNat)
  | some (d, 8) => some (ro64 u fun s =>
      let c := tget {} s.weft.corr d
      c.unc.toNat + 2 ^ 32 * c.samples.toNat + 2 ^ 63 * b2n c.valid)
  | _ =>
  match elem off 0x2000 0x40 32 with
  | some (m, o) => if o % 4 = 0 then some (mboxReg m (o / 4)) else none
  | none =>
  match elem off 0x3100 4 16 with
  | some (i, 0) => some (ro u fun s => ((s.hang.wfdCycle[i]?).getD 0).toNat)
  | _ =>
  match elem off 0x4000 8 1024 with
  | some (w, 0) => some (rw64 u (2 ^ 64 - 1) (fun s => hungWord s w) (fun _ _ => false) fun v s => writeHung w v s)
  | _ => none

end Sys2Proof.Machine
end

