-- ==== Sys2Proof/Machine/RegPci.lean ====
section
/-! DEFINITION. What a CXL port's functions present (R327, R329, R330): identity and BARs, the MSI-X table and PBA in BAR4/5, and
the CXL component registers. Where the manual names a thing and not its place, PCI Express has it there (PRESUMED). -/

namespace Sys2Proof.Machine

/-! ## Identity and BARs (R330) -/

/-- The identity a function shows. -/
structure FunctionId where
  vendor : Nat
  device : Nat
  classCode : Nat
  revision : Nat
  deriving DecidableEq, Repr

/-- The physical function's identity, or a virtual function's. -/
def functionId (vf : Bool) : FunctionId :=
  { vendor := 0x1F7A, device := if vf then 0x9041 else 0x9040, classCode := 0x120000, revision := 0xA1 }

/-- Bits of the size of 64-bit BAR `i`: the register window, the doorbells, and the MSI-X table with its PBA. -/
def barBits (i : Nat) : Nat := if i = 0 then 26 else if i = 1 then 19 else 16

/-- Dword `k` of a function's BARs: its base address, and in an even dword the type of a 64-bit BAR (PRESUMED). -/
def barRead (p k : Nat) (s : State) : Nat :=
  let v := (tget 0 s.lnk.barBase (8 * p + k)).toNat
  if k % 2 = 0 then v + 4 else v

/-- A write places the BAR; the address bits below its size stay 0. -/
def barWrite (p k v : Nat) (s : State) : State :=
  let n := 2 ^ barBits (k / 2)
  let v := if k % 2 = 0 then v / n * n else v
  { s with lnk := { s.lnk with barBase := tset 0 s.lnk.barBase (8 * p + k) (BitVec.ofNat 32 v) } }

/-- A read the manual gives no value: a free value. -/
def openRead (s : State) : State × Nat := (spend s, Config.freeNat s.seed % 2 ^ 32)

/-- Configuration dword `o` of partition `p`'s function. -/
def configRead (p o : Nat) (s : State) : State × Nat :=
  let f := functionId (p != 0)
  if o = 0 then (s, f.vendor + 2 ^ 16 * f.device)
  else if o = 8 then (s, f.revision + 2 ^ 8 * f.classCode)
  else if 0x10 ≤ o ∧ o < 0x28 then (s, barRead p ((o - 0x10) / 4) s)
  else openRead s

def configWrite (p o v : Nat) (s : State) : State := if 0x10 ≤ o ∧ o < 0x28 then barWrite p ((o - 0x10) / 4) v s else s

/-! ## BAR4/5 (R330, R332) -/

/-- A dword of BAR4/5: of the MSI-X table from 0, of the PBA from 0x8000. -/
def tableRead (p o : Nat) (s : State) : Nat :=
  let n := vectorTable s p
  if o < 0x8000 then
    let i := p * 2048 + o / 16
    if o / 16 ≥ n then 0
    else match o % 16 / 4 with
      | 0 => (tget 0 s.lnk.msixAddr i).toNat % 2 ^ 32
      | 1 => (tget 0 s.lnk.msixAddr i).toNat / 2 ^ 32
      | 2 => (tget 0 s.lnk.msixData i).toNat
      | _ => b2n (!tget false s.lnk.msixOpen i)
  else
    let v := (o - 0x8000) * 8
    (List.range 32).foldl (fun w j => if v + j < n ∧ tget false s.lnk.pba (p * 2048 + v + j) = true then w + 2 ^ j else w) 0

/-- A write of a table dword; the last one of an entry holds its mask bit. The PBA is read-only. -/
def tableWrite (p o v : Nat) (s : State) : State :=
  if o ≥ 0x8000 ∨ o / 16 ≥ vectorTable s p then s
  else
    let i := p * 2048 + o / 16
    let a := tget 0 s.lnk.msixAddr i
    match o % 16 / 4 with
    | 0 => { s with lnk := { s.lnk with msixAddr := tset 0 s.lnk.msixAddr i (a >>> 32 <<< 32 ||| BitVec.ofNat 64 (v / 4 * 4)) } }
    | 1 => { s with lnk := { s.lnk with msixAddr := tset 0 s.lnk.msixAddr i (BitVec.ofNat 64 (a.toNat % 2 ^ 32 + 2 ^ 32 * v)) } }
    | 2 => { s with lnk := { s.lnk with msixData := tset 0 s.lnk.msixData i (BitVec.ofNat 32 v) } }
    | _ => writeVectorMask p (o / 16) (bit v 0) s

/-! ## CXL component registers (R330) -/

/-- The component registers' place in the physical function's BAR0. -/
def inComponent (addr : Nat) : Bool := decide (0x2000000 ≤ addr) && decide (addr < 0x2010000)

/-- A write is kept. What a read returns, CXL fixes and the manual does not: a free value. -/
def componentWrite (addr v : Nat) (s : State) : State :=
  { s with lnk := { s.lnk with component := tset 0 s.lnk.component ((addr - 0x2000000) / 4) (BitVec.ofNat 32 v) } }

/-! ## Accesses -/

/-- An access of a dword, or of two, the low one first. -/
def dwordRead (size o : Nat) (f : Nat → State → State × Nat) (s : State) : State × Nat :=
  let (s, lo) := f o s
  if size = 8 then
    let (s, hi) := f (o + 4) s
    (s, lo + 2 ^ 32 * hi)
  else (s, lo)

def dwordWrite (size o v : Nat) (f : Nat → Nat → State → State) (s : State) : State :=
  let s := f o (v % 2 ^ 32) s
  if size = 8 then f (o + 4) (v / 2 ^ 32 % 2 ^ 32) s else s

end Sys2Proof.Machine
end

