-- ==== Sys2Proof/Machine/RegSys.lean ====
section
/-! DEFINITION. The registers of the Selvedge (SAF, chapter 17), of the counters (CNT, chapter 19) and of power (PWR, chapter
15). -/

namespace Sys2Proof.Machine

/-! ## SAF -/

def safCfg (f : SafState) : Nat :=
  f.testPeriodMs.toNat + 2 ^ 16 * f.testSliceUs.toNat + 2 ^ 24 * f.compareMs.toNat + 2 ^ 30 * b2n f.testEnable

def badSafCfg (v : Nat) : Bool :=
  decide (bits v 0 16 < 10) || decide (bits v 0 16 > 60000) || bits v 16 8 == 0 || bits v 24 6 == 0 ||
    decide (bits v 24 6 > 50)

def putSafCfg (v : Nat) (f : SafState) : SafState :=
  { f with
    testPeriodMs := BitVec.ofNat 16 v
    testSliceUs := BitVec.ofNat 8 (bits v 16 8)
    compareMs := BitVec.ofNat 6 (bits v 24 6)
    testEnable := bit v 30 }

def safErr (f : SafState) : Nat :=
  b2n f.overflow + 2 * b2n f.dangerOverflow + 4 * b2n f.fenceSeen + 8 * b2n f.lockstepSeen +
    16 * b2n f.copyMismatchSeen + 32 * b2n f.testFailSeen + 64 * b2n f.testLateSeen + 128 * b2n f.pkg.isNone

def writeSafErr (v : Nat) (f : SafState) : SafState :=
  { f with
    overflow := keepBit f.overflow v 0
    dangerOverflow := keepBit f.dangerOverflow v 1
    fenceSeen := keepBit f.fenceSeen v 2
    lockstepSeen := keepBit f.lockstepSeen v 3
    copyMismatchSeen := keepBit f.copyMismatchSeen v 4
    testFailSeen := keepBit f.testFailSeen v 5
    testLateSeen := keepBit f.testLateSeen v 6 }

/-- Occupied slots that hold class 3 records. -/
def dangerUsed (s : State) : Nat :=
  (List.range (occupied s)).countP fun i =>
    match tget none s.saf.ring ((s.saf.head.toNat + i) % 1024) with
    | some r => r.cls == 3
    | none => false

def safUnitWord (u : SafUnit) : Nat :=
  b2n u.fenced + 2 * b2n u.dependent + 4 * b2n u.testLate + 2 ^ 16 * u.lost.toNat

/-- A write of `SAF.UNIT[u]`: 1 clears `TEST_LATE`, and `LOST` bit by bit, so that 0xFFFF clears it whole (R465). -/
def writeSafUnit (u v : Nat) (s : State) : State :=
  if !validUnit u then s
  else
    { s with saf := { s.saf with
      unit := tmod {} s.saf.unit u fun x => { x with
        testLate := keepBit x.testLate v 2
        lost := x.lost &&& ~~~ BitVec.ofNat 16 (bits v 16 16) } } }

def safReg (off : Nat) : Option Reg :=
  let u := selvedge
  match off with
  | 0x0000 => some (rw u 0 (fun s => safCfg s.saf) (fun v _ => badSafCfg v) fun v s => { s with saf := putSafCfg v s.saf })
  | 0x0010 => some (st u 0x7F (fun s => safErr s.saf) fun v s => { s with saf := writeSafErr v s.saf })
  | 0x0018 => some (ro64 u fun s => s.saf.head.toNat + 2 ^ 32 * s.saf.nextSeq.toNat)
  | 0x0020 => some (ro u fun s => occupied s + 2 ^ 16 * dangerUsed s)
  | 0x0028 => some (rw64 u (2 ^ 32 - 1) (fun s => s.saf.overflowUnit.toNat + 2 ^ 16 * s.saf.overflowCause.toNat)
      (fun _ _ => false)
      fun v s => { s with saf := { s.saf with
        overflowUnit := s.saf.overflowUnit &&& ~~~ BitVec.ofNat 16 v
        overflowCause := s.saf.overflowCause &&& ~~~ BitVec.ofNat 16 (bits v 16 16) } })
  | 0x0030 => some (rw64 u (2 ^ 64 - 1) (fun s => s.saf.overflowTime.toNat) (fun _ _ => false)
      fun v s => { s with saf := { s.saf with overflowTime := s.saf.overflowTime &&& ~~~ BitVec.ofNat 64 v } })
  | 0x0038 => some (ro64 u fun s => s.saf.repeats.toNat)
  | 0x0040 => some (ro64 u fun s =>
      (match s.saf.pkg with | some p => p.svn % 2 ^ 32 | none => 0) + 2 ^ 32 * (testMask s % 2 ^ 16) +
        2 ^ 48 * b2n s.saf.pkg.isSome)
  | _ =>
  match elem off 0x10000 64 1024 with
  | some (i, o) =>
    if o % 8 = 0 then
      some (ro64 u fun s => match tget none s.saf.ring i with
        | some r => fieldLE (recordBytes r) o 8
        | none => 0)
    else none
  | none =>
  match elem off 0x40000 4 65536 with
  | some (n, 0) => some (st u 0xFFFF0004 (fun s => safUnitWord (safUnit s n)) (writeSafUnit n))
  | _ => none

/-! ## CNT -/

def cntReg (off : Nat) : Option Reg :=
  let u := frameServices
  match off with
  | 0x0000 => some (rw u 0 (fun s => s.cnt.sel.toNat + 2 ^ 16 * b2n s.cnt.valid) (fun _ _ => false) writeCntSel)
  | 0x0010 => some (rw64 u 2
      (fun s => b2n s.cnt.prof.isSome + 2 * b2n s.cnt.profSkipSeen + 2 ^ 32 * s.cnt.rounds.toNat) (fun _ _ => false)
      fun v s => { s with cnt := { s.cnt with profSkipSeen := keepBit s.cnt.profSkipSeen v 1 } })
  | 0x0018 => some (rw64 u 0 (fun s => s.cnt.head.toNat + 2 ^ 32 * s.cnt.tail.toNat) (fun _ _ => false)
      fun v s => { s with cnt := { s.cnt with head := BitVec.ofNat 21 v } })
  | 0x0020 => some (ro64 u fun s => s.cnt.skip.toNat)
  | _ =>
  match elem off 0x100 8 16 with
  | some (i, 0) => some (ro64 u fun s => bits s.cnt.view.toNat (64 * i) 64)
  | _ =>
  match elem off 0x10000 0x40 64 with
  | some (p, o) => if o % 8 = 0 then some (ro64 u fun s => (partCount s p (o / 8)).toNat) else none
  | none => none

/-! ## PWR -/

def domCode : DomSt → Nat
  | .on => 0 | .sleeping => 1 | .retain => 2 | .off => 3 | .waking => 4

/-- `PWR.DOMAIN[x]`. -/
def domainReg (x o : Nat) : Option Reg :=
  let u := domainUnit x
  match o with
  | 0x0 => some { unit := u
                  val := fun s =>
                    let d := domain s x
                    domCode d.state + 2 ^ 4 * d.policy.toNat + 2 ^ 8 * d.idleUs.toNat + 2 ^ 16 * d.wakes.toNat
                  wr := fun _ v s => writePolicy x v s }
  | 0x4 => some (ro u fun s => (domain s x).pace.toNat + 2 ^ 16 * (domain s x).paceMin.toNat)
  | 0x8 => some (ro u fun s => (domain s x).temp.toNat + 2 ^ 16 * (domain s x).voltMv.toNat)
  | _ => none

/-- `PWR.VR[i]`. -/
def vrReg (i o : Nat) : Option Reg :=
  let r (s : State) : Regulator := tget {} s.pwr.vr i
  match o with
  | 0x0 => some (ro treadle fun s => (r s).addr.toNat + 2 ^ 7 * b2n (r s).valid + 2 ^ 8 * (r s).role.toNat +
      2 ^ 16 * (r s).vsetMv.toNat)
  | 0x4 => some (ro treadle fun s => (r s).voutMv.toNat + 2 ^ 16 * (r s).ioutDa.toNat)
  | 0x8 => some (ro treadle fun s => (r s).status.toNat + 2 ^ 16 * (r s).poutW.toNat)
  | _ => none

def pwrGlobal (off : Nat) : Option Reg :=
  let u := treadle
  match off with
  | 0x0000 => some (rw u 0
      (fun s => s.pwr.profile.toNat + 2 ^ 3 * b2n s.pwr.coolingB + 2 ^ 8 * s.pwr.idleReleaseUs.toNat +
        2 ^ 16 * s.pwr.throttleC.toNat + 2 ^ 24 * b2n s.pwr.pmb1MHz)
      (fun v _ => bits v 8 8 == 0 || decide (bits v 16 8 < 85) || decide (bits v 16 8 > 105))
      fun v s => { s with pwr := { s.pwr with
        idleReleaseUs := BitVec.ofNat 8 (bits v 8 8)
        throttleC := BitVec.ofNat 8 (bits v 16 8)
        pmb1MHz := bit v 24 } })
  | 0x0008 => some (ro64 u fun s => s.pwr.budgetW.toNat + 2 ^ 16 * effectiveW s + 2 ^ 32 * active s)
  | 0x0010 => some (ro64 u fun s => heldActive s + 2 ^ 16 * waitingTokens s)
  | 0x0018 => some (st u 0x1F
      (fun s => b2n s.pwr.vrFaultSeen + 2 * b2n s.pwr.paceLowSeen + 4 * b2n s.pwr.crossStallSeen +
        8 * b2n s.pwr.coreStallSeen + 16 * b2n s.pwr.throttleSeen)
      fun v s => { s with pwr := { s.pwr with
        vrFaultSeen := keepBit s.pwr.vrFaultSeen v 0
        paceLowSeen := keepBit s.pwr.paceLowSeen v 1
        crossStallSeen := keepBit s.pwr.crossStallSeen v 2
        coreStallSeen := keepBit s.pwr.coreStallSeen v 3
        throttleSeen := keepBit s.pwr.throttleSeen v 4 } })
  | 0x0020 => some (ro64 u fun s => s.pwr.xstallMap.toNat)
  | 0x0028 => some (ro64 u fun s => s.pwr.measuredMw.toNat)
  | _ =>
  match elem off 0x40 8 4 with
  | some (g, 0) => some (ro64 u fun s => shareOf s g + 2 ^ 16 * heldGroup s g)
  | _ => none

def pwrReg (off : Nat) : Option Reg :=
  match elem off 0x10000 0x10 80 with
  | some (x, o) => domainReg x o
  | none =>
  match elem off 0x20000 0x10 64 with
  | some (p, 0) => some (ro treadle fun s => floorOf s p + 2 ^ 16 * heldPart s p)
  | _ =>
  match elem off 0x30000 0x10 48 with
  | some (i, o) => vrReg i o
  | none => pwrGlobal off

end Sys2Proof.Machine
end

