-- ==== Sys2Proof/Machine/RegWork.lean ====
section
/-! DEFINITION. The registers of the Shuttle transport (SHT, chapters 5 and 6), the Reed collectives (RED, chapters 7 and 8) and
the Bobbins (BOB, chapters 9 and 10). -/

namespace Sys2Proof.Machine

/-! ## SHT -/

def badDlvCfg (v : Nat) : Bool :=
  decide (bits v 0 10 < 8) || decide (bits v 10 3 > 4) || bits v 16 4 == 0 || bits v 20 6 == 0 || bits v 26 6 == 0

/-- With `CC_ENABLE` 0 every queue pair's `RATE` is `LINE`, and no increase is due (R188). -/
def lineRates (s : State) : State :=
  if s.sht.ccEnable then s
  else { s with sht := { s.sht with qp := s.sht.qp.map fun e =>
    (e.1, if e.2.created then { e.2 with rate := qpLine s e.1, tInc := none } else e.2) } }

/-- `SHT` global registers to 0x80. -/
def shtGlobal (off : Nat) : Option Reg :=
  let u := shuttle 0
  match off with
  | 0x0000 => some (rw u 0
      (fun s => s.sht.udpPort.toNat + 2 ^ 16 * b2n s.sht.udpCsum4 + 2 ^ 17 * s.sht.cnpDscp.toNat)
      (fun v _ => bits v 0 16 == 0 || bits v 0 16 == 4791)
      fun v s => { s with sht := { s.sht with
        udpPort := BitVec.ofNat 16 v
        udpCsum4 := bit v 16
        cnpDscp := BitVec.ofNat 6 (bits v 17 6) } })
  | 0x0008 => some (ro64 u fun s => bitmap 64 fun n => inService s (shuttle n))
  | 0x0010 => some (st u 0x1F
      (fun s => b2n s.sht.crcSeen + 2 * b2n s.sht.hdrDropSeen + 4 * b2n s.sht.gcmFailSeen + 8 * b2n s.sht.qpErrSeen +
        16 * b2n s.sht.nvmeTmoSeen)
      fun v s => { s with sht := { s.sht with
        crcSeen := keepBit s.sht.crcSeen v 0
        hdrDropSeen := keepBit s.sht.hdrDropSeen v 1
        gcmFailSeen := keepBit s.sht.gcmFailSeen v 2
        qpErrSeen := keepBit s.sht.qpErrSeen v 3
        nvmeTmoSeen := keepBit s.sht.nvmeTmoSeen v 4 } })
  | 0x0018 => some (ro64 u fun s => s.sht.crcDrop.toNat)
  | 0x0020 => some (ro64 u fun s => s.sht.rxDrop.toNat)
  | 0x0028 => some (ro64 u fun s => s.sht.gcmDrop.toNat)
  | 0x0030 => some (rw u 0 (fun s => s.sht.nvmeTmoMs.toNat) (fun v _ => bits v 0 16 == 0)
      fun v s => { s with sht := { s.sht with nvmeTmoMs := BitVec.ofNat 16 v } })
  | 0x0040 => some (rw u 0
      (fun s => s.sht.rtoUs.toNat + 2 ^ 10 * s.sht.rtoShiftMax.toNat + 2 ^ 16 * s.sht.ackDelayUs.toNat +
        2 ^ 20 * s.sht.ackEvery.toNat + 2 ^ 26 * s.sht.ackreqEvery.toNat)
      (fun v _ => badDlvCfg v)
      fun v s => { s with sht := { s.sht with
        rtoUs := BitVec.ofNat 10 v
        rtoShiftMax := BitVec.ofNat 3 (bits v 10 3)
        ackDelayUs := BitVec.ofNat 4 (bits v 16 4)
        ackEvery := BitVec.ofNat 6 (bits v 20 6)
        ackreqEvery := BitVec.ofNat 6 (bits v 26 6) } })
  | 0x0048 => some (rw64 u 0
      (fun s => s.sht.cutUs.toNat + 2 ^ 8 * s.sht.incUs.toNat + 2 ^ 16 * s.sht.haiAfter.toNat +
        2 ^ 20 * b2n s.sht.ccEnable + 2 ^ 32 * s.sht.alphaInit.toNat)
      (fun v _ => bits v 0 8 == 0 || bits v 8 8 == 0)
      fun v s => lineRates { s with sht := { s.sht with
        cutUs := BitVec.ofNat 8 v
        incUs := BitVec.ofNat 8 (bits v 8 8)
        haiAfter := BitVec.ofNat 4 (bits v 16 4)
        ccEnable := bit v 20
        alphaInit := BitVec.ofNat 16 (bits v 32 16) } })
  | 0x0050 => some (rw64 u 0
      (fun s => s.sht.rai.toNat + 2 ^ 21 * s.sht.rhai.toNat + 2 ^ 42 * s.sht.minRate.toNat)
      (fun v _ => bits v 42 21 == 0)
      fun v s => { s with sht := { s.sht with
        rai := BitVec.ofNat 21 v
        rhai := BitVec.ofNat 21 (bits v 21 21)
        minRate := BitVec.ofNat 21 (bits v 42 21) } })
  | 0x0058 => some (rw u 0 (fun s => s.sht.rerollBeta.toNat + 2 ^ 8 * s.sht.entropyStep.toNat)
      (fun v _ => decide (bits v 0 8 < 64) || !bit v 8)
      fun v s => { s with sht := { s.sht with
        rerollBeta := BitVec.ofNat 8 v
        entropyStep := BitVec.ofNat 6 (bits v 8 6) } })
  | 0x0060 => some (ro u fun s => if s.sht.poolUp then 131071 - s.sht.blocks.length else 0)
  | 0x0068 => some (ro64 u fun s => s.sht.lateAck.toNat)
  | 0x0070 => some (ro64 u fun s => s.sht.retxSack.toNat)
  | 0x0078 => some (ro64 u fun s => s.sht.retxRto.toNat)
  | 0x0080 => some (st u 0xF
      (fun s => b2n s.sht.parkDropSeen + 2 * b2n s.sht.ctxPoisonSeen + 4 * b2n s.sht.atomicPoolSeen +
        8 * b2n s.sht.revokeFenceSeen)
      fun v s => { s with sht := { s.sht with
        parkDropSeen := keepBit s.sht.parkDropSeen v 0
        ctxPoisonSeen := keepBit s.sht.ctxPoisonSeen v 1
        atomicPoolSeen := keepBit s.sht.atomicPoolSeen v 2
        revokeFenceSeen := keepBit s.sht.revokeFenceSeen v 3 } })
  | _ => none

/-- `SHT.QUOTA[p]`. -/
def shtQuota (p o : Nat) : Option Reg :=
  let u := shuttle 0
  match o with
  | 0x0 => some (ro u fun s => (quotaRange s 1 p).first)
  | 0x4 => some (ro u fun s => (quotaRange s 1 p).count)
  | 0x8 => some (ro u fun s => amountOf s 6 p)
  | 0xC => some (ro u fun s => rqUsed s p)
  | _ => none

/-- `SHT.PARK[k]`. -/
def shtPark (k o : Nat) : Option Reg :=
  match o with
  | 0x00 => some (ro (ethPort k) fun s => parkedBytes s k)
  | 0x08 => some (ro64 (ethPort k) fun s => (tget {} s.sht.parkCnt k).drop.toNat)
  | 0x10 => some (ro64 (ethPort k) fun s => (tget {} s.sht.parkCnt k).parked.toNat)
  | _ => none

/-- `SHT.CACHE[d]`. -/
def shtCache (d o : Nat) : Option Reg :=
  let u := slice_ d
  let c (s : State) : SliceCnt := tget {} s.sht.slice d
  match o with
  | 0x00 => some (ro u fun s => (cacheOf s d).length + 2 ^ 16 * (cacheOf s d).countP (pinned s))
  | 0x08 => some (ro64 u fun s => (c s).hits.toNat)
  | 0x10 => some (ro64 u fun s => (c s).misses.toNat)
  | 0x18 => some (ro64 u fun s => (c s).evictions.toNat)
  | 0x20 => some (ro64 u fun s => (c s).setFull.toNat)
  | _ => none

def shtReg (off : Nat) : Option Reg :=
  match elem off 0x10000 0x10 64 with
  | some (p, o) => shtQuota p o
  | none =>
  match elem off 0x20000 0x20 8 with
  | some (k, o) => shtPark k o
  | none =>
  match elem off 0x30000 0x40 8 with
  | some (d, o) => shtCache d o
  | none => shtGlobal off

/-! ## RED -/

/-- The registers of the integrity configuration, of Reed engines and of Bobbins (R251, R286). -/
def integWord (retry stall shadow : Nat) : Nat := retry + 2 ^ 8 * stall + 2 ^ 16 * shadow

def badInteg (v : Nat) : Bool := bits v 8 8 == 0 || decide (bits v 16 5 < 8) || decide (bits v 16 5 > 16)

def redGlobal (off : Nat) : Option Reg :=
  let u := reed 0
  match off with
  | 0x0000 => some (rw u 0
      (fun s => s.red.backoffUs.toNat + 2 ^ 8 * s.red.directMaxN.toNat + 2 ^ 16 * s.red.ringMaxN.toNat)
      (fun v _ => bits v 0 8 == 0 || decide (bits v 8 8 < 2) || decide (bits v 16 16 < 2))
      fun v s => { s with red := { s.red with
        backoffUs := BitVec.ofNat 8 v
        directMaxN := BitVec.ofNat 8 (bits v 8 8)
        ringMaxN := BitVec.ofNat 16 (bits v 16 16) } })
  | 0x0008 => some (ro64 u fun s => bitmap 32 (fun e => inService s (engineUnit e)) +
      2 ^ 32 * (List.range 8).foldl (fun a d => a + poolSlots s d) 0)
  | 0x0010 => some (st u 0x1F
      (fun s => b2n s.red.replaySeen + 2 * b2n s.red.memberLostSeen + 4 * b2n s.red.spillSeen +
        8 * b2n s.red.stalePushSeen + 16 * b2n s.red.dupContribSeen)
      fun v s => { s with red := { s.red with
        replaySeen := keepBit s.red.replaySeen v 0
        memberLostSeen := keepBit s.red.memberLostSeen v 1
        spillSeen := keepBit s.red.spillSeen v 2
        stalePushSeen := keepBit s.red.stalePushSeen v 3
        dupContribSeen := keepBit s.red.dupContribSeen v 4 } })
  | 0x0018 => some (ro64 u fun s => s.red.pushRetry.toNat)
  | 0x0020 => some (ro64 u fun s => s.red.stalePush.toNat)
  | 0x0040 => some (rw u 0
      (fun s => integWord s.red.chkRetry.toNat s.red.stallUs.toNat s.red.shadowLog2.toNat) (fun v _ => badInteg v)
      fun v s => { s with red := { s.red with
        chkRetry := BitVec.ofNat 3 v
        stallUs := BitVec.ofNat 8 (bits v 8 8)
        shadowLog2 := BitVec.ofNat 5 (bits v 16 5) } })
  | 0x0048 => some (st u 0xFF
      (fun s => b2n s.red.crcInSeen + 2 * b2n s.red.crcOutSeen + 4 * b2n s.red.checkFailSeen +
        8 * b2n s.red.modCheckSeen + 16 * b2n s.red.dualRailSeen + 32 * b2n s.red.stallSeen +
        64 * b2n s.red.shadowSeen + 128 * b2n s.red.residualPoisonSeen)
      fun v s => { s with red := { s.red with
        crcInSeen := keepBit s.red.crcInSeen v 0
        crcOutSeen := keepBit s.red.crcOutSeen v 1
        checkFailSeen := keepBit s.red.checkFailSeen v 2
        modCheckSeen := keepBit s.red.modCheckSeen v 3
        dualRailSeen := keepBit s.red.dualRailSeen v 4
        stallSeen := keepBit s.red.stallSeen v 5
        shadowSeen := keepBit s.red.shadowSeen v 6
        residualPoisonSeen := keepBit s.red.residualPoisonSeen v 7 } })
  | 0x0050 => some (ro64 u fun s => s.red.crcRetry.toNat)
  | 0x0058 => some (ro64 u fun s => s.red.sat.toNat)
  | _ => none

/-- `RED.POOL[d]`. -/
def redPool (d o : Nat) : Option Reg :=
  let u := pool d
  match o with
  | 0x0 => some (ro64 u fun s => poolSlots s d + 2 ^ 16 * reservedOn s d + 2 ^ 32 * sharedOn s d +
      2 ^ 48 * (tget 0 s.red.sharedPeak d).toNat)
  | 0x8 => some (ro64 u fun s => (tget 0 s.red.spilled d).toNat)
  | _ => none

/-- `RED.QUOTA[p]`. -/
def redQuota (p o : Nat) : Option Reg :=
  match o with
  | 0x0 => some (ro (reed 0) fun s => let r := quotaRange s 3 p; r.first + 2 ^ 16 * r.count)
  | 0x4 => some (ro (reed 0) fun s => amountOf s 7 p + 2 ^ 16 * reservedOf s p)
  | _ => none

/-- `RED.COMM[k]`. -/
def redComm (k o : Nat) : Option Reg :=
  if o = 0x18 then some (ro64 (reed 0) fun s => fieldLE (commBytes s k) 0x18 8)
  else if o < 0x18 ∧ o % 4 = 0 then some (ro (reed 0) fun s => fieldLE (commBytes s k) o 4)
  else none

def redReg (off : Nat) : Option Reg :=
  match elem off 0x10000 0x100 8 with
  | some (d, o) => redPool d o
  | none =>
  match elem off 0x20000 0x10 64 with
  | some (p, o) => redQuota p o
  | none =>
  match elem off 0x30000 0x20 4096 with
  | some (k, o) => redComm k o
  | none =>
  match elem off 0x80 4 32 with
  | some (e, 0) => some (ro (engineUnit e) fun s => (tget 0 s.red.lane e).toNat)
  | _ => redGlobal off

/-! ## BOB -/

/-- R297. -/
def bobCode : BobSt → Nat
  | .unassigned => 0 | .idle => 1 | .loading => 2 | .running => 3
  | .halted => 4 | .stopping => 5 | .zeroing => 6 | .fenced => 7

/-- Resident images loaded, by handle (`BOB.RESIDENT`). -/
def residentMap (s : State) : Nat :=
  (List.range 5).foldl (fun a h => a + 2 ^ h * b2n (h != 0 && (imageAt s h).loaded)) 0

/-- `BOB.CAPACITY`: a start sets the store up with the resident images, one unit each. -/
def bobCapacity (s : State) : Nat :=
  let n := (List.range 512).countP fun u => inService s (bobbin u)
  if residentMap s = 0 then n
  else
    let used := s.bob.image.foldl (fun a e => if !e.2.loaded then a else if e.2.resident then a + 1 else a + imageUnits e.2) 0
    n + 2 ^ 16 * ((List.range 1024).countP fun i => i != 0 && !(imageAt s i).loaded) + 2 ^ 32 * (2048 - used)

def bobGlobal (off : Nat) : Option Reg :=
  let u := bobbin 0
  match off with
  | 0x0000 => some (ro64 u bobCapacity)
  | 0x0010 => some (st u 0xFF
      (fun s => b2n s.bob.faultSeen + 2 * b2n s.bob.crcSeen + 4 * b2n s.bob.scratchUeSeen + 8 * b2n s.bob.dualRailSeen +
        16 * b2n s.bob.stallSeen + 32 * b2n s.bob.shadowSeen + 64 * b2n s.bob.replaySeen +
        128 * b2n s.bob.poisonTolSeen)
      fun v s => { s with bob := { s.bob with
        faultSeen := keepBit s.bob.faultSeen v 0
        crcSeen := keepBit s.bob.crcSeen v 1
        scratchUeSeen := keepBit s.bob.scratchUeSeen v 2
        dualRailSeen := keepBit s.bob.dualRailSeen v 3
        stallSeen := keepBit s.bob.stallSeen v 4
        shadowSeen := keepBit s.bob.shadowSeen v 5
        replaySeen := keepBit s.bob.replaySeen v 6
        poisonTolSeen := keepBit s.bob.poisonTolSeen v 7 } })
  | 0x0018 => some (rw u 0
      (fun s => integWord s.bob.chkRetry.toNat s.bob.stallUs.toNat s.bob.shadowLog2.toNat) (fun v _ => badInteg v)
      fun v s => { s with bob := { s.bob with
        chkRetry := BitVec.ofNat 3 v
        stallUs := BitVec.ofNat 8 (bits v 8 8)
        shadowLog2 := BitVec.ofNat 5 (bits v 16 5) } })
  | 0x0020 => some (ro64 u fun s => s.bob.crcRetry.toNat)
  | 0x0028 => some (ro u fun s => residentMap s + 2 ^ 8 * s.bob.setVer.toNat)
  | _ =>
  match elem off 0x40 4 16 with
  | some (n, 0) => some (ro (bobbin (32 * n)) fun s => bitmap 32 fun i => inService s (bobbin (32 * n + i)))
  | _ => none

/-- `BOB.STATE[u]`. -/
def bobState (n o : Nat) : Option Reg :=
  let u := bobbin n
  match o with
  | 0x00 => some (ro u fun s => let b := bobbinOf s n; bobCode b.state + 2 ^ 3 * b.part + 2 ^ 16 * b.launchId.toNat)
  | 0x04 => some (ro u fun s => let b := bobbinOf s n; b.pc % 2 ^ 16 + 2 ^ 16 * b.shadowLane.toNat)
  | 0x08 => some (ro u fun s => (bobbinOf s n).resident.toNat)
  | 0x10 => some (ro64 u fun s => (bobbinOf s n).ckpt.toNat)
  | _ => none

/-- `BOB.QUOTA[p]` and `BOB.SEQ_RANGE[p]`. -/
def bobPart (p o : Nat) : Option Reg :=
  let u := bobbin 0
  let held (s : State) : List Nat :=
    (List.range 512).filter fun n => (bobbinOf s n).state != .unassigned && (bobbinOf s n).part == p
  match o with
  | 0x0 => some (ro u fun s => (held s).length + 2 ^ 16 * (held s).countP fun n => (bobbinOf s n).state != .idle)
  | 0x4 => some (ro u fun s => s.bob.launch.countP fun l => l.part == p)
  | 0x8 => some (ro u fun s => amountOf s 8 p + 2 ^ 16 * imagesUsed s p)
  | 0xC => some (ro u fun s => let r := quotaRange s 4 p; r.first + 2 ^ 14 * r.count)
  | _ => none

def bobReg (off : Nat) : Option Reg :=
  match elem off 0x10000 0x20 512 with
  | some (n, o) => bobState n o
  | none =>
  match elem off 0x20000 0x10 64 with
  | some (p, o) => bobPart p o
  | none =>
  match elem off 0x30000 0x20 8192 with
  | some (q, o) => if o % 8 = 0 then some (ro64 (bobbin 0) fun s => fieldLE (seqBytes s q) o 8) else none
  | none => bobGlobal off

end Sys2Proof.Machine
end

