-- ==== Sys2Proof/Machine/Registers.lean ====
section
/-! DEFINITION. The register window: which register an access reaches (R331, R431, R436), how it is read and written (R5, R125),
and the writes and reads that have a row of their own. -/

namespace Sys2Proof.Machine

/-! ## The window -/

/-- The registers of a block, by block offset. -/
def blockRegs : Nat → Nat → Option Reg
  | 0x0, off => frmReg off
  | 0x1, off => jcqReg off
  | 0x2, off => hdlReg off
  | 0x3, off => shtReg off
  | 0x4, off => redReg off
  | 0x5, off => bobReg off
  | 0x6, off => splReg off
  | 0x7, off => ethReg off
  | 0x8, off => lnkReg off
  | 0x9, off => cipReg off
  | 0xA, off => safReg off
  | 0xB, off => cntReg off
  | 0xC, off => pwrReg off
  | _, _ => none

/-- The unit a block's shared registers belong to. -/
def blockUnit : Nat → Nat
  | 0x1 => jacquard 0
  | 0x2 => heddle 0
  | 0x3 => shuttle 0
  | 0x4 => reed 0
  | 0x5 => bobbin 0
  | 0x6 => controller 0
  | 0x7 => ethPort 0
  | 0x8 => accPort 0
  | 0x9 => cipherCore 0
  | 0xA => selvedge
  | 0xC => treadle
  | _ => frameServices

def blocks : Nat := 13

/-- The register that starts at an address of the window. -/
def regAt (addr : Nat) : Option Reg :=
  let b := blockOf addr
  let off := addr % 2 ^ 20
  if b ≥ blocks then none
  else match conflictReg (blockUnit b) b off with
    | some r => some r
    | none => blockRegs b off

/-- What a 32-bit access reaches: a register whole, or a half of a 64-bit one, with the register's address. -/
inductive RegHit where
  | whole (r : Reg)
  | low (r : Reg)
  | high (r : Reg) (base : Nat)
  | nothing

def hit32 (addr : Nat) : RegHit :=
  match regAt addr with
  | some r => if r.wide then .low r else .whole r
  | none =>
    if addr % 8 = 4 then
      match regAt (addr - 4) with
      | some r => if r.wide then .high r (addr - 4) else .nothing
      | none => .nothing
    else .nothing

/-! ## Who reaches what (R329, R331, R431, R436) -/

/-- Registers a host reaches before `READY` (R431). -/
def earlyReg (addr : Nat) : Bool :=
  decide (addr < 0x18) || (decide (0x800 ≤ addr) && decide (addr < 0x880)) ||
    (decide (0x2000 ≤ addr) && decide (addr < 0x2800))

/-- BAR0 serves the address now. Only host accesses go through BAR0. -/
def windowOpen (s : State) (who : Requester) (addr : Nat) : Bool :=
  decide (who.cls > 1) || s.fw.ready || (if s.fw.safeMode then blockOf addr == 0 else earlyReg addr)

/-- A virtual function that does not exist (R329). -/
def absentFunction (s : State) (who : Requester) : Bool :=
  who.cls == 1 && (who.part == 0 || !functionExists s who.part (homePort s who.part))

def spans (addr base n : Nat) : Bool := decide (base ≤ addr) && decide (addr < base + n)

/-- The registers of R331 that partition `p`'s function reads. -/
def vfReads (p addr : Nat) : Bool :=
  spans addr (0x120000 + 0x100 * p) 0x28 || spans addr (0x220000 + 0x40 * p) 8 || spans addr (0x310000 + 0x10 * p) 16 ||
    spans addr (0x420000 + 0x10 * p) 8 || spans addr (0x520000 + 0x10 * p) 16 || spans addr 0x300 8 ||
    spans addr 0x100000 8 || spans addr 0x680000 8 || spans addr 0x300008 8 || spans addr 0x400008 8 ||
    spans addr 0x500000 8 || spans addr 0x900008 4

/-- The one register of R331 that a virtual function writes, its own `JCQ.ADMIN`. -/
def vfWrites (p addr : Nat) : Bool := spans addr (0x120000 + 0x100 * p) 0x28

def mayRead (who : Requester) (addr : Nat) : Bool := who.cls != 1 || vfReads who.part addr
def mayWrite (who : Requester) (addr : Nat) : Bool := who.cls != 1 || vfWrites who.part addr

/-- A virtual function's write to a register it does not reach is dropped and counted (R331). -/
def vfDenied (s : State) : State :=
  let s := countVfDeny s
  { s with lnk := { s.lnk with vfDenySeen := true } }

/-! ## Reads -/

def read32 (who : Requester) (addr : Nat) (s : State) : State × Nat :=
  if !mayRead who addr then (s, 0)
  else match hit32 addr with
    | .whole r => (r.onRead who s, r.val s % 2 ^ 32)
    | .low r => readHalf r addr who false s
    | .high r base => readHalf r base who true s
    | .nothing => (s, 0)

/-- A naturally aligned access of 32 or 64 bits (R5). -/
def natural (addr size : Nat) : Bool := (size == 4 || size == 8) && addr % size == 0

/-- The 64-bit register at an address. -/
def wideAt (addr : Nat) : Option Reg :=
  match regAt addr with
  | some r => if r.wide then some r else none
  | none => none

/-- A read: the value returned, and what the read changes (R4, R5). One of 64 bits that meets two 32-bit registers reads both, the low
one first (DESIGN CHOICE: R5 does not say). -/
def regRead (who : Requester) (addr size : Nat) (s : State) : State × Nat :=
  if !windowOpen s who addr || absentFunction s who || !natural addr size then (s, 0)
  else if inComponent addr then (if who.cls = 1 then (s, 0) else dwordRead size addr (fun _ => openRead) s)
  else if size = 4 then read32 who addr s
  else
    match wideAt addr with
    | some r => if mayRead who addr then (r.onRead who s, r.val s % 2 ^ 64) else (s, 0)
    | none =>
      let (s, lo) := read32 who addr s
      let (s, hi) := read32 who (addr + 4) s
      (s, lo + 2 ^ 32 * hi)

/-! ## Writes -/

def write32 (who : Requester) (addr value : Nat) (s : State) : State :=
  if !mayWrite who addr then vfDenied s
  else match hit32 addr with
    | .whole r => writeWhole r addr who value s
    | .low r => writeHalf r addr who false value s
    | .high r base => writeHalf r base who true value s
    | .nothing => s

/-- The register that holds the byte at an address: its owner and its address; else the block's own unit. -/
def byteOwner (addr : Nat) : Nat × Nat :=
  let a := addr - addr % 4
  match hit32 a with
  | .whole r => (r.unit, a)
  | .low r => (r.unit, a)
  | .high r base => (r.unit, base)
  | .nothing => (blockUnit (blockOf addr), addr)

/-- A write of another size or alignment changes nothing and is recorded as refused (R5, R125). -/
def oddWrite (who : Requester) (addr size value : Nat) (s : State) : State :=
  if !mayWrite who addr then vfDenied s
  else if blockOf addr ≥ blocks then s
  else noteConflict (byteOwner addr).1 (byteOwner addr).2 true who (value % 2 ^ (8 * size)) s

/-- A write. A naturally aligned one of 64 bits that meets two 32-bit registers writes both, the low one first (DESIGN CHOICE: R5 does
not say). -/
def regWrite (who : Requester) (addr size value : Nat) (s : State) : State :=
  if !windowOpen s who addr then s
  else if absentFunction s who then countVfDeny s
  else if !natural addr size then oddWrite who addr size value s
  else if inComponent addr then (if who.cls = 1 then vfDenied s else dwordWrite size addr value componentWrite s)
  else if size = 4 then write32 who addr (value % 2 ^ 32) s
  else
    match wideAt addr with
    | some r => if mayWrite who addr then writeWhole r addr who (value % 2 ^ 64) s else vfDenied s
    | none => write32 who (addr + 4) (value / 2 ^ 32 % 2 ^ 32) (write32 who addr (value % 2 ^ 32) s)

/-- The value a read returns to its requester. -/
def answerRead (who : Requester) (r : State × Nat) : State :=
  emit (.readData who.part r.2) { r.1 with regs := { r.1.regs with readData := r.2 } }

/-- A host's access of its function's BAR4/5 or configuration space (R330): a function that does not exist decodes nothing (R329),
and a cold start has configuration requests retried (R431). -/
def functionAccess (a : RegAccess) (s : State) : State :=
  let p := a.who.part
  let config := a.space == .config
  if a.who.cls > 1 || !natural a.addr a.size then s
  else if config && !s.fw.ready && s.fw.start.any (fun r => !r.warm) then emit (.configRetry p) s
  else if absentFunction s a.who then (if a.write then countVfDeny s else answerRead a.who (s, 0))
  else if a.write then dwordWrite a.size a.addr a.value (if config then configWrite p else tableWrite p) s
  else answerRead a.who (dwordRead a.size a.addr (fun o s => if config then configRead p o s else (s, tableRead p o s)) s)

/-- An access of the register window, or of the function's other spaces. -/
def regAccess (a : RegAccess) (s : State) : State :=
  if a.space ≠ .bar0 then functionAccess a s
  else if a.write then regWrite a.who a.addr a.size a.value s
  else answerRead a.who (regRead a.who a.addr a.size s)

/-- REGISTER_WRITE: an access of any register. -/
def execRegisterWrite (a : RegAccess) (s : State) : Host.Outcome State Fault Refusal := ends s (regAccess a s)

/-! ## Accesses with a row of their own -/

/-- An access takes place where it is the row's. -/
def rowAccess (mine : Bool) (a : RegAccess) (s : State) : Host.Outcome State Fault Refusal :=
  ends s (if mine && a.space == .bar0 then regAccess a s else s)

/-- A write of `n` bytes of registers from `base`. -/
def writesIn (a : RegAccess) (base n : Nat) : Bool := a.write && spans a.addr base n

/-- A port offset, for an address in a port's window. -/
def portOffset (addr : Nat) : Option Nat :=
  if spans addr 0x720000 (8 * 0x18000) then some ((addr - 0x720000) % 0x18000) else none

/-- A write of port registers from offset `base`, in the words of each 16-byte element that `hi` picks. -/
def writesPort (a : RegAccess) (base n : Nat) (hi : Bool) : Bool :=
  a.write && match portOffset a.addr with
    | some o => spans o base n && (!hi || decide (8 ≤ o % 16))
    | none => false

/-- JCQ_ADMIN_WRITE (R117). -/
def execJcqAdminWrite (a : RegAccess) (s : State) : Host.Outcome State Fault Refusal :=
  rowAccess (writesIn a 0x120000 0x4000 && decide (a.addr % 0x100 < 0x28)) a s

/-- RULE_WRITE: a rule's +8 register (R364). -/
def execRuleWrite (a : RegAccess) (s : State) : Host.Outcome State Fault Refusal :=
  rowAccess (writesPort a 0x1000 0x1000 true) a s

/-- POLICER_WRITE: a policer's +8 register (R366). -/
def execPolicerWrite (a : RegAccess) (s : State) : Host.Outcome State Fault Refusal :=
  rowAccess (writesPort a 0x4000 0x4000 true) a s

/-- SHAPER_WRITE: a group's or queue's +8 register (R371). -/
def execShaperWrite (a : RegAccess) (s : State) : Host.Outcome State Fault Refusal :=
  rowAccess (writesPort a 0x3000 0x1000 true || writesPort a 0x8000 0x10000 true) a s

/-- TXMAP_WRITE (R369). -/
def execTxmapWrite (a : RegAccess) (s : State) : Host.Outcome State Fault Refusal :=
  rowAccess (writesPort a 0x800 0x400 false) a s

/-- PORT_CTL_ENABLE (R362). -/
def execPortCtlEnable (a : RegAccess) (s : State) : Host.Outcome State Fault Refusal :=
  rowAccess (writesPort a 0x8 4 false) a s

/-- LOW_POWER_SET (R379). -/
def execLowPowerSet (a : RegAccess) (s : State) : Host.Outcome State Fault Refusal :=
  rowAccess (writesPort a 0x8 4 false && bit a.value 8) a s

/-- LOW_POWER_CLEAR (R380). -/
def execLowPowerClear (a : RegAccess) (s : State) : Host.Outcome State Fault Refusal :=
  rowAccess (writesPort a 0x8 4 false && !bit a.value 8) a s

/-- PT_ADJ (R377). -/
def execPtAdj (a : RegAccess) (s : State) : Host.Outcome State Fault Refusal :=
  rowAccess (writesPort a 0x108 8 false) a s

/-- PT_SNAP (R377). -/
def execPtSnap (a : RegAccess) (s : State) : Host.Outcome State Fault Refusal :=
  rowAccess (writesPort a 0x114 4 false) a s

/-- COUNTER_TOP_CLEAR (R376). -/
def execCounterTopClear (a : RegAccess) (s : State) : Host.Outcome State Fault Refusal :=
  rowAccess (writesPort a 0x2800 0x800 false) a s

/-- DOMAIN_POLICY_WRITE (R417). -/
def execDomainPolicyWrite (a : RegAccess) (s : State) : Host.Outcome State Fault Refusal :=
  rowAccess (writesIn a 0xC10000 0x500 && decide (a.addr % 16 < 4)) a s

/-- SAFE_EXIT (R436). -/
def execSafeExit (a : RegAccess) (s : State) : Host.Outcome State Fault Refusal := rowAccess (writesIn a 0x18 4) a s

/-- Word `w` of a mailbox. -/
def inMbox (a : RegAccess) (w : Nat) : Bool := spans a.addr 0x2000 0x800 && a.addr % 0x40 / 4 == w

/-- MBOX_GO (R443). -/
def execMboxGo (a : RegAccess) (s : State) : Host.Outcome State Fault Refusal := rowAccess (a.write && inMbox a 15) a s

/-- MBOX_SENDER_READ (R444). -/
def execMboxSenderRead (a : RegAccess) (s : State) : Host.Outcome State Fault Refusal :=
  rowAccess (!a.write && inMbox a 14) a s

/-- LOST_CLEAR: 0xFFFF in the `LOST` field (R465). -/
def execLostClear (a : RegAccess) (s : State) : Host.Outcome State Fault Refusal :=
  rowAccess (writesIn a 0xA40000 0x40000 && bits a.value 16 16 == 0xFFFF) a s

/-- RESET_CTL_UNIT: `LEVEL` 0 to 2 (R485). -/
def execResetCtlUnit (a : RegAccess) (s : State) : Host.Outcome State Fault Refusal :=
  rowAccess (writesIn a 0x3010 4 && bits a.value 16 2 != 3) a s

/-- RESET_CTL_PACKAGE: `LEVEL` 3 (R485). -/
def execResetCtlPackage (a : RegAccess) (s : State) : Host.Outcome State Fault Refusal :=
  rowAccess (writesIn a 0x3010 4 && bits a.value 16 2 == 3) a s

/-- RESET_CTL_DUMP: the `DUMP` bit (R490). -/
def execResetCtlDump (a : RegAccess) (s : State) : Host.Outcome State Fault Refusal :=
  rowAccess (writesIn a 0x3010 4 && bit a.value 19) a s

/-- CNT_SEL_WRITE (R498). -/
def execCntSelWrite (a : RegAccess) (s : State) : Host.Outcome State Fault Refusal := rowAccess (writesIn a 0xB00000 4) a s

end Sys2Proof.Machine
end

