-- ==== Sys2Proof/Machine/WeftRx.lean ====
section
/-! DEFINITION. The messages a Weft router takes (R10, R17, R18, R21 to R24, R30) and the requests whose time runs out (R23). -/

namespace Sys2Proof.Machine

/-! ## The end of a request without its data (R18, R23) -/

/-- A message of the sampling is lost: the entry is not written, and the command ends with TIMEOUT (R23, R30, R32). -/
def sampleLost (die : Nat) (s : State) : State :=
  match s.weft.sampling.find? fun x => x.die == die with
  | none => s
  | some _ => endSampling { s with weft := { s.weft with
      sampling := s.weft.sampling.filter fun x => x.die != die
      samplingFailed := true } }

/-- A table walk's read fails: its holder gets the status. -/
def walkLost (id : Nat) (st : Status) (s : State) : State :=
  match s.hdl.walks.find? fun w => w.id == id with
  | some w => deliver w.req st 0 0 { s with hdl := { s.hdl with walks := s.hdl.walks.filter fun x => x.id != id } }
  | none => s

/-- A context fetch fails: the packets parked for it are discarded and the commands that wait for it end with the status. -/
def ctxFetchLost (q : Nat) (st : Status) (s : State) : State :=
  let mine (c : Cmd) : Bool := toGlobal s 1 c.part (cmdQid c) == some q
  let cs := s.sht.waitCmds.filter mine
  let s := { s with sht := { s.sht with
    fetching := s.sht.fetching.filter (· != q)
    parked := s.sht.parked.filter fun k => k.qp != q
    waitCmds := s.sht.waitCmds.filter fun c => !mine c } }
  cs.foldl (fun s c => complete c st [] (serving s q) s) s

/-- The operation that depended on a request completes with the status of the error response (R23). -/
def requestLost (why : WeftPurpose) (st : Status) (s : State) : State :=
  match why with
  | .timeSample die => sampleLost die s
  | .walk id => walkLost id st s
  | .skeinEntry r => if (skeinOf s r).fetching then freezeCheck (skeinError r st (dropFetch r s)) else s
  | .ctxFetch q => ctxFetchLost q st s
  | .stream b id => streamLost b id st s

/-- A request is no longer awaited. -/
def freeRequest (r : WeftReq) (s : State) : State :=
  { s with weft := { s.weft with outstanding := s.weft.outstanding.filter fun x => x.id != r.id } }

/-! ## WEFT_TIMEOUT (R23) -/

/-- The timeout of a request's link class has passed since its last flit left, on the counter of the router's die. -/
def requestOverdue (s : State) (r : WeftReq) : Bool :=
  match r.sent with
  | some t => decide ((tget 0x32 s.weft.tmo r.cls).toNat * 1000 ≤ (dieTime s r.die - t).toNat)
  | none => false

/-- The error response a router gives the requesting unit of its own die. -/
def timeoutResponse (r : WeftReq) : WeftMsg := mkMsg r.src (router r.die) 0 1 r.stream 1 (leBytes 1 (statusCode .timeout))

/-- A request has been out for the timeout of its link class: the requesting unit gets an error response with TIMEOUT, the
request's state is freed, a record names the destination, and the operation it belonged to ends. -/
def weftTimeout (id : Nat) (s : State) : State :=
  match s.weft.outstanding.find? fun r => r.id == id with
  | none => s
  | some r =>
    if !requestOverdue s r then s
    else
      let s := freeRequest r { s with weft := { s.weft with timeoutSeen := true } }
      requestLost r.purpose .timeout
        (emit (.delivered (timeoutResponse r)) (record { mkRecord s (router r.die) 0x0101 with info0 := r.dest } s))

def execWeftTimeout (id : Nat) (s : State) : Host.Outcome State Fault Refusal := ends s (reedNotice (weftTimeout id s))

/-! ## WEFT_MESSAGE_RECEIVE (R18, R24) -/

/-- A response answers a request of its destination with its `STREAM`: from the unit asked, or an error response of a router
on that unit's behalf (R10, R18). -/
def answers (f : Flit) (r : WeftReq) : Bool :=
  r.src == f.dest && r.stream == f.stream && (r.dest == f.src || (f.kind == 1 && classOf f.src == 9))

/-- The status an error response carries. DESIGN CHOICE: a first byte that no status code is written in counts as CHECK_FAIL. -/
def responseStatus (m : WeftMsg) : Status := (statusOf (byteAt (payloadOf m) 0)).getD .checkFail

/-- A response reaches the unit that asked: it ends the request, or is late, counted and discarded (R24). Either way the buffer
entries it holds are released. A unit in reset takes nothing (R482). -/
def takeResponse (die : Nat) (l : Lane) (m : WeftMsg) (s : State) : State :=
  let f := headFlit m
  let s := freeBuffer (some l) m s
  match s.weft.outstanding.find? fun r => r.die == die && answers f r with
  | none => { s with weft := { s.weft with late := satInc s.weft.late } }
  | some r =>
    let s := freeRequest r s
    if inReset s f.dest then s
    else
      let s := emit (.delivered m) s
      match f.kind, r.purpose with
      | 1, why => requestLost why (responseStatus m) s
      | 3, .timeSample d => storeSample d (some (BitVec.ofNat 64 (fieldLE (payloadOf m) 0 8))) s
      | _, _ => s

/-- A message whose parity is right: a hub sends it on, a router delivers it. A credit-only flit gives back one credit of its
virtual class in the other direction of its channel. DESIGN CHOICE: the spec names the kind and says no more; one flit is one
credit, and it takes no buffer entry. -/
def routeMsg (die : Nat) (l : Lane) (m : WeftMsg) (s : State) : State :=
  let f := headFlit m
  if f.kind = 2 then returnCredit { l with inbound := !l.inbound } s
  else
    let s := fillBuffer l m.flits.length s
    if dieOf f.dest ≠ die then forward die (some l) m s
    else if f.vc = 1 then takeResponse die l m s
    else takeRequest die (some l) m s

/-- R18: checks the parity of a message's flits and takes it, or discards it. -/
def receiveMsg (die chan : Nat) (m : WeftMsg) (s : State) : State :=
  match laneAt die chan (headFlit m).vc true with
  | none => s
  | some l =>
    let s := bump (router die) 3 m.flits.length s
    if m.flits.all fun f => sparGood f && parGood f then routeMsg die l m s else parityDiscard die chan m s

def execWeftMessageReceive (die chan : Nat) (m : WeftMsg) (s : State) : Host.Outcome State Fault Refusal :=
  ends s (reedNotice (receiveMsg die chan m s))

end Sys2Proof.Machine
end

