-- ==== Sys2Proof/Machine/Dispatch.lean ====
section
/-! DEFINITION. The meaning of each command: one arm per row of the table. -/

namespace Sys2Proof.Machine

/-- The effect of a command on everything but the queue. -/
def exec (i : Instr) (s : State) : Host.Outcome State Fault Refusal :=
  match i with
  | .registerWrite a => Sys2Proof.Machine.execRegisterWrite a s
  | .weftMessageReceive die chan m => Sys2Proof.Machine.execWeftMessageReceive die chan m s
  | .weftCreditReturn die chan vc => Sys2Proof.Machine.execWeftCreditReturn die chan vc s
  | .weftTimeout id => Sys2Proof.Machine.execWeftTimeout id s
  | .timeSample c => Sys2Proof.Machine.execTimeSample c s
  | .timeSampleReply die => Sys2Proof.Machine.execTimeSampleReply die s
  | .timePair c => Sys2Proof.Machine.execTimePair c s
  | .spoolRequest r => Sys2Proof.Machine.execSpoolRequest r s
  | .hostCxlMemRequest h => Sys2Proof.Machine.execHostCxlMemRequest h s
  | .birsp id => Sys2Proof.Machine.execBirsp id s
  | .biTimeout id => Sys2Proof.Machine.execBiTimeout id s
  | .scrubLineStep stack errs => Sys2Proof.Machine.execScrubLineStep stack errs s
  | .tableCopyUpdate unit => Sys2Proof.Machine.execTableCopyUpdate unit s
  | .zeroingComplete stack => Sys2Proof.Machine.execZeroingComplete stack s
  | .granuleAssign c => Sys2Proof.Machine.execGranuleAssign c s
  | .granuleRelease c => Sys2Proof.Machine.execGranuleRelease c s
  | .ctxAssign c => Sys2Proof.Machine.execCtxAssign c s
  | .ctxConfig c => Sys2Proof.Machine.execCtxConfig c s
  | .ctxDisable c => Sys2Proof.Machine.execCtxDisable c s
  | .hdlWithdraw c => Sys2Proof.Machine.execHdlWithdraw c s
  | .regionRegister c => Sys2Proof.Machine.execRegionRegister c s
  | .regionRevoke c => Sys2Proof.Machine.execRegionRevoke c s
  | .pfQueueConfig c => Sys2Proof.Machine.execPfQueueConfig c s
  | .pfResolve c => Sys2Proof.Machine.execPfResolve c s
  | .pfHeldList c => Sys2Proof.Machine.execPfHeldList c s
  | .pfReleaseHeld c => Sys2Proof.Machine.execPfReleaseHeld c s
  | .translationLookup r => Sys2Proof.Machine.execTranslationLookup r s
  | .tableEntryReturn walk ext => Sys2Proof.Machine.execTableEntryReturn walk ext s
  | .holderAck id h holder => Sys2Proof.Machine.execHolderAck id h holder s
  | .holderAckTimeout id h holder => Sys2Proof.Machine.execHolderAckTimeout id h holder s
  | .holderFenceWaitExpiry id h holder => Sys2Proof.Machine.execHolderFenceWaitExpiry id h holder s
  | .sqTail d => Sys2Proof.Machine.execSqTail d s
  | .cqHead d => Sys2Proof.Machine.execCqHead d s
  | .ctl d => Sys2Proof.Machine.execCtl d s
  | .asqTail d => Sys2Proof.Machine.execAsqTail d s
  | .acqHead d => Sys2Proof.Machine.execAcqHead d s
  | .eqHead d => Sys2Proof.Machine.execEqHead d s
  | .jcqAdminWrite a => Sys2Proof.Machine.execJcqAdminWrite a s
  | .skeinServe proc => Sys2Proof.Machine.execSkeinServe proc s
  | .skeinEntryReturn sk ext => Sys2Proof.Machine.execSkeinEntryReturn sk ext s
  | .engineCreditGrant unit n => Sys2Proof.Machine.execEngineCreditGrant unit n s
  | .commandCompletion n => Sys2Proof.Machine.execCommandCompletion n s
  | .msixUnmask part vector mask => Sys2Proof.Machine.execMsixUnmask part vector mask s
  | .nop c => Sys2Proof.Machine.execNop c s
  | .skeinCreate c => Sys2Proof.Machine.execSkeinCreate c s
  | .skeinModify c => Sys2Proof.Machine.execSkeinModify c s
  | .skeinDestroy c => Sys2Proof.Machine.execSkeinDestroy c s
  | .qpCreate c => Sys2Proof.Machine.execQpCreate c s
  | .qpModify c => Sys2Proof.Machine.execQpModify c s
  | .qpDestroy c => Sys2Proof.Machine.execQpDestroy c s
  | .qpQuery c => Sys2Proof.Machine.execQpQuery c s
  | .write c => Sys2Proof.Machine.execWrite c s
  | .read c => Sys2Proof.Machine.execRead c s
  | .send c => Sys2Proof.Machine.execSend c s
  | .recv c => Sys2Proof.Machine.execRecv c s
  | .fetchAdd c => Sys2Proof.Machine.execFetchAdd c s
  | .cmpSwap c => Sys2Proof.Machine.execCmpSwap c s
  | .reducePush c => Sys2Proof.Machine.execReducePush c s
  | .udSend c => Sys2Proof.Machine.execUdSend c s
  | .nvmeIo c => Sys2Proof.Machine.execNvmeIo c s
  | .pacedSend qp reads => Sys2Proof.Machine.execPacedSend qp reads s
  | .txqRoom qp => Sys2Proof.Machine.execTxqRoom qp s
  | .rxWrite port frame ext => Sys2Proof.Machine.execRxWrite port frame ext s
  | .rxReadReq port frame ext => Sys2Proof.Machine.execRxReadReq port frame ext s
  | .rxReadResp port frame ext => Sys2Proof.Machine.execRxReadResp port frame ext s
  | .rxSend port frame ext => Sys2Proof.Machine.execRxSend port frame ext s
  | .rxFetchAdd port frame ext => Sys2Proof.Machine.execRxFetchAdd port frame ext s
  | .rxCmpSwap port frame ext => Sys2Proof.Machine.execRxCmpSwap port frame ext s
  | .rxAtomicResp port frame ext => Sys2Proof.Machine.execRxAtomicResp port frame ext s
  | .rxReducePush port frame ext => Sys2Proof.Machine.execRxReducePush port frame ext s
  | .rxPushRelease port frame ext => Sys2Proof.Machine.execRxPushRelease port frame ext s
  | .rxPushRecall port frame ext => Sys2Proof.Machine.execRxPushRecall port frame ext s
  | .rxUdSend port frame ext => Sys2Proof.Machine.execRxUdSend port frame ext s
  | .rxAck port frame ext => Sys2Proof.Machine.execRxAck port frame ext s
  | .rxNak port frame ext => Sys2Proof.Machine.execRxNak port frame ext s
  | .rxAbandon port frame ext => Sys2Proof.Machine.execRxAbandon port frame ext s
  | .packetCommit qp psn ext => Sys2Proof.Machine.execPacketCommit qp psn ext s
  | .ackDelayExpiry qp => Sys2Proof.Machine.execAckDelayExpiry qp s
  | .tRtoExpiry qp => Sys2Proof.Machine.execTRtoExpiry qp s
  | .deferExpiry qp => Sys2Proof.Machine.execDeferExpiry qp s
  | .tIncExpiry qp => Sys2Proof.Machine.execTIncExpiry qp s
  | .nvmeTimeout qp => Sys2Proof.Machine.execNvmeTimeout qp s
  | .rocePacketReceive port frame ext => Sys2Proof.Machine.execRocePacketReceive port frame ext s
  | .contextFetchComplete qp uncorrectable => Sys2Proof.Machine.execContextFetchComplete qp uncorrectable s
  | .cacheWayUnpin qp => Sys2Proof.Machine.execCacheWayUnpin qp s
  | .commCreate c => Sys2Proof.Machine.execCommCreate c s
  | .allReduce c => Sys2Proof.Machine.execAllReduce c s
  | .reduceScatter c => Sys2Proof.Machine.execReduceScatter c s
  | .allGather c => Sys2Proof.Machine.execAllGather c s
  | .reduce c => Sys2Proof.Machine.execReduce c s
  | .broadcast c => Sys2Proof.Machine.execBroadcast c s
  | .allToAll c => Sys2Proof.Machine.execAllToAll c s
  | .commReform c => Sys2Proof.Machine.execCommReform c s
  | .commDestroy c => Sys2Proof.Machine.execCommDestroy c s
  | .commQuery c => Sys2Proof.Machine.execCommQuery c s
  | .commMemberLost c => Sys2Proof.Machine.execCommMemberLost c s
  | .commStateDelivery comm engine => Sys2Proof.Machine.execCommStateDelivery comm engine s
  | .peerEntryRead comm rank ext => Sys2Proof.Machine.execPeerEntryRead comm rank ext s
  | .contributionBlock comm opseq pick stage src off corrupt fault ext => Sys2Proof.Machine.execContributionBlock comm opseq pick stage src off corrupt fault ext s
  | .pickCommit comm opseq pick stage seg refused fault ext => Sys2Proof.Machine.execPickCommit comm opseq pick stage seg refused fault ext s
  | .datapathStall unit stage => Sys2Proof.Machine.execDatapathStall unit stage s
  | .shadowLaneAdvance engine => Sys2Proof.Machine.execShadowLaneAdvance engine s
  | .sop bobbin e => Sys2Proof.Machine.execSop bobbin e s
  | .saddi bobbin e => Sys2Proof.Machine.execSaddi bobbin e s
  | .sandi bobbin e => Sys2Proof.Machine.execSandi bobbin e s
  | .sshi bobbin e => Sys2Proof.Machine.execSshi bobbin e s
  | .sld bobbin e => Sys2Proof.Machine.execSld bobbin e s
  | .slw bobbin e => Sys2Proof.Machine.execSlw bobbin e s
  | .sst bobbin e => Sys2Proof.Machine.execSst bobbin e s
  | .br bobbin e => Sys2Proof.Machine.execBr bobbin e s
  | .jal bobbin e => Sys2Proof.Machine.execJal bobbin e s
  | .jr bobbin e => Sys2Proof.Machine.execJr bobbin e s
  | .vop bobbin e => Sys2Proof.Machine.execVop bobbin e s
  | .vops bobbin e => Sys2Proof.Machine.execVops bobbin e s
  | .vcmp bobbin e => Sys2Proof.Machine.execVcmp bobbin e s
  | .pop bobbin e => Sys2Proof.Machine.execPop bobbin e s
  | .vred bobbin e => Sys2Proof.Machine.execVred bobbin e s
  | .vmov bobbin e => Sys2Proof.Machine.execVmov bobbin e s
  | .vld bobbin e => Sys2Proof.Machine.execVld bobbin e s
  | .vst bobbin e => Sys2Proof.Machine.execVst bobbin e s
  | .vldu bobbin e => Sys2Proof.Machine.execVldu bobbin e s
  | .vdot bobbin e => Sys2Proof.Machine.execVdot bobbin e s
  | .vdotmx bobbin e => Sys2Proof.Machine.execVdotmx bobbin e s
  | .aop bobbin e => Sys2Proof.Machine.execAop bobbin e s
  | .vcvt bobbin e => Sys2Proof.Machine.execVcvt bobbin e s
  | .mxq bobbin e => Sys2Proof.Machine.execMxq bobbin e s
  | .mxd bobbin e => Sys2Proof.Machine.execMxd bobbin e s
  | .srd bobbin e => Sys2Proof.Machine.execSrd bobbin e s
  | .swr bobbin e => Sys2Proof.Machine.execSwr bobbin e s
  | .sgth bobbin e => Sys2Proof.Machine.execSgth bobbin e s
  | .swait bobbin e => Sys2Proof.Machine.execSwait bobbin e s
  | .scrc bobbin e => Sys2Proof.Machine.execScrc bobbin e s
  | .bar bobbin e => Sys2Proof.Machine.execBar bobbin e s
  | .satom bobbin e => Sys2Proof.Machine.execSatom bobbin e s
  | .fence bobbin e => Sys2Proof.Machine.execFence bobbin e s
  | .ckpt bobbin e => Sys2Proof.Machine.execCkpt bobbin e s
  | .halt bobbin e => Sys2Proof.Machine.execHalt bobbin e s
  | .time bobbin e => Sys2Proof.Machine.execTime bobbin e s
  | .streamUnitComplete bobbin stream unit check => Sys2Proof.Machine.execStreamUnitComplete bobbin stream unit check s
  | .barrierRelease bobbin => Sys2Proof.Machine.execBarrierRelease bobbin s
  | .bobImageLoad c => Sys2Proof.Machine.execBobImageLoad c s
  | .bobImageUnload c => Sys2Proof.Machine.execBobImageUnload c s
  | .bobLaunch c => Sys2Proof.Machine.execBobLaunch c s
  | .bobStop c => Sys2Proof.Machine.execBobStop c s
  | .launchGrant part => Sys2Proof.Machine.execLaunchGrant part s
  | .launchLoadComplete bobbin => Sys2Proof.Machine.execLaunchLoadComplete bobbin s
  | .bobbinZeroingDone bobbin => Sys2Proof.Machine.execBobbinZeroingDone bobbin s
  | .limitMsExpiry part launchId => Sys2Proof.Machine.execLimitMsExpiry part launchId s
  | .seqCreate c => Sys2Proof.Machine.execSeqCreate c s
  | .seqDestroy c => Sys2Proof.Machine.execSeqDestroy c s
  | .seqQuery c => Sys2Proof.Machine.execSeqQuery c s
  | .h2dSnoop x line inv => Sys2Proof.Machine.execH2dSnoop x line inv s
  | .cxlCacheCompletion id status bytes => Sys2Proof.Machine.execCxlCacheCompletion id status bytes s
  | .peerCompletion id e bytes => Sys2Proof.Machine.execPeerCompletion id e bytes s
  | .cxlLinkDown x => Sys2Proof.Machine.execCxlLinkDown x s
  | .cxlLinkUp x rate width flit256 => Sys2Proof.Machine.execCxlLinkUp x rate width flit256 s
  | .perstAssert x => Sys2Proof.Machine.execPerstAssert x s
  | .spdmRequest port cdat request => Sys2Proof.Machine.execSpdmRequest port cdat request s
  | .flitReceive port bytes => Sys2Proof.Machine.execFlitReceive port bytes s
  | .tchRead port hdr => Sys2Proof.Machine.execTchRead port hdr s
  | .tchWrite port hdr data => Sys2Proof.Machine.execTchWrite port hdr data s
  | .tchAtomic port hdr data => Sys2Proof.Machine.execTchAtomic port hdr data s
  | .tchReducePush port hdr data => Sys2Proof.Machine.execTchReducePush port hdr data s
  | .tchResponse port hdr data => Sys2Proof.Machine.execTchResponse port hdr data s
  | .doorbell port hdr => Sys2Proof.Machine.execDoorbell port hdr s
  | .user port hdr => Sys2Proof.Machine.execUser port hdr s
  | .accTmoExpiry port tag => Sys2Proof.Machine.execAccTmoExpiry port tag s
  | .tchTrainingStepDone port t => Sys2Proof.Machine.execTchTrainingStepDone port t s
  | .tchTrainingOverrun port => Sys2Proof.Machine.execTchTrainingOverrun port s
  | .tchLinkLoss port => Sys2Proof.Machine.execTchLinkLoss port s
  | .tchRetrainRetry port => Sys2Proof.Machine.execTchRetrainRetry port s
  | .aportBind c => Sys2Proof.Machine.execAportBind c s
  | .aportCtl c => Sys2Proof.Machine.execAportCtl c s
  | .ethFrameReceive port sub wire corr uncorr => Sys2Proof.Machine.execEthFrameReceive port sub wire corr uncorr s
  | .txFrameStart port sub buffered supplied => Sys2Proof.Machine.execTxFrameStart port sub buffered supplied s
  | .txFrameEnd port sub => Sys2Proof.Machine.execTxFrameEnd port sub s
  | .subportLinkUp port sub => Sys2Proof.Machine.execSubportLinkUp port sub s
  | .subportLinkDown port sub => Sys2Proof.Machine.execSubportLinkDown port sub s
  | .ethSend c => Sys2Proof.Machine.execEthSend c s
  | .ruleWrite a => Sys2Proof.Machine.execRuleWrite a s
  | .policerWrite a => Sys2Proof.Machine.execPolicerWrite a s
  | .shaperWrite a => Sys2Proof.Machine.execShaperWrite a s
  | .txmapWrite a => Sys2Proof.Machine.execTxmapWrite a s
  | .portCtlEnable a => Sys2Proof.Machine.execPortCtlEnable a s
  | .lowPowerSet a => Sys2Proof.Machine.execLowPowerSet a s
  | .lowPowerClear a => Sys2Proof.Machine.execLowPowerClear a s
  | .ptAdj a => Sys2Proof.Machine.execPtAdj a s
  | .ptSnap a => Sys2Proof.Machine.execPtSnap a s
  | .counterTopClear a => Sys2Proof.Machine.execCounterTopClear a s
  | .mgmtFrameReceive wire => Sys2Proof.Machine.execMgmtFrameReceive wire s
  | .mgmtCollision frame atBit => Sys2Proof.Machine.execMgmtCollision frame atBit s
  | .mgmtBackoffExpiry => Sys2Proof.Machine.execMgmtBackoffExpiry s
  | .keyLoad c => Sys2Proof.Machine.execKeyLoad c s
  | .keyDestroy c => Sys2Proof.Machine.execKeyDestroy c s
  | .keyQuery c => Sys2Proof.Machine.execKeyQuery c s
  | .gcmSeal c => Sys2Proof.Machine.execGcmSeal c s
  | .gcmOpen c => Sys2Proof.Machine.execGcmOpen c s
  | .xtsEnc c => Sys2Proof.Machine.execXtsEnc c s
  | .xtsDec c => Sys2Proof.Machine.execXtsDec c s
  | .cipherJobArrival qp job => Sys2Proof.Machine.execCipherJobArrival qp job s
  | .cipherJobComplete core => Sys2Proof.Machine.execCipherJobComplete core s
  | .resSet c => Sys2Proof.Machine.execResSet c s
  | .partFreeze c => Sys2Proof.Machine.execPartFreeze c s
  | .freezeTimeout part => Sys2Proof.Machine.execFreezeTimeout part s
  | .partSave c => Sys2Proof.Machine.execPartSave c s
  | .partRestore c => Sys2Proof.Machine.execPartRestore c s
  | .partThaw c => Sys2Proof.Machine.execPartThaw c s
  | .partClear c => Sys2Proof.Machine.execPartClear c s
  | .pwrSet c => Sys2Proof.Machine.execPwrSet c s
  | .pwrQuery c => Sys2Proof.Machine.execPwrQuery c s
  | .tokenRequest unit part => Sys2Proof.Machine.execTokenRequest unit part s
  | .treadleStep => Sys2Proof.Machine.execTreadleStep s
  | .tokenReturn unit => Sys2Proof.Machine.execTokenReturn unit s
  | .idleReleaseExpiry unit => Sys2Proof.Machine.execIdleReleaseExpiry unit s
  | .domainIdleExpiry x => Sys2Proof.Machine.execDomainIdleExpiry x s
  | .domainWake x => Sys2Proof.Machine.execDomainWake x s
  | .domainWakeComplete x => Sys2Proof.Machine.execDomainWakeComplete x s
  | .domainPolicyWrite a => Sys2Proof.Machine.execDomainPolicyWrite a s
  | .pmbusPoll polls => Sys2Proof.Machine.execPmbusPoll polls s
  | .pmbusAlert vr status => Sys2Proof.Machine.execPmbusAlert vr status s
  | .paceSample x pace => Sys2Proof.Machine.execPaceSample x pace s
  | .temperatureSample sensor temp => Sys2Proof.Machine.execTemperatureSample sensor temp s
  | .crossStall n requester => Sys2Proof.Machine.execCrossStall n requester s
  | .coreStall n => Sys2Proof.Machine.execCoreStall n s
  | .xstallClear n => Sys2Proof.Machine.execXstallClear n s
  | .porNRelease straps => Sys2Proof.Machine.execPorNRelease straps s
  | .porNAssert => Sys2Proof.Machine.execPorNAssert s
  | .startStepDone step info => Sys2Proof.Machine.execStartStepDone step info s
  | .startStepOverrun step retrain => Sys2Proof.Machine.execStartStepOverrun step retrain s
  | .devRestart c => Sys2Proof.Machine.execDevRestart c s
  | .restartDeadline => Sys2Proof.Machine.execRestartDeadline s
  | .packageReset => Sys2Proof.Machine.execPackageReset s
  | .safeExit a => Sys2Proof.Machine.execSafeExit a s
  | .fwDownload c => Sys2Proof.Machine.execFwDownload c s
  | .fwActivate c => Sys2Proof.Machine.execFwActivate c s
  | .mboxGo a => Sys2Proof.Machine.execMboxGo a s
  | .mboxSenderRead a => Sys2Proof.Machine.execMboxSenderRead a s
  | .mboxSend c => Sys2Proof.Machine.execMboxSend c s
  | .mboxRead c => Sys2Proof.Machine.execMboxRead c s
  | .lockstepMiscompare unit step => Sys2Proof.Machine.execLockstepMiscompare unit step s
  | .faultReport => Sys2Proof.Machine.execFaultReport s
  | .copyCompare unit upset => Sys2Proof.Machine.execCopyCompare unit upset s
  | .testSliceStart unit => Sys2Proof.Machine.execTestSliceStart unit s
  | .testSliceEnd unit ran failed => Sys2Proof.Machine.execTestSliceEnd unit ran failed s
  | .testPeriodExpiry unit => Sys2Proof.Machine.execTestPeriodExpiry unit s
  | .lostClear a => Sys2Proof.Machine.execLostClear a s
  | .safRead c => Sys2Proof.Machine.execSafRead c s
  | .safAck c => Sys2Proof.Machine.execSafAck c s
  | .safFence c => Sys2Proof.Machine.execSafFence c s
  | .safUnfence c failed => Sys2Proof.Machine.execSafUnfence c failed s
  | .safTestLoad c => Sys2Proof.Machine.execSafTestLoad c s
  | .safTestRun c failed => Sys2Proof.Machine.execSafTestRun c failed s
  | .heartbeat c => Sys2Proof.Machine.execHeartbeat c s
  | .hbPeriodExpiry => Sys2Proof.Machine.execHbPeriodExpiry s
  | .hangMode c => Sys2Proof.Machine.execHangMode c s
  | .wfdCollect => Sys2Proof.Machine.execWfdCollect s
  | .unitReset c => Sys2Proof.Machine.execUnitReset c s
  | .resetReached unit => Sys2Proof.Machine.execResetReached unit s
  | .resetLeft unit => Sys2Proof.Machine.execResetLeft unit s
  | .resetEscalation unit stuck => Sys2Proof.Machine.execResetEscalation unit stuck s
  | .hangIsolate c => Sys2Proof.Machine.execHangIsolate c s
  | .isolationSuspectTimeout => Sys2Proof.Machine.execIsolationSuspectTimeout s
  | .hangDump c => Sys2Proof.Machine.execHangDump c s
  | .dumpUnitTimeout => Sys2Proof.Machine.execDumpUnitTimeout s
  | .dumpCopy c => Sys2Proof.Machine.execDumpCopy c s
  | .resetCtlUnit a => Sys2Proof.Machine.execResetCtlUnit a s
  | .resetCtlPackage a => Sys2Proof.Machine.execResetCtlPackage a s
  | .resetCtlDump a => Sys2Proof.Machine.execResetCtlDump a s
  | .cntSelWrite a => Sys2Proof.Machine.execCntSelWrite a s
  | .cntSnapshot c => Sys2Proof.Machine.execCntSnapshot c s
  | .cntProfile c => Sys2Proof.Machine.execCntProfile c s
  | .profileRound => Sys2Proof.Machine.execProfileRound s
  | .cntPartRead c => Sys2Proof.Machine.execCntPartRead c s
  | .cntClear c => Sys2Proof.Machine.execCntClear c s
  | .vddAoInTolerance => Sys2Proof.Machine.execVddAoInTolerance s
  | .vddAoLoss => Sys2Proof.Machine.execVddAoLoss s
  | .perstDeassert x => Sys2Proof.Machine.execPerstDeassert x s
  | .functionLevelReset port part begins => Sys2Proof.Machine.execFunctionLevelReset port part begins s
  | .vfEnable x numVfs on => Sys2Proof.Machine.execVfEnable x numVfs on s
  | .domainTransitionComplete x => Sys2Proof.Machine.execDomainTransitionComplete x s
  | .dumpUnitReadDone bytes => Sys2Proof.Machine.execDumpUnitReadDone bytes s
  | .sgmiiAutoNegotiation word => Sys2Proof.Machine.execSgmiiAutoNegotiation word s

end Sys2Proof.Machine
end

