-- ==== Sys2Proof/Machine/Tick.lean ====
section
/-! DEFINITION. The passing of time. It passes at a step with no command waiting: the time counters advance (R28, R377), units
that hold work take opportunities (R411) and are counted (R494, R495, R503), and an ordered copy lands (R498). -/

namespace Sys2Proof.Machine

/-- Counts of a clock that runs `ppb` off nominal while `t` nominal counts pass. -/
def trimmed (t : Nat) (ppb : Int) : Nat := ((t : Int) + (t : Int) * ppb / 1000000000).toNat

/-- Port time in fractions of 1/65 536 ns: its reference clock runs within 50 ppm (R511), trimmed by `PT_RATE` (R377). It runs
once the package is powered up. -/
def tickPort (t : Nat) (s : State) (k : Nat) : State :=
  let p := ethp s k
  let ppb := 1000 * clampInt (-50) 50 (Config.driftPpm s.seed (64 + k)) + p.rate.toInt
  setEthp k { p with ptime := p.ptime + BitVec.ofNat 64 (trimmed (65536 * t) ppb) } s

/-- One opportunity (R411): the account after it, and whether the step is taken. -/
def opportunity (max min held : Nat) (a : Int) : Int × Bool :=
  let range : Int := (max : Int) - min + 1
  let a' : Int := if a + held + 1 < 64 * range then a + held + 1 else 64 * range
  if 0 ≤ a' then (a' - range, true) else (a', false)

/-- `n` opportunities: the account after them, and how many took no step. -/
def opportunities (max min held : Nat) : Nat → Int → Int × Nat
  | 0, a => (a, 0)
  | n + 1, a =>
    let (a, took) := opportunity max min held a
    let (a, missed) := opportunities max min held n a
    (a, missed + b2n (!took))

/-- A unit that holds work: its counts, and the opportunities it meets, at most one a count and otherwise free. An opportunity
without a step costs one count (R411, R494). -/
def tickUnit (t : Nat) (s : State) (u : Nat) : State :=
  if !inService s u || !holdsWork s u then s
  else
    let n := Config.freeNat (s.seed + u) % (t + 1)
    let (a, missed) := opportunities (maxTokens u) (minTokens u) (heldUnit s u) n (tget 0 s.pwr.acct u)
    let s := if maxTokens u = 0 then s else { s with pwr := { s.pwr with acct := tset 0 s.pwr.acct u a } }
    bump u 1 missed (bump u 0 (dieCounts s.seed (dieOf u) t) s)

/-- A member that runs: its counts, and those it spends in `SWAIT` or `FENCE` (R495, R503). -/
def tickMember (t : Nat) (s : State) (u : Nat) : State :=
  let b := bobbinOf s u
  if b.state != .running then s
  else
    let n := dieCounts s.seed (8 + bobStack u) t
    let s := bumpPart b.part 6 n s
    match b.wait with
    | some (.tag _ _) | some .fence => bump (bobbin u) 9 n s
    | _ => s

/-- Units that hold tokens and have no work, and domains whose idle condition holds, have been so since now, or longer (R410,
R417). -/
def noteIdle (s : State) : State :=
  let keep (old : Option Word64) (now : Word64) (b : Bool) : Option Word64 := if b then some (old.getD now) else none
  let us := (s.pwr.grants.map (·.unit)).dedup
  let at_ (t : Tab (Option Word64)) (u : Nat) : Tab (Option Word64) :=
    tset none t u (keep (tget none t u) (unitTime s u) (!unitBusy s u))
  let dom (t : Tab Domain) (x : Nat) : Tab Domain :=
    tmod {} t x fun d => { d with idleSince := keep d.idleSince (unitTime s (domainUnit x)) (idleCond s x) }
  { s with pwr := { s.pwr with idleAt := us.foldl at_ s.pwr.idleAt, domain := (List.range 80).foldl dom s.pwr.domain } }

/-- What time does besides the counters of time. -/
def passTime (t : Nat) (s : State) : State :=
  let s := noteIdle s
  let s := if s.pins.porN then (List.range 8).foldl (tickPort t) s else s
  let s := allUnits.foldl (tickUnit t) s
  let s := (s.bob.bobbin.map (·.1)).foldl (tickMember t) s
  isoCheck (landCopy s)

/-- A step with no command waiting: a free number of counts passes. -/
def tick (s : State) : Host.Outcome State Fault Refusal :=
  let t := Config.tickCounts s.seed
  ends { s with time := tickTime s.seed s.time } (spend (passTime t s))

end Sys2Proof.Machine
end

