-- ==== Sys2Proof/WellFormed.lean ====
section
/-! DEFINITION. Which commands can be put to the block: numbers lie within the ranges the manual gives them, and a packet, a
register access or a doorbell has a shape its carrier can have. What a well-formed command asks for may still be refused. -/

namespace Sys2Proof

/-- Skeins: admin skeins of partitions 0 to 63, ordinary skeins 0 to 16 383 (R94). -/
def SkeinRef.wf : SkeinRef → Bool
  | .admin p => decide (p < 64)
  | .ord g => decide (g < 16384)

/-- A packet spans 1 to 4 entries of 64 bytes (R97, R98); an admin skein is its own partition's. -/
def Cmd.wf (c : Cmd) : Bool :=
  c.skein.wf && decide (c.part < 64) && decide (c.sqHead < 65536) && decide (64 ≤ c.packet.length) &&
    decide (c.packet.length ≤ 256) && c.packet.length % 64 == 0 && (match c.skein with | .admin p => p == c.part | .ord _ => true)

/-- A requester: class 0 is partition 0's function, class 1 a virtual function's, classes 2 to 5 act as partition 0 (R126). -/
def Requester.wf (w : Requester) : Bool :=
  decide (w.cls < 6) && (if w.cls = 1 then decide (1 ≤ w.part) && decide (w.part < 64) else w.part == 0)

/-- A register access of 1 to 8 bytes (R5); a read brings no value. Only hosts reach BAR4/5 and configuration space. -/
def RegAccess.wf (a : RegAccess) : Bool :=
  a.who.wf && decide (1 ≤ a.size) && decide (a.size ≤ 8) && decide (a.value < 2 ^ (8 * a.size)) && (a.write || a.value == 0) &&
    (a.space == .bar0 || decide (a.who.cls ≤ 1))

/-- An access of 1 to 8 bytes inside the 512 KiB of a function's BAR2 (R108); a read brings no value. -/
def Doorbell.wf (d : Doorbell) : Bool :=
  decide (d.part < 64) && decide (d.port < 2) && decide (d.off < 2 ^ 19) && decide (1 ≤ d.size) && decide (d.size ≤ 8) &&
    decide (d.value < 2 ^ (8 * d.size)) && (!d.read || d.value == 0)

/-- Every field of a flit has its width, and reserved values of `VC` and `KIND` are not used (R17). -/
def Flit.wf (f : Flit) : Bool :=
  decide (f.dest < 65536) && decide (f.src < 65536) && decide (f.ctx < 65536) && decide (f.vc < 3) && decide (f.pos < 4) &&
    decide (f.stream < 256) && decide (f.kind < 4) && decide (f.par < 256) && decide (f.spar < 4) && f.payload.length == 64

/-- A message has at least one flit (R17). -/
def WeftMsg.wf (m : WeftMsg) : Bool := !m.flits.isEmpty && m.flits.all Flit.wf

/-- Channels that end at a die's router (R15): both hubs' of an endpoint die, 378 at a hub. -/
def channelCount (die : Nat) : Nat :=
  if die < 8 then 40 else if die < 24 then 20 else if die < 32 then 4 else if die < 36 then 20
  else if die < 38 then 378 else if die < 40 then 2 else 0

/-- Bits of a codeword: 512 of data and 64 of the check value (R38). -/
def errBits (bs : List Nat) : Bool := bs.all fun b => decide (b < 576)

/-- A request moves at least one byte; an atomic's operands are 8 bytes (R44). -/
def SpoolReq.wf (r : SpoolReq) : Bool :=
  decide (r.src < 65536) && decide (r.ctx < 65536) && decide (r.off < 2 ^ 56) && (r.errs.all fun e => errBits e.2) &&
    match r.kind with
    | .read n => decide (1 ≤ n)
    | .write d _ => decide (1 ≤ d.length)
    | .atomic _ a c => decide (a < 2 ^ 64) && decide (c < 2 ^ 64)

/-- A host reads or writes one line (R53). -/
def HostMemReq.wf (h : HostMemReq) : Bool :=
  decide (h.port < 2) && decide (h.off < 2 ^ 56) && errBits h.errs && (match h.data with | some d => d.length == 64 | none => true)

/-- A lookup names a Heddle, a partition and a context (R70). -/
def Lookup.wf (r : Lookup) : Bool :=
  decide (r.heddle < 8) && decide (r.ctx < 65536) && decide (r.part < 64) && decide (r.otype < 3) && decide (r.va < 2 ^ 64)

/-- Fields of the accelerator's parameters (R355). -/
def TchTraining.wf (t : TchTraining) : Bool := decide (t.accId < 2 ^ 64)

/-- Dies and stacks are numbered as in R9. -/
def StartInfo.wf (i : StartInfo) : Bool := decide (i.dies < 2 ^ 40) && decide (i.retrained < 2 ^ 16)

/-- Domains 0 to 79, dies 0 to 39, stacks 0 to 15. -/
def Sensor.wf : Sensor → Bool
  | .domain x => decide (x < 80)
  | .island d => decide (d < 40)
  | .dram n => decide (n < 16)

def RedSrc.wf : RedSrc → Bool
  | .inVa | .work => true
  | .acc p => decide (p < 8)
  | .rank r => decide (r < 65536)

/-- Words a regulator returns are 16 bits wide (R420). -/
def PmbPoll.wf (p : PmbPoll) : Bool :=
  decide (p.vr < 64) && (match p.words with
    | some (a, b, c, d) => decide (a < 65536) && decide (b < 65536) && decide (c < 65536) && decide (d < 65536)
    | none => true)

/-- The command is well formed. -/
def Instr.wf : Instr → Bool
  | .registerWrite a | .jcqAdminWrite a | .ruleWrite a | .policerWrite a | .shaperWrite a | .txmapWrite a
  | .portCtlEnable a | .lowPowerSet a | .lowPowerClear a | .ptAdj a | .ptSnap a | .counterTopClear a | .domainPolicyWrite a
  | .safeExit a | .mboxGo a | .mboxSenderRead a | .lostClear a | .resetCtlUnit a | .resetCtlPackage a | .resetCtlDump a
  | .cntSelWrite a => a.wf
  | .weftMessageReceive die chan m => decide (chan < channelCount die) && m.wf
  | .weftCreditReturn die chan vc => decide (chan < channelCount die) && decide (vc < 3)
  | .weftTimeout _ | .birsp _ | .biTimeout _ | .tableEntryReturn _ _ | .commandCompletion _ | .cxlCacheCompletion _ _ _
  | .peerCompletion _ _ _ | .mgmtFrameReceive _ | .mgmtCollision _ _ | .mgmtBackoffExpiry | .treadleStep | .porNAssert
  | .restartDeadline | .packageReset | .faultReport | .hbPeriodExpiry | .wfdCollect | .isolationSuspectTimeout
  | .dumpUnitTimeout | .profileRound | .vddAoInTolerance | .vddAoLoss | .dumpUnitReadDone _ => true
  | .timeSample c | .timePair c | .granuleAssign c | .granuleRelease c | .ctxAssign c | .ctxConfig c | .ctxDisable c
  | .hdlWithdraw c | .regionRegister c | .regionRevoke c | .pfQueueConfig c | .pfResolve c | .pfHeldList c
  | .pfReleaseHeld c | .nop c | .skeinCreate c | .skeinModify c | .skeinDestroy c | .qpCreate c | .qpModify c
  | .qpDestroy c | .qpQuery c | .write c | .read c | .send c | .recv c | .fetchAdd c | .cmpSwap c | .reducePush c
  | .udSend c | .nvmeIo c | .commCreate c | .allReduce c | .reduceScatter c | .allGather c | .reduce c | .broadcast c
  | .allToAll c | .commReform c | .commDestroy c | .commQuery c | .commMemberLost c | .bobImageLoad c | .bobImageUnload c
  | .bobLaunch c | .bobStop c | .seqCreate c | .seqDestroy c | .seqQuery c | .aportBind c | .aportCtl c | .ethSend c
  | .keyLoad c | .keyDestroy c | .keyQuery c | .gcmSeal c | .gcmOpen c | .xtsEnc c | .xtsDec c | .resSet c | .partFreeze c
  | .partSave c | .partRestore c | .partThaw c | .partClear c | .pwrSet c | .pwrQuery c | .devRestart c | .fwDownload c
  | .fwActivate c | .mboxSend c | .mboxRead c | .safRead c | .safAck c | .safFence c | .safUnfence c _ | .safTestLoad c
  | .safTestRun c _ | .heartbeat c | .hangMode c | .unitReset c | .hangIsolate c | .hangDump c | .dumpCopy c
  | .cntSnapshot c | .cntProfile c | .cntPartRead c | .cntClear c => c.wf
  | .timeSampleReply die => decide (die < 40)
  | .spoolRequest r | .translationLookup r => r.wf
  | .hostCxlMemRequest h => h.wf
  | .scrubLineStep stack errs => decide (stack < 16) && errs.all fun e => decide (e.1 < 64) && errBits e.2
  | .zeroingComplete stack => decide (stack < 16)
  | .tableCopyUpdate unit | .engineCreditGrant unit _ | .datapathStall unit _ | .tokenReturn unit | .idleReleaseExpiry unit
  | .lockstepMiscompare unit _ | .copyCompare unit _ | .testSliceStart unit | .testSliceEnd unit _ _
  | .testPeriodExpiry unit | .resetReached unit | .resetLeft unit | .resetEscalation unit _ => decide (unit < 65536)
  | .holderAck _ h holder | .holderAckTimeout _ h holder | .holderFenceWaitExpiry _ h holder => decide (h < 8) && decide (holder < 65536)
  | .sqTail d | .cqHead d | .ctl d | .asqTail d | .acqHead d | .eqHead d => d.wf
  | .skeinServe proc => decide (proc < 32)
  | .skeinEntryReturn sk _ => sk.wf
  | .msixUnmask part vector _ => decide (part < 64) && decide (vector < 2048)
  | .pacedSend qp _ | .txqRoom qp | .packetCommit qp _ _ | .ackDelayExpiry qp | .tRtoExpiry qp | .deferExpiry qp
  | .tIncExpiry qp | .nvmeTimeout qp | .contextFetchComplete qp _ | .cacheWayUnpin qp => decide (qp < 1048576)
  | .rxWrite port _ _ | .rxReadReq port _ _ | .rxReadResp port _ _ | .rxSend port _ _ | .rxFetchAdd port _ _
  | .rxCmpSwap port _ _ | .rxAtomicResp port _ _ | .rxReducePush port _ _ | .rxPushRelease port _ _
  | .rxPushRecall port _ _ | .rxUdSend port _ _ | .rxAck port _ _ | .rxNak port _ _ | .rxAbandon port _ _
  | .rocePacketReceive port _ _ | .flitReceive port _ | .tchRead port _ | .tchWrite port _ _ | .tchAtomic port _ _
  | .tchReducePush port _ _ | .tchResponse port _ _ | .doorbell port _ | .user port _ | .tchTrainingOverrun port
  | .tchLinkLoss port | .tchRetrainRetry port => decide (port < 8)
  | .commStateDelivery comm engine => decide (comm < 4096) && decide (engine < 32)
  | .peerEntryRead comm rank _ => decide (comm < 4096) && decide (rank < 65536)
  | .contributionBlock comm _ _ _ src _ _ _ _ => decide (comm < 4096) && src.wf
  | .pickCommit comm _ _ _ _ _ _ _ => decide (comm < 4096)
  | .shadowLaneAdvance engine => decide (engine < 32)
  | .sop bobbin _ | .saddi bobbin _ | .sandi bobbin _ | .sshi bobbin _ | .sld bobbin _ | .slw bobbin _ | .sst bobbin _
  | .br bobbin _ | .jal bobbin _ | .jr bobbin _ | .vop bobbin _ | .vops bobbin _ | .vcmp bobbin _ | .pop bobbin _
  | .vred bobbin _ | .vmov bobbin _ | .vld bobbin _ | .vst bobbin _ | .vldu bobbin _ | .vdot bobbin _ | .vdotmx bobbin _
  | .aop bobbin _ | .vcvt bobbin _ | .mxq bobbin _ | .mxd bobbin _ | .srd bobbin _ | .swr bobbin _ | .sgth bobbin _
  | .swait bobbin _ | .scrc bobbin _ | .bar bobbin _ | .satom bobbin _ | .fence bobbin _ | .ckpt bobbin _ | .halt bobbin _
  | .time bobbin _ | .streamUnitComplete bobbin _ _ _ | .barrierRelease bobbin | .launchLoadComplete bobbin
  | .bobbinZeroingDone bobbin => decide (bobbin < 512)
  | .launchGrant part | .freezeTimeout part => decide (part < 64)
  | .limitMsExpiry part launchId => decide (part < 64) && decide (launchId < 65536)
  | .h2dSnoop x line _ => decide (x < 2) && decide (line < 1125899906842624)
  | .cxlLinkDown x | .perstAssert x | .perstDeassert x => decide (x < 2)
  | .cxlLinkUp x rate width _ => decide (x < 2) && decide (rate < 8) && decide (width < 17)
  | .spdmRequest port _ _ => decide (port < 2)
  | .accTmoExpiry port tag => decide (port < 8) && decide (tag < 4096)
  | .tchTrainingStepDone port t => decide (port < 8) && t.wf
  | .ethFrameReceive port sub _ _ _ | .txFrameStart port sub _ _ | .txFrameEnd port sub | .subportLinkUp port sub
  | .subportLinkDown port sub => decide (port < 8) && decide (sub < 8)
  | .cipherJobArrival qp job => decide (qp < 1048576) && decide (job.slot < 65536) && decide (job.bytes ≤ 8192)
  | .cipherJobComplete core => decide (core < 16)
  | .tokenRequest unit part => decide (unit < 65536) && decide (part < 64)
  | .domainIdleExpiry x | .domainWake x | .domainWakeComplete x | .paceSample x _ | .domainTransitionComplete x => decide (x < 80)
  | .pmbusPoll polls => polls.all PmbPoll.wf
  | .pmbusAlert vr _ => decide (vr < 48)
  | .temperatureSample sensor _ => sensor.wf
  | .crossStall n requester => decide (n < 36) && decide (requester < 65536)
  | .coreStall n | .xstallClear n => decide (n < 36)
  | .porNRelease straps => decide (straps < 16)
  | .startStepDone step info => decide (step < 16) && info.wf
  | .startStepOverrun step _ => decide (step < 16)
  | .functionLevelReset port part _ => decide (port < 2) && decide (part < 64)
  | .vfEnable x numVfs _ => decide (x < 2) && decide (numVfs < 65536)
  | .sgmiiAutoNegotiation word => decide (word < 65536)

end Sys2Proof
end

