-- ==== Sys2Proof/Safety.lean ====
section
/-! DEFINITION. The terms claims about the block are stated in: the canonical form of its memory, and the output pins that
follow the state. -/

namespace Sys2Proof.Machine

/-- The Spool memory is in its canonical form: offsets strictly rising, no byte listed that an unlisted one reads as. -/
def memCanonical (s : State) : Bool := twf (0 : Byte) s.spl.mem

/-- FAULT_N is low exactly while `SAFE_MODE`, `PKG_NEEDED` or `DANGER_OVERFLOW` is set (R512). -/
def faultPinFollows (s : State) : Prop :=
  s.pins.faultN = false ↔ s.fw.safeMode = true ∨ s.hang.pkgNeeded = true ∨ s.saf.dangerOverflow = true

/-- VR_EN is low whenever POR_N is low or THERMTRIP_N is asserted (R514). -/
def vrEnHeld (s : State) : Prop := s.pins.porN = false ∨ s.pins.thermtripN = false → s.pins.vrEn = false

/-- The output pins stand as R512 and R514 say. -/
def pinsFollow (s : State) : Prop := faultPinFollows s ∧ vrEnHeld s

/-- How the block stands between commands: no report waits to be handled, and the output pins follow the state. -/
def settled (s : State) : Prop := s.saf.todo = [] ∧ pinsFollow s

/-- The same, and no push of a Reed engine that has ended waits for its engine to be told. -/
def calm (s : State) : Prop := settled s ∧ s.sht.pushDone = []

/-- How a step of the Shuttle engines ends: what became of the Reed engines' pushes reaches them. -/
def shtEnded (s t : State) : State := ended s (reedNotice t)

/-- A step has gone on: no fault and no refusal. -/
def goesOn (o : Host.Outcome State Fault Refusal) : Prop := ∃ t, o = .next t

/-- A command that its processor has dispatched and that has not started, with a packet that passes checks 1 to 3 of R102. -/
def admits (d : OpDesc) (c : Cmd) (s : State) : Prop := startable s c = true ∧ issueCheck d c = none

/-- The state a command's own effect meets: its copy counts as started (R105). -/
def begun (c : Cmd) (s : State) : State := setStarted true c s

/-- The state the effect of a command that keeps the order of R120 meets: it has started, and waits no longer. -/
def turn (c : Cmd) (s : State) : State := unholdCmd c (setStarted true c s)

/-- A write of a register of the window. -/
def writeAt (who : Requester) (addr size v : Nat) : RegAccess := { who := who, addr := addr, size := size, write := true, value := v }

/-- A read of a register of the window. -/
def readAt (who : Requester) (addr size : Nat) : RegAccess := { who := who, addr := addr, size := size, write := false, value := 0 }

/-- The address of offset `o` of port `k`. -/
def portAt (k o : Nat) : Nat := 0x720000 + 0x18000 * k + o

/-- A write that a unit's register has taken is remembered, for the next requester that writes it (R125). -/
def written (unit addr : Nat) (who : Requester) (v : Nat) (s : State) : State :=
  admitWrite { unit := unit, val := fun _ => 0 } addr who v s

end Sys2Proof.Machine
end

