-- ==== Sys2Proof/Certificates/Slice0/Obligations.lean ====
section
/-! DEFINITION. The statements claimed of the block, to be proved. -/

open Sys2Proof Sys2Proof.Machine

/-- Commands wait first in first out (log entry 1): a step takes the front one and runs it with the rest of the queue. -/
def Obligations.StepRunsTheFrontCommand : Prop :=
  ∀ (c : Instr) (rest : List Instr) (s : State),
    step { s with pending := c :: rest } = exec c { s with pending := rest }

/-- The model's choice of log entry 2: with no command waiting, a free number of counts passes, within the tolerance of R28. -/
def Obligations.IdleStepAdvancesTheDieCounters : Prop :=
  (∀ s : State, settled s → s.pending = [] → ∃ t, step s = .next t ∧ t.pending = [] ∧
      t.time = tickTime s.seed s.time ∧ t.parts = s.parts ∧ t.sht = s.sht ∧ t.cip = s.cip ∧ t.fw = s.fw ∧
      t.weft = s.weft ∧ t.regs = s.regs ∧ t.spl.got = s.spl.got ∧ t.seed = s.seed + 1) ∧
    ∀ (seed die n : Nat),
      1000000 * ((dieCounts seed die n : Int) - n) ≤ 50 * n ∧
        -(50 * (n : Int)) - 1000000 ≤ 1000000 * ((dieCounts seed die n : Int) - n)

/-- Every access of the device ends with a status, never by stopping the device (R104); a command changes everything but the queue. The counters sit in always-on islands and run from power-on (R28). -/
def Obligations.EveryCommandAnswersAndKeepsTheQueue : Prop :=
  ∀ (i : Instr) (s : State), ∃ t, exec i s = .next t ∧ t.pending = s.pending ∧
    (i ≠ .vddAoInTolerance → i ≠ .vddAoLoss → t.time = s.time)

/-- FAULT_N follows its three bits (R512), VR_EN is held low by POR_N and THERMTRIP_N (R514), and what a command reports is handled before the next (log entry 9). -/
def Obligations.EveryStepLeavesTheBlockSettled : Prop :=
  ∀ s : State, ∃ t, step s = .next t ∧ settled t

/-- Reset values of the register tables of the chapters; the memory form and the empty queue are the model's. -/
def Obligations.ResetValuesOfTheRegisters : Prop :=
  State.reset.spl.periodMin = 0x168 ∧ State.reset.spl.scrubEnable = true ∧ State.reset.spl.share = 3 ∧
    State.reset.spl.biTmoUs = 5 ∧ State.reset.lnk.accTmoUs = 0x14 ∧ State.reset.lnk.autoRetrain = true ∧
    State.reset.lnk.failover = false ∧ State.reset.lnk.allowHalf = true ∧ State.reset.lnk.vfMsix = 0x40 ∧
    State.reset.saf.testPeriodMs = 0x3E8 ∧ State.reset.saf.testSliceUs = 0x14 ∧ State.reset.saf.compareMs = 0xA ∧
    State.reset.saf.testEnable = true ∧ State.reset.sht.ackEvery = 16 ∧ State.reset.spl.mem = [] ∧
    State.reset.pending = [] ∧ memCanonical State.reset = true ∧ settled State.reset

/-- The fields of a unit ID (R11). -/
def Obligations.UnitIdFields : Prop :=
  ∀ d c i : Nat, d < 64 → c < 16 → i < 64 →
    dieOf (unitId d c i) = d ∧ classOf (unitId d c i) = c ∧ instOf (unitId d c i) = i ∧ unitId d c i < 65536 ∧
      bits (unitId d c i) 10 6 = d ∧ bits (unitId d c i) 6 4 = c ∧ bits (unitId d c i) 0 6 = i

/-- The status codes of R104; multi-byte fields of packets, entries and records are little-endian (R3). -/
def Obligations.CodesAndFieldsRoundTrip : Prop :=
  (∀ st : Status, statusOf (statusCode st) = some st) ∧
    (∀ n st, statusOf n = some st → statusCode st = n) ∧ (∀ n, 0x15 < n → statusOf n = none) ∧
    ∀ n v : Nat, leNat (leBytes n v) = v % 256 ^ n ∧ (leBytes n v).length = n ∧
      ∀ k, k < n → byteAt (leBytes n v) k = bits v (8 * k) 8

/-- TIME_PAIR (R33), TIME_SAMPLE (R32, R120), NOP (R106) and the reply to a time-sample message (R30). -/
def Obligations.TimePairAndSampleAnswers : Prop :=
  (∀ (c : Cmd) (s : State), settled s → admits descTimePair c s →
      exec (.timePair c) s = .next (complete c .ok [bits (frameTime s).toNat 0 32, bits (frameTime s).toNat 32 32,
        bits (fieldLE c.packet 16 8) 0 32, bits (fieldLE c.packet 16 8) 32 32] frameServices (begun c s))) ∧
    (∀ (c : Cmd) (s : State), settled s → admits descTimeSample c s →
      s.weft.sampling ≠ [] ∨ (∃ x ∈ heldBefore c s, fieldLE x.packet 0 2 = 0x0C31) →
      exec (.timeSample c) s = .next (holdCmd c s)) ∧
    (∀ (c : Cmd) (s : State), settled s → admits descTimeSample c s → s.weft.sampling = [] →
      (∀ x ∈ heldBefore c s, fieldLE x.packet 0 2 ≠ 0x0C31) →
      exec (.timeSample c) s = .next (endSampling (startSampling (some (cmdRef c)) (turn c s)))) ∧
    (∀ (c : Cmd) (s : State), settled s → startable s c = true → check1 descTimeSample c = false →
      check2 descTimeSample c = false → c.part ≠ 0 →
      exec (.timeSample c) s = .next (complete c .denied [] (procUnit s c) s)) ∧
    (∀ (c : Cmd) (s : State), settled s → admits descNop c s →
      exec (.nop c) s = .next (complete c .ok [bits (unitTime s (procUnit s c)).toNat 0 32,
        bits (unitTime s (procUnit s c)).toNat 32 32] (procUnit s c) (begun c s))) ∧
    (∀ (die : Nat) (s : State) (x : TimeSampling), settled s → s.weft.sampling.find? (fun y => y.die == die) = some x →
      die ≠ 38 → exec (.timeSampleReply die) s = .next (endSampling { s with weft := { s.weft with
        corr := tset {} s.weft.corr die
          { offset := BitVec.ofNat 64 ((x.t1.toNat + (frameTime s).toNat) / 2) - x.td.getD (dieTime s die),
            unc := BitVec.ofNat 32 (ceilDiv ((frameTime s).toNat - x.t1.toNat) 2),
            samples := satInc (tget {} s.weft.corr die).samples, valid := true }
        sampling := s.weft.sampling.filter (fun y => y.die != die)
        outstanding := s.weft.outstanding.filter (fun r => r.purpose != .timeSample die) } })) ∧
    ∀ (s : State) (r : CmdRef), (s.weft.sampling ≠ [] → endSampling s = s) ∧
      (s.weft.sampling = [] → s.weft.samplingCmd = some r → s.weft.samplingFailed = false →
        endSampling s = completeRef r .ok [] frameServices { s with weft := { s.weft with samplingCmd := none } })

/-- Credits (R21), delivery and parity (R18), late responses (R24) and timeouts (R23). A lane is a channel, a virtual class and a direction; its number is the model's own. -/
def Obligations.WeftCreditsAndMessages : Prop :=
  (∀ (die chan vc : Nat) (s : State) (l : Lane), settled s → laneAt die chan vc false = some l →
      tget 0 s.weft.buffered (laneKey l) < tget 0 s.weft.spent (laneKey l) → (∀ w ∈ s.weft.waiting, w.lane ≠ l) →
      exec (.weftCreditReturn die chan vc) s = .next { s with weft := { s.weft with
        spent := tset 0 s.weft.spent (laneKey l) (tget 0 s.weft.spent (laneKey l) - 1) } }) ∧
    (∀ (die chan vc : Nat) (s : State) (l : Lane) (w : WaitFlit), settled s → laneAt die chan vc false = some l →
      tget 0 s.weft.buffered (laneKey l) < tget 0 s.weft.spent (laneKey l) →
      s.weft.waiting.find? (fun x => x.lane == l) = some w →
      exec (.weftCreditReturn die chan vc) s = .next (flitLeaves w { s with weft := { s.weft with
        spent := tset 0 s.weft.spent (laneKey l) (tget 0 s.weft.spent (laneKey l) - 1)
        waiting := s.weft.waiting.erase w } })) ∧
    (∀ (die chan : Nat) (m : WeftMsg) (s : State) (l : Lane), settled s → s.sht.pushDone = [] →
      laneAt die chan (headFlit m).vc true = some l → (∀ f ∈ m.flits, sparGood f = true ∧ parGood f = true) →
      (headFlit m).kind ≠ 2 → (headFlit m).kind ≠ 3 → (headFlit m).vc ≠ 1 → dieOf (headFlit m).dest = die →
      absentStatus s (headFlit m).dest = none → domainSleeps s (headFlit m).dest = false →
      islandOf (headFlit m).dest = none →
      exec (.weftMessageReceive die chan m) s = .next (emit (.delivered m) (freeBuffer (some l) m
        (fillBuffer l m.flits.length (bump (router die) 3 m.flits.length s))))) ∧
    (∀ (die chan : Nat) (m : WeftMsg) (s : State) (l : Lane), s.sht.pushDone = [] →
      laneAt die chan (headFlit m).vc true = some l → (∃ f ∈ m.flits, sparGood f = false) →
      exec (.weftMessageReceive die chan m) s = .next (ended s (record
        { mkRecord s (router die) 0x0103 with info0 := chan }
        { bump (router die) 3 m.flits.length s with weft := { s.weft with paritySeen := true } }))) ∧
    (∀ (die chan : Nat) (m : WeftMsg) (s : State) (l : Lane), settled s → s.sht.pushDone = [] →
      laneAt die chan 1 true = some l → (headFlit m).vc = 1 → (headFlit m).kind ≠ 2 →
      dieOf (headFlit m).dest = die → (∀ f ∈ m.flits, sparGood f = true ∧ parGood f = true) →
      (∀ r ∈ s.weft.outstanding, r.die = die → answers (headFlit m) r = false) →
      exec (.weftMessageReceive die chan m) s = .next (freeBuffer (some l) m (fillBuffer l m.flits.length
        { bump (router die) 3 m.flits.length s with weft := { s.weft with late := satInc s.weft.late } }))) ∧
    ∀ (id : Nat) (s : State) (r : WeftReq), s.weft.outstanding.find? (fun x => x.id == id) = some r →
      requestOverdue s r = true →
      exec (.weftTimeout id) s = .next (ended s (reedNotice (requestLost r.purpose .timeout
        (emit (.delivered (timeoutResponse r)) (record { mkRecord s (router r.die) 0x0101 with info0 := r.dest }
          { s with weft := { s.weft with outstanding := s.weft.outstanding.filter (fun x => x.id != r.id),
                                         timeoutSeen := true } })))))

/-- Requests to memory and what they store (R44, R46); the canonical form is the model's own. -/
def Obligations.SpoolWriteStoresItsBytesOnly : Prop :=
  ∀ (src ctx off : Nat) (bs : List Byte) (s : State),
    ((∀ p ∈ linePieces off bs.length, lineStatus s src ctx p.1 = .ok ∧ (poisoned s p.1 = false ∨ p.2 = 64)) →
      (spoolWrite src ctx off bs s).2 = .ok ∧
      ∀ i, tget 0 (spoolWrite src ctx off bs s).1.spl.mem i =
        if off ≤ i ∧ i < off + bs.length then bs[i - off]?.getD 0 else tget 0 s.spl.mem i) ∧
    (∀ i, i < off ∨ off + bs.length ≤ i →
      tget 0 (spoolWrite src ctx off bs s).1.spl.mem i = tget 0 s.spl.mem i) ∧
    (memCanonical s = true → memCanonical (spoolWrite src ctx off bs s).1 = true)

/-- The rows of the check of R53, in their order. -/
def Obligations.GranuleCheckTable : Prop :=
  ∀ (s : State) (src ctx off : Nat),
    (classOf src = 8 → instOf src = 2 →
      granuleAllows s src ctx off = gotHost (gotEntry s (stackOf off) (granuleOf off))) ∧
    (¬(classOf src = 8 ∧ instOf src = 2) → ctx ≠ 0 →
      (granuleAllows s src ctx off = true ↔ gotState (gotEntry s (stackOf off) (granuleOf off)) = gotOwned ∧
        ctxPartAt s (stackOf off) ctx = gotOwner (gotEntry s (stackOf off) (granuleOf off)))) ∧
    (ctx = 0 → classOf src = 0 ∨ classOf src = 11 ∨ classOf src = 6 → granuleAllows s src ctx off = true) ∧
    (ctx = 0 → classOf src = 3 ∨ classOf src = 1 ∨ classOf src = 5 →
      (granuleAllows s src ctx off = true ↔ gotState (gotEntry s (stackOf off) (granuleOf off)) = gotDevice)) ∧
    (ctx = 0 → ¬(classOf src = 8 ∧ instOf src = 2) → classOf src ∉ [0, 1, 3, 5, 6, 11] →
      granuleAllows s src ctx off = false)

/-- Requests and their answers (R44, R46, R47), the refusal of R53, and host accesses with the snoop filter (R60). -/
def Obligations.SpoolRequestsAreServed : Prop :=
  (∀ (r : SpoolReq) (n : Nat) (s : State), settled s → usesBadEntry r = false → r.errs = [] → r.kind = .read n →
      lineStatus s r.src r.ctx r.off = .ok → firstBad s r.src r.ctx false (linePieces r.off n) = none →
      snoopNeeded s r = none → exec (.spoolRequest r) s = .next
        (emit (.spoolReply r.src .ok (memRead s.spl.mem r.off n)) (countLines r.ctx false (linePieces r.off n) s))) ∧
    (∀ (r : SpoolReq) (d : List Byte) (s : State), settled s → usesBadEntry r = false → r.errs = [] →
      r.kind = .write d false → lineStatus s r.src r.ctx r.off = .ok →
      firstBad s r.src r.ctx true (linePieces r.off d.length) = none → snoopNeeded s r = none →
      exec (.spoolRequest r) s = .next (emit (.spoolReply r.src .ok [])
        (countLines r.ctx true (linePieces r.off d.length) (storeUpTo r.off d none (linePieces r.off d.length) s)))) ∧
    (∀ (r : SpoolReq) (d : List Byte) (s : State), settled s → usesBadEntry r = false → r.errs = [] →
      r.kind = .write d true → lineStatus s r.src r.ctx r.off = .ok →
      firstBad s r.src r.ctx true (linePieces r.off d.length) = none → snoopNeeded s r = none →
      exec (.spoolRequest r) s = .next (emit (.spoolReply r.src .ok [])
        (countLines r.ctx true (linePieces r.off d.length) (poisonedWrite (linePieces r.off d.length) s)))) ∧
    (∀ (r : SpoolReq) (op : AtomOp) (operand compare : Nat) (s : State), settled s → usesBadEntry r = false →
      r.errs = [] → r.kind = .atomic op operand compare → lineStatus s r.src r.ctx r.off = .ok →
      firstBad s r.src r.ctx false (linePieces r.off 8) = none → firstBad s r.src r.ctx true (linePieces r.off 8) = none →
      snoopNeeded s r = none → exec (.spoolRequest r) s = .next
        (emit (.spoolReply r.src .ok (memRead s.spl.mem r.off 8)) (spoolWrite r.src r.ctx r.off
          (leBytes 8 (atomApply op (leNat (memRead s.spl.mem r.off 8)) operand compare))
          (countLines r.ctx false (linePieces r.off 8) s)).1)) ∧
    (∀ (r : SpoolReq) (n a : Nat) (s : State), settled s → usesBadEntry r = false → r.errs = [] → r.kind = .read n →
      lineStatus s r.src r.ctx r.off = .ok → firstBad s r.src r.ctx false (linePieces r.off n) = some (a, .poison) →
      stackUp s (stackOf a) = true → snoopNeeded s r = none → exec (.spoolRequest r) s = .next
        (emit (.spoolReply r.src .poison []) (noteUe a (countLines r.ctx false (before a (linePieces r.off n)) s)))) ∧
    (∀ (r : SpoolReq) (s : State), usesBadEntry r = false → lineStatus s r.src r.ctx r.off = .partitionMismatch →
      exec (.spoolRequest r) s = .next (ended s
        (emit (.spoolReply r.src .partitionMismatch []) (noteDeny r.src r.ctx r.off s)))) ∧
    (∀ (h : HostMemReq) (s : State), settled s → portUsable s h.port = true → (hport s h.port).memEn = true →
      lineStatus s (cxlPort h.port) 0 h.off = .ok → filterOf s (h.off / 64) = none →
      (filterLines s (stackOf h.off)).length < 262144 → h.errs = [] → poisoned s h.off = false → h.data = none →
      exec (.hostCxlMemRequest h) s = .next
        (emit (.cxlMem h.port (h.off / 64 * 64) (memRead s.spl.mem (h.off / 64 * 64) 64) false)
          (setFilter (h.off / 64) (some (h.port, h.own))
            (bump (cxlPort h.port) 4 1 (bump (controller (stackOf h.off)) 2 1 s))))) ∧
    (∀ (h : HostMemReq) (d : List Byte) (s : State), settled s → portUsable s h.port = true →
      (hport s h.port).memEn = true → lineStatus s (cxlPort h.port) 0 h.off = .ok →
      filterOf s (h.off / 64) = none → h.poison = false → h.data = some d →
      exec (.hostCxlMemRequest h) s = .next (storePiece (h.off / 64 * 64) (slice d 0 64)
        (bump (cxlPort h.port) 5 1 (bump (controller (stackOf h.off)) 3 1 s)))) ∧
    ∀ (h : HostMemReq) (d : List Byte) (p : Nat) (m : Bool) (s : State), settled s → portUsable s h.port = true →
      (hport s h.port).memEn = true → lineStatus s (cxlPort h.port) 0 h.off = .ok →
      filterOf s (h.off / 64) = some (p, m) → h.poison = false → h.data = some d →
      exec (.hostCxlMemRequest h) s = .next (setFilter (h.off / 64) (some (p, false))
        (storePiece (h.off / 64 * 64) (slice d 0 64)
          (bump (cxlPort h.port) 5 1 (bump (controller (stackOf h.off)) 3 1 s))))

/-- Back-invalidation (R60, R61), scrubbing (R49), table copies (R54) and zeroing (R59). -/
def Obligations.SpoolMaintenanceRows : Prop :=
  (∀ (id rid : Nat) (s : State) (w : BiWait), settled s → s.spl.biWaits.find? (fun x => x.id == id) = some w →
      w.why = .release rid → w.inv = true → exec (.birsp id) s = .next (setFilter w.line none (dropWait id s))) ∧
    (∀ (id : Nat) (s : State) (w : BiWait) (r : SpoolReq), s.spl.biWaits.find? (fun x => x.id == id) = some w →
      w.why = .device r → exec (.birsp id) s = .next (ended s
        (admitRequest r (setFilter w.line (if w.inv then none else some (w.port, false)) (dropWait id s))))) ∧
    (∀ (id : Nat) (s : State) (w : BiWait) (r : SpoolReq), s.spl.biWaits.find? (fun x => x.id == id) = some w →
      biOverdue s w = true → w.why = .device r → exec (.biTimeout id) s = .next (ended s
        (spoolAnswer r .timeout [] (biTimeoutRecord w.line (dropWait id s))))) ∧
    (∀ (stack line : Nat) (s : State), settled s → s.spl.scrubEnable = true → stackUp s stack = true →
      line = (tget 0 s.spl.scrubPos stack).toNat →
      (∀ chan < 64, poisoned s (line * 2 ^ 16 + stack * 2 ^ 12 + chan * 64) = false) →
      (line + 1 ≠ 2 ^ 25 → exec (.scrubLineStep stack []) s = .next { bump (controller stack) 7 64 s with
        spl := { s.spl with scrubPos := tset 0 s.spl.scrubPos stack (BitVec.ofNat 25 (line + 1)) } }) ∧
      (line + 1 = 2 ^ 25 → exec (.scrubLineStep stack []) s = .next (endPass stack (bump (controller stack) 7 64 s)))) ∧
    (∀ (unit : Nat) (s : State) (u : TableUpdate), s.spl.updates.find? (fun x => x.unit == unit) = some u →
      ∃ t, exec (.tableCopyUpdate unit) s = .next t ∧
        t = ended s (ackTable u.id unit (releaseApplied u.id unit (applyUpdate u { s with spl := { s.spl with
          updates := s.spl.updates.filter (fun v => !(v.id == u.id && v.unit == u.unit)) } }))) ∧
        (u.granule = true →
          (∀ g, tget 0 (tget [] t.spl.gotCopy (dieOf unit - 8)) g =
            if u.first ≤ g ∧ g < u.first + u.count then BitVec.ofNat 16 u.value
            else tget 0 (tget [] s.spl.gotCopy (dieOf unit - 8)) g) ∧
          (∀ n, n ≠ dieOf unit - 8 → tget [] t.spl.gotCopy n = tget [] s.spl.gotCopy n) ∧ t.spl.got = s.spl.got)) ∧
    ∀ (stack : Nat) (s : State) (r : Release), settled s →
      s.spl.releases.find? (fun r => stack ∈ r.toZero && stack ∉ r.toApply && (releaseSnoops s r.id stack).isEmpty) =
        some r → ∃ t, exec (.zeroingComplete stack) s = .next t ∧
        ∀ off, tget 0 t.spl.mem off =
          if r.first ≤ granuleOf off ∧ granuleOf off < r.first + r.count ∧ stackOf off = stack then 0
          else tget 0 s.spl.mem off

/-- The granule commands (R57 to R59), CTX_ASSIGN (R65) and the order of commands on one range (R519). -/
def Obligations.GranuleAndContextAssignment : Prop :=
  (∀ (c : Cmd) (s : State) (first count part host : Nat), settled s → admits descGranuleAssign c s →
      first = param c 16 8 0 16 → count = param c 16 8 16 16 → part = param c 16 8 32 6 → host = param c 16 8 38 1 →
      tableBusy s c true first count = false → count ≠ 0 → first + count ≤ 8192 → host = 0 ∨ part = 0 →
      (∀ k, k < count → gotState (tget 0 s.spl.got (first + k)).toNat = gotFree) →
      ∃ t, exec (.granuleAssign c) s = .next t ∧
        t = sendTable true first count (mkGot part gotOwned (host == 1)) (.complete (cmdRef c)) (turn c s) ∧
        t.spl.mem = s.spl.mem ∧
        ∀ g, tget 0 t.spl.got g = if first ≤ g ∧ g < first + count then
          BitVec.ofNat 16 (mkGot part gotOwned (host == 1)) else tget 0 s.spl.got g) ∧
    (∀ (c : Cmd) (s : State) (first count : Nat), settled s → first = param c 16 8 0 16 →
      (admits descGranuleAssign c s → count = param c 16 8 16 16 → tableBusy s c true first count = true →
        exec (.granuleAssign c) s = .next (holdCmd c s)) ∧
      (admits descGranuleRelease c s → count = param c 16 8 16 16 → tableBusy s c true first count = true →
        exec (.granuleRelease c) s = .next (holdCmd c s)) ∧
      (admits descCtxAssign c s → count = param c 16 8 16 17 → tableBusy s c false first count = true →
        exec (.ctxAssign c) s = .next (holdCmd c s))) ∧
    (∀ (c : Cmd) (s : State) (first count : Nat), settled s → admits descGranuleRelease c s →
      first = param c 16 8 0 16 → count = param c 16 8 16 16 → tableBusy s c true first count = false →
      count ≠ 0 → first + count ≤ 8192 →
      (∀ k, k < count → gotState (tget 0 s.spl.got (first + k)).toNat = gotOwned) →
      ∃ t, exec (.granuleRelease c) s = .next t ∧
        t = startRelease first count (some (cmdRef c)) none (turn c s) ∧ t.spl.mem = s.spl.mem ∧
        ∀ g, tget 0 t.spl.got g = if first ≤ g ∧ g < first + count then
            (if (List.range 16).filter (stackUp s) = [] then BitVec.ofNat 16 (mkGot 0 gotFree false)
             else BitVec.ofNat 16 (mkGot 0 gotZeroing false))
          else tget 0 s.spl.got g) ∧
    ∀ (c : Cmd) (s : State) (first count part : Nat), settled s → admits descCtxAssign c s →
      first = param c 16 8 0 16 → count = param c 16 8 16 17 → part = param c 16 8 33 6 →
      tableBusy s c false first count = false → first ≠ 0 → count ≠ 0 → first + count ≤ 65536 →
      (∀ k, k < count → ctxInUse s (first + k) = false) →
      ∃ t, exec (.ctxAssign c) s = .next t ∧
        t = sendTable false first count part (.complete (cmdRef c)) (turn c s) ∧ t.spl.mem = s.spl.mem ∧
        ∀ x, ctxOwner t x = if first ≤ x ∧ x < first + count then part else ctxOwner s x

/-- Changing a context (R81) and withdrawing translations (R78), with the order and checks of R66, R94 and R95. -/
def Obligations.ContextCommandsTakeEffect : Prop :=
  (∀ (c : Cmd) (s : State) (ctx l1 root : Nat), settled s → admits descCtxConfig c s →
      ctx = param c 16 8 0 16 → l1 = param c 16 8 18 5 → root = fieldLE c.packet 24 8 → ctxBusy s c ctx = false →
      namesCtx s c.part ctx = true → l1 ≤ 21 → rootAligned root l1 = true →
      ((ctxDesc s ctx).enable = false →
        exec (.ctxConfig c) s = .next (complete c .ok [(ctxDesc s ctx).epoch.toNat] (objectUnit s ctx)
          (setCtxDesc ctx { enable := param c 16 8 16 1 == 1, odp := param c 16 8 17 1 == 1, l1Log2 := BitVec.ofNat 5 l1,
                            root := BitVec.ofNat 64 root, epoch := (ctxDesc s ctx).epoch } (turn c s)))) ∧
      ((ctxDesc s ctx).enable = true → ∃ t, exec (.ctxConfig c) s = .next t ∧
        t = startWithdrawal ctx 0 0 (.configure
          { enable := param c 16 8 16 1 == 1, odp := param c 16 8 17 1 == 1, l1Log2 := BitVec.ofNat 5 l1,
            root := BitVec.ofNat 64 root, epoch := (ctxDesc s ctx).epoch }) (some (cmdRef c)) (turn c s) ∧
        (ctxDesc t ctx).epoch = (ctxDesc s ctx).epoch + 1)) ∧
    (∀ (c : Cmd) (s : State) (ctx : Nat), settled s → admits descCtxDisable c s → ctx = param c 16 8 0 16 →
      ctxBusy s c ctx = false → namesCtx s c.part ctx = true → ∃ t, exec (.ctxDisable c) s = .next t ∧
        t = startWithdrawal ctx 0 0 .disable (some (cmdRef c)) (turn c s) ∧
        (ctxDesc t ctx).epoch = (ctxDesc s ctx).epoch + 1 ∧
        (holdingPairs s ctx 0 0 = [] → (ctxDesc t ctx).enable = false) ∧
        (∀ h, h < 8 → inService s (heddle h) = true →
          (∀ l ∈ leaves t h, l.ctx ≠ ctx) ∧ ∀ p ∈ ptrs t h, p.ctx ≠ ctx) ∧
        ∀ x, x ≠ ctx → ctxDesc t x = ctxDesc s x) ∧
    (∀ (c : Cmd) (s : State) (ctx va n : Nat), settled s → admits descHdlWithdraw c s → ctx = param c 16 8 0 16 →
      ctxBusy s c ctx = false → namesCtx s c.part ctx = true → va = fieldLE c.packet 24 8 → n = param c 16 8 16 36 →
      va + n * 2 ^ 21 ≤ 2 ^ 57 → ∃ t, exec (.hdlWithdraw c) s = .next t ∧
        t = startWithdrawal ctx va n .report (some (cmdRef c)) (turn c s) ∧
        (ctxDesc t ctx).epoch = (ctxDesc s ctx).epoch + 1 ∧ (ctxDesc t ctx).enable = (ctxDesc s ctx).enable ∧
        (∀ h, h < 8 → inService s (heddle h) = true → ∀ p ∈ ptrs t h, p.ctx ≠ ctx) ∧
        ∀ x, x ≠ ctx → ctxDesc t x = ctxDesc s x) ∧
    (∀ (c : Cmd) (s : State) (ctx : Nat), settled s → ctx = param c 16 8 0 16 → ctxBusy s c ctx = true →
      (admits descCtxConfig c s → exec (.ctxConfig c) s = .next (holdCmd c s)) ∧
      (admits descCtxDisable c s → exec (.ctxDisable c) s = .next (holdCmd c s)) ∧
      (admits descHdlWithdraw c s → exec (.hdlWithdraw c) s = .next (holdCmd c s))) ∧
    ∀ (c : Cmd) (s : State) (ctx : Nat), settled s → ctx = param c 16 8 0 16 → ctxBusy s c ctx = false →
      namesCtx s c.part ctx = false →
      (admits descCtxConfig c s → exec (.ctxConfig c) s = .next (complete c .denied [] (procUnit s c) (turn c s))) ∧
      (admits descCtxDisable c s → exec (.ctxDisable c) s = .next (complete c .denied [] (procUnit s c) (turn c s))) ∧
      (admits descHdlWithdraw c s → exec (.hdlWithdraw c) s = .next (complete c .denied [] (procUnit s c) (turn c s)))

/-- Registering a region (R85), the key check (R84) and revoking (R86). -/
def Obligations.RegionKeysAreGivenAndRevoked : Prop :=
  (∀ (c : Cmd) (s : State) (ctx base size i : Nat), settled s → admits descRegionRegister c s →
      ctx = param c 16 8 0 16 → base = fieldLE c.packet 24 8 → size = fieldLE c.packet 32 8 → ctxBusy s c ctx = false →
      namesCtx s c.part ctx = true → (ctxDesc s ctx).enable = true → 0 < size → size ≤ 2 ^ 48 → base + size ≤ 2 ^ 57 →
      nextRegion s c.part = some i → ∃ t, exec (.regionRegister c) s = .next t ∧
        t = complete c .ok [256 * i + (region s i).gen.toNat] (objectUnit s i) { turn c s with hdl := { s.hdl with
          lastRegion := tset 0 s.hdl.lastRegion c.part i, region := t.hdl.region } } ∧
        region t i = {
          gen := (region s i).gen, valid := true, rRead := param c 16 8 16 1 == 1, rWrite := param c 16 8 17 1 == 1, rAtomic := param c 16 8 18 1 == 1, rReduce := param c 16 8 19 1 == 1,
          lWrite := param c 16 8 20 1 == 1, part := BitVec.ofNat 6 c.part, ctx := BitVec.ofNat 16 ctx,
          baseVa := base, size := size, pdom := BitVec.ofNat 24 (param c 16 8 32 24) } ∧
        ∀ j, j ≠ i → region t j = region s j) ∧
    (∀ (c : Cmd) (s : State) (key : Nat), settled s → admits descRegionRevoke c s → key = fieldLE c.packet 16 4 →
      revokeBusy s c key = false → keyMatches (region s (key / 256)) c.part key = true →
      ∃ t, exec (.regionRevoke c) s = .next t ∧ t = revokeKey key (cmdRef c) (turn c s) ∧
        (region t (key / 256)).valid = false ∧
        (region t (key / 256)).gen = (region s (key / 256)).gen + 1 ∧
        (∀ h < 8, cachedRegion t h (key / 256) = region t (key / 256)) ∧
        (∀ p, keyMatches (region t (key / 256)) p key = false) ∧ ∀ j, j ≠ key / 256 → region t j = region s j) ∧
    (∀ (c : Cmd) (s : State) (key : Nat), settled s → admits descRegionRevoke c s → key = fieldLE c.packet 16 4 →
      revokeBusy s c key = true → exec (.regionRevoke c) s = .next (holdCmd c s)) ∧
    ∀ (c : Cmd) (s : State) (key : Nat), settled s → admits descRegionRevoke c s → key = fieldLE c.packet 16 4 →
      revokeBusy s c key = false → keyMatches (region s (key / 256)) c.part key = false →
      exec (.regionRevoke c) s = .next (complete c .keyInvalid [] (procUnit s c) (turn c s))

/-- The page-fault commands (R88 to R95). -/
def Obligations.PageFaultCommandsTakeEffect : Prop :=
  (∀ (c : Cmd) (s : State) (n pa ctx : Nat), settled s → admits descPfQueueConfig c s →
      ctx = param c 16 8 0 16 → n = param c 16 8 16 5 → pa = fieldLE c.packet 24 8 → outstandingFaults s c.part = [] →
      n = 0 ∨ (6 ≤ n ∧ n ≤ 16 ∧ bufTarget pa = true ∧ pa % 2 ^ (n + 5) = 0 ∧
        (target pa ≠ 0 ∨ ownsCtx s c.part ctx = true)) →
      exec (.pfQueueConfig c) s = .next (complete c .ok [] (procUnit s c) (setPfq c.part { pfqOf s c.part with
          bufCtx := BitVec.ofNat 16 ctx, bufPa := BitVec.ofNat 64 pa, log2 := BitVec.ofNat 5 n, nextSeq := 0 } (begun c s)))) ∧
    (∀ (c : Cmd) (s : State) (f : PendFault), admits descPfResolve c s →
      s.hdl.pend.find? (fun f => f.faultId == BitVec.ofNat 32 (fieldLE c.packet 16 4)) = some f → f.part = c.part →
      (param c 20 4 0 1 = 0 → exec (.pfResolve c) s = .next (ended s (reedNotice (complete c .ok [] (procUnit s c)
        { begun c s with hdl := { s.hdl with
            pend := s.hdl.pend.filter (fun x => !(x.heddle == f.heddle && x.slot == f.slot)) } })))) ∧
      (param c 20 4 0 1 = 1 → exec (.pfResolve c) s = .next (ended s (reedNotice (complete c .ok [] (procUnit s c)
        (f.waiters.foldl failWaiter { begun c s with hdl := { s.hdl with
            pend := s.hdl.pend.filter (fun x => !(x.heddle == f.heddle && x.slot == f.slot)) } })))))) ∧
    (∀ (c : Cmd) (s : State), settled s → s.sht.pushDone = [] → admits descPfResolve c s →
      (s.hdl.pend.find? (fun f => f.faultId == BitVec.ofNat 32 (fieldLE c.packet 16 4)) = none →
        exec (.pfResolve c) s = .next (complete c .bounds [] (procUnit s c) (begun c s))) ∧
      ∀ f, s.hdl.pend.find? (fun f => f.faultId == BitVec.ofNat 32 (fieldLE c.packet 16 4)) = some f → f.part ≠ c.part →
        exec (.pfResolve c) s = .next (complete c .denied [] (procUnit s c) (begun c s))) ∧
    (∀ (c : Cmd) (s u : State) (all : List Nat), admits descPfHeldList c s → param c 16 8 16 16 ≠ 0 →
      all = (heldCursors s c.part).filter (fun k => decide (param c 16 8 32 32 ≤ k)) →
      bufWrite (procUnit s c) c.part (param c 16 8 0 16) (fieldLE c.packet 24 8)
        ((all.take (param c 16 8 16 16)).flatMap heldEntry) (begun c s) = (u, .ok) →
      exec (.pfHeldList c) s = .next (ended s (complete c .ok
        [(all.take (param c 16 8 16 16)).length, ((all.drop (param c 16 8 16 16))[0]?).getD 0] (procUnit s c) u))) ∧
    ∀ (c : Cmd) (s : State) (g typ : Nat), settled s → admits descPfReleaseHeld c s →
      typ = param c 16 4 24 2 → typ < 2 → heldObject s typ c.part (param c 16 4 0 24) = some g →
      isHeld s c.part typ g = true →
      exec (.pfReleaseHeld c) s = .next (complete c .ok [] (procUnit s c)
        { begun c s with hdl := { s.hdl with held := s.hdl.held.filter (fun x => x != (c.part, typ, g)) } })

/-- Lookups (R73), table walks (R73, R77) and the acknowledgement of withdrawals (R78, R79). -/
def Obligations.LookupsAndAcknowledgements : Prop :=
  (∀ (r : Lookup) (s : State), settled s → inService s (heddle r.heddle) = true → r.holder ∈ holdersOf r.heddle →
      (∀ st, translateCheck s r = some st →
        exec (.translationLookup r) s = .next (deliver r st 0 0 (bump (heddle r.heddle) 2 1 s))) ∧
      (∀ l, translateCheck s r = none → r.len ≠ 0 → cachedLeaf s r = some l → leafGrants l r.access = true →
        targetAssigned s r.part l.pa = true →
        exec (.translationLookup r) s = .next (deliver r .ok (l.pa + r.va % 2 ^ l.pageLog2) l.pageLog2
          (touchLeaf r.heddle l (bump (heddle r.heddle) 2 1 s)))) ∧
      (translateCheck s r = none → r.len ≠ 0 → cachedLeaf s r = none →
        exec (.translationLookup r) s = .next (ended s
          (startWalk r (bump (heddle r.heddle) 3 1 (bump (heddle r.heddle) 2 1 s)))))) ∧
    (∀ (id : Nat) (ext : List ExtRead) (s u : State) (w : Walk),
      s.hdl.walks.find? (fun x => x.id == id) = some w → (ctxDesc s w.req.ctx).epoch = w.epoch →
      staleEpoch s w.req w.epoch = false → translateCheck s w.req = none →
      (∀ a l, tableStep w.req w.level w.entryPa ext (untrack (.walk id)
        { s with hdl := { s.hdl with walks := s.hdl.walks.filter (fun x => x.id != id) } }) = (u, .pa a l) →
        exec (.tableEntryReturn id ext) s = .next (ended s (deliver w.req .ok a l.pageLog2 (touchLeaf w.req.heddle l u)))) ∧
      ∀ l pa addr, tableStep w.req w.level w.entryPa ext (untrack (.walk id)
        { s with hdl := { s.hdl with walks := s.hdl.walks.filter (fun x => x.id != id) } }) = (u, .next l pa addr) →
        exec (.tableEntryReturn id ext) s = .next (ended s
          (issueWalk { w with level := l, entryPa := pa } (cachePtr w.req l addr u)))) ∧
    (∀ (id h holder : Nat) (s : State) (w : Withdrawal), settled s →
      s.hdl.withdrawals.find? (fun w => w.id == id && w.awaiting.contains (h, holder)) = some w →
      (∀ ctx first n e, w.why = .withdraw ctx first n e → ∃ t, exec (.holderAck id h holder) s = .next t ∧
        t = ackHolder id h holder { s with hdl := { s.hdl with
          delivered := s.hdl.delivered.filter (fun t => !(t.req.holder == holder && ofWithdrawn ctx first n t)) } } ∧
        ∀ x ∈ t.hdl.withdrawals, x.id = id → (h, holder) ∉ x.awaiting) ∧
      ∀ key, w.why = .revoke key → (h, holder) ∉ keyHolders s key → ∃ t, exec (.holderAck id h holder) s = .next t ∧
        t = ackHolder id h holder s ∧ ∀ x ∈ t.hdl.withdrawals, x.id = id → (h, holder) ∉ x.awaiting) ∧
    (∀ (id h holder : Nat) (s : State) (w : Withdrawal),
      s.hdl.withdrawals.find? (fun w => w.id == id && w.awaiting.contains (h, holder)) = some w →
      100000 ≤ since s h (tget 0 w.started h) →
      ∃ t, exec (.holderAckTimeout id h holder) s = .next t ∧ t.hdl.holderFenced = true ∧
        ∀ x ∈ t.hdl.withdrawals, x.id = id → (h, holder) ∉ x.awaiting ∧ ((h, holder), dieTime s h) ∈ x.fencedWait) ∧
    ∀ (id h holder : Nat) (s : State) (w : Withdrawal) (began : Word64), settled s →
      s.hdl.withdrawals.find? (fun w => w.id == id) = some w →
      w.fencedWait.find? (fun p => p.1 == (h, holder)) = some ((h, holder), began) →
      (tget 0x32 s.weft.tmo 0).toNat * 1000 ≤ since s h began →
      ∃ t, exec (.holderFenceWaitExpiry id h holder) s = .next t ∧ t = ackHolder id h holder s ∧
        ∀ x ∈ t.hdl.withdrawals, x.id = id → ∀ p ∈ x.fencedWait, p.1 ≠ (h, holder)

/-- Doorbells (R108, R109), the interrupt of a queue (R113) and ENABLE (R116). -/
def Obligations.DoorbellsSetTailsHeadsAndEnable : Prop :=
  (∀ (d : Doorbell) (s : State) (g h : Nat) (q : OutQueue), settled s → s.fw.ready = true → portUsable s d.port = true → functionExists s d.part d.port = true →
      toGlobal s 0 d.part (doorbellSkein d) = some g → (skein s g).created = true → h = d.value % 65536 →
      q = { (skein s g).cq with head := h } →
      (doorbellWord d = some .sqTail → h < 2 ^ (skein s g).ring.log2 → exec (.sqTail d) s = .next
        (bump (ownerUnit s (.ord g)) 6 1 (setSkein g { skein s g with tail := h } s))) ∧
      (doorbellWord d = some .sqTail → 2 ^ (skein s g).ring.log2 ≤ h →
        exec (.sqTail d) s = .next { s with jcq := { s.jcq with dbRangeSeen := true } }) ∧
      (doorbellWord d = some .cqHead → 2 ^ q.ring.log2 ≤ h →
        exec (.cqHead d) s = .next { s with jcq := { s.jcq with dbRangeSeen := true } }) ∧
      (doorbellWord d = some .cqHead → h < 2 ^ q.ring.log2 → bit d.value 31 = false →
        exec (.cqHead d) s = .next (bump (ownerUnit s (.ord g)) 6 1 (setSkein g { skein s g with cq := q } s))) ∧
      (doorbellWord d = some .cqHead → h < 2 ^ q.ring.log2 → bit d.value 31 = true → unread q = 0 →
        exec (.cqHead d) s = .next (bump (ownerUnit s (.ord g)) 6 1
          (setSkein g { skein s g with cq := { q with arm := true } } s))) ∧
      (doorbellWord d = some .cqHead → h < 2 ^ q.ring.log2 → bit d.value 31 = true → unread q ≠ 0 →
        exec (.cqHead d) s = .next (bump (ownerUnit s (.ord g)) 6 1
          (setSkein g { skein s g with cq := { q with arm := false } } (sendVector (itemOwner s 0 g) q.vector.toNat s)))) ∧
      (doorbellWord d = some .ctl → bit d.value 0 = false ∨ (skein s g).error = false → exec (.ctl d) s = .next
        (bump (ownerUnit s (.ord g)) 6 1 (setSkein g { skein s g with enable := bit d.value 0 } s))) ∧
      (doorbellWord d = some .ctl → bit d.value 0 = true → (skein s g).error = true → exec (.ctl d) s = .next s)) ∧
    (∀ (d : Doorbell) (s : State), settled s → s.fw.ready = true → portUsable s d.port = true → functionExists s d.part d.port = true →
      (∀ g, toGlobal s 0 d.part (doorbellSkein d) = some g → (skein s g).created = false) →
      (doorbellWord d = some .sqTail →
        exec (.sqTail d) s = .next { s with jcq := { s.jcq with dbDrop := satInc s.jcq.dbDrop } }) ∧
      (doorbellWord d = some .cqHead →
        exec (.cqHead d) s = .next { s with jcq := { s.jcq with dbDrop := satInc s.jcq.dbDrop } }) ∧
      (doorbellWord d = some .ctl →
        exec (.ctl d) s = .next { s with jcq := { s.jcq with dbDrop := satInc s.jcq.dbDrop } })) ∧
    (∀ (d : Doorbell) (s : State), settled s → s.fw.ready = true → portUsable s d.port = true → functionExists s d.part d.port = true → doorbellWord d = none →
      (d.read = false → exec (.sqTail d) s = .next { s with jcq := { s.jcq with dbDrop := satInc s.jcq.dbDrop } }) ∧
      (d.read = true → exec (.sqTail d) s = .next (emit (.readData d.part 0)
        { s with jcq := { s.jcq with dbDrop := satInc s.jcq.dbDrop }, regs := { s.regs with readData := 0 } }))) ∧
    (∀ (d : Doorbell) (s : State), settled s → s.fw.ready = true → portUsable s d.port = true →
      functionExists s d.part d.port = false →
      exec (.sqTail d) s = .next { s with lnk := { s.lnk with vfDeny := satInc s.lnk.vfDeny } }) ∧
    ∀ (d : Doorbell) (s : State), settled s → s.fw.ready = false → exec (.sqTail d) s = .next s ∧
      exec (.cqHead d) s = .next s ∧ exec (.ctl d) s = .next s ∧ exec (.asqTail d) s = .next s ∧
      exec (.acqHead d) s = .next s ∧ exec (.eqHead d) s = .next s

/-- The words of the admin queues (R109, R113, R117, R121). -/
def Obligations.AdminDoorbellsAndWords : Prop :=
  (∀ (d : Doorbell) (s : State) (h : Nat) (a : AdminQ) (q e : OutQueue), settled s → s.fw.ready = true → portUsable s d.port = true → functionExists s d.part d.port = true → a = adminQ s d.part →
      h = d.value % 65536 → q = { a.sk.cq with head := h } → e = { a.eq with head := h } →
      (doorbellWord d = some .asqTail → h < 2 ^ a.sk.ring.log2 → exec (.asqTail d) s = .next
        (bump (ownerUnit s (.admin d.part)) 6 1 (setAdminQ d.part { a with sk := { a.sk with tail := h } } s))) ∧
      (doorbellWord d = some .asqTail → 2 ^ a.sk.ring.log2 ≤ h →
        exec (.asqTail d) s = .next { s with jcq := { s.jcq with dbRangeSeen := true } }) ∧
      (doorbellWord d = some .acqHead → h < 2 ^ q.ring.log2 → bit d.value 31 = false →
        exec (.acqHead d) s = .next (bump (ownerUnit s (.admin d.part)) 6 1
          (setAdminQ d.part { a with sk := { a.sk with cq := q } } s))) ∧
      (doorbellWord d = some .acqHead → h < 2 ^ q.ring.log2 → bit d.value 31 = true → unread q = 0 →
        exec (.acqHead d) s = .next (bump (ownerUnit s (.admin d.part)) 6 1
          (setAdminQ d.part { a with sk := { a.sk with cq := { q with arm := true } } } s))) ∧
      (doorbellWord d = some .acqHead → h < 2 ^ q.ring.log2 → bit d.value 31 = true → unread q ≠ 0 →
        exec (.acqHead d) s = .next (bump (ownerUnit s (.admin d.part)) 6 1
          (setAdminQ d.part { a with sk := { a.sk with cq := { q with arm := false } } }
            (sendVector d.part q.vector.toNat s)))) ∧
      (doorbellWord d = some .acqHead → 2 ^ q.ring.log2 ≤ h →
        exec (.acqHead d) s = .next { s with jcq := { s.jcq with dbRangeSeen := true } }) ∧
      (doorbellWord d = some .eqHead → h < 2 ^ e.ring.log2 → bit d.value 31 = false → exec (.eqHead d) s = .next
        (ended s (overflowEntry d.part (setAdminQ d.part { a with eq := e } (bump (ownerUnit s (.admin d.part)) 6 1 s))))) ∧
      (doorbellWord d = some .eqHead → 2 ^ e.ring.log2 ≤ h →
        exec (.eqHead d) s = .next { s with jcq := { s.jcq with dbRangeSeen := true } })) ∧
    ∀ (p value : Nat) (s u : State), adminWrite p 0x00 value s = some u →
      (adminQ s p).sk.enable = false ∧ (adminQ s p).eqEnable = false ∧ (adminQ s p).sk.outstanding = 0 ∧
      (adminQ u p).sk.head = 0 ∧ (adminQ u p).sk.tail = 0 ∧ (adminQ u p).sk.error = false ∧
      (adminQ u p).sk.ring.pa = BitVec.ofNat 64 value ∧ ∀ q, q ≠ p → adminQ u q = adminQ s q

/-- The queue commands of R124, and CLEAR_ERROR of R114. -/
def Obligations.SkeinCommandsTakeEffect : Prop :=
  (∀ (c : Cmd) (s : State) (g sq cq w v ctx sqPa cqPa : Nat), settled s → admits descSkeinCreate c s →
      skeinArg s c = some g → (skein s g).created = false →
      sq = param c 16 8 32 5 → cq = param c 16 8 37 5 → w = param c 16 8 42 8 → v = param c 40 4 0 11 →
      ctx = param c 16 8 16 16 → sqPa = fieldLE c.packet 24 8 → cqPa = fieldLE c.packet 32 8 →
      4 ≤ sq → sq ≤ 16 → 4 ≤ cq → cq ≤ 16 → w ≠ 0 → v < vectorTable s c.part →
      bufTarget sqPa = true → sqPa % 2 ^ (sq + 6) = 0 → bufTarget cqPa = true → cqPa % 2 ^ (cq + 5) = 0 →
      (target sqPa ≠ 0 ∧ target cqPa ≠ 0) ∨ ownsCtx s c.part ctx = true →
      exec (.skeinCreate c) s = .next (complete c .ok [] (ownerUnit s (.ord g)) (setSkein g
        { created := true, enable := param c 16 8 56 1 == 1, weight := BitVec.ofNat 8 w,
          burstM1 := BitVec.ofNat 6 (param c 16 8 50 6),
          ring := { pa := BitVec.ofNat 64 sqPa, bufCtx := BitVec.ofNat 16 ctx, log2 := sq },
          cq := { ring := { pa := BitVec.ofNat 64 cqPa, bufCtx := BitVec.ofNat 16 ctx, log2 := cq },
                  vector := BitVec.ofNat 11 v } } (begun c s)))) ∧
    (∀ (c : Cmd) (s : State) (g : Nat), settled s → admits descSkeinCreate c s → skeinArg s c = some g →
      (skein s g).created = true →
      exec (.skeinCreate c) s = .next (complete c .busy [] (procUnit s c) (begun c s))) ∧
    (∀ (c : Cmd) (s : State) (g : Nat), settled s → admits descSkeinModify c s → skeinArg s c = some g →
      (skein s g).created = true → param c 16 8 14 8 ≠ 0 →
      exec (.skeinModify c) s = .next (complete c .ok [] (ownerUnit s (.ord g)) (setSkein g { skein s g with
        weight := BitVec.ofNat 8 (param c 16 8 14 8)
        burstM1 := BitVec.ofNat 6 (param c 16 8 22 6)
        error := (skein s g).error && param c 16 8 28 1 != 1
        enable := (skein s g).enable && !((skein s g).error && param c 16 8 28 1 == 1) } (begun c s)))) ∧
    ∀ (c : Cmd) (s : State) (g : Nat), settled s → admits descSkeinDestroy c s → skeinArg s c = some g →
      (skein s g).created = true →
      (skeinIdle (skein s g) = true →
        exec (.skeinDestroy c) s = .next (complete c .ok [] (ownerUnit s (.ord g)) (setSkein g {} (begun c s)))) ∧
      (skeinIdle (skein s g) = false →
        exec (.skeinDestroy c) s = .next (complete c .busy [] (procUnit s c) (begun c s)))

/-- The loop of R115; one step of it is one SKEIN_SERVE (log entry 50). -/
def Obligations.SkeinsAreServed : Prop :=
  (∀ (n : Nat) (s : State) (r : SkeinRef), n < 32 → procStopped s n = false → (procOf s n).visit = none →
      (∀ x ∈ procAdmins s n, (skeinOf s x).fetching = false) → (procAdmins s n).find? (servable_ s) = some r →
      (procOf s n).adminN < 4 → exec (.skeinServe n) s = .next (ended s (serveOne r s))) ∧
    (∀ (n g : Nat) (s : State), n < 32 → procStopped s n = false → (procOf s n).visit = some g →
      visitGoes s n g (procOf s n) = true →
      ((skein s g).fetching = false → servable_ s (.ord g) = true →
        exec (.skeinServe n) s = .next (ended s (serveOne (.ord g) s))) ∧
      (settled s → (skein s g).fetching = true → exec (.skeinServe n) s = .next s)) ∧
    (∀ (n g : Nat) (rest : List Nat) (s : State), n < 32 → procStopped s n = false → (procOf s n).visit = none →
      (∀ x ∈ procAdmins s n, (skeinOf s x).fetching = false) →
      (procAdmins s n).find? (servable_ s) = none ∨ 4 ≤ (procOf s n).adminN → (procOf s n).left = g :: rest →
      visitGoes s n g { procOf s n with n := 0 } = true → (skein s g).fetching = false → servable_ s (.ord g) = true →
      exec (.skeinServe n) s = .next (ended s (serveOne (.ord g)
        (setProc n { procOf s n with visit := some g, last := some g, left := rest, n := 0 } s)))) ∧
    (∀ (n g : Nat) (rest : List Nat) (s u : State), n < 32 → procStopped s n = false → (procOf s n).visit = none →
      (∀ x ∈ procAdmins s n, (skeinOf s x).fetching = false) → procAdmins s n = [] → (procOf s n).left = [] →
      roundOver s n = true → u = newRound n s → passOrder u n = g :: rest →
      visitGoes u n g { procOf s n with n := 0 } = true → (skein s g).fetching = false → servable_ u (.ord g) = true →
      exec (.skeinServe n) s = .next (ended s (serveOne (.ord g)
        (setProc n { procOf s n with visit := some g, last := some g, left := rest, n := 0 }
          (setProc n { procOf s n with left := g :: rest } u))))) ∧
    (∀ (n : Nat) (s : State), (newRound n s).jcq.admin = s.jcq.admin ∧
      (∀ g, .ord g ∈ procSkeins s n → skein (newRound n s) g = { skein s g with
        credit := (skein s g).weight.toNat, roundWeight := (skein s g).weight, roundBurstM1 := (skein s g).burstM1 }) ∧
      ∀ g, .ord g ∉ procSkeins s n → skein (newRound n s) g = skein s g) ∧
    ∀ (n : Nat) (s : State), settled s → 32 ≤ n ∨ procStopped s n = true → exec (.skeinServe n) s = .next s

/-- Entries (R107, R109, R114), credits (R115), completions (R103, R112, R113) and vectors (R332). -/
def Obligations.EntriesCreditsAndCompletions : Prop :=
  (∀ (r : SkeinRef) (ext : List ExtRead) (s u : State) (bs packet : List Byte) (head : Nat),
      (skeinOf s r).fetching = true →
      bufRead (ownerUnit s r) (skeinPart s r) (skeinOf s r).ring.bufCtx.toNat
        ((skeinOf s r).ring.pa.toNat + 64 * (skeinOf s r).head) 64 ext (untrack (.skeinEntry r) s) = (u, .ok, bs) →
      packet = (skeinOf u r).fetched ++ bs → head = ((skeinOf u r).head + 1) % 2 ^ (skeinOf u r).ring.log2 →
      (packet.length / 64 ≤ fieldLE packet 2 1 % 4 →
        exec (.skeinEntryReturn r ext) s = .next (ended s ((if head = (skeinOf u r).tail then id else startEntry r)
          (putSkein r { skeinOf u r with fetching := false, fetched := packet, head := head,
                                         outstanding := (skeinOf u r).outstanding + b2n (!midCommand (skeinOf u r)) } u)))) ∧
      (fieldLE packet 2 1 % 4 < packet.length / 64 →
        exec (.skeinEntryReturn r ext) s = .next (ended s (fetchedCmd r packet
          (putSkein r { skeinOf u r with fetching := false, fetched := packet, head := head,
                                         outstanding := (skeinOf u r).outstanding + b2n (!midCommand (skeinOf u r)) } u))))) ∧
    (∀ (r : SkeinRef) (ext : List ExtRead) (s u : State) (bs : List Byte) (st : Status),
      (skeinOf s r).fetching = true → st ≠ .ok →
      bufRead (ownerUnit s r) (skeinPart s r) (skeinOf s r).ring.bufCtx.toNat
        ((skeinOf s r).ring.pa.toNat + 64 * (skeinOf s r).head) 64 ext (untrack (.skeinEntry r) s) = (u, st, bs) →
      exec (.skeinEntryReturn r ext) s = .next (ended s (freezeCheck (skeinError r st (dropFetch r u))))) ∧
    (∀ (r : SkeinRef) (ext : List ExtRead) (s : State), settled s → (skeinOf s r).fetching = false →
      exec (.skeinEntryReturn r ext) s = .next s) ∧
    (∀ (u n : Nat) (s v : State), inService s u = true →
      v = { s with jcq := { s.jcq with unitCredit := tmod 0 s.jcq.unitCredit u (· + n) } } →
      exec (.engineCreditGrant u n) s = .next (ended s ((stagedFor v u).foldl (fun s r => tryDispatch r s) v))) ∧
    (∀ (r : SkeinRef) (c : Cmd) (u : Nat) (s : State), (skeinOf s r).staged = some c →
      mayDispatch s (skeinOf s r) c = true → targetUnit s c = some u → inReset s u = false → inService s u = true →
      (tryDispatch r s).jcq.dispatched = s.jcq.dispatched ++ [{ cmd := keptCopy c, unit := u }] ∧
        (skeinOf (tryDispatch r s) r).staged = none) ∧
    (∀ (i : Nat) (s u : State) (d : Done) (g : Nat), settled s → s.jcq.done[i]? = some d → d.ref.skein = .ord g →
      d.comm = none → s.parts.freezes = [] → s.hang.iso = none → s.fw.restart = none →
      (∀ x ∈ s.bob.stops, x.2 ≠ d.ref) → (skein s g).created = true → d.ref.silent = false ∨ d.status ≠ .ok →
      bufWrite (ownerUnit s (.ord g)) (itemOwner s 0 g) (skein s g).cq.ring.bufCtx.toNat
        ((skein s g).cq.ring.pa.toNat + 32 * (skein s g).cq.next) (completionBytes d (skein s g).cq.phase)
        { s with jcq := { s.jcq with done := s.jcq.done.eraseIdx i } } = (u, .ok) →
      ∃ t, exec (.commandCompletion i) s = .next t ∧ t.jcq.done = s.jcq.done.eraseIdx i ∧ t.spl = u.spl ∧
        t.jcq.live = s.jcq.live ∧ t.jcq.dispatched = s.jcq.dispatched ∧
        (skein t g).outstanding = (skein s g).outstanding - 1 ∧
        (skein t g).cq.reserved = (skein s g).cq.reserved - 1 ∧
        ((skein t g).cq.next, (skein t g).cq.phase) =
          (if (skein s g).cq.next + 1 = 2 ^ (skein s g).cq.ring.log2 then (0, !(skein s g).cq.phase)
           else ((skein s g).cq.next + 1, (skein s g).cq.phase)) ∧ (skein t g).cq.arm = false) ∧
    (∀ (i : Nat) (s : State) (d : Done) (g : Nat), settled s → s.jcq.done[i]? = some d → d.ref.skein = .ord g →
      d.comm = none → s.parts.freezes = [] → s.hang.iso = none → s.fw.restart = none →
      (∀ x ∈ s.bob.stops, x.2 ≠ d.ref) → d.ref.silent = true → d.status = .ok →
      ∃ t, exec (.commandCompletion i) s = .next t ∧ t.jcq.done = s.jcq.done.eraseIdx i ∧ t.spl = s.spl ∧
        skein t g = releaseSlot (skein s g)) ∧
    (∀ (p v : Nat) (s : State), settled s → v < vectorTable s p → tget false s.lnk.pba (p * 2048 + v) = true →
      portUsable s (homePort s p) = true → exec (.msixUnmask p v false) s = .next
        (emit (.msix (homePort s p) p v (tget 0 s.lnk.msixAddr (p * 2048 + v)).toNat (tget 0 s.lnk.msixData (p * 2048 + v)).toNat)
          { s with lnk := { s.lnk with msixOpen := tset false s.lnk.msixOpen (p * 2048 + v) true,
                                       pba := tset false s.lnk.pba (p * 2048 + v) false } })) ∧
    ∀ (p v : Nat) (s : State), settled s → v < vectorTable s p → exec (.msixUnmask p v true) s = .next
      { s with lnk := { s.lnk with msixOpen := tset false s.lnk.msixOpen (p * 2048 + v) false } }

/-- The checks of R102, the status reply of R103, and one outcome for each command (R105). -/
def Obligations.CompletionEntryFields : Prop :=
  (∀ p ∈ ([(.timeSample, descTimeSample), (.timePair, descTimePair), (.granuleAssign, descGranuleAssign),
        (.granuleRelease, descGranuleRelease), (.ctxAssign, descCtxAssign), (.ctxConfig, descCtxConfig),
        (.ctxDisable, descCtxDisable), (.hdlWithdraw, descHdlWithdraw), (.regionRegister, descRegionRegister),
        (.regionRevoke, descRegionRevoke), (.pfQueueConfig, descPfQueueConfig), (.pfHeldList, descPfHeldList),
        (.pfReleaseHeld, descPfReleaseHeld), (.nop, descNop), (.skeinCreate, descSkeinCreate),
        (.skeinModify, descSkeinModify), (.skeinDestroy, descSkeinDestroy), (.bobImageLoad, descImageLoad),
        (.bobImageUnload, descImageUnload), (.bobLaunch, descLaunch), (.bobStop, descStop), (.seqCreate, descSeqCreate),
        (.seqDestroy, descSeqDestroy), (.seqQuery, descSeqQuery), (.aportBind, descAportBind),
        (.ethSend, descEthSend), (.keyLoad, descKeyLoad), (.keyDestroy, descKeyDestroy), (.keyQuery, descKeyQuery),
        (.gcmSeal, descGcmSeal), (.gcmOpen, descGcmOpen), (.xtsEnc, descXts 0x0612), (.xtsDec, descXts 0x0613),
        (.resSet, descResSet), (.partFreeze, descPartFreeze), (.partSave, descPartSave), (.partRestore, descPartRestore),
        (.partThaw, descPartThaw), (.partClear, descPartClear), (.pwrSet, descPwrSet), (.pwrQuery, descPwrQuery),
        (.devRestart, descDevRestart), (.fwDownload, descFwDownload), (.fwActivate, descFwActivate),
        (.mboxSend, descMboxSend), (.mboxRead, descMboxRead), (.safRead, descSafRead), (.safAck, descSafAck),
        (.safFence, descSafFence), (fun c => .safUnfence c none, descSafUnfence), (.safTestLoad, descSafTestLoad),
        (fun c => .safTestRun c none, descSafTestRun), (.heartbeat, descHeartbeat), (.hangMode, descHangMode),
        (.unitReset, descUnitReset), (.hangIsolate, descHangIsolate), (.hangDump, descHangDump), (.dumpCopy, descDumpCopy),
        (.cntSnapshot, descCntSnapshot), (.cntProfile, descCntProfile), (.cntPartRead, descCntPartRead),
        (.cntClear, descCntClear)] : List ((Cmd → Instr) × OpDesc)), ∀ (c : Cmd) (s : State), settled s →
      (startable s c = false → exec (p.1 c) s = .next s) ∧
      ∀ st, startable s c = true → issueCheck p.2 c = some st →
        exec (p.1 c) s = .next (complete c st [] (procUnit s c) s)) ∧
    (∀ (r : CmdRef) (st : Status) (res : List Nat) (unit : Nat) (s : State),
      (∀ l, s.jcq.live.find? (fun l => l.ref == r) = some l → completeRef r st res unit s = { s with jcq := { s.jcq with
        live := s.jcq.live.filter (fun x => x.ref != r)
        dispatched := s.jcq.dispatched.filter (fun d => cmdRef d.cmd != r)
        waiting := s.jcq.waiting.filter (fun c => cmdRef c != r)
        done := s.jcq.done ++ [{ ref := r, status := st, result := res, unit := unit, replayed := l.replayed }] } }) ∧
      ((∀ l ∈ s.jcq.live, l.ref ≠ r) → completeRef r st res unit s = s)) ∧
    ∀ (d : Done) (phase : Bool), (completionBytes d phase).length = 32 ∧
      fieldLE (completionBytes d phase) 0 1 = statusCode d.status ∧
      fieldLE (completionBytes d phase) 1 1 = (if d.replayed then 1 else 0) ∧
      fieldLE (completionBytes d phase) 2 2 = d.ref.sqHead % 2 ^ 16 ∧
      fieldLE (completionBytes d phase) 4 4 = d.ref.tag % 2 ^ 32 ∧
      (∀ k, k < 4 → fieldLE (completionBytes d phase) (8 + 4 * k) 4 = (d.result[k]?).getD 0 % 2 ^ 32) ∧
      fieldLE (completionBytes d phase) 24 2 = d.unit % 2 ^ 16 ∧
      fieldLE (completionBytes d phase) 26 2 = d.ref.opcode % 2 ^ 16 ∧
      fieldLE (completionBytes d phase) 28 4 = (if phase then 2 ^ 31 else 0)

/-- Accesses (R5), reserved encodings (R6), the window (R329, R331, R431), the MSI-X table (R330) and conflicts (R125, R126). -/
def Obligations.RegisterAccessesReadAndWrite : Prop :=
  ∀ (who : Requester) (addr v : Nat) (s : State),
    (windowOpen s who addr = true → absentFunction s who = false →
      (∀ r, regAt addr = some r → r.wide = true → addr % 8 = 0 → mayRead who addr = true →
        exec (.registerWrite (readAt who addr 8)) s = .next (ended s (answerRead who (r.onRead who s, r.val s % 2 ^ 64))) ∧
        exec (.registerWrite (readAt who addr 4)) s = .next (ended s (answerRead who (readHalf r addr who false s))) ∧
        readHalf r addr who false s = ({ s with regs := { s.regs with
          readLatch := { who := who, addr := addr, value := r.val s / 2 ^ 32 } :: unlatch s.regs.readLatch who addr } },
            r.val s % 2 ^ 32)) ∧
      (∀ r, regAt addr = some r → r.wide = false → addr % 4 = 0 → mayRead who addr = true →
        exec (.registerWrite (readAt who addr 4)) s = .next (ended s (answerRead who (r.onRead who s, r.val s % 2 ^ 32)))) ∧
      (∀ r base, regAt base = some r → r.wide = true → addr = base + 4 → base % 8 = 0 → regAt addr = none → mayRead who addr = true →
        exec (.registerWrite (readAt who addr 4)) s = .next (ended s (answerRead who
          ({ s with regs := { s.regs with readLatch := unlatch s.regs.readLatch who base } },
            (latched s.regs.readLatch who base).getD (r.val s / 2 ^ 32))))) ∧
      (∀ r, regAt addr = some r → r.wide = true → addr % 8 = 0 → mayWrite who addr = true →
        exec (.registerWrite (writeAt who addr 8 v)) s = .next (ended s (writeWhole r addr who (v % 2 ^ 64) s)) ∧
        exec (.registerWrite (writeAt who addr 4 v)) s = .next (ended s { s with regs := { s.regs with
          writeHalf := { who := who, addr := addr, value := v % 2 ^ 32 } :: unlatch s.regs.writeHalf who addr } })) ∧
      (∀ r, regAt addr = some r → r.wide = false → addr % 4 = 0 → mayWrite who addr = true →
        exec (.registerWrite (writeAt who addr 4 v)) s = .next (ended s (writeWhole r addr who (v % 2 ^ 32) s))) ∧
      (∀ r base, regAt base = some r → r.wide = true → addr = base + 4 → base % 8 = 0 → regAt addr = none → mayWrite who addr = true →
        exec (.registerWrite (writeAt who addr 4 v)) s = .next (ended s (writeWhole r base who
          ((latched s.regs.writeHalf who base).getD (keptLow r s) + 2 ^ 32 * (v % 2 ^ 32))
          { s with regs := { s.regs with writeHalf := unlatch s.regs.writeHalf who base } }))) ∧
      (∀ r, regAt addr = some r → addr % 4 = 0 → mayWrite who addr = true →
        exec (.registerWrite (writeAt who addr 2 v)) s = .next (ended s (noteConflict r.unit addr true who (v % 2 ^ 16) s))) ∧
      (regAt addr = none → addr % 8 = 0 → inComponent addr = false →
        exec (.registerWrite (readAt who addr 4)) s = .next (ended s (answerRead who (s, 0))) ∧
        (mayWrite who addr = true → exec (.registerWrite (writeAt who addr 4 v)) s = .next (ended s s))) ∧
      (who.cls = 1 → mayWrite who addr = false →
        exec (.registerWrite (writeAt who addr 4 v)) s = .next (ended s (vfDenied s))) ∧
      (who.cls = 1 → mayRead who addr = false →
        exec (.registerWrite (readAt who addr 4)) s = .next (ended s (answerRead who (s, 0))))) ∧
    (∀ r u, r.wr who v s = some u → writeWhole r addr who v s = written r.unit addr who v u) ∧
    (∀ r, r.wr who v s = none → writeWhole r addr who v s = noteConflict r.unit addr true who v s) ∧
    (windowOpen s who addr = false →
      exec (.registerWrite (readAt who addr 4)) s = .next (ended s (answerRead who (s, 0))) ∧
      exec (.registerWrite (writeAt who addr 4 v)) s = .next (ended s s)) ∧
    (windowOpen s who addr = true → absentFunction s who = true →
      exec (.registerWrite (writeAt who addr 4 v)) s = .next (ended s (countVfDeny s))) ∧
    (who.cls ≤ 1 → absentFunction s who = false → addr % 4 = 0 →
      exec (.registerWrite { readAt who addr 4 with space := .bar4 }) s =
        .next (ended s (answerRead who (s, tableRead who.part addr s))) ∧
      exec (.registerWrite { writeAt who addr 4 v with space := .bar4 }) s =
        .next (ended s (tableWrite who.part addr (v % 2 ^ 32) s)))

/-- CONFLICT (R125, R126). -/
def Obligations.ConflictRecordKeepsTheFirst : Prop :=
  ∀ (unit addr v : Nat) (cause : Bool) (who : Requester) (s : State),
    ((conflictOf s (blockOf addr)).seen = false → conflictOf (noteConflict unit addr cause who v s) (blockOf addr) =
      { seen := true, cause := cause, multi := false, offset := BitVec.ofNat 20 addr, part := BitVec.ofNat 6 who.part,
        cls := BitVec.ofNat 4 who.cls, unit := BitVec.ofNat 16 unit, value := BitVec.ofNat 64 v }) ∧
    ((conflictOf s (blockOf addr)).seen = true → conflictOf (noteConflict unit addr cause who v s) (blockOf addr) =
      { conflictOf s (blockOf addr) with multi := true }) ∧
    (∀ b, b ≠ blockOf addr → conflictOf (noteConflict unit addr cause who v s) b = conflictOf s b) ∧
    (v % 2 = 1 → conflictOf (writeConflict (blockOf addr) v s) (blockOf addr) = {}) ∧
    { noteConflict unit addr cause who v s with regs := s.regs } = s

/-- The port registers of R362, R364, R366, R369, R371, R376, R377, R379 and R380. -/
def Obligations.RegisterRowsOfThePorts : Prop :=
  ∀ (who : Requester) (k v : Nat) (s : State), settled s → s.fw.ready = true → who.cls ≠ 1 → k < 8 → v < 2 ^ 64 →
    (∀ r, r < 256 →
      (bits v 0 2 ≠ 3 → (bits v 0 2 = 1 → rxqOn (ethRxq s k (bits v 2 6)) = true) →
        exec (.ruleWrite (writeAt who (portAt k (0x1008 + 16 * r)) 8 v)) s = .next
          (written (ethPort k) (portAt k (0x1008 + 16 * r)) who v (setRule k r
            { w0 := (ethRule s k r).held.getD (ethRule s k r).w0, held := none, w8 := BitVec.ofNat 64 (bits v 0 19) } s))) ∧
      (bits v 0 2 = 3 ∨ (bits v 0 2 = 1 ∧ rxqOn (ethRxq s k (bits v 2 6)) = false) →
        exec (.ruleWrite (writeAt who (portAt k (0x1008 + 16 * r)) 8 v)) s = .next
          (noteConflict (ethPort k) (portAt k (0x1008 + 16 * r)) true who v s))) ∧
    (∀ i w0, i < 1024 → w0 = (tget ({} : EthPolicer) (ethp s k).policer i).held.getD (tget {} (ethp s k).policer i).w0 →
      (bits w0.toNat 0 21 ≤ bits v 0 21 → bits w0.toNat 21 24 ≤ bits v 21 24 →
        exec (.policerWrite (writeAt who (portAt k (0x4008 + 16 * i)) 8 v)) s = .next
          (written (ethPort k) (portAt k (0x4008 + 16 * i)) who v (setEthp k { ethp s k with
            policer := tset {} (ethp s k).policer i
              { w0 := w0, held := none, w8 := BitVec.ofNat 64 (bits v 0 45), b := fullBuckets (ethp s k) } } s))) ∧
      (bits v 0 21 < bits w0.toNat 0 21 ∨ bits v 21 24 < bits w0.toNat 21 24 →
        exec (.policerWrite (writeAt who (portAt k (0x4008 + 16 * i)) 8 v)) s = .next
          (noteConflict (ethPort k) (portAt k (0x4008 + 16 * i)) true who v s))) ∧
    (∀ n, n < 4096 → ∃ t, exec (.shaperWrite (writeAt who (portAt k (0x8008 + 16 * n)) 8 v)) s = .next t ∧
        t = written (ethPort k) (portAt k (0x8008 + 16 * n)) who v (applyQueue k n v s) ∧
        (ethQueue t k n).w0 = (ethQueue s k n).held.getD (ethQueue s k n).w0 ∧ (ethQueue t k n).held = none ∧
        (ethQueue t k n).w8 = BitVec.ofNat 64 (bits v 0 63) ∧ (ethQueue t k n).pkts = (ethQueue s k n).pkts ∧
        (ethQueue t k n).b = fullBuckets (ethp s k)) ∧
    (∀ g, g < 256 → ∃ t, exec (.shaperWrite (writeAt who (portAt k (0x3008 + 16 * g)) 8 v)) s = .next t ∧
        t = written (ethPort k) (portAt k (0x3008 + 16 * g)) who v (applyGroup k g v s) ∧
        (ethGroup t k g).w0 = (ethGroup s k g).held.getD (ethGroup s k g).w0 ∧ (ethGroup t k g).held = none ∧
        (ethGroup t k g).w8 = BitVec.ofNat 64 (bits v 0 63) ∧ (ethGroup t k g).b = fullBuckets (ethp s k)) ∧
    (∀ part half, part < 64 → half < 2 →
      (∀ u, writeTxmap k part half v s = some u →
        exec (.txmapWrite (writeAt who (portAt k (0x800 + 16 * part + 8 * half)) 8 v)) s = .next
          (written (ethPort k) (portAt k (0x800 + 16 * part + 8 * half)) who v u)) ∧
      (writeTxmap k part half v s = none →
        exec (.txmapWrite (writeAt who (portAt k (0x800 + 16 * part + 8 * half)) 8 v)) s = .next
          (noteConflict (ethPort k) (portAt k (0x800 + 16 * part + 8 * half)) true who v s))) ∧
    (v < 2 ^ 32 → ∃ t, exec (.portCtlEnable (writeAt who (portAt k 8) 4 v)) s = .next t ∧
      t = ended s (written (ethPort k) (portAt k 8) who v (putPortCtl k v s)) ∧ (ethp t k).enable = BitVec.ofNat 8 v ∧
      (ethp t k).lowPower = bit v 8) ∧
    (bit v 8 = true → v < 2 ^ 32 → ∃ t, exec (.lowPowerSet (writeAt who (portAt k 8) 4 v)) s = .next t ∧
      t = ended s (written (ethPort k) (portAt k 8) who v (putPortCtl k v s)) ∧ (ethp t k).lowPower = true ∧
      ((ethp s k).lowPower = false → (ethp t k).power = .entering)) ∧
    (bit v 8 = false → v < 2 ^ 32 → ∃ t, exec (.lowPowerClear (writeAt who (portAt k 8) 4 v)) s = .next t ∧
      t = ended s (written (ethPort k) (portAt k 8) who v (putPortCtl k v s)) ∧ (ethp t k).lowPower = false ∧
      ((ethp s k).lowPower = true → (ethp t k).power = .waking)) ∧
    exec (.ptAdj (writeAt who (portAt k 0x108) 8 v)) s = .next (written (ethPort k) (portAt k 0x108) who v
      (modEthp k (fun p => { p with ptime := p.ptime + BitVec.ofNat 64 v }) s)) ∧
    (v < 2 ^ 32 → v % 2 = 1 → exec (.ptSnap (writeAt who (portAt k 0x114) 4 v)) s = .next
      (written (ethPort k) (portAt k 0x114) who v
        (modEthp k (fun p => { p with snapPort := p.ptime, snapDie := dieTime s (24 + k) }) s))) ∧
    ∀ sub i, sub < 8 → i < 17 → bit v (cntWidth i - 1) = true →
      ∃ t, exec (.counterTopClear (writeAt who (portAt k (0x2800 + 0x100 * sub + 8 * i)) 8 v)) s = .next t ∧
        t = written (ethPort k) (portAt k (0x2800 + 0x100 * sub + 8 * i)) who v (clearTop k sub i s) ∧
        (2 ^ (cntWidth i - 1) ≤ tget 0 (ethSub s k sub).cnt i →
          tget 0 (ethSub t k sub).cnt i = tget 0 (ethSub s k sub).cnt i - 2 ^ (cntWidth i - 1))

/-- The register rows of R117, R417, R436, R443, R444, R465, R485, R490 and R498. -/
def Obligations.RegisterRowsOfTheDevice : Prop :=
  ∀ (who : Requester) (v : Nat) (s : State), settled s → who.cls ≠ 1 → v < 2 ^ 32 →
    (s.fw.ready = true → ∀ x, x < 80 →
      (bits v 4 2 ≠ 3 → bits v 8 8 ≠ 0 →
        ∃ t, exec (.domainPolicyWrite (writeAt who (0xC10000 + 16 * x) 4 v)) s = .next t ∧
          (domain t x).policy = BitVec.ofNat 2 (bits v 4 2) ∧ (domain t x).idleUs = BitVec.ofNat 8 (bits v 8 8) ∧
          ((bits v 4 2 = 1 ∨ bits v 4 2 = 2) → (x < 64 ∨ 72 ≤ x) →
            t = written (domainUnit x) (0xC10000 + 16 * x) who v (setDomain x { domain s x with
              policy := BitVec.ofNat 2 (bits v 4 2)
              idleUs := BitVec.ofNat 8 (bits v 8 8) } s)) ∧
          (bits v 4 2 = 0 → t = written (domainUnit x) (0xC10000 + 16 * x) who v (wakeDomain x (setDomain x { domain s x with
              policy := 0
              idleUs := BitVec.ofNat 8 (bits v 8 8) } s)))) ∧
      (bits v 4 2 = 3 ∨ bits v 8 8 = 0 →
        exec (.domainPolicyWrite (writeAt who (0xC10000 + 16 * x) 4 v)) s = .next
          (noteConflict (domainUnit x) (0xC10000 + 16 * x) true who v s))) ∧
    (s.fw.safeMode = true → v % 2 = 1 → exec (.safeExit (writeAt who 0x18 4 v)) s = .next (ended s
      (written frameServices 0x18 who v (beginStart false { s with fw := { s.fw with warmFails := 0, coldFails := 0 } })))) ∧
    (s.fw.ready = true → ∀ m, m < 32 → v % 2 = 1 → maySend (mbox s m) who = true → (mbox s m).full = false →
      ownerReset s (mbox s m) = false → ownerFenced s (mbox s m) = false →
      ∃ t, exec (.mboxGo (writeAt who (0x2000 + 0x40 * m + 60) 4 v)) s = .next t ∧
        t = ended s (written mailboxes (0x2000 + 0x40 * m + 60) who v (mailGo who m s)) ∧ (mbox t m).full = true ∧
        (mbox t m).nack = false ∧ (mbox t m).seq = (mbox s m).seq + 1 ∧ (mbox t m).payload = (mbox s m).payload ∧
        (mbox t m).part = BitVec.ofNat 6 who.part ∧ (mbox t m).cls = BitVec.ofNat 4 who.cls) ∧
    (s.fw.ready = true → ∀ m, m < 32 → (mbox s m).ownerPartition = false → who.cls = 3 →
      exec (.mboxSenderRead (readAt who (0x2000 + 0x40 * m + 56) 4)) s = .next
        (answerRead who (setMbox m { mbox s m with full := false } s, mailWord (mbox s m) 14 % 2 ^ 32))) ∧
    (s.fw.ready = true → ∀ u, u < 65536 → validUnit u = true → bits v 16 16 = 0xFFFF →
      ∃ t, exec (.lostClear (writeAt who (0xA40000 + 4 * u) 4 v)) s = .next t ∧
        t = written selvedge (0xA40000 + 4 * u) who v (writeSafUnit u v s) ∧ (safUnit t u).lost = 0 ∧
        (safUnit t u).fenced = (safUnit s u).fenced ∧ (safUnit t u).dependent = (safUnit s u).dependent) ∧
    (s.fw.ready = true → bits v 16 2 = 3 → bit v 19 = false → who.cls ∈ [0, 4, 5] →
      ∃ t, exec (.resetCtlPackage (writeAt who 0x3010 4 v)) s = .next t ∧
        t = ended s (written frameServices 0x3010 who v (requestPkgReset s)) ∧ t.fw.pkgReset = some (frameTime s)) ∧
    (s.fw.ready = true → bits v 16 2 = 3 → who.cls ∉ [0, 4, 5] →
      exec (.resetCtlPackage (writeAt who 0x3010 4 v)) s = .next (noteConflict frameServices 0x3010 true who v s)) ∧
    (s.fw.ready = true → bits v 16 2 ≠ 3 → bit v 19 = false →
      (firstFail (resetFails s (bits v 0 16) (bits v 16 2)) = none →
        exec (.resetCtlUnit (writeAt who 0x3010 4 v)) s = .next (ended s (written frameServices 0x3010 who v
          (applyReset { unit := bits v 0 16, level := bits v 16 2, replay := bit v 18, at_ := 0 } s)))) ∧
      (firstFail (resetFails s (bits v 0 16) (bits v 16 2)) ≠ none →
        exec (.resetCtlUnit (writeAt who 0x3010 4 v)) s = .next (written frameServices 0x3010 who v s))) ∧
    (s.fw.ready = true → bits v 16 2 ≠ 3 ∨ who.cls ∈ [0, 4, 5] → bit v 19 = true → s.hang.dump = none →
      dumpAllowed s false = true →
      exec (.resetCtlDump (writeAt who 0x3010 4 v)) s = .next (ended s (written frameServices 0x3010 who v
        (startDump 1 none (some (bits v 0 16, bits v 16 2, bit v 18)) s)))) ∧
    (s.fw.ready = true → exec (.cntSelWrite (writeAt who 0xB00000 4 v)) s = .next (written frameServices 0xB00000 who v
      { s with cnt := { s.cnt with sel := BitVec.ofNat 16 v, valid := false, ordered := true } })) ∧
    (s.fw.ready = true → ∀ p o, p < 64 → o ∈ [0x00, 0x08, 0x10, 0x18, 0x1C, 0x20] →
      (∀ u, adminWrite p o v s = some u →
        exec (.jcqAdminWrite (writeAt who (0x120000 + 0x100 * p + o) (if o < 0x18 then 8 else 4) v)) s = .next (ended s
          (written (jacquard (p % 32)) (0x120000 + 0x100 * p + o) who v u))) ∧
      (adminWrite p o v s = none →
        exec (.jcqAdminWrite (writeAt who (0x120000 + 0x100 * p + o) (if o < 0x18 then 8 else 4) v)) s = .next
          (noteConflict (jacquard (p % 32)) (0x120000 + 0x100 * p + o) true who v s)))

/-- Managing queue pairs (R129, R135, R138, R139), in order (R120), with the context cache (R190, R191). -/
def Obligations.QueuePairCommandsTakeEffect : Prop :=
  (∀ (c : Cmd) (s : State) (q : Nat) (a : Qp), admits descQpCreate c s → namedQp s c = some q → cached s q = true → qpHeldUp c s = false → a = archArg c 16 →
      ((qpOf s q).created = false → badCodes a = false → badA (qpMode a) a = false →
        (qpMode a ≠ 0 → qpEnc a = false ∧ archField a 0 14 2 ≠ 3 ∧ qpUd a = false) → (qpMode a = 2 → 2 ≤ qpNvmeSize a) →
        subAssigned s (qpPort a) (qpSub a) c.part = true → (qpEnc a = true → slotOwned s c.part (qpSlot a) = true) →
        exec (.qpCreate c) s = .next (shtEnded s (complete c .ok [q] (objectUnit s q) (setQp q
          { created := true, state := .init, arch := a.arch &&& (maskL ||| maskR ||| maskA) }
          (if qpEnc a then addRef (qpSlot a) (sliceLookup q (turn c s)).2 else (sliceLookup q (turn c s)).2))))) ∧
      ((qpOf s q).created = true →
        exec (.qpCreate c) s = .next (shtEnded s (complete c .busy [] (procUnit s c) (sliceLookup q (turn c s)).2)))) ∧
    (∀ (c : Cmd) (s : State) (q n : Nat), admits descQpModify c s → namedQp s c = some q → cached s q = true → qpHeldUp c s = false → n = param c 16 8 0 3 → n < 6 →
      badCodes (archArg c 24) = false → (setA c = true → badA (qpMode (qpOf s q)) (archArg c 24) = false) →
      (qpOf s q).created = true →
      (qpTransition c (qpOf s q).state (qpStOf n) = true →
        exec (.qpModify c) s = .next (shtEnded s (qpMove c q (qpStOf n) (sliceLookup q (turn c s)).2))) ∧
      (qpTransition c (qpOf s q).state (qpStOf n) = false →
        exec (.qpModify c) s = .next (shtEnded s (complete c .busy [] (procUnit s c) (sliceLookup q (turn c s)).2))) ∧
      (calm s → (qpOf s q).state = .init → n = 2 → setA c = false → ∃ t, exec (.qpModify c) s = .next t ∧
        qpOf t q = armQp s q (takeR c (qpOf s q)) ∧ (qpOf t q).state = .armed ∧
        (qpOf t q).sqPsn = qpInitSq (takeR c (qpOf s q)) ∧ (qpOf t q).rqBase = qpInitRq (takeR c (qpOf s q)) ∧
        t.jcq = (complete c .ok [] (objectUnit s q) (turn c s)).jcq ∧ ∀ x, x ≠ q → qpOf t x = qpOf s x) ∧
      (calm s → (qpOf s q).state = .armed → n = 3 → setA c = false → ∃ t, exec (.qpModify c) s = .next t ∧
        qpOf t q = { qpOf s q with state := .active } ∧ t.jcq = (complete c .ok [] (objectUnit s q) (turn c s)).jcq ∧
        ∀ x, x ≠ q → qpOf t x = qpOf s x) ∧
      (calm s → (qpOf s q).state = .active → n = 4 → ∃ t, exec (.qpModify c) s = .next t ∧ (qpOf t q).state = .drain ∧
        ∀ x, x ≠ q → qpOf t x = qpOf s x) ∧
      (calm s → n = 0 → setA c = false → (∀ o ∈ opsOf s q, o.cmd ≠ none) → ∃ t, exec (.qpModify c) s = .next t ∧
        qpOf t q = { created := true, arch := (qpOf s q).arch &&& maskL })) ∧
    (∀ (c : Cmd) (s : State) (q : Nat), admits descQpQuery c s → namedQp s c = some q → cached s q = true → qpHeldUp c s = false → (qpOf s q).created = true →
      exec (.qpQuery c) s = .next (shtEnded s (complete c .ok
        [qpStCode (qpOf s q).state + (if qpHeld s q then 8 else 0) + 2 ^ 8 * (qpOf s q).errStatus.toNat,
          (qpOf s q).sqPsn.toNat, sendsOut s q, (qpOf s q).recvs.length]
        (objectUnit s q) (sliceLookup q (turn c s)).2))) ∧
    (∀ (c : Cmd) (s : State) (q : Nat), admits descQpDestroy c s → namedQp s c = some q → cached s q = true → qpHeldUp c s = false → (qpOf s q).created = true →
      (qpOf s q).state = .reset ∨ (qpOf s q).state = .error → opsOf s q = [] → (qpOf s q).recvs = [] →
      exec (.qpDestroy c) s = .next (shtEnded s (complete c .ok [] (objectUnit s q) (setQp q {} (forgetFaults q
        (freeAtomBlock q (if qpEnc (qpOf s q) then dropRef (qpSlot (qpOf s q)) (sliceLookup q (turn c s)).2
          else (sliceLookup q (turn c s)).2))))))) ∧
    (∀ p ∈ ([(.qpCreate, descQpCreate), (.qpModify, descQpModify), (.qpDestroy, descQpDestroy), (.qpQuery, descQpQuery)] :
        List ((Cmd → Instr) × OpDesc)), ∀ (c : Cmd) (s : State), admits p.2 c s →
      (qpHeldUp c s = true → exec (p.1 c) s = .next (shtEnded s (holdCmd c s))) ∧
      (namedQp s c = none → exec (p.1 c) s = .next (shtEnded s (complete c .bounds [] (procUnit s c) (turn c s)))) ∧
      ∀ q, namedQp s c = some q → qpHeldUp c s = false → cached s q = false →
        exec (p.1 c) s = .next (shtEnded s (waitCtx c (sliceLookup q (turn c s)).2)))

/-- Accepting data operations (R129, R131, R134, R140, R141, R145, R168, R191). -/
def Obligations.DataOperationsAreAccepted : Prop :=
  (∀ p ∈ ([(.write, descWrite), (.read, descRead), (.send, descSend), (.fetchAdd, descFetchAdd), (.cmpSwap, descCmpSwap),
        (.reducePush, descReducePush), (.udSend, descUdSend)] : List ((Cmd → Instr) × OpDesc)), ∀ (c : Cmd) (s : State),
      admits p.2 c s →
      (namedQp s c = none → exec (p.1 c) s = .next (shtEnded s (complete c .bounds [] (procUnit s c) (begun c s)))) ∧
      ∀ q, namedQp s c = some q →
        (cached s q = false → exec (p.1 c) s = .next (shtEnded s (waitCtx c (sliceLookup q (begun c s)).2))) ∧
        (cached s q = true →
          (firstFail (opFails c s q) = none → ∃ t, exec (p.1 c) s = .next t ∧
            t = shtEnded s (addOp (sendOpOf c q) (opKeyChecked c q (sliceLookup q (begun c s)).2)) ∧
            (calm s → tget none s.sht.stay q = none → t.sht.ops = s.sht.ops ++ [{ sendOpOf c q with id := s.sht.nextOp }] ∧
              t.sht.nextOp = s.sht.nextOp + 1 ∧ t.sht.qp = s.sht.qp ∧ t.jcq = (begun c s).jcq)) ∧
          ∀ st, firstFail (opFails c s q) = some st →
            exec (p.1 c) s = .next (shtEnded s (complete c st [] (procUnit s c) (sliceLookup q (begun c s)).2)))) ∧
    (∀ (c : Cmd) (s : State) (q : Nat), admits descRecv c s → namedQp s c = some q → cached s q = true →
      (firstFail (opFails c s q) = none → ∃ t, exec (.recv c) s = .next t ∧
        t = shtEnded s (freezeCheck (opStart c q (opKeyChecked c q (sliceLookup q (begun c s)).2))) ∧
        (calm s → (qpOf t q).recvs = (qpOf s q).recvs ++
            [{ cmd := cmdRef c, lkey := fieldLE c.packet 16 4, loff := fieldLE c.packet 24 8, len := cmdLength c }] ∧
          t.sht.ops = s.sht.ops ∧ ∀ x, x ≠ q → qpOf t x = qpOf s x)) ∧
      ∀ st, firstFail (opFails c s q) = some st → exec (.recv c) s =
        .next (shtEnded s (freezeCheck (complete c st [] (procUnit s c) (sliceLookup q (begun c s)).2)))) ∧
    (∀ (c : Cmd) (s : State) (q : Nat), admits (descNvmeIo c) c s →
      (nvmeLenBad c = true → exec (.nvmeIo c) s = .next (shtEnded s (complete c .lenRange [] (procUnit s c) (begun c s)))) ∧
      (nvmeLenBad c = false → namedQp s c = some q → cached s q = true →
        (firstFail (opFails c s q) = none → ∃ t, exec (.nvmeIo c) s = .next t ∧
          t = shtEnded s (opStart c q (opKeyChecked c q (sliceLookup q (begun c s)).2)) ∧
          (calm s → tget none s.sht.stay q = none → (qpOf t q).nvmeOn = true ∧ t.sht.ops = s.sht.ops ++ [{ sendOpOf c q with id := s.sht.nextOp }] ∧
            ((qpOf s q).nvmeOn = true → t.jcq = (begun c s).jcq))) ∧
        ∀ st, firstFail (opFails c s q) = some st →
          exec (.nvmeIo c) s = .next (shtEnded s (complete c st [] (procUnit s c) (sliceLookup q (begun c s)).2))))

/-- Sending (R143, R172, R180, R187, R199) and transmit queues that are full (R370). -/
def Obligations.PacketsOfAMessageAreBuilt : Prop :=
  (∀ (q : Nat) (ext : List ExtRead) (corrupt : Bool) (s : State), (qpOf s q).created = true → cached s q = true →
      (qpOf s q).aside = false → sendTimeCome (qpTime s q) (qpOf s q) = true → unitHolds s (serving s q) 1 q = false →
      (qpMode (qpOf s q) = 0 → keyStalled s q = false →
        (qpRoom s q = false →
          exec (.pacedSend q ⟨ext, corrupt⟩) s = .next (shtEnded s (setQp q { qpOf s q with aside := true } s))) ∧
        (qpRoom s q = true →
          (∀ i, (qpOf s q).queue.find? (itemReady (qpOf s q)) = some i →
            exec (.pacedSend q ⟨ext, corrupt⟩) s = .next (shtEnded s (sendItem q i
              (setQp q { qpOf s q with queue := (qpOf s q).queue.erase i } s)))) ∧
          ((qpOf s q).queue.find? (itemReady (qpOf s q)) = none → ∀ o, nextOp s q = some o → mayBuild s q o = true →
            (o.code = 0x0317 ∨ psnDiff (qpOf s q).sqPsn (qpOf s q).sndUna < 256) →
            (o.code = 0x0311 → exec (.pacedSend q ⟨ext, corrupt⟩) s = .next (shtEnded s (sendReadReq o s))) ∧
            (o.code ∈ [0x0310, 0x0312, 0x0316] →
              pushIntact o (min (qpMtu (qpOf s q)) (o.len - o.built)) corrupt = true → ∀ u bs,
              opSource o (min (qpMtu (qpOf s q)) (o.len - o.built)) ext s = (u, .ok, bs) →
              exec (.pacedSend q ⟨ext, corrupt⟩) s = .next (shtEnded s
                (sendOpPacket o bs (min (qpMtu (qpOf s q)) (o.len - o.built)) u))) ∧
            (o.code ∈ [0x0314, 0x0315] → atomicsOut (qpOf s q) < 16 → ∀ d, o.data = some d → o.crcs = [] →
              exec (.pacedSend q ⟨ext, corrupt⟩) s = .next (shtEnded s (sendOpPacket o (slice d o.built d.length) 8 s))) ∧
            (o.code = 0x0317 → pushIntact o (min (qpMtu (qpOf s q)) (o.len - o.built)) corrupt = true → ∀ u bs,
              opSource o (min (qpMtu (qpOf s q)) (o.len - o.built)) ext s = (u, .ok, bs) →
              exec (.pacedSend q ⟨ext, corrupt⟩) s = .next (shtEnded s (sendUd o bs u))) ∧
            (calm s → qpEnc (qpOf s q) = false → o.code = 0x0310 → ∀ d, o.data = some d → o.crcs = [] →
              ∃ t e, exec (.pacedSend q ⟨ext, corrupt⟩) s = .next t ∧ (qpOf t q).sqPsn = (qpOf s q).sqPsn + 1 ∧
                (qpOf t q).sent = (qpOf s q).sent ++ [e] ∧ e.psn = (qpOf s q).sqPsn ∧ e.op = o.id ∧ e.opc = 1 ∧
                e.payload = slice d o.built (min (qpMtu (qpOf s q)) (o.len - o.built)) ∧
                e.offset = (o.roff + o.built) % 2 ^ 48)))) ∧
      (qpMode (qpOf s q) ≠ 0 → qpRoom s q = true →
        (∀ psn, (qpOf s q).queue.find? (itemReady (qpOf s q)) = some (.again psn) →
          exec (.pacedSend q ⟨ext, corrupt⟩) s = .next (shtEnded s (roceAgain q psn
            (setQp q { qpOf s q with queue := (qpOf s q).queue.erase (.again psn) } s)))) ∧
        ((qpOf s q).queue.find? (itemReady (qpOf s q)) = none →
          exec (.pacedSend q ⟨ext, corrupt⟩) s = .next (shtEnded s (buildRoce q ext s))))) ∧
    (∀ (q : Nat) (s : State), (qpOf s q).aside = true → qpRoom s q = true → exec (.txqRoom q) s = .next (shtEnded s
      ((qpOf s q).ctlHeld.foldl (sendHeld q) (setQp q { qpOf s q with aside := false, ctlHeld := [] } s)))) ∧
    (∀ (q : Nat) (s : State), calm s → (qpOf s q).aside = false ∨ qpRoom s q = false → exec (.txqRoom q) s = .next s)

/-- The checks of R162, in order, and parking (R192). -/
def Obligations.ReceivedPacketsAreChecked : Prop :=
  ∀ k ∈ ([(.rxWrite, isOpc 1, onRequest onWrite),
        (.rxReadReq, isOpc 2, onRequest fun q p s => onReadReq q p true s),
        (.rxReadResp, isOpc 3, fun q p s => onReadResp q p.h.psn p.payload s), (.rxSend, isOpc 4, onRequest onSend),
        (.rxFetchAdd, isOpc 5, onRequest onAtomic), (.rxCmpSwap, isOpc 6, onRequest onAtomic),
        (.rxAtomicResp, isOpc 7, fun q p s => onAtomicResp q p.h.psn (fieldLE p.payload 0 8) s),
        (.rxReducePush, fun h => isOpc 8 h && h.len != 0, onRequest onPush),
        (.rxPushRelease, fun h => isOpc 8 h && h.len == 0 && !bit h.offset 47, onRequest (onControl false)),
        (.rxPushRecall, fun h => isOpc 8 h && h.len == 0 && bit h.offset 47, onRequest (onControl true)),
        (.rxUdSend, isOpc 9, onUd),
        (.rxAck, isOpc 0x10, fun q p s => onAck q p.h.psn (leNat p.payload) (bits p.h.aux2 0 16) (bits p.h.aux2 16 16)
          (bit p.h.flags 2) s),
        (.rxNak, isOpc 0x11, fun q p s => onNak q p.h.psn p.h.aux p.h.aux2 (bit p.h.flags 2) s),
        (.rxAbandon, isAbandon, packetEffect)] : List ((Nat → List Byte → List ExtRead → Instr) × (ShtHdr → Bool) × (Nat → RxPkt → State → State))),
    ∀ (port : Nat) (frame : List Byte) (ext : List ExtRead) (s : State) (p : RxPkt),
    (readPacket s port frame ext = some (p, false) → exec (k.1 port frame ext) s = .next (shtEnded s
      { takeInbox port frame s with sht := { (takeInbox port frame s).sht with
        crcDrop := satInc s.sht.crcDrop
        crcSeen := true } })) ∧
    (readPacket s port frame ext = some (p, true) →
      (badHeader p = true → exec (k.1 port frame ext) s = .next (shtEnded s (countRxDrop true (takeInbox port frame s)))) ∧
      (badHeader p = false → k.2.1 p.h = true → 2 ^ 20 ≤ p.h.dest →
        exec (k.1 port frame ext) s = .next (shtEnded s (countRxDrop true (takeInbox port frame s)))) ∧
      (badHeader p = false → k.2.1 p.h = true → p.h.dest < 2 ^ 20 → unitHolds s (serving s p.h.dest) 1 p.h.dest = false →
        (cached s p.h.dest = true →
          (∀ d, badTarget (qpOf s p.h.dest) p = false → p.h.len ≤ qpMtu (qpOf s p.h.dest) →
            openPacket s (qpOf s p.h.dest) p = some d → exec (k.1 port frame ext) s = .next (shtEnded s
              (k.2.2 p.h.dest { p with payload := d } (sliceLookup p.h.dest (takeInbox port frame s)).2))) ∧
          (badTarget (qpOf s p.h.dest) p = true ∨ ((qpOf s p.h.dest).created = true ∧ qpMtu (qpOf s p.h.dest) < p.h.len) →
            exec (k.1 port frame ext) s = .next (shtEnded s
              (countRxDrop true (sliceLookup p.h.dest (takeInbox port frame s)).2))) ∧
          (badTarget (qpOf s p.h.dest) p = false → p.h.len ≤ qpMtu (qpOf s p.h.dest) →
            openPacket s (qpOf s p.h.dest) p = none → exec (k.1 port frame ext) s = .next (shtEnded s
              (countGcmDrop (sliceLookup p.h.dest (takeInbox port frame s)).2)))) ∧
        (cached s p.h.dest = false →
          (p.h.opc = 0x10 ∨ p.h.opc = 0x11 → exec (k.1 port frame ext) s = .next (shtEnded s
            (countRxDrop false (sliceLookup p.h.dest (takeInbox port frame s)).2))) ∧
          (p.h.opc ≠ 0x10 → p.h.opc ≠ 0x11 → ∃ t, exec (k.1 port frame ext) s = .next t ∧
            t = shtEnded s (park p (sliceLookup p.h.dest (takeInbox port frame s)).2) ∧
            (calm s → parkedBytes s port + ceilDiv p.bytes 64 * 64 ≤ 2 ^ 22 →
              (s.sht.parked.filter fun x => x.qp == p.h.dest).length < 16 → t.sht.parked = s.sht.parked ++
                [{ port := port, qp := p.h.dest, frame := frame, bytes := ceilDiv p.bytes 64 * 64, ext := ext }])))))

/-- Duplicates (R173) and the records of atomics (R148); a duplicate READ_REQ is executed again. -/
def Obligations.DuplicatesAreNotExecutedAgain : Prop :=
  ∀ (q : Nat) (p : RxPkt) (s : State) (fresh : Nat → RxPkt → State → State),
    (psnDiff p.h.psn (qpOf s q).rqBase < 0 ∨ (psnDiff p.h.psn (qpOf s q).rqBase < 256 ∧
      (qpOf s q).rxMap.getLsbD (psnDiff p.h.psn (qpOf s q).rqBase).toNat = true)) → p.h.opc ≠ 2 →
    (onRequest fresh q p s).spl.mem = s.spl.mem ∧
    (onRequest fresh q p s).sht.ops = s.sht.ops ∧ (qpOf (onRequest fresh q p s) q).recvs = (qpOf s q).recvs ∧
    (qpOf (onRequest fresh q p s) q).rqBase = (qpOf s q).rqBase ∧
    (qpOf (onRequest fresh q p s) q).rxMap = (qpOf s q).rxMap ∧
    (∀ r, p.h.opc = 5 ∨ p.h.opc = 6 → isAbandon p.h = false →
      tget none (qpOf s q).atoms (p.h.psn.toNat % 16) = some r → r.psn = p.h.psn →
      onRequest fresh q p s = setQp q { qpOf s q with
        queue := (qpOf s q).queue ++ [.resp p.h.psn 7 p.h.msgId 0 (leBytes 8 r.prior)] } s) ∧
    (p.h.opc = 5 ∨ p.h.opc = 6 → isAbandon p.h = false →
      (∀ r, tget none (qpOf s q).atoms (p.h.psn.toNat % 16) = some r → r.psn ≠ p.h.psn) →
      onRequest fresh q p s = s) ∧
    (p.h.opc ≠ 5 → p.h.opc ≠ 6 → onRequest fresh q p s = sendAck q s)

/-- The Shuttle header of R156. -/
def Obligations.ShuttleHeaderRoundTrip : Prop :=
  (∀ h : ShtHdr, h.version < 2 ^ 4 → h.opc < 2 ^ 8 → h.flags < 2 ^ 16 → h.dest < 2 ^ 24 → h.msgId < 2 ^ 16 →
      h.offset < 2 ^ 48 → h.aux < 2 ^ 16 → h.len < 2 ^ 14 → h.key < 2 ^ 32 → h.aux2 < 2 ^ 32 → h.reserved = false →
      readShtHdr (shtHdrBytes h) = h ∧ (shtHdrBytes h).length = 32) ∧
    (∀ (h : ShtHdr) (k : Nat), 2 ^ 24 ≤ h.dest → h.dest < 2 ^ 32 → (readShtHdr (shtHdrBytes h ++ leBytes k 0)).reserved = true)

/-- Paths (R174 to R176). -/
def Obligations.PathsAreChosenByWeight : Prop :=
  (∀ x : BitVec 32, (lfsrNext x).toNat = (2 * x.toNat +
      (if x.getLsbD 31 ^^ x.getLsbD 21 ^^ x.getLsbD 1 ^^ x.getLsbD 0 then 1 else 0)) % 2 ^ 32) ∧
    (∀ (v : Qp) (ps : List Nat) (r : Nat), r < (ps.map (pathWeight v)).sum → ∃ pre p post, ps = pre ++ p :: post ∧
      choosePath v ps r = p ∧ (pre.map (pathWeight v)).sum ≤ r ∧ r < (pre.map (pathWeight v)).sum + pathWeight v p) ∧
    (∀ (v : Qp) (p : Nat), pathWeight v p = 16 - tget 0 v.beta p / 16) ∧
    (∀ e, e < 2 ^ 16 → (tget (lfsrSeed e) State.reset.sht.lfsr e).toNat = 0x5A5A0000 + e) ∧
    (∀ (s : State) (v : Qp) (p : Nat), (tget 0 v.beta p - ceilDiv (tget 0 v.beta p) 16) < s.sht.rerollBeta.toNat →
      tget 0 (pathSeen s false p v).beta p = tget 0 v.beta p - ceilDiv (tget 0 v.beta p) 16 ∧
      tget 0 (pathSeen s false p v).entropy p = tget 0 v.entropy p) ∧
    (∀ (s : State) (v : Qp) (p : Nat), s.sht.rerollBeta.toNat ≤ tget 0 v.beta p + (255 - tget 0 v.beta p) / 16 →
      tget 0 (pathSeen s true p v).beta p = 64 ∧
      tget 0 (pathSeen s true p v).entropy p = (tget 0 v.entropy p + s.sht.entropyStep.toNat) % 64) ∧
    (∀ (v : Qp) (p : Nat), p < 16 → tget 0 v.entropy p < 64 →
      49152 ≤ pathPort v p ∧ pathPort v p ≤ 50175 ∧ pathPort v p % 16 = p)

/-- Commits (R150, R152), ACK delay (R178), T_RTO (R182, R199), deferral (R185), T_INC (R188) and NVMe (R171). -/
def Obligations.CommitsAndTimersOfQueuePairs : Prop :=
  (∀ (q : Nat) (psn : BitVec 32) (ext : List ExtRead) (s : State) (o : RxOpen), qpMode (qpOf s q) = 0 →
      (qpOf s q).opened.find? (fun o => o.psns.contains psn) = some o → o.waits = [] →
      (o.flag = true → commitBase (qpOf s q) = psn) →
      (o.fault = none → o.write = none → exec (.packetCommit q psn ext) s = .next (shtEnded s (commitOpen q o s))) ∧
      (∀ x u, o.fault = none → o.write = some x → writeFlag q o ext s = (u, .ok) → newWrites s u = [] →
        exec (.packetCommit q psn ext) s = .next (shtEnded s (commitOpen q o u))) ∧
      (∀ st, o.fault = some st → exec (.packetCommit q psn ext) s = .next (shtEnded s (refuseOpen q o psn st s))) ∧
      (calm s → o.fault = none → o.write = none → o.send = false → o.ack = false → ∃ t,
        exec (.packetCommit q psn ext) s = .next t ∧
        qpOf t q = { qpOf s q with opened := (qpOf s q).opened.erase o } ∧ ∀ x, x ≠ q → qpOf t x = qpOf s x)) ∧
    (∀ (q : Nat) (psn : BitVec 32) (ext : List ExtRead) (s : State) (o : RxOpen), calm s → qpMode (qpOf s q) = 0 →
      (qpOf s q).opened.find? (fun o => o.psns.contains psn) = some o →
      o.waits ≠ [] ∨ (o.flag = true ∧ commitBase (qpOf s q) ≠ psn) → exec (.packetCommit q psn ext) s = .next s) ∧
    (∀ (q : Nat) (psn : BitVec 32) (ext : List ExtRead) (s : State), qpMode (qpOf s q) ≠ 0 →
      exec (.packetCommit q psn ext) s = .next (shtEnded s (roceCommit q 256 s))) ∧
    (∀ (q : Nat) (s : State) (x : Word64), (qpOf s q).tAck = some x → passed (qpTime s q) x = true →
      (qpMode (qpOf s q) ≠ 0 → exec (.ackDelayExpiry q) s = .next (shtEnded s (roceAckLast q s))) ∧
      (qpMode (qpOf s q) = 0 → exec (.ackDelayExpiry q) s = .next (shtEnded s (sendAck q s))) ∧
      (calm s → qpMode (qpOf s q) = 0 → keyStalled s q = false → ∃ t, exec (.ackDelayExpiry q) s = .next t ∧
        (qpOf t q).tAck = none ∧ (qpOf t q).rxSinceAck = 0 ∧ (qpOf t q).rxPathSeen = 0 ∧ (qpOf t q).rxPathCe = 0)) ∧
    (∀ (q : Nat) (s : State) (x : Word64), (qpOf s q).tRto = some x → passed (qpTime s q) x = true →
      (qpOf s q).deferred = false → keyStalled s q = false → (qpOf s q).sent ≠ [] →
      (calm s → (qpOf s q).retries < qpRetryMax (qpOf s q) → ∃ t, exec (.tRtoExpiry q) s = .next t ∧
        t = shtEnded s (if qpMode (qpOf s q) = 0 then rtoExpiry q s else roceRto q s) ∧
        (qpOf t q).retries = (qpOf s q).retries + 1 ∧
        (qpOf t q).rtoShift = min ((qpOf s q).rtoShift + 1) s.sht.rtoShiftMax.toNat ∧
        (qpMode (qpOf s q) = 0 → (qpOf t q).rtxMark = (qpOf s q).sqPsn ∧ (qpOf t q).pathAlive = 0 ∧
          (qpOf t q).sent = (qpOf s q).sent)) ∧
      (qpRetryMax (qpOf s q) ≤ (qpOf s q).retries → exec (.tRtoExpiry q) s = .next (shtEnded s (qpFails q .timeout
        (((qpOf s q).sent.find? fun e => e.psn == (qpOf s q).sndUna).map (·.op)) none (qpOf s q).sndUna s))) ∧
      (calm s → qpRetryMax (qpOf s q) ≤ (qpOf s q).retries → (qpOf s q).state = .active → opsOf s q = [] →
        ∃ t, exec (.tRtoExpiry q) s = .next t ∧ (qpOf t q).state = .error ∧ (qpOf t q).errStatus = 0x0D ∧
          t.sht.qpErrSeen = true)) ∧
    (∀ (q : Nat) (s : State), (qpOf s q).deferred = true → passed (qpTime s q) (qpOf s q).deferUntil = true →
      (qpMode (qpOf s q) ≠ 0 → exec (.deferExpiry q) s = .next (shtEnded s (roceDefer q s))) ∧
      (qpMode (qpOf s q) = 0 → exec (.deferExpiry q) s = .next (shtEnded s (resume q (qpOf s q).deferLo s))) ∧
      (calm s → qpMode (qpOf s q) = 0 → ∃ t, exec (.deferExpiry q) s = .next t ∧
        (qpOf t q).deferred = false ∧ (qpOf t q).rtxMark = (qpOf s q).sqPsn ∧
        ∀ e ∈ unackedFrom (qpOf s q) (qpOf s q).deferLo, e.refused = none → .again e.psn ∈ (qpOf t q).queue)) ∧
    (∀ (q : Nat) (s : State) (x : Word64), (qpOf s q).tInc = some x → passed (qpTime s q) x = true →
      s.sht.ccEnable = true → keyStalled s q = false →
      exec (.tIncExpiry q) s = .next (shtEnded s (increase q s)) ∧
      (calm s → (qpOf s q).stage < 5 → ∃ t, exec (.tIncExpiry q) s = .next t ∧
        (qpOf t q).rate = ((qpOf s q).rate + (qpOf s q).target) / 2 ∧ (qpOf t q).target = (qpOf s q).target ∧
        (qpOf t q).stage = (qpOf s q).stage + 1)) ∧
    (∀ (q : Nat) (s : State) (n : NvmeCmd),
      (qpOf s q).nvme.find? (fun c => decide (s.sht.nvmeTmoMs.toNat * 1000000 ≤ (qpTime s q - c.sent).toNat)) = some n →
      exec (.nvmeTimeout q) s = .next (shtEnded s (qpFails q .timeout none none (qpOf s q).sndUna
        (completeRef n.cmd .timeout [] (serving s q) (setQp q
          { qpOf s q with nvme := (qpOf s q).nvme.filter fun x => x.cid != n.cid }
          { s with sht := { s.sht with nvmeTmoSeen := true } })))) ∧
      (calm s → opsOf s q = [] → (qpOf s q).state = .active → ∃ t, exec (.nvmeTimeout q) s = .next t ∧
        t.sht.nvmeTmoSeen = true ∧ (qpOf t q).state = .error ∧
        ∀ l ∈ s.jcq.live, l.ref = n.cmd → ∃ d ∈ t.jcq.done, d.ref = n.cmd ∧ d.status = .timeout)) ∧
    (∀ (q : Nat) (s : State), calm s → (qpOf s q).tAck = none → (qpOf s q).tRto = none →
      (qpOf s q).tInc = none → (qpOf s q).deferred = false → (qpOf s q).nvme = [] →
      exec (.ackDelayExpiry q) s = .next s ∧ exec (.tRtoExpiry q) s = .next s ∧ exec (.deferExpiry q) s = .next s ∧
      exec (.tIncExpiry q) s = .next s ∧ exec (.nvmeTimeout q) s = .next s)

/-- The context (R128, R133, R196), its cache (R190, R191, R194) and RoCEv2 (R163 to R166, R199). -/
def Obligations.ContextFetchesAndRoce : Prop :=
  (∀ (q : Nat) (s : State), s.sht.fetching.contains q = true →
      (∀ bad, exec (.contextFetchComplete q bad) s = .next (shtEnded s (contextFetched q bad s))) ∧
      (calm s → s.sht.parked = [] → s.sht.waitCmds = [] → opsOf s q = [] →
        (∀ u b, spoolRead (slice_ (homeDie s q)) 0 (256 * q) 256 (untrack (.ctxFetch q)
            { s with sht := { s.sht with fetching := s.sht.fetching.filter (· != q) } }) = (u, .ok, b) →
          ∃ t, exec (.contextFetchComplete q false) s = .next t ∧ q ∉ t.sht.fetching ∧
            cacheOf t (homeDie s q) = q :: cacheOf s (homeDie s q) ∧
            qpOf t q = (if (qpOf s q).created = true ∧ qpWorks s q = false then loadContext (qpTime s q) b (qpOf s q)
              else qpOf s q) ∧ ∀ x, x ≠ q → qpOf t x = qpOf s x) ∧
        (∃ t, exec (.contextFetchComplete q true) s = .next t ∧ t.sht.ctxPoisonSeen = true ∧
          (qpOf t q).state = .error ∧ (qpOf t q).errStatus = 0x09 ∧ ∀ x, x ≠ q → qpOf t x = qpOf s x))) ∧
    (∀ (s : State) (q : Nat), (qpContext s q).length = 256 ∧
      fieldLE (qpContext s q) 80 4 = (qpOf s q).sqPsn.toNat ∧ fieldLE (qpContext s q) 84 4 = (qpOf s q).rqBase.toNat ∧
      fieldLE (qpContext s q) 88 2 = (qpOf s q).nextMsg.toNat ∧
      fieldLE (qpContext s q) 90 2 = (qpOf s q).recvs.length % 2 ^ 16 ∧
      fieldLE (qpContext s q) 92 1 = (qpOf s q).errStatus.toNat ∧ fieldLE (qpContext s q) 96 4 = (qpOf s q).rate % 2 ^ 32 ∧
      fieldLE (qpContext s q) 120 4 = (qpOf s q).sndUna.toNat ∧ fieldLE (qpContext s q) 124 4 = (qpOf s q).rtxMark.toNat ∧
      fieldLE (qpContext s q) 136 32 = (qpOf s q).sackMap.toNat ∧ fieldLE (qpContext s q) 168 32 = (qpOf s q).rxMap.toNat ∧
      fieldLE (qpContext s q) 236 2 = (qpOf s q).pathAlive.toNat) ∧
    (∀ (q : Nat) (s : State), s.sht.wayWait.contains q = true →
      exec (.cacheWayUnpin q) s = .next (shtEnded s (startFetch q s)) ∧
      (calm s → tget none s.sht.stay q = none → (inSet s (homeDie s q) (setOf q)).length < 8 → ∃ t,
        exec (.cacheWayUnpin q) s = .next t ∧ t.sht.fetching = s.sht.fetching ++ [q] ∧ q ∉ t.sht.wayWait ∧
        t.sht.qp = s.sht.qp)) ∧
    (∀ (q : Nat) (s : State), calm s → s.sht.wayWait.contains q = false → exec (.cacheWayUnpin q) s = .next s) ∧
    (∀ (port : Nat) (frame : List Byte) (ext : List ExtRead) (s : State) (p : RocePkt),
      (readRoce frame ext = some (p, false) → exec (.rocePacketReceive port frame ext) s = .next (shtEnded s
        { takeInbox port frame s with sht := { (takeInbox port frame s).sht with
          crcDrop := satInc s.sht.crcDrop
          crcSeen := true } })) ∧
      (readRoce frame ext = some (p, true) → roceWaits s p = false → roceKnown p.op = true → p.dest < 2 ^ 20 →
        (cached s p.dest = true →
          (roceBad (qpOf s p.dest) p = true → exec (.rocePacketReceive port frame ext) s = .next (shtEnded s
            (countRxDrop true (sliceLookup p.dest (takeInbox port frame s)).2))) ∧
          (roceBad (qpOf s p.dest) p = false → p.ce = false →
            (p.op = 0x81 → exec (.rocePacketReceive port frame ext) s = .next (shtEnded s
              (onEcho p.dest true (sliceLookup p.dest (takeInbox port frame s)).2))) ∧
            (p.op = 0x11 → exec (.rocePacketReceive port frame ext) s = .next (shtEnded s
              (roceOnAck p.dest p (sliceLookup p.dest (takeInbox port frame s)).2))) ∧
            (p.op ∈ [0x0D, 0x0E, 0x0F, 0x10, 0x12] → exec (.rocePacketReceive port frame ext) s = .next (shtEnded s
              (roceOnResponse p.dest p (sliceLookup p.dest (takeInbox port frame s)).2))) ∧
            (p.op ∉ [0x0D, 0x0E, 0x0F, 0x10, 0x11, 0x12, 0x81] → exec (.rocePacketReceive port frame ext) s =
              .next (shtEnded s (roceRequest p.dest p (sliceLookup p.dest (takeInbox port frame s)).2))))) ∧
        (cached s p.dest = false → p.op ≠ 0x11 → ∃ t pk, exec (.rocePacketReceive port frame ext) s = .next t ∧
          t = shtEnded s (park pk (sliceLookup p.dest (takeInbox port frame s)).2) ∧ pk.frame = frame ∧ pk.port = port ∧
          pk.h.dest = p.dest)))

/-- Managing communicators (R203, R204, R206, R207, R211, R224, R226, R229). -/
def Obligations.CommunicatorCommandsTakeEffect : Prop :=
  (∀ (c : Cmd) (s : State) (k : Nat), settled s → admits (descCommCreate c) c s → namedComm s c = some k →
      commHeld s c = false →
      ((commOf s k).state = .free → fieldLE c.packet 28 2 ≤ fieldLE c.packet 30 2 → 16 ≤ param c 37 1 0 5 →
        param c 37 1 0 5 ≤ 22 → (param c 72 1 0 5 = 0 ∨ 18 ≤ param c 72 1 0 5) → param c 40 3 0 24 ≠ 0 →
        param c 38 2 0 9 ≤ 384 → ownsCtx s c.part (fieldLE c.packet 44 2) = true →
        (ctxDesc s (fieldLE c.packet 44 2)).enable = true → portsAssigned s c.part (byteAt c.packet 36) = true →
        (keyCheck (region s (keyIndex (fieldLE c.packet 76 4))) c.part (fieldLE c.packet 76 4) .rReduce 0 0).1 = .ok →
        enginesOf s (fieldLE c.packet 32 4) ≠ [] → reservationFails s c.part (enginesOf s (fieldLE c.packet 32 4)) = false →
        ∃ t, exec (.commCreate c) s = .next t ∧ (commOf t k).state = .active ∧ (commOf t k).part = c.part ∧
          (commOf t k).epoch.toNat = fieldLE c.packet 24 4 ∧ (commOf t k).rank = fieldLE c.packet 28 2 ∧
          members (commOf t k) = fieldLE c.packet 30 2 + 1 ∧ (commOf t k).pickLog2 = param c 37 1 0 5 ∧
          (commOf t k).ctx = fieldLE c.packet 44 2 ∧ (commOf t k).pushKey = fieldLE c.packet 76 4 ∧
          (commOf t k).engines = enginesOf s (fieldLE c.packet 32 4) ∧
          (commOf t k).reserved = enginesOf s (fieldLE c.packet 32 4) ∧ (commOf t k).ops = [] ∧
          (commOf t k).next = 0 ∧ (∀ x, x ≠ k → commOf t x = commOf s x) ∧
          t.jcq = (complete c .ok [] (commOwner s k) (turn c s)).jcq) ∧
      ((commOf s k).state ≠ .free → exec (.commCreate c) s = .next (complete c .busy [] (procUnit s c) (turn c s)))) ∧
    (∀ (c : Cmd) (s : State) (k : Nat), settled s → admits descCommReform c s → namedComm s c = some k → commHeld s c = false →
      (commOf s k).state = .lost → 0 < (BitVec.ofNat 32 (fieldLE c.packet 16 4) - (commOf s k).epoch).toInt →
      0 ≤ (BitVec.ofNat 32 (fieldLE c.packet 20 4) - (commOf s k).next).toInt →
      fieldLE c.packet 24 2 ≤ fieldLE c.packet 26 2 → ∃ t, exec (.commReform c) s = .next t ∧
        (commOf t k).state = .active ∧ (commOf t k).epoch.toNat = fieldLE c.packet 16 4 ∧
        (commOf t k).base.toNat = fieldLE c.packet 20 4 ∧ (commOf t k).next = (commOf t k).base ∧
        (commOf t k).rank = fieldLE c.packet 24 2 ∧ members (commOf t k) = fieldLE c.packet 26 2 + 1 ∧
        (commOf t k).peers = [] ∧ (commOf t k).ops = (commOf s k).ops ∧ (∀ x, x ≠ k → commOf t x = commOf s x) ∧
        (∀ e, e < 32 → (viewOf t k e).state = (viewOf s k e).state ∧ (viewOf t k e).epoch = (viewOf s k e).epoch) ∧
        t.jcq = (complete c .ok [] (commOwner s k) (turn c s)).jcq) ∧
    (∀ (c : Cmd) (s : State) (k : Nat), settled s → admits descCommQuery c s → namedComm s c = some k → commHeld s c = false →
      (commOf s k).state ≠ .free →
      exec (.commQuery c) s = .next (complete c .ok [commStCode (commOf s k).state + 2 ^ 8 * (commOf s k).ops.length,
        (commOf s k).epoch.toNat, (commOf s k).next.toNat, (commOf s k).base.toNat] (commOwner s k) (turn c s))) ∧
    (∀ (c : Cmd) (s : State) (k : Nat), admits descCommMemberLost c s → namedComm s c = some k → commHeld s c = false →
      ((commOf s k).state = .active → exec (.commMemberLost c) s = .next (ended s (complete c .ok [] (commOwner s k)
        (if param c 19 1 0 1 = 1 then commLost k (some (fieldLE c.packet 16 2)) none false .memberLost (turn c s)
          else commLost k none (some (byteAt c.packet 18)) false .memberLost (turn c s))))) ∧
      ((commOf s k).state ≠ .active →
        exec (.commMemberLost c) s = .next (ended s (complete c .busy [] (procUnit s c) (turn c s)))) ∧
      (settled s → (commOf s k).state = .active → (commOf s k).ops = [] → param c 19 1 0 1 = 1 →
        ∃ t, exec (.commMemberLost c) s = .next t ∧ (commOf t k).state = .lost ∧
          (commOf t k).lostRank.toNat = fieldLE c.packet 16 2 ∧ (commOf t k).lostValid = true ∧
          t.red.memberLostSeen = true ∧ ∀ x, x ≠ k → commOf t x = commOf s x)) ∧
    (∀ (c : Cmd) (s : State) (k : Nat), settled s → admits descCommDestroy c s → namedComm s c = some k → commHeld s c = false →
      ((commOf s k).state ≠ .free → (commOf s k).ops = [] →
        exec (.commDestroy c) s = .next (complete c .ok [] (commOwner s k) (setComm k {} (keepViews k (turn c s))))) ∧
      ((commOf s k).state ≠ .free → (commOf s k).ops ≠ [] →
        exec (.commDestroy c) s = .next (complete c .busy [] (procUnit s c) (turn c s)))) ∧
    (∀ (c : Cmd) (s : State), settled s →
      ∀ p ∈ ([(.commCreate, descCommCreate c), (.commReform, descCommReform), (.commDestroy, descCommDestroy),
        (.commQuery, descCommQuery), (.commMemberLost, descCommMemberLost)] : List ((Cmd → Instr) × OpDesc)), admits p.2 c s →
      (commHeld s c = true → exec (p.1 c) s = .next (holdCmd c s)) ∧
      (namedComm s c = none → exec (p.1 c) s = .next (complete c .bounds [] (procUnit s c) (turn c s))))

/-- Operations (R208 to R211, R213, R217, R222). -/
def Obligations.ReedOperationsAreAdmitted : Prop :=
  ∀ p ∈ ([(.allReduce, 0x0410), (.reduceScatter, 0x0411), (.allGather, 0x0412), (.reduce, 0x0413), (.broadcast, 0x0414),
      (.allToAll, 0x0415)] : List ((Cmd → Instr) × Nat)),
    ∀ (c : Cmd) (s : State) (k : Nat), admits (descRedOp p.2) c s → namedComm s c = some k →
    (commHeld s c = false → (commOf s k).ops.length < 8 →
      (firstFail (redFails s c k) = none → exec (p.1 c) s = .next (ended s (admitOp c k (turn c s))) ∧
        (settled s → (∃ x, x < pickCount (commOf s k) (redOpOf s c (commOf s k)) ∧
            planStages (redPlan (commOf s k) (redOpOf s c (commOf s k)) x) ≠ []) →
          (∀ o ∈ (commOf s k).ops, o.opseq ≠ (commOf s k).next) → ∃ t, exec (p.1 c) s = .next t ∧
          (commOf t k).ops = (commOf s k).ops ++ [redOpOf s c (commOf s k)] ∧ (redOpOf s c (commOf s k)).code = p.2 ∧
          (redOpOf s c (commOf s k)).opseq = (commOf s k).next ∧ (commOf t k).next = (commOf s k).next + 1 ∧
          t.jcq = (turn c s).jcq ∧ ∀ x, x ≠ k → commOf t x = commOf s x)) ∧
      ∀ st, firstFail (redFails s c k) = some st →
        exec (p.1 c) s = .next (ended s (complete c st [] (procUnit s c) (turn c s)))) ∧
    (settled s → commHeld s c = true ∨ 8 ≤ (commOf s k).ops.length → exec (p.1 c) s = .next (holdCmd c s))

/-- Steps of the engines (R203, R205, R216, R219, R222, R249 to R254). -/
def Obligations.ReedEnginesStep : Prop :=
  (∀ (k e : Nat) (s : State), calm s → e < 32 → inService s (engineUnit e) = true →
      ∃ t, exec (.commStateDelivery k e) s = .next t ∧
        viewOf t k e = { state := (commOf s k).state, epoch := (commOf s k).epoch, base := (commOf s k).base } ∧
        t.red.comm = s.red.comm) ∧
    (∀ (k rank : Nat) (ext : List ExtRead) (s u : State) (e : Nat) (bs : List Byte) (p : Peer),
      (commOf s k).state = .active → rank ≠ (commOf s k).rank → rank ≤ (commOf s k).membersM1 →
      peerOf (commOf s k) rank = none → (commOf s k).engines[0]? = some e →
      vaRead (peerLookup s k e) ((commOf s k).peersVa + 64 * rank) 64 ext s = (u, .ok, bs) →
      readPeer u (commOf s k) rank bs = .ok p → exec (.peerEntryRead k rank ext) s = .next (shtEnded s
        (sendWaiting k ext (modComm k (fun c => { c with peers := c.peers ++ [p] }) u)))) ∧
    (∀ (k : Nat) (os : BitVec 32) (pick stage : Nat) (src : RedSrc) (off : Nat) (corrupt : Bool) (ext : List ExtRead)
        (s : State) (o : RedOp) (e : Nat) (i : RedIn) (n : Nat) (v : State),
      liveOp s k os = some o → pickEngine o pick = some e → engineWorks s k e o = true →
      pick < pickCount (commOf s k) o → stage ∈ planStages (redPlan (commOf s k) o pick) →
      stageDone o pick stage = false → src ∈ stageSources (commOf s k) o pick stage → (src = .work → stageDone o pick 0 = true) →
      (runOf (commOf s k) o pick stage).ins.find? (fun i => i.src == src) = some i →
      v = (segsOf (commOf s k) o pick stage src off n).foldl (fun s g => (openSeg k o pick stage g s).2) s →
      (segsOf (commOf s k) o pick stage src off n).any (fun g => (slotFor v k os pick stage g).isSome) = true →
      (∀ b, src ≠ .work → src ≠ .inVa → (waitingBlocks s k os pick stage src).find? (fun b => b.off == off) = some b →
        n = b.bytes.length →
        (crc32c (if corrupt then misread b.bytes else b.bytes) = b.crc →
          exec (.contributionBlock k os pick stage src off corrupt none ext) s =
            .next (shtEnded s (addBlock k e o pick stage src off b.bytes (some b) ext v))) ∧
        (crc32c (if corrupt then misread b.bytes else b.bytes) ≠ b.crc →
          exec (.contributionBlock k os pick stage src off corrupt none ext) s = .next (shtEnded s
            (badBlock k e o (runOf (commOf s k) o pick stage) i off b.again
              { v with red := { v.red with arrived := v.red.arrived.erase b } })))) ∧
      (∀ w bs, src = .work ∨ src = .inVa → checkBlock (commOf s k) o pick src off = some n →
        vaRead (redLookup v k e o) (localVa (commOf s k) o pick src + off) n (ext ++ o.ext) v = (w, .ok, bs) →
        (corrupt = false → exec (.contributionBlock k os pick stage src off corrupt none ext) s =
          .next (shtEnded s (addBlock k e o pick stage src off bs none ext w))) ∧
        (corrupt = true → crc32c (misread bs) ≠ crc32c bs →
          exec (.contributionBlock k os pick stage src off corrupt none ext) s =
            .next (shtEnded s (badBlock k e o (runOf (commOf s k) o pick stage) i off false w)))) ∧
      ∀ f, faultSeen s e o none f = true → exec (.contributionBlock k os pick stage src off corrupt (some f) ext) s =
        .next (shtEnded s (engineFault k e o pick 0 0 f s))) ∧
    (∀ (k : Nat) (os : BitVec 32) (pick stage seg refused : Nat) (ext : List ExtRead) (s u : State) (o : RedOp) (e : Nat)
        (r : RedRun) (cells : List RAcc),
      liveOp s k os = some o → pickEngine o pick = some e → engineWorks s k e o = true →
      pick < pickCount (commOf s k) o → stage ∈ planStages (redPlan (commOf s k) o pick) →
      stageDone o pick stage = false → seg < segCount (commOf s k) o pick stage →
      seg ∉ (runOf (commOf s k) o pick stage).segDone → (slotFor s k os pick stage seg).isSome = true →
      segReady (commOf s k) o (runOf (commOf s k) o pick stage) seg = true →
      commitChecked k e o (runOf (commOf s k) o pick stage) seg ext s = (u, .ok, r) →
      cells = (segCells (commOf s k) o r seg).filterMap (fun x => tget none r.acc x) →
      exec (.pickCommit k os pick stage seg refused none ext) s = .next (shtEnded s (commitSegment k e o r seg refused ext
        (addEngineSteps e 64 (if exactly o then cells.length else 0) u))) ∧
      ∀ f, faultSeen u e o (some (checkOf cells)) f = true →
        exec (.pickCommit k os pick stage seg refused (some f) ext) s =
          .next (shtEnded s (engineFault k e o pick seg (checkOf cells) f u))) ∧
    (∀ (k e : Nat) (o : RedOp) (r : RedRun) (seg refused : Nat) (ext : List ExtRead) (s : State),
      (lastSegment (commOf s k) o r = false → commitSegment k e o r seg refused ext s = fillSlots k (dropSlots
        (fun x => x.comm == k && x.opseq == o.opseq && x.pick == r.pick && x.stage == r.stage && x.seg == seg)
        (setRedOp k (setRun { r with segDone := r.segDone ++ [seg] } o) (worked (engineUnit e) 1 s)))) ∧
      (∀ u w f, lastSegment (commOf s k) o r = true → refused = 0 →
        finishPick k e o { r with segDone := r.segDone ++ [seg] } ext s = (u, .ok, f) →
        writeParts k e o ext f.writes { u with red := { u.red with crcRetry := satAdd u.red.crcRetry 0 } } = (w, .ok) →
        ∃ v, commitSegment k e o r seg refused ext s =
          closeStage k { o with waits := o.waits ++ newWrites { u with red := { u.red with crcRetry := satAdd u.red.crcRetry 0 } } w }
            { r with segDone := r.segDone ++ [seg] } f v ∧ v.spl = w.spl ∧ v.red.comm = w.red.comm ∧
            v.red.sat = satAdd w.red.sat f.sat)) ∧
    (∀ (k e : Nat) (o : RedOp) (pick seg expected : Nat) (f : RedFault) (s : State),
      (engineFault k e o pick seg expected f s).spl = s.spl ∧
      (engineFault k e o pick seg expected f s).red.comm = s.red.comm ∧
      (∀ lane, f = .shadow lane → (engineFault k e o pick seg expected f s).red.shadowSeen = true)) ∧
    (∀ (e st : Nat) (s : State), settled s → e < 32 → inService s (engineUnit e) = true → stopped s (engineUnit e) = false →
      ∃ t, exec (.datapathStall (engineUnit e) st) s = .next t ∧ t.red.stallSeen = true ∧ t.red.comm = s.red.comm) ∧
    (∀ (e : Nat) (s : State), settled s → e < 32 → inService s (engineUnit e) = true → stopped s (engineUnit e) = false →
      (2 ^ s.red.shadowLog2.toNat ≤ tget 0 s.red.steps e →
        exec (.shadowLaneAdvance e) s = .next { s with red := { s.red with
          lane := tmod 0 s.red.lane e (· + 1)
          steps := tmod 0 s.red.steps e (· - 2 ^ s.red.shadowLog2.toNat) } }) ∧
      (tget 0 s.red.steps e < 2 ^ s.red.shadowLog2.toNat → exec (.shadowLaneAdvance e) s = .next s))

/-- Formats (R230) and rounding (R238). -/
def Obligations.FormatsHoldTheirValues : Prop :=
  (∀ f ∈ [fp32, bf16, fp16, e4m3, e5m2, e2m3, e3m2, e2m1], ∀ c, c < 2 ^ f.width →
      c % 2 ^ (f.width - 1) ≤ f.maxCode ∨ f.infCode = some (c % 2 ^ (f.width - 1)) →
      f.rne (f.decode c) = c ∧ ∀ w, w < 2 ^ 32 → (f.encode (.stoch w) (f.decode c)).1 = c) ∧
    (∀ (n d : Nat) (e qe : Int), 0 < d →
      let num : Int := (n * 2 ^ (e - qe).toNat : Nat)
      let den : Int := (d * 2 ^ (-(e - qe)).toNat : Nat)
      let q : Int := (roundAt .rne n d e qe : Nat)
      2 * (q * den - num) ≤ den ∧ 2 * (num - q * den) ≤ den ∧
        ((2 * (q * den - num) = den ∨ 2 * (num - q * den) = den) → q % 2 = 0))

/-- Exact mode (R241, R242), INT32 sums (R235) and the modular check (R250). -/
def Obligations.ExactSumsDoNotDependOnOrder : Prop :=
  (∀ (v w : Int) (n p m n' p' m' : Bool), combine 0 (.exact v n p m) (.exact w n' p' m') =
      .exact (v + w) (n || n') (p || p') (m || m')) ∧
    (∀ a b c : Sys2Proof.Machine.Num, combine 0 (combine 0 (exactOf a) (exactOf b)) (exactOf c) =
        combine 0 (exactOf a) (combine 0 (exactOf b) (exactOf c)) ∧
      combine 0 (exactOf a) (exactOf b) = combine 0 (exactOf b) (exactOf a)) ∧
    (exactOf .nan = .exact 0 true false false ∧ exactOf (.inf false) = .exact 0 false true false ∧
      exactOf (.inf true) = .exact 0 false false true) ∧
    (∀ x y z : BitVec 32, combine 0 (.int x) (.int y) = .int (x + y) ∧
      combine 0 (combine 0 (.int x) (.int y)) (.int z) = combine 0 (.int z) (combine 0 (.int y) (.int x))) ∧
    (∀ as bs : List RAcc, as.Perm bs → checkOf as = checkOf bs) ∧
    (∀ c, c < 2 ^ 32 → c / 2 ^ 23 % 256 ≠ 255 → ∃ v, exactOf (fp32.decode c) = .exact v false false false ∧
      v.natAbs < 2 ^ 277)

/-- Register instructions of a Bobbin (R268, R269, R271 to R277, R279, R281, R282). -/
def Obligations.BobbinRegisterInstructions : Prop :=
  ∀ (u : Nat) (e : BobErr) (s : State), ∀ p ∈ ([(Instr.sop, 0x01, fun i b => setS (fD i) (sopValue (bits i 0 8) (sreg b (fA i)) (sreg b (fB i))) b),
         (Instr.saddi, 0x02, fun i b => setS (fD i) (sreg b (fA i) + BitVec.ofInt 64 (BitVec.ofNat 16 (fImm i)).toInt) b),
         (Instr.sandi, 0x03, fun i b => setS (fD i) (sreg b (fA i) &&& BitVec.ofNat 64 (fImm i)) b),
         (Instr.sshi, 0x04, fun i b => setS (fD i) ((sreg b (fA i) <<< 16) ||| BitVec.ofNat 64 (fImm i)) b),
         (Instr.vop, 0x10, fun i b => vopWith i (lane (vreg b (fB i)) (tyWidth (fType i))) b),
         (Instr.vops, 0x11, fun i b => vopWith i (fun _ => (sreg b (fB i)).toNat % 2 ^ tyWidth (fType i)) b),
         (Instr.vcmp, 0x12, vcmp), (Instr.pop, 0x13, popPred), (Instr.vred, 0x14, vred (Config.freeNat s.seed)),
         (Instr.vmov, 0x15, vmov (Config.freeNat s.seed)), (Instr.vdot, 0x20, vdot), (Instr.vdotmx, 0x21, vdotmx),
         (Instr.aop, 0x22, aop), (Instr.vcvt, 0x28, vcvt (seedOf s u)), (Instr.mxq, 0x29, mxq (seedOf s u)),
         (Instr.mxd, 0x2A, mxd), (Instr.time, 0x3D, fun i b => setS (fD i) (dieTime s (8 + u / 32)) b)] :
        List ((Nat → BobErr → Instr) × Nat × (Nat → Bobbin → Bobbin))),
    settled s → bobUpset u e s = none → bobRuns s u = true → (bobbinOf s u).code ≠ [] → insOp (bobIns (bobbinOf s u)) = p.2.1 →
      (bobbinOf s u).pc + 4 < (bobbinOf s u).code.length →
      ∃ t, exec (p.1 u e) s = .next t ∧
      bobbinOf t u = { stepped (2 ^ s.bob.shadowLog2.toNat) 1 (p.2.2 (bobIns (bobbinOf s u)) (bobbinOf s u)) with
        pc := (bobbinOf s u).pc + 4 } ∧
      t.spl.mem = s.spl.mem ∧ t.jcq.done = s.jcq.done ∧ ∀ x, x ≠ u → bobbinOf t x = bobbinOf s x

/-- Lanes, predicates and hard-wired registers (R256, R270 to R272). -/
def Obligations.VectorLanesAreIndependent : Prop :=
  (∀ (i : Nat) (f : Nat → Nat) (b : Bobbin) (j : Nat), fType i ≤ 5 → j < tyLanes (fType i) →
      lane (vreg (vopWith i f b) (fD i)) (tyWidth (fType i)) j =
        if (preg b (fPred i)).getLsbD (j * (tyWidth (fType i) / 8)) then
          vopElem (fType i) (fFunc i) (lane (vreg b (fA i)) (tyWidth (fType i)) j) (f j)
            (lane (vreg b (fD i)) (tyWidth (fType i)) j) % 2 ^ tyWidth (fType i)
        else lane (vreg b (fD i)) (tyWidth (fType i)) j) ∧
    (∀ (i : Nat) (b : Bobbin) (k : Nat), fType i ≤ 5 → k < 128 → (preg (vcmp i b) (fD i)).getLsbD k =
        if fD i = 0 then true
        else (preg b (fPred i)).getLsbD (k / (tyWidth (fType i) / 8) * (tyWidth (fType i) / 8)) &&
          cmpElem (fType i) (fFunc i) (lane (vreg b (fA i)) (tyWidth (fType i)) (k / (tyWidth (fType i) / 8)))
            (lane (vreg b (fB i)) (tyWidth (fType i)) (k / (tyWidth (fType i) / 8)))) ∧
    (∀ (b : Bobbin) (i j : Nat) (v : Word64) (m : BitVec 128) (w : BitVec 1024),
      sreg (setS i v b) 0 = 0 ∧ preg (setP i m b) 0 = BitVec.allOnes 128 ∧ (i ≠ 0 → sreg (setS i v b) i = v) ∧
      (i ≠ 0 → preg (setP i m b) i = m) ∧ vreg (setV i w b) i = w ∧ areg (setLanes i w b) i = w ∧
      (j ≠ i → sreg (setS i v b) j = sreg b j ∧ preg (setP i m b) j = preg b j ∧ vreg (setV i w b) j = vreg b j ∧
        areg (setLanes i w b) j = areg b j) ∧ setS 0 v b = b ∧ setP 0 m b = b)

/-- R276. -/
def Obligations.AccumulatorMoves : Prop :=
  ∀ (i x : Nat) (b : Bobbin), fB i / 4 = 0 →
    (fFunc i = 0 → vreg (aop i b) (fD i) = areg b (fB i) ∧ areg (aop i b) x = areg b x ∧
      (x ≠ fD i → vreg (aop i b) x = vreg b x)) ∧
    (fFunc i = 1 → areg (aop i b) (fB i) = vreg b (fA i) ∧ vreg (aop i b) x = vreg b x ∧
      (x ≠ fB i → areg (aop i b) x = areg b x)) ∧
    (fFunc i = 2 → areg (aop i b) (fB i) = 0 ∧ vreg (aop i b) x = vreg b x ∧
      (x ≠ fB i → areg (aop i b) x = areg b x)) ∧
    sreg (aop i b) x = sreg b x ∧ preg (aop i b) x = preg b x

/-- Scratch (R257, R262, R268, R273, R281, R285). -/
def Obligations.BobbinScratchAccesses : Prop :=
  (∀ (u : Nat) (s : State), ∀ p ∈ ([(Instr.sld, 0x05, 8, 8, 8, fun i bs b => setS (fD i) (BitVec.ofNat 64 (leNat bs)) b),
           (Instr.slw, 0x06, 4, 4, 4, fun i bs b => setS (fD i) (BitVec.ofNat 64 (leNat bs)) b),
           (Instr.vld, 0x16, 128, 128, 128, fun i bs b => setV (fD i) (BitVec.ofNat 1024 (leNat bs)) b),
           (Instr.vldu, 0x18, 1, 128, 1, fun i bs b => setV (fD i) (BitVec.ofNat 1024 (leNat bs)) b)] :
        List ((Nat → BobErr → Instr) × Nat × Nat × Nat × Nat × (Nat → List Byte → Bobbin → Bobbin))),
      let e := BobErr.none
      let b := bobbinOf s u
      let i := bobIns b
      let a := scratchAddr i p.2.2.2.2.1 b
      settled s → bobUpset u e s = none → bobRuns s u = true → (bobbinOf s u).code ≠ [] → insOp (bobIns (bobbinOf s u)) = p.2.1 →
      (scratchOk a p.2.2.1 p.2.2.2.1 = true → b.pc + 4 < b.code.length → ∃ t, exec (p.1 u e) s = .next t ∧
        bobbinOf t u = { stepped (2 ^ s.bob.shadowLog2.toNat) (if p.2.1 = 0x18 then 2 else 1)
          (p.2.2.2.2.2 i (memRead b.scratch a.toNat p.2.2.2.1) b) with pc := b.pc + 4 } ∧
        ∀ x, x ≠ u → bobbinOf t x = bobbinOf s x) ∧
      (scratchOk a p.2.2.1 p.2.2.2.1 = false → exec (p.1 u e) s =
        .next (ended s (bobFault u .bounds none (worked (bobbin u) 1 (bump (bobbin u) 2 1 s))))) ∧
      (scratchOk a p.2.2.1 p.2.2.2.1 = true → b.pc + 4 < b.code.length → ∃ t, exec (p.1 u .scratchOne) s = .next t ∧
        bobbinOf t u = { stepped (2 ^ s.bob.shadowLog2.toNat) (if p.2.1 = 0x18 then 2 else 1)
          (p.2.2.2.2.2 i (memRead b.scratch a.toNat p.2.2.2.1) b) with pc := b.pc + 4 } ∧
        tget 0 t.bob.scratchCe u = tget 0 s.bob.scratchCe u + 1) ∧
      (scratchOk a p.2.2.1 p.2.2.2.1 = true → exec (p.1 u .scratch) s = .next (ended s
        (bobFault u .checkFail (some (0x0408, a.toNat)) { worked (bobbin u) 1 (bump (bobbin u) 2 1 s) with
          bob := { (worked (bobbin u) 1 (bump (bobbin u) 2 1 s)).bob with scratchUeSeen := true } })))) ∧
    (∀ (u : Nat) (e : BobErr) (s : State), ∀ p ∈ ([(Instr.sst, 0x07, 8, fun i b => leBytes 8 (sreg b (fD i)).toNat),
           (Instr.vst, 0x17, 128, fun i b => leBytes 128 (vreg b (fD i)).toNat)] :
        List ((Nat → BobErr → Instr) × Nat × Nat × (Nat → Bobbin → List Byte))),
      let b := bobbinOf s u
      let i := bobIns b
      let a := scratchAddr i p.2.2.1 b
      settled s → bobUpset u e s = none → bobRuns s u = true → (bobbinOf s u).code ≠ [] → insOp (bobIns (bobbinOf s u)) = p.2.1 →
      (scratchOk a p.2.2.1 p.2.2.1 = true → b.pc + 4 < b.code.length → ∃ t, exec (p.1 u e) s = .next t ∧
        bobbinOf t u = { stepped (2 ^ s.bob.shadowLog2.toNat) 1 (scratchWrite a.toNat (p.2.2.2 i b) b) with pc := b.pc + 4 } ∧
        memRead (bobbinOf t u).scratch a.toNat p.2.2.1 = p.2.2.2 i b ∧
        (∀ x, (x < a.toNat ∨ a.toNat + p.2.2.1 ≤ x) → memRead (bobbinOf t u).scratch x 1 = memRead b.scratch x 1) ∧
        (∀ y ∈ (bobbinOf t u).tags, y ∈ b.tags ∧ (y.1 < a.toNat / 4096 ∨ (a.toNat + p.2.2.1 + 4095) / 4096 ≤ y.1)) ∧
        ∀ x, x ≠ u → bobbinOf t x = bobbinOf s x) ∧
      (scratchOk a p.2.2.1 p.2.2.1 = false → exec (p.1 u e) s =
        .next (ended s (bobFault u .bounds none (worked (bobbin u) 1 (bump (bobbin u) 2 1 s)))))) ∧
    (∀ (u : Nat) (e : BobErr) (s : State),
      settled s → bobUpset u e s = none → bobRuns s u = true → (bobbinOf s u).code ≠ [] → insOp (bobIns (bobbinOf s u)) = 0x34 →
      (bobbinOf s u).pc + 4 < (bobbinOf s u).code.length →
      scratchOk (sreg (bobbinOf s u) (fA (bobIns (bobbinOf s u)))) 4096 4096 = true →
      ∃ t, exec (.scrc u e) s = .next t ∧ bobbinOf t u = { stepped (2 ^ s.bob.shadowLog2.toNat) 1
          (setS (fD (bobIns (bobbinOf s u)))
            (match tget none (bobbinOf s u).tags ((sreg (bobbinOf s u) (fA (bobIns (bobbinOf s u)))).toNat / 4096) with
              | some c => BitVec.ofNat 64 (c.toNat + 2 ^ 32) | none => 0) (bobbinOf s u)) with
        pc := (bobbinOf s u).pc + 4 } ∧ ∀ x, x ≠ u → bobbinOf t x = bobbinOf s x)

/-- R269 and R282. -/
def Obligations.BobbinControlTransfers : Prop :=
  (∀ (u : Nat) (e : BobErr) (s : State),
      let b := bobbinOf s u
      let i := bobIns b
      let target := (b.pc : Int) + 4 * (BitVec.ofNat 13 (bits i 0 13)).toInt
      settled s → bobUpset u e s = none → bobRuns s u = true → (bobbinOf s u).code ≠ [] → insOp (bobIns (bobbinOf s u)) = 0x08 →
      0 ≤ target → target < b.code.length → b.pc + 4 < b.code.length →
      ∃ t, exec (.br u e) s = .next t ∧ (∀ x, x ≠ u → bobbinOf t x = bobbinOf s x) ∧
        (brTaken (bits i 13 3) (sreg b (fD i)) (sreg b (fA i)) = true →
          bobbinOf t u = { stepped (2 ^ s.bob.shadowLog2.toNat) 3 b with pc := target.toNat }) ∧
        (brTaken (bits i 13 3) (sreg b (fD i)) (sreg b (fA i)) = false →
          bobbinOf t u = { stepped (2 ^ s.bob.shadowLog2.toNat) 1 b with pc := b.pc + 4 })) ∧
    (∀ (u : Nat) (e : BobErr) (s : State),
      let b := bobbinOf s u
      let i := bobIns b
      let target := (b.pc : Int) + 4 * (BitVec.ofNat 21 (bits i 0 21)).toInt
      settled s → bobUpset u e s = none → bobRuns s u = true → (bobbinOf s u).code ≠ [] → insOp (bobIns (bobbinOf s u)) = 0x09 →
      0 ≤ target → target < b.code.length →
      ∃ t, exec (.jal u e) s = .next t ∧ (∀ x, x ≠ u → bobbinOf t x = bobbinOf s x) ∧
        bobbinOf t u = { stepped (2 ^ s.bob.shadowLog2.toNat) 3 (setS (fD i) (BitVec.ofNat 64 (b.pc + 4)) b) with
          pc := target.toNat }) ∧
    (∀ (u : Nat) (e : BobErr) (s : State),
      let b := bobbinOf s u
      let i := bobIns b
      let b' := setS (fD i) (BitVec.ofNat 64 (b.pc + 4)) b
      let target := (sreg b' (fA i)).toNat
      settled s → bobUpset u e s = none → bobRuns s u = true → (bobbinOf s u).code ≠ [] → insOp (bobIns (bobbinOf s u)) = 0x0A →
      (target % 4 = 0 → target < b.code.length → ∃ t, exec (.jr u e) s = .next t ∧
        (∀ x, x ≠ u → bobbinOf t x = bobbinOf s x) ∧
        bobbinOf t u = { stepped (2 ^ s.bob.shadowLog2.toNat) 3 b' with pc := target }) ∧
      ((target % 4 ≠ 0 ∨ b.code.length ≤ target) → exec (.jr u e) s =
        .next (ended s (bobFault u .bounds none (setBobbin u b' (worked (bobbin u) 1 (bump (bobbin u) 2 1 s)))))))

/-- Streams and waiting (R261, R262, R280, R281). -/
def Obligations.BobbinStreamsAndWaits : Prop :=
  (∀ (u : Nat) (s : State),
      ∀ p ∈ ([(.srd, 0x30), (.swr, 0x31), (.sgth, 0x32)] : List ((Nat → BobErr → Instr) × Nat)),
      let e := BobErr.none
      let b := bobbinOf s u
      let i := bobIns b
      let unit := 64 * 2 ^ bits i 0 3
      let sc := (sreg b (fB i)).toNat
      let us := if p.2 = 0x32 then gatherUnits b (sreg b (fD i)).toNat (sreg b (fA i)).toNat (bits sc 0 16) unit
                else strideUnits (sreg b (fD i)).toNat (sreg b (fA i)).toNat (bits sc 0 16) (sext 32 (bits sc 32 32)) unit
      settled s → bobUpset u e s = none → bobRuns s u = true → (bobbinOf s u).code ≠ [] → insOp (bobIns (bobbinOf s u)) = p.2 →
      (b.streams.length < 16 → 1 ≤ bits sc 0 16 → bits sc 0 16 ≤ 4096 → bits sc 16 16 = 0 →
        (p.2 = 0x32 → scratchOk (sreg b (fD i)) 4 (4 * bits sc 0 16) = true ∧ bits sc 32 32 = 0) →
        (sreg b (fA i)).toNat + bits sc 0 16 * unit ≤ 2 ^ 18 →
        unitsOk (match bobLaunch s u with | some l => l.wins | none => []) (p.2 == 0x31) unit us = true →
        b.pc + 4 < b.code.length → ∃ t, exec (p.1 u e) s = .next t ∧
          bobbinOf t u = { stepped (2 ^ s.bob.shadowLog2.toNat) 1 b with
            pc := b.pc + 4, nextStream := b.nextStream + 1
            streams := b.streams ++ [{ id := b.nextStream, tag := fPred i, write := p.2 == 0x31, np := bit i 3,
                                       log2 := bits i 0 3, units := us.map fun y => { a := y.1.toNat, sa := y.2 } }] } ∧
          ∀ x, x ≠ u → bobbinOf t x = bobbinOf s x) ∧
      (16 ≤ b.streams.length → exec (p.1 u e) s = .next s)) ∧
    (∀ (u : Nat) (e : BobErr) (s : State),
      let b := bobbinOf s u
      let i := bobIns b
      settled s → bobUpset u e s = none → bobRuns s u = true → (bobbinOf s u).code ≠ [] → insOp (bobIns (bobbinOf s u)) = 0x33 →
      ((∀ x ∈ b.streams, x.tag ≠ fPred i) → b.pc + 4 < b.code.length → ∃ t, exec (.swait u e) s = .next t ∧
        bobbinOf t u = { stepped (2 ^ s.bob.shadowLog2.toNat) 1 (setS (fD i) (BitVec.ofNat 64
          (tget 0 b.tagUnits (fPred i) % 65536 + 65536 * (tget 0 b.tagZero (fPred i) % 65536))) b) with
            pc := b.pc + 4, tagUnits := tset 0 b.tagUnits (fPred i) 0, tagZero := tset 0 b.tagZero (fPred i) 0 }) ∧
      ((∃ x ∈ b.streams, x.tag = fPred i) → ∃ t, exec (.swait u e) s = .next t ∧
        bobbinOf t u = { stepped (2 ^ s.bob.shadowLog2.toNat) 1 b with wait := some (.tag (fPred i) (fD i)) })) ∧
    (∀ (u : Nat) (e : BobErr) (s : State),
      let b := bobbinOf s u
      settled s → bobUpset u e s = none → bobRuns s u = true → (bobbinOf s u).code ≠ [] → insOp (bobIns (bobbinOf s u)) = 0x3A →
      (b.streams = [] → b.pc + 4 < b.code.length → ∃ t, exec (.fence u e) s = .next t ∧
        bobbinOf t u = { stepped (2 ^ s.bob.shadowLog2.toNat) 1 b with pc := b.pc + 4 }) ∧
      (b.streams ≠ [] → ∃ t, exec (.fence u e) s = .next t ∧
        bobbinOf t u = { stepped (2 ^ s.bob.shadowLog2.toNat) 1 b with wait := some .fence })) ∧
    (∀ (u : Nat) (e : BobErr) (s : State),
      let b := bobbinOf s u
      settled s → bobUpset u e s = none → bobRuns s u = true → (bobbinOf s u).code ≠ [] → insOp (bobIns (bobbinOf s u)) = 0x38 →
      residentOf s u = none → ∃ t, exec (.bar u e) s = .next t ∧ bobbinOf t u =
        { stepped (2 ^ s.bob.shadowLog2.toNat) 1 b with wait := some (.barrier (bit (bobIns b) 0)) }) ∧
    (∀ (u : Nat) (g : Bool) (s : State), (bobbinOf s u).wait = some (.barrier g) →
      (barrierMet s u g = false → settled s → exec (.barrierRelease u) s = .next s) ∧
      (barrierMet s u g = true → settled s → (∀ v ∈ barrierScope s u g, (bobbinOf s v).pc + 4 < (bobbinOf s v).code.length) → ∃ t,
        exec (.barrierRelease u) s = .next t ∧ ∀ v, bobbinOf t v =
          if v ∈ barrierScope s u g ∧ (bobbinOf s v).wait = some (.barrier g)
          then { bobbinOf s v with wait := none, pc := (bobbinOf s v).pc + 4 } else bobbinOf s v)) ∧
    (∀ (u : Nat) (e : BobErr) (s : State),
      let b := bobbinOf s u
      settled s → bobUpset u e s = none → bobRuns s u = true → (bobbinOf s u).code ≠ [] → insOp (bobIns (bobbinOf s u)) = 0x3B →
      residentOf s u = none → b.streams = [] → b.pc + 4 < b.code.length → ∃ t, exec (.ckpt u e) s = .next t ∧
        bobbinOf t u = { stepped (2 ^ s.bob.shadowLog2.toNat) 1 b with ckpt := sreg b (fA (bobIns b)), pc := b.pc + 4 }) ∧
    (∀ (u v : Nat) (e : BobErr) (s : State) (l : Launch),
      let b := bobbinOf s u
      settled s → bobUpset u e s = none → bobRuns s u = true → (bobbinOf s u).code ≠ [] → insOp (bobIns (bobbinOf s u)) = 0x3C →
      residentOf s u = none → bobLaunch s u = some l → l.state = .running → v ∈ l.members → v ≠ u →
      (bobbinOf s v).state ≠ .halted → b.streams = [] → ∃ t, exec (.halt u e) s = .next t ∧
        bobbinOf t u = { stepped (2 ^ s.bob.shadowLog2.toNat) 1 b with state := .halted, exit := fFunc (bobIns b) } ∧
        ∀ x, x ≠ u → bobbinOf t x = bobbinOf s x) ∧
    (∀ (u : Nat) (e : BobErr) (s v w : State) (l : Launch) (bs : List Byte),
      let b := bobbinOf s u
      let i := bobIns b
      let a := (sreg b (fA i)).toNat
      settled s → bobUpset u e s = none → bobRuns s u = true → (bobbinOf s u).code ≠ [] → insOp (bobIns (bobbinOf s u)) = 0x39 →
      bobLaunch s u = some l → a % 8 = 0 → winAllows l.wins true a 8 = true → b.pc + 4 < b.code.length →
      stackRead u l.ctx a 8 (worked (bobbin u) 1 (bump (bobbin u) 2 1 s)) = (v, .ok, bs) →
      stackWrite u l.ctx a (leBytes 8 (if fFunc i = 0 then leNat bs + (sreg b (fB i)).toNat
        else if fFunc i = 1 then (sreg b (fB i)).toNat
        else if leNat bs = (sreg b (fD i)).toNat then (sreg b (fB i)).toNat else leNat bs)) v = (w, .ok) → w.saf.todo = [] →
      ∃ t, exec (.satom u e) s = .next t ∧ sreg (bobbinOf t u) (fD i) = (if fD i = 0 then 0 else BitVec.ofNat 64 (leNat bs)) ∧
        (bobbinOf t u).pc = b.pc + 4 ∧ t.spl.mem = w.spl.mem) ∧
    (∀ (u id k : Nat) (s : State) (x : Stream) (y : StreamUnit), settled s → (bobbinOf s u).wait = none →
      (bobbinOf s u).state = .running → (bobbinOf s u).streams.find? (fun x => x.id == id) = some x → x.units[k]? = some y →
      y.held = [] → y.sent = [] →
      (∀ v bs, x.write = false → readLines u (bobCtx s u) x.np y (List.range (streamLines x)) s = (v, .ok, bs, 0) →
        v.saf.todo = [] → bs.length = 64 * 2 ^ x.log2 →
        ∃ t, exec (.streamUnitComplete u id k { crcBad := 0, scratch := false }) s = .next t ∧
          memRead (bobbinOf t u).scratch y.sa (64 * 2 ^ x.log2) = bs ∧ t.spl.mem = s.spl.mem ∧
          tget 0 (bobbinOf t u).tagUnits x.tag = tget 0 (bobbinOf s u).tagUnits x.tag + 1 ∧
          (bobbinOf t u).pc = (bobbinOf s u).pc ∧ (bobbinOf t u).state = .running ∧
          (x.units.length = 1 → ∀ z ∈ (bobbinOf t u).streams, z.id ≠ id)) ∧
      (∀ v, x.write = true → tagBad (bobbinOf s u) y (unitBytes (bobbinOf s u) x y) = false →
        stackWrite u (bobCtx s u) y.a (unitBytes (bobbinOf s u) x y) s = (v, .ok) → v.saf.todo = [] →
        ∃ t, exec (.streamUnitComplete u id k { crcBad := 0, scratch := false }) s = .next t ∧ t.spl = v.spl ∧
          (bobbinOf t u).scratch = (bobbinOf s u).scratch ∧
          tget 0 (bobbinOf t u).tagUnits x.tag = tget 0 (bobbinOf s u).tagUnits x.tag + 1) ∧
      ∀ c j, c.line = some j → exec (.streamUnitComplete u id k c) s = .next (ended s (moveLine u x k y j s)))

/-- Images and launches (R286 to R297, R300, R309). -/
def Obligations.LaunchesRunInOrder : Prop :=
  (∀ (c : Cmd) (s v w : State) (hdr body : List Byte) (i : Nat), admits descImageLoad c s → bit (cmdFlags c) 2 = false →
      68 ≤ cmdLength c → bufRead (launchOwner s c.part) c.part (fieldLE c.packet 16 2) (fieldLE c.packet 24 8) 64
        c.ext (begun c s) = (v, .ok, hdr) → cmdLength c = 64 + fieldLE hdr 8 4 + fieldLE hdr 16 4 →
      bufRead (launchOwner s c.part) c.part (fieldLE c.packet 16 2) (fieldLE c.packet 24 8 + 64) (cmdLength c - 64)
        (bodyExt (fieldLE c.packet 24 8) c.ext) v = (w, .ok, body) → imageBytesBad (hdr ++ body) = none →
      (param c 16 8 16 1 = 1 → c.part = 0) → freeHandle w = some i →
      imagesUsed w c.part + ceilDiv (cmdLength c) 65536 ≤ amountOf w 8 c.part →
      ∃ m : Image, exec (.bobImageLoad c) s = .next (ended s (complete c .ok [i + 1024 * (imageAt w i).gen.toNat]
          (launchOwner s c.part) (setImage i m w))) ∧ m.loaded = true ∧ m.gen = (imageAt w i).gen ∧ m.part = c.part ∧
        m.shared = (param c 16 8 16 1 == 1) ∧ m.restart = bit (fieldLE hdr 6 2) 0 ∧
        m.entry = fieldLE (hdr ++ body) 12 4 ∧ m.constOff = fieldLE (hdr ++ body) 20 4 ∧
        m.code = ((hdr ++ body).drop 64).take (fieldLE (hdr ++ body) 8 4) ∧
        m.consts = (hdr ++ body).drop (64 + fieldLE (hdr ++ body) 8 4) ∧ m.bytes = hdr ++ body) ∧
    (∀ (c : Cmd) (s : State) (m : Image), settled s → admits descImageUnload c s →
      visibleImage s c.part (fieldLE c.packet 16 2) = some m → m.resident = false → m.part = c.part →
      (∀ l ∈ s.bob.launch, l.image % 1024 ≠ fieldLE c.packet 16 2 % 1024) → exec (.bobImageUnload c) s = .next
        (complete c .ok [] (launchOwner s c.part)
          (setImage (fieldLE c.packet 16 2 % 1024) { gen := m.gen + 1 } (begun c s)))) ∧
    (∀ (c : Cmd) (s : State), admits descLaunch c s →
      (∀ st, firstFail (launchFails s c) = some st →
        exec (.bobLaunch c) s = .next (ended s (complete c st [] (procUnit s c) (begun c s)))) ∧
      (firstFail (launchFails s c) = none →
        (launchesFull s c.part = true ∨ launchHeld c s = true ∨ behindSeq s c = true →
          exec (.bobLaunch c) s = .next (ended s (freezeCheck (holdCmd c (begun c s))))) ∧
        (launchesFull s c.part = false → launchHeld c s = false → behindSeq s c = false →
          ((imageAt s (fieldLE c.packet 16 2 % 1024)).resident = false →
            exec (.bobLaunch c) s = .next (ended s (freezeCheck (queueLaunch (launchOf c s) (turn c s))))) ∧
          ((imageAt s (fieldLE c.packet 16 2 % 1024)).resident = true →
            (∀ st, firstFail (residentFails (launchOf c s) (fieldLE c.packet 16 2)) = some st → exec (.bobLaunch c) s =
              .next (ended s (freezeCheck (complete c st [] (launchOwner s c.part) (turn c s))))) ∧
            (firstFail (residentFails (launchOf c s) (fieldLE c.packet 16 2)) = none →
              (fieldLE c.packet 16 2 ≠ 1 →
                exec (.bobLaunch c) s = .next (ended s (freezeCheck (queueLaunch (launchOf c s) (turn c s))))) ∧
              (fieldLE c.packet 16 2 = 1 →
                exec (.bobLaunch c) s = .next (ended s (freezeCheck (launchAttn c (launchOf c s) (turn c s)))))))))) ∧
    (∀ (c : Cmd) (s : State), settled s → admits descLaunch c s → firstFail (launchFails s c) = none →
      s.parts.freezes = [] → launchesFull s c.part = false → launchHeld c s = false → behindSeq s c = false →
      (imageAt s (fieldLE c.packet 16 2 % 1024)).resident = false → ∃ t l, exec (.bobLaunch c) s = .next t ∧
        t.bob.launch = s.bob.launch ++ [l] ∧ l.id = s.bob.nextLaunch ∧ t.bob.nextLaunch = s.bob.nextLaunch + 1 ∧
        l.part = c.part ∧ l.image = fieldLE c.packet 16 2 ∧ l.launchId.toNat = fieldLE c.packet 18 2 ∧
        l.mask.toNat = fieldLE c.packet 20 2 ∧ l.per = fieldLE c.packet 22 1 % 32 + 1 ∧ l.ctx = fieldLE c.packet 24 2 ∧
        l.limitMs = fieldLE c.packet 26 2 ∧ l.wins = (List.range 4).map (winArg c) ∧
        l.seed.toNat = fieldLE c.packet 48 8 ∧ l.args = (c.packet.drop 64).take (cmdLength c) ∧
        l.state = (if partStopped s c.part then .withdrawn else .queued) ∧
        t.jcq.done = s.jcq.done ∧ t.bob.bobbin = s.bob.bobbin) ∧
    (∀ (c : Cmd) (l : Launch) (s v : State) (ws : List AttnWork),
      workList l s = (v, .ok ws) → argAt l 0 8 % 16 = 0 → argAt l 16 8 % 64 = 0 → argAt l 24 8 % 64 = 0 → argAt l 32 8 % 64 = 0 →
      ((attnRanges { l with work := ws }).any (rangeBad { l with work := ws }) = false →
        launchAttn c l s = queueLaunch { l with work := ws } v) ∧
      ((attnRanges { l with work := ws }).any (rangeBad { l with work := ws }) = true →
        launchAttn c l s = complete c .bounds [] (launchOwner v c.part) v)) ∧
    (∀ (c : Cmd) (s : State), admits descStop c s →
      (s.bob.launch.find? (fun l => l.part == c.part && l.launchId.toNat == fieldLE c.packet 16 2) = none →
        exec (.bobStop c) s = .next (ended s (complete c .ok [0] (launchOwner s c.part) (begun c s)))) ∧
      ∀ l, s.bob.launch.find? (fun l => l.part == c.part && l.launchId.toNat == fieldLE c.packet 16 2) = some l →
        exec (.bobStop c) s = .next (ended s (stopLaunch l.id .aborted none 0 { begun c s with
          bob := { s.bob with stops := s.bob.stops ++ [(cmdRef c, l.cmd)] } })) ∧
        (settled s → findLaunch s l.id = some l → l.state = .queued → l.members = [] → ∃ t, exec (.bobStop c) s = .next t ∧
          (∀ x ∈ t.bob.launch, x.id ≠ l.id) ∧ (cmdRef c, l.cmd) ∈ t.bob.stops ∧ t.bob.bobbin = s.bob.bobbin)) ∧
    (∀ (p : Nat) (s : State),
      (∀ l old new, ((s.bob.launch.filter fun l => l.part == p).filter fun l => l.state == .replaying).findSome?
          (fun l => (replacement s l).map fun x => (l, x)) = some (l, old, new) →
        exec (.launchGrant p) s = .next (ended s (replaceMember l old new s))) ∧
      ∀ l, ((s.bob.launch.filter fun l => l.part == p).filter fun l => l.state == .replaying).findSome?
          (fun l => (replacement s l).map fun x => (l, x)) = none →
        (s.bob.launch.filter fun l => l.part == p).find? (fun x => x.state == .queued) = some l →
        findLaunch s l.id = some l →
        (∀ ms, pickMembers s l = some ms → settled s → ∃ t, exec (.launchGrant p) s = .next t ∧
          (∀ u ∈ ms, (bobbinOf t u).state = .loading ∧ (bobbinOf t u).launch = some l.id ∧ (bobbinOf t u).ckpt = 0) ∧
          (∀ u, u ∉ ms → bobbinOf t u = bobbinOf s u) ∧
          findLaunch t l.id = some { l with state := .running, members := ms, started := some (unitTime s (launchOwner s p)) }) ∧
        (pickMembers s l = none → settled s → exec (.launchGrant p) s = .next s)) ∧
    (∀ (u : Nat) (s : State) (l : Launch), bobLaunch s u = some l → (bobbinOf s u).state = .loading →
      (l.state = .ending → exec (.launchLoadComplete u) s = .next (ended s
        (checkLaunch l.id (setBobbin u { bobbinOf s u with state := .stopping } s)))) ∧
      (l.state = .running → settled s → ∃ t, exec (.launchLoadComplete u) s = .next t ∧
        (bobbinOf t u).state = .running ∧ (bobbinOf t u).pc = (launchImage s l).entry ∧
        (bobbinOf t u).code =
          (if (bobbinOf s u).resident.toNat = l.image then (bobbinOf s u).code else (launchImage s l).code) ∧
        (bobbinOf t u).scratch = memWrite [] (launchImage s l).constOff (launchImage s l).consts ∧
        (bobbinOf t u).plan = l.work ∧
        (∀ i, vreg (bobbinOf t u) i = 0 ∧ areg (bobbinOf t u) i = 0 ∧ (i ≠ 0 → preg (bobbinOf t u) i = 0)) ∧
        sreg (bobbinOf t u) 1 = (if l.replayed then (bobbinOf s u).ckpt else 0) ∧
        sreg (bobbinOf t u) 2 = (if l.replayed then 1 else 0) ∧ sreg (bobbinOf t u) 3 = BitVec.ofNat 64 (u / 32) ∧
        sreg (bobbinOf t u) 4 = BitVec.ofNat 64 ((bobbinOf s u).member % l.per) ∧
        sreg (bobbinOf t u) 5 = BitVec.ofNat 64 (bobbinOf s u).member ∧
        sreg (bobbinOf t u) 6 = BitVec.ofNat 64 l.members.length ∧ sreg (bobbinOf t u) 7 = BitVec.ofNat 64 l.per ∧
        (∀ i < 16, sreg (bobbinOf t u) (16 + i) = BitVec.ofNat 64 (fieldLE (slice l.args 0 128) (8 * i) 8)) ∧
        (∀ i, 8 ≤ i → i < 16 → sreg (bobbinOf t u) i = 0) ∧ ∀ x, x ≠ u → bobbinOf t x = bobbinOf s x)) ∧
    (∀ (u : Nat) (s : State), (bobbinOf s u).state = .zeroing →
      ((bobbinOf s u).leaving = false → settled s → ∃ t, exec (.bobbinZeroingDone u) s = .next t ∧
        bobbinOf t u = { bobbinOf s u with state := .idle, scratch := [], tags := [], plan := [] } ∧
        ∀ x, x ≠ u → bobbinOf t x = bobbinOf s x) ∧
      ((bobbinOf s u).leaving = true → exec (.bobbinZeroingDone u) s = .next (ended s
        (clearCheck (bobbinOf s u).part (setBobbin u { bobbinOf s u with
          state := .unassigned, scratch := [], tags := [], plan := [], part := 0, leaving := false } s))))) ∧
    ∀ (p lid : Nat) (s : State) (l : Launch) (x : Word64),
      s.bob.launch.find? (fun l => l.part == p && l.launchId.toNat == lid) = some l →
      l.started = some x → l.limitMs ≠ 0 → l.state ≠ .ending →
      l.limitMs * 1000000 ≤ (unitTime s (launchOwner s p) - x).toNat →
      exec (.limitMsExpiry p lid) s = .next (ended s (stopLaunch l.id .timeout none 0
        (record { mkRecord s (bobbin ((l.members.head?).getD 0)) 0x0409 with
          part := some p, object := lid, otype := 4, info0 := (bobbinOf s ((l.members.head?).getD 0)).pc } s))) ∧
      (findLaunch s l.id = some l → l.state = .running → (∀ u ∈ l.members, (bobbinOf s u).streams = []) →
        (∀ u ∈ l.members, (bobbinOf s u).state ≠ .fenced ∧ (bobbinOf s u).state ≠ .loading) → s.saf.todo = [] →
        ∃ t, exec (.limitMsExpiry p lid) s = .next t ∧ (∀ y ∈ t.bob.launch, y.id ≠ l.id) ∧
          ∀ u ∈ l.members, (bobbinOf t u).state = .zeroing ∧ (bobbinOf t u).launch = none)

/-- Sequences (R303, R304). -/
def Obligations.SequenceCommandsTakeEffect : Prop :=
  (∀ (c : Cmd) (s : State) (q : Nat) (g : BitVec 128), settled s → admits descSeqCreate c s → seqHeld s c = false →
      g = BitVec.ofNat 128 (fieldLE c.packet 16 16) → seqField g 112 2 ≠ 3 → seqFmt g ≠ 3 → seqArg s c = some q →
      ((seqOf s q).valid = false → seqSpans g ≠ 0 → seqHq g ≤ 128 → kvBase g % 65536 = 0 →
        kvBase g + seqRegion g * 131072 ≤ 2 ^ 41 → (∀ x ∈ regionGranules g, ownedBy s c.part x = true) →
        exec (.seqCreate c) s = .next (complete c .ok [] (launchOwner s c.part)
          (setSeq q { entry := g, valid := true } (turn c s)))) ∧
      ((seqOf s q).valid = true → exec (.seqCreate c) s = .next (complete c .busy [] (procUnit s c) (turn c s)))) ∧
    (∀ (c : Cmd) (s : State) (q : Nat), settled s → admits descSeqDestroy c s → seqHeld s c = false →
      seqArg s c = some q → (seqOf s q).valid = true →
      ((seqOf s q).refs = 0 →
        exec (.seqDestroy c) s = .next (complete c .ok [] (launchOwner s c.part) (setSeq q {} (turn c s)))) ∧
      ((seqOf s q).refs ≠ 0 → exec (.seqDestroy c) s = .next (complete c .busy [] (procUnit s c) (turn c s)))) ∧
    (∀ (c : Cmd) (s : State) (q : Nat), settled s → admits descSeqQuery c s → seqHeld s c = false →
      seqArg s c = some q → (seqOf s q).valid = true → exec (.seqQuery c) s = .next (complete c .ok
        [seqCapacity (seqOf s q).entry, kvTokens (seqOf s q).entry, seqRegion (seqOf s q).entry, (seqOf s q).refs.toNat]
        (launchOwner s c.part) (turn c s))) ∧
    (∀ p ∈ ([(.seqCreate, descSeqCreate), (.seqDestroy, descSeqDestroy), (.seqQuery, descSeqQuery)] :
        List ((Cmd → Instr) × OpDesc)), ∀ (c : Cmd) (s : State), settled s → admits p.2 c s → seqHeld s c = true →
      exec (p.1 c) s = .next (holdCmd c s)) ∧
    ∀ (q x : Nat) (e : SeqEntry) (s : State), seqOf (setSeq q e s) q = e ∧
      (x ≠ q → seqOf (setSeq q e s) x = seqOf s x)

/-- CXL ports (R10, R327 to R329, R332, R335, R337, R342, R441, R446, R513, R515). -/
def Obligations.HostPortEvents : Prop :=
  (∀ (x line : Nat) (inv : Bool) (s : State), settled s → portUsable s x = true → (hport s x).cacheEn = true →
      exec (.h2dSnoop x line inv) s = .next (emit (.snoopRsp x line ((hport s x).modified.contains line))
        (setHport x { hport s x with
          snoops := satInc (hport s x).snoops
          modified := if inv then (hport s x).modified.filter (· != line) else (hport s x).modified } s))) ∧
    (∀ (id : Nat) (st : Status) (bs : List Byte) (s : State) (r : CxlReq),
      s.lnk.cxlReqs.find? (fun r => r.id == id && !r.peer) = some r →
      exec (.cxlCacheCompletion id st bs) s = .next (ended s (endCxlReq r st bs s))) ∧
    (∀ (id : Nat) (e : PeerEnd) (bs : List Byte) (s : State) (r : CxlReq),
      s.lnk.cxlReqs.find? (fun r => r.id == id && r.peer) = some r →
      exec (.peerCompletion id e bs) s = .next (ended s (endCxlReq r
        (if e = .success then .ok else if e = .timeout then .timeout else .denied) (if e = .success then bs else []) s))) ∧
    (∀ (r : CxlReq) (st : Status) (bs : List Byte) (s : State),
      (r.readBack = false → endCxlReq r st bs s = { s with lnk := { s.lnk with
        cxlReqs := s.lnk.cxlReqs.filter (fun x => x.id != r.id)
        answers := s.lnk.answers ++ (if r.write then [] else [{ pa := r.pa, status := st, bytes := bs }])
        p2pErrSeen := s.lnk.p2pErrSeen || (r.peer && st != .ok) } }) ∧
      (r.readBack = true → (∀ o ∈ s.sht.ops, (8 + r.port, r.id) ∉ o.waits) →
        (∀ c ∈ s.red.comm, ∀ o ∈ c.2.ops, (8 + r.port, r.id) ∉ o.waits) →
        (endCxlReq r st bs s).lnk.cxlReqs = s.lnk.cxlReqs.filter (fun x => x.id != r.id) ∧
        (endCxlReq r st bs s).lnk.answers = s.lnk.answers ∧ (endCxlReq r st bs s).spl = s.spl)) ∧
    (∀ (x : Nat) (s : State), (hport s x).up = true → (∀ r ∈ s.lnk.cxlReqs, r.readBack = false) →
      ∃ t, exec (.cxlLinkDown x) s = .next t ∧
      (hport t x).up = false ∧ (hport t x).cacheEn = false ∧ (hport t x).memEn = false ∧ (hport t x).modified = [] ∧
      (hport t x).downs = satInc (hport s x).downs ∧ t.lnk.cxlDownSeen = true ∧ (∀ r ∈ t.lnk.cxlReqs, r.port ≠ x) ∧
      ((hport s x).modified ≠ [] → t.lnk.hostWbLost = true)) ∧
    (∀ (x : Nat) (s : State), exec (.cxlLinkDown x) s = .next (ended s (cxlDown x s))) ∧
    (∀ (x rate width : Nat) (flit256 : Bool) (s : State), settled s → (hport s x).training = true →
      (hport s x).up = false → dieOut s (32 + x) = false → 1 ≤ rate → rate ≤ 4 → (width = 8 ∨ width = 16) →
      exec (.cxlLinkUp x rate width flit256) s = .next (setHport x { hport s x with
        up := true, training := false, rate := BitVec.ofNat 3 rate, width := BitVec.ofNat 5 width
        flit256 := flit256 && decide (3 ≤ rate), cacheEn := decide (3 ≤ rate)
        memEn := flit256 && decide (3 ≤ rate) } s)) ∧
    (∀ (x : Nat) (s : State), x < 2 → s.pins.porN = true → ∃ t, exec (.perstAssert x) s = .next t ∧
      (if x = 0 then t.pins.perst0N else t.pins.perst1N) = false ∧ (hport t x).up = false ∧ (hport t x).training = false) ∧
    (∀ (x : Nat) (s : State), x < 2 → settled s → ∃ t, exec (.perstDeassert x) s = .next t ∧
      (if x = 0 then t.pins.perst0N else t.pins.perst1N) = true ∧ (hport t x).up = (hport s x).up ∧
      (hport t x).training = ((hport s x).training ||
        (!dieOut s (32 + x) && s.pins.porN && s.pins.avddGood && s.pins.vddPlGood && !(hport s x).up))) ∧
    (∀ (x p : Nat) (s : State), settled s → x < 2 → p < 64 → functionExists s p x = true →
      (∃ t, exec (.functionLevelReset x p true) s = .next t ∧ p ∈ t.fw.flr ∧ (∀ q, q ≠ p → (q ∈ t.fw.flr ↔ q ∈ s.fw.flr))) ∧
      ∃ t, exec (.functionLevelReset x p false) s = .next t ∧ p ∉ t.fw.flr ∧ ∀ q, q ≠ p → (q ∈ t.fw.flr ↔ q ∈ s.fw.flr)) ∧
    (∀ (x n : Nat) (on : Bool) (s : State), settled s → portUsable s x = true → ∃ t, exec (.vfEnable x n on) s = .next t ∧
      hport t x = { hport s x with vfEnable := on, numVfs := if on then min n 63 else 0 } ∧
      tget 0 t.lnk.vfTable x = (if on then s.lnk.vfMsix.toNat else 0) ∧ (∀ y, y ≠ x → hport t y = hport s y) ∧
      ∀ p v, 1 ≤ p → v < 2048 → homePort s p = x →
        tget false t.lnk.msixOpen (p * 2048 + v) = false ∧ tget false t.lnk.pba (p * 2048 + v) = false) ∧
    (∀ (x : Nat) (cdat : Bool) (req : List Byte) (s : State), settled s → x < 2 → (hport s x).up = true →
      (s.fw.start = none → cdat = false → byteAt req 1 = 0x84 → exec (.spdmRequest x cdat req) s =
        .next (emit (.spdm x [0x10, 0x04, 0, 0, 0, 1, 0x00, 0x12]) (spend s))) ∧
      (s.fw.start = none → cdat = false → byteAt req 1 ∈ [0xE1, 0xE3, 0x81, 0x82, 0x83, 0xE0] →
        exec (.spdmRequest x cdat req) s = .next (emit (.spdm x
          ([0x12, BitVec.ofNat 8 (byteAt req 1 - 0x80)] ++ freeAnswer s.seed)) (spend s))) ∧
      (s.fw.start = none → cdat = false → byteAt req 1 ∉ [0x84, 0xE1, 0xE3, 0x81, 0x82, 0x83, 0xE0] →
        exec (.spdmRequest x cdat req) s = .next (emit (.spdm x [0x12, 0x7F, 0x07, BitVec.ofNat 8 (byteAt req 1)]) (spend s))) ∧
      (s.fw.start ≠ none → cdat = false →
        exec (.spdmRequest x cdat req) s = .next (emit (.spdm x [0x12, 0x7F, 0x03, 0]) (spend s))) ∧
      (cdat = true → exec (.spdmRequest x cdat req) s = .next (emit (.spdm x (freeAnswer s.seed)) (spend s))))

/-- Accelerator links (R345 to R357). -/
def Obligations.AcceleratorTransactions : Prop :=
  (∀ (k : Nat) (bs : List Byte) (s : State), (∀ j, (aport s j).accReqs = [] ∧ (aport s j).heldSignals = []) → s.sht.pushDone = [] → settled s →
      k < 8 → (aport s k).state = .up → bs.length = 272 →
      (fieldLE bs 264 8 ≠ crc64 (bs.take 264) → (aport s k).nakSent = false → ∃ t, exec (.flitReceive k bs) s = .next t ∧
        (aport t k).nakSent = true ∧ (aport t k).crcErr = satInc (aport s k).crcErr ∧ t.lnk.accCrcSeen = true ∧
        (aport t k).rxSeq = (aport s k).rxSeq) ∧
      (fieldLE bs 264 8 = crc64 (bs.take 264) → fieldLE bs 0 8 % 4096 ≠ ((aport s k).rxSeq + 1) % 4096 →
        exec (.flitReceive k bs) s = .next s) ∧
      (fieldLE bs 264 8 = crc64 (bs.take 264) → fieldLE bs 0 8 % 4096 = ((aport s k).rxSeq + 1) % 4096 →
        bits (fieldLE bs 0 8) 24 4 = 0 → (aport s k).txWait = [] → ∃ t, exec (.flitReceive k bs) s = .next t ∧
          (aport t k).rxSeq = fieldLE bs 0 8 % 4096 ∧ (aport t k).nakSent = false ∧
          (aport t k).txCredit = { hdr := (aport s k).txCredit.hdr + bits (fieldLE bs 0 8) 28 8,
                                   rsp := (aport s k).txCredit.rsp + bits (fieldLE bs 0 8) 36 8,
                                   data := (aport s k).txCredit.data + bits (fieldLE bs 0 8) 44 12 })) ∧
    (∀ (k : Nat) (hdr d : List Byte) (s : State), k < 8 → (aport s k).state = .up →
      ∀ p ∈ ([(.tchRead k hdr, 1, []), (.tchWrite k hdr d, 2, d), (.tchAtomic k hdr d, 3, d)] :
        List (Instr × Nat × List Byte)), (readHdr hdr).typ = p.2.1 →
      let data := p.2.2
      let h := readHdr hdr
      let u := (modAport k (fun a => owe hdr data { a with inbox := a.inbox.erase (hdr, data) }) s)
      (∀ st, tchCheck u k hdr = some st → exec p.1 s = .next (ended s (respond k h.tag st []
        (modAport k (fun a => { a with reqDeny := satInc a.reqDeny }) { u with lnk := { u.lnk with accDenySeen := true } })))) ∧
      (tchCheck u k hdr = none →
        (portStopped u k = true → exec p.1 s = .next (ended s (respond k h.tag .retryLater [] u))) ∧
        (portStopped u k = false →
          (data ≠ [] → dcrcOk hdr data = false →
            exec p.1 s = .next (ended s (respond k h.tag .checkFail [] u))) ∧
          ((data ≠ [] → dcrcOk hdr data = true) →
            (h.ordered = true → (aport s k).accReqs ≠ [] →
              exec p.1 s = .next (ended s (addAccReq k h hdr data true u))) ∧
            ((h.ordered = true → (aport s k).accReqs = []) →
              (target h.addr = 0 → ∀ v st bs, accAtSpool k h data u = (v, st, bs) →
                exec p.1 s = .next (ended s (respond k h.tag st bs
                  (modAport k (fun a => { a with accReqs := a.accReqs.filter (fun r => r.tag != h.tag) }) v)))) ∧
              (target h.addr ≠ 0 → exec p.1 s = .next (ended s
                (forwardTch k h data (if p.2.1 = 1 then u else addAccReq k h hdr data false u))))))))) ∧
    (∀ (k : Nat) (h : TchHdr) (data : List Byte) (s : State), target h.addr ≠ 0 →
      (islandStalled s (8 + accOf h.addr) = false → forwardTch k h data s =
        accIssue (accOf h.addr) h data false (some (k, h.tag)) (bump (accPort k) 5 1 s)) ∧
      (islandStalled s (8 + accOf h.addr) = true → forwardTch k h data s = respond k h.tag .crossStall []
        (modAport k (fun a => { a with accReqs := a.accReqs.filter (fun r => r.tag != h.tag) }) s))) ∧
    (∀ (k : Nat) (hdr data : List Byte) (s v : State) (st : Status), k < 8 → (aport s k).state = .up →
      (readHdr hdr).typ = 5 → badTch hdr = false → badTchLen (readHdr hdr) = none → portStopped (modAport k (fun a => owe hdr data { a with inbox := a.inbox.erase (hdr, data) }) s) k = false →
      accContribution k (bits (readHdr hdr).addr 0 12) (BitVec.ofNat 32 (bits (readHdr hdr).addr 32 32))
        (bits (readHdr hdr).value 0 47) data (dcrcOk hdr data) (modAport k (fun a => owe hdr data { a with inbox := a.inbox.erase (hdr, data) }) s) = (st, v) →
      exec (.tchReducePush k hdr data) s = .next (ended s (respond k (readHdr hdr).tag st [] v))) ∧
    (∀ (k : Nat) (hdr : List Byte) (s : State), k < 8 → (aport s k).state = .up → (readHdr hdr).typ = 4 →
      badTch hdr = false → (readHdr hdr).len = 0 →
      let h := readHdr hdr
      let data : List Byte := []
      let u := (modAport k (fun a => owe hdr data { a with inbox := a.inbox.erase (hdr, data) }) s)
      let part := (aport s k).part.toNat
      (bits h.addr 0 8 = 1 → (aport s k).accReqs = [] →
        (s.fw.ready = false → exec (.doorbell k hdr) s = .next (ended s u)) ∧
        (s.fw.ready = true → bit h.value 24 = true →
          exec (.doorbell k hdr) s = .next (ended s (setTail (.admin part) (bits h.value 32 16) u))) ∧
        (s.fw.ready = true → bit h.value 24 = false → exec (.doorbell k hdr) s = .next (ended s
          (namedSkein part (bits h.value 0 24) u fun r s => setTail r (bits h.value 32 16) s)))) ∧
      (∀ j, bits h.addr 0 8 = 2 → (aport s k).accReqs = [] → bits h.addr 8 4 = j → j < 8 → j ≠ k →
        (aport s j).part = (aport s k).part → (aport s j).state = .up → exec (.user k hdr) s =
          .next (ended s (sendTch j { typ := 4, addr := h.addr, value := h.value, aux := h.aux } [] u))) ∧
      ∀ p ∈ ([(.doorbell k hdr, 1), (.user k hdr, 2)] : List (Instr × Nat)), bits h.addr 0 8 = p.2 →
        (aport s k).accReqs ≠ [] → exec p.1 s = .next (ended s (modAport k (fun a => { a with
          nextId := a.nextId + 1, heldSignals := a.heldSignals ++ [{ id := a.nextId, header := hdr }] }) u))) ∧
    (∀ (k : Nat) (hdr data : List Byte) (s : State) (d : DevReq), k < 8 → (aport s k).state = .up →
      (readHdr hdr).typ = 8 → (aport s k).devReqs.find? (fun d => d.tag == (readHdr hdr).tag) = some d →
      (d.timedOut = true → exec (.tchResponse k hdr data) s = .next (ended s (drainTch k
        (modAport k (fun a => { a with devReqs := a.devReqs.filter (fun x => x.tag != d.tag) })
          { (modAport k (fun a => owe hdr data { a with inbox := a.inbox.erase (hdr, data) }) s) with lnk := { (modAport k (fun a => owe hdr data { a with inbox := a.inbox.erase (hdr, data) }) s).lnk with accLate := satInc s.lnk.accLate } })))) ∧
      (d.timedOut = false → d.fromPort = none →
        (badTch hdr = true ∨ (data ≠ [] ∧ dcrcOk hdr data = false) → exec (.tchResponse k hdr data) s =
          .next (ended s (drainTch k (endRequest k d .checkFail [] (modAport k (fun a => owe hdr data { a with inbox := a.inbox.erase (hdr, data) }) s))))) ∧
        (badTch hdr = false → (data ≠ [] → dcrcOk hdr data = true) → (readHdr hdr).status = 0 →
          exec (.tchResponse k hdr data) s = .next (ended s (drainTch k (endRequest k d .ok data (modAport k (fun a => owe hdr data { a with inbox := a.inbox.erase (hdr, data) }) s))))))) ∧
    (∀ (k tag : Nat) (s : State) (d : DevReq),
      (aport s k).devReqs.find? (fun d => d.tag == tag && !d.timedOut) = some d → d.fromPort = none →
      s.lnk.accTmoUs.toNat * 1000 ≤ (accTime s k - d.sent).toNat → exec (.accTmoExpiry k tag) s = .next (ended s (drainTch k
        (modAport k (fun a => { a with devReqs := a.devReqs ++ [{ d with timedOut := true }] })
          (endRequest k d .timeout [] s))))) ∧
    (∀ (k : Nat) (d : DevReq) (st : Status) (data : List Byte) (s : State), d.fromPort = none →
      (∀ o ∈ s.sht.ops, (k, d.tag) ∉ o.waits) → (∀ c ∈ s.red.comm, ∀ o ∈ c.2.ops, (k, d.tag) ∉ o.waits) →
      (aport (endRequest k d st data s) k).devReqs = (aport s k).devReqs.filter (fun x => x.tag != d.tag) ∧
      (endRequest k d st data s).lnk.answers =
        s.lnk.answers ++ (if d.typ = 2 then [] else [{ pa := d.pa, status := st, bytes := data }])) ∧
    (∀ (k : Nat) (x : TchTraining) (s : State), settled s → trainingOn (aport s k) = true → (aport s k).cmds = [] →
      ((aport s k).step = 1 ∨ (aport s k).step = 2 → exec (.tchTrainingStepDone k x) s = .next (setAport k
        { aport s k with step := (aport s k).step + 1, stepAt := accTime s k } s)) ∧
      ((aport s k).step = 4 → paramsOk x = true → ∃ t, exec (.tchTrainingStepDone k x) s = .next t ∧
        (aport t k).state = .up ∧ (aport t k).txCredit = { hdr := x.hdr, rsp := x.rsp, data := x.data } ∧
        (aport t k).accId = BitVec.ofNat 64 x.accId ∧ (aport t k).step = 0) ∧
      (stepBoundUs (aport s k) * 1000 ≤ (accTime s k - (aport s k).stepAt).toNat →
        exec (.tchTrainingOverrun k) s = .next (setAport k { aport s k with state := .down, step := 0 } s))) ∧
    (∀ (k : Nat) (s : State), (∀ j, (aport s j).accReqs = [] ∧ (aport s j).heldSignals = []) → s.sht.pushDone = [] → settled s →
      (∀ c, (commOf s c).state ≠ .active) →
      ((aport s k).state = .up → ∃ t, exec (.tchLinkLoss k) s = .next t ∧ (aport t k).state = .retrain ∧
        (aport t k).step = 1 ∧ (aport t k).retrained = true ∧ (aport t k).downs = satInc (aport s k).downs ∧
        t.lnk.accDownSeen = true ∧ (aport t k).devReqs = []) ∧
      ((aport s k).state = .down → (aport s k).retrained = true → s.lnk.autoRetrain = true →
        1000000 * 1000 ≤ (accTime s k - (aport s k).triedAt).toNat → exec (.tchRetrainRetry k) s = .next (setAport k
          { aport s k with state := .retrain, step := 1, warmEq := false, stepAt := accTime s k, triedAt := accTime s k } s))) ∧
    (∀ (c : Cmd) (s : State) (k : Nat), settled s → admits descAportBind c s → k = fieldLE c.packet 16 2 % 8 →
      (aportHeld s c k = true → exec (.aportBind c) s = .next (holdCmd c s)) ∧
      (aportHeld s c k = false → (c.part = 0 ∨ (aport s k).part.toNat = c.part) →
        (fieldLE c.packet 18 2 = 0 ∨ ctxOwner s (fieldLE c.packet 18 2) = (aport s k).part.toNat ∧
          (ctxDesc s (fieldLE c.packet 18 2)).enable = true) → exec (.aportBind c) s = .next (complete c .ok []
            (aportOwner s k) (setAport k { aport s k with ctx := BitVec.ofNat 16 (fieldLE c.packet 18 2) } (turn c s))))) ∧
    (∀ (c : Cmd) (s : State) (k : Nat), (∀ j, (aport s j).accReqs = [] ∧ (aport s j).heldSignals = []) → s.sht.pushDone = [] → settled s →
      admits descAportCtl c s → k = fieldLE c.packet 16 2 % 8 →
      (aportHeld s c k = true → exec (.aportCtl c) s = .next (holdCmd c s)) ∧
      (aportHeld s c k = false → (c.part = 0 ∨ (aport s k).part.toNat = c.part) →
        (param c 16 2 3 2 = 2 → (aport s k).state = .up →
          exec (.aportCtl c) s = .next (complete c .ok [] (aportOwner s k) (turn c s))) ∧
        (param c 16 2 3 2 = 0 → (aport s k).state = .disabled →
          exec (.aportCtl c) s = .next (complete c .ok [] (aportOwner s k) (turn c s))) ∧
        (param c 16 2 3 2 = 1 → (aport s k).state ≠ .up → exec (.aportCtl c) s =
          .next (complete c .ok [] (aportOwner s k)
            (setAport k { aport s k with state := .disabled, step := 0, retrained := false } (turn c s)))) ∧
        ∀ p ∈ ([(2, .disabled, .training), (2, .down, .training), (0, .down, .retrain)] : List (Nat × APortSt × APortSt)),
          param c 16 2 3 2 = p.1 → (aport s k).state = p.2.1 → exec (.aportCtl c) s = .next (setAport k
            { aport s k with state := p.2.2, step := 1, warmEq := false, stepAt := accTime s k, triedAt := accTime s k
                             cmds := [cmdRef c] } (turn c s)))) ∧
    ∀ (h : TchHdr) (data : List Byte), h.typ < 16 → h.status < 256 → h.tag < 4096 → h.len < 8192 → h.addr < 2 ^ 64 →
      h.value < 2 ^ 64 → h.aux < 2 ^ 32 → readHdr (hdrBytes h data) = h ∧ (hdrBytes h data).length = 32 ∧
        (data ≠ [] → dcrcOk (hdrBytes h data) data = true)

/-- Ethernet ports (R358 to R382). -/
def Obligations.EthernetPortsTakeAndSendFrames : Prop :=
  (∀ (k i j n : Nat) (s : State), tget 0 (ethSub (ethCount k i j n s) k i).cnt j =
      if n = 0 then tget 0 (ethSub s k i).cnt j else min (2 ^ cntWidth j - 1) (tget 0 (ethSub s k i).cnt j + n)) ∧
    (∀ (k i : Nat) (wire : List Byte) (corr uncorr : Nat) (s : State), (ethp s k).power ≠ .low →
      (ethp s k).power ≠ .entering → (ethSub s k i).link = .up → inService s (ethPort k) = true →
      let u := ethCount k i 15 uncorr (ethCount k i 14 corr s)
      let frame := wire.take (wire.length - 4)
      (uncorr ≠ 0 ∨ wire.drop (wire.length - 4) ≠ fcsOf frame →
        exec (.ethFrameReceive k i wire corr uncorr) s = .next (ended s (ethCount k i 2 1 u))) ∧
      (uncorr = 0 → wire.drop (wire.length - 4) = fcsOf frame →
        (wire.length < 64 ∨ maxFrame (ethp s k) < wire.length →
          exec (.ethFrameReceive k i wire corr uncorr) s = .next (ended s (ethCount k i 3 1 u))) ∧
        (64 ≤ wire.length → wire.length ≤ maxFrame (ethp s k) →
          let v := ethCount k i 1 1 (ethCount k i 0 wire.length u)
          (addressOk s k i (frame.take 6) = false →
            exec (.ethFrameReceive k i wire corr uncorr) s = .next (ended s (ethCount k i 4 1 v))) ∧
          (addressOk s k i (frame.take 6) = true → (readL2 frame).etype = 0x8808 →
            exec (.ethFrameReceive k i wire corr uncorr) s = .next (ended s (ethCount k i 5 1 v))) ∧
          (addressOk s k i (frame.take 6) = true → (readL2 frame).etype ≠ 0x8808 →
            (classify (ethp s k) (readL2 frame)).policer = none →
            ((classify (ethp s k) (readL2 frame)).dest = 0 → isTransport s (readL2 frame) = true →
              exec (.ethFrameReceive k i wire corr uncorr) s = .next (ended s (toShuttle k frame v)) ∧
              (toShuttle k frame v).sht.inbox = s.sht.inbox ++ [(k, frame)]) ∧
            ((classify (ethp s k) (readL2 frame)).dest = 0 → isTransport s (readL2 frame) = false →
              exec (.ethFrameReceive k i wire corr uncorr) s = .next (ended s (ethCount k i 8 1 v))) ∧
            ((classify (ethp s k) (readL2 frame)).dest = 1 → exec (.ethFrameReceive k i wire corr uncorr) s =
              .next (ended s (toRxq k i (classify (ethp s k) (readL2 frame)) 0 frame v))) ∧
            (2 ≤ (classify (ethp s k) (readL2 frame)).dest → exec (.ethFrameReceive k i wire corr uncorr) s =
              .next (ended s (ethCount k i 7 1 v))))))) ∧
    (∀ (k i buffered supplied : Nat) (s : State), settled s →
      (sendsOn s k i = false ∨ serveRoot (ethp s k) i = none →
        exec (.txFrameStart k i buffered supplied) s = .next s) ∧
      (∀ n pkt p, serveRoot (ethp s k) i = some (n, pkt, p) → pkt.whole = false →
        buffered < min (2 ^ startLog2 (tget {} p.txq n)) (pkt.frame.length + 4) →
        exec (.txFrameStart k i buffered supplied) s = .next s) ∧
      ∀ n pkt p, sendsOn s k i = true → serveRoot (ethp s k) i = some (n, pkt, p) → pkt.whole = true → ∃ t,
        exec (.txFrameStart k i buffered supplied) s = .next t ∧
        t.out = s.out ++ [.frame k i (pkt.frame ++ fcsOf pkt.frame) false] ∧
        (ethSub t k i).tx = some { pkt := pkt, start := (ethp t k).ptime, cut := false } ∧ (ethp t k).txq = p.txq) ∧
    (∀ (k i : Nat) (s : State) (f : TxFrame), (ethSub s k i).tx = some f → f.cut = false → f.pkt.ud = false → f.pkt.qp = none →
      (∀ r, f.pkt.cmd = some r → ∃ l ∈ s.jcq.live, l.ref = r) → ∃ t,
      exec (.txFrameEnd k i) s = .next t ∧ (ethSub t k i).tx = none ∧
      tget 0 (ethSub t k i).cnt 10 = min (2 ^ 48 - 1) (tget 0 (ethSub s k i).cnt 10 + (f.pkt.frame.length + 4)) ∧
      tget 0 (ethSub t k i).cnt 11 = min (2 ^ 40 - 1) (tget 0 (ethSub s k i).cnt 11 + 1) ∧
      (f.pkt.cmd = none → t.jcq.done = s.jcq.done) ∧
      ∀ r, f.pkt.cmd = some r → ∃ e, t.jcq.done = s.jcq.done ++ [e] ∧ e.ref = r ∧ e.status = .ok ∧
        e.result = if f.pkt.tstamp then [f.start.toNat % 2 ^ 32, f.start.toNat / 2 ^ 32] else [0, 0]) ∧
    (∀ (c : Cmd) (s : State) (k n : Nat), k = param c 16 1 0 3 → n = param c 18 2 0 12 → admits descEthSend c s →
      60 ≤ cmdLength c → cmdLength c + 4 ≤ maxFrame (ethp s k) → queueOn (ethQueue s k n) = true → groupPart (ethGroup s k (queueGroup (ethQueue s k n))) = 0 →
      (ethSub s k (groupSub (ethGroup s k (queueGroup (ethQueue s k n))))).link = .up → settled s →
      (32 ≤ (ethQueue s k n).pkts.length ∨ ethHeld c s = true → exec (.ethSend c) s = .next (holdCmd c (begun c s))) ∧
      ((ethQueue s k n).pkts.length < 32 → ethHeld c s = false → bit (cmdFlags c) 2 = true → exec (.ethSend c) s =
        .next (ended s (enqueue k n { frame := slice (c.packet.drop 64) 0 (cmdLength c), cmd := some (cmdRef c), ud := false
                                      tstamp := param c 20 1 0 1 == 1, whole := true, unit := ethPort k } (turn c s)))) ∧
      ∀ v st bs, (ethQueue s k n).pkts.length < 32 → ethHeld c s = false → bit (cmdFlags c) 2 = false →
        bufRead (ethPort k) c.part (param c 22 2 0 16) (fieldLE c.packet 24 8) (cmdLength c) c.ext (turn c s) =
          (v, st, bs) → exec (.ethSend c) s = .next (ended s (if st = .ok then
            enqueue k n { frame := bs, cmd := some (cmdRef c), ud := false, tstamp := param c 20 1 0 1 == 1, whole := true
                          unit := ethPort k } v
            else complete c st [] (ethPort k) v))) ∧
    (∀ (k i : Nat) (s : State), (ethSub s k i).link = .training ∨ (ethSub s k i).link = .down →
      subEnabled s k i = true → (ethp s k).power = .active ∨ (ethp s k).power = .waking → ∃ t,
      exec (.subportLinkUp k i) s = .next t ∧ (ethSub t k i).link = .up ∧ (ethSub t k i).eq = true ∧
      (∀ j, j ≠ i → ethSub t k j = ethSub s k j) ∧ ((ethp s k).woken = true → (ethp t k).power = (ethp s k).power) ∧
      ((ethp s k).woken = false → (ethp t k).power = .active ∧ (ethp t k).woken = true)) ∧
    (∀ (k i : Nat) (s : State), (ethSub s k i).link = .up → ∃ t, exec (.subportLinkDown k i) s = .next t ∧
      (ethSub t k i).link = .down ∧ (ethSub t k i).tx = none ∧ ((ethSub s k i).tx = none →
        t = ended s (flushSub k i (setSub k i { ethSub s k i with link := .down } s))) ∧
      ∀ f, (ethSub s k i).tx = some f → t = ended s (flushSub k i (endPacket f.pkt .aborted []
        (setSub k i { ethSub s k i with link := .down, tx := none } s)))) ∧
    (∀ (wire : List Byte) (s : State), settled s → exec (.mgmtFrameReceive wire) s = .next
      (if s.eth.mgmtEnable = true ∧ 64 ≤ wire.length ∧ wire.length ≤ 1522 ∧
          wire.drop (wire.length - 4) = fcsOf (wire.take (wire.length - 4))
        then { s with eth := { s.eth with mgmtRx := s.eth.mgmtRx ++ [wire.take (wire.length - 4)] } } else s)) ∧
    (∀ (frame : List Byte) (b : Nat) (s : State), settled s → s.eth.mgmtEnable = true → mgmtHalf s = true →
      (512 ≤ b → exec (.mgmtCollision frame b) s = .next
        { s with eth := { s.eth with mgmtTx := none, lateCol := satInc s.eth.lateCol } }) ∧
      (b < 512 → (∀ m, s.eth.mgmtTx = some m → m.frame ≠ frame) → exec (.mgmtCollision frame b) s = .next { s with eth := { s.eth with
        mgmtLfsr := lfsrNext s.eth.mgmtLfsr
        mgmtTx := some { frame := frame, collisions := 1, wait := (lfsrNext s.eth.mgmtLfsr).toNat % 2 * 512
                         since := dieTime s 38 } } }) ∧
      ∀ m, b < 512 → s.eth.mgmtTx = some m → m.frame = frame →
        (15 ≤ m.collisions → exec (.mgmtCollision frame b) s = .next
          { s with eth := { s.eth with mgmtTx := none, excessCol := satInc s.eth.excessCol } }) ∧
        (m.collisions < 15 → ∃ t w, exec (.mgmtCollision frame b) s = .next t ∧ w < 2 ^ 10 ∧
          t.eth.mgmtTx = some { frame := frame, collisions := m.collisions + 1, wait := w * 512, since := dieTime s 38 })) ∧
    (∀ (s : State), settled s → (s.eth.mgmtTx = none → exec .mgmtBackoffExpiry s = .next s) ∧
      (∀ m, s.eth.mgmtTx = some m → since s 38 m.since < m.wait * mgmtBitNs s → exec .mgmtBackoffExpiry s = .next s) ∧
      ∀ m, s.eth.mgmtTx = some m → m.wait * mgmtBitNs s ≤ since s 38 m.since → exec .mgmtBackoffExpiry s = .next (emit (.mgmtFrame (m.frame ++ fcsOf m.frame))
        { s with eth := { s.eth with mgmtTx := some { m with wait := 0 } } })) ∧
    ∀ (word : Nat) (s : State), settled s → exec (.sgmiiAutoNegotiation word) s = .next { s with eth := { s.eth with
      anSpeed := BitVec.ofNat 2 (word / 2 ^ 10), anDuplex := word.testBit 12 } }

/-- The cipher scheduler (R384 to R396). -/
def Obligations.CipherJobsTakeEffect : Prop :=
  (∀ (c : Cmd) (s : State) (n : Nat), n = cipherSlot c → settled s → slotOwned s c.part n = true →
      (admits descKeyLoad c s → bit (cmdFlags c) 2 = true → keyMode c = 1 ∨ keyMode c = 2 →
        keyLoadLenBad c = false → slotJobs s n = false → ∃ t, exec (.keyLoad c) s = .next t ∧
          keySlot t n = { state := if keyMode c = 1 then .gcm else .xts
                          fixed := BitVec.ofNat 32 (fieldLE c.packet 20 4)
                          peerFixed := BitVec.ofNat 32 (fieldLE c.packet 24 4)
                          counter := BitVec.ofNat 64 (fieldLE c.packet 32 8)
                          limit := BitVec.ofNat 64 (fieldLE c.packet 40 8)
                          refs := (keySlot s n).refs, key := slice c.packet 64 (cmdLength c) } ∧
          (∀ m, m ≠ n → keySlot t m = keySlot s m) ∧
          (keyMode c = 2 → t = complete c .ok [] (schedUnit s) (setKeySlot n (loadedSlot c (keySlot s n)) (begun c s)))) ∧
      (admits descKeyDestroy c s →
        ((keySlot s n).refs = 0 →
          exec (.keyDestroy c) s = .next (complete c .ok [] (schedUnit s) (setKeySlot n {} (begun c s)))) ∧
        ((keySlot s n).refs ≠ 0 → exec (.keyDestroy c) s = .next (complete c .busy [] (procUnit s c) (begun c s)))) ∧
      (admits descKeyQuery c s → exec (.keyQuery c) s = .next (complete c .ok
        [slotCode (keySlot s n).state + 2 ^ 16 * (keySlot s n).refs.toNat, (keySlot s n).counter.toNat % 2 ^ 32,
         (keySlot s n).counter.toNat / 2 ^ 32] (schedUnit s) (begun c s)))) ∧
    (∀ p ∈ ([(.keyLoad, descKeyLoad), (.keyDestroy, descKeyDestroy), (.keyQuery, descKeyQuery), (.gcmSeal, descGcmSeal),
           (.gcmOpen, descGcmOpen), (.xtsEnc, descXts 0x0612), (.xtsDec, descXts 0x0613)] : List ((Cmd → Instr) × OpDesc)),
      ∀ (c : Cmd) (s : State), settled s → admits p.2 c s → slotOwned s c.part (cipherSlot c) = false →
      (p.2.code = 0x0601 → bit (cmdFlags c) 2 = true) →
      exec (p.1 c) s = .next (complete c .denied [] (procUnit s c) (begun c s))) ∧
    (∀ (c : Cmd) (s : State) (n : Nat), n = cipherSlot c → settled s → admits descGcmSeal c s →
      slotOwned s c.part n = true → (keySlot s n).state = .gcm → rangesOverlap c = false → gcmAadLen c ≤ 65536 →
      ((keySlot s n).counter ≠ (keySlot s n).limit → coresUp s ≠ [] → ∃ t, exec (.gcmSeal c) s = .next t ∧
        t = jobArrives (if param c 18 1 0 1 = 1 then 1 else 2) n (.command c (keySlot s n).counter.toNat) (setKeySlot n
          { keySlot s n with counter := (keySlot s n).counter + 1, refs := (keySlot s n).refs + 1 } (begun c s)) ∧
        t.jcq.done = s.jcq.done ∧ t.spl = s.spl) ∧
      ((keySlot s n).counter = (keySlot s n).limit → ∃ t, exec (.gcmSeal c) s = .next t ∧
        t = complete c .keyExhausted [] (schedUnit s) (setKeySlot n { keySlot s n with state := .exhausted }
          { begun c s with cip := { s.cip with exhaustedSeen := true } }))) ∧
    (∀ (c : Cmd) (s : State) (n : Nat), n = cipherSlot c → settled s → slotOwned s c.part n = true →
      rangesOverlap c = false →
      ∀ p ∈ ([(.gcmOpen, descGcmOpen, .gcm), (.xtsEnc, descXts 0x0612, .xts), (.xtsDec, descXts 0x0613, .xts)] :
        List ((Cmd → Instr) × OpDesc × SlotState)), admits p.2.1 c s → (keySlot s n).state = p.2.2 →
      (if p.2.2 = .gcm then gcmAadLen c ≤ 65536 else cmdLength c % dataUnit c = 0) →
      (coresUp s ≠ [] → exec (p.1 c) s = .next (jobArrives (if param c 18 1 0 1 = 1 then 1 else 2) n (.command c 0)
        (setKeySlot n { keySlot s n with refs := (keySlot s n).refs + 1 } (begun c s)))) ∧
      (coresUp s = [] → exec (p.1 c) s = .next (complete c .fenced [] (schedUnit s) (begun c s)))) ∧
    (∀ (q n b : Nat) (s : State), settled s → ∃ t, exec (.cipherJobArrival q ⟨n, b⟩) s = .next t ∧
      t = jobArrives 0 n (.packet q b) s ∧ t.cip.nextJob = s.cip.nextJob + 1 ∧ t.jcq = s.jcq ∧ t.cip.slot = s.cip.slot) ∧
    (∀ (cls n : Nat) (w : CipherWork) (s : State) (j : CipherJob),
      j = { id := s.cip.nextJob, cls := cls, slot := n, work := w } →
      (∀ x r, freeCores s = x :: r → (jobArrives cls n w s).cip.running = s.cip.running ++ [(x, j)] ∧
        (jobArrives cls n w s).cip.waiting = s.cip.waiting ∧ (jobArrives cls n w s).cip.suspended = s.cip.suspended) ∧
      (∀ v, freeCores s = [] → s.cip.suspended.length < 256 → victimFor s cls = some v →
        (jobArrives cls n w s).cip.running = s.cip.running.filter (fun r => r.1 != v.1) ++ [(v.1, j)] ∧
        (jobArrives cls n w s).cip.suspended = s.cip.suspended ++ [{ v.2 with core := some v.1 }]) ∧
      (freeCores s = [] → 256 ≤ s.cip.suspended.length ∨ victimFor s cls = none →
        jobArrives cls n w s = { s with cip := { s.cip with nextJob := s.cip.nextJob + 1, waiting := s.cip.waiting ++ [j] } })) ∧
    (∀ s : State, schedStep (schedule s) = none) ∧
    (∀ (x : Nat) (s : State) (r : Nat × CipherJob) (u : State), s.cip.running.find? (fun r => r.1 == x) = some r →
      unitHolds s (cipherCore x) (jobOwner r.2).1 (jobOwner r.2).2 = false →
      u = countJob x { s with cip := { s.cip with running := s.cip.running.filter fun y => y.1 != x } } →
      (∀ q b, r.2.work = .packet q b →
        exec (.cipherJobComplete x) s = .next (ended s (schedule (countCipher x false b u)))) ∧
      ∀ c n, r.2.work = .command c n → exec (.cipherJobComplete x) s = .next (ended s (schedule (finishData x r.2 c n u)))) ∧
    (∀ (x n : Nat) (j : CipherJob) (c : Cmd) (s v : State) (st : Status) (bs : List Byte),
      bufRead (cipherCore x) c.part (param c 24 2 0 16) (fieldLE c.packet 32 8) (srcLen c) c.ext s = (v, st, bs) →
      (st = .ok → (∀ out w st', cipherData (keySlot s j.slot) c n bs = some out →
          bufWrite (cipherCore x) c.part (param c 24 2 0 16) (fieldLE c.packet 40 8) out
            (countCipher x (decide (fieldLE c.packet 0 2 ≥ 0x0612)) (cmdLength c) v) = (w, st') →
          finishData x j c n s = complete c st' (if st' = .ok then cipherResult (keySlot s j.slot) c n else [])
            (schedUnit w) (dropRef j.slot w)) ∧
        (cipherData (keySlot s j.slot) c n bs = none → ∃ w, finishData x j c n s = complete c .checkFail [] (schedUnit w)
          (dropRef j.slot { w with cip := { w.cip with openFailSeen := true } }) ∧
          w = (bufWrite (cipherCore x) c.part (param c 24 2 0 16) (fieldLE c.packet 40 8) (List.replicate (dstLen c) 0)
            (countCipher x (decide (fieldLE c.packet 0 2 ≥ 0x0612)) (cmdLength c) v)).1)) ∧
      (st = .poison → ∃ w, finishData x j c n s = complete c .poison [] (schedUnit w) (dropRef j.slot w) ∧
        w = spend (bufWrite (cipherCore x) c.part (param c 24 2 0 16) (fieldLE c.packet 40 8) (freeBytes v (dstLen c)) v).1) ∧
      (st ≠ .ok → st ≠ .poison → finishData x j c n s = complete c st [] (schedUnit v) (dropRef j.slot v))) ∧
    ∀ (x : Nat) (s : State), settled s → s.cip.running.find? (fun r => r.1 == x) = none →
      exec (.cipherJobComplete x) s = .next s

/-- Partitions (R398 to R407). -/
def Obligations.PartitionCommandsTakeEffect : Prop :=
  (∀ (c : Cmd) (s : State) (a : ResArgs), a = resArgs c → admits descResSet c s →
      let rows := [(resPairBad a, .opcode), (resBounds s a, .bounds), (resTaken s a, .busy), (resFull s a, .poolFull),
        (resLeaving s a, .busy)]
      (∀ st, firstFail rows = some st → settled s → exec (.resSet c) s = .next (complete c st [] (procUnit s c) (begun c s))) ∧
      (firstFail rows = none → exec (.resSet c) s = .next (ended s (partEvent a.part a.kind 0 a.count
          (complete c .ok [] (tableOwner (begun c s)) (moveRes a (begun c s))))))) ∧
    (∀ (a : ResArgs) (s : State), (moveRes a s).parts.state = s.parts.state ∧ (moveRes a s).jcq = s.jcq ∧
        (a.op < 2 → resOf (moveRes a s) a.kind a.part =
            (if a.count = 0 then {} else ⟨if a.op = 0 then a.first else 0, a.count⟩) ∧
          (∀ k p, k * 64 + p ≠ a.kind * 64 + a.part → resOf (moveRes a s) k p = resOf s k p) ∧ (moveRes a s).bob = s.bob) ∧
        (2 ≤ a.op → (moveRes a s).parts.res = s.parts.res) ∧
        (2 ≤ a.op → a.kind = 10 → ∀ i, aport (moveRes a s) i =
          if a.first ≤ i ∧ i < a.first + a.count
          then { aport s i with part := if a.op = 2 then BitVec.ofNat 6 a.part else 0 } else aport s i) ∧
        (2 ≤ a.op → a.kind = 11 → ∀ i, bobbinOf (moveRes a s) i =
          if a.first ≤ i ∧ i < a.first + a.count
          then { bobbinOf s i with state := if a.op = 2 then .idle else .unassigned, part := if a.op = 2 then a.part else 0 }
          else bobbinOf s i)) ∧
    (∀ p ∈ ([(.partSave, descPartSave), (.partRestore, descPartRestore), (.partThaw, descPartThaw),
           (.partClear, descPartClear)] : List ((Cmd → Instr) × OpDesc)), ∀ (c : Cmd) (s : State), settled s →
      admits p.2 c s →
      (cmdPart c = 0 → exec (p.1 c) s = .next (complete c .bounds [] (procUnit s c) (begun c s))) ∧
      (cmdPart c ≠ 0 → partState s (cmdPart c) ≠ .frozen →
        exec (p.1 c) s = .next (complete c .busy [] (procUnit s c) (begun c s)))) ∧
    (∀ (c : Cmd) (s u : State) (p : Nat) (f : Freeze), p = cmdPart c → admits descPartFreeze c s → p ≠ 0 →
      param c 20 2 0 16 ≠ 0 → partState s p = .opened →
      f = { part := p, tmoMs := param c 20 2 0 16, started := unitTime s (tableOwner s), cmd := cmdRef c } →
      u = withdrawLaunches p (setPart p .freezing { begun c s with
        parts := { s.parts with freezes := s.parts.freezes ++ [f] } }) →
      exec (.partFreeze c) s = .next (ended s (freezeCheck u)) ∧
      (s.parts.freezes = [] → partWork u p = [] → partFetching u p = false → (∃ l ∈ s.jcq.live, l.ref = cmdRef c) →
        ∃ t e, exec (.partFreeze c) s = .next t ∧ partState t p = .frozen ∧
        t.parts.freezes = [] ∧ t.jcq.done = s.jcq.done ++ [e] ∧ e.ref = cmdRef c ∧ e.status = .ok ∧ e.result = [0] ∧
        ∀ l ∈ t.bob.launch, l.part = p → l.state ≠ .queued) ∧
      (s.parts.freezes = [] → settled s → partWork u p ≠ [] ∨ partFetching u p = true → exec (.partFreeze c) s = .next u)) ∧
    (∀ (p n : Nat) (s v : State) (f : Freeze), s.parts.freezes.find? (fun f => f.part == p) = some f →
      ((unitTime s (tableOwner s) - f.started).toNat < f.tmoMs * 1000000 → settled s →
        exec (.freezeTimeout p) s = .next s) ∧
      (f.tmoMs * 1000000 ≤ (unitTime s (tableOwner s) - f.started).toNat →
        abortAll (fun r => r.part == p && !(idleRefs s).contains r) false s = (n, v) →
        exec (.freezeTimeout p) s = .next (ended s (frozen f n
          { v with parts := { v.parts with freezeAbort := tset false v.parts.freezeAbort p true } })))) ∧
    (∀ (f : Freeze) (n : Nat) (s : State), partState (frozen f n s) f.part = .frozen ∧ f ∉ (frozen f n s).parts.freezes ∧
      (frozen f n s).parts.freezeAbort = s.parts.freezeAbort ∧ (frozen f n s).bob = s.bob ∧
      ((∃ l ∈ s.jcq.live, l.ref = f.cmd) → ∃ e, (frozen f n s).jcq.done = s.jcq.done ++ [e] ∧ e.ref = f.cmd ∧
        e.status = .ok ∧ e.result = [n])) ∧
    (∀ (c : Cmd) (s u : State) (p : Nat), p = cmdPart c → admits descPartThaw c s → p ≠ 0 → partState s p = .frozen →
      u = (s.bob.launch.filter fun l => l.part == p && l.state == .withdrawn).foldl requeueLaunch
        (setPart p .opened (begun c s)) →
      exec (.partThaw c) s = .next (ended s (partEvent p 0 2 0 (complete c .ok [] (tableOwner u) u))) ∧
      ∃ t, exec (.partThaw c) s = .next t ∧ partState t p = .opened ∧
        (∀ l ∈ t.bob.launch, l.part = p → l.state ≠ .withdrawn) ∧
        (∀ q, q ≠ p → partState t q = partState s q) ∧ t.parts.res = s.parts.res) ∧
    (∀ (l : Launch) (s : State), (launchImage s l).resident = false ∨ l.image ≠ 1 ∨ l.work ≠ [] →
      requeueLaunch s l = setLaunch { l with state := .queued } s) ∧
    (∀ (c : Cmd) (s : State) (p : Nat) (img : List Byte), p = cmdPart c → admits descPartSave c s → p ≠ 0 →
      partState s p = .frozen →
      img = buildImage p (param c 17 1 0 1 == 1) (sections s p (param c 17 1 0 1 == 1)) →
      (cmdLength c < img.length → settled s → exec (.partSave c) s = .next (complete c .bounds
        [bits img.length 0 32, bits img.length 32 32] (tableOwner s) (begun c s))) ∧
      (img.length ≤ cmdLength c → (∀ st, param c 17 1 0 1 = 1 → memoryBad s false (partGranules s p) = some st →
        exec (.partSave c) s = .next (ended s (complete c st [] (tableOwner s) (begun c s)))) ∧
        ∀ v st, (param c 17 1 0 1 = 1 → memoryBad s false (partGranules s p) = none) →
          bufWrite (tableOwner s) c.part (param c 18 2 0 16) (fieldLE c.packet 24 8) img (begun c s) = (v, st) →
          (st = .ok → exec (.partSave c) s = .next (ended s (partEvent p 0 3 0
            (complete c .ok [bits img.length 0 32, bits img.length 32 32] (tableOwner s) v)))) ∧
          (st ≠ .ok → exec (.partSave c) s = .next (ended s (complete c st [] (tableOwner s) v))))) ∧
    (∀ (c : Cmd) (s v : State) (p : Nat) (img : List Byte), p = cmdPart c → admits descPartRestore c s → p ≠ 0 →
      partState s p = .frozen → bufRead (tableOwner s) c.part (param c 18 2 0 16) (fieldLE c.packet 24 8) (cmdLength c)
        c.ext (begun c s) = (v, .ok, img) →
      let rows := [(imgCrcBad img, .checkFail), (imgFieldsBad img, .opcode), (holdsObjects v p, .busy),
        (shortOf v p img, .bounds)]
      (∀ st, firstFail rows = some st → exec (.partRestore c) s = .next (ended s (complete c st [] (tableOwner s) v))) ∧
      (firstFail rows = none → secBytes img 14 = [] ∨ memoryBad v true (imgGranules img) = none → exec (.partRestore c) s =
        .next (ended s (partEvent p 0 4 0 (complete c .ok [] (tableOwner s) (restore p img v))))) ∧
      (∀ st, firstFail rows = none → secBytes img 14 ≠ [] → memoryBad v true (imgGranules img) = some st →
        exec (.partRestore c) s = .next (ended s (complete c st [] (tableOwner s) v)))) ∧
    ∀ (c : Cmd) (s : State) (p : Nat), p = cmdPart c → admits descPartClear c s → p ≠ 0 → partState s p = .frozen →
      exec (.partClear c) s = .next (ended s (clearPart p (cmdRef c) (begun c s))) ∧
      ∃ t, exec (.partClear c) s = .next t ∧ (∀ k, resOf t k p = {}) ∧
        (∀ l ∈ t.bob.launch, l.part = p → l.members ≠ []) ∧
        (partGranules s p = [] → partContexts s p = [] → (∀ x ∈ s.parts.clears, x.1 ≠ p) →
          (∀ a ∈ s.spl.ackWaits, a.after ≠ .clear p) → (∀ r ∈ s.spl.releases, r.clear ≠ some p) →
          (∀ l ∈ s.bob.launch, l.part ≠ p ∧ l.cmd.part ≠ p) → (∃ l ∈ s.jcq.live, l.ref = cmdRef c) →
          (∀ b ∈ s.bob.bobbin, b.2.part = p → b.2.state = .idle ∨ b.2.state = .fenced ∨
            b.2.state = .unassigned ∧ b.2.leaving = false) →
          partState t p = .opened ∧ ∃ e, t.jcq.done.getLast? = some e ∧ e.ref = cmdRef c ∧ e.status = .ok)

/-- Power tokens (R408 to R415, R428). -/
def Obligations.TokensAreGrantedWithinThePool : Prop :=
  (∀ (u p : Nat) (s : State) (n : Nat), settled s → inService s u = true → domainOn s u = true →
      n = maxTokens u - minTokens u - heldUnit s u - (s.pwr.requests.filter fun r => r.unit == u).foldl (fun a r => a + r.n) 0 →
      (n = 0 → exec (.tokenRequest u p) s = .next s) ∧
      (n ≠ 0 → s.pwr.profile ≠ 4 → exec (.tokenRequest u p) s = .next
        { s with pwr := { s.pwr with requests := s.pwr.requests ++ [{ unit := u, part := p, n := n }] } }) ∧
      (n ≠ 0 → s.pwr.profile = 4 → n + heldUnit s u ≤ unitLimit s u → exec (.tokenRequest u p) s = .next
        { s with pwr := { s.pwr with grants := s.pwr.grants ++ [{ unit := u, part := p, n := n }] } })) ∧
    (∀ s : State, ∃ t, exec .treadleStep s = .next t ∧ s.pwr.grants <+: t.pwr.grants ∧ s.pwr.recalls <+: t.pwr.recalls ∧
      heldActive t ≤ max (active s) (heldActive s) ∧ active t = active s ∧ (∀ r, s.pwr.requests = [r] →
        let g := min (min r.n (active s - heldActive s)) (unitLimit s r.unit - heldUnit s r.unit)
        t.pwr.grants = s.pwr.grants ++ (if g = 0 then [] else [{ unit := r.unit, part := r.part, n := g }]))) ∧
    (∀ (u : Nat) (s : State), ∃ t, exec (.tokenReturn u) s = .next t ∧
      (∀ p, heldFor t u p = heldFor s u p - recalledFor s u p) ∧ recalledUnit t u = 0 ∧
      ∀ v, v ≠ u → heldUnit t v = heldUnit s v ∧ recalledUnit t v = recalledUnit s v) ∧
    (∀ (u : Nat) (s : State), settled s → (∀ x, tget none s.pwr.idleAt u = some x →
        since s (dieOf u) x < s.pwr.idleReleaseUs.toNat * 1000) → exec (.idleReleaseExpiry u) s = .next s) ∧
    (∀ (u : Nat) (s : State) (x : Word64), tget none s.pwr.idleAt u = some x →
      s.pwr.idleReleaseUs.toNat * 1000 ≤ since s (dieOf u) x → ∃ t, exec (.idleReleaseExpiry u) s = .next t ∧
        heldUnit t u = 0 ∧ recalledUnit t u = 0 ∧ (∀ r ∈ t.pwr.requests, r.unit ≠ u) ∧
        (∀ v, v ≠ u → heldUnit t v = heldUnit s v ∧ recalledUnit t v = recalledUnit s v) ∧
        t = ended s (checkPwrSet { s with pwr := { s.pwr with
          idleAt := tset none s.pwr.idleAt u none
          grants := s.pwr.grants.filter fun g => g.unit != u
          requests := s.pwr.requests.filter fun r => r.unit != u
          recalls := s.pwr.recalls.filter fun r => r.unit != u } })) ∧
    (∀ s : State, (s.pwr.setWait = none → checkPwrSet s = s) ∧ ∀ w, s.pwr.setWait = some w →
      (active s < heldActive s → checkPwrSet s = s) ∧
      (heldActive s ≤ active s → (∃ l ∈ s.jcq.live, l.ref = w.cmd) → (checkPwrSet s).pwr.setWait = none ∧
        ∃ e, (checkPwrSet s).jcq.done = s.jcq.done ++ [e] ∧ e.ref = w.cmd ∧ e.status = .ok ∧ e.result = [active s])) ∧
    (∀ (c : Cmd) (s v : State) (w f : Nat) (busy : Bool), w = param c 16 2 0 12 → f = param c 18 1 0 3 → admits descPwrSet c s →
      busy = (s.pwr.setWait.isSome || (heldBefore c s).any fun x => fieldLE x.packet 0 2 == 0x0B01) →
      v = { turn c s with pwr := { s.pwr with budgetW := BitVec.ofNat 12 w, profile := BitVec.ofNat 3 f } } →
      (busy = true → settled s → exec (.pwrSet c) s = .next (holdCmd c s)) ∧
      (busy = false →
        (f < 5 → 1200 ≤ w → w ≤ 2200 → (f = 4 → s.pwr.coolingB = true) →
          floorSum s ≤ activeOf (if f = 4 then 2278 else w) →
          active v = activeOf (if f = 4 then 2278 else w) ∧
          (heldActive s ≤ active v →
            exec (.pwrSet c) s = .next (ended s (pwrSetDone (cmdRef c) (treadleStep v))) ∧
            ((∃ l ∈ s.jcq.live, l.ref = cmdRef c) → ∃ t e, exec (.pwrSet c) s = .next t ∧ t.pwr.setWait = none ∧
              t.pwr.budgetW.toNat = w ∧ t.pwr.profile.toNat = f ∧ t.jcq.done = s.jcq.done ++ [e] ∧ e.ref = cmdRef c ∧
              e.status = .ok ∧ e.result = [active v])) ∧
          (active v < heldActive s → ∃ t, exec (.pwrSet c) s = .next t ∧ t.pwr.setWait = some { cmd := cmdRef c } ∧
            t.pwr.budgetW.toNat = w ∧ t.pwr.profile.toNat = f ∧ t.jcq.done = s.jcq.done ∧ t.pwr.grants = s.pwr.grants)) ∧
        (settled s →
          (5 ≤ f → exec (.pwrSet c) s = .next (complete c .opcode [] (procUnit s c) (turn c s))) ∧
          (f < 5 → w < 1200 ∨ 2200 < w →
            exec (.pwrSet c) s = .next (complete c .lenRange [] (procUnit s c) (turn c s))) ∧
          (f = 4 → 1200 ≤ w → w ≤ 2200 → s.pwr.coolingB = false →
            exec (.pwrSet c) s = .next (complete c .denied [] (procUnit s c) (turn c s))) ∧
          (f < 4 → 1200 ≤ w → w ≤ 2200 → activeOf w < floorSum s →
            exec (.pwrSet c) s = .next (complete c .busy [] (procUnit s c) (turn c s)))))) ∧
    ∀ (c : Cmd) (s : State), settled s → admits descPwrQuery c s → exec (.pwrQuery c) s = .next (complete c .ok
      [active s, heldActive s, s.pwr.measuredMw.toNat / 1000, s.pwr.profile.toNat + 2 ^ 16 * effectiveW s] treadle
      (begun c s))

/-- Domains, rails, pace, temperatures and crossings (R414, R416 to R426, R516, R517). -/
def Obligations.DomainsRailsAndCrossingsFollowTheirEvents : Prop :=
  (∀ (x : Nat) (s : State), x < 80 → (domain s x).state = .on → (domain s x).policy ≠ 0 →
      (∀ y : Word64, (domain s x).idleSince = some y →
        (domain s x).idleUs.toNat * 1000 ≤ since s (dieOf (domainUnit x)) y →
        (domain s x).policy = 2 ∧ offOk s x = true ∨ retainOk s x = true → ∃ t, exec (.domainIdleExpiry x) s = .next t ∧
        domain t x = { domain s x with state := .sleeping, toOff := (domain s x).policy == 2 && offOk s x, wakeHeld := false
                                       idleSince := none } ∧
        (∀ u ∈ domainUnits x, heldUnit t u = 0) ∧ ∀ y, y ≠ x → domain t y = domain s y) ∧
      ((domain s x).policy ≠ 2 ∨ offOk s x = false → retainOk s x = false → settled s → exec (.domainIdleExpiry x) s = .next s) ∧
      ((∀ y : Word64, (domain s x).idleSince = some y →
          since s (dieOf (domainUnit x)) y < (domain s x).idleUs.toNat * 1000) → settled s →
        exec (.domainIdleExpiry x) s = .next s)) ∧
    (∀ (x : Nat) (s : State), x < 80 → settled s →
      ((domain s x).state = .on ∨ (domain s x).state = .waking → exec (.domainWake x) s = .next s) ∧
      ((domain s x).state = .sleeping → exec (.domainWake x) s = .next (setDomain x { domain s x with wakeHeld := true } s)) ∧
      ((domain s x).state = .retain ∨ (domain s x).state = .off → exec (.domainWake x) s =
        .next (setDomain x { domain s x with state := .waking, wakes := satInc (domain s x).wakes } s))) ∧
    (∀ (x : Nat) (s : State), (domain s x).state = .sleeping → ∃ t, exec (.domainTransitionComplete x) s = .next t ∧
      ((domain s x).wakeHeld = false → (domain t x).state = if (domain s x).toOff then .off else .retain) ∧
      ((domain s x).wakeHeld = true → (domain t x).state = .waking ∧ (domain t x).wakes = satInc (domain s x).wakes) ∧
      (domain t x).wakeHeld = false ∧ ((domain s x).toOff = true → 32 ≤ x → x < 64 → x % 2 = 0 → ∀ i < 32,
        (bobbinOf t (32 * ((x - 32) / 2) + i)).scratch = [] ∧ (bobbinOf t (32 * ((x - 32) / 2) + i)).code = [])) ∧
    (∀ (x : Nat) (s : State), (domain s x).state = .waking →
      (∀ h ∈ s.weft.heldMsgs, domainOf (headFlit h.msg).dest ≠ some x) → ∃ t, exec (.domainWakeComplete x) s = .next t ∧
      (x < 64 ∨ 72 ≤ x ∨ (ethp s (x - 64)).power ≠ .entering → domain t x = { domain s x with state := .on }) ∧
      (64 ≤ x → x < 72 → (ethp s (x - 64)).power = .entering → (domain t x).state = .sleeping) ∧
      ∀ y, y ≠ x → domain t y = domain s y) ∧
    (∀ (ps : List PmbPoll) (s : State), ∃ t, exec (.pmbusPoll ps) s = .next t ∧
      ((∀ d < 40, tget 0 t.pwr.dieVolt d = railVolt t 9) ∧
        (∀ x < 80, (domain t x).voltMv = railVolt t (if x < 32 then 1 else if x < 64 then 2 else 3)) ∧
        t.pwr.measuredMw = BitVec.ofNat 32 (t.pwr.vr.foldl (fun a e => a + e.2.poutMw) 0)) ∧
      ∀ i v a w mv, ps = [{ vr := i, words := some (0, v, a, w) }] → (regulator s i).valid = true →
        linear11 v 1000 = some mv → mv < 2 ^ 16 → (regulator t i).voutMv.toNat = mv ∧ (regulator t i).fails = 0 ∧
          (regulator t i).status = 0 ∧ t.pwr.vrFaultSeen = s.pwr.vrFaultSeen ∧ t.seed = s.seed + 4) ∧
    (∀ (i : Nat) (w : Option Nat) (s : State), (regulator s i).valid = true → s.fw.start = none →
      (∀ st, w = some st → faultBits st = false → settled s → exec (.pmbusAlert i w) s =
        .next (setRegulator i { regulator s i with status := BitVec.ofNat 16 st, fails := 0 } s)) ∧
      (∀ st, w = some st → faultBits st = true → ∃ t, exec (.pmbusAlert i w) s = .next t ∧ t.pwr.vrFaultSeen = true ∧
        (regulator t i).status = BitVec.ofNat 16 st ∧ .pmbus i 3 0 ∈ t.out) ∧
      (w = none → ∃ t, exec (.pmbusAlert i w) s = .next t ∧
        (regulator t i).fails = min 3 ((regulator s i).fails + 1) ∧
        t.pwr.vrFaultSeen = (s.pwr.vrFaultSeen || (regulator s i).fails == 2))) ∧
    (∀ (x pace : Nat) (s : State), x < 80 → (domain s x).state = .on →
      (paceFloor x ≤ pace % 4096 → ∃ t, exec (.paceSample x pace) s = .next t ∧
        (domain t x).pace.toNat = pace % 4096 ∧ (domain t x).lowSamples = 0 ∧ (domain t x).episode = false) ∧
      (pace % 4096 < paceFloor x → ∃ t, exec (.paceSample x pace) s = .next t ∧
        (domain t x).pace.toNat = pace % 4096 ∧ (domain t x).lowSamples = (domain s x).lowSamples + 1 ∧
        (domain t x).episode = ((domain s x).episode || decide (15 ≤ (domain s x).lowSamples)) ∧
        (15 ≤ (domain s x).lowSamples → (domain s x).episode = false → t.pwr.paceLowSeen = true))) ∧
    (∀ (x : Nat) (v : BitVec 11) (s : State), x < 80 → s.pins.porN = true →
      ∃ t, exec (.temperatureSample (.domain x) v) s = .next t ∧ (domain t x).temp = v ∧
        (4 * (s.pwr.throttleC.toNat : Int) < v.toInt → tget false t.pwr.throttled (dieOfDomain x) = true) ∧
        (460 ≤ v.toInt → 1 ≤ tget 0 s.pins.tripRuns x → s.pins.thermtripN = true → t.pins.thermtripN = false ∧
          t.pins.vrEn = false ∧ t.pins.tripped = true ∧ t.fw.start = none ∧ t.fw.ready = false ∧
          (s.pins.tripped = false → t.pins.tripDie.toNat = dieOfDomain x ∧ t.pins.tripTemp = v)) ∧
        (v.toInt < 460 → tget 0 t.pins.tripRuns x = 0 ∧ t.pins.thermtripN = s.pins.thermtripN)) ∧
    (∀ (i r : Nat) (s : State), settled s → (∀ y ∈ s.pwr.crossings, y.island = i → y.requester ≠ r) →
      exec (.crossStall i r) s = .next s) ∧
    (∀ (i r : Nat) (s : State) (y : Crossing), i < 36 → domainSleeps s (islandUnit i) = false →
      s.pwr.crossings.find? (fun x => x.island == i && x.requester == r) = some y →
      4000 ≤ since s (dieOf (islandUnit i)) y.began → ∃ t, exec (.crossStall i r) s = .next t ∧
      t.pwr.xstallMap.getLsbD i = true ∧ (∀ j, j ≠ i → t.pwr.xstallMap.getLsbD j = s.pwr.xstallMap.getLsbD j) ∧
      (s.pwr.xstallMap.getLsbD i = false → t.pwr.crossStallSeen = true ∧ t.pwr.xReset.getLsbD i = false)) ∧
    (∀ (i : Nat) (s : State), i < 36 → ∃ t, exec (.coreStall i) s = .next t ∧ t.pwr.coreStallSeen = true ∧
      t.pwr.xstallMap = s.pwr.xstallMap) ∧
    ∀ (i : Nat) (s : State), settled s → (s.pwr.xReset.getLsbD i = false → exec (.xstallClear i) s = .next s) ∧
      (s.pwr.xReset.getLsbD i = true → ∃ t, exec (.xstallClear i) s = .next t ∧ ∀ j,
        t.pwr.xstallMap.getLsbD j = (s.pwr.xstallMap.getLsbD j && j != i) ∧
        t.pwr.xReset.getLsbD j = (s.pwr.xReset.getLsbD j && j != i))

/-- Start, firmware and mailboxes (R28, R429 to R447, R485, R513 to R515). -/
def Obligations.StartsRestartsFirmwareAndMailboxes : Prop :=
  (∀ s : State, (s.pins.vddAo = true → settled s → exec .vddAoInTolerance s = .next s) ∧ (s.pins.vddAo = false → ∃ t,
        exec .vddAoInTolerance s = .next t ∧ t.pins.vddAo = true ∧ t.time = powerIslands s.seed ∧ t.fw = s.fw) ∧
      ∃ t, exec .vddAoLoss s = .next t ∧ t.time = {} ∧ t.pins.vddAo = false ∧ t.pins.tripped = false ∧ t.spl.mem = [] ∧
        t.fw.ready = false ∧ t.fw.bank = s.fw.bank ∧ t.fw.selected = s.fw.selected) ∧
    (∀ (n : Nat) (s : State), s.pins.porN = false → s.pins.vddAo = true → ∃ t, exec (.porNRelease n) s = .next t ∧
      t.pins.porN = true ∧ t.pins.straps = BitVec.ofNat 4 n ∧ t.pwr.coolingB = n.testBit 0 ∧ t.fw.warmFails = 0 ∧
      t.fw.coldFails = 0 ∧ t.fw.start = some { warm := false, done := [], at_ := frameTime s } ∧ t.spl.mem = []) ∧
    (∀ s : State, s.pins.porN = true → ∃ t, exec .porNAssert s = .next t ∧ t.pins.porN = false ∧ t.pins.vrEn = false ∧
      t.fw.ready = false ∧ t.fw.start = none ∧ t.spl.mem = [] ∧ t.fw.bank = s.fw.bank ∧ t.pins.tripped = s.pins.tripped ∧
      t.pins.tripDie = s.pins.tripDie ∧ t.time = s.time) ∧
    (∀ (n : Nat) (i : StartInfo) (s : State) (r : StartRun), s.fw.start = some r →
      (stepOpen r n = false → settled s → exec (.startStepDone n i) s = .next s) ∧
      (∀ c, stepOpen r n = true →
        (r.warm = false ∧ (n = 1 ∧ i.pass = false ∧ c = 1 ∨ n = 2 ∧ loadFirmware s = none ∧ c = 2 ∨
            n = 3 ∧ i.pass = false ∧ c = 3 ∨ n = 4 ∧ enoughDies i.dies = false ∧ c = 5) ∨
          r.warm = true ∧ (n = 1 ∧ (i.pass = false ∨ rehashFirmware s = none) ∧ c = 2 ∨ n = 2 ∧ i.pass = false ∧ c = 3 ∨
            n = 3 ∧ enoughDies i.dies = false ∧ c = 5)) → ∃ t, exec (.startStepDone n i) s = .next t ∧
        (r.warm = true → t.fw.start = some { warm := decide (s.fw.warmFails + 1 ≠ 3), done := [], at_ := frameTime s } ∧
          (s.fw.warmFails + 1 ≠ 3 → t.fw.failStep = BitVec.ofNat 4 n ∧ t.fw.failCause = BitVec.ofNat 8 c)) ∧
        (r.warm = false → s.fw.coldFails = 0 →
          t.fw.start = some { warm := false, done := [], at_ := frameTime s } ∧ t.fw.coldFails = 1) ∧
        (r.warm = false → s.fw.coldFails ≠ 0 → t.fw.start = none ∧ t.fw.safeMode = true ∧ t.pins.faultN = false ∧
          t.fw.failStep = BitVec.ofNat 4 n ∧ t.fw.failCause = BitVec.ofNat 8 c)) ∧
      (stepOpen r n = true →
        (r.warm = false ∧ (n = 1 ∧ i.pass = true ∨ n = 2 ∧ loadFirmware s ≠ none ∨ n = 3 ∧ i.pass = true ∨
            n = 4 ∧ enoughDies i.dies = true ∨ 5 ≤ n ∧ n ≤ 7) ∨
          r.warm = true ∧ (n = 1 ∧ i.pass = true ∧ rehashFirmware s ≠ none ∨ n = 2 ∧ i.pass = true ∨
            n = 3 ∧ enoughDies i.dies = true ∨ 4 ≤ n ∧ n ≤ 6)) → ∃ t, exec (.startStepDone n i) s = .next t ∧
        t.fw.start = some { r with done := r.done ++ [n] } ∧
        ((if r.warm then n = 3 else n = 4) → t.weft.diePresent = BitVec.ofNat 40 i.dies) ∧
        ((if r.warm then n = 2 else n = 3) → s.pins.porN = true → s.pins.thermtripN = true → t.pins.vrEn = true) ∧
        (r.warm = false → n = 7 → settled s → t.spl.mem = [] ∧
          ∀ g, gotState (tget 0 t.spl.got g).toNat = if g < 4 then gotDevice else gotFree)) ∧
      (stepOpen r n = true → n = (if r.warm then 7 else 8) → ∃ t, exec (.startStepDone n i) s = .next t ∧
        t.fw.ready = true ∧ t.fw.start = none ∧ t.fw.lastWarm = r.warm ∧ t.fw.warmFails = 0 ∧ t.fw.coldFails = 0 ∧
        t.cip.slot = [] ∧ t.bob.setVer = BitVec.ofNat 8 i.setVer)) ∧
    (∀ (n : Nat) (w : Bool) (s : State) (r : StartRun), s.fw.start = some r →
      (stepOpen r n = false ∨ (frameTime s - r.at_).toNat < stepBound r.warm (w || s.fw.retrained != 0) n → settled s →
        exec (.startStepOverrun n w) s = .next s) ∧
      (stepOpen r n = true → stepBound r.warm (w || s.fw.retrained != 0) n ≤ (frameTime s - r.at_).toNat → ∃ t,
        exec (.startStepOverrun n w) s = .next t ∧
        (r.warm = true → t.fw.start = some { warm := decide (s.fw.warmFails + 1 ≠ 3), done := [], at_ := frameTime s } ∧
          (s.fw.warmFails + 1 ≠ 3 → t.fw.failStep = BitVec.ofNat 4 n ∧ t.fw.failCause = BitVec.ofNat 8 4)) ∧
        (r.warm = false → s.fw.coldFails = 0 →
          t.fw.start = some { warm := false, done := [], at_ := frameTime s } ∧ t.fw.coldFails = 1) ∧
        (r.warm = false → s.fw.coldFails ≠ 0 → t.fw.start = none ∧ t.fw.safeMode = true ∧ t.pins.faultN = false ∧
          t.fw.failStep = BitVec.ofNat 4 n ∧ t.fw.failCause = BitVec.ofNat 8 4))) ∧
    (∀ (c : Cmd) (s : State), admits descDevRestart c s → (s.fw.restart = none → ∃ t,
        exec (.devRestart c) s = .next t ∧
        t.fw.restart = some { cold := param c 16 1 0 1 == 1, cmd := cmdRef c, at_ := frameTime s } ∧
        (∀ l ∈ t.jcq.live, l.ref = cmdRef c → False) ∧ (∀ k ∈ t.jcq.skein, k.2.fetching = false ∧ k.2.fetched = []) ∧
        ((∃ l ∈ s.jcq.live, l.ref = cmdRef c) → (∀ l ∈ s.bob.launch, l.cmd ≠ cmdRef c) →
          ∃ e, t.jcq.done.getLast? = some e ∧ e.ref = cmdRef c ∧ e.status = .ok)) ∧
      (s.fw.restart ≠ none → settled s →
        exec (.devRestart c) s = .next (complete c .aborted [] (procUnit s c) (begun c s)))) ∧
    (∀ s : State, (s.fw.restart = none → settled s → exec .restartDeadline s = .next s) ∧ (∀ r, s.fw.restart = some r →
        (frameTime s - r.at_).toNat < 1000000 → settled s → exec .restartDeadline s = .next s) ∧
      (∀ r, s.fw.restart = some r → 1000000 ≤ (frameTime s - r.at_).toNat → ∃ t, exec .restartDeadline s = .next t ∧
        t.fw.start = some { warm := !r.cold, done := [], at_ := frameTime s } ∧ t.fw.restart = none) ∧
      ∀ x, s.fw.pkgReset = some x → ((frameTime s - x).toNat < 1000 → settled s → exec .packageReset s = .next s) ∧
        (1000 ≤ (frameTime s - x).toNat → ∃ t, exec .packageReset s = .next t ∧ t.fw.pkgReset = none ∧
          t.fw.start = some { warm := true, done := [], at_ := frameTime s } ∧ t.spl.mem = s.spl.mem)) ∧
    (∀ (c : Cmd) (s v : State) (bs : List Byte) (off : Nat), off = fieldLE c.packet 16 4 →
      admits descFwDownload c s → cmdLength c % 4096 = 0 → off % 4096 = 0 → off + cmdLength c ≤ 2 ^ 24 →
      bufRead frameServices c.part (param c 22 2 0 16) (fieldLE c.packet 24 8) (cmdLength c) c.ext (begun c s) =
        (v, .ok, bs) → exec (.fwDownload c) s = .next (ended s (complete c .ok [] frameServices
          (bankWrite (spareBank s) off (slice bs 0 (cmdLength c)) v))) ∧
      ∃ t, exec (.fwDownload c) s = .next t ∧ bankRead t (spareBank s) off (cmdLength c) = slice bs 0 (cmdLength c) ∧
        (∀ b, b ≠ spareBank s → tget ({} : Bank) t.fw.bank b = tget {} s.fw.bank b) ∧ t.fw.selected = s.fw.selected) ∧
    (∀ (c : Cmd) (s : State) (img : List Byte), img = bankImage s (spareBank s) → admits descFwActivate c s →
      (∃ l ∈ s.jcq.live, l.ref = cmdRef c) →
      ∃ t e, exec (.fwActivate c) s = .next t ∧ t.jcq.done = s.jcq.done ++ [e] ∧ e.ref = cmdRef c ∧
        (∀ x, verifyImage false (minSvn s) img = some x → e.status = badStatus x ∧ t.fw = s.fw) ∧
        (verifyImage false (minSvn s) img = none → e.status = .ok ∧
          e.result = [bits (imgBuild img) 0 32, bits (imgBuild img) 32 32] ∧ t.fw.selected = !s.fw.selected ∧
          t.fw.activated = true ∧ bankDigest t (spareBank s) = sha256 (imgSigned img) ∧
          (param c 16 1 0 1 ≠ 1 → t.fw.minSvnRaised = s.fw.minSvnRaised))) ∧
    (∀ (c : Cmd) (s : State) (m : Nat) (x : Mailbox), m = cmdMbox c → x = mbox s m → admits descMboxSend c s →
      bit (cmdFlags c) 2 = true →
      (maySend x (mailSender c) = false → settled s →
        exec (.mboxSend c) s = .next (complete c .denied [] (procUnit s c) (begun c s))) ∧
      (maySend x (mailSender c) = true →
      (x.full = true → settled s → exec (.mboxSend c) s = .next (complete c .busy [] (procUnit s c) (begun c s))) ∧
      (x.full = false → ownerReset s x = true → settled s →
        exec (.mboxSend c) s = .next (complete c .aborted [] (procUnit s c) (begun c s))) ∧
      (x.full = false → ownerReset s x = false → ownerFenced s x = true → settled s →
        exec (.mboxSend c) s = .next (complete c .fenced [] (procUnit s c) (begun c s))) ∧
      (x.full = false → ownerReset s x = false → ownerFenced s x = false → ∃ t, exec (.mboxSend c) s = .next t ∧
        t = ended s (complete c .ok [] mailboxes (mailGo (mailSender c) m
          (storePayload m (slice (c.packet.drop 64) 0 56) (begun c s)))) ∧ (mbox t m).full = true ∧
        (mbox t m).nack = false ∧ (mbox t m).seq = x.seq + 1 ∧ (mbox t m).part = BitVec.ofNat 6 c.part ∧
        (mbox t m).cls = (if c.part = 0 then 0 else 1) ∧ (∀ i < 14, tget 0 (mbox t m).payload i =
          BitVec.ofNat 32 (fieldLE (slice (c.packet.drop 64) 0 56) (4 * i) 4)) ∧ ∀ k, k ≠ m → mbox t k = mbox s k))) ∧
    ∀ (c : Cmd) (s : State) (m : Nat) (x : Mailbox), m = cmdMbox c → x = mbox s m → admits descMboxRead c s →
      (x.ownerPartition = false ∨ x.ownerPart.toNat ≠ c.part → settled s →
        exec (.mboxRead c) s = .next (complete c .denied [] (procUnit s c) (begun c s))) ∧
      (x.ownerPartition = true → x.ownerPart.toNat = c.part →
      (x.full = false → settled s → exec (.mboxRead c) s = .next (complete c .ok [0] mailboxes (begun c s))) ∧
      ∀ v, x.full = true → bufWrite mailboxes c.part (param c 18 2 0 16) (fieldLE c.packet 24 8)
          ((List.range 16).flatMap fun w => leBytes 4 (mailWord x w)) (begun c s) = (v, .ok) →
        exec (.mboxRead c) s = .next (ended s (complete c .ok [1] mailboxes (setMbox m { mbox v m with full := false } v))) ∧
        ∃ t, exec (.mboxRead c) s = .next t ∧ mbox t m = { x with full := false })

/-- Fences, tests and records (R448 to R474). -/
def Obligations.SelvedgeFencesTestsAndRecords : Prop :=
  (∀ (u i : Nat) (s : State), dieOf u = 38 → validUnit u = true → ∃ t, exec (.lockstepMiscompare u i) s = .next t ∧
      t.fw.start = some { warm := true, done := [], at_ := frameTime s } ∧ t.saf.lockstepSeen = true ∧
      (occupied s < 1024 → t.saf.nextSeq = s.saf.nextSeq + 1 ∧ ∃ r, tget none t.saf.ring (s.saf.nextSeq.toNat % 1024) = some r ∧
        r.unit = u ∧ r.cause = 0x0701 ∧ r.cls = 3)) ∧
    (∀ s : State, (s.saf.detected = [] → settled s → exec .faultReport s = .next s) ∧
      ∀ r rest, s.saf.detected = r :: rest → r.cause ≠ 0x0601 →
        (fenced s r.unit = true → settled s → exec .faultReport s =
          .next { s with saf := { s.saf with detected := rest, repeats := satInc s.saf.repeats } }) ∧
        (fenced s r.unit = false → validUnit r.unit = true → ∃ t, exec .faultReport s = .next t ∧
          fenced t r.unit = true ∧ t.saf.fenceSeen = true ∧ ∀ u ∈ dependents r.unit, validUnit u = true → fenced t u = true)) ∧
    (∀ (n : Nat) (upset : Bool) (s : State), n < 16 → inService s (controller n) = true →
      (∀ x ∈ s.spl.updates, x.unit ≠ controller n) →
      (compareDue s (controller n) = false → settled s → exec (.copyCompare (controller n) upset) s = .next s) ∧
      (compareDue s (controller n) = true →
      (upset = false → tget [] s.spl.gotCopy n = s.spl.got → tget [] s.spl.ctxCopy n = s.hdl.ctxPart → settled s →
        exec (.copyCompare (controller n) upset) s = .next { s with saf := { s.saf with
          compareAt := tset 0 s.saf.compareAt (controller n) (unitTime s (controller n)) } }) ∧
      (upset = true ∨ tget [] s.spl.gotCopy n ≠ s.spl.got ∨ tget [] s.spl.ctxCopy n ≠ s.hdl.ctxPart → ∃ t,
        exec (.copyCompare (controller n) upset) s = .next t ∧ t.saf.copyMismatchSeen = true ∧
        tget [] t.spl.gotCopy n = s.spl.got ∧ tget [] t.spl.ctxCopy n = s.hdl.ctxPart))) ∧
    (∀ (h : Nat) (upset : Bool) (s : State), h < 8 → inService s (heddle h) = true → (∀ x ∈ s.spl.updates, x.unit ≠ heddle h) →
      compareDue s (heddle h) = true →
      (upset = false → tget [] s.hdl.ctxCopy h = s.hdl.ctxPart → settled s → exec (.copyCompare (heddle h) upset) s =
        .next { s with saf := { s.saf with compareAt := tset 0 s.saf.compareAt (heddle h) (unitTime s (heddle h)) } }) ∧
      (upset = true ∨ tget [] s.hdl.ctxCopy h ≠ s.hdl.ctxPart → ∃ t, exec (.copyCompare (heddle h) upset) s = .next t ∧
        t.saf.copyMismatchSeen = true ∧ tget [] t.hdl.ctxCopy h = s.hdl.ctxPart)) ∧
    (∀ (u : Nat) (s : State), settled s → (∀ x ∈ s.saf.slices, x.unit ≠ u) → exec (.testSliceStart u) s = .next
      (if s.fw.ready = true ∧ s.saf.testEnable = true ∧ tested s u = true ∧ unitBusy s u = false then { s with saf :=
        { s.saf with slices := s.saf.slices ++ [{ unit := u, vector := tget 0 s.saf.nextVector u }] } } else s)) ∧
    (∀ (u ran : Nat) (s : State) (x : TestSlice), settled s → s.saf.slices.find? (fun x => x.unit == u) = some x →
      (∀ v, ∃ t r, exec (.testSliceEnd u ran (some v)) s = .next t ∧ t.saf.testFailSeen = true ∧
        t.saf.detected = s.saf.detected ++ [r] ∧ r.unit = u ∧ r.cause = 0x0703 ∧ r.info0 = v ∧ ∀ y ∈ t.saf.slices, y.unit ≠ u) ∧
      ∃ t, exec (.testSliceEnd u ran none) s = .next t ∧ (∀ y ∈ t.saf.slices, y.unit ≠ u) ∧
        (vectorsFor s u ≤ x.vector + ran → tget 0 t.saf.nextVector u = 0 ∧ tget 0 t.saf.passAt u = frameTime s) ∧
        (x.vector + ran < vectorsFor s u → tget 0 t.saf.nextVector u = x.vector + ran ∧ t.saf.passAt = s.saf.passAt)) ∧
    (∀ (u : Nat) (s : State), settled s → s.saf.testEnable = true → tested s u = true →
      ((frameTime s - tget 0 s.saf.passAt u).toNat < s.saf.testPeriodMs.toNat * 1000000 →
        exec (.testPeriodExpiry u) s = .next s) ∧
      (s.saf.testPeriodMs.toNat * 1000000 ≤ (frameTime s - tget 0 s.saf.passAt u).toNat → ∃ t,
        exec (.testPeriodExpiry u) s = .next t ∧ (safUnit t u).testLate = true ∧ t.saf.testLateSeen = true ∧
        tget 0 t.saf.passAt u = frameTime s ∧ fenced t u = fenced s u)) ∧
    (∀ (c : Cmd) (s : State) (rs : List Record) (q : BitVec 32), admits descSafRead c s → cmdLength c % 64 = 0 →
      collectRecords s c.part 1024 (firstSeq s (fieldLE c.packet 16 4)) (cmdLength c / 64) = (rs, q) →
      (rs = [] → settled s → exec (.safRead c) s = .next (complete c .ok [0, q.toNat] selvedge (begun c s))) ∧
      ∀ v st, rs ≠ [] → bufWrite selvedge c.part (param c 22 2 0 16) (fieldLE c.packet 24 8) (rs.flatMap recordBytes)
          (begun c s) = (v, st) → exec (.safRead c) s = .next (ended s
        (complete c st (if st = .ok then [rs.length, q.toNat] else []) selvedge v))) ∧
    (∀ (c : Cmd) (s : State) (q : BitVec 32), settled s → q = BitVec.ofNat 32 (fieldLE c.packet 16 4) →
      admits descSafAck c s →
      (0 ≤ (q - s.saf.head).toInt → (q - s.saf.nextSeq).toInt ≤ 0 → exec (.safAck c) s =
        .next (complete c .ok [] selvedge { begun c s with saf := { s.saf with head := q } })) ∧
      ((q - s.saf.head).toInt < 0 ∨ 0 < (q - s.saf.nextSeq).toInt →
        exec (.safAck c) s = .next (complete c .bounds [] (procUnit s c) (begun c s)))) ∧
    (∀ (c : Cmd) (s : State) (u : Nat), u = cmdUnit c → admits descSafFence c s → unitArgBad s u = false →
      (unfenceable u = true → settled s →
        exec (.safFence c) s = .next (complete c .denied [] (procUnit s c) (begun c s))) ∧
      (unfenceable u = false → fenced s u = false → beingFenced s u = true → settled s →
        exec (.safFence c) s = .next (complete c .ok [] selvedge (begun c s))) ∧
      (unfenceable u = false → fenced s u = false → beingFenced s u = false → ∃ t, exec (.safFence c) s = .next t ∧
        t = ended s (complete c .ok [] selvedge (fenceOn (mkRecord s u 0x0704) (fencedWith u) (begun c s))) ∧
        fenced t u = true ∧ ∀ x ∈ dependents u, validUnit x = true → fenced t x = true) ∧
      (unfenceable u = false → fenced s u = true → settled s →
        exec (.safFence c) s = .next (complete c .busy [] (procUnit s c) (begun c s)))) ∧
    (∀ (c : Cmd) (s : State) (u : Nat), u = cmdUnit c → admits descSafUnfence c s → unitArgBad s u = false →
      fenced s u = true → unfencePermitted u = true → (safUnit s u).dependent = false →
      (∃ v, exec (.safUnfence c none) s = .next (ended s (complete c .ok [vectorsFor s u] selvedge v)) ∧
        fenced v u = false ∧ (∀ x, x ≠ u → fenced v x = fenced s x) ∧
        (classOf u = 5 → (bobbinOf v (32 * (dieOf u - 8) + instOf u)).state = .zeroing)) ∧
      ∀ v, settled s → exec (.safUnfence c (some v)) s = .next (complete c .checkFail [] (procUnit s c) (begun c s))) ∧
    (∀ (c : Cmd) (s : State) (u : Nat), u = cmdUnit c → admits descSafTestRun c s → unitArgBad s u = false → settled s →
      (fenced s u = true → exec (.safTestRun c none) s = .next (complete c .fenced [] (procUnit s c) (begun c s))) ∧
      (fenced s u = false → (unitBusy s u = false →
        exec (.safTestRun c none) s = .next (complete c .ok [vectorsFor s u] selvedge { begun c s with
          saf := { s.saf with nextVector := tset 0 s.saf.nextVector u 0
                              passAt := tset 0 s.saf.passAt u (frameTime s) } }) ∧
        ∀ v, ∃ t r, exec (.safTestRun c (some v)) s = .next t ∧
          t = ended s (complete c .checkFail [] selvedge (testFails u v (begun c s))) ∧
          t.saf.detected = s.saf.detected ++ [r] ∧ r.unit = u ∧ r.cause = 0x0703 ∧ r.info0 = v) ∧
        (unitBusy s u = true →
          exec (.safTestRun c none) s = .next (complete c .busy [] (procUnit s c) (begun c s))))) ∧
    ∀ (c : Cmd) (s v : State) (bs : List Byte), admits descSafTestLoad c s →
      bufRead selvedge c.part (param c 22 2 0 16) (fieldLE c.packet 24 8) (cmdLength c) c.ext (begun c s) = (v, .ok, bs) →
        (bs.length ≠ 4096 + imgBodyLen bs →
          exec (.safTestLoad c) s = .next (ended s (complete c .opcode [] selvedge v))) ∧
        (∀ x, bs.length = 4096 + imgBodyLen bs → verifyImage true (minSvn v) bs = some x →
          exec (.safTestLoad c) s = .next (ended s (complete c (badStatus x) [] selvedge v))) ∧
        (bs.length = 4096 + imgBodyLen bs → verifyImage true (minSvn v) bs = none → ∃ p,
          exec (.safTestLoad c) s = .next (ended s (complete c .ok [imgBuild bs % 2 ^ 32, imgBuild bs / 2 ^ 32] selvedge
            { v with saf := { v.saf with pkg := some p, nextVector := [] } })) ∧
          p.bytes = bs ∧ p.build = imgBuild bs ∧ p.classMask = fieldLE bs 32 2)

/-- Hangs, resets, dumps and counters (R475 to R503). -/
def Obligations.HangsResetsDumpsAndCounterCommands : Prop :=
  (∀ (c : Cmd) (s : State), admits descHeartbeat c s → cmdLength c % 2 = 0 →
      ∀ bs v, bs = ((stalledUnits s).take (cmdLength c / 2)).flatMap (leBytes 2) → (bs = [] ∧ v = beat (begun c s) ∨ bs ≠ [] ∧
        bufWrite frameServices c.part (param c 22 2 0 16) (fieldLE c.packet 24 8) bs (beat (begun c s)) = (v, .ok)) →
      exec (.heartbeat c) s = .next (ended s (complete c .ok [(s.hang.hbCount + 1).toNat, (stalledUnits s).length]
        frameServices v)) ∧ ∃ t, exec (.heartbeat c) s = .next t ∧
        t.hang.hbCount = s.hang.hbCount + 1 ∧ t.hang.hbAt = frameTime s ∧ t.hang.itemsAt = s.hang.items) ∧
    (∀ s : State, settled s → s.fw.ready = true → exec .hbPeriodExpiry s = .next
      (if (frameTime s - s.hang.hbAt).toNat < s.hang.hbPeriodMs.toNat * 1000000 then s
        else { s with hang := { s.hang with hbMissed := true } })) ∧
    (∀ (c : Cmd) (s : State), settled s → admits descHangMode c s → param c 16 1 0 2 ≠ 3 →
      (recovering s = false → exec (.hangMode c) s = .next (complete c .ok [] frameServices
        { begun c s with hang := { s.hang with mode := BitVec.ofNat 2 (param c 16 1 0 2) } })) ∧
      (recovering s = true → exec (.hangMode c) s = .next (complete c .ok [] frameServices
        { begun c s with hang := { s.hang with prevMode := BitVec.ofNat 2 (param c 16 1 0 2) } }))) ∧
    (∀ s : State, (runMode s = 0 ∨ (frameTime s - s.hang.wfdAt).toNat < s.hang.wfdPeriodUs.toNat * 1000 → settled s →
        exec .wfdCollect s = .next s) ∧
      (runMode s ≠ 0 → s.hang.wfdPeriodUs.toNat * 1000 ≤ (frameTime s - s.hang.wfdAt).toNat → ∃ t,
        exec .wfdCollect s = .next t ∧ t.hang.wfdAt = frameTime s ∧
        t.hang.edges.map (fun e => (e.waiter, e.holder)) = collectEdges s ∧
        (s.hang.cycleSeen = true → t.hang.wfdCycle = s.hang.wfdCycle ∧ t.hang.cycleSeen = true))) ∧
    (∀ (c : Cmd) (s : State) (u l : Nat), u = cmdUnit c → l = param c 18 1 0 2 → admits descUnitReset c s → l ≠ 3 →
      (firstFail (resetFails s u l) = none → ∃ t, exec (.unitReset c) s = .next t ∧
        t.hang.resets = s.hang.resets.filter (fun x => x.unit != u) ++ [
          { unit := u, level := l, replay := param c 18 1 2 1 == 1, at_ := unitTime s u, cmd := some (cmdRef c) }] ∧
        t.hang.levelReached = BitVec.ofNat 2 l ∧ t.jcq.done = s.jcq.done ∧ ∀ x, covers u l x = true → inReset t x = true) ∧
      (∀ st, firstFail (resetFails s u l) = some st → settled s →
        exec (.unitReset c) s = .next (complete c st [] (procUnit s c) (begun c s)))) ∧
    (∀ (u : Nat) (s v : State) (r : ResetRun), findReset s u = some r → s.sht.pushDone = [] →
      (v = putReset { r with reached := true } s ∧ (∀ i, s.hang.iso = some i → r.iso = true → i.cur ≠ none) ∨
        ∃ i w, s.hang.iso = some i ∧ r.iso = true ∧ i.cur = none ∧ w = putReset { r with reached := true } s ∧
          v = setHang { w.hang with iso := some { i with suspects := findSuspects w u } } w) →
      (r.reached = true → settled s → exec (.resetReached u) s = .next s) ∧
      (r.reached = false → (∀ x ∈ coveredUnits s r, domainSleeps s x = false) →
        exec (.resetReached u) s = .next (ended s (reedNotice ((coveredUnits s r).foldl (unitReset r.replay r.iso)
          v)))) ∧
      (r.reached = false → settled s → exec (.resetLeft u) s = .next s) ∧
      (r.reached = true → s.hang.iso = none → ∃ t, exec (.resetLeft u) s = .next t ∧ findReset t u = none ∧
        (∀ x ∈ coveredUnits s r, tget false t.hang.hung x = false) ∧
        ∀ x, r.cmd = some x → (∃ l ∈ s.jcq.live, l.ref = x) → ∃ e, t.jcq.done = s.jcq.done ++ [e] ∧ e.ref = x ∧ e.status = .ok ∧ e.result = [r.level]) ∧
      (∀ l, r.reached = true ∨ (unitTime s u - r.at_).toNat < 1000000 → settled s →
        exec (.resetEscalation u l) s = .next s) ∧
      ∀ l, r.reached = false → (∀ x ∈ coveredUnits s r, domainSleeps s x = false) →
        1000000 ≤ (unitTime s u - r.at_).toNat → s.hang.pkgNeeded = false → ∃ t,
        exec (.resetEscalation u l) s = .next t ∧ t.hang.escalated = true ∧
        (r.level < 2 → t.hang.levelReached = BitVec.ofNat 2 (r.level + 1) ∧ ∃ x ∈ t.hang.resets,
          x.unit = u ∧ x.level = r.level + 1 ∧ x.raised = true ∧ x.iso = false ∧ x.cmd = r.cmd) ∧
        (2 ≤ r.level → t.hang.pkgNeeded = true ∧ t.hang.levelReached = 3 ∧ t.pins.faultN = false)) ∧
    (∀ (c : Cmd) (s : State) (u m : Nat), u = cmdUnit c → m = param c 18 2 0 16 → admits descHangIsolate c s →
      unitArgBad s u = false → isolable u = true → fenced s u = false → resetBusy s u = false → 0 < m → m ≤ 1000 →
      cmdLength c % 8 = 0 → ∃ t i, exec (.hangIsolate c) s = .next t ∧ t.hang.iso = some i ∧
        i.unit = u ∧ i.tmoMs = m ∧ i.cmd = cmdRef c ∧ i.suspects = [] ∧ t.hang.mode = (if recovering s then s.hang.mode else 2) ∧
        t.jcq.done = s.jcq.done ∧ ∃ r ∈ t.hang.resets, r.unit = u ∧ r.level = 0 ∧ r.replay = true ∧ r.iso = true) ∧
    (∀ s : State, s.sht.pushDone = [] → (s.hang.iso = none → settled s → exec .isolationSuspectTimeout s = .next s) ∧
      ∀ i k x, s.hang.iso = some i → i.cur = some k → i.suspects[k]? = some x → x.guilty = false →
        suspectBusy s i.unit x = true → workItems s i.unit = i.items →
        ((unitTime s i.unit - i.at_).toNat < i.tmoMs * 1000000 → settled s → exec .isolationSuspectTimeout s = .next s) ∧
        (i.tmoMs * 1000000 ≤ (unitTime s i.unit - i.at_).toNat → ∃ t, exec .isolationSuspectTimeout s = .next t ∧
          t = ended s (reedNotice (applyReset { unit := i.unit, level := 0, replay := true, at_ := 0, iso := true }
            (condemn i.unit x (setHang { s.hang with iso := some { i with
              suspects := i.suspects.map fun y => if y = x then { y with guilty := true } else y } } s)))))) ∧
    (∀ (c : Cmd) (s : State), admits descHangDump c s →
      (s.hang.dump ≠ none ∨ (heldBefore c s).any (fun x => fieldLE x.packet 0 2 == 0x0934) = true → settled s →
        exec (.hangDump c) s = .next (holdCmd c s)) ∧
      (s.hang.dump = none → (heldBefore c s).any (fun x => fieldLE x.packet 0 2 == 0x0934) = false →
      (dumpAllowed s (param c 16 1 0 1 == 1) = true →
        ∃ t, exec (.hangDump c) s = .next t ∧ t = ended s (startDump 0 (some (cmdRef c)) none (turn c s)) ∧
          ∀ u rest, dumpList = u :: rest → diePresent s (dieOf u) = true → tget false s.hang.hung u = false →
            inReset s u = false → t.hang.dump = some { cause := 0, mode := runMode s, start := frameTime s, left := dumpList
                                                       readAt := frameTime s, cmd := some (cmdRef c) }) ∧
      (dumpAllowed s (param c 16 1 0 1 == 1) = false → settled s →
        exec (.hangDump c) s = .next (complete c .busy [] (procUnit s c) (turn c s))))) ∧
    (∀ (s : State) (d : DumpRun) (u x : Nat) (rest : List Nat), s.hang.dump = some d → d.left = u :: x :: rest →
      diePresent s (dieOf x) = true → tget false s.hang.hung x = false → inReset s x = false →
      (∀ bs, ∃ t d', exec (.dumpUnitReadDone bs) s = .next t ∧ t.hang.dump = some d' ∧ d'.left = x :: rest ∧
        d'.data = d.data ++ [bs.take 16384] ∧ ∃ e, d'.entries = d.entries ++ [e] ∧ e.unit = u ∧ e.status = 0 ∧
          e.length = (bs.take 16384).length ∧ e.crc = crc32c (bs.take 16384)) ∧
      ((frameTime s - d.readAt).toNat < 10000 → settled s → exec .dumpUnitTimeout s = .next s) ∧
      (10000 ≤ (frameTime s - d.readAt).toNat → x ≠ u → ∃ t d', exec .dumpUnitTimeout s = .next t ∧ t.hang.dump = some d' ∧
        d'.left = x :: rest ∧ tget false t.hang.hung u = true ∧ d'.data = d.data ∧
        ∃ e, d'.entries = d.entries ++ [e] ∧ e.unit = u ∧ e.status = 2)) ∧
    (∀ (c : Cmd) (s : State), admits descDumpCopy c s →
      (s.hang.dumpValid = false → settled s →
        exec (.dumpCopy c) s = .next (complete c .busy [] (procUnit s c) (begun c s))) ∧
      (s.hang.dumpValid = true → cmdLength c < s.hang.dumpTotal → settled s →
        exec (.dumpCopy c) s = .next (complete c .bounds [s.hang.dumpTotal] (procUnit s c) (begun c s))) ∧
      ∀ v w bs, s.hang.dumpValid = true → s.hang.dumpTotal ≤ cmdLength c →
        spoolRead frameServices 0 0x3F000000 s.hang.dumpTotal (begun c s) = (v, .ok, bs) →
        bufWrite frameServices c.part (param c 22 2 0 16) (fieldLE c.packet 24 8) bs v = (w, .ok) →
        exec (.dumpCopy c) s = .next (ended s (complete c .ok [bs.length] frameServices
          { w with hang := { w.hang with dumpCopied := true } }))) ∧
    (∀ (c : Cmd) (s : State) (us : List Nat), us = selectedUnits s (cntClassMask c) (cntDieMask c) → classBad c = false →
      (admits descCntSnapshot c s → cmdLength c % 128 = 0 →
        (cmdLength c < 128 * us.length → settled s →
          exec (.cntSnapshot c) s = .next (complete c .bounds [0, us.length] (procUnit s c) (begun c s))) ∧
        ∀ v, us ≠ [] → 128 * us.length ≤ cmdLength c → bufWrite (procUnit s c) c.part (cntCtx c) (cntPa c)
            (us.flatMap fun u => counterRecord s u (s.cnt.rounds + 1).toNat false)
            { begun c s with cnt := { s.cnt with rounds := s.cnt.rounds + 1 } } = (v, .ok) →
          exec (.cntSnapshot c) s = .next (ended s (complete c .ok [us.length, us.length, (s.cnt.rounds + 1).toNat]
            (procUnit s c) v))) ∧
      (admits descCntProfile c s → settled s → (param c 18 2 0 16 = 0 ∨ 10 ≤ param c 18 2 0 16) →
        7 ≤ param c 20 1 0 5 → param c 20 1 0 5 ≤ 20 → us.length ≤ 2 ^ param c 20 1 0 5 → ∃ r,
        exec (.cntProfile c) s = .next (complete c .ok [us.length] (procUnit s c)
          { begun c s with cnt := { s.cnt with prof := r, head := 0, tail := 0 } }) ∧
        (param c 18 2 0 16 = 0 → r = none) ∧ (param c 18 2 0 16 ≠ 0 → ∃ p, r = some p ∧
          p.periodUs = param c 18 2 0 16 ∧ p.log2 = param c 20 1 0 5 ∧ p.part = c.part ∧ p.last = frameTime s)) ∧
      (admits descCntProfile c s → settled s → (param c 18 2 0 16 ≠ 0 ∧ param c 18 2 0 16 < 10) ∨ param c 20 1 0 5 < 7 ∨
          20 < param c 20 1 0 5 ∨ 2 ^ param c 20 1 0 5 < us.length →
        exec (.cntProfile c) s = .next (complete c .lenRange [] (procUnit s c) (begun c s))) ∧
      (admits descCntClear c s → settled s → ∃ t, exec (.cntClear c) s = .next t ∧
        t = complete c .ok [] (procUnit s c) { begun c s with cnt := { s.cnt with
          bank := s.cnt.bank.filter fun e => !us.contains (e.1 / 16) } } ∧
        ∀ u i, i < 16 → unitCount t u i = if u ∈ us then 0 else unitCount s u i)) ∧
    (∀ (s : State), (s.cnt.prof = none → settled s → exec .profileRound s = .next s) ∧
      ∀ p us, s.cnt.prof = some p → us = selectedUnits s p.classMask.toNat p.dieMask.toNat →
        ((frameTime s - p.last).toNat < p.periodUs * 1000 → settled s → exec .profileRound s = .next s) ∧
        (p.periodUs * 1000 ≤ (frameTime s - p.last).toNat → 2 ^ p.log2 < (s.cnt.tail - s.cnt.head).toNat + us.length →
          settled s → exec .profileRound s = .next { s with cnt := { s.cnt with
            prof := some { p with last := p.last + BitVec.ofNat 64 (p.periodUs * 1000) }, skip := satInc s.cnt.skip, profSkipSeen := true } }) ∧
        (p.periodUs * 1000 ≤ (frameTime s - p.last).toNat → (s.cnt.tail - s.cnt.head).toNat + us.length ≤ 2 ^ p.log2 →
          ∃ t, exec .profileRound s = .next t ∧ t.cnt.tail = s.cnt.tail + BitVec.ofNat 21 us.length ∧
            t.cnt.rounds = s.cnt.rounds + 1 ∧ t.cnt.head = s.cnt.head ∧
            t.cnt.prof = some { p with last := p.last + BitVec.ofNat 64 (p.periodUs * 1000) })) ∧
    ∀ (c : Cmd) (s v : State), admits descCntPartRead c s → cmdLength c = 64 →
      bufWrite (ownerUnit s (.admin c.part)) c.part (cntCtx c) (cntPa c)
        ((List.range 8).flatMap fun i => leBytes 8 (partCount s c.part i).toNat) (begun c s) = (v, .ok) →
      exec (.cntPartRead c) s = .next (ended s (complete c .ok [] (ownerUnit s (.admin c.part)) v))
end

