-- ==== Sys2Proof/Laws/Tab.lean ====
section
/-! SUPPORT. Laws of the canonical tables that hold memory and indexed registers: what a write changes, and that it keeps the
canonical form. -/

namespace Sys2Proof.Machine

variable {α : Type}

theorem tget_tdel_same (d : α) (t : Tab α) (i : Nat) : tget d (tdel t i) i = d := by
  induction t with
  | nil => rfl
  | cons e r ih =>
    simp only [tdel, List.filter_cons, bne_iff_ne, ne_eq] at ih ⊢
    split
    · rename_i h
      simpa [tget, h] using ih
    · exact ih

theorem tget_tdel_other (d : α) (t : Tab α) {i j : Nat} (h : j ≠ i) : tget d (tdel t i) j = tget d t j := by
  induction t with
  | nil => rfl
  | cons e r ih =>
    simp only [tdel, List.filter_cons, bne_iff_ne, ne_eq] at ih ⊢
    split
    · simp only [tget, ih]
    · rename_i hc
      have he : e.1 = i := by simpa using hc
      rw [ih]
      simp [tget, he, Ne.symm h]

theorem tget_tins_same (d : α) (t : Tab α) (i : Nat) (v : α) (h : ∀ e ∈ t, e.1 ≠ i) : tget d (tins t i v) i = v := by
  induction t with
  | nil => simp [tins, tget]
  | cons e r ih =>
    have he := h e (by simp)
    have hr : ∀ x ∈ r, x.1 ≠ i := fun x hx => h x (by simp [hx])
    simp only [tins]
    split
    · simp [tget]
    · simp [tget, he, ih hr]

theorem tget_tins_other (d : α) (t : Tab α) {i j : Nat} (v : α) (h : j ≠ i) : tget d (tins t i v) j = tget d t j := by
  induction t with
  | nil => simp [tins, tget, Ne.symm h]
  | cons e r ih =>
    simp only [tins]
    split
    · simp [tget, Ne.symm h]
    · simp only [tget, ih]

theorem tdel_fst_ne (t : Tab α) (i : Nat) : ∀ e ∈ tdel t i, e.1 ≠ i := by
  intro e he
  simp only [tdel, List.mem_filter, bne_iff_ne, ne_eq] at he
  exact he.2

/-- A write is read back. -/
@[simp] theorem tget_tset_same [DecidableEq α] (d : α) (t : Tab α) (i : Nat) (v : α) : tget d (tset d t i v) i = v := by
  unfold tset
  split
  · rename_i h
    rw [tget_tdel_same, h]
  · exact tget_tins_same d _ i v (tdel_fst_ne t i)

/-- A write leaves every other number alone. -/
theorem tget_tset_other [DecidableEq α] (d : α) (t : Tab α) {i j : Nat} (v : α) (h : j ≠ i) :
    tget d (tset d t i v) j = tget d t j := by
  unfold tset
  split
  · exact tget_tdel_other d t h
  · rw [tget_tins_other d _ v h, tget_tdel_other d t h]

theorem tget_tset [DecidableEq α] (d : α) (t : Tab α) (i j : Nat) (v : α) :
    tget d (tset d t i v) j = if j = i then v else tget d t j := by
  split
  · rename_i h
    rw [h, tget_tset_same]
  · exact tget_tset_other d t v ‹_›

theorem tget_tmod [DecidableEq α] (d : α) (t : Tab α) (i j : Nat) (f : α → α) :
    tget d (tmod d t i f) j = if j = i then f (tget d t i) else tget d t j := tget_tset d t i j _

/-! ## The canonical form -/

theorem tsorted_filter (p : Nat × α → Bool) (t : Tab α) (h : tsorted t = true) : tsorted (t.filter p) = true := by
  induction t with
  | nil => rfl
  | cons e r ih =>
    simp only [tsorted, Bool.and_eq_true, List.all_eq_true, decide_eq_true_eq] at h
    rw [List.filter_cons]
    split
    · simp only [tsorted, Bool.and_eq_true, List.all_eq_true, decide_eq_true_eq]
      exact ⟨fun x hx => h.1 x (List.mem_filter.mp hx).1, ih h.2⟩
    · exact ih h.2

theorem mem_tins (t : Tab α) (i : Nat) (v : α) (x : Nat × α) : x ∈ tins t i v ↔ x = (i, v) ∨ x ∈ t := by
  induction t with
  | nil => simp [tins]
  | cons e r ih =>
    simp only [tins]
    split
    · simp
    · simp only [List.mem_cons, ih]
      tauto

theorem tsorted_tins (t : Tab α) (i : Nat) (v : α) (h : tsorted t = true) (hi : ∀ e ∈ t, e.1 ≠ i) :
    tsorted (tins t i v) = true := by
  induction t with
  | nil => rfl
  | cons e r ih =>
    have h' := h
    simp only [tsorted, Bool.and_eq_true, List.all_eq_true, decide_eq_true_eq] at h
    have he := hi e (by simp)
    simp only [tins]
    split
    · rename_i hlt
      simp only [tsorted, Bool.and_eq_true, List.all_eq_true, decide_eq_true_eq, List.mem_cons, forall_eq_or_imp]
      exact ⟨⟨hlt, fun x hx => lt_trans hlt (h.1 x hx)⟩, h⟩
    · simp only [tsorted, Bool.and_eq_true, List.all_eq_true, decide_eq_true_eq]
      refine ⟨fun x hx => ?_, ih h.2 (fun x hx => hi x (by simp [hx]))⟩
      rcases (mem_tins r i v x).mp hx with rfl | hx
      · exact lt_of_le_of_ne (by omega) he
      · exact h.1 x hx

/-- Dropping entries keeps the canonical form. -/
theorem twf_filter [DecidableEq α] (d : α) (p : Nat × α → Bool) (t : Tab α) (h : twf d t = true) :
    twf d (t.filter p) = true := by
  simp only [twf, Bool.and_eq_true, List.all_eq_true] at h ⊢
  exact ⟨tsorted_filter p t h.1, fun x hx => h.2 x (List.mem_filter.mp hx).1⟩

/-- A write keeps the canonical form. -/
theorem twf_tset [DecidableEq α] (d : α) (t : Tab α) (i : Nat) (v : α) (h : twf d t = true) :
    twf d (tset d t i v) = true := by
  have hd : twf d (tdel t i) = true := twf_filter d _ t h
  unfold tset
  split
  · exact hd
  · rename_i hv
    simp only [twf, Bool.and_eq_true, List.all_eq_true] at hd ⊢
    refine ⟨tsorted_tins _ i v hd.1 (tdel_fst_ne t i), fun x hx => ?_⟩
    rcases (mem_tins _ i v x).mp hx with rfl | hx
    · simpa using hv
    · exact hd.2 x hx

/-! ## Counting entries -/

theorem tdel_count_le (P : Nat × α → Bool) (t : Tab α) (i : Nat) :
    ((tdel t i).filter P).length ≤ (t.filter P).length :=
  (List.Sublist.filter P List.filter_sublist).length_le

theorem tins_count (P : Nat × α → Bool) (t : Tab α) (i : Nat) (v : α) :
    ((tins t i v).filter P).length = (t.filter P).length + if P (i, v) then 1 else 0 := by
  induction t with
  | nil => simp only [tins, List.filter_cons, List.filter_nil]; split <;> rfl
  | cons e r ih =>
    simp only [tins]
    split
    · rw [List.filter_cons (x := (i, v))]
      split
      · simp
      · simp
    · rw [List.filter_cons, List.filter_cons]
      split <;> simp [ih] <;> omega

/-- The entry at a number is gone, where it was one of those counted. -/
theorem tdel_count_lt (P : Nat × α → Bool) (d : α) (t : Tab α) (i : Nat) (h : P (i, tget d t i) = true)
    (hd : P (i, d) = false) : ((tdel t i).filter P).length + 1 ≤ (t.filter P).length := by
  induction t with
  | nil => simp [tget, hd] at h
  | cons e r ih =>
    by_cases he : e.1 = i
    · have hp : P e = true := by
        have : tget d (e :: r) i = e.2 := by simp [tget, he]
        rw [this, ← he] at h
        exact h
      have hdel : tdel (e :: r) i = tdel r i := by simp [tdel, he]
      rw [hdel, List.filter_cons, if_pos hp]
      have := tdel_count_le P r i
      simp only [List.length_cons]
      omega
    · have hdel : tdel (e :: r) i = e :: tdel r i := by simp [tdel, he]
      have hg : tget d (e :: r) i = tget d r i := by simp [tget, he]
      rw [hg] at h
      have := ih h
      rw [hdel, List.filter_cons, List.filter_cons]
      split
      · simp only [List.length_cons]
        omega
      · omega

theorem tset_count_le [DecidableEq α] (P : Nat × α → Bool) (d : α) (t : Tab α) (i : Nat) (v : α)
    (h : P (i, v) = true → P (i, tget d t i) = true) (hd : P (i, d) = false) :
    ((tset d t i v).filter P).length ≤ (t.filter P).length := by
  unfold tset
  split
  · exact tdel_count_le P t i
  · rw [tins_count]
    split
    · rename_i hv
      exact tdel_count_lt P d t i (h hv) hd
    · have := tdel_count_le P t i
      omega

theorem tset_count_lt [DecidableEq α] (P : Nat × α → Bool) (d : α) (t : Tab α) (i : Nat) (v : α)
    (h : P (i, tget d t i) = true) (hv : P (i, v) = false) (hd : P (i, d) = false) :
    ((tset d t i v).filter P).length + 1 ≤ (t.filter P).length := by
  have := tdel_count_lt P d t i h hd
  unfold tset
  split
  · exact this
  · rw [tins_count, hv]
    simpa using this

/-! ## Memory -/

@[simp] theorem memRead_length (m : Tab Byte) (a n : Nat) : (memRead m a n).length = n := by
  induction n generalizing a with
  | zero => rfl
  | succ n ih => simp [memRead, ih]

/-- A byte outside what is written stays. -/
theorem memWrite_outside (m : Tab Byte) (a : Nat) (bs : List Byte) {i : Nat} (h : i < a ∨ a + bs.length ≤ i) :
    tget 0 (memWrite m a bs) i = tget 0 m i := by
  induction bs generalizing m a with
  | nil => rfl
  | cons b r ih =>
    simp only [List.length_cons] at h
    rw [memWrite, ih _ _ (by omega), tget_tset_other _ _ _ (by omega)]

/-- A byte written is read back. -/
theorem memWrite_inside (m : Tab Byte) (a : Nat) (bs : List Byte) (k : Nat) (h : k < bs.length) :
    tget 0 (memWrite m a bs) (a + k) = bs[k] := by
  induction bs generalizing m a k with
  | nil => simp at h
  | cons b r ih =>
    cases k with
    | zero => rw [memWrite, memWrite_outside _ _ _ (by omega)]; simp
    | succ k =>
      have := ih (tset 0 m a b) (a + 1) k (by simpa using h)
      rw [memWrite, show a + (k + 1) = a + 1 + k by omega, this]
      simp

/-- What was written is read. -/
theorem memRead_memWrite (m : Tab Byte) (a : Nat) (bs : List Byte) : memRead (memWrite m a bs) a bs.length = bs := by
  induction bs generalizing m a with
  | nil => rfl
  | cons b r ih =>
    simp only [List.length_cons, memRead, memWrite]
    rw [ih, memWrite_outside _ _ _ (by omega), tget_tset_same]

/-- Every memory write keeps the canonical form. -/
theorem twf_memWrite (m : Tab Byte) (a : Nat) (bs : List Byte) (h : twf (0 : Byte) m = true) :
    twf (0 : Byte) (memWrite m a bs) = true := by
  induction bs generalizing m a with
  | nil => exact h
  | cons b r ih => exact ih _ _ (twf_tset 0 m a b h)

/-- Zeroing keeps the canonical form. -/
theorem twf_memZero (m : Tab Byte) (a n : Nat) (h : twf (0 : Byte) m = true) : twf (0 : Byte) (memZero m a n) = true :=
  twf_filter 0 _ m h

/-- Zeroed bytes read as zero, others stay. -/
theorem tget_memZero (m : Tab Byte) (a n i : Nat) :
    tget 0 (memZero m a n) i = if a ≤ i ∧ i < a + n then 0 else tget 0 m i := by
  induction m with
  | nil => simp [memZero, tget]
  | cons e r ih =>
    simp only [memZero, List.filter_cons, Bool.or_eq_true, decide_eq_true_eq] at ih ⊢
    by_cases he : e.1 = i
    · split <;> rename_i hc
      · have hn : ¬(a ≤ i ∧ i < a + n) := by omega
        rw [if_neg hn]
        simp [tget, he]
      · have hy : a ≤ i ∧ i < a + n := by omega
        rw [ih, if_pos hy, if_pos hy]
    · have hr : tget 0 (e :: r) i = tget 0 r i := by simp [tget, he]
      split
      · rw [hr, ← ih]
        simp [tget, he]
      · rw [hr, ih]

end Sys2Proof.Machine
end

