-- ==== Sys2Proof/Laws/State.lean ====
section
/-! SUPPORT. What each named update of the state changes: one lemma per field, true by `rfl`; and what is read back from an
indexed register after it was written. -/

namespace Sys2Proof.Machine

variable (s : State)

/-! ## `emit` -/

@[simp] theorem emit_time (o : Out) : (emit o s).time = s.time := rfl
@[simp] theorem emit_weft (o : Out) : (emit o s).weft = s.weft := rfl
@[simp] theorem emit_spl (o : Out) : (emit o s).spl = s.spl := rfl
@[simp] theorem emit_hdl (o : Out) : (emit o s).hdl = s.hdl := rfl
@[simp] theorem emit_jcq (o : Out) : (emit o s).jcq = s.jcq := rfl
@[simp] theorem emit_regs (o : Out) : (emit o s).regs = s.regs := rfl
@[simp] theorem emit_parts (o : Out) : (emit o s).parts = s.parts := rfl
@[simp] theorem emit_saf (o : Out) : (emit o s).saf = s.saf := rfl
@[simp] theorem emit_lnk (o : Out) : (emit o s).lnk = s.lnk := rfl
@[simp] theorem emit_pwr (o : Out) : (emit o s).pwr = s.pwr := rfl
@[simp] theorem emit_sht (o : Out) : (emit o s).sht = s.sht := rfl
@[simp] theorem emit_red (o : Out) : (emit o s).red = s.red := rfl
@[simp] theorem emit_bob (o : Out) : (emit o s).bob = s.bob := rfl
@[simp] theorem emit_cnt (o : Out) : (emit o s).cnt = s.cnt := rfl
@[simp] theorem emit_hang (o : Out) : (emit o s).hang = s.hang := rfl
@[simp] theorem emit_eth (o : Out) : (emit o s).eth = s.eth := rfl
@[simp] theorem emit_cip (o : Out) : (emit o s).cip = s.cip := rfl
@[simp] theorem emit_fw (o : Out) : (emit o s).fw = s.fw := rfl
@[simp] theorem emit_pins (o : Out) : (emit o s).pins = s.pins := rfl
@[simp] theorem emit_out (o : Out) : (emit o s).out = s.out ++ [o] := rfl
@[simp] theorem emit_seed (o : Out) : (emit o s).seed = s.seed := rfl
@[simp] theorem emit_pending (o : Out) : (emit o s).pending = s.pending := rfl

/-! ## `report` -/

@[simp] theorem report_time (r : Report) : (report r s).time = s.time := rfl
@[simp] theorem report_weft (r : Report) : (report r s).weft = s.weft := rfl
@[simp] theorem report_spl (r : Report) : (report r s).spl = s.spl := rfl
@[simp] theorem report_hdl (r : Report) : (report r s).hdl = s.hdl := rfl
@[simp] theorem report_jcq (r : Report) : (report r s).jcq = s.jcq := rfl
@[simp] theorem report_regs (r : Report) : (report r s).regs = s.regs := rfl
@[simp] theorem report_parts (r : Report) : (report r s).parts = s.parts := rfl
@[simp] theorem report_saf (r : Report) : (report r s).saf = { s.saf with todo := s.saf.todo ++ [r] } := rfl
@[simp] theorem report_lnk (r : Report) : (report r s).lnk = s.lnk := rfl
@[simp] theorem report_pwr (r : Report) : (report r s).pwr = s.pwr := rfl
@[simp] theorem report_sht (r : Report) : (report r s).sht = s.sht := rfl
@[simp] theorem report_red (r : Report) : (report r s).red = s.red := rfl
@[simp] theorem report_bob (r : Report) : (report r s).bob = s.bob := rfl
@[simp] theorem report_cnt (r : Report) : (report r s).cnt = s.cnt := rfl
@[simp] theorem report_hang (r : Report) : (report r s).hang = s.hang := rfl
@[simp] theorem report_eth (r : Report) : (report r s).eth = s.eth := rfl
@[simp] theorem report_cip (r : Report) : (report r s).cip = s.cip := rfl
@[simp] theorem report_fw (r : Report) : (report r s).fw = s.fw := rfl
@[simp] theorem report_pins (r : Report) : (report r s).pins = s.pins := rfl
@[simp] theorem report_out (r : Report) : (report r s).out = s.out := rfl
@[simp] theorem report_seed (r : Report) : (report r s).seed = s.seed := rfl
@[simp] theorem report_pending (r : Report) : (report r s).pending = s.pending := rfl

/-! ## `spend` -/

@[simp] theorem spend_time : (spend s).time = s.time := rfl
@[simp] theorem spend_weft : (spend s).weft = s.weft := rfl
@[simp] theorem spend_spl : (spend s).spl = s.spl := rfl
@[simp] theorem spend_hdl : (spend s).hdl = s.hdl := rfl
@[simp] theorem spend_jcq : (spend s).jcq = s.jcq := rfl
@[simp] theorem spend_regs : (spend s).regs = s.regs := rfl
@[simp] theorem spend_parts : (spend s).parts = s.parts := rfl
@[simp] theorem spend_saf : (spend s).saf = s.saf := rfl
@[simp] theorem spend_lnk : (spend s).lnk = s.lnk := rfl
@[simp] theorem spend_pwr : (spend s).pwr = s.pwr := rfl
@[simp] theorem spend_sht : (spend s).sht = s.sht := rfl
@[simp] theorem spend_red : (spend s).red = s.red := rfl
@[simp] theorem spend_bob : (spend s).bob = s.bob := rfl
@[simp] theorem spend_cnt : (spend s).cnt = s.cnt := rfl
@[simp] theorem spend_hang : (spend s).hang = s.hang := rfl
@[simp] theorem spend_eth : (spend s).eth = s.eth := rfl
@[simp] theorem spend_cip : (spend s).cip = s.cip := rfl
@[simp] theorem spend_fw : (spend s).fw = s.fw := rfl
@[simp] theorem spend_pins : (spend s).pins = s.pins := rfl
@[simp] theorem spend_out : (spend s).out = s.out := rfl
@[simp] theorem spend_seed : (spend s).seed = s.seed + 1 := rfl
@[simp] theorem spend_pending : (spend s).pending = s.pending := rfl

/-! ## `setHport` -/

@[simp] theorem setHport_time (x : Nat) (h : HPort) : (setHport x h s).time = s.time := rfl
@[simp] theorem setHport_weft (x : Nat) (h : HPort) : (setHport x h s).weft = s.weft := rfl
@[simp] theorem setHport_spl (x : Nat) (h : HPort) : (setHport x h s).spl = s.spl := rfl
@[simp] theorem setHport_hdl (x : Nat) (h : HPort) : (setHport x h s).hdl = s.hdl := rfl
@[simp] theorem setHport_jcq (x : Nat) (h : HPort) : (setHport x h s).jcq = s.jcq := rfl
@[simp] theorem setHport_regs (x : Nat) (h : HPort) : (setHport x h s).regs = s.regs := rfl
@[simp] theorem setHport_parts (x : Nat) (h : HPort) : (setHport x h s).parts = s.parts := rfl
@[simp] theorem setHport_saf (x : Nat) (h : HPort) : (setHport x h s).saf = s.saf := rfl
@[simp] theorem setHport_lnk (x : Nat) (h : HPort) : (setHport x h s).lnk = { s.lnk with hport := tset {} s.lnk.hport x h } := rfl
@[simp] theorem setHport_pwr (x : Nat) (h : HPort) : (setHport x h s).pwr = s.pwr := rfl
@[simp] theorem setHport_sht (x : Nat) (h : HPort) : (setHport x h s).sht = s.sht := rfl
@[simp] theorem setHport_red (x : Nat) (h : HPort) : (setHport x h s).red = s.red := rfl
@[simp] theorem setHport_bob (x : Nat) (h : HPort) : (setHport x h s).bob = s.bob := rfl
@[simp] theorem setHport_cnt (x : Nat) (h : HPort) : (setHport x h s).cnt = s.cnt := rfl
@[simp] theorem setHport_hang (x : Nat) (h : HPort) : (setHport x h s).hang = s.hang := rfl
@[simp] theorem setHport_eth (x : Nat) (h : HPort) : (setHport x h s).eth = s.eth := rfl
@[simp] theorem setHport_cip (x : Nat) (h : HPort) : (setHport x h s).cip = s.cip := rfl
@[simp] theorem setHport_fw (x : Nat) (h : HPort) : (setHport x h s).fw = s.fw := rfl
@[simp] theorem setHport_pins (x : Nat) (h : HPort) : (setHport x h s).pins = s.pins := rfl
@[simp] theorem setHport_out (x : Nat) (h : HPort) : (setHport x h s).out = s.out := rfl
@[simp] theorem setHport_seed (x : Nat) (h : HPort) : (setHport x h s).seed = s.seed := rfl
@[simp] theorem setHport_pending (x : Nat) (h : HPort) : (setHport x h s).pending = s.pending := rfl
@[simp] theorem hport_setHport (x : Nat) (h : HPort) : hport (setHport x h s) x = h := tget_tset_same _ _ _ _
theorem hport_setHport_other (x : Nat) (h : HPort) (j : Nat) (hj : j ≠ x) : hport (setHport x h s) j = hport s j :=
  tget_tset_other _ _ _ hj

/-! ## `setAport` -/

@[simp] theorem setAport_time (k : Nat) (a : APort) : (setAport k a s).time = s.time := rfl
@[simp] theorem setAport_weft (k : Nat) (a : APort) : (setAport k a s).weft = s.weft := rfl
@[simp] theorem setAport_spl (k : Nat) (a : APort) : (setAport k a s).spl = s.spl := rfl
@[simp] theorem setAport_hdl (k : Nat) (a : APort) : (setAport k a s).hdl = s.hdl := rfl
@[simp] theorem setAport_jcq (k : Nat) (a : APort) : (setAport k a s).jcq = s.jcq := rfl
@[simp] theorem setAport_regs (k : Nat) (a : APort) : (setAport k a s).regs = s.regs := rfl
@[simp] theorem setAport_parts (k : Nat) (a : APort) : (setAport k a s).parts = s.parts := rfl
@[simp] theorem setAport_saf (k : Nat) (a : APort) : (setAport k a s).saf = s.saf := rfl
@[simp] theorem setAport_lnk (k : Nat) (a : APort) : (setAport k a s).lnk = { s.lnk with aport := tset {} s.lnk.aport k a } := rfl
@[simp] theorem setAport_pwr (k : Nat) (a : APort) : (setAport k a s).pwr = s.pwr := rfl
@[simp] theorem setAport_sht (k : Nat) (a : APort) : (setAport k a s).sht = s.sht := rfl
@[simp] theorem setAport_red (k : Nat) (a : APort) : (setAport k a s).red = s.red := rfl
@[simp] theorem setAport_bob (k : Nat) (a : APort) : (setAport k a s).bob = s.bob := rfl
@[simp] theorem setAport_cnt (k : Nat) (a : APort) : (setAport k a s).cnt = s.cnt := rfl
@[simp] theorem setAport_hang (k : Nat) (a : APort) : (setAport k a s).hang = s.hang := rfl
@[simp] theorem setAport_eth (k : Nat) (a : APort) : (setAport k a s).eth = s.eth := rfl
@[simp] theorem setAport_cip (k : Nat) (a : APort) : (setAport k a s).cip = s.cip := rfl
@[simp] theorem setAport_fw (k : Nat) (a : APort) : (setAport k a s).fw = s.fw := rfl
@[simp] theorem setAport_pins (k : Nat) (a : APort) : (setAport k a s).pins = s.pins := rfl
@[simp] theorem setAport_out (k : Nat) (a : APort) : (setAport k a s).out = s.out := rfl
@[simp] theorem setAport_seed (k : Nat) (a : APort) : (setAport k a s).seed = s.seed := rfl
@[simp] theorem setAport_pending (k : Nat) (a : APort) : (setAport k a s).pending = s.pending := rfl
@[simp] theorem aport_setAport (k : Nat) (a : APort) : aport (setAport k a s) k = a := tget_tset_same _ _ _ _
theorem aport_setAport_other (k : Nat) (a : APort) (j : Nat) (hj : j ≠ k) : aport (setAport k a s) j = aport s j :=
  tget_tset_other _ _ _ hj

/-! ## `setAdminQ` -/

@[simp] theorem setAdminQ_time (p : Nat) (a : AdminQ) : (setAdminQ p a s).time = s.time := rfl
@[simp] theorem setAdminQ_weft (p : Nat) (a : AdminQ) : (setAdminQ p a s).weft = s.weft := rfl
@[simp] theorem setAdminQ_spl (p : Nat) (a : AdminQ) : (setAdminQ p a s).spl = s.spl := rfl
@[simp] theorem setAdminQ_hdl (p : Nat) (a : AdminQ) : (setAdminQ p a s).hdl = s.hdl := rfl
@[simp] theorem setAdminQ_jcq (p : Nat) (a : AdminQ) : (setAdminQ p a s).jcq = { s.jcq with admin := tset {} s.jcq.admin p a } := rfl
@[simp] theorem setAdminQ_regs (p : Nat) (a : AdminQ) : (setAdminQ p a s).regs = s.regs := rfl
@[simp] theorem setAdminQ_parts (p : Nat) (a : AdminQ) : (setAdminQ p a s).parts = s.parts := rfl
@[simp] theorem setAdminQ_saf (p : Nat) (a : AdminQ) : (setAdminQ p a s).saf = s.saf := rfl
@[simp] theorem setAdminQ_lnk (p : Nat) (a : AdminQ) : (setAdminQ p a s).lnk = s.lnk := rfl
@[simp] theorem setAdminQ_pwr (p : Nat) (a : AdminQ) : (setAdminQ p a s).pwr = s.pwr := rfl
@[simp] theorem setAdminQ_sht (p : Nat) (a : AdminQ) : (setAdminQ p a s).sht = s.sht := rfl
@[simp] theorem setAdminQ_red (p : Nat) (a : AdminQ) : (setAdminQ p a s).red = s.red := rfl
@[simp] theorem setAdminQ_bob (p : Nat) (a : AdminQ) : (setAdminQ p a s).bob = s.bob := rfl
@[simp] theorem setAdminQ_cnt (p : Nat) (a : AdminQ) : (setAdminQ p a s).cnt = s.cnt := rfl
@[simp] theorem setAdminQ_hang (p : Nat) (a : AdminQ) : (setAdminQ p a s).hang = s.hang := rfl
@[simp] theorem setAdminQ_eth (p : Nat) (a : AdminQ) : (setAdminQ p a s).eth = s.eth := rfl
@[simp] theorem setAdminQ_cip (p : Nat) (a : AdminQ) : (setAdminQ p a s).cip = s.cip := rfl
@[simp] theorem setAdminQ_fw (p : Nat) (a : AdminQ) : (setAdminQ p a s).fw = s.fw := rfl
@[simp] theorem setAdminQ_pins (p : Nat) (a : AdminQ) : (setAdminQ p a s).pins = s.pins := rfl
@[simp] theorem setAdminQ_out (p : Nat) (a : AdminQ) : (setAdminQ p a s).out = s.out := rfl
@[simp] theorem setAdminQ_seed (p : Nat) (a : AdminQ) : (setAdminQ p a s).seed = s.seed := rfl
@[simp] theorem setAdminQ_pending (p : Nat) (a : AdminQ) : (setAdminQ p a s).pending = s.pending := rfl
@[simp] theorem adminQ_setAdminQ (p : Nat) (a : AdminQ) : adminQ (setAdminQ p a s) p = a := tget_tset_same _ _ _ _
theorem adminQ_setAdminQ_other (p : Nat) (a : AdminQ) (j : Nat) (hj : j ≠ p) : adminQ (setAdminQ p a s) j = adminQ s j :=
  tget_tset_other _ _ _ hj

/-! ## `setSkein` -/

@[simp] theorem setSkein_time (g : Nat) (k : Skein) : (setSkein g k s).time = s.time := rfl
@[simp] theorem setSkein_weft (g : Nat) (k : Skein) : (setSkein g k s).weft = s.weft := rfl
@[simp] theorem setSkein_spl (g : Nat) (k : Skein) : (setSkein g k s).spl = s.spl := rfl
@[simp] theorem setSkein_hdl (g : Nat) (k : Skein) : (setSkein g k s).hdl = s.hdl := rfl
@[simp] theorem setSkein_jcq (g : Nat) (k : Skein) : (setSkein g k s).jcq = { s.jcq with skein := tset {} s.jcq.skein g k } := rfl
@[simp] theorem setSkein_regs (g : Nat) (k : Skein) : (setSkein g k s).regs = s.regs := rfl
@[simp] theorem setSkein_parts (g : Nat) (k : Skein) : (setSkein g k s).parts = s.parts := rfl
@[simp] theorem setSkein_saf (g : Nat) (k : Skein) : (setSkein g k s).saf = s.saf := rfl
@[simp] theorem setSkein_lnk (g : Nat) (k : Skein) : (setSkein g k s).lnk = s.lnk := rfl
@[simp] theorem setSkein_pwr (g : Nat) (k : Skein) : (setSkein g k s).pwr = s.pwr := rfl
@[simp] theorem setSkein_sht (g : Nat) (k : Skein) : (setSkein g k s).sht = s.sht := rfl
@[simp] theorem setSkein_red (g : Nat) (k : Skein) : (setSkein g k s).red = s.red := rfl
@[simp] theorem setSkein_bob (g : Nat) (k : Skein) : (setSkein g k s).bob = s.bob := rfl
@[simp] theorem setSkein_cnt (g : Nat) (k : Skein) : (setSkein g k s).cnt = s.cnt := rfl
@[simp] theorem setSkein_hang (g : Nat) (k : Skein) : (setSkein g k s).hang = s.hang := rfl
@[simp] theorem setSkein_eth (g : Nat) (k : Skein) : (setSkein g k s).eth = s.eth := rfl
@[simp] theorem setSkein_cip (g : Nat) (k : Skein) : (setSkein g k s).cip = s.cip := rfl
@[simp] theorem setSkein_fw (g : Nat) (k : Skein) : (setSkein g k s).fw = s.fw := rfl
@[simp] theorem setSkein_pins (g : Nat) (k : Skein) : (setSkein g k s).pins = s.pins := rfl
@[simp] theorem setSkein_out (g : Nat) (k : Skein) : (setSkein g k s).out = s.out := rfl
@[simp] theorem setSkein_seed (g : Nat) (k : Skein) : (setSkein g k s).seed = s.seed := rfl
@[simp] theorem setSkein_pending (g : Nat) (k : Skein) : (setSkein g k s).pending = s.pending := rfl
@[simp] theorem skein_setSkein (g : Nat) (k : Skein) : skein (setSkein g k s) g = k := tget_tset_same _ _ _ _
theorem skein_setSkein_other (g : Nat) (k : Skein) (j : Nat) (hj : j ≠ g) : skein (setSkein g k s) j = skein s j :=
  tget_tset_other _ _ _ hj

/-! ## `setProc` -/

@[simp] theorem setProc_time (n : Nat) (p : ProcState) : (setProc n p s).time = s.time := rfl
@[simp] theorem setProc_weft (n : Nat) (p : ProcState) : (setProc n p s).weft = s.weft := rfl
@[simp] theorem setProc_spl (n : Nat) (p : ProcState) : (setProc n p s).spl = s.spl := rfl
@[simp] theorem setProc_hdl (n : Nat) (p : ProcState) : (setProc n p s).hdl = s.hdl := rfl
@[simp] theorem setProc_jcq (n : Nat) (p : ProcState) : (setProc n p s).jcq = { s.jcq with proc := tset {} s.jcq.proc n p } := rfl
@[simp] theorem setProc_regs (n : Nat) (p : ProcState) : (setProc n p s).regs = s.regs := rfl
@[simp] theorem setProc_parts (n : Nat) (p : ProcState) : (setProc n p s).parts = s.parts := rfl
@[simp] theorem setProc_saf (n : Nat) (p : ProcState) : (setProc n p s).saf = s.saf := rfl
@[simp] theorem setProc_lnk (n : Nat) (p : ProcState) : (setProc n p s).lnk = s.lnk := rfl
@[simp] theorem setProc_pwr (n : Nat) (p : ProcState) : (setProc n p s).pwr = s.pwr := rfl
@[simp] theorem setProc_sht (n : Nat) (p : ProcState) : (setProc n p s).sht = s.sht := rfl
@[simp] theorem setProc_red (n : Nat) (p : ProcState) : (setProc n p s).red = s.red := rfl
@[simp] theorem setProc_bob (n : Nat) (p : ProcState) : (setProc n p s).bob = s.bob := rfl
@[simp] theorem setProc_cnt (n : Nat) (p : ProcState) : (setProc n p s).cnt = s.cnt := rfl
@[simp] theorem setProc_hang (n : Nat) (p : ProcState) : (setProc n p s).hang = s.hang := rfl
@[simp] theorem setProc_eth (n : Nat) (p : ProcState) : (setProc n p s).eth = s.eth := rfl
@[simp] theorem setProc_cip (n : Nat) (p : ProcState) : (setProc n p s).cip = s.cip := rfl
@[simp] theorem setProc_fw (n : Nat) (p : ProcState) : (setProc n p s).fw = s.fw := rfl
@[simp] theorem setProc_pins (n : Nat) (p : ProcState) : (setProc n p s).pins = s.pins := rfl
@[simp] theorem setProc_out (n : Nat) (p : ProcState) : (setProc n p s).out = s.out := rfl
@[simp] theorem setProc_seed (n : Nat) (p : ProcState) : (setProc n p s).seed = s.seed := rfl
@[simp] theorem setProc_pending (n : Nat) (p : ProcState) : (setProc n p s).pending = s.pending := rfl

/-! ## `setConflict` -/

@[simp] theorem setConflict_time (b : Nat) (c : Conflict) : (setConflict b c s).time = s.time := rfl
@[simp] theorem setConflict_weft (b : Nat) (c : Conflict) : (setConflict b c s).weft = s.weft := rfl
@[simp] theorem setConflict_spl (b : Nat) (c : Conflict) : (setConflict b c s).spl = s.spl := rfl
@[simp] theorem setConflict_hdl (b : Nat) (c : Conflict) : (setConflict b c s).hdl = s.hdl := rfl
@[simp] theorem setConflict_jcq (b : Nat) (c : Conflict) : (setConflict b c s).jcq = s.jcq := rfl
@[simp] theorem setConflict_regs (b : Nat) (c : Conflict) : (setConflict b c s).regs = { s.regs with conflict := tset {} s.regs.conflict b c } := rfl
@[simp] theorem setConflict_parts (b : Nat) (c : Conflict) : (setConflict b c s).parts = s.parts := rfl
@[simp] theorem setConflict_saf (b : Nat) (c : Conflict) : (setConflict b c s).saf = s.saf := rfl
@[simp] theorem setConflict_lnk (b : Nat) (c : Conflict) : (setConflict b c s).lnk = s.lnk := rfl
@[simp] theorem setConflict_pwr (b : Nat) (c : Conflict) : (setConflict b c s).pwr = s.pwr := rfl
@[simp] theorem setConflict_sht (b : Nat) (c : Conflict) : (setConflict b c s).sht = s.sht := rfl
@[simp] theorem setConflict_red (b : Nat) (c : Conflict) : (setConflict b c s).red = s.red := rfl
@[simp] theorem setConflict_bob (b : Nat) (c : Conflict) : (setConflict b c s).bob = s.bob := rfl
@[simp] theorem setConflict_cnt (b : Nat) (c : Conflict) : (setConflict b c s).cnt = s.cnt := rfl
@[simp] theorem setConflict_hang (b : Nat) (c : Conflict) : (setConflict b c s).hang = s.hang := rfl
@[simp] theorem setConflict_eth (b : Nat) (c : Conflict) : (setConflict b c s).eth = s.eth := rfl
@[simp] theorem setConflict_cip (b : Nat) (c : Conflict) : (setConflict b c s).cip = s.cip := rfl
@[simp] theorem setConflict_fw (b : Nat) (c : Conflict) : (setConflict b c s).fw = s.fw := rfl
@[simp] theorem setConflict_pins (b : Nat) (c : Conflict) : (setConflict b c s).pins = s.pins := rfl
@[simp] theorem setConflict_out (b : Nat) (c : Conflict) : (setConflict b c s).out = s.out := rfl
@[simp] theorem setConflict_seed (b : Nat) (c : Conflict) : (setConflict b c s).seed = s.seed := rfl
@[simp] theorem setConflict_pending (b : Nat) (c : Conflict) : (setConflict b c s).pending = s.pending := rfl

/-! ## `setPart` -/

@[simp] theorem setPart_time (p : Nat) (v : PartState) : (setPart p v s).time = s.time := rfl
@[simp] theorem setPart_weft (p : Nat) (v : PartState) : (setPart p v s).weft = s.weft := rfl
@[simp] theorem setPart_spl (p : Nat) (v : PartState) : (setPart p v s).spl = s.spl := rfl
@[simp] theorem setPart_hdl (p : Nat) (v : PartState) : (setPart p v s).hdl = s.hdl := rfl
@[simp] theorem setPart_jcq (p : Nat) (v : PartState) : (setPart p v s).jcq = s.jcq := rfl
@[simp] theorem setPart_regs (p : Nat) (v : PartState) : (setPart p v s).regs = s.regs := rfl
@[simp] theorem setPart_parts (p : Nat) (v : PartState) : (setPart p v s).parts = { s.parts with state := tset .opened s.parts.state p v } := rfl
@[simp] theorem setPart_saf (p : Nat) (v : PartState) : (setPart p v s).saf = s.saf := rfl
@[simp] theorem setPart_lnk (p : Nat) (v : PartState) : (setPart p v s).lnk = s.lnk := rfl
@[simp] theorem setPart_pwr (p : Nat) (v : PartState) : (setPart p v s).pwr = s.pwr := rfl
@[simp] theorem setPart_sht (p : Nat) (v : PartState) : (setPart p v s).sht = s.sht := rfl
@[simp] theorem setPart_red (p : Nat) (v : PartState) : (setPart p v s).red = s.red := rfl
@[simp] theorem setPart_bob (p : Nat) (v : PartState) : (setPart p v s).bob = s.bob := rfl
@[simp] theorem setPart_cnt (p : Nat) (v : PartState) : (setPart p v s).cnt = s.cnt := rfl
@[simp] theorem setPart_hang (p : Nat) (v : PartState) : (setPart p v s).hang = s.hang := rfl
@[simp] theorem setPart_eth (p : Nat) (v : PartState) : (setPart p v s).eth = s.eth := rfl
@[simp] theorem setPart_cip (p : Nat) (v : PartState) : (setPart p v s).cip = s.cip := rfl
@[simp] theorem setPart_fw (p : Nat) (v : PartState) : (setPart p v s).fw = s.fw := rfl
@[simp] theorem setPart_pins (p : Nat) (v : PartState) : (setPart p v s).pins = s.pins := rfl
@[simp] theorem setPart_out (p : Nat) (v : PartState) : (setPart p v s).out = s.out := rfl
@[simp] theorem setPart_seed (p : Nat) (v : PartState) : (setPart p v s).seed = s.seed := rfl
@[simp] theorem setPart_pending (p : Nat) (v : PartState) : (setPart p v s).pending = s.pending := rfl
@[simp] theorem partState_setPart (p : Nat) (v : PartState) : partState (setPart p v s) p = v := tget_tset_same _ _ _ _
theorem partState_setPart_other (p : Nat) (v : PartState) (j : Nat) (hj : j ≠ p) : partState (setPart p v s) j = partState s j :=
  tget_tset_other _ _ _ hj

/-! ## `setCtxDesc` -/

@[simp] theorem setCtxDesc_time (c : Nat) (d : CtxDesc) : (setCtxDesc c d s).time = s.time := rfl
@[simp] theorem setCtxDesc_weft (c : Nat) (d : CtxDesc) : (setCtxDesc c d s).weft = s.weft := rfl
@[simp] theorem setCtxDesc_spl (c : Nat) (d : CtxDesc) : (setCtxDesc c d s).spl = s.spl := rfl
@[simp] theorem setCtxDesc_hdl (c : Nat) (d : CtxDesc) : (setCtxDesc c d s).hdl = { s.hdl with ctx := tset {} s.hdl.ctx c d } := rfl
@[simp] theorem setCtxDesc_jcq (c : Nat) (d : CtxDesc) : (setCtxDesc c d s).jcq = s.jcq := rfl
@[simp] theorem setCtxDesc_regs (c : Nat) (d : CtxDesc) : (setCtxDesc c d s).regs = s.regs := rfl
@[simp] theorem setCtxDesc_parts (c : Nat) (d : CtxDesc) : (setCtxDesc c d s).parts = s.parts := rfl
@[simp] theorem setCtxDesc_saf (c : Nat) (d : CtxDesc) : (setCtxDesc c d s).saf = s.saf := rfl
@[simp] theorem setCtxDesc_lnk (c : Nat) (d : CtxDesc) : (setCtxDesc c d s).lnk = s.lnk := rfl
@[simp] theorem setCtxDesc_pwr (c : Nat) (d : CtxDesc) : (setCtxDesc c d s).pwr = s.pwr := rfl
@[simp] theorem setCtxDesc_sht (c : Nat) (d : CtxDesc) : (setCtxDesc c d s).sht = s.sht := rfl
@[simp] theorem setCtxDesc_red (c : Nat) (d : CtxDesc) : (setCtxDesc c d s).red = s.red := rfl
@[simp] theorem setCtxDesc_bob (c : Nat) (d : CtxDesc) : (setCtxDesc c d s).bob = s.bob := rfl
@[simp] theorem setCtxDesc_cnt (c : Nat) (d : CtxDesc) : (setCtxDesc c d s).cnt = s.cnt := rfl
@[simp] theorem setCtxDesc_hang (c : Nat) (d : CtxDesc) : (setCtxDesc c d s).hang = s.hang := rfl
@[simp] theorem setCtxDesc_eth (c : Nat) (d : CtxDesc) : (setCtxDesc c d s).eth = s.eth := rfl
@[simp] theorem setCtxDesc_cip (c : Nat) (d : CtxDesc) : (setCtxDesc c d s).cip = s.cip := rfl
@[simp] theorem setCtxDesc_fw (c : Nat) (d : CtxDesc) : (setCtxDesc c d s).fw = s.fw := rfl
@[simp] theorem setCtxDesc_pins (c : Nat) (d : CtxDesc) : (setCtxDesc c d s).pins = s.pins := rfl
@[simp] theorem setCtxDesc_out (c : Nat) (d : CtxDesc) : (setCtxDesc c d s).out = s.out := rfl
@[simp] theorem setCtxDesc_seed (c : Nat) (d : CtxDesc) : (setCtxDesc c d s).seed = s.seed := rfl
@[simp] theorem setCtxDesc_pending (c : Nat) (d : CtxDesc) : (setCtxDesc c d s).pending = s.pending := rfl
@[simp] theorem ctxDesc_setCtxDesc (c : Nat) (d : CtxDesc) : ctxDesc (setCtxDesc c d s) c = d := tget_tset_same _ _ _ _
theorem ctxDesc_setCtxDesc_other (c : Nat) (d : CtxDesc) (j : Nat) (hj : j ≠ c) : ctxDesc (setCtxDesc c d s) j = ctxDesc s j :=
  tget_tset_other _ _ _ hj

/-! ## `setPfq` -/

@[simp] theorem setPfq_time (p : Nat) (q : Pfq) : (setPfq p q s).time = s.time := rfl
@[simp] theorem setPfq_weft (p : Nat) (q : Pfq) : (setPfq p q s).weft = s.weft := rfl
@[simp] theorem setPfq_spl (p : Nat) (q : Pfq) : (setPfq p q s).spl = s.spl := rfl
@[simp] theorem setPfq_hdl (p : Nat) (q : Pfq) : (setPfq p q s).hdl = { s.hdl with pfq := tset {} s.hdl.pfq p q } := rfl
@[simp] theorem setPfq_jcq (p : Nat) (q : Pfq) : (setPfq p q s).jcq = s.jcq := rfl
@[simp] theorem setPfq_regs (p : Nat) (q : Pfq) : (setPfq p q s).regs = s.regs := rfl
@[simp] theorem setPfq_parts (p : Nat) (q : Pfq) : (setPfq p q s).parts = s.parts := rfl
@[simp] theorem setPfq_saf (p : Nat) (q : Pfq) : (setPfq p q s).saf = s.saf := rfl
@[simp] theorem setPfq_lnk (p : Nat) (q : Pfq) : (setPfq p q s).lnk = s.lnk := rfl
@[simp] theorem setPfq_pwr (p : Nat) (q : Pfq) : (setPfq p q s).pwr = s.pwr := rfl
@[simp] theorem setPfq_sht (p : Nat) (q : Pfq) : (setPfq p q s).sht = s.sht := rfl
@[simp] theorem setPfq_red (p : Nat) (q : Pfq) : (setPfq p q s).red = s.red := rfl
@[simp] theorem setPfq_bob (p : Nat) (q : Pfq) : (setPfq p q s).bob = s.bob := rfl
@[simp] theorem setPfq_cnt (p : Nat) (q : Pfq) : (setPfq p q s).cnt = s.cnt := rfl
@[simp] theorem setPfq_hang (p : Nat) (q : Pfq) : (setPfq p q s).hang = s.hang := rfl
@[simp] theorem setPfq_eth (p : Nat) (q : Pfq) : (setPfq p q s).eth = s.eth := rfl
@[simp] theorem setPfq_cip (p : Nat) (q : Pfq) : (setPfq p q s).cip = s.cip := rfl
@[simp] theorem setPfq_fw (p : Nat) (q : Pfq) : (setPfq p q s).fw = s.fw := rfl
@[simp] theorem setPfq_pins (p : Nat) (q : Pfq) : (setPfq p q s).pins = s.pins := rfl
@[simp] theorem setPfq_out (p : Nat) (q : Pfq) : (setPfq p q s).out = s.out := rfl
@[simp] theorem setPfq_seed (p : Nat) (q : Pfq) : (setPfq p q s).seed = s.seed := rfl
@[simp] theorem setPfq_pending (p : Nat) (q : Pfq) : (setPfq p q s).pending = s.pending := rfl
@[simp] theorem pfqOf_setPfq (p : Nat) (q : Pfq) : pfqOf (setPfq p q s) p = q := tget_tset_same _ _ _ _
theorem pfqOf_setPfq_other (p : Nat) (q : Pfq) (j : Nat) (hj : j ≠ p) : pfqOf (setPfq p q s) j = pfqOf s j :=
  tget_tset_other _ _ _ hj

/-! ## `setQp` -/

@[simp] theorem setQp_time (q : Nat) (v : Qp) : (setQp q v s).time = s.time := rfl
@[simp] theorem setQp_weft (q : Nat) (v : Qp) : (setQp q v s).weft = s.weft := rfl
@[simp] theorem setQp_spl (q : Nat) (v : Qp) : (setQp q v s).spl = s.spl := rfl
@[simp] theorem setQp_hdl (q : Nat) (v : Qp) : (setQp q v s).hdl = s.hdl := rfl
@[simp] theorem setQp_jcq (q : Nat) (v : Qp) : (setQp q v s).jcq = s.jcq := rfl
@[simp] theorem setQp_regs (q : Nat) (v : Qp) : (setQp q v s).regs = s.regs := rfl
@[simp] theorem setQp_parts (q : Nat) (v : Qp) : (setQp q v s).parts = s.parts := rfl
@[simp] theorem setQp_saf (q : Nat) (v : Qp) : (setQp q v s).saf = s.saf := rfl
@[simp] theorem setQp_lnk (q : Nat) (v : Qp) : (setQp q v s).lnk = s.lnk := rfl
@[simp] theorem setQp_pwr (q : Nat) (v : Qp) : (setQp q v s).pwr = s.pwr := rfl
@[simp] theorem setQp_sht (q : Nat) (v : Qp) : (setQp q v s).sht = { s.sht with qp := tset {} s.sht.qp q v } := rfl
@[simp] theorem setQp_red (q : Nat) (v : Qp) : (setQp q v s).red = s.red := rfl
@[simp] theorem setQp_bob (q : Nat) (v : Qp) : (setQp q v s).bob = s.bob := rfl
@[simp] theorem setQp_cnt (q : Nat) (v : Qp) : (setQp q v s).cnt = s.cnt := rfl
@[simp] theorem setQp_hang (q : Nat) (v : Qp) : (setQp q v s).hang = s.hang := rfl
@[simp] theorem setQp_eth (q : Nat) (v : Qp) : (setQp q v s).eth = s.eth := rfl
@[simp] theorem setQp_cip (q : Nat) (v : Qp) : (setQp q v s).cip = s.cip := rfl
@[simp] theorem setQp_fw (q : Nat) (v : Qp) : (setQp q v s).fw = s.fw := rfl
@[simp] theorem setQp_pins (q : Nat) (v : Qp) : (setQp q v s).pins = s.pins := rfl
@[simp] theorem setQp_out (q : Nat) (v : Qp) : (setQp q v s).out = s.out := rfl
@[simp] theorem setQp_seed (q : Nat) (v : Qp) : (setQp q v s).seed = s.seed := rfl
@[simp] theorem setQp_pending (q : Nat) (v : Qp) : (setQp q v s).pending = s.pending := rfl
@[simp] theorem qpOf_setQp (q : Nat) (v : Qp) : qpOf (setQp q v s) q = v := tget_tset_same _ _ _ _
theorem qpOf_setQp_other (q : Nat) (v : Qp) (j : Nat) (hj : j ≠ q) : qpOf (setQp q v s) j = qpOf s j :=
  tget_tset_other _ _ _ hj

/-! ## `setOp` -/

@[simp] theorem setOp_time (o : SendOp) : (setOp o s).time = s.time := rfl
@[simp] theorem setOp_weft (o : SendOp) : (setOp o s).weft = s.weft := rfl
@[simp] theorem setOp_spl (o : SendOp) : (setOp o s).spl = s.spl := rfl
@[simp] theorem setOp_hdl (o : SendOp) : (setOp o s).hdl = s.hdl := rfl
@[simp] theorem setOp_jcq (o : SendOp) : (setOp o s).jcq = s.jcq := rfl
@[simp] theorem setOp_regs (o : SendOp) : (setOp o s).regs = s.regs := rfl
@[simp] theorem setOp_parts (o : SendOp) : (setOp o s).parts = s.parts := rfl
@[simp] theorem setOp_saf (o : SendOp) : (setOp o s).saf = s.saf := rfl
@[simp] theorem setOp_lnk (o : SendOp) : (setOp o s).lnk = s.lnk := rfl
@[simp] theorem setOp_pwr (o : SendOp) : (setOp o s).pwr = s.pwr := rfl
@[simp] theorem setOp_sht (o : SendOp) : (setOp o s).sht = { s.sht with ops := s.sht.ops.map fun x => if x.id = o.id then o else x } := rfl
@[simp] theorem setOp_red (o : SendOp) : (setOp o s).red = s.red := rfl
@[simp] theorem setOp_bob (o : SendOp) : (setOp o s).bob = s.bob := rfl
@[simp] theorem setOp_cnt (o : SendOp) : (setOp o s).cnt = s.cnt := rfl
@[simp] theorem setOp_hang (o : SendOp) : (setOp o s).hang = s.hang := rfl
@[simp] theorem setOp_eth (o : SendOp) : (setOp o s).eth = s.eth := rfl
@[simp] theorem setOp_cip (o : SendOp) : (setOp o s).cip = s.cip := rfl
@[simp] theorem setOp_fw (o : SendOp) : (setOp o s).fw = s.fw := rfl
@[simp] theorem setOp_pins (o : SendOp) : (setOp o s).pins = s.pins := rfl
@[simp] theorem setOp_out (o : SendOp) : (setOp o s).out = s.out := rfl
@[simp] theorem setOp_seed (o : SendOp) : (setOp o s).seed = s.seed := rfl
@[simp] theorem setOp_pending (o : SendOp) : (setOp o s).pending = s.pending := rfl

/-! ## `setComm` -/

@[simp] theorem setComm_time (k : Nat) (c : Comm) : (setComm k c s).time = s.time := rfl
@[simp] theorem setComm_weft (k : Nat) (c : Comm) : (setComm k c s).weft = s.weft := rfl
@[simp] theorem setComm_spl (k : Nat) (c : Comm) : (setComm k c s).spl = s.spl := rfl
@[simp] theorem setComm_hdl (k : Nat) (c : Comm) : (setComm k c s).hdl = s.hdl := rfl
@[simp] theorem setComm_jcq (k : Nat) (c : Comm) : (setComm k c s).jcq = s.jcq := rfl
@[simp] theorem setComm_regs (k : Nat) (c : Comm) : (setComm k c s).regs = s.regs := rfl
@[simp] theorem setComm_parts (k : Nat) (c : Comm) : (setComm k c s).parts = s.parts := rfl
@[simp] theorem setComm_saf (k : Nat) (c : Comm) : (setComm k c s).saf = s.saf := rfl
@[simp] theorem setComm_lnk (k : Nat) (c : Comm) : (setComm k c s).lnk = s.lnk := rfl
@[simp] theorem setComm_pwr (k : Nat) (c : Comm) : (setComm k c s).pwr = s.pwr := rfl
@[simp] theorem setComm_sht (k : Nat) (c : Comm) : (setComm k c s).sht = s.sht := rfl
@[simp] theorem setComm_red (k : Nat) (c : Comm) : (setComm k c s).red = { s.red with comm := tset {} s.red.comm k c } := rfl
@[simp] theorem setComm_bob (k : Nat) (c : Comm) : (setComm k c s).bob = s.bob := rfl
@[simp] theorem setComm_cnt (k : Nat) (c : Comm) : (setComm k c s).cnt = s.cnt := rfl
@[simp] theorem setComm_hang (k : Nat) (c : Comm) : (setComm k c s).hang = s.hang := rfl
@[simp] theorem setComm_eth (k : Nat) (c : Comm) : (setComm k c s).eth = s.eth := rfl
@[simp] theorem setComm_cip (k : Nat) (c : Comm) : (setComm k c s).cip = s.cip := rfl
@[simp] theorem setComm_fw (k : Nat) (c : Comm) : (setComm k c s).fw = s.fw := rfl
@[simp] theorem setComm_pins (k : Nat) (c : Comm) : (setComm k c s).pins = s.pins := rfl
@[simp] theorem setComm_out (k : Nat) (c : Comm) : (setComm k c s).out = s.out := rfl
@[simp] theorem setComm_seed (k : Nat) (c : Comm) : (setComm k c s).seed = s.seed := rfl
@[simp] theorem setComm_pending (k : Nat) (c : Comm) : (setComm k c s).pending = s.pending := rfl
@[simp] theorem commOf_setComm (k : Nat) (c : Comm) : commOf (setComm k c s) k = c := tget_tset_same _ _ _ _
theorem commOf_setComm_other (k : Nat) (c : Comm) (j : Nat) (hj : j ≠ k) : commOf (setComm k c s) j = commOf s j :=
  tget_tset_other _ _ _ hj

/-! ## `setBobbin` -/

@[simp] theorem setBobbin_time (u : Nat) (b : Bobbin) : (setBobbin u b s).time = s.time := rfl
@[simp] theorem setBobbin_weft (u : Nat) (b : Bobbin) : (setBobbin u b s).weft = s.weft := rfl
@[simp] theorem setBobbin_spl (u : Nat) (b : Bobbin) : (setBobbin u b s).spl = s.spl := rfl
@[simp] theorem setBobbin_hdl (u : Nat) (b : Bobbin) : (setBobbin u b s).hdl = s.hdl := rfl
@[simp] theorem setBobbin_jcq (u : Nat) (b : Bobbin) : (setBobbin u b s).jcq = s.jcq := rfl
@[simp] theorem setBobbin_regs (u : Nat) (b : Bobbin) : (setBobbin u b s).regs = s.regs := rfl
@[simp] theorem setBobbin_parts (u : Nat) (b : Bobbin) : (setBobbin u b s).parts = s.parts := rfl
@[simp] theorem setBobbin_saf (u : Nat) (b : Bobbin) : (setBobbin u b s).saf = s.saf := rfl
@[simp] theorem setBobbin_lnk (u : Nat) (b : Bobbin) : (setBobbin u b s).lnk = s.lnk := rfl
@[simp] theorem setBobbin_pwr (u : Nat) (b : Bobbin) : (setBobbin u b s).pwr = s.pwr := rfl
@[simp] theorem setBobbin_sht (u : Nat) (b : Bobbin) : (setBobbin u b s).sht = s.sht := rfl
@[simp] theorem setBobbin_red (u : Nat) (b : Bobbin) : (setBobbin u b s).red = s.red := rfl
@[simp] theorem setBobbin_bob (u : Nat) (b : Bobbin) : (setBobbin u b s).bob = { s.bob with bobbin := tset {} s.bob.bobbin u b } := rfl
@[simp] theorem setBobbin_cnt (u : Nat) (b : Bobbin) : (setBobbin u b s).cnt = s.cnt := rfl
@[simp] theorem setBobbin_hang (u : Nat) (b : Bobbin) : (setBobbin u b s).hang = s.hang := rfl
@[simp] theorem setBobbin_eth (u : Nat) (b : Bobbin) : (setBobbin u b s).eth = s.eth := rfl
@[simp] theorem setBobbin_cip (u : Nat) (b : Bobbin) : (setBobbin u b s).cip = s.cip := rfl
@[simp] theorem setBobbin_fw (u : Nat) (b : Bobbin) : (setBobbin u b s).fw = s.fw := rfl
@[simp] theorem setBobbin_pins (u : Nat) (b : Bobbin) : (setBobbin u b s).pins = s.pins := rfl
@[simp] theorem setBobbin_out (u : Nat) (b : Bobbin) : (setBobbin u b s).out = s.out := rfl
@[simp] theorem setBobbin_seed (u : Nat) (b : Bobbin) : (setBobbin u b s).seed = s.seed := rfl
@[simp] theorem setBobbin_pending (u : Nat) (b : Bobbin) : (setBobbin u b s).pending = s.pending := rfl
@[simp] theorem bobbinOf_setBobbin (u : Nat) (b : Bobbin) : bobbinOf (setBobbin u b s) u = b := tget_tset_same _ _ _ _
theorem bobbinOf_setBobbin_other (u : Nat) (b : Bobbin) (j : Nat) (hj : j ≠ u) : bobbinOf (setBobbin u b s) j = bobbinOf s j :=
  tget_tset_other _ _ _ hj

/-! ## `setLaunch` -/

@[simp] theorem setLaunch_time (l : Launch) : (setLaunch l s).time = s.time := rfl
@[simp] theorem setLaunch_weft (l : Launch) : (setLaunch l s).weft = s.weft := rfl
@[simp] theorem setLaunch_spl (l : Launch) : (setLaunch l s).spl = s.spl := rfl
@[simp] theorem setLaunch_hdl (l : Launch) : (setLaunch l s).hdl = s.hdl := rfl
@[simp] theorem setLaunch_jcq (l : Launch) : (setLaunch l s).jcq = s.jcq := rfl
@[simp] theorem setLaunch_regs (l : Launch) : (setLaunch l s).regs = s.regs := rfl
@[simp] theorem setLaunch_parts (l : Launch) : (setLaunch l s).parts = s.parts := rfl
@[simp] theorem setLaunch_saf (l : Launch) : (setLaunch l s).saf = s.saf := rfl
@[simp] theorem setLaunch_lnk (l : Launch) : (setLaunch l s).lnk = s.lnk := rfl
@[simp] theorem setLaunch_pwr (l : Launch) : (setLaunch l s).pwr = s.pwr := rfl
@[simp] theorem setLaunch_sht (l : Launch) : (setLaunch l s).sht = s.sht := rfl
@[simp] theorem setLaunch_red (l : Launch) : (setLaunch l s).red = s.red := rfl
@[simp] theorem setLaunch_bob (l : Launch) : (setLaunch l s).bob = { s.bob with launch := s.bob.launch.map fun x => if x.id = l.id then l else x } := rfl
@[simp] theorem setLaunch_cnt (l : Launch) : (setLaunch l s).cnt = s.cnt := rfl
@[simp] theorem setLaunch_hang (l : Launch) : (setLaunch l s).hang = s.hang := rfl
@[simp] theorem setLaunch_eth (l : Launch) : (setLaunch l s).eth = s.eth := rfl
@[simp] theorem setLaunch_cip (l : Launch) : (setLaunch l s).cip = s.cip := rfl
@[simp] theorem setLaunch_fw (l : Launch) : (setLaunch l s).fw = s.fw := rfl
@[simp] theorem setLaunch_pins (l : Launch) : (setLaunch l s).pins = s.pins := rfl
@[simp] theorem setLaunch_out (l : Launch) : (setLaunch l s).out = s.out := rfl
@[simp] theorem setLaunch_seed (l : Launch) : (setLaunch l s).seed = s.seed := rfl
@[simp] theorem setLaunch_pending (l : Launch) : (setLaunch l s).pending = s.pending := rfl

/-! ## `setImage` -/

@[simp] theorem setImage_time (i : Nat) (m : Image) : (setImage i m s).time = s.time := rfl
@[simp] theorem setImage_weft (i : Nat) (m : Image) : (setImage i m s).weft = s.weft := rfl
@[simp] theorem setImage_spl (i : Nat) (m : Image) : (setImage i m s).spl = s.spl := rfl
@[simp] theorem setImage_hdl (i : Nat) (m : Image) : (setImage i m s).hdl = s.hdl := rfl
@[simp] theorem setImage_jcq (i : Nat) (m : Image) : (setImage i m s).jcq = s.jcq := rfl
@[simp] theorem setImage_regs (i : Nat) (m : Image) : (setImage i m s).regs = s.regs := rfl
@[simp] theorem setImage_parts (i : Nat) (m : Image) : (setImage i m s).parts = s.parts := rfl
@[simp] theorem setImage_saf (i : Nat) (m : Image) : (setImage i m s).saf = s.saf := rfl
@[simp] theorem setImage_lnk (i : Nat) (m : Image) : (setImage i m s).lnk = s.lnk := rfl
@[simp] theorem setImage_pwr (i : Nat) (m : Image) : (setImage i m s).pwr = s.pwr := rfl
@[simp] theorem setImage_sht (i : Nat) (m : Image) : (setImage i m s).sht = s.sht := rfl
@[simp] theorem setImage_red (i : Nat) (m : Image) : (setImage i m s).red = s.red := rfl
@[simp] theorem setImage_bob (i : Nat) (m : Image) : (setImage i m s).bob = { s.bob with image := tset {} s.bob.image i m } := rfl
@[simp] theorem setImage_cnt (i : Nat) (m : Image) : (setImage i m s).cnt = s.cnt := rfl
@[simp] theorem setImage_hang (i : Nat) (m : Image) : (setImage i m s).hang = s.hang := rfl
@[simp] theorem setImage_eth (i : Nat) (m : Image) : (setImage i m s).eth = s.eth := rfl
@[simp] theorem setImage_cip (i : Nat) (m : Image) : (setImage i m s).cip = s.cip := rfl
@[simp] theorem setImage_fw (i : Nat) (m : Image) : (setImage i m s).fw = s.fw := rfl
@[simp] theorem setImage_pins (i : Nat) (m : Image) : (setImage i m s).pins = s.pins := rfl
@[simp] theorem setImage_out (i : Nat) (m : Image) : (setImage i m s).out = s.out := rfl
@[simp] theorem setImage_seed (i : Nat) (m : Image) : (setImage i m s).seed = s.seed := rfl
@[simp] theorem setImage_pending (i : Nat) (m : Image) : (setImage i m s).pending = s.pending := rfl
@[simp] theorem imageAt_setImage (i : Nat) (m : Image) : imageAt (setImage i m s) i = m := tget_tset_same _ _ _ _
theorem imageAt_setImage_other (i : Nat) (m : Image) (j : Nat) (hj : j ≠ i) : imageAt (setImage i m s) j = imageAt s j :=
  tget_tset_other _ _ _ hj

/-! ## `setSeq` -/

@[simp] theorem setSeq_time (q : Nat) (e : SeqEntry) : (setSeq q e s).time = s.time := rfl
@[simp] theorem setSeq_weft (q : Nat) (e : SeqEntry) : (setSeq q e s).weft = s.weft := rfl
@[simp] theorem setSeq_spl (q : Nat) (e : SeqEntry) : (setSeq q e s).spl = s.spl := rfl
@[simp] theorem setSeq_hdl (q : Nat) (e : SeqEntry) : (setSeq q e s).hdl = s.hdl := rfl
@[simp] theorem setSeq_jcq (q : Nat) (e : SeqEntry) : (setSeq q e s).jcq = s.jcq := rfl
@[simp] theorem setSeq_regs (q : Nat) (e : SeqEntry) : (setSeq q e s).regs = s.regs := rfl
@[simp] theorem setSeq_parts (q : Nat) (e : SeqEntry) : (setSeq q e s).parts = s.parts := rfl
@[simp] theorem setSeq_saf (q : Nat) (e : SeqEntry) : (setSeq q e s).saf = s.saf := rfl
@[simp] theorem setSeq_lnk (q : Nat) (e : SeqEntry) : (setSeq q e s).lnk = s.lnk := rfl
@[simp] theorem setSeq_pwr (q : Nat) (e : SeqEntry) : (setSeq q e s).pwr = s.pwr := rfl
@[simp] theorem setSeq_sht (q : Nat) (e : SeqEntry) : (setSeq q e s).sht = s.sht := rfl
@[simp] theorem setSeq_red (q : Nat) (e : SeqEntry) : (setSeq q e s).red = s.red := rfl
@[simp] theorem setSeq_bob (q : Nat) (e : SeqEntry) : (setSeq q e s).bob = { s.bob with seq := tset {} s.bob.seq q e } := rfl
@[simp] theorem setSeq_cnt (q : Nat) (e : SeqEntry) : (setSeq q e s).cnt = s.cnt := rfl
@[simp] theorem setSeq_hang (q : Nat) (e : SeqEntry) : (setSeq q e s).hang = s.hang := rfl
@[simp] theorem setSeq_eth (q : Nat) (e : SeqEntry) : (setSeq q e s).eth = s.eth := rfl
@[simp] theorem setSeq_cip (q : Nat) (e : SeqEntry) : (setSeq q e s).cip = s.cip := rfl
@[simp] theorem setSeq_fw (q : Nat) (e : SeqEntry) : (setSeq q e s).fw = s.fw := rfl
@[simp] theorem setSeq_pins (q : Nat) (e : SeqEntry) : (setSeq q e s).pins = s.pins := rfl
@[simp] theorem setSeq_out (q : Nat) (e : SeqEntry) : (setSeq q e s).out = s.out := rfl
@[simp] theorem setSeq_seed (q : Nat) (e : SeqEntry) : (setSeq q e s).seed = s.seed := rfl
@[simp] theorem setSeq_pending (q : Nat) (e : SeqEntry) : (setSeq q e s).pending = s.pending := rfl
@[simp] theorem seqOf_setSeq (q : Nat) (e : SeqEntry) : seqOf (setSeq q e s) q = e := tget_tset_same _ _ _ _
theorem seqOf_setSeq_other (q : Nat) (e : SeqEntry) (j : Nat) (hj : j ≠ q) : seqOf (setSeq q e s) j = seqOf s j :=
  tget_tset_other _ _ _ hj

/-! ## `setEthp` -/

@[simp] theorem setEthp_time (k : Nat) (p : EthPort) : (setEthp k p s).time = s.time := rfl
@[simp] theorem setEthp_weft (k : Nat) (p : EthPort) : (setEthp k p s).weft = s.weft := rfl
@[simp] theorem setEthp_spl (k : Nat) (p : EthPort) : (setEthp k p s).spl = s.spl := rfl
@[simp] theorem setEthp_hdl (k : Nat) (p : EthPort) : (setEthp k p s).hdl = s.hdl := rfl
@[simp] theorem setEthp_jcq (k : Nat) (p : EthPort) : (setEthp k p s).jcq = s.jcq := rfl
@[simp] theorem setEthp_regs (k : Nat) (p : EthPort) : (setEthp k p s).regs = s.regs := rfl
@[simp] theorem setEthp_parts (k : Nat) (p : EthPort) : (setEthp k p s).parts = s.parts := rfl
@[simp] theorem setEthp_saf (k : Nat) (p : EthPort) : (setEthp k p s).saf = s.saf := rfl
@[simp] theorem setEthp_lnk (k : Nat) (p : EthPort) : (setEthp k p s).lnk = s.lnk := rfl
@[simp] theorem setEthp_pwr (k : Nat) (p : EthPort) : (setEthp k p s).pwr = s.pwr := rfl
@[simp] theorem setEthp_sht (k : Nat) (p : EthPort) : (setEthp k p s).sht = s.sht := rfl
@[simp] theorem setEthp_red (k : Nat) (p : EthPort) : (setEthp k p s).red = s.red := rfl
@[simp] theorem setEthp_bob (k : Nat) (p : EthPort) : (setEthp k p s).bob = s.bob := rfl
@[simp] theorem setEthp_cnt (k : Nat) (p : EthPort) : (setEthp k p s).cnt = s.cnt := rfl
@[simp] theorem setEthp_hang (k : Nat) (p : EthPort) : (setEthp k p s).hang = s.hang := rfl
@[simp] theorem setEthp_eth (k : Nat) (p : EthPort) : (setEthp k p s).eth = { s.eth with port := tset {} s.eth.port k p } := rfl
@[simp] theorem setEthp_cip (k : Nat) (p : EthPort) : (setEthp k p s).cip = s.cip := rfl
@[simp] theorem setEthp_fw (k : Nat) (p : EthPort) : (setEthp k p s).fw = s.fw := rfl
@[simp] theorem setEthp_pins (k : Nat) (p : EthPort) : (setEthp k p s).pins = s.pins := rfl
@[simp] theorem setEthp_out (k : Nat) (p : EthPort) : (setEthp k p s).out = s.out := rfl
@[simp] theorem setEthp_seed (k : Nat) (p : EthPort) : (setEthp k p s).seed = s.seed := rfl
@[simp] theorem setEthp_pending (k : Nat) (p : EthPort) : (setEthp k p s).pending = s.pending := rfl
@[simp] theorem ethp_setEthp (k : Nat) (p : EthPort) : ethp (setEthp k p s) k = p := tget_tset_same _ _ _ _
theorem ethp_setEthp_other (k : Nat) (p : EthPort) (j : Nat) (hj : j ≠ k) : ethp (setEthp k p s) j = ethp s j :=
  tget_tset_other _ _ _ hj

/-! ## `setKeySlot` -/

@[simp] theorem setKeySlot_time (n : Nat) (k : KeySlot) : (setKeySlot n k s).time = s.time := rfl
@[simp] theorem setKeySlot_weft (n : Nat) (k : KeySlot) : (setKeySlot n k s).weft = s.weft := rfl
@[simp] theorem setKeySlot_spl (n : Nat) (k : KeySlot) : (setKeySlot n k s).spl = s.spl := rfl
@[simp] theorem setKeySlot_hdl (n : Nat) (k : KeySlot) : (setKeySlot n k s).hdl = s.hdl := rfl
@[simp] theorem setKeySlot_jcq (n : Nat) (k : KeySlot) : (setKeySlot n k s).jcq = s.jcq := rfl
@[simp] theorem setKeySlot_regs (n : Nat) (k : KeySlot) : (setKeySlot n k s).regs = s.regs := rfl
@[simp] theorem setKeySlot_parts (n : Nat) (k : KeySlot) : (setKeySlot n k s).parts = s.parts := rfl
@[simp] theorem setKeySlot_saf (n : Nat) (k : KeySlot) : (setKeySlot n k s).saf = s.saf := rfl
@[simp] theorem setKeySlot_lnk (n : Nat) (k : KeySlot) : (setKeySlot n k s).lnk = s.lnk := rfl
@[simp] theorem setKeySlot_pwr (n : Nat) (k : KeySlot) : (setKeySlot n k s).pwr = s.pwr := rfl
@[simp] theorem setKeySlot_sht (n : Nat) (k : KeySlot) : (setKeySlot n k s).sht = s.sht := rfl
@[simp] theorem setKeySlot_red (n : Nat) (k : KeySlot) : (setKeySlot n k s).red = s.red := rfl
@[simp] theorem setKeySlot_bob (n : Nat) (k : KeySlot) : (setKeySlot n k s).bob = s.bob := rfl
@[simp] theorem setKeySlot_cnt (n : Nat) (k : KeySlot) : (setKeySlot n k s).cnt = s.cnt := rfl
@[simp] theorem setKeySlot_hang (n : Nat) (k : KeySlot) : (setKeySlot n k s).hang = s.hang := rfl
@[simp] theorem setKeySlot_eth (n : Nat) (k : KeySlot) : (setKeySlot n k s).eth = s.eth := rfl
@[simp] theorem setKeySlot_cip (n : Nat) (k : KeySlot) : (setKeySlot n k s).cip = { s.cip with slot := tset {} s.cip.slot n k } := rfl
@[simp] theorem setKeySlot_fw (n : Nat) (k : KeySlot) : (setKeySlot n k s).fw = s.fw := rfl
@[simp] theorem setKeySlot_pins (n : Nat) (k : KeySlot) : (setKeySlot n k s).pins = s.pins := rfl
@[simp] theorem setKeySlot_out (n : Nat) (k : KeySlot) : (setKeySlot n k s).out = s.out := rfl
@[simp] theorem setKeySlot_seed (n : Nat) (k : KeySlot) : (setKeySlot n k s).seed = s.seed := rfl
@[simp] theorem setKeySlot_pending (n : Nat) (k : KeySlot) : (setKeySlot n k s).pending = s.pending := rfl
@[simp] theorem keySlot_setKeySlot (n : Nat) (k : KeySlot) : keySlot (setKeySlot n k s) n = k := tget_tset_same _ _ _ _
theorem keySlot_setKeySlot_other (n : Nat) (k : KeySlot) (j : Nat) (hj : j ≠ n) : keySlot (setKeySlot n k s) j = keySlot s j :=
  tget_tset_other _ _ _ hj

/-! ## `setSafUnit` -/

@[simp] theorem setSafUnit_time (u : Nat) (v : SafUnit) : (setSafUnit u v s).time = s.time := rfl
@[simp] theorem setSafUnit_weft (u : Nat) (v : SafUnit) : (setSafUnit u v s).weft = s.weft := rfl
@[simp] theorem setSafUnit_spl (u : Nat) (v : SafUnit) : (setSafUnit u v s).spl = s.spl := rfl
@[simp] theorem setSafUnit_hdl (u : Nat) (v : SafUnit) : (setSafUnit u v s).hdl = s.hdl := rfl
@[simp] theorem setSafUnit_jcq (u : Nat) (v : SafUnit) : (setSafUnit u v s).jcq = s.jcq := rfl
@[simp] theorem setSafUnit_regs (u : Nat) (v : SafUnit) : (setSafUnit u v s).regs = s.regs := rfl
@[simp] theorem setSafUnit_parts (u : Nat) (v : SafUnit) : (setSafUnit u v s).parts = s.parts := rfl
@[simp] theorem setSafUnit_saf (u : Nat) (v : SafUnit) : (setSafUnit u v s).saf = { s.saf with unit := tset {} s.saf.unit u v } := rfl
@[simp] theorem setSafUnit_lnk (u : Nat) (v : SafUnit) : (setSafUnit u v s).lnk = s.lnk := rfl
@[simp] theorem setSafUnit_pwr (u : Nat) (v : SafUnit) : (setSafUnit u v s).pwr = s.pwr := rfl
@[simp] theorem setSafUnit_sht (u : Nat) (v : SafUnit) : (setSafUnit u v s).sht = s.sht := rfl
@[simp] theorem setSafUnit_red (u : Nat) (v : SafUnit) : (setSafUnit u v s).red = s.red := rfl
@[simp] theorem setSafUnit_bob (u : Nat) (v : SafUnit) : (setSafUnit u v s).bob = s.bob := rfl
@[simp] theorem setSafUnit_cnt (u : Nat) (v : SafUnit) : (setSafUnit u v s).cnt = s.cnt := rfl
@[simp] theorem setSafUnit_hang (u : Nat) (v : SafUnit) : (setSafUnit u v s).hang = s.hang := rfl
@[simp] theorem setSafUnit_eth (u : Nat) (v : SafUnit) : (setSafUnit u v s).eth = s.eth := rfl
@[simp] theorem setSafUnit_cip (u : Nat) (v : SafUnit) : (setSafUnit u v s).cip = s.cip := rfl
@[simp] theorem setSafUnit_fw (u : Nat) (v : SafUnit) : (setSafUnit u v s).fw = s.fw := rfl
@[simp] theorem setSafUnit_pins (u : Nat) (v : SafUnit) : (setSafUnit u v s).pins = s.pins := rfl
@[simp] theorem setSafUnit_out (u : Nat) (v : SafUnit) : (setSafUnit u v s).out = s.out := rfl
@[simp] theorem setSafUnit_seed (u : Nat) (v : SafUnit) : (setSafUnit u v s).seed = s.seed := rfl
@[simp] theorem setSafUnit_pending (u : Nat) (v : SafUnit) : (setSafUnit u v s).pending = s.pending := rfl
@[simp] theorem safUnit_setSafUnit (u : Nat) (v : SafUnit) : safUnit (setSafUnit u v s) u = v := tget_tset_same _ _ _ _
theorem safUnit_setSafUnit_other (u : Nat) (v : SafUnit) (j : Nat) (hj : j ≠ u) : safUnit (setSafUnit u v s) j = safUnit s j :=
  tget_tset_other _ _ _ hj

/-! ## `setHang` -/

@[simp] theorem setHang_time (h : HangState) : (setHang h s).time = s.time := rfl
@[simp] theorem setHang_weft (h : HangState) : (setHang h s).weft = s.weft := rfl
@[simp] theorem setHang_spl (h : HangState) : (setHang h s).spl = s.spl := rfl
@[simp] theorem setHang_hdl (h : HangState) : (setHang h s).hdl = s.hdl := rfl
@[simp] theorem setHang_jcq (h : HangState) : (setHang h s).jcq = s.jcq := rfl
@[simp] theorem setHang_regs (h : HangState) : (setHang h s).regs = s.regs := rfl
@[simp] theorem setHang_parts (h : HangState) : (setHang h s).parts = s.parts := rfl
@[simp] theorem setHang_saf (h : HangState) : (setHang h s).saf = s.saf := rfl
@[simp] theorem setHang_lnk (h : HangState) : (setHang h s).lnk = s.lnk := rfl
@[simp] theorem setHang_pwr (h : HangState) : (setHang h s).pwr = s.pwr := rfl
@[simp] theorem setHang_sht (h : HangState) : (setHang h s).sht = s.sht := rfl
@[simp] theorem setHang_red (h : HangState) : (setHang h s).red = s.red := rfl
@[simp] theorem setHang_bob (h : HangState) : (setHang h s).bob = s.bob := rfl
@[simp] theorem setHang_cnt (h : HangState) : (setHang h s).cnt = s.cnt := rfl
@[simp] theorem setHang_hang (h : HangState) : (setHang h s).hang = h := rfl
@[simp] theorem setHang_eth (h : HangState) : (setHang h s).eth = s.eth := rfl
@[simp] theorem setHang_cip (h : HangState) : (setHang h s).cip = s.cip := rfl
@[simp] theorem setHang_fw (h : HangState) : (setHang h s).fw = s.fw := rfl
@[simp] theorem setHang_pins (h : HangState) : (setHang h s).pins = s.pins := rfl
@[simp] theorem setHang_out (h : HangState) : (setHang h s).out = s.out := rfl
@[simp] theorem setHang_seed (h : HangState) : (setHang h s).seed = s.seed := rfl
@[simp] theorem setHang_pending (h : HangState) : (setHang h s).pending = s.pending := rfl

/-! ## `setMbox` -/

@[simp] theorem setMbox_time (m : Nat) (x : Mailbox) : (setMbox m x s).time = s.time := rfl
@[simp] theorem setMbox_weft (m : Nat) (x : Mailbox) : (setMbox m x s).weft = s.weft := rfl
@[simp] theorem setMbox_spl (m : Nat) (x : Mailbox) : (setMbox m x s).spl = s.spl := rfl
@[simp] theorem setMbox_hdl (m : Nat) (x : Mailbox) : (setMbox m x s).hdl = s.hdl := rfl
@[simp] theorem setMbox_jcq (m : Nat) (x : Mailbox) : (setMbox m x s).jcq = s.jcq := rfl
@[simp] theorem setMbox_regs (m : Nat) (x : Mailbox) : (setMbox m x s).regs = s.regs := rfl
@[simp] theorem setMbox_parts (m : Nat) (x : Mailbox) : (setMbox m x s).parts = s.parts := rfl
@[simp] theorem setMbox_saf (m : Nat) (x : Mailbox) : (setMbox m x s).saf = s.saf := rfl
@[simp] theorem setMbox_lnk (m : Nat) (x : Mailbox) : (setMbox m x s).lnk = s.lnk := rfl
@[simp] theorem setMbox_pwr (m : Nat) (x : Mailbox) : (setMbox m x s).pwr = s.pwr := rfl
@[simp] theorem setMbox_sht (m : Nat) (x : Mailbox) : (setMbox m x s).sht = s.sht := rfl
@[simp] theorem setMbox_red (m : Nat) (x : Mailbox) : (setMbox m x s).red = s.red := rfl
@[simp] theorem setMbox_bob (m : Nat) (x : Mailbox) : (setMbox m x s).bob = s.bob := rfl
@[simp] theorem setMbox_cnt (m : Nat) (x : Mailbox) : (setMbox m x s).cnt = s.cnt := rfl
@[simp] theorem setMbox_hang (m : Nat) (x : Mailbox) : (setMbox m x s).hang = s.hang := rfl
@[simp] theorem setMbox_eth (m : Nat) (x : Mailbox) : (setMbox m x s).eth = s.eth := rfl
@[simp] theorem setMbox_cip (m : Nat) (x : Mailbox) : (setMbox m x s).cip = s.cip := rfl
@[simp] theorem setMbox_fw (m : Nat) (x : Mailbox) : (setMbox m x s).fw = { s.fw with mbox := tset {} s.fw.mbox m x } := rfl
@[simp] theorem setMbox_pins (m : Nat) (x : Mailbox) : (setMbox m x s).pins = s.pins := rfl
@[simp] theorem setMbox_out (m : Nat) (x : Mailbox) : (setMbox m x s).out = s.out := rfl
@[simp] theorem setMbox_seed (m : Nat) (x : Mailbox) : (setMbox m x s).seed = s.seed := rfl
@[simp] theorem setMbox_pending (m : Nat) (x : Mailbox) : (setMbox m x s).pending = s.pending := rfl
@[simp] theorem mbox_setMbox (m : Nat) (x : Mailbox) : mbox (setMbox m x s) m = x := tget_tset_same _ _ _ _
theorem mbox_setMbox_other (m : Nat) (x : Mailbox) (j : Nat) (hj : j ≠ m) : mbox (setMbox m x s) j = mbox s j :=
  tget_tset_other _ _ _ hj

/-! ## `setDomain` -/

@[simp] theorem setDomain_time (x : Nat) (d : Domain) : (setDomain x d s).time = s.time := rfl
@[simp] theorem setDomain_weft (x : Nat) (d : Domain) : (setDomain x d s).weft = s.weft := rfl
@[simp] theorem setDomain_spl (x : Nat) (d : Domain) : (setDomain x d s).spl = s.spl := rfl
@[simp] theorem setDomain_hdl (x : Nat) (d : Domain) : (setDomain x d s).hdl = s.hdl := rfl
@[simp] theorem setDomain_jcq (x : Nat) (d : Domain) : (setDomain x d s).jcq = s.jcq := rfl
@[simp] theorem setDomain_regs (x : Nat) (d : Domain) : (setDomain x d s).regs = s.regs := rfl
@[simp] theorem setDomain_parts (x : Nat) (d : Domain) : (setDomain x d s).parts = s.parts := rfl
@[simp] theorem setDomain_saf (x : Nat) (d : Domain) : (setDomain x d s).saf = s.saf := rfl
@[simp] theorem setDomain_lnk (x : Nat) (d : Domain) : (setDomain x d s).lnk = s.lnk := rfl
@[simp] theorem setDomain_pwr (x : Nat) (d : Domain) : (setDomain x d s).pwr = { s.pwr with domain := tset {} s.pwr.domain x d } := rfl
@[simp] theorem setDomain_sht (x : Nat) (d : Domain) : (setDomain x d s).sht = s.sht := rfl
@[simp] theorem setDomain_red (x : Nat) (d : Domain) : (setDomain x d s).red = s.red := rfl
@[simp] theorem setDomain_bob (x : Nat) (d : Domain) : (setDomain x d s).bob = s.bob := rfl
@[simp] theorem setDomain_cnt (x : Nat) (d : Domain) : (setDomain x d s).cnt = s.cnt := rfl
@[simp] theorem setDomain_hang (x : Nat) (d : Domain) : (setDomain x d s).hang = s.hang := rfl
@[simp] theorem setDomain_eth (x : Nat) (d : Domain) : (setDomain x d s).eth = s.eth := rfl
@[simp] theorem setDomain_cip (x : Nat) (d : Domain) : (setDomain x d s).cip = s.cip := rfl
@[simp] theorem setDomain_fw (x : Nat) (d : Domain) : (setDomain x d s).fw = s.fw := rfl
@[simp] theorem setDomain_pins (x : Nat) (d : Domain) : (setDomain x d s).pins = s.pins := rfl
@[simp] theorem setDomain_out (x : Nat) (d : Domain) : (setDomain x d s).out = s.out := rfl
@[simp] theorem setDomain_seed (x : Nat) (d : Domain) : (setDomain x d s).seed = s.seed := rfl
@[simp] theorem setDomain_pending (x : Nat) (d : Domain) : (setDomain x d s).pending = s.pending := rfl
@[simp] theorem domain_setDomain (x : Nat) (d : Domain) : domain (setDomain x d s) x = d := tget_tset_same _ _ _ _
theorem domain_setDomain_other (x : Nat) (d : Domain) (j : Nat) (hj : j ≠ x) : domain (setDomain x d s) j = domain s j :=
  tget_tset_other _ _ _ hj

/-! ## `setRegulator` -/

@[simp] theorem setRegulator_time (i : Nat) (r : Regulator) : (setRegulator i r s).time = s.time := rfl
@[simp] theorem setRegulator_weft (i : Nat) (r : Regulator) : (setRegulator i r s).weft = s.weft := rfl
@[simp] theorem setRegulator_spl (i : Nat) (r : Regulator) : (setRegulator i r s).spl = s.spl := rfl
@[simp] theorem setRegulator_hdl (i : Nat) (r : Regulator) : (setRegulator i r s).hdl = s.hdl := rfl
@[simp] theorem setRegulator_jcq (i : Nat) (r : Regulator) : (setRegulator i r s).jcq = s.jcq := rfl
@[simp] theorem setRegulator_regs (i : Nat) (r : Regulator) : (setRegulator i r s).regs = s.regs := rfl
@[simp] theorem setRegulator_parts (i : Nat) (r : Regulator) : (setRegulator i r s).parts = s.parts := rfl
@[simp] theorem setRegulator_saf (i : Nat) (r : Regulator) : (setRegulator i r s).saf = s.saf := rfl
@[simp] theorem setRegulator_lnk (i : Nat) (r : Regulator) : (setRegulator i r s).lnk = s.lnk := rfl
@[simp] theorem setRegulator_pwr (i : Nat) (r : Regulator) : (setRegulator i r s).pwr = { s.pwr with vr := tset {} s.pwr.vr i r } := rfl
@[simp] theorem setRegulator_sht (i : Nat) (r : Regulator) : (setRegulator i r s).sht = s.sht := rfl
@[simp] theorem setRegulator_red (i : Nat) (r : Regulator) : (setRegulator i r s).red = s.red := rfl
@[simp] theorem setRegulator_bob (i : Nat) (r : Regulator) : (setRegulator i r s).bob = s.bob := rfl
@[simp] theorem setRegulator_cnt (i : Nat) (r : Regulator) : (setRegulator i r s).cnt = s.cnt := rfl
@[simp] theorem setRegulator_hang (i : Nat) (r : Regulator) : (setRegulator i r s).hang = s.hang := rfl
@[simp] theorem setRegulator_eth (i : Nat) (r : Regulator) : (setRegulator i r s).eth = s.eth := rfl
@[simp] theorem setRegulator_cip (i : Nat) (r : Regulator) : (setRegulator i r s).cip = s.cip := rfl
@[simp] theorem setRegulator_fw (i : Nat) (r : Regulator) : (setRegulator i r s).fw = s.fw := rfl
@[simp] theorem setRegulator_pins (i : Nat) (r : Regulator) : (setRegulator i r s).pins = s.pins := rfl
@[simp] theorem setRegulator_out (i : Nat) (r : Regulator) : (setRegulator i r s).out = s.out := rfl
@[simp] theorem setRegulator_seed (i : Nat) (r : Regulator) : (setRegulator i r s).seed = s.seed := rfl
@[simp] theorem setRegulator_pending (i : Nat) (r : Regulator) : (setRegulator i r s).pending = s.pending := rfl

end Sys2Proof.Machine
end

