-- ==== Sys2Proof/Laws/Frame.lean ====
section
/-! SUPPORT. What the shared operations can touch: accesses to memory and buffers, events, records and the handling of reports
change memory, the queues of events, the host ports, the records and the counters, and nothing else of the state. -/

namespace Sys2Proof.Machine

/-- `s` with those parts of `t` that an access, an event or a record can change. -/
def withTouched (s t : State) : State :=
  { s with
    spl := { s.spl with mem := t.spl.mem, poison := t.spl.poison, ctxDeny := t.spl.ctxDeny,
                        ctxDenySeen := t.spl.ctxDenySeen, hostDenySeen := t.spl.hostDenySeen, ueCount := t.spl.ueCount,
                        filter := t.spl.filter }
    jcq := { s.jcq with admin := t.jcq.admin, eqOverflowSeen := t.jcq.eqOverflowSeen }
    lnk := { s.lnk with hport := t.lnk.hport, pba := t.lnk.pba, answers := t.lnk.answers, cxlReqs := t.lnk.cxlReqs,
                        nextReq := t.lnk.nextReq,
                        hostwinDenySeen := t.lnk.hostwinDenySeen }
    saf := { s.saf with unit := t.saf.unit, ring := t.saf.ring, nextSeq := t.saf.nextSeq, overflow := t.saf.overflow,
                        overflowUnit := t.saf.overflowUnit, overflowCause := t.saf.overflowCause,
                        overflowTime := t.saf.overflowTime, dangerOverflow := t.saf.dangerOverflow,
                        detected := t.saf.detected, todo := t.saf.todo }
    cnt := t.cnt
    out := t.out }

/-- Nothing else differs. -/
def Touches (s t : State) : Prop := t = withTouched s t

theorem Touches.refl (s : State) : Touches s s := rfl

theorem Touches.trans {s t u : State} (h : Touches s t) (k : Touches t u) : Touches s u := by
  have e := congrArg (fun x => withTouched x u) (show t = withTouched s t from h)
  exact Eq.trans k e

/-! ## What a touched state still agrees on -/

section
variable {s t : State} (h : Touches s t)
include h

theorem Touches.time : t.time = s.time := congrArg (·.time) h
theorem Touches.weft : t.weft = s.weft := congrArg (·.weft) h
theorem Touches.hdl : t.hdl = s.hdl := congrArg (·.hdl) h
theorem Touches.regs : t.regs = s.regs := congrArg (·.regs) h
theorem Touches.parts : t.parts = s.parts := congrArg (·.parts) h
theorem Touches.pwr : t.pwr = s.pwr := congrArg (·.pwr) h
theorem Touches.sht : t.sht = s.sht := congrArg (·.sht) h
theorem Touches.red : t.red = s.red := congrArg (·.red) h
theorem Touches.bob : t.bob = s.bob := congrArg (·.bob) h
theorem Touches.hang : t.hang = s.hang := congrArg (·.hang) h
theorem Touches.eth : t.eth = s.eth := congrArg (·.eth) h
theorem Touches.cip : t.cip = s.cip := congrArg (·.cip) h
theorem Touches.fw : t.fw = s.fw := congrArg (·.fw) h
theorem Touches.pins : t.pins = s.pins := congrArg (·.pins) h
theorem Touches.seed : t.seed = s.seed := congrArg (·.seed) h
theorem Touches.pending : t.pending = s.pending := congrArg (·.pending) h
theorem Touches.skein : t.jcq.skein = s.jcq.skein := congrArg (·.jcq.skein) h
theorem Touches.dispatched : t.jcq.dispatched = s.jcq.dispatched := congrArg (·.jcq.dispatched) h
theorem Touches.done : t.jcq.done = s.jcq.done := congrArg (·.jcq.done) h
theorem Touches.waiting : t.jcq.waiting = s.jcq.waiting := congrArg (·.jcq.waiting) h
theorem Touches.proc : t.jcq.proc = s.jcq.proc := congrArg (·.jcq.proc) h
theorem Touches.dbDrop : t.jcq.dbDrop = s.jcq.dbDrop := congrArg (·.jcq.dbDrop) h
theorem Touches.dbRangeSeen : t.jcq.dbRangeSeen = s.jcq.dbRangeSeen := congrArg (·.jcq.dbRangeSeen) h
theorem Touches.unitCredit : t.jcq.unitCredit = s.jcq.unitCredit := congrArg (·.jcq.unitCredit) h
theorem Touches.got : t.spl.got = s.spl.got := congrArg (·.spl.got) h
theorem Touches.gotCopy : t.spl.gotCopy = s.spl.gotCopy := congrArg (·.spl.gotCopy) h
theorem Touches.ctxCopy : t.spl.ctxCopy = s.spl.ctxCopy := congrArg (·.spl.ctxCopy) h
theorem Touches.updates : t.spl.updates = s.spl.updates := congrArg (·.spl.updates) h
theorem Touches.aport : t.lnk.aport = s.lnk.aport := congrArg (·.lnk.aport) h
theorem Touches.msixOpen : t.lnk.msixOpen = s.lnk.msixOpen := congrArg (·.lnk.msixOpen) h
theorem Touches.recordHead : t.saf.head = s.saf.head := congrArg (·.saf.head) h
theorem Touches.pkg : t.saf.pkg = s.saf.pkg := congrArg (·.saf.pkg) h

end

/-! ## The shared operations -/

theorem emit_touches (o : Out) (s : State) : Touches s (emit o s) := rfl
theorem report_touches (r : Report) (s : State) : Touches s (report r s) := rfl
theorem record_touches (r : Record) (s : State) : Touches s (record r s) := rfl
theorem bumpPart_touches (p i n : Nat) (s : State) : Touches s (bumpPart p i n s) := rfl
theorem noteUe_touches (off : Nat) (s : State) : Touches s (noteUe off s) := rfl
theorem setHport_touches (x : Nat) (h : HPort) (s : State) : Touches s (setHport x h s) := rfl
theorem setAdminQ_touches (p : Nat) (a : AdminQ) (s : State) : Touches s (setAdminQ p a s) := rfl
theorem storePiece_touches (a : Nat) (bs : List Byte) (s : State) : Touches s (storePiece a bs s) := rfl
theorem noteDeny_touches (src ctx off : Nat) (s : State) : Touches s (noteDeny src ctx off s) := rfl
theorem setFilter_touches (line : Nat) (e : Option (Nat × Bool)) (s : State) : Touches s (setFilter line e s) := rfl
theorem loseEvent_touches (p typ : Nat) (s : State) : Touches s (loseEvent p typ s) := rfl

theorem bump_touches (u i n : Nat) (s : State) : Touches s (bump u i n s) := by
  unfold bump
  split <;> rfl

/-- A line the host port caches: its cache and what it sends change. -/
theorem cacheHostLine_touches (x line : Nat) (full : Bool) (s : State) : Touches s (cacheHostLine x line full s) := by
  simp only [cacheHostLine]
  split
  · rfl
  · split
    · split <;> split <;> rfl
    · split <;> rfl

/-- A read of host memory that goes out is among the port's requests. -/
theorem trackHostRead_touches (p pa len : Nat) (s : State) : Touches s (trackHostRead p pa len s) := by
  unfold trackHostRead
  split <;> rfl

/-- Counting changes the counters and nothing else. -/
theorem bump_frame (u i n : Nat) (s : State) : bump u i n s = { s with cnt := (bump u i n s).cnt } := by
  unfold bump
  split <;> rfl

theorem foldl_touches {β : Type} (f : State → β → State) (h : ∀ s b, Touches s (f s b)) (l : List β) (s : State) :
    Touches s (l.foldl f s) := by
  induction l generalizing s with
  | nil => rfl
  | cons b r ih => exact (h s b).trans (ih _)

/-- A snoop changes the filter, the counters and what is sent. -/
theorem snoopLine_touches (write : Bool) (off : Nat) (s : State) : Touches s (snoopLine write off s) := by
  unfold snoopLine
  split
  · rfl
  · rename_i port m _
    have h := bump_touches (controller (stackOf off)) 6 1 s
    split
    · exact (h.trans (setFilter_touches _ _ _)).trans (emit_touches _ _)
    · split
      · exact (h.trans (setFilter_touches _ _ _)).trans (emit_touches _ _)
      · rfl

theorem touchLine_touches (ctx : Nat) (write : Bool) (s : State) (p : Nat × Nat) : Touches s (touchLine ctx write s p) := by
  refine Touches.trans ?_ (bump_touches _ _ _ _)
  split
  · exact snoopLine_touches _ _ s
  · exact (snoopLine_touches _ _ s).trans (bumpPart_touches _ _ _ _)

theorem noteBad_touches (src ctx a : Nat) (st : Status) (s : State) : Touches s (noteBad src ctx a st s) := by
  unfold noteBad
  split
  · exact noteDeny_touches src ctx a s
  · split <;> rfl
  · rfl

theorem countLines_touches (ctx : Nat) (w : Bool) (ps : List (Nat × Nat)) (s : State) :
    Touches s (countLines ctx w ps s) := by
  exact foldl_touches _ (touchLine_touches ctx w) ps s

theorem storeUpTo_touches (off : Nat) (bs : List Byte) (stop : Option Nat) (ps : List (Nat × Nat)) (s : State) :
    Touches s (storeUpTo off bs stop ps s) := by
  induction ps generalizing s with
  | nil => rfl
  | cons e r ih =>
    obtain ⟨a, n⟩ := e
    simp only [storeUpTo]
    split
    · rfl
    · exact (storePiece_touches _ _ s).trans (ih _)

/-- A device read of Spool memory changes no memory. -/
theorem spoolRead_touches (src ctx off len : Nat) (s : State) : Touches s (spoolRead src ctx off len s).1 := by
  simp only [spoolRead]
  split
  · exact (countLines_touches _ _ _ s).trans (noteBad_touches _ _ _ _ _)
  · exact countLines_touches _ _ _ s

theorem spoolWrite_touches (src ctx off : Nat) (bs : List Byte) (s : State) :
    Touches s (spoolWrite src ctx off bs s).1 := by
  simp only [spoolWrite]
  split
  · exact ((storeUpTo_touches _ _ _ _ s).trans (countLines_touches _ _ _ _)).trans (noteBad_touches _ _ _ _ _)
  · exact (storeUpTo_touches _ _ _ _ s).trans (countLines_touches _ _ _ _)

theorem noteHostDeny_touches (p : Nat) (st : Status) (s : State) : Touches s (noteHostDeny p st s) := by
  unfold noteHostDeny
  split <;> rfl

theorem hostWrite_touches (p off : Nat) (bs : List Byte) (s : State) : Touches s (hostWrite p off bs s).1 := by
  simp only [hostWrite]
  split
  · exact ((foldl_touches _ (fun s b => cacheHostLine_touches _ _ _ s) _ s).trans (bump_touches _ _ _ _)).trans
      (emit_touches _ _)
  · exact noteHostDeny_touches _ _ s

theorem hostRead_touches (p off len : Nat) (ext : List ExtRead) (s : State) :
    Touches s (hostRead p off len ext s).1 := by
  simp only [hostRead]
  split
  · refine Touches.trans ?_ (emit_touches _ _)
    refine Touches.trans ?_ (bump_touches _ _ _ _)
    split
    · exact rfl
    · exact (trackHostRead_touches _ _ _ s).trans rfl
  · exact noteHostDeny_touches _ _ s

theorem bufWrite_touches (src p ctx pa : Nat) (bs : List Byte) (s : State) :
    Touches s (bufWrite src p ctx pa bs s).1 := by
  unfold bufWrite
  split
  · split
    · exact spoolWrite_touches _ _ _ _ s
    · rfl
  · split
    · exact hostWrite_touches _ _ _ s
    · rfl

theorem bufRead_touches (src p ctx pa len : Nat) (ext : List ExtRead) (s : State) :
    Touches s (bufRead src p ctx pa len ext s).1 := by
  unfold bufRead
  split
  · split
    · exact spoolRead_touches _ _ _ _ s
    · rfl
  · split
    · exact hostRead_touches _ _ _ _ s
    · rfl

theorem sendVector_touches (p v : Nat) (s : State) : Touches s (sendVector p v s) := by
  unfold sendVector
  split
  · rfl
  · split
    · split <;> rfl
    · rfl

theorem fireArm_touches (p : Nat) (q : OutQueue) (s : State) : Touches s (fireArm p q s).2 := by
  unfold fireArm
  split
  · exact sendVector_touches _ _ s
  · rfl

theorem putEvent_touches (p typ : Nat) (st : Status) (unit object info : Nat) (s : State) :
    Touches s (putEvent p typ st unit object info s).1 := by
  simp only [putEvent]
  split
  · rename_i x h
    have hb := bufWrite_touches (ownerUnit s (.admin p)) p (adminQ s p).eq.ring.bufCtx.toNat
      ((adminQ s p).eq.ring.pa.toNat + 32 * (adminQ s p).eq.next)
      (eventBytes typ (statusCode st) unit object (unitTime s unit).toNat info (adminQ s p).eq.phase) s
    rw [h] at hb
    exact (hb.trans (fireArm_touches p _ x)).trans (setAdminQ_touches _ _ _)
  · rename_i x y h
    have hb := bufWrite_touches (ownerUnit s (.admin p)) p (adminQ s p).eq.ring.bufCtx.toNat
      ((adminQ s p).eq.ring.pa.toNat + 32 * (adminQ s p).eq.next)
      (eventBytes typ (statusCode st) unit object (unitTime s unit).toNat info (adminQ s p).eq.phase) s
    rw [h] at hb
    exact hb.trans (setAdminQ_touches _ _ _)

theorem postEvent_touches (p typ : Nat) (st : Status) (unit object info : Nat) (s : State) :
    Touches s (postEvent p typ st unit object info s) := by
  have hp := putEvent_touches p typ st unit object info s
  simp only [postEvent]
  split
  · exact loseEvent_touches _ _ s
  · split
    · rename_i h
      rw [h] at hp
      exact hp
    · rename_i h
      rw [h] at hp
      exact hp.trans (loseEvent_touches _ _ _)

theorem overflowEntry_touches (p : Nat) (s : State) : Touches s (overflowEntry p s) := by
  simp only [overflowEntry]
  split
  · rfl
  · have hp := putEvent_touches p 0xFF .ok (ownerUnit s (.admin p)) 0 (adminQ s p).lostTypes.toNat s
    split
    · rename_i h
      rw [h] at hp
      exact hp.trans (setAdminQ_touches _ _ _)
    · rename_i x h
      rw [h] at hp
      exact hp.trans (t := x) rfl

theorem putRecord_touches (r : Record) (s : State) : Touches s (putRecord r s) := by
  simp only [putRecord]
  split <;> split <;> rfl

theorem writeRecord_touches (r : Record) (s : State) : Touches s (writeRecord r s) := by
  simp only [writeRecord]
  split
  · have h := (putRecord_touches r s).trans (postEvent_touches 0 0x06 .ok r.unit
      (eventObject (putRecord r s) 0 r) (s.saf.nextSeq.toNat + 2 ^ 32 * r.cause + 2 ^ 48 * r.cls) _)
    split
    · split
      · exact h
      · exact h.trans (postEvent_touches _ _ _ _ _ _ _)
    · exact h
  · exact putRecord_touches r s

theorem handleReport_touches (r : Report) (s : State) : Touches s (handleReport r s) := by
  cases r with
  | event p typ st unit object info => exact postEvent_touches _ _ _ _ _ _ s
  | record r =>
    simp only [handleReport]
    split
    · rfl
    · exact writeRecord_touches r s

theorem settleFor_touches (n : Nat) (s : State) : Touches s (settleFor n s) := by
  induction n generalizing s with
  | zero => rfl
  | succ n ih =>
    simp only [settleFor]
    split
    · rfl
    · rename_i r rest _
      exact Touches.trans (t := { s with saf := { s.saf with todo := rest } }) rfl
        ((handleReport_touches r _).trans (ih _))

/-- Handling the reports a command leaves touches only what an access, an event or a record can. -/
theorem settle_touches (s : State) : Touches s (settle s) := settleFor_touches _ s

/-! ## How a command ends -/

theorem settleFor_quiet (n : Nat) (s : State) (h : s.saf.todo = []) : settleFor n s = s := by
  cases n with
  | zero => rfl
  | succ n => simp only [settleFor, h]

@[simp] theorem settle_quiet (s : State) (h : s.saf.todo = []) : settle s = s := settleFor_quiet _ s h

theorem pinSeen_touches (name : String) (old new : Bool) (s : State) : Touches s (pinSeen name old new s) := by
  unfold pinSeen
  split <;> rfl

theorem pinSeen_eq (name : String) (old new : Bool) (s : State) : ∃ o, pinSeen name old new s = { s with out := o } := by
  unfold pinSeen
  split
  · exact ⟨_, rfl⟩
  · exact ⟨_, rfl⟩

/-- Telling pin changes to the outside changes nothing but what is sent. -/
theorem pinsSeen_eq (old : PinState) (s : State) : ∃ o, pinsSeen old s = { s with out := o } := by
  unfold pinsSeen
  obtain ⟨a, ha⟩ := pinSeen_eq "FAULT_N" old.faultN s.pins.faultN s
  rw [ha]
  obtain ⟨b, hb⟩ := pinSeen_eq "THERMTRIP_N" old.thermtripN s.pins.thermtripN { s with out := a }
  rw [hb]
  obtain ⟨c, hc⟩ := pinSeen_eq "VR_EN" old.vrEn s.pins.vrEn { s with out := b }
  exact ⟨c, hc⟩

theorem pinsSeen_touches (old : PinState) (s : State) : Touches s (pinsSeen old s) :=
  ((pinSeen_touches _ _ _ s).trans (pinSeen_touches _ _ _ _)).trans (pinSeen_touches _ _ _ _)

/-- The end of a command: reports handled, pins driven, the queue of commands and the time as before. -/
theorem ended_spec (s t : State) :
    Touches { t with pins := (ended s t).pins, pending := s.pending, time := s.time } (ended s t) := by
  have h := settle_touches t
  have h1 : Touches { t with pins := (ended s t).pins, pending := s.pending, time := s.time }
      { drivePins (settle t) with pins := (ended s t).pins, pending := s.pending, time := s.time } := by
    have := congrArg (fun x : State => { x with pins := (ended s t).pins, pending := s.pending, time := s.time }) h
    exact this
  have h2 := congrArg (fun x : State => { x with pins := (ended s t).pins, pending := s.pending, time := s.time })
    (pinsSeen_touches s.pins (drivePins (settle t)))
  exact h1.trans h2

@[simp] theorem ended_pending (s t : State) : (ended s t).pending = s.pending := rfl
@[simp] theorem ended_time (s t : State) : (ended s t).time = s.time := rfl
@[simp] theorem ended_weft (s t : State) : (ended s t).weft = t.weft := (ended_spec s t).weft
@[simp] theorem ended_hdl (s t : State) : (ended s t).hdl = t.hdl := (ended_spec s t).hdl
@[simp] theorem ended_regs (s t : State) : (ended s t).regs = t.regs := (ended_spec s t).regs
@[simp] theorem ended_parts (s t : State) : (ended s t).parts = t.parts := (ended_spec s t).parts
@[simp] theorem ended_pwr (s t : State) : (ended s t).pwr = t.pwr := (ended_spec s t).pwr
@[simp] theorem ended_sht (s t : State) : (ended s t).sht = t.sht := (ended_spec s t).sht
@[simp] theorem ended_red (s t : State) : (ended s t).red = t.red := (ended_spec s t).red
@[simp] theorem ended_bob (s t : State) : (ended s t).bob = t.bob := (ended_spec s t).bob
@[simp] theorem ended_hang (s t : State) : (ended s t).hang = t.hang := (ended_spec s t).hang
@[simp] theorem ended_eth (s t : State) : (ended s t).eth = t.eth := (ended_spec s t).eth
@[simp] theorem ended_cip (s t : State) : (ended s t).cip = t.cip := (ended_spec s t).cip
@[simp] theorem ended_fw (s t : State) : (ended s t).fw = t.fw := (ended_spec s t).fw
@[simp] theorem ended_seed (s t : State) : (ended s t).seed = t.seed := (ended_spec s t).seed
@[simp] theorem ended_done (s t : State) : (ended s t).jcq.done = t.jcq.done := (ended_spec s t).done
@[simp] theorem ended_skein (s t : State) : (ended s t).jcq.skein = t.jcq.skein := (ended_spec s t).skein
@[simp] theorem ended_dispatched (s t : State) : (ended s t).jcq.dispatched = t.jcq.dispatched :=
  (ended_spec s t).dispatched
@[simp] theorem ended_waiting (s t : State) : (ended s t).jcq.waiting = t.jcq.waiting := (ended_spec s t).waiting
@[simp] theorem ended_unitCredit (s t : State) : (ended s t).jcq.unitCredit = t.jcq.unitCredit :=
  (ended_spec s t).unitCredit
@[simp] theorem ended_proc (s t : State) : (ended s t).jcq.proc = t.jcq.proc := (ended_spec s t).proc
@[simp] theorem ended_dbDrop (s t : State) : (ended s t).jcq.dbDrop = t.jcq.dbDrop := (ended_spec s t).dbDrop
@[simp] theorem ended_dbRangeSeen (s t : State) : (ended s t).jcq.dbRangeSeen = t.jcq.dbRangeSeen :=
  (ended_spec s t).dbRangeSeen
@[simp] theorem ended_got (s t : State) : (ended s t).spl.got = t.spl.got := (ended_spec s t).got
@[simp] theorem ended_gotCopy (s t : State) : (ended s t).spl.gotCopy = t.spl.gotCopy := (ended_spec s t).gotCopy
@[simp] theorem ended_ctxCopy (s t : State) : (ended s t).spl.ctxCopy = t.spl.ctxCopy := (ended_spec s t).ctxCopy
@[simp] theorem ended_aport (s t : State) : (ended s t).lnk.aport = t.lnk.aport := (ended_spec s t).aport
@[simp] theorem ended_msixOpen (s t : State) : (ended s t).lnk.msixOpen = t.lnk.msixOpen := (ended_spec s t).msixOpen
@[simp] theorem ended_recordHead (s t : State) : (ended s t).saf.head = t.saf.head := (ended_spec s t).recordHead

/-- A command that leaves no report changes memory only as its own effect did. -/
theorem ended_quiet (s t : State) (h : t.saf.todo = []) :
    (ended s t).spl = t.spl ∧ (ended s t).jcq = t.jcq ∧ (ended s t).lnk = t.lnk ∧ (ended s t).saf = t.saf ∧
      (ended s t).cnt = t.cnt := by
  obtain ⟨o, ho⟩ := pinsSeen_eq s.pins (drivePins t)
  unfold ended
  rw [settle_quiet t h, ho]
  exact ⟨rfl, rfl, rfl, rfl, rfl⟩

/-- What the end of a command drives on the pins (R512, R514). -/
theorem ended_pins (s t : State) :
    (ended s t).pins = { t.pins with faultN := faultPin (settle t), vrEn := vrEnPin t.pins } := by
  have h := (settle_touches t).pins
  have hp := (pinsSeen_touches s.pins (drivePins (settle t))).pins
  show (pinsSeen s.pins (drivePins (settle t))).pins = _
  rw [hp]
  simp [drivePins, h]

end Sys2Proof.Machine
end

