-- ==== Sys2Proof/Laws/Settle.lean ====
section
/-! SUPPORT. Handling the reports of a command leaves none: a report adds one only where an event queue's write is refused, and
that disables the queue. -/

namespace Sys2Proof.Machine

/-- An event queue that is enabled. -/
def queueOn_ (e : Nat × AdminQ) : Bool := e.2.eqEnable

/-- The reports that wait and those refused writes could still add. -/
def reportLoad (s : State) : Nat := s.saf.todo.length + (s.jcq.admin.filter queueOn_).length

theorem bump_saf (u i n : Nat) (s : State) : (bump u i n s).saf = s.saf := by
  unfold bump
  split <;> rfl

theorem bump_jcq (u i n : Nat) (s : State) : (bump u i n s).jcq = s.jcq := by
  unfold bump
  split <;> rfl

theorem snoopLine_safJcq (w : Bool) (off : Nat) (s : State) :
    (snoopLine w off s).saf = s.saf ∧ (snoopLine w off s).jcq = s.jcq := by
  unfold snoopLine
  split
  · exact ⟨rfl, rfl⟩
  · split
    · simp [setFilter, bump_saf, bump_jcq]
    · split
      · simp [setFilter, bump_saf, bump_jcq]
      · exact ⟨rfl, rfl⟩

theorem touchLine_safJcq (ctx : Nat) (w : Bool) (s : State) (p : Nat × Nat) :
    (touchLine ctx w s p).saf = s.saf ∧ (touchLine ctx w s p).jcq = s.jcq := by
  simp only [touchLine, bump_saf, bump_jcq]
  split
  · exact snoopLine_safJcq _ _ s
  · exact snoopLine_safJcq _ _ s

theorem countLines_safJcq (ctx : Nat) (w : Bool) (ps : List (Nat × Nat)) (s : State) :
    (countLines ctx w ps s).saf = s.saf ∧ (countLines ctx w ps s).jcq = s.jcq := by
  unfold countLines
  induction ps generalizing s with
  | nil => exact ⟨rfl, rfl⟩
  | cons p r ih =>
    rw [List.foldl_cons]
    exact ⟨(ih _).1.trans (touchLine_safJcq _ _ _ _).1, (ih _).2.trans (touchLine_safJcq _ _ _ _).2⟩

theorem storeUpTo_safJcq (off : Nat) (bs : List Byte) (stop : Option Nat) (ps : List (Nat × Nat)) (s : State) :
    (storeUpTo off bs stop ps s).saf = s.saf ∧ (storeUpTo off bs stop ps s).jcq = s.jcq := by
  induction ps generalizing s with
  | nil => exact ⟨rfl, rfl⟩
  | cons e r ih =>
    obtain ⟨a, n⟩ := e
    simp only [storeUpTo]
    split
    · exact ⟨rfl, rfl⟩
    · exact ih _

theorem noteBad_safJcq (src ctx a : Nat) (st : Status) (s : State) :
    (noteBad src ctx a st s).saf.todo.length ≤ s.saf.todo.length + 1 ∧ (noteBad src ctx a st s).jcq = s.jcq := by
  unfold noteBad
  split
  · exact ⟨by simp [noteDeny, record, report], rfl⟩
  · split <;> exact ⟨Nat.le_succ _, rfl⟩
  · exact ⟨Nat.le_succ _, rfl⟩

/-- A write leaves the queues alone; only a refused one reports, once. -/
theorem spoolWrite_reports (src ctx off : Nat) (bs : List Byte) (s : State) :
    (spoolWrite src ctx off bs s).1.jcq = s.jcq ∧
      (spoolWrite src ctx off bs s).1.saf.todo.length ≤ s.saf.todo.length + 1 ∧
      ((spoolWrite src ctx off bs s).2 = .ok → firstBad s src ctx true (linePieces off bs.length) = none →
        (spoolWrite src ctx off bs s).1.saf.todo = s.saf.todo) := by
  simp only [spoolWrite]
  split
  · rename_i a st h
    have hn := noteBad_safJcq src ctx a st
      (countLines ctx true (before a (linePieces off bs.length)) (storeUpTo off bs (some a) (linePieces off bs.length) s))
    have hc := countLines_safJcq ctx true (before a (linePieces off bs.length))
      (storeUpTo off bs (some a) (linePieces off bs.length) s)
    have hs := storeUpTo_safJcq off bs (some a) (linePieces off bs.length) s
    refine ⟨hn.2.trans (hc.2.trans hs.2), ?_, fun _ hx => ?_⟩
    · have e : (countLines ctx true (before a (linePieces off bs.length))
          (storeUpTo off bs (some a) (linePieces off bs.length) s)).saf = s.saf := hc.1.trans hs.1
      rw [e] at hn
      exact hn.1
    · rw [h] at hx
      cases hx
  · have hc := countLines_safJcq ctx true (linePieces off bs.length)
      (storeUpTo off bs none (linePieces off bs.length) s)
    have hs := storeUpTo_safJcq off bs none (linePieces off bs.length) s
    have e := hc.1.trans hs.1
    rw [e]
    exact ⟨hc.2.trans hs.2, Nat.le_succ _, fun _ _ => rfl⟩

/-- No line's failure is the status OK. -/
theorem firstBad_ne_ok (s : State) (src ctx : Nat) (w : Bool) (ps : List (Nat × Nat)) (a : Nat) :
    firstBad s src ctx w ps ≠ some (a, .ok) := by
  induction ps with
  | nil => simp [firstBad]
  | cons e r ih =>
    obtain ⟨b, n⟩ := e
    simp only [firstBad]
    split
    · split
      · simp
      · exact ih
    · rename_i h
      intro hc
      simp only [Option.some.injEq, Prod.mk.injEq] at hc
      exact h hc.2

theorem spoolWrite_ok_reports (src ctx off : Nat) (bs : List Byte) (s : State)
    (h : (spoolWrite src ctx off bs s).2 = .ok) : (spoolWrite src ctx off bs s).1.saf.todo = s.saf.todo := by
  refine (spoolWrite_reports src ctx off bs s).2.2 h ?_
  simp only [spoolWrite] at h
  split at h
  · rename_i a st hb
    simp only at h
    rw [h] at hb
    exact absurd hb (firstBad_ne_ok s src ctx true _ a)
  · assumption

theorem cacheHostLine_safJcq (x line : Nat) (full : Bool) (s : State) :
    (cacheHostLine x line full s).saf = s.saf ∧ (cacheHostLine x line full s).jcq = s.jcq := by
  simp only [cacheHostLine]
  split
  · exact ⟨rfl, rfl⟩
  · split
    · split <;> split <;> exact ⟨rfl, rfl⟩
    · split <;> exact ⟨rfl, rfl⟩

theorem cacheHostLines_safJcq (x : Nat) (ps : List (Nat × Nat)) (s : State) :
    (ps.foldl (fun s pc => cacheHostLine x (pc.1 / 64) (pc.2 == 64) s) s).saf = s.saf ∧
      (ps.foldl (fun s pc => cacheHostLine x (pc.1 / 64) (pc.2 == 64) s) s).jcq = s.jcq := by
  induction ps generalizing s with
  | nil => exact ⟨rfl, rfl⟩
  | cons e r ih =>
    rw [List.foldl_cons]
    exact ⟨(ih _).1.trans (cacheHostLine_safJcq _ _ _ _).1, (ih _).2.trans (cacheHostLine_safJcq _ _ _ _).2⟩

theorem hostWrite_safJcq (p off : Nat) (bs : List Byte) (s : State) :
    (hostWrite p off bs s).1.saf = s.saf ∧ (hostWrite p off bs s).1.jcq = s.jcq := by
  simp only [hostWrite]
  split
  · simp only [emit_saf, emit_jcq, bump_saf, bump_jcq]
    exact cacheHostLines_safJcq _ _ _
  · unfold noteHostDeny
    split <;> exact ⟨rfl, rfl⟩

theorem bufWrite_reports (src p ctx pa : Nat) (bs : List Byte) (s : State) :
    (bufWrite src p ctx pa bs s).1.jcq = s.jcq ∧
      (bufWrite src p ctx pa bs s).1.saf.todo.length ≤ s.saf.todo.length + 1 ∧
      ((bufWrite src p ctx pa bs s).2 = .ok → (bufWrite src p ctx pa bs s).1.saf.todo = s.saf.todo) := by
  unfold bufWrite
  split
  · split
    · exact ⟨(spoolWrite_reports _ _ _ _ s).1, (spoolWrite_reports _ _ _ _ s).2.1, spoolWrite_ok_reports _ _ _ _ s⟩
    · exact ⟨rfl, Nat.le_succ _, fun _ => rfl⟩
  · split
    · have h := hostWrite_safJcq p (offset pa) bs s
      rw [h.1]
      exact ⟨h.2, Nat.le_succ _, fun _ => rfl⟩
    · exact ⟨rfl, Nat.le_succ _, fun _ => rfl⟩

theorem sendVector_safJcq (p v : Nat) (s : State) : (sendVector p v s).saf = s.saf ∧ (sendVector p v s).jcq = s.jcq := by
  unfold sendVector
  split
  · exact ⟨rfl, rfl⟩
  · split
    · split <;> exact ⟨rfl, rfl⟩
    · exact ⟨rfl, rfl⟩

theorem fireArm_safJcq (p : Nat) (q : OutQueue) (s : State) :
    (fireArm p q s).2.saf = s.saf ∧ (fireArm p q s).2.jcq = s.jcq := by
  unfold fireArm
  split
  · exact sendVector_safJcq p _ s
  · exact ⟨rfl, rfl⟩

theorem admin_kept (s : State) (p : Nat) (a : AdminQ) (h : a.eqEnable = (adminQ s p).eqEnable) :
    ((tset {} s.jcq.admin p a).filter queueOn_).length ≤ (s.jcq.admin.filter queueOn_).length :=
  tset_count_le queueOn_ {} s.jcq.admin p a (fun hp => by
    rw [show queueOn_ (p, a) = a.eqEnable from rfl, h] at hp
    exact hp) rfl

theorem loseEvent_load (p typ : Nat) (s : State) : reportLoad (loseEvent p typ s) ≤ reportLoad s := by
  refine Nat.add_le_add_left ?_ _
  simp only [loseEvent, setAdminQ_jcq]
  exact admin_kept s p _ rfl

theorem putEvent_load (p typ : Nat) (st : Status) (unit object info : Nat) (s : State)
    (hon : (adminQ s p).eqEnable = true) : reportLoad (putEvent p typ st unit object info s).1 ≤ reportLoad s := by
  have hb := bufWrite_reports (ownerUnit s (.admin p)) p (adminQ s p).eq.ring.bufCtx.toNat
    ((adminQ s p).eq.ring.pa.toNat + 32 * (adminQ s p).eq.next)
    (eventBytes typ (statusCode st) unit object (unitTime s unit).toNat info (adminQ s p).eq.phase) s
  simp only [putEvent]
  split
  · rename_i x hx
    rw [hx] at hb
    have hf := fireArm_safJcq p (advance (adminQ s p).eq) x
    have hj : (fireArm p (advance (adminQ s p).eq) x).2.jcq = s.jcq := hf.2.trans hb.1
    have ht : (fireArm p (advance (adminQ s p).eq) x).2.saf.todo = s.saf.todo := by rw [hf.1]; exact hb.2.2 rfl
    have := admin_kept (fireArm p (advance (adminQ s p).eq) x).2 p
      { adminQ (fireArm p (advance (adminQ s p).eq) x).2 p with eq := (fireArm p (advance (adminQ s p).eq) x).1 } rfl
    simp only [reportLoad, setAdminQ_saf, setAdminQ_jcq, hj, ht] at this ⊢
    omega
  · rename_i x y hx hy
    rw [hy] at hb
    have hj : x.jcq = s.jcq := hb.1
    have hl : x.saf.todo.length ≤ s.saf.todo.length + 1 := hb.2.1
    have hq : adminQ x p = adminQ s p := by simp [adminQ, hj]
    have := tset_count_lt queueOn_ {} x.jcq.admin p { adminQ x p with eqEnable := false }
      (show (adminQ x p).eqEnable = true by rw [hq]; exact hon) rfl rfl
    simp only [reportLoad, setAdminQ_saf, setAdminQ_jcq, hj] at this ⊢
    omega

theorem postEvent_load {p typ : Nat} {st : Status} {unit object info : Nat} {s : State} :
    reportLoad (postEvent p typ st unit object info s) ≤ reportLoad s := by
  simp only [postEvent]
  split
  · exact loseEvent_load p typ s
  · rename_i hc
    have hon : (adminQ s p).eqEnable = true := by
      simp only [Bool.or_eq_true, Bool.not_eq_true', not_or, Bool.not_eq_false] at hc
      exact hc.1
    have hp := putEvent_load p typ st unit object info s hon
    split
    · rename_i h
      rw [h] at hp
      exact hp
    · rename_i h
      rw [h] at hp
      exact (loseEvent_load _ _ _).trans hp

theorem putRecord_load (r : Record) (s : State) : reportLoad (putRecord r s) = reportLoad s := by
  simp only [putRecord]
  split <;> split <;> rfl

theorem handleReport_load (r : Report) (s : State) : reportLoad (handleReport r s) ≤ reportLoad s := by
  cases r with
  | event p typ st unit object info => exact postEvent_load
  | record r =>
    simp only [handleReport]
    split
    · exact le_rfl
    · simp only [writeRecord]
      have hr := (putRecord_load r s).le
      split
      · split
        · split
          · exact postEvent_load.trans hr
          · exact (postEvent_load.trans postEvent_load).trans hr
        · exact postEvent_load.trans hr
      · exact hr

theorem settleFor_todo (n : Nat) (s : State) (h : reportLoad s ≤ n) : (settleFor n s).saf.todo = [] := by
  induction n generalizing s with
  | zero =>
    have : s.saf.todo.length = 0 := by
      unfold reportLoad at h
      omega
    exact List.length_eq_zero_iff.mp this
  | succ n ih =>
    simp only [settleFor]
    split
    · assumption
    · rename_i r rest ht
      refine ih _ ((handleReport_load r _).trans ?_)
      simp only [reportLoad, ht, List.length_cons] at h ⊢
      omega

/-- No report is left. -/
theorem settle_todo (s : State) : (settle s).saf.todo = [] := by
  refine settleFor_todo _ s ?_
  have := (List.filter_sublist (p := queueOn_) (l := s.jcq.admin)).length_le
  unfold reportLoad
  omega

/-- A command leaves no report waiting. -/
@[simp] theorem ended_todo (s t : State) : (ended s t).saf.todo = [] := by
  obtain ⟨o, ho⟩ := pinsSeen_eq s.pins (drivePins (settle t))
  unfold ended
  rw [ho]
  exact settle_todo t

end Sys2Proof.Machine
end

