-- ==== Sys2Proof/Laws/Commands.lean ====
section
/-! SUPPORT. How commands end: what a completion adds, what each way of running a command can answer, and that every command
ends in one of two shapes. -/

namespace Sys2Proof.Machine

/-! ## Completions (R103, R105) -/

/-- A live command's completion: it is live no more, no copy is kept, it no longer waits, and its entry is to be written. -/
theorem completeRef_live (r : CmdRef) (st : Status) (res : List Nat) (unit : Nat) (s : State) (l : LiveCmd)
    (h : (s.jcq.live.find? fun l => l.ref == r) = some l) :
    completeRef r st res unit s = { s with jcq := { s.jcq with
      live := s.jcq.live.filter fun x => x.ref != r
      dispatched := s.jcq.dispatched.filter fun d => cmdRef d.cmd != r
      waiting := s.jcq.waiting.filter fun c => cmdRef c != r
      done := s.jcq.done ++ [{ ref := r, status := st, result := res, unit := unit, replayed := l.replayed }] } } := by
  simp only [completeRef, h]

/-- A command that has its outcome gets no second one (R105). -/
theorem completeRef_dead (r : CmdRef) (st : Status) (res : List Nat) (unit : Nat) (s : State)
    (h : (s.jcq.live.find? fun l => l.ref == r) = none) : completeRef r st res unit s = s := by
  simp only [completeRef, h]

/-- A completion changes the processors' part of the state and no other. -/
theorem completeRef_frame (r : CmdRef) (st : Status) (res : List Nat) (unit : Nat) (s : State) :
    completeRef r st res unit s = { s with jcq := { s.jcq with
      live := (completeRef r st res unit s).jcq.live
      dispatched := (completeRef r st res unit s).jcq.dispatched
      waiting := (completeRef r st res unit s).jcq.waiting
      done := (completeRef r st res unit s).jcq.done } } := by
  unfold completeRef
  split <;> rfl

/-- Starting a command changes the copy its processor keeps and nothing else. -/
theorem setStarted_frame (on : Bool) (c : Cmd) (s : State) :
    setStarted on c s = { s with jcq := { s.jcq with dispatched := (setStarted on c s).jcq.dispatched } } := rfl

/-- A command that waits changes nothing but the list of waiting commands and its copy. -/
theorem holdCmd_frame (c : Cmd) (s : State) :
    holdCmd c s = { s with jcq := { s.jcq with
      waiting := (holdCmd c s).jcq.waiting
      dispatched := (holdCmd c s).jcq.dispatched } } := by
  simp only [holdCmd]
  split <;> rfl

/-! ## The checks of R102 -/

theorem firstFail_none {α : Type} (l : List (Bool × α)) : firstFail l = none ↔ ∀ e ∈ l, e.1 = false := by
  induction l with
  | nil => simp [firstFail]
  | cons e r ih =>
    obtain ⟨c, a⟩ := e
    cases c <;> simp [firstFail, ih]

/-- Every check of a dispatched command passes: it starts, and runs. -/
theorem runCmd_passes (d : OpDesc) (c : Cmd) (fails : List (Bool × Status)) (s : State) (run : State → State)
    (hs : startable s c = true) (h : issueCheck d c = none) (k : ∀ e ∈ fails, e.1 = false) :
    runCmd d c fails s run = ends s (run (setStarted true c s)) := by
  simp only [runCmd, takeCmd, checked, hs, h, (firstFail_none fails).mpr k, if_true]

/-- A check of the packet fails: the command completes with its status and does nothing else. -/
theorem runCmd_packet (d : OpDesc) (c : Cmd) (fails : List (Bool × Status)) (s : State) (run : State → State) (st : Status)
    (hs : startable s c = true) (h : issueCheck d c = some st) :
    runCmd d c fails s run = ends s (complete c st [] (procUnit s c) s) := by
  simp only [runCmd, takeCmd, hs, h, if_true]

/-- An own check fails: the command completes with the first one's status and does nothing else. -/
theorem runCmd_own (d : OpDesc) (c : Cmd) (fails : List (Bool × Status)) (s : State) (run : State → State) (st : Status)
    (hs : startable s c = true) (h : issueCheck d c = none) (k : firstFail fails = some st) :
    runCmd d c fails s run =
      ends s (complete c st [] (procUnit (setStarted true c s) c) (setStarted true c s)) := by
  simp only [runCmd, takeCmd, checked, hs, h, k, if_true]

/-- A row that names a command no processor has dispatched, or one that has started, has no effect (R105). -/
theorem runCmd_idle (d : OpDesc) (c : Cmd) (fails : List (Bool × Status)) (s : State) (run : State → State)
    (hs : startable s c = false) : runCmd d c fails s run = ends s s := by
  simp [runCmd, takeCmd, hs]

/-- A command whose object or range an earlier one still has waits; it has started nothing (R120, R519). -/
theorem runOrdered_waits (d : OpDesc) (c : Cmd) (fails : List (Bool × Status)) (s : State) (run : State → State)
    (hs : startable s c = true) (h : issueCheck d c = none) : runOrdered d c true fails s run = ends s (holdCmd c s) := by
  simp [runOrdered, orderCmd, hs, h]

/-- No earlier command has the object or range: the command runs, and no longer waits (R120, R519). -/
theorem runOrdered_passes (d : OpDesc) (c : Cmd) (fails : List (Bool × Status)) (s : State) (run : State → State)
    (hs : startable s c = true) (h : issueCheck d c = none) (k : ∀ e ∈ fails, e.1 = false) :
    runOrdered d c false fails s run = ends s (run (unholdCmd c (setStarted true c s))) := by
  simp only [runOrdered, orderCmd, takeCmd, checked, hs, h, (firstFail_none fails).mpr k, Bool.and_false, if_true]
  rfl

/-! ## The end of a command between settled states -/

theorem drivePins_settled (s : State) (h : pinsFollow s) : drivePins s = s := by
  have hf : faultPin s = s.pins.faultN := by
    have := h.1
    unfold faultPinFollows at this
    unfold faultPin
    cases hp : s.pins.faultN <;> cases h1 : s.fw.safeMode <;> cases h2 : s.hang.pkgNeeded <;>
      cases h3 : s.saf.dangerOverflow <;> simp_all
  have hv : vrEnPin s.pins = s.pins.vrEn := by
    have := h.2
    unfold vrEnHeld at this
    unfold vrEnPin
    cases h1 : s.pins.vrEn <;> cases h2 : s.pins.porN <;> cases h3 : s.pins.thermtripN <;> simp_all
  unfold drivePins
  rw [hf, hv]

/-- A command whose effect reports nothing and leaves the pins and what they follow alone ends with exactly its effect. -/
theorem ended_settled (s t : State) (h : settled s) (ht : t.saf.todo = []) (hp : t.pins = s.pins)
    (hf : t.fw.safeMode = s.fw.safeMode) (hg : t.hang.pkgNeeded = s.hang.pkgNeeded)
    (hd : t.saf.dangerOverflow = s.saf.dangerOverflow) (hq : t.pending = s.pending) (hc : t.time = s.time) :
    ended s t = t := by
  have hpf : pinsFollow t := by
    have := h.2
    unfold pinsFollow faultPinFollows vrEnHeld at *
    rw [hp, hf, hg, hd]
    exact this
  unfold ended
  rw [settle_quiet t ht, drivePins_settled t hpf, ← hq, ← hc]
  rw [← hp]
  simp [pinsSeen, pinSeen]

/-- What every command leaves is settled. -/
theorem ended_is_settled (s t : State) : settled (ended s t) := by
  refine ⟨ended_todo s t, ?_, ?_⟩
  · have hp := congrArg (·.faultN) (ended_pins s t)
    obtain ⟨o, ho⟩ := pinsSeen_eq s.pins (drivePins (settle t))
    have hs : (ended s t).fw = (settle t).fw ∧ (ended s t).hang = (settle t).hang ∧
        (ended s t).saf = (settle t).saf := by
      unfold ended
      rw [ho]
      exact ⟨rfl, rfl, rfl⟩
    unfold faultPinFollows
    rw [hs.1, hs.2.1, hs.2.2]
    simp only at hp
    rw [hp]
    unfold faultPin
    cases (settle t).fw.safeMode <;> cases (settle t).hang.pkgNeeded <;> cases (settle t).saf.dangerOverflow <;> simp
  · unfold vrEnHeld
    rw [ended_pins]
    simp only [vrEnPin]
    cases t.pins.porN <;> cases t.pins.thermtripN <;> simp

/-! ## Shapes of an end -/

/-- The outcome is the end of a command that leaves the time counters as they were. -/
def Ends (s : State) (o : Host.Outcome State Fault Refusal) : Prop := ∃ t, o = .next (ended s t)

theorem ends_ends (s t : State) : Ends s (ends s t) := ⟨t, rfl⟩

theorem eitherIns_ends (op u : Nat) (e : BobErr) (s : State) (w : Nat → Bobbin → BobWait) (go : Launch → Nat → State → State) :
    Ends s (eitherIns op u e s w go) := by
  unfold eitherIns
  split <;> exact ⟨_, rfl⟩

/-- The two rows that begin and end the supply of the always-on islands, where the time counters stand. -/
def isSupply : Instr → Bool
  | .vddAoInTolerance | .vddAoLoss => true
  | _ => false

/-- Every command but those two ends with the queue and the time as they were, the reports handled and the pins driven. -/
theorem exec_ends (i : Instr) (s : State) (h : isSupply i = false) : Ends s (exec i s) := by
  cases i <;> first | exact ⟨_, rfl⟩ | exact eitherIns_ends _ _ _ _ _ _ | simp [isSupply] at h

/-- Every step answers a next state that is the end of a command, with the rest of the queue. -/
theorem step_ends (s : State) :
    ∃ u t, step s = .next (ended u t) ∧ u.pending = s.pending.tail := by
  unfold step
  split
  · rename_i h
    exact ⟨_, _, rfl, h ▸ rfl⟩
  · rename_i c rest h
    by_cases hs : isSupply c = true
    · cases c <;> simp only [isSupply, Bool.false_eq_true] at hs
      · simp only [exec, execVddAoInTolerance]
        split
        · exact ⟨_, _, rfl, by simp [h]⟩
        · exact ⟨_, _, rfl, by simp [h]⟩
      · exact ⟨_, _, rfl, by simp [h]⟩
    · obtain ⟨t, ht⟩ := exec_ends c { s with pending := rest } (by simpa using hs)
      exact ⟨_, t, ht, by simp [h]⟩

end Sys2Proof.Machine
end

