-- ==== Sys2Proof/Laws/Memory.lean ====
section
/-! SUPPORT. Laws of Spool memory: every memory operation keeps the canonical form, a write stores its bytes and no others, and
the end of a command keeps the form. -/

namespace Sys2Proof.Machine

/-! ## The pieces of an access -/

theorem linePieces_within (off len : Nat) (p : Nat × Nat) (h : p ∈ linePieces off len) :
    off ≤ p.1 ∧ p.1 + p.2 ≤ off + len := by
  simp only [linePieces] at h
  split at h
  · simp at h
  · simp only [List.mem_map, List.mem_range] at h
    obtain ⟨k, hk, rfl⟩ := h
    split <;> simp only <;> omega

theorem linePieces_cover (off len i : Nat) (h : off ≤ i) (k : i < off + len) :
    ∃ p ∈ linePieces off len, p.1 ≤ i ∧ i < p.1 + p.2 := by
  simp only [linePieces]
  rw [if_neg (by omega)]
  refine ⟨_, List.mem_map.mpr ⟨i / 64 - off / 64, List.mem_range.mpr (by omega), rfl⟩, ?_⟩
  split <;> simp only <;> omega

/-! ## Bytes written -/

theorem storePiece_byte (a : Nat) (bs : List Byte) (s : State) (i : Nat) :
    tget 0 (storePiece a bs s).spl.mem i =
      if a ≤ i ∧ i < a + bs.length then bs[i - a]?.getD 0 else tget 0 s.spl.mem i := by
  show tget 0 (memWrite s.spl.mem a bs) i = _
  split
  · rename_i h
    have hk : i - a < bs.length := by omega
    have := memWrite_inside s.spl.mem a bs (i - a) hk
    rw [show a + (i - a) = i by omega] at this
    rw [this, List.getElem?_eq_getElem hk]
    rfl
  · exact memWrite_outside _ _ _ (by omega)

/-- The pieces of a write store its bytes and leave every other byte alone. -/
theorem storeUpTo_byte (off : Nat) (bs : List Byte) (i : Nat) (ps : List (Nat × Nat)) (s : State)
    (hps : ∀ p ∈ ps, off ≤ p.1 ∧ p.1 + p.2 ≤ off + bs.length) :
    tget 0 (storeUpTo off bs none ps s).spl.mem i =
      if ∃ p ∈ ps, p.1 ≤ i ∧ i < p.1 + p.2 then bs[i - off]?.getD 0 else tget 0 s.spl.mem i := by
  induction ps generalizing s with
  | nil => simp [storeUpTo]
  | cons e r ih =>
    obtain ⟨a, n⟩ := e
    have ha := hps (a, n) (by simp)
    simp only at ha
    simp only [storeUpTo, reduceCtorEq, if_false]
    rw [ih _ (fun p hp => hps p (by simp [hp])), storePiece_byte]
    have hl : ((bs.drop (a - off)).take n).length = n := by simp; omega
    rw [hl]
    by_cases hr : ∃ p ∈ r, p.1 ≤ i ∧ i < p.1 + p.2
    · rw [if_pos hr, if_pos (by obtain ⟨p, hp, hi⟩ := hr; exact ⟨p, by simp [hp], hi⟩)]
    · rw [if_neg hr]
      by_cases hi : a ≤ i ∧ i < a + n
      · rw [if_pos hi, if_pos ⟨(a, n), by simp, hi⟩]
        rw [List.getElem?_take_of_lt (by omega), List.getElem?_drop, show a - off + (i - a) = i - off by omega]
      · rw [if_neg hi, if_neg]
        rintro ⟨p, hp, hpi⟩
        rcases List.mem_cons.mp hp with rfl | hp
        · exact hi hpi
        · exact hr ⟨p, hp, hpi⟩

/-- A write stopped at a line leaves every byte outside its own range alone. -/
theorem storeUpTo_outside (off : Nat) (bs : List Byte) (stop : Option Nat) (i : Nat) (ps : List (Nat × Nat)) (s : State)
    (hps : ∀ p ∈ ps, off ≤ p.1 ∧ p.1 + p.2 ≤ off + bs.length) (hi : i < off ∨ off + bs.length ≤ i) :
    tget 0 (storeUpTo off bs stop ps s).spl.mem i = tget 0 s.spl.mem i := by
  induction ps generalizing s with
  | nil => rfl
  | cons e r ih =>
    obtain ⟨a, n⟩ := e
    have ha := hps (a, n) (by simp)
    simp only at ha
    simp only [storeUpTo]
    split
    · rfl
    · rw [ih _ (fun p hp => hps p (by simp [hp])), storePiece_byte, if_neg]
      simp only [List.length_take, List.length_drop]
      omega

/-! ## What counting and recording leave alone -/

@[simp] theorem bump_mem (u i n : Nat) (s : State) : (bump u i n s).spl.mem = s.spl.mem := by
  unfold bump
  split <;> rfl

@[simp] theorem snoopLine_mem (w : Bool) (off : Nat) (s : State) : (snoopLine w off s).spl.mem = s.spl.mem := by
  unfold snoopLine
  split
  · rfl
  · split
    · simp [setFilter]
    · split
      · simp [setFilter]
      · rfl

@[simp] theorem touchLine_mem (ctx : Nat) (w : Bool) (s : State) (p : Nat × Nat) :
    (touchLine ctx w s p).spl.mem = s.spl.mem := by
  simp only [touchLine, bump_mem]
  split
  · exact snoopLine_mem _ _ s
  · exact snoopLine_mem _ _ s

@[simp] theorem countLines_mem (ctx : Nat) (w : Bool) (ps : List (Nat × Nat)) (s : State) :
    (countLines ctx w ps s).spl.mem = s.spl.mem := by
  unfold countLines
  induction ps generalizing s with
  | nil => rfl
  | cons p r ih =>
    rw [List.foldl_cons, ih, touchLine_mem]

@[simp] theorem noteBad_mem (src ctx a : Nat) (st : Status) (s : State) : (noteBad src ctx a st s).spl.mem = s.spl.mem := by
  unfold noteBad
  split
  · rfl
  · split <;> rfl
  · rfl

/-- A device read leaves all of memory as it was. -/
@[simp] theorem spoolRead_mem (src ctx off len : Nat) (s : State) :
    (spoolRead src ctx off len s).1.spl.mem = s.spl.mem := by
  simp only [spoolRead]
  split <;> simp

/-- A device write leaves every byte outside its own range alone, whatever its status. -/
theorem spoolWrite_outside (src ctx off : Nat) (bs : List Byte) (s : State) (i : Nat)
    (hi : i < off ∨ off + bs.length ≤ i) :
    tget 0 (spoolWrite src ctx off bs s).1.spl.mem i = tget 0 s.spl.mem i := by
  simp only [spoolWrite]
  split <;> simp only [countLines_mem, noteBad_mem] <;>
    exact storeUpTo_outside _ _ _ _ _ _ (linePieces_within off bs.length) hi

/-- A device write no line of which fails stores its bytes, with status OK. -/
theorem spoolWrite_ok (src ctx off : Nat) (bs : List Byte) (s : State)
    (h : firstBad s src ctx true (linePieces off bs.length) = none) :
    (spoolWrite src ctx off bs s).2 = .ok ∧
      ∀ i, tget 0 (spoolWrite src ctx off bs s).1.spl.mem i =
        if off ≤ i ∧ i < off + bs.length then bs[i - off]?.getD 0 else tget 0 s.spl.mem i := by
  simp only [spoolWrite, h, countLines_mem, true_and]
  intro i
  rw [storeUpTo_byte off bs i _ s (linePieces_within off bs.length)]
  by_cases hi : off ≤ i ∧ i < off + bs.length
  · rw [if_pos hi, if_pos (linePieces_cover off bs.length i hi.1 hi.2)]
  · rw [if_neg hi, if_neg]
    rintro ⟨p, hp, hpi⟩
    have := linePieces_within off bs.length p hp
    omega

/-! ## The canonical form -/

theorem storePiece_canonical (a : Nat) (bs : List Byte) (s : State) (h : memCanonical s = true) :
    memCanonical (storePiece a bs s) = true := twf_memWrite _ _ _ h

theorem storeUpTo_canonical (off : Nat) (bs : List Byte) (stop : Option Nat) (ps : List (Nat × Nat)) (s : State)
    (h : memCanonical s = true) : memCanonical (storeUpTo off bs stop ps s) = true := by
  induction ps generalizing s with
  | nil => exact h
  | cons e r ih =>
    obtain ⟨a, n⟩ := e
    simp only [storeUpTo]
    split
    · exact h
    · exact ih _ (storePiece_canonical _ _ _ h)

theorem spoolRead_canonical (src ctx off len : Nat) (s : State) (h : memCanonical s = true) :
    memCanonical (spoolRead src ctx off len s).1 = true := by
  unfold memCanonical
  rw [spoolRead_mem]
  exact h

theorem spoolWrite_canonical (src ctx off : Nat) (bs : List Byte) (s : State) (h : memCanonical s = true) :
    memCanonical (spoolWrite src ctx off bs s).1 = true := by
  have key (stop : Option Nat) := storeUpTo_canonical off bs stop (linePieces off bs.length) s h
  simp only [spoolWrite, memCanonical] at key ⊢
  split <;> simpa using key _

theorem poisonLine_canonical (off : Nat) (s : State) (h : memCanonical s = true) :
    memCanonical (poisonLine off s) = true := twf_memZero _ _ _ h

theorem decodeLine_canonical (off : Nat) (errs : List Nat) (s : State) (h : memCanonical s = true) :
    memCanonical (decodeLine off errs s) = true := by
  simp only [decodeLine]
  split
  · exact h
  · split
    · exact h
    · split
      · exact h
      · simpa [noteCe, memCanonical] using h
    · exact poisonLine_canonical _ _ h
    · exact twf_memWrite _ _ _ h

theorem poisonedWrite_canonical (ps : List (Nat × Nat)) (s : State) (h : memCanonical s = true) :
    memCanonical (poisonedWrite ps s) = true := by
  unfold poisonedWrite
  induction ps generalizing s with
  | nil => exact h
  | cons p r ih => exact ih _ (twf_memZero _ _ _ h)

theorem cacheHostLine_mem (x line : Nat) (full : Bool) (s : State) : (cacheHostLine x line full s).spl.mem = s.spl.mem := by
  simp only [cacheHostLine]
  split
  · rfl
  · split
    · split <;> split <;> rfl
    · split <;> rfl

theorem cacheHostLines_mem (x : Nat) (ps : List (Nat × Nat)) (s : State) :
    (ps.foldl (fun s pc => cacheHostLine x (pc.1 / 64) (pc.2 == 64) s) s).spl.mem = s.spl.mem := by
  induction ps generalizing s with
  | nil => rfl
  | cons e r ih => rw [List.foldl_cons, ih, cacheHostLine_mem]

theorem hostWrite_mem (p off : Nat) (bs : List Byte) (s : State) : (hostWrite p off bs s).1.spl.mem = s.spl.mem := by
  simp only [hostWrite]
  split
  · simp only [emit_spl, bump_mem, cacheHostLines_mem]
  · unfold noteHostDeny
    split <;> rfl

theorem bufWrite_canonical (src p ctx pa : Nat) (bs : List Byte) (s : State) (h : memCanonical s = true) :
    memCanonical (bufWrite src p ctx pa bs s).1 = true := by
  unfold bufWrite
  split
  · split
    · exact spoolWrite_canonical _ _ _ _ _ h
    · exact h
  · split
    · unfold memCanonical
      rw [hostWrite_mem]
      exact h
    · exact h

theorem sendVector_mem (p v : Nat) (s : State) : (sendVector p v s).spl.mem = s.spl.mem := by
  unfold sendVector
  split
  · rfl
  · split
    · split <;> rfl
    · rfl

theorem putEvent_canonical (p typ : Nat) (st : Status) (unit object info : Nat) (s : State) (h : memCanonical s = true) :
    memCanonical (putEvent p typ st unit object info s).1 = true := by
  simp only [putEvent]
  have hb := bufWrite_canonical (ownerUnit s (.admin p)) p (adminQ s p).eq.ring.bufCtx.toNat
    ((adminQ s p).eq.ring.pa.toNat + 32 * (adminQ s p).eq.next)
    (eventBytes typ (statusCode st) unit object (unitTime s unit).toNat info (adminQ s p).eq.phase) s h
  split
  · rename_i x hx
    rw [hx] at hb
    unfold memCanonical fireArm at *
    split
    · simpa [sendVector_mem] using hb
    · simpa using hb
  · rename_i x y hx
    rw [hx] at hb
    exact hb

theorem postEvent_canonical (p typ : Nat) (st : Status) (unit object info : Nat) (s : State) (h : memCanonical s = true) :
    memCanonical (postEvent p typ st unit object info s) = true := by
  have hp := putEvent_canonical p typ st unit object info s h
  simp only [postEvent]
  split
  · exact h
  · split
    · rename_i hx
      rw [hx] at hp
      exact hp
    · rename_i hx
      rw [hx] at hp
      exact hp

theorem writeRecord_canonical (r : Record) (s : State) (h : memCanonical s = true) :
    memCanonical (writeRecord r s) = true := by
  have hp : memCanonical (putRecord r s) = true := by
    simp only [putRecord]
    split <;> split <;> exact h
  simp only [writeRecord]
  split
  · split
    · split
      · exact postEvent_canonical _ _ _ _ _ _ _ hp
      · exact postEvent_canonical _ _ _ _ _ _ _ (postEvent_canonical _ _ _ _ _ _ _ hp)
    · exact postEvent_canonical _ _ _ _ _ _ _ hp
  · exact hp

theorem settleFor_canonical (n : Nat) (s : State) (h : memCanonical s = true) : memCanonical (settleFor n s) = true := by
  induction n generalizing s with
  | zero => exact h
  | succ n ih =>
    simp only [settleFor]
    split
    · exact h
    · refine ih _ ?_
      rename_i r rest _
      cases r with
      | event p typ st unit object info => exact postEvent_canonical _ _ _ _ _ _ _ h
      | record r =>
        simp only [handleReport]
        split
        · exact h
        · exact writeRecord_canonical _ _ h

/-- The end of a command keeps the canonical form. -/
theorem ended_canonical (s t : State) (h : memCanonical t = true) : memCanonical (ended s t) = true := by
  have hs : memCanonical (settle t) = true := settleFor_canonical _ _ h
  obtain ⟨o, ho⟩ := pinsSeen_eq s.pins (drivePins (settle t))
  unfold ended
  rw [ho]
  exact hs

theorem zeroShare_canonical (first count stack : Nat) (s : State) (h : memCanonical s = true) :
    memCanonical (zeroShare first count stack s) = true := twf_filter _ _ _ h

theorem decodeFor_canonical (r : SpoolReq) (s : State) (h : memCanonical s = true) :
    memCanonical (decodeFor r s) = true := by
  unfold decodeFor
  generalize linePieces r.off (reqLen r) = ls
  induction ls generalizing s with
  | nil => exact h
  | cons e l ih =>
    obtain ⟨a, n⟩ := e
    simp only [decodeGo]
    split
    · exact h
    · split
      · exact ih _ h
      · split
        · exact decodeLine_canonical _ _ _ h
        · exact ih _ (decodeLine_canonical _ _ _ h)

theorem noteBad_canonical (src ctx a : Nat) (st : Status) (s : State) (h : memCanonical s = true) :
    memCanonical (noteBad src ctx a st s) = true := by
  unfold memCanonical
  rw [noteBad_mem]
  exact h

theorem countLines_canonical (ctx : Nat) (w : Bool) (ps : List (Nat × Nat)) (s : State) (h : memCanonical s = true) :
    memCanonical (countLines ctx w ps s) = true := by
  unfold memCanonical
  rw [countLines_mem]
  exact h

theorem serveRequest_canonical (r : SpoolReq) (s : State) (h : memCanonical s = true) :
    memCanonical (serveRequest r s) = true := by
  have hd := decodeFor_canonical r s h
  simp only [serveRequest]
  split
  · exact spoolRead_canonical _ _ _ _ _ hd
  · split
    · split
      · exact noteBad_canonical _ _ _ _ _ (countLines_canonical _ _ _ _ (poisonedWrite_canonical _ _ hd))
      · exact countLines_canonical _ _ _ _ (poisonedWrite_canonical _ _ hd)
    · exact spoolWrite_canonical _ _ _ _ _ hd
  · split
    · exact spoolWrite_canonical _ _ _ _ _ (spoolRead_canonical _ _ _ _ _ hd)
    · exact spoolRead_canonical _ _ _ _ _ hd

/-- A request, however it is answered, keeps the canonical form. -/
theorem admitRequest_canonical (r : SpoolReq) (s : State) (h : memCanonical s = true) :
    memCanonical (admitRequest r s) = true := by
  unfold admitRequest
  split
  · unfold badEntryRefusal
    simp only
    split <;> exact h
  · split
    · split
      · simpa [snoopHost, memCanonical] using h
      · exact serveRequest_canonical _ _ h
    · exact noteBad_canonical _ _ _ _ _ h

/-- Memory right after power-on is in canonical form. -/
theorem reset_canonical : memCanonical State.reset = true := rfl

end Sys2Proof.Machine
end

