-- ==== Sys2Proof/Tests/Slice0.lean ====
section
/-! SUPPORT. Witnesses that the hypotheses of the statements can be met, and small tests of single commands. -/

namespace Sys2Proof.Tests

open Sys2Proof Sys2Proof.Machine

set_option maxRecDepth 20000
set_option Elab.async false

/-! ## Small states and commands -/

/-- A block that has started: every die present, POR_N released, `READY` set. -/
def up : State :=
  { State.reset with
    weft := { State.reset.weft with diePresent := 0xFFFFFFFFFF }
    fw := { State.reset.fw with ready := true }
    pins := { State.reset.pins with vddAo := true, porN := true, avddGood := true, vddPlGood := true, perst0N := true, perst1N := true } }

/-- Granule 0 is OWNED by partition 0, and context 1 is partition 0's. -/
def owned : State :=
  { up with spl := { up.spl with
    got := [(0, BitVec.ofNat 16 (mkGot 0 gotOwned false))]
    gotCopy := (List.range 16).map fun n => (n, [(0, BitVec.ofNat 16 (mkGot 0 gotOwned false))]) } }

/-- The settled states, as a test that computes. -/
def settledB (s : State) : Bool :=
  s.saf.todo.isEmpty && (s.pins.faultN == !(s.fw.safeMode || s.hang.pkgNeeded || s.saf.dangerOverflow)) &&
    (s.pins.porN && s.pins.thermtripN || !s.pins.vrEn)

theorem settled_of (s : State) (h : settledB s = true) : settled s := by
  simp only [settledB, Bool.and_eq_true, List.isEmpty_iff, beq_iff_eq, Bool.or_eq_true, Bool.not_eq_eq_eq_not] at h
  refine ⟨h.1.1, ?_, ?_⟩
  · unfold faultPinFollows
    rw [h.1.2]
    cases s.fw.safeMode <;> cases s.hang.pkgNeeded <;> cases s.saf.dangerOverflow <;> simp
  · intro hp
    rcases h.2 with h | h
    · rw [h.1, h.2] at hp
      simp at hp
    · simpa using h

/-- A command of partition 0's admin skein: opcode, flags, length, `QID`, and the parameter bytes as one number. -/
def cmd (code flags len qid p : Nat) : Cmd where
  skein := .admin 0
  part := 0
  sqHead := 0
  packet := leBytes 2 code ++ leBytes 2 flags ++ leBytes 4 len ++ leBytes 4 7 ++ leBytes 4 qid ++ leBytes 112 p
  ext := []

/-- A value at byte `off`, bit `lo` of a packet's parameters. -/
def at_ (off lo v : Nat) : Nat := v * 2 ^ (8 * (off - 16) + lo)

/-- An answer with its status known. -/
theorem pair_of {α β : Type} {p : α × β} {b : β} (h : p.2 = b) : p = (p.1, b) := by rw [← h]

theorem triple_of {α β γ : Type} {p : α × β × γ} {b : β} (h : p.2.1 = b) : p = (p.1, b, p.2.2) := by rw [← h]

/-- The `n`-th entry of a list is one of its members. -/
theorem mem_at {α : Type} {l : List α} {a : α} (n : Nat) (h : l[n]? = some a) : a ∈ l := List.mem_of_getElem? h

/-- A command that its processor has just dispatched, in a block that is otherwise as `s` says. -/
def disp (c : Cmd) (s : State) : State :=
  { s with jcq := { s.jcq with dispatched := [{ cmd := keptCopy c, unit := procUnit s c }], live := [{ ref := cmdRef c }] } }

theorem on_disp (c : Cmd) (s : State) (h : settledB s = true) : settled (disp c s) := settled_of _ h

theorem startable_disp (c : Cmd) (s : State) : startable (disp c s) c = true := by simp [startable, disp]

theorem admits_disp {d : OpDesc} {c : Cmd} {s : State} (h : issueCheck d c = none) : admits d c (disp c s) :=
  ⟨startable_disp c s, h⟩

/-- The same command from partition `p`'s admin skein. -/
def cmdOf (p : Nat) (c : Cmd) : Cmd := { c with skein := .admin p, part := p }

def sampled : State := { up with weft := { up.weft with
  sampling := [{ die := 3, t1 := 5, td := some 9 }] } }

def msg (vc kind dest : Nat) : WeftMsg :=
  mkMsg dest 5 0 vc 0 kind [1, 2]
def lane : Lane := { die := 1, chan := 2, vc := 2, inbound := false }
def spent : State := { up with weft := { up.weft with spent := [(laneKey lane, 16)] } }
def waits : WaitFlit := { lane := lane, flit := headFlit (msg 2 0 6), req := none }

def asked : State := { up with weft := { up.weft with
  outstanding := [{ id := 4, die := 3, cls := 0, src := 5, dest := 6, stream := 0, sent := some 0, purpose := .walk 0 }] },
                                time := { up.time with count := [(3, 50000)] } }


/-- The hypotheses of `IdleStepAdvancesTheDieCounters` can be met: each line applies a clause to operands that meet them. -/
theorem witness_IdleStepAdvancesTheDieCounters (h : Obligations.IdleStepAdvancesTheDieCounters) : True := by
  have := h.1 up (settled_of _ rfl) rfl
  all_goals trivial

/-- The hypotheses of `UnitIdFields` can be met: each line applies a clause to operands that meet them. -/
theorem witness_UnitIdFields (h : Obligations.UnitIdFields) : True := by
  have := h 63 15 63 ?_ ?_ ?_
  have := h 0 0 0 ?_ ?_ ?_
  all_goals trivial

/-- The hypotheses of `CodesAndFieldsRoundTrip` can be met: each line applies a clause to operands that meet them. -/
theorem witness_CodesAndFieldsRoundTrip (h : Obligations.CodesAndFieldsRoundTrip) : True := by
  have := h.2.1 0x15 .aborted rfl
  have := h.2.2.1 0x16 ?_
  have := (h.2.2.2 2 0x1234).2.2 1 ?_
  all_goals trivial

/-- The hypotheses of `TimePairAndSampleAnswers` can be met: each line applies a clause to operands that meet them. -/
theorem witness_TimePairAndSampleAnswers (h : Obligations.TimePairAndSampleAnswers) : True := by
  have := h.1 _ _ (on_disp (cmd 0x0C30 0 0 0 7) up ?_) (admits_disp ?_)
  have := h.2.1 _ _ (on_disp (cmd 0x0C31 0 0 0 0) sampled ?_) (admits_disp ?_) (.inl ?_)
  have := h.2.2.1 _ _ (on_disp (cmd 0x0C31 0 0 0 0) up ?_) (admits_disp ?_) ?_ ?_
  have := h.2.2.2.1 { cmd 0x0C31 0 0 0 0 with part := 1 } (disp { cmd 0x0C31 0 0 0 0 with part := 1 } up) (settled_of _ rfl) (startable_disp _ _) ?_ ?_ ?_
  have := h.2.2.2.2.1 _ _ (on_disp (cmd 0x0100 0 0 0 0) up ?_) (admits_disp ?_)
  have := h.2.2.2.2.2.1 3 sampled { die := 3, t1 := 5, td := some 9 } (settled_of _ rfl) rfl ?_
  have := (h.2.2.2.2.2.2 sampled ⟨0, .admin 0, 0, 0, 0, 0, false⟩).1 ?_
  have := (h.2.2.2.2.2.2 { up with weft := { up.weft with samplingCmd := some ⟨0, .admin 0, 0, 0, 0, 0, false⟩ } } _).2 rfl rfl rfl
  all_goals trivial

/-- The hypotheses of `WeftCreditsAndMessages` can be met: each line applies a clause to operands that meet them. -/
theorem witness_WeftCreditsAndMessages (h : Obligations.WeftCreditsAndMessages) : True := by
  have := h.1 1 2 2 spent lane (settled_of _ rfl) ?_ ?_ ?_
  have := h.2.1 1 2 2 { spent with weft := { spent.weft with waiting := [waits] } } lane waits (settled_of _ rfl) ?_ ?_ rfl
  have := h.2.2.1 38 1 (msg 0 0 (frameUnit 0)) up _ (settled_of _ rfl) rfl rfl ?_ ?_ ?_ ?_ ?_ ?_ ?_ ?_
  have := h.2.2.2.1 1 2 ⟨[{ headFlit (msg 0 0 6) with spar := 3 }]⟩ up _ rfl rfl ⟨_, .head _, ?_⟩
  have := h.2.2.2.2.1 0 2 (msg 1 0 6) up _ (settled_of _ rfl) rfl rfl ?_ ?_ ?_ ?_ ?_
  have := h.2.2.2.2.1 0 2 (msg 1 0 7) asked _ (settled_of _ rfl) rfl rfl ?_ ?_ ?_ ?_ ?_
  have := h.2.2.2.2.2 4 asked _ rfl ?_
  all_goals trivial

/-- The hypotheses of `CompletionEntryFields` can be met: each line applies a clause to operands that meet them. -/
theorem witness_CompletionEntryFields (h : Obligations.CompletionEntryFields) : True := by
  have := (h.1 _ (mem_at 0 rfl) (cmd 0x0C31 0 0 0 0) up (settled_of _ rfl)).1 ?_
  have := (h.1 _ (mem_at 1 rfl) _ _ (on_disp (cmd 0x0C30 0 0 0 (2 ^ 300)) up ?_)).2 .opcode (startable_disp _ _) ?_
  have := (h.1 _ (mem_at 13 rfl) _ _ (on_disp (cmd 0x0100 0 1 0 0) up ?_)).2 .lenRange (startable_disp _ _) ?_
  have := (h.2.1 (cmdRef (cmd 0x0100 0 0 0 0)) .ok [1] 5 (disp (cmd 0x0100 0 0 0 0) up)).1 _ rfl
  have := (h.2.1 (cmdRef (cmd 0x0100 0 0 0 0)) .ok [1] 5 up).2 (fun _ hl => nomatch hl)
  have := (h.2.2 { ref := cmdRef (cmd 0x0100 0 0 0 0), status := .busy, result := [7], unit := 5, replayed := true } true).2.2.2.2.2.1 3 ?_
  all_goals trivial

def rq (src ctx off : Nat) (k : SpoolKind) : SpoolReq :=
  { src := src, ctx := ctx, off := off, kind := k, errs := [], badGranule := false, badCtx := false }

/-- Port 0's link is up with CXL.mem, and granule 0 is open to hosts. -/
def hostUp : State := { owned with
  lnk := { owned.lnk with hport := [(0, { up := true, memEn := true })] }
  spl := { owned.spl with gotCopy := (List.range 16).map fun n => (n, [(0, BitVec.ofNat 16 (mkGot 0 gotOwned true))]) } }

def hq (d : Option (List Byte)) : HostMemReq := { port := 0, off := 100, data := d, poison := false, own := true, errs := [] }

def snooping (w : BiWhy) : State := { up with spl := { up.spl with
  biWaits := [{ id := 3, sent := 0, line := 9, port := 0, inv := true, why := w }] } }

def copying : State := { up with spl := { up.spl with
  updates := [{ id := 1, unit := controller 2, granule := true, first := 4, count := 2, value := 0x83 }] } }

def releasing : State := { up with spl := { up.spl with
  releases := [{ id := 1, first := 0, count := 1, host := [], toApply := [], toZero := [2, 3], cmd := none }] } }

def tableWaits (g : Bool) : State := { up with spl := { up.spl with
  ackWaits := [{ id := 1, units := [5], granule := g, first := 0, count := 2, after := .nothing }] } }

def gset (code first count more : Nat) : Cmd := cmd code 0 0 0 (at_ 16 0 first + at_ 16 16 count + at_ 16 32 more)


/-- The hypotheses of `SpoolWriteStoresItsBytesOnly` can be met: each line applies a clause to operands that meet them. -/
theorem witness_SpoolWriteStoresItsBytesOnly (h : Obligations.SpoolWriteStoresItsBytesOnly) : True := by
  have := (h (jacquard 0) 0 62 [1, 2, 3] up).1 ?_
  have := (h (jacquard 0) 0 62 [1, 2, 3] up).2.1 61 (.inl ?_)
  have := (h (jacquard 0) 0 62 [1, 2, 3] up).2.1 65 (.inr ?_)
  have := (h (jacquard 0) 0 62 [1, 2, 3] up).2.2 ?_
  all_goals trivial

/-- The hypotheses of `GranuleCheckTable` can be met: each line applies a clause to operands that meet them. -/
theorem witness_GranuleCheckTable (h : Obligations.GranuleCheckTable) : True := by
  have := (h up (cxlPort 0) 0 0).1 ?_ ?_
  have := (h owned (shuttle 0) 1 0).2.1 ?_ ?_
  have := (h owned (jacquard 0) 0 0).2.2.1 ?_ (.inl ?_)
  have := (h owned (shuttle 0) 0 0).2.2.2.1 ?_ (.inr (.inl ?_))
  have := (h owned (reed 0) 0 0).2.2.2.2 ?_ ?_ ?_
  all_goals trivial

def late (n : Nat) (s : State) : State := { s with time := { s.time with count := (List.range 40).map fun d => (d, BitVec.ofNat 64 n) } }
def badLine : State := { owned with spl := { owned.spl with poison := [(1, true)] } }
def filtered (s : State) : State := setFilter 1 (some (1, true)) s


/-- The hypotheses of `SpoolRequestsAreServed` can be met: each line applies a clause to operands that meet them. -/
theorem witness_SpoolRequestsAreServed (h : Obligations.SpoolRequestsAreServed) : True := by
  have := h.1 (rq (jacquard 0) 0 62 (.read 70)) 70 up (settled_of _ rfl) ?_ ?_ ?_ ?_ ?_ ?_
  have := h.2.1 (rq (shuttle 0) 1 62 (.write [1, 2, 3] false)) [1, 2, 3] owned (settled_of _ rfl) ?_ ?_ ?_ ?_ ?_ ?_
  have := h.2.2.1 (rq (shuttle 0) 1 62 (.write [1, 2, 3] true)) [1, 2, 3] owned (settled_of _ rfl) ?_ ?_ ?_ ?_ ?_ ?_
  have := h.2.2.2.1 (rq (shuttle 0) 1 64 (.atomic .add 5 0)) .add 5 0 owned (settled_of _ rfl) ?_ ?_ ?_ ?_ ?_ ?_ ?_
  have := h.2.2.2.2.1 (rq (shuttle 0) 1 0 (.read 70)) 70 64 badLine (settled_of _ rfl) ?_ ?_ ?_ ?_ ?_ ?_ ?_
  have := h.2.2.2.2.2.1 (rq (shuttle 0) 1 (2 ^ 28) (.read 8)) owned ?_ ?_
  have := h.2.2.2.2.2.2.1 (hq none) hostUp (settled_of _ rfl) ?_ ?_ ?_ ?_ ?_ ?_ ?_ ?_
  have := h.2.2.2.2.2.2.2.1 (hq (some [7])) [7] hostUp (settled_of _ rfl) ?_ ?_ ?_ ?_ ?_ ?_
  have := h.2.2.2.2.2.2.2.2 (hq (some [7])) [7] 1 true (filtered hostUp) (settled_of _ rfl) ?_ ?_ ?_ ?_ ?_ ?_
  all_goals trivial

/-- The hypotheses of `SpoolMaintenanceRows` can be met: each line applies a clause to operands that meet them. -/
theorem witness_SpoolMaintenanceRows (h : Obligations.SpoolMaintenanceRows) : True := by
  have := h.1 3 8 (snooping (.release 8)) _ (settled_of _ rfl) rfl ?_ ?_
  have := h.2.1 3 (snooping (.device (rq (jacquard 0) 0 576 (.read 8)))) _ _ rfl rfl
  have := h.2.2.1 3 (late 5000 (snooping (.device (rq (jacquard 0) 0 576 (.read 8))))) _ _ rfl ?_ rfl
  have := (h.2.2.2.1 4 0 up (settled_of _ rfl) ?_ ?_ ?_ ?_).1 ?_
  have := (h.2.2.2.1 4 0x1FFFFFF { up with spl := { up.spl with scrubPos := [(4, 0x1FFFFFF)] } } (settled_of _ rfl) ?_ ?_ ?_ ?_).2 rfl
  have := h.2.2.2.2.1 (controller 2) copying _ rfl
  have := h.2.2.2.2.2 2 releasing _ (settled_of _ rfl) rfl
  all_goals trivial

/-- The hypotheses of `GranuleAndContextAssignment` can be met: each line applies a clause to operands that meet them. -/
theorem witness_GranuleAndContextAssignment (h : Obligations.GranuleAndContextAssignment) : True := by
  have := h.1 _ _ 8191 1 0 1 (on_disp (gset 0x820 8191 1 64) up ?_) (admits_disp ?_) ?_ ?_ ?_ ?_ ?_ ?_ ?_ (.inr rfl) ?_
  have := h.1 _ _ 0 2 5 0 (on_disp (gset 0x820 0 2 5) up ?_) (admits_disp ?_) ?_ ?_ ?_ ?_ ?_ ?_ ?_ (.inl rfl) ?_
  have := (h.2.1 _ _ 1 2 (on_disp (gset 0x820 1 2 5) (tableWaits true) ?_) ?_).1 (admits_disp ?_) ?_ ?_
  have := (h.2.1 _ _ 1 2 (on_disp (gset 0x821 1 2 0) (tableWaits true) ?_) ?_).2.1 (admits_disp ?_) ?_ ?_
  have := (h.2.1 _ _ 1 2 (on_disp (gset 0x201 1 2 10) (tableWaits false) ?_) ?_).2.2 (admits_disp ?_) ?_ ?_
  have := h.2.2.1 _ _ 0 1 (on_disp (gset 0x821 0 1 0) owned ?_) (admits_disp ?_) ?_ ?_ ?_ ?_ ?_ ?_
  have := h.2.2.2 _ _ 65535 1 5 (on_disp (gset 0x201 65535 1 10) up ?_) (admits_disp ?_) ?_ ?_ ?_ ?_ ?_ ?_ ?_ ?_
  all_goals trivial

def leaf1 : CachedLeaf := { ctx := 1, epoch := 0, pageLog2 := 21, page := 0, pa := 0, rd := true, wr := true, atom := false }
def look : Lookup :=
  { heddle := 0, holder := shuttle 0, ctx := 1, part := 0, va := 64, len := 8, access := .read, object := 5, otype := 0, remote := false }

/-- Context 1 is enabled, with its page 0 in Heddle 0's cache. -/
def ctxUp : State := { owned with hdl := { owned.hdl with
  ctx := [(1, { enable := true, l1Log2 := 10, root := 0x100, epoch := 3 })]
  leaves := [(0, [leaf1]), (3, [leaf1])] } }

def walking : State := { ctxUp with
  spl := { ctxUp.spl with mem := [(0x100, 0x0F)] }
  hdl := { ctxUp.hdl with walks := [{ id := 2, req := look, epoch := 3, level := 3, entryPa := 0x100 }] } }

def wd : Withdrawal := { id := 4, why := .withdraw 1 0 0 4, awaiting := [(0, shuttle 0), (0, shuttle 1)],
                         fencedWait := [((0, reed 0), 0)], started := [], after := .report, cmd := none }
def withdrawn : State := { ctxUp with hdl := { ctxUp.hdl with withdrawals := [wd] } }

def keyed : State := { ctxUp with hdl := { ctxUp.hdl with
  region := [(7, { gen := 255, valid := true, rRead := true, ctx := 1, size := 64 })] } }

def pend1 : PendFault := { heddle := 0, slot := 0, ctx := 1, page := 3, part := 0, seq := 0, faultId := 0, waiters := [⟨5, 0, false, none⟩] }
def faulted : State := { ctxUp with hdl := { ctxUp.hdl with pend := [pend1], held := [(0, 0, 5), (0, 1, 6)] } }

def upper : State := { ctxUp with
  spl := { ctxUp.spl with mem := [(0x100, 1), (0x101, 0x10)] }
  hdl := { ctxUp.hdl with walks := [{ id := 2, req := look, epoch := 3, level := 2, entryPa := 0x100 }] } }

def revoking1 : State := { keyed with hdl := { keyed.hdl with
  withdrawals := [{ wd with why := .revoke 0x7FF, awaiting := [(0, shuttle 0)] }] } }


/-- The hypotheses of `ContextCommandsTakeEffect` can be met: each line applies a clause to operands that meet them. -/
theorem witness_ContextCommandsTakeEffect (h : Obligations.ContextCommandsTakeEffect) : True := by
  have := (h.1 _ _ 1 21 (2 ^ 24) (on_disp (cmd 0x202 0 0 0 (1 + at_ 16 18 21 + at_ 24 24 1)) owned ?_) (admits_disp ?_) ?_ ?_ ?_ ?_ ?_ ?_ ?_).1 rfl
  have := (h.1 _ _ 1 21 (2 ^ 24) (on_disp (cmd 0x202 0 0 0 (1 + at_ 16 18 21 + at_ 24 24 1)) ctxUp ?_) (admits_disp ?_) ?_ ?_ ?_ ?_ ?_ ?_ ?_).2 rfl
  have := h.2.1 _ _ 1 (on_disp (cmd 0x203 0 0 0 1) ctxUp ?_) (admits_disp ?_) ?_ ?_ ?_
  have := h.2.2.1 _ _ 1 _ _ (on_disp (cmd 0x210 0 0 0 (1 + at_ 16 16 1 + at_ 24 0 (2 ^ 57 - 2 ^ 21))) ctxUp ?_) (admits_disp ?_) ?_ ?_ ?_ rfl rfl ?_
  have := (h.2.2.2.1 _ _ 1 (on_disp (cmd 0x202 0 0 0 1) withdrawn ?_) ?_ ?_).1 (admits_disp ?_)
  have := (h.2.2.2.1 _ _ 1 (on_disp (cmd 0x203 0 0 0 1) withdrawn ?_) ?_ ?_).2.1 (admits_disp ?_)
  have := (h.2.2.2.1 _ _ 1 (on_disp (cmd 0x210 0 0 0 1) withdrawn ?_) ?_ ?_).2.2 (admits_disp ?_)
  have := (h.2.2.2.2 _ _ 0 (on_disp (cmd 0x202 0 0 0 0) ctxUp ?_) ?_ ?_ ?_).1 (admits_disp ?_)
  have := (h.2.2.2.2 _ _ 0 (on_disp (cmd 0x203 0 0 0 0) ctxUp ?_) ?_ ?_ ?_).2.1 (admits_disp ?_)
  have := (h.2.2.2.2 _ _ 0 (on_disp (cmd 0x210 0 0 0 0) ctxUp ?_) ?_ ?_ ?_).2.2 (admits_disp ?_)
  all_goals trivial

/-- The hypotheses of `RegionKeysAreGivenAndRevoked` can be met: each line applies a clause to operands that meet them. -/
theorem witness_RegionKeysAreGivenAndRevoked (h : Obligations.RegionKeysAreGivenAndRevoked) : True := by
  have := h.1 _ _ 1 (2 ^ 57 - 2 ^ 48) (2 ^ 48) 1 (on_disp (cmd 0x220 0 0 0 (1 + at_ 16 16 31 + at_ 32 0 (2 ^ 48) + at_ 24 0 (2 ^ 57 - 2 ^ 48))) ctxUp ?_) (admits_disp ?_) ?_ ?_ ?_ ?_ ?_ ?_ ?_ ?_ ?_ ?_
  have := h.2.1 _ _ 0x7FF (on_disp (cmd 0x221 0 0 0 0x7FF) keyed ?_) (admits_disp ?_) ?_ ?_ ?_
  have := h.2.2.1 _ _ 0x7FF (on_disp (cmd 0x221 0 0 0 0x7FF) revoking1 ?_) (admits_disp ?_) ?_ ?_
  have := h.2.2.2 _ _ 0x7FE (on_disp (cmd 0x221 0 0 0 0x7FE) keyed ?_) (admits_disp ?_) ?_ ?_ ?_
  all_goals trivial

/-- The hypotheses of `PageFaultCommandsTakeEffect` can be met: each line applies a clause to operands that meet them. -/
theorem witness_PageFaultCommandsTakeEffect (h : Obligations.PageFaultCommandsTakeEffect) : True := by
  have := h.1 _ _ 16 (2 ^ 21) 1 (on_disp (cmd 0x230 0 0 0 (1 + at_ 16 16 16 + at_ 24 0 (2 ^ 21))) ctxUp ?_) (admits_disp ?_) ?_ ?_ ?_ ?_ (.inr ?_)
  have := h.1 _ _ 0 0 0 (on_disp (cmd 0x230 0 0 0 0) ctxUp ?_) (admits_disp ?_) ?_ ?_ ?_ ?_ (.inl ?_)
  have := (h.2.1 (cmd 0x231 0 0 0 0) (disp (cmd 0x231 0 0 0 0) faulted) pend1 (admits_disp ?_) ?_ ?_).1 ?_
  have := (h.2.1 (cmd 0x231 0 0 0 (2 ^ 32)) (disp (cmd 0x231 0 0 0 (2 ^ 32)) faulted) pend1 (admits_disp ?_) ?_ ?_).2 ?_
  have := (h.2.2.1 _ _ (on_disp (cmd 0x231 0 0 0 9) faulted ?_) ?_ (admits_disp ?_)).1 ?_
  have := (h.2.2.1 (cmdOf 1 (cmd 0x231 0 0 0 0)) (disp (cmdOf 1 (cmd 0x231 0 0 0 0)) faulted) (settled_of _ rfl) ?_ (admits_disp ?_)).2 pend1 ?_ ?_
  have := h.2.2.2.1 (cmd 0x232 0 0 0 (1 + at_ 16 16 2 + at_ 24 0 64)) (disp (cmd 0x232 0 0 0 (1 + at_ 16 16 2 + at_ 24 0 64)) faulted) _ _ (admits_disp ?_) ?_ rfl (pair_of (by decide +kernel))
  have := h.2.2.2.2 _ _ 5 0 (on_disp (cmd 0x233 0 0 0 5) faulted ?_) (admits_disp ?_) ?_ ?_ ?_ ?_
  have := h.2.2.2.2 _ _ 6 1 (on_disp (cmd 0x233 0 0 0 (6 + at_ 16 24 1)) faulted ?_) (admits_disp ?_) ?_ ?_ ?_ ?_
  all_goals trivial

/-- The hypotheses of `LookupsAndAcknowledgements` can be met: each line applies a clause to operands that meet them. -/
theorem witness_LookupsAndAcknowledgements (h : Obligations.LookupsAndAcknowledgements) : True := by
  have := (h.1 { look with va := 2 ^ 57 } ctxUp (settled_of _ rfl) ?_ ?_).1 .bounds ?_
  have := (h.1 look ctxUp (settled_of _ rfl) ?_ ?_).2.1 leaf1 ?_ ?_ ?_ ?_ ?_
  have := (h.1 { look with va := 2 ^ 30 } ctxUp (settled_of _ rfl) ?_ ?_).2.2 ?_ ?_ ?_
  have := (h.2.1 2 [] walking _ _ rfl ?_ ?_ ?_).1 64 { leaf1 with epoch := 3 } (pair_of (by decide +kernel))
  have := (h.2.1 2 [] upper _ _ rfl ?_ ?_ ?_).2 3 0x1000 0x1000 (pair_of (by decide +kernel))
  have := (h.2.2.1 4 0 (shuttle 1) withdrawn wd (settled_of _ rfl) rfl).1 _ _ _ _ rfl
  have := (h.2.2.1 4 0 (shuttle 0) revoking1 _ (settled_of _ rfl) rfl).2 _ rfl ?_
  have := h.2.2.2.1 4 0 (shuttle 1) (late 100000 withdrawn) _ rfl ?_
  have := h.2.2.2.2 4 0 (reed 0) (late 50000 withdrawn) _ _ (settled_of _ rfl) rfl rfl ?_
  all_goals trivial

/-- A write of a doorbell word of partition 0's skein `k`, and of its page 64. -/
def db (k w v : Nat) : Doorbell := { part := 0, port := 0, off := 16 * k + w, size := 4, read := false, value := v }
def db64 (w v : Nat) : Doorbell := { part := 0, port := 0, off := 0x40000 + w, size := 4, read := false, value := v }

/-- Skein 5 is created, with rings of 16 entries at target 0. -/
def skOn : Skein := { created := true, enable := true, ring := { pa := 0x1000, bufCtx := 1, log2 := 4 }, weight := 2, roundWeight := 2,
                      cq := { ring := { pa := 0x2000, bufCtx := 1, log2 := 4 }, next := 15, reserved := 1, arm := true, vector := 3 } }
def withSk (k : Skein) : State := { ctxUp with
  jcq := { ctxUp.jcq with skein := [(5, k)] }, lnk := { ctxUp.lnk with hport := [(0, { up := true })] } }

def unreadSk : Skein := { skOn with cq := { skOn.cq with next := 6 } }

/-- The admin skein of partition 0 has a command to fetch. -/
def withAdmin (k : Skein) (a : Nat) : State := { withSk k with jcq := { (withSk k).jcq with
  admin := [(0, { sk := { enable := true, tail := a, cq := k.cq }, eq := k.cq })] } }

def ord5 : CmdRef := { id := 1, skein := .ord 5, part := 0, sqHead := 1, tag := 9, opcode := 0x100, silent := false }
def done5 : Done := { ref := ord5, status := .ok, result := [], unit := jacquard 5, replayed := false }

def vec (m : Bool) : State := { ctxUp with lnk := { ctxUp.lnk with
  hport := [(0, { up := true })], msixOpen := [(2047, !m)], pba := [(2047, true)] } }

def entryOn : State := { withSk { skOn with fetching := true, tail := 1 } with
  spl := { owned.spl with mem := [(0x1002, 1)] } }

def skCmd (code more : Nat) : Cmd := cmd code 0 0 0 (5 + more)

/-- Skein 5 has something to fetch, and its processor stands as `p` says. -/
def ready5 : Skein := { skOn with cq := {}, tail := 3, credit := 2, roundBurstM1 := 3 }
def visiting (p : ProcState) : State := { withSk ready5 with jcq := { (withSk ready5).jcq with proc := [(5, p)] } }

def spent5 : State := { visiting {} with jcq := { (visiting {}).jcq with skein := [(5, { ready5 with credit := 0 })] } }

/-- A command of two entries, of one entry, and a dispatch that may go. -/
def entryTwo : State := { entryOn with spl := { owned.spl with mem := [(0x1002, 1)] } }
def entryOne : State := { entryOn with spl := { owned.spl with mem := [] } }
def entryBad : State := { entryOn with spl := { owned.spl with poison := [(0x40, true)] } }
def staged5 : State := withSk { skOn with staged := some { cmd 0x310 0 0 3 0 with skein := .ord 5 } }
def sh3 : State := { staged5 with jcq := { staged5.jcq with unitCredit := [(serving staged5 3, 1)] } }
def doneOn (d : Done) : State := { withSk skOn with jcq := { (withSk skOn).jcq with done := [d], live := [{ ref := ord5 }] } }


/-- The hypotheses of `DoorbellsSetTailsHeadsAndEnable` can be met: each line applies a clause to operands that meet them. -/
theorem witness_DoorbellsSetTailsHeadsAndEnable (h : Obligations.DoorbellsSetTailsHeadsAndEnable) : True := by
  have := (h.1 (db 5 0 15) (withSk skOn) 5 _ _ (settled_of _ rfl) ?_ ?_ ?_ ?_ ?_ rfl rfl).1 ?_ ?_
  have := (h.1 (db 5 0 16) (withSk skOn) 5 _ _ (settled_of _ rfl) ?_ ?_ ?_ ?_ ?_ rfl rfl).2.1 ?_ ?_
  have := (h.1 (db 5 4 16) (withSk skOn) 5 _ _ (settled_of _ rfl) ?_ ?_ ?_ ?_ ?_ rfl rfl).2.2.1 ?_ ?_
  have := (h.1 (db 5 4 15) (withSk skOn) 5 _ _ (settled_of _ rfl) ?_ ?_ ?_ ?_ ?_ rfl rfl).2.2.2.1 ?_ ?_ ?_
  have := (h.1 (db 5 4 (2 ^ 31 + 15)) (withSk skOn) 5 _ _ (settled_of _ rfl) ?_ ?_ ?_ ?_ ?_ rfl rfl).2.2.2.2.1 ?_ ?_ ?_ ?_
  have := (h.1 (db 5 4 (2 ^ 31 + 15)) (withSk unreadSk) 5 _ _ (settled_of _ rfl) ?_ ?_ ?_ ?_ ?_ rfl rfl).2.2.2.2.2.1 ?_ ?_ ?_ ?_
  have := (h.1 (db 5 8 1) (withSk skOn) 5 _ _ (settled_of _ rfl) ?_ ?_ ?_ ?_ ?_ rfl rfl).2.2.2.2.2.2.1 ?_ (.inr ?_)
  have := (h.1 (db 5 8 0) (withSk skOn) 5 _ _ (settled_of _ rfl) ?_ ?_ ?_ ?_ ?_ rfl rfl).2.2.2.2.2.2.1 ?_ (.inl ?_)
  have := (h.1 (db 5 8 1) (withSk { skOn with error := true }) 5 _ _ (settled_of _ rfl) ?_ ?_ ?_ ?_ ?_ rfl rfl).2.2.2.2.2.2.2 ?_ ?_ ?_
  have := (h.2.1 (db 6 0 1) (withSk skOn) (settled_of _ rfl) ?_ ?_ ?_ (fun g e => by cases e; decide)).1 ?_
  have := (h.2.1 (db 6 4 1) (withSk skOn) (settled_of _ rfl) ?_ ?_ ?_ (fun g e => by cases e; decide)).2.1 ?_
  have := (h.2.1 (db 6 8 1) (withSk skOn) (settled_of _ rfl) ?_ ?_ ?_ (fun g e => by cases e; decide)).2.2 ?_
  have := (h.2.2.1 (db 6 12 1) (withSk skOn) (settled_of _ rfl) ?_ ?_ ?_ ?_).1 ?_
  have := (h.2.2.1 { db 5 0 1 with read := true } (withSk skOn) (settled_of _ rfl) ?_ ?_ ?_ ?_).2 ?_
  have := h.2.2.2.1 { db 5 0 1 with part := 1 } (withSk skOn) (settled_of _ rfl) ?_ ?_ ?_
  have := h.2.2.2.2 (db 5 0 1) State.reset (settled_of _ rfl) ?_
  all_goals trivial

/-- The hypotheses of `AdminDoorbellsAndWords` can be met: each line applies a clause to operands that meet them. -/
theorem witness_AdminDoorbellsAndWords (h : Obligations.AdminDoorbellsAndWords) : True := by
  have := (h.1 (db64 0 15) (withAdmin skOn 0) _ _ _ _ (settled_of _ rfl) ?_ ?_ ?_ rfl rfl rfl rfl).1 ?_ ?_
  have := (h.1 (db64 0 16) (withAdmin skOn 0) _ _ _ _ (settled_of _ rfl) ?_ ?_ ?_ rfl rfl rfl rfl).2.1 ?_ ?_
  have := (h.1 (db64 4 15) (withAdmin skOn 0) _ _ _ _ (settled_of _ rfl) ?_ ?_ ?_ rfl rfl rfl rfl).2.2.1 ?_ ?_ ?_
  have := (h.1 (db64 4 (2 ^ 31 + 15)) (withAdmin skOn 0) _ _ _ _ (settled_of _ rfl) ?_ ?_ ?_ rfl rfl rfl rfl).2.2.2.1 ?_ ?_ ?_ ?_
  have := (h.1 (db64 4 (2 ^ 31 + 15)) (withAdmin unreadSk 0) _ _ _ _ (settled_of _ rfl) ?_ ?_ ?_ rfl rfl rfl rfl).2.2.2.2.1 ?_ ?_ ?_ ?_
  have := (h.1 (db64 4 16) (withAdmin skOn 0) _ _ _ _ (settled_of _ rfl) ?_ ?_ ?_ rfl rfl rfl rfl).2.2.2.2.2.1 ?_ ?_
  have := (h.1 (db64 8 15) (withAdmin skOn 0) _ _ _ _ (settled_of _ rfl) ?_ ?_ ?_ rfl rfl rfl rfl).2.2.2.2.2.2.1 ?_ ?_ ?_
  have := (h.1 (db64 8 16) (withAdmin skOn 0) _ _ _ _ (settled_of _ rfl) ?_ ?_ ?_ rfl rfl rfl rfl).2.2.2.2.2.2.2 ?_ ?_
  have := h.2 0 0x4000 up _ rfl
  all_goals trivial

/-- The hypotheses of `SkeinCommandsTakeEffect` can be met: each line applies a clause to operands that meet them. -/
theorem witness_SkeinCommandsTakeEffect (h : Obligations.SkeinCommandsTakeEffect) : True := by
  have := h.1 _ _ 5 16 4 255 2047 1 _ _ (on_disp (cmd 0x110 1 0 0 (5 + at_ 16 16 1 + at_ 16 32 16 + at_ 16 37 4 + at_ 16 42 255 + at_ 24 22 1 + at_ 32 9 1 + at_ 40 0 2047)) ctxUp ?_) (admits_disp ?_) ?_ ?_ ?_ ?_ ?_ ?_ ?_ rfl rfl ?_ ?_ ?_ ?_ ?_ ?_ ?_ ?_ ?_ ?_ (.inr ?_)
  have := h.2.1 _ _ 5 (on_disp (cmd 0x110 1 0 0 5) (withSk skOn) ?_) (admits_disp ?_) ?_ ?_
  have := h.2.2.1 _ _ 5 (on_disp (skCmd 0x111 (at_ 16 14 255 + at_ 16 22 63 + at_ 16 28 1)) (withSk { skOn with error := true }) ?_) (admits_disp ?_) ?_ ?_ ?_
  have := (h.2.2.2 _ _ 5 (on_disp (skCmd 0x112 0) (withSk { skOn with enable := false, cq := { skOn.cq with reserved := 0 } }) ?_) (admits_disp ?_) ?_ ?_).1 ?_
  have := (h.2.2.2 _ _ 5 (on_disp (skCmd 0x112 0) (withSk skOn) ?_) (admits_disp ?_) ?_ ?_).2 ?_
  all_goals trivial

/-- The hypotheses of `SkeinsAreServed` can be met: each line applies a clause to operands that meet them. -/
theorem witness_SkeinsAreServed (h : Obligations.SkeinsAreServed) : True := by
  have := h.1 0 (withAdmin { skOn with cq := {} } 3) (.admin 0) ?_ ?_ ?_ ?_ ?_ ?_
  have := (h.2.1 5 5 (visiting { n := 1, last := some 5, visit := some 5 }) ?_ ?_ ?_ ?_).1 ?_ ?_
  have := (h.2.1 5 5 { visiting { n := 1, last := some 5, visit := some 5 } with jcq := { (visiting { n := 1, last := some 5, visit := some 5 }).jcq with skein := [(5, { ready5 with fetching := true })] } } ?_ ?_ ?_ ?_).2 (settled_of _ rfl) ?_
  have := h.2.2.1 5 5 [] (visiting { left := [5] }) ?_ ?_ ?_ ?_ (.inl ?_) ?_ ?_ ?_ ?_
  have := h.2.2.2.1 5 5 [] spent5 _ ?_ ?_ ?_ ?_ ?_ ?_ ?_ rfl ?_ ?_ ?_ ?_
  have := (h.2.2.2.2.1 5 (visiting {})).2.1 5 ?_
  have := (h.2.2.2.2.1 5 (visiting {})).2.2 6 ?_
  have := h.2.2.2.2.2 32 up (settled_of _ rfl) (.inl ?_)
  have := h.2.2.2.2.2 0 State.reset (settled_of _ rfl) (.inr ?_)
  all_goals trivial

/-- The hypotheses of `EntriesCreditsAndCompletions` can be met: each line applies a clause to operands that meet them. -/
theorem witness_EntriesCreditsAndCompletions (h : Obligations.EntriesCreditsAndCompletions) : True := by
  have := (h.1 (.ord 5) [] entryTwo _ _ _ _ ?_ (triple_of (by decide +kernel)) rfl rfl).1 ?_
  have := (h.1 (.ord 5) [] entryOne _ _ _ _ ?_ (triple_of (by decide +kernel)) rfl rfl).2 ?_
  have := h.2.1 (.ord 5) [] entryBad _ _ .poison ?_ ?_ (triple_of (by decide +kernel))
  have := h.2.2.1 (.ord 5) [] (withSk skOn) (settled_of _ rfl) ?_
  have := h.2.2.2.1 (shuttle 0) 3 staged5 _ ?_ rfl
  have := h.2.2.2.2.1 (.ord 5) _ _ sh3 rfl ?_ rfl ?_ ?_
  have := h.2.2.2.2.2.1 0 (doneOn done5) _ done5 5 (settled_of _ rfl) ?_ ?_ ?_ ?_ ?_ ?_ (fun x hx => nomatch hx) ?_ (.inl ?_) (pair_of (by decide +kernel))
  have := h.2.2.2.2.2.2.1 0 (doneOn { done5 with ref := { ord5 with silent := true } }) { done5 with ref := { ord5 with silent := true } } 5 (settled_of _ rfl) ?_ ?_ ?_ ?_ ?_ ?_ (fun x hx => nomatch hx) ?_ ?_
  have := h.2.2.2.2.2.2.2.1 0 2047 (vec true) (settled_of _ rfl) ?_ ?_ ?_
  have := h.2.2.2.2.2.2.2.2 0 2047 (vec false) (settled_of _ rfl) ?_
  all_goals trivial

/-- The hypotheses of `ConflictRecordKeepsTheFirst` can be met: each line applies a clause to operands that meet them. -/
theorem witness_ConflictRecordKeepsTheFirst (h : Obligations.ConflictRecordKeepsTheFirst) : True := by
  have := (h 0 0x18 5 true ⟨0, 0⟩ up).1 ?_
  have := (h 0 0x18 5 true ⟨0, 0⟩ { up with regs := { up.regs with conflict := [(0, { seen := true })] } }).2.1 ?_
  have := (h 0 0x18 5 true ⟨0, 0⟩ up).2.2.1 1 ?_
  have := (h 0 0x18 5 true ⟨0, 0⟩ up).2.2.2.1 ?_
  all_goals trivial

def drv : Requester := ⟨0, 0⟩
def latchedUp : State := { up with regs := { up.regs with readLatch := [⟨drv, 0x10, 77⟩] } }
def busyAdmin : State := { up with jcq := { up.jcq with admin := [(63, { sk := { enable := true } })] } }
def vfUp : State := { up with lnk := { up.lnk with hport := [(0, { up := true, vfEnable := true, numVfs := 1 })] } }
def ethAt (p : EthPort) : State := setEthp 0 p up
def boxed (b : Mailbox) : State := { up with fw := { up.fw with mbox := [(31, b)] } }
def safeUp : State :=
  { State.reset with
    fw := { State.reset.fw with safeMode := true }
    pins := { State.reset.pins with faultN := false, porN := true } }


/-- The hypotheses of `RegisterAccessesReadAndWrite` can be met: each line applies a clause to operands that meet them. -/
theorem witness_RegisterAccessesReadAndWrite (h : Obligations.RegisterAccessesReadAndWrite) : True := by
  have := ((h drv 0x10 5 up).1 ?_ ?_).1 _ rfl ?_ ?_ ?_
  have := ((h drv 0x680010 5 up).1 ?_ ?_).2.1 _ rfl ?_ ?_ ?_
  have := ((h drv 0x14 5 latchedUp).1 ?_ ?_).2.2.1 _ 0x10 rfl ?_ ?_ ?_ ?_ ?_
  have := ((h drv 0x120000 0x4000 (withAdmin skOn 0)).1 ?_ ?_).2.2.2.1 _ rfl ?_ ?_ ?_
  have := ((h drv 0x680010 0x4078 up).1 ?_ ?_).2.2.2.2.1 _ rfl ?_ ?_ ?_
  have := ((h drv 0x120004 5 up).1 ?_ ?_).2.2.2.2.2.1 _ 0x120000 rfl ?_ ?_ ?_ ?_ ?_
  have := ((h drv 0x680010 5 up).1 ?_ ?_).2.2.2.2.2.2.1 _ rfl ?_ ?_
  have := (((h drv 0x680F00 5 up).1 ?_ ?_).2.2.2.2.2.2.2.1 ?_ ?_ ?_).2 ?_
  have := ((h ⟨1, 1⟩ 0x680010 5 vfUp).1 ?_ ?_).2.2.2.2.2.2.2.2.1 ?_ ?_
  have := ((h ⟨1, 1⟩ 0x680010 5 vfUp).1 ?_ ?_).2.2.2.2.2.2.2.2.2 ?_ ?_
  have := (h drv 0x120000 5 up).2.1 { unit := jacquard 0, val := fun _ => 0, wr := fun _ _ s => some s } _ rfl
  have := (h drv 0x120000 5 up).2.2.1 { unit := jacquard 0, val := fun _ => 0, wr := fun _ _ _ => none } rfl
  have := (h drv 0x680010 5 State.reset).2.2.2.1 ?_
  have := (h ⟨1, 1⟩ 0x680010 5 up).2.2.2.2.1 ?_ ?_
  have := (h drv 0x7FF0 5 up).2.2.2.2.2 ?_ ?_ ?_
  have := (h drv 0x8000 5 up).2.2.2.2.2 ?_ ?_ ?_
  all_goals trivial

/-- The hypotheses of `RegisterRowsOfThePorts` can be met: each line applies a clause to operands that meet them. -/
theorem witness_RegisterRowsOfThePorts (h : Obligations.RegisterRowsOfThePorts) : True := by
  have := ((h drv 0 0 up (settled_of _ rfl) ?_ ?_ ?_ ?_).1 255 ?_).1 ?_ ?_
  have := ((h drv 7 1 (setEthp 7 { rxq := [(0, { cfg := 0x1000000 })] } up) (settled_of _ rfl) ?_ ?_ ?_ ?_).1 0 ?_).1 ?_ ?_
  have := ((h drv 7 3 up (settled_of _ rfl) ?_ ?_ ?_ ?_).1 0 ?_).2 (.inl ?_)
  have := ((h drv 7 1 up (settled_of _ rfl) ?_ ?_ ?_ ?_).1 0 ?_).2 (.inr ?_)
  have := ((h drv 0 (2 ^ 45 - 1) up (settled_of _ rfl) ?_ ?_ ?_ ?_).2.1 1023 0 ?_ ?_).1 ?_ ?_
  have := ((h drv 0 (2 ^ 45 - 2 ^ 21) (ethAt { policer := [(1023, { w0 := 5 })] }) (settled_of _ rfl) ?_ ?_ ?_ ?_).2.1 1023 5 ?_ ?_).2 (.inl ?_)
  have := (h drv 7 (2 ^ 64 - 1) up (settled_of _ rfl) ?_ ?_ ?_ ?_).2.2.1 4095 ?_
  have := (h drv 7 (2 ^ 64 - 1) up (settled_of _ rfl) ?_ ?_ ?_ ?_).2.2.2.1 255 ?_
  have := ((h drv 0 0 up (settled_of _ rfl) ?_ ?_ ?_ ?_).2.2.2.2.1 63 1 ?_ ?_).1 _ rfl
  have := ((h drv 0 0x1000 up (settled_of _ rfl) ?_ ?_ ?_ ?_).2.2.2.2.1 63 0 ?_ ?_).2 ?_
  have := (h drv 0 255 up (settled_of _ rfl) ?_ ?_ ?_ ?_).2.2.2.2.2.1 ?_
  have := (h drv 0 256 up (settled_of _ rfl) ?_ ?_ ?_ ?_).2.2.2.2.2.2.1 ?_ ?_
  have := (h drv 0 0 (ethAt { lowPower := true }) (settled_of _ rfl) ?_ ?_ ?_ ?_).2.2.2.2.2.2.2.1 ?_ ?_
  have := (h drv 7 (2 ^ 64 - 1) up (settled_of _ rfl) ?_ ?_ ?_ ?_).2.2.2.2.2.2.2.2.1
  have := (h drv 0 1 up (settled_of _ rfl) ?_ ?_ ?_ ?_).2.2.2.2.2.2.2.2.2.1 ?_ ?_
  have := (h drv 0 (2 ^ 39) (ethAt { sub := [(7, { cnt := [(16, 2 ^ 39)] })] }) (settled_of _ rfl) ?_ ?_ ?_ ?_).2.2.2.2.2.2.2.2.2.2 7 16 ?_ ?_ ?_
  all_goals trivial

/-- The hypotheses of `RegisterRowsOfTheDevice` can be met: each line applies a clause to operands that meet them. -/
theorem witness_RegisterRowsOfTheDevice (h : Obligations.RegisterRowsOfTheDevice) : True := by
  have := ((h drv 0x110 up (settled_of _ rfl) ?_ ?_).1 ?_ 79 ?_).1 ?_ ?_
  have := ((h drv 0x101 up (settled_of _ rfl) ?_ ?_).1 ?_ 79 ?_).1 ?_ ?_
  have := ((h drv 0x130 up (settled_of _ rfl) ?_ ?_).1 ?_ 79 ?_).2 (.inl ?_)
  have := ((h drv 0x010 up (settled_of _ rfl) ?_ ?_).1 ?_ 0 ?_).2 (.inr ?_)
  have := (h drv 1 safeUp (settled_of _ rfl) ?_ ?_).2.1 ?_ ?_
  have := (h drv 1 (boxed {}) (settled_of _ rfl) ?_ ?_).2.2.1 ?_ 31 ?_ ?_ ?_ ?_ ?_ ?_
  have := (h ⟨0, 3⟩ 0 (boxed { full := true }) (settled_of _ rfl) ?_ ?_).2.2.2.1 ?_ 31 ?_ ?_ ?_
  have := (h drv 0xFFFF0000 up (settled_of _ rfl) ?_ ?_).2.2.2.2.1 ?_ (bobbin 511) ?_ ?_ ?_
  have := (h drv 0x30000 up (settled_of _ rfl) ?_ ?_).2.2.2.2.2.1 ?_ ?_ ?_ ?_
  have := (h ⟨0, 3⟩ 0x30000 up (settled_of _ rfl) ?_ ?_).2.2.2.2.2.2.1 ?_ ?_ ?_
  have := ((h drv (2 ^ 16 * 2 + unitId 35 9 0) up (settled_of _ rfl) ?_ ?_).2.2.2.2.2.2.2.1 ?_ ?_ ?_).1 rfl
  have := ((h drv (2 ^ 16 * 2 + 0xFFFF) up (settled_of _ rfl) ?_ ?_).2.2.2.2.2.2.2.1 ?_ ?_ ?_).2 ?_
  have := (h drv (2 ^ 19 + 5) up (settled_of _ rfl) ?_ ?_).2.2.2.2.2.2.2.2.1 ?_ (.inl ?_) ?_ rfl ?_
  have := (h drv 0xFFFFFFFF up (settled_of _ rfl) ?_ ?_).2.2.2.2.2.2.2.2.2.1 ?_
  have := ((h drv 0x4440000 up (settled_of _ rfl) ?_ ?_).2.2.2.2.2.2.2.2.2.2 ?_ 63 0x18 ?_ ?_).1 _ rfl
  have := ((h drv 1 busyAdmin (settled_of _ rfl) ?_ ?_).2.2.2.2.2.2.2.2.2.2 ?_ 63 0x08 ?_ ?_).2 rfl
  all_goals trivial

/-- The architected part of a queue pair with one path over IPv6; `mode` 1 is RoCEv2, 2 NVMe. -/
def archN (mode more : Nat) : Nat := 2 ^ 5 * mode + 2 ^ 16 + 2 ^ 27 + 2 ^ 216 + 2 ^ 224 + more
def qpv (st : QpSt) (mode more : Nat) : Qp := { created := true, state := st, arch := BitVec.ofNat 640 (archN mode more) }

def allRights : Region :=
  { valid := true, rRead := true, rWrite := true, rAtomic := true, rReduce := true, lWrite := true, ctx := 1, size := 64 }

/-- Queue pair 3, whose context is in its slice, and a region with key 0x700. -/
def withQp (v : Qp) : State := { ctxUp with
  sht := { ctxUp.sht with qp := [(3, v)], cache := [(3, [3])] }
  hdl := { ctxUp.hdl with region := [(7, allRights)] } }
def away (v : Qp) : State := { withQp v with sht := { (withQp v).sht with cache := [] } }
def qpOn : State := withQp (qpv .active 0 0)

def opCmd (code flags len more : Nat) : Cmd := cmd code flags len 3 (at_ 16 0 0x700 + more)
def modCmd (n more : Nat) : Cmd := cmd 0x302 1 0 3 (n + at_ 24 0 (archN 0 0) + more)

def sent1 : Sent := { psn := 0, op := 9, opc := 1, msgId := 0, offset := 0, key := 0, aux := 0, aux2 := 0, flags := 0, payload := [],
                      answered := false, pos := 0, first := 0 }
def op1 : SendOp := { id := 9, qp := 3, code := 0x310, cmd := none, packet := [], data := some [1, 2], lkey := 0, loff := 0,
                      rkey := 0x700, roff := 0, len := 2 }

/-- Partition 0's transmit queue on sub-port 0 of port 0, with packets in it. -/
def withTx (n : Nat) (s : State) : State :=
  setEthp 0 { txmap := [(0, 0x1000)], txq := [(0, { pkts := List.replicate n { frame := [1] } })] } s
def ordQp (v : Qp) : State := { withQp v with sht := { (withQp v).sht with ops := [op1] } }

def hdr1 (v opc dest : Nat) : ShtHdr := { version := v, opc := opc, flags := 0, dest := dest, psn := 0, len := 2 }
def crcData (b : List Byte) : List Byte := b ++ beBytes 4 (crc32c b)
def shtFrame (v opc : Nat) : List Byte := qpFrame qpOn 3 0xC000 0xC422 2 (crcData (shtHdrBytes (hdr1 v opc 3) ++ [5, 6]))
def badFrame : List Byte := qpFrame qpOn 3 0xC000 0xC422 2 (shtHdrBytes (hdr1 1 1 3) ++ [5, 6, 0, 0, 0, 0])
def noPkt : RxPkt := { port := 0, frame := [], srcIp := [], h := hdr1 1 1 0, payload := [], ivCtr := 0, tag := [], bytes := 0, path := 0,
                       ce := false, ext := [] }
def pktOf (f : List Byte) : RxPkt := ((readPacket qpOn 0 f []).map (·.1)).getD noPkt

def opQp (o : SendOp) : State := { qpOn with sht := { qpOn.sht with ops := [o] } }
def heldQp : State := { qpOn with jcq := { qpOn.jcq with waiting := [{ cmd 0x302 1 0 3 0 with id := 5 }] } }
/-- A frame of a bare opcode: bit 6 abandons, and bit 7 sets bit 47 of `OFFSET`. -/
def wireOf (o : Nat) (b : List Byte) : List Byte :=
  qpFrame qpOn 3 0xC000 0xC422 2 (crcData (shtHdrBytes { hdr1 1 (o % 64) 3 with len := b.length, flags := o / 64 % 2 * 32, offset := o / 128 * 2 ^ 47 } ++ b))
def farFrame (o : Nat) : List Byte := qpFrame qpOn 3 0xC000 0xC422 2 (crcData (shtHdrBytes (hdr1 1 o 0x100000) ++ [5, 6]))


/-- The hypotheses of `QueuePairCommandsTakeEffect` can be met: each line applies a clause to operands that meet them. -/
theorem witness_QueuePairCommandsTakeEffect (h : Obligations.QueuePairCommandsTakeEffect) : True := by
  have := (h.1 (cmd 0x301 1 0 3 (archN 0 0)) (disp (cmd 0x301 1 0 3 (archN 0 0)) (withTx 0 (withQp {}))) 3 _ (admits_disp ?_) ?_ ?_ ?_ rfl).1 ?_ ?_ ?_ (fun e => absurd rfl e) (fun e => by cases e) ?_ (fun e => by cases e)
  have := (h.1 (cmd 0x301 1 0 3 (archN 0 0)) (disp (cmd 0x301 1 0 3 (archN 0 0)) qpOn) 3 _ (admits_disp ?_) ?_ ?_ ?_ rfl).2 ?_
  have := (h.2.1 (modCmd (2 + 8) 0) (disp (modCmd (2 + 8) 0) (withQp (qpv .init 0 0))) 3 2 (admits_disp ?_) ?_ ?_ ?_ ?_ ?_ ?_ (fun e => by revert e; decide) ?_).1 ?_
  have := (h.2.1 (modCmd 2 0) (disp (modCmd 2 0) qpOn) 3 2 (admits_disp ?_) ?_ ?_ ?_ ?_ ?_ ?_ (fun e => by revert e; decide) ?_).2.1 ?_
  have := (h.2.1 (modCmd (2 + 8) 0) (disp (modCmd (2 + 8) 0) (withQp (qpv .init 0 0))) 3 2 (admits_disp ?_) ?_ ?_ ?_ ?_ ?_ ?_ (fun e => by revert e; decide) ?_).2.2.1 ⟨settled_of _ rfl, ?_⟩ ?_ ?_ ?_
  have := (h.2.1 (modCmd 3 0) (disp (modCmd 3 0) (withQp (qpv .armed 0 0))) 3 3 (admits_disp ?_) ?_ ?_ ?_ ?_ ?_ ?_ (fun e => by revert e; decide) ?_).2.2.2.1 ⟨settled_of _ rfl, ?_⟩ ?_ ?_ ?_
  have := (h.2.1 (modCmd 4 0) (disp (modCmd 4 0) qpOn) 3 4 (admits_disp ?_) ?_ ?_ ?_ ?_ ?_ ?_ (fun e => by revert e; decide) ?_).2.2.2.2.1 ⟨settled_of _ rfl, ?_⟩ ?_ ?_
  have := (h.2.1 (modCmd 0 0) (disp (modCmd 0 0) qpOn) 3 0 (admits_disp ?_) ?_ ?_ ?_ ?_ ?_ ?_ (fun e => by revert e; decide) ?_).2.2.2.2.2 ⟨settled_of _ rfl, ?_⟩ ?_ ?_ (fun _ hx => nomatch hx)
  have := h.2.2.1 (cmd 0x304 0 0 3 0) (disp (cmd 0x304 0 0 3 0) qpOn) 3 (admits_disp ?_) ?_ ?_ ?_ ?_
  have := h.2.2.2.1 (cmd 0x303 0 0 3 0) (disp (cmd 0x303 0 0 3 0) (withQp (qpv .reset 0 0))) 3 (admits_disp ?_) ?_ ?_ ?_ ?_ (.inl ?_) ?_ ?_
  have := (h.2.2.2.2 _ (mem_at 0 rfl) (cmd 0x301 1 0 3 0) (disp (cmd 0x301 1 0 3 0) heldQp) (admits_disp ?_)).1 ?_
  have := (h.2.2.2.2 _ (mem_at 0 rfl) (cmd 0x301 1 0 3 0) (disp (cmd 0x301 1 0 3 0) (away (qpv .active 0 0))) (admits_disp ?_)).2.2 3 ?_ ?_ ?_
  have := (h.2.2.2.2 _ (mem_at 0 rfl) (cmdOf 1 (cmd 0x301 1 0 3 0)) (disp (cmdOf 1 (cmd 0x301 1 0 3 0)) qpOn) (admits_disp ?_)).2.1 ?_
  have := (h.2.2.2.2 _ (mem_at 1 rfl) (cmd 0x302 1 0 3 0) (disp (cmd 0x302 1 0 3 0) heldQp) (admits_disp ?_)).1 ?_
  have := (h.2.2.2.2 _ (mem_at 1 rfl) (cmd 0x302 1 0 3 0) (disp (cmd 0x302 1 0 3 0) (away (qpv .active 0 0))) (admits_disp ?_)).2.2 3 ?_ ?_ ?_
  have := (h.2.2.2.2 _ (mem_at 2 rfl) (cmd 0x303 0 0 3 0) (disp (cmd 0x303 0 0 3 0) heldQp) (admits_disp ?_)).1 ?_
  have := (h.2.2.2.2 _ (mem_at 2 rfl) (cmd 0x303 0 0 3 0) (disp (cmd 0x303 0 0 3 0) (away (qpv .active 0 0))) (admits_disp ?_)).2.2 3 ?_ ?_ ?_
  have := (h.2.2.2.2 _ (mem_at 3 rfl) (cmd 0x304 0 0 3 0) (disp (cmd 0x304 0 0 3 0) heldQp) (admits_disp ?_)).1 ?_
  have := (h.2.2.2.2 _ (mem_at 3 rfl) (cmd 0x304 0 0 3 0) (disp (cmd 0x304 0 0 3 0) (away (qpv .active 0 0))) (admits_disp ?_)).2.2 3 ?_ ?_ ?_
  have := (h.2.2.2.2 _ (mem_at 3 rfl) (cmdOf 1 (cmd 0x304 0 0 3 0)) (disp (cmdOf 1 (cmd 0x304 0 0 3 0)) qpOn) (admits_disp ?_)).2.1 ?_
  all_goals trivial

/-- The hypotheses of `DataOperationsAreAccepted` can be met: each line applies a clause to operands that meet them. -/
theorem witness_DataOperationsAreAccepted (h : Obligations.DataOperationsAreAccepted) : True := by
  have := (((h.1 _ (mem_at 0 rfl) (opCmd 0x310 0 64 (at_ 20 0 1 + at_ 40 0 (2 ^ 48 - 1))) (disp (opCmd 0x310 0 64 (at_ 20 0 1 + at_ 40 0 (2 ^ 48 - 1))) qpOn) (admits_disp ?_)).2 3 ?_).2 ?_).1 ?_
  have := (((h.1 _ (mem_at 0 rfl) (opCmd 0x310 5 8 0) (disp (opCmd 0x310 5 8 0) qpOn) (admits_disp ?_)).2 3 ?_).2 ?_).1 ?_
  have := (((h.1 _ (mem_at 1 rfl) (opCmd 0x311 0 8 0) (disp (opCmd 0x311 0 8 0) qpOn) (admits_disp ?_)).2 3 ?_).2 ?_).1 ?_
  have := (((h.1 _ (mem_at 2 rfl) (opCmd 0x312 0 8 0) (disp (opCmd 0x312 0 8 0) qpOn) (admits_disp ?_)).2 3 ?_).2 ?_).1 ?_
  have := (((h.1 _ (mem_at 3 rfl) (cmd 0x314 0 8 3 (at_ 48 0 5)) (disp (cmd 0x314 0 8 3 (at_ 48 0 5)) qpOn) (admits_disp ?_)).2 3 ?_).2 ?_).1 ?_
  have := (((h.1 _ (mem_at 4 rfl) (cmd 0x315 0 8 3 (at_ 48 0 5)) (disp (cmd 0x315 0 8 3 (at_ 48 0 5)) qpOn) (admits_disp ?_)).2 3 ?_).2 ?_).1 ?_
  have := (((h.1 _ (mem_at 5 rfl) (opCmd 0x316 0 8 0) (disp (opCmd 0x316 0 8 0) qpOn) (admits_disp ?_)).2 3 ?_).2 ?_).1 ?_
  have := (((h.1 _ (mem_at 6 rfl) (opCmd 0x317 0 8 0) (disp (opCmd 0x317 0 8 0) (withQp (qpv .active 0 16))) (admits_disp ?_)).2 3 ?_).2 ?_).1 ?_
  have := (((h.1 _ (mem_at 0 rfl) (opCmd 0x310 0 65 0) (disp (opCmd 0x310 0 65 0) qpOn) (admits_disp ?_)).2 3 ?_).2 ?_).2 .bounds ?_
  have := ((h.1 _ (mem_at 0 rfl) (opCmd 0x310 0 64 0) (disp (opCmd 0x310 0 64 0) (away (qpv .active 0 0))) (admits_disp ?_)).2 3 ?_).1 ?_
  have := (h.1 _ (mem_at 1 rfl) (cmdOf 1 (cmd 0x311 0 8 3 0)) (disp (cmdOf 1 (cmd 0x311 0 8 3 0)) qpOn) (admits_disp ?_)).1 ?_
  have := (h.2.1 (opCmd 0x313 0 64 0) (disp (opCmd 0x313 0 64 0) qpOn) 3 (admits_disp ?_) ?_ ?_).1 ?_
  have := (h.2.1 (opCmd 0x313 0 65 0) (disp (opCmd 0x313 0 65 0) qpOn) 3 (admits_disp ?_) ?_ ?_).2 .bounds ?_
  have := (h.2.2 (cmd 0x320 0 7 3 0) (disp (cmd 0x320 0 7 3 0) (withQp (qpv .active 2 0))) 3 (admits_disp ?_)).1 ?_
  have := ((h.2.2 (cmd 0x320 0 0 3 0) (disp (cmd 0x320 0 0 3 0) (withQp (qpv .active 2 0))) 3 (admits_disp ?_)).2 ?_ ?_ ?_).1 ?_
  have := ((h.2.2 (cmd 0x320 0 0 3 0) (disp (cmd 0x320 0 0 3 0) qpOn) 3 (admits_disp ?_)).2 ?_ ?_ ?_).2 .opcode ?_
  all_goals trivial

/-- The hypotheses of `PacketsOfAMessageAreBuilt` can be met: each line applies a clause to operands that meet them. -/
theorem witness_PacketsOfAMessageAreBuilt (h : Obligations.PacketsOfAMessageAreBuilt) : True := by
  have := ((h.1 3 [] false (withTx 32 qpOn) ?_ ?_ ?_ ?_ ?_).1 ?_ ?_).1 ?_
  have := (((h.1 3 [] false (withQp { qpv .active 0 0 with queue := [.again 0], sent := [sent1] }) ?_ ?_ ?_ ?_ ?_).1 ?_ ?_).2 ?_).1 (.again 0) ?_
  have := ((((h.1 3 [] false (opQp { op1 with code := 0x311, data := none }) ?_ ?_ ?_ ?_ ?_).1 ?_ ?_).2 ?_).2 ?_ _ rfl ?_ (.inr ?_)).1 ?_
  have := ((((h.1 3 [] false (ordQp (qpv .active 0 0)) ?_ ?_ ?_ ?_ ?_).1 ?_ ?_).2 ?_).2 ?_ _ rfl ?_ (.inr ?_)).2.1 ?_ ?_ _ _ rfl
  have := ((((h.1 3 [] false (opQp { op1 with code := 0x314, len := 8, data := some (leBytes 8 5) }) ?_ ?_ ?_ ?_ ?_).1 ?_ ?_).2 ?_).2 ?_ _ rfl ?_ (.inr ?_)).2.2.1 ?_ ?_ _ rfl ?_
  have := ((((h.1 3 [] false (opQp { op1 with code := 0x317 }) ?_ ?_ ?_ ?_ ?_).1 ?_ ?_).2 ?_).2 ?_ _ rfl ?_ (.inl ?_)).2.2.2.1 ?_ ?_ _ _ rfl
  have := ((((h.1 3 [] false (ordQp (qpv .active 0 0)) ?_ ?_ ?_ ?_ ?_).1 ?_ ?_).2 ?_).2 ?_ _ rfl ?_ (.inr ?_)).2.2.2.2 ⟨settled_of _ rfl, ?_⟩ ?_ ?_ _ rfl ?_
  have := ((h.1 3 [] false (withQp { qpv .active 1 0 with queue := [.again 0], sent := [sent1] }) ?_ ?_ ?_ ?_ ?_).2 ?_ ?_).1 0 ?_
  have := ((h.1 3 [] false (ordQp (qpv .active 1 0)) ?_ ?_ ?_ ?_ ?_).2 ?_ ?_).2 ?_
  have := h.2.1 3 (withQp { qpv .active 0 0 with aside := true }) ?_ ?_
  have := h.2.2 3 qpOn ⟨settled_of _ rfl, ?_⟩ (.inl ?_)
  all_goals trivial

/-- The hypotheses of `ReceivedPacketsAreChecked` can be met: each line applies a clause to operands that meet them. -/
theorem witness_ReceivedPacketsAreChecked (h : Obligations.ReceivedPacketsAreChecked) : True := by
  have := (h _ (mem_at 0 rfl) 0 badFrame [] qpOn (pktOf badFrame)).1 ?_
  have := ((h _ (mem_at 0 rfl) 0 (shtFrame 2 1) [] qpOn (pktOf (shtFrame 2 1))).2 ?_).1 ?_
  have := ((h _ (mem_at 0 rfl) 0 (farFrame 1) [] qpOn (pktOf (farFrame 1))).2 ?_).2.1 ?_ ?_ ?_
  have := ((((h _ (mem_at 0 rfl) 0 (shtFrame 1 1) [] qpOn (pktOf (shtFrame 1 1))).2 ?_).2.2 ?_ ?_ ?_ ?_).1 ?_).1 [5, 6] ?_ ?_ ?_
  have := ((((h _ (mem_at 2 rfl) 0 (shtFrame 1 3) [] qpOn (pktOf (shtFrame 1 3))).2 ?_).2.2 ?_ ?_ ?_ ?_).1 ?_).1 [5, 6] ?_ ?_ ?_
  have := ((((h _ (mem_at 3 rfl) 0 (shtFrame 1 4) [] qpOn (pktOf (shtFrame 1 4))).2 ?_).2.2 ?_ ?_ ?_ ?_).1 ?_).1 [5, 6] ?_ ?_ ?_
  have := ((((h _ (mem_at 7 rfl) 0 (shtFrame 1 8) [] qpOn (pktOf (shtFrame 1 8))).2 ?_).2.2 ?_ ?_ ?_ ?_).1 ?_).1 [5, 6] ?_ ?_ ?_
  have := ((((h _ (mem_at 10 rfl) 0 (shtFrame 1 9) [] (withQp (qpv .active 0 16)) (pktOf (shtFrame 1 9))).2 ?_).2.2 ?_ ?_ ?_ ?_).1 ?_).1 [5, 6] ?_ ?_ ?_
  have := ((((h _ (mem_at 1 rfl) 0 (wireOf 2 []) [] qpOn (pktOf (wireOf 2 []))).2 ?_).2.2 ?_ ?_ ?_ ?_).1 ?_).1 _ ?_ ?_ rfl
  have := ((((h _ (mem_at 4 rfl) 0 (wireOf 5 (leBytes 8 7)) [] qpOn (pktOf (wireOf 5 (leBytes 8 7)))).2 ?_).2.2 ?_ ?_ ?_ ?_).1 ?_).1 _ ?_ ?_ rfl
  have := ((((h _ (mem_at 5 rfl) 0 (wireOf 6 (leBytes 16 7)) [] qpOn (pktOf (wireOf 6 (leBytes 16 7)))).2 ?_).2.2 ?_ ?_ ?_ ?_).1 ?_).1 _ ?_ ?_ rfl
  have := ((((h _ (mem_at 6 rfl) 0 (wireOf 7 (leBytes 8 7)) [] qpOn (pktOf (wireOf 7 (leBytes 8 7)))).2 ?_).2.2 ?_ ?_ ?_ ?_).1 ?_).1 _ ?_ ?_ rfl
  have := ((((h _ (mem_at 8 rfl) 0 (wireOf 8 []) [] qpOn (pktOf (wireOf 8 []))).2 ?_).2.2 ?_ ?_ ?_ ?_).1 ?_).1 _ ?_ ?_ rfl
  have := ((((h _ (mem_at 9 rfl) 0 (wireOf 0x88 []) [] qpOn (pktOf (wireOf 0x88 []))).2 ?_).2.2 ?_ ?_ ?_ ?_).1 ?_).1 _ ?_ ?_ rfl
  have := ((((h _ (mem_at 11 rfl) 0 (wireOf 0x10 (leBytes 32 0)) [] qpOn (pktOf (wireOf 0x10 (leBytes 32 0)))).2 ?_).2.2 ?_ ?_ ?_ ?_).1 ?_).1 _ ?_ ?_ rfl
  have := ((((h _ (mem_at 12 rfl) 0 (wireOf 0x11 []) [] qpOn (pktOf (wireOf 0x11 []))).2 ?_).2.2 ?_ ?_ ?_ ?_).1 ?_).1 _ ?_ ?_ rfl
  have := ((((h _ (mem_at 13 rfl) 0 (wireOf 0x41 []) [] qpOn (pktOf (wireOf 0x41 []))).2 ?_).2.2 ?_ ?_ ?_ ?_).1 ?_).1 _ ?_ ?_ rfl
  have := ((((h _ (mem_at 0 rfl) 0 (shtFrame 1 1) [] (withQp (qpv .active 0 16)) (pktOf (shtFrame 1 1))).2 ?_).2.2 ?_ ?_ ?_ ?_).1 ?_).2.1 (.inl ?_)
  have := ((((h _ (mem_at 0 rfl) 0 (shtFrame 1 1) [] (withQp (qpv .active 0 128)) (pktOf (shtFrame 1 1))).2 ?_).2.2 ?_ ?_ ?_ ?_).1 ?_).2.2 ?_ ?_ ?_
  have := ((((h _ (mem_at 11 rfl) 0 (wireOf 0x10 (leBytes 32 0)) [] (away (qpv .active 0 0)) (pktOf (wireOf 0x10 (leBytes 32 0)))).2 ?_).2.2 ?_ ?_ ?_ ?_).2 ?_).1 (.inl ?_)
  have := ((((h _ (mem_at 0 rfl) 0 (shtFrame 1 1) [] (away (qpv .active 0 0)) (pktOf (shtFrame 1 1))).2 ?_).2.2 ?_ ?_ ?_ ?_).2 ?_).2 ?_ ?_
  all_goals trivial

/-- The hypotheses of `DuplicatesAreNotExecutedAgain` can be met: each line applies a clause to operands that meet them. -/
theorem witness_DuplicatesAreNotExecutedAgain (h : Obligations.DuplicatesAreNotExecutedAgain) : True := by
  have := (h 3 { noPkt with h := { hdr1 1 1 3 with psn := 0xFFFFFFFF } } qpOn (fun _ _ s => s) (.inl ?_) ?_).2.2.2.2.2.2.2 ?_ ?_
  have := (h 3 { noPkt with h := hdr1 1 5 3 } (withQp { qpv .active 0 0 with rxMap := 1, atoms := [(0, some ⟨0, 8⟩)] }) (fun _ _ s => s) (.inr ?_) ?_).2.2.2.2.2.1 ⟨0, 8⟩ (.inl ?_) ?_ ?_ ?_
  have := (h 3 { noPkt with h := hdr1 1 5 3 } (withQp { qpv .active 0 0 with rxMap := 1 }) (fun _ _ s => s) (.inr ?_) ?_).2.2.2.2.2.2.1 (.inl ?_) ?_ (fun _ e => nomatch e)
  all_goals trivial

/-- The hypotheses of `ShuttleHeaderRoundTrip` can be met: each line applies a clause to operands that meet them. -/
theorem witness_ShuttleHeaderRoundTrip (h : Obligations.ShuttleHeaderRoundTrip) : True := by
  have := h.1 { version := 15, opc := 255, flags := 65535, dest := 2 ^ 24 - 1, psn := 5, msgId := 65535, offset := 2 ^ 48 - 1, aux := 65535, len := 2 ^ 14 - 1, key := 2 ^ 32 - 1, aux2 := 2 ^ 32 - 1 } ?_ ?_ ?_ ?_ ?_ ?_ ?_ ?_ ?_ ?_ ?_
  have := h.2 { opc := 1, flags := 0, dest := 2 ^ 32 - 1, psn := 0 } 3 ?_ ?_
  all_goals trivial

/-- The hypotheses of `PathsAreChosenByWeight` can be met: each line applies a clause to operands that meet them. -/
theorem witness_PathsAreChosenByWeight (h : Obligations.PathsAreChosenByWeight) : True := by
  have := h.2.1 {} [3, 4] 31 ?_
  have := h.2.2.2.1 65535 ?_
  have := h.2.2.2.2.1 up { beta := [(3, 16)] } 3 ?_
  have := h.2.2.2.2.2.1 up { beta := [(3, 191)] } 3 ?_
  have := h.2.2.2.2.2.2 { entropy := [(15, 63)] } 15 ?_ ?_
  all_goals trivial

def lateQp (v : Qp) : State := { withQp v with time := { (withQp v).time with count := [(3, 2 ^ 40)] } }
def opn (f : Bool) : RxOpen := { psns := [4], flag := f, ack := false, key := 0, msgId := 0, send := false, write := none, ext := [] }
def base4 : Qp := { qpv .active 0 0 with rqBase := 4 }
def cref (n : Nat) : CmdRef := { skein := .ord 5, part := 0, sqHead := 1, tag := n, opcode := 0x320, silent := false }

def nvme1 : NvmeCmd := { cid := 0, cmd := cref 1, sent := 0 }
def deviceGot : State := { up with spl := { up.spl with
  gotCopy := (List.range 16).map fun n => (n, [(0, BitVec.ofNat 16 (mkGot 0 gotDevice false))]) } }
def fetchState (q : Nat) : State :=
  { away (qpv .active 0 0) with
    sht := { (away (qpv .active 0 0)).sht with fetching := [q] }
    spl := deviceGot.spl }

def roceQp : State := withQp (qpv .active 1 0)
def cnpData : List Byte := bthBytes 0x81 0 0 3 false 0
def cnpFrame : List Byte := roceFrame roceQp 3 48 cnpData (List.replicate 16 0)
def badCnp : List Byte := qpFrame roceQp 3 0xC000 4791 2 (cnpData ++ List.replicate 20 0)
def rocePkt (f : List Byte) : RocePkt := ((readRoce f []).map (·.1)).getD ⟨0, 0, 0, false, 0, [], [], false, []⟩

def flagOpn : RxOpen := { opn true with write := some (1, 64, [7]) }
def wayOf3 : State := { away (qpv .active 0 0) with sht := { (away (qpv .active 0 0)).sht with wayWait := [3] } }
def roceOp (o : Nat) (b : List Byte) : List Byte := roceFrame roceQp 3 48 (bthBytes o 0 0 3 false 0) b


/-- The hypotheses of `CommitsAndTimersOfQueuePairs` can be met: each line applies a clause to operands that meet them. -/
theorem witness_CommitsAndTimersOfQueuePairs (h : Obligations.CommitsAndTimersOfQueuePairs) : True := by
  have := (h.1 3 4 [] (withQp { base4 with opened := [opn false] }) (opn false) ?_ ?_ ?_ ?_).1 ?_ ?_
  have := (h.1 3 4 [] (withQp { base4 with opened := [opn true] }) (opn true) ?_ ?_ ?_ ?_).1 ?_ ?_
  have := (h.1 3 4 [] (withQp { base4 with opened := [flagOpn] }) flagOpn ?_ ?_ ?_ ?_).2.1 (1, 64, [7]) _ ?_ ?_ (pair_of (by decide +kernel)) ?_
  have := (h.1 3 4 [] (withQp { base4 with opened := [{ opn false with fault := some .bounds }] }) { opn false with fault := some .bounds } ?_ ?_ ?_ ?_).2.2.1 .bounds ?_
  have := (h.1 3 4 [] (withQp { base4 with opened := [opn false] }) (opn false) ?_ ?_ ?_ ?_).2.2.2 ⟨settled_of _ rfl, ?_⟩ ?_ ?_ ?_ ?_
  have := h.2.1 3 4 [] (withQp { base4 with rqBase := 3, opened := [opn true, { opn false with psns := [3] }] }) (opn true) ⟨settled_of _ rfl, ?_⟩ ?_ ?_ (.inr ?_)
  have := h.2.2.1 3 4 [] (withQp (qpv .active 1 0)) ?_
  have := (h.2.2.2.1 3 (lateQp { qpv .active 1 0 with tAck := some (2 ^ 40) }) _ rfl ?_).1 ?_
  have := (h.2.2.2.1 3 (lateQp { base4 with tAck := some (2 ^ 40) }) _ rfl ?_).2.1 ?_
  have := (h.2.2.2.1 3 (lateQp { base4 with tAck := some (2 ^ 40) }) _ rfl ?_).2.2 ⟨settled_of _ rfl, ?_⟩ ?_ ?_
  have := (h.2.2.2.2.1 3 (lateQp { base4 with tRto := some 5, sent := [sent1] }) _ rfl ?_ ?_ ?_ ?_).1 ⟨settled_of _ rfl, ?_⟩ ?_
  have := (h.2.2.2.2.1 3 (lateQp { qpv .active 1 0 with arch := BitVec.ofNat 640 (archN 1 (2 ^ 24)), tRto := some 5, sent := [sent1] }) _ rfl ?_ ?_ ?_ ?_).1 ⟨settled_of _ rfl, ?_⟩ ?_
  have := (h.2.2.2.2.1 3 (lateQp { base4 with tRto := some 5, sent := [sent1], retries := 1 }) _ rfl ?_ ?_ ?_ ?_).2.1 ?_
  have := (h.2.2.2.2.1 3 (lateQp { base4 with tRto := some 5, sent := [sent1], retries := 1 }) _ rfl ?_ ?_ ?_ ?_).2.2 ⟨settled_of _ rfl, ?_⟩ ?_ ?_ ?_
  have := (h.2.2.2.2.2.1 3 (lateQp { qpv .active 1 0 with deferred := true, sent := [sent1] }) ?_ ?_).1 ?_
  have := (h.2.2.2.2.2.1 3 (lateQp { base4 with deferred := true, sent := [sent1] }) ?_ ?_).2.1 ?_
  have := (h.2.2.2.2.2.1 3 (lateQp { base4 with deferred := true, sent := [sent1] }) ?_ ?_).2.2 ⟨settled_of _ rfl, ?_⟩ ?_
  have := (h.2.2.2.2.2.2.1 3 (lateQp { base4 with tInc := some 5, stage := 4 }) _ rfl ?_ ?_ ?_).2 ⟨settled_of _ rfl, ?_⟩ ?_
  have := (h.2.2.2.2.2.2.2.1 3 (lateQp { base4 with nvme := [nvme1] }) nvme1 (by decide +kernel)).1
  have := (h.2.2.2.2.2.2.2.1 3 (lateQp { base4 with nvme := [nvme1] }) nvme1 (by decide +kernel)).2 ⟨settled_of _ rfl, ?_⟩ ?_ ?_
  have := h.2.2.2.2.2.2.2.2 3 qpOn ⟨settled_of _ rfl, ?_⟩ ?_ ?_ ?_ ?_ ?_
  all_goals trivial

/-- The hypotheses of `ContextFetchesAndRoce` can be met: each line applies a clause to operands that meet them. -/
theorem witness_ContextFetchesAndRoce (h : Obligations.ContextFetchesAndRoce) : True := by
  have := (h.1 3 (fetchState 3) ?_).1 false
  have := ((h.1 3 (fetchState 3) ?_).2 ⟨settled_of _ rfl, ?_⟩ ?_ ?_ ?_).1 _ _ (triple_of (by decide +kernel))
  have := ((h.1 3 (fetchState 3) ?_).2 ⟨settled_of _ rfl, ?_⟩ ?_ ?_ ?_).2
  have := h.2.1 qpOn 3
  have := (h.2.2.1 3 wayOf3 ?_).1
  have := (h.2.2.1 3 wayOf3 ?_).2 ⟨settled_of _ rfl, ?_⟩ ?_ ?_
  have := h.2.2.2.1 3 qpOn ⟨settled_of _ rfl, ?_⟩ ?_
  have := (h.2.2.2.2 0 badCnp [] roceQp (rocePkt badCnp)).1 ?_
  have := (((h.2.2.2.2 0 cnpFrame [] qpOn (rocePkt cnpFrame)).2 ?_ ?_ ?_ ?_).1 ?_).1 ?_
  have := ((((h.2.2.2.2 0 cnpFrame [] roceQp (rocePkt cnpFrame)).2 ?_ ?_ ?_ ?_).1 ?_).2 ?_ ?_).1 ?_
  have := ((((h.2.2.2.2 0 (roceOp 0x11 (leBytes 4 0)) [] roceQp (rocePkt (roceOp 0x11 (leBytes 4 0)))).2 ?_ ?_ ?_ ?_).1 ?_).2 ?_ ?_).2.1 ?_
  have := ((((h.2.2.2.2 0 (roceOp 0x12 (leBytes 12 0)) [] roceQp (rocePkt (roceOp 0x12 (leBytes 12 0)))).2 ?_ ?_ ?_ ?_).1 ?_).2 ?_ ?_).2.2.1 ?_
  have := ((((h.2.2.2.2 0 (roceOp 4 [1, 2, 3, 4]) [] roceQp (rocePkt (roceOp 4 [1, 2, 3, 4]))).2 ?_ ?_ ?_ ?_).1 ?_).2 ?_ ?_).2.2.2 ?_
  have := ((h.2.2.2.2 0 cnpFrame [] (away (qpv .active 1 0)) (rocePkt cnpFrame)).2 ?_ ?_ ?_ ?_).2 ?_ ?_
  all_goals trivial

theorem ok_of {α β : Type} {r : Except α β} {p : β} (h : r.toOption = some p) : r = .ok p := by
  cases r with
  | error _ => cases h
  | ok _ => cases h; rfl

/-- Communicator 2 of two members, on engine 0, with accelerator 0. -/
def comm2 : Comm :=
  { state := .active, epoch := 5, membersM1 := 1, accel := 1, pickLog2 := 20, contributors := 1, ctx := 1, peersVa := 0x10000,
    engines := [0], reserved := [0] }
def withComm (c : Comm) : State :=
  { qpOn with
    red := { qpOn.red with
             comm := [(2, c)]
             view := [(64, { state := .active, epoch := 5 })]
             slots := [{ comm := 2, opseq := 0, pick := 0, stage := 0, seg := 0, engine := 0, kind := .reserved },
                       { comm := 2, opseq := 0, pick := 0, stage := 0, seg := 1, engine := 0, kind := .reserved }]
             arrived := [{ comm := 2, opseq := 0, pick := 0, stage := 0, src := .acc 0, off := 0, bytes := leBytes 8 0,
                           crc := crc32c (leBytes 8 0), again := false }] } }

/-- An ALL_REDUCE of FP32 by the star alone, with what has come from accelerator 0. -/
def redOp (len : Nat) (added : Tab Bool) : RedOp :=
  { opseq := 0, cmd := cref 2, code := 0x410, oper := 0, exact := false, inFmt := 1, wire := 0, algo := 1, root := 0, len := len,
    inVa := 0, outVa := 0, workVa := 0, mapVa := 0, accOut := [], ext := [], engines := [0]
    runs := [{ pick := 0, stage := 0, ins := [{ src := .acc 0, added := added }] }] }
def oneComm (o : RedOp) : State := withComm { comm2 with membersM1 := 0, ops := [o], next := 1 }

def createCmd : Cmd := cmd 0x401 1 0 2
  (at_ 24 0 5 + at_ 28 0 1 + at_ 30 0 1 + at_ 32 0 1 + at_ 37 0 22 + at_ 38 0 384 + at_ 40 0 1 + at_ 44 0 1 + at_ 72 0 18 + at_ 76 0 0x700)

def redCmd (code fmt more : Nat) : Cmd := cmd code 1 128 2
  (at_ 16 0 5 + at_ 21 0 fmt + at_ 24 0 64 + at_ 40 0 64 + at_ 64 0 4096 + more)

def peerState : State :=
  { withComm comm2 with
    spl := { qpOn.spl with mem := [(0x10042, 1), (0x10048, 3)] } }

def heldComm : State := { withComm comm2 with jcq := { (withComm comm2).jcq with waiting := [{ cmd 0x405 0 0 2 0 with id := 5 }] } }
def workOp (s : RedSrc) : RedOp := { redOp 8 [] with accOut := [], inVa := 64, runs := [{ pick := 0, stage := 0, ins := [{ src := s }] }] }
def workComm : State := withComm { comm2 with membersM1 := 0, accel := 0, ops := [workOp .inVa], next := 1 }
def readyOp : RedOp := redOp 8 [(0, true), (1, true)]
def rightRun : RedRun := runOf { comm2 with membersM1 := 0, ops := [readyOp], next := 1 } readyOp 0 0


/-- The hypotheses of `CommunicatorCommandsTakeEffect` can be met: each line applies a clause to operands that meet them. -/
theorem witness_CommunicatorCommandsTakeEffect (h : Obligations.CommunicatorCommandsTakeEffect) : True := by
  have := (h.1 _ _ 2 (on_disp createCmd qpOn ?_) (admits_disp ?_) ?_ ?_).1 ?_ ?_ ?_ ?_ (.inr ?_) ?_ ?_ ?_ ?_ ?_ ?_ ?_ ?_
  have := (h.1 _ _ 2 (on_disp createCmd (withComm comm2) ?_) (admits_disp ?_) ?_ ?_).2 ?_
  have := h.2.1 _ _ 2 (on_disp (cmd 0x402 0 0 2 (at_ 16 0 6 + at_ 20 0 1 + at_ 26 0 1)) (withComm { comm2 with state := .lost }) ?_) (admits_disp ?_) ?_ ?_ ?_ ?_ ?_ ?_
  have := h.2.2.1 _ _ 2 (on_disp (cmd 0x404 0 0 2 0) (withComm comm2) ?_) (admits_disp ?_) ?_ ?_ ?_
  have := (h.2.2.2.1 (cmd 0x405 0 0 2 (1 + at_ 19 0 1)) (disp (cmd 0x405 0 0 2 (1 + at_ 19 0 1)) (withComm comm2)) 2 (admits_disp ?_) ?_ ?_).1 ?_
  have := (h.2.2.2.1 (cmd 0x405 0 0 2 (1 + at_ 19 0 1)) (disp (cmd 0x405 0 0 2 (1 + at_ 19 0 1)) (withComm { comm2 with state := .lost })) 2 (admits_disp ?_) ?_ ?_).2.1 ?_
  have := (h.2.2.2.1 (cmd 0x405 0 0 2 (1 + at_ 19 0 1)) (disp (cmd 0x405 0 0 2 (1 + at_ 19 0 1)) (withComm comm2)) 2 (admits_disp ?_) ?_ ?_).2.2 (settled_of _ rfl) ?_ ?_ ?_
  have := (h.2.2.2.2.1 _ _ 2 (on_disp (cmd 0x403 0 0 2 0) (withComm comm2) ?_) (admits_disp ?_) ?_ ?_).1 ?_ ?_
  have := (h.2.2.2.2.1 _ _ 2 (on_disp (cmd 0x403 0 0 2 0) (withComm { comm2 with ops := [redOp 8 []] }) ?_) (admits_disp ?_) ?_ ?_).2 ?_ ?_
  have := (h.2.2.2.2.2 createCmd (disp createCmd heldComm) (settled_of _ rfl) _ (mem_at 0 rfl) (admits_disp ?_)).1 ?_
  have := (h.2.2.2.2.2 (cmdOf 1 createCmd) (disp (cmdOf 1 createCmd) qpOn) (settled_of _ rfl) _ (mem_at 0 rfl) (admits_disp ?_)).2 ?_
  have := (h.2.2.2.2.2 (cmd 0x402 0 0 2 0) (disp (cmd 0x402 0 0 2 0) heldComm) (settled_of _ rfl) _ (mem_at 1 rfl) (admits_disp ?_)).1 ?_
  have := (h.2.2.2.2.2 (cmdOf 1 (cmd 0x402 0 0 2 0)) (disp (cmdOf 1 (cmd 0x402 0 0 2 0)) qpOn) (settled_of _ rfl) _ (mem_at 1 rfl) (admits_disp ?_)).2 ?_
  have := (h.2.2.2.2.2 (cmd 0x403 0 0 2 0) (disp (cmd 0x403 0 0 2 0) heldComm) (settled_of _ rfl) _ (mem_at 2 rfl) (admits_disp ?_)).1 ?_
  have := (h.2.2.2.2.2 (cmdOf 1 (cmd 0x403 0 0 2 0)) (disp (cmdOf 1 (cmd 0x403 0 0 2 0)) qpOn) (settled_of _ rfl) _ (mem_at 2 rfl) (admits_disp ?_)).2 ?_
  have := (h.2.2.2.2.2 (cmd 0x404 0 0 2 0) (disp (cmd 0x404 0 0 2 0) heldComm) (settled_of _ rfl) _ (mem_at 3 rfl) (admits_disp ?_)).1 ?_
  have := (h.2.2.2.2.2 (cmdOf 1 (cmd 0x404 0 0 2 0)) (disp (cmdOf 1 (cmd 0x404 0 0 2 0)) qpOn) (settled_of _ rfl) _ (mem_at 3 rfl) (admits_disp ?_)).2 ?_
  have := (h.2.2.2.2.2 (cmd 0x405 0 0 2 0) (disp (cmd 0x405 0 0 2 0) heldComm) (settled_of _ rfl) _ (mem_at 4 rfl) (admits_disp ?_)).1 ?_
  have := (h.2.2.2.2.2 (cmdOf 1 (cmd 0x405 0 0 2 0)) (disp (cmdOf 1 (cmd 0x405 0 0 2 0)) qpOn) (settled_of _ rfl) _ (mem_at 4 rfl) (admits_disp ?_)).2 ?_
  all_goals trivial

/-- The hypotheses of `ReedOperationsAreAdmitted` can be met: each line applies a clause to operands that meet them. -/
theorem witness_ReedOperationsAreAdmitted (h : Obligations.ReedOperationsAreAdmitted) : True := by
  have := ((h _ (mem_at 0 rfl) (redCmd 0x410 1 0) (disp (redCmd 0x410 1 0) (withComm comm2)) 2 (admits_disp ?_) ?_).1 ?_ ?_).1 ?_
  have := (((h _ (mem_at 0 rfl) (redCmd 0x410 1 0) (disp (redCmd 0x410 1 0) (withComm comm2)) 2 (admits_disp ?_) ?_).1 ?_ ?_).1 ?_).2 (settled_of _ rfl) ⟨0, ?_⟩ (fun _ e => nomatch e)
  have := ((h _ (mem_at 1 rfl) (redCmd 0x411 1 0) (disp (redCmd 0x411 1 0) (withComm comm2)) 2 (admits_disp ?_) ?_).1 ?_ ?_).1 ?_
  have := (((h _ (mem_at 1 rfl) (redCmd 0x411 1 0) (disp (redCmd 0x411 1 0) (withComm comm2)) 2 (admits_disp ?_) ?_).1 ?_ ?_).1 ?_).2 (settled_of _ rfl) ⟨0, ?_⟩ (fun _ e => nomatch e)
  have := ((h _ (mem_at 2 rfl) (redCmd 0x412 0 0) (disp (redCmd 0x412 0 0) (withComm comm2)) 2 (admits_disp ?_) ?_).1 ?_ ?_).1 ?_
  have := (((h _ (mem_at 2 rfl) (redCmd 0x412 0 0) (disp (redCmd 0x412 0 0) (withComm comm2)) 2 (admits_disp ?_) ?_).1 ?_ ?_).1 ?_).2 (settled_of _ rfl) ⟨0, ?_⟩ (fun _ e => nomatch e)
  have := ((h _ (mem_at 3 rfl) (redCmd 0x413 1 0) (disp (redCmd 0x413 1 0) (withComm comm2)) 2 (admits_disp ?_) ?_).1 ?_ ?_).1 ?_
  have := (((h _ (mem_at 3 rfl) (redCmd 0x413 1 0) (disp (redCmd 0x413 1 0) (withComm comm2)) 2 (admits_disp ?_) ?_).1 ?_ ?_).1 ?_).2 (settled_of _ rfl) ⟨0, ?_⟩ (fun _ e => nomatch e)
  have := ((h _ (mem_at 4 rfl) (redCmd 0x414 0 0) (disp (redCmd 0x414 0 0) (withComm comm2)) 2 (admits_disp ?_) ?_).1 ?_ ?_).1 ?_
  have := (((h _ (mem_at 4 rfl) (redCmd 0x414 0 0) (disp (redCmd 0x414 0 0) (withComm comm2)) 2 (admits_disp ?_) ?_).1 ?_ ?_).1 ?_).2 (settled_of _ rfl) ⟨0, ?_⟩ (fun _ e => nomatch e)
  have := ((h _ (mem_at 5 rfl) (redCmd 0x415 0 0) (disp (redCmd 0x415 0 0) (withComm comm2)) 2 (admits_disp ?_) ?_).1 ?_ ?_).1 ?_
  have := (((h _ (mem_at 5 rfl) (redCmd 0x415 0 0) (disp (redCmd 0x415 0 0) (withComm comm2)) 2 (admits_disp ?_) ?_).1 ?_ ?_).1 ?_).2 (settled_of _ rfl) ⟨0, ?_⟩ (fun _ e => nomatch e)
  have := ((h _ (mem_at 0 rfl) (redCmd 0x410 1 (at_ 16 0 1)) (disp (redCmd 0x410 1 (at_ 16 0 1)) (withComm comm2)) 2 (admits_disp ?_) ?_).1 ?_ ?_).2 .bounds ?_
  have := (h _ (mem_at 0 rfl) (redCmd 0x410 1 0) (disp (redCmd 0x410 1 0) (withComm { comm2 with ops := List.replicate 8 (redOp 8 []) })) 2 (admits_disp ?_) ?_).2 (settled_of _ rfl) (.inr ?_)
  have := (h _ (mem_at 0 rfl) (redCmd 0x410 1 0) (disp (redCmd 0x410 1 0) heldComm) 2 (admits_disp ?_) ?_).2 (settled_of _ rfl) (.inl ?_)
  all_goals trivial

/-- The hypotheses of `ReedEnginesStep` can be met: each line applies a clause to operands that meet them. -/
theorem witness_ReedEnginesStep (h : Obligations.ReedEnginesStep) : True := by
  have := h.1 2 31 (withComm comm2) ⟨settled_of _ rfl, ?_⟩ ?_ ?_
  have := h.2.1 2 1 [] peerState _ 0 _ { rank := 1, comm := 0, key := 0, qps := [3] } ?_ ?_ ?_ ?_ ?_ (triple_of (by decide +kernel)) (ok_of (by decide +kernel))
  have := ((h.2.2.1 2 0 0 0 (.acc 0) 0 false [] (oneComm (redOp 8 [])) (redOp 8 []) 0 _ 8 _ ?_ ?_ ?_ ?_ ?_ ?_ ?_ (fun e => by cases e) rfl rfl ?_).1 _ ?_ ?_ rfl ?_).1 ?_
  have := ((h.2.2.1 2 0 0 0 (.acc 0) 0 true [] (oneComm (redOp 8 [])) (redOp 8 []) 0 _ 8 _ ?_ ?_ ?_ ?_ ?_ ?_ ?_ (fun e => by cases e) rfl rfl ?_).1 _ ?_ ?_ rfl ?_).2 ?_
  have := ((h.2.2.1 2 0 0 0 .inVa 0 false [] workComm (workOp .inVa) 0 _ 8 _ ?_ ?_ ?_ ?_ ?_ ?_ ?_ (fun e => by cases e) rfl rfl ?_).2.1 _ _ (.inr rfl) ?_ (triple_of (by decide +kernel))).1 ?_
  have := ((h.2.2.1 2 0 0 0 .inVa 0 true [] workComm (workOp .inVa) 0 _ 8 _ ?_ ?_ ?_ ?_ ?_ ?_ ?_ (fun e => by cases e) rfl rfl ?_).2.1 _ _ (.inr rfl) ?_ (triple_of (by decide +kernel))).2 ?_ ?_
  have := (h.2.2.1 2 0 0 0 (.acc 0) 0 false [] (oneComm (redOp 8 [])) (redOp 8 []) 0 _ 8 _ ?_ ?_ ?_ ?_ ?_ ?_ ?_ (fun e => by cases e) rfl rfl ?_).2.2 (.dualRail 1) ?_
  have := (h.2.2.2.1 2 0 0 0 0 0 [] (oneComm readyOp) _ readyOp 0 _ _ ?_ ?_ ?_ ?_ ?_ ?_ ?_ ?_ ?_ ?_ (triple_of (by decide +kernel)) rfl).1
  have := (h.2.2.2.1 2 0 0 0 0 0 [] (oneComm readyOp) _ readyOp 0 _ _ ?_ ?_ ?_ ?_ ?_ ?_ ?_ ?_ ?_ ?_ (triple_of (by decide +kernel)) rfl).2 (.shadow 0) ?_
  have := (h.2.2.2.2.1 2 0 (redOp 262148 []) rightRun 0 0 [] (oneComm (redOp 262148 []))).1 ?_
  have := (h.2.2.2.2.1 2 0 readyOp rightRun 0 0 [] (oneComm readyOp)).2 _ _ _ ?_ ?_ (triple_of (by decide +kernel)) (pair_of (by decide +kernel))
  have := (h.2.2.2.2.2.1 2 0 readyOp 0 0 0 (.shadow 5) up).2.2 5 rfl
  have := h.2.2.2.2.2.2.1 31 0 qpOn (settled_of _ rfl) ?_ ?_ ?_
  have := (h.2.2.2.2.2.2.2 31 { qpOn with red := { qpOn.red with steps := [(31, 4096)] } } (settled_of _ rfl) ?_ ?_ ?_).1 ?_
  have := (h.2.2.2.2.2.2.2 31 qpOn (settled_of _ rfl) ?_ ?_ ?_).2 ?_
  all_goals trivial

theorem quad_of {α β γ δ : Type} {p : α × β × γ × δ} {b : β} {d : δ} (h : (p.2.1, p.2.2.2) = (b, d)) : p = (p.1, b, p.2.2.1, d) := by
  cases h
  rfl

def launch1 : Launch :=
  { id := 1, part := 0, launchId := 3, image := 0, mask := 1, per := 2, ctx := 1, limitMs := 5, wins := [⟨0, 1, true, true⟩], seed := 0,
    args := [], cmd := cref 3, packet := [], state := .running, members := [0, 1] }

/-- Bobbin 0 is about to issue an instruction, Bobbin 1 waits at the gang's barrier. -/
def bobAt (op rest : Nat) (b : Bobbin) : State :=
  { owned with
    bob := { owned.bob with
             launch := [launch1]
             bobbin := [(0, { b with state := .running, launch := some 1, code := leBytes 4 (op * 2 ^ 26 + rest) ++ leBytes 4 0 }),
                        (1, { state := .running, launch := some 1, code := leBytes 8 0, wait := some (.barrier true) })] } }

def strm (w : Bool) : Stream := { id := 4, tag := 2, write := w, np := false, log2 := 0, units := [{ a := 64, sa := 128 }] }
def sc2 (v : Nat) : Bobbin := { s := [(3, BitVec.ofNat 64 v)] }


/-- The hypotheses of `FormatsHoldTheirValues` can be met: each line applies a clause to operands that meet them. -/
theorem witness_FormatsHoldTheirValues (h : Obligations.FormatsHoldTheirValues) : True := by
  have := (h.1 bf16 (by simp) 0x7F80 ?_ (.inr ?_)).2 (2 ^ 32 - 1) ?_
  have := (h.1 e4m3 (by simp) 0xFE ?_ (.inl ?_)).2 0 ?_
  have := h.2 1 2 0 0 ?_
  all_goals trivial

/-- The hypotheses of `ExactSumsDoNotDependOnOrder` can be met: each line applies a clause to operands that meet them. -/
theorem witness_ExactSumsDoNotDependOnOrder (h : Obligations.ExactSumsDoNotDependOnOrder) : True := by
  have := h.2.2.2.2.1 [.int 1, .int 2] [.int 2, .int 1] (.swap _ _ _)
  have := h.2.2.2.2.2 (0x7F7FFFFF) ?_ ?_
  all_goals trivial

/-- The hypotheses of `BobbinRegisterInstructions` can be met: each line applies a clause to operands that meet them. -/
theorem witness_BobbinRegisterInstructions (h : Obligations.BobbinRegisterInstructions) : True := by
  have := h 0 .none (bobAt 0x01 0 {}) _ (mem_at 0 rfl) (settled_of _ rfl) ?_ ?_ ?_ ?_ ?_
  have := h 0 .none (bobAt 0x02 0 {}) _ (mem_at 1 rfl) (settled_of _ rfl) ?_ ?_ ?_ ?_ ?_
  have := h 0 .none (bobAt 0x03 0 {}) _ (mem_at 2 rfl) (settled_of _ rfl) ?_ ?_ ?_ ?_ ?_
  have := h 0 .none (bobAt 0x04 0 {}) _ (mem_at 3 rfl) (settled_of _ rfl) ?_ ?_ ?_ ?_ ?_
  have := h 0 .scratch (bobAt 0x10 0 {}) _ (mem_at 4 rfl) (settled_of _ rfl) ?_ ?_ ?_ ?_ ?_
  have := h 0 .none (bobAt 0x11 0 {}) _ (mem_at 5 rfl) (settled_of _ rfl) ?_ ?_ ?_ ?_ ?_
  have := h 0 .none (bobAt 0x12 0 {}) _ (mem_at 6 rfl) (settled_of _ rfl) ?_ ?_ ?_ ?_ ?_
  have := h 0 .none (bobAt 0x13 0 {}) _ (mem_at 7 rfl) (settled_of _ rfl) ?_ ?_ ?_ ?_ ?_
  have := h 0 .none (bobAt 0x14 0 {}) _ (mem_at 8 rfl) (settled_of _ rfl) ?_ ?_ ?_ ?_ ?_
  have := h 0 .none (bobAt 0x15 0 {}) _ (mem_at 9 rfl) (settled_of _ rfl) ?_ ?_ ?_ ?_ ?_
  have := h 0 .none (bobAt 0x20 0 {}) _ (mem_at 10 rfl) (settled_of _ rfl) ?_ ?_ ?_ ?_ ?_
  have := h 0 .none (bobAt 0x21 0 {}) _ (mem_at 11 rfl) (settled_of _ rfl) ?_ ?_ ?_ ?_ ?_
  have := h 0 .none (bobAt 0x22 0 {}) _ (mem_at 12 rfl) (settled_of _ rfl) ?_ ?_ ?_ ?_ ?_
  have := h 0 .none (bobAt 0x28 0x8100 {}) _ (mem_at 13 rfl) (settled_of _ rfl) ?_ ?_ ?_ ?_ ?_
  have := h 0 .none (bobAt 0x29 0 {}) _ (mem_at 14 rfl) (settled_of _ rfl) ?_ ?_ ?_ ?_ ?_
  have := h 0 .none (bobAt 0x2A 0 {}) _ (mem_at 15 rfl) (settled_of _ rfl) ?_ ?_ ?_ ?_ ?_
  have := h 0 .none (bobAt 0x3D 0 {}) _ (mem_at 16 rfl) (settled_of _ rfl) ?_ ?_ ?_ ?_ ?_
  all_goals trivial

/-- The hypotheses of `VectorLanesAreIndependent` can be met: each line applies a clause to operands that meet them. -/
theorem witness_VectorLanesAreIndependent (h : Obligations.VectorLanesAreIndependent) : True := by
  have := h.1 (5 * 32) (fun _ => 7) {} 127 ?_ ?_
  have := h.2.1 (5 * 32 + 2 ^ 21) {} 127 ?_ ?_
  have := (h.2.2 {} 1 2 5 5 5).2.2.1 ?_
  have := (h.2.2 {} 1 2 5 5 5).2.2.2.2.2.2.1 ?_
  all_goals trivial

/-- The hypotheses of `AccumulatorMoves` can be met: each line applies a clause to operands that meet them. -/
theorem witness_AccumulatorMoves (h : Obligations.AccumulatorMoves) : True := by
  have := (h 0 1 {} ?_).1 ?_
  have := (h 1 1 {} ?_).2.1 ?_
  have := (h (2 + 3 * 2 ^ 11) 1 {} ?_).2.2.1 ?_
  all_goals trivial

/-- The hypotheses of `BobbinScratchAccesses` can be met: each line applies a clause to operands that meet them. -/
theorem witness_BobbinScratchAccesses (h : Obligations.BobbinScratchAccesses) : True := by
  have := (h.1 0 (bobAt 0x05 0x7FFF {}) _ (mem_at 0 rfl) (settled_of _ rfl) ?_ ?_ ?_ ?_).1 ?_ ?_
  have := (h.1 0 (bobAt 0x06 0 {}) _ (mem_at 1 rfl) (settled_of _ rfl) ?_ ?_ ?_ ?_).1 ?_ ?_
  have := (h.1 0 (bobAt 0x16 0x7FF {}) _ (mem_at 2 rfl) (settled_of _ rfl) ?_ ?_ ?_ ?_).1 ?_ ?_
  have := (h.1 0 (bobAt 0x18 1 {}) _ (mem_at 3 rfl) (settled_of _ rfl) ?_ ?_ ?_ ?_).1 ?_ ?_
  have := (h.1 0 (bobAt 0x16 0x800 {}) _ (mem_at 2 rfl) (settled_of _ rfl) ?_ ?_ ?_ ?_).2.1 ?_
  have := (h.1 0 (bobAt 0x05 0 {}) _ (mem_at 0 rfl) (settled_of _ rfl) ?_ ?_ ?_ ?_).2.2.1 ?_ ?_
  have := (h.1 0 (bobAt 0x18 1 {}) _ (mem_at 3 rfl) (settled_of _ rfl) ?_ ?_ ?_ ?_).2.2.1 ?_ ?_
  have := (h.1 0 (bobAt 0x05 0 {}) _ (mem_at 0 rfl) (settled_of _ rfl) ?_ ?_ ?_ ?_).2.2.2 ?_
  have := (h.2.1 0 .none (bobAt 0x07 1 {}) _ (mem_at 0 rfl) (settled_of _ rfl) ?_ ?_ ?_ ?_).1 ?_ ?_
  have := (h.2.1 0 .none (bobAt 0x17 0x7FF {}) _ (mem_at 1 rfl) (settled_of _ rfl) ?_ ?_ ?_ ?_).1 ?_ ?_
  have := (h.2.1 0 .none (bobAt 0x17 0x800 {}) _ (mem_at 1 rfl) (settled_of _ rfl) ?_ ?_ ?_ ?_).2 ?_
  have := h.2.2 0 .none (bobAt 0x34 0 {}) (settled_of _ rfl) ?_ ?_ ?_ ?_ ?_ ?_
  all_goals trivial

/-- The hypotheses of `BobbinControlTransfers` can be met: each line applies a clause to operands that meet them. -/
theorem witness_BobbinControlTransfers (h : Obligations.BobbinControlTransfers) : True := by
  have := h.1 0 .none (bobAt 0x08 1 {}) (settled_of _ rfl) ?_ ?_ ?_ ?_ ?_ ?_ ?_
  have := h.1 0 .none (bobAt 0x08 (1 + 2 ^ 13) {}) (settled_of _ rfl) ?_ ?_ ?_ ?_ ?_ ?_ ?_
  have := h.2.1 0 .none (bobAt 0x09 1 {}) (settled_of _ rfl) ?_ ?_ ?_ ?_ ?_ ?_
  have := (h.2.2 0 .none (bobAt 0x0A (3 * 2 ^ 16) (sc2 4)) (settled_of _ rfl) ?_ ?_ ?_ ?_).1 ?_ ?_
  have := (h.2.2 0 .none (bobAt 0x0A (3 * 2 ^ 16) (sc2 8)) (settled_of _ rfl) ?_ ?_ ?_ ?_).2 (.inr ?_)
  have := (h.2.2 0 .none (bobAt 0x0A (3 * 2 ^ 16 + 3 * 2 ^ 21) (sc2 8)) (settled_of _ rfl) ?_ ?_ ?_ ?_).1 ?_ ?_
  all_goals trivial

/-- The hypotheses of `BobbinStreamsAndWaits` can be met: each line applies a clause to operands that meet them. -/
theorem witness_BobbinStreamsAndWaits (h : Obligations.BobbinStreamsAndWaits) : True := by
  have := (h.1 0 (bobAt 0x30 (3 * 2 ^ 11) (sc2 (4096 + 2 ^ 32))) _ (mem_at 0 rfl) (settled_of _ rfl) ?_ ?_ ?_ ?_).1 ?_ ?_ ?_ ?_ (by decide) ?_ (by decide +kernel) ?_
  have := (h.1 0 (bobAt 0x31 (3 * 2 ^ 11 + 6) (sc2 (64 + 2 ^ 32))) _ (mem_at 1 rfl) (settled_of _ rfl) ?_ ?_ ?_ ?_).1 ?_ ?_ ?_ ?_ (by decide) ?_ (by decide +kernel) ?_
  have := (h.1 0 (bobAt 0x32 (3 * 2 ^ 11) (sc2 2)) _ (mem_at 2 rfl) (settled_of _ rfl) ?_ ?_ ?_ ?_).1 ?_ ?_ ?_ ?_ (fun _ => ⟨?_, ?_⟩) ?_ (by decide +kernel) ?_
  have := (h.1 0 (bobAt 0x30 0 { streams := List.replicate 16 (strm true) }) _ (mem_at 0 rfl) (settled_of _ rfl) ?_ ?_ ?_ ?_).2 ?_
  have := (h.2.1 0 .none (bobAt 0x33 512 {}) (settled_of _ rfl) ?_ ?_ ?_ ?_).1 (fun _ hx => nomatch hx) ?_
  have := (h.2.1 0 .none (bobAt 0x33 512 { streams := [strm true] }) (settled_of _ rfl) ?_ ?_ ?_ ?_).2 ⟨strm true, (mem_at 0 rfl), ?_⟩
  have := (h.2.2.1 0 .none (bobAt 0x3A 0 {}) (settled_of _ rfl) ?_ ?_ ?_ ?_).1 ?_ ?_
  have := (h.2.2.1 0 .none (bobAt 0x3A 0 { streams := [strm true] }) (settled_of _ rfl) ?_ ?_ ?_ ?_).2 ?_
  have := h.2.2.2.1 0 .none (bobAt 0x38 1 {}) (settled_of _ rfl) ?_ ?_ ?_ ?_ ?_
  have := (h.2.2.2.2.1 1 true (bobAt 0x38 1 {}) ?_).1 ?_ (settled_of _ rfl)
  have := (h.2.2.2.2.1 1 true (bobAt 0x38 1 { wait := some (.barrier true) }) ?_).2 ?_ (settled_of _ rfl) ?_
  have := h.2.2.2.2.2.1 0 .none (bobAt 0x3B 0 {}) (settled_of _ rfl) ?_ ?_ ?_ ?_ ?_ ?_ ?_
  have := h.2.2.2.2.2.2.1 0 1 .none (bobAt 0x3C 5 {}) launch1 (settled_of _ rfl) ?_ ?_ ?_ ?_ ?_ ?_ ?_ ?_ ?_ ?_ ?_
  have := h.2.2.2.2.2.2.2.1 0 .none (bobAt 0x39 0 {}) _ _ launch1 _ (settled_of _ rfl) ?_ ?_ ?_ ?_ ?_ ?_ ?_ ?_ (triple_of (by decide +kernel)) (pair_of (by decide +kernel)) ?_
  have := (h.2.2.2.2.2.2.2.2 0 4 0 (bobAt 0x3A 0 { streams := [strm false] }) (strm false) { a := 64, sa := 128 } (settled_of _ rfl) ?_ ?_ ?_ ?_ ?_ ?_).1 _ _ ?_ (quad_of (by decide +kernel)) ?_ (by decide +kernel)
  have := (h.2.2.2.2.2.2.2.2 0 4 0 (bobAt 0x3A 0 { streams := [strm true] }) (strm true) { a := 64, sa := 128 } (settled_of _ rfl) ?_ ?_ ?_ ?_ ?_ ?_).2.1 _ ?_ ?_ (pair_of (by decide +kernel)) ?_
  have := (h.2.2.2.2.2.2.2.2 0 4 0 (bobAt 0x3A 0 { streams := [strm true] }) (strm true) { a := 64, sa := 128 } (settled_of _ rfl) ?_ ?_ ?_ ?_ ?_ ?_).2.2 { crcBad := 0, scratch := false, line := some 0 } 0 ?_
  all_goals trivial

def imgHead (crc : Nat) : List Byte :=
  leBytes 4 0x4E494242 ++ leBytes 2 1 ++ leBytes 2 0 ++ leBytes 4 4 ++ leBytes 44 0 ++ leBytes 4 crc
def imgCode : List Byte := leBytes 4 (0x3A * 2 ^ 26)
def imgFile : List Byte := imgHead (crc32c imgCode) ++ leBytes 4 (crc32c (imgHead (crc32c imgCode))) ++ imgCode
def imgMem : State := { owned with spl := { owned.spl with mem := memWrite [] 0 imgFile } }

def img1 : Image := { loaded := true, code := imgCode, consts := [1, 2] }
def withImage : State := { ctxUp with
  bob := { ctxUp.bob with image := [(5, img1)], bobbin := [(0, { state := .idle }), (1, { state := .idle })] } }
def launch2 : Launch := { launch1 with state := .queued, members := [], image := 5, launchId := 4 }
def withLaunches (l : List Launch) (b : BobSt) : State := { withImage with
  bob := { withImage.bob with launch := l, bobbin := [(0, { state := b, launch := some 1 }), (1, { state := b, launch := some 1 })] } }
def launchCmd : Cmd := cmd 0x510 0 0 0 (5 + at_ 18 0 6 + at_ 20 0 1 + at_ 24 0 1 + at_ 32 13 1 + at_ 32 27 1)
def expired : State := { (withLaunches [{ launch1 with started := some 0 }] .running) with
  time := { up.time with count := (List.range 40).map fun d => (d, 6000000) } }
def seqUp (e : SeqEntry) : State := { owned with bob := { owned.bob with seq := [(3, e)] } }

/-- Every stack has an idle Bobbin, and images 1 and 3 are resident. -/
def resident : State := { ctxUp with
  bob := { ctxUp.bob with bobbin := (List.range 16).map fun n => (32 * n, { state := .idle })
                          image := [(1, { img1 with resident := true, shared := true }), (3, { img1 with resident := true, shared := true })] } }
def attnCmd (mask : Nat) : Cmd := cmd 0x510 5 48 0 (1 + at_ 18 0 6 + at_ 20 0 mask + at_ 24 0 1 + at_ 72 0 1)
def requantCmd : Cmd :=
  cmd 0x510 5 24 0 (3 + at_ 18 0 6 + at_ 20 0 1 + at_ 24 0 1 + at_ 32 13 1 + at_ 32 27 1 + at_ 32 28 1 + at_ 72 0 4096 +
    at_ 80 0 1 + at_ 84 0 1 + at_ 85 0 1)
def attnLaunch (n : Nat) : Launch := { launch2 with args := leBytes 8 0 ++ leBytes 8 n, wins := [] }
def withSeq : State := { owned with
  spl := { owned.spl with mem := [(0, 3), (4, 1)] }
  bob := { owned.bob with seq := [(3, { valid := true, entry := BitVec.ofNat 128 (2 ^ 64) })] } }
def replayWait : State := { withImage with
  bob := { withImage.bob with launch := [{ launch1 with image := 5, state := .replaying }]
                              bobbin := [(0, { state := .fenced, launch := some 1 }), (1, { state := .idle })] } }
def seqWait : State := { seqUp { valid := true } with jcq := { up.jcq with waiting := [{ cmd 0x520 0 0 3 0 with id := 5 }] } }

def cxlUpAs (h : HPort) : State := { up with lnk := { up.lnk with hport := [(0, h)] } }
def cxlReq (peer w : Bool) : CxlReq := { id := 2, port := 0, peer := peer, write := w, readBack := false, part := 0, pa := 64, len := 64 }
def cxlAsked (peer : Bool) : State := { up with lnk := { up.lnk with hport := [(0, { up := true })], cxlReqs := [cxlReq peer false] } }

def accWith (a : APort) : State :=
  { ctxUp with lnk := { ctxUp.lnk with aport := [(0, a), (1, { state := .up })] }
               time := { up.time with count := [(32, 2000000000)] } }
def accUp : State := accWith { state := .up, ctx := 1 }

/-- No port has a request of its accelerator waiting, as a test that computes. -/
def quietB (s : State) : Bool := s.lnk.aport.all fun e => e.2.accReqs.isEmpty && e.2.heldSignals.isEmpty

theorem quiet_of (s : State) (h : quietB s = true) (j : Nat) : (aport s j).accReqs = [] ∧ (aport s j).heldSignals = [] := by
  unfold quietB at h
  unfold aport
  generalize s.lnk.aport = t at h ⊢
  induction t with
  | nil => exact ⟨rfl, rfl⟩
  | cons e r ih =>
    obtain ⟨k, a⟩ := e
    simp only [List.all_cons, Bool.and_eq_true, List.isEmpty_iff] at h
    unfold tget
    split
    · exact h.1
    · exact ih h.2

def tch (typ len addr v : Nat) (data : List Byte) : List Byte := hdrBytes { typ := typ, tag := 5, len := len, addr := addr, value := v } data
def eight : List Byte := List.replicate 8 1
def dev1 (late : Bool) : DevReq := { tag := 5, typ := 1, pa := 64, len := 8, fromPort := none, sent := 0, timedOut := late }
def train1 : TchTraining := { half := false, noLock := false, version := 1, accId := 9, hdr := 64, rsp := 64, data := 512 }

def busyAcc : State := accWith { state := .up, ctx := 1
                                 accReqs := [{ id := 0, typ := 2, tag := 9, header := [], data := [], ordered := false, held := false }] }
def stoppedAcc : State := { accUp with parts := { accUp.parts with state := [(0, .frozen)] } }
def heldPort : State := { accUp with jcq := { accUp.jcq with waiting := [{ cmd 0x741 0 0 0 8 with id := 5 }] } }
def ordTch (typ len addr : Nat) : List Byte := hdrBytes { typ := typ, tag := 5, len := len, addr := addr, value := 0, ordered := true } []


/-- The hypotheses of `LaunchesRunInOrder` can be met: each line applies a clause to operands that meet them. -/
theorem witness_LaunchesRunInOrder (h : Obligations.LaunchesRunInOrder) : True := by
  have := h.1 (cmd 0x501 0 68 0 1) (disp (cmd 0x501 0 68 0 1) imgMem) _ _ _ _ 5 (admits_disp ?_) ?_ ?_ (triple_of (by decide +kernel)) ?_ (triple_of (by decide +kernel)) ?_ ?_ ?_ ?_
  have := h.2.1 _ _ img1 (on_disp (cmd 0x502 0 0 0 5) withImage ?_) (admits_disp ?_) ?_ ?_ ?_ (fun _ hx => nomatch hx)
  have := (h.2.2.1 (attnCmd 0) (disp (attnCmd 0) resident) (admits_disp ?_)).1 .lenRange ?_
  have := ((h.2.2.1 launchCmd (disp launchCmd (withLaunches (List.replicate 64 launch2) .idle)) (admits_disp ?_)).2 ?_).1 (.inl ?_)
  have := (((h.2.2.1 launchCmd (disp launchCmd withImage) (admits_disp ?_)).2 ?_).2 ?_ ?_ ?_).1 ?_
  have := ((((h.2.2.1 (attnCmd 1) (disp (attnCmd 1) resident) (admits_disp ?_)).2 ?_).2 ?_ ?_ ?_).2 ?_).1 .bounds ?_
  have := (((((h.2.2.1 requantCmd (disp requantCmd resident) (admits_disp ?_)).2 ?_).2 ?_ ?_ ?_).2 ?_).2 ?_).1 ?_
  have := (((((h.2.2.1 (attnCmd 0xFFFF) (disp (attnCmd 0xFFFF) resident) (admits_disp ?_)).2 ?_).2 ?_ ?_ ?_).2 ?_).2 ?_).2 ?_
  have := h.2.2.2.1 _ _ (on_disp launchCmd withImage ?_) (admits_disp ?_) ?_ ?_ ?_ ?_ ?_ ?_
  have := (h.2.2.2.2.1 launchCmd (attnLaunch 0) owned _ [] (pair_of (by decide +kernel)) ?_ ?_ ?_ ?_).1 ?_
  have := (h.2.2.2.2.1 launchCmd (attnLaunch 1) withSeq _ _ rfl ?_ ?_ ?_ ?_).2 ?_
  have := (h.2.2.2.2.2.1 (cmd 0x511 0 0 0 9) (disp (cmd 0x511 0 0 0 9) (withLaunches [launch2] .idle)) (admits_disp ?_)).1 ?_
  have := ((h.2.2.2.2.2.1 (cmd 0x511 0 0 0 4) (disp (cmd 0x511 0 0 0 4) (withLaunches [launch2] .idle)) (admits_disp ?_)).2 launch2 ?_).1
  have := ((h.2.2.2.2.2.1 (cmd 0x511 0 0 0 4) (disp (cmd 0x511 0 0 0 4) (withLaunches [launch2] .idle)) (admits_disp ?_)).2 launch2 ?_).2 (settled_of _ rfl) ?_ ?_ ?_
  have := (h.2.2.2.2.2.2.1 0 replayWait).1 { launch1 with image := 5, state := .replaying } 0 1 ?_
  have := ((h.2.2.2.2.2.2.1 0 { withImage with bob := { withImage.bob with launch := [launch2] } }).2 launch2 ?_ ?_ ?_).1 [0, 1] ?_ (settled_of _ rfl)
  have := ((h.2.2.2.2.2.2.1 0 (withLaunches [launch2] .running)).2 launch2 ?_ ?_ ?_).2 ?_ (settled_of _ rfl)
  have := (h.2.2.2.2.2.2.2.1 1 (withLaunches [{ launch1 with image := 5, state := .ending }] .loading) { launch1 with image := 5, state := .ending } ?_ ?_).1 ?_
  have := (h.2.2.2.2.2.2.2.1 1 (withLaunches [{ launch1 with image := 5 }] .loading) { launch1 with image := 5 } ?_ ?_).2 ?_ (settled_of _ rfl)
  have := (h.2.2.2.2.2.2.2.2.1 0 (bobAt 0x38 0 {} |> setBobbin 0 { state := .zeroing }) ?_).1 ?_ (settled_of _ rfl)
  have := (h.2.2.2.2.2.2.2.2.1 0 (bobAt 0x38 0 {} |> setBobbin 0 { state := .zeroing, leaving := true }) ?_).2 ?_
  have := (h.2.2.2.2.2.2.2.2.2 0 3 expired { launch1 with started := some 0 } 0 ?_ ?_ ?_ ?_ (by decide +kernel)).1
  have := (h.2.2.2.2.2.2.2.2.2 0 3 expired { launch1 with started := some 0 } 0 ?_ ?_ ?_ ?_ (by decide +kernel)).2 ?_ ?_ ?_ ?_ ?_
  all_goals trivial

/-- The hypotheses of `SequenceCommandsTakeEffect` can be met: each line applies a clause to operands that meet them. -/
theorem witness_SequenceCommandsTakeEffect (h : Obligations.SequenceCommandsTakeEffect) : True := by
  have := (h.1 _ _ 3 _ (on_disp (cmd 0x520 0 0 3 (at_ 24 0 1)) owned ?_) (admits_disp ?_) ?_ rfl ?_ ?_ ?_).1 ?_ ?_ ?_ ?_ ?_ ?_
  have := (h.1 _ _ 3 _ (on_disp (cmd 0x520 0 0 3 (at_ 24 0 1)) (seqUp { valid := true }) ?_) (admits_disp ?_) ?_ rfl ?_ ?_ ?_).2 ?_
  have := (h.2.1 _ _ 3 (on_disp (cmd 0x521 0 0 3 0) (seqUp { valid := true }) ?_) (admits_disp ?_) ?_ ?_ ?_).1 ?_
  have := (h.2.1 _ _ 3 (on_disp (cmd 0x521 0 0 3 0) (seqUp { valid := true, refs := 2 }) ?_) (admits_disp ?_) ?_ ?_ ?_).2 ?_
  have := h.2.2.1 _ _ 3 (on_disp (cmd 0x522 0 0 3 0) (seqUp { valid := true }) ?_) (admits_disp ?_) ?_ ?_ ?_
  have := h.2.2.2.1 _ (mem_at 0 rfl) _ _ (on_disp (cmd 0x520 0 0 3 0) seqWait ?_) (admits_disp ?_) ?_
  have := h.2.2.2.1 _ (mem_at 1 rfl) _ _ (on_disp (cmd 0x521 0 0 3 0) seqWait ?_) (admits_disp ?_) ?_
  have := h.2.2.2.1 _ (mem_at 2 rfl) _ _ (on_disp (cmd 0x522 0 0 3 0) seqWait ?_) (admits_disp ?_) ?_
  have := (h.2.2.2.2 3 4 {} owned).2 ?_
  all_goals trivial

/-- The hypotheses of `HostPortEvents` can be met: each line applies a clause to operands that meet them. -/
theorem witness_HostPortEvents (h : Obligations.HostPortEvents) : True := by
  have := h.1 0 3 true (cxlUpAs { up := true, cacheEn := true, modified := [3] }) (settled_of _ rfl) ?_ ?_
  have := h.2.1 2 .ok [1] (cxlAsked false) (cxlReq false false) ?_
  have := h.2.2.1 2 .success [1] (cxlAsked true) (cxlReq true false) ?_
  have := (h.2.2.2.1 (cxlReq true false) .ok [1] (cxlAsked true)).1 ?_
  have := (h.2.2.2.1 { cxlReq true false with readBack := true } .ok [1] (cxlAsked true)).2 ?_ (fun _ e => nomatch e) (fun _ e => nomatch e)
  have := h.2.2.2.2.1 0 (cxlUpAs { up := true, modified := [3] }) ?_ (fun _ e => nomatch e)
  have := h.2.2.2.2.2.1 0 (cxlUpAs { up := true, modified := [3] })
  have := h.2.2.2.2.2.2.1 0 4 8 true (cxlUpAs { training := true }) (settled_of _ rfl) ?_ ?_ ?_ ?_ ?_ (.inl rfl)
  have := h.2.2.2.2.2.2.1 0 1 16 true (cxlUpAs { training := true }) (settled_of _ rfl) ?_ ?_ ?_ ?_ ?_ (.inr rfl)
  have := h.2.2.2.2.2.2.2.1 1 up ?_ ?_
  have := h.2.2.2.2.2.2.2.2.1 0 up ?_ (settled_of _ rfl)
  have := (h.2.2.2.2.2.2.2.2.2.1 1 63 (setHport 1 { up := true, vfEnable := true, numVfs := 63 } { up with lnk := { up.lnk with home := [(63, true)] } }) (settled_of _ rfl) ?_ ?_ ?_).1
  have := (h.2.2.2.2.2.2.2.2.2.1 1 63 (setHport 1 { up := true, vfEnable := true, numVfs := 63 } { up with lnk := { up.lnk with home := [(63, true)] } }) (settled_of _ rfl) ?_ ?_ ?_).2
  have := h.2.2.2.2.2.2.2.2.2.2.1 0 70 true (cxlUpAs { up := true }) (settled_of _ rfl) ?_
  have := (h.2.2.2.2.2.2.2.2.2.2.2 0 false [0x12, 0x84] (cxlUpAs { up := true }) (settled_of _ rfl) ?_ ?_).1 ?_ ?_ ?_
  have := (h.2.2.2.2.2.2.2.2.2.2.2 0 false [0x12, 0xE0] (cxlUpAs { up := true }) (settled_of _ rfl) ?_ ?_).2.1 ?_ ?_ ?_
  have := (h.2.2.2.2.2.2.2.2.2.2.2 0 false [0x12, 0x85] (cxlUpAs { up := true }) (settled_of _ rfl) ?_ ?_).2.2.1 ?_ ?_ ?_
  have := (h.2.2.2.2.2.2.2.2.2.2.2 0 false [] { cxlUpAs { up := true } with fw := { up.fw with start := some { warm := false, done := [], at_ := 0 } } } (settled_of _ rfl) ?_ ?_).2.2.2.1 ?_ ?_
  have := (h.2.2.2.2.2.2.2.2.2.2.2 0 true [] (cxlUpAs { up := true }) (settled_of _ rfl) ?_ ?_).2.2.2.2 ?_
  all_goals trivial

/-- The hypotheses of `AcceleratorTransactions` can be met: each line applies a clause to operands that meet them. -/
theorem witness_AcceleratorTransactions (h : Obligations.AcceleratorTransactions) : True := by
  have := (h.1 0 (List.replicate 272 0) accUp (quiet_of _ ?_) rfl (settled_of _ rfl) ?_ ?_ (by decide +kernel)).1 (by decide +kernel) ?_
  have := (h.1 0 (flitBytes 7 []) accUp (quiet_of _ ?_) rfl (settled_of _ rfl) ?_ ?_ (by decide +kernel)).2.1 (by decide +kernel) (by decide +kernel)
  have := (h.1 0 (flitBytes (ctlWord 0 4095 false 0 { hdr := 3 }) []) accUp (quiet_of _ ?_) rfl (settled_of _ rfl) ?_ ?_ (by decide +kernel)).2.2 (by decide +kernel) (by decide +kernel) ?_ ?_
  have := (h.2.1 0 (tch 1 0 0 0 []) [] accUp ?_ ?_ _ (mem_at 0 rfl) ?_).1 .lenRange ?_
  have := ((h.2.1 0 (tch 1 8 64 0 []) [] stoppedAcc ?_ ?_ _ (mem_at 0 rfl) ?_).2 ?_).1 ?_
  have := (((h.2.1 0 (tch 3 8 64 0 []) eight accUp ?_ ?_ _ (mem_at 2 rfl) ?_).2 ?_).2 ?_).1 ?_ ?_
  have := (((((h.2.1 0 (ordTch 2 8 64) [] busyAcc ?_ ?_ _ (mem_at 1 rfl) ?_).2 ?_).2 ?_).2 (fun e => absurd rfl e)).1 ?_ ?_)
  have := (((((h.2.1 0 (tch 1 8 64 0 []) [] accUp ?_ ?_ _ (mem_at 0 rfl) ?_).2 ?_).2 ?_).2 (fun e => absurd rfl e)).2 ?_).1 ?_ _ _ _ rfl
  have := (((((h.2.1 0 (tch 2 8 64 0 eight) eight accUp ?_ ?_ _ (mem_at 1 rfl) ?_).2 ?_).2 ?_).2 (fun _ => by decide +kernel)).2 ?_).1 ?_ _ _ _ rfl
  have := (((((h.2.1 0 (tch 3 8 64 0 eight) eight accUp ?_ ?_ _ (mem_at 2 rfl) ?_).2 ?_).2 ?_).2 (fun _ => by decide +kernel)).2 ?_).1 ?_ _ _ _ rfl
  have := (((((h.2.1 0 (tch 2 8 (2 * 2 ^ 56) 0 eight) eight accUp ?_ ?_ _ (mem_at 1 rfl) ?_).2 ?_).2 ?_).2 (fun _ => by decide +kernel)).2 ?_).2 ?_
  have := (h.2.2.1 0 (readHdr (tch 2 8 (2 * 2 ^ 56) 0 eight)) eight accUp ?_).1 ?_
  have := (h.2.2.1 0 (readHdr (tch 2 8 (2 * 2 ^ 56) 0 eight)) eight { accUp with pwr := { accUp.pwr with xstallMap := 0xFFFF } } ?_).2 ?_
  have := h.2.2.2.1 0 (tch 5 8 0 0 eight) eight accUp _ _ ?_ ?_ ?_ ?_ ?_ ?_ rfl
  have := ((h.2.2.2.2.1 0 (tch 4 0 1 (5 + 2 ^ 32) []) { accUp with fw := { accUp.fw with ready := false } } ?_ ?_ ?_ ?_ ?_).1 ?_ ?_).1 ?_
  have := ((h.2.2.2.2.1 0 (tch 4 0 1 (2 ^ 24 + 2 ^ 32) []) accUp ?_ ?_ ?_ ?_ ?_).1 ?_ ?_).2.1 ?_ ?_
  have := ((h.2.2.2.2.1 0 (tch 4 0 1 (5 + 2 ^ 32) []) accUp ?_ ?_ ?_ ?_ ?_).1 ?_ ?_).2.2 ?_ ?_
  have := (h.2.2.2.2.1 0 (tch 4 0 (2 + 256) 7 []) accUp ?_ ?_ ?_ ?_ ?_).2.1 1 ?_ ?_ ?_ ?_ ?_ ?_ ?_
  have := (h.2.2.2.2.1 0 (tch 4 0 1 (5 + 2 ^ 32) []) busyAcc ?_ ?_ ?_ ?_ ?_).2.2 _ (mem_at 0 rfl) ?_ ?_
  have := (h.2.2.2.2.1 0 (tch 4 0 (2 + 256) 7 []) busyAcc ?_ ?_ ?_ ?_ ?_).2.2 _ (mem_at 1 rfl) ?_ ?_
  have := (h.2.2.2.2.2.1 0 (tch 8 8 0 0 eight) eight (accWith { state := .up, devReqs := [dev1 true] }) (dev1 true) ?_ ?_ ?_ ?_).1 ?_
  have := ((h.2.2.2.2.2.1 0 (tch 8 8 0 0 eight) [1, 2] (accWith { state := .up, devReqs := [dev1 false] }) (dev1 false) ?_ ?_ ?_ ?_).2 ?_ ?_).1 (.inr ⟨?_, ?_⟩)
  have := ((h.2.2.2.2.2.1 0 (tch 8 8 0 0 eight) eight (accWith { state := .up, devReqs := [dev1 false] }) (dev1 false) ?_ ?_ ?_ ?_).2 ?_ ?_).2 ?_ (fun _ => by decide +kernel) ?_
  have := h.2.2.2.2.2.2.1 0 5 (accWith { state := .up, devReqs := [dev1 false] }) (dev1 false) ?_ ?_ ?_
  have := (h.2.2.2.2.2.2.2.1 0 (dev1 false) .ok eight (accWith { state := .up, devReqs := [dev1 false] }) ?_ (fun _ e => nomatch e) (fun _ e => nomatch e)).1
  have := (h.2.2.2.2.2.2.2.2.1 0 train1 (accWith { state := .training, step := 1 }) (settled_of _ rfl) ?_ ?_).1 (.inl ?_)
  have := (h.2.2.2.2.2.2.2.2.1 0 train1 (accWith { state := .training, step := 4 }) (settled_of _ rfl) ?_ ?_).2.1 ?_ ?_
  have := (h.2.2.2.2.2.2.2.2.1 0 train1 (accWith { state := .retrain, step := 2 }) (settled_of _ rfl) ?_ ?_).2.2 ?_
  have := (h.2.2.2.2.2.2.2.2.2.1 0 accUp (quiet_of _ ?_) rfl (settled_of _ rfl) (fun k hc => by cases hc)).1 ?_
  have := (h.2.2.2.2.2.2.2.2.2.1 0 (accWith { retrained := true }) (quiet_of _ ?_) rfl (settled_of _ rfl) (fun k hc => by cases hc)).2 ?_ ?_ ?_ ?_
  have := (h.2.2.2.2.2.2.2.2.2.2.1 _ _ 0 (on_disp (cmd 0x740 0 0 0 (at_ 18 0 1)) heldPort ?_) (admits_disp ?_) ?_).1 ?_
  have := (h.2.2.2.2.2.2.2.2.2.2.1 _ _ 0 (on_disp (cmd 0x740 0 0 0 (at_ 18 0 1)) accUp ?_) (admits_disp ?_) ?_).2 ?_ (.inl ?_) (.inr ⟨?_, ?_⟩)
  have := (h.2.2.2.2.2.2.2.2.2.2.2.1 (cmd 0x741 0 0 0 8) (disp (cmd 0x741 0 0 0 8) heldPort) 0 (quiet_of _ ?_) rfl (settled_of _ rfl) (admits_disp ?_) ?_).1 ?_
  have := ((h.2.2.2.2.2.2.2.2.2.2.2.1 (cmd 0x741 0 0 0 (2 * 8)) (disp (cmd 0x741 0 0 0 (2 * 8)) accUp) 0 (quiet_of _ ?_) rfl (settled_of _ rfl) (admits_disp ?_) ?_).2 ?_ (.inl ?_)).1 ?_ ?_
  have := ((h.2.2.2.2.2.2.2.2.2.2.2.1 (cmd 0x741 0 0 0 0) (disp (cmd 0x741 0 0 0 0) (accWith { state := .disabled })) 0 (quiet_of _ ?_) rfl (settled_of _ rfl) (admits_disp ?_) ?_).2 ?_ (.inl ?_)).2.1 ?_ ?_
  have := ((h.2.2.2.2.2.2.2.2.2.2.2.1 (cmd 0x741 0 0 0 8) (disp (cmd 0x741 0 0 0 8) (accWith { state := .training })) 0 (quiet_of _ ?_) rfl (settled_of _ rfl) (admits_disp ?_) ?_).2 ?_ (.inl ?_)).2.2.1 ?_ ?_
  have := ((h.2.2.2.2.2.2.2.2.2.2.2.1 (cmd 0x741 0 0 0 (2 * 8)) (disp (cmd 0x741 0 0 0 (2 * 8)) (accWith { state := .disabled })) 0 (quiet_of _ ?_) rfl (settled_of _ rfl) (admits_disp ?_) ?_).2 ?_ (.inl ?_)).2.2.2 _ (mem_at 0 rfl) ?_ ?_
  have := ((h.2.2.2.2.2.2.2.2.2.2.2.1 (cmd 0x741 0 0 0 (2 * 8)) (disp (cmd 0x741 0 0 0 (2 * 8)) (accWith { state := .down })) 0 (quiet_of _ ?_) rfl (settled_of _ rfl) (admits_disp ?_) ?_).2 ?_ (.inl ?_)).2.2.2 _ (mem_at 1 rfl) ?_ ?_
  have := ((h.2.2.2.2.2.2.2.2.2.2.2.1 (cmd 0x741 0 0 0 0) (disp (cmd 0x741 0 0 0 0) (accWith { state := .down })) 0 (quiet_of _ ?_) rfl (settled_of _ rfl) (admits_disp ?_) ?_).2 ?_ (.inl ?_)).2.2.2 _ (mem_at 2 rfl) ?_ ?_
  have := (h.2.2.2.2.2.2.2.2.2.2.2.2 { typ := 5, tag := 4095, len := 4096, addr := 2 ^ 64 - 1, value := 9, aux := 3 } eight ?_ ?_ ?_ ?_ ?_ ?_ ?_).2.2 ?_
  all_goals trivial

/-- Sub-port 0 of port 0 is up and takes frames of up to 1 600 bytes. -/
def ethUp : State :=
  setEthp 0 { ptime := 5, cfg := BitVec.ofNat 64 (1600 * 2 ^ 24), enable := 1, power := .active, woken := true,
              sub := [(0, { link := .up })], group := [(0, { w0 := 1 })], txq := [(0, { w0 := 1 })] } up

/-- A frame of 60 bytes with its FCS. -/
def wire (b : Byte) : List Byte := List.replicate 60 b ++ fcsOf (List.replicate 60 b)

def pkt : TxPacket := { frame := List.replicate 60 1, cmd := some (cmdRef (cmd 0x710 5 60 0 0)), whole := true }
def ethReady : State := modEthp 0 (fun p => { p with txq := [(0, { w0 := 1, pkts := [pkt] })] }) ethUp
def ethSent : State := modEthp 0 (fun p => { p with sub := [(0, { link := .up, tx := some ⟨pkt, 3, false⟩ })] }) ethUp
def ethTraining : State := modEthp 0 (fun p => { p with sub := [(0, { link := .training })] }) ethUp
def ethDrop (d : Nat) : State :=
  modEthp 0 (fun p => { p with cfg := BitVec.ofNat 64 (1600 * 2 ^ 24 + 16 * d) }) ethUp
def mgmtUp : State := { up with eth := { up.eth with mgmtEnable := true, sgmiiAn := false, duplex := false } }
def mgmtTry (n : Nat) : State :=
  { mgmtUp with eth := { mgmtUp.eth with mgmtTx := some { frame := [1], collisions := n, wait := 5, since := 0 } } }

def sealFrame (b : List Byte) : List Byte := b ++ fcsOf b
def pause : List Byte := sealFrame (List.replicate 12 0xFF ++ [0x88, 0x08] ++ List.replicate 46 0)
def shtWire : List Byte := sealFrame (List.replicate 6 0xFF ++ (shtFrame 1 1).drop 6)
def liveNo (r : CmdRef) (s : State) : State := { s with jcq := { s.jcq with live := [{ ref := r }] } }
def slowReady : State := modEthp 0 (fun p => { p with txq := [(0, { w0 := 1 + 2^17 * 6, pkts := [{ pkt with whole := false }] })] }) ethUp
def fullQueue : State := modEthp 0 (fun p => { p with txq := [(0, { w0 := 1, pkts := List.replicate 32 pkt })] }) ethUp


/-- The hypotheses of `EthernetPortsTakeAndSendFrames` can be met: each line applies a clause to operands that meet them. -/
theorem witness_EthernetPortsTakeAndSendFrames (h : Obligations.EthernetPortsTakeAndSendFrames) : True := by
  have := h.1 0 0 0 5 up
  have := (h.2.1 0 0 (wire 1) 0 1 ethUp ?_ ?_ ?_ ?_).1 (.inl ?_)
  have := ((h.2.1 0 0 ([1] ++ fcsOf [1]) 0 0 ethUp ?_ ?_ ?_ ?_).2 ?_ ?_).1 (.inl ?_)
  have := (((h.2.1 0 0 (wire 1) 0 0 ethUp ?_ ?_ ?_ ?_).2 ?_ (by decide +kernel)).2 ?_ ?_).1 ?_
  have := (((h.2.1 0 0 pause 0 0 ethUp ?_ ?_ ?_ ?_).2 ?_ (by decide +kernel)).2 ?_ ?_).2.1 ?_ ?_
  have := ((((h.2.1 0 0 shtWire 0 0 ethUp ?_ ?_ ?_ ?_).2 ?_ (by decide +kernel)).2 ?_ ?_).2.2 ?_ ?_ ?_).1 ?_ ?_
  have := ((((h.2.1 0 0 (wire 0xFF) 0 0 ethUp ?_ ?_ ?_ ?_).2 ?_ (by decide +kernel)).2 ?_ ?_).2.2 ?_ ?_ ?_).2.1 ?_ ?_
  have := ((((h.2.1 0 0 (wire 0xFF) 0 0 (ethDrop 1) ?_ ?_ ?_ ?_).2 ?_ (by decide +kernel)).2 ?_ ?_).2.2 ?_ ?_ ?_).2.2.1 ?_
  have := ((((h.2.1 0 0 (wire 0xFF) 0 0 (ethDrop 2) ?_ ?_ ?_ ?_).2 ?_ (by decide +kernel)).2 ?_ ?_).2.2 ?_ ?_ ?_).2.2.2 ?_
  have := (h.2.2.1 0 0 0 64 ethUp (settled_of _ rfl)).1 (.inr rfl)
  have := (h.2.2.1 0 0 63 64 slowReady (settled_of _ rfl)).2.1 _ _ _ rfl ?_ ?_
  have := (h.2.2.1 0 0 0 64 ethReady (settled_of _ rfl)).2.2 _ _ _ ?_ rfl ?_
  have := h.2.2.2.1 0 0 (liveNo (cmdRef (cmd 0x710 5 60 0 0)) ethSent) _ rfl ?_ ?_ ?_ (fun _ e => by cases e; exact ⟨_, (mem_at 0 rfl), rfl⟩)
  have := (h.2.2.2.2.1 (cmd 0x710 5 60 0 0) (disp (cmd 0x710 5 60 0 0) fullQueue) 0 0 rfl rfl (admits_disp ?_) ?_ ?_ ?_ ?_ ?_ (settled_of _ rfl)).1 (.inl ?_)
  have := (h.2.2.2.2.1 (cmd 0x710 5 60 0 0) (disp (cmd 0x710 5 60 0 0) ethUp) 0 0 rfl rfl (admits_disp ?_) ?_ ?_ ?_ ?_ ?_ (settled_of _ rfl)).2.1 ?_ ?_ ?_
  have := (h.2.2.2.2.1 (cmd 0x710 0 60 0 (at_ 22 0 1)) (disp (cmd 0x710 0 60 0 (at_ 22 0 1)) { ethUp with spl := owned.spl }) 0 0 rfl rfl (admits_disp ?_) ?_ ?_ ?_ ?_ ?_ (settled_of _ rfl)).2.2 _ _ _ ?_ ?_ ?_ rfl
  have := h.2.2.2.2.2.1 0 0 ethTraining (.inl rfl) ?_ (.inl rfl)
  have := h.2.2.2.2.2.2.1 0 0 ethUp ?_
  have := h.2.2.2.2.2.2.1 0 0 ethSent ?_
  have := h.2.2.2.2.2.2.2.1 (wire 1) mgmtUp (settled_of _ rfl)
  have := (h.2.2.2.2.2.2.2.2.1 [1] 512 mgmtUp (settled_of _ rfl) ?_ ?_).1 ?_
  have := (h.2.2.2.2.2.2.2.2.1 [1] 511 mgmtUp (settled_of _ rfl) ?_ ?_).2.1 ?_ (fun _ e => nomatch e)
  have := ((h.2.2.2.2.2.2.2.2.1 [1] 511 (mgmtTry 15) (settled_of _ rfl) ?_ ?_).2.2 _ ?_ rfl rfl).1 ?_
  have := ((h.2.2.2.2.2.2.2.2.1 [1] 511 (mgmtTry 14) (settled_of _ rfl) ?_ ?_).2.2 _ ?_ rfl rfl).2 ?_
  have := (h.2.2.2.2.2.2.2.2.2.1 mgmtUp (settled_of _ rfl)).1 ?_
  have := (h.2.2.2.2.2.2.2.2.2.1 (mgmtTry 1) (settled_of _ rfl)).2.1 _ rfl ?_
  have := (h.2.2.2.2.2.2.2.2.2.1 (late 100000 (mgmtTry 1)) (settled_of _ rfl)).2.2 _ rfl ?_
  have := h.2.2.2.2.2.2.2.2.2.2 0 mgmtUp (settled_of _ rfl)
  all_goals trivial

/-- Key slot 0 holds a key, and its counter and limit. -/
def slotKeyed (m : SlotState) (n : Nat) : State :=
  { up with cip := { up.cip with slot := [(0, { state := m, counter := BitVec.ofNat 64 n, limit := 2, key := List.replicate 32 3 })] } }

def gcmCmd (code : Nat) : Cmd := cmd code 0 0 0 (at_ 24 0 1)
def keyCmd (mode len : Nat) : Cmd :=
  let c := cmd 0x601 5 len 0 (at_ 18 0 mode + at_ 40 0 (if mode = 1 then 1 else 0))
  { c with packet := c.packet.take 64 ++ List.replicate len 9 }
def running (w : CipherWork) : State :=
  { (slotKeyed .gcm 0) with spl := owned.spl, hdl := ctxUp.hdl, cip := { (slotKeyed .gcm 0).cip with running := [(0, { id := 0, cls := 2, slot := 0, work := w })] } }
def poisoned0 (w : CipherWork) : State := { (running w) with spl := { owned.spl with poison := [(0, true)] } }
def aadCmd (code len : Nat) : Cmd := cmd code 0 len 0 (at_ 20 0 4 + at_ 24 0 1 + at_ 40 0 1024)

def allBusy : State :=
  { up with cip := { up.cip with running := (List.range 16).map fun n => (n, { id := n, cls := 2, slot := 0, work := .packet n 64 }) } }
def noCores (m : SlotState) : State := { (slotKeyed m 0) with weft := { up.weft with diePresent := 0xFFFFFFFF00 } }


/-- The hypotheses of `CipherJobsTakeEffect` can be met: each line applies a clause to operands that meet them. -/
theorem witness_CipherJobsTakeEffect (h : Obligations.CipherJobsTakeEffect) : True := by
  have := (h.1 (keyCmd 1 32) (disp (keyCmd 1 32) up) _ rfl (on_disp _ _ ?_) ?_).1 (admits_disp ?_) ?_ (.inl ?_) ?_ ?_
  have := (h.1 (keyCmd 2 64) (disp (keyCmd 2 64) up) _ rfl (on_disp _ _ ?_) ?_).1 (admits_disp ?_) ?_ (.inr ?_) ?_ ?_
  have := ((h.1 (cmd 0x602 0 0 0 0) (disp (cmd 0x602 0 0 0 0) (slotKeyed .gcm 0)) _ rfl (on_disp _ _ ?_) ?_).2.1 (admits_disp ?_)).1 ?_
  have := ((h.1 (cmd 0x602 0 0 0 0) (disp (cmd 0x602 0 0 0 0) (addRef 0 up)) _ rfl (on_disp _ _ ?_) ?_).2.1 (admits_disp ?_)).2 ?_
  have := (h.1 (cmd 0x603 0 0 0 0) (disp (cmd 0x603 0 0 0 0) (slotKeyed .gcm 1)) _ rfl (on_disp _ _ ?_) ?_).2.2 (admits_disp ?_)
  have := h.2.1 _ (mem_at 0 rfl) _ _ (on_disp (cmdOf 1 (keyCmd 1 32)) up ?_) (admits_disp ?_) ?_ (fun _ => by decide +kernel)
  have := h.2.1 _ (mem_at 1 rfl) _ _ (on_disp (cmdOf 1 (cmd 0x602 0 0 0 0)) up ?_) (admits_disp ?_) ?_ (fun e => nomatch e)
  have := h.2.1 _ (mem_at 2 rfl) _ _ (on_disp (cmdOf 1 (cmd 0x603 0 0 0 0)) up ?_) (admits_disp ?_) ?_ (fun e => nomatch e)
  have := h.2.1 _ (mem_at 3 rfl) _ _ (on_disp (cmdOf 1 (gcmCmd 0x610)) up ?_) (admits_disp ?_) ?_ (fun e => nomatch e)
  have := h.2.1 _ (mem_at 4 rfl) _ _ (on_disp (cmdOf 1 (gcmCmd 0x611)) up ?_) (admits_disp ?_) ?_ (fun e => nomatch e)
  have := h.2.1 _ (mem_at 5 rfl) _ _ (on_disp (cmdOf 1 (gcmCmd 0x612)) up ?_) (admits_disp ?_) ?_ (fun e => nomatch e)
  have := h.2.1 _ (mem_at 6 rfl) _ _ (on_disp (cmdOf 1 (gcmCmd 0x613)) up ?_) (admits_disp ?_) ?_ (fun e => nomatch e)
  have := (h.2.2.1 _ _ _ rfl (on_disp (gcmCmd 0x610) (slotKeyed .gcm 1) ?_) (admits_disp ?_) ?_ ?_ ?_ ?_).1 ?_ ?_
  have := (h.2.2.1 _ _ _ rfl (on_disp (gcmCmd 0x610) (slotKeyed .gcm 2) ?_) (admits_disp ?_) ?_ ?_ ?_ ?_).2 ?_
  have := (h.2.2.2.1 _ _ _ rfl (on_disp (gcmCmd 0x611) (slotKeyed .gcm 0) ?_) ?_ ?_ _ (mem_at 0 rfl) (admits_disp ?_) ?_ ?_).1 ?_
  have := (h.2.2.2.1 _ _ _ rfl (on_disp (gcmCmd 0x611) (noCores .gcm) ?_) ?_ ?_ _ (mem_at 0 rfl) (admits_disp ?_) ?_ ?_).2 ?_
  have := (h.2.2.2.1 _ _ _ rfl (on_disp (gcmCmd 0x612) (slotKeyed .xts 0) ?_) ?_ ?_ _ (mem_at 1 rfl) (admits_disp ?_) ?_ ?_).1 ?_
  have := (h.2.2.2.1 _ _ _ rfl (on_disp (gcmCmd 0x613) (slotKeyed .xts 0) ?_) ?_ ?_ _ (mem_at 2 rfl) (admits_disp ?_) ?_ ?_).1 ?_
  have := (h.2.2.2.1 _ _ _ rfl (on_disp (gcmCmd 0x613) (noCores .xts) ?_) ?_ ?_ _ (mem_at 2 rfl) (admits_disp ?_) ?_ ?_).2 ?_
  have := h.2.2.2.2.1 5 0 64 up (settled_of _ rfl)
  have := (h.2.2.2.2.2.1 0 0 (.packet 5 64) up _ rfl).1 0 ((freeCores up).drop 1) (by decide +kernel)
  have := (h.2.2.2.2.2.1 0 0 (.packet 5 64) allBusy _ rfl).2.1 _ (by decide +kernel) (by decide +kernel) rfl
  have := (h.2.2.2.2.2.1 0 0 (.packet 5 64) State.reset _ rfl).2.2 (by decide +kernel) (.inr (by decide +kernel))
  have := h.2.2.2.2.2.2.1 (running (.packet 5 64))
  have := (h.2.2.2.2.2.2.2.1 0 (running (.packet 5 64)) _ _ rfl ?_ rfl).1 _ _ rfl
  have := (h.2.2.2.2.2.2.2.1 0 (running (.command (aadCmd 0x610 0) 0)) _ _ rfl ?_ rfl).2 _ _ rfl
  have := ((h.2.2.2.2.2.2.2.2.1 0 7 { id := 0, cls := 2, slot := 0, work := .packet 0 0 } (aadCmd 0x610 0) (running (.packet 0 0)) _ _ _ rfl).1 rfl).1 _ _ .ok rfl rfl
  have := ((h.2.2.2.2.2.2.2.2.1 0 7 { id := 0, cls := 2, slot := 0, work := .packet 0 0 } (aadCmd 0x611 0) (running (.packet 0 0)) _ _ _ rfl).1 rfl).2 ?_
  have := (h.2.2.2.2.2.2.2.2.1 0 7 { id := 0, cls := 2, slot := 0, work := .packet 0 0 } (aadCmd 0x611 4) (poisoned0 (.packet 0 0)) _ _ _ rfl).2.1 rfl
  have := (h.2.2.2.2.2.2.2.2.1 0 7 { id := 0, cls := 2, slot := 0, work := .packet 0 0 } (cmd 0x611 0 4 0 0) (running (.packet 0 0)) _ _ _ rfl).2.2 ?_ ?_
  have := h.2.2.2.2.2.2.2.2.2 0 up (settled_of _ rfl) ?_
  all_goals trivial

def resCmd (kind part op first count : Nat) : Cmd :=
  cmd 0x801 0 0 0 (at_ 16 0 kind + at_ 16 4 part + at_ 16 10 op + at_ 16 12 first + at_ 16 32 count)
def partAs (p : PartState) : State := setPart 1 p ctxUp
def freezeCmd : Cmd := cmd 0x810 0 0 0 (at_ 16 0 1 + at_ 20 0 1)
def freezingAt (n : Nat) : State :=
  { (partAs .freezing) with
    time := { up.time with count := (List.range 40).map fun d => (d, BitVec.ofNat 64 n) }
    parts := { (partAs .freezing).parts with freezes := [{ part := 1, tmoMs := 1, started := 0, cmd := cmdRef freezeCmd }] }
    jcq := { up.jcq with live := [{ ref := cmdRef freezeCmd }] } }

/-- `PART_FREEZE` has been dispatched while a command of the partition is with its unit. -/
def busyFreeze : State := { (disp freezeCmd ctxUp) with
  jcq := { (disp freezeCmd ctxUp).jcq with
    live := (disp freezeCmd ctxUp).jcq.live ++ [{ ref := cmdRef (cmdOf 1 (cmd 0x601 0 0 0 0)) }] } }
def saveCmd (code len : Nat) (m : Bool) : Cmd := cmd code 0 len 0 (at_ 16 0 1 + at_ 17 0 (b2n m) + at_ 18 0 1)

/-- An image of partition 1 with the serial number 0. -/
def imgOf (secs : List (Nat × Nat × List Byte)) : List Byte :=
  let b := buildImage 1 true secs
  let hdr := b.take 24 ++ leBytes 36 0
  hdr ++ leBytes 4 (crc32c hdr) ++ b.drop 64
def imgShort : List Byte := imgOf [(1, 0, leBytes 4 0 ++ leBytes 4 0)]
def imgMemory : List Byte := imgOf [(1, 0, leBytes 4 1 ++ leBytes 4 1 ++ leBytes 4 0), (14, 1, [7])]
def holdsImage (img : List Byte) : State := { (partAs .frozen) with
  spl := { ctxUp.spl with
    mem := memWrite [] 0 img
    got := [(0, BitVec.ofNat 16 (mkGot 0 gotOwned false)), (1, BitVec.ofNat 16 (mkGot 1 gotOwned false))] } }
def memoryFails : State := { (holdsImage imgMemory) with saf := { up.saf with unit := [(controller 15, { fenced := true })] } }
def poisonedPart : State := { (holdsImage []) with spl := { (holdsImage []).spl with poison := [(2 ^ 22, true)] } }
def thawing : State := { (partAs .frozen) with
  bob := { up.bob with launch := [{ launch1 with part := 1, image := 5, state := .withdrawn }] } }

theorem leBytes_length (n v : Nat) : (leBytes n v).length = n := by
  induction n generalizing v with
  | zero => rfl
  | succ n ih => simp [leBytes, ih]

theorem descs_length (secs : List (Nat × Nat × List Byte)) (a : Nat × List Byte) :
    (secs.foldl (fun (a : Nat × List Byte) x => (a.1 + x.2.2.length + 4,
      a.2 ++ leBytes 2 x.1 ++ leBytes 4 x.2.1 ++ leBytes 4 a.1 ++ leBytes 4 x.2.2.length ++ leBytes 2 0)) a).2.length
      = a.2.length + 16 * secs.length := by
  induction secs generalizing a with
  | nil => simp
  | cons x r ih =>
    rw [List.foldl_cons, ih]
    simp only [List.length_append, leBytes_length, List.length_cons]
    omega

theorem buildImage_length (p : Nat) (m : Bool) (secs : List (Nat × Nat × List Byte)) :
    (buildImage p m secs).length = 64 + 16 * secs.length + (secs.map fun x => x.2.2.length + 4).sum := by
  unfold buildImage
  simp only [List.length_append, leBytes_length, List.length_flatMap, descs_length, List.length_nil]
  omega

/-- An image with the memory of one granule is shorter than 2^29 bytes. -/
theorem image_fits {s : State} {p n : Nat} {m : Bool} (g : Nat) (hm : m = true) (hn : 536870912 ≤ n) (hg : partGranules s p = [g])
    (hs : (buildImage p false (sections s p false)).length ≤ 268435424) : (buildImage p m (sections s p m)).length ≤ n := by
  subst hm
  have e : sections s p true = sections s p false ++ [(14, 1, memRead s.spl.mem (g * 2 ^ 28) (2 ^ 28))] := by
    unfold sections
    simp [hg]
  rw [buildImage_length] at hs ⊢
  rw [e]
  simp only [List.length_append, List.map_append, List.sum_append, List.map_cons, List.map_nil, List.sum_cons, List.sum_nil,
    memRead_length, List.length_cons, List.length_nil]
  obtain ⟨k, hk⟩ : ∃ k, k = 2 ^ 28 := ⟨_, rfl⟩
  rw [← hk]
  have hk : k = 268435456 := by rw [hk]; norm_num
  omega


/-- The hypotheses of `PartitionCommandsTakeEffect` can be met: each line applies a clause to operands that meet them. -/
theorem witness_PartitionCommandsTakeEffect (h : Obligations.PartitionCommandsTakeEffect) : True := by
  have := (h.1 (resCmd 0 0 0 0 4) (disp (resCmd 0 0 0 0 4) up) _ rfl (admits_disp ?_)).1 .bounds ?_ (settled_of _ rfl)
  have := (h.1 (resCmd 0 1 0 0 4) (disp (resCmd 0 1 0 0 4) up) _ rfl (admits_disp ?_)).2 ?_
  have := (h.1 (resCmd 0 1 0 0 0) (disp (resCmd 0 1 0 0 0) up) _ rfl (admits_disp ?_)).2 ?_
  have := (h.1 (resCmd 8 1 1 0 4) (disp (resCmd 8 1 1 0 4) up) _ rfl (admits_disp ?_)).2 ?_
  have := (h.1 (resCmd 10 1 2 0 1) (disp (resCmd 10 1 2 0 1) up) _ rfl (admits_disp ?_)).2 ?_
  have := (h.1 (resCmd 11 1 2 0 1) (disp (resCmd 11 1 2 0 1) up) _ rfl (admits_disp ?_)).2 ?_
  have := (h.2.1 ⟨0, 1, 0, 0, 4⟩ up).2.2.1 ?_
  have := (h.2.1 ⟨10, 1, 2, 0, 1⟩ up).2.2.2.1 ?_
  have := (h.2.1 ⟨10, 1, 2, 0, 1⟩ up).2.2.2.2.1 ?_ ?_
  have := (h.2.1 ⟨11, 1, 2, 0, 1⟩ up).2.2.2.2.2 ?_ ?_
  have := (h.2.2.1 _ (mem_at 0 rfl) _ _ (on_disp (cmd 0x811 0 0 0 0) up ?_) (admits_disp ?_)).1 ?_
  have := (h.2.2.1 _ (mem_at 1 rfl) _ _ (on_disp (cmd 0x812 0 0 0 0) up ?_) (admits_disp ?_)).1 ?_
  have := (h.2.2.1 _ (mem_at 2 rfl) _ _ (on_disp (cmd 0x813 0 0 0 0) up ?_) (admits_disp ?_)).1 ?_
  have := (h.2.2.1 _ (mem_at 3 rfl) _ _ (on_disp (cmd 0x814 0 0 0 0) up ?_) (admits_disp ?_)).1 ?_
  have := (h.2.2.1 _ (mem_at 0 rfl) _ _ (on_disp (cmd 0x811 0 0 0 1) up ?_) (admits_disp ?_)).2 ?_ ?_
  have := (h.2.2.1 _ (mem_at 1 rfl) _ _ (on_disp (cmd 0x812 0 0 0 1) up ?_) (admits_disp ?_)).2 ?_ ?_
  have := (h.2.2.1 _ (mem_at 2 rfl) _ _ (on_disp (cmd 0x813 0 0 0 1) up ?_) (admits_disp ?_)).2 ?_ ?_
  have := (h.2.2.1 _ (mem_at 3 rfl) _ _ (on_disp (cmd 0x814 0 0 0 1) up ?_) (admits_disp ?_)).2 ?_ ?_
  have := (h.2.2.2.1 freezeCmd (disp freezeCmd ctxUp) _ 1 _ rfl (admits_disp ?_) ?_ ?_ ?_ rfl rfl).1
  have := (h.2.2.2.1 freezeCmd (disp freezeCmd ctxUp) _ 1 _ rfl (admits_disp ?_) ?_ ?_ ?_ rfl rfl).2.1 ?_ ?_ ?_ ⟨_, (mem_at 0 rfl), rfl⟩
  have := (h.2.2.2.1 freezeCmd busyFreeze _ 1 _ rfl ⟨?_, ?_⟩ ?_ ?_ ?_ rfl rfl).2.2 ?_ (settled_of _ rfl) (.inl ?_)
  have := (h.2.2.2.2.1 1 0 (freezingAt 999999) up _ rfl).1 ?_ (settled_of _ rfl)
  have := (h.2.2.2.2.1 1 _ (freezingAt 1000000) _ _ rfl).2 ?_ rfl
  have := (h.2.2.2.2.2.1 ⟨1, 1, 0, cmdRef freezeCmd⟩ 2 (freezingAt 0)).2.2.2.2 ⟨_, (mem_at 0 rfl), rfl⟩
  have := (h.2.2.2.2.2.2.1 (cmd 0x813 0 0 0 1) (disp (cmd 0x813 0 0 0 1) thawing) _ 1 rfl (admits_disp ?_) ?_ ?_ rfl)
  have := h.2.2.2.2.2.2.2.1 { launch1 with image := 5, state := .withdrawn } up (.inl ?_)
  have := (h.2.2.2.2.2.2.2.2.1 (saveCmd 0x811 0 false) (disp (saveCmd 0x811 0 false) (partAs .frozen)) 1 _ rfl (admits_disp ?_) ?_ ?_ rfl).1 ?_ (settled_of _ rfl)
  have := ((h.2.2.2.2.2.2.2.2.1 (saveCmd 0x811 (2 ^ 29) true) (disp (saveCmd 0x811 (2 ^ 29) true) poisonedPart) 1 _ rfl (admits_disp ?_) ?_ ?_ rfl).2
      (image_fits 1 ?_ ?_ ?_ ?_)).1 .poison ?_ ?_
  have := (((h.2.2.2.2.2.2.2.2.1 (saveCmd 0x811 8192 false) (disp (saveCmd 0x811 8192 false) (partAs .frozen)) 1 _ rfl (admits_disp ?_) ?_ ?_ rfl).2 ?_).2 _ .ok (fun e => nomatch e) (pair_of (by decide +kernel))).1 rfl
  have := (((h.2.2.2.2.2.2.2.2.1 (cmd 0x811 0 8192 0 (1 + at_ 24 56 0x99)) (disp (cmd 0x811 0 8192 0 (1 + at_ 24 56 0x99)) (partAs .frozen)) 1 _ rfl (admits_disp ?_) ?_ ?_ rfl).2 ?_).2 _ _ (fun e => nomatch e) rfl).2 ?_
  have := (h.2.2.2.2.2.2.2.2.2.1 (saveCmd 0x812 64 false) (disp (saveCmd 0x812 64 false) (partAs .frozen)) _ 1 _ rfl (admits_disp ?_) ?_ ?_ (triple_of (by decide +kernel))).1 .checkFail ?_
  have := (h.2.2.2.2.2.2.2.2.2.1 (saveCmd 0x812 imgShort.length false) (disp (saveCmd 0x812 imgShort.length false) (holdsImage imgShort)) _ 1 _ rfl (admits_disp ?_) ?_ ?_ (triple_of (by decide +kernel))).2.1 ?_ (.inl ?_)
  have := (h.2.2.2.2.2.2.2.2.2.1 (saveCmd 0x812 imgMemory.length false) (disp (saveCmd 0x812 imgMemory.length false) (holdsImage imgMemory)) _ 1 _ rfl (admits_disp ?_) ?_ ?_ (triple_of (by decide +kernel))).2.1 ?_ (.inr ?_)
  have := (h.2.2.2.2.2.2.2.2.2.1 (saveCmd 0x812 imgMemory.length false) (disp (saveCmd 0x812 imgMemory.length false) memoryFails) _ 1 _ rfl (admits_disp ?_) ?_ ?_ (triple_of (by decide +kernel))).2.2 .poison ?_ ?_ ?_
  have := (h.2.2.2.2.2.2.2.2.2.2 (cmd 0x814 0 0 0 1) (disp (cmd 0x814 0 0 0 1) (partAs .frozen)) 1 rfl (admits_disp ?_) ?_ ?_).1
  have := (h.2.2.2.2.2.2.2.2.2.2 (cmd 0x814 0 0 0 1) (disp (cmd 0x814 0 0 0 1) (partAs .frozen)) 1 rfl (admits_disp ?_) ?_ ?_).2
  all_goals trivial

def pwrWith (f : PwrState → PwrState) : State := { up with pwr := f up.pwr }
def holding (n : Nat) : State :=
  pwrWith fun p => { p with grants := [{ unit := 0, part := 0, n := n }], recalls := [{ unit := 0, part := 0, n := 2 }] }
def setWaiting (n : Nat) : State :=
  { (pwrWith fun p => { p with grants := [{ unit := 0, part := 0, n := n }], setWait := some { cmd := cmdRef (cmd 0xB01 0 0 0 0) } }) with
    jcq := { up.jcq with live := [{ ref := cmdRef (cmd 0xB01 0 0 0 0) }] } }
def pwrCmd (w f : Nat) : Cmd := cmd 0xB01 0 0 0 (at_ 16 0 w + at_ 18 0 f)
def idleFrom (n : Nat) : State := late n (pwrWith fun p => { p with idleAt := [(0, some 0)], idleReleaseUs := 5, grants := [{ unit := 0, part := 0, n := 3 }] })
def setsPwr (w f : Nat) (s : State) : State := disp (pwrCmd w f) s


/-- The hypotheses of `TokensAreGrantedWithinThePool` can be met: each line applies a clause to operands that meet them. -/
theorem witness_TokensAreGrantedWithinThePool (h : Obligations.TokensAreGrantedWithinThePool) : True := by
  have := (h.1 0 0 (holding 7) _ (settled_of _ rfl) ?_ ?_ rfl).1 ?_
  have := (h.1 0 0 up _ (settled_of _ rfl) ?_ ?_ rfl).2.1 ?_ ?_
  have := (h.1 0 0 (pwrWith fun p => { p with profile := 4 }) _ (settled_of _ rfl) ?_ ?_ rfl).2.2 ?_ ?_ ?_
  have := h.2.1 (pwrWith fun p => { p with requests := [{ unit := 0, part := 0, n := 7 }] })
  have := h.2.2.1 0 (holding 5)
  have := h.2.2.2.1 0 up (settled_of _ rfl) (fun _ e => nomatch e)
  have := h.2.2.2.1 0 (idleFrom 4999) (settled_of _ rfl) (fun _ e => by cases e; decide +kernel)
  have := h.2.2.2.2.1 0 (idleFrom 5000) 0 ?_ (by decide +kernel)
  have := (h.2.2.2.2.2.1 up).1 ?_
  have := ((h.2.2.2.2.2.1 (setWaiting 9999)).2 _ rfl).1 (by decide +kernel)
  have := ((h.2.2.2.2.2.1 (setWaiting 5)).2 _ rfl).2 (by decide +kernel) ⟨_, (mem_at 0 rfl), rfl⟩
  have := (h.2.2.2.2.2.2.1 (pwrCmd 1800 0) (setsPwr 1800 0 (setWaiting 5)) _ _ _ _ rfl rfl (admits_disp ?_) rfl rfl).1 ?_ (settled_of _ rfl)
  have := ((h.2.2.2.2.2.2.1 (pwrCmd 1200 0) (setsPwr 1200 0 up) _ _ _ _ rfl rfl (admits_disp ?_) rfl rfl).2 ?_).1 ?_ ?_ ?_ (fun e => nomatch e) (by decide +kernel)
  have := ((((h.2.2.2.2.2.2.1 (pwrCmd 2200 4) (setsPwr 2200 4 (pwrWith fun p => { p with coolingB := true })) _ _ _ _ rfl rfl (admits_disp ?_) rfl rfl).2 ?_).1 ?_ ?_ ?_ ?_ (by decide +kernel)).2.1 (by decide +kernel)).2 ⟨_, (mem_at 0 rfl), rfl⟩
  have := ((((h.2.2.2.2.2.2.1 (pwrCmd 2200 3) (setsPwr 2200 3 up) _ _ _ _ rfl rfl (admits_disp ?_) rfl rfl).2 ?_).1 ?_ ?_ ?_ ?_ (by decide +kernel)).2.1 (by decide +kernel)).2 ⟨_, (mem_at 0 rfl), rfl⟩
  have := (((h.2.2.2.2.2.2.1 (pwrCmd 1200 3) (setsPwr 1200 3 (holding 9999)) _ _ _ _ rfl rfl (admits_disp ?_) rfl rfl).2 ?_).1 ?_ ?_ ?_ ?_ (by decide +kernel)).2.2 (by decide +kernel)
  have := (((h.2.2.2.2.2.2.1 (pwrCmd 1200 5) (setsPwr 1200 5 up) _ _ _ _ rfl rfl (admits_disp ?_) rfl rfl).2 ?_).2 (settled_of _ rfl)).1 ?_
  have := (((h.2.2.2.2.2.2.1 (pwrCmd 1199 0) (setsPwr 1199 0 up) _ _ _ _ rfl rfl (admits_disp ?_) rfl rfl).2 ?_).2 (settled_of _ rfl)).2.1 ?_ (.inl ?_)
  have := (((h.2.2.2.2.2.2.1 (pwrCmd 2201 0) (setsPwr 2201 0 up) _ _ _ _ rfl rfl (admits_disp ?_) rfl rfl).2 ?_).2 (settled_of _ rfl)).2.1 ?_ (.inr ?_)
  have := (((h.2.2.2.2.2.2.1 (pwrCmd 2200 4) (setsPwr 2200 4 up) _ _ _ _ rfl rfl (admits_disp ?_) rfl rfl).2 ?_).2 (settled_of _ rfl)).2.2.1 ?_ ?_ ?_ ?_
  have := (((h.2.2.2.2.2.2.1 (pwrCmd 1200 0) (setsPwr 1200 0 (setRes 9 1 ⟨0, 9999⟩ up)) _ _ _ _ rfl rfl (admits_disp ?_) rfl rfl).2 ?_).2 (settled_of _ rfl)).2.2.2 ?_ ?_ ?_ (by decide +kernel)
  have := h.2.2.2.2.2.2.2 _ _ (on_disp (cmd 0xB02 0 0 0 0) up ?_) (admits_disp ?_)
  all_goals trivial

def dom (x : Nat) (d : Domain) : State := setDomain x d up
def vrUp : State := setRegulator 0 { valid := true } up
def bits2 (s : State) (m r : Nat) : State :=
  { s with pwr := { s.pwr with xstallMap := BitVec.ofNat 36 m, xReset := BitVec.ofNat 36 r } }
def idleDom (n : Nat) (pol : Nat) : Domain := { policy := BitVec.ofNat 2 pol, idleUs := 5, idleSince := some (BitVec.ofNat 64 n) }
def crossing : State := { up with pwr := { up.pwr with crossings := [{ island := 0, requester := 5, ctx := 0, stream := 0, began := 0 }] } }


/-- The hypotheses of `DomainsRailsAndCrossingsFollowTheirEvents` can be met: each line applies a clause to operands that meet them. -/
theorem witness_DomainsRailsAndCrossingsFollowTheirEvents (h : Obligations.DomainsRailsAndCrossingsFollowTheirEvents) : True := by
  have := (h.1 33 (late 5000 (dom 33 (idleDom 0 1))) ?_ ?_ ?_).1 0 ?_ ?_ (.inr ?_)
  have := (h.1 32 (late 5000 (dom 32 (idleDom 0 2))) ?_ ?_ ?_).1 0 ?_ ?_ (.inl ?_)
  have := (h.1 79 (dom 79 { policy := 1 }) ?_ ?_ ?_).2.1 (.inl ?_) ?_ (settled_of _ rfl)
  have := (h.1 33 (late 4999 (dom 33 (idleDom 0 1))) ?_ ?_ ?_).2.2 (fun _ e => by cases e; decide +kernel) (settled_of _ rfl)
  have := (h.2.1 79 up ?_ (settled_of _ rfl)).1 (.inl ?_)
  have := (h.2.1 0 (dom 0 { state := .waking }) ?_ (settled_of _ rfl)).1 (.inr ?_)
  have := (h.2.1 0 (dom 0 { state := .sleeping }) ?_ (settled_of _ rfl)).2.1 ?_
  have := (h.2.1 0 (dom 0 { state := .retain }) ?_ (settled_of _ rfl)).2.2 (.inl ?_)
  have := (h.2.1 0 (dom 0 { state := .off }) ?_ (settled_of _ rfl)).2.2 (.inr ?_)
  have := h.2.2.1 32 (dom 32 { state := .sleeping, toOff := true }) ?_
  have := h.2.2.1 64 (dom 64 { state := .sleeping, wakeHeld := true }) ?_
  have := h.2.2.2.1 64 (dom 64 { state := .waking }) ?_ (fun _ hm => nomatch hm)
  have := h.2.2.2.1 64 (modEthp 0 (fun p => { p with power := .entering }) (dom 64 { state := .waking })) ?_ (fun _ hm => nomatch hm)
  have := h.2.2.2.2.1 [{ vr := 0, words := some (0, 1, 1, 1) }] vrUp
  have := (h.2.2.2.2.2.1 0 (some 0x80) vrUp ?_ ?_).1 _ rfl ?_ (settled_of _ rfl)
  have := (h.2.2.2.2.2.1 0 (some 0x40) vrUp ?_ ?_).2.1 _ rfl ?_
  have := (h.2.2.2.2.2.1 0 none vrUp ?_ ?_).2.2 rfl
  have := (h.2.2.2.2.2.1 0 none (setRegulator 0 { valid := true, fails := 2 } up) ?_ ?_).2.2 rfl
  have := (h.2.2.2.2.2.2.1 0 1500 up ?_ ?_).1 ?_
  have := (h.2.2.2.2.2.2.1 0 1499 (dom 0 { lowSamples := 15 }) ?_ ?_).2 ?_
  have := h.2.2.2.2.2.2.2.1 79 460 { up with pins := { up.pins with tripRuns := [(79, 1)] } } ?_ ?_
  have := h.2.2.2.2.2.2.2.1 79 459 { up with pins := { up.pins with tripRuns := [(79, 1)] } } ?_ ?_
  have := h.2.2.2.2.2.2.2.2.1 35 0 up (settled_of _ rfl) (fun _ hy => nomatch hy)
  have := h.2.2.2.2.2.2.2.2.2.1 0 5 (late 4000 crossing) _ ?_ ?_ rfl ?_
  have := h.2.2.2.2.2.2.2.2.2.2.1 35 up ?_
  have := (h.2.2.2.2.2.2.2.2.2.2.2 0 up (settled_of _ rfl)).1 ?_
  have := (h.2.2.2.2.2.2.2.2.2.2.2 0 (bits2 up 3 1) (settled_of _ rfl)).2 ?_
  all_goals trivial

def starting (warm : Bool) (done : List Nat) (at_ : Nat) : State :=
  { up with fw := { up.fw with ready := false, start := some { warm := warm, done := done, at_ := BitVec.ofNat 64 at_ } } }
def info (pass : Bool) : StartInfo := { pass := pass, dies := 2 ^ 40 - 1, retrained := 0, regs := [], setVer := 3 }
def fwWith (f : FwState → FwState) : State := { owned with fw := f up.fw }
def failedOnce (s : State) : State := { s with fw := { s.fw with coldFails := 1 } }
def restartAt (n : Nat) : State := late n (fwWith fun f => { f with restart := some { cold := true, cmd := cmdRef (cmd 0xC20 0 0 0 1), at_ := 0 } })
def mailUp (full : Bool) : State :=
  fwWith fun f => { f with mbox := [(0, { ownerPartition := true, sendMask := 1, full := full })] }
def safeBox : State := { safeUp with fw := { safeUp.fw with mbox := (mailUp false).fw.mbox } }
def mailCmd : Cmd := cmd 0xC40 5 56 0 0
def readMail : Cmd := cmd 0xC41 0 64 0 (at_ 18 0 1)


/-- The hypotheses of `StartsRestartsFirmwareAndMailboxes` can be met: each line applies a clause to operands that meet them. -/
theorem witness_StartsRestartsFirmwareAndMailboxes (h : Obligations.StartsRestartsFirmwareAndMailboxes) : True := by
  have := (h.1 up).1 ?_ (settled_of _ rfl)
  have := (h.1 State.reset).2.1 ?_
  have := (h.1 up).2.2
  have := h.2.1 15 { State.reset with pins := { State.reset.pins with vddAo := true } } ?_ ?_
  have := h.2.2.1 up ?_
  have := (h.2.2.2.1 9 (info true) (starting false [] 0) _ rfl).1 ?_ (settled_of _ rfl)
  have := (h.2.2.2.1 1 (info false) (starting false [] 0) _ rfl).2.1 1 ?_ (.inl ⟨rfl, .inl ⟨?_, ?_, ?_⟩⟩)
  have := (h.2.2.2.1 3 (info false) (starting false [1, 2] 0) _ rfl).2.1 3 ?_ (.inl ⟨rfl, .inr (.inr (.inl ⟨?_, ?_, ?_⟩))⟩)
  have := (h.2.2.2.1 4 { info true with dies := 1 } (failedOnce (starting false [1, 2, 3] 0)) _ rfl).2.1 5 ?_ (.inl ⟨rfl, .inr (.inr (.inr ⟨?_, ?_, ?_⟩))⟩)
  have := (h.2.2.2.1 1 (info false) (starting true [] 0) _ rfl).2.1 2 ?_ (.inr ⟨rfl, .inl ⟨?_, .inl ?_, ?_⟩⟩)
  have := (h.2.2.2.1 1 (info true) (starting true [] 0) _ rfl).2.1 2 ?_ (.inr ⟨rfl, .inl ⟨?_, .inr (by decide +kernel), ?_⟩⟩)
  have := (h.2.2.2.1 2 (info false) (starting true [1] 0) _ rfl).2.1 3 ?_ (.inr ⟨rfl, .inr (.inl ⟨?_, ?_, ?_⟩)⟩)
  have := (h.2.2.2.1 3 { info true with dies := 0 } (starting true [1, 2] 0) _ rfl).2.1 5 ?_ (.inr ⟨rfl, .inr (.inr ⟨?_, ?_, ?_⟩)⟩)
  have := (h.2.2.2.1 1 (info true) (starting false [] 0) _ rfl).2.2.1 ?_ (.inl ⟨rfl, .inl ⟨?_, ?_⟩⟩)
  have := (h.2.2.2.1 3 (info true) (starting false [1, 2] 0) _ rfl).2.2.1 ?_ (.inl ⟨rfl, .inr (.inr (.inl ⟨?_, ?_⟩))⟩)
  have := (h.2.2.2.1 4 (info true) (starting false [1, 2, 3] 0) _ rfl).2.2.1 ?_ (.inl ⟨rfl, .inr (.inr (.inr (.inl ⟨?_, ?_⟩)))⟩)
  have := (h.2.2.2.1 7 (info true) (starting false [1, 2, 3, 4, 5, 6] 0) _ rfl).2.2.1 ?_ (.inl ⟨rfl, .inr (.inr (.inr (.inr ⟨?_, ?_⟩)))⟩)
  have := (h.2.2.2.1 2 (info true) (starting true [1] 0) _ rfl).2.2.1 ?_ (.inr ⟨rfl, .inr (.inl ⟨?_, ?_⟩)⟩)
  have := (h.2.2.2.1 3 (info true) (starting true [1, 2] 0) _ rfl).2.2.1 ?_ (.inr ⟨rfl, .inr (.inr (.inl ⟨?_, ?_⟩))⟩)
  have := (h.2.2.2.1 6 (info true) (starting true [1, 2, 3, 4, 5] 0) _ rfl).2.2.1 ?_ (.inr ⟨rfl, .inr (.inr (.inr ⟨?_, ?_⟩))⟩)
  have := (h.2.2.2.1 8 (info true) (starting false [1, 2, 3, 4, 5, 6, 7] 0) _ rfl).2.2.2 ?_ ?_
  have := (h.2.2.2.1 7 (info true) (starting true [1, 2, 3, 4, 5, 6] 0) _ rfl).2.2.2 ?_ ?_
  have := (h.2.2.2.2.1 1 false (late 9999999 (starting false [] 0)) _ rfl).1 (.inr ?_) (settled_of _ rfl)
  have := (h.2.2.2.2.1 1 false (late 10000000 (starting false [] 0)) _ rfl).2 ?_ ?_
  have := (h.2.2.2.2.1 1 false (late 10000000 (failedOnce (starting false [] 0))) _ rfl).2 ?_ ?_
  have := (h.2.2.2.2.1 1 false (late 1000000000 (starting true [] 0)) _ rfl).2 ?_ ?_
  have := (h.2.2.2.2.2.1 (cmd 0xC20 0 0 0 1) (disp (cmd 0xC20 0 0 0 1) up) (admits_disp ?_)).1 ?_
  have := (h.2.2.2.2.2.1 (cmd 0xC20 0 0 0 0) (disp (cmd 0xC20 0 0 0 0) (withSk { skOn with fetching := true })) (admits_disp ?_)).1 ?_
  have := (h.2.2.2.2.2.1 (cmd 0xC20 0 0 0 1) (disp (cmd 0xC20 0 0 0 1) (restartAt 0)) (admits_disp ?_)).2 ?_ (settled_of _ rfl)
  have := (h.2.2.2.2.2.2.1 up).1 ?_ (settled_of _ rfl)
  have := (h.2.2.2.2.2.2.1 (restartAt 999999)).2.1 _ rfl ?_ (settled_of _ rfl)
  have := (h.2.2.2.2.2.2.1 (restartAt 1000000)).2.2.1 _ rfl ?_
  have := ((h.2.2.2.2.2.2.1 (late 999 (fwWith fun f => { f with pkgReset := some 0 }))).2.2.2 _ rfl).1 ?_ (settled_of _ rfl)
  have := ((h.2.2.2.2.2.2.1 (late 1000 (fwWith fun f => { f with pkgReset := some 0 }))).2.2.2 _ rfl).2 ?_
  have := h.2.2.2.2.2.2.2.1 (cmd 0xC01 0 0 0 (at_ 16 0 (2 ^ 24) + at_ 22 0 1)) (disp (cmd 0xC01 0 0 0 (at_ 16 0 (2 ^ 24) + at_ 22 0 1)) owned) _ _ _ rfl (admits_disp ?_) ?_ ?_ ?_ (triple_of (by decide +kernel))
  have := h.2.2.2.2.2.2.2.1 (cmd 0xC01 0 4096 0 (at_ 22 0 1)) (disp (cmd 0xC01 0 4096 0 (at_ 22 0 1)) owned) _ _ _ rfl (admits_disp ?_) ?_ ?_ ?_ (triple_of (by decide +kernel))
  have := h.2.2.2.2.2.2.2.2.1 (cmd 0xC02 0 0 0 0) (disp (cmd 0xC02 0 0 0 0) up) _ rfl (admits_disp ?_) ⟨_, (mem_at 0 rfl), rfl⟩
  have := (h.2.2.2.2.2.2.2.2.2.1 mailCmd (disp mailCmd (fwWith fun f => { f with mbox := [(0, { sendMask := 0 })] })) 0 _ ?_ rfl (admits_disp ?_) ?_).1 ?_ (settled_of _ rfl)
  have := ((h.2.2.2.2.2.2.2.2.2.1 mailCmd (disp mailCmd (mailUp true)) 0 _ ?_ rfl (admits_disp ?_) ?_).2 ?_).1 ?_ (settled_of _ rfl)
  have := ((h.2.2.2.2.2.2.2.2.2.1 mailCmd (disp mailCmd (setPart 0 .clearing (mailUp false))) 0 _ ?_ rfl (admits_disp ?_) ?_).2 ?_).2.1 ?_ ?_ (settled_of _ rfl)
  have := ((h.2.2.2.2.2.2.2.2.2.1 mailCmd (disp mailCmd safeBox) 0 _ ?_ rfl (admits_disp ?_) ?_).2 ?_).2.2.1 ?_ ?_ ?_ (settled_of _ rfl)
  have := ((h.2.2.2.2.2.2.2.2.2.1 mailCmd (disp mailCmd (mailUp false)) 0 _ ?_ rfl (admits_disp ?_) ?_).2 ?_).2.2.2 ?_ ?_ ?_
  have := (h.2.2.2.2.2.2.2.2.2.2 readMail (disp readMail up) 0 _ ?_ rfl (admits_disp ?_)).1 (.inl ?_) (settled_of _ rfl)
  have := ((h.2.2.2.2.2.2.2.2.2.2 readMail (disp readMail (mailUp false)) 0 _ ?_ rfl (admits_disp ?_)).2 ?_ ?_).1 ?_ (settled_of _ rfl)
  have := ((h.2.2.2.2.2.2.2.2.2.2 readMail (disp readMail (mailUp true)) 0 _ ?_ rfl (admits_disp ?_)).2 ?_ ?_).2 _ ?_ (pair_of (by decide +kernel))
  all_goals trivial

def safWith (f : SafState → SafState) : State := { owned with saf := f owned.saf }
def fencedUnit (u : Nat) : State := safWith fun f => { f with unit := [(u, { fenced := true })] }
def detectedAt (u : Nat) (s : State) : State := { s with saf := { s.saf with detected := [mkRecord s u 0x0402] } }
def slicing : State := safWith fun f => { f with testEnable := true, slices := [{ unit := 0, vector := 0 }] }
def testingAt (n : Nat) : State := late n (safWith fun f => { f with testEnable := true, testPeriodMs := 1 })
def comparing (n : Nat) : State := late n (safWith fun f => { f with compareMs := 1 })
def oneRecord : State := safWith fun f => { f with ring := [(0, some (mkRecord up 0 0x0402))], nextSeq := 1 }
def gotDiffers : State := { (comparing 1000000) with spl := { owned.spl with gotCopy := [] } }
def unitCmd (code u : Nat) : Cmd := cmd code 0 0 0 u


/-- The hypotheses of `SelvedgeFencesTestsAndRecords` can be met: each line applies a clause to operands that meet them. -/
theorem witness_SelvedgeFencesTestsAndRecords (h : Obligations.SelvedgeFencesTestsAndRecords) : True := by
  have := h.1 (unitId 38 11 3) 0 up ?_ ?_
  have := (h.2.1 up).1 ?_ (settled_of _ rfl)
  have := ((h.2.1 (detectedAt 0x1000 (fencedUnit 0x1000))).2 _ _ rfl ?_).1 ?_ (settled_of _ rfl)
  have := ((h.2.1 (detectedAt 0x10C0 up)).2 _ _ rfl ?_).2 ?_ ?_
  have := (h.2.2.1 15 false (comparing 999999) ?_ ?_ (fun _ hx => nomatch hx)).1 (by decide +kernel) (settled_of _ rfl)
  have := ((h.2.2.1 15 false (comparing 1000000) ?_ ?_ (fun _ hx => nomatch hx)).2 ?_).1 ?_ ?_ ?_ (settled_of _ rfl)
  have := ((h.2.2.1 15 true (comparing 1000000) ?_ ?_ (fun _ hx => nomatch hx)).2 ?_).2 (.inl ?_)
  have := ((h.2.2.1 15 false gotDiffers ?_ ?_ (fun _ hx => nomatch hx)).2 ?_).2 (.inr (.inl ?_))
  have := (h.2.2.2.1 7 false (comparing 1000000) ?_ ?_ (fun _ hx => nomatch hx) ?_).1 ?_ ?_ (settled_of _ rfl)
  have := (h.2.2.2.1 7 true (comparing 1000000) ?_ ?_ (fun _ hx => nomatch hx) ?_).2 (.inl ?_)
  have := h.2.2.2.2.1 0 (safWith fun f => { f with testEnable := true }) (settled_of _ rfl) (fun _ hx => nomatch hx)
  have := (h.2.2.2.2.2.1 0 5 slicing _ (settled_of _ rfl) rfl).1 0
  have := (h.2.2.2.2.2.1 0 5 slicing _ (settled_of _ rfl) rfl).2
  have := (h.2.2.2.2.2.2.1 0 (testingAt 999999) (settled_of _ rfl) ?_ ?_).1 ?_
  have := (h.2.2.2.2.2.2.1 0 (testingAt 1000000) (settled_of _ rfl) ?_ ?_).2 ?_
  have := (h.2.2.2.2.2.2.2.1 (cmd 0x901 0 0 0 0) (disp (cmd 0x901 0 0 0 0) up) _ _ (admits_disp ?_) ?_ rfl).1 ?_ (settled_of _ rfl)
  have := (h.2.2.2.2.2.2.2.1 (cmd 0x901 0 64 0 (at_ 22 0 1)) (disp (cmd 0x901 0 64 0 (at_ 22 0 1)) oneRecord) _ _ (admits_disp ?_) ?_ rfl).2 _ _ (by decide +kernel) rfl
  have := (h.2.2.2.2.2.2.2.2.1 _ _ _ (on_disp (cmd 0x902 0 0 0 1) oneRecord ?_) rfl (admits_disp ?_)).1 ?_ ?_
  have := (h.2.2.2.2.2.2.2.2.1 _ _ _ (on_disp (cmd 0x902 0 0 0 2) oneRecord ?_) rfl (admits_disp ?_)).2 (.inr ?_)
  have := (h.2.2.2.2.2.2.2.2.2.1 _ _ _ rfl ((admits_disp ?_) : admits _ (unitCmd 0x910 (unitId 38 11 3)) (disp (unitCmd 0x910 (unitId 38 11 3)) up)) ?_).1 ?_ (on_disp _ _ ?_)
  have := (h.2.2.2.2.2.2.2.2.2.1 _ _ _ rfl ((admits_disp ?_) : admits _ (unitCmd 0x910 0x10C0) (disp (unitCmd 0x910 0x10C0) (detectedAt 0x10C0 up))) ?_).2.1 ?_ ?_ ?_ (on_disp _ _ ?_)
  have := (h.2.2.2.2.2.2.2.2.2.1 _ _ _ rfl ((admits_disp ?_) : admits _ (unitCmd 0x910 0x40) (disp (unitCmd 0x910 0x40) up)) ?_).2.2.1 ?_ ?_ ?_
  have := (h.2.2.2.2.2.2.2.2.2.1 _ _ _ rfl ((admits_disp ?_) : admits _ (unitCmd 0x910 0x40) (disp (unitCmd 0x910 0x40) (fencedUnit 0x40))) ?_).2.2.2 ?_ ?_ (on_disp _ _ ?_)
  have := (h.2.2.2.2.2.2.2.2.2.2.1 _ _ _ rfl ((admits_disp ?_) : admits _ (unitCmd 0x911 (unitId 8 5 0)) (disp (unitCmd 0x911 (unitId 8 5 0)) (fencedUnit (unitId 8 5 0)))) ?_ ?_ ?_ ?_).1
  have := (h.2.2.2.2.2.2.2.2.2.2.1 _ _ _ rfl ((admits_disp ?_) : admits _ (unitCmd 0x911 (unitId 8 5 0)) (disp (unitCmd 0x911 (unitId 8 5 0)) (fencedUnit (unitId 8 5 0)))) ?_ ?_ ?_ ?_).2 0 (on_disp _ _ ?_)
  have := (h.2.2.2.2.2.2.2.2.2.2.2.1 _ _ _ rfl ((admits_disp ?_) : admits _ (unitCmd 0x921 0x40) (disp (unitCmd 0x921 0x40) (fencedUnit 0x40))) ?_ (on_disp _ _ ?_)).1 ?_
  have := ((h.2.2.2.2.2.2.2.2.2.2.2.1 _ _ _ rfl ((admits_disp ?_) : admits _ (unitCmd 0x921 0) (disp (unitCmd 0x921 0) up)) ?_ (on_disp _ _ ?_)).2 ?_).1 ?_
  have := ((h.2.2.2.2.2.2.2.2.2.2.2.1 _ _ _ rfl ((admits_disp ?_) : admits _ (unitCmd 0x921 (jacquard 5)) (disp (unitCmd 0x921 (jacquard 5)) (withSk { skOn with tail := 1 }))) ?_ (on_disp _ _ ?_)).2 ?_).2 ?_
  have := (h.2.2.2.2.2.2.2.2.2.2.2.2 (cmd 0x920 0 0 0 (at_ 22 0 1)) (disp (cmd 0x920 0 0 0 (at_ 22 0 1)) owned) _ _ (admits_disp ?_) (triple_of (by decide +kernel))).1 ?_
  have := (h.2.2.2.2.2.2.2.2.2.2.2.2 (cmd 0x920 0 4096 0 (at_ 22 0 1)) (disp (cmd 0x920 0 4096 0 (at_ 22 0 1)) owned) _ _ (admits_disp ?_) (triple_of (by decide +kernel))).2.1 .format ?_ ?_
  all_goals trivial

def hangWith (f : HangState → HangState) : State := { owned with hang := f owned.hang }
def resetCmd (l : Nat) : Cmd := cmd 0x932 0 0 0 (at_ 18 0 l)
def resetting (reached : Bool) (level : Nat) : State :=
  { (hangWith fun f => { f with resets := [{ unit := 0, level := level, replay := true, at_ := 0, reached := reached, cmd := some (cmdRef (resetCmd 0)) }] }) with
    jcq := { up.jcq with live := [{ ref := cmdRef (resetCmd 0) }] } }
def iso0 : Isolation :=
  { unit := cipherCore 0, tmoMs := 1, cmd := cmdRef (cmd 0x933 0 0 0 0), part := 0, bufCtx := 0, bufPa := 0, len := 0
    suspects := [{ otype := 1, object := 5, ctx := 0, part := 0 }] }
/-- An isolation resets a unit to find what was on it. -/
def isoReset : State := hangWith fun f => { f with
  iso := some { iso0 with suspects := [] }
  resets := [{ unit := cipherCore 0, level := 0, replay := true, at_ := 0, iso := true }] }
/-- Core 0 runs a packet of queue pair 5, which an isolation tests. -/
def isolating (n : Nat) : State :=
  late n { owned with
    hang := { owned.hang with iso := some { iso0 with cur := some 0 } }
    cip := { owned.cip with running := [(0, { id := 0, cls := 0, slot := 0, work := .packet 5 64 })] } }
def dumping : State :=
  hangWith fun f => { f with dump := some { cause := 0, mode := 0, start := 0, left := [0x000, 0x001] } }
def dumped : State := hangWith fun f => { f with dumpValid := true, dumpTotal := 64 }
def heldDump : State := { up with jcq := { up.jcq with waiting := [{ cmd 0x934 0 0 0 0 with id := 5 }] } }
def cntCmd (code len : Nat) : Cmd := cmd code 0 len 0 (at_ 16 0 8 + at_ 24 0 1 + at_ 32 0 1)
def profCmd (p l : Nat) : Cmd := cmd 0xA02 0 0 0 (at_ 16 0 8 + at_ 24 0 1 + at_ 18 0 p + at_ 20 0 l)
def profiling (skipAll : Bool) : State :=
  { owned with cnt := { owned.cnt with
      prof := some { part := 0, classMask := 1, dieMask := 1, bufCtx := 1, bufPa := 0, periodUs := 10,
                     log2 := if skipAll then 1 else 7, last := 0 } } }

theorem one_unit (c : Cmd) (s : State) (h1 : cntClassMask c = 8) (h2 : cntDieMask c = 1) (h3 : selectedUnits s 8 1 = [unitId 0 3 0]) :
    [unitId 0 3 0] = selectedUnits s (cntClassMask c) (cntDieMask c) := by
  rw [h1, h2, h3]


/-- The hypotheses of `HangsResetsDumpsAndCounterCommands` can be met: each line applies a clause to operands that meet them. -/
theorem witness_HangsResetsDumpsAndCounterCommands (h : Obligations.HangsResetsDumpsAndCounterCommands) : True := by
  have := h.1 (cmd 0x930 0 0 0 0) (disp (cmd 0x930 0 0 0 0) up) (admits_disp ?_) ?_ _ _ rfl (.inl ⟨?_, rfl⟩)
  have := h.1 (cmd 0x930 0 2 0 (at_ 22 0 1)) (disp (cmd 0x930 0 2 0 (at_ 22 0 1)) (hangWith fun f => { f with heldAt := [0] })) (admits_disp ?_) ?_ _ _ rfl (.inr ⟨(by decide +kernel), (pair_of (by decide +kernel))⟩)
  have := h.2.1 (late 1000000000 up) (settled_of _ rfl) ?_
  have := (h.2.2.1 _ _ (on_disp (cmd 0x931 0 0 0 2) up ?_) (admits_disp ?_) ?_).1 ?_
  have := (h.2.2.1 _ _ (on_disp (cmd 0x931 0 0 0 2) (hangWith fun f => { f with resets := [{ unit := 0, level := 1, replay := true, at_ := 0, raised := true }] }) ?_) (admits_disp ?_) ?_).2 ?_
  have := (h.2.2.2.1 (hangWith fun f => { f with mode := 1 })).1 (.inr ?_) (settled_of _ rfl)
  have := (h.2.2.2.1 (late 100000 (hangWith fun f => { f with mode := 1, wfdPeriodUs := 100 }))).2 ?_ ?_
  have := (h.2.2.2.2.1 (resetCmd 2) (disp (resetCmd 2) up) _ _ rfl rfl (admits_disp ?_) ?_).1 ?_
  have := (h.2.2.2.2.1 (cmd 0x932 0 0 0 (unitId 8 9 0)) (disp (cmd 0x932 0 0 0 (unitId 8 9 0)) up) _ _ rfl rfl (admits_disp ?_) ?_).2 .denied ?_ (on_disp _ _ ?_)
  have := (h.2.2.2.2.2.1 0 (resetting true 0) _ _ rfl ?_ (.inl ⟨rfl, fun _ e => nomatch e⟩)).1 ?_ (settled_of _ rfl)
  have := (h.2.2.2.2.2.1 0 (resetting false 2) _ _ rfl ?_ (.inl ⟨rfl, fun _ e => nomatch e⟩)).2.1 ?_ (by decide +kernel)
  have := (h.2.2.2.2.2.1 (cipherCore 0) isoReset _ _ rfl ?_ (.inr ⟨_, _, rfl, ?_, ?_, rfl, rfl⟩)).2.1 ?_ (by decide +kernel)
  have := (h.2.2.2.2.2.1 0 (resetting false 0) _ _ rfl ?_ (.inl ⟨rfl, fun _ e => nomatch e⟩)).2.2.1 ?_ (settled_of _ rfl)
  have := (h.2.2.2.2.2.1 0 (resetting true 0) _ _ rfl ?_ (.inl ⟨rfl, fun _ e => nomatch e⟩)).2.2.2.1 ?_ ?_
  have := (h.2.2.2.2.2.1 0 (late 999999 (resetting false 0)) _ _ rfl ?_ (.inl ⟨rfl, fun _ e => nomatch e⟩)).2.2.2.2.1 [1] (.inr ?_) (settled_of _ rfl)
  have := (h.2.2.2.2.2.1 0 (late 1000000 (resetting false 1)) _ _ rfl ?_ (.inl ⟨rfl, fun _ e => nomatch e⟩)).2.2.2.2.2 [1] ?_ (by decide +kernel) ?_ ?_
  have := (h.2.2.2.2.2.1 0 (late 1000000 (resetting false 2)) _ _ rfl ?_ (.inl ⟨rfl, fun _ e => nomatch e⟩)).2.2.2.2.2 [] ?_ (by decide +kernel) ?_ ?_
  have := h.2.2.2.2.2.2.1 (cmd 0x933 0 0 0 (at_ 18 0 1000)) (disp (cmd 0x933 0 0 0 (at_ 18 0 1000)) up) _ _ rfl rfl (admits_disp ?_) ?_ ?_ ?_ ?_ ?_ ?_ ?_
  have := (h.2.2.2.2.2.2.2.1 up ?_).1 ?_ (settled_of _ rfl)
  have := ((h.2.2.2.2.2.2.2.1 (isolating 999999) ?_).2 _ 0 _ rfl ?_ rfl ?_ (by decide +kernel) ?_).1 ?_ (settled_of _ rfl)
  have := ((h.2.2.2.2.2.2.2.1 (isolating 1000000) ?_).2 _ 0 _ rfl ?_ rfl ?_ (by decide +kernel) ?_).2 ?_
  have := (h.2.2.2.2.2.2.2.2.1 (cmd 0x934 0 0 0 0) (disp (cmd 0x934 0 0 0 0) dumping) (admits_disp ?_)).1 (.inl ?_) (settled_of _ rfl)
  have := (h.2.2.2.2.2.2.2.2.1 (cmd 0x934 0 0 0 0) (disp (cmd 0x934 0 0 0 0) heldDump) (admits_disp ?_)).1 (.inr ?_) (settled_of _ rfl)
  have := ((h.2.2.2.2.2.2.2.2.1 (cmd 0x934 0 0 0 0) (disp (cmd 0x934 0 0 0 0) up) (admits_disp ?_)).2 ?_ ?_).1 ?_
  have := ((h.2.2.2.2.2.2.2.2.1 (cmd 0x934 0 0 0 0) (disp (cmd 0x934 0 0 0 0) dumped) (admits_disp ?_)).2 ?_ ?_).2 ?_ (settled_of _ rfl)
  have := (h.2.2.2.2.2.2.2.2.2.1 dumping _ 0 1 [] rfl rfl ?_ ?_ ?_).1 [5]
  have := (h.2.2.2.2.2.2.2.2.2.1 (late 9999 dumping) _ 0 1 [] rfl rfl ?_ ?_ ?_).2.1 ?_ (settled_of _ rfl)
  have := (h.2.2.2.2.2.2.2.2.2.1 (late 10000 dumping) _ 0 1 [] rfl rfl ?_ ?_ ?_).2.2 ?_ ?_
  have := (h.2.2.2.2.2.2.2.2.2.2.1 (cmd 0x935 0 64 0 (at_ 22 0 1)) (disp (cmd 0x935 0 64 0 (at_ 22 0 1)) up) (admits_disp ?_)).1 ?_ (settled_of _ rfl)
  have := (h.2.2.2.2.2.2.2.2.2.2.1 (cmd 0x935 0 0 0 (at_ 22 0 1)) (disp (cmd 0x935 0 0 0 (at_ 22 0 1)) dumped) (admits_disp ?_)).2.1 ?_ ?_ (settled_of _ rfl)
  have := (h.2.2.2.2.2.2.2.2.2.2.1 (cmd 0x935 0 64 0 (at_ 22 0 1)) (disp (cmd 0x935 0 64 0 (at_ 22 0 1)) dumped) (admits_disp ?_)).2.2 _ _ _ ?_ ?_ (triple_of (by decide +kernel)) (pair_of (by decide +kernel))
  have := ((h.2.2.2.2.2.2.2.2.2.2.2.1 (cntCmd 0xA01 0) (disp (cntCmd 0xA01 0) owned) _ (one_unit _ _ ?_ ?_ ?_) ?_).1 (admits_disp ?_) ?_).1 ?_ (settled_of _ rfl)
  have := ((h.2.2.2.2.2.2.2.2.2.2.2.1 (cntCmd 0xA01 128) (disp (cntCmd 0xA01 128) owned) _ (one_unit _ _ ?_ ?_ ?_) ?_).1 (admits_disp ?_) ?_).2 _ ?_ ?_ (pair_of (by decide +kernel))
  have := (h.2.2.2.2.2.2.2.2.2.2.2.1 (profCmd 10 7) (disp (profCmd 10 7) owned) _ (one_unit _ _ ?_ ?_ ?_) ?_).2.1 (admits_disp ?_) (settled_of _ rfl) (.inr ?_) ?_ ?_ ?_
  have := (h.2.2.2.2.2.2.2.2.2.2.2.1 (profCmd 0 20) (disp (profCmd 0 20) owned) _ (one_unit _ _ ?_ ?_ ?_) ?_).2.1 (admits_disp ?_) (settled_of _ rfl) (.inl ?_) ?_ ?_ ?_
  have := (h.2.2.2.2.2.2.2.2.2.2.2.1 (profCmd 9 7) (disp (profCmd 9 7) owned) _ (one_unit _ _ ?_ ?_ ?_) ?_).2.2.1 (admits_disp ?_) (settled_of _ rfl) (.inl ⟨?_, ?_⟩)
  have := (h.2.2.2.2.2.2.2.2.2.2.2.1 (profCmd 10 6) (disp (profCmd 10 6) owned) _ (one_unit _ _ ?_ ?_ ?_) ?_).2.2.1 (admits_disp ?_) (settled_of _ rfl) (.inr (.inl ?_))
  have := (h.2.2.2.2.2.2.2.2.2.2.2.1 (profCmd 10 21) (disp (profCmd 10 21) owned) _ (one_unit _ _ ?_ ?_ ?_) ?_).2.2.1 (admits_disp ?_) (settled_of _ rfl) (.inr (.inr (.inl ?_)))
  have := (h.2.2.2.2.2.2.2.2.2.2.2.1 (cmd 0xA04 0 0 0 (at_ 16 0 8 + at_ 24 0 1)) (disp (cmd 0xA04 0 0 0 (at_ 16 0 8 + at_ 24 0 1)) owned) _ (one_unit _ _ ?_ ?_ ?_) ?_).2.2.2 (admits_disp ?_) (settled_of _ rfl)
  have := (h.2.2.2.2.2.2.2.2.2.2.2.2.1 up).1 ?_ (settled_of _ rfl)
  have := ((h.2.2.2.2.2.2.2.2.2.2.2.2.1 (late 9999 (profiling false))).2 _ _ rfl rfl).1 ?_ (settled_of _ rfl)
  have := ((h.2.2.2.2.2.2.2.2.2.2.2.2.1 (late 10000 (profiling true))).2 _ _ rfl rfl).2.1 ?_ (by decide +kernel) (settled_of _ rfl)
  have := ((h.2.2.2.2.2.2.2.2.2.2.2.2.1 (late 10000 (profiling false))).2 _ _ rfl rfl).2.2 ?_ (by decide +kernel)
  have := h.2.2.2.2.2.2.2.2.2.2.2.2.2 (cmd 0xA03 0 64 0 (at_ 32 0 1)) (disp (cmd 0xA03 0 64 0 (at_ 32 0 1)) owned) _ (admits_disp ?_) ?_ (pair_of (by decide +kernel))
  all_goals trivial

/-! ## Well-formedness: a term for each check that the check refuses -/

/-- A well-formed command, access, doorbell, message, request and lookup, and how each is spoilt. -/
def okCmd : Cmd := cmd 0x0100 0 0 0 0
def okAcc : RegAccess := { who := ⟨0, 0⟩, addr := 0x10, size := 4, write := true, value := 5 }
def okBell : Doorbell := { part := 1, port := 1, off := 16, size := 4, read := false, value := 7 }
def okMsg : WeftMsg := mkMsg 1 2 3 0 0 0 [9]
def okFlit : Flit := headFlit okMsg
def okReq : SpoolReq :=
  { src := 1, ctx := 2, off := 64, kind := .read 64, errs := [(0, [575])], badGranule := false, badCtx := false }
def okHost : HostMemReq := { port := 1, off := 64, data := some (List.replicate 64 0), poison := false, own := false, errs := [575] }
def okLook : Lookup :=
  { heddle := 7, holder := 9, ctx := 1, part := 63, va := 64, len := 8, access := .read, object := 5, otype := 0, remote := false }

theorem wf_accepts : (okCmd.wf && okAcc.wf && okBell.wf && okMsg.wf && okReq.wf && okHost.wf && okLook.wf &&
    Instr.wf (.nop okCmd) && Instr.wf (.weftMessageReceive 7 39 okMsg) && Instr.wf (.weftMessageReceive 36 377 okMsg)) = true := by
  decide

theorem wf_refuses_skeins : SkeinRef.wf (.admin 64) = false ∧ SkeinRef.wf (.ord 16384) = false := by decide

theorem wf_refuses_commands :
    [{ okCmd with skein := .ord 16384 }, { okCmd with skein := .ord 1, part := 64 }, { okCmd with sqHead := 65536 },
     { okCmd with packet := [] }, { okCmd with packet := List.replicate 320 0 }, { okCmd with packet := List.replicate 100 0 },
     { okCmd with part := 1 }].any Cmd.wf = false := by decide

theorem wf_refuses_requesters : [⟨0, 6⟩, ⟨0, 1⟩, ⟨64, 1⟩, ⟨1, 3⟩].any Requester.wf = false := by decide

theorem wf_refuses_accesses :
    [{ okAcc with who := ⟨1, 0⟩ }, { okAcc with size := 0, value := 0 }, { okAcc with size := 9 }, { okAcc with value := 2 ^ 32 },
     { okAcc with write := false }, { okAcc with who := ⟨0, 3⟩, space := .bar4 }].any RegAccess.wf = false := by decide

theorem wf_refuses_doorbells :
    [{ okBell with part := 64 }, { okBell with port := 2 }, { okBell with off := 2 ^ 19 }, { okBell with size := 0, value := 0 },
     { okBell with size := 9 }, { okBell with value := 2 ^ 32 }, { okBell with read := true }].any Doorbell.wf = false := by decide

theorem wf_refuses_flits :
    [{ okFlit with dest := 65536 }, { okFlit with src := 65536 }, { okFlit with ctx := 65536 }, { okFlit with vc := 3 },
     { okFlit with pos := 4 }, { okFlit with stream := 256 }, { okFlit with kind := 4 }, { okFlit with par := 256 },
     { okFlit with spar := 4 }, { okFlit with payload := [1] }].any Flit.wf = false := by decide

theorem wf_refuses_messages : [⟨[]⟩, ⟨[okFlit, { okFlit with vc := 3 }]⟩].any WeftMsg.wf = false := by decide

theorem wf_refuses_memory_requests :
    [{ okReq with src := 65536 }, { okReq with ctx := 65536 }, { okReq with off := 2 ^ 56 }, { okReq with errs := [(0, [576])] },
     { okReq with kind := .read 0 }, { okReq with kind := .write [] false }, { okReq with kind := .atomic .add (2 ^ 64) 0 },
     { okReq with kind := .atomic .add 0 (2 ^ 64) }].any SpoolReq.wf = false := by decide

theorem wf_refuses_host_requests :
    [{ okHost with port := 2 }, { okHost with off := 2 ^ 56 }, { okHost with data := some [1] },
     { okHost with errs := [576] }].any HostMemReq.wf = false := by decide

theorem wf_refuses_lookups :
    [{ okLook with heddle := 8 }, { okLook with ctx := 65536 }, { okLook with part := 64 }, { okLook with otype := 3 },
     { okLook with va := 2 ^ 64 }].any Lookup.wf = false := by decide

theorem wf_refuses_starts :
    [(⟨true, 2 ^ 40, 0, [], 0⟩ : StartInfo), ⟨true, 0, 2 ^ 16, [], 0⟩].any StartInfo.wf = false := by decide

theorem wf_refuses_sensors : [Sensor.domain 80, .island 40, .dram 16].any Sensor.wf = false := by decide

theorem wf_refuses_sources : [RedSrc.acc 8, .rank 65536].any RedSrc.wf = false := by decide

/-- 65 536 in place `k` alone. -/
def spoilt (i k : Nat) : Nat := if i = k then 65536 else 0

theorem wf_refuses_polls :
    PmbPoll.wf ⟨64, none⟩ = false ∧
      (List.range 4).any (fun i => PmbPoll.wf ⟨0, some (spoilt i 0, spoilt i 1, spoilt i 2, spoilt i 3)⟩) = false := by decide

/-- One row for each kind of operand, one past its bound; the rows of a family take the same check. -/
theorem wf_refuses_rows : ([.registerWrite { okAcc with size := 9 }, .sqTail { okBell with port := 2 }, .spoolRequest { okReq with src := 65536 },
   .hostCxlMemRequest { okHost with port := 2 }, .translationLookup { okLook with part := 64 }, .skeinEntryReturn (.admin 64) [],
   .weftMessageReceive 40 0 okMsg, .weftMessageReceive 8 20 okMsg, .weftMessageReceive 36 378 okMsg,
   .weftMessageReceive 0 0 ⟨[]⟩, .weftCreditReturn 38 2 0, .weftCreditReturn 0 40 0, .weftCreditReturn 0 0 3, .timeSampleReply 40,
   .scrubLineStep 16 [], .scrubLineStep 0 [(64, [])], .scrubLineStep 0 [(0, [576])], .zeroingComplete 16, .tableCopyUpdate 65536,
   .holderAck 0 8 0, .holderAck 0 0 65536, .skeinServe 32, .msixUnmask 64 0 false, .msixUnmask 0 2048 false,
   .pacedSend 1048576 {}, .rxWrite 8 [] [], .commStateDelivery 4096 0, .commStateDelivery 0 32, .peerEntryRead 4096 0 [],
   .peerEntryRead 0 65536 [], .shadowLaneAdvance 32, .launchGrant 64, .limitMsExpiry 64 0, .limitMsExpiry 0 65536,
   .sop 512 .none] : List Instr).any Instr.wf = false := by decide

theorem wf_refuses_events : ([.h2dSnoop 2 0 false, .h2dSnoop 0 (2 ^ 50) false, .cxlLinkDown 2, .cxlLinkUp 2 1 8 false, .cxlLinkUp 0 8 8 false,
   .cxlLinkUp 0 1 17 false, .spdmRequest 2 false [], .accTmoExpiry 8 0, .accTmoExpiry 0 4096,
   .tchTrainingStepDone 0 ⟨false, false, 1, 2 ^ 64, 64, 64, 512⟩, .subportLinkDown 8 0, .subportLinkDown 0 8,
   .cipherJobArrival 1048576 ⟨0, 0⟩, .cipherJobArrival 0 ⟨65536, 0⟩, .cipherJobArrival 0 ⟨0, 8193⟩, .cipherJobComplete 16,
   .tokenRequest 65536 0, .tokenRequest 0 64, .domainWake 80, .pmbusAlert 48 none, .crossStall 36 0, .crossStall 0 65536,
   .coreStall 36, .porNRelease 16, .startStepOverrun 16 false, .functionLevelReset 2 0 false, .functionLevelReset 0 64 false,
   .vfEnable 2 0 false, .vfEnable 0 65536 false, .sgmiiAutoNegotiation 65536] : List Instr).any Instr.wf = false := by decide



/-! ## Small tests of single commands and rules, from the manual's examples and from public test values -/

/-- The state a command leaves. -/
def after : Host.Outcome State Fault Refusal → State
  | .next t => t
  | _ => up

/-- The manual's example of R11 and R13. -/
theorem test_unit_ids : reed (4 * 5 + 2) = 0x1482 ∧ bobbin (32 * 3 + 17) = 0x2D51 ∧ ethPort 6 = 0x79C0 ∧ controller 8 = 0x4180 := by
  decide

/-- The manual's example of R37: granule and stack of an offset. -/
theorem test_spool_geometry : granuleOf 0x0123456789C0 = 0x1234 ∧ stackOf 0x0123456789C0 = 8 := by decide

/-- The manual's examples of R258: stack addresses of the offsets 2^40 and 2^40 + 2^27, on stack 0. -/
theorem test_stack_addresses : stackOff 0 0x1000000000 = 2 ^ 40 ∧ stackOff 0 0x1000800000 = 2 ^ 40 + 2 ^ 27 := by decide

/-- The manual's encodings in its streamed dot product (R266). -/
theorem test_instruction_fields :
    (insOp 0x582A0000, fD 0x582A0000, fA 0x582A0000) = (0x16, 1, 10) ∧
    (insOp 0x80011020, fD 0x80011020, fA 0x80011020, fB 0x80011020, fType 0x80011020) = (0x20, 0, 1, 2, 1) ∧
    (insOp 0x094A1000, fD 0x094A1000, fA 0x094A1000, fImm 0x094A1000) = (0x02, 10, 10, 4096) := by decide

/-- One of those instructions issued: `SADDI s10, s10, 4096`. -/
theorem test_saddi_issues :
    sreg (bobbinOf (after (exec (.saddi 0 .none) (bobAt 0x02 0x14A1000 { s := [(10, 64)] }))) 0) 10 = 4160 := by decide +kernel

/-- The manual's example of R97: an inline transfer of 100 bytes has `SPAN` 2 and `INLINE` 1. -/
theorem test_inline_span :
    issueCheck descWrite { cmd 0x0310 6 100 0 0 with packet := List.take 192 (leBytes 2 0x0310 ++ leBytes 2 6 ++ leBytes 4 100 ++
      leBytes 184 0) } = none := by decide +kernel

/-- The manual's example of a sequence (R303): 32 layers, 8 heads, groups of 2, 128 dimensions, BF16, 4 112 spans. -/
theorem test_sequence_geometry :
    let g := BitVec.ofNat 128 (0x4000000000 + 2 ^ 64 * 4112 + 2 ^ 96 * 31 + 2 ^ 104 * 7 + 2 ^ 112 * 1 + 2 ^ 116 * 1)
    kvTokens g = 16 ∧ seqCapacity g = 1052672 ∧ seqRegion g = 32 * 8 * 4112 ∧ (regionGranules g).length = 514 ∧
      (regionGranules g).head? = some 1024 := by decide +kernel

/-- The manual's example of fast-mode sums in two arrival orders (R235). -/
theorem test_fast_sums :
    combine 0 (combine 0 (.fp 0x3F800000) (.fp 0x4B800000)) (.fp 0xCB800000) = .fp 0 ∧
    combine 0 (combine 0 (.fp 0xCB800000) (.fp 0x3F800000)) (.fp 0x4B800000) = .fp 0x3F800000 := by decide

/-- The manual's example of exact checks (R250). -/
theorem test_exact_checks :
    checkOf [exactOf (fp32.decode 0x3F800000), exactOf (fp32.decode 0x35800000), exactOf (fp32.decode 0xBF400000)] = 33554560 ∧
    checkOf [exactOf (fp32.decode 0xCB800000), exactOf (fp32.decode 0x40400000), exactOf (fp32.decode 0x3E800000)]
      = 2303591209836216319 := by decide +kernel

/-- The manual's example of R412: 1 500 W under Balanced. -/
theorem test_power_shares :
    let s := { up with pwr := { up.pwr with budgetW := 1500, profile := 0 } }
    active s = 4104 ∧ shareOf s 1 = 1436 ∧ shareOf s 2 = 1231 := by decide

/-- The manual's example of an IV (R384). -/
theorem test_gcm_iv : gcmIv 5 0x12A3F = [0, 0, 0, 5, 0, 0, 0, 0, 0, 1, 0x2A, 0x3F] := by decide

/-- The manual's example of a conflict (R125): firmware, then the driver, write `SPL.SCRUB_CFG`. -/
theorem test_register_conflict :
    let first := after (exec (.registerWrite { who := ⟨0, 3⟩, addr := 0x680010, size := 4, write := true, value := 0x40F0 }) up)
    let t := after (exec (.registerWrite { who := ⟨0, 0⟩, addr := 0x680010, size := 4, write := true, value := 0x4078 }) first)
    t.spl.periodMin = 120 ∧ (conflictOf t 6).seen = true ∧ (conflictOf t 6).cause = false ∧ (conflictOf t 6).offset = 0x80010 ∧
      (conflictOf t 6).cls = 3 ∧ (conflictOf t 6).value = 0x40F0 := by decide +kernel

/-- Public check values of CRC-32C and CRC-64/WE over the digits 1 to 9. -/
theorem test_crcs :
    crc32c [0x31, 0x32, 0x33, 0x34, 0x35, 0x36, 0x37, 0x38, 0x39] = 0xE3069283 ∧
    crc64 [0x31, 0x32, 0x33, 0x34, 0x35, 0x36, 0x37, 0x38, 0x39] = 0x62EC59E3F1A4F00A := by decide +kernel

/-- The AES-256 example of FIPS 197. -/
theorem test_aes :
    aesEnc (roundKeys (List.range 32)) ((List.range 16).map (17 * ·)) =
      [0x8E, 0xA2, 0xB7, 0xCA, 0x51, 0x67, 0x45, 0xBF, 0xEA, 0xFC, 0x49, 0x90, 0x4B, 0x49, 0x60, 0x89] := by decide +kernel

/-- The published GCM case of a zero key, a zero IV and one zero block. -/
theorem test_gcm :
    gcmSeal (List.replicate 32 0) (List.replicate 12 0) [] (List.replicate 16 0) =
      ([0xCE, 0xA7, 0x40, 0x3D, 0x4D, 0x60, 0x6B, 0x6E, 0x07, 0x4E, 0xC5, 0xD3, 0xBA, 0xF3, 0x9D, 0x18],
       [0xD0, 0xD1, 0xC8, 0xA7, 0x99, 0x99, 0x6B, 0xF0, 0x26, 0x5B, 0x98, 0xB5, 0xD4, 0x8A, 0xB9, 0x19]) := by decide +kernel

/-- A command at the front of the queue is taken first, and an empty queue stays empty. -/
theorem test_queue_order :
    (after (step { up with pending := [.timePair okCmd, .nop okCmd] })).pending = [.nop okCmd] ∧
    (after (step { up with pending := [] })).pending = [] := by decide +kernel

end Sys2Proof.Tests
end

section
/-! PROOFS. Codes and little-endian fields (R3, R104). -/

namespace Sys2Proof.Machine

/-! ## Status codes (R104) -/

@[simp] theorem statusOf_statusCode (st : Status) : statusOf (statusCode st) = some st := by
  cases st <;> rfl

/-- Codes 0x16 to 0xFF, and what no byte holds, are reserved. -/
theorem statusOf_reserved {n : Nat} (h : 0x15 < n) : statusOf n = none := by
  obtain ⟨k, rfl⟩ := Nat.exists_eq_add_of_le' h
  rfl

theorem statusOf_assigned : ∀ n < 0x16, (statusOf n).map statusCode = some n := by decide

theorem statusCode_of_statusOf {n : Nat} {st : Status} (h : statusOf n = some st) : statusCode st = n := by
  have hn : n < 0x16 := by
    by_contra hn
    simp [statusOf_reserved (Nat.le_of_not_lt hn)] at h
  simpa [h] using statusOf_assigned n hn

/-! ## Little-endian fields (R3) -/

@[simp] theorem leBytes_length (n v : Nat) : (leBytes n v).length = n := by
  induction n generalizing v with
  | zero => rfl
  | succ n ih => simp [leBytes, ih]

/-- The lowest byte stands first and the rest above it, as a number splits at its lowest byte. -/
theorem leNat_leBytes (n v : Nat) : leNat (leBytes n v) = v % 256 ^ n := by
  induction n generalizing v with
  | zero => simp [leBytes, leNat, Nat.mod_one]
  | succ n ih => simp [leBytes, leNat, ih, Nat.pow_succ', Nat.mod_mul]

@[simp] theorem byteAt_cons_zero (b : Byte) (bs : List Byte) : byteAt (b :: bs) 0 = b.toNat := rfl

@[simp] theorem byteAt_cons_succ (b : Byte) (bs : List Byte) (k : Nat) : byteAt (b :: bs) (k + 1) = byteAt bs k := rfl

/-- A field of a number without its lowest byte stands eight bits higher in the number. -/
theorem bits_div_byte (v lo w : Nat) : bits (v / 256) lo w = bits v (lo + 8) w := by
  simp [bits, Nat.div_div_eq_div_mul, Nat.pow_add, Nat.mul_comm]

theorem byteAt_leBytes {n k : Nat} (h : k < n) (v : Nat) : byteAt (leBytes n v) k = bits v (8 * k) 8 := by
  induction n generalizing v k with
  | zero => omega
  | succ n ih =>
    cases k with
    | zero => simp [leBytes, bits]
    | succ k => simpa [leBytes, bits_div_byte, Nat.mul_succ] using ih (by omega) (v / 256)

/-- Settles O7: by cases of the status, and by induction on the number of bytes. -/
theorem codesAndFieldsRoundTrip : Obligations.CodesAndFieldsRoundTrip :=
  ⟨statusOf_statusCode, fun _ _ => statusCode_of_statusOf, fun _ => statusOf_reserved,
    fun n v => ⟨leNat_leBytes n v, leBytes_length n v, fun _ hk => byteAt_leBytes hk v⟩⟩

end Sys2Proof.Machine
end

section
/-! PROOFS. Accesses of the register window (R5, R125, R329, R331, R431) and of the MSI-X table (R330). -/

namespace Sys2Proof.Machine

variable {who : Requester} {addr base v : Nat} {r : Reg} {s : State}

/-! ## What an access reaches -/

theorem blockOf_lt_of_regAt (hr : regAt addr = some r) : blockOf addr < blocks := by
  by_contra hb
  simp [regAt, Nat.le_of_not_lt hb] at hr

/-- The blocks of registers end below the CXL component registers, so neither half of a register lies among those. -/
theorem inComponent_add_of_regAt (hr : regAt addr = some r) {k : Nat} (hk : k < 8) : inComponent (addr + k) = false := by
  have hb := blockOf_lt_of_regAt hr
  simp only [blockOf, blocks] at hb
  simp only [inComponent, Bool.and_eq_false_iff, decide_eq_false_iff_not]
  omega

theorem inComponent_of_regAt (hr : regAt addr = some r) : inComponent addr = false :=
  inComponent_add_of_regAt hr (by decide : 0 < 8)

theorem hit32_whole (hr : regAt addr = some r) (hw : r.wide = false) : hit32 addr = .whole r := by
  simp [hit32, hr, hw]

theorem hit32_low (hr : regAt addr = some r) (hw : r.wide = true) : hit32 addr = .low r := by
  simp [hit32, hr, hw]

theorem hit32_high (hr : regAt base = some r) (hw : r.wide = true) (hb : base % 8 = 0)
    (hn : regAt (base + 4) = none) : hit32 (base + 4) = .high r base := by
  have h4 : (base + 4) % 8 = 4 := by omega
  simp [hit32, hr, hw, hn, h4]

theorem hit32_nothing (hn : regAt addr = none) (ha : addr % 8 = 0) : hit32 addr = .nothing := by
  simp [hit32, hn, ha]

theorem byteOwner_of_regAt (hr : regAt addr = some r) (ha : addr % 4 = 0) : byteOwner addr = (r.unit, addr) := by
  cases hw : r.wide with
  | false => simp [byteOwner, ha, hit32_whole hr hw]
  | true => simp [byteOwner, ha, hit32_low hr hw]

theorem wideAt_of_regAt (hr : regAt addr = some r) (hw : r.wide = true) : wideAt addr = some r := by
  simp [wideAt, hr, hw]

/-! ## An access as its row makes it -/

theorem exec_registerWrite (a : RegAccess) (s : State) :
    exec (.registerWrite a) s = .next (ended s (regAccess a s)) := rfl

theorem regAccess_readAt (who : Requester) (addr size : Nat) (s : State) :
    regAccess (readAt who addr size) s = answerRead who (regRead who addr size s) := rfl

theorem regAccess_writeAt (who : Requester) (addr size v : Nat) (s : State) :
    regAccess (writeAt who addr size v) s = regWrite who addr size v s := rfl

/-! ## Reads -/

theorem regRead_closed (hopen : windowOpen s who addr = false) (size : Nat) : regRead who addr size s = (s, 0) := by
  simp [regRead, hopen]

/-- A virtual function's read of what it does not reach answers 0 (R331). -/
theorem regRead_unreached (hcls : who.cls = 1) (hmay : mayRead who addr = false) :
    regRead who addr 4 s = (s, 0) := by
  simp [regRead, read32, hcls, hmay]

section
variable (hopen : windowOpen s who addr = true) (hthere : absentFunction s who = false)
include hopen hthere

theorem regRead_word (halign : addr % 4 = 0) (hcomp : inComponent addr = false) :
    regRead who addr 4 s = read32 who addr s := by
  simp [regRead, hopen, hthere, natural, halign, hcomp]

theorem regRead_wide (halign : addr % 8 = 0) (hr : regAt addr = some r) (hw : r.wide = true)
    (hmay : mayRead who addr = true) : regRead who addr 8 s = (r.onRead who s, r.val s % 2 ^ 64) := by
  simp [regRead, hopen, hthere, natural, halign, inComponent_of_regAt hr, wideAt_of_regAt hr hw, hmay]

theorem regRead_whole (halign : addr % 4 = 0) (hr : regAt addr = some r) (hw : r.wide = false)
    (hmay : mayRead who addr = true) : regRead who addr 4 s = (r.onRead who s, r.val s % 2 ^ 32) := by
  rw [regRead_word hopen hthere halign (inComponent_of_regAt hr)]
  simp [read32, hmay, hit32_whole hr hw]

theorem regRead_low (halign : addr % 8 = 0) (hr : regAt addr = some r) (hw : r.wide = true)
    (hmay : mayRead who addr = true) : regRead who addr 4 s = readHalf r addr who false s := by
  rw [regRead_word hopen hthere (by omega) (inComponent_of_regAt hr)]
  simp [read32, hmay, hit32_low hr hw]

theorem regRead_nothing (halign : addr % 8 = 0) (hn : regAt addr = none) (hcomp : inComponent addr = false) :
    regRead who addr 4 s = (s, 0) := by
  rw [regRead_word hopen hthere (by omega) hcomp]
  simp [read32, hit32_nothing hn halign]

end

theorem regRead_high (hopen : windowOpen s who (base + 4) = true) (hthere : absentFunction s who = false)
    (halign : base % 8 = 0) (hr : regAt base = some r) (hw : r.wide = true) (hn : regAt (base + 4) = none)
    (hmay : mayRead who (base + 4) = true) : regRead who (base + 4) 4 s = readHalf r base who true s := by
  rw [regRead_word hopen hthere (by omega) (inComponent_add_of_regAt hr (by decide))]
  simp [read32, hmay, hit32_high hr hw halign hn]

/-! ## Writes -/

theorem regWrite_closed (hopen : windowOpen s who addr = false) (size v : Nat) : regWrite who addr size v s = s := by
  simp [regWrite, hopen]

theorem regWrite_absent (hopen : windowOpen s who addr = true) (habsent : absentFunction s who = true) (size v : Nat) :
    regWrite who addr size v s = countVfDeny s := by
  simp [regWrite, hopen, habsent]

section
variable (hopen : windowOpen s who addr = true) (hthere : absentFunction s who = false)
include hopen hthere

/-- A virtual function's write of what it does not reach is dropped, whatever stands there (R331). -/
theorem regWrite_unreached (hcls : who.cls = 1) (hmay : mayWrite who addr = false) :
    regWrite who addr 4 v s = vfDenied s := by
  simp [regWrite, hopen, hthere, oddWrite, write32, hcls, hmay]

theorem regWrite_word (halign : addr % 4 = 0) (hcomp : inComponent addr = false) :
    regWrite who addr 4 v s = write32 who addr (v % 2 ^ 32) s := by
  simp [regWrite, hopen, hthere, natural, halign, hcomp]

theorem regWrite_wide (halign : addr % 8 = 0) (hr : regAt addr = some r) (hw : r.wide = true)
    (hmay : mayWrite who addr = true) : regWrite who addr 8 v s = writeWhole r addr who (v % 2 ^ 64) s := by
  simp [regWrite, hopen, hthere, natural, halign, inComponent_of_regAt hr, wideAt_of_regAt hr hw, hmay]

theorem regWrite_whole (halign : addr % 4 = 0) (hr : regAt addr = some r) (hw : r.wide = false)
    (hmay : mayWrite who addr = true) : regWrite who addr 4 v s = writeWhole r addr who (v % 2 ^ 32) s := by
  rw [regWrite_word hopen hthere halign (inComponent_of_regAt hr)]
  simp [write32, hmay, hit32_whole hr hw]

theorem regWrite_low (halign : addr % 8 = 0) (hr : regAt addr = some r) (hw : r.wide = true)
    (hmay : mayWrite who addr = true) : regWrite who addr 4 v s = writeHalf r addr who false (v % 2 ^ 32) s := by
  rw [regWrite_word hopen hthere (by omega) (inComponent_of_regAt hr)]
  simp [write32, hmay, hit32_low hr hw]

theorem regWrite_nothing (halign : addr % 8 = 0) (hn : regAt addr = none) (hcomp : inComponent addr = false)
    (hmay : mayWrite who addr = true) : regWrite who addr 4 v s = s := by
  rw [regWrite_word hopen hthere (by omega) hcomp]
  simp [write32, hmay, hit32_nothing hn halign]

/-- Half a word is no access of a register: it is recorded at the register that starts there (R5, R125). -/
theorem regWrite_odd (halign : addr % 4 = 0) (hr : regAt addr = some r) (hmay : mayWrite who addr = true) :
    regWrite who addr 2 v s = noteConflict r.unit addr true who (v % 2 ^ 16) s := by
  have hb : ¬ blocks ≤ blockOf addr := (blockOf_lt_of_regAt hr).not_ge
  simp [regWrite, hopen, hthere, natural, oddWrite, hmay, hb, byteOwner_of_regAt hr halign]

end

theorem regWrite_high (hopen : windowOpen s who (base + 4) = true) (hthere : absentFunction s who = false)
    (halign : base % 8 = 0) (hr : regAt base = some r) (hw : r.wide = true) (hn : regAt (base + 4) = none)
    (hmay : mayWrite who (base + 4) = true) :
    regWrite who (base + 4) 4 v s = writeHalf r base who true (v % 2 ^ 32) s := by
  rw [regWrite_word hopen hthere (by omega) (inComponent_add_of_regAt hr (by decide))]
  simp [write32, hmay, hit32_high hr hw halign hn]

theorem writeWhole_admitted {u : State} (h : r.wr who v s = some u) :
    writeWhole r addr who v s = written r.unit addr who v u := by
  simp [writeWhole, h, written, admitWrite]

theorem writeWhole_refused (h : r.wr who v s = none) :
    writeWhole r addr who v s = noteConflict r.unit addr true who v s := by
  simp [writeWhole, h]

/-! ## The MSI-X table (R330) -/

section
variable (hcls : who.cls ≤ 1) (hthere : absentFunction s who = false) (halign : addr % 4 = 0)
include hcls hthere halign

theorem regAccess_bar4_read :
    regAccess { readAt who addr 4 with space := .bar4 } s = answerRead who (s, tableRead who.part addr s) := by
  simp [regAccess, functionAccess, readAt, natural, dwordRead, hthere, halign, Nat.not_lt_of_le hcls]

theorem regAccess_bar4_write (v : Nat) :
    regAccess { writeAt who addr 4 v with space := .bar4 } s = tableWrite who.part addr (v % 2 ^ 32) s := by
  simp [regAccess, functionAccess, writeAt, natural, dwordWrite, hthere, halign, Nat.not_lt_of_le hcls]

end

end Sys2Proof.Machine
end

section
/-! PROOFS. The accesses of a register, put together. -/

namespace Sys2Proof.Machine

/-- Settles O25, by cases of what stands at the address and of who may reach it. -/
theorem registerAccessesReadAndWrite : Obligations.RegisterAccessesReadAndWrite := by
  intro who addr v s
  simp only [exec_registerWrite, regAccess_readAt, regAccess_writeAt]
  refine ⟨fun hopen hthere => ⟨?readWide, ?readWhole, ?readHigh, ?writeWide, ?writeWhole, ?writeHigh, ?writeOdd,
    ?nothing, ?writeUnreached, ?readUnreached⟩, ?admitted, ?refused, ?closed, ?absent, ?table⟩
  case readWide =>
    intro r hr hw halign hmay
    rw [regRead_wide hopen hthere halign hr hw hmay, regRead_low hopen hthere halign hr hw hmay]
    exact ⟨rfl, rfl, rfl⟩
  case readWhole =>
    intro r hr hw halign hmay
    rw [regRead_whole hopen hthere halign hr hw hmay]
  case readHigh =>
    rintro r base hr hw rfl halign hn hmay
    rw [regRead_high hopen hthere halign hr hw hn hmay]
    rfl
  case writeWide =>
    intro r hr hw halign hmay
    rw [regWrite_wide hopen hthere halign hr hw hmay, regWrite_low hopen hthere halign hr hw hmay]
    exact ⟨rfl, rfl⟩
  case writeWhole =>
    intro r hr hw halign hmay
    rw [regWrite_whole hopen hthere halign hr hw hmay]
  case writeHigh =>
    rintro r base hr hw rfl halign hn hmay
    rw [regWrite_high hopen hthere halign hr hw hn hmay]
    rfl
  case writeOdd =>
    intro r hr halign hmay
    rw [regWrite_odd hopen hthere halign hr hmay]
  case nothing =>
    intro hn halign hcomp
    refine ⟨by rw [regRead_nothing hopen hthere halign hn hcomp], fun hmay => ?_⟩
    rw [regWrite_nothing hopen hthere halign hn hcomp hmay]
  case writeUnreached =>
    intro hcls hmay
    rw [regWrite_unreached hopen hthere hcls hmay]
  case readUnreached =>
    intro hcls hmay
    rw [regRead_unreached hcls hmay]
  case admitted => exact fun r u h => writeWhole_admitted h
  case refused => exact fun r h => writeWhole_refused h
  case closed =>
    intro hopen
    rw [regRead_closed hopen, regWrite_closed hopen]
    exact ⟨rfl, rfl⟩
  case absent =>
    intro hopen habsent
    rw [regWrite_absent hopen habsent]
  case table =>
    intro hcls hthere halign
    rw [regAccess_bar4_read hcls hthere halign, regAccess_bar4_write hcls hthere halign]
    exact ⟨rfl, rfl⟩

end Sys2Proof.Machine
end

section
/-! PROOFS. What a command leaves alone: the queue and the die counters (R28). -/

namespace Sys2Proof.Machine

/-- A row that begins or ends the supply of the always-on islands ends as every command does, for some state it met that has
the same queue. -/
theorem exec_supply_ends (i : Instr) (s : State) (h : isSupply i = true) :
    ∃ u t, exec i s = .next (ended u t) ∧ u.pending = s.pending := by
  cases i with
  | vddAoInTolerance =>
    simp only [exec, execVddAoInTolerance]
    split
    · exact ⟨s, s, rfl, rfl⟩
    · exact ⟨_, _, rfl, rfl⟩
  | vddAoLoss => exact ⟨_, _, rfl, rfl⟩
  | _ => cases h

theorem isSupply_false {i : Instr} (hin : i ≠ .vddAoInTolerance) (hloss : i ≠ .vddAoLoss) : isSupply i = false := by
  cases i with
  | vddAoInTolerance => exact absurd rfl hin
  | vddAoLoss => exact absurd rfl hloss
  | _ => rfl

/-- Settles O3: every row but the two of the supply ends with the queue and the counters it met, and those two with the queue. -/
theorem everyCommandAnswersAndKeepsTheQueue : Obligations.EveryCommandAnswersAndKeepsTheQueue := by
  intro i s
  by_cases h : isSupply i = true
  · obtain ⟨u, t, he, hq⟩ := exec_supply_ends i s h
    refine ⟨ended u t, he, hq, fun hin hloss => ?_⟩
    rw [isSupply_false hin hloss] at h
    cases h
  · obtain ⟨t, he⟩ := exec_ends i s (by simpa using h)
    exact ⟨ended s t, he, rfl, fun _ _ => rfl⟩

end Sys2Proof.Machine
end

section
/-! PROOFS. Folds of updates of the state. -/

namespace Sys2Proof.Machine

/-- What every update of a fold keeps between the state before and the state after, the fold keeps. -/
theorem foldl_related {β : Type} {R : State → State → Prop} {f : State → β → State} (refl : ∀ s, R s s)
    (trans : ∀ {s t u}, R s t → R t u → R s u) (h : ∀ s b, R s (f s b)) (l : List β) (s : State) : R s (l.foldl f s) := by
  induction l generalizing s with
  | nil => exact refl s
  | cons b r ih => exact trans (h s b) (ih _)

end Sys2Proof.Machine
end

section
/-! PROOFS. The passing of time: which free values it takes. -/

namespace Sys2Proof.Machine

/-- The number of the next free value, the ordered copy (R498) and the hang machinery stand as they did. -/
structure KeepsOrders (s t : State) : Prop where
  seed : t.seed = s.seed
  ordered : t.cnt.ordered = s.cnt.ordered
  hang : t.hang = s.hang

theorem KeepsOrders.refl (s : State) : KeepsOrders s s := ⟨rfl, rfl, rfl⟩

theorem KeepsOrders.trans {s t u : State} (h : KeepsOrders s t) (k : KeepsOrders t u) : KeepsOrders s u :=
  ⟨k.seed.trans h.seed, k.ordered.trans h.ordered, k.hang.trans h.hang⟩

theorem foldl_keepsOrders {β : Type} {f : State → β → State} (h : ∀ s b, KeepsOrders s (f s b)) (l : List β) (s : State) :
    KeepsOrders s (l.foldl f s) := foldl_related .refl .trans h l s

theorem bump_keepsOrders (u i n : Nat) (s : State) : KeepsOrders s (bump u i n s) := by
  unfold bump
  split
  · exact .refl s
  · exact ⟨rfl, rfl, rfl⟩

theorem bumpPart_keepsOrders (p i n : Nat) (s : State) : KeepsOrders s (bumpPart p i n s) := ⟨rfl, rfl, rfl⟩

theorem noteIdle_keepsOrders (s : State) : KeepsOrders s (noteIdle s) := ⟨rfl, rfl, rfl⟩

theorem tickPort_keepsOrders (n : Nat) (s : State) (k : Nat) : KeepsOrders s (tickPort n s k) := ⟨rfl, rfl, rfl⟩

theorem tickUnit_keepsOrders (t : Nat) (s : State) (u : Nat) : KeepsOrders s (tickUnit t s u) := by
  simp only [tickUnit]
  split
  · exact .refl s
  · refine KeepsOrders.trans ?_ ((bump_keepsOrders _ _ _ _).trans (bump_keepsOrders _ _ _ _))
    split <;> exact ⟨rfl, rfl, rfl⟩

theorem tickMember_keepsOrders (t : Nat) (s : State) (u : Nat) : KeepsOrders s (tickMember t s u) := by
  simp only [tickMember]
  split
  · exact .refl s
  · split
    · exact (bumpPart_keepsOrders _ _ _ _).trans (bump_keepsOrders _ _ _ _)
    · exact (bumpPart_keepsOrders _ _ _ _).trans (bump_keepsOrders _ _ _ _)
    · exact bumpPart_keepsOrders _ _ _ _

/-- The `ROUND` of an ordered copy belongs to no round of counters: it takes a free value of its own (R498). -/
theorem landCopy_ordered_seed {s : State} (h : s.cnt.ordered = true) : (landCopy s).seed = s.seed + 1 := by
  simp [landCopy, h, spend]

theorem landCopy_hang (s : State) : (landCopy s).hang = s.hang := by
  unfold landCopy
  split <;> rfl

theorem isoCheck_idle {s : State} (h : s.hang.iso = none) : isoCheck s = s := by
  simp [isoCheck, isoCheckFor, h]

/-- Time that passes while a copy is ordered and no unit is isolated takes one free value for the copy. -/
theorem passTime_ordered_seed (n : Nat) {s : State} (ho : s.cnt.ordered = true) (hi : s.hang.iso = none) :
    (passTime n s).seed = s.seed + 1 := by
  have keeps : ∀ t, KeepsOrders s t → (isoCheck (landCopy t)).seed = s.seed + 1 := by
    intro t h
    rw [isoCheck_idle (by rw [landCopy_hang, h.hang, hi]), landCopy_ordered_seed (h.ordered.trans ho), h.seed]
  refine keeps _ (.trans ?_ ((foldl_keepsOrders (tickUnit_keepsOrders n) _ _).trans
    (foldl_keepsOrders (tickMember_keepsOrders n) _ _)))
  split
  · exact (noteIdle_keepsOrders s).trans (foldl_keepsOrders (tickPort_keepsOrders n) _ _)
  · exact noteIdle_keepsOrders s

/-- A step with no command waiting takes a free value for itself, beside that of an ordered copy. -/
theorem step_ordered_seed {s : State} (hq : s.pending = []) (ho : s.cnt.ordered = true) (hi : s.hang.iso = none) :
    ∃ t, step s = .next t ∧ t.seed = s.seed + 2 := by
  refine ⟨_, by rw [step, hq]; rfl, ?_⟩
  rw [ended_seed, spend, passTime_ordered_seed _ ho hi]

/-- A device at its reset values in which a write of `CNT.SEL` has ordered a copy. -/
def copyOrdered : State := writeCntSel 0 State.reset

theorem copyOrdered_settled : settled copyOrdered := by
  refine ⟨rfl, ?_, ?_⟩
  · simp [faultPinFollows, copyOrdered, writeCntSel, State.reset]
  · exact fun _ => rfl

/-- Refutes O2: a copy of counters that `CNT.SEL` has ordered lands in the idle step (R498), and its `ROUND` takes a free value
too, so the step takes two where the statement counts one. -/
theorem not_idleStepAdvancesTheDieCounters : ¬ Obligations.IdleStepAdvancesTheDieCounters := by
  intro h
  obtain ⟨t, ht, -, -, -, -, -, -, -, -, -, hone⟩ := h.1 copyOrdered copyOrdered_settled rfl
  obtain ⟨u, hu, htwo⟩ := step_ordered_seed (s := copyOrdered) rfl rfl rfl
  have : t = u := by simpa using ht.symm.trans hu
  rw [this, htwo] at hone
  simp at hone

end Sys2Proof.Machine
end

section
/-! PROOFS. Commands and events that report nothing and drive no pin end with exactly their effect. -/

namespace Sys2Proof.Machine

/-- What reports, output pins and their causes stand on is as it was, and so are the queue and the die counters. -/
structure Undisturbed (s t : State) : Prop where
  saf : t.saf = s.saf
  pins : t.pins = s.pins
  fw : t.fw = s.fw
  hang : t.hang = s.hang
  pending : t.pending = s.pending
  time : t.time = s.time

theorem Undisturbed.refl (s : State) : Undisturbed s s := ⟨rfl, rfl, rfl, rfl, rfl, rfl⟩

theorem Undisturbed.trans {s t u : State} (h : Undisturbed s t) (k : Undisturbed t u) : Undisturbed s u :=
  ⟨k.saf.trans h.saf, k.pins.trans h.pins, k.fw.trans h.fw, k.hang.trans h.hang, k.pending.trans h.pending,
    k.time.trans h.time⟩

/-- An effect that disturbs nothing is what its command leaves, between settled states. -/
theorem ends_undisturbed {s t : State} (hs : settled s) (h : Undisturbed s t) : ends s t = .next t := by
  obtain ⟨hsaf, hpins, hfw, hhang, hq, htime⟩ := h
  rw [ends, ended_settled s t hs (by rw [hsaf]; exact hs.1) hpins (by rw [hfw]) (by rw [hhang]) (by rw [hsaf]) hq htime]

theorem completeRef_undisturbed (r : CmdRef) (st : Status) (res : List Nat) (unit : Nat) (s : State) :
    Undisturbed s (completeRef r st res unit s) := by
  rw [completeRef_frame]
  exact ⟨rfl, rfl, rfl, rfl, rfl, rfl⟩

theorem complete_undisturbed (c : Cmd) (st : Status) (res : List Nat) (unit : Nat) (s : State) :
    Undisturbed s (complete c st res unit s) := completeRef_undisturbed _ _ _ _ s

theorem begun_undisturbed (c : Cmd) (s : State) : Undisturbed s (begun c s) := ⟨rfl, rfl, rfl, rfl, rfl, rfl⟩

theorem turn_undisturbed (c : Cmd) (s : State) : Undisturbed s (turn c s) := ⟨rfl, rfl, rfl, rfl, rfl, rfl⟩

theorem holdCmd_undisturbed (c : Cmd) (s : State) : Undisturbed s (holdCmd c s) := by
  rw [holdCmd_frame]
  exact ⟨rfl, rfl, rfl, rfl, rfl, rfl⟩

/-! ## Commands -/

section
variable {d : OpDesc} {c : Cmd} {s : State} (fails : List (Bool × Status)) (run : State → State)

/-- A command that passes its checks and disturbs nothing leaves exactly its effect. -/
theorem runCmd_effect (hs : settled s) (ha : admits d c s) (hk : ∀ e ∈ fails, e.1 = false)
    (hu : Undisturbed (begun c s) (run (begun c s))) : runCmd d c fails s run = .next (run (begun c s)) := by
  rw [runCmd_passes d c fails s run ha.1 ha.2 hk]
  exact ends_undisturbed hs ((begun_undisturbed c s).trans hu)

/-- An admitted command whose own check fails completes with its status and does nothing else. -/
theorem runCmd_refuses {st : Status} (hs : settled s) (ha : admits d c s) (hk : firstFail fails = some st) :
    runCmd d c fails s run = .next (complete c st [] (procUnit s c) (begun c s)) := by
  rw [runCmd_own d c fails s run st ha.1 ha.2 hk]
  exact ends_undisturbed hs ((begun_undisturbed c s).trans (complete_undisturbed _ _ _ _ _))

theorem runOrdered_holds (hs : settled s) (ha : admits d c s) : runOrdered d c true fails s run = .next (holdCmd c s) := by
  rw [runOrdered_waits d c fails s run ha.1 ha.2]
  exact ends_undisturbed hs (holdCmd_undisturbed c s)

theorem runOrdered_effect (hs : settled s) (ha : admits d c s) (hk : ∀ e ∈ fails, e.1 = false)
    (hu : Undisturbed (turn c s) (run (turn c s))) : runOrdered d c false fails s run = .next (run (turn c s)) := by
  rw [runOrdered_passes d c fails s run ha.1 ha.2 hk]
  exact ends_undisturbed hs ((turn_undisturbed c s).trans hu)

/-- A check of the packet fails before the order of R120 is looked at. -/
theorem runOrdered_packet (busy : Bool) {st : Status} (hs : settled s) (hst : startable s c = true)
    (hc : issueCheck d c = some st) :
    runOrdered d c busy fails s run = .next (complete c st [] (procUnit s c) s) := by
  have he : runOrdered d c busy fails s run = ends s (complete c st [] (procUnit s c) s) := by
    simp [runOrdered, orderCmd, takeCmd, hst, hc]
  rw [he, ends_undisturbed hs (complete_undisturbed _ _ _ _ _)]

end

/-- Check 3 of R102: a command for partition 0 alone, from another partition. -/
theorem issueCheck_denied {d : OpDesc} {c : Cmd} (h1 : check1 d c = false) (h2 : check2 d c = false)
    (hi : d.infra = true) (hp : c.part ≠ 0) : issueCheck d c = some .denied := by
  simp [issueCheck, firstFail, h1, h2, hi, hp]

end Sys2Proof.Machine
end

section
/-! PROOFS. Sending on the Weft (R19, R21 to R23). -/

namespace Sys2Proof.Machine

/-- Sending changes the Weft, what has left the device, the counters and the number of the next free value. -/
def Sends (s t : State) : Prop := t = { s with weft := t.weft, out := t.out, cnt := t.cnt, seed := t.seed }

theorem Sends.refl (s : State) : Sends s s := rfl

theorem Sends.trans {s t u : State} (h : Sends s t) (k : Sends t u) : Sends s u := by
  have e := congrArg (fun x : State => { x with weft := u.weft, out := u.out, cnt := u.cnt, seed := u.seed }) h
  exact Eq.trans k e

theorem Sends.undisturbed {s t : State} (h : Sends s t) : Undisturbed s t := by
  rw [h]
  exact ⟨rfl, rfl, rfl, rfl, rfl, rfl⟩

theorem foldl_sends {β : Type} {f : State → β → State} (h : ∀ s b, Sends s (f s b)) (l : List β) (s : State) :
    Sends s (l.foldl f s) := foldl_related .refl .trans h l s

theorem bump_sends (u i n : Nat) (s : State) : Sends s (bump u i n s) := by
  rw [bump_frame]
  rfl

theorem flitLeaves_sends (w : WaitFlit) (s : State) : Sends s (flitLeaves w s) :=
  Sends.trans (t := emit (.weft w.lane.die w.lane.chan w.lane.inbound w.flit) { stampSent w.req s with weft :=
    { (stampSent w.req s).weft with spent := tmod 0 (stampSent w.req s).weft.spent (laneKey w.lane) (· + 1) } })
    rfl (bump_sends _ _ _ _)

theorem laneFlit_sends (w : WaitFlit) (s : State) : Sends s (laneFlit w s) := by
  unfold laneFlit
  split
  · rfl
  · exact flitLeaves_sends w s

theorem laneFlits_sends (l : Lane) (req : Option Nat) (fs : List Flit) (s : State) : Sends s (laneFlits l req fs s) := by
  induction fs generalizing s with
  | nil => rfl
  | cons f r ih =>
    cases r with
    | nil => exact laneFlit_sends _ s
    | cons g r => exact (laneFlit_sends _ s).trans (ih _)

theorem sendMsg_sends (die : Nat) (req : Option Nat) (m : WeftMsg) (s : State) : Sends s (sendMsg die req m s) := by
  simp only [sendMsg]
  split
  · rfl
  · exact laneFlits_sends _ _ _ s

theorem sendRequest_sends (die src dest ctx vc kind : Nat) (why : WeftPurpose) (s : State) :
    Sends s (sendRequest die src dest ctx vc kind why s) := by
  unfold sendRequest
  refine Sends.trans ?_ (sendMsg_sends _ _ _ _)
  rfl

end Sys2Proof.Machine
end

section
/-! PROOFS. Die time and the correlation table (R30, R32, R33). -/

namespace Sys2Proof.Machine

theorem startSampling_sends (cmd : Option CmdRef) (s : State) : Sends s (startSampling cmd s) := by
  unfold startSampling
  refine Sends.trans ?_ (foldl_sends (fun _ _ => sendRequest_sends _ _ _ _ _ _ _ _) _ _)
  rfl

theorem endSampling_waits {s : State} (h : s.weft.sampling ≠ []) : endSampling s = s := by simp [endSampling, h]

/-- After the last entry the command ends (R32). -/
theorem endSampling_completes {s : State} {r : CmdRef} (h : s.weft.sampling = []) (hr : s.weft.samplingCmd = some r) :
    endSampling s = completeRef r (if s.weft.samplingFailed then .timeout else .ok) [] frameServices
      { s with weft := { s.weft with samplingCmd := none } } := by
  simp [endSampling, h, hr]

theorem endSampling_undisturbed (s : State) : Undisturbed s (endSampling s) := by
  unfold endSampling
  split
  · exact .refl s
  · split
    · exact Undisturbed.trans (t := { s with weft := { s.weft with samplingCmd := none } }) ⟨rfl, rfl, rfl, rfl, rfl, rfl⟩
        (completeRef_undisturbed _ _ _ _ _)
    · exact .refl s

/-- A TIME_SAMPLE that arrived before a command and still waits. -/
theorem sampleWaits_iff (c : Cmd) (s : State) :
    ((heldBefore c s).any fun x => fieldLE x.packet 0 2 == 0x0C31) = true ↔
      ∃ x ∈ heldBefore c s, fieldLE x.packet 0 2 = 0x0C31 := by simp

/-- The reply of a die other than 38 is stored in its entry (R30). -/
theorem storeSample_known {die : Nat} {s : State} {x : TimeSampling}
    (hx : s.weft.sampling.find? (fun y => y.die == die) = some x) (h38 : die ≠ 38) :
    storeSample die none s = endSampling { s with weft := { s.weft with
      corr := tset {} s.weft.corr die
        (sampleEntry (tget {} s.weft.corr die) x.t1 (frameTime s) (x.td.getD (dieTime s die)))
      sampling := s.weft.sampling.filter (fun y => y.die != die)
      outstanding := s.weft.outstanding.filter (fun r => r.purpose != .timeSample die) } } := by
  simp [storeSample, hx, h38, untrack]

/-- Settles O8: each clause by the rule for its command, or by the equation of `storeSample` and `endSampling`. -/
theorem timePairAndSampleAnswers : Obligations.TimePairAndSampleAnswers := by
  refine ⟨fun c s hs ha => ?pair, fun c s hs ha hbusy => ?waits, fun c s hs ha hfree hfirst => ?starts,
    fun c s hs hst h1 h2 hp => ?denied, fun c s hs ha => ?nop, fun die s x hs hx h38 => ?reply, fun s r => ⟨?waiting, ?last⟩⟩
  case pair => exact runCmd_effect [] _ hs ha (by simp) (complete_undisturbed _ _ _ _ _)
  case waits =>
    have hb : (decide (s.weft.sampling ≠ []) || (heldBefore c s).any fun x => fieldLE x.packet 0 2 == 0x0C31) = true := by
      rw [Bool.or_eq_true, decide_eq_true_iff, sampleWaits_iff]
      exact hbusy
    simp only [exec, execTimeSample, hb]
    exact runOrdered_holds [] _ hs ha
  case starts =>
    have hb : (decide (s.weft.sampling ≠ []) || (heldBefore c s).any fun x => fieldLE x.packet 0 2 == 0x0C31) = false := by
      simpa [hfree] using hfirst
    simp only [exec, execTimeSample, hb]
    exact runOrdered_effect [] _ hs ha (by simp)
      ((startSampling_sends _ _).undisturbed.trans (endSampling_undisturbed _))
  case denied =>
    exact runOrdered_packet [] _ _ hs hst (issueCheck_denied h1 h2 rfl hp)
  case nop => exact runCmd_effect [] _ hs ha (by simp) (complete_undisturbed _ _ _ _ _)
  case reply =>
    rw [exec, execTimeSampleReply, storeSample_known hx h38]
    refine ends_undisturbed hs (.trans ?_ (endSampling_undisturbed _))
    exact ⟨rfl, rfl, rfl, rfl, rfl, rfl⟩
  case waiting => exact endSampling_waits
  case last =>
    intro hnone hcmd hok
    rw [endSampling_completes hnone hcmd, hok]
    rfl

end Sys2Proof.Machine
end

section
/-! PROOFS. Weft credits, messages and request timeouts (R18, R21, R23, R24). -/

namespace Sys2Proof.Machine

/-! ## Credits (R21) -/

section
variable {s : State} {l : Lane} (hused : tget 0 s.weft.buffered (laneKey l) < tget 0 s.weft.spent (laneKey l))
include hused

theorem returnCredit_idle (h : ∀ w ∈ s.weft.waiting, w.lane ≠ l) :
    returnCredit l s = { s with weft := { s.weft with
      spent := tset 0 s.weft.spent (laneKey l) (tget 0 s.weft.spent (laneKey l) - 1) } } := by
  have hn : (s.weft.waiting.find? fun x => x.lane == l) = none := by simpa using h
  simp [returnCredit, Nat.not_le.mpr hused, hn]

theorem returnCredit_lets_go {w : WaitFlit} (h : s.weft.waiting.find? (fun x => x.lane == l) = some w) :
    returnCredit l s = flitLeaves w { s with weft := { s.weft with
      spent := tset 0 s.weft.spent (laneKey l) (tget 0 s.weft.spent (laneKey l) - 1)
      waiting := s.weft.waiting.erase w } } := by
  simp [returnCredit, Nat.not_le.mpr hused, h]

end

theorem creditReturn_lane {die chan vc : Nat} {l : Lane} (h : laneAt die chan vc false = some l) (s : State) :
    creditReturn die chan vc s = returnCredit l s := by simp [creditReturn, h]

/-! ## Messages (R18, R24) -/

/-- No push of a Reed engine has ended: there is nothing to tell the engines. -/
theorem reedNotice_quiet {s : State} (h : s.sht.pushDone = []) : reedNotice s = s := by
  have hs : { s with sht := { s.sht with pushDone := [] } } = s := by rw [← h]
  simp [reedNotice, h, hs]

theorem bump_cnt (u i n : Nat) (s : State) : ∃ c, bump u i n s = { s with cnt := c } := ⟨_, bump_frame u i n s⟩

section
variable {die chan : Nat} {m : WeftMsg} {l : Lane} (s : State)

theorem receiveMsg_good (hl : laneAt die chan (headFlit m).vc true = some l)
    (hp : ∀ f ∈ m.flits, sparGood f = true ∧ parGood f = true) :
    receiveMsg die chan m s = routeMsg die l m (bump (router die) 3 m.flits.length s) := by
  have ha : (m.flits.all fun f => sparGood f && parGood f) = true := by simpa using hp
  simp only [receiveMsg, hl, ha, if_true]

theorem receiveMsg_bad_sideband (hl : laneAt die chan (headFlit m).vc true = some l)
    (hp : ∃ f ∈ m.flits, sparGood f = false) :
    receiveMsg die chan m s = record { mkRecord s (router die) 0x0103 with info0 := chan }
      { bump (router die) 3 m.flits.length s with weft := { s.weft with paritySeen := true } } := by
  obtain ⟨f, hf, hbad⟩ := hp
  have ha : (m.flits.all fun f => sparGood f && parGood f) = false :=
    List.all_eq_false.mpr ⟨f, hf, by simp [hbad]⟩
  have hs : (!m.flits.all sparGood) = true := by
    rw [Bool.not_eq_true', List.all_eq_false]
    exact ⟨f, hf, by simp [hbad]⟩
  obtain ⟨c, hc⟩ := bump_cnt (router die) 3 m.flits.length s
  simp only [receiveMsg, hl, ha, Bool.false_eq_true, if_false, parityDiscard, hs, if_true, hc]
  rfl

theorem routeMsg_own (h2 : (headFlit m).kind ≠ 2) (hd : dieOf (headFlit m).dest = die) :
    routeMsg die l m s = if (headFlit m).vc = 1 then takeResponse die l m (fillBuffer l m.flits.length s)
      else takeRequest die (some l) m (fillBuffer l m.flits.length s) := by
  simp [routeMsg, h2, hd]

/-- A request to a unit that takes work, is awake and has no island is delivered, and its buffer entries are free again. -/
theorem takeRequest_delivers {b : Option Lane} (h3 : (headFlit m).kind ≠ 3) (ha : absentStatus s (headFlit m).dest = none)
    (hw : domainSleeps s (headFlit m).dest = false) (hi : islandOf (headFlit m).dest = none) :
    takeRequest die b m s = emit (.delivered m) (freeBuffer b m s) := by
  simp [takeRequest, deliverRequest, h3, ha, hw, hi]

/-- A response that answers no request of the die is late (R24). -/
theorem takeResponse_late (h : ∀ r ∈ s.weft.outstanding, r.die = die → answers (headFlit m) r = false) :
    takeResponse die l m s = freeBuffer (some l) m { s with weft := { s.weft with late := satInc s.weft.late } } := by
  have hn : (s.weft.outstanding.find? fun r => r.die == die && answers (headFlit m) r) = none := by
    simpa using h
  simp [takeResponse, freeBuffer, hn]

end

/-! ## Timeouts (R23) -/

/-- A request out for the timeout of its link class: it is freed, recorded and answered, and its operation ends. -/
theorem weftTimeout_overdue {id : Nat} {s : State} {r : WeftReq}
    (hr : s.weft.outstanding.find? (fun x => x.id == id) = some r) (ho : requestOverdue s r = true) :
    weftTimeout id s = requestLost r.purpose .timeout
      (emit (.delivered (timeoutResponse r)) (record { mkRecord s (router r.die) 0x0101 with info0 := r.dest }
        { s with weft := { s.weft with outstanding := s.weft.outstanding.filter (fun x => x.id != r.id),
                                       timeoutSeen := true } })) := by
  simp only [weftTimeout, hr, ho, Bool.not_true, Bool.false_eq_true, if_false]
  rfl

/-- Settles O9: each clause by the equation of the operation it speaks of; what reports nothing ends with exactly that. -/
theorem weftCreditsAndMessages : Obligations.WeftCreditsAndMessages := by
  refine ⟨fun die chan vc s l hs hl hused hnone => ?idle, fun die chan vc s l w hs hl hused hw => ?goes,
    fun die chan m s l hs hq hl hp h2 h3 hvc hd ha hw hi => ?delivered, fun die chan m s l hq hl hbad => ?discarded,
    fun die chan m s l hs hq hl hvc h2 hd hp hlate => ?late, fun id s r hr ho => ?timeout⟩
  case idle =>
    rw [exec, execWeftCreditReturn, creditReturn_lane hl, returnCredit_idle hused hnone]
    exact ends_undisturbed hs ⟨rfl, rfl, rfl, rfl, rfl, rfl⟩
  case goes =>
    rw [exec, execWeftCreditReturn, creditReturn_lane hl, returnCredit_lets_go hused hw]
    refine ends_undisturbed hs (.trans ?_ (flitLeaves_sends _ _).undisturbed)
    exact ⟨rfl, rfl, rfl, rfl, rfl, rfl⟩
  case delivered =>
    obtain ⟨c, hc⟩ := bump_cnt (router die) 3 m.flits.length s
    rw [exec, execWeftMessageReceive, receiveMsg_good s hl hp, routeMsg_own _ h2 hd, if_neg hvc, hc,
      takeRequest_delivers (fillBuffer l m.flits.length { s with cnt := c }) h3 ha hw hi, reedNotice_quiet (by exact hq)]
    exact ends_undisturbed hs ⟨rfl, rfl, rfl, rfl, rfl, rfl⟩
  case discarded =>
    obtain ⟨c, hc⟩ := bump_cnt (router die) 3 m.flits.length s
    rw [exec, execWeftMessageReceive, receiveMsg_bad_sideband s hl hbad, hc, reedNotice_quiet (by exact hq), ends]
  case late =>
    obtain ⟨c, hc⟩ := bump_cnt (router die) 3 m.flits.length s
    rw [exec, execWeftMessageReceive, receiveMsg_good s (hvc ▸ hl) hp, routeMsg_own _ h2 hd, if_pos hvc, hc,
      takeResponse_late (fillBuffer l m.flits.length { s with cnt := c }) hlate, reedNotice_quiet (by exact hq)]
    exact ends_undisturbed hs ⟨rfl, rfl, rfl, rfl, rfl, rfl⟩
  case timeout => rw [exec, execWeftTimeout, weftTimeout_overdue hr ho, ends]

end Sys2Proof.Machine
end

section
/-! PROOFS. What the ends of link requests leave alone: die time, the Weft, start-up and the pins (R342, R10). -/

namespace Sys2Proof.Machine

/-- Die time, the Weft, start-up and the pins stand as they did. -/
structure KeepsStart (s t : State) : Prop where
  time : t.time = s.time
  weft : t.weft = s.weft
  fw : t.fw = s.fw
  pins : t.pins = s.pins

theorem KeepsStart.refl (s : State) : KeepsStart s s := ⟨rfl, rfl, rfl, rfl⟩

theorem KeepsStart.trans {s t u : State} (h : KeepsStart s t) (k : KeepsStart t u) : KeepsStart s u :=
  ⟨k.time.trans h.time, k.weft.trans h.weft, k.fw.trans h.fw, k.pins.trans h.pins⟩

theorem Touches.keepsStart {s t : State} (h : Touches s t) : KeepsStart s t := ⟨h.time, h.weft, h.fw, h.pins⟩

theorem foldl_keepsStart {β : Type} {f : State → β → State} (h : ∀ s b, KeepsStart s (f s b)) (l : List β) (s : State) :
    KeepsStart s (l.foldl f s) := foldl_related .refl .trans h l s

theorem completeRef_keepsStart (r : CmdRef) (st : Status) (res : List Nat) (unit : Nat) (s : State) :
    KeepsStart s (completeRef r st res unit s) := by
  rw [completeRef_frame]
  exact ⟨rfl, rfl, rfl, rfl⟩

theorem bump_keepsStart (u i n : Nat) (s : State) : KeepsStart s (bump u i n s) := (bump_touches u i n s).keepsStart

theorem setComm_keepsStart (k : Nat) (c : Comm) (s : State) : KeepsStart s (setComm k c s) := ⟨rfl, rfl, rfl, rfl⟩

theorem setAport_keepsStart (k : Nat) (a : APort) (s : State) : KeepsStart s (setAport k a s) := ⟨rfl, rfl, rfl, rfl⟩

theorem modAport_keepsStart (k : Nat) (f : APort → APort) (s : State) : KeepsStart s (modAport k f s) :=
  setAport_keepsStart _ _ s

theorem setHport_keepsStart (x : Nat) (h : HPort) (s : State) : KeepsStart s (setHport x h s) := ⟨rfl, rfl, rfl, rfl⟩

/-! ## Signals to accelerators (R344, R352) -/

theorem sendFlit_keepsStart (k kind : Nat) (nak : Bool) (payload : List Byte) (s : State) :
    KeepsStart s (sendFlit k kind nak payload s) :=
  ((setAport_keepsStart _ _ s).trans (bump_keepsStart _ _ _ _)).trans (emit_touches _ _).keepsStart

theorem sendTransaction_keepsStart (k : Nat) (hdr data : List Byte) (s : State) :
    KeepsStart s (sendTransaction k hdr data s) :=
  ((modAport_keepsStart _ _ s).trans (sendFlit_keepsStart _ _ _ _ _)).trans
    (foldl_keepsStart (fun _ _ => sendFlit_keepsStart _ _ _ _ _) _ _)

theorem sendTch_keepsStart (k : Nat) (h : TchHdr) (data : List Byte) (s : State) : KeepsStart s (sendTch k h data s) := by
  simp only [sendTch]
  split
  · exact .refl s
  · split
    · exact modAport_keepsStart _ _ s
    · exact sendTransaction_keepsStart _ _ _ s

theorem grantRange_keepsStart (typ port k : Nat) (os : BitVec 32) (off n : Nat) (s : State) :
    KeepsStart s (grantRange typ port k os off n s) := by
  unfold grantRange
  split
  · exact .refl s
  · exact (modAport_keepsStart _ _ s).trans (sendTch_keepsStart _ _ _ _)

/-! ## Slots of the Reed engines (R217 to R219) -/

theorem addSlot_keepsStart (x : RedSlot) (s : State) : KeepsStart s (addSlot x s) := ⟨rfl, rfl, rfl, rfl⟩

theorem takeSlot_keepsStart (k : Nat) (os : BitVec 32) (e pick stage seg : Nat) (s : State) :
    KeepsStart s (takeSlot k os e pick stage seg s).2 := by
  simp only [takeSlot]
  split
  · exact .refl s
  · split
    · exact addSlot_keepsStart _ s
    · split
      · have h (x : RedSlot) := (addSlot_keepsStart x s).trans (bump_keepsStart (pool (engineDie e)) 2 1 _)
        exact ⟨(h _).time, (h _).weft, (h _).fw, (h _).pins⟩
      · have hb := bump_keepsStart (pool (engineDie e)) 3 1 s
        split
        · refine hb.trans (.trans ?_ (addSlot_keepsStart _ _))
          refine .trans ?_ (bump_keepsStart _ _ _ _)
          exact ⟨rfl, rfl, rfl, rfl⟩
        · exact hb

theorem creditSeg_keepsStart (k : Nat) (o : RedOp) (pick seg : Nat) (s : State) :
    KeepsStart s (creditSeg k o pick seg s) := by
  simp only [creditSeg]
  split
  · exact .refl s
  · exact foldl_keepsStart (fun _ _ => grantRange_keepsStart _ _ _ _ _ _ _) _ _

theorem openSeg_keepsStart (k : Nat) (o : RedOp) (pick stage seg : Nat) (s : State) :
    KeepsStart s (openSeg k o pick stage seg s).2 := by
  simp only [openSeg]
  split
  · exact .refl s
  · rename_i e _
    have h := takeSlot_keepsStart k o.opseq e pick stage seg s
    split
    · rename_i t ht
      rw [ht] at h
      split
      · exact h
      · exact h.trans (creditSeg_keepsStart _ _ _ _ _)
    · exact h

theorem fillEngine_keepsStart (k : Nat) (o : RedOp) (l : List (Nat × Nat × Nat)) (s : State) :
    KeepsStart s (fillEngine k o l s) := by
  induction l generalizing s with
  | nil => exact .refl s
  | cons e r ih =>
    obtain ⟨p, g, x⟩ := e
    have h := openSeg_keepsStart k o p g x s
    simp only [fillEngine]
    split
    · rename_i ht
      rw [ht] at h
      exact h.trans (ih _)
    · rename_i ht
      rw [ht] at h
      exact h

theorem fillSlots_keepsStart (k : Nat) (s : State) : KeepsStart s (fillSlots k s) := by
  simp only [fillSlots]
  split
  · exact .refl s
  · exact foldl_keepsStart (fun _ _ => foldl_keepsStart (fun _ _ => fillEngine_keepsStart _ _ _ _) _ _) _ _

/-! ## How collective operations end (R211, R222) -/

theorem sendResults_keepsStart (k : Nat) (o : RedOp) (st : Status) (s : State) :
    KeepsStart s (sendResults k o st s) := foldl_keepsStart (fun _ _ => sendTch_keepsStart _ _ _ _) _ _

theorem markReplayed_keepsStart (r : CmdRef) (s : State) : KeepsStart s (markReplayed r s) := ⟨rfl, rfl, rfl, rfl⟩

theorem tagDone_keepsStart (r : CmdRef) (k : Nat) (s : State) : KeepsStart s (tagDone r k s) := ⟨rfl, rfl, rfl, rfl⟩

theorem flushOps_keepsStart (k : Nat) (l : List RedOp) (s : State) : KeepsStart s (flushOps k l s) := by
  induction l generalizing s with
  | nil => exact setComm_keepsStart _ _ s
  | cons o r ih =>
    simp only [flushOps]
    split
    · exact setComm_keepsStart _ _ s
    · refine .trans ?_ (ih _)
      refine .trans ?_ (tagDone_keepsStart _ _ _)
      refine .trans ?_ (completeRef_keepsStart _ _ _ _ _)
      refine .trans ?_ (sendResults_keepsStart _ _ _ _)
      split
      · exact markReplayed_keepsStart _ s
      · exact .refl s

theorem dropWork_keepsStart (k : Nat) (os : BitVec 32) (s : State) : KeepsStart s (dropWork k os s) := by
  unfold dropWork
  exact ⟨rfl, rfl, rfl, rfl⟩

theorem setRedOp_keepsStart (k : Nat) (o : RedOp) (s : State) : KeepsStart s (setRedOp k o s) := ⟨rfl, rfl, rfl, rfl⟩

theorem endRedOp_keepsStart (k : Nat) (o : RedOp) (st : Status) (res : List Nat) (s : State) :
    KeepsStart s (endRedOp k o st res s) := by
  unfold endRedOp
  refine .trans ?_ (fillSlots_keepsStart _ _)
  refine .trans ?_ (flushOps_keepsStart _ _ _)
  refine .trans ?_ (setRedOp_keepsStart _ _ _)
  exact (dropWork_keepsStart _ _ s).trans (setComm_keepsStart _ _ _)

theorem checkRedOp_keepsStart (k : Nat) (os : BitVec 32) (s : State) : KeepsStart s (checkRedOp k os s) := by
  simp only [checkRedOp]
  split
  · exact .refl s
  · split
    · exact .refl s
    · split
      · exact endRedOp_keepsStart _ _ _ _ s
      · split
        · exact endRedOp_keepsStart _ _ _ _ s
        · exact .refl s

/-! ## How queue-pair operations end (R135, R143) -/

theorem setQp_keepsStart (q : Nat) (v : Qp) (s : State) : KeepsStart s (setQp q v s) := ⟨rfl, rfl, rfl, rfl⟩

theorem dropOp_keepsStart (id : Nat) (s : State) : KeepsStart s (dropOp id s) := ⟨rfl, rfl, rfl, rfl⟩

theorem checkDrain_keepsStart (q : Nat) (s : State) : KeepsStart s (checkDrain q s) := by
  unfold checkDrain
  split
  · split
    · exact .refl s
    · exact KeepsStart.trans (setQp_keepsStart _ _ s) (completeRef_keepsStart _ _ _ _ _)
  · exact .refl s

theorem endOp_keepsStart (o : SendOp) (st : Status) (s : State) : KeepsStart s (endOp o st s) := by
  simp only [endOp]
  refine .trans ?_ (checkDrain_keepsStart _ _)
  split
  · exact (dropOp_keepsStart _ s).trans (completeRef_keepsStart _ _ _ _ _)
  · have h := dropOp_keepsStart o.id s
    exact ⟨h.time, h.weft, h.fw, h.pins⟩

theorem resolveOp_keepsStart (q id : Nat) (s : State) : KeepsStart s (resolveOp q id s) := by
  unfold resolveOp
  split
  · exact .refl s
  · split
    · exact .refl s
    · split
      · exact dropOp_keepsStart _ s
      · exact endOp_keepsStart _ _ s

/-! ## A CXL port goes down (R342) -/

theorem writersGoOn_keepsStart (w : Nat × Nat) (before s : State) : KeepsStart s (writersGoOn w before s) :=
  (foldl_keepsStart (fun _ _ => resolveOp_keepsStart _ _ _) _ s).trans
    (foldl_keepsStart (fun _ _ => checkRedOp_keepsStart _ _ _) _ _)

theorem writeEnded_keepsStart (w : Nat × Nat) (st : Status) (s : State) : KeepsStart s (writeEnded w st s) :=
  ⟨rfl, rfl, rfl, rfl⟩

theorem endCxlReq_keepsStart (r : CxlReq) (st : Status) (bs : List Byte) (s : State) :
    KeepsStart s (endCxlReq r st bs s) := by
  simp only [endCxlReq]
  split
  · have h := (writeEnded_keepsStart (8 + r.port, r.id) st s).trans (writersGoOn_keepsStart (8 + r.port, r.id) s _)
    exact ⟨h.time, h.weft, h.fw, h.pins⟩
  · exact ⟨rfl, rfl, rfl, rfl⟩

theorem biTimeoutRecord_keepsStart (line : Nat) (s : State) : KeepsStart s (biTimeoutRecord line s) :=
  ⟨rfl, rfl, rfl, rfl⟩

theorem dropPortLines_keepsStart (x : Nat) (s : State) : KeepsStart s (dropPortLines x s) := by
  unfold dropPortLines
  refine .trans ?_ (foldl_keepsStart (fun s l => biTimeoutRecord_keepsStart l s) _ _)
  exact ⟨rfl, rfl, rfl, rfl⟩

theorem loseHostLine_keepsStart (x : Nat) (s : State) (line : Nat) : KeepsStart s (loseHostLine x s line) :=
  ⟨rfl, rfl, rfl, rfl⟩

theorem cxlDown_keepsStart (x : Nat) (s : State) : KeepsStart s (cxlDown x s) := by
  simp only [cxlDown]
  split
  · exact .refl s
  · refine .trans ?_ (setHport_keepsStart _ _ _)
    refine .trans (t := dropPortLines x _) (.trans ?_ (dropPortLines_keepsStart _ _)) ⟨rfl, rfl, rfl, rfl⟩
    refine .trans ?_ (foldl_keepsStart (loseHostLine_keepsStart x) _ _)
    exact foldl_keepsStart (fun _ _ => endCxlReq_keepsStart _ _ _ _) _ _

/-! ## DIE_PRESENT (R10) -/

theorem dropAbsentPorts_keepsStart (s : State) : KeepsStart s (dropAbsentPorts s) := by
  refine foldl_keepsStart (fun s x => ?_) _ s
  split
  · exact (cxlDown_keepsStart _ s).trans (setHport_keepsStart _ _ _)
  · exact .refl s

theorem setPresent_fw (v : BitVec 40) (s : State) : (setPresent v s).fw = s.fw := by
  simp only [setPresent]
  split
  · rfl
  · exact (dropAbsentPorts_keepsStart _).fw

theorem setPresent_diePresent (v : BitVec 40) (s : State) : (setPresent v s).weft.diePresent = v := by
  simp only [setPresent]
  split
  · rfl
  · rw [(dropAbsentPorts_keepsStart _).weft]

end Sys2Proof.Machine
end

section
/-! PROOFS. Starts: what begins one, how its steps pass and fail (R429 to R436). -/

namespace Sys2Proof.Machine

/-! ## A start begins (R429 to R431) -/

theorem evictHostLines_touches (s : State) : Touches s (evictHostLines s) :=
  foldl_touches _ (fun _ _ => foldl_touches _ (fun _ _ => emit_touches _ _) _ _) _ s

theorem beginStart_start (warm : Bool) (s : State) :
    (beginStart warm s).fw.start = some { warm := warm, done := [], at_ := frameTime s } := by
  cases warm <;> rfl

theorem beginStart_restart (warm : Bool) (s : State) : (beginStart warm s).fw.restart = none := by
  cases warm <;> rfl

theorem beginStart_pkgReset (warm : Bool) (s : State) : (beginStart warm s).fw.pkgReset = none := by
  cases warm <;> rfl

theorem beginStart_coldFails (warm : Bool) (s : State) : (beginStart warm s).fw.coldFails = s.fw.coldFails := by
  cases warm
  · rfl
  · exact congrArg (·.coldFails) (evictHostLines_touches s).fw

theorem beginStart_todo (warm : Bool) (s : State) : (beginStart warm s).saf.todo = [] := by
  cases warm <;> rfl

theorem beginStart_warm_fail (s : State) :
    (beginStart true s).fw.failStep = s.fw.failStep ∧ (beginStart true s).fw.failCause = s.fw.failCause := by
  have h := (evictHostLines_touches s).fw
  exact ⟨congrArg (·.failStep) h, congrArg (·.failCause) h⟩

theorem evictHostLines_spl (s : State) : (evictHostLines s).spl = s.spl :=
  foldl_related (R := fun s t => t.spl = s.spl) (fun _ => rfl) (fun h k => k.trans h)
    (fun s x => foldl_related (R := fun s t => t.spl = s.spl) (fun _ => rfl) (fun h k => k.trans h)
      (fun s l => emit_spl s (.cacheReq x l .dirtyEvict)) _ s) _ s

/-- A warm start keeps memory (R430). -/
theorem beginStart_warm_mem (s : State) : (beginStart true s).spl.mem = s.spl.mem :=
  congrArg (·.mem) (evictHostLines_spl s)

/-! ## A start fails (R435, R436) -/

/-- What follows a start's failure at a step with a cause: the third failed warm start and the first failed cold start are
followed by a cold one, the second failed cold start by safe mode. -/
def StartFailed (s t : State) (r : StartRun) (n c : Nat) : Prop :=
  (r.warm = true → t.fw.start = some { warm := decide (s.fw.warmFails + 1 ≠ 3), done := [], at_ := frameTime s } ∧
    (s.fw.warmFails + 1 ≠ 3 → t.fw.failStep = BitVec.ofNat 4 n ∧ t.fw.failCause = BitVec.ofNat 8 c)) ∧
  (r.warm = false → s.fw.coldFails = 0 →
    t.fw.start = some { warm := false, done := [], at_ := frameTime s } ∧ t.fw.coldFails = 1) ∧
  (r.warm = false → s.fw.coldFails ≠ 0 → t.fw.start = none ∧ t.fw.safeMode = true ∧ t.pins.faultN = false ∧
    t.fw.failStep = BitVec.ofNat 4 n ∧ t.fw.failCause = BitVec.ofNat 8 c)

/-- The state in which a failure has been written down, before what follows it. -/
def failNoted (n c : Nat) (s : State) : State :=
  writeRecord { mkRecord s frameServices 0x0702 with info0 := n, info1 := c }
    { s with fw := { s.fw with failStep := BitVec.ofNat 4 n, failCause := BitVec.ofNat 8 c } }

theorem failNoted_fw (n c : Nat) (s : State) :
    (failNoted n c s).fw = { s.fw with failStep := BitVec.ofNat 4 n, failCause := BitVec.ofNat 8 c } :=
  (writeRecord_touches _ _).fw

theorem failNoted_time (n c : Nat) (s : State) : (failNoted n c s).time = s.time := (writeRecord_touches _ _).time

theorem frameTime_of_time {s t : State} (h : t.time = s.time) : frameTime t = frameTime s := by
  simp [frameTime, dieTime, h]

section
variable {s : State} {r : StartRun} (h : s.fw.start = some r) (n c : Nat)
include h

theorem failStart_warm (hw : r.warm = true) :
    failStart n c s = beginStart (s.fw.warmFails + 1 != 3)
      { failNoted n c s with fw := { (failNoted n c s).fw with warmFails := s.fw.warmFails + 1 } } := by
  unfold failStart
  split
  · simp_all
  · rename_i r' hr
    obtain rfl : r' = r := by simpa using hr.symm.trans h
    rw [if_pos hw]
    rfl

theorem failStart_cold (hw : r.warm = false) :
    failStart n c s =
      if s.fw.coldFails + 1 = 1 then
        beginStart false { failNoted n c s with fw := { (failNoted n c s).fw with coldFails := s.fw.coldFails + 1 } }
      else
        enterSafeMode { failNoted n c s with fw := { (failNoted n c s).fw with coldFails := s.fw.coldFails + 1 } } := by
  unfold failStart
  split
  · simp_all
  · rename_i r' hr
    obtain rfl : r' = r := by simpa using hr.symm.trans h
    rw [if_neg (by simp [hw])]
    rfl

end

theorem enterSafeMode_fw (s : State) : (enterSafeMode s).fw = { s.fw with safeMode := true, start := none } := by
  unfold enterSafeMode
  rw [setPresent_fw]
  have h := foldl_keepsStart (f := fun (s : State) (e : Nat × Regulator) =>
    if e.2.valid && decide (e.2.role.toNat < 9) then emit (.pmbus e.1 0x01 0) s else s)
    (fun s e => by
      split
      · exact (emit_touches _ s).keepsStart
      · exact .refl s) s.pwr.vr s
  rw [h.fw]

/-- In safe mode FAULT_N is low (R512). -/
theorem ended_safeMode {t : State} (s : State) (h : t.fw.safeMode = true) : (ended s t).pins.faultN = false := by
  rw [ended_pins]
  simp [faultPin, (settle_touches t).fw, h]

theorem ended_failStart {s : State} {r : StartRun} (h : s.fw.start = some r) (n c : Nat) :
    StartFailed s (ended s (failStart n c s)) r n c := by
  refine ⟨fun hw => ?_, fun hw hc => ?_, fun hw hc => ?_⟩
  · rw [ended_fw, failStart_warm h n c hw, beginStart_start]
    refine ⟨?_, fun hn => ?_⟩
    · rw [frameTime_of_time (s := s) (by exact failNoted_time n c s)]
      have hb : (s.fw.warmFails + 1 != 3) = decide (s.fw.warmFails + 1 ≠ 3) := by
        rw [decide_not]
        rfl
      rw [hb]
    · have hb : (s.fw.warmFails + 1 != 3) = true := by simpa using hn
      rw [hb]
      obtain ⟨hs, hcause⟩ := beginStart_warm_fail
        { failNoted n c s with fw := { (failNoted n c s).fw with warmFails := s.fw.warmFails + 1 } }
      rw [hs, hcause, failNoted_fw]
      exact ⟨rfl, rfl⟩
  · rw [ended_fw, failStart_cold h n c hw, if_pos (by rw [hc]; rfl), beginStart_start, beginStart_coldFails, hc]
    exact ⟨by rw [frameTime_of_time (s := s) (by exact failNoted_time n c s)], rfl⟩
  · have h1 : s.fw.coldFails + 1 ≠ 1 := fun he => hc (by simpa using he)
    have hf : (failStart n c s).fw = { (failNoted n c s).fw with
        coldFails := s.fw.coldFails + 1, safeMode := true, start := none } := by
      rw [failStart_cold h n c hw, if_neg h1, enterSafeMode_fw]
    refine ⟨?_, ?_, ended_safeMode s (by rw [hf]), ?_, ?_⟩
    all_goals rw [ended_fw, hf, failNoted_fw]

/-! ## The steps of a start (R433, R434) -/

section
variable {s : State} {r : StartRun} {n : Nat} {i : StartInfo}

theorem startStep_closed (h : s.fw.start = some r) (ho : stepOpen r n = false) : startStep n i s = s := by
  simp only [startStep, h, ho, Bool.not_false, if_true]

theorem startStep_open (h : s.fw.start = some r) (ho : stepOpen r n = true) :
    startStep n i s = if r.warm then warmStep n i s else coldStep n i s := by
  simp only [startStep, h, ho, Bool.not_true, Bool.false_eq_true, if_false]

theorem coldStep_one : coldStep 1 i s = if i.pass then markStep 1 s else failStart 1 1 s := rfl

theorem coldStep_three :
    coldStep 3 i s = if i.pass then markStep 3 (configureRegulators i.regs s) else failStart 3 3 s := rfl

theorem coldStep_four : coldStep 4 i s =
    if enoughDies i.dies then trainPorts false (markStep 4 (writePresent i.dies s)) else failStart 4 5 s := rfl

theorem warmStep_two :
    warmStep 2 i s = if i.pass then markStep 2 (configureRegulators i.regs s) else failStart 2 3 s := rfl

theorem warmStep_three : warmStep 3 i s =
    if enoughDies i.dies then trainPorts true (markStep 3 (writePresent i.dies s)) else failStart 3 5 s := rfl

theorem coldStep_two : coldStep 2 i s = (loadFirmware s).elim (failStart 2 2 s) (markStep 2) := by
  unfold coldStep
  generalize loadFirmware s = o
  cases o <;> rfl

theorem warmStep_one :
    warmStep 1 i s = (if i.pass then rehashFirmware s else none).elim (failStart 1 2 s) (markStep 1) := by
  unfold warmStep
  generalize rehashFirmware s = o
  cases i.pass <;> cases o <;> rfl

/-- The steps of a cold start that can fail, each with its cause (R433, R435). -/
theorem coldStep_fails {c : Nat} (h : n = 1 ∧ i.pass = false ∧ c = 1 ∨ n = 2 ∧ loadFirmware s = none ∧ c = 2 ∨
    n = 3 ∧ i.pass = false ∧ c = 3 ∨ n = 4 ∧ enoughDies i.dies = false ∧ c = 5) :
    coldStep n i s = failStart n c s := by
  rcases h with ⟨rfl, hp, rfl⟩ | ⟨rfl, hl, rfl⟩ | ⟨rfl, hp, rfl⟩ | ⟨rfl, hd, rfl⟩
  · rw [coldStep_one, if_neg (by simp [hp])]
  · rw [coldStep_two, hl, Option.elim_none]
  · rw [coldStep_three, if_neg (by simp [hp])]
  · rw [coldStep_four, if_neg (by simp [hd])]

/-- The steps of a warm start that can fail, each with its cause (R434, R435). -/
theorem warmStep_fails {c : Nat} (h : n = 1 ∧ (i.pass = false ∨ rehashFirmware s = none) ∧ c = 2 ∨
    n = 2 ∧ i.pass = false ∧ c = 3 ∨ n = 3 ∧ enoughDies i.dies = false ∧ c = 5) :
    warmStep n i s = failStart n c s := by
  rcases h with ⟨rfl, hp | hr, rfl⟩ | ⟨rfl, hp, rfl⟩ | ⟨rfl, hd, rfl⟩
  · rw [warmStep_one, if_neg (by simp [hp]), Option.elim_none]
  · rw [warmStep_one, hr, ite_self, Option.elim_none]
  · rw [warmStep_two, if_neg (by simp [hp])]
  · rw [warmStep_three, if_neg (by simp [hd])]

/-! ## Steps that pass -/

theorem markStep_start (h : s.fw.start = some r) (n : Nat) :
    (markStep n s).fw.start = some { r with done := r.done ++ [n] } := by simp [markStep, h]

theorem markStep_weft (n : Nat) (s : State) : (markStep n s).weft = s.weft := rfl
theorem markStep_pins (n : Nat) (s : State) : (markStep n s).pins = s.pins := rfl

/-- The bank a cold start loads, where one verifies, with the image it runs (R438). -/
theorem loadFirmware_start {t : State} (h : loadFirmware s = some t) : t.fw.start = s.fw.start := by
  unfold loadFirmware at h
  simp only at h
  split at h
  · rename_i t' ht
    split at ht
    · cases ht
      cases h
      rfl
    · cases ht
  · rw [Option.map_eq_some_iff] at h
    obtain ⟨t', ht, rfl⟩ := h
    split at ht
    · cases ht
      rfl
    · cases ht

theorem rehashFirmware_start {t : State} (h : rehashFirmware s = some t) : t.fw.start = s.fw.start := by
  unfold rehashFirmware at h
  simp only at h
  split at h
  · split at h
    · cases h
      rfl
    · cases h
  · split at h
    · cases h
      rfl
    · cases h

theorem startCxlTraining_keepsStart (s : State) : KeepsStart s (startCxlTraining s) :=
  foldl_keepsStart (fun _ _ => setHport_keepsStart _ _ _) _ s

/-- Turning the rails on changes no pin but `VR_EN` and the power-good inputs, and leaves start-up alone (R420, R513). -/
theorem configureRegulators_keepsStart (regs : List BoardVr) (s : State) :
    KeepsStart { s with pins := { s.pins with vrEn := true, avddGood := true, vddPlGood := true } }
      (configureRegulators regs s) := by
  unfold configureRegulators
  refine .trans ?_ (startCxlTraining_keepsStart _)
  refine .trans ?_ (foldl_keepsStart
    (fun _ _ => foldl_keepsStart (fun s e => (emit_touches _ s).keepsStart) _ _) _ _)
  refine .trans ?_ (foldl_keepsStart (fun s e => ?_) _ _)
  · exact ⟨rfl, rfl, rfl, rfl⟩
  · split
    · exact (emit_touches _ s).keepsStart
    · exact .refl s

theorem beginTraining_keepsStart (k : Nat) (st : APortSt) (warm : Bool) (s : State) :
    KeepsStart s (beginTraining k st warm s) := modAport_keepsStart _ _ s

theorem trainPorts_keepsStart (warm : Bool) (s : State) : KeepsStart s (trainPorts warm s) := by
  refine foldl_keepsStart (fun s k => ?_) _ s
  split
  · exact beginTraining_keepsStart _ _ _ s
  · exact .refl s

/-- A step that marks the dies present and trains the accelerator ports (R433, R434). -/
theorem presentStep_start (warm : Bool) (h : s.fw.start = some r) (n dies : Nat) :
    (trainPorts warm (markStep n (writePresent dies s))).fw.start = some { r with done := r.done ++ [n] } := by
  rw [(trainPorts_keepsStart _ _).fw, markStep_start]
  rw [writePresent, setPresent_fw, h]

theorem presentStep_diePresent (warm : Bool) (n dies : Nat) (s : State) :
    (trainPorts warm (markStep n (writePresent dies s))).weft.diePresent = BitVec.ofNat 40 dies := by
  rw [(trainPorts_keepsStart _ _).weft, markStep_weft, writePresent, setPresent_diePresent]

theorem regulatorStep_start (h : s.fw.start = some r) (n : Nat) (regs : List BoardVr) :
    (markStep n (configureRegulators regs s)).fw.start = some { r with done := r.done ++ [n] } := by
  rw [markStep_start]
  rw [(configureRegulators_keepsStart _ _).fw, h]

/-- With POR_N high and no trip, VR_EN is high once the rails have been turned on (R513, R514). -/
theorem regulatorStep_vrEn (n : Nat) (regs : List BoardVr) (hpor : s.pins.porN = true)
    (htrip : s.pins.thermtripN = true) :
    (ended s (markStep n (configureRegulators regs s))).pins.vrEn = true := by
  rw [ended_pins, markStep_pins, (configureRegulators_keepsStart _ _).pins]
  simp [vrEnPin, hpor, htrip]

theorem sampledStep_start (h : s.fw.start = some r) (n : Nat) :
    (startSampling none (markStep n s)).fw.start = some { r with done := r.done ++ [n] } := by
  rw [(startSampling_sends _ _).undisturbed.fw, markStep_start h]

/-- The steps of a cold start that pass, but for the last, are marked done. -/
theorem coldStep_passes (h : s.fw.start = some r) (hp : n = 1 ∧ i.pass = true ∨ n = 2 ∧ loadFirmware s ≠ none ∨
    n = 3 ∧ i.pass = true ∨ n = 4 ∧ enoughDies i.dies = true ∨ 5 ≤ n ∧ n ≤ 7) :
    (coldStep n i s).fw.start = some { r with done := r.done ++ [n] } := by
  rcases hp with ⟨rfl, hp⟩ | ⟨rfl, hl⟩ | ⟨rfl, hp⟩ | ⟨rfl, hd⟩ | ⟨h5, h7⟩
  · rw [coldStep_one, if_pos hp, markStep_start h]
  · obtain ⟨t, ht⟩ := Option.ne_none_iff_exists'.mp hl
    rw [coldStep_two, ht, Option.elim_some, markStep_start ((loadFirmware_start ht).trans h)]
  · rw [coldStep_three, if_pos hp, regulatorStep_start h]
  · rw [coldStep_four, if_pos hd, presentStep_start _ h]
  · obtain rfl | rfl | rfl : n = 5 ∨ n = 6 ∨ n = 7 := by omega
    · exact markStep_start h _
    · exact markStep_start h _
    · exact sampledStep_start (s := zeroMemory s) h _

/-- The steps of a warm start that pass, but for the last, are marked done. -/
theorem warmStep_passes (h : s.fw.start = some r) (hp : n = 1 ∧ i.pass = true ∧ rehashFirmware s ≠ none ∨
    n = 2 ∧ i.pass = true ∨ n = 3 ∧ enoughDies i.dies = true ∨ 4 ≤ n ∧ n ≤ 6) :
    (warmStep n i s).fw.start = some { r with done := r.done ++ [n] } := by
  rcases hp with ⟨rfl, hp, hr⟩ | ⟨rfl, hp⟩ | ⟨rfl, hd⟩ | ⟨h4, h6⟩
  · obtain ⟨t, ht⟩ := Option.ne_none_iff_exists'.mp hr
    rw [warmStep_one, if_pos hp, ht, Option.elim_some, markStep_start ((rehashFirmware_start ht).trans h)]
  · rw [warmStep_two, if_pos hp, regulatorStep_start h]
  · rw [warmStep_three, if_pos hd, presentStep_start _ h]
  · obtain rfl | rfl | rfl : n = 4 ∨ n = 5 ∨ n = 6 := by omega
    · exact markStep_start (s := { s with fw := { s.fw with retrained := BitVec.ofNat 16 i.retrained } }) h _
    · exact markStep_start h _
    · exact sampledStep_start (s := zeroFree s) h _

/-- Step 7 of a cold start zeroes memory: granules 0 to 3 are DEVICE, the others FREE (R55). -/
theorem zeroMemory_got (s : State) (g : Nat) :
    gotState (tget 0 (zeroMemory s).spl.got g).toNat = if g < 4 then gotDevice else gotFree := by
  have hdev : gotState (BitVec.ofNat 16 (mkGot 0 gotDevice false)).toNat = gotDevice := by decide
  have htab : (zeroMemory s).spl.got =
      [0, 1, 2, 3].map fun g => (g, BitVec.ofNat 16 (mkGot 0 gotDevice false)) := rfl
  rw [htab]
  by_cases hg : g < 4
  · rw [if_pos hg]
    interval_cases g <;> exact hdev
  · have h : ∀ k < 4, k ≠ g := fun k hk he => hg (he ▸ hk)
    rw [if_neg hg]
    simp [tget, h 0, h 1, h 2, h 3, gotState, gotFree, bits]

theorem zeroStep_memory (i : StartInfo) (hs : settled s) :
    (ended s (coldStep 7 i s)).spl.mem = [] ∧
      ∀ g, gotState (tget 0 (ended s (coldStep 7 i s)).spl.got g).toNat = if g < 4 then gotDevice else gotFree := by
  have hsends : Sends (markStep 7 (zeroMemory s)) (coldStep 7 i s) := startSampling_sends none _
  have hspl : (coldStep 7 i s).spl = (zeroMemory s).spl := congrArg (·.spl) hsends
  have htodo : (coldStep 7 i s).saf.todo = [] := by
    rw [hsends.undisturbed.saf]
    exact hs.1
  refine ⟨?_, fun g => ?_⟩
  · rw [(ended_quiet s _ htodo).1, hspl]
    rfl
  · rw [ended_got, hspl, zeroMemory_got]

/-! ## The last step, and the bounds of the steps -/

/-- The last step sets `READY` with the key store zeroed (R385, R433, R434). -/
theorem becomeReady_spec (s : State) (warm : Bool) (ver : Nat) :
    let t := ended s (becomeReady warm ver s)
    t.fw.ready = true ∧ t.fw.start = none ∧ t.fw.lastWarm = warm ∧ t.fw.warmFails = 0 ∧ t.fw.coldFails = 0 ∧
      t.cip.slot = [] ∧ t.bob.setVer = BitVec.ofNat 8 ver := by
  simp only [ended_fw, ended_cip, ended_bob]
  exact ⟨rfl, rfl, rfl, rfl, rfl, rfl, rfl⟩

theorem lastStep_ready {warm : Bool} (hn : n = if warm then 7 else 8) (i : StartInfo) (s : State) :
    (if warm then warmStep n i s else coldStep n i s) = becomeReady warm i.setVer s := by
  subst hn
  cases warm <;> rfl

theorem startOverrun_waits {w : Bool} (h : s.fw.start = some r) (hb : stepOpen r n = false ∨
    (frameTime s - r.at_).toNat < stepBound r.warm (w || s.fw.retrained != 0) n) : startOverrun n w s = s := by
  have hc : (!stepOpen r n ||
      decide ((frameTime s - r.at_).toNat < stepBound r.warm (w || s.fw.retrained != 0) n)) = true := by
    simpa using hb
  simp only [startOverrun, h, hc, if_true]

theorem startOverrun_fails {w : Bool} (h : s.fw.start = some r) (ho : stepOpen r n = true)
    (hb : stepBound r.warm (w || s.fw.retrained != 0) n ≤ (frameTime s - r.at_).toNat) :
    startOverrun n w s = failStart n 4 s := by
  have hc : (!stepOpen r n ||
      decide ((frameTime s - r.at_).toNat < stepBound r.warm (w || s.fw.retrained != 0) n)) = false := by
    simp only [ho, Bool.not_true, Bool.false_or, decide_eq_false_iff_not]
    omega
  simp only [startOverrun, h, hc, Bool.false_eq_true, if_false]

end

end Sys2Proof.Machine
end

section
/-! PROOFS. Supplies, POR_N and package resets (R28, R429, R485, R513 to R515). -/

namespace Sys2Proof.Machine

/-- A command that leaves no report changes memory only as its own effect did. -/
theorem ended_mem_quiet (s t : State) (h : t.saf.todo = []) : (ended s t).spl.mem = t.spl.mem :=
  congrArg (·.mem) (ended_quiet s t h).1

theorem bit_eq_testBit (x i : Nat) : bit x i = x.testBit i := by
  rw [bit, Nat.testBit_eq_decide_div_mod_eq]
  rfl

/-- POR_N goes high with VDD_AO in tolerance: the straps are sampled and a cold start begins (R513). -/
theorem porRelease_spec {n : Nat} {s : State} (hp : s.pins.porN = false) (hv : s.pins.vddAo = true) :
    let t := ended s (porRelease n s)
    t.pins.porN = true ∧ t.pins.straps = BitVec.ofNat 4 n ∧ t.pwr.coolingB = n.testBit 0 ∧ t.fw.warmFails = 0 ∧
      t.fw.coldFails = 0 ∧ t.fw.start = some { warm := false, done := [], at_ := frameTime s } ∧ t.spl.mem = [] := by
  have h : porRelease n s = beginStart false { s with
      pins := { s.pins with porN := true, straps := BitVec.ofNat 4 n }
      pwr := { s.pwr with coolingB := bit n 0 }
      fw := { s.fw with warmFails := 0, coldFails := 0 } } := by
    simp [porRelease, hp, hv]
  simp only [h, ended_pins, ended_pwr, ended_fw, ended_mem_quiet _ _ (beginStart_todo _ _), ← bit_eq_testBit]
  exact ⟨rfl, rfl, rfl, rfl, rfl, rfl, rfl⟩

/-- POR_N goes low: everything is cleared but flash and the trip register (R514, R515). -/
theorem porAssert_spec (s : State) :
    let t := ended s (porAssert s)
    t.pins.porN = false ∧ t.pins.vrEn = false ∧ t.fw.ready = false ∧ t.fw.start = none ∧ t.spl.mem = [] ∧
      t.fw.bank = s.fw.bank ∧ t.pins.tripped = s.pins.tripped ∧ t.pins.tripDie = s.pins.tripDie ∧ t.time = s.time := by
  simp only [ended_pins, ended_fw, ended_mem_quiet _ (porAssert s) rfl]
  exact ⟨rfl, rfl, rfl, rfl, rfl, rfl, rfl, rfl, rfl⟩

/-- What is left when VDD_AO is lost: flash, fuses, and pins that others drive. -/
def unpowered (s : State) : State :=
  { out := s.out, seed := s.seed, fw := keptFw s.fw, pins := { perst0N := s.pins.perst0N, perst1N := s.pins.perst1N } }

/-- VDD_AO is lost: the islands stop, and the trip register goes with them (R514). -/
theorem vddAoLoss_spec (s : State) : ∃ t, exec .vddAoLoss s = .next t ∧ t.time = {} ∧ t.pins.vddAo = false ∧
    t.pins.tripped = false ∧ t.spl.mem = [] ∧ t.fw.ready = false ∧ t.fw.bank = s.fw.bank ∧
      t.fw.selected = s.fw.selected := by
  refine ⟨ended { s with time := {} } (unpowered s), rfl, rfl, ?_⟩
  simp only [ended_pins, ended_fw, ended_mem_quiet _ (unpowered s) rfl]
  exact ⟨rfl, rfl, rfl, rfl, rfl, rfl⟩

/-- VDD_AO comes into tolerance: the islands start, each after a delay of its own (R28). -/
theorem vddAoInTolerance_starts {s : State} (h : s.pins.vddAo = false) : ∃ t, exec .vddAoInTolerance s = .next t ∧
    t.pins.vddAo = true ∧ t.time = powerIslands s.seed ∧ t.fw = s.fw := by
  refine ⟨_, by rw [exec, execVddAoInTolerance, if_neg (by simp [h])]; rfl, ?_⟩
  rw [ended_pins, ended_fw]
  exact ⟨rfl, rfl, rfl⟩

theorem restartDeadline_due {s : State} {r : Restart} (h : s.fw.restart = some r)
    (hd : 1000000 ≤ (frameTime s - r.at_).toNat) : restartDeadline s = beginStart (!r.cold) s := by
  simp only [restartDeadline, restartNow, h, if_neg (Nat.not_lt.mpr hd)]

theorem restartDeadline_waits {s : State} {r : Restart} (h : s.fw.restart = some r)
    (hd : (frameTime s - r.at_).toNat < 1000000) : restartDeadline s = s := by
  simp only [restartDeadline, h, if_pos hd]

theorem restartDeadline_none {s : State} (h : s.fw.restart = none) : restartDeadline s = s := by
  simp only [restartDeadline, h]

theorem packageReset_due {s : State} {x : Word64} (h : s.fw.pkgReset = some x) (hd : 1000 ≤ (frameTime s - x).toNat) :
    packageReset s = beginStart true s := by
  simp only [packageReset, h, if_neg (Nat.not_lt.mpr hd)]

theorem packageReset_waits {s : State} {x : Word64} (h : s.fw.pkgReset = some x) (hd : (frameTime s - x).toNat < 1000) :
    packageReset s = s := by
  simp only [packageReset, h, if_pos hd]

end Sys2Proof.Machine
end

section
/-! PROOFS. DEV_RESTART: every other command is given up, its own completes (R432). -/

namespace Sys2Proof.Machine

/-! ## The end of a launch leaves start-up alone (R285, R295) -/

theorem modBobbin_keepsStart (u : Nat) (f : Bobbin → Bobbin) (s : State) : KeepsStart s (modBobbin u f s) :=
  ⟨rfl, rfl, rfl, rfl⟩

theorem setLaunch_keepsStart (l : Launch) (s : State) : KeepsStart s (setLaunch l s) := ⟨rfl, rfl, rfl, rfl⟩

theorem dropSeqRef_keepsStart (s : State) (w : AttnWork) : KeepsStart s (dropSeqRef s w) := ⟨rfl, rfl, rfl, rfl⟩

/-- The status a launch ends with: its fault's, where it has one. -/
def launchStatus (l : Launch) : Status := match l.fault with | some f => f.1 | none => .ok

/-- The state once a launch has left the list of launches. -/
def launchGone (l : Launch) (s : State) : State :=
  { s with bob := { s.bob with launch := s.bob.launch.filter fun x => x.id != l.id,
                               faultSeen := s.bob.faultSeen || programFault (launchStatus l) } }

/-- How a launch ends: it leaves the list, its command completes, its members leave it. -/
theorem endLaunch_eq (l : Launch) (s : State) : endLaunch l s =
    l.work.foldl dropSeqRef (l.members.foldl leaveLaunch
      (completeRef l.cmd (launchStatus l) (launchWords s l)
        (launchOwner (if l.replayed then markReplayed l.cmd (launchGone l s) else launchGone l s) l.part)
        (if l.replayed then markReplayed l.cmd (launchGone l s) else launchGone l s))) := rfl

theorem endLaunch_keepsStart (l : Launch) (s : State) : KeepsStart s (endLaunch l s) := by
  rw [endLaunch_eq]
  refine .trans ?_ (foldl_keepsStart dropSeqRef_keepsStart _ _)
  refine .trans ?_ (foldl_keepsStart (fun _ _ => modBobbin_keepsStart _ _ _) _ _)
  refine .trans ?_ (completeRef_keepsStart _ _ _ _ _)
  split
  · exact .trans (t := launchGone l s) ⟨rfl, rfl, rfl, rfl⟩ (markReplayed_keepsStart _ _)
  · exact ⟨rfl, rfl, rfl, rfl⟩

theorem checkLaunch_keepsStart (id : Nat) (s : State) : KeepsStart s (checkLaunch id s) := by
  unfold checkLaunch
  split
  · exact .refl s
  · split
    · exact .refl s
    · exact .refl s
    · split
      · exact endLaunch_keepsStart _ s
      · exact .refl s
    · split
      · exact .refl s
      · exact endLaunch_keepsStart _ s
    · split
      · exact .refl s
      · exact (setLaunch_keepsStart _ s).trans (foldl_keepsStart (fun _ _ => modBobbin_keepsStart _ _ _) _ _)

theorem stopMembers_keepsStart (l : Launch) (s : State) : KeepsStart s (stopMembers l s) :=
  foldl_keepsStart (fun _ _ => modBobbin_keepsStart _ _ _) _ s

theorem stopLaunch_keepsStart (id : Nat) (st : Status) (u : Option Nat) (pc : Nat) (s : State) :
    KeepsStart s (stopLaunch id st u pc s) := by
  unfold stopLaunch
  split
  · exact .refl s
  · split
    · exact .refl s
    · exact ((setLaunch_keepsStart _ s).trans (stopMembers_keepsStart _ _)).trans (checkLaunch_keepsStart _ _)

/-! ## The end of other launches leaves a command alive (R105) -/

/-- The commands without an outcome include `r`, and no launch is its work. -/
structure Alive (r : CmdRef) (s : State) : Prop where
  live : ∃ l ∈ s.jcq.live, l.ref = r
  noLaunch : ∀ l ∈ s.bob.launch, l.cmd ≠ r

theorem foldl_alive {β : Type} {r : CmdRef} {f : State → β → State} (h : ∀ s b, Alive r s → Alive r (f s b)) (l : List β)
    (s : State) : Alive r s → Alive r (l.foldl f s) :=
  foldl_related (R := fun s t => Alive r s → Alive r t) (fun _ => id) (fun h k => k ∘ h) h l s

section
variable {r : CmdRef} {s : State}

/-- A live command is not ended by the end of another. -/
theorem live_completeRef {x : CmdRef} (hx : x ≠ r) (st : Status) (res : List Nat) (unit : Nat)
    (h : ∃ l ∈ s.jcq.live, l.ref = r) : ∃ l ∈ (completeRef x st res unit s).jcq.live, l.ref = r := by
  unfold completeRef
  split
  · exact h
  · obtain ⟨l, hl, rfl⟩ := h
    exact ⟨l, List.mem_filter.mpr ⟨hl, by simpa using hx.symm⟩, rfl⟩

theorem Alive.completeRef {x : CmdRef} (hx : x ≠ r) (st : Status) (res : List Nat) (unit : Nat) (h : Alive r s) :
    Alive r (completeRef x st res unit s) := by
  refine ⟨live_completeRef hx st res unit h.live, ?_⟩
  rw [completeRef_frame]
  exact h.noLaunch

theorem Alive.markReplayed (x : CmdRef) (h : Alive r s) : Alive r (markReplayed x s) := by
  obtain ⟨l, hl, he⟩ := h.live
  refine ⟨⟨if l.ref = x then { l with replayed := true } else l, List.mem_map.mpr ⟨l, hl, rfl⟩, ?_⟩, h.noLaunch⟩
  split <;> exact he

theorem Alive.modBobbin (u : Nat) (f : Bobbin → Bobbin) (h : Alive r s) : Alive r (modBobbin u f s) :=
  ⟨h.live, h.noLaunch⟩

theorem Alive.dropSeqRef (w : AttnWork) (h : Alive r s) : Alive r (dropSeqRef s w) := ⟨h.live, h.noLaunch⟩

theorem Alive.launchGone (l : Launch) (h : Alive r s) : Alive r (launchGone l s) :=
  ⟨h.live, fun x hx => h.noLaunch x (List.mem_of_mem_filter hx)⟩

theorem Alive.setLaunch {l : Launch} (hl : l.cmd ≠ r) (h : Alive r s) : Alive r (setLaunch l s) := by
  refine ⟨h.live, fun x hx => ?_⟩
  obtain ⟨y, hy, rfl⟩ := List.mem_map.mp hx
  split
  · exact hl
  · exact h.noLaunch y hy

theorem Alive.endLaunch {l : Launch} (hl : l.cmd ≠ r) (h : Alive r s) : Alive r (endLaunch l s) := by
  rw [endLaunch_eq]
  refine foldl_alive (fun _ w => .dropSeqRef w) _ _ ?_
  refine foldl_alive (fun _ _ => .modBobbin _ _) _ _ ?_
  refine .completeRef hl _ _ _ ?_
  split
  · exact .markReplayed _ (.launchGone l h)
  · exact .launchGone l h

theorem Alive.findLaunch_cmd {id : Nat} {l : Launch} (h : Alive r s) (hl : findLaunch s id = some l) : l.cmd ≠ r :=
  h.noLaunch l (List.mem_of_find?_eq_some hl)

theorem Alive.checkLaunch (id : Nat) (h : Alive r s) : Alive r (checkLaunch id s) := by
  unfold Machine.checkLaunch
  split
  · exact h
  · rename_i l hl
    have hc := h.findLaunch_cmd hl
    split
    · exact h
    · exact h
    · split
      · exact h.endLaunch hc
      · exact h
    · split
      · exact h
      · exact h.endLaunch hc
    · split
      · exact h
      · exact foldl_alive (fun _ _ => .modBobbin _ _) _ _ (h.setLaunch hc)

theorem Alive.stopLaunch (id : Nat) (st : Status) (u : Option Nat) (pc : Nat) (h : Alive r s) :
    Alive r (stopLaunch id st u pc s) := by
  unfold Machine.stopLaunch
  split
  · exact h
  · rename_i l hl
    have hc := h.findLaunch_cmd hl
    split
    · exact h
    · exact .checkLaunch id (foldl_alive (fun _ _ => .modBobbin _ _) _ _ (h.setLaunch hc))

end

/-! ## Giving up commands (R432) -/

theorem abandon_time_fw (gone : CmdRef → Bool) (recvs : Bool) (s : State) :
    (abandon gone recvs s).time = s.time ∧ (abandon gone recvs s).fw = s.fw := by
  unfold abandon
  have h := foldl_keepsStart (f := fun s id => stopLaunch id .aborted none 0 s) (fun s id => stopLaunch_keepsStart id _ _ _ s)
    ((s.bob.launch.filter fun (l : Launch) => gone l.cmd).map (·.id))
  exact ⟨(h _).time, (h _).fw⟩

theorem Alive.abandon {r : CmdRef} {s : State} (gone : CmdRef → Bool) (recvs : Bool) (h : Alive r s) :
    Alive r (abandon gone recvs s) :=
  foldl_alive (fun _ _ => .stopLaunch _ _ _ _) _ _ ⟨h.live, h.noLaunch⟩

theorem abortAll_time_fw (doomed : CmdRef → Bool) (recvs : Bool) (s : State) :
    (abortAll doomed recvs s).2.time = s.time ∧ (abortAll doomed recvs s).2.fw = s.fw := by
  simp only [abortAll]
  have h := foldl_keepsStart (f := fun s r => completeRef r .aborted [] (ownerUnit s r.skein) s)
    (fun _ _ => completeRef_keepsStart _ _ _ _ _)
  rw [(h _ _).time, (h _ _).fw]
  exact abandon_time_fw _ _ s

/-- A command that is not doomed, and that no launch is the work of, is alive after the others have been given up. -/
theorem abortAll_alive {r : CmdRef} {s : State} {doomed : CmdRef → Bool} (recvs : Bool) (hr : doomed r = false)
    (h : Alive r s) : Alive r (abortAll doomed recvs s).2 := by
  simp only [abortAll]
  have others : ∀ (rs : List CmdRef) (t : State), (∀ x ∈ rs, x ≠ r) → Alive r t →
      Alive r (rs.foldl (fun s r => completeRef r .aborted [] (ownerUnit s r.skein) s) t) := by
    intro rs
    induction rs with
    | nil => exact fun _ _ => id
    | cons x xs ih =>
      intro t hx ht
      exact ih _ (fun y hy => hx y (by simp [hy])) (ht.completeRef (hx x (by simp)) _ _ _)
  refine others _ _ (fun x hx hxr => ?_) (h.abandon _ _)
  have hg := (List.mem_filter.mp (List.mem_of_mem_filter hx)).2
  simp [hxr, hr] at hg

/-! ## DEV_RESTART -/

/-- A skein that fetches nothing. -/
def quietSkein (k : Skein) : Skein := { k with fetching := false, fetched := [] }

/-- Every skein stops fetching. -/
def quieted (s : State) : State :=
  { s with jcq := { s.jcq with skein := s.jcq.skein.map fun e => (e.1, quietSkein e.2),
                               admin := s.jcq.admin.map fun e => (e.1, { e.2 with sk := quietSkein e.2.sk }) } }

/-- The commands other than DEV_RESTART are given up, fetching stops, and DEV_RESTART has its outcome. -/
def restartDone (c : Cmd) (s : State) : State :=
  complete c .ok [] frameServices (quieted (abortAll (fun r => r != cmdRef c) true s).2)

/-- The restart a DEV_RESTART leaves to follow. -/
def restartNoted (c : Cmd) (s : State) : State :=
  { restartDone c s with fw := { (restartDone c s).fw with
    restart := some { cold := param c 16 1 0 1 == 1, cmd := cmdRef c, at_ := frameTime (restartDone c s) } } }

theorem exec_devRestart_first {c : Cmd} {s : State} (ha : admits descDevRestart c s) (h : s.fw.restart = none) :
    exec (.devRestart c) s = ends s (restartNoted c (begun c s)) := by
  rw [exec, execDevRestart, runCmd_passes _ _ _ _ _ ha.1 ha.2 (by simp [h])]
  rfl

theorem restartNoted_jcq (c : Cmd) (s : State) : (restartNoted c s).jcq = (restartDone c s).jcq := by
  rw [restartNoted]

theorem restartDone_time (c : Cmd) (s : State) : (restartDone c s).time = s.time :=
  (completeRef_keepsStart _ _ _ _ _).time.trans (abortAll_time_fw _ true s).1

theorem completeRef_live_ne (r : CmdRef) (st : Status) (res : List Nat) (unit : Nat) (s : State) :
    ∀ l ∈ (completeRef r st res unit s).jcq.live, l.ref ≠ r := by
  unfold completeRef
  split
  · rename_i hn
    simpa using hn
  · intro l hl
    simpa using (List.mem_filter.mp hl).2

theorem completeRef_skein (r : CmdRef) (st : Status) (res : List Nat) (unit : Nat) (s : State) :
    (completeRef r st res unit s).jcq.skein = s.jcq.skein := by rw [completeRef_frame]

/-- A live command's outcome is the last to wait for its entry. -/
theorem completeRef_last {r : CmdRef} {s : State} (st : Status) (res : List Nat) (unit : Nat)
    (h : ∃ l ∈ s.jcq.live, l.ref = r) : ∃ e, (completeRef r st res unit s).jcq.done = s.jcq.done ++ [e] ∧
      e.ref = r ∧ e.status = st ∧ e.result = res := by
  obtain ⟨l, hl, he⟩ := h
  cases hf : s.jcq.live.find? fun l => l.ref == r with
  | none => exact absurd he (by simpa using List.find?_eq_none.mp hf l hl)
  | some x =>
    rw [completeRef_live _ _ _ _ _ x hf]
    exact ⟨_, rfl, rfl, rfl, rfl⟩

theorem ended_live (s t : State) : (ended s t).jcq.live = t.jcq.live := congrArg (·.jcq.live) (ended_spec s t)

/-- The first DEV_RESTART (R432): it is noted with its time and has its outcome, and no skein fetches. -/
theorem devRestart_spec (c : Cmd) (s : State) :
    let t := ended s (restartNoted c (begun c s))
    t.fw.restart = some { cold := param c 16 1 0 1 == 1, cmd := cmdRef c, at_ := frameTime s } ∧
      (∀ l ∈ t.jcq.live, l.ref = cmdRef c → False) ∧ (∀ k ∈ t.jcq.skein, k.2.fetching = false ∧ k.2.fetched = []) ∧
      ((∃ l ∈ s.jcq.live, l.ref = cmdRef c) → (∀ l ∈ s.bob.launch, l.cmd ≠ cmdRef c) →
        ∃ e, t.jcq.done.getLast? = some e ∧ e.ref = cmdRef c ∧ e.status = .ok) := by
  simp only [ended_fw, ended_live, ended_skein, ended_done, restartNoted_jcq, restartDone, complete]
  refine ⟨?_, fun l hl => completeRef_live_ne _ _ _ _ _ l hl, fun k hk => ?_, fun hl hn => ?_⟩
  · simp only [restartNoted, frameTime_of_time (restartDone_time c (begun c s))]
    rfl
  · rw [completeRef_skein] at hk
    obtain ⟨e, -, rfl⟩ := List.mem_map.mp hk
    exact ⟨rfl, rfl⟩
  · have ha : Alive (cmdRef c) (begun c s) := ⟨hl, hn⟩
    obtain ⟨e, he, href, hst, -⟩ := completeRef_last .ok [] frameServices
      (s := quieted (abortAll (fun r => r != cmdRef c) true (begun c s)).2) (abortAll_alive true (by simp) ha).live
    exact ⟨e, by rw [he, List.getLast?_concat], href, hst⟩

end Sys2Proof.Machine
end

section
/-! PROOFS. Firmware in flash (R438, R439). -/

namespace Sys2Proof.Machine

/-! ## Bytes of a bank -/

/-- Bytes, each with its place, stored from an offset upwards. -/
def storeBytes (off : Nat) (l : List (Byte × Nat)) (t : Tab (Option Byte)) : Tab (Option Byte) :=
  l.foldl (fun t e => tset none t (off + e.2) (some e.1)) t

theorem storeBytes_before (off : Nat) (bs : List Byte) (k : Nat) (t : Tab (Option Byte)) {i : Nat} (h : i < k) :
    tget none (storeBytes off (bs.zipIdx k) t) (off + i) = tget none t (off + i) := by
  induction bs generalizing k t with
  | nil => rfl
  | cons b r ih =>
    rw [List.zipIdx_cons, storeBytes, List.foldl_cons, ← storeBytes, ih (k + 1) _ (by omega),
      tget_tset_other _ _ _ (by dsimp only; omega)]

theorem storeBytes_at (off : Nat) (bs : List Byte) (k : Nat) (t : Tab (Option Byte)) {i : Nat} (h : i < bs.length) :
    tget none (storeBytes off (bs.zipIdx k) t) (off + (k + i)) = some bs[i] := by
  induction bs generalizing k t i with
  | nil => cases h
  | cons b r ih =>
    rw [List.zipIdx_cons, storeBytes, List.foldl_cons, ← storeBytes]
    cases i with
    | zero =>
      rw [Nat.add_zero, storeBytes_before off r (k + 1) _ (by omega)]
      exact tget_tset_same _ _ _ _
    | succ i =>
      have hi : i < r.length := by simpa using h
      rw [show k + (i + 1) = k + 1 + i by omega, ih (k + 1) _ hi]
      rfl

theorem bankRead_of_fw {s t : State} (h : t.fw = s.fw) (b off n : Nat) : bankRead t b off n = bankRead s b off n := by
  simp only [bankRead, h]

/-- What was written to a bank is read. -/
theorem bankRead_bankWrite (b off : Nat) (bs : List Byte) (s : State) :
    bankRead (bankWrite b off bs s) b off bs.length = bs := by
  refine List.ext_getElem (by simp [bankRead]) fun i hi hb => ?_
  have h := storeBytes_at off bs 0 (tget ({} : Bank) s.fw.bank b).bytes hb
  rw [Nat.zero_add] at h
  simp only [bankRead, bankWrite, tget_tset_same, List.getElem_map, List.getElem_range]
  rw [← storeBytes, h, Option.getD_some]

theorem bankWrite_other {b k : Nat} (h : k ≠ b) (off : Nat) (bs : List Byte) (s : State) :
    tget ({} : Bank) (bankWrite b off bs s).fw.bank k = tget {} s.fw.bank k := tget_tset_other _ _ _ h

theorem slice_length (bs : List Byte) (off n : Nat) : (slice bs off n).length = n := by simp [slice]

/-! ## FW_DOWNLOAD -/

theorem complete_fw (c : Cmd) (st : Status) (res : List Nat) (unit : Nat) (s : State) :
    (complete c st res unit s).fw = s.fw := (completeRef_keepsStart _ _ _ _ _).fw

section
variable {c : Cmd} {s v : State} {bs : List Byte} (ha : admits descFwDownload c s) (hlen : cmdLength c % 4096 = 0)
  (halign : fieldLE c.packet 16 4 % 4096 = 0) (hend : fieldLE c.packet 16 4 + cmdLength c ≤ 2 ^ 24)
  (hread : bufRead frameServices c.part (param c 22 2 0 16) (fieldLE c.packet 24 8) (cmdLength c) c.ext (begun c s) =
    (v, .ok, bs))
include hread

theorem fwDownload_read_fw : v.fw = s.fw := by
  have h := (bufRead_touches frameServices c.part (param c 22 2 0 16) (fieldLE c.packet 24 8) (cmdLength c) c.ext
    (begun c s)).fw
  rw [hread] at h
  exact h

include ha hlen halign hend

/-- FW_DOWNLOAD of whole blocks within the bank stores them in the bank that is not selected. -/
theorem exec_fwDownload : exec (.fwDownload c) s = .next (ended s (complete c .ok [] frameServices
    (bankWrite (spareBank s) (fieldLE c.packet 16 4) (slice bs 0 (cmdLength c)) v))) := by
  have hfails : ∀ e ∈ [(cmdLength c % 4096 != 0, Status.lenRange),
      (fieldLE c.packet 16 4 % 4096 != 0 || decide (fieldLE c.packet 16 4 + cmdLength c > bankSize), Status.bounds)],
      e.1 = false := by
    simpa [hlen, halign, bankSize] using hend
  have hspare : spareBank v = spareBank s := by rw [spareBank, fwDownload_read_fw hread, spareBank]
  rw [exec, execFwDownload, runCmd_passes _ _ _ _ _ ha.1 ha.2 hfails]
  have hread' : bufRead frameServices c.part (param c 22 2 0 16) (fieldLE c.packet 24 8) (cmdLength c) c.ext
    (setStarted true c s) = (v, .ok, bs) := hread
  simp only [hread', hspare, ends]

end

/-- What FW_DOWNLOAD has stored is read back from the spare bank; the other bank and the selection stay. -/
theorem fwDownload_stores {c : Cmd} {s v : State} (bs : List Byte) (off : Nat) (hv : v.fw = s.fw) :
    let t := ended s (complete c .ok [] frameServices (bankWrite (spareBank s) off (slice bs 0 (cmdLength c)) v))
    bankRead t (spareBank s) off (cmdLength c) = slice bs 0 (cmdLength c) ∧
      (∀ b, b ≠ spareBank s → tget ({} : Bank) t.fw.bank b = tget {} s.fw.bank b) ∧ t.fw.selected = s.fw.selected := by
  have hfw := (ended_fw s _).trans (complete_fw c .ok [] frameServices
    (bankWrite (spareBank s) off (slice bs 0 (cmdLength c)) v))
  refine ⟨?_, fun b hb => ?_, ?_⟩
  · have h := bankRead_bankWrite (spareBank s) off (slice bs 0 (cmdLength c)) v
    rw [slice_length] at h
    rw [bankRead_of_fw hfw, h]
  · rw [hfw, bankWrite_other hb, hv]
  · rw [hfw, ← hv]
    rfl

/-! ## FW_ACTIVATE -/

/-- The spare bank's image, once it has verified, is selected for the next start, with its digest (R439). -/
def activated (c : Cmd) (s : State) : State :=
  let b := spareBank s
  let img := bankImage s b
  { s with fw := { s.fw with
    bank := tset {} s.fw.bank b { tget ({} : Bank) s.fw.bank b with digest := some (sha256 (imgSigned img)) }
    selected := b == 1
    activated := true
    minSvnRaised := if param c 16 1 0 1 = 1 then BitVec.ofNat 16 (max (minSvn s) (imgSvn img)) else s.fw.minSvnRaised } }

/-- How FW_ACTIVATE ends, by what is wrong with the spare bank's image. -/
def activateEnds (c : Cmd) (s : State) : Option BadImage → State
  | some e => complete c (badStatus e) [] frameServices s
  | none => complete c .ok [bits (imgBuild (bankImage s (spareBank s))) 0 32,
      bits (imgBuild (bankImage s (spareBank s))) 32 32] frameServices (activated c s)

theorem exec_fwActivate {c : Cmd} {s : State} (ha : admits descFwActivate c s) : exec (.fwActivate c) s =
    .next (ended s (activateEnds c (begun c s)
      (verifyImage false (minSvn (begun c s)) (bankImage (begun c s) (spareBank (begun c s)))))) := by
  rw [exec, execFwActivate, runCmd_passes _ _ _ _ _ ha.1 ha.2 (by simp), ends, begun]
  generalize verifyImage = verify
  generalize setStarted true c s = u
  dsimp only
  cases verify false (minSvn u) (bankImage u (spareBank u)) <;> rfl

theorem verifyImage_begun (c : Cmd) (s : State) :
    verifyImage false (minSvn (begun c s)) (bankImage (begun c s) (spareBank (begun c s))) =
      verifyImage false (minSvn s) (bankImage s (spareBank s)) := rfl

theorem spareBank_eq_one (s : State) : (spareBank s == 1) = !s.fw.selected := by
  unfold spareBank
  cases s.fw.selected <;> rfl

theorem bankDigest_of_fw {s t : State} (h : t.fw = s.fw) (b : Nat) : bankDigest t b = bankDigest s b := by
  simp only [bankDigest, h]

theorem bankDigest_activated (c : Cmd) (s : State) :
    bankDigest (activated c s) (spareBank s) = sha256 (imgSigned (bankImage s (spareBank s))) := by
  simp only [bankDigest, activated, tget_tset_same, Option.getD_some]

theorem activated_minSvnRaised {c : Cmd} (h : param c 16 1 0 1 ≠ 1) (s : State) :
    (activated c s).fw.minSvnRaised = s.fw.minSvnRaised := if_neg h

/-- FW_ACTIVATE of a live command (R439): an image that does not verify changes nothing; one that does is selected. -/
theorem fwActivate_spec {c : Cmd} {s : State} (ha : admits descFwActivate c s)
    (hl : ∃ l ∈ s.jcq.live, l.ref = cmdRef c) :
    ∃ t e, exec (.fwActivate c) s = .next t ∧ t.jcq.done = s.jcq.done ++ [e] ∧ e.ref = cmdRef c ∧
      (∀ x, verifyImage false (minSvn s) (bankImage s (spareBank s)) = some x → e.status = badStatus x ∧ t.fw = s.fw) ∧
      (verifyImage false (minSvn s) (bankImage s (spareBank s)) = none → e.status = .ok ∧
        e.result = [bits (imgBuild (bankImage s (spareBank s))) 0 32, bits (imgBuild (bankImage s (spareBank s))) 32 32] ∧
        t.fw.selected = !s.fw.selected ∧ t.fw.activated = true ∧
        bankDigest t (spareBank s) = sha256 (imgSigned (bankImage s (spareBank s))) ∧
        (param c 16 1 0 1 ≠ 1 → t.fw.minSvnRaised = s.fw.minSvnRaised)) := by
  have hrun := exec_fwActivate ha
  rw [verifyImage_begun] at hrun
  cases hv : verifyImage false (minSvn s) (bankImage s (spareBank s)) with
  | some x =>
    rw [hv] at hrun
    obtain ⟨e, hdone, href, hst, -⟩ := completeRef_last (s := begun c s) (badStatus x) [] frameServices hl
    refine ⟨_, e, hrun, (ended_done _ _).trans hdone, href, fun y hy => ?_, nofun⟩
    cases hy
    exact ⟨hst, (ended_fw _ _).trans (complete_fw _ _ _ _ _)⟩
  | none =>
    rw [hv] at hrun
    obtain ⟨e, hdone, href, hst, hres⟩ := completeRef_last (s := activated c (begun c s)) .ok
      [bits (imgBuild (bankImage s (spareBank s))) 0 32, bits (imgBuild (bankImage s (spareBank s))) 32 32]
      frameServices hl
    refine ⟨_, e, hrun, (ended_done _ _).trans hdone, href, nofun, fun _ => ⟨hst, hres, ?_⟩⟩
    have hfw := (ended_fw s _).trans (complete_fw c .ok
      [bits (imgBuild (bankImage s (spareBank s))) 0 32, bits (imgBuild (bankImage s (spareBank s))) 32 32]
      frameServices (activated c (begun c s)))
    refine ⟨(congrArg (·.selected) hfw).trans (spareBank_eq_one s), congrArg (·.activated) hfw, ?_, fun hp => ?_⟩
    · exact (bankDigest_of_fw hfw _).trans (bankDigest_activated c (begun c s))
    · exact (congrArg (·.minSvnRaised) hfw).trans (activated_minSvnRaised hp (begun c s))

end Sys2Proof.Machine
end

section
/-! PROOFS. Mailboxes (R442 to R447). -/

namespace Sys2Proof.Machine

theorem mbox_of_fw {s t : State} (h : t.fw = s.fw) (m : Nat) : mbox t m = mbox s m := by simp only [mbox, h]

/-- Values written at the numbers below `n`, one after the other. -/
theorem tget_foldl_range {α : Type} [DecidableEq α] (d : α) (f : Nat → α) (t : Tab α) (n i : Nat) :
    tget d ((List.range n).foldl (fun t i => tset d t i (f i)) t) i = if i < n then f i else tget d t i := by
  induction n with
  | zero => rfl
  | succ n ih =>
    rw [List.range_succ, List.foldl_append, List.foldl_cons, List.foldl_nil, tget_tset, ih]
    split
    · rw [‹i = n›, if_pos (Nat.lt_succ_self n)]
    · by_cases h : i < n
      · rw [if_pos h, if_pos (by omega)]
      · rw [if_neg h, if_neg (by omega)]

/-! ## MBOX_SEND (R443, R445, R446) -/

/-- The words of a payload. -/
def payloadWords (bs : List Byte) (t : Tab (BitVec 32)) : Tab (BitVec 32) :=
  (List.range 14).foldl (fun t i => tset 0 t i (BitVec.ofNat 32 (fieldLE bs (4 * i) 4))) t

theorem tget_payloadWords (bs : List Byte) (t : Tab (BitVec 32)) {i : Nat} (h : i < 14) :
    tget 0 (payloadWords bs t) i = BitVec.ofNat 32 (fieldLE bs (4 * i) 4) := by
  rw [payloadWords, tget_foldl_range 0 (fun i => BitVec.ofNat 32 (fieldLE bs (4 * i) 4)), if_pos h]

theorem mbox_storePayload_same (m : Nat) (bs : List Byte) (s : State) :
    mbox (storePayload m bs s) m = { mbox s m with payload := payloadWords bs (mbox s m).payload } :=
  mbox_setMbox _ _ _

theorem mbox_storePayload_other {m k : Nat} (h : k ≠ m) (bs : List Byte) (s : State) :
    mbox (storePayload m bs s) k = mbox s k := mbox_setMbox_other _ _ _ _ h

theorem wakeDomain_fw (x : Nat) (s : State) : (wakeDomain x s).fw = s.fw := by
  simp only [wakeDomain]
  split <;> rfl

/-- What a go leaves in the mailbox: the sender, the next sequence number, `FULL`; `due` says that the owner's event waits for
its domain. -/
def sentBox (who : Requester) (due : Bool) (x : Mailbox) : Mailbox :=
  { x with part := BitVec.ofNat 6 who.part, cls := BitVec.ofNat 4 who.cls, seq := x.seq + 1, full := true, nack := false,
           eventDue := due }

/-- The go of a sender whose mailbox's owner takes it fills the mailbox and changes no other (R443). -/
theorem mailGo_fills {who : Requester} {m : Nat} {s : State} (hr : ownerReset s (mbox s m) = false)
    (hf : ownerFenced s (mbox s m) = false) :
    ∃ due, (mailGo who m s).fw = (setMbox m (sentBox who due (mbox s m)) s).fw := by
  simp only [mailGo, hr, hf, Bool.false_eq_true, if_false]
  split
  · exact ⟨_, rfl⟩
  · split
    · split
      · exact ⟨_, rfl⟩
      · exact ⟨_, wakeDomain_fw _ _⟩
    · exact ⟨_, rfl⟩

section
variable {c : Cmd} {s : State} (ha : admits descMboxSend c s) (hi : bit (cmdFlags c) 2 = true)
include ha hi

theorem exec_mboxSend_refused {st : Status} (hs : settled s) (h : firstFail
    [(!maySend (mbox s (cmdMbox c)) (mailSender c), Status.denied), ((mbox s (cmdMbox c)).full, .busy),
     (ownerReset s (mbox s (cmdMbox c)), .aborted), (ownerFenced s (mbox s (cmdMbox c)), .fenced)] = some st) :
    exec (.mboxSend c) s = .next (complete c st [] (procUnit s c) (begun c s)) := by
  rw [exec, execMboxSend]
  exact runCmd_refuses _ _ hs ha (by simpa [firstFail, hi] using h)

variable (hmay : maySend (mbox s (cmdMbox c)) (mailSender c) = true) (hfull : (mbox s (cmdMbox c)).full = false)
  (hreset : ownerReset s (mbox s (cmdMbox c)) = false) (hfenced : ownerFenced s (mbox s (cmdMbox c)) = false)
include hmay hfull hreset hfenced

theorem exec_mboxSend : exec (.mboxSend c) s = .next (ended s (complete c .ok [] mailboxes (mailGo (mailSender c) (cmdMbox c)
    (storePayload (cmdMbox c) (slice (c.packet.drop 64) 0 56) (begun c s))))) := by
  rw [exec, execMboxSend, runCmd_passes _ _ _ _ _ ha.1 ha.2 (by simp [hi, hmay, hfull, hreset, hfenced])]
  rfl

end

/-- The mailboxes after a send (R443). -/
theorem mboxSend_spec {c : Cmd} {s : State} (hreset : ownerReset s (mbox s (cmdMbox c)) = false)
    (hfenced : ownerFenced s (mbox s (cmdMbox c)) = false) :
    let x := mbox s (cmdMbox c)
    let t := ended s (complete c .ok [] mailboxes (mailGo (mailSender c) (cmdMbox c)
      (storePayload (cmdMbox c) (slice (c.packet.drop 64) 0 56) (begun c s))))
    (mbox t (cmdMbox c)).full = true ∧ (mbox t (cmdMbox c)).nack = false ∧ (mbox t (cmdMbox c)).seq = x.seq + 1 ∧
      (mbox t (cmdMbox c)).part = BitVec.ofNat 6 c.part ∧ (mbox t (cmdMbox c)).cls = (if c.part = 0 then 0 else 1) ∧
      (∀ i < 14, tget 0 (mbox t (cmdMbox c)).payload i =
        BitVec.ofNat 32 (fieldLE (slice (c.packet.drop 64) 0 56) (4 * i) 4)) ∧
      ∀ k, k ≠ cmdMbox c → mbox t k = mbox s k := by
  intro x t
  have hbox := mbox_storePayload_same (cmdMbox c) (slice (c.packet.drop 64) 0 56) (begun c s)
  obtain ⟨due, hgo⟩ := mailGo_fills (who := mailSender c) (m := cmdMbox c)
    (s := storePayload (cmdMbox c) (slice (c.packet.drop 64) 0 56) (begun c s)) (by rw [hbox]; exact hreset)
    (by rw [hbox]; exact hfenced)
  have hfw := (ended_fw s _).trans ((complete_fw c .ok [] mailboxes _).trans hgo)
  have hsame : mbox t (cmdMbox c) = sentBox (mailSender c) due
      { x with payload := payloadWords (slice (c.packet.drop 64) 0 56) x.payload } := by
    rw [mbox_of_fw hfw, mbox_setMbox, hbox]
    rfl
  refine ⟨?_, ?_, ?_, ?_, ?_, fun i hi => ?_, fun k hk => ?_⟩
  · rw [hsame, sentBox]
  · rw [hsame, sentBox]
  · rw [hsame, sentBox]
  · rw [hsame, sentBox, mailSender]
  · rw [hsame, sentBox, mailSender]
    by_cases hp : c.part = 0
    · simp only [if_pos hp]
      rfl
    · simp only [if_neg hp]
      rfl
  · rw [hsame, sentBox, tget_payloadWords _ _ hi]
  · rw [mbox_of_fw hfw, mbox_setMbox_other _ _ _ _ hk, mbox_storePayload_other hk]
    rfl

/-! ## MBOX_READ (R444, R447) -/

section
variable {c : Cmd} {s : State} (ha : admits descMboxRead c s)
include ha

theorem exec_mboxRead_denied (hs : settled s) (h : (mbox s (cmdMbox c)).ownerPartition = false ∨
    (mbox s (cmdMbox c)).ownerPart.toNat ≠ c.part) :
    exec (.mboxRead c) s = .next (complete c .denied [] (procUnit s c) (begun c s)) := by
  have hf : ((mbox s (cmdMbox c)).ownerPartition && (mbox s (cmdMbox c)).ownerPart.toNat == c.part) = false := by
    rw [Bool.and_eq_false_iff]
    simpa using h
  rw [exec, execMboxRead]
  exact runCmd_refuses _ _ hs ha (by simp only [firstFail, hf, Bool.not_false, if_true])

variable (ho : (mbox s (cmdMbox c)).ownerPartition = true) (hp : (mbox s (cmdMbox c)).ownerPart.toNat = c.part)
include ho hp

theorem exec_mboxRead_empty (hs : settled s) (hfull : (mbox s (cmdMbox c)).full = false) :
    exec (.mboxRead c) s = .next (complete c .ok [0] mailboxes (begun c s)) := by
  rw [exec, execMboxRead, runCmd_passes _ _ _ _ _ ha.1 ha.2 (by simp [ho, hp]), hfull]
  exact ends_undisturbed hs ((begun_undisturbed c s).trans (complete_undisturbed _ _ _ _ _))

/-- A full mailbox's words are written and `FULL` clears. -/
theorem exec_mboxRead_full {v : State} (hfull : (mbox s (cmdMbox c)).full = true)
    (hw : bufWrite mailboxes c.part (param c 18 2 0 16) (fieldLE c.packet 24 8)
      ((List.range 16).flatMap fun w => leBytes 4 (mailWord (mbox s (cmdMbox c)) w)) (begun c s) = (v, .ok)) :
    exec (.mboxRead c) s = .next (ended s (complete c .ok [1] mailboxes
      (setMbox (cmdMbox c) { mbox v (cmdMbox c) with full := false } v))) := by
  have hw' : bufWrite mailboxes c.part (param c 18 2 0 16) (fieldLE c.packet 24 8)
    ((List.range 16).flatMap fun w => leBytes 4 (mailWord (mbox s (cmdMbox c)) w)) (setStarted true c s) = (v, .ok) := hw
  rw [exec, execMboxRead, runCmd_passes _ _ _ _ _ ha.1 ha.2 (by simp [ho, hp]), hfull]
  simp only [Bool.not_true, Bool.false_eq_true, if_false, hw', ends]

end

theorem mboxRead_spec {c : Cmd} {s v : State} {bs : List Byte}
    (hw : bufWrite mailboxes c.part (param c 18 2 0 16) (fieldLE c.packet 24 8) bs (begun c s) = (v, .ok)) :
    mbox (ended s (complete c .ok [1] mailboxes (setMbox (cmdMbox c) { mbox v (cmdMbox c) with full := false } v)))
      (cmdMbox c) = { mbox s (cmdMbox c) with full := false } := by
  have h := (bufWrite_touches mailboxes c.part (param c 18 2 0 16) (fieldLE c.packet 24 8) bs (begun c s)).fw
  rw [hw] at h
  rw [mbox_of_fw ((ended_fw s _).trans (complete_fw _ _ _ _ _)), mbox_setMbox, mbox_of_fw h]
  rfl

end Sys2Proof.Machine
end

section
/-! PROOFS. Starts, restarts, firmware and mailboxes, put together. -/

namespace Sys2Proof.Machine

/-- A step of a start that fails leaves what R435 says. -/
theorem startStepDone_fails {n : Nat} {i : StartInfo} {s : State} {r : StartRun} (h : s.fw.start = some r) {c : Nat}
    (ho : stepOpen r n = true)
    (hc : r.warm = false ∧ (n = 1 ∧ i.pass = false ∧ c = 1 ∨ n = 2 ∧ loadFirmware s = none ∧ c = 2 ∨
        n = 3 ∧ i.pass = false ∧ c = 3 ∨ n = 4 ∧ enoughDies i.dies = false ∧ c = 5) ∨
      r.warm = true ∧ (n = 1 ∧ (i.pass = false ∨ rehashFirmware s = none) ∧ c = 2 ∨ n = 2 ∧ i.pass = false ∧ c = 3 ∨
        n = 3 ∧ enoughDies i.dies = false ∧ c = 5)) :
    ∃ t, exec (.startStepDone n i) s = .next t ∧ StartFailed s t r n c := by
  have hrun : startStep n i s = failStart n c s := by
    rw [startStep_open h ho]
    rcases hc with ⟨hw, hc⟩ | ⟨hw, hc⟩
    · rw [hw, if_neg (by simp), coldStep_fails hc]
    · rw [hw, if_pos rfl, warmStep_fails hc]
  refine ⟨_, rfl, ?_⟩
  rw [hrun]
  exact ended_failStart h n c

/-- A step of a start, but for the last, that passes is marked done, with what it has set (R433, R434). -/
theorem startStepDone_passes {n : Nat} {i : StartInfo} {s : State} {r : StartRun} (h : s.fw.start = some r)
    (ho : stepOpen r n = true)
    (hp : r.warm = false ∧ (n = 1 ∧ i.pass = true ∨ n = 2 ∧ loadFirmware s ≠ none ∨ n = 3 ∧ i.pass = true ∨
        n = 4 ∧ enoughDies i.dies = true ∨ 5 ≤ n ∧ n ≤ 7) ∨
      r.warm = true ∧ (n = 1 ∧ i.pass = true ∧ rehashFirmware s ≠ none ∨ n = 2 ∧ i.pass = true ∨
        n = 3 ∧ enoughDies i.dies = true ∨ 4 ≤ n ∧ n ≤ 6)) :
    ∃ t, exec (.startStepDone n i) s = .next t ∧ t.fw.start = some { r with done := r.done ++ [n] } ∧
      ((if r.warm then n = 3 else n = 4) → t.weft.diePresent = BitVec.ofNat 40 i.dies) ∧
      ((if r.warm then n = 2 else n = 3) → s.pins.porN = true → s.pins.thermtripN = true → t.pins.vrEn = true) ∧
      (r.warm = false → n = 7 → settled s → t.spl.mem = [] ∧
        ∀ g, gotState (tget 0 t.spl.got g).toNat = if g < 4 then gotDevice else gotFree) := by
  refine ⟨_, rfl, ?_⟩
  rw [startStep_open h ho]
  rcases hp with ⟨hw, hp⟩ | ⟨hw, hp⟩
  · have hn : ¬ r.warm = true := by simp [hw]
    rw [if_neg hn, if_neg hn, if_neg hn, ended_fw, ended_weft]
    refine ⟨coldStep_passes h hp, ?_, ?_, ?_⟩
    · rintro rfl
      rw [coldStep_four, if_pos (by simpa using hp), presentStep_diePresent]
    · rintro rfl
      rw [coldStep_three, if_pos (by simpa using hp)]
      exact regulatorStep_vrEn _ _
    · rintro - rfl hs
      exact zeroStep_memory i hs
  · rw [if_pos hw, if_pos hw, if_pos hw, ended_fw, ended_weft]
    refine ⟨warmStep_passes h hp, ?_, ?_, by simp [hw]⟩
    · rintro rfl
      rw [warmStep_three, if_pos (by simpa using hp), presentStep_diePresent]
    · rintro rfl
      rw [warmStep_two, if_pos (by simpa using hp)]
      exact regulatorStep_vrEn _ _

/-- Settles O58: each clause by the rule for its command or event. -/
theorem startsRestartsFirmwareAndMailboxes : Obligations.StartsRestartsFirmwareAndMailboxes := by
  refine ⟨fun s => ⟨fun hv hs => ?inTolerance, vddAoInTolerance_starts, vddAoLoss_spec s⟩, fun n s hp hv => ?release,
    fun s hp => ?assert, fun n i s r h => ⟨fun ho hs => ?closed, fun c ho hc => startStepDone_fails h ho hc,
      fun ho hp => startStepDone_passes h ho hp, fun ho hn => ?last⟩,
    fun n w s r h => ⟨fun hb hs => ?early, fun ho hb => ?overrun⟩,
    fun c s ha => ⟨fun hr => ?restart, fun hr hs => ?again⟩,
    fun s => ⟨fun hr hs => ?noRestart, fun r hr hd hs => ?restartEarly, fun r hr hd => ?restartDue,
      fun x hx => ⟨fun hd hs => ?resetEarly, fun hd => ?resetDue⟩⟩,
    fun c s v bs off hoff ha hlen halign hend hread => ?download, fun c s img himg ha hl => ?activate,
    fun c s m x hm hx ha hi => ?send, fun c s m x hm hx ha => ?read⟩
  case inTolerance =>
    rw [exec, execVddAoInTolerance, if_pos hv]
    exact ends_undisturbed hs (.refl s)
  case release => exact ⟨_, rfl, porRelease_spec hp hv⟩
  case assert =>
    refine ⟨_, rfl, ?_⟩
    rw [if_pos hp]
    exact porAssert_spec s
  case closed =>
    rw [exec, execStartStepDone, startStep_closed h ho]
    exact ends_undisturbed hs (.refl s)
  case last =>
    refine ⟨_, rfl, ?_⟩
    rw [startStep_open h ho, lastStep_ready hn]
    exact becomeReady_spec s r.warm i.setVer
  case early =>
    rw [exec, execStartStepOverrun, startOverrun_waits h hb]
    exact ends_undisturbed hs (.refl s)
  case overrun =>
    refine ⟨_, rfl, ?_⟩
    rw [startOverrun_fails h ho hb]
    exact ended_failStart h n 4
  case restart => exact ⟨_, exec_devRestart_first ha hr, devRestart_spec c s⟩
  case again =>
    rw [exec, execDevRestart]
    exact runCmd_refuses _ _ hs ha (by simp [firstFail, Option.isSome_iff_ne_none.mpr hr])
  case noRestart =>
    rw [exec, execRestartDeadline, restartDeadline_none hr]
    exact ends_undisturbed hs (.refl s)
  case restartEarly =>
    rw [exec, execRestartDeadline, restartDeadline_waits hr hd]
    exact ends_undisturbed hs (.refl s)
  case restartDue =>
    refine ⟨_, rfl, ?_⟩
    rw [restartDeadline_due hr hd, ended_fw]
    exact ⟨beginStart_start _ s, beginStart_restart _ s⟩
  case resetEarly =>
    rw [exec, execPackageReset, packageReset_waits hx hd]
    exact ends_undisturbed hs (.refl s)
  case resetDue =>
    refine ⟨_, rfl, ?_⟩
    rw [packageReset_due hx hd, ended_fw, ended_mem_quiet _ _ (beginStart_todo true s)]
    exact ⟨beginStart_pkgReset true s, beginStart_start true s, beginStart_warm_mem s⟩
  case download =>
    subst hoff
    have hrun := exec_fwDownload ha hlen halign hend hread
    exact ⟨hrun, _, hrun, fwDownload_stores bs _ (fwDownload_read_fw hread)⟩
  case activate =>
    rw [himg]
    exact fwActivate_spec ha hl
  case send =>
    subst hm hx
    refine ⟨fun hmay hs => ?_, fun hmay => ⟨fun hfull hs => ?_, fun hfull hr hs => ?_, fun hfull hr hf hs => ?_,
      fun hfull hr hf => ⟨_, exec_mboxSend ha hi hmay hfull hr hf, rfl, mboxSend_spec hr hf⟩⟩⟩
    · exact exec_mboxSend_refused ha hi hs (by simp [firstFail, hmay])
    · exact exec_mboxSend_refused ha hi hs (by simp [firstFail, hmay, hfull])
    · exact exec_mboxSend_refused ha hi hs (by simp [firstFail, hmay, hfull, hr])
    · exact exec_mboxSend_refused ha hi hs (by simp [firstFail, hmay, hfull, hr, hf])
  case read =>
    subst hm hx
    refine ⟨fun ho hs => exec_mboxRead_denied ha hs ho, fun ho hp => ⟨fun hfull hs => exec_mboxRead_empty ha ho hp hs hfull,
      fun v hfull hw => ?_⟩⟩
    have hrun := exec_mboxRead_full ha ho hp hfull hw
    exact ⟨hrun, _, hrun, mboxRead_spec hw⟩

end Sys2Proof.Machine
end

section
/-! PROOFS. Tables that are filled over a range, joined, or filtered by number. -/

namespace Sys2Proof.Machine

variable {α : Type}

/-- What a joined table lacks in its first part is read from its second. -/
theorem tget_append (d : α) (a b : Tab α) (i : Nat) : tget d (a ++ b) i = tget (tget d b i) a i := by
  induction a with
  | nil => rfl
  | cons e r ih => simp only [List.cons_append, tget, ih]

/-- A table filtered by number reads as before where the number stays, and as the default elsewhere. -/
theorem tget_filter_fst (d : α) (p : Nat → Bool) (t : Tab α) (i : Nat) :
    tget d (t.filter fun e => p e.1) i = if p i then tget d t i else d := by
  induction t with
  | nil => simp [tget]
  | cons e r ih =>
    rw [List.filter_cons]
    by_cases he : e.1 = i
    · subst he
      cases hp : p e.1 with
      | true => simp [tget]
      | false => simpa [hp] using ih
    · have skip : tget d (e :: r) i = tget d r i := by simp [tget, he]
      split
      · rw [skip, ← ih]
        simp [tget, he]
      · rw [skip, ih]

/-- One value at `n` numbers in a row. -/
theorem tget_run (d v : α) (first n i : Nat) :
    tget d ((List.range n).map fun k => (first + k, v)) i = if first ≤ i ∧ i < first + n then v else d := by
  induction n generalizing d with
  | zero => simp [tget]
  | succ n ih =>
    rw [List.range_succ, List.map_append, tget_append, ih]
    by_cases hi : i = first + n
    · subst hi
      simp [tget]
    · have last : tget d ([n].map fun k => (first + k, v)) i = d := by simp [tget, Ne.symm hi]
      rw [last]
      exact if_congr (by omega) rfl rfl

/-- A table written over a range reads as the value there, and as before elsewhere. -/
theorem tget_tfill [DecidableEq α] (d : α) (t : Tab α) (first n : Nat) (v : α) (i : Nat) :
    tget d (tfill d t first n v) i = if first ≤ i ∧ i < first + n then v else tget d t i := by
  have run : ∀ w : α, tget w (if v = d then [] else (List.range n).map fun k => (first + k, v)) i =
      if first ≤ i ∧ i < first + n then (if v = d then w else v) else w := by
    intro w
    split
    · simp [tget]
    · exact tget_run w v first n i
  rw [tfill, tget_append, tget_append, tget_filter_fst _ (fun k => decide (k < first)), run,
    tget_filter_fst _ (fun k => decide (first + n ≤ k))]
  rcases lt_or_ge i first with hlo | hlo
  · have hhi : ¬first + n ≤ i := by omega
    have hin : ¬(first ≤ i ∧ i < first + n) := by omega
    simp [hlo, hhi, hin]
  · have hlo' : ¬i < first := by omega
    rcases lt_or_ge i (first + n) with hhi | hhi
    · have hout : ¬first + n ≤ i := by omega
      simp only [hlo', hhi, hlo, hout, decide_false, and_self, if_true, Bool.false_eq_true, if_false]
      split
      · exact Eq.symm ‹v = d›
      · rfl
    · have hin : ¬i < first + n := by omega
      simp [hlo', hhi, hin]

end Sys2Proof.Machine
end

section
/-! PROOFS. Which lines of an access pass, and the granule check (R44, R46, R53). -/

namespace Sys2Proof.Machine

/-- A write none of whose lines is refused, and that writes each poisoned line whole, meets no bad line (R46). -/
theorem firstBad_write_none {s : State} {src ctx : Nat} {ps : List (Nat × Nat)}
    (h : ∀ p ∈ ps, lineStatus s src ctx p.1 = .ok ∧ (poisoned s p.1 = false ∨ p.2 = 64)) :
    firstBad s src ctx true ps = none := by
  induction ps with
  | nil => rfl
  | cons p r ih =>
    obtain ⟨hp, hr⟩ := List.forall_mem_cons.mp h
    obtain ⟨hl, hw⟩ := hp
    have passes : (poisoned s p.1 && (!true || p.2 != 64)) = false := by
      rcases hw with hw | hw <;> simp [hw]
    simp only [firstBad, hl, passes, Bool.false_eq_true, if_false]
    exact ih hr

/-- Settles O10: a write that meets no bad line stores its bytes, any other stores some of them, and neither goes outside. -/
theorem spoolWriteStoresItsBytesOnly : Obligations.SpoolWriteStoresItsBytesOnly := by
  intro src ctx off bs s
  exact ⟨fun h => spoolWrite_ok src ctx off bs s (firstBad_write_none h),
    fun i hi => spoolWrite_outside src ctx off bs s i hi, spoolWrite_canonical src ctx off bs s⟩

/-! ## The rows of R53 -/

section
variable {s : State} {src ctx : Nat} (off : Nat)

theorem granuleAllows_host (hc : classOf src = 8) (hi : instOf src = 2) :
    granuleAllows s src ctx off = gotHost (gotEntry s (stackOf off) (granuleOf off)) := by
  simp [granuleAllows, hc, hi]

theorem granuleAllows_context (hh : ¬(classOf src = 8 ∧ instOf src = 2)) (hx : ctx ≠ 0) :
    granuleAllows s src ctx off = true ↔ gotState (gotEntry s (stackOf off) (granuleOf off)) = gotOwned ∧
      ctxPartAt s (stackOf off) ctx = gotOwner (gotEntry s (stackOf off) (granuleOf off)) := by
  simp [granuleAllows, hh, hx]

theorem granuleAllows_trusted (hc : classOf src = 0 ∨ classOf src = 11 ∨ classOf src = 6) :
    granuleAllows s src 0 off = true := by
  have hh : ¬(classOf src = 8 ∧ instOf src = 2) := by omega
  simp [granuleAllows, hh, hc]

theorem granuleAllows_engine (hc : classOf src = 3 ∨ classOf src = 1 ∨ classOf src = 5) :
    granuleAllows s src 0 off = true ↔ gotState (gotEntry s (stackOf off) (granuleOf off)) = gotDevice := by
  have hh : ¬(classOf src = 8 ∧ instOf src = 2) := by omega
  have ht : ¬(classOf src = 0 ∨ classOf src = 11 ∨ classOf src = 6) := by omega
  simp [granuleAllows, hh, ht, hc]

theorem granuleAllows_other (hh : ¬(classOf src = 8 ∧ instOf src = 2)) (hc : classOf src ∉ [0, 1, 3, 5, 6, 11]) :
    granuleAllows s src 0 off = false := by
  simp only [List.mem_cons, List.not_mem_nil, or_false, not_or] at hc
  have ht : ¬(classOf src = 0 ∨ classOf src = 11 ∨ classOf src = 6) := by omega
  have he : ¬(classOf src = 3 ∨ classOf src = 1 ∨ classOf src = 5) := by omega
  simp [granuleAllows, hh, ht, he]

end

/-- Settles O11, row by row. -/
theorem granuleCheckTable : Obligations.GranuleCheckTable := by
  intro s src ctx off
  refine ⟨granuleAllows_host off, granuleAllows_context off, ?_, ?_, ?_⟩
  · rintro rfl
    exact granuleAllows_trusted off
  · rintro rfl
    exact granuleAllows_engine off
  · rintro rfl
    exact granuleAllows_other off

end Sys2Proof.Machine
end

section
/-! PROOFS. Spool and host requests that are admitted (R44, R46, R47, R53, R60). -/

namespace Sys2Proof.Machine

/-! ## What counting the lines of an access changes (R60, R495) -/

/-- Counting changes the snoop filter, the counters and what has left the device. -/
def Counts (s t : State) : Prop := t = { s with spl := { s.spl with filter := t.spl.filter }, cnt := t.cnt, out := t.out }

theorem Counts.refl (s : State) : Counts s s := rfl

theorem Counts.trans {s t u : State} (h : Counts s t) (k : Counts t u) : Counts s u := by
  have e := congrArg
    (fun x : State => { x with spl := { x.spl with filter := u.spl.filter }, cnt := u.cnt, out := u.out }) h
  exact Eq.trans k e

theorem bump_counts (u i n : Nat) (s : State) : Counts s (bump u i n s) := by
  rw [bump_frame]
  rfl

theorem snoopLine_counts (write : Bool) (off : Nat) (s : State) : Counts s (snoopLine write off s) := by
  have sends (o : Out) (e : Option (Nat × Bool)) :
      Counts s (emit o (setFilter (off / 64) e (bump (controller (stackOf off)) 6 1 s))) :=
    (bump_counts _ _ _ s).trans rfl
  unfold snoopLine
  split
  · exact .refl s
  · split
    · exact sends _ _
    · split
      · exact sends _ _
      · exact .refl s

theorem touchLine_counts (ctx : Nat) (write : Bool) (s : State) (p : Nat × Nat) : Counts s (touchLine ctx write s p) := by
  refine (snoopLine_counts write p.1 s).trans (.trans ?_ (bump_counts _ _ _ _))
  split <;> rfl

theorem countLines_counts (ctx : Nat) (write : Bool) (ps : List (Nat × Nat)) (s : State) :
    Counts s (countLines ctx write ps s) :=
  foldl_related .refl .trans (touchLine_counts ctx write) ps s

section
variable {s t : State} (h : Counts s t)
include h

theorem Counts.undisturbed : Undisturbed s t := by
  rw [h]
  exact ⟨rfl, rfl, rfl, rfl, rfl, rfl⟩

theorem Counts.stackUp (n : Nat) : stackUp t n = stackUp s n := by
  rw [h]
  rfl

theorem Counts.lineStatus (src ctx off : Nat) : lineStatus t src ctx off = lineStatus s src ctx off := by
  rw [h]
  rfl

theorem Counts.poisoned (off : Nat) : poisoned t off = poisoned s off := by
  rw [h]
  rfl

theorem Counts.firstBad (src ctx : Nat) (write : Bool) (ps : List (Nat × Nat)) :
    firstBad t src ctx write ps = firstBad s src ctx write ps := by
  induction ps with
  | nil => rfl
  | cons p r ih => simp only [Machine.firstBad, h.lineStatus, h.poisoned, ih]

end

/-! ## What the other parts of an access disturb -/

theorem emit_undisturbed (o : Out) (s : State) : Undisturbed s (emit o s) := ⟨rfl, rfl, rfl, rfl, rfl, rfl⟩

theorem setFilter_undisturbed (line : Nat) (e : Option (Nat × Bool)) (s : State) : Undisturbed s (setFilter line e s) :=
  ⟨rfl, rfl, rfl, rfl, rfl, rfl⟩

theorem noteUe_undisturbed (off : Nat) (s : State) : Undisturbed s (noteUe off s) := ⟨rfl, rfl, rfl, rfl, rfl, rfl⟩

theorem storePiece_undisturbed (a : Nat) (bs : List Byte) (s : State) : Undisturbed s (storePiece a bs s) :=
  ⟨rfl, rfl, rfl, rfl, rfl, rfl⟩

theorem bump_undisturbed (u i n : Nat) (s : State) : Undisturbed s (bump u i n s) := (bump_counts u i n s).undisturbed

theorem countLines_undisturbed (ctx : Nat) (write : Bool) (ps : List (Nat × Nat)) (s : State) :
    Undisturbed s (countLines ctx write ps s) := (countLines_counts ctx write ps s).undisturbed

theorem storeUpTo_undisturbed (off : Nat) (bs : List Byte) (stop : Option Nat) (ps : List (Nat × Nat)) (s : State) :
    Undisturbed s (storeUpTo off bs stop ps s) := by
  induction ps generalizing s with
  | nil => exact .refl s
  | cons p r ih =>
    simp only [storeUpTo]
    split
    · exact .refl s
    · exact (storePiece_undisturbed _ _ s).trans (ih _)

theorem poisonedWrite_undisturbed (ps : List (Nat × Nat)) (s : State) : Undisturbed s (poisonedWrite ps s) :=
  foldl_related .refl .trans (fun _ _ => ⟨rfl, rfl, rfl, rfl, rfl, rfl⟩) ps s

/-! ## Codewords without errors (R40) -/

/-- A codeword without errors is clean, or the poison codeword: decoding it does nothing. -/
theorem decodeLine_noErrors (off : Nat) (s : State) : decodeLine off [] s = s := by
  simp [decodeLine, badSymbols, decodeSymbols]

theorem decodeFor_noErrors {r : SpoolReq} (he : r.errs = []) (s : State) : decodeFor r s = s := by
  have go : ∀ ps, decodeGo r ps s = s := by
    intro ps
    induction ps with
    | nil => rfl
    | cons p ps ih => simp [decodeGo, he, decodeLine_noErrors, ih]
  exact go _

/-! ## Reads and writes of Spool memory (R44, R47) -/

section
variable {s : State} {src ctx off : Nat}

theorem spoolRead_passes {n : Nat} (h : firstBad s src ctx false (linePieces off n) = none) :
    spoolRead src ctx off n s = (countLines ctx false (linePieces off n) s, .ok, memRead s.spl.mem off n) := by
  simp only [spoolRead, h]

theorem spoolRead_poison {n a : Nat} (h : firstBad s src ctx false (linePieces off n) = some (a, .poison))
    (hu : stackUp s (stackOf a) = true) :
    spoolRead src ctx off n s =
      (noteUe a (countLines ctx false (before a (linePieces off n)) s), .poison, []) := by
  simp only [spoolRead, h, noteBad, (countLines_counts _ _ _ s).stackUp, hu, if_true]

theorem spoolWrite_passes {bs : List Byte} (h : firstBad s src ctx true (linePieces off bs.length) = none) :
    spoolWrite src ctx off bs s =
      (countLines ctx true (linePieces off bs.length) (storeUpTo off bs none (linePieces off bs.length) s), .ok) := by
  simp only [spoolWrite, h]

theorem spoolWrite_passes_undisturbed {bs : List Byte}
    (h : firstBad s src ctx true (linePieces off bs.length) = none) :
    Undisturbed s (spoolWrite src ctx off bs s).1 := by
  rw [spoolWrite_passes h]
  exact (storeUpTo_undisturbed _ _ _ _ s).trans (countLines_undisturbed _ _ _ _)

end

/-! ## Device requests -/

section
variable {r : SpoolReq} {s : State}

theorem admitRequest_serves (hb : usesBadEntry r = false) (hl : lineStatus s r.src r.ctx r.off = .ok)
    (hn : snoopNeeded s r = none) : admitRequest r s = serveRequest r s := by
  simp only [admitRequest, hb, hl, hn, Bool.false_and, Bool.false_eq_true, if_false]

/-- A request that is admitted, and served without disturbing anything, leaves exactly what serving it does. -/
theorem exec_spoolRequest_served {t : State} (hs : settled s) (hb : usesBadEntry r = false)
    (hl : lineStatus s r.src r.ctx r.off = .ok) (hn : snoopNeeded s r = none) (ht : serveRequest r s = t)
    (hu : Undisturbed s t) : exec (.spoolRequest r) s = .next t := by
  rw [exec, execSpoolRequest, admitRequest_serves hb hl hn, ht]
  exact ends_undisturbed hs hu

theorem serveRequest_read {n : Nat} (he : r.errs = []) (hk : r.kind = .read n)
    (hf : firstBad s r.src r.ctx false (linePieces r.off n) = none) :
    serveRequest r s = emit (.spoolReply r.src .ok (memRead s.spl.mem r.off n))
      (countLines r.ctx false (linePieces r.off n) s) := by
  simp only [serveRequest, decodeFor_noErrors he, hk, spoolRead_passes hf, spoolAnswer]

theorem serveRequest_read_poison {n a : Nat} (he : r.errs = []) (hk : r.kind = .read n)
    (hf : firstBad s r.src r.ctx false (linePieces r.off n) = some (a, .poison)) (hu : stackUp s (stackOf a) = true) :
    serveRequest r s = emit (.spoolReply r.src .poison [])
      (noteUe a (countLines r.ctx false (before a (linePieces r.off n)) s)) := by
  simp only [serveRequest, decodeFor_noErrors he, hk, spoolRead_poison hf hu, spoolAnswer]

theorem serveRequest_write {d : List Byte} (he : r.errs = []) (hk : r.kind = .write d false)
    (hf : firstBad s r.src r.ctx true (linePieces r.off d.length) = none) :
    serveRequest r s = emit (.spoolReply r.src .ok [])
      (countLines r.ctx true (linePieces r.off d.length)
        (storeUpTo r.off d none (linePieces r.off d.length) s)) := by
  simp only [serveRequest, decodeFor_noErrors he, hk, spoolWrite_passes hf, spoolAnswer, Bool.false_eq_true, if_false]

theorem serveRequest_write_poison {d : List Byte} (he : r.errs = []) (hk : r.kind = .write d true)
    (hf : firstBad s r.src r.ctx true (linePieces r.off d.length) = none) :
    serveRequest r s = emit (.spoolReply r.src .ok [])
      (countLines r.ctx true (linePieces r.off d.length) (poisonedWrite (linePieces r.off d.length) s)) := by
  simp only [serveRequest, decodeFor_noErrors he, hk, hf, spoolAnswer, if_true]

/-- What an atomic writes meets no bad line after the lines of its read have been counted. -/
theorem atomic_writes (v : Nat) (hw : firstBad s r.src r.ctx true (linePieces r.off 8) = none) :
    firstBad (countLines r.ctx false (linePieces r.off 8) s) r.src r.ctx true
      (linePieces r.off (leBytes 8 v).length) = none := by
  rw [leBytes_length, (countLines_counts _ _ _ s).firstBad, hw]

theorem serveRequest_atomic {op : AtomOp} {operand compare : Nat} (he : r.errs = [])
    (hk : r.kind = .atomic op operand compare) (hf : firstBad s r.src r.ctx false (linePieces r.off 8) = none)
    (hw : firstBad s r.src r.ctx true (linePieces r.off 8) = none) :
    serveRequest r s = emit (.spoolReply r.src .ok (memRead s.spl.mem r.off 8)) (spoolWrite r.src r.ctx r.off
      (leBytes 8 (atomApply op (leNat (memRead s.spl.mem r.off 8)) operand compare))
      (countLines r.ctx false (linePieces r.off 8) s)).1 := by
  simp only [serveRequest, decodeFor_noErrors he, hk, spoolRead_passes hf, spoolWrite_passes (atomic_writes _ hw),
    spoolAnswer]

theorem exec_spoolRequest_refused (hb : usesBadEntry r = false)
    (hl : lineStatus s r.src r.ctx r.off = .partitionMismatch) :
    exec (.spoolRequest r) s =
      .next (ended s (emit (.spoolReply r.src .partitionMismatch []) (noteDeny r.src r.ctx r.off s))) := by
  rw [exec, execSpoolRequest, ends]
  simp only [admitRequest, hb, hl, Bool.false_and, Bool.false_eq_true, if_false, noteBad, spoolAnswer]

end

/-! ## Host requests -/

section
variable {h : HostMemReq} {s : State}

/-- A line in no filter is served where a read finds room for it (R60). -/
theorem admitHost_unfiltered (hp : portUsable s h.port = true) (hm : (hport s h.port).memEn = true)
    (hl : lineStatus s (cxlPort h.port) 0 h.off = .ok) (hf : filterOf s (h.off / 64) = none)
    (hroom : h.data = none → (filterLines s (stackOf h.off)).length < 262144) : admitHost h s = serveHost h s := by
  have room : ¬(h.data = none ∧ (filterLines s (stackOf h.off)).length ≥ 262144) :=
    fun ⟨hd, hfull⟩ => absurd (hroom hd) (by omega)
  simp only [admitHost, hp, hm, hl, hf, room, Bool.not_true, Bool.or_self, Bool.false_eq_true, if_false]

/-- A host write is served, whichever port's filter holds its line. -/
theorem admitHost_filtered_write {p : Nat} {m : Bool} {d : List Byte} (hp : portUsable s h.port = true)
    (hm : (hport s h.port).memEn = true) (hl : lineStatus s (cxlPort h.port) 0 h.off = .ok)
    (hf : filterOf s (h.off / 64) = some (p, m)) (hd : h.data = some d) : admitHost h s = serveHost h s := by
  have write : p = h.port ∨ h.data ≠ none := .inr (by simp [hd])
  simp only [admitHost, hp, hm, hl, hf, write, Bool.not_true, Bool.or_self, Bool.false_eq_true, if_false, if_true]

theorem exec_hostCxlMem_served {t : State} (hs : settled s) (ha : admitHost h s = serveHost h s) (ht : serveHost h s = t)
    (hu : Undisturbed s t) : exec (.hostCxlMemRequest h) s = .next t := by
  rw [exec, execHostCxlMemRequest, ha, ht]
  exact ends_undisturbed hs hu

theorem serveHost_read (he : h.errs = []) (hq : poisoned s h.off = false) (hd : h.data = none) :
    serveHost h s = emit (.cxlMem h.port (h.off / 64 * 64) (memRead s.spl.mem (h.off / 64 * 64) 64) false)
      (setFilter (h.off / 64) (some (h.port, h.own))
        (bump (cxlPort h.port) 4 1 (bump (controller (stackOf h.off)) 2 1 s))) := by
  simp only [serveHost, hd, he, decodeLine_noErrors, hq, Bool.false_eq_true, if_false, bump_mem]

/-- The counters of a host write leave its line's entry in the filter alone, and so does the store. -/
theorem filterOf_hostStore (u v a line : Nat) (bs : List Byte) (s : State) :
    filterOf (storePiece a bs (bump u 5 1 (bump v 3 1 s))) line = filterOf s line := by
  rw [bump_frame u, bump_frame v]
  rfl

theorem serveHost_write_unfiltered {d : List Byte} (hf : filterOf s (h.off / 64) = none) (hq : h.poison = false)
    (hd : h.data = some d) :
    serveHost h s = storePiece (h.off / 64 * 64) (slice d 0 64)
      (bump (cxlPort h.port) 5 1 (bump (controller (stackOf h.off)) 3 1 s)) := by
  simp only [serveHost, hd, hq, Bool.false_eq_true, if_false, filterOf_hostStore, hf]

theorem serveHost_write_filtered {d : List Byte} {p : Nat} {m : Bool} (hf : filterOf s (h.off / 64) = some (p, m))
    (hq : h.poison = false) (hd : h.data = some d) :
    serveHost h s = setFilter (h.off / 64) (some (p, false)) (storePiece (h.off / 64 * 64) (slice d 0 64)
      (bump (cxlPort h.port) 5 1 (bump (controller (stackOf h.off)) 3 1 s))) := by
  simp only [serveHost, hd, hq, Bool.false_eq_true, if_false, filterOf_hostStore, hf]

/-- The two counters of a host request, its port's and its controller's. -/
theorem hostCounters_undisturbed (u i v j : Nat) (s : State) : Undisturbed s (bump u i 1 (bump v j 1 s)) :=
  (bump_undisturbed v j 1 s).trans (bump_undisturbed u i 1 _)

end

/-- Settles O12: each request is admitted, served as its kind says, and disturbs nothing; a refused one is recorded. -/
theorem spoolRequestsAreServed : Obligations.SpoolRequestsAreServed := by
  refine ⟨?read, ?write, ?poisoning, ?atomic, ?meetsPoison, ?refused, ?hostRead, ?hostWrite, ?hostWriteFiltered⟩
  case read =>
    intro r n s hs hb he hk hl hf hn
    exact exec_spoolRequest_served hs hb hl hn (serveRequest_read he hk hf)
      ((countLines_undisturbed _ _ _ s).trans (emit_undisturbed _ _))
  case write =>
    intro r d s hs hb he hk hl hf hn
    exact exec_spoolRequest_served hs hb hl hn (serveRequest_write he hk hf)
      (((storeUpTo_undisturbed _ _ _ _ s).trans (countLines_undisturbed _ _ _ _)).trans (emit_undisturbed _ _))
  case poisoning =>
    intro r d s hs hb he hk hl hf hn
    exact exec_spoolRequest_served hs hb hl hn (serveRequest_write_poison he hk hf)
      (((poisonedWrite_undisturbed _ s).trans (countLines_undisturbed _ _ _ _)).trans (emit_undisturbed _ _))
  case atomic =>
    intro r op operand compare s hs hb he hk hl hf hw hn
    exact exec_spoolRequest_served hs hb hl hn (serveRequest_atomic he hk hf hw)
      (((countLines_undisturbed _ _ _ s).trans (spoolWrite_passes_undisturbed (atomic_writes _ hw))).trans
        (emit_undisturbed _ _))
  case meetsPoison =>
    intro r n a s hs hb he hk hl hf hu hn
    exact exec_spoolRequest_served hs hb hl hn (serveRequest_read_poison he hk hf hu)
      (((countLines_undisturbed _ _ _ s).trans (noteUe_undisturbed _ _)).trans (emit_undisturbed _ _))
  case refused => exact fun r s hb hl => exec_spoolRequest_refused hb hl
  case hostRead =>
    intro h s hs hp hm hl hf hroom he hq hd
    exact exec_hostCxlMem_served hs (admitHost_unfiltered hp hm hl hf fun _ => hroom) (serveHost_read he hq hd)
      (((hostCounters_undisturbed _ _ _ _ s).trans (setFilter_undisturbed _ _ _)).trans (emit_undisturbed _ _))
  case hostWrite =>
    intro h d s hs hp hm hl hf hq hd
    exact exec_hostCxlMem_served hs (admitHost_unfiltered hp hm hl hf fun hnone => by simp [hd] at hnone)
      (serveHost_write_unfiltered hf hq hd)
      ((hostCounters_undisturbed _ _ _ _ s).trans (storePiece_undisturbed _ _ _))
  case hostWriteFiltered =>
    intro h d p m s hs hp hm hl hf hq hd
    exact exec_hostCxlMem_served hs (admitHost_filtered_write hp hm hl hf hd) (serveHost_write_filtered hf hq hd)
      (((hostCounters_undisturbed _ _ _ _ s).trans (storePiece_undisturbed _ _ _)).trans (setFilter_undisturbed _ _ _))

end Sys2Proof.Machine
end

section
/-! PROOFS. Changes of the granule-owner table and the context map (R54, R57 to R59, R65, R519). -/

namespace Sys2Proof.Machine

/-! ## What follows a table change -/

/-- What follows a table change touches the commands and the partitions, and nothing else. -/
def ServesCommands (s t : State) : Prop := t = { s with jcq := t.jcq, parts := t.parts }

theorem completeRef_servesCommands (r : CmdRef) (st : Status) (res : List Nat) (unit : Nat) (s : State) :
    ServesCommands s (completeRef r st res unit s) := by
  rw [completeRef_frame]
  rfl

theorem clearCheck_servesCommands (p : Nat) (s : State) : ServesCommands s (clearCheck p s) := by
  unfold clearCheck
  split
  · rfl
  · split
    · rfl
    · rw [completeRef_frame]
      rfl

theorem tableThen_servesCommands (a : TableThen) (s : State) : ServesCommands s (tableThen a s) := by
  cases a with
  | complete r => exact completeRef_servesCommands _ _ _ _ s
  | clear p => exact clearCheck_servesCommands p s
  | nothing => rfl

section
variable {s t : State} (h : ServesCommands s t)
include h

theorem ServesCommands.undisturbed : Undisturbed s t := by
  rw [h]
  exact ⟨rfl, rfl, rfl, rfl, rfl, rfl⟩

theorem ServesCommands.spl : t.spl = s.spl := congrArg (·.spl) h
theorem ServesCommands.hdl : t.hdl = s.hdl := congrArg (·.hdl) h

end

/-! ## Sending a change (R54) -/

section
variable (granule : Bool) (first count value : Nat) (after : TableThen) (s : State)

theorem sendTable_undisturbed : Undisturbed s (sendTable granule first count value after s) := by
  simp only [sendTable]
  split
  · refine .trans ?_ (tableThen_servesCommands after _).undisturbed
    exact ⟨rfl, rfl, rfl, rfl, rfl, rfl⟩
  · exact ⟨rfl, rfl, rfl, rfl, rfl, rfl⟩

@[simp] theorem sendTable_mem : (sendTable granule first count value after s).spl.mem = s.spl.mem := by
  simp only [sendTable]
  split
  · rw [(tableThen_servesCommands after _).spl]
  · rfl

theorem sendTable_got :
    (sendTable true first count value after s).spl.got = tfill 0 s.spl.got first count (BitVec.ofNat 16 value) := by
  simp only [sendTable, if_true]
  split
  · rw [(tableThen_servesCommands after _).spl]
  · rfl

theorem sendTable_ctxPart :
    (sendTable false first count value after s).hdl.ctxPart =
      tfill 0 s.hdl.ctxPart first count (BitVec.ofNat 6 value) := by
  simp only [sendTable, Bool.false_eq_true, if_false]
  split
  · rw [(tableThen_servesCommands after _).hdl]
  · rfl

/-- The contexts of the range have the partition as their owner, the others the one they had (R65). -/
theorem sendTable_ctxOwner (hv : value < 64) (x : Nat) :
    ctxOwner (sendTable false first count value after s) x =
      if first ≤ x ∧ x < first + count then value else ctxOwner s x := by
  rw [ctxOwner, sendTable_ctxPart, tget_tfill]
  split
  · simpa using Nat.mod_eq_of_lt hv
  · rfl

end

/-! ## Releases (R59) -/

section
variable (first count : Nat) (cmd : Option CmdRef) (clear : Option Nat) (r : Release) (s : State)

theorem releaseDone_undisturbed : Undisturbed s (releaseDone r s) := by
  refine .trans ?_ (sendTable_undisturbed _ _ _ _ _ _)
  exact ⟨rfl, rfl, rfl, rfl, rfl, rfl⟩

@[simp] theorem releaseDone_mem : (releaseDone r s).spl.mem = s.spl.mem := by
  simp only [releaseDone, sendTable_mem]

theorem releaseDone_got :
    (releaseDone r s).spl.got = tfill 0 s.spl.got r.first r.count (BitVec.ofNat 16 (mkGot 0 gotFree false)) := by
  simp only [releaseDone, sendTable_got]

theorem startRelease_undisturbed : Undisturbed s (startRelease first count cmd clear s) := by
  simp only [startRelease]
  split
  · refine .trans (.trans ?_ (sendTable_undisturbed _ _ _ _ _ _)) (releaseDone_undisturbed _ _)
    exact ⟨rfl, rfl, rfl, rfl, rfl, rfl⟩
  · refine .trans ?_ (sendTable_undisturbed _ _ _ _ _ _)
    exact ⟨rfl, rfl, rfl, rfl, rfl, rfl⟩

@[simp] theorem startRelease_mem : (startRelease first count cmd clear s).spl.mem = s.spl.mem := by
  simp only [startRelease]
  split
  · simp only [releaseDone_mem, sendTable_mem]
  · simp only [sendTable_mem]

/-- A release's range is ZEROING in the reference table, or FREE at once where no controller is in service; the rest of the
table stands. -/
theorem startRelease_got (g : Nat) :
    tget 0 (startRelease first count cmd clear s).spl.got g = if first ≤ g ∧ g < first + count then
        (if (List.range 16).filter (stackUp s) = [] then BitVec.ofNat 16 (mkGot 0 gotFree false)
         else BitVec.ofNat 16 (mkGot 0 gotZeroing false))
      else tget 0 s.spl.got g := by
  simp only [startRelease]
  split
  · rw [releaseDone_got, sendTable_got, tget_tfill, tget_tfill]
    split <;> rfl
  · rw [sendTable_got, tget_tfill]

end

/-! ## The commands -/

/-- Where every granule of a range is in one state, the check for that state passes. -/
theorem gotRange_state {s : State} {first count st : Nat}
    (h : ∀ k, k < count → gotState (tget 0 s.spl.got (first + k)).toNat = st) :
    ∀ e ∈ gotRange s first count, gotState e = st := by
  intro e he
  obtain ⟨k, hk, rfl⟩ := List.mem_map.mp he
  exact h k (List.mem_range.mp hk)

section
variable {c : Cmd} {s : State} {first count : Nat}

theorem exec_granuleAssign {part host : Nat} (hs : settled s) (ha : admits descGranuleAssign c s)
    (hfirst : first = param c 16 8 0 16) (hcount : count = param c 16 8 16 16) (hpart : part = param c 16 8 32 6)
    (hhost : host = param c 16 8 38 1) (hb : tableBusy s c true first count = false) (h0 : count ≠ 0)
    (hr : first + count ≤ 8192) (hh : host = 0 ∨ part = 0) (hf : ∀ e ∈ gotRange s first count, gotState e = gotFree) :
    exec (.granuleAssign c) s =
      .next (sendTable true first count (mkGot part gotOwned (host == 1)) (.complete (cmdRef c)) (turn c s)) := by
  have free : ((gotRange s first count).any fun e => gotState e != gotFree) = false := by
    simpa [List.any_eq_false] using hf
  have whose : (host == 1 && part != 0) = false := by
    rcases hh with hh | hh <;> simp [hh]
  rw [exec, execGranuleAssign]
  simp only [← hfirst, ← hcount, ← hpart, ← hhost, hb]
  refine runOrdered_effect _ _ hs ha ?_ (sendTable_undisturbed _ _ _ _ _ _)
  simp only [List.forall_mem_cons, List.not_mem_nil, false_imp_iff, implies_true, and_true]
  exact ⟨by simp [h0], by simpa using hr, whose, free⟩

theorem exec_granuleRelease (hs : settled s) (ha : admits descGranuleRelease c s) (hfirst : first = param c 16 8 0 16)
    (hcount : count = param c 16 8 16 16) (hb : tableBusy s c true first count = false) (h0 : count ≠ 0)
    (hr : first + count ≤ 8192) (ho : ∀ e ∈ gotRange s first count, gotState e = gotOwned) :
    exec (.granuleRelease c) s = .next (startRelease first count (some (cmdRef c)) none (turn c s)) := by
  have owned : ((gotRange s first count).any fun e => gotState e != gotOwned) = false := by
    simpa [List.any_eq_false] using ho
  have device : ((gotRange s first count).any fun e => gotState e == gotDevice) = false := by
    rw [List.any_eq_false]
    intro e he
    rw [ho e he]
    decide
  rw [exec, execGranuleRelease]
  simp only [← hfirst, ← hcount, hb]
  refine runOrdered_effect _ _ hs ha ?_ (startRelease_undisturbed _ _ _ _ _)
  simp only [List.forall_mem_cons, List.not_mem_nil, false_imp_iff, implies_true, and_true]
  exact ⟨by simp [h0], by simpa using hr, device, owned⟩

theorem exec_ctxAssign {part : Nat} (hs : settled s) (ha : admits descCtxAssign c s) (hfirst : first = param c 16 8 0 16)
    (hcount : count = param c 16 8 16 17) (hpart : part = param c 16 8 33 6)
    (hb : tableBusy s c false first count = false) (hz : first ≠ 0) (h0 : count ≠ 0) (hr : first + count ≤ 65536)
    (hu : ∀ k, k < count → ctxInUse s (first + k) = false) :
    exec (.ctxAssign c) s = .next (sendTable false first count part (.complete (cmdRef c)) (turn c s)) := by
  have unused : ((List.range count).any fun k => ctxInUse s (first + k)) = false := by
    simpa [List.any_eq_false] using hu
  rw [exec, execCtxAssign]
  simp only [← hfirst, ← hcount, ← hpart, hb]
  refine runOrdered_effect _ _ hs ha ?_ (sendTable_undisturbed _ _ _ _ _ _)
  simp only [List.forall_mem_cons, List.not_mem_nil, false_imp_iff, implies_true, and_true]
  exact ⟨by simp [hz], by simp [h0], by simpa using hr, unused⟩

end

/-- A field of a packet is less than its width allows. -/
theorem param_lt (c : Cmd) (off n lo w : Nat) : param c off n lo w < 2 ^ w := Nat.mod_lt _ (Nat.two_pow_pos w)

/-- Settles O14: an admitted command whose checks pass sends its range's new entries, which the reference tables hold at once;
one that meets an earlier command on its range is held. -/
theorem granuleAndContextAssignment : Obligations.GranuleAndContextAssignment := by
  refine ⟨?assign, ?busy, ?release, ?context⟩
  case assign =>
    intro c s first count part host hs ha hfirst hcount hpart hhost hb h0 hr hh hf
    exact ⟨_, exec_granuleAssign hs ha hfirst hcount hpart hhost hb h0 hr hh (gotRange_state hf), rfl,
      sendTable_mem _ _ _ _ _ _, fun g => by rw [sendTable_got, tget_tfill]; rfl⟩
  case busy =>
    rintro c s _ count hs rfl
    refine ⟨?_, ?_, ?_⟩
    · rintro ha rfl hb
      rw [exec, execGranuleAssign]
      simp only [hb]
      exact runOrdered_holds _ _ hs ha
    · rintro ha rfl hb
      rw [exec, execGranuleRelease]
      simp only [hb]
      exact runOrdered_holds _ _ hs ha
    · rintro ha rfl hb
      rw [exec, execCtxAssign]
      simp only [hb]
      exact runOrdered_holds _ _ hs ha
  case release =>
    intro c s first count hs ha hfirst hcount hb h0 hr ho
    exact ⟨_, exec_granuleRelease hs ha hfirst hcount hb h0 hr (gotRange_state ho), rfl, startRelease_mem _ _ _ _ _,
      startRelease_got _ _ _ _ (turn c s)⟩
  case context =>
    intro c s first count part hs ha hfirst hcount hpart hb hz h0 hr hu
    have fits : part < 64 := by
      rw [hpart]
      exact param_lt c 16 8 33 6
    exact ⟨_, exec_ctxAssign hs ha hfirst hcount hpart hb hz h0 hr hu, rfl, sendTable_mem _ _ _ _ _ _,
      sendTable_ctxOwner _ _ _ _ (turn c s) fits⟩

end Sys2Proof.Machine
end

section
/-! PROOFS. Back-invalidate responses, scrubbing, table copies and zeroing (R49, R54, R59 to R61). -/

namespace Sys2Proof.Machine

/-! ## Back-invalidate responses (R60, R61) -/

section
variable {id : Nat} {s : State} {w : BiWait}

theorem exec_birsp_release {rid : Nat} (hs : settled s) (hf : s.spl.biWaits.find? (fun x => x.id == id) = some w)
    (hw : w.why = .release rid) (hi : w.inv = true) :
    exec (.birsp id) s = .next (setFilter w.line none (dropWait id s)) := by
  rw [exec, execBirsp]
  simp only [biResponse, hf, hw, hi, if_true]
  exact ends_undisturbed hs ⟨rfl, rfl, rfl, rfl, rfl, rfl⟩

theorem exec_birsp_device {r : SpoolReq} (hf : s.spl.biWaits.find? (fun x => x.id == id) = some w)
    (hw : w.why = .device r) : exec (.birsp id) s = .next (ended s
      (admitRequest r (setFilter w.line (if w.inv then none else some (w.port, false)) (dropWait id s)))) := by
  rw [exec, execBirsp, ends]
  simp only [biResponse, hf, hw]
  cases w.inv <;> rfl

theorem exec_biTimeout_device {r : SpoolReq} (hf : s.spl.biWaits.find? (fun x => x.id == id) = some w)
    (ho : biOverdue s w = true) (hw : w.why = .device r) : exec (.biTimeout id) s = .next (ended s
      (spoolAnswer r .timeout [] (biTimeoutRecord w.line (dropWait id s)))) := by
  rw [exec, execBiTimeout, ends]
  simp only [biExpire, hf, ho, hw, Bool.not_true, Bool.false_eq_true, if_false]

end

/-! ## Scrubbing (R49) -/

/-- A codeword without errors or poison is clean: the scrubber changes nothing of it. -/
theorem scrubChannel_clean {stack line chan : Nat} {s : State}
    (h : poisoned s (line * 2 ^ 16 + stack * 2 ^ 12 + chan * 64) = false) : scrubChannel stack line [] s chan = s := by
  simp only [scrubChannel, h, Bool.false_eq_true, if_false]
  simp [badSymbols, decodeSymbols]

theorem scrubChannels_clean {stack line : Nat} {s : State} {chans : List Nat}
    (h : ∀ chan ∈ chans, poisoned s (line * 2 ^ 16 + stack * 2 ^ 12 + chan * 64) = false) :
    chans.foldl (scrubChannel stack line []) s = s := by
  induction chans with
  | nil => rfl
  | cons chan r ih =>
    obtain ⟨hc, hr⟩ := List.forall_mem_cons.mp h
    rw [List.foldl_cons, scrubChannel_clean hc, ih hr]

theorem bump_spl (u i n : Nat) (s : State) : (bump u i n s).spl = s.spl := by rw [bump_frame]

section
variable {stack line : Nat} {s : State} (he : s.spl.scrubEnable = true) (hu : stackUp s stack = true)
  (hline : line = (tget 0 s.spl.scrubPos stack).toNat)
  (hq : ∀ chan < 64, poisoned s (line * 2 ^ 16 + stack * 2 ^ 12 + chan * 64) = false)
include he hu hline hq

/-- What a scrub step of clean codewords does: it counts them, and moves on or ends the pass. -/
theorem scrubStep_clean : scrubStep stack [] s =
    if line + 1 = 2 ^ 25 then endPass stack (bump (controller stack) 7 64 s)
    else { bump (controller stack) 7 64 s with
      spl := { s.spl with scrubPos := tset 0 s.spl.scrubPos stack (BitVec.ofNat 25 (line + 1)) } } := by
  simp only [scrubStep, he, hu, ← hline, Bool.not_true, Bool.or_self, Bool.false_eq_true, if_false,
    scrubChannels_clean fun chan hc => hq chan (List.mem_range.mp hc), bump_spl]

theorem exec_scrub_moves (hs : settled s) (hl : line + 1 ≠ 2 ^ 25) :
    exec (.scrubLineStep stack []) s = .next { bump (controller stack) 7 64 s with
      spl := { s.spl with scrubPos := tset 0 s.spl.scrubPos stack (BitVec.ofNat 25 (line + 1)) } } := by
  rw [exec, execScrubLineStep, scrubStep_clean he hu hline hq, if_neg hl]
  refine ends_undisturbed hs ((bump_undisturbed (controller stack) 7 64 s).trans ?_)
  exact ⟨rfl, rfl, rfl, rfl, rfl, rfl⟩

theorem exec_scrub_ends (hs : settled s) (hl : line + 1 = 2 ^ 25) :
    exec (.scrubLineStep stack []) s = .next (endPass stack (bump (controller stack) 7 64 s)) := by
  rw [exec, execScrubLineStep, scrubStep_clean he hu hline hq, if_pos hl]
  refine ends_undisturbed hs ((bump_undisturbed (controller stack) 7 64 s).trans ?_)
  exact ⟨rfl, rfl, rfl, rfl, rfl, rfl⟩

end

/-! ## Table copies (R54) -/

/-- The granule-owner table and its copies stand as they did. -/
structure KeepsGranules (s t : State) : Prop where
  got : t.spl.got = s.spl.got
  gotCopy : t.spl.gotCopy = s.spl.gotCopy

theorem KeepsGranules.refl (s : State) : KeepsGranules s s := ⟨rfl, rfl⟩

theorem KeepsGranules.trans {s t u : State} (h : KeepsGranules s t) (k : KeepsGranules t u) : KeepsGranules s u :=
  ⟨k.got.trans h.got, k.gotCopy.trans h.gotCopy⟩

theorem snoopHost_keepsGranules (line port : Nat) (inv : Bool) (why : BiWhy) (s : State) :
    KeepsGranules s (snoopHost line port inv why s) := by
  simp only [snoopHost]
  exact ⟨rfl, rfl⟩

theorem releaseApplied_keepsGranules (id unit : Nat) (s : State) : KeepsGranules s (releaseApplied id unit s) := by
  unfold releaseApplied
  split
  · refine .trans ?_ (foldl_related KeepsGranules.refl .trans (fun _ _ => snoopHost_keepsGranules _ _ _ _ _) _ _)
    exact ⟨rfl, rfl⟩
  · exact .refl s

theorem ackTable_keepsGranules (id unit : Nat) (s : State) : KeepsGranules s (ackTable id unit s) := by
  have follows (a : TableThen) (t : State) : KeepsGranules t (tableThen a t) := by
    have h := (tableThen_servesCommands a t).spl
    exact ⟨by rw [h], by rw [h]⟩
  simp only [ackTable]
  split
  · exact .refl s
  · split
    · refine .trans ?_ (follows _ _)
      exact ⟨rfl, rfl⟩
    · exact ⟨rfl, rfl⟩

/-- A granule update changes the copy of its own unit, and no table else. -/
theorem applyUpdate_granule {u : TableUpdate} (hg : u.granule = true) (s : State) :
    (applyUpdate u s).spl.got = s.spl.got ∧ (applyUpdate u s).spl.gotCopy =
      tmod [] s.spl.gotCopy (dieOf u.unit - 8) fun t => tfill 0 t u.first u.count (BitVec.ofNat 16 u.value) := by
  simp only [applyUpdate, hg, if_true, and_self]

theorem copyUpdate_found {unit : Nat} {s : State} {u : TableUpdate}
    (hf : s.spl.updates.find? (fun x => x.unit == unit) = some u) :
    copyUpdate unit s = ackTable u.id unit (releaseApplied u.id unit (applyUpdate u { s with spl := { s.spl with
      updates := s.spl.updates.filter (fun v => !(v.id == u.id && v.unit == u.unit)) } })) := by
  simp only [copyUpdate, hf]

/-- What an applied granule update leaves of the reference table and of the copies. -/
theorem copyUpdate_granules {unit : Nat} {s : State} {u : TableUpdate}
    (hf : s.spl.updates.find? (fun x => x.unit == unit) = some u) (hg : u.granule = true) :
    (copyUpdate unit s).spl.got = s.spl.got ∧ (copyUpdate unit s).spl.gotCopy =
      tmod [] s.spl.gotCopy (dieOf unit - 8) fun t => tfill 0 t u.first u.count (BitVec.ofNat 16 u.value) := by
  have hunit : u.unit = unit := by simpa using List.find?_some hf
  have keeps (t : State) : KeepsGranules t (ackTable u.id unit (releaseApplied u.id unit t)) :=
    (releaseApplied_keepsGranules u.id unit t).trans (ackTable_keepsGranules u.id unit _)
  obtain ⟨hgot, hcopy⟩ := applyUpdate_granule hg { s with spl := { s.spl with
    updates := s.spl.updates.filter (fun v => !(v.id == u.id && v.unit == u.unit)) } }
  rw [copyUpdate_found hf, (keeps _).got, (keeps _).gotCopy, hgot, hcopy, hunit]
  exact ⟨rfl, rfl⟩

/-! ## Zeroing (R59) -/

/-- The share of a stack reads as zero, every other byte as before. -/
theorem zeroShare_byte (first count stack : Nat) (s : State) (off : Nat) :
    tget 0 (zeroShare first count stack s).spl.mem off =
      if first ≤ granuleOf off ∧ granuleOf off < first + count ∧ stackOf off = stack then 0
      else tget 0 s.spl.mem off := by
  simp only [zeroShare]
  rw [tget_filter_fst (0 : Byte) fun o =>
    !(decide (first ≤ granuleOf o) && decide (granuleOf o < first + count) && stackOf o == stack)]
  by_cases h : first ≤ granuleOf off ∧ granuleOf off < first + count ∧ stackOf off = stack
  · simp [h]
  · have : (decide (first ≤ granuleOf off) && decide (granuleOf off < first + count) && stackOf off == stack) = false := by
      simpa [and_assoc] using h
    rw [this, if_neg h]
    rfl

section
variable {stack : Nat} {s : State} {r : Release}
  (hr : s.spl.releases.find? (fun r => stack ∈ r.toZero && stack ∉ r.toApply && (releaseSnoops s r.id stack).isEmpty) =
    some r)
include hr

theorem zeroingComplete_mem : (zeroingComplete stack s).spl.mem = (zeroShare r.first r.count stack s).spl.mem := by
  simp only [zeroingComplete, hr]
  split
  · exact releaseDone_mem _ _
  · rfl

theorem zeroingComplete_undisturbed : Undisturbed s (zeroingComplete stack s) := by
  simp only [zeroingComplete, hr]
  split
  · refine .trans ?_ (releaseDone_undisturbed _ _)
    exact ⟨rfl, rfl, rfl, rfl, rfl, rfl⟩
  · exact ⟨rfl, rfl, rfl, rfl, rfl, rfl⟩

end

/-- Settles O13: each row does what it says to the filter, the scrubber, the copies or memory, and its end adds nothing. -/
theorem spoolMaintenanceRows : Obligations.SpoolMaintenanceRows := by
  refine ⟨?released, ?answered, ?expired, ?scrub, ?copy, ?zero⟩
  case released => exact fun id rid s w hs hf hw hi => exec_birsp_release hs hf hw hi
  case answered => exact fun id s w r hf hw => exec_birsp_device hf hw
  case expired => exact fun id s w r hf ho hw => exec_biTimeout_device hf ho hw
  case scrub =>
    intro stack line s hs he hu hline hq
    exact ⟨exec_scrub_moves he hu hline hq hs, exec_scrub_ends he hu hline hq hs⟩
  case copy =>
    intro unit s u hf
    refine ⟨ended s (copyUpdate unit s), by rw [exec, execTableCopyUpdate, ends], by rw [copyUpdate_found hf], fun hg => ?_⟩
    obtain ⟨hgot, hcopy⟩ := copyUpdate_granules hf hg
    rw [ended_gotCopy, ended_got, hgot, hcopy]
    exact ⟨fun g => by rw [tget_tmod, if_pos rfl, tget_tfill], fun n hn => by rw [tget_tmod, if_neg hn], rfl⟩
  case zero =>
    intro stack s r hs hr
    refine ⟨zeroingComplete stack s, ?_, fun off => by rw [zeroingComplete_mem hr, zeroShare_byte]⟩
    rw [exec, execZeroingComplete]
    exact ends_undisturbed hs (zeroingComplete_undisturbed hr)

end Sys2Proof.Machine
end

section
/-! PROOFS. Withdrawals: what the end of one and the start of one leave of the Heddles (R66, R78, R81). -/

namespace Sys2Proof.Machine

/-! ## What withdrawing, revoking and acknowledging change -/

/-- The Heddles, the commands and the counters change, and nothing else. -/
def HeddleWork (s t : State) : Prop := t = { s with hdl := t.hdl, jcq := t.jcq, cnt := t.cnt }

theorem HeddleWork.trans {s t u : State} (h : HeddleWork s t) (k : HeddleWork t u) : HeddleWork s u := by
  have e := congrArg (fun x : State => { x with hdl := u.hdl, jcq := u.jcq, cnt := u.cnt }) h
  exact Eq.trans k e

theorem HeddleWork.undisturbed {s t : State} (h : HeddleWork s t) : Undisturbed s t := by
  rw [h]
  exact ⟨rfl, rfl, rfl, rfl, rfl, rfl⟩

theorem completeRef_heddleWork (r : CmdRef) (st : Status) (res : List Nat) (unit : Nat) (s : State) :
    HeddleWork s (completeRef r st res unit s) := by
  rw [completeRef_frame]
  rfl

@[simp] theorem completeRef_hdl (r : CmdRef) (st : Status) (res : List Nat) (unit : Nat) (s : State) :
    (completeRef r st res unit s).hdl = s.hdl := (completeRef_servesCommands r st res unit s).hdl

@[simp] theorem complete_hdl (c : Cmd) (st : Status) (res : List Nat) (unit : Nat) (s : State) :
    (complete c st res unit s).hdl = s.hdl := completeRef_hdl _ _ _ _ s

@[simp] theorem bump_hdl (u i n : Nat) (s : State) : (bump u i n s).hdl = s.hdl := by rw [bump_frame]

/-! ## The end of a withdrawal -/

/-- The descriptor that the last acknowledgement leaves of one (R78, R81). -/
def afterDesc (a : AckThen) (d : CtxDesc) : CtxDesc :=
  match a with
  | .report => d
  | .configure n => { n with epoch := d.epoch }
  | .disable => { d with enable := false }

@[simp] theorem afterDesc_epoch (a : AckThen) (d : CtxDesc) : (afterDesc a d).epoch = d.epoch := by
  cases a <;> rfl

section
variable (w : Withdrawal) (s : State)

/-- The end of a withdrawal takes it out and may change a descriptor; the Heddles stand otherwise. -/
theorem withdrawalDone_hdl : (withdrawalDone w s).hdl = { s.hdl with
    withdrawals := s.hdl.withdrawals.filter fun x => x.id != w.id
    ctx := (withdrawalDone w s).hdl.ctx } := by
  simp only [withdrawalDone]
  split
  · cases w.cmd <;> simp
  · cases w.after <;> cases w.cmd <;> simp

theorem withdrawalDone_heddleWork : HeddleWork s (withdrawalDone w s) := by
  have completes (r : CmdRef) (res : List Nat) (u : Nat) (t : State) (h : HeddleWork s t) :
      HeddleWork s (completeRef r .ok res u t) := h.trans (completeRef_heddleWork r .ok res u t)
  simp only [withdrawalDone]
  split
  · cases w.cmd with
    | none => rfl
    | some r => exact completes _ _ _ _ rfl
  · cases w.cmd with
    | none => cases w.after <;> rfl
    | some r => exact completes _ _ _ _ (by cases w.after <;> rfl)

/-- The last acknowledgement changes the descriptor of the withdrawn context as its command said, and no other. -/
theorem withdrawalDone_ctxDesc {ctx first n : Nat} {e : BitVec 32} (hw : w.why = .withdraw ctx first n e) (x : Nat) :
    ctxDesc (withdrawalDone w s) x = if x = ctx then afterDesc w.after (ctxDesc s ctx) else ctxDesc s x := by
  simp only [withdrawalDone, hw]
  cases w.after with
  | report =>
    have stands : ctxDesc s x = if x = ctx then ctxDesc s ctx else ctxDesc s x := by
      split
      · rw [‹x = ctx›]
      · rfl
    cases w.cmd <;> simpa [ctxDesc, afterDesc] using stands
  | configure d => cases w.cmd <;> simp [ctxDesc, tget_tset, afterDesc]
  | disable => cases w.cmd <;> simp [ctxDesc, tget_tset, afterDesc]

end

/-! ## Invalidation at the Heddles (step 2 of R78) -/

/-- The caches, the accepted epochs and the counters change, and nothing else. -/
def Invalidated (s t : State) : Prop := t = { s with
  hdl := { s.hdl with leaves := t.hdl.leaves, ptrs := t.hdl.ptrs, accepted := t.hdl.accepted }, cnt := t.cnt }

theorem Invalidated.refl (s : State) : Invalidated s s := rfl

theorem Invalidated.trans {s t u : State} (h : Invalidated s t) (k : Invalidated t u) : Invalidated s u := by
  have e := congrArg (fun x : State => { x with
    hdl := { x.hdl with leaves := u.hdl.leaves, ptrs := u.hdl.ptrs, accepted := u.hdl.accepted }, cnt := u.cnt }) h
  exact Eq.trans k e

section
variable {s t : State} (h : Invalidated s t)
include h

theorem Invalidated.heddleWork : HeddleWork s t := by
  rw [h]
  rfl

theorem Invalidated.ctxDesc (x : Nat) : ctxDesc t x = ctxDesc s x := by
  rw [h]
  rfl

theorem Invalidated.holdingPairs (ctx first n : Nat) : holdingPairs t ctx first n = holdingPairs s ctx first n := by
  rw [h]
  rfl

end

section
variable (ctx first n : Nat) (e : BitVec 32)

theorem invalidateAt_invalidated (s : State) (h : Nat) : Invalidated s (invalidateAt ctx first n e s h) := by
  rw [invalidateAt, bump_frame]
  rfl

theorem mem_ptrs_invalidateAt (s : State) (h k : Nat) (p : CachedPtr) :
    p ∈ ptrs (invalidateAt ctx first n e s h) k ↔ p ∈ ptrs s k ∧ (k = h → p.ctx ≠ ctx) := by
  simp only [ptrs, invalidateAt, bump_hdl, tget_tmod]
  split
  · next hk => subst hk; simp
  · next hk => simp [hk]

theorem mem_leaves_invalidateAt (s : State) (h k : Nat) (l : CachedLeaf) :
    l ∈ leaves (invalidateAt ctx first n e s h) k ↔ l ∈ leaves s k ∧
      (k = h → l.ctx ≠ ctx ∨ inWithdrawn first n (l.page * 2 ^ l.pageLog2) (2 ^ l.pageLog2) = false) := by
  simp only [leaves, invalidateAt, bump_hdl, tget_tmod]
  split
  · next hk => subst hk; simp
  · next hk => simp [hk]

theorem foldl_invalidateAt (hs : List Nat) (s : State) :
    Invalidated s (hs.foldl (invalidateAt ctx first n e) s) :=
  foldl_related .refl .trans (invalidateAt_invalidated ctx first n e) hs s

theorem mem_ptrs_foldl_invalidateAt (hs : List Nat) (s : State) (k : Nat) (p : CachedPtr) :
    p ∈ ptrs (hs.foldl (invalidateAt ctx first n e) s) k ↔ p ∈ ptrs s k ∧ (k ∈ hs → p.ctx ≠ ctx) := by
  induction hs generalizing s with
  | nil => simp
  | cons h hs ih => rw [List.foldl_cons, ih, mem_ptrs_invalidateAt, List.mem_cons, or_imp, and_assoc]

theorem mem_leaves_foldl_invalidateAt (hs : List Nat) (s : State) (k : Nat) (l : CachedLeaf) :
    l ∈ leaves (hs.foldl (invalidateAt ctx first n e) s) k ↔ l ∈ leaves s k ∧
      (k ∈ hs → l.ctx ≠ ctx ∨ inWithdrawn first n (l.page * 2 ^ l.pageLog2) (2 ^ l.pageLog2) = false) := by
  induction hs generalizing s with
  | nil => simp
  | cons h hs ih => rw [List.foldl_cons, ih, mem_leaves_invalidateAt, List.mem_cons, or_imp, and_assoc]

end

/-! ## The start of a withdrawal (R78) -/

/-- The Heddles in service. -/
def servingHeddles (s : State) : List Nat := (List.range 8).filter fun h => inService s (heddle h)

theorem mem_servingHeddles (s : State) (h : Nat) : h ∈ servingHeddles s ↔ h < 8 ∧ inService s (heddle h) = true := by
  simp [servingHeddles]

/-- Steps 1 and 2 of R78: the epoch has gone up, and the Heddles in service have dropped the range. -/
def withdrawnAt (ctx first n : Nat) (s : State) : State :=
  (servingHeddles s).foldl (invalidateAt ctx first n ((ctxDesc s ctx).epoch + 1))
    (setCtxDesc ctx { ctxDesc s ctx with epoch := (ctxDesc s ctx).epoch + 1 } s)

/-- The withdrawal that step 3 of R78 enters. -/
def newWithdrawal (ctx first n : Nat) (after : AckThen) (cmd : Option CmdRef) (s : State) : Withdrawal where
  id := (withdrawnAt ctx first n s).hdl.nextWd
  why := .withdraw ctx first n ((ctxDesc s ctx).epoch + 1)
  awaiting := holdingPairs (withdrawnAt ctx first n s) ctx first n
  fencedWait := []
  started := heddleTimes (withdrawnAt ctx first n s)
  after := after
  cmd := cmd

/-- A withdrawal or revocation has been entered, and its holders are awaited. -/
def enterWithdrawal (w : Withdrawal) (s : State) : State :=
  { s with hdl := { s.hdl with nextWd := s.hdl.nextWd + 1, withdrawals := s.hdl.withdrawals ++ [w] } }

/-- A withdrawal entered ends at once where nobody is awaited. -/
def beginWithdrawal (w : Withdrawal) (s : State) : State :=
  if w.awaiting = [] then withdrawalDone w (enterWithdrawal w s) else enterWithdrawal w s

theorem beginWithdrawal_heddleWork (w : Withdrawal) (s : State) : HeddleWork s (beginWithdrawal w s) := by
  unfold beginWithdrawal
  split
  · refine .trans ?_ (withdrawalDone_heddleWork w _)
    rfl
  · rfl

/-- Entering a withdrawal, and ending it at once, leave all of the Heddles but the withdrawals and a descriptor. -/
theorem beginWithdrawal_hdl (w : Withdrawal) (s : State) : (beginWithdrawal w s).hdl = { s.hdl with
    nextWd := s.hdl.nextWd + 1
    withdrawals := (beginWithdrawal w s).hdl.withdrawals
    ctx := (beginWithdrawal w s).hdl.ctx } := by
  unfold beginWithdrawal
  split
  · rw [withdrawalDone_hdl]
    rfl
  · rfl

theorem beginWithdrawal_ctxDesc {w : Withdrawal} {ctx first n : Nat} {e : BitVec 32} (s : State)
    (hw : w.why = .withdraw ctx first n e) (x : Nat) : ctxDesc (beginWithdrawal w s) x =
      if x = ctx ∧ w.awaiting = [] then afterDesc w.after (ctxDesc s ctx) else ctxDesc s x := by
  unfold beginWithdrawal
  split
  · next hn =>
    simp only [withdrawalDone_ctxDesc _ _ hw, hn, and_true]
    rfl
  · next hn => simp [hn]; rfl

section
variable (ctx first n : Nat) (after : AckThen) (cmd : Option CmdRef) (s : State)

theorem startWithdrawal_eq : startWithdrawal ctx first n after cmd s =
    beginWithdrawal (newWithdrawal ctx first n after cmd s) (withdrawnAt ctx first n s) := rfl

theorem withdrawnAt_invalidated : Invalidated
    (setCtxDesc ctx { ctxDesc s ctx with epoch := (ctxDesc s ctx).epoch + 1 } s) (withdrawnAt ctx first n s) :=
  foldl_invalidateAt _ _ _ _ _ _

theorem withdrawnAt_heddleWork : HeddleWork s (withdrawnAt ctx first n s) := by
  refine .trans ?_ (withdrawnAt_invalidated ctx first n s).heddleWork
  rfl

theorem startWithdrawal_undisturbed : Undisturbed s (startWithdrawal ctx first n after cmd s) := by
  rw [startWithdrawal_eq]
  exact ((withdrawnAt_heddleWork _ _ _ _).trans (beginWithdrawal_heddleWork _ _)).undisturbed

/-- The holders awaited are those that held a translation of the range before. -/
theorem newWithdrawal_awaiting :
    (newWithdrawal ctx first n after cmd s).awaiting = holdingPairs s ctx first n :=
  (withdrawnAt_invalidated ctx first n s).holdingPairs ctx first n

/-- A withdrawal raises the epoch of its context, ends at once where no holder has a translation of the range, and leaves every
other descriptor. -/
theorem startWithdrawal_ctxDesc (x : Nat) : ctxDesc (startWithdrawal ctx first n after cmd s) x =
    if x = ctx then
      (if holdingPairs s ctx first n = [] then
          afterDesc after { ctxDesc s ctx with epoch := (ctxDesc s ctx).epoch + 1 }
        else { ctxDesc s ctx with epoch := (ctxDesc s ctx).epoch + 1 })
    else ctxDesc s x := by
  rw [startWithdrawal_eq, beginWithdrawal_ctxDesc _ rfl, newWithdrawal_awaiting]
  simp only [(withdrawnAt_invalidated ctx first n s).ctxDesc, ctxDesc_setCtxDesc]
  by_cases hx : x = ctx
  · subst hx
    simp [newWithdrawal]
  · simp [hx, ctxDesc_setCtxDesc_other]

theorem startWithdrawal_epoch :
    (ctxDesc (startWithdrawal ctx first n after cmd s) ctx).epoch = (ctxDesc s ctx).epoch + 1 := by
  rw [startWithdrawal_ctxDesc, if_pos rfl]
  split <;> simp

theorem startWithdrawal_ctxDesc_other {x : Nat} (hx : x ≠ ctx) :
    ctxDesc (startWithdrawal ctx first n after cmd s) x = ctxDesc s x := by
  rw [startWithdrawal_ctxDesc, if_neg hx]

theorem startWithdrawal_leaves (h : Nat) :
    leaves (startWithdrawal ctx first n after cmd s) h = leaves (withdrawnAt ctx first n s) h := by
  rw [startWithdrawal_eq, leaves, beginWithdrawal_hdl]
  rfl

theorem startWithdrawal_ptrs (h : Nat) :
    ptrs (startWithdrawal ctx first n after cmd s) h = ptrs (withdrawnAt ctx first n s) h := by
  rw [startWithdrawal_eq, ptrs, beginWithdrawal_hdl]
  rfl

variable {s} {h : Nat} (hh : h < 8) (hin : inService s (heddle h) = true)
include hh hin

/-- A Heddle in service caches no pointer of the context after step 2 of R78. -/
theorem startWithdrawal_no_ptr :
    ∀ p ∈ ptrs (startWithdrawal ctx first n after cmd s) h, p.ctx ≠ ctx := by
  intro p hp
  rw [startWithdrawal_ptrs, withdrawnAt, mem_ptrs_foldl_invalidateAt] at hp
  exact hp.2 ((mem_servingHeddles s h).mpr ⟨hh, hin⟩)

/-- A Heddle in service caches no leaf of a context withdrawn whole. -/
theorem startWithdrawal_whole_no_leaf :
    ∀ l ∈ leaves (startWithdrawal ctx first 0 after cmd s) h, l.ctx ≠ ctx := by
  intro l hl
  rw [startWithdrawal_leaves, withdrawnAt, mem_leaves_foldl_invalidateAt] at hl
  simpa [inWithdrawn] using hl.2 ((mem_servingHeddles s h).mpr ⟨hh, hin⟩)

end

end Sys2Proof.Machine
end

section
/-! PROOFS. CTX_CONFIG, CTX_DISABLE and HDL_WITHDRAW (R66, R78, R81, R94, R95). -/

namespace Sys2Proof.Machine

/-! ## Commands on a context (R66) -/

/-- A command that has its turn and whose own check fails completes with its status and does nothing else. -/
theorem runOrdered_refuses {d : OpDesc} {c : Cmd} {s : State} (fails : List (Bool × Status)) (run : State → State)
    {st : Status} (hs : settled s) (ha : admits d c s) (hk : firstFail fails = some st) :
    runOrdered d c false fails s run = .next (complete c st [] (procUnit s c) (turn c s)) := by
  have own : runOrdered d c false fails s run = ends s (complete c st [] (procUnit (turn c s) c) (turn c s)) := by
    simp only [runOrdered, orderCmd, takeCmd, checked, ha.1, ha.2, hk, Bool.and_false, Bool.false_eq_true, if_false, if_true]
    rfl
  rw [own]
  exact ends_undisturbed hs ((turn_undisturbed c s).trans (complete_undisturbed _ _ _ _ _))

section
variable {d : OpDesc} {c : Cmd} {s : State} {ctx : Nat} (fails : List (Bool × Status)) (run : State → State)

theorem onContext_holds (hs : settled s) (ha : admits d c s) (hb : ctxBusy s c ctx = true) :
    onContext d c ctx fails s run = .next (holdCmd c s) := by
  rw [onContext, hb]
  exact runOrdered_holds _ _ hs ha

theorem onContext_effect (hs : settled s) (ha : admits d c s) (hb : ctxBusy s c ctx = false)
    (hk : ∀ e ∈ fails, e.1 = false) (hu : Undisturbed (turn c s) (run (turn c s))) :
    onContext d c ctx fails s run = .next (run (turn c s)) := by
  rw [onContext, hb]
  exact runOrdered_effect _ _ hs ha hk hu

theorem onContext_refuses {st : Status} (hs : settled s) (ha : admits d c s) (hb : ctxBusy s c ctx = false)
    (hk : firstFail fails = some st) :
    onContext d c ctx fails s run = .next (complete c st [] (procUnit s c) (turn c s)) := by
  rw [onContext, hb]
  exact runOrdered_refuses _ _ hs ha hk

/-- The first check of every command on a context: another partition owns it, or it is context 0 (R94). -/
theorem onContext_denied (hs : settled s) (ha : admits d c s) (hb : ctxBusy s c ctx = false)
    (hn : namesCtx s c.part ctx = false) :
    onContext d c ctx ((!namesCtx s c.part ctx, .denied) :: fails) s run =
      .next (complete c .denied [] (procUnit s c) (turn c s)) :=
  onContext_refuses _ _ hs ha hb (by simp [firstFail, hn])

end

/-- The descriptor a CTX_CONFIG gives, with an epoch (R94). -/
def configDesc (c : Cmd) (e : BitVec 32) : CtxDesc where
  enable := param c 16 8 16 1 == 1
  odp := param c 16 8 17 1 == 1
  l1Log2 := BitVec.ofNat 5 (param c 16 8 18 5)
  root := BitVec.ofNat 64 (fieldLE c.packet 24 8)
  epoch := e

section
variable {c : Cmd} {s : State} {ctx : Nat} (hs : settled s) (hctx : ctx = param c 16 8 0 16)
  (hb : ctxBusy s c ctx = false) (hn : namesCtx s c.part ctx = true)
include hs hctx hb hn

theorem exec_ctxConfig (ha : admits descCtxConfig c s) (hl : param c 16 8 18 5 ≤ 21)
    (hr : rootAligned (fieldLE c.packet 24 8) (param c 16 8 18 5) = true) :
    exec (.ctxConfig c) s = .next (if (ctxDesc s ctx).enable then
        startWithdrawal ctx 0 0 (.configure (configDesc c (ctxDesc s ctx).epoch)) (some (cmdRef c)) (turn c s)
      else complete c .ok [(ctxDesc s ctx).epoch.toNat] (objectUnit s ctx)
        (setCtxDesc ctx (configDesc c (ctxDesc s ctx).epoch) (turn c s))) := by
  have bounds : (decide (param c 16 8 18 5 > 21) || !rootAligned (fieldLE c.packet 24 8) (param c 16 8 18 5)) = false := by
    simp [hl, hr]
  rw [exec, execCtxConfig]
  simp only [← hctx]
  refine onContext_effect _ _ hs ha hb ?_ ?_
  · simp [hn, bounds]
  · split
    · exact startWithdrawal_undisturbed _ _ _ _ _ _
    · refine .trans ?_ (complete_undisturbed _ _ _ _ _)
      exact ⟨rfl, rfl, rfl, rfl, rfl, rfl⟩

theorem exec_ctxDisable (ha : admits descCtxDisable c s) :
    exec (.ctxDisable c) s = .next (startWithdrawal ctx 0 0 .disable (some (cmdRef c)) (turn c s)) := by
  rw [exec, execCtxDisable]
  simp only [← hctx]
  exact onContext_effect _ _ hs ha hb (by simp [hn]) (startWithdrawal_undisturbed _ _ _ _ _ _)

theorem exec_hdlWithdraw (ha : admits descHdlWithdraw c s)
    (hr : fieldLE c.packet 24 8 + param c 16 8 16 36 * 2 ^ 21 ≤ 2 ^ 57) :
    exec (.hdlWithdraw c) s = .next (startWithdrawal ctx (fieldLE c.packet 24 8) (param c 16 8 16 36) .report
      (some (cmdRef c)) (turn c s)) := by
  rw [exec, execHdlWithdraw]
  simp only [← hctx]
  exact onContext_effect _ _ hs ha hb (by simpa [hn] using hr) (startWithdrawal_undisturbed _ _ _ _ _ _)

end

/-- Settles O15: an admitted command starts a withdrawal or writes the descriptor; what a withdrawal leaves of the descriptors and
of the caches is said by the lemmas on `startWithdrawal`. -/
theorem contextCommandsTakeEffect : Obligations.ContextCommandsTakeEffect := by
  refine ⟨?config, ?disable, ?withdraw, ?busy, ?denied⟩
  case config =>
    rintro c s ctx _ _ hs ha hctx rfl rfl hb hn hl hr
    have hrun := exec_ctxConfig hs hctx hb hn ha hl hr
    refine ⟨fun hoff => ?_, fun hon => ⟨_, ?_, rfl, startWithdrawal_epoch _ _ _ _ _ (turn c s)⟩⟩
    · rw [hrun, hoff]
      rfl
    · rw [hrun, hon]
      rfl
  case disable =>
    intro c s ctx hs ha hctx hb hn
    refine ⟨_, exec_ctxDisable hs hctx hb hn ha, rfl, startWithdrawal_epoch _ _ _ _ _ (turn c s), fun hnone => ?_,
      fun h hh hin => ⟨startWithdrawal_whole_no_leaf _ _ _ _ hh hin, startWithdrawal_no_ptr _ _ _ _ _ hh hin⟩,
      fun x hx => startWithdrawal_ctxDesc_other _ _ _ _ _ (turn c s) hx⟩
    have unheld : holdingPairs (turn c s) ctx 0 0 = [] := hnone
    rw [startWithdrawal_ctxDesc, if_pos rfl, if_pos unheld]
    rfl
  case withdraw =>
    rintro c s ctx _ _ hs ha hctx hb hn rfl rfl hr
    refine ⟨_, exec_hdlWithdraw hs hctx hb hn ha hr, rfl, startWithdrawal_epoch _ _ _ _ _ (turn c s), ?_,
      fun h hh hin => startWithdrawal_no_ptr _ _ _ _ _ hh hin,
      fun x hx => startWithdrawal_ctxDesc_other _ _ _ _ _ (turn c s) hx⟩
    rw [startWithdrawal_ctxDesc, if_pos rfl]
    split <;> rfl
  case busy =>
    rintro c s _ hs rfl hb
    exact ⟨fun ha => onContext_holds _ _ hs ha hb, fun ha => onContext_holds _ _ hs ha hb,
      fun ha => onContext_holds _ _ hs ha hb⟩
  case denied =>
    rintro c s _ hs rfl hb hn
    exact ⟨fun ha => onContext_denied _ _ hs ha hb hn, fun ha => onContext_denied _ _ hs ha hb hn,
      fun ha => onContext_denied _ _ hs ha hb hn⟩

end Sys2Proof.Machine
end

section
/-! PROOFS. REGION_REGISTER and REGION_REVOKE (R83 to R86). -/

namespace Sys2Proof.Machine

/-! ## REGION_REGISTER (R85) -/

/-- The entry a REGION_REGISTER gives at an index whose generation it keeps (R83, R94). -/
def registeredRegion (c : Cmd) (g : BitVec 8) : Region where
  gen := g
  valid := true
  rRead := param c 16 8 16 1 == 1
  rWrite := param c 16 8 17 1 == 1
  rAtomic := param c 16 8 18 1 == 1
  rReduce := param c 16 8 19 1 == 1
  lWrite := param c 16 8 20 1 == 1
  part := BitVec.ofNat 6 c.part
  ctx := BitVec.ofNat 16 (param c 16 8 0 16)
  baseVa := fieldLE c.packet 24 8
  size := fieldLE c.packet 32 8
  pdom := BitVec.ofNat 24 (param c 16 8 32 24)

/-- The index that R85 finds does not depend on which commands have started or wait. -/
theorem findRegion_turn (c : Cmd) (s : State) (part first count fuel k : Nat) :
    findRegion (turn c s) part first count fuel k = findRegion s part first count fuel k := by
  induction fuel generalizing k with
  | zero => rfl
  | succ fuel ih =>
    rw [findRegion, findRegion, ih]
    rfl

theorem nextRegion_turn (c : Cmd) (s : State) (part : Nat) : nextRegion (turn c s) part = nextRegion s part :=
  findRegion_turn c s _ _ _ _ _

section
variable {c : Cmd} {s : State} {i : Nat}

theorem exec_regionRegister (hs : settled s) (ha : admits descRegionRegister c s)
    (hb : ctxBusy s c (param c 16 8 0 16) = false) (hn : namesCtx s c.part (param c 16 8 0 16) = true)
    (hon : (ctxDesc s (param c 16 8 0 16)).enable = true) (h0 : 0 < fieldLE c.packet 32 8)
    (hsize : fieldLE c.packet 32 8 ≤ 2 ^ 48) (hend : fieldLE c.packet 24 8 + fieldLE c.packet 32 8 ≤ 2 ^ 57)
    (hi : nextRegion s c.part = some i) :
    exec (.regionRegister c) s = .next (complete c .ok [256 * i + (region s i).gen.toNat] (objectUnit s i)
      { turn c s with hdl := { s.hdl with
          region := tset {} s.hdl.region i (registeredRegion c (region s i).gen)
          lastRegion := tset 0 s.hdl.lastRegion c.part i } }) := by
  have next : nextRegion (turn c s) c.part = some i :=
    (nextRegion_turn c s c.part).trans hi
  rw [exec, execRegionRegister, onContext_effect _ _ hs ha hb]
  · simp only [next, keyOf, Nat.mul_comm i 256]
    rfl
  · simp only [List.forall_mem_cons, List.not_mem_nil, false_imp_iff, implies_true, and_true]
    exact ⟨by simp [hn], by simp [hon], by simpa [Nat.ne_of_gt h0] using hsize, by simpa using hend, by simp [hi]⟩
  · simp only [next]
    refine .trans ?_ (complete_undisturbed _ _ _ _ _)
    exact ⟨rfl, rfl, rfl, rfl, rfl, rfl⟩

end

/-! ## REGION_REVOKE (R86) -/

/-- A change of the entries below `n`, one after the other. -/
theorem tget_foldl_tmod {α : Type} [DecidableEq α] (d : α) (f : α → α) (t : Tab α) (n i : Nat) :
    tget d ((List.range n).foldl (fun t h => tmod d t h f) t) i = if i < n then f (tget d t i) else tget d t i := by
  induction n with
  | zero => rfl
  | succ n ih =>
    rw [List.range_succ, List.foldl_append, List.foldl_cons, List.foldl_nil, tget_tmod]
    split
    · next hi =>
      rw [hi] at ih ⊢
      rw [ih, if_neg (Nat.lt_irrefl n), if_pos (Nat.lt_succ_self n)]
    · rw [ih]
      exact if_congr (by omega) rfl rfl

/-- The entry a revocation leaves: the next generation, and no longer valid (R86). -/
def revokedRegion (r : Region) : Region := { r with gen := r.gen + 1, valid := false }

/-- The table and the Heddles' copies at a revocation's revoke point (R86). -/
def revokedAt (i : Nat) (s : State) : State :=
  { s with hdl := { s.hdl with
    region := tset {} s.hdl.region i (revokedRegion (region s i))
    regionCache := (List.range 8).foldl (fun t h => tmod [] t h (·.filter fun e => e.1 != i)) s.hdl.regionCache } }

/-- The withdrawal a revocation enters (R198). -/
def newRevocation (key : Nat) (cmd : CmdRef) (s : State) : Withdrawal where
  id := s.hdl.nextWd
  why := .revoke key
  awaiting := keyHolders s key
  fencedWait := []
  started := heddleTimes s
  after := .report
  cmd := some cmd

section
variable (key : Nat) (cmd : CmdRef) (s : State)

theorem revokeKey_eq : revokeKey key cmd s =
    beginWithdrawal (newRevocation key cmd (revokedAt (keyIndex key) s)) (revokedAt (keyIndex key) s) := rfl

theorem revokeKey_undisturbed : Undisturbed s (revokeKey key cmd s) := by
  rw [revokeKey_eq]
  refine .trans ?_ (beginWithdrawal_heddleWork _ _).undisturbed
  exact ⟨rfl, rfl, rfl, rfl, rfl, rfl⟩

theorem revokeKey_region_table : (revokeKey key cmd s).hdl.region =
    tset {} s.hdl.region (keyIndex key) (revokedRegion (region s (keyIndex key))) := by
  rw [revokeKey_eq, beginWithdrawal_hdl]
  rfl

theorem revokeKey_region : region (revokeKey key cmd s) (keyIndex key) = revokedRegion (region s (keyIndex key)) := by
  rw [region, revokeKey_region_table, tget_tset_same]

theorem revokeKey_region_other {j : Nat} (hj : j ≠ keyIndex key) : region (revokeKey key cmd s) j = region s j := by
  rw [region, revokeKey_region_table, tget_tset_other _ _ _ hj]
  rfl

/-- No Heddle keeps a copy of the entry: each has it as the table does. -/
theorem revokeKey_cachedRegion {h : Nat} (hh : h < 8) :
    cachedRegion (revokeKey key cmd s) h (keyIndex key) = region (revokeKey key cmd s) (keyIndex key) := by
  have cache : (revokeKey key cmd s).hdl.regionCache = (revokedAt (keyIndex key) s).hdl.regionCache := by
    rw [revokeKey_eq, beginWithdrawal_hdl]
  have dropped : (tget [] (revokeKey key cmd s).hdl.regionCache h).find? (fun e => e.1 == keyIndex key) = none := by
    rw [cache, revokedAt, tget_foldl_tmod, if_pos hh]
    simp
  simp only [cachedRegion, dropped]

end

/-- An entry that is not valid matches no key. -/
theorem keyMatches_revoked (r : Region) (p k : Nat) : keyMatches (revokedRegion r) p k = false := by
  simp [keyMatches, revokedRegion]

section
variable {c : Cmd} {s : State} (hs : settled s) (ha : admits descRegionRevoke c s)
include hs ha

theorem exec_regionRevoke (hb : revokeBusy s c (fieldLE c.packet 16 4) = false)
    (hm : keyMatches (region s (keyIndex (fieldLE c.packet 16 4))) c.part (fieldLE c.packet 16 4) = true) :
    exec (.regionRevoke c) s = .next (revokeKey (fieldLE c.packet 16 4) (cmdRef c) (turn c s)) := by
  rw [exec, execRegionRevoke]
  simp only [hb]
  exact runOrdered_effect _ _ hs ha (by simp [hm]) (revokeKey_undisturbed _ _ _)

theorem exec_regionRevoke_busy (hb : revokeBusy s c (fieldLE c.packet 16 4) = true) :
    exec (.regionRevoke c) s = .next (holdCmd c s) := by
  rw [exec, execRegionRevoke]
  simp only [hb]
  exact runOrdered_holds _ _ hs ha

theorem exec_regionRevoke_invalid (hb : revokeBusy s c (fieldLE c.packet 16 4) = false)
    (hm : keyMatches (region s (keyIndex (fieldLE c.packet 16 4))) c.part (fieldLE c.packet 16 4) = false) :
    exec (.regionRevoke c) s = .next (complete c .keyInvalid [] (procUnit s c) (turn c s)) := by
  rw [exec, execRegionRevoke]
  simp only [hb]
  exact runOrdered_refuses _ _ hs ha (by simp [firstFail, hm])

end

/-- Settles O16: what a registration writes stands in its equation; what a revocation leaves of the table and the copies is said
by the lemmas on `revokeKey`. -/
theorem regionKeysAreGivenAndRevoked : Obligations.RegionKeysAreGivenAndRevoked := by
  refine ⟨?register, ?revoke, ?busy, ?invalid⟩
  case register =>
    rintro c s _ _ _ i hs ha rfl rfl rfl hb hn hon h0 hsize hend hi
    refine ⟨_, exec_regionRegister hs ha hb hn hon h0 hsize hend hi, ?_, ?_, fun j hj => ?_⟩
    · rw [complete_hdl]
    · rw [region, complete_hdl, tget_tset_same]
      rfl
    · rw [region, complete_hdl, tget_tset_other _ _ _ hj]
      rfl
  case revoke =>
    rintro c s _ hs ha rfl hb hm
    have left : region (revokeKey (fieldLE c.packet 16 4) (cmdRef c) (turn c s)) (fieldLE c.packet 16 4 / 256) =
        revokedRegion (region s (fieldLE c.packet 16 4 / 256)) := revokeKey_region _ _ _
    refine ⟨_, exec_regionRevoke hs ha hb hm, rfl, by rw [left]; rfl, by rw [left]; rfl,
      fun h hh => revokeKey_cachedRegion _ _ _ hh, fun p => by rw [left, keyMatches_revoked],
      fun j hj => revokeKey_region_other _ _ (turn c s) hj⟩
  case busy =>
    rintro c s _ hs ha rfl hb
    exact exec_regionRevoke_busy hs ha hb
  case invalid =>
    rintro c s _ hs ha rfl hb hm
    exact exec_regionRevoke_invalid hs ha hb hm

end Sys2Proof.Machine
end

section
/-! PROOFS. The page-fault commands (R88, R90 to R95). -/

namespace Sys2Proof.Machine

/-! ## PF_QUEUE_CONFIG (R90, R94, R95) -/

section
variable {c : Cmd} {s : State}

theorem exec_pfQueueConfig (hs : settled s) (ha : admits descPfQueueConfig c s) (hf : outstandingFaults s c.part = [])
    (hk : param c 16 8 16 5 = 0 ∨ (6 ≤ param c 16 8 16 5 ∧ param c 16 8 16 5 ≤ 16 ∧
      bufTarget (fieldLE c.packet 24 8) = true ∧ fieldLE c.packet 24 8 % 2 ^ (param c 16 8 16 5 + 5) = 0 ∧
      (target (fieldLE c.packet 24 8) ≠ 0 ∨ ownsCtx s c.part (param c 16 8 0 16) = true))) :
    exec (.pfQueueConfig c) s = .next (complete c .ok [] (procUnit s c) (setPfq c.part { pfqOf s c.part with
      bufCtx := BitVec.ofNat 16 (param c 16 8 0 16), bufPa := BitVec.ofNat 64 (fieldLE c.packet 24 8),
      log2 := BitVec.ofNat 5 (param c 16 8 16 5), nextSeq := 0 } (begun c s))) := by
  rw [exec, execPfQueueConfig]
  refine runCmd_effect _ _ hs ha ?_ ?_
  · rcases hk with h0 | ⟨hlo, hhi, hbuf, hal, hown⟩
    · simp [h0, hf]
    · simp only [List.forall_mem_cons, List.not_mem_nil, false_imp_iff, implies_true, and_true]
      refine ⟨?_, by simp [hf], by simp [hbuf, hal], ?_⟩
      · simp [Nat.not_lt.mpr hlo, Nat.not_lt.mpr hhi]
      · rcases hown with h | h <;> simp [h]
  · refine .trans ?_ (complete_undisturbed _ _ _ _ _)
    exact ⟨rfl, rfl, rfl, rfl, rfl, rfl⟩

/-! ## PF_RESOLVE (R88, R94, R95) -/

theorem takeCmd_admits {d : OpDesc} (ha : admits d c s) (go : State → State) : takeCmd d c s go = go (begun c s) := by
  simp only [takeCmd, ha.1, ha.2, if_true]
  rfl

/-- The pending fault a PF_RESOLVE names. -/
def namedFault (c : Cmd) (s : State) : Option PendFault :=
  s.hdl.pend.find? fun f => f.faultId == BitVec.ofNat 32 (fieldLE c.packet 16 4)

theorem exec_pfResolve_resolves {f : PendFault} (ha : admits descPfResolve c s) (hf : namedFault c s = some f)
    (hp : f.part = c.part) : exec (.pfResolve c) s = .next (ended s (reedNotice (complete c .ok [] (procUnit s c)
      (resolveFault f (param c 20 4 0 1 == 1) (begun c s))))) := by
  have passes : firstFail [(Option.any (fun f => f.part != c.part) (some f), Status.denied),
      ((some f).isNone, .bounds)] = none := by
    simp [firstFail, hp]
  rw [namedFault] at hf
  rw [exec, execPfResolve, shtEnds, ends, takeCmd_admits ha]
  simp only [hf, checked, passes]
  rfl

theorem exec_pfResolve_refused {st : Status} (hs : settled s) (hd : s.sht.pushDone = []) (ha : admits descPfResolve c s)
    (hk : firstFail [((namedFault c s).any fun f => f.part != c.part, .denied), ((namedFault c s).isNone, .bounds)] =
      some st) : exec (.pfResolve c) s = .next (complete c st [] (procUnit s c) (begun c s)) := by
  have quiet : (complete c st [] (procUnit s c) (begun c s)).sht.pushDone = [] := by
    rw [complete, completeRef_frame]
    exact hd
  rw [namedFault] at hk
  rw [exec, execPfResolve, shtEnds, takeCmd_admits ha]
  simp only [checked, hk]
  refine Eq.trans (congrArg (ends s) (reedNotice_quiet quiet)) ?_
  exact ends_undisturbed hs ((begun_undisturbed c s).trans (complete_undisturbed _ _ _ _ _))

/-! ## The held list (R92, R94 to R96) -/

theorem exec_pfHeldList {u : State} {all : List Nat} (ha : admits descPfHeldList c s) (h0 : param c 16 8 16 16 ≠ 0)
    (hall : all = (heldCursors s c.part).filter fun k => decide (param c 16 8 32 32 ≤ k))
    (hw : bufWrite (procUnit s c) c.part (param c 16 8 0 16) (fieldLE c.packet 24 8)
      ((all.take (param c 16 8 16 16)).flatMap heldEntry) (begun c s) = (u, .ok)) :
    exec (.pfHeldList c) s = .next (ended s (complete c .ok
      [(all.take (param c 16 8 16 16)).length, ((all.drop (param c 16 8 16 16))[0]?).getD 0] (procUnit s c) u)) := by
  subst hall
  have cursors : heldCursors (setStarted true c s) c.part = heldCursors s c.part := rfl
  have unit : procUnit (setStarted true c s) c = procUnit s c := rfl
  rw [begun] at hw
  rw [exec, execPfHeldList, runCmd_passes _ _ _ _ _ ha.1 ha.2 (by simpa using h0), ends]
  simp only [cursors, unit, hw, if_true]

theorem exec_pfReleaseHeld {g : Nat} (hs : settled s) (ha : admits descPfReleaseHeld c s) (ht : param c 16 4 24 2 < 2)
    (hg : heldObject s (param c 16 4 24 2) c.part (param c 16 4 0 24) = some g)
    (hh : isHeld s c.part (param c 16 4 24 2) g = true) :
    exec (.pfReleaseHeld c) s = .next (complete c .ok [] (procUnit s c) { begun c s with hdl := { s.hdl with
      held := s.hdl.held.filter fun x => x != (c.part, param c 16 4 24 2, g) } }) := by
  rw [exec, execPfReleaseHeld]
  simp only [hg]
  refine runCmd_effect _ _ hs ha ?_ ?_
  · simpa [hh] using ht
  · refine .trans ?_ (complete_undisturbed _ _ _ _ _)
    exact ⟨rfl, rfl, rfl, rfl, rfl, rfl⟩

end

/-- Settles O17: each command by its own equation. -/
theorem pageFaultCommandsTakeEffect : Obligations.PageFaultCommandsTakeEffect := by
  refine ⟨?config, ?resolve, ?refuse, ?list, ?release⟩
  case config =>
    rintro c s _ _ _ hs ha rfl rfl rfl hf hk
    exact exec_pfQueueConfig hs ha hf hk
  case resolve =>
    intro c s f ha hf hp
    have hrun := exec_pfResolve_resolves ha hf hp
    refine ⟨fun hretry => ?_, fun hfail => ?_⟩
    · rw [hrun, hretry]
      rfl
    · rw [hrun, hfail]
      rfl
  case refuse =>
    intro c s hs hd ha
    refine ⟨fun hnone => ?_, fun f hf hp => ?_⟩
    · exact exec_pfResolve_refused hs hd ha (by simp [firstFail, namedFault, hnone])
    · exact exec_pfResolve_refused hs hd ha (by simp [firstFail, namedFault, hf, hp])
  case list => exact fun c s u all ha h0 hall hw => exec_pfHeldList ha h0 hall hw
  case release =>
    rintro c s g _ hs ha rfl ht hg hh
    exact exec_pfReleaseHeld hs ha ht hg hh

end Sys2Proof.Machine
end

section
/-! PROOFS. Translation lookups, table returns and the acknowledgements of holders (R73, R77 to R79). -/

namespace Sys2Proof.Machine

/-! ## TRANSLATION_LOOKUP (R73) -/

theorem deliver_undisturbed (r : Lookup) (st : Status) (pa k : Nat) (s : State) : Undisturbed s (deliver r st pa k s) :=
  ⟨rfl, rfl, rfl, rfl, rfl, rfl⟩

theorem touchLeaf_undisturbed (h : Nat) (l : CachedLeaf) (s : State) : Undisturbed s (touchLeaf h l s) :=
  ⟨rfl, rfl, rfl, rfl, rfl, rfl⟩

/-- Counting does not change what rows 1 and 2 of R73 say. -/
theorem translateCheck_bump (u i n : Nat) (s : State) (r : Lookup) :
    translateCheck (bump u i n s) r = translateCheck s r := by
  rw [bump_frame]
  rfl

theorem cachedLeaf_bump (u i n : Nat) (s : State) (r : Lookup) : cachedLeaf (bump u i n s) r = cachedLeaf s r := by
  rw [bump_frame]
  rfl

theorem targetAssigned_bump (u i n : Nat) (s : State) (part pa : Nat) :
    targetAssigned (bump u i n s) part pa = targetAssigned s part pa := by
  rw [bump_frame]
  rfl

/-- The last rows of R73: the leaf grants the access, and its target is the partition's. -/
theorem useLeaf_granted {s : State} {r : Lookup} {l : CachedLeaf} (hg : leafGrants l r.access = true)
    (ht : targetAssigned s r.part l.pa = true) : useLeaf s r l = .pa (l.pa + r.va % 2 ^ l.pageLog2) l := by
  simp [useLeaf, hg, ht]

section
variable {r : Lookup} {s : State} (hin : inService s (heddle r.heddle) = true) (hh : r.holder ∈ holdersOf r.heddle)
include hin hh

theorem lookup_refused {st : Status} (hc : translateCheck s r = some st) :
    lookup r s = deliver r st 0 0 (bump (heddle r.heddle) 2 1 s) := by
  simp [lookup, hin, hh, translateCheck_bump, hc]

section
variable (hc : translateCheck s r = none) (hlen : r.len ≠ 0)
include hc hlen

theorem lookup_cached {l : CachedLeaf} (hl : cachedLeaf s r = some l) (hg : leafGrants l r.access = true)
    (ht : targetAssigned s r.part l.pa = true) :
    lookup r s = deliver r .ok (l.pa + r.va % 2 ^ l.pageLog2) l.pageLog2
      (touchLeaf r.heddle l (bump (heddle r.heddle) 2 1 s)) := by
  have granted : useLeaf (bump (heddle r.heddle) 2 1 s) r l = .pa (l.pa + r.va % 2 ^ l.pageLog2) l :=
    useLeaf_granted hg ((targetAssigned_bump _ _ _ s _ _).trans ht)
  simp [lookup, hin, hh, translateCheck_bump, hc, hlen, cachedLeaf_bump, hl, granted, endWalk]

theorem lookup_walks (hl : cachedLeaf s r = none) :
    lookup r s = startWalk r (bump (heddle r.heddle) 3 1 (bump (heddle r.heddle) 2 1 s)) := by
  simp [lookup, hin, hh, translateCheck_bump, hc, hlen, cachedLeaf_bump, hl]

end

end

/-! ## TABLE_ENTRY_RETURN (R73, R77) -/

/-- A walk's read has returned: it is no longer awaited. -/
def walkReturned (id : Nat) (s : State) : State :=
  untrack (.walk id) { s with hdl := { s.hdl with walks := s.hdl.walks.filter fun x => x.id != id } }

/-- A walk that R77 does not discard: its context's epoch stands, and its holder has accepted no later invalidation. -/
theorem walkReturned_current {s : State} {w : Walk} (id : Nat) (he : (ctxDesc s w.req.ctx).epoch = w.epoch)
    (ha : staleEpoch s w.req w.epoch = false) :
    ¬((ctxDesc (walkReturned id s) w.req.ctx).epoch ≠ w.epoch ∨ staleEpoch (walkReturned id s) w.req w.epoch = true) := by
  rintro (h | h)
  · exact h he
  · exact Bool.noConfusion (ha.symm.trans h)

section
variable {id : Nat} {ext : List ExtRead} {s u : State} {w : Walk}
  (hw : s.hdl.walks.find? (fun x => x.id == id) = some w) (he : (ctxDesc s w.req.ctx).epoch = w.epoch)
  (ha : staleEpoch s w.req w.epoch = false) (hc : translateCheck s w.req = none)
include hw he ha hc

theorem tableReturn_leaf {a : Nat} {l : CachedLeaf}
    (ht : tableStep w.req w.level w.entryPa ext (walkReturned id s) = (u, .pa a l)) :
    tableReturn id ext s = deliver w.req .ok a l.pageLog2 (touchLeaf w.req.heddle l u) := by
  have current := walkReturned_current id he ha
  have passes : translateCheck (walkReturned id s) w.req = none := hc
  rw [walkReturned] at current passes ht
  simp only [tableReturn, hw, if_neg current, passes, ht, endWalk]

theorem tableReturn_table {l pa addr : Nat}
    (ht : tableStep w.req w.level w.entryPa ext (walkReturned id s) = (u, .next l pa addr)) :
    tableReturn id ext s = issueWalk { w with level := l, entryPa := pa } (cachePtr w.req l addr u) := by
  have current := walkReturned_current id he ha
  have passes : translateCheck (walkReturned id s) w.req = none := hc
  rw [walkReturned] at current passes ht
  simp only [tableReturn, hw, if_neg current, passes, ht]

end

/-! ## Acknowledgements (R78, R79) -/

/-- A withdrawal without a holder, which has acknowledged or counts as having done so. -/
def acknowledged (h holder : Nat) (w : Withdrawal) : Withdrawal :=
  { w with awaiting := w.awaiting.filter (· != (h, holder))
           fencedWait := w.fencedWait.filter fun p => p.1 != (h, holder) }

section
variable (id h holder : Nat) (s : State)

theorem ackHolder_undisturbed : Undisturbed s (ackHolder id h holder s) := by
  simp only [ackHolder]
  split
  · exact .refl s
  · split
    · exact (withdrawalDone_heddleWork _ _).undisturbed
    · exact ⟨rfl, rfl, rfl, rfl, rfl, rfl⟩

variable {id s}

/-- The withdrawal that a holder acknowledges is gone, or waits for that holder no more. -/
theorem mem_withdrawals_ackHolder {w : Withdrawal} (hw : s.hdl.withdrawals.find? (fun w => w.id == id) = some w) :
    ∀ x ∈ (ackHolder id h holder s).hdl.withdrawals, x.id = id → x = acknowledged h holder w := by
  have hid : w.id = id := by simpa using List.find?_some hw
  intro x hx hxid
  simp only [ackHolder, hw] at hx
  split at hx
  · rw [withdrawalDone_hdl] at hx
    simp [hid, hxid] at hx
  · obtain ⟨y, -, rfl⟩ := List.mem_map.mp hx
    by_cases hy : y.id = id
    · rw [if_pos hy]
      rfl
    · rw [if_neg hy] at hxid
      exact absurd hxid hy

theorem acknowledged_awaiting (w : Withdrawal) : (h, holder) ∉ (acknowledged h holder w).awaiting := by
  simp [acknowledged]

theorem acknowledged_fencedWait (w : Withdrawal) : ∀ p ∈ (acknowledged h holder w).fencedWait, p.1 ≠ (h, holder) := by
  simp [acknowledged]

/-- After an acknowledgement of a withdrawal that stands, its holder is awaited no more. -/
theorem ackHolder_not_awaited (hw : (s.hdl.withdrawals.find? fun w => w.id == id).isSome) :
    ∀ x ∈ (ackHolder id h holder s).hdl.withdrawals, x.id = id → (h, holder) ∉ x.awaiting := by
  obtain ⟨w, hw⟩ := Option.isSome_iff_exists.mp hw
  intro x hx hid
  rw [mem_withdrawals_ackHolder h holder hw x hx hid]
  exact acknowledged_awaiting h holder w

theorem ackHolder_not_fenced (hw : (s.hdl.withdrawals.find? fun w => w.id == id).isSome) :
    ∀ x ∈ (ackHolder id h holder s).hdl.withdrawals, x.id = id → ∀ p ∈ x.fencedWait, p.1 ≠ (h, holder) := by
  obtain ⟨w, hw⟩ := Option.isSome_iff_exists.mp hw
  intro x hx hid
  rw [mem_withdrawals_ackHolder h holder hw x hx hid]
  exact acknowledged_fencedWait h holder w

end

/-- What an acknowledging holder gives up of a withdrawn range (step 3 of R78). -/
def givenUp (ctx first n holder : Nat) (s : State) : State :=
  { s with hdl := { s.hdl with
    delivered := s.hdl.delivered.filter fun t => !(t.req.holder == holder && ofWithdrawn ctx first n t) } }

section
variable {id h holder : Nat} {s : State} {w : Withdrawal}

section
variable (hw : s.hdl.withdrawals.find? (fun w => w.id == id && w.awaiting.contains (h, holder)) = some w)
include hw

/-- A withdrawal that awaits the holder has its number. -/
theorem awaiting_id : w.id = id := by
  have := List.find?_some hw
  simp only [Bool.and_eq_true, beq_iff_eq] at this
  exact this.1

theorem awaiting_stands : (s.hdl.withdrawals.find? fun w => w.id == id).isSome :=
  List.find?_isSome.mpr ⟨w, List.mem_of_find?_eq_some hw, by simp [awaiting_id hw]⟩

theorem holderAck_withdraw {ctx first n : Nat} {e : BitVec 32} (hy : w.why = .withdraw ctx first n e) :
    holderAck id h holder s = ackHolder id h holder (givenUp ctx first n holder s) := by
  simp only [holderAck, hw, hy]
  rfl

theorem holderAck_revoke {key : Nat} (hy : w.why = .revoke key) (hk : (h, holder) ∉ keyHolders s key) :
    holderAck id h holder s = ackHolder id h holder s := by
  simp only [holderAck, hw, hy]
  rw [if_neg (by simpa using hk)]

/-- A holder that has not acknowledged for 100 µs is fenced, and waited for once more (R79). -/
theorem holderTimeout_hdl (hd : 100000 ≤ since s h (tget 0 w.started h)) :
    (holderTimeout id h holder s).hdl = { s.hdl with
      withdrawals := s.hdl.withdrawals.map fun x => if x.id = id then
        { w with awaiting := w.awaiting.filter (· != (h, holder))
                 fencedWait := w.fencedWait ++ [((h, holder), dieTime s h)] } else x
      holderFenced := true } := by
  simp only [holderTimeout, hw, if_neg (Nat.not_lt.mpr hd)]
  split <;> rfl

end

/-- The further wait of R79 is over: the fenced holder counts as acknowledged. -/
theorem fenceWaitOver_due {began : Word64} (hw : s.hdl.withdrawals.find? (fun w => w.id == id) = some w)
    (hp : w.fencedWait.find? (fun p => p.1 == (h, holder)) = some ((h, holder), began))
    (hd : (tget 0x32 s.weft.tmo 0).toNat * 1000 ≤ since s h began) :
    fenceWaitOver id h holder s = ackHolder id h holder s := by
  simp only [fenceWaitOver, hw, Option.bind_some, hp, if_neg (Nat.not_lt.mpr hd)]

end

/-- Settles O18: lookups and table returns case by case of R73 and R77; acknowledgements by what `ackHolder` leaves of the
withdrawal. -/
theorem lookupsAndAcknowledgements : Obligations.LookupsAndAcknowledgements := by
  refine ⟨?lookup, ?table, ?ack, ?timeout, ?fence⟩
  case lookup =>
    intro r s hs hin hh
    have counted := bump_undisturbed (heddle r.heddle) 2 1 s
    refine ⟨fun st hc => ?_, fun l hc hlen hl hg ht => ?_, fun hc hlen hl => ?_⟩
    · rw [exec, execTranslationLookup, lookup_refused hin hh hc]
      exact ends_undisturbed hs (counted.trans (deliver_undisturbed _ _ _ _ _))
    · rw [exec, execTranslationLookup, lookup_cached hin hh hc hlen hl hg ht]
      exact ends_undisturbed hs ((counted.trans (touchLeaf_undisturbed _ _ _)).trans (deliver_undisturbed _ _ _ _ _))
    · rw [exec, execTranslationLookup, lookup_walks hin hh hc hlen hl, ends]
  case table =>
    intro id ext s u w hw he ha hc
    refine ⟨fun a l ht => ?_, fun l pa addr ht => ?_⟩
    · rw [exec, execTableEntryReturn, tableReturn_leaf hw he ha hc ht, ends]
    · rw [exec, execTableEntryReturn, tableReturn_table hw he ha hc ht, ends]
  case ack =>
    intro id h holder s w hs hw
    refine ⟨fun ctx first n e hy => ⟨_, ?_, rfl, ackHolder_not_awaited h holder (awaiting_stands hw)⟩,
      fun key hy hk => ⟨_, ?_, rfl, ackHolder_not_awaited h holder (awaiting_stands hw)⟩⟩
    · rw [exec, execHolderAck, holderAck_withdraw hw hy]
      refine ends_undisturbed hs (.trans ?_ (ackHolder_undisturbed _ _ _ _))
      exact ⟨rfl, rfl, rfl, rfl, rfl, rfl⟩
    · rw [exec, execHolderAck, holderAck_revoke hw hy hk]
      exact ends_undisturbed hs (ackHolder_undisturbed _ _ _ _)
  case timeout =>
    intro id h holder s w hw hd
    refine ⟨_, rfl, by rw [ended_hdl, holderTimeout_hdl hw hd], fun x hx hid => ?_⟩
    rw [ended_hdl, holderTimeout_hdl hw hd] at hx
    obtain ⟨y, -, rfl⟩ := List.mem_map.mp hx
    by_cases hy : y.id = id
    · rw [if_pos hy]
      simp
    · rw [if_neg hy] at hid
      exact absurd hid hy
  case fence =>
    intro id h holder s w began hs hw hp hd
    have stands : (s.hdl.withdrawals.find? fun w => w.id == id).isSome := by rw [hw]; rfl
    refine ⟨_, ?_, rfl, ackHolder_not_fenced h holder stands⟩
    rw [exec, execHolderFenceWaitExpiry, fenceWaitOver_due hw hp hd]
    exact ends_undisturbed hs (ackHolder_undisturbed _ _ _ _)

end Sys2Proof.Machine
end

section
/-! PROOFS. The record of `CONFLICT` (R125, R126). -/

namespace Sys2Proof.Machine

section
variable (s : State)

@[simp] theorem conflictOf_setConflict (b : Nat) (c : Conflict) : conflictOf (setConflict b c s) b = c :=
  tget_tset_same _ _ _ _

theorem conflictOf_setConflict_other {b j : Nat} (c : Conflict) (hj : j ≠ b) :
    conflictOf (setConflict b c s) j = conflictOf s j := tget_tset_other _ _ _ hj

/-- A record of a block is put with the registers, and nothing else of the state changes. -/
theorem setConflict_only_regs (b : Nat) (c : Conflict) : { setConflict b c s with regs := s.regs } = s := rfl

end

/-- The record of the first conflict since `SEEN` was cleared (R126). -/
def firstConflict (unit addr : Nat) (cause : Bool) (who : Requester) (v : Nat) : Conflict where
  seen := true
  cause := cause
  multi := false
  offset := BitVec.ofNat 20 addr
  part := BitVec.ofNat 6 who.part
  cls := BitVec.ofNat 4 who.cls
  unit := BitVec.ofNat 16 unit
  value := BitVec.ofNat 64 v

/-- What a conflict makes of the record it meets (R125). -/
def nextConflict (unit addr : Nat) (cause : Bool) (who : Requester) (v : Nat) (c : Conflict) : Conflict :=
  if c.seen then { c with multi := true } else firstConflict unit addr cause who v

/-- A conflict replaces its block's record and does nothing else. -/
theorem noteConflict_eq (unit addr : Nat) (cause : Bool) (who : Requester) (v : Nat) (s : State) :
    noteConflict unit addr cause who v s =
      setConflict (blockOf addr) (nextConflict unit addr cause who v (conflictOf s (blockOf addr))) s := by
  simp only [noteConflict, nextConflict]
  split <;> rfl

/-- 1 in `SEEN` clears the whole record (R126). -/
theorem writeConflict_seen {v : Nat} (hv : v % 2 = 1) (b : Nat) (s : State) : writeConflict b v s = setConflict b {} s := by
  have hbit : bit v 0 = true := by simp [bit, hv]
  simp only [writeConflict, hbit, if_true]

/-- Settles O26: a conflict is one `setConflict`, whose record depends on whether `SEEN` was set. -/
theorem conflictRecordKeepsTheFirst : Obligations.ConflictRecordKeepsTheFirst := by
  intro unit addr v cause who s
  refine ⟨fun hclear => ?first, fun hseen => ?later, fun b hb => ?other, fun hv => ?cleared, ?rest⟩
  case first =>
    rw [noteConflict_eq, conflictOf_setConflict, nextConflict, if_neg (by simp [hclear])]
    rfl
  case later => rw [noteConflict_eq, conflictOf_setConflict, nextConflict, if_pos hseen]
  case other => rw [noteConflict_eq, conflictOf_setConflict_other s _ hb]
  case cleared => rw [writeConflict_seen hv, conflictOf_setConflict]
  case rest => rw [noteConflict_eq, setConflict_only_regs]

end Sys2Proof.Machine
end

section
/-! PROOFS. Which processor serves what, and what the queue operations leave alone (R113, R119). -/

namespace Sys2Proof.Machine

/-! ## The owning processor (R119) -/

section
variable {s t : State} (hw : t.weft = s.weft) (hs : t.saf = s.saf)
include hw hs

theorem inService_of_eq (u : Nat) : inService t u = inService s u := by
  simp only [inService, diePresent, fenced, safUnit, hw, hs]

/-- The owner of a skein follows the dies present and the fences, and nothing else. -/
theorem ownerUnit_of_eq (r : SkeinRef) : ownerUnit t r = ownerUnit s r := by
  cases r <;> simp only [ownerUnit, ownerProc, servingProc, inService_of_eq hw hs]

end

@[simp] theorem ownerUnit_putSkein (r x : SkeinRef) (k : Skein) (s : State) :
    ownerUnit (putSkein r k s) x = ownerUnit s x := by
  cases r <;> rfl

/-! ## Writes of a skein -/

@[simp] theorem skeinOf_putSkein (r : SkeinRef) (k : Skein) (s : State) : skeinOf (putSkein r k s) r = k := by
  cases r with
  | ord g => exact skein_setSkein s g k
  | admin p => simp [skeinOf, putSkein]

theorem putSkein_undisturbed (r : SkeinRef) (k : Skein) (s : State) : Undisturbed s (putSkein r k s) := by
  cases r <;> exact ⟨rfl, rfl, rfl, rfl, rfl, rfl⟩

/-! ## Vectors (R113, R332) -/

/-- An access or event that reports nothing disturbs nothing. -/
theorem Touches.undisturbed {s t : State} (h : Touches s t) (hs : t.saf = s.saf) : Undisturbed s t :=
  ⟨hs, h.pins, h.fw, h.hang, h.pending, h.time⟩

section
variable (p v : Nat) (s : State)

theorem sendVector_undisturbed : Undisturbed s (sendVector p v s) :=
  (sendVector_touches p v s).undisturbed (sendVector_safJcq p v s).1

@[simp] theorem skeinOf_sendVector (r : SkeinRef) : skeinOf (sendVector p v s) r = skeinOf s r := by
  cases r <;> simp only [skeinOf, skein, adminQ, (sendVector_safJcq p v s).2]

@[simp] theorem ownerUnit_sendVector (r : SkeinRef) : ownerUnit (sendVector p v s) r = ownerUnit s r :=
  ownerUnit_of_eq (sendVector_touches p v s).weft (sendVector_safJcq p v s).1 r

end

end Sys2Proof.Machine
end

section
/-! PROOFS. Doorbells (R108, R109, R113, R116). -/

namespace Sys2Proof.Machine

/-! ## What a doorbell reaches (R108, R109) -/

section
variable {w : DoorbellWord} {d : Doorbell} {s : State} {go : State → State}

theorem onDoorbell_not_ready (hr : s.fw.ready = false) : onDoorbell w d s go = s := by
  simp [onDoorbell, hr]

section
variable (hr : s.fw.ready = true) (hp : portUsable s d.port = true)
include hr hp

theorem onDoorbell_no_function (hf : functionExists s d.part d.port = false) : onDoorbell w d s go = countVfDeny s := by
  simp [onDoorbell, hr, hp, hf]

variable (hf : functionExists s d.part d.port = true)
include hf

theorem onDoorbell_word (hw : doorbellWord d = some w) : onDoorbell w d s go = go s := by
  simp [onDoorbell, hr, hp, hf, hw]

theorem onDoorbell_unlisted_write (hw : doorbellWord d = none) (hd : d.read = false) :
    onDoorbell w d s go = dropDoorbell s := by
  simp [onDoorbell, hr, hp, hf, hw, hd]

theorem onDoorbell_read (hw : doorbellWord d = none) (hd : d.read = true) : onDoorbell w d s go =
    dropDoorbell (emit (.readData d.part 0) { s with regs := { s.regs with readData := 0 } }) := by
  simp [onDoorbell, hr, hp, hf, hw, hd]

end

end

theorem namedSkein_created {part n g : Nat} {s : State} {go : SkeinRef → State → State}
    (hg : toGlobal s 0 part n = some g) (hc : (skein s g).created = true) : namedSkein part n s go = go (.ord g) s := by
  simp [namedSkein, hg, hc]

theorem namedSkein_unknown {part n : Nat} {s : State} {go : SkeinRef → State → State}
    (h : ∀ g, toGlobal s 0 part n = some g → (skein s g).created = false) : namedSkein part n s go = dropDoorbell s := by
  unfold namedSkein
  split
  · next g hg => simp [h g hg]
  · rfl

theorem dropDoorbell_undisturbed (s : State) : Undisturbed s (dropDoorbell s) := ⟨rfl, rfl, rfl, rfl, rfl, rfl⟩

theorem rangeSeen_undisturbed (s : State) : Undisturbed s (rangeSeen s) := ⟨rfl, rfl, rfl, rfl, rfl, rfl⟩

theorem countVfDeny_undisturbed (s : State) : Undisturbed s (countVfDeny s) := ⟨rfl, rfl, rfl, rfl, rfl, rfl⟩

/-! ## A doorbell taken (R495) -/

/-- A skein changes by a doorbell, and its owner counts it. -/
theorem applied_putSkein (r : SkeinRef) (k : Skein) (s : State) :
    applied r (putSkein r k s) = bump (ownerUnit s r) 6 1 (putSkein r k s) := by
  rw [applied, ownerUnit_putSkein]

/-- A doorbell that changes its skein, and is counted, leaves exactly that. -/
theorem ends_applied {r : SkeinRef} {k : Skein} {s t u : State} (hs : settled s) (hu : Undisturbed s u)
    (ho : ownerUnit u r = ownerUnit s r) (h : t = applied r (putSkein r k u)) :
    ends s t = .next (bump (ownerUnit s r) 6 1 (putSkein r k u)) := by
  rw [h, applied_putSkein, ho]
  exact ends_undisturbed hs ((hu.trans (putSkein_undisturbed r k u)).trans (bump_undisturbed _ _ _ _))

/-! ## Tails and heads (R109, R113) -/

section
variable {r : SkeinRef} {value : Nat} {s : State}

theorem setTail_in_range (h : value % 65536 < 2 ^ (skeinOf s r).ring.log2) :
    setTail r value s = applied r (putSkein r { skeinOf s r with tail := value % 65536 } s) := by
  simp only [setTail, ge_iff_le, Nat.not_le.mpr h, if_false]

theorem setTail_out_of_range (h : 2 ^ (skeinOf s r).ring.log2 ≤ value % 65536) : setTail r value s = rangeSeen s := by
  simp only [setTail, ge_iff_le, h, if_true]

end

/-- A queue after a new head below its size, and the vector that an armed write with unread entries sends (R113). -/
def headed (p : Nat) (q : OutQueue) (value : Nat) (s : State) : OutQueue × State :=
  if bit value 31 then
    if unread q ≠ 0 then ({ q with arm := false }, sendVector p q.vector.toNat s) else ({ q with arm := true }, s)
  else (q, s)

section
variable {p value : Nat} {q : OutQueue} {s : State}

theorem headed_unarmed (h : bit value 31 = false) : headed p q value s = (q, s) := by simp [headed, h]

theorem headed_armed (h : bit value 31 = true) (hu : unread q = 0) : headed p q value s = ({ q with arm := true }, s) := by
  simp [headed, h, hu]

theorem headed_sends (h : bit value 31 = true) (hu : unread q ≠ 0) :
    headed p q value s = ({ q with arm := false }, sendVector p q.vector.toNat s) := by
  simp [headed, h, hu]

end

section
variable {p value h : Nat} {q₀ q : OutQueue} {s : State} (hh : h = value % 65536) (hq : q = { q₀ with head := h })
include hh hq

theorem setHead_in_range (hlt : h < 2 ^ q.ring.log2) :
    setHead p q₀ value s = (some (headed p q value s).1, (headed p q value s).2) := by
  subst hh hq
  simp only [setHead, ge_iff_le, Nat.not_le.mpr hlt, if_false, headed]
  split
  · split <;> rfl
  · rfl

theorem setHead_out_of_range (hle : 2 ^ q.ring.log2 ≤ h) : setHead p q₀ value s = (none, rangeSeen s) := by
  subst hh hq
  simp only [setHead, ge_iff_le, hle, if_true]

end

section
variable {r : SkeinRef} {value h : Nat} {q : OutQueue} {s : State} (hh : h = value % 65536)
  (hq : q = { (skeinOf s r).cq with head := h })
include hh hq

theorem setCqHead_out_of_range (hlt : 2 ^ q.ring.log2 ≤ h) : setCqHead r value s = rangeSeen s := by
  rw [setCqHead, setHead_out_of_range hh hq hlt]

variable (hlt : h < 2 ^ q.ring.log2)
include hlt

theorem setCqHead_in_range : setCqHead r value s = applied r (putSkein r
    { skeinOf (headed (skeinPart s r) q value s).2 r with cq := (headed (skeinPart s r) q value s).1 }
    (headed (skeinPart s r) q value s).2) := by
  rw [setCqHead, setHead_in_range hh hq hlt]

theorem setCqHead_unarmed (ha : bit value 31 = false) :
    setCqHead r value s = applied r (putSkein r { skeinOf s r with cq := q } s) := by
  rw [setCqHead_in_range hh hq hlt, headed_unarmed ha]

theorem setCqHead_armed (ha : bit value 31 = true) (hu : unread q = 0) :
    setCqHead r value s = applied r (putSkein r { skeinOf s r with cq := { q with arm := true } } s) := by
  rw [setCqHead_in_range hh hq hlt, headed_armed ha hu]

theorem setCqHead_sends (ha : bit value 31 = true) (hu : unread q ≠ 0) : setCqHead r value s =
    applied r (putSkein r { skeinOf s r with cq := { q with arm := false } }
      (sendVector (skeinPart s r) q.vector.toNat s)) := by
  rw [setCqHead_in_range hh hq hlt, headed_sends ha hu, skeinOf_sendVector]

end

/-! ## ENABLE (R116) -/

section
variable {r : SkeinRef} {on : Bool} {s : State}

theorem setEnable_takes (h : on = false ∨ (skeinOf s r).error = false) :
    setEnable r on s = applied r (putSkein r { skeinOf s r with enable := on } s) := by
  have hno : (on && (skeinOf s r).error) = false := by rcases h with h | h <;> simp [h]
  simp only [setEnable, hno, Bool.false_eq_true, if_false]

theorem setEnable_in_error (hon : on = true) (he : (skeinOf s r).error = true) : setEnable r on s = s := by
  simp [setEnable, hon, he]

end

/-! ## Rows of doorbells -/

section
variable {d : Doorbell} {s : State}

theorem ends_not_ready {w : DoorbellWord} {go : State → State} (hs : settled s) (hr : s.fw.ready = false) :
    ends s (onDoorbell w d s go) = .next s := by
  rw [onDoorbell_not_ready hr]
  exact ends_undisturbed hs (.refl s)

section
variable {w : DoorbellWord} {go : SkeinRef → State → State} (hr : s.fw.ready = true) (hp : portUsable s d.port = true)
  (hf : functionExists s d.part d.port = true)
include hr hp hf

/-- A doorbell of a created skein does what its word does to the skein. -/
theorem onSkein_created {g : Nat} (hg : toGlobal s 0 d.part (doorbellSkein d) = some g) (hc : (skein s g).created = true)
    (hw : doorbellWord d = some w) : onSkein w d s go = go (.ord g) s := by
  rw [onSkein, onDoorbell_word hr hp hf hw, namedSkein_created hg hc]

theorem ends_onSkein_unknown (hs : settled s)
    (hg : ∀ g, toGlobal s 0 d.part (doorbellSkein d) = some g → (skein s g).created = false)
    (hw : doorbellWord d = some w) : ends s (onSkein w d s go) = .next (dropDoorbell s) := by
  rw [onSkein, onDoorbell_word hr hp hf hw, namedSkein_unknown hg]
  exact ends_undisturbed hs (dropDoorbell_undisturbed s)

end

end

/-- Settles O19: what a doorbell reaches, then what its word does to the skein; none of it disturbs anything. -/
theorem doorbellsSetTailsHeadsAndEnable : Obligations.DoorbellsSetTailsHeadsAndEnable := by
  refine ⟨?created, ?unknown, ?unlisted, ?noFunction, ?notReady⟩
  case created =>
    intro d s g h q hs hr hp hf hg hc hh hq
    subst hh
    refine ⟨fun hw hlt => ?tail, fun hw hle => ?tailRange, fun hw hle => ?headRange, fun hw hlt ha => ?unarmed,
      fun hw hlt ha hu => ?armed, fun hw hlt ha hu => ?sends, fun hw he => ?enable, fun hw hon he => ?error⟩
    case tail => exact ends_applied hs (.refl s) rfl ((onSkein_created hr hp hf hg hc hw).trans (setTail_in_range hlt))
    case tailRange =>
      rw [exec, execSqTail, onSkein_created hr hp hf hg hc hw, setTail_out_of_range hle]
      exact ends_undisturbed hs (rangeSeen_undisturbed s)
    case headRange =>
      rw [exec, execCqHead, onSkein_created hr hp hf hg hc hw, setCqHead_out_of_range rfl hq hle]
      exact ends_undisturbed hs (rangeSeen_undisturbed s)
    case unarmed =>
      exact ends_applied hs (.refl s) rfl
        ((onSkein_created hr hp hf hg hc hw).trans (setCqHead_unarmed rfl hq hlt ha))
    case armed =>
      exact ends_applied hs (.refl s) rfl
        ((onSkein_created hr hp hf hg hc hw).trans (setCqHead_armed rfl hq hlt ha hu))
    case sends =>
      exact ends_applied hs (sendVector_undisturbed _ _ s) (ownerUnit_sendVector _ _ s _)
        ((onSkein_created hr hp hf hg hc hw).trans (setCqHead_sends rfl hq hlt ha hu))
    case enable => exact ends_applied hs (.refl s) rfl ((onSkein_created hr hp hf hg hc hw).trans (setEnable_takes he))
    case error =>
      rw [exec, execCtl, onSkein_created hr hp hf hg hc hw, setEnable_in_error (r := .ord g) hon he]
      exact ends_undisturbed hs (.refl s)
  case unknown =>
    intro d s hs hr hp hf hg
    exact ⟨ends_onSkein_unknown hr hp hf hs hg, ends_onSkein_unknown hr hp hf hs hg, ends_onSkein_unknown hr hp hf hs hg⟩
  case unlisted =>
    intro d s hs hr hp hf hw
    refine ⟨fun hd => ?write, fun hd => ?read⟩
    case write =>
      rw [exec, execSqTail, onSkein, onDoorbell_unlisted_write hr hp hf hw hd]
      exact ends_undisturbed hs (dropDoorbell_undisturbed s)
    case read =>
      rw [exec, execSqTail, onSkein, onDoorbell_read hr hp hf hw hd]
      exact ends_undisturbed hs ⟨rfl, rfl, rfl, rfl, rfl, rfl⟩
  case noFunction =>
    intro d s hs hr hp hf
    rw [exec, execSqTail, onSkein, onDoorbell_no_function hr hp hf]
    exact ends_undisturbed hs (countVfDeny_undisturbed s)
  case notReady =>
    intro d s hs hr
    exact ⟨ends_not_ready hs hr, ends_not_ready hs hr, ends_not_ready hs hr, ends_not_ready hs hr, ends_not_ready hs hr,
      ends_not_ready hs hr⟩

end Sys2Proof.Machine
end

section
/-! PROOFS. The doorbells of the admin queues, and the base of the admin ring (R109, R113, R117, R121). -/

namespace Sys2Proof.Machine

/-! ## The event queue's head (R121) -/

section
variable {p value h : Nat} {q : OutQueue} {s : State} (hh : h = value % 65536) (hq : q = { (adminQ s p).eq with head := h })
include hh hq

theorem setEqHead_out_of_range (hle : 2 ^ q.ring.log2 ≤ h) : setEqHead p value s = rangeSeen s := by
  rw [setEqHead, setHead_out_of_range hh hq hle]

theorem setEqHead_unarmed (hlt : h < 2 ^ q.ring.log2) (ha : bit value 31 = false) : setEqHead p value s =
    overflowEntry p (setAdminQ p { adminQ s p with eq := q } (applied (.admin p) s)) := by
  rw [setEqHead, setHead_in_range hh hq hlt, headed_unarmed ha]

end

/-! ## The base of the admin ring (R117) -/

/-- An idle admin skein at a new base: its ring is empty, and it is out of ERROR. -/
def movedRing (value : Nat) (a : AdminQ) : AdminQ :=
  { a with sk := { freshSq a.sk with ring := { a.sk.ring with pa := BitVec.ofNat 64 value }, error := false } }

section
variable {p value : Nat} {s u : State}

theorem adminWrite_base : adminWrite p 0x00 value s =
    if adminWritable (adminQ s p) then some (setAdminQ p (movedRing value (adminQ s p)) s) else none := by
  cases h : adminWritable (adminQ s p) <;> simp [adminWrite, movedRing, h]

/-- Bases are written only while both queues are off and nothing is outstanding. -/
theorem adminWritable_off {a : AdminQ} (h : adminWritable a = true) :
    a.sk.enable = false ∧ a.eqEnable = false ∧ a.sk.outstanding = 0 := by
  simp only [adminWritable, skeinIdle, Bool.and_eq_true, Bool.not_eq_true', beq_iff_eq] at h
  obtain ⟨⟨⟨hen, hout⟩, -⟩, heq⟩ := h
  exact ⟨hen, heq, hout⟩

theorem adminWrite_base_accepted (h : adminWrite p 0x00 value s = some u) :
    adminWritable (adminQ s p) = true ∧ u = setAdminQ p (movedRing value (adminQ s p)) s := by
  rw [adminWrite_base] at h
  split at h
  · next ha => exact ⟨ha, (Option.some.inj h).symm⟩
  · cases h

end

/-- Settles O20: the admin skein's doorbells are those of a skein; the event queue's head is followed by its overflow entry. -/
theorem adminDoorbellsAndWords : Obligations.AdminDoorbellsAndWords := by
  refine ⟨?doorbells, ?base⟩
  case doorbells =>
    intro d s h a q e hs hr hp hf ha hh hq he
    subst ha
    refine ⟨fun hw hlt => ?tail, fun hw hle => ?tailRange, fun hw hlt harm => ?unarmed, fun hw hlt harm hu => ?armed,
      fun hw hlt harm hu => ?sends, fun hw hle => ?headRange, fun hw hlt harm => ?event, fun hw hle => ?eventRange⟩
    case tail =>
      subst hh
      exact ends_applied hs (.refl s) rfl ((onDoorbell_word hr hp hf hw).trans (setTail_in_range (r := .admin d.part) hlt))
    case tailRange =>
      subst hh
      rw [exec, execAsqTail, onDoorbell_word hr hp hf hw, setTail_out_of_range (r := .admin d.part) hle]
      exact ends_undisturbed hs (rangeSeen_undisturbed s)
    case unarmed =>
      exact ends_applied hs (.refl s) rfl
        ((onDoorbell_word hr hp hf hw).trans (setCqHead_unarmed (r := .admin d.part) hh hq hlt harm))
    case armed =>
      exact ends_applied hs (.refl s) rfl
        ((onDoorbell_word hr hp hf hw).trans (setCqHead_armed (r := .admin d.part) hh hq hlt harm hu))
    case sends =>
      have same : adminQ (sendVector d.part q.vector.toNat s) d.part = adminQ s d.part := by
        rw [adminQ, (sendVector_safJcq _ _ _).2]
        rfl
      rw [← same]
      refine ends_applied hs (sendVector_undisturbed _ _ s) (ownerUnit_sendVector _ _ s _) ?_
      rw [onDoorbell_word hr hp hf hw, setCqHead_sends (r := .admin d.part) hh hq hlt harm hu]
      rw [← skeinOf_sendVector d.part q.vector.toNat]
      rfl
    case headRange =>
      rw [exec, execAcqHead, onDoorbell_word hr hp hf hw, setCqHead_out_of_range (r := .admin d.part) hh hq hle]
      exact ends_undisturbed hs (rangeSeen_undisturbed s)
    case event =>
      rw [exec, execEqHead, onDoorbell_word hr hp hf hw, setEqHead_unarmed hh he hlt harm]
      rfl
    case eventRange =>
      rw [exec, execEqHead, onDoorbell_word hr hp hf hw, setEqHead_out_of_range hh he hle]
      exact ends_undisturbed hs (rangeSeen_undisturbed s)
  case base =>
    intro p value s u h
    obtain ⟨ha, rfl⟩ := adminWrite_base_accepted h
    obtain ⟨hoff, heq, hout⟩ := adminWritable_off ha
    refine ⟨hoff, heq, hout, ?_, ?_, ?_, ?_, fun q hq => adminQ_setAdminQ_other s p _ q hq⟩
    all_goals rw [adminQ_setAdminQ]; rfl

end Sys2Proof.Machine
end

section
/-! PROOFS. SKEIN_CREATE, SKEIN_MODIFY and SKEIN_DESTROY (R114, R124). -/

namespace Sys2Proof.Machine

/-- The ring a queue command describes. -/
def ringAt (pa ctx log2 : Nat) : Ring := { pa := BitVec.ofNat 64 pa, bufCtx := BitVec.ofNat 16 ctx, log2 := log2 }

/-- The skein that SKEIN_CREATE makes: empty, and out of ERROR. -/
def createdSkein (c : Cmd) : Skein where
  created := true
  enable := param c 16 8 56 1 == 1
  weight := BitVec.ofNat 8 (param c 16 8 42 8)
  burstM1 := BitVec.ofNat 6 (param c 16 8 50 6)
  ring := ringAt (fieldLE c.packet 24 8) (param c 16 8 16 16) (param c 16 8 32 5)
  cq := { ring := ringAt (fieldLE c.packet 32 8) (param c 16 8 16 16) (param c 16 8 37 5)
          vector := BitVec.ofNat 11 (param c 40 4 0 11) }

/-- A skein under the weight and burst of SKEIN_MODIFY; `CLEAR_ERROR` of one in ERROR leaves it disabled (R114). -/
def modifiedSkein (c : Cmd) (k : Skein) : Skein :=
  { k with
    weight := BitVec.ofNat 8 (param c 16 8 14 8)
    burstM1 := BitVec.ofNat 6 (param c 16 8 22 6)
    error := k.error && param c 16 8 28 1 != 1
    enable := k.enable && !(k.error && param c 16 8 28 1 == 1) }

theorem ringOk_iff (pa log2 entry : Nat) : ringOk pa log2 entry = true ↔ bufTarget pa = true ∧ pa % 2 ^ (log2 + entry) = 0 := by
  simp [ringOk]

/-- A queue command that sets a skein and completes disturbs nothing. -/
theorem setSkein_complete_undisturbed (c : Cmd) (unit g : Nat) (k : Skein) (s : State) :
    Undisturbed s (complete c .ok [] unit (setSkein g k s)) :=
  (putSkein_undisturbed (.ord g) k s).trans (complete_undisturbed _ _ _ _ _)

section
variable {c : Cmd} {s : State} {g : Nat} (hs : settled s) (hg : skeinArg s c = some g)
include hs hg

section
variable (ha : admits descSkeinCreate c s)
include ha

theorem exec_skeinCreate (hc : (skein s g).created = false)
    (hsq : 4 ≤ param c 16 8 32 5 ∧ param c 16 8 32 5 ≤ 16) (hcq : 4 ≤ param c 16 8 37 5 ∧ param c 16 8 37 5 ≤ 16)
    (hw : param c 16 8 42 8 ≠ 0) (hv : param c 40 4 0 11 < vectorTable s c.part)
    (hsqPa : ringOk (fieldLE c.packet 24 8) (param c 16 8 32 5) 6 = true)
    (hcqPa : ringOk (fieldLE c.packet 32 8) (param c 16 8 37 5) 5 = true)
    (hctx : (target (fieldLE c.packet 24 8) ≠ 0 ∧ target (fieldLE c.packet 32 8) ≠ 0) ∨
      ownsCtx s c.part (param c 16 8 16 16) = true) :
    exec (.skeinCreate c) s =
      .next (complete c .ok [] (ownerUnit s (.ord g)) (setSkein g (createdSkein c) (begun c s))) := by
  rw [exec, execSkeinCreate]
  simp only [hg, Option.getD_some]
  refine runCmd_effect _ _ hs ha ?_ (setSkein_complete_undisturbed _ _ _ _ _)
  simp only [List.forall_mem_cons, List.not_mem_nil, false_imp_iff, implies_true, and_true]
  refine ⟨rfl, hc, ?_, ?_, ?_⟩
  · simp [hw, hsq, hcq]
  · simp [hsqPa, hcqPa, hv]
  · rcases hctx with ⟨ht, ht'⟩ | ho
    · simp [ht, ht']
    · simp [ho]

theorem exec_skeinCreate_again (hc : (skein s g).created = true) :
    exec (.skeinCreate c) s = .next (complete c .busy [] (procUnit s c) (begun c s)) := by
  rw [exec, execSkeinCreate]
  simp only [hg, Option.getD_some]
  exact runCmd_refuses _ _ hs ha (by simp [firstFail, hc])

end

variable (hc : (skein s g).created = true)
include hc

theorem exec_skeinModify (ha : admits descSkeinModify c s) (hw : param c 16 8 14 8 ≠ 0) :
    exec (.skeinModify c) s =
      .next (complete c .ok [] (ownerUnit s (.ord g)) (setSkein g (modifiedSkein c (skein s g)) (begun c s))) := by
  have modified : (if param c 16 8 28 1 = 1 ∧ (skein s g).error = true then
      { skein s g with weight := BitVec.ofNat 8 (param c 16 8 14 8), burstM1 := BitVec.ofNat 6 (param c 16 8 22 6),
                       error := false, enable := false }
      else { skein s g with weight := BitVec.ofNat 8 (param c 16 8 14 8), burstM1 := BitVec.ofNat 6 (param c 16 8 22 6) }) =
      modifiedSkein c (skein s g) := by
    by_cases hclear : param c 16 8 28 1 = 1
    · cases he : (skein s g).error <;> simp [modifiedSkein, hclear, he]
    · have hkeep : (param c 16 8 28 1 == 1) = false := by simpa using hclear
      simp [modifiedSkein, hclear, hkeep]
  rw [← modified, exec, execSkeinModify]
  simp only [hg, Option.getD_some]
  exact runCmd_effect _ _ hs ha (by simp [hc, hw]) (setSkein_complete_undisturbed _ _ _ _ _)

section
variable (ha : admits descSkeinDestroy c s)
include ha

theorem exec_skeinDestroy (hi : skeinIdle (skein s g) = true) :
    exec (.skeinDestroy c) s = .next (complete c .ok [] (ownerUnit s (.ord g)) (setSkein g {} (begun c s))) := by
  rw [exec, execSkeinDestroy]
  simp only [hg, Option.getD_some]
  exact runCmd_effect _ _ hs ha (by simp [hc, hi]) (setSkein_complete_undisturbed _ _ _ _ _)

theorem exec_skeinDestroy_busy (hi : skeinIdle (skein s g) = false) :
    exec (.skeinDestroy c) s = .next (complete c .busy [] (procUnit s c) (begun c s)) := by
  rw [exec, execSkeinDestroy]
  simp only [hg, Option.getD_some]
  exact runCmd_refuses _ _ hs ha (by simp [firstFail, hc, hi])

end

end

/-- Settles O21: each command by its own equation. -/
theorem skeinCommandsTakeEffect : Obligations.SkeinCommandsTakeEffect := by
  refine ⟨?create, ?again, ?modify, ?destroy⟩
  case create =>
    rintro c s g _ _ _ _ _ _ _ hs ha hg hc rfl rfl rfl rfl rfl rfl rfl hsq hsq' hcq hcq' hw hv hbuf hal hbuf' hal' hctx
    exact exec_skeinCreate hs hg ha hc ⟨hsq, hsq'⟩ ⟨hcq, hcq'⟩ hw hv ((ringOk_iff _ _ _).mpr ⟨hbuf, hal⟩)
      ((ringOk_iff _ _ _).mpr ⟨hbuf', hal'⟩) hctx
  case again => exact fun c s g hs ha hg hc => exec_skeinCreate_again hs hg ha hc
  case modify => exact fun c s g hs ha hg hc hw => exec_skeinModify hs hg hc ha hw
  case destroy =>
    exact fun c s g hs ha hg hc => ⟨fun hi => exec_skeinDestroy hs hg hc ha hi, fun hi => exec_skeinDestroy_busy hs hg hc ha hi⟩

end Sys2Proof.Machine
end

section
/-! PROOFS. The loop of the processors (R115). -/

namespace Sys2Proof.Machine

/-! ## A processor's place in its round -/

section
variable (s : State) (n : Nat) (p : ProcState)

@[simp] theorem procOf_setProc : procOf (setProc n p s) n = p := tget_tset_same _ _ _ _

/-- Where a processor stands in its round decides neither what can be served nor which skeins it has. -/
@[simp] theorem servable_setProc (r : SkeinRef) : servable_ (setProc n p s) r = servable_ s r := rfl

@[simp] theorem skeinOf_setProc (r : SkeinRef) : skeinOf (setProc n p s) r = skeinOf s r := rfl

@[simp] theorem procAdmins_setProc (m : Nat) : procAdmins (setProc n p s) m = procAdmins s m := rfl

end

/-- A processor that begins to visit the next skein of its pass. -/
def arriving (g : Nat) (rest : List Nat) (p : ProcState) : ProcState :=
  { p with visit := some g, last := some g, left := rest, n := 0 }

/-- A processor with the skeins of a new pass before it. -/
def withPass (gs : List Nat) (p : ProcState) : ProcState := { p with left := gs }

/-! ## One step of the loop -/

section
variable {n fuel g : Nat} {s : State}

section
variable (hv : (procOf s n).visit = some g) (hgo : visitGoes s n g (procOf s n) = true)
include hv hgo

theorem serveGo_waits (hf : (skein s g).fetching = true) : serveGo n (fuel + 1) s = s := by
  simp [serveGo, hv, hgo, hf]

theorem serveGo_visits (hf : (skein s g).fetching = false) (hs : servable_ s (.ord g) = true) :
    serveGo n (fuel + 1) s = serveOne (.ord g) s := by
  simp [serveGo, hv, hgo, hf, hs]

end

/-- The first skein of a pass is served on arrival where the visit goes on with no command of it counted. -/
theorem serveGo_arrives {rest : List Nat} {p : ProcState} (hgo : visitGoes s n g { p with n := 0 } = true)
    (hf : (skein s g).fetching = false) (hs : servable_ s (.ord g) = true) :
    serveGo n (fuel + 1) (setProc n (arriving g rest p) s) = serveOne (.ord g) (setProc n (arriving g rest p) s) := by
  refine serveGo_visits ?_ ?_ hf hs
  · rw [procOf_setProc]
    rfl
  · rw [procOf_setProc]
    exact hgo

theorem no_entry_on_its_way {l : List SkeinRef} (hon : ∀ x ∈ l, (skeinOf s x).fetching = false) :
    (l.any fun r => (skeinOf s r).fetching) = false := by simpa using hon

/-- At a boundary with no admin skein to serve, or four served, none is. -/
theorem no_admin_served {r : SkeinRef} (hno : (procAdmins s n).find? (servable_ s) = none ∨ 4 ≤ (procOf s n).adminN)
    (hr : (procAdmins s n).find? (servable_ s) = some r) : decide ((procOf s n).adminN < 4) ≠ true := by
  rcases hno with hno | hno
  · simp [hno] at hr
  · simpa using hno

section
variable (hv : (procOf s n).visit = none) (hon : ∀ x ∈ procAdmins s n, (skeinOf s x).fetching = false)
include hv hon

theorem serveGo_admin {r : SkeinRef} (hr : (procAdmins s n).find? (servable_ s) = some r) (h4 : (procOf s n).adminN < 4) :
    serveGo n (fuel + 1) s = serveOne r s := by
  simp only [serveGo, hv, no_entry_on_its_way hon, hr, h4, decide_true, Bool.false_eq_true, if_false]

variable (hno : (procAdmins s n).find? (servable_ s) = none ∨ 4 ≤ (procOf s n).adminN)
include hno

theorem serveGo_next {rest : List Nat} (hl : (procOf s n).left = g :: rest) :
    serveGo n (fuel + 1) s = serveGo n fuel (setProc n (arriving g rest (procOf s n)) s) := by
  simp only [serveGo, hv, no_entry_on_its_way hon, Bool.false_eq_true, if_false]
  split
  · next hr h4 => exact absurd h4 (no_admin_served hno hr)
  · rw [hl]
    rfl

theorem serveGo_round {rest : List Nat} (hl : (procOf s n).left = []) (ho : roundOver s n = true)
    (hp : passOrder (newRound n s) n = g :: rest) :
    serveGo n (fuel + 1) s = serveGo n fuel (setProc n (withPass (g :: rest) (procOf s n)) (newRound n s)) := by
  simp only [serveGo, hv, no_entry_on_its_way hon, Bool.false_eq_true, if_false]
  split
  · next hr h4 => exact absurd h4 (no_admin_served hno hr)
  · simp only [hl, ho, if_true, hp, withPass, hv]

end

/-- A pass that has just begun goes to its first skein, where its processor has no admin skein. -/
theorem serveGo_first_of_pass {rest : List Nat} {p : ProcState} (hv : p.visit = none) (hadm : procAdmins s n = [])
    (hgo : visitGoes s n g { p with n := 0 } = true) (hf : (skein s g).fetching = false)
    (hs : servable_ s (.ord g) = true) :
    serveGo n (fuel + 2) (setProc n (withPass (g :: rest) p) s) =
      serveOne (.ord g) (setProc n (arriving g rest p) (setProc n (withPass (g :: rest) p) s)) := by
  have left : (procOf (setProc n (withPass (g :: rest) p) s) n).left = g :: rest := by
    rw [procOf_setProc]
    rfl
  rw [serveGo_next (by rw [procOf_setProc]; exact hv) (by simp [hadm]) (.inl (by simp [hadm])) left, procOf_setProc]
  exact serveGo_arrives (s := setProc n (withPass (g :: rest) p) s) (p := withPass (g :: rest) p) hgo hf hs

end

/-! ## A new round -/

/-- A skein at the start of a round: its weight is its credit, and changes of weight and burst take effect. -/
def renewed (k : Skein) : Skein := { k with credit := k.weight.toNat, roundWeight := k.weight, roundBurstM1 := k.burstM1 }

def renewSkein (s : State) (r : SkeinRef) : State := putSkein r (renewed (skeinOf s r)) s

theorem newRound_eq (n : Nat) (s : State) : newRound n s = ((procSkeins s n).filter isOrd).foldl renewSkein s := rfl

/-- Nothing but ordinary skeins has changed. -/
def OnlySkeins (s t : State) : Prop := t = { s with jcq := { s.jcq with skein := t.jcq.skein } }

theorem OnlySkeins.trans {s t u : State} (h : OnlySkeins s t) (k : OnlySkeins t u) : OnlySkeins s u := by
  have e := congrArg (fun x : State => { x with jcq := { x.jcq with skein := u.jcq.skein } }) h
  exact Eq.trans k e

theorem newRound_onlySkeins (n : Nat) (s : State) : OnlySkeins s (newRound n s) := by
  rw [newRound_eq, List.foldl_filter]
  refine foldl_related (R := OnlySkeins) (fun _ => rfl) OnlySkeins.trans (fun s r => ?_) _ s
  cases r <;> rfl

/-- The admin skeins of a processor are those it owns. -/
theorem procAdmins_eq (s : State) (n : Nat) :
    procAdmins s n = (s.jcq.admin.map fun e => SkeinRef.admin e.1).filter fun r => ownerProc s r == n := by
  have admins : (s.jcq.admin.map fun e => SkeinRef.admin e.1).filter (fun r => !isOrd r) =
      s.jcq.admin.map fun e => SkeinRef.admin e.1 := by
    simp [List.filter_map, Function.comp_def, isOrd]
  have ords : (s.jcq.skein.map fun e => SkeinRef.ord e.1).filter (fun r => !isOrd r) = [] := by
    simp [List.filter_map, Function.comp_def, isOrd]
  rw [procAdmins, procSkeins, List.filter_comm, List.filter_append, admins, ords, List.append_nil]

theorem procAdmins_newRound (n : Nat) (s : State) (m : Nat) : procAdmins (newRound n s) m = procAdmins s m := by
  rw [procAdmins_eq, procAdmins_eq, newRound_onlySkeins n s]
  rfl

theorem skein_renewSkein (s : State) (r : SkeinRef) (g : Nat) :
    skein (renewSkein s r) g = if r = .ord g then renewed (skein s g) else skein s g := by
  cases r with
  | ord j =>
    by_cases hj : j = g
    · subst hj
      rw [if_pos rfl]
      exact skein_setSkein s _ _
    · rw [if_neg (by simpa using hj)]
      exact skein_setSkein_other s _ _ _ (Ne.symm hj)
  | admin p => rfl

/-- Renewing twice in a round is renewing once. -/
theorem skein_foldl_renewSkein (l : List SkeinRef) (s : State) (g : Nat) :
    skein (l.foldl renewSkein s) g = if .ord g ∈ l then renewed (skein s g) else skein s g := by
  induction l generalizing s with
  | nil => rfl
  | cons r l ih =>
    rw [List.foldl_cons, ih, skein_renewSkein]
    by_cases hr : r = .ord g
    · subst hr
      simp only [if_true, List.mem_cons_self]
      split <;> rfl
    · simp [hr, Ne.symm hr]

theorem skein_newRound (n : Nat) (s : State) (g : Nat) :
    skein (newRound n s) g = if .ord g ∈ procSkeins s n then renewed (skein s g) else skein s g := by
  rw [newRound_eq, skein_foldl_renewSkein]
  simp [List.mem_filter, isOrd]

theorem skein_newRound_fetching (n : Nat) (s : State) (g : Nat) :
    (skein (newRound n s) g).fetching = (skein s g).fetching := by
  rw [skein_newRound]
  split <;> rfl

/-! ## SKEIN_SERVE -/

theorem exec_skeinServe_stopped {n : Nat} {s : State} (hs : settled s) (h : 32 ≤ n ∨ procStopped s n = true) :
    exec (.skeinServe n) s = .next s := by
  rw [exec, execSkeinServe, skeinServe, if_pos h]
  exact ends_undisturbed hs (.refl s)

/-- The loop has room for the three steps from a boundary over a new round to a visit. -/
theorem exec_skeinServe_runs {n : Nat} {s : State} (hn : n < 32) (h : procStopped s n = false) :
    exec (.skeinServe n) s = ends s (serveGo n (4 * (procSkeins s n).length + 5 + 3) s) := by
  have hgo : ¬(n ≥ 32 ∨ procStopped s n = true) := by simp [hn, h]
  rw [exec, execSkeinServe, skeinServe, if_neg hgo]

/-- Settles O22: the loop's steps to what it serves, and what a new round makes of each skein. -/
theorem skeinsAreServed : Obligations.SkeinsAreServed := by
  refine ⟨?admin, ?visit, ?pass, ?round, ?renews, ?stopped⟩
  case admin =>
    intro n s r hn hst hv hon hr h4
    rw [exec_skeinServe_runs hn hst, serveGo_admin hv hon hr h4, ends]
  case visit =>
    intro n g s hn hst hv hgo
    refine ⟨fun hf hsv => ?_, fun hs hf => ?_⟩
    · rw [exec_skeinServe_runs hn hst, serveGo_visits hv hgo hf hsv, ends]
    · rw [exec_skeinServe_runs hn hst, serveGo_waits hv hgo hf]
      exact ends_undisturbed hs (.refl s)
  case pass =>
    intro n g rest s hn hst hv hon hno hl hgo hf hsv
    rw [exec_skeinServe_runs hn hst, serveGo_next hv hon hno hl, serveGo_arrives hgo hf hsv, ends]
    rfl
  case round =>
    rintro n g rest s _ hn hst hv hon hadm hl ho rfl hp hgo hf hsv
    have hadm' : procAdmins (newRound n s) n = [] := (procAdmins_newRound n s n).trans hadm
    have hf' : (skein (newRound n s) g).fetching = false := (skein_newRound_fetching n s g).trans hf
    rw [exec_skeinServe_runs hn hst, serveGo_round hv hon (.inl (by rw [hadm]; rfl)) hl ho hp,
      serveGo_first_of_pass hv hadm' hgo hf' hsv, ends]
    rfl
  case renews =>
    intro n s
    refine ⟨by rw [newRound_onlySkeins n s], fun g hg => ?_, fun g hg => ?_⟩
    · rw [skein_newRound, if_pos hg]
      rfl
    · rw [skein_newRound, if_neg hg]
  case stopped => exact fun n s hs h => exec_skeinServe_stopped hs h

end Sys2Proof.Machine
end

section
/-! PROOFS. Entries that come back, and credits that are granted (R98, R107, R109, R114, R115). -/

namespace Sys2Proof.Machine

/-! ## Entries (R107, R109, R114) -/

section
variable {r : SkeinRef} {ext : List ExtRead} {s u : State} {bs : List Byte}

/-- The skein after an entry has come: its bytes join what was fetched, its head is past it, and the first entry of a command
makes that command outstanding (R109, R116). -/
def entered (bs : List Byte) (k : Skein) : Skein :=
  { k with
    fetching := false
    fetched := k.fetched ++ bs
    head := (k.head + 1) % 2 ^ k.ring.log2
    outstanding := k.outstanding + b2n (!midCommand k) }

/-- That a request has been answered changes neither who owns a skein nor whose it is. -/
@[simp] theorem ownerUnit_untrack (why : WeftPurpose) : ownerUnit (untrack why s) r = ownerUnit s r := by cases r <;> rfl

@[simp] theorem skeinPart_untrack (why : WeftPurpose) : skeinPart (untrack why s) r = skeinPart s r := by cases r <;> rfl

theorem entryReturn_unawaited (hf : (skeinOf s r).fetching = false) : entryReturn r ext s = s := by
  simp [entryReturn, hf]

section
variable (hf : (skeinOf s r).fetching = true)
include hf

section
variable (hr : bufRead (ownerUnit s r) (skeinPart s r) (skeinOf s r).ring.bufCtx.toNat
  ((skeinOf s r).ring.pa.toNat + 64 * (skeinOf s r).head) 64 ext (untrack (.skeinEntry r) s) = (u, .ok, bs))
include hr

theorem entryReturn_ok : entryReturn r ext s =
    if ((skeinOf u r).fetched ++ bs).length / 64 > fieldLE ((skeinOf u r).fetched ++ bs) 2 1 % 4 then
      fetchedCmd r ((skeinOf u r).fetched ++ bs) (putSkein r (entered bs (skeinOf u r)) u)
    else if ((skeinOf u r).head + 1) % 2 ^ (skeinOf u r).ring.log2 = (skeinOf u r).tail then
      putSkein r (entered bs (skeinOf u r)) u
    else startEntry r (putSkein r (entered bs (skeinOf u r)) u) := by
  simp only [entryReturn, hf, Bool.not_true, Bool.false_eq_true, if_false, ownerUnit_untrack,
    skeinPart_untrack, hr]
  rfl

end

theorem entryReturn_failed {st : Status} (hst : st ≠ .ok)
    (hr : bufRead (ownerUnit s r) (skeinPart s r) (skeinOf s r).ring.bufCtx.toNat
      ((skeinOf s r).ring.pa.toNat + 64 * (skeinOf s r).head) 64 ext (untrack (.skeinEntry r) s) = (u, st, bs)) :
    entryReturn r ext s = freezeCheck (skeinError r st (dropFetch r u)) := by
  simp only [entryReturn, hf, Bool.not_true, Bool.false_eq_true, if_false, ownerUnit_untrack,
    skeinPart_untrack, hr]

end

end

/-! ## What a dispatch changes besides its command (R115) -/

/-- Nothing but the processors' part of the state has changed. -/
def OnlyJcq (s t : State) : Prop := t = { s with jcq := t.jcq }

theorem OnlyJcq.trans {s t u : State} (h : OnlyJcq s t) (k : OnlyJcq t u) : OnlyJcq s u := by
  have e := congrArg (fun x : State => { x with jcq := u.jcq }) h
  exact Eq.trans k e

theorem putSkein_onlyJcq (r : SkeinRef) (k : Skein) (s : State) : OnlyJcq s (putSkein r k s) := by cases r <;> rfl

theorem useTurn_onlyJcq (r : SkeinRef) (s : State) : OnlyJcq s (useTurn r s) := by
  cases r with
  | admin p => rfl
  | ord g =>
    simp only [useTurn]
    split <;> rfl

section
variable {s t : State} (h : OnlyJcq s t)
include h

theorem OnlyJcq.targetUnit (c : Cmd) : targetUnit t c = targetUnit s c := by
  rw [h]
  rfl

theorem OnlyJcq.inReset (u : Nat) : inReset t u = inReset s u := by
  rw [h]
  rfl

theorem OnlyJcq.inService (u : Nat) : inService t u = inService s u := by
  rw [h]
  rfl

end

@[simp] theorem putSkein_dispatched (r : SkeinRef) (k : Skein) (s : State) :
    (putSkein r k s).jcq.dispatched = s.jcq.dispatched := by cases r <;> rfl

@[simp] theorem useTurn_dispatched (r : SkeinRef) (s : State) : (useTurn r s).jcq.dispatched = s.jcq.dispatched := by
  cases r with
  | admin p => rfl
  | ord g =>
    simp only [useTurn]
    split <;> rfl

@[simp] theorem wakeUnit_jcq (u : Nat) (s : State) : (wakeUnit u s).jcq = s.jcq := by
  unfold wakeUnit
  split
  · unfold wakeDomain
    dsimp only
    split <;> rfl
  · rfl

theorem skeinOf_of_jcq {s t : State} (h : t.jcq = s.jcq) (r : SkeinRef) : skeinOf t r = skeinOf s r := by
  cases r <;> simp only [skeinOf, skein, adminQ, h]

/-! ## Dispatch (R98, R115) -/

/-- A staged command whose unit takes it: its copy joins those kept, its staging slot is free, and one credit is spent. -/
theorem dispatch_to_unit {r : SkeinRef} {c : Cmd} {u : Nat} {s : State} (ht : targetUnit s c = some u)
    (hr : inReset s u = false) (hs : inService s u = true) :
    (dispatch r c s).jcq = { (putSkein r { skeinOf s r with staged := none } s).jcq with
      unitCredit := tmod 0 (putSkein r { skeinOf s r with staged := none } s).jcq.unitCredit u (· - 1)
      dispatched := s.jcq.dispatched ++ [{ cmd := keptCopy c, unit := u }] } := by
  have h := putSkein_onlyJcq r { skeinOf s r with staged := none } s
  simp only [dispatch, execUnit, h.targetUnit, ht, h.inReset, hr, h.inService, hs, Bool.not_true, Bool.false_eq_true,
    if_false, wakeUnit_jcq, Option.getD_some, putSkein_dispatched]

theorem dispatch_staged {r : SkeinRef} {c : Cmd} {u : Nat} {s : State} (ht : targetUnit s c = some u)
    (hr : inReset s u = false) (hs : inService s u = true) : (skeinOf (dispatch r c s) r).staged = none := by
  have h := skeinOf_putSkein r { skeinOf s r with staged := none } s
  cases r with
  | ord g => rw [skeinOf, skein, dispatch_to_unit ht hr hs]; exact congrArg (·.staged) h
  | admin p => rw [skeinOf, adminQ, dispatch_to_unit ht hr hs]; exact congrArg (·.staged) h

theorem tryDispatch_goes {r : SkeinRef} {c : Cmd} {s : State} (hc : (skeinOf s r).staged = some c)
    (hm : mayDispatch s (skeinOf s r) c = true) : tryDispatch r s = dispatch r c (useTurn r s) := by
  simp only [tryDispatch, hc, hm, if_true]

theorem creditGrant_serves {u n : Nat} {s : State} (hs : inService s u = true) : creditGrant u n s =
    (stagedFor { s with jcq := { s.jcq with unitCredit := tmod 0 s.jcq.unitCredit u (· + n) } } u).foldl
      (fun s r => tryDispatch r s) { s with jcq := { s.jcq with unitCredit := tmod 0 s.jcq.unitCredit u (· + n) } } := by
  simp only [creditGrant, hs, Bool.not_true, Bool.false_eq_true, if_false]

end Sys2Proof.Machine
end

section
/-! PROOFS. Completion entries that are written (R103, R112, R113), and vectors that are masked and unmasked (R332). -/

namespace Sys2Proof.Machine

/-! ## What follows a completion (R296, R402, R432, R476) -/

/-- Work is counted: counters, idle times, items and the launches' stops change. -/
def Tallies (s t : State) : Prop := t = { s with
  cnt := t.cnt
  hang := { s.hang with items := t.hang.items }
  pwr := t.pwr
  bob := { s.bob with stops := t.bob.stops } }

theorem Tallies.trans {s t u : State} (h : Tallies s t) (k : Tallies t u) : Tallies s u := by
  have e := congrArg (fun x : State => { x with
    cnt := u.cnt
    hang := { x.hang with items := u.hang.items }
    pwr := u.pwr
    bob := { x.bob with stops := u.bob.stops } }) h
  exact Eq.trans k e

theorem bump_tallies (u i n : Nat) (s : State) : Tallies s (bump u i n s) := by
  rw [bump_frame]
  rfl

theorem bumpPart_tallies (p i n : Nat) (s : State) : Tallies s (bumpPart p i n s) := rfl

theorem worked_tallies (u n : Nat) (s : State) : Tallies s (worked u n s) := rfl

@[simp] theorem bump_bob (u i n : Nat) (s : State) : (bump u i n s).bob = s.bob := by rw [bump_frame]

/-- No BOB_STOP waits for the launch. -/
theorem stopsDone_tallies {ref : CmdRef} {s : State} (h : ∀ x ∈ s.bob.stops, x.2 ≠ ref) : Tallies s (stopsDone ref s) := by
  have none : (s.bob.stops.filter fun x => x.2 == ref) = [] := by simpa using h
  simp only [stopsDone, none]
  rfl

theorem freezeCheck_none {s : State} (h : s.parts.freezes = []) : freezeCheck s = s := by
  rw [freezeCheck, h]
  rfl

theorem restartCheck_none {s : State} (h : s.fw.restart = none) : restartCheck s = s := by
  simp [restartCheck, h]

/-- The counters and the work of a completion (R476, R495, R503). -/
def tallied (d : Done) (u : Nat) (s : State) : State :=
  let ok := d.status == .ok
  let s := bumpPart d.ref.part (if ok then 0 else 1) 1 (bump u (if ok then 3 else 4) 1 s)
  let s := if d.replayed then bump u 5 1 s else s
  worked u 1 (if classOf d.unit = 0 ∧ d.unit ≠ u then bump u 7 1 s else s)

theorem tallied_tallies (d : Done) (u : Nat) (s : State) : Tallies s (tallied d u s) := by
  refine .trans ?_ (worked_tallies _ _ _)
  have first := (bump_tallies u (if d.status == .ok then 3 else 4) 1 s).trans
    (bumpPart_tallies d.ref.part (if d.status == .ok then 0 else 1) 1 _)
  split
  · refine .trans ?_ (bump_tallies _ _ _ _)
    split
    · exact first.trans (bump_tallies _ _ _ _)
    · exact first
  · split
    · exact first.trans (bump_tallies _ _ _ _)
    · exact first

theorem tallied_stops (d : Done) (u : Nat) (s : State) : (tallied d u s).bob.stops = s.bob.stops := by
  simp only [tallied, worked]
  split <;> split <;> simp [bumpPart]

/-- Where nothing waits for the completion, what follows it is counting. -/
theorem commandCompletion_tallies {i : Nat} {d : Done} {s : State} (hd : s.jcq.done[i]? = some d)
    (hfr : (completionAt i s).parts.freezes = []) (hiso : (completionAt i s).hang.iso = none)
    (hre : (completionAt i s).fw.restart = none) (hst : ∀ x ∈ (completionAt i s).bob.stops, x.2 ≠ d.ref) :
    Tallies (completionAt i s) (commandCompletion i s) := by
  have eq : commandCompletion i s = restartCheck (freezeCheck (isoCheck (stopsDone d.ref
      (tallied d (ownerUnit s d.ref.skein) (completionAt i s))))) := by
    simp only [commandCompletion, hd]
    rfl
  have t := (tallied_tallies d (ownerUnit s d.ref.skein) (completionAt i s)).trans
    (stopsDone_tallies (ref := d.ref) (by rw [tallied_stops]; exact hst))
  rw [eq, isoCheck_idle (by rw [t]; exact hiso), freezeCheck_none (by rw [t]; exact hfr),
    restartCheck_none (by rw [t]; exact hre)]
  exact t

/-! ## A completion is written (R103, R112, R113) -/

/-- The waiting list without its entry at a place. -/
def leaveList (i : Nat) (s : State) : State := { s with jcq := { s.jcq with done := s.jcq.done.eraseIdx i } }

section
variable {i : Nat} {d : Done} {s : State} (hd : s.jcq.done[i]? = some d) (hc : d.comm = none)
include hd hc

theorem completionAt_in_turn : completionAt i s = writeCompletion d (leaveList i s) := by
  simp [completionAt, hd, completionHeld, hc, leaveList]

end

theorem writeCompletion_silent {d : Done} {g : Nat} {s : State} (hr : d.ref.skein = .ord g) (hs : d.ref.silent = true)
    (hok : d.status = .ok) : writeCompletion d s = setSkein g (releaseSlot (skein s g)) s := by
  simp [writeCompletion, hs, hok, hr]
  rfl

/-- An entry that is written advances its queue, releases its slot and sends the vector of an armed queue. -/
theorem writeCompletion_written {d : Done} {g : Nat} {s u : State} (hr : d.ref.skein = .ord g)
    (hn : d.ref.silent = false ∨ d.status ≠ .ok) (hc : (skein s g).created = true)
    (hw : bufWrite (ownerUnit s (.ord g)) (itemOwner s 0 g) (skein s g).cq.ring.bufCtx.toNat
      ((skein s g).cq.ring.pa.toNat + 32 * (skein s g).cq.next) (completionBytes d (skein s g).cq.phase) s = (u, .ok)) :
    writeCompletion d s = setSkein g
      (releaseSlot { skein (fireArm (itemOwner s 0 g) (advance (skein s g).cq) u).2 g with
        cq := (fireArm (itemOwner s 0 g) (advance (skein s g).cq) u).1 })
      (fireArm (itemOwner s 0 g) (advance (skein s g).cq) u).2 := by
  have loud : (d.ref.silent && d.status == .ok) = false := by
    rcases hn with hn | hn <;> simp [hn]
  simp only [writeCompletion, hr, loud, skeinOf, skeinPart, hc, hw, Bool.not_true, Bool.false_eq_true, if_false]
  rfl

/-! ## What the end of the row leaves -/

theorem fireArm_queue (p : Nat) (q : OutQueue) (s : State) : (fireArm p q s).1 = { q with arm := false } := by
  unfold fireArm
  split
  · rfl
  · next h =>
    obtain ⟨ring, head, next, phase, arm, vector, reserved⟩ := q
    simpa using h

@[simp] theorem sendVector_spl (p v : Nat) (s : State) : (sendVector p v s).spl = s.spl := by
  unfold sendVector
  split
  · rfl
  · split
    · split <;> rfl
    · rfl

@[simp] theorem fireArm_spl (p : Nat) (q : OutQueue) (s : State) : (fireArm p q s).2.spl = s.spl := by
  unfold fireArm
  split
  · exact sendVector_spl _ _ _
  · rfl

/-- A skein whose next completion entry has been written: the queue has advanced and is not armed, and a slot is free again. -/
def completedSkein (k : Skein) : Skein := releaseSlot { k with cq := { advance k.cq with arm := false } }

theorem advance_next (q : OutQueue) : ((advance q).next, (advance q).phase) =
    if q.next + 1 = 2 ^ q.ring.log2 then (0, !q.phase) else (q.next + 1, q.phase) := by
  unfold advance
  split <;> rfl

theorem advance_reserved (q : OutQueue) : (advance q).reserved = q.reserved := by
  unfold advance
  split <;> rfl

section
variable {i : Nat} {d : Done} {s : State} (hd : s.jcq.done[i]? = some d) (hfr : s.parts.freezes = [])
  (hiso : s.hang.iso = none) (hre : s.fw.restart = none) (hst : ∀ x ∈ s.bob.stops, x.2 ≠ d.ref)
include hd hfr hiso hre hst

/-- A row whose completion reports nothing, and that nothing waits for, leaves the processors and memory as the completion did. -/
theorem ended_commandCompletion {w : State} (hat : completionAt i s = w) (hparts : w.parts = s.parts) (hhang : w.hang = s.hang)
    (hfw : w.fw = s.fw) (hbob : w.bob = s.bob) (htodo : w.saf.todo = []) :
    (ended s (commandCompletion i s)).jcq = w.jcq ∧ (ended s (commandCompletion i s)).spl = w.spl := by
  subst hat
  have tally : Tallies (completionAt i s) (commandCompletion i s) := commandCompletion_tallies hd
    (by rw [hparts, hfr]) (by rw [hhang, hiso]) (by rw [hfw, hre]) (by rw [hbob]; exact hst)
  obtain ⟨hspl, hjcq, -⟩ := ended_quiet s (commandCompletion i s) (by rw [tally]; exact htodo)
  exact ⟨hjcq.trans (congrArg (·.jcq) tally), hspl.trans (congrArg (·.spl) tally)⟩

variable {g : Nat} (hr : d.ref.skein = .ord g) (hc : d.comm = none) (hs : settled s)
include hr hc hs

theorem ended_silent (hsi : d.ref.silent = true) (hok : d.status = .ok) :
    (ended s (commandCompletion i s)).jcq = { s.jcq with
      done := s.jcq.done.eraseIdx i
      skein := tset {} s.jcq.skein g (releaseSlot (skein s g)) } ∧
      (ended s (commandCompletion i s)).spl = s.spl := by
  have hat : completionAt i s = setSkein g (releaseSlot (skein s g)) (leaveList i s) := by
    rw [completionAt_in_turn hd hc, writeCompletion_silent hr hsi hok]
    rfl
  exact ended_commandCompletion hd hfr hiso hre hst hat rfl rfl rfl rfl hs.1

theorem ended_written {u : State} (hn : d.ref.silent = false ∨ d.status ≠ .ok) (hcr : (skein s g).created = true)
    (hw : bufWrite (ownerUnit s (.ord g)) (itemOwner s 0 g) (skein s g).cq.ring.bufCtx.toNat
      ((skein s g).cq.ring.pa.toNat + 32 * (skein s g).cq.next) (completionBytes d (skein s g).cq.phase) (leaveList i s) =
      (u, .ok)) :
    (ended s (commandCompletion i s)).jcq = { s.jcq with
      done := s.jcq.done.eraseIdx i
      skein := tset {} s.jcq.skein g (completedSkein (skein s g)) } ∧
      (ended s (commandCompletion i s)).spl = u.spl := by
  have fired := fireArm_safJcq (itemOwner s 0 g) (advance (skein s g).cq) u
  have touched : Touches (leaveList i s) u := by
    have h := bufWrite_touches (ownerUnit s (.ord g)) (itemOwner s 0 g) (skein s g).cq.ring.bufCtx.toNat
      ((skein s g).cq.ring.pa.toNat + 32 * (skein s g).cq.next) (completionBytes d (skein s g).cq.phase) (leaveList i s)
    rwa [hw] at h
  obtain ⟨hjcq, -, htodo⟩ := bufWrite_reports (ownerUnit s (.ord g)) (itemOwner s 0 g) (skein s g).cq.ring.bufCtx.toNat
    ((skein s g).cq.ring.pa.toNat + 32 * (skein s g).cq.next) (completionBytes d (skein s g).cq.phase) (leaveList i s)
  rw [hw] at hjcq htodo
  have rung := touched.trans (fireArm_touches (itemOwner s 0 g) (advance (skein s g).cq) u)
  have jcq : (fireArm (itemOwner s 0 g) (advance (skein s g).cq) u).2.jcq = (leaveList i s).jcq := fired.2.trans hjcq
  have same : skein (fireArm (itemOwner s 0 g) (advance (skein s g).cq) u).2 g = skein s g := by
    rw [skein, jcq]
    rfl
  have hat : completionAt i s = setSkein g (completedSkein (skein s g))
      (fireArm (itemOwner s 0 g) (advance (skein s g).cq) u).2 := by
    rw [completionAt_in_turn hd hc]
    refine (writeCompletion_written (s := leaveList i s) hr hn hcr hw).trans ?_
    rw [show itemOwner (leaveList i s) 0 g = itemOwner s 0 g from rfl, show skein (leaveList i s) g = skein s g from rfl,
      same, fireArm_queue]
    rfl
  obtain ⟨hj, hspl⟩ := ended_commandCompletion hd hfr hiso hre hst hat rung.parts rung.hang rung.fw rung.bob
    ((congrArg (·.todo) fired.1).trans ((htodo rfl).trans hs.1))
  refine ⟨hj.trans ?_, hspl.trans (fireArm_spl _ _ _)⟩
  rw [setSkein_jcq, jcq]
  rfl

end

/-! ## Masks of vectors (R332) -/

section
variable {p v : Nat} {s : State}

theorem writeVectorMask_mask (hv : v < vectorTable s p) : writeVectorMask p v true s =
    { s with lnk := { s.lnk with msixOpen := tset false s.lnk.msixOpen (p * 2048 + v) false } } := by
  simp [writeVectorMask, Nat.not_le.mpr hv]

/-- A vector that is open, at a port that is up, is sent. -/
theorem sendVector_open (hv : v < vectorTable s p) (ho : tget false s.lnk.msixOpen (p * 2048 + v) = true)
    (hu : portUsable s (homePort s p) = true) : sendVector p v s =
    emit (.msix (homePort s p) p v (tget 0 s.lnk.msixAddr (p * 2048 + v)).toNat (tget 0 s.lnk.msixData (p * 2048 + v)).toNat)
      s := by
  simp [sendVector, Nat.not_le.mpr hv, ho, hu]

/-- A vector that is unmasked while its pending bit is set, before its message is sent. -/
def unmasked (p v : Nat) (s : State) : State :=
  { s with lnk := { s.lnk with msixOpen := tset false s.lnk.msixOpen (p * 2048 + v) true
                               pba := tset false s.lnk.pba (p * 2048 + v) false } }

theorem writeVectorMask_pending (hv : v < vectorTable s p) (hp : tget false s.lnk.pba (p * 2048 + v) = true) :
    writeVectorMask p v false s = sendVector p v (unmasked p v s) := by
  simp [writeVectorMask, Nat.not_le.mpr hv, hp, unmasked]

end

/-- Settles O23: entries and credits by the equations of their rows; of a completion what its row leaves of the processors and of
memory. -/
theorem entriesCreditsAndCompletions : Obligations.EntriesCreditsAndCompletions := by
  refine ⟨?entry, ?failed, ?unawaited, ?credit, ?dispatch, ?written, ?silent, ?unmask, ?mask⟩
  case entry =>
    rintro r ext s u bs _ _ hf hr rfl rfl
    refine ⟨fun hle => ?_, fun hlt => ?_⟩
    · rw [exec, execSkeinEntryReturn, entryReturn_ok hf hr, if_neg (Nat.not_lt.mpr hle), ends]
      split <;> rfl
    · rw [exec, execSkeinEntryReturn, entryReturn_ok hf hr, if_pos hlt, ends]
      rfl
  case failed =>
    intro r ext s u bs st hf hst hr
    rw [exec, execSkeinEntryReturn, entryReturn_failed hf hst hr, ends]
  case unawaited =>
    intro r ext s hs hf
    rw [exec, execSkeinEntryReturn, entryReturn_unawaited hf]
    exact ends_undisturbed hs (.refl s)
  case credit =>
    rintro u n s _ hs rfl
    rw [exec, execEngineCreditGrant, creditGrant_serves hs, ends]
  case dispatch =>
    intro r c u s hc hm ht hr hs
    have turn := useTurn_onlyJcq r s
    have ht' := (turn.targetUnit c).trans ht
    have hr' := (turn.inReset u).trans hr
    have hs' := (turn.inService u).trans hs
    rw [tryDispatch_goes hc hm]
    refine ⟨?_, dispatch_staged ht' hr' hs'⟩
    rw [dispatch_to_unit ht' hr' hs', useTurn_dispatched]
  case written =>
    intro i s u d g hs hd hr hc hfr hiso hre hst hcr hn hw
    obtain ⟨hj, hspl⟩ := ended_written hd hfr hiso hre hst hr hc hs hn hcr hw
    have hk : skein (ended s (commandCompletion i s)) g = completedSkein (skein s g) := by
      rw [skein, hj]
      exact tget_tset_same _ _ _ _
    refine ⟨_, rfl, by rw [hj], hspl, by rw [hj], by rw [hj], by rw [hk]; rfl, ?_, ?_, by rw [hk]; rfl⟩
    · rw [hk]
      exact congrArg (· - 1) (advance_reserved _)
    · rw [hk]
      exact advance_next _
  case silent =>
    intro i s d g hs hd hr hc hfr hiso hre hst hsi hok
    obtain ⟨hj, hspl⟩ := ended_silent hd hfr hiso hre hst hr hc hs hsi hok
    refine ⟨_, rfl, by rw [hj], hspl, ?_⟩
    rw [skein, hj]
    exact tget_tset_same _ _ _ _
  case unmask =>
    intro p v s hs hv hp hu
    have opened : tget false (unmasked p v s).lnk.msixOpen (p * 2048 + v) = true := by
      simp [unmasked]
    rw [exec, execMsixUnmask, writeVectorMask_pending hv hp, sendVector_open (s := unmasked p v s) hv opened hu]
    exact ends_undisturbed hs ⟨rfl, rfl, rfl, rfl, rfl, rfl⟩
  case mask =>
    intro p v s hs hv
    rw [exec, execMsixUnmask, writeVectorMask_mask hv]
    exact ends_undisturbed hs ⟨rfl, rfl, rfl, rfl, rfl, rfl⟩

end Sys2Proof.Machine
end

section
/-! PROOFS. The checks of R102, the completion entry (R103), and one outcome for each command (R105). -/

namespace Sys2Proof.Machine

/-! ## Packets that fail a check (R102, R105) -/

/-- A row completes a packet that fails a check of R102 unchanged, and does nothing for a command that no processor has dispatched,
or that has started. -/
def ChecksItsPacket (row : Cmd → Instr) (d : OpDesc) : Prop :=
  ∀ (c : Cmd) (s : State), settled s → (startable s c = false → exec (row c) s = .next s) ∧
    ∀ st, startable s c = true → issueCheck d c = some st → exec (row c) s = .next (complete c st [] (procUnit s c) s)

section
variable {row : Cmd → Instr} {d : OpDesc} {fails : Cmd → State → List (Bool × Status)} {run : Cmd → State → State → State}

theorem runCmd_checks (h : ∀ c s, exec (row c) s = runCmd d c (fails c s) s (run c s)) : ChecksItsPacket row d := by
  intro c s hs
  rw [h]
  refine ⟨fun hst => ?_, fun st hst hc => ?_⟩
  · rw [runCmd_idle _ _ _ _ _ hst]
    exact ends_undisturbed hs (.refl s)
  · rw [runCmd_packet _ _ _ _ _ _ hst hc]
    exact ends_undisturbed hs (complete_undisturbed _ _ _ _ _)

theorem runOrdered_idle {c : Cmd} {s : State} (hs : settled s) (busy : Bool) (fails : List (Bool × Status))
    (run : State → State) (hst : startable s c = false) : runOrdered d c busy fails s run = .next s := by
  have idle : runOrdered d c busy fails s run = ends s s := by simp [runOrdered, orderCmd, takeCmd, hst]
  rw [idle]
  exact ends_undisturbed hs (.refl s)

/-- The checks of the packet come before the order of R120. -/
theorem runOrdered_checks {busy : Cmd → State → Bool} {fails : Cmd → State → List (Bool × Status)}
    {run : Cmd → State → State → State}
    (h : ∀ c s, exec (row c) s = runOrdered d c (busy c s) (fails c s) s (run c s)) : ChecksItsPacket row d := by
  intro c s hs
  rw [h]
  exact ⟨runOrdered_idle hs _ _ _, fun st hst hc => runOrdered_packet _ _ _ hs hst hc⟩

end

/-! ## Fields of a byte string (R3) -/

theorem fieldLE_leBytes (n v : Nat) (r : List Byte) : fieldLE (leBytes n v ++ r) 0 n = v % 256 ^ n := by
  rw [fieldLE, List.drop_zero, List.take_append_of_le_length (by simp), List.take_of_length_le (by simp), leNat_leBytes]

theorem fieldLE_leBytes_last (n v : Nat) : fieldLE (leBytes n v) 0 n = v % 256 ^ n := by
  simpa using fieldLE_leBytes n v []

/-- A field past the first bytes lies in the rest. -/
theorem fieldLE_skip {m off : Nat} (h : m ≤ off) (v n : Nat) (r : List Byte) :
    fieldLE (leBytes m v ++ r) off n = fieldLE r (off - m) n := by
  rw [fieldLE, fieldLE, List.drop_append, List.drop_of_length_le (by simpa using h), leBytes_length, List.nil_append]

theorem statusCode_lt (st : Status) : statusCode st < 256 := by cases st <;> decide

/-! ## The completion entry (R103) -/

theorem completionBytes_eq (d : Done) (phase : Bool) : completionBytes d phase =
    leBytes 1 (statusCode d.status) ++ (leBytes 1 (b2n d.replayed) ++ (leBytes 2 d.ref.sqHead ++ (leBytes 4 d.ref.tag ++
    (leBytes 4 ((d.result[0]?).getD 0) ++ (leBytes 4 ((d.result[1]?).getD 0) ++ (leBytes 4 ((d.result[2]?).getD 0) ++
    (leBytes 4 ((d.result[3]?).getD 0) ++ (leBytes 2 d.unit ++ (leBytes 2 d.ref.opcode ++
    leBytes 4 (2 ^ 31 * b2n phase)))))))))) := by
  simp only [completionBytes, List.append_assoc]

theorem completionBytes_length (d : Done) (phase : Bool) : (completionBytes d phase).length = 32 := by
  simp [completionBytes]

section
variable (d : Done) (phase : Bool)

theorem completion_status : fieldLE (completionBytes d phase) 0 1 = statusCode d.status := by
  rw [completionBytes_eq, fieldLE_leBytes]
  exact Nat.mod_eq_of_lt (statusCode_lt d.status)

theorem completion_replayed : fieldLE (completionBytes d phase) 1 1 = if d.replayed then 1 else 0 := by
  rw [completionBytes_eq, fieldLE_skip (by decide), fieldLE_leBytes]
  cases d.replayed <;> rfl

theorem completion_sqHead : fieldLE (completionBytes d phase) 2 2 = d.ref.sqHead % 2 ^ 16 := by
  simp [completionBytes_eq, fieldLE_skip, fieldLE_leBytes]

theorem completion_tag : fieldLE (completionBytes d phase) 4 4 = d.ref.tag % 2 ^ 32 := by
  simp [completionBytes_eq, fieldLE_skip, fieldLE_leBytes]

/-- A result word that the opcode does not define is 0. -/
theorem completion_result {k : Nat} (hk : k < 4) :
    fieldLE (completionBytes d phase) (8 + 4 * k) 4 = (d.result[k]?).getD 0 % 2 ^ 32 := by
  have hk' : k = 0 ∨ k = 1 ∨ k = 2 ∨ k = 3 := by omega
  rcases hk' with rfl | rfl | rfl | rfl
  all_goals simp [completionBytes_eq, fieldLE_skip, fieldLE_leBytes]

theorem completion_unit : fieldLE (completionBytes d phase) 24 2 = d.unit % 2 ^ 16 := by
  simp [completionBytes_eq, fieldLE_skip, fieldLE_leBytes]

theorem completion_opcode : fieldLE (completionBytes d phase) 26 2 = d.ref.opcode % 2 ^ 16 := by
  simp [completionBytes_eq, fieldLE_skip, fieldLE_leBytes]

theorem completion_phase : fieldLE (completionBytes d phase) 28 4 = if phase then 2 ^ 31 else 0 := by
  have last : fieldLE (completionBytes d phase) 28 4 = 2 ^ 31 * b2n phase % 256 ^ 4 := by
    simp [completionBytes_eq, fieldLE_skip, fieldLE_leBytes_last]
  rw [last]
  cases phase <;> rfl

end

/-- Settles O24: each row runs its command behind the checks of R102, with or without the order of R120; a completion's fields
follow one another. -/
theorem completionEntryFields : Obligations.CompletionEntryFields := by
  refine ⟨?rows, fun r st res unit s => ⟨fun l hl => ?live, fun hdead => ?dead⟩, fun d phase => ?fields⟩
  case rows =>
    simp only [List.forall_mem_cons, List.not_mem_nil, false_imp_iff, implies_true, and_true]
    exact
      ⟨runOrdered_checks fun _ _ => rfl, runCmd_checks fun _ _ => rfl, runOrdered_checks fun _ _ => rfl,
       runOrdered_checks fun _ _ => rfl, runOrdered_checks fun _ _ => rfl, runOrdered_checks fun _ _ => rfl,
       runOrdered_checks fun _ _ => rfl, runOrdered_checks fun _ _ => rfl, runOrdered_checks fun _ _ => rfl,
       runOrdered_checks fun _ _ => rfl, runCmd_checks fun _ _ => rfl, runCmd_checks fun _ _ => rfl,
       runCmd_checks fun _ _ => rfl, runCmd_checks fun _ _ => rfl, runCmd_checks fun _ _ => rfl,
       runCmd_checks fun _ _ => rfl, runCmd_checks fun _ _ => rfl, runCmd_checks fun _ _ => rfl,
       runCmd_checks fun _ _ => rfl, runCmd_checks fun _ _ => rfl, runCmd_checks fun _ _ => rfl,
       runOrdered_checks fun _ _ => rfl, runOrdered_checks fun _ _ => rfl, runOrdered_checks fun _ _ => rfl,
       runOrdered_checks fun _ _ => rfl, runCmd_checks fun _ _ => rfl, runCmd_checks fun _ _ => rfl,
       runCmd_checks fun _ _ => rfl, runCmd_checks fun _ _ => rfl, runCmd_checks fun _ _ => rfl,
       runCmd_checks fun _ _ => rfl, runCmd_checks fun _ _ => rfl, runCmd_checks fun _ _ => rfl,
       runCmd_checks fun _ _ => rfl, runCmd_checks fun _ _ => rfl, runCmd_checks fun _ _ => rfl,
       runCmd_checks fun _ _ => rfl, runCmd_checks fun _ _ => rfl, runCmd_checks fun _ _ => rfl,
       runOrdered_checks fun _ _ => rfl, runCmd_checks fun _ _ => rfl, runCmd_checks fun _ _ => rfl,
       runCmd_checks fun _ _ => rfl, runCmd_checks fun _ _ => rfl, runCmd_checks fun _ _ => rfl,
       runCmd_checks fun _ _ => rfl, runCmd_checks fun _ _ => rfl, runCmd_checks fun _ _ => rfl,
       runCmd_checks fun _ _ => rfl, runCmd_checks fun _ _ => rfl, runCmd_checks fun _ _ => rfl,
       runCmd_checks fun _ _ => rfl, runCmd_checks fun _ _ => rfl, runCmd_checks fun _ _ => rfl,
       runCmd_checks fun _ _ => rfl, runCmd_checks fun _ _ => rfl, runOrdered_checks fun _ _ => rfl,
       runCmd_checks fun _ _ => rfl, runCmd_checks fun _ _ => rfl, runCmd_checks fun _ _ => rfl,
       runCmd_checks fun _ _ => rfl, runCmd_checks fun _ _ => rfl⟩
  case live => exact completeRef_live r st res unit s l hl
  case dead => exact completeRef_dead r st res unit s (by simpa using hdead)
  case fields =>
    exact ⟨completionBytes_length d phase, completion_status d phase, completion_replayed d phase, completion_sqHead d phase,
      completion_tag d phase, fun k hk => completion_result d phase hk, completion_unit d phase, completion_opcode d phase,
      completion_phase d phase⟩

end Sys2Proof.Machine
end

section
/-! PROOFS. The register rows of the device (R117, R417, R436, R443, R444, R465, R485, R490, R498). -/

namespace Sys2Proof.Machine

/-! ## Where a register stands -/

section
variable {base stride n i o off b : Nat}

theorem elem_at (hi : i < n) (ho : o < stride) : elem (base + stride * i + o) base stride n = some (i, o) := by
  have hle : stride * (i + 1) ≤ stride * n := Nat.mul_le_mul_left stride hi
  have hsub : base + stride * i + o - base = o + stride * i := by omega
  rw [Nat.mul_succ] at hle
  rw [elem, if_pos ⟨by omega, by omega⟩, hsub, Nat.add_mul_div_left _ _ (by omega), Nat.add_mul_mod_self_left,
    Nat.div_eq_of_lt ho, Nat.mod_eq_of_lt ho, Nat.zero_add]

theorem elem_first (hi : i < n) (hs : 0 < stride) : elem (base + stride * i) base stride n = some (i, 0) :=
  elem_at (o := 0) hi hs

theorem elem_below (h : off < base) : elem off base stride n = none := if_neg (by omega)

theorem elem_above (h : base + stride * n ≤ off) : elem off base stride n = none := if_neg (by omega)

theorem conflictReg_below (unit : Nat) (h : off < 0xFFF00) : conflictReg unit b off = none := by
  unfold conflictReg
  split
  case h_3 => rfl
  all_goals omega

/-- A register of a block stands in the block's window. -/
theorem regAt_block {r : Reg} (hb : b < 13) (hoff : off < 0xFFF00) (h : blockRegs b off = some r) :
    regAt (2 ^ 20 * b + off) = some r := by
  have hblock : blockOf (2 ^ 20 * b + off) = b := by simp only [blockOf]; omega
  have hrest : (2 ^ 20 * b + off) % 2 ^ 20 = off := by omega
  simp only [regAt, hblock, hrest, conflictReg_below _ hoff, h, blocks]
  exact if_neg (by omega)

end

theorem frmSingle_mailboxes {off : Nat} (hl : 0x2000 ≤ off) (hr : off < 0x2800) : frmSingle off = none := by
  unfold frmSingle
  split
  case h_16 => rfl
  all_goals omega

/-- The words of the mailboxes (R442). -/
theorem regAt_mailbox {m w : Nat} (hm : m < 32) (hw : w < 16) : regAt (0x2000 + 0x40 * m + 4 * w) = some (mboxReg m w) := by
  refine (congrArg regAt (by omega)).trans
    (regAt_block (b := 0) (off := 0x2000 + 0x40 * m + 4 * w) (by omega) (by omega) ?_)
  have hword : 4 * w % 4 = 0 ∧ 4 * w / 4 = w := by omega
  simp only [blockRegs, frmReg, frmSingle_mailboxes (off := 0x2000 + 0x40 * m + 4 * w) (by omega) (by omega)]
  rw [elem_above (by omega), elem_above (by omega), elem_above (by omega), elem_above (by omega), elem_at hm (by omega)]
  simp only [hword, if_true]

/-- `JCQ.ADMIN[p]` (R117). -/
theorem regAt_admin {p o : Nat} (hp : p < 64) (ho : o ∈ [0x00, 0x08, 0x10, 0x18, 0x1C, 0x20]) :
    regAt (0x120000 + 0x100 * p + o) = some
      { unit := jacquard (p % 32), wide := decide (o < 0x18), acts := if o = 0x1C then 16 else 0
        val := fun s => adminRead s p o, wr := fun _ v s => adminWrite p o v s } := by
  have hlt : o < 0x40 := by
    simp only [List.mem_cons, List.not_mem_nil, or_false] at ho
    omega
  refine (congrArg regAt (by omega)).trans
    (regAt_block (b := 1) (off := 0x20000 + 0x100 * p + o) (by omega) (by omega) ?_)
  simp only [blockRegs]
  unfold jcqReg
  split
  case h_5 =>
    rw [elem_at hp (by omega)]
    simp only [hlt, if_true, adminReg, if_pos ho]
  all_goals omega

/-- `SAF.UNIT[u]` (R465). -/
theorem regAt_safUnit {u : Nat} (hu : u < 65536) : regAt (0xA40000 + 4 * u) =
    some (st selvedge 0xFFFF0004 (fun s => safUnitWord (safUnit s u)) (writeSafUnit u)) := by
  refine (congrArg regAt (by omega)).trans (regAt_block (b := 10) (off := 0x40000 + 4 * u) (by omega) (by omega) ?_)
  simp only [blockRegs]
  unfold safReg
  split
  case h_9 =>
    rw [elem_above (by omega), elem_first hu (by omega)]
    rfl
  all_goals omega

theorem domainReg_policy (x : Nat) : ∃ r, domainReg x 0 = some r ∧ r.unit = domainUnit x ∧ r.wide = false ∧
    r.wr = fun _ => writePolicy x := ⟨_, rfl, rfl, rfl, rfl⟩

/-- `PWR.DOMAIN[x]` (R417). -/
theorem regAt_domain {x : Nat} (hx : x < 80) : ∃ r, regAt (0xC10000 + 16 * x) = some r ∧ r.unit = domainUnit x ∧
    r.wide = false ∧ r.wr = fun _ => writePolicy x := by
  obtain ⟨r, hr, hfields⟩ := domainReg_policy x
  refine ⟨r, (congrArg regAt (by omega)).trans
    (regAt_block (b := 12) (off := 0x10000 + 0x10 * x) (by omega) (by omega) ?_), hfields⟩
  simp only [blockRegs, pwrReg, elem_first (base := 0x10000) hx (by omega : 0 < 0x10), hr]

/-! ## Accesses of a row, from a requester that is no virtual function -/

section
variable {who : Requester} {addr v unit : Nat} {r : Reg} {s u : State}

theorem windowOpen_of_ready (h : s.fw.ready = true) (who : Requester) (addr : Nat) : windowOpen s who addr = true := by
  simp [windowOpen, h]

theorem windowOpen_of_safeMode (h : s.fw.safeMode = true) (hb : blockOf addr = 0) : windowOpen s who addr = true := by
  simp [windowOpen, h, hb]

/-! ### What a write leaves besides its effect -/

theorem noteConflict_undisturbed (unit addr : Nat) (cause : Bool) (who : Requester) (v : Nat) (s : State) :
    Undisturbed s (noteConflict unit addr cause who v s) := by
  rw [noteConflict_eq]
  exact ⟨rfl, rfl, rfl, rfl, rfl, rfl⟩

/-- A write that is admitted is remembered with the registers, and nothing else of the state changes (R125). -/
theorem written_only_regs (unit addr : Nat) (who : Requester) (v : Nat) (s : State) :
    { written unit addr who v s with regs := s.regs } = s := by
  simp only [written, admitWrite, noteConflict_eq]
  split
  · split <;> rfl
  · rfl

theorem written_pwr (unit addr : Nat) (who : Requester) (v : Nat) (s : State) : (written unit addr who v s).pwr = s.pwr :=
  congrArg (·.pwr) (written_only_regs unit addr who v s)

theorem written_undisturbed (unit addr : Nat) (who : Requester) (v : Nat) (s : State) :
    Undisturbed s (written unit addr who v s) := by
  have h := written_only_regs unit addr who v s
  exact ⟨congrArg (·.saf) h, congrArg (·.pins) h, congrArg (·.fw) h, congrArg (·.hang) h, congrArg (·.pending) h,
    congrArg (·.time) h⟩

section
variable (hcls : who.cls ≠ 1)
include hcls

theorem absentFunction_of_cls (s : State) : absentFunction s who = false := by simp [absentFunction, hcls]

theorem mayWrite_of_cls (addr : Nat) : mayWrite who addr = true := by simp [mayWrite, hcls]

theorem mayRead_of_cls (addr : Nat) : mayRead who addr = true := by simp [mayRead, hcls]

variable {mine : Bool} (hmine : mine = true) (hr : regAt addr = some r)
include hmine hr

section
variable (hopen : windowOpen s who addr = true) (hv : v < 2 ^ 32)
include hopen hv

theorem rowAccess_write (hw : r.wide = false) (ha : addr % 4 = 0) :
    rowAccess mine (writeAt who addr 4 v) s = ends s (writeWhole r addr who v s) := by
  have hrow := regWrite_whole (v := v) hopen (absentFunction_of_cls hcls s) ha hr hw (mayWrite_of_cls hcls addr)
  rw [Nat.mod_eq_of_lt hv] at hrow
  rw [hmine, ← hrow, ← regAccess_writeAt]
  rfl

theorem rowAccess_write_wide (hw : r.wide = true) (ha : addr % 8 = 0) :
    rowAccess mine (writeAt who addr 8 v) s = ends s (writeWhole r addr who v s) := by
  have hrow := regWrite_wide (v := v) hopen (absentFunction_of_cls hcls s) ha hr hw (mayWrite_of_cls hcls addr)
  rw [Nat.mod_eq_of_lt (by omega : v < 2 ^ 64)] at hrow
  rw [hmine, ← hrow, ← regAccess_writeAt]
  rfl

end

theorem rowAccess_read (hopen : windowOpen s who addr = true) (hw : r.wide = false) (ha : addr % 4 = 0) :
    rowAccess mine (readAt who addr 4) s = ends s (answerRead who (r.onRead who s, r.val s % 2 ^ 32)) := by
  rw [hmine, ← regRead_whole hopen (absentFunction_of_cls hcls s) ha hr hw (mayRead_of_cls hcls addr), ← regAccess_readAt]
  rfl

end

theorem ends_refused (hs : settled s) (h : r.wr who v s = none) :
    ends s (writeWhole r addr who v s) = .next (noteConflict r.unit addr true who v s) := by
  rw [writeWhole_refused h]
  exact ends_undisturbed hs (noteConflict_undisturbed _ _ _ _ _ _)

theorem ends_admitted (h : r.wr who v s = some u) :
    ends s (writeWhole r addr who v s) = .next (ended s (written r.unit addr who v u)) := by
  rw [writeWhole_admitted h, ends]

theorem ended_written_of_undisturbed (hs : settled s) (h : Undisturbed s u) :
    ended s (written unit addr who v u) = written unit addr who v u :=
  Host.Outcome.next.inj (ends_undisturbed hs (h.trans (written_undisturbed _ _ _ _ _)))

end

/-! ## Power domains (R417) -/

section
variable {x v : Nat} {s t : State}

/-- A domain keeps its policy and idle time. -/
def SamePolicy (x : Nat) (s t : State) : Prop :=
  (domain t x).policy = (domain s x).policy ∧ (domain t x).idleUs = (domain s x).idleUs

theorem SamePolicy.of_domain (h : t.pwr.domain = s.pwr.domain) : SamePolicy x s t := by
  simp only [SamePolicy, domain, h, and_self]

theorem SamePolicy.trans {u : State} (h : SamePolicy x s t) (k : SamePolicy x t u) : SamePolicy x s u :=
  ⟨k.1.trans h.1, k.2.trans h.2⟩

theorem wakeDomain_undisturbed (x : Nat) (s : State) : Undisturbed s (wakeDomain x s) := by
  simp only [wakeDomain]
  split <;> exact ⟨rfl, rfl, rfl, rfl, rfl, rfl⟩

theorem wakeDomain_samePolicy (x : Nat) (s : State) : SamePolicy x s (wakeDomain x s) := by
  simp only [wakeDomain]
  split <;> simp [SamePolicy]

theorem pwrSetDone_domain (r : CmdRef) (s : State) : (pwrSetDone r s).pwr.domain = s.pwr.domain := by
  rw [pwrSetDone]
  refine (foldl_related (R := fun s t : State => t.pwr.domain = s.pwr.domain)
    (f := fun s p => report (.event p 0x09 .ok treadle 0 (powerInfo s)) s) (fun _ => rfl) (fun h k => k.trans h)
    (fun _ _ => rfl) _ _).trans ?_
  rw [completeRef_frame]

theorem releaseTokens_domain (u : Nat) (s : State) : (releaseTokens u s).pwr.domain = s.pwr.domain := by
  simp only [releaseTokens, checkPwrSet]
  split
  · split
    · exact pwrSetDone_domain _ _
    · rfl
  · rfl

theorem leaveOn_samePolicy (x : Nat) (off : Bool) (s : State) : SamePolicy x s (leaveOn x off s) := by
  refine .trans ?_ (.of_domain (foldl_related (R := fun s t : State => t.pwr.domain = s.pwr.domain) (fun _ => rfl)
    (fun h k => k.trans h) (fun s u => releaseTokens_domain u s) _ _))
  simp [SamePolicy, domain]

theorem portOff_samePolicy (k : Nat) (s : State) : SamePolicy (64 + k) s (portOff k s) := by
  simp only [portOff]
  split
  · exact leaveOn_samePolicy _ _ _
  · exact .of_domain rfl

/-- A domain with the policy and idle time of a written word. -/
def withPolicy (x v : Nat) (s : State) : State :=
  setDomain x { domain s x with policy := BitVec.ofNat 2 (bits v 4 2), idleUs := BitVec.ofNat 8 (bits v 8 8) } s

theorem writePolicy_refused (h : bits v 4 2 = 3 ∨ bits v 8 8 = 0) : writePolicy x v s = none := by
  simp only [writePolicy, if_pos h]

section
variable (hpol : bits v 4 2 ≠ 3) (hidle : bits v 8 8 ≠ 0)
include hpol hidle

theorem writePolicy_wakes (h : bits v 4 2 = 0) : writePolicy x v s = some (wakeDomain x (withPolicy x v s)) := by
  simp only [writePolicy, withPolicy, hpol, hidle, or_self, if_false, if_pos h]

theorem writePolicy_stores (h : bits v 4 2 ≠ 0) (hx : x < 64 ∨ 72 ≤ x) : writePolicy x v s = some (withPolicy x v s) := by
  simp only [writePolicy, withPolicy, hpol, hidle, or_self, if_false, h, if_neg (by omega : ¬ (64 ≤ x ∧ x < 72))]

theorem writePolicy_port (h : bits v 4 2 ≠ 0) (hx : 64 ≤ x ∧ x < 72) :
    writePolicy x v s = some (portOff (x - 64) (withPolicy x v s)) := by
  simp only [writePolicy, withPolicy, hpol, hidle, or_self, if_false, h, if_pos hx]

theorem writePolicy_takes (x : Nat) (s : State) :
    ∃ u, writePolicy x v s = some u ∧ SamePolicy x (withPolicy x v s) u := by
  by_cases h : bits v 4 2 = 0
  · exact ⟨_, writePolicy_wakes hpol hidle h, wakeDomain_samePolicy _ _⟩
  · by_cases hx : 64 ≤ x ∧ x < 72
    · refine ⟨_, writePolicy_port hpol hidle h hx, ?_⟩
      have hk := portOff_samePolicy (x - 64) (withPolicy x v s)
      rwa [show 64 + (x - 64) = x by omega] at hk
    · exact ⟨_, writePolicy_stores hpol hidle h (by omega), .of_domain rfl⟩

end

end

/-! ## Mailboxes (R443, R444) -/

section
variable {who : Requester} {m v : Nat} {s : State}

theorem mailWrite_go (hmay : maySend (mbox s m) who = true) (hfull : (mbox s m).full = false) (hgo : bit v 0 = true) :
    mailWrite who m 15 v s = some (mailGo who m s) := by
  simp [mailWrite, hmay, hfull, hgo]

theorem senderRead_by_firmware (hown : (mbox s m).ownerPartition = false) (hcls : who.cls = 3) :
    senderRead who m s = setMbox m { mbox s m with full := false } s := by
  simp [senderRead, hown, hcls]

theorem answerRead_setMbox_ended (hs : settled s) (x : Mailbox) (w : Nat) :
    ended s (answerRead who (setMbox m x s, w)) = answerRead who (setMbox m x s, w) :=
  ended_settled s _ hs hs.1 rfl rfl rfl rfl rfl rfl

end

/-! ## `SAF.UNIT` (R465) -/

section
variable {u v : Nat} {s : State}

theorem writeSafUnit_valid (h : validUnit u = true) (v : Nat) (s : State) : writeSafUnit u v s = { s with saf := { s.saf with
    unit := tmod {} s.saf.unit u fun x => { x with
      testLate := keepBit x.testLate v 2
      lost := x.lost &&& ~~~ BitVec.ofNat 16 (bits v 16 16) } } } := by
  simp [writeSafUnit, h]

end

/-! ## `FRM.RESET_CTL` (R485, R490) -/

section
variable {cls v : Nat} {s : State}

theorem afterDump_package (u : Nat) (replay : Bool) (s : State) : afterDump (some (u, 3, replay)) s = requestPkgReset s := rfl

theorem afterDump_passes {u level : Nat} (replay : Bool) (hl : level ≠ 3) (h : firstFail (resetFails s u level) = none) :
    afterDump (some (u, level, replay)) s = applyReset { unit := u, level := level, replay := replay, at_ := 0 } s := by
  simp only [afterDump, if_neg hl, h]

theorem afterDump_fails {u level : Nat} (replay : Bool) (hl : level ≠ 3) (h : firstFail (resetFails s u level) ≠ none) :
    afterDump (some (u, level, replay)) s = s := by
  obtain ⟨st, hst⟩ := Option.ne_none_iff_exists'.mp h
  simp only [afterDump, if_neg hl, hst]

theorem resetCtl_denied (hl : bits v 16 2 = 3) (hc : cls ∉ [0, 4, 5]) : resetCtl cls v s = none := by
  simp only [resetCtl, if_pos (And.intro hl hc)]

theorem resetCtl_takes (h : bits v 16 2 ≠ 3 ∨ cls ∈ [0, 4, 5]) (hd : bit v 19 = false) :
    resetCtl cls v s = some (afterDump (some (bits v 0 16, bits v 16 2, bit v 18)) s) := by
  simp only [resetCtl, if_neg (fun k : bits v 16 2 = 3 ∧ cls ∉ [0, 4, 5] => h.elim (· k.1) k.2), hd, Bool.false_eq_true,
    false_and, if_false]

theorem resetCtl_dumps (h : bits v 16 2 ≠ 3 ∨ cls ∈ [0, 4, 5]) (hd : bit v 19 = true) (hnone : s.hang.dump = none)
    (hmay : dumpAllowed s false = true) :
    resetCtl cls v s = some (startDump 1 none (some (bits v 0 16, bits v 16 2, bit v 18)) s) := by
  simp only [resetCtl, if_neg (fun k : bits v 16 2 = 3 ∧ cls ∉ [0, 4, 5] => h.elim (· k.1) k.2), hd, hnone, hmay,
    Option.isNone_none, and_self, if_true]

end

/-! ## The rows -/

theorem spans_iff {addr base n : Nat} : spans addr base n = true ↔ base ≤ addr ∧ addr < base + n := by
  simp [spans]

/-- What a row does with a write: it ends with the register's effect, remembered, or records the refusal. -/
def RowWrites (row : Host.Outcome State Fault Refusal) (effect : Option State) (unit addr : Nat) (who : Requester) (v : Nat)
    (s : State) : Prop :=
  (∀ u, effect = some u → row = .next (ended s (written unit addr who v u))) ∧
    (effect = none → row = .next (noteConflict unit addr true who v s))

section
variable {who : Requester} {v : Nat} {s : State}

theorem rowWrites_of_writeWhole {row : Host.Outcome State Fault Refusal} {r : Reg} {addr : Nat} (hs : settled s)
    (h : row = ends s (writeWhole r addr who v s)) : RowWrites row (r.wr who v s) r.unit addr who v s :=
  ⟨fun _ hu => h.trans (ends_admitted hu), fun hu => h.trans (ends_refused hs hu)⟩

theorem RowWrites.takes {row : Host.Outcome State Fault Refusal} {u : State} {unit addr : Nat}
    (h : RowWrites row (some u) unit addr who v s) : row = .next (ended s (written unit addr who v u)) := h.1 u rfl

variable (hs : settled s) (hcls : who.cls ≠ 1) (hv : v < 2 ^ 32)
include hs hcls hv

theorem safeExit_row (hr : s.fw.safeMode = true) :
    RowWrites (exec (.safeExit (writeAt who 0x18 4 v)) s) (writeStartCtl v s) frameServices 0x18 who v s :=
  rowWrites_of_writeWhole
    (r := { unit := frameServices, acts := 1, val := fun _ => 0, wr := fun _ v s => writeStartCtl v s }) hs
    (rowAccess_write hcls rfl rfl (windowOpen_of_safeMode hr rfl) hv rfl rfl)

section
variable (hr : s.fw.ready = true)
include hr

theorem domainPolicyWrite_row {x : Nat} (hx : x < 80) :
    RowWrites (exec (.domainPolicyWrite (writeAt who (0xC10000 + 16 * x) 4 v)) s) (writePolicy x v s) (domainUnit x)
      (0xC10000 + 16 * x) who v s := by
  obtain ⟨r, hreg, hunit, hw, hwr⟩ := regAt_domain hx
  have hmine : (spans (0xC10000 + 16 * x) 0xC10000 0x500 && decide ((0xC10000 + 16 * x) % 16 < 4)) = true := by
    simp only [Bool.and_eq_true, spans_iff, decide_eq_true_eq]
    omega
  have hrow := rowWrites_of_writeWhole hs
    (rowAccess_write hcls hmine hreg (windowOpen_of_ready hr _ _) hv hw (by omega))
  rw [hunit, hwr] at hrow
  exact hrow

theorem mboxGo_row {m : Nat} (hm : m < 32) :
    RowWrites (exec (.mboxGo (writeAt who (0x2000 + 0x40 * m + 60) 4 v)) s) (mailWrite who m 15 v s) mailboxes
      (0x2000 + 0x40 * m + 60) who v s := by
  have hmine : (spans (0x2000 + 0x40 * m + 60) 0x2000 0x800 && (0x2000 + 0x40 * m + 60) % 0x40 / 4 == 15) = true := by
    simp only [Bool.and_eq_true, spans_iff, beq_iff_eq]
    omega
  exact rowWrites_of_writeWhole hs (rowAccess_write hcls hmine (regAt_mailbox (w := 15) hm (by omega))
    (windowOpen_of_ready hr _ _) hv rfl (by omega))

theorem lostClear_row {u : Nat} (hu : u < 65536) (hlost : bits v 16 16 = 0xFFFF) :
    RowWrites (exec (.lostClear (writeAt who (0xA40000 + 4 * u) 4 v)) s) (some (writeSafUnit u v s)) selvedge
      (0xA40000 + 4 * u) who v s := by
  have hmine : (spans (0xA40000 + 4 * u) 0xA40000 0x40000 && bits v 16 16 == 0xFFFF) = true := by
    simp only [Bool.and_eq_true, spans_iff, beq_iff_eq]
    omega
  exact rowWrites_of_writeWhole hs (rowAccess_write hcls hmine (regAt_safUnit hu) (windowOpen_of_ready hr _ _) hv rfl
    (by omega))

/-- A row of `FRM.RESET_CTL`, for the words it takes. -/
theorem resetCtl_row {mine : Bool} (hmine : mine = true) :
    RowWrites (rowAccess mine (writeAt who 0x3010 4 v) s) (resetCtl who.cls v s) frameServices 0x3010 who v s :=
  rowWrites_of_writeWhole
    (r := { unit := frameServices, acts := 2 ^ 20 - 1, val := fun _ => 0, wr := fun who v s => resetCtl who.cls v s }) hs
    (rowAccess_write hcls hmine rfl (windowOpen_of_ready hr _ _) hv rfl rfl)

theorem cntSelWrite_row :
    RowWrites (exec (.cntSelWrite (writeAt who 0xB00000 4 v)) s) (some (writeCntSel v s)) frameServices 0xB00000 who v s :=
  rowWrites_of_writeWhole
    (r := rw frameServices 0 (fun s => s.cnt.sel.toNat + 2 ^ 16 * b2n s.cnt.valid) (fun _ _ => false) writeCntSel) hs
    (rowAccess_write hcls rfl rfl (windowOpen_of_ready hr _ _) hv rfl rfl)

theorem jcqAdminWrite_row {p o : Nat} (hp : p < 64) (ho : o ∈ [0x00, 0x08, 0x10, 0x18, 0x1C, 0x20]) :
    RowWrites (exec (.jcqAdminWrite (writeAt who (0x120000 + 0x100 * p + o) (if o < 0x18 then 8 else 4) v)) s)
      (adminWrite p o v s) (jacquard (p % 32)) (0x120000 + 0x100 * p + o) who v s := by
  have hreg := regAt_admin hp ho
  simp only [List.mem_cons, List.not_mem_nil, or_false] at ho
  have hmine : (spans (0x120000 + 0x100 * p + o) 0x120000 0x4000 &&
      decide ((0x120000 + 0x100 * p + o) % 0x100 < 0x28)) = true := by
    simp only [Bool.and_eq_true, spans_iff, decide_eq_true_eq]
    omega
  by_cases h : o < 0x18
  · rw [if_pos h]
    exact rowWrites_of_writeWhole hs (rowAccess_write_wide hcls hmine hreg (windowOpen_of_ready hr _ _) hv
      (decide_eq_true h) (by omega))
  · rw [if_neg h]
    exact rowWrites_of_writeWhole hs (rowAccess_write hcls hmine hreg (windowOpen_of_ready hr _ _) hv
      (decide_eq_false h) (by omega))

end

end

theorem exec_mboxSenderRead {who : Requester} {s : State} (hcls : who.cls ≠ 1) (hr : s.fw.ready = true) {m : Nat}
    (hm : m < 32) : exec (.mboxSenderRead (readAt who (0x2000 + 0x40 * m + 56) 4)) s =
      ends s (answerRead who (senderRead who m s, mailWord (mbox s m) 14 % 2 ^ 32)) := by
  have hmine : (spans (0x2000 + 0x40 * m + 56) 0x2000 0x800 && (0x2000 + 0x40 * m + 56) % 0x40 / 4 == 14) = true := by
    simp only [Bool.and_eq_true, spans_iff, beq_iff_eq]
    omega
  have hreg : regAt (0x2000 + 0x40 * m + 56) = some (mboxReg m 14) := regAt_mailbox (w := 14) hm (by omega)
  have hrow := rowAccess_read hcls hmine hreg (windowOpen_of_ready hr _ _) rfl (by omega)
  exact hrow

/-! ## What the rows leave -/

section
variable {who : Requester} {v unit addr : Nat} {s : State}

/-- What a written policy leaves: the domain's policy and idle time are the word's. -/
theorem domain_of_policy {x : Nat} {u : State} (h : SamePolicy x (withPolicy x v s) u) :
    (domain (ended s (written unit addr who v u)) x).policy = BitVec.ofNat 2 (bits v 4 2) ∧
      (domain (ended s (written unit addr who v u)) x).idleUs = BitVec.ofNat 8 (bits v 8 8) := by
  have hend : SamePolicy x (withPolicy x v s) (ended s (written unit addr who v u)) :=
    h.trans (.of_domain (by rw [ended_pwr, written_pwr]))
  simpa only [SamePolicy, withPolicy, domain_setDomain] using hend

/-- What a go leaves in its mailbox (R443). -/
theorem mbox_of_mailGo {m : Nat} (hreset : ownerReset s (mbox s m) = false) (hfenced : ownerFenced s (mbox s m) = false) :
    ∃ due, mbox (ended s (written unit addr who v (mailGo who m s))) m = sentBox who due (mbox s m) := by
  obtain ⟨due, hgo⟩ := mailGo_fills (who := who) hreset hfenced
  refine ⟨due, ?_⟩
  rw [mbox_of_fw ((ended_fw _ _).trans ((written_undisturbed _ _ _ _ _).fw.trans hgo)), mbox_setMbox]

/-- A write of `SAF.UNIT` reports nothing. -/
theorem ended_writeSafUnit {u : Nat} (hs : settled s) (hu : validUnit u = true) :
    ended s (written unit addr who v (writeSafUnit u v s)) = written unit addr who v (writeSafUnit u v s) := by
  obtain ⟨hsaf, hpins, hfw, hhang, hq, htime⟩ := written_undisturbed unit addr who v (writeSafUnit u v s)
  rw [writeSafUnit_valid hu] at hsaf hpins hfw hhang hq htime ⊢
  exact ended_settled s _ hs (by rw [hsaf]; exact hs.1) hpins (by rw [hfw]) (by rw [hhang]) (by rw [hsaf]) hq htime

theorem safUnit_writeSafUnit {u : Nat} (hu : validUnit u = true) :
    safUnit (written unit addr who v (writeSafUnit u v s)) u = { safUnit s u with
      testLate := keepBit (safUnit s u).testLate v 2
      lost := (safUnit s u).lost &&& ~~~ BitVec.ofNat 16 (bits v 16 16) } := by
  have hsaf := (written_undisturbed unit addr who v (writeSafUnit u v s)).saf
  rw [safUnit, hsaf, writeSafUnit_valid hu, tget_tmod, if_pos rfl]
  rfl

theorem bit_zero_of_odd (h : v % 2 = 1) : bit v 0 = true := by simp [bit, h]

theorem writeStartCtl_odd (hsafe : s.fw.safeMode = true) (h : v % 2 = 1) : writeStartCtl v s =
    some (beginStart false { s with fw := { s.fw with warmFails := 0, coldFails := 0 } }) := by
  simp [writeStartCtl, safeExit, hsafe, bit_zero_of_odd h]

end

/-- Settles O28: each row ends with what its register makes of the word; where that reports nothing, ending changes nothing. -/
theorem registerRowsOfTheDevice : Obligations.RegisterRowsOfTheDevice := by
  intro who v s hs hcls hv
  refine ⟨fun hr x hx => ⟨fun hpol hidle => ?policy, fun hbad => ?reserved⟩, fun hsafe hodd => ?safeExit,
    fun hr m hm hodd hmay hfull hreset hfenced => ?go, fun hr m hm hown hfirmware => ?senderRead,
    fun hr u hu hvalid hlost => ?lost, fun hr hl hd hc => ?package, fun hr hl hc => ?packageDenied,
    fun hr hl hd => ⟨fun hpass => ?unit, fun hfail => ?unitFails⟩, fun hr hl hd hnone hmay => ?dump, fun hr => ?counters,
    fun hr p o hp ho => ?admin⟩
  case policy =>
    have hrow := domainPolicyWrite_row hs hcls hv hr hx
    obtain ⟨u, hu, hsame⟩ := writePolicy_takes hpol hidle x s
    rw [hu] at hrow
    obtain ⟨hp, hi⟩ := domain_of_policy (who := who) (unit := domainUnit x) (addr := 0xC10000 + 16 * x) hsame
    refine ⟨_, hrow.takes, hp, hi, fun hone hx => ?_, fun hzero => ?_⟩
    · have hstores := writePolicy_stores (x := x) (s := s) hpol hidle (by omega) hx
      obtain rfl := Option.some.inj (hu.symm.trans hstores)
      exact ended_written_of_undisturbed hs ⟨rfl, rfl, rfl, rfl, rfl, rfl⟩
    · have hwakes := writePolicy_wakes (x := x) (s := s) hpol hidle hzero
      obtain rfl := Option.some.inj (hu.symm.trans hwakes)
      have hstored : Undisturbed s (withPolicy x v s) := ⟨rfl, rfl, rfl, rfl, rfl, rfl⟩
      rw [ended_written_of_undisturbed hs (hstored.trans (wakeDomain_undisturbed _ _)), withPolicy, hzero]
      rfl
  case reserved => exact (domainPolicyWrite_row hs hcls hv hr hx).2 (writePolicy_refused hbad)
  case safeExit => exact (safeExit_row hs hcls hv hsafe).1 _ (writeStartCtl_odd hsafe hodd)
  case go =>
    obtain ⟨due, hbox⟩ := mbox_of_mailGo (who := who) (v := v) (unit := mailboxes) (addr := 0x2000 + 0x40 * m + 60)
      hreset hfenced
    refine ⟨_, (mboxGo_row hs hcls hv hr hm).1 _ (mailWrite_go hmay hfull (bit_zero_of_odd hodd)), rfl, ?_⟩
    rw [hbox]
    exact ⟨rfl, rfl, rfl, rfl, rfl, rfl⟩
  case senderRead =>
    rw [exec_mboxSenderRead hcls hr hm, senderRead_by_firmware hown hfirmware, ends, answerRead_setMbox_ended hs]
  case lost =>
    refine ⟨_, (lostClear_row hs hcls hv hr hu hlost).takes, ended_writeSafUnit hs hvalid, ?_⟩
    rw [ended_writeSafUnit hs hvalid, safUnit_writeSafUnit hvalid, hlost]
    exact ⟨BitVec.and_zero, rfl, rfl⟩
  case package =>
    refine ⟨_, (resetCtl_row hs hcls hv hr (beq_iff_eq.mpr hl)).1 _ (resetCtl_takes (.inr hc) hd), ?_, ?_⟩
    · rw [hl, afterDump_package]
    · rw [ended_fw, (written_undisturbed _ _ _ _ _).fw, hl]
      rfl
  case packageDenied => exact (resetCtl_row hs hcls hv hr (beq_iff_eq.mpr hl)).2 (resetCtl_denied hl hc)
  case unit =>
    rw [← afterDump_passes (bit v 18) hl hpass]
    exact (resetCtl_row hs hcls hv hr (bne_iff_ne.mpr hl)).1 _ (resetCtl_takes (.inl hl) hd)
  case unitFails =>
    have htakes := resetCtl_takes (cls := who.cls) (s := s) (.inl hl) hd
    rw [afterDump_fails (bit v 18) hl hfail] at htakes
    rw [← ended_written_of_undisturbed hs (.refl s)]
    exact (resetCtl_row hs hcls hv hr (bne_iff_ne.mpr hl)).1 _ htakes
  case dump => exact (resetCtl_row hs hcls hv hr hd).1 _ (resetCtl_dumps hl hd hnone hmay)
  case counters =>
    rw [(cntSelWrite_row hs hcls hv hr).takes,
      ended_written_of_undisturbed (u := writeCntSel v s) hs ⟨rfl, rfl, rfl, rfl, rfl, rfl⟩]
    rfl
  case admin => exact jcqAdminWrite_row hs hcls hv hr hp ho

end Sys2Proof.Machine
end

section
/-! PROOFS. The Shuttle header (R156). -/

namespace Sys2Proof.Machine

/-! ## Big-endian fields -/

/-- The big-endian bytes of a number hold it, modulo what they can hold. -/
theorem beNat_beBytes (n v : Nat) : beNat (beBytes n v) = v % 256 ^ n := by
  induction n generalizing v with
  | zero => simp [beBytes, leBytes, beNat, Nat.mod_one]
  | succ n ih =>
    have h : beNat (beBytes (n + 1) v) = beNat (beBytes n (v / 256)) * 256 + v % 256 := by simp [beBytes, leBytes, beNat]
    rw [h, ih, Nat.pow_succ', Nat.mod_mul, Nat.mul_comm, Nat.add_comm]

@[simp] theorem beBytes_length (n v : Nat) : (beBytes n v).length = n := by simp [beBytes]

theorem byteAt_append_right (a b : List Byte) (k : Nat) : byteAt (a ++ b) (a.length + k) = byteAt b k := by
  simp only [byteAt, List.getElem?_append_right (Nat.le_add_right _ _), Nat.add_sub_cancel_left]

theorem slice_append_right (a b : List Byte) (off n : Nat) : slice (a ++ b) (a.length + off) n = slice b off n := by
  simp [slice, Nat.add_assoc, byteAt_append_right]

theorem slice_append_left (a b : List Byte) : slice (a ++ b) 0 a.length = a := by
  refine List.ext_getElem (by simp [slice]) fun i h _ => ?_
  have hi : i < a.length := by simpa [slice] using h
  simp [slice, byteAt, List.getElem?_append_left hi, List.getElem?_eq_getElem hi]

/-- Word `i` of a string of big-endian words. -/
theorem beNat_slice_words (ws : List Nat) (r : List Byte) (i : Nat) (h : i < ws.length) :
    beNat (slice (ws.flatMap (beBytes 4) ++ r) (4 * i) 4) = ws[i] % 2 ^ 32 := by
  induction ws generalizing i with
  | nil => simp at h
  | cons w ws ih =>
    rw [List.flatMap_cons, List.append_assoc]
    cases i with
    | zero =>
      have h0 := slice_append_left (beBytes 4 w) (ws.flatMap (beBytes 4) ++ r)
      rw [beBytes_length] at h0
      rw [Nat.mul_zero, h0, beNat_beBytes]
      rfl
    | succ i =>
      have hs := slice_append_right (beBytes 4 w) (ws.flatMap (beBytes 4) ++ r) (4 * i) 4
      rw [beBytes_length] at hs
      rw [show 4 * (i + 1) = 4 + 4 * i by omega, hs]
      simpa using ih i (by simpa using h)

/-! ## The header -/

/-- The eight words of a header (R156). -/
def hdrWords (h : ShtHdr) : List Nat :=
  [h.version * 2 ^ 28 + h.opc * 2 ^ 16 + h.flags, h.dest, h.psn.toNat, h.msgId * 2 ^ 16 + h.offset / 2 ^ 32 % 2 ^ 16,
    h.offset, h.aux * 2 ^ 16 + h.len, h.key, h.aux2]

theorem shtHdrBytes_eq (h : ShtHdr) : shtHdrBytes h = (hdrWords h).flatMap (beBytes 4) := by
  simp [shtHdrBytes, hdrWords]

/-- Word `i` of a header is read as it was built, whatever follows the header. -/
theorem beNat_slice_shtHdrBytes (h : ShtHdr) (r : List Byte) (i : Nat) (hi : i < 8) :
    beNat (slice (shtHdrBytes h ++ r) (4 * i) 4) = (hdrWords h)[i] % 2 ^ 32 := by
  rw [shtHdrBytes_eq, beNat_slice_words _ _ _ hi]

theorem shtHdrBytes_length (h : ShtHdr) : (shtHdrBytes h).length = 32 := by simp [shtHdrBytes]

/-- A header is read as it was built, whatever follows it: each field from the word it was put in. -/
theorem readShtHdr_shtHdrBytes (h : ShtHdr) (r : List Byte) (hv : h.version < 2 ^ 4) (ho : h.opc < 2 ^ 8) (hf : h.flags < 2 ^ 16)
    (hd : h.dest < 2 ^ 24) (hm : h.msgId < 2 ^ 16) (hoff : h.offset < 2 ^ 48) (ha : h.aux < 2 ^ 16) (hl : h.len < 2 ^ 14)
    (hk : h.key < 2 ^ 32) (ha2 : h.aux2 < 2 ^ 32) (hr : h.reserved = false) : readShtHdr (shtHdrBytes h ++ r) = h := by
  have hp := h.psn.isLt
  have w := beNat_slice_shtHdrBytes h r
  obtain ⟨version, opc, flags, dest, psn, msgId, offset, aux, len, key, aux2, reserved⟩ := h
  simp only [readShtHdr, w 0 (by omega), w 1 (by omega), w 2 (by omega), w 3 (by omega), w 4 (by omega), w 5 (by omega),
    w 6 (by omega), w 7 (by omega), hdrWords, bits, ShtHdr.mk.injEq, List.getElem_cons_zero, List.getElem_cons_succ]
  simp only at *
  refine ⟨?_, ?_, ?_, ?_, ?_, ?_, ?_, ?_, ?_, ?_, ?_, ?_⟩
  case refine_5 => rw [Nat.mod_eq_of_lt hp, BitVec.ofNat_toNat, BitVec.setWidth_eq]
  case refine_12 =>
    rw [hr]
    simp only [Bool.or_eq_false_iff, bne_eq_false_iff_eq]
    omega
  all_goals omega

theorem readShtHdr_reserved_dest (h : ShtHdr) (r : List Byte) (hlo : 2 ^ 24 ≤ h.dest) (hhi : h.dest < 2 ^ 32) :
    (readShtHdr (shtHdrBytes h ++ r)).reserved = true := by
  have hw : bits (h.dest % 2 ^ 32) 24 8 ≠ 0 := by
    unfold bits
    omega
  have w := beNat_slice_shtHdrBytes h r 1 (by omega)
  simp only [readShtHdr, w, hdrWords, List.getElem_cons_zero, List.getElem_cons_succ, bne_iff_ne.mpr hw, Bool.or_true, Bool.true_or]

/-- Settles O34: word by word, the bits of each field stand where the reader looks for them. -/
theorem shuttleHeaderRoundTrip : Obligations.ShuttleHeaderRoundTrip := by
  refine ⟨fun h hv ho hf hd hm hoff ha hl hk ha2 hr => ⟨?_, shtHdrBytes_length h⟩,
    fun h k hlo hhi => readShtHdr_reserved_dest h _ hlo hhi⟩
  simpa using readShtHdr_shtHdrBytes h [] hv ho hf hd hm hoff ha hl hk ha2 hr

end Sys2Proof.Machine
end

section
/-! PROOFS. What sending a packet of a queue pair changes (R155 to R160, R174, R175, R178, R187, R369, R370). -/

namespace Sys2Proof.Machine

/-! ## What sending can change -/

/-- Sending changes the key slots, the Ethernet ports, the counters, the marks of work done, the reports that wait, the queue
pairs and their engines' LFSRs, and nothing else. -/
def Transmits (s t : State) : Prop := t = { s with
  cip := t.cip, eth := t.eth, cnt := t.cnt, pwr := t.pwr, hang := { s.hang with items := t.hang.items }
  saf := { s.saf with todo := t.saf.todo }, sht := { s.sht with qp := t.sht.qp, lfsr := t.sht.lfsr } }

theorem Transmits.refl (s : State) : Transmits s s := rfl

theorem Transmits.trans {s t u : State} (h : Transmits s t) (k : Transmits t u) : Transmits s u := by
  have e := congrArg (fun x : State => { x with
    cip := u.cip, eth := u.eth, cnt := u.cnt, pwr := u.pwr, hang := { x.hang with items := u.hang.items }
    saf := { x.saf with todo := u.saf.todo }, sht := { x.sht with qp := u.sht.qp, lfsr := u.sht.lfsr } }) h
  exact Eq.trans k e

section
variable {s t : State} (h : Transmits s t)
include h

theorem Transmits.spl : t.spl = s.spl := congrArg (·.spl) h
theorem Transmits.ops : t.sht.ops = s.sht.ops := congrArg (·.sht.ops) h
theorem Transmits.pushDone : t.sht.pushDone = s.sht.pushDone := congrArg (·.sht.pushDone) h

end

/-- Sending of a kind that leaves every queue pair as it is. -/
structure Leaves (s t : State) : Prop where
  transmits : Transmits s t
  qp : t.sht.qp = s.sht.qp

theorem Leaves.refl (s : State) : Leaves s s := ⟨rfl, rfl⟩

theorem Leaves.trans {s t u : State} (h : Leaves s t) (k : Leaves t u) : Leaves s u :=
  ⟨h.transmits.trans k.transmits, k.qp.trans h.qp⟩

theorem Leaves.qpOf {s t : State} (h : Leaves s t) (q : Nat) : qpOf t q = qpOf s q := by rw [Machine.qpOf, h.qp]; rfl

theorem setQp_transmits (q : Nat) (v : Qp) (s : State) : Transmits s (setQp q v s) := rfl
theorem modQp_transmits (q : Nat) (f : Qp → Qp) (s : State) : Transmits s (modQp q f s) := rfl

@[simp] theorem qpOf_modQp (q : Nat) (f : Qp → Qp) (s : State) : qpOf (modQp q f s) q = f (qpOf s q) := qpOf_setQp s q _

theorem qpOf_modQp_other (q : Nat) (f : Qp → Qp) (s : State) (x : Nat) (hx : x ≠ q) : qpOf (modQp q f s) x = qpOf s x :=
  qpOf_setQp_other s q _ x hx

/-! ## The steps of sending -/

theorem setKeySlot_leaves (n : Nat) (k : KeySlot) (s : State) : Leaves s (setKeySlot n k s) := ⟨rfl, rfl⟩
theorem modEthp_leaves (k : Nat) (f : EthPort → EthPort) (s : State) : Leaves s (modEthp k f s) := ⟨rfl, rfl⟩
theorem setSub_leaves (k i : Nat) (u : EthSub) (s : State) : Leaves s (setSub k i u s) := modEthp_leaves _ _ s
theorem ethErr_leaves (i : Nat) (s : State) : Leaves s (ethErr i s) := ⟨rfl, rfl⟩
theorem report_leaves (r : Report) (s : State) : Leaves s (report r s) := ⟨rfl, rfl⟩
theorem worked_leaves (u n : Nat) (s : State) : Leaves s (worked u n s) := ⟨rfl, rfl⟩
theorem bumpPart_leaves (p i n : Nat) (s : State) : Leaves s (bumpPart p i n s) := ⟨rfl, rfl⟩

theorem bump_leaves (u i n : Nat) (s : State) : Leaves s (bump u i n s) := by
  rw [bump_frame]
  exact ⟨rfl, rfl⟩

theorem takeCounter_leaves (n : Nat) (s : State) : Leaves s (takeCounter n s).2 := by
  simp only [takeCounter]
  split <;> exact ⟨rfl, rfl⟩

theorem ethCount_leaves (k sub i n : Nat) (s : State) : Leaves s (ethCount k sub i n s) := by
  simp only [ethCount]
  split
  · exact .refl s
  · split <;> split
    · exact (((setSub_leaves _ _ _ s).trans (ethErr_leaves 4 _)).trans (ethErr_leaves 3 _)).trans (report_leaves _ _)
    · exact ((setSub_leaves _ _ _ s).trans (ethErr_leaves 3 _)).trans (report_leaves _ _)
    · exact (setSub_leaves _ _ _ s).trans (ethErr_leaves 4 _)
    · exact setSub_leaves _ _ _ s

theorem txqMiss_leaves (k i : Nat) (s : State) : Leaves s (txqMiss k i s) := (ethErr_leaves 2 s).trans (ethCount_leaves _ _ _ _ _)

theorem enqueue_leaves (k n : Nat) (pkt : TxPacket) (s : State) : Leaves s (enqueue k n pkt s) := ⟨rfl, rfl⟩

theorem queueFrame_leaves (q : Nat) (frame : List Byte) (s : State) : Leaves s (queueFrame q frame s) := by
  simp only [queueFrame]
  split
  · exact enqueue_leaves _ _ _ s
  · exact txqMiss_leaves _ _ s

theorem countSent_leaves (q opc len : Nat) (s : State) : Leaves s (countSent q opc len s) := by
  have h : Leaves s (bumpPart (qpPart s q) 2 len (worked (serving s q) 1 (bump (serving s q) 2 1 (bump (serving s q) 3 len s)))) :=
    (((bump_leaves _ _ _ s).trans (bump_leaves _ _ _ _)).trans (worked_leaves _ _ _)).trans (bumpPart_leaves _ _ _ _)
  simp only [countSent]
  split
  · exact h.trans (bump_leaves _ _ _ _)
  · exact h

theorem countCtl_leaves (q : Nat) (s : State) : Leaves s (countCtl q s) := (bump_leaves _ _ _ s).trans (worked_leaves _ _ _)

theorem countCommit_leaves (q len : Nat) (s : State) : Leaves s (countCommit q len s) :=
  (((bump_leaves _ _ _ s).trans (bump_leaves _ _ _ _)).trans (worked_leaves _ _ _)).trans (bumpPart_leaves _ _ _ _)

theorem pickPath_leaves (q : Nat) (s : State) : Leaves s (pickPath q s).2 := ⟨rfl, rfl⟩

theorem sealPacket_leaves (q : Nat) (h : ShtHdr) (payload : List Byte) (s : State) : Leaves s (sealPacket q h payload s).2 := by
  have hc := takeCounter_leaves (qpSlot (qpOf s q)) s
  simp only [sealPacket]
  split
  · exact .refl s
  · split <;> rename_i ht <;> rw [ht] at hc <;> exact hc

theorem pace_transmits (q wire : Nat) (s : State) : Transmits s (pace q wire s) := modQp_transmits _ _ s

theorem leaves_of_sealPacket {q : Nat} {h : ShtHdr} {payload : List Byte} {s t : State} {d : Option (List Byte)}
    (ht : sealPacket q h payload s = (d, t)) : Leaves s t := by simpa [ht] using sealPacket_leaves q h payload s

/-- An ACK or NAK is sent or goes nowhere, which leaves the queue pair as it is, or waits for room. -/
theorem sendCtl_cases (q : Nat) (c : CtlPkt) (s : State) : Leaves s (sendCtl q c s) ∨
    sendCtl q c s = setQp q { qpOf s q with aside := true, ctlHeld := (qpOf s q).ctlHeld ++ [c] } s := by
  simp only [sendCtl]
  split
  · exact .inl (.refl s)
  · split
    · exact .inr rfl
    · split <;> rename_i ht <;> have hs := leaves_of_sealPacket ht
      · exact .inl hs
      · exact .inl ((hs.trans (countCtl_leaves q _)).trans (queueFrame_leaves q _ _))

theorem sendCtl_transmits (q : Nat) (c : CtlPkt) (s : State) : Transmits s (sendCtl q c s) := by
  rcases sendCtl_cases q c s with h | h
  · exact h.transmits
  · rw [h]
    exact setQp_transmits _ _ s

/-- What an ACK or NAK can change of its queue pair: whether it is set aside, and what it owes. -/
theorem qpOf_sendCtl (q : Nat) (c : CtlPkt) (s : State) : ∃ a l, qpOf (sendCtl q c s) q = { qpOf s q with aside := a, ctlHeld := l } := by
  rcases sendCtl_cases q c s with h | h
  · exact ⟨_, _, h.qpOf q⟩
  · exact ⟨_, _, by rw [h, qpOf_setQp]⟩

/-- The queue pair whose ACK leaves: what it reports is cleared (R178). -/
def ackCleared (v : Qp) : Qp := { v with rxPathSeen := 0, rxPathCe := 0, rxSinceAck := 0, tAck := none }

theorem sendAck_stalled {q : Nat} {s : State} (h : keyStalled s q = true) : sendAck q s = s := by simp [sendAck, h]

theorem sendAck_sends {q : Nat} {s : State} (h : keyStalled s q = false) :
    ∃ c, sendAck q s = sendCtl q c (setQp q (ackCleared (qpOf s q)) s) := ⟨_, by simp only [sendAck, h]; rfl⟩

theorem sendAck_transmits (q : Nat) (s : State) : Transmits s (sendAck q s) := by
  cases h : keyStalled s q with
  | true => rw [sendAck_stalled h]; rfl
  | false =>
    obtain ⟨c, hc⟩ := sendAck_sends h
    rw [hc]
    exact (setQp_transmits q _ s).trans (sendCtl_transmits q c _)

/-- An ACK leaves the receive window, the posted RECVs and the rest of its queue pair as they are. -/
theorem qpOf_sendAck (q : Nat) (s : State) : ∃ v a l, (v = qpOf s q ∨ keyStalled s q = false ∧ v = ackCleared (qpOf s q)) ∧
    qpOf (sendAck q s) q = { v with aside := a, ctlHeld := l } := by
  cases h : keyStalled s q with
  | true => exact ⟨_, _, _, .inl rfl, by rw [sendAck_stalled h]⟩
  | false =>
    obtain ⟨c, hc⟩ := sendAck_sends h
    obtain ⟨a, l, he⟩ := qpOf_sendCtl q c (setQp q (ackCleared (qpOf s q)) s)
    rw [qpOf_setQp] at he
    exact ⟨_, a, l, .inr ⟨rfl, rfl⟩, by rw [hc, he]⟩

end Sys2Proof.Machine
end

section
/-! PROOFS. Duplicates (R148, R173). -/

namespace Sys2Proof.Machine

section
variable {q : Nat} {p : RxPkt} {s : State}

theorem onRequest_duplicate {fresh : Nat → RxPkt → State → State} (h : psnDiff p.h.psn (qpOf s q).rqBase < 0 ∨
    (psnDiff p.h.psn (qpOf s q).rqBase < 256 ∧
      (qpOf s q).rxMap.getLsbD (psnDiff p.h.psn (qpOf s q).rqBase).toNat = true)) :
    onRequest fresh q p s = onDuplicate q p s := if_pos h

/-- A duplicate that is no atomic and no READ_REQ, or an abandon packet of any kind, draws an acknowledgement. -/
theorem onDuplicate_acknowledged (h : isAbandon p.h = true ∨ p.h.opc ≠ 5 ∧ p.h.opc ≠ 6 ∧ p.h.opc ≠ 2) :
    onDuplicate q p s = sendAck q s := by
  rcases h with h | ⟨h5, h6, h2⟩
  · simp [onDuplicate, h]
  · simp [onDuplicate, h5, h6, h2]

/-- A duplicate atomic whose record is held is answered from it. -/
theorem onDuplicate_recorded {r : AtomRec} (ho : p.h.opc = 5 ∨ p.h.opc = 6) (ha : isAbandon p.h = false)
    (hr : tget none (qpOf s q).atoms (p.h.psn.toNat % 16) = some r) (hp : r.psn = p.h.psn) :
    onDuplicate q p s = setQp q (queueAtomicResp p.h r.prior (qpOf s q)) s := by
  simp [onDuplicate, ha, ho, hr, hp]

/-- A duplicate atomic that no record is held of is discarded. -/
theorem onDuplicate_unrecorded (ho : p.h.opc = 5 ∨ p.h.opc = 6) (ha : isAbandon p.h = false)
    (hr : ∀ r, tget none (qpOf s q).atoms (p.h.psn.toNat % 16) = some r → r.psn ≠ p.h.psn) : onDuplicate q p s = s := by
  simp only [onDuplicate, ha, ho]
  cases hg : tget none (qpOf s q).atoms (p.h.psn.toNat % 16) with
  | none => rfl
  | some r => simp [hr r hg]

/-- The three ways a duplicate other than a READ_REQ is answered. -/
theorem onDuplicate_cases (h2 : p.h.opc ≠ 2) : onDuplicate q p s = sendAck q s ∨ onDuplicate q p s = s ∨
    ∃ prior, onDuplicate q p s = setQp q (queueAtomicResp p.h prior (qpOf s q)) s := by
  cases ha : isAbandon p.h with
  | true => exact .inl (onDuplicate_acknowledged (.inl ha))
  | false =>
    by_cases ho : p.h.opc = 5 ∨ p.h.opc = 6
    · by_cases hr : ∃ r, tget none (qpOf s q).atoms (p.h.psn.toNat % 16) = some r ∧ r.psn = p.h.psn
      · obtain ⟨r, hr, hp⟩ := hr
        exact .inr (.inr ⟨r.prior, onDuplicate_recorded ho ha hr hp⟩)
      · exact .inr (.inl (onDuplicate_unrecorded ho ha fun r hg hp => hr ⟨r, hg, hp⟩))
    · exact .inl (onDuplicate_acknowledged (.inr ⟨fun h => ho (.inl h), fun h => ho (.inr h), h2⟩))

/-- A duplicate other than a READ_REQ writes no memory, joins no operation, consumes no RECV and moves no window. -/
theorem onDuplicate_frame (h2 : p.h.opc ≠ 2) : Transmits s (onDuplicate q p s) ∧
    (qpOf (onDuplicate q p s) q).recvs = (qpOf s q).recvs ∧ (qpOf (onDuplicate q p s) q).rqBase = (qpOf s q).rqBase ∧
    (qpOf (onDuplicate q p s) q).rxMap = (qpOf s q).rxMap := by
  rcases onDuplicate_cases (q := q) (s := s) h2 with h | h | ⟨prior, h⟩ <;> rw [h]
  · obtain ⟨v, a, l, hv, he⟩ := qpOf_sendAck q s
    rw [he]
    refine ⟨sendAck_transmits q s, ?_⟩
    rcases hv with rfl | ⟨-, rfl⟩ <;> exact ⟨rfl, rfl, rfl⟩
  · exact ⟨.refl s, rfl, rfl, rfl⟩
  · rw [qpOf_setQp]
    exact ⟨setQp_transmits _ _ s, rfl, rfl, rfl⟩

end

/-- Settles O33: a duplicate is acknowledged, answered from its record, or discarded. -/
theorem duplicatesAreNotExecutedAgain : Obligations.DuplicatesAreNotExecutedAgain := by
  intro q p s fresh hdup h2
  rw [onRequest_duplicate hdup]
  obtain ⟨ht, hrecvs, hbase, hmap⟩ := onDuplicate_frame (q := q) (s := s) h2
  refine ⟨by rw [ht.spl], ht.ops, hrecvs, hbase, hmap, fun r ho ha hr hp => onDuplicate_recorded ho ha hr hp,
    fun ho ha hr => onDuplicate_unrecorded ho ha hr, fun h5 h6 => onDuplicate_acknowledged (.inr ⟨h5, h6, h2⟩)⟩

end Sys2Proof.Machine
end

section
/-! PROOFS. The home of a queue pair (R130, R189, R456) and its context cache (R190, R191). -/

namespace Sys2Proof.Machine

/-! ## The home -/

/-- What the homes of queue pairs follow is as it was: the dies present, the fences, the engines stayed at, and which queue pairs
have operations. -/
structure SameHome (s t : State) : Prop where
  present : t.weft.diePresent = s.weft.diePresent
  unit : t.saf.unit = s.saf.unit
  stay : t.sht.stay = s.sht.stay
  ops : ∀ q, (opsOf t q).isEmpty = (opsOf s q).isEmpty

section
variable {s t : State} (h : SameHome s t)
include h

theorem SameHome.inService (u : Nat) : inService t u = inService s u := by
  simp only [Machine.inService, diePresent, fenced, safUnit, h.present, h.unit]

theorem SameHome.homeOk (d : Nat) : homeOk t d = homeOk s d := by simp only [Machine.homeOk, h.inService]

theorem SameHome.staysAt (q : Nat) : staysAt t q = staysAt s q := by
  simp only [Machine.staysAt, h.stay, h.inService, h.homeOk, h.ops]

theorem SameHome.homeDie (q : Nat) : homeDie t q = homeDie s q := by
  simp only [Machine.homeDie, h.staysAt, funext h.homeOk]

theorem SameHome.qpTime (ht : t.time = s.time) (q : Nat) : qpTime t q = qpTime s q := by
  simp only [Machine.qpTime, dieTime, h.homeDie, ht]

end

/-! ## Lookups in the slice -/

/-- A hit changes the counters, the slice's order of use and the slice's own counters. -/
def HitsSlice (s t : State) : Prop := t = { s with cnt := t.cnt, sht := { s.sht with cache := t.sht.cache, slice := t.sht.slice } }

/-- Of the transport, fetching a context changes its caches and fetches, the queue pair evicted for it, and the engines stayed at. -/
def FetchesContext (s t : State) : Prop := t.sht = { s.sht with
  qp := t.sht.qp, stay := t.sht.stay, cache := t.sht.cache, slice := t.sht.slice, fetching := t.sht.fetching
  wayWait := t.sht.wayWait }

theorem FetchesContext.refl (s : State) : FetchesContext s s := rfl

theorem FetchesContext.of_sht {s t : State} (h : t.sht = s.sht) : FetchesContext s t := by
  rw [FetchesContext, h]

theorem FetchesContext.trans {s t u : State} (h : FetchesContext s t) (k : FetchesContext t u) : FetchesContext s u := by
  have e := congrArg (fun x : ShtState => { x with
    qp := u.sht.qp, stay := u.sht.stay, cache := u.sht.cache, slice := u.sht.slice, fetching := u.sht.fetching
    wayWait := u.sht.wayWait }) h
  exact Eq.trans k e

section
variable {s t : State} (h : FetchesContext s t)
include h

theorem FetchesContext.parked : t.sht.parked = s.sht.parked := by rw [h]
theorem FetchesContext.pushDone : t.sht.pushDone = s.sht.pushDone := by rw [h]

end

@[simp] theorem bump_sht (u i n : Nat) (s : State) : (bump u i n s).sht = s.sht := by rw [bump_frame]

theorem Sends.sht {s t : State} (h : Sends s t) : t.sht = s.sht := by rw [h]

theorem writeBack_sht (d q : Nat) (s : State) : (writeBack d q s).sht = s.sht := by
  unfold writeBack
  exact (spoolWrite_touches _ _ _ _ s).sht

theorem moveHome_fetchesContext (d q : Nat) (s : State) : FetchesContext s (moveHome d q s) := by
  unfold moveHome
  split
  · exact .refl s
  · exact .trans (t := setCache d ((cacheOf s d).filter (· != q)) s) rfl (.of_sht (writeBack_sht _ _ _))

theorem goHome_fetchesContext (q : Nat) (s : State) : FetchesContext s (goHome q s) := by
  unfold goHome
  split
  · split
    · exact .refl s
    · exact .trans (t := { s with sht := { s.sht with stay := tset none s.sht.stay q none } }) rfl (moveHome_fetchesContext _ _ _)
  · exact .refl s

theorem evict_fetchesContext (d q : Nat) (s : State) : FetchesContext s (evict d q s) := by
  simp only [evict]
  refine .trans ?_ (.of_sht (writeBack_sht _ _ _))
  split
  · exact .trans (t := modQp q (freshRate s q) s) rfl (by simp [FetchesContext, sliceCnt, setCache])
  · simp [FetchesContext, sliceCnt, setCache]

/-- The request of a context's bytes, and the fetch noted as under way. -/
def requestContext (d q : Nat) (s : State) : State :=
  sendRequest d (slice_ d) (controller (stackOf (256 * q))) 0 0 0 (.ctxFetch q)
    { s with sht := { s.sht with fetching := s.sht.fetching ++ [q], wayWait := s.sht.wayWait.filter (· != q) } }

theorem requestContext_sht (d q : Nat) (s : State) : (requestContext d q s).sht =
    { s.sht with fetching := s.sht.fetching ++ [q], wayWait := s.sht.wayWait.filter (· != q) } :=
  (sendRequest_sends _ _ _ _ _ _ _ _).sht

theorem requestContext_fetchesContext (d q : Nat) (s : State) : FetchesContext s (requestContext d q s) := by
  rw [FetchesContext, requestContext_sht]

theorem startFetch_room {q : Nat} {s : State}
    (h : (inSet (goHome q s) (homeDie (goHome q s) q) (setOf q)).length < 8) :
    startFetch q s = requestContext (homeDie (goHome q s) q) q (goHome q s) := if_pos h

theorem startFetch_fetchesContext (q : Nat) (s : State) : FetchesContext s (startFetch q s) := by
  refine (goHome_fetchesContext q s).trans ?_
  simp only [startFetch]
  split
  · exact requestContext_fetchesContext _ _ _
  · split
    · exact (evict_fetchesContext _ _ _).trans (requestContext_fetchesContext _ _ _)
    · split
      · exact .refl _
      · rfl

section
variable {q : Nat} {s : State}

/-- Counting the lookup does not change what the slice holds. -/
theorem cacheOf_bump (u i n : Nat) (s : State) : cacheOf (bump u i n s) = cacheOf s := by
  funext d
  rw [cacheOf, bump_sht, cacheOf]

theorem sliceLookup_hit_frame (h : cached s q = true) : HitsSlice s (sliceLookup q s).2 := by
  have hc : (cacheOf s (homeDie s q)).contains q = true := h
  simp only [sliceLookup, cacheOf_bump, hc, if_true]
  rw [bump_frame]
  rfl

theorem sliceLookup_hit (h : cached s q = true) : sliceLookup q s = (true, (sliceLookup q s).2) := by
  have hc : (cacheOf s (homeDie s q)).contains q = true := h
  simp only [sliceLookup, cacheOf_bump, hc, if_true]

theorem sliceLookup_miss_frame (h : cached s q = false) : FetchesContext s (sliceLookup q s).2 := by
  have hc : (cacheOf s (homeDie s q)).contains q = false := h
  simp only [sliceLookup, cacheOf_bump, hc, Bool.false_eq_true, if_false]
  have hcount : FetchesContext s (bump (slice_ (homeDie s q)) 3 1 (sliceCnt (homeDie s q) (fun c => { c with misses := satInc c.misses })
      (bump (slice_ (homeDie s q)) 2 1 s))) := by simp [FetchesContext, sliceCnt]
  split
  · exact hcount
  · exact hcount.trans (startFetch_fetchesContext _ _)

theorem sliceLookup_miss (h : cached s q = false) : sliceLookup q s = (false, (sliceLookup q s).2) := by
  have hc : (cacheOf s (homeDie s q)).contains q = false := h
  simp only [sliceLookup, cacheOf_bump, hc, Bool.false_eq_true, if_false]

end

section
variable {s t : State} (h : HitsSlice s t)
include h

theorem HitsSlice.qp : t.sht.qp = s.sht.qp := congrArg (·.sht.qp) h
theorem HitsSlice.qpOf (q : Nat) : qpOf t q = qpOf s q := by rw [Machine.qpOf, h.qp]; rfl
theorem HitsSlice.cip : t.cip = s.cip := congrArg (·.cip) h
theorem HitsSlice.pushDone : t.sht.pushDone = s.sht.pushDone := congrArg (·.sht.pushDone) h

end

end Sys2Proof.Machine
end

section
/-! PROOFS. Received packets: the checks of R162 and parking (R192). -/

namespace Sys2Proof.Machine

/-! ## The checks, in order -/

theorem readPacket_fields {s : State} {port : Nat} {frame : List Byte} {ext : List ExtRead} {p : RxPkt} {good : Bool}
    (h : readPacket s port frame ext = some (p, good)) : p.port = port ∧ p.frame = frame ∧ p.ext = ext := by
  simp only [readPacket] at h
  split at h
  · cases h
  · split at h
    · cases h
    · simp only [Option.some.injEq, Prod.mk.injEq] at h
      rw [← h.1]
      exact ⟨rfl, rfl, rfl⟩

/-- The state in which a packet's queue pair is looked up: the frame has left the inbox, and the slice has been asked. -/
def lookedUp (q port : Nat) (frame : List Byte) (s : State) : State := (sliceLookup q (takeInbox port frame s)).2

section
variable {want : ShtHdr → Bool} {act : Nat → RxPkt → State → State} {port : Nat} {frame : List Byte} {ext : List ExtRead}
  {s : State} {p : RxPkt}

theorem receivePacket_wrong_crc (hp : readPacket s port frame ext = some (p, false)) :
    receivePacket want act port frame ext s = { takeInbox port frame s with sht := { (takeInbox port frame s).sht with
      crcDrop := satInc s.sht.crcDrop
      crcSeen := true } } := by simp only [receivePacket, hp]; rfl

section
variable (hp : readPacket s port frame ext = some (p, true))
include hp

theorem receivePacket_badHeader (hb : badHeader p = true) :
    receivePacket want act port frame ext s = countRxDrop true (takeInbox port frame s) := by
  simp [receivePacket, hp, hb]

variable (hb : badHeader p = false) (hw : want p.h = true)
include hb hw

theorem receivePacket_no_queue_pair (hd : 2 ^ 20 ≤ p.h.dest) :
    receivePacket want act port frame ext s = countRxDrop true (takeInbox port frame s) := by
  have hn : ¬p.h.dest < 2 ^ 20 := by omega
  simp only [receivePacket, hp, hb, hw, hn, decide_false, Bool.false_and, Bool.not_true, Bool.or_self, Bool.false_eq_true,
    if_false, if_pos hd]

variable (hd : p.h.dest < 2 ^ 20) (hu : unitHolds s (serving s p.h.dest) 1 p.h.dest = false)
include hd hu

theorem receivePacket_hit (hc : cached s p.h.dest = true) :
    receivePacket want act port frame ext s = checkContext p act (lookedUp p.h.dest port frame s) := by
  have hn : ¬2 ^ 20 ≤ p.h.dest := by omega
  simp only [receivePacket, hp, hb, hw, hu, hn, Bool.and_false, Bool.not_true, Bool.or_self, Bool.false_eq_true, if_false]
  rw [sliceLookup_hit (s := takeInbox port frame s) hc]
  rfl

theorem receivePacket_miss (hc : cached s p.h.dest = false) : receivePacket want act port frame ext s =
    if p.h.opc = 0x10 ∨ p.h.opc = 0x11 then countRxDrop false (lookedUp p.h.dest port frame s)
    else park p (lookedUp p.h.dest port frame s) := by
  have hn : ¬2 ^ 20 ≤ p.h.dest := by omega
  simp only [receivePacket, hp, hb, hw, hu, hn, Bool.and_false, Bool.not_true, Bool.or_self, Bool.false_eq_true, if_false]
  rw [sliceLookup_miss (s := takeInbox port frame s) hc]
  rfl

end

/-! ### Against the context -/

theorem openPacket_of_cip {t : State} (hcip : t.cip = s.cip) (v : Qp) : openPacket t v p = openPacket s v p := by
  have hk : keySlot t = keySlot s := by
    funext n
    rw [keySlot, hcip, keySlot]
  unfold openPacket
  rw [hk]

section
variable {t : State} (hv : qpOf t p.h.dest = qpOf s p.h.dest)
include hv

theorem checkContext_dropped (h : badTarget (qpOf s p.h.dest) p = true ∨
    ((qpOf s p.h.dest).created = true ∧ qpMtu (qpOf s p.h.dest) < p.h.len)) : checkContext p act t = countRxDrop true t := by
  rcases h with h | ⟨h1, h2⟩
  · simp [checkContext, hv, h]
  · simp [checkContext, hv, h1, h2]

variable (hbad : badTarget (qpOf s p.h.dest) p = false) (hlen : p.h.len ≤ qpMtu (qpOf s p.h.dest))
include hbad hlen

/-- A packet that fits its queue pair is opened under the queue pair's key, and then has its effect. -/
theorem checkContext_opened (hcip : t.cip = s.cip) {d : List Byte} (ho : openPacket s (qpOf s p.h.dest) p = some d) :
    checkContext p act t = act p.h.dest { p with payload := d } t := by
  rw [← openPacket_of_cip hcip] at ho
  simp [checkContext, hv, hbad, Nat.not_lt.mpr hlen, ho]

theorem checkContext_unverified (hcip : t.cip = s.cip) (ho : openPacket s (qpOf s p.h.dest) p = none) :
    checkContext p act t = countGcmDrop t := by
  rw [← openPacket_of_cip hcip] at ho
  simp [checkContext, hv, hbad, Nat.not_lt.mpr hlen, ho]

end

/-! ### Parking -/

/-- A packet that its port's buffer and its queue pair's share have room for is parked. -/
theorem parked_park (hb : parkedBytes s p.port + ceilDiv p.bytes 64 * 64 ≤ 2 ^ 22)
    (hn : (s.sht.parked.filter fun x => x.qp == p.h.dest).length < 16) : (park p s).sht.parked = s.sht.parked ++
      [{ port := p.port, qp := p.h.dest, frame := p.frame, bytes := ceilDiv p.bytes 64 * 64, ext := p.ext }] := by
  have hgo : ¬(parkedBytes s p.port + ceilDiv p.bytes 64 * 64 > 2 ^ 22 ∨
      (s.sht.parked.filter fun x => x.qp == p.h.dest).length ≥ 16) := by omega
  simp only [park, if_neg hgo, parkCnt, bump_sht]

theorem pushDone_park : (park p s).sht.pushDone = s.sht.pushDone := by
  simp only [park]
  split
  · rfl
  · simp only [parkCnt, bump_sht]

end

theorem parkedBytes_of_parked {s t : State} (h : t.sht.parked = s.sht.parked) (k : Nat) : parkedBytes t k = parkedBytes s k := by
  simp only [parkedBytes, h]

/-- The transport's part of what a Shuttle step leaves, where no push of a Reed engine has ended. -/
theorem shtEnded_sht {s t : State} (h : t.sht.pushDone = []) : (shtEnded s t).sht = t.sht := by
  rw [shtEnded, reedNotice_quiet h, ended_sht]

/-! ## The rows -/

/-- What a row of a received packet does: it takes the frames of its kind, and their effect is its own. -/
structure ReceiveRow (k : (Nat → List Byte → List ExtRead → Instr) × (ShtHdr → Bool) × (Nat → RxPkt → State → State)) : Prop where
  exec : ∀ port frame ext s, exec (k.1 port frame ext) s =
    .next (shtEnded s (receivePacket k.2.1 packetEffect port frame ext s))
  effect : ∀ q p s, k.2.1 p.h = true → packetEffect q p s = k.2.2 q p s

theorem isOpc_iff (n : Nat) (h : ShtHdr) : isOpc n h = true ↔ h.opc = n ∧ isAbandon h = false := by simp [isOpc]

section
variable {k : (Nat → List Byte → List ExtRead → Instr) × (ShtHdr → Bool) × (Nat → RxPkt → State → State)} (hk : ReceiveRow k)
  {port : Nat} {frame : List Byte} {ext : List ExtRead} {s : State} {p : RxPkt}
  (hp : readPacket s port frame ext = some (p, true)) (hb : badHeader p = false) (hw : k.2.1 p.h = true)
  (hd : p.h.dest < 2 ^ 20) (hu : unitHolds s (serving s p.h.dest) 1 p.h.dest = false)
include hk hp hb hw hd hu

theorem ReceiveRow.hit (hc : cached s p.h.dest = true) :
    (∀ d, badTarget (qpOf s p.h.dest) p = false → p.h.len ≤ qpMtu (qpOf s p.h.dest) →
      openPacket s (qpOf s p.h.dest) p = some d → Machine.exec (k.1 port frame ext) s = .next (shtEnded s
        (k.2.2 p.h.dest { p with payload := d } (lookedUp p.h.dest port frame s)))) ∧
    (badTarget (qpOf s p.h.dest) p = true ∨ ((qpOf s p.h.dest).created = true ∧ qpMtu (qpOf s p.h.dest) < p.h.len) →
      Machine.exec (k.1 port frame ext) s = .next (shtEnded s (countRxDrop true (lookedUp p.h.dest port frame s)))) ∧
    (badTarget (qpOf s p.h.dest) p = false → p.h.len ≤ qpMtu (qpOf s p.h.dest) → openPacket s (qpOf s p.h.dest) p = none →
      Machine.exec (k.1 port frame ext) s = .next (shtEnded s (countGcmDrop (lookedUp p.h.dest port frame s)))) := by
  have hit : HitsSlice (takeInbox port frame s) (lookedUp p.h.dest port frame s) :=
    sliceLookup_hit_frame (s := takeInbox port frame s) hc
  have hv : qpOf (lookedUp p.h.dest port frame s) p.h.dest = qpOf s p.h.dest := hit.qpOf _
  rw [hk.exec, receivePacket_hit hp hb hw hd hu hc]
  refine ⟨fun d hbad hlen ho => ?_, fun h => by rw [checkContext_dropped hv h], fun hbad hlen ho => ?_⟩
  · rw [checkContext_opened hv hbad hlen hit.cip ho]
    rw [hk.effect p.h.dest { p with payload := d } _ hw]
  · rw [checkContext_unverified hv hbad hlen hit.cip ho]

theorem ReceiveRow.miss (hc : cached s p.h.dest = false) :
    (p.h.opc = 0x10 ∨ p.h.opc = 0x11 → Machine.exec (k.1 port frame ext) s = .next (shtEnded s
      (countRxDrop false (lookedUp p.h.dest port frame s)))) ∧
    (p.h.opc ≠ 0x10 → p.h.opc ≠ 0x11 → Machine.exec (k.1 port frame ext) s = .next (shtEnded s
      (park p (lookedUp p.h.dest port frame s)))) := by
  rw [hk.exec, receivePacket_miss hp hb hw hd hu hc]
  exact ⟨fun h => by rw [if_pos h], fun h0 h1 => by rw [if_neg (not_or.mpr ⟨h0, h1⟩)]⟩

end

/-- What is parked after a miss stands last. -/
theorem parked_after_miss {s : State} {port : Nat} {frame : List Byte} {ext : List ExtRead} {p : RxPkt}
    (hp : readPacket s port frame ext = some (p, true)) (hc : cached s p.h.dest = false) (hs : calm s)
    (hroom : parkedBytes s port + ceilDiv p.bytes 64 * 64 ≤ 2 ^ 22)
    (hn : (s.sht.parked.filter fun x => x.qp == p.h.dest).length < 16) :
    (shtEnded s (park p (lookedUp p.h.dest port frame s))).sht.parked = s.sht.parked ++
      [{ port := port, qp := p.h.dest, frame := frame, bytes := ceilDiv p.bytes 64 * 64, ext := ext }] := by
  have miss : FetchesContext (takeInbox port frame s) (lookedUp p.h.dest port frame s) :=
    sliceLookup_miss_frame (s := takeInbox port frame s) hc
  have hparked : (lookedUp p.h.dest port frame s).sht.parked = s.sht.parked := miss.parked
  obtain ⟨hport, hframe, hext⟩ := readPacket_fields hp
  rw [shtEnded_sht (pushDone_park.trans (miss.pushDone.trans hs.2)), parked_park, hparked, hport, hframe, hext]
  · rwa [parkedBytes_of_parked hparked, hport]
  · rwa [hparked]

/-- Settles O32: every row takes its frames through the same checks, and by its packet's opcode its effect is its own. -/
theorem receivedPacketsAreChecked : Obligations.ReceivedPacketsAreChecked := by
  intro k hk port frame ext s p
  have row : ReceiveRow k := by
    simp only [List.mem_cons, List.not_mem_nil, or_false] at hk
    rcases hk with rfl | rfl | rfl | rfl | rfl | rfl | rfl | rfl | rfl | rfl | rfl | rfl | rfl | rfl
    all_goals
      refine ⟨fun _ _ _ _ => rfl, fun q p s hw => ?_⟩
      simp only [isOpc_iff, Bool.and_eq_true, bne_iff_ne, beq_iff_eq, Bool.not_eq_true'] at hw
      simp only [packetEffect, hw, false_and, Bool.not_false, and_self, if_true, if_false]
  refine ⟨fun hp => by rw [row.exec, receivePacket_wrong_crc hp], fun hp => ⟨fun hb => ?_, fun hb hw hd => ?_,
    fun hb hw hd hu => ⟨row.hit hp hb hw hd hu, fun hc => ?_⟩⟩⟩
  · rw [row.exec, receivePacket_badHeader hp hb]
  · rw [row.exec, receivePacket_no_queue_pair hp hb hw hd]
  · obtain ⟨hdrop, hpark⟩ := row.miss hp hb hw hd hu hc
    exact ⟨hdrop, fun h0 h1 => ⟨_, hpark h0 h1, rfl, fun hs hroom hn => parked_after_miss hp hc hs hroom hn⟩⟩

end Sys2Proof.Machine
end

section
/-! PROOFS. How a command of a queue pair starts (R120, R129, R190, R191). -/

namespace Sys2Proof.Machine

/-! ## The state a started command finds -/

/-- A command has started and its queue pair's context has been found: the processors' part of the state, the counters and the slice's
order of use differ, and nothing else. -/
def Prepared (s t : State) : Prop :=
  t = { s with jcq := t.jcq, cnt := t.cnt, sht := { s.sht with cache := t.sht.cache, slice := t.sht.slice } }

theorem prepared_turn (c : Cmd) (s : State) : Prepared s (turn c s) := rfl
theorem prepared_begun (c : Cmd) (s : State) : Prepared s (begun c s) := rfl

theorem Prepared.lookup {s t : State} {q : Nat} (h : Prepared s t) (hc : cached t q = true) : Prepared s (sliceLookup q t).2 := by
  have e := congrArg (fun x : State => { x with
    jcq := (sliceLookup q t).2.jcq, cnt := (sliceLookup q t).2.cnt
    sht := { x.sht with cache := (sliceLookup q t).2.sht.cache, slice := (sliceLookup q t).2.sht.slice } }) h
  have k : (sliceLookup q t).2 = { t with
    jcq := (sliceLookup q t).2.jcq, cnt := (sliceLookup q t).2.cnt
    sht := { t.sht with cache := (sliceLookup q t).2.sht.cache, slice := (sliceLookup q t).2.sht.slice } } := by
    rw [sliceLookup_hit_frame hc]
  exact Eq.trans k e

section
variable {s t : State} (h : Prepared s t)
include h

theorem Prepared.undisturbed : Undisturbed s t := by
  rw [h]
  exact ⟨rfl, rfl, rfl, rfl, rfl, rfl⟩

theorem Prepared.qpOf (q : Nat) : qpOf t q = qpOf s q := by rw [h]; rfl
theorem Prepared.pushDone : t.sht.pushDone = s.sht.pushDone := by rw [h]
theorem Prepared.opsOf (q : Nat) : opsOf t q = opsOf s q := by rw [h]; rfl
theorem Prepared.subAssigned (k i p : Nat) : subAssigned t k i p = subAssigned s k i p := by rw [h]; rfl
theorem Prepared.slotOwned (p n : Nat) : slotOwned t p n = slotOwned s p n := by rw [h]; rfl
theorem Prepared.qpHeld (q : Nat) : qpHeld t q = qpHeld s q := by rw [h]; rfl
theorem Prepared.objectUnit (n : Nat) : objectUnit t n = objectUnit s n := by rw [h]; rfl
theorem Prepared.procUnit (c : Cmd) : procUnit t c = procUnit s c := by rw [h]; rfl
theorem Prepared.opFails (c : Cmd) (q : Nat) : opFails c t q = opFails c s q := by rw [h]; rfl
theorem Prepared.armQp (q : Nat) (v : Qp) : armQp t q v = armQp s q v := by rw [h]; rfl

end

/-! ## The start of a command -/

theorem checked_passes {c : Cmd} {fails : List (Bool × Status)} (h : firstFail fails = none) (s : State) (run : State → State) :
    checked c fails s run = run s := by simp only [checked, h]

theorem checked_fails {c : Cmd} {fails : List (Bool × Status)} {st : Status} (h : firstFail fails = some st) (s : State)
    (run : State → State) : checked c fails s run = complete c st [] (procUnit s c) s := by simp only [checked, h]

section
variable {c : Cmd} {s : State} {q : Nat} (fails : State → Nat → List (Bool × Status)) (run : Nat → State → State)

theorem withQp_unnamed (h : namedQp s c = none) : withQp c fails run s = complete c .bounds [] (procUnit s c) s := by
  rw [namedQp] at h
  simp only [withQp, h]

theorem withQp_waits (h : namedQp s c = some q) (hc : cached s q = false) :
    withQp c fails run s = waitCtx c (sliceLookup q s).2 := by
  rw [namedQp] at h
  simp only [withQp, h]
  rw [sliceLookup_miss hc]

theorem withQp_checks (h : namedQp s c = some q) (hc : cached s q = true) :
    withQp c fails run s = checked c (fails (sliceLookup q s).2 q) (sliceLookup q s).2 (run q) := by
  rw [namedQp] at h
  simp only [withQp, h]
  rw [sliceLookup_hit hc]

variable {d : OpDesc} (ha : admits d c s)
include ha

theorem qpOrdered_held (hh : qpHeldUp c s = true) : qpOrdered d c fails run s = holdCmd c s := by
  simp [qpOrdered, orderCmd, ha.1, ha.2, hh]

theorem qpOrdered_turn (hh : qpHeldUp c s = false) : qpOrdered d c fails run s = withQp c fails run (turn c s) := by
  simp only [qpOrdered, orderCmd, hh, Bool.and_false, Bool.false_eq_true, if_false, takeCmd_admits ha]
  rfl

end

/-- A command that names no queue pair of its partition is held up by none. -/
theorem qpHeldUp_unnamed {c : Cmd} {s : State} (h : namedQp s c = none) : qpHeldUp c s = false := by simp only [qpHeldUp, h]

/-! ## A step that disturbs nothing -/

/-- Between calm states, a Shuttle step that raises no report and ends no push of a Reed engine leaves exactly its effect. -/
theorem shtEnded_undisturbed {s t : State} (hs : calm s) (hu : Undisturbed s t) (hp : t.sht.pushDone = s.sht.pushDone) :
    shtEnded s t = t := by
  have he := ends_undisturbed hs.1 hu
  simp only [ends, Host.Outcome.next.injEq] at he
  rw [shtEnded, reedNotice_quiet (hp.trans hs.2), he]

/-- The processors' part of a completion follows theirs alone. -/
theorem completeRef_jcq_congr {s t : State} (h : t.jcq = s.jcq) (r : CmdRef) (st : Status) (res : List Nat) (unit : Nat) :
    (completeRef r st res unit t).jcq = (completeRef r st res unit s).jcq := by
  unfold completeRef
  rw [h]
  split <;> simp only [h]

@[simp] theorem completeRef_sht (r : CmdRef) (st : Status) (res : List Nat) (unit : Nat) (s : State) :
    (completeRef r st res unit s).sht = s.sht := by rw [completeRef_frame]

theorem qpOf_of_sht {s t : State} (h : t.sht.qp = s.sht.qp) (q : Nat) : qpOf t q = qpOf s q := by rw [qpOf, h, qpOf]

@[simp] theorem qpOf_completeRef (r : CmdRef) (st : Status) (res : List Nat) (unit : Nat) (s : State) (q : Nat) :
    qpOf (completeRef r st res unit s) q = qpOf s q := qpOf_of_sht (by rw [completeRef_sht]) q

@[simp] theorem qpOf_complete (c : Cmd) (st : Status) (res : List Nat) (unit : Nat) (s : State) (q : Nat) :
    qpOf (complete c st res unit s) q = qpOf s q := qpOf_completeRef _ _ _ _ s q

theorem setQp_undisturbed (q : Nat) (v : Qp) (s : State) : Undisturbed s (setQp q v s) := ⟨rfl, rfl, rfl, rfl, rfl, rfl⟩

end Sys2Proof.Machine
end

section
/-! PROOFS. How the work of a queue pair ends: operations, RECVs, and the state ERROR (R135 to R137, R140). -/

namespace Sys2Proof.Machine

theorem foldl_related_mem {β : Type} {R : State → State → Prop} {f : State → β → State} (refl : ∀ s, R s s)
    (trans : ∀ {s t u}, R s t → R t u → R s u) (l : List β) (h : ∀ s, ∀ b ∈ l, R s (f s b)) (s : State) : R s (l.foldl f s) := by
  induction l generalizing s with
  | nil => exact refl s
  | cons b r ih => exact trans (h s b List.mem_cons_self) (ih (fun s b hb => h s b (List.mem_cons_of_mem _ hb)) _)

/-! ## What ending work can change -/

/-- Ending the work of a queue pair changes the queue pairs, their operations, the pushes that have ended and the processors' part of
the state, and an outcome given stays given. -/
structure EndsWork (s t : State) : Prop where
  frame : t = { s with jcq := t.jcq, sht := { s.sht with qp := t.sht.qp, ops := t.sht.ops, pushDone := t.sht.pushDone } }
  done : ∀ d ∈ s.jcq.done, d ∈ t.jcq.done

theorem EndsWork.refl (s : State) : EndsWork s s := ⟨rfl, fun _ => id⟩

theorem EndsWork.trans {s t u : State} (h : EndsWork s t) (k : EndsWork t u) : EndsWork s u := by
  have e := congrArg (fun x : State => { x with
    jcq := u.jcq, sht := { x.sht with qp := u.sht.qp, ops := u.sht.ops, pushDone := u.sht.pushDone } }) h.frame
  exact ⟨Eq.trans k.frame e, fun d hd => k.done d (h.done d hd)⟩

theorem EndsWork.undisturbed {s t : State} (h : EndsWork s t) : Undisturbed s t := by
  rw [h.frame]
  exact ⟨rfl, rfl, rfl, rfl, rfl, rfl⟩

theorem EndsWork.sht {s t : State} (h : EndsWork s t) :
    t.sht = { s.sht with qp := t.sht.qp, ops := t.sht.ops, pushDone := t.sht.pushDone } := congrArg (·.sht) h.frame

theorem setQp_endsWork (q : Nat) (v : Qp) (s : State) : EndsWork s (setQp q v s) := ⟨rfl, fun _ => id⟩
theorem dropOp_endsWork (id : Nat) (s : State) : EndsWork s (dropOp id s) := ⟨rfl, fun _ hd => hd⟩

theorem completeRef_endsWork (r : CmdRef) (st : Status) (res : List Nat) (unit : Nat) (s : State) :
    EndsWork s (completeRef r st res unit s) := by
  refine ⟨by rw [completeRef_frame], fun d hd => ?_⟩
  unfold completeRef
  split
  · exact hd
  · exact List.mem_append_left _ hd

theorem checkDrain_endsWork (q : Nat) (s : State) : EndsWork s (checkDrain q s) := by
  unfold checkDrain
  split
  · split
    · exact .refl s
    · exact .trans (setQp_endsWork q _ s) (completeRef_endsWork _ _ _ _ _)
  · exact .refl s

/-- A push of a Reed engine that has ended is noted. -/
def pushNoted (id : Nat) (st : Status) (s : State) : State :=
  { s with sht := { s.sht with pushDone := s.sht.pushDone ++ [(id, st)] } }

theorem pushNoted_endsWork (id : Nat) (st : Status) (s : State) : EndsWork s (pushNoted id st s) := ⟨rfl, fun _ hd => hd⟩

theorem endOp_command {o : SendOp} {r : CmdRef} (h : o.cmd = some r) (st : Status) (s : State) :
    endOp o st s = checkDrain o.qp (completeRef r st (if st = .ok then opResult o else []) (serving (dropOp o.id s) o.qp)
      (dropOp o.id s)) := by simp only [endOp, h]

theorem endOp_push {o : SendOp} (h : o.cmd = none) (st : Status) (s : State) :
    endOp o st s = checkDrain o.qp (pushNoted o.id st (dropOp o.id s)) := by
  simp only [endOp, h]
  rfl

theorem endOp_endsWork (o : SendOp) (st : Status) (s : State) : EndsWork s (endOp o st s) := by
  cases h : o.cmd with
  | some r =>
    rw [endOp_command h]
    exact ((dropOp_endsWork _ s).trans (completeRef_endsWork _ _ _ _ _)).trans (checkDrain_endsWork _ _)
  | none =>
    rw [endOp_push h]
    exact ((dropOp_endsWork _ s).trans (pushNoted_endsWork _ _ _)).trans (checkDrain_endsWork _ _)

/-! ## The rules of one end -/

theorem checkDrain_none {q : Nat} {s : State} (h : (qpOf s q).drainWait = none) : checkDrain q s = s := by
  simp only [checkDrain, h]

/-- Only a queue pair that drains is touched by the end of one of its operations. -/
theorem endOp_qp {o : SendOp} {s : State} (h : (qpOf s o.qp).drainWait = none) (st : Status) :
    (endOp o st s).sht.qp = s.sht.qp := by
  cases ho : o.cmd with
  | some r =>
    rw [endOp_command ho, checkDrain_none (by rw [qpOf_completeRef]; exact h), completeRef_sht]
    rfl
  | none =>
    rw [endOp_push ho, checkDrain_none (by rw [qpOf_of_sht (t := pushNoted o.id st (dropOp o.id s)) (s := s) rfl]; exact h)]
    rfl

theorem checkDrain_pushDone (q : Nat) (s : State) : (checkDrain q s).sht.pushDone = s.sht.pushDone := by
  unfold checkDrain
  split
  · split
    · rfl
    · rw [completeRef_sht]
      rfl
  · rfl

/-- An operation of a command ends with its completion, and is no push of a Reed engine. -/
theorem endOp_pushDone {o : SendOp} (h : o.cmd ≠ none) (st : Status) (s : State) : (endOp o st s).sht.pushDone = s.sht.pushDone := by
  obtain ⟨r, hr⟩ := Option.ne_none_iff_exists'.mp h
  rw [endOp_command hr, checkDrain_pushDone, completeRef_sht]
  rfl

/-! ## The state ERROR (R137) -/

/-- A queue pair in ERROR: its transport state is cleared. -/
def errored (code : Nat) (v : Qp) : Qp := { quiet v with state := .error, errStatus := BitVec.ofNat 8 code }

/-- The operations of a queue pair that goes to ERROR end: with its status the one at fault, the others ABORTED. -/
def failOps (st : Status) (culprit : Option Nat) (ops : List SendOp) (s : State) : State :=
  ops.foldl (fun s o => if o.code = 0x0320 ∧ o.closed then dropOp o.id s
    else endOp o (if culprit = some o.id then st else .aborted) s) s

/-- RECVs whose messages have ended but were not told of complete. -/
def endTold (q : Nat) (msgs : List RxMsg) (s : State) : State :=
  (msgs.filter fun m => !m.told).foldl (fun s m =>
    match m.done with | some (st, res) => endRecv q m.recv st res s | none => s) s

/-- The RECVs of a queue pair that goes to ERROR end. -/
def failRecvs (q : Nat) (st : Status) (recv : Option CmdRef) (recvs : List Recv) (s : State) : State :=
  recvs.foldl (fun s r => endRecv q r (if recv = some r.cmd then st else .aborted) [] s) s

/-- The NVMe commands of a queue pair that goes to ERROR end. -/
def failNvme (q : Nat) (st : Status) (own : Option CmdRef) (cmds : List NvmeCmd) (s : State) : State :=
  cmds.foldl (fun s n => completeRef n.cmd (if own = some n.cmd then st else .aborted) [] (serving s q) s) s

/-- A QP_MODIFY to DRAIN of a queue pair that goes to ERROR ends. -/
def failDrain (q : Nat) (wait : Option (CmdRef × List Nat)) (s : State) : State :=
  match wait with
  | some (r, _) => completeRef r .aborted [] (objectUnit s q) s
  | none => s

/-- The work of a queue pair that goes to ERROR ends. -/
def failWork (q : Nat) (st : Status) (culprit : Option Nat) (recv : Option CmdRef) (v : Qp) (ops : List SendOp) (s : State) : State :=
  failDrain q v.drainWait (failNvme q st ((ops.find? fun o => culprit == some o.id).bind (·.cmd)) v.nvme
    (failRecvs q st recv (recvsOut v) (endTold q v.msgs (failOps st culprit ops s))))

theorem toError_eq (q : Nat) (st : Status) (culprit : Option Nat) (recv : Option CmdRef) (s : State) :
    toError q st culprit recv s =
      failWork q st culprit recv (qpOf s q) (opsOf s q) (setQp q (errored (statusCode st) (qpOf s q)) s) := rfl

/-- What dropping an operation, ending one and completing a command keep, the end of a queue pair's work keeps. -/
theorem failWork_related {R : State → State → Prop} (refl : ∀ s, R s s) (trans : ∀ {s t u}, R s t → R t u → R s u)
    (complete : ∀ r st res unit s, R s (completeRef r st res unit s)) {ops : List SendOp} (drop : ∀ s, ∀ o ∈ ops, R s (dropOp o.id s))
    (finish : ∀ s, ∀ o ∈ ops, ∀ st, R s (endOp o st s)) (q : Nat) (st : Status) (culprit : Option Nat) (recv : Option CmdRef)
    (v : Qp) (s : State) : R s (failWork q st culprit recv v ops s) := by
  have hend : ∀ r st res s, R s (endRecv q r st res s) := fun _ _ _ _ => complete _ _ _ _ _
  have hops : ∀ s, R s (failOps st culprit ops s) := foldl_related_mem refl trans ops fun s o ho => by
    split
    · exact drop s o ho
    · exact finish s o ho _
  have hmsgs : ∀ s, R s (endTold q v.msgs s) := foldl_related_mem refl trans _ fun s m _ => by
    split
    · exact hend _ _ _ s
    · exact refl s
  have hrecvs : ∀ s, R s (failRecvs q st recv (recvsOut v) s) :=
    foldl_related_mem refl trans _ fun s r _ => hend r _ _ s
  have hnvme : ∀ own s, R s (failNvme q st own v.nvme s) := fun own =>
    foldl_related_mem refl trans _ fun s n _ => complete n.cmd _ _ _ s
  have hdrain : ∀ s, R s (failDrain q v.drainWait s) := fun s => by
    unfold failDrain
    split
    · exact complete _ _ _ _ _
    · exact refl _
  exact trans (hops s) (trans (hmsgs _) (trans (hrecvs _) (trans (hnvme _ _) (hdrain _))))

section
variable (q : Nat) (st : Status) (culprit : Option Nat) (recv : Option CmdRef) (s : State)

theorem toError_endsWork : EndsWork s (toError q st culprit recv s) := by
  rw [toError_eq]
  exact (setQp_endsWork q _ s).trans (failWork_related .refl .trans completeRef_endsWork (fun s o _ => dropOp_endsWork o.id s)
    (fun s o _ st => endOp_endsWork o st s) _ _ _ _ _ _)

theorem mem_opsOf {o : SendOp} : o ∈ opsOf s q ↔ o ∈ s.sht.ops ∧ o.qp = q := by simp [opsOf]

/-- Of all queue pairs, only the one that goes to ERROR changes. -/
theorem toError_qp : (toError q st culprit recv s).sht.qp = (setQp q (errored (statusCode st) (qpOf s q)) s).sht.qp := by
  rw [toError_eq]
  refine failWork_related (R := fun s t => (qpOf s q).drainWait = none → t.sht.qp = s.sht.qp) (fun _ _ => rfl)
    (fun h k hs => (k (by rw [qpOf_of_sht (h hs)]; exact hs)).trans (h hs)) (fun _ _ _ _ _ _ => by rw [completeRef_sht])
    (fun _ _ _ _ => rfl) (fun s' o ho st hs => ?_) _ _ _ _ _ _ (by rw [qpOf_setQp]; rfl)
  exact endOp_qp (by rwa [((mem_opsOf q s).mp ho).2]) st

@[simp] theorem qpOf_toError : qpOf (toError q st culprit recv s) q = errored (statusCode st) (qpOf s q) := by
  rw [qpOf_of_sht (toError_qp q st culprit recv s), qpOf_setQp]

theorem qpOf_toError_other (x : Nat) (hx : x ≠ q) : qpOf (toError q st culprit recv s) x = qpOf s x := by
  rw [qpOf_of_sht (toError_qp q st culprit recv s), qpOf_setQp_other _ _ _ _ hx]

/-- Where every operation is a command's, no push of a Reed engine ends. -/
theorem toError_pushDone (h : ∀ o ∈ opsOf s q, o.cmd ≠ none) : (toError q st culprit recv s).sht.pushDone = s.sht.pushDone := by
  rw [toError_eq]
  exact failWork_related (R := fun s t => t.sht.pushDone = s.sht.pushDone) (fun _ => rfl) (fun h k => k.trans h)
    (fun _ _ _ _ _ => by rw [completeRef_sht]) (fun _ _ _ => rfl) (fun s' o ho st => endOp_pushDone (h o ho) st s') _ _ _ _ _ _

end

end Sys2Proof.Machine
end

section
/-! PROOFS. The management commands of a queue pair (R129, R135, R138, R139, R190, R191). -/

namespace Sys2Proof.Machine

/-! ## What a command on one queue pair leaves alone -/

/-- A step on one queue pair: no report is raised, no push of a Reed engine ends, and no other queue pair changes. -/
structure QpStep (q : Nat) (s t : State) : Prop where
  undisturbed : Undisturbed s t
  pushDone : t.sht.pushDone = s.sht.pushDone
  others : ∀ x, x ≠ q → qpOf t x = qpOf s x

theorem QpStep.refl (q : Nat) (s : State) : QpStep q s s := ⟨.refl s, rfl, fun _ _ => rfl⟩

theorem QpStep.trans {q : Nat} {s t u : State} (h : QpStep q s t) (k : QpStep q t u) : QpStep q s u :=
  ⟨h.undisturbed.trans k.undisturbed, k.pushDone.trans h.pushDone, fun x hx => (k.others x hx).trans (h.others x hx)⟩

theorem Prepared.qpStep {s t : State} (h : Prepared s t) (q : Nat) : QpStep q s t :=
  ⟨h.undisturbed, h.pushDone, fun x _ => h.qpOf x⟩

theorem setQp_qpStep (q : Nat) (v : Qp) (s : State) : QpStep q s (setQp q v s) :=
  ⟨setQp_undisturbed q v s, rfl, fun x hx => qpOf_setQp_other s q v x hx⟩

theorem modQp_qpStep (q : Nat) (f : Qp → Qp) (s : State) : QpStep q s (modQp q f s) := setQp_qpStep q _ s

theorem completeRef_qpStep (q : Nat) (r : CmdRef) (st : Status) (res : List Nat) (unit : Nat) (s : State) :
    QpStep q s (completeRef r st res unit s) :=
  ⟨completeRef_undisturbed r st res unit s, by rw [completeRef_sht], fun x _ => qpOf_completeRef r st res unit s x⟩

theorem complete_qpStep (q : Nat) (c : Cmd) (st : Status) (res : List Nat) (unit : Nat) (s : State) :
    QpStep q s (complete c st res unit s) := completeRef_qpStep q _ st res unit s

theorem checkDrain_qpStep (q : Nat) (s : State) : QpStep q s (checkDrain q s) := by
  unfold checkDrain
  split
  · split
    · exact .refl q s
    · exact (modQp_qpStep q _ s).trans (completeRef_qpStep q _ _ _ _ _)
  · exact .refl q s

theorem toError_qpStep {q : Nat} {s : State} (h : ∀ o ∈ opsOf s q, o.cmd ≠ none) (st : Status) (culprit : Option Nat)
    (recv : Option CmdRef) : QpStep q s (toError q st culprit recv s) :=
  ⟨(toError_endsWork q st culprit recv s).undisturbed, toError_pushDone q st culprit recv s h,
    fun x hx => qpOf_toError_other q st culprit recv s x hx⟩

theorem freeAtomBlock_qpStep (q : Nat) (s : State) : QpStep q s (freeAtomBlock q s) :=
  ⟨⟨rfl, rfl, rfl, rfl, rfl, rfl⟩, rfl, fun _ _ => rfl⟩

theorem forgetFaults_qpStep (q : Nat) (s : State) : QpStep q s (forgetFaults q s) :=
  ⟨⟨rfl, rfl, rfl, rfl, rfl, rfl⟩, rfl, fun _ _ => rfl⟩

/-! ## Starting a management command -/

theorem found_turn {c : Cmd} {s : State} {q : Nat} (hc : cached s q = true) : Prepared s (sliceLookup q (turn c s)).2 :=
  (prepared_turn c s).lookup hc

theorem sliceLookup_hit_jcq {s : State} {q : Nat} (h : cached s q = true) : (sliceLookup q s).2.jcq = s.jcq := by
  rw [sliceLookup_hit_frame h]

section
variable {d : OpDesc} {c : Cmd} {s : State} {q : Nat} (ha : admits d c s) (hh : qpHeldUp c s = false)
  (fails : State → Nat → List (Bool × Status)) (run : Nat → State → State)
include ha

theorem qpOrdered_unnamed (hn : namedQp s c = none) :
    qpOrdered d c fails run s = complete c .bounds [] (procUnit s c) (turn c s) := by
  rw [qpOrdered_turn fails run ha (qpHeldUp_unnamed hn)]
  exact withQp_unnamed fails run hn

include hh

theorem qpOrdered_waits (hn : namedQp s c = some q) (hc : cached s q = false) :
    qpOrdered d c fails run s = waitCtx c (sliceLookup q (turn c s)).2 := by
  rw [qpOrdered_turn fails run ha hh]
  exact withQp_waits fails run hn hc

theorem qpOrdered_checks (hn : namedQp s c = some q) (hc : cached s q = true) :
    qpOrdered d c fails run s =
      checked c (fails (sliceLookup q (turn c s)).2 q) (sliceLookup q (turn c s)).2 (run q) := by
  rw [qpOrdered_turn fails run ha hh]
  exact withQp_checks fails run hn hc

theorem qpOrdered_passes (hn : namedQp s c = some q) (hc : cached s q = true)
    (hf : firstFail (fails (sliceLookup q (turn c s)).2 q) = none) :
    qpOrdered d c fails run s = run q (sliceLookup q (turn c s)).2 := by
  rw [qpOrdered_checks ha hh fails run hn hc, checked_passes hf]

theorem qpOrdered_fails (hn : namedQp s c = some q) (hc : cached s q = true) {st : Status}
    (hf : firstFail (fails (sliceLookup q (turn c s)).2 q) = some st) :
    qpOrdered d c fails run s = complete c st [] (procUnit s c) (sliceLookup q (turn c s)).2 := by
  rw [qpOrdered_checks ha hh fails run hn hc, checked_fails hf, (found_turn hc).procUnit]

end

/-! ## QP_CREATE -/

section
variable {c : Cmd} {s : State} {q : Nat} {a : Qp} (ha : admits descQpCreate c s) (hn : namedQp s c = some q)
  (hc : cached s q = true) (hh : qpHeldUp c s = false)
include ha hn hc hh

theorem qpCreate_busy (h : (qpOf s q).created = true) :
    qpCreate c s = complete c .busy [] (procUnit s c) (sliceLookup q (turn c s)).2 :=
  qpOrdered_fails ha hh _ _ hn hc (by rw [(found_turn hc).qpOf, h]; rfl)

theorem qpCreate_done (hnew : (qpOf s q).created = false) (hcodes : badCodes (archArg c 16) = false)
    (hA : badA (qpMode (archArg c 16)) (archArg c 16) = false)
    (hroce : qpMode (archArg c 16) ≠ 0 → qpEnc (archArg c 16) = false ∧ archField (archArg c 16) 0 14 2 ≠ 3 ∧ qpUd (archArg c 16) = false)
    (hnvme : qpMode (archArg c 16) = 2 → 2 ≤ qpNvmeSize (archArg c 16))
    (hsub : subAssigned s (qpPort (archArg c 16)) (qpSub (archArg c 16)) c.part = true)
    (hslot : qpEnc (archArg c 16) = true → slotOwned s c.part (qpSlot (archArg c 16)) = true) :
    qpCreate c s = complete c .ok [q] (objectUnit s q) (setQp q
      { created := true, state := .init, arch := (archArg c 16).arch &&& (maskL ||| maskR ||| maskA) }
      (if qpEnc (archArg c 16) then addRef (qpSlot (archArg c 16)) (sliceLookup q (turn c s)).2
        else (sliceLookup q (turn c s)).2)) := by
  have hp := found_turn (c := c) hc
  have hmode : ((qpMode (archArg c 16) != 0 && (qpEnc (archArg c 16) || archField (archArg c 16) 0 14 2 == 3 || qpUd (archArg c 16))) ||
      (qpMode (archArg c 16) == 2 && decide (qpNvmeSize (archArg c 16) < 2))) = false := by
    simp only [Bool.or_eq_false_iff, Bool.and_eq_false_imp, bne_iff_ne, beq_iff_eq, beq_eq_false_iff_ne, decide_eq_false_iff_not,
      Nat.not_lt]
    exact ⟨fun h => ⟨⟨(hroce h).1, (hroce h).2.1⟩, (hroce h).2.2⟩, hnvme⟩
  have hown : (!subAssigned s (qpPort (archArg c 16)) (qpSub (archArg c 16)) c.part ||
      (qpEnc (archArg c 16) && !slotOwned s c.part (qpSlot (archArg c 16)))) = false := by
    rw [hsub]
    cases he : qpEnc (archArg c 16) with
    | false => rfl
    | true => rw [hslot he]; rfl
  refine (qpOrdered_passes ha hh _ _ hn hc ?_).trans ?_
  · simp only [hp.qpOf, hp.subAssigned, hp.slotOwned, hnew, hcodes, hA, hmode, hown, firstFail, Bool.false_eq_true, if_false]
  · have hu : qpOwner (if qpEnc (archArg c 16) then addRef (qpSlot (archArg c 16)) (sliceLookup q (turn c s)).2
        else (sliceLookup q (turn c s)).2) q = objectUnit s q := by
      split <;> exact hp.objectUnit q
    simp only [hu]

end

/-! ## QP_MODIFY -/

section
variable {c : Cmd} {s : State} {q : Nat}

theorem takeA_kept (hA : setA c = false) (v : Qp) : takeA c v = v := by simp [takeA, hA]

theorem armQp_setQp_same (s : State) (q : Nat) (v : Qp) : armQp (setQp q (qpOf s q) s) q v = armQp s q v := by
  have h : freshRate (setQp q (qpOf s q) s) q = freshRate s q := by
    funext v
    simp only [freshRate, qpLine, qpOf_setQp]
    rfl
  simp only [armQp, h]
  rfl

theorem checkDrain_state (q : Nat) (s : State) : (qpOf (checkDrain q s) q).state = (qpOf s q).state := by
  unfold checkDrain
  split
  · split
    · rfl
    · rw [qpOf_completeRef, qpOf_modQp]
  · rfl

/-- QP_MODIFY to ARMED. -/
theorem qpMove_armed (hA : setA c = false) (h : (qpOf s q).state = .init) :
    qpMove c q .armed s = complete c .ok [] (objectUnit s q)
      (setQp q (armQp s q (takeR c (qpOf s q))) (setQp q (qpOf s q) s)) := by
  simp only [qpMove, h, reduceCtorEq, if_false, modQp, takeA_kept hA, qpOf_setQp, armQp_setQp_same]
  rfl

/-- QP_MODIFY to ACTIVE. -/
theorem qpMove_active (hA : setA c = false) (h : (qpOf s q).state = .armed) :
    qpMove c q .active s = complete c .ok [] (objectUnit s q)
      (setQp q { qpOf s q with state := .active } (setQp q (qpOf s q) s)) := by
  simp only [qpMove, h, reduceCtorEq, if_false, modQp, takeA_kept hA, qpOf_setQp]
  rfl

theorem qpMove_drain_qpStep (h : (qpOf s q).state = .active) : QpStep q s (qpMove c q .drain s) := by
  simp only [qpMove, h, reduceCtorEq, if_false]
  exact ((modQp_qpStep q _ s).trans (modQp_qpStep q _ _)).trans (checkDrain_qpStep q _)

theorem qpMove_drain_state (h : (qpOf s q).state = .active) : (qpOf (qpMove c q .drain s) q).state = .drain := by
  simp only [qpMove, h, reduceCtorEq, if_false]
  rw [checkDrain_state, qpOf_modQp]

/-- A queue pair in RESET keeps its L fields. -/
theorem qpOf_resetQp (q : Nat) (s : State) : qpOf (resetQp q s) q = { created := true, arch := (qpOf s q).arch &&& maskL } := by
  simp only [resetQp]
  rw [qpOf_setQp]
  split
  · rfl
  · rw [show qpOf (forgetFaults q (freeAtomBlock q (toError q .aborted none none s))) q = qpOf (toError q .aborted none none s) q from rfl,
      qpOf_toError]
    rfl

theorem resetQp_qpStep (h : ∀ o ∈ opsOf s q, o.cmd ≠ none) : QpStep q s (resetQp q s) := by
  simp only [resetQp]
  refine .trans (.trans (.trans ?_ (freeAtomBlock_qpStep q _)) (forgetFaults_qpStep q _)) (setQp_qpStep q _ _)
  split
  · exact .refl q s
  · exact toError_qpStep h _ _ _

theorem qpMove_reset (c : Cmd) (q : Nat) (s : State) :
    qpMove c q .reset s = complete c .ok [] (qpOwner (modQp q (takeA c) (resetQp q s)) q) (modQp q (takeA c) (resetQp q s)) := rfl

theorem qpMove_reset_qpStep (h : ∀ o ∈ opsOf s q, o.cmd ≠ none) : QpStep q s (qpMove c q .reset s) := by
  rw [qpMove_reset]
  exact ((resetQp_qpStep h).trans (modQp_qpStep q _ _)).trans (complete_qpStep q _ _ _ _ _)

theorem qpOf_qpMove_reset (hA : setA c = false) :
    qpOf (qpMove c q .reset s) q = { created := true, arch := (qpOf s q).arch &&& maskL } := by
  rw [qpMove_reset, qpOf_complete, qpOf_modQp, takeA_kept hA, qpOf_resetQp]

theorem qpTransition_reset (c : Cmd) (old : QpSt) : qpTransition c old .reset = true := by
  cases old <;> rfl

section
variable (ha : admits descQpModify c s) (hn : namedQp s c = some q)
  (hc : cached s q = true) (hh : qpHeldUp c s = false) (hst : param c 16 8 0 3 < 6) (hcodes : badCodes (archArg c 24) = false)
  (hA : setA c = true → badA (qpMode (qpOf s q)) (archArg c 24) = false) (hcr : (qpOf s q).created = true)
include ha hn hc hh hst hcodes hA hcr

theorem qpModify_moves (ht : qpTransition c (qpOf s q).state (qpStOf (param c 16 8 0 3)) = true) :
    qpModify c s = qpMove c q (qpStOf (param c 16 8 0 3)) (sliceLookup q (turn c s)).2 := by
  refine qpOrdered_passes ha hh _ _ hn hc ?_
  have hA' : (setA c && badA (qpMode (qpOf s q)) (archArg c 24)) = false := Bool.and_eq_false_imp.mpr hA
  simp only [(found_turn hc).qpOf, hA', hcodes, hcr, ht, Nat.not_le.mpr hst, decide_false, Bool.or_false, Bool.not_true, firstFail,
    Bool.false_eq_true, if_false]

theorem qpModify_busy (ht : qpTransition c (qpOf s q).state (qpStOf (param c 16 8 0 3)) = false) :
    qpModify c s = complete c .busy [] (procUnit s c) (sliceLookup q (turn c s)).2 := by
  refine qpOrdered_fails ha hh _ _ hn hc ?_
  have hA' : (setA c && badA (qpMode (qpOf s q)) (archArg c 24)) = false := Bool.and_eq_false_imp.mpr hA
  simp only [(found_turn hc).qpOf, hA', hcodes, hcr, ht, Nat.not_le.mpr hst, decide_false, Bool.or_false, Bool.not_true, firstFail,
    Bool.false_eq_true, if_false, Bool.not_false, if_true]

/-- Between calm states, a QP_MODIFY that moves its queue pair and ends no push of a Reed engine leaves exactly the move. -/
theorem exec_qpModify_moves (hs : calm s) {new : QpSt} (hnew : qpStOf (param c 16 8 0 3) = new)
    (ht : qpTransition c (qpOf s q).state new = true)
    (hm : QpStep q (sliceLookup q (turn c s)).2 (qpMove c q new (sliceLookup q (turn c s)).2)) :
    exec (.qpModify c) s = .next (qpMove c q new (sliceLookup q (turn c s)).2) ∧
      ∀ x, x ≠ q → qpOf (qpMove c q new (sliceLookup q (turn c s)).2) x = qpOf s x := by
  subst hnew
  have hq := ((found_turn (c := c) hc).qpStep q).trans hm
  refine ⟨?_, hq.others⟩
  rw [exec, execQpModify, qpModify_moves ha hn hc hh hst hcodes hA hcr ht]
  exact congrArg Host.Outcome.next (shtEnded_undisturbed hs hq.undisturbed hq.pushDone)

end
end

/-! ## QP_QUERY and QP_DESTROY -/

section
variable {c : Cmd} {s : State} {q : Nat} (hn : namedQp s c = some q) (hc : cached s q = true) (hh : qpHeldUp c s = false)
include hn hc hh

theorem qpQuery_answers (ha : admits descQpQuery c s) (hcr : (qpOf s q).created = true) :
    qpQuery c s = complete c .ok
      [qpStCode (qpOf s q).state + (if qpHeld s q then 8 else 0) + 2 ^ 8 * (qpOf s q).errStatus.toNat,
        (qpOf s q).sqPsn.toNat, sendsOut s q, (qpOf s q).recvs.length]
      (objectUnit s q) (sliceLookup q (turn c s)).2 := by
  have hp := found_turn (c := c) hc
  refine (qpOrdered_passes ha hh _ _ hn hc ?_).trans ?_
  · simp only [hp.qpOf, hcr, firstFail, Bool.not_true, Bool.false_eq_true, if_false]
  · simp only [hp.qpOf, hp.qpHeld, sendsOut, hp.opsOf, qpOwner, hp.objectUnit]
    cases qpHeld s q <;> rfl

theorem qpDestroy_forgets (ha : admits descQpDestroy c s) (hcr : (qpOf s q).created = true)
    (hst : (qpOf s q).state = .reset ∨ (qpOf s q).state = .error) (ho : opsOf s q = []) (hr : (qpOf s q).recvs = []) :
    qpDestroy c s = complete c .ok [] (objectUnit s q) (setQp q {} (forgetFaults q
      (freeAtomBlock q (if qpEnc (qpOf s q) then dropRef (qpSlot (qpOf s q)) (sliceLookup q (turn c s)).2
        else (sliceLookup q (turn c s)).2)))) := by
  have hp := found_turn (c := c) hc
  refine (qpOrdered_passes ha hh _ _ hn hc ?_).trans ?_
  · have hst' : ((qpOf s q).state == .reset || (qpOf s q).state == .error) = true := by
      rcases hst with h | h <;> rw [h] <;> rfl
    simp only [hp.qpOf, hp.opsOf, hcr, hst', ho, hr, firstFail, List.isEmpty_nil, Bool.not_true, Bool.or_false,
      Bool.false_eq_true, if_false]
  · simp only [hp.qpOf]
    have hu : qpOwner (if qpEnc (qpOf s q) then dropRef (qpSlot (qpOf s q)) (sliceLookup q (turn c s)).2
        else (sliceLookup q (turn c s)).2) q = objectUnit s q := by
      split <;> exact hp.objectUnit q
    rw [hu]

end

/-! ## The obligation -/

/-- A management command that cannot start is held or waits, and one that names no queue pair completes BOUNDS. -/
theorem managed_not_started {i : Cmd → Instr} {d : OpDesc} {fails : Cmd → State → Nat → List (Bool × Status)}
    {run : Cmd → Nat → State → State}
    (he : ∀ c s, exec (i c) s = .next (shtEnded s (qpOrdered d c (fails c) (run c) s))) {c : Cmd} {s : State} (ha : admits d c s) :
    (qpHeldUp c s = true → exec (i c) s = .next (shtEnded s (holdCmd c s))) ∧
      (namedQp s c = none → exec (i c) s = .next (shtEnded s (complete c .bounds [] (procUnit s c) (turn c s)))) ∧
      ∀ q, namedQp s c = some q → qpHeldUp c s = false → cached s q = false →
        exec (i c) s = .next (shtEnded s (waitCtx c (sliceLookup q (turn c s)).2)) := by
  refine ⟨fun hh => ?_, fun hn => ?_, fun q hn hh hc => ?_⟩
  · rw [he, qpOrdered_held _ _ ha hh]
  · rw [he, qpOrdered_unnamed ha _ _ hn]
  · rw [he, qpOrdered_waits ha hh _ _ hn hc]

/-- Settles O29: each management command is its checks and its effect on the state its start leaves; between calm states a move of
QP_MODIFY disturbs nothing else. -/
theorem queuePairCommandsTakeEffect : Obligations.QueuePairCommandsTakeEffect := by
  unfold Obligations.QueuePairCommandsTakeEffect
  refine ⟨?create, ?modify, ?query, ?destroy, ?start⟩
  case create =>
    intro c s q a ha hn hc hh rfl
    refine ⟨fun hnew hcodes hA hroce hnvme hsub hslot => ?_, fun hcr => ?_⟩
    · rw [exec, execQpCreate, qpCreate_done ha hn hc hh hnew hcodes hA hroce hnvme hsub hslot]
      rfl
    · rw [exec, execQpCreate, qpCreate_busy ha hn hc hh hcr]
      rfl
  case modify =>
    intro c s q n ha hn hc hh rfl hst hcodes hA hcr
    refine ⟨fun ht => ?_, fun ht => ?_, ?_⟩
    · rw [exec, execQpModify, qpModify_moves ha hn hc hh hst hcodes hA hcr ht]
      rfl
    · rw [exec, execQpModify, qpModify_busy ha hn hc hh hst hcodes hA hcr ht]
      rfl
    have go {new : QpSt} := exec_qpModify_moves (new := new) ha hn hc hh hst hcodes hA hcr
    have hp := found_turn (c := c) hc
    have hj := sliceLookup_hit_jcq (s := turn c s) (q := q) hc
    generalize (sliceLookup q (turn c s)).2 = p at go hp hj
    have ok (u : State) (hu : u.jcq = p.jcq) :
        (complete c .ok [] (objectUnit p q) u).jcq = (complete c .ok [] (objectUnit s q) (turn c s)).jcq := by
      rw [hp.objectUnit]
      exact completeRef_jcq_congr (hu.trans hj) _ _ _ _
    have moved (v : Qp) : QpStep q p (complete c .ok [] (objectUnit p q) (setQp q v (setQp q (qpOf p q) p))) :=
      ((setQp_qpStep q _ p).trans (setQp_qpStep q _ _)).trans (complete_qpStep q _ _ _ _ _)
    refine ⟨fun hs hi h2 hnoA => ?_, fun hs hi h3 hnoA => ?_, fun hs hi h4 => ?_, fun hs h0 hnoA hops => ?_⟩
    · have hm := qpMove_armed (c := c) hnoA ((congrArg Qp.state (hp.qpOf q)).trans hi)
      obtain ⟨he, ho⟩ := go (new := .armed) hs (by rw [h2]; rfl) (by rw [hi]; rfl) (by rw [hm]; exact moved _)
      have hv : qpOf (qpMove c q .armed p) q = armQp s q (takeR c (qpOf s q)) := by
        rw [hm, qpOf_complete, qpOf_setQp, hp.qpOf, hp.armQp]
      exact ⟨_, he, hv, by rw [hv]; rfl, by rw [hv]; rfl, by rw [hv]; rfl, by rw [hm]; exact ok _ rfl, ho⟩
    · have hm := qpMove_active (c := c) hnoA ((congrArg Qp.state (hp.qpOf q)).trans hi)
      obtain ⟨he, ho⟩ := go (new := .active) hs (by rw [h3]; rfl) (by rw [hi]; rfl) (by rw [hm]; exact moved _)
      exact ⟨_, he, by rw [hm, qpOf_complete, qpOf_setQp, hp.qpOf], by rw [hm]; exact ok _ rfl, ho⟩
    · have hi' : (qpOf p q).state = .active := (congrArg Qp.state (hp.qpOf q)).trans hi
      obtain ⟨he, ho⟩ := go (new := .drain) hs (by rw [h4]; rfl) (by rw [hi]; rfl) (qpMove_drain_qpStep hi')
      exact ⟨_, he, qpMove_drain_state hi', ho⟩
    · obtain ⟨he, -⟩ := go (new := .reset) hs (by rw [h0]; rfl) (qpTransition_reset c _) (qpMove_reset_qpStep (by rwa [hp.opsOf]))
      exact ⟨_, he, by rw [qpOf_qpMove_reset hnoA, hp.qpOf]⟩
  case query =>
    intro c s q ha hn hc hh hcr
    rw [exec, execQpQuery, qpQuery_answers hn hc hh ha hcr]
    rfl
  case destroy =>
    intro c s q ha hn hc hh hcr hst ho hr
    rw [exec, execQpDestroy, qpDestroy_forgets hn hc hh ha hcr hst ho hr]
    rfl
  case start =>
    intro p hp c s ha
    simp only [List.mem_cons, List.not_mem_nil, or_false] at hp
    rcases hp with rfl | rfl | rfl | rfl
    · exact managed_not_started (fun _ _ => rfl) ha
    · exact managed_not_started (fun _ _ => rfl) ha
    · exact managed_not_started (fun _ _ => rfl) ha
    · exact managed_not_started (fun _ _ => rfl) ha

end Sys2Proof.Machine
end

section
/-! PROOFS. The data operations of a queue pair join its work (R129, R131, R134, R140, R141, R145, R168, R191). -/

namespace Sys2Proof.Machine

/-! ## What the checks of an operation leave -/

/-- A data operation has started, its context and its local key have been looked up: the processors' part of the state, the counters,
and the order of use of the slice and of the region cache differ, and nothing else. -/
def KeyFound (s t : State) : Prop :=
  t = { s with jcq := t.jcq, cnt := t.cnt, hdl := { s.hdl with regionCache := t.hdl.regionCache }
               sht := { s.sht with cache := t.sht.cache, slice := t.sht.slice } }

theorem KeyFound.trans {s t u : State} (h : KeyFound s t) (k : KeyFound t u) : KeyFound s u := by
  have e := congrArg (fun x : State => { x with
    jcq := u.jcq, cnt := u.cnt, hdl := { x.hdl with regionCache := u.hdl.regionCache }
    sht := { x.sht with cache := u.sht.cache, slice := u.sht.slice } }) h
  exact Eq.trans k e

theorem Prepared.keyFound {s t : State} (h : Prepared s t) : KeyFound s t := by
  rw [h]
  rfl

theorem keyChecked_keyFound (q key : Nat) (s : State) : KeyFound s (keyChecked q key s) := by
  simp only [keyChecked]
  rw [bump_frame]
  split <;> rfl

theorem opKeyChecked_keyFound (c : Cmd) (q : Nat) (s : State) : KeyFound s (opKeyChecked c q s) := by
  unfold opKeyChecked
  split
  · rfl
  · rfl
  · split
    · rfl
    · exact keyChecked_keyFound _ _ _
  · split
    · rfl
    · exact keyChecked_keyFound _ _ _

theorem keyChecked_jcq (q key : Nat) (s : State) : (keyChecked q key s).jcq = s.jcq := by
  simp only [keyChecked]
  rw [bump_frame]
  split <;> rfl

theorem opKeyChecked_jcq (c : Cmd) (q : Nat) (s : State) : (opKeyChecked c q s).jcq = s.jcq := by
  unfold opKeyChecked
  split
  · rfl
  · rfl
  · split
    · rfl
    · exact keyChecked_jcq _ _ _
  · split
    · rfl
    · exact keyChecked_jcq _ _ _

section
variable {s t : State} (h : KeyFound s t)
include h

theorem KeyFound.undisturbed : Undisturbed s t := by
  rw [h]
  exact ⟨rfl, rfl, rfl, rfl, rfl, rfl⟩

theorem KeyFound.sht : t.sht = { s.sht with cache := t.sht.cache, slice := t.sht.slice } := congrArg (·.sht) h
theorem KeyFound.ops : t.sht.ops = s.sht.ops := by rw [h]
theorem KeyFound.nextOp : t.sht.nextOp = s.sht.nextOp := by rw [h]
theorem KeyFound.qp : t.sht.qp = s.sht.qp := by rw [h]
theorem KeyFound.stay : t.sht.stay = s.sht.stay := by rw [h]
theorem KeyFound.pushDone : t.sht.pushDone = s.sht.pushDone := by rw [h]
theorem KeyFound.qpOf (q : Nat) : qpOf t q = qpOf s q := qpOf_of_sht h.qp q

end

/-! ## Joining the work of a queue pair -/

/-- An operation of a queue pair that stays where it is joins last in line, with the next number. -/
theorem addOp_stays {o : SendOp} {s : State} (h : tget none s.sht.stay o.qp = none) :
    addOp o s = { s with sht := { s.sht with
      nextOp := s.sht.nextOp + 1, ops := s.sht.ops ++ [{ o with id := s.sht.nextOp }] } } := by
  simp only [addOp, goHome, h]

theorem addOp_undisturbed {o : SendOp} {s : State} (h : tget none s.sht.stay o.qp = none) : Undisturbed s (addOp o s) := by
  rw [addOp_stays h]
  exact ⟨rfl, rfl, rfl, rfl, rfl, rfl⟩

theorem sendOpOf_qp (c : Cmd) (q : Nat) : (sendOpOf c q).qp = q := by
  simp only [sendOpOf]
  generalize (if isInline c then some (inlineBytes c) else none) = inl
  split <;> rfl

theorem endRecv_undisturbed (q : Nat) (r : Recv) (st : Status) (res : List Nat) (s : State) : Undisturbed s (endRecv q r st res s) :=
  completeRef_undisturbed _ _ _ _ s

theorem endRecv_sht (q : Nat) (r : Recv) (st : Status) (res : List Nat) (s : State) : (endRecv q r st res s).sht = s.sht :=
  completeRef_sht _ _ _ _ s

/-- The queue pair's NVMe offload is on (R167). -/
def offloaded (v : Qp) : Qp :=
  { v with nvmeOn := true, recvs := [], roceRecv := none, opened := v.opened.map fun o => { o with done := none } }

/-- The first NVME_IO turns the offload on: the RECVs of the queue pair end with ABORTED. -/
def offloadOn (q : Nat) (s : State) : State :=
  if (qpOf s q).nvmeOn then s
  else (recvsOut (qpOf s q)).foldl (fun s r => endRecv q r .aborted [] s) (setQp q (offloaded (qpOf s q)) s)

section
variable (q : Nat) (s : State)

theorem offloadOn_already (h : (qpOf s q).nvmeOn = true) : offloadOn q s = s := if_pos h

theorem offloadOn_undisturbed : Undisturbed s (offloadOn q s) := by
  unfold offloadOn
  split
  · exact .refl s
  · exact (setQp_undisturbed q _ s).trans (foldl_related .refl .trans (fun s r => endRecv_undisturbed q r _ _ s) _ _)

theorem offloadOn_first (h : (qpOf s q).nvmeOn = false) : (offloadOn q s).sht = (setQp q (offloaded (qpOf s q)) s).sht := by
  rw [offloadOn, if_neg (by rw [h]; decide)]
  exact foldl_related (R := fun s t => t.sht = s.sht) (fun _ => rfl) (fun h k => k.trans h) (fun s r => endRecv_sht q r _ _ s) _ _

theorem offloadOn_frame : (offloadOn q s).sht = { s.sht with qp := (offloadOn q s).sht.qp } := by
  cases h : (qpOf s q).nvmeOn with
  | true => rw [offloadOn_already q s h]
  | false =>
    rw [offloadOn_first q s h]
    rfl

theorem offloadOn_nvmeOn : (qpOf (offloadOn q s) q).nvmeOn = true := by
  cases h : (qpOf s q).nvmeOn with
  | true => rw [offloadOn_already q s h, h]
  | false => rw [qpOf_of_sht (congrArg (·.qp) (offloadOn_first q s h)), qpOf_setQp]; rfl

end

section
variable {c : Cmd} (q : Nat) (s : State)

theorem opStart_recv (h : fieldLE c.packet 0 2 = 0x0313) :
    opStart c q s = modQp q (fun v => { v with recvs := v.recvs ++
      [{ cmd := cmdRef c, lkey := opLkey c, loff := opLoff c, len := cmdLength c }] }) s := by
  simp only [opStart, h]

theorem opStart_nvmeIo (h : fieldLE c.packet 0 2 = 0x0320) : opStart c q s = addOp (sendOpOf c q) (offloadOn q s) := by
  simp only [opStart, h]
  rfl

theorem opStart_joins (h : fieldLE c.packet 0 2 ≠ 0x0313 ∧ fieldLE c.packet 0 2 ≠ 0x0320) :
    opStart c q s = addOp (sendOpOf c q) s := by
  unfold opStart
  split
  · exact absurd ‹_› h.1
  · exact absurd ‹_› h.2
  · rfl

end

/-! ## The start of an operation -/

theorem admits_code {d : OpDesc} {c : Cmd} {s : State} (h : admits d c s) : fieldLE c.packet 0 2 = d.code := by
  have h1 : check1 d c = false := (firstFail_none _).mp h.2 _ List.mem_cons_self
  simp only [check1, Bool.or_eq_false_iff] at h1
  simpa using h1.1.1.1

theorem found_begun {c : Cmd} {s : State} {q : Nat} (hc : cached s q = true) : Prepared s (sliceLookup q (begun c s)).2 :=
  (prepared_begun c s).lookup hc

/-- The state a data operation finds once its context and its key have been looked up. -/
theorem opKeyChecked_found {s : State} {q : Nat} (c : Cmd) (hc : cached s q = true) :
    KeyFound s (opKeyChecked c q (sliceLookup q (begun c s)).2) :=
  (found_begun hc).keyFound.trans (opKeyChecked_keyFound c q _)

theorem opKeyChecked_found_jcq {c : Cmd} {s : State} {q : Nat} (hc : cached s q = true) :
    (opKeyChecked c q (sliceLookup q (begun c s)).2).jcq = (begun c s).jcq :=
  (opKeyChecked_jcq c q _).trans (sliceLookup_hit_jcq (s := begun c s) hc)

section
variable {d : OpDesc} {c : Cmd} {s : State} {q : Nat} (ha : admits d c s)
include ha

theorem dataOp_unnamed (hn : namedQp s c = none) : dataOp d c s = complete c .bounds [] (procUnit s c) (begun c s) := by
  rw [dataOp, onQp, takeCmd_admits ha]
  exact withQp_unnamed _ _ hn

theorem dataOp_waits (hn : namedQp s c = some q) (hc : cached s q = false) :
    dataOp d c s = waitCtx c (sliceLookup q (begun c s)).2 := by
  rw [dataOp, onQp, takeCmd_admits ha]
  exact withQp_waits _ _ hn hc

variable (hn : namedQp s c = some q) (hc : cached s q = true)
include hn hc

/-- A data operation whose context is in its slice is its queue pair's checks and its start. -/
theorem dataOp_checks : dataOp d c s = checked c (opFails c s q) (sliceLookup q (begun c s)).2
    (fun s => opStart c q (opKeyChecked c q s)) := by
  rw [dataOp, onQp, takeCmd_admits ha, withQp_checks (s := begun c s) _ _ hn hc, (found_begun hc).opFails]

theorem dataOp_starts (hf : firstFail (opFails c s q) = none) :
    dataOp d c s = opStart c q (opKeyChecked c q (sliceLookup q (begun c s)).2) := by
  rw [dataOp_checks ha hn hc, checked_passes hf]

theorem dataOp_fails {st : Status} (hf : firstFail (opFails c s q) = some st) :
    dataOp d c s = complete c st [] (procUnit s c) (sliceLookup q (begun c s)).2 := by
  rw [dataOp_checks ha hn hc, checked_fails hf, (found_begun hc).procUnit]

end

/-! ## The rows -/

/-- A send operation of a queue pair that stays where it is: what its start leaves, between calm states. -/
theorem joined {c : Cmd} {s u : State} {q : Nat} (hu : KeyFound s u) (hs : calm s) (hstay : tget none s.sht.stay q = none) :
    (shtEnded s (addOp (sendOpOf c q) u)).sht.ops = s.sht.ops ++ [{ sendOpOf c q with id := s.sht.nextOp }] ∧
      (shtEnded s (addOp (sendOpOf c q) u)).sht.nextOp = s.sht.nextOp + 1 ∧
      (shtEnded s (addOp (sendOpOf c q) u)).sht.qp = s.sht.qp ∧ (shtEnded s (addOp (sendOpOf c q) u)).jcq = u.jcq := by
  have hst : tget none u.sht.stay (sendOpOf c q).qp = none := by rw [sendOpOf_qp, hu.stay, hstay]
  have ha := addOp_stays hst
  rw [shtEnded_undisturbed hs (hu.undisturbed.trans (addOp_undisturbed hst)) (by rw [ha]; exact hu.pushDone), ha]
  refine ⟨?_, ?_, hu.qp, rfl⟩
  · show u.sht.ops ++ [{ sendOpOf c q with id := u.sht.nextOp }] = _
    rw [hu.ops, hu.nextOp]
  · show u.sht.nextOp + 1 = _
    rw [hu.nextOp]

/-- What a row of a data operation other than RECV and NVME_IO does. -/
theorem joiningRow {i : Cmd → Instr} {d : OpDesc} (he : ∀ c s, exec (i c) s = .next (shtEnded s (dataOp d c s)))
    (hd : d.code ≠ 0x0313 ∧ d.code ≠ 0x0320) {c : Cmd} {s : State} (ha : admits d c s) :
    (namedQp s c = none → exec (i c) s = .next (shtEnded s (complete c .bounds [] (procUnit s c) (begun c s)))) ∧
      ∀ q, namedQp s c = some q →
        (cached s q = false → exec (i c) s = .next (shtEnded s (waitCtx c (sliceLookup q (begun c s)).2))) ∧
        (cached s q = true →
          (firstFail (opFails c s q) = none → ∃ t, exec (i c) s = .next t ∧
            t = shtEnded s (addOp (sendOpOf c q) (opKeyChecked c q (sliceLookup q (begun c s)).2)) ∧
            (calm s → tget none s.sht.stay q = none → t.sht.ops = s.sht.ops ++ [{ sendOpOf c q with id := s.sht.nextOp }] ∧
              t.sht.nextOp = s.sht.nextOp + 1 ∧ t.sht.qp = s.sht.qp ∧ t.jcq = (begun c s).jcq)) ∧
          ∀ st, firstFail (opFails c s q) = some st →
            exec (i c) s = .next (shtEnded s (complete c st [] (procUnit s c) (sliceLookup q (begun c s)).2))) := by
  refine ⟨fun hn => by rw [he, dataOp_unnamed ha hn], fun q hn => ⟨fun hc => by rw [he, dataOp_waits ha hn hc], fun hc =>
    ⟨fun hf => ⟨_, ?_, rfl, fun hs hstay => ?_⟩, fun st hf => by rw [he, dataOp_fails ha hn hc hf]⟩⟩⟩
  · rw [he, dataOp_starts ha hn hc hf, opStart_joins _ _ (by rw [admits_code ha]; exact hd)]
  · obtain ⟨hops, hnext, hqp, hj⟩ := joined (c := c) (opKeyChecked_found c hc) hs hstay
    exact ⟨hops, hnext, hqp, hj.trans (opKeyChecked_found_jcq hc)⟩

/-- A freeze that ends changes nothing of the transport. -/
theorem freezeCheck_sht (s : State) : (freezeCheck s).sht = s.sht := by
  rw [freezeCheck]
  exact foldl_related (R := fun s t => t.sht = s.sht) (fun _ => rfl) (fun h k => k.trans h) (fun s f => by
    split
    · exact completeRef_sht _ _ _ _ _
    · rfl) _ _

/-- A RECV is posted last in its queue pair's receive queue. -/
theorem recv_posted {c : Cmd} {s : State} {q : Nat} (ha : admits descRecv c s) (hc : cached s q = true) (hs : calm s) :
    let t := shtEnded s (freezeCheck (opStart c q (opKeyChecked c q (sliceLookup q (begun c s)).2)))
    (qpOf t q).recvs = (qpOf s q).recvs ++
        [{ cmd := cmdRef c, lkey := fieldLE c.packet 16 4, loff := fieldLE c.packet 24 8, len := cmdLength c }] ∧
      t.sht.ops = s.sht.ops ∧ ∀ x, x ≠ q → qpOf t x = qpOf s x := by
  intro t
  have hu := opKeyChecked_found c hc
  have hsht : t.sht = (opStart c q (opKeyChecked c q (sliceLookup q (begun c s)).2)).sht := by
    refine (shtEnded_sht ?_).trans (freezeCheck_sht _)
    rw [freezeCheck_sht, opStart_recv _ _ (admits_code ha)]
    exact hu.pushDone.trans hs.2
  rw [opStart_recv _ _ (admits_code ha)] at hsht
  have hqp := qpOf_of_sht (congrArg (·.qp) hsht)
  refine ⟨?_, ?_, fun x hx => ?_⟩
  · rw [hqp, qpOf_modQp, hu.qpOf]
    rfl
  · rw [hsht]
    exact hu.ops
  · rw [hqp, qpOf_modQp_other _ _ _ _ hx, hu.qpOf]

/-- The start of an NVME_IO turns the offload on and joins its operation. -/
theorem nvmeIo_joined {c : Cmd} {s : State} {q : Nat} (ha : admits (descNvmeIo c) c s) (hc : cached s q = true) (hs : calm s)
    (hstay : tget none s.sht.stay q = none) :
    let t := shtEnded s (opStart c q (opKeyChecked c q (sliceLookup q (begun c s)).2))
    (qpOf t q).nvmeOn = true ∧ t.sht.ops = s.sht.ops ++ [{ sendOpOf c q with id := s.sht.nextOp }] ∧
      ((qpOf s q).nvmeOn = true → t.jcq = (begun c s).jcq) := by
  intro t
  have hu := opKeyChecked_found c hc
  have hj := opKeyChecked_found_jcq (c := c) hc
  have ht : t = shtEnded s (opStart c q (opKeyChecked c q (sliceLookup q (begun c s)).2)) := rfl
  rw [opStart_nvmeIo _ _ (admits_code ha)] at ht
  generalize opKeyChecked c q (sliceLookup q (begun c s)).2 = u at hu hj ht
  have hf := offloadOn_frame q u
  have hst : tget none (offloadOn q u).sht.stay (sendOpOf c q).qp = none := by rw [hf, sendOpOf_qp]; exact hu.stay ▸ hstay
  have hadd := addOp_stays hst
  rw [shtEnded_undisturbed hs ((hu.undisturbed.trans (offloadOn_undisturbed q u)).trans (addOp_undisturbed hst))
    (by rw [hadd, hf]; exact hu.pushDone), hadd] at ht
  refine ⟨?_, ?_, fun hon => ?_⟩
  · rw [ht]
    exact offloadOn_nvmeOn q u
  · rw [ht, hf]
    show u.sht.ops ++ [{ sendOpOf c q with id := u.sht.nextOp }] = _
    rw [hu.ops, hu.nextOp]
  · rw [ht, offloadOn_already q u (by rw [hu.qpOf, hon])]
    exact hj

/-- Settles O30: every data operation is the checks of its queue pair and its start; between calm states the start is one operation or
RECV more. -/
theorem dataOperationsAreAccepted : Obligations.DataOperationsAreAccepted := by
  unfold Obligations.DataOperationsAreAccepted
  refine ⟨?sends, ?recv, ?nvme⟩
  case sends =>
    intro p hp c s ha
    simp only [List.mem_cons, List.not_mem_nil, or_false] at hp
    rcases hp with rfl | rfl | rfl | rfl | rfl | rfl | rfl
    · exact joiningRow (fun _ _ => rfl) (by decide) ha
    · exact joiningRow (fun _ _ => rfl) (by decide) ha
    · exact joiningRow (fun _ _ => rfl) (by decide) ha
    · exact joiningRow (fun _ _ => rfl) (by decide) ha
    · exact joiningRow (fun _ _ => rfl) (by decide) ha
    · exact joiningRow (fun _ _ => rfl) (by decide) ha
    · exact joiningRow (fun _ _ => rfl) (by decide) ha
  case recv =>
    intro c s q ha hn hc
    refine ⟨fun hf => ⟨_, ?_, rfl, recv_posted ha hc⟩, fun st hf => ?_⟩
    · rw [exec, execRecv, dataOp_starts ha hn hc hf]
      rfl
    · rw [exec, execRecv, dataOp_fails ha hn hc hf]
      rfl
  case nvme =>
    intro c s q ha
    have hop : nvmeOp c s = checked c [(nvmeLenBad c, .lenRange)] (begun c s)
        (withQp c (opFails c) (fun q s => opStart c q (opKeyChecked c q s))) := takeCmd_admits ha _
    refine ⟨fun hb => ?_, fun hb hn hc => ?_⟩
    · rw [exec, execNvmeIo, hop, checked_fails (st := .lenRange) (by rw [hb]; rfl)]
      rfl
    rw [checked_passes (by rw [hb]; rfl), withQp_checks (s := begun c s) _ _ hn hc, (found_begun hc).opFails] at hop
    refine ⟨fun hf => ⟨_, ?_, rfl, nvmeIo_joined ha hc⟩, fun st hf => ?_⟩
    · rw [exec, execNvmeIo, hop, checked_passes hf]
      rfl
    · rw [exec, execNvmeIo, hop, checked_fails hf, (found_begun hc).procUnit]
      rfl

end Sys2Proof.Machine
end

section
/-! PROOFS. The packets of a message (R143, R172, R180, R187, R199, R370). -/

namespace Sys2Proof.Machine

/-! ## What sending keeps of its queue pair's window -/

/-- The queue pair's next PSN and the packets it keeps are the same in two states. -/
def SameWindow (q : Nat) (s t : State) : Prop := (qpOf t q).sqPsn = (qpOf s q).sqPsn ∧ (qpOf t q).sent = (qpOf s q).sent

theorem SameWindow.refl (q : Nat) (s : State) : SameWindow q s s := ⟨rfl, rfl⟩

theorem SameWindow.trans {q : Nat} {s t u : State} (h : SameWindow q s t) (k : SameWindow q t u) : SameWindow q s u :=
  ⟨k.1.trans h.1, k.2.trans h.2⟩

theorem Leaves.sameWindow {s t : State} (h : Leaves s t) (q : Nat) : SameWindow q s t := ⟨by rw [h.qpOf], by rw [h.qpOf]⟩

theorem advanceSend_window (now wire : Nat) (v : Qp) :
    (advanceSend now wire v).sqPsn = v.sqPsn ∧ (advanceSend now wire v).sent = v.sent := by
  simp only [advanceSend]
  split <;> exact ⟨rfl, rfl⟩

theorem pace_sameWindow (q wire : Nat) (s : State) : SameWindow q s (pace q wire s) := by
  unfold SameWindow pace
  rw [qpOf_modQp]
  exact advanceSend_window _ _ _

theorem armRto_sameWindow (q : Nat) (s : State) : SameWindow q s (armRto q s) := by
  unfold SameWindow armRto
  rw [qpOf_modQp]
  split <;> exact ⟨rfl, rfl⟩

theorem armRto_transmits (q : Nat) (s : State) : Transmits s (armRto q s) := modQp_transmits _ _ s

/-- A data packet leaves on a path, and its queue pair is paced; or it finds no counter, and nothing is sent. -/
theorem sendData_cases (q : Nat) (h : ShtHdr) (payload : List Byte) (s : State) : Leaves s (sendData q h payload s) ∨
    ∃ u wire, Leaves s u ∧ sendData q h payload s = pace q wire u := by
  simp only [sendData]
  split <;> rename_i ht <;> have hs := leaves_of_sealPacket ht
  · exact .inl hs
  · exact .inr ⟨_, _, ((hs.trans (pickPath_leaves q _)).trans (countSent_leaves q _ _ _)).trans (queueFrame_leaves q _ _), rfl⟩

theorem sendData_sameWindow (q : Nat) (h : ShtHdr) (payload : List Byte) (s : State) : SameWindow q s (sendData q h payload s) := by
  rcases sendData_cases q h payload s with hl | ⟨u, wire, hl, he⟩
  · exact hl.sameWindow q
  · rw [he]
    exact (hl.sameWindow q).trans (pace_sameWindow q wire u)

theorem sendData_transmits (q : Nat) (h : ShtHdr) (payload : List Byte) (s : State) : Transmits s (sendData q h payload s) := by
  rcases sendData_cases q h payload s with hl | ⟨u, wire, hl, he⟩
  · exact hl.transmits
  · rw [he]
    exact hl.transmits.trans (pace_transmits q wire u)

/-! ## A packet that is sent for the first time -/

/-- An operation's first packet takes the next message ID; a later one keeps its operation's. -/
theorem takeMsgId_takes (o : SendOp) (s : State) : ∃ m t, takeMsgId o s = ({ o with msgId := some m }, t) ∧ Transmits s t ∧
    SameWindow o.qp s t := by
  unfold takeMsgId
  split
  · rename_i m h
    exact ⟨m, s, by rw [← h], .refl s, .refl _ s⟩
  · refine ⟨_, _, rfl, setQp_transmits _ _ s, ?_⟩
    unfold SameWindow
    rw [qpOf_setQp]
    exact ⟨rfl, rfl⟩

@[simp] theorem qpOf_setOp (o : SendOp) (s : State) (q : Nat) : qpOf (setOp o s) q = qpOf s q := rfl

/-- The header of the next packet of an operation that has its message ID. -/
def packetHdr (o : SendOp) (payload : List Byte) (adv : Nat) (s : State) : ShtHdr :=
  let flags := (if o.code = 0x0310 ∧ o.aux = 1 then 1 else 0) +
    2 * b2n (decide (o.built + adv ≥ o.len) || cadence s (qpOf s o.qp)) +
    8 * b2n (o.data.isSome && (o.code == 0x0310 || o.code == 0x0312))
  if o.code = 0x0310 then { opHdr s o payload.length flags with aux := 0 } else opHdr s o payload.length flags

theorem packetHdr_fields (o : SendOp) (payload : List Byte) (adv : Nat) (s : State) :
    (packetHdr o payload adv s).psn = (qpOf s o.qp).sqPsn ∧ (packetHdr o payload adv s).opc = packetOpc o.code ∧
      (packetHdr o payload adv s).offset = if packetOpc o.code == 4 then o.built else (o.roff + o.built) % 2 ^ 48 := by
  simp only [packetHdr]
  split <;> exact ⟨rfl, rfl, rfl⟩

/-- A packet of an operation is kept, and its operation has built so much more. -/
def packetKept (o : SendOp) (payload : List Byte) (adv : Nat) (s : State) : State :=
  setOp { o with built := o.built + adv, closed := decide (o.built + adv ≥ o.len) }
    (modQp o.qp (keepSent (packetHdr o payload adv s) o payload) s)

/-- A packet of an operation is kept and sent, and T_RTO runs. -/
def packetSent (o : SendOp) (payload : List Byte) (adv : Nat) (s : State) : State :=
  let t := sendData o.qp (packetHdr o payload adv s) payload (packetKept o payload adv s)
  if (qpOf s o.qp).sent.isEmpty then armRto o.qp t else t

theorem sendOpPacket_eq {o o' : SendOp} {s t : State} (h : takeMsgId o s = (o', t)) (hq : o'.qp = o.qp) (payload : List Byte) (adv : Nat) :
    sendOpPacket o payload adv s = packetSent o' payload adv t := by
  simp only [sendOpPacket, h, ← hq]
  rfl

/-- A packet of an operation has been sent for the first time: it took the next PSN, and is kept until it is resolved. -/
structure KeepsPacket (o : SendOp) (payload : List Byte) (s t : State) : Prop where
  pushDone : t.sht.pushDone = s.sht.pushDone
  psn : (qpOf t o.qp).sqPsn = (qpOf s o.qp).sqPsn + 1
  sent : ∃ e, (qpOf t o.qp).sent = (qpOf s o.qp).sent ++ [e] ∧ e.psn = (qpOf s o.qp).sqPsn ∧ e.op = o.id ∧
    e.opc = packetOpc o.code ∧ e.payload = payload ∧
    e.offset = if packetOpc o.code == 4 then o.built else (o.roff + o.built) % 2 ^ 48

theorem packetSent_keeps (o : SendOp) (payload : List Byte) (adv : Nat) (s : State) :
    KeepsPacket o payload s (packetSent o payload adv s) := by
  have htail : (packetSent o payload adv s).sht.pushDone = (packetKept o payload adv s).sht.pushDone ∧
      SameWindow o.qp (packetKept o payload adv s) (packetSent o payload adv s) := by
    have ht := sendData_transmits o.qp (packetHdr o payload adv s) payload (packetKept o payload adv s)
    have hw := sendData_sameWindow o.qp (packetHdr o payload adv s) payload (packetKept o payload adv s)
    simp only [packetSent]
    split
    · exact ⟨(ht.trans (armRto_transmits _ _)).pushDone, hw.trans (armRto_sameWindow _ _)⟩
    · exact ⟨ht.pushDone, hw⟩
  have hk : qpOf (packetKept o payload adv s) o.qp = keepSent (packetHdr o payload adv s) o payload (qpOf s o.qp) := by
    rw [packetKept, qpOf_setOp, qpOf_modQp]
  obtain ⟨hpsn, hopc, hoff⟩ := packetHdr_fields o payload adv s
  exact ⟨htail.1, htail.2.1.trans (congrArg Qp.sqPsn hk), _, htail.2.2.trans (congrArg Qp.sent hk), hpsn, rfl, hopc, rfl, hoff⟩

theorem sendOpPacket_keeps (o : SendOp) (payload : List Byte) (adv : Nat) (s : State) :
    KeepsPacket o payload s (sendOpPacket o payload adv s) := by
  obtain ⟨m, t, he, ht, hpsn, hsent⟩ := takeMsgId_takes o s
  obtain ⟨hp, hn, hk⟩ := packetSent_keeps { o with msgId := some m } payload adv t
  rw [sendOpPacket_eq he rfl]
  exact ⟨hp.trans ht.pushDone, by rw [← hpsn]; exact hn, by rw [← hpsn, ← hsent]; exact hk⟩

/-! ## The next packet of a queue pair -/

theorem nextOp_qp {s : State} {q : Nat} {o : SendOp} (h : nextOp s q = some o) : o.qp = q :=
  ((mem_opsOf q s).mp (List.mem_of_find?_eq_some h)).2

theorem pushIntact_unchecked {o : SendOp} (h : o.crcs = []) (n : Nat) (corrupt : Bool) : pushIntact o n corrupt = true := by
  simp [pushIntact, h]

theorem opSource_inline {o : SendOp} {d : List Byte} (h : o.data = some d) (n : Nat) (ext : List ExtRead) (s : State) :
    opSource o n ext s = (s, .ok, slice d o.built n) := by simp only [opSource, h]

section
variable {q : Nat} {s : State} {o : SendOp} (hn : nextOp s q = some o) (hm : mayBuild s q o = true)
  (hw : o.code = 0x0317 ∨ psnDiff (qpOf s q).sqPsn (qpOf s q).sndUna < 256) (ext : List ExtRead) (corrupt : Bool)
include hn hm hw

theorem buildNext_read (hc : o.code = 0x0311) : buildNext q ext corrupt s = sendReadReq o s := by
  have hw' : psnDiff (qpOf s q).sqPsn (qpOf s q).sndUna < 256 := hw.resolve_left (by rw [hc]; decide)
  simp [buildNext, hn, hm, hc, hw']

/-- The bytes of an operation's place in its message go out. -/
theorem buildNext_sends (hr : o.code ≠ 0x0311) (ha : o.code ≠ 0x0314 ∧ o.code ≠ 0x0315)
    (hi : pushIntact o (min (qpMtu (qpOf s q)) (o.len - o.built)) corrupt = true) {u : State} {bs : List Byte}
    (hsrc : opSource o (min (qpMtu (qpOf s q)) (o.len - o.built)) ext s = (u, .ok, bs)) :
    buildNext q ext corrupt s = if o.code == 0x0317 then sendUd o bs u
      else sendOpPacket o bs (min (qpMtu (qpOf s q)) (o.len - o.built)) u := by
  have hg : (!mayBuild s q o || (!(o.code == 0x0317) && decide (psnDiff (qpOf s q).sqPsn (qpOf s q).sndUna ≥ 256))) = false := by
    rcases hw with h | h <;> simp [hm, h]
  simp [buildNext, hn, hg, hr, ha.1, ha.2, hi, hsrc]

theorem buildNext_atomic (hc : o.code = 0x0314 ∨ o.code = 0x0315) (ha : atomicsOut (qpOf s q) < 16) {d : List Byte}
    (hd : o.data = some d) (hcrc : o.crcs = []) : buildNext q ext corrupt s = sendOpPacket o (slice d o.built d.length) 8 s := by
  have hnud : o.code ≠ 0x0317 := by rcases hc with h | h <;> rw [h] <;> decide
  have hr : o.code ≠ 0x0311 := by rcases hc with h | h <;> rw [h] <;> decide
  have hw' := not_le.mpr (hw.resolve_left hnud)
  simp [buildNext, hn, hm, hw', hnud, hr, hc, not_le.mpr ha, hd, pushIntact_unchecked hcrc, opSource_inline hd]

end

/-! ## PACED_SEND and TXQ_ROOM -/

section
variable {q : Nat} {s : State} (ext : List ExtRead) (corrupt : Bool) (hcr : (qpOf s q).created = true) (hc : cached s q = true)
  (has : (qpOf s q).aside = false) (ht : sendTimeCome (qpTime s q) (qpOf s q) = true) (hu : unitHolds s (serving s q) 1 q = false)
include hcr hc has ht hu

section
variable (hmode : qpMode (qpOf s q) = 0) (hk : keyStalled s q = false)
include hmode hk

theorem pacedSend_aside (hr : qpRoom s q = false) : pacedSend q ext corrupt s = setQp q { qpOf s q with aside := true } s := by
  simp [pacedSend, hcr, hc, has, ht, hu, hmode, hk, hr]

variable (hr : qpRoom s q = true)
include hr

theorem pacedSend_item {i : TxItem} (hf : (qpOf s q).queue.find? (itemReady (qpOf s q)) = some i) :
    pacedSend q ext corrupt s = sendItem q i (setQp q { qpOf s q with queue := (qpOf s q).queue.erase i } s) := by
  simp [pacedSend, hcr, hc, has, ht, hu, hmode, hk, hr, hf]

theorem pacedSend_builds (hf : (qpOf s q).queue.find? (itemReady (qpOf s q)) = none) :
    pacedSend q ext corrupt s = buildNext q ext corrupt s := by
  simp [pacedSend, hcr, hc, has, ht, hu, hmode, hk, hr, hf]

end

variable (hmode : qpMode (qpOf s q) ≠ 0) (hr : qpRoom s q = true)
include hmode hr

theorem pacedRoce_again {psn : BitVec 32} (hf : (qpOf s q).queue.find? (itemReady (qpOf s q)) = some (.again psn)) :
    pacedRoce q ext s = roceAgain q psn (setQp q { qpOf s q with queue := (qpOf s q).queue.erase (.again psn) } s) := by
  simp [pacedRoce, hcr, hc, has, ht, hu, hmode, hr, hf]

theorem pacedRoce_builds (hf : (qpOf s q).queue.find? (itemReady (qpOf s q)) = none) : pacedRoce q ext s = buildRoce q ext s := by
  simp [pacedRoce, hcr, hc, has, ht, hu, hmode, hr, hf]

end

section
variable {q : Nat} {s : State}

theorem exec_pacedSend_shuttle {ext : List ExtRead} {corrupt : Bool} {t : State} (hmode : qpMode (qpOf s q) = 0)
    (h : pacedSend q ext corrupt s = t) : exec (.pacedSend q ⟨ext, corrupt⟩) s = .next (shtEnded s t) := by
  rw [← h, exec, execPacedSend, if_pos hmode]
  rfl

theorem exec_pacedSend_roce {ext : List ExtRead} {corrupt : Bool} {t : State} (hmode : qpMode (qpOf s q) ≠ 0)
    (h : pacedRoce q ext s = t) : exec (.pacedSend q ⟨ext, corrupt⟩) s = .next (shtEnded s t) := by
  rw [← h, exec, execPacedSend, if_neg hmode]
  rfl

theorem txqRoom_served (ha : (qpOf s q).aside = true) (hr : qpRoom s q = true) :
    txqRoom q s = (qpOf s q).ctlHeld.foldl (sendHeld q) (setQp q { qpOf s q with aside := false, ctlHeld := [] } s) := by
  simp [txqRoom, ha, hr]

theorem txqRoom_idle (h : (qpOf s q).aside = false ∨ qpRoom s q = false) : txqRoom q s = s := by
  rcases h with h | h <;> simp [txqRoom, h]

end

/-- Settles O31: a send time that has come is one choice of packet, and TXQ_ROOM one of what is owed; between calm states a packet of an
inline WRITE takes the next PSN and is kept. -/
theorem packetsOfAMessageAreBuilt : Obligations.PacketsOfAMessageAreBuilt := by
  unfold Obligations.PacketsOfAMessageAreBuilt
  refine ⟨fun q ext corrupt s hcr hc has ht hu => ⟨fun hmode hk => ⟨fun hr => ?aside, fun hr => ⟨fun i hf => ?item, ?build⟩⟩,
    fun hmode hr => ⟨fun psn hf => ?again, fun hf => ?roce⟩⟩, fun q s ha hr => ?room, fun q s hs h => ?idle⟩
  case aside => exact exec_pacedSend_shuttle hmode (pacedSend_aside ext corrupt hcr hc has ht hu hmode hk hr)
  case item => exact exec_pacedSend_shuttle hmode (pacedSend_item ext corrupt hcr hc has ht hu hmode hk hr hf)
  case build =>
    intro hf o hn hm hw
    have go {t : State} (h : buildNext q ext corrupt s = t) : exec (.pacedSend q ⟨ext, corrupt⟩) s = .next (shtEnded s t) :=
      exec_pacedSend_shuttle hmode ((pacedSend_builds ext corrupt hcr hc has ht hu hmode hk hr hf).trans h)
    refine ⟨fun hread => go (buildNext_read hn hm hw ext corrupt hread), fun hdata hi u bs hsrc => ?data, fun hat hout d hd hcrc => ?atomic,
      fun hud hi u bs hsrc => ?ud, fun hs _ hwr d hd hcrc => ?write⟩
    case data =>
      simp only [List.mem_cons, List.not_mem_nil, or_false] at hdata
      refine go ?_
      rw [buildNext_sends hn hm hw ext corrupt (by omega) (by omega) hi hsrc, if_neg (by simp; omega)]
    case atomic =>
      simp only [List.mem_cons, List.not_mem_nil, or_false] at hat
      exact go (buildNext_atomic hn hm hw ext corrupt hat hout hd hcrc)
    case ud =>
      refine go ?_
      rw [buildNext_sends hn hm hw ext corrupt (by omega) (by omega) hi hsrc, if_pos (by simp [hud])]
    case write =>
      have hb := buildNext_sends hn hm hw ext corrupt (by omega) (by omega) (pushIntact_unchecked hcrc _ corrupt) (opSource_inline hd _ ext s)
      rw [if_neg (by simp [hwr])] at hb
      obtain ⟨hp, hpsn, e, hsent, hepsn, heop, heopc, hepay, heoff⟩ := sendOpPacket_keeps o
        (slice d o.built (min (qpMtu (qpOf s q)) (o.len - o.built))) (min (qpMtu (qpOf s q)) (o.len - o.built)) s
      rw [nextOp_qp hn] at hpsn hsent hepsn
      have hq := qpOf_of_sht (congrArg (·.qp) (shtEnded_sht (s := s) (hp.trans hs.2))) q
      rw [hwr] at heopc heoff
      exact ⟨_, e, go hb, by rw [hq, hpsn], by rw [hq, hsent], hepsn, heop, heopc, hepay, heoff⟩
  case again => exact exec_pacedSend_roce hmode (pacedRoce_again ext hcr hc has ht hu hmode hr hf)
  case roce => exact exec_pacedSend_roce hmode (pacedRoce_builds ext hcr hc has ht hu hmode hr hf)
  case room =>
    rw [exec, execTxqRoom, txqRoom_served ha hr]
    rfl
  case idle =>
    rw [exec, execTxqRoom, txqRoom_idle h]
    exact congrArg Host.Outcome.next (shtEnded_undisturbed hs (.refl s) rfl)

end Sys2Proof.Machine
end

section
/-! PROOFS. Commits and timers of a queue pair (R136, R150, R152, R171, R178, R182, R185, R188, R199). -/

namespace Sys2Proof.Machine

/-- What a Shuttle step that ends no push of a Reed engine leaves of a queue pair. -/
theorem qpOf_shtEnded {s t : State} (hs : calm s) (hp : t.sht.pushDone = s.sht.pushDone) (q : Nat) :
    qpOf (shtEnded s t) q = qpOf t q := qpOf_of_sht (congrArg (·.qp) (shtEnded_sht (hp.trans hs.2))) q

/-- A Shuttle step that does nothing leaves a calm state as it is. -/
theorem shtEnds_idle {s t : State} (hs : calm s) (h : t = s) : shtEnds s t = .next s := by
  subst h
  exact congrArg Host.Outcome.next (shtEnded_undisturbed hs (.refl _) rfl)

/-! ## A queue pair that fails (R136) -/

section
variable {q : Nat} {s : State} (h : (qpOf s q).state = .active) (st : Status) (culprit : Option Nat) (recv : Option CmdRef)
  (psn : BitVec 32)
include h

theorem qpFails_active : ∃ r, qpFails q st culprit recv psn s =
    report r (toError q st culprit recv { s with sht := { s.sht with qpErrSeen := true } }) :=
  ⟨_, by simp only [qpFails, h]; rfl⟩

theorem qpFails_qpErrSeen : (qpFails q st culprit recv psn s).sht.qpErrSeen = true := by
  obtain ⟨r, he⟩ := qpFails_active h st culprit recv psn
  rw [he]
  show (toError q st culprit recv { s with sht := { s.sht with qpErrSeen := true } }).sht.qpErrSeen = true
  rw [(toError_endsWork q st culprit recv _).sht]

theorem qpOf_qpFails : qpOf (qpFails q st culprit recv psn s) q = errored (statusCode st) (qpOf s q) := by
  obtain ⟨r, he⟩ := qpFails_active h st culprit recv psn
  rw [he, (report_leaves _ _).qpOf, qpOf_toError]
  rfl

theorem qpFails_pushDone (ho : opsOf s q = []) : (qpFails q st culprit recv psn s).sht.pushDone = s.sht.pushDone := by
  obtain ⟨r, he⟩ := qpFails_active h st culprit recv psn
  rw [he, (report_leaves _ _).transmits.pushDone]
  refine toError_pushDone q st culprit recv _ fun o hm => ?_
  rw [show opsOf { s with sht := { s.sht with qpErrSeen := true } } q = [] from ho] at hm
  exact absurd hm List.not_mem_nil

theorem qpFails_nvmeTmoSeen : (qpFails q st culprit recv psn s).sht.nvmeTmoSeen = s.sht.nvmeTmoSeen := by
  obtain ⟨r, he⟩ := qpFails_active h st culprit recv psn
  rw [he]
  show (toError q st culprit recv { s with sht := { s.sht with qpErrSeen := true } }).sht.nvmeTmoSeen = s.sht.nvmeTmoSeen
  rw [(toError_endsWork q st culprit recv _).sht]

/-- An outcome given before a queue pair fails stays given. -/
theorem qpFails_done {d : Done} (hd : d ∈ s.jcq.done) : d ∈ (qpFails q st culprit recv psn s).jcq.done := by
  obtain ⟨r, he⟩ := qpFails_active h st culprit recv psn
  rw [he]
  exact (toError_endsWork q st culprit recv { s with sht := { s.sht with qpErrSeen := true } }).done d hd

end

/-! ## Commits -/

theorem newWrites_self (s : State) : newWrites s s = [] := by simp [newWrites]

section
variable {q : Nat} {psn : BitVec 32} {ext : List ExtRead} {s : State} {o : RxOpen}
  (hf : (qpOf s q).opened.find? (fun o => o.psns.contains psn) = some o)
include hf

/-- A packet whose writes are not visible, or a FLAG packet behind another, does not commit. -/
theorem commitPacket_waits (h : o.waits ≠ [] ∨ (o.flag = true ∧ commitBase (qpOf s q) ≠ psn)) : commitPacket q psn ext s = s := by
  have hg : (!o.waits.isEmpty || (o.flag && commitBase (qpOf s q) != psn)) = true := by
    rcases h with h | ⟨h, hb⟩
    · simp [h]
    · simp [h, hb]
  simp only [commitPacket, hf, hg, if_true]

variable (hw : o.waits = []) (hb : o.flag = true → commitBase (qpOf s q) = psn)
include hw hb

theorem commitPacket_refused {st : Status} (h : o.fault = some st) : commitPacket q psn ext s = refuseOpen q o psn st s := by
  have hg : (!o.waits.isEmpty || (o.flag && commitBase (qpOf s q) != psn)) = false := by
    cases hfl : o.flag <;> simp [hw, hfl, hb]
  simp only [commitPacket, hf, hg, h, Bool.false_eq_true, if_false, Option.isSome_some, if_true, Option.getD_some]

theorem commitPacket_commits (h : o.fault = none) {u : State} (hwr : writeFlag q o ext s = (u, .ok)) (hn : newWrites s u = []) :
    commitPacket q psn ext s = commitOpen q o u := by
  have hg : (!o.waits.isEmpty || (o.flag && commitBase (qpOf s q) != psn)) = false := by
    cases hfl : o.flag <;> simp [hw, hfl, hb]
  simp only [commitPacket, hf, hg, h, hwr, hn, Bool.false_eq_true, if_false, Option.isSome_none, if_true]

end

theorem writeFlag_written {o : RxOpen} (h : o.write = none) (q : Nat) (ext : List ExtRead) (s : State) :
    writeFlag q o ext s = (s, .ok) := by simp only [writeFlag, h]

/-- A packet that is part of no SEND and draws no ACK commits by leaving its queue pair's accepted packets. -/
theorem commitOpen_silent {o : RxOpen} (hsend : o.send = false) (hack : o.ack = false) (q : Nat) (s : State) :
    commitOpen q o s = countCommit q o.bytes (modQp q (fun v => { v with opened := v.opened.erase o }) s) := by
  simp [commitOpen, hsend, hack]

/-! ## Acknowledgement delays -/

theorem ackDelay_due {q : Nat} {s : State} {x : Word64} (hx : (qpOf s q).tAck = some x) (hp : passed (qpTime s q) x = true)
    (send : State → State) : ackDelay q send s = send s := by simp [ackDelay, hx, hp]

theorem qpOf_sendAck_cleared {q : Nat} {s : State} (hk : keyStalled s q = false) :
    ∃ a l, qpOf (sendAck q s) q = { ackCleared (qpOf s q) with aside := a, ctlHeld := l } := by
  obtain ⟨c, hc⟩ := sendAck_sends hk
  obtain ⟨a, l, he⟩ := qpOf_sendCtl q c (setQp q (ackCleared (qpOf s q)) s)
  exact ⟨a, l, by rw [hc, he, qpOf_setQp]⟩

/-! ## Retransmission timeouts (R182, R199) -/

/-- What setting the rate back or T_RTO anew keeps of its queue pair: all but its rate control and T_RTO. -/
structure KeepsRtx (v w : Qp) : Prop where
  retries : w.retries = v.retries
  rtoShift : w.rtoShift = v.rtoShift
  rtxMark : w.rtxMark = v.rtxMark
  pathAlive : w.pathAlive = v.pathAlive
  sent : w.sent = v.sent
  deferred : w.deferred = v.deferred
  queue : w.queue = v.queue

theorem KeepsRtx.refl (v : Qp) : KeepsRtx v v := ⟨rfl, rfl, rfl, rfl, rfl, rfl, rfl⟩

theorem KeepsRtx.trans {v w x : Qp} (h : KeepsRtx v w) (k : KeepsRtx w x) : KeepsRtx v x :=
  ⟨k.retries.trans h.retries, k.rtoShift.trans h.rtoShift, k.rtxMark.trans h.rtxMark, k.pathAlive.trans h.pathAlive,
    k.sent.trans h.sent, k.deferred.trans h.deferred, k.queue.trans h.queue⟩

theorem armRto_keepsRtx (q : Nat) (s : State) : KeepsRtx (qpOf s q) (qpOf (armRto q s) q) := by
  rw [armRto, qpOf_modQp]
  split <;> exact ⟨rfl, rfl, rfl, rfl, rfl, rfl, rfl⟩

theorem cutRate_keepsRtx (q new : Nat) (s : State) : KeepsRtx (qpOf s q) (qpOf (cutRate q new s) q) := by
  simp only [cutRate]
  rw [qpOf_modQp, (bump_leaves _ _ _ s).qpOf]
  exact ⟨rfl, rfl, rfl, rfl, rfl, rfl, rfl⟩

theorem cutRate_transmits (q new : Nat) (s : State) : Transmits s (cutRate q new s) := by
  simp only [cutRate]
  exact (bump_leaves _ _ _ s).transmits.trans (modQp_transmits q _ _)

/-- After a timeout the rate is cut where congestion control is on, and T_RTO runs anew. -/
def backOff (q rate : Nat) (s : State) : State := armRto q (if s.sht.ccEnable then cutRate q (rate / 2) s else s)

theorem backOff_keepsRtx (q rate : Nat) (s : State) : KeepsRtx (qpOf s q) (qpOf (backOff q rate s) q) := by
  unfold backOff
  split
  · exact (cutRate_keepsRtx q _ s).trans (armRto_keepsRtx q _)
  · exact armRto_keepsRtx q s

theorem backOff_pushDone (q rate : Nat) (s : State) : (backOff q rate s).sht.pushDone = s.sht.pushDone := by
  unfold backOff
  split
  · exact ((cutRate_transmits q _ s).trans (armRto_transmits q _)).pushDone
  · exact (armRto_transmits q s).pushDone

/-- The packets a timeout puts in line, and the paths it rolls anew. -/
def rtoRetry (q : Nat) (s : State) : Qp :=
  let v := qpOf s q
  let v1 := requeue (unackedFrom v v.sndUna) { v with retries := v.retries + 1 }
  let v1 := { v1 with rtxMark := v.sqPsn, rtoShift := min (v.rtoShift + 1) s.sht.rtoShiftMax.toNat, rtoFired := some (qpTime s q) }
  let dead := (List.range (qpPaths v)).filter fun p => !v.pathAlive.getLsbD p
  { dead.foldl (fun v p => reroll s p v) v1 with pathAlive := 0 }

theorem reroll_fold_frame (s : State) (dead : List Nat) (v : Qp) :
    ∃ en be, dead.foldl (fun v p => reroll s p v) v = { v with entropy := en, beta := be } := by
  induction dead generalizing v with
  | nil => exact ⟨_, _, rfl⟩
  | cons p r ih =>
    obtain ⟨en, be, he⟩ := ih (reroll s p v)
    exact ⟨en, be, he⟩

theorem rtoRetry_fields (q : Nat) (s : State) : (rtoRetry q s).retries = (qpOf s q).retries + 1 ∧
    (rtoRetry q s).rtoShift = min ((qpOf s q).rtoShift + 1) s.sht.rtoShiftMax.toNat ∧
    (rtoRetry q s).rtxMark = (qpOf s q).sqPsn ∧ (rtoRetry q s).pathAlive = 0 ∧ (rtoRetry q s).sent = (qpOf s q).sent := by
  simp only [rtoRetry]
  obtain ⟨en, be, he⟩ := reroll_fold_frame s ((List.range (qpPaths (qpOf s q))).filter fun p => !(qpOf s q).pathAlive.getLsbD p)
    { requeue (unackedFrom (qpOf s q) (qpOf s q).sndUna) { qpOf s q with retries := (qpOf s q).retries + 1 } with
      rtxMark := (qpOf s q).sqPsn, rtoShift := min ((qpOf s q).rtoShift + 1) s.sht.rtoShiftMax.toNat
      rtoFired := some (qpTime s q) }
  rw [he]
  exact ⟨rfl, rfl, rfl, trivial, rfl⟩

section
variable {q : Nat} {s : State} {x : Word64} (hx : (qpOf s q).tRto = some x) (hp : passed (qpTime s q) x = true)
  (hd : (qpOf s q).deferred = false) (hsent : (qpOf s q).sent ≠ [])
include hx hp hd hsent

theorem roceRto_fails (hr : qpRetryMax (qpOf s q) ≤ (qpOf s q).retries) : roceRto q s = qpFails q .timeout
    (((qpOf s q).sent.find? fun e => e.psn == (qpOf s q).sndUna).map (·.op)) none (qpOf s q).sndUna s := by
  simp [roceRto, hx, hp, hd, hsent, hr]

theorem roceRto_retries (hr : (qpOf s q).retries < qpRetryMax (qpOf s q)) :
    roceRto q s = backOff q (qpOf s q).rate (roceRequeue q (qpOf s q).sndUna (setQp q { qpOf s q with
      retries := (qpOf s q).retries + 1, rtoShift := min ((qpOf s q).rtoShift + 1) s.sht.rtoShiftMax.toNat } s)) := by
  simp [roceRto, hx, hp, hd, hsent, Nat.not_le.mpr hr]
  rfl

variable (hk : keyStalled s q = false)
include hk

theorem rtoExpiry_fails (hr : qpRetryMax (qpOf s q) ≤ (qpOf s q).retries) : rtoExpiry q s = qpFails q .timeout
    (((qpOf s q).sent.find? fun e => e.psn == (qpOf s q).sndUna).map (·.op)) none (qpOf s q).sndUna s := by
  simp [rtoExpiry, hx, hp, hd, hsent, hk, hr]

theorem rtoExpiry_retries (hr : (qpOf s q).retries < qpRetryMax (qpOf s q)) : ∃ n,
    rtoExpiry q s = backOff q (qpOf s q).rate (setQp q (rtoRetry q s) { s with sht := { s.sht with retxRto := n } }) := by
  refine ⟨satAdd s.sht.retxRto (resent (unackedFrom (qpOf s q) (qpOf s q).sndUna)).length, ?_⟩
  unfold rtoExpiry
  exact (if_neg (by simp [hx, hp, hd, hsent, hk])).trans ((if_neg (Nat.not_le.mpr hr)).trans rfl)

end

theorem roceRequeue_keeps (q : Nat) (lo : BitVec 32) (s : State) : ∃ l,
    qpOf (roceRequeue q lo s) q = { qpOf s q with queue := l } := ⟨_, by simp only [roceRequeue]; rw [qpOf_setQp]⟩

/-- A retransmission timeout that is due, with retries left, in either mode. -/
theorem retried {q : Nat} {s t : State} {x : Word64} (hx : (qpOf s q).tRto = some x) (hp : passed (qpTime s q) x = true)
    (hd : (qpOf s q).deferred = false) (hk : keyStalled s q = false) (hsent : (qpOf s q).sent ≠ [])
    (hr : (qpOf s q).retries < qpRetryMax (qpOf s q)) (ht : t = if qpMode (qpOf s q) = 0 then rtoExpiry q s else roceRto q s) :
    t.sht.pushDone = s.sht.pushDone ∧ (qpOf t q).retries = (qpOf s q).retries + 1 ∧
      (qpOf t q).rtoShift = min ((qpOf s q).rtoShift + 1) s.sht.rtoShiftMax.toNat ∧
      (qpMode (qpOf s q) = 0 → (qpOf t q).rtxMark = (qpOf s q).sqPsn ∧ (qpOf t q).pathAlive = 0 ∧
        (qpOf t q).sent = (qpOf s q).sent) := by
  by_cases hm : qpMode (qpOf s q) = 0
  · obtain ⟨n, he⟩ := rtoExpiry_retries hx hp hd hsent hk hr
    rw [if_pos hm, he] at ht
    have hb := backOff_keepsRtx q (qpOf s q).rate (setQp q (rtoRetry q s) { s with sht := { s.sht with retxRto := n } })
    rw [← ht, qpOf_setQp] at hb
    obtain ⟨h1, h2, h3, h4, h5⟩ := rtoRetry_fields q s
    exact ⟨by rw [ht, backOff_pushDone]; rfl, hb.retries.trans h1, hb.rtoShift.trans h2,
      fun _ => ⟨hb.rtxMark.trans h3, hb.pathAlive.trans h4, hb.sent.trans h5⟩⟩
  · rw [if_neg hm, roceRto_retries hx hp hd hsent hr] at ht
    have hb := backOff_keepsRtx q (qpOf s q).rate (roceRequeue q (qpOf s q).sndUna (setQp q { qpOf s q with
      retries := (qpOf s q).retries + 1, rtoShift := min ((qpOf s q).rtoShift + 1) s.sht.rtoShiftMax.toNat } s))
    obtain ⟨l, hl⟩ := roceRequeue_keeps q (qpOf s q).sndUna (setQp q { qpOf s q with
      retries := (qpOf s q).retries + 1, rtoShift := min ((qpOf s q).rtoShift + 1) s.sht.rtoShiftMax.toNat } s)
    rw [← ht, hl, qpOf_setQp] at hb
    exact ⟨by rw [ht, backOff_pushDone]; rfl, hb.retries, hb.rtoShift, fun h => absurd h hm⟩

/-! ## Deferrals and rate increases (R185, R188) -/

theorem mem_requeue {es : List Sent} {v : Qp} {e : Sent} (he : e ∈ es) (hr : e.refused = none) : .again e.psn ∈ (requeue es v).queue := by
  simp only [requeue, List.mem_append]
  exact .inr (List.mem_map.mpr ⟨e, List.mem_filter.mpr ⟨he, by simp [hr]⟩, rfl⟩)

/-- A deferral that ends: every unacknowledged PSN from its start goes in line again. -/
theorem resume_resumes (q : Nat) (lo : BitVec 32) (s : State) : (resume q lo s).sht.pushDone = s.sht.pushDone ∧
    (qpOf (resume q lo s) q).deferred = false ∧ (qpOf (resume q lo s) q).rtxMark = (qpOf s q).sqPsn ∧
    ∀ e ∈ unackedFrom (qpOf s q) lo, e.refused = none → .again e.psn ∈ (qpOf (resume q lo s) q).queue := by
  have h := armRto_keepsRtx q (modQp q (fun v =>
    { requeue (unackedFrom v lo) v with rtxMark := v.sqPsn, deferred := false }) s)
  rw [qpOf_modQp] at h
  refine ⟨(armRto_transmits q _).pushDone, h.deferred, h.rtxMark, fun e he hr => ?_⟩
  rw [show (qpOf (resume q lo s) q).queue = _ from h.queue]
  exact mem_requeue he hr

/-- While the first five steps of T_INC last, the rate goes half way to its target. -/
theorem increase_fast {q : Nat} {s : State} (h : (qpOf s q).stage < 5) : (qpOf (increase q s) q).rate =
      ((qpOf s q).rate + (qpOf s q).target) / 2 ∧ (qpOf (increase q s) q).target = (qpOf s q).target ∧
    (qpOf (increase q s) q).stage = (qpOf s q).stage + 1 := by
  have hst : min 255 ((qpOf s q).stage + 1) = (qpOf s q).stage + 1 := by omega
  have h1 : ¬ (qpOf s q).stage + 1 > 5 + s.sht.haiAfter.toNat := by omega
  have h2 : ¬ (qpOf s q).stage + 1 > 5 := by omega
  simp only [increase, hst, h1, h2, if_false]
  rw [qpOf_setQp]
  exact ⟨rfl, rfl, rfl⟩

/-! ## NVMe timeouts (R171) -/

/-- An NVMe command whose time has passed leaves its queue pair, and completes with TIMEOUT. -/
def nvmeTimedOut (q : Nat) (n : NvmeCmd) (s : State) : State :=
  completeRef n.cmd .timeout [] (serving s q) (setQp q
    { qpOf s q with nvme := (qpOf s q).nvme.filter fun x => x.cid != n.cid } { s with sht := { s.sht with nvmeTmoSeen := true } })

theorem nvmeTimeout_due {q : Nat} {s : State} {n : NvmeCmd}
    (h : (qpOf s q).nvme.find? (fun c => decide (s.sht.nvmeTmoMs.toNat * 1000000 ≤ (qpTime s q - c.sent).toNat)) = some n) :
    nvmeTimeout q s = qpFails q .timeout none none (qpOf s q).sndUna (nvmeTimedOut q n s) := by
  simp only [nvmeTimeout, ge_iff_le, h]
  rfl

section
variable (q : Nat) (n : NvmeCmd) (s : State)

theorem nvmeTimedOut_sht : (nvmeTimedOut q n s).sht = (setQp q
    { qpOf s q with nvme := (qpOf s q).nvme.filter fun x => x.cid != n.cid }
    { s with sht := { s.sht with nvmeTmoSeen := true } }).sht := completeRef_sht _ _ _ _ _

theorem nvmeTimedOut_state : (qpOf (nvmeTimedOut q n s) q).state = (qpOf s q).state := by
  rw [qpOf_of_sht (congrArg (·.qp) (nvmeTimedOut_sht q n s)), qpOf_setQp]

theorem nvmeTimedOut_opsOf : opsOf (nvmeTimedOut q n s) q = opsOf s q := by
  rw [opsOf, nvmeTimedOut_sht]
  rfl

theorem nvmeTimedOut_done (h : ∃ l ∈ s.jcq.live, l.ref = n.cmd) :
    ∃ d ∈ (nvmeTimedOut q n s).jcq.done, d.ref = n.cmd ∧ d.status = .timeout := by
  obtain ⟨e, he, href, hst, -⟩ := completeRef_last .timeout [] (serving s q) (s := setQp q
    { qpOf s q with nvme := (qpOf s q).nvme.filter fun x => x.cid != n.cid }
    { s with sht := { s.sht with nvmeTmoSeen := true } }) h
  exact ⟨e, by rw [nvmeTimedOut, he]; simp, href, hst⟩

end

/-! ## The obligation -/

/-- Timers of a queue pair that none of its work runs change nothing. -/
theorem timers_idle {q : Nat} {s : State} (hA : (qpOf s q).tAck = none) (hR : (qpOf s q).tRto = none)
    (hI : (qpOf s q).tInc = none) (hD : (qpOf s q).deferred = false) (hN : (qpOf s q).nvme = []) (send : State → State) :
    ackDelay q send s = s ∧ (rtoExpiry q s = s ∧ roceRto q s = s) ∧ (deferExpiry q s = s ∧ roceDefer q s = s) ∧
      incExpiry q s = s ∧ nvmeTimeout q s = s :=
  ⟨by simp [ackDelay, hA], ⟨by simp [rtoExpiry, hR], by simp [roceRto, hR]⟩, ⟨by simp [deferExpiry, hD], by simp [roceDefer, hD]⟩,
    by simp [incExpiry, hI], by simp [nvmeTimeout, hN]⟩

/-- Settles O36: each commit and each expiry is one step of its queue pair, and a timer that does not run changes nothing. -/
theorem commitsAndTimersOfQueuePairs : Obligations.CommitsAndTimersOfQueuePairs := by
  unfold Obligations.CommitsAndTimersOfQueuePairs
  refine ⟨?commit, ?waits, ?roce, ?ack, ?rto, ?defer, ?inc, ?nvme, ?idle⟩
  case commit =>
    intro q psn ext s o hm hf hw hb
    have go {t : State} (h : commitPacket q psn ext s = t) : exec (.packetCommit q psn ext) s = .next (shtEnded s t) := by
      rw [← h, exec, execPacketCommit, if_pos hm]
      rfl
    refine ⟨fun hfault hwr => ?_, fun x u hfault hwr hok hn => ?_, fun st hst => ?_, fun hs hfault hwr hsend hack => ?_⟩
    · exact go (commitPacket_commits hf hw hb hfault (writeFlag_written hwr q ext s) (newWrites_self s))
    · exact go (commitPacket_commits hf hw hb hfault hok hn)
    · exact go (commitPacket_refused hf hw hb hst)
    · have he := commitPacket_commits hf hw hb hfault (writeFlag_written hwr q ext s) (newWrites_self s)
      rw [commitOpen_silent hsend hack] at he
      have hl := countCommit_leaves q o.bytes (modQp q (fun v => { v with opened := v.opened.erase o }) s)
      refine ⟨_, go he, ?_, fun x hx => ?_⟩ <;> rw [qpOf_shtEnded hs hl.transmits.pushDone, hl.qpOf]
      · rw [qpOf_modQp]
      · rw [qpOf_modQp_other _ _ _ _ hx]
  case waits =>
    intro q psn ext s o hs hm hf h
    rw [exec, execPacketCommit, if_pos hm]
    exact shtEnds_idle hs (commitPacket_waits hf h)
  case roce =>
    intro q psn ext s hm
    rw [exec, execPacketCommit, if_neg hm]
    rfl
  case ack =>
    intro q s x hx hp
    have go : exec (.ackDelayExpiry q) s =
        .next (shtEnded s ((if qpMode (qpOf s q) = 0 then sendAck q else roceAckLast q) s)) := by
      rw [exec, execAckDelayExpiry, ackDelay_due hx hp]
      rfl
    refine ⟨fun hm => by rw [go, if_neg hm], fun hm => by rw [go, if_pos hm], fun hs hm hk => ⟨_, go, ?_⟩⟩
    obtain ⟨a, l, he⟩ := qpOf_sendAck_cleared hk
    rw [if_pos hm, qpOf_shtEnded hs (sendAck_transmits q s).pushDone, he]
    exact ⟨rfl, rfl, rfl, rfl⟩
  case rto =>
    intro q s x hx hp hd hk hsent
    have go : exec (.tRtoExpiry q) s = .next (shtEnded s (if qpMode (qpOf s q) = 0 then rtoExpiry q s else roceRto q s)) := rfl
    have fails (hr : qpRetryMax (qpOf s q) ≤ (qpOf s q).retries) : exec (.tRtoExpiry q) s = .next (shtEnded s
        (qpFails q .timeout (((qpOf s q).sent.find? fun e => e.psn == (qpOf s q).sndUna).map (·.op)) none (qpOf s q).sndUna s)) := by
      rw [go, rtoExpiry_fails hx hp hd hsent hk hr, roceRto_fails hx hp hd hsent hr, ite_self]
    refine ⟨fun hs hr => ⟨_, go, rfl, ?_⟩, fails, fun hs hr hact hops => ⟨_, fails hr, ?_⟩⟩
    · obtain ⟨hpd, h⟩ := retried hx hp hd hk hsent hr rfl
      rw [qpOf_shtEnded hs hpd]
      exact h
    · have hpd := qpFails_pushDone hact .timeout (((qpOf s q).sent.find? fun e => e.psn == (qpOf s q).sndUna).map (·.op)) none
        (qpOf s q).sndUna hops
      rw [qpOf_shtEnded hs hpd, shtEnded_sht (hpd.trans hs.2), qpOf_qpFails hact]
      exact ⟨rfl, rfl, qpFails_qpErrSeen hact _ _ _ _⟩
  case defer =>
    intro q s hd hp
    have go : exec (.deferExpiry q) s =
        .next (shtEnded s (if qpMode (qpOf s q) = 0 then resume q (qpOf s q).deferLo s else roceDefer q s)) := by
      have he : deferExpiry q s = resume q (qpOf s q).deferLo s := by simp [deferExpiry, hd, hp]
      rw [← he]
      rfl
    refine ⟨fun hm => by rw [go, if_neg hm], fun hm => by rw [go, if_pos hm], fun hs hm => ⟨_, go, ?_⟩⟩
    obtain ⟨hpd, h⟩ := resume_resumes q (qpOf s q).deferLo s
    rw [if_pos hm, qpOf_shtEnded hs hpd]
    exact h
  case inc =>
    intro q s x hx hp hcc hk
    have go : exec (.tIncExpiry q) s = .next (shtEnded s (increase q s)) := by
      have he : incExpiry q s = increase q s := by simp [incExpiry, hx, hp, hcc, hk]
      rw [← he]
      rfl
    refine ⟨go, fun hs hst => ⟨_, go, ?_⟩⟩
    rw [qpOf_shtEnded hs (t := increase q s) rfl]
    exact increase_fast hst
  case nvme =>
    intro q s n hn
    have go : exec (.nvmeTimeout q) s =
        .next (shtEnded s (qpFails q .timeout none none (qpOf s q).sndUna (nvmeTimedOut q n s))) := by
      rw [← nvmeTimeout_due hn]
      rfl
    refine ⟨go, fun hs hops hact => ⟨_, go, ?_⟩⟩
    have hact' := (nvmeTimedOut_state q n s).trans hact
    have hpd : (qpFails q .timeout none none (qpOf s q).sndUna (nvmeTimedOut q n s)).sht.pushDone = s.sht.pushDone := by
      rw [qpFails_pushDone hact' _ _ _ _ ((nvmeTimedOut_opsOf q n s).trans hops), nvmeTimedOut_sht]
      rfl
    rw [qpOf_shtEnded hs hpd, shtEnded_sht (hpd.trans hs.2), qpOf_qpFails hact', qpFails_nvmeTmoSeen hact', nvmeTimedOut_sht]
    refine ⟨rfl, rfl, fun l hl hr => ?_⟩
    obtain ⟨d, hd, hdn⟩ := nvmeTimedOut_done q n s ⟨l, hl, hr⟩
    refine ⟨d, ?_, hdn⟩
    rw [shtEnded, reedNotice_quiet (hpd.trans hs.2), ended_done]
    exact qpFails_done hact' _ _ _ _ hd
  case idle =>
    intro q s hs hA hR hI hD hN
    obtain ⟨ha, hr, hd, hi, hn⟩ := timers_idle hA hR hI hD hN (if qpMode (qpOf s q) = 0 then sendAck q else roceAckLast q)
    refine ⟨shtEnds_idle hs ha, shtEnds_idle hs ?_, shtEnds_idle hs ?_, shtEnds_idle hs hi, shtEnds_idle hs hn⟩
    · rw [hr.1, hr.2, ite_self]
    · rw [hd.1, hd.2, ite_self]

end Sys2Proof.Machine
end

section
/-! PROOFS. Contexts that come into a slice, and what 256 bytes hold of one (R128, R133, R190, R191, R194, R196). -/

namespace Sys2Proof.Machine

/-! ## What reading memory leaves of a queue pair's home -/

theorem noteBad_unit (src ctx a : Nat) (st : Status) (s : State) : (noteBad src ctx a st s).saf.unit = s.saf.unit := by
  unfold noteBad
  split
  · rfl
  · split <;> rfl
  · rfl

theorem spoolRead_sameHome (src ctx off len : Nat) (s : State) : SameHome s (spoolRead src ctx off len s).1 := by
  have ht := spoolRead_touches src ctx off len s
  refine ⟨by rw [ht.weft], ?_, by rw [ht.sht], fun q => by rw [opsOf, ht.sht]; rfl⟩
  simp only [spoolRead]
  split
  · rw [noteBad_unit, (countLines_safJcq _ _ _ s).1]
  · rw [(countLines_safJcq _ _ _ s).1]

/-! ## The 256 bytes of a context (R133, R196) -/

/-- A field past the first bytes of a string lies in the rest. -/
theorem fieldLE_append {a : List Byte} {off : Nat} (h : a.length ≤ off) (n : Nat) (r : List Byte) :
    fieldLE (a ++ r) off n = fieldLE r (off - a.length) n := by
  rw [fieldLE, fieldLE, List.drop_append, List.drop_of_length_le h, List.nil_append]

theorem archBytes_length (v : Qp) (off n : Nat) : (archBytes v off n).length = n := slice_length _ _ _

theorem fieldLE_archBytes {m off : Nat} (h : m ≤ off) (v : Qp) (b n : Nat) (r : List Byte) :
    fieldLE (archBytes v b m ++ r) off n = fieldLE r (off - m) n := by
  rw [fieldLE_append (by rwa [archBytes_length]), archBytes_length]

/-- The two bytes a context holds of each of 16 paths. -/
def pathBytes (f : Nat → Nat) : List Byte := (List.range 16).flatMap fun i => leBytes 2 (f i)

theorem pathBytes_length (f : Nat → Nat) : (pathBytes f).length = 32 := by simp [pathBytes]

theorem fieldLE_pathBytes {off : Nat} (h : 32 ≤ off) (f : Nat → Nat) (n : Nat) (r : List Byte) :
    fieldLE (pathBytes f ++ r) off n = fieldLE r (off - 32) n := by
  rw [fieldLE_append (by rwa [pathBytes_length]), pathBytes_length]

/-- The context's bytes, field by field. -/
theorem qpContext_eq (s : State) (q : Nat) : qpContext s q =
    leBytes 4 (archField (qpOf s q) 0 0 32 + qpStCode (qpOf s q).state + 8 * b2n (qpHeld s q) + 2 ^ 8 * qpPart s q) ++
    (archBytes (qpOf s q) 4 76 ++ (leBytes 4 (qpOf s q).sqPsn.toNat ++ (leBytes 4 (qpOf s q).rqBase.toNat ++
    (leBytes 2 (qpOf s q).nextMsg.toNat ++ (leBytes 2 (qpOf s q).recvs.length ++ (leBytes 1 (qpOf s q).errStatus.toNat ++
    (leBytes 3 0 ++ (leBytes 4 (qpOf s q).rate ++ (leBytes 4 (qpOf s q).target ++ (leBytes 2 (qpOf s q).alpha ++
    (leBytes 1 (qpOf s q).stage ++ (leBytes 1 (qpOf s q).retries ++ (leBytes 4 (ctxTime (qpOf s q).tCut) ++
    (leBytes 4 (ctxTimer (qpOf s q).tInc) ++ (leBytes 4 (ctxTimer (qpOf s q).tRto) ++ (leBytes 4 (qpOf s q).sndUna.toNat ++
    (leBytes 4 (qpOf s q).rtxMark.toNat ++ (leBytes 4 (qpOf s q).deferLo.toNat ++ (leBytes 4 (ctxTime (qpOf s q).deferUntil) ++
    (leBytes 32 (qpOf s q).sackMap.toNat ++ (leBytes 32 (qpOf s q).rxMap.toNat ++
    (pathBytes (fun i => tget 0 (qpOf s q).beta i + 2 ^ 8 * tget 0 (qpOf s q).entropy i) ++
    (leBytes 2 (qpOf s q).rxPathSeen.toNat ++ (leBytes 2 (qpOf s q).rxPathCe.toNat ++ (leBytes 2 (qpOf s q).pathAlive.toNat ++
    (leBytes 1 ((qpOf s q).dupSacks % 4 + 4 * b2n (qpOf s q).deferred + 8 * b2n (qpOf s q).cutValid + 16 * (qpOf s q).rtoShift) ++
    (leBytes 1 (qpOf s q).rxSinceAck ++ (leBytes 4 (ctxTimer (qpOf s q).tAck) ++
    (leBytes 4 (qpOf s q).atomicBlock ++ leBytes 8 0))))))))))))))))))))))))))))) := by
  unfold qpContext pathBytes
  simp only [List.append_assoc]

theorem qpContext_length (s : State) (q : Nat) : (qpContext s q).length = 256 := by
  simp only [qpContext_eq, List.length_append, leBytes_length, archBytes_length, pathBytes_length]

/-- A word of a context holds its field whole. -/
theorem toNat_mod_bytes {w : Nat} (n : Nat) (v : BitVec w) (h : w ≤ 8 * n) : v.toNat % 256 ^ n = v.toNat := by
  refine Nat.mod_eq_of_lt (lt_of_lt_of_le v.isLt ?_)
  rw [show 256 = 2 ^ 8 from rfl, ← Nat.pow_mul]
  exact Nat.pow_le_pow_right (by decide) h

theorem qpContext_fields (s : State) (q : Nat) :
    fieldLE (qpContext s q) 80 4 = (qpOf s q).sqPsn.toNat ∧ fieldLE (qpContext s q) 84 4 = (qpOf s q).rqBase.toNat ∧
      fieldLE (qpContext s q) 88 2 = (qpOf s q).nextMsg.toNat ∧
      fieldLE (qpContext s q) 90 2 = (qpOf s q).recvs.length % 2 ^ 16 ∧
      fieldLE (qpContext s q) 92 1 = (qpOf s q).errStatus.toNat ∧ fieldLE (qpContext s q) 96 4 = (qpOf s q).rate % 2 ^ 32 ∧
      fieldLE (qpContext s q) 120 4 = (qpOf s q).sndUna.toNat ∧ fieldLE (qpContext s q) 124 4 = (qpOf s q).rtxMark.toNat ∧
      fieldLE (qpContext s q) 136 32 = (qpOf s q).sackMap.toNat ∧ fieldLE (qpContext s q) 168 32 = (qpOf s q).rxMap.toNat ∧
      fieldLE (qpContext s q) 236 2 = (qpOf s q).pathAlive.toNat := by
  rw [qpContext_eq]
  refine ⟨?_, ?_, ?_, ?_, ?_, ?_, ?_, ?_, ?_, ?_, ?_⟩ <;>
    simp (disch := decide) only [fieldLE_skip, fieldLE_archBytes, fieldLE_pathBytes, Nat.reduceSub, fieldLE_leBytes]
  · exact toNat_mod_bytes 4 _ (by decide)
  · exact toNat_mod_bytes 4 _ (by decide)
  · exact toNat_mod_bytes 2 _ (by decide)
  · rfl
  · exact toNat_mod_bytes 1 _ (by decide)
  · rfl
  · exact toNat_mod_bytes 4 _ (by decide)
  · exact toNat_mod_bytes 4 _ (by decide)
  · exact toNat_mod_bytes 32 _ (by decide)
  · exact toNat_mod_bytes 32 _ (by decide)
  · exact toNat_mod_bytes 2 _ (by decide)

/-! ## A context that is lost (R194, R452) -/

/-- The key slot a queue pair uses is no longer referenced by it. -/
def keyForgotten (q : Nat) (s : State) : State :=
  if (qpOf s q).created && qpEnc (qpOf s q) then dropRef (qpSlot (qpOf s q)) s else s

theorem keyForgotten_leaves (q : Nat) (s : State) : Leaves s (keyForgotten q s) := by
  unfold keyForgotten
  split
  · exact setKeySlot_leaves _ _ s
  · exact .refl s

/-- What is left of a queue pair whose context is lost. -/
def lostQp (st : Status) : Qp := { created := true, state := .error, errStatus := BitVec.ofNat 8 (statusCode st) }

section
variable (d q : Nat) (st : Status) (s : State)

/-- The work of a queue pair whose context is lost has ended. -/
def workLost : State := toError q st none none (keyForgotten q s)

/-- The queue pair is in ERROR, and what is parked for it is discarded. -/
def lostWork : State :=
  setQp q (lostQp st) { workLost q st s with sht := { (workLost q st s).sht with
    parked := (workLost q st s).sht.parked.filter fun k => k.qp != q } }

/-- A context that is lost is written as it is left, and reported. -/
theorem contextLost_writes : contextLost d q st s =
    report (.event (qpPart s q) 0x04 st (slice_ d) (toLocal (lostWork q st s) 1 (qpPart s q) q) 0)
      (writeBack d q (lostWork q st s)) := by
  unfold contextLost lostWork workLost keyForgotten lostQp
  rfl

theorem contextLost_sht : (contextLost d q st s).sht = (lostWork q st s).sht := by
  rw [contextLost_writes, report_sht, writeBack_sht]

theorem qpOf_contextLost : qpOf (contextLost d q st s) q = lostQp st := by
  rw [qpOf_of_sht (congrArg (·.qp) (contextLost_sht d q st s)), lostWork, qpOf_setQp]

theorem qpOf_contextLost_other (x : Nat) (hx : x ≠ q) : qpOf (contextLost d q st s) x = qpOf s x := by
  rw [qpOf_of_sht (congrArg (·.qp) (contextLost_sht d q st s)), lostWork, qpOf_setQp_other _ _ _ _ hx]
  exact (qpOf_toError_other q st none none _ x hx).trans ((keyForgotten_leaves q s).qpOf x)

theorem contextLost_pushDone (h : opsOf s q = []) : (contextLost d q st s).sht.pushDone = s.sht.pushDone := by
  rw [contextLost_sht]
  show (workLost q st s).sht.pushDone = _
  have hk := (keyForgotten_leaves q s).transmits
  refine (toError_pushDone q st none none (keyForgotten q s) fun o ho => ?_).trans hk.pushDone
  rw [opsOf, hk.ops, ← opsOf, h] at ho
  exact absurd ho List.not_mem_nil

/-- What else of the transport stays: what waits, but for the frames parked for the queue pair, and the signs seen. -/
theorem contextLost_waiting : (contextLost d q st s).sht.waitCmds = s.sht.waitCmds ∧
    (contextLost d q st s).sht.parked = s.sht.parked.filter (fun k => k.qp != q) ∧
    (contextLost d q st s).sht.ctxPoisonSeen = s.sht.ctxPoisonSeen := by
  have he := (toError_endsWork q st none none (keyForgotten q s)).sht
  have hk := congrArg (·.sht) (keyForgotten_leaves q s).transmits
  rw [contextLost_sht, lostWork, setQp, workLost, he, hk]
  exact ⟨rfl, rfl, rfl⟩

end

/-! ## A context that has come (R191) -/

theorem contextHere_idle {q : Nat} {s : State} (hp : s.sht.parked = []) (hw : s.sht.waitCmds = []) : contextHere q s = s := by
  have h (f : Parked → Bool) : s.sht.parked.filter f = s.sht.parked := by rw [hp]; rfl
  have k (f : Cmd → Bool) : s.sht.waitCmds.filter f = s.sht.waitCmds := by rw [hw]; rfl
  simp only [contextHere, h, k]
  rw [hp, hw, List.foldl_nil, List.foldl_nil, ← hp, ← hw]

/-- The fetch of a context is over. -/
def fetchEnded (q : Nat) (s : State) : State :=
  untrack (.ctxFetch q) { s with sht := { s.sht with fetching := s.sht.fetching.filter (· != q) } }

/-- What the slice reads of a context that has come. -/
def contextRead (q : Nat) (s : State) : State × Status × List Byte :=
  spoolRead (slice_ (homeDie s q)) 0 (256 * q) 256 (fetchEnded q s)

/-- A context that has come stands first in its slice. -/
def contextEntered (q : Nat) (s : State) : State :=
  setCache (homeDie s q) (q :: cacheOf (contextRead q s).1 (homeDie s q)) (contextRead q s).1

section
variable (q : Nat) (s : State)

theorem contextRead_sht : (contextRead q s).1.sht = { s.sht with fetching := s.sht.fetching.filter (· != q) } :=
  (spoolRead_touches _ _ _ _ _).sht

theorem contextEntered_sht : (contextEntered q s).sht = { s.sht with
    fetching := s.sht.fetching.filter (· != q), cache := tset [] s.sht.cache (homeDie s q) (q :: cacheOf s (homeDie s q)) } := by
  simp only [contextEntered, setCache, cacheOf]
  rw [contextRead_sht]

theorem cacheOf_contextEntered : cacheOf (contextEntered q s) (homeDie s q) = q :: cacheOf s (homeDie s q) := by
  rw [cacheOf, contextEntered_sht]
  show tget [] (tset [] s.sht.cache (homeDie s q) (q :: cacheOf s (homeDie s q))) (homeDie s q) = _
  rw [tget_tset_same]

theorem contextEntered_time : qpTime (contextEntered q s) q = qpTime s q := by
  have hh : SameHome s (contextEntered q s) := by
    have h := spoolRead_sameHome (slice_ (homeDie s q)) 0 (256 * q) 256 (fetchEnded q s)
    exact ⟨h.present, h.unit, h.stay, h.ops⟩
  exact hh.qpTime (spoolRead_touches _ _ _ _ _).time q

variable {q s}

/-- A fetch that was under way: its context is in the slice, and is taken, left as it was, or lost. -/
theorem contextFetched_fetching (h : s.sht.fetching.contains q = true) (bad : Bool) : contextFetched q bad s = contextHere q
    (if bad || (contextRead q s).2.1 != .ok then contextPoisoned q (contextEntered q s)
     else if (qpOf (contextEntered q s) q).created && !qpWorks (contextEntered q s) q then
       modQp q (loadContext (qpTime (contextEntered q s) q) (contextRead q s).2.2) (contextEntered q s)
     else contextEntered q s) := by
  simp only [contextFetched, h, Bool.not_true, Bool.false_eq_true, if_false]
  rfl

end

/-- The state in which a context read as POISON is lost. -/
def poisonSeen (s : State) : State := { s with sht := { s.sht with ctxPoisonSeen := true } }

theorem contextPoisoned_sht (q : Nat) (s : State) :
    (contextPoisoned q s).sht = (contextLost (homeDie s q) q .poison (poisonSeen s)).sht := by
  unfold contextPoisoned
  rw [record, report_sht]
  rfl

/-- A context of a calm state comes, and nothing waits for it. -/
structure ArrivesUnawaited (q : Nat) (s : State) : Prop where
  calm : calm s
  fetching : s.sht.fetching.contains q = true
  parked : s.sht.parked = []
  waitCmds : s.sht.waitCmds = []

section
variable {q : Nat} {s : State} (h : ArrivesUnawaited q s)
include h

/-- A context that has come takes the place of its queue pair's, where no work is in flight. -/
theorem contextFetched_taken {u : State} {b : List Byte} (hr : contextRead q s = (u, .ok, b)) :
    (shtEnded s (contextFetched q false s)).sht = (if (qpOf s q).created = true ∧ qpWorks s q = false
      then modQp q (loadContext (qpTime s q) b) (contextEntered q s) else contextEntered q s).sht := by
  have he := contextEntered_sht q s
  have hq : qpOf (contextEntered q s) = qpOf s := funext (qpOf_of_sht (by rw [he]))
  have hops : opsOf (contextEntered q s) q = opsOf s q := by rw [opsOf, he, opsOf]
  have hworks : qpWorks (contextEntered q s) q = qpWorks s q := by simp only [qpWorks, hq, hops]
  have hc := contextFetched_fetching h.fetching false
  simp only [hr, hworks, hq, contextEntered_time, Bool.false_or, bne_self_eq_false, Bool.false_eq_true, if_false,
    Bool.and_eq_true, Bool.not_eq_true'] at hc
  rw [hc, contextHere_idle]
  · exact shtEnded_sht (by split <;> exact (congrArg (·.pushDone) he).trans h.calm.2)
  · split <;> exact (congrArg (·.parked) he).trans h.parked
  · split <;> exact (congrArg (·.waitCmds) he).trans h.waitCmds

/-- A context read as POISON is lost. -/
theorem contextFetched_lost (ho : opsOf s q = []) : (shtEnded s (contextFetched q true s)).sht =
    (contextLost (homeDie (contextEntered q s) q) q .poison (poisonSeen (contextEntered q s))).sht := by
  have he := contextEntered_sht q s
  have hsht := contextPoisoned_sht q (contextEntered q s)
  have hops : opsOf (poisonSeen (contextEntered q s)) q = [] := by
    rw [opsOf, poisonSeen, he]
    exact ho
  obtain ⟨hwait, hpark, -⟩ := contextLost_waiting (homeDie (contextEntered q s) q) q .poison (poisonSeen (contextEntered q s))
  have hpush := contextLost_pushDone (homeDie (contextEntered q s) q) q .poison (poisonSeen (contextEntered q s)) hops
  have hc := contextFetched_fetching h.fetching true
  simp only [Bool.true_or, if_true] at hc
  rw [hc, contextHere_idle]
  · refine (shtEnded_sht ?_).trans hsht
    rw [hsht, hpush]
    exact (congrArg (·.pushDone) he).trans h.calm.2
  · rw [hsht, hpark]
    show (contextEntered q s).sht.parked.filter _ = []
    rw [he, h.parked]
    rfl
  · rw [hsht, hwait]
    exact (congrArg (·.waitCmds) he).trans h.waitCmds

end

/-- The arrival of a context at its slice, between calm states. -/
theorem contextFetchComplete_takes {q : Nat} {s u : State} {b : List Byte} (h : ArrivesUnawaited q s)
    (hr : contextRead q s = (u, .ok, b)) : ∃ t, exec (.contextFetchComplete q false) s = .next t ∧ q ∉ t.sht.fetching ∧
      cacheOf t (homeDie s q) = q :: cacheOf s (homeDie s q) ∧
      qpOf t q = (if (qpOf s q).created = true ∧ qpWorks s q = false then loadContext (qpTime s q) b (qpOf s q) else qpOf s q) ∧
      ∀ x, x ≠ q → qpOf t x = qpOf s x := by
  have ht := contextFetched_taken h hr
  have he := contextEntered_sht q s
  have hq (x : Nat) : qpOf (contextEntered q s) x = qpOf s x := qpOf_of_sht (by rw [he]) x
  have hfetch : (shtEnded s (contextFetched q false s)).sht.fetching = (contextEntered q s).sht.fetching := by
    rw [ht]
    split <;> rfl
  have hcache : (shtEnded s (contextFetched q false s)).sht.cache = (contextEntered q s).sht.cache := by
    rw [ht]
    split <;> rfl
  refine ⟨_, rfl, ?_, ?_, ?_, fun x hx => ?_⟩
  · show q ∉ (shtEnded s (contextFetched q false s)).sht.fetching
    rw [hfetch, he]
    simp
  · show tget [] (shtEnded s (contextFetched q false s)).sht.cache _ = _
    rw [hcache]
    exact cacheOf_contextEntered q s
  · refine (qpOf_of_sht (congrArg (·.qp) ht) q).trans ?_
    split
    · rw [qpOf_modQp, hq]
    · exact hq q
  · refine (qpOf_of_sht (congrArg (·.qp) ht) x).trans ?_
    split
    · rw [qpOf_modQp_other _ _ _ _ hx, hq]
    · exact hq x

/-- The arrival of a context that is read as POISON, between calm states. -/
theorem contextFetchComplete_loses {q : Nat} {s : State} (h : ArrivesUnawaited q s) (ho : opsOf s q = []) :
    ∃ t, exec (.contextFetchComplete q true) s = .next t ∧ t.sht.ctxPoisonSeen = true ∧
      (qpOf t q).state = .error ∧ (qpOf t q).errStatus = 0x09 ∧ ∀ x, x ≠ q → qpOf t x = qpOf s x := by
  have ht := contextFetched_lost h ho
  have he := contextEntered_sht q s
  have hq := qpOf_of_sht (congrArg (·.qp) ht)
  refine ⟨_, rfl, ?_, ?_, ?_, fun x hx => ?_⟩
  · exact (congrArg (·.ctxPoisonSeen) ht).trans (contextLost_waiting _ q .poison (poisonSeen (contextEntered q s))).2.2
  · exact congrArg Qp.state ((hq q).trans (qpOf_contextLost _ q .poison (poisonSeen (contextEntered q s))))
  · exact congrArg Qp.errStatus ((hq q).trans (qpOf_contextLost _ q .poison (poisonSeen (contextEntered q s))))
  · exact (hq x).trans ((qpOf_contextLost_other _ q .poison (poisonSeen (contextEntered q s)) x hx).trans
      (qpOf_of_sht (t := poisonSeen (contextEntered q s)) (show (contextEntered q s).sht.qp = s.sht.qp by rw [he]) x))

/-! ## A way that comes free (R190) -/

theorem goHome_home {q : Nat} {s : State} (h : tget none s.sht.stay q = none) : goHome q s = s := by simp only [goHome, h]

/-- A fetch that waited for a way starts, between calm states. -/
theorem cacheWayUnpin_starts {q : Nat} {s : State} (hs : calm s) (hw : s.sht.wayWait.contains q = true)
    (hstay : tget none s.sht.stay q = none) (hroom : (inSet s (homeDie s q) (setOf q)).length < 8) :
    ∃ t, exec (.cacheWayUnpin q) s = .next t ∧ t.sht.fetching = s.sht.fetching ++ [q] ∧ q ∉ t.sht.wayWait ∧ t.sht.qp = s.sht.qp := by
  have hstart : wayFree q s = requestContext (homeDie s q) q s := by
    have hh := goHome_home hstay
    rw [wayFree, if_pos hw, startFetch_room (by rwa [hh]), hh]
  have hsht : (shtEnded s (wayFree q s)).sht = (requestContext (homeDie s q) q s).sht := by
    rw [hstart]
    exact shtEnded_sht (by rw [requestContext_sht]; exact hs.2)
  rw [requestContext_sht] at hsht
  refine ⟨_, rfl, congrArg (·.fetching) hsht, ?_, congrArg (·.qp) hsht⟩
  show q ∉ (shtEnded s (wayFree q s)).sht.wayWait
  rw [hsht]
  simp

end Sys2Proof.Machine
end

section
/-! PROOFS. RoCEv2 packets that are received (R163 to R166, R199). -/

namespace Sys2Proof.Machine

/-- What a RoCEv2 packet without a congestion mark does once its checks have passed, by its opcode (R163, R166, R199). -/
def roceEffect (p : RocePkt) (s : State) : State :=
  if p.op = 0x81 then onEcho p.dest true s
  else if p.op = 0x11 then roceOnAck p.dest p s
  else if p.op = 0x12 ∨ (0x0D ≤ p.op ∧ p.op ≤ 0x10) then roceOnResponse p.dest p s
  else roceRequest p.dest p s

section
variable {port : Nat} {frame : List Byte} {ext : List ExtRead} {s : State} {p : RocePkt}

theorem roceReceive_corrupt (h : readRoce frame ext = some (p, false)) : roceReceive port frame ext s =
    { takeInbox port frame s with sht := { (takeInbox port frame s).sht with
      crcDrop := satInc (takeInbox port frame s).sht.crcDrop, crcSeen := true } } := by
  simp [roceReceive, h]

variable (h : readRoce frame ext = some (p, true)) (hw : roceWaits s p = false) (hk : roceKnown p.op = true)
  (hd : p.dest < 2 ^ 20)
include h hw hk hd

theorem roceReceive_refused (hc : cached s p.dest = true) (hb : roceBad (qpOf s p.dest) p = true) :
    roceReceive port frame ext s = countRxDrop true (sliceLookup p.dest (takeInbox port frame s)).2 := by
  have hd' : p.dest < 1048576 := hd
  have hl := sliceLookup_hit (s := takeInbox port frame s) (q := p.dest) hc
  have hq := (sliceLookup_hit_frame (s := takeInbox port frame s) (q := p.dest) hc).qpOf p.dest
  rw [show qpOf (takeInbox port frame s) p.dest = qpOf s p.dest from rfl] at hq
  generalize (sliceLookup p.dest (takeInbox port frame s)).2 = u at hl hq
  simp [roceReceive, h, hw, hk, not_le.mpr hd', hl, hq, hb]

theorem roceReceive_admitted (hc : cached s p.dest = true) (hb : roceBad (qpOf s p.dest) p = false) (hce : p.ce = false) :
    roceReceive port frame ext s = roceEffect p (sliceLookup p.dest (takeInbox port frame s)).2 := by
  have hd' : p.dest < 1048576 := hd
  have hl := sliceLookup_hit (s := takeInbox port frame s) (q := p.dest) hc
  have hq := (sliceLookup_hit_frame (s := takeInbox port frame s) (q := p.dest) hc).qpOf p.dest
  rw [show qpOf (takeInbox port frame s) p.dest = qpOf s p.dest from rfl] at hq
  generalize (sliceLookup p.dest (takeInbox port frame s)).2 = u at hl hq
  simp [roceReceive, h, hw, hk, not_le.mpr hd', hl, hq, hb, hce, roceEffect]

theorem roceReceive_parked (hc : cached s p.dest = false) (ha : p.op ≠ 0x11) : ∃ pk,
    roceReceive port frame ext s = park pk (sliceLookup p.dest (takeInbox port frame s)).2 ∧ pk.frame = frame ∧ pk.port = port ∧
      pk.h.dest = p.dest := by
  have hd' : p.dest < 1048576 := hd
  have hl := sliceLookup_miss (s := takeInbox port frame s) (q := p.dest) hc
  generalize (sliceLookup p.dest (takeInbox port frame s)).2 = u at hl
  refine ⟨{ port := port, frame := frame, srcIp := p.srcIp, h := { opc := 0, flags := 0, dest := p.dest, psn := 0 }, payload := []
            ivCtr := 0, tag := [], bytes := p.body.length + 16, path := 0, ce := p.ce, ext := ext }, ?_, rfl, rfl, rfl⟩
  simp [roceReceive, h, hw, hk, not_le.mpr hd', hl, ha]

end

/-! ## The obligation -/

/-- Settles O37: a fetch that is over takes the bytes read or loses the context; a context holds its fields at their places; a RoCEv2
packet is dropped, parked, or has the effect of its opcode. -/
theorem contextFetchesAndRoce : Obligations.ContextFetchesAndRoce := by
  unfold Obligations.ContextFetchesAndRoce
  refine ⟨fun q s hf => ⟨fun bad => rfl, fun hs hp hw ho => ⟨fun u b hr => ?taken, ?lost⟩⟩,
    fun s q => ⟨qpContext_length s q, qpContext_fields s q⟩,
    fun q s hw => ⟨?way, fun hs hstay hroom => cacheWayUnpin_starts hs hw hstay hroom⟩, fun q s hs hw => ?noWay,
    fun port frame ext s p => ⟨fun h => ?corrupt, fun h hw hk hd => ⟨fun hc => ⟨fun hb => ?refused, fun hb hce => ?effect⟩,
      fun hc ha => ?park⟩⟩⟩
  case taken => exact contextFetchComplete_takes ⟨hs, hf, hp, hw⟩ hr
  case lost => exact contextFetchComplete_loses ⟨hs, hf, hp, hw⟩ ho
  case way =>
    rw [exec, execCacheWayUnpin, wayFree, if_pos hw]
    rfl
  case noWay => exact shtEnds_idle hs (if_neg (by rw [hw]; decide))
  case corrupt =>
    rw [exec, execRocePacketReceive, roceReceive_corrupt h]
    rfl
  case refused =>
    rw [exec, execRocePacketReceive, roceReceive_refused h hw hk hd hc hb]
    rfl
  case effect =>
    have go {t : State} (ht : roceEffect p (sliceLookup p.dest (takeInbox port frame s)).2 = t) :
        exec (.rocePacketReceive port frame ext) s = .next (shtEnded s t) := by
      rw [exec, execRocePacketReceive, roceReceive_admitted h hw hk hd hc hb hce, ht]
      rfl
    simp only [List.mem_cons, List.not_mem_nil, or_false, not_or]
    refine ⟨fun hop => go ?_, fun hop => go ?_, fun hop => go ?_, fun hop => go ?_⟩ <;> unfold roceEffect
    · rw [if_pos hop]
    · rw [if_neg (by omega), if_pos hop]
    · rw [if_neg (by omega), if_neg (by omega), if_pos (by omega)]
    · rw [if_neg (by omega), if_neg (by omega), if_neg (by omega)]
  case park =>
    obtain ⟨pk, he, hpk⟩ := roceReceive_parked (port := port) h hw hk hd hc ha
    refine ⟨_, pk, ?_, rfl, hpk⟩
    rw [exec, execRocePacketReceive, he]
    rfl

end Sys2Proof.Machine
end

section
/-! PROOFS. The path LFSR, the weights of paths and what a report makes of a path (R174 to R176). -/

namespace Sys2Proof.Machine

/-! ## The LFSR (R175) -/

theorem lfsrNext_toNat (x : BitVec 32) : (lfsrNext x).toNat = (2 * x.toNat +
    (if x.getLsbD 31 ^^ x.getLsbD 21 ^^ x.getLsbD 1 ^^ x.getLsbD 0 then 1 else 0)) % 2 ^ 32 := by
  unfold lfsrNext b2n
  generalize (x.getLsbD 31 ^^ x.getLsbD 21 ^^ x.getLsbD 1 ^^ x.getLsbD 0) = b
  have hshift : (x <<< 1).toNat = 2 ^ 1 * (x.toNat % 2 ^ 31) := by
    rw [BitVec.toNat_shiftLeft, Nat.shiftLeft_eq]
    omega
  have hbit : (BitVec.ofNat 32 (if b then 1 else 0)).toNat = if b then 1 else 0 := by cases b <;> rfl
  have hlow : (if b then 1 else 0) < 2 ^ 1 := by cases b <;> decide
  rw [BitVec.toNat_or, hshift, hbit, ← Nat.two_pow_add_eq_or_of_lt hlow]
  omega

/-- The unit ID fills the 16 low bits, which the constant leaves free. -/
theorem lfsrSeed_toNat {e : Nat} (h : e < 2 ^ 16) : (lfsrSeed e).toNat = 0x5A5A0000 + e := by
  rw [lfsrSeed, BitVec.toNat_or, BitVec.toNat_ofNat e, Nat.mod_eq_of_lt (by omega)]
  exact (Nat.two_pow_add_eq_or_of_lt h 0x5A5A).symm

/-! ## The chosen path (R175) -/

theorem choosePath_of_lt_sum (v : Qp) (ps : List Nat) (r : Nat) (h : r < (ps.map (pathWeight v)).sum) :
    ∃ pre p post, ps = pre ++ p :: post ∧ choosePath v ps r = p ∧ (pre.map (pathWeight v)).sum ≤ r ∧
      r < (pre.map (pathWeight v)).sum + pathWeight v p := by
  induction ps generalizing r with
  | nil => exact absurd h (Nat.not_lt_zero r)
  | cons a rest ih =>
    rw [List.map_cons, List.sum_cons] at h
    by_cases ha : r < pathWeight v a
    · exact ⟨[], a, rest, rfl, if_pos ha, Nat.zero_le r, by simpa using ha⟩
    · obtain ⟨pre, p, post, hps, hp, hlo, hhi⟩ := ih (r - pathWeight v a) (by omega)
      refine ⟨a :: pre, p, post, by rw [hps, List.cons_append], (if_neg ha).trans hp, ?_, ?_⟩ <;>
        · rw [List.map_cons, List.sum_cons]
          omega

/-! ## A path that is reported as seen (R176) -/

/-- What the report makes of a path's `BETA`, with or without CE. -/
def seenBeta (ce : Bool) (b : Nat) : Nat := if ce then b + (255 - b) / 16 else b - ceilDiv b 16

/-- The queue pair with the report taken in, before it is known whether the path is re-rolled. -/
def pathReported (ce : Bool) (p : Nat) (v : Qp) : Qp :=
  { v with beta := tset 0 v.beta p (seenBeta ce (tget 0 v.beta p)), pathAlive := v.pathAlive ||| BitVec.ofNat 16 (2 ^ p) }

section
variable {s : State} {ce : Bool} {p : Nat} {v : Qp}

theorem pathSeen_eq : pathSeen s ce p v =
    if seenBeta ce (tget 0 v.beta p) ≥ s.sht.rerollBeta.toNat then reroll s p (pathReported ce p v) else pathReported ce p v := rfl

theorem pathSeen_below (h : seenBeta ce (tget 0 v.beta p) < s.sht.rerollBeta.toNat) :
    tget 0 (pathSeen s ce p v).beta p = seenBeta ce (tget 0 v.beta p) ∧
      tget 0 (pathSeen s ce p v).entropy p = tget 0 v.entropy p := by
  rw [pathSeen_eq, if_neg (not_le.mpr h)]
  exact ⟨tget_tset_same _ _ _ _, rfl⟩

theorem pathSeen_rerolls (h : s.sht.rerollBeta.toNat ≤ seenBeta ce (tget 0 v.beta p)) :
    tget 0 (pathSeen s ce p v).beta p = 64 ∧
      tget 0 (pathSeen s ce p v).entropy p = (tget 0 v.entropy p + s.sht.entropyStep.toNat) % 64 := by
  rw [pathSeen_eq, if_pos h]
  exact ⟨tget_tset_same 0 _ p 64, tget_tset_same 0 _ p _⟩

end

/-! ## The source port of a path (R174) -/

/-- `ENTROPY` and the path take bits of their own below 0xC000. -/
theorem pathPort_eq {v : Qp} {p : Nat} (hp : p < 16) (he : tget 0 v.entropy p < 64) :
    pathPort v p = 49152 + (16 * tget 0 v.entropy p + p) := by
  have hlow : tget 0 v.entropy p * 16 ||| p = 16 * tget 0 v.entropy p + p := by
    rw [Nat.mul_comm]
    exact (Nat.two_pow_add_eq_or_of_lt (i := 4) hp _).symm
  rw [pathPort, Nat.or_assoc, hlow]
  exact (Nat.two_pow_add_eq_or_of_lt (i := 14) (by omega) 3).symm

/-! ## The obligation -/

/-- Settles O35: the LFSR step and its seed as arithmetic, the chosen path by induction on the paths, and a report of a path by whether
its new `BETA` reaches the threshold of a re-roll. -/
theorem pathsAreChosenByWeight : Obligations.PathsAreChosenByWeight := by
  unfold Obligations.PathsAreChosenByWeight
  refine ⟨lfsrNext_toNat, choosePath_of_lt_sum, fun _ _ => rfl, fun _ he => lfsrSeed_toNat he,
    fun _ _ _ h => pathSeen_below (ce := false) h, fun _ _ _ h => pathSeen_rerolls (ce := true) h, fun v p hp he => ?port⟩
  case port =>
    have hport := pathPort_eq hp he
    omega

end Sys2Proof.Machine
end

section
/-! PROOFS. What taking slots for the segments of an operation changes (R217 to R219, R352). -/

namespace Sys2Proof.Machine

/-- Taking slots and granting ranges of input changes the slots and what the pools count of them, the accelerator ports, the counters
and what has left the device. -/
def TakesSlots (s t : State) : Prop := t = { s with
  red := { s.red with
    slots := t.red.slots, sharedPeak := t.red.sharedPeak, spillSeen := t.red.spillSeen, spilled := t.red.spilled }
  lnk := { s.lnk with aport := t.lnk.aport }
  cnt := t.cnt
  out := t.out }

theorem TakesSlots.refl (s : State) : TakesSlots s s := rfl

theorem TakesSlots.trans {s t u : State} (h : TakesSlots s t) (k : TakesSlots t u) : TakesSlots s u := by
  have e := congrArg (fun x : State => { x with
    red := { x.red with
      slots := u.red.slots, sharedPeak := u.red.sharedPeak, spillSeen := u.red.spillSeen, spilled := u.red.spilled }
    lnk := { x.lnk with aport := u.lnk.aport }
    cnt := u.cnt
    out := u.out }) h
  exact Eq.trans k e

section
variable {s t : State} (h : TakesSlots s t)
include h

theorem TakesSlots.comm : t.red.comm = s.red.comm := congrArg (·.red.comm) h
theorem TakesSlots.commOf (k : Nat) : commOf t k = commOf s k := by rw [Machine.commOf, h.comm, Machine.commOf]
theorem TakesSlots.jcq : t.jcq = s.jcq := congrArg (·.jcq) h
theorem TakesSlots.weft : t.weft = s.weft := congrArg (·.weft) h
theorem TakesSlots.saf : t.saf = s.saf := congrArg (·.saf) h

theorem TakesSlots.undisturbed : Undisturbed s t := by
  rw [h]
  exact ⟨rfl, rfl, rfl, rfl, rfl, rfl⟩

end

theorem foldl_takesSlots {β : Type} {f : State → β → State} (h : ∀ s b, TakesSlots s (f s b)) (l : List β) (s : State) :
    TakesSlots s (l.foldl f s) := foldl_related .refl .trans h l s

theorem bump_takesSlots (u i n : Nat) (s : State) : TakesSlots s (bump u i n s) := by
  rw [bump_frame]
  rfl

theorem modAport_takesSlots (k : Nat) (f : APort → APort) (s : State) : TakesSlots s (modAport k f s) := rfl

theorem addSlot_takesSlots (x : RedSlot) (s : State) : TakesSlots s (addSlot x s) := rfl

theorem dropSlots_takesSlots (p : RedSlot → Bool) (s : State) : TakesSlots s (dropSlots p s) := rfl

/-! ## Signals to accelerators -/

theorem sendFlit_takesSlots (k kind : Nat) (nak : Bool) (payload : List Byte) (s : State) :
    TakesSlots s (sendFlit k kind nak payload s) := by
  refine .trans (t := bump (accPort k) 2 1 (setAport k _ s)) (.trans (t := setAport k _ s) rfl (bump_takesSlots _ _ _ _)) rfl

theorem sendTransaction_takesSlots (k : Nat) (hdr data : List Byte) (s : State) :
    TakesSlots s (sendTransaction k hdr data s) :=
  ((modAport_takesSlots _ _ s).trans (sendFlit_takesSlots _ _ _ _ _)).trans
    (foldl_takesSlots (fun _ _ => sendFlit_takesSlots _ _ _ _ _) _ _)

theorem sendTch_takesSlots (k : Nat) (h : TchHdr) (data : List Byte) (s : State) : TakesSlots s (sendTch k h data s) := by
  simp only [sendTch]
  split
  · exact .refl s
  · split
    · exact modAport_takesSlots _ _ s
    · exact sendTransaction_takesSlots _ _ _ s

theorem grantRange_takesSlots (typ port k : Nat) (os : BitVec 32) (off n : Nat) (s : State) :
    TakesSlots s (grantRange typ port k os off n s) := by
  unfold grantRange
  split
  · exact .refl s
  · exact (modAport_takesSlots _ _ s).trans (sendTch_takesSlots _ _ _ _)

/-! ## Slots -/

theorem takeSlot_takesSlots (k : Nat) (os : BitVec 32) (e pick stage seg : Nat) (s : State) :
    TakesSlots s (takeSlot k os e pick stage seg s).2 := by
  simp only [takeSlot]
  split
  · exact .refl s
  · split
    · exact addSlot_takesSlots _ s
    · split
      · exact .trans (.trans (addSlot_takesSlots _ s) (bump_takesSlots (pool (engineDie e)) 2 1 _)) rfl
      · have hb := bump_takesSlots (pool (engineDie e)) 3 1 s
        split
        · refine hb.trans (.trans (.trans ?_ (bump_takesSlots _ _ _ _)) (addSlot_takesSlots _ _))
          rfl
        · exact hb

theorem creditSeg_takesSlots (k : Nat) (o : RedOp) (pick seg : Nat) (s : State) : TakesSlots s (creditSeg k o pick seg s) := by
  simp only [creditSeg]
  split
  · exact .refl s
  · exact foldl_takesSlots (fun _ _ => grantRange_takesSlots _ _ _ _ _ _ _) _ _

theorem openSeg_takesSlots (k : Nat) (o : RedOp) (pick stage seg : Nat) (s : State) :
    TakesSlots s (openSeg k o pick stage seg s).2 := by
  simp only [openSeg]
  split
  · exact .refl s
  · rename_i e _
    have h := takeSlot_takesSlots k o.opseq e pick stage seg s
    split
    · next ht =>
      rw [ht] at h
      split
      · exact h
      · exact h.trans (creditSeg_takesSlots _ _ _ _ _)
    · exact h

theorem fillEngine_takesSlots (k : Nat) (o : RedOp) (l : List (Nat × Nat × Nat)) (s : State) :
    TakesSlots s (fillEngine k o l s) := by
  induction l generalizing s with
  | nil => exact .refl s
  | cons e r ih =>
    obtain ⟨p, g, x⟩ := e
    have h := openSeg_takesSlots k o p g x s
    simp only [fillEngine]
    split
    · next ht =>
      rw [ht] at h
      exact h.trans (ih _)
    · next ht =>
      rw [ht] at h
      exact h

theorem fillSlots_takesSlots (k : Nat) (s : State) : TakesSlots s (fillSlots k s) := by
  simp only [fillSlots]
  split
  · exact .refl s
  · exact foldl_takesSlots (fun _ _ => foldl_takesSlots (fun _ _ => fillEngine_takesSlots _ _ _ _) _ _) _ _

end Sys2Proof.Machine
end

section
/-! PROOFS. What the loss of a communicator leaves alone: the dies present and the fences, and so who owns what (R10, R119, R224, R225,
R448). -/

namespace Sys2Proof.Machine

/-- The Weft and the state of the units in the Selvedge stand as they did: which units are in service has not changed. -/
structure KeepsFences (s t : State) : Prop where
  weft : t.weft = s.weft
  unit : t.saf.unit = s.saf.unit

theorem KeepsFences.refl (s : State) : KeepsFences s s := ⟨rfl, rfl⟩

theorem KeepsFences.trans {s t u : State} (h : KeepsFences s t) (k : KeepsFences t u) : KeepsFences s u :=
  ⟨k.weft.trans h.weft, k.unit.trans h.unit⟩

theorem KeepsFences.of_saf {s t : State} (hw : t.weft = s.weft) (hs : t.saf = s.saf) : KeepsFences s t := ⟨hw, by rw [hs]⟩

theorem TakesSlots.keepsFences {s t : State} (h : TakesSlots s t) : KeepsFences s t := .of_saf h.weft h.saf

/-- The processor that owns an object follows the dies present and the fences alone (R119). -/
theorem KeepsFences.objectUnit {s t : State} (h : KeepsFences s t) (n : Nat) : objectUnit t n = objectUnit s n := by
  simp only [Machine.objectUnit, servingProc, inService, diePresent, fenced, safUnit, h.weft, h.unit]

theorem KeepsFences.commOwner {s t : State} (h : KeepsFences s t) (k : Nat) : commOwner t k = commOwner s k := h.objectUnit k

theorem foldl_keepsFences {β : Type} {f : State → β → State} (h : ∀ s b, KeepsFences s (f s b)) (l : List β) (s : State) :
    KeepsFences s (l.foldl f s) := foldl_related .refl .trans h l s

/-- The same for a fold that carries a value beside the state. -/
theorem foldl_fst_keepsFences {β γ : Type} {f : State × γ → β → State × γ} (h : ∀ x b, KeepsFences x.1 (f x b).1) (l : List β)
    (x : State × γ) : KeepsFences x.1 (l.foldl f x).1 := by
  induction l generalizing x with
  | nil => exact .refl _
  | cons b r ih => exact (h x b).trans (ih _)

theorem keepsFences_fst {α : Type} {s u : State} {x : State × α} {a : α} (he : x = (u, a)) (h : KeepsFences s x.1) :
    KeepsFences s u := by
  rwa [he] at h

theorem bump_keepsFences (u i n : Nat) (s : State) : KeepsFences s (bump u i n s) := (bump_takesSlots u i n s).keepsFences

theorem report_keepsFences (r : Report) (s : State) : KeepsFences s (report r s) := ⟨rfl, rfl⟩

/-! ## Accesses to memory (R44, R62, R333, R337) -/

theorem spoolRead_keepsFences (src ctx off len : Nat) (s : State) : KeepsFences s (spoolRead src ctx off len s).1 :=
  ⟨(spoolRead_touches src ctx off len s).weft, (spoolRead_sameHome src ctx off len s).unit⟩

theorem spoolWrite_keepsFences (src ctx off : Nat) (bs : List Byte) (s : State) :
    KeepsFences s (spoolWrite src ctx off bs s).1 := by
  refine ⟨(spoolWrite_touches src ctx off bs s).weft, ?_⟩
  simp only [spoolWrite]
  split
  · rw [noteBad_unit, (countLines_safJcq _ _ _ _).1, (storeUpTo_safJcq _ _ _ _ s).1]
  · rw [(countLines_safJcq _ _ _ _).1, (storeUpTo_safJcq _ _ _ _ s).1]

theorem hostWrite_keepsFences (p off : Nat) (bs : List Byte) (s : State) : KeepsFences s (hostWrite p off bs s).1 :=
  .of_saf (hostWrite_touches p off bs s).weft (hostWrite_safJcq p off bs s).1

theorem trackHostRead_saf (p pa len : Nat) (s : State) : (trackHostRead p pa len s).saf = s.saf := by
  unfold trackHostRead
  split <;> rfl

theorem hostRead_keepsFences (p off len : Nat) (ext : List ExtRead) (s : State) : KeepsFences s (hostRead p off len ext s).1 := by
  refine .of_saf (hostRead_touches p off len ext s).weft ?_
  simp only [hostRead]
  split
  · rw [emit_saf, bump_saf]
    split
    · rfl
    · exact trackHostRead_saf _ _ _ s
  · unfold noteHostDeny
    split <;> rfl

theorem bufWrite_keepsFences (src p ctx pa : Nat) (bs : List Byte) (s : State) :
    KeepsFences s (bufWrite src p ctx pa bs s).1 := by
  unfold bufWrite
  split
  · split
    · exact spoolWrite_keepsFences _ _ _ _ s
    · exact .refl s
  · split
    · exact hostWrite_keepsFences _ _ _ s
    · exact .refl s

theorem peerWrite_keepsFences (p pa : Nat) (bs : List Byte) (s : State) : KeepsFences s (peerWrite p pa bs s).1 := by
  simp only [peerWrite, notePeerDeny]
  split
  · exact ⟨rfl, rfl⟩
  · split <;> exact ⟨rfl, rfl⟩

theorem accIssue_keepsFences (k : Nat) (h : TchHdr) (data : List Byte) (answered : Bool) (fromPort : Option (Nat × Nat))
    (s : State) : KeepsFences s (accIssue k h data answered fromPort s) := by
  simp only [accIssue]
  have hs := (sendTch_takesSlots k { h with tag := freeTag s k } data s).keepsFences
  split
  · exact hs
  · exact hs.trans ⟨rfl, rfl⟩

theorem accWrite_keepsFences (pa : Nat) (bs : List Byte) (ext : List ExtRead) (s : State) :
    KeepsFences s (accWrite pa bs ext s).1 := by
  simp only [accWrite]
  split
  · exact .refl s
  · exact foldl_fst_keepsFences (fun _ _ => accIssue_keepsFences _ _ _ _ _ _) _ (s, Status.ok)

theorem memWriteTo_keepsFences (src part ctx pa : Nat) (bs : List Byte) (ext : List ExtRead) (s : State) :
    KeepsFences s (memWriteTo src part ctx pa bs ext s).1 := by
  simp only [memWriteTo]
  split
  · exact spoolWrite_keepsFences _ _ _ _ s
  · split
    · exact accWrite_keepsFences _ _ _ s
    · split
      · exact hostWrite_keepsFences _ _ _ s
      · split
        · exact peerWrite_keepsFences _ _ _ s
        · exact .refl s

/-! ## Translation and page faults (R73, R87) -/

theorem tableErr_keepsFences (r : Lookup) (entryPa : Nat) (mal : Bool) (s : State) :
    KeepsFences s (tableErr r entryPa mal s) := by
  cases mal <;> exact ⟨rfl, rfl⟩

/-- The read of a table entry under the context being translated (R72). -/
def entryRead (r : Lookup) (entryPa : Nat) (ext : List ExtRead) (s : State) : State × Status × List Byte :=
  if target entryPa = 0 then spoolRead (heddle r.heddle) r.ctx (offset entryPa) 8 s
  else if target entryPa = 0x10 then hostRead r.part (offset entryPa) 8 ext s
  else (s, .bounds, [])

theorem entryRead_keepsFences (r : Lookup) (entryPa : Nat) (ext : List ExtRead) (s : State) :
    KeepsFences s (entryRead r entryPa ext s).1 := by
  unfold entryRead
  split
  · exact spoolRead_keepsFences _ _ _ _ s
  · split
    · exact hostRead_keepsFences _ _ _ _ s
    · exact .refl s

theorem tableStep_keepsFences (r : Lookup) (level entryPa : Nat) (ext : List ExtRead) (s : State) :
    KeepsFences s (tableStep r level entryPa ext s).1 := by
  have hread := entryRead_keepsFences r entryPa ext s
  rw [tableStep, ← entryRead]
  generalize entryRead r entryPa ext s = x at hread ⊢
  obtain ⟨u, st, bs⟩ := x
  have hb := bump_keepsFences (heddle r.heddle) 4 1 u
  refine hread.trans ?_
  dsimp only
  split
  · split
    · exact hb.trans (tableErr_keepsFences _ _ _ _)
    · exact hb
  · exact .refl _
  · exact .refl _
  · exact tableErr_keepsFences _ _ _ _

theorem touchLeaf_keepsFences (h : Nat) (l : CachedLeaf) (s : State) : KeepsFences s (touchLeaf h l s) := ⟨rfl, rfl⟩

theorem cachePtr_keepsFences (r : Lookup) (level addr : Nat) (s : State) : KeepsFences s (cachePtr r level addr s) := ⟨rfl, rfl⟩

theorem walkOn_keepsFences (fuel : Nat) (r : Lookup) (level entryPa : Nat) (ext : List ExtRead) (s : State) :
    KeepsFences s (walkOn fuel r level entryPa ext s).1 := by
  induction fuel generalizing level entryPa s with
  | zero => exact .refl s
  | succ fuel ih =>
    have h := tableStep_keepsFences r level entryPa ext s
    simp only [walkOn]
    split
    · next he => exact ((keepsFences_fst he h).trans (cachePtr_keepsFences _ _ _ _)).trans (ih _ _ _)
    · next he => exact (keepsFences_fst he h).trans (touchLeaf_keepsFences _ _ _)
    · next he => exact keepsFences_fst he h

theorem translate_keepsFences (r : Lookup) (ext : List ExtRead) (s : State) : KeepsFences s (translate r ext s).1 := by
  have hb := bump_keepsFences (heddle r.heddle) 2 1 s
  simp only [translate]
  split
  · exact hb
  · split
    · exact hb.trans (touchLeaf_keepsFences _ _ _)
    · exact hb.trans ((bump_keepsFences _ _ _ _).trans (walkOn_keepsFences _ _ _ _ _ _))

theorem holdObject_keepsFences (r : Lookup) (s : State) : KeepsFences s (holdObject r s) := by
  simp only [holdObject]
  split
  · exact ⟨rfl, rfl⟩
  · split <;> exact ⟨rfl, rfl⟩

theorem recordFault_keepsFences (r : Lookup) (level slot : Nat) (s : State) : KeepsFences s (recordFault r level slot s) := by
  simp only [recordFault]
  split
  · next hw =>
    refine (keepsFences_fst hw (bufWrite_keepsFences _ _ _ _ _ s)).trans ?_
    split <;> exact ⟨rfl, rfl⟩
  · next hw => exact (keepsFences_fst hw (bufWrite_keepsFences _ _ _ _ _ s)).trans (holdObject_keepsFences _ _)

theorem pageFault_keepsFences (r : Lookup) (level : Nat) (s : State) : KeepsFences s (pageFault r level s) := by
  simp only [pageFault]
  refine (bump_keepsFences (heddle r.heddle) 5 1 s).trans ?_
  split
  · exact ⟨rfl, rfl⟩
  · split
    · exact holdObject_keepsFences _ _
    · split
      · exact holdObject_keepsFences _ _
      · exact recordFault_keepsFences _ _ _ _

theorem pagePa_keepsFences (r : Lookup) (va len : Nat) (ext : List ExtRead) (s : State) :
    KeepsFences s (pagePa r va len ext s).1 := by
  have h := translate_keepsFences { r with va := va, len := len } ext s
  simp only [pagePa]
  split
  · next ht => exact keepsFences_fst ht h
  · next ht => exact keepsFences_fst ht h
  · next ht => exact (keepsFences_fst ht h).trans (pageFault_keepsFences _ _ _)
  · next ht => exact keepsFences_fst ht h

/-! ## Writes at virtual addresses (R74, R338) -/

theorem vaWriteGo_keepsFences (r : Lookup) (ext : List ExtRead) (fuel va : Nat) (bs : List Byte) (s : State) :
    KeepsFences s (vaWriteGo r ext fuel va bs s).1 := by
  induction fuel generalizing va bs s with
  | zero => exact .refl s
  | succ fuel ih =>
    have h := pagePa_keepsFences { r with access := .write } va bs.length ext s
    simp only [vaWriteGo]
    split
    · exact .refl s
    · split
      · next hp => exact keepsFences_fst hp h
      · next u pa n hp =>
        have hw := memWriteTo_keepsFences r.holder r.part r.ctx pa (bs.take n) ext u
        split
        · next he => exact ((keepsFences_fst hp h).trans (keepsFences_fst he hw)).trans (ih _ _ _)
        · next he => exact (keepsFences_fst hp h).trans (keepsFences_fst he hw)

theorem readBack_keepsFences (x p bus : Nat) (answered : Bool) (s : State) : KeepsFences s (readBack x p bus answered s) := by
  cases answered <;> exact ⟨rfl, rfl⟩

theorem readBacks_keepsFences (ext : List ExtRead) (before : State) (x : State × XferEnd) :
    KeepsFences x.1 (readBacks ext before x).1 := by
  refine foldl_fst_keepsFences (fun y port => ?_) _ x
  split
  · exact .refl _
  · split
    · exact .refl _
    · have h := readBack_keepsFences port
      dsimp only
      split
      · split
        · exact h _ _ _ _
        · exact (h _ _ _ _).trans ⟨rfl, rfl⟩
      · exact h _ _ _ _

theorem vaWrite_keepsFences (r : Lookup) (va : Nat) (bs : List Byte) (ext : List ExtRead) (s : State) :
    KeepsFences s (vaWrite r va bs ext s).1 := by
  unfold vaWrite
  split
  · exact .refl s
  · exact (vaWriteGo_keepsFences _ _ _ _ _ s).trans (readBacks_keepsFences _ _ _)

/-! ## How operations and communicators end (R211, R224, R225) -/

theorem sendResults_takesSlots (k : Nat) (o : RedOp) (st : Status) (s : State) : TakesSlots s (sendResults k o st s) :=
  foldl_takesSlots (fun _ _ => sendTch_takesSlots _ _ _ _) _ _

theorem flushOps_saf (k : Nat) (l : List RedOp) (s : State) : (flushOps k l s).saf = s.saf := by
  induction l generalizing s with
  | nil => rfl
  | cons o r ih =>
    simp only [flushOps]
    split
    · rfl
    · rw [ih, show ∀ t, (tagDone o.cmd k t).saf = t.saf from fun _ => rfl, (completeRef_undisturbed _ _ _ _ _).saf,
        (sendResults_takesSlots _ _ _ _).saf]
      split <;> rfl

theorem dropWork_saf (k : Nat) (os : BitVec 32) (s : State) : (dropWork k os s).saf = s.saf := by
  unfold dropWork
  rfl

theorem endRedOp_keepsFences (k : Nat) (o : RedOp) (st : Status) (res : List Nat) (s : State) :
    KeepsFences s (endRedOp k o st res s) := by
  refine .of_saf (endRedOp_keepsStart k o st res s).weft ?_
  simp only [endRedOp]
  rw [(fillSlots_takesSlots k _).saf, flushOps_saf, setRedOp, modComm, setComm_saf, modComm, setComm_saf, dropWork_saf]

theorem failRedOp_keepsFences (k : Nat) (o : RedOp) (st : Status) (lost : Nat) (s : State) :
    KeepsFences s (failRedOp k o st lost s) := by
  simp only [failRedOp]
  split
  · exact endRedOp_keepsFences _ _ _ _ s
  · refine .trans ?_ (endRedOp_keepsFences _ _ _ _ _)
    split
    · exact .refl s
    · exact vaWrite_keepsFences _ _ _ _ s

theorem commLost_keepsFences (k : Nat) (rank accel : Option Nat) (relayed : Bool) (st : Status) (s : State) :
    KeepsFences s (commLost k rank accel relayed st s) := by
  simp only [commLost]
  split
  · exact .refl s
  · refine .trans ?_ (report_keepsFences _ _)
    refine .trans ?_ (foldl_keepsFences (fun _ _ => failRedOp_keepsFences _ _ _ _ _) _ _)
    exact ⟨rfl, rfl⟩

end Sys2Proof.Machine
end

section
/-! PROOFS. The commands of a communicator in their turn on its slot (R120, R211, R229). -/

namespace Sys2Proof.Machine

/-! ## Commands that keep the order of an object (R120) -/

section
variable {d : OpDesc} {c : Cmd} {s : State} (ha : admits d c s) (go : State → State)
include ha

theorem orderCmd_holds : orderCmd d c true s go = holdCmd c s := by simp [orderCmd, ha.1, ha.2]

theorem orderCmd_turn : orderCmd d c false s go = go (turn c s) := by
  simp only [orderCmd, Bool.and_false, Bool.false_eq_true, if_false, takeCmd_admits ha]
  rfl

end

/-! ## A command and its slot (R229) -/

section
variable {c : Cmd} {s : State} {k : Nat} (fails : Nat → List (Bool × Status)) (run : Nat → State → State)

theorem withComm_unnamed (h : namedComm s c = none) : withComm c fails run s = complete c .bounds [] (procUnit s c) s := by
  simp only [withComm, h]

theorem withComm_checks (h : namedComm s c = some k) : withComm c fails run s = checked c (fails k) s (run k) := by
  simp only [withComm, h]

/-- A command that names no slot of its partition is behind no other on its communicator. -/
theorem commHeld_unnamed (h : namedComm s c = none) : commHeld s c = false := by simp [commHeld, h]

/-- Neither waits for a slot that it does not name. -/
theorem commFull_named (h : namedComm s c = some k) : commFull s c = decide (8 ≤ (commOf s k).ops.length) := by
  simp [commFull, h]

section
variable {d : OpDesc} (ha : admits d c s)
include ha

theorem onComm_holds (hh : commHeld s c = true) : onComm d c fails run s = holdCmd c s := by
  rw [onComm, hh, orderCmd_holds ha]

theorem onComm_unnamed (hn : namedComm s c = none) :
    onComm d c fails run s = complete c .bounds [] (procUnit s c) (turn c s) := by
  rw [onComm, commHeld_unnamed hn, orderCmd_turn ha]
  exact withComm_unnamed fails run hn

variable (hn : namedComm s c = some k)
include hn

/-- The slot of a command in its turn is the one it named before, and its owner is the same processor. -/
theorem orderCmd_withComm : orderCmd d c false s (withComm c fails run) = checked c (fails k) (turn c s) (run k) := by
  rw [orderCmd_turn ha]
  exact withComm_checks fails run hn

variable (hh : commHeld s c = false)
include hh

theorem onComm_passes (hf : firstFail (fails k) = none) : onComm d c fails run s = run k (turn c s) := by
  rw [onComm, hh, orderCmd_withComm fails run ha hn, checked_passes hf]

theorem onComm_fails {st : Status} (hf : firstFail (fails k) = some st) :
    onComm d c fails run s = complete c st [] (procUnit s c) (turn c s) := by
  rw [onComm, hh, orderCmd_withComm fails run ha hn, checked_fails hf]
  rfl

end
end

/-- Between settled states, a completion of a command in its turn leaves exactly itself. -/
theorem ends_complete_turn {c : Cmd} {s u : State} (hs : settled s) (hu : Undisturbed (turn c s) u) (st : Status) (res : List Nat)
    (unit : Nat) : ends s (complete c st res unit u) = .next (complete c st res unit u) :=
  ends_undisturbed hs (((turn_undisturbed c s).trans hu).trans (complete_undisturbed c st res unit u))

/-! ## Communicators -/

@[simp] theorem complete_red (c : Cmd) (st : Status) (res : List Nat) (unit : Nat) (s : State) :
    (complete c st res unit s).red = s.red := by rw [complete, completeRef_frame]

@[simp] theorem commOf_complete (c : Cmd) (st : Status) (res : List Nat) (unit : Nat) (s : State) (k : Nat) :
    commOf (complete c st res unit s) k = commOf s k := by rw [commOf, complete_red, commOf]

theorem complete_jcq_congr {s t : State} (h : t.jcq = s.jcq) (c : Cmd) (st : Status) (res : List Nat) (unit : Nat) :
    (complete c st res unit t).jcq = (complete c st res unit s).jcq := completeRef_jcq_congr h _ _ _ _

theorem setComm_undisturbed (k : Nat) (v : Comm) (s : State) : Undisturbed s (setComm k v s) := ⟨rfl, rfl, rfl, rfl, rfl, rfl⟩

theorem keepViews_undisturbed (k : Nat) (s : State) : Undisturbed s (keepViews k s) := by
  unfold keepViews
  exact ⟨rfl, rfl, rfl, rfl, rfl, rfl⟩

@[simp] theorem commOf_keepViews (k : Nat) (s : State) (x : Nat) : commOf (keepViews k s) x = commOf s x := by
  simp only [commOf, keepViews]

@[simp] theorem keepViews_jcq (k : Nat) (s : State) : (keepViews k s).jcq = s.jcq := by
  unfold keepViews
  rfl

@[simp] theorem viewOf_setComm (k : Nat) (v : Comm) (s : State) (x e : Nat) : viewOf (setComm k v s) x e = viewOf s x e := rfl

@[simp] theorem viewOf_complete (c : Cmd) (st : Status) (res : List Nat) (unit : Nat) (s : State) (x e : Nat) :
    viewOf (complete c st res unit s) x e = viewOf s x e := by rw [viewOf, complete_red, viewOf]

/-- What a change of the entries leaves of each, it leaves of all. -/
theorem tget_foldl_tmod_kept {α β γ : Type} [DecidableEq α] {d : α} {g : α → β} {f : α → α} (n : γ → Nat) (l : List γ)
    (t : Tab α) (i : Nat) (hf : ∀ v, g (f v) = g v) : g (tget d (l.foldl (fun t e => tmod d t (n e) f) t) i) = g (tget d t i) := by
  induction l generalizing t with
  | nil => rfl
  | cons e r ih =>
    rw [List.foldl_cons, ih, tget_tmod]
    split
    · next h => rw [hf, h]
    · rfl

/-- What an engine has been told of a communicator stands while it is kept (R203). -/
theorem viewOf_keepViews (k e : Nat) (s : State) : (viewOf (keepViews k s) k e).state = (viewOf s k e).state ∧
    (viewOf (keepViews k s) k e).epoch = (viewOf s k e).epoch := by
  simp only [viewOf, keepViews]
  generalize List.range 32 = engines
  exact ⟨tget_foldl_tmod_kept (g := CommView.state) _ _ _ _ fun _ => rfl,
    tget_foldl_tmod_kept (g := CommView.epoch) _ _ _ _ fun _ => rfl⟩

end Sys2Proof.Machine
end

section
/-! PROOFS. Communicators are created, reformed, queried, lost and destroyed (R203, R204, R206, R207, R224, R226, R229). -/

namespace Sys2Proof.Machine

theorem leNat_lt (bs : List Byte) : leNat bs < 256 ^ bs.length := by
  induction bs with
  | nil => simp [leNat]
  | cons b r ih =>
    have hb := b.isLt
    simp only [leNat, List.length_cons, Nat.pow_succ]
    omega

theorem fieldLE_lt (bs : List Byte) (off n : Nat) : fieldLE bs off n < 256 ^ n :=
  (leNat_lt _).trans_le (Nat.pow_le_pow_right (by decide) (List.length_take_le _ _))

/-- A field of a packet fills a register that is wide enough. -/
theorem fieldLE_toNat {w n : Nat} (hw : 256 ^ n ≤ 2 ^ w) (bs : List Byte) (off : Nat) :
    (BitVec.ofNat w (fieldLE bs off n)).toNat = fieldLE bs off n := by
  rw [BitVec.toNat_ofNat, Nat.mod_eq_of_lt ((fieldLE_lt bs off n).trans_le hw)]

/-! ## COMM_CREATE (R204, R206, R207) -/

/-- The communicator a COMM_CREATE makes. -/
def createdComm (c : Cmd) (s : State) : Comm where
  state := .active
  part := c.part
  commId := BitVec.ofNat 64 (fieldLE c.packet 16 8)
  epoch := BitVec.ofNat 32 (fieldLE c.packet 24 4)
  rank := fieldLE c.packet 28 2
  membersM1 := fieldLE c.packet 30 2
  accel := BitVec.ofNat 8 (byteAt c.packet 36)
  pickLog2 := param c 37 1 0 5
  stochastic := param c 37 1 5 2 == 1
  shareCap := param c 38 2 0 9
  contributors := param c 40 3 0 24
  ctx := fieldLE c.packet 44 2
  peersVa := fieldLE c.packet 48 8
  seed := BitVec.ofNat 64 (fieldLE c.packet 56 8)
  spillVa := fieldLE c.packet 64 8
  spillLog2 := param c 72 1 0 5
  pushKey := fieldLE c.packet 76 4
  engines := enginesOf s (fieldLE c.packet 32 4)
  reserved := enginesOf s (fieldLE c.packet 32 4)

section
variable {c : Cmd} {s : State} {k : Nat}

theorem commCreate_creates (ha : admits (descCommCreate c) c s) (hn : namedComm s c = some k) (hh : commHeld s c = false)
    (hfree : (commOf s k).state = .free) (hrank : fieldLE c.packet 28 2 ≤ fieldLE c.packet 30 2) (hlo : 16 ≤ param c 37 1 0 5)
    (hhi : param c 37 1 0 5 ≤ 22) (hspill : param c 72 1 0 5 = 0 ∨ 18 ≤ param c 72 1 0 5) (hcontrib : param c 40 3 0 24 ≠ 0)
    (hcap : param c 38 2 0 9 ≤ 384) (hctx : ownsCtx s c.part (fieldLE c.packet 44 2) = true)
    (hen : (ctxDesc s (fieldLE c.packet 44 2)).enable = true) (hports : portsAssigned s c.part (byteAt c.packet 36) = true)
    (hkey : (keyCheck (region s (keyIndex (fieldLE c.packet 76 4))) c.part (fieldLE c.packet 76 4) .rReduce 0 0).1 = .ok)
    (hes : enginesOf s (fieldLE c.packet 32 4) ≠ [])
    (hres : reservationFails s c.part (enginesOf s (fieldLE c.packet 32 4)) = false) :
    commCreate c s = complete c .ok [] (commOwner s k) (setComm k (createdComm c s) (turn c s)) := by
  refine (onComm_passes _ _ ha hn hh ?_).trans rfl
  have hsizes : (decide (fieldLE c.packet 28 2 > fieldLE c.packet 30 2) || decide (param c 37 1 0 5 < 16) ||
      decide (param c 37 1 0 5 > 22) || (param c 72 1 0 5 != 0 && decide (param c 72 1 0 5 < 18)) || param c 40 3 0 24 == 0 ||
      decide (param c 38 2 0 9 > 384)) = false := by
    simp only [Bool.or_eq_false_iff, Bool.and_eq_false_iff, decide_eq_false_iff_not, bne_eq_false_iff_eq, beq_eq_false_iff_ne]
    omega
  simp [firstFail, hfree, hsizes, hctx, hen, hports, hkey, hes, hres]

theorem commCreate_busy (ha : admits (descCommCreate c) c s) (hn : namedComm s c = some k) (hh : commHeld s c = false)
    (h : (commOf s k).state ≠ .free) : commCreate c s = complete c .busy [] (procUnit s c) (turn c s) :=
  onComm_fails _ _ ha hn hh (by simp [firstFail, h])

/-! ## COMM_REFORM (R226) -/

/-- The communicator a COMM_REFORM makes of a lost one: its operations are those it had. -/
def reformedComm (c : Cmd) (v : Comm) : Comm :=
  { v with
    state := .active, epoch := BitVec.ofNat 32 (fieldLE c.packet 16 4), base := BitVec.ofNat 32 (fieldLE c.packet 20 4)
    next := BitVec.ofNat 32 (fieldLE c.packet 20 4), rank := fieldLE c.packet 24 2, membersM1 := fieldLE c.packet 26 2
    accel := BitVec.ofNat 8 (byteAt c.packet 28), contributors := param c 32 3 0 24, peersVa := fieldLE c.packet 40 8
    peers := [], controls := [], lostRank := 0, lostAccel := 0, lostValid := false, relayed := false }

theorem commReform_reforms (ha : admits descCommReform c s) (hn : namedComm s c = some k) (hh : commHeld s c = false)
    (hlost : (commOf s k).state = .lost) (hep : 0 < (BitVec.ofNat 32 (fieldLE c.packet 16 4) - (commOf s k).epoch).toInt)
    (hbase : 0 ≤ (BitVec.ofNat 32 (fieldLE c.packet 20 4) - (commOf s k).next).toInt)
    (hrank : fieldLE c.packet 24 2 ≤ fieldLE c.packet 26 2) :
    commReform c s =
      complete c .ok [] (commOwner s k) (setComm k (reformedComm c (commOf s k)) (keepViews k (turn c s))) := by
  have hepoch : decide ((BitVec.ofNat 32 (fieldLE c.packet 16 4) - (commOf s k).epoch).toInt ≤ 0) = false :=
    decide_eq_false (not_le.mpr hep)
  have hplace : (decide ((BitVec.ofNat 32 (fieldLE c.packet 20 4) - (commOf s k).next).toInt < 0) ||
      decide (fieldLE c.packet 24 2 > fieldLE c.packet 26 2)) = false := by
    rw [decide_eq_false (not_lt.mpr hbase), decide_eq_false (not_lt.mpr hrank), Bool.or_false]
  refine (onComm_passes _ _ ha hn hh ?_).trans ?_
  · simp only [firstFail, hlost, hepoch, hplace, bne_self_eq_false, Bool.false_eq_true, if_false]
  · simp only [modComm, commOf_keepViews]
    rfl

/-! ## COMM_QUERY, COMM_DESTROY -/

theorem commQuery_answers (ha : admits descCommQuery c s) (hn : namedComm s c = some k) (hh : commHeld s c = false)
    (h : (commOf s k).state ≠ .free) :
    commQuery c s = complete c .ok [commStCode (commOf s k).state + 2 ^ 8 * (commOf s k).ops.length, (commOf s k).epoch.toNat,
      (commOf s k).next.toNat, (commOf s k).base.toNat] (commOwner s k) (turn c s) :=
  onComm_passes _ _ ha hn hh (by simp [firstFail, h])

theorem commDestroy_frees (ha : admits descCommDestroy c s) (hn : namedComm s c = some k) (hh : commHeld s c = false)
    (h : (commOf s k).state ≠ .free) (ho : (commOf s k).ops = []) :
    commDestroy c s = complete c .ok [] (commOwner s k) (setComm k {} (keepViews k (turn c s))) :=
  onComm_passes _ _ ha hn hh (by simp [firstFail, h, ho])

theorem commDestroy_busy (ha : admits descCommDestroy c s) (hn : namedComm s c = some k) (hh : commHeld s c = false)
    (h : (commOf s k).state ≠ .free) (ho : (commOf s k).ops ≠ []) :
    commDestroy c s = complete c .busy [] (procUnit s c) (turn c s) :=
  onComm_fails _ _ ha hn hh (by simp [firstFail, h, ho])

/-! ## COMM_MEMBER_LOST (R224) -/

/-- The loss a COMM_MEMBER_LOST declares: of a rank or of an accelerator. -/
def declaredLoss (c : Cmd) (k : Nat) (s : State) : State :=
  if param c 19 1 0 1 = 1 then commLost k (some (fieldLE c.packet 16 2)) none false .memberLost s
  else commLost k none (some (byteAt c.packet 18)) false .memberLost s

theorem declaredLoss_keepsFences (c : Cmd) (k : Nat) (s : State) : KeepsFences s (declaredLoss c k s) := by
  unfold declaredLoss
  split <;> exact commLost_keepsFences _ _ _ _ _ s

theorem commMemberLost_loses (ha : admits descCommMemberLost c s) (hn : namedComm s c = some k) (hh : commHeld s c = false)
    (h : (commOf s k).state = .active) :
    commMemberLost c s = complete c .ok [] (commOwner s k) (declaredLoss c k (turn c s)) := by
  refine (onComm_passes _ _ ha hn hh (by simp [firstFail, h])).trans ?_
  have hloss : (if (param c 19 1 0 1 == 1) = true then commLost k (some (fieldLE c.packet 16 2)) none false .memberLost (turn c s)
      else commLost k none (some (byteAt c.packet 18)) false .memberLost (turn c s)) = declaredLoss c k (turn c s) :=
    if_congr beq_iff_eq rfl rfl
  simp only [hloss, (declaredLoss_keepsFences c k _).commOwner]
  rfl

theorem commMemberLost_busy (ha : admits descCommMemberLost c s) (hn : namedComm s c = some k) (hh : commHeld s c = false)
    (h : (commOf s k).state ≠ .active) : commMemberLost c s = complete c .busy [] (procUnit s c) (turn c s) :=
  onComm_fails _ _ ha hn hh (by simp [firstFail, h])

end

/-- A communicator that has lost a rank. -/
def lostByRank (rank : Nat) (v : Comm) : Comm :=
  { v with state := .lost, lostRank := BitVec.ofNat 16 rank, lostValid := true, lostAccel := 0, relayed := false }

/-- Without operations under way, a loss changes the communicator, is noted, and is reported. -/
theorem commLost_idle {k : Nat} {s : State} (h : (commOf s k).state = .active) (ho : (commOf s k).ops = []) (rank : Nat)
    (st : Status) : ∃ r, commLost k (some rank) none false st s =
      report r (setComm k (lostByRank rank (commOf s k)) { s with red := { s.red with memberLostSeen := true } }) := by
  simp only [commLost, lostByRank, h, ho, ne_eq, not_true_eq_false, if_false, List.filter_nil, List.foldl_nil]
  exact ⟨_, rfl⟩

/-! ## The obligation -/

/-- A command on a communicator is held behind an earlier one, and completes BOUNDS where it names no slot. -/
theorem onComm_not_started {i : Cmd → Instr} {d : OpDesc} {fails : Nat → List (Bool × Status)} {run : Nat → State → State}
    {c : Cmd} {s : State} (he : exec (i c) s = ends s (onComm d c fails run s)) (hs : settled s) (ha : admits d c s) :
    (commHeld s c = true → exec (i c) s = .next (holdCmd c s)) ∧
      (namedComm s c = none → exec (i c) s = .next (complete c .bounds [] (procUnit s c) (turn c s))) := by
  rw [he]
  refine ⟨fun hh => ?_, fun hn => ?_⟩
  · rw [onComm_holds _ _ ha hh]
    exact ends_undisturbed hs (holdCmd_undisturbed c s)
  · rw [onComm_unnamed _ _ ha hn]
    exact ends_complete_turn hs (.refl _) _ _ _

/-- Settles O38: each command is its checks and its effect on the state its turn leaves; only a loss can report, and it leaves who
owns the slot as it was. -/
theorem communicatorCommandsTakeEffect : Obligations.CommunicatorCommandsTakeEffect := by
  unfold Obligations.CommunicatorCommandsTakeEffect
  refine ⟨?create, ?reform, ?query, ?lost, ?destroy, ?start⟩
  case create =>
    intro c s k hs ha hn hh
    refine ⟨fun hfree hrank hlo hhi hspill hcontrib hcap hctx hen hports hkey hes hres => ?_, fun h => ?_⟩
    · refine ⟨complete c .ok [] (commOwner s k) (setComm k (createdComm c s) (turn c s)), ?_, ?_⟩
      · rw [exec, execCommCreate, commCreate_creates ha hn hh hfree hrank hlo hhi hspill hcontrib hcap hctx hen hports hkey hes hres]
        exact ends_complete_turn hs (setComm_undisturbed _ _ _) _ _ _
      · simp only [commOf_complete, commOf_setComm]
        exact ⟨rfl, rfl, fieldLE_toNat (by decide) _ _, rfl, rfl, rfl, rfl, rfl, rfl, rfl, rfl, rfl,
          fun x hx => commOf_setComm_other _ _ _ _ hx, complete_jcq_congr (setComm_jcq _ _ _) _ _ _ _⟩
    · rw [exec, execCommCreate, commCreate_busy ha hn hh h]
      exact ends_complete_turn hs (.refl _) _ _ _
  case reform =>
    intro c s k hs ha hn hh hlost hep hbase hrank
    refine ⟨complete c .ok [] (commOwner s k) (setComm k (reformedComm c (commOf s k)) (keepViews k (turn c s))), ?_, ?_⟩
    · rw [exec, execCommReform, commReform_reforms ha hn hh hlost hep hbase hrank]
      exact ends_complete_turn hs ((keepViews_undisturbed _ _).trans (setComm_undisturbed _ _ _)) _ _ _
    · simp only [commOf_complete, commOf_setComm, viewOf_complete, viewOf_setComm]
      exact ⟨rfl, fieldLE_toNat (by decide) _ _, fieldLE_toNat (by decide) _ _, rfl, rfl, rfl, rfl, rfl,
        fun x hx => (commOf_setComm_other _ _ _ _ hx).trans (commOf_keepViews _ _ _), fun e _ => viewOf_keepViews k e (turn c s),
        complete_jcq_congr ((setComm_jcq _ _ _).trans (keepViews_jcq _ _)) _ _ _ _⟩
  case query =>
    intro c s k hs ha hn hh h
    rw [exec, execCommQuery, commQuery_answers ha hn hh h]
    exact ends_complete_turn hs (.refl _) _ _ _
  case lost =>
    intro c s k ha hn hh
    refine ⟨fun h => ?_, fun h => ?_, fun _ h ho hby => ?_⟩
    · rw [exec, execCommMemberLost, commMemberLost_loses ha hn hh h]
      rfl
    · rw [exec, execCommMemberLost, commMemberLost_busy ha hn hh h]
      rfl
    · obtain ⟨r, hr⟩ := commLost_idle (s := turn c s) h ho (fieldLE c.packet 16 2) .memberLost
      refine ⟨_, by rw [exec, execCommMemberLost, commMemberLost_loses ha hn hh h, declaredLoss, if_pos hby, hr]; rfl, ?_⟩
      simp only [commOf, ended_red, complete_red, report_red, setComm_red, tget_tset_same]
      exact ⟨rfl, fieldLE_toNat (by decide) _ _, rfl, trivial, fun x hx => tget_tset_other _ _ _ hx⟩
  case destroy =>
    intro c s k hs ha hn hh
    refine ⟨fun h ho => ?_, fun h ho => ?_⟩
    · rw [exec, execCommDestroy, commDestroy_frees ha hn hh h ho]
      exact ends_complete_turn hs ((keepViews_undisturbed _ _).trans (setComm_undisturbed _ _ _)) _ _ _
    · rw [exec, execCommDestroy, commDestroy_busy ha hn hh h ho]
      exact ends_complete_turn hs (.refl _) _ _ _
  case start =>
    intro c s hs p hp ha
    simp only [List.mem_cons, List.not_mem_nil, or_false] at hp
    rcases hp with rfl | rfl | rfl | rfl | rfl
    · exact onComm_not_started rfl hs ha
    · exact onComm_not_started rfl hs ha
    · exact onComm_not_started rfl hs ha
    · exact onComm_not_started rfl hs ha
    · exact onComm_not_started rfl hs ha

end Sys2Proof.Machine
end

section
/-! PROOFS. Operations are admitted in order, eight at a time (R208 to R211, R213, R217, R222). -/

namespace Sys2Proof.Machine

/-! ## A command in its turn (R211) -/

section
variable {c : Cmd} {s : State} {k code : Nat} (ha : admits (descRedOp code) c s) (hn : namedComm s c = some k)
include ha hn

theorem redOperation_holds (h : commHeld s c = true ∨ 8 ≤ (commOf s k).ops.length) : redOperation code c s = holdCmd c s := by
  have hb : (commFull s c || commHeld s c) = true := by
    rw [commFull_named hn, Bool.or_eq_true, decide_eq_true_eq]
    exact h.symm
  rw [redOperation, hb, orderCmd_holds ha]

variable (hh : commHeld s c = false) (hl : (commOf s k).ops.length < 8)
include hh hl

theorem redOperation_checks :
    redOperation code c s = checked c (redFails s c k) (turn c s) (admitOp c k) := by
  have hb : (commFull s c || commHeld s c) = false := by
    rw [commFull_named hn, hh, decide_eq_false (Nat.not_le.mpr hl), Bool.or_false]
  rw [redOperation, hb, orderCmd_withComm _ _ ha hn]

theorem redOperation_admits (hf : firstFail (redFails s c k) = none) : redOperation code c s = admitOp c k (turn c s) := by
  rw [redOperation_checks ha hn hh hl, checked_passes hf]

theorem redOperation_fails {st : Status} (hf : firstFail (redFails s c k) = some st) :
    redOperation code c s = complete c st [] (procUnit s c) (turn c s) := by
  rw [redOperation_checks ha hn hh hl, checked_fails hf]
  rfl

end

/-! ## An operation that has something to do (R217, R222) -/

/-- The communicator with a command's operation under way. -/
def joinedComm (c : Cmd) (s : State) (v : Comm) : Comm := { v with next := v.next + 1, ops := v.ops ++ [redOpOf s c v] }

/-- The operation is under way and has its slots. -/
def opJoined (c : Cmd) (k : Nat) (s : State) : State := fillSlots k (setComm k (joinedComm c s (commOf s k)) s)

theorem admitOp_eq (c : Cmd) (k : Nat) (s : State) : admitOp c k s = checkRedOp k (commOf s k).next (opJoined c k s) := rfl

section
variable (c : Cmd) (k : Nat) (s : State)

theorem commOf_opJoined : commOf (opJoined c k s) k = joinedComm c s (commOf s k) := by
  rw [opJoined, (fillSlots_takesSlots k _).commOf, commOf_setComm]

theorem commOf_opJoined_other {x : Nat} (hx : x ≠ k) : commOf (opJoined c k s) x = commOf s x := by
  rw [opJoined, (fillSlots_takesSlots k _).commOf, commOf_setComm_other _ _ _ _ hx]

theorem opJoined_jcq : (opJoined c k s).jcq = s.jcq := (fillSlots_takesSlots k _).jcq

theorem opJoined_undisturbed : Undisturbed s (opJoined c k s) :=
  (setComm_undisturbed _ _ s).trans (fillSlots_takesSlots k _).undisturbed

end

/-- An operation with a stage that has not committed, and nothing written that failed, goes on. -/
theorem checkRedOp_goes_on {k : Nat} {os : BitVec 32} {s : State} {o : RedOp} {x g : Nat} (ho : findRedOp s k os = some o)
    (hf : o.fault = none) (hx : x < pickCount (commOf s k) o) (hg : g ∈ planStages (redPlan (commOf s k) o x))
    (hd : stageDone o x g = false) : checkRedOp k os s = s := by
  have hall : ((List.range (pickCount (commOf s k) o)).all fun p =>
      (planStages (redPlan (commOf s k) o p)).all fun g => stageDone o p g) = false := by
    rw [List.all_eq_false]
    refine ⟨x, List.mem_range.mpr hx, ?_⟩
    rw [Bool.not_eq_true, List.all_eq_false]
    exact ⟨g, hg, by rw [hd]; decide⟩
  simp only [checkRedOp, ho, hf, hall, Bool.false_and, Bool.false_eq_true, if_false, ite_self]

/-- The operation admitted last is the one its number names. -/
theorem findRedOp_opJoined {c : Cmd} {k : Nat} {s : State} (h : ∀ o ∈ (commOf s k).ops, o.opseq ≠ (commOf s k).next) :
    findRedOp (opJoined c k s) k (commOf s k).next = some (redOpOf s c (commOf s k)) := by
  rw [findRedOp, commOf_opJoined, joinedComm, List.find?_append, List.find?_eq_none.mpr (by simpa using h), Option.none_or]
  exact List.find?_cons_of_pos (beq_self_eq_true _)

theorem admitOp_joins {c : Cmd} {k : Nat} {s : State} {x : Nat} (hx : x < pickCount (commOf s k) (redOpOf s c (commOf s k)))
    (hst : planStages (redPlan (commOf s k) (redOpOf s c (commOf s k)) x) ≠ [])
    (hnew : ∀ o ∈ (commOf s k).ops, o.opseq ≠ (commOf s k).next) : admitOp c k s = opJoined c k s := by
  obtain ⟨g, hg⟩ := List.exists_mem_of_ne_nil _ hst
  rw [admitOp_eq]
  exact checkRedOp_goes_on (findRedOp_opJoined hnew) rfl (by rw [commOf_opJoined]; exact hx) (by rw [commOf_opJoined]; exact hg) rfl

/-! ## The obligation -/

/-- One operation command, whatever its opcode. -/
theorem redOperation_row {i : Cmd → Instr} {code : Nat} (he : ∀ c s, exec (i c) s = ends s (redOperation code c s)) {c : Cmd}
    {s : State} {k : Nat} (ha : admits (descRedOp code) c s) (hn : namedComm s c = some k) :
    (commHeld s c = false → (commOf s k).ops.length < 8 →
      (firstFail (redFails s c k) = none → exec (i c) s = .next (ended s (admitOp c k (turn c s))) ∧
        (settled s → (∃ x, x < pickCount (commOf s k) (redOpOf s c (commOf s k)) ∧
            planStages (redPlan (commOf s k) (redOpOf s c (commOf s k)) x) ≠ []) →
          (∀ o ∈ (commOf s k).ops, o.opseq ≠ (commOf s k).next) → ∃ t, exec (i c) s = .next t ∧
          (commOf t k).ops = (commOf s k).ops ++ [redOpOf s c (commOf s k)] ∧ (redOpOf s c (commOf s k)).code = code ∧
          (redOpOf s c (commOf s k)).opseq = (commOf s k).next ∧ (commOf t k).next = (commOf s k).next + 1 ∧
          t.jcq = (turn c s).jcq ∧ ∀ x, x ≠ k → commOf t x = commOf s x)) ∧
      ∀ st, firstFail (redFails s c k) = some st →
        exec (i c) s = .next (ended s (complete c st [] (procUnit s c) (turn c s)))) ∧
    (settled s → commHeld s c = true ∨ 8 ≤ (commOf s k).ops.length → exec (i c) s = .next (holdCmd c s)) := by
  refine ⟨fun hh hl => ⟨fun hf => ?admitted, fun st hf => ?failed⟩, fun hs hb => ?held⟩
  case admitted =>
    have he' : exec (i c) s = .next (ended s (admitOp c k (turn c s))) := by
      rw [he, redOperation_admits ha hn hh hl hf]
      rfl
    refine ⟨he', fun hs ⟨x, hx, hst⟩ hnew => ⟨opJoined c k (turn c s), ?_, ?_⟩⟩
    · rw [he, redOperation_admits ha hn hh hl hf, admitOp_joins (s := turn c s) hx hst hnew]
      exact ends_undisturbed hs ((turn_undisturbed c s).trans (opJoined_undisturbed c k _))
    · rw [commOf_opJoined]
      exact ⟨rfl, admits_code ha, rfl, rfl, opJoined_jcq c k _, fun x hx => commOf_opJoined_other c k (turn c s) hx⟩
  case failed =>
    rw [he, redOperation_fails ha hn hh hl hf]
    rfl
  case held =>
    rw [he, redOperation_holds ha hn hb]
    exact ends_undisturbed hs (holdCmd_undisturbed c s)

/-- Settles O39: the six commands differ in their opcode alone; an operation that has a stage to work joins the others and is not
over. -/
theorem reedOperationsAreAdmitted : Obligations.ReedOperationsAreAdmitted := by
  unfold Obligations.ReedOperationsAreAdmitted
  intro p hp c s k ha hn
  simp only [List.mem_cons, List.not_mem_nil, or_false] at hp
  rcases hp with rfl | rfl | rfl | rfl | rfl | rfl
  · exact redOperation_row (fun _ _ => rfl) ha hn
  · exact redOperation_row (fun _ _ => rfl) ha hn
  · exact redOperation_row (fun _ _ => rfl) ha hn
  · exact redOperation_row (fun _ _ => rfl) ha hn
  · exact redOperation_row (fun _ _ => rfl) ha hn
  · exact redOperation_row (fun _ _ => rfl) ha hn

end Sys2Proof.Machine
end

section
/-! PROOFS. The steps of a Reed engine (R203, R205, R216, R219, R222, R249 to R254). -/

namespace Sys2Proof.Machine

/-! ## State delivered, and peer entries (R203, R205) -/

/-- What a delivery tells an engine of a communicator. -/
def toldView (c : Comm) : CommView where
  state := c.state
  epoch := c.epoch
  base := c.base

/-- An engine is told of a communicator. -/
def viewTold (k e : Nat) (s : State) : State :=
  { s with red := { s.red with view := tset {} s.red.view (k * 32 + e) (toldView (commOf s k)) } }

theorem deliverComm_tells {k e : Nat} {s : State} (he : e < 32) (hi : inService s (engineUnit e) = true) :
    deliverComm k e s = viewTold k e s := by
  have h : ¬(e ≥ 32 ∨ (!inService s (engineUnit e)) = true) := by simp [he, hi]
  simp only [deliverComm, if_neg h]
  rfl

theorem viewOf_viewTold (k e : Nat) (s : State) : viewOf (viewTold k e s) k e = toldView (commOf s k) := tget_tset_same _ _ _ _

/-- A choice on an option that is known. Taking the branch by this lemma keeps the kernel from evaluating the read inside it. -/
theorem match_of_eq_some {β : Type} (o : Option Nat) (a : Nat) (f : Nat → β) (g : β) :
    o = some a → (match o with | some x => f x | none => g) = f a := by
  rintro rfl
  rfl

theorem peerEntry_keeps {k rank e : Nat} {ext : List ExtRead} {s u : State} {bs : List Byte} {p : Peer}
    (ha : (commOf s k).state = .active) (hr : rank ≠ (commOf s k).rank) (hm : rank ≤ (commOf s k).membersM1)
    (hp : peerOf (commOf s k) rank = none) (he : (commOf s k).engines[0]? = some e)
    (hread : vaRead (peerLookup s k e) ((commOf s k).peersVa + 64 * rank) 64 ext s = (u, .ok, bs))
    (hpeer : readPeer u (commOf s k) rank bs = .ok p) : peerEntry k rank ext s =
      sendWaiting k ext (modComm k (fun c => { c with peers := c.peers ++ [p] }) u) := by
  have h : ¬((commOf s k).state ≠ .active ∨ rank = (commOf s k).rank ∨ rank > (commOf s k).membersM1 ∨
      (peerOf (commOf s k) rank).isSome = true) := by simp [ha, hr, hm, hp]
  rw [peerEntry, if_neg h]
  refine (match_of_eq_some _ e _ s he).trans ?_
  rw [hread]
  simp only [hpeer]

/-! ## Contributions (R216, R219, R249, R254) -/

/-- The engine can take a block of the source for the stage now. -/
def blockReady (s : State) (k e : Nat) (o : RedOp) (pick stage : Nat) (src : RedSrc) : Bool :=
  engineWorks s k e o && decide (pick < pickCount (commOf s k) o) && (planStages (redPlan (commOf s k) o pick)).contains stage &&
    !stageDone o pick stage && (stageSources (commOf s k) o pick stage).contains src && (src != .work || stageDone o pick 0)

/-- Slots are taken for the segments that a block touches, as far as there are any. -/
def openedSegs (k : Nat) (o : RedOp) (pick stage : Nat) (segs : List Nat) (s : State) : State :=
  segs.foldl (fun s g => (openSeg k o pick stage g s).2) s

/-- One of the segments has a slot. -/
def someSlot (s : State) (k : Nat) (os : BitVec 32) (pick stage : Nat) (segs : List Nat) : Bool :=
  segs.any fun g => (slotFor s k os pick stage g).isSome

theorem blockReady_of {s : State} {k e : Nat} {o : RedOp} {pick stage : Nat} {src : RedSrc} (hw : engineWorks s k e o = true)
    (hp : pick < pickCount (commOf s k) o) (hg : stage ∈ planStages (redPlan (commOf s k) o pick))
    (hd : stageDone o pick stage = false) (hs : src ∈ stageSources (commOf s k) o pick stage)
    (h0 : src = .work → stageDone o pick 0 = true) : blockReady s k e o pick stage src = true := by
  have hwork : (src != .work || stageDone o pick 0) = true := by
    rw [Bool.or_eq_true, bne_iff_ne]
    exact or_iff_not_imp_left.mpr fun h => h0 (not_not.mp h)
  simp only [blockReady, hw, decide_eq_true hp, List.contains_iff_mem.mpr hg, hd, List.contains_iff_mem.mpr hs, hwork, Bool.not_false,
    Bool.and_self]

section
variable {k : Nat} {os : BitVec 32} {pick stage : Nat} {src : RedSrc} {off : Nat} {corrupt : Bool} {ext : List ExtRead} {s : State}
  {o : RedOp} {e : Nat} {i : RedIn} (ho : liveOp s k os = some o) (he : pickEngine o pick = some e)
  (hr : blockReady s k e o pick stage src = true)
  (hi : (runOf (commOf s k) o pick stage).ins.find? (fun i => i.src == src) = some i)
include ho he hr hi

theorem contributionBlock_faults {f : RedFault} (hf : faultSeen s e o none f = true) :
    contributionBlock k os pick stage src off corrupt (some f) ext s = engineFault k e o pick 0 0 f s := by
  rw [blockReady] at hr
  simp only [contributionBlock, ho, he, hr, hi, Option.filter_some, hf, if_true]

variable {n : Nat} {v : State} (hv : v = openedSegs k o pick stage (segsOf (commOf s k) o pick stage src off n) s)
  (hheld : someSlot v k os pick stage (segsOf (commOf s k) o pick stage src off n) = true)
include hv hheld

/-- A block that has arrived and whose segments have slots is added where its check value is right, and is bad else (R249, R254). -/
theorem contributionBlock_arrived (hwork : src ≠ .work) (hva : src ≠ .inVa) {b : RedBlock}
    (hb : (waitingBlocks s k os pick stage src).find? (fun b => b.off == off) = some b) (hn : n = b.bytes.length) :
    contributionBlock k os pick stage src off corrupt none ext s =
      if crc32c (if corrupt then misread b.bytes else b.bytes) = b.crc then
        addBlock k e o pick stage src off b.bytes (some b) ext v
      else badBlock k e o (runOf (commOf s k) o pick stage) i off b.again
        { v with red := { v.red with arrived := v.red.arrived.erase b } } := by
  subst hn hv
  rw [blockReady] at hr
  rw [someSlot, openedSegs] at hheld
  cases src with
  | work => exact absurd rfl hwork
  | inVa => exact absurd rfl hva
  | rank r =>
    simp only [contributionBlock, ho, he, hr, hi, hb, hheld, Option.filter_none, Bool.not_true, Bool.false_eq_true, if_false]
    rfl
  | acc p =>
    simp only [contributionBlock, ho, he, hr, hi, hb, hheld, Option.filter_none, Bool.not_true, Bool.false_eq_true, if_false]
    rfl

/-- A block of the work buffer or `IN_VA` is read, and what it is read as is checked (R249). -/
theorem contributionBlock_read (hsrc : src = .work ∨ src = .inVa) (hn : checkBlock (commOf s k) o pick src off = some n) {w : State}
    {bs : List Byte}
    (hread : vaRead (redLookup v k e o) (localVa (commOf s k) o pick src + off) n (ext ++ o.ext) v = (w, .ok, bs)) :
    contributionBlock k os pick stage src off corrupt none ext s =
      if crc32c (if corrupt then misread bs else bs) = crc32c bs then addBlock k e o pick stage src off bs none ext w
      else badBlock k e o (runOf (commOf s k) o pick stage) i off false w := by
  subst hv
  rw [blockReady] at hr
  rw [someSlot, openedSegs] at hheld
  rw [openedSegs] at hread
  rcases hsrc with rfl | rfl
  · simp only [contributionBlock, ho, he, hr, hi, hn, hheld, hread, Option.filter_none, Bool.not_true, Bool.false_eq_true, if_false]
  · simp only [contributionBlock, ho, he, hr, hi, hn, hheld, hread, Option.filter_none, Bool.not_true, Bool.false_eq_true, if_false]

end

/-! ## Commits (R222, R250, R253) -/

/-- The elements of a segment that have been added up. -/
def segAccs (c : Comm) (o : RedOp) (r : RedRun) (seg : Nat) : List RAcc :=
  (segCells c o r seg).filterMap fun x => tget none r.acc x

section
variable {k : Nat} {os : BitVec 32} {pick stage seg refused : Nat} {ext : List ExtRead} {s u : State} {o : RedOp} {e : Nat}
  {r : RedRun}

section
variable (ho : liveOp s k os = some o) (he : pickEngine o pick = some e)
  (hworks : (engineWorks s k e o && decide (pick < pickCount (commOf s k) o) &&
    (planStages (redPlan (commOf s k) o pick)).contains stage) = true)
  (hd : stageDone o pick stage = false)
  (hopen : (decide (seg < segCount (commOf s k) o pick stage) && !(runOf (commOf s k) o pick stage).segDone.contains seg &&
    (slotFor s k os pick stage seg).isSome && segReady (commOf s k) o (runOf (commOf s k) o pick stage) seg) = true)
  (hc : commitChecked k e o (runOf (commOf s k) o pick stage) seg ext s = (u, .ok, r))
include ho he hworks hd hopen hc

theorem pickCommit_commits : pickCommit k os pick stage seg refused none ext s = commitSegment k e o r seg refused ext
    (addEngineSteps e 64 (if exactly o then (segAccs (commOf s k) o r seg).length else 0) u) := by
  simp only [pickCommit, ho, he, hworks, hopen, hd, hc, Bool.not_true, Bool.false_eq_true, if_false, Option.filter_none]
  rfl

theorem pickCommit_faults {f : RedFault} (hf : faultSeen u e o (some (checkOf (segAccs (commOf s k) o r seg))) f = true) :
    pickCommit k os pick stage seg refused (some f) ext s =
      engineFault k e o pick seg (checkOf (segAccs (commOf s k) o r seg)) f u := by
  rw [segAccs] at hf
  simp only [pickCommit, ho, he, hworks, hopen, hd, hc, Bool.not_true, Bool.false_eq_true, if_false, Option.filter_some, hf, if_true]
  rfl

end

/-- The slots of one segment. -/
def slotsOf (k : Nat) (o : RedOp) (r : RedRun) (seg : Nat) (x : RedSlot) : Bool :=
  x.comm == k && x.opseq == o.opseq && x.pick == r.pick && x.stage == r.stage && x.seg == seg

theorem commitSegment_inner (h : lastSegment (commOf s k) o r = false) : commitSegment k e o r seg refused ext s =
    fillSlots k (dropSlots (slotsOf k o r seg)
      (setRedOp k (setRun { r with segDone := r.segDone ++ [seg] } o) (worked (engineUnit e) 1 s))) := by
  simp only [commitSegment, h, Bool.not_false, if_true]
  rfl

/-- The last segment has been written: its engine has worked, its slot is free, and what saturated is counted. -/
def stageWritten (k e : Nat) (o : RedOp) (r : RedRun) (seg sat : Nat) (c : Comm) (s : State) : State :=
  let w := addEngineSteps e (if exactly o then 16 else 64) (convertedElems c o r.pick r.stage)
    (worked (engineUnit e) 1 (bump (engineUnit e) 7 1 s))
  dropSlots (slotsOf k o r seg) { w with red := { w.red with sat := satAdd w.red.sat sat } }

@[simp] theorem bump_red (u i n : Nat) (s : State) : (bump u i n s).red = s.red := by rw [bump_frame]

theorem stageWritten_spl (sat : Nat) (c : Comm) (s : State) : (stageWritten k e o r seg sat c s).spl = s.spl :=
  bump_spl _ _ _ s

theorem stageWritten_comm (sat : Nat) (c : Comm) (s : State) : (stageWritten k e o r seg sat c s).red.comm = s.red.comm := by
  simp only [stageWritten, dropSlots, addEngineSteps, worked, bump_red]

theorem stageWritten_sat (sat : Nat) (c : Comm) (s : State) :
    (stageWritten k e o r seg sat c s).red.sat = satAdd s.red.sat sat := by
  simp only [stageWritten, dropSlots, addEngineSteps, worked, bump_red]

/-- No write was refused: the retries stand as they were. -/
def nothingRefused (s : State) : State := { s with red := { s.red with crcRetry := satAdd s.red.crcRetry 0 } }

theorem commitSegment_last {w : State} {f : Finish} (h : lastSegment (commOf s k) o r = true)
    (hf : finishPick k e o { r with segDone := r.segDone ++ [seg] } ext s = (u, .ok, f))
    (hw : writeParts k e o ext f.writes (nothingRefused u) = (w, .ok)) :
    commitSegment k e o r seg 0 ext s = closeStage k { o with waits := o.waits ++ newWrites (nothingRefused u) w }
      { r with segDone := r.segDone ++ [seg] } f (stageWritten k e o r seg f.sat (commOf s k) w) := by
  have hnone : { u with red := { u.red with
      crcOutSeen := u.red.crcOutSeen || (0 != 0), crcRetry := satAdd u.red.crcRetry (min 0 u.red.chkRetry.toNat) } } =
      nothingRefused u := by
    simp only [bne_self_eq_false, Bool.or_false, Nat.zero_min]
    rfl
  simp only [commitSegment, h, Bool.not_true, Bool.false_eq_true, if_false, hf, hnone, hw, gt_iff_lt, Nat.not_lt_zero]
  rfl

end

/-! ## Faults, stalls and the watched lane (R251 to R253) -/

theorem engineFault_frame (k e : Nat) (o : RedOp) (pick seg expected : Nat) (f : RedFault) (s : State) :
    (engineFault k e o pick seg expected f s).spl = s.spl ∧ (engineFault k e o pick seg expected f s).red.comm = s.red.comm := by
  cases f <;> exact ⟨rfl, rfl⟩

theorem classOf_engineUnit (e : Nat) : classOf (engineUnit e) = 2 := by
  simp only [classOf, engineUnit, reed, unitId]
  omega

theorem instOf_engineUnit (e : Nat) : instOf (engineUnit e) < 4 := by
  simp only [instOf, engineUnit, reed, unitId]
  omega

theorem datapathStall_notes {e : Nat} (st : Nat) {s : State} (hi : inService s (engineUnit e) = true)
    (hs : stopped s (engineUnit e) = false) :
    ∃ r, datapathStall (engineUnit e) st s = record r { s with red := { s.red with stallSeen := true } } := by
  simp only [datapathStall, hi, hs, classOf_engineUnit, instOf_engineUnit, Bool.not_true, Bool.or_self, Bool.false_eq_true, if_false,
    Nat.reduceEqDiff, and_self, if_true]
  exact ⟨_, rfl⟩

/-- The watched lane moves on, and the steps that it took count no more. -/
def laneMoved (e : Nat) (s : State) : State :=
  { s with red := { s.red with
    lane := tmod 0 s.red.lane e (· + 1), steps := tmod 0 s.red.steps e (· - 2 ^ s.red.shadowLog2.toNat) } }

theorem advanceLane_eq {e : Nat} {s : State} (he : e < 32) (hi : inService s (engineUnit e) = true)
    (hs : stopped s (engineUnit e) = false) :
    advanceLane e s = if tget 0 s.red.steps e < 2 ^ s.red.shadowLog2.toNat then s else laneMoved e s := by
  simp only [advanceLane, Nat.not_le.mpr he, hi, hs, Bool.not_true, Bool.false_eq_true, false_or]
  rfl

/-! ## The obligation -/

/-- Settles O40: each step of an engine by the branch of its row that the hypotheses name; a delivery and a move of the watched lane
disturb nothing, and a stall reports its record. -/
theorem reedEnginesStep : Obligations.ReedEnginesStep := by
  unfold Obligations.ReedEnginesStep
  refine ⟨?delivery, ?peer, ?block, ?commit, ?segment, ?fault, ?stall, ?lane⟩
  case delivery =>
    intro k e s hs he hi
    refine ⟨viewTold k e s, ?_, viewOf_viewTold k e s, rfl⟩
    rw [exec, execCommStateDelivery, deliverComm_tells he hi]
    exact congrArg Host.Outcome.next (shtEnded_undisturbed hs ⟨rfl, rfl, rfl, rfl, rfl, rfl⟩ rfl)
  case peer =>
    intro k rank ext s u e bs p ha hr hm hp he hread hpeer
    rw [exec, execPeerEntryRead, peerEntry_keeps ha hr hm hp he hread hpeer]
    rfl
  case block =>
    intro k os pick stage src off corrupt ext s o e i n v ho he hw hp hg hd hsrc h0 hi hv hheld
    have hr := blockReady_of hw hp hg hd hsrc h0
    refine ⟨fun b hwork hva hb hn => ⟨fun hcrc => ?_, fun hcrc => ?_⟩, fun w bs hlocal hn hread => ⟨fun hc => ?_, fun hc hcrc => ?_⟩,
      fun f hf => ?_⟩
    · rw [exec, execContributionBlock, contributionBlock_arrived ho he hr hi hv hheld hwork hva hb hn, if_pos hcrc]
      rfl
    · rw [exec, execContributionBlock, contributionBlock_arrived ho he hr hi hv hheld hwork hva hb hn, if_neg hcrc]
      rfl
    · rw [exec, execContributionBlock, contributionBlock_read ho he hr hi hv hheld hlocal hn hread, hc, if_neg Bool.false_ne_true, if_pos rfl]
      rfl
    · rw [exec, execContributionBlock, contributionBlock_read ho he hr hi hv hheld hlocal hn hread, hc, if_pos rfl, if_neg hcrc]
      rfl
    · rw [exec, execContributionBlock, contributionBlock_faults ho he hr hi hf]
      rfl
  case commit =>
    intro k os pick stage seg refused ext s u o e r cells ho he hw hp hg hd hseg hnew hslot hready hc hcells
    subst hcells
    have hworks : (engineWorks s k e o && decide (pick < pickCount (commOf s k) o) &&
        (planStages (redPlan (commOf s k) o pick)).contains stage) = true := by
      simp only [hw, decide_eq_true hp, List.contains_iff_mem.mpr hg, Bool.and_self]
    have hopen : (decide (seg < segCount (commOf s k) o pick stage) && !(runOf (commOf s k) o pick stage).segDone.contains seg &&
        (slotFor s k os pick stage seg).isSome && segReady (commOf s k) o (runOf (commOf s k) o pick stage) seg) = true := by
      simp [hseg, hnew, hslot, hready]
    refine ⟨?_, fun f hf => ?_⟩
    · rw [exec, execPickCommit, pickCommit_commits ho he hworks hd hopen hc]
      rfl
    · rw [exec, execPickCommit, pickCommit_faults ho he hworks hd hopen hc hf]
      rfl
  case segment =>
    intro k e o r seg refused ext s
    refine ⟨fun h => commitSegment_inner h, fun u w f h hz hf hw => ?_⟩
    subst hz
    exact ⟨_, commitSegment_last h hf hw, stageWritten_spl _ _ w, stageWritten_comm _ _ w, stageWritten_sat _ _ w⟩
  case fault =>
    intro k e o pick seg expected f s
    obtain ⟨hspl, hcomm⟩ := engineFault_frame k e o pick seg expected f s
    refine ⟨hspl, hcomm, ?_⟩
    rintro lane rfl
    rfl
  case stall =>
    intro e st s _ _ hi hs
    obtain ⟨r, hr⟩ := datapathStall_notes st hi hs
    refine ⟨_, by rw [exec, execDatapathStall, hr]; rfl, ?_⟩
    rw [ended_red]
    exact ⟨rfl, rfl⟩
  case lane =>
    intro e s hs he hi hst
    refine ⟨fun h => ?_, fun h => ?_⟩
    · rw [exec, execShadowLaneAdvance, advanceLane_eq he hi hst, if_neg (Nat.not_lt.mpr h)]
      exact ends_undisturbed (t := laneMoved e s) hs ⟨rfl, rfl, rfl, rfl, rfl, rfl⟩
    · rw [exec, execShadowLaneAdvance, advanceLane_eq he hi hst, if_pos h]
      exact ends_undisturbed hs (.refl s)

end Sys2Proof.Machine
end

section
/-! PROOFS. The number formats hold their values, and rounding to nearest even (R230, R238). -/

namespace Sys2Proof.Machine

/-! ## Rounding (R238) -/

/-- `num / den` rounded to the nearest integer, and to the even one on a tie. -/
def nearestEven (num den : Nat) : Nat :=
  if 2 * (num % den) > den ∨ (2 * (num % den) = den ∧ num / den % 2 = 1) then num / den + 1 else num / den

theorem roundAt_rne (n d : Nat) (e qe : Int) :
    roundAt .rne n d e qe = nearestEven (n * 2 ^ (e - qe).toNat) (d * 2 ^ (-(e - qe)).toNat) := rfl

/-- With remainder `r`, going down is off by `r` and going up by `den - r`; the tie is decided by the parity of the quotient. -/
theorem nearestEven_close (num : Nat) {den : Nat} (hden : 0 < den) :
    2 * ((nearestEven num den * den : Int) - num) ≤ den ∧ 2 * ((num : Int) - nearestEven num den * den) ≤ den ∧
      (2 * ((nearestEven num den * den : Int) - num) = den ∨ 2 * ((num : Int) - nearestEven num den * den) = den →
        (nearestEven num den : Int) % 2 = 0) := by
  have hdiv : (num : Int) = (num / den : Nat) * den + (num % den : Nat) := mod_cast (Nat.div_add_mod' num den).symm
  have hlt : num % den < den := Nat.mod_lt _ hden
  rw [nearestEven, hdiv]
  split
  case isTrue hup =>
    have hnext : ((num / den + 1 : Nat) : Int) * den = (num / den : Nat) * den + den := by
      push_cast
      ring
    rw [hnext]
    refine ⟨?_, ?_, ?_⟩ <;> omega
  case isFalse hdown => refine ⟨?_, ?_, ?_⟩ <;> omega

/-- The random word of a stochastic rounding has 32 bits. -/
def Rnd.wordFits : Rnd → Prop
  | .rne => True
  | .stoch w => w < 2 ^ 32

/-- No rounding moves a whole number of units. -/
theorem roundAt_whole {rnd : Rnd} (h : rnd.wordFits) (n : Nat) (e : Int) : roundAt rnd n 1 e e = n := by
  cases rnd with
  | rne => simp [roundAt, Nat.mod_one]
  | stoch w =>
    have hw : w < 2 ^ 32 := h
    simpa [roundAt, Nat.mod_one] using hw

/-! ## Decoding (R230) -/

/-- The sign bit of a code. -/
def FFmt.signCode (f : FFmt) (s : Bool) : Nat := if s then 2 ^ (f.width - 1) else 0

section
variable {f : FFmt} {c : Nat}

/-- A code is its sign bit and its magnitude. -/
theorem signCode_add_magnitude (hw : 0 < f.width) (hc : c < 2 ^ f.width) :
    f.signCode (bit c (f.width - 1)) + c % 2 ^ (f.width - 1) = c := by
  have htop : c / 2 ^ (f.width - 1) < 2 := by
    rw [Nat.div_lt_iff_lt_mul (Nat.two_pow_pos _), ← Nat.pow_succ', Nat.succ_eq_add_one, Nat.sub_one_add_one hw.ne']
    exact hc
  have hdiv := Nat.div_add_mod c (2 ^ (f.width - 1))
  rcases Nat.le_one_iff_eq_zero_or_eq_one.mp (Nat.lt_succ_iff.mp htop) with h | h
  all_goals
    rw [h] at hdiv
    simpa [FFmt.signCode, bit, h] using hdiv

theorem decode_inf (h : f.infCode = some (c % 2 ^ (f.width - 1))) : f.decode c = .inf (bit c (f.width - 1)) := by
  simp only [FFmt.decode, if_pos h]

theorem decode_subnormal (hi : f.infCode ≠ some (c % 2 ^ (f.width - 1))) (hm : c % 2 ^ (f.width - 1) ≤ f.maxCode)
    (hs : c % 2 ^ (f.width - 1) < 2 ^ f.mb) :
    f.decode c = .fin (bit c (f.width - 1)) (c % 2 ^ (f.width - 1)) 1 f.qmin := by
  simp only [FFmt.decode, if_neg hi, if_neg (Nat.not_lt.mpr hm), if_pos hs]

theorem decode_normal (hi : f.infCode ≠ some (c % 2 ^ (f.width - 1))) (hm : c % 2 ^ (f.width - 1) ≤ f.maxCode)
    (hs : 2 ^ f.mb ≤ c % 2 ^ (f.width - 1)) :
    f.decode c = .fin (bit c (f.width - 1)) (2 ^ f.mb + c % 2 ^ (f.width - 1) % 2 ^ f.mb) 1
      (f.qmin + (c % 2 ^ (f.width - 1) / 2 ^ f.mb : Nat) - 1) := by
  simp only [FFmt.decode, if_neg hi, if_neg (Nat.not_lt.mpr hm), if_neg (Nat.not_lt.mpr hs)]

end

/-! ## Encoding (R237) -/

theorem floorLog2_whole {n : Nat} (hn : n ≠ 0) (e : Int) : floorLog2 n 1 e = n.log2 + e := by
  have hlog : Nat.log2 1 = 0 := by decide
  simp [floorLog2, hlog, Nat.log2_self_le hn]

section
variable {f : FFmt} {rnd : Rnd}

theorem encode_inf {b : Nat} (h : f.infCode = some b) (s : Bool) : (f.encode rnd (.inf s)).1 = f.signCode s + b := by
  simp only [FFmt.encode, h]
  rfl

theorem encode_zero (s : Bool) (d : Nat) (e : Int) : (f.encode rnd (.fin s 0 d e)).1 = f.signCode s := rfl

/-- A whole number of the quanta `2^e` of its own binade keeps its digits. -/
theorem encode_whole (h : rnd.wordFits) {n : Nat} {e : Int} (hn : n ≠ 0) (he : max (n.log2 + e - f.mb) f.qmin = e)
    (hmax : (e - f.qmin).toNat * 2 ^ f.mb + n ≤ f.maxCode) (s : Bool) :
    (f.encode rnd (.fin s n 1 e)).1 = f.signCode s + ((e - f.qmin).toNat * 2 ^ f.mb + n) := by
  simp only [FFmt.encode, if_neg hn, floorLog2_whole hn, he, roundAt_whole h, if_neg (Nat.not_lt.mpr hmax)]
  rfl

theorem encode_subnormal (h : rnd.wordFits) {b : Nat} (hs : b < 2 ^ f.mb) (hm : b ≤ f.maxCode) (s : Bool) :
    (f.encode rnd (.fin s b 1 f.qmin)).1 = f.signCode s + b := by
  rcases eq_or_ne b 0 with rfl | hb
  · exact encode_zero s 1 f.qmin
  · have hlog : b.log2 < f.mb := (Nat.log2_lt hb).mpr hs
    have hzero : (f.qmin - f.qmin).toNat * 2 ^ f.mb + b = b := by simp
    rw [encode_whole h hb (by omega) (hzero.trans_le hm), hzero]

theorem encode_normal (h : rnd.wordFits) {b : Nat} (hs : 2 ^ f.mb ≤ b) (hm : b ≤ f.maxCode) (s : Bool) :
    (f.encode rnd (.fin s (2 ^ f.mb + b % 2 ^ f.mb) 1 (f.qmin + (b / 2 ^ f.mb : Nat) - 1))).1 = f.signCode s + b := by
  have hpos : 0 < 2 ^ f.mb := Nat.two_pow_pos f.mb
  have hexp : 1 ≤ b / 2 ^ f.mb := (Nat.one_le_div_iff hpos).mpr hs
  have hfrac : b % 2 ^ f.mb < 2 ^ f.mb := Nat.mod_lt _ hpos
  have hlog : (2 ^ f.mb + b % 2 ^ f.mb).log2 = f.mb := (Nat.log2_eq_iff (by omega)).mpr ⟨by omega, by rw [pow_succ]; omega⟩
  have hcode : (f.qmin + (b / 2 ^ f.mb : Nat) - 1 - f.qmin).toNat * 2 ^ f.mb + (2 ^ f.mb + b % 2 ^ f.mb) = b := by
    have hdigits : (f.qmin + (b / 2 ^ f.mb : Nat) - 1 - f.qmin).toNat = b / 2 ^ f.mb - 1 := by omega
    calc (f.qmin + (b / 2 ^ f.mb : Nat) - 1 - f.qmin).toNat * 2 ^ f.mb + (2 ^ f.mb + b % 2 ^ f.mb)
        = (b / 2 ^ f.mb - 1 + 1) * 2 ^ f.mb + b % 2 ^ f.mb := by rw [hdigits]; ring
      _ = b := by rw [Nat.sub_add_cancel hexp, Nat.div_add_mod']
  rw [encode_whole h (by omega) (by rw [hlog]; omega) (hcode.trans_le hm), hcode]

/-- Every code but a NaN's encodes its own value, in any format and however values are rounded. -/
theorem encode_decode (h : rnd.wordFits) (hw : 0 < f.width) {c : Nat} (hc : c < 2 ^ f.width)
    (hnum : c % 2 ^ (f.width - 1) ≤ f.maxCode ∨ f.infCode = some (c % 2 ^ (f.width - 1))) :
    (f.encode rnd (f.decode c)).1 = c := by
  refine Eq.trans ?_ (signCode_add_magnitude hw hc)
  by_cases hi : f.infCode = some (c % 2 ^ (f.width - 1))
  · rw [decode_inf hi, encode_inf hi]
  · have hm := hnum.resolve_right hi
    rcases Nat.lt_or_ge (c % 2 ^ (f.width - 1)) (2 ^ f.mb) with hs | hs
    · rw [decode_subnormal hi hm hs, encode_subnormal h hs hm]
    · rw [decode_normal hi hm hs, encode_normal h hs hm]

end

/-! ## The obligation -/

/-- Settles O41: a format holds an infinity by its code, and a finite value as a whole number of quanta, which no rounding moves;
rounding to nearest even goes by the remainder of the division. -/
theorem formatsHoldTheirValues : Obligations.FormatsHoldTheirValues := by
  unfold Obligations.FormatsHoldTheirValues
  refine ⟨fun f hf c hc hnum => ?codes, fun n d e qe hd => ?rounding⟩
  case codes =>
    have hwidth : ∀ f ∈ [fp32, bf16, fp16, e4m3, e5m2, e2m3, e3m2, e2m1], 0 < f.width := by decide
    exact ⟨encode_decode (rnd := .rne) trivial (hwidth f hf) hc hnum, fun w hw => encode_decode (rnd := .stoch w) hw (hwidth f hf) hc hnum⟩
  case rounding =>
    intro num den q
    exact nearestEven_close (n * 2 ^ (e - qe).toNat) (Nat.mul_pos hd (Nat.two_pow_pos _))

end Sys2Proof.Machine
end

section
/-! PROOFS. Exact accumulation and the modular check (R235, R241, R242, R250). -/

namespace Sys2Proof.Machine

/-! ## Contributions (R241, R242) -/

@[simp] theorem combine_exact (oper : Nat) (v w : Int) (n p m n' p' m' : Bool) :
    combine oper (.exact v n p m) (.exact w n' p' m') = .exact (v + w) (n || n') (p || p') (m || m') := rfl

@[simp] theorem combine_int_sum (x y : BitVec 32) : combine 0 (.int x) (.int y) = .int (x + y) := rfl

/-- A contribution in exact mode is an exact accumulator, whatever it is. -/
theorem exactOf_exact (a : Num) : ∃ v n p m, exactOf a = .exact v n p m := by
  cases a with
  | fin s n d e => exact ⟨_, _, _, _, rfl⟩
  | inf s => cases s <;> exact ⟨_, _, _, _, rfl⟩
  | nan => exact ⟨_, _, _, _, rfl⟩

theorem combine_exactOf_comm (a b : Num) : combine 0 (exactOf a) (exactOf b) = combine 0 (exactOf b) (exactOf a) := by
  obtain ⟨v, n, p, m, ha⟩ := exactOf_exact a
  obtain ⟨w, n', p', m', hb⟩ := exactOf_exact b
  simp only [ha, hb, combine_exact, Int.add_comm w, Bool.or_comm n', Bool.or_comm p', Bool.or_comm m']

theorem combine_exactOf_assoc (a b c : Num) : combine 0 (combine 0 (exactOf a) (exactOf b)) (exactOf c) =
    combine 0 (exactOf a) (combine 0 (exactOf b) (exactOf c)) := by
  obtain ⟨_, _, _, _, ha⟩ := exactOf_exact a
  obtain ⟨_, _, _, _, hb⟩ := exactOf_exact b
  obtain ⟨_, _, _, _, hc⟩ := exactOf_exact c
  simp only [ha, hb, hc, combine_exact, Int.add_assoc, Bool.or_assoc]

/-! ## The modular check (R250) -/

/-- `V` of an accumulator; what is not exact has none to add. -/
def RAcc.exactPart : RAcc → Int
  | .exact v _ _ _ => v
  | _ => 0

theorem checkOf_eq_sum (as : List RAcc) : checkOf as = ((as.map RAcc.exactPart).sum % (2 ^ 61 - 1)).toNat := by
  rw [checkOf, List.sum_eq_foldl, List.foldl_map]
  congr 3
  funext t a
  cases a <;> simp [RAcc.exactPart]

theorem checkOf_perm {as bs : List RAcc} (h : as.Perm bs) : checkOf as = checkOf bs := by
  rw [checkOf_eq_sum, checkOf_eq_sum, (h.map _).sum_eq]

/-! ## The range of FP32 in the accumulator (R241) -/

theorem exactV_natAbs_of_ge (s : Bool) (n : Nat) {e : Int} (he : -149 ≤ e) :
    (exactV s n e).natAbs = n * 2 ^ (e + 149).toNat := by
  have hdown : (-(e + 149)).toNat = 0 := by omega
  simp only [exactV, hdown, pow_zero, Nat.div_one]
  cases s
  case false => exact Int.natAbs_natCast _
  case true => exact (Int.natAbs_neg _).trans (Int.natAbs_natCast _)

/-- A finite FP32 code is below 2^24 quanta, each at most 2^253 units of 2^-149. -/
theorem fp32_fin {c : Nat} (he : c / 2 ^ 23 % 256 ≠ 255) :
    ∃ s n e, fp32.decode c = .fin s n 1 e ∧ n < 2 ^ 24 ∧ -149 ≤ e ∧ e + 149 ≤ 253 := by
  have hm : c % 2 ^ (fp32.width - 1) ≤ fp32.maxCode := by
    simp only [fp32]
    omega
  have hi : fp32.infCode ≠ some (c % 2 ^ (fp32.width - 1)) := by
    simp only [fp32, ne_eq, Option.some.injEq]
    omega
  rcases Nat.lt_or_ge (c % 2 ^ (fp32.width - 1)) (2 ^ fp32.mb) with hs | hs
  · refine ⟨_, _, _, decode_subnormal hi hm hs, ?_⟩
    simp only [fp32] at hs ⊢
    omega
  · refine ⟨_, _, _, decode_normal hi hm hs, ?_⟩
    simp only [fp32] at hs hm ⊢
    omega

theorem exactOf_fp32 {c : Nat} (he : c / 2 ^ 23 % 256 ≠ 255) :
    ∃ v, exactOf (fp32.decode c) = .exact v false false false ∧ v.natAbs < 2 ^ 277 := by
  obtain ⟨s, n, e, hdec, hn, hlo, hhi⟩ := fp32_fin he
  refine ⟨exactV s n e, by rw [hdec]; rfl, ?_⟩
  calc (exactV s n e).natAbs = n * 2 ^ (e + 149).toNat := exactV_natAbs_of_ge s n hlo
    _ ≤ n * 2 ^ 253 := Nat.mul_le_mul_left n (Nat.pow_le_pow_right (by decide) (by omega))
    _ < 2 ^ 24 * 2 ^ 253 := Nat.mul_lt_mul_of_pos_right hn (Nat.two_pow_pos _)
    _ = 2 ^ 277 := by rw [← pow_add]

/-! ## The obligation -/

/-- Settles O42: integers and flags combine by commutative and associative operations, the check is a sum, and finite FP32 values
are below 2^24 quanta. -/
theorem exactSumsDoNotDependOnOrder : Obligations.ExactSumsDoNotDependOnOrder := by
  unfold Obligations.ExactSumsDoNotDependOnOrder
  refine ⟨?flags, ?order, ⟨rfl, rfl, rfl⟩, ?ints, ?check, ?range⟩
  case flags => exact fun v w n p m n' p' m' => combine_exact 0 v w n p m n' p' m'
  case order => exact fun a b c => ⟨combine_exactOf_assoc a b c, combine_exactOf_comm a b⟩
  case ints =>
    intro x y z
    have hsum : x + y + z = z + (y + x) := by rw [BitVec.add_comm x y, BitVec.add_comm z]
    simp only [combine_int_sum, hsum, and_self]
  case check => exact fun as bs h => checkOf_perm h
  case range => exact fun c _ he => exactOf_fp32 he

end Sys2Proof.Machine
end

section
/-! PROOFS. The registers of a Bobbin (R256): what is read back, and what a write leaves alone. -/

namespace Sys2Proof.Machine

variable (b : Bobbin)

/-! ## What is read back -/

theorem sreg_setS (i j : Nat) (v : Word64) :
    sreg (setS i v b) j = if j = 0 then 0 else if j = i then v else sreg b j := by
  unfold sreg setS
  by_cases hj : j = 0
  · simp [hj]
  · by_cases hi : i = 0
    · simp [hi, hj]
    · simp [hi, hj, tget_tset]

theorem preg_setP (i j : Nat) (m : BitVec 128) :
    preg (setP i m b) j = if j = 0 then BitVec.allOnes 128 else if j = i then m else preg b j := by
  unfold preg setP
  by_cases hj : j = 0
  · simp [hj]
  · by_cases hi : i = 0
    · simp [hi, hj]
    · simp [hi, hj, tget_tset]

theorem vreg_setV (i j : Nat) (w : BitVec 1024) : vreg (setV i w b) j = if j = i then w else vreg b j :=
  tget_tset _ _ _ _ _

theorem areg_setLanes (i j : Nat) (w : BitVec 1024) : areg (setLanes i w b) j = if j = i then w else areg b j :=
  tget_tset _ _ _ _ _

/-! ## What is left alone -/

@[simp] theorem areg_setV (i j : Nat) (w : BitVec 1024) : areg (setV i w b) j = areg b j := rfl
@[simp] theorem sreg_setV (i j : Nat) (w : BitVec 1024) : sreg (setV i w b) j = sreg b j := rfl
@[simp] theorem preg_setV (i j : Nat) (w : BitVec 1024) : preg (setV i w b) j = preg b j := rfl
@[simp] theorem vreg_setLanes (i j : Nat) (w : BitVec 1024) : vreg (setLanes i w b) j = vreg b j := rfl
@[simp] theorem sreg_setLanes (i j : Nat) (w : BitVec 1024) : sreg (setLanes i w b) j = sreg b j := rfl
@[simp] theorem preg_setLanes (i j : Nat) (w : BitVec 1024) : preg (setLanes i w b) j = preg b j := rfl

/-! ## Accumulators (R276) -/

section
variable {i : Nat} (hk : fB i / 4 = 0)
include hk

theorem aop_reads (hf : fFunc i = 0) : aop i b = setV (fD i) (areg b (fB i)) b := by
  simp only [aop, hf, Nat.mod_eq_of_lt (show fB i < 4 by omega)]

theorem aop_writes (hf : fFunc i = 1) : aop i b = setLanes (fB i) (vreg b (fA i)) b := by
  simp only [aop, hf, Nat.mod_eq_of_lt (show fB i < 4 by omega)]

theorem aop_clears (hf : fFunc i = 2) : aop i b = setLanes (fB i) 0 b := by
  simp only [aop, hf, Nat.mod_eq_of_lt (show fB i < 4 by omega)]

end

/-- Accumulator moves touch no scalar and no predicate register. -/
theorem aop_scalars_predicates (i x : Nat) : sreg (aop i b) x = sreg b x ∧ preg (aop i b) x = preg b x := by
  unfold aop
  split
  · exact ⟨sreg_setV .., preg_setV ..⟩
  · exact ⟨sreg_setLanes .., preg_setLanes ..⟩
  · exact ⟨sreg_setLanes .., preg_setLanes ..⟩

/-- Settles O45, function by function. -/
theorem accumulatorMoves : Obligations.AccumulatorMoves := by
  unfold Obligations.AccumulatorMoves
  intro i x b hk
  refine ⟨fun hf => ?_, fun hf => ?_, fun hf => ?_, aop_scalars_predicates b i x⟩
  · rw [aop_reads b hk hf]
    exact ⟨by simp [vreg_setV], areg_setV .., fun hx => by simp [vreg_setV, hx]⟩
  · rw [aop_writes b hk hf]
    exact ⟨by simp [areg_setLanes], vreg_setLanes .., fun hx => by simp [areg_setLanes, hx]⟩
  · rw [aop_clears b hk hf]
    exact ⟨by simp [areg_setLanes], vreg_setLanes .., fun hx => by simp [areg_setLanes, hx]⟩

end Sys2Proof.Machine
end

section
/-! PROOFS. Lanes and predicates (R270 to R272). -/

namespace Sys2Proof.Machine

/-! ## Lanes of a packed vector (R270) -/

/-- The number whose base-2^`w` digits are the elements. -/
theorem packed_div_mod (w : Nat) (l : List Nat) (j : Nat) :
    (l.foldr (fun x a => x % 2 ^ w + 2 ^ w * a) 0) / 2 ^ (w * j) % 2 ^ w = (l[j]?.getD 0) % 2 ^ w := by
  have hw : 0 < 2 ^ w := Nat.two_pow_pos w
  induction l generalizing j with
  | nil => simp
  | cons x r ih =>
    cases j with
    | zero => simp [Nat.add_mul_mod_self_left]
    | succ j =>
      have hx : x % 2 ^ w / 2 ^ w = 0 := Nat.div_eq_of_lt (Nat.mod_lt _ hw)
      rw [List.foldr_cons, Nat.mul_succ, Nat.add_comm (w * j) w, Nat.pow_add, ← Nat.div_div_eq_div_mul,
        Nat.add_mul_div_left _ _ hw, hx, Nat.zero_add, ih]
      rfl

/-- A field below bit `n` is not touched by cutting a number to `n` bits. -/
theorem mod_two_pow_div_mod {x n lo w : Nat} (h : lo + w ≤ n) : x % 2 ^ n / 2 ^ lo % 2 ^ w = x / 2 ^ lo % 2 ^ w := by
  obtain ⟨k, rfl⟩ := Nat.exists_eq_add_of_le h
  rw [Nat.add_assoc, Nat.pow_add, Nat.mod_mul_right_div_self, Nat.pow_add, Nat.mod_mul_right_mod]

theorem lane_packLanes {w j : Nat} (l : List Nat) (h : w * j + w ≤ 1024) :
    lane (packLanes w l) w j = (l[j]?.getD 0) % 2 ^ w := by
  rw [lane, packLanes, bits, BitVec.toNat_ofNat, mod_two_pow_div_mod h, packed_div_mod]

theorem lane_mod (v : BitVec 1024) (w j : Nat) : lane v w j % 2 ^ w = lane v w j := Nat.mod_mod _ _

theorem lane_mapLanes {w j : Nat} (p : BitVec 128) (old : BitVec 1024) (f : Nat → Nat) (hj : j < 1024 / w) :
    lane (mapLanes w p old f) w j = if laneOn p w j then f j % 2 ^ w else lane old w j := by
  have hfit : w * j + w ≤ 1024 := by
    have := Nat.mul_le_of_le_div w (j + 1) 1024 hj
    rwa [Nat.succ_mul, Nat.mul_comm j w] at this
  rw [mapLanes, lane_packLanes _ hfit]
  simp only [List.getElem?_map, List.getElem?_range hj, Option.map_some, Option.getD_some]
  split
  · rfl
  · exact lane_mod old w j

/-! ## Predicates (R272) -/

/-- The sum of the powers of two below `n` that a test picks. -/
def bitSum (f : Nat → Bool) (n : Nat) : Nat := (List.range n).foldl (fun a i => if f i then a + 2 ^ i else a) 0

theorem bitSum_succ (f : Nat → Bool) (n : Nat) :
    bitSum f (n + 1) = if f n then 2 ^ n + bitSum f n else bitSum f n := by
  simp only [bitSum, List.range_succ, List.foldl_append, List.foldl_cons, List.foldl_nil]
  split
  · exact Nat.add_comm _ _
  · rfl

theorem bitSum_lt (f : Nat → Bool) (n : Nat) : bitSum f n < 2 ^ n := by
  induction n with
  | zero => exact Nat.one_pos
  | succ n ih =>
    rw [bitSum_succ, Nat.pow_succ]
    split <;> omega

theorem testBit_bitSum (f : Nat → Bool) (n k : Nat) : (bitSum f n).testBit k = (decide (k < n) && f k) := by
  induction n with
  | zero => simp [bitSum]
  | succ n ih =>
    rcases Nat.lt_trichotomy k n with hk | rfl | hk
    · have hlow : (bitSum f (n + 1)).testBit k = (bitSum f n).testBit k := by
        rw [bitSum_succ]
        split
        · exact Nat.testBit_two_pow_add_gt hk _
        · rfl
      simp [hlow, ih, hk, Nat.lt_succ_of_lt hk]
    · have htop : (bitSum f k).testBit k = false := Nat.testBit_lt_two_pow (bitSum_lt f k)
      rw [bitSum_succ]
      split
      · rename_i hf
        simp [Nat.testBit_two_pow_add_eq, htop, hf]
      · rename_i hf
        simp [htop, hf]
    · have hbig : bitSum f (n + 1) < 2 ^ k := (bitSum_lt f _).trans_le (Nat.pow_le_pow_right (by decide) hk)
      simp [Nat.testBit_lt_two_pow hbig, Nat.not_lt.mpr (Nat.succ_le_of_lt hk)]

theorem getLsbD_mkPred (f : Nat → Bool) {k : Nat} (hk : k < 128) : (mkPred f).getLsbD k = f k := by
  have hb : mkPred f = BitVec.ofNat 128 (bitSum f 128) := rfl
  rw [hb, BitVec.getLsbD_ofNat, testBit_bitSum]
  simp [hk]

/-- Settles O44: a lane of a packed vector is its element, a bit of a predicate its test, and registers read back. -/
theorem vectorLanesAreIndependent : Obligations.VectorLanesAreIndependent := by
  unfold Obligations.VectorLanesAreIndependent
  refine ⟨fun i f b j _ hj => ?_, fun i b k _ hk => ?_, fun b i j v m w => ?_⟩
  · simp only [vopWith, vreg_setV, if_true]
    rw [lane_mapLanes _ _ _ hj]
    rfl
  · simp only [vcmp, preg_setP, if_true]
    split
    · rw [BitVec.getLsbD_allOnes]
      exact decide_eq_true hk
    · exact getLsbD_mkPred _ hk
  · refine ⟨?_, ?_, ?_, ?_, ?_, ?_, ?_, rfl, rfl⟩
    · simp [sreg_setS]
    · simp [preg_setP]
    · intro hi
      simp [sreg_setS, hi]
    · intro hi
      simp [preg_setP, hi]
    · simp [vreg_setV]
    · simp [areg_setLanes]
    · intro hj
      refine ⟨?_, ?_, ?_, ?_⟩
      · simp only [sreg_setS, hj, if_false]
        split
        · simp [sreg, *]
        · rfl
      · simp only [preg_setP, hj, if_false]
        split
        · simp [preg, *]
        · rfl
      · simp [vreg_setV, hj]
      · simp [areg_setLanes, hj]

end Sys2Proof.Machine
end

section
/-! PROOFS. How a Bobbin issues an instruction that goes on (R269, R282, R286). -/

namespace Sys2Proof.Machine

/-! ## A Bobbin written twice -/

theorem tdel_tins_same {α : Type} (t : Tab α) (i : Nat) (v : α) : tdel (tins t i v) i = tdel t i := by
  induction t with
  | nil => simp [tins, tdel]
  | cons e r ih =>
    unfold tins
    split
    · simp [tdel]
    · simp only [tdel, List.filter_cons] at ih ⊢
      rw [ih]

/-- The later of two writes of a number stands. -/
theorem tset_tset {α : Type} [DecidableEq α] (d : α) (t : Tab α) (i : Nat) (v w : α) :
    tset d (tset d t i v) i w = tset d t i w := by
  have hdel : tdel (tset d t i v) i = tdel t i := by
    unfold tset
    split
    · simp [tdel, List.filter_filter]
    · rw [tdel_tins_same]
      simp [tdel, List.filter_filter]
  unfold tset
  rw [show tdel (if v = d then tdel t i else tins (tdel t i) i v) i = tdel t i from hdel]

@[simp] theorem setBobbin_setBobbin (u : Nat) (b b' : Bobbin) (s : State) :
    setBobbin u b' (setBobbin u b s) = setBobbin u b' s := by
  simp only [setBobbin, tset_tset]

@[simp] theorem bobbinOf_ended (s t : State) (u : Nat) : bobbinOf (ended s t) u = bobbinOf t u := by
  rw [bobbinOf, ended_bob, bobbinOf]

/-! ## The issue of an instruction -/

/-- What issuing counts: one instruction, and one item of work. -/
def issued (u : Nat) (s : State) : State := worked (bobbin u) 1 (bump (bobbin u) 2 1 s)

@[simp] theorem issued_bob (u : Nat) (s : State) : (issued u s).bob = s.bob := bump_bob _ _ _ s
@[simp] theorem issued_spl (u : Nat) (s : State) : (issued u s).spl = s.spl := bump_spl _ _ _ s
@[simp] theorem issued_jcq (u : Nat) (s : State) : (issued u s).jcq = s.jcq := bump_jcq _ _ _ s
@[simp] theorem issued_saf (u : Nat) (s : State) : (issued u s).saf = s.saf := bump_saf _ _ _ s
@[simp] theorem issued_time (u : Nat) (s : State) : (issued u s).time = s.time := (bump_touches _ _ _ s).time
@[simp] theorem issued_seed (u : Nat) (s : State) : (issued u s).seed = s.seed := (bump_touches _ _ _ s).seed
@[simp] theorem bobbinOf_issued (u x : Nat) (s : State) : bobbinOf (issued u s) x = bobbinOf s x := by
  rw [bobbinOf, issued_bob, bobbinOf]
@[simp] theorem bobLaunch_issued (u x : Nat) (s : State) : bobLaunch (issued u s) x = bobLaunch s x := by
  simp only [bobLaunch, findLaunch, bobbinOf_issued, issued_bob]

/-- The Bobbin runs and meets an instruction of the opcode, and no upset is found. -/
structure Issues (op u : Nat) (e : BobErr) (s : State) : Prop where
  upset : bobUpset u e s = none
  runs : bobRuns s u = true
  code : (bobbinOf s u).code ≠ []
  op : insOp (bobIns (bobbinOf s u)) = op

theorem issue_runs {op u : Nat} {e : BobErr} {s : State} (h : Issues op u e s) (run : Nat → State → State) :
    issue op u e s run = run (bobIns (bobbinOf s u)) (issued u s) := by
  obtain ⟨hup, hruns, hcode, hop⟩ := h
  have hc : (bobbinOf s u).code.isEmpty = false := by simpa using hcode
  simp [issue, hup, hruns, hc, hop, issued]

/-! ## Going on -/

theorem bobAdvance_within {u : Nat} {s : State} (h : (bobbinOf s u).pc + 4 < (bobbinOf s u).code.length) :
    bobAdvance u s = setBobbin u { bobbinOf s u with pc := (bobbinOf s u).pc + 4 } s := by
  unfold bobAdvance
  exact if_neg (Nat.not_le.mpr h)

theorem addSteps_setBobbin (n u : Nat) (b : Bobbin) (s : State) :
    addSteps n u (setBobbin u b s) = setBobbin u (stepped (2 ^ s.bob.shadowLog2.toNat) n b) s := by
  simp [addSteps, modBobbin]

/-- An instruction that goes on below the end of the code leaves its Bobbin with the steps counted and the next PC. -/
theorem bobResult_next (op : Nat) {u : Nat} {b : Bobbin} (s : State) (h : b.pc + 4 < b.code.length) :
    bobResult op u (.next b) s = setBobbin u
      { stepped (2 ^ s.bob.shadowLog2.toNat) (issueSteps op false) b with pc := b.pc + 4 } s := by
  simp only [bobResult, addSteps_setBobbin]
  rw [bobAdvance_within (by simpa [stepped] using h)]
  simp [stepped]

/-- A jump to a target within the code takes three steps (R282). -/
theorem bobResult_jump (op : Nat) {u pc : Nat} {b : Bobbin} (s : State) (h : pc < b.code.length) :
    bobResult op u (.jump b pc) s = setBobbin u { stepped (2 ^ s.bob.shadowLog2.toNat) 3 b with pc := pc } s := by
  simp only [bobResult, addSteps_setBobbin]
  exact if_neg (Nat.not_le.mpr h)

/-- `v` is `s` but for the Bobbin `u`, the counters, and what the end of a command does not look at. -/
structure GoesWith (u : Nat) (s v : State) : Prop where
  watch : v.bob.shadowLog2 = s.bob.shadowLog2
  other : ∀ x, x ≠ u → bobbinOf v x = bobbinOf s x
  spl : v.spl = s.spl
  done : v.jcq.done = s.jcq.done
  saf : v.saf = s.saf

theorem issued_goesWith (u : Nat) (s : State) : GoesWith u s (issued u s) :=
  ⟨by simp, fun x _ => bobbinOf_issued u x s, issued_spl u s, by simp, issued_saf u s⟩

theorem GoesWith.setBobbin {u : Nat} {s v : State} (h : GoesWith u s v) (b : Bobbin) : GoesWith u s (setBobbin u b v) :=
  ⟨h.watch, fun x hx => (bobbinOf_setBobbin_other v u b x hx).trans (h.other x hx), h.spl, h.done, h.saf⟩

/-- The Bobbin comes to be `b`; Spool memory, the commands' outcomes and every other Bobbin are as they were. -/
def LeavesBobbin (u : Nat) (s : State) (b : Bobbin) (o : Host.Outcome State Fault Refusal) : Prop :=
  ∃ t, o = .next t ∧ bobbinOf t u = b ∧ t.spl.mem = s.spl.mem ∧ t.jcq.done = s.jcq.done ∧
    ∀ x, x ≠ u → bobbinOf t x = bobbinOf s x

theorem GoesWith.ends {u : Nat} {s v : State} (h : GoesWith u s v) (hs : settled s) :
    LeavesBobbin u s (bobbinOf v u) (ends s v) := by
  have hquiet := ended_quiet s v (by rw [h.saf]; exact hs.1)
  refine ⟨_, rfl, bobbinOf_ended s v u, by rw [hquiet.1, h.spl], (ended_done s v).trans h.done, fun x hx => ?_⟩
  rw [bobbinOf_ended, h.other x hx]

/-- The same place in the same code. -/
def SamePlace (b b' : Bobbin) : Prop := b'.pc = b.pc ∧ b'.code = b.code

/-- An instruction with its result goes on, one instruction further. -/
theorem nextIns_leaves {op n u : Nat} {s v : State} {b' : Bobbin} (hs : settled s) (hv : GoesWith u s v)
    (hb : SamePlace (bobbinOf s u) b') (hop : issueSteps op false = n)
    (hlen : (bobbinOf s u).pc + 4 < (bobbinOf s u).code.length) :
    LeavesBobbin u s { stepped (2 ^ s.bob.shadowLog2.toNat) n b' with pc := (bobbinOf s u).pc + 4 }
      (ends s (bobResult op u (.next b') v)) := by
  obtain ⟨hpc, hcode⟩ := hb
  rw [bobResult_next op v (by rw [hpc, hcode]; exact hlen), hop, hpc, hv.watch]
  have h := (hv.setBobbin { stepped (2 ^ s.bob.shadowLog2.toNat) n b' with pc := (bobbinOf s u).pc + 4 }).ends hs
  rwa [bobbinOf_setBobbin] at h

end Sys2Proof.Machine
end

section
/-! PROOFS. Register instructions (R268 to R279). -/

namespace Sys2Proof.Machine

/-! ## Their effect leaves the PC and the code -/

theorem setS_samePlace (i : Nat) (v : Word64) (b : Bobbin) : SamePlace b (setS i v b) := by
  unfold setS
  split <;> exact ⟨rfl, rfl⟩

theorem setP_samePlace (i : Nat) (m : BitVec 128) (b : Bobbin) : SamePlace b (setP i m b) := by
  unfold setP
  split <;> exact ⟨rfl, rfl⟩

theorem setV_samePlace (i : Nat) (w : BitVec 1024) (b : Bobbin) : SamePlace b (setV i w b) := ⟨rfl, rfl⟩
theorem setLanes_samePlace (i : Nat) (w : BitVec 1024) (b : Bobbin) : SamePlace b (setLanes i w b) := ⟨rfl, rfl⟩

theorem SamePlace.trans {a b c : Bobbin} (h : SamePlace a b) (k : SamePlace b c) : SamePlace a c :=
  ⟨k.1.trans h.1, k.2.trans h.2⟩

theorem countSr_samePlace (sr : Bool) (n : Nat) (b : Bobbin) :
    SamePlace b (if sr then { b with srCount := b.srCount + n } else b) := by
  split <;> exact ⟨rfl, rfl⟩

theorem vcmp_samePlace (i : Nat) (b : Bobbin) : SamePlace b (vcmp i b) := setP_samePlace _ _ b
theorem vred_samePlace (free i : Nat) (b : Bobbin) : SamePlace b (vred free i b) := setS_samePlace _ _ b

theorem popPred_samePlace (i : Nat) (b : Bobbin) : SamePlace b (popPred i b) := by
  unfold popPred
  split
  case h_7 => exact setS_samePlace _ _ b
  all_goals exact setP_samePlace _ _ b

theorem vmov_samePlace (free i : Nat) (b : Bobbin) : SamePlace b (vmov free i b) := by
  unfold vmov
  split
  case h_2 => exact setS_samePlace _ _ b
  all_goals exact setV_samePlace _ _ b

theorem vdot_samePlace (i : Nat) (b : Bobbin) : SamePlace b (vdot i b) := by
  unfold vdot
  split
  · exact ⟨rfl, rfl⟩
  · exact setLanes_samePlace _ _ b

theorem vdotmx_samePlace (i : Nat) (b : Bobbin) : SamePlace b (vdotmx i b) := by
  unfold vdotmx
  split
  · exact ⟨rfl, rfl⟩
  · exact setLanes_samePlace _ _ b

theorem aop_samePlace (i : Nat) (b : Bobbin) : SamePlace b (aop i b) := by
  unfold aop
  split
  · exact setV_samePlace _ _ b
  · exact setLanes_samePlace _ _ b
  · exact setLanes_samePlace _ _ b

theorem vcvt_samePlace (seed : Word64) (i : Nat) (b : Bobbin) : SamePlace b (vcvt seed i b) := by
  unfold vcvt
  split
  · exact (countSr_samePlace _ _ b).trans (setV_samePlace _ _ _)
  · exact ⟨rfl, rfl⟩

theorem mxq_samePlace (seed : Word64) (i : Nat) (b : Bobbin) : SamePlace b (mxq seed i b) := by
  unfold mxq
  split
  · exact ⟨rfl, rfl⟩
  · exact ((countSr_samePlace _ _ b).trans (setV_samePlace _ _ _)).trans (setS_samePlace _ _ _)

theorem mxd_samePlace (i : Nat) (b : Bobbin) : SamePlace b (mxd i b) := by
  unfold mxd
  split
  · exact ⟨rfl, rfl⟩
  · exact setV_samePlace _ _ b

/-! ## Their rows -/

section
variable {op u : Nat} {e : BobErr} {s : State}

/-- A register instruction's row: it puts its result into its Bobbin, which goes on. -/
def RegRow (op u : Nat) (s : State) (f : Nat → Bobbin → Bobbin) (o : Host.Outcome State Fault Refusal) : Prop :=
  ∃ v, GoesWith u s v ∧ o = ends s (bobResult op u (.next (f (bobIns (bobbinOf s u)) (bobbinOf s u))) v)

theorem regIns_row (h : Issues op u e s) (f : Nat → Bobbin → Bobbin) : RegRow op u s f (regIns op u e s f) := by
  refine ⟨_, issued_goesWith u s, ?_⟩
  rw [regIns, issue_runs h, bobbinOf_issued]

theorem openIns_row (h : Issues op u e s) (f : Nat → Nat → Bobbin → Bobbin) :
    RegRow op u s (f (Config.freeNat s.seed)) (openIns op u e s f) := by
  refine ⟨spend (issued u s), ?_, ?_⟩
  · obtain ⟨hw, ho, hspl, hd, hsaf⟩ := issued_goesWith u s
    exact ⟨hw, ho, hspl, hd, hsaf⟩
  · rw [openIns, issue_runs h, bobbinOf_issued, issued_seed]

/-- Counting multiply-accumulates changes counters alone. -/
theorem countMacs_goesWith (u i : Nat) (s : State) : GoesWith u s (countMacs u i s) := by
  unfold countMacs
  split
  · rename_i k n _
    have hb := bump_bob (bobbin u) k n (bumpPart (bobbinOf s u).part 5 n s)
    refine ⟨by rw [hb]; rfl, fun x _ => by rw [bobbinOf, hb]; rfl, bump_spl _ _ _ _, ?_, bump_saf _ _ _ _⟩
    rw [bump_jcq]
    rfl
  · exact ⟨rfl, fun _ _ => rfl, rfl, rfl, rfl⟩

theorem GoesWith.trans {u : Nat} {s v w : State} (h : GoesWith u s v) (k : GoesWith u v w) : GoesWith u s w :=
  ⟨k.watch.trans h.watch, fun x hx => (k.other x hx).trans (h.other x hx), k.spl.trans h.spl, k.done.trans h.done,
    k.saf.trans h.saf⟩

theorem countedIns_row (h : Issues op u e s) (f : Nat → Bobbin → Bobbin) : RegRow op u s f
    (ends s (issue op u e s fun i s => bobResult op u (.next (f i (bobbinOf s u))) (countMacs u i s))) := by
  refine ⟨_, (issued_goesWith u s).trans (countMacs_goesWith u (bobIns (bobbinOf s u)) _), ?_⟩
  rw [issue_runs h, bobbinOf_issued]

theorem time_row (h : Issues 0x3D u e s) :
    RegRow 0x3D u s (fun i b => setS (fD i) (dieTime s (8 + u / 32)) b) (execTime u e s) := by
  refine ⟨_, issued_goesWith u s, ?_⟩
  rw [execTime, issue_runs h, bobbinOf_issued, dieTime, issued_time]
  rfl

/-- A register instruction below the end of its code does what its table says and goes on. -/
theorem RegRow.leaves {f : Nat → Bobbin → Bobbin} {o : Host.Outcome State Fault Refusal} (h : RegRow op u s f o)
    (hs : settled s) (hf : ∀ i b, SamePlace b (f i b)) (hop : issueSteps op false = 1)
    (hlen : (bobbinOf s u).pc + 4 < (bobbinOf s u).code.length) :
    LeavesBobbin u s { stepped (2 ^ s.bob.shadowLog2.toNat) 1 (f (bobIns (bobbinOf s u)) (bobbinOf s u)) with
      pc := (bobbinOf s u).pc + 4 } o := by
  obtain ⟨v, hv, rfl⟩ := h
  exact nextIns_leaves hs hv (hf _ _) hop hlen

end

/-- Settles O43: each row is its table's effect on the Bobbin's registers, which leaves the PC and the code. -/
theorem bobbinRegisterInstructions : Obligations.BobbinRegisterInstructions := by
  unfold Obligations.BobbinRegisterInstructions
  intro u e s p hp hs hup hruns hcode hop hlen
  have hi : Issues p.2.1 u e s := ⟨hup, hruns, hcode, hop⟩
  have hrow : RegRow p.2.1 u s p.2.2 (exec (p.1 u e) s) ∧ (∀ i b, SamePlace b (p.2.2 i b)) ∧
      issueSteps p.2.1 false = 1 := by
    simp only [List.mem_cons, List.not_mem_nil, or_false] at hp
    obtain rfl | rfl | rfl | rfl | rfl | rfl | rfl | rfl | rfl | rfl | rfl | rfl | rfl | rfl | rfl | rfl | rfl := hp
    · exact ⟨regIns_row hi _, fun _ _ => setS_samePlace _ _ _, rfl⟩
    · exact ⟨regIns_row hi _, fun _ _ => setS_samePlace _ _ _, rfl⟩
    · exact ⟨regIns_row hi _, fun _ _ => setS_samePlace _ _ _, rfl⟩
    · exact ⟨regIns_row hi _, fun _ _ => setS_samePlace _ _ _, rfl⟩
    · exact ⟨regIns_row hi _, fun _ _ => setV_samePlace _ _ _, rfl⟩
    · exact ⟨regIns_row hi _, fun _ _ => setV_samePlace _ _ _, rfl⟩
    · exact ⟨regIns_row hi _, vcmp_samePlace, rfl⟩
    · exact ⟨regIns_row hi _, popPred_samePlace, rfl⟩
    · exact ⟨openIns_row hi _, vred_samePlace _, rfl⟩
    · exact ⟨openIns_row hi _, vmov_samePlace _, rfl⟩
    · exact ⟨countedIns_row hi _, vdot_samePlace, rfl⟩
    · exact ⟨countedIns_row hi _, vdotmx_samePlace, rfl⟩
    · exact ⟨regIns_row hi _, aop_samePlace, rfl⟩
    · exact ⟨regIns_row hi _, vcvt_samePlace _, rfl⟩
    · exact ⟨regIns_row hi _, mxq_samePlace _, rfl⟩
    · exact ⟨regIns_row hi _, mxd_samePlace, rfl⟩
    · exact ⟨time_row hi, fun _ _ => setS_samePlace _ _ _, rfl⟩
  obtain ⟨hrow, hplace, hsteps⟩ := hrow
  exact hrow.leaves hs hplace hsteps hlen

end Sys2Proof.Machine
end

section
/-! PROOFS. Loads and stores of scratch, and SCRC (R257, R262, R268, R273, R281, R285). -/

namespace Sys2Proof.Machine

/-! ## Bytes of scratch (R257, R262) -/

theorem scratchWrite_samePlace (a : Nat) (bs : List Byte) (b : Bobbin) : SamePlace b (scratchWrite a bs b) := ⟨rfl, rfl⟩

theorem memRead_scratchWrite (a : Nat) (bs : List Byte) (b : Bobbin) :
    memRead (scratchWrite a bs b).scratch a bs.length = bs := memRead_memWrite b.scratch a bs

theorem memRead_scratchWrite_outside (b : Bobbin) {a x : Nat} {bs : List Byte} (h : x < a ∨ a + bs.length ≤ x) :
    memRead (scratchWrite a bs b).scratch x 1 = memRead b.scratch x 1 :=
  congrArg (fun y => [y]) (memWrite_outside b.scratch a bs h)

/-- The tags left are those of blocks that the store does not touch. -/
theorem mem_tags_scratchWrite {a : Nat} {bs : List Byte} {b : Bobbin} {y : Nat × Option (BitVec 32)}
    (h : y ∈ (scratchWrite a bs b).tags) :
    y ∈ b.tags ∧ (y.1 < a / 4096 ∨ (a + bs.length + 4095) / 4096 ≤ y.1) := by
  simpa [scratchWrite] using h

theorem noteScratch_goesWith (single : Bool) (u : Nat) (s : State) : GoesWith u s (noteScratch single u s) := by
  unfold noteScratch
  split <;> exact ⟨rfl, fun _ _ => rfl, rfl, rfl, rfl⟩

/-! ## Loads -/

section
variable {op u align n scale : Nat} {e : BobErr} {s : State} (put : Nat → List Byte → Bobbin → Bobbin)
  (h : Issues op u e s)
include h

theorem loadIns_bounds (hbad : scratchOk (scratchAddr (bobIns (bobbinOf s u)) scale (bobbinOf s u)) align n = false) :
    loadIns op u align n scale e s put = .next (ended s (bobFault u .bounds none (issued u s))) := by
  simp [loadIns, issue_runs h, hbad, bobResult, ends]

variable (hok : scratchOk (scratchAddr (bobIns (bobbinOf s u)) scale (bobbinOf s u)) align n = true)
include hok

theorem loadIns_checkFail (he : e = .scratch) : loadIns op u align n scale e s put = .next (ended s
    (bobFault u .checkFail (some (0x0408, (scratchAddr (bobIns (bobbinOf s u)) scale (bobbinOf s u)).toNat))
      { issued u s with bob := { (issued u s).bob with scratchUeSeen := true } })) := by
  rw [loadIns, issue_runs h, bobbinOf_issued]
  simp only [hok, he, Bool.not_true, Bool.false_eq_true, if_false, if_true]
  rfl

theorem loadIns_reads (he : e ≠ .scratch) : loadIns op u align n scale e s put = ends s
    (bobResult op u (.next (put (bobIns (bobbinOf s u)) (memRead (bobbinOf s u).scratch
      (scratchAddr (bobIns (bobbinOf s u)) scale (bobbinOf s u)).toNat n) (bobbinOf s u)))
      (noteScratch (decide (e = .scratchOne)) u (issued u s))) := by
  simp [loadIns, issue_runs h, hok, he, scratchRead]

variable (hput : ∀ i bs b, SamePlace b (put i bs b)) (hlen : (bobbinOf s u).pc + 4 < (bobbinOf s u).code.length)
include hput hlen

/-- A single-bit error is corrected, and counted (R257). -/
theorem loadIns_corrects (he : e = .scratchOne) : ∃ t, loadIns op u align n scale e s put = .next t ∧
    bobbinOf t u = { stepped (2 ^ s.bob.shadowLog2.toNat) (issueSteps op false) (put (bobIns (bobbinOf s u))
      (memRead (bobbinOf s u).scratch (scratchAddr (bobIns (bobbinOf s u)) scale (bobbinOf s u)).toNat n)
      (bobbinOf s u)) with pc := (bobbinOf s u).pc + 4 } ∧
    tget 0 t.bob.scratchCe u = tget 0 s.bob.scratchCe u + 1 := by
  obtain ⟨hpc, hcode⟩ := hput (bobIns (bobbinOf s u)) (memRead (bobbinOf s u).scratch
    (scratchAddr (bobIns (bobbinOf s u)) scale (bobbinOf s u)).toNat n) (bobbinOf s u)
  rw [loadIns_reads put h hok (by rw [he]; simp), bobResult_next op _ (by rw [hpc, hcode]; exact hlen), hpc]
  refine ⟨_, rfl, ?_, ?_⟩
  · simp [noteScratch, he]
  · simp [noteScratch, he, tget_tmod]

theorem loadIns_loads (hs : settled s) (he : e ≠ .scratch) : LeavesBobbin u s
    { stepped (2 ^ s.bob.shadowLog2.toNat) (issueSteps op false) (put (bobIns (bobbinOf s u))
        (memRead (bobbinOf s u).scratch (scratchAddr (bobIns (bobbinOf s u)) scale (bobbinOf s u)).toNat n)
        (bobbinOf s u)) with pc := (bobbinOf s u).pc + 4 } (loadIns op u align n scale e s put) := by
  rw [loadIns_reads put h hok he]
  exact nextIns_leaves hs ((issued_goesWith u s).trans (noteScratch_goesWith _ u _)) (hput _ _ _) rfl hlen

end

/-! ## Stores -/

section
variable {op u n scale : Nat} {e : BobErr} {s : State} (val : Nat → Bobbin → List Byte) (h : Issues op u e s)
include h

theorem storeIns_bounds (hbad : scratchOk (scratchAddr (bobIns (bobbinOf s u)) scale (bobbinOf s u)) n n = false) :
    storeIns op u n scale e s val = .next (ended s (bobFault u .bounds none (issued u s))) := by
  simp [storeIns, issue_runs h, hbad, bobResult, ends]

theorem storeIns_stores (hok : scratchOk (scratchAddr (bobIns (bobbinOf s u)) scale (bobbinOf s u)) n n = true)
    (hs : settled s) (hlen : (bobbinOf s u).pc + 4 < (bobbinOf s u).code.length) : LeavesBobbin u s
    { stepped (2 ^ s.bob.shadowLog2.toNat) (issueSteps op false) (scratchWrite
        (scratchAddr (bobIns (bobbinOf s u)) scale (bobbinOf s u)).toNat (val (bobIns (bobbinOf s u)) (bobbinOf s u))
        (bobbinOf s u)) with pc := (bobbinOf s u).pc + 4 } (storeIns op u n scale e s val) := by
  have hrun : storeIns op u n scale e s val = ends s (bobResult op u (.next (scratchWrite
      (scratchAddr (bobIns (bobbinOf s u)) scale (bobbinOf s u)).toNat (val (bobIns (bobbinOf s u)) (bobbinOf s u))
      (bobbinOf s u))) (issued u s)) := by
    simp [storeIns, issue_runs h, hok]
  rw [hrun]
  exact nextIns_leaves hs (issued_goesWith u s) (scratchWrite_samePlace _ _ _) rfl hlen

end

/-! ## SCRC -/

/-- The tag of a block of scratch with its validity in bit 32, or 0. -/
def scrcValue (tag : Option (BitVec 32)) : Word64 :=
  match tag with
  | some c => BitVec.ofNat 64 (c.toNat + 2 ^ 32)
  | none => 0

theorem execScrc_runs {u : Nat} {e : BobErr} {s : State} (h : Issues 0x34 u e s)
    (hok : scratchOk (sreg (bobbinOf s u) (fA (bobIns (bobbinOf s u)))) 4096 4096 = true) :
    execScrc u e s = ends s (bobResult 0x34 u (.next (setS (fD (bobIns (bobbinOf s u))) (scrcValue
      (tget none (bobbinOf s u).tags ((sreg (bobbinOf s u) (fA (bobIns (bobbinOf s u)))).toNat / 4096)))
      (bobbinOf s u))) (issued u s)) := by
  rw [execScrc, issue_runs h, bobbinOf_issued]
  simp only [hok, Bool.not_true, Bool.false_eq_true, if_false]
  generalize tget none (bobbinOf s u).tags ((sreg (bobbinOf s u) (fA (bobIns (bobbinOf s u)))).toNat / 4096) = tag
  cases tag <;> rfl

theorem execScrc_gives {u : Nat} {e : BobErr} {s : State} (h : Issues 0x34 u e s) (hs : settled s)
    (hlen : (bobbinOf s u).pc + 4 < (bobbinOf s u).code.length)
    (hok : scratchOk (sreg (bobbinOf s u) (fA (bobIns (bobbinOf s u)))) 4096 4096 = true) : LeavesBobbin u s
    { stepped (2 ^ s.bob.shadowLog2.toNat) 1 (setS (fD (bobIns (bobbinOf s u))) (scrcValue
        (tget none (bobbinOf s u).tags ((sreg (bobbinOf s u) (fA (bobIns (bobbinOf s u)))).toNat / 4096)))
        (bobbinOf s u)) with pc := (bobbinOf s u).pc + 4 } (execScrc u e s) := by
  rw [execScrc_runs h hok]
  exact nextIns_leaves hs (issued_goesWith u s) (setS_samePlace _ _ _) rfl hlen

/-! ## The obligation -/

/-- Settles O46: a load and a store are one check of their address, then their bytes; a double-bit error is seen by loads alone. -/
theorem bobbinScratchAccesses : Obligations.BobbinScratchAccesses := by
  unfold Obligations.BobbinScratchAccesses
  refine ⟨fun u s p hp => ?loads, fun u e s p hp => ?stores, fun u e s hs hup hruns hcode hop hlen hok => ?scrc⟩
  case loads =>
    have hrow : (∀ e, exec (p.1 u e) s = loadIns p.2.1 u p.2.2.1 p.2.2.2.1 p.2.2.2.2.1 e s p.2.2.2.2.2) ∧
        (∀ i bs b, SamePlace b (p.2.2.2.2.2 i bs b)) := by
      simp only [List.mem_cons, List.not_mem_nil, or_false] at hp
      obtain rfl | rfl | rfl | rfl := hp
      · exact ⟨fun _ => rfl, fun _ _ => setS_samePlace _ _⟩
      · exact ⟨fun _ => rfl, fun _ _ => setS_samePlace _ _⟩
      · exact ⟨fun _ => rfl, fun _ _ => setV_samePlace _ _⟩
      · exact ⟨fun _ => rfl, fun _ _ => setV_samePlace _ _⟩
    obtain ⟨hexec, hput⟩ := hrow
    intro e b i a hs hup hruns hcode hop
    refine ⟨fun hok hlen => ?_, fun hbad => ?_, fun hok hlen => ?_, fun hok => ?_⟩
    · obtain ⟨t, ht, hb, -, -, hx⟩ := loadIns_loads p.2.2.2.2.2 ⟨hup, hruns, hcode, hop⟩ hok hput hlen hs (by simp)
      exact ⟨t, (hexec _).trans ht, hb, hx⟩
    · exact (hexec _).trans (loadIns_bounds _ ⟨hup, hruns, hcode, hop⟩ hbad)
    · rw [hexec]
      exact loadIns_corrects _ ⟨rfl, hruns, hcode, hop⟩ hok hput hlen rfl
    · exact (hexec _).trans (loadIns_checkFail _ ⟨rfl, hruns, hcode, hop⟩ hok rfl)
  case stores =>
    have hrow : exec (p.1 u e) s = storeIns p.2.1 u p.2.2.1 p.2.2.1 e s p.2.2.2 ∧ issueSteps p.2.1 false = 1 ∧
        (∀ i b, (p.2.2.2 i b).length = p.2.2.1) := by
      simp only [List.mem_cons, List.not_mem_nil, or_false] at hp
      obtain rfl | rfl := hp
      · exact ⟨rfl, rfl, fun _ _ => leBytes_length _ _⟩
      · exact ⟨rfl, rfl, fun _ _ => leBytes_length _ _⟩
    obtain ⟨hexec, hsteps, hval⟩ := hrow
    intro b i a hs hup hruns hcode hop
    have hi : Issues p.2.1 u e s := ⟨hup, hruns, hcode, hop⟩
    refine ⟨fun hok hlen => ?_, fun hbad => hexec.trans (storeIns_bounds _ hi hbad)⟩
    obtain ⟨t, ht, hb, -, -, hx⟩ := storeIns_stores p.2.2.2 hi hok hs hlen
    rw [hsteps] at hb
    have hscratch : (bobbinOf t u).scratch = (scratchWrite a.toNat (p.2.2.2 i b) b).scratch := by rw [hb]; rfl
    have htags : (bobbinOf t u).tags = (scratchWrite a.toNat (p.2.2.2 i b) b).tags := by rw [hb]; rfl
    refine ⟨t, hexec.trans ht, hb, ?_, fun x hx => ?_, fun y hy => ?_, hx⟩
    · have := memRead_scratchWrite a.toNat (p.2.2.2 i b) b
      rwa [hval, ← hscratch] at this
    · rw [hscratch]
      exact memRead_scratchWrite_outside b (by rw [hval]; exact hx)
    · rw [htags] at hy
      have := mem_tags_scratchWrite hy
      rwa [hval] at this
  case scrc =>
    obtain ⟨t, ht, hb, -, -, hx⟩ := execScrc_gives ⟨hup, hruns, hcode, hop⟩ hs hlen hok
    exact ⟨t, ht, hb, hx⟩

end Sys2Proof.Machine
end

section
/-! PROOFS. Control transfers (R269, R282). -/

namespace Sys2Proof.Machine

theorem branchTarget_br {w : Nat} (pc : Nat) (h : insOp w = 0x08) :
    branchTarget w pc = pc + 4 * (BitVec.ofNat 13 (bits w 0 13)).toInt := if_pos h

theorem branchTarget_jal {w : Nat} (pc : Nat) (h : insOp w = 0x09) :
    branchTarget w pc = pc + 4 * (BitVec.ofNat 21 (bits w 0 21)).toInt := if_neg (by rw [h]; decide)

/-- An instruction that jumps to a target within the code. -/
theorem jumpsTo {op u target : Nat} {s v : State} {b' : Bobbin} (hs : settled s) (hv : GoesWith u s v)
    (hb : SamePlace (bobbinOf s u) b') (hlen : target < (bobbinOf s u).code.length) :
    LeavesBobbin u s { stepped (2 ^ s.bob.shadowLog2.toNat) 3 b' with pc := target }
      (ends s (bobResult op u (.jump b' target) v)) := by
  rw [bobResult_jump op v (by rw [hb.2]; exact hlen), hv.watch]
  have h := (hv.setBobbin { stepped (2 ^ s.bob.shadowLog2.toNat) 3 b' with pc := target }).ends hs
  rwa [bobbinOf_setBobbin] at h

section
variable {u : Nat} {e : BobErr} {s : State} {target : Int} (hs : settled s)
include hs

theorem execBr_taken (h : Issues 0x08 u e s)
    (ht : (branchTarget (bobIns (bobbinOf s u)) (bobbinOf s u).pc).toNat < (bobbinOf s u).code.length)
    (hc : brTaken (bits (bobIns (bobbinOf s u)) 13 3) (sreg (bobbinOf s u) (fD (bobIns (bobbinOf s u))))
      (sreg (bobbinOf s u) (fA (bobIns (bobbinOf s u)))) = true) : LeavesBobbin u s
    { stepped (2 ^ s.bob.shadowLog2.toNat) 3 (bobbinOf s u) with
      pc := (branchTarget (bobIns (bobbinOf s u)) (bobbinOf s u).pc).toNat } (execBr u e s) := by
  rw [execBr, issue_runs h]
  simp only [bobbinOf_issued, hc, if_true]
  exact jumpsTo hs (issued_goesWith u s) ⟨rfl, rfl⟩ ht

theorem execBr_not_taken (h : Issues 0x08 u e s) (hlen : (bobbinOf s u).pc + 4 < (bobbinOf s u).code.length)
    (hc : brTaken (bits (bobIns (bobbinOf s u)) 13 3) (sreg (bobbinOf s u) (fD (bobIns (bobbinOf s u))))
      (sreg (bobbinOf s u) (fA (bobIns (bobbinOf s u)))) = false) : LeavesBobbin u s
    { stepped (2 ^ s.bob.shadowLog2.toNat) 1 (bobbinOf s u) with pc := (bobbinOf s u).pc + 4 } (execBr u e s) := by
  rw [execBr, issue_runs h]
  simp only [bobbinOf_issued, hc, Bool.false_eq_true, if_false]
  exact nextIns_leaves hs (issued_goesWith u s) ⟨rfl, rfl⟩ rfl hlen

theorem execJal_jumps (h : Issues 0x09 u e s)
    (ht : (branchTarget (bobIns (bobbinOf s u)) (bobbinOf s u).pc).toNat < (bobbinOf s u).code.length) :
    LeavesBobbin u s { stepped (2 ^ s.bob.shadowLog2.toNat) 3
        (setS (fD (bobIns (bobbinOf s u))) (BitVec.ofNat 64 ((bobbinOf s u).pc + 4)) (bobbinOf s u)) with
      pc := (branchTarget (bobIns (bobbinOf s u)) (bobbinOf s u).pc).toNat } (execJal u e s) := by
  rw [execJal, issue_runs h, bobbinOf_issued]
  exact jumpsTo hs (issued_goesWith u s) (setS_samePlace _ _ _) ht

end

/-- The Bobbin as `JR` finds it for its jump: d holds the address of the next instruction. -/
def linked (b : Bobbin) : Bobbin := setS (fD (bobIns b)) (BitVec.ofNat 64 (b.pc + 4)) b

theorem linked_samePlace (b : Bobbin) : SamePlace b (linked b) := setS_samePlace _ _ b

/-- Where `JR` jumps to. -/
def jrTarget (b : Bobbin) : Nat := (sreg (linked b) (fA (bobIns b))).toNat

section
variable {u : Nat} {e : BobErr} {s : State} (h : Issues 0x0A u e s)
include h

theorem execJr_runs : execJr u e s = ends s
    (if jrTarget (bobbinOf s u) % 4 ≠ 0 ∨ jrTarget (bobbinOf s u) ≥ (bobbinOf s u).code.length
      then bobFault u .bounds none (setBobbin u (linked (bobbinOf s u)) (issued u s))
      else bobResult 0x0A u (.jump (linked (bobbinOf s u)) (jrTarget (bobbinOf s u))) (issued u s)) := by
  rw [execJr, issue_runs h, bobbinOf_issued, ← (linked_samePlace (bobbinOf s u)).2]
  rfl

theorem execJr_jumps (hs : settled s) (h4 : jrTarget (bobbinOf s u) % 4 = 0)
    (hlen : jrTarget (bobbinOf s u) < (bobbinOf s u).code.length) : LeavesBobbin u s
    { stepped (2 ^ s.bob.shadowLog2.toNat) 3 (linked (bobbinOf s u)) with pc := jrTarget (bobbinOf s u) }
    (execJr u e s) := by
  rw [execJr_runs h, if_neg (not_or.mpr ⟨not_not.mpr h4, Nat.not_le.mpr hlen⟩)]
  exact jumpsTo hs (issued_goesWith u s) (linked_samePlace _) hlen

theorem execJr_bounds (hbad : jrTarget (bobbinOf s u) % 4 ≠ 0 ∨ (bobbinOf s u).code.length ≤ jrTarget (bobbinOf s u)) :
    execJr u e s = .next (ended s (bobFault u .bounds none (setBobbin u (linked (bobbinOf s u)) (issued u s)))) := by
  rw [execJr_runs h, if_pos hbad]
  rfl

end

/-- Settles O47: a taken transfer within the code leaves the Bobbin at its target, any other at the next instruction. -/
theorem bobbinControlTransfers : Obligations.BobbinControlTransfers := by
  unfold Obligations.BobbinControlTransfers
  refine ⟨fun u e s => ?br, fun u e s => ?jal, fun u e s => ?jr⟩
  case br =>
    intro b i target hs hup hruns hcode hop hlo hhi hlen
    have htarget : branchTarget i b.pc = target := branchTarget_br b.pc hop
    have hin : (branchTarget i b.pc).toNat < b.code.length := by rw [htarget]; omega
    have hi : Issues 0x08 u e s := ⟨hup, hruns, hcode, hop⟩
    cases hc : brTaken (bits i 13 3) (sreg b (fD i)) (sreg b (fA i))
    case true =>
      obtain ⟨t, ht, hb, -, -, hx⟩ := execBr_taken hs hi hin hc
      exact ⟨t, ht, hx, fun _ => htarget ▸ hb, fun hf => absurd hf.symm Bool.false_ne_true⟩
    case false =>
      obtain ⟨t, ht, hb, -, -, hx⟩ := execBr_not_taken hs hi hlen hc
      exact ⟨t, ht, hx, fun hf => absurd hf Bool.false_ne_true, fun _ => hb⟩
  case jal =>
    intro b i target hs hup hruns hcode hop hlo hhi
    have htarget : branchTarget i b.pc = target := branchTarget_jal b.pc hop
    have hin : (branchTarget i b.pc).toNat < b.code.length := by rw [htarget]; omega
    obtain ⟨t, ht, hb, -, -, hx⟩ := execJal_jumps hs ⟨hup, hruns, hcode, hop⟩ hin
    exact ⟨t, ht, hx, htarget ▸ hb⟩
  case jr =>
    intro b i b' target hs hup hruns hcode hop
    have hi : Issues 0x0A u e s := ⟨hup, hruns, hcode, hop⟩
    refine ⟨fun h4 hlen => ?_, fun hbad => execJr_bounds hi hbad⟩
    obtain ⟨t, ht, hb, -, -, hx⟩ := execJr_jumps hi hs h4 hlen
    exact ⟨t, ht, hx, hb⟩

end Sys2Proof.Machine
end

section
/-! PROOFS. Stream instructions (R259, R261, R280). -/

namespace Sys2Proof.Machine

theorem Sends.bob {s t : State} (h : Sends s t) : t.bob = s.bob := congrArg (·.bob) h
theorem Sends.spl {s t : State} (h : Sends s t) : t.spl = s.spl := congrArg (·.spl) h
theorem Sends.jcq {s t : State} (h : Sends s t) : t.jcq = s.jcq := congrArg (·.jcq) h

theorem Sends.goesWith {s t : State} (u : Nat) (h : Sends s t) : GoesWith u s t :=
  ⟨by rw [h.bob], fun x _ => by rw [bobbinOf, h.bob, bobbinOf], h.spl, by rw [h.jcq], h.undisturbed.saf⟩

/-- The units a stream instruction asks for. -/
def insUnits (op : Nat) (b : Bobbin) : List (Int × Nat) :=
  let i := bobIns b
  let sc := (sreg b (fB i)).toNat
  let unit := 64 * 2 ^ bits i 0 3
  if op = 0x32 then gatherUnits b (sreg b (fD i)).toNat (sreg b (fA i)).toNat (bits sc 0 16) unit
  else strideUnits (sreg b (fD i)).toNat (sreg b (fA i)).toNat (bits sc 0 16) (sext 32 (bits sc 32 32)) unit

/-- The stream a stream instruction adds. -/
def insStream (op : Nat) (b : Bobbin) : Stream :=
  { id := b.nextStream, tag := fPred (bobIns b), write := op == 0x31, np := bit (bobIns b) 3, log2 := bits (bobIns b) 0 3,
    units := (insUnits op b).map fun y => { a := y.1.toNat, sa := y.2 } }

/-- The windows of a Bobbin's launch. -/
def bobWins (s : State) (u : Nat) : List BobWin := match bobLaunch s u with | some l => l.wins | none => []

/-- The arguments of a stream instruction keep R259 and R280. -/
structure StreamArgs (op u : Nat) (s : State) (b : Bobbin) (sc : Nat) : Prop where
  one : 1 ≤ bits sc 0 16
  most : bits sc 0 16 ≤ 4096
  upper : bits sc 16 16 = 0
  list : op = 0x32 → scratchOk (sreg b (fD (bobIns b))) 4 (4 * bits sc 0 16) = true ∧ bits sc 32 32 = 0
  fits : (sreg b (fA (bobIns b))).toNat + bits sc 0 16 * (64 * 2 ^ bits (bobIns b) 0 3) ≤ scratchSize
  units : unitsOk (bobWins s u) (op == 0x31) (64 * 2 ^ bits (bobIns b) 0 3) (insUnits op b) = true

/-- Arguments that keep R259 and R280 pass the check of the instruction. -/
theorem StreamArgs.notBad {op u : Nat} {s : State} {b : Bobbin} {sc : Nat} (h : StreamArgs op u s b sc) :
    ¬(bits sc 0 16 = 0 ∨ bits sc 0 16 > 4096 ∨ bits sc 16 16 ≠ 0 ∨
      ((op == 0x32) && (!scratchOk (sreg b (fD (bobIns b))) 4 (4 * bits sc 0 16) || bits sc 32 32 != 0)) = true ∨
      (sreg b (fA (bobIns b))).toNat + bits sc 0 16 * (64 * 2 ^ bits (bobIns b) 0 3) > scratchSize) := by
  rintro (hbad | hbad | hbad | hbad | hbad)
  · exact absurd h.one (by omega)
  · exact absurd h.most (by omega)
  · exact hbad h.upper
  · simp only [Bool.and_eq_true, beq_iff_eq] at hbad
    obtain ⟨hop, hlist⟩ := hbad
    simp [h.list hop] at hlist
  · exact absurd h.fits (by omega)

theorem insUnits_eq (op : Nat) (b : Bobbin) : insUnits op b =
    if op == 0x32 then
      gatherUnits b (sreg b (fD (bobIns b))).toNat (sreg b (fA (bobIns b))).toNat
        (bits (sreg b (fB (bobIns b))).toNat 0 16) (64 * 2 ^ bits (bobIns b) 0 3)
    else
      strideUnits (sreg b (fD (bobIns b))).toNat (sreg b (fA (bobIns b))).toNat
        (bits (sreg b (fB (bobIns b))).toNat 0 16) (sext 32 (bits (sreg b (fB (bobIns b))).toNat 32 32))
        (64 * 2 ^ bits (bobIns b) 0 3) := by
  simp [insUnits]

theorem addStream_bobbin (u tag : Nat) (write np : Bool) (log2 : Nat) (us : List (Int × Nat)) (s : State) :
    bobbinOf (addStream u tag write np log2 us s) u = { bobbinOf s u with
      streams := (bobbinOf s u).streams ++ [{ id := (bobbinOf s u).nextStream, tag := tag, write := write, np := np,
                                              log2 := log2, units := us.map fun y => { a := y.1.toNat, sa := y.2 } }]
      nextStream := (bobbinOf s u).nextStream + 1 } := by
  rw [addStream, bobbinOf, (sendRequest_sends _ _ _ _ _ _ _ _).bob]
  exact bobbinOf_setBobbin _ _ _

theorem addStream_goesWith (u tag : Nat) (write np : Bool) (log2 : Nat) (us : List (Int × Nat)) (s : State) :
    GoesWith u s (addStream u tag write np log2 us s) := by
  rw [addStream]
  exact ((⟨rfl, fun _ _ => rfl, rfl, rfl, rfl⟩ : GoesWith u s s).setBobbin _).trans
    ((sendRequest_sends _ _ _ _ _ _ _ _).goesWith u)

section
variable {op u : Nat} {e : BobErr} {s : State} (hs : settled s)
include hs

/-- A 17th stream waits. -/
theorem streamIns_full (h : 16 ≤ (bobbinOf s u).streams.length) : streamIns op u e s = .next s := by
  rw [streamIns, if_pos h]
  exact ends_undisturbed hs (.refl s)

theorem streamIns_adds (h : Issues op u .none s) (hroom : (bobbinOf s u).streams.length < 16)
    (ha : StreamArgs op u s (bobbinOf s u) (sreg (bobbinOf s u) (fB (bobIns (bobbinOf s u)))).toNat)
    (hop : issueSteps op false = 1) (hlen : (bobbinOf s u).pc + 4 < (bobbinOf s u).code.length) : LeavesBobbin u s
    { stepped (2 ^ s.bob.shadowLog2.toNat) 1 (bobbinOf s u) with
      pc := (bobbinOf s u).pc + 4, nextStream := (bobbinOf s u).nextStream + 1
      streams := (bobbinOf s u).streams ++ [insStream op (bobbinOf s u)] } (streamIns op u .none s) := by
  have hrun : streamIns op u .none s = ends s (bobResult op u
      (.next (bobbinOf (addStream u (fPred (bobIns (bobbinOf s u))) (op == 0x31) (bit (bobIns (bobbinOf s u)) 3)
        (bits (bobIns (bobbinOf s u)) 0 3) (insUnits op (bobbinOf s u)) (issued u s)) u))
      (addStream u (fPred (bobIns (bobbinOf s u))) (op == 0x31) (bit (bobIns (bobbinOf s u)) 3)
        (bits (bobIns (bobbinOf s u)) 0 3) (insUnits op (bobbinOf s u)) (issued u s))) := by
    rw [streamIns, if_neg (Nat.not_le.mpr hroom), issue_runs h]
    refine congrArg (ends s) ?_
    rw [bobbinOf_issued, bobLaunch_issued]
    refine (if_neg ha.notBad).trans ((if_neg (by simp)).trans ?_)
    rw [← insUnits_eq]
    refine (if_neg ?_).trans (by simp [noteScratch])
    have hunits := ha.units
    cases hl : bobLaunch s u <;> simpa [bobWins, hl] using hunits
  rw [hrun, addStream_bobbin, bobbinOf_issued]
  exact nextIns_leaves hs ((issued_goesWith u s).trans (addStream_goesWith _ _ _ _ _ _ _)) ⟨rfl, rfl⟩ hop hlen

end

end Sys2Proof.Machine
end
section
/-! PROOFS. Instructions that wait, and barriers (R281). -/

namespace Sys2Proof.Machine

/-! ## A wait that is over -/

/-- The Bobbin goes on behind what it waited for. -/
def resumed (b : Bobbin) : Bobbin := { b with wait := none, pc := b.pc + 4 }

theorem resume_within {u : Nat} {b : Bobbin} (s : State) (h : b.pc + 4 < b.code.length) :
    (if b.code.isEmpty then setBobbin u { b with wait := none } s
      else bobAdvance u (setBobbin u { b with wait := none } s)) = setBobbin u (resumed b) s := by
  have hcode : b.code.isEmpty = false := by
    cases hc : b.code
    · rw [hc] at h
      exact absurd h (Nat.not_lt_zero _)
    · rfl
  rw [if_neg (by simp [hcode]), bobAdvance_within (by simpa using h)]
  simp [resumed]

section
variable {u : Nat} {b : Bobbin} (s : State)

theorem bobWake_tag {t d : Nat} (hw : b.wait = some (.tag t d)) (hx : ∀ x ∈ b.streams, x.tag ≠ t)
    (h : b.pc + 4 < b.code.length) : bobWake u (setBobbin u b s) = setBobbin u (resumed
      (setS d (BitVec.ofNat 64 (tget 0 b.tagUnits t % 65536 + 65536 * (tget 0 b.tagZero t % 65536)))
        { b with tagUnits := tset 0 b.tagUnits t 0, tagZero := tset 0 b.tagZero t 0 })) s := by
  have hany : (b.streams.any fun x => x.tag == t) = false := by simpa using hx
  have hplace := setS_samePlace d
    (BitVec.ofNat 64 (tget 0 b.tagUnits t % 65536 + 65536 * (tget 0 b.tagZero t % 65536)))
    { b with tagUnits := tset 0 b.tagUnits t 0, tagZero := tset 0 b.tagZero t 0 }
  rw [← resume_within s (by rw [hplace.1, hplace.2]; exact h)]
  simp [bobWake, hw, hany]

theorem bobWake_tag_waits {t d : Nat} (hw : b.wait = some (.tag t d)) (hx : ∃ x ∈ b.streams, x.tag = t) :
    bobWake u (setBobbin u b s) = setBobbin u b s := by
  have hany : (b.streams.any fun x => x.tag == t) = true := by simpa using hx
  simp [bobWake, hw, hany]

theorem bobWake_fence (hw : b.wait = some .fence) (hx : b.streams = []) (h : b.pc + 4 < b.code.length) :
    bobWake u (setBobbin u b s) = setBobbin u (resumed b) s := by
  rw [← resume_within s h]
  simp [bobWake, hw, hx]

theorem bobWake_fence_waits (hw : b.wait = some .fence) (hx : b.streams ≠ []) :
    bobWake u (setBobbin u b s) = setBobbin u b s := by
  simp [bobWake, hw, hx]

theorem bobWake_ckpt {v : Word64} (hw : b.wait = some (.ckpt v)) (hx : b.streams = [])
    (h : b.pc + 4 < b.code.length) :
    bobWake u (setBobbin u b s) = setBobbin u (resumed { b with ckpt := v }) s := by
  rw [← resume_within (b := { b with ckpt := v }) s h]
  simp [bobWake, hw, hx]

theorem bobWake_barrier {g : Bool} (hw : b.wait = some (.barrier g)) :
    bobWake u (setBobbin u b s) = setBobbin u b s := by
  simp [bobWake, hw]

theorem bobWake_halt {code id : Nat} (hw : b.wait = some (.halt code)) (hx : b.streams = []) (hl : b.launch = some id) :
    bobWake u (setBobbin u b s) =
      checkLaunch id (setBobbin u { b with wait := none, state := .halted, exit := code } s) := by
  simp [bobWake, hw, hx, hl]

end

/-! ## Issuing an instruction that waits -/

theorem wait_of_runs {s : State} {u : Nat} (h : bobRuns s u = true) : (bobbinOf s u).wait = none := by
  simp only [bobRuns, Bool.and_eq_true, Option.isNone_iff_eq_none] at h
  exact h.1.1.1.2

/-- The Bobbin comes to wait, one step of work done. -/
def waiting (period : Nat) (w : BobWait) (b : Bobbin) : Bobbin := { stepped period 1 b with wait := some w }

section
variable {op u : Nat} {e : BobErr} {s : State} {w : Nat → Bobbin → BobWait} (h : Issues op u e s)
include h

theorem waitIns_runs : waitIns op u e s w = ends s (bobWake u (setBobbin u
    (waiting (2 ^ s.bob.shadowLog2.toNat) (w (bobIns (bobbinOf s u)) (bobbinOf s u)) (bobbinOf s u)) (issued u s))) := by
  rw [waitIns, issue_runs h, modBobbin, addSteps_setBobbin, bobbinOf_issued, issued_bob]
  rfl

variable (hs : settled s) {b : Bobbin}
include hs

/-- What waking the Bobbin leaves it with is what the instruction does. -/
theorem waitIns_wakes (hw : bobWake u (setBobbin u
    (waiting (2 ^ s.bob.shadowLog2.toNat) (w (bobIns (bobbinOf s u)) (bobbinOf s u)) (bobbinOf s u)) (issued u s)) =
      setBobbin u b (issued u s)) : LeavesBobbin u s b (waitIns op u e s w) := by
  rw [waitIns_runs h, hw]
  have := ((issued_goesWith u s).setBobbin b).ends hs
  rwa [bobbinOf_setBobbin] at this

end

theorem eitherIns_loaded {op u : Nat} {e : BobErr} {s : State} {w : Nat → Bobbin → BobWait}
    {go : Launch → Nat → State → State} (h : residentOf s u = none) : eitherIns op u e s w go = waitIns op u e s w := by
  rw [eitherIns, h]
  rfl

/-! ## The launch of a halted member -/

theorem bobLaunch_some {s : State} {u : Nat} {l : Launch} (h : bobLaunch s u = some l) :
    ∃ id, (bobbinOf s u).launch = some id ∧ findLaunch s id = some l := by
  unfold bobLaunch at h
  split at h
  · exact ⟨_, ‹_›, h⟩
  · cases h

/-- A launch that runs goes on while one of its members has not halted. -/
theorem checkLaunch_running {s : State} {id v : Nat} {l : Launch} (hf : findLaunch s id = some l)
    (hl : l.state = .running) (hv : v ∈ l.members) (hh : (bobbinOf s v).state ≠ .halted) : checkLaunch id s = s := by
  have hall : (l.members.all fun u => (bobbinOf s u).state == .halted) = false := by
    rw [List.all_eq_false]
    exact ⟨v, hv, by simpa using hh⟩
  simp [checkLaunch, hf, hl, hall]

/-! ## Barriers -/

theorem passBarrier_passes {g : Bool} {s : State} {v : Nat} (hw : (bobbinOf s v).wait = some (.barrier g))
    (h : (bobbinOf s v).pc + 4 < (bobbinOf s v).code.length) :
    passBarrier g s v = setBobbin v (resumed (bobbinOf s v)) s := by
  have hcode : (bobbinOf s v).code.isEmpty = false := by
    cases hc : (bobbinOf s v).code
    · rw [hc] at h
      exact absurd h (Nat.not_lt_zero _)
    · rfl
  rw [← resume_within s h]
  simp [passBarrier, hw, hcode]

theorem passBarrier_other {g : Bool} {s : State} {v : Nat} (hw : (bobbinOf s v).wait ≠ some (.barrier g)) :
    passBarrier g s v = s := if_neg hw

/-- Every Bobbin of a list that waits at the barrier goes on, once. -/
theorem bobbinOf_passBarrier (g : Bool) (ms : List Nat) (s : State)
    (h : ∀ v ∈ ms, (bobbinOf s v).wait = some (.barrier g) → (bobbinOf s v).pc + 4 < (bobbinOf s v).code.length) (v : Nat) :
    bobbinOf (ms.foldl (passBarrier g) s) v =
      if v ∈ ms ∧ (bobbinOf s v).wait = some (.barrier g) then resumed (bobbinOf s v) else bobbinOf s v := by
  induction ms generalizing s with
  | nil => simp
  | cons m r ih =>
    rw [List.foldl_cons]
    by_cases hm : (bobbinOf s m).wait = some (.barrier g)
    · have hpass := passBarrier_passes hm (h m List.mem_cons_self hm)
      have hother : ∀ x, x ≠ m → bobbinOf (passBarrier g s m) x = bobbinOf s x := fun x hx => by
        rw [hpass, bobbinOf_setBobbin_other _ _ _ _ hx]
      have hself : bobbinOf (passBarrier g s m) m = resumed (bobbinOf s m) := by rw [hpass, bobbinOf_setBobbin]
      have hwait : (bobbinOf (passBarrier g s m) m).wait ≠ some (.barrier g) := by simp [hself, resumed]
      rw [ih]
      · by_cases hv : v = m
        · subst hv
          rw [if_neg (fun hc => hwait hc.2), if_pos ⟨List.mem_cons_self, hm⟩, hself]
        · simp [hother v hv, hv]
      · intro x hx hxw
        by_cases hxm : x = m
        · exact absurd (hxm ▸ hxw) hwait
        · rw [hother x hxm] at hxw ⊢
          exact h x (List.mem_cons_of_mem _ hx) hxw
    · rw [passBarrier_other hm, ih s fun x hx => h x (List.mem_cons_of_mem _ hx)]
      by_cases hv : v = m
      · subst hv
        simp [hm]
      · simp [hv]

theorem barrierRelease_waits {u : Nat} {g : Bool} {s : State} (hw : (bobbinOf s u).wait = some (.barrier g))
    (hm : barrierMet s u g = false) : barrierRelease u s = s := by
  simp [barrierRelease, hw, hm]

theorem barrierRelease_passes {u : Nat} {g : Bool} {s : State} (hw : (bobbinOf s u).wait = some (.barrier g))
    (hm : barrierMet s u g = true) : barrierRelease u s = (barrierScope s u g).foldl (passBarrier g) s := by
  simp [barrierRelease, hw, hm]

end Sys2Proof.Machine
end
section
/-! PROOFS. SATOM and the units of streams (R261 to R263, R280). -/

namespace Sys2Proof.Machine

/-! ## Accesses of the stack -/

theorem foldl_fst_touches {β γ : Type} {f : State × γ → β → State × γ} (h : ∀ x b, Touches x.1 (f x b).1) (l : List β)
    (x : State × γ) : Touches x.1 (l.foldl f x).1 := by
  induction l generalizing x with
  | nil => exact .refl _
  | cons b r ih => exact (h x b).trans (ih _)

theorem stackWrite_touches (u ctx a : Nat) (bs : List Byte) (s : State) : Touches s (stackWrite u ctx a bs s).1 := by
  refine foldl_fst_touches (fun x p => ?_) _ (s, Status.ok)
  split
  · exact .refl _
  · exact spoolWrite_touches _ _ _ _ _

/-- Touching memory leaves the Bobbins and their launches. -/
theorem Touches.bobbinOf {s t : State} (h : Touches s t) (u : Nat) : bobbinOf t u = bobbinOf s u := by
  rw [Machine.bobbinOf, h.bob, Machine.bobbinOf]

/-! ## SATOM -/

theorem leBytes_mod (n v : Nat) : leBytes n (v % 256 ^ n) = leBytes n v := by
  induction n generalizing v with
  | zero => rfl
  | succ n ih =>
    have hlow : BitVec.ofNat 8 (v % 256 ^ (n + 1)) = BitVec.ofNat 8 v := by
      apply BitVec.eq_of_toNat_eq
      simp only [BitVec.toNat_ofNat]
      exact Nat.mod_mod_of_dvd v (by rw [Nat.pow_succ]; exact Nat.dvd_mul_left _ _)
    have hhigh : v % 256 ^ (n + 1) / 256 = v / 256 % 256 ^ n := by
      rw [Nat.pow_succ, Nat.mul_comm]
      exact Nat.mod_mul_right_div_self v 256 (256 ^ n)
    rw [leBytes, leBytes, hlow, hhigh, ih]

/-- What `SATOM` stores, by its function. -/
def satomStores (f old operand compare : Nat) : Nat :=
  if f = 0 then old + operand else if f = 1 then operand else if old = compare then operand else old

theorem leBytes_atomApply (f old operand compare : Nat) :
    leBytes 8 (atomApply (if f = 0 then .add else if f = 1 then .swap else .cmpSwap) old operand compare) =
      leBytes 8 (satomStores f old operand compare) := by
  have h64 : (2 : Nat) ^ 64 = 256 ^ 8 := by norm_num
  unfold satomStores
  split
  · rw [atomApply, h64]
    exact leBytes_mod 8 (old + operand)
  · split <;> rfl

theorem execSatom_swaps {u : Nat} {e : BobErr} {s v w : State} {l : Launch} {bs : List Byte} (h : Issues 0x39 u e s)
    (hl : bobLaunch s u = some l) (ha : (sreg (bobbinOf s u) (fA (bobIns (bobbinOf s u)))).toNat % 8 = 0)
    (hwin : winAllows l.wins true (sreg (bobbinOf s u) (fA (bobIns (bobbinOf s u)))).toNat 8 = true)
    (hr : stackRead u l.ctx (sreg (bobbinOf s u) (fA (bobIns (bobbinOf s u)))).toNat 8 (issued u s) = (v, .ok, bs))
    (hw : stackWrite u l.ctx (sreg (bobbinOf s u) (fA (bobIns (bobbinOf s u)))).toNat
      (leBytes 8 (satomStores (fFunc (bobIns (bobbinOf s u))) (leNat bs)
        (sreg (bobbinOf s u) (fB (bobIns (bobbinOf s u)))).toNat (sreg (bobbinOf s u) (fD (bobIns (bobbinOf s u)))).toNat)) v =
      (w, .ok)) :
    execSatom u e s = ends s (bobResult 0x39 u (.next (setS (fD (bobIns (bobbinOf s u)))
      (BitVec.ofNat 64 (leNat bs)) (bobbinOf s u))) w) := by
  rw [execSatom, issue_runs h, bobLaunch_issued, hl, bobbinOf_issued]
  refine congrArg (ends s) ((if_neg (by simp [ha, hwin])).trans ?_)
  rw [← leBytes_atomApply] at hw
  -- The accesses become variables: the kernel must not compute them to compare the matches on what they answer.
  revert hr hw
  generalize stackRead u l.ctx (sreg (bobbinOf s u) (fA (bobIns (bobbinOf s u)))).toNat 8 (issued u s) = rd
  generalize stackWrite u l.ctx (sreg (bobbinOf s u) (fA (bobIns (bobbinOf s u)))).toNat = wr
  revert rd wr
  refine id fun rd wr hr hw => ?_
  subst hr
  simp only [hw]

/-! ## Units (R262, R263) -/

theorem readLine_touches (u ctx : Nat) (np : Bool) (a : Nat) (s : State) : Touches s (readLine u ctx np a s).1 := by
  have h := spoolRead_touches (bobbin u) ctx (stackOff (bobStack u) a) 64 s
  unfold readLine
  split
  · rename_i hx
    rw [hx] at h
    exact h
  · rename_i hx
    rw [hx] at h
    split <;> exact h
  · rename_i hx
    rw [hx] at h
    exact h

theorem readLine_mem (u ctx : Nat) (np : Bool) (a : Nat) (s : State) :
    (readLine u ctx np a s).1.spl.mem = s.spl.mem := by
  have h := spoolRead_mem (bobbin u) ctx (stackOff (bobStack u) a) 64 s
  unfold readLine
  split
  · rename_i hx
    rw [hx] at h
    exact h
  · rename_i hx
    rw [hx] at h
    split <;> exact h
  · rename_i hx
    rw [hx] at h
    exact h

/-- Reading the lines of a unit touches what accesses do, and changes no memory. -/
theorem readLines_reads (u ctx : Nat) (np : Bool) (y : StreamUnit) (js : List Nat) (s : State) :
    Touches s (readLines u ctx np y js s).1 ∧ (readLines u ctx np y js s).1.spl.mem = s.spl.mem := by
  induction js generalizing s with
  | nil => exact ⟨.refl s, rfl⟩
  | cons j r ih =>
    simp only [readLines]
    split
    · split
      · exact ⟨.refl s, rfl⟩
      · exact ih s
    · have ht := readLine_touches u ctx np (y.a + 64 * j) s
      have hm := readLine_mem u ctx np (y.a + 64 * j) s
      split
      · exact ⟨ht, hm⟩
      · exact ⟨ht.trans (ih _).1, (ih _).2.trans hm⟩

theorem memWrite_append (m : Tab Byte) (a : Nat) (xs ys : List Byte) :
    memWrite m a (xs ++ ys) = memWrite (memWrite m a xs) (a + xs.length) ys := by
  induction xs generalizing m a with
  | nil => rfl
  | cons x r ih =>
    rw [List.cons_append, memWrite, memWrite, ih, List.length_cons]
    congr 1
    omega

/-- A Bobbin but for its scratch and the tags of its blocks. -/
def ScratchOnly (b b' : Bobbin) : Prop := b' = { b with scratch := b'.scratch, tags := b'.tags }

theorem ScratchOnly.trans {a b c : Bobbin} (h : ScratchOnly a b) (k : ScratchOnly b c) : ScratchOnly a c := by
  have e := congrArg (fun x : Bobbin => { x with scratch := c.scratch, tags := c.tags }) h
  exact Eq.trans k e

/-- The lines of a unit, written one behind the other. -/
theorem foldl_scratchWrite (sa n k : Nat) (bs : List Byte) (b : Bobbin) (hbs : bs.length = 64 * n) :
    let b' := ((pieces 64 n bs).zipIdx k).foldl (fun b p => scratchWrite (sa + 64 * p.2) p.1 b) b
    ScratchOnly b b' ∧ b'.scratch = memWrite b.scratch (sa + 64 * k) bs := by
  induction n generalizing k bs b with
  | zero =>
    obtain rfl := List.length_eq_zero_iff.mp hbs
    exact ⟨rfl, rfl⟩
  | succ n ih =>
    have hne : bs ≠ [] := by
      rintro rfl
      simp at hbs
    have hp : pieces 64 (n + 1) bs = bs.take 64 :: pieces 64 n (bs.drop 64) := by
      cases bs
      · exact absurd rfl hne
      · rfl
    have htake : (bs.take 64).length = 64 := by
      rw [List.length_take]
      omega
    obtain ⟨hsame, hscratch⟩ := ih (k + 1) (bs.drop 64) (scratchWrite (sa + 64 * k) (bs.take 64) b)
      (by rw [List.length_drop]; omega)
    simp only [hp, List.zipIdx_cons, List.foldl_cons]
    refine ⟨ScratchOnly.trans (b := scratchWrite (sa + 64 * k) (bs.take 64) b) rfl hsame, ?_⟩
    rw [hscratch]
    conv_rhs => rw [← List.take_append_drop 64 bs, memWrite_append, htake]
    rw [show sa + 64 * (k + 1) = sa + 64 * k + 64 by omega]
    rfl

/-- A unit of which no line has arrived lands whole. -/
theorem landUnit_lands (y : StreamUnit) (bs : List Byte) (z n : Nat) (b : Bobbin) (hsent : y.sent = [])
    (hbs : bs.length = 64 * n) :
    ScratchOnly b (landUnit y bs z b) ∧ (landUnit y bs z b).scratch = memWrite b.scratch y.sa bs := by
  have hn : bs.length / 64 = n := by omega
  obtain ⟨hsame, hscratch⟩ := foldl_scratchWrite y.sa n 0 bs b hbs
  simp only [landUnit, hsent, hn, List.contains_nil, Bool.not_false, List.filter_true]
  split
  · exact ⟨hsame.trans rfl, hscratch⟩
  · exact ⟨hsame, hscratch⟩

end Sys2Proof.Machine
end
section
/-! PROOFS. A unit of a stream that completes (R262 to R264). -/

namespace Sys2Proof.Machine

/-! ## The transfer of a unit -/

section
variable {u : Nat} {x : Stream} {y : StreamUnit} {s v : State} (hsent : y.sent = [])
include hsent

/-- The Bobbin once a unit of a read has landed, no line of it zero-filled. -/
def unitLanded (x : Stream) (y : StreamUnit) (bs : List Byte) (b : Bobbin) : Bobbin :=
  { landUnit y bs 0 b with tagZero := tmod 0 b.tagZero x.tag (· + 0) }

theorem moveUnit_reads {bs : List Byte} (hx : x.write = false)
    (hr : readLines u (bobCtx s u) x.np y (List.range (streamLines x)) s = (v, .ok, bs, 0)) :
    moveUnit u x y { crcBad := 0, scratch := false } s =
      (bump (bobbin u) 7 (64 * streamLines x) (modBobbin u (unitLanded x y bs) v), .ok, none) := by
  simp [moveUnit, hx, hsent, noteRetries, hr]
  rfl

theorem moveUnit_writes (hx : x.write = true) (hb : tagBad (bobbinOf s u) y (unitBytes (bobbinOf s u) x y) = false)
    (hw : stackWrite u (bobCtx s u) y.a (unitBytes (bobbinOf s u) x y) s = (v, .ok)) :
    moveUnit u x y { crcBad := 0, scratch := false } s =
      (bump (bobbin u) 8 (64 * streamLines x) v, .ok, none) := by
  simp [moveUnit, hx, hsent, noteRetries, noteScratch, hb, writeLines, hw]

end

/-! ## Its end -/

/-- The stream without the unit; where none is left, its request is answered. -/
def unitDropped (u id k : Nat) (x : Stream) (s : State) : State :=
  let d := modBobbin u (dropUnit k x) s
  if (bobbinOf d u).streams.any fun z => z.id == id then d else untrack (.stream u id) d

theorem unitDropped_bob (u id k : Nat) (x : Stream) (s : State) :
    (unitDropped u id k x s).bob = (modBobbin u (dropUnit k x) s).bob := by
  simp only [unitDropped]
  split <;> rfl

theorem unitDropped_spl (u id k : Nat) (x : Stream) (s : State) : (unitDropped u id k x s).spl = s.spl := by
  simp only [unitDropped]
  split <;> rfl

theorem unitDropped_saf (u id k : Nat) (x : Stream) (s : State) : (unitDropped u id k x s).saf = s.saf := by
  simp only [unitDropped]
  split <;> rfl

theorem bobbinOf_unitDropped (u id k : Nat) (x : Stream) (s : State) :
    bobbinOf (unitDropped u id k x s) u = dropUnit k x (bobbinOf s u) := by
  rw [bobbinOf, unitDropped_bob, ← bobbinOf, modBobbin, bobbinOf_setBobbin]

theorem dropUnit_frame (k : Nat) (x : Stream) (b : Bobbin) :
    dropUnit k x b = { b with streams := (dropUnit k x b).streams, tagUnits := tmod 0 b.tagUnits x.tag (· + 1) } := rfl

/-- The last unit of a stream takes the stream with it. -/
theorem dropUnit_last {k : Nat} {x : Stream} (b : Bobbin) (hk : k < x.units.length) (h1 : x.units.length = 1) :
    ∀ z ∈ (dropUnit k x b).streams, z.id ≠ x.id := by
  have hleft : x.units.eraseIdx k = [] := by
    rw [← List.length_eq_zero_iff, List.length_eraseIdx_of_lt hk, h1]
  intro z hz
  simp only [dropUnit, hleft, if_true, List.mem_filter, bne_iff_ne, ne_eq] at hz
  exact hz.2

theorem bobWake_idle {u : Nat} {s : State} (h : (bobbinOf s u).wait = none) : bobWake u s = s := by
  simp [bobWake, h]

section
variable {u id k : Nat} {s v : State} {x : Stream} {y : StreamUnit} {c : UnitCheck}
  (hx : (bobbinOf s u).streams.find? (fun x => x.id == id) = some x) (hy : x.units[k]? = some y)
include hx hy

theorem unitComplete_line {j : Nat} (hc : c.line = some j) : unitComplete u id k c s = moveLine u x k y j s := by
  simp [unitComplete, hx, hy, hc]

/-- A unit that met no fault is counted for its tag; a Bobbin that runs and waits for nothing does not notice. -/
theorem unitComplete_moved (hc : c.line = none) (hm : moveUnit u x y c s = (v, .ok, none))
    (hw : (bobbinOf v u).wait = none) (hr : (bobbinOf v u).state = .running) :
    unitComplete u id k c s = unitDropped u id k x v := by
  have hwait : (bobbinOf (unitDropped u id k x v) u).wait = none := by rw [bobbinOf_unitDropped]; exact hw
  have hstate : (bobbinOf (unitDropped u id k x v) u).state = .running := by rw [bobbinOf_unitDropped]; exact hr
  have hrun : unitComplete u id k c s =
      (match (bobbinOf (bobWake u (unitDropped u id k x v)) u).launch with
        | some l => if (bobbinOf (bobWake u (unitDropped u id k x v)) u).state = .stopping
            then checkLaunch l (bobWake u (unitDropped u id k x v)) else bobWake u (unitDropped u id k x v)
        | none => bobWake u (unitDropped u id k x v)) := by
    simp only [unitComplete, hx, hy, hc, hm, if_true]
    rfl
  rw [hrun, bobWake_idle hwait, hstate]
  split <;> rfl

variable (hwait : (bobbinOf s u).wait = none) (hrun : (bobbinOf s u).state = .running) (hsent : y.sent = [])
include hwait hrun hsent

theorem unitComplete_reads {bs : List Byte} (hwr : x.write = false)
    (hr : readLines u (bobCtx s u) x.np y (List.range (streamLines x)) s = (v, .ok, bs, 0))
    (hbs : bs.length = 64 * 2 ^ x.log2) (htodo : v.saf.todo = []) :
    ∃ t, exec (.streamUnitComplete u id k { crcBad := 0, scratch := false }) s = .next t ∧
      bobbinOf t u = dropUnit k x (unitLanded x y bs (bobbinOf s u)) ∧ t.spl.mem = s.spl.mem := by
  have hreads := readLines_reads u (bobCtx s u) x.np y (List.range (streamLines x)) s
  rw [hr] at hreads
  obtain ⟨htouch, hmem⟩ := hreads
  obtain ⟨hsame, -⟩ := landUnit_lands y bs 0 (2 ^ x.log2) (bobbinOf s u) hsent hbs
  have hb : bobbinOf (bump (bobbin u) 7 (64 * streamLines x) (modBobbin u (unitLanded x y bs) v)) u =
      unitLanded x y bs (bobbinOf s u) := by
    rw [bobbinOf, bump_bob, ← bobbinOf, modBobbin, bobbinOf_setBobbin, htouch.bobbinOf]
  have hlanded : unitLanded x y bs (bobbinOf s u) = { bobbinOf s u with
      scratch := (landUnit y bs 0 (bobbinOf s u)).scratch, tags := (landUnit y bs 0 (bobbinOf s u)).tags
      tagZero := tmod 0 (bobbinOf s u).tagZero x.tag (· + 0) } := by
    rw [unitLanded, hsame]
  have hend := unitComplete_moved hx hy rfl (moveUnit_reads hsent hwr hr) (by rw [hb, hlanded]; exact hwait)
    (by rw [hb, hlanded]; exact hrun)
  have hquiet := ended_quiet s (unitComplete u id k { crcBad := 0, scratch := false } s) (by
    rw [hend, unitDropped_saf, bump_saf]
    exact htodo)
  refine ⟨_, rfl, ?_, ?_⟩
  · rw [bobbinOf_ended, hend, bobbinOf_unitDropped, hb]
  · rw [hquiet.1, hend, unitDropped_spl, bump_spl]
    exact hmem

theorem unitComplete_writes (hwr : x.write = true)
    (hb : tagBad (bobbinOf s u) y (unitBytes (bobbinOf s u) x y) = false)
    (hw : stackWrite u (bobCtx s u) y.a (unitBytes (bobbinOf s u) x y) s = (v, .ok)) (htodo : v.saf.todo = []) :
    ∃ t, exec (.streamUnitComplete u id k { crcBad := 0, scratch := false }) s = .next t ∧
      bobbinOf t u = dropUnit k x (bobbinOf s u) ∧ t.spl = v.spl := by
  have htouch := stackWrite_touches u (bobCtx s u) y.a (unitBytes (bobbinOf s u) x y) s
  rw [hw] at htouch
  have hbob : bobbinOf (bump (bobbin u) 8 (64 * streamLines x) v) u = bobbinOf s u := by
    rw [bobbinOf, bump_bob, ← bobbinOf, htouch.bobbinOf]
  have hend := unitComplete_moved hx hy rfl (moveUnit_writes hsent hwr hb hw) (by rw [hbob]; exact hwait)
    (by rw [hbob]; exact hrun)
  have hquiet := ended_quiet s (unitComplete u id k { crcBad := 0, scratch := false } s) (by
    rw [hend, unitDropped_saf, bump_saf]
    exact htodo)
  refine ⟨_, rfl, ?_, ?_⟩
  · rw [bobbinOf_ended, hend, bobbinOf_unitDropped, hbob]
  · rw [hquiet.1, hend, unitDropped_spl, bump_spl]

end

end Sys2Proof.Machine
end

section
/-! PROOFS. Streams, waits and barriers, put together (R259, R261 to R264, R280, R281). -/

namespace Sys2Proof.Machine

section
variable {u : Nat} {e : BobErr} {s : State} (hs : settled s)
include hs

theorem swait_goes (h : Issues 0x33 u e s) (hx : ∀ x ∈ (bobbinOf s u).streams, x.tag ≠ fPred (bobIns (bobbinOf s u)))
    (hlen : (bobbinOf s u).pc + 4 < (bobbinOf s u).code.length) : LeavesBobbin u s
    { stepped (2 ^ s.bob.shadowLog2.toNat) 1 (setS (fD (bobIns (bobbinOf s u))) (BitVec.ofNat 64
        (tget 0 (bobbinOf s u).tagUnits (fPred (bobIns (bobbinOf s u))) % 65536 +
          65536 * (tget 0 (bobbinOf s u).tagZero (fPred (bobIns (bobbinOf s u))) % 65536))) (bobbinOf s u)) with
      pc := (bobbinOf s u).pc + 4
      tagUnits := tset 0 (bobbinOf s u).tagUnits (fPred (bobIns (bobbinOf s u))) 0
      tagZero := tset 0 (bobbinOf s u).tagZero (fPred (bobIns (bobbinOf s u))) 0 } (execSwait u e s) := by
  have hnone := wait_of_runs h.runs
  refine waitIns_wakes h hs ((bobWake_tag (b := waiting _ _ _) _ rfl hx hlen).trans ?_)
  congr 1
  generalize bobbinOf s u = b at hnone ⊢
  unfold setS
  split
  · simp [resumed, waiting, stepped, hnone]
  · simp [resumed, waiting, stepped, hnone]

theorem swait_waits (h : Issues 0x33 u e s) (hx : ∃ x ∈ (bobbinOf s u).streams, x.tag = fPred (bobIns (bobbinOf s u))) :
    LeavesBobbin u s (waiting (2 ^ s.bob.shadowLog2.toNat)
      (.tag (fPred (bobIns (bobbinOf s u))) (fD (bobIns (bobbinOf s u)))) (bobbinOf s u)) (execSwait u e s) :=
  waitIns_wakes h hs (bobWake_tag_waits (b := waiting _ _ _) _ rfl hx)

theorem fence_goes (h : Issues 0x3A u e s) (hx : (bobbinOf s u).streams = [])
    (hlen : (bobbinOf s u).pc + 4 < (bobbinOf s u).code.length) : LeavesBobbin u s
    { stepped (2 ^ s.bob.shadowLog2.toNat) 1 (bobbinOf s u) with pc := (bobbinOf s u).pc + 4 } (execFence u e s) := by
  have hnone := wait_of_runs h.runs
  refine waitIns_wakes h hs ((bobWake_fence (b := waiting _ _ _) _ rfl hx hlen).trans ?_)
  simp [resumed, waiting, stepped, hnone]

theorem fence_waits (h : Issues 0x3A u e s) (hx : (bobbinOf s u).streams ≠ []) : LeavesBobbin u s
    (waiting (2 ^ s.bob.shadowLog2.toNat) .fence (bobbinOf s u)) (execFence u e s) :=
  waitIns_wakes h hs (bobWake_fence_waits (b := waiting _ _ _) _ rfl hx)

theorem bar_waits (h : Issues 0x38 u e s) (hres : residentOf s u = none) : LeavesBobbin u s
    (waiting (2 ^ s.bob.shadowLog2.toNat) (.barrier (bit (bobIns (bobbinOf s u)) 0)) (bobbinOf s u)) (execBar u e s) := by
  rw [execBar, eitherIns_loaded hres]
  exact waitIns_wakes h hs (bobWake_barrier (b := waiting _ _ _) _ rfl)

theorem ckpt_goes (h : Issues 0x3B u e s) (hres : residentOf s u = none) (hx : (bobbinOf s u).streams = [])
    (hlen : (bobbinOf s u).pc + 4 < (bobbinOf s u).code.length) : LeavesBobbin u s
    { stepped (2 ^ s.bob.shadowLog2.toNat) 1 (bobbinOf s u) with
      ckpt := sreg (bobbinOf s u) (fA (bobIns (bobbinOf s u))), pc := (bobbinOf s u).pc + 4 } (execCkpt u e s) := by
  have hnone := wait_of_runs h.runs
  rw [execCkpt, eitherIns_loaded hres]
  refine waitIns_wakes h hs ((bobWake_ckpt (b := waiting _ _ _) _ rfl hx hlen).trans ?_)
  simp [resumed, waiting, stepped, hnone]

theorem halt_halts {v : Nat} {l : Launch} (h : Issues 0x3C u e s) (hres : residentOf s u = none)
    (hl : bobLaunch s u = some l) (hrun : l.state = .running) (hv : v ∈ l.members) (hvu : v ≠ u)
    (hh : (bobbinOf s v).state ≠ .halted) (hx : (bobbinOf s u).streams = []) : LeavesBobbin u s
    { stepped (2 ^ s.bob.shadowLog2.toNat) 1 (bobbinOf s u) with state := .halted, exit := fFunc (bobIns (bobbinOf s u)) }
    (execHalt u e s) := by
  have hnone := wait_of_runs h.runs
  obtain ⟨id, hid, hfind⟩ := bobLaunch_some hl
  rw [execHalt, eitherIns_loaded hres]
  refine waitIns_wakes h hs ((bobWake_halt (b := waiting _ _ _) _ rfl hx hid).trans ?_)
  rw [checkLaunch_running (l := l) (v := v) (by simpa [findLaunch] using hfind) hrun hv
    (by rw [bobbinOf_setBobbin_other _ _ _ _ hvu, bobbinOf_issued]; exact hh)]
  simp [waiting, stepped, hnone]

end

/-- Settles O48: a stream instruction adds its stream; a wait that is over goes on; a barrier lets every member in scope go on;
a unit that meets no fault lands whole and leaves its stream. -/
theorem bobbinStreamsAndWaits : Obligations.BobbinStreamsAndWaits := by
  unfold Obligations.BobbinStreamsAndWaits
  refine ⟨fun u s p hp => ?streams, fun u e s => ?swait, fun u e s => ?fence, fun u e s => ?bar, fun u g s hw => ?release,
    fun u e s => ?ckpt, fun u v e s l => ?halt, fun u e s v w l bs => ?satom, fun u id k s x y => ?units⟩
  case streams =>
    have hrow : (∀ e, exec (p.1 u e) s = streamIns p.2 u e s) ∧ issueSteps p.2 false = 1 := by
      simp only [List.mem_cons, List.not_mem_nil, or_false] at hp
      obtain rfl | rfl | rfl := hp
      · exact ⟨fun _ => rfl, rfl⟩
      · exact ⟨fun _ => rfl, rfl⟩
      · exact ⟨fun _ => rfl, rfl⟩
    obtain ⟨hexec, hsteps⟩ := hrow
    intro e b i unit sc us hs hup hruns hcode hop
    refine ⟨fun hroom hone hmost hupper hlist hfits hunits hlen => ?_, fun hfull => (hexec _).trans (streamIns_full hs hfull)⟩
    obtain ⟨t, ht, hb, -, -, hx⟩ := streamIns_adds hs ⟨hup, hruns, hcode, hop⟩ hroom
      ⟨hone, hmost, hupper, hlist, hfits, hunits⟩ hsteps hlen
    exact ⟨t, (hexec _).trans ht, hb, hx⟩
  case swait =>
    intro b i hs hup hruns hcode hop
    refine ⟨fun hx hlen => ?_, fun hx => ?_⟩
    · obtain ⟨t, ht, hb, -⟩ := swait_goes hs ⟨hup, hruns, hcode, hop⟩ hx hlen
      exact ⟨t, ht, hb⟩
    · obtain ⟨t, ht, hb, -⟩ := swait_waits hs ⟨hup, hruns, hcode, hop⟩ hx
      exact ⟨t, ht, hb⟩
  case fence =>
    intro b hs hup hruns hcode hop
    refine ⟨fun hx hlen => ?_, fun hx => ?_⟩
    · obtain ⟨t, ht, hb, -⟩ := fence_goes hs ⟨hup, hruns, hcode, hop⟩ hx hlen
      exact ⟨t, ht, hb⟩
    · obtain ⟨t, ht, hb, -⟩ := fence_waits hs ⟨hup, hruns, hcode, hop⟩ hx
      exact ⟨t, ht, hb⟩
  case bar =>
    intro b hs hup hruns hcode hop hres
    obtain ⟨t, ht, hb, -⟩ := bar_waits hs ⟨hup, hruns, hcode, hop⟩ hres
    exact ⟨t, ht, hb⟩
  case release =>
    refine ⟨fun hm hs => ?_, fun hm hs hlen => ⟨_, rfl, fun v => ?_⟩⟩
    · have hsame : exec (.barrierRelease u) s = ends s (barrierRelease u s) := rfl
      rw [hsame, barrierRelease_waits hw hm]
      exact ends_undisturbed hs (.refl s)
    · rw [bobbinOf_ended, barrierRelease_passes hw hm]
      exact bobbinOf_passBarrier g _ s (fun x hx _ => hlen x hx) v
  case ckpt =>
    intro b hs hup hruns hcode hop hres hx hlen
    obtain ⟨t, ht, hb, -⟩ := ckpt_goes hs ⟨hup, hruns, hcode, hop⟩ hres hx hlen
    exact ⟨t, ht, hb⟩
  case halt =>
    intro b hs hup hruns hcode hop hres hl hrun hv hvu hh hx
    obtain ⟨t, ht, hb, -, -, hother⟩ := halt_halts hs ⟨hup, hruns, hcode, hop⟩ hres hl hrun hv hvu hh hx
    exact ⟨t, ht, hb, hother⟩
  case satom =>
    intro b i a hs hup hruns hcode hop hl ha hwin hlen hr hw htodo
    have htouch := stackWrite_touches u l.ctx a (leBytes 8 (satomStores (fFunc i) (leNat bs) (sreg b (fB i)).toNat
      (sreg b (fD i)).toNat)) v
    have hplace := setS_samePlace (fD i) (BitVec.ofNat 64 (leNat bs)) b
    have hrun := execSatom_swaps ⟨hup, hruns, hcode, hop⟩ hl ha hwin hr hw
    rw [bobResult_next 0x39 w (by rw [hplace.1, hplace.2]; exact hlen)] at hrun
    refine ⟨_, hrun, ?_, ?_, ?_⟩
    · rw [bobbinOf_ended, bobbinOf_setBobbin]
      exact (sreg_setS b (fD i) (fD i) (BitVec.ofNat 64 (leNat bs))).trans (by simp)
    · rw [bobbinOf_ended, bobbinOf_setBobbin]
      exact congrArg (· + 4) hplace.1
    · rw [(ended_quiet s (setBobbin u _ w) htodo).1]
      rfl
  case units =>
    intro hs hwait hrun hx hy hheld hsent
    have hid : x.id = id := by simpa using List.find?_some hx
    have hk : k < x.units.length := (List.getElem?_eq_some_iff.mp hy).1
    refine ⟨fun v bs hwr hr htodo hbs => ?_, fun v hwr hbad hw htodo => ?_, fun c j hc => ?_⟩
    · obtain ⟨t, ht, hb, hmem⟩ := unitComplete_reads hx hy hwait hrun hsent hwr hr hbs htodo
      obtain ⟨hsame, hscratch⟩ := landUnit_lands y bs 0 (2 ^ x.log2) (bobbinOf s u) hsent hbs
      refine ⟨t, ht, ?_, hmem, ?_, ?_, ?_, fun h1 => ?_⟩
      · have : (bobbinOf t u).scratch = memWrite (bobbinOf s u).scratch y.sa bs := by rw [hb]; exact hscratch
        rw [this, ← hbs]
        exact memRead_memWrite _ _ _
      · rw [hb, dropUnit_frame, unitLanded, hsame]
        simp [tget_tmod]
      · rw [hb, dropUnit_frame, unitLanded, hsame]
      · rw [hb, dropUnit_frame, unitLanded, hsame]
        exact hrun
      · rw [hb, ← hid]
        exact dropUnit_last _ hk h1
    · obtain ⟨t, ht, hb, hspl⟩ := unitComplete_writes hx hy hwait hrun hsent hwr hbad hw htodo
      refine ⟨t, ht, hspl, by rw [hb]; rfl, ?_⟩
      rw [hb, dropUnit_frame]
      simp [tget_tmod]
    · exact congrArg (fun x => Host.Outcome.next (ended s x)) (unitComplete_line hx hy hc)

end Sys2Proof.Machine
end

section
/-! PROOFS. Images are loaded and unloaded (R286, R288, R289). -/

namespace Sys2Proof.Machine

/-! ## Fields of a packet -/

theorem leNat_take_mod (m n : Nat) (l : List Byte) : leNat (l.take (m + n)) % 256 ^ m = leNat (l.take m) := by
  induction m generalizing l with
  | zero => simp [leNat, Nat.mod_one]
  | succ m ih =>
    cases l with
    | nil => simp [leNat]
    | cons b r =>
      have hb := b.isLt
      have hlow : (b.toNat + 256 * leNat (r.take (m + n))) % 256 = b.toNat := by omega
      have hhigh : (b.toNat + 256 * leNat (r.take (m + n))) / 256 = leNat (r.take (m + n)) := by omega
      rw [Nat.succ_add, List.take_succ_cons, List.take_succ_cons, leNat, leNat, ← ih r, Nat.pow_succ',
        Nat.mod_mul, hlow, hhigh]

/-- A parameter of whole bytes is the field of those bytes. -/
theorem param_bytes (c : Cmd) (off m n : Nat) : param c off (m + n) 0 (8 * m) = fieldLE c.packet off m := by
  rw [param, bits, Nat.pow_zero, Nat.div_one, Nat.pow_mul]
  exact leNat_take_mod m n _

theorem fieldLE_append_left {a : List Byte} {off n : Nat} (h : off + n ≤ a.length) (r : List Byte) :
    fieldLE (a ++ r) off n = fieldLE a off n := by
  rw [fieldLE, fieldLE, List.drop_append_of_le_length (by omega), List.take_append_of_le_length (by simp; omega)]

theorem fieldLE_beyond {a : List Byte} {off : Nat} (h : a.length ≤ off) (n : Nat) : fieldLE a off n = 0 := by
  rw [fieldLE, List.drop_eq_nil_of_le h, List.take_nil, leNat]

theorem param_two (c : Cmd) (off : Nat) : param c off 2 0 16 = fieldLE c.packet off 2 := param_bytes c off 2 0

/-! ## BOB_IMAGE_LOAD (R288) -/

/-- The image as it is stored. -/
def loadedImage (c : Cmd) (old : Image) (bs : List Byte) : Image :=
  { loaded := true, gen := old.gen, part := c.part, shared := param c 16 8 16 1 == 1, restart := bit (fieldLE bs 6 2) 0,
    entry := fieldLE bs 12 4, constOff := fieldLE bs 20 4, code := (bs.drop 64).take (fieldLE bs 8 4),
    consts := bs.drop (64 + fieldLE bs 8 4), bytes := bs }

theorem imageLoad_loads {c : Cmd} {s v w : State} {hdr body : List Byte} {i : Nat} (hlen : 68 ≤ cmdLength c)
    (hh : bufRead (launchOwner s c.part) c.part (fieldLE c.packet 16 2) (fieldLE c.packet 24 8) 64 c.ext s = (v, .ok, hdr))
    (hsize : cmdLength c = 64 + fieldLE hdr 8 4 + fieldLE hdr 16 4)
    (hb : bufRead (launchOwner s c.part) c.part (fieldLE c.packet 16 2) (fieldLE c.packet 24 8 + 64) (cmdLength c - 64)
      (bodyExt (fieldLE c.packet 24 8) c.ext) v = (w, .ok, body)) (hgood : imageBytesBad (hdr ++ body) = none)
    (hshared : param c 16 8 16 1 = 1 → c.part = 0) (hfree : freeHandle w = some i)
    (hroom : imagesUsed w c.part + ceilDiv (cmdLength c) 65536 ≤ amountOf w 8 c.part) :
    imageLoad c s = complete c .ok [i + 1024 * (imageAt w i).gen.toNat] (launchOwner s c.part)
      (setImage i (loadedImage c (imageAt w i) (hdr ++ body)) w) := by
  have hctx : param c 16 8 0 16 = fieldLE c.packet 16 2 := param_bytes c 16 2 6
  have hsh : (param c 16 8 16 1 == 1 && c.part != 0) = false := by
    by_cases h1 : param c 16 8 16 1 = 1
    · simp [hshared h1]
    · simp [h1]
  unfold imageLoad
  simp only [hctx, if_neg (Nat.not_lt.mpr hlen), hh, ne_eq, not_true_eq_false, if_false, ← hsize, hb, hgood, hsh,
    Bool.false_eq_true, hfree, gt_iff_lt, if_neg (Nat.not_lt.mpr hroom)]
  rfl

/-- A header with a size in it reaches past its restart flag. -/
theorem fieldLE_header {len : Nat} {hdr : List Byte} (hlen : 68 ≤ len)
    (hsize : len = 64 + fieldLE hdr 8 4 + fieldLE hdr 16 4) (body : List Byte) :
    fieldLE (hdr ++ body) 6 2 = fieldLE hdr 6 2 := by
  refine fieldLE_append_left ?_ body
  by_contra hshort
  rw [fieldLE_beyond (by omega), fieldLE_beyond (by omega)] at hsize
  omega

/-! ## BOB_IMAGE_UNLOAD (R289) -/

theorem visibleImage_some {s : State} {p h : Nat} {m : Image} (hv : visibleImage s p h = some m) :
    m = imageAt s (h % 1024) := by
  simp only [visibleImage, Option.ite_none_right_eq_some, Option.some.injEq] at hv
  exact hv.2.symm

theorem exec_bobImageUnload {c : Cmd} {s : State} {m : Image} (hs : settled s) (ha : admits descImageUnload c s)
    (hv : visibleImage s c.part (fieldLE c.packet 16 2) = some m) (hres : m.resident = false) (hp : m.part = c.part)
    (hl : ∀ l ∈ s.bob.launch, l.image % 1024 ≠ fieldLE c.packet 16 2 % 1024) : exec (.bobImageUnload c) s = .next
      (complete c .ok [] (launchOwner s c.part)
        (setImage (fieldLE c.packet 16 2 % 1024) { gen := m.gen + 1 } (begun c s))) := by
  have hm := visibleImage_some hv
  have hused : launchesImage s (fieldLE c.packet 16 2 % 1024) = false := by
    simpa [launchesImage] using hl
  have hrun := runCmd_effect (d := descImageUnload) (c := c) (s := s)
    [((visibleImage s c.part (fieldLE c.packet 16 2)).isNone, .bounds), (m.resident || m.part != c.part, .denied),
      (launchesImage s (fieldLE c.packet 16 2 % 1024), .busy)]
    (fun s => complete c .ok [] (launchOwner s c.part) (setImage (fieldLE c.packet 16 2 % 1024) { gen := m.gen + 1 } s))
    hs ha (by simp [hv, hres, hp, hused]) (.trans (t := setImage (fieldLE c.packet 16 2 % 1024) { gen := m.gen + 1 } (begun c s))
      ⟨rfl, rfl, rfl, rfl, rfl, rfl⟩ (complete_undisturbed _ _ _ _ _))
  have hexec : exec (.bobImageUnload c) s = execBobImageUnload c s := rfl
  rw [hexec, execBobImageUnload]
  simp only [param_two, ← hm]
  exact hrun

end Sys2Proof.Machine
end

section
/-! PROOFS. Launches are queued (R290 to R292, R294, R300, R309). -/

namespace Sys2Proof.Machine

section
variable {c : Cmd} {s : State}

theorem launchOf_image (c : Cmd) (s : State) : (launchOf c s).image = fieldLE c.packet 16 2 := param_two c 16

theorem exec_bobLaunch_fails {st : Status} (ha : admits descLaunch c s) (hf : firstFail (launchFails s c) = some st) :
    exec (.bobLaunch c) s = .next (ended s (complete c st [] (procUnit s c) (begun c s))) :=
  runCmd_own descLaunch c (launchFails s c) s _ st ha.1 ha.2 hf

theorem exec_bobLaunch_passes (ha : admits descLaunch c s) (hf : firstFail (launchFails s c) = none) :
    exec (.bobLaunch c) s = .next (ended s (freezeCheck (launch c (begun c s)))) :=
  runCmd_passes descLaunch c (launchFails s c) s _ ha.1 ha.2 ((firstFail_none _).mp hf)

theorem launch_waits (h : launchesFull s c.part = true ∨ launchHeld c s = true ∨ behindSeq s c = true) :
    launch c (begun c s) = holdCmd c (begun c s) := by
  have hw : (launchesFull (begun c s) c.part || launchHeld c (begun c s) || behindSeq (begun c s) c) = true := by
    have h' : launchesFull (begun c s) c.part = true ∨ launchHeld c (begun c s) = true ∨ behindSeq (begun c s) c = true := h
    simpa [or_assoc] using h'
  exact if_pos hw

section
variable (hfull : launchesFull s c.part = false) (hheld : launchHeld c s = false) (hseq : behindSeq s c = false)
include hfull hheld hseq

theorem launch_goes : launch c (begun c s) = 
    (if !(imageAt s (fieldLE c.packet 16 2 % 1024)).resident then queueLaunch (launchOf c s) (turn c s)
    else match firstFail (residentFails (launchOf c s) (fieldLE c.packet 16 2)) with
      | some st => complete c st [] (launchOwner s c.part) (turn c s)
      | none => if fieldLE c.packet 16 2 = 1 then launchAttn c (launchOf c s) (turn c s)
          else queueLaunch (launchOf c s) (turn c s)) := by
  have hgo : ¬(launchesFull (begun c s) c.part || launchHeld c (begun c s) || behindSeq (begun c s) c) = true := by
    have hf : launchesFull (begun c s) c.part = false := hfull
    have hh : launchHeld c (begun c s) = false := hheld
    have hq : behindSeq (begun c s) c = false := hseq
    simp [hf, hh, hq]
  rw [← launchOf_image c s]
  exact if_neg hgo

theorem launch_queues (hres : (imageAt s (fieldLE c.packet 16 2 % 1024)).resident = false) :
    launch c (begun c s) = queueLaunch (launchOf c s) (turn c s) := by
  rw [launch_goes hfull hheld hseq, hres]
  rfl

section
variable (hres : (imageAt s (fieldLE c.packet 16 2 % 1024)).resident = true)
include hres

theorem launch_resident_fails {st : Status}
    (hf : firstFail (residentFails (launchOf c s) (fieldLE c.packet 16 2)) = some st) :
    launch c (begun c s) = complete c st [] (launchOwner s c.part) (turn c s) := by
  rw [launch_goes hfull hheld hseq, hres]
  simp only [Bool.not_true, Bool.false_eq_true, if_false, hf]

theorem launch_resident_passes (hf : firstFail (residentFails (launchOf c s) (fieldLE c.packet 16 2)) = none) :
    launch c (begun c s) = if fieldLE c.packet 16 2 = 1 then launchAttn c (launchOf c s) (turn c s)
      else queueLaunch (launchOf c s) (turn c s) := by
  rw [launch_goes hfull hheld hseq, hres]
  simp only [Bool.not_true, Bool.false_eq_true, if_false, hf]

end
end

/-- The launch as it joins the others. -/
def queuedLaunch (c : Cmd) (s : State) : Launch :=
  { launchOf c s with state := if partStopped s c.part then .withdrawn else .queued }

/-- A launch without a work list joins the launches last, and nothing else changes. -/
theorem queueLaunch_launchOf (c : Cmd) (s : State) : queueLaunch (launchOf c s) (turn c s) = { turn c s with
    bob := { s.bob with launch := s.bob.launch ++ [queuedLaunch c s], nextLaunch := s.bob.nextLaunch + 1 } } := rfl

end

/-! ## Attention (R309) -/

section
variable {c : Cmd} {l : Launch} {s v : State} {ws : List AttnWork} (hw : workList l s = (v, .ok ws))
include hw

theorem launchAttn_bounds (hr : (attnRanges { l with work := ws }).any (rangeBad { l with work := ws }) = true) :
    launchAttn c l s = complete c .bounds [] (launchOwner v c.part) v := by
  simp [launchAttn, hw, hr]

theorem launchAttn_queues (h0 : argAt l 0 8 % 16 = 0) (h16 : argAt l 16 8 % 64 = 0) (h24 : argAt l 24 8 % 64 = 0)
    (h32 : argAt l 32 8 % 64 = 0)
    (hr : (attnRanges { l with work := ws }).any (rangeBad { l with work := ws }) = false) :
    launchAttn c l s = queueLaunch { l with work := ws } v := by
  have e (o n : Nat) : argAt { l with work := ws } o n = argAt l o n := rfl
  simp [launchAttn, hw, e, h0, h16, h24, h32, hr]

end

end Sys2Proof.Machine
end

section
/-! PROOFS. Launches are stopped and end (R285, R294, R295, R296). -/

namespace Sys2Proof.Machine

/-! ## Bobbins that are changed one after the other -/

theorem foldl_keeps {β γ : Type} (f : State → β → State) (g : State → γ) (h : ∀ s b, g (f s b) = g s) (l : List β)
    (s : State) : g (l.foldl f s) = g s :=
  foldl_related (R := fun s t => g t = g s) (fun _ => rfl) (fun h k => k.trans h) h l s

theorem bobbinOf_modBobbin (u x : Nat) (f : Bobbin → Bobbin) (s : State) :
    bobbinOf (modBobbin u f s) x = if x = u then f (bobbinOf s u) else bobbinOf s x := tget_tset _ _ _ _ _

/-- A change that done twice is done once comes to every Bobbin of a list. -/
theorem bobbinOf_foldl_modBobbin {f : Bobbin → Bobbin} (hf : ∀ b, f (f b) = f b) (ms : List Nat) (s : State) (x : Nat) :
    bobbinOf (ms.foldl (fun s u => modBobbin u f s) s) x = if x ∈ ms then f (bobbinOf s x) else bobbinOf s x := by
  induction ms generalizing s with
  | nil => simp
  | cons m r ih =>
    rw [List.foldl_cons, ih, bobbinOf_modBobbin]
    by_cases hx : x = m
    · subst hx
      simp [hf]
    · simp [hx]

/-! ## What the end of a launch leaves -/

/-- A member stops at its next instruction. -/
def memberStopped (b : Bobbin) : Bobbin :=
  { b with wait := none, state := if b.state = .fenced ∨ b.state = .loading then b.state else .stopping }

/-- A member is to stop, in the state of the machine. -/
def stopMember (s : State) (u : Nat) : State := modBobbin u memberStopped s

theorem stopMembers_eq (l : Launch) (s : State) : stopMembers l s = l.members.foldl stopMember s := rfl

/-- A member has left its launch. -/
def memberLeft (b : Bobbin) : Bobbin :=
  { b with launch := none, wait := none, streams := [], tagUnits := [], tagZero := [],
           state := if b.state = .fenced then .fenced else .zeroing }

theorem memberStopped_twice (b : Bobbin) : memberStopped (memberStopped b) = memberStopped b := by
  by_cases h : b.state = .fenced ∨ b.state = .loading
  · simp [memberStopped, h]
  · simp [memberStopped, h]

theorem memberLeft_twice (b : Bobbin) : memberLeft (memberLeft b) = memberLeft b := by
  by_cases h : b.state = .fenced
  · simp [memberLeft, h]
  · simp [memberLeft, h]

theorem bobbinOf_stopMembers (l : Launch) (s : State) (x : Nat) :
    bobbinOf (stopMembers l s) x = if x ∈ l.members then memberStopped (bobbinOf s x) else bobbinOf s x :=
  bobbinOf_foldl_modBobbin memberStopped_twice l.members s x

theorem stopMembers_launch (l : Launch) (s : State) : (stopMembers l s).bob.launch = s.bob.launch := by
  rw [stopMembers_eq]
  exact foldl_keeps stopMember (fun s => s.bob.launch) (fun _ _ => rfl) _ s

theorem stopMembers_stops (l : Launch) (s : State) : (stopMembers l s).bob.stops = s.bob.stops := by
  rw [stopMembers_eq]
  exact foldl_keeps stopMember (fun s => s.bob.stops) (fun _ _ => rfl) _ s

section
variable (l : Launch) (s : State)

/-- The launch's command has completed. -/
def launchTold : State :=
  completeRef l.cmd (launchStatus l) (launchWords s l)
    (launchOwner (if l.replayed then markReplayed l.cmd (launchGone l s) else launchGone l s) l.part)
    (if l.replayed then markReplayed l.cmd (launchGone l s) else launchGone l s)

theorem launchTold_bob : (launchTold l s).bob = (launchGone l s).bob := by
  rw [launchTold, completeRef_frame]
  split <;> rfl

theorem endLaunch_launch : (endLaunch l s).bob.launch = s.bob.launch.filter fun x => x.id != l.id := by
  rw [endLaunch_eq, foldl_keeps dropSeqRef (fun s => s.bob.launch) (fun _ _ => rfl),
    foldl_keeps leaveLaunch (fun s => s.bob.launch) (fun _ _ => rfl)]
  exact congrArg (·.launch) (launchTold_bob l s)

theorem endLaunch_stops : (endLaunch l s).bob.stops = s.bob.stops := by
  rw [endLaunch_eq, foldl_keeps dropSeqRef (fun s => s.bob.stops) (fun _ _ => rfl),
    foldl_keeps leaveLaunch (fun s => s.bob.stops) (fun _ _ => rfl)]
  exact congrArg (·.stops) (launchTold_bob l s)

theorem bobbinOf_endLaunch (x : Nat) :
    bobbinOf (endLaunch l s) x = if x ∈ l.members then memberLeft (bobbinOf s x) else bobbinOf s x := by
  have htold : bobbinOf (launchTold l s) x = bobbinOf s x := by
    rw [bobbinOf, launchTold_bob]
    rfl
  rw [endLaunch_eq, foldl_keeps dropSeqRef (fun s => bobbinOf s x) (fun _ _ => rfl), ← htold]
  exact bobbinOf_foldl_modBobbin memberLeft_twice l.members (launchTold l s) x

theorem endLaunch_bobbin (h : l.members = []) : (endLaunch l s).bob.bobbin = s.bob.bobbin := by
  rw [endLaunch_eq, foldl_keeps dropSeqRef (fun s => s.bob.bobbin) (fun _ _ => rfl), h]
  exact congrArg (·.bobbin) (launchTold_bob l s)

end

/-! ## Stopping a launch -/

theorem findLaunch_setLaunch {s : State} {l l' : Launch} {id : Nat} (h : findLaunch s id = some l) (hid : l'.id = id) :
    findLaunch (setLaunch l' s) id = some l' := by
  unfold findLaunch at h ⊢
  rw [setLaunch_bob]
  generalize s.bob.launch = ls at h ⊢
  induction ls with
  | nil => cases h
  | cons x r ih =>
    by_cases hx : x.id = id
    · simp [hx, hid]
    · rw [List.find?_cons_of_neg (by simpa using hx)] at h
      rw [List.map_cons, hid, if_neg hx, List.find?_cons_of_neg (by simpa using hx), ← hid]
      rw [← hid] at h ih
      exact ih h

/-- The launch as it ends. -/
def endingWith (st : Status) (u : Option Nat) (pc : Nat) (l : Launch) : Launch :=
  { l with state := .ending, fault := some (st, u, pc) }

theorem checkLaunch_ends {s : State} {id : Nat} {l : Launch} (hf : findLaunch s id = some l) (hl : l.state = .ending)
    (hstreams : memberStreams s l = false) (hloads : memberLoads s l = false) : checkLaunch id s = endLaunch l s := by
  simp [checkLaunch, hf, hl, hstreams, hloads]

/-- A launch whose members neither load nor have streams under way ends as it is stopped. -/
theorem stopLaunch_ends {s : State} {l : Launch} (st : Status) (u : Option Nat) (pc : Nat)
    (hf : findLaunch s l.id = some l) (hl : l.state ≠ .ending)
    (hm : ∀ v ∈ l.members, (bobbinOf s v).streams = [] ∧ (bobbinOf s v).state ≠ .loading) :
    stopLaunch l.id st u pc s = endLaunch (endingWith st u pc l)
      (stopMembers (endingWith st u pc l) (setLaunch (endingWith st u pc l) s)) := by
  have hmember : ∀ v ∈ l.members, bobbinOf (stopMembers (endingWith st u pc l) (setLaunch (endingWith st u pc l) s)) v =
      memberStopped (bobbinOf s v) := fun v hv =>
    (bobbinOf_stopMembers _ _ v).trans (if_pos hv)
  have hfind : findLaunch (stopMembers (endingWith st u pc l) (setLaunch (endingWith st u pc l) s)) l.id =
      some (endingWith st u pc l) := by
    rw [findLaunch, stopMembers_launch]
    exact findLaunch_setLaunch hf rfl
  have hstreams : memberStreams (stopMembers (endingWith st u pc l) (setLaunch (endingWith st u pc l) s))
      (endingWith st u pc l) = false := by
    refine List.any_eq_false.mpr fun v hv => ?_
    rw [hmember v hv]
    simp [memberStopped, (hm v hv).1]
  have hloads : memberLoads (stopMembers (endingWith st u pc l) (setLaunch (endingWith st u pc l) s))
      (endingWith st u pc l) = false := by
    refine List.any_eq_false.mpr fun v hv => ?_
    rw [hmember v hv]
    by_cases hfenced : (bobbinOf s v).state = .fenced
    · simp [memberStopped, hfenced]
    · simp [memberStopped, hfenced, (hm v hv).2]
  have hstop : stopLaunch l.id st u pc s =
      checkLaunch l.id (stopMembers (endingWith st u pc l) (setLaunch (endingWith st u pc l) s)) := by
    simp only [stopLaunch, hf, if_neg hl]
    rfl
  rw [hstop, checkLaunch_ends hfind rfl hstreams hloads]

/-! ## BOB_STOP (R296) -/

/-- A BOB_STOP that waits for its launch's completion. -/
def stopWaiting (c : Cmd) (l : Launch) (s : State) : State :=
  { begun c s with bob := { s.bob with stops := s.bob.stops ++ [(cmdRef c, l.cmd)] } }

section
variable {c : Cmd} {s : State} (ha : admits descStop c s)
include ha

theorem exec_bobStop : exec (.bobStop c) s = .next (ended s (bobStop c (begun c s))) :=
  runCmd_passes descStop c [] s (bobStop c) ha.1 ha.2 (by simp)

theorem exec_bobStop_unknown
    (h : s.bob.launch.find? (fun l => l.part == c.part && l.launchId.toNat == fieldLE c.packet 16 2) = none) :
    exec (.bobStop c) s = .next (ended s (complete c .ok [0] (launchOwner s c.part) (begun c s))) := by
  rw [exec_bobStop ha, bobStop, param_two, show (begun c s).bob.launch = s.bob.launch from rfl, h]
  rfl

theorem exec_bobStop_stops {l : Launch}
    (h : s.bob.launch.find? (fun l => l.part == c.part && l.launchId.toNat == fieldLE c.packet 16 2) = some l) :
    exec (.bobStop c) s = .next (ended s (stopLaunch l.id .aborted none 0 (stopWaiting c l s))) := by
  rw [exec_bobStop ha, bobStop, param_two, show (begun c s).bob.launch = s.bob.launch from rfl, h]
  rfl

end

/-- A launch that was not granted is gone at once. -/
theorem stopLaunch_queued {s : State} {l : Launch} (st : Status) (u : Option Nat) (pc : Nat)
    (hf : findLaunch s l.id = some l) (hl : l.state = .queued) (hm : l.members = []) :
    (∀ x ∈ (stopLaunch l.id st u pc s).bob.launch, x.id ≠ l.id) ∧
      (stopLaunch l.id st u pc s).bob.stops = s.bob.stops ∧ (stopLaunch l.id st u pc s).bob.bobbin = s.bob.bobbin := by
  have hmem : (endingWith st u pc l).members = [] := hm
  rw [stopLaunch_ends st u pc hf (by rw [hl]; decide) (by simp [hm])]
  refine ⟨fun x hx => ?_, ?_, ?_⟩
  · rw [endLaunch_launch, List.mem_filter] at hx
    simpa [endingWith] using hx.2
  · rw [endLaunch_stops, stopMembers_stops]
    rfl
  · rw [endLaunch_bobbin _ _ hmem, stopMembers, hmem]
    rfl

end Sys2Proof.Machine
end

section
/-! PROOFS. Launches are granted, loaded and limited, and Bobbins zeroed (R286, R289, R292 to R294, R297, R309). -/

namespace Sys2Proof.Machine

/-! ## Grants (R292) -/

/-- A Bobbin as a grant makes it member `n`. -/
def memberGranted (l : Launch) (n : Nat) (b : Bobbin) : Bobbin :=
  { b with state := .loading, launch := some l.id, member := n, launchId := l.launchId, ckpt := 0, exit := 0, wait := none }

/-- A grant makes a Bobbin the member of its number. -/
def grantMember (l : Launch) (s : State) (x : Nat × Nat) : State := modBobbin x.1 (memberGranted l x.2) s

section
variable (l : Launch) (ms : List (Nat × Nat)) (s : State)

theorem bobbinOf_granted_other {u : Nat} (hu : u ∉ ms.map Prod.fst) :
    bobbinOf (ms.foldl (grantMember l) s) u = bobbinOf s u := by
  induction ms generalizing s with
  | nil => rfl
  | cons x r ih =>
    simp only [List.map_cons, List.mem_cons, not_or] at hu
    rw [List.foldl_cons, ih _ hu.2, grantMember, bobbinOf_modBobbin, if_neg hu.1]

theorem bobbinOf_granted {u : Nat} (hu : u ∈ ms.map Prod.fst) :
    ∃ n b, bobbinOf (ms.foldl (grantMember l) s) u = memberGranted l n b := by
  induction ms generalizing s with
  | nil => cases hu
  | cons x r ih =>
    rw [List.foldl_cons]
    by_cases hr : u ∈ r.map Prod.fst
    · exact ih _ hr
    · have hx : u = x.1 := by simpa [hr] using hu
      refine ⟨x.2, bobbinOf s x.1, ?_⟩
      rw [bobbinOf_granted_other l r _ hr, grantMember, bobbinOf_modBobbin, if_pos hx]

end

/-- The launch as it is granted. -/
def launchGranted (l : Launch) (ms : List Nat) (s : State) : Launch :=
  { l with state := .running, members := ms, started := some (unitTime s (launchOwner s l.part)) }

theorem grantLaunch_eq (l : Launch) (ms : List Nat) (s : State) : grantLaunch l ms s =
    ms.zipIdx.foldl (grantMember l) (setLaunch (launchGranted l ms s) s) := rfl

theorem findLaunch_grantLaunch {l : Launch} {s : State} (ms : List Nat) (hf : findLaunch s l.id = some l) :
    findLaunch (grantLaunch l ms s) l.id = some (launchGranted l ms s) := by
  rw [findLaunch, grantLaunch_eq, foldl_keeps (grantMember l) (fun s => s.bob.launch) (fun _ _ => rfl)]
  exact findLaunch_setLaunch hf rfl

theorem bobbinOf_grantLaunch_other {l : Launch} {ms : List Nat} {s : State} {u : Nat} (hu : u ∉ ms) :
    bobbinOf (grantLaunch l ms s) u = bobbinOf s u := by
  rw [grantLaunch_eq, bobbinOf_granted_other _ _ _ (by simpa using hu)]
  rfl

theorem bobbinOf_grantLaunch {l : Launch} {ms : List Nat} {s : State} {u : Nat} (hu : u ∈ ms) :
    ∃ n b, bobbinOf (grantLaunch l ms s) u = memberGranted l n b := by
  rw [grantLaunch_eq]
  exact bobbinOf_granted l _ _ (by simpa using hu)

/-! ## Loads (R293) -/

theorem tget_foldl_from {α : Type} [DecidableEq α] (d : α) (f : Nat → α) (t : Tab α) (k n i : Nat) :
    tget d ((List.range n).foldl (fun t j => tset d t (k + j) (f j)) t) i =
      if k ≤ i ∧ i < k + n then f (i - k) else tget d t i := by
  induction n with
  | zero => rw [if_neg (by omega)]; rfl
  | succ n ih =>
    rw [List.range_succ, List.foldl_append, List.foldl_cons, List.foldl_nil, tget_tset, ih]
    by_cases hi : i = k + n
    · rw [if_pos hi, if_pos (by omega), hi, Nat.add_sub_cancel_left]
    · rw [if_neg hi]
      by_cases hin : k ≤ i ∧ i < k + n
      · rw [if_pos hin, if_pos (by omega)]
      · rw [if_neg hin, if_neg (by omega)]

/-- The scalar registers a member starts with, by number. -/
theorem tget_startRegs (l : Launch) (u : Nat) (b : Bobbin) (j : Nat) : tget 0 (startRegs l u b) j =
    if 16 ≤ j ∧ j < 16 + 16 then BitVec.ofNat 64 (fieldLE (slice l.args 0 128) (8 * (j - 16)) 8)
    else if j = 7 then BitVec.ofNat 64 l.per
    else if j = 6 then BitVec.ofNat 64 l.members.length
    else if j = 5 then BitVec.ofNat 64 b.member
    else if j = 4 then BitVec.ofNat 64 (b.member % l.per)
    else if j = 3 then BitVec.ofNat 64 (bobStack u)
    else if j = 2 then BitVec.ofNat 64 (b2n l.replayed)
    else if j = 1 then BitVec.ofNat 64 (if l.replayed then b.ckpt.toNat else 0) else 0 := by
  simp only [startRegs, List.foldl_append, List.foldl_map]
  refine (tget_foldl_from 0 (fun i => BitVec.ofNat 64 (fieldLE (slice l.args 0 128) (8 * i) 8)) _ 16 16 j).trans ?_
  have hempty : tget (0 : Word64) [] j = 0 := rfl
  simp only [List.foldl_cons, List.foldl_nil, tget_tset, hempty]

theorem sreg_startMember (l : Launch) (m : Image) (u : Nat) (b : Bobbin) {j : Nat} (hj : j ≠ 0) :
    sreg (startMember l m u b) j = tget 0 (startRegs l u b) j := by
  rw [sreg, if_neg hj, startMember]

section
variable (l : Launch) (m : Image) (u : Nat) (b : Bobbin)

theorem sreg_startMember_ckpt : sreg (startMember l m u b) 1 = if l.replayed then b.ckpt else 0 := by
  rw [sreg_startMember _ _ _ _ (by decide), tget_startRegs]
  cases l.replayed <;> simp

theorem sreg_startMember_replayed : sreg (startMember l m u b) 2 = if l.replayed then 1 else 0 := by
  rw [sreg_startMember _ _ _ _ (by decide), tget_startRegs]
  cases l.replayed <;> rfl

theorem sreg_startMember_arg {i : Nat} (hi : i < 16) :
    sreg (startMember l m u b) (16 + i) = BitVec.ofNat 64 (fieldLE (slice l.args 0 128) (8 * i) 8) := by
  rw [sreg_startMember _ _ _ _ (by omega), tget_startRegs, if_pos (by omega), Nat.add_sub_cancel_left]

theorem sreg_startMember_zero {i : Nat} (h8 : 8 ≤ i) (h16 : i < 16) : sreg (startMember l m u b) i = 0 := by
  have hlow : ∀ k < 8, i ≠ k := by omega
  rw [sreg_startMember _ _ _ _ (hlow 0 (by omega)), tget_startRegs, if_neg (by omega)]
  simp [hlow]

/-- The registers that say where a member stands in its launch. -/
theorem sreg_startMember_place : sreg (startMember l m u b) 3 = BitVec.ofNat 64 (u / 32) ∧
    sreg (startMember l m u b) 4 = BitVec.ofNat 64 (b.member % l.per) ∧
    sreg (startMember l m u b) 5 = BitVec.ofNat 64 b.member ∧
    sreg (startMember l m u b) 6 = BitVec.ofNat 64 l.members.length ∧
    sreg (startMember l m u b) 7 = BitVec.ofNat 64 l.per := by
  refine ⟨?_, ?_, ?_, ?_, ?_⟩
  all_goals
    rw [sreg_startMember _ _ _ _ (by decide), tget_startRegs]
    rfl

end

section
variable {u : Nat} {s : State} {l : Launch} (hl : bobLaunch s u = some l) (hb : (bobbinOf s u).state = .loading)
include hl hb

theorem loadComplete_starts (hr : l.state = .running) :
    loadComplete u s = setBobbin u (startMember l (launchImage s l) u (bobbinOf s u)) s := by
  simp [loadComplete, hl, hb, hr]

theorem loadComplete_stops (hr : l.state = .ending) :
    loadComplete u s = checkLaunch l.id (setBobbin u { bobbinOf s u with state := .stopping } s) := by
  simp [loadComplete, hl, hb, hr]

end

/-! ## Zeroing (R297) -/

section
variable {u : Nat} {s : State} (hz : (bobbinOf s u).state = .zeroing)
include hz

theorem zeroingDone_idle (h : (bobbinOf s u).leaving = false) : zeroingDone u s =
    setBobbin u { bobbinOf s u with state := .idle, scratch := [], tags := [], plan := [] } s := by
  simp [zeroingDone, hz, h]

theorem zeroingDone_leaves (h : (bobbinOf s u).leaving = true) : zeroingDone u s =
    clearCheck (bobbinOf s u).part (setBobbin u { bobbinOf s u with
      state := .unassigned, scratch := [], tags := [], plan := [], part := 0, leaving := false } s) := by
  simp [zeroingDone, hz, h]

end

/-! ## LIMIT_MS (R294) -/

/-- The record of a launch beyond its limit. -/
def limitRecord (p lid : Nat) (l : Launch) (s : State) : Record :=
  { mkRecord s (bobbin ((l.members.head?).getD 0)) 0x0409 with
    part := some p, object := lid, otype := 4, info0 := (bobbinOf s ((l.members.head?).getD 0)).pc }

theorem limitExpiry_stops {p lid : Nat} {s : State} {l : Launch} {x : Word64}
    (hf : s.bob.launch.find? (fun l => l.part == p && l.launchId.toNat == lid) = some l) (hx : l.started = some x)
    (hms : l.limitMs ≠ 0) (hl : l.state ≠ .ending)
    (ht : l.limitMs * 1000000 ≤ (unitTime s (launchOwner s p) - x).toNat) :
    limitExpiry p lid s = stopLaunch l.id .timeout none 0 (record (limitRecord p lid l s) s) := by
  have hdue : ¬(l.limitMs = 0 ∨ l.state = .ending ∨ (unitTime s (launchOwner s p) - x).toNat < l.limitMs * 1000000) := by
    rintro (h | h | h)
    · exact hms h
    · exact hl h
    · exact Nat.not_lt.mpr ht h
  simp only [limitExpiry, hf, hx, if_neg hdue]
  rfl

/-- A launch whose members have no stream under way is gone, and its members are to be zeroed. -/
theorem stopLaunch_zeroes {s : State} {l : Launch} (st : Status) (u : Option Nat) (pc : Nat)
    (hf : findLaunch s l.id = some l) (hl : l.state ≠ .ending) (hstreams : ∀ v ∈ l.members, (bobbinOf s v).streams = [])
    (hm : ∀ v ∈ l.members, (bobbinOf s v).state ≠ .fenced ∧ (bobbinOf s v).state ≠ .loading) :
    (∀ y ∈ (stopLaunch l.id st u pc s).bob.launch, y.id ≠ l.id) ∧
      ∀ v ∈ l.members, (bobbinOf (stopLaunch l.id st u pc s) v).state = .zeroing ∧
        (bobbinOf (stopLaunch l.id st u pc s) v).launch = none := by
  rw [stopLaunch_ends st u pc hf hl fun v hv => ⟨hstreams v hv, (hm v hv).2⟩]
  refine ⟨fun y hy => ?_, fun v hv => ?_⟩
  · rw [endLaunch_launch, List.mem_filter] at hy
    simpa [endingWith] using hy.2
  · have hleft : bobbinOf (endLaunch (endingWith st u pc l)
        (stopMembers (endingWith st u pc l) (setLaunch (endingWith st u pc l) s))) v =
        memberLeft (memberStopped (bobbinOf s v)) := by
      rw [bobbinOf_endLaunch, if_pos (by exact hv), bobbinOf_stopMembers, if_pos (by exact hv)]
      rfl
    rw [hleft]
    simp [memberLeft, memberStopped, hm v hv]

end Sys2Proof.Machine
end

section
/-! PROOFS. Images and launches, put together (R286 to R297, R300, R309). -/

namespace Sys2Proof.Machine

/-- Settles O49: each command is its checks and its effect; a launch that is granted, loaded, limited or stopped changes the Bobbins
of its members alone. -/
theorem launchesRunInOrder : Obligations.LaunchesRunInOrder := by
  unfold Obligations.LaunchesRunInOrder
  refine ⟨fun c s v w hdr body i => ?load, fun c s m hs ha hv hres hp hl => exec_bobImageUnload hs ha hv hres hp hl,
    fun c s ha => ?launch, fun c s hs ha hf hfr hfull hheld hseq hres => ?queued,
    fun c l s v ws hw h0 h16 h24 h32 => ?attention, fun c s ha => ?stop, fun p s => ?grant, fun u s l hl hb => ?loaded,
    fun u s hz => ?zeroing, fun p lid s l x hf hx hms hl ht => ?limit⟩
  case load =>
    intro ha hflag hlen hh hsize hb hgood hshared hfree hroom
    have hrun : exec (.bobImageLoad c) s = ends s (imageLoad c (begun c s)) :=
      runCmd_passes descImageLoad c _ s (imageLoad c) ha.1 ha.2 (by simp [hflag])
    refine ⟨loadedImage c (imageAt w i) (hdr ++ body), ?_, rfl, rfl, rfl, rfl, ?_, rfl, rfl, rfl, rfl, rfl⟩
    · rw [hrun, imageLoad_loads hlen hh hsize hb hgood hshared hfree hroom]
      rfl
    · exact congrArg (bit · 0) (fieldLE_header hlen hsize body)
  case launch =>
    refine ⟨fun st hf => exec_bobLaunch_fails ha hf, fun hf => ⟨fun hw => ?_, fun hfull hheld hseq => ⟨fun hres => ?_,
      fun hres => ⟨fun st hst => ?_, fun hok => ⟨fun h1 => ?_, fun h1 => ?_⟩⟩⟩⟩⟩
    · rw [exec_bobLaunch_passes ha hf, launch_waits hw]
    · rw [exec_bobLaunch_passes ha hf, launch_queues hfull hheld hseq hres]
    · rw [exec_bobLaunch_passes ha hf, launch_resident_fails hfull hheld hseq hres hst]
    · rw [exec_bobLaunch_passes ha hf, launch_resident_passes hfull hheld hseq hres hok, if_neg h1]
    · rw [exec_bobLaunch_passes ha hf, launch_resident_passes hfull hheld hseq hres hok, if_pos h1]
  case queued =>
    have hrun := exec_bobLaunch_passes ha hf
    rw [launch_queues hfull hheld hseq hres, queueLaunch_launchOf, freezeCheck_none (by exact hfr)] at hrun
    refine ⟨_, queuedLaunch c s, hrun, by rw [ended_bob], rfl, by rw [ended_bob], rfl, param_two c 16, ?_, ?_, ?_,
      param_two c 24, param_two c 26, rfl, fieldLE_toNat (by decide) _ _, rfl, rfl, ended_done _ _, by rw [ended_bob]⟩
    · exact (congrArg (fun n => (BitVec.ofNat 16 n).toNat) (param_two c 18)).trans (fieldLE_toNat (by decide) _ _)
    · exact (congrArg (fun n => (BitVec.ofNat 16 n).toNat) (param_two c 20)).trans (fieldLE_toNat (by decide) _ _)
    · simp [queuedLaunch, launchOf, param, bits]
  case attention =>
    exact ⟨launchAttn_queues hw h0 h16 h24 h32, launchAttn_bounds hw⟩
  case stop =>
    refine ⟨exec_bobStop_unknown ha, fun l hl => ⟨exec_bobStop_stops ha hl, fun _ hf hq hm => ?_⟩⟩
    obtain ⟨hgone, hstops, hbob⟩ := stopLaunch_queued (s := stopWaiting c l s) .aborted none 0 hf hq hm
    refine ⟨_, exec_bobStop_stops ha hl, ?_, ?_, ?_⟩
    · rw [ended_bob]
      exact hgone
    · rw [ended_bob, hstops]
      exact List.mem_append_right _ List.mem_cons_self
    · rw [ended_bob]
      exact hbob
  case grant =>
    refine ⟨fun l old new h => ?_, fun l hnone hq hf => ⟨fun ms hms _ => ?_, fun hms hs => ?_⟩⟩
    · have hg : launchGrant p s = replaceMember l old new s := by simp only [launchGrant, h]
      rw [← hg]
      rfl
    · have hp : l.part = p := by
        have := (List.mem_filter.mp (List.mem_of_find?_eq_some hq)).2
        simpa using this
      have hg : launchGrant p s = grantLaunch l ms s := by simp only [launchGrant, hnone, hq, hms]
      refine ⟨ended s (launchGrant p s), rfl, fun u hu => ?_, fun u hu => ?_, ?_⟩
      · obtain ⟨n, b, hb⟩ := bobbinOf_grantLaunch (l := l) (s := s) hu
        rw [bobbinOf_ended, hg, hb]
        exact ⟨rfl, rfl, rfl⟩
      · rw [bobbinOf_ended, hg, bobbinOf_grantLaunch_other hu]
      · rw [findLaunch, ended_bob, hg, ← hp]
        exact findLaunch_grantLaunch ms hf
    · have hg : launchGrant p s = s := by simp only [launchGrant, hnone, hq, hms]
      have hexec : exec (.launchGrant p) s = ends s (launchGrant p s) := rfl
      rw [hexec, hg]
      exact ends_undisturbed hs (.refl s)
  case loaded =>
    refine ⟨fun hr => ?_, fun hr _ => ?_⟩
    · rw [← loadComplete_stops hl hb hr]
      rfl
    · have hself : bobbinOf (ended s (loadComplete u s)) u = startMember l (launchImage s l) u (bobbinOf s u) := by
        rw [bobbinOf_ended, loadComplete_starts hl hb hr, bobbinOf_setBobbin]
      obtain ⟨h3, h4, h5, h6, h7⟩ := sreg_startMember_place l (launchImage s l) u (bobbinOf s u)
      refine ⟨ended s (loadComplete u s), rfl, ?_⟩
      rw [hself]
      refine ⟨rfl, rfl, rfl, rfl, rfl, fun i => ⟨rfl, rfl, fun hi => if_neg hi⟩, sreg_startMember_ckpt _ _ _ _,
        sreg_startMember_replayed _ _ _ _, h3, h4, h5, h6, h7, fun i hi => sreg_startMember_arg _ _ _ _ hi,
        fun i h8 h16 => sreg_startMember_zero _ _ _ _ h8 h16, fun x hx => ?_⟩
      rw [bobbinOf_ended, loadComplete_starts hl hb hr, bobbinOf_setBobbin_other _ _ _ _ hx]
  case zeroing =>
    refine ⟨fun h _ => ⟨_, rfl, ?_, fun x hx => ?_⟩, fun h => ?_⟩
    · rw [bobbinOf_ended, zeroingDone_idle hz h, bobbinOf_setBobbin]
    · rw [bobbinOf_ended, zeroingDone_idle hz h, bobbinOf_setBobbin_other _ _ _ _ hx]
    · rw [← zeroingDone_leaves hz h]
      rfl
  case limit =>
    have hstop := limitExpiry_stops hf hx hms hl ht
    refine ⟨congrArg (fun t => Host.Outcome.next (ended s t)) hstop, fun hfind _ hstreams hm _ => ?_⟩
    obtain ⟨hgone, hzero⟩ := stopLaunch_zeroes (s := record (limitRecord p lid l s) s) .timeout none 0 hfind hl hstreams hm
    refine ⟨ended s (limitExpiry p lid s), rfl, ?_, fun v hv => ?_⟩
    · rw [ended_bob, hstop]
      exact hgone
    · rw [bobbinOf_ended, hstop]
      exact hzero v hv

end Sys2Proof.Machine
end

section
/-! PROOFS. Sequence commands (R303, R304). -/

namespace Sys2Proof.Machine

theorem setSeq_undisturbed (q : Nat) (e : SeqEntry) (s : State) : Undisturbed s (setSeq q e s) := ⟨rfl, rfl, rfl, rfl, rfl, rfl⟩

/-! ## A sequence command in its turn -/

section
variable {c : Cmd} {s : State} {q : Nat} (hs : settled s) (hh : seqHeld s c = false) (hq : seqArg s c = some q)
include hs hh hq

/-- Every check of R304 on SEQ_CREATE passes: the sequence is stored, with no references. -/
theorem exec_seqCreate_stores {g : BitVec 128} (ha : admits descSeqCreate c s)
    (hg : g = BitVec.ofNat 128 (fieldLE c.packet 16 16)) (hdim : seqField g 112 2 ≠ 3) (hfmt : seqFmt g ≠ 3)
    (hfree : (seqOf s q).valid = false) (hspans : seqSpans g ≠ 0) (hheads : seqHq g ≤ 128) (halign : kvBase g % 65536 = 0)
    (hend : kvBase g + seqRegion g * 131072 ≤ 2 ^ 41) (howned : ∀ x ∈ regionGranules g, ownedBy s c.part x = true) :
    exec (.seqCreate c) s =
      .next (complete c .ok [] (launchOwner s c.part) (setSeq q { entry := g, valid := true } (turn c s))) := by
  have owned : ((regionGranules g).any fun x => !ownedBy s c.part x) = false := by
    simpa [List.any_eq_false] using howned
  rw [exec, execSeqCreate]
  simp only [← hg, hq, hh, Option.getD_some]
  refine runOrdered_effect _ _ hs ha ?_ ((setSeq_undisturbed q _ _).trans (complete_undisturbed c _ _ _ _))
  simp only [List.forall_mem_cons, List.not_mem_nil, false_imp_iff, implies_true, and_true]
  exact ⟨by simp [hdim, hfmt], rfl, hfree, by simp [hspans, hheads], by simpa [halign] using hend, owned⟩

theorem exec_seqCreate_busy {g : BitVec 128} (ha : admits descSeqCreate c s)
    (hg : g = BitVec.ofNat 128 (fieldLE c.packet 16 16)) (hdim : seqField g 112 2 ≠ 3) (hfmt : seqFmt g ≠ 3)
    (hvalid : (seqOf s q).valid = true) :
    exec (.seqCreate c) s = .next (complete c .busy [] (procUnit s c) (turn c s)) := by
  rw [exec, execSeqCreate]
  simp only [← hg, hq, hh, Option.getD_some]
  exact runOrdered_refuses _ _ hs ha (by simp [firstFail, hdim, hfmt, hvalid])

theorem exec_seqDestroy_frees (ha : admits descSeqDestroy c s) (hvalid : (seqOf s q).valid = true)
    (hrefs : (seqOf s q).refs = 0) :
    exec (.seqDestroy c) s = .next (complete c .ok [] (launchOwner s c.part) (setSeq q {} (turn c s))) := by
  rw [exec, execSeqDestroy]
  simp only [hq, hh, Option.getD_some]
  refine runOrdered_effect _ _ hs ha ?_ ((setSeq_undisturbed q _ _).trans (complete_undisturbed c _ _ _ _))
  simp [hvalid, hrefs]

theorem exec_seqDestroy_busy (ha : admits descSeqDestroy c s) (hvalid : (seqOf s q).valid = true)
    (hrefs : (seqOf s q).refs ≠ 0) :
    exec (.seqDestroy c) s = .next (complete c .busy [] (procUnit s c) (turn c s)) := by
  rw [exec, execSeqDestroy]
  simp only [hq, hh, Option.getD_some]
  exact runOrdered_refuses _ _ hs ha (by simpa [firstFail, hvalid] using hrefs)

theorem exec_seqQuery_answers (ha : admits descSeqQuery c s) (hvalid : (seqOf s q).valid = true) :
    exec (.seqQuery c) s = .next (complete c .ok
      [seqCapacity (seqOf s q).entry, kvTokens (seqOf s q).entry, seqRegion (seqOf s q).entry, (seqOf s q).refs.toNat]
      (launchOwner s c.part) (turn c s)) := by
  rw [exec, execSeqQuery]
  simp only [hq, hh, Option.getD_some]
  refine runOrdered_effect _ _ hs ha ?_ (complete_undisturbed c _ _ _ _)
  simp [hvalid]

end

/-! ## A sequence command behind a resident launch that waits -/

section
variable {c : Cmd} {s : State} (hs : settled s) (hh : seqHeld s c = true)
include hs hh

theorem exec_seqCreate_holds (ha : admits descSeqCreate c s) : exec (.seqCreate c) s = .next (holdCmd c s) := by
  rw [exec, execSeqCreate, hh]
  exact runOrdered_holds _ _ hs ha

theorem exec_seqDestroy_holds (ha : admits descSeqDestroy c s) : exec (.seqDestroy c) s = .next (holdCmd c s) := by
  rw [exec, execSeqDestroy, hh]
  exact runOrdered_holds _ _ hs ha

theorem exec_seqQuery_holds (ha : admits descSeqQuery c s) : exec (.seqQuery c) s = .next (holdCmd c s) := by
  rw [exec, execSeqQuery, hh]
  exact runOrdered_holds _ _ hs ha

end

/-- Settles O50: each command is the checks of R304 in its turn and then its effect on the one entry it names; out of its turn it
waits. -/
theorem sequenceCommandsTakeEffect : Obligations.SequenceCommandsTakeEffect := by
  unfold Obligations.SequenceCommandsTakeEffect
  refine ⟨fun c s q g hs ha hh hg hdim hfmt hq => ?create, fun c s q hs ha hh hq hv => ?destroy,
    fun c s q hs ha hh hq hv => exec_seqQuery_answers hs hh hq ha hv, fun p hp c s hs ha hh => ?held,
    fun q x e s => ⟨seqOf_setSeq s q e, seqOf_setSeq_other s q e x⟩⟩
  case create =>
    exact ⟨exec_seqCreate_stores hs hh hq ha hg hdim hfmt, exec_seqCreate_busy hs hh hq ha hg hdim hfmt⟩
  case destroy =>
    exact ⟨exec_seqDestroy_frees hs hh hq ha hv, exec_seqDestroy_busy hs hh hq ha hv⟩
  case held =>
    simp only [List.mem_cons, List.not_mem_nil, or_false] at hp
    obtain rfl | rfl | rfl := hp
    · exact exec_seqCreate_holds hs hh ha
    · exact exec_seqDestroy_holds hs hh ha
    · exact exec_seqQuery_holds hs hh ha

end Sys2Proof.Machine
end

section
/-! PROOFS. One step of the block: the front command, and how it leaves the block (R512, R514). -/

namespace Sys2Proof.Machine

/-- Settles O4: a step is the end of some command, and every such end is settled. -/
theorem everyStepLeavesTheBlockSettled : Obligations.EveryStepLeavesTheBlockSettled := by
  intro s
  obtain ⟨u, t, hstep, -⟩ := step_ends s
  exact ⟨ended u t, hstep, ended_is_settled u t⟩

theorem step_cons (c : Instr) (rest : List Instr) (s : State) :
    step { s with pending := c :: rest } = exec c { s with pending := rest } := rfl

/-- Settles O1, by the equation of `step` for a queue with a front command. -/
theorem stepRunsTheFrontCommand : Obligations.StepRunsTheFrontCommand := step_cons

theorem reset_settled : settled State.reset := by
  refine ⟨rfl, ?faultN, fun _ => rfl⟩
  case faultN => simp [faultPinFollows, State.reset]

/-- Settles O5: the registers by evaluation of the reset state, its pins by `reset_settled`. -/
theorem resetValuesOfTheRegisters : Obligations.ResetValuesOfTheRegisters :=
  ⟨rfl, rfl, rfl, rfl, rfl, rfl, rfl, rfl, rfl, rfl, rfl, rfl, rfl, rfl, rfl, rfl, rfl, reset_settled⟩

end Sys2Proof.Machine
end

section
/-! PROOFS. What flushes, link changes and domains leave of a port's control word (R362, R379, R380, R417). -/

namespace Sys2Proof.Machine

/-- Every Ethernet port keeps its enables, its `LOW_POWER` and its power state. -/
def KeepsPower (s t : State) : Prop := ∀ k,
  (ethp t k).enable = (ethp s k).enable ∧ (ethp t k).lowPower = (ethp s k).lowPower ∧ (ethp t k).power = (ethp s k).power

theorem KeepsPower.refl (s : State) : KeepsPower s s := fun _ => ⟨rfl, rfl, rfl⟩

theorem KeepsPower.trans {s t u : State} (h : KeepsPower s t) (k : KeepsPower t u) : KeepsPower s u := fun x =>
  ⟨(k x).1.trans (h x).1, (k x).2.1.trans (h x).2.1, (k x).2.2.trans (h x).2.2⟩

theorem ethp_of_eth {s t : State} (h : t.eth = s.eth) (k : Nat) : ethp t k = ethp s k := by simp only [ethp, h]

theorem KeepsPower.of_eth {s t : State} (h : t.eth = s.eth) : KeepsPower s t := fun k => by
  rw [ethp_of_eth h]
  exact ⟨rfl, rfl, rfl⟩

theorem setEthp_keepsPower {k : Nat} {p : EthPort} {s : State} (he : p.enable = (ethp s k).enable)
    (hl : p.lowPower = (ethp s k).lowPower) (hp : p.power = (ethp s k).power) : KeepsPower s (setEthp k p s) := by
  intro x
  by_cases hx : x = k
  · rw [hx, ethp_setEthp]
    exact ⟨he, hl, hp⟩
  · rw [ethp_setEthp_other _ _ _ _ hx]
    exact ⟨rfl, rfl, rfl⟩

theorem setSub_keepsPower (k i : Nat) (u : EthSub) (s : State) : KeepsPower s (setSub k i u s) := setEthp_keepsPower rfl rfl rfl

theorem ethErr_keepsPower (i : Nat) (s : State) : KeepsPower s (ethErr i s) := fun _ => ⟨rfl, rfl, rfl⟩

theorem report_keepsPower (r : Report) (s : State) : KeepsPower s (report r s) := fun _ => ⟨rfl, rfl, rfl⟩

theorem ethCount_keepsPower (k sub i n : Nat) (s : State) : KeepsPower s (ethCount k sub i n s) := by
  simp only [ethCount]
  split
  · exact .refl s
  · split <;> split
    · exact ((setSub_keepsPower _ _ _ s).trans (ethErr_keepsPower 4 _)).trans
        ((ethErr_keepsPower 3 _).trans (report_keepsPower _ _))
    · exact (setSub_keepsPower _ _ _ s).trans ((ethErr_keepsPower 3 _).trans (report_keepsPower _ _))
    · exact (setSub_keepsPower _ _ _ s).trans (ethErr_keepsPower 4 _)
    · exact setSub_keepsPower _ _ _ s

theorem endPacket_endsWork (pkt : TxPacket) (st : Status) (res : List Nat) (s : State) :
    EndsWork s (endPacket pkt st res s) := by
  unfold endPacket
  split
  · exact .refl s
  · rename_i r _
    split
    · exact .refl s
    · have hops : EndsWork s { s with sht := { s.sht with ops := s.sht.ops.filter fun o => o.cmd != some r } } := ⟨rfl, fun _ => id⟩
      have hc := hops.trans (completeRef_endsWork r st res pkt.unit _)
      simp only []
      split
      · exact hc.trans (checkDrain_endsWork _ _)
      · exact hc

theorem EndsWork.eth {s t : State} (h : EndsWork s t) : t.eth = s.eth := congrArg (·.eth) h.frame

theorem endPacket_keepsPower (pkt : TxPacket) (st : Status) (res : List Nat) (s : State) :
    KeepsPower s (endPacket pkt st res s) := .of_eth (endPacket_endsWork pkt st res s).eth

/-- A port with the queues of a sub-port's groups emptied. -/
def flushedPort (p : EthPort) (i : Nat) : EthPort :=
  refreshGroups { p with txq := List.filter (fun e => decide (e.2 ≠ {})) (p.txq.map fun e =>
    if groupSub (tget ({} : EthGroup) p.group (queueGroup e.2)) = i then (e.1, { e.2 with pkts := [] }) else e) }

/-- A flush is counted, and noted where it lost packets. -/
def noteFlush (k i : Nat) (gone : List TxPacket) (s : State) : State :=
  if gone = [] then ethCount k i 13 gone.length s else ethErr 1 (ethCount k i 13 gone.length s)

theorem flushSub_eq (k i : Nat) (s : State) : flushSub k i s = (waitingOn (ethp s k) i).foldl (fun s pkt => endPacket pkt .aborted [] s)
    (noteFlush k i (waitingOn (ethp s k) i) (setEthp k (flushedPort (ethp s k) i) s)) := rfl

theorem noteFlush_keepsPower (k i : Nat) (gone : List TxPacket) (s : State) : KeepsPower s (noteFlush k i gone s) := by
  unfold noteFlush
  split
  · exact ethCount_keepsPower _ _ _ _ s
  · exact (ethCount_keepsPower _ _ _ _ s).trans (ethErr_keepsPower _ _)

theorem flushSub_keepsPower (k i : Nat) (s : State) : KeepsPower s (flushSub k i s) := by
  have hflushed : KeepsPower s (setEthp k (flushedPort (ethp s k) i) s) := setEthp_keepsPower rfl rfl rfl
  rw [flushSub_eq]
  exact (hflushed.trans (noteFlush_keepsPower k i _ _)).trans
    (foldl_related .refl .trans (fun s pkt => endPacket_keepsPower pkt .aborted [] s) _ _)

theorem setLink_keepsPower (k i : Nat) (l : EthLink) (s : State) : KeepsPower s (setLink k i l s) := by
  simp only [setLink]
  split
  · refine .trans ?_ (flushSub_keepsPower _ _ _)
    split
    · exact ((setSub_keepsPower _ _ _ s).trans (setSub_keepsPower _ _ _ _)).trans (endPacket_keepsPower _ _ _ _)
    · exact setSub_keepsPower _ _ _ s
  · exact setSub_keepsPower _ _ _ s

/-! ## Domains -/

theorem pwrSetDone_eth (r : CmdRef) (s : State) : (pwrSetDone r s).eth = s.eth := by
  rw [pwrSetDone]
  refine (foldl_related (R := fun s t : State => t.eth = s.eth)
    (f := fun s p => report (.event p 0x09 .ok treadle 0 (powerInfo s)) s) (fun _ => rfl) (fun h k => k.trans h)
    (fun _ _ => rfl) _ _).trans ?_
  rw [completeRef_frame]

theorem releaseTokens_eth (u : Nat) (s : State) : (releaseTokens u s).eth = s.eth := by
  simp only [releaseTokens, checkPwrSet]
  split
  · split
    · exact pwrSetDone_eth _ _
    · rfl
  · rfl

theorem leaveOn_eth (x : Nat) (off : Bool) (s : State) : (leaveOn x off s).eth = s.eth := by
  unfold leaveOn
  exact foldl_related (R := fun s t : State => t.eth = s.eth) (fun _ => rfl) (fun h k => k.trans h)
    (fun s u => releaseTokens_eth u s) _ _

theorem portOff_keepsPower (k : Nat) (s : State) : KeepsPower s (portOff k s) := by
  simp only [portOff]
  split
  · exact .of_eth (leaveOn_eth _ _ s)
  · exact .refl s

theorem wakeDomain_keepsPower (x : Nat) (s : State) : KeepsPower s (wakeDomain x s) := by
  simp only [wakeDomain]
  split <;> exact .of_eth rfl

/-! ## `PORT_CTL` -/

section
variable (k : Nat) (s : State)

/-- A sub-port whose enable changes starts training or is disabled (R362). -/
def enableSub (p : EthPort) (v : BitVec 8) (s : State) (i : Nat) : State :=
  if i < subPorts p ∧ v.getLsbD i ∧ !p.enable.getLsbD i then
    setLink k i (if p.power = .active ∨ p.power = .waking then .training else .down) s
  else if !v.getLsbD i ∧ p.enable.getLsbD i then setLink k i .disabled s
  else s

theorem setEnables_eq (v : BitVec 8) : setEnables k v s = portOff k
    ((List.range 8).foldl (enableSub k (ethp s k) v) (modEthp k (fun p => { p with enable := v }) s)) := rfl

theorem enableSub_keepsPower (p : EthPort) (v : BitVec 8) (s : State) (i : Nat) : KeepsPower s (enableSub k p v s i) := by
  unfold enableSub
  split
  · exact setLink_keepsPower _ _ _ s
  · split
    · exact setLink_keepsPower _ _ _ s
    · exact .refl s

/-- Writing the enables leaves the power of the port alone. -/
theorem setEnables_power (v : BitVec 8) : (ethp (setEnables k v s) k).enable = v ∧
    (ethp (setEnables k v s) k).lowPower = (ethp s k).lowPower ∧ (ethp (setEnables k v s) k).power = (ethp s k).power := by
  obtain ⟨he, hl, hp⟩ := (foldl_related .refl .trans (enableSub_keepsPower k (ethp s k) v) (List.range 8)
    (modEthp k (fun p => { p with enable := v }) s)).trans (portOff_keepsPower k _) k
  rw [setEnables_eq, he, hl, hp, modEthp, ethp_setEthp]
  exact ⟨rfl, rfl, rfl⟩

/-- A sub-port of a port that goes to sleep is flushed, and goes down where it is not disabled (R379). -/
def sleepSub (s : State) (i : Nat) : State :=
  flushSub k i (if (ethSub s k i).link = .disabled then s else setLink k i .down s)

theorem sleepSub_keepsPower (s : State) (i : Nat) : KeepsPower s (sleepSub k s i) := by
  refine .trans ?_ (flushSub_keepsPower _ _ _)
  split
  · exact .refl s
  · exact setLink_keepsPower _ _ _ s

/-- The sub-ports of a port asleep, and its domain. -/
def sleepPort (s : State) : State :=
  if (domain ((List.range 8).foldl (sleepSub k) s) (64 + k)).state = .on
  then leaveOn (64 + k) false ((List.range 8).foldl (sleepSub k) s) else (List.range 8).foldl (sleepSub k) s

theorem sleepPort_keepsPower : KeepsPower s (sleepPort k s) := by
  have hsubs := foldl_related (R := KeepsPower) .refl .trans (sleepSub_keepsPower k) (List.range 8) s
  unfold sleepPort
  split
  · exact hsubs.trans (.of_eth (leaveOn_eth _ _ _))
  · exact hsubs

theorem enterLowPower_idle (h : (ethp s k).lowPower = true) : enterLowPower k s = s := by simp [enterLowPower, h]

theorem enterLowPower_eq (h : (ethp s k).lowPower = false) :
    enterLowPower k s = sleepPort k (modEthp k (fun p => { p with lowPower := true, power := .entering }) s) := by
  simp only [enterLowPower, h, Bool.false_eq_true, if_false]
  rfl

theorem enterLowPower_enters (h : (ethp s k).lowPower = false) : (ethp (enterLowPower k s) k).enable = (ethp s k).enable ∧
    (ethp (enterLowPower k s) k).lowPower = true ∧ (ethp (enterLowPower k s) k).power = .entering := by
  obtain ⟨he, hl, hp⟩ := sleepPort_keepsPower k (modEthp k (fun p => { p with lowPower := true, power := .entering }) s) k
  rw [enterLowPower_eq k s h, he, hl, hp, modEthp, ethp_setEthp]
  exact ⟨rfl, rfl, rfl⟩

theorem wakePort_awake (h : (ethp s k).lowPower = false) : wakePort k s = s := by simp [wakePort, h]

theorem wakePort_wakes (h : (ethp s k).lowPower = true) : (ethp (wakePort k s) k).enable = (ethp s k).enable ∧
    (ethp (wakePort k s) k).lowPower = false ∧ (ethp (wakePort k s) k).power = .waking := by
  simp only [wakePort, h, Bool.not_true, Bool.false_eq_true, if_false]
  obtain ⟨he, hl, hp⟩ := wakeDomain_keepsPower (64 + k)
    (modEthp k (fun p => { p with lowPower := false, power := .waking, woken := false }) s) k
  rw [he, hl, hp, modEthp, ethp_setEthp]
  exact ⟨rfl, rfl, rfl⟩

/-- The enables of a written control word. -/
def withEnables (v : Nat) : State := if (ethp s k).enable = BitVec.ofNat 8 v then s else setEnables k (BitVec.ofNat 8 v) s

theorem withEnables_power (v : Nat) : (ethp (withEnables k s v) k).enable = BitVec.ofNat 8 v ∧
    (ethp (withEnables k s v) k).lowPower = (ethp s k).lowPower ∧ (ethp (withEnables k s v) k).power = (ethp s k).power := by
  unfold withEnables
  split
  · exact ⟨‹_›, rfl, rfl⟩
  · exact setEnables_power k s _

/-- What a written control word leaves of its port: its enables and `LOW_POWER`, and the power state where `LOW_POWER` changed. -/
theorem putPortCtl_power (v : Nat) : (ethp (putPortCtl k v s) k).enable = BitVec.ofNat 8 v ∧
    (ethp (putPortCtl k v s) k).lowPower = bit v 8 ∧
    (bit v 8 = true → (ethp s k).lowPower = false → (ethp (putPortCtl k v s) k).power = .entering) ∧
    (bit v 8 = false → (ethp s k).lowPower = true → (ethp (putPortCtl k v s) k).power = .waking) := by
  obtain ⟨he, hl, -⟩ := withEnables_power k s v
  have hput : putPortCtl k v s =
      if bit v 8 then enterLowPower k (withEnables k s v) else wakePort k (withEnables k s v) := rfl
  rw [hput]
  cases hb : bit v 8 <;> cases hlow : (ethp s k).lowPower <;> rw [hlow] at hl
  · simp [wakePort_awake k _ hl, he, hl]
  · simp [wakePort_wakes k _ hl, he]
  · simp [enterLowPower_enters k _ hl, he]
  · simp [enterLowPower_idle k _ hl, he, hl]

end

end Sys2Proof.Machine
end
section
/-! PROOFS. The register rows of the Ethernet ports (R362, R364, R366, R369, R371, R376, R377, R379, R380). -/

namespace Sys2Proof.Machine

/-! ## Where a port's registers stand -/

section
variable {k o : Nat} {r : Reg}

theorem portOffset_portAt (hk : k < 8) (ho : o < 0x18000) : portOffset (portAt k o) = some o := by
  have hspan : spans (portAt k o) 0x720000 (8 * 0x18000) = true := by
    simp only [spans_iff, portAt]
    omega
  have hoff : (portAt k o - 0x720000) % 0x18000 = o := by
    simp only [portAt]
    omega
  rw [portOffset, if_pos hspan, hoff]

theorem regAt_port (hk : k < 8) (ho : o < 0x18000) (h : ethPortReg k o = some r) : regAt (portAt k o) = some r := by
  refine (congrArg regAt (by simp only [portAt]; omega)).trans
    (regAt_block (b := 7) (off := 0x20000 + 0x18000 * k + o) (by omega) (by omega) ?_)
  simp only [blockRegs]
  unfold ethReg
  split
  case h_4 =>
    rw [elem_at hk ho]
    exact h
  all_goals omega

theorem ethPortReg_txmap {part half : Nat} (hp : part < 64) (hh : half < 2) :
    ethPortReg k (0x800 + 16 * part + 8 * half) = some
      { unit := ethPort k, wide := true, val := fun s => (tget 0 (ethp s k).txmap (2 * part + half)).toNat
        wr := fun _ v s => writeTxmap k part half v s } := by
  have hword : 8 * half % 8 = 0 ∧ 8 * half / 8 = half := by omega
  rw [ethPortReg, elem_at hp (by omega)]
  simp only [hword, if_true]

theorem ethPortReg_rule {n : Nat} (hn : n < 256) : ethPortReg k (0x1008 + 16 * n) = ruleReg k n 8 := by
  rw [show 0x1008 + 16 * n = 0x1000 + 16 * n + 8 by omega, ethPortReg, elem_above (by omega), elem_at hn (by omega)]

theorem ethPortReg_counter {sub i : Nat} (hsub : sub < 8) (hi : i < 17) :
    ethPortReg k (0x2800 + 0x100 * sub + 8 * i) = some (ethCntReg k sub i) := by
  have hword : 8 * i % 8 = 0 ∧ 8 * i < 8 * 17 := by omega
  rw [ethPortReg, elem_above (by omega), elem_above (by omega), elem_above (by omega), elem_at hsub (by omega)]
  simp only [if_pos hword, Nat.mul_div_cancel_left i (by omega : 0 < 8)]

theorem ethPortReg_group {g : Nat} (hg : g < 256) : ethPortReg k (0x3008 + 16 * g) = groupReg k g 8 := by
  rw [show 0x3008 + 16 * g = 0x3000 + 16 * g + 8 by omega, ethPortReg, elem_above (by omega), elem_above (by omega),
    elem_above (by omega), elem_above (by omega), elem_at hg (by omega)]

theorem ethPortReg_policer {i : Nat} (hi : i < 1024) : ethPortReg k (0x4008 + 16 * i) = policerReg k i 8 := by
  rw [show 0x4008 + 16 * i = 0x4000 + 16 * i + 8 by omega, ethPortReg, elem_above (by omega), elem_above (by omega),
    elem_above (by omega), elem_above (by omega), elem_above (by omega), elem_at hi (by omega)]

theorem ethPortReg_queue {n : Nat} (hn : n < 4096) : ethPortReg k (0x8008 + 16 * n) = txqReg k n 8 := by
  rw [show 0x8008 + 16 * n = 0x8000 + 16 * n + 8 by omega, ethPortReg, elem_above (by omega), elem_above (by omega),
    elem_above (by omega), elem_above (by omega), elem_above (by omega), elem_above (by omega), elem_at hn (by omega)]

/-- Below the tables stand the single registers of the port. -/
theorem ethPortReg_single (ho : o < 0x800) : ethPortReg k o = portReg k o := by
  rw [ethPortReg, elem_below (by omega), elem_below (by omega), elem_below (by omega), elem_below (by omega),
    elem_below (by omega), elem_below (by omega), elem_below (by omega)]

end

/-! ## A row of a port -/

theorem writesPort_portAt {who : Requester} {k o size v base n : Nat} {hi : Bool} (hk : k < 8) (ho : o < 0x18000)
    (hb : base ≤ o) (hn : o < base + n) (hhi : hi = true → 8 ≤ o % 16) :
    writesPort (writeAt who (portAt k o) size v) base n hi = true := by
  have hspan : spans o base n = true := spans_iff.mpr ⟨hb, hn⟩
  have hword : (!hi || decide (8 ≤ o % 16)) = true := by
    cases hi with
    | false => rfl
    | true => simpa using hhi rfl
  simp only [writesPort, writeAt, portOffset_portAt hk ho, hspan, hword, Bool.and_self]

section
variable {who : Requester} {k v : Nat} {s : State} (hs : settled s) (hready : s.fw.ready = true) (hcls : who.cls ≠ 1)
  (hk : k < 8)
include hs hready hcls hk

theorem portRow {o : Nat} {r : Reg} {mine : Bool} (hv : v < 2 ^ 32) (ho : o < 0x18000) (hreg : ethPortReg k o = some r)
    (hw : r.wide = false) (ha : o % 4 = 0) (hmine : mine = true) :
    RowWrites (rowAccess mine (writeAt who (portAt k o) 4 v) s) (r.wr who v s) r.unit (portAt k o) who v s := by
  have halign : portAt k o % 4 = 0 := by
    simp only [portAt]
    omega
  exact rowWrites_of_writeWhole hs
    (rowAccess_write hcls hmine (regAt_port hk ho hreg) (windowOpen_of_ready hready _ _) hv hw halign)

section
variable (hv : v < 2 ^ 64)
include hv

theorem portRow_wide {o : Nat} {r : Reg} {mine : Bool} (ho : o < 0x18000) (hreg : ethPortReg k o = some r)
    (hw : r.wide = true) (ha : o % 8 = 0) (hmine : mine = true) :
    RowWrites (rowAccess mine (writeAt who (portAt k o) 8 v) s) (r.wr who v s) r.unit (portAt k o) who v s := by
  have halign : portAt k o % 8 = 0 := by
    simp only [portAt]
    omega
  have hwrite := regWrite_wide (v := v) (windowOpen_of_ready hready who _) (absentFunction_of_cls hcls s) halign
    (regAt_port hk ho hreg) hw (mayWrite_of_cls hcls _)
  rw [Nat.mod_eq_of_lt hv] at hwrite
  refine rowWrites_of_writeWhole hs ?_
  rw [hmine, ← hwrite, ← regAccess_writeAt]
  rfl

theorem ruleWrite_row {n : Nat} (hn : n < 256) :
    RowWrites (exec (.ruleWrite (writeAt who (portAt k (0x1008 + 16 * n)) 8 v)) s) (applyRule k n v s) (ethPort k)
      (portAt k (0x1008 + 16 * n)) who v s :=
  portRow_wide hs hready hcls hk hv (by omega) (ethPortReg_rule hn) rfl (by omega)
    (writesPort_portAt hk (by omega) (by omega) (by omega) (by omega))

theorem policerWrite_row {i : Nat} (hi : i < 1024) :
    RowWrites (exec (.policerWrite (writeAt who (portAt k (0x4008 + 16 * i)) 8 v)) s) (applyPolicer k i v s) (ethPort k)
      (portAt k (0x4008 + 16 * i)) who v s :=
  portRow_wide hs hready hcls hk hv (by omega) (ethPortReg_policer hi) rfl (by omega)
    (writesPort_portAt hk (by omega) (by omega) (by omega) (by omega))

theorem queueWrite_row {n : Nat} (hn : n < 4096) :
    RowWrites (exec (.shaperWrite (writeAt who (portAt k (0x8008 + 16 * n)) 8 v)) s) (some (applyQueue k n v s)) (ethPort k)
      (portAt k (0x8008 + 16 * n)) who v s :=
  portRow_wide hs hready hcls hk hv (by omega) (ethPortReg_queue hn) rfl (by omega)
    (Bool.or_eq_true_iff.mpr (.inr (writesPort_portAt hk (by omega) (by omega) (by omega) (by omega))))

theorem groupWrite_row {g : Nat} (hg : g < 256) :
    RowWrites (exec (.shaperWrite (writeAt who (portAt k (0x3008 + 16 * g)) 8 v)) s) (some (applyGroup k g v s)) (ethPort k)
      (portAt k (0x3008 + 16 * g)) who v s :=
  portRow_wide hs hready hcls hk hv (by omega) (ethPortReg_group hg) rfl (by omega)
    (Bool.or_eq_true_iff.mpr (.inl (writesPort_portAt hk (by omega) (by omega) (by omega) (by omega))))

theorem txmapWrite_row {part half : Nat} (hp : part < 64) (hh : half < 2) :
    RowWrites (exec (.txmapWrite (writeAt who (portAt k (0x800 + 16 * part + 8 * half)) 8 v)) s) (writeTxmap k part half v s)
      (ethPort k) (portAt k (0x800 + 16 * part + 8 * half)) who v s :=
  portRow_wide hs hready hcls hk hv (by omega) (ethPortReg_txmap hp hh) rfl (by omega)
    (writesPort_portAt hk (by omega) (by omega) (by omega) nofun)

theorem ptAdj_row : RowWrites (exec (.ptAdj (writeAt who (portAt k 0x108) 8 v)) s) (some (adjustTime k v s)) (ethPort k)
    (portAt k 0x108) who v s :=
  portRow_wide (r := rw64 (ethPort k) (2 ^ 64 - 1) (fun _ => 0) (fun _ _ => false) (adjustTime k)) hs hready hcls hk hv
    (by omega) (ethPortReg_single (by omega)) rfl (by omega) (writesPort_portAt hk (by omega) (by omega) (by omega) nofun)

theorem counterTopClear_row {sub i : Nat} (hsub : sub < 8) (hi : i < 17) (htop : bit v (cntWidth i - 1) = true) :
    RowWrites (exec (.counterTopClear (writeAt who (portAt k (0x2800 + 0x100 * sub + 8 * i)) 8 v)) s)
      (some (clearTop k sub i s)) (ethPort k) (portAt k (0x2800 + 0x100 * sub + 8 * i)) who v s := by
  have hrow := portRow_wide hs hready hcls hk hv (by omega) (ethPortReg_counter hsub hi) rfl (by omega)
    (writesPort_portAt (who := who) (size := 8) (v := v) (hi := false) hk
      (by omega : 0x2800 + 0x100 * sub + 8 * i < 0x18000) (by omega : 0x2800 ≤ _) (by omega : _ < 0x2800 + 0x800) nofun)
  have hwr : (ethCntReg k sub i).wr who v s = some (clearTop k sub i s) := by
    simp only [ethCntReg, rw64, rw, htop, Bool.false_eq_true, if_false, if_true]
  rw [hwr] at hrow
  exact hrow

end

section
variable (hv : v < 2 ^ 32)
include hv

/-- A row of `PORT_CTL`, for the words it takes. -/
theorem portCtl_row {mine : Bool} (hmine : mine = true) :
    RowWrites (rowAccess mine (writeAt who (portAt k 8) 4 v) s) (some (putPortCtl k v s)) (ethPort k) (portAt k 8) who v s :=
  portRow (r := rw (ethPort k) 0 (fun s => (ethp s k).enable.toNat + 2 ^ 8 * b2n (ethp s k).lowPower) (fun _ _ => false)
    (putPortCtl k)) hs hready hcls hk hv (by omega) (ethPortReg_single (by omega)) rfl (by omega) hmine

theorem ptSnap_row : RowWrites (exec (.ptSnap (writeAt who (portAt k 0x114) 4 v)) s) (some (snapTime k v s)) (ethPort k)
    (portAt k 0x114) who v s :=
  portRow (r := rw (ethPort k) 1 (fun _ => 0) (fun _ _ => false) (snapTime k)) hs hready hcls hk hv
    (by omega) (ethPortReg_single (by omega)) rfl (by omega) (writesPort_portAt hk (by omega) (by omega) (by omega) nofun)

end

end

theorem portCtl_mine {who : Requester} {k v : Nat} (hk : k < 8) : writesPort (writeAt who (portAt k 8) 4 v) 0x8 4 false = true :=
  writesPort_portAt hk (by omega) (by omega) (by omega) nofun

/-! ## What the rows leave -/

section
variable {α : Type} {who : Requester} {k v unit addr : Nat} {s u : State}

theorem setEthp_undisturbed (k : Nat) (p : EthPort) (s : State) : Undisturbed s (setEthp k p s) := ⟨rfl, rfl, rfl, rfl, rfl, rfl⟩

/-- A row whose effect disturbs nothing leaves exactly that effect, remembered. -/
theorem RowWrites.leaves {row : Host.Outcome State Fault Refusal} (h : RowWrites row (some u) unit addr who v s)
    (hs : settled s) (hu : Undisturbed s u) : row = .next (written unit addr who v u) := by
  rw [h.takes, ended_written_of_undisturbed hs hu]

theorem ethp_written (unit addr : Nat) (who : Requester) (v : Nat) (s : State) (k : Nat) :
    ethp (written unit addr who v s) k = ethp s k := ethp_of_eth (congrArg (·.eth) (written_only_regs unit addr who v s)) k

theorem ethp_ended_written (t : State) (k : Nat) : ethp (ended t (written unit addr who v s)) k = ethp s k :=
  (ethp_of_eth (ended_eth _ _) k).trans (ethp_written _ _ _ _ _ _)

/-! ### Groups and queues (R369, R371) -/

/-- Clearing entries of the maps changes the maps alone. -/
theorem dropEntries_eq (gone : Nat → Bool) (p : EthPort) : ∃ m, dropEntries gone p = { p with txmap := m } := by
  have keeps {β : Type} (f : EthPort → β → EthPort) (hf : ∀ p b, ∃ m, f p b = { p with txmap := m }) (l : List β) :
      ∀ p, ∃ m, l.foldl f p = { p with txmap := m } := by
    induction l with
    | nil => exact fun p => ⟨p.txmap, rfl⟩
    | cons b r ih =>
      intro p
      obtain ⟨m, hm⟩ := hf p b
      obtain ⟨m', hm'⟩ := ih (f p b)
      exact ⟨m', by rw [List.foldl_cons, hm', hm]⟩
  refine keeps _ (fun p part => keeps _ (fun p i => ?_) _ p) _ p
  split
  · split
    · exact ⟨_, rfl⟩
    · exact ⟨p.txmap, rfl⟩
  · exact ⟨p.txmap, rfl⟩

theorem group_dropEntries_if (c : Bool) (gone : Nat → Bool) (p : EthPort) :
    (if c then dropEntries gone p else p).group = p.group := by
  obtain ⟨m, hm⟩ := dropEntries_eq gone p
  rw [hm]
  split <;> rfl

theorem txq_dropEntries_if (c : Bool) (gone : Nat → Bool) (p : EthPort) :
    (if c then dropEntries gone p else p).txq = p.txq := by
  obtain ⟨m, hm⟩ := dropEntries_eq gone p
  rw [hm]
  split <;> rfl

/-- A value that a table holds at a number, wherever it holds one there, is what is read when the default entries are gone. -/
theorem tget_filter_ne [DecidableEq α] {d w : α} {t : Tab α} {i : Nat} (h : ∀ e ∈ t, e.1 = i → e.2 = w)
    (hex : w = d ∨ ∃ e ∈ t, e.1 = i) : tget d (t.filter fun e => decide (e.2 ≠ d)) i = w := by
  induction t with
  | nil => simpa [tget, eq_comm] using hex
  | cons e r ih =>
    have hr : ∀ x ∈ r, x.1 = i → x.2 = w := fun x hx => h x (List.mem_cons_of_mem _ hx)
    by_cases hi : e.1 = i
    · have he : e.2 = w := h e List.mem_cons_self hi
      by_cases hd : e.2 = d
      · simpa [hd] using ih hr (.inl (he.symm.trans hd))
      · rw [List.filter_cons_of_pos (by simpa using hd), tget, if_pos hi, he]
    · have hrest : w = d ∨ ∃ x ∈ r, x.1 = i := hex.imp_right fun ⟨x, hx, hxi⟩ =>
        ⟨x, (List.mem_cons.mp hx).resolve_left fun hxe => hi (hxe ▸ hxi), hxi⟩
      by_cases hd : e.2 = d
      · simpa [hd] using ih hr hrest
      · simpa [hd, tget, hi] using ih hr hrest

/-- Refreshing a table entry by entry leaves at a number what it makes of the value written there, or the default. -/
theorem tget_refreshed [DecidableEq α] {d v : α} {f : Nat × α → Nat × α} (hf : ∀ e, (f e).1 = e.1) (t : Tab α) (i : Nat) :
    tget d (((tset d t i v).map f).filter fun e => decide (e.2 ≠ d)) i = if v = d then d else (f (i, v)).2 := by
  unfold tset
  split
  · refine tget_filter_ne (fun e he hi => ?_) (.inl rfl)
    obtain ⟨x, hx, rfl⟩ := List.mem_map.mp he
    exact absurd ((hf x).symm.trans hi) (tdel_fst_ne t i x hx)
  · refine tget_filter_ne (fun e he hi => ?_) (.inr ⟨f (i, v), List.mem_map_of_mem ((mem_tins _ _ _ _).mpr (.inl rfl)), hf _⟩)
    obtain ⟨x, hx, rfl⟩ := List.mem_map.mp he
    obtain rfl | hx := (mem_tins _ _ _ _).mp hx
    · rfl
    · exact absurd ((hf x).symm.trans hi) (tdel_fst_ne t i x hx)

theorem refreshGroup_keeps (p : EthPort) (e : Nat × EthGroup) : (refreshGroup p e).1 = e.1 ∧ (refreshGroup p e).2.w0 = e.2.w0 ∧
    (refreshGroup p e).2.held = e.2.held ∧ (refreshGroup p e).2.w8 = e.2.w8 ∧ (refreshGroup p e).2.b = e.2.b := by
  refine ⟨rfl, ?_⟩
  simp only [refreshGroup]
  split <;> exact ⟨rfl, rfl, rfl, rfl⟩

theorem refreshGroups_txq (p : EthPort) : (refreshGroups p).txq = p.txq := rfl

/-- Bringing the readiness of groups up to date leaves the words and buckets of one that was written. -/
theorem group_refreshed {p q : EthPort} {g : Nat} {x : EthGroup} (h : q.group = tset {} p.group g x) :
    (tget ({} : EthGroup) (refreshGroups q).group g).w0 = x.w0 ∧ (tget ({} : EthGroup) (refreshGroups q).group g).held = x.held ∧
      (tget ({} : EthGroup) (refreshGroups q).group g).w8 = x.w8 ∧ (tget ({} : EthGroup) (refreshGroups q).group g).b = x.b := by
  have hget : tget ({} : EthGroup) (refreshGroups q).group g = if x = {} then {} else (refreshGroup q (g, x)).2 := by
    simp only [refreshGroups, h]
    exact tget_refreshed (fun e => (refreshGroup_keeps q e).1) _ _
  rw [hget]
  split
  · subst x
    exact ⟨rfl, rfl, rfl, rfl⟩
  · exact (refreshGroup_keeps q (g, x)).2

/-- A group with both its words applied and its buckets full. -/
def filledGroup (p : EthPort) (g v : Nat) : EthGroup :=
  { tget ({} : EthGroup) p.group g with
    w0 := (tget ({} : EthGroup) p.group g).held.getD (tget ({} : EthGroup) p.group g).w0
    held := none, w8 := BitVec.ofNat 64 (bits v 0 63), b := fullBuckets p }

/-- A group with its words applied: where it changes its sub-port or its enable, it is not ready until it is looked at again. -/
def writtenGroup (p : EthPort) (g v : Nat) : EthGroup :=
  if groupSub (filledGroup p g v) = groupSub (tget {} p.group g) && groupOn (filledGroup p g v) == groupOn (tget {} p.group g)
  then filledGroup p g v else { filledGroup p g v with ready := false }

theorem writtenGroup_words (p : EthPort) (g v : Nat) : (writtenGroup p g v).w0 = (filledGroup p g v).w0 ∧
    (writtenGroup p g v).held = none ∧ (writtenGroup p g v).w8 = BitVec.ofNat 64 (bits v 0 63) ∧
    (writtenGroup p g v).b = fullBuckets p := by
  unfold writtenGroup
  split <;> exact ⟨rfl, rfl, rfl, rfl⟩

theorem applyGroup_writes (k g v : Nat) (s : State) : ∃ q, applyGroup k g v s = setEthp k (refreshGroups q) s ∧
    q.group = tset {} (ethp s k).group g (writtenGroup (ethp s k) g v) :=
  ⟨_, rfl, group_dropEntries_if _ _ _⟩

/-- What the write of a group's second word leaves of the group. -/
theorem ethGroup_applyGroup (k g v : Nat) (s : State) :
    (ethGroup (applyGroup k g v s) k g).w0 = (ethGroup s k g).held.getD (ethGroup s k g).w0 ∧
      (ethGroup (applyGroup k g v s) k g).held = none ∧ (ethGroup (applyGroup k g v s) k g).w8 = BitVec.ofNat 64 (bits v 0 63) ∧
      (ethGroup (applyGroup k g v s) k g).b = fullBuckets (ethp s k) := by
  obtain ⟨q, hq, hgroup⟩ := applyGroup_writes k g v s
  obtain ⟨hw0, hheld, hw8, hb⟩ := group_refreshed hgroup
  obtain ⟨hx0, hxheld, hx8, hxb⟩ := writtenGroup_words (ethp s k) g v
  rw [hq, ethGroup, ethp_setEthp]
  exact ⟨hw0.trans hx0, hheld.trans hxheld, hw8.trans hx8, hb.trans hxb⟩

/-- A queue with both its words applied and its buckets full. -/
def filledQueue (p : EthPort) (n v : Nat) : EthQueue :=
  { tget ({} : EthQueue) p.txq n with
    w0 := (tget ({} : EthQueue) p.txq n).held.getD (tget ({} : EthQueue) p.txq n).w0
    held := none, w8 := BitVec.ofNat 64 (bits v 0 63), b := fullBuckets p }

/-- A queue with its words applied: one that joins a group with packets takes at least the group's virtual time. -/
def writtenQueue (k n v : Nat) (s : State) : EthQueue :=
  let old := ethQueue s k n
  let new := filledQueue (ethp s k) n v
  let time := (ethGroup s k (queueGroup new)).v
  if (queueOn new && (!queueOn old || queueGroup new != queueGroup old) && !new.pkts.isEmpty) && decide (new.f < time)
  then { new with f := time } else new

theorem writtenQueue_words (k n v : Nat) (s : State) : ∃ f, writtenQueue k n v s = { filledQueue (ethp s k) n v with f := f } := by
  simp only [writtenQueue]
  split
  · exact ⟨_, rfl⟩
  · exact ⟨_, rfl⟩

theorem applyQueue_writes (k n v : Nat) (s : State) : ∃ q, applyQueue k n v s = setEthp k (refreshGroups q) s ∧
    q.txq = tset {} (ethp s k).txq n (writtenQueue k n v s) :=
  ⟨_, rfl, txq_dropEntries_if _ _ _⟩

/-- What the write of a queue's second word leaves of the queue. -/
theorem ethQueue_applyQueue (k n v : Nat) (s : State) :
    (ethQueue (applyQueue k n v s) k n).w0 = (ethQueue s k n).held.getD (ethQueue s k n).w0 ∧
      (ethQueue (applyQueue k n v s) k n).held = none ∧ (ethQueue (applyQueue k n v s) k n).w8 = BitVec.ofNat 64 (bits v 0 63) ∧
      (ethQueue (applyQueue k n v s) k n).pkts = (ethQueue s k n).pkts ∧
      (ethQueue (applyQueue k n v s) k n).b = fullBuckets (ethp s k) := by
  obtain ⟨q, hq, htxq⟩ := applyQueue_writes k n v s
  obtain ⟨f, hf⟩ := writtenQueue_words k n v s
  rw [hq, ethQueue, ethp_setEthp, refreshGroups_txq, htxq, tget_tset_same, hf]
  exact ⟨rfl, rfl, rfl, rfl, rfl⟩

theorem applyGroup_undisturbed (k g v : Nat) (s : State) : Undisturbed s (applyGroup k g v s) := setEthp_undisturbed _ _ s
theorem applyQueue_undisturbed (k n v : Nat) (s : State) : Undisturbed s (applyQueue k n v s) := setEthp_undisturbed _ _ s

theorem writeTxmap_undisturbed {k part half v : Nat} {s u : State} (h : writeTxmap k part half v s = some u) : Undisturbed s u := by
  simp only [writeTxmap, Option.ite_none_right_eq_some, Option.some.injEq] at h
  obtain ⟨-, rfl⟩ := h
  exact setEthp_undisturbed _ _ s

theorem clearTop_count {k sub i : Nat} {s : State} (h : 2 ^ (cntWidth i - 1) ≤ tget 0 (ethSub s k sub).cnt i) :
    tget 0 (ethSub (clearTop k sub i s) k sub).cnt i = tget 0 (ethSub s k sub).cnt i - 2 ^ (cntWidth i - 1) := by
  simp [clearTop, ethSub, setSub, modEthp] at h ⊢
  simp [h]

end

/-- Settles O27: each row ends with what its register makes of the word; what `PORT_CTL` leaves of its port comes from
`putPortCtl_power`. -/
theorem registerRowsOfThePorts : Obligations.RegisterRowsOfThePorts := by
  intro who k v s hs hready hcls hk hv
  refine ⟨fun r hr => ⟨fun hact hq => ?rule, fun hbad => ?ruleRefused⟩, fun i w0 hi hw0 => ⟨fun hpir hpbs => ?policer, fun hbad =>
    ?policerRefused⟩, fun n hn => ?queue, fun g hg => ?group, fun part half hp hh => ⟨fun u hu => ?txmap, fun hu => ?txmapRefused⟩,
    fun hv => ?enable, fun hlow hv => ?sleep, fun hlow hv => ?wake, ?adjust, fun hv hodd => ?snap, fun sub i hsub hi htop => ?counter⟩
  case rule =>
    have hrow := ruleWrite_row hs hready hcls hk hv hr
    rw [applyRule, if_neg (by simpa [hact] using hq)] at hrow
    exact hrow.leaves hs (setEthp_undisturbed _ _ s)
  case ruleRefused =>
    refine (ruleWrite_row hs hready hcls hk hv hr).2 ?_
    rw [applyRule, if_pos (by simpa using hbad)]
  case policer =>
    have hrow := policerWrite_row hs hready hcls hk hv hi
    rw [applyPolicer, ← hw0, if_neg (by omega)] at hrow
    exact hrow.leaves hs (setEthp_undisturbed _ _ s)
  case policerRefused =>
    refine (policerWrite_row hs hready hcls hk hv hi).2 ?_
    rw [applyPolicer, ← hw0, if_pos hbad]
  case queue =>
    refine ⟨_, (queueWrite_row hs hready hcls hk hv hn).leaves hs (applyQueue_undisturbed k n v s), rfl, ?_⟩
    simp only [ethQueue, ethp_written]
    exact ethQueue_applyQueue k n v s
  case group =>
    refine ⟨_, (groupWrite_row hs hready hcls hk hv hg).leaves hs (applyGroup_undisturbed k g v s), rfl, ?_⟩
    simp only [ethGroup, ethp_written]
    exact ethGroup_applyGroup k g v s
  case txmap =>
    have hrow := txmapWrite_row hs hready hcls hk hv hp hh
    rw [hu] at hrow
    exact hrow.leaves hs (writeTxmap_undisturbed hu)
  case txmapRefused => exact (txmapWrite_row hs hready hcls hk hv hp hh).2 hu
  case enable =>
    obtain ⟨he, hl, -, -⟩ := putPortCtl_power k s v
    refine ⟨_, (portCtl_row hs hready hcls hk hv (portCtl_mine hk)).takes, rfl, ?_⟩
    rw [ethp_ended_written]
    exact ⟨he, hl⟩
  case sleep =>
    obtain ⟨-, hl, hp, -⟩ := putPortCtl_power k s v
    have hmine : (writesPort (writeAt who (portAt k 8) 4 v) 0x8 4 false && bit v 8) = true := by simp [portCtl_mine hk, hlow]
    refine ⟨_, (portCtl_row hs hready hcls hk hv hmine).takes, rfl, ?_⟩
    rw [ethp_ended_written]
    exact ⟨hl.trans hlow, hp hlow⟩
  case wake =>
    obtain ⟨-, hl, -, hp⟩ := putPortCtl_power k s v
    have hmine : (writesPort (writeAt who (portAt k 8) 4 v) 0x8 4 false && !bit v 8) = true := by simp [portCtl_mine hk, hlow]
    refine ⟨_, (portCtl_row hs hready hcls hk hv hmine).takes, rfl, ?_⟩
    rw [ethp_ended_written]
    exact ⟨hl.trans hlow, hp hlow⟩
  case adjust => exact (ptAdj_row hs hready hcls hk hv).leaves hs (setEthp_undisturbed _ _ s)
  case snap =>
    have hrow := ptSnap_row hs hready hcls hk hv
    rw [snapTime, if_pos (bit_zero_of_odd hodd)] at hrow
    exact hrow.leaves hs (setEthp_undisturbed _ _ s)
  case counter =>
    refine ⟨_, (counterTopClear_row hs hready hcls hk hv hsub hi htop).leaves hs (setEthp_undisturbed _ _ s), rfl, fun htop => ?_⟩
    simp only [ethSub, ethp_written]
    exact clearTop_count htop

end Sys2Proof.Machine
end

section
/-! PROOFS. What the steps of the Ethernet ports leave of a sub-port (R362, R375, R376). -/

namespace Sys2Proof.Machine

theorem modEthp_modEthp (k : Nat) (f g : EthPort → EthPort) (s : State) :
    modEthp k g (modEthp k f s) = modEthp k (fun p => g (f p)) s := by
  rw [modEthp, modEthp, ethp_setEthp]
  simp only [setEthp, tset_tset]
  rfl

section
variable (k i : Nat) (u v : EthSub) (s : State)

@[simp] theorem ethSub_setSub : ethSub (setSub k i u s) k i = u := by
  rw [ethSub, setSub, modEthp, ethp_setEthp, tget_tset_same]

theorem ethSub_setSub_other {j : Nat} (hj : j ≠ i) : ethSub (setSub k i u s) k j = ethSub s k j := by
  rw [ethSub, setSub, modEthp, ethp_setEthp, tget_tset_other _ _ _ hj]
  rfl

/-- The later of two writes of a sub-port stands. -/
theorem setSub_setSub : setSub k i v (setSub k i u s) = setSub k i v s := by
  rw [setSub, setSub, modEthp_modEthp]
  simp only [tset_tset]
  rfl

end

theorem ethSub_of_eth {s t : State} (h : t.eth = s.eth) (k i : Nat) : ethSub t k i = ethSub s k i := by
  rw [ethSub, ethp_of_eth h]
  rfl

/-! ## Counters -/

/-- A sub-port with `n` more on a counter, which holds at all-ones. -/
def counted (j n : Nat) (u : EthSub) : EthSub :=
  { u with cnt := tset 0 u.cnt j (min (2 ^ cntWidth j - 1) (tget 0 u.cnt j + n)) }

/-- Counting changes the sub-port's counter, and what notes that it is full or half full. -/
theorem ethCount_eq (k i j n : Nat) (s : State) : ∃ e q, ethCount k i j n s =
    { (if n = 0 then s else setSub k i (counted j n (ethSub s k i)) s) with
      eth := { (if n = 0 then s else setSub k i (counted j n (ethSub s k i)) s).eth with err := e }
      saf := { s.saf with todo := q } } := by
  simp only [ethCount]
  split
  · exact ⟨s.eth.err, s.saf.todo, rfl⟩
  · split <;> split <;> exact ⟨_, _, rfl⟩

section
variable (k i j n : Nat) (s : State)

theorem ethp_ethCount (x : Nat) :
    ethp (ethCount k i j n s) x = ethp (if n = 0 then s else setSub k i (counted j n (ethSub s k i)) s) x := by
  obtain ⟨e, q, h⟩ := ethCount_eq k i j n s
  rw [h]
  rfl

theorem ethSub_ethCount : ethSub (ethCount k i j n s) k i = if n = 0 then ethSub s k i else counted j n (ethSub s k i) := by
  rw [ethSub, ethp_ethCount]
  split
  · rfl
  · exact ethSub_setSub k i _ s

/-- A counter goes up and holds at all-ones. -/
theorem cnt_ethCount : tget 0 (ethSub (ethCount k i j n s) k i).cnt j =
    if n = 0 then tget 0 (ethSub s k i).cnt j else min (2 ^ cntWidth j - 1) (tget 0 (ethSub s k i).cnt j + n) := by
  rw [ethSub_ethCount]
  split
  · rfl
  · exact tget_tset_same _ _ _ _

theorem cnt_ethCount_other {m : Nat} (hm : m ≠ j) :
    tget 0 (ethSub (ethCount k i j n s) k i).cnt m = tget 0 (ethSub s k i).cnt m := by
  rw [ethSub_ethCount]
  split
  · rfl
  · exact tget_tset_other _ _ _ hm

end

/-- What a port's steps keep of it: its registers, its queues and rules, and of each sub-port all but the counters. -/
structure SamePort (s t : State) : Prop where
  port : ∀ k, ∃ m, ethp t k = { ethp s k with sub := m }
  mac : ∀ k i, (ethSub t k i).mac = (ethSub s k i).mac
  link : ∀ k i, (ethSub t k i).link = (ethSub s k i).link
  tx : ∀ k i, (ethSub t k i).tx = (ethSub s k i).tx

theorem SamePort.refl (s : State) : SamePort s s := ⟨fun _ => ⟨_, rfl⟩, fun _ _ => rfl, fun _ _ => rfl, fun _ _ => rfl⟩

theorem SamePort.trans {s t u : State} (h : SamePort s t) (k : SamePort t u) : SamePort s u := by
  refine ⟨fun x => ?_, fun x i => (k.mac x i).trans (h.mac x i), fun x i => (k.link x i).trans (h.link x i),
    fun x i => (k.tx x i).trans (h.tx x i)⟩
  obtain ⟨m, hm⟩ := h.port x
  obtain ⟨n, hn⟩ := k.port x
  exact ⟨n, by rw [hn, hm]⟩

theorem ethCount_samePort (k i j n : Nat) (s : State) : SamePort s (ethCount k i j n s) := by
  by_cases hn : n = 0
  · rw [ethCount, if_pos hn]
    exact .refl s
  · have hp (x : Nat) : ethp (ethCount k i j n s) x = ethp (setSub k i (counted j n (ethSub s k i)) s) x := by
      rw [ethp_ethCount, if_neg hn]
    have hport (x : Nat) : ∃ m, ethp (ethCount k i j n s) x = { ethp s x with sub := m } := by
      rw [hp, setSub, modEthp]
      by_cases hx : x = k
      · rw [hx, ethp_setEthp]
        exact ⟨_, rfl⟩
      · rw [ethp_setEthp_other _ _ _ _ hx]
        exact ⟨_, rfl⟩
    have hsub (x y : Nat) : ethSub (ethCount k i j n s) x y = ethSub s x y ∨
        x = k ∧ y = i ∧ ethSub (ethCount k i j n s) x y = counted j n (ethSub s k i) := by
      rw [ethSub, hp]
      by_cases hx : x = k
      · by_cases hy : y = i
        · exact .inr ⟨hx, hy, by rw [hx, hy]; exact ethSub_setSub k i _ s⟩
        · exact .inl (by rw [hx]; exact ethSub_setSub_other k i _ s hy)
      · rw [setSub, modEthp, ethp_setEthp_other _ _ _ _ hx]
        exact .inl rfl
    refine ⟨hport, fun x y => ?_, fun x y => ?_, fun x y => ?_⟩
    all_goals
      obtain h | ⟨rfl, rfl, h⟩ := hsub x y
      · rw [h]
      · rw [h]
        rfl

end Sys2Proof.Machine
end
section
/-! PROOFS. Frames received (R363 to R368, R380). -/

namespace Sys2Proof.Machine

/-! ## What the checks of a frame look at -/

section
variable {s t : State} (h : SamePort s t) (k i : Nat)
include h

theorem SamePort.cfg : (ethp t k).cfg = (ethp s k).cfg := by
  obtain ⟨m, hm⟩ := h.port k
  rw [hm]

theorem SamePort.rule : (ethp t k).rule = (ethp s k).rule := by
  obtain ⟨m, hm⟩ := h.port k
  rw [hm]

theorem SamePort.addressOk (dst : List Byte) : addressOk t k i dst = addressOk s k i dst := by
  simp only [Machine.addressOk, subMac, h.cfg, h.mac]

theorem SamePort.classify (l : L2) : classify (ethp t k) l = classify (ethp s k) l := by
  simp only [Machine.classify, h.cfg, h.rule]

end

theorem slice_eq_take {bs : List Byte} {n : Nat} (h : n ≤ bs.length) : slice bs 0 n = bs.take n := by
  have hlen : (bs.take n).length = n := by simp [h]
  have hpart := slice_append_left (bs.take n) (bs.drop n)
  rwa [List.take_append_drop, hlen] at hpart

/-! ## A frame on a sub-port that is up -/

section
variable {k i : Nat} {wire : List Byte} {corr uncorr : Nat} {s : State}

/-- A frame with its codewords counted (R375). -/
def fecCounted (k i corr uncorr : Nat) (s : State) : State := ethCount k i 15 uncorr (ethCount k i 14 corr s)

/-- A good frame of a good length, counted with its bytes. -/
def goodCounted (k i corr uncorr len : Nat) (s : State) : State := ethCount k i 1 1 (ethCount k i 0 len (fecCounted k i corr uncorr s))

theorem fecCounted_samePort (k i corr uncorr : Nat) (s : State) : SamePort s (fecCounted k i corr uncorr s) :=
  (ethCount_samePort _ _ _ _ s).trans (ethCount_samePort _ _ _ _ _)

theorem goodCounted_samePort (k i corr uncorr len : Nat) (s : State) : SamePort s (goodCounted k i corr uncorr len s) :=
  (fecCounted_samePort _ _ _ _ s).trans ((ethCount_samePort _ _ _ _ _).trans (ethCount_samePort _ _ _ _ _))

theorem goodCounted_leaves (k i corr uncorr len : Nat) (s : State) : Leaves s (goodCounted k i corr uncorr len s) :=
  ((ethCount_leaves _ _ _ _ s).trans (ethCount_leaves _ _ _ _ _)).trans
    ((ethCount_leaves _ _ _ _ _).trans (ethCount_leaves _ _ _ _ _))

variable (hlow : (ethp s k).power ≠ .low) (hent : (ethp s k).power ≠ .entering) (hup : (ethSub s k i).link = .up)
  (hin : inService s (ethPort k) = true)
include hlow hent hup hin

theorem frameReceive_bad (hbad : uncorr ≠ 0 ∨ wire.drop (wire.length - 4) ≠ fcsOf (wire.take (wire.length - 4))) :
    frameReceive k i wire corr uncorr s = ethCount k i 2 1 (fecCounted k i corr uncorr s) := by
  have hgood : (uncorr == 0 && wire.drop (wire.length - 4) == fcsOf (wire.take (wire.length - 4))) = false := by
    simpa [imp_iff_not_or] using hbad
  simp [frameReceive, hlow, hent, hup, hin, hgood, fecCounted]

section
variable (hun : uncorr = 0) (hfcs : wire.drop (wire.length - 4) = fcsOf (wire.take (wire.length - 4)))
include hun hfcs

theorem frameReceive_length (hlen : wire.length < 64 ∨ maxFrame (ethp s k) < wire.length) :
    frameReceive k i wire corr uncorr s = ethCount k i 3 1 (fecCounted k i corr uncorr s) := by
  have hlen' : wire.length < 64 ∨ wire.length > maxFrame (ethp s k) := hlen
  simp only [frameReceive, hlow, hent, hup, hin, hun, hfcs, beq_self_eq_true, Bool.and_self, if_false, ne_eq,
    not_true_eq_false, Bool.not_true, Bool.false_eq_true, or_self, if_pos hlen', fecCounted]

variable (h64 : 64 ≤ wire.length) (hmax : wire.length ≤ maxFrame (ethp s k))
include h64 hmax

theorem frameReceive_good : frameReceive k i wire corr uncorr s =
    if addressOk s k i ((wire.take (wire.length - 4)).take 6) = false then
      ethCount k i 4 1 (goodCounted k i corr uncorr wire.length s)
    else if (readL2 (wire.take (wire.length - 4))).etype = 0x8808 then
      ethCount k i 5 1 (goodCounted k i corr uncorr wire.length s)
    else disposeFrame k i (wire.take (wire.length - 4)) (goodCounted k i corr uncorr wire.length s) := by
  have hlen : ¬ (wire.length < 64 ∨ wire.length > maxFrame (ethp s k)) := by omega
  have hdst : slice (wire.take (wire.length - 4)) 0 6 = (wire.take (wire.length - 4)).take 6 := by
    refine slice_eq_take ?_
    rw [List.length_take]
    omega
  have haddr := (goodCounted_samePort k i corr uncorr wire.length s).addressOk k i ((wire.take (wire.length - 4)).take 6)
  subst hun
  rw [goodCounted, fecCounted] at haddr
  simp only [frameReceive, hlow, hent, hup, hin, hfcs, beq_self_eq_true, Bool.and_self, if_false, ne_eq,
    not_true_eq_false, Bool.not_true, Bool.false_eq_true, or_self, if_neg hlen, hdst, haddr, Bool.not_eq_true', goodCounted,
    fecCounted]

/-- A frame that goes on to the rules, where no policer is named (R364, R367). -/
theorem frameReceive_classified (haddr : addressOk s k i ((wire.take (wire.length - 4)).take 6) = true)
    (hpause : (readL2 (wire.take (wire.length - 4))).etype ≠ 0x8808)
    (hpol : (classify (ethp s k) (readL2 (wire.take (wire.length - 4)))).policer = none) :
    frameReceive k i wire corr uncorr s =
      if (classify (ethp s k) (readL2 (wire.take (wire.length - 4)))).dest = 0 then
        if isTransport s (readL2 (wire.take (wire.length - 4))) then
          toShuttle k (wire.take (wire.length - 4)) (goodCounted k i corr uncorr wire.length s)
        else ethCount k i 8 1 (goodCounted k i corr uncorr wire.length s)
      else if (classify (ethp s k) (readL2 (wire.take (wire.length - 4)))).dest = 1 then
        toRxq k i (classify (ethp s k) (readL2 (wire.take (wire.length - 4)))) 0 (wire.take (wire.length - 4))
          (goodCounted k i corr uncorr wire.length s)
      else ethCount k i 7 1 (goodCounted k i corr uncorr wire.length s) := by
  have hclass := (goodCounted_samePort k i corr uncorr wire.length s).classify k (readL2 (wire.take (wire.length - 4)))
  have htransport : isTransport (goodCounted k i corr uncorr wire.length s) (readL2 (wire.take (wire.length - 4))) =
      isTransport s (readL2 (wire.take (wire.length - 4))) := by
    have hsht : (goodCounted k i corr uncorr wire.length s).sht.udpPort = s.sht.udpPort :=
      congrArg (·.sht.udpPort) (goodCounted_leaves k i corr uncorr wire.length s).transmits
    simp only [isTransport, hsht]
  rw [frameReceive_good hlow hent hup hin hun hfcs h64 hmax, haddr, if_neg (by simp), if_neg hpause]
  simp only [disposeFrame, hclass, policeFrame, hpol, htransport, Bool.false_eq_true, if_false]

end

end

theorem exec_ethFrameReceive {k i corr uncorr : Nat} {wire : List Byte} {s t : State} (h : frameReceive k i wire corr uncorr s = t) :
    exec (.ethFrameReceive k i wire corr uncorr) s = .next (ended s t) := by
  rw [← h]
  rfl

theorem inbox_toShuttle (k : Nat) (frame : List Byte) (s : State) :
    (toShuttle k frame s).sht.inbox = s.sht.inbox ++ [(k, frame)] := by
  rw [toShuttle, (worked_leaves _ _ _).transmits, (bump_leaves _ _ _ _).transmits]

theorem inbox_goodCounted (k i corr uncorr len : Nat) (s : State) : (goodCounted k i corr uncorr len s).sht.inbox = s.sht.inbox :=
  congrArg (·.sht.inbox) (goodCounted_leaves k i corr uncorr len s).transmits

end Sys2Proof.Machine
end

section
/-! PROOFS. Frames sent and ended, and ETH_SEND (R369, R370, R373 to R375). -/

namespace Sys2Proof.Machine

/-! ## TX_FRAME_START (R369, R373) -/

section
variable {k i buffered supplied n : Nat} {pkt : TxPacket} {p : EthPort} {s : State}

theorem frameStart_idle (h : sendsOn s k i = false ∨ serveRoot (ethp s k) i = none) : frameStart k i buffered supplied s = s := by
  obtain h | h := h
  · simp [frameStart, h]
  · simp [frameStart, h]

theorem frameStart_waits (h : serveRoot (ethp s k) i = some (n, pkt, p)) (hw : pkt.whole = false)
    (hb : buffered < min (2 ^ startLog2 (tget {} p.txq n)) (pkt.frame.length + 4)) : frameStart k i buffered supplied s = s := by
  have hwait : (!pkt.whole && decide (buffered < min (2 ^ startLog2 (tget {} p.txq n)) (pkt.frame.length + 4))) = true := by
    rw [hw, decide_eq_true hb]
    rfl
  simp only [frameStart, h, hwait, if_true, ite_self]

/-- A packet that is staged whole starts, with its FCS behind it. -/
theorem frameStart_whole (hs : sendsOn s k i = true) (h : serveRoot (ethp s k) i = some (n, pkt, p)) (hw : pkt.whole = true) :
    frameStart k i buffered supplied s = emit (.frame k i (pkt.frame ++ fcsOf pkt.frame) false)
      (setSub k i { ethSub (setEthp k p s) k i with tx := some { pkt := pkt, start := p.ptime, cut := false } } (setEthp k p s)) := by
  simp [frameStart, hs, h, hw]

theorem exec_txFrameStart_whole (hset : settled s) (hs : sendsOn s k i = true) (h : serveRoot (ethp s k) i = some (n, pkt, p))
    (hw : pkt.whole = true) : ∃ t, exec (.txFrameStart k i buffered supplied) s = .next t ∧
      t.out = s.out ++ [.frame k i (pkt.frame ++ fcsOf pkt.frame) false] ∧
      (ethSub t k i).tx = some { pkt := pkt, start := (ethp t k).ptime, cut := false } ∧ (ethp t k).txq = p.txq := by
  have hstart := frameStart_whole (buffered := buffered) (supplied := supplied) hs h hw
  generalize hu : ({ ethSub (setEthp k p s) k i with tx := some { pkt := pkt, start := p.ptime, cut := false } } : EthSub) = u at hstart
  have hrun : exec (.txFrameStart k i buffered supplied) s =
      .next (emit (.frame k i (pkt.frame ++ fcsOf pkt.frame) false) (setSub k i u (setEthp k p s))) := by
    rw [exec, execTxFrameStart, hstart]
    exact ends_undisturbed hset (((setEthp_undisturbed k p s).trans (setEthp_undisturbed _ _ _)).trans (emit_undisturbed _ _))
  refine ⟨_, hrun, rfl, ?_, ?_⟩
  · rw [ethSub_of_eth (emit_eth _ _), ethSub_setSub, ethp_of_eth (emit_eth _ _), setSub, modEthp, ethp_setEthp, ethp_setEthp, ← hu]
  · rw [ethp_of_eth (emit_eth _ _), setSub, modEthp, ethp_setEthp, ethp_setEthp]

end

/-! ## TX_FRAME_END (R374, R375) -/

section
variable {k i : Nat} {s : State} {f : TxFrame}

/-- A whole frame that has left is counted, and its command ends. -/
theorem frameEnd_whole (hf : (ethSub s k i).tx = some f) (hcut : f.cut = false) (hud : f.pkt.ud = false) : frameEnd k i s =
    endPacket f.pkt .ok (sendResult f) (ethCount k i 11 1 (ethCount k i 10 (f.pkt.frame.length + 4)
      (setSub k i { ethSub s k i with tx := none } s))) := by
  simp [frameEnd, hf, hcut, hud]

theorem endPacket_uncommanded {pkt : TxPacket} (h : pkt.cmd = none) (st : Status) (res : List Nat) (s : State) :
    endPacket pkt st res s = s := by simp [endPacket, h]

/-- A command of ETH_SEND ends with its packet. -/
theorem endPacket_completes {pkt : TxPacket} {r : CmdRef} (h : pkt.cmd = some r) (hud : pkt.ud = false) (hqp : pkt.qp = none)
    (st : Status) (res : List Nat) (s : State) : endPacket pkt st res s = completeRef r st res pkt.unit
      { s with sht := { s.sht with ops := s.sht.ops.filter fun o => o.cmd != some r } } := by
  simp [endPacket, h, stillOwed, hud, hqp]

theorem sendResult_eq (f : TxFrame) :
    sendResult f = if f.pkt.tstamp then [f.start.toNat % 2 ^ 32, f.start.toNat / 2 ^ 32] else [0, 0] := by
  have hw : f.start.toNat / 2 ^ 32 % 2 ^ 32 = f.start.toNat / 2 ^ 32 := Nat.mod_eq_of_lt (by omega)
  simp only [sendResult, bits]
  split
  · rw [hw, pow_zero, Nat.div_one]
  · rfl

/-- What the end of a whole frame leaves of its sub-port. -/
theorem frameEnd_counts (hf : (ethSub s k i).tx = some f) (hcut : f.cut = false) (hud : f.pkt.ud = false) :
    (ethSub (frameEnd k i s) k i).tx = none ∧
      tget 0 (ethSub (frameEnd k i s) k i).cnt 10 =
        min (2 ^ 48 - 1) (tget 0 (ethSub s k i).cnt 10 + (f.pkt.frame.length + 4)) ∧
      tget 0 (ethSub (frameEnd k i s) k i).cnt 11 = min (2 ^ 40 - 1) (tget 0 (ethSub s k i).cnt 11 + 1) := by
  rw [frameEnd_whole hf hcut hud, ethSub_of_eth (endPacket_endsWork _ _ _ _).eth, (ethCount_samePort _ _ _ _ _).tx,
    (ethCount_samePort _ _ _ _ _).tx, ethSub_setSub, cnt_ethCount_other _ _ _ _ _ (by omega), cnt_ethCount, cnt_ethCount,
    cnt_ethCount_other _ _ _ _ _ (by omega), ethSub_setSub]
  exact ⟨rfl, rfl, rfl⟩

theorem Transmits.jcq {s t : State} (h : Transmits s t) : t.jcq = s.jcq := congrArg (·.jcq) h

/-- A whole frame without a command gives no outcome. -/
theorem frameEnd_uncommanded (hf : (ethSub s k i).tx = some f) (hcut : f.cut = false) (hud : f.pkt.ud = false)
    (hcmd : f.pkt.cmd = none) : (frameEnd k i s).jcq = s.jcq := by
  rw [frameEnd_whole hf hcut hud, endPacket_uncommanded hcmd]
  exact ((ethCount_leaves _ _ _ _ _).trans (ethCount_leaves _ _ _ _ _)).transmits.jcq

/-- The command of a whole frame that has left completes with its time. -/
theorem frameEnd_completes {r : CmdRef} (hf : (ethSub s k i).tx = some f) (hcut : f.cut = false) (hud : f.pkt.ud = false)
    (hqp : f.pkt.qp = none) (hcmd : f.pkt.cmd = some r) (hlive : ∃ l ∈ s.jcq.live, l.ref = r) :
    ∃ e, (frameEnd k i s).jcq.done = s.jcq.done ++ [e] ∧ e.ref = r ∧ e.status = .ok ∧ e.result = sendResult f := by
  have hjcq := ((ethCount_leaves k i 10 (f.pkt.frame.length + 4) (setSub k i { ethSub s k i with tx := none } s)).trans
    (ethCount_leaves k i 11 1 _)).transmits.jcq
  rw [frameEnd_whole hf hcut hud, endPacket_completes hcmd hud hqp]
  have hlast (t : State) (ht : t.jcq = s.jcq) : ∃ e, (completeRef r .ok (sendResult f) f.pkt.unit t).jcq.done = s.jcq.done ++ [e] ∧
      e.ref = r ∧ e.status = .ok ∧ e.result = sendResult f := by
    rw [← ht]
    exact completeRef_last _ _ _ (by rw [ht]; exact hlive)
  exact hlast _ hjcq

theorem exec_txFrameEnd_whole (hf : (ethSub s k i).tx = some f) (hcut : f.cut = false) (hud : f.pkt.ud = false)
    (hqp : f.pkt.qp = none) (hlive : ∀ r, f.pkt.cmd = some r → ∃ l ∈ s.jcq.live, l.ref = r) :
    ∃ t, exec (.txFrameEnd k i) s = .next t ∧ (ethSub t k i).tx = none ∧
      tget 0 (ethSub t k i).cnt 10 = min (2 ^ 48 - 1) (tget 0 (ethSub s k i).cnt 10 + (f.pkt.frame.length + 4)) ∧
      tget 0 (ethSub t k i).cnt 11 = min (2 ^ 40 - 1) (tget 0 (ethSub s k i).cnt 11 + 1) ∧
      (f.pkt.cmd = none → t.jcq.done = s.jcq.done) ∧
      ∀ r, f.pkt.cmd = some r → ∃ e, t.jcq.done = s.jcq.done ++ [e] ∧ e.ref = r ∧ e.status = .ok ∧
        e.result = if f.pkt.tstamp then [f.start.toNat % 2 ^ 32, f.start.toNat / 2 ^ 32] else [0, 0] := by
  obtain ⟨htx, hbytes, hframes⟩ := frameEnd_counts hf hcut hud
  refine ⟨ended s (frameEnd k i s), rfl, ?_⟩
  rw [ethSub_of_eth (ended_eth s _), ended_done, ← sendResult_eq]
  exact ⟨htx, hbytes, hframes, fun hcmd => congrArg (·.done) (frameEnd_uncommanded hf hcut hud hcmd),
    fun r hcmd => frameEnd_completes hf hcut hud hqp hcmd (hlive r hcmd)⟩

end

/-! ## ETH_SEND (R374) -/

section
variable {c : Cmd} {s : State} {k n : Nat} (hk : k = param c 16 1 0 3) (hn : n = param c 18 2 0 12) (ha : admits descEthSend c s)
  (h60 : 60 ≤ cmdLength c) (hmax : cmdLength c + 4 ≤ maxFrame (ethp s k)) (hon : queueOn (ethQueue s k n) = true)
  (hpart : groupPart (ethGroup s k (queueGroup (ethQueue s k n))) = 0)
  (hup : (ethSub s k (groupSub (ethGroup s k (queueGroup (ethQueue s k n))))).link = .up)
include hk hn ha h60 hmax hon hpart hup

/-- Every check of ETH_SEND passes: it joins its queue, or waits where the queue has no room or an earlier one waits. -/
theorem exec_ethSend : exec (.ethSend c) s = ends s (if !queueRoom (begun c s) k n || ethHeld c (begun c s) then holdCmd c (begun c s)
    else
      let x := if isInline c then (turn c s, .ok, inlineBytes c)
        else bufRead (ethPort k) c.part (param c 22 2 0 16) (fieldLE c.packet 24 8) (cmdLength c) c.ext (turn c s)
      if x.2.1 = .ok then enqueue k n { frame := x.2.2, cmd := some (cmdRef c), tstamp := param c 20 1 0 1 == 1, whole := true
                                        unit := ethPort k } x.1
      else complete c x.2.1 [] (ethPort k) x.1) := by
  subst hk hn
  rw [exec, execEthSend]
  refine runCmd_passes descEthSend c _ s _ ha.1 ha.2 ?_
  simp only [List.forall_mem_cons, List.not_mem_nil, false_imp_iff, implies_true, and_true]
  exact ⟨by simp; omega, by simp [hon, hpart], by simp [hup]⟩

theorem exec_ethSend_waits (hs : settled s) (hwait : 32 ≤ (ethQueue s k n).pkts.length ∨ ethHeld c s = true) :
    exec (.ethSend c) s = .next (holdCmd c (begun c s)) := by
  have hc : (!queueRoom (begun c s) k n || ethHeld c (begun c s)) = true := by
    have hroom : queueRoom (begun c s) k n = decide ((ethQueue s k n).pkts.length < 32) := rfl
    have hheld : ethHeld c (begun c s) = ethHeld c s := rfl
    rw [hroom, hheld]
    simpa using hwait
  rw [exec_ethSend hk hn ha h60 hmax hon hpart hup, hc, if_pos rfl]
  exact ends_undisturbed hs ((begun_undisturbed c s).trans (holdCmd_undisturbed c _))

theorem exec_ethSend_goes (hroom : (ethQueue s k n).pkts.length < 32) (hheld : ethHeld c s = false) {x : State × Status × List Byte}
    (hx : (if isInline c then (turn c s, .ok, inlineBytes c)
      else bufRead (ethPort k) c.part (param c 22 2 0 16) (fieldLE c.packet 24 8) (cmdLength c) c.ext (turn c s)) = x) :
    exec (.ethSend c) s = .next (ended s (if x.2.1 = .ok then
      enqueue k n { frame := x.2.2, cmd := some (cmdRef c), tstamp := param c 20 1 0 1 == 1, whole := true, unit := ethPort k } x.1
      else complete c x.2.1 [] (ethPort k) x.1)) := by
  have hc : (!queueRoom (begun c s) k n || ethHeld c (begun c s)) = false := by
    have hroom' : queueRoom (begun c s) k n = decide ((ethQueue s k n).pkts.length < 32) := rfl
    have hheld' : ethHeld c (begun c s) = ethHeld c s := rfl
    rw [hroom', hheld', hheld]
    simpa using hroom
  rw [exec_ethSend hk hn ha h60 hmax hon hpart hup, hc, hx]
  rfl

end

end Sys2Proof.Machine
end

section
/-! PROOFS. Links of sub-ports, and the management MAC (R359, R362, R380 to R382). -/

namespace Sys2Proof.Machine

/-! ## Links (R362) -/

section
variable {k i : Nat} {s : State}

/-- A sub-port of an enabled port that trains comes up; the first one after a wake brings the port up with it. -/
theorem linkUp_comes (htrain : (ethSub s k i).link = .training ∨ (ethSub s k i).link = .down) (hen : subEnabled s k i = true)
    (hpow : (ethp s k).power = .active ∨ (ethp s k).power = .waking) : linkUp k i s =
      if (ethp s k).woken then setSub k i { ethSub s k i with link := .up, eq := true } s
      else report (.event 0 0x09 .ok (ethPort k) 0 (powerInfo (setSub k i { ethSub s k i with link := .up, eq := true } s)))
        (modEthp k (fun p => { p with woken := true, power := .active })
          (setSub k i { ethSub s k i with link := .up, eq := true } s)) := by
  have ht : ((ethSub s k i).link == .training || (ethSub s k i).link == .down) = true := by
    obtain h | h := htrain <;> rw [h] <;> rfl
  have hp : ((ethp s k).power == .entering || (ethp s k).power == .low) = false := by
    obtain h | h := hpow <;> rw [h] <;> rfl
  simp only [linkUp, ht, hen, Bool.not_true, Bool.false_or, hp, Bool.false_eq_true, if_false]

theorem ethSub_modEthp_of_sub {f : EthPort → EthPort} (h : ∀ p, (f p).sub = p.sub) (k i : Nat) (s : State) :
    ethSub (modEthp k f s) k i = ethSub s k i := by
  rw [ethSub, modEthp, ethp_setEthp, h]
  rfl

theorem exec_subportLinkUp_comes (htrain : (ethSub s k i).link = .training ∨ (ethSub s k i).link = .down)
    (hen : subEnabled s k i = true) (hpow : (ethp s k).power = .active ∨ (ethp s k).power = .waking) : ∃ t,
      exec (.subportLinkUp k i) s = .next t ∧ (ethSub t k i).link = .up ∧ (ethSub t k i).eq = true ∧
      (∀ j, j ≠ i → ethSub t k j = ethSub s k j) ∧ ((ethp s k).woken = true → (ethp t k).power = (ethp s k).power) ∧
      ((ethp s k).woken = false → (ethp t k).power = .active ∧ (ethp t k).woken = true) := by
  refine ⟨ended s (linkUp k i s), rfl, ?_⟩
  simp only [ethSub_of_eth (ended_eth s _), ethp_of_eth (ended_eth s _)]
  rw [linkUp_comes htrain hen hpow]
  have hwoken (t : State) (j : Nat) : ethSub (modEthp k (fun p => { p with woken := true, power := .active }) t) k j = ethSub t k j :=
    ethSub_modEthp_of_sub (f := fun p => { p with woken := true, power := .active }) (fun _ => rfl) k j t
  split
  · rename_i hw
    rw [ethSub_setSub]
    refine ⟨rfl, rfl, fun j hj => ethSub_setSub_other _ _ _ _ hj, fun _ => ?_, fun h => by simp [hw] at h⟩
    rw [setSub, modEthp, ethp_setEthp]
  · rename_i hw
    simp only [ethSub_of_eth (report_eth _ _), ethp_of_eth (report_eth _ _), hwoken]
    rw [ethSub_setSub]
    refine ⟨rfl, rfl, fun j hj => ethSub_setSub_other _ _ _ _ hj, fun h => absurd h hw, fun _ => ?_⟩
    rw [modEthp, ethp_setEthp]
    exact ⟨rfl, rfl⟩

theorem noteFlush_samePort (k i : Nat) (gone : List TxPacket) (s : State) : SamePort s (noteFlush k i gone s) := by
  have herr (e : Nat) (t : State) : SamePort t (ethErr e t) := ⟨fun _ => ⟨_, rfl⟩, fun _ _ => rfl, fun _ _ => rfl, fun _ _ => rfl⟩
  unfold noteFlush
  split
  · exact ethCount_samePort _ _ _ _ s
  · exact (ethCount_samePort _ _ _ _ s).trans (herr 1 _)

/-- Giving up the packets of a sub-port leaves its link and the frame on the wire. -/
theorem ethSub_flushSub (k i : Nat) (s : State) : (ethSub (flushSub k i s) k i).link = (ethSub s k i).link ∧
    (ethSub (flushSub k i s) k i).tx = (ethSub s k i).tx := by
  have hends := foldl_related (R := EndsWork) .refl .trans (fun s pkt => endPacket_endsWork pkt .aborted [] s)
    (waitingOn (ethp s k) i) (noteFlush k i (waitingOn (ethp s k) i) (setEthp k (flushedPort (ethp s k) i) s))
  have hflushed : ethSub (setEthp k (flushedPort (ethp s k) i) s) k i = ethSub s k i := by
    rw [ethSub, ethp_setEthp]
    rfl
  rw [flushSub_eq, ethSub_of_eth hends.eth, (noteFlush_samePort _ _ _ _).link, (noteFlush_samePort _ _ _ _).tx, hflushed]
  exact ⟨rfl, rfl⟩

variable (hup : (ethSub s k i).link = .up)
include hup

theorem linkDown_idle (h : (ethSub s k i).tx = none) :
    linkDown k i s = flushSub k i (setSub k i { ethSub s k i with link := .down } s) := by
  simp [linkDown, setLink, hup, h]

/-- The frame on the wire is given up too. -/
theorem linkDown_sending {f : TxFrame} (h : (ethSub s k i).tx = some f) : linkDown k i s =
    flushSub k i (endPacket f.pkt .aborted [] (setSub k i { ethSub s k i with link := .down, tx := none } s)) := by
  simp [linkDown, setLink, hup, h, setSub_setSub]

theorem ethSub_linkDown : (ethSub (linkDown k i s) k i).link = .down ∧ (ethSub (linkDown k i s) k i).tx = none := by
  cases h : (ethSub s k i).tx with
  | none =>
    rw [linkDown_idle hup h, (ethSub_flushSub _ _ _).1, (ethSub_flushSub _ _ _).2, ethSub_setSub]
    exact ⟨rfl, h⟩
  | some f =>
    rw [linkDown_sending hup h, (ethSub_flushSub _ _ _).1, (ethSub_flushSub _ _ _).2,
      ethSub_of_eth (endPacket_endsWork _ _ _ _).eth, ethSub_setSub]
    exact ⟨rfl, rfl⟩

theorem exec_subportLinkDown_goes : ∃ t, exec (.subportLinkDown k i) s = .next t ∧
    (ethSub t k i).link = .down ∧ (ethSub t k i).tx = none ∧ ((ethSub s k i).tx = none →
      t = ended s (flushSub k i (setSub k i { ethSub s k i with link := .down } s))) ∧
    ∀ f, (ethSub s k i).tx = some f → t = ended s (flushSub k i (endPacket f.pkt .aborted []
      (setSub k i { ethSub s k i with link := .down, tx := none } s))) := by
  refine ⟨ended s (linkDown k i s), rfl, ?_⟩
  rw [ethSub_of_eth (ended_eth s _)]
  exact ⟨(ethSub_linkDown hup).1, (ethSub_linkDown hup).2, fun h => by rw [linkDown_idle hup h],
    fun f h => by rw [linkDown_sending hup h]⟩

end

/-! ## The management MAC (R381, R382) -/

theorem eth_undisturbed (e : EthState) (s : State) : Undisturbed s { s with eth := e } := ⟨rfl, rfl, rfl, rfl, rfl, rfl⟩

theorem mgmtReceive_eq (wire : List Byte) (s : State) : mgmtReceive wire s =
    if s.eth.mgmtEnable = true ∧ 64 ≤ wire.length ∧ wire.length ≤ 1522 ∧
        wire.drop (wire.length - 4) = fcsOf (wire.take (wire.length - 4))
    then { s with eth := { s.eth with mgmtRx := s.eth.mgmtRx ++ [wire.take (wire.length - 4)] } } else s := by
  simp only [mgmtReceive, Bool.and_eq_true, decide_eq_true_eq, beq_iff_eq, and_assoc]

section
variable {frame : List Byte} {b : Nat} {s : State} (hen : s.eth.mgmtEnable = true) (hhalf : mgmtHalf s = true)
include hen hhalf

theorem mgmtCollision_late (hb : 512 ≤ b) :
    mgmtCollision frame b s = { s with eth := { s.eth with mgmtTx := none, lateCol := satInc s.eth.lateCol } } := by
  simp [mgmtCollision, hen, hhalf, hb]

variable (hb : b < 512)
include hb

/-- The first collision of a frame: it waits for no or one slot. -/
theorem mgmtCollision_first (h : ∀ m, s.eth.mgmtTx = some m → m.frame ≠ frame) : mgmtCollision frame b s = { s with eth := { s.eth with
    mgmtLfsr := lfsrNext s.eth.mgmtLfsr
    mgmtTx := some { frame := frame, collisions := 1, wait := (lfsrNext s.eth.mgmtLfsr).toNat % 2 * 512, since := dieTime s 38 } } } := by
  have hn : ¬ b ≥ 512 := by omega
  cases hm : s.eth.mgmtTx with
  | none => simp [mgmtCollision, hen, hhalf, hn, hm]
  | some m => simp [mgmtCollision, hen, hhalf, hn, hm, h m hm]

section
variable {m : MgmtTx} (hm : s.eth.mgmtTx = some m) (hf : m.frame = frame)
include hm hf

theorem mgmtCollision_sixteenth (h : 15 ≤ m.collisions) :
    mgmtCollision frame b s = { s with eth := { s.eth with mgmtTx := none, excessCol := satInc s.eth.excessCol } } := by
  have hn : ¬ b ≥ 512 := by omega
  simp [mgmtCollision, hen, hhalf, hn, hm, hf, h]

theorem mgmtCollision_again (h : m.collisions < 15) : mgmtCollision frame b s = { s with eth := { s.eth with
    mgmtLfsr := lfsrNext s.eth.mgmtLfsr
    mgmtTx := some { frame := frame, collisions := m.collisions + 1
                     wait := (lfsrNext s.eth.mgmtLfsr).toNat % 2 ^ min (m.collisions + 1) 10 * 512, since := dieTime s 38 } } } := by
  have hn : ¬ b ≥ 512 := by omega
  have hc : ¬ 16 ≤ m.collisions + 1 := by omega
  simp [mgmtCollision, hen, hhalf, hn, hm, hf, hc]

end

end

theorem mgmtRetry_idle {s : State} (h : s.eth.mgmtTx = none) : mgmtRetry s = s := by simp [mgmtRetry, h]

theorem mgmtRetry_early {s : State} {m : MgmtTx} (h : s.eth.mgmtTx = some m) (hd : since s 38 m.since < m.wait * mgmtBitNs s) :
    mgmtRetry s = s := by simp [mgmtRetry, h, hd]

theorem mgmtRetry_sends {s : State} {m : MgmtTx} (h : s.eth.mgmtTx = some m) (hd : m.wait * mgmtBitNs s ≤ since s 38 m.since) :
    mgmtRetry s = emit (.mgmtFrame (m.frame ++ fcsOf m.frame)) { s with eth := { s.eth with mgmtTx := some { m with wait := 0 } } } := by
  simp [mgmtRetry, h, Nat.not_lt.mpr hd]

theorem ofNat_bits_low (x lo w : Nat) : BitVec.ofNat w (bits x lo w) = BitVec.ofNat w (x / 2 ^ lo) := by
  apply BitVec.eq_of_toNat_eq
  simp [bits]

end Sys2Proof.Machine
end

section
/-! PROOFS. The Ethernet ports, put together (R358 to R382). -/

namespace Sys2Proof.Machine

/-- Settles O53: each event by the equation of its operation, between settled states where it says that nothing else changes. -/
theorem ethernetPortsTakeAndSendFrames : Obligations.EthernetPortsTakeAndSendFrames := by
  unfold Obligations.EthernetPortsTakeAndSendFrames
  refine ⟨fun k i j n s => cnt_ethCount k i j n s, fun k i wire corr uncorr s hlow hent hup hin => ⟨fun hbad => ?bad,
    fun hun hfcs => ⟨fun hlen => ?length, fun h64 hmax => ⟨fun haddr => ?address, fun haddr hp => ?pause,
      fun haddr hp hpol => ⟨fun h0 htr => ?shuttle, fun h0 htr => ?dropped, fun h1 => ?queue, fun h2 => ?discarded⟩⟩⟩⟩,
    fun k i buffered supplied s hs => ⟨fun hidle => ?noStart, fun n pkt p hroot hw hb => ?early, fun n pkt p hsends hroot hw => ?start⟩,
    fun k i s f hf hcut hud hqp hlive => ?end_, fun c s k n hk hn ha h60 hmax hon hpart hup hs => ⟨fun hwait => ?waits,
      fun hroom hheld hin => ?inlined, fun v st bs hroom hheld hin hread => ?buffered⟩,
    fun k i s htrain hen hpow => ?up, fun k i s hup => ?down, fun wire s hs => ?mgmtFrame,
    fun frame b s hs hen hhalf => ⟨fun hb => ?late, fun hb hfirst => ?first, fun m hb hm hf => ⟨fun h15 => ?sixteenth, fun h15 => ?again⟩⟩,
    fun s hs => ⟨fun hm => ?noRetry, fun m hm hd => ?tooEarly, fun m hm hd => ?retry⟩, fun word s hs => ?phy⟩
  case bad => exact exec_ethFrameReceive (frameReceive_bad hlow hent hup hin hbad)
  case length => exact exec_ethFrameReceive (frameReceive_length hlow hent hup hin hun hfcs hlen)
  case address =>
    exact exec_ethFrameReceive ((frameReceive_good hlow hent hup hin hun hfcs h64 hmax).trans (if_pos haddr))
  case pause =>
    refine exec_ethFrameReceive ((frameReceive_good hlow hent hup hin hun hfcs h64 hmax).trans ?_)
    rw [haddr]
    exact if_pos hp
  case shuttle =>
    refine ⟨exec_ethFrameReceive ((frameReceive_classified hlow hent hup hin hun hfcs h64 hmax haddr hp hpol).trans
      ((if_pos h0).trans (if_pos htr))), ?_⟩
    exact (inbox_toShuttle _ _ _).trans (congrArg (· ++ _) (inbox_goodCounted k i corr uncorr wire.length s))
  case dropped =>
    refine exec_ethFrameReceive ((frameReceive_classified hlow hent hup hin hun hfcs h64 hmax haddr hp hpol).trans
      ((if_pos h0).trans ?_))
    exact if_neg (by simp [htr])
  case queue =>
    exact exec_ethFrameReceive ((frameReceive_classified hlow hent hup hin hun hfcs h64 hmax haddr hp hpol).trans
      ((if_neg (by omega)).trans (if_pos h1)))
  case discarded =>
    exact exec_ethFrameReceive ((frameReceive_classified hlow hent hup hin hun hfcs h64 hmax haddr hp hpol).trans
      ((if_neg (by omega)).trans (if_neg (by omega))))
  case noStart =>
    rw [exec, execTxFrameStart, frameStart_idle hidle]
    exact ends_undisturbed hs (.refl s)
  case early =>
    rw [exec, execTxFrameStart, frameStart_waits hroot hw hb]
    exact ends_undisturbed hs (.refl s)
  case start =>
    exact exec_txFrameStart_whole hs hsends hroot hw
  case end_ =>
    exact exec_txFrameEnd_whole hf hcut hud hqp hlive
  case waits => exact exec_ethSend_waits hk hn ha h60 hmax hon hpart hup hs hwait
  case inlined =>
    have hgoes := exec_ethSend_goes hk hn ha h60 hmax hon hpart hup hroom hheld (x := (turn c s, .ok, inlineBytes c)) (if_pos hin)
    rw [if_pos rfl] at hgoes
    exact hgoes
  case buffered =>
    have hout : ¬ isInline c = true := by
      rw [isInline, hin]
      exact Bool.false_ne_true
    exact exec_ethSend_goes hk hn ha h60 hmax hon hpart hup hroom hheld (x := (v, st, bs)) ((if_neg hout).trans hread)
  case up =>
    exact exec_subportLinkUp_comes htrain hen hpow
  case down =>
    exact exec_subportLinkDown_goes hup
  case mgmtFrame =>
    rw [exec, execMgmtFrameReceive, mgmtReceive_eq]
    refine ends_undisturbed hs ?_
    split
    · exact eth_undisturbed _ s
    · exact .refl s
  case late =>
    rw [exec, execMgmtCollision, mgmtCollision_late hen hhalf hb]
    exact ends_undisturbed hs (eth_undisturbed _ s)
  case first =>
    rw [exec, execMgmtCollision, mgmtCollision_first hen hhalf hb hfirst]
    exact ends_undisturbed hs (eth_undisturbed _ s)
  case sixteenth =>
    rw [exec, execMgmtCollision, mgmtCollision_sixteenth hen hhalf hb hm hf h15]
    exact ends_undisturbed hs (eth_undisturbed _ s)
  case again =>
    refine ⟨_, (lfsrNext s.eth.mgmtLfsr).toNat % 2 ^ min (m.collisions + 1) 10, rfl, ?_, ?_⟩
    · exact lt_of_lt_of_le (Nat.mod_lt _ (by positivity)) (Nat.pow_le_pow_right (by omega) (by omega))
    · rw [ended_eth, mgmtCollision_again hen hhalf hb hm hf h15]
  case noRetry =>
    rw [exec, execMgmtBackoffExpiry, mgmtRetry_idle hm]
    exact ends_undisturbed hs (.refl s)
  case tooEarly =>
    rw [exec, execMgmtBackoffExpiry, mgmtRetry_early hm hd]
    exact ends_undisturbed hs (.refl s)
  case retry =>
    rw [exec, execMgmtBackoffExpiry, mgmtRetry_sends hm hd]
    exact ends_undisturbed hs ⟨rfl, rfl, rfl, rfl, rfl, rfl⟩
  case phy =>
    rw [exec, execSgmiiAutoNegotiation, ofNat_bits_low, bit_eq_testBit]
    exact ends_undisturbed hs (eth_undisturbed _ s)

end Sys2Proof.Machine
end

section
/-! PROOFS. Power tokens (R408 to R415, R428): what is held after a grant, a return and a release; the Treadle; PWR_SET. -/

namespace Sys2Proof.Machine

/-! ## Sums of tokens -/

theorem sumGrants_eq_sum (gs : List TokGrant) : sumGrants gs = (gs.map (·.n)).sum := by
  rw [sumGrants, List.sum_eq_foldl, List.foldl_map]

@[simp] theorem sumGrants_nil : sumGrants [] = 0 := rfl

@[simp] theorem sumGrants_cons (g : TokGrant) (gs : List TokGrant) : sumGrants (g :: gs) = g.n + sumGrants gs := by
  simp [sumGrants_eq_sum]

@[simp] theorem sumGrants_append (gs hs : List TokGrant) : sumGrants (gs ++ hs) = sumGrants gs + sumGrants hs := by
  simp [sumGrants_eq_sum]

@[simp] theorem sumGrants_reverse (gs : List TokGrant) : sumGrants gs.reverse = sumGrants gs := by
  simp [sumGrants_eq_sum, List.sum_reverse]

/-! ## Tokens taken back out of the grants (R410) -/

/-- A grant to a unit on a partition's requests. -/
def grantTo (u p : Nat) (g : TokGrant) : Bool := g.unit == u && g.part == p

/-- Grants a choice leaves out stay where only grants to `u` on `p`'s requests are touched. -/
theorem filter_takeBack {u p : Nat} {P : TokGrant → Bool} (hP : ∀ g, g.unit = u → g.part = p → P g = false) (n : Nat)
    (gs : List TokGrant) : (takeBack u p n gs).filter P = gs.filter P := by
  induction gs generalizing n with
  | nil => rfl
  | cons g r ih =>
    unfold takeBack
    by_cases hg : g.unit = u ∧ g.part = p
    · rw [if_pos hg]
      by_cases hn : g.n ≤ n
      · rw [if_pos hn, ih, List.filter_cons_of_neg (by simp [hP g hg.1 hg.2])]
      · rw [if_neg hn, List.filter_cons_of_neg (by simp [hP { g with n := g.n - n } hg.1 hg.2]),
          List.filter_cons_of_neg (by simp [hP g hg.1 hg.2])]
    · rw [if_neg hg, List.filter_cons, List.filter_cons, ih]

theorem sum_takeBack (u p n : Nat) (gs : List TokGrant) :
    sumGrants ((takeBack u p n gs).filter (grantTo u p)) = sumGrants (gs.filter (grantTo u p)) - n := by
  induction gs generalizing n with
  | nil => simp [takeBack]
  | cons g r ih =>
    unfold takeBack
    by_cases hg : g.unit = u ∧ g.part = p
    · have hb : ∀ m, grantTo u p { g with n := m } = true := fun m => by simp [grantTo, hg]
      rw [if_pos hg, List.filter_cons_of_pos (hb g.n)]
      by_cases hn : g.n ≤ n
      · rw [if_pos hn, ih, sumGrants_cons]
        dsimp only
        omega
      · rw [if_neg hn, List.filter_cons_of_pos (hb _), sumGrants_cons, sumGrants_cons]
        dsimp only
        omega
    · have hb : ¬ grantTo u p g = true := by simpa [grantTo] using hg
      rw [if_neg hg, List.filter_cons_of_neg hb, List.filter_cons_of_neg hb, ih]

/-- The grants, the most recent first, after the recalls of a unit came back. -/
def takenBack (u : Nat) (rs : List TokRecall) (gs : List TokGrant) : List TokGrant :=
  rs.foldl (fun gs r => takeBack u r.part r.n gs) gs

theorem filter_takenBack {u : Nat} {P : TokGrant → Bool} (hP : ∀ g, g.unit = u → P g = false) (rs : List TokRecall)
    (gs : List TokGrant) : (takenBack u rs gs).filter P = gs.filter P := by
  induction rs generalizing gs with
  | nil => rfl
  | cons r rs ih => exact (ih _).trans (filter_takeBack (fun g hg _ => hP g hg) _ _)

/-- The tokens recalled on a partition's requests. -/
def recalledOn (p : Nat) (rs : List TokRecall) : Nat := (rs.filter fun r => r.part == p).foldl (fun a r => a + r.n) 0

theorem recalledOn_cons (p : Nat) (r : TokRecall) (rs : List TokRecall) :
    recalledOn p (r :: rs) = (if r.part = p then r.n else 0) + recalledOn p rs := by
  have hsum : ∀ rs : List TokRecall, rs.foldl (fun a r => a + r.n) 0 = (rs.map (·.n)).sum := fun rs => by
    rw [List.sum_eq_foldl, List.foldl_map]
  by_cases hp : r.part = p <;> simp [recalledOn, hsum, hp]

theorem sum_takenBack (u p : Nat) (rs : List TokRecall) (gs : List TokGrant) :
    sumGrants ((takenBack u rs gs).filter (grantTo u p)) = sumGrants (gs.filter (grantTo u p)) - recalledOn p rs := by
  induction rs generalizing gs with
  | nil => rfl
  | cons r rs ih =>
    have hrest : sumGrants ((takenBack u (r :: rs) gs).filter (grantTo u p)) =
        sumGrants ((takeBack u r.part r.n gs).filter (grantTo u p)) - recalledOn p rs := ih _
    rw [hrest, recalledOn_cons]
    by_cases hp : r.part = p
    · rw [if_pos hp, hp, sum_takeBack]
      omega
    · rw [if_neg hp, filter_takeBack (fun g _ hg => by simp [grantTo, hg, hp]), Nat.zero_add]

/-! ## PWR_SET completes (R415) -/

theorem pwrSetDone_pwr (r : CmdRef) (s : State) : (pwrSetDone r s).pwr = { s.pwr with setWait := none } := by
  rw [pwrSetDone]
  refine (foldl_related (R := fun s t : State => t.pwr = s.pwr)
    (f := fun s p => report (.event p 0x09 .ok treadle 0 (powerInfo s)) s) (fun _ => rfl) (fun h k => k.trans h)
    (fun _ _ => rfl) _ _).trans ?_
  rw [completeRef_frame]

theorem pwrSetDone_jcq (r : CmdRef) (s : State) : (pwrSetDone r s).jcq =
    (completeRef r .ok [active s] treadle { s with pwr := { s.pwr with setWait := none } }).jcq := by
  rw [pwrSetDone]
  exact foldl_related (R := fun s t : State => t.jcq = s.jcq)
    (f := fun s p => report (.event p 0x09 .ok treadle 0 (powerInfo s)) s) (fun _ => rfl) (fun h k => k.trans h)
    (fun _ _ => rfl) _ _

theorem pwrSetDone_done {r : CmdRef} {s : State} (h : ∃ l ∈ s.jcq.live, l.ref = r) :
    ∃ e, (pwrSetDone r s).jcq.done = s.jcq.done ++ [e] ∧ e.ref = r ∧ e.status = .ok ∧ e.result = [active s] := by
  rw [pwrSetDone_jcq]
  exact completeRef_last (s := { s with pwr := { s.pwr with setWait := none } }) .ok [active s] treadle h

theorem checkPwrSet_pwr (s : State) : (checkPwrSet s).pwr = { s.pwr with setWait := (checkPwrSet s).pwr.setWait } := by
  unfold checkPwrSet
  split
  · split
    · rw [pwrSetDone_pwr]
    · rfl
  · rfl

/-- A PWR_SET that completes leaves the holdings as they are. -/
theorem checkPwrSet_holdings (s : State) : (checkPwrSet s).pwr.grants = s.pwr.grants ∧
    (checkPwrSet s).pwr.recalls = s.pwr.recalls ∧ (checkPwrSet s).pwr.requests = s.pwr.requests := by
  rw [checkPwrSet_pwr]
  exact ⟨rfl, rfl, rfl⟩

theorem checkPwrSet_cases (s : State) : (s.pwr.setWait = none → checkPwrSet s = s) ∧ ∀ w, s.pwr.setWait = some w →
    (active s < heldActive s → checkPwrSet s = s) ∧
    (heldActive s ≤ active s → (∃ l ∈ s.jcq.live, l.ref = w.cmd) → (checkPwrSet s).pwr.setWait = none ∧
      ∃ e, (checkPwrSet s).jcq.done = s.jcq.done ++ [e] ∧ e.ref = w.cmd ∧ e.status = .ok ∧ e.result = [active s]) := by
  refine ⟨fun h => by simp [checkPwrSet, h], fun w hw => ⟨fun h => ?_, fun h hl => ?_⟩⟩
  · simp [checkPwrSet, hw, Nat.not_le.mpr h]
  · have own : checkPwrSet s = pwrSetDone w.cmd s := by simp [checkPwrSet, hw, h]
    rw [own, pwrSetDone_pwr]
    exact ⟨rfl, pwrSetDone_done hl⟩

/-! ## Requests (R410, R412) -/

theorem exec_tokenRequest_cases {u p n : Nat} {s : State} (hs : settled s) (hin : inService s u = true)
    (hon : domainOn s u = true)
    (hn : n = maxTokens u - minTokens u - heldUnit s u -
      (s.pwr.requests.filter fun r => r.unit == u).foldl (fun a r => a + r.n) 0) :
    (n = 0 → exec (.tokenRequest u p) s = .next s) ∧
    (n ≠ 0 → s.pwr.profile ≠ 4 → exec (.tokenRequest u p) s = .next
      { s with pwr := { s.pwr with requests := s.pwr.requests ++ [{ unit := u, part := p, n := n }] } }) ∧
    (n ≠ 0 → s.pwr.profile = 4 → n + heldUnit s u ≤ unitLimit s u → exec (.tokenRequest u p) s = .next
      { s with pwr := { s.pwr with grants := s.pwr.grants ++ [{ unit := u, part := p, n := n }] } }) := by
  have hexec : exec (.tokenRequest u p) s = ends s (requestTokens u p s) := rfl
  refine ⟨fun h => ?_, fun h hp => ?_, fun h hp hl => ?_⟩
  · have own : requestTokens u p s = s := by simp [requestTokens, hin, hon, ← hn, h]
    rw [hexec, own]
    exact ends_undisturbed hs (.refl s)
  · have own : requestTokens u p s =
        { s with pwr := { s.pwr with requests := s.pwr.requests ++ [{ unit := u, part := p, n := n }] } } := by
      simp only [requestTokens, hin, hon, ← hn, Bool.not_true, Bool.false_or, beq_iff_eq, h, hp, if_false, addGrant,
        Nat.sub_zero, Bool.or_self, if_true]
    rw [hexec, own]
    exact ends_undisturbed hs ⟨rfl, rfl, rfl, rfl, rfl, rfl⟩
  · have hnow : min n (unitLimit s u - heldUnit s u) = n := by omega
    have own : requestTokens u p s =
        { s with pwr := { s.pwr with grants := s.pwr.grants ++ [{ unit := u, part := p, n := n }] } } := by
      simp [requestTokens, hin, hon, ← hn, h, hp, hnow, addGrant]
    rw [hexec, own]
    exact ends_undisturbed hs ⟨rfl, rfl, rfl, rfl, rfl, rfl⟩

/-! ## The Treadle (R413) -/

/-- What the Treadle may do: it adds grants within the pool and recalls, and takes no grant back. -/
structure Treads (s t : State) : Prop where
  frame : t = { s with pwr := { s.pwr with grants := t.pwr.grants, requests := t.pwr.requests, recalls := t.pwr.recalls } }
  grants : s.pwr.grants <+: t.pwr.grants
  recalls : s.pwr.recalls <+: t.pwr.recalls
  held : heldActive t ≤ max (active s) (heldActive s)

theorem Treads.refl (s : State) : Treads s s := ⟨rfl, List.prefix_refl _, List.prefix_refl _, Nat.le_max_right _ _⟩

theorem Treads.active {s t : State} (h : Treads s t) : active t = active s := by
  rw [h.frame]
  rfl

theorem Treads.trans {s t u : State} (h : Treads s t) (k : Treads t u) : Treads s u := by
  refine ⟨?_, h.grants.trans k.grants, h.recalls.trans k.recalls, ?_⟩
  · have hu := k.frame
    rw [h.frame] at hu
    exact hu
  · have hh := h.held
    have hk := k.held
    rw [h.active] at hk
    omega

/-- A recall leaves everything but the recalls. -/
theorem Treads.of_recalls (s : State) (rs : List TokRecall) :
    Treads s { s with pwr := { s.pwr with recalls := s.pwr.recalls ++ rs } } :=
  ⟨rfl, List.prefix_refl _, List.prefix_append _ _, Nat.le_max_right _ _⟩

/-- A grant within what is free keeps the sum held within the pool. -/
theorem Treads.of_grant {s : State} {g : TokGrant} (h : g.n ≤ Machine.active s - heldActive s) (qs : List TokReq) :
    Treads s { s with pwr := { s.pwr with grants := s.pwr.grants ++ [g], requests := qs } } := by
  refine ⟨rfl, List.prefix_append _ _, List.prefix_refl _, ?_⟩
  have hsum : heldActive { s with pwr := { s.pwr with grants := s.pwr.grants ++ [g], requests := qs } } =
      heldActive s + g.n := by simp [heldActive]
  rw [hsum]
  omega

theorem grantOne_treads (s : State) (r : TokReq) : Treads s (grantOne s r) := by
  simp only [grantOne]
  split
  · exact .refl s
  · rename_i hg
    rw [addGrant, if_neg hg]
    refine .of_grant (g := TokGrant.mk _ _ _) ?_ _
    dsimp only
    omega

theorem addRecall_treads (u p n : Nat) (s : State) : Treads s (addRecall u p n s) := by
  unfold addRecall
  split
  · exact .refl s
  · exact .of_recalls s _

theorem recallFrom_treads (spare : State → TokGrant → Nat) (gs : List TokGrant) (want : Nat) (s : State) :
    Treads s (recallFrom spare gs want s).2 := by
  induction gs generalizing want s with
  | nil => exact .refl s
  | cons g r ih => exact (addRecall_treads _ _ _ s).trans (ih _ _)

theorem recallFrom_grants (spare : State → TokGrant → Nat) (gs : List TokGrant) (want : Nat) (s : State) :
    (recallFrom spare gs want s).2.pwr.grants = s.pwr.grants := by
  induction gs generalizing want s with
  | nil => rfl
  | cons g r ih =>
    refine (ih _ _).trans ?_
    unfold addRecall
    split <;> rfl

theorem recallShortfall_treads (s : State) : Treads s (recallShortfall s) := by
  simp only [recallShortfall]
  split
  · exact .refl s
  · exact (recallFrom_treads _ _ _ s).trans (recallFrom_treads _ _ _ _)

theorem recallShortfall_grants (s : State) : (recallShortfall s).pwr.grants = s.pwr.grants := by
  simp only [recallShortfall]
  split
  · rfl
  · rw [recallFrom_grants, recallFrom_grants]

theorem treadleStep_treads (s : State) : Treads s (treadleStep s) :=
  (foldl_related .refl .trans grantOne_treads _ s).trans (recallShortfall_treads _)

/-- Nothing is owed to others where one request alone waits. -/
theorem owedOthers_alone {s : State} {r : TokReq} (h : s.pwr.requests = [r]) : owedOthers s r = 0 := by
  have hgroup : ∀ g, g ≠ groupOf r.unit → waitingGroup s g = 0 := fun g hg => by
    simp [waitingGroup, h, Ne.symm hg]
  have hpart : ∀ p, p ≠ r.part → waitingPart s p = 0 := fun p hp => by
    simp [waitingPart, h, Ne.symm hp]
  have hgs : (List.range 4).filter (fun g => g != groupOf r.unit && waitingGroup s g != 0) = [] := by
    rw [List.filter_eq_nil_iff]
    intro g _
    by_cases hg : g = groupOf r.unit
    · simp [hg]
    · simp [hgroup g hg]
  have hps : (List.range 64).filter (fun p => p != r.part && waitingPart s p != 0) = [] := by
    rw [List.filter_eq_nil_iff]
    intro p _
    by_cases hp : p = r.part
    · simp [hp]
    · simp [hpart p hp]
  simp [owedOthers, hgs, hps]

theorem treadleStep_alone {s : State} {r : TokReq} {g : Nat} (h : s.pwr.requests = [r])
    (hg : g = min (min r.n (active s - heldActive s)) (unitLimit s r.unit - heldUnit s r.unit)) :
    (treadleStep s).pwr.grants =
      s.pwr.grants ++ (if g = 0 then [] else [{ unit := r.unit, part := r.part, n := g }]) := by
  have hfold : s.pwr.requests.foldl grantOne s = grantOne s r := by rw [h]; rfl
  rw [treadleStep, recallShortfall_grants, hfold]
  simp only [grantOne, owedOthers_alone h, Nat.sub_zero, ← hg]
  by_cases h0 : g = 0
  · simp [h0]
  · simp [h0, addGrant]

theorem exec_treadleStep_moves (s : State) : ∃ t, exec .treadleStep s = .next t ∧ s.pwr.grants <+: t.pwr.grants ∧
    s.pwr.recalls <+: t.pwr.recalls ∧ heldActive t ≤ max (active s) (heldActive s) ∧ active t = active s ∧
    (∀ r, s.pwr.requests = [r] →
      let g := min (min r.n (active s - heldActive s)) (unitLimit s r.unit - heldUnit s r.unit)
      t.pwr.grants = s.pwr.grants ++ (if g = 0 then [] else [{ unit := r.unit, part := r.part, n := g }])) := by
  have h := treadleStep_treads s
  have hp : (ended s (treadleStep s)).pwr = (treadleStep s).pwr := ended_pwr _ _
  refine ⟨ended s (treadleStep s), rfl, ?_, ?_, ?_, ?_, fun r hr => ?_⟩
  · rw [hp]
    exact h.grants
  · rw [hp]
    exact h.recalls
  · rw [heldActive, hp]
    exact h.held
  · rw [active, effectiveW, hp]
    exact h.active
  · dsimp only
    rw [hp]
    exact treadleStep_alone hr rfl

/-! ## Returns and releases (R410, R415) -/

theorem filter_grantTo (gs : List TokGrant) (u p : Nat) :
    (gs.filter fun g => g.unit == u && g.part == p) = gs.filter (grantTo u p) := rfl

theorem filter_unit_ne {α : Type} (unit : α → Nat) {u v : Nat} (hv : v ≠ u) (l : List α) :
    (l.filter fun x => unit x != u).filter (fun x => unit x == v) = l.filter fun x => unit x == v := by
  rw [List.filter_filter]
  refine List.filter_congr fun x _ => ?_
  by_cases hx : unit x = v <;> simp [hx, hv]

theorem filter_unit_none {α : Type} (unit : α → Nat) (u : Nat) (l : List α) :
    (l.filter fun x => unit x != u).filter (fun x => unit x == u) = [] := by
  rw [List.filter_filter]
  simp

theorem exec_tokenReturn_returns (u : Nat) (s : State) : ∃ t, exec (.tokenReturn u) s = .next t ∧
    (∀ p, heldFor t u p = heldFor s u p - recalledFor s u p) ∧ recalledUnit t u = 0 ∧
    ∀ v, v ≠ u → heldUnit t v = heldUnit s v ∧ recalledUnit t v = recalledUnit s v := by
  let mine := s.pwr.recalls.filter fun r => r.unit == u
  let t := ended s (returnTokens u s)
  have hgrants : t.pwr.grants = (takenBack u mine s.pwr.grants.reverse).reverse := by
    rw [ended_pwr]
    exact (checkPwrSet_holdings _).1
  have hrecalls : t.pwr.recalls = s.pwr.recalls.filter fun r => r.unit != u := by
    rw [ended_pwr]
    exact (checkPwrSet_holdings _).2.1
  refine ⟨t, rfl, fun p => ?_, ?_, fun v hv => ⟨?_, ?_⟩⟩
  · have hmine : recalledOn p mine = recalledFor s u p := by
      rw [recalledOn, recalledFor, List.filter_filter]
      exact congrArg (fun l : List TokRecall => l.foldl (fun a r => a + r.n) 0) (List.filter_congr fun r _ => Bool.and_comm _ _)
    rw [heldFor, hgrants, filter_grantTo, List.filter_reverse, sumGrants_reverse, sum_takenBack, List.filter_reverse,
      sumGrants_reverse, hmine]
    rfl
  · rw [recalledUnit, hrecalls, filter_unit_none TokRecall.unit]
    rfl
  · rw [heldUnit, hgrants, List.filter_reverse, sumGrants_reverse,
      filter_takenBack (fun g hg => by simp [hg, Ne.symm hv]), List.filter_reverse, sumGrants_reverse]
    rfl
  · rw [recalledUnit, hrecalls, filter_unit_ne TokRecall.unit hv]
    rfl

theorem exec_idleRelease_early {u : Nat} {s : State} (hs : settled s) (h : ∀ x, tget none s.pwr.idleAt u = some x →
    since s (dieOf u) x < s.pwr.idleReleaseUs.toNat * 1000) : exec (.idleReleaseExpiry u) s = .next s := by
  have hexec : exec (.idleReleaseExpiry u) s = ends s (idleRelease u s) := rfl
  have own : idleRelease u s = s := by
    unfold idleRelease
    cases hx : tget none s.pwr.idleAt u with
    | none => rfl
    | some x => simp [h x hx]
  rw [hexec, own]
  exact ends_undisturbed hs (.refl s)

theorem releaseTokens_holdings (u : Nat) (s : State) :
    (releaseTokens u s).pwr.grants = s.pwr.grants.filter (fun g => g.unit != u) ∧
    (releaseTokens u s).pwr.recalls = s.pwr.recalls.filter (fun r => r.unit != u) ∧
    (releaseTokens u s).pwr.requests = s.pwr.requests.filter (fun r => r.unit != u) := checkPwrSet_holdings _

theorem exec_idleRelease_due {u : Nat} {s : State} {x : Word64} (hx : tget none s.pwr.idleAt u = some x)
    (hdue : s.pwr.idleReleaseUs.toNat * 1000 ≤ since s (dieOf u) x) :
    ∃ t, exec (.idleReleaseExpiry u) s = .next t ∧
      heldUnit t u = 0 ∧ recalledUnit t u = 0 ∧ (∀ r ∈ t.pwr.requests, r.unit ≠ u) ∧
      (∀ v, v ≠ u → heldUnit t v = heldUnit s v ∧ recalledUnit t v = recalledUnit s v) ∧
      t = ended s (checkPwrSet { s with pwr := { s.pwr with
        idleAt := tset none s.pwr.idleAt u none
        grants := s.pwr.grants.filter fun g => g.unit != u
        requests := s.pwr.requests.filter fun r => r.unit != u
        recalls := s.pwr.recalls.filter fun r => r.unit != u } }) := by
  have hexec : exec (.idleReleaseExpiry u) s = ends s (idleRelease u s) := rfl
  have own : idleRelease u s = releaseTokens u s := by simp [idleRelease, hx, Nat.not_lt.mpr hdue]
  obtain ⟨hgrants, hrecalls, hrequests⟩ := releaseTokens_holdings u s
  rw [← ended_pwr s] at hgrants hrecalls hrequests
  refine ⟨ended s (releaseTokens u s), by rw [hexec, own]; rfl, ?_, ?_, ?_, fun v hv => ⟨?_, ?_⟩, rfl⟩
  · rw [heldUnit, hgrants, filter_unit_none TokGrant.unit]
    rfl
  · rw [recalledUnit, hrecalls, filter_unit_none TokRecall.unit]
    rfl
  · rw [hrequests]
    intro r hr
    simpa using (List.mem_filter.mp hr).2
  · rw [heldUnit, hgrants, filter_unit_ne TokGrant.unit hv]
    rfl
  · rw [recalledUnit, hrecalls, filter_unit_ne TokRecall.unit hv]
    rfl

/-! ## PWR_SET (R428) -/

/-- What PWR_SET checks, in order: the profile, the budget, the cooling Full-weave needs, and the partitions' floors. -/
def pwrSetFails (w f : Nat) (s : State) : List (Bool × Status) :=
  [(decide (f ≥ 5), .opcode), (decide (w < 1200) || decide (w > 2200), .lenRange), (f == 4 && !s.pwr.coolingB, .denied),
    (decide (activeOf (if f = 4 then 2278 else w) < floorSum s), .busy)]

/-- The budget and the profile of a PWR_SET in force. -/
def pwrChosen (w f : Nat) (s : State) : State :=
  { s with pwr := { s.pwr with budgetW := BitVec.ofNat 12 w, profile := BitVec.ofNat 3 f } }

/-- PWR_SET with its checks passed. -/
def pwrSetRun (c : Cmd) (w f : Nat) (s : State) : State :=
  if heldActive (pwrChosen w f s) ≤ active (pwrChosen w f s) then pwrSetDone (cmdRef c) (treadleStep (pwrChosen w f s))
  else recallExcess { pwrChosen w f s with pwr := { (pwrChosen w f s).pwr with setWait := some { cmd := cmdRef c } } }

/-- A PWR_SET waits behind one under way and behind one sent before it. -/
def pwrSetBusy (c : Cmd) (s : State) : Bool :=
  s.pwr.setWait.isSome || (heldBefore c s).any fun x => fieldLE x.packet 0 2 == 0x0B01

theorem exec_pwrSet_eq {c : Cmd} {w f : Nat} (s : State) (hw : w = param c 16 2 0 12) (hf : f = param c 18 1 0 3) :
    exec (.pwrSet c) s =
      runOrdered descPwrSet c (pwrSetBusy c s) (pwrSetFails w f s) s (pwrSetRun c w f) := by
  subst hw hf
  rfl

theorem toNat_pwrChosen {w f : Nat} (s : State) (hw : w ≤ 2200) (hf : f < 5) :
    (pwrChosen w f s).pwr.budgetW.toNat = w ∧ (pwrChosen w f s).pwr.profile.toNat = f := by
  constructor <;> (simp only [pwrChosen, BitVec.toNat_ofNat]; omega)

theorem active_pwrChosen {w f : Nat} (s : State) (hw : w ≤ 2200) (hf : f < 5) :
    active (pwrChosen w f s) = activeOf (if f = 4 then 2278 else w) := by
  obtain ⟨hbudget, hprofile⟩ := toNat_pwrChosen s hw hf
  have hfull : (pwrChosen w f s).pwr.profile = 4 ↔ f = 4 := by
    rw [← BitVec.toNat_inj, hprofile]
    rfl
  rw [active, effectiveW, hbudget]
  exact congrArg activeOf (if_congr hfull rfl rfl)

theorem pwrSetRun_fits {c : Cmd} {w f : Nat} {s : State} (h : heldActive s ≤ active (pwrChosen w f s)) :
    pwrSetRun c w f s = pwrSetDone (cmdRef c) (treadleStep (pwrChosen w f s)) := if_pos h

theorem pwrSetRun_waits {c : Cmd} {w f : Nat} {s : State} (h : active (pwrChosen w f s) < heldActive s) :
    pwrSetRun c w f s =
      recallExcess { pwrChosen w f s with pwr := { (pwrChosen w f s).pwr with setWait := some { cmd := cmdRef c } } } :=
  if_neg (Nat.not_le.mpr h)

theorem pwrSetFails_pass {w f : Nat} {s : State} (hf : f < 5) (hl : 1200 ≤ w) (hw : w ≤ 2200)
    (hcool : f = 4 → s.pwr.coolingB = true) (hfloor : floorSum s ≤ activeOf (if f = 4 then 2278 else w)) :
    ∀ e ∈ pwrSetFails w f s, e.1 = false := by
  have h1 : decide (f ≥ 5) = false := by simp [hf]
  have h2 : (decide (w < 1200) || decide (w > 2200)) = false := by simp [hl, hw]
  have h3 : (f == 4 && !s.pwr.coolingB) = false := by
    by_cases h4 : f = 4
    · simp [hcool h4]
    · simp [h4]
  have h4 : decide (activeOf (if f = 4 then 2278 else w) < floorSum s) = false := by simpa using hfloor
  rw [pwrSetFails, h1, h2, h3, h4]
  simp

theorem pwrSetDone_treadle {s v t : State} {r : CmdRef} (hv : Treads v t) :
    (ended s (pwrSetDone r t)).pwr.setWait = none ∧ (ended s (pwrSetDone r t)).pwr.budgetW = v.pwr.budgetW ∧
      (ended s (pwrSetDone r t)).pwr.profile = v.pwr.profile := by
  rw [ended_pwr, pwrSetDone_pwr, hv.frame]
  exact ⟨rfl, rfl, rfl⟩

/-- PWR_SET takes effect and completes once the holdings fit. -/
theorem ended_pwrSet_done {c : Cmd} {w f : Nat} {s : State} (hw : w ≤ 2200) (hf : f < 5)
    (hl : ∃ l ∈ s.jcq.live, l.ref = cmdRef c) :
    ∃ t e, Host.Outcome.next (ended s (pwrSetDone (cmdRef c) (treadleStep (pwrChosen w f (turn c s))))) =
        (.next t : Host.Outcome State Fault Refusal) ∧ t.pwr.setWait = none ∧
      t.pwr.budgetW.toNat = w ∧ t.pwr.profile.toNat = f ∧ t.jcq.done = s.jcq.done ++ [e] ∧ e.ref = cmdRef c ∧
      e.status = .ok ∧ e.result = [active (pwrChosen w f (turn c s))] := by
  have hv := treadleStep_treads (pwrChosen w f (turn c s))
  obtain ⟨hbudget, hprofile⟩ := toNat_pwrChosen (turn c s) hw hf
  obtain ⟨hwait, hb, hp⟩ := pwrSetDone_treadle (s := s) (r := cmdRef c) hv
  have hjcq : (treadleStep (pwrChosen w f (turn c s))).jcq = (turn c s).jcq := by rw [hv.frame]; rfl
  obtain ⟨e, hdone, href, hst, hres⟩ := pwrSetDone_done (r := cmdRef c) (s := treadleStep (pwrChosen w f (turn c s)))
    (by rw [hjcq]; exact hl)
  refine ⟨_, e, rfl, hwait, by rw [hb, hbudget], by rw [hp, hprofile], ?_, href, hst, by rw [hres, hv.active]⟩
  rw [ended_done, hdone, hjcq]
  rfl

/-- PWR_SET waits while more is held than its pool. -/
theorem ended_pwrSet_waits {c : Cmd} {w f : Nat} {s : State} (hw : w ≤ 2200) (hf : f < 5)
    (h : active (pwrChosen w f (turn c s)) < heldActive s) :
    (ended s (pwrSetRun c w f (turn c s))).pwr.setWait = some { cmd := cmdRef c } ∧
      (ended s (pwrSetRun c w f (turn c s))).pwr.budgetW.toNat = w ∧
      (ended s (pwrSetRun c w f (turn c s))).pwr.profile.toNat = f ∧
      (ended s (pwrSetRun c w f (turn c s))).jcq.done = s.jcq.done ∧
      (ended s (pwrSetRun c w f (turn c s))).pwr.grants = s.pwr.grants := by
  obtain ⟨hbudget, hprofile⟩ := toNat_pwrChosen (turn c s) hw hf
  rw [pwrSetRun_waits h, ended_pwr, ended_done, recallExcess, recallFrom_grants,
    (recallFrom_treads _ _ _ _).frame]
  exact ⟨rfl, hbudget, hprofile, rfl, rfl⟩

section
variable {c : Cmd} {w f : Nat} {s : State}

theorem exec_pwrSet_passes (hw : w = param c 16 2 0 12) (hf : f = param c 18 1 0 3) (ha : admits descPwrSet c s)
    (hidle : pwrSetBusy c s = false) (hf5 : f < 5) (hlo : 1200 ≤ w) (hhi : w ≤ 2200)
    (hcool : f = 4 → s.pwr.coolingB = true) (hfloor : floorSum s ≤ activeOf (if f = 4 then 2278 else w)) :
    exec (.pwrSet c) s = .next (ended s (pwrSetRun c w f (turn c s))) := by
  rw [exec_pwrSet_eq s hw hf, hidle]
  exact runOrdered_passes _ _ _ _ _ ha.1 ha.2 (pwrSetFails_pass hf5 hlo hhi hcool hfloor)

theorem exec_pwrSet_refuses {st : Status} (hw : w = param c 16 2 0 12) (hf : f = param c 18 1 0 3)
    (ha : admits descPwrSet c s) (hidle : pwrSetBusy c s = false) (hs : settled s)
    (hfail : firstFail (pwrSetFails w f s) = some st) :
    exec (.pwrSet c) s = .next (complete c st [] (procUnit s c) (turn c s)) := by
  rw [exec_pwrSet_eq s hw hf, hidle]
  exact runOrdered_refuses _ _ hs ha hfail

theorem pwrSetFails_opcode (h : 5 ≤ f) : firstFail (pwrSetFails w f s) = some .opcode := by
  simp [pwrSetFails, firstFail, h]

theorem pwrSetFails_lenRange (h : f < 5) (hr : w < 1200 ∨ 2200 < w) : firstFail (pwrSetFails w f s) = some .lenRange := by
  simp [pwrSetFails, firstFail, h, hr]

theorem pwrSetFails_denied (h : f = 4) (hlo : 1200 ≤ w) (hhi : w ≤ 2200) (hc : s.pwr.coolingB = false) :
    firstFail (pwrSetFails w f s) = some .denied := by
  simp [pwrSetFails, firstFail, h, hc, hlo, hhi]

theorem pwrSetFails_busy (h : f < 4) (hlo : 1200 ≤ w) (hhi : w ≤ 2200) (hb : activeOf w < floorSum s) :
    firstFail (pwrSetFails w f s) = some .busy := by
  have h4 : f ≠ 4 := by omega
  have h5 : ¬ 5 ≤ f := by omega
  simp [pwrSetFails, firstFail, h4, h5, hlo, hhi, hb]

end

theorem exec_pwrSet_cases {c : Cmd} {s v : State} {w f : Nat} {busy : Bool} (hw : w = param c 16 2 0 12)
    (hf : f = param c 18 1 0 3) (ha : admits descPwrSet c s) (hbusy : busy = pwrSetBusy c s)
    (hv : v = pwrChosen w f (turn c s)) :
    (busy = true → settled s → exec (.pwrSet c) s = .next (holdCmd c s)) ∧
    (busy = false →
      (f < 5 → 1200 ≤ w → w ≤ 2200 → (f = 4 → s.pwr.coolingB = true) →
        floorSum s ≤ activeOf (if f = 4 then 2278 else w) →
        active v = activeOf (if f = 4 then 2278 else w) ∧
        (heldActive s ≤ active v →
          exec (.pwrSet c) s = .next (ended s (pwrSetDone (cmdRef c) (treadleStep v))) ∧
          ((∃ l ∈ s.jcq.live, l.ref = cmdRef c) → ∃ t e, exec (.pwrSet c) s = .next t ∧ t.pwr.setWait = none ∧
            t.pwr.budgetW.toNat = w ∧ t.pwr.profile.toNat = f ∧ t.jcq.done = s.jcq.done ++ [e] ∧ e.ref = cmdRef c ∧
            e.status = .ok ∧ e.result = [active v])) ∧
        (active v < heldActive s → ∃ t, exec (.pwrSet c) s = .next t ∧ t.pwr.setWait = some { cmd := cmdRef c } ∧
          t.pwr.budgetW.toNat = w ∧ t.pwr.profile.toNat = f ∧ t.jcq.done = s.jcq.done ∧ t.pwr.grants = s.pwr.grants)) ∧
      (settled s →
        (5 ≤ f → exec (.pwrSet c) s = .next (complete c .opcode [] (procUnit s c) (turn c s))) ∧
        (f < 5 → w < 1200 ∨ 2200 < w →
          exec (.pwrSet c) s = .next (complete c .lenRange [] (procUnit s c) (turn c s))) ∧
        (f = 4 → 1200 ≤ w → w ≤ 2200 → s.pwr.coolingB = false →
          exec (.pwrSet c) s = .next (complete c .denied [] (procUnit s c) (turn c s))) ∧
        (f < 4 → 1200 ≤ w → w ≤ 2200 → activeOf w < floorSum s →
          exec (.pwrSet c) s = .next (complete c .busy [] (procUnit s c) (turn c s))))) := by
  refine ⟨fun hb hs => ?_, fun hb => ⟨fun hf5 hlo hhi hcool hfloor => ?_, fun hs => ?_⟩⟩
  · rw [exec_pwrSet_eq s hw hf, ← hbusy, hb]
    exact runOrdered_holds _ _ hs ha
  · have hpass := exec_pwrSet_passes hw hf ha (hbusy.symm.trans hb) hf5 hlo hhi hcool hfloor
    subst hv
    refine ⟨active_pwrChosen (turn c s) hhi hf5, fun hfit => ?_, fun hmore => ?_⟩
    · have hrun : pwrSetRun c w f (turn c s) = _ := pwrSetRun_fits hfit
      rw [hpass, hrun]
      exact ⟨rfl, ended_pwrSet_done hhi hf5⟩
    · exact ⟨_, hpass, ended_pwrSet_waits hhi hf5 hmore⟩
  · have href := fun st => exec_pwrSet_refuses (st := st) hw hf ha (hbusy.symm.trans hb) hs
    exact ⟨fun h => href _ (pwrSetFails_opcode h), fun h hr => href _ (pwrSetFails_lenRange h hr),
      fun h hlo hhi hc => href _ (pwrSetFails_denied h hlo hhi hc),
      fun h hlo hhi hb => href _ (pwrSetFails_busy h hlo hhi hb)⟩

theorem exec_pwrQuery_answers {c : Cmd} {s : State} (hs : settled s) (ha : admits descPwrQuery c s) :
    exec (.pwrQuery c) s = .next (complete c .ok
      [active s, heldActive s, s.pwr.measuredMw.toNat / 1000, s.pwr.profile.toNat + 2 ^ 16 * effectiveW s] treadle
      (begun c s)) :=
  runCmd_effect [] _ hs ha (fun _ he => nomatch he) (complete_undisturbed _ _ _ _ _)

/-- Settles O56: requests, the Treadle, returns and releases by the sums of the grants, PWR_SET by its checks in order. -/
theorem tokensAreGrantedWithinThePool : Obligations.TokensAreGrantedWithinThePool := by
  unfold Obligations.TokensAreGrantedWithinThePool
  exact ⟨fun u p s n hs hin hon hn => exec_tokenRequest_cases hs hin hon hn, exec_treadleStep_moves,
    exec_tokenReturn_returns, fun u s hs h => exec_idleRelease_early hs h, fun u s x hx h => exec_idleRelease_due hx h,
    checkPwrSet_cases, fun c s v w f busy hw hf ha hb hv => exec_pwrSet_cases hw hf ha hb hv,
    fun c s hs ha => exec_pwrQuery_answers hs ha⟩

end Sys2Proof.Machine
end

section
/-! PROOFS. Handling the reports of a step (events posted, records written) says more and counts more, and leaves the fences, the requests
of the host ports and the ports that are down (R103, R342, R463). -/

namespace Sys2Proof.Machine

/-- A host port apart from the lines it holds modified and the requests it refused. -/
def samePort (h k : HPort) : Prop := k = { h with modified := k.modified, reqDeny := k.reqDeny }

/-- What was sent stays sent; ports, requests, fences and the state of profiles stand; a port that is down caches nothing more. -/
structure Notes (s t : State) : Prop where
  out : s.out <+: t.out
  port : ∀ x, samePort (hport s x) (hport t x)
  down : ∀ x, (hport s x).up = false → (hport t x).modified = (hport s x).modified
  reqs : t.lnk.cxlReqs = s.lnk.cxlReqs
  unit : ∀ u, safUnit t u = { safUnit s u with lost := (safUnit t u).lost }
  cnt : t.cnt = { s.cnt with bank := t.cnt.bank, part := t.cnt.part }
  detected : s.saf.detected <+: t.saf.detected

section
variable {s t u : State}

theorem Notes.refl (s : State) : Notes s s :=
  ⟨List.prefix_refl _, fun _ => rfl, fun _ _ => rfl, rfl, fun _ => rfl, rfl, List.prefix_refl _⟩

theorem Notes.up (h : Notes s t) (x : Nat) : (hport t x).up = (hport s x).up :=
  (congrArg HPort.up (h.port x)).trans rfl

theorem Notes.fenced (h : Notes s t) (x : Nat) : fenced t x = fenced s x :=
  (congrArg SafUnit.fenced (h.unit x)).trans rfl

theorem Notes.testLate (h : Notes s t) (x : Nat) : (safUnit t x).testLate = (safUnit s x).testLate :=
  (congrArg SafUnit.testLate (h.unit x)).trans rfl

theorem Notes.trans (h : Notes s t) (k : Notes t u) : Notes s u where
  out := h.out.trans k.out
  port x := (k.port x).trans (by rw [h.port x])
  down x hx := (k.down x ((h.up x).trans hx)).trans (h.down x hx)
  reqs := k.reqs.trans h.reqs
  unit x := (k.unit x).trans (by rw [h.unit x])
  cnt := k.cnt.trans (by rw [h.cnt])
  detected := h.detected.trans k.detected

theorem foldl_notes {β : Type} {f : State → β → State} (h : ∀ s b, Notes s (f s b)) (l : List β) (s : State) :
    Notes s (l.foldl f s) := foldl_related .refl .trans h l s

/-- Nothing of it is touched. -/
theorem Notes.of_same (ho : t.out = s.out) (hl : t.lnk.hport = s.lnk.hport) (hr : t.lnk.cxlReqs = s.lnk.cxlReqs)
    (hu : t.saf.unit = s.saf.unit) (hc : t.cnt = s.cnt) (hd : t.saf.detected = s.saf.detected) : Notes s t where
  out := by rw [ho]
  port x := by simp only [hport, hl, samePort]
  down x _ := by simp only [hport, hl]
  reqs := hr
  unit x := by simp only [safUnit, hu]
  cnt := by rw [hc]
  detected := by rw [hd]

theorem emit_notes (o : Out) (s : State) : Notes s (emit o s) :=
  { Notes.refl s with out := List.prefix_append _ _ }

theorem bump_notes (u i n : Nat) (s : State) : Notes s (bump u i n s) := by
  unfold bump
  split
  · exact .refl s
  · exact { Notes.refl s with cnt := rfl }

theorem bumpPart_notes (p i n : Nat) (s : State) : Notes s (bumpPart p i n s) := { Notes.refl s with cnt := rfl }

theorem setFilter_notes (line : Nat) (e : Option (Nat × Bool)) (s : State) : Notes s (setFilter line e s) :=
  .of_same rfl rfl rfl rfl rfl rfl

theorem storePiece_notes (a : Nat) (bs : List Byte) (s : State) : Notes s (storePiece a bs s) :=
  .of_same rfl rfl rfl rfl rfl rfl

theorem setAdminQ_notes (p : Nat) (a : AdminQ) (s : State) : Notes s (setAdminQ p a s) := .of_same rfl rfl rfl rfl rfl rfl

/-- A port that is up may hold other lines. -/
theorem setHport_notes {x : Nat} {h : HPort} (s : State) (hsame : samePort (hport s x) h)
    (hdown : (hport s x).up = false → h.modified = (hport s x).modified) : Notes s (setHport x h s) := by
  have hget : ∀ y, hport (setHport x h s) y = if y = x then h else hport s y := fun y => tget_tset _ _ _ _ _
  refine { Notes.refl s with port := fun y => ?_, down := fun y hy => ?_ }
  · by_cases hx : y = x
    · rw [hget, if_pos hx, hx]
      exact hsame
    · rw [hget, if_neg hx]
      exact rfl
  · by_cases hx : y = x
    · subst hx
      rw [hget, if_pos rfl]
      exact hdown hy
    · rw [hget, if_neg hx]

/-! ## Accesses -/

theorem snoopLine_notes (write : Bool) (off : Nat) (s : State) : Notes s (snoopLine write off s) := by
  unfold snoopLine
  split
  · exact .refl s
  · have h := bump_notes (controller (stackOf off)) 6 1 s
    split
    · exact (h.trans (setFilter_notes _ _ _)).trans (emit_notes _ _)
    · split
      · exact (h.trans (setFilter_notes _ _ _)).trans (emit_notes _ _)
      · exact .refl s

theorem touchLine_notes (ctx : Nat) (write : Bool) (s : State) (p : Nat × Nat) : Notes s (touchLine ctx write s p) := by
  refine .trans ?_ (bump_notes _ _ _ _)
  split
  · exact snoopLine_notes _ _ s
  · exact (snoopLine_notes _ _ s).trans (bumpPart_notes _ _ _ _)

theorem countLines_notes (ctx : Nat) (w : Bool) (ps : List (Nat × Nat)) (s : State) : Notes s (countLines ctx w ps s) :=
  foldl_notes (touchLine_notes ctx w) ps s

theorem noteBad_notes (src ctx a : Nat) (st : Status) (s : State) : Notes s (noteBad src ctx a st s) := by
  unfold noteBad
  split
  · exact .of_same rfl rfl rfl rfl rfl rfl
  · split <;> exact .of_same rfl rfl rfl rfl rfl rfl
  · exact .refl s

theorem storeUpTo_notes (off : Nat) (bs : List Byte) (stop : Option Nat) (ps : List (Nat × Nat)) (s : State) :
    Notes s (storeUpTo off bs stop ps s) := by
  induction ps generalizing s with
  | nil => exact .refl s
  | cons e r ih =>
    obtain ⟨a, n⟩ := e
    simp only [storeUpTo]
    split
    · exact .refl s
    · exact (storePiece_notes _ _ s).trans (ih _)

theorem spoolWrite_notes (src ctx off : Nat) (bs : List Byte) (s : State) : Notes s (spoolWrite src ctx off bs s).1 := by
  simp only [spoolWrite]
  split
  · exact ((storeUpTo_notes _ _ _ _ s).trans (countLines_notes _ _ _ _)).trans (noteBad_notes _ _ _ _ _)
  · exact (storeUpTo_notes _ _ _ _ s).trans (countLines_notes _ _ _ _)

/-- A port that is up holds a line it writes. -/
theorem cacheHostLine_notes {x : Nat} (line : Nat) (full : Bool) {s : State} (hup : (hport s x).up = true) :
    Notes s (cacheHostLine x line full s) := by
  have held : ∀ (m : List Nat) (t : State), Notes s t → (hport t x) = hport s x →
      Notes s (setHport x { hport s x with modified := m } t) := fun m t ht hx =>
    ht.trans (setHport_notes t (by rw [hx]; exact rfl) fun hd => absurd (hup.symm.trans ((congrArg HPort.up hx).symm.trans hd)) (by simp))
  simp only [cacheHostLine]
  split
  · exact (held _ s (.refl s) rfl).trans (emit_notes _ _)
  · have hline : Notes s (if (hport s x).modified.contains line then s else emit (.cacheReq x line .rdOwn) s) := by
      split
      · exact .refl s
      · exact emit_notes _ s
    have hx : hport (if (hport s x).modified.contains line then s else emit (.cacheReq x line .rdOwn) s) x = hport s x := by
      split <;> rfl
    split
    · split
      · exact held _ _ hline hx
      · exact (held _ _ hline hx).trans (emit_notes _ _)
    · exact held _ _ hline hx

theorem noteHostDeny_notes (p : Nat) (st : Status) (s : State) : Notes s (noteHostDeny p st s) := by
  unfold noteHostDeny
  split
  · have hseen : Notes s { s with lnk := { s.lnk with hostwinDenySeen := true } } := .of_same rfl rfl rfl rfl rfl rfl
    exact hseen.trans (setHport_notes _ rfl fun _ => rfl)
  · exact .refl s

/-- A host write that goes out goes by a port that is up. -/
theorem hostPortFor_up {s : State} {p off len : Nat} {write : Bool} (h : hostStatus s p off len write = .ok) :
    (hport s ((hostPortFor s p).getD 0)).up = true := by
  unfold hostStatus at h
  split at h
  · exact absurd h (by simp)
  · split at h
    · exact absurd h (by simp)
    · cases hp : hostPortFor s p with
      | none =>
        rw [hp] at h
        exact absurd h (by simp only [absentStatus]; split <;> split <;> simp)
      | some x =>
        have hu : portUsable s x = true := by
          unfold hostPortFor at hp
          dsimp only at hp
          split at hp
          · rename_i hh
            rw [← Option.some.inj hp]
            exact hh
          · split at hp
            · rename_i hh
              rw [← Option.some.inj hp]
              exact (Bool.and_eq_true _ _ ▸ hh).2
            · exact absurd hp (by simp)
        exact (Bool.and_eq_true _ _ ▸ hu).1

theorem cacheHostLines_notes {x : Nat} (ps : List (Nat × Nat)) {s : State} (hup : (hport s x).up = true) :
    Notes s (ps.foldl (fun s pc => cacheHostLine x (pc.1 / 64) (pc.2 == 64) s) s) := by
  induction ps generalizing s with
  | nil => exact .refl s
  | cons e r ih =>
    have h := cacheHostLine_notes (e.1 / 64) (e.2 == 64) hup
    exact h.trans (ih ((h.up x).trans hup))

theorem hostWrite_notes (p off : Nat) (bs : List Byte) (s : State) : Notes s (hostWrite p off bs s).1 := by
  simp only [hostWrite]
  split
  · rename_i hok
    exact ((cacheHostLines_notes _ (hostPortFor_up hok)).trans (bump_notes _ _ _ _)).trans (emit_notes _ _)
  · exact noteHostDeny_notes _ _ s

theorem bufWrite_notes (src p ctx pa : Nat) (bs : List Byte) (s : State) : Notes s (bufWrite src p ctx pa bs s).1 := by
  unfold bufWrite
  split
  · split
    · exact spoolWrite_notes _ _ _ _ s
    · exact .refl s
  · split
    · exact hostWrite_notes _ _ _ s
    · exact .refl s

/-! ## Events and records -/

theorem fireArm_notes (p : Nat) (q : OutQueue) (s : State) : Notes s (fireArm p q s).2 := by
  unfold fireArm
  split
  · unfold sendVector
    split
    · exact .refl s
    · split
      · split
        · exact emit_notes _ s
        · exact .refl s
      · exact .of_same rfl rfl rfl rfl rfl rfl
  · exact .refl s

theorem putEvent_notes (p typ : Nat) (st : Status) (unit object info : Nat) (s : State) :
    Notes s (putEvent p typ st unit object info s).1 := by
  have hb := bufWrite_notes (ownerUnit s (.admin p)) p (adminQ s p).eq.ring.bufCtx.toNat
    ((adminQ s p).eq.ring.pa.toNat + 32 * (adminQ s p).eq.next)
    (eventBytes typ (statusCode st) unit object (unitTime s unit).toNat info (adminQ s p).eq.phase) s
  simp only [putEvent]
  split
  · rename_i h
    rw [h] at hb
    exact (hb.trans (fireArm_notes p _ _)).trans (setAdminQ_notes _ _ _)
  · rename_i h
    rw [h] at hb
    exact hb.trans (setAdminQ_notes _ _ _)

theorem postEvent_notes (p typ : Nat) (st : Status) (unit object info : Nat) (s : State) :
    Notes s (postEvent p typ st unit object info s) := by
  have hlose : ∀ t, Notes t (loseEvent p typ t) := fun t => .of_same rfl rfl rfl rfl rfl rfl
  have hp := putEvent_notes p typ st unit object info s
  simp only [postEvent]
  split
  · exact hlose s
  · split
    · rename_i h
      rw [h] at hp
      exact hp
    · rename_i h
      rw [h] at hp
      exact hp.trans (hlose _)

/-- A record that finds no room counts against its unit. -/
theorem lostRecord_notes {s t : State} (r : Record) (hu : t.saf.unit = tmod {} s.saf.unit r.unit fun u => { u with lost := satInc u.lost })
    (ho : t.out = s.out) (hl : t.lnk = s.lnk) (hc : t.cnt = s.cnt) (hd : t.saf.detected = s.saf.detected) : Notes s t where
  out := by rw [ho]
  port x := by simp only [hport, hl, samePort]
  down x _ := by simp only [hport, hl]
  reqs := by rw [hl]
  unit u := by
    simp only [safUnit, hu, tget_tmod]
    split
    · rename_i h
      rw [h]
    · rfl
  cnt := by rw [hc]
  detected := by rw [hd]

theorem putRecord_notes (r : Record) (s : State) : Notes s (putRecord r s) := by
  simp only [putRecord]
  split <;> split
  · exact .of_same rfl rfl rfl rfl rfl rfl
  · exact lostRecord_notes r rfl rfl rfl rfl rfl
  · exact .of_same rfl rfl rfl rfl rfl rfl
  · exact lostRecord_notes r rfl rfl rfl rfl rfl

theorem writeRecord_notes (r : Record) (s : State) : Notes s (writeRecord r s) := by
  have h := putRecord_notes r s
  simp only [writeRecord]
  split
  · split
    · split
      · exact h.trans (postEvent_notes _ _ _ _ _ _ _)
      · exact (h.trans (postEvent_notes _ _ _ _ _ _ _)).trans (postEvent_notes _ _ _ _ _ _ _)
    · exact h.trans (postEvent_notes _ _ _ _ _ _ _)
  · exact h

theorem handleReport_notes (r : Report) (s : State) : Notes s (handleReport r s) := by
  cases r with
  | event p typ st unit object info => exact postEvent_notes _ _ _ _ _ _ s
  | record r =>
    simp only [handleReport]
    split
    · exact { Notes.refl s with detected := List.prefix_append _ _ }
    · exact writeRecord_notes r s

theorem settleFor_notes (n : Nat) (s : State) : Notes s (settleFor n s) := by
  induction n generalizing s with
  | zero => exact .refl s
  | succ n ih =>
    simp only [settleFor]
    split
    · exact .refl s
    · rename_i r rest _
      have hrest : Notes s { s with saf := { s.saf with todo := rest } } := .of_same rfl rfl rfl rfl rfl rfl
      exact (hrest.trans (handleReport_notes r _)).trans (ih _)

theorem pinSeen_notes (name : String) (old new : Bool) (s : State) : Notes s (pinSeen name old new s) := by
  unfold pinSeen
  split
  · exact .refl s
  · exact emit_notes _ s

/-- How a step ends leaves all this. -/
theorem ended_notes (s t : State) : Notes t (ended s t) := by
  have hseen : Notes t (pinsSeen s.pins (drivePins (settle t))) := by
    have hdrive : Notes (settle t) (drivePins (settle t)) := .of_same rfl rfl rfl rfl rfl rfl
    exact (((settleFor_notes _ t).trans hdrive).trans (pinSeen_notes _ _ _ _)).trans
      ((pinSeen_notes _ _ _ _).trans (pinSeen_notes _ _ _ _))
  exact hseen.trans (.of_same rfl rfl rfl rfl rfl rfl)

end

end Sys2Proof.Machine
end

section
/-! PROOFS. What the end of a host port's requests and its going down can change (R211, R338, R342, R10). -/

namespace Sys2Proof.Machine

/-- Operations and commands end, lines of the port are given up, records wait to be written; the rest of the state stands. -/
def PortWork (s t : State) : Prop := t = { s with
  jcq := t.jcq, sht := t.sht, red := t.red, lnk := t.lnk, cnt := t.cnt, out := t.out, spl := t.spl
  saf := { s.saf with todo := t.saf.todo } }

theorem PortWork.refl (s : State) : PortWork s s := rfl

theorem PortWork.trans {s t u : State} (h : PortWork s t) (k : PortWork t u) : PortWork s u := by
  have e := congrArg (fun x : State => { x with
    jcq := u.jcq, sht := u.sht, red := u.red, lnk := u.lnk, cnt := u.cnt, out := u.out, spl := u.spl
    saf := { x.saf with todo := u.saf.todo } }) h
  exact Eq.trans k e

theorem foldl_portWork {β : Type} {f : State → β → State} (h : ∀ s b, PortWork s (f s b)) (l : List β) (s : State) :
    PortWork s (l.foldl f s) := foldl_related .refl .trans h l s

section
variable {s t : State} (h : PortWork s t)
include h

theorem PortWork.pwr : t.pwr = s.pwr := congrArg (·.pwr) h
theorem PortWork.pins : t.pins = s.pins := congrArg (·.pins) h
theorem PortWork.fw : t.fw = s.fw := congrArg (·.fw) h
theorem PortWork.weft : t.weft = s.weft := congrArg (·.weft) h
theorem PortWork.hang : t.hang = s.hang := congrArg (·.hang) h
theorem PortWork.unit : t.saf.unit = s.saf.unit := congrArg (·.saf.unit) h
theorem PortWork.detected : t.saf.detected = s.saf.detected := congrArg (·.saf.detected) h

end

theorem TakesSlots.portWork {s t : State} (h : TakesSlots s t) : PortWork s t := by
  rw [h]
  exact rfl

theorem EndsWork.portWork {s t : State} (h : EndsWork s t) : PortWork s t := by
  rw [h.frame]
  exact rfl

theorem setComm_portWork (k : Nat) (c : Comm) (s : State) : PortWork s (setComm k c s) := rfl

theorem completeRef_portWork (r : CmdRef) (st : Status) (res : List Nat) (unit : Nat) (s : State) :
    PortWork s (completeRef r st res unit s) := (completeRef_endsWork r st res unit s).portWork

/-! ## Collective operations -/

theorem flushOps_portWork (k : Nat) (l : List RedOp) (s : State) : PortWork s (flushOps k l s) := by
  induction l generalizing s with
  | nil => exact setComm_portWork _ _ s
  | cons o r ih =>
    simp only [flushOps]
    split
    · exact setComm_portWork _ _ s
    · refine .trans ?_ (ih _)
      refine .trans ?_ (t := completeRef _ _ _ _ _) (by exact rfl)
      refine .trans ?_ (completeRef_portWork _ _ _ _ _)
      refine .trans ?_ (sendResults_takesSlots _ _ _ _).portWork
      split
      · exact rfl
      · exact .refl s

theorem endRedOp_portWork (k : Nat) (o : RedOp) (st : Status) (res : List Nat) (s : State) :
    PortWork s (endRedOp k o st res s) := by
  have hdrop : PortWork s (dropWork k o.opseq s) := by
    unfold dropWork
    exact rfl
  unfold endRedOp
  refine .trans ?_ (fillSlots_takesSlots _ _).portWork
  refine .trans ?_ (flushOps_portWork _ _ _)
  exact (hdrop.trans (setComm_portWork _ _ _)).trans (by exact rfl)

theorem checkRedOp_portWork (k : Nat) (os : BitVec 32) (s : State) : PortWork s (checkRedOp k os s) := by
  simp only [checkRedOp]
  split
  · exact .refl s
  · split
    · exact .refl s
    · split
      · exact endRedOp_portWork _ _ _ _ s
      · split
        · exact endRedOp_portWork _ _ _ _ s
        · exact .refl s

/-! ## Queue-pair operations -/

theorem endOp_portWork (o : SendOp) (st : Status) (s : State) : PortWork s (endOp o st s) := by
  simp only [endOp]
  refine .trans ?_ (checkDrain_endsWork _ _).portWork
  have hdrop : PortWork s (dropOp o.id s) := rfl
  split
  · exact hdrop.trans (completeRef_portWork _ _ _ _ _)
  · exact hdrop.trans (by exact rfl)

theorem resolveOp_portWork (q id : Nat) (s : State) : PortWork s (resolveOp q id s) := by
  unfold resolveOp
  split
  · exact .refl s
  · split
    · exact .refl s
    · split
      · exact rfl
      · exact endOp_portWork _ _ s

/-! ## A host port goes down -/

theorem writersGoOn_portWork (w : Nat × Nat) (before s : State) : PortWork s (writersGoOn w before s) :=
  (foldl_portWork (fun _ _ => resolveOp_portWork _ _ _) _ s).trans
    (foldl_portWork (fun _ _ => checkRedOp_portWork _ _ _) _ _)

theorem endCxlReq_portWork (r : CxlReq) (st : Status) (bs : List Byte) (s : State) :
    PortWork s (endCxlReq r st bs s) := by
  have hend : PortWork s (writeEnded (8 + r.port, r.id) st s) := rfl
  simp only [endCxlReq]
  split
  · exact (hend.trans (writersGoOn_portWork (8 + r.port, r.id) s _)).trans (by exact rfl)
  · exact rfl

theorem dropPortLines_portWork (x : Nat) (s : State) : PortWork s (dropPortLines x s) := by
  unfold dropPortLines
  exact .trans (by exact rfl) (foldl_portWork (fun s l => show PortWork s (biTimeoutRecord l s) from rfl) _ _)

theorem cxlDown_portWork (x : Nat) (s : State) : PortWork s (cxlDown x s) := by
  simp only [cxlDown]
  split
  · exact .refl s
  · refine .trans ?_ (t := dropPortLines x _) (by exact rfl)
    refine .trans ?_ (dropPortLines_portWork _ _)
    exact (foldl_portWork (fun _ _ => endCxlReq_portWork _ _ _ _) _ s).trans 
      (foldl_portWork (fun s l => show PortWork s (loseHostLine x s l) from rfl) _ _)

theorem dropAbsentPorts_portWork (s : State) : PortWork s (dropAbsentPorts s) := by
  refine foldl_portWork (fun s x => ?_) _ s
  split
  · exact (cxlDown_portWork x s).trans (by exact rfl)
  · exact .refl s

/-- Dies leave service: the Weft knows, and their ports end their work. -/
theorem setPresent_portWork (v : BitVec 40) (s : State) :
    ∃ w, PortWork { s with weft := w } (setPresent v s) := by
  refine ⟨(setPresent v s).weft, ?_⟩
  simp only [setPresent]
  split
  · exact .refl _
  · have h := dropAbsentPorts_portWork { s with weft := { s.weft with
      diePresent := v
      corr := (s.weft.corr.map fun e => if v.getLsbD e.1 then e else (e.1, { e.2 with valid := false })).filter
        fun (e : Nat × TimeCorr) => decide (e.2 ≠ ({} : TimeCorr)) } }
    rw [h.weft]
    exact h

theorem setPresent_pwr (v : BitVec 40) (s : State) : (setPresent v s).pwr = s.pwr := by
  obtain ⟨w, h⟩ := setPresent_portWork v s
  exact h.pwr

theorem setPresent_pins (v : BitVec 40) (s : State) : (setPresent v s).pins = s.pins := by
  obtain ⟨w, h⟩ := setPresent_portWork v s
  exact h.pins

end Sys2Proof.Machine
end

section
/-! PROOFS. Switched domains (R416 to R419): leaving ON, waking, and what a transition or a wake does when it ends. -/

namespace Sys2Proof.Machine

theorem domain_ended (s t : State) (x : Nat) : domain (ended s t) x = domain t x := by rw [domain, ended_pwr, domain]

theorem domain_of_pwr {s t : State} (h : t.pwr.domain = s.pwr.domain) (x : Nat) : domain t x = domain s x := by
  rw [domain, h, domain]

/-! ## Leaving ON (R417) -/

theorem foldl_releaseTokens_grants (us : List Nat) (s : State) :
    (us.foldl (fun s u => releaseTokens u s) s).pwr.grants = s.pwr.grants.filter fun g => !us.contains g.unit := by
  induction us generalizing s with
  | nil => simp
  | cons u us ih =>
    rw [List.foldl_cons, ih, (releaseTokens_holdings u s).1, List.filter_filter]
    refine List.filter_congr fun g _ => ?_
    by_cases hg : g.unit = u <;> simp [hg]

theorem foldl_releaseTokens_domain (us : List Nat) (s : State) :
    (us.foldl (fun s u => releaseTokens u s) s).pwr.domain = s.pwr.domain :=
  foldl_related (R := fun s t : State => t.pwr.domain = s.pwr.domain) (fun _ => rfl) (fun h k => k.trans h)
    (fun s u => releaseTokens_domain u s) _ _

/-- A domain that is leaving ON. -/
def sleeping (off : Bool) (d : Domain) : Domain :=
  { d with state := .sleeping, toOff := off, wakeHeld := false, idleSince := none }

theorem leaveOn_eq (x : Nat) (off : Bool) (s : State) : leaveOn x off s =
    (domainUnits x).foldl (fun s u => releaseTokens u s) (setDomain x (sleeping off (domain s x)) s) := rfl

theorem leaveOn_domain (x : Nat) (off : Bool) (s : State) : (leaveOn x off s).pwr.domain =
    (setDomain x (sleeping off (domain s x)) s).pwr.domain := by
  rw [leaveOn_eq, foldl_releaseTokens_domain]

theorem domain_leaveOn (x : Nat) (off : Bool) (s : State) : domain (leaveOn x off s) x = sleeping off (domain s x) := by
  rw [domain_of_pwr (leaveOn_domain x off s), domain_setDomain]

theorem domain_leaveOn_other {x y : Nat} (h : y ≠ x) (off : Bool) (s : State) :
    domain (leaveOn x off s) y = domain s y := by
  rw [domain_of_pwr (leaveOn_domain x off s), domain_setDomain_other _ _ _ _ h]

theorem heldUnit_leaveOn {x u : Nat} (h : u ∈ domainUnits x) (off : Bool) (s : State) : heldUnit (leaveOn x off s) u = 0 := by
  have hnone : (leaveOn x off s).pwr.grants.filter (fun g => g.unit == u) = [] := by
    rw [leaveOn_eq, foldl_releaseTokens_grants, List.filter_filter, List.filter_eq_nil_iff]
    intro g _
    by_cases hg : g.unit = u
    · simp [hg, h]
    · simp [hg]
  rw [heldUnit, hnone]
  rfl

theorem heldUnit_ended (s t : State) (u : Nat) : heldUnit (ended s t) u = heldUnit t u := by rw [heldUnit, ended_pwr, heldUnit]

/-- The idle condition has held for the domain's time. -/
def idleDue (s : State) (x : Nat) : Bool :=
  match (domain s x).idleSince with
  | some t => decide ((domain s x).idleUs.toNat * 1000 ≤ since s (dieOf (domainUnit x)) t)
  | none => false

theorem exec_domainIdle_eq (x : Nat) (s : State) : exec (.domainIdleExpiry x) s =
    ends s (if decide (x ≥ 80) || !idleCond s x || !idleDue s x then s
      else leaveOn x ((domain s x).policy == 2 && offOk s x) s) := rfl

theorem exec_domainIdle_stays {x : Nat} {s : State} (hs : settled s) (h : idleCond s x = false ∨ idleDue s x = false) :
    exec (.domainIdleExpiry x) s = .next s := by
  have hstay : (decide (x ≥ 80) || !idleCond s x || !idleDue s x) = true := by
    rcases h with h | h <;> simp [h]
  rw [exec_domainIdle_eq, if_pos hstay]
  exact ends_undisturbed hs (.refl s)

theorem exec_domainIdle_cases {x : Nat} {s : State} (hx : x < 80) (hon : (domain s x).state = .on)
    (hpol : (domain s x).policy ≠ 0) :
    (∀ y : Word64, (domain s x).idleSince = some y →
        (domain s x).idleUs.toNat * 1000 ≤ since s (dieOf (domainUnit x)) y →
        (domain s x).policy = 2 ∧ offOk s x = true ∨ retainOk s x = true → ∃ t, exec (.domainIdleExpiry x) s = .next t ∧
        domain t x = { domain s x with state := .sleeping, toOff := (domain s x).policy == 2 && offOk s x, wakeHeld := false
                                       idleSince := none } ∧
        (∀ u ∈ domainUnits x, heldUnit t u = 0) ∧ ∀ y, y ≠ x → domain t y = domain s y) ∧
    ((domain s x).policy ≠ 2 ∨ offOk s x = false → retainOk s x = false → settled s → exec (.domainIdleExpiry x) s = .next s) ∧
    ((∀ y : Word64, (domain s x).idleSince = some y →
        since s (dieOf (domainUnit x)) y < (domain s x).idleUs.toNat * 1000) → settled s →
      exec (.domainIdleExpiry x) s = .next s) := by
  have hcond : idleCond s x = (((domain s x).policy == 2 && offOk s x) || retainOk s x) := by
    have h0 : ((domain s x).policy != 0) = true := bne_iff_ne.mpr hpol
    simp only [idleCond, hon, h0, Bool.and_true, beq_self_eq_true, Bool.true_and]
  refine ⟨fun y hy hdue hok => ?_, fun hoff hret hs => ?_, fun hearly hs => ?_⟩
  · have hc : idleCond s x = true := by
      rw [hcond]
      rcases hok with ⟨hp, ho⟩ | hr
      · rw [hp, ho]
        rfl
      · rw [hr, Bool.or_true]
    have hd : idleDue s x = true := by simp [idleDue, hy, hdue]
    have hgo : ¬ (decide (x ≥ 80) || !idleCond s x || !idleDue s x) = true := by simp [hc, hd, hx]
    rw [exec_domainIdle_eq, if_neg hgo]
    refine ⟨_, rfl, ?_, fun u hu => ?_, fun y hy => ?_⟩
    · rw [domain_ended, domain_leaveOn]
      rfl
    · rw [heldUnit_ended, heldUnit_leaveOn hu]
    · rw [domain_ended, domain_leaveOn_other hy]
  · refine exec_domainIdle_stays hs (.inl ?_)
    rw [hcond, hret, Bool.or_false]
    rcases hoff with hp | ho
    · rw [beq_eq_false_iff_ne.mpr hp, Bool.false_and]
    · rw [ho, Bool.and_false]
  · refine exec_domainIdle_stays hs (.inr ?_)
    unfold idleDue
    split
    · rename_i y hy
      exact decide_eq_false (Nat.not_le.mpr (hearly y hy))
    · rfl

/-! ## Waking (R418) -/

theorem exec_domainWake_cases {x : Nat} {s : State} (hx : x < 80) (hs : settled s) :
    ((domain s x).state = .on ∨ (domain s x).state = .waking → exec (.domainWake x) s = .next s) ∧
    ((domain s x).state = .sleeping → exec (.domainWake x) s = .next (setDomain x { domain s x with wakeHeld := true } s)) ∧
    ((domain s x).state = .retain ∨ (domain s x).state = .off → exec (.domainWake x) s =
      .next (setDomain x { domain s x with state := .waking, wakes := satInc (domain s x).wakes } s)) := by
  have hexec : exec (.domainWake x) s = .next (wakeDomain x s) := by
    have h : exec (.domainWake x) s = ends s (if x < 80 then wakeDomain x s else s) := rfl
    rw [h, if_pos hx]
    exact ends_undisturbed hs (wakeDomain_undisturbed x s)
  rw [hexec]
  refine ⟨fun h => ?_, fun h => ?_, fun h => ?_⟩
  · rcases h with h | h <;> simp [wakeDomain, h]
  · simp [wakeDomain, h]
  · rcases h with h | h <;> simp [wakeDomain, h]

/-! ## A transition ends (R416) -/

/-- A Bobbin that has lost its scratch memory and its code. -/
def lostInOff (b : Bobbin) : Bobbin := { b with code := [], scratch := [], tags := [], resident := 0 }

theorem bobbinOf_loseOff {x i : Nat} (s : State) (hlo : 32 ≤ x) (hhi : x < 64) (heven : x % 2 = 0) (hi : i < 32) :
    bobbinOf (loseOff x s) (32 * ((x - 32) / 2) + i) = lostInOff (bobbinOf s (32 * ((x - 32) / 2) + i)) := by
  have hfold : loseOff x s = ((List.range 32).map (32 * ((x - 32) / 2) + ·)).foldl (fun s u => modBobbin u lostInOff s) s := by
    rw [loseOff, if_pos ⟨hlo, hhi, heven⟩, List.foldl_map]
    rfl
  rw [hfold, bobbinOf_foldl_modBobbin (f := lostInOff) (fun _ => rfl), if_pos (List.mem_map.mpr ⟨i, List.mem_range.mpr hi, rfl⟩)]

/-- A port that was entering low power is in it. -/
def portLow (x : Nat) (s : State) : State :=
  if 64 ≤ x ∧ x < 72 ∧ (ethp s (x - 64)).power = .entering then modEthp (x - 64) (fun p => { p with power := .low }) s else s

theorem portLow_bob (x : Nat) (s : State) : (portLow x s).bob = s.bob := by
  unfold portLow
  split <;> rfl

/-- A domain's transition has ended. -/
def transitioned (x : Nat) (s : State) : State :=
  setDomain x { domain s x with state := if (domain s x).toOff then .off else .retain, wakeHeld := false }
    (portLow x (if (domain s x).toOff then loseOff x s else s))

theorem transitionDone_eq {x : Nat} {s : State} (h : (domain s x).state = .sleeping) :
    transitionDone x s = if (domain s x).wakeHeld then wakeDomain x (transitioned x s) else transitioned x s := by
  simp only [transitionDone, h, ne_eq, not_true, if_false]
  rfl

theorem domain_transitioned (x : Nat) (s : State) : domain (transitioned x s) x =
    { domain s x with state := if (domain s x).toOff then .off else .retain, wakeHeld := false } := domain_setDomain _ _ _

theorem wakeDomain_bob (x : Nat) (s : State) : (wakeDomain x s).bob = s.bob := by
  simp only [wakeDomain]
  split <;> rfl

theorem domain_wakeDomain {x : Nat} {s : State} (h : (domain s x).state = .retain ∨ (domain s x).state = .off) :
    domain (wakeDomain x s) x = { domain s x with state := .waking, wakes := satInc (domain s x).wakes } := by
  rcases h with h | h <;> simp [wakeDomain, h]

theorem transitioned_bob (x : Nat) (s : State) :
    (transitioned x s).bob = (if (domain s x).toOff then loseOff x s else s).bob := by
  rw [transitioned, setDomain_bob, portLow_bob]

theorem transitionDone_bob {x : Nat} {s : State} (h : (domain s x).state = .sleeping) :
    (transitionDone x s).bob = (if (domain s x).toOff then loseOff x s else s).bob := by
  rw [transitionDone_eq h, ← transitioned_bob]
  split
  · exact wakeDomain_bob _ _
  · rfl

theorem domain_transitionDone {x : Nat} {s : State} (h : (domain s x).state = .sleeping) :
    ((domain s x).wakeHeld = false → (domain (transitionDone x s) x).state = if (domain s x).toOff then .off else .retain) ∧
    ((domain s x).wakeHeld = true → (domain (transitionDone x s) x).state = .waking ∧
      (domain (transitionDone x s) x).wakes = satInc (domain s x).wakes) ∧
    (domain (transitionDone x s) x).wakeHeld = false := by
  have hst : (domain (transitioned x s) x).state = .retain ∨ (domain (transitioned x s) x).state = .off := by
    rw [domain_transitioned]
    cases (domain s x).toOff
    · exact .inl rfl
    · exact .inr rfl
  rw [transitionDone_eq h]
  cases hw : (domain s x).wakeHeld
  · simp [domain_transitioned]
  · simp [domain_wakeDomain hst, domain_transitioned]

theorem exec_transition_ends {x : Nat} {s : State} (h : (domain s x).state = .sleeping) :
    ∃ t, exec (.domainTransitionComplete x) s = .next t ∧
      ((domain s x).wakeHeld = false → (domain t x).state = if (domain s x).toOff then .off else .retain) ∧
      ((domain s x).wakeHeld = true → (domain t x).state = .waking ∧ (domain t x).wakes = satInc (domain s x).wakes) ∧
      (domain t x).wakeHeld = false ∧ ((domain s x).toOff = true → 32 ≤ x → x < 64 → x % 2 = 0 → ∀ i < 32,
        (bobbinOf t (32 * ((x - 32) / 2) + i)).scratch = [] ∧ (bobbinOf t (32 * ((x - 32) / 2) + i)).code = []) := by
  refine ⟨ended s (transitionDone x s), rfl, ?_⟩
  rw [domain_ended]
  obtain ⟨hrest, hwake, hheld⟩ := domain_transitionDone h
  refine ⟨hrest, hwake, hheld, fun hoff hlo hhi heven i hi => ?_⟩
  have hb : bobbinOf (ended s (transitionDone x s)) (32 * ((x - 32) / 2) + i) =
      lostInOff (bobbinOf s (32 * ((x - 32) / 2) + i)) := by
    rw [← bobbinOf_loseOff s hlo hhi heven hi, bobbinOf, ended_bob, transitionDone_bob h, if_pos hoff, bobbinOf]
  rw [hb]
  exact ⟨rfl, rfl⟩

/-! ## A wake ends (R418) -/

/-- Operations of Ethernet end and reports are left; the rest of the state stands. -/
def EthWork (s t : State) : Prop := t = { s with
  jcq := t.jcq, sht := t.sht, eth := t.eth, saf := { s.saf with todo := t.saf.todo } }

theorem EthWork.refl (s : State) : EthWork s s := rfl

theorem EthWork.trans {s t u : State} (h : EthWork s t) (k : EthWork t u) : EthWork s u := by
  have e := congrArg (fun x : State => { x with
    jcq := u.jcq, sht := u.sht, eth := u.eth, saf := { x.saf with todo := u.saf.todo } }) h
  exact Eq.trans k e

theorem EthWork.pwr {s t : State} (h : EthWork s t) : t.pwr = s.pwr := congrArg (·.pwr) h

theorem EndsWork.ethWork {s t : State} (h : EndsWork s t) : EthWork s t := by
  rw [h.frame]
  exact rfl

theorem setSub_ethWork (k i : Nat) (u : EthSub) (s : State) : EthWork s (setSub k i u s) := rfl

theorem ethErr_ethWork (i : Nat) (s : State) : EthWork s (ethErr i s) := rfl

theorem ethCount_ethWork (k sub i n : Nat) (s : State) : EthWork s (ethCount k sub i n s) := by
  simp only [ethCount]
  split
  · exact .refl s
  · have hsub : ∀ u, EthWork s (setSub k sub u s) := fun u => setSub_ethWork _ _ _ s
    have hrep : ∀ r t, EthWork t (report r t) := fun _ _ => rfl
    split <;> split
    · exact ((hsub _).trans (ethErr_ethWork 4 _)).trans ((ethErr_ethWork 3 _).trans (hrep _ _))
    · exact (hsub _).trans ((ethErr_ethWork 3 _).trans (hrep _ _))
    · exact (hsub _).trans (ethErr_ethWork 4 _)
    · exact hsub _

theorem flushSub_ethWork (k i : Nat) (s : State) : EthWork s (flushSub k i s) := by
  have hflushed : EthWork s (setEthp k (flushedPort (ethp s k) i) s) := rfl
  have hnote : ∀ t, EthWork t (noteFlush k i (waitingOn (ethp s k) i) t) := fun t => by
    unfold noteFlush
    split
    · exact ethCount_ethWork _ _ _ _ t
    · exact (ethCount_ethWork _ _ _ _ t).trans (ethErr_ethWork _ _)
  rw [flushSub_eq]
  exact (hflushed.trans (hnote _)).trans
    (foldl_related .refl .trans (fun s pkt => (endPacket_endsWork pkt .aborted [] s).ethWork) _ _)

theorem setLink_ethWork (k i : Nat) (l : EthLink) (s : State) : EthWork s (setLink k i l s) := by
  simp only [setLink]
  split
  · refine .trans ?_ (flushSub_ethWork _ _ _)
    split
    · exact ((setSub_ethWork _ _ _ s).trans (setSub_ethWork _ _ _ _)).trans (endPacket_endsWork _ _ _ _).ethWork
    · exact setSub_ethWork _ _ _ s
  · exact setSub_ethWork _ _ _ s

theorem trainSubs_ethWork (k : Nat) (s : State) : EthWork s (trainSubs k s) := by
  unfold trainSubs
  refine .trans (by exact rfl) (foldl_related .refl .trans (fun s i => ?_) _ _)
  split
  · exact setLink_ethWork _ _ _ s
  · exact .refl s

/-- Mailbox events that waited follow: reports wait to be handled. -/
theorem releaseMail_frame (x : Nat) (s : State) : (releaseMail x s).pwr = s.pwr ∧ (releaseMail x s).eth = s.eth := by
  unfold releaseMail
  refine foldl_related (R := fun s t : State => t.pwr = s.pwr ∧ t.eth = s.eth) (fun _ => ⟨rfl, rfl⟩)
    (fun h k => ⟨k.1.trans h.1, k.2.trans h.2⟩) (fun s m => ?_) _ s
  dsimp only
  split <;> exact ⟨rfl, rfl⟩

/-- A reset that waits for the domain, and a crossing into its islands, are timed from now on. -/
def retimedReset (x : Nat) (s : State) (r : ResetRun) : ResetRun :=
  if !r.reached && domainOf r.unit == some x then { r with at_ := unitTime s r.unit } else r

def retimedCrossing (x : Nat) (s : State) (c : Crossing) : Crossing :=
  if domainOf (islandUnit c.island) == some x then { c with began := unitTime s (islandUnit c.island) } else c

def retimed (x : Nat) (s : State) : State :=
  { s with
    hang := { s.hang with resets := s.hang.resets.map (retimedReset x s) }
    pwr := { s.pwr with crossings := s.pwr.crossings.map (retimedCrossing x s) } }

/-- A domain that woke is ON, with its messages and mail on their way. -/
def wokenDomain (x : Nat) (s : State) : State :=
  releaseMail x (releaseMsgs x (setDomain x { domain s x with state := .on } (retimed x s)))

theorem wakeDone_eq {x : Nat} {s : State} (h : (domain s x).state = .waking) : wakeDone x s =
    if x < 64 ∨ 72 ≤ x then wokenDomain x s
    else if (ethp (wokenDomain x s) (x - 64)).power = .entering then leaveOn x false (wokenDomain x s)
    else trainSubs (x - 64) (wokenDomain x s) := by
  have hne : ¬ (domain s x).state ≠ .waking := fun hn => hn h
  simp only [wakeDone]
  rw [if_neg hne]
  rfl

theorem releaseMsgs_none {x : Nat} {s : State} (h : ∀ m ∈ s.weft.heldMsgs, domainOf (headFlit m.msg).dest ≠ some x) :
    (releaseMsgs x s).pwr = s.pwr ∧ (releaseMsgs x s).eth = s.eth := by
  have hnone : s.weft.heldMsgs.filter (fun m => domainOf (headFlit m.msg).dest == some x) = [] := by
    rw [List.filter_eq_nil_iff]
    intro m hm
    simpa using h m hm
  have own : releaseMsgs x s = { s with weft := (releaseMsgs x s).weft } := by
    simp only [releaseMsgs, hnone, List.foldl_nil]
  rw [own]
  exact ⟨rfl, rfl⟩

theorem wokenDomain_frame {x : Nat} {s : State} (h : ∀ m ∈ s.weft.heldMsgs, domainOf (headFlit m.msg).dest ≠ some x) :
    (wokenDomain x s).pwr.domain = (setDomain x { domain s x with state := .on } s).pwr.domain ∧
      (wokenDomain x s).eth = s.eth := by
  obtain ⟨hpwr, heth⟩ := releaseMail_frame x (releaseMsgs x (setDomain x { domain s x with state := .on } (retimed x s)))
  have hheld : (setDomain x { domain s x with state := .on } (retimed x s)).weft = s.weft := rfl
  obtain ⟨hpwr', heth'⟩ := releaseMsgs_none (x := x) (s := setDomain x { domain s x with state := .on } (retimed x s))
    (by rw [hheld]; exact h)
  rw [wokenDomain, hpwr, hpwr', heth, heth']
  exact ⟨rfl, rfl⟩

theorem exec_wake_ends {x : Nat} {s : State} (hw : (domain s x).state = .waking)
    (hm : ∀ h ∈ s.weft.heldMsgs, domainOf (headFlit h.msg).dest ≠ some x) : ∃ t, exec (.domainWakeComplete x) s = .next t ∧
      (x < 64 ∨ 72 ≤ x ∨ (ethp s (x - 64)).power ≠ .entering → domain t x = { domain s x with state := .on }) ∧
      (64 ≤ x → x < 72 → (ethp s (x - 64)).power = .entering → (domain t x).state = .sleeping) ∧
      ∀ y, y ≠ x → domain t y = domain s y := by
  obtain ⟨hdom, heth⟩ := wokenDomain_frame hm
  have hpower : ethp (wokenDomain x s) (x - 64) = ethp s (x - 64) := by rw [ethp, heth, ethp]
  have hwoken : domain (wokenDomain x s) x = { domain s x with state := .on } := by
    rw [domain_of_pwr hdom, domain_setDomain]
  have hother : ∀ y, y ≠ x → domain (wokenDomain x s) y = domain s y := fun y hy => by
    rw [domain_of_pwr hdom, domain_setDomain_other _ _ _ _ hy]
  refine ⟨ended s (wakeDone x s), rfl, ?_⟩
  simp only [domain_ended]
  rw [wakeDone_eq hw, hpower]
  by_cases hx : x < 64 ∨ 72 ≤ x
  · rw [if_pos hx]
    exact ⟨fun _ => hwoken, fun hlo hhi => by omega, hother⟩
  · rw [if_neg hx]
    by_cases hp : (ethp s (x - 64)).power = .entering
    · rw [if_pos hp]
      refine ⟨fun h => ?_, fun _ _ _ => ?_, fun y hy => ?_⟩
      · rcases h with h | h | h
        · exact absurd (.inl h) hx
        · exact absurd (.inr h) hx
        · exact absurd hp h
      · rw [domain_leaveOn]
        rfl
      · rw [domain_leaveOn_other hy, hother y hy]
    · rw [if_neg hp]
      have hsubs : ∀ y, domain (trainSubs (x - 64) (wokenDomain x s)) y = domain (wokenDomain x s) y :=
        domain_of_pwr (congrArg (·.domain) (trainSubs_ethWork _ _).pwr)
      simp only [hsubs]
      exact ⟨fun _ => hwoken, fun _ _ h => absurd h hp, hother⟩

end Sys2Proof.Machine
end
section
/-! PROOFS. Regulators, pace, temperatures and clock crossings (R414, R420 to R426, R517). -/

namespace Sys2Proof.Machine

/-! ## Regulators (R420, R421) -/

theorem regulator_of_vr {s t : State} (h : t.pwr.vr = s.pwr.vr) (i : Nat) : regulator t i = regulator s i := by
  rw [regulator, h, regulator]

@[simp] theorem regulator_setRegulator_same (i : Nat) (r : Regulator) (s : State) : regulator (setRegulator i r s) i = r :=
  tget_tset_same _ _ _ _

theorem railVolt_of_vr {s t : State} (h : t.pwr.vr = s.pwr.vr) (role : Nat) : railVolt t role = railVolt s role := by
  rw [railVolt, h, railVolt]

/-- The role of the rail that feeds a domain (R509). -/
def railRole (x : Nat) : Nat := if x < 32 then 1 else if x < 64 then 2 else 3

/-- A domain that reports the voltage of its rail. -/
def railDomain (s : State) (x : Nat) : State := setDomain x { domain s x with voltMv := railVolt s (railRole x) } s

/-- The first domains report their rails. -/
def railDomains (n : Nat) (s : State) : State := (List.range n).foldl railDomain s

theorem railDomains_volts (n : Nat) (s : State) : (railDomains n s).pwr.vr = s.pwr.vr ∧
    ∀ x < n, (domain (railDomains n s) x).voltMv = railVolt s (railRole x) := by
  induction n with
  | zero => exact ⟨rfl, fun x hx => absurd hx (Nat.not_lt_zero x)⟩
  | succ n ih =>
    obtain ⟨hvr, hvolt⟩ := ih
    have hlast : railDomains (n + 1) s = railDomain (railDomains n s) n := by
      rw [railDomains, List.range_succ, List.foldl_append, List.foldl_cons, List.foldl_nil, railDomains]
    rw [hlast]
    refine ⟨hvr, fun x hx => ?_⟩
    by_cases hn : x = n
    · rw [hn, railDomain, domain_setDomain]
      exact railVolt_of_vr hvr _
    · rw [railDomain, domain_setDomain_other _ _ _ _ hn]
      exact hvolt x (by omega)

theorem railDomains_frame (n : Nat) (s : State) : (railDomains n s).pwr.vrFaultSeen = s.pwr.vrFaultSeen ∧
    (railDomains n s).seed = s.seed :=
  foldl_related (R := fun s t : State => t.pwr.vrFaultSeen = s.pwr.vrFaultSeen ∧ t.seed = s.seed) (f := railDomain)
    (fun _ => ⟨rfl, rfl⟩) (fun h k => ⟨k.1.trans h.1, k.2.trans h.2⟩) (fun _ _ => ⟨rfl, rfl⟩) (List.range n) s

/-- The first dies report the rail of their always-on islands. -/
def railDies (n : Nat) (s : State) : State :=
  { s with pwr := { s.pwr with dieVolt := (List.range n).foldl (fun t d => tset 0 t d (railVolt s 9)) [] } }

theorem railDies_volts (n : Nat) (s : State) {d : Nat} (hd : d < n) :
    tget 0 (railDies n s).pwr.dieVolt d = railVolt s 9 := by
  rw [railDies, tget_foldl_range 0 (fun _ => railVolt s 9) [] n d, if_pos hd]

theorem railDies_pwr (n : Nat) (s : State) : (railDies n s).pwr.vr = s.pwr.vr ∧ (railDies n s).pwr.domain = s.pwr.domain ∧
    (railDies n s).pwr.vrFaultSeen = s.pwr.vrFaultSeen ∧ (railDies n s).seed = s.seed := ⟨rfl, rfl, rfl, rfl⟩

theorem spreadVolts_eq (s : State) : spreadVolts s = railDies 40 (railDomains 80 s) := by
  have hone : (fun (s : State) (x : Nat) => setDomain x { domain s x with
      voltMv := railVolt s (if x < 32 then 1 else if x < 64 then 2 else 3) } s) = railDomain := rfl
  simp only [spreadVolts, railDies, railDomains, hone]

theorem spreadVolts_volts (s : State) : (spreadVolts s).pwr.vr = s.pwr.vr ∧
    (∀ d < 40, tget 0 (spreadVolts s).pwr.dieVolt d = railVolt s 9) ∧
    ∀ x < 80, (domain (spreadVolts s) x).voltMv = railVolt s (railRole x) := by
  obtain ⟨hvr, hvolt⟩ := railDomains_volts 80 s
  obtain ⟨hdvr, hddom, _, _⟩ := railDies_pwr 40 (railDomains 80 s)
  rw [spreadVolts_eq]
  exact ⟨hdvr.trans hvr, fun d hd => (railDies_volts 40 _ hd).trans (railVolt_of_vr hvr 9), fun x hx =>
    (congrArg Domain.voltMv (domain_of_pwr hddom x)).trans (hvolt x hx)⟩

theorem spreadVolts_frame (s : State) : (spreadVolts s).pwr.vrFaultSeen = s.pwr.vrFaultSeen ∧
    (spreadVolts s).seed = s.seed := by
  obtain ⟨_, _, hdf, hds⟩ := railDies_pwr 40 (railDomains 80 s)
  obtain ⟨hf, hs⟩ := railDomains_frame 80 s
  rw [spreadVolts_eq]
  exact ⟨hdf.trans hf, hds.trans hs⟩

/-- `MEASURED` sums the powers read. -/
def measured (s : State) : State :=
  { s with pwr := { s.pwr with measuredMw := BitVec.ofNat 32 (s.pwr.vr.foldl (fun a e => a + e.2.poutMw) 0) } }

theorem pmbusPoll_eq (ps : List PmbPoll) (s : State) : pmbusPoll ps s = measured (spreadVolts (ps.foldl pollOne s)) := rfl

theorem measured_frame (s : State) : (measured s).pwr.vr = s.pwr.vr ∧ (measured s).pwr.domain = s.pwr.domain ∧
    (measured s).pwr.dieVolt = s.pwr.dieVolt ∧ (measured s).pwr.vrFaultSeen = s.pwr.vrFaultSeen ∧
    (measured s).seed = s.seed := ⟨rfl, rfl, rfl, rfl, rfl⟩

theorem measured_sum (s : State) : (measured s).pwr.measuredMw =
    BitVec.ofNat 32 ((measured s).pwr.vr.foldl (fun a e => a + e.2.poutMw) 0) := rfl

theorem exec_pmbusPoll_volts (ps : List PmbPoll) (s : State) :
    (∀ d < 40, tget 0 (ended s (pmbusPoll ps s)).pwr.dieVolt d = railVolt (ended s (pmbusPoll ps s)) 9) ∧
      (∀ x < 80, (domain (ended s (pmbusPoll ps s)) x).voltMv = railVolt (ended s (pmbusPoll ps s)) (railRole x)) ∧
      (ended s (pmbusPoll ps s)).pwr.measuredMw =
        BitVec.ofNat 32 ((ended s (pmbusPoll ps s)).pwr.vr.foldl (fun a e => a + e.2.poutMw) 0) := by
  obtain ⟨hvr, hdie, hdom⟩ := spreadVolts_volts (ps.foldl pollOne s)
  obtain ⟨hmvr, hmdom, hmdie, _, _⟩ := measured_frame (spreadVolts (ps.foldl pollOne s))
  have hp : (ended s (pmbusPoll ps s)).pwr = (measured (spreadVolts (ps.foldl pollOne s))).pwr := by
    rw [ended_pwr, pmbusPoll_eq]
  have hvr' : (ended s (pmbusPoll ps s)).pwr.vr = (ps.foldl pollOne s).pwr.vr := by rw [hp, hmvr, hvr]
  refine ⟨fun d hd => ?_, fun x hx => ?_, ?_⟩
  · rw [railVolt_of_vr hvr', hp, hmdie, hdie d hd]
  · rw [railVolt_of_vr hvr', ← hdom x hx, domain_of_pwr (s := spreadVolts (ps.foldl pollOne s)) (by rw [hp, hmdom])]
  · rw [hp, measured_sum]

/-- A regulator with the words of a poll that it can hold. -/
def readWords (k v a w : Nat) (r : Regulator) : Regulator :=
  { r with
    voutMv := BitVec.ofNat 16 (reading k 16 (linear11 v 1000))
    ioutDa := BitVec.ofNat 16 (reading (k + 1) 16 (linear11 a 10))
    poutW := BitVec.ofNat 16 (reading (k + 2) 16 (linear11 w 1))
    poutMw := reading (k + 3) 32 (linear11 w 1000) }

theorem pmbStatus_quiet {i st : Nat} {s : State} (hf : faultBits st = false) :
    pmbStatus i st s = setRegulator i { regulator s i with status := BitVec.ofNat 16 st, fails := 0 } s := by
  simp only [pmbStatus, hf, Bool.false_eq_true, if_false]

theorem pollOne_words {s : State} {i v a w : Nat} (hv : (regulator s i).valid = true) :
    pollOne s { vr := i, words := some (0, v, a, w) } =
      setRegulator i { readWords s.seed v a w (regulator s i) with status := 0, fails := 0 }
        (setRegulator i (readWords s.seed v a w (regulator s i)) { s with seed := s.seed + 4 }) := by
  have hgo : ¬ (!(regulator s i).valid) = true := by simp [hv]
  have hpoll : pollOne s { vr := i, words := some (0, v, a, w) } =
      pmbStatus i 0 (setRegulator i (readWords s.seed v a w (regulator s i)) { s with seed := s.seed + 4 }) := by
    simp only [pollOne]
    rw [if_neg hgo]
    rfl
  rw [hpoll, pmbStatus_quiet rfl, regulator_setRegulator_same]
  rfl

theorem exec_pmbusPoll_reads {s : State} {ps : List PmbPoll} {i v a w mv : Nat}
    (hps : ps = [{ vr := i, words := some (0, v, a, w) }]) (hv : (regulator s i).valid = true)
    (hl : linear11 v 1000 = some mv) (hmv : mv < 2 ^ 16) :
    (regulator (ended s (pmbusPoll ps s)) i).voutMv.toNat = mv ∧ (regulator (ended s (pmbusPoll ps s)) i).fails = 0 ∧
      (regulator (ended s (pmbusPoll ps s)) i).status = 0 ∧
      (ended s (pmbusPoll ps s)).pwr.vrFaultSeen = s.pwr.vrFaultSeen ∧ (ended s (pmbusPoll ps s)).seed = s.seed + 4 := by
  have hone : ps.foldl pollOne s = pollOne s { vr := i, words := some (0, v, a, w) } := by rw [hps]; rfl
  obtain ⟨hmvr, _, _, hmfault, hmseed⟩ := measured_frame (spreadVolts (ps.foldl pollOne s))
  have hp : (ended s (pmbusPoll ps s)).pwr = (measured (spreadVolts (ps.foldl pollOne s))).pwr := by
    rw [ended_pwr, pmbusPoll_eq]
  have hvr : (ended s (pmbusPoll ps s)).pwr.vr = (ps.foldl pollOne s).pwr.vr := by
    rw [hp, hmvr, (spreadVolts_volts _).1]
  have hreg : regulator (ended s (pmbusPoll ps s)) i = { readWords s.seed v a w (regulator s i) with status := 0, fails := 0 } := by
    rw [regulator_of_vr hvr, hone, pollOne_words hv, regulator_setRegulator_same]
  rw [hreg]
  refine ⟨?_, rfl, rfl, ?_, ?_⟩
  · have hread : reading s.seed 16 (linear11 v 1000) = mv := by rw [hl]; exact if_pos hmv
    show (BitVec.ofNat 16 (reading s.seed 16 (linear11 v 1000))).toNat = mv
    rw [hread, BitVec.toNat_ofNat]
    exact Nat.mod_eq_of_lt hmv
  · rw [hp, hmfault, (spreadVolts_frame _).1, hone, pollOne_words hv]
    rfl
  · rw [ended_seed, pmbusPoll_eq, hmseed, (spreadVolts_frame _).2, hone, pollOne_words hv]
    rfl

/-- What a regulator's fault does outside a start: the bit, CLEAR_FAULTS, and a record. -/
theorem vrFault_frame {i st : Nat} {s : State} (hf : s.fw.start = none) :
    (vrFault i st s).pwr = { s.pwr with vrFaultSeen := true } ∧ .pmbus i 3 0 ∈ (vrFault i st s).out := by
  simp only [vrFault, hf]
  split
  · exact ⟨rfl, List.mem_append_right _ (List.mem_singleton.mpr rfl)⟩
  · exact ⟨rfl, List.mem_append_right _ (List.mem_singleton.mpr rfl)⟩

theorem exec_pmbusAlert_word {i st : Nat} {s : State} (hv : (regulator s i).valid = true) :
    exec (.pmbusAlert i (some st)) s = ends s (pmbStatus i st s) := by
  have h : exec (.pmbusAlert i (some st)) s = ends s (pmbusAlert i (some st) s) := rfl
  rw [h]
  simp only [pmbusAlert, hv, Bool.not_true, Bool.false_eq_true, if_false]

theorem exec_pmbusAlert_silent {i : Nat} {s : State} (hv : (regulator s i).valid = true) :
    exec (.pmbusAlert i none) s = ends s (pmbFailed i s) := by
  have h : exec (.pmbusAlert i none) s = ends s (pmbusAlert i none s) := rfl
  rw [h]
  simp only [pmbusAlert, hv, Bool.not_true, Bool.false_eq_true, if_false]

theorem pmbStatus_fault {i st : Nat} {s : State} (hf : faultBits st = true) : pmbStatus i st s =
    vrFault i (st % 65536) (setRegulator i { regulator s i with status := BitVec.ofNat 16 st, fails := 0 } s) := by
  simp only [pmbStatus, hf, if_true]

theorem pmbFailed_pwr {i : Nat} {s : State} (hstart : s.fw.start = none) : (pmbFailed i s).pwr =
    { (setRegulator i { regulator s i with fails := min 3 ((regulator s i).fails + 1) } s).pwr with
      vrFaultSeen := s.pwr.vrFaultSeen || (regulator s i).fails == 2 } := by
  simp only [pmbFailed]
  by_cases h2 : (regulator s i).fails = 2
  · have hstart' : (setRegulator i { regulator s i with fails := min 3 ((regulator s i).fails + 1) } s).fw.start = none := hstart
    rw [if_pos h2, (vrFault_frame hstart').1, beq_iff_eq.mpr h2, Bool.or_true]
  · rw [if_neg h2, beq_eq_false_iff_ne.mpr h2, Bool.or_false]
    rfl

theorem exec_pmbusAlert_cases {i : Nat} {w : Option Nat} {s : State} (hv : (regulator s i).valid = true)
    (hstart : s.fw.start = none) :
    (∀ st, w = some st → faultBits st = false → settled s → exec (.pmbusAlert i w) s =
      .next (setRegulator i { regulator s i with status := BitVec.ofNat 16 st, fails := 0 } s)) ∧
    (∀ st, w = some st → faultBits st = true → ∃ t, exec (.pmbusAlert i w) s = .next t ∧ t.pwr.vrFaultSeen = true ∧
      (regulator t i).status = BitVec.ofNat 16 st ∧ .pmbus i 3 0 ∈ t.out) ∧
    (w = none → ∃ t, exec (.pmbusAlert i w) s = .next t ∧
      (regulator t i).fails = min 3 ((regulator s i).fails + 1) ∧
      t.pwr.vrFaultSeen = (s.pwr.vrFaultSeen || (regulator s i).fails == 2)) := by
  refine ⟨fun st hw hf hs => ?_, fun st hw hf => ?_, fun hw => ?_⟩
  · rw [hw, exec_pmbusAlert_word hv, pmbStatus_quiet hf]
    exact ends_undisturbed hs ⟨rfl, rfl, rfl, rfl, rfl, rfl⟩
  · have hset : (setRegulator i { regulator s i with status := BitVec.ofNat 16 st, fails := 0 } s).fw.start = none := hstart
    obtain ⟨hpwr, hout⟩ := vrFault_frame (i := i) (st := st % 65536) hset
    rw [hw, exec_pmbusAlert_word hv, pmbStatus_fault hf]
    refine ⟨_, rfl, ?_, ?_, (ended_notes s _).out.subset hout⟩
    · rw [ended_pwr, hpwr]
    · rw [regulator, ended_pwr, hpwr]
      exact congrArg Regulator.status (regulator_setRegulator_same i _ s)
  · rw [hw, exec_pmbusAlert_silent hv]
    refine ⟨_, rfl, ?_, ?_⟩
    · rw [regulator, ended_pwr, pmbFailed_pwr hstart]
      exact congrArg Regulator.fails (regulator_setRegulator_same i _ s)
    · rw [ended_pwr, pmbFailed_pwr hstart]

/-! ## Pace (R422, R423) -/

/-- A domain with a pace sample in. -/
def paced (v : BitVec 12) (d : Domain) : Domain := { d with pace := v, paceMin := if v ≠ 0 ∧ v < d.paceMin then v else d.paceMin }

/-- A domain with a sample below its floor. -/
def pacedLow (v : BitVec 12) (d : Domain) : Domain :=
  { paced v d with lowSamples := d.lowSamples + 1, lowMin := if d.lowSamples = 0 ∨ v < d.lowMin then v else d.lowMin }

theorem paceSample_enough {x pace : Nat} {s : State} (hon : (domain s x).state = .on) (h : paceFloor x ≤ pace % 4096) :
    paceSample x pace s = setDomain x { paced (BitVec.ofNat 12 pace) (domain s x) with lowSamples := 0, episode := false } s := by
  have hge : (domain s x).state ≠ .on ∨ (BitVec.ofNat 12 pace).toNat ≥ paceFloor x := .inr (by rw [BitVec.toNat_ofNat]; exact h)
  simp only [paceSample, if_pos hon]
  rw [if_pos hge]
  rfl

theorem paceSample_low {x pace : Nat} {s : State} (hon : (domain s x).state = .on) (h : pace % 4096 < paceFloor x) :
    paceSample x pace s =
      if (domain s x).lowSamples + 1 ≥ 16 ∧ !(domain s x).episode then
        record { mkRecord (setDomain x { pacedLow (BitVec.ofNat 12 pace) (domain s x) with episode := true }
            { s with pwr := { s.pwr with paceLowSeen := true } }) (domainUnit x) 0x0602 with
          info0 := x, info1 := (pacedLow (BitVec.ofNat 12 pace) (domain s x)).lowMin.toNat }
          (setDomain x { pacedLow (BitVec.ofNat 12 pace) (domain s x) with episode := true }
            { s with pwr := { s.pwr with paceLowSeen := true } })
      else setDomain x (pacedLow (BitVec.ofNat 12 pace) (domain s x)) s := by
  have hlt : ¬ ((domain s x).state ≠ .on ∨ (BitVec.ofNat 12 pace).toNat ≥ paceFloor x) := by
    rw [BitVec.toNat_ofNat]
    rintro (hoff | hge)
    · exact hoff hon
    · omega
  simp only [paceSample, if_pos hon]
  rw [if_neg hlt]
  rfl

theorem exec_paceSample_eq {x : Nat} (pace : Nat) (s : State) (hx : x < 80) :
    exec (.paceSample x pace) s = .next (ended s (paceSample x pace s)) := by
  have h : exec (.paceSample x pace) s = ends s (if x < 80 then paceSample x pace s else s) := rfl
  rw [h, if_pos hx]
  rfl

theorem exec_paceSample_cases {x pace : Nat} {s : State} (hx : x < 80) (hon : (domain s x).state = .on) :
    (paceFloor x ≤ pace % 4096 → ∃ t, exec (.paceSample x pace) s = .next t ∧
      (domain t x).pace.toNat = pace % 4096 ∧ (domain t x).lowSamples = 0 ∧ (domain t x).episode = false) ∧
    (pace % 4096 < paceFloor x → ∃ t, exec (.paceSample x pace) s = .next t ∧
      (domain t x).pace.toNat = pace % 4096 ∧ (domain t x).lowSamples = (domain s x).lowSamples + 1 ∧
      (domain t x).episode = ((domain s x).episode || decide (15 ≤ (domain s x).lowSamples)) ∧
      (15 ≤ (domain s x).lowSamples → (domain s x).episode = false → t.pwr.paceLowSeen = true)) := by
  have hpace : (BitVec.ofNat 12 pace).toNat = pace % 4096 := BitVec.toNat_ofNat _ _
  refine ⟨fun h => ⟨_, exec_paceSample_eq pace s hx, ?_⟩, fun h => ⟨_, exec_paceSample_eq pace s hx, ?_⟩⟩
  · rw [domain_ended, paceSample_enough hon h, domain_setDomain]
    exact ⟨hpace, rfl, rfl⟩
  · rw [domain_ended, ended_pwr, paceSample_low hon h]
    by_cases hnew : (domain s x).lowSamples + 1 ≥ 16 ∧ !(domain s x).episode
    · have hlong : 15 ≤ (domain s x).lowSamples := by omega
      have hdom : ∀ r, domain (record r (setDomain x { pacedLow (BitVec.ofNat 12 pace) (domain s x) with episode := true }
          { s with pwr := { s.pwr with paceLowSeen := true } })) x =
          { pacedLow (BitVec.ofNat 12 pace) (domain s x) with episode := true } := fun r => domain_setDomain _ _ _
      rw [if_pos hnew, hdom]
      refine ⟨hpace, rfl, ?_, fun _ _ => rfl⟩
      rw [decide_eq_true hlong, Bool.or_true]
    · rw [if_neg hnew, domain_setDomain]
      refine ⟨hpace, rfl, ?_, fun h15 he => absurd ⟨by omega, by rw [he]; rfl⟩ hnew⟩
      show (domain s x).episode = _
      cases he : (domain s x).episode
      · have hshort : ¬ 15 ≤ (domain s x).lowSamples := fun h15 => hnew ⟨by omega, by rw [he]; rfl⟩
        rw [decide_eq_false hshort, Bool.or_false]
      · rw [Bool.true_or]

/-! ## Temperatures and trips (R414, R517) -/

theorem le_foldl_max {α : Type} (f : α → Int) (l : List α) (a : Int) :
    a ≤ l.foldl (fun a x => max a (f x)) a ∧ ∀ x ∈ l, f x ≤ l.foldl (fun a x => max a (f x)) a := by
  induction l generalizing a with
  | nil => exact ⟨le_refl a, fun _ h => nomatch h⟩
  | cons y l ih =>
    obtain ⟨hle, hmem⟩ := ih (max a (f y))
    refine ⟨(le_max_left _ _).trans hle, fun x hx => ?_⟩
    rcases List.mem_cons.mp hx with rfl | hx
    · exact (le_max_right _ _).trans hle
    · exact hmem x hx

theorem temp_le_dieHot {s : State} {x : Nat} (hx : x < 80) : (domain s x).temp.toInt ≤ dieHot s (dieOfDomain x) :=
  (le_foldl_max (fun x => (domain s x).temp.toInt) _ _).2 x
    (List.mem_filter.mpr ⟨List.mem_range.mpr hx, beq_self_eq_true _⟩)

theorem recallThrottled_treads (d : Nat) (s : State) : Treads s (recallThrottled d s) :=
  foldl_related .refl .trans (fun s _ => recallFrom_treads _ _ _ s) _ s

/-- Throttling leaves the domains and everything but the power state. -/
theorem throttle_frame (d : Nat) (v : BitVec 11) (s : State) : (throttle d v s).pwr.domain = s.pwr.domain ∧
    (throttle d v s).pins = s.pins ∧ (throttle d v s).fw = s.fw := by
  simp only [throttle]
  split
  · rw [(recallThrottled_treads d _).frame]
    exact ⟨rfl, rfl, rfl⟩
  · split <;> exact ⟨rfl, rfl, rfl⟩

theorem throttle_hot {d : Nat} {v : BitVec 11} {s : State} (h : 4 * (s.pwr.throttleC.toNat : Int) < dieHot s d) :
    tget false (throttle d v s).pwr.throttled d = true := by
  have hhot : (decide (dieHot s d > 4 * (s.pwr.throttleC.toNat : Int)) || decide (dramHot s d ≥ 380)) = true := by
    rw [decide_eq_true h, Bool.true_or]
  have hcool : (decide (dieHot s d ≤ 4 * (s.pwr.throttleC.toNat : Int) - 20) && decide (dramHot s d ≤ 360)) = false := by
    rw [decide_eq_false (by omega), Bool.false_and]
  simp only [throttle, hhot, hcool, Bool.true_and, Bool.and_false, Bool.false_eq_true, if_false]
  cases hwas : tget false s.pwr.throttled d
  · rw [if_pos (by rfl), (recallThrottled_treads d _).frame]
    exact tget_tset_same false s.pwr.throttled d true
  · rw [if_neg (by decide)]
    exact hwas

/-- The pins of a trip: the package is off, and the first trip stands. -/
def tripPins (k : Sensor) (v : BitVec 11) (p : PinState) : PinState :=
  { p with
    thermtripN := false, vrEn := false, avddGood := false, vddPlGood := false, tripped := true
    tripDie := if !p.tripped then BitVec.ofNat 6 (sensorDie k) else p.tripDie
    tripDram := if !p.tripped then isDram k else p.tripDram
    tripTemp := if !p.tripped then v else p.tripTemp }

theorem trip_trips {k : Sensor} {v : BitVec 11} {s : State} (h : s.pins.thermtripN = true) :
    (trip k v s).pwr = s.pwr ∧ (trip k v s).pins = tripPins k v s.pins ∧
      (trip k v s).fw = { s.fw with ready := false, start := none, restart := none, pkgReset := none } := by
  have hdown := (cxlDown_portWork 0 s).trans (cxlDown_portWork 1 _)
  simp only [trip, h, Bool.not_true, Bool.false_eq_true, if_false]
  rw [setPresent_pwr, setPresent_pins, setPresent_fw, hdown.pins, hdown.fw]
  exact ⟨hdown.pwr, rfl, rfl⟩

theorem trip_pwr (k : Sensor) (v : BitVec 11) (s : State) : (trip k v s).pwr = s.pwr := by
  cases h : s.pins.thermtripN
  · simp [trip, h]
  · exact (trip_trips h).1

/-- A domain's sample stored, its run of samples above the limit counted, and its die throttled where it is hot. -/
def sampled (x : Nat) (v : BitVec 11) (n : Nat) (s : State) : State :=
  throttle (dieOfDomain x) v (setDomain x { domain s x with temp := v }
    { s with pins := { s.pins with tripRuns := tset 0 s.pins.tripRuns x n } })

theorem temperature_domain {x : Nat} {v : BitVec 11} {s : State} {n : Nat} (hx : x < 80) (hpor : s.pins.porN = true)
    (hn : n = if 460 ≤ v.toInt then min 2 (tget 0 s.pins.tripRuns x + 1) else 0) :
    temperature (.domain x) v s = if n = 2 then trip (.domain x) v (sampled x v n s) else sampled x v n s := by
  have hgo : (!sensorValid (.domain x) || !s.pins.porN) = false := by simp [sensorValid, hx, hpor]
  simp only [temperature, hgo, Bool.false_eq_true, if_false]
  have hn' : (if decide (v.toInt ≥ if isDram (Sensor.domain x) = true then 420 else 460) = true then
      min 2 (tget 0 s.pins.tripRuns (sensorKey (.domain x)) + 1) else 0) = n := by
    rw [hn]
    simp only [isDram, sensorKey, Bool.false_eq_true, if_false, decide_eq_true_eq, ge_iff_le]
  rw [hn']
  rfl

theorem sampled_frame {x : Nat} {v : BitVec 11} {n : Nat} {s : State} (hx : x < 80) :
    domain (sampled x v n s) x = { domain s x with temp := v } ∧
      (4 * (s.pwr.throttleC.toNat : Int) < v.toInt → tget false (sampled x v n s).pwr.throttled (dieOfDomain x) = true) ∧
      (sampled x v n s).pins = { s.pins with tripRuns := tset 0 s.pins.tripRuns x n } ∧ (sampled x v n s).fw = s.fw := by
  obtain ⟨hdom, hpins, hfw⟩ := throttle_frame (dieOfDomain x) v (setDomain x { domain s x with temp := v }
    { s with pins := { s.pins with tripRuns := tset 0 s.pins.tripRuns x n } })
  refine ⟨?_, fun h => throttle_hot ?_, hpins, hfw⟩
  · rw [sampled, domain_of_pwr hdom, domain_setDomain]
  · have hle := temp_le_dieHot (s := setDomain x { domain s x with temp := v }
      { s with pins := { s.pins with tripRuns := tset 0 s.pins.tripRuns x n } }) hx
    rw [domain_setDomain] at hle
    exact lt_of_lt_of_le h hle

theorem exec_temperature_domain {x : Nat} {v : BitVec 11} {s : State} (hx : x < 80) (hpor : s.pins.porN = true) :
    ∃ t, exec (.temperatureSample (.domain x) v) s = .next t ∧ (domain t x).temp = v ∧
      (4 * (s.pwr.throttleC.toNat : Int) < v.toInt → tget false t.pwr.throttled (dieOfDomain x) = true) ∧
      (460 ≤ v.toInt → 1 ≤ tget 0 s.pins.tripRuns x → s.pins.thermtripN = true → t.pins.thermtripN = false ∧
        t.pins.vrEn = false ∧ t.pins.tripped = true ∧ t.fw.start = none ∧ t.fw.ready = false ∧
        (s.pins.tripped = false → t.pins.tripDie.toNat = dieOfDomain x ∧ t.pins.tripTemp = v)) ∧
      (v.toInt < 460 → tget 0 t.pins.tripRuns x = 0 ∧ t.pins.thermtripN = s.pins.thermtripN) := by
  let n := if 460 ≤ v.toInt then min 2 (tget 0 s.pins.tripRuns x + 1) else 0
  have hrun := temperature_domain hx hpor (v := v) (n := n) rfl
  obtain ⟨hdom, hhot, hpins, hfw⟩ := sampled_frame (v := v) (n := n) (s := s) hx
  have hpwr : (temperature (.domain x) v s).pwr = (sampled x v n s).pwr := by
    rw [hrun]
    split
    · exact trip_pwr _ _ _
    · rfl
  refine ⟨ended s (temperature (.domain x) v s), rfl, ?_, ?_, fun hv h1 ht => ?_, fun hv => ?_⟩
  · rw [domain_ended, domain_of_pwr (congrArg (·.domain) hpwr), hdom]
  · rw [ended_pwr, hpwr]
    exact hhot
  · have hn : n = 2 := by
      simp only [n, if_pos hv]
      omega
    have htrip : (sampled x v n s).pins.thermtripN = true := by rw [hpins]; exact ht
    obtain ⟨_, hp, hf⟩ := trip_trips (k := .domain x) (v := v) htrip
    rw [ended_pins, ended_fw, hrun, if_pos hn, hp, hf, hpins]
    refine ⟨rfl, rfl, rfl, rfl, rfl, fun hfirst => ?_⟩
    have hdie : dieOfDomain x < 2 ^ 6 := by
      unfold dieOfDomain
      split_ifs <;> omega
    simp only [tripPins, hfirst, Bool.not_false, if_true, sensorDie, BitVec.toNat_ofNat]
    exact ⟨Nat.mod_eq_of_lt hdie, trivial⟩
  · have hn : n = 0 := if_neg (Int.not_le.mpr hv)
    have hne : ¬ n = 2 := by rw [hn]; decide
    rw [ended_pins, hrun, if_neg hne, hpins, hn]
    exact ⟨tget_tset_same 0 s.pins.tripRuns x 0, rfl⟩

/-! ## Clock crossings (R424 to R426) -/

/-- The mask of one island. -/
theorem getLsbD_island (i j : Nat) : (BitVec.ofNat 36 (2 ^ i)).getLsbD j = (decide (j < 36) && decide (i = j)) := by
  rw [BitVec.getLsbD_ofNat, Nat.testBit_two_pow]

theorem getLsbD_cleared (x : BitVec 36) (i j : Nat) :
    (x &&& ~~~(BitVec.ofNat 36 (2 ^ i))).getLsbD j = (x.getLsbD j && j != i) := by
  rw [BitVec.getLsbD_and, BitVec.getLsbD_not, getLsbD_island]
  by_cases hj : j < 36
  · by_cases hij : i = j
    · simp [hij]
    · simp [hij, hj, Ne.symm hij]
  · simp [BitVec.getLsbD_of_ge x j (Nat.not_lt.mp hj)]

theorem exec_crossStall_none {i r : Nat} {s : State} (hs : settled s)
    (h : ∀ y ∈ s.pwr.crossings, y.island = i → y.requester ≠ r) : exec (.crossStall i r) s = .next s := by
  have hnone : s.pwr.crossings.find? (fun x => x.island == i && x.requester == r) = none := by
    rw [List.find?_eq_none]
    intro y hy
    simpa using h y hy
  have hexec : exec (.crossStall i r) s = ends s (crossStall i r s) := rfl
  have own : crossStall i r s = s := by simp only [crossStall, hnone]
  rw [hexec, own]
  exact ends_undisturbed hs (.refl s)

/-- An island's first stall sets its bit and is recorded; a later one only takes the crossing away. -/
def stalled (i : Nat) (s : State) : State :=
  if islandStalled s i then s
  else record { mkRecord s (islandUnit i) 0x0104 with info0 := i } { s with pwr := { s.pwr with
    xstallMap := s.pwr.xstallMap ||| BitVec.ofNat 36 (2 ^ i)
    xReset := s.pwr.xReset &&& ~~~(BitVec.ofNat 36 (2 ^ i))
    crossStallSeen := true } }

theorem crossStall_pwr {i r : Nat} {s : State} {y : Crossing} (hon : domainSleeps s (islandUnit i) = false)
    (hy : s.pwr.crossings.find? (fun x => x.island == i && x.requester == r) = some y)
    (ht : 4000 ≤ since s (dieOf (islandUnit i)) y.began) : (crossStall i r s).pwr =
      (stalled i { s with pwr := { s.pwr with crossings := s.pwr.crossings.erase y } }).pwr := by
  simp only [crossStall, hy, hon, decide_eq_false (Nat.not_lt.mpr ht), Bool.or_self, Bool.false_eq_true, if_false]
  exact congrArg (·.pwr) (sendMsg_sends _ _ _ _)

theorem exec_crossStall_stalls {i r : Nat} {s : State} {y : Crossing} (hi : i < 36)
    (hon : domainSleeps s (islandUnit i) = false)
    (hy : s.pwr.crossings.find? (fun x => x.island == i && x.requester == r) = some y)
    (ht : 4000 ≤ since s (dieOf (islandUnit i)) y.began) : ∃ t, exec (.crossStall i r) s = .next t ∧
      t.pwr.xstallMap.getLsbD i = true ∧ (∀ j, j ≠ i → t.pwr.xstallMap.getLsbD j = s.pwr.xstallMap.getLsbD j) ∧
      (s.pwr.xstallMap.getLsbD i = false → t.pwr.crossStallSeen = true ∧ t.pwr.xReset.getLsbD i = false) := by
  refine ⟨ended s (crossStall i r s), rfl, ?_⟩
  rw [ended_pwr, crossStall_pwr hon hy ht]
  cases hmap : s.pwr.xstallMap.getLsbD i
  · have hnew : ¬ islandStalled { s with pwr := { s.pwr with crossings := s.pwr.crossings.erase y } } i = true := by
      simp [islandStalled, hmap]
    rw [stalled, if_neg hnew]
    refine ⟨?_, fun j hj => ?_, fun _ => ⟨rfl, ?_⟩⟩
    · show (s.pwr.xstallMap ||| BitVec.ofNat 36 (2 ^ i)).getLsbD i = true
      rw [BitVec.getLsbD_or, getLsbD_island, decide_eq_true hi, decide_eq_true rfl, Bool.and_true, Bool.or_true]
    · show (s.pwr.xstallMap ||| BitVec.ofNat 36 (2 ^ i)).getLsbD j = _
      rw [BitVec.getLsbD_or, getLsbD_island, decide_eq_false (Ne.symm hj), Bool.and_false, Bool.or_false]
    · show (s.pwr.xReset &&& ~~~(BitVec.ofNat 36 (2 ^ i))).getLsbD i = false
      rw [getLsbD_cleared, bne_self_eq_false, Bool.and_false]
  · have hold : islandStalled { s with pwr := { s.pwr with crossings := s.pwr.crossings.erase y } } i = true := hmap
    rw [stalled, if_pos hold]
    exact ⟨hmap, fun _ _ => rfl, fun h => absurd h (by decide)⟩

theorem exec_coreStall_kept {i : Nat} {s : State} (hi : i < 36) : ∃ t, exec (.coreStall i) s = .next t ∧
    t.pwr.coreStallSeen = true ∧ t.pwr.xstallMap = s.pwr.xstallMap := by
  have own : (coreStall i s).pwr = { s.pwr with coreStallSeen := true } := by
    rw [coreStall, if_neg (Nat.not_le.mpr hi)]
    rfl
  refine ⟨ended s (coreStall i s), rfl, ?_⟩
  rw [ended_pwr, own]
  exact ⟨rfl, rfl⟩

theorem exec_xstallClear_cases {i : Nat} {s : State} (hs : settled s) :
    (s.pwr.xReset.getLsbD i = false → exec (.xstallClear i) s = .next s) ∧
    (s.pwr.xReset.getLsbD i = true → ∃ t, exec (.xstallClear i) s = .next t ∧ ∀ j,
      t.pwr.xstallMap.getLsbD j = (s.pwr.xstallMap.getLsbD j && j != i) ∧
      t.pwr.xReset.getLsbD j = (s.pwr.xReset.getLsbD j && j != i)) := by
  have hexec : exec (.xstallClear i) s = ends s (xstallClear i s) := rfl
  refine ⟨fun h => ?_, fun h => ⟨ended s (xstallClear i s), rfl, fun j => ?_⟩⟩
  · have own : xstallClear i s = s := by simp only [xstallClear, h, Bool.false_eq_true, if_false]
    rw [hexec, own]
    exact ends_undisturbed hs (.refl s)
  · rw [ended_pwr, xstallClear, if_pos h]
    exact ⟨getLsbD_cleared _ _ _, getLsbD_cleared _ _ _⟩

/-- Settles O57: domains by the state they are in, rails by the regulators read, pace, temperatures and crossings by their samples. -/
theorem domainsRailsAndCrossingsFollowTheirEvents : Obligations.DomainsRailsAndCrossingsFollowTheirEvents := by
  unfold Obligations.DomainsRailsAndCrossingsFollowTheirEvents
  exact ⟨fun x s hx hon hpol => exec_domainIdle_cases hx hon hpol, fun x s hx hs => exec_domainWake_cases hx hs,
    fun x s h => exec_transition_ends h, fun x s hw hm => exec_wake_ends hw hm,
    fun ps s => ⟨_, rfl, exec_pmbusPoll_volts ps s, fun i v a w mv hps hv hl hmv => exec_pmbusPoll_reads hps hv hl hmv⟩,
    fun i w s hv hf => exec_pmbusAlert_cases hv hf, fun x pace s hx hon => exec_paceSample_cases hx hon,
    fun x v s hx hpor => exec_temperature_domain hx hpor, fun i r s hs h => exec_crossStall_none hs h,
    fun i r s y hi hon hy ht => exec_crossStall_stalls hi hon hy ht, fun i s hi => exec_coreStall_kept hi,
    fun i s hs => exec_xstallClear_cases hs⟩

end Sys2Proof.Machine
end

section
/-! PROOFS. The host ports: snoops, completions, links, PERST, resets of functions, virtual functions and SPDM (R327 to R342, R441,
R446, R513, R515). -/

namespace Sys2Proof.Machine

/-! ## Snoops and completions (R333 to R338) -/

theorem exec_h2dSnoop_answered {x line : Nat} {inv : Bool} {s : State} (hs : settled s) (hu : portUsable s x = true)
    (hc : (hport s x).cacheEn = true) :
    exec (.h2dSnoop x line inv) s = .next (emit (.snoopRsp x line ((hport s x).modified.contains line))
      (setHport x { hport s x with
        snoops := satInc (hport s x).snoops
        modified := if inv then (hport s x).modified.filter (· != line) else (hport s x).modified } s)) := by
  have hexec : exec (.h2dSnoop x line inv) s = ends s (h2dSnoop x line inv s) := rfl
  have hgo : (!portUsable s x || !(hport s x).cacheEn) = false := by rw [hu, hc]; rfl
  rw [hexec]
  simp only [h2dSnoop, hgo, Bool.false_eq_true, if_false]
  exact ends_undisturbed hs ⟨rfl, rfl, rfl, rfl, rfl, rfl⟩

theorem exec_cacheCompletion_ends {id : Nat} {st : Status} {bs : List Byte} {s : State} {r : CxlReq}
    (h : s.lnk.cxlReqs.find? (fun r => r.id == id && !r.peer) = some r) :
    exec (.cxlCacheCompletion id st bs) s = .next (ended s (endCxlReq r st bs s)) := by
  have hexec : exec (.cxlCacheCompletion id st bs) s = ends s (cacheCompletion id st bs s) := rfl
  rw [hexec, ends]
  simp only [cacheCompletion, h]

theorem exec_peerCompletion_ends {id : Nat} {e : PeerEnd} {bs : List Byte} {s : State} {r : CxlReq}
    (h : s.lnk.cxlReqs.find? (fun r => r.id == id && r.peer) = some r) :
    exec (.peerCompletion id e bs) s = .next (ended s (endCxlReq r
      (if e = .success then .ok else if e = .timeout then .timeout else .denied) (if e = .success then bs else []) s)) := by
  have hexec : exec (.peerCompletion id e bs) s = ends s (peerCompletion id e bs s) := rfl
  rw [hexec, ends]
  cases e <;> simp [peerCompletion, h]

theorem endCxlReq_plain {r : CxlReq} (st : Status) (bs : List Byte) (s : State) (h : r.readBack = false) :
    endCxlReq r st bs s = { s with lnk := { s.lnk with
      cxlReqs := s.lnk.cxlReqs.filter (fun x => x.id != r.id)
      answers := s.lnk.answers ++ (if r.write then [] else [{ pa := r.pa, status := st, bytes := bs }])
      p2pErrSeen := s.lnk.p2pErrSeen || (r.peer && st != .ok) } } := by
  simp only [endCxlReq, h, Bool.or_false, Bool.false_eq_true, if_false]
  cases r.write
  · rfl
  · simp

theorem opsAwaiting_none {s : State} {w : Nat × Nat} (h : ∀ o ∈ s.sht.ops, w ∉ o.waits) : opsAwaiting s w = [] := by
  rw [opsAwaiting, List.filter_eq_nil_iff]
  intro o ho
  simpa using h o ho

theorem redAwaiting_none {s : State} {w : Nat × Nat} (h : ∀ c ∈ s.red.comm, ∀ o ∈ c.2.ops, w ∉ o.waits) :
    redAwaiting s w = [] := by
  rw [redAwaiting, List.flatMap_eq_nil_iff]
  intro c hc
  have hnone : c.2.ops.filter (fun o => o.waits.contains w) = [] := by
    rw [List.filter_eq_nil_iff]
    intro o ho
    simpa using h c hc o ho
  rw [hnone]
  rfl

theorem endCxlReq_readBack {r : CxlReq} (st : Status) (bs : List Byte) {s : State} (h : r.readBack = true)
    (hops : ∀ o ∈ s.sht.ops, (8 + r.port, r.id) ∉ o.waits)
    (hred : ∀ c ∈ s.red.comm, ∀ o ∈ c.2.ops, (8 + r.port, r.id) ∉ o.waits) :
    (endCxlReq r st bs s).lnk.cxlReqs = s.lnk.cxlReqs.filter (fun x => x.id != r.id) ∧
      (endCxlReq r st bs s).lnk.answers = s.lnk.answers ∧ (endCxlReq r st bs s).spl = s.spl := by
  have hon : writersGoOn (8 + r.port, r.id) s (writeEnded (8 + r.port, r.id) st s) = writeEnded (8 + r.port, r.id) st s := by
    rw [writersGoOn, opsAwaiting_none hops, redAwaiting_none hred]
    rfl
  simp only [endCxlReq, h, if_true, hon, Bool.or_true]
  exact ⟨rfl, rfl, rfl⟩

/-! ## A link goes down (R342) -/

/-- Ending requests that are no read-backs leaves the ports and takes those requests away. -/
theorem foldl_endCxlReq (l : List CxlReq) (hl : ∀ r ∈ l, r.readBack = false) (s : State) :
    (l.foldl (fun s r => endCxlReq r .timeout [] s) s).lnk.hport = s.lnk.hport ∧
      ∀ r ∈ (l.foldl (fun s r => endCxlReq r .timeout [] s) s).lnk.cxlReqs, r ∈ s.lnk.cxlReqs ∧ ∀ x ∈ l, x.id ≠ r.id := by
  induction l generalizing s with
  | nil => exact ⟨rfl, fun r hr => ⟨hr, fun _ h => nomatch h⟩⟩
  | cons a l ih =>
    obtain ⟨hport, hreqs⟩ := ih (fun r hr => hl r (List.mem_cons_of_mem _ hr)) (endCxlReq a .timeout [] s)
    have ha := endCxlReq_plain .timeout [] s (hl a List.mem_cons_self)
    refine ⟨hport.trans (by rw [ha]), fun r hr => ?_⟩
    obtain ⟨hmem, hids⟩ := hreqs r hr
    rw [ha] at hmem
    obtain ⟨hmem, hne⟩ := List.mem_filter.mp hmem
    refine ⟨hmem, fun x hx => ?_⟩
    rcases List.mem_cons.mp hx with rfl | hx
    · exact Ne.symm (by simpa using hne)
    · exact hids x hx

theorem dropPortLines_lnk (x : Nat) (s : State) : (dropPortLines x s).lnk = s.lnk := by
  unfold dropPortLines
  exact foldl_related (R := fun s t : State => t.lnk = s.lnk) (f := fun s l => biTimeoutRecord l s) (fun _ => rfl)
    (fun h k => k.trans h) (fun _ _ => rfl) _ _

theorem foldl_loseHostLine (x : Nat) (ls : List Nat) (s : State) : (ls.foldl (loseHostLine x) s).lnk =
    { s.lnk with hostWbLost := s.lnk.hostWbLost || !ls.isEmpty } := by
  induction ls generalizing s with
  | nil => simp
  | cons l ls ih =>
    rw [List.foldl_cons, ih]
    simp [loseHostLine, record, report]

/-- A port that is down. -/
def portDown (h : HPort) (k : HPort) : HPort :=
  { k with up := false, rate := 0, width := 0, flit256 := false, cacheEn := false, memEn := false, modified := []
           downs := satInc h.downs, rasStatus := true }

/-- The state when a port's requests have ended and its lines are given up. -/
def portEmptied (x : Nat) (s : State) : State :=
  dropPortLines x ((hport s x).modified.foldl (loseHostLine x)
    ((s.lnk.cxlReqs.filter fun r => r.port == x).foldl (fun s r => endCxlReq r .timeout [] s) s))

theorem cxlDown_up {x : Nat} {s : State} (h : (hport s x).up = true) : cxlDown x s =
    setHport x (portDown (hport s x) (hport (portEmptied x s) x))
      { portEmptied x s with lnk := { (portEmptied x s).lnk with cxlDownSeen := true } } := by
  simp only [cxlDown, h, Bool.not_true, Bool.false_eq_true, if_false]
  rfl

/-- However a port stood, it is down after it. -/
theorem hport_cxlDown_up (x : Nat) (s : State) : (hport (cxlDown x s) x).up = false := by
  cases h : (hport s x).up
  · simp [cxlDown, h]
  · rw [cxlDown_up h, hport_setHport]
    rfl

theorem portEmptied_lnk {x : Nat} {s : State} (hback : ∀ r ∈ s.lnk.cxlReqs, r.readBack = false) :
    ((hport s x).modified ≠ [] → (portEmptied x s).lnk.hostWbLost = true) ∧
      ∀ r ∈ (portEmptied x s).lnk.cxlReqs, r.port ≠ x := by
  let ended := (s.lnk.cxlReqs.filter fun r => r.port == x).foldl (fun s r => endCxlReq r .timeout [] s) s
  obtain ⟨_, hreqs⟩ := foldl_endCxlReq (s.lnk.cxlReqs.filter fun r => r.port == x)
    (fun r hr => hback r (List.mem_of_mem_filter hr)) s
  have hlnk : (portEmptied x s).lnk = { ended.lnk with hostWbLost := ended.lnk.hostWbLost || !(hport s x).modified.isEmpty } :=
    (dropPortLines_lnk _ _).trans (foldl_loseHostLine _ _ _)
  rw [hlnk]
  refine ⟨fun hmod => ?_, fun r hr hx => ?_⟩
  · simp [hmod]
  · obtain ⟨hmem, hids⟩ := hreqs r hr
    exact hids r (List.mem_filter.mpr ⟨hmem, by simpa using hx⟩) rfl

theorem ended_seen (s t : State) : (ended s t).lnk.cxlDownSeen = t.lnk.cxlDownSeen ∧
    (ended s t).lnk.hostWbLost = t.lnk.hostWbLost :=
  ⟨congrArg (·.lnk.cxlDownSeen) (ended_spec s t), congrArg (·.lnk.hostWbLost) (ended_spec s t)⟩

theorem exec_cxlLinkDown_downs {x : Nat} {s : State} (hup : (hport s x).up = true)
    (hback : ∀ r ∈ s.lnk.cxlReqs, r.readBack = false) : ∃ t, exec (.cxlLinkDown x) s = .next t ∧
      (hport t x).up = false ∧ (hport t x).cacheEn = false ∧ (hport t x).memEn = false ∧ (hport t x).modified = [] ∧
      (hport t x).downs = satInc (hport s x).downs ∧ t.lnk.cxlDownSeen = true ∧ (∀ r ∈ t.lnk.cxlReqs, r.port ≠ x) ∧
      ((hport s x).modified ≠ [] → t.lnk.hostWbLost = true) := by
  obtain ⟨hlost, hreqs⟩ := portEmptied_lnk (x := x) hback
  have hnotes := ended_notes s (cxlDown x s)
  have hdown : hport (cxlDown x s) x = portDown (hport s x) (hport (portEmptied x s) x) := by
    rw [cxlDown_up hup, hport_setHport]
  have hport := hnotes.port x
  have hmod := hnotes.down x (hport_cxlDown_up x s)
  rw [hdown] at hport hmod
  refine ⟨ended s (cxlDown x s), rfl, by rw [hport]; rfl, by rw [hport]; rfl, by rw [hport]; rfl, hmod, by rw [hport]; rfl, ?_,
    ?_, fun h => ?_⟩
  · rw [(ended_seen s _).1, cxlDown_up hup]
    rfl
  · rw [hnotes.reqs, cxlDown_up hup]
    exact hreqs
  · rw [(ended_seen s _).2, cxlDown_up hup]
    exact hlost h

/-! ## A link comes up; PERST (R327, R328, R513, R515) -/

theorem exec_cxlLinkUp_trained {x rate width : Nat} {flit256 : Bool} {s : State} (hs : settled s)
    (ht : (hport s x).training = true) (hup : (hport s x).up = false) (hd : dieOut s (32 + x) = false) (hr : 1 ≤ rate)
    (hr4 : rate ≤ 4) (hw : width = 8 ∨ width = 16) :
    exec (.cxlLinkUp x rate width flit256) s = .next (setHport x { hport s x with
      up := true, training := false, rate := BitVec.ofNat 3 rate, width := BitVec.ofNat 5 width
      flit256 := flit256 && decide (3 ≤ rate), cacheEn := decide (3 ≤ rate)
      memEn := flit256 && decide (3 ≤ rate) } s) := by
  have hexec : exec (.cxlLinkUp x rate width flit256) s = ends s (cxlUp x rate width flit256 s) := rfl
  have hrate : (rate == 0) = false := beq_eq_false_iff_ne.mpr (by omega)
  have hrate4 : decide (rate > 4) = false := decide_eq_false (by omega)
  have hwidth : (width == 8 || width == 16) = true := by
    rcases hw with rfl | rfl <;> rfl
  have hgo : (!(hport s x).training || (hport s x).up || dieOut s (32 + x) || rate == 0 || decide (rate > 4) ||
      !(width == 8 || width == 16)) = false := by
    rw [ht, hup, hd, hrate, hrate4, hwidth]
    rfl
  have own : cxlUp x rate width flit256 s = setHport x { hport s x with
      up := true, training := false, rate := BitVec.ofNat 3 rate, width := BitVec.ofNat 5 width
      flit256 := flit256 && decide (3 ≤ rate), cacheEn := decide (3 ≤ rate)
      memEn := flit256 && decide (3 ≤ rate) } s := by
    simp only [cxlUp]
    rw [if_neg (Bool.eq_false_iff.mp hgo)]
  rw [hexec, own]
  exact ends_undisturbed hs ⟨rfl, rfl, rfl, rfl, rfl, rfl⟩

theorem perst_setPerst (x : Nat) (high : Bool) (s : State) :
    (if x = 0 then (setPerst x high s).pins.perst0N else (setPerst x high s).pins.perst1N) = high := by
  unfold setPerst
  by_cases h : x = 0 <;> simp [h]

/-- The PERST pins through the end of a step. -/
theorem ended_perst (s t : State) (x : Nat) : (if x = 0 then (ended s t).pins.perst0N else (ended s t).pins.perst1N) =
    if x = 0 then t.pins.perst0N else t.pins.perst1N := by
  rw [ended_pins]

theorem perstAssert_porN {x : Nat} {s : State} (h : s.pins.porN = true) : perstAssert x s =
    setHport x { hport (cxlDown x (setPerst x false s)) x with training := false } (cxlDown x (setPerst x false s)) := by
  have hpor : (setPerst x false s).pins.porN = true := by
    unfold setPerst
    by_cases hx : x = 0
    · rw [if_pos hx]
      exact h
    · rw [if_neg hx]
      exact h
  simp only [perstAssert, hpor, Bool.not_true, Bool.false_eq_true, if_false]

theorem exec_perstAssert_low {x : Nat} {s : State} (h : s.pins.porN = true) : ∃ t, exec (.perstAssert x) s = .next t ∧
    (if x = 0 then t.pins.perst0N else t.pins.perst1N) = false ∧ (hport t x).up = false ∧ (hport t x).training = false := by
  have hport := (ended_notes s (perstAssert x s)).port x
  rw [perstAssert_porN h, hport_setHport] at hport
  refine ⟨ended s (perstAssert x s), rfl, ?_, ?_, ?_⟩
  · rw [ended_perst, perstAssert_porN h, setHport_pins, (cxlDown_keepsStart x _).pins]
    exact perst_setPerst x false s
  · rw [perstAssert_porN h, hport]
    exact hport_cxlDown_up x _
  · rw [perstAssert_porN h, hport]

/-- One port starts training where it may. -/
def trainPort (s : State) (x : Nat) : State :=
  setHport x { hport s x with training := (hport s x).training || (canTrain s x && !(hport s x).up) } s

theorem canTrain_trainPort (s : State) (y x : Nat) : canTrain (trainPort s y) x = canTrain s x := rfl

theorem hport_trainPort (s : State) (y x : Nat) : hport (trainPort s y) x =
    if x = y then { hport s x with training := (hport s x).training || (canTrain s x && !(hport s x).up) } else hport s x := by
  by_cases h : x = y
  · rw [if_pos h, h, trainPort, hport_setHport]
  · rw [if_neg h, trainPort, hport_setHport_other _ _ _ _ h]

theorem startCxlTraining_eq (s : State) : startCxlTraining s = trainPort (trainPort s 0) 1 := rfl

theorem hport_startCxlTraining {x : Nat} (hx : x < 2) (s : State) : hport (startCxlTraining s) x =
    { hport s x with training := (hport s x).training || (canTrain s x && !(hport s x).up) } := by
  rw [startCxlTraining_eq, hport_trainPort, hport_trainPort, canTrain_trainPort]
  obtain rfl | rfl : x = 0 ∨ x = 1 := by omega
  · rfl
  · rfl

theorem canTrain_setPerst {x : Nat} (hx : x < 2) (s : State) : canTrain (setPerst x true s) x =
    (!dieOut s (32 + x) && s.pins.porN && s.pins.avddGood && s.pins.vddPlGood) := by
  have hhigh : perstHigh (setPerst x true s) x = true := perst_setPerst x true s
  rw [canTrain, hhigh, decide_eq_true hx, Bool.true_and, Bool.and_true]
  obtain rfl | rfl : x = 0 ∨ x = 1 := by omega
  · rfl
  · rfl

theorem exec_perstDeassert_trains {x : Nat} {s : State} (hx : x < 2) : ∃ t, exec (.perstDeassert x) s = .next t ∧
    (if x = 0 then t.pins.perst0N else t.pins.perst1N) = true ∧ (hport t x).up = (hport s x).up ∧
    (hport t x).training = ((hport s x).training ||
      (!dieOut s (32 + x) && s.pins.porN && s.pins.avddGood && s.pins.vddPlGood && !(hport s x).up)) := by
  have hsame : hport (setPerst x true s) x = hport s x := rfl
  have hport := (ended_notes s (startCxlTraining (setPerst x true s))).port x
  rw [hport_startCxlTraining hx, hsame, canTrain_setPerst hx] at hport
  refine ⟨ended s (startCxlTraining (setPerst x true s)), rfl, ?_, ?_, ?_⟩
  · rw [ended_perst]
    exact perst_setPerst x true s
  · rw [hport]
  · rw [hport]

/-! ## Functions (R329, R332, R446) -/

theorem functionReset_eq {x p : Nat} {begins : Bool} {s : State} (hx : x < 2) (hp : p < 64) (hf : functionExists s p x = true) :
    functionReset x p begins s = if begins then { s with fw := { s.fw with flr := if s.fw.flr.contains p then s.fw.flr else s.fw.flr ++ [p] } }
      else { s with fw := { s.fw with flr := s.fw.flr.filter (· != p) } } := by
  have hgo : ¬ (x ≥ 2 ∨ p ≥ 64 ∨ (!functionExists s p x) = true) := by
    rw [hf]
    simp [hx, hp]
  rw [functionReset, if_neg hgo]

theorem exec_functionReset_cases {x p : Nat} {s : State} (hx : x < 2) (hp : p < 64) (hf : functionExists s p x = true) :
    (∃ t, exec (.functionLevelReset x p true) s = .next t ∧ p ∈ t.fw.flr ∧ (∀ q, q ≠ p → (q ∈ t.fw.flr ↔ q ∈ s.fw.flr))) ∧
      ∃ t, exec (.functionLevelReset x p false) s = .next t ∧ p ∉ t.fw.flr ∧ ∀ q, q ≠ p → (q ∈ t.fw.flr ↔ q ∈ s.fw.flr) := by
  refine ⟨⟨ended s (functionReset x p true s), rfl, ?_⟩, ⟨ended s (functionReset x p false s), rfl, ?_⟩⟩
  · rw [ended_fw, functionReset_eq hx hp hf, if_pos rfl]
    by_cases hin : p ∈ s.fw.flr
    · have hc : s.fw.flr.contains p = true := by simpa using hin
      simp only [hc, if_true]
      exact ⟨hin, fun _ _ => trivial⟩
    · have hc : s.fw.flr.contains p = false := by simpa using hin
      simp only [hc, Bool.false_eq_true, if_false]
      exact ⟨by simp, fun q hq => by simp [hq]⟩
  · rw [ended_fw, functionReset_eq hx hp hf, if_neg (by decide)]
    exact ⟨by simp, fun q hq => by simp [hq]⟩

theorem setVfEnable_usable {x n : Nat} {on : Bool} {s : State} (hu : portUsable s x = true) : setVfEnable x n on s =
    setHport x { hport s x with vfEnable := on, numVfs := if on then min n 63 else 0 }
      { clearVfVectors x s with lnk := { (clearVfVectors x s).lnk with
        vfTable := tset 0 s.lnk.vfTable x (if on then s.lnk.vfMsix.toNat else 0) } } := by
  simp only [setVfEnable, hu, Bool.not_true, Bool.false_eq_true, if_false]
  rfl

/-- The vectors that VF Enable on a port keeps: those of the physical function and of the other port. -/
def keepsVector (x : Nat) (s : State) (i : Nat) : Bool := decide (i < 2048) || homePort s (i / 2048) != x

theorem keepsVector_vf {x p v : Nat} {s : State} (hp : 1 ≤ p) (hv : v < 2048) (hh : homePort s p = x) :
    keepsVector x s (p * 2048 + v) = false := by
  have hdiv : (p * 2048 + v) / 2048 = p := by omega
  have hbig : ¬ p * 2048 + v < 2048 := by omega
  rw [keepsVector, hdiv, hh, decide_eq_false hbig, bne_self_eq_false]
  rfl

theorem exec_vfEnable_sets {x n : Nat} {on : Bool} {s : State} (hs : settled s) (hu : portUsable s x = true) :
    ∃ t, exec (.vfEnable x n on) s = .next t ∧
      hport t x = { hport s x with vfEnable := on, numVfs := if on then min n 63 else 0 } ∧
      tget 0 t.lnk.vfTable x = (if on then s.lnk.vfMsix.toNat else 0) ∧ (∀ y, y ≠ x → hport t y = hport s y) ∧
      ∀ p v, 1 ≤ p → v < 2048 → homePort s p = x →
        tget false t.lnk.msixOpen (p * 2048 + v) = false ∧ tget false t.lnk.pba (p * 2048 + v) = false := by
  have hexec : exec (.vfEnable x n on) s = ends s (setVfEnable x n on s) := rfl
  have hstill : Undisturbed s (setVfEnable x n on s) := by
    rw [setVfEnable_usable hu]
    exact ⟨rfl, rfl, rfl, rfl, rfl, rfl⟩
  rw [hexec, ends_undisturbed hs hstill, setVfEnable_usable hu]
  refine ⟨_, rfl, hport_setHport _ _ _, tget_tset_same 0 s.lnk.vfTable x _, fun y hy => hport_setHport_other _ _ _ _ hy,
    fun p v hp hv hh => ⟨?_, ?_⟩⟩
  · show tget false (s.lnk.msixOpen.filter fun e => keepsVector x s e.1) (p * 2048 + v) = false
    rw [tget_filter_fst, keepsVector_vf hp hv hh]
    rfl
  · show tget false (s.lnk.pba.filter fun e => keepsVector x s e.1) (p * 2048 + v) = false
    rw [tget_filter_fst, keepsVector_vf hp hv hh]
    rfl

/-! ## SPDM (R441) -/

theorem exec_spdmRequest_answer {x : Nat} {cdat : Bool} {req : List Byte} {s : State} (hs : settled s) (hx : x < 2)
    (hup : (hport s x).up = true) : exec (.spdmRequest x cdat req) s = .next (emit (.spdm x
      (if cdat then freeAnswer s.seed else if s.fw.start.isSome then spdmError 0x03 0 else spdmAnswer s.seed req)) (spend s)) := by
  have hexec : exec (.spdmRequest x cdat req) s = ends s (spdmRequest x cdat req s) := rfl
  have hgo : ¬ (x ≥ 2 ∨ (!(hport s x).up) = true) := by
    rw [hup]
    simp [hx]
  have own : spdmRequest x cdat req s = emit (.spdm x
      (if cdat then freeAnswer s.seed else if s.fw.start.isSome then spdmError 0x03 0 else spdmAnswer s.seed req)) (spend s) := by
    simp only [spdmRequest]
    rw [if_neg hgo]
  rw [hexec, own]
  exact ends_undisturbed hs ⟨rfl, rfl, rfl, rfl, rfl, rfl⟩

theorem spdmAnswer_cases (k : Nat) (req : List Byte) :
    (byteAt req 1 = 0x84 → spdmAnswer k req = [0x10, 0x04, 0, 0, 0, 1, 0x00, 0x12]) ∧
    (byteAt req 1 ∈ [0xE1, 0xE3, 0x81, 0x82, 0x83, 0xE0] →
      spdmAnswer k req = [0x12, BitVec.ofNat 8 (byteAt req 1 - 0x80)] ++ freeAnswer k) ∧
    (byteAt req 1 ∉ [0x84, 0xE1, 0xE3, 0x81, 0x82, 0x83, 0xE0] →
      spdmAnswer k req = [0x12, 0x7F, 0x07, BitVec.ofNat 8 (byteAt req 1)]) := by
  have hsup : spdmSupported (byteAt req 1) = decide (byteAt req 1 ∈ [0x84, 0xE1, 0xE3, 0x81, 0x82, 0x83, 0xE0]) :=
    List.contains_eq_mem _ _
  refine ⟨fun h => by simp only [spdmAnswer, h, if_true], fun h => ?_, fun h => ?_⟩
  · have hne : byteAt req 1 ≠ 0x84 := by
      intro h84
      rw [h84] at h
      exact absurd h (by decide)
    have hin : spdmSupported (byteAt req 1) = true := by
      rw [hsup]
      exact decide_eq_true (List.mem_cons_of_mem _ h)
    simp only [spdmAnswer, hne, hin, if_false, if_true]
  · have hne : byteAt req 1 ≠ 0x84 := fun h84 => h (by rw [h84]; exact List.mem_cons_self)
    have hout : spdmSupported (byteAt req 1) = false := by
      rw [hsup]
      exact decide_eq_false h
    simp only [spdmAnswer, hne, hout, if_false, Bool.false_eq_true]
    rfl

theorem exec_spdmRequest_cases {x : Nat} {cdat : Bool} {req : List Byte} {s : State} (hs : settled s) (hx : x < 2)
    (hup : (hport s x).up = true) :
    (s.fw.start = none → cdat = false → byteAt req 1 = 0x84 → exec (.spdmRequest x cdat req) s =
      .next (emit (.spdm x [0x10, 0x04, 0, 0, 0, 1, 0x00, 0x12]) (spend s))) ∧
    (s.fw.start = none → cdat = false → byteAt req 1 ∈ [0xE1, 0xE3, 0x81, 0x82, 0x83, 0xE0] →
      exec (.spdmRequest x cdat req) s = .next (emit (.spdm x
        ([0x12, BitVec.ofNat 8 (byteAt req 1 - 0x80)] ++ freeAnswer s.seed)) (spend s))) ∧
    (s.fw.start = none → cdat = false → byteAt req 1 ∉ [0x84, 0xE1, 0xE3, 0x81, 0x82, 0x83, 0xE0] →
      exec (.spdmRequest x cdat req) s = .next (emit (.spdm x [0x12, 0x7F, 0x07, BitVec.ofNat 8 (byteAt req 1)]) (spend s))) ∧
    (s.fw.start ≠ none → cdat = false →
      exec (.spdmRequest x cdat req) s = .next (emit (.spdm x [0x12, 0x7F, 0x03, 0]) (spend s))) ∧
    (cdat = true → exec (.spdmRequest x cdat req) s = .next (emit (.spdm x (freeAnswer s.seed)) (spend s))) := by
  obtain ⟨hversion, hknown, hunknown⟩ := spdmAnswer_cases s.seed req
  have hidle : s.fw.start = none → cdat = false →
      exec (.spdmRequest x cdat req) s = .next (emit (.spdm x (spdmAnswer s.seed req)) (spend s)) := fun hst hc => by
    rw [exec_spdmRequest_answer hs hx hup, hst, hc]
    rfl
  refine ⟨fun hst hc h => ?_, fun hst hc h => ?_, fun hst hc h => ?_, fun hst hc => ?_, fun hc => ?_⟩
  · rw [hidle hst hc, hversion h]
  · rw [hidle hst hc, hknown h]
  · rw [hidle hst hc, hunknown h]
  · rw [exec_spdmRequest_answer hs hx hup, hc, if_neg (by decide), if_pos (Option.isSome_iff_ne_none.mpr hst)]
    rfl
  · rw [exec_spdmRequest_answer hs hx hup, hc, if_pos rfl]

/-- Settles O51, event by event; the ports that are down stand through the events posted as a step ends (`ended_notes`). -/
theorem hostPortEvents : Obligations.HostPortEvents := by
  unfold Obligations.HostPortEvents
  exact ⟨fun x line inv s hs hu hc => exec_h2dSnoop_answered hs hu hc, fun id st bs s r h => exec_cacheCompletion_ends h,
    fun id e bs s r h => exec_peerCompletion_ends h,
    fun r st bs s => ⟨endCxlReq_plain st bs s, fun h hops hred => endCxlReq_readBack st bs h hops hred⟩,
    fun x s hup hback => exec_cxlLinkDown_downs hup hback, fun _ _ => rfl,
    fun x rate width flit256 s hs ht hup hd hr hr4 hw => exec_cxlLinkUp_trained hs ht hup hd hr hr4 hw,
    fun x s _ h => exec_perstAssert_low h, fun x s hx _ => exec_perstDeassert_trains hx,
    fun x p s _ hx hp hf => exec_functionReset_cases hx hp hf, fun x n on s hs hu => exec_vfEnable_sets hs hu,
    fun x cdat req s hs hx hup => exec_spdmRequest_cases hs hx hup⟩

end Sys2Proof.Machine
end

section
/-! PROOFS. The cipher complex: key slots, data commands, jobs on their cores, and the scheduler (R385 to R396). -/

namespace Sys2Proof.Machine

/-! ## Key slots (R389, R390, R395) -/

theorem keySlot_of_cip {s t : State} (h : t.cip = s.cip) (n : Nat) : keySlot t n = keySlot s n := by
  rw [keySlot, h, keySlot]

theorem setKeySlot_setKeySlot (n : Nat) (k l : KeySlot) (s : State) :
    setKeySlot n l (setKeySlot n k s) = setKeySlot n l s := by
  simp only [setKeySlot, tset_tset]

theorem setKeySlot_undisturbed (n : Nat) (k : KeySlot) (s : State) : Undisturbed s (setKeySlot n k s) :=
  ⟨rfl, rfl, rfl, rfl, rfl, rfl⟩

theorem complete_cip (c : Cmd) (st : Status) (res : List Nat) (unit : Nat) (s : State) :
    (complete c st res unit s).cip = s.cip := by
  rw [complete, completeRef_frame]

theorem modQp_still (q : Nat) (f : Qp → Qp) (s : State) : Undisturbed s (modQp q f s) ∧ (modQp q f s).cip = s.cip :=
  ⟨⟨rfl, rfl, rfl, rfl, rfl, rfl⟩, rfl⟩

theorem resume_still (q : Nat) (lo : BitVec 32) (s : State) :
    Undisturbed s (resume q lo s) ∧ (resume q lo s).cip = s.cip := by
  rw [resume, armRto]
  exact ⟨(modQp_still _ _ _).1.trans (modQp_still _ _ _).1, (modQp_still _ _ _).2.trans (modQp_still _ _ _).2⟩

/-- Queue pairs that resend change themselves alone. -/
theorem foldl_resume_frame (qs : List Nat) (s : State) :
    Undisturbed s (qs.foldl (fun s q => resume q (qpOf s q).sndUna s) s) ∧
      (qs.foldl (fun s q => resume q (qpOf s q).sndUna s) s).cip = s.cip := by
  refine foldl_related (R := fun s t => Undisturbed s t ∧ t.cip = s.cip) (f := fun s q => resume q (qpOf s q).sndUna s) (fun s => ⟨.refl s, rfl⟩)
    (fun h k => ⟨h.1.trans k.1, k.2.trans h.2⟩) (fun s q => resume_still q _ s) qs s

section
variable {c : Cmd} {s : State} {n : Nat}

/-- The slot as KEY_LOAD leaves it, with the queue pairs that waited for it under way again. -/
def keyLoaded (c : Cmd) (n : Nat) (s : State) : State :=
  if keyMode c = 1 then
    ((slotQps s n).filter fun q => keyStalled s q).foldl (fun s q => resume q (qpOf s q).sndUna s)
      (setKeySlot n (loadedSlot c (keySlot s n)) s)
  else setKeySlot n (loadedSlot c (keySlot s n)) s

theorem loadKey_eq (c : Cmd) (s : State) : loadKey c s =
    complete c .ok [] (schedUnit (keyLoaded c (cipherSlot c) s)) (keyLoaded c (cipherSlot c) s) := rfl

theorem keyLoaded_frame (c : Cmd) (n : Nat) (s : State) : Undisturbed s (keyLoaded c n s) ∧
    (keyLoaded c n s).cip = (setKeySlot n (loadedSlot c (keySlot s n)) s).cip := by
  have hset := setKeySlot_undisturbed n (loadedSlot c (keySlot s n)) s
  unfold keyLoaded
  split
  · obtain ⟨hres, hcip⟩ := foldl_resume_frame ((slotQps s n).filter fun q => keyStalled s q)
      (setKeySlot n (loadedSlot c (keySlot s n)) s)
    exact ⟨hset.trans hres, hcip⟩
  · exact ⟨hset, rfl⟩

theorem slotCheck_owned (ho : slotOwned s c.part (cipherSlot c) = true) : slotCheck s c = (false, .denied) := by
  rw [slotCheck, ho]
  rfl

theorem slotCheck_denied (ho : slotOwned s c.part (cipherSlot c) = false) : slotCheck s c = (true, .denied) := by
  rw [slotCheck, ho]
  rfl

theorem exec_keyLoad_passes (hn : n = cipherSlot c) (hs : settled s) (ho : slotOwned s c.part n = true)
    (ha : admits descKeyLoad c s) (hb : bit (cmdFlags c) 2 = true) (hm : keyMode c = 1 ∨ keyMode c = 2)
    (hl : keyLoadLenBad c = false) (hj : slotJobs s n = false) :
    exec (.keyLoad c) s = .next (loadKey c (begun c s)) := by
  subst hn
  have hmode : (keyMode c == 0 || keyMode c == 3) = false := by
    rcases hm with h | h <;> simp [h]
  refine runCmd_effect _ _ hs ha ?_ ?_
  · rw [slotCheck_owned ho, hb, hmode, hl, hj]
    decide
  · exact (keyLoaded_frame c _ _).1.trans (complete_undisturbed _ _ _ _ _)

theorem exec_keyLoad_loads (hn : n = cipherSlot c) (hs : settled s) (ho : slotOwned s c.part n = true)
    (ha : admits descKeyLoad c s) (hb : bit (cmdFlags c) 2 = true) (hm : keyMode c = 1 ∨ keyMode c = 2)
    (hl : keyLoadLenBad c = false) (hj : slotJobs s n = false) : ∃ t, exec (.keyLoad c) s = .next t ∧
      keySlot t n = loadedSlot c (keySlot s n) ∧ (∀ m, m ≠ n → keySlot t m = keySlot s m) ∧
      (keyMode c = 2 → t = complete c .ok [] (schedUnit s) (setKeySlot n (loadedSlot c (keySlot s n)) (begun c s))) := by
  refine ⟨_, exec_keyLoad_passes hn hs ho ha hb hm hl hj, ?_⟩
  subst hn
  have hcip : (loadKey c (begun c s)).cip = (setKeySlot (cipherSlot c) (loadedSlot c (keySlot s (cipherSlot c))) s).cip := by
    rw [loadKey_eq, complete_cip, (keyLoaded_frame c _ _).2]
    rfl
  refine ⟨?_, fun m hne => ?_, fun h2 => ?_⟩
  · rw [keySlot_of_cip hcip, keySlot_setKeySlot]
  · rw [keySlot_of_cip hcip, keySlot_setKeySlot_other _ _ _ _ hne]
  · have hplain : keyLoaded c (cipherSlot c) (begun c s) =
        setKeySlot (cipherSlot c) (loadedSlot c (keySlot s (cipherSlot c))) (begun c s) := by
      rw [keyLoaded, if_neg (by omega)]
      rfl
    rw [loadKey_eq, hplain]
    rfl

theorem exec_keyDestroy_cases (hn : n = cipherSlot c) (hs : settled s) (ho : slotOwned s c.part n = true)
    (ha : admits descKeyDestroy c s) :
    ((keySlot s n).refs = 0 →
      exec (.keyDestroy c) s = .next (complete c .ok [] (schedUnit s) (setKeySlot n {} (begun c s)))) ∧
    ((keySlot s n).refs ≠ 0 → exec (.keyDestroy c) s = .next (complete c .busy [] (procUnit s c) (begun c s))) := by
  subst hn
  refine ⟨fun h => ?_, fun h => ?_⟩
  · refine runCmd_effect _ _ hs ha ?_ ((setKeySlot_undisturbed _ _ _).trans (complete_undisturbed _ _ _ _ _))
    rw [slotCheck_owned ho, h]
    decide
  · refine runCmd_refuses _ _ hs ha ?_
    have hb : ((keySlot s (cipherSlot c)).refs != 0) = true := bne_iff_ne.mpr h
    rw [slotCheck_owned ho, hb]
    rfl

theorem exec_keyQuery_answers (hn : n = cipherSlot c) (hs : settled s) (ho : slotOwned s c.part n = true)
    (ha : admits descKeyQuery c s) : exec (.keyQuery c) s = .next (complete c .ok
      [slotCode (keySlot s n).state + 2 ^ 16 * (keySlot s n).refs.toNat, (keySlot s n).counter.toNat % 2 ^ 32,
       (keySlot s n).counter.toNat / 2 ^ 32] (schedUnit s) (begun c s)) := by
  subst hn
  have hrun : exec (.keyQuery c) s = .next (complete c .ok [slotCode (keySlot s (cipherSlot c)).state +
      2 ^ 16 * (keySlot s (cipherSlot c)).refs.toNat, bits (keySlot s (cipherSlot c)).counter.toNat 0 32,
      bits (keySlot s (cipherSlot c)).counter.toNat 32 32] (schedUnit (begun c s)) (begun c s)) := by
    refine runCmd_effect _ _ hs ha ?_ (complete_undisturbed _ _ _ _ _)
    rw [slotCheck_owned ho]
    decide
  have hlow : bits (keySlot s (cipherSlot c)).counter.toNat 0 32 = (keySlot s (cipherSlot c)).counter.toNat % 2 ^ 32 := by
    simp [bits]
  have hhigh : bits (keySlot s (cipherSlot c)).counter.toNat 32 32 = (keySlot s (cipherSlot c)).counter.toNat / 2 ^ 32 := by
    have := (keySlot s (cipherSlot c)).counter.isLt
    simp only [bits]
    omega
  rw [hrun, hlow, hhigh]
  rfl

/-! ## Slots of another partition (R394) -/

theorem exec_keyLoad_denied (hs : settled s) (ha : admits descKeyLoad c s) (ho : slotOwned s c.part (cipherSlot c) = false)
    (hb : bit (cmdFlags c) 2 = true) : exec (.keyLoad c) s = .next (complete c .denied [] (procUnit s c) (begun c s)) := by
  refine runCmd_refuses _ _ hs ha ?_
  rw [slotCheck_denied ho, hb]
  rfl

/-- A command whose first check is its slot. -/
theorem runCmd_slot_denied {d : OpDesc} {fails : List (Bool × Status)} {run : State → State} (hs : settled s) (ha : admits d c s)
    (ho : slotOwned s c.part (cipherSlot c) = false) :
    runCmd d c (slotCheck s c :: fails) s run = .next (complete c .denied [] (procUnit s c) (begun c s)) := by
  refine runCmd_refuses _ _ hs ha ?_
  rw [slotCheck_denied ho]
  rfl

theorem exec_cipher_denied {p : (Cmd → Instr) × OpDesc}
    (hp : p ∈ ([(.keyLoad, descKeyLoad), (.keyDestroy, descKeyDestroy), (.keyQuery, descKeyQuery), (.gcmSeal, descGcmSeal),
      (.gcmOpen, descGcmOpen), (.xtsEnc, descXts 0x0612), (.xtsDec, descXts 0x0613)] : List ((Cmd → Instr) × OpDesc)))
    (hs : settled s) (ha : admits p.2 c s) (ho : slotOwned s c.part (cipherSlot c) = false)
    (hb : p.2.code = 0x0601 → bit (cmdFlags c) 2 = true) :
    exec (p.1 c) s = .next (complete c .denied [] (procUnit s c) (begun c s)) := by
  simp only [List.mem_cons, List.not_mem_nil, or_false] at hp
  rcases hp with rfl | rfl | rfl | rfl | rfl | rfl | rfl
  · exact exec_keyLoad_denied hs ha ho (hb rfl)
  · exact runCmd_slot_denied hs ha ho
  · exact runCmd_slot_denied hs ha ho
  · exact runCmd_slot_denied hs ha ho
  · exact runCmd_slot_denied hs ha ho
  · exact runCmd_slot_denied hs ha ho
  · exact runCmd_slot_denied hs ha ho

/-! ## Jobs arrive (R391, R392) -/

theorem suspendFor_frame (v : Nat × CipherJob) (j : CipherJob) (s : State) : suspendFor v j s =
    { s with cnt := (suspendFor v j s).cnt, cip := { s.cip with
      running := s.cip.running.filter (fun r => r.1 != v.1) ++ [(v.1, j)]
      suspended := s.cip.suspended ++ [{ v.2 with core := some v.1 }] } } := by
  simp only [suspendFor, startJob]
  rw [bump_frame (cipherCore v.1) 5 1 s]

/-- A job with the next number. -/
def newJob (cls slot : Nat) (work : CipherWork) (s : State) : CipherJob :=
  { id := s.cip.nextJob, cls := cls, slot := slot, work := work }

/-- The state with that number given out. -/
def numbered (s : State) : State := { s with cip := { s.cip with nextJob := s.cip.nextJob + 1 } }

/-- A job waits. -/
def queued (j : CipherJob) (s : State) : State := { s with cip := { s.cip with waiting := s.cip.waiting ++ [j] } }

theorem jobArrives_free {cls slot x : Nat} {work : CipherWork} {r : List Nat} (h : freeCores s = x :: r) :
    jobArrives cls slot work s = startJob x (newJob cls slot work s) (numbered s) := by
  have hf : freeCores (numbered s) = x :: r := h
  simp only [numbered] at hf
  simp only [jobArrives, hf]
  rfl

theorem jobArrives_victim {cls slot : Nat} {work : CipherWork} {v : Nat × CipherJob} (h : freeCores s = [])
    (hroom : s.cip.suspended.length < 256) (hv : victimFor s cls = some v) :
    jobArrives cls slot work s = suspendFor v (newJob cls slot work s) (numbered s) := by
  have hf : freeCores (numbered s) = [] := h
  have hv' : victimFor (numbered s) cls = some v := hv
  simp only [numbered] at hf hv'
  simp only [jobArrives, hf, hv', ge_iff_le, Nat.not_le.mpr hroom, if_false]
  rfl

theorem jobArrives_waits {cls slot : Nat} {work : CipherWork} (h : freeCores s = [])
    (hw : 256 ≤ s.cip.suspended.length ∨ victimFor s cls = none) :
    jobArrives cls slot work s = queued (newJob cls slot work s) (numbered s) := by
  have hf : freeCores (numbered s) = [] := h
  simp only [numbered] at hf
  rcases hw with hfull | hnone
  · simp only [jobArrives, hf, ge_iff_le, hfull, if_true]
    rfl
  · have hv' : victimFor (numbered s) cls = none := hnone
    simp only [numbered] at hv'
    simp only [jobArrives, hf, hv']
    split <;> rfl

/-- A job's arrival touches the jobs, their number and the counters. -/
theorem jobArrives_frame (cls slot : Nat) (work : CipherWork) (s : State) : jobArrives cls slot work s =
    { s with cnt := (jobArrives cls slot work s).cnt, cip := { s.cip with
      nextJob := s.cip.nextJob + 1
      running := (jobArrives cls slot work s).cip.running
      waiting := (jobArrives cls slot work s).cip.waiting
      suspended := (jobArrives cls slot work s).cip.suspended } } := by
  cases hf : freeCores s with
  | cons x r =>
    rw [jobArrives_free hf]
    rfl
  | nil =>
    by_cases hroom : s.cip.suspended.length < 256
    · cases hv : victimFor s cls with
      | none =>
        rw [jobArrives_waits hf (.inr hv)]
        rfl
      | some v =>
        rw [jobArrives_victim hf hroom hv, suspendFor_frame]
        rfl
    · rw [jobArrives_waits hf (.inl (Nat.not_lt.mp hroom))]
      rfl

theorem jobArrives_undisturbed (cls slot : Nat) (work : CipherWork) (s : State) :
    Undisturbed s (jobArrives cls slot work s) := by
  rw [jobArrives_frame]
  exact ⟨rfl, rfl, rfl, rfl, rfl, rfl⟩

theorem jobArrives_cases {cls : Nat} {w : CipherWork} {j : CipherJob}
    (hj : j = { id := s.cip.nextJob, cls := cls, slot := n, work := w }) :
    (∀ x r, freeCores s = x :: r → (jobArrives cls n w s).cip.running = s.cip.running ++ [(x, j)] ∧
      (jobArrives cls n w s).cip.waiting = s.cip.waiting ∧ (jobArrives cls n w s).cip.suspended = s.cip.suspended) ∧
    (∀ v, freeCores s = [] → s.cip.suspended.length < 256 → victimFor s cls = some v →
      (jobArrives cls n w s).cip.running = s.cip.running.filter (fun r => r.1 != v.1) ++ [(v.1, j)] ∧
      (jobArrives cls n w s).cip.suspended = s.cip.suspended ++ [{ v.2 with core := some v.1 }]) ∧
    (freeCores s = [] → 256 ≤ s.cip.suspended.length ∨ victimFor s cls = none →
      jobArrives cls n w s = { s with cip := { s.cip with nextJob := s.cip.nextJob + 1, waiting := s.cip.waiting ++ [j] } }) := by
  subst hj
  refine ⟨fun x r h => ?_, fun v h hroom hv => ?_, fun h hw => ?_⟩
  · rw [jobArrives_free h]
    exact ⟨rfl, rfl, rfl⟩
  · rw [jobArrives_victim h hroom hv, suspendFor_frame]
    exact ⟨rfl, rfl⟩
  · rw [jobArrives_waits h hw]
    rfl

theorem exec_cipherJobArrival_arrives (q n b : Nat) (hs : settled s) : ∃ t, exec (.cipherJobArrival q ⟨n, b⟩) s = .next t ∧
    t = jobArrives 0 n (.packet q b) s ∧ t.cip.nextJob = s.cip.nextJob + 1 ∧ t.jcq = s.jcq ∧ t.cip.slot = s.cip.slot := by
  have hexec : exec (.cipherJobArrival q ⟨n, b⟩) s = ends s (jobArrives 0 n (.packet q b) s) := rfl
  rw [hexec, ends_undisturbed hs (jobArrives_undisturbed _ _ _ s)]
  refine ⟨_, rfl, rfl, ?_⟩
  rw [jobArrives_frame]
  exact ⟨rfl, rfl, rfl⟩

/-! ## Data commands (R387, R394, R395) -/

/-- The class of a data command's job (R391). -/
def dataClass (c : Cmd) : Nat := if param c 18 1 0 1 = 1 then 1 else 2

/-- A slot with one more reference. -/
def referenced (k : KeySlot) : KeySlot := { k with refs := k.refs + 1 }

theorem addRef_setKeySlot (n : Nat) (k : KeySlot) (s : State) :
    addRef n (setKeySlot n k s) = setKeySlot n (referenced k) s := by
  rw [addRef, keySlot_setKeySlot, setKeySlot_setKeySlot]
  rfl

theorem coresUp_setKeySlot (n : Nat) (k : KeySlot) (s : State) : coresUp (setKeySlot n k s) = coresUp s := rfl

theorem submit_up {counter : Nat} (h : coresUp s ≠ []) : submit c counter s =
    jobArrives (dataClass c) (cipherSlot c) (.command c counter) (addRef (cipherSlot c) s) := by
  have hne : ¬ (coresUp s).isEmpty = true := by simpa using h
  rw [submit, if_neg hne]
  rfl

theorem submit_none {counter : Nat} (h : coresUp s = []) : submit c counter s = complete c .fenced [] (schedUnit s) s := by
  rw [submit, h]
  rfl

theorem submit_undisturbed (c : Cmd) (counter : Nat) (s : State) : Undisturbed s (submit c counter s) := by
  by_cases h : coresUp s = []
  · rw [submit_none h]
    exact complete_undisturbed _ _ _ _ s
  · rw [submit_up h]
    exact (setKeySlot_undisturbed _ _ s).trans (jobArrives_undisturbed _ _ _ _)

/-- GCM_SEAL with its checks passed. -/
def sealRun (c : Cmd) (s : State) : State :=
  match takeCounter (cipherSlot c) s with
  | (some n, s) => submit c n s
  | (none, s) => complete c .keyExhausted [] (schedUnit s) s

theorem sealRun_takes (h : (keySlot s (cipherSlot c)).counter ≠ (keySlot s (cipherSlot c)).limit) :
    sealRun c s = submit c (keySlot s (cipherSlot c)).counter.toNat (setKeySlot (cipherSlot c)
      { keySlot s (cipherSlot c) with counter := (keySlot s (cipherSlot c)).counter + 1 } s) := by
  simp only [sealRun, takeCounter, if_neg h]

theorem sealRun_exhausts (h : (keySlot s (cipherSlot c)).counter = (keySlot s (cipherSlot c)).limit) :
    sealRun c s = complete c .keyExhausted [] (schedUnit s) (setKeySlot (cipherSlot c)
      { keySlot s (cipherSlot c) with state := .exhausted } { s with cip := { s.cip with exhaustedSeen := true } }) := by
  simp only [sealRun, takeCounter, if_pos h]
  rfl

theorem sealRun_undisturbed (c : Cmd) (s : State) : Undisturbed s (sealRun c s) := by
  by_cases h : (keySlot s (cipherSlot c)).counter = (keySlot s (cipherSlot c)).limit
  · rw [sealRun_exhausts h]
    have hset : Undisturbed s (setKeySlot (cipherSlot c) { keySlot s (cipherSlot c) with state := .exhausted }
      { s with cip := { s.cip with exhaustedSeen := true } }) := ⟨rfl, rfl, rfl, rfl, rfl, rfl⟩
    exact hset.trans (complete_undisturbed _ _ _ _ _)
  · rw [sealRun_takes h]
    exact (setKeySlot_undisturbed _ _ s).trans (submit_undisturbed _ _ _)

theorem exec_gcmSeal_passes (hs : settled s) (ha : admits descGcmSeal c s)
    (ho : slotOwned s c.part (cipherSlot c) = true) (hk : (keySlot s (cipherSlot c)).state = .gcm)
    (hr : rangesOverlap c = false) (hl : gcmAadLen c ≤ 65536) :
    exec (.gcmSeal c) s = .next (sealRun c (begun c s)) := by
  refine runCmd_effect _ _ hs ha ?_ (sealRun_undisturbed c _)
  have hlen : decide (gcmAadLen c > 65536) = false := decide_eq_false (Nat.not_lt.mpr hl)
  rw [slotCheck_owned ho, slotIn, slotIn, hk, hr, hlen]
  decide

theorem exec_gcmSeal_cases (hn : n = cipherSlot c) (hs : settled s) (ha : admits descGcmSeal c s)
    (ho : slotOwned s c.part n = true) (hk : (keySlot s n).state = .gcm) (hr : rangesOverlap c = false)
    (hl : gcmAadLen c ≤ 65536) :
    ((keySlot s n).counter ≠ (keySlot s n).limit → coresUp s ≠ [] → ∃ t, exec (.gcmSeal c) s = .next t ∧
      t = jobArrives (if param c 18 1 0 1 = 1 then 1 else 2) n (.command c (keySlot s n).counter.toNat) (setKeySlot n
        { keySlot s n with counter := (keySlot s n).counter + 1, refs := (keySlot s n).refs + 1 } (begun c s)) ∧
      t.jcq.done = s.jcq.done ∧ t.spl = s.spl) ∧
    ((keySlot s n).counter = (keySlot s n).limit → ∃ t, exec (.gcmSeal c) s = .next t ∧
      t = complete c .keyExhausted [] (schedUnit s) (setKeySlot n { keySlot s n with state := .exhausted }
        { begun c s with cip := { s.cip with exhaustedSeen := true } })) := by
  subst hn
  rw [exec_gcmSeal_passes hs ha ho hk hr hl]
  refine ⟨fun hc hup => ?_, fun hc => ⟨_, rfl, sealRun_exhausts hc⟩⟩
  have hrun : sealRun c (begun c s) = jobArrives (dataClass c) (cipherSlot c)
      (.command c (keySlot s (cipherSlot c)).counter.toNat) (setKeySlot (cipherSlot c)
      { keySlot s (cipherSlot c) with counter := (keySlot s (cipherSlot c)).counter + 1
                                      refs := (keySlot s (cipherSlot c)).refs + 1 } (begun c s)) := by
    have htake := sealRun_takes (c := c) (s := begun c s) hc
    rw [htake, submit_up (by rw [coresUp_setKeySlot]; exact hup), addRef_setKeySlot]
    rfl
  rw [hrun]
  refine ⟨_, rfl, rfl, ?_⟩
  rw [jobArrives_frame]
  exact ⟨rfl, rfl⟩

/-- A data command that takes no counter, with its checks passed. -/
theorem submit_cases {o : Host.Outcome State Fault Refusal} (h : o = .next (submit c 0 (begun c s))) :
    (coresUp s ≠ [] → o = .next (jobArrives (if param c 18 1 0 1 = 1 then 1 else 2) (cipherSlot c) (.command c 0)
      (setKeySlot (cipherSlot c) { keySlot s (cipherSlot c) with refs := (keySlot s (cipherSlot c)).refs + 1 } (begun c s)))) ∧
    (coresUp s = [] → o = .next (complete c .fenced [] (schedUnit s) (begun c s))) := by
  refine ⟨fun hup => ?_, fun hup => ?_⟩
  · rw [h, submit_up (s := begun c s) hup]
    rfl
  · rw [h, submit_none (s := begun c s) hup]
    rfl

theorem exec_gcmOpen_passes (hs : settled s) (ha : admits descGcmOpen c s)
    (ho : slotOwned s c.part (cipherSlot c) = true) (hk : (keySlot s (cipherSlot c)).state = .gcm)
    (hr : rangesOverlap c = false) (hl : gcmAadLen c ≤ 65536) :
    exec (.gcmOpen c) s = .next (submit c 0 (begun c s)) := by
  refine runCmd_effect _ _ hs ha ?_ (submit_undisturbed c 0 _)
  have hlen : decide (gcmAadLen c > 65536) = false := decide_eq_false (Nat.not_lt.mpr hl)
  rw [slotCheck_owned ho, slotIn, hk, hr, hlen]
  decide

theorem runCmd_xts_passes {code : Nat} (hs : settled s) (ha : admits (descXts code) c s)
    (ho : slotOwned s c.part (cipherSlot c) = true) (hk : (keySlot s (cipherSlot c)).state = .xts)
    (hr : rangesOverlap c = false) (hl : cmdLength c % dataUnit c = 0) :
    runCmd (descXts code) c (xtsFails s c) s (submit c 0) = .next (submit c 0 (begun c s)) := by
  refine runCmd_effect _ _ hs ha ?_ (submit_undisturbed c 0 _)
  rw [xtsFails, slotCheck_owned ho, slotIn, hk, hr, hl]
  decide

theorem exec_dataCommand_cases {p : (Cmd → Instr) × OpDesc × SlotState} (hn : n = cipherSlot c) (hs : settled s)
    (ho : slotOwned s c.part n = true) (hr : rangesOverlap c = false)
    (hp : p ∈ ([(.gcmOpen, descGcmOpen, .gcm), (.xtsEnc, descXts 0x0612, .xts), (.xtsDec, descXts 0x0613, .xts)] :
      List ((Cmd → Instr) × OpDesc × SlotState))) (ha : admits p.2.1 c s) (hk : (keySlot s n).state = p.2.2)
    (hl : if p.2.2 = .gcm then gcmAadLen c ≤ 65536 else cmdLength c % dataUnit c = 0) :
    (coresUp s ≠ [] → exec (p.1 c) s = .next (jobArrives (if param c 18 1 0 1 = 1 then 1 else 2) n (.command c 0)
      (setKeySlot n { keySlot s n with refs := (keySlot s n).refs + 1 } (begun c s)))) ∧
    (coresUp s = [] → exec (p.1 c) s = .next (complete c .fenced [] (schedUnit s) (begun c s))) := by
  subst hn
  simp only [List.mem_cons, List.not_mem_nil, or_false] at hp
  rcases hp with rfl | rfl | rfl
  · exact submit_cases (exec_gcmOpen_passes hs ha ho hk hr hl)
  · exact submit_cases (runCmd_xts_passes hs ha ho hk hr hl)
  · exact submit_cases (runCmd_xts_passes hs ha ho hk hr hl)

end

/-! ## Nothing that can start waits (R391, R392) -/

/-- Cores that are free, and jobs that wait: what each step of the scheduler makes less of. -/
def schedLeft (s : State) : Nat := (freeCores s).length + s.cip.waiting.length

theorem filter_ne_length_lt {α : Type} {l : List α} {p : α → Bool} {x : α} (hx : x ∈ l) (hp : p x = false) :
    (l.filter p).length < l.length := by
  rw [List.length_filter_lt_length_iff_exists]
  exact ⟨x, hx, by simp [hp]⟩

theorem mem_of_firstJob {js : List CipherJob} {j : CipherJob} (h : firstJob js = some j) : j ∈ js := by
  rw [firstJob, List.findSome?_eq_some_iff] at h
  obtain ⟨_, c, _, _, hc, _⟩ := h
  exact List.mem_of_find?_eq_some hc

/-- Free cores follow the jobs that run, where nothing else changes. -/
theorem freeCores_running {s t : State} (hw : t.weft = s.weft) (hf : t.saf = s.saf) (hh : t.hang = s.hang) : freeCores t =
    (coresUp s).filter fun n => !(t.cip.running.any fun r => r.1 == n) && !unitClosed s (cipherCore n) &&
      !testing s (cipherCore n) := by
  simp only [freeCores, coresUp, inService, diePresent, fenced, safUnit, unitClosed, inReset, testing, hw, hf, hh]

theorem freeCores_startJob {s : State} {x : Nat} {r : List Nat} (j : CipherJob) (h : freeCores s = x :: r) :
    (freeCores (startJob x j s)).length < (freeCores s).length := by
  have hsub : freeCores (startJob x j s) = (freeCores s).filter fun n => n != x := by
    rw [freeCores_running (s := s) (t := startJob x j s) rfl rfl rfl, freeCores, List.filter_filter]
    refine List.filter_congr fun n _ => ?_
    simp only [startJob, List.any_append, List.any_cons, List.any_nil, Bool.or_false]
    by_cases hn : n = x
    · simp [hn]
    · have hx : (x == n) = false := beq_eq_false_iff_ne.mpr (Ne.symm hn)
      have hx' : (n != x) = true := bne_iff_ne.mpr hn
      rw [hx, hx', Bool.or_false, Bool.true_and]
  rw [hsub]
  exact filter_ne_length_lt (x := x) (by rw [h]; exact List.mem_cons_self) (by simp)

theorem freeCores_unwait (j : CipherJob) (s : State) : freeCores (unwait j s) = freeCores s := rfl

theorem suspendFor_waiting (v : Nat × CipherJob) (j : CipherJob) (s : State) :
    (suspendFor v j s).cip.waiting = s.cip.waiting := by
  rw [suspendFor_frame]

theorem mem_of_victimFor {s : State} {cls : Nat} {v : Nat × CipherJob} (h : victimFor s cls = some v) :
    v ∈ s.cip.running := by
  unfold victimFor at h
  dsimp only at h
  split at h
  · exact List.mem_of_mem_filter (List.mem_of_find?_eq_some h)
  · exact absurd h (by simp)

theorem freeCores_suspendFor {s : State} {v : Nat × CipherJob} (j : CipherJob) (hv : v ∈ s.cip.running) :
    freeCores (suspendFor v j s) = freeCores s := by
  have hframe := suspendFor_frame v j s
  rw [freeCores_running (s := s) (t := suspendFor v j s) (by rw [hframe]) (by rw [hframe]) (by rw [hframe]), freeCores]
  refine List.filter_congr fun n _ => ?_
  have hany : (suspendFor v j s).cip.running.any (fun r => r.1 == n) = s.cip.running.any fun r => r.1 == n := by
    rw [hframe]
    by_cases hn : v.1 = n
    · simp only [List.any_append, List.any_cons, hn, beq_self_eq_true, Bool.true_or, Bool.or_true]
      exact (List.any_eq_true.mpr ⟨v, hv, by simp [hn]⟩).symm
    · have hother : (s.cip.running.filter fun r => r.1 != v.1).any (fun r => r.1 == n) = s.cip.running.any fun r => r.1 == n := by
        rw [List.any_filter]
        refine List.any_congr rfl fun r => ?_
        by_cases hr : r.1 = n <;> simp [hr, Ne.symm hn]
      simp only [List.any_append, List.any_cons, List.any_nil, Bool.or_false, beq_eq_false_iff_ne.mpr hn]
      exact hother
  rw [hany]

theorem unwait_waiting_le (j : CipherJob) (s : State) : (unwait j s).cip.waiting.length ≤ s.cip.waiting.length :=
  List.length_filter_le _ _

theorem unwait_waiting_lt {j : CipherJob} {s : State} (h : j ∈ s.cip.waiting) :
    (unwait j s).cip.waiting.length < s.cip.waiting.length := filter_ne_length_lt h (by simp)

theorem schedStep_less {s t : State} (h : schedStep s = some t) : schedLeft t < schedLeft s := by
  unfold schedStep at h
  cases hf : freeCores s with
  | cons x r =>
    rw [hf] at h
    simp only [Option.map_eq_some_iff] at h
    obtain ⟨j, _, rfl⟩ := h
    have hfree := freeCores_startJob (s := unwait j s) j (by rw [freeCores_unwait]; exact hf)
    rw [freeCores_unwait] at hfree
    have hwait := unwait_waiting_le j s
    have hsame : (startJob x j (unwait j s)).cip.waiting = (unwait j s).cip.waiting := rfl
    unfold schedLeft
    rw [hsame]
    omega
  | nil =>
    rw [hf] at h
    dsimp only at h
    split at h
    · exact absurd h (by simp)
    · simp only [Option.bind_eq_some_iff, Option.map_eq_some_iff] at h
      obtain ⟨j, hj, v, hv, rfl⟩ := h
      have hwait := unwait_waiting_lt (mem_of_firstJob hj)
      have hmem : v ∈ (unwait j s).cip.running := mem_of_victimFor hv
      unfold schedLeft
      rw [freeCores_suspendFor j hmem, freeCores_unwait, suspendFor_waiting, hf]
      omega

theorem scheduleFor_done (n : Nat) (s : State) (h : schedLeft s ≤ n) : schedStep (scheduleFor n s) = none := by
  induction n generalizing s with
  | zero =>
    cases hs : schedStep s with
    | none => exact hs
    | some t =>
      have := schedStep_less hs
      omega
  | succ n ih =>
    rw [scheduleFor]
    cases hs : schedStep s with
    | none => exact hs
    | some t =>
      have hless := schedStep_less hs
      exact ih t (by omega)

theorem freeCores_length_le (s : State) : (freeCores s).length ≤ 16 :=
  ((List.length_filter_le _ _).trans (List.length_filter_le _ _)).trans_eq List.length_range

theorem schedule_done (s : State) : schedStep (schedule s) = none := by
  have hcores := freeCores_length_le s
  refine scheduleFor_done _ s ?_
  unfold schedLeft
  omega

/-! ## Jobs end (R396) -/

theorem jobComplete_ends {x : Nat} {s u : State} {r : Nat × CipherJob}
    (hr : s.cip.running.find? (fun r => r.1 == x) = some r)
    (hh : unitHolds s (cipherCore x) (jobOwner r.2).1 (jobOwner r.2).2 = false)
    (hu : u = countJob x { s with cip := { s.cip with running := s.cip.running.filter fun y => y.1 != x } }) :
    (∀ q b, r.2.work = .packet q b →
      exec (.cipherJobComplete x) s = .next (ended s (schedule (countCipher x false b u)))) ∧
    ∀ c n, r.2.work = .command c n → exec (.cipherJobComplete x) s = .next (ended s (schedule (finishData x r.2 c n u))) := by
  have hexec : exec (.cipherJobComplete x) s = .next (ended s (jobComplete x s)) := rfl
  subst hu
  refine ⟨fun q b hw => ?_, fun c n hw => ?_⟩
  · rw [hexec]
    simp only [jobComplete, hr, hh, hw, Bool.false_eq_true, if_false]
  · rw [hexec]
    simp only [jobComplete, hr, hh, hw, Bool.false_eq_true, if_false]

theorem exec_cipherJobComplete_none {x : Nat} {s : State} (hs : settled s)
    (h : s.cip.running.find? (fun r => r.1 == x) = none) : exec (.cipherJobComplete x) s = .next s := by
  have hexec : exec (.cipherJobComplete x) s = ends s (jobComplete x s) := rfl
  have own : jobComplete x s = s := by simp only [jobComplete, h]
  rw [hexec, own]
  exact ends_undisturbed hs (.refl s)

theorem finishData_cases {x n : Nat} {j : CipherJob} {c : Cmd} {s v : State} {st : Status} {bs : List Byte}
    (hread : bufRead (cipherCore x) c.part (param c 24 2 0 16) (fieldLE c.packet 32 8) (srcLen c) c.ext s = (v, st, bs)) :
    (st = .ok → (∀ out w st', cipherData (keySlot s j.slot) c n bs = some out →
        bufWrite (cipherCore x) c.part (param c 24 2 0 16) (fieldLE c.packet 40 8) out
          (countCipher x (decide (fieldLE c.packet 0 2 ≥ 0x0612)) (cmdLength c) v) = (w, st') →
        finishData x j c n s = complete c st' (if st' = .ok then cipherResult (keySlot s j.slot) c n else [])
          (schedUnit w) (dropRef j.slot w)) ∧
      (cipherData (keySlot s j.slot) c n bs = none → ∃ w, finishData x j c n s = complete c .checkFail [] (schedUnit w)
        (dropRef j.slot { w with cip := { w.cip with openFailSeen := true } }) ∧
        w = (bufWrite (cipherCore x) c.part (param c 24 2 0 16) (fieldLE c.packet 40 8) (List.replicate (dstLen c) 0)
          (countCipher x (decide (fieldLE c.packet 0 2 ≥ 0x0612)) (cmdLength c) v)).1)) ∧
    (st = .poison → ∃ w, finishData x j c n s = complete c .poison [] (schedUnit w) (dropRef j.slot w) ∧
      w = spend (bufWrite (cipherCore x) c.part (param c 24 2 0 16) (fieldLE c.packet 40 8) (freeBytes v (dstLen c)) v).1) ∧
    (st ≠ .ok → st ≠ .poison → finishData x j c n s = complete c st [] (schedUnit v) (dropRef j.slot v)) := by
  refine ⟨fun hok => ⟨fun out w st' hd hw => ?_, fun hd => ⟨_, ?_, rfl⟩⟩, fun hp => ⟨_, ?_, rfl⟩, fun hok hp => ?_⟩
  · subst hok
    simp only [finishData, hread, hd, hw, reduceCtorEq, if_false, ne_eq, not_true]
  · subst hok
    simp only [finishData, hread, hd, reduceCtorEq, if_false, ne_eq, not_true]
    rfl
  · subst hp
    simp only [finishData, hread, if_true]
  · simp only [finishData, hread, if_neg hp, ne_eq, hok, not_false_eq_true, if_true]

/-- Settles O54: the checks of each command in order, the arrival of its job, and the scheduler by the measure `schedLeft`. -/
theorem cipherJobsTakeEffect : Obligations.CipherJobsTakeEffect := by
  unfold Obligations.CipherJobsTakeEffect
  exact ⟨fun c s n hn hs ho => ⟨fun ha hb hm hl hj => exec_keyLoad_loads hn hs ho ha hb hm hl hj,
      fun ha => exec_keyDestroy_cases hn hs ho ha, fun ha => exec_keyQuery_answers hn hs ho ha⟩,
    fun p hp c s hs ha ho hb => exec_cipher_denied hp hs ha ho hb,
    fun c s n hn hs ha ho hk hr hl => exec_gcmSeal_cases hn hs ha ho hk hr hl,
    fun c s n hn hs ho hr p hp ha hk hl => exec_dataCommand_cases hn hs ho hr hp ha hk hl,
    fun q n b s hs => exec_cipherJobArrival_arrives q n b hs, fun cls n w s j hj => jobArrives_cases hj, schedule_done,
    fun x s r u hr hh hu => jobComplete_ends hr hh hu, fun x n j c s v st bs hread => finishData_cases hread,
    fun x s hs h => exec_cipherJobComplete_none hs h⟩

end Sys2Proof.Machine
end

section
/-! PROOFS. Partitions: what RES_SET moves, and how a partition freezes, is saved, restored, thawed and cleared (R398 to
R407). -/

namespace Sys2Proof.Machine

/-! ## RES_SET (R400, R401) -/

theorem resOf_setRes (kind p : Nat) (r : ResRange) (s : State) (k q : Nat) :
    resOf (setRes kind p r s) k q =
      if k * 64 + q = kind * 64 + p then (if r.count = 0 then {} else r) else resOf s k q := tget_tset _ _ _ _ _

/-- A range or an amount is set as a whole. -/
theorem moveRes_set {a : ResArgs} (s : State) (h : a.op < 2) :
    moveRes a s = setRes a.kind a.part ⟨if a.op = 0 then a.first else 0, a.count⟩ s := by
  obtain h0 | h1 : a.op = 0 ∨ a.op = 1 := by omega
  · unfold moveRes
    rw [h0]
    rfl
  · unfold moveRes
    rw [h1]
    rfl

/-- A port that is given to the partition, or taken from it. -/
def portMoved (a : ResArgs) (v : APort) : APort := { v with part := if a.op == 2 then BitVec.ofNat 6 a.part else 0 }

/-- A Bobbin that is given to the partition, or taken from it. -/
def bobbinMoved (a : ResArgs) (b : Bobbin) : Bobbin :=
  { b with state := if a.op == 2 then .idle else .unassigned, part := if a.op == 2 then a.part else 0 }

/-- What one named port or Bobbin becomes. -/
def moveItem (a : ResArgs) (s : State) (i : Nat) : State :=
  if a.kind = 10 then modAport i (portMoved a) s else modBobbin i (bobbinMoved a) s

/-- Ports and Bobbins are given and taken item by item. -/
theorem moveRes_items {a : ResArgs} (s : State) (h : 2 ≤ a.op) : moveRes a s = (itemList a).foldl (moveItem a) s := by
  unfold moveRes
  split
  · omega
  · omega
  · rfl

theorem moveItem_keeps (a : ResArgs) (s : State) (i : Nat) :
    (moveItem a s i).parts = s.parts ∧ (moveItem a s i).jcq = s.jcq := by
  rw [moveItem]
  split <;> exact ⟨rfl, rfl⟩

theorem moveRes_keeps (a : ResArgs) (s : State) :
    (moveRes a s).parts.state = s.parts.state ∧ (moveRes a s).jcq = s.jcq ∧
      (2 ≤ a.op → (moveRes a s).parts.res = s.parts.res) := by
  by_cases h : a.op < 2
  · rw [moveRes_set s h]
    exact ⟨rfl, rfl, fun h2 => absurd h (by omega)⟩
  · rw [moveRes_items s (by omega)]
    have hp := foldl_keeps (moveItem a) (fun s => s.parts) (fun s i => (moveItem_keeps a s i).1) (itemList a) s
    have hj := foldl_keeps (moveItem a) (fun s => s.jcq) (fun s i => (moveItem_keeps a s i).2) (itemList a) s
    exact ⟨congrArg (·.state) hp, hj, fun _ => congrArg (·.res) hp⟩

theorem mem_itemList (a : ResArgs) (i : Nat) : i ∈ itemList a ↔ a.first ≤ i ∧ i < a.first + a.count := by
  rw [itemList, List.mem_map]
  constructor
  · rintro ⟨k, hk, rfl⟩
    rw [List.mem_range] at hk
    omega
  · rintro ⟨h1, h2⟩
    exact ⟨i - a.first, List.mem_range.mpr (by omega), by omega⟩

theorem aport_foldl_modAport {f : APort → APort} (hf : ∀ v, f (f v) = f v) (is : List Nat) (s : State) (x : Nat) :
    aport (is.foldl (fun s i => modAport i f s) s) x = if x ∈ is then f (aport s x) else aport s x := by
  induction is generalizing s with
  | nil => rfl
  | cons i r ih =>
    rw [List.foldl_cons, ih, modAport]
    by_cases hx : x = i
    · subst hx
      simp [hf]
    · rw [aport_setAport_other _ _ _ _ hx]
      simp [hx]

theorem aport_moveRes {a : ResArgs} (s : State) (h : 2 ≤ a.op) (hk : a.kind = 10) (i : Nat) :
    aport (moveRes a s) i = if a.first ≤ i ∧ i < a.first + a.count
      then { aport s i with part := if a.op = 2 then BitVec.ofNat 6 a.part else 0 } else aport s i := by
  have hf : moveItem a = fun s i => modAport i (portMoved a) s := by
    funext s i
    rw [moveItem, if_pos hk]
  rw [moveRes_items s h, hf, aport_foldl_modAport (f := portMoved a) (fun _ => rfl)]
  simp only [mem_itemList, portMoved, beq_iff_eq]

theorem bobbinOf_moveRes {a : ResArgs} (s : State) (h : 2 ≤ a.op) (hk : a.kind = 11) (i : Nat) :
    bobbinOf (moveRes a s) i = if a.first ≤ i ∧ i < a.first + a.count
      then { bobbinOf s i with state := if a.op = 2 then .idle else .unassigned, part := if a.op = 2 then a.part else 0 }
      else bobbinOf s i := by
  have hf : moveItem a = fun s i => modBobbin i (bobbinMoved a) s := by
    funext s i
    rw [moveItem, if_neg (by omega)]
  rw [moveRes_items s h, hf, bobbinOf_foldl_modBobbin (f := bobbinMoved a) (fun _ => rfl)]
  simp only [mem_itemList, bobbinMoved, beq_iff_eq]

/-- RES_SET moves what it names, and nothing else of the assignment. -/
theorem moveRes_spec (a : ResArgs) (s : State) :
    (moveRes a s).parts.state = s.parts.state ∧ (moveRes a s).jcq = s.jcq ∧
      (a.op < 2 → resOf (moveRes a s) a.kind a.part =
          (if a.count = 0 then {} else ⟨if a.op = 0 then a.first else 0, a.count⟩) ∧
        (∀ k p, k * 64 + p ≠ a.kind * 64 + a.part → resOf (moveRes a s) k p = resOf s k p) ∧ (moveRes a s).bob = s.bob) ∧
      (2 ≤ a.op → (moveRes a s).parts.res = s.parts.res) := by
  obtain ⟨hstate, hjcq, hres⟩ := moveRes_keeps a s
  refine ⟨hstate, hjcq, fun h => ?_, hres⟩
  rw [moveRes_set s h]
  refine ⟨?_, fun k p hk => ?_, rfl⟩
  · rw [resOf_setRes, if_pos rfl]
  · rw [resOf_setRes, if_neg hk]

theorem exec_resSet {c : Cmd} {s : State} (ha : admits descResSet c s)
    (hk : firstFail [(resPairBad (resArgs c), Status.opcode), (resBounds s (resArgs c), .bounds), (resTaken s (resArgs c), .busy),
      (resFull s (resArgs c), .poolFull), (resLeaving s (resArgs c), .busy)] = none) :
    exec (.resSet c) s = .next (ended s (partEvent (resArgs c).part (resArgs c).kind 0 (resArgs c).count
      (complete c .ok [] (tableOwner (begun c s)) (moveRes (resArgs c) (begun c s))))) :=
  runCmd_passes descResSet c _ s _ ha.1 ha.2 ((firstFail_none _).mp hk)

/-! ## Commands on a frozen partition -/

theorem partCheck_zero {c : Cmd} (s : State) (want : PartState) (h : cmdPart c = 0) :
    firstFail (partCheck s c want) = some .bounds := by
  simp [partCheck, firstFail, h]

theorem partCheck_state {c : Cmd} {s : State} {want : PartState} (h : cmdPart c ≠ 0) (hw : partState s (cmdPart c) ≠ want) :
    firstFail (partCheck s c want) = some .busy := by
  simp [partCheck, firstFail, h, hw]

theorem partCheck_good {c : Cmd} {s : State} {want : PartState} (h : cmdPart c ≠ 0) (hw : partState s (cmdPart c) = want) :
    ∀ e ∈ partCheck s c want, e.1 = false := by
  simp [partCheck, h, hw]

section
variable {d : OpDesc} {c : Cmd} {s : State} (run : State → State)

/-- A command that names partition 0, or one that is not frozen, completes with that status alone. -/
theorem partCheck_refuses (hs : settled s) (ha : admits d c s) :
    (cmdPart c = 0 → runCmd d c (partCheck s c .frozen) s run = .next (complete c .bounds [] (procUnit s c) (begun c s))) ∧
      (cmdPart c ≠ 0 → partState s (cmdPart c) ≠ .frozen →
        runCmd d c (partCheck s c .frozen) s run = .next (complete c .busy [] (procUnit s c) (begun c s))) :=
  ⟨fun h => runCmd_refuses _ _ hs ha (partCheck_zero s _ h), fun h hw => runCmd_refuses _ _ hs ha (partCheck_state h hw)⟩

theorem partCheck_runs (ha : admits d c s) (h0 : cmdPart c ≠ 0) (hw : partState s (cmdPart c) = .frozen) :
    runCmd d c (partCheck s c .frozen) s run = .next (ended s (run (begun c s))) :=
  runCmd_passes d c _ s run ha.1 ha.2 (partCheck_good h0 hw)

end

theorem frozenPartitionCommands : ∀ p ∈ ([(.partSave, descPartSave), (.partRestore, descPartRestore), (.partThaw, descPartThaw),
      (.partClear, descPartClear)] : List ((Cmd → Instr) × OpDesc)), ∀ (c : Cmd) (s : State), settled s →
      admits p.2 c s →
      (cmdPart c = 0 → exec (p.1 c) s = .next (complete c .bounds [] (procUnit s c) (begun c s))) ∧
      (cmdPart c ≠ 0 → partState s (cmdPart c) ≠ .frozen →
        exec (p.1 c) s = .next (complete c .busy [] (procUnit s c) (begun c s))) := by
  intro p hp c s hs ha
  simp only [List.mem_cons, List.not_mem_nil, or_false] at hp
  obtain rfl | rfl | rfl | rfl := hp <;> exact partCheck_refuses _ hs ha

/-! ## Freezing (R403, R404) -/

theorem frozen_eq (f : Freeze) (n : Nat) (s : State) : frozen f n s = partEvent f.part 0 1 0
    (completeRef f.cmd .ok [n] (tableOwner (setPart f.part .frozen { s with parts := { s.parts with freezes := s.parts.freezes.filter (· != f) } }))
      (setPart f.part .frozen { s with parts := { s.parts with freezes := s.parts.freezes.filter (· != f) } })) := rfl

theorem partEvent_keeps (p kind op count : Nat) (s : State) :
    (partEvent p kind op count s).parts = s.parts ∧ (partEvent p kind op count s).jcq = s.jcq ∧
      (partEvent p kind op count s).bob = s.bob := ⟨rfl, rfl, rfl⟩

theorem frozen_parts (f : Freeze) (n : Nat) (s : State) : (frozen f n s).parts =
    { s.parts with freezes := s.parts.freezes.filter (· != f), state := tset .opened s.parts.state f.part .frozen } := by
  rw [frozen_eq, (partEvent_keeps _ _ _ _ _).1, completeRef_frame]
  rfl

theorem frozen_bob (f : Freeze) (n : Nat) (s : State) : (frozen f n s).bob = s.bob := by
  rw [frozen_eq, (partEvent_keeps _ _ _ _ _).2.2, completeRef_frame]
  rfl

/-- The PART_FREEZE completes with the number of commands aborted. -/
theorem frozen_done {f : Freeze} (n : Nat) {s : State} (h : ∃ l ∈ s.jcq.live, l.ref = f.cmd) :
    ∃ e, (frozen f n s).jcq.done = s.jcq.done ++ [e] ∧ e.ref = f.cmd ∧ e.status = .ok ∧ e.result = [n] := by
  rw [frozen_eq, (partEvent_keeps _ _ _ _ _).2.1]
  exact completeRef_last (s := setPart f.part .frozen { s with parts := { s.parts with freezes := s.parts.freezes.filter (· != f) } })
    .ok [n] _ h

theorem frozen_spec (f : Freeze) (n : Nat) (s : State) :
    partState (frozen f n s) f.part = .frozen ∧ f ∉ (frozen f n s).parts.freezes ∧
      (frozen f n s).parts.freezeAbort = s.parts.freezeAbort ∧ (frozen f n s).bob = s.bob ∧
      ((∃ l ∈ s.jcq.live, l.ref = f.cmd) → ∃ e, (frozen f n s).jcq.done = s.jcq.done ++ [e] ∧ e.ref = f.cmd ∧
        e.status = .ok ∧ e.result = [n]) := by
  refine ⟨?_, ?_, ?_, frozen_bob f n s, frozen_done n⟩
  · rw [partState, frozen_parts, tget_tset_same]
  · rw [frozen_parts]
    simp
  · rw [frozen_parts]

theorem withdrawLaunches_none (p : Nat) (s : State) : ∀ l ∈ (withdrawLaunches p s).bob.launch, l.part = p → l.state ≠ .queued := by
  intro l hl hp hq
  obtain ⟨x, -, rfl⟩ := List.mem_map.mp hl
  split at hp <;> split at hq <;> simp_all

section
variable {f : Freeze} {s : State}

theorem freezeCheck_one {u : State} (h : u.parts.freezes = [f]) : freezeCheck u =
    if (partWork u f.part).isEmpty && !partFetching u f.part then frozen f 0 u else u := by
  rw [freezeCheck, h]
  rfl

theorem freezeCheck_idle {u : State} (h : u.parts.freezes = [f]) (hw : partWork u f.part = []) (hf : partFetching u f.part = false) :
    freezeCheck u = frozen f 0 u := by
  rw [freezeCheck_one h, hw, hf]
  rfl

theorem freezeCheck_waits {u : State} (h : u.parts.freezes = [f]) (hw : partWork u f.part ≠ [] ∨ partFetching u f.part = true) :
    freezeCheck u = u := by
  rw [freezeCheck_one h, if_neg]
  rintro hc
  simp only [Bool.and_eq_true, List.isEmpty_iff, Bool.not_eq_true'] at hc
  obtain ⟨hw', hf'⟩ := hc
  obtain h1 | h2 := hw
  · exact h1 hw'
  · rw [hf'] at h2
    cases h2

end

section
variable {c : Cmd} {s u : State} {p : Nat} {f : Freeze} (hp : p = cmdPart c) (ha : admits descPartFreeze c s) (h0 : p ≠ 0)
  (ht : param c 20 2 0 16 ≠ 0) (hst : partState s p = .opened)
  (hf : f = { part := p, tmoMs := param c 20 2 0 16, started := unitTime s (tableOwner s), cmd := cmdRef c })
  (hu : u = withdrawLaunches p (setPart p .freezing { begun c s with
    parts := { s.parts with freezes := s.parts.freezes ++ [f] } }))
include hp ha h0 ht hst hf hu

theorem exec_partFreeze_ends : exec (.partFreeze c) s = ends s (freezeCheck u) := by
  subst hp hf hu
  exact runCmd_passes descPartFreeze c _ s _ ha.1 ha.2 (by simp [h0, ht, hst])

theorem exec_partFreeze_idle (hn : s.parts.freezes = []) (hw : partWork u p = []) (hfe : partFetching u p = false)
    (hl : ∃ l ∈ s.jcq.live, l.ref = cmdRef c) :
    ∃ t e, exec (.partFreeze c) s = .next t ∧ partState t p = .frozen ∧
      t.parts.freezes = [] ∧ t.jcq.done = s.jcq.done ++ [e] ∧ e.ref = cmdRef c ∧ e.status = .ok ∧ e.result = [0] ∧
      ∀ l ∈ t.bob.launch, l.part = p → l.state ≠ .queued := by
  have hfp : f.part = p := by rw [hf]
  have hone : u.parts.freezes = [f] := by
    rw [hu]
    exact congrArg (· ++ [f]) hn
  have hdone : u.jcq.done = s.jcq.done := by rw [hu]; rfl
  have hlive : ∃ l ∈ u.jcq.live, l.ref = f.cmd := by
    rw [hu, hf]
    exact hl
  obtain ⟨e, hd, href, hok, hres⟩ := frozen_done 0 hlive
  have hfc := freezeCheck_idle hone (hfp ▸ hw) (hfp ▸ hfe)
  refine ⟨ended s (frozen f 0 u), e, ?_, ?_, ?_, ?_, ?_, hok, hres, ?_⟩
  · rw [exec_partFreeze_ends hp ha h0 ht hst hf hu, hfc]
    rfl
  · rw [partState, ended_parts, ← hfp]
    exact (frozen_spec f 0 u).1
  · rw [ended_parts, frozen_parts, hone]
    simp
  · rw [ended_done, hd, hdone]
  · rw [href, hf]
  · rw [ended_bob, frozen_bob, hu]
    exact withdrawLaunches_none p _

theorem exec_partFreeze_waits (hn : s.parts.freezes = []) (hs : settled s) (hw : partWork u p ≠ [] ∨ partFetching u p = true) :
    exec (.partFreeze c) s = .next u := by
  have hfp : f.part = p := by rw [hf]
  have hone : u.parts.freezes = [f] := by
    rw [hu]
    exact congrArg (· ++ [f]) hn
  rw [exec_partFreeze_ends hp ha h0 ht hst hf hu, freezeCheck_waits hone (hfp ▸ hw)]
  refine ends_undisturbed hs ?_
  rw [hu]
  exact ⟨rfl, rfl, rfl, rfl, rfl, rfl⟩

end

section
variable {p : Nat} {s : State} {f : Freeze} (hf : s.parts.freezes.find? (fun f => f.part == p) = some f)
include hf

theorem freezeTimeout_early (h : (unitTime s (tableOwner s) - f.started).toNat < f.tmoMs * 1000000) (hs : settled s) :
    exec (.freezeTimeout p) s = .next s := by
  have he : freezeTimeout p s = s := by
    unfold freezeTimeout
    rw [hf]
    exact if_pos h
  exact (congrArg (ends s) he).trans (ends_undisturbed hs (.refl s))

theorem freezeTimeout_aborts {n : Nat} {v : State} (h : f.tmoMs * 1000000 ≤ (unitTime s (tableOwner s) - f.started).toNat)
    (hv : abortAll (fun r => r.part == p && !(idleRefs s).contains r) false s = (n, v)) :
    exec (.freezeTimeout p) s = .next (ended s (frozen f n
      { v with parts := { v.parts with freezeAbort := tset false v.parts.freezeAbort p true } })) := by
  have he : freezeTimeout p s = frozen f n
      { v with parts := { v.parts with freezeAbort := tset false v.parts.freezeAbort p true } } := by
    unfold freezeTimeout
    rw [hf]
    dsimp only
    rw [if_neg (by omega), hv]
  exact congrArg (ends s) he

end

/-! ## PART_THAW (R403, R407) -/

/-- A thawed launch is queued: none that waited stays withdrawn, and partitions and their resources stand. -/
structure Requeued (l : Launch) (s t : State) : Prop where
  parts : t.parts = s.parts
  launch : ∀ x ∈ t.bob.launch, x.state = .withdrawn → x ∈ s.bob.launch ∧ x.id ≠ l.id

theorem setLaunch_requeued {l q : Launch} {s t : State} (hid : q.id = l.id) (hq : q.state = .queued) (hp : t.parts = s.parts)
    (hl : t.bob.launch = s.bob.launch) : Requeued l s (setLaunch q t) := by
  refine ⟨hp, fun x hx hw => ?_⟩
  rw [setLaunch, hl] at hx
  obtain ⟨y, hy, rfl⟩ := List.mem_map.mp hx
  split at hw
  · rw [hq] at hw
    cases hw
  · next hne =>
    rw [if_neg hne]
    exact ⟨hy, hid ▸ hne⟩

theorem addSeqRefs_keeps (ws : List AttnWork) (s : State) :
    (ws.foldl addSeqRef s).parts = s.parts ∧ (ws.foldl addSeqRef s).bob.launch = s.bob.launch :=
  ⟨foldl_keeps addSeqRef (fun s => s.parts) (fun _ _ => rfl) ws s,
    foldl_keeps addSeqRef (fun s => s.bob.launch) (fun _ _ => rfl) ws s⟩

theorem workList_touches (l : Launch) (s : State) : Touches s (workList l s).1 := by
  have h := spoolRead_touches (launchOwner s l.part) l.ctx (argAt l 0 8) (16 * argAt l 8 2) s
  unfold workList
  dsimp only
  split
  · next v bs hr =>
    rw [hr] at h
    exact h
  · next v st bs hr =>
    rw [hr] at h
    exact h

theorem endLaunch_parts (l : Launch) (s : State) : (endLaunch l s).parts = s.parts := by
  rw [endLaunch_eq, foldl_keeps dropSeqRef (fun s => s.parts) (fun _ _ => rfl),
    foldl_keeps leaveLaunch (fun s => s.parts) (fun _ _ => rfl), completeRef_frame]
  split <;> rfl

theorem requeueLaunch_requeued (s : State) (l : Launch) : Requeued l s (requeueLaunch s l) := by
  have hw := workList_touches { l with state := .queued } s
  unfold requeueLaunch
  dsimp only
  split
  · exact setLaunch_requeued rfl rfl rfl rfl
  · split
    · next v st hv =>
      rw [hv] at hw
      refine ⟨(endLaunch_parts _ _).trans hw.parts, fun x hx _ => ?_⟩
      rw [endLaunch_launch, hw.bob] at hx
      obtain ⟨hx, hne⟩ := List.mem_filter.mp hx
      exact ⟨hx, by simpa using hne⟩
    · next v ws hv =>
      rw [hv] at hw
      obtain ⟨hparts, hlaunch⟩ := addSeqRefs_keeps ws (setLaunch { { l with state := .queued } with work := ws } v)
      obtain ⟨hp, hm⟩ := setLaunch_requeued (l := l) (q := { { l with state := .queued } with work := ws }) rfl rfl hw.parts
        (congrArg (·.launch) hw.bob)
      exact ⟨hparts.trans hp, fun x hx => hm x (hlaunch ▸ hx)⟩

/-- A launch stays as the thaw reads it, where it holds no work list to read. -/
theorem requeueLaunch_queues {l : Launch} {s : State} (h : (launchImage s l).resident = false ∨ l.image ≠ 1 ∨ l.work ≠ []) :
    requeueLaunch s l = setLaunch { l with state := .queued } s := by
  unfold requeueLaunch
  dsimp only
  refine if_pos ?_
  obtain h | h | h := h
  · simp [h]
  · simp [h]
  · simp [h]

theorem foldl_requeueLaunch (ls : List Launch) (s : State) :
    (ls.foldl requeueLaunch s).parts = s.parts ∧
      ∀ x ∈ (ls.foldl requeueLaunch s).bob.launch, x.state = .withdrawn → x ∈ s.bob.launch ∧ ∀ l ∈ ls, x.id ≠ l.id := by
  induction ls generalizing s with
  | nil => exact ⟨rfl, fun x hx _ => ⟨hx, by simp⟩⟩
  | cons l r ih =>
    obtain ⟨hp, hm⟩ := ih (requeueLaunch s l)
    obtain ⟨hp1, hm1⟩ := requeueLaunch_requeued s l
    refine ⟨hp.trans hp1, fun x hx hw => ?_⟩
    obtain ⟨hx1, hne⟩ := hm x hx hw
    obtain ⟨hxs, hl⟩ := hm1 x hx1 hw
    exact ⟨hxs, List.forall_mem_cons.mpr ⟨hl, hne⟩⟩

section
variable {c : Cmd} {s u : State} {p : Nat} (hp : p = cmdPart c) (ha : admits descPartThaw c s) (h0 : p ≠ 0)
  (hst : partState s p = .frozen)
  (hu : u = (s.bob.launch.filter fun l => l.part == p && l.state == .withdrawn).foldl requeueLaunch
    (setPart p .opened (begun c s)))
include hp ha h0 hst hu

theorem exec_partThaw : exec (.partThaw c) s = .next (ended s (partEvent p 0 2 0 (complete c .ok [] (tableOwner u) u))) := by
  subst hp hu
  exact partCheck_runs _ ha h0 hst

theorem exec_partThaw_opens : ∃ t, exec (.partThaw c) s = .next t ∧ partState t p = .opened ∧
    (∀ l ∈ t.bob.launch, l.part = p → l.state ≠ .withdrawn) ∧
    (∀ q, q ≠ p → partState t q = partState s q) ∧ t.parts.res = s.parts.res := by
  obtain ⟨hparts, hlaunch⟩ := foldl_requeueLaunch (s.bob.launch.filter fun l => l.part == p && l.state == .withdrawn)
    (setPart p .opened (begun c s))
  rw [← hu] at hparts hlaunch
  have htp : (ended s (partEvent p 0 2 0 (complete c .ok [] (tableOwner u) u))).parts = (setPart p .opened s).parts := by
    rw [ended_parts, (partEvent_keeps _ _ _ _ _).1, complete, completeRef_frame]
    exact hparts
  have htb : (ended s (partEvent p 0 2 0 (complete c .ok [] (tableOwner u) u))).bob = u.bob := by
    rw [ended_bob, (partEvent_keeps _ _ _ _ _).2.2, complete, completeRef_frame]
  refine ⟨_, exec_partThaw hp ha h0 hst hu, ?_, fun l hl hlp hw => ?_, fun q hq => ?_, ?_⟩
  · rw [partState, htp]
    exact partState_setPart s p .opened
  · rw [htb] at hl
    obtain ⟨hls, hne⟩ := hlaunch l hl hw
    exact hne l (List.mem_filter.mpr ⟨hls, by simp [hlp, hw]⟩) rfl
  · rw [partState, htp]
    exact partState_setPart_other s p .opened q hq
  · rw [htp]
    rfl

end

/-! ## PART_SAVE and PART_RESTORE (R406, R407) -/

section
variable {c : Cmd} {s : State} {p : Nat} {img : List Byte} (hp : p = cmdPart c) (ha : admits descPartSave c s) (h0 : p ≠ 0)
  (hst : partState s p = .frozen)
  (himg : img = buildImage p (param c 17 1 0 1 == 1) (sections s p (param c 17 1 0 1 == 1)))

/-- What PART_SAVE does once it has built its image. -/
def saveImage (c : Cmd) (u p : Nat) (img : List Byte) (s : State) : State :=
  if cmdLength c < img.length then complete c .bounds [bits img.length 0 32, bits img.length 32 32] u s
  else
    match if param c 17 1 0 1 == 1 then memoryBad s false (partGranules s p) else none with
    | some st => complete c st [] u s
    | none =>
      match bufWrite u c.part (param c 18 2 0 16) (fieldLE c.packet 24 8) img s with
      | (s, .ok) => partEvent p 0 3 0 (complete c .ok [bits img.length 0 32, bits img.length 32 32] u s)
      | (s, st) => complete c st [] u s

include hp ha h0 hst himg in
theorem exec_partSave : exec (.partSave c) s = ends s (saveImage c (tableOwner s) p img (begun c s)) := by
  subst hp himg
  exact partCheck_runs _ ha h0 hst

theorem saveImage_short (u : Nat) (v : State) (h : cmdLength c < img.length) :
    saveImage c u p img v = complete c .bounds [bits img.length 0 32, bits img.length 32 32] u v := if_pos h

theorem saveImage_badMemory (u : Nat) {v : State} {st : Status} (h : img.length ≤ cmdLength c) (hm : param c 17 1 0 1 = 1)
    (hb : memoryBad v false (partGranules v p) = some st) : saveImage c u p img v = complete c st [] u v := by
  rw [saveImage, if_neg (by omega), hm, hb]
  rfl

theorem saveImage_writes {u : Nat} {v w : State} {st : Status} (h : img.length ≤ cmdLength c)
    (hb : param c 17 1 0 1 = 1 → memoryBad v false (partGranules v p) = none)
    (hw : bufWrite u c.part (param c 18 2 0 16) (fieldLE c.packet 24 8) img v = (w, st)) :
    (st = .ok → saveImage c u p img v =
        partEvent p 0 3 0 (complete c .ok [bits img.length 0 32, bits img.length 32 32] u w)) ∧
      (st ≠ .ok → saveImage c u p img v = complete c st [] u w) := by
  have hm : (if param c 17 1 0 1 == 1 then memoryBad v false (partGranules v p) else none) = none := by
    by_cases h1 : param c 17 1 0 1 = 1
    · rw [h1]
      exact hb h1
    · rw [if_neg (by simpa using h1)]
  rw [saveImage, if_neg (by omega), hm, hw]
  refine ⟨fun hok => ?_, fun hok => ?_⟩
  · rw [hok]
  · dsimp only
    split
    · next heq => exact absurd (Prod.mk.inj heq).2 hok
    · next heq =>
      obtain ⟨rfl, rfl⟩ := Prod.mk.inj heq
      rfl

end

/-- What PART_RESTORE does with the image it has read. -/
def takeImage (c : Cmd) (u p : Nat) (img : List Byte) (v : State) : State :=
  match firstFail [(imgCrcBad img, Status.checkFail), (imgFieldsBad img, .opcode), (holdsObjects v p, .busy),
      (shortOf v p img, .bounds)] with
  | some st => complete c st [] u v
  | none =>
  match if secBytes img 14 = [] then none else memoryBad v true (imgGranules img) with
  | some st => complete c st [] u v
  | none => partEvent p 0 4 0 (complete c .ok [] u (restore p img v))

section
variable {c : Cmd} {s v : State} {p : Nat} {img : List Byte} (hp : p = cmdPart c) (ha : admits descPartRestore c s)
  (h0 : p ≠ 0) (hst : partState s p = .frozen)
  (hr : bufRead (tableOwner s) c.part (param c 18 2 0 16) (fieldLE c.packet 24 8) (cmdLength c) c.ext (begun c s) =
    (v, .ok, img))

include hp ha h0 hst hr in
theorem exec_partRestore : exec (.partRestore c) s = .next (ended s (takeImage c (tableOwner s) p img v)) := by
  subst hp
  refine (partCheck_runs _ ha h0 hst).trans ?_
  rw [hr]
  rfl

variable (u : Nat)

theorem takeImage_refuses {st : Status} (h : firstFail [(imgCrcBad img, Status.checkFail), (imgFieldsBad img, .opcode),
    (holdsObjects v p, .busy), (shortOf v p img, .bounds)] = some st) : takeImage c u p img v = complete c st [] u v := by
  rw [takeImage, h]

theorem takeImage_restores (h : firstFail [(imgCrcBad img, Status.checkFail), (imgFieldsBad img, .opcode),
    (holdsObjects v p, .busy), (shortOf v p img, .bounds)] = none)
    (hm : secBytes img 14 = [] ∨ memoryBad v true (imgGranules img) = none) :
    takeImage c u p img v = partEvent p 0 4 0 (complete c .ok [] u (restore p img v)) := by
  have hn : (if secBytes img 14 = [] then none else memoryBad v true (imgGranules img)) = none := by
    obtain hm | hm := hm
    · exact if_pos hm
    · rw [hm, ite_self]
  rw [takeImage, h, hn]

theorem takeImage_badMemory {st : Status} (h : firstFail [(imgCrcBad img, Status.checkFail), (imgFieldsBad img, .opcode),
    (holdsObjects v p, .busy), (shortOf v p img, .bounds)] = none) (hm : secBytes img 14 ≠ [])
    (hb : memoryBad v true (imgGranules img) = some st) : takeImage c u p img v = complete c st [] u v := by
  rw [takeImage, h, if_neg hm, hb]

end

/-! ## PART_CLEAR (R405) -/

/-- Bobbins, launches and the assignment stand; what completes is a command. -/
structure ClearsOn (s t : State) : Prop where
  bob : t.bob = s.bob
  res : t.parts.res = s.parts.res

theorem ClearsOn.refl (s : State) : ClearsOn s s := ⟨rfl, rfl⟩

theorem ClearsOn.trans {s t u : State} (h : ClearsOn s t) (k : ClearsOn t u) : ClearsOn s u :=
  ⟨k.bob.trans h.bob, k.res.trans h.res⟩

theorem clearCheck_clearsOn (p : Nat) (s : State) : ClearsOn s (clearCheck p s) := by
  unfold clearCheck
  split
  · exact .refl s
  · split
    · exact .refl s
    · rw [completeRef_frame]
      exact ⟨rfl, rfl⟩

theorem tableThen_clearsOn (a : TableThen) (s : State) : ClearsOn s (tableThen a s) := by
  cases a with
  | complete r =>
    rw [tableThen, completeRef_frame]
    exact ⟨rfl, rfl⟩
  | clear p => exact clearCheck_clearsOn p s
  | nothing => exact .refl s

theorem sendTable_clearsOn (granule : Bool) (first count value : Nat) (after : TableThen) (s : State) :
    ClearsOn s (sendTable granule first count value after s) := by
  simp only [sendTable]
  split
  · refine .trans ?_ (tableThen_clearsOn after _)
    exact ⟨rfl, rfl⟩
  · exact ⟨rfl, rfl⟩

theorem releaseDone_clearsOn (r : Release) (s : State) : ClearsOn s (releaseDone r s) := by
  refine .trans ?_ (sendTable_clearsOn _ _ _ _ _ _)
  exact ⟨rfl, rfl⟩

theorem startRelease_clearsOn (first count : Nat) (cmd : Option CmdRef) (clear : Option Nat) (s : State) :
    ClearsOn s (startRelease first count cmd clear s) := by
  simp only [startRelease]
  split
  · refine .trans (.trans ?_ (sendTable_clearsOn _ _ _ _ _ _)) (releaseDone_clearsOn _ _)
    exact ⟨rfl, rfl⟩
  · refine .trans ?_ (sendTable_clearsOn _ _ _ _ _ _)
    exact ⟨rfl, rfl⟩

/-- What goes once the partition's queues are gone: regions, communicators, launches, Bobbins, ports, counters, resources. -/
def clearHoldings (p : Nat) (s : State) : State :=
  clearCounters p (clearRes p (clearPorts p (clearBobbins p (clearReed p (clearHeddle p s)))))

/-- The partition's objects go and its resources return. -/
def clearObjects (p : Nat) (s : State) : State := clearHoldings p (clearQps p (clearQueues p (setPart p .clearing s)))

/-- The partition's granules are released and its contexts return. -/
def clearTables (p : Nat) (gs cs : List (Nat × Nat)) (s : State) : State :=
  gs.foldl (fun s r => startRelease r.1 r.2 none (some p) s) (cs.foldl (fun s r => sendTable false r.1 r.2 0 (.clear p) s) s)

theorem clearTables_clearsOn (p : Nat) (gs cs : List (Nat × Nat)) (s : State) : ClearsOn s (clearTables p gs cs s) := by
  refine .trans (t := cs.foldl (fun s r => sendTable false r.1 r.2 0 (.clear p) s) s) ?_ ?_
  · exact foldl_related .refl .trans (fun s r => sendTable_clearsOn _ _ _ _ _ s) cs s
  · exact foldl_related .refl .trans (fun s r => startRelease_clearsOn _ _ _ _ s) gs _

/-- The command that clears waits until the tables and the Bobbins are as it wants them. -/
def clearWaits (p : Nat) (cmd : CmdRef) (s : State) : State :=
  { s with parts := { s.parts with clears := s.parts.clears ++ [(p, cmd)] } }

theorem clearPart_eq (p : Nat) (cmd : CmdRef) (s : State) : clearPart p cmd s =
    clearCheck p (clearWaits p cmd (clearTables p (runs (partGranules s p)) (runs (partContexts s p)) (clearObjects p s))) := rfl

theorem clearPart_clearsOn (p : Nat) (cmd : CmdRef) (s : State) : ClearsOn (clearObjects p s) (clearPart p cmd s) := by
  have h := clearTables_clearsOn p (runs (partGranules s p)) (runs (partContexts s p)) (clearObjects p s)
  have k := clearCheck_clearsOn p
    (clearWaits p cmd (clearTables p (runs (partGranules s p)) (runs (partContexts s p)) (clearObjects p s)))
  exact ⟨k.bob.trans h.bob, k.res.trans h.res⟩

theorem resOf_clearObjects {p : Nat} (hp : p < 64) (k : Nat) (s : State) : resOf (clearObjects p s) k p = {} := by
  refine (tget_filter_fst ({} : ResRange) (fun i => i % 64 != p) _ (k * 64 + p)).trans (if_neg ?_)
  have hmod : (k * 64 + p) % 64 = p := by omega
  simp [hmod]

theorem clearObjects_launch (p : Nat) (s : State) : ∀ l ∈ (clearObjects p s).bob.launch, l.part = p → l.members ≠ [] := by
  intro l hl hp
  obtain ⟨-, hk⟩ := List.mem_filter.mp hl
  simpa [hp] using hk

/-- A partition whose commands own no launch: what waits on them is dropped, and they are neither completed nor counted. -/
theorem abandon_unlaunched {gone : CmdRef → Bool} (recvs : Bool) {s : State} (h : ∀ l ∈ s.bob.launch, gone l.cmd = false) :
    (abandon gone recvs s).jcq.live = s.jcq.live ∧ (abandon gone recvs s).jcq.done = s.jcq.done ∧
      (abandon gone recvs s).spl = abandonSpl gone s.spl ∧ (abandon gone recvs s).bob.bobbin = s.bob.bobbin ∧
      (abandon gone recvs s).parts.clears = s.parts.clears.filter (!gone ·.2) := by
  have hn : s.bob.launch.filter (fun (l : Launch) => gone l.cmd) = [] := by
    rw [List.filter_eq_nil_iff]
    intro l hl
    rw [h l hl]
    exact Bool.false_ne_true
  rw [abandon, hn]
  exact ⟨rfl, rfl, rfl, rfl, rfl⟩

/-- A state in which nothing of a clear is under way, and the partition's Bobbins can be given up at once. -/
structure Clearable (p : Nat) (s : State) : Prop where
  acks : ∀ a ∈ s.spl.ackWaits, a.after ≠ .clear p
  releases : ∀ r ∈ s.spl.releases, r.clear ≠ some p
  bobbins : ∀ b ∈ s.bob.bobbin, b.2.part = p → b.2.state = .idle ∨ b.2.state = .fenced ∨
    b.2.state = .unassigned ∧ b.2.leaving = false

theorem abandonSpl_acks {p : Nat} (gone : CmdRef → Bool) {x : SplState} (h : ∀ a ∈ x.ackWaits, a.after ≠ .clear p) :
    ∀ a ∈ (abandonSpl gone x).ackWaits, a.after ≠ .clear p := by
  intro a ha
  obtain ⟨b, hb, rfl⟩ := List.mem_map.mp ha
  split
  · split
    · simp
    · exact h b hb
  · exact h b hb

theorem abandonSpl_releases {p : Nat} (gone : CmdRef → Bool) {x : SplState} (h : ∀ r ∈ x.releases, r.clear ≠ some p) :
    ∀ r ∈ (abandonSpl gone x).releases, r.clear ≠ some p := by
  intro r hr
  obtain ⟨b, hb, rfl⟩ := List.mem_map.mp hr
  exact h b hb

/-- What the Heddle and the Spool hold for a queue pair goes. -/
def qpForgotten (s : State) (q : Nat) : State := forgetFaults q (freeAtomBlock q s)

theorem foldl_qpForgotten_keeps (qs : List Nat) (s : State) : (qs.foldl qpForgotten s).jcq = s.jcq ∧
    (qs.foldl qpForgotten s).spl = s.spl ∧ (qs.foldl qpForgotten s).bob = s.bob ∧ (qs.foldl qpForgotten s).parts = s.parts :=
  ⟨foldl_keeps qpForgotten (fun s => s.jcq) (fun _ _ => rfl) qs s, foldl_keeps qpForgotten (fun s => s.spl) (fun _ _ => rfl) qs s,
    foldl_keeps qpForgotten (fun s => s.bob) (fun _ _ => rfl) qs s, foldl_keeps qpForgotten (fun s => s.parts) (fun _ _ => rfl) qs s⟩

theorem clearQps_keeps (p : Nat) (s : State) : (clearQps p s).jcq = s.jcq ∧ (clearQps p s).spl = s.spl ∧
    (clearQps p s).bob = s.bob ∧ (clearQps p s).parts = s.parts :=
  foldl_qpForgotten_keeps ((s.sht.qp.map fun (e : Nat × Qp) => e.1).filter fun q => itemOwner s 1 q == p) s

theorem clearQueues_fields (p : Nat) (s : State) :
    (clearQueues p s).jcq.live = (abandon (fun r => r.part == p) true s).jcq.live.filter (fun l => !(l.ref.part == p)) ∧
      (clearQueues p s).spl = (abandon (fun r => r.part == p) true s).spl ∧
      (clearQueues p s).bob = (abandon (fun r => r.part == p) true s).bob ∧
      (clearQueues p s).parts = (abandon (fun r => r.part == p) true s).parts := ⟨rfl, rfl, rfl, rfl⟩

/-- What PART_CLEAR leaves of a Bobbin (R405). -/
def bobbinCleared (p : Nat) (e : Nat × Bobbin) : Nat × Bobbin :=
  if e.2.part != p || e.2.state == .unassigned then e
  else if e.2.state = .idle then (e.1, { e.2 with state := .unassigned, part := 0 })
  else (e.1, { e.2 with leaving := true })

theorem bobbinCleared_leaves {p : Nat} (hp : p ≠ 0) {e : Nat × Bobbin} (h : e.2.part = p → e.2.state = .idle ∨ e.2.state = .fenced ∨
    e.2.state = .unassigned ∧ e.2.leaving = false) :
    ((bobbinCleared p e).2.part == p && (bobbinCleared p e).2.leaving && (bobbinCleared p e).2.state != .fenced) = false := by
  by_cases hpart : e.2.part = p
  · obtain hi | hf | ⟨hu, hl⟩ := h hpart
    · simp [bobbinCleared, hpart, hi, hp.symm]
    · simp [bobbinCleared, hpart, hf]
    · simp [bobbinCleared, hpart, hu, hl]
  · simp [bobbinCleared, hpart]

section
variable {p : Nat} {cmd : CmdRef} {s : State}

theorem clearHoldings_fields (p : Nat) (s : State) : (clearHoldings p s).jcq = s.jcq ∧ (clearHoldings p s).spl = s.spl ∧
    (clearHoldings p s).bob.bobbin = (s.bob.bobbin.map (bobbinCleared p)).filter (fun e => e.2 != {}) ∧
    (clearHoldings p s).parts.clears = s.parts.clears := ⟨rfl, rfl, rfl, rfl⟩

/-- The state of the queues, tables and Bobbins once the partition's objects are gone. -/
theorem clearObjects_fields (hl : ∀ l ∈ s.bob.launch, l.cmd.part ≠ p) :
    (clearObjects p s).jcq.live = s.jcq.live.filter (fun l => !(l.ref.part == p)) ∧
      (clearObjects p s).spl = abandonSpl (fun r => r.part == p) s.spl ∧
      (clearObjects p s).bob.bobbin = (s.bob.bobbin.map (bobbinCleared p)).filter (fun e => e.2 != {}) ∧
      (clearObjects p s).parts.clears = s.parts.clears.filter (fun x => !(x.2.part == p)) := by
  obtain ⟨hlive, -, hspl, hbob, hclears⟩ := abandon_unlaunched (gone := fun r => r.part == p) true (s := setPart p .clearing s)
    (fun l hm => by simpa using hl l hm)
  obtain ⟨ajcq, aspl, abob, aparts⟩ := clearQueues_fields p (setPart p .clearing s)
  obtain ⟨qjcq, qspl, qbob, qparts⟩ := clearQps_keeps p (clearQueues p (setPart p .clearing s))
  obtain ⟨hj, hs, hb, hc⟩ := clearHoldings_fields p (clearQps p (clearQueues p (setPart p .clearing s)))
  refine ⟨?_, ?_, ?_, ?_⟩
  · rw [clearObjects, hj, qjcq, ajcq, hlive]
    rfl
  · rw [clearObjects, hs, qspl, aspl, hspl]
    rfl
  · rw [clearObjects, hb, qbob, abob, hbob]
    rfl
  · rw [clearObjects, hc, qparts, aparts, hclears]
    rfl

theorem clearCheck_ends {u : State} {x : Nat × CmdRef} (ha : ∀ a ∈ u.spl.ackWaits, a.after ≠ .clear p)
    (hr : ∀ r ∈ u.spl.releases, r.clear ≠ some p) (hb : bobbinsLeave p u = false)
    (hx : u.parts.clears.find? (fun x => x.1 == p) = some x) :
    clearCheck p u = completeRef x.2 .ok [] (ownerUnit u (.admin 0))
      { u with parts := { u.parts with
        clears := u.parts.clears.filter fun y => y.1 != p
        state := tset .opened u.parts.state p .opened } } := by
  have ha' : (u.spl.ackWaits.any fun a => a.after == .clear p) = false := by simpa using ha
  have hr' : (u.spl.releases.any fun r => r.clear == some p) = false := by simpa using hr
  unfold clearCheck
  rw [ha', hr', hb, hx]
  rfl

/-- A clear with nothing to wait for completes, and the partition is OPEN. -/
theorem clearPart_opens (h : Clearable p s) (hp : p ≠ 0) (hg : partGranules s p = []) (hc : partContexts s p = [])
    (hn : ∀ x ∈ s.parts.clears, x.1 ≠ p) (hl : ∀ l ∈ s.bob.launch, l.cmd.part ≠ p) (hcmd : cmd.part ≠ p)
    (hlive : ∃ l ∈ s.jcq.live, l.ref = cmd) :
    partState (clearPart p cmd s) p = .opened ∧
      ∃ e, (clearPart p cmd s).jcq.done.getLast? = some e ∧ e.ref = cmd ∧ e.status = .ok := by
  obtain ⟨flive, fspl, fbob, fclears⟩ := clearObjects_fields hl
  have hb : bobbinsLeave p (clearWaits p cmd (clearObjects p s)) = false := by
    have hany : (clearObjects p s).bob.bobbin.any (fun e => e.2.part == p && e.2.leaving && e.2.state != .fenced) = false := by
      rw [fbob, List.any_eq_false]
      intro e he
      obtain ⟨b, hb, rfl⟩ := List.mem_map.mp (List.mem_filter.mp he).1
      rw [bobbinCleared_leaves hp (h.bobbins b hb)]
      exact Bool.false_ne_true
    exact hany
  have hx : (clearWaits p cmd (clearObjects p s)).parts.clears.find? (fun x => x.1 == p) = some (p, cmd) := by
    have hnone : (s.parts.clears.filter fun x => !(x.2.part == p)).find? (fun x => x.1 == p) = none := by
      rw [List.find?_eq_none]
      intro x hx
      simpa using hn x (List.mem_filter.mp hx).1
    rw [clearWaits, fclears, List.find?_append, hnone]
    simp
  have he : clearPart p cmd s = clearCheck p (clearWaits p cmd (clearObjects p s)) := by
    rw [clearPart_eq, hg, hc]
    rfl
  have hack : ∀ a ∈ (clearWaits p cmd (clearObjects p s)).spl.ackWaits, a.after ≠ .clear p := by
    rw [show (clearWaits p cmd (clearObjects p s)).spl = _ from fspl]
    exact abandonSpl_acks _ h.acks
  have hrel : ∀ r ∈ (clearWaits p cmd (clearObjects p s)).spl.releases, r.clear ≠ some p := by
    rw [show (clearWaits p cmd (clearObjects p s)).spl = _ from fspl]
    exact abandonSpl_releases _ h.releases
  rw [he, clearCheck_ends hack hrel hb hx]
  refine ⟨?_, ?_⟩
  · rw [completeRef_frame]
    exact tget_tset_same PartState.opened _ p .opened
  · obtain ⟨l, hm, hr⟩ := hlive
    obtain ⟨e, hd, href, hok, -⟩ := completeRef_last (r := cmd)
      (s := { clearWaits p cmd (clearObjects p s) with parts := { (clearWaits p cmd (clearObjects p s)).parts with
        clears := (clearWaits p cmd (clearObjects p s)).parts.clears.filter fun y => y.1 != p
        state := tset .opened (clearWaits p cmd (clearObjects p s)).parts.state p .opened } }) .ok []
      (ownerUnit (clearWaits p cmd (clearObjects p s)) (.admin 0))
      ⟨l, by
        show l ∈ (clearObjects p s).jcq.live
        rw [flive]
        exact List.mem_filter.mpr ⟨hm, by simpa [hr] using hcmd⟩, hr⟩
    exact ⟨e, by rw [hd, List.getLast?_concat], href, hok⟩

end

theorem cmdPart_lt (c : Cmd) : cmdPart c < 64 := param_lt c 16 1 0 6

/-- A command of the device's own set is partition 0's. -/
theorem admits_infra {d : OpDesc} {c : Cmd} {s : State} (ha : admits d c s) (hi : d.infra = true) : c.part = 0 := by
  have h := (firstFail_none _).mp ha.2
  simp only [List.forall_mem_cons, hi, Bool.true_and, bne_eq_false_iff_eq] at h
  exact h.2.2.1

section
variable {c : Cmd} {s : State} {p : Nat} (hp : p = cmdPart c) (ha : admits descPartClear c s) (h0 : p ≠ 0)
  (hst : partState s p = .frozen)
include hp ha h0 hst

theorem exec_partClear : exec (.partClear c) s = .next (ended s (clearPart p (cmdRef c) (begun c s))) := by
  subst hp
  exact partCheck_runs _ ha h0 hst

theorem exec_partClear_clears : ∃ t, exec (.partClear c) s = .next t ∧ (∀ k, resOf t k p = {}) ∧
    (∀ l ∈ t.bob.launch, l.part = p → l.members ≠ []) ∧
    (partGranules s p = [] → partContexts s p = [] → (∀ x ∈ s.parts.clears, x.1 ≠ p) →
      (∀ a ∈ s.spl.ackWaits, a.after ≠ .clear p) → (∀ r ∈ s.spl.releases, r.clear ≠ some p) →
      (∀ l ∈ s.bob.launch, l.part ≠ p ∧ l.cmd.part ≠ p) → (∃ l ∈ s.jcq.live, l.ref = cmdRef c) →
      (∀ b ∈ s.bob.bobbin, b.2.part = p → b.2.state = .idle ∨ b.2.state = .fenced ∨
        b.2.state = .unassigned ∧ b.2.leaving = false) →
      partState t p = .opened ∧ ∃ e, t.jcq.done.getLast? = some e ∧ e.ref = cmdRef c ∧ e.status = .ok) := by
  obtain ⟨hbob, hres⟩ := clearPart_clearsOn p (cmdRef c) (begun c s)
  refine ⟨_, exec_partClear hp ha h0 hst, fun k => ?_, ?_, fun hg hc hn hack hrel hl hlive hb => ?_⟩
  · rw [resOf, ended_parts, hres]
    exact resOf_clearObjects (hp ▸ cmdPart_lt c) k (begun c s)
  · rw [ended_bob, hbob]
    exact clearObjects_launch p (begun c s)
  · obtain ⟨ho, he⟩ := clearPart_opens (cmd := cmdRef c) (s := begun c s) ⟨hack, hrel, hb⟩ h0 hg hc hn (fun l hm => (hl l hm).2)
      (fun hpart => h0 ((show c.part = p from hpart).symm.trans (admits_infra ha rfl))) hlive
    refine ⟨?_, ?_⟩
    · rw [partState, ended_parts]
      exact ho
    · rw [ended_done]
      exact he

end

/-- Settles O55: each command of a partition does what its rule says once its first checks pass, and completes with their status
otherwise. -/
theorem partitionCommandsTakeEffect : Obligations.PartitionCommandsTakeEffect := by
  unfold Obligations.PartitionCommandsTakeEffect
  refine ⟨?_, fun a s => ?_, frozenPartitionCommands, ?_, ?_, frozen_spec, ?_, fun l s => requeueLaunch_queues, ?_, ?_, ?_⟩
  case refine_1 =>
    intro c s a h ha rows
    subst h
    exact ⟨fun st hf hs => runCmd_refuses _ _ hs ha hf, exec_resSet ha⟩
  case refine_2 =>
    obtain ⟨hstate, hjcq, hset, hres⟩ := moveRes_spec a s
    exact ⟨hstate, hjcq, hset, hres, fun h hk => aport_moveRes s h hk, fun h hk => bobbinOf_moveRes s h hk⟩
  case refine_3 =>
    intro c s u p f hp ha h0 ht hst hf hu
    exact ⟨exec_partFreeze_ends hp ha h0 ht hst hf hu, exec_partFreeze_idle hp ha h0 ht hst hf hu,
      exec_partFreeze_waits hp ha h0 ht hst hf hu⟩
  case refine_4 => exact fun p n s v f hf => ⟨freezeTimeout_early hf, freezeTimeout_aborts hf⟩
  case refine_5 =>
    intro c s u p hp ha h0 hst hu
    exact ⟨exec_partThaw hp ha h0 hst hu, exec_partThaw_opens hp ha h0 hst hu⟩
  case refine_6 =>
    intro c s p img hp ha h0 hst himg
    rw [exec_partSave hp ha h0 hst himg]
    refine ⟨fun h hs => ?_, fun h => ⟨fun st hm hb => ?_, fun v st hb hw => ?_⟩⟩
    · rw [saveImage_short _ _ h]
      exact ends_undisturbed hs ((begun_undisturbed c s).trans (complete_undisturbed _ _ _ _ _))
    · rw [saveImage_badMemory (v := begun c s) _ h hm hb]
      rfl
    · obtain ⟨hok, hno⟩ := saveImage_writes (v := begun c s) (p := p) h hb hw
      exact ⟨fun hs => congrArg (ends s) (hok hs), fun hs => congrArg (ends s) (hno hs)⟩
  case refine_7 =>
    intro c s v p img hp ha h0 hst hr rows
    rw [exec_partRestore hp ha h0 hst hr]
    refine ⟨fun st h => ?_, fun h hm => ?_, fun st h hm hb => ?_⟩
    · rw [takeImage_refuses _ h]
    · rw [takeImage_restores _ h hm]
    · rw [takeImage_badMemory _ h hm hb]
  case refine_8 =>
    intro c s p hp ha h0 hst
    exact ⟨exec_partClear hp ha h0 hst, exec_partClear_clears hp ha h0 hst⟩

end Sys2Proof.Machine
end

section
/-! PROOFS. Accelerator links: flits, requests, signals and responses of the accelerator, training, loss of the link and the
port commands (R345 to R357). -/

namespace Sys2Proof.Machine

/-! ## Ports with nothing held -/

/-- No request of an accelerator is out and no signal is held, on any port. -/
def NothingHeld (s : State) : Prop := ∀ j, (aport s j).accReqs = [] ∧ (aport s j).heldSignals = []

theorem setAport_setAport (k : Nat) (a b : APort) (s : State) : setAport k b (setAport k a s) = setAport k b s := by
  simp only [setAport, tset_tset]

@[simp] theorem aport_modAport (k : Nat) (f : APort → APort) (s : State) : aport (modAport k f s) k = f (aport s k) :=
  aport_setAport s k _

theorem aport_modAport_other (k : Nat) (f : APort → APort) (s : State) {j : Nat} (h : j ≠ k) :
    aport (modAport k f s) j = aport s j := aport_setAport_other s k _ j h

theorem aport_ended (s t : State) (k : Nat) : aport (ended s t) k = aport t k := by
  rw [aport, ended_aport, aport]

theorem NothingHeld.modAport {s : State} (h : NothingHeld s) (k : Nat) (f : APort → APort)
    (hf : (f (aport s k)).accReqs = [] ∧ (f (aport s k)).heldSignals = []) : NothingHeld (modAport k f s) := by
  intro j
  by_cases hj : j = k
  · subst hj
    rw [aport_modAport]
    exact hf
  · rw [aport_modAport_other k f s hj]
    exact h j

theorem NothingHeld.of_aport {s t : State} (h : NothingHeld s) (ht : t.lnk.aport = s.lnk.aport) : NothingHeld t := by
  intro j
  rw [aport, ht]
  exact h j

theorem releaseAll_idle {s : State} (h : NothingHeld s) (k : Nat) : releaseAll k s = s := by
  obtain ⟨hr, hs⟩ := h k
  rw [releaseAll, hr, hs]
  rfl

theorem foldl_releaseAll_idle {s : State} (h : NothingHeld s) (ks : List Nat) : ks.foldl (fun s k => releaseAll k s) s = s := by
  induction ks with
  | nil => rfl
  | cons k r ih => rw [List.foldl_cons, releaseAll_idle h, ih]

/-- Where nothing is held, a step that may have lost a link ends as the others do. -/
theorem portEnds_held {s t : State} (h : NothingHeld t) : portEnds s t = ends s (reedNotice t) := by
  rw [portEnds, foldl_releaseAll_idle h]

theorem portEnds_idle {s t : State} (h : NothingHeld t) (hd : t.sht.pushDone = []) : portEnds s t = ends s t := by
  rw [portEnds_held h, reedNotice_quiet hd]

/-! ## Flits (R345 to R347) -/

section
variable {k : Nat} {bs : List Byte} {s : State} (hh : NothingHeld s) (hd : s.sht.pushDone = []) (hk : k < 8)
  (hup : (aport s k).state = .up) (hlen : bs.length = 272)

theorem bits_sequence (v : Nat) : bits v 0 12 = v % 4096 := by
  rw [bits, Nat.pow_zero, Nat.div_one]
  rfl

include hk hup hlen in
theorem receiveFlit_damaged (hc : fieldLE bs 264 8 ≠ crc64 (bs.take 264)) :
    receiveFlit k bs s = badFlit k (bits (fieldLE bs 0 8) 0 12) s := by
  rw [receiveFlit, if_neg (by simp [hup, hlen, hk])]
  exact if_pos hc

include hk hup hlen in
theorem receiveFlit_intact (hc : fieldLE bs 264 8 = crc64 (bs.take 264)) :
    receiveFlit k bs s = if bits (fieldLE bs 0 8) 0 12 ≠ ((aport s k).rxSeq + 1) % 4096 then s
      else goodFlit k (fieldLE bs 0 8) (slice bs 8 256) s := by
  rw [receiveFlit, if_neg (by simp [hup, hlen, hk])]
  exact if_neg (not_not.mpr hc)

/-- A port's replay buffer with one flit more. -/
def flitKept (kind : Nat) (payload : List Byte) (a : APort) : List TxFlit :=
  a.replay ++ [{ seq := a.txSeq, kind := kind, payload := payload }]

/-- The port once it has sent a flit of its own. -/
def flitSent (kind : Nat) (payload : List Byte) (a : APort) : APort :=
  { a with txSeq := (a.txSeq + 1) % 4096, owedCredit := subCredit a.owedCredit (capCredit a.owedCredit)
           replay := (flitKept kind payload a).drop ((flitKept kind payload a).length - 1024) }

theorem sendFlit_lnk (k kind : Nat) (nak : Bool) (payload : List Byte) (s : State) :
    (sendFlit k kind nak payload s).lnk = (modAport k (flitSent kind payload) s).lnk ∧
      (sendFlit k kind nak payload s).sht = s.sht ∧ (sendFlit k kind nak payload s).red = s.red := by
  obtain ⟨c, hc⟩ := bump_cnt (accPort k) 2 1 (setAport k (flitSent kind payload (aport s k)) s)
  unfold sendFlit
  dsimp only [emit]
  refine ⟨(congrArg (·.lnk) hc).trans rfl, (congrArg (·.sht) hc).trans rfl, (congrArg (·.red) hc).trans rfl⟩

theorem aport_sendFlit (k kind : Nat) (nak : Bool) (payload : List Byte) (s : State) (j : Nat) :
    aport (sendFlit k kind nak payload s) j = aport (modAport k (flitSent kind payload) s) j := by
  rw [aport, (sendFlit_lnk k kind nak payload s).1, aport]

theorem ended_accSeen (s t : State) : (ended s t).lnk.accCrcSeen = t.lnk.accCrcSeen ∧
    (ended s t).lnk.accDownSeen = t.lnk.accDownSeen :=
  ⟨congrArg (·.lnk.accCrcSeen) (ended_spec s t), congrArg (·.lnk.accDownSeen) (ended_spec s t)⟩

/-- The port that has noted a damaged flit. -/
def crcNoted (a : APort) : APort := { a with nakSent := true, crcErr := satInc a.crcErr }

/-- A damaged flit is noted. -/
def crcSeen (k : Nat) (s : State) : State :=
  modAport k crcNoted { s with lnk := { s.lnk with accCrcSeen := true } }

theorem badFlit_first {seq : Nat} (hn : (aport s k).nakSent = false) : badFlit k seq s = sendFlit k 0 true [] (crcSeen k s) := by
  rw [badFlit, hn]
  rfl

include hh hd hk hup hlen in
/-- The first damaged flit is counted and answered with a NAK. -/
theorem exec_flitReceive_damaged (hc : fieldLE bs 264 8 ≠ crc64 (bs.take 264)) (hn : (aport s k).nakSent = false) :
    ∃ t, exec (.flitReceive k bs) s = .next t ∧ (aport t k).nakSent = true ∧
      (aport t k).crcErr = satInc (aport s k).crcErr ∧ t.lnk.accCrcSeen = true ∧ (aport t k).rxSeq = (aport s k).rxSeq := by
  have hseen : NothingHeld (crcSeen k s) :=
    NothingHeld.modAport (hh.of_aport (t := { s with lnk := { s.lnk with accCrcSeen := true } }) rfl) k _ (hh k)
  have hsent : NothingHeld (sendFlit k 0 true [] (crcSeen k s)) :=
    (hseen.modAport k (flitSent 0 []) (hseen k)).of_aport (congrArg (·.aport) (sendFlit_lnk k 0 true [] (crcSeen k s)).1)
  have hdone : (sendFlit k 0 true [] (crcSeen k s)).sht.pushDone = [] :=
    (congrArg (·.pushDone) (sendFlit_lnk k 0 true [] (crcSeen k s)).2.1).trans hd
  have ha : aport (sendFlit k 0 true [] (crcSeen k s)) k = flitSent 0 [] (crcNoted (aport s k)) := by
    rw [aport_sendFlit, aport_modAport, crcSeen, aport_modAport]
    rfl
  refine ⟨ended s (sendFlit k 0 true [] (crcSeen k s)), ?_, ?_, ?_, ?_, ?_⟩
  · have he : receiveFlit k bs s = sendFlit k 0 true [] (crcSeen k s) :=
      (receiveFlit_damaged hk hup hlen hc).trans (badFlit_first hn)
    exact (congrArg (portEnds s) he).trans (portEnds_idle hsent hdone)
  · rw [aport_ended, ha]
    rfl
  · rw [aport_ended, ha]
    rfl
  · rw [(ended_accSeen s _).1, (sendFlit_lnk k 0 true [] (crcSeen k s)).1]
    rfl
  · rw [aport_ended, ha]
    rfl

include hh hd hk hup hlen in
/-- A flit out of sequence changes nothing. -/
theorem exec_flitReceive_outOfSequence (hs : settled s) (hc : fieldLE bs 264 8 = crc64 (bs.take 264))
    (hq : fieldLE bs 0 8 % 4096 ≠ ((aport s k).rxSeq + 1) % 4096) : exec (.flitReceive k bs) s = .next s := by
  have he : receiveFlit k bs s = s := by
    rw [receiveFlit_intact hk hup hlen hc, bits_sequence]
    exact if_pos hq
  exact (congrArg (portEnds s) he).trans ((portEnds_idle hh hd).trans (ends_undisturbed hs (.refl s)))

/-- The port that has taken a flit in sequence. -/
def flitTaken (ctl : Nat) (a : APort) : APort :=
  addCredit ctl (takeAck (bits ctl 12 12) { a with rxSeq := bits ctl 0 12, nakSent := false })

theorem takeAck_keeps (ack : Nat) (a : APort) : (takeAck ack a).accReqs = a.accReqs ∧ (takeAck ack a).heldSignals = a.heldSignals ∧
    (takeAck ack a).txWait = a.txWait ∧ (takeAck ack a).rxSeq = a.rxSeq ∧ (takeAck ack a).nakSent = a.nakSent ∧
    (takeAck ack a).txCredit = a.txCredit := by
  unfold takeAck
  split <;> exact ⟨rfl, rfl, rfl, rfl, rfl, rfl⟩

theorem flitTaken_keeps (ctl : Nat) (a : APort) : (flitTaken ctl a).accReqs = a.accReqs ∧
    (flitTaken ctl a).heldSignals = a.heldSignals ∧ (flitTaken ctl a).txWait = a.txWait := by
  obtain ⟨hr, hs, ht, -⟩ := takeAck_keeps (bits ctl 12 12) { a with rxSeq := bits ctl 0 12, nakSent := false }
  exact ⟨hr, hs, ht⟩

theorem flitTaken_takes (ctl : Nat) (a : APort) : (flitTaken ctl a).rxSeq = bits ctl 0 12 ∧ (flitTaken ctl a).nakSent = false ∧
    (flitTaken ctl a).txCredit = { hdr := a.txCredit.hdr + bits ctl 28 8, rsp := a.txCredit.rsp + bits ctl 36 8
                                   data := a.txCredit.data + bits ctl 44 12 } := by
  obtain ⟨-, -, -, hq, hn, hc⟩ := takeAck_keeps (bits ctl 12 12) { a with rxSeq := bits ctl 0 12, nakSent := false }
  refine ⟨hq, hn, ?_⟩
  rw [flitTaken, addCredit, hc]

theorem drainTch_empty (h : (aport s k).txWait = []) : drainTch k s = s := by
  rw [drainTch, h]
  rfl

/-- An idle flit: no NAK and no payload. -/
theorem goodFlit_idle {ctl : Nat} {payload : List Byte} (hkind : bits ctl 24 4 = 0) (ht : (aport s k).txWait = []) :
    goodFlit k ctl payload s = modAport k (flitTaken ctl) (bump (accPort k) 3 1 s) := by
  have hnak : bit ctl 24 = false := by
    rw [bits] at hkind
    rw [bit, beq_eq_false_iff_ne]
    omega
  have hk2 : bits ctl 25 2 = 0 := by
    rw [bits] at hkind ⊢
    omega
  have hb : aport (bump (accPort k) 3 1 s) k = aport s k := by
    rw [bump_frame]
    rfl
  unfold goodFlit
  dsimp only
  rw [hnak, hk2]
  have hdrain : drainTch k (modAport k (flitTaken ctl) (bump (accPort k) 3 1 s)) =
      modAport k (flitTaken ctl) (bump (accPort k) 3 1 s) := by
    refine drainTch_empty ?_
    rw [aport_modAport, (flitTaken_keeps ctl _).2.2, hb, ht]
  refine Eq.trans (if_neg ?_) hdrain
  omega

include hh hd hk hup hlen in
/-- An idle flit in sequence moves the receive number on and adds its credits. -/
theorem exec_flitReceive_idle (hc : fieldLE bs 264 8 = crc64 (bs.take 264))
    (hq : fieldLE bs 0 8 % 4096 = ((aport s k).rxSeq + 1) % 4096) (hkind : bits (fieldLE bs 0 8) 24 4 = 0)
    (ht : (aport s k).txWait = []) : ∃ t, exec (.flitReceive k bs) s = .next t ∧
      (aport t k).rxSeq = fieldLE bs 0 8 % 4096 ∧ (aport t k).nakSent = false ∧
      (aport t k).txCredit = { hdr := (aport s k).txCredit.hdr + bits (fieldLE bs 0 8) 28 8,
                               rsp := (aport s k).txCredit.rsp + bits (fieldLE bs 0 8) 36 8,
                               data := (aport s k).txCredit.data + bits (fieldLE bs 0 8) 44 12 } := by
  have he : receiveFlit k bs s = modAport k (flitTaken (fieldLE bs 0 8)) (bump (accPort k) 3 1 s) := by
    rw [receiveFlit_intact hk hup hlen hc, bits_sequence, if_neg (not_not.mpr hq), goodFlit_idle hkind ht]
  have hb : (bump (accPort k) 3 1 s).lnk = s.lnk ∧ (bump (accPort k) 3 1 s).sht = s.sht := by
    rw [bump_frame]
    exact ⟨rfl, rfl⟩
  have hbumped : NothingHeld (bump (accPort k) 3 1 s) := hh.of_aport (congrArg (·.aport) hb.1)
  have ha : aport (bump (accPort k) 3 1 s) k = aport s k := by
    rw [aport, hb.1, aport]
  obtain ⟨hr, hsig, -⟩ := flitTaken_keeps (fieldLE bs 0 8) (aport (bump (accPort k) 3 1 s) k)
  have hheld := hbumped.modAport k (flitTaken (fieldLE bs 0 8)) ⟨hr.trans (hbumped k).1, hsig.trans (hbumped k).2⟩
  obtain ⟨hseq, hnak, hcred⟩ := flitTaken_takes (fieldLE bs 0 8) (aport s k)
  have hat : aport (ended s (modAport k (flitTaken (fieldLE bs 0 8)) (bump (accPort k) 3 1 s))) k =
      flitTaken (fieldLE bs 0 8) (aport s k) := by
    rw [aport_ended, aport_modAport, ha]
  have hend := portEnds_idle (s := s) hheld ((congrArg (·.pushDone) hb.2).trans hd)
  refine ⟨_, (congrArg (portEnds s) he).trans hend, ?_, ?_, ?_⟩
  · rw [hat, hseq, bits_sequence]
  · rw [hat, hnak]
  · rw [hat, hcred]

end

/-! ## Requests of the accelerator (R348 to R351) -/

/-- The port that has taken a transaction: its credits are owed back, and it has left the receiver. -/
def tchTaken (k : Nat) (hdr data : List Byte) (s : State) : State :=
  modAport k (fun a => owe hdr data { a with inbox := a.inbox.erase (hdr, data) }) s

section
variable {k : Nat} {hdr data : List Byte} {s : State} (hk : k < 8) (hup : (aport s k).state = .up)

include hk hup in
theorem takeTch_runs {typ : Nat} (ht : (readHdr hdr).typ = typ) (run : State → State) :
    takeTch k typ hdr data s run = run (tchTaken k hdr data s) := by
  refine if_neg ?_
  simp [hup, hk, ht]

theorem aport_tchTaken : (aport (tchTaken k hdr data s) k).accReqs = (aport s k).accReqs ∧
    (aport (tchTaken k hdr data s) k).part = (aport s k).part ∧
    (aport (tchTaken k hdr data s) k).devReqs = (aport s k).devReqs := by
  rw [tchTaken, aport_modAport]
  exact ⟨rfl, rfl, rfl⟩

variable {u : State}

theorem takeRequestTch_denied {st : Status} (h : tchCheck u k hdr = some st) : takeRequestTch k hdr data u =
    respond k (readHdr hdr).tag st []
      (modAport k (fun a => { a with reqDeny := satInc a.reqDeny }) { u with lnk := { u.lnk with accDenySeen := true } }) := by
  rw [takeRequestTch, h]
  rfl

theorem takeRequestTch_stopped (h : tchCheck u k hdr = none) (hp : portStopped u k = true) :
    takeRequestTch k hdr data u = respond k (readHdr hdr).tag .retryLater [] u := by
  rw [takeRequestTch, h]
  exact if_pos hp

theorem takeRequestTch_badData (h : tchCheck u k hdr = none) (hp : portStopped u k = false) (hd : data ≠ [])
    (hc : dcrcOk hdr data = false) : takeRequestTch k hdr data u = respond k (readHdr hdr).tag .checkFail [] u := by
  rw [takeRequestTch, h]
  dsimp only
  rw [if_neg (by simp [hp]), if_pos ⟨hd, by simp [hc]⟩]

/-- A request whose data is good waits behind earlier ones, where it is ordered, or is forwarded. -/
theorem takeRequestTch_good (h : tchCheck u k hdr = none) (hp : portStopped u k = false)
    (hd : data ≠ [] → dcrcOk hdr data = true) : takeRequestTch k hdr data u =
      if (readHdr hdr).ordered && !(aport u k).accReqs.isEmpty then addAccReq k (readHdr hdr) hdr data true u
      else forwardTch k (readHdr hdr) data (if tracked (readHdr hdr) && target (readHdr hdr).addr != 0
        then addAccReq k (readHdr hdr) hdr data false u else u) := by
  have hn : ¬(data ≠ [] ∧ (!dcrcOk hdr data) = true) := by
    rintro ⟨hne, hbad⟩
    rw [hd hne] at hbad
    cases hbad
  rw [takeRequestTch, h]
  dsimp only
  rw [if_neg (by simp [hp]), if_neg hn]

theorem takeRequestTch_held (h : tchCheck u k hdr = none) (hp : portStopped u k = false)
    (hd : data ≠ [] → dcrcOk hdr data = true) (ho : (readHdr hdr).ordered = true) (hr : (aport u k).accReqs ≠ []) :
    takeRequestTch k hdr data u = addAccReq k (readHdr hdr) hdr data true u := by
  rw [takeRequestTch_good h hp hd, if_pos (by simp [ho, hr])]

theorem takeRequestTch_forwards (h : tchCheck u k hdr = none) (hp : portStopped u k = false)
    (hd : data ≠ [] → dcrcOk hdr data = true) (ho : (readHdr hdr).ordered = true → (aport u k).accReqs = []) :
    takeRequestTch k hdr data u = forwardTch k (readHdr hdr) data
      (if tracked (readHdr hdr) && target (readHdr hdr).addr != 0 then addAccReq k (readHdr hdr) hdr data false u else u) := by
  rw [takeRequestTch_good h hp hd, if_neg]
  rintro hc
  obtain ⟨h1, h2⟩ := Bool.and_eq_true_iff.mp hc
  rw [ho h1] at h2
  cases h2

/-- The port no longer waits for a request that has been answered. -/
def accAnswered (k tag : Nat) (s : State) : State :=
  modAport k (fun a => { a with accReqs := a.accReqs.filter (fun r => r.tag != tag) }) s

theorem forwardTch_spool {h : TchHdr} {v : State} {st : Status} {bs : List Byte} (ht : target h.addr = 0)
    (hv : accAtSpool k h data u = (v, st, bs)) : forwardTch k h data u = respond k h.tag st bs (accAnswered k h.tag v) := by
  rw [forwardTch, if_pos ht, hv]
  rfl

theorem forwardTch_spec (k : Nat) (h : TchHdr) (data : List Byte) (s : State) (ht : target h.addr ≠ 0) :
    (islandStalled s (8 + accOf h.addr) = false → forwardTch k h data s =
      accIssue (accOf h.addr) h data false (some (k, h.tag)) (bump (accPort k) 5 1 s)) ∧
    (islandStalled s (8 + accOf h.addr) = true → forwardTch k h data s = respond k h.tag .crossStall []
      (modAport k (fun a => { a with accReqs := a.accReqs.filter (fun r => r.tag != h.tag) }) s)) := by
  rw [forwardTch, if_neg ht]
  refine ⟨fun hn => ?_, fun hs => ?_⟩
  · rw [if_neg (by simp [hn])]
  · rw [if_pos hs]

end

/-- A request that names a port is remembered unless it reads. -/
theorem tracked_iff {h : TchHdr} {typ : Nat} (ht : h.typ = typ) (htyp : typ = 1 ∨ typ = 2 ∨ typ = 3) (hz : target h.addr ≠ 0)
    {u v : State} : (if tracked h && target h.addr != 0 then v else u) = if typ = 1 then u else v := by
  obtain rfl | rfl | rfl := htyp
  · rw [if_neg (by simp [tracked, ht]), if_pos rfl]
  · rw [if_pos (by simp [tracked, ht, hz]), if_neg (by omega)]
  · rw [if_pos (by simp [tracked, ht, hz]), if_neg (by omega)]

/-- What a READ, WRITE or ATOMIC does, by the row of R349 it fails, the state of its partition and its target. -/
theorem request_spec {k typ : Nat} {hdr data : List Byte} {s : State} {i : Instr}
    (he : exec i s = .next (ended s (takeRequestTch k hdr data (tchTaken k hdr data s)))) (ht : (readHdr hdr).typ = typ)
    (htyp : typ = 1 ∨ typ = 2 ∨ typ = 3) :
    (∀ st, tchCheck (tchTaken k hdr data s) k hdr = some st → exec i s = .next (ended s (respond k (readHdr hdr).tag st []
      (modAport k (fun a => { a with reqDeny := satInc a.reqDeny })
        { tchTaken k hdr data s with lnk := { (tchTaken k hdr data s).lnk with accDenySeen := true } })))) ∧
    (tchCheck (tchTaken k hdr data s) k hdr = none →
      (portStopped (tchTaken k hdr data s) k = true →
        exec i s = .next (ended s (respond k (readHdr hdr).tag .retryLater [] (tchTaken k hdr data s)))) ∧
      (portStopped (tchTaken k hdr data s) k = false →
        (data ≠ [] → dcrcOk hdr data = false →
          exec i s = .next (ended s (respond k (readHdr hdr).tag .checkFail [] (tchTaken k hdr data s)))) ∧
        ((data ≠ [] → dcrcOk hdr data = true) →
          ((readHdr hdr).ordered = true → (aport s k).accReqs ≠ [] →
            exec i s = .next (ended s (addAccReq k (readHdr hdr) hdr data true (tchTaken k hdr data s)))) ∧
          (((readHdr hdr).ordered = true → (aport s k).accReqs = []) →
            (target (readHdr hdr).addr = 0 → ∀ v st bs,
              accAtSpool k (readHdr hdr) data (tchTaken k hdr data s) = (v, st, bs) →
              exec i s = .next (ended s (respond k (readHdr hdr).tag st bs (accAnswered k (readHdr hdr).tag v)))) ∧
            (target (readHdr hdr).addr ≠ 0 → exec i s = .next (ended s (forwardTch k (readHdr hdr) data
              (if typ = 1 then tchTaken k hdr data s
                else addAccReq k (readHdr hdr) hdr data false (tchTaken k hdr data s))))))))) := by
  have hreq : (aport (tchTaken k hdr data s) k).accReqs = (aport s k).accReqs := aport_tchTaken.1
  rw [he]
  refine ⟨fun st h => ?_, fun h => ⟨fun hp => ?_, fun hp => ⟨fun hd hc => ?_, fun hd => ⟨fun ho hr => ?_, fun ho =>
    ⟨fun hz v st bs hv => ?_, fun hz => ?_⟩⟩⟩⟩⟩
  · rw [takeRequestTch_denied h]
  · rw [takeRequestTch_stopped h hp]
  · rw [takeRequestTch_badData h hp hd hc]
  · rw [takeRequestTch_held h hp hd ho (by rw [hreq]; exact hr)]
  · rw [takeRequestTch_forwards h hp hd (by rw [hreq]; exact ho), hz, if_neg (by simp), forwardTch_spool hz hv]
  · rw [takeRequestTch_forwards h hp hd (by rw [hreq]; exact ho), tracked_iff ht htyp hz]

/-! ## Contributions and signals (R352, R353) -/

section
variable {k : Nat} {hdr data : List Byte} {s : State} (hk : k < 8) (hup : (aport s k).state = .up)
include hk hup

/-- A contribution gets its engine's answer. -/
theorem exec_tchReducePush {v : State} {st : Status} (ht : (readHdr hdr).typ = 5) (hb : badTch hdr = false)
    (hl : badTchLen (readHdr hdr) = none) (hp : portStopped (tchTaken k hdr data s) k = false)
    (hv : accContribution k (bits (readHdr hdr).addr 0 12) (BitVec.ofNat 32 (bits (readHdr hdr).addr 32 32))
      (bits (readHdr hdr).value 0 47) data (dcrcOk hdr data) (tchTaken k hdr data s) = (st, v)) :
    exec (.tchReducePush k hdr data) s = .next (ended s (respond k (readHdr hdr).tag st [] v)) := by
  have he : takePush k hdr data (tchTaken k hdr data s) = respond k (readHdr hdr).tag st [] v := by
    unfold takePush
    dsimp only
    rw [hb, hl, hp, hv]
    rfl
  exact congrArg (ends s) ((takeTch_runs hk hup ht _).trans he)

theorem exec_doorbell (ht : (readHdr hdr).typ = 4) (h1 : bits (readHdr hdr).addr 0 8 = 1) :
    exec (.doorbell k hdr) s = .next (ended s (takeSignal k hdr (tchTaken k hdr [] s))) := by
  refine congrArg (ends s) ((if_pos ?_).trans (takeTch_runs hk hup ht _))
  rw [isSignal, h1]
  rfl

theorem exec_user (ht : (readHdr hdr).typ = 4) (h2 : bits (readHdr hdr).addr 0 8 = 2) :
    exec (.user k hdr) s = .next (ended s (takeSignal k hdr (tchTaken k hdr [] s))) := by
  refine congrArg (ends s) ((if_pos ?_).trans (takeTch_runs hk hup ht _))
  rw [isSignal, h2]
  rfl

end

section
variable {k : Nat} {hdr : List Byte} {u : State} (hb : badTch hdr = false) (hl : (readHdr hdr).len = 0)
include hb hl

theorem takeSignal_delivers (hr : (aport u k).accReqs = []) : takeSignal k hdr u = deliverSignal k hdr u := by
  unfold takeSignal
  dsimp only
  rw [hb, hl, hr]
  rfl

theorem takeSignal_holds (hr : (aport u k).accReqs ≠ []) : takeSignal k hdr u = modAport k (fun a => { a with
    nextId := a.nextId + 1, heldSignals := a.heldSignals ++ [{ id := a.nextId, header := hdr }] }) u := by
  unfold takeSignal
  dsimp only
  rw [hb, hl, if_neg (by simp), if_neg (by simpa using hr)]

end

section
variable {k : Nat} {hdr : List Byte} {u : State}

theorem deliverSignal_doorbell (h : bits (readHdr hdr).addr 0 8 = 1) :
    deliverSignal k hdr u = signalDoorbell k (readHdr hdr) u := by
  unfold deliverSignal
  dsimp only
  rw [h]
  rfl

theorem signalDoorbell_notReady {h : TchHdr} (hn : u.fw.ready = false) : signalDoorbell k h u = u := by
  rw [signalDoorbell, hn]
  rfl

theorem signalDoorbell_admin {h : TchHdr} (hn : u.fw.ready = true) (hv : bit h.value 24 = true) :
    signalDoorbell k h u = setTail (.admin (aport u k).part.toNat) (bits h.value 32 16) u := by
  rw [signalDoorbell, hn, hv]
  rfl

theorem signalDoorbell_skein {h : TchHdr} (hn : u.fw.ready = true) (hv : bit h.value 24 = false) :
    signalDoorbell k h u = namedSkein (aport u k).part.toNat (bits h.value 0 24) u fun r s =>
      setTail r (bits h.value 32 16) s := by
  rw [signalDoorbell, hn, hv]
  rfl

theorem deliverSignal_user {j : Nat} (h : bits (readHdr hdr).addr 0 8 = 2) (hj : bits (readHdr hdr).addr 8 4 = j) (hj8 : j < 8)
    (hjk : j ≠ k) (hp : (aport u j).part = (aport u k).part) (hup : (aport u j).state = .up) :
    deliverSignal k hdr u = sendTch j { typ := 4, addr := (readHdr hdr).addr, value := (readHdr hdr).value
                                        aux := (readHdr hdr).aux } [] u := by
  have hsw : switchCheck u k j = none := by
    rw [switchCheck, firstFail_none]
    simp [hjk, hp, hup]
  have hgo : ¬(bits (readHdr hdr).addr 8 4 ≥ 8 ∨ (switchCheck u k (bits (readHdr hdr).addr 8 4)).isSome) := by
    rw [hj, hsw]
    simp [hj8]
  unfold deliverSignal
  dsimp only
  rw [h]
  refine (if_neg hgo).trans ?_
  rw [hj]

end

section
variable {k : Nat} {hdr : List Byte} {s : State} (hk : k < 8) (hup : (aport s k).state = .up) (ht : (readHdr hdr).typ = 4)
  (hb : badTch hdr = false) (hl : (readHdr hdr).len = 0)
include hk hup ht hb hl

/-- A DOORBELL does what the partition's own doorbell does. -/
theorem exec_doorbell_rings (h1 : bits (readHdr hdr).addr 0 8 = 1) (hr : (aport s k).accReqs = []) :
    (s.fw.ready = false → exec (.doorbell k hdr) s = .next (ended s (tchTaken k hdr [] s))) ∧
    (s.fw.ready = true → bit (readHdr hdr).value 24 = true → exec (.doorbell k hdr) s = .next (ended s
      (setTail (.admin (aport s k).part.toNat) (bits (readHdr hdr).value 32 16) (tchTaken k hdr [] s)))) ∧
    (s.fw.ready = true → bit (readHdr hdr).value 24 = false → exec (.doorbell k hdr) s = .next (ended s
      (namedSkein (aport s k).part.toNat (bits (readHdr hdr).value 0 24) (tchTaken k hdr [] s) fun r s =>
        setTail r (bits (readHdr hdr).value 32 16) s))) := by
  obtain ⟨hreq, hpart, -⟩ := aport_tchTaken (k := k) (hdr := hdr) (data := []) (s := s)
  rw [exec_doorbell hk hup ht h1, takeSignal_delivers hb hl (hreq.trans hr), deliverSignal_doorbell h1, ← hpart]
  refine ⟨fun hn => ?_, fun hn hv => ?_, fun hn hv => ?_⟩
  · rw [signalDoorbell_notReady (u := tchTaken k hdr [] s) hn]
  · rw [signalDoorbell_admin (u := tchTaken k hdr [] s) hn hv]
  · rw [signalDoorbell_skein (u := tchTaken k hdr [] s) hn hv]

/-- A USER signal for a port of the partition is sent on. -/
theorem exec_user_sends {j : Nat} (h2 : bits (readHdr hdr).addr 0 8 = 2) (hr : (aport s k).accReqs = [])
    (hj : bits (readHdr hdr).addr 8 4 = j) (hj8 : j < 8) (hjk : j ≠ k) (hp : (aport s j).part = (aport s k).part)
    (hjup : (aport s j).state = .up) : exec (.user k hdr) s = .next (ended s (sendTch j
      { typ := 4, addr := (readHdr hdr).addr, value := (readHdr hdr).value, aux := (readHdr hdr).aux } []
      (tchTaken k hdr [] s))) := by
  obtain ⟨hreq, hpart, -⟩ := aport_tchTaken (k := k) (hdr := hdr) (data := []) (s := s)
  have hja : aport (tchTaken k hdr [] s) j = aport s j := aport_modAport_other k _ s hjk
  rw [exec_user hk hup ht h2, takeSignal_delivers hb hl (hreq.trans hr), deliverSignal_user h2 hj hj8 hjk]
  · rw [hja, hp, hpart]
  · rw [hja, hjup]

/-- A signal behind earlier requests is held. -/
theorem exec_signal_held : ∀ p ∈ ([(.doorbell k hdr, 1), (.user k hdr, 2)] : List (Instr × Nat)),
    bits (readHdr hdr).addr 0 8 = p.2 → (aport s k).accReqs ≠ [] → exec p.1 s = .next (ended s (modAport k (fun a => { a with
      nextId := a.nextId + 1, heldSignals := a.heldSignals ++ [{ id := a.nextId, header := hdr }] }) (tchTaken k hdr [] s))) := by
  intro p hp h2 hr
  have hd := takeSignal_holds (k := k) (u := tchTaken k hdr [] s) hb hl (fun h0 => hr (aport_tchTaken.1.symm.trans h0))
  simp only [List.mem_cons, List.not_mem_nil, or_false] at hp
  obtain rfl | rfl := hp
  · rw [exec_doorbell hk hup ht h2, hd]
  · rw [exec_user hk hup ht h2, hd]

end

/-! ## Responses and timeouts (R351, R354) -/

section
variable {k : Nat} {hdr data : List Byte} {s : State} {d : DevReq} (hk : k < 8) (hup : (aport s k).state = .up)
  (ht : (readHdr hdr).typ = 8)

include hk hup ht in
theorem exec_tchResponse : exec (.tchResponse k hdr data) s =
    .next (ended s (drainTch k (takeResponseTch k hdr data (tchTaken k hdr data s)))) :=
  congrArg (fun t => ends s (drainTch k t)) (takeTch_runs hk hup ht _)

variable {u : State} (hf : (aport u k).devReqs.find? (fun d => d.tag == (readHdr hdr).tag) = some d)
include hf

theorem takeResponseTch_late (hd : d.timedOut = true) : takeResponseTch k hdr data u =
    modAport k (fun a => { a with devReqs := a.devReqs.filter (fun x => x.tag != d.tag) })
      { u with lnk := { u.lnk with accLate := satInc u.lnk.accLate } } := by
  unfold takeResponseTch
  dsimp only
  rw [hf]
  dsimp only
  rw [hd]
  rfl

/-- The status a response ends its request with. -/
def tchStatus (hdr data : List Byte) : Status :=
  if badTch hdr || (data != [] && !dcrcOk hdr data) then Status.checkFail else (statusOf (readHdr hdr).status).getD .opcode

theorem takeResponseTch_ends (hd : d.timedOut = false) (hp : d.fromPort = none) : takeResponseTch k hdr data u =
    endRequest k d (tchStatus hdr data) (if tchStatus hdr data = .ok then data else []) u := by
  unfold takeResponseTch
  dsimp only
  rw [hf]
  dsimp only
  rw [hd, if_neg (by simp), hp]
  rfl

end

theorem tchStatus_bad {hdr data : List Byte} (h : badTch hdr = true ∨ (data ≠ [] ∧ dcrcOk hdr data = false)) :
    tchStatus hdr data = .checkFail := by
  refine if_pos ?_
  obtain h | ⟨hd, hc⟩ := h
  · simp [h]
  · simp [hd, hc]

theorem tchStatus_ok {hdr data : List Byte} (hb : badTch hdr = false) (hd : data ≠ [] → dcrcOk hdr data = true)
    (hz : (readHdr hdr).status = 0) : tchStatus hdr data = .ok := by
  have hn : ¬(badTch hdr || (data != [] && !dcrcOk hdr data)) = true := by
    by_cases he : data = []
    · simp [hb, he]
    · simp [hb, hd he]
  rw [tchStatus, if_neg hn, hz]
  rfl

/-- A request out of time ends with TIMEOUT and keeps its tag. -/
theorem exec_accTmoExpiry {k tag : Nat} {s : State} {d : DevReq}
    (hf : (aport s k).devReqs.find? (fun d => d.tag == tag && !d.timedOut) = some d) (hp : d.fromPort = none)
    (ht : s.lnk.accTmoUs.toNat * 1000 ≤ (accTime s k - d.sent).toNat) : exec (.accTmoExpiry k tag) s = .next (ended s (drainTch k
      (modAport k (fun a => { a with devReqs := a.devReqs ++ [{ d with timedOut := true }] }) (endRequest k d .timeout [] s)))) := by
  have hs : sinceUs (accTime s k) d.sent s.lnk.accTmoUs.toNat = true := decide_eq_true ht
  have he : accTimeout k tag s =
      modAport k (fun a => { a with devReqs := a.devReqs ++ [{ d with timedOut := true }] }) (endRequest k d .timeout [] s) := by
    unfold accTimeout
    rw [hf]
    dsimp only
    rw [hs, if_neg (by simp)]
    split
    · next j t hj =>
      rw [hp] at hj
      cases hj
    · rfl
  exact congrArg (fun t => ends s (drainTch k t)) he

/-! ## The end of a device's request (R354) -/

/-- Nothing that waits on a write goes on where nothing waits. -/
theorem writersGoOn_none {w : Nat × Nat} {s : State} (hops : ∀ o ∈ s.sht.ops, w ∉ o.waits)
    (hred : ∀ c ∈ s.red.comm, ∀ o ∈ c.2.ops, w ∉ o.waits) (t : State) : writersGoOn w s t = t := by
  have h1 : opsAwaiting s w = [] := by
    rw [opsAwaiting, List.filter_eq_nil_iff]
    intro o ho
    simpa using hops o ho
  have h2 : redAwaiting s w = [] := by
    rw [redAwaiting, List.flatMap_eq_nil_iff]
    intro c hc
    rw [List.map_eq_nil_iff, List.filter_eq_nil_iff]
    intro o ho
    simpa using hred c hc o ho
  rw [writersGoOn, h1, h2]
  rfl

/-- A request of a unit of the device ends: its tag is free, and what it read is kept for the unit. -/
theorem endRequest_ends (k : Nat) (d : DevReq) (st : Status) (data : List Byte) (s : State) (hp : d.fromPort = none)
    (hops : ∀ o ∈ s.sht.ops, (k, d.tag) ∉ o.waits) (hred : ∀ c ∈ s.red.comm, ∀ o ∈ c.2.ops, (k, d.tag) ∉ o.waits) :
    (aport (endRequest k d st data s) k).devReqs = (aport s k).devReqs.filter (fun x => x.tag != d.tag) ∧
      (endRequest k d st data s).lnk.answers =
        s.lnk.answers ++ (if d.typ = 2 then [] else [{ pa := d.pa, status := st, bytes := data }]) := by
  have ha : (aport (modAport k (fun a => { a with devReqs := a.devReqs.filter fun x => x.tag != d.tag }) s) k).devReqs =
      (aport s k).devReqs.filter (fun x => x.tag != d.tag) := by
    rw [aport_modAport]
  rw [endRequest, writersGoOn_none hops hred, endDevReq, hp]
  dsimp only
  by_cases h2 : d.typ = 2
  · rw [if_pos h2, if_pos h2, List.append_nil]
    exact ⟨ha, rfl⟩
  · rw [if_neg h2, if_neg h2]
    exact ⟨ha, rfl⟩

/-! ## Training (R355) -/

section
variable {k : Nat} {s : State}

/-- A port for which no command waits: nothing completes. -/
theorem endPortCmds_none {st : Status} {a : APort} (h : a.cmds = []) : endPortCmds k st (setAport k a s) = setAport k a s := by
  have ha : (aport (setAport k a s) k).cmds = [] := by rw [aport_setAport, h]
  have hset : modAport k (fun a => { a with cmds := [] }) (setAport k a s) = setAport k a s := by
    rw [modAport, aport_setAport, setAport_setAport, ← h]
  unfold endPortCmds
  dsimp only
  rw [ha, hset]
  rfl

theorem setAport_undisturbed (k : Nat) (a : APort) (s : State) : Undisturbed s (setAport k a s) := ⟨rfl, rfl, rfl, rfl, rfl, rfl⟩

/-- The next training step begins. -/
def stepNext (now : Word64) (a : APort) : APort := { a with step := a.step + 1, stepAt := now }

theorem trainingStep_next {x : TchTraining} (ho : trainingOn (aport s k) = true)
    (hst : (aport s k).step = 1 ∨ (aport s k).step = 2) : trainingStep k x s = setAport k (stepNext (accTime s k) (aport s k)) s := by
  unfold trainingStep
  dsimp only
  rw [ho, if_neg (by simp)]
  obtain h | h := hst
  · split
    · next h3 => exact absurd (h.symm.trans h3) (by decide)
    · next h4 => exact absurd (h.symm.trans h4) (by decide)
    · rfl
  · split
    · next h3 => exact absurd (h.symm.trans h3) (by decide)
    · next h4 => exact absurd (h.symm.trans h4) (by decide)
    · rfl

theorem exec_trainingStep_next (hs : settled s) {x : TchTraining} (ho : trainingOn (aport s k) = true)
    (hst : (aport s k).step = 1 ∨ (aport s k).step = 2) : exec (.tchTrainingStepDone k x) s =
      .next (setAport k { aport s k with step := (aport s k).step + 1, stepAt := accTime s k } s) :=
  (congrArg (ends s) (trainingStep_next ho hst)).trans (ends_undisturbed hs (setAport_undisturbed _ _ _))

/-- The port that has come up with the parameters of its accelerator. -/
def cameUp (x : TchTraining) (a : APort) : APort := { a with
  state := .up, step := 0, hasEq := true, accId := BitVec.ofNat 64 x.accId, txSeq := 0, rxSeq := 4095, ackedSeq := 4095
  nakSent := false, replayRuns := 0, replay := [], txWait := [], rxHdrs := [], rxData := [], retrained := false
  txCredit := { hdr := x.hdr, rsp := x.rsp, data := x.data }, owedCredit := {} }

theorem trainingStep_up {x : TchTraining} (ho : trainingOn (aport s k) = true) (hc : (aport s k).cmds = [])
    (h4 : (aport s k).step = 4) (hp : paramsOk x = true) : trainingStep k x s = setAport k (cameUp x (aport s k)) s := by
  have hup : portUp k x s = setAport k (cameUp x (aport s k)) s := endPortCmds_none (a := cameUp x (aport s k)) hc
  unfold trainingStep
  dsimp only
  rw [ho, if_neg (by simp)]
  split
  · next h3 => exact absurd (h4.symm.trans h3) (by decide)
  · rw [if_pos hp, hup]
  · next h => exact absurd h4 h

theorem exec_trainingStep_up {x : TchTraining} (ho : trainingOn (aport s k) = true) (hc : (aport s k).cmds = [])
    (h4 : (aport s k).step = 4) (hp : paramsOk x = true) : ∃ t, exec (.tchTrainingStepDone k x) s = .next t ∧
      (aport t k).state = .up ∧ (aport t k).txCredit = { hdr := x.hdr, rsp := x.rsp, data := x.data } ∧
      (aport t k).accId = BitVec.ofNat 64 x.accId ∧ (aport t k).step = 0 := by
  have ha : aport (ended s (setAport k (cameUp x (aport s k)) s)) k = cameUp x (aport s k) := by
    rw [aport_ended, aport_setAport]
  refine ⟨_, congrArg (ends s) (trainingStep_up ho hc h4 hp), ?_⟩
  rw [ha]
  exact ⟨rfl, rfl, rfl, rfl⟩

theorem exec_trainingOverrun (hs : settled s) (ho : trainingOn (aport s k) = true) (hc : (aport s k).cmds = [])
    (hb : stepBoundUs (aport s k) * 1000 ≤ (accTime s k - (aport s k).stepAt).toNat) :
    exec (.tchTrainingOverrun k) s = .next (setAport k { aport s k with state := .down, step := 0 } s) := by
  have hsince : sinceUs (accTime s k) (aport s k).stepAt (stepBoundUs (aport s k)) = true := decide_eq_true hb
  have hfail : trainingFails k s = setAport k { aport s k with state := .down, step := 0 } s :=
    endPortCmds_none (a := { aport s k with state := .down, step := 0 }) hc
  have he : trainingOverrun k s = setAport k { aport s k with state := .down, step := 0 } s := by
    unfold trainingOverrun
    dsimp only
    rw [ho, hsince, if_pos (by rfl), hfail]
  exact (congrArg (ends s) he).trans (ends_undisturbed hs (setAport_undisturbed _ _ _))

end

/-! ## What the end of requests leaves of the ports (R356) -/

/-- What a port's requests, signals and link stand on. -/
def portKey (a : APort) : APortSt × Nat × Bool × BitVec 16 × List HeldSignal × List DevReq × List AccReq :=
  (a.state, a.step, a.retrained, a.downs, a.heldSignals, a.devReqs, a.accReqs)

/-- Ports keep their state and their requests, and communicators their state. -/
structure PortsStand (s t : State) : Prop where
  key : ∀ j, portKey (aport t j) = portKey (aport s j)
  seen : t.lnk.accDownSeen = s.lnk.accDownSeen
  comm : ∀ c, (commOf t c).state = (commOf s c).state

theorem PortsStand.refl (s : State) : PortsStand s s := ⟨fun _ => rfl, rfl, fun _ => rfl⟩

theorem PortsStand.trans {s t u : State} (h : PortsStand s t) (k : PortsStand t u) : PortsStand s u :=
  ⟨fun j => (k.key j).trans (h.key j), k.seen.trans h.seen, fun c => (k.comm c).trans (h.comm c)⟩

theorem PortsStand.of_same {s t : State} (hl : t.lnk = s.lnk) (hr : t.red = s.red) : PortsStand s t := by
  refine ⟨fun j => ?_, by rw [hl], fun c => ?_⟩
  · rw [aport, hl, aport]
  · rw [commOf, hr, commOf]

theorem EndsWork.portsStand {s t : State} (h : EndsWork s t) : PortsStand s t :=
  .of_same (congrArg (·.lnk) h.frame) (congrArg (·.red) h.frame)

theorem modAport_portsStand {f : APort → APort} (hf : ∀ a, portKey (f a) = portKey a) (k : Nat) (s : State) :
    PortsStand s (modAport k f s) := by
  refine ⟨fun j => ?_, rfl, fun _ => rfl⟩
  by_cases hj : j = k
  · rw [hj, aport_modAport, hf]
  · rw [aport_modAport_other k f s hj]

theorem sendFlit_portsStand (k kind : Nat) (nak : Bool) (payload : List Byte) (s : State) :
    PortsStand s (sendFlit k kind nak payload s) := by
  obtain ⟨hl, -, hr⟩ := sendFlit_lnk k kind nak payload s
  have h := modAport_portsStand (f := flitSent kind payload) (fun _ => rfl) k s
  refine ⟨fun j => ?_, ?_, fun c => ?_⟩
  · rw [aport, hl]
    exact h.key j
  · rw [hl]
    exact h.seen
  · rw [commOf, hr, commOf]

theorem sendTransaction_portsStand (k : Nat) (hdr data : List Byte) (s : State) :
    PortsStand s (sendTransaction k hdr data s) := by
  refine .trans (modAport_portsStand (f := spendCredit hdr data) (fun _ => rfl) k s) (.trans (sendFlit_portsStand k 1 false hdr _) ?_)
  exact foldl_related .refl .trans (fun s d => sendFlit_portsStand k 2 false d s) _ _

theorem sendTch_portsStand (k : Nat) (h : TchHdr) (data : List Byte) (s : State) : PortsStand s (sendTch k h data s) := by
  unfold sendTch
  dsimp only
  split
  · exact .refl s
  · split
    · exact modAport_portsStand (f := fun a => { a with txWait := a.txWait ++ [(hdrBytes h data, data)] }) (fun _ => rfl) k s
    · exact sendTransaction_portsStand _ _ _ s

theorem setComm_portsStand {k : Nat} {c : Comm} {s : State} (h : c.state = (commOf s k).state) : PortsStand s (setComm k c s) := by
  refine ⟨fun _ => rfl, rfl, fun j => ?_⟩
  by_cases hj : j = k
  · rw [hj, commOf_setComm, h]
  · rw [commOf_setComm_other _ _ _ _ hj]

theorem redSignal_portsStand (typ port k : Nat) (os : BitVec 32) (value aux : Nat) (s : State) :
    PortsStand s (redSignal typ port k os value aux s) := sendTch_portsStand _ _ _ s

theorem sendResults_portsStand (k : Nat) (o : RedOp) (st : Status) (s : State) : PortsStand s (sendResults k o st s) := by
  unfold sendResults
  exact foldl_related .refl .trans (fun s p => redSignal_portsStand _ p k o.opseq _ _ s) _ s

/-- A port that no longer grants anything to an operation. -/
def grantsDropped (k : Nat) (os : BitVec 32) (a : APort) : APort :=
  { a with grants := a.grants.filter fun g => !(g.comm == k && g.opseq == os.toNat) }

/-- Every port drops its grants. -/
def portsDropped (k : Nat) (os : BitVec 32) (n : Nat) (t : Tab APort) : Tab APort :=
  (List.range n).foldl (fun t p => tmod {} t p (grantsDropped k os)) t

theorem portsDropped_key (k : Nat) (os : BitVec 32) (n : Nat) (t : Tab APort) (j : Nat) :
    portKey (tget {} (portsDropped k os n t) j) = portKey (tget {} t j) := by
  rw [portsDropped, tget_foldl_tmod]
  split <;> rfl

theorem dropWork_frame (k : Nat) (os : BitVec 32) (s : State) : dropWork k os s = { s with
    red := { s.red with slots := s.red.slots.filter fun x => !(x.comm == k && x.opseq == os)
                        arrived := s.red.arrived.filter fun b => !(b.comm == k && b.opseq == os) }
    lnk := { s.lnk with aport := portsDropped k os 8 s.lnk.aport } } := by
  unfold dropWork portsDropped grantsDropped
  rfl

theorem dropWork_portsStand (k : Nat) (os : BitVec 32) (s : State) : PortsStand s (dropWork k os s) := by
  rw [dropWork_frame]
  have hkey := portsDropped_key k os 8 s.lnk.aport
  generalize portsDropped k os 8 s.lnk.aport = t at hkey ⊢
  exact ⟨hkey, rfl, fun _ => rfl⟩

theorem markReplayed_portsStand (r : CmdRef) (s : State) : PortsStand s (markReplayed r s) := .of_same rfl rfl

theorem tagDone_portsStand (r : CmdRef) (k : Nat) (s : State) : PortsStand s (tagDone r k s) := .of_same rfl rfl

theorem flushOps_portsStand (k : Nat) (l : List RedOp) (s : State) : PortsStand s (flushOps k l s) := by
  induction l generalizing s with
  | nil => exact setComm_portsStand rfl
  | cons o r ih =>
    unfold flushOps
    split
    · exact setComm_portsStand rfl
    · refine .trans ?_ (ih _)
      refine .trans ?_ (tagDone_portsStand _ _ _)
      refine .trans ?_ (completeRef_endsWork _ _ _ _ _).portsStand
      refine .trans ?_ (sendResults_portsStand _ _ _ _)
      split
      · exact markReplayed_portsStand _ s
      · exact .refl s

/-- No communicator is ACTIVE. -/
def NoneActive (s : State) : Prop := ∀ c, (commOf s c).state ≠ .active

theorem NoneActive.of_stand {s t : State} (h : NoneActive s) (k : PortsStand s t) : NoneActive t := by
  intro c
  rw [k.comm c]
  exact h c

/-- What still comes of an operation's pushes is noted with its communicator. -/
def pushesNoted (k : Nat) (o : RedOp) (s : State) : State :=
  modComm k (fun c => { c with controls := c.controls ++ o.pushes.filterMap fun x => x.op.map fun id => (id, x.dest) }) s

/-- An operation that is over, before its completion is written. -/
def redOpOver (k : Nat) (o : RedOp) (st : Status) (res : List Nat) (s : State) : State :=
  setRedOp k { o with done := some (st, res), runs := [], pushes := [] } (pushesNoted k o (dropWork k o.opseq s))

theorem endRedOp_eq (k : Nat) (o : RedOp) (st : Status) (res : List Nat) (s : State) : endRedOp k o st res s =
    fillSlots k (flushOps k (commOf (redOpOver k o st res s) k).ops (redOpOver k o st res s)) := by
  unfold endRedOp redOpOver pushesNoted
  rfl

theorem setRedOp_portsStand (k : Nat) (o : RedOp) (s : State) : PortsStand s (setRedOp k o s) := setComm_portsStand rfl

theorem pushesNoted_portsStand (k : Nat) (o : RedOp) (s : State) : PortsStand s (pushesNoted k o s) := setComm_portsStand rfl

theorem redOpOver_portsStand (k : Nat) (o : RedOp) (st : Status) (res : List Nat) (s : State) :
    PortsStand s (redOpOver k o st res s) :=
  ((dropWork_portsStand k o.opseq s).trans (pushesNoted_portsStand k o _)).trans (setRedOp_portsStand k _ _)

theorem endRedOp_portsStand {s : State} (hn : NoneActive s) (k : Nat) (o : RedOp) (st : Status) (res : List Nat) :
    PortsStand s (endRedOp k o st res s) := by
  have h := (redOpOver_portsStand k o st res s).trans
    (flushOps_portsStand k (commOf (redOpOver k o st res s) k).ops (redOpOver k o st res s))
  have hfill : ∀ x, PortsStand s x → fillSlots k x = x := fun x hx => if_pos ((hn.of_stand hx) k)
  rw [endRedOp_eq, hfill _ h]
  exact h

theorem checkRedOp_portsStand {s : State} (hn : NoneActive s) (k : Nat) (os : BitVec 32) : PortsStand s (checkRedOp k os s) := by
  unfold checkRedOp
  dsimp only
  split
  · exact .refl s
  · split
    · exact .refl s
    · split
      · exact endRedOp_portsStand hn _ _ _ _
      · split
        · exact endRedOp_portsStand hn _ _ _ _
        · exact .refl s

theorem resolveOp_endsWork (q id : Nat) (s : State) : EndsWork s (resolveOp q id s) := by
  unfold resolveOp
  split
  · exact .refl s
  · split
    · exact .refl s
    · split
      · exact dropOp_endsWork _ s
      · exact endOp_endsWork _ _ s

/-- A step that leaves the ports standing where no communicator is ACTIVE. -/
def StandsIdle (s t : State) : Prop := NoneActive s → PortsStand s t

theorem StandsIdle.refl (s : State) : StandsIdle s s := fun _ => .refl s

theorem StandsIdle.trans {s t u : State} (h : StandsIdle s t) (k : StandsIdle t u) : StandsIdle s u :=
  fun hn => (h hn).trans (k (hn.of_stand (h hn)))

theorem writersGoOn_standsIdle (w : Nat × Nat) (before s : State) : StandsIdle s (writersGoOn w before s) := by
  refine .trans (t := (opsAwaiting before w).foldl (fun s o => resolveOp o.qp o.id s) s) ?_ ?_
  · exact foldl_related .refl .trans (fun s o _ => (resolveOp_endsWork o.qp o.id s).portsStand) _ s
  · exact foldl_related .refl .trans (fun s x hn => checkRedOp_portsStand hn x.1 x.2) _ _

theorem commLost_inactive {s : State} {k : Nat} (h : (commOf s k).state ≠ .active) (rank accel : Option Nat) (relayed : Bool)
    (st : Status) : commLost k rank accel relayed st s = s := if_pos h

/-- A push that has come back. -/
def pushMarked (id : Nat) (x : RedPush) : RedPush := if x.op = some id then { x with op := none, acked := true } else x

theorem pushEnded_standsIdle (k id : Nat) (st : Status) (s : State) : StandsIdle s (pushEnded k id st s) := by
  intro hn
  unfold pushEnded
  dsimp only
  split
  · next x _ =>
    have hset : PortsStand s (setComm k { commOf s k with controls := (commOf s k).controls.filter fun y => y.1 != id } s) :=
      setComm_portsStand rfl
    split
    · exact hset
    · rw [commLost_inactive ((hn.of_stand hset) k)]
      exact hset
  · split
    · exact .refl s
    · next o _ =>
      have hset : ∀ o : RedOp, PortsStand s (setRedOp k o s) := fun o => setRedOp_portsStand k o s
      refine .trans (t := setRedOp k { o with pushes := o.pushes.map (pushMarked id) } s) (hset _) ?_
      split
      · exact checkRedOp_portsStand (hn.of_stand (hset _)) _ _
      · rw [commLost_inactive ((hn.of_stand (hset _)) k)]
        exact checkRedOp_portsStand (hn.of_stand (hset _)) _ _

theorem reedNotice_standsIdle (s : State) : StandsIdle s (reedNotice s) := by
  refine .trans (t := { s with sht := { s.sht with pushDone := [] } }) (fun _ => .of_same rfl rfl) ?_
  exact foldl_related .refl .trans (fun s (x : Nat × Status) =>
    foldl_related .refl .trans (fun s (c : Nat × Comm) => pushEnded_standsIdle c.1 x.1 x.2 s) s.red.comm s) s.sht.pushDone _

theorem reedAccelDown_idle {s : State} (hn : NoneActive s) (k : Nat) : reedAccelDown k s = s := by
  rw [reedAccelDown]
  generalize s.red.comm = cs
  induction cs with
  | nil => rfl
  | cons c r ih =>
    have h : (if c.2.accel.getLsbD k then commLost c.1 none (some k) false .memberLost s else s) = s := by
      rw [commLost_inactive (hn c.1), ite_self]
    rw [List.foldl_cons, h, ih]

/-! ## Loss of the link (R356) -/

/-- The state of a lost port while its requests end. -/
structure Losing (k : Nat) (n : BitVec 16) (s : State) : Prop where
  held : NothingHeld s
  inactive : NoneActive s
  seen : s.lnk.accDownSeen = true
  state : (aport s k).state = .retrain
  downs : (aport s k).downs = n

theorem PortsStand.nothingHeld {s t : State} (h : PortsStand s t) (hh : NothingHeld s) : NothingHeld t := by
  intro j
  have hk := h.key j
  simp only [portKey, Prod.mk.injEq] at hk
  obtain ⟨-, -, -, -, hsig, -, hacc⟩ := hk
  rw [hsig, hacc]
  exact hh j

section
variable {k : Nat} {n : BitVec 16} {s t : State}

theorem Losing.of_stand (h : Losing k n s) (hst : PortsStand s t) : Losing k n t := by
  have hk := hst.key k
  simp only [portKey, Prod.mk.injEq] at hk
  obtain ⟨hstate, -, -, hdowns, -⟩ := hk
  exact ⟨hst.nothingHeld h.held, h.inactive.of_stand hst, hst.seen.trans h.seen, hstate.trans h.state, hdowns.trans h.downs⟩

/-- A change of a port's own requests, or of what it has sent, keeps a lost port lost. -/
theorem Losing.modAport (h : Losing k n s) (j : Nat) {f : APort → APort}
    (hf : ∀ a, (f a).state = a.state ∧ (f a).downs = a.downs ∧ (f a).heldSignals = a.heldSignals)
    (hr : (f (aport s j)).accReqs = []) : Losing k n (modAport j f s) := by
  refine ⟨h.held.modAport j f ⟨hr, (hf _).2.2.trans (h.held j).2⟩, h.inactive, h.seen, ?_, ?_⟩
  · by_cases hj : k = j
    · rw [hj, aport_modAport, (hf _).1, ← hj, h.state]
    · rw [aport_modAport_other j f s hj, h.state]
  · by_cases hj : k = j
    · rw [hj, aport_modAport, (hf _).2.1, ← hj, h.downs]
    · rw [aport_modAport_other j f s hj, h.downs]

theorem foldl_losing {β : Type} {f : State → β → State} (hf : ∀ s b, Losing k n s → Losing k n (f s b)) (l : List β) (s : State)
    (h : Losing k n s) : Losing k n (l.foldl f s) :=
  foldl_related (R := fun s t => Losing k n s → Losing k n t) (fun _ => id) (fun h k => k ∘ h) hf l s h

theorem tget_map_snd {α : Type} {d : α} {f : α → α} (hf : f d = d) (t : Tab α) (i : Nat) :
    tget d (t.map fun e => (e.1, f e.2)) i = f (tget d t i) := by
  induction t with
  | nil => exact hf.symm
  | cons e r ih =>
    simp only [List.map_cons, tget] at ih ⊢
    by_cases h : e.1 = i
    · simp [h]
    · simpa [h] using ih

theorem writeEnded_portsStand (w : Nat × Nat) (st : Status) (s : State) : PortsStand s (writeEnded w st s) := by
  refine ⟨fun _ => rfl, rfl, fun c => ?_⟩
  have h : commOf (writeEnded w st s) c = { commOf s c with ops := (commOf s c).ops.map (redWritten w st) } :=
    tget_map_snd (f := fun v : Comm => { v with ops := v.ops.map (redWritten w st) }) rfl _ _
  rw [h]

theorem endDevReq_losing (d : DevReq) (st : Status) (data : List Byte) (h : Losing k n s) :
    Losing k n (endDevReq k d st data s) := by
  have hm : Losing k n (modAport k (fun a => { a with devReqs := a.devReqs.filter fun x => x.tag != d.tag }) s) :=
    h.modAport k (fun _ => ⟨rfl, rfl, rfl⟩) (h.held k).1
  unfold endDevReq
  dsimp only
  generalize modAport k (fun a => { a with devReqs := a.devReqs.filter fun x => x.tag != d.tag }) s = u at hm ⊢
  split
  · next j tag _ =>
    split
    · exact hm
    · refine .of_stand (hm.modAport j (f := fun a => { a with accReqs := a.accReqs.filter fun r => r.tag != tag })
        (fun _ => ⟨rfl, rfl, rfl⟩) ?_) (sendTch_portsStand _ _ _ _)
      rw [(hm.held j).1]
      rfl
  · split
    · exact hm.of_stand (writeEnded_portsStand _ _ u)
    · exact hm.of_stand ⟨fun _ => rfl, rfl, fun _ => rfl⟩

theorem endRequest_losing (d : DevReq) (st : Status) (data : List Byte) (h : Losing k n s) :
    Losing k n (endRequest k d st data s) := by
  have hd := endDevReq_losing d st data h
  exact hd.of_stand (writersGoOn_standsIdle _ _ _ hd.inactive)

/-- A port that has just left UP. -/
def portLost (next : APortSt) (a : APort) : APort :=
  { a with state := next, heldSignals := [], txWait := [], replay := [], rxHdrs := [], rxData := [], nakSent := false
           replayRuns := 0, grants := [], downs := satInc a.downs, half := false, accId := 0, accReqs := [] }

/-- The requests a port had out end, and those it had switched come from no port any more. -/
def lossEnds (k : Nat) (ds : List DevReq) (s : State) : State :=
  ds.foldl (fun s d => endRequest k d .timeout [] s) ((List.range 8).foldl (fun s j => modAport j (discardSwitched k) s) s)

theorem lossEnds_losing (ds : List DevReq) (h : Losing k n s) : Losing k n (lossEnds k ds s) := by
  refine foldl_losing (fun s d hs => endRequest_losing d _ _ hs) ds _ (foldl_losing (fun s j hs => ?_) _ _ h)
  exact hs.modAport j (fun _ => ⟨rfl, rfl, rfl⟩) (hs.held j).1

/-- The port as its link is lost. -/
def linkGone (k : Nat) (next : APortSt) (s : State) : State :=
  modAport k (fun a => { a with devReqs := [] }) (lossEnds k ((aport s k).devReqs.filter fun d => !d.timedOut)
    (modAport k (portLost next) { s with lnk := { s.lnk with accDownSeen := true } }))

/-- The record of a lost link. -/
def lossRecord (k : Nat) (a : APort) (s : State) : Record :=
  { mkRecord s (accPort k) 0x0501 with part := some a.part.toNat, info0 := aportCode a.state }

theorem linkLoss_up (h : (aport s k).state = .up) (next : APortSt) : linkLoss k next s =
    record (lossRecord k (aport s k) (reedAccelDown k (linkGone k next s))) (reedAccelDown k (linkGone k next s)) := by
  unfold linkLoss
  dsimp only
  rw [if_neg (not_not.mpr h)]
  rfl

/-- The port that retrains once. -/
def retrainingPort (now : Word64) (a : APort) : APort :=
  { a with retrained := true, state := .retrain, step := 1, warmEq := false, stepAt := now, triedAt := now }

theorem lossAndRetrain_up (h : (aport s k).state = .up) : ∃ t, PortsStand (reedAccelDown k (linkGone k .retrain s)) t ∧
    ∃ now, lossAndRetrain k s = modAport k (retrainingPort now) t := by
  have hl := linkLoss_up h .retrain
  generalize lossRecord k (aport s k) (reedAccelDown k (linkGone k .retrain s)) = r at hl
  refine ⟨record r (reedAccelDown k (linkGone k .retrain s)), .of_same rfl rfl, ?_⟩
  refine ⟨accTime (modAport k (fun a => { a with retrained := true }) (record r (reedAccelDown k (linkGone k .retrain s)))) k, ?_⟩
  unfold lossAndRetrain
  rw [if_neg (not_not.mpr h), hl]
  generalize record r (reedAccelDown k (linkGone k .retrain s)) = u
  rw [beginTraining, modAport, modAport, modAport, aport_setAport, setAport_setAport]
  rfl

theorem exec_tchLinkLoss (hh : NothingHeld s) (hn : NoneActive s) (h : (aport s k).state = .up) :
    ∃ t, exec (.tchLinkLoss k) s = .next t ∧ (aport t k).state = .retrain ∧
      (aport t k).step = 1 ∧ (aport t k).retrained = true ∧ (aport t k).downs = satInc (aport s k).downs ∧
      t.lnk.accDownSeen = true ∧ (aport t k).devReqs = [] := by
  have h0 : Losing k (satInc (aport s k).downs)
      (modAport k (portLost .retrain) { s with lnk := { s.lnk with accDownSeen := true } }) := by
    have hat : aport (modAport k (portLost .retrain) { s with lnk := { s.lnk with accDownSeen := true } }) k =
        portLost .retrain (aport s k) := aport_modAport _ _ _
    refine ⟨(hh.of_aport rfl).modAport k _ ⟨rfl, rfl⟩, hn, rfl, ?_, ?_⟩
    · rw [hat]
      rfl
    · rw [hat]
      rfl
  have h1 : Losing k (satInc (aport s k).downs) (linkGone k .retrain s) := by
    have hl := lossEnds_losing ((aport s k).devReqs.filter fun d => !d.timedOut) h0
    exact hl.modAport k (fun _ => ⟨rfl, rfl, rfl⟩) (hl.held k).1
  have hdev : (aport (linkGone k .retrain s) k).devReqs = [] := by
    rw [linkGone, aport_modAport]
  obtain ⟨u, hst, now, he⟩ := lossAndRetrain_up h
  rw [reedAccelDown_idle h1.inactive] at hst
  have h2 := h1.of_stand hst
  have hu := hst.key k
  simp only [portKey, Prod.mk.injEq] at hu
  obtain ⟨-, -, -, -, -, hud, -⟩ := hu
  have h3 : Losing k (satInc (aport s k).downs) (modAport k (retrainingPort now) u) := by
    refine ⟨h2.held.modAport k _ (h2.held k), h2.inactive, h2.seen, ?_, ?_⟩
    · rw [aport_modAport]
      rfl
    · rw [aport_modAport]
      exact h2.downs
  have hnotice := reedNotice_standsIdle _ h3.inactive
  have hk := hnotice.key k
  rw [aport_modAport] at hk
  simp only [portKey, Prod.mk.injEq] at hk
  obtain ⟨hstate, hstep, hret, hdowns, -, hreqs, -⟩ := hk
  refine ⟨ended s (reedNotice (modAport k (retrainingPort now) u)), ?_, ?_, ?_, ?_, ?_, ?_, ?_⟩
  · exact (congrArg (portEnds s) he).trans (portEnds_held h3.held)
  · rw [aport_ended, hstate]
    rfl
  · rw [aport_ended, hstep]
    rfl
  · rw [aport_ended, hret]
    rfl
  · rw [aport_ended, hdowns]
    exact h2.downs
  · rw [(ended_accSeen s _).2, hnotice.seen]
    exact h2.seen
  · rw [aport_ended, hreqs]
    exact hud.trans hdev

theorem exec_tchRetrainRetry (hs : settled s) (hd : (aport s k).state = .down) (hr : (aport s k).retrained = true)
    (ha : s.lnk.autoRetrain = true) (ht : 1000000 * 1000 ≤ (accTime s k - (aport s k).triedAt).toNat) :
    exec (.tchRetrainRetry k) s = .next (setAport k
      { aport s k with state := .retrain, step := 1, warmEq := false, stepAt := accTime s k, triedAt := accTime s k } s) := by
  have hsince : sinceUs (accTime s k) (aport s k).triedAt 1000000 = true := decide_eq_true ht
  have he : retrainRetry k s = setAport k
      { aport s k with state := .retrain, step := 1, warmEq := false, stepAt := accTime s k, triedAt := accTime s k } s := by
    unfold retrainRetry
    dsimp only
    exact if_pos (by simp [hd, hr, ha, hsince])
  exact (congrArg (ends s) he).trans (ends_undisturbed hs (setAport_undisturbed _ _ _))

end

/-! ## Port commands (R350, R357) -/

theorem param_port (c : Cmd) : param c 16 2 0 3 = fieldLE c.packet 16 2 % 8 := by
  rw [param, bits, Nat.pow_zero, Nat.div_one]
  rfl

theorem param_context (c : Cmd) : param c 18 2 0 16 = fieldLE c.packet 18 2 := by
  rw [param, bits, Nat.pow_zero, Nat.div_one]
  exact Nat.mod_eq_of_lt (fieldLE_lt c.packet 18 2)

section
variable {c : Cmd} {s : State} {k : Nat}

theorem portDenied_false (h : c.part = 0 ∨ (aport s k).part.toNat = c.part) : portDenied s c k = false := by
  obtain h | h := h <;> simp [portDenied, h]

/-- A port none of whose commands is held has none waiting. -/
theorem aportHeld_cmds (h : aportHeld s c k = false) : (aport s k).cmds = [] := by
  have h1 := (Bool.or_eq_false_iff.mp h).1
  simpa using h1

/-- A command that disturbs nothing leaves exactly its effect, where nothing is held. -/
theorem portEnds_effect {t : State} (hs : settled s) (hh : NothingHeld t) (hd : t.sht.pushDone = []) (hu : Undisturbed s t) :
    portEnds s t = .next t := (portEnds_idle hh hd).trans (ends_undisturbed hs hu)

/-- The command completes, with no port but its own changed. -/
theorem portEnds_completes {u : State} (hs : settled s) (x : Nat) (hu : NothingHeld u) (hp : u.sht.pushDone = [])
    (hun : Undisturbed s u) : portEnds s (complete c .ok [] x u) = .next (complete c .ok [] x u) := by
  have hf := completeRef_frame (cmdRef c) .ok [] x u
  refine portEnds_effect hs (hu.of_aport ?_) ?_ (hun.trans (complete_undisturbed _ _ _ _ _))
  · exact congrArg (·.lnk.aport) hf
  · exact (congrArg (·.sht.pushDone) hf).trans hp

theorem turn_held (hh : NothingHeld s) (hd : s.sht.pushDone = []) :
    NothingHeld (turn c s) ∧ (turn c s).sht.pushDone = [] ∧ Undisturbed s (turn c s) :=
  ⟨hh.of_aport rfl, hd, turn_undisturbed c s⟩

/-- The checks of APORT_BIND. -/
def bindFails (s : State) (c : Cmd) (k ctx : Nat) : List (Bool × Status) :=
  [(portDenied s c k, .denied), (ctx != 0 && ctxOwner s ctx != (aport s k).part.toNat, .partitionMismatch),
    (ctx != 0 && !(ctxDesc s ctx).enable, .contextFault)]

theorem bindFails_none {ctx : Nat} (hp : c.part = 0 ∨ (aport s k).part.toNat = c.part)
    (hc : ctx = 0 ∨ ctxOwner s ctx = (aport s k).part.toNat ∧ (ctxDesc s ctx).enable = true) :
    ∀ e ∈ bindFails s c k ctx, e.1 = false := by
  have hd := portDenied_false hp
  obtain hc | ⟨ho, he⟩ := hc
  · simp [bindFails, hd, hc]
  · simp [bindFails, hd, ho, he]

/-- The context is bound and the command completes. -/
def bindContext (c : Cmd) (k ctx : Nat) (s : State) : State :=
  complete c .ok [] (aportOwner s k) (modAport k (fun a => { a with ctx := BitVec.ofNat 16 ctx }) s)

variable (hs : settled s) (hk : k = fieldLE c.packet 16 2 % 8)
include hk

theorem exec_aportBind_eq : exec (.aportBind c) s = runOrdered descAportBind c (aportHeld s c k)
    (bindFails s c k (fieldLE c.packet 18 2)) s (bindContext c k (fieldLE c.packet 18 2)) := by
  rw [hk, ← param_port, ← param_context]
  rfl

include hs in
theorem exec_aportBind_held (ha : admits descAportBind c s) (hb : aportHeld s c k = true) :
    exec (.aportBind c) s = .next (holdCmd c s) := by
  rw [exec_aportBind_eq hk, hb]
  exact runOrdered_holds _ _ hs ha

include hs in
theorem exec_aportBind_binds (ha : admits descAportBind c s) (hb : aportHeld s c k = false)
    (hp : c.part = 0 ∨ (aport s k).part.toNat = c.part)
    (hc : fieldLE c.packet 18 2 = 0 ∨ ctxOwner s (fieldLE c.packet 18 2) = (aport s k).part.toNat ∧
      (ctxDesc s (fieldLE c.packet 18 2)).enable = true) : exec (.aportBind c) s = .next (complete c .ok []
        (aportOwner s k) (setAport k { aport s k with ctx := BitVec.ofNat 16 (fieldLE c.packet 18 2) } (turn c s))) := by
  rw [exec_aportBind_eq hk, hb, runOrdered_effect _ _ hs ha (bindFails_none hp hc)]
  · rfl
  · exact (setAport_undisturbed k _ _).trans (complete_undisturbed _ _ _ _ _)

/-- What APORT_CTL checks and does in its turn. -/
def ctlInTurn (c : Cmd) (k op : Nat) (s : State) : State :=
  checked c [(op == 3, .opcode), (portDenied s c k, .denied)] s (aportCtl k op c)

theorem exec_aportCtl_eq : exec (.aportCtl c) s =
    portEnds s (orderCmd descAportCtl c (aportHeld s c k) s (ctlInTurn c k (param c 16 2 3 2))) := by
  rw [hk, ← param_port]
  rfl

theorem exec_aportCtl_turn (ha : admits descAportCtl c s) (hb : aportHeld s c k = false)
    (hp : c.part = 0 ∨ (aport s k).part.toNat = c.part) (h3 : param c 16 2 3 2 ≠ 3) :
    exec (.aportCtl c) s = portEnds s (aportCtl k (param c 16 2 3 2) c (turn c s)) := by
  have hd : portDenied (turn c s) c k = false := portDenied_false hp
  have hgo : ctlInTurn c k (param c 16 2 3 2) (turn c s) = aportCtl k (param c 16 2 3 2) c (turn c s) := by
    rw [ctlInTurn, hd, beq_eq_false_iff_ne.mpr h3]
    rfl
  rw [exec_aportCtl_eq hk, hb, orderCmd_turn ha, hgo]

variable (hh : NothingHeld s) (hd : s.sht.pushDone = [])
include hs hh hd

theorem exec_aportCtl_held (ha : admits descAportCtl c s) (hb : aportHeld s c k = true) :
    exec (.aportCtl c) s = .next (holdCmd c s) := by
  have hf := holdCmd_frame c s
  rw [exec_aportCtl_eq hk, hb, orderCmd_holds ha]
  refine portEnds_effect hs (hh.of_aport ?_) ?_ (holdCmd_undisturbed c s)
  · exact congrArg (·.lnk.aport) hf
  · exact (congrArg (·.sht.pushDone) hf).trans hd

variable (ha : admits descAportCtl c s) (hb : aportHeld s c k = false) (hp : c.part = 0 ∨ (aport s k).part.toNat = c.part)
include ha hb hp

/-- A port that is already as asked: the command completes at once. -/
theorem exec_aportCtl_done (h : param c 16 2 3 2 = 2 ∧ (aport s k).state = .up ∨
    param c 16 2 3 2 = 0 ∧ (aport s k).state = .disabled) :
    exec (.aportCtl c) s = .next (complete c .ok [] (aportOwner s k) (turn c s)) := by
  obtain ⟨hu, hq, hun⟩ := turn_held (c := c) hh hd
  have he : aportCtl k (param c 16 2 3 2) c (turn c s) = complete c .ok [] (aportOwner s k) (turn c s) := by
    have hst : (aport (turn c s) k).state = (aport s k).state := rfl
    unfold aportCtl
    dsimp only
    obtain ⟨hop, hup⟩ | ⟨hop, hdis⟩ := h
    · rw [hop, hst, hup]
      rfl
    · rw [hop, hst, hdis]
      rfl
  rw [exec_aportCtl_turn hk ha hb hp (by omega), he]
  exact portEnds_completes hs _ hu hq hun

/-- A port that is not UP is disabled at once. -/
theorem exec_aportCtl_disables (hop : param c 16 2 3 2 = 1) (hn : (aport s k).state ≠ .up) : exec (.aportCtl c) s =
    .next (complete c .ok [] (aportOwner s k)
      (setAport k { aport s k with state := .disabled, step := 0, retrained := false } (turn c s))) := by
  obtain ⟨hu, hq, hun⟩ := turn_held (c := c) hh hd
  have hloss : linkLoss k .disabled (turn c s) = turn c s := if_pos hn
  have hcmds : endPortCmds k .ok (modAport k (fun a => { a with state := .disabled, step := 0, retrained := false }) (turn c s)) =
      setAport k { aport s k with state := .disabled, step := 0, retrained := false } (turn c s) :=
    endPortCmds_none (a := { aport s k with state := .disabled, step := 0, retrained := false }) (aportHeld_cmds hb)
  have he : aportCtl k 1 c (turn c s) = complete c .ok [] (aportOwner s k)
      (setAport k { aport s k with state := .disabled, step := 0, retrained := false } (turn c s)) := by
    unfold aportCtl
    dsimp only
    rw [hloss, hcmds]
    rfl
  rw [exec_aportCtl_turn hk ha hb hp (by omega), hop, he]
  refine portEnds_completes hs _ ?_ hq (hun.trans (setAport_undisturbed _ _ _))
  exact hu.modAport k (fun a => { a with state := .disabled, step := 0, retrained := false }) (hu k)

/-- A port that begins to train for a command that waits for it. -/
def trainsFor (next : APortSt) (now : Word64) (r : CmdRef) (a : APort) : APort :=
  { a with state := next, step := 1, warmEq := false, stepAt := now, triedAt := now, cmds := [r] }

omit hs hk hh hd ha hp in
theorem waitPort_training (next : APortSt) : waitPort k c (beginTraining k next false (turn c s)) =
    setAport k (trainsFor next (accTime s k) (cmdRef c) (aport s k)) (turn c s) := by
  have hc : (aport (turn c s) k).cmds = [] := aportHeld_cmds (s := s) hb
  rw [waitPort, beginTraining, modAport, modAport, aport_setAport, setAport_setAport, hc]
  rfl

/-- A port that is DISABLED or DOWN begins to train, and the command waits for it. -/
theorem exec_aportCtl_trains {op : Nat} {now next : APortSt} (h : (op, now, next) ∈ ([(2, .disabled, .training),
    (2, .down, .training), (0, .down, .retrain)] : List (Nat × APortSt × APortSt))) (hop : param c 16 2 3 2 = op)
    (hst : (aport s k).state = now) : exec (.aportCtl c) s =
      .next (setAport k (trainsFor next (accTime s k) (cmdRef c) (aport s k)) (turn c s)) := by
  obtain ⟨hu, hq, hun⟩ := turn_held (c := c) hh hd
  have hst' : (aport (turn c s) k).state = now := hst
  have he : op ≠ 3 ∧ aportCtl k op c (turn c s) = waitPort k c (beginTraining k next false (turn c s)) := by
    unfold aportCtl
    dsimp only
    simp only [List.mem_cons, List.not_mem_nil, or_false, Prod.mk.injEq] at h
    obtain ⟨rfl, rfl, rfl⟩ | ⟨rfl, rfl, rfl⟩ | ⟨rfl, rfl, rfl⟩ := h <;> rw [hst'] <;> exact ⟨by decide, rfl⟩
  rw [exec_aportCtl_turn hk ha hb hp (hop ▸ he.1), hop, he.2, waitPort_training hb]
  refine portEnds_effect hs ?_ hq (hun.trans (setAport_undisturbed _ _ _))
  exact hu.modAport k (trainsFor next (accTime s k) (cmdRef c)) (hu k)

end

/-! ## Headers (R348) -/

theorem crcByte_lt {poly c : Nat} (hp : poly < 2 ^ 32) (hc : c < 2 ^ 32) (b : Byte) : crcByte poly c b < 2 ^ 32 := by
  have hstep : ∀ (l : List Nat) (c : Nat), c < 2 ^ 32 →
      l.foldl (fun c _ => if c % 2 = 1 then c / 2 ^^^ poly else c / 2) c < 2 ^ 32 := by
    intro l
    induction l with
    | nil => exact fun c h => h
    | cons x r ih =>
      intro c h
      refine ih _ ?_
      dsimp only
      split
      · exact Nat.xor_lt_two_pow (by omega) hp
      · omega
  exact hstep _ _ (Nat.xor_lt_two_pow hc (by have := b.isLt; omega))

theorem crc32c_lt (bs : List Byte) : crc32c bs < 2 ^ 32 := by
  have hfold : ∀ (l : List Byte) (c : Nat), c < 2 ^ 32 → l.foldl (crcByte 0x82F63B78) c < 2 ^ 32 := by
    intro l
    induction l with
    | nil => exact fun c h => h
    | cons x r ih => exact fun c h => ih _ (crcByte_lt (by decide) h x)
  exact Nat.xor_lt_two_pow (hfold bs _ (by decide)) (by decide)

/-- The first word of a header. -/
def hdrWord (h : TchHdr) : Nat := h.typ + 16 * b2n h.ordered + 2 ^ 8 * h.status + 2 ^ 16 * h.tag + 2 ^ 32 * h.len

theorem hdrBytes_length (h : TchHdr) (data : List Byte) : (hdrBytes h data).length = 32 := by
  simp only [hdrBytes, List.length_append, leBytes_length]

theorem hdrBytes_fields (h : TchHdr) (data : List Byte) :
    fieldLE (hdrBytes h data) 0 8 = hdrWord h % 256 ^ 8 ∧ fieldLE (hdrBytes h data) 8 8 = h.addr % 256 ^ 8 ∧
      fieldLE (hdrBytes h data) 16 8 = h.value % 256 ^ 8 ∧
      fieldLE (hdrBytes h data) 24 4 = (if data = [] then 0 else crc32c data) % 256 ^ 4 ∧
      fieldLE (hdrBytes h data) 28 4 = h.aux % 256 ^ 4 := by
  simp only [hdrBytes, List.append_assoc]
  refine ⟨fieldLE_leBytes 8 _ _, ?_, ?_, ?_, ?_⟩
  · rw [fieldLE_skip (by omega), fieldLE_leBytes]
  · rw [fieldLE_skip (by omega), fieldLE_skip (by omega), fieldLE_leBytes]
  · rw [fieldLE_skip (by omega), fieldLE_skip (by omega), fieldLE_skip (by omega), fieldLE_leBytes]
  · rw [fieldLE_skip (by omega), fieldLE_skip (by omega), fieldLE_skip (by omega), fieldLE_skip (by omega),
      fieldLE_leBytes_last]

section
variable {h : TchHdr} (ht : h.typ < 16) (hst : h.status < 256) (hg : h.tag < 4096) (hl : h.len < 8192)
include ht hst hg hl

theorem hdrWord_lt : hdrWord h < 256 ^ 8 := by
  rw [hdrWord, b2n]
  split <;> omega

theorem bits_hdrWord : bits (hdrWord h) 0 4 = h.typ ∧ bits (hdrWord h) 8 8 = h.status ∧ bits (hdrWord h) 16 12 = h.tag ∧
    bits (hdrWord h) 32 13 = h.len ∧ bit (hdrWord h) 4 = h.ordered := by
  simp only [bits, bit, hdrWord, b2n]
  cases h.ordered
  · refine ⟨?_, ?_, ?_, ?_, ?_⟩
    · simp; omega
    · simp; omega
    · simp; omega
    · simp; omega
    · rw [beq_eq_false_iff_ne]
      simp; omega
  · refine ⟨?_, ?_, ?_, ?_, ?_⟩
    · simp; omega
    · simp; omega
    · simp; omega
    · simp; omega
    · rw [beq_iff_eq]
      simp; omega

theorem readHdr_hdrBytes (data : List Byte) (ha : h.addr < 2 ^ 64) (hv : h.value < 2 ^ 64) (hx : h.aux < 2 ^ 32) :
    readHdr (hdrBytes h data) = h := by
  obtain ⟨f0, f8, f16, -, f28⟩ := hdrBytes_fields h data
  obtain ⟨b0, b8, b16, b32, b4⟩ := bits_hdrWord ht hst hg hl
  unfold readHdr
  dsimp only
  rw [f0, f8, f16, f28, Nat.mod_eq_of_lt (hdrWord_lt ht hst hg hl), Nat.mod_eq_of_lt (a := h.addr) (by omega),
    Nat.mod_eq_of_lt (a := h.value) (by omega), Nat.mod_eq_of_lt (a := h.aux) (by omega), b0, b8, b16, b32, b4]

end

theorem dcrcOk_hdrBytes (h : TchHdr) {data : List Byte} (hd : data ≠ []) : dcrcOk (hdrBytes h data) data = true := by
  obtain ⟨-, -, -, f24, -⟩ := hdrBytes_fields h data
  rw [dcrcOk, f24, if_neg hd, Nat.mod_eq_of_lt (show crc32c data < 256 ^ 4 from crc32c_lt data), beq_self_eq_true]

/-- Settles O52: what each event of an accelerator link and each port command comes to. -/
theorem acceleratorTransactions : Obligations.AcceleratorTransactions := by
  unfold Obligations.AcceleratorTransactions
  refine ⟨?flits, ?requests, forwardTch_spec, ?pushes, ?signals, ?responses, ?timeouts, fun k d st data s => endRequest_ends k d st data s,
    ?training, ?loss, ?bind, ?ctl, ?headers⟩
  case flits =>
    intro k bs s hh hd hs hk hup hlen
    exact ⟨exec_flitReceive_damaged hh hd hk hup hlen, exec_flitReceive_outOfSequence hh hd hk hup hlen hs,
      exec_flitReceive_idle hh hd hk hup hlen⟩
  case requests =>
    intro k hdr d s hk hup p hp ht data h u
    simp only [List.mem_cons, List.not_mem_nil, or_false] at hp
    obtain rfl | rfl | rfl := hp
    · exact request_spec (typ := 1) (congrArg (ends s) (takeTch_runs hk hup ht _)) ht (.inl rfl)
    · exact request_spec (typ := 2) (congrArg (ends s) (takeTch_runs hk hup ht _)) ht (.inr (.inl rfl))
    · exact request_spec (typ := 3) (congrArg (ends s) (takeTch_runs hk hup ht _)) ht (.inr (.inr rfl))
  case pushes => exact fun k hdr data s v st hk hup ht hb hl hp hv => exec_tchReducePush hk hup ht hb hl hp hv
  case signals =>
    intro k hdr s hk hup ht hb hl h data u part
    exact ⟨exec_doorbell_rings hk hup ht hb hl, fun j h2 hr hj hj8 hjk hp hjup => exec_user_sends hk hup ht hb hl h2 hr hj hj8 hjk hp hjup,
      exec_signal_held hk hup ht hb hl⟩
  case responses =>
    intro k hdr data s d hk hup ht hf
    have hf' : (aport (tchTaken k hdr data s) k).devReqs.find? (fun d => d.tag == (readHdr hdr).tag) = some d := by
      rw [aport_tchTaken.2.2, hf]
    rw [exec_tchResponse hk hup ht]
    refine ⟨fun hd => ?_, fun hd hp => ?_⟩
    · rw [takeResponseTch_late hf' hd]
      rfl
    · rw [takeResponseTch_ends hf' hd hp]
      refine ⟨fun hbad => ?_, fun hb hdat hz => ?_⟩
      · rw [tchStatus_bad hbad]
        rfl
      · rw [tchStatus_ok hb hdat hz]
        rfl
  case timeouts => exact fun k tag s d hf hp ht => exec_accTmoExpiry hf hp ht
  case training =>
    intro k x s hs ho hc
    exact ⟨exec_trainingStep_next hs ho, exec_trainingStep_up ho hc, exec_trainingOverrun hs ho hc⟩
  case loss =>
    intro k s hh hd hs hn
    exact ⟨exec_tchLinkLoss hh hn, exec_tchRetrainRetry hs⟩
  case bind =>
    intro c s k hs ha hk
    exact ⟨exec_aportBind_held hs hk ha, exec_aportBind_binds hs hk ha⟩
  case ctl =>
    intro c s k hh hd hs ha hk
    refine ⟨exec_aportCtl_held hs hk hh hd ha, fun hb hp => ⟨fun hop hst => ?_, fun hop hst => ?_, ?_, ?_⟩⟩
    · exact exec_aportCtl_done hs hk hh hd ha hb hp (.inl ⟨hop, hst⟩)
    · exact exec_aportCtl_done hs hk hh hd ha hb hp (.inr ⟨hop, hst⟩)
    · exact exec_aportCtl_disables hs hk hh hd ha hb hp
    · exact fun p hp' hop hst => exec_aportCtl_trains hs hk hh hd ha hb hp hp' hop hst
  case headers =>
    intro h data ht hst hg hl ha hv hx
    exact ⟨readHdr_hdrBytes ht hst hg hl data ha hv hx, hdrBytes_length h data, dcrcOk_hdrBytes h⟩

end Sys2Proof.Machine
end

section
/-! PROOFS. The counter commands: snapshots, profiles, the partition's own counters, clearing (R493 to R503). -/

namespace Sys2Proof.Machine

theorem firstFail_pair {α : Type} {a b : Bool × α} (ha : a.1 = false) (hb : b.1 = false) : ∀ e ∈ [a, b], e.1 = false := by
  simp [ha, hb]

theorem firstFail_single {α : Type} {a : Bool × α} (ha : a.1 = false) : ∀ e ∈ [a], e.1 = false := by
  simp [ha]

/-- What a command's write of its result to the issuer's buffer completes with. -/
theorem complete_touches_undisturbed (c : Cmd) (st : Status) (res : List Nat) (unit : Nat) {s t : State} (h : Undisturbed s t) :
    Undisturbed s (complete c st res unit t) := h.trans (complete_undisturbed c st res unit t)

/-! ## CNT_SNAPSHOT (R497, R500) -/

theorem counterRecord_length (s : State) (u round : Nat) (phase : Bool) : (counterRecord s u round phase).length = 128 := by
  simp only [counterRecord, List.length_append, leBytes_length, List.length_flatMap, List.map_const', List.length_range,
    List.sum_replicate, smul_eq_mul]

theorem counterRecords_ne_nil {us : List Nat} (h : us ≠ []) (s : State) (round : Nat) (phase : Bool) :
    (us.flatMap fun u => counterRecord s u round phase) ≠ [] := by
  intro he
  obtain ⟨u, hu⟩ := List.exists_mem_of_ne_nil us h
  have hn := List.flatMap_eq_nil_iff.mp he u hu
  have hl := counterRecord_length s u round phase
  rw [hn] at hl
  cases hl

section
variable {c : Cmd} {s : State} {us : List Nat} (hus : us = selectedUnits s (cntClassMask c) (cntDieMask c))
  (hb : classBad c = false)

/-- A snapshot's round begins. -/
def roundBegun (s : State) : State := { s with cnt := { s.cnt with rounds := s.cnt.rounds + 1 } }

/-- The records of a snapshot are written, and the command completes. -/
def snapshotWrites (c : Cmd) (unit : Nat) (us : List Nat) (bs : List Byte) (n : Nat) (s : State) : State :=
  let (s, st) := if bs = [] then (s, Status.ok) else bufWrite unit c.part (cntCtx c) (cntPa c) bs s
  complete c st (if st = .ok then [us.length, us.length, n] else []) unit s

include hus hb

theorem exec_cntSnapshot (ha : admits descCntSnapshot c s) (hl : cmdLength c % 128 = 0) : exec (.cntSnapshot c) s =
    ends s (if cmdLength c < 128 * us.length then complete c .bounds [0, us.length] (procUnit s c) (begun c s)
      else snapshotWrites c (procUnit s c) us (us.flatMap fun u => counterRecord s u (s.cnt.rounds + 1).toNat false)
        (s.cnt.rounds + 1).toNat (roundBegun (begun c s))) := by
  subst hus
  exact runCmd_passes descCntSnapshot c _ s _ ha.1 ha.2 (firstFail_pair hb (by simp [hl]))

theorem exec_cntSnapshot_short (ha : admits descCntSnapshot c s) (hl : cmdLength c % 128 = 0)
    (h : cmdLength c < 128 * us.length) (hs : settled s) :
    exec (.cntSnapshot c) s = .next (complete c .bounds [0, us.length] (procUnit s c) (begun c s)) := by
  rw [exec_cntSnapshot hus hb ha hl, if_pos h]
  exact ends_undisturbed hs (complete_touches_undisturbed _ _ _ _ (begun_undisturbed c s))

theorem exec_cntSnapshot_writes {v : State} (ha : admits descCntSnapshot c s) (hl : cmdLength c % 128 = 0) (hne : us ≠ [])
    (h : 128 * us.length ≤ cmdLength c) (hw : bufWrite (procUnit s c) c.part (cntCtx c) (cntPa c)
      (us.flatMap fun u => counterRecord s u (s.cnt.rounds + 1).toNat false)
      { begun c s with cnt := { s.cnt with rounds := s.cnt.rounds + 1 } } = (v, .ok)) :
    exec (.cntSnapshot c) s = .next (ended s (complete c .ok [us.length, us.length, (s.cnt.rounds + 1).toNat]
      (procUnit s c) v)) := by
  have hbs := counterRecords_ne_nil hne s (s.cnt.rounds + 1).toNat false
  have hw' : snapshotWrites c (procUnit s c) us (us.flatMap fun u => counterRecord s u (s.cnt.rounds + 1).toNat false)
      (s.cnt.rounds + 1).toNat (roundBegun (begun c s)) =
        complete c .ok [us.length, us.length, (s.cnt.rounds + 1).toNat] (procUnit s c) v := by
    rw [snapshotWrites, if_neg hbs, show bufWrite _ _ _ _ _ (roundBegun (begun c s)) = _ from hw]
    rfl
  rw [exec_cntSnapshot hus hb ha hl, if_neg (by omega), hw']
  rfl

/-! ## CNT_PROFILE (R501) -/

/-- The profile a command starts. -/
def profileOf (c : Cmd) (s : State) : Profile :=
  { part := c.part, classMask := BitVec.ofNat 12 (cntClassMask c), dieMask := BitVec.ofNat 40 (cntDieMask c)
    bufCtx := cntCtx c, bufPa := cntPa c, periodUs := param c 18 2 0 16, log2 := param c 20 1 0 5, last := frameTime s }

/-- Whether a command's profile is out of range. -/
def profileBad (c : Cmd) (n : Nat) : Bool :=
  (decide (param c 18 2 0 16 ≠ 0) && decide (param c 18 2 0 16 < 10)) || decide (param c 20 1 0 5 < 7) ||
    decide (param c 20 1 0 5 > 20) || decide (n > 2 ^ param c 20 1 0 5)

omit hb in
theorem exec_cntProfile_eq : exec (.cntProfile c) s =
    runCmd descCntProfile c [(classBad c, .opcode), (profileBad c us.length, .lenRange)] s fun s =>
      complete c .ok [us.length] (procUnit s c)
        { s with cnt := { s.cnt with prof := if param c 18 2 0 16 = 0 then none else some (profileOf c s), head := 0, tail := 0 } } := by
  subst hus
  rfl

theorem exec_cntProfile (ha : admits descCntProfile c s) (hs : settled s)
    (hp : param c 18 2 0 16 = 0 ∨ 10 ≤ param c 18 2 0 16) (h7 : 7 ≤ param c 20 1 0 5) (h20 : param c 20 1 0 5 ≤ 20)
    (hn : us.length ≤ 2 ^ param c 20 1 0 5) : ∃ r,
      exec (.cntProfile c) s = .next (complete c .ok [us.length] (procUnit s c)
        { begun c s with cnt := { s.cnt with prof := r, head := 0, tail := 0 } }) ∧
      (param c 18 2 0 16 = 0 → r = none) ∧ (param c 18 2 0 16 ≠ 0 → ∃ p, r = some p ∧
        p.periodUs = param c 18 2 0 16 ∧ p.log2 = param c 20 1 0 5 ∧ p.part = c.part ∧ p.last = frameTime s) := by
  have hbad : profileBad c us.length = false := by
    unfold profileBad
    obtain hp | hp := hp
    · simp [hp, h7, h20, hn]
    · have h0 : ¬param c 18 2 0 16 < 10 := by omega
      simp [h0, h7, h20, hn]
  refine ⟨if param c 18 2 0 16 = 0 then none else some (profileOf c s), ?_, fun h => if_pos h, fun h =>
    ⟨profileOf c s, if_neg h, rfl, rfl, rfl, rfl⟩⟩
  rw [exec_cntProfile_eq hus, runCmd_effect _ _ hs ha (firstFail_pair hb hbad)]
  · rfl
  · refine complete_touches_undisturbed _ _ _ _ ?_
    exact ⟨rfl, rfl, rfl, rfl, rfl, rfl⟩

theorem exec_cntProfile_refused (ha : admits descCntProfile c s) (hs : settled s)
    (h : (param c 18 2 0 16 ≠ 0 ∧ param c 18 2 0 16 < 10) ∨ param c 20 1 0 5 < 7 ∨
      20 < param c 20 1 0 5 ∨ 2 ^ param c 20 1 0 5 < us.length) :
    exec (.cntProfile c) s = .next (complete c .lenRange [] (procUnit s c) (begun c s)) := by
  have hbad : profileBad c us.length = true := by
    unfold profileBad
    simp only [Bool.or_eq_true, Bool.and_eq_true, decide_eq_true_eq]
    obtain h | h | h | h := h
    · exact .inl (.inl (.inl h))
    · exact .inl (.inl (.inr h))
    · exact .inl (.inr h)
    · exact .inr h
  rw [exec_cntProfile_eq hus]
  exact runCmd_refuses _ _ hs ha (by rw [hb, hbad]; rfl)

/-! ## CNT_CLEAR (R500) -/

/-- The selected banks are zero. -/
def banksCleared (us : List Nat) (s : State) : State :=
  { s with cnt := { s.cnt with bank := s.cnt.bank.filter fun e => !us.contains (e.1 / 16) } }

omit hus hb in
theorem unitCount_banksCleared (us : List Nat) (s : State) (u : Nat) {i : Nat} (hi : i < 16) :
    unitCount (banksCleared us s) u i = if u ∈ us then 0 else unitCount s u i := by
  have hdiv : (u * 16 + i) / 16 = u := by omega
  have hbank : tget 0 (banksCleared us s).cnt.bank (u * 16 + i) = if u ∈ us then 0 else tget 0 s.cnt.bank (u * 16 + i) := by
    refine (tget_filter_fst (0 : Word64) (fun k => !us.contains (k / 16)) s.cnt.bank (u * 16 + i)).trans ?_
    rw [hdiv]
    by_cases hu : u ∈ us <;> simp [hu]
  unfold unitCount
  rw [hbank]
  split
  · rw [ite_self]
  · rfl

theorem exec_cntClear (ha : admits descCntClear c s) (hs : settled s) : ∃ t, exec (.cntClear c) s = .next t ∧
    t = complete c .ok [] (procUnit s c) { begun c s with cnt := { s.cnt with
      bank := s.cnt.bank.filter fun e => !us.contains (e.1 / 16) } } ∧
    ∀ u i, i < 16 → unitCount t u i = if u ∈ us then 0 else unitCount s u i := by
  subst hus
  refine ⟨_, ?_, rfl, fun u i hi => ?_⟩
  · refine (runCmd_effect _ _ hs ha (firstFail_single hb) ?_).trans rfl
    refine complete_touches_undisturbed _ _ _ _ ?_
    exact ⟨rfl, rfl, rfl, rfl, rfl, rfl⟩
  · have hc : ∀ v : State, (complete c .ok [] (procUnit s c) v).cnt = v.cnt := fun v => by
      rw [complete, completeRef_frame]
    rw [← unitCount_banksCleared _ s u hi]
    unfold unitCount
    rw [hc]
    rfl

end

/-! ## Profile rounds and the partition's counters (R501, R503) -/

section
variable {s : State}

theorem exec_profileRound_none (h : s.cnt.prof = none) (hs : settled s) : exec .profileRound s = .next s := by
  have he : profileRound s = s := by
    unfold profileRound
    rw [h]
  exact (congrArg (ends s) he).trans (ends_undisturbed hs (.refl s))

variable {p : Profile} {us : List Nat} (hp : s.cnt.prof = some p)

theorem exec_profileRound_early (hp : s.cnt.prof = some p) (h : (frameTime s - p.last).toNat < p.periodUs * 1000)
    (hs : settled s) : exec .profileRound s = .next s := by
  have he : profileRound s = s := by
    unfold profileRound
    rw [hp]
    exact if_pos h
  exact (congrArg (ends s) he).trans (ends_undisturbed hs (.refl s))

/-- A period of a profile has passed. -/
def periodPassed (p : Profile) (s : State) : State :=
  { s with cnt := { s.cnt with prof := some { p with last := p.last + BitVec.ofNat 64 (p.periodUs * 1000) } } }

/-- A round is written whole. -/
def roundWritten (p : Profile) (us : List Nat) (s : State) : State :=
  let t := writeRound p (s.cnt.rounds + 1).toNat 0 us (roundBegun s)
  { t with cnt := { t.cnt with tail := t.cnt.tail + BitVec.ofNat 21 us.length } }

variable (hus : us = selectedUnits s p.classMask.toNat p.dieMask.toNat)
  (hlate : p.periodUs * 1000 ≤ (frameTime s - p.last).toNat)
include hp hus hlate

theorem profileRound_late : profileRound s = if (s.cnt.tail - s.cnt.head).toNat + us.length > 2 ^ p.log2
    then { periodPassed p s with cnt := { (periodPassed p s).cnt with skip := satInc s.cnt.skip, profSkipSeen := true } }
    else roundWritten p us (periodPassed p s) := by
  subst hus
  unfold profileRound
  rw [hp]
  exact if_neg (by omega)

theorem exec_profileRound_skips (h : 2 ^ p.log2 < (s.cnt.tail - s.cnt.head).toNat + us.length) (hs : settled s) :
    exec .profileRound s = .next { s with cnt := { s.cnt with
      prof := some { p with last := p.last + BitVec.ofNat 64 (p.periodUs * 1000) }, skip := satInc s.cnt.skip
      profSkipSeen := true } } := by
  refine (congrArg (ends s) ((profileRound_late hp hus hlate).trans (if_pos h))).trans (ends_undisturbed hs ?_)
  exact ⟨rfl, rfl, rfl, rfl, rfl, rfl⟩

omit hp hus hlate in
theorem writeRound_notes (p : Profile) (round k : Nat) (us : List Nat) (s : State) : Notes s (writeRound p round k us s) := by
  induction us generalizing k s with
  | nil => exact .refl s
  | cons u r ih =>
    rw [writeRound]
    exact (bufWrite_notes _ _ _ _ _ s).trans (ih _ _)

theorem exec_profileRound_writes (h : (s.cnt.tail - s.cnt.head).toNat + us.length ≤ 2 ^ p.log2) :
    ∃ t, exec .profileRound s = .next t ∧ t.cnt.tail = s.cnt.tail + BitVec.ofNat 21 us.length ∧
      t.cnt.rounds = s.cnt.rounds + 1 ∧ t.cnt.head = s.cnt.head ∧
      t.cnt.prof = some { p with last := p.last + BitVec.ofNat 64 (p.periodUs * 1000) } := by
  have hn := (writeRound_notes p (s.cnt.rounds + 1).toNat 0 us (roundBegun (periodPassed p s))).cnt
  have he := (ended_notes s (roundWritten p us (periodPassed p s))).cnt
  refine ⟨ended s (roundWritten p us (periodPassed p s)), congrArg (ends s) ((profileRound_late hp hus hlate).trans
    (if_neg (by omega))), ?_, ?_, ?_, ?_⟩
  · rw [he]
    have htail : (writeRound p (s.cnt.rounds + 1).toNat 0 us (roundBegun (periodPassed p s))).cnt.tail = s.cnt.tail :=
      congrArg (·.tail) hn
    exact congrArg (· + BitVec.ofNat 21 us.length) htail
  · rw [he]
    exact congrArg (·.rounds) hn
  · rw [he]
    exact congrArg (·.head) hn
  · rw [he]
    exact congrArg (·.prof) hn

end

/-- The bytes of a partition's eight counters. -/
def partCounterBytes (s : State) (p : Nat) : List Byte := (List.range 8).flatMap fun i => leBytes 8 (partCount s p i).toNat

theorem partCounterBytes_begun (c : Cmd) (s : State) (p : Nat) : partCounterBytes (begun c s) p = partCounterBytes s p := by
  unfold partCounterBytes partCount
  rfl

/-- The issuer's counters are written, and the command completes. -/
def partReadWrites (c : Cmd) (unit : Nat) (bs : List Byte) (s : State) : State :=
  let (s, st) := bufWrite unit c.part (cntCtx c) (cntPa c) bs s
  complete c st [] unit s

theorem exec_cntPartRead_eq (c : Cmd) (s : State) : exec (.cntPartRead c) s =
    runCmd descCntPartRead c [(cmdLength c != 64, .lenRange)] s fun t =>
      partReadWrites c (ownerUnit s (.admin c.part)) (partCounterBytes t c.part) t := rfl

theorem exec_cntPartRead {c : Cmd} {s v : State} (ha : admits descCntPartRead c s) (hl : cmdLength c = 64)
    (hw : bufWrite (ownerUnit s (.admin c.part)) c.part (cntCtx c) (cntPa c) (partCounterBytes s c.part) (begun c s) = (v, .ok)) :
    exec (.cntPartRead c) s = .next (ended s (complete c .ok [] (ownerUnit s (.admin c.part)) v)) := by
  have hdone : partReadWrites c (ownerUnit s (.admin c.part)) (partCounterBytes (begun c s) c.part) (begun c s) =
      complete c .ok [] (ownerUnit s (.admin c.part)) v := by
    rw [partCounterBytes_begun, partReadWrites, hw]
  rw [exec_cntPartRead_eq, runCmd_passes _ _ _ _ _ ha.1 ha.2 (firstFail_single (by simp [hl]))]
  exact congrArg (ends s) hdone

end Sys2Proof.Machine
end

section
/-! PROOFS. Heartbeats, run modes, the wait-for detector and crash dumps (R476 to R480, R489, R490). -/

namespace Sys2Proof.Machine

/-- A change of the hang state that leaves the package reset as it was shows on no pin. -/
theorem ends_hang {s t : State} (hs : settled s) (hsaf : t.saf = s.saf) (hp : t.pins = s.pins) (hf : t.fw = s.fw)
    (hg : t.hang.pkgNeeded = s.hang.pkgNeeded) (hq : t.pending = s.pending) (hc : t.time = s.time) : ends s t = .next t := by
  rw [ends, ended_settled s t hs (by rw [hsaf]; exact hs.1) hp (by rw [hf]) hg (by rw [hsaf]) hq hc]

/-- A command whose effect shows on no pin leaves exactly its effect. -/
theorem ends_hang_complete {s t : State} {c : Cmd} {st : Status} {res : List Nat} {unit : Nat} (hs : settled s)
    (hsaf : t.saf = s.saf) (hp : t.pins = s.pins) (hf : t.fw = s.fw) (hg : t.hang.pkgNeeded = s.hang.pkgNeeded)
    (hq : t.pending = s.pending) (hc : t.time = s.time) :
    ends s (complete c st res unit t) = .next (complete c st res unit t) := by
  have h := complete_undisturbed c st res unit t
  exact ends_hang hs (h.saf.trans hsaf) (h.pins.trans hp) (h.fw.trans hf) ((congrArg (·.pkgNeeded) h.hang).trans hg)
    (h.pending.trans hq) (h.time.trans hc)

/-! ## Heartbeats (R476, R477) -/

theorem bufWrite_hang (src p ctx pa : Nat) (bs : List Byte) (s : State) : (bufWrite src p ctx pa bs s).1.hang = s.hang :=
  congrArg (·.hang) (bufWrite_touches src p ctx pa bs s)

/-- A heartbeat's list is written, and the command completes. -/
def beatWrites (c : Cmd) (n : Nat) (bs : List Byte) (s : State) : State :=
  let (s, st) := if bs = [] then (s, Status.ok)
    else bufWrite frameServices c.part (param c 22 2 0 16) (fieldLE c.packet 24 8) bs s
  complete c st (if st = .ok then [s.hang.hbCount.toNat, n] else []) frameServices s

theorem exec_heartbeat_eq (c : Cmd) (s : State) : exec (.heartbeat c) s =
    runCmd descHeartbeat c [(cmdLength c % 2 != 0, .lenRange)] s fun t =>
      beatWrites c (stalledUnits t).length (((stalledUnits t).take (cmdLength c / 2)).flatMap (leBytes 2)) (beat t) := rfl

theorem beat_hang (s : State) : (beat s).hang.hbCount = s.hang.hbCount + 1 ∧ (beat s).hang.hbAt = frameTime s ∧
    (beat s).hang.itemsAt = s.hang.items := ⟨rfl, rfl, rfl⟩

section
variable {c : Cmd} {s v : State} {bs : List Byte} (ha : admits descHeartbeat c s) (hl : cmdLength c % 2 = 0)
  (hbs : bs = ((stalledUnits s).take (cmdLength c / 2)).flatMap (leBytes 2))
  (hw : bs = [] ∧ v = beat (begun c s) ∨ bs ≠ [] ∧
    bufWrite frameServices c.part (param c 22 2 0 16) (fieldLE c.packet 24 8) bs (beat (begun c s)) = (v, .ok))

include hw in
/-- The list changes nothing of the beat. -/
theorem heartbeat_hang : v.hang = (beat (begun c s)).hang := by
  obtain ⟨-, rfl⟩ | ⟨-, hw⟩ := hw
  · rfl
  · have h := bufWrite_hang frameServices c.part (param c 22 2 0 16) (fieldLE c.packet 24 8) bs (beat (begun c s))
    rw [hw] at h
    exact h

include ha hl hbs hw

theorem exec_heartbeat : exec (.heartbeat c) s = .next (ended s (complete c .ok
    [(s.hang.hbCount + 1).toNat, (stalledUnits s).length] frameServices v)) := by
  have hv : v.hang.hbCount = s.hang.hbCount + 1 := congrArg (·.hbCount) (heartbeat_hang hw)
  have hdone : beatWrites c (stalledUnits s).length bs (beat (begun c s)) =
      complete c .ok [(s.hang.hbCount + 1).toNat, (stalledUnits s).length] frameServices v := by
    rw [← hv, beatWrites]
    obtain ⟨he, rfl⟩ | ⟨he, hw⟩ := hw
    · rw [if_pos he]
      rfl
    · rw [if_neg he, hw]
      rfl
  rw [exec_heartbeat_eq, runCmd_passes _ _ _ _ _ ha.1 ha.2 (firstFail_single (by simp [hl])), ← hdone, hbs]
  rfl

theorem exec_heartbeat_counts : ∃ t, exec (.heartbeat c) s = .next t ∧
    t.hang.hbCount = s.hang.hbCount + 1 ∧ t.hang.hbAt = frameTime s ∧ t.hang.itemsAt = s.hang.items := by
  have hh := heartbeat_hang hw
  have hc : (complete c .ok [(s.hang.hbCount + 1).toNat, (stalledUnits s).length] frameServices v).hang = v.hang :=
    (complete_undisturbed _ _ _ _ v).hang
  refine ⟨_, exec_heartbeat ha hl hbs hw, ?_⟩
  rw [ended_hang, hc, hh]
  exact beat_hang (begun c s)

end

theorem exec_hbPeriodExpiry (s : State) (hs : settled s) (hr : s.fw.ready = true) : exec .hbPeriodExpiry s = .next
    (if (frameTime s - s.hang.hbAt).toNat < s.hang.hbPeriodMs.toNat * 1000000 then s
      else { s with hang := { s.hang with hbMissed := true } }) := by
  have he : hbExpiry s = if (frameTime s - s.hang.hbAt).toNat < s.hang.hbPeriodMs.toNat * 1000000 then s
      else { s with hang := { s.hang with hbMissed := true } } := by
    unfold hbExpiry
    rw [hr]
    simp only [Bool.not_true, Bool.false_or, decide_eq_true_eq]
    rfl
  refine (congrArg (ends s) he).trans ?_
  split
  · exact ends_undisturbed hs (.refl s)
  · exact ends_hang hs rfl rfl rfl rfl rfl rfl

/-! ## Modes (R478) -/

section
variable {c : Cmd} {s : State} (hs : settled s) (ha : admits descHangMode c s) (h3 : param c 16 1 0 2 ≠ 3)
include hs ha h3

theorem exec_hangMode_sets (hr : recovering s = false) : exec (.hangMode c) s = .next (complete c .ok [] frameServices
    { begun c s with hang := { s.hang with mode := BitVec.ofNat 2 (param c 16 1 0 2) } }) := by
  refine (runCmd_passes descHangMode c _ s _ ha.1 ha.2 (firstFail_single (by simp [h3]))).trans ?_
  have hr' : recovering (setStarted true c s) = false := hr
  dsimp only
  rw [hr', if_neg Bool.false_ne_true]
  exact ends_hang_complete hs rfl rfl rfl rfl rfl rfl

theorem exec_hangMode_keeps (hr : recovering s = true) : exec (.hangMode c) s = .next (complete c .ok [] frameServices
    { begun c s with hang := { s.hang with prevMode := BitVec.ofNat 2 (param c 16 1 0 2) } }) := by
  refine (runCmd_passes descHangMode c _ s _ ha.1 ha.2 (firstFail_single (by simp [h3]))).trans ?_
  have hr' : recovering (setStarted true c s) = true := hr
  dsimp only
  rw [hr', if_pos rfl]
  exact ends_hang_complete hs rfl rfl rfl rfl rfl rfl

end

/-! ## The wait-for detector (R479, R480) -/

section
variable {s : State}

theorem exec_wfdCollect_waits (h : runMode s = 0 ∨ (frameTime s - s.hang.wfdAt).toNat < s.hang.wfdPeriodUs.toNat * 1000)
    (hs : settled s) : exec .wfdCollect s = .next s := by
  have he : wfdCollect s = s := if_pos h
  exact (congrArg (ends s) he).trans (ends_undisturbed hs (.refl s))

/-- An edge of the graph, with the number of collections in a row that have seen it. -/
def edgeSeen (s : State) (e : WfNode × WfNode) : WfEdge :=
  { waiter := e.1, holder := e.2
    seen := (match s.hang.edges.find? fun x => x.waiter == e.1 && x.holder == e.2 with | some x => x.seen | none => 0) + 1 }

/-- The graph as it is collected. -/
def graphCollected (s : State) : HangState := { s.hang with edges := (collectEdges s).map (edgeSeen s), wfdAt := frameTime s }

/-- A collection keeps the graph, and the first cycle it has found. -/
theorem wfdCollect_collects (hm : runMode s ≠ 0)
    (hp : s.hang.wfdPeriodUs.toNat * 1000 ≤ (frameTime s - s.hang.wfdAt).toNat) :
    wfdCollect s = setHang (graphCollected s) s ∨ s.hang.cycleSeen = false ∧ ∃ w, wfdCollect s =
      setHang { graphCollected s with cycleSeen := true, wfdCycle := w, wfdTime := frameTime s } s := by
  unfold wfdCollect
  dsimp only
  rw [if_neg (by omega)]
  split
  · next w hw =>
    refine .inr ⟨?_, _, rfl⟩
    cases hc : s.hang.cycleSeen with
    | false => rfl
    | true =>
      rw [hc] at hw
      cases hw
  · exact .inl rfl

theorem map_edgeSeen (s : State) (es : List (WfNode × WfNode)) :
    (es.map (edgeSeen s)).map (fun e => (e.waiter, e.holder)) = es := by
  rw [List.map_map]
  exact List.map_id es

theorem exec_wfdCollect (hm : runMode s ≠ 0)
    (hp : s.hang.wfdPeriodUs.toNat * 1000 ≤ (frameTime s - s.hang.wfdAt).toNat) : ∃ t,
      exec .wfdCollect s = .next t ∧ t.hang.wfdAt = frameTime s ∧
      t.hang.edges.map (fun e => (e.waiter, e.holder)) = collectEdges s ∧
      (s.hang.cycleSeen = true → t.hang.wfdCycle = s.hang.wfdCycle ∧ t.hang.cycleSeen = true) := by
  have hedges := map_edgeSeen s (collectEdges s)
  obtain h | ⟨hseen, w, h⟩ := wfdCollect_collects hm hp
  · refine ⟨_, congrArg (ends s) h, ?_, ?_, fun hc => ⟨?_, ?_⟩⟩ <;> rw [ended_hang]
    · rfl
    · exact hedges
    · rfl
    · exact hc
  · refine ⟨_, congrArg (ends s) h, ?_, ?_, fun hc => ?_⟩
    · rw [ended_hang]
      rfl
    · rw [ended_hang]
      exact hedges
    · rw [hseen] at hc
      cases hc

end

/-! ## Crash dumps (R489, R490) -/

section
variable {s : State} {d : DumpRun} {x : Nat} {rest : List Nat}

/-- The next unit is read, where it can be. -/
theorem dumpGoesOn_reads (hl : d.left = x :: rest) (hp : diePresent s (dieOf x) = true) (hh : tget false s.hang.hung x = false)
    (hr : inReset s x = false) : dumpGoesOn d s = setHang { s.hang with dump := some { d with readAt := frameTime s } } s := by
  unfold dumpGoesOn
  rw [skipUnits, hl]
  dsimp only
  rw [hp, hh, hr]
  rfl

end

section
variable {c : Cmd} {s : State}

theorem exec_hangDump_eq (c : Cmd) (s : State) : exec (.hangDump c) s = runOrdered descHangDump c
    (s.hang.dump.isSome || (heldBefore c s).any fun x => fieldLE x.packet 0 2 == 0x0934)
    [(!dumpAllowed s (param c 16 1 0 1 == 1), .busy)] s (startDump 0 (some (cmdRef c)) none) := rfl

variable (ha : admits descHangDump c s)
include ha

theorem exec_hangDump_held (h : s.hang.dump ≠ none ∨ (heldBefore c s).any (fun x => fieldLE x.packet 0 2 == 0x0934) = true)
    (hs : settled s) : exec (.hangDump c) s = .next (holdCmd c s) := by
  have hb : (s.hang.dump.isSome || (heldBefore c s).any fun x => fieldLE x.packet 0 2 == 0x0934) = true := by
    rw [Bool.or_eq_true, Option.isSome_iff_ne_none]
    exact h
  rw [exec_hangDump_eq, hb]
  exact runOrdered_holds _ _ hs ha

variable (hn : s.hang.dump = none) (hb : (heldBefore c s).any (fun x => fieldLE x.packet 0 2 == 0x0934) = false)
include hn hb

omit ha in
theorem exec_hangDump_turn : exec (.hangDump c) s = runOrdered descHangDump c false
    [(!dumpAllowed s (param c 16 1 0 1 == 1), .busy)] s (startDump 0 (some (cmdRef c)) none) := by
  rw [exec_hangDump_eq, hn, hb]
  rfl

theorem exec_hangDump_starts (hd : dumpAllowed s (param c 16 1 0 1 == 1) = true) :
    ∃ t, exec (.hangDump c) s = .next t ∧ t = ended s (startDump 0 (some (cmdRef c)) none (turn c s)) ∧
      ∀ u rest, dumpList = u :: rest → diePresent s (dieOf u) = true → tget false s.hang.hung u = false →
        inReset s u = false → t.hang.dump = some { cause := 0, mode := runMode s, start := frameTime s, left := dumpList
                                                   readAt := frameTime s, cmd := some (cmdRef c) } := by
  refine ⟨_, ?_, rfl, fun u rest hl hp hh hr => ?_⟩
  · rw [exec_hangDump_turn hn hb]
    exact runOrdered_passes descHangDump c _ s _ ha.1 ha.2 (firstFail_single (by simp [hd]))
  · have hgo := dumpGoesOn_reads (s := turn c s) (x := u) (rest := rest)
      (d := { cause := 0, mode := runMode s, start := frameTime s, left := dumpList, cmd := some (cmdRef c) }) hl hp hh hr
    have hstart : startDump 0 (some (cmdRef c)) none (turn c s) = _ := hgo
    rw [ended_hang, hstart]
    rfl

theorem exec_hangDump_refused (hd : dumpAllowed s (param c 16 1 0 1 == 1) = false) (hs : settled s) :
    exec (.hangDump c) s = .next (complete c .busy [] (procUnit s c) (turn c s)) := by
  rw [exec_hangDump_turn hn hb]
  exact runOrdered_refuses _ _ hs ha (by rw [hd]; rfl)

end

section
variable {s : State} {d : DumpRun} {u x : Nat} {rest : List Nat} (hd : s.hang.dump = some d) (hl : d.left = u :: x :: rest)
include hd hl

theorem exec_dumpUnitTimeout_early (h : (frameTime s - d.readAt).toNat < 10000) (hs : settled s) :
    exec .dumpUnitTimeout s = .next s := by
  have he : dumpTimeout s = s := by
    unfold dumpTimeout
    rw [hd]
    dsimp only
    rw [hl]
    exact if_pos h
  exact (congrArg (ends s) he).trans (ends_undisturbed hs (.refl s))

variable (hp : diePresent s (dieOf x) = true) (hh : tget false s.hang.hung x = false) (hr : inReset s x = false)
include hp hh hr

/-- The entry of a unit that has been read. -/
def dumpEntryOf (d : DumpRun) (u : Nat) (bs : List Byte) : DumpEntry :=
  { unit := u, status := 0, offset := 64 + 16 * dumpList.length + d.data.flatten.length, length := bs.length, crc := crc32c bs }

/-- A dump whose unit has been read. -/
def unitRead (d : DumpRun) (u : Nat) (left : List Nat) (bs : List Byte) : DumpRun :=
  { d with left := left, data := d.data ++ [bs], entries := d.entries ++ [dumpEntryOf d u bs] }

theorem exec_dumpUnitReadDone (bs : List Byte) : ∃ t d', exec (.dumpUnitReadDone bs) s = .next t ∧ t.hang.dump = some d' ∧
    d'.left = x :: rest ∧ d'.data = d.data ++ [bs.take 16384] ∧ ∃ e, d'.entries = d.entries ++ [e] ∧ e.unit = u ∧
      e.status = 0 ∧ e.length = (bs.take 16384).length ∧ e.crc = crc32c (bs.take 16384) := by
  have he : dumpRead bs s = dumpGoesOn (unitRead d u (x :: rest) (bs.take 16384)) s := by
    unfold dumpRead
    rw [hd]
    dsimp only
    rw [hl]
    rfl
  have hgo := dumpGoesOn_reads (s := s) (d := unitRead d u (x :: rest) (bs.take 16384)) rfl hp hh hr
  refine ⟨_, { unitRead d u (x :: rest) (bs.take 16384) with readAt := frameTime s },
    congrArg (ends s) (he.trans hgo), ?_, rfl, rfl,
    dumpEntryOf d u (bs.take 16384), rfl, rfl, rfl, rfl, rfl⟩
  rw [ended_hang]
  rfl

/-- A unit that does not answer in time is hung. -/
theorem exec_dumpUnitTimeout_hung (h : 10000 ≤ (frameTime s - d.readAt).toNat) (hx : x ≠ u) :
    ∃ t d', exec .dumpUnitTimeout s = .next t ∧ t.hang.dump = some d' ∧
      d'.left = x :: rest ∧ tget false t.hang.hung u = true ∧ d'.data = d.data ∧
      ∃ e, d'.entries = d.entries ++ [e] ∧ e.unit = u ∧ e.status = 2 := by
  have he : dumpTimeout s = dumpGoesOn { d with left := x :: rest, entries := d.entries ++ [noEntry u 2] } (markHung [u] s) := by
    unfold dumpTimeout
    rw [hd]
    dsimp only
    rw [hl]
    exact if_neg (by omega)
  have hhx : tget false (markHung [u] s).hang.hung x = false := (tget_tset_other false s.hang.hung true hx).trans hh
  have hgo := dumpGoesOn_reads (s := markHung [u] s)
    (d := { d with left := x :: rest, entries := d.entries ++ [noEntry u 2] }) rfl hp hhx hr
  refine ⟨_, { d with left := x :: rest, entries := d.entries ++ [noEntry u 2], readAt := frameTime s },
    congrArg (ends s) (he.trans hgo), ?_, rfl, ?_, rfl, noEntry u 2, rfl, rfl, rfl⟩
  · rw [ended_hang]
    rfl
  · rw [ended_hang]
    exact tget_tset_same false s.hang.hung u true

end

/-- What DUMP_COPY does with a dump that is kept. -/
def copyDump (c : Cmd) (s : State) : State :=
  if cmdLength c < s.hang.dumpTotal then complete c .bounds [s.hang.dumpTotal] (procUnit s c) s
  else
    match spoolRead frameServices 0 0x3F000000 s.hang.dumpTotal s with
    | (s, .ok, bs) =>
      let (s, st) := bufWrite frameServices c.part (param c 22 2 0 16) (fieldLE c.packet 24 8) bs s
      if st = .ok then complete c .ok [bs.length] frameServices (setHang { s.hang with dumpCopied := true } s)
      else complete c st [] frameServices s
    | (s, st, _) => complete c st [] frameServices s

section
variable {c : Cmd} {s : State} (ha : admits descDumpCopy c s)

theorem exec_dumpCopy_eq (c : Cmd) (s : State) :
    exec (.dumpCopy c) s = runCmd descDumpCopy c [(!s.hang.dumpValid, .busy)] s (copyDump c) := rfl

include ha

theorem exec_dumpCopy_none (hv : s.hang.dumpValid = false) (hs : settled s) :
    exec (.dumpCopy c) s = .next (complete c .busy [] (procUnit s c) (begun c s)) := by
  rw [exec_dumpCopy_eq]
  exact runCmd_refuses _ _ hs ha (by rw [hv]; rfl)

variable (hv : s.hang.dumpValid = true)
include hv

theorem exec_dumpCopy_runs : exec (.dumpCopy c) s = ends s (copyDump c (begun c s)) := by
  rw [exec_dumpCopy_eq]
  exact runCmd_passes _ _ _ _ _ ha.1 ha.2 (firstFail_single (by simp [hv]))

theorem exec_dumpCopy_short (h : cmdLength c < s.hang.dumpTotal) (hs : settled s) :
    exec (.dumpCopy c) s = .next (complete c .bounds [s.hang.dumpTotal] (procUnit s c) (begun c s)) := by
  rw [exec_dumpCopy_runs ha hv]
  refine (congrArg (ends s) (if_pos h)).trans (ends_undisturbed hs ?_)
  exact complete_touches_undisturbed _ _ _ _ (begun_undisturbed c s)

theorem exec_dumpCopy_copies {v w : State} {bs : List Byte} (h : s.hang.dumpTotal ≤ cmdLength c)
    (hr : spoolRead frameServices 0 0x3F000000 s.hang.dumpTotal (begun c s) = (v, .ok, bs))
    (hw : bufWrite frameServices c.part (param c 22 2 0 16) (fieldLE c.packet 24 8) bs v = (w, .ok)) :
    exec (.dumpCopy c) s = .next (ended s (complete c .ok [bs.length] frameServices
      { w with hang := { w.hang with dumpCopied := true } })) := by
  have he : copyDump c (begun c s) =
      complete c .ok [bs.length] frameServices { w with hang := { w.hang with dumpCopied := true } } := by
    refine (if_neg (Nat.not_lt.mpr h)).trans ?_
    rw [show spoolRead frameServices 0 0x3F000000 (begun c s).hang.dumpTotal (begun c s) = _ from hr]
    dsimp only
    rw [hw]
    rfl
  rw [exec_dumpCopy_runs ha hv, he]
  rfl

end

end Sys2Proof.Machine
end


section
/-! PROOFS. Resets of units and their escalation, and isolation (R481 to R488). -/

namespace Sys2Proof.Machine

/-! ## What applying a reset changes -/

/-- Only the power state differs. -/
def WakesOnly (s t : State) : Prop := t = { s with pwr := t.pwr }

theorem WakesOnly.refl (s : State) : WakesOnly s s := rfl

theorem WakesOnly.trans {s t u : State} (h : WakesOnly s t) (k : WakesOnly t u) : WakesOnly s u := by
  have e := congrArg (fun x : State => { x with pwr := u.pwr }) h
  exact Eq.trans k e

theorem wakeUnit_wakesOnly (u : Nat) (s : State) : WakesOnly s (wakeUnit u s) := by
  unfold wakeUnit wakeDomain
  split
  · dsimp only
    split <;> exact rfl
  · exact .refl s

theorem islandReset_wakesOnly (u : Nat) (s : State) : WakesOnly s (islandReset u s) := rfl

/-- A reset with the time it is applied at. -/
def resetStamped (r : ResetRun) (s : State) : ResetRun := { r with at_ := unitTime s r.unit }

/-- A reset is in progress in place of any other of its unit. -/
def resetNoted (r : ResetRun) (h : HangState) : HangState :=
  { h with resets := h.resets.filter (fun x => x.unit != r.unit) ++ [r], levelReached := BitVec.ofNat 2 r.level }

theorem abandonRead_frame (r : ResetRun) (s : State) : ∃ d, abandonRead r s = { s with hang := { s.hang with dump := d } } := by
  unfold abandonRead
  split
  · split
    · split
      · exact ⟨_, rfl⟩
      · exact ⟨s.hang.dump, rfl⟩
    · exact ⟨s.hang.dump, rfl⟩
  · exact ⟨s.hang.dump, rfl⟩

/-- Applying a reset changes the hang state and wakes domains. -/
theorem applyReset_frame (r : ResetRun) (s : State) : ∃ p d, applyReset r s =
    { s with pwr := p, hang := { resetNoted (resetStamped r s) s.hang with dump := d } } := by
  obtain ⟨d, hd⟩ := abandonRead_frame (resetStamped r s) (setHang (resetNoted (resetStamped r s) s.hang) s)
  have hw : WakesOnly (abandonRead (resetStamped r s) (setHang (resetNoted (resetStamped r s) s.hang) s)) (applyReset r s) :=
    foldl_related .refl .trans (fun s u => wakeUnit_wakesOnly u s) _ _
  rw [hd] at hw
  exact ⟨_, d, hw⟩

/-! ## UNIT_RESET (R481, R492) -/

section
variable {c : Cmd} {s : State} {u l : Nat} (hu : u = cmdUnit c) (hl : l = param c 18 1 0 2) (ha : admits descUnitReset c s)
  (h3 : l ≠ 3)
include hu hl ha h3

/-- The reset a command asks for. -/
def resetAsked (c : Cmd) (u l : Nat) (now : Word64) : ResetRun :=
  { unit := u, level := l, replay := param c 18 1 2 1 == 1, at_ := now, cmd := some (cmdRef c) }

theorem exec_unitReset (hf : firstFail (resetFails s u l) = none) : ∃ t, exec (.unitReset c) s = .next t ∧
    t.hang.resets = s.hang.resets.filter (fun x => x.unit != u) ++ [
      { unit := u, level := l, replay := param c 18 1 2 1 == 1, at_ := unitTime s u, cmd := some (cmdRef c) }] ∧
    t.hang.levelReached = BitVec.ofNat 2 l ∧ t.jcq.done = s.jcq.done ∧ ∀ x, covers u l x = true → inReset t x = true := by
  have hrows : ∀ e ∈ (l == 3, Status.opcode) :: resetFails s u l, e.1 = false :=
    List.forall_mem_cons.mpr ⟨by simp [h3], (firstFail_none _).mp hf⟩
  have he : exec (.unitReset c) s = .next (ended s (applyReset (resetAsked c u l 0) (begun c s))) := by
    subst hu hl
    exact runCmd_passes descUnitReset c _ s _ ha.1 ha.2 hrows
  obtain ⟨p, d, hr⟩ := applyReset_frame (resetAsked c u l 0) (begun c s)
  have hresets : (ended s (applyReset (resetAsked c u l 0) (begun c s))).hang.resets =
      s.hang.resets.filter (fun x => x.unit != u) ++ [resetAsked c u l (unitTime s u)] := by
    rw [ended_hang, hr]
    rfl
  refine ⟨_, he, hresets, ?_, ?_, fun x hx => ?_⟩
  · rw [ended_hang, hr]
    rfl
  · rw [ended_done, hr]
    rfl
  · rw [inReset, hresets, List.any_append, List.any_cons]
    simp [resetAsked, hx]

theorem exec_unitReset_refused {st : Status} (hf : firstFail (resetFails s u l) = some st) (hs : settled s) :
    exec (.unitReset c) s = .next (complete c st [] (procUnit s c) (begun c s)) := by
  have hrows : firstFail ((l == 3, Status.opcode) :: resetFails s u l) = some st := by
    rw [firstFail, if_neg (by simp [h3]), hf]
  subst hu hl
  exact runCmd_refuses _ _ hs ha hrows

end

/-! ## A reset that is reached and left (R482, R484) -/

section
variable {s : State} {u : Nat} {r : ResetRun} (hf : findReset s u = some r)
include hf

theorem exec_resetReached_again (hd : s.sht.pushDone = []) (hr : r.reached = true) (hs : settled s) :
    exec (.resetReached u) s = .next s := by
  have he : resetReached u s = s := by
    unfold resetReached
    rw [hf]
    exact if_pos (by rw [hr]; rfl)
  refine (congrArg (fun t => ends s (reedNotice t)) he).trans ?_
  rw [reedNotice_quiet hd]
  exact ends_undisturbed hs (.refl s)

/-- The reset of an isolation makes the suspects, once. -/
theorem resetReached_resets {v : State} (hr : r.reached = false) (hsl : ∀ x ∈ coveredUnits s r, domainSleeps s x = false)
    (hv : v = putReset { r with reached := true } s ∧ (∀ i, s.hang.iso = some i → r.iso = true → i.cur ≠ none) ∨
      ∃ i w, s.hang.iso = some i ∧ r.iso = true ∧ i.cur = none ∧ w = putReset { r with reached := true } s ∧
        v = setHang { w.hang with iso := some { i with suspects := findSuspects w u } } w) :
    resetReached u s = (coveredUnits s r).foldl (unitReset r.replay r.iso) v := by
  have hany : (coveredUnits s r).any (domainSleeps s) = false := by
    rw [List.any_eq_false]
    intro x hx
    rw [hsl x hx]
    exact Bool.false_ne_true
  have hiso : (putReset { r with reached := true } s).hang.iso = s.hang.iso := rfl
  unfold resetReached
  rw [hf]
  dsimp only
  rw [hr, hany, if_neg (by simp)]
  congr 1
  rw [hiso]
  obtain ⟨rfl, hcur⟩ | ⟨i, w, hi, hri, hc, rfl, rfl⟩ := hv
  · split
    · next i hi =>
      refine if_neg ?_
      rintro hb
      obtain ⟨h1, h2⟩ := Bool.and_eq_true_iff.mp hb
      exact hcur i hi h1 (Option.isNone_iff_eq_none.mp h2)
    · rfl
  · rw [hi]
    exact if_pos (by rw [hri, hc]; rfl)

theorem exec_resetLeft_early (hr : r.reached = false) (hs : settled s) : exec (.resetLeft u) s = .next s := by
  have he : resetLeft u s = s := by
    unfold resetLeft
    rw [hf]
    exact if_pos (by rw [hr]; rfl)
  exact (congrArg (ends s) he).trans (ends_undisturbed hs (.refl s))

end

/-- Jobs of the cipher complex start or are suspended; the rest of the state stands but for the counters. -/
def SchedulesOnly (s t : State) : Prop := t = { s with cip := t.cip, cnt := t.cnt }

theorem SchedulesOnly.refl (s : State) : SchedulesOnly s s := rfl

theorem SchedulesOnly.trans {s t u : State} (h : SchedulesOnly s t) (k : SchedulesOnly t u) : SchedulesOnly s u := by
  have e := congrArg (fun x : State => { x with cip := u.cip, cnt := u.cnt }) h
  exact Eq.trans k e

theorem schedStep_schedulesOnly {s t : State} (h : schedStep s = some t) : SchedulesOnly s t := by
  unfold schedStep at h
  split at h
  · obtain ⟨j, -, rfl⟩ := Option.map_eq_some_iff.mp h
    exact rfl
  · split at h
    · cases h
    · obtain ⟨j, -, hv⟩ := Option.bind_eq_some_iff.mp h
      obtain ⟨v, -, rfl⟩ := Option.map_eq_some_iff.mp hv
      rw [suspendFor_frame]
      exact rfl

theorem scheduleFor_schedulesOnly (n : Nat) (s : State) : SchedulesOnly s (scheduleFor n s) := by
  induction n generalizing s with
  | zero => exact .refl s
  | succ n ih =>
    rw [scheduleFor]
    split
    · next t ht => exact (schedStep_schedulesOnly ht).trans (ih t)
    · exact .refl s

/-- What a reset that is left keeps of the hang state, and the commands. -/
structure ReadyWork (s t : State) : Prop where
  jcq : t.jcq = s.jcq
  hang : t.hang = { s.hang with mode := t.hang.mode }

theorem ReadyWork.refl (s : State) : ReadyWork s s := ⟨rfl, rfl⟩

theorem ReadyWork.trans {s t u : State} (h : ReadyWork s t) (k : ReadyWork t u) : ReadyWork s u :=
  ⟨k.jcq.trans h.jcq, k.hang.trans (by rw [h.hang])⟩

theorem WakesOnly.readyWork {s t : State} (h : WakesOnly s t) : ReadyWork s t :=
  ⟨congrArg (·.jcq) h, by rw [show t.hang = s.hang from congrArg (·.hang) h]⟩

theorem SchedulesOnly.readyWork {s t : State} (h : SchedulesOnly s t) : ReadyWork s t :=
  ⟨congrArg (·.jcq) h, by rw [show t.hang = s.hang from congrArg (·.hang) h]⟩

theorem leaveRecovery_readyWork (s : State) : ReadyWork s (leaveRecovery s) := by
  unfold leaveRecovery
  split
  · exact .refl s
  · exact ⟨rfl, rfl⟩

/-- A reset's domain is ready for work again. -/
def domainReady (r : ResetRun) (us : List Nat) (u : Nat) (s : State) : State :=
  let s := us.foldl (fun s u => islandReset u s) s
  let s := if r.level = 2 then freshChannels (dieOf u) s else s
  let s := if us.any fun u => classOf u == 4 then schedule s else s
  if r.raised then leaveRecovery s else s

theorem domainReady_readyWork (r : ResetRun) (us : List Nat) (u : Nat) (s : State) : ReadyWork s (domainReady r us u s) := by
  have h1 : ReadyWork s (us.foldl (fun s u => islandReset u s) s) :=
    (foldl_related (R := WakesOnly) .refl .trans (fun s u => islandReset_wakesOnly u s) us s).readyWork
  unfold domainReady
  dsimp only
  generalize us.foldl (fun s u => islandReset u s) s = a at h1 ⊢
  have h2 : ReadyWork a (if r.level = 2 then freshChannels (dieOf u) a else a) := by
    split
    · exact ⟨rfl, rfl⟩
    · exact .refl a
  generalize (if r.level = 2 then freshChannels (dieOf u) a else a) = b at h2 ⊢
  have h3 : ReadyWork b (if us.any fun u => classOf u == 4 then schedule b else b) := by
    split
    · exact (scheduleFor_schedulesOnly _ b).readyWork
    · exact .refl b
  generalize (if us.any fun u => classOf u == 4 then schedule b else b) = d at h3 ⊢
  refine (h1.trans h2).trans (h3.trans ?_)
  split
  · exact leaveRecovery_readyWork d
  · exact .refl d

/-- A reset is over: its units are no longer hung. -/
def resetOver (u : Nat) (us : List Nat) (s : State) : State :=
  setHang { s.hang with resets := s.hang.resets.filter (fun x => x.unit != u)
                        hung := s.hang.hung.filter fun e => !us.contains e.1 } s

/-- The command that asked for a reset completes with its level. -/
def resetTold (r : ResetRun) (s : State) : State :=
  match r.cmd with
  | some c => completeRef c .ok [r.level] frameServices s
  | none => s

theorem resetTold_hang (r : ResetRun) (s : State) : (resetTold r s).hang = s.hang := by
  unfold resetTold
  split
  · rw [completeRef_frame]
  · rfl

section
variable {s : State} {u : Nat} {r : ResetRun} (hf : findReset s u = some r)
include hf

theorem resetLeft_over (hr : r.reached = true) (hi : s.hang.iso = none) : resetLeft u s =
    resetTold r (domainReady r (coveredUnits s r) u (resetOver u (coveredUnits s r) s)) := by
  have hiso : (resetTold r (domainReady r (coveredUnits s r) u (resetOver u (coveredUnits s r) s))).hang.iso = none := by
    rw [resetTold_hang, (domainReady_readyWork _ _ _ _).hang]
    exact hi
  unfold resetLeft
  rw [hf]
  dsimp only
  rw [hr, if_neg (by simp)]
  change (match (resetTold r (domainReady r (coveredUnits s r) u (resetOver u (coveredUnits s r) s))).hang.iso with
    | some i => if r.iso then isoCheck (nextSuspect i
        (resetTold r (domainReady r (coveredUnits s r) u (resetOver u (coveredUnits s r) s))))
      else resetTold r (domainReady r (coveredUnits s r) u (resetOver u (coveredUnits s r) s))
    | none => resetTold r (domainReady r (coveredUnits s r) u (resetOver u (coveredUnits s r) s))) = _
  rw [hiso]

/-- A reset that is left is gone, its units are not hung, and its command completes with OK and the level. -/
theorem exec_resetLeft (hr : r.reached = true) (hi : s.hang.iso = none) : ∃ t, exec (.resetLeft u) s = .next t ∧
    findReset t u = none ∧ (∀ x ∈ coveredUnits s r, tget false t.hang.hung x = false) ∧
    ∀ x, r.cmd = some x → (∃ l ∈ s.jcq.live, l.ref = x) → ∃ e, t.jcq.done = s.jcq.done ++ [e] ∧ e.ref = x ∧
      e.status = .ok ∧ e.result = [r.level] := by
  obtain ⟨v, hw, hl⟩ : ∃ v, ReadyWork (resetOver u (coveredUnits s r) s) v ∧ resetLeft u s = resetTold r v :=
    ⟨_, domainReady_readyWork _ _ _ _, resetLeft_over hf hr hi⟩
  have hh : (ended s (resetTold r v)).hang = { (resetOver u (coveredUnits s r) s).hang with mode := v.hang.mode } := by
    rw [ended_hang, resetTold_hang, hw.hang]
  refine ⟨_, congrArg (ends s) hl, ?_, fun x hx => ?_, fun x hx hlive => ?_⟩
  · rw [findReset, hh, List.find?_eq_none]
    intro y hy
    have hne := (List.mem_filter.mp hy).2
    rwa [Bool.not_eq_true, ← Bool.not_eq_true', ← bne]
  · rw [hh]
    refine (tget_filter_fst false (fun k => !(coveredUnits s r).contains k) s.hang.hung x).trans ?_
    rw [List.contains_iff_mem.mpr hx]
    rfl
  · rw [ended_done, resetTold, hx]
    have hv : v.jcq = s.jcq := hw.jcq
    exact hv ▸ completeRef_last .ok [r.level] frameServices (s := v) (hv ▸ hlive)

end

end Sys2Proof.Machine
end

section
/-! PROOFS. Resets that overrun, and isolation (R484, R487, R488). -/

namespace Sys2Proof.Machine

/-! ## A reset that overruns (R484) -/

/-- What an escalation noted stands, and no push is told of. -/
structure KeepsEscalation (s t : State) : Prop where
  escalated : t.hang.escalated = s.hang.escalated
  pkgNeeded : t.hang.pkgNeeded = s.hang.pkgNeeded
  levelReached : t.hang.levelReached = s.hang.levelReached
  sht : t.sht = s.sht

theorem KeepsEscalation.refl (s : State) : KeepsEscalation s s := ⟨rfl, rfl, rfl, rfl⟩

theorem KeepsEscalation.trans {s t u : State} (h : KeepsEscalation s t) (k : KeepsEscalation t u) : KeepsEscalation s u :=
  ⟨k.escalated.trans h.escalated, k.pkgNeeded.trans h.pkgNeeded, k.levelReached.trans h.levelReached, k.sht.trans h.sht⟩

theorem Touches.keepsEscalation {s t : State} (h : Touches s t) : KeepsEscalation s t :=
  ⟨congrArg (·.hang.escalated) h, congrArg (·.hang.pkgNeeded) h, congrArg (·.hang.levelReached) h, congrArg (·.sht) h⟩

theorem KeepsEscalation.completed {s t : State} (h : KeepsEscalation s t) (r : CmdRef) (st : Status) (res : List Nat)
    (unit : Nat) : KeepsEscalation s (completeRef r st res unit t) := by
  rw [completeRef_frame]
  exact h.trans ⟨rfl, rfl, rfl, rfl⟩

theorem dumpWrite_touches (off : Nat) (bs : List (List Byte)) (s : State) : Touches s (dumpWrite off bs s) := by
  induction bs generalizing off s with
  | nil => exact .refl s
  | cons b bs ih => exact (spoolWrite_touches _ _ _ _ s).trans (ih _ _)

/-- A dump that ends, with nothing asked for after it. -/
theorem endDump_keepsEscalation {d : DumpRun} (ha : d.after = none) (s : State) : KeepsEscalation s (endDump d s) := by
  unfold endDump
  dsimp only
  rw [ha]
  have hw := fun bs => (dumpWrite_touches 0x3F000000 bs s).keepsEscalation
  split
  · refine KeepsEscalation.completed ?_ _ _ _ _
    exact (hw _).trans ⟨rfl, rfl, rfl, rfl⟩
  · exact (hw _).trans ⟨rfl, rfl, rfl, rfl⟩

theorem skipUnits_keepsEscalation (n : Nat) {d : DumpRun} (ha : d.after = none) (s : State) :
    KeepsEscalation s (skipUnits n d s) := by
  induction n generalizing d with
  | zero => exact ⟨rfl, rfl, rfl, rfl⟩
  | succ n ih =>
    rw [skipUnits]
    split
    · exact endDump_keepsEscalation ha s
    · dsimp only
      split
      · exact ih ha
      · split
        · exact ih ha
        · split
          · exact ih ha
          · exact ⟨rfl, rfl, rfl, rfl⟩

theorem startDump_keepsEscalation (cause : Nat) (cmd : Option CmdRef) (s : State) :
    KeepsEscalation s (startDump cause cmd none s) := skipUnits_keepsEscalation _ rfl s

theorem dumpOfPackageReset_keepsEscalation (s : State) : KeepsEscalation s
    (if s.hang.dump.isNone && dumpAllowed s false then startDump 2 none none s
      else setHang { s.hang with dumpSkipped := true } s) := by
  split
  · exact startDump_keepsEscalation _ _ s
  · exact ⟨rfl, rfl, rfl, rfl⟩

/-- Only a package reset is left: it is needed, at level 3. -/
theorem packageNeeded_keepsEscalation (r : ResetRun) (s : State) :
    KeepsEscalation (setHang { s.hang with pkgNeeded := true, levelReached := 3 } s) (packageNeeded r s) := by
  unfold packageNeeded
  dsimp only
  generalize setHang { s.hang with pkgNeeded := true, levelReached := 3 } s = a
  cases r.cmd with
  | none => exact dumpOfPackageReset_keepsEscalation a
  | some c => exact ((KeepsEscalation.refl a).completed _ _ _ _).trans (dumpOfPackageReset_keepsEscalation _)

/-- An escalation is noted: recovery mode, the units that have not stopped, the escalation itself. -/
def escalationNoted (us : List Nat) (s : State) : State :=
  let s := markHung us (enterRecovery s)
  setHang { s.hang with escalated := true } s

theorem enterRecovery_frame (s : State) : ∃ m p, enterRecovery s = { s with hang := { s.hang with mode := m, prevMode := p } } := by
  unfold enterRecovery
  split
  · exact ⟨s.hang.mode, s.hang.prevMode, rfl⟩
  · exact ⟨_, _, rfl⟩

theorem escalationNoted_sht (us : List Nat) (s : State) : (escalationNoted us s).sht = s.sht := by
  obtain ⟨m, p, h⟩ := enterRecovery_frame s
  show (enterRecovery s).sht = s.sht
  rw [h]

theorem dropIsolation_keepsEscalation (r : ResetRun) (s : State) : KeepsEscalation s (dropIsolation r s) := by
  unfold dropIsolation
  split
  · split
    · refine KeepsEscalation.completed ?_ _ _ _ _
      exact ⟨rfl, rfl, rfl, rfl⟩
    · exact .refl s
  · exact .refl s

theorem findReset_unit {s : State} {u : Nat} {r : ResetRun} (h : findReset s u = some r) : r.unit = u :=
  beq_iff_eq.mp (List.find?_some (p := fun r : ResetRun => r.unit == u) h)

section
variable {s : State} {u : Nat} {r : ResetRun} (hf : findReset s u = some r) (hd : s.sht.pushDone = [])
include hf hd

theorem exec_resetEscalation_early (l : List Nat) (h : r.reached = true ∨ (unitTime s u - r.at_).toNat < 1000000) (hs : settled s) :
    exec (.resetEscalation u l) s = .next s := by
  have he : resetEscalation u l s = s := by
    unfold resetEscalation
    rw [hf]
    refine if_pos ?_
    rcases h with h | h
    · rw [h]
      rfl
    · rw [decide_eq_true h, Bool.or_true]
  refine (congrArg (fun t => ends s (reedNotice t)) he).trans ?_
  rw [reedNotice_quiet hd]
  exact ends_undisturbed hs (.refl s)

variable (l : List Nat) (hr : r.reached = false) (hsl : ∀ x ∈ coveredUnits s r, domainSleeps s x = false)
  (ht : 1000000 ≤ (unitTime s u - r.at_).toNat) (hp : s.hang.pkgNeeded = false)
include hr hsl ht hp

omit hd in
theorem resetEscalation_late : ∃ us, resetEscalation u l s = if r.level < 2 then
      applyReset { r with level := r.level + 1, raised := true, iso := false } (dropIsolation r (escalationNoted us s))
    else packageNeeded r (putReset { r with raised := true, cmd := none } (escalationNoted us s)) := by
  have hany : (coveredUnits s r).any (domainSleeps s) = false := by
    rw [List.any_eq_false]
    intro x hx
    rw [hsl x hx]
    exact Bool.false_ne_true
  refine ⟨if r.level = 1 then (coveredUnits s r).filter l.contains else coveredUnits s r, ?_⟩
  unfold resetEscalation
  rw [hf]
  dsimp only
  rw [hr, hany, hp, decide_eq_false (Nat.not_lt.mpr ht)]
  rfl

theorem exec_resetEscalation_raised (hl : r.level < 2) : ∃ t, exec (.resetEscalation u l) s = .next t ∧
    t.hang.escalated = true ∧ t.hang.levelReached = BitVec.ofNat 2 (r.level + 1) ∧ ∃ x ∈ t.hang.resets,
      x.unit = u ∧ x.level = r.level + 1 ∧ x.raised = true ∧ x.iso = false ∧ x.cmd = r.cmd := by
  obtain ⟨us, he⟩ := resetEscalation_late hf l hr hsl ht hp
  rw [if_pos hl] at he
  have hk := dropIsolation_keepsEscalation r (escalationNoted us s)
  generalize dropIsolation r (escalationNoted us s) = a at hk he
  obtain ⟨p, d, ha⟩ := applyReset_frame { r with level := r.level + 1, raised := true, iso := false } a
  have hq : (resetEscalation u l s).sht.pushDone = [] := by
    rw [he, ha]
    show a.sht.pushDone = []
    rw [hk.sht, escalationNoted_sht, hd]
  have hx : exec (.resetEscalation u l) s = .next (ended s (resetEscalation u l s)) :=
    congrArg (fun t => ends s t) (reedNotice_quiet hq)
  refine ⟨_, hx, ?_, ?_, resetStamped { r with level := r.level + 1, raised := true, iso := false } a, ?_, ?_⟩
  · rw [ended_hang, he, ha]
    exact hk.escalated
  · rw [ended_hang, he, ha]
    rfl
  · rw [ended_hang, he, ha]
    exact List.mem_append_right _ (List.mem_singleton.mpr rfl)
  · exact ⟨findReset_unit (r := r) hf, rfl, rfl, rfl, rfl⟩

theorem exec_resetEscalation_package (hl : 2 ≤ r.level) : ∃ t, exec (.resetEscalation u l) s = .next t ∧
    t.hang.escalated = true ∧ t.hang.pkgNeeded = true ∧ t.hang.levelReached = 3 ∧ t.pins.faultN = false := by
  obtain ⟨us, he⟩ := resetEscalation_late hf l hr hsl ht hp
  rw [if_neg (by omega)] at he
  have hk := packageNeeded_keepsEscalation r (putReset { r with raised := true, cmd := none } (escalationNoted us s))
  rw [← he] at hk
  have hq : (resetEscalation u l s).sht.pushDone = [] := by
    rw [hk.sht]
    show (escalationNoted us s).sht.pushDone = []
    rw [escalationNoted_sht, hd]
  have hx : exec (.resetEscalation u l) s = .next (ended s (resetEscalation u l s)) :=
    congrArg (fun t => ends s t) (reedNotice_quiet hq)
  have hn : (ended s (resetEscalation u l s)).hang.pkgNeeded = true := by
    rw [ended_hang]
    exact hk.pkgNeeded
  refine ⟨_, hx, ?_, hn, ?_, ?_⟩
  · rw [ended_hang]
    exact hk.escalated
  · rw [ended_hang]
    exact hk.levelReached
  · exact (ended_is_settled s _).2.1.mpr (.inr (.inl hn))

end

/-! ## Isolation (R487, R488) -/

/-- The isolation a command asks for. -/
def isolationAsked (c : Cmd) (u m : Nat) : Isolation :=
  { unit := u, tmoMs := m, cmd := cmdRef c, part := c.part, bufCtx := param c 22 2 0 16
    bufPa := fieldLE c.packet 24 8, len := cmdLength c }

/-- The reset that finds an isolation's suspects, and that lets the next one be tested. -/
def isolationReset (u : Nat) : ResetRun := { unit := u, level := 0, replay := true, at_ := 0, iso := true }

theorem enterRecovery_mode (s : State) : (enterRecovery s).hang.mode = if recovering s then s.hang.mode else 2 := by
  unfold enterRecovery
  split <;> rfl

theorem exec_hangIsolate {c : Cmd} {s : State} {u m : Nat} (hu : u = cmdUnit c) (hm : m = param c 18 2 0 16)
    (ha : admits descHangIsolate c s) (hb : unitArgBad s u = false) (hi : isolable u = true) (hf : fenced s u = false)
    (hr : resetBusy s u = false) (h0 : 0 < m) (h1 : m ≤ 1000) (hl : cmdLength c % 8 = 0) :
    ∃ t i, exec (.hangIsolate c) s = .next t ∧ t.hang.iso = some i ∧ i.unit = u ∧ i.tmoMs = m ∧ i.cmd = cmdRef c ∧
      i.suspects = [] ∧ t.hang.mode = (if recovering s then s.hang.mode else 2) ∧ t.jcq.done = s.jcq.done ∧
      ∃ r ∈ t.hang.resets, r.unit = u ∧ r.level = 0 ∧ r.replay = true ∧ r.iso = true := by
  obtain ⟨w, hw⟩ : ∃ w, w = setHang { (enterRecovery (begun c s)).hang with iso := some (isolationAsked c u m) }
    (enterRecovery (begun c s)) := ⟨_, rfl⟩
  have he : exec (.hangIsolate c) s = .next (ended s (applyReset (isolationReset u) w)) := by
    subst hu hm hw
    refine runCmd_passes descHangIsolate c _ s _ ha.1 ha.2 ?_
    have hlen : (param c 18 2 0 16 == 0 || decide (1000 < param c 18 2 0 16) || cmdLength c % 8 != 0) = false := by
      rw [hl, decide_eq_false (by omega), beq_false_of_ne (by omega)]
      rfl
    exact List.forall_mem_cons.mpr ⟨hb, List.forall_mem_cons.mpr ⟨by rw [hi]; rfl, List.forall_mem_cons.mpr
      ⟨hf, firstFail_pair hr hlen⟩⟩⟩
  obtain ⟨p, d, hap⟩ := applyReset_frame (isolationReset u) w
  obtain ⟨mo, pm, hen⟩ := enterRecovery_frame (begun c s)
  have hmode : w.hang.mode = if recovering s then s.hang.mode else 2 := by
    rw [hw]
    exact enterRecovery_mode (begun c s)
  refine ⟨_, isolationAsked c u m, he, ?_, rfl, rfl, rfl, rfl, ?_, ?_, resetStamped (isolationReset u) w, ?_, rfl, rfl, rfl, rfl⟩
  · rw [ended_hang, hap, hw]
    rfl
  · rw [ended_hang, hap]
    exact hmode
  · rw [ended_done, hap, hw, hen]
    rfl
  · rw [ended_hang, hap]
    exact List.mem_append_right _ (List.mem_singleton.mpr rfl)

/-- The state a suspect that made no progress is condemned in. -/
def suspectMarked (i : Isolation) (x : Suspect) (s : State) : State :=
  setHang { s.hang with iso := some { i with
    suspects := i.suspects.map fun y => if y = x then { y with guilty := true } else y } } s

section
variable {s : State}

theorem exec_isolationSuspectTimeout_idle (hd : s.sht.pushDone = []) (hi : s.hang.iso = none) (hs : settled s) :
    exec .isolationSuspectTimeout s = .next s := by
  have he : suspectTimeout s = s := by
    unfold suspectTimeout
    dsimp only
    rw [isoCheck_idle hi, hi]
  refine (congrArg (fun t => ends s (reedNotice t)) he).trans ?_
  rw [reedNotice_quiet hd]
  exact ends_undisturbed hs (.refl s)

variable {i : Isolation} {k : Nat} {x : Suspect} (hi : s.hang.iso = some i) (hk : i.cur = some k) (hx : i.suspects[k]? = some x)
  (hg : x.guilty = false) (hb : suspectBusy s i.unit x = true) (hw : workItems s i.unit = i.items)
include hi hk hx hg hb hw

omit hg in
theorem isoCheck_noProgress : isoCheck s = s := by
  have hcur : (i.cur.bind fun k => i.suspects[k]?) = some x := by rw [hk]; exact hx
  unfold isoCheck
  rw [isoCheckFor, hi]
  dsimp only
  rw [hcur]
  exact if_pos (by rw [hb, hw]; simp)

theorem suspectTimeout_step : suspectTimeout s = if (unitTime s i.unit - i.at_).toNat < i.tmoMs * 1000000 then s
    else applyReset (isolationReset i.unit) (condemn i.unit x (suspectMarked i x s)) := by
  have hcur : (i.cur.bind fun k => i.suspects[k]?) = some x := by rw [hk]; exact hx
  unfold suspectTimeout
  dsimp only
  rw [isoCheck_noProgress hi hk hx hb hw, hi]
  dsimp only
  rw [hcur]
  dsimp only
  rw [hg]
  simp only [Bool.false_or, decide_eq_true_eq]
  rfl

theorem exec_isolationSuspectTimeout_early (hd : s.sht.pushDone = [])
    (ht : (unitTime s i.unit - i.at_).toNat < i.tmoMs * 1000000) (hs : settled s) :
    exec .isolationSuspectTimeout s = .next s := by
  refine (congrArg (fun t => ends s (reedNotice t))
    ((suspectTimeout_step hi hk hx hg hb hw).trans (if_pos ht))).trans ?_
  rw [reedNotice_quiet hd]
  exact ends_undisturbed hs (.refl s)

theorem exec_isolationSuspectTimeout_guilty (ht : i.tmoMs * 1000000 ≤ (unitTime s i.unit - i.at_).toNat) :
    exec .isolationSuspectTimeout s = .next (ended s (reedNotice (applyReset (isolationReset i.unit)
      (condemn i.unit x (suspectMarked i x s))))) :=
  congrArg (fun t => ends s (reedNotice t))
    ((suspectTimeout_step hi hk hx hg hb hw).trans (if_neg (Nat.not_lt.mpr ht)))

end

end Sys2Proof.Machine
end

section
/-! PROOFS. Heartbeats, resets, dumps and counter commands (O60). -/

namespace Sys2Proof.Machine

/-- Settles O60, clause by clause: the heartbeat, the run mode, the wait-for detector, resets with their escalation, isolation,
dumps, and the counter commands. -/
theorem hangsResetsDumpsAndCounterCommands : Obligations.HangsResetsDumpsAndCounterCommands := by
  refine ⟨fun c s ha hl bs v hbs hw => ?_, exec_hbPeriodExpiry, fun c s hs ha h3 => ?_, fun s => ?_, fun c s u l hu hl ha h3 => ?_,
    fun u s v r hf hd hv => ?_, fun c s u m hu hm ha hb hi hf hr h0 h1 hl => ?_, fun s hd => ⟨fun hi hs => ?_, ?_⟩,
    fun c s ha => ?_, fun s d u x rest hd hl hp hh hr => ?_, fun c s ha => ?_, fun c s us hus hb => ?_, fun s => ⟨?_, ?_⟩, ?_⟩
  · exact ⟨exec_heartbeat ha hl hbs hw, exec_heartbeat_counts ha hl hbs hw⟩
  · exact ⟨exec_hangMode_sets hs ha h3, exec_hangMode_keeps hs ha h3⟩
  · exact ⟨fun h hs => exec_wfdCollect_waits h hs, exec_wfdCollect⟩
  · exact ⟨exec_unitReset hu hl ha h3, fun st hf hs => exec_unitReset_refused hu hl ha h3 hf hs⟩
  · refine ⟨exec_resetReached_again hf hd, fun hr hsl => ?_, exec_resetLeft_early hf, exec_resetLeft hf,
      exec_resetEscalation_early hf hd, fun l hr hsl ht hp => ?_⟩
    · exact congrArg (fun t => ends s (reedNotice t)) (resetReached_resets hf hr hsl hv)
    · rcases Nat.lt_or_ge r.level 2 with hlt | hge
      · obtain ⟨t, he, hesc, hlevel⟩ := exec_resetEscalation_raised hf hd l hr hsl ht hp hlt
        exact ⟨t, he, hesc, fun _ => hlevel, fun h => absurd hlt (Nat.not_lt.mpr h)⟩
      · obtain ⟨t, he, hesc, hneeded⟩ := exec_resetEscalation_package hf hd l hr hsl ht hp hge
        exact ⟨t, he, hesc, fun h => absurd hge (Nat.not_le.mpr h), fun _ => hneeded⟩
  · exact exec_hangIsolate hu hm ha hb hi hf hr h0 h1 hl
  · exact exec_isolationSuspectTimeout_idle hd hi hs
  · intro i k x hi hk hx hg hb hw
    exact ⟨exec_isolationSuspectTimeout_early hi hk hx hg hb hw hd,
      fun ht => ⟨_, exec_isolationSuspectTimeout_guilty hi hk hx hg hb hw ht, rfl⟩⟩
  · exact ⟨exec_hangDump_held ha, fun hn hb => ⟨exec_hangDump_starts ha hn hb, exec_hangDump_refused ha hn hb⟩⟩
  · exact ⟨exec_dumpUnitReadDone hd hl hp hh hr, exec_dumpUnitTimeout_early hd hl, exec_dumpUnitTimeout_hung hd hl hp hh hr⟩
  · exact ⟨exec_dumpCopy_none ha, exec_dumpCopy_short ha, fun v w bs hv h => exec_dumpCopy_copies ha hv h⟩
  · exact ⟨fun ha hl => ⟨exec_cntSnapshot_short hus hb ha hl, fun v => exec_cntSnapshot_writes hus hb ha hl⟩,
      exec_cntProfile hus hb, exec_cntProfile_refused hus hb, exec_cntClear hus hb⟩
  · exact exec_profileRound_none
  · exact fun p us hp hus => ⟨exec_profileRound_early hp, exec_profileRound_skips hp hus, exec_profileRound_writes hp hus⟩
  · exact fun c s v ha hl hw => exec_cntPartRead ha hl hw

end Sys2Proof.Machine
end

section
/-! PROOFS. What the work of a unit that is lost leaves alone: the Selvedge's own state but for the reports that wait to reach it
(R449, R453, R463). Accesses to memory and translations first. -/

namespace Sys2Proof.Machine

/-- The Selvedge's state stands but for the reports that wait. -/
def ReportsOnly (s t : State) : Prop := t.saf = { s.saf with todo := t.saf.todo }

section
variable {s t u : State}

theorem ReportsOnly.refl (s : State) : ReportsOnly s s := rfl

theorem ReportsOnly.trans (h : ReportsOnly s t) (k : ReportsOnly t u) : ReportsOnly s u := by
  have e := congrArg (fun f : SafState => { f with todo := u.saf.todo }) h
  exact Eq.trans k e

theorem ReportsOnly.of_saf (h : t.saf = s.saf) : ReportsOnly s t := by
  unfold ReportsOnly
  rw [h]

theorem ReportsOnly.of_fst {α : Type} {a : α} {x : State × α} (he : x = (u, a)) (h : ReportsOnly s x.1) : ReportsOnly s u := by
  rwa [he] at h

theorem ReportsOnly.unit (h : ReportsOnly s t) : t.saf.unit = s.saf.unit :=
  (congrArg SafState.unit h).trans rfl

theorem ReportsOnly.fenced (h : ReportsOnly s t) (x : Nat) : fenced t x = fenced s x :=
  congrArg (fun m : Tab SafUnit => (tget ({} : SafUnit) m x).fenced) h.unit

theorem ReportsOnly.fenceSeen (h : ReportsOnly s t) : t.saf.fenceSeen = s.saf.fenceSeen := congrArg (·.fenceSeen) h

theorem TakesSlots.reportsOnly (h : TakesSlots s t) : ReportsOnly s t := .of_saf h.saf
theorem Undisturbed.reportsOnly (h : Undisturbed s t) : ReportsOnly s t := .of_saf h.saf
theorem EndsWork.reportsOnly (h : EndsWork s t) : ReportsOnly s t := .of_saf (congrArg (·.saf) h.frame)
theorem PortWork.reportsOnly (h : PortWork s t) : ReportsOnly s t := congrArg State.saf h
theorem EthWork.reportsOnly (h : EthWork s t) : ReportsOnly s t := congrArg State.saf h
theorem Transmits.reportsOnly (h : Transmits s t) : ReportsOnly s t := congrArg State.saf h
theorem SchedulesOnly.reportsOnly (h : SchedulesOnly s t) : ReportsOnly s t := .of_saf ((congrArg State.saf h).trans rfl)
theorem ServesCommands.reportsOnly (h : ServesCommands s t) : ReportsOnly s t := .of_saf ((congrArg State.saf h).trans rfl)
theorem Sends.reportsOnly (h : Sends s t) : ReportsOnly s t := .of_saf (congrArg (·.saf) h)

end

theorem foldl_reportsOnly {β : Type} {f : State → β → State} (h : ∀ s b, ReportsOnly s (f s b)) (l : List β) (s : State) :
    ReportsOnly s (l.foldl f s) := foldl_related .refl .trans h l s

/-- The same for a fold that carries a value beside the state. -/
theorem foldl_fst_reportsOnly {β γ : Type} {f : State × γ → β → State × γ} (h : ∀ x b, ReportsOnly x.1 (f x b).1) (l : List β)
    (x : State × γ) : ReportsOnly x.1 (l.foldl f x).1 := by
  induction l generalizing x with
  | nil => exact .refl _
  | cons b r ih => exact (h x b).trans (ih _)

theorem bump_reportsOnly (u i n : Nat) (s : State) : ReportsOnly s (bump u i n s) := .of_saf (bump_saf u i n s)

theorem report_reportsOnly (r : Report) (s : State) : ReportsOnly s (report r s) := rfl

theorem record_reportsOnly (r : Record) (s : State) : ReportsOnly s (record r s) := rfl

/-! ## Spool memory and the windows (R44, R62, R333, R337, R346) -/

theorem noteBad_reportsOnly (src ctx a : Nat) (st : Status) (s : State) : ReportsOnly s (noteBad src ctx a st s) := by
  unfold noteBad
  split
  · exact rfl
  · split <;> exact rfl
  · exact .refl s

theorem spoolRead_reportsOnly (src ctx off len : Nat) (s : State) : ReportsOnly s (spoolRead src ctx off len s).1 := by
  have hc := fun ps => ReportsOnly.of_saf (countLines_safJcq ctx false ps s).1
  simp only [spoolRead]
  split
  · exact (hc _).trans (noteBad_reportsOnly _ _ _ _ _)
  · exact hc _

theorem spoolWrite_reportsOnly (src ctx off : Nat) (bs : List Byte) (s : State) :
    ReportsOnly s (spoolWrite src ctx off bs s).1 := by
  have hs := fun stop => ReportsOnly.of_saf (storeUpTo_safJcq off bs stop (linePieces off bs.length) s).1
  have hc := fun ps t => ReportsOnly.of_saf (countLines_safJcq ctx true ps t).1
  simp only [spoolWrite]
  split
  · exact ((hs _).trans (hc _ _)).trans (noteBad_reportsOnly _ _ _ _ _)
  · exact (hs _).trans (hc _ _)

theorem noteHostDeny_saf (p : Nat) (st : Status) (s : State) : (noteHostDeny p st s).saf = s.saf := by
  unfold noteHostDeny
  split <;> rfl

theorem hostRead_reportsOnly (p off len : Nat) (ext : List ExtRead) (s : State) : ReportsOnly s (hostRead p off len ext s).1 := by
  refine .of_saf ?_
  simp only [hostRead]
  split
  · rw [emit_saf, bump_saf]
    split
    · rfl
    · exact trackHostRead_saf _ _ _ s
  · exact noteHostDeny_saf _ _ s

theorem bufWrite_reportsOnly (src p ctx pa : Nat) (bs : List Byte) (s : State) :
    ReportsOnly s (bufWrite src p ctx pa bs s).1 := by
  unfold bufWrite
  split
  · split
    · exact spoolWrite_reportsOnly _ _ _ _ s
    · exact .refl s
  · split
    · exact .of_saf (hostWrite_safJcq _ _ _ s).1
    · exact .refl s

theorem notePeerDeny_saf (pa : Nat) (st : Status) (s : State) : (notePeerDeny pa st s).saf = s.saf := by
  unfold notePeerDeny
  split <;> rfl

theorem peerWrite_reportsOnly (p pa : Nat) (bs : List Byte) (s : State) : ReportsOnly s (peerWrite p pa bs s).1 := by
  simp only [peerWrite]
  split
  · exact .refl s
  · exact .of_saf (notePeerDeny_saf _ _ s)

theorem peerRead_reportsOnly (p pa len : Nat) (ext : List ExtRead) (s : State) : ReportsOnly s (peerRead p pa len ext s).1 := by
  simp only [peerRead]
  split
  · refine .of_saf ?_
    rw [emit_saf]
    dsimp only
    split <;> rfl
  · exact .of_saf (notePeerDeny_saf _ _ s)

theorem accIssue_reportsOnly (k : Nat) (h : TchHdr) (data : List Byte) (answered : Bool) (fromPort : Option (Nat × Nat))
    (s : State) : ReportsOnly s (accIssue k h data answered fromPort s) := by
  have hs := (sendTch_takesSlots k { h with tag := freeTag s k } data s).reportsOnly
  simp only [accIssue]
  split
  · exact hs
  · exact hs.trans (.of_saf (by rw [modAport, setAport_saf]))

theorem accWrite_reportsOnly (pa : Nat) (bs : List Byte) (ext : List ExtRead) (s : State) :
    ReportsOnly s (accWrite pa bs ext s).1 := by
  simp only [accWrite]
  split
  · exact .refl s
  · exact foldl_fst_reportsOnly (fun _ _ => accIssue_reportsOnly _ _ _ _ _ _) _ (s, Status.ok)

theorem accRead_reportsOnly (pa len : Nat) (ext : List ExtRead) (s : State) : ReportsOnly s (accRead pa len ext s).1 := by
  simp only [accRead]
  split
  · exact .refl s
  · exact ReportsOnly.trans (t := { s with lnk := { s.lnk with answers := s.lnk.answers.filter fun e => e.pa != pa } }) rfl
      (foldl_reportsOnly (fun _ _ => accIssue_reportsOnly _ _ _ _ _ _) _ _)

theorem memWriteTo_reportsOnly (src part ctx pa : Nat) (bs : List Byte) (ext : List ExtRead) (s : State) :
    ReportsOnly s (memWriteTo src part ctx pa bs ext s).1 := by
  simp only [memWriteTo]
  split
  · exact spoolWrite_reportsOnly _ _ _ _ s
  · split
    · exact accWrite_reportsOnly _ _ _ s
    · split
      · exact .of_saf (hostWrite_safJcq _ _ _ s).1
      · split
        · exact peerWrite_reportsOnly _ _ _ s
        · exact .refl s

theorem memReadFrom_reportsOnly (src part ctx pa len : Nat) (ext : List ExtRead) (s : State) :
    ReportsOnly s (memReadFrom src part ctx pa len ext s).1 := by
  simp only [memReadFrom]
  split
  · exact spoolRead_reportsOnly _ _ _ _ s
  · split
    · exact accRead_reportsOnly _ _ _ s
    · split
      · exact hostRead_reportsOnly _ _ _ _ s
      · split
        · exact peerRead_reportsOnly _ _ _ _ s
        · exact .refl s

/-! ## Translation and page faults (R73, R87) -/

theorem tableErr_reportsOnly (r : Lookup) (entryPa : Nat) (mal : Bool) (s : State) : ReportsOnly s (tableErr r entryPa mal s) := by
  cases mal <;> exact rfl

theorem entryRead_reportsOnly (r : Lookup) (entryPa : Nat) (ext : List ExtRead) (s : State) :
    ReportsOnly s (entryRead r entryPa ext s).1 := by
  unfold entryRead
  split
  · exact spoolRead_reportsOnly _ _ _ _ s
  · split
    · exact hostRead_reportsOnly _ _ _ _ s
    · exact .refl s

theorem tableStep_reportsOnly (r : Lookup) (level entryPa : Nat) (ext : List ExtRead) (s : State) :
    ReportsOnly s (tableStep r level entryPa ext s).1 := by
  have hread := entryRead_reportsOnly r entryPa ext s
  rw [tableStep, ← entryRead]
  generalize entryRead r entryPa ext s = x at hread ⊢
  obtain ⟨u, st, bs⟩ := x
  have hb := bump_reportsOnly (heddle r.heddle) 4 1 u
  refine hread.trans ?_
  dsimp only
  split
  · split
    · exact hb.trans (tableErr_reportsOnly _ _ _ _)
    · exact hb
  · exact .refl _
  · exact .refl _
  · exact tableErr_reportsOnly _ _ _ _

theorem walkOn_reportsOnly (fuel : Nat) (r : Lookup) (level entryPa : Nat) (ext : List ExtRead) (s : State) :
    ReportsOnly s (walkOn fuel r level entryPa ext s).1 := by
  induction fuel generalizing level entryPa s with
  | zero => exact .refl s
  | succ fuel ih =>
    have h := tableStep_reportsOnly r level entryPa ext s
    simp only [walkOn]
    split
    · next he => exact ((ReportsOnly.of_fst he h).trans (u := cachePtr _ _ _ _) rfl).trans (ih _ _ _)
    · next he => exact (ReportsOnly.of_fst he h).trans (u := touchLeaf _ _ _) rfl
    · next he => exact ReportsOnly.of_fst he h

theorem translate_reportsOnly (r : Lookup) (ext : List ExtRead) (s : State) : ReportsOnly s (translate r ext s).1 := by
  have hb := bump_reportsOnly (heddle r.heddle) 2 1 s
  simp only [translate]
  split
  · exact hb
  · split
    · exact hb.trans (u := touchLeaf _ _ _) rfl
    · exact hb.trans ((bump_reportsOnly _ _ _ _).trans (walkOn_reportsOnly _ _ _ _ _ _))

theorem holdObject_reportsOnly (r : Lookup) (s : State) : ReportsOnly s (holdObject r s) := by
  simp only [holdObject]
  split
  · exact rfl
  · split <;> exact rfl

theorem recordFault_reportsOnly (r : Lookup) (level slot : Nat) (s : State) : ReportsOnly s (recordFault r level slot s) := by
  simp only [recordFault]
  split
  · next hw =>
    refine (ReportsOnly.of_fst hw (bufWrite_reportsOnly _ _ _ _ _ s)).trans ?_
    split <;> exact rfl
  · next hw => exact (ReportsOnly.of_fst hw (bufWrite_reportsOnly _ _ _ _ _ s)).trans (holdObject_reportsOnly _ _)

theorem pageFault_reportsOnly (r : Lookup) (level : Nat) (s : State) : ReportsOnly s (pageFault r level s) := by
  simp only [pageFault]
  refine (bump_reportsOnly (heddle r.heddle) 5 1 s).trans ?_
  split
  · exact rfl
  · split
    · exact holdObject_reportsOnly _ _
    · split
      · exact holdObject_reportsOnly _ _
      · exact recordFault_reportsOnly _ _ _ _

theorem pagePa_reportsOnly (r : Lookup) (va len : Nat) (ext : List ExtRead) (s : State) :
    ReportsOnly s (pagePa r va len ext s).1 := by
  have h := translate_reportsOnly { r with va := va, len := len } ext s
  simp only [pagePa]
  split
  · next ht => exact .of_fst ht h
  · next ht => exact .of_fst ht h
  · next ht => exact (ReportsOnly.of_fst ht h).trans (pageFault_reportsOnly _ _ _)
  · next ht => exact .of_fst ht h

/-! ## Transfers at virtual addresses (R74, R338) -/

theorem vaWriteGo_reportsOnly (r : Lookup) (ext : List ExtRead) (fuel va : Nat) (bs : List Byte) (s : State) :
    ReportsOnly s (vaWriteGo r ext fuel va bs s).1 := by
  induction fuel generalizing va bs s with
  | zero => exact .refl s
  | succ fuel ih =>
    have h := pagePa_reportsOnly { r with access := .write } va bs.length ext s
    simp only [vaWriteGo]
    split
    · exact .refl s
    · split
      · next hp => exact .of_fst hp h
      · next u pa n hp =>
        have hw := memWriteTo_reportsOnly r.holder r.part r.ctx pa (bs.take n) ext u
        split
        · next he => exact ((ReportsOnly.of_fst hp h).trans (.of_fst he hw)).trans (ih _ _ _)
        · next he => exact (ReportsOnly.of_fst hp h).trans (.of_fst he hw)

theorem readBack_reportsOnly (x p bus : Nat) (answered : Bool) (s : State) : ReportsOnly s (readBack x p bus answered s) := by
  cases answered <;> exact rfl

theorem readBacks_reportsOnly (ext : List ExtRead) (before : State) (x : State × XferEnd) :
    ReportsOnly x.1 (readBacks ext before x).1 := by
  refine foldl_fst_reportsOnly (fun y port => ?_) _ x
  split
  · exact .refl _
  · split
    · exact .refl _
    · have h := readBack_reportsOnly port
      dsimp only
      split
      · split
        · exact h _ _ _ _
        · exact (h _ _ _ _).trans rfl
      · exact h _ _ _ _

theorem vaWrite_reportsOnly (r : Lookup) (va : Nat) (bs : List Byte) (ext : List ExtRead) (s : State) :
    ReportsOnly s (vaWrite r va bs ext s).1 := by
  unfold vaWrite
  split
  · exact .refl s
  · exact (vaWriteGo_reportsOnly _ _ _ _ _ s).trans (readBacks_reportsOnly _ _ _)

theorem vaReadGo_reportsOnly (r : Lookup) (ext : List ExtRead) (fuel va len : Nat) (s : State) :
    ReportsOnly s (vaReadGo r ext fuel va len s).1 := by
  induction fuel generalizing va len s with
  | zero => exact .refl s
  | succ fuel ih =>
    have h := pagePa_reportsOnly { r with access := .read } va len ext s
    simp only [vaReadGo]
    split
    · exact .refl s
    · split
      · next hp => exact .of_fst hp h
      · next u pa n hp =>
        have hr := memReadFrom_reportsOnly r.holder r.part r.ctx pa n ext u
        split
        · next he => exact ((ReportsOnly.of_fst hp h).trans (.of_fst he hr)).trans (ih _ _ _)
        · next he => exact (ReportsOnly.of_fst hp h).trans (.of_fst he hr)

theorem vaRead_reportsOnly (r : Lookup) (va len : Nat) (ext : List ExtRead) (s : State) :
    ReportsOnly s (vaRead r va len ext s).1 := by
  unfold vaRead
  split
  · exact .refl s
  · exact vaReadGo_reportsOnly _ _ _ _ _ s

end Sys2Proof.Machine
end

section
/-! PROOFS. The Shuttle's, the cipher complex's and the Spool's part of a loss leaves the Selvedge's own state alone (R48, R130, R185,
R194, R387, R393, R453). -/

namespace Sys2Proof.Machine

/-! ## Commands and their copies -/

theorem completeRef_reportsOnly (r : CmdRef) (st : Status) (res : List Nat) (unit : Nat) (s : State) :
    ReportsOnly s (completeRef r st res unit s) := (completeRef_undisturbed r st res unit s).reportsOnly

theorem complete_reportsOnly (c : Cmd) (st : Status) (res : List Nat) (unit : Nat) (s : State) :
    ReportsOnly s (complete c st res unit s) := completeRef_reportsOnly _ _ _ _ s

theorem markWhere_reportsOnly (p : Dispatched → Bool) (s : State) : ReportsOnly s (markWhere p s) :=
  foldl_reportsOnly (f := fun s (d : Dispatched) => markReplayed (cmdRef d.cmd) s) (fun _ _ => rfl) _ s

theorem procLost_reportsOnly (owned : List SkeinRef) (s : State) : ReportsOnly s (procLost owned s) :=
  (markWhere_reportsOnly _ s).trans (foldl_reportsOnly (fun _ _ => completeRef_reportsOnly _ _ _ _ _) _ _)

/-! ## Contexts of queue pairs -/

theorem writeBack_reportsOnly (d q : Nat) (s : State) : ReportsOnly s (writeBack d q s) := spoolWrite_reportsOnly _ _ _ _ s

theorem moveHome_reportsOnly (d q : Nat) (s : State) : ReportsOnly s (moveHome d q s) := by
  unfold moveHome
  split
  · exact .refl s
  · exact ReportsOnly.trans (t := setCache d ((cacheOf s d).filter (· != q)) s) rfl (writeBack_reportsOnly _ _ _)

theorem goHome_reportsOnly (q : Nat) (s : State) : ReportsOnly s (goHome q s) := by
  unfold goHome
  split
  · split
    · exact .refl s
    · exact ReportsOnly.trans (t := { s with sht := { s.sht with stay := tset none s.sht.stay q none } }) rfl
        (moveHome_reportsOnly _ _ _)
  · exact .refl s

theorem modQp_saf (q : Nat) (f : Qp → Qp) (s : State) : (modQp q f s).saf = s.saf := by
  rw [modQp, setQp_saf]

theorem evict_reportsOnly (d q : Nat) (s : State) : ReportsOnly s (evict d q s) := by
  unfold evict
  refine ReportsOnly.trans ?_ (writeBack_reportsOnly _ _ _)
  refine .of_saf ?_
  refine (bump_saf _ _ _ _).trans ?_
  show (if (qpOf s q).created then modQp q (freshRate s q) s else s).saf = s.saf
  split
  · exact modQp_saf _ _ s
  · rfl

theorem startFetch_reportsOnly (q : Nat) (s : State) : ReportsOnly s (startFetch q s) := by
  have hgo : ∀ (d u : Nat) (w : State), ReportsOnly w (sendRequest d (slice_ d) u 0 0 0 (.ctxFetch q)
      { w with sht := { w.sht with fetching := w.sht.fetching ++ [q], wayWait := w.sht.wayWait.filter (· != q) } }) :=
    fun d u w => ReportsOnly.trans (t := { w with sht := { w.sht with
      fetching := w.sht.fetching ++ [q], wayWait := w.sht.wayWait.filter (· != q) } }) rfl
      (sendRequest_sends _ _ _ _ _ _ _ _).reportsOnly
  simp only [startFetch]
  refine (goHome_reportsOnly q s).trans ?_
  split
  · exact hgo _ _ _
  · split
    · exact (evict_reportsOnly _ _ _).trans (hgo _ _ _)
    · split
      · exact .refl _
      · exact rfl

theorem dropRef_reportsOnly (n : Nat) (s : State) : ReportsOnly s (dropRef n s) :=
  .of_saf (by rw [dropRef, setKeySlot_saf])

theorem contextLost_reportsOnly (d q : Nat) (st : Status) (s : State) : ReportsOnly s (contextLost d q st s) := by
  have hslot : ReportsOnly s (if (qpOf s q).created && qpEnc (qpOf s q) then dropRef (qpSlot (qpOf s q)) s else s) := by
    split
    · exact dropRef_reportsOnly _ s
    · exact .refl s
  unfold contextLost
  refine .trans ?_ (report_reportsOnly _ _)
  refine .trans ?_ (writeBack_reportsOnly _ _ _)
  refine hslot.trans ((EndsWork.reportsOnly (toError_endsWork q st none none _)).trans ?_)
  exact .of_saf (by rw [setQp_saf])

theorem sliceLost_reportsOnly (d : Nat) (st : Status) (s : State) : ReportsOnly s (sliceLost d st s).2 :=
  ReportsOnly.trans (t := setCache d [] s) rfl (foldl_reportsOnly (fun _ _ => contextLost_reportsOnly _ _ _ _) _ _)

theorem homeMoves_reportsOnly (d : Nat) (s : State) : ReportsOnly s (homeMoves d s) :=
  (ReportsOnly.trans (t := setCache d [] s) rfl (foldl_reportsOnly (fun _ _ => writeBack_reportsOnly _ _ _) _ _)).trans
    (foldl_reportsOnly (fun _ _ => startFetch_reportsOnly _ _) _ _)

/-! ## Queue pairs that pass to another engine, or that none can serve -/

theorem resume_reportsOnly (q : Nat) (lo : BitVec 32) (s : State) : ReportsOnly s (resume q lo s) :=
  (ReportsOnly.of_saf (modQp_saf _ _ s)).trans (armRto_transmits _ _).reportsOnly

theorem qpMoves_reportsOnly (q : Nat) (s : State) : ReportsOnly s (qpMoves q s) := by
  have hm : ∀ p, ReportsOnly s (modQp q dropOpened (markWhere p s)) := fun p =>
    (markWhere_reportsOnly p s).trans (.of_saf (modQp_saf q dropOpened _))
  simp only [qpMoves]
  split
  · exact hm _
  · exact (hm _).trans (resume_reportsOnly _ _ _)

theorem qpStranded_reportsOnly (q : Nat) (st : Status) (s : State) : ReportsOnly s (qpStranded q st s) := by
  unfold qpStranded
  refine .trans ?_ (report_reportsOnly _ _)
  refine (EndsWork.reportsOnly (toError_endsWork q st none none s)).trans ?_
  generalize toError q st none none s = a
  refine ReportsOnly.trans (t := if cached a q then a else writeBack (homeDie a q) q a) ?_ rfl
  split
  · exact .refl a
  · exact writeBack_reportsOnly _ _ a

theorem shuttleLost_reportsOnly (qs : List Nat) (s : State) : ReportsOnly s (shuttleLost qs s) := by
  refine foldl_reportsOnly (fun s q => ?_) qs s
  split
  · exact qpMoves_reportsOnly _ _
  · exact qpStranded_reportsOnly _ _ _

/-! ## Jobs of the cipher complex -/

theorem takeCounter_saf (n : Nat) (s : State) : (takeCounter n s).2.saf = s.saf := by
  simp only [takeCounter]
  split <;> rw [setKeySlot_saf]

theorem restartJob_reportsOnly (j : CipherJob) (s : State) : ReportsOnly s (restartJob j s).2 := by
  unfold restartJob
  split
  · exact .refl s
  · next c _ _ =>
    have ht := takeCounter_saf j.slot (markReplayed (cmdRef c) s)
    have hm : ReportsOnly s (markReplayed (cmdRef c) s) := rfl
    dsimp only
    split
    · split
      · next he =>
        rw [he] at ht
        exact hm.trans (.of_saf ht)
      · next he =>
        rw [he] at ht
        exact (hm.trans (.of_saf ht)).trans ((dropRef_reportsOnly _ _).trans (complete_reportsOnly _ _ _ _ _))
    · exact hm

theorem reissueJob_reportsOnly (j : CipherJob) (s : State) : ReportsOnly s (reissueJob j s) := by
  have hr := restartJob_reportsOnly j s
  unfold reissueJob
  split
  · next he =>
    rw [he] at hr
    exact hr.trans (jobArrives_undisturbed _ _ _ _).reportsOnly
  · next he =>
    rw [he] at hr
    exact hr

theorem endJob_reportsOnly (st : Status) (s : State) (j : CipherJob) : ReportsOnly s (endJob st s j) := by
  unfold endJob
  split
  · exact .refl s
  · exact (dropRef_reportsOnly _ s).trans (complete_reportsOnly _ _ _ _ _)

theorem schedule_reportsOnly (s : State) : ReportsOnly s (schedule s) :=
  (scheduleFor_schedulesOnly _ s).reportsOnly

theorem coreLost_reportsOnly (core : Nat) (s : State) : ReportsOnly s (coreLost core s) := by
  unfold coreLost
  dsimp only
  split
  · exact ReportsOnly.trans (t := { s with cip := _ }) rfl (foldl_reportsOnly (fun _ _ => endJob_reportsOnly _ _ _) _ _)
  · exact (ReportsOnly.trans (t := { s with cip := _ }) rfl (foldl_reportsOnly (fun _ _ => reissueJob_reportsOnly _ _) _ _)).trans
      (schedule_reportsOnly _)

theorem schedLost_reportsOnly (s : State) : ReportsOnly s (schedLost s) := by
  unfold schedLost
  dsimp only
  split
  · exact ReportsOnly.trans (t := { s with cip := _ }) rfl (foldl_reportsOnly (fun _ _ => endJob_reportsOnly _ _ _) _ _)
  · exact (ReportsOnly.trans (t := { s with cip := _ }) rfl (foldl_reportsOnly (fun _ _ => reissueJob_reportsOnly _ _) _ _)).trans
      (record_reportsOnly _ _)

/-! ## What a controller was asked -/

theorem snoopHost_reportsOnly (line port : Nat) (inv : Bool) (why : BiWhy) (s : State) :
    ReportsOnly s (snoopHost line port inv why s) := .of_saf (bump_saf _ _ _ s)

theorem decodeLine_reportsOnly (off : Nat) (bad : List Nat) (s : State) : ReportsOnly s (decodeLine off bad s) := by
  simp only [decodeLine]
  split
  · exact .refl s
  · split
    · exact .refl s
    · split
      · exact .refl s
      · exact .of_saf (bump_saf _ _ _ _)
    · exact rfl
    · exact rfl

theorem serveHost_reportsOnly (h : HostMemReq) (s : State) : ReportsOnly s (serveHost h s) := by
  simp only [serveHost]
  split
  · refine (decodeLine_reportsOnly h.off h.errs s).trans (.of_saf ?_)
    rw [emit_saf]
    refine Eq.trans (b := (bump (cxlPort h.port) 4 1 (bump (controller (stackOf h.off)) 2 1
      (decodeLine h.off h.errs s))).saf) ?_ (by rw [bump_saf, bump_saf])
    generalize bump (cxlPort h.port) 4 1 _ = a
    split <;> rfl
  · have hb : (bump (cxlPort h.port) 5 1 (bump (controller (stackOf h.off)) 3 1 s)).saf = s.saf := by rw [bump_saf, bump_saf]
    generalize bump (cxlPort h.port) 5 1 _ = a at hb
    refine ReportsOnly.trans (.of_saf hb) ?_
    have hs : ∀ (d : List Byte), ReportsOnly a
        (if h.poison then poisonedWrite [(h.off / 64 * 64, 64)] a else storePiece (h.off / 64 * 64) (slice d 0 64) a) := by
      intro d
      split
      · exact rfl
      · exact (storePiece_undisturbed _ _ a).reportsOnly
    split
    · exact (hs _).trans rfl
    · exact hs _

theorem admitHost_reportsOnly (h : HostMemReq) (s : State) : ReportsOnly s (admitHost h s) := by
  simp only [admitHost]
  split
  · exact .refl s
  · split
    · split
      · split
        · exact serveHost_reportsOnly _ s
        · exact snoopHost_reportsOnly _ _ _ _ s
      · split
        · exact ReportsOnly.trans (t := spend s) rfl (snoopHost_reportsOnly _ _ _ _ _)
        · exact serveHost_reportsOnly _ s
    · split <;> split <;> exact rfl

theorem applyUpdate_saf (u : TableUpdate) (s : State) : (applyUpdate u s).saf = s.saf := by
  unfold applyUpdate
  split
  · rfl
  · split <;> rfl

theorem releaseApplied_reportsOnly (id unit : Nat) (s : State) : ReportsOnly s (releaseApplied id unit s) := by
  unfold releaseApplied
  split
  · exact ReportsOnly.trans (t := putRelease _ s) rfl (foldl_reportsOnly (fun _ _ => snoopHost_reportsOnly _ _ _ _ _) _ _)
  · exact .refl s

theorem ackTable_reportsOnly (id unit : Nat) (s : State) : ReportsOnly s (ackTable id unit s) := by
  simp only [ackTable]
  split
  · exact .refl s
  · split
    · exact ReportsOnly.trans (t := { s with spl := _ }) rfl (tableThen_servesCommands _ _).reportsOnly
    · exact rfl

theorem copyUpdate_reportsOnly (unit : Nat) (s : State) : ReportsOnly s (copyUpdate unit s) := by
  unfold copyUpdate
  split
  · exact .refl s
  · refine .trans ?_ (ackTable_reportsOnly _ _ _)
    refine .trans ?_ (releaseApplied_reportsOnly _ _ _)
    exact .of_saf ((applyUpdate_saf _ _).trans rfl)

theorem zeroingComplete_reportsOnly (stack : Nat) (s : State) : ReportsOnly s (zeroingComplete stack s) := by
  cases hr : s.spl.releases.find? fun r => stack ∈ r.toZero && stack ∉ r.toApply && (releaseSnoops s r.id stack).isEmpty with
  | none =>
    rw [zeroingComplete, hr]
    exact .refl s
  | some r => exact (zeroingComplete_undisturbed hr).reportsOnly

theorem controllerLost_reportsOnly (n : Nat) (s : State) : ReportsOnly s (controllerLost n s) := by
  unfold controllerLost
  refine ((foldl_reportsOnly (fun s w => ?_) _ s).trans (foldl_reportsOnly (fun _ _ => copyUpdate_reportsOnly _ _) _ _)).trans
    (foldl_reportsOnly (fun _ _ => zeroingComplete_reportsOnly _ _) _ _)
  refine ReportsOnly.trans (t := dropWait w.id s) rfl ?_
  dsimp only
  split
  · exact rfl
  · exact admitHost_reportsOnly _ _
  · exact .refl _

theorem ethPortLost_reportsOnly (k : Nat) (s : State) : ReportsOnly s (ethPortLost k s) :=
  foldl_reportsOnly (fun _ _ => (setLink_ethWork _ _ _ _).reportsOnly) _ s

end Sys2Proof.Machine
end

section
/-! PROOFS. What the loss of Reed engines, Bobbins and links leaves alone, and so of any unit (R224, R286, R357, R453, R455). -/

namespace Sys2Proof.Machine

/-! ## Collective operations -/

theorem endRedOp_reportsOnly (k : Nat) (o : RedOp) (st : Status) (res : List Nat) (s : State) :
    ReportsOnly s (endRedOp k o st res s) := (endRedOp_portWork k o st res s).reportsOnly

theorem failRedOp_reportsOnly (k : Nat) (o : RedOp) (st : Status) (lost : Nat) (s : State) :
    ReportsOnly s (failRedOp k o st lost s) := by
  simp only [failRedOp]
  split
  · exact endRedOp_reportsOnly _ _ _ _ s
  · refine .trans ?_ (endRedOp_reportsOnly _ _ _ _ _)
    split
    · exact .refl s
    · exact vaWrite_reportsOnly _ _ _ _ s

theorem commLost_reportsOnly (k : Nat) (rank accel : Option Nat) (relayed : Bool) (st : Status) (s : State) :
    ReportsOnly s (commLost k rank accel relayed st s) := by
  simp only [commLost]
  split
  · exact .refl s
  · refine .trans ?_ (report_reportsOnly _ _)
    refine .trans ?_ (foldl_reportsOnly (fun _ _ => failRedOp_reportsOnly _ _ _ _ _) _ _)
    exact .of_saf (by rw [setComm_saf])

theorem modComm_saf (k : Nat) (f : Comm → Comm) (s : State) : (modComm k f s).saf = s.saf := by rw [modComm, setComm_saf]

theorem setRedOp_saf (k : Nat) (o : RedOp) (s : State) : (setRedOp k o s).saf = s.saf := by rw [setRedOp, modComm_saf]

theorem addPush_reportsOnly (q comm opseq rkey roff : Nat) (data : List Byte) (control : Nat) (s : State) :
    ReportsOnly s (addPush q comm opseq rkey roff data control s) := by
  unfold addPush addOp
  exact (goHome_reportsOnly q s).trans rfl

theorem pushBytes_reportsOnly (k : Nat) (o : RedOp) (x : RedPush) (ext : List ExtRead) (s : State) :
    ReportsOnly s (pushBytes k o x ext s).1 := by
  unfold pushBytes
  split
  · exact vaRead_reportsOnly _ _ _ _ s
  · exact .refl s

theorem sendPush_reportsOnly (k : Nat) (os : BitVec 32) (p : Peer) (x : RedPush) (ext : List ExtRead) (s : State) :
    ReportsOnly s (sendPush k os p x ext s) := by
  simp only [sendPush]
  split
  · exact .refl s
  · next o _ =>
    have hb := pushBytes_reportsOnly k o x ext s
    split
    · exact commLost_reportsOnly _ _ _ _ _ s
    · split
      · next he => exact .of_fst he hb
      · next he => exact (ReportsOnly.of_fst he hb).trans (endRedOp_reportsOnly _ _ _ _ _)
      · next he =>
        exact (ReportsOnly.of_fst he hb).trans ((addPush_reportsOnly _ _ _ _ _ _ _ _).trans (.of_saf (setRedOp_saf _ _ _)))

theorem sendWaiting_reportsOnly (k : Nat) (ext : List ExtRead) (s : State) : ReportsOnly s (sendWaiting k ext s) := by
  refine foldl_reportsOnly (fun s o => foldl_reportsOnly (fun s x => ?_) _ s) _ s
  split
  · split
    · exact sendPush_reportsOnly _ _ _ _ _ s
    · exact .refl s
  · exact .refl s

theorem sendControl_reportsOnly (k : Nat) (os : BitVec 32) (rank pick off control : Nat) (s : State) :
    ReportsOnly s (sendControl k os rank pick off control s) := by
  simp only [sendControl]
  split
  · exact .refl s
  · split
    · exact commLost_reportsOnly _ _ _ _ _ s
    · exact (addPush_reportsOnly _ _ _ _ _ _ _ s).trans (.of_saf (modComm_saf _ _ _))

theorem recallPick_reportsOnly (k : Nat) (o : RedOp) (pick stage : Nat) (s : State) :
    ReportsOnly s (recallPick k o pick stage s) := by
  refine foldl_reportsOnly (fun s src => ?_) _ s
  split
  · exact sendControl_reportsOnly _ _ _ _ _ _ s
  · exact (grantRange_takesSlots _ _ _ _ _ _ s).reportsOnly
  · exact .refl s

theorem ReportsOnly.withRed {s t : State} (h : ReportsOnly s t) (r : RedState) : ReportsOnly s { t with red := r } := h

theorem replayOp_reportsOnly (k e next : Nat) (o : RedOp) (s : State) : ReportsOnly s (replayOp k e next o s) := by
  simp only [replayOp]
  split
  · exact .refl s
  · refine .trans ?_ (sendWaiting_reportsOnly _ _ _)
    refine .trans ?_ (foldl_reportsOnly (fun _ _ => recallPick_reportsOnly _ _ _ _ _) _ _)
    refine ReportsOnly.withRed ?_ _
    refine .trans ?_ (dropSlots_takesSlots _ _).reportsOnly
    exact .of_saf (by rw [pushAgain, setRedOp_saf, modComm_saf])

theorem commEngineFenced_reportsOnly (e k : Nat) (s : State) : ReportsOnly s (commEngineFenced e k s) := by
  simp only [commEngineFenced]
  split
  · exact .refl s
  · split
    · exact ReportsOnly.trans (t := setComm _ _ s) (.of_saf (by rw [setComm_saf]))
        (foldl_reportsOnly (fun _ _ => endRedOp_reportsOnly _ _ _ _ _) _ _)
    · refine .trans ?_ (fillSlots_takesSlots _ _).reportsOnly
      exact ReportsOnly.trans (t := setComm _ _ s) (.of_saf (by rw [setComm_saf]))
        (foldl_reportsOnly (fun _ _ => replayOp_reportsOnly _ _ _ _ _) _ _)

theorem reedEngineFenced_reportsOnly (e : Nat) (s : State) : ReportsOnly s (reedEngineFenced e s) :=
  foldl_reportsOnly (fun _ _ => commEngineFenced_reportsOnly _ _ _) _ s

/-! ## Links -/

theorem modAport_saf (k : Nat) (f : APort → APort) (s : State) : (modAport k f s).saf = s.saf := by rw [modAport, setAport_saf]

theorem writeEnded_reportsOnly (w : Nat × Nat) (st : Status) (s : State) : ReportsOnly s (writeEnded w st s) := by
  unfold writeEnded
  exact rfl

theorem endDevReq_reportsOnly (k : Nat) (d : DevReq) (st : Status) (data : List Byte) (s : State) :
    ReportsOnly s (endDevReq k d st data s) := by
  have hm : ∀ f, ReportsOnly s (modAport k f s) := fun f => .of_saf (modAport_saf k f s)
  simp only [endDevReq]
  split
  · split
    · exact hm _
    · exact (hm _).trans ((ReportsOnly.of_saf (modAport_saf _ _ _)).trans (sendTch_takesSlots _ _ _ _).reportsOnly)
  · split
    · exact (hm _).trans (writeEnded_reportsOnly _ _ _)
    · exact .of_saf (by rw [modAport_saf])

theorem endRequest_reportsOnly (k : Nat) (d : DevReq) (st : Status) (data : List Byte) (s : State) :
    ReportsOnly s (endRequest k d st data s) :=
  (endDevReq_reportsOnly _ _ _ _ s).trans (writersGoOn_portWork _ _ _).reportsOnly

theorem reedAccelDown_reportsOnly (port : Nat) (s : State) : ReportsOnly s (reedAccelDown port s) := by
  refine foldl_reportsOnly (fun s c => ?_) _ s
  split
  · exact commLost_reportsOnly _ _ _ _ _ s
  · exact .refl s

theorem linkLoss_reportsOnly (k : Nat) (next : APortSt) (s : State) : ReportsOnly s (linkLoss k next s) := by
  simp only [linkLoss]
  split
  · exact .refl s
  · refine .trans ?_ (record_reportsOnly _ _)
    refine .trans ?_ (reedAccelDown_reportsOnly _ _)
    refine .trans ?_ (.of_saf (modAport_saf _ _ _))
    refine .trans ?_ (foldl_reportsOnly (fun _ _ => endRequest_reportsOnly _ _ _ _ _) _ _)
    refine .trans ?_ (foldl_reportsOnly (fun _ _ => .of_saf (modAport_saf _ _ _)) _ _)
    exact .of_saf ((modAport_saf _ _ _).trans rfl)

/-! ## Launches and Bobbins -/

theorem modBobbin_saf (u : Nat) (f : Bobbin → Bobbin) (s : State) : (modBobbin u f s).saf = s.saf := by
  rw [modBobbin, setBobbin_saf]

theorem modBobbin_reportsOnly (u : Nat) (f : Bobbin → Bobbin) (s : State) : ReportsOnly s (modBobbin u f s) :=
  .of_saf (modBobbin_saf u f s)

theorem setLaunch_reportsOnly (l : Launch) (s : State) : ReportsOnly s (setLaunch l s) := .of_saf (by rw [setLaunch_saf])

theorem stopMembers_reportsOnly (l : Launch) (s : State) : ReportsOnly s (stopMembers l s) :=
  foldl_reportsOnly (fun _ _ => modBobbin_reportsOnly _ _ _) _ s

theorem endLaunch_reportsOnly (l : Launch) (s : State) : ReportsOnly s (endLaunch l s) := by
  unfold endLaunch
  refine .trans ?_ (foldl_reportsOnly (fun _ _ => by exact rfl) _ _)
  refine .trans ?_ (foldl_reportsOnly (fun _ _ => modBobbin_reportsOnly _ _ _) _ _)
  refine .trans ?_ (completeRef_reportsOnly _ _ _ _ _)
  dsimp only
  split <;> exact rfl

theorem checkLaunch_reportsOnly (id : Nat) (s : State) : ReportsOnly s (checkLaunch id s) := by
  unfold checkLaunch
  split
  · exact .refl s
  · split
    · exact .refl s
    · exact .refl s
    · split
      · exact endLaunch_reportsOnly _ s
      · exact .refl s
    · split
      · exact .refl s
      · exact endLaunch_reportsOnly _ s
    · split
      · exact .refl s
      · exact (setLaunch_reportsOnly _ s).trans (foldl_reportsOnly (fun _ _ => modBobbin_reportsOnly _ _ _) _ _)

theorem stopLaunch_reportsOnly (id : Nat) (st : Status) (u : Option Nat) (pc : Nat) (s : State) :
    ReportsOnly s (stopLaunch id st u pc s) := by
  unfold stopLaunch
  split
  · exact .refl s
  · split
    · exact .refl s
    · exact ((setLaunch_reportsOnly _ s).trans (stopMembers_reportsOnly _ _)).trans (checkLaunch_reportsOnly _ _)

theorem replaysLost_reportsOnly (p n : Nat) (s : State) : ReportsOnly s (replaysLost p n s) :=
  foldl_reportsOnly (fun _ _ => stopLaunch_reportsOnly _ _ _ _ _) _ s

theorem bobbinFenced_reportsOnly (u : Nat) (s : State) : ReportsOnly s (bobbinFenced u s) := by
  have hm : ∀ f, ReportsOnly s (modBobbin u f s) := fun f => modBobbin_reportsOnly u f s
  simp only [bobbinFenced]
  split
  · exact (hm _).trans (replaysLost_reportsOnly _ _ _)
  · split
    · exact (hm _).trans (checkLaunch_reportsOnly _ _)
    · split
      · refine .trans ?_ (checkLaunch_reportsOnly _ _)
        refine .trans ?_ (stopMembers_reportsOnly _ _)
        refine .trans ?_ (setLaunch_reportsOnly _ _)
        exact .of_saf (by rw [modBobbin_saf])
      · exact (hm _).trans (stopLaunch_reportsOnly _ _ _ _ _)

/-! ## Any unit -/

theorem unitLost_reportsOnly (owned : List SkeinRef) (qs : List Nat) (u : Nat) (s : State) :
    ReportsOnly s (unitLost owned qs u s) := by
  simp only [unitLost]
  split
  · exact procLost_reportsOnly _ s
  · split
    · have h := sliceLost_reportsOnly (dieOf u) .fenced s
      split
      · exact h
      · exact h.trans (record_reportsOnly _ _)
    · refine .trans ?_ (shuttleLost_reportsOnly _ _)
      split
      · exact homeMoves_reportsOnly _ s
      · exact .refl s
  · split
    · exact .refl s
    · exact reedEngineFenced_reportsOnly _ s
  · exact homeMoves_reportsOnly _ s
  · split
    · split
      · exact schedLost_reportsOnly s
      · exact .refl s
    · exact coreLost_reportsOnly _ s
  · exact bobbinFenced_reportsOnly _ s
  · exact controllerLost_reportsOnly _ s
  · exact ethPortLost_reportsOnly _ s
  · split
    · exact (cxlDown_portWork _ s).reportsOnly
    · exact linkLoss_reportsOnly _ _ s
  · exact .refl s

end Sys2Proof.Machine
end

section
/-! PROOFS. Fences: every unit of the list that is in no fence yet is fenced, and stays so (R450, R452). -/

namespace Sys2Proof.Machine

/-! ## A unit is marked -/

theorem pwrSetDone_reportsOnly (r : CmdRef) (s : State) : ReportsOnly s (pwrSetDone r s) :=
  ReportsOnly.trans (t := completeRef r .ok [active s] treadle { s with pwr := { s.pwr with setWait := none } })
    (.of_saf ((completeRef_undisturbed _ _ _ _ _).saf.trans rfl)) (foldl_reportsOnly (fun _ _ => report_reportsOnly _ _) _ _)

theorem releaseTokens_reportsOnly (u : Nat) (s : State) : ReportsOnly s (releaseTokens u s) := by
  unfold releaseTokens checkPwrSet
  split
  · split
    · exact .trans rfl (pwrSetDone_reportsOnly _ _)
    · exact rfl
  · exact rfl

theorem setPresent_reportsOnly (v : BitVec 40) (s : State) : ReportsOnly s (setPresent v s) := by
  obtain ⟨w, h⟩ := setPresent_portWork v s
  exact ReportsOnly.trans (t := { s with weft := w }) rfl h.reportsOnly

/-- A unit leaves service: its fence, its slice of tests, its tokens, and for a router its die. -/
def fenceMark (dep : Nat → Bool) (s : State) (u : Nat) : State :=
  let s := setSafUnit u { safUnit s u with fenced := true, dependent := dep u } s
  let s := releaseTokens u { s with saf := { s.saf with slices := s.saf.slices.filter fun t => t.unit != u } }
  if classOf u = 9 then setPresent (s.weft.diePresent &&& ~~~(BitVec.ofNat 40 (2 ^ dieOf u))) s else s

theorem fenceMark_reportsOnly (dep : Nat → Bool) (s : State) (u : Nat) :
    ReportsOnly { s with saf := { s.saf with
        unit := tset {} s.saf.unit u { safUnit s u with fenced := true, dependent := dep u }
        slices := s.saf.slices.filter fun t => t.unit != u } } (fenceMark dep s u) := by
  have hr := releaseTokens_reportsOnly u { s with saf := { s.saf with
    unit := tset {} s.saf.unit u { safUnit s u with fenced := true, dependent := dep u }
    slices := s.saf.slices.filter fun t => t.unit != u } }
  unfold fenceMark
  dsimp only
  split
  · exact hr.trans (setPresent_reportsOnly _ _)
  · exact hr

theorem fenced_fenceMark (dep : Nat → Bool) (s : State) (u x : Nat) :
    fenced (fenceMark dep s u) x = (x == u || fenced s x) := by
  rw [(fenceMark_reportsOnly dep s u).fenced]
  by_cases hx : x = u
  · rw [beq_iff_eq.mpr hx, hx]
    exact (congrArg SafUnit.fenced (safUnit_setSafUnit (s := s) u { safUnit s u with fenced := true, dependent := dep u })).trans rfl
  · rw [beq_false_of_ne hx, Bool.false_or]
    exact congrArg SafUnit.fenced (safUnit_setSafUnit_other (s := s) u { safUnit s u with fenced := true, dependent := dep u } x hx)

theorem foldl_fenceMark (dep : Nat → Bool) (us : List Nat) (s : State) :
    (us.foldl (fenceMark dep) s).saf.fenceSeen = s.saf.fenceSeen ∧
    ∀ x, fenced (us.foldl (fenceMark dep) s) x = (us.contains x || fenced s x) := by
  induction us generalizing s with
  | nil => exact ⟨rfl, fun _ => rfl⟩
  | cons u us ih =>
    obtain ⟨hseen, hfenced⟩ := ih (fenceMark dep s u)
    refine ⟨hseen.trans (fenceMark_reportsOnly dep s u).fenceSeen, fun x => ?_⟩
    rw [List.foldl_cons, hfenced, fenced_fenceMark, List.contains_cons, ← Bool.or_assoc, Bool.or_comm (us.contains x)]

/-! ## The units of a list -/

/-- The units of a list that a fence takes out of service. -/
def newlyFenced (us : List Nat) (s : State) : List Nat := us.filter fun u => validUnit u && !fenced s u

/-- What each unit served before it was fenced. -/
def servedBefore (s : State) (u : Nat) : Nat × List SkeinRef × List Nat :=
  (u, if classOf u = 0 then procSkeins s (4 * dieOf u + instOf u) else [],
      if classOf u = 1 ∧ instOf u < 8 then engineQps s u else [])

theorem fenceUnits_state (us : List Nat) (dep : Nat → Bool) (s : State) : (fenceUnits us dep s).2.2 =
    ((newlyFenced us s).map (servedBefore s)).foldl (fun s h => unitLost h.2.1 h.2.2 h.1 s)
      ((newlyFenced us s).foldl (fenceMark dep)
        { s with saf := { s.saf with fenceSeen := s.saf.fenceSeen || !(newlyFenced us s).isEmpty } }) := rfl

theorem fenceUnits_reportsOnly (us : List Nat) (dep : Nat → Bool) (s : State) :
    ReportsOnly ((newlyFenced us s).foldl (fenceMark dep)
      { s with saf := { s.saf with fenceSeen := s.saf.fenceSeen || !(newlyFenced us s).isEmpty } })
      (fenceUnits us dep s).2.2 := by
  rw [fenceUnits_state]
  exact foldl_reportsOnly (fun _ _ => unitLost_reportsOnly _ _ _ _) _ _

theorem fenceUnits_fenced (dep : Nat → Bool) {us : List Nat} {s : State} {x : Nat} (hx : x ∈ us) (hv : validUnit x = true) :
    fenced (fenceUnits us dep s).2.2 x = true := by
  have hf := (foldl_fenceMark dep (newlyFenced us s)
    { s with saf := { s.saf with fenceSeen := s.saf.fenceSeen || !(newlyFenced us s).isEmpty } }).2 x
  rw [(fenceUnits_reportsOnly us dep s).fenced, hf, Bool.or_eq_true, List.contains_iff_mem]
  cases hd : fenced s x with
  | true => exact .inr hd
  | false => exact .inl (List.mem_filter.mpr ⟨hx, by rw [hv, hd]; rfl⟩)

theorem fenceUnits_fenceSeen (dep : Nat → Bool) {us : List Nat} {s : State} {x : Nat} (hx : x ∈ us) (hv : validUnit x = true)
    (hd : fenced s x = false) : (fenceUnits us dep s).2.2.saf.fenceSeen = true := by
  have hmem : x ∈ newlyFenced us s := List.mem_filter.mpr ⟨hx, by rw [hv, hd]; rfl⟩
  have hne : (newlyFenced us s).isEmpty = false := List.isEmpty_eq_false_iff_exists_mem.mpr ⟨x, hmem⟩
  rw [(fenceUnits_reportsOnly us dep s).fenceSeen, (foldl_fenceMark _ _ _).1, hne]
  exact Bool.or_true _

/-! ## A fence on a cause -/

section
variable {r : Record} {us : List Nat} {s : State} {x : Nat} (hx : x ∈ us) (hd : fenced s x = false)
include hx hd

/-- The record of a fence follows the fence. -/
theorem fenceOn_new : ∃ r', fenceOn r us s = writeRecord r' (fenceUnits us (fun u => u != r.unit) s).2.2 := by
  have hall : us.all (fenced s) = false := by
    rw [List.all_eq_false]
    exact ⟨x, hx, by rw [hd]; exact Bool.false_ne_true⟩
  unfold fenceOn
  rw [hall, if_neg Bool.false_ne_true]
  exact ⟨_, rfl⟩

theorem fenceOn_fences (hv : validUnit x = true) : (fenceOn r us s).saf.fenceSeen = true ∧
    ∀ y ∈ us, validUnit y = true → fenced (fenceOn r us s) y = true := by
  obtain ⟨r', h⟩ := fenceOn_new (r := r) hx hd
  rw [h]
  refine ⟨?_, fun y hy hvy => ?_⟩
  · rw [show ∀ t, (writeRecord r' t).saf.fenceSeen = t.saf.fenceSeen from
      fun t => congrArg (·.saf.fenceSeen) (writeRecord_touches r' t)]
    exact fenceUnits_fenceSeen _ hx hv hd
  · rw [(writeRecord_notes r' _).fenced]
    exact fenceUnits_fenced _ hy hvy

end

theorem ended_fenced (s t : State) (u : Nat) : fenced (ended s t) u = fenced t u := (ended_notes s t).fenced u

theorem ended_fenceSeen (s t : State) : (ended s t).saf.fenceSeen = t.saf.fenceSeen :=
  congrArg (·.saf.fenceSeen) (ended_spec s t)

end Sys2Proof.Machine
end

section
/-! PROOFS. Detections, records and fences as the Selvedge takes them (R449 to R454, R458, R469). -/

namespace Sys2Proof.Machine

/-! ## What handling the reports leaves of the Selvedge -/

theorem ended_saf (s t : State) : (ended s t).saf = (settle t).saf := by
  obtain ⟨o, ho⟩ := pinsSeen_eq s.pins (drivePins (settle t))
  unfold ended
  rw [ho]
  rfl

theorem ended_saf_quiet (s : State) {t : State} (h : t.saf.todo = []) : (ended s t).saf = t.saf := by
  rw [ended_saf, settle_quiet t h]

/-- A detection that waits alone reaches the Selvedge's list. -/
theorem ended_saf_detection (s : State) {t : State} {r : Record} (h : t.saf.todo = [.record r]) (hc : causeFences r.cause = true)
    (hf : r.fence = false) : (ended s t).saf = { t.saf with todo := [], detected := t.saf.detected ++ [r] } := by
  have hfuel : t.saf.todo.length + t.jcq.admin.length = t.jcq.admin.length + 1 := by
    rw [h, List.length_singleton, Nat.add_comm]
  have hdet : handleReport (.record r) { t with saf := { t.saf with todo := [] } } =
      { t with saf := { t.saf with todo := [], detected := t.saf.detected ++ [r] } } := by
    refine (if_pos ?_).trans rfl
    rw [hc, hf]
    rfl
  rw [ended_saf, settle, hfuel, settleFor, h]
  dsimp only
  rw [hdet, settleFor_quiet _ _ rfl]

/-- A command that changes the Selvedge's state alone, no report and no overflow among it, ends with exactly its effect. -/
theorem ends_selvedge {s t : State} (hs : settled s) (hu : Undisturbed { s with saf := t.saf } t) (ht : t.saf.todo = s.saf.todo)
    (hd : t.saf.dangerOverflow = s.saf.dangerOverflow) : ends s t = .next t :=
  congrArg Host.Outcome.next (ended_settled s t hs (ht.trans hs.1) hu.pins (congrArg FwState.safeMode hu.fw)
    (congrArg HangState.pkgNeeded hu.hang) hd hu.pending hu.time)

/-! ## LOCKSTEP_MISCOMPARE (R469) -/

theorem evictHostLines_saf (s : State) : (evictHostLines s).saf = s.saf := by
  refine foldl_related (R := fun s t : State => t.saf = s.saf) (fun _ => rfl) (fun h k => k.trans h) (fun s x => ?_) _ s
  exact foldl_related (R := fun s t : State => t.saf = s.saf) (fun _ => rfl) (fun h k => k.trans h)
    (fun s l => emit_saf s (.cacheReq x l .dirtyEvict)) _ s

theorem putEvent_reportsOnly (p typ : Nat) (st : Status) (unit object info : Nat) (s : State) :
    ReportsOnly s (putEvent p typ st unit object info s).1 := by
  have hb := fun src ctx pa bs => bufWrite_reportsOnly src p ctx pa bs s
  simp only [putEvent]
  split
  · next x he =>
    refine (ReportsOnly.of_fst he (hb _ _ _ _)).trans (.of_saf ?_)
    rw [setAdminQ_saf, (fireArm_safJcq _ _ _).1]
  · next he =>
    refine (ReportsOnly.of_fst he (hb _ _ _ _)).trans (.of_saf ?_)
    rw [setAdminQ_saf]

theorem postEvent_reportsOnly (p typ : Nat) (st : Status) (unit object info : Nat) (s : State) :
    ReportsOnly s (postEvent p typ st unit object info s) := by
  have hp := putEvent_reportsOnly p typ st unit object info s
  have hl : ∀ t, ReportsOnly t (loseEvent p typ t) := fun t => rfl
  simp only [postEvent]
  split
  · exact hl s
  · split
    · next he => exact .of_fst he hp
    · next he => exact (ReportsOnly.of_fst he hp).trans (hl _)

/-- A record that there is room for takes its place, and what else is done with it leaves reports alone. -/
theorem writeRecord_reportsOnly (r : Record) (s : State) : ReportsOnly (putRecord r s) (writeRecord r s) := by
  simp only [writeRecord]
  split
  · split
    · split
      · exact postEvent_reportsOnly _ _ _ _ _ _ _
      · exact (postEvent_reportsOnly _ _ _ _ _ _ _).trans (postEvent_reportsOnly _ _ _ _ _ _ _)
    · exact postEvent_reportsOnly _ _ _ _ _ _ _
  · exact .refl _

theorem putRecord_danger {r : Record} {s : State} (hc : r.cls = 3) (h : occupied s < 1024) : putRecord r s =
    { s with saf := { s.saf with
      ring := tset none s.saf.ring (s.saf.nextSeq.toNat % 1024) (some { r with seq := s.saf.nextSeq })
      nextSeq := s.saf.nextSeq + 1 } } := by
  simp only [putRecord, hc, if_true, h, decide_true]

section
variable {u i : Nat} {s : State} (hd : dieOf u = 38) (hv : validUnit u = true)
include hd hv

theorem lockstep_starts : ∃ w r, ReportsOnly (putRecord r { s with saf := { s.saf with lockstepSeen := true } }) w ∧
    w.time = s.time ∧ r.unit = u ∧ r.cause = 0x0701 ∧ r.cls = 3 ∧
      exec (.lockstepMiscompare u i) s = .next (ended s (beginStart true w)) := by
  refine ⟨_, _, writeRecord_reportsOnly { mkRecord { s with saf := { s.saf with lockstepSeen := true } } u 0x0701 with
    info0 := u + 1024, info1 := i } _, ?_, rfl, rfl, rfl, ?_⟩
  · exact (writeRecord_touches _ _).time
  · refine congrArg (ends s) (if_neg ?_)
    rw [hd, hv]
    simp

theorem exec_lockstepMiscompare : ∃ t, exec (.lockstepMiscompare u i) s = .next t ∧
    t.fw.start = some { warm := true, done := [], at_ := frameTime s } ∧ t.saf.lockstepSeen = true ∧
    (occupied s < 1024 → t.saf.nextSeq = s.saf.nextSeq + 1 ∧ ∃ r, tget none t.saf.ring (s.saf.nextSeq.toNat % 1024) = some r ∧
      r.unit = u ∧ r.cause = 0x0701 ∧ r.cls = 3) := by
  obtain ⟨w, r, hw, htime, hunit, hcause, hcls, he⟩ := lockstep_starts (i := i) (s := s) hd hv
  have hsaf : (ended s (beginStart true w)).saf = warmSaf w.saf := by
    rw [ended_saf_quiet s rfl]
    exact congrArg warmSaf (evictHostLines_saf w)
  have hfw : (ended s (beginStart true w)).fw.start = some { warm := true, done := [], at_ := frameTime w } := by
    rw [ended_fw]
    exact beginStart_start true w
  refine ⟨_, he, ?_, ?_, fun hroom => ?_⟩
  · rw [hfw, frameTime, dieTime, htime]
    rfl
  · rw [hsaf]
    refine (congrArg SafState.lockstepSeen hw).trans ?_
    exact congrArg (·.saf.lockstepSeen) (putRecord_touches r _)
  · have hput := putRecord_danger (s := { s with saf := { s.saf with lockstepSeen := true } }) hcls hroom
    rw [hput] at hw
    rw [hsaf]
    refine ⟨(congrArg SafState.nextSeq hw).trans rfl, { r with seq := s.saf.nextSeq }, ?_, hunit, hcause, hcls⟩
    refine (congrArg (fun f : SafState => tget none f.ring (s.saf.nextSeq.toNat % 1024)) hw).trans ?_
    exact tget_tset_same (none : Option Record) s.saf.ring (s.saf.nextSeq.toNat % 1024) (some { r with seq := s.saf.nextSeq })

end

/-! ## FAULT_REPORT (R449, R450, R454) -/

theorem exec_faultReport_none {s : State} (hd : s.saf.detected = []) (hs : settled s) : exec .faultReport s = .next s := by
  have he : faultReport s = s := by rw [faultReport, hd]
  exact (congrArg (ends s) he).trans (ends_undisturbed hs (.refl s))

section
variable {s : State} {r : Record} {rest : List Record} (hd : s.saf.detected = r :: rest) (hc : r.cause ≠ 0x0601)
include hd hc

theorem faultReport_unit : faultReport s =
    if fenced s r.unit then { s with saf := { s.saf with detected := rest, repeats := satInc s.saf.repeats } }
    else fenceOn r (fencedWith r.unit) { s with saf := { s.saf with detected := rest } } := by
  unfold faultReport
  rw [hd]
  dsimp only
  rw [if_neg hc, detectionUnits, if_neg hc]
  rfl

theorem exec_faultReport_repeats (hf : fenced s r.unit = true) (hs : settled s) : exec .faultReport s =
    .next { s with saf := { s.saf with detected := rest, repeats := satInc s.saf.repeats } } := by
  refine (congrArg (ends s) ((faultReport_unit hd hc).trans (if_pos hf))).trans (ends_selvedge hs ?_ rfl rfl)
  exact ⟨rfl, rfl, rfl, rfl, rfl, rfl⟩

theorem exec_faultReport_fences (hf : fenced s r.unit = false) (hv : validUnit r.unit = true) :
    ∃ t, exec .faultReport s = .next t ∧ fenced t r.unit = true ∧ t.saf.fenceSeen = true ∧
      ∀ u ∈ dependents r.unit, validUnit u = true → fenced t u = true := by
  have he : exec .faultReport s =
      .next (ended s (fenceOn r (fencedWith r.unit) { s with saf := { s.saf with detected := rest } })) :=
    congrArg (ends s) ((faultReport_unit hd hc).trans (if_neg (by rw [hf]; exact Bool.false_ne_true)))
  have hself : r.unit ∈ fencedWith r.unit := List.mem_cons_self
  obtain ⟨hseen, hall⟩ := fenceOn_fences (r := r) (s := { s with saf := { s.saf with detected := rest } }) hself hf hv
  refine ⟨_, he, ?_, ?_, fun u hu huv => ?_⟩
  · rw [ended_fenced]
    exact hall _ hself hv
  · rw [ended_fenceSeen]
    exact hseen
  · rw [ended_fenced]
    exact hall u (List.mem_cons_of_mem _ hu) huv

end

end Sys2Proof.Machine
end

section
/-! PROOFS. Copies compared, test slices and passes (R458, R470 to R472). -/

namespace Sys2Proof.Machine

/-! ## COPY_COMPARE (R458) -/

/-- A comparison is noted. -/
def compareNoted (u : Nat) (s : State) : State :=
  { s with saf := { s.saf with compareAt := tset 0 s.saf.compareAt u (unitTime s u) } }

/-- The unit's copies equal the reference. -/
def copyIntact (u : Nat) (s : State) : Bool :=
  (classOf u == 3 || tget [] s.spl.gotCopy (dieOf u - 8) == s.spl.got) &&
    (if classOf u = 6 then tget [] s.spl.ctxCopy (dieOf u - 8) else tget [] s.hdl.ctxCopy (dieOf u)) == s.hdl.ctxPart

/-- The unit's copies are those of the reference. -/
def copyReloaded (u : Nat) (s : State) : State :=
  if classOf u = 6 then
    { s with spl := { s.spl with gotCopy := tset [] s.spl.gotCopy (dieOf u - 8) s.spl.got
                                 ctxCopy := tset [] s.spl.ctxCopy (dieOf u - 8) s.hdl.ctxPart } }
  else { s with hdl := { s.hdl with ctxCopy := tset [] s.hdl.ctxCopy (dieOf u) s.hdl.ctxPart } }

/-- A reload is noted and reported. -/
def mismatchNoted (u : Nat) (s : State) : State :=
  record { mkRecord s u 0x0207 with info0 := u } { s with saf := { s.saf with copyMismatchSeen := true } }

section
variable {u : Nat} {upset : Bool} {s : State} (hc : classOf u = 6 ∨ classOf u = 3) (hi : inService s u = true)
  (hq : ∀ x ∈ s.spl.updates, x.unit ≠ u)
include hc hi hq

theorem copyCompare_runs : copyCompare u upset s = if !compareDue s u then s
    else if copyIntact u s && !upset then compareNoted u s else mismatchNoted u (copyReloaded u (compareNoted u s)) := by
  have hcls : (classOf u == 6 || classOf u == 3) = true := by
    rcases hc with h | h <;> rw [h] <;> rfl
  have hany : s.spl.updates.any (fun x => x.unit == u) = false := by
    rw [List.any_eq_false]
    exact fun x hx hb => hq x hx (beq_iff_eq.mp hb)
  unfold copyCompare
  rw [hcls, hi, hany]
  cases compareDue s u
  · rfl
  · rfl

theorem exec_copyCompare_early (hd : compareDue s u = false) (hs : settled s) : exec (.copyCompare u upset) s = .next s := by
  refine (congrArg (ends s) ((copyCompare_runs hc hi hq).trans (if_pos ?_))).trans (ends_undisturbed hs (.refl s))
  rw [hd]
  rfl

variable (hd : compareDue s u = true)
include hd

theorem copyCompare_due : copyCompare u upset s =
    if copyIntact u s && !upset then compareNoted u s else mismatchNoted u (copyReloaded u (compareNoted u s)) := by
  rw [copyCompare_runs hc hi hq, hd]
  rfl

theorem exec_copyCompare_same (hu : upset = false) (hsame : copyIntact u s = true) (hs : settled s) :
    exec (.copyCompare u upset) s = .next (compareNoted u s) := by
  refine (congrArg (ends s) ((copyCompare_due hc hi hq hd).trans (if_pos ?_))).trans (ends_selvedge hs ?_ rfl rfl)
  · rw [hu, hsame]
    rfl
  · exact ⟨rfl, rfl, rfl, rfl, rfl, rfl⟩

theorem exec_copyCompare_reloads (hdiff : upset = true ∨ copyIntact u s = false) : ∃ t,
    exec (.copyCompare u upset) s = .next t ∧ t.saf.copyMismatchSeen = true ∧
      t.spl.gotCopy = (copyReloaded u s).spl.gotCopy ∧ t.spl.ctxCopy = (copyReloaded u s).spl.ctxCopy ∧
      t.hdl.ctxCopy = (copyReloaded u s).hdl.ctxCopy := by
  have hk : (copyIntact u s && !upset) = false := by
    rcases hdiff with h | h <;> rw [h]
    · exact Bool.and_false _
    · rfl
  have hspec := ended_spec s (mismatchNoted u (copyReloaded u (compareNoted u s)))
  have hsame : (copyReloaded u (compareNoted u s)).spl = (copyReloaded u s).spl ∧
      (copyReloaded u (compareNoted u s)).hdl = (copyReloaded u s).hdl := by
    unfold copyReloaded
    split <;> exact ⟨rfl, rfl⟩
  refine ⟨_, congrArg (ends s) ((copyCompare_due hc hi hq hd).trans (if_neg (by rw [hk]; exact Bool.false_ne_true))),
    (congrArg (·.saf.copyMismatchSeen) hspec).trans rfl, (congrArg (·.spl.gotCopy) hspec).trans ?_,
    (congrArg (·.spl.ctxCopy) hspec).trans ?_, (congrArg (·.hdl.ctxCopy) hspec).trans ?_⟩
  · rw [← hsame.1]
    rfl
  · rw [← hsame.1]
    rfl
  · rw [← hsame.2]
    rfl

end

theorem classOf_controller (n : Nat) : classOf (controller n) = 6 := by
  unfold classOf controller unitId
  omega

theorem dieOf_controller (n : Nat) : dieOf (controller n) - 8 = n := by
  unfold dieOf controller unitId
  omega

theorem classOf_heddle (h : Nat) : classOf (heddle h) = 3 := by
  unfold classOf heddle unitId
  omega

theorem dieOf_heddle (h : Nat) : dieOf (heddle h) = h := by
  unfold dieOf heddle unitId
  omega

theorem copyIntact_controller (n : Nat) (s : State) : copyIntact (controller n) s = true ↔
    tget [] s.spl.gotCopy n = s.spl.got ∧ tget [] s.spl.ctxCopy n = s.hdl.ctxPart := by
  rw [copyIntact, classOf_controller, dieOf_controller, if_pos rfl, Bool.and_eq_true, beq_iff_eq]
  exact and_congr_left fun _ => beq_iff_eq

theorem copyIntact_heddle (h : Nat) (s : State) : copyIntact (heddle h) s = true ↔ tget [] s.hdl.ctxCopy h = s.hdl.ctxPart := by
  rw [copyIntact, classOf_heddle, dieOf_heddle, if_neg (by decide), Bool.and_eq_true, beq_iff_eq]
  exact and_iff_right rfl

section
variable {n : Nat} {upset : Bool} {s : State} (hi : inService s (controller n) = true)
  (hq : ∀ x ∈ s.spl.updates, x.unit ≠ controller n)
include hi hq

theorem exec_copyCompare_controllerReloads (hd : compareDue s (controller n) = true)
    (h : upset = true ∨ tget [] s.spl.gotCopy n ≠ s.spl.got ∨ tget [] s.spl.ctxCopy n ≠ s.hdl.ctxPart) : ∃ t,
      exec (.copyCompare (controller n) upset) s = .next t ∧ t.saf.copyMismatchSeen = true ∧
      tget [] t.spl.gotCopy n = s.spl.got ∧ tget [] t.spl.ctxCopy n = s.hdl.ctxPart := by
  have hdiff : upset = true ∨ copyIntact (controller n) s = false := by
    refine h.imp_right fun h => Bool.eq_false_iff.mpr fun hsame => ?_
    obtain ⟨hgot, hctx⟩ := (copyIntact_controller n s).mp hsame
    exact h.elim (fun h => h hgot) (fun h => h hctx)
  obtain ⟨t, he, hseen, hgot, hctx, -⟩ := exec_copyCompare_reloads (.inl (classOf_controller n)) hi hq hd hdiff
  refine ⟨t, he, hseen, ?_, ?_⟩
  · rw [hgot, copyReloaded, if_pos (classOf_controller n), dieOf_controller]
    exact tget_tset_same _ _ _ _
  · rw [hctx, copyReloaded, if_pos (classOf_controller n), dieOf_controller]
    exact tget_tset_same _ _ _ _

end

section
variable {h : Nat} {upset : Bool} {s : State} (hi : inService s (heddle h) = true) (hq : ∀ x ∈ s.spl.updates, x.unit ≠ heddle h)
include hi hq

theorem exec_copyCompare_heddleReloads (hd : compareDue s (heddle h) = true)
    (hne : upset = true ∨ tget [] s.hdl.ctxCopy h ≠ s.hdl.ctxPart) : ∃ t, exec (.copyCompare (heddle h) upset) s = .next t ∧
      t.saf.copyMismatchSeen = true ∧ tget [] t.hdl.ctxCopy h = s.hdl.ctxPart := by
  have hdiff : upset = true ∨ copyIntact (heddle h) s = false :=
    hne.imp_right fun hn => Bool.eq_false_iff.mpr fun hsame => hn ((copyIntact_heddle h s).mp hsame)
  obtain ⟨t, he, hseen, -, -, hctx⟩ := exec_copyCompare_reloads (.inr (classOf_heddle h)) hi hq hd hdiff
  refine ⟨t, he, hseen, ?_⟩
  rw [hctx, copyReloaded, if_neg (by rw [classOf_heddle]; decide), dieOf_heddle]
  exact tget_tset_same _ _ _ _

end

/-! ## Test slices (R470, R472) -/

theorem exec_testSliceStart {u : Nat} {s : State} (hs : settled s) (hx : ∀ x ∈ s.saf.slices, x.unit ≠ u) :
    exec (.testSliceStart u) s = .next
      (if s.fw.ready = true ∧ s.saf.testEnable = true ∧ tested s u = true ∧ unitBusy s u = false then { s with saf :=
        { s.saf with slices := s.saf.slices ++ [{ unit := u, vector := tget 0 s.saf.nextVector u }] } } else s) := by
  have hany : s.saf.slices.any (fun t => t.unit == u) = false := by
    rw [List.any_eq_false]
    exact fun x hm hb => hx x hm (beq_iff_eq.mp hb)
  have he : testStart u s = if s.fw.ready = true ∧ s.saf.testEnable = true ∧ tested s u = true ∧ unitBusy s u = false then
      { s with saf := { s.saf with slices := s.saf.slices ++ [{ unit := u, vector := tget 0 s.saf.nextVector u }] } } else s := by
    unfold testStart
    rw [hany]
    simp only [Bool.and_eq_true, Bool.not_eq_true', Bool.not_false, and_true, and_assoc]
  refine (congrArg (ends s) he).trans ?_
  split
  · exact ends_selvedge hs ⟨rfl, rfl, rfl, rfl, rfl, rfl⟩ rfl rfl
  · exact ends_undisturbed hs (.refl s)

/-- A slice is over, and a core of the cipher complex takes jobs again. -/
def sliceOver (u : Nat) (s : State) : State :=
  let s := { s with saf := { s.saf with slices := s.saf.slices.filter fun x => x.unit != u } }
  if classOf u = 4 then schedule s else s

theorem sliceOver_schedulesOnly (u : Nat) (s : State) :
    SchedulesOnly { s with saf := { s.saf with slices := s.saf.slices.filter fun x => x.unit != u } } (sliceOver u s) := by
  unfold sliceOver
  dsimp only
  split
  · exact scheduleFor_schedulesOnly _ _
  · exact .refl _

theorem sliceOver_saf (u : Nat) (s : State) : (sliceOver u s).saf =
    { s.saf with slices := s.saf.slices.filter fun x => x.unit != u } :=
  (congrArg State.saf (sliceOver_schedulesOnly u s)).trans rfl

theorem sliceOver_time (u : Nat) (s : State) : (sliceOver u s).time = s.time :=
  (congrArg State.time (sliceOver_schedulesOnly u s)).trans rfl

/-- A vector that fails is a detection, with the vector. -/
theorem testFails_detected {u v : Nat} {s w : State} (hw : w.saf.todo = []) : ∃ r,
    (ended s (testFails u v w)).saf = { w.saf with testFailSeen := true, todo := [], detected := w.saf.detected ++ [r] } ∧
      r.unit = u ∧ r.cause = 0x0703 ∧ r.info0 = v := by
  refine ⟨{ mkRecord w u 0x0703 with info0 := v }, ?_, rfl, rfl, rfl⟩
  have htodo : (testFails u v w).saf.todo = [.record { mkRecord w u 0x0703 with info0 := v }] := by
    show w.saf.todo ++ _ = _
    rw [hw]
    rfl
  rw [ended_saf_detection s htodo rfl rfl]
  rfl

section
variable {u ran : Nat} {s : State} {x : TestSlice} (hx : s.saf.slices.find? (fun x => x.unit == u) = some x)
include hx

theorem testEnd_fails (v : Nat) : testEnd u ran (some v) s = testFails u v (sliceOver u s) := by
  rw [testEnd, hx]
  rfl

theorem testEnd_yields : testEnd u ran none s =
    if x.vector + ran ≥ vectorsFor (sliceOver u s) u then
      { sliceOver u s with saf := { (sliceOver u s).saf with
        nextVector := tset 0 (sliceOver u s).saf.nextVector u 0
        passAt := tset 0 (sliceOver u s).saf.passAt u (frameTime (sliceOver u s)) } }
    else { sliceOver u s with saf := { (sliceOver u s).saf with
      nextVector := tset 0 (sliceOver u s).saf.nextVector u (x.vector + ran) } } := by
  rw [testEnd, hx]
  rfl

omit hx in
theorem slices_filtered (u : Nat) (l : List TestSlice) : ∀ y ∈ l.filter (fun x => x.unit != u), y.unit ≠ u :=
  fun _ hy => bne_iff_ne.mp (List.mem_filter.mp hy).2

variable (hs : settled s)
include hs

theorem exec_testSliceEnd_fails (v : Nat) : ∃ t r, exec (.testSliceEnd u ran (some v)) s = .next t ∧ t.saf.testFailSeen = true ∧
    t.saf.detected = s.saf.detected ++ [r] ∧ r.unit = u ∧ r.cause = 0x0703 ∧ r.info0 = v ∧ ∀ y ∈ t.saf.slices, y.unit ≠ u := by
  obtain ⟨r, hsaf, hunit, hcause, hinfo⟩ := testFails_detected (u := u) (v := v) (s := s) (w := sliceOver u s)
    (by rw [sliceOver_saf]; exact hs.1)
  rw [sliceOver_saf] at hsaf
  refine ⟨_, r, congrArg (ends s) (testEnd_fails hx v), ?_, ?_, hunit, hcause, hinfo, ?_⟩
  · rw [hsaf]
  · rw [hsaf]
  · rw [hsaf]
    exact slices_filtered u _

theorem exec_testSliceEnd_yields : ∃ t, exec (.testSliceEnd u ran none) s = .next t ∧ (∀ y ∈ t.saf.slices, y.unit ≠ u) ∧
    (vectorsFor s u ≤ x.vector + ran → tget 0 t.saf.nextVector u = 0 ∧ tget 0 t.saf.passAt u = frameTime s) ∧
    (x.vector + ran < vectorsFor s u → tget 0 t.saf.nextVector u = x.vector + ran ∧ t.saf.passAt = s.saf.passAt) := by
  have hvec : vectorsFor (sliceOver u s) u = vectorsFor s u := by
    unfold vectorsFor
    rw [sliceOver_saf]
  have htime : frameTime (sliceOver u s) = frameTime s := by
    unfold frameTime dieTime
    rw [sliceOver_time]
  have hy := testEnd_yields (ran := ran) hx
  rw [hvec, htime, sliceOver_saf] at hy
  refine ⟨_, congrArg (ends s) hy, ?_⟩
  split
  · next h =>
    rw [ended_saf_quiet s (by exact hs.1)]
    refine ⟨slices_filtered u _, fun _ => ⟨tget_tset_same 0 s.saf.nextVector u 0,
      tget_tset_same 0 s.saf.passAt u (frameTime s)⟩, fun hlt => absurd h (Nat.not_le.mpr hlt)⟩
  · next h =>
    rw [ended_saf_quiet s (by exact hs.1)]
    exact ⟨slices_filtered u _, fun hle => absurd hle h,
      fun _ => ⟨tget_tset_same 0 s.saf.nextVector u (x.vector + ran), rfl⟩⟩

end

/-! ## TEST_PERIOD_EXPIRY (R472) -/

theorem exec_testPeriodExpiry_early {u : Nat} {s : State} (hs : settled s)
    (h : (frameTime s - tget 0 s.saf.passAt u).toNat < s.saf.testPeriodMs.toNat * 1000000) :
    exec (.testPeriodExpiry u) s = .next s := by
  have hl : testLate u s = s := if_pos (by rw [decide_eq_true h]; exact Bool.or_true _)
  exact (congrArg (ends s) hl).trans (ends_undisturbed hs (.refl s))

theorem exec_testPeriodExpiry_late {u : Nat} {s : State} (hs : settled s) (he : s.saf.testEnable = true) (ht : tested s u = true)
    (h : s.saf.testPeriodMs.toNat * 1000000 ≤ (frameTime s - tget 0 s.saf.passAt u).toNat) : ∃ t,
    exec (.testPeriodExpiry u) s = .next t ∧ (safUnit t u).testLate = true ∧ t.saf.testLateSeen = true ∧
      tget 0 t.saf.passAt u = frameTime s ∧ fenced t u = fenced s u := by
  have hl : testLate u s = setSafUnit u { safUnit s u with testLate := true }
      { s with saf := { s.saf with testLateSeen := true, passAt := tset 0 s.saf.passAt u (frameTime s) } } :=
    if_neg (by rw [he, ht, decide_eq_false (Nat.not_lt.mpr h)]; exact Bool.false_ne_true)
  refine ⟨_, (congrArg (ends s) hl).trans (ends_selvedge hs ⟨rfl, rfl, rfl, rfl, rfl, rfl⟩ rfl rfl), ?_, rfl,
    tget_tset_same _ _ _ _, ?_⟩
  · rw [safUnit_setSafUnit]
  · rw [fenced, safUnit_setSafUnit]
    rfl

end Sys2Proof.Machine
end

section
/-! PROOFS. The commands on faults and tests (R456, R471 to R474), and the obligation on the Selvedge assembled (O59). -/

namespace Sys2Proof.Machine

/-- The same for a command that completes. -/
theorem ends_selvedge_complete {c : Cmd} {st : Status} {res : List Nat} {unit : Nat} {s t : State} (hs : settled s)
    (hu : Undisturbed { s with saf := t.saf } t) (ht : t.saf.todo = s.saf.todo)
    (hd : t.saf.dangerOverflow = s.saf.dangerOverflow) :
    ends s (complete c st res unit t) = .next (complete c st res unit t) := by
  have h := complete_undisturbed c st res unit t
  refine ends_selvedge hs ⟨rfl, h.pins.trans hu.pins, h.fw.trans hu.fw, h.hang.trans hu.hang, h.pending.trans hu.pending,
    h.time.trans hu.time⟩ ?_ ?_
  · rw [h.saf, ht]
  · rw [h.saf, hd]

/-! ## SAF_READ and SAF_ACK (R473) -/

theorem collectRecords_congr {s t : State} (h : t.saf = s.saf) (p k : Nat) (seq : BitVec 32) (n : Nat) :
    collectRecords t p k seq n = collectRecords s p k seq n := by
  induction k generalizing seq n with
  | zero => rfl
  | succ k ih => simp only [collectRecords, h, ih]

/-- Records are written to a command's buffer, and it completes with their number and the next to ask for. -/
def recordsRead (c : Cmd) (s : State) : State :=
  let (rs, e) := collectRecords s c.part 1024 (firstSeq s (fieldLE c.packet 16 4)) (cmdLength c / 64)
  let (s, st) := if rs = [] then (s, Status.ok)
    else bufWrite selvedge c.part (param c 22 2 0 16) (fieldLE c.packet 24 8) (rs.flatMap recordBytes) s
  complete c st (if st = .ok then [rs.length, e.toNat] else []) selvedge s

theorem exec_safRead_eq (c : Cmd) (s : State) : exec (.safRead c) s =
    runCmd descSafRead c [(cmdLength c % 64 != 0, .lenRange)] s (recordsRead c) := rfl

theorem collectRecords_begun (c : Cmd) (s : State) (p k first n : Nat) :
    collectRecords (begun c s) p k (firstSeq (begun c s) first) n = collectRecords s p k (firstSeq s first) n := by
  have hfirst : firstSeq (begun c s) first = firstSeq s first := rfl
  rw [hfirst]
  exact collectRecords_congr (s := s) (t := begun c s) rfl p k _ n

section
variable {c : Cmd} {s : State} (ha : admits descSafRead c s) (hl : cmdLength c % 64 = 0)
include ha hl

theorem exec_safRead_runs : exec (.safRead c) s = ends s (recordsRead c (begun c s)) := by
  rw [exec_safRead_eq]
  exact runCmd_passes _ _ _ _ _ ha.1 ha.2 (firstFail_single (by rw [hl]; rfl))

end

section
variable {c : Cmd} {s : State} {rs : List Record} {q : BitVec 32} (ha : admits descSafRead c s) (hl : cmdLength c % 64 = 0)
  (hr : collectRecords s c.part 1024 (firstSeq s (fieldLE c.packet 16 4)) (cmdLength c / 64) = (rs, q))
include ha hl hr

theorem exec_safRead_none (h : rs = []) (hs : settled s) :
    exec (.safRead c) s = .next (complete c .ok [0, q.toNat] selvedge (begun c s)) := by
  have he : recordsRead c (begun c s) = complete c .ok [0, q.toNat] selvedge (begun c s) := by
    rw [recordsRead, collectRecords_begun, hr, h]
    rfl
  rw [exec_safRead_runs ha hl, he]
  exact ends_undisturbed hs (complete_touches_undisturbed _ _ _ _ (begun_undisturbed c s))

theorem exec_safRead {v : State} {st : Status} (hne : rs ≠ [])
    (hw : bufWrite selvedge c.part (param c 22 2 0 16) (fieldLE c.packet 24 8) (rs.flatMap recordBytes) (begun c s) = (v, st)) :
    exec (.safRead c) s = .next (ended s (complete c st (if st = .ok then [rs.length, q.toNat] else []) selvedge v)) := by
  have he : recordsRead c (begun c s) = complete c st (if st = .ok then [rs.length, q.toNat] else []) selvedge v := by
    rw [recordsRead, collectRecords_begun, hr]
    dsimp only
    rw [if_neg hne, hw]
  rw [exec_safRead_runs ha hl, he]
  rfl

end

section
variable {c : Cmd} {s : State} {q : BitVec 32} (hs : settled s) (hq : q = BitVec.ofNat 32 (fieldLE c.packet 16 4))
  (ha : admits descSafAck c s)
include hs hq ha

theorem exec_safAck (h0 : 0 ≤ (q - s.saf.head).toInt) (h1 : (q - s.saf.nextSeq).toInt ≤ 0) : exec (.safAck c) s =
    .next (complete c .ok [] selvedge { begun c s with saf := { s.saf with head := q } }) := by
  subst hq
  refine (runCmd_passes descSafAck c _ s _ ha.1 ha.2 (firstFail_single ?_)).trans
    (ends_selvedge_complete hs ⟨rfl, rfl, rfl, rfl, rfl, rfl⟩ rfl rfl)
  rw [decide_eq_false (by omega), decide_eq_false (by omega)]
  rfl

theorem exec_safAck_bounds (h : (q - s.saf.head).toInt < 0 ∨ 0 < (q - s.saf.nextSeq).toInt) :
    exec (.safAck c) s = .next (complete c .bounds [] (procUnit s c) (begun c s)) := by
  subst hq
  refine runCmd_refuses _ _ hs ha (if_pos ?_)
  rw [Bool.or_eq_true, decide_eq_true_eq, decide_eq_true_eq]
  exact h

end

/-! ## SAF_FENCE (R454, R474) -/

/-- A unit is fenced on a command, unless a report on it is on its way; the command completes. -/
def fencedByCommand (c : Cmd) (s : State) : State :=
  complete c .ok [] selvedge
    (if beingFenced s (cmdUnit c) then s else fenceOn (mkRecord s (cmdUnit c) 0x0704) (fencedWith (cmdUnit c)) s)

section
variable {c : Cmd} {s : State} {u : Nat} (hu : u = cmdUnit c) (ha : admits descSafFence c s) (hb : unitArgBad s u = false)
include hu ha hb

omit ha hb in
theorem exec_safFence_eq : exec (.safFence c) s = runCmd descSafFence c
    [(unitArgBad s u, .bounds), (unfenceable u, .denied), (fenced s u, .busy)] s (fencedByCommand c) := by
  rw [hu]
  rfl

theorem exec_safFence_denied (hn : unfenceable u = true) (hs : settled s) :
    exec (.safFence c) s = .next (complete c .denied [] (procUnit s c) (begun c s)) := by
  rw [exec_safFence_eq hu]
  exact runCmd_refuses _ _ hs ha (by rw [hb, hn]; rfl)

theorem exec_safFence_busy (hn : unfenceable u = false) (hf : fenced s u = true) (hs : settled s) :
    exec (.safFence c) s = .next (complete c .busy [] (procUnit s c) (begun c s)) := by
  rw [exec_safFence_eq hu]
  exact runCmd_refuses _ _ hs ha (by rw [hb, hn, hf]; rfl)

variable (hn : unfenceable u = false) (hf : fenced s u = false)
include hn hf

theorem exec_safFence_runs : exec (.safFence c) s = ends s (fencedByCommand c (begun c s)) := by
  rw [exec_safFence_eq hu]
  exact runCmd_passes _ _ _ _ _ ha.1 ha.2 (List.forall_mem_cons.mpr ⟨hb, firstFail_pair hn hf⟩)

theorem exec_safFence_waits (hw : beingFenced s u = true) (hs : settled s) :
    exec (.safFence c) s = .next (complete c .ok [] selvedge (begun c s)) := by
  have hw' : beingFenced (begun c s) (cmdUnit c) = true := hu ▸ hw
  rw [exec_safFence_runs hu ha hb hn hf, fencedByCommand, if_pos hw']
  exact ends_undisturbed hs (complete_touches_undisturbed _ _ _ _ (begun_undisturbed c s))

theorem exec_safFence (hw : beingFenced s u = false) : ∃ t, exec (.safFence c) s = .next t ∧
    t = ended s (complete c .ok [] selvedge (fenceOn (mkRecord s u 0x0704) (fencedWith u) (begun c s))) ∧
    fenced t u = true ∧ ∀ x ∈ dependents u, validUnit x = true → fenced t x = true := by
  have hv : validUnit u = true := by
    have hb' := hb
    simp only [unitArgBad, Bool.or_eq_false_iff, Bool.not_eq_false'] at hb'
    exact hb'.1.1
  have hw' : ¬ beingFenced (begun c s) (cmdUnit c) = true := by
    rw [← hu]
    exact Bool.eq_false_iff.mp hw
  have hself : u ∈ fencedWith u := List.mem_cons_self
  obtain ⟨-, hall⟩ := fenceOn_fences (r := mkRecord s u 0x0704) (s := begun c s) hself hf hv
  have hkeep : ∀ x, fenced (ended s (complete c .ok [] selvedge (fenceOn (mkRecord s u 0x0704) (fencedWith u) (begun c s)))) x =
      fenced (fenceOn (mkRecord s u 0x0704) (fencedWith u) (begun c s)) x := fun x => by
    rw [ended_fenced, (complete_reportsOnly _ _ _ _ _).fenced]
  refine ⟨_, ?_, rfl, ?_, fun x hx hxv => ?_⟩
  · rw [exec_safFence_runs hu ha hb hn hf, fencedByCommand, if_neg hw', ← hu]
    rfl
  · rw [hkeep]
    exact hall u hself hv
  · rw [hkeep]
    exact hall x (List.mem_cons_of_mem _ hx) hxv

end

/-! ## SAF_UNFENCE (R456, R474) -/

theorem fenced_unfence (s : State) (u : Nat) :
    fenced (setSafUnit u { safUnit s u with fenced := false } s) u = false ∧
      ∀ x, x ≠ u → fenced (setSafUnit u { safUnit s u with fenced := false } s) x = fenced s x := by
  refine ⟨?_, fun x hx => ?_⟩
  · rw [fenced, safUnit_setSafUnit]
  · rw [fenced, safUnit_setSafUnit_other (s := s) u _ x hx]
    rfl

theorem engineReturns_reportsOnly (u : Nat) (s : State) :
    ReportsOnly (setSafUnit u { safUnit s u with fenced := false } s) (engineReturns u s) := by
  refine foldl_reportsOnly (fun s x => ?_) _ _
  split
  · exact .refl s
  · split
    · exact moveHome_reportsOnly _ _ s
    · exact rfl

/-- A unit returns to service, with its record. -/
def returned (u : Nat) (s : State) : State :=
  let s := if classOf u = 1 then engineReturns u s else setSafUnit u { safUnit s u with fenced := false } s
  let s := if classOf u = 4 then schedule s else s
  record (mkRecord s u 0x0705) s

theorem returned_reportsOnly (u : Nat) (s : State) :
    ReportsOnly (setSafUnit u { safUnit s u with fenced := false } s) (returned u s) := by
  unfold returned
  dsimp only
  refine .trans ?_ (record_reportsOnly _ _)
  have h1 : ReportsOnly (setSafUnit u { safUnit s u with fenced := false } s)
      (if classOf u = 1 then engineReturns u s else setSafUnit u { safUnit s u with fenced := false } s) := by
    split
    · exact engineReturns_reportsOnly u s
    · exact .refl _
  split
  · exact h1.trans (schedule_reportsOnly _)
  · exact h1

/-- A Bobbin that returns is zeroed before it takes work. -/
def zeroedOnReturn (u : Nat) (s : State) : State :=
  if classOf u = 5 then
    modBobbin (32 * (dieOf u - 8) + instOf u) (fun b => { b with state := .zeroing, launch := none, resident := 0 }) s
  else s

theorem zeroedOnReturn_reportsOnly (u : Nat) (s : State) : ReportsOnly s (zeroedOnReturn u s) := by
  unfold zeroedOnReturn
  split
  · exact modBobbin_reportsOnly _ _ s
  · exact .refl s

theorem vectorsFor_reportsOnly {s t : State} (h : t.saf.pkg = s.saf.pkg) (u : Nat) : vectorsFor t u = vectorsFor s u := by
  unfold vectorsFor
  rw [h]

section
variable {c : Cmd} {s : State} {u : Nat} (hu : u = cmdUnit c) (ha : admits descSafUnfence c s) (hb : unitArgBad s u = false)
  (hf : fenced s u = true) (hp : unfencePermitted u = true) (hdep : (safUnit s u).dependent = false)
include hu ha hb hf hp hdep

theorem exec_safUnfence : ∃ v, exec (.safUnfence c none) s = .next (ended s (complete c .ok [vectorsFor s u] selvedge v)) ∧
    fenced v u = false ∧ (∀ x, x ≠ u → fenced v x = fenced s x) ∧
    (classOf u = 5 → (bobbinOf v (32 * (dieOf u - 8) + instOf u)).state = .zeroing) := by
  have hk := (returned_reportsOnly u (begun c s)).trans (zeroedOnReturn_reportsOnly u (returned u (begun c s)))
  obtain ⟨hself, hother⟩ := fenced_unfence (begun c s) u
  have hvec : vectorsFor (zeroedOnReturn u (returned u (begun c s))) u = vectorsFor s u :=
    vectorsFor_reportsOnly ((congrArg SafState.pkg hk).trans rfl) u
  have hrun : exec (.safUnfence c none) s = ends s (complete c .ok
      [vectorsFor (zeroedOnReturn u (returned u (begun c s))) u] selvedge (zeroedOnReturn u (returned u (begun c s)))) := by
    subst hu
    refine runCmd_passes descSafUnfence c _ s _ ha.1 ha.2 ?_
    exact List.forall_mem_cons.mpr ⟨hb, List.forall_mem_cons.mpr ⟨by rw [hf]; rfl,
      firstFail_pair (by rw [hp, hdep]; rfl) rfl⟩⟩
  rw [hvec] at hrun
  refine ⟨_, hrun, ?_, fun x hx => ?_, fun h5 => ?_⟩
  · rw [hk.fenced, hself]
  · rw [hk.fenced, hother x hx]
    rfl
  · rw [zeroedOnReturn, if_pos h5, bobbinOf_modBobbin, if_pos rfl]

theorem exec_safUnfence_fails (v : Nat) (hs : settled s) :
    exec (.safUnfence c (some v)) s = .next (complete c .checkFail [] (procUnit s c) (begun c s)) := by
  subst hu
  refine runCmd_refuses _ _ hs ha ?_
  rw [hb, hf, hp, hdep]
  rfl

end

/-! ## SAF_TEST_RUN and SAF_TEST_LOAD (R471, R474) -/

section
variable {c : Cmd} {s : State} {u : Nat} (hu : u = cmdUnit c) (ha : admits descSafTestRun c s) (hb : unitArgBad s u = false)
  (hs : settled s)
include hu ha hb hs

theorem exec_safTestRun_fenced (hf : fenced s u = true) :
    exec (.safTestRun c none) s = .next (complete c .fenced [] (procUnit s c) (begun c s)) := by
  subst hu
  exact runCmd_refuses _ _ hs ha (by rw [hb, hf]; rfl)

variable (hf : fenced s u = false)
include hf

theorem exec_safTestRun_busy (hw : unitBusy s u = true) :
    exec (.safTestRun c none) s = .next (complete c .busy [] (procUnit s c) (begun c s)) := by
  subst hu
  exact runCmd_refuses _ _ hs ha (by rw [hb, hf, hw]; rfl)

variable (hw : unitBusy s u = false)
include hw

theorem exec_safTestRun_passes : exec (.safTestRun c none) s = .next (complete c .ok [vectorsFor s u] selvedge { begun c s with
    saf := { s.saf with nextVector := tset 0 s.saf.nextVector u 0, passAt := tset 0 s.saf.passAt u (frameTime s) } }) := by
  subst hu
  exact (runCmd_passes descSafTestRun c _ s _ ha.1 ha.2 (List.forall_mem_cons.mpr ⟨hb, firstFail_pair hf hw⟩)).trans
    (ends_selvedge_complete hs ⟨rfl, rfl, rfl, rfl, rfl, rfl⟩ rfl rfl)

theorem exec_safTestRun_fails (v : Nat) : ∃ t r, exec (.safTestRun c (some v)) s = .next t ∧
    t = ended s (complete c .checkFail [] selvedge (testFails u v (begun c s))) ∧
    t.saf.detected = s.saf.detected ++ [r] ∧ r.unit = u ∧ r.cause = 0x0703 ∧ r.info0 = v := by
  have hsaf := (complete_undisturbed c .checkFail [] selvedge (testFails u v (begun c s))).saf
  have htodo : (complete c .checkFail [] selvedge (testFails u v (begun c s))).saf.todo =
      [.record { mkRecord (begun c s) u 0x0703 with info0 := v }] := by
    rw [hsaf]
    show s.saf.todo ++ _ = _
    rw [hs.1]
    rfl
  refine ⟨_, { mkRecord (begun c s) u 0x0703 with info0 := v }, ?_, rfl, ?_, rfl, rfl, rfl⟩
  · subst hu
    exact runCmd_passes descSafTestRun c _ s _ ha.1 ha.2 (List.forall_mem_cons.mpr ⟨hb, firstFail_pair hf hw⟩)
  · rw [ended_saf_detection s htodo rfl rfl, hsaf]
    rfl

end

/-- What is wrong with a package of vectors. -/
def packageBad (bs : List Byte) (s : State) : Option BadImage :=
  if bs.length = 4096 + imgBodyLen bs then verifyImage true (minSvn s) bs else some .format

theorem packageBad_length {bs : List Byte} (s : State) (h : bs.length ≠ 4096 + imgBodyLen bs) :
    packageBad bs s = some .format := by
  rw [packageBad, if_neg h]

theorem packageBad_verifies {bs : List Byte} (s : State) (h : bs.length = 4096 + imgBodyLen bs) :
    packageBad bs s = verifyImage true (minSvn s) bs := by
  rw [packageBad, if_pos h]

/-- The package a buffer holds. -/
def packageOf (bs : List Byte) : TestPkg :=
  { svn := imgSvn bs, build := imgBuild bs, classMask := fieldLE bs 32 2, vectors := fieldLE bs 34 2, bytes := bs }

/-- A package that verifies replaces the loaded one. -/
def packageTaken (c : Cmd) (bs : List Byte) (s : State) : State :=
  match packageBad bs s with
  | some b => complete c (badStatus b) [] selvedge s
  | none => complete c .ok [bits (imgBuild bs) 0 32, bits (imgBuild bs) 32 32] selvedge
      { s with saf := { s.saf with pkg := some (packageOf bs), nextVector := [] } }

/-- SAF_TEST_LOAD once its checks have passed. -/
def packageLoaded (c : Cmd) (s : State) : State :=
  match bufRead selvedge c.part (param c 22 2 0 16) (fieldLE c.packet 24 8) (cmdLength c) c.ext s with
  | (s, .ok, bs) => packageTaken c bs s
  | (s, st, _) => complete c st [] selvedge s

/-- A build number has 64 bits. -/
theorem imgBuild_lt (bs : List Byte) : imgBuild bs < 2 ^ 64 := by
  have hlen : ((bs.drop 24).take 8).length ≤ 8 := List.length_take_le _ _
  calc imgBuild bs < 256 ^ ((bs.drop 24).take 8).length := leNat_lt _
    _ ≤ 256 ^ 8 := Nat.pow_le_pow_right (by decide) hlen
    _ = 2 ^ 64 := by decide

section
variable {c : Cmd} {s v : State} {bs : List Byte} (ha : admits descSafTestLoad c s)
  (hr : bufRead selvedge c.part (param c 22 2 0 16) (fieldLE c.packet 24 8) (cmdLength c) c.ext (begun c s) = (v, .ok, bs))
include ha hr

theorem exec_safTestLoad_reads : exec (.safTestLoad c) s = .next (ended s (packageTaken c bs v)) := by
  have hrun : exec (.safTestLoad c) s = ends s (packageLoaded c (begun c s)) :=
    runCmd_passes descSafTestLoad c _ s _ ha.1 ha.2 (List.forall_mem_nil _)
  rw [hrun, packageLoaded, hr]
  rfl

theorem exec_safTestLoad_bad {x : BadImage} (hx : packageBad bs v = some x) :
    exec (.safTestLoad c) s = .next (ended s (complete c (badStatus x) [] selvedge v)) := by
  rw [exec_safTestLoad_reads ha hr, packageTaken, hx]

theorem exec_safTestLoad (hx : packageBad bs v = none) : ∃ p,
    exec (.safTestLoad c) s = .next (ended s (complete c .ok [imgBuild bs % 2 ^ 32, imgBuild bs / 2 ^ 32] selvedge
      { v with saf := { v.saf with pkg := some p, nextVector := [] } })) ∧
    p.bytes = bs ∧ p.build = imgBuild bs ∧ p.classMask = fieldLE bs 32 2 := by
  refine ⟨packageOf bs, ?_, rfl, rfl, rfl⟩
  have hlow : bits (imgBuild bs) 0 32 = imgBuild bs % 2 ^ 32 := by
    rw [bits, Nat.pow_zero, Nat.div_one]
  have hhigh : bits (imgBuild bs) 32 32 = imgBuild bs / 2 ^ 32 := by
    have hlt := imgBuild_lt bs
    exact Nat.mod_eq_of_lt (by omega)
  rw [exec_safTestLoad_reads ha hr, packageTaken, hx]
  dsimp only
  rw [hlow, hhigh]

end

/-- Settles O59, clause by clause: lockstep, detections and their fences, copies compared, test slices and passes, and the class
0x09 commands. -/
theorem selvedgeFencesTestsAndRecords : Obligations.SelvedgeFencesTestsAndRecords := by
  refine ⟨fun u i s hd hv => exec_lockstepMiscompare hd hv, fun s => ⟨exec_faultReport_none, fun r rest hd hc =>
      ⟨exec_faultReport_repeats hd hc, exec_faultReport_fences hd hc⟩⟩, fun n upset s _ hi hq => ?_,
    fun h upset s _ hi hq hd => ?_, fun u s => exec_testSliceStart, fun u ran s x hs hx => ?_, fun u s hs he ht => ?_,
    fun c s rs q ha hl hr => ?_, fun c s q hs hq ha => ?_, fun c s u hu ha hb => ?_, fun c s u hu ha hb hf hp hdep => ?_,
    fun c s u hu ha hb hs => ?_, fun c s v bs ha hr => ?_⟩
  · refine ⟨exec_copyCompare_early (.inl (classOf_controller n)) hi hq, fun hd =>
      ⟨fun hu hgot hctx => ?_, exec_copyCompare_controllerReloads hi hq hd⟩⟩
    exact exec_copyCompare_same (.inl (classOf_controller n)) hi hq hd hu ((copyIntact_controller n s).mpr ⟨hgot, hctx⟩)
  · refine ⟨fun hu hctx => ?_, exec_copyCompare_heddleReloads hi hq hd⟩
    exact exec_copyCompare_same (.inr (classOf_heddle h)) hi hq hd hu ((copyIntact_heddle h s).mpr hctx)
  · exact ⟨exec_testSliceEnd_fails hx hs, exec_testSliceEnd_yields hx hs⟩
  · exact ⟨exec_testPeriodExpiry_early hs, exec_testPeriodExpiry_late hs he ht⟩
  · exact ⟨exec_safRead_none ha hl hr, fun v st => exec_safRead ha hl hr⟩
  · exact ⟨exec_safAck hs hq ha, exec_safAck_bounds hs hq ha⟩
  · exact ⟨exec_safFence_denied hu ha hb, fun hn hf hw => exec_safFence_waits hu ha hb hn hf hw, exec_safFence hu ha hb,
      exec_safFence_busy hu ha hb⟩
  · exact ⟨exec_safUnfence hu ha hb hf hp hdep, exec_safUnfence_fails hu ha hb hf hp hdep⟩
  · exact ⟨exec_safTestRun_fenced hu ha hb hs, fun hf => ⟨fun hw =>
      ⟨exec_safTestRun_passes hu ha hb hs hf hw, exec_safTestRun_fails hu ha hb hs hf hw⟩, exec_safTestRun_busy hu ha hb hs hf⟩⟩
  · exact ⟨fun hlen => exec_safTestLoad_bad (x := .format) ha hr (packageBad_length v hlen),
      fun x hlen hx => exec_safTestLoad_bad ha hr ((packageBad_verifies v hlen).trans hx),
      fun hlen hx => exec_safTestLoad ha hr ((packageBad_verifies v hlen).trans hx)⟩

end Sys2Proof.Machine
end
